-- ==== Sys2Proof/Word.lean ====
section
/-!
DEFINITION. The words of the SRB-4860: register words, bytes, 4 KiB blocks, tagged data words of a cell,
the masters that reach register pages (R28), and the names of the dies (R13, R198).
-/

namespace Sys2Proof

/-- A 32-bit register word (R7, R8). -/
abbrev Word := BitVec 32

/-- One byte. -/
abbrev Byte := BitVec 8

/-- The contents of one 4,096-byte logical block (R79, R197), byte k in bits [8k+7:8k]. -/
abbrev Block := BitVec 32768

/-- A function of the PCIe endpoint: 0 the PF, 1 to 15 the VFs (R76). -/
abbrev Fun := Fin 16

/-- A cell, 0 to 40; cell 40 is the warden (R13). -/
abbrev CellId := Fin 41

/-- A NAND die, number 8 × channel + way (R198). -/
abbrev Die := Fin 128

/-- A media channel, 00 to 15. -/
abbrev Chan := Fin 16

/-- The service classes of R43, 0 to 3. -/
abbrev Class := Fin 4

/-- The five kinds of master that reach the register pages (R28); a cell is 0 to 39, cell 40 is the warden. -/
inductive Master where
  | pf
  | vf (n : Fun)
  | sideband
  | cell (n : Fin 40)
  | warden
  deriving DecidableEq, Repr

/-- The NAND programming modes (R198): pSLC, TLC and QLC. -/
inductive Mode where
  | pslc
  | tlc
  | qlc
  deriving DecidableEq, Repr

/-- A tagged data word of a cell: tag in bits [35:32], value in bits [31:0] (R133). -/
structure TWord where
  tag : BitVec 4
  val : Word
  deriving DecidableEq, Repr

/-- A tagged word VOID with value 0 (R138). -/
def TWord.void : TWord := ⟨0, 0⟩

/-- A word tagged UNS (R134). -/
def TWord.uns (v : Word) : TWord := ⟨2, v⟩

/-- How the data pointer of a command names host memory (R84): the addresses of the PRP entries in order, or the address and
length of each data block of an SGL with the descriptor types it holds. -/
inductive DataPtr where
  | prp (pages : List (BitVec 64))
  | sgl (descs : List (BitVec 64 × Nat)) (types : List (BitVec 4))
  deriving DecidableEq, Repr

/-- The 32-bit word at byte offset 4k of a list of bytes, little-endian (R7). -/
def wordOf (b0 b1 b2 b3 : Byte) : Word := b3 ++ b2 ++ b1 ++ b0

/-- Bits [hi:lo] of a word as a number. -/
def bits (w : Word) (hi lo : Nat) : Nat := (w.toNat >>> lo) % 2 ^ (hi + 1 - lo)

/-- One bit of a word. -/
def bit (w : Word) (k : Nat) : Bool := w.getLsbD k

/-- The mask of bits [hi:lo]. -/
def fieldMask (hi lo : Nat) : Word := BitVec.ofNat 32 ((2 ^ (hi + 1 - lo) - 1) <<< lo)

/-- A word with bits [hi:lo] replaced. -/
def setBits (w : Word) (hi lo : Nat) (v : Nat) : Word :=
  (w &&& ~~~fieldMask hi lo) ||| (BitVec.ofNat 32 ((v % 2 ^ (hi + 1 - lo)) <<< lo))

/-- A word with one bit replaced. -/
def setBit (w : Word) (k : Nat) (v : Bool) : Word := setBits w k k v.toNat

/-- Rounding division upward. -/
def ceilDiv (a b : Nat) : Nat := if b = 0 then 0 else (a + b - 1) / b

end Sys2Proof
end

