-- ==== Sys2Proof/Machine/Types.lean ====
section
/-!
DEFINITION. The types of what the block holds and of what its commands carry, chapter by chapter.
-/

namespace Sys2Proof.Machine

/-- A sparse table in ONE canonical form: keys strictly rising, no entry equal to what an unlisted key reads as. -/
abbrev SMap (α : Type) := List (Nat × α)

/-- A cell that reaches the boundary of a requested hold, and the cycles that its stalled instruction has waited (R145, R151). -/
structure HoldAt where
  cell   : CellId
  waited : Nat
  deriving DecidableEq, Repr

/-- A command in flight is named by its function, submission queue and identifier (R54, R85). -/
structure CmdRef where
  fn   : Fun
  sqid : Nat
  cid  : BitVec 16
  deriving DecidableEq, Repr

/-- A transfer of a command that fails on the link, and whether its TLP is poisoned (R84, R98). -/
structure FailedTransfer where
  ref      : CmdRef
  poisoned : Bool
  deriving DecidableEq, Repr

/-- NVMe status as a completion carries it: status code type, status code, Do Not Retry, dword 0 and dword 1 (R94). -/
structure Status where
  sct : Nat
  sc  : Nat
  dnr : Bool
  dw0 : Word
  dw1 : Word
  deriving DecidableEq, Repr

/-- Who answers a register access, as a side-band response, a bus trap or a PCIe completion does (R33). -/
inductive BusReply where
  | ok
  | data (v : Word)
  | completerAbort
  | discarded
  | busTrap
  | accessError
  | offError
  deriving DecidableEq, Repr

/-- What the device sends outward: the model's own record, newest last. Nothing in the device reads it. -/
inductive Out where
  | completion (fn : Fun) (cqid slot : Nat) (sqid sqHead : Nat) (cid : BitVec 16) (phase : Bool) (st : Status)
  | msix (fn : Fun) (vec : Nat)
  | hostWrite (fn : Fun) (addr : BitVec 64) (bytes : List Byte)
  | blocks (c : CmdRef) (bs : List Block)
  | reply (m : Master) (r : BusReply)
  | sideband (eid : Byte) (bytes : List Byte)
  | sidebandAlert (level : Bool)
  | flit (dst src cls kind sid gen pos : Nat) (last pois : Bool) (payload : List Byte)
  | toField (bytes : List Byte)
  | toHost (bytes : List Byte)
  | can (bus : Nat) (ident : Word) (ctl dlc : Nat) (data : List Byte)
  | wakeOut (n : Nat) (level : Bool)
  | nand (ch : Nat) (cycles : List (BitVec 16))
  | i3c (bytes : List Byte)
  deriving DecidableEq, Repr

/-! ## Register pages and time (02) -/

/-- A joined counter's latched high word, held for one master (R41, R42, R316). -/
structure Latch where
  page   : Nat
  off    : Nat
  master : Master
  val    : Word
  deriving DecidableEq, Repr

/-- The register pages: every 32-bit register of the PF map and of the VF windows, keyed page × 4096 + offset,
unlisted registers at their reset values; the latches; the device time (R25, R41, R42). -/
structure Pages where
  regs     : SMap Word
  latches  : List Latch
  dtime    : BitVec 64
  aonPhase : Nat
  deriving DecidableEq, Repr

/-! ## Controllers and commands (04) -/

/-- A created submission queue with its admission default (R52, R82, R99): `doomed` are the places of entries that an Abort
completed before they were fetched (R86); `bells` the entries not yet fetched by the doorbell write that covered them, with its time in ns
(R44); `del` the Delete that waits for the queue's completions (R483). -/
structure SQueue where
  qid    : Nat
  size   : Nat
  cqid   : Nat
  base   : BitVec 64
  head   : Nat
  tail   : Nat
  dclass : Class
  fixed  : Bool
  ddl    : Nat
  doomed : List Nat
  bells  : List (Nat × Nat)
  del    : Option (BitVec 16)
  deriving DecidableEq, Repr

/-- A created completion queue (R82, R99); `ien` says whether completions send the vector. -/
structure CQueue where
  qid   : Nat
  size  : Nat
  base  : BitVec 64
  head  : Nat
  tail  : Nat
  phase : Bool
  vec   : Nat
  ien   : Bool
  deriving DecidableEq, Repr

/-- One entry of log page C1h (R97). -/
structure DwfEntry where
  seq   : BitVec 32
  nsid  : Nat
  slba  : Nat
  nlb   : Nat
  cause : Nat
  told  : Bool
  time  : BitVec 64
  deriving DecidableEq, Repr

/-- One entry of log page C3h (R97). -/
structure LateEntry where
  sqid     : Nat
  cid      : BitVec 16
  cls      : Class
  deadline : Nat
  actual   : Nat
  deriving DecidableEq, Repr

/-- One entry of log page 01h: the queue, the command, its status (R94). -/
structure ErrEntry where
  count : Nat
  sqid  : Nat
  cid   : BitVec 16
  sct   : Nat
  sc    : Nat
  deriving DecidableEq, Repr

/-- The current value of a function's features (R81). -/
structure Features where
  arb      : Word
  power    : Word
  errRec   : Word
  tempThr  : SMap Word
  coalThr  : Nat
  coalTime : Nat
  vecCd    : List Nat
  async    : Word
  deriving DecidableEq, Repr

/-- Completions waiting to be signalled on one MSI-X vector, and when the first began to wait (R81). -/
structure Coal where
  vec   : Nat
  count : Nat
  since : BitVec 64
  deriving DecidableEq, Repr

/-- The NVMe controller of one function (R24, R78, R81, R89, R97, R447). -/
structure Ctrl where
  cc        : Word
  csts      : Word
  aqa       : Word
  asq       : BitVec 64
  acq       : BitVec 64
  intms     : Word
  msixEn    : Bool
  msixFMask : Bool
  msixTab   : SMap Word
  pba       : BitVec 64
  d3hot     : Bool
  sqs       : List SQueue
  cqs       : List CQueue
  pool      : List Nat
  fetching  : Bool
  resetting : Bool
  feat      : Features
  coal      : List Coal
  deriving DecidableEq, Repr

/-- The logs and asynchronous events of one function (R80, R92, R97). -/
structure FnLogs where
  aers    : List (BitVec 16)
  asyncQ  : List (Nat × Nat × Nat)
  masked  : List Nat
  err     : List ErrEntry
  errCnt  : Nat
  changed : List Nat
  dwf     : List DwfEntry
  dwfLost : Nat
  dwfNext : BitVec 32
  late    : List LateEntry
  selfTst : List (Nat × Nat × Nat)
  test    : Option Nat
  retry   : Nat
  deriving DecidableEq, Repr

/-- Which command a command in flight is. -/
inductive CmdKind where
  | read | write | compare | verify | copy | writeZeroes | dsm | flush | execute | memRead | memWrite | append | admin
  deriving DecidableEq, Repr

/-- Where a command in flight stands (R85, R89): held by an earlier one; admitted and started, waiting for host data;
at work inside the device; ended with a status and waiting for its completion queue. `silent` says that no completion
is posted (R89, R370). -/
inductive CmdPhase where
  | held
  | awaitData
  | room
  | working
  | done (st : Status)
  deriving DecidableEq, Repr

/-- A range of blocks of one namespace that a command addresses; for SLM, 4 KiB granules (R85, R102). -/
structure Range where
  nsid : Nat
  lba  : Nat
  nlb  : Nat
  deriving DecidableEq, Repr

/-- A command in flight (R55, R62, R85). Times are device times in nanoseconds. `got` are the blocks that have come from
media or staging, none for one that could not be recovered; `need` the staging versions a Flush waits for and `fault` the
newest C1h entry that records a write it covers (R88); `landed` says that all data of a write or compare has arrived; `segs` are
the pieces of host memory that its data pointer names; `floor` says that BUFSTATE was FLOOR at its admission (R68). Phase `room` is a
write whose data waits for room in staging (R210). -/
structure Cmd where
  ref      : CmdRef
  kind     : CmdKind
  cls      : Class
  ordered  : Bool
  seq      : Nat
  start    : Nat
  deadline : Nat
  reads    : List Range
  writes   : List Range
  dies     : List Nat
  phase    : CmdPhase
  started  : Bool
  silent   : Bool
  bytes    : Nat
  slma     : Nat
  got      : List (Nat × Nat × Option Block)
  data     : List Block
  need     : List Nat
  fault    : Option (BitVec 32)
  admitted : Bool
  landed   : Bool
  cqWait   : Bool
  segs     : List (BitVec 64 × Nat)
  floor    : Bool
  deriving DecidableEq, Repr

/-- A namespace of NSIDs 2 to 32 (R80, R101, R197, R312). -/
inductive NsKind where
  | nvm | slm | cp
  deriving DecidableEq, Repr

structure Ns where
  nsid   : Nat
  kind   : NsKind
  cap    : Nat
  owner  : Option Fun
  base   : Nat
  deriving DecidableEq, Repr

/-- An append admitted to NSID 1 and not yet durable (R96, R482): its place in the order of admission (R66) and the die that takes it
(R50). -/
structure AppendRec where
  lba   : Nat
  nlb   : Nat
  who   : Option CmdRef
  zero  : Bool
  seq   : Nat
  die   : Option Nat
  deriving DecidableEq, Repr

/-- The evidence namespace (R95 to R97, R482). -/
structure Evid where
  base      : Nat
  cap       : Nat
  append    : Nat
  published : Nat
  attached  : List Fun
  open_     : List AppendRec
  fieldCnt  : Nat
  hostCnt   : Nat
  deriving DecidableEq, Repr

/-- A Firmware Commit whose image signature is being checked or whose activation runs (R90, R91). -/
structure Commit where
  ref    : CmdRef
  action : Nat
  slot   : Nat
  step   : Nat
  deriving DecidableEq, Repr

/-- An image in a firmware slot: its bytes, its release word, and whether it reads intact (R90, R434). -/
structure Image where
  pieces  : SMap Byte
  release : Word
  good    : Bool
  deriving DecidableEq, Repr

/-- Firmware download and activation (R90, R91). -/
structure Firmware where
  slotA   : Image
  slotB   : Image
  down    : SMap Byte
  commit  : Option Commit
  self    : Option (Nat × Nat)
  deriving DecidableEq, Repr

/-- The PCIe link and the SR-IOV state (R76, R98). -/
structure Link where
  up      : Bool
  pm      : Nat
  speed   : Nat
  width   : Nat
  perst   : Bool
  vfEn    : Bool
  numVfs  : Nat
  deriving DecidableEq, Repr

/-- The host side: controllers, logs, commands in flight, namespaces, evidence, firmware and link (04). -/
structure HostSide where
  ctrls   : List Ctrl
  logs    : List FnLogs
  cmds    : List Cmd
  nss     : List Ns
  evid    : Evid
  fw      : Firmware
  link    : Link
  nextSeq : Nat
  deriving DecidableEq, Repr

/-! ## Forecast (03) -/

/-- A resource of the ledger (R57, R75): a die; the dies of the ways that are not quiet, taken together (R60); a channel;
all channels together; the host link inbound and outbound; the cipher lanes; DRAM; a compute cell. -/
inductive Res where
  | die (n : Nat) | openDies | chan (n : Nat) | allChans | hostIn | hostOut | cipher | dram | cell (n : Nat)
  deriving DecidableEq, Repr

/-- Who put a charge into the ledger; `merge` is a write's share for the merges that its drain will make (R207). -/
inductive ChargeOwner where
  | cmd (r : CmdRef)
  | merge (r : CmdRef)
  | stage (version : Nat)
  | work (id : Nat)
  | pause
  deriving DecidableEq, Repr

/-- Committed work in nanoseconds of one resource at full rate, at one class (R56). -/
structure Charge where
  owner : ChargeOwner
  cls   : Class
  res   : Res
  ns    : Rat
  deriving DecidableEq, Repr

/-- A function's Evidential slice: MB/s and hundreds of commands per second (R73, R74). -/
structure Slice where
  mbps : Nat
  cmds : Nat
  deriving DecidableEq, Repr

/-- The two token buckets of a function or of field capture (R49): bytes, and commands in units of 1/10,000. -/
structure Bucket where
  bytes : Nat
  cmds  : Nat
  deriving DecidableEq, Repr

/-- A housekeeping step that waits: 0 garbage collection, 1 folding, 2 demotion, 3 refresh, 4 retirement, 5 checkpoint, with what it
names. A refused class 3 step waits for the next scheduling interval (R69); class 1 committed work waits until `after`, the latest
deadline among the admissions made before it (R68). -/
structure House where
  kind  : Nat
  die   : Nat
  block : Nat
  cls   : Class
  after : Nat
  deriving DecidableEq, Repr

/-- The admission controller (03). Bucket 16 is that of field capture; `house` are the housekeeping steps that wait. -/
structure Adm where
  slices   : List Slice
  buckets  : List Bucket
  refilled : BitVec 64
  consts   : SMap Word
  charges  : List Charge
  spacing  : List (Nat × Nat)
  latest   : Nat
  bound    : List CmdRef
  house    : List House
  deriving DecidableEq, Repr

/-! ## Computational programs (05) -/

/-- A memory range descriptor (R107). -/
structure RangeDesc where
  ns     : Bool
  output : Bool
  nsid   : Nat
  start  : Nat
  length : Nat
  deriving DecidableEq, Repr

/-- The header of a .kco object, as R106 lays it out. -/
structure Kco where
  uses      : Nat
  entry     : Nat
  codeWords : Nat
  dataBase  : Nat
  dataWords : Nat
  spInit    : Nat
  spLim     : Nat
  cpb       : Nat
  fixed     : Nat
  opb       : Nat
  ofixed    : Nat
  paramMax  : Nat
  deriving DecidableEq, Repr

/-- An execution admitted to a compute cell (R110 to R116): `image` is the object it was admitted with; `step` is 0 while it waits
for its cell, 1 while it runs; `res` is its status while its namespace output is being committed, of which `done` blocks are in staging. -/
structure ExecRec where
  ref      : CmdRef
  cell     : Nat
  pind     : Nat
  contract : Nat
  outBound : Nat
  inputs   : List RangeDesc
  outputs  : List RangeDesc
  params   : List Byte
  inlen    : Nat
  deadline : BitVec 64
  step     : Nat
  done     : Nat
  image    : SMap Byte
  res      : Option Status
  deriving DecidableEq, Repr

/-- Programs, range sets and executions (05); `active` are the downloaded programs that are active and the built-in ones that are
not; `held` is the namespace output of executions, outside every namespace, by cell
× 2^32 + position (R115). -/
structure Prog where
  slots  : List (Fun × Nat × SMap Byte)
  active : List (Fun × Nat)
  sets   : List (Fun × Nat × List RangeDesc)
  execs  : List ExecRec
  held   : SMap Byte
  deriving DecidableEq, Repr

/-! ## Cells (06, 07, 08) -/

/-- A pending multiplier product (R142, R143): the slots left and what MPL, MPH, S and V become. -/
structure Product where
  left : Nat
  lo   : TWord
  hi   : TWord
  sat  : Bool
  deriving DecidableEq, Repr

/-- The special registers of a core but for the PC (R139). -/
structure Special where
  sp        : BitVec 16
  splim     : BitVec 16
  rc        : BitVec 16
  mpl       : TWord
  mph       : TWord
  flags     : BitVec 6
  trapCause : Word
  trapPc    : BitVec 14
  cycBud    : Word
  stat      : BitVec 4
  deriving DecidableEq, Repr

/-- A stream-unit slot (R185 to R188). `c` is released (input) or published (output); `d` delivered or drained;
`landed` the flits that lie beyond the delivered prefix, by position ÷ 64; `credit` the destination's credit of OP 4. -/
structure SuSlot where
  active : Bool
  done   : Bool
  err    : Bool
  op     : Nat
  cls    : Nat
  peer   : Nat
  sid    : Nat
  length : Nat
  addr   : Nat
  target : Nat
  c      : Nat
  d      : Nat
  landed : List (Nat × Nat)
  credit : Nat
  deriving DecidableEq, Repr

/-- A job outstanding at a job port (R169): its descriptor's words and address, its status once it has ended or is held, and
how far an engine has come with it: entries or bytes done, and the state it carries. `lost` says that its descriptor never reached the engine:
the cell's router dropped it (R182). -/
structure Job where
  words  : List TWord
  base   : Nat
  status : Option Nat
  done   : Nat
  acc    : List Byte
  lost   : Bool
  deriving DecidableEq, Repr

/-- A job port: whether vendor firmware enabled it for the execution, its unit, and its job (R169). -/
structure Port where
  enabled : Bool
  unit    : Nat
  job     : Option Job
  deriving DecidableEq, Repr

/-- Why an issued instruction of a core waits (R128, R169). -/
inductive Stall where
  | none | input | output | port | fabric
  deriving DecidableEq, Repr

/-- The run state of a core (R148, R150, R151, R153, R173): held, hold requested, fill under way, stopped by a double trap,
waiting in IDLE, stalled, the repeat prefix at the PC has issued, an iteration has run since it issued, the EXT payloads fetched for that
iteration (R174), generation. -/
structure CoreRun where
  held       : Bool
  holdReq    : Bool
  scrubbing  : Bool
  dbl        : Bool
  idle       : Bool
  stall      : Stall
  latched    : Bool
  iterated   : Bool
  exts       : List (BitVec 10)
  gen        : BitVec 8
  deriving DecidableEq, Repr

/-- One cell (06 to 08). -/
structure Cell where
  im    : SMap (BitVec 14)
  dm    : SMap TWord
  sb0   : SMap Byte
  sb1   : SMap Byte
  w     : List TWord
  pc    : BitVec 14
  sp    : Special
  mul   : Option Product
  run   : CoreRun
  su0   : SuSlot
  su1   : SuSlot
  suL   : SuSlot
  ports : List Port
  deriving DecidableEq, Repr

/-! ## The fabric (08) -/

/-- An entry of the role table (R191). -/
structure Role where
  role  : Nat
  fn    : Nat
  slot  : Nat
  allow : Nat
  deriving DecidableEq, Repr

/-- A reassignment in progress: the cell, the step of R193 it has reached, and what it becomes. -/
structure Reassign where
  cell   : Nat
  step   : Nat
  target : Role
  old    : Role
  deriving DecidableEq, Repr

/-- A job that a codec unit has begun (R190): the cell that gave it, the input it has taken out of the stream buffer and how much of that is
released, the output it has made and how much of that is published, and once it is decided its status and CONSUMED. -/
structure CodecJob where
  cell  : CellId
  taken : List Byte
  rel   : Nat
  made  : List Byte
  put   : Nat
  res   : Option (Nat × Nat)
  deriving DecidableEq, Repr

/-- The role table, reassignments, the Evidential pause and the codec units (08). `pause` is the device time at which the
pause of R194 began; `codec` are the jobs that each unit has begun, the one that took it last first. -/
structure Fabric where
  roles    : List Role
  reassign : List Reassign
  pause    : Option (BitVec 64)
  codec    : List (List CodecJob)
  deriving DecidableEq, Repr


/-! ## Flash translation and media care (09, 10) -/

/-- A unit tag (R212). -/
structure UnitTag where
  kind   : Nat
  nsid   : Nat
  valid  : Nat
  epoch  : BitVec 32
  wseq   : BitVec 64
  lba0   : Nat
  erases : Nat
  split  : Nat
  lbas   : List Nat
  deriving DecidableEq, Repr

/-- A stripe header (R246). -/
structure StripeHdr where
  sseq     : BitVec 64
  ch       : Nat
  role     : Nat
  way      : Nat
  spare    : Bool
  part     : Bool
  present  : Nat
  replaces : Option (Nat × Nat × Nat)
  deriving DecidableEq, Repr

/-- One programmed 64 KiB page set: unit tag, stripe header, the parity of the tags that a parity member holds in the tag's
place (R247), and its sixteen 4 KiB codewords as stored (R212, R246, R265). -/
structure PageSet where
  tag    : UnitTag
  hdr    : Option StripeHdr
  parity : List Byte
  words  : List Block
  deriving DecidableEq, Repr

/-- A journal record (R214). Locations are the 40-bit journal locations of R198. -/
inductive JRec where
  | pad
  | map (nsid count : Nat) (epoch : BitVec 32) (lba loc : Nat)
  | reloc (nsid count : Nat) (epoch : BitVec 32) (lba loc old : Nat)
  | promote (nsid lba group pool : Nat)
  | dealloc (nsid count lba : Nat)
  | lost (nsid count lba cause : Nat)
  | staged (nsid count : Nat) (wseq : BitVec 32) (lba : Nat)
  | opened (die block mode : Nat)
  | erase (die block count : Nat)
  | epoch (nsid key : Nat) (e : BitVec 32)
  | nschg (nsid count base size : Nat)
  | ckpt (slot : Nat) (j0 : BitVec 64)
  deriving DecidableEq, Repr

/-- A journal page and how far it has come: which copies are programmed and verified, and where they lie (R214). -/
structure JPage where
  jseq     : BitVec 64
  recs     : List JRec
  flush    : Bool
  final    : Bool
  shutdown : Bool
  ckptJ0   : BitVec 64
  copyA    : Bool
  copyB    : Bool
  durable  : Bool
  atA      : Option (Nat × Nat)
  atB      : Option (Nat × Nat)
  deriving DecidableEq, Repr

/-- An erase block of the block table (R213, R231, R233, R271, R275). `state`: 0 free and erased, 1 open, 2 in use,
3 to be erased, 4 being erased, 5 retired. `next` is the next page set of an open block; `drawn` says that the block came from the
evidence spare pool (R230). -/
structure Blk where
  erases  : Nat
  mode    : Mode
  state   : Nat
  next    : Nat
  stream  : Nat
  roff    : Nat
  refresh : Bool
  first   : BitVec 64
  drawn   : Bool
  deriving DecidableEq, Repr

/-- A block in power-protected staging (R209 to R211); `floor` says that BUFSTATE was FLOOR when its write was admitted (R68). -/
structure Staged where
  nsid    : Nat
  lba     : Nat
  version : BitVec 64
  data    : Block
  fn      : Fun
  ref     : CmdRef
  wseq    : BitVec 32
  issued  : Bool
  evid    : Bool
  floor   : Bool
  deriving DecidableEq, Repr

/-- A copy of the map and the block table, as a checkpoint holds it (R215). -/
structure MapImage where
  coarse : SMap Word
  fine   : SMap (BitVec 576)
  groups : List Nat
  blocks : SMap Blk
  deriving DecidableEq, Repr

/-- A checkpoint slot: its J0 and its image, the page sets that hold it, by die and unit, and the page sets of the region still to be
programmed (R215); `good` false when a segment cannot be read even with P and Q (R219). -/
structure Ckpt where
  j0    : BitVec 64
  image : MapImage
  good  : Bool
  sets  : List (Nat × Nat)
  todo  : List Nat
  deriving DecidableEq, Repr

/-- Why a block is being relocated (R216, R232). -/
inductive RelocWhy where
  | gc | fold | demote | refresh | retire | rebuild
  deriving DecidableEq, Repr

/-- A relocation of one erase block, or a demotion of the global unit `block` (R205, R216): the page sets still to be copied,
the blocks a demotion has gathered, the journal page its last record went into, and its stage: 0 copying, 1 its RELOC
records on their way, 2 its ERASE record on its way, 3 being erased. -/
structure Reloc where
  why   : RelocWhy
  die   : Nat
  block : Nat
  cls   : Class
  left  : List Nat
  got   : List (Nat × Nat × Option Block)
  jseq  : BitVec 64
  stage : Nat
  deriving DecidableEq, Repr

/-- The map, the journal and staging (09); `writer` is the function that last wrote each unit, one more than its number (R92). -/
structure Ftl where
  map      : MapImage
  rewrites : SMap (List Nat)
  lastWr   : SMap Nat
  staging  : List Staged
  version  : BitVec 64
  wseq     : BitVec 64
  jbuf     : List JRec
  jbufT    : Nat
  jpages   : List JPage
  jseq     : BitVec 64
  ckptA    : Option Ckpt
  ckptB    : Option Ckpt
  ckptRun  : Option (Nat × Ckpt)
  ckptT    : BitVec 64
  relocs   : List Reloc
  demote   : List Nat
  writer   : SMap Nat
  deriving DecidableEq, Repr

/-- Media care (10): sizes in bytes, `evUsed` what is drawn from the evidence spare pool; the patrol pass and its period in µs. -/
structure Care where
  bufCur    : Nat
  bufUsed   : Nat
  evUsed    : Nat
  evDrawn   : Bool
  retired   : Nat
  freeNat   : Nat
  patrol    : Option (BitVec 64 × List Nat)
  patrolTot : Nat
  patrolPer : Nat
  deriving DecidableEq, Repr

/-! ## Redundancy (11) -/

/-- What parity covers of a member (R247): 256 unit-tag bytes and then 65,536 data bytes, byte k in bits [8k+7:8k]. -/
abbrev Member := BitVec 526336

/-- An accumulator bound to an open stripe: its data members so far, by index and unit, P and Q (R249). -/
structure Stripe where
  sseq    : BitVec 64
  way     : Nat
  members : List (Nat × Nat)
  p       : Member
  q       : Member
  isOpen  : Bool
  evid    : Bool
  acc     : Nat
  deriving DecidableEq, Repr

/-- One replacement of the in-flight stripe journal (R254). -/
structure Repl where
  fromDie   : Nat
  fromBlock : Nat
  toDie     : Nat
  toBlock   : Nat
  deriving DecidableEq, Repr

/-- What a copy of the in-flight stripe journal holds (R254). -/
structure Sifj where
  seq     : BitVec 64
  rbState : Nat
  die1    : Nat
  die2    : Nat
  cursor  : Nat
  repl    : List Repl
  closed  : List (BitVec 64 × Nat)
  deriving DecidableEq, Repr

/-- The RED engine, the failed dies and the rebuild (11). `closed` are the closed stripes by SSEQ: their members by channel and
unit, and their way; `todo` the members still to be restored, by die × 2^22 + unit; `spare` the spare blocks used of each die;
`rbReads` the rebuild's reads of the last second with their bytes. `sifjRun` is the in-flight stripe journal in writing with the dies of its
copies; `sifjSets` are the page sets programmed for it, and `sifjKept` those of the copies that stand, each with its copy, die and unit. -/
structure Red where
  stripes  : List Stripe
  closed   : SMap (List (Nat × Nat) × Nat)
  sseq     : BitVec 64
  failed   : List Nat
  rbState  : Nat
  rbAfter  : Nat
  die1     : Option Nat
  die2     : Option Nat
  cursor   : Nat
  todo     : List Nat
  repl     : List Repl
  batch    : Nat
  sifjA    : Option Sifj
  sifjB    : Option Sifj
  sifjDieA : Nat
  sifjDieB : Nat
  sifjSeq  : BitVec 64
  sifjRun  : Option (Sifj × Nat × Nat)
  sifjSets : List (Bool × Nat × Nat)
  sifjKept : List (Bool × Nat × Nat)
  triple   : List Nat
  spare    : SMap Nat
  rbReads  : List (Nat × Nat)
  deriving DecidableEq, Repr

/-! ## Virtual functions (17) -/

/-- The shares of one function, as the VFM share registers lay them out (R363). -/
structure Shares where
  cells : BitVec 24
  slm   : Nat
  banks : BitVec 16
  ways  : BitVec 8
  keys  : BitVec 24
  eng   : BitVec 3
  deriving DecidableEq, Repr

/-- The dirty-page log of one function (R368, R369); the bitmaps hold the marked pages, rising. -/
structure Dirty where
  enable : Bool
  base   : Nat
  gib    : Nat
  dest   : BitVec 64
  active : SMap Bool
  old    : SMap Bool
  overB  : Bool
  busy   : Bool
  rounds : BitVec 16
  deriving DecidableEq, Repr

/-- One virtual function (or function 0): its applied shares, whether it is online or under reset, its mailboxes (R363 to R370): the
message to the manager, the message to the tenant, and VFM_MBOUT. -/
structure Vf where
  shares  : Shares
  online  : Bool
  flr     : Bool
  mbUp    : SMap Word
  mbDown  : SMap Word
  mbOut   : SMap Word
  upFull  : Bool
  dnFull  : Bool
  dirty   : Dirty
  rej     : SMap Word
  deriving DecidableEq, Repr

/-- Page VFM's state: every function; an APPLY in progress with the cells it still waits for and whether the function gains each;
and the SLM, in units of 64 MiB, that a function has released and that is not yet zero (R364, R366). -/
structure Vfm where
  vfs     : List Vf
  busy    : Option (Fun × List (Nat × Bool))
  zeroing : List (Nat × Nat)
  deriving DecidableEq, Repr


/-! ## Media (12) -/

/-- The eight-word descriptor the scheduler hands a channel (R275). -/
structure Desc where
  op    : Nat
  way   : Nat
  mode  : Nat
  rdent : Nat
  cls   : Nat
  addr  : BitVec 48
  dst   : Nat
  sid   : Nat
  gen   : Nat
  pos   : Nat
  deriving DecidableEq, Repr

/-- A sequencer (R275): microaddress, return stack, count, address registers, status byte, the four flags, the selected CE,
LUN and buffer, WP_n, the descriptor in hand, retry steps counted, a WAITRB in progress, the bus FIFO's codewords, the microstore; `active` says that it works on
the descriptor, `todo` that the descriptor has not been carried out yet. `slots` is what the decoder found in each of the 24 slots of the
buffer: 0 nothing, 1 a failed codeword, 2 an erased one, k + 3 one with k bits corrected; `failed` are the codewords of the page set that
failed hard decoding (R267, R270). -/
structure Sequencer where
  upc    : BitVec 12
  stack  : List (BitVec 12)
  cnt    : BitVec 16
  a      : List (BitVec 48)
  st     : Byte
  tmo    : Bool
  dfail  : Bool
  erased : Bool
  ovth   : Bool
  sel    : Option (Nat × Nat)
  buf    : Nat
  wpn    : Bool
  desc   : Option Desc
  active : Bool
  todo   : Bool
  entry  : Nat
  steps  : Nat
  wait   : Option Nat
  susReq : Bool
  fifo   : Nat
  slots  : List Nat
  failed : List Nat
  store  : SMap Word
  deriving DecidableEq, Repr

/-- What a media operation is for. -/
inductive ReqOwner where
  | cmd (r : CmdRef)
  | exec (r : CmdRef)
  | drain
  | evid (r : Option CmdRef)
  | zero
  | journal (jseq : BitVec 64) (copyB : Bool)
  | ckpt (slot : Nat)
  | sifj (seq : BitVec 64) (copyB : Bool)
  | parity (sseq : BitVec 64) (q : Bool)
  | merge
  | reloc (why : RelocWhy) (die block : Nat)
  | patrol
  | late
  | rebuild (src : Nat)
  | recon (id : Nat)
  deriving DecidableEq, Repr

/-- How far a media operation has come: queued at the scheduler; its descriptor handed to the channel; running in the die;
sensed, its codewords waiting for a cipher lane; or waiting for the reads of its stripe that reconstruct it. -/
inductive ReqPhase where
  | cipher | queued | handed | running | sensed | recon
  deriving DecidableEq, Repr

/-- One media operation (R263, R275). `blocks` names the blocks of the page set it carries: with their staging versions, or
for a relocation with their old slots; `old` is the unit's coarse entry that a merge or fill was built on; `word` the
codewords a cipher lane has passed, and `lane` that lane (R308). `slot` is the position in an execution's input, or the channel of a member
read for a reconstruction. `more` are the channels whose members of its stripe could not be
read, and `bad` the codewords that could not be decoded (R248, R270). -/
structure Req where
  id     : Nat
  op     : Nat
  die    : Nat
  unit   : Nat
  mode   : Mode
  cls    : Class
  owner  : ReqOwner
  blocks : List (Nat × Nat × BitVec 64)
  data   : Option PageSet
  old    : Word
  slot   : Option Nat
  word   : Nat
  lane   : Option Nat
  phase  : ReqPhase
  start  : Nat
  susp   : Bool
  more   : List Nat
  bad    : List Nat
  deriving DecidableEq, Repr

/-- A die as the scheduler sees it (R58, R75, R268, R273); `scale` is the SQ_SCALE in force for its operation
(R463), `forced` says that a forced source acts on it (R484), and `paused` is a suspended operation: its state, its request,
and the ns it had run. -/
structure DieSt where
  attached : Bool
  state    : Nat
  mode     : Mode
  susCnt   : Nat
  susp     : Bool
  req      : Option Nat
  started  : Nat
  scale    : Nat
  forced   : Bool
  paused   : Option (Nat × Nat × Nat)
  lunReset : Option (BitVec 64)
  deriving DecidableEq, Repr

/-- A media channel: its sequencer, its two page buffers, the operations waiting for one, whether its bus is parked, and whether a fault
has left its microcode to be loaded again (R267, R274, R280). -/
structure Channel where
  seq    : Sequencer
  bufs   : List (Option Nat)
  waits  : List Nat
  parked : Bool
  reload : Bool
  deriving DecidableEq, Repr

/-- A step of the quiet rotation (R263): the ways that join and leave, the time it may begin, whether it has begun, and
whether a second step follows. -/
structure Rotation where
  joining : List Nat
  leaving : List Nat
  after   : Nat
  begun   : Bool
  again   : Bool
  deriving DecidableEq, Repr

/-- The media scheduler, the channels and the dies (12), with the way map of the characterisation entry and the microcode of the running
image, which vendor firmware writes into the channels (R262, R280). `parked` are verified drain programs whose MAP records wait for those of
the other blocks of their commands, to be committed together (R87, R214); `queued` are programs that ended in an Evidential pause, whose
completions wait for the new firmware (R194). `bare` says that a start found fewer than four ways, and the device reports no namespace
(R262). -/
structure Media where
  chans   : List Channel
  dies    : List DieSt
  reqs    : List Req
  nextId  : Nat
  flash   : SMap PageSet
  quiet   : List Nat
  rot     : Option Rotation
  lastRot : BitVec 64
  ways    : Nat
  geom    : Option (Nat × Nat × Nat × Bool × Bool)
  wayMap  : List Nat
  micro   : List Word
  parked  : List Req
  queued  : List Req
  bare    : Bool
  deriving DecidableEq, Repr


/-! ## The search engine (13) -/

/-- An entry of a bank in index mode: normalised key, care mask, associated data, handle (R283, R284). -/
structure Entry where
  key    : BitVec 144
  care   : BitVec 144
  data   : Word
  handle : Nat
  deriving DecidableEq, Repr

/-- A shadow slot: 18 bytes of key, 18 of care mask, 4 of data (R297). -/
structure ShSlot where
  key  : BitVec 144
  care : BitVec 144
  data : Word
  deriving DecidableEq, Repr

/-- A bank: its entries by position, rising; the window of a bank in window mode with the number of bytes taken in and the
last window search's results; shadow writes that hold the sweep and where it restarts; the pass's mismatches and compared
count; the handles recovery has still to visit; whether it is under test; whether its order is rebuilt and its searches are held (R283 to
R302). -/
structure Bank where
  ents    : List (Nat × Entry)
  window  : List Byte
  winPos  : Nat
  winRes  : List (Option Nat)
  waits   : Nat
  restart : Option Nat
  mism    : Nat
  recov   : List Nat
  testing : Bool
  holding : Bool
  deriving DecidableEq, Repr

/-- The search engine: banks, posted shadow writes by bank and handle, oldest first, and the start-up work under way: 1 INIT,
2 RELOAD (R297, R302). The shadow itself lies in DRAM. -/
structure Search where
  banks  : List Bank
  posted : List (Nat × Nat × ShSlot)
  work   : Nat
  deriving DecidableEq, Repr

/-! ## Cryptography (14) -/

/-- A key slot: the key itself never leaves the KEY block; its label (64 bytes, byte k in bits [8k+7:8k]), length, root,
usage count, limit and use (R313, R315, R316). -/
structure KeySlot where
  valid : Bool
  key   : BitVec 256
  klen  : Nat
  root  : Bool
  label : BitVec 512
  use   : BitVec 40
  lim   : Nat
  fw    : Bool
  func  : Nat
  deriving DecidableEq, Repr

/-- A cell job held or running on a cipher lane: whose it is, its slot, the blocks done and in all, whether it is held at
the limit, and the keys it has used with the block each applies from (R316, R317, R326). -/
structure LaneJob where
  cell    : CellId
  port    : Nat
  cls     : Nat
  slot    : Nat
  mode    : Nat
  pos     : Nat
  total   : Nat
  stopped : Bool
  segs    : List (Nat × BitVec 32 × BitVec 256)
  deriving DecidableEq, Repr

/-- A path job held at the limit: the request, the codeword and the block from which it continues (R308, R317). -/
structure PathHold where
  req  : Nat
  word : Nat
  pos  : Nat
  slot : Nat
  deriving DecidableEq, Repr

/-- A cipher lane: its job and the last four keys it derived, by NSID and epoch, newest first (R311). -/
structure Lane where
  job  : Option LaneJob
  path : Option PathHold
  keys : List (Nat × BitVec 32 × BitVec 256)
  deriving DecidableEq, Repr

/-- A digest context slot: its 224 bytes, whether a saved job is in it, and whose (R322). -/
structure DigCtx where
  bytes : List Byte
  inUse : Bool
  func  : Nat
  owner : Option (CellId × Nat)
  deriving DecidableEq, Repr

/-- The cryptography complex: slots, wrapped blob, provisioned root, cipher lanes, digest lanes' bound cells, contexts, the cells whose
jobs the digest lanes have in hand; `epochs` is
the last epoch of every key that EPOCH records keep (R214, R318): DATA keys by NSID, 33 the field-capture seal, 64 + f the SEAL key
and 80 + f the PROGRAM key of function f. -/
structure Crypto where
  slots  : List KeySlot
  epochs : SMap Word
  wrap   : List Word
  root   : Option (BitVec 256)
  lanes  : List Lane
  bound  : List (Option CellId)
  ctxs   : List DigCtx
  digs   : List (Option CellId)
  deriving DecidableEq, Repr

/-! ## DRAM and the fabric cache (15) -/

/-- A line of 128 bytes, byte k in bits [8k+7:8k]. -/
abbrev Line := BitVec 1024

/-- A line request in a channel's queue (R335): a write carries its data and whether it is poisoned. -/
structure LineReq where
  n     : Nat
  cls   : Nat
  req   : Nat
  since : BitVec 64
  write : Option (Line × Bool)
  deriving DecidableEq, Repr

/-- A DRAM channel: its queue, postponed refreshes, next bank to refresh, open rows, and the two sets of delay codes by
set × 16 + item × 2 + lane (R335, R337, R339). -/
structure DramCh where
  queue : List LineReq
  pend  : Nat
  bank  : Nat
  open_ : SMap Nat
  codes : SMap (BitVec 9)
  deriving DecidableEq, Repr

/-- A line held by a slice of the cache: its set and way, its line number, its data, dirty or clean, poisoned, and the
stamp of its last use (R344, R346). -/
structure CLine where
  set   : Nat
  way   : Nat
  n     : Nat
  data  : Line
  dirty : Bool
  pois  : Bool
  stamp : Nat
  deriving DecidableEq, Repr

/-- An access of a requester: its address within a line, its bytes, and the value it stores. -/
structure Access where
  n     : Nat
  off   : Nat
  len   : Nat
  cls   : Nat
  write : Option (List Byte)
  deriving DecidableEq, Repr

/-- A requester's port on a slice with a miss outstanding: the line, whether it will allocate, the line when it has come
from DRAM, the accesses that joined it in arrival order, and whether a second miss has stopped the port (R351). -/
structure CPort where
  id      : Nat
  n       : Nat
  alloc   : Bool
  arrived : Option (Line × Bool)
  joined  : List Access
  stopped : Option Access
  deriving DecidableEq, Repr

/-- A slice: its lines, ports with misses, way masks by requester, correction times by way, the deadlines at which retiring
ways are disabled, and the way operation that runs: operation, way (R345, R349, R352). -/
structure Slice4 where
  lines  : List CLine
  ports  : List CPort
  masks  : SMap (BitVec 16)
  ces    : List (Nat × BitVec 64)
  retire : List (Nat × Nat)
  wop    : Option (Nat × Nat)
  deriving DecidableEq, Repr

/-- A maintenance operation of page FCV (R352). -/
structure MOp where
  op    : Nat
  first : Nat
  count : Nat
  deriving DecidableEq, Repr

/-- What a port has answered: requester, address, bytes, poisoned. -/
structure Served where
  id   : Nat
  addr : Nat
  data : List Byte
  pois : Bool
  deriving DecidableEq, Repr

/-- DRAM and the fabric cache: DRAM's bytes and poisoned lines, the channels, the slices, the victim cache and the eviction
buffer (newest first; the latter with the write begun or not), the unfilled regions on which an access is stalled (R361), the use stamp, the operation that runs, what has been served,
when the last blackout began and whether a margin blackout is owed. -/
structure Dram where
  mem    : List Host.Cell
  pois   : List Nat
  chans  : List DramCh
  slices : List Slice4
  victim : List CLine
  ebuf   : List (CLine × Bool)
  want   : List Nat
  stamp  : Nat
  mop    : Option MOp
  served : List Served
  lastBo : BitVec 64
  margin : Bool
  deriving DecidableEq, Repr


/-! ## The field die and the Front link (18) -/

/-- A ring entry: its sequence number, its 64 bytes as stored, and whether its stored CRC fails (R397, R398). -/
structure RingEntry where
  seq : BitVec 32
  msg : List Byte
  bad : Bool
  deriving DecidableEq, Repr

/-- A frame of TX_CAN accepted and not yet transmitted or abandoned: the message's SEQ, bus, ID word, CTL, DLC, data and the
allow-list entry (R394). -/
structure CanTx where
  seq   : BitVec 32
  bus   : Nat
  ident : Word
  ctl   : Nat
  dlc   : Nat
  data  : List Byte
  entry : Nat
  deriving DecidableEq, Repr

/-- A patch copy in MRAM (R396). `state`: 0 invalid, 1 being written, 2 being verified, 3 verified and pending, 4 has run. -/
structure Patch where
  bytes   : SMap Byte
  total   : Nat
  next    : Nat
  state   : Nat
  version : Word
  deriving DecidableEq, Repr

/-- The wake policy (R388). -/
structure WakePolicy where
  sources : Word
  pct     : Nat
  outmask : Nat
  alarm   : BitVec 64
  deriving DecidableEq, Repr

/-- What HEALTH counts (R387), each saturating at 0xFFFF_FFFF. -/
structure FieldCounts where
  rateDrops : Nat
  fullDrops : Nat
  rxErr     : Nat
  fcsErr    : Nat
  canErr    : Nat
  corr      : Nat
  cold      : Nat
  deriving DecidableEq, Repr

/-- The records of the field die's MRAM (R398): parameters by PNUM, LOCK, the policy, the stored legal time, the cold-start
count, the sequence reserve and the trim. -/
structure Mram where
  params  : SMap (List Byte)
  lock    : Bool
  policy  : WakePolicy
  time    : BitVec 64
  cold    : Nat
  reserve : BitVec 32
  trim    : Int
  copyA   : Patch
  copyB   : Patch
  deriving DecidableEq, Repr

/-- The field die (R373 to R398). `slewAcc` are the millionths of a microsecond by which a slew has turned the RTC beside whole
ones; `tokAcc` the millionths of a token that have come since the last whole one (R397); `acks` the last eight answers to host messages, newest first. -/
structure Field where
  powered : Bool
  time    : BitVec 64
  tvalid  : Bool
  slew    : Option Int
  slewAcc : Nat
  quality : Nat
  lastSet : Option (BitVec 64)
  ring    : List RingEntry
  seq     : BitVec 32
  sendAt  : BitVec 32
  resent  : BitVec 32
  tokens  : Nat
  tokAcc  : Nat
  mram    : Mram
  fired   : Word
  repeats : Bool
  outputs : List Bool
  outTime : Nat
  counts  : FieldCounts
  mv      : Nat
  temp    : Nat
  flags   : Byte
  frames  : List (BitVec 16)
  pulses  : Nat
  pulsed  : Bool
  levels  : List Bool
  busSt   : List Nat
  ethUp   : List Bool
  linkUp  : Bool
  expect  : Option (BitVec 32)
  acks    : List (BitVec 32 × Nat)
  running : Nat
  fell    : Bool
  tx      : List CanTx
  sentAt  : List (Nat × BitVec 64)
  imgSeq  : BitVec 32
  deriving DecidableEq, Repr

/-- Who sent a host-to-field message: FRL_MSGCTL, the side-band request with that tag, or vendor firmware (R403, R410). -/
inductive MsgOwner where
  | page | sideband (eid tag : Byte) | firmware
  deriving DecidableEq, Repr

/-- A host-to-field message not yet acknowledged (R382). -/
structure HostMsg where
  seq   : BitVec 32
  type  : Byte
  flags : Byte
  body  : List Byte
  owner : MsgOwner
  sent  : BitVec 64
  first : BitVec 64
  deriving DecidableEq, Repr

/-- An append of cell 14 in flight: the name its blocks are staged under, the last SEQ in it, and whether it is durable. -/
structure CapAppend where
  ref    : CmdRef
  last   : BitVec 32
  done   : Bool
  deriving DecidableEq, Repr

/-- The host side of the Front link and cell 14's capture (R381, R382, R399 to R401). `held` are the accepted entries not yet in an
append, with the device time of acceptance and FRL_STAT.TIMEVALID then; `legal` is the field die's legal time as its messages last told it,
with the device time then and TIMEVALID (R17, R375); `patch` is how much of the field patch image in the boot NOR has been sent (R396). -/
structure Frl where
  waiting : Bool
  hostSeq : BitVec 32
  unack   : List HostMsg
  queue   : List HostMsg
  held    : List (BitVec 32 × List Byte × BitVec 64 × Bool)
  appends : List CapAppend
  durable : Option (BitVec 32)
  resume  : Bool
  health  : List Byte
  healthT : BitVec 64
  lastTx  : BitVec 64
  legal   : Option (BitVec 64 × BitVec 64 × Bool)
  patch   : Option Nat
  deriving DecidableEq, Repr

/-! ## Side-band, power, start-up, events, Squall (19 to 24) -/

/-- A side-band request that a main-side cell has not answered yet (R410). -/
structure SbWait where
  eid   : Byte
  tag   : Byte
  op    : Byte
  since : BitVec 64
  deriving DecidableEq, Repr

/-- A side-band request: the sender's endpoint, the request's tag, its message type (0x00, 0x04, 0x7E or another), its
message body, and whether PEC and the message's integrity check hold (R406). -/
structure SbReq where
  eid  : Byte
  tag  : Byte
  type : Byte
  body : List Byte
  chk  : Bool
  deriving DecidableEq, Repr

/-- The side-band port (R404 to R412): SB_MODE, SMBus frequency, held requests, the warden's health copy with the device
time of it and whether there is one, missed refreshes, and the warden's event log, newest last (R410). `held` are requests that came
while the warden was being reassigned (R407). -/
structure Sideband where
  i3c    : Bool
  freq   : Nat
  waits  : List SbWait
  held   : List SbReq
  health : List Byte
  copyT  : BitVec 64
  missed : Nat
  state6 : Bool
  evlog  : List (Nat × Word × BitVec 64)
  fstat  : Word
  lastIO : BitVec 64
  deriving DecidableEq, Repr

/-- Power (20, 24): the supplies in their service ranges, PWR_FAIL# high, the flush's stage, entry under way (target, step), whether the
main side is off in Calm or held off, the wake that ends a deep state, the times since which conditions hold, the throttle. -/
structure Power where
  v12      : Bool
  aon      : Bool
  vccq     : Bool
  pwrFail  : Bool
  flush    : Nat
  flushed  : Bool
  entering : Option (Nat × Nat)
  calm     : Bool
  wake     : Option Nat
  calmReq  : Nat
  breezeT  : Option (BitVec 64)
  deepT    : Option (BitVec 64)
  temps    : List Int
  watts    : Rat
  candT    : List (Nat × BitVec 64)
  rising   : Option (Nat × Nat)
  caseOutT : Option (BitVec 64)
  supplyT  : Option (BitVec 64)
  deriving DecidableEq, Repr

/-- A copy of the slot control record (R435). -/
structure SlotRec where
  seq    : BitVec 32
  active : Nat
  next   : Nat
  prev   : Nat
  tries  : Nat
  flags  : Nat
  good   : Bool
  deriving DecidableEq, Repr

/-- The boot NOR but for the firmware slots, which `Firmware` holds, and the characterisation tables, which `Config` holds (R434). -/
structure Nor where
  rec0     : SlotRec
  rec1     : SlotRec
  blob     : List Byte
  evidCap  : Nat
  ways     : List (Nat × Nat)
  failed   : List Nat
  starts   : List (Nat × Nat)
  acctMs   : BitVec 64
  unavMs   : BitVec 64
  unavInt  : Word
  patch    : List Byte
  vpd      : List Byte
  deriving DecidableEq, Repr

/-- How far the start has come (R437 to R441). -/
inductive StartPhase where
  | off
  | rom
  | warden
  | starting
  | evReady
  | full
  deriving DecidableEq, Repr

/-- Start-up (21): the boot NOR, the phase, the slot in use, when the last main start began and its kind, the RST_CAUSE bit of a
main-side restart that is owed (R442), and whether a controller-side reset waits for the start to end (R444). -/
structure Start where
  nor     : Nor
  phase   : StartPhase
  slot    : Nat
  began   : BitVec 64
  kind    : Nat
  pendRst : Option Nat
  pendCtl : Bool
  deriving DecidableEq, Repr

/-- Events and availability (22): active alarms, whether TAMPER has occurred since power-on, the open intervals of R457 with
the command of causes 2 and 5, the time at which the accounting log was last written, whether a start that R456 excludes is in
progress, whether a condition of R456 failed in the present millisecond, and whether an interval was open in it. -/
structure Events where
  alarms   : List Nat
  tamper   : Bool
  spans    : List (Nat × Option CmdRef)
  logT     : BitVec 64
  excluded : Bool
  broken   : Bool
  unav     : Bool
  deriving DecidableEq, Repr

/-- A result that SQ_DELAY holds (R463). -/
inductive Delayed where
  | out (o : Out)
  | job (c : CellId) (port status : Nat)
  | served (r : Served)
  | die (n : Nat)
  | entry (seq : BitVec 32) (msg : List Byte)
  deriving DecidableEq, Repr

/-- The result of decoding the codewords of a page set (R237, R270 to R272): hard decode, with the bits corrected in each codeword;
decode after retry steps, with the retry-table entry in use at the end, the codewords that had failed and the bits corrected; erased; or
unreadable in the codewords named, none when the die has given nothing. -/
inductive ReadResult where
  | good (corr : List Nat)
  | retried (steps entry : Nat) (failed corr : List Nat)
  | erased
  | unreadable (bad : List Nat)
  deriving DecidableEq, Repr

/-- What a die shows when it is ready (R273). -/
inductive DieResult where
  | done
  | fail
  | read (r : ReadResult)
  deriving DecidableEq, Repr

/-- Squall's state beside its registers: the results held by page with their release times in ns, and the dies whose ready
is held with its release time and the result it will show (R463). -/
structure Squall where
  delayed : List (Nat × Nat × Delayed)
  scaled  : List (Nat × Nat × DieResult)
  deriving DecidableEq, Repr

/-! ## What commands carry -/

/-- An NVMe command as fetched: the function, its submission queue (0 the admin queue), identifier, opcode, NSID, command
dwords 2, 3, 10 to 15, the data pointer, whether the fused field or a reserved option is set, the metadata pointer present;
and what the device read of host memory for it: the data structure or piece it points at, whether the transfer and the
fetch of the entry succeeded, and whether a transfer that did not was a poisoned TLP (R84, R98). For an Abort it is the identifiers, two bytes
each, of the entries not yet fetched of the queue it names, first one first (R86, log 104). -/
structure NvmeCmd where
  fn    : Fun
  sqid  : Nat
  cid   : BitVec 16
  opc   : Byte
  nsid  : Nat
  cdw2  : Word
  cdw3  : Word
  cdw10 : Word
  cdw11 : Word
  cdw12 : Word
  cdw13 : Word
  cdw14 : Word
  cdw15 : Word
  dptr  : DataPtr
  fused : Bool
  mptr  : Bool
  data  : List Byte
  xfer  : Bool
  fetch : Bool
  poison : Bool
  deriving DecidableEq, Repr

/-- The issue of a cell instruction: the cell and the EXT payloads before the instruction, first one first (R156). -/
structure Iss where
  cell : CellId
  ext  : List (BitVec 10)
  deriving DecidableEq, Repr

/-- A register field w0 to w15 (R155). -/
abbrev Reg := BitVec 4

/-- A mesh flit: its side header and payload (R184); `aux` is bits [59:19] of a KIND 2 to 7 header. -/
structure Flit where
  dst     : Nat
  src     : Nat
  cls     : Nat
  kind    : Nat
  sid     : Nat
  gen     : Nat
  pos     : Nat
  nb      : Nat
  last    : Bool
  pois    : Bool
  aux     : BitVec 41
  payload : List Byte
  deriving DecidableEq, Repr

/-- What a start finds outside the device's modelled state (R219, R262, R436, R439): whether the seals of slots A and B hold, the model
constants and the role table that the image carries, the dies that attached, the number of ways and the geometry (blocks, page sets
per block, native mode, 8 KiB pages, six planes), the CE_n and LUN of each way in the characterisation entry, the channel microcode of
the image, whether the retained areas are readable, the DRAM temperature, whether the two
checkpoint slots are readable, the copies of journal pages that fail their CRC (JSEQ, and whether it is copy B), the page sets whose stripe header fails its CRC (die × 2^22 +
unit), and whether the Front link
trains. -/
structure StartFacts where
  sealA    : Bool
  sealB    : Bool
  consts   : List Word
  roles    : List Role
  attached : List Nat
  ways     : Nat
  geom     : Nat × Nat × Nat × Bool × Bool
  wayMap   : List Nat
  micro    : List Word
  retained : Bool
  temp     : Int
  ckptA    : Bool
  ckptB    : Bool
  badCopies : List (Nat × Bool)
  badHdrs  : List Nat
  front    : Bool
  deriving DecidableEq, Repr

end Sys2Proof.Machine
end

