-- ==== Sys2Proof/Syntax.lean ====
section
/-!
DEFINITION. The commands of the block: one constructor per row of the opcode table, with the row's operands. A command that
is a register write carries the master that writes and the value; one that reports an event carries what the device learns of it.
-/

namespace Sys2Proof

open Machine

/-- A command: a row of the opcode table. -/
inductive Instr where
  /-- A write to a page register that has no row of its own, checked against the common access rules and applied under its access codes (R33). -/
  | registerWrite (m : Master) (page off width : Nat) (v : Word)
  /-- A page read that is narrow, wide, unaligned, unmapped or to an unpowered domain returns 0 or aborts and sets the status bit of its row (R33). -/
  | refusedRead (m : Master) (page off width : Nat)
  /-- PG_CTRL.ERRCAP_REARM clears ERR_CAP0 to ERR_CAP7 and re-arms first-error capture (R39). -/
  | errcapRearm (m : Master) (page : Nat) (v : Word)
  /-- A write to EV_SET sets raw event bits without any block action, and routing follows (R37). -/
  | evSet (m : Master) (page : Nat) (v : Word)
  /-- A write to EV_CLEAR clears raw event bits, with a same-cycle hardware set winning (R36). -/
  | evClear (m : Master) (page : Nat) (v hw : Word)
  /-- A write to EV_ROUTE is checked for an invalid destination combination and then redirects the page's event signal (R38). -/
  | evRouteWrite (m : Master) (page : Nat) (v : Word)
  /-- The warden writes PG_OWNER; an inconsistent value is ignored whole and reported as a reserved-bit write (R35). -/
  | pgOwnerWrite (m : Master) (page : Nat) (v : Word)
  /-- A write to a saturating counter clears it and its SAT bit only when the value is 0, and is ignored otherwise (R12). -/
  | counterClear (m : Master) (page slot : Nat) (v : Word)
  /-- A read of the low word of a joined 64-bit counter latches the high word for the same master (R41). -/
  | counterLowRead (m : Master) (page slot : Nat)
  /-- A read of TOP_DTIME_LO returns the low device-time word and latches TOP_DTIME_HI for the same master (R42). -/
  | topDtimeLoRead (m : Master)
  /-- The 64-bit device time advances by 1 µs on the fast clocks, or by 30 or 31 µs at each always-on clock tick (R42). -/
  | deviceTimeTick (aon : Bool)
  /-- A write to a submission queue tail doorbell updates the tail, or is ignored and reported as an invalid doorbell write (R24). -/
  | sqTailDoorbell (fn : Fun) (y bytes : Nat) (v : Word)
  /-- A write to a completion queue head doorbell updates the head, or is ignored and reported as an invalid doorbell write (R24). -/
  | cqHeadDoorbell (fn : Fun) (y bytes : Nat) (v : Word)
  /-- An access of 1, 2, 4 or 8 bytes to the NVMe controller registers or the MSI-X structures, served by byte lanes or aborted when it crosses a dword (R481). -/
  | bar0Access (fn : Fun) (off len : Nat) (write : Option (BitVec 64))
  /-- CC.EN going from 0 to 1 makes the controller ready within CAP.TO, or sets CSTS.CFS on an invalid configuration (R78). -/
  | controllerEnable (fn : Fun) (cc : Word)
  /-- CC.EN going from 1 to 0 stops fetching, discards unstarted commands and carries started ones through without completions (R89). -/
  | controllerReset (fn : Fun)
  /-- Once the last data TLP of the started commands has passed, the queues are deleted and CSTS.RDY reads 0 (R89). -/
  | controllerResetComplete (fn : Fun)
  /-- CC.SHN from the PF or a VF stops fetching and drives the staging concerned to flash (R89). -/
  | shutdownNotification (fn : Fun) (shn : Nat)
  /-- When the staging concerned is durable, CSTS.SHST becomes 10b (R89). -/
  | shutdownComplete (fn : Fun)
  /-- The Evidential byte and command token buckets of each function and of field capture fill at their slice rates up to their depths (R49). -/
  | tokenRefill
  /-- A command held by the overlap rule or by ORDERED starts once the earlier commands have completed (R85). -/
  | commandStart (c : CmdRef)
  /-- A completion entry is posted when its completion queue has room, carrying LATE when past its deadline or R44 bound (R73). -/
  | completionPost (c : CmdRef)
  /-- An admitted Evidential command passes its R44 bound uncompleted and opens an unavailable interval of cause 2 (R457). -/
  | evidentialBoundPassed (c : CmdRef)
  /-- A write to ADM_SLICE sets the selected function's Evidential slice, or is refused when the sum would exceed the remainder or FUNC is 16 (R74). -/
  | admSliceWrite (m : Master) (v : Word)
  /-- ADM_CTRL.LOCK makes ADM_CVAL read-only until the next controller-side reset (R64). -/
  | lock (m : Master) (v : Word)
  /-- A write to ADM_CVAL stores the selected model constant while LOCK is 0, and is refused with code 0x11 after LOCK (R64). -/
  | admCvalWrite (m : Master) (v : Word)
  /-- A write of 1 to ADL_SNAP latches every ledger value of the ADL page at one instant (R75). -/
  | adlSnap (m : Master) (v : Word)
  /-- Every 10 ms the flash translation cells recompute the fill f, the buffer target, ADM_GCDEBT and ADM_DRAIN (R225). -/
  | gcdebtRefresh
  /-- A refused housekeeping step is presented again at the next 10 ms scheduling interval (R69). -/
  | housekeepingRetry
  /-- A Device Self-test segment of at most 2 s of work is admitted as Background work, and retried every 10 ms when refused (R70). -/
  | selfTestSegment (fn : Fun) (units : List (Die × Nat)) (last pass : Bool)
  /-- Create I/O Submission Queue within the function's assignment and size limits (R82). -/
  | createIoSubmissionQueue (c : NvmeCmd)
  /-- Create I/O Completion Queue within the function's assignment and size limits (R82). -/
  | createIoCompletionQueue (c : NvmeCmd)
  /-- Delete I/O Submission Queue stops fetching, discards unfetched entries and completes after the fetched commands' completions (R483). -/
  | deleteIoSubmissionQueue (c : NvmeCmd)
  /-- Delete I/O Completion Queue, refused with Invalid Queue Deletion while a submission queue uses it (R483). -/
  | deleteIoCompletionQueue (c : NvmeCmd)
  /-- Get Log Page returns one of the served log pages, clearing fully returned C1h entries when LSP bit 0 is 1 (R97). -/
  | getLogPage (c : NvmeCmd)
  /-- Identify returns the data structure of a served CNS value (R80). -/
  | identify (c : NvmeCmd)
  /-- Abort completes an unfetched command with Command Abort Requested, and reports every fetched one as not aborted (R86). -/
  | abort (c : NvmeCmd)
  /-- Set Features of a supported feature without behaviour of its own, or refused for an unsupported one or the Save bit (R81). -/
  | setFeatures (c : NvmeCmd)
  /-- Get Features returns the current value of a supported feature (R81). -/
  | getFeatures (c : NvmeCmd)
  /-- Set Features Number of Queues returns the function's assignment and never grants more (R82). -/
  | setFeaturesNumberOfQueues (c : NvmeCmd)
  /-- Set Features Timestamp from the PF sets legal time through a TIME_SET message; from a VF it is refused (R83). -/
  | setFeaturesTimestamp (c : NvmeCmd)
  /-- Get Features Timestamp returns the field die's legal time with its Timestamp Origin (R83). -/
  | getFeaturesTimestamp (c : NvmeCmd)
  /-- Set Features C1h sets a submission queue's default class, deadline and fixed mode for later fetched entries (R52). -/
  | setQueueAdmissionDefault (c : NvmeCmd)
  /-- Get Features C1h returns a submission queue's admission default in completion dword 0 (R52). -/
  | getQueueAdmissionDefault (c : NvmeCmd)
  /-- The coalescing time since the first waiting entry of a vector expires and the MSI-X message is sent (R81). -/
  | interruptCoalescingTimer (fn : Fun) (vec : Nat)
  /-- An Asynchronous Event Request is held, up to 8 outstanding, until an event completes it (R80). -/
  | asynchronousEventRequest (c : NvmeCmd)
  /-- Namespace Management from the PF creates or deletes a namespace among NSIDs 2–32 (R80). -/
  | namespaceManagement (c : NvmeCmd)
  /-- Namespace Attachment from the PF attaches an NSID 2–32 to one controller (R80). -/
  | namespaceAttachment (c : NvmeCmd)
  /-- Firmware Image Download accepts a piece of whole 4 KiB multiples at a 4 KiB offset (R90). -/
  | firmwareImageDownload (c : NvmeCmd)
  /-- Firmware Commit action 000b checks the image signature and replaces the slot (R90). -/
  | firmwareCommitReplace (c : NvmeCmd)
  /-- Firmware Commit action 001b or 010b makes the slot active at the next controller-side reset (R90). -/
  | firmwareCommitNextReset (c : NvmeCmd)
  /-- Firmware Commit action 011b checks the signature and activates the slot without reset by role-by-role reassignment (R91). -/
  | firmwareCommitActivate (c : NvmeCmd)
  /-- The Background signature check of a committed image ends, failing the Commit or letting it proceed (R90). -/
  | signatureCheckDone (ok : Bool)
  /-- Device Self-test starts a short or extended test run as Background segments (R70). -/
  | deviceSelfTest (c : NvmeCmd)
  /-- Format NVM with SES 000b or 010b advances the namespace's epoch and commits an EPOCH record (R312). -/
  | formatNvm (c : NvmeCmd)
  /-- Virtualization Management Offline ends the VF's fetching, resetting its controller when enabled (R365). -/
  | secondaryControllerOffline (c : NvmeCmd)
  /-- Virtualization Management Assign sets an offline VF's queue pairs, taking or returning the PF's highest pairs (R365). -/
  | secondaryControllerAssign (c : NvmeCmd)
  /-- Virtualization Management Online brings a VF online, refused while it holds no queue pair (R365). -/
  | secondaryControllerOnline (c : NvmeCmd)
  /-- An opcode not listed, refused, or PF-only on a VF completes with Invalid Command Opcode (R80). -/
  | invalidCommandOpcode (c : NvmeCmd)
  /-- Load Program writes a piece of a .kco object into a slot, or empties it with the unload bit (R104). -/
  | loadProgram (c : NvmeCmd)
  /-- Program Activation Management activates an index after the .kco checks, or deactivates it (R106). -/
  | programActivationManagement (c : NvmeCmd)
  /-- Memory Range Set Management defines, changes or deletes a memory range set of 1 to 16 descriptors (R107). -/
  | memoryRangeSetManagement (c : NvmeCmd)
  /-- A Read is fetched, checked, looked up in the map and admitted or refused by Forecast (R84). -/
  | read (c : NvmeCmd)
  /-- A Write is fetched, checked and admitted, taking staging or the Evidential append path (R84). -/
  | write (c : NvmeCmd)
  /-- A Flush covers the function's completed writes and completes when they are durable in flash (R88). -/
  | flush (c : NvmeCmd)
  /-- A Compare reads and compares blocks, completing with Compare Failure or Unrecovered Read Error as found (R81). -/
  | compare (c : NvmeCmd)
  /-- Write Zeroes writes zeros, deallocating the whole units it covers when DEAC is 1 (R222). -/
  | writeZeroes (c : NvmeCmd)
  /-- Dataset Management with AD = 1 deallocates its ranges under R221 (R222). -/
  | datasetManagement (c : NvmeCmd)
  /-- Verify reads and checks blocks without transfer (R81). -/
  | verify (c : NvmeCmd)
  /-- Copy reads its source ranges and writes them to one destination in the same namespace (R81). -/
  | copy (c : NvmeCmd)
  /-- Execute Program is checked, admitted on its cycle contract and placed on the least-loaded compute cell (R112). -/
  | executeProgram (c : NvmeCmd)
  /-- SLM Memory Read transfers a byte range of an SLM namespace to host memory (R102). -/
  | memoryRead (c : NvmeCmd)
  /-- SLM Memory Write transfers host memory into a byte range of an SLM namespace (R102). -/
  | memoryWrite (c : NvmeCmd)
  /-- All data of a write has arrived in staging and its STAGED record is committed, so the write is acknowledged (R210). -/
  | hostWriteDataReceived (c : CmdRef) (bs : List Block)
  /-- A host data transfer fails on the link; a write changes no block and a read stops, with Data Transfer Error (R84). -/
  | hostTransferFailure (c : FailedTransfer)
  /-- Blocks assigned to an append dropped whole are programmed with zeros so the published point moves past them (R482). -/
  | droppedAppendZeroFill
  /-- The PCIe link enters L0 from down and EV_HIF_LINKUP is raised (R98). -/
  | pcieLinkUp (speed width : Nat)
  /-- The PCIe link goes down and EV_HIF_LINKDOWN is raised (R98). -/
  | pcieLinkDown
  /-- An FLR of the PF resets the PF and every VF controller and clears VF Enable (R77). -/
  | flrPf
  /-- An FLR of a VF fences it, stops its jobs and executions, settles its commands and deletes its queues (R370). -/
  | flrVf (fn : Fun)
  /-- The VF reset ends: queues, BAR0 and MSI-X are at reset values, FLR clears and EV_VFM_FLRDONE is raised (R370). -/
  | vfResetComplete (fn : Fun)
  /-- Clearing VF Enable resets every VF and releases every VF share (R364). -/
  | vfEnableClear
  /-- MSI-X Enable of a function going from 0 to 1 sends a message for every vector with a routed pending page (R447). -/
  | msixEnable (fn : Fun)
  /-- A vector or function mask clears and one message is sent if a routed page still has a pending event (R447). -/
  | msixMaskClear (fn : Fun) (vec : Option Nat)
  /-- A configuration write to the PF's PMCSR changes its D-state, and a write of D0 wakes the device from Lull when enabled (R426). -/
  | pmcsrWrite (v : Word)
  /-- A host link exit from L1 wakes the device from Lull when PWR_WAKEEN.PCIE is 1 (R426). -/
  | pcieL1Exit
  /-- PERST# asserted starts a controller-side reset (R443). -/
  | perstAsserted
  /-- PERST# deasserted lets the link train and wakes the device when PWR_WAKEEN.PERST is 1 (R443). -/
  | perstDeasserted
  /-- A PCIe hot reset starts a controller-side reset (R443). -/
  | hotReset
  /-- RST_CTRL.CTRLRST requests a controller-side reset (R443). -/
  | ctrlrst (m : Master) (v : Word)
  /-- RST_CTRL.MAINRST requests a main-side restart (R442). -/
  | mainrst (m : Master) (v : Word)
  /-- A cell fill ends: memories hold zeros with VOID tags, GEN advances and EV_CEL_SCRUBBED is raised (R153). -/
  | fillComplete (c : CellId)
  /-- CEL_CTRL.SCRUB starts the fill of a held cell's data memory and stream buffers and cancels its stream slots (R153). -/
  | scrub (m : Master) (c : CellId) (v : Word)
  /-- A write of CEL_CTRL.HOLD requests a hold at the next instruction boundary, or releases the core at the PC or the START vector (R151). -/
  | celHoldWrite (m : Master) (c : CellId) (v : Word)
  /-- The core reaches the requested hold boundary, HELD reads 1 and EV_CEL_HELD is raised (R151). -/
  | holdReached (c : HoldAt)
  /-- An access to CEL_IMDATA reads or writes instruction word ADDR of a held cell and advances ADDR (R124). -/
  | celImdataAccess (m : Master) (c : CellId) (write : Option Word)
  /-- An access to CEL_DMDATA reads or writes data word ADDR with its tag and advances ADDR (R152). -/
  | celDmdataAccess (m : Master) (c : CellId) (write : Option Word)
  /-- An access to CEL_RVAL reads or writes the selected general or special register of a held cell (R152). -/
  | celRvalAccess (m : Master) (c : CellId) (write : Option Word)
  /-- The cell interrupt input is taken as the INT trap when IE is 1 and PMODE and TRAP are 0 (R146). -/
  | interruptInput (c : CellId)
  /-- CYCBUD reaches zero, the instruction in progress is abandoned and the BUDGET trap is taken (R145). -/
  | budgetExhausted (c : CellId)
  /-- A pending multiplier product is written to MPL and MPH in the third slot after MUL (R142). -/
  | productLands (c : CellId)
  /-- A stream access stalled for undelivered input or undrained output space proceeds once the bytes are ready (R128). -/
  | streamStallEnd (c : CellId) (cycles : Nat)
  /-- An unassigned encoding or nonzero reserved field raises UNDEF or RSVD (R179). -/
  | unassignedEncoding (i : Iss) (w : BitVec 14)
  /-- ADD adds rs to rd (R160). -/
  | add (i : Iss) (rd rs : Reg)
  /-- SUB subtracts rs from rd (R160). -/
  | sub (i : Iss) (rd rs : Reg)
  /-- AND forms the bitwise and of rd and rs (R160). -/
  | and (i : Iss) (rd rs : Reg)
  /-- OR forms the bitwise or of rd and rs (R160). -/
  | or (i : Iss) (rd rs : Reg)
  /-- XOR forms the bitwise exclusive or of rd and rs (R160). -/
  | xor (i : Iss) (rd rs : Reg)
  /-- SHL shifts rd left by rs (R160). -/
  | shl (i : Iss) (rd rs : Reg)
  /-- SHR shifts rd logically right by rs (R160). -/
  | shr (i : Iss) (rd rs : Reg)
  /-- SAR shifts rd arithmetically right by rs (R160). -/
  | sar (i : Iss) (rd rs : Reg)
  /-- ADDS adds with saturation to the tag's range (R160). -/
  | adds (i : Iss) (rd rs : Reg)
  /-- SUBS subtracts with saturation to the tag's range (R160). -/
  | subs (i : Iss) (rd rs : Reg)
  /-- MUL starts a 32 × 32 multiply whose product lands three slots later (R142). -/
  | mul (i : Iss) (rd rs : Reg)
  /-- CMP sets flags from rd − rs without changing rd (R162). -/
  | cmp (i : Iss) (rd rs : Reg)
  /-- ADDI adds an immediate to rd (R160). -/
  | addi (i : Iss) (rd : Reg) (im : BitVec 4)
  /-- CMPI sets flags from rd − immediate (R160). -/
  | cmpi (i : Iss) (rd : Reg) (im : BitVec 4)
  /-- ANDI ands rd with an immediate (R160). -/
  | andi (i : Iss) (rd : Reg) (im : BitVec 4)
  /-- ORI ors rd with an immediate (R160). -/
  | ori (i : Iss) (rd : Reg) (im : BitVec 4)
  /-- LI loads an immediate into rd with the named tag (R163). -/
  | li (i : Iss) (tg : BitVec 2) (rd : Reg) (im : BitVec 4)
  /-- MOV copies rs to rd, tag included (R163). -/
  | mov (i : Iss) (rd rs : Reg)
  /-- NARROW narrows the PTR in rd to a sub-region, or raises BOUNDS (R163). -/
  | narrow (i : Iss) (rd rs : Reg)
  /-- BEQL compares the byte lanes of two BYTES words (R163). -/
  | beql (i : Iss) (rd rs : Reg)
  /-- SAVL returns the bytes available on an input or output stream (R168). -/
  | savl (i : Iss) (rd rs : Reg)
  /-- MOVS reads a special register into rd (R139). -/
  | movs (i : Iss) (rd : Reg) (sp : Reg)
  /-- SETS writes a special register, subject to the mode rules, including entry to program mode (R139). -/
  | sets (i : Iss) (sp : Reg) (rs : Reg)
  /-- FST posts a 32-bit fabric store in firmware mode (R171). -/
  | fst (i : Iss) (rs ra : Reg)
  /-- FLD loads a 32-bit word from a fabric address with the named tag (R171). -/
  | fld (i : Iss) (tg : BitVec 2) (rd ra : Reg)
  /-- RETAG gives rd a new tag in firmware mode (R163). -/
  | retag (i : Iss) (rd rs : Reg)
  /-- LD loads a data-memory word at a direct address (R165). -/
  | ld (i : Iss) (rd : Reg) (im : BitVec 5)
  /-- ST stores a register to a data-memory word at a direct address (R165). -/
  | st (i : Iss) (rs : Reg) (im : BitVec 5)
  /-- LDX loads a data-memory word through a PTR and an index (R165). -/
  | ldx (i : Iss) (rd rp : Reg) (hi : Bool)
  /-- STX stores through a PTR and an index (R165). -/
  | stx (i : Iss) (rs rp : Reg) (hi : Bool)
  /-- PUSH writes a register to the stack, or raises STACK below SPLIM (R141). -/
  | push (i : Iss) (r : Reg)
  /-- POP reads the stack into a register (R141). -/
  | pop (i : Iss) (r : Reg)
  /-- SLD loads 1, 2 or 4 bytes from a stream buffer through a handle (R168). -/
  | sld (i : Iss) (size : Fin 3) (rd : Reg) (wh : Fin 4) (hi : Bool)
  /-- SST stores 1, 2 or 4 bytes to an output stream buffer (R168). -/
  | sst (i : Iss) (size : Fin 3) (rs : Reg) (wh : Fin 4) (hi : Bool)
  /-- SREL releases input bytes and sends a credit (R168). -/
  | srel (i : Iss) (wh rs : Reg)
  /-- SPUB publishes output bytes for draining (R168). -/
  | spub (i : Iss) (wh rs : Reg)
  /-- GETP makes a HANDLE for an enabled job port of the named kind (R169). -/
  | getp (i : Iss) (r : Reg)
  /-- JOB submits a descriptor to a job port, stalling while the port holds an outstanding job (R169). -/
  | job (i : Iss) (wh rp : Reg) (waited : Nat)
  /-- JWAIT waits for the port's job to end and returns its status, or traps on a firmware-handled status (R169). -/
  | jwait (i : Iss) (rd wh : Reg) (waited : Nat)
  /-- B.cond branches by a relative offset when the condition holds (R172). -/
  | b (i : Iss) (cond : Fin 15) (off : BitVec 6)
  /-- JMP jumps to an absolute target (R172). -/
  | jmp (i : Iss) (target : BitVec 9)
  /-- CALL pushes a RETADR and jumps (R172). -/
  | call (i : Iss) (target : BitVec 9)
  /-- JR jumps to a register target (R172). -/
  | jr (i : Iss) (r : Reg)
  /-- CALLR calls a register target (R172). -/
  | callr (i : Iss) (r : Reg)
  /-- RET pops a RETADR and returns to it, or traps (R141). -/
  | ret (i : Iss)
  /-- RETT restores PMODE, IE and RACT from TRAPCAUSE and continues at TRAPPC (R172). -/
  | rett (i : Iss)
  /-- NOP does nothing (R173). -/
  | nop (i : Iss)
  /-- END raises the END trap, ending a program (R173). -/
  | endp (i : Iss)
  /-- SWI raises the software trap with DETAIL n (R173). -/
  | swi (i : Iss) (n : BitVec 4)
  /-- CLR sets a register to VOID 0 (R173). -/
  | clr (i : Iss) (r : Reg)
  /-- RDTIME reads the low 32 bits of device time as TIME (R173). -/
  | rdtime (i : Iss) (r : Reg)
  /-- REPI latches a register count into RC and repeats the following instruction (R174). -/
  | repi (i : Iss) (r : Reg)
  /-- REP latches n into RC and repeats the following instruction (R174). -/
  | rep (i : Iss) (n : BitVec 6)
  /-- TEST sets Z and N from a register (R173). -/
  | test (i : Iss) (r : Reg)
  /-- NOT complements a register (R173). -/
  | not (i : Iss) (r : Reg)
  /-- NEG negates a register (R173). -/
  | neg (i : Iss) (r : Reg)
  /-- CVTI converts a register to INT (R164). -/
  | cvti (i : Iss) (r : Reg)
  /-- CVTU converts a register to UNS (R164). -/
  | cvtu (i : Iss) (r : Reg)
  /-- CVTF converts a register to FIX (R164). -/
  | cvtf (i : Iss) (r : Reg)
  /-- CVTB converts a register to BYTES (R164). -/
  | cvtb (i : Iss) (r : Reg)
  /-- CVTL converts a register to BOOL (R164). -/
  | cvtl (i : Iss) (r : Reg)
  /-- CLZ counts leading zero bits (R173). -/
  | clz (i : Iss) (r : Reg)
  /-- POPC counts one bits (R173). -/
  | popc (i : Iss) (r : Reg)
  /-- BSWP reverses byte lanes (R173). -/
  | bswp (i : Iss) (r : Reg)
  /-- IDLE sets IE and waits for the interrupt input or a hold (R173). -/
  | idle (i : Iss)
  /-- TAGOF returns a register's tag code (R173). -/
  | tagof (i : Iss) (r : Reg)
  /-- SETC sets a register to the BOOL of a condition (R173). -/
  | setc (i : Iss) (r : Reg) (cond : Fin 15)
  /-- A KIND 0 flit lands at its position in an input stream buffer, or is dropped as stale, foreign or out of range (R186). -/
  | streamDataFlit (f : Flit)
  /-- A KIND 1 credit flit tells a source the new release count of its destination stream (R186). -/
  | streamCredit (f : Flit)
  /-- A KIND 2 fabric read request reaches its target node (R184). -/
  | fabricReadRequest (f : Flit)
  /-- A KIND 3 fabric read response returns data to its requester (R184). -/
  | fabricReadResponse (f : Flit)
  /-- A KIND 4 fabric write reaches its target node (R184). -/
  | fabricWrite (f : Flit)
  /-- A KIND 5 job descriptor flit reaches an engine (R184). -/
  | jobDescriptor (f : Flit)
  /-- A KIND 6 job status flit returns to a cell's port (R184). -/
  | jobStatus (f : Flit)
  /-- A KIND 7 control flit (fence or quiesce) reaches its destination (R184). -/
  | controlFlit (f : Flit)
  /-- SU_CMD.START starts a stream-unit slot with its descriptor, or refuses it (R189). -/
  | suStart (m : Master) (c : CellId) (v : Word)
  /-- SU_CMD.CANCEL stops a stream-unit slot and discards undrained bytes (R188). -/
  | suCancel (m : Master) (c : CellId) (v : Word)
  /-- The stream unit drains whole published flits of an output stream when credit allows (R187). -/
  | streamDrain (c : CellId) (slot : Fin 2) (close : Bool)
  /-- A codec job ends with success, malformed input, OUTMAX reached or an abort, and writes back its counts (R190). -/
  | codecJobEnd (unit : Fin 4) (output : List Byte)
  /-- CDC_CTRL.HALT stops the unit's job at its next 64 KiB boundary and refuses new jobs (R190). -/
  | codecHalt (m : Master) (unit : Fin 4) (v : Word)
  /-- FAB_CTRL.WRELOAD holds, fills, reloads and releases the warden from its image (R191). -/
  | wreload (m : Master) (v : Word)
  /-- The warden stops assigning work to a cell and begins its drain for a change of role, function or slot (R193). -/
  | cellReassign (c : CellId) (r : Role)
  /-- A reassigned cell finishes its drain and is held, scrubbed, rewritten and loaded (R193). -/
  | drainDone (c : CellId)
  /-- New firmware on a reassigned cell reports ready and EV_FAB_REASSIGNED is raised (R193). -/
  | reportReady (c : CellId)
  /-- If any of cells 0–11 has not reported ready by 900 µs, they are reassigned back to the old slot (R194). -/
  | evidentialPauseTimeout
  /-- The staging drain takes staged data to an encrypted program on a die, merging or filling units as needed (R207). -/
  | stagingDrain (die : Die)
  /-- 2 ms after its first record, a journal page is padded and programmed on both copies (R214). -/
  | journalPageTimer
  /-- Both copies of a journal page are programmed and verified, releasing what waited on its records (R214). -/
  | journalPageDurable
  /-- A checkpoint begins after 4,096 journal pages or 10 minutes, or as class 1 work at the 12,288-page backstop (R215). -/
  | checkpointBegin
  /-- A fine unit quiet for 60 s is queued for demotion to one coarse unit by relocation (R205). -/
  | demotion (unit : Nat)
  /-- Garbage collection relocates the valid data of a victim block by copy, commit and erase (R216). -/
  | garbageCollection (die : Die) (block : Nat)
  /-- Once its RELOC and ERASE records are durable, an erase block is erased and joins the free pool (R217). -/
  | blockErase (die : Die) (block : Nat)
  /-- Folding relocates buffer or evidence data from pSLC into native-mode blocks (R227). -/
  | folding (die : Die) (block : Nat)
  /-- PWR_FAIL# assertion stops fetching and posting, abandons unfinished work and flushes staging and the journal to flash (R218). -/
  | powerFail
  /-- The staging flush ends with the final journal page durable and each bus idle (R218). -/
  | flushComplete
  /-- A patrol pass begins when the last ends or one period after it began, whichever is later (R234). -/
  | patrolPassStart
  /-- A pass not ended one period after it began is overdue, setting PATROL_LATE and raising EV_MSQ_PATROL_LATE (R236). -/
  | patrolLate
  /-- Patrol reads a page set and queues a refresh or reconstructs according to the decode result (R237). -/
  | patrolRead (ch : Chan) (way : Fin 8) (block page : Nat)
  /-- A die is declared failed: its stripes close, open members are rewritten and the rebuild starts deferred (R252). -/
  | memberFailed (die : Die)
  /-- RED_FAIL.DECLARE declares a named die failed, or is refused (R252). -/
  | redFailDeclare (m : Master) (v : Word)
  /-- When the latest earlier admission deadline has passed, the rebuild takes its floor reservations (R255). -/
  | rebuildFloor
  /-- Every stripe of every failed member is restored; the journal is persisted and the floors released (R255). -/
  | rebuildDone
  /-- RED_CTRL.RB_PAUSE puts the rebuild in PAUSED, persisting cursor and table and releasing the floor (R255). -/
  | rbPause (m : Master) (v : Word)
  /-- The in-flight stripe journal is written as two copies, at least once a second during a rebuild (R254). -/
  | sifjWrite
  /-- Every QROT seconds a rotation step of the quiet ways is accepted and begins after the earlier admissions' deadlines (R263). -/
  | quietRotation
  /-- A joining way enters the quiet set once no class 1–3 program or erase runs on it, and the leaving way leaves (R263). -/
  | quietJoin
  /-- The media scheduler picks the next operation for a die and hands its descriptor to the channel (R263). -/
  | mediaSchedule (die : Die)
  /-- A descriptor with OP 1 reads a page set, with read-retry up to the class limit (R270). -/
  | mediaRead (ch : Chan)
  /-- A descriptor with OP 2 programs a page set from a page buffer (R267). -/
  | mediaProgram (ch : Chan)
  /-- A descriptor with OP 3 erases an erase block (R275). -/
  | mediaErase (ch : Chan)
  /-- A descriptor with OP 4 resets a LUN (R273). -/
  | lunReset (ch : Chan)
  /-- A descriptor with OP 5 sets a LUN feature (R275). -/
  | setFeature (ch : Chan) (way fa : Nat) (p : Word)
  /-- A descriptor with OP 6 suspends a program or erase for a read (R268). -/
  | suspend (ch : Chan)
  /-- A descriptor with OP 7 resumes a suspended operation (R268). -/
  | resume (ch : Chan)
  /-- A die reports ready after an operation, and the result is posted as done, failed, unreadable or erased (R273). -/
  | dieReady (die : Die) (r : DieResult)
  /-- An operation passes three times its characterised time and the die is given LUN Reset (R273). -/
  | operationTimeLimit (die : Die)
  /-- A die not ready within 10 ms of LUN Reset is declared failed (R273). -/
  | lunResetTimeout (die : Die)
  /-- A channel page buffer is freed and the waiting operation of lowest class and then oldest age takes it (R267). -/
  | pageBufferFree (ch : Chan) (buf : Fin 2)
  /-- Sequencer HALT ends the operation and waits for the next descriptor (R277). -/
  | halt (ch : Chan)
  /-- Sequencer JMP sets UPC to a target (R277). -/
  | seqJmp (ch : Chan) (target : BitVec 12)
  /-- Sequencer JCC jumps when its condition holds (R277). -/
  | jcc (ch : Chan) (cond : BitVec 4) (target : BitVec 12)
  /-- Sequencer CALL pushes UPC + 1 and jumps (R277). -/
  | seqCall (ch : Chan) (target : BitVec 12)
  /-- Sequencer RET pops UPC (R277). -/
  | seqRet (ch : Chan)
  /-- Sequencer LDCNT loads CNT (R277). -/
  | ldcnt (ch : Chan) (n : BitVec 16)
  /-- Sequencer LOOP decrements CNT and jumps while nonzero (R277). -/
  | loop (ch : Chan) (target : BitVec 12)
  /-- Sequencer WAITRB polls 78h every 1 µs until the LUN is ready (R277). -/
  | waitrb (ch : Chan) (w : Word) (ready : Bool) (st : Byte)
  /-- The WAITRB timeout expires first and TO is set (R277). -/
  | waitrbTimeout (ch : Chan)
  /-- Sequencer LDDESC loads an address register from a descriptor word or ADDR (R277). -/
  | lddesc (ch : Chan) (w : Word)
  /-- Sequencer ADDA adds a signed value to an address register (R277). -/
  | adda (ch : Chan) (w : Word)
  /-- Sequencer SETF issues LUN Set Features (R277). -/
  | setf (ch : Chan) (w : Word)
  /-- Sequencer RETRY sets the next retry-table entry while steps remain (R277). -/
  | retry (ch : Chan) (w : Word)
  /-- Sequencer POST reports a result to the scheduler (R277). -/
  | post (ch : Chan) (w : Word)
  /-- A format-1 microword issues one bus-side and one buffer-side short operation in the same cycle (R278). -/
  | shortOperationPair (ch : Chan) (w : Word) (dq : List Byte)
  /-- MCH_CTRL.STEP executes one microword while RUN is 0 (R281). -/
  | step (m : Master) (ch : Chan) (v : Word) (ready : Bool) (st : Byte) (dq : List Byte)
  /-- An access to MCH_USDATA reads or writes microword ADDR and advances ADDR (R281). -/
  | mchUsdataAccess (m : Master) (ch : Chan) (write : Option Word)
  /-- A SEARCH job finds the winning index-mode entry across the masked banks it may use (R286). -/
  | search (c : CellId)
  /-- A SEARCH_STREAM job searches COUNT stream entries and writes their results to the output stream (R295). -/
  | searchStream (c : CellId)
  /-- An INSERT job shifts a run if needed, writes the entry and posts its shadow write (R291). -/
  | insert (c : CellId)
  /-- A DELETE job frees every exactly equal entry and writes their shadow slots free (R293). -/
  | delete (c : CellId)
  /-- A READ job returns the key, care mask and data at a bank position (R295). -/
  | searchEntryRead (c : CellId)
  /-- A codec unit's window search returns the most recent match positions of 11 input bytes (R294). -/
  | windowSearch (unit : Fin 4) (bs : List Byte)
  /-- The sweep compares an occupied position with its shadow slot and repairs a mismatch (R298). -/
  | sweepCompare (bank : Fin 16) (flip : Option Entry) (bad : Bool)
  /-- An insert's or delete's shadow write completes in DRAM and the paused sweep resumes (R299). -/
  | shadowWriteComplete
  /-- A spread lays out free positions every STRIDE − 1 entries by single-run shifts (R292). -/
  | spread (m : Option Master) (bank : Fin 16)
  /-- SRB_CTRL.CLEAR frees every position and sets the bank's shadow slots free (R285). -/
  | clear (m : Master) (bank : Fin 16)
  /-- A write of SRB_CTRL mode or owner clears the bank before it takes its new mode and owner (R285). -/
  | srbModeOwnerWrite (m : Master) (bank : Fin 16) (v : Word)
  /-- SRC_CMD.INIT writes the free pattern to every shadow slot and frees every bank (R302). -/
  | init (m : Master)
  /-- SRC_CMD.RELOAD rebuilds each bank from its shadow, spreads and verifies it (R302). -/
  | reload (m : Master)
  /-- INIT or RELOAD ends, START clears and EV_SRC_READY is raised (R302). -/
  | srcReady
  /-- Every 1 ms the junction temperature sets the throttle step of the engine's own operations (R301). -/
  | srcThrottleSample
  /-- A path job encrypts or decrypts one 4 KiB codeword on a cipher lane (R308). -/
  | cipherPathJob (lane : Fin 16) (req : Nat)
  /-- A cell cipher job of KIND 5 runs CBC, CTR, CFB, CCM or CMAC and writes back DONE, EPOCHW and SPLITW (R326). -/
  | cipherJob (c : CellId) (lane : Fin 16) (busErr : Bool)
  /-- CIP_CTRL.HALT stops the lane's job at its next block boundary with status 0x0030 (R329). -/
  | cipherHalt (m : Master) (lane : Fin 16) (v : Word)
  /-- A digest job of KIND 6 hashes its input and writes back state or digest (R328). -/
  | digestJob (c : CellId) (lane : Fin 4) (cut : Option Nat) (busErr : Bool)
  /-- KEY_CMD DERIVE derives a key into a slot under the label and root, or refuses it (R313). -/
  | derive (m : Master) (v : Word)
  /-- KEY_CMD ERASE erases a slot (R330). -/
  | erase (m : Master) (v : Word)
  /-- KEY_CMD INSTALL unwraps the blob in KEY_WRAP as the provisioned root (R314). -/
  | install (m : Master) (v : Word)
  /-- KEY_CMD ERASE_ALL erases every key slot (R330). -/
  | eraseAll (m : Master) (v : Word)
  /-- KEY_CMD with OP 0, 5, 6 or 7 is refused with RESULT 8 (R330). -/
  | keyOpRefused (m : Master) (v : Word)
  /-- KEY_CTRL.ROOT_LOCK refuses INSTALL from the side-band until the next controller-side reset (R314). -/
  | rootLock (m : Master) (v : Word)
  /-- A read of KEY_SUSE0 latches KEY_SUSE1 for the same master (R316). -/
  | keySuse0Read (m : Master)
  /-- A DRAM channel issues its next line request, promoted first, then lowest class, then oldest (R335). -/
  | dramRequestIssue (ch : Nat) (upset : List (Nat × BitVec 266))
  /-- Every 488 ns a channel refreshes its next bank, postponing during a blackout (R337). -/
  | perBankRefresh (ch : Nat)
  /-- Every 10 ms the DRAM temperature sets BAND and raises EV_DRC_BAND on a crossing, or MARGIN (R339). -/
  | dramTempSample (t : Int)
  /-- DRC_RT.ARM asks for the staged delay sets to be applied at the next blackout slot (R340). -/
  | arm (m : Master) (v : Word)
  /-- DRC_RT.CANCEL clears ARM (R340). -/
  | cancel (m : Master) (v : Word)
  /-- Forecast grants a blackout slot and for 400 ns the staged codes become active on every channel (R340). -/
  | retuneBlackout
  /-- A requester's access to a fabric-cache slice hits, misses and allocates, or goes to DRAM (R346). -/
  | cacheAccess (id addr len cls : Nat) (write : Option (List Byte))
  /-- A miss fill completes and the port serves the requests that waited on it (R351). -/
  | cacheFill (slice id : Nat)
  /-- When the earlier admissions' deadlines have passed, a retiring way is written back, invalidated and disabled (R349). -/
  | wayDisable (slice way : Nat)
  /-- FCV_MOP CLEAN writes back dirty lines of an address range (R352). -/
  | clean (m : Master) (v : Word)
  /-- FCV_MOP INVAL drops the lines of an address range (R352). -/
  | inval (m : Master) (v : Word)
  /-- FCV_MOP CLEAN_INVAL writes back and drops the lines of an address range (R352). -/
  | cleanInval (m : Master) (v : Word)
  /-- FCV_MOP CLEAN_ALL writes back every dirty line of the cache (R352). -/
  | cleanAll (m : Master) (v : Word)
  /-- FCV_MOP CLEAN_INVAL_ALL writes back and drops every line of the cache (R352). -/
  | cleanInvalAll (m : Master) (v : Word)
  /-- FCH_WOP CLEAN_WAY writes back every dirty line of one way of a slice (R352). -/
  | cleanWay (m : Master) (slice : Nat) (v : Word)
  /-- FCH_WOP CLEAN_INVAL_WAY writes back and drops every line of one way (R352). -/
  | cleanInvalWay (m : Master) (slice : Nat) (v : Word)
  /-- A cache maintenance operation ends and EV_FCV_MDONE is raised (R352). -/
  | maintenanceDone (slice : Option Nat)
  /-- FCH_WDIS disables ways at once with write-back, refused below 4 enabled ways (R349). -/
  | fchWdis (m : Master) (slice : Nat) (v : Word)
  /-- A 64 MiB DRAM region finishes its fill and accesses stalled on it proceed (R361). -/
  | regionFill
  /-- MP_CLEAR empties the correction log and clears USED and TABLE_FULL (R362). -/
  | mpClear (m : Master) (page : Nat) (v : Word)
  /-- A write to VFM_SEL selects a function and reloads the staged share registers from its applied shares (R363). -/
  | vfmSelWrite (m : Master) (v : Word)
  /-- VFM_APPLY commits the staged shares of the selected function, releasing shares under R364, or refuses (R366). -/
  | apply (m : Master) (v : Word)
  /-- A SEND copies a 64-byte mailbox message to the receiver and raises its event, or is refused (R367). -/
  | mailboxSend (m : Master) (fn : Fun) (v : Word)
  /-- An ACK takes the incoming message, clears both flags and raises the sender's acknowledgement event (R367). -/
  | mailboxAck (m : Master) (fn : Fun) (v : Word)
  /-- VFM_DPCTRL.ENABLE from 0 to 1 zeroes both bitmaps and OVER and starts marking (R368). -/
  | dirtyPageEnable (m : Master) (v : Word)
  /-- VFM_DPCTRL.COPY swaps the bitmaps and copies the retired one to PF host memory (R369). -/
  | copyBitmap (m : Master) (v : Word)
  /-- The bitmap copy ends, the retired bitmap is zeroed, OVER clears and EV_VFM_DPDONE is raised (R369). -/
  | dirtyPageCopyDone (fn : Fun)
  /-- Released SLM bytes are written with zeros as class 3 work (R364). -/
  | slmShareZero (fn : Fun)
  /-- A discrete input holds a new level for its debounce time and an EVENT_RECORD entry is made (R384). -/
  | discreteInputChange (n : Nat) (level : Bool) (t : BitVec 64)
  /-- At the end of a sample interval with a nonzero count, a speed-sample entry is made (R384). -/
  | speedSample
  /-- A CAN frame received without error that passes the filters becomes CAN_BATCH entries (R385). -/
  | canFrameReceived (bus : Nat) (ident : Word) (fd brs esi : Bool) (dlc : Nat) (data : List Byte)
  /-- A CAN bus changes its error state and an EVENT_RECORD of SOURCE 7 is made (R384). -/
  | canBusStateChange (bus st tec rec : Nat)
  /-- An Ethernet frame with a good FCS that matches a filter becomes ETH_FRAGMENT entries (R386). -/
  | ethFrameReceived (port : Nat) (frame : List Byte)
  /-- An Ethernet link goes up or down and an EVENT_RECORD of SOURCE 8 is made (R384). -/
  | ethernetLinkChange (port : Nat) (up : Bool)
  /-- The field ring token bucket fills at 4,096 entries per second (R397). -/
  | fieldTokenRefill (n : Nat)
  /-- Every TIME_SYNC interval a TIME_SYNC entry enters the ring (R377). -/
  | timeSyncInterval
  /-- Every 10 s a HEALTH entry enters the ring (R387). -/
  | healthInterval (mv temp : Nat)
  /-- The RTC reaches the wake-policy alarm time and fires the alarm wake source (R388). -/
  | rtcAlarm
  /-- Every second the legal time is written to MRAM (R398). -/
  | legalTimeStore
  /-- The field die sends its next ring entry in sequence order while the link is up (R381). -/
  | ringEntrySend
  /-- While an enabled source has fired and the link is down, WAKE is sent every 10 ms (R388). -/
  | wakeRepeat
  /-- The wake outputs are released after 10 s, and asserted again every 60 s while the source persists (R388). -/
  | wakeOutputTimeout (again : Bool)
  /-- The field die starts on VF3P3, continues from the stored sequence reserve and records SOURCE 6 (R398). -/
  | fieldColdStart
  /-- VF3P3 below 2.85 V resets the field die and drops the Front link (R480). -/
  | vf3p3Loss
  /-- The host side receives an EVENT_RECORD message and hands it to cell 14 (R384). -/
  | eventRecord (msg : List Byte)
  /-- The host side receives a CAN_BATCH message (R385). -/
  | canBatch (msg : List Byte)
  /-- The host side receives an ETH_FRAGMENT message (R386). -/
  | ethFragment (msg : List Byte)
  /-- The host side receives a TIME_SYNC message (R377). -/
  | timeSync (msg : List Byte)
  /-- A WAKE message wakes the device from Lull or Calm, or raises EV_FRL_WAKE with the link up (R388). -/
  | wake (msg : List Byte)
  /-- The host side receives a HEALTH message and updates FRL_STAT (R387). -/
  | fieldHealth (msg : List Byte)
  /-- The host side receives an ACK from the field die for a host message or a RESUME (R389). -/
  | ack (msg : List Byte)
  /-- The field die receives CONFIG and sets one field parameter, or refuses it (R391). -/
  | config (msg : List Byte)
  /-- The field die receives TIME_SET and steps or slews legal time, or refuses it (R376). -/
  | timeSet (msg : List Byte)
  /-- The field die receives WAKE_POLICY and stores the wake sources (R388). -/
  | wakePolicy (msg : List Byte)
  /-- The field die receives TX_CAN and transmits the frame if the allow-list permits (R394). -/
  | txCan (msg : List Byte)
  /-- A TX_CAN frame is transmitted or abandoned and the ACK follows (R394). -/
  | canTransmitDone (ok : Bool)
  /-- The field die receives a FIELD_IMAGE segment and writes it into the copy not running (R396). -/
  | fieldImage (msg : List Byte)
  /-- The boot ROM finishes verifying the image signature and the last segment is answered (R396). -/
  | fieldImageVerified (ok : Bool) (version : Word)
  /-- FIELD_IMAGE with ACTIVATE warm-restarts the field die into the pending copy (R396). -/
  | fieldImageActivate (msg : List Byte) (starts : Bool)
  /-- The field die receives ACK from the host side and frees durable entries, resends or answers a RESUME (R381). -/
  | hostAck (msg : List Byte)
  /-- The Front link trains and the host side starts sending ACK with RESUME (R378). -/
  | frontLinkUp
  /-- The Front link goes down and EV_FRL_LINKDOWN is raised (R378). -/
  | frontLinkDown
  /-- FRL_CTRL.RETRAIN trains the link again (R378). -/
  | retrain (m : Master) (v : Word)
  /-- Every 1 ms until the field die answers, the host side repeats ACK with RESUME (R381). -/
  | resumeRepeat
  /-- A host-to-field message without ACK for 1 ms is sent again with RESENT (R382). -/
  | hostResendTimeout
  /-- FRL_MSGCTL.SEND sends a CONFIG, WAKE_POLICY or TX_CAN payload, or refuses it (R403). -/
  | frlMsgSend (m : Master) (v : Word)
  /-- No ACK within 10 ms sets RESULT 0xFF (R403). -/
  | frlMsgTimeout
  /-- Cell 14 appends capture blocks to NSID 1 at 8 blocks, after 20 ms or during a backlog (R399). -/
  | captureAppend
  /-- A capture append is durable and cell 14 sends ACK with the last durable SEQ (R399). -/
  | appendDurable (k : Nat)
  /-- MCTP control Set Endpoint ID (R406). -/
  | setEndpointId (r : SbReq)
  /-- MCTP control Get Endpoint ID (R406). -/
  | getEndpointId (r : SbReq)
  /-- MCTP control Get MCTP Version Support (R406). -/
  | getMctpVersionSupport (r : SbReq)
  /-- MCTP control Get Message Type Support (R406). -/
  | getMessageTypeSupport (r : SbReq)
  /-- MCTP control Get Vendor Defined Message Support (R406). -/
  | getVendorDefinedMessageSupport (r : SbReq)
  /-- Another control command is answered ERROR_UNSUPPORTED_CMD, and another message type is dropped and counted (R406). -/
  | unsupportedMctpMessage (r : SbReq)
  /-- I3C ENTDAA assigns the port its dynamic address (R404). -/
  | entdaa (addr : BitVec 7)
  /-- NVMe-MI basic management returns status and SMART figures from the warden's copy (R408). -/
  | basicManagementCommand (r : SbReq)
  /-- NVMe-MI Read NVMe-MI Data Structure (R408). -/
  | readNvmeMiDataStructure (r : SbReq)
  /-- NVMe-MI NVM Subsystem Health Status Poll (R408). -/
  | nvmSubsystemHealthStatusPoll (r : SbReq)
  /-- NVMe-MI Controller Health Status Poll (R408). -/
  | controllerHealthStatusPoll (r : SbReq)
  /-- NVMe-MI Configuration Get (R408). -/
  | configurationGet (r : SbReq)
  /-- NVMe-MI Configuration Set of SMBus frequency or transmission unit (R408). -/
  | configurationSet (r : SbReq)
  /-- NVMe-MI VPD Read from the boot NOR (R408). -/
  | vpdRead (r : SbReq)
  /-- NVMe-MI tunnels Identify, Get Log Page or Get Features in Gale or Breeze (R408). -/
  | adminCommandTunnel (r : SbReq)
  /-- Any other NVMe-MI command is answered with Invalid Command Opcode (R408). -/
  | refusedNvmeMiCommand (r : SbReq)
  /-- Vendor PAGE_READ reads up to 16 words of a page (R410). -/
  | pageRead (r : SbReq)
  /-- Vendor PAGE_WRITE writes up to 16 words, stopping at the first refused word (R410). -/
  | pageWrite (r : SbReq)
  /-- Vendor HEALTH returns the warden's health copy (R411). -/
  | health (r : SbReq)
  /-- Vendor POWER with ACTION 0 returns the present and requested states (R410). -/
  | powerGet (r : SbReq)
  /-- Vendor POWER with ACTION 1 requests a state, waking or entering Lull or Calm, or is refused (R417). -/
  | powerRequest (r : SbReq)
  /-- Vendor LOG_READ returns bytes of a served log page or the warden's event log (R410). -/
  | logRead (r : SbReq)
  /-- Vendor FW_SLOT get returns the active and next-start slots (R410). -/
  | fwSlotGet (r : SbReq)
  /-- Vendor FW_SLOT set writes NEXT as Firmware Commit 001b would (R410). -/
  | fwSlotSet (r : SbReq)
  /-- Vendor FIELD_STATUS returns FRL_STAT, AGE and the last HEALTH payload (R410). -/
  | fieldStatus (r : SbReq)
  /-- Vendor FIELD_CONFIG has cell 15 send a CONFIG, the only path for the allow-list and LOCK (R410). -/
  | fieldConfig (r : SbReq)
  /-- Vendor EVID_PROVISION sets the capacity of NSID 1 once (R410). -/
  | evidProvision (r : SbReq)
  /-- Vendor ROOT_BLOB writes a wrapped root blob to the boot NOR for the next start (R410). -/
  | rootBlob (r : SbReq)
  /-- Vendor OWNER has the warden write a page's PG_OWNER (R410). -/
  | owner (r : SbReq)
  /-- Vendor SQUALL with SUBOP 0 returns SQL_STAT (R462). -/
  | squallStatus (r : SbReq)
  /-- Vendor SQUALL with SUBOP 1 unlocks Squall with the side-band as holder (R461). -/
  | squallUnlock (r : SbReq)
  /-- Vendor SQUALL with SUBOP 2 locks Squall (R462). -/
  | squallLock (r : SbReq)
  /-- A vendor request with an unknown OP or reserved byte is answered INVALID (R409). -/
  | unknownVendorOp (r : SbReq)
  /-- A main-side cell gives no answer within 100 ms and the request is answered TIMEOUT (R410). -/
  | mainSideTimeout
  /-- Every 1 s in Gale or Breeze the warden refreshes its health copy, setting STATE 6 after two missed refreshes (R411). -/
  | healthRefresh (answered : Bool)
  /-- After the Breeze conditions have held for 20 ms the device gates idle blocks in Breeze (R415). -/
  | breezeEntry
  /-- A Breeze condition stops holding and the device returns to Gale (R415). -/
  | breezeExit
  /-- After PWR_CTRL.DELAY seconds an automatic request for the state DEEP names is made (R417). -/
  | automaticDeepTimer
  /-- PWR_REQ.GO requests a wake or entry to Lull or Calm, or is refused (R417). -/
  | go (m : Master) (v : Word)
  /-- Entry to Lull stops fetching, drains staging, writes the journal, cleans the cache and puts DRAM in self-refresh (R418). -/
  | lullEntry
  /-- Entry to Calm drains staging, takes a checkpoint and turns off DRAM and every main-side domain (R418). -/
  | calmEntry
  /-- A wake source ends Lull and the device returns to full service within 6 ms (R420). -/
  | lullExit
  /-- A wake source ends Calm through a flushed start (R421). -/
  | calmExit
  /-- Every 1 ms the junction sensors set the throttle step after 100 ms, and Forecast applies the factor (R427). -/
  | thermalSample (temps : List Int) (watts : Rat)
  /-- A rising throttle step takes effect in hardware after the earlier admissions' deadlines (R428). -/
  | throttleEffect
  /-- Junction at or above 135 °C for 10 ms flushes staging and turns the main side off until below 100 °C (R429). -/
  | thermalHold
  /-- Every sensor reads below 100 °C and the device wakes under R421 (R429). -/
  | thermalHoldEnd
  /-- After 1 ms without a side-band transaction, wake or alert, the warden oscillator stops (R424). -/
  | wardenOscillatorStop
  /-- A PLL loses lock, raising EV_CLK_UNLOCK and the CLOCK alarm for PLL A to D (R425). -/
  | pllUnlock (pll : Nat)
  /-- A crystal stops, raising EV_CLK_XTAL and the CLOCK alarm for the 25 MHz crystal (R425). -/
  | crystalStop (x25 : Bool)
  /-- V3P3_AON becomes good, the always-on domain fills, the fuses are sensed and the warden is verified and released (R438). -/
  | alwaysOnPowerOn (i3c : Bool)
  /-- The warden finds V12_MAIN good and starts the main side, loading firmware and replaying the map (R439). -/
  | mainStart (f : StartFacts)
  /-- The warden restarts the main side with DRAM held in self-refresh, and the start proceeds as kind 2 (R442). -/
  | mainSideRestart (f : StartFacts)
  /-- V12_MAIN falls below 9.0 V, the regulators shut down and the main side is lost (R480). -/
  | v12MainLoss
  /-- VCCQ_N below 1.0 V stops the channels and fetching until a kind 2 restart (R480). -/
  | vccqNLoss
  /-- Every 1 µs the controller-side supplies are sampled, setting SUPPLY after 10 µs out of range (R474). -/
  | supplySample (main aon vccq : Nat)
  /-- The alarm monitor detects a VOLT, CLOCK, TEMP, TAMPER or KEYSLOT condition and acts under R455 (R454). -/
  | alarm (n : Nat)
  /-- An alarm's condition has been absent for 10 ms; the root is reinstalled and slots derived again (R455). -/
  | alarmEnd (n : Nat)
  /-- EVT_CTRL.REARM clears EVT_FIRST0 to EVT_FIRST2 (R451). -/
  | rearm (m : Master) (v : Word)
  /-- Each always-on millisecond is counted in ACCT_MS when accountable, and in UNAV_MS when an interval covers it (R456). -/
  | availabilityTick
  /-- Every hour and at entry to Calm the warden writes the availability counters to the health log (R459). -/
  | accountingLogWrite
  /-- SQL_CTRL.UNLOCK from the PF with TESTOPEN, or the side-band, unlocks Squall with the writer as holder (R461). -/
  | unlock (m : Master) (v : Word)
  /-- SQL_CTRL.LOCK returns every Squall control to 0, releases delayed results and clears FORCED (R462). -/
  | sqlLock (m : Master) (v : Word)
  /-- A write to SQ_FORCE forces or arms listed block sources and sets FORCED (R484). -/
  | sqForce (m : Master) (page : Nat) (v : Word)
  /-- A result held by SQ_DELAY is delivered once its delay has passed (R463). -/
  | delayedResultRelease
  /-- The sequencer releases a die's ready once the scaled elapsed time of its operation has passed (R463). -/
  | scaledReadyRelease (die : Nat)
  /-- A loss of V3P3_AON stops the main side at once and is treated as a loss of V12_MAIN (R433). -/
  | v3p3AonLoss
  /-- A configuration write setting VF Enable and NumVFs brings the VFs into existence, so VFM_STATE.EXISTS reads 1 for them (R365). -/
  | vfEnableSet (n : Fun)
  /-- The host link enters L1, L1.1 or L1.2 under ASPM, which HIF_LINK.PM shows and which starts the 20 ms Breeze condition (R415). -/
  | pcieL1Entry (pm : Nat)
  /-- A pulse on SPEED_IN at least the minimum pulse width long increments the speed count and may fire the speed wake source (R384). -/
  | speedPulse (widthUs : Nat)
  /-- SRB_CTRL.TEST starts a throttled self-test of an empty bank, which sets TESTFAIL on a wrong result and ends with EV_SRB_TESTDONE (R301). -/
  | srbSelfTest (m : Option Master) (bank : Fin 16) (pass : Bool)
  /-- A field-capture append held at Forecast for more than its R44 bound opens an unavailable interval of cause 5 (R457). -/
  | fieldAppendBoundPassed
  /-- The RTC has absorbed d, so the slew ends and TIME_SYNC STATUS stops showing slewing (R376). -/
  | slewComplete
  deriving DecidableEq, Repr

end Sys2Proof
end

