-- ==== Sys2Proof/Config.lean ====
section
/-!
DEFINITION. What a part or an implementation fixes and the specification does not give: fuses, characterisation tables, and
the free values. None has a body, so no proof can see a value.
-/

namespace Sys2Proof.Config

/-- The device-unique fuse root (R314). -/
opaque fuseRoot : BitVec 256

/-- The 64-bit serial number (FUS_SERIAL). -/
opaque serial : BitVec 64

/-- FUS_STAT of the part, bits [2:0]: PROVISIONED, TESTOPEN, ROOTFUSE. -/
opaque fuses : BitVec 3

/-- The Krovgar PCI vendor identifier (R406). -/
opaque pciVendor : BitVec 16

/-- A free 64-bit value by its index: what the specification leaves open and the device still produces (log 5). -/
opaque freeValue : Nat → BitVec 64

/-- The bytes of a structure whose layout the specification leaves to a standard and to the part: by the structure, its
selector and its length (log 13). -/
opaque standardData : String → Nat → Nat → List (BitVec 8)

/-- The composite temperature in kelvin that sensor readings in °C give: the standard leaves it to the device (log 13). -/
opaque composite : List Int → Nat

/-- The release word (FUS_FWREL) of a firmware image, by its bytes: the place of it in an image is not given (log 13). -/
opaque imageRelease : List (Nat × BitVec 8) → BitVec 32

/-- What the compressing built-in programs make of an input, by FORMAT (0 LZ4 block, 1 LZ4 frame, 2 raw DEFLATE): R119 gives its
form, not its bytes (log 14). -/
opaque compressed : Nat → List (BitVec 8) → List (BitVec 8)

/-- Words 0 to 63 of a compute cell's instruction memory: the trap stubs of vendor firmware (R106, log 101). -/
opaque trapStub : Nat → BitVec 14

/-- What a firmware image makes a service cell run: its instruction words and its data words with their tags, by image, cell and word (R193; the
place of them in an image is not given, log 118). -/
opaque cellCode : List (Nat × BitVec 8) → Nat → Nat → BitVec 14
opaque cellData : List (Nat × BitVec 8) → Nat → Nat → BitVec 36

/-- Whether the warden ROM's check of the signature over a warden segment, its code and data words, holds (R436; the place of the signature in
the segment is not given, log 128). -/
opaque wardenSigned : List (Nat × BitVec 14) → List (Nat × BitVec 36) → Bool

/-- The field patch segment of a firmware image (R90, R434; its place in an image is not given, log 126). -/
opaque fieldPatch : List (Nat × BitVec 8) → List (BitVec 8)

/-- The code of a built-in program by its index and instruction word, and its header: 0 entry, 1 data base, 2 initial SP, 3 SPLIM (R113,
log 101). -/
opaque builtinCode : Nat → Nat → BitVec 14
opaque builtinHeader : Nat → Nat → BitVec 14

/-- The characterised operation times of the attached die type in nanoseconds by mode (0 pSLC, 1 TLC, 2 QLC) and operation
(1 read, 2 program, 3 erase) (R264, R273). -/
opaque dieTime : Nat → Nat → Nat

/-- The other die constants of the characterisation entry, by their index in R64: T_BERS, T_SUS, T_RES, SUS_PROG, SUS_ERASE, BW_CH. -/
opaque dieConst : Nat → BitVec 32

/-- The retry-table entries of a mode (R270). -/
opaque retryEntries : Nat → Nat

/-- RATED_PE of a mode (R239). -/
opaque ratedPe : Nat → Nat

/-- The bytes of the warden's event log (LOG_READ E0h): the specification gives its contents, pages and words with their times, and not
its layout (log 13). -/
opaque eventLog : List (Nat × BitVec 32 × BitVec 64) → List (BitVec 8)

/-- The delay code of the characterisation tables by band, channel, item and lane (R339). -/
opaque delayCode : Nat → Nat → Nat → Nat → BitVec 9

end Sys2Proof.Config
end

