-- ==== Sys2Proof/Machine/RegTable.lean ====
section
/-!
DEFINITION. The register pages (R25) and every register on them: offset, reset value, owner line (R8) and access codes (R9),
from the register tables of the chapters. Bits in no mask are reserved. The reset values of PG_ID, PG_FEAT, PG_OWNER,
DIG_CTRL and the per-part registers are computed (`resetOf`).
-/

namespace Sys2Proof.Machine

/-- The owner line of a register (R8): none; per PG_OWNER; a list of PF, side-band, warden and a range of cells; the Squall
holder and the warden (R461); a VF window's own VF and the warden. -/
inductive Owner where
  | none
  | page
  | list (pf sideband warden : Bool) (cells : Option (Nat × Nat))
  | holder
  | vf
  deriving DecidableEq, Repr

/-- A register, or `n` registers at successive words: reset value, owner, and the masks of its access codes. -/
structure RegDef where
  off   : Nat
  n     : Nat := 1
  reset : Word := 0
  owner : Owner
  ro    : Word := 0
  rw    : Word := 0
  w1c   : Word := 0
  w1s   : Word := 0
  wo    : Word := 0
  deriving DecidableEq, Repr

/-- The blocks of R25 that have pages. -/
inductive Kind where
  | top | pwr | clk | rst | tmp | evt | sql | fus | hif | nvq | vfm | adm | adl | cel | fab | cdc | mch | msq | red
  | src | srb | key | cip | dig | drc | dch | fch | fcv | frl | sbm | vmb | vad | vtp
  deriving DecidableEq, Repr

/-- The block and instance of a page: a PF page number, or 4096 + 16 × VF + (0 VMB, 1 VAD, 2 VTP) for a page of a VF window
(R25, R26). -/
def kindOf (p : Nat) : Option (Kind × Nat) :=
  if p < 0x1000 then
    if p ≤ 7 then
      some (match p with
        | 0 => .top | 1 => .pwr | 2 => .clk | 3 => .rst | 4 => .tmp | 5 => .evt | 6 => .sql | _ => .fus, 0)
    else if p = 0x10 then some (.hif, 0)
    else if 0x11 ≤ p ∧ p ≤ 0x13 then some (.nvq, p - 0x11)
    else if p = 0x18 then some (.vfm, 0)
    else if p = 0x20 then some (.adm, 0)
    else if p = 0x21 then some (.adl, 0)
    else if 0x40 ≤ p ∧ p ≤ 0x68 then some (.cel, p - 0x40)
    else if p = 0x70 then some (.fab, 0)
    else if 0x71 ≤ p ∧ p ≤ 0x74 then some (.cdc, p - 0x71)
    else if 0x80 ≤ p ∧ p ≤ 0x8F then some (.mch, p - 0x80)
    else if p = 0x90 then some (.msq, 0)
    else if p = 0x91 then some (.red, 0)
    else if p = 0xA0 then some (.src, 0)
    else if 0xA1 ≤ p ∧ p ≤ 0xB0 then some (.srb, p - 0xA1)
    else if p = 0xC0 then some (.key, 0)
    else if 0xC1 ≤ p ∧ p ≤ 0xD0 then some (.cip, p - 0xC1)
    else if 0xD4 ≤ p ∧ p ≤ 0xD7 then some (.dig, p - 0xD4)
    else if p = 0xE0 then some (.drc, 0)
    else if 0xE1 ≤ p ∧ p ≤ 0xE4 then some (.dch, p - 0xE1)
    else if 0xE8 ≤ p ∧ p ≤ 0xEB then some (.fch, p - 0xE8)
    else if p = 0xEC then some (.fcv, 0)
    else if p = 0xF0 then some (.frl, 0)
    else if p = 0xF8 then some (.sbm, 0)
    else none
  else
    let v := (p - 0x1000) / 16
    if 1 ≤ v ∧ v ≤ 15 then
      match (p - 0x1000) % 16 with
      | 0 => some (.vmb, v)
      | 1 => some (.vad, v)
      | 2 => some (.vtp, v)
      | _ => none
    else none

/-- Every PF page number of R25, ascending. -/
def pfPages : List Nat :=
  List.range 8 ++ [0x10, 0x11, 0x12, 0x13, 0x18, 0x20, 0x21] ++ (List.range 41).map (0x40 + ·) ++
    (List.range 5).map (0x70 + ·) ++ (List.range 18).map (0x80 + ·) ++ (List.range 17).map (0xA0 + ·) ++
    (List.range 17).map (0xC0 + ·) ++ (List.range 4).map (0xD4 + ·) ++ (List.range 5).map (0xE0 + ·) ++
    (List.range 5).map (0xE8 + ·) ++ [0xF0, 0xF8]

/-- The pages of the VF windows (R25). -/
def vfPages : List Nat := ((List.range 15).map fun k => (List.range 3).map fun j => 0x1010 + 16 * k + j).flatten

/-- Every page that has an event group. -/
def eventPages : List Nat := pfPages ++ vfPages

/-- The block type code (R25): the number of the block's first page, except in the VF window. -/
def typeOf : Kind → Nat
  | .top => 0 | .pwr => 1 | .clk => 2 | .rst => 3 | .tmp => 4 | .evt => 5 | .sql => 6 | .fus => 7 | .hif => 0x10
  | .nvq => 0x11 | .vfm => 0x18 | .adm => 0x20 | .adl => 0x21 | .cel => 0x40 | .fab => 0x70 | .cdc => 0x71
  | .mch => 0x80 | .msq => 0x90 | .red => 0x91 | .src => 0xA0 | .srb => 0xA1 | .key => 0xC0 | .cip => 0xC1
  | .dig => 0xD4 | .drc => 0xE0 | .dch => 0xE1 | .fch => 0xE8 | .fcv => 0xEC | .frl => 0xF0 | .sbm => 0xF8
  | .vmb => 0x100 | .vad => 0x101 | .vtp => 0x102

/-- CNT_NUM, the counter slots of each block's page (R40 and the blocks' chapters; 2 where a chapter gives none, log 10). -/
def cntNum : Kind → Nat
  | .top => 2 | .adm => 12 | .hif => 7 | .nvq => 7 | .cel => 10 | .cdc => 9 | .fab => 5 | .red => 7 | .mch => 14
  | .msq => 5 | .src => 4 | .srb => 11 | .key => 6 | .cip => 7 | .dig => 7 | .drc => 6 | .dch => 7 | .fch => 10
  | .fcv => 6 | .vfm => 5 | .vmb => 2 | .frl => 9 | .sbm => 5 | .clk => 4 | .pwr => 7 | .rst => 6 | .evt => 10
  | .sql => 4 | .tmp => 4 | .adl => 2 | .fus => 2 | .vad => 2 | .vtp => 2

/-- The low slots of joined 64-bit counters (R41). -/
def joinedSlots : Kind → List Nat
  | .adm | .hif | .cel | .cip | .dig | .dch | .frl => [2]
  | .nvq | .cdc | .mch | .srb | .fch | .evt => [2, 4]
  | _ => []

/-- Whether the page holds the correction log (R359, R362). -/
def hasMpLog (k : Kind) (inst : Nat) : Bool :=
  match k with
  | .cel | .fch | .fcv | .dch | .mch | .srb | .key | .red | .hif | .nvq | .frl | .cdc => true
  | .dig => inst == 0
  | _ => false

/-- Whether the page has a Squall area: the 129 PF pages (R34). -/
def hasSquall : Kind → Bool
  | .vmb | .vad | .vtp => false
  | _ => true

/-- PG_OWNER as start-up sets it (R34 and the chapters' owner lines; log 11 where a chapter gives none). -/
def ownerReset (k : Kind) (inst : Nat) : Word :=
  match k with
  | .top | .pwr | .rst | .tmp | .evt => 0x00000015
  | .sql => 0x00000014
  | .clk | .fus | .fab | .sbm | .vad | .vtp => 0x00000010
  | .hif | .nvq => 0x03000018
  | .adm | .adl => 0x03000019
  | .vfm => 0x00000011
  | .cel => if inst = 40 then 0x00000010 else 0x0F000018
  | .cdc | .src | .srb | .cip | .dig | .drc | .dch | .fch | .fcv => 0x0F000018
  | .mch => 0x0B040019
  | .msq => 0x0D04001D
  | .red => 0x0D040018
  | .key => 0x2700001C
  | .frl => 0x0F0E0019
  | .vmb => 0x00000012 ||| BitVec.ofNat 32 (inst * 256)

/-- The registers of every page (R34 to R40); the counters are beside them, in `counterAt`. -/
def regsCommon : List RegDef :=
  [{ off := 0x0, owner := .none, ro := 0xffffffff }, -- PG_ID R34
   { off := 0x4, owner := .none, ro := 0x7fffff }, -- PG_FEAT R34
   { off := 0x8, owner := .page, wo := 0x1 }, -- PG_CTRL R34
   { off := 0xc, owner := .page, ro := 0xe0, w1c := 0x1f }, -- PG_STAT R34
   { off := 0x10, owner := .list false false true none, rw := 0x3f3f0f1f }, -- PG_OWNER R34
   { off := 0x20, owner := .none, ro := 0xffffffff }, -- EV_RAW R35
   { off := 0x24, owner := .page, rw := 0xffffffff }, -- EV_ENABLE R35
   { off := 0x28, owner := .none, ro := 0xffffffff }, -- EV_PENDING R35
   { off := 0x2c, owner := .page, wo := 0xffffffff }, -- EV_SET R35
   { off := 0x30, owner := .page, wo := 0xffffffff }, -- EV_CLEAR R35
   { off := 0x34, owner := .page, reset := 0x2, rw := 0xfff }, -- EV_ROUTE R37
   { off := 0x40, owner := .none, ro := 0x3fffff03 }] -- ERR_CAP0 R39
  ++
  [{ off := 0x44, owner := .none, ro := 0xffffffff }, -- ERR_CAP1 R39
   { off := 0x48, owner := .none, ro := 0xffffffff }, -- ERR_CAP2 R39
   { off := 0x4c, owner := .none, ro := 0xffffffff }, -- ERR_CAP3 R39
   { off := 0x50, owner := .none, ro := 0xffffffff }, -- ERR_CAP4 R39
   { off := 0x54, owner := .none, ro := 0xffffffff }, -- ERR_CAP5 R39
   { off := 0x58, owner := .none, ro := 0xffffffff }, -- ERR_CAP6 R39
   { off := 0x5c, owner := .none, ro := 0xffffffff }, -- ERR_CAP7 R39
   { off := 0xf00, owner := .none, ro := 0xffffffff }, -- CNT_SAT0 R40
   { off := 0xf04, owner := .none, ro := 0x3fffffff }] -- CNT_SAT1 R40

/-- The Squall area of every PF page (R463). -/
def regsSquall : List RegDef :=
  [{ off := 0xe00, owner := .holder, rw := 0xffff }, -- SQ_DELAY R463
   { off := 0xe04, owner := .holder, rw := 0xffff }, -- SQ_BP R463
   { off := 0xe20, owner := .holder, wo := 0xfffffff8 }, -- SQ_FORCE R463
   { off := 0xe24, owner := .none, ro := 0xfffffff8 }, -- SQ_FORCEABLE R463
   { off := 0xe28, owner := .none, ro := 0xfffffff8 }] -- SQ_ARMED R463

/-- The scale registers of the MCH pages (R463). -/
def regsScale : List RegDef :=
  [{ off := 0xe08, owner := .holder, rw := 0xfff }, -- SQ_SCALE_R R463
   { off := 0xe0c, owner := .holder, rw := 0xfff }, -- SQ_SCALE_P R463
   { off := 0xe10, owner := .holder, rw := 0xfff }] -- SQ_SCALE_E R463

/-- The correction log of the pages of R359 (R362). -/
def regsMp : List RegDef :=
  [{ off := 0xd00, owner := .none, ro := 0xc000000f }, -- MP_STAT R362
   { off := 0xd04, owner := .page, rw := 0xffffffff }, -- MP_CORR R362
   { off := 0xd08, owner := .none, n := 8, ro := 0xffffffff }, -- MP_LOG R362
   { off := 0xd28, owner := .page, wo := 0x1 }] -- MP_CLEAR R362

/-- The block registers of page TOP. -/
def regsTop : List RegDef :=
  [{ off := 0x80, owner := .none, reset := 0xf81, ro := 0xfff }, -- TOP_INFO R42
   { off := 0x84, owner := .none, ro := 0xffffffff }, -- TOP_DTIME_LO R42
   { off := 0x88, owner := .none, ro := 0xffffffff }, -- TOP_DTIME_HI R42
   { off := 0x8c, owner := .list true true true none, rw := 0xffffffff }] -- TOP_SCRATCH R42

/-- The block registers of page ADL. -/
def regsAdl : List RegDef :=
  [{ off := 0x80, owner := .list true false true (some (0, 3)), wo := 0x1 }, -- ADL_SNAP R75
   { off := 0x100, owner := .none, n := 512, ro := 0xffffffff }, -- ADL_DIE R75
   { off := 0x900, owner := .none, n := 80, ro := 0xffffffff }, -- ADL_RATE R75
   { off := 0xa40, owner := .none, ro := 0xffffffff }, -- ADL_DIRTY R75
   { off := 0xa50, owner := .none, n := 96, ro := 0xffffffff }] -- ADL_CELL R75

/-- The block registers of page ADM. -/
def regsAdm : List RegDef :=
  [{ off := 0x80, owner := .list true false true (some (0, 3)), reset := 0x1900, rw := 0xff00, w1s := 0x1 }, -- ADM_CTRL R73
   { off := 0x84, owner := .none, reset := 0x20, ro := 0x3e3f }, -- ADM_STAT R73
   { off := 0x88, owner := .none, reset := 0x780060, ro := 0xff00ff }, -- ADM_EVTOT R73
   { off := 0x8c, owner := .list true false true none, rw := 0x1f }, -- ADM_SLSEL R73
   { off := 0x90, owner := .list true false true none, rw := 0xff00ff }, -- ADM_SLICE R73
   { off := 0xa0, owner := .list true false true (some (0, 3)), rw := 0x3f }, -- ADM_CSEL R74
   { off := 0xa4, owner := .list false false true (some (0, 3)), rw := 0xffffffff }, -- ADM_CVAL R74
   { off := 0xb0, owner := .none, ro := 0xffff }, -- ADM_GCDEBT R74
   { off := 0xb4, owner := .none, ro := 0xffffffff }, -- ADM_DRAIN R74
   { off := 0xc0, owner := .none, n := 4, ro := 0xffffffff }] -- ADM_REJ R74

/-- The block registers of page HIF. -/
def regsHif : List RegDef :=
  [{ off := 0x80, owner := .none, ro := 0x3ff }, -- HIF_LINK R98
   { off := 0x84, owner := .none, ro := 0xffff800f }, -- HIF_FUNC R98
   { off := 0x88, owner := .none, ro := 0xffffffff }] -- HIF_EVID R98

/-- The block registers of page NVQ. -/
def regsNvq : List RegDef :=
  [{ off := 0x80, owner := .page, rw := 0x3f }, -- NVQ_SEL R99
   { off := 0x84, owner := .none, ro := 0xcfff0fff }, -- NVQ_QINFO R99
   { off := 0x88, owner := .none, ro := 0xfff0fff }, -- NVQ_SQPTR R99
   { off := 0x8c, owner := .none, ro := 0xfff1fff }] -- NVQ_CQPTR R99

/-- The block registers of page CEL. -/
def regsCel : List RegDef :=
  [{ off := 0x80, owner := .page, reset := 0x1, rw := 0x1, wo := 0x4 }, -- CEL_CTRL R150
   { off := 0x84, owner := .none, reset := 0x1, ro := 0xff00f7, w1c := 0x8 }, -- CEL_STAT R150
   { off := 0x88, owner := .none, ro := 0xfff }, -- CEL_ROLE R150
   { off := 0x8c, owner := .none, ro := 0x3fff }, -- CEL_PCSNAP R150
   { off := 0x90, owner := .page, rw := 0x3f }, -- CEL_DWIN R150
   { off := 0xa0, owner := .page, rw := 0x3fff }, -- CEL_IMADDR R150
   { off := 0xa4, owner := .page, rw := 0x3fff }, -- CEL_IMDATA R150
   { off := 0xb0, owner := .page, rw := 0x7fff }, -- CEL_DMADDR R150
   { off := 0xb4, owner := .page, rw := 0xf }, -- CEL_DMTAG R150
   { off := 0xb8, owner := .page, rw := 0xffffffff }, -- CEL_DMDATA R150
   { off := 0xc0, owner := .page, rw := 0x1f }, -- CEL_RSEL R150
   { off := 0xc4, owner := .page, rw := 0xf }] -- CEL_RTAG R150
  ++
  [{ off := 0xc8, owner := .page, rw := 0xffffffff }, -- CEL_RVAL R150
   { off := 0xd0, owner := .none, ro := 0xffffffff }, -- CEL_LASTTRAP R150
   { off := 0xd4, owner := .none, ro := 0x3fff }, -- CEL_LASTPC R150
   { off := 0x100, owner := .page, rw := 0xff7f3f }, -- SU_DESC0_W0 R188
   { off := 0x104, owner := .page, rw := 0xffffffff }, -- SU_DESC0_W1 R188
   { off := 0x108, owner := .page, rw := 0xffffffff }, -- SU_DESC0_W2 R188
   { off := 0x10c, owner := .page, rw := 0x3 }, -- SU_DESC0_W3 R188
   { off := 0x110, owner := .page, rw := 0xffff }, -- SU_DESC0_W4 R188
   { off := 0x114, owner := .page, n := 3 }, -- SU_DESC0_W5 R188
   { off := 0x120, owner := .page, rw := 0xff7f3f }, -- SU_DESC1_W0 R188
   { off := 0x124, owner := .page, rw := 0xffffffff }, -- SU_DESC1_W1 R188
   { off := 0x128, owner := .page, rw := 0xffffffff }] -- SU_DESC1_W2 R188
  ++
  [{ off := 0x12c, owner := .page, rw := 0x3 }, -- SU_DESC1_W3 R188
   { off := 0x130, owner := .page, rw := 0xffff }, -- SU_DESC1_W4 R188
   { off := 0x134, owner := .page, n := 3 }, -- SU_DESC1_W5 R188
   { off := 0x140, owner := .page, rw := 0xff7f3f }, -- SU_DESCL_W0 R188
   { off := 0x144, owner := .page, rw := 0xffffffff }, -- SU_DESCL_W1 R188
   { off := 0x148, owner := .page, rw := 0xffffffff }, -- SU_DESCL_W2 R188
   { off := 0x14c, owner := .page, rw := 0x3 }, -- SU_DESCL_W3 R188
   { off := 0x150, owner := .page, rw := 0xffff }, -- SU_DESCL_W4 R188
   { off := 0x154, owner := .page, n := 3 }, -- SU_DESCL_W5 R188
   { off := 0x160, owner := .page, wo := 0x3f }, -- SU_CMD R188
   { off := 0x164, owner := .none, ro := 0x1ff }, -- SU_STAT R188
   { off := 0x170, owner := .none, ro := 0xffffffff }] -- SU_CNT0 R188
  ++
  [{ off := 0x174, owner := .none, ro := 0xffffffff }, -- SU_XFR0 R188
   { off := 0x178, owner := .none, ro := 0xffffffff }, -- SU_CNT1 R188
   { off := 0x17c, owner := .none, ro := 0xffffffff }] -- SU_XFR1 R188

/-- The block registers of page CDC. -/
def regsCdc : List RegDef :=
  [{ off := 0x80, owner := .list false false true (some (0, 15)), reset := 0x1, rw := 0xffff0003 }, -- CDC_CTRL R190
   { off := 0x84, owner := .none, ro := 0xff0003 }] -- CDC_STAT R190

/-- The block registers of page FAB. -/
def regsFab : List RegDef :=
  [{ off := 0x80, owner := .list false false true none, rw := 0x3f }, -- FAB_RSEL R191
   { off := 0x84, owner := .list false false true none, rw := 0xff1fff }, -- FAB_RENT R191
   { off := 0x88, owner := .none, ro := 0xff3f01 }, -- FAB_STAT R191
   { off := 0x8c, owner := .list false false true none, wo := 0x1 }, -- FAB_CTRL R191
   { off := 0x90, owner := .list false false true none, rw := 0xffffffff }] -- FAB_WIMG R191

/-- The block registers of page MSQ. -/
def regsMsq : List RegDef :=
  [{ off := 0x600, owner := .list true true true none, reset := 0x600007, rw := 0x1ff001f }, -- MC_CTRL R242
   { off := 0x604, owner := .none, ro := 0xffffffff }, -- MC_BUFTGT R242
   { off := 0x608, owner := .none, ro := 0xffffffff }, -- MC_BUFCUR R242
   { off := 0x60c, owner := .none, ro := 0xffffffff }, -- MC_BUFFREE R242
   { off := 0x614, owner := .none, ro := 0x3fff007f }, -- MC_STAT R242
   { off := 0x618, owner := .none, reset := 0x64000000, ro := 0xffffffff }, -- MC_LIFE R242
   { off := 0x61c, owner := .none, ro := 0xffffffff }, -- MC_SPARE R242
   { off := 0x620, owner := .none, ro := 0xffffffff }, -- MC_EVSPARE R242
   { off := 0x624, owner := .none, ro := 0xffff3fff }, -- MC_PATROL R242
   { off := 0x628, owner := .list true false true none, ro := 0x80000000, rw := 0x7fffffff }, -- MC_REFRESH R242
   { off := 0x62c, owner := .none, ro := 0xffff }, -- MC_RATED R242
   { off := 0x80, owner := .none, n := 4, ro := 0xffffffff }] -- MSQ_ATT R281
  ++
  [{ off := 0x90, owner := .none, n := 4, ro := 0xffffffff }, -- MSQ_QUIET R281
   { off := 0xa0, owner := .list false false true (some (4, 13)), reset := 0x3c000f, rw := 0xff000f }, -- MSQ_CTRL R281
   { off := 0xa4, owner := .none, ro := 0xff0f }, -- MSQ_GEOM R281
   { off := 0xa8, owner := .none, ro := 0xf7 }] -- MSQ_QWAYS R281

/-- The block registers of page RED. -/
def regsRed : List RegDef :=
  [{ off := 0x80, owner := .list false false true (some (4, 13)), reset := 0x4000, rw := 0xff01 }, -- RED_CTRL R259
   { off := 0x84, owner := .list false true true (some (4, 13)), wo := 0x8000007f }, -- RED_FAIL R259
   { off := 0x88, owner := .none, ro := 0x7f0ff1f }, -- RED_STAT R259
   { off := 0x90, owner := .none, n := 4, ro := 0xffffffff }, -- RED_FAILMAP R259
   { off := 0xa0, owner := .none, ro := 0x3fffffff }, -- RED_RB R259
   { off := 0xa4, owner := .none, ro := 0xffffffff }, -- RED_RBRATE R259
   { off := 0xa8, owner := .none, ro := 0xffff7f7f }] -- RED_SIFJ R259

/-- The block registers of page MCH. -/
def regsMch : List RegDef :=
  [{ off := 0x80, owner := .page, rw := 0xfff0005, wo := 0x2 }, -- MCH_CTRL R280
   { off := 0x84, owner := .page, ro := 0xffff01, w1c := 0x2 }, -- MCH_STAT R280
   { off := 0x88, owner := .page, rw := 0xfff }, -- MCH_USADDR R280
   { off := 0x8c, owner := .page, rw := 0xffffffff }, -- MCH_USDATA R280
   { off := 0x90, owner := .page, n := 2, rw := 0xbfbfbfbf }, -- MCH_WAYMAP R280
   { off := 0x98, owner := .none, ro := 0xfffffff }, -- MCH_GEOM R280
   { off := 0xa0, owner := .none, n := 8, ro := 0x3ff }] -- MCH_DIE R280

/-- The block registers of page SRB. -/
def regsSrb : List RegDef :=
  [{ off := 0x80, owner := .list false false true (some (0, 15)), reset := 0x10, rw := 0x7f, wo := 0x700 }, -- SRB_CTRL R303
   { off := 0x84, owner := .none, ro := 0xff373fff }, -- SRB_STAT R303
   { off := 0x88, owner := .none, ro := 0xffff1fff }, -- SRB_SWEEP R303
   { off := 0x90, owner := .none, n := 4, ro := 0x9fffffff }] -- SRB_MLOG R303

/-- The block registers of page SRC. -/
def regsSrc : List RegDef :=
  [{ off := 0x80, owner := .list false false true (some (0, 15)), reset := 0x81000fa, rw := 0xfff3fff }, -- SRC_CTRL R303
   { off := 0x84, owner := .none, reset := 0x1, ro := 0x7fff71 }, -- SRC_STAT R303
   { off := 0x88, owner := .list false false true (some (0, 15)), rw := 0xffffffff }, -- SRC_SHBASE R303
   { off := 0x8c, owner := .list false false true (some (0, 15)), wo := 0x3 }] -- SRC_CMD R303

/-- The block registers of page CIP. -/
def regsCip : List RegDef :=
  [{ off := 0x80, owner := .list false false true (some (0, 15)), reset := 0x1, rw := 0x3 }, -- CIP_CTRL R330
   { off := 0x84, owner := .none, ro := 0x1fffff }, -- CIP_STAT R330
   { off := 0x88, owner := .list false false true (some (0, 15)), reset := 0x4001000, rw := 0xffffffff }, -- CIP_CCMLIM R330
   { off := 0x8c, owner := .none, ro := 0xffffffff }] -- CIP_POS R330

/-- The block registers of page DIG. -/
def regsDig : List RegDef :=
  [{ off := 0x80, owner := .list false false true (some (0, 15)), reset := 0x3, rw := 0x3 }, -- DIG_CTRL R330
   { off := 0x84, owner := .none, ro := 0x3ffff }, -- DIG_STAT R330
   { off := 0x100, owner := .none, n := 16, ro := 0xffffffff }, -- DIG_RES R330
   { off := 0x140, owner := .list false false true (some (0, 15)), rw := 0x1f }, -- DIG_CTXSEL R330
   { off := 0x144, owner := .none, ro := 0x1e07 }, -- DIG_CTXINFO R330
   { off := 0x180, owner := .list false false true (some (0, 15)), n := 56, rw := 0xffffffff }] -- DIG_CTX R330

/-- The block registers of page KEY. -/
def regsKey : List RegDef :=
  [{ off := 0x80, owner := .list false true true none, w1s := 0x1 }, -- KEY_CTRL R329
   { off := 0x84, owner := .list false true true (some (0, 39)), wo := 0xfff }, -- KEY_CMD R329
   { off := 0x88, owner := .none, ro := 0xff0f }, -- KEY_STAT R329
   { off := 0x8c, owner := .list false true true (some (0, 39)), rw := 0x3f }, -- KEY_SSEL R329
   { off := 0x90, owner := .none, ro := 0x3ffff }, -- KEY_SINFO R329
   { off := 0x94, owner := .none, ro := 0xffffffff }, -- KEY_SEPOCH R329
   { off := 0x98, owner := .none, ro := 0xffffffff }, -- KEY_SUSE0 R329
   { off := 0x9c, owner := .none, ro := 0xff }, -- KEY_SUSE1 R329
   { off := 0xa0, owner := .list false false true none, reset := 0x24, rw := 0x3f }, -- KEY_SLIM R329
   { off := 0xa4, owner := .list false false true none, reset := 0x10, rw := 0x1f }, -- KEY_SOWN R329
   { off := 0x100, owner := .list false false true (some (0, 39)), n := 16, rw := 0xffffffff }, -- KEY_LABEL R329
   { off := 0x140, owner := .list false true true none, n := 16, wo := 0xffffffff }] -- KEY_WRAP R329

/-- The block registers of page DCH. -/
def regsDch : List RegDef :=
  [{ off := 0x80, owner := .none, ro := 0xf7f }, -- DCH_STAT R342
   { off := 0x90, owner := .list false false true (some (0, 15)), rw := 0x1f }, -- DCH_DLYSEL R342
   { off := 0x94, owner := .list false false true (some (0, 15)), rw := 0x1ff }] -- DCH_DLYVAL R342

/-- The block registers of page DRC. -/
def regsDrc : List RegDef :=
  [{ off := 0x80, owner := .list false false true (some (0, 15)), reset := 0x90f, rw := 0x1fff }, -- DRC_CTRL R342
   { off := 0x84, owner := .none, ro := 0xff077f }, -- DRC_STAT R342
   { off := 0x88, owner := .list false false true (some (0, 15)), w1s := 0x1, wo := 0x2 }, -- DRC_RT R342
   { off := 0xb0, owner := .none, ro := 0x1ff }, -- DRC_FILLSTAT R361
   { off := 0xc0, owner := .none, n := 8, ro := 0xffffffff }] -- DRC_FILL R361

/-- The block registers of page FCH. -/
def regsFch : List RegDef :=
  [{ off := 0x80, owner := .list false false true (some (0, 15)), reset := 0xa10, rw := 0xffff }, -- FCH_CTRL R353
   { off := 0x84, owner := .none, reset := 0x1000, ro := 0x11f1f }, -- FCH_STAT R353
   { off := 0x88, owner := .none, ro := 0xffffffff }, -- FCH_WAYS R353
   { off := 0x90, owner := .list false false true none, rw := 0x3f }, -- FCH_WMSEL R353
   { off := 0x94, owner := .list false false true none, reset := 0xffff, rw := 0xffff }, -- FCH_WMASK R353
   { off := 0x98, owner := .list false false true none, w1s := 0xffff }, -- FCH_WDIS R353
   { off := 0xa0, owner := .list false false true (some (0, 15)), wo := 0xf3 }] -- FCH_WOP R353

/-- The block registers of page FCV. -/
def regsFcv : List RegDef :=
  [{ off := 0x80, owner := .list false false true (some (0, 15)), rw := 0xffffff80 }, -- FCV_MADDR_LO R353
   { off := 0x84, owner := .list false false true (some (0, 15)), rw := 0x3 }, -- FCV_MADDR_HI R353
   { off := 0x88, owner := .list false false true (some (0, 15)), wo := 0xffff07 }, -- FCV_MOP R353
   { off := 0x8c, owner := .none, ro := 0xffffffff }] -- FCV_MSTAT R353

/-- The block registers of page VAD. -/
def regsVad : List RegDef :=
  [{ off := 0x80, owner := .none, ro := 0xff00ff }, -- VAD_SLICE R367
   { off := 0x84, owner := .none, ro := 0xffffffff }, -- VAD_BUCKET R367
   { off := 0x88, owner := .none, reset := 0x20, ro := 0xffffffff }, -- VAD_STAT R367
   { off := 0xc0, owner := .none, n := 4, ro := 0xffffffff }] -- VAD_REJ R367

/-- The block registers of page VFM. -/
def regsVfm : List RegDef :=
  [{ off := 0x80, owner := .list true false true none, rw := 0xf }, -- VFM_SEL R366
   { off := 0x84, owner := .none, reset := 0xb, ro := 0xf }, -- VFM_STATE R366
   { off := 0x88, owner := .list true false true none, rw := 0xffffff }, -- VFM_CELLS R366
   { off := 0x8c, owner := .list true false true none, reset := 0x80, ro := 0xff }, -- VFM_QP R366
   { off := 0x90, owner := .list true false true none, rw := 0x7f }, -- VFM_SLM R366
   { off := 0x94, owner := .list true false true none, rw := 0xffff }, -- VFM_BANKS R366
   { off := 0x98, owner := .list true false true none, rw := 0xff }, -- VFM_WAYS R366
   { off := 0x9c, owner := .list true false true none, rw := 0xffffff }, -- VFM_KEYS R366
   { off := 0xa0, owner := .list true false true none, rw := 0x7 }, -- VFM_ENG R366
   { off := 0xa4, owner := .list true false true none, ro := 0x1f00, wo := 0x1 }, -- VFM_APPLY R366
   { off := 0xc0, owner := .list true false true none, rw := 0x1, wo := 0x2 }, -- VFM_DPCTRL R369
   { off := 0xc4, owner := .list true false true none, rw := 0xffffffff }] -- VFM_DPBASE R369
  ++
  [{ off := 0xc8, owner := .list true false true none, reset := 0x1, rw := 0x7f }, -- VFM_DPSIZE R369
   { off := 0xcc, owner := .list true false true none, rw := 0xfffff000 }, -- VFM_DPDEST_LO R369
   { off := 0xd0, owner := .list true false true none, rw := 0xffffffff }, -- VFM_DPDEST_HI R369
   { off := 0xd4, owner := .list true false true none, ro := 0xffff0003 }, -- VFM_DPSTAT R369
   { off := 0x100, owner := .list true false true none, n := 16, ro := 0xffffffff }, -- VFM_MBIN R367
   { off := 0x140, owner := .list true false true none, n := 16, rw := 0xffffffff }, -- VFM_MBOUT R367
   { off := 0x180, owner := .list true false true none, wo := 0x3 }, -- VFM_MBDB R367
   { off := 0x184, owner := .list true false true none, ro := 0xfffefffe }] -- VFM_MBSTAT R367

/-- The block registers of page VMB. -/
def regsVmb : List RegDef :=
  [{ off := 0x100, owner := .vf, n := 16, rw := 0xffffffff }, -- VMB_OUT R367
   { off := 0x140, owner := .vf, n := 16, ro := 0xffffffff }, -- VMB_IN R367
   { off := 0x180, owner := .vf, wo := 0x3 }, -- VMB_DB R367
   { off := 0x184, owner := .vf, ro := 0x3 }] -- VMB_STAT R367

/-- The block registers of page VTP. -/
def regsVtp : List RegDef :=
  [{ off := 0x84, owner := .none, ro := 0x2 }, -- VTP_STATE R367
   { off := 0x88, owner := .none, ro := 0xffffff }, -- VTP_CELLS R367
   { off := 0x8c, owner := .none, ro := 0xff }, -- VTP_QP R367
   { off := 0x90, owner := .none, ro := 0x7f }, -- VTP_SLM R367
   { off := 0x94, owner := .none, ro := 0xffff }, -- VTP_BANKS R367
   { off := 0x98, owner := .none, ro := 0xff }, -- VTP_WAYS R367
   { off := 0x9c, owner := .none, ro := 0xffffff }, -- VTP_KEYS R367
   { off := 0xa0, owner := .none, ro := 0x7 }] -- VTP_ENG R367

/-- The block registers of page FRL. -/
def regsFrl : List RegDef :=
  [{ off := 0x80, owner := .list false false true (some (14, 15)), reset := 0x1, rw := 0x1, wo := 0x2 }, -- FRL_CTRL R402
   { off := 0x84, owner := .none, ro := 0xff01ff }, -- FRL_STAT R402
   { off := 0x88, owner := .none, ro := 0xffffffff }, -- FRL_RXSEQ R402
   { off := 0x8c, owner := .none, ro := 0xffffffff }, -- FRL_DURSEQ R402
   { off := 0xc0, owner := .list true false true (some (14, 15)), ro := 0xff020000, rw := 0x3fff, wo := 0x10000 }, -- FRL_MSGCTL R402
   { off := 0x100, owner := .list true false true (some (14, 15)), n := 13, rw := 0xffffffff }] -- FRL_MSG R402

/-- The block registers of page SBM. -/
def regsSbm : List RegDef :=
  [{ off := 0x80, owner := .list false false true none, reset := 0x100, ro := 0x2ff, rw := 0x100 }, -- SBM_CTRL R412
   { off := 0x84, owner := .none, ro := 0x7f000f }] -- SBM_STAT R412

/-- The block registers of page CLK. -/
def regsClk : List RegDef :=
  [{ off := 0x80, owner := .none, ro := 0xff }, -- CLK_STAT R425
   { off := 0x84, owner := .none, ro := 0xffffffff }, -- CLK_RUN0 R425
   { off := 0x88, owner := .none, ro := 0xfff }] -- CLK_RUN1 R425

/-- The block registers of page PWR. -/
def regsPwr : List RegDef :=
  [{ off := 0x80, owner := .list true true true none, reset := 0x1e04, rw := 0xff07 }, -- PWR_CTRL R430
   { off := 0x84, owner := .list false true true none, wo := 0x7 }, -- PWR_REQ R430
   { off := 0x88, owner := .none, ro := 0x33f07, w1c := 0x40000 }, -- PWR_STAT R430
   { off := 0x8c, owner := .list true true true none, w1c := 0x3f }, -- PWR_WAKE R430
   { off := 0x90, owner := .list true true true none, reset := 0xc, rw := 0xc }] -- PWR_WAKEEN R430

/-- The block registers of page FUS. -/
def regsFus : List RegDef :=
  [{ off := 0x80, owner := .none, reset := 0xb0014860, ro := 0xffffffff }, -- FUS_IDENT R444
   { off := 0x84, owner := .none, n := 2, ro := 0xffffffff }, -- FUS_SERIAL R444
   { off := 0x8c, owner := .none, ro := 0xffffffff }, -- FUS_FWREL R444
   { off := 0x90, owner := .none, ro := 0x7 }, -- FUS_STAT R444
   { off := 0x94, owner := .none, ro := 0xffffffff }] -- FUS_BOOT R444

/-- The block registers of page RST. -/
def regsRst : List RegDef :=
  [{ off := 0x80, owner := .list true true true none, w1c := 0xff }, -- RST_CAUSE R444
   { off := 0x84, owner := .list false true true none, wo := 0x3 }, -- RST_CTRL R444
   { off := 0x88, owner := .none, ro := 0x703 }, -- RST_STAT R444
   { off := 0x8c, owner := .none, ro := 0xffffffff }, -- RST_TEVID R444
   { off := 0x90, owner := .none, ro := 0xffffffff }] -- RST_TFULL R444

/-- The block registers of page EVT. -/
def regsEvt : List RegDef :=
  [{ off := 0x80, owner := .list true true true none, reset := 0x2, rw := 0x2, wo := 0x1 }, -- EVT_CTRL R459
   { off := 0x84, owner := .none, ro := 0x3f }, -- EVT_STAT R459
   { off := 0x88, owner := .list true true true none, ro := 0x1f00, w1c := 0x1f }, -- EVT_ALARM R459
   { off := 0xc0, owner := .none, ro := 0x8000ffff }, -- EVT_FIRST0 R450
   { off := 0xc4, owner := .none, ro := 0xffffffff }, -- EVT_FIRST1 R450
   { off := 0xc8, owner := .none, ro := 0xffffffff }, -- EVT_FIRST2 R450
   { off := 0x100, owner := .none, n := 8, ro := 0xffffffff }] -- EVT_PEND R450

/-- The block registers of page SQL. -/
def regsSql : List RegDef :=
  [{ off := 0x80, owner := .list true true true none, wo := 0x3 }, -- SQL_CTRL R465
   { off := 0x84, owner := .none, ro := 0xffff000f }, -- SQL_STAT R465
   { off := 0x100, owner := .none, n := 8, ro := 0xffffffff }] -- SQL_ACT R465

/-- The block registers of page TMP. -/
def regsTmp : List RegDef :=
  [{ off := 0x80, owner := .none, ro := 0xfffff }, -- TMP_STAT R479
   { off := 0x84, owner := .none, ro := 0x7ffffff }, -- TMP_SUPPLY R479
   { off := 0x88, owner := .list true true true none, rw := 0xf }, -- TMP_SSEL R479
   { off := 0x8c, owner := .none, ro := 0xff }] -- TMP_SVAL R479
/-! ## Names: the key of a register is page × 4096 + offset -/

abbrev PG_ID (p : Nat) : Nat := p * 0x1000 + 0x0
abbrev PG_FEAT (p : Nat) : Nat := p * 0x1000 + 0x4
abbrev PG_CTRL (p : Nat) : Nat := p * 0x1000 + 0x8
abbrev PG_STAT (p : Nat) : Nat := p * 0x1000 + 0xc
abbrev PG_OWNER (p : Nat) : Nat := p * 0x1000 + 0x10
abbrev EV_RAW (p : Nat) : Nat := p * 0x1000 + 0x20
abbrev EV_ENABLE (p : Nat) : Nat := p * 0x1000 + 0x24
abbrev EV_PENDING (p : Nat) : Nat := p * 0x1000 + 0x28
abbrev EV_SET (p : Nat) : Nat := p * 0x1000 + 0x2c
abbrev EV_CLEAR (p : Nat) : Nat := p * 0x1000 + 0x30
abbrev EV_ROUTE (p : Nat) : Nat := p * 0x1000 + 0x34
abbrev ERR_CAP0 (p : Nat) : Nat := p * 0x1000 + 0x40
abbrev ERR_CAP1 (p : Nat) : Nat := p * 0x1000 + 0x44
abbrev ERR_CAP2 (p : Nat) : Nat := p * 0x1000 + 0x48
abbrev ERR_CAP3 (p : Nat) : Nat := p * 0x1000 + 0x4c
abbrev ERR_CAP4 (p : Nat) : Nat := p * 0x1000 + 0x50
abbrev ERR_CAP5 (p : Nat) : Nat := p * 0x1000 + 0x54
abbrev ERR_CAP6 (p : Nat) : Nat := p * 0x1000 + 0x58
abbrev ERR_CAP7 (p : Nat) : Nat := p * 0x1000 + 0x5c
abbrev CNT_SAT0 (p : Nat) : Nat := p * 0x1000 + 0xf00
abbrev CNT_SAT1 (p : Nat) : Nat := p * 0x1000 + 0xf04
abbrev TOP_INFO : Nat := 0x80
abbrev TOP_DTIME_LO : Nat := 0x84
abbrev TOP_DTIME_HI : Nat := 0x88
abbrev TOP_SCRATCH : Nat := 0x8c
abbrev ADL_SNAP : Nat := 0x21080
abbrev ADL_DIE (k : Nat) : Nat := 0x21100 + 4 * k
abbrev ADL_RATE (k : Nat) : Nat := 0x21900 + 4 * k
abbrev ADL_DIRTY : Nat := 0x21a40
abbrev ADL_CELL (k : Nat) : Nat := 0x21a50 + 4 * k
abbrev ADM_CTRL : Nat := 0x20080
abbrev ADM_STAT : Nat := 0x20084
abbrev ADM_EVTOT : Nat := 0x20088
abbrev ADM_SLSEL : Nat := 0x2008c
abbrev ADM_SLICE : Nat := 0x20090
abbrev ADM_CSEL : Nat := 0x200a0
abbrev ADM_CVAL : Nat := 0x200a4
abbrev ADM_GCDEBT : Nat := 0x200b0
abbrev ADM_DRAIN : Nat := 0x200b4
abbrev ADM_REJ (k : Nat) : Nat := 0x200c0 + 4 * k
abbrev HIF_LINK : Nat := 0x10080
abbrev HIF_FUNC : Nat := 0x10084
abbrev HIF_EVID : Nat := 0x10088
abbrev NVQ_SEL (n : Nat) : Nat := (0x11 + n) * 0x1000 + 0x80
abbrev NVQ_QINFO (n : Nat) : Nat := (0x11 + n) * 0x1000 + 0x84
abbrev NVQ_SQPTR (n : Nat) : Nat := (0x11 + n) * 0x1000 + 0x88
abbrev NVQ_CQPTR (n : Nat) : Nat := (0x11 + n) * 0x1000 + 0x8c
abbrev CEL_CTRL (n : Nat) : Nat := (0x40 + n) * 0x1000 + 0x80
abbrev CEL_STAT (n : Nat) : Nat := (0x40 + n) * 0x1000 + 0x84
abbrev CEL_ROLE (n : Nat) : Nat := (0x40 + n) * 0x1000 + 0x88
abbrev CEL_PCSNAP (n : Nat) : Nat := (0x40 + n) * 0x1000 + 0x8c
abbrev CEL_DWIN (n : Nat) : Nat := (0x40 + n) * 0x1000 + 0x90
abbrev CEL_IMADDR (n : Nat) : Nat := (0x40 + n) * 0x1000 + 0xa0
abbrev CEL_IMDATA (n : Nat) : Nat := (0x40 + n) * 0x1000 + 0xa4
abbrev CEL_DMADDR (n : Nat) : Nat := (0x40 + n) * 0x1000 + 0xb0
abbrev CEL_DMTAG (n : Nat) : Nat := (0x40 + n) * 0x1000 + 0xb4
abbrev CEL_DMDATA (n : Nat) : Nat := (0x40 + n) * 0x1000 + 0xb8
abbrev CEL_RSEL (n : Nat) : Nat := (0x40 + n) * 0x1000 + 0xc0
abbrev CEL_RTAG (n : Nat) : Nat := (0x40 + n) * 0x1000 + 0xc4
abbrev CEL_RVAL (n : Nat) : Nat := (0x40 + n) * 0x1000 + 0xc8
abbrev CEL_LASTTRAP (n : Nat) : Nat := (0x40 + n) * 0x1000 + 0xd0
abbrev CEL_LASTPC (n : Nat) : Nat := (0x40 + n) * 0x1000 + 0xd4
abbrev CDC_CTRL (n : Nat) : Nat := (0x71 + n) * 0x1000 + 0x80
abbrev CDC_STAT (n : Nat) : Nat := (0x71 + n) * 0x1000 + 0x84
abbrev SU_DESC0_W0 (n : Nat) : Nat := (0x40 + n) * 0x1000 + 0x100
abbrev SU_DESC0_W1 (n : Nat) : Nat := (0x40 + n) * 0x1000 + 0x104
abbrev SU_DESC0_W2 (n : Nat) : Nat := (0x40 + n) * 0x1000 + 0x108
abbrev SU_DESC0_W3 (n : Nat) : Nat := (0x40 + n) * 0x1000 + 0x10c
abbrev SU_DESC0_W4 (n : Nat) : Nat := (0x40 + n) * 0x1000 + 0x110
abbrev SU_DESC0_W5 (n : Nat) (k : Nat) : Nat := (0x40 + n) * 0x1000 + 0x114 + 4 * k
abbrev SU_DESC1_W0 (n : Nat) : Nat := (0x40 + n) * 0x1000 + 0x120
abbrev SU_DESC1_W1 (n : Nat) : Nat := (0x40 + n) * 0x1000 + 0x124
abbrev SU_DESC1_W2 (n : Nat) : Nat := (0x40 + n) * 0x1000 + 0x128
abbrev SU_DESC1_W3 (n : Nat) : Nat := (0x40 + n) * 0x1000 + 0x12c
abbrev SU_DESC1_W4 (n : Nat) : Nat := (0x40 + n) * 0x1000 + 0x130
abbrev SU_DESC1_W5 (n : Nat) (k : Nat) : Nat := (0x40 + n) * 0x1000 + 0x134 + 4 * k
abbrev SU_DESCL_W0 (n : Nat) : Nat := (0x40 + n) * 0x1000 + 0x140
abbrev SU_DESCL_W1 (n : Nat) : Nat := (0x40 + n) * 0x1000 + 0x144
abbrev SU_DESCL_W2 (n : Nat) : Nat := (0x40 + n) * 0x1000 + 0x148
abbrev SU_DESCL_W3 (n : Nat) : Nat := (0x40 + n) * 0x1000 + 0x14c
abbrev SU_DESCL_W4 (n : Nat) : Nat := (0x40 + n) * 0x1000 + 0x150
abbrev SU_DESCL_W5 (n : Nat) (k : Nat) : Nat := (0x40 + n) * 0x1000 + 0x154 + 4 * k
abbrev SU_CMD (n : Nat) : Nat := (0x40 + n) * 0x1000 + 0x160
abbrev SU_STAT (n : Nat) : Nat := (0x40 + n) * 0x1000 + 0x164
abbrev SU_CNT0 (n : Nat) : Nat := (0x40 + n) * 0x1000 + 0x170
abbrev SU_XFR0 (n : Nat) : Nat := (0x40 + n) * 0x1000 + 0x174
abbrev SU_CNT1 (n : Nat) : Nat := (0x40 + n) * 0x1000 + 0x178
abbrev SU_XFR1 (n : Nat) : Nat := (0x40 + n) * 0x1000 + 0x17c
abbrev FAB_RSEL : Nat := 0x70080
abbrev FAB_RENT : Nat := 0x70084
abbrev FAB_STAT : Nat := 0x70088
abbrev FAB_CTRL : Nat := 0x7008c
abbrev FAB_WIMG : Nat := 0x70090
abbrev MC_CTRL : Nat := 0x90600
abbrev MC_BUFTGT : Nat := 0x90604
abbrev MC_BUFCUR : Nat := 0x90608
abbrev MC_BUFFREE : Nat := 0x9060c
abbrev MC_STAT : Nat := 0x90614
abbrev MC_LIFE : Nat := 0x90618
abbrev MC_SPARE : Nat := 0x9061c
abbrev MC_EVSPARE : Nat := 0x90620
abbrev MC_PATROL : Nat := 0x90624
abbrev MC_REFRESH : Nat := 0x90628
abbrev MC_RATED : Nat := 0x9062c
abbrev RED_CTRL : Nat := 0x91080
abbrev RED_FAIL : Nat := 0x91084
abbrev RED_STAT : Nat := 0x91088
abbrev RED_FAILMAP (k : Nat) : Nat := 0x91090 + 4 * k
abbrev RED_RB : Nat := 0x910a0
abbrev RED_RBRATE : Nat := 0x910a4
abbrev RED_SIFJ : Nat := 0x910a8
abbrev MCH_CTRL (n : Nat) : Nat := (0x80 + n) * 0x1000 + 0x80
abbrev MCH_STAT (n : Nat) : Nat := (0x80 + n) * 0x1000 + 0x84
abbrev MCH_USADDR (n : Nat) : Nat := (0x80 + n) * 0x1000 + 0x88
abbrev MCH_USDATA (n : Nat) : Nat := (0x80 + n) * 0x1000 + 0x8c
abbrev MCH_WAYMAP (n : Nat) (k : Nat) : Nat := (0x80 + n) * 0x1000 + 0x90 + 4 * k
abbrev MCH_GEOM (n : Nat) : Nat := (0x80 + n) * 0x1000 + 0x98
abbrev MCH_DIE (n : Nat) (k : Nat) : Nat := (0x80 + n) * 0x1000 + 0xa0 + 4 * k
abbrev MSQ_ATT (k : Nat) : Nat := 0x90080 + 4 * k
abbrev MSQ_QUIET (k : Nat) : Nat := 0x90090 + 4 * k
abbrev MSQ_CTRL : Nat := 0x900a0
abbrev MSQ_GEOM : Nat := 0x900a4
abbrev MSQ_QWAYS : Nat := 0x900a8
abbrev SRB_CTRL (n : Nat) : Nat := (0xa1 + n) * 0x1000 + 0x80
abbrev SRB_STAT (n : Nat) : Nat := (0xa1 + n) * 0x1000 + 0x84
abbrev SRB_SWEEP (n : Nat) : Nat := (0xa1 + n) * 0x1000 + 0x88
abbrev SRB_MLOG (n : Nat) (k : Nat) : Nat := (0xa1 + n) * 0x1000 + 0x90 + 4 * k
abbrev SRC_CTRL : Nat := 0xa0080
abbrev SRC_STAT : Nat := 0xa0084
abbrev SRC_SHBASE : Nat := 0xa0088
abbrev SRC_CMD : Nat := 0xa008c
abbrev CIP_CTRL (n : Nat) : Nat := (0xc1 + n) * 0x1000 + 0x80
abbrev CIP_STAT (n : Nat) : Nat := (0xc1 + n) * 0x1000 + 0x84
abbrev CIP_CCMLIM (n : Nat) : Nat := (0xc1 + n) * 0x1000 + 0x88
abbrev CIP_POS (n : Nat) : Nat := (0xc1 + n) * 0x1000 + 0x8c
abbrev DIG_CTRL (n : Nat) : Nat := (0xd4 + n) * 0x1000 + 0x80
abbrev DIG_STAT (n : Nat) : Nat := (0xd4 + n) * 0x1000 + 0x84
abbrev DIG_RES (n : Nat) (k : Nat) : Nat := (0xd4 + n) * 0x1000 + 0x100 + 4 * k
abbrev DIG_CTXSEL (n : Nat) : Nat := (0xd4 + n) * 0x1000 + 0x140
abbrev DIG_CTXINFO (n : Nat) : Nat := (0xd4 + n) * 0x1000 + 0x144
abbrev DIG_CTX (n : Nat) (k : Nat) : Nat := (0xd4 + n) * 0x1000 + 0x180 + 4 * k
abbrev KEY_CTRL : Nat := 0xc0080
abbrev KEY_CMD : Nat := 0xc0084
abbrev KEY_STAT : Nat := 0xc0088
abbrev KEY_SSEL : Nat := 0xc008c
abbrev KEY_SINFO : Nat := 0xc0090
abbrev KEY_SEPOCH : Nat := 0xc0094
abbrev KEY_SUSE0 : Nat := 0xc0098
abbrev KEY_SUSE1 : Nat := 0xc009c
abbrev KEY_SLIM : Nat := 0xc00a0
abbrev KEY_SOWN : Nat := 0xc00a4
abbrev KEY_LABEL (k : Nat) : Nat := 0xc0100 + 4 * k
abbrev KEY_WRAP (k : Nat) : Nat := 0xc0140 + 4 * k
abbrev DCH_STAT (n : Nat) : Nat := (0xe1 + n) * 0x1000 + 0x80
abbrev DCH_DLYSEL (n : Nat) : Nat := (0xe1 + n) * 0x1000 + 0x90
abbrev DCH_DLYVAL (n : Nat) : Nat := (0xe1 + n) * 0x1000 + 0x94
abbrev DRC_CTRL : Nat := 0xe0080
abbrev DRC_STAT : Nat := 0xe0084
abbrev DRC_RT : Nat := 0xe0088
abbrev FCH_CTRL (n : Nat) : Nat := (0xe8 + n) * 0x1000 + 0x80
abbrev FCH_STAT (n : Nat) : Nat := (0xe8 + n) * 0x1000 + 0x84
abbrev FCH_WAYS (n : Nat) : Nat := (0xe8 + n) * 0x1000 + 0x88
abbrev FCH_WMSEL (n : Nat) : Nat := (0xe8 + n) * 0x1000 + 0x90
abbrev FCH_WMASK (n : Nat) : Nat := (0xe8 + n) * 0x1000 + 0x94
abbrev FCH_WDIS (n : Nat) : Nat := (0xe8 + n) * 0x1000 + 0x98
abbrev FCH_WOP (n : Nat) : Nat := (0xe8 + n) * 0x1000 + 0xa0
abbrev FCV_MADDR_LO : Nat := 0xec080
abbrev FCV_MADDR_HI : Nat := 0xec084
abbrev FCV_MOP : Nat := 0xec088
abbrev FCV_MSTAT : Nat := 0xec08c
abbrev DRC_FILLSTAT : Nat := 0xe00b0
abbrev DRC_FILL (k : Nat) : Nat := 0xe00c0 + 4 * k
abbrev MP_STAT (p : Nat) : Nat := p * 0x1000 + 0xd00
abbrev MP_CORR (p : Nat) : Nat := p * 0x1000 + 0xd04
abbrev MP_LOG (p : Nat) (k : Nat) : Nat := p * 0x1000 + 0xd08 + 4 * k
abbrev MP_CLEAR (p : Nat) : Nat := p * 0x1000 + 0xd28
abbrev VAD_SLICE (n : Nat) : Nat := (0x1000 + 16 * n + 1) * 0x1000 + 0x80
abbrev VAD_BUCKET (n : Nat) : Nat := (0x1000 + 16 * n + 1) * 0x1000 + 0x84
abbrev VAD_STAT (n : Nat) : Nat := (0x1000 + 16 * n + 1) * 0x1000 + 0x88
abbrev VAD_REJ (n : Nat) (k : Nat) : Nat := (0x1000 + 16 * n + 1) * 0x1000 + 0xc0 + 4 * k
abbrev VFM_SEL : Nat := 0x18080
abbrev VFM_STATE : Nat := 0x18084
abbrev VFM_CELLS : Nat := 0x18088
abbrev VFM_QP : Nat := 0x1808c
abbrev VFM_SLM : Nat := 0x18090
abbrev VFM_BANKS : Nat := 0x18094
abbrev VFM_WAYS : Nat := 0x18098
abbrev VFM_KEYS : Nat := 0x1809c
abbrev VFM_ENG : Nat := 0x180a0
abbrev VFM_APPLY : Nat := 0x180a4
abbrev VFM_DPCTRL : Nat := 0x180c0
abbrev VFM_DPBASE : Nat := 0x180c4
abbrev VFM_DPSIZE : Nat := 0x180c8
abbrev VFM_DPDEST_LO : Nat := 0x180cc
abbrev VFM_DPDEST_HI : Nat := 0x180d0
abbrev VFM_DPSTAT : Nat := 0x180d4
abbrev VFM_MBIN (k : Nat) : Nat := 0x18100 + 4 * k
abbrev VFM_MBOUT (k : Nat) : Nat := 0x18140 + 4 * k
abbrev VFM_MBDB : Nat := 0x18180
abbrev VFM_MBSTAT : Nat := 0x18184
abbrev VMB_OUT (n : Nat) (k : Nat) : Nat := (0x1000 + 16 * n + 0) * 0x1000 + 0x100 + 4 * k
abbrev VMB_IN (n : Nat) (k : Nat) : Nat := (0x1000 + 16 * n + 0) * 0x1000 + 0x140 + 4 * k
abbrev VMB_DB (n : Nat) : Nat := (0x1000 + 16 * n + 0) * 0x1000 + 0x180
abbrev VMB_STAT (n : Nat) : Nat := (0x1000 + 16 * n + 0) * 0x1000 + 0x184
abbrev VTP_STATE (n : Nat) : Nat := (0x1000 + 16 * n + 2) * 0x1000 + 0x84
abbrev VTP_CELLS (n : Nat) : Nat := (0x1000 + 16 * n + 2) * 0x1000 + 0x88
abbrev VTP_QP (n : Nat) : Nat := (0x1000 + 16 * n + 2) * 0x1000 + 0x8c
abbrev VTP_SLM (n : Nat) : Nat := (0x1000 + 16 * n + 2) * 0x1000 + 0x90
abbrev VTP_BANKS (n : Nat) : Nat := (0x1000 + 16 * n + 2) * 0x1000 + 0x94
abbrev VTP_WAYS (n : Nat) : Nat := (0x1000 + 16 * n + 2) * 0x1000 + 0x98
abbrev VTP_KEYS (n : Nat) : Nat := (0x1000 + 16 * n + 2) * 0x1000 + 0x9c
abbrev VTP_ENG (n : Nat) : Nat := (0x1000 + 16 * n + 2) * 0x1000 + 0xa0
abbrev FRL_CTRL : Nat := 0xf0080
abbrev FRL_STAT : Nat := 0xf0084
abbrev FRL_RXSEQ : Nat := 0xf0088
abbrev FRL_DURSEQ : Nat := 0xf008c
abbrev FRL_MSGCTL : Nat := 0xf00c0
abbrev FRL_MSG (k : Nat) : Nat := 0xf0100 + 4 * k
abbrev SBM_CTRL : Nat := 0xf8080
abbrev SBM_STAT : Nat := 0xf8084
abbrev CLK_STAT : Nat := 0x2080
abbrev CLK_RUN0 : Nat := 0x2084
abbrev CLK_RUN1 : Nat := 0x2088
abbrev PWR_CTRL : Nat := 0x1080
abbrev PWR_REQ : Nat := 0x1084
abbrev PWR_STAT : Nat := 0x1088
abbrev PWR_WAKE : Nat := 0x108c
abbrev PWR_WAKEEN : Nat := 0x1090
abbrev FUS_IDENT : Nat := 0x7080
abbrev FUS_SERIAL (k : Nat) : Nat := 0x7084 + 4 * k
abbrev FUS_FWREL : Nat := 0x708c
abbrev FUS_STAT : Nat := 0x7090
abbrev FUS_BOOT : Nat := 0x7094
abbrev RST_CAUSE : Nat := 0x3080
abbrev RST_CTRL : Nat := 0x3084
abbrev RST_STAT : Nat := 0x3088
abbrev RST_TEVID : Nat := 0x308c
abbrev RST_TFULL : Nat := 0x3090
abbrev EVT_CTRL : Nat := 0x5080
abbrev EVT_STAT : Nat := 0x5084
abbrev EVT_ALARM : Nat := 0x5088
abbrev EVT_FIRST0 : Nat := 0x50c0
abbrev EVT_FIRST1 : Nat := 0x50c4
abbrev EVT_FIRST2 : Nat := 0x50c8
abbrev EVT_PEND (k : Nat) : Nat := 0x5100 + 4 * k
abbrev SQ_SCALE_R (p : Nat) : Nat := p * 0x1000 + 0xe08
abbrev SQ_SCALE_P (p : Nat) : Nat := p * 0x1000 + 0xe0c
abbrev SQ_SCALE_E (p : Nat) : Nat := p * 0x1000 + 0xe10
abbrev SQL_CTRL : Nat := 0x6080
abbrev SQL_STAT : Nat := 0x6084
abbrev SQL_ACT (k : Nat) : Nat := 0x6100 + 4 * k
abbrev SQ_DELAY (p : Nat) : Nat := p * 0x1000 + 0xe00
abbrev SQ_BP (p : Nat) : Nat := p * 0x1000 + 0xe04
abbrev SQ_FORCE (p : Nat) : Nat := p * 0x1000 + 0xe20
abbrev SQ_FORCEABLE (p : Nat) : Nat := p * 0x1000 + 0xe24
abbrev SQ_ARMED (p : Nat) : Nat := p * 0x1000 + 0xe28
abbrev TMP_STAT : Nat := 0x4080
abbrev TMP_SUPPLY : Nat := 0x4084
abbrev TMP_SSEL : Nat := 0x4088
abbrev TMP_SVAL : Nat := 0x408c

/-- The block registers of a page. -/
def regsOf : Kind → List RegDef
  | .top => regsTop | .pwr => regsPwr | .clk => regsClk | .rst => regsRst | .tmp => regsTmp | .evt => regsEvt
  | .sql => regsSql | .fus => regsFus | .hif => regsHif | .nvq => regsNvq | .vfm => regsVfm | .adm => regsAdm
  | .adl => regsAdl | .cel => regsCel | .fab => regsFab | .cdc => regsCdc | .mch => regsMch ++ regsScale
  | .msq => regsMsq | .red => regsRed | .src => regsSrc | .srb => regsSrb | .key => regsKey | .cip => regsCip
  | .dig => regsDig | .drc => regsDrc | .dch => regsDch | .fch => regsFch | .fcv => regsFcv | .frl => regsFrl
  | .sbm => regsSbm | .vmb => regsVmb | .vad => regsVad | .vtp => regsVtp

/-- Whether the register, or one of its run, lies at the offset. -/
def RegDef.at (d : RegDef) (off : Nat) : Bool :=
  decide (d.off ≤ off ∧ off < d.off + 4 * d.n ∧ off % 4 = 0)

/-- The counter slot at an offset, if the page implements it (R40). -/
def counterAt (k : Kind) (off : Nat) : Option Nat :=
  if 0xF08 ≤ off ∧ off % 4 = 0 ∧ (off - 0xF08) / 4 < cntNum k then some ((off - 0xF08) / 4) else none

/-- The bits of PG_STAT above the common ones: TOP.OFF_ERR and ADM.SLICE_ERR (R34, R74, log 15). -/
def statBits (page : Nat) : Word := if page = 0 then 0x10000 else if page = 0x20 then 0x20000 else 0

/-- The register at an offset of a page: common, block, Squall, correction log or counter (R34 to R40, R362, R463). -/
def regDef (page off : Nat) : Option RegDef :=
  match kindOf page with
  | none => none
  | some (k, inst) =>
    match (regsCommon ++ regsOf k ++ (if hasSquall k then regsSquall else []) ++
        (if hasMpLog k inst then regsMp else [])).find? (·.at off) with
    | some d => some (if off = 0xC then { d with w1c := d.w1c ||| statBits page } else d)
    | none => (counterAt k off).map fun _ => { off := off, owner := .page, rw := 0xFFFFFFFF }

/-- The reset value of the register at an offset (R34 and the chapters). BLK_FEAT reads 0 (log 12). -/
def resetOf (page off : Nat) : Word :=
  match kindOf page with
  | none => 0
  | some (k, inst) =>
    if off = 0 then BitVec.ofNat 32 (typeOf k * 65536 + inst * 256 + 0xB0)
    else if off = 4 then BitVec.ofNat 32 (cntNum k * 65536 + 0xB) &&& (if hasSquall k then 0xFFFFFFFF else 0xFFFFFFFB)
      ||| (if hasSquall k then 0x4 else 0)
    else if off = 0x10 then ownerReset k inst
    else if k = .dig ∧ inst = 3 ∧ off = 0x80 then 1
    else if k = .rst ∧ off = 0x80 then 1
    else match regDef page off with
      | some d => d.reset
      | none => 0

/-- The writable RW, W1C, W1S and WO bits together. -/
def RegDef.writable (d : RegDef) : Word := d.rw ||| d.w1c ||| d.w1s ||| d.wo

/-- The reserved bits: bits of no field. -/
def RegDef.reserved (d : RegDef) : Word := ~~~(d.writable ||| d.ro)

end Sys2Proof.Machine
end

