-- ==== Sys2Proof/Machine/State.lean ====
section
/-!
DEFINITION. The state of the block and the state after reset: every register, memory, queue, counter, mode and pin the
specification gives the device, and the queue of the commands that wait.
-/

namespace Sys2Proof.Machine

/-- The state of the SRB-4860. `pages` are the registers of every page (02); the other fields hold what the chapters give
beside them. `upsets` is the error pattern of every protected block (15, 16). `fresh` and `out` are the model's own: the
index of the next free value, and what the device has sent outward, newest last. -/
structure State where
  pending : List Instr
  pages   : Pages
  host    : HostSide
  adm     : Adm
  prog    : Prog
  cells   : List Cell
  fabric  : Fabric
  ftl     : Ftl
  care    : Care
  red     : Red
  media   : Media
  search  : Search
  crypto  : Crypto
  dram    : Dram
  upsets  : SMap Nat
  vfm     : Vfm
  field   : Field
  frl     : Frl
  sb      : Sideband
  power   : Power
  start   : Start
  events  : Events
  squall  : Squall
  fresh   : Nat
  out     : List Out
  deriving DecidableEq, Repr

/-- Why the machine stops. No command of this block stops it: the type has no constructor, so no meaning answers a fault. -/
inductive Fault
  deriving DecidableEq, Repr

/-- Why a command has no meaning. -/
inductive Refusal where
  /-- The command of that mnemonic has no meaning yet: answered by an arm of `exec` alone. Safe: the model stops there. -/
  | notModelled (mnemonic : String)
  deriving DecidableEq, Repr

/-- The outcome of a command. -/
abbrev Answer := Host.Outcome State Fault Refusal

/-! ## Reset: the always-on power-on of R438 has ended at its step 3, and nothing else has started -/

/-- The special registers at power-on (R139). -/
def Special.reset : Special :=
  { sp := 32768#16, splim := 0, rc := 0, mpl := .uns 0, mph := .uns 0, flags := 0, trapCause := 0, trapPc := 0,
    cycBud := 0, stat := 0 }

/-- A stream-unit slot that runs nothing. -/
def SuSlot.idle : SuSlot :=
  { active := false, done := false, err := false, op := 0, cls := 0, peer := 0, sid := 0, length := 0, addr := 0,
    target := 0, c := 0, d := 0, landed := [], credit := 0 }

/-- A job port that is not enabled and idle. -/
def Port.idle : Port := { enabled := false, unit := 0, job := none }

/-- A cell after its power-up fill, held (R150, R153, R360). -/
def Cell.reset : Cell :=
  { im := [], dm := [], sb0 := [], sb1 := [], w := List.replicate 16 .void, pc := 0, sp := .reset, mul := none,
    run := { held := true, holdReq := true, scrubbing := false, dbl := false, idle := false, stall := .none, exts := [],
             latched := false, iterated := false, gen := 0 },
    su0 := .idle, su1 := .idle, suL := .idle, ports := List.replicate 4 .idle }

/-- Cell 40, released at its START vector (R438 step 3). -/
def Cell.warden : Cell := { Cell.reset with run := { Cell.reset.run with held := false, holdReq := false } }

/-- An NVMe controller before it is enabled: `pool` names its I/O queue pairs (R99); features at zero (log 6). -/
def Ctrl.reset (pool : List Nat) : Ctrl :=
  { cc := 0, csts := 0, aqa := 0, asq := 0, acq := 0, intms := 0, msixEn := false, msixFMask := false, msixTab := [],
    pba := 0, d3hot := false, sqs := [], cqs := [], pool := pool, fetching := false, resetting := false,
    feat := { arb := 0, power := 0, errRec := 0, tempThr := [], coalThr := 0, coalTime := 0, vecCd := [], async := 0 },
    coal := [] }

/-- The logs of a function, empty (R97). -/
def FnLogs.reset : FnLogs :=
  { aers := [], asyncQ := [], masked := [], err := [], errCnt := 0, changed := [], dwf := [], dwfLost := 0,
    dwfNext := 0, late := [], selfTst := [], test := none, retry := 0 }

/-- A firmware image as manufactured: release 3.2 (FUS_FWREL), intact. -/
def Image.made : Image := { pieces := [], release := 0x03020000, good := true }

/-- The host side (04). -/
def HostSide.reset : HostSide :=
  { ctrls := Ctrl.reset (List.range 128) :: List.replicate 15 (Ctrl.reset []),
    logs := List.replicate 16 .reset, cmds := [], nss := [],
    evid := { base := 0, cap := 0, append := 0, published := 0, attached := [], open_ := [], fieldCnt := 0, hostCnt := 0 },
    fw := { slotA := .made, slotB := .made, down := [], commit := none, self := none },
    link := { up := false, pm := 0, speed := 0, width := 0, perst := true, vfEn := false, numVfs := 0 },
    nextSeq := 0 }

/-- The admission controller (03): no slice, empty buckets, no charge. -/
def Adm.reset : Adm :=
  { slices := List.replicate 16 ⟨0, 0⟩, buckets := List.replicate 17 ⟨0, 0⟩, refilled := 0, consts := [], charges := [],
    spacing := [], latest := 0, bound := [], house := [] }

/-- The map as formatted at manufacture (R219): nothing mapped. -/
def MapImage.empty : MapImage := { coarse := [], fine := [], groups := [], blocks := [] }

/-- The translation layer as manufactured (R219): both checkpoints complete and empty, one journal page with FINAL and
SHUTDOWN, numbered 0. -/
def Ftl.reset : Ftl :=
  { map := .empty, rewrites := [], lastWr := [], staging := [], version := 0, wseq := 0, jbuf := [], jbufT := 0,
    jpages := [{ jseq := 0, recs := [], flush := false, final := true, shutdown := true, ckptJ0 := 0, copyA := true,
                 copyB := true, durable := true, atA := none, atB := none }],
    jseq := 1, ckptA := some { j0 := 0, image := .empty, good := true, sets := [], todo := [] },
    ckptB := some { j0 := 0, image := .empty, good := true, sets := [], todo := [] }, ckptRun := none, ckptT := 0, relocs := [], demote := [],
    writer := [] }

/-- Media care (10). -/
def Care.reset : Care :=
  { bufCur := 0, bufUsed := 0, evUsed := 0, evDrawn := false, retired := 0, freeNat := 0, patrol := none,
    patrolTot := 0, patrolPer := 0 }

/-- Redundancy (11). -/
def Red.reset : Red :=
  { stripes := [], closed := [], sseq := 0, failed := [], rbState := 0, rbAfter := 0, die1 := none, die2 := none,
    cursor := 0, todo := [], repl := [], batch := 0, sifjA := none, sifjB := none, sifjDieA := 0, sifjDieB := 0,
    sifjSeq := 0, sifjRun := none, sifjSets := [], sifjKept := [], triple := [], spare := [], rbReads := [] }

/-- A sequencer stopped at word 0 (R275). -/
def Sequencer.reset : Sequencer :=
  { upc := 0, stack := [], cnt := 0, a := List.replicate 4 0, st := 0, tmo := false, dfail := false, erased := false,
    ovth := false, sel := none, buf := 0, wpn := false, desc := none, active := false, todo := false, entry := 0, steps := 0, wait := none,
    susReq := false, fifo := 0, slots := List.replicate 24 0, failed := [], store := [] }

/-- The media (12): no die attached, every bus parked. -/
def Media.reset : Media :=
  { chans := List.replicate 16 { seq := .reset, bufs := [none, none], waits := [], parked := true, reload := false },
    dies := List.replicate 128 { attached := false, state := 0, mode := .pslc, susCnt := 0, susp := false, req := none,
                                 started := 0, scale := 0, forced := false, paused := none, lunReset := none },
    reqs := [], nextId := 0, flash := [], quiet := [], rot := none, lastRot := 0, ways := 0, geom := none, wayMap := [],
    micro := [], parked := [], queued := [], bare := false }

/-- A bank with no entries. -/
def Bank.empty : Bank :=
  { ents := [], window := [], winPos := 0, winRes := [], waits := 0, restart := none, mism := 0, recov := [],
    testing := false, holding := false }

/-- The search engine (13). -/
def Search.reset : Search := { banks := List.replicate 16 .empty, posted := [], work := 0 }

/-- A key slot that holds no key: LIMLOG2 36, held by vendor firmware (KEY_SLIM, KEY_SOWN). -/
def KeySlot.empty : KeySlot :=
  { valid := false, key := 0, klen := 0, root := false, label := 0, use := 0, lim := 36, fw := true, func := 0 }

/-- A free context slot. -/
def DigCtx.free : DigCtx := { bytes := List.replicate 224 0, inUse := false, func := 0, owner := none }

/-- The cryptography complex (14). -/
def Crypto.reset : Crypto :=
  { slots := List.replicate 64 .empty, epochs := [], wrap := List.replicate 16 0, root := none,
    lanes := List.replicate 16 { job := none, path := none, keys := [] }, bound := List.replicate 4 none,
    ctxs := List.replicate 32 .free, digs := List.replicate 4 none }

/-- DRAM and the fabric cache (15): DRAM without power, nothing cached. -/
def Dram.reset : Dram :=
  { mem := [], pois := [], chans := List.replicate 4 { queue := [], pend := 0, bank := 0, open_ := [], codes := [] },
    slices := List.replicate 4 { lines := [], ports := [], masks := [], ces := [], retire := [], wop := none },
    victim := [], ebuf := [], want := [], stamp := 0, mop := none, served := [], lastBo := 0, margin := false }

/-- A function with no shares. -/
def Vf.reset : Vf :=
  { shares := { cells := 0, slm := 0, banks := 0, ways := 0, keys := 0, eng := 0 }, online := false, flr := false,
    mbUp := [], mbDown := [], mbOut := [], upFull := false, dnFull := false,
    dirty := { enable := false, base := 0, gib := 1, dest := 0, active := [], old := [], overB := false, busy := false,
               rounds := 0 },
    rej := [] }

/-- Virtual functions (17). -/
def Vfm.reset : Vfm := { vfs := List.replicate 16 .reset, busy := none, zeroing := [] }

/-- A patch copy never written. -/
def Patch.none : Patch := { bytes := [], total := 0, next := 0, state := 0, version := 0 }

/-- The MRAM before anything is stored: defaults of R388 and R391. -/
def Mram.made : Mram :=
  { params := [], lock := false, policy := { sources := 0x0000080F, pct := 50, outmask := 1, alarm := 0 }, time := 0,
    cold := 0, reserve := 0, trim := 0, copyA := .none, copyB := .none }

/-- The field die, on and with its link down (18). -/
def Field.reset : Field :=
  { powered := true, time := 0, tvalid := false, slew := none, slewAcc := 0, quality := 0, lastSet := none, ring := [], seq := 0,
    sendAt := 0, resent := 0, tokens := 4096, tokAcc := 0, mram := .made, fired := 0, repeats := false, outputs := [false, false],
    outTime := 0,
    counts := { rateDrops := 0, fullDrops := 0, rxErr := 0, fcsErr := 0, canErr := 0, corr := 0, cold := 0 },
    mv := 3300, temp := 89, flags := 0, frames := [0, 0], pulses := 0, pulsed := false,
    levels := List.replicate 4 false, busSt := List.replicate 4 0, ethUp := [false, false], linkUp := false,
    expect := none, acks := [], running := 0, fell := false, tx := [], sentAt := [], imgSeq := 0 }

/-- The host side of the Front link (18). -/
def Frl.reset : Frl :=
  { waiting := false, hostSeq := 0, unack := [], queue := [], held := [], appends := [], durable := none,
    resume := false, health := List.replicate 48 0, healthT := 0, lastTx := 0, legal := none, patch := none }

/-- The side-band port (19), strapped to SMBus at 100 kHz (log 6). -/
def Sideband.reset : Sideband :=
  { i3c := false, freq := 1, waits := [], held := [], health := List.replicate 32 0, copyT := 0, missed := 0, state6 := false,
    evlog := [], fstat := 0, lastIO := 0 }

/-- Power (20, 24): V3P3_AON in range, the other supplies off, the sensors at 25 °C. -/
def Power.reset : Power :=
  { v12 := false, aon := true, vccq := false, pwrFail := true, flush := 0, flushed := true, entering := none, calm := false,
    wake := none, calmReq := 0, breezeT := none, deepT := none, temps := List.replicate 9 25, watts := 0, candT := [],
    rising := none, caseOutT := none, supplyT := none }

/-- The slot control record as manufactured: slot A active and next (log 6). -/
def SlotRec.made : SlotRec := { seq := 0, active := 1, next := 1, prev := 1, tries := 0, flags := 0, good := true }

/-- The boot NOR as manufactured (R434). -/
def Nor.made : Nor :=
  { rec0 := .made, rec1 := .made, blob := List.replicate 64 0, evidCap := 0, ways := [], failed := [], starts := [],
    acctMs := 0, unavMs := 0, unavInt := 0, patch := [], vpd := [] }

/-- Start-up (21): the warden runs and the main side is off. -/
def Start.reset : Start :=
  { nor := .made, phase := .warden, slot := 1, began := 0, kind := 0, pendRst := none, pendCtl := false }

/-- The machine right after reset; the one register that differs from its reset value is CEL_CTRL of cell 40, which runs. -/
def State.reset : State :=
  { pending := [], pages := { regs := [(0x68080, 0)], latches := [], dtime := 0, aonPhase := 0 }, host := .reset, adm := .reset,
    prog := { slots := [], active := [], sets := [], execs := [], held := [] }, cells := List.replicate 40 .reset ++ [.warden],
    fabric := { roles := List.replicate 40 { role := 0, fn := 0, slot := 0, allow := 0 } ++ [{ role := 7, fn := 0, slot := 0, allow := 255 }],
                reassign := [], pause := none,
                codec := List.replicate 4 [] },
    ftl := .reset, care := .reset, red := .reset, media := .reset, search := .reset, crypto := .reset, dram := .reset,
    upsets := [], vfm := .reset, field := .reset, frl := .reset, sb := .reset, power := .reset, start := .reset,
    events := { alarms := [], tamper := false, spans := [], logT := 0, excluded := false, broken := false, unav := false },
    squall := { delayed := [], scaled := [] }, fresh := 0, out := [] }

end Sys2Proof.Machine
end

