-- ==== Sys2Proof/Machine/Ops.lean ====
section
/-!
DEFINITION. The shared operations: sparse tables, registers, events and their routing (R35 to R38, R447, R448), error
capture (R39), counters (R11, R12, R40, R41), protected arrays (R355 to R362), free values, and the common access rules of
the register pages (R32, R33).
-/

namespace Sys2Proof.Machine

/-! ## Sparse tables in canonical form -/

/-- What a key reads as; `d` is what an unlisted key reads as. -/
def SMap.get {α : Type} (d : Nat → α) : SMap α → Nat → α
  | [], k => d k
  | (j, v) :: r, k => if j = k then v else if k < j then d k else SMap.get d r k

/-- Storing a value at a key, keeping keys rising and listing no default. -/
def SMap.set {α : Type} [DecidableEq α] (d : Nat → α) : SMap α → Nat → α → SMap α
  | [], k, x => if x = d k then [] else [(k, x)]
  | (j, v) :: r, k, x =>
    if k < j then (if x = d k then (j, v) :: r else (k, x) :: (j, v) :: r)
    else if k = j then (if x = d k then r else (k, x) :: r)
    else (j, v) :: SMap.set d r k x

/-- The canonical form: keys strictly rising, no entry at its default. -/
def SMap.wf {α : Type} [DecidableEq α] (d : Nat → α) : SMap α → Bool
  | [] => true
  | [(k, v)] => decide (v ≠ d k)
  | (k, v) :: (j, w) :: r => decide (v ≠ d k) && decide (k < j) && SMap.wf d ((j, w) :: r)

/-- A byte of a sparse memory whose unlisted bytes read 0. -/
def byteAt (m : SMap Byte) (a : Nat) : Byte := m.get (fun _ => 0) a

/-- Storing bytes from an address upward. -/
def storeBytes (m : SMap Byte) (a : Nat) : List Byte → SMap Byte
  | [] => m
  | b :: r => storeBytes (m.set (fun _ => 0) a b) (a + 1) r

/-- The `n` bytes from an address upward. -/
def loadBytes (m : SMap Byte) (a n : Nat) : List Byte := (List.range n).map fun k => byteAt m (a + k)

/-- Little-endian bytes as a number (R7). -/
def leNat : List Byte → Nat
  | [] => 0
  | b :: r => b.toNat + 256 * leNat r

/-- A number as `n` little-endian bytes (R7). -/
def leBytes : Nat → Nat → List Byte
  | 0, _ => []
  | n + 1, v => BitVec.ofNat 8 v :: leBytes n (v / 256)

/-- A word from little-endian bytes. -/
def leWord (bs : List Byte) : Word := BitVec.ofNat 32 (leNat bs)

/-- A word as four little-endian bytes. -/
def wordBytes (w : Word) : List Byte := leBytes 4 w.toNat

/-- A slice of a list of bytes: `n` from `k`, missing bytes 0. -/
def sub (bs : List Byte) (k n : Nat) : List Byte := (List.range n).map fun j => bs.getD (k + j) 0

/-- A list in an order, equal elements as they stood. -/
def putInOrder {α : Type} (le : α → α → Bool) (x : α) : List α → List α
  | [] => [x]
  | y :: r => if le x y then x :: y :: r else y :: putInOrder le x r
def sortedBy {α : Type} (le : α → α → Bool) (l : List α) : List α := l.foldr (putInOrder le) []

/-- Changing one element of a list. -/
def at' {α : Type} (l : List α) (k : Nat) (f : α → α) : List α := l.modify k f

/-! ## Registers -/

/-- A register as stored: the key is page × 4096 + offset; an unlisted register holds its reset value. -/
def State.reg (s : State) (key : Nat) : Word :=
  s.pages.regs.get (fun k => resetOf (k / 4096) (k % 4096)) key

/-- Storing a register. -/
def State.setReg (s : State) (key : Nat) (v : Word) : State :=
  { s with pages := { s.pages with regs := s.pages.regs.set (fun k => resetOf (k / 4096) (k % 4096)) key v } }

/-- Storing one field [hi:lo] of a register. -/
def State.setField (s : State) (key hi lo v : Nat) : State := s.setReg key (setBits (s.reg key) hi lo v)

/-- One bit of a register. -/
def State.regBit (s : State) (key k : Nat) : Bool := bit (s.reg key) k

/-- A field [hi:lo] of a register. -/
def State.field? (s : State) (key hi lo : Nat) : Nat := bits (s.reg key) hi lo

/-- Returning every register of a page but those of a list of offsets to its reset value. -/
def State.resetPage (s : State) (page : Nat) (keep : List Nat) : State :=
  { s with pages := { s.pages with
      regs := s.pages.regs.filter fun p => p.1 / 4096 != page || keep.contains (p.1 % 4096) } }

/-- What the device sends outward (the model's record). -/
def State.emit (s : State) (o : Out) : State := { s with out := s.out ++ [o] }

/-- The next free value, and the state that has used it (log 5). -/
def State.free (s : State) : BitVec 64 × State := (Config.freeValue s.fresh, { s with fresh := s.fresh + 1 })

/-- The device time in nanoseconds. -/
def State.ns (s : State) : Nat := s.pages.dtime.toNat * 1000

/-- Legal time as the controller side knows it: what the field die's messages told it, and the device time that has passed since (R17,
R375, log 88). -/
def State.legal (s : State) : Option (BitVec 64) := s.frl.legal.map fun x => x.1 + (s.pages.dtime - x.2.1)

/-- Legal time learnt from a message; a patrol pass that began without it counts from now (R234). -/
def State.learnTime (s : State) (t : BitVec 64) (valid : Bool) : State :=
  { s with
    frl := { s.frl with legal := some (t, s.pages.dtime, valid) }
    care := { s.care with patrol := s.care.patrol.map fun x => (if x.1 = 0 then t else x.1, x.2) } }

/-- Changing one cell. -/
def State.modCell (s : State) (c : CellId) (f : Cell → Cell) : State := { s with cells := at' s.cells c.val f }

/-- A cell. -/
def State.cell (s : State) (c : CellId) : Cell := s.cells.getD c.val .reset

/-- Changing one function's controller. -/
def State.modCtrl (s : State) (f : Fun) (g : Ctrl → Ctrl) : State :=
  { s with host := { s.host with ctrls := at' s.host.ctrls f.val g } }

/-- A function's controller. -/
def State.ctrl (s : State) (f : Fun) : Ctrl := s.host.ctrls.getD f.val (.reset [])

/-- Changing one function's logs. -/
def State.modLogs (s : State) (f : Fun) (g : FnLogs → FnLogs) : State :=
  { s with host := { s.host with logs := at' s.host.logs f.val g } }

/-- A function's logs. -/
def State.logsOf (s : State) (f : Fun) : FnLogs := s.host.logs.getD f.val .reset

/-- Whether a function exists: the PF, and the VFs that VF Enable brings into existence (R76, R365). -/
def State.fnExists (s : State) (f : Nat) : Bool :=
  f == 0 || (s.host.link.vfEn && decide (f ≤ s.host.link.numVfs))

/-! ## Events and their delivery -/

/-- EV_PENDING: EV_RAW AND EV_ENABLE (R35). -/
def State.evPending (s : State) (page : Nat) : Word := s.reg (EV_RAW page) &&& s.reg (EV_ENABLE page)

/-- The destination a page's EV_ROUTE names: DEST, TARGET, FUNC. -/
def State.route (s : State) (page : Nat) : Nat × Nat × Nat :=
  let r := s.reg (EV_ROUTE page)
  (bits r 1 0, bits r 7 2, bits r 11 8)

/-- The state in which the warden oscillator runs (R424): CLK_STAT.WOSC and clock domains 1 and 2. -/
def State.startWosc (s : State) : State :=
  let s := s.setReg CLK_STAT (setBit (s.reg CLK_STAT) 7 true)
  let s := s.setReg CLK_RUN0 (s.reg CLK_RUN0 ||| 0x6)
  { s with sb := { s.sb with lastIO := s.pages.dtime } }

/-- An alert or a power transition in the warden's event log of 256 entries (R410). -/
def State.logWarden (s : State) (page : Nat) (w : Word) : State :=
  let l := s.sb.evlog ++ [(page, w, s.pages.dtime)]
  { s with sb := { s.sb with evlog := l.drop (l.length - 256) } }

/-- A side-band alert begins: the level goes low, or an in-band interrupt is raised, while the port answers (R405, R448). -/
def State.alert (s : State) (page : Nat) : State :=
  let s := s.logWarden page (s.reg (EV_RAW page))
  if bit (s.reg SBM_CTRL) 8 then s.emit (.sidebandAlert true) else s

/-- Whether a function cannot receive a message: MSI-X Enable 0, or under an NVMe controller reset or an FLR (R448). -/
def State.msixHeld (s : State) (f : Fun) : Bool :=
  !(s.ctrl f).msixEn || (s.ctrl f).resetting || ((s.vfm.vfs.getD f.val .reset).flr)

/-- The vector control word of a vector: bit 0 masks it; masked until written (R24, log 9). -/
def Ctrl.vecCtl (c : Ctrl) (v : Nat) : Word := c.msixTab.get (fun k => if k % 4 = 3 then 1 else 0) (4 * v + 3)

/-- Sending a vector's message (R447): while the vector or the function is masked, the pending bit is set in its place. -/
def State.sendVector (s : State) (f : Fun) (v : Nat) : State :=
  if (s.ctrl f).msixFMask || bit ((s.ctrl f).vecCtl v) 0 then
    s.modCtrl f fun c => { c with pba := c.pba ||| BitVec.ofNat 64 (2 ^ v) }
  else s.emit (.msix f v)

/-- Sending a vector's message once for each of `n` transitions (R38, R447). -/
def State.sendVectors (s : State) (f : Fun) (v : Nat) : Nat → State
  | 0 => s
  | n + 1 => (s.sendVectors f v n).sendVector f v

/-- The number of 1 bits of a word. -/
def bitCount (w : Word) : Nat := ((List.range 32).filter fun k => bit w k).length

/-- The signal that follows `n` transitions of EV_PENDING bits of a page from 0 to 1 (R38, R447, R448); true when messages are
withheld. -/
def State.signal (s : State) (page n : Nat) : State × Bool :=
  match s.route page with
  | (0, v, f) =>
    if s.fnExists f then
      if s.msixHeld (Fin.ofNat 16 f) then (s, true) else (s.sendVectors (Fin.ofNat 16 f) v n, false)
    else (s, false)
  | (2, _, _) => (s.startWosc, false)
  | (3, _, _) => (s.alert page, false)
  | _ => (s, false)

/-- Setting raw bits of a page, without the counters the delivery may touch: the messages withheld. -/
def State.setRaw (s : State) (page : Nat) (m : Word) : State × Nat :=
  let raw := s.reg (EV_RAW page)
  let n := bitCount (m &&& ~~~raw &&& s.reg (EV_ENABLE page))
  let s := s.setReg (EV_RAW page) (raw ||| m)
  if n = 0 then (s, 0)
  else match s.signal page n with
    | (s, true) => (s, n)
    | (s, false) => (s, 0)

/-- Adding to a counter slot (R11): it stays at its maximum and its SAT bit is set when it first reaches it; true then. -/
def State.countRaw (s : State) (page slot n : Nat) : State × Bool :=
  let key := page * 4096 + 0xF08 + 4 * slot
  let satKey := page * 4096 + 0xF00 + 4 * (slot / 32)
  let v := min ((s.reg key).toNat + n) 0xFFFFFFFF
  let s := s.setReg key (BitVec.ofNat 32 v)
  if v = 0xFFFFFFFF ∧ bit (s.reg satKey) (slot % 32) = false then
    (s.setReg satKey (setBit (s.reg satKey) (slot % 32) true), true)
  else (s, false)

/-- Raising events of a page: raw bits are set and the route is signalled; withheld messages count in EVT counter
MSIX_HELD (R448). -/
def State.raiseMask (s : State) (page : Nat) (m : Word) : State :=
  match s.setRaw page m with
  | (s, 0) => s
  | (s, n) =>
    match s.countRaw 0x005 8 n with
    | (s, false) => s
    | (s, true) => (s.setRaw 0x005 0x4).1

/-- Raising event `k` of a page. -/
def State.raise (s : State) (page k : Nat) : State := s.raiseMask page (BitVec.ofNat 32 (2 ^ k))

/-- Adding to a saturating counter, with EV_<BLOCK>_CNT_SAT when it first saturates (R11, R452). -/
def State.count (s : State) (page slot n : Nat) : State :=
  match s.countRaw page slot n with
  | (s, true) => s.raise page 2
  | (s, false) => s

/-- Adding to a joined 64-bit counter (R41): low word in `slot`, only its SAT bit is used. -/
def State.count64 (s : State) (page slot n : Nat) : State :=
  let lo := page * 4096 + 0xF08 + 4 * slot
  let v := min ((s.reg lo).toNat + 2 ^ 32 * (s.reg (lo + 4)).toNat + n) (2 ^ 64 - 1)
  let s' := (s.setReg lo (BitVec.ofNat 32 v)).setReg (lo + 4) (BitVec.ofNat 32 (v / 2 ^ 32))
  if v = 2 ^ 64 - 1 ∧ bit (s.reg (page * 4096 + 0xF00)) slot = false then
    (s'.setReg (page * 4096 + 0xF00) (setBit (s.reg (page * 4096 + 0xF00)) slot true)).raise page 2
  else s'

/-! ## Error capture -/

/-- A master as ERR_CAP0 records it: MASTER, VF, CELL (R39); `none` is the block itself. -/
def masterCode : Option Master → Nat × Nat × Nat
  | some .pf => (0, 0, 0)
  | some (.vf n) => (1, n.val, 0)
  | some .sideband => (2, 0, 0)
  | some (.cell n) => (3, 0, n.val)
  | some .warden => (4, 0, 0)
  | none => (5, 0, 0)

/-- An error of a page (R39): ERR_COUNT counts it; the first one is captured with the device time, raises
EV_<BLOCK>_ERRCAP and, if EVT_FIRST holds none, is recorded there (R450, R451); a later one sets OVERFLOW. -/
def State.error (s : State) (page code : Nat) (m : Option Master) (c1 c2 c3 : Word) (c6 c7 : Word := 0) : State :=
  let s := s.count page 0 1
  let cap := s.reg (ERR_CAP0 page)
  if bit cap 0 then s.setReg (ERR_CAP0 page) (cap ||| 2)
  else
    let (mc, vf, cell) := masterCode m
    let t := s.pages.dtime
    let s := s.setReg (ERR_CAP0 page)
      (BitVec.ofNat 32 (cell * 2 ^ 24 + vf * 2 ^ 20 + mc * 2 ^ 16 + (code % 256) * 256 + 1))
    let s := (s.setReg (ERR_CAP1 page) c1).setReg (ERR_CAP2 page) c2
    let s := s.setReg (ERR_CAP3 page) c3
    let s := (s.setReg (ERR_CAP4 page) (t.setWidth 32)).setReg (ERR_CAP5 page) ((t >>> 32).setWidth 32)
    let s := (s.setReg (ERR_CAP6 page) c6).setReg (ERR_CAP7 page) c7
    let s :=
      if bit (s.reg EVT_FIRST0) 31 || decide (0x100 ≤ page) then s
      else ((s.setReg EVT_FIRST0 (BitVec.ofNat 32 (2 ^ 31 + (code % 256) * 256 + page))).setReg EVT_FIRST1
        (t.setWidth 32)).setReg EVT_FIRST2 ((t >>> 32).setWidth 32)
    s.raise page 1

/-- An error the block itself finds. -/
def State.blockError (s : State) (page code : Nat) (c1 : Word := 0) (c2 : Word := 0) (c3 : Word := 0) : State :=
  s.error page code none c1 c2 c3

/-- Setting a bit of PG_STAT; EV_<BLOCK>_ACC is raised when one of bits [4:0] becomes 1 (R34). -/
def State.setStat (s : State) (page k : Nat) : State :=
  let old := s.reg (PG_STAT page)
  let s := s.setReg (PG_STAT page) (setBit old k true)
  if k ≤ 4 ∧ bit old k = false then s.raise page 0 else s

/-- A refused access (R33): the status bit, ACC_COUNT, and the capture of the access. -/
def State.accessFail (s : State) (page k code : Nat) (m : Master) (off : Nat) (v : Word) : State :=
  ((s.setStat page k).count page 1 1).error page code (some m) (BitVec.ofNat 32 off) 0 v

/-- A write refused under a condition of the block's own table (R33): ERR_COUNT and the capture, not ACC_COUNT. -/
def State.refuse (s : State) (page code : Nat) (m : Master) (off : Nat) (v : Word) : State :=
  s.error page code (some m) (BitVec.ofNat 32 off) 0 v

/-- As `refuse`, with PG_STAT.RSVD_WR also set. -/
def State.refuseRsvd (s : State) (page code : Nat) (m : Master) (off : Nat) (v : Word) : State :=
  (s.setStat page 1).refuse page code m off v

/-! ## Protected arrays (16) -/

/-- Checks of a block against an error pattern over its data bits and then its ROW and COL bits (R355, R356): the pattern
left on the delivered data, or none when the block is uncorrectable; and whether a correction was made. -/
def gridDecode (rows cols pattern : Nat) : Option Nat × Bool :=
  let n := rows * cols
  let row := fun r => (List.range cols).foldl (fun a c => a.xor (pattern.testBit (r * cols + c)))
    (pattern.testBit (n + r))
  let col := fun c => (List.range rows).foldl (fun a r => a.xor (pattern.testBit (r * cols + c)))
    (pattern.testBit (n + rows + c))
  let data := pattern % 2 ^ n
  match (List.range rows).filter row, (List.range cols).filter col with
  | [], [] => (some data, false)
  | [r], [c] => (some (data ^^^ 2 ^ (r * cols + c)), true)
  | [_], [] => (some data, true)
  | [], [_] => (some data, true)
  | _, _ => (none, false)

/-- The key of a protected block in `upsets`. -/
def upKey (page array index : Nat) : Nat := page * 2 ^ 32 + array * 2 ^ 28 + index

/-- A location in the correction log of MP_LOG: once, while there is room (R362). -/
def State.logPlace (s : State) (page : Nat) (v : Word) : State :=
  let st := s.reg (MP_STAT page)
  let used := bits st 3 0
  if 8 ≤ used || (List.range used).any (fun k => s.reg (MP_LOG page k) == v) then s
  else
    let st := setBits st 3 0 (used + 1)
    (s.setReg (MP_LOG page used) v).setReg (MP_STAT page) (if used + 1 = 8 then setBit st 31 true else st)

/-- Logging a correction in MP_CORR and MP_LOG (R362); the counter's first saturation raises EV_<BLOCK>_CNT_SAT (R11). -/
def State.logCorrection (s : State) (page array index : Nat) : State :=
  let n := min ((s.reg (MP_CORR page)).toNat + 1) 0xFFFFFFFF
  let s := s.setReg (MP_CORR page) (BitVec.ofNat 32 n)
  let first := n == 0xFFFFFFFF && !s.regBit (MP_STAT page) 30
  let s := (if first then s.setReg (MP_STAT page) (setBit (s.reg (MP_STAT page)) 30 true) else s).logPlace page
    (BitVec.ofNat 32 (array * 2 ^ 28 + index))
  if first then s.raise page 2 else s

/-- A read of a protected block (R356): the pattern left on the data, or none; corrections are logged. -/
def State.readProt (s : State) (page array index rows cols : Nat) : Option Nat × State :=
  let p := s.upsets.get (fun _ => 0) (upKey page array index)
  if p = 0 then (some 0, s)
  else match gridDecode rows cols p with
    | (d, true) => (d, s.logCorrection page array index)
    | (d, false) => (d, s)

/-- Reading `n` Block blocks of an array from block `lo` on: the offsets of the uncorrectable ones (R356); and writing them whole (R358). -/
def State.scanProt (s : State) (page array lo n : Nat) : List Nat × State :=
  ((s.upsets.map Prod.fst).filter fun k => decide (upKey page array lo ≤ k ∧ k < upKey page array (lo + n))).foldl
    (fun (a : List Nat × State) k => match a.2.readProt page array (k - upKey page array 0) 8 8 with
      | (some _, s) => (a.1, s)
      | (none, s) => (a.1 ++ [k - upKey page array lo], s)) ([], s)
def State.clearProt (s : State) (page array lo n : Nat) : State :=
  { s with upsets := s.upsets.filter fun u => !decide (upKey page array lo ≤ u.1 ∧ u.1 < upKey page array (lo + n)) }

/-- A whole write of a protected block stores fresh check bits (R358). -/
def State.freshProt (s : State) (page array index : Nat) : State :=
  { s with upsets := s.upsets.set (fun _ => 0) (upKey page array index) 0 }

/-- The error pattern of a block whose data carries the pattern `e` and whose check bits agree with it, so that no read detects it. -/
def gridSilent (rows cols e : Nat) : Nat :=
  let odd := fun (l : List Nat) => (l.filter fun k => e.testBit k).length % 2
  e + ((List.range rows).foldl (fun a r => a + odd ((List.range cols).map fun c => r * cols + c) * 2 ^ r) 0) * 2 ^ (rows * cols) +
    ((List.range cols).foldl (fun a c => a + odd ((List.range rows).map fun r => r * cols + c) * 2 ^ c) 0) * 2 ^ (rows * cols + rows)

/-- A partial write of the bits `written` of a block (R358): an uncorrectable block is stored with every ROW bit inverted; otherwise what the
decoding left wrong outside the written bits stays on the data, with fresh check bits for it. -/
def State.mergeProt (s : State) (page array index rows cols written : Nat) : State :=
  match s.readProt page array index rows cols with
  | (none, s) =>
    { s with upsets := s.upsets.set (fun _ => 0) (upKey page array index) ((2 ^ rows - 1) * 2 ^ (rows * cols)) }
  | (some e, s) =>
    { s with upsets := s.upsets.set (fun _ => 0) (upKey page array index) (gridSilent rows cols (e - (e &&& written))) }

/-! ## Power domains and the access rules -/

/-- Whether Breeze has turned a page's domain off (R416, R422): compute cells, and search banks that hold no entries. -/
def State.asleep (s : State) (page : Nat) : Bool :=
  decide (0x50 ≤ page ∧ page ≤ 0x67) ||
    (decide (0xA1 ≤ page ∧ page ≤ 0xB0) && ((s.search.banks[page - 0xA1]?).any fun b => b.ents.isEmpty))

/-- Whether a page's power domain is on (R32, R422, R423): always-on pages and SBM always; every other page while the main
side is started and not in Lull or Calm. Page 4096 and up are VF windows of the host interface. -/
def State.pageOn (s : State) (page : Nat) : Bool :=
  decide (page ≤ 7) || page == 0xF8 ||
    (match s.start.phase with
     | .off | .rom | .warden => false
     | .starting => true
     | _ =>
       let n := s.field? PWR_STAT 2 0
       n == 0 || (n == 1 && !s.asleep page) || n == 4 || (n == 5 && s.power.wake.isNone))

/-- Whether PG_OWNER of a page admits a master (R34). -/
def ownerAdmits (o : Word) : Master → Bool
  | .pf => bit o 0
  | .vf n => bit o 1 && decide (bits o 11 8 = n.val)
  | .sideband => bit o 2
  | .cell n => bit o 3 && decide (bits o 21 16 ≤ n.val ∧ n.val ≤ bits o 29 24)
  | .warden => bit o 4

/-- Whether Squall is unlocked, and by whom: SQL_STAT.UNLOCKED and HOLDER (R461). -/
def State.squallHolder (s : State) : Option Master :=
  if s.regBit SQL_STAT 0 then some (if s.regBit SQL_STAT 2 then .pf else .sideband) else none

/-- Whether a master may write a register by its owner line (R8, R461). -/
def State.mayWrite (s : State) (m : Master) (page : Nat) (d : RegDef) : Bool :=
  match d.owner with
  | .none => false
  | .page => ownerAdmits (s.reg (PG_OWNER page)) m
  | .list pf sb wd cells =>
    match m with
    | .pf => pf
    | .vf _ => false
    | .sideband => sb
    | .warden => wd
    | .cell n => match cells with
      | some (lo, hi) => decide (lo ≤ n.val ∧ n.val ≤ hi)
      | none => false
  | .holder => s.squallHolder == some m || (m == .warden && s.squallHolder.isSome)
  | .vf =>
    match m with
    | .vf n => decide ((page - 0x1000) / 16 = n.val)
    | .warden => true
    | _ => false

/-- Whether a master can address a page at all (R26, R28): the PF, the side-band, cells and the warden reach PF pages; a VF
reaches its own window. -/
def reaches (m : Master) (page : Nat) : Bool :=
  match m with
  | .vf n => decide (0x1000 ≤ page ∧ (page - 0x1000) / 16 = n.val)
  | _ => decide (page < 0x1000)

/-- The page that records an access which no page answers (R26): VMB for a VF, TOP for the PF. That the side-band, the cells and the warden
record theirs in TOP as well is the model's choice (DESIGN CHOICE, log 86). -/
def homePage : Master → Nat
  | .vf n => 0x1000 + 16 * n.val
  | _ => 0

/-- The answer to an access that is not performed because of its width or alignment (R33). -/
def widthReply (m : Master) (isRead : Bool) : BusReply :=
  match m with
  | .pf | .vf _ => if isRead then .completerAbort else .discarded
  | .sideband => .accessError
  | .cell _ | .warden => .busTrap

/-- The answer to an access to an unimplemented offset (R26, R33): host functions read 0; to the other masters it is refused. -/
def unmappedReply (m : Master) (isRead : Bool) : BusReply :=
  match m with
  | .pf | .vf _ => if isRead then .data 0 else .ok
  | .sideband => .accessError
  | .cell _ | .warden => .busTrap

/-- What the common rules make of an access: answered with no effect on the register, or let through to it. -/
inductive Verdict where
  | stop (s : State) (r : BusReply)
  | pass (d : RegDef)

/-- A request of a host function is a request TLP received (R98). -/
def State.arrive (s : State) (m : Master) : State :=
  match m with
  | .pf | .vf _ => if s.pageOn 0x010 then s.count64 0x010 2 1 else s
  | _ => s

/-- The rows of R33 that come before any other, for a read or a write: power (R32), width and alignment, mapping. A page
number that no master's map holds is an unimplemented offset (R26). -/
def State.checkAccess (s : State) (m : Master) (page off width : Nat) (isRead : Bool) (v : Word) : Verdict :=
  if reaches m page && (kindOf page).isSome && !s.pageOn page then
    .stop (s.setReg (PG_STAT 0) (setBit (s.reg (PG_STAT 0)) 16 true)) .offError
  else
    let known := reaches m page && (kindOf page).isSome
    let p := if known then page else homePage m
    if width ≠ 32 ∨ off % 4 ≠ 0 then
      .stop (s.accessFail p 0 0x01 m off (if isRead then 0 else v)) (widthReply m isRead)
    else match (if known then regDef page off else none) with
      | none => .stop (s.accessFail p 2 0x03 m off (if isRead then 0 else v)) (unmappedReply m isRead)
      | some d => .pass d

/-- Whether an offset lies in the Squall area (R463). -/
def inSquall (off : Nat) : Bool := decide (0xE00 ≤ off ∧ off ≤ 0xEFF)

/-- An EV_ROUTE value that R38 calls invalid. -/
def State.badRoute (s : State) (v : Word) : Bool :=
  let dest := bits v 1 0
  let target := bits v 7 2
  let f := bits v 11 8
  match dest with
  | 0 => !s.fnExists f || (f != 0 && decide (15 < target))
  | 1 => decide (39 < target) || f != 0
  | _ => target != 0 || f != 0

/-- Whether a page takes no write of a VF at all: VAD and VTP (R27). -/
def tenantView (m : Master) (page : Nat) : Bool :=
  match m with
  | .vf _ => page % 16 == 1 || page % 16 == 2
  | _ => false

/-- A write through the common rules (R33), in the order of its rows: what comes before the register; a register whose owner
is none; owner; locked Squall area; EV_ROUTE; the block's own conditions `cond`, which are reported only as they state; the register's effect; and the report of
reserved bits after it, since the hardware sets a bit and captures an error after a clearing in the same cycle (R10, R39). -/
def State.write (s : State) (m : Master) (page off width : Nat) (v : Word)
    (cond : State → Option State) (effect : RegDef → State → State) : State × BusReply :=
  let s := s.arrive m
  match s.checkAccess m page off width false v with
  | .stop s r => (s, r)
  | .pass d =>
    if tenantView m page then (s.accessFail page 3 0x04 m off v, .accessError)
    else if d.owner = .none then (s, .ok)
    else if inSquall off && s.squallHolder.isNone then (s.accessFail page 3 0x04 m off v, .accessError)
    else if !s.mayWrite m page d then (s.accessFail page 3 0x04 m off v, .accessError)
    else if decide (off = 0x34) && s.badRoute v then (s.accessFail page 4 0x05 m off v, .accessError)
    else match cond s with
      | some s => (s, .ok)
      | none =>
        if v &&& d.reserved ≠ 0 then ((effect d s).accessFail page 1 0x02 m off v, .ok) else (effect d s, .ok)

/-- Storing a written value under the access codes of R9: RW bits take it, W1S bits are set and W1C bits cleared by 1. -/
def State.store (key : Nat) (v : Word) (d : RegDef) (s : State) : State :=
  let old := s.reg key
  s.setReg key ((old &&& ~~~d.rw &&& ~~~(d.w1c &&& v)) ||| (v &&& d.rw) ||| (v &&& d.w1s))

/-- No block condition. -/
def noCond (_ : State) : Option State := none

/-- The level of the interrupt input of a cell, or of the warden for cell 40 (R38, R447). -/
def State.irqLevel (s : State) (c : CellId) : Bool :=
  eventPages.any fun p =>
    s.pageOn p && s.evPending p != 0 &&
      (match s.route p with
       | (1, t, _) => decide (t = c.val) && c.val != 40
       | (2, _, _) => c.val == 40
       | _ => false)

/-- Whether any page routed to the side-band alert has a pending event (R405). -/
def State.alertLevel (s : State) : Bool :=
  eventPages.any fun p => s.pageOn p && s.evPending p != 0 && decide ((s.route p).1 = 3)

/-- Whether any Squall control of a page is nonzero (PG_STAT.SQL_ACTIVE). -/
def State.sqlActive (s : State) (page : Nat) : Bool :=
  s.reg (SQ_DELAY page) != 0 || s.reg (SQ_BP page) != 0 || s.reg (SQ_SCALE_R page) != 0 ||
    s.reg (SQ_SCALE_P page) != 0 || s.reg (SQ_SCALE_E page) != 0

/-- SQL_STAT.PAGES: the pages with an active control (R463). -/
def State.sqlPages (s : State) : Nat := (pfPages.filter s.sqlActive).length

/-- SQL_STAT.ACTIVE: a control is set or an event has been forced (R467). -/
def State.sqlAny (s : State) : Bool := s.regBit SQL_STAT 3 || pfPages.any s.sqlActive

/-- Setting or clearing a cause bit (1 to 5) of ADM_STAT: PROMISE is 1 while bits [5:1] are 0, and its changes raise
EV_ADM_PROMISE_LOST and EV_ADM_PROMISE_BACK (R71, R72). -/
def State.cause (s : State) (k : Nat) (b : Bool) : State :=
  let old := s.reg ADM_STAT
  let v := setBit old k b
  let now := decide (bits v 5 1 = 0)
  let s := s.setReg ADM_STAT (setBit v 0 now)
  if bit old 0 = now then s else if now then s.raise 0x020 4 else s.raise 0x020 3

/-- ADM_STAT.TEMP: the DRAM's codes do not fit (R341), the junction is at 125 °C (R429), a TEMP alarm is active (R455), or the case estimate
has been out of range for 100 ms (R479). -/
def State.syncTemp (s : State) : State :=
  if !s.pageOn 0x020 then s
  else s.cause 1 (s.regBit DRC_STAT 3 || s.regBit PWR_STAT 16 || s.events.alarms.contains 2 || (match s.power.caseOutT with
    | some t => decide (100000 ≤ (s.pages.dtime - t).toNat)
    | none => false))

/-- ADM_STAT.SUPPLY: a supply has been out of range for 10 µs (R474), or a VOLT alarm is active (R455). -/
def State.syncSupply (s : State) : State :=
  if !s.pageOn 0x020 then s
  else s.cause 2 (s.events.alarms.contains 0 || (match s.power.supplyT with
    | some t => decide (10 ≤ (s.pages.dtime - t).toNat)
    | none => false))

/-- The present millisecond is not accountable in full (R456). -/
def State.breakMs (s : State) : State := { s with events := { s.events with broken := true } }

/-- ADM_STAT.SQUALL follows SQL_STAT.ACTIVE (R71). -/
def State.syncSquall (s : State) : State :=
  let s := if s.regBit ADM_STAT 4 then s.breakMs else s
  s.cause 4 s.sqlAny

/-- Answering a refused or read access to its master. -/
def State.reply (s : State) (m : Master) (r : BusReply) : State := s.emit (.reply m r)

/-! ## Perturbation of results and forced sources (R463, R464, R484) -/

/-- Letting out a result that SQ_DELAY held, or that nothing held. -/
def State.release (s : State) : Delayed → State
  | .out o => s.emit o
  | .job c p st => s.modCell c fun k =>
      { k with ports := at' k.ports p fun q => { q with job := q.job.map fun j => { j with status := some st } } }
  | .served r => { s with dram := { s.dram with served := s.dram.served ++ [r] } }
  | .die n => { s with media := { s.media with
      reqs := s.media.reqs.map fun r => if r.id = n then { r with phase := .sensed } else r } }
  | .entry q m => { s with frl := { s.frl with held := s.frl.held ++ [(q, m, s.pages.dtime, s.regBit FRL_STAT 4)] } }

/-- A result a block delivers: held for SQ_DELAY × 100 ns on its page, else delivered at once (R463). -/
def State.deliver (s : State) (page : Nat) (d : Delayed) : State :=
  let n := s.field? (SQ_DELAY page) 15 0
  if n = 0 then s.release d
  else { s with squall := { s.squall with delayed := s.squall.delayed ++ [(page, s.ns + 100 * n, d)] } }

/-- Page read data. -/
def State.answerRead (s : State) (m : Master) (page : Nat) (v : Word) : State := s.deliver page (.out (.reply m (.data v)))

/-- Whether a force of a source is armed, and the state in which it has acted. -/
def State.armed (s : State) (page k : Nat) : Bool := s.regBit (SQ_ARMED page) k

/-- The armed bit clears when the force acts (R484). -/
def State.disarm (s : State) (page k : Nat) : State :=
  s.setReg (SQ_ARMED page) (setBit (s.reg (SQ_ARMED page)) k false)

end Sys2Proof.Machine
end

