-- ==== Sys2Proof/Machine/Pages.lean ====
section
/-!
DEFINITION. The common registers of the pages (02): error capture, events, ownership, counters, latches and the device time.
-/

namespace Sys2Proof.Machine

/-- PG_CTRL.ERRCAP_REARM clears ERR_CAP0 to ERR_CAP7 (R39). -/
def rearmCapture (page : Nat) (v : Word) (s : State) : State :=
  if bit v 0 then
    (List.range 8).foldl (fun s k => s.setReg (page * 0x1000 + 0x40 + 4 * k) 0) s
  else s

/-- ERRCAP_REARM: a write of PG_CTRL with bit 0 set (R39). -/
def execErrcapRearm (m : Master) (page : Nat) (v : Word) (s : State) : Answer :=
  .next (s.write m page 0x08 32 (setBit v 0 true) noCond fun _ => rearmCapture page (setBit v 0 true)).1

/-- EV_SET sets raw bits only; routing follows (R37). -/
def execEvSet (m : Master) (page : Nat) (v : Word) (s : State) : Answer :=
  .next (s.write m page 0x2C 32 v noCond fun _ s => s.raiseMask page v).1

/-- Clearing raw bits (R35), the side-band alert following its level (R405). -/
def clearRaw (page : Nat) (v : Word) (s : State) : State :=
  let was := s.alertLevel
  let s := s.setReg (EV_RAW page) (s.reg (EV_RAW page) &&& ~~~v)
  if was && !s.alertLevel then s.emit (.sidebandAlert false) else s

/-- EV_CLEAR clears raw bits; a source that hardware sets in the same cycle reads 1 afterwards (R36). -/
def execEvClear (m : Master) (page : Nat) (v hw : Word) (s : State) : Answer :=
  .next ((s.write m page 0x30 32 v noCond fun _ => clearRaw page v).1.raiseMask page hw)

/-- The level destinations take up a page's pending events when they become its route (R38). -/
def relevel (page : Nat) (s : State) : State :=
  if s.evPending page = 0 then s
  else match (s.route page).1 with
    | 2 => s.startWosc
    | 3 => s.alert page
    | _ => s

/-- A new route: its destination takes up the page's pending events, and the side-band alert ends when no page holds it any more (R38). -/
def routeEffect (page : Nat) (v : Word) (d : RegDef) (s : State) : State :=
  let t := relevel page (s.store (EV_ROUTE page) v d)
  if s.alertLevel && !t.alertLevel then t.emit (.sidebandAlert false) else t

/-- EV_ROUTE takes a value that R38 does not call invalid. -/
def execEvRouteWrite (m : Master) (page : Nat) (v : Word) (s : State) : Answer :=
  .next (s.write m page 0x34 32 v noCond (routeEffect page v)).1

/-- A PG_OWNER value that R35 ignores as a whole. -/
def badOwner (v : Word) : Bool :=
  (bit v 3 && decide (bits v 29 24 < bits v 21 16)) || (bit v 1 && decide (bits v 11 8 = 0))

/-- The condition of R35 on a write of PG_OWNER: reported as a reserved-bit write, no field taken. -/
def ownerCond (m : Master) (page : Nat) (v : Word) (s : State) : Option State :=
  if badOwner v then some (s.accessFail page 1 0x02 m 0x10 v) else none

/-- PG_OWNER is written by the warden alone (R35). -/
def execPgOwnerWrite (m : Master) (page : Nat) (v : Word) (s : State) : Answer :=
  .next (s.write m page 0x10 32 v (ownerCond m page v) fun d s => s.store (PG_OWNER page) v d).1

/-- The offset of a counter slot (R40). -/
def slotOff (slot : Nat) : Nat := 0xF08 + 4 * slot

/-- A write of a counter slot (R12, R41, R459): 0 clears it and its SAT bit, a low word clears its high word with it, the
high word ignores writes, every other value is ignored; EVT's ACCT_MS clears UNAV_MS with it. -/
def clearCounter (page slot : Nat) (v : Word) (s : State) : State :=
  let joined := match kindOf page with
    | some (k, _) => joinedSlots k
    | none => []
  let clear := fun (s : State) (j : Nat) =>
    let key := page * 0x1000 + slotOff j
    let sat := page * 0x1000 + 0xF00 + 4 * (j / 32)
    let s := s.setReg key 0
    let s := if joined.contains j then s.setReg (key + 4) 0 else s
    s.setReg sat (setBit (s.reg sat) (j % 32) false)
  if v ≠ 0 ∨ joined.contains (slot - 1) ∧ slot ≠ 0 then s
  else if page = 0x005 ∧ slot = 2 then clear (clear s 2) 4
  else clear s slot

/-- COUNTER_CLEAR (R12). -/
def execCounterClear (m : Master) (page slot : Nat) (v : Word) (s : State) : Answer :=
  .next (s.write m page (slotOff slot) 32 v noCond fun _ => clearCounter page slot v).1

/-- Latching a high word for a master (R41). -/
def State.latch (s : State) (page off : Nat) (m : Master) (v : Word) : State :=
  { s with pages := { s.pages with
      latches := ⟨page, off, m, v⟩ :: s.pages.latches.filter fun l => !(l.page == page && l.off == off && l.master == m) } }

/-- Whether the fast clocks run: the main side is started and in neither Lull nor Calm (R42, R424). -/
def State.fastClocks (s : State) : Bool := s.pageOn 0x090

/-- A read that the common rules refuse (R33); a read that they let through is no such command. -/
def execRefusedRead (m : Master) (page off width : Nat) (s : State) : Answer :=
  let s := s.arrive m
  match s.checkAccess m page off width true 0 with
  | .stop s r => .next (s.reply m r)
  | .pass _ => .next s

end Sys2Proof.Machine
end

