-- ==== Sys2Proof/Machine/Flags.lean ====
section
/-!
DEFINITION. Every flag computation of the cell core (R140, R160 to R164): FLAGS is Z in bit 0, N, C, V, S and M in bit 5.
-/

namespace Sys2Proof.Machine

/-- FLAGS with Z, N, C and V replaced; S and M keep their values. -/
def setZNCV (f : BitVec 6) (z n c v : Bool) : BitVec 6 :=
  (f &&& 0x30) ||| BitVec.ofNat 6 (z.toNat + 2 * n.toNat + 4 * c.toNat + 8 * v.toNat)

/-- FLAGS with Z and N from a result, C and V cleared. -/
def setZN00 (f : BitVec 6) (r : Word) : BitVec 6 := setZNCV f (r == 0) r.msb false false

/-- FLAGS with Z and N from a result and V as given; C unchanged (R164). -/
def setZNV (f : BitVec 6) (r : Word) (v : Bool) : BitVec 6 := setZNCV f (r == 0) r.msb (f.getLsbD 2) v

/-- FLAGS with Z alone replaced (BEQL, R163). -/
def setZ (f : BitVec 6) (z : Bool) : BitVec 6 := (f &&& 0x3E) ||| BitVec.ofNat 6 z.toNat

/-- FLAGS with S and V set (R143, R162, R164). -/
def setSV (f : BitVec 6) : BitVec 6 := f ||| 0x18

/-- FLAGS after a comparison of BYTES or PTR: Z and M by equality, N, C and V cleared (R162). -/
def setEq (f : BitVec 6) (e : Bool) : BitVec 6 :=
  (f &&& 0x10) ||| BitVec.ofNat 6 (e.toNat + 32 * e.toNat)

/-- Whether a signed sum leaves the 32-bit range. -/
def addOverflow (a b : Word) : Bool := a.msb == b.msb && (a + b).msb != a.msb

/-- Whether a signed difference leaves the 32-bit range. -/
def subOverflow (a b : Word) : Bool := a.msb != b.msb && (a - b).msb != a.msb

/-- FLAGS of an addition: Z N C V, C the carry out (R162). -/
def addFlags (f : BitVec 6) (a b : Word) : BitVec 6 :=
  setZNCV f (a + b == 0) (a + b).msb (decide (2 ^ 32 ≤ a.toNat + b.toNat)) (addOverflow a b)

/-- FLAGS of a subtraction: C is the borrow (R162). -/
def subFlags (f : BitVec 6) (a b : Word) : BitVec 6 :=
  setZNCV f (a - b == 0) (a - b).msb (decide (a.toNat < b.toNat)) (subOverflow a b)

/-- FLAGS of a comparison of TIME words: Z and N of the wrapped difference, C and V cleared (R162). -/
def timeFlags (f : BitVec 6) (a b : Word) : BitVec 6 := setZN00 f (a - b)

/-- FLAGS of a shift: Z N from the result, C the last bit shifted out, V cleared (R162). -/
def shiftFlags (f : BitVec 6) (r : Word) (c : Bool) : BitVec 6 := setZNCV f (r == 0) r.msb c false

/-- A left shift and its last bit shifted out, for a count of any size (R162). -/
def shlOp (a : Word) (n : Nat) : Word × Bool :=
  (if n < 32 then a <<< n else 0, decide (1 ≤ n ∧ n ≤ 32) && a.getLsbD (32 - n))

/-- A logical right shift and its last bit shifted out (R162). -/
def shrOp (a : Word) (n : Nat) : Word × Bool :=
  (if n < 32 then a >>> n else 0, decide (1 ≤ n) && a.getLsbD (n - 1))

/-- An arithmetic right shift and its last bit shifted out: beyond bit 31 the sign leaves (R162). -/
def sarOp (a : Word) (n : Nat) : Word × Bool :=
  (a.sshiftRight (min n 32), decide (1 ≤ n) && a.getLsbD (min (n - 1) 31))

/-- The condition of BR and SETC on FLAGS (R161). -/
def condHolds (f : BitVec 6) (c : Nat) : Bool :=
  let z := f.getLsbD 0
  let n := f.getLsbD 1
  let cy := f.getLsbD 2
  let v := f.getLsbD 3
  match c with
  | 0 => true
  | 1 => z
  | 2 => !z
  | 3 => n != v
  | 4 => n == v
  | 5 => z || n != v
  | 6 => !z && n == v
  | 7 => cy
  | 8 => !cy
  | 9 => cy || z
  | 10 => !cy && !z
  | 11 => f.getLsbD 5
  | 12 => !f.getLsbD 5
  | 13 => v
  | _ => f.getLsbD 4

end Sys2Proof.Machine
end

