-- ==== Sys2Proof/Machine/Operands.lean ====
section
/-!
DEFINITION. The operand forms of the cell core: instruction words (R154, R155), EXT prefixes and immediates (R156, R157),
unassigned and reserved encodings (R179), tags and the operands they accept (R134, R159).
-/

namespace Sys2Proof.Machine

/-- An instruction word. -/
abbrev IWord := BitVec 14

/-! ## Encodings (R154, R160 to R173) -/

/-- A word of major `m` with bits [9:0]. -/
def majorWord (m : BitVec 4) (rest : BitVec 10) : IWord := m ++ rest

/-- ALU-A, ALU-B, ALU-C, MOVE, ALUI, FLD, SPEC, PORT: [9:8] op, [7:4] first field, [3:0] second field. -/
def opWord (m : BitVec 4) (op : BitVec 2) (a b : BitVec 4) : IWord := m ++ op ++ a ++ b

/-- SYS: [9:4] sub-op, [3:0] register or code. -/
def sysWord (sub : BitVec 6) (r : BitVec 4) : IWord := (0 : BitVec 4) ++ sub ++ r

/-- An EXT prefix word. -/
def extWord (p : BitVec 10) : IWord := majorWord 0xF p

/-- A Bool as one bit. -/
def bitOf (b : Bool) : BitVec 1 := BitVec.ofBool b

/-- The major opcode of a word. -/
def major (w : IWord) : Nat := w.toNat / 1024

/-- The sub-op of a SYS word. -/
def sysSub (w : IWord) : Nat := w.toNat / 16 % 64

/-- Whether a word raises UNDEF in every mode (R179). -/
def undefWord (w : IWord) : Bool :=
  let n := w.toNat
  match major w with
  | 0 =>
    let sub := sysSub w
    sub == 0 || (decide (0x1B ≤ sub ∧ sub ≤ 0x1F)) || sub == 0x2F || decide (0x30 ≤ sub ∧ sub ≤ 0x3B)
  | 0xA => decide (n / 128 % 4 = 3)
  | 0xB =>
    match n / 256 % 4 with
    | 0 => decide (n % 16 = 15)
    | 1 => decide (n / 16 % 16 = 0 ∨ n / 16 % 16 = 15)
    | _ => false
  | 0xC => decide (n / 64 % 16 = 15)
  | _ => false

/-- Whether a word raises RSVD by itself: NOP, END, RET, RETT or IDLE with bits [3:0] nonzero (R179). -/
def rsvdWord (w : IWord) : Bool :=
  decide (major w = 0 ∧ w.toNat % 16 ≠ 0) && [0x01, 0x02, 0x04, 0x05, 0x18].contains (sysSub w)

/-- Whether a word is a REP or REPI prefix (R173). -/
def isPrefix (w : IWord) : Bool :=
  decide (major w = 0) && (sysSub w == 0x0C || decide (0x3C ≤ sysSub w))

/-- The width of a word's own immediate field, and whether it is sign-extended; none for a word without one (R157). -/
def immForm (w : IWord) : Option (Nat × Bool) :=
  match major w with
  | 0x5 => some (4, decide (w.toNat / 256 % 2 = 0))
  | 0x6 => some (4, true)
  | 0x7 => some (5, false)
  | 0xC => some (6, true)
  | 0xD => some (9, false)
  | _ => none

/-- A word that a repeat prefix may not repeat (R175): it writes RC, STAT or PC, or is itself a prefix. -/
def noRepeatWord (w : IWord) : Bool :=
  match major w with
  | 0 => [0x02, 0x03, 0x04, 0x05, 0x0A, 0x0B, 0x18].contains (sysSub w) || isPrefix w
  | 0xB => decide (w.toNat / 256 % 4 = 1 ∧ (w.toNat / 16 % 16 = 3 ∨ w.toNat / 16 % 16 = 14))
  | 0xC => true
  | 0xD => true
  | _ => false

/-- The concatenation of EXT payloads, the first most significant. -/
def extValue (ext : List (BitVec 10)) : Nat := ext.foldl (fun a p => a * 1024 + p.toNat) 0

/-- The immediate that EXT payloads and a word's own field form, as a chain of bits (R156). -/
def chain (ext : List (BitVec 10)) (width : Nat) (own : Nat) : Nat := extValue ext * 2 ^ width + own

/-- Whether the chain bits above bit 31 break R157: they must be 0, or copies of bit 31 when sign-extended. For a jump the
bits above bit 13 must be 0. -/
def chainBad (w : IWord) (ext : List (BitVec 10)) : Bool :=
  match immForm w with
  | none => !ext.isEmpty
  | some (width, signed) =>
    let total := width + 10 * ext.length
    let v := chain ext width (w.toNat % 2 ^ width)
    if decide (3 < ext.length) then true
    else if major w = 0xD then decide (2 ^ 14 ≤ v)
    else if total ≤ 32 then false
    else
      let top := v / 2 ^ 32
      let ones := 2 ^ (total - 32) - 1
      if signed then
        if v / 2 ^ 31 % 2 = 1 then decide (top ≠ ones) else decide (top ≠ 0)
      else decide (top ≠ 0)

/-- The immediate as 32 bits (R157). -/
def immValue (w : IWord) (ext : List (BitVec 10)) : Word :=
  match immForm w with
  | none => 0
  | some (width, signed) =>
    let total := width + 10 * ext.length
    let v := chain ext width (w.toNat % 2 ^ width)
    if signed ∧ total < 32 ∧ v / 2 ^ (total - 1) % 2 = 1 then BitVec.ofNat 32 (v + 2 ^ 32 - 2 ^ total)
    else BitVec.ofNat 32 v

/-! ## Tags (R133, R134) -/

abbrev tVoid : BitVec 4 := 0
abbrev tInt : BitVec 4 := 1
abbrev tUns : BitVec 4 := 2
abbrev tFix : BitVec 4 := 3
abbrev tBytes : BitVec 4 := 4
abbrev tBool : BitVec 4 := 5
abbrev tPtr : BitVec 4 := 6
abbrev tHandle : BitVec 4 := 7
abbrev tTime : BitVec 4 := 8
abbrev tKeyref : BitVec 4 := 9
abbrev tRetadr : BitVec 4 := 10
abbrev tPoison : BitVec 4 := 15

/-- The tag the two-bit field of LI names (R154). -/
def liTag (b : BitVec 2) : BitVec 4 :=
  match b.toNat with
  | 0 => tInt | 1 => tUns | 2 => tFix | _ => tBytes

/-- The tag the two-bit field of FLD names (R154). -/
def fldTag (b : BitVec 2) : BitVec 4 :=
  match b.toNat with
  | 0 => tUns | 1 => tInt | 2 => tFix | _ => tBytes

/-- INT, UNS or FIX. -/
def isNum (t : BitVec 4) : Bool := t == tInt || t == tUns || t == tFix

/-- INT or UNS. -/
def isIdx (t : BitVec 4) : Bool := t == tInt || t == tUns

/-- INT, UNS, FIX, BYTES or BOOL: the operands of the logical instructions. -/
def isLogic (t : BitVec 4) : Bool := isNum t || t == tBytes || t == tBool

/-- The words a stream or fabric store may let out (R134, R168): INT, UNS, FIX, BYTES, BOOL or TIME. -/
def isOut (t : BitVec 4) : Bool := isLogic t || t == tTime

/-- The BASE and LIMIT of a PTR word (R136). -/
def ptrBase (v : Word) : Nat := bits v 15 0
def ptrLimit (v : Word) : Nat := bits v 31 16

/-- The KIND, UNIT and GEN of a HANDLE word (R136). -/
def hKind (v : Word) : Nat := bits v 31 28
def hUnit (v : Word) : Nat := bits v 27 24
def hGen (v : Word) : Nat := bits v 23 16

/-- A HANDLE word. -/
def mkHandle (kind unit gen : Nat) : TWord :=
  ⟨tHandle, BitVec.ofNat 32 (kind * 2 ^ 28 + unit * 2 ^ 24 + gen * 2 ^ 16)⟩

/-- A value as the signed or unsigned integer its tag says. -/
def intOf (w : TWord) : Int := if w.tag = tUns then w.val.toNat else w.val.toInt

end Sys2Proof.Machine
end

