-- ==== Sys2Proof/Machine/CellCore.lean ====
section
/-!
DEFINITION. The cell core (06, R156, R158, R174): protected memories, traps, the multiplier, the cycle budget, and the issue
of one instruction.
-/

namespace Sys2Proof.Machine

/-- The register page of a cell (R25). -/
def celPage (c : CellId) : Nat := 0x40 + c.val

/-- The bits of STAT (R140). -/
def pmode (c : Cell) : Bool := c.sp.stat.getLsbD 0
def ieBit (c : Cell) : Bool := c.sp.stat.getLsbD 1
def trapBit (c : Cell) : Bool := c.sp.stat.getLsbD 2
def ract (c : Cell) : Bool := c.sp.stat.getLsbD 3

/-- STAT from its bits. -/
def mkStat (p i t r : Bool) : BitVec 4 := BitVec.ofNat 4 (p.toNat + 2 * i.toNat + 4 * t.toNat + 8 * r.toNat)

/-- Changing the special registers of a cell. -/
def Cell.modSp (c : Cell) (f : Special → Special) : Cell := { c with sp := f c.sp }

/-- Changing the run state of a cell. -/
def Cell.modRun (c : Cell) (f : CoreRun → CoreRun) : Cell := { c with run := f c.run }

/-- A general register. -/
def Cell.reg (c : Cell) (r : Reg) : TWord := c.w.getD r.toNat .void

/-- Writing a general register. -/
def Cell.setW (c : Cell) (r : Reg) (v : TWord) : Cell := { c with w := c.w.set r.toNat v }

/-- Writing a general register of a cell of the state. -/
def State.setW (s : State) (c : CellId) (r : Reg) (v : TWord) : State := s.modCell c fun k => k.setW r v

/-- A data-memory word as stored. -/
def Cell.dmRaw (c : Cell) (a : Nat) : TWord := c.dm.get (fun _ => .void) a

/-- A data word as 36 bits. -/
def twordNat (w : TWord) : Nat := w.tag.toNat * 2 ^ 32 + w.val.toNat

/-- A data word from 36 bits. -/
def twordOf (n : Nat) : TWord := ⟨BitVec.ofNat 4 (n / 2 ^ 32), BitVec.ofNat 32 n⟩

/-- Reading a data-memory word (R356, R359): none when it is uncorrectable; a correction counts in DM_CORR (R153). -/
def State.decodeDm (s : State) (c : CellId) (a : Nat) : Option TWord × State :=
  let p := celPage c
  match s.readProt p 0 a 6 6 with
  | (none, s) => (none, s)
  | (some e, s') =>
    let w := (s'.cell c).dmRaw a
    let u := s.upsets.get (fun _ => 0) (upKey p 0 a)
    let s' := if u ≠ 0 ∧ (gridDecode 6 6 u).2 = true then s'.count p 7 1 else s'
    (some (if e = 0 then w else twordOf (twordNat w ^^^ e)), s')

/-- A data-memory word as the core reads it: POISON with value 0 when it is uncorrectable (R129). -/
def State.readDm (s : State) (c : CellId) (a : Nat) : TWord × State :=
  let r := s.decodeDm c a
  (r.1.getD ⟨tPoison, 0⟩, r.2)

/-- Writing a data-memory word whole, with fresh check bits (R358). -/
def State.writeDm (s : State) (c : CellId) (a : Nat) (w : TWord) : State :=
  (s.modCell c fun k => { k with dm := k.dm.set (fun _ => TWord.void) a w }).freshProt (celPage c) 0 a

/-- Fetching an instruction word (R129, R356): none when its block of four is uncorrectable. -/
def State.fetchI (s : State) (c : CellId) (a : Nat) : Option IWord × State :=
  let a := a % 16384
  match s.readProt (celPage c) 1 (a / 4) 7 8 with
  | (none, s) => (none, s)
  | (some e, s) => (some ((s.cell c).im.get (fun _ => 0) a ^^^ BitVec.ofNat 14 (e / 2 ^ (14 * (a % 4)))), s)

/-! ## Loads that are given up (R151, R171) -/

/-- A load whose core no longer waits for it: its answer, wherever it stands, is given to no later load. -/
def State.dropLoad (s : State) (c : CellId) : State :=
  let keep := fun (p : CPort) => if p.id = c.val then
    { p with joined := p.joined.filter fun a => a.write.isSome, stopped := p.stopped.filter fun a => a.write.isSome } else p
  { s with
    dram := { s.dram with
      served := s.dram.served.filter fun r => r.id != c.val
      slices := s.dram.slices.map fun x => { x with ports := x.ports.map keep } }
    squall := { s.squall with delayed := s.squall.delayed.filter fun x => match x.2.2 with
      | .served r => r.id != c.val
      | _ => true } }

/-! ## The multiplier (R142, R143) -/

/-- Writing a pending product to MPL and MPH. -/
def Cell.land (c : Cell) : Cell :=
  match c.mul with
  | none => c
  | some p =>
    { c with
      mul := none
      sp := { c.sp with mpl := p.lo, mph := p.hi, flags := if p.sat then setSV c.sp.flags else c.sp.flags } }

/-- `n` slots pass: a product whose third slot begins is written. -/
def Cell.slots (c : Cell) (n : Nat) : Cell :=
  match c.mul with
  | none => c
  | some p => if p.left ≤ n then c.land else { c with mul := some { p with left := p.left - n } }

/-! ## Traps (R146 to R149) -/

/-- TRAPCAUSE as a trap entry writes it (R148). -/
def causeWord (c : Cell) (cause detail tagseen opnd : Nat) : Word :=
  BitVec.ofNat 32 (detail % 65536 * 65536 + tagseen * 4096 + opnd * 256 + (ieBit c).toNat * 64 + (ract c).toNat * 32 +
    (pmode c).toNat * 16 + cause)

/-- A double trap (R149): the first trap's record is kept and the core stops, held. -/
def State.doubleTrap (s : State) (c : CellId) : State :=
  let s := s.modCell c fun k => (k.land.modRun fun r =>
    { r with held := true, holdReq := true, dbl := true, stall := .none, latched := false, iterated := false, exts := [] })
  ((s.setReg (CEL_CTRL c.val) 1).count (celPage c) 9 1).raise (celPage c) 4

/-- Trap entry (R146): TRAPPC and TRAPCAUSE are written, TRAP is set, PMODE, IE and RACT are cleared, the PC becomes
4 × cause; CEL_LASTTRAP and CEL_LASTPC take the record, and the page's counters and events follow (R153). With TRAP already
set it is a double trap. -/
def State.trap (s : State) (c : CellId) (cause detail tagseen opnd : Nat) (pc : BitVec 14) : State :=
  let k := s.cell c
  if trapBit k then s.doubleTrap c
  else
    let cw := causeWord k cause detail tagseen opnd
    let p := celPage c
    let was := pmode k
    let s := s.modCell c fun k =>
      let k := k.land
      { k with
        pc := BitVec.ofNat 14 (4 * cause)
        sp := { k.sp with trapPc := pc, trapCause := cw, stat := mkStat false false true false }
        run := { k.run with stall := .none, latched := false, iterated := false, exts := [], idle := false } }
    let s := (s.setReg (CEL_LASTTRAP c.val) cw).setReg (CEL_LASTPC c.val) (pc.setWidth 32)
    let s := s.count p 4 1
    let s := if cause = 4 then s.count p 8 1 else s
    if cause = 13 then s.raise p 5
    else if cause = 10 then s.raise p 6
    else if was then s.raise p 7 else s

/-! ## Issue of an instruction (R147, R156, R158, R174) -/

/-- What an instruction does once issued: a new state with its issue cycles and, for a transfer, the new PC; a trap with
DETAIL, TAGSEEN and OPND, its TRAPPC at the instruction or, for END and SWI, at the word after it, and the cycles it had waited; a trap
after an access that left a record, a page's or that of a fetch, with its cause, DETAIL and TAGSEEN (R131); or a stall. -/
inductive Body where
  | ok (s : State) (cycles : Nat) (pc : Option (BitVec 14))
  | trap (cause detail tagseen opnd : Nat) (after : Bool) (waited : Nat)
  | refused (s : State) (cause detail tagseen : Nat)
  | stall (k : Stall) (s : State)

/-- Done in one cycle, with sequential issue. -/
def Body.done (s : State) : Body := .ok s 1 none

/-- A trap at the instruction without details. -/
def Body.fault (cause : Nat) (detail : Nat := 0) (tagseen : Nat := 0) (opnd : Nat := 0) (waited : Nat := 0) : Body :=
  .trap cause detail tagseen opnd false waited

/-- Whether a core issues: not held, not filling, not waiting in IDLE, its domain powered, and no hold due at this boundary
(R151: a hold waits for the end of a REP and for the present iteration of a REPI). -/
def State.issues (s : State) (c : CellId) (inRep : Bool) : Bool :=
  let r := (s.cell c).run
  !r.held && !r.scrubbing && !r.idle && s.pageOn (celPage c) && (!r.holdReq || inRep)

/-- The fetched words from an address, and the state after the fetches; none at the first uncorrectable block. -/
def State.fetchN (s : State) (c : CellId) (a : Nat) : Nat → Option (List IWord) × State
  | 0 => (some [], s)
  | n + 1 =>
    match s.fetchI c a with
    | (none, s) => (none, s)
    | (some w, s) =>
      match s.fetchN c (a + 1) n with
      | (none, s) => (none, s)
      | (some ws, s) => (some (w :: ws), s)

/-- Whether the words of an instruction meet words 0 to 63. -/
def lowFetch (a n : Nat) : Bool := (List.range n).any fun k => decide ((a + k) % 16384 < 64)

/-- The words of the instruction that issues: inside a repeat the EXT words are those fetched for its first iteration (R174). -/
def State.fetchSlot (s : State) (c : CellId) (a n : Nat) : Option (List IWord) × State :=
  let r := (s.cell c).run
  if r.latched && r.iterated then
    match s.fetchI c (a + r.exts.length) with
    | (none, s) => (none, s)
    | (some w, s) => (some (r.exts.map extWord ++ [w]), s)
  else s.fetchN c a n

/-- The words after a repeat prefix, up to the first that is no EXT, at most `n`; or the cause for which one cannot be fetched: PRIV on words 0
to 63 in program mode, or POISON (R126, R129, R147). -/
def State.pairWords (s : State) (c : CellId) (a : Nat) : Nat → Except (Nat × State) (List IWord)
  | 0 => .ok []
  | n + 1 =>
    if pmode (s.cell c) && lowFetch a 1 then .error (11, s)
    else match s.fetchI c a with
      | (none, s) => .error (4, s)
      | (some w, s) =>
        if major w = 0xF then (s.pairWords c (a + 1) n).map (w :: ·) else .ok [w]

/-- The conditions of a repeated instruction that its prefix reports before any iteration runs, from its words, EXT words first (R174, R175,
R179): cause and DETAIL. -/
def pairFault (ws : List IWord) : Option (Nat × Nat) :=
  let w := ws.getLastD 0
  if major w = 0xF then some (2, (ws.headD w).toNat)
  else if undefWord w then some (1, w.toNat)
  else if rsvdWord w || chainBad w (ws.dropLast.map fun e => e.setWidth 10) then some (2, (ws.headD w).toNat)
  else if noRepeatWord w then some (8, 0)
  else none

/-- CYCBUD after an instruction of `n` cycles in program mode; none when the budget ends first (R145, log 20). -/
def spend (c : Cell) (n : Nat) : Option Word :=
  if pmode c then
    if c.sp.cycBud.toNat < n then none else some (c.sp.cycBud - BitVec.ofNat 32 n)
  else some c.sp.cycBud

/-- In program mode the cycles of an instruction that traps count too, those it had waited among them; when the budget ends first, BUDGET is
taken in its place (R145). -/
def State.charged (s : State) (c : CellId) (n : Nat) (f : State → State) : State :=
  let k := s.cell c
  if pmode k then
    match spend k n with
    | none => (s.modCell c fun k => k.modSp fun p => { p with cycBud := 0 }).trap c 10 0 0 0 k.pc
    | some b => f (s.modCell c fun k => k.modSp fun p => { p with cycBud := b })
  else f s

/-- Whether a core stands inside a REP: its prefix is at the PC and has issued, or a return from trap or a hold left RACT set (R147, R148). -/
def Cell.inRep (k : Cell) : Bool :=
  let w := k.im.get (fun _ => (0 : IWord)) k.pc.toNat
  (k.run.latched || ract k) && isPrefix w && decide (0x3C ≤ sysSub w)

/-- Whether a core may take the interrupt input at its PC: IE = 1, PMODE = 0 and TRAP = 0; never inside REP, and inside REPI only between
iterations (R146, R147). -/
def Cell.mayInt (k : Cell) : Bool := ieBit k && !pmode k && !trapBit k && !k.inRep && (!k.run.latched || k.run.iterated)

/-- After an issued instruction: the INSTR counter, the PC, and inside a repeat the count (R174). -/
def State.retire (s : State) (c : CellId) (ext : List (BitVec 10)) (pc : Option (BitVec 14)) (wasLatched : Bool) : State :=
  let s := s.modCell c fun k =>
    let seq := k.pc + BitVec.ofNat 14 (ext.length + 1 + wasLatched.toNat)
    if wasLatched then
      let rc := k.sp.rc - 1
      if rc = 0 then
        { k with
          pc := seq
          sp := { k.sp with rc := 0, stat := k.sp.stat &&& 0x7 }
          run := { k.run with latched := false, iterated := false, exts := [], stall := .none } }
      else { k with sp := { k.sp with rc := rc }, run := { k.run with iterated := true, exts := ext, stall := .none } }
    else
      { k with pc := pc.getD seq, run := { k.run with stall := .none } }
  s.count64 (celPage c) 2 1

/-- The issue of one instruction: the words at the PC (after the prefix inside a repeat) are those of the command, or the
command is not the one that issues and nothing changes (log 2). The conditions are met in the order of R147; then the body
acts, in the slots and cycles of R158. A stalled instruction has begun no slot. -/
def State.issue (s : State) (i : Iss) (w : IWord) (body : State → Body) : Answer :=
  let c := i.cell
  let k := s.cell c
  let inRepeat := k.run.latched
  let start := k.pc.toNat + inRepeat.toNat
  let len := i.ext.length + 1
  let slots := if inRepeat && k.run.iterated then 1 else len
  if !s.issues c k.inRep then .next s
  else match s.fetchSlot c start len with
    | (words, s1) =>
      if words ≠ none ∧ words ≠ some (i.ext.map extWord ++ [w]) then .next s
      else if pmode k && (k.sp.cycBud == 0 || s.armed (celPage c) 6) then
        let s := s.disarm (celPage c) 6
        .next ((s.modCell c fun k => k.modSp fun p => { p with cycBud := 0 }).trap c 10 0 0 0 k.pc)
      else if k.mayInt && s.irqLevel c then .next (s.trap c 14 0 0 0 k.pc)
      else if pmode k && lowFetch start len then .next (s.charged c slots fun s => s.trap c 11 0 0 0 k.pc)
      else if words = none then .next (s1.charged c slots fun s => s.trap c 4 1 15 0 k.pc)
      else if undefWord w ∧ i.ext.length ≤ 3 then .next (s1.charged c slots fun s => s.trap c 1 w.toNat 0 0 k.pc)
      else if rsvdWord w ∨ chainBad w i.ext ∨ 3 < i.ext.length then
        .next (s1.charged c slots fun s => s.trap c 2 (match i.ext with
          | [] => w.toNat
          | e :: _ => (extWord e).toNat) 0 0 k.pc)
      else
        let s2 := s1.modCell c fun k =>
          let k := k.slots slots
          if !inRepeat && !isPrefix w then k.modSp fun p => { p with stat := p.stat &&& 0x7 } else k
        match body s2 with
        | .stall st s3 =>
          .next ((if st == .fabric then s3.modCell c fun k => { k with mul := (s1.cell c).mul, sp := (s1.cell c).sp } else s1).modCell c
            fun k => k.modRun fun r => { r with stall := st })
        | .trap cause detail tagseen opnd after waited =>
          .next (s2.charged c (slots + waited) fun s =>
            s.trap c cause detail tagseen opnd (if after then k.pc + BitVec.ofNat 14 len else k.pc))
        | .refused s3 cause detail tagseen => .next (s3.charged c slots fun s => s.trap c cause detail tagseen 0 k.pc)
        | .ok s3 cycles pc =>
          match spend k (cycles + (slots - 1)) with
          | none => .next ((s1.modCell c fun k => k.modSp fun p => { p with cycBud := 0 }).trap c 10 0 0 0 k.pc)
          | some b =>
            let s3 := if pmode k then s3.modCell c fun k => k.modSp fun p => { p with cycBud := b } else s3
            .next (s3.retire c i.ext pc inRepeat)

/-! ## Operand rules (R159) -/

/-- One operand under a tag rule: POISON first, then TAG. -/
def need (a : TWord) (opnd : Nat) (ok : BitVec 4 → Bool) (k : Body) : Body :=
  if a.tag = tPoison then .fault 4 0 15 opnd
  else if ok a.tag then k else .fault 3 0 a.tag.toNat opnd

/-- Two operands: POISON of either before a TAG of either (R147). -/
def need2 (a : TWord) (okA : BitVec 4 → Bool) (b : TWord) (okB : BitVec 4 → Bool) (k : Body) : Body :=
  if a.tag = tPoison then .fault 4 0 15 1
  else if b.tag = tPoison then .fault 4 0 15 2
  else if !okA a.tag then .fault 3 0 a.tag.toNat 1
  else if !okB b.tag then .fault 3 0 b.tag.toNat 2
  else k

/-- Two operands of the same one of the listed tags. -/
def needEq (a b : TWord) (ok : BitVec 4 → Bool) (k : Body) : Body :=
  need2 a ok b (fun t => t == a.tag) k

/-- Writing a result and FLAGS. -/
def State.result (s : State) (c : CellId) (rd : Reg) (v : TWord) (f : BitVec 6) : State :=
  s.modCell c fun k => (k.setW rd v).modSp fun p => { p with flags := f }

/-- Writing FLAGS alone. -/
def State.setFlags (s : State) (c : CellId) (f : BitVec 6) : State :=
  s.modCell c fun k => k.modSp fun p => { p with flags := f }

end Sys2Proof.Machine
end

