-- ==== Sys2Proof/Machine/CellAlu.lean ====
section
/-!
DEFINITION. Arithmetic, logic, conversions and moves of the cell core (R160 to R164, R173, R178), the multiplier (R142,
R143), the special registers (R139) and the repeat prefixes (R174 to R176).
-/

namespace Sys2Proof.Machine

/-! ## Shared forms -/

/-- A two-register instruction in place: both operands under their tag rules, a result and FLAGS (one cycle). -/
def alu2 (c : CellId) (rd rs : Reg) (okA okB : BitVec 4 → BitVec 4 → Bool)
    (f : TWord → TWord → BitVec 6 → TWord × BitVec 6) (s : State) : Body :=
  let k := s.cell c
  let a := k.reg rd
  let b := k.reg rs
  need2 a (fun t => okA t b.tag) b (fun t => okB a.tag t)
    (let r := f a b k.sp.flags
     .done (s.result c rd r.1 r.2))

/-- The same tag in both operands, one of the listed. -/
def sameTag (ok : BitVec 4 → Bool) (a b : BitVec 4) : Bool := ok a && a == b

/-- An instruction on one register in place (one cycle). -/
def alu1 (c : CellId) (r : Reg) (ok : BitVec 4 → Bool) (f : TWord → BitVec 6 → TWord × BitVec 6) (s : State) : Body :=
  let k := s.cell c
  let a := k.reg r
  need a 1 ok
    (let x := f a k.sp.flags
     .done (s.result c r x.1 x.2))

/-- An equal-tag instruction whose result keeps the tag, with Z and N from it, C and V cleared. -/
def logic2 (c : CellId) (rd rs : Reg) (f : Word → Word → Word) (s : State) : Body :=
  alu2 c rd rs (fun t _ => isLogic t) (fun t u => t == u)
    (fun a b fl => (⟨a.tag, f a.val b.val⟩, setZN00 fl (f a.val b.val))) s

/-- A shift: rd INT, UNS or FIX, rs INT or UNS. -/
def shift2 (c : CellId) (rd rs : Reg) (f : Word → Nat → Word × Bool) (s : State) : Body :=
  alu2 c rd rs (fun t _ => isNum t) (fun _ u => isIdx u)
    (fun a b fl =>
      let r := f a.val b.val.toNat
      (⟨a.tag, r.1⟩, shiftFlags fl r.1 r.2)) s

/-! ## ALU-A and ALU-B (R160) -/

/-- ADD: equal INT, UNS or FIX; TIME with INT in either order gives TIME. -/
def execAdd (i : Iss) (rd rs : Reg) (s : State) : Answer :=
  s.issue i (opWord 0x1 0 rd rs) (alu2 i.cell rd rs
    (fun t _ => isNum t || t == tTime)
    (fun t u => if t = tTime then u == tInt else u == t || (t == tInt && u == tTime))
    (fun a b fl => (⟨if a.tag = tTime ∨ b.tag = tTime then tTime else a.tag, a.val + b.val⟩, addFlags fl a.val b.val)))

/-- SUB: equal INT, UNS or FIX; TIME − INT gives TIME, TIME − TIME gives INT. -/
def execSub (i : Iss) (rd rs : Reg) (s : State) : Answer :=
  s.issue i (opWord 0x1 1 rd rs) (alu2 i.cell rd rs
    (fun t _ => isNum t || t == tTime)
    (fun t u => if t = tTime then u == tInt || u == tTime else u == t)
    (fun a b fl => (⟨if a.tag = tTime ∧ b.tag = tTime then tInt else a.tag, a.val - b.val⟩, subFlags fl a.val b.val)))

/-- AND. -/
def execAnd (i : Iss) (rd rs : Reg) (s : State) : Answer :=
  s.issue i (opWord 0x1 2 rd rs) (logic2 i.cell rd rs (· &&& ·))

/-- OR. -/
def execOr (i : Iss) (rd rs : Reg) (s : State) : Answer :=
  s.issue i (opWord 0x1 3 rd rs) (logic2 i.cell rd rs (· ||| ·))

/-- XOR. -/
def execXor (i : Iss) (rd rs : Reg) (s : State) : Answer :=
  s.issue i (opWord 0x2 0 rd rs) (logic2 i.cell rd rs (· ^^^ ·))

/-- SHL. -/
def execShl (i : Iss) (rd rs : Reg) (s : State) : Answer :=
  s.issue i (opWord 0x2 1 rd rs) (shift2 i.cell rd rs shlOp)

/-- SHR. -/
def execShr (i : Iss) (rd rs : Reg) (s : State) : Answer :=
  s.issue i (opWord 0x2 2 rd rs) (shift2 i.cell rd rs shrOp)

/-- SAR. -/
def execSar (i : Iss) (rd rs : Reg) (s : State) : Answer :=
  s.issue i (opWord 0x2 3 rd rs) (shift2 i.cell rd rs sarOp)

/-! ## ALU-C: saturation, the multiplier, comparison -/

/-- A value clamped to the range of a tag, and whether it was outside it (R162). -/
def clampTo (t : BitVec 4) (v : Int) : Word × Bool :=
  let lo : Int := if t = tUns then 0 else -2147483648
  let hi : Int := if t = tUns then 4294967295 else 2147483647
  if v < lo then (BitVec.ofInt 32 lo, true)
  else if hi < v then (BitVec.ofInt 32 hi, true)
  else (BitVec.ofInt 32 v, false)

/-- FLAGS of a saturating operation: Z and N of the result as written; on saturation S and V are set and C, which the
specification then describes by the result alone, is a free value `free` (log 21); otherwise C and V are those of the plain
operation. -/
def satFlags (f plain : BitVec 6) (r : Word) (sat free : Bool) : BitVec 6 :=
  if sat then setSV (setZNCV f (r == 0) r.msb free true)
  else setZNCV f (r == 0) r.msb (plain.getLsbD 2) (plain.getLsbD 3)

/-- A saturating sum or difference (R162). -/
def satBody (c : CellId) (rd rs : Reg) (op : Int → Int → Int) (plain : BitVec 6 → Word → Word → BitVec 6)
    (s : State) : Body :=
  let k := s.cell c
  let a := k.reg rd
  let b := k.reg rs
  needEq a b isNum
    (let r := clampTo a.tag (op (intOf a) (intOf b))
     let fr := s.free
     let s' := if r.2 then fr.2 else s
     .done (s'.result c rd ⟨a.tag, r.1⟩ (satFlags k.sp.flags (plain k.sp.flags a.val b.val) r.1 r.2 (fr.1.getLsbD 0))))

/-- ADDS. -/
def execAdds (i : Iss) (rd rs : Reg) (s : State) : Answer :=
  s.issue i (opWord 0x3 0 rd rs) (satBody i.cell rd rs (· + ·) addFlags)

/-- SUBS. -/
def execSubs (i : Iss) (rd rs : Reg) (s : State) : Answer :=
  s.issue i (opWord 0x3 1 rd rs) (satBody i.cell rd rs (· - ·) subFlags)

/-- The product of two equal-tag words as MPL and MPH take it (R143). -/
def productOf (a b : TWord) : Product :=
  let p : BitVec 64 := BitVec.ofInt 64 (intOf a * intOf b)
  let lo : TWord := .uns (p.setWidth 32)
  let hi : Word := (p >>> 32).setWidth 32
  if a.tag = tFix then
    let top := (p.sshiftRight 47).toInt
    if top = 0 ∨ top = -1 then { left := 3, lo := lo, hi := ⟨tFix, (p >>> 16).setWidth 32⟩, sat := false }
    else { left := 3, lo := lo, hi := ⟨tFix, if p.msb then 0x80000000 else 0x7FFFFFFF⟩, sat := true }
  else { left := 3, lo := lo, hi := ⟨a.tag, hi⟩, sat := false }

/-- MUL starts a product, which replaces a pending one; it lands three slots later (R142, R178). -/
def execMul (i : Iss) (rd rs : Reg) (s : State) : Answer :=
  s.issue i (opWord 0x3 2 rd rs) fun s =>
    let k := s.cell i.cell
    let a := k.reg rd
    let b := k.reg rs
    needEq a b isNum (.done (s.modCell i.cell fun k => { k with mul := some (productOf a b) }))

/-- FLAGS of a comparison by tag (R162). -/
def cmpFlags (f : BitVec 6) (t : BitVec 4) (a b : Word) : BitVec 6 :=
  if t = tBytes ∨ t = tPtr then setEq f (a == b)
  else if t = tTime then timeFlags f a b
  else subFlags f a b

/-- CMP. -/
def execCmp (i : Iss) (rd rs : Reg) (s : State) : Answer :=
  s.issue i (opWord 0x3 3 rd rs) fun s =>
    let k := s.cell i.cell
    let a := k.reg rd
    let b := k.reg rs
    needEq a b (fun t => isNum t || t == tBytes || t == tPtr || t == tTime)
      (.done (s.setFlags i.cell (cmpFlags k.sp.flags a.tag a.val b.val)))

/-! ## ALUI -/

/-- The immediate of a word under its EXT payloads. -/
def immOf (i : Iss) (w : IWord) : Word := immValue w i.ext

/-- ADDI keeps the tag of rd. -/
def execAddi (i : Iss) (rd : Reg) (im : BitVec 4) (s : State) : Answer :=
  let w := opWord 0x6 0 rd im
  s.issue i w (alu1 i.cell rd (fun t => isNum t || t == tTime)
    (fun a fl => (⟨a.tag, a.val + immOf i w⟩, addFlags fl a.val (immOf i w))))

/-- CMPI: the immediate takes the tag of rd. -/
def execCmpi (i : Iss) (rd : Reg) (im : BitVec 4) (s : State) : Answer :=
  let w := opWord 0x6 1 rd im
  s.issue i w fun s =>
    let k := s.cell i.cell
    let a := k.reg rd
    need a 1 (fun t => isNum t || t == tBytes || t == tTime)
      (.done (s.setFlags i.cell (cmpFlags k.sp.flags a.tag a.val (immOf i w))))

/-- ANDI. -/
def execAndi (i : Iss) (rd : Reg) (im : BitVec 4) (s : State) : Answer :=
  let w := opWord 0x6 2 rd im
  s.issue i w (alu1 i.cell rd (fun t => isNum t || t == tBytes)
    (fun a fl => (⟨a.tag, a.val &&& immOf i w⟩, setZN00 fl (a.val &&& immOf i w))))

/-- ORI. -/
def execOri (i : Iss) (rd : Reg) (im : BitVec 4) (s : State) : Answer :=
  let w := opWord 0x6 3 rd im
  s.issue i w (alu1 i.cell rd (fun t => isNum t || t == tBytes)
    (fun a fl => (⟨a.tag, a.val ||| immOf i w⟩, setZN00 fl (a.val ||| immOf i w))))

/-! ## Immediates and moves (R163) -/

/-- LI. -/
def execLi (i : Iss) (tg : BitVec 2) (rd : Reg) (im : BitVec 4) (s : State) : Answer :=
  let w := opWord 0x5 tg rd im
  s.issue i w fun s => .done (s.setW i.cell rd ⟨liTag tg, immOf i w⟩)

/-- The tags a move may carry: any but POISON, RETADR in firmware mode only (R134). -/
def movable (k : Cell) (t : BitVec 4) : Bool := t != tPoison && (t != tRetadr || !pmode k)

/-- MOV. -/
def execMov (i : Iss) (rd rs : Reg) (s : State) : Answer :=
  s.issue i (opWord 0x4 0 rd rs) fun s =>
    let k := s.cell i.cell
    need (k.reg rs) 1 (movable k) (.done (s.setW i.cell rd (k.reg rs)))

/-- NARROW: a PTR within its source (R137). -/
def execNarrow (i : Iss) (rd rs : Reg) (s : State) : Answer :=
  s.issue i (opWord 0x4 1 rd rs) fun s =>
    let k := s.cell i.cell
    let a := k.reg rd
    let b := k.reg rs
    need2 a (· == tPtr) b isIdx
      (let base := ptrBase a.val + bits b.val 15 0
       let limit := base + bits b.val 31 16
       if ptrLimit a.val < limit then .fault 5 (bits b.val 15 0)
       else .done (s.setW i.cell rd ⟨tPtr, BitVec.ofNat 32 (limit * 65536 + base)⟩))

/-- Byte lane equality: 0xFF where the lanes agree. -/
def laneEq (a b : Word) : Word :=
  let lane := fun k => if bits a (8 * k + 7) (8 * k) = bits b (8 * k + 7) (8 * k) then 255 * 256 ^ k else 0
  BitVec.ofNat 32 (lane 0 + lane 1 + lane 2 + lane 3)

/-- BEQL sets Z when all four lanes are equal. -/
def execBeql (i : Iss) (rd rs : Reg) (s : State) : Answer :=
  s.issue i (opWord 0x4 2 rd rs) (alu2 i.cell rd rs (fun t _ => t == tBytes) (fun _ u => u == tBytes)
    (fun a b fl => (⟨tBytes, laneEq a.val b.val⟩, setZ fl (a.val == b.val))))

/-- Whether RETAG refuses a value for a tag as reserved (R163, R136). -/
def retagRsvd (t : Word) (v : Word) : Bool :=
  let n := bits t 3 0
  decide (16 ≤ t.toNat) || decide (0xB ≤ n) ||
    (n == 6 && (decide (ptrLimit v < ptrBase v) || decide (32768 < ptrLimit v))) ||
    (n == 7 && bits v 15 0 != 0) ||
    (n == 9 && (bits v 31 24 != 0 || bits v 15 6 != 0)) ||
    (n == 10 && bits v 31 14 != 0)

/-- RETAG: RSVD, then PRIV, come before its operands' own conditions (R147). -/
def execRetag (i : Iss) (rd rs : Reg) (s : State) : Answer :=
  let w := opWord 0xB 3 rd rs
  s.issue i w fun s =>
    let k := s.cell i.cell
    let a := k.reg rd
    let b := k.reg rs
    if a.tag ≠ tPoison ∧ b.tag = tUns ∧ retagRsvd b.val a.val = true then .fault 2 w.toNat
    else if pmode k then .fault 11
    else need2 a (fun _ => true) b (· == tUns) (.done (s.setW i.cell rd ⟨b.val.setWidth 4, a.val⟩))

/-! ## Special registers (R139, R140, R150) -/

/-- What a special register reads as; `pc` is the address of the word that reads. -/
def readSpecial (k : Cell) (pc : BitVec 14) (n : Nat) : TWord :=
  match n with
  | 0 => .uns (pc.setWidth 32)
  | 1 => .uns (k.sp.sp.setWidth 32)
  | 2 => .uns (k.sp.splim.setWidth 32)
  | 3 => .uns (k.sp.rc.setWidth 32)
  | 4 => k.sp.mpl
  | 5 => k.sp.mph
  | 6 => .uns (k.sp.flags.setWidth 32)
  | 7 => .uns k.sp.trapCause
  | 8 => .uns (k.sp.trapPc.setWidth 32)
  | 9 => .uns k.sp.cycBud
  | 10 => .uns 0x000000FF
  | 11 => .uns 0x000087FF
  | 12 => .uns 0x00102010
  | 13 => .uns 0
  | 14 => .uns (k.sp.stat.setWidth 32)
  | _ => .uns 0

/-- A special register with a value stored, truncated to its width. -/
def writeSpecial (sp : Special) (n : Nat) (v : TWord) : Special :=
  match n with
  | 1 => { sp with sp := v.val.setWidth 16 }
  | 2 => { sp with splim := v.val.setWidth 16 }
  | 3 => { sp with rc := v.val.setWidth 16 }
  | 4 => { sp with mpl := v }
  | 5 => { sp with mph := v }
  | 6 => { sp with flags := v.val.setWidth 6 }
  | 7 => { sp with trapCause := v.val }
  | 8 => { sp with trapPc := v.val.setWidth 14 }
  | 9 => { sp with cycBud := v.val }
  | 14 => { sp with stat := v.val.setWidth 4 }
  | _ => sp

/-- MOVS: register 0 returns the address of the MOVS word; register 15 raises UNDEF as an encoding (R163, R179). -/
def execMovs (i : Iss) (rd sp : Reg) (s : State) : Answer :=
  s.issue i (opWord 0xB 0 rd sp) fun s =>
    let k := s.cell i.cell
    let pc := k.pc + BitVec.ofNat 14 k.run.latched.toNat
    .done (s.setW i.cell rd (readSpecial k pc sp.toNat))

/-- Whether SETS of a register raises PRIV (R139, R144). -/
def setsPriv (c : CellId) (k : Cell) (n : Nat) (v : TWord) : Bool :=
  decide (10 ≤ n ∧ n ≤ 13) || (pmode k && [2, 7, 8, 9, 14].contains n) ||
    (c.val == 40 && n == 14 && isIdx v.tag && bit v.val 0)

/-- SETS. -/
def execSets (i : Iss) (sp rs : Reg) (s : State) : Answer :=
  s.issue i (opWord 0xB 1 sp rs) fun s =>
    let k := s.cell i.cell
    let a := k.reg rs
    let n := sp.toNat
    if setsPriv i.cell k n a then .fault 11
    else need a 1 (fun t => isIdx t || ((n == 4 || n == 5) && t == tFix))
      (.done (s.modCell i.cell fun k => k.modSp fun p => writeSpecial p n a))

/-! ## Conversions (R164) -/

/-- The five tags that conversions take. -/
def isConv (t : BitVec 4) : Bool := isLogic t

/-- A conversion in place: unchanged where r holds the tag already; Z, N from the result and V as the table gives. -/
def convert (c : CellId) (r : Reg) (t : BitVec 4) (f : TWord → Word × Bool × Bool) (s : State) : Body :=
  alu1 c r isConv
    (fun a fl =>
      if a.tag = t then (a, setZNV fl a.val false)
      else
        let x := f a
        let fl := setZNV fl x.1 x.2.1
        (⟨t, x.1⟩, if x.2.2 then setSV fl else fl)) s

/-- The integer part of a 16.16 value, rounded toward zero. -/
def fixInt (v : Word) : Int := Int.tdiv v.toInt 65536

/-- CVTI: result, V, saturation. -/
def toInt' (a : TWord) : Word × Bool × Bool :=
  if a.tag = tUns then (a.val, a.val.msb, false)
  else if a.tag = tFix then (BitVec.ofInt 32 (fixInt a.val), false, false)
  else (a.val, false, false)

/-- CVTU: result, V, saturation. -/
def toUns' (a : TWord) : Word × Bool × Bool :=
  if a.tag = tInt then (a.val, a.val.msb, false)
  else if a.tag = tFix then (BitVec.ofInt 32 (fixInt a.val), decide (fixInt a.val < 0), false)
  else (a.val, false, false)

/-- CVTF: result, V, saturation. -/
def toFix' (a : TWord) : Word × Bool × Bool :=
  if a.tag = tInt ∨ a.tag = tUns then
    let v := intOf a
    if 32767 < v then (0x7FFFFFFF, true, true)
    else if v < -32768 then (0x80000000, true, true)
    else (BitVec.ofInt 32 (v * 65536), false, false)
  else if a.tag = tBool then (if a.val = 0 then 0 else 0x00010000, false, false)
  else (a.val, false, false)

/-- CVTB: result, V, saturation. -/
def toBytes' (a : TWord) : Word × Bool × Bool := (a.val, false, false)

/-- CVTL: result, V, saturation. -/
def toBool' (a : TWord) : Word × Bool × Bool := (if a.val = 0 then 0 else 1, false, false)

def execCvti (i : Iss) (r : Reg) (s : State) : Answer := s.issue i (sysWord 0x10 r) (convert i.cell r tInt toInt')
def execCvtu (i : Iss) (r : Reg) (s : State) : Answer := s.issue i (sysWord 0x11 r) (convert i.cell r tUns toUns')
def execCvtf (i : Iss) (r : Reg) (s : State) : Answer := s.issue i (sysWord 0x12 r) (convert i.cell r tFix toFix')
def execCvtb (i : Iss) (r : Reg) (s : State) : Answer := s.issue i (sysWord 0x13 r) (convert i.cell r tBytes toBytes')
def execCvtl (i : Iss) (r : Reg) (s : State) : Answer := s.issue i (sysWord 0x14 r) (convert i.cell r tBool toBool')

/-! ## The remaining SYS instructions on registers (R173) -/

/-- NOP. -/
def execNop (i : Iss) (s : State) : Answer := s.issue i (sysWord 0x01 0) .done

/-- CLR gives VOID 0. -/
def execClr (i : Iss) (r : Reg) (s : State) : Answer := s.issue i (sysWord 0x06 r) fun s => .done (s.setW i.cell r .void)

/-- RDTIME: the low 32 bits of device time. -/
def execRdtime (i : Iss) (r : Reg) (s : State) : Answer :=
  s.issue i (sysWord 0x07 r) fun s => .done (s.setW i.cell r ⟨tTime, s.pages.dtime.setWidth 32⟩)

/-- TEST. -/
def execTest (i : Iss) (r : Reg) (s : State) : Answer :=
  s.issue i (sysWord 0x0D r) (alu1 i.cell r isOut (fun a fl => (a, setZN00 fl a.val)))

/-- The complement NOT gives. -/
def notOf (a : TWord) : Word := if a.tag = tBool then 1 - a.val else ~~~a.val

/-- NOT. -/
def execNot (i : Iss) (r : Reg) (s : State) : Answer :=
  s.issue i (sysWord 0x0E r) (alu1 i.cell r isLogic (fun a fl => (⟨a.tag, notOf a⟩, setZN00 fl (notOf a))))

/-- NEG. -/
def execNeg (i : Iss) (r : Reg) (s : State) : Answer :=
  s.issue i (sysWord 0x0F r) (alu1 i.cell r (fun t => t == tInt || t == tFix)
    (fun a fl => (⟨a.tag, 0 - a.val⟩, subFlags fl 0 a.val)))

/-- Leading zero bits, 0 to 32. -/
def clzOf (v : Word) : Nat := 32 - (List.range 32).foldl (fun n k => if bit v k then k + 1 else n) 0

/-- One bits. -/
def popOf (v : Word) : Nat := ((List.range 32).filter (bit v)).length

/-- INT, UNS or BYTES. -/
def isCount (t : BitVec 4) : Bool := isIdx t || t == tBytes

/-- CLZ. -/
def execClz (i : Iss) (r : Reg) (s : State) : Answer :=
  s.issue i (sysWord 0x15 r) (alu1 i.cell r isCount
    (fun a fl => (.uns (BitVec.ofNat 32 (clzOf a.val)), setZN00 fl (BitVec.ofNat 32 (clzOf a.val)))))

/-- POPC. -/
def execPopc (i : Iss) (r : Reg) (s : State) : Answer :=
  s.issue i (sysWord 0x16 r) (alu1 i.cell r isCount
    (fun a fl => (.uns (BitVec.ofNat 32 (popOf a.val)), setZN00 fl (BitVec.ofNat 32 (popOf a.val)))))

/-- The byte lanes in reverse. -/
def bswpOf (v : Word) : Word := wordOf (v.extractLsb' 24 8) (v.extractLsb' 16 8) (v.extractLsb' 8 8) (v.extractLsb' 0 8)

/-- BSWP. -/
def execBswp (i : Iss) (r : Reg) (s : State) : Answer :=
  s.issue i (sysWord 0x17 r) (alu1 i.cell r (· == tBytes) (fun a fl => (⟨tBytes, bswpOf a.val⟩, setZN00 fl (bswpOf a.val))))

/-- TAGOF. -/
def execTagof (i : Iss) (r : Reg) (s : State) : Answer :=
  s.issue i (sysWord 0x19 r) fun s =>
    let a := (s.cell i.cell).reg r
    need a 1 (fun _ => true) (.done (s.setW i.cell r (.uns (a.tag.setWidth 32))))

/-- SETC (R161). -/
def execSetc (i : Iss) (r : Reg) (cond : Fin 15) (s : State) : Answer :=
  s.issue i (sysWord (BitVec.ofNat 6 (0x20 + cond.val)) r) fun s =>
    let b := condHolds (s.cell i.cell).sp.flags cond.val
    .done (s.setW i.cell r ⟨tBool, BitVec.ofNat 32 b.toNat⟩)

/-! ## Repeat prefixes (R174 to R176) -/

/-- A repeat prefix with its count, before `ext` EXT words: no latch when RACT is set, as a return from trap or a hold leaves
it (R148, R151); a count of 0 runs no iteration. -/
def repeatBody (c : CellId) (ext : Nat) (s : State) (count : Nat) : Body :=
  let k := s.cell c
  let rc := if ract k then k.sp.rc else BitVec.ofNat 16 count
  if rc = 0 then
    .ok (s.modCell c fun k => k.modSp fun p => { p with rc := 0, stat := p.stat &&& 0x7 }) 1
      (some (k.pc + BitVec.ofNat 14 (ext + 2)))
  else
    .ok (s.modCell c fun k => { k with
        sp := { k.sp with rc := rc, stat := k.sp.stat ||| 0x8 }
        run := { k.run with latched := true, iterated := false, exts := [] } }) 1 (some k.pc)

/-- The faults of the pair, then the prefix, given the number of EXT words after it. -/
def pairBody (c : CellId) (k : Nat → State → Body) (s : State) : Body :=
  match s.pairWords c ((s.cell c).pc.toNat + 1) 4 with
  | .error (cause, s) => if cause = 4 then .refused s 4 1 15 else .fault cause
  | .ok ws => match pairFault ws with
    | some (cause, detail) => .fault cause detail
    | none => k (ws.length - 1) s

/-- REP n repeats n + 1 times. -/
def execRep (i : Iss) (n : BitVec 6) (s : State) : Answer :=
  s.issue i (majorWord 0 ((0xF : BitVec 4) ++ n)) (pairBody i.cell fun e s => repeatBody i.cell e s (n.toNat + 1))

/-- REPI repeats as the register counts, 0 to 65,535. -/
def execRepi (i : Iss) (r : Reg) (s : State) : Answer :=
  s.issue i (sysWord 0x0C r) (pairBody i.cell fun e s =>
    let a := (s.cell i.cell).reg r
    if ract (s.cell i.cell) then repeatBody i.cell e s 0
    else need a 1 isIdx
      (if 65535 < a.val.toNat then .fault 5 (bits a.val 15 0) else repeatBody i.cell e s a.val.toNat))

/-- An encoding that is not assigned: issue itself raises UNDEF or RSVD (R179). A word that is assigned is no such command:
the instruction of its row issues in its place. -/
def execUnassignedEncoding (i : Iss) (w : BitVec 14) (s : State) : Answer :=
  if undefWord w || rsvdWord w || chainBad w i.ext || decide (3 < i.ext.length) then s.issue i w .done else .next s

end Sys2Proof.Machine
end

