-- ==== Sys2Proof/Machine/Dram.lean ====
section
/-!
DEFINITION. The DRAM controller (15, R332 to R343): line placement, the inline SECDED code, request order, refresh,
temperature bands and re-tuning blackouts.
-/

namespace Sys2Proof.Machine

/-! ## Lines (R332) -/

/-- The number of usable lines: 15 GiB of 128 bytes. -/
abbrev lineCount : Nat := 125829120

/-- The usable bytes of DRAM. -/
abbrev dramBytes : Nat := lineCount * 128

/-- The channel of a line. -/
def lineChan (n : Nat) : Nat := (n % 4) ^^^ (n / 256 % 4) ^^^ (n / 65536 % 4)

/-- The bank and the row of a line: segment S = M div 15. -/
def lineBank (n : Nat) : Nat := (n / 4 / 15 % 16) ^^^ (n / 4 / 15 / 256 % 16)
def lineRow (n : Nat) : Nat := n / 4 / 15 / 16

/-- The bytes of a line, byte k in bits [8k+7:8k]. -/
def lineBytes (l : Line) : List Byte := leBytes 128 l.toNat

/-- A line from bytes. -/
def bytesLine (bs : List Byte) : Line := BitVec.ofNat 1024 (leNat bs)

/-- A line as DRAM holds its data bits. -/
def Dram.raw (d : Dram) (n : Nat) : Line := bytesLine (loadBytes d.mem (128 * n) 128)

/-! ## The inline code (R333) -/

/-- The position of data bit k: the k-th of the positions 1 to 265 that is no power of two. -/
def dataPos (k : Nat) : Nat :=
  if k < 1 then 3 else if k < 4 then k + 4 else if k < 11 then k + 5 else if k < 26 then k + 6
  else if k < 57 then k + 7 else if k < 120 then k + 8 else if k < 247 then k + 9 else k + 10

/-- The position of bit k of a stored word of 266 bits: 256 data bits, then c0 to c8; c9 has none. -/
def codePos (k : Nat) : Nat := if k < 256 then dataPos k else if k < 265 then 2 ^ (k - 256) else 0

/-- Decoding an error pattern of a word (data bits, then c0 to c9): the pattern left on the data, or none when it is
uncorrectable; and whether a correction was made (R333). -/
def secded (e : Nat) : Option Nat × Bool :=
  let s := (List.range 266).foldl (fun a k => if e.testBit k then a ^^^ codePos k else a) 0
  let odd := (List.range 266).foldl (fun a k => a.xor (e.testBit k)) false
  let data := e % 2 ^ 256
  if s = 0 then (some data, odd)
  else if odd = false ∨ 265 < s then (none, false)
  else match (List.range 256).find? (fun k => dataPos k == s) with
    | some k => (some (data ^^^ 2 ^ k), true)
    | none => (some data, true)

/-- The key under which a line's upsets stand: array 7 of its DCH page (R359). Word w of the line takes bits 266w upward. -/
def lineKey (n : Nat) : Nat := upKey (0xE1 + lineChan n) 7 n

/-- Reading a line from DRAM: corrections count in CORR and are logged, an uncorrectable word or POIS delivers the line as
poisoned and reports it (R333, R334, R343, R362). -/
def State.dramRead (s : State) (n : Nat) : (Line × Bool) × State :=
  let page := 0xE1 + lineChan n
  let s := s.count64 page 2 1
  let e := s.upsets.get (fun _ => 0) (lineKey n)
  let raw := s.dram.raw n
  let pois := s.dram.pois.contains n
  if e = 0 then ((raw, pois), s)
  else
    let word := fun w => secded (e / 2 ^ (266 * w) % 2 ^ 266)
    let fixed := ((List.range 4).filter fun w => (word w).2).length
    let bad := (List.range 4).any fun w => (word w).1.isNone
    let left := (List.range 4).foldl (fun a w => a + ((word w).1.getD 0) * 2 ^ (256 * w)) 0
    let s := if fixed = 0 then s else (s.count page 4 fixed).logCorrection page 7 n
    let s := if bad then
        ((s.count page 5 1).raise page 3).blockError page 0x13 (BitVec.ofNat 32 (128 * n))
          (BitVec.ofNat 32 (128 * n / 2 ^ 32))
      else s
    ((raw ^^^ BitVec.ofNat 1024 left, pois || bad), s)

/-- Writing a whole line to DRAM with fresh check bits and POIS as given (R333, R334). -/
def State.dramWrite (s : State) (n : Nat) (l : Line) (pois : Bool) : State :=
  let d := s.dram
  let s := { s with
    dram := { d with
      mem := storeBytes d.mem (128 * n) (lineBytes l)
      pois := if pois then (if d.pois.contains n then d.pois else n :: d.pois) else d.pois.filter (· != n) }
    upsets := s.upsets.set (fun _ => 0) (lineKey n) 0 }
  s.count64 (0xE1 + lineChan n) 2 1

/-- Whether the 64 MiB region of an address has been filled since DRAM lost power (R361). -/
def State.regionFilled (s : State) (a : Nat) : Bool :=
  let g := a / 0x4000000
  s.regBit (DRC_FILL (g / 32)) (g % 32)

/-- An access to bytes of an unfilled region stalls on it: the region is filled next (R361). -/
def State.awaitFill (s : State) (a len : Nat) : State :=
  let l := (List.range ((a + len - 1) / 0x4000000 - a / 0x4000000 + 1)).map fun j => a / 0x4000000 + j
  let l := l.filter fun g => !s.regionFilled (g * 0x4000000) && !s.dram.want.contains g
  { s with dram := { s.dram with want := s.dram.want ++ l } }

/-! ## Lines of the fabric cache in their arrays (R344, R350, R359) -/

/-- The slice and the set of a line (R344). -/
def lineSlice (n : Nat) : Nat := (n % 4) ^^^ (n / 4096 % 4) ^^^ (n / 16777216 % 4)
def lineSet (n : Nat) : Nat := (n / 4 % 1024) ^^^ (n / 4096 % 1024)

/-- The page of a slice. -/
def fchPage (k : Nat) : Nat := 0xE8 + k

/-- Reading the sixteen blocks of a line from an array: the data as decoded, whether some block is uncorrectable, and the state with its
corrections logged; `fix` and `loss` are what a corrected and an uncorrectable block do. -/
def State.readGrid (s : State) (page array base : Nat) (data : Line) (fix loss : State → State) : Line × Bool × State :=
  (List.range 16).foldl (fun (acc : Line × Bool × State) b =>
    let (d, bad, s) := acc
    let p := s.upsets.get (fun _ => 0) (upKey page array (base + b))
    if p = 0 then (d, bad, s)
    else match s.readProt page array (base + b) 8 8 with
      | (some e, s) => (d ^^^ BitVec.ofNat 1024 (e * 2 ^ (64 * b)), bad, if (gridDecode 8 8 p).2 then fix s else s)
      | (none, s) => (d, true, loss s)) (data, false, s)

/-- An uncorrectable block of a dirty line is reported on the page of the line's slice (R354). -/
def State.dirtyLost (s : State) (l : CLine) : State :=
  (s.raise (fchPage (lineSlice l.n)) 6).blockError (fchPage (lineSlice l.n)) 0x15 (BitVec.ofNat 32 (lineSet l.n)) (BitVec.ofNat 32 l.way)

/-- A line of the victim cache or the eviction buffer as it reads: its data, whether an uncorrectable block spoils it, and the state; that of
a dirty line is reported. Its place in the array is its `way`, 0 to 31 and 32 to 39. -/
def State.readLoose (s : State) (l : CLine) : Line × Bool × State :=
  let (d, bad, s) := s.readGrid 0x0EC 6 (l.way * 16) l.data id id
  (d, bad, if bad && l.dirty then s.dirtyLost l else s)

/-- The lowest place of a run that no line of a list holds, taken with fresh check bits. -/
def State.looseSlot (s : State) (lo n : Nat) (l : List CLine) : Nat × State :=
  let k := (((List.range n).map (lo + ·)).find? fun k => !l.any fun x => x.way == k).getD lo
  (k, s.clearProt 0x0EC 6 (k * 16) 16)

/-! ## Serving requests (R335) -/

/-- A channel. -/
def State.dramCh (s : State) (ch : Nat) : DramCh :=
  s.dram.chans.getD ch { queue := [], pend := 0, bank := 0, open_ := [], codes := [] }

/-- Changing a channel; DCH_STAT follows its queue and its postponed refreshes. -/
def State.modDramCh (s : State) (ch : Nat) (f : DramCh → DramCh) : State :=
  let s := { s with dram := { s.dram with chans := at' s.dram.chans ch f } }
  let c := s.dramCh ch
  s.setReg (DCH_STAT ch) (BitVec.ofNat 32 (c.pend * 256 + c.queue.length))

/-- Whether a request is promoted: its age in the queue exceeds AGE_LIM × 100 ns. -/
def State.promoted (s : State) (r : LineReq) : Bool :=
  decide (s.field? DRC_CTRL 7 0 * 100 < (s.pages.dtime - r.since).toNat * 1000)

/-- Whether a request hits an open row. -/
def DramCh.hits (c : DramCh) (r : LineReq) : Bool := c.open_.get (fun _ => 0) (lineBank r.n) == lineRow r.n + 1

/-- The request a channel issues next: promoted ones oldest first; else the lowest class, and within it an open row before
one that needs an activate, then the oldest (R335). -/
def State.nextReq (s : State) (ch : Nat) : Option LineReq :=
  let c := s.dramCh ch
  match c.queue.find? s.promoted with
  | some r => some r
  | none =>
    let low := c.queue.foldl (fun m r => min m r.cls) 4
    let cls := c.queue.filter (·.cls == low)
    match cls.find? c.hits with
    | some r => some r
    | none => cls.head?

/-- Putting a request into its channel's queue; a full queue takes none. -/
def State.enqueue (s : State) (r : LineReq) : Option State :=
  let ch := lineChan r.n
  if 64 ≤ (s.dramCh ch).queue.length then none
  else some (s.modDramCh ch fun c => { c with queue := c.queue ++ [r] })

/-- Issue of a row: an open row is hit; another is activated, with the neighbour-refresh draw of R338 (free: log 5). -/
def State.activate (s : State) (ch : Nat) (r : LineReq) : State :=
  if (s.dramCh ch).hits r then s
  else
    let (x, s) := s.free
    let s := s.modDramCh ch fun c => { c with open_ := c.open_.set (fun _ => 0) (lineBank r.n) (lineRow r.n + 1) }
    if x.toNat % 2 ^ s.field? DRC_CTRL 11 8 = 0 then s.count 0x0E0 4 1 else s

/-- Delivering a line to the ports that wait for it (R351). -/
def State.deliverLine (s : State) (req n : Nat) (l : Line × Bool) : State :=
  { s with dram := { s.dram with slices := s.dram.slices.map fun sl =>
      { sl with ports := sl.ports.map fun p => if p.id = req ∧ p.n = n then { p with arrived := some l } else p } } }

/-- FCV_MSTAT follows the victim cache and the eviction buffer. -/
def State.syncFcv (s : State) : State :=
  let v := s.reg FCV_MSTAT
  s.setReg FCV_MSTAT (setBits (setBits v 7 2 s.dram.victim.length) 11 8 s.dram.ebuf.length)

/-- DRAM_REQUEST_ISSUE: a channel issues its next request. `upset` are bits that radiation has turned in words of the line
since it was written, which stay in the stored copy (R357). Nothing issues in self-refresh or a blackout, or from an empty
queue. -/
def execDramRequestIssue (ch : Nat) (upset : List (Nat × BitVec 266)) (s : State) : Answer :=
  if s.regBit DRC_STAT 0 || s.regBit DRC_STAT 1 then .next s
  else match s.nextReq ch with
    | none => .next s
    | some r =>
      let s := if s.promoted r then s.count 0x0E0 3 1 else s
      let s := s.activate ch r
      let s := s.modDramCh ch fun c => { c with queue := c.queue.erase r }
      match r.write with
      | some (l, pois) =>
        let (l, bad, s) := match s.dram.ebuf.find? fun e => e.1.n == r.n && r.req == 63 with
          | some e => s.readLoose { e.1 with data := l }
          | none => (l, false, s)
        let s := { s with dram := { s.dram with ebuf := s.dram.ebuf.filter fun e => e.1.n != r.n } }
        .next (s.dramWrite r.n l (pois || bad)).syncFcv
      | none =>
        let turn := upset.foldl (fun a p => a ^^^ (p.2.toNat * 2 ^ (266 * (p.1 % 4)))) 0
        let k := lineKey r.n
        let s := { s with upsets := s.upsets.set (fun _ => 0) k (s.upsets.get (fun _ => 0) k ^^^ turn) }
        let page := 0xE1 + ch
        let (l, s) := s.dramRead r.n
        let (l, s) := if s.armed page 3 then
            ((l.1, true), ((((s.disarm page 3).count page 5 1).raise page 3).blockError page 0x13
              (BitVec.ofNat 32 (128 * r.n)) (BitVec.ofNat 32 (128 * r.n / 2 ^ 32))))
          else (l, s)
        .next (s.deliverLine r.req r.n l)

/-- PER_BANK_REFRESH: the channel refreshes its next bank and closes its row; in a blackout it is postponed, at most 8
(R337). -/
def execPerBankRefresh (ch : Nat) (s : State) : Answer :=
  if !s.pageOn 0xE0 then .next s
  else if s.regBit DRC_STAT 1 then .next (s.modDramCh ch fun c => { c with pend := min 8 (c.pend + 1) })
  else if s.regBit DRC_STAT 0 then .next s
  else .next (s.modDramCh ch fun c =>
    { c with
      bank := (c.bank + 1) % 16
      open_ := c.open_.set (fun _ => 0) c.bank 0
      pend := c.pend - 1 })

/-! ## Temperature bands (R339 to R342) -/

/-- Band k: entered rising at, left falling below; its codes hold from and to. -/
def bandTable : List (Int × Int × Int × Int) :=
  [(-1000, -1000, -1000, -12), (-20, -23, -28, 8), (0, -3, -8, 28), (20, 17, 12, 48), (40, 37, 32, 68),
   (60, 57, 52, 83), (75, 72, 67, 98), (90, 87, 82, 1000)]

/-- The row of a band. -/
def bandRow (b : Nat) : Int × Int × Int × Int := bandTable.getD b (0, 0, 0, 0)

/-- Whether a band's codes hold at a temperature. -/
def bandHolds (b : Nat) (t : Int) : Bool := decide ((bandRow b).2.2.1 ≤ t ∧ t ≤ (bandRow b).2.2.2)

/-- The band after a sample, with the hysteresis of R339; `fuel` 8 steps suffice. -/
def bandStep : Nat → Nat → Int → Nat
  | 0, b, _ => b
  | f + 1, b, t =>
    if b < 7 ∧ (bandRow (b + 1)).1 ≤ t then bandStep f (b + 1) t
    else if 0 < b ∧ t < (bandRow b).2.1 then bandStep f (b - 1) t
    else b

/-- The sampled DRAM temperature (DRC_STAT.TEMP). -/
def State.dramTemp (s : State) : Int := (s.field? DRC_STAT 23 16 : Int) - 64

/-- Vendor firmware's answer to a band crossing: the codes of the new band are staged in every channel and ARM is set (R340; DESIGN CHOICE, log
124: at once). -/
def State.stageCodes (s : State) (b : Nat) : State :=
  let s := (List.range 4).foldl (fun s ch => s.modDramCh ch fun c => { c with
    codes := (List.range 10).foldl (fun m k => m.set (fun _ => 0) (16 + k) (Config.delayCode b ch (k / 2) (k % 2))) c.codes }) s
  s.setReg DRC_RT 1

/-- DRAM_TEMP_SAMPLE: the 10 ms sample sets TEMP, BAND and REFX2; at a crossing firmware stages the new band's codes; outside the applied
band's hold range MARGIN and ADM_STAT.TEMP are set and a blackout is owed (R337, R339 to R341). -/
def execDramTempSample (t : Int) (s : State) : Answer :=
  let st := s.reg DRC_STAT
  let b := bits st 6 4
  let b' := bandStep 8 b t
  let st := setBits (setBits st 23 16 (t + 64).toNat) 6 4 b'
  let t0 := s
  let s := s.setReg DRC_STAT (setBit st 2 (decide (85 < t)))
  let s := if b' = b then s else (s.raise 0x0E0 3).stageCodes b'
  if !t0.pageOn 0xE0 then .next t0
  else if bandHolds (bits st 10 8) t || bit st 3 then .next s
  else
    let s := s.setReg DRC_STAT (setBit (s.reg DRC_STAT) 3 true)
    let s := (s.syncTemp.raise 0x0E0 5).count 0x0E0 5 1
    .next { s with dram := { s.dram with margin := true } }

/-- ARM asks for a blackout with the staged codes; refused in self-refresh (R340, R343). -/
def armCond (m : Master) (v : Word) (s : State) : Option State :=
  if bit v 0 && s.regBit DRC_STAT 0 then some (s.refuse 0x0E0 0x12 m 0x88 v) else none

/-- The effect of a write of DRC_RT: CANCEL clears ARM. -/
def rtEffect (v : Word) (s : State) : State :=
  let s := if bit v 0 then s.setReg DRC_RT 1 else s
  if bit v 1 then s.setReg DRC_RT 0 else s

/-- ARM: a write of DRC_RT with bit 0 set. -/
def execArm (m : Master) (v : Word) (s : State) : Answer :=
  let v := setBit v 0 true
  .next (s.write m 0x0E0 0x88 32 v (armCond m v) fun _ => rtEffect v).1

/-- CANCEL: a write of DRC_RT with bit 1 set. -/
def execCancel (m : Master) (v : Word) (s : State) : Answer :=
  let v := setBit v 1 true
  .next (s.write m 0x0E0 0x88 32 v (armCond m v) fun _ => rtEffect v).1

/-- Whether Forecast's next blackout slot has come: RT_INTERVAL × 10 ms after the last blackout (R340, R63). -/
def State.slotDue (s : State) : Bool :=
  decide (s.field? ADM_CTRL 15 8 * 10000 ≤ (s.pages.dtime - s.dram.lastBo).toNat)

/-- Whether a blackout may be granted: staged codes wait for it, its slot has come or a margin blackout is owed, and every postponed refresh
has been repaid (R337, R340, R341, R342). -/
def State.blackoutDue (s : State) : Bool :=
  s.regBit DRC_RT 0 && !s.regBit DRC_STAT 0 && s.power.pwrFail && (s.slotDue || s.dram.margin) && s.dram.chans.all fun c => c.pend == 0

/-- RETUNE_BLACKOUT: at a slot, or at once while a margin blackout is owed, a blackout begins; the next one ends it: the staged codes are active
on every channel, ARM clears and the counters and events follow (R340, R341). -/
def execRetuneBlackout (s : State) : Answer :=
  if !s.regBit DRC_STAT 1 then
    .next (if s.blackoutDue then s.setReg DRC_STAT (setBit (s.reg DRC_STAT) 1 true) else s)
  else
    let s := (List.range 4).foldl (fun s ch =>
      let n := (s.dramCh ch).queue.length
      let s := s.modDramCh ch fun c =>
        { c with
          open_ := []
          codes := (List.range 10).foldl (fun m k => m.set (fun _ => 0) k (m.get (fun _ => 0) (16 + k))) c.codes }
      if n = 0 then s else s.count (0xE1 + ch) 6 n) s
    let st := s.reg DRC_STAT
    let band := bits st 6 4
    let ok := bandHolds band s.dramTemp
    let st := setBit (setBits st 10 8 band) 1 false
    let s := s.setReg DRC_STAT (if ok then setBit st 3 false else st)
    let s := s.setReg DRC_RT 0
    let was := bit st 3
    let s := { s with dram := { s.dram with lastBo := s.pages.dtime, margin := if ok then false else s.dram.margin } }
    let s := if was && ok then s.syncTemp else s
    .next (((s.raise 0x0E0 4).count 0x0E0 2 1).count 0x020 9 1)

/-! ## Registers of the DRC and DCH pages with conditions (R343) -/

/-- DRC_CTRL outside its ranges is ignored as a whole. -/
def drcCtrlCond (m : Master) (v : Word) (s : State) : Option State :=
  if bits v 7 0 < 5 ∨ 63 < bits v 7 0 ∨ bits v 11 8 < 6 ∨ 12 < bits v 11 8 then some (s.refuse 0x0E0 0x10 m 0x80 v)
  else none

/-- DCH_DLYVAL is ignored with SET = 0, while ARM = 1 and in a blackout. -/
def dlyCond (m : Master) (ch : Nat) (v : Word) (s : State) : Option State :=
  if !s.regBit (DCH_DLYSEL ch) 1 || s.regBit DRC_RT 0 || s.regBit DRC_STAT 1 then
    some (s.refuse (0xE1 + ch) 0x11 m 0x94 v)
  else none

/-- The index of the code DCH_DLYSEL selects: set × 16 + item × 2 + lane; none for items 5 to 7. -/
def State.dlyIndex (s : State) (ch : Nat) : Option Nat :=
  let v := s.reg (DCH_DLYSEL ch)
  if 5 ≤ bits v 4 2 then none else some ((bit v 1).toNat * 16 + bits v 4 2 * 2 + (bit v 0).toNat)

/-- A write of DCH_DLYVAL stores a staged code. -/
def dlyWrite (ch : Nat) (v : Word) (s : State) : State :=
  match s.dlyIndex ch with
  | none => s
  | some k => s.modDramCh ch fun c => { c with codes := c.codes.set (fun _ => 0) k (v.setWidth 9) }

/-- DCH_DLYVAL as it reads. -/
def dlyRead (s : State) (ch : Nat) : Word :=
  match s.dlyIndex ch with
  | none => 0
  | some k => ((s.dramCh ch).codes.get (fun _ => 0) k).setWidth 32

/-! ## The fill at power-up (R361) -/

/-- The region in progress is filled with zero data and zero check bits, POIS 0; the next is the first one on which an access is stalled, else
the lowest. -/
def State.fillRegion (s : State) : State :=
  if s.regBit DRC_FILLSTAT 8 || !s.pageOn 0xE0 then s
  else
    let g := bits (s.reg DRC_FILLSTAT) 7 0
    let lo := g * 524288
    let inReg := fun n => decide (lo ≤ n ∧ n < lo + 524288)
    let s := { s with
      dram := { s.dram with
        mem := s.dram.mem.filter (fun p => !inReg (p.1 / 128))
        pois := s.dram.pois.filter (fun n => !inReg n) }
      upsets := s.upsets.filter fun p =>
        !(decide (0xE1 ≤ p.1 / 2 ^ 32 ∧ p.1 / 2 ^ 32 ≤ 0xE4) && inReg (p.1 % 2 ^ 28)) }
    let s := s.setReg (DRC_FILL (g / 32)) (setBit (s.reg (DRC_FILL (g / 32))) (g % 32) true)
    let open_ := fun k => !s.regionFilled (k * 0x4000000)
    let want := s.dram.want.filter open_
    let s : State := { s with dram := { s.dram with want := want } }
    s.setReg DRC_FILLSTAT (match want ++ (List.range 240).filter open_ with
      | [] => BitVec.ofNat 32 (256 + g)
      | k :: _ => BitVec.ofNat 32 k)

/-- MP_CLEAR: a write with bit 0 set empties the correction log; `v` as written (R362). -/
def mpClear (page : Nat) (v : Word) (s : State) : State :=
  if bit v 0 then
    let s := (List.range 8).foldl (fun s k => s.setReg (MP_LOG page k) 0) s
    s.setReg (MP_STAT page) (s.reg (MP_STAT page) &&& 0x40000000)
  else s

/-- MP_CLEAR. -/
def execMpClear (m : Master) (page : Nat) (v : Word) (s : State) : Answer :=
  let v := setBit v 0 true
  .next (s.write m page 0xD28 32 v noCond fun _ => mpClear page v).1

/-- A write of MP_CORR: only 0 has effect, clearing CORR_SAT (R362). -/
def mpCorrWrite (page : Nat) (v : Word) (s : State) : State :=
  if v = 0 then (s.setReg (MP_CORR page) 0).setReg (MP_STAT page) (s.reg (MP_STAT page) &&& 0xBFFFFFFF) else s

end Sys2Proof.Machine
end

