-- ==== Sys2Proof/Machine/Cache.lean ====
section
/-!
DEFINITION. The fabric cache (15, R344 to R354): slices, way masks, ports, way retirement, the victim cache and the eviction
buffer, and maintenance; and the view of DRAM through it.
-/

namespace Sys2Proof.Machine

/-! ## Slices -/

/-- A slice. -/
def State.slice (s : State) (k : Nat) : Slice4 :=
  s.dram.slices.getD k { lines := [], ports := [], masks := [], ces := [], retire := [], wop := none }

/-- Changing a slice. -/
def State.modSlice (s : State) (k : Nat) (f : Slice4 → Slice4) : State :=
  { s with dram := { s.dram with slices := at' s.dram.slices k f } }

/-- The way mask of a requester in a slice (R345). -/
def Slice4.mask (sl : Slice4) (id : Nat) : BitVec 16 := sl.masks.get (fun _ => 0xFFFF) id

/-- Whether a way is enabled or retiring (FCH_WAYS.DISABLED clear). -/
def State.wayOn (s : State) (k w : Nat) : Bool := !s.regBit (FCH_WAYS k) w

/-- The ways into which a requester allocates (R346). -/
def State.usableWays (s : State) (k id : Nat) : List Nat :=
  (List.range 16).filter fun w => ((s.slice k).mask id).getLsbD w && s.wayOn k w

/-- MAPX: the enabled ways in the mask of an ID 0 to 11 and of no other (R348). ID 63 is not used. -/
def State.mapx (s : State) (k : Nat) : Nat :=
  let sl := s.slice k
  ((List.range 16).filter fun w =>
    s.wayOn k w && (List.range 12).any (fun i => (sl.mask i).getLsbD w) &&
      (List.range 51).all (fun i => !(sl.mask (12 + i)).getLsbD w)).length

/-- FCH_STAT and ADM_STAT.MAPWAYS follow the masks and the ways. -/
def State.syncWays (s : State) (k : Nat) : State :=
  let on := ((List.range 16).filter (s.wayOn k)).length
  let s := s.setReg (FCH_STAT k) (setBits (setBits (s.reg (FCH_STAT k)) 12 8 on) 4 0 (s.mapx k))
  let ok := (List.range 4).all fun j => decide (2 ≤ bits (s.reg (FCH_STAT j)) 4 0)
  s.setReg ADM_STAT (setBit (s.reg ADM_STAT) 9 ok)

/-- Firmware keeps the disabled ways in the health log (R349). -/
def State.logWays (s : State) (k : Nat) : State :=
  let new := ((List.range 16).filter fun w => bit (s.reg (FCH_WAYS k)) w && !s.start.nor.ways.contains (k, w)).map fun w => (k, w)
  if new.isEmpty then s else { s with start := { s.start with nor := { s.start.nor with ways := s.start.nor.ways ++ new } } }

/-- The line a slice holds, if any. -/
def Slice4.find (sl : Slice4) (n : Nat) : Option CLine := sl.lines.find? (·.n == n)

/-- Replacing the copy of a line in a slice. -/
def State.putLine (s : State) (k : Nat) (l : CLine) : State :=
  s.modSlice k fun sl => { sl with lines := l :: sl.lines.filter fun o => !(o.set == l.set && o.way == l.way) }

/-- Dropping a line from a slice. -/
def State.dropLine (s : State) (k n : Nat) : State :=
  s.modSlice k fun sl => { sl with lines := sl.lines.filter fun o => o.n != n }

/-! ## Way retirement (R349) -/

/-- A correction in a way: counted over CE_WIN × 100 ms; past CE_LIM the way retires, unless fewer than 4 ways would stay. -/
def State.wayCorrected (s : State) (k w : Nat) : State :=
  let now := s.pages.dtime
  let win := s.field? (FCH_CTRL k) 15 8 * 100000
  let ces := ((w, now) :: (s.slice k).ces).filter fun c => decide ((now - c.2).toNat ≤ win)
  let s := s.modSlice k fun sl => { sl with ces := ces }
  let s := s.count (fchPage k) 6 1
  let ways := s.reg (FCH_WAYS k)
  if s.field? (FCH_CTRL k) 7 0 < (ces.filter (·.1 == w)).length ∧ bit ways w = false ∧ bit ways (16 + w) = false then
    let left := ((List.range 16).filter fun j => !bit ways j && !bit ways (16 + j)).length
    if left ≤ 4 then s.raise (fchPage k) 5
    else
      let s := s.setReg (FCH_WAYS k) (setBit ways (16 + w) true)
      let s := s.modSlice k fun sl => { sl with retire := (w, s.adm.latest) :: sl.retire }
      s.raise (fchPage k) 3
  else s

/-! ## Protected data and tags of the arrays (R344, R359) -/

/-- The index of a data block of a slice. -/
def blockIndex (set way b : Nat) : Nat := (set * 16 + way) * 16 + b

/-- Reading the sixteen data blocks of a resident line. -/
def State.readBlocks (s : State) (k : Nat) (l : CLine) : Line × Bool × State :=
  s.readGrid (fchPage k) 4 (blockIndex l.set l.way 0) l.data (fun s => s.wayCorrected k l.way) fun s => s.count (fchPage k) 7 1

/-- The tag copies of a line: the index of the second copy is shifted by 2^20; with both lost the line is dropped and
reported (R359). -/
def State.tagsGood (s : State) (k : Nat) (l : CLine) : Bool × State :=
  let ix := l.set * 16 + l.way
  match s.readProt (fchPage k) 5 ix 8 8 with
  | (some _, s) => (true, s)
  | (none, s) =>
    match s.readProt (fchPage k) 5 (ix + 2 ^ 20) 8 8 with
    | (some _, s) => (true, s)
    | (none, s) =>
      (false, (((s.dropLine k l.n).raise (fchPage k) 6).blockError (fchPage k) 0x15 (BitVec.ofNat 32 l.set)
        (BitVec.ofNat 32 l.way)).count (fchPage k) 7 1)

/-- A write of bytes into a resident line: whole blocks take fresh check bits, parts of blocks are merged (R358). -/
def State.writeBlocks (s : State) (k : Nat) (set way off len : Nat) : State :=
  (List.range 16).foldl (fun s b =>
    let lo := 8 * b
    if off + len ≤ lo ∨ lo + 8 ≤ off then s
    else if off ≤ lo ∧ lo + 8 ≤ off + len then s.freshProt (fchPage k) 4 (blockIndex set way b)
    else
      let hit := (List.range 8).filter fun j => decide (off ≤ lo + j ∧ lo + j < off + len)
      s.mergeProt (fchPage k) 4 (blockIndex set way b) 8 8 (hit.foldl (fun a j => a + 255 * 256 ^ j) 0)) s

/-- A line about to leave a set or to be served whole: data, poisoned, and the state; an uncorrectable block of a dirty line
is reported (R344, R354). -/
def State.takeLine (s : State) (k : Nat) (l : CLine) : Line × Bool × State :=
  let (d, bad, s) := s.readBlocks k l
  if bad && l.dirty then (d, true, s.dirtyLost l) else (d, l.pois || bad, s)

/-! ## The victim cache and the eviction buffer (R350) -/

/-- Whether an eviction can take place: the line it would push out of the victim cache, if dirty, needs room in the eviction
buffer and in its channel's queue. -/
def State.evictRoom (s : State) : Bool :=
  match s.dram.victim[31]? with
  | some v => !v.dirty || (decide (s.dram.ebuf.length < 8) && decide ((s.dramCh (lineChan v.n)).queue.length < 64))
  | none => true

/-- A line enters the victim cache; the oldest one leaves a full one, by the eviction buffer if dirty. The write carries the
class of the miss (R335). -/
def State.evict (s : State) (l : CLine) (cls : Nat) : State :=
  let put := fun (s : State) =>
    let (k, s) := s.looseSlot 0 32 s.dram.victim
    ({ s with dram := { s.dram with victim := { l with way := k } :: s.dram.victim } } : State).syncFcv
  match s.dram.victim[31]? with
  | none => put s
  | some o =>
    let s : State := { s with dram := { s.dram with victim := s.dram.victim.take 31 } }
    if o.dirty then
      let (d, bad, s) := s.readLoose o
      let (k, s) := s.looseSlot 32 8 (s.dram.ebuf.map Prod.fst)
      let o := { o with way := k, data := d, pois := o.pois || bad }
      let s : State := { s with dram := { s.dram with ebuf := (o, false) :: s.dram.ebuf } }
      put ((s.enqueue { n := o.n, cls := cls, req := 63, since := s.pages.dtime, write := some (o.data, o.pois) }).getD s)
    else put s

/-- Removing a line from the victim cache or the eviction buffer, a write not yet begun being cancelled; which it was. -/
def State.takeLoose (s : State) (n : Nat) : Option (CLine × Bool × State) :=
  match s.dram.victim.find? (·.n == n) with
  | some l => some (l, true, { s with dram := { s.dram with victim := s.dram.victim.filter (·.n != n) } }.syncFcv)
  | none =>
    match s.dram.ebuf.find? (·.1.n == n) with
    | none => none
    | some (l, begun) =>
      let s := { s with dram := { s.dram with ebuf := s.dram.ebuf.filter (·.1.n != n) } }
      let s := if begun then s
        else s.modDramCh (lineChan n) fun c => { c with queue := c.queue.filter fun r => !(r.n == n && r.req == 63) }
      some ({ l with dirty := !begun }, false, s.syncFcv)

/-- The recall of a line as it reads: a clean one with an uncorrectable block is dropped and missed, a dirty one is poisoned (R344, R359). -/
def State.recall (s : State) (n : Nat) : Option (CLine × Bool) × State :=
  match s.takeLoose n with
  | none => (none, s)
  | some (l, v, s) =>
    let (d, bad, s) := s.readLoose l
    (if bad && !l.dirty then none else some ({ l with data := d, pois := l.pois || bad }, v), s)

/-- Allocating a line in its set: an empty usable way, else the least recently used one, whose line is evicted (R346). -/
def State.allocate (s : State) (k id n cls : Nat) (data : Line) (dirty pois : Bool) : Option State :=
  let set := lineSet n
  let ways := s.usableWays k id
  let inSet := (s.slice k).lines.filter fun l => l.set == set && ways.contains l.way
  let put := fun (s : State) (w : Nat) =>
    let s := (List.range 16).foldl (fun s b => s.freshProt (fchPage k) 4 (blockIndex set w b)) s
    let s := (s.freshProt (fchPage k) 5 (set * 16 + w)).freshProt (fchPage k) 5 (set * 16 + w + 2 ^ 20)
    { (s.putLine k { set := set, way := w, n := n, data := data, dirty := dirty, pois := pois, stamp := s.dram.stamp })
      with dram.stamp := s.dram.stamp + 1 }
  match ways.find? fun w => !inSet.any (·.way == w) with
  | some w => some (put s w)
  | none =>
    match inSet with
    | [] => none
    | l :: r =>
      if !s.evictRoom then none
      else
        let o := r.foldl (fun m x => if x.stamp < m.stamp then x else m) l
        let (d, p, s) := s.takeLine k o
        let s := s.dropLine k o.n
        some (put (s.evict { o with data := d, pois := p } cls) o.way)

/-! ## Accesses (R351) -/

/-- A line with bytes stored at an offset. -/
def storeLine (l : Line) (off : Nat) (bs : List Byte) : Line :=
  let old := lineBytes l
  bytesLine (old.take off ++ bs ++ old.drop (off + bs.length))

/-- Serving an access from data that will stand in the cache or go to DRAM: the new data and whether it was written; a read
is delivered to the requester. A whole-line write clears POIS. -/
def State.serveData (s : State) (k id : Nat) (a : Access) (data : Line) (pois : Bool) : Line × Bool × Bool × State :=
  match a.write with
  | some bs => (storeLine data a.off bs, true, if a.len = 128 then false else pois, s)
  | none =>
    let bs := sub (lineBytes data) a.off a.len
    (data, false, pois, s.deliver (fchPage k) (.served { id := id, addr := 128 * a.n + a.off, data := bs, pois := pois }))

/-- Serving an access that hits a resident line; none when the line must be dropped and the access is a miss. A forced
uncorrectable read of a dirty line delivers it poisoned and leaves the stored line (R484). -/
def State.serveHit (s : State) (k id : Nat) (a : Access) (l : CLine) : Option State × State :=
  match s.tagsGood k l with
  | (false, s) => (none, s)
  | (true, s) =>
    match a.write with
    | some bs =>
      let s := s.writeBlocks k l.set l.way a.off a.len
      let l := { l with data := storeLine l.data a.off bs, dirty := true, stamp := s.dram.stamp,
                        pois := if a.len = 128 then false else l.pois }
      (some { (s.putLine k l) with dram.stamp := s.dram.stamp + 1 }, s)
    | none =>
      let (d, bad, s) := s.readBlocks k l
      if bad && !l.dirty then (none, s.dropLine k l.n)
      else
        let forced := l.dirty && s.armed (fchPage k) 6
        let s := if forced then s.disarm (fchPage k) 6 else s
        let bad := bad || forced
        let s := if bad then s.dirtyLost l else s
        let (_, _, _, s) := s.serveData k id a d (l.pois || bad)
        (some { (s.putLine k { l with stamp := s.dram.stamp }) with dram.stamp := s.dram.stamp + 1 }, s)

/-- The port of a requester on a slice with a miss. -/
def Slice4.port (sl : Slice4) (id : Nat) : Option CPort := sl.ports.find? (·.id == id)

/-- Whether a running address operation names a line, or an ALL operation names every line (R353). -/
def MOp.covers (o : MOp) (n : Nat) : Bool := decide (4 ≤ o.op) || decide (o.first ≤ n ∧ n < o.first + o.count)

/-- An access at a port, `none` when it is not accepted and has to be sent again: the port is stopped, an operation covers
the line, a queue is full. -/
def State.access (s : State) (id : Nat) (a : Access) : Option State :=
  let k := lineSlice a.n
  let page := fchPage k
  let covered := match s.dram.mop with
    | some o => o.covers a.n
    | none => false
  let port := (s.slice k).port id
  let stopped := match port with
    | some p => p.stopped.isSome
    | none => false
  if covered || stopped then none
  else
    let miss := fun (s : State) =>
      let s1 := s.count64 page 4 1
      match port with
      | some p =>
        if p.n = a.n then
          some (s.modSlice k fun sl => { sl with ports := sl.ports.map fun q =>
            if q.id = id then { q with joined := q.joined ++ [a] } else q })
        else
          some ((s1.modSlice k fun sl => { sl with ports := sl.ports.map fun q =>
            if q.id = id then { q with stopped := some a } else q }).count page 9 1)
      | none =>
        let ways := s1.usableWays k id
        match s1.recall a.n with
        | (some (l, fromV), s2) =>
          let s2 := (s2.count page 8 1).count 0x0EC (if fromV then 2 else 3) 1
          let (d, w, p, s3) := s2.serveData k id a l.data l.pois
          if ways.isEmpty then
            if l.dirty || w then some (s3.evict { l with data := d, pois := p, dirty := true } a.cls) else some s3
          else s3.allocate k id a.n a.cls d (l.dirty || w) p
        | (none, s1) =>
          match a.write, decide (a.len = 128) with
          | some bs, true =>
            if ways.isEmpty then
              s1.enqueue { n := a.n, cls := a.cls, req := id, since := s.pages.dtime, write := some (bytesLine bs, false) }
            else s1.allocate k id a.n a.cls (bytesLine bs) true false
          | _, _ =>
            (s1.enqueue { n := a.n, cls := a.cls, req := id, since := s.pages.dtime, write := none }).map fun s =>
              s.modSlice k fun sl => { sl with ports :=
                { id := id, n := a.n, alloc := !ways.isEmpty, arrived := none, joined := [a], stopped := none } :: sl.ports }
    match (s.slice k).find a.n with
    | some l =>
      match s.serveHit k id a l with
      | (some s, _) => some (s.count64 page 2 1)
      | (none, s) => miss s
    | none => miss s

/-- CACHE_ACCESS: a requester's access within one line of usable DRAM; it stalls on an unfilled region (R361). -/
def execCacheAccess (id addr len cls : Nat) (write : Option (List Byte)) (s : State) : Answer :=
  let n := addr / 128
  let off := addr % 128
  let a : Access := { n := n, off := off, len := len, cls := cls % 4, write := write.map fun bs => sub bs 0 len }
  if 63 ≤ id ∨ len = 0 ∨ 128 < off + len ∨ lineCount ≤ n ∨ s.pageOn 0xE8 = false then .next s
  else if !s.regionFilled addr then .next (s.awaitFill addr 1)
  else .next ((s.access id a).getD s)

/-- The accesses that joined a miss, served in arrival order from the line. -/
def State.serveJoined (s : State) (k id : Nat) : List Access → Line → Bool → Bool → Line × Bool × Bool × State
  | [], d, p, w => (d, p, w, s)
  | a :: r, d, p, w =>
    let (d, w', p, s) := s.serveData k id a d p
    s.serveJoined k id r d p (w || w')

/-- CACHE_FILL: the line a port waits for has come from DRAM: it is placed in its set, or for a requester with no usable way
not placed at all; the joined accesses are served; a stopped port goes on (R346, R351). -/
def execCacheFill (slice id : Nat) (s : State) : Answer :=
  match (s.slice slice).port id with
  | none => .next s
  | some p =>
    match p.arrived with
    | none => .next s
    | some (d, pois) =>
      let (d, pois, w, s1) := s.serveJoined slice id p.joined d pois false
      let placed :=
        if p.alloc && !(s1.usableWays slice id).isEmpty then s1.allocate slice id p.n 0 d w pois
        else if w then
          s1.enqueue { n := p.n, cls := 0, req := id, since := s.pages.dtime, write := some (d, pois) }
        else some s1
      match placed with
      | none => .next s
      | some s2 =>
        let s3 := s2.modSlice slice fun sl => { sl with ports := sl.ports.filter (·.id != id) }
        match p.stopped with
        | none => .next s3
        | some a => .next ((s3.access id a).getD s3)

/-! ## Ways leaving service -/

/-- Writing back the dirty lines of a list to DRAM. -/
def State.writeBack (s : State) (k : Nat) : List CLine → State
  | [] => s
  | l :: r =>
    if l.dirty then
      let (d, p, s) := s.takeLine k l
      (s.dramWrite l.n d p).writeBack k r
    else s.writeBack k r

/-- Writing back and invalidating every line of a way. -/
def State.flushWay (s : State) (k w : Nat) : State :=
  let ls := (s.slice k).lines.filter (·.way == w)
  (s.writeBack k ls).modSlice k fun sl => { sl with lines := sl.lines.filter (·.way != w) }

/-- WAY_DISABLE: a retiring way whose last promised deadline has passed is written back, invalidated and disabled (R349). -/
def execWayDisable (slice way : Nat) (s : State) : Answer :=
  match (s.slice slice).retire.find? (·.1 == way) with
  | none => .next s
  | some (_, t) =>
    if s.ns < t ∨ (s.slice slice).wop.any (fun o => o.2 == way) = true then .next s
    else
      let s := s.flushWay slice way
      let v := s.reg (FCH_WAYS slice)
      let s := s.setReg (FCH_WAYS slice) (setBit (setBit v (16 + way) false) way true)
      let s := s.modSlice slice fun sl => { sl with retire := sl.retire.filter (·.1 != way) }
      .next (((s.syncWays slice).logWays slice).raise (fchPage slice) 4)

/-- FCH_WDIS that would leave fewer than 4 enabled ways is ignored as a whole (R354). -/
def wdisCond (m : Master) (k : Nat) (v : Word) (s : State) : Option State :=
  let dis := s.reg (FCH_WAYS k) ||| v
  if ((List.range 16).filter fun w => !bit dis w).length < 4 then
    some ((s.refuse (fchPage k) 0x12 m 0x98 v).raise (fchPage k) 5)
  else none

/-- FCH_WDIS disables the named ways at once. -/
def wdisEffect (k : Nat) (v : Word) (s : State) : State :=
  let s := (List.range 16).foldl (fun s w =>
    if bit v w && s.wayOn k w then
      let s := s.flushWay k w
      let x := s.reg (FCH_WAYS k)
      let s := s.modSlice k fun sl => { sl with retire := sl.retire.filter (·.1 != w) }
      s.setReg (FCH_WAYS k) (setBit (setBit x (16 + w) false) w true)
    else s) s
  let s := s.setReg (FCH_WDIS k) (s.reg (FCH_WDIS k) ||| (v &&& 0xFFFF))
  (s.syncWays k).logWays k

/-- FCH_WDIS. -/
def execFchWdis (m : Master) (slice : Nat) (v : Word) (s : State) : Answer :=
  .next (s.write m (fchPage slice) 0x98 32 v (wdisCond m slice v) fun _ => wdisEffect slice v).1

/-! ## Maintenance (R352, R353) -/

/-- The conditions of a write of FCV_MOP (R354). -/
def mopCond (m : Master) (v : Word) (s : State) : Option State :=
  let op := bits v 2 0
  let count := max 1 (bits v 23 8)
  let first := bits (s.reg FCV_MADDR_LO) 31 7 + bits (s.reg FCV_MADDR_HI) 1 0 * 2 ^ 25
  if op = 0 ∨ 6 ≤ op ∨ s.dram.mop.isSome then some (s.refuse 0x0EC 0x13 m 0x88 v)
  else if op ≤ 3 ∧ lineCount < first + count then some (s.refuse 0x0EC 0x14 m 0x88 v)
  else none

/-- Whether an operation names a line whose fill is in progress. -/
def State.mopWaits (s : State) (o : MOp) : Bool :=
  s.dram.slices.any fun sl => sl.ports.any fun p => o.covers p.n

/-- A write of FCV_MOP starts an operation. -/
def mopEffect (v : Word) (s : State) : State :=
  let o : MOp := { op := bits v 2 0, first := bits (s.reg FCV_MADDR_LO) 31 7 + bits (s.reg FCV_MADDR_HI) 1 0 * 2 ^ 25,
                   count := max 1 (bits v 23 8) }
  let w := s.mopWaits o
  let s := { s with dram := { s.dram with mop := some o } }
  let s := s.setReg FCV_MSTAT (setBit (setBits (setBit (s.reg FCV_MSTAT) 0 true) 31 16 0) 1 w)
  let s := s.count 0x0EC 4 1
  if w then s.count 0x0EC 5 1 else s

/-- A write of FCV_MOP with the operation forced to `op`. -/
def mopWrite (m : Master) (op : Nat) (v : Word) (s : State) : Answer :=
  let v := setBits v 2 0 op
  .next (s.write m 0x0EC 0x88 32 v (mopCond m v) fun _ => mopEffect v).1

def execClean (m : Master) (v : Word) (s : State) : Answer := mopWrite m 1 v s
def execInval (m : Master) (v : Word) (s : State) : Answer := mopWrite m 2 v s
def execCleanInval (m : Master) (v : Word) (s : State) : Answer := mopWrite m 3 v s
def execCleanAll (m : Master) (v : Word) (s : State) : Answer := mopWrite m 4 v s
def execCleanInvalAll (m : Master) (v : Word) (s : State) : Answer := mopWrite m 5 v s

/-- The conditions of a write of FCH_WOP (R354). -/
def wopCond (m : Master) (k : Nat) (v : Word) (s : State) : Option State :=
  let op := bits v 1 0
  if op = 0 ∨ op = 3 ∨ (s.slice k).wop.isSome then some (s.refuse (fchPage k) 0x13 m 0xA0 v) else none

/-- A write of FCH_WOP starts a way operation. -/
def wopEffect (k : Nat) (v : Word) (s : State) : State :=
  let s := s.modSlice k fun sl => { sl with wop := some (bits v 1 0, bits v 7 4) }
  s.setReg (FCH_STAT k) (setBit (s.reg (FCH_STAT k)) 16 true)

/-- A write of FCH_WOP with the operation forced to `op`. -/
def wopWrite (m : Master) (op k : Nat) (v : Word) (s : State) : Answer :=
  let v := setBits v 1 0 op
  .next (s.write m (fchPage k) 0xA0 32 v (wopCond m k v) fun _ => wopEffect k v).1

def execCleanWay (m : Master) (slice : Nat) (v : Word) (s : State) : Answer := wopWrite m 1 slice v s
def execCleanInvalWay (m : Master) (slice : Nat) (v : Word) (s : State) : Answer := wopWrite m 2 slice v s

/-- Writing one line of the victim cache or the eviction buffer to DRAM if it is dirty. -/
def State.cleanLoose (s : State) (ls : List CLine) : State :=
  ls.foldl (fun s l =>
    if l.dirty then
      let (d, bad, s) := s.readLoose l
      s.dramWrite l.n d (l.pois || bad)
    else s) s

/-- An operation carried out on the lines that `names` covers: `clean` writes dirty ones, `drop` drops them. -/
def State.maintain (s : State) (names : Nat → Bool) (clean drop : Bool) : State :=
  let s : State := if clean then
      let s := (List.range 4).foldl (fun s k => s.writeBack k ((s.slice k).lines.filter fun l => names l.n)) s
      (s.cleanLoose (s.dram.victim.filter fun l => names l.n)).cleanLoose
        ((s.dram.ebuf.map Prod.fst).filter fun l => names l.n)
    else s
  let keep := fun (l : CLine) => if names l.n then (if drop then none else some { l with dirty := false }) else some l
  let s := { s with dram := { s.dram with
    slices := s.dram.slices.map fun (sl : Slice4) => { sl with lines := sl.lines.filterMap keep }
    victim := s.dram.victim.filterMap keep
    ebuf := s.dram.ebuf.filter fun e => !names e.1.n } }
  let s := (List.range 4).foldl (fun s ch => s.modDramCh ch fun c =>
    { c with queue := c.queue.filter fun r => !(r.req == 63 && names r.n) }) s
  s.syncFcv

/-- MAINTENANCE_DONE: the running operation of page FCV (`none`) or of a slice is carried out. It waits for a fill in
progress on a line it names, and a way operation for one that may go into its way, and acts on the line that the fill has brought (R352,
R353). DONE of an ALL operation counts the lines held, at most 65,535 (DESIGN CHOICE, log 127). -/
def execMaintenanceDone (slice : Option Nat) (s : State) : Answer :=
  match slice with
  | none =>
    match s.dram.mop with
    | none => .next s
    | some o =>
      if s.mopWaits o then .next s
      else
        let all := decide (4 ≤ o.op)
        let held := s.dram.slices.foldl (fun n (sl : Slice4) => n + sl.lines.length) (s.dram.victim.length + s.dram.ebuf.length)
        let s := s.maintain o.covers (o.op != 2) (o.op = 2 || o.op = 3 || o.op = 5)
        let s := { s with dram := { s.dram with mop := none } }
        let done := if all then min 65535 held else o.count
        let st := s.reg FCV_MSTAT
        .next ((s.setReg FCV_MSTAT (setBits (setBits st 1 0 0) 31 16 done)).raise 0x0EC 3)
  | some k =>
    match (s.slice k).wop with
    | none => .next s
    | some (op, w) =>
      if (s.slice k).ports.any fun p => p.alloc && (s.usableWays k p.id).contains w then .next s
      else
      let named := (s.slice k).lines.filter (·.way == w)
      let s := s.writeBack k named
      let s := s.modSlice k fun sl => { sl with
        wop := none
        lines := if op = 2 then sl.lines.filter (·.way != w)
          else sl.lines.map fun l => if l.way = w then { l with dirty := false } else l }
      .next (s.setReg (FCH_STAT k) (setBit (s.reg (FCH_STAT k)) 16 false))

/-! ## Registers of the FCH page with conditions (R354) -/

/-- FCH_CTRL with CE_WIN or CE_LIM 0 is ignored as a whole. -/
def fchCtrlCond (m : Master) (k : Nat) (v : Word) (s : State) : Option State :=
  if bits v 15 8 = 0 ∨ bits v 7 0 = 0 then some (s.refuse (fchPage k) 0x10 m 0x80 v) else none

/-- FCH_WMASK is ignored while FCH_WMSEL.REQ = 63. -/
def wmaskCond (m : Master) (k : Nat) (v : Word) (s : State) : Option State :=
  if s.field? (FCH_WMSEL k) 5 0 = 63 then some (s.refuseRsvd (fchPage k) 0x11 m 0x94 v) else none

/-- FCH_WMASK takes the mask of the selected requester. -/
def wmaskEffect (k : Nat) (v : Word) (s : State) : State :=
  (s.modSlice k fun sl => { sl with masks := sl.masks.set (fun _ => 0xFFFF) (s.field? (FCH_WMSEL k) 5 0) (v.setWidth 16) }).syncWays k

/-- FCH_WMASK as it reads. -/
def wmaskRead (s : State) (k : Nat) : Word := ((s.slice k).mask (s.field? (FCH_WMSEL k) 5 0)).setWidth 32

/-! ## The view of DRAM through the cache -/

/-- What a reader of a line gets, wherever it stands: its set, the victim cache, the eviction buffer, DRAM. Used by transfers
that this model makes in one step (log 22). -/
def State.peekLine (s : State) (n : Nat) : (Line × Bool) × State :=
  let k := lineSlice n
  match (s.slice k).find n with
  | some l =>
    let (d, p, s) := s.takeLine k l
    ((d, p), s)
  | none =>
    match (s.dram.victim ++ s.dram.ebuf.map Prod.fst).find? (·.n == n) with
    | some l =>
      let (d, bad, s) := s.readLoose l
      if bad && !l.dirty then s.dramRead n else ((d, l.pois || bad), s)
    | none =>
      match ((s.dramCh (lineChan n)).queue.filter fun r => r.n == n).reverse.findSome? (·.write) with
      | some w => (w, s)
      | none => s.dramRead n

/-- Bytes of DRAM through the cache, with whether any line of them is poisoned. -/
def State.peek (s : State) (addr len : Nat) : (List Byte × Bool) × State :=
  if len = 0 then (([], false), s)
  else
    let first := addr / 128
    let lines := (List.range ((addr + len - 1) / 128 - first + 1)).map (first + ·)
    let r := lines.foldl (fun (acc : List Byte × Bool × State) n =>
      let ((l, p), s) := acc.2.2.peekLine n
      (acc.1 ++ lineBytes l, acc.2.1 || p, s)) ([], false, s)
    ((sub r.1 (addr % 128) len, r.2.1), r.2.2)

/-- Storing bytes into a line wherever it stands (log 22). -/
def State.pokeLine (s : State) (n off : Nat) (bs : List Byte) : State :=
  let k := lineSlice n
  match (s.slice k).find n with
  | some l =>
    let s := s.writeBlocks k l.set l.way off bs.length
    s.putLine k { l with data := storeLine l.data off bs, dirty := true, pois := if bs.length = 128 then false else l.pois }
  | none =>
    let ((l, p), s) := s.peekLine n
    let s := match s.takeLoose n with
      | some (_, _, s) => s
      | none => s
    let s := s.modDramCh (lineChan n) fun c => { c with queue := c.queue.filter fun r => !(r.n == n && r.write.isSome) }
    s.dramWrite n (storeLine l off bs) (if bs.length = 128 then false else p)

/-- Storing bytes into DRAM through the cache. -/
def State.poke (s : State) (addr : Nat) (bs : List Byte) : State :=
  let first := addr / 128
  let last := (addr + bs.length - 1) / 128
  if bs.isEmpty then s
  else (List.range (last - first + 1)).foldl (fun s j =>
    let n := first + j
    let lo := max addr (128 * n)
    let hi := min (addr + bs.length) (128 * (n + 1))
    s.pokeLine n (lo - 128 * n) (sub bs (lo - addr) (hi - lo))) s

/-- Whether every region of a range is filled. -/
def State.rangeFilled (s : State) (addr len : Nat) : Bool :=
  (List.range ((addr + len - 1) / 0x4000000 - addr / 0x4000000 + 1)).all fun j =>
    s.regionFilled ((addr / 0x4000000 + j) * 0x4000000)

end Sys2Proof.Machine
end

