-- ==== Sys2Proof/Machine/Aes.lean ====
section
/-!
DEFINITION. The block ciphers and modes the lanes run (R305, R306): AES (FIPS 197), CTR, CBC, CFB-128 (SP 800-38A), CMAC
(SP 800-38B), CCM (SP 800-38C) and the key derivation of R313. The standards that R305 and R306 name give the functions
(log 23).
-/

namespace Sys2Proof.Machine

/-! ## AES -/

/-- Multiplication by x in the field of AES. -/
def xtime (a : Byte) : Byte := if a.msb then (a <<< 1) ^^^ 0x1B else a <<< 1

/-- Multiplication in the field of AES, over the eight bits of `b`. -/
def gfMul (a b : Byte) : Byte :=
  ((List.range 8).foldl (fun (acc : Byte × Byte) k =>
    (if b.getLsbD k then acc.1 ^^^ acc.2 else acc.1, xtime acc.2)) (0, a)).1

/-- The inverse a^254, 0 for 0. -/
def gfInv (a : Byte) : Byte :=
  let a2 := gfMul a a
  let a3 := gfMul a2 a
  let a6 := gfMul a3 a3
  let a12 := gfMul a6 a6
  let a15 := gfMul a12 a3
  let a30 := gfMul a15 a15
  let a60 := gfMul a30 a30
  let a120 := gfMul a60 a60
  let a126 := gfMul a120 a6
  let a127 := gfMul a126 a
  gfMul a127 a127

/-- The substitution box. -/
def sbox (a : Byte) : Byte :=
  let b := gfInv a
  b ^^^ b.rotateLeft 1 ^^^ b.rotateLeft 2 ^^^ b.rotateLeft 3 ^^^ b.rotateLeft 4 ^^^ 0x63

/-- The inverse substitution box. -/
def invSbox (a : Byte) : Byte := gfInv (a.rotateLeft 1 ^^^ a.rotateLeft 3 ^^^ a.rotateLeft 6 ^^^ 0x05)

/-- Bytes combined by exclusive or, the shorter length. -/
def xorBytes (a b : List Byte) : List Byte := a.zipWith (· ^^^ ·) b

/-- The next word of the key schedule: `i` its number, `nk` the key words, `rc` the round constant, `w` the words so far,
newest first. -/
def nextKeyWord (nk i : Nat) (rc : Byte) (w : List (List Byte)) : List Byte :=
  let prev := w.headD []
  let t := if i % nk = 0 then
      match (prev.drop 1 ++ prev.take 1).map sbox with
      | b :: r => (b ^^^ rc) :: r
      | [] => []
    else if 6 < nk ∧ i % nk = 4 then prev.map sbox
    else prev
  xorBytes (w.getD (nk - 1) []) t

/-- The key schedule: `n` words still to make from word `i` on. -/
def expandKey (nk : Nat) : Nat → Nat → Byte → List (List Byte) → List (List Byte)
  | 0, _, _, w => w.reverse
  | n + 1, i, rc, w => expandKey nk n (i + 1) (if i % nk = 0 then xtime rc else rc) (nextKeyWord nk i rc w :: w)

/-- Bytes in groups of `k`, the last group short. -/
def chunks (k : Nat) (bs : List Byte) : List (List Byte) :=
  (List.range ((bs.length + k - 1) / k)).map fun j => (bs.drop (k * j)).take k

/-- The round keys of a key of 16, 24 or 32 bytes, 16 bytes each. -/
def roundKeys (key : List Byte) : List (List Byte) :=
  let nk := key.length / 4
  chunks 16 (expandKey nk (4 * (nk + 7) - nk) nk 1 (chunks 4 key).reverse).flatten

/-- One column mixed with the coefficients of a row. -/
def mixCol (c : List Byte) (m : List Byte) : List Byte :=
  (List.range 4).map fun r => (List.range 4).foldl (fun a k => a ^^^ gfMul (c.getD k 0) (m.getD ((k + 4 - r) % 4) 0)) 0

/-- Mixing the columns of a state. -/
def mixCols (m : List Byte) (s : List Byte) : List Byte := ((chunks 4 s).map fun c => mixCol c m).flatten

/-- Rows shifted left by their number. -/
def shiftRows (s : List Byte) : List Byte := (List.range 16).map fun k => s.getD ((k + 4 * (k % 4)) % 16) 0

/-- Rows shifted right by their number. -/
def unshiftRows (s : List Byte) : List Byte := (List.range 16).map fun k => s.getD ((k + 12 * (k % 4)) % 16) 0

/-- The rounds of encryption over the remaining round keys. -/
def encRounds : List (List Byte) → List Byte → List Byte
  | [], s => s
  | [k], s => xorBytes (shiftRows (s.map sbox)) k
  | k :: r, s => encRounds r (xorBytes (mixCols [2, 3, 1, 1] (shiftRows (s.map sbox))) k)

/-- Encrypting one 16-byte block. -/
def aesEnc (key block : List Byte) : List Byte :=
  match roundKeys key with
  | [] => block
  | k :: r => encRounds r (xorBytes block k)

/-- The rounds of decryption over the remaining round keys, last first. -/
def decRounds : List (List Byte) → List Byte → List Byte
  | [], s => s
  | [k], s => xorBytes ((unshiftRows s).map invSbox) k
  | k :: r, s => decRounds r (mixCols [14, 11, 13, 9] (xorBytes ((unshiftRows s).map invSbox) k))

/-- Decrypting one 16-byte block. -/
def aesDec (key block : List Byte) : List Byte :=
  match (roundKeys key).reverse with
  | [] => block
  | k :: r => decRounds r (xorBytes block k)

/-! ## Modes -/

/-- Big-endian bytes as a number. -/
def beNat (bs : List Byte) : Nat := bs.foldl (fun a b => a * 256 + b.toNat) 0

/-- A number as `n` big-endian bytes. -/
def beBytes (n v : Nat) : List Byte := (List.range n).map fun k => BitVec.ofNat 8 (v / 256 ^ (n - 1 - k))

/-- A counter block advanced by `j`, incrementing its low `w` bits (SP 800-38A). -/
def ctrBlock (iv : List Byte) (w j : Nat) : List Byte :=
  let v := beNat iv
  beBytes 16 (v - v % 2 ^ w + (v + j) % 2 ^ w)

/-- CTR over data, `w` bits incremented. The key of block `j` comes from `key j`. -/
def ctrCrypt (key : Nat → List Byte) (iv : List Byte) (w : Nat) (data : List Byte) : List Byte :=
  let cs := chunks 16 data
  ((List.range cs.length).map fun j => xorBytes (cs.getD j []) (aesEnc (key j) (ctrBlock iv w j))).flatten

/-- CBC encryption over blocks, the key of each block by its number. -/
def cbcEnc (key : Nat → List Byte) : Nat → List Byte → List (List Byte) → List Byte
  | _, _, [] => []
  | j, iv, b :: r =>
    let c := aesEnc (key j) (xorBytes b iv)
    c ++ cbcEnc key (j + 1) c r

/-- CBC decryption. -/
def cbcDec (key : List Byte) : List Byte → List (List Byte) → List Byte
  | _, [] => []
  | iv, c :: r => xorBytes (aesDec key c) iv ++ cbcDec key c r

/-- CFB-128 encryption. -/
def cfbEnc (key : Nat → List Byte) : Nat → List Byte → List (List Byte) → List Byte
  | _, _, [] => []
  | j, iv, b :: r =>
    let c := xorBytes b (aesEnc (key j) iv)
    c ++ cfbEnc key (j + 1) c r

/-- CFB-128 decryption. -/
def cfbDec (key : List Byte) : List Byte → List (List Byte) → List Byte
  | _, [] => []
  | iv, c :: r => xorBytes c (aesEnc key iv) ++ cfbDec key c r

/-- Doubling in the field of CMAC. -/
def cmacDouble (b : List Byte) : List Byte :=
  let v := beNat b
  beBytes 16 (if 2 ^ 127 ≤ v then ((2 * v) % 2 ^ 128) ^^^ 0x87 else 2 * v)

/-- CBC-MAC over blocks from a chaining value, the key of each block by its number. -/
def macBlocks (key : Nat → List Byte) : Nat → List Byte → List (List Byte) → List Byte
  | _, x, [] => x
  | j, x, b :: r => macBlocks key (j + 1) (aesEnc (key j) (xorBytes x b)) r

/-- AES-CMAC (SP 800-38B), 16 bytes; the subkeys come from the key of the last block. -/
def cmacOver (key : Nat → List Byte) (msg : List Byte) : List Byte :=
  let cs := chunks 16 msg
  let l := aesEnc (key (cs.length - 1)) (List.replicate 16 0)
  let k1 := cmacDouble l
  let k2 := cmacDouble k1
  let last := cs.getLastD []
  let m := if last.length = 16 then xorBytes last k1
    else xorBytes (last ++ [0x80] ++ List.replicate (15 - last.length) 0) k2
  macBlocks key 0 (List.replicate 16 0) (cs.dropLast ++ [m])

/-- AES-CMAC under one key. -/
def cmac (key msg : List Byte) : List Byte := cmacOver (fun _ => key) msg

/-- Padding with zeros to whole blocks. -/
def zeroPad (bs : List Byte) : List Byte := bs ++ List.replicate ((16 - bs.length % 16) % 16) 0

/-- The formatted associated data of CCM, whole blocks (SP 800-38C). -/
def ccmAad (ad : List Byte) : List Byte := if ad.isEmpty then [] else zeroPad (beBytes 2 ad.length ++ ad)

/-- The formatted input of CCM: block 0, associated data, payload. -/
def ccmInput (nonce ad payload : List Byte) (tlen : Nat) : List Byte :=
  let q := 15 - nonce.length
  let flags := (if ad.isEmpty then 0 else 64) + 8 * ((tlen - 2) / 2) + (q - 1)
  BitVec.ofNat 8 flags :: nonce ++ beBytes q payload.length ++ ccmAad ad ++ zeroPad payload

/-- The CCM counter block of index i. -/
def ccmCtr (nonce : List Byte) (i : Nat) : List Byte :=
  let q := 15 - nonce.length
  BitVec.ofNat 8 (q - 1) :: nonce ++ beBytes q i

/-- The payload of CCM under its counter blocks, `base` formatted blocks before it. -/
def ccmCrypt (key : Nat → List Byte) (base : Nat) (nonce payload : List Byte) : List Byte :=
  let cs := chunks 16 payload
  ((List.range cs.length).map fun j => xorBytes (cs.getD j []) (aesEnc (key (base + j)) (ccmCtr nonce (j + 1)))).flatten

/-- CCM encryption of a payload: ciphertext, then tag. Block j is the j-th of the formatted input. -/
def ccmEnc (key : Nat → List Byte) (nonce ad payload : List Byte) (tlen : Nat) : List Byte :=
  let bs := chunks 16 (ccmInput nonce ad payload tlen)
  let c := ccmCrypt key (1 + (ccmAad ad).length / 16) nonce payload
  c ++ xorBytes ((macBlocks key 0 (List.replicate 16 0) bs).take tlen) (aesEnc (key (bs.length - 1)) (ccmCtr nonce 0))

/-- CCM decryption: the payload, and whether the tag verifies. -/
def ccmDec (key nonce ad c tag : List Byte) : List Byte × Bool :=
  let p := ccmCrypt (fun _ => key) 0 nonce c
  let m := (macBlocks (fun _ => key) 0 (List.replicate 16 0) (chunks 16 (ccmInput nonce ad p tag.length))).take tag.length
  (p, xorBytes m (aesEnc key (ccmCtr nonce 0)) == tag)

/-! ## Key derivation (R313) -/

/-- The key of `bits` bits that a root and a 64-byte label give. -/
def deriveKey (root label : List Byte) (bits : Nat) : List Byte :=
  let k := fun i => cmac root (beBytes 4 i ++ label ++ [0] ++ beBytes 4 bits)
  (k 1 ++ (if 128 < bits then k 2 else [])).take (bits / 8)

end Sys2Proof.Machine
end

