-- ==== Sys2Proof/Machine/Sha.lean ====
section
/-!
DEFINITION. The digests the lanes compute (R320): SHA-256, SHA-384, SHA-512 (FIPS 180-4) and SHA3-256 (FIPS 202), as the
standards define them (log 23); the checksums CRC-32C and CRC-32 used by media, links and stored objects.
-/

namespace Sys2Proof.Machine

/-! ## Constants from primes -/

/-- Whether a number is prime, by trial division. -/
def isPrime (n : Nat) : Bool := decide (2 ≤ n) && (List.range n).all fun d => decide (d < 2) || n % d != 0

/-- The first eighty primes (the last is 409). -/
def primes : List Nat := (List.range 410).filter isPrime

/-- The largest x with x^e ≤ n and x < 2^k, by bits from the top. -/
def rootFloor (e n : Nat) : Nat → Nat → Nat
  | 0, x => x
  | k + 1, x => rootFloor e n k (if (x + 2 ^ k) ^ e ≤ n then x + 2 ^ k else x)

/-- The first `w` fractional bits of the square root of p. -/
def sqrtFrac (w p : Nat) : Nat := rootFloor 2 (p * 2 ^ (2 * w)) (w + 5) 0 % 2 ^ w

/-- The first `w` fractional bits of the cube root of p. -/
def cbrtFrac (w p : Nat) : Nat := rootFloor 3 (p * 2 ^ (3 * w)) (w + 4) 0 % 2 ^ w

/-! ## SHA-2 over words of w bits -/

/-- The rotation and shift amounts of a SHA-2 width: Σ0, Σ1, σ0, σ1 (the last entry of σ is a shift). -/
structure Sha2 (w : Nat) where
  s0 : Nat × Nat × Nat
  s1 : Nat × Nat × Nat
  g0 : Nat × Nat × Nat
  g1 : Nat × Nat × Nat
  rounds : Nat

def sha2w32 : Sha2 32 := ⟨(2, 13, 22), (6, 11, 25), (7, 18, 3), (17, 19, 10), 64⟩
def sha2w64 : Sha2 64 := ⟨(28, 34, 39), (14, 18, 41), (1, 8, 7), (19, 61, 6), 80⟩

/-- Three rotations combined. -/
def rot3 {w : Nat} (x : BitVec w) (r : Nat × Nat × Nat) : BitVec w :=
  x.rotateRight r.1 ^^^ x.rotateRight r.2.1 ^^^ x.rotateRight r.2.2

/-- Two rotations and a shift combined. -/
def rot2 {w : Nat} (x : BitVec w) (r : Nat × Nat × Nat) : BitVec w :=
  x.rotateRight r.1 ^^^ x.rotateRight r.2.1 ^^^ (x >>> r.2.2)

/-- The message schedule, newest first; `n` words still to make. -/
def sha2Sched {w : Nat} (p : Sha2 w) : Nat → List (BitVec w) → List (BitVec w)
  | 0, ws => ws.reverse
  | n + 1, ws =>
    sha2Sched p n ((rot2 (ws.getD 1 0) p.g1 + ws.getD 6 0 + rot2 (ws.getD 14 0) p.g0 + ws.getD 15 0) :: ws)

/-- The rounds over pairs of schedule word and constant. -/
def sha2Rounds {w : Nat} (p : Sha2 w) : List (BitVec w × BitVec w) → List (BitVec w) → List (BitVec w)
  | [], v => v
  | (x, k) :: r, v =>
    match v with
    | [a, b, c, d, e, f, g, h] =>
      let t1 := h + rot3 e p.s1 + ((e &&& f) ^^^ (~~~e &&& g)) + k + x
      let t2 := rot3 a p.s0 + ((a &&& b) ^^^ (a &&& c) ^^^ (b &&& c))
      sha2Rounds p r [t1 + t2, a, b, c, d + t1, e, f, g]
    | v => v

/-- One block into a state of eight words. -/
def sha2Block {w : Nat} (p : Sha2 w) (st : List (BitVec w)) (blk : List Byte) : List (BitVec w) :=
  let ws := (chunks (w / 8) blk).map fun b => BitVec.ofNat w (beNat b)
  let ks := (primes.take p.rounds).map fun q => BitVec.ofNat w (cbrtFrac w q)
  let v := sha2Rounds p ((sha2Sched p (p.rounds - 16) ws.reverse).zip ks) st
  st.zipWith (· + ·) v

/-! ## SHA-3 -/

/-- The rotation offset of lane (x, y), by the walk of FIPS 202. -/
def keccakRot (x y : Nat) : Nat :=
  ((List.range 24).foldl (fun (a : Nat × Nat × Nat) t =>
    let (cx, cy, r) := a
    (cy, (2 * cx + 3 * cy) % 5, if cx = x ∧ cy = y then (t + 1) * (t + 2) / 2 % 64 else r)) (1, 0, 0)).2.2

/-- The bit stream of the round constants: an 8-bit shift register, `t` steps from 1. -/
def keccakBit (t : Nat) : Bool :=
  ((List.range (t % 255)).foldl (fun (r : Nat) _ => if 128 ≤ r then (2 * r) % 256 ^^^ 0x71 else 2 * r) 1) % 2 = 1

/-- The constant of a round. -/
def keccakRc (i : Nat) : BitVec 64 :=
  (List.range 7).foldl (fun a j => if keccakBit (j + 7 * i) then a ||| BitVec.ofNat 64 (2 ^ (2 ^ j - 1)) else a) 0

/-- One round on 25 lanes, lane (x, y) at x + 5y. -/
def keccakRound (a : List (BitVec 64)) (i : Nat) : List (BitVec 64) :=
  let at2 := fun (l : List (BitVec 64)) (x y : Nat) => l.getD (x % 5 + 5 * (y % 5)) 0
  let c := (List.range 5).map fun x => (List.range 5).foldl (fun v y => v ^^^ at2 a x y) 0
  let d := (List.range 5).map fun x => c.getD ((x + 4) % 5) 0 ^^^ (c.getD ((x + 1) % 5) 0).rotateLeft 1
  let th := (List.range 25).map fun k => a.getD k 0 ^^^ d.getD (k % 5) 0
  let b := (List.range 25).map fun k =>
    let x := k % 5
    let y := k / 5
    let sx := (x + 3 * y) % 5
    (at2 th sx x).rotateLeft (keccakRot sx x)
  let ch := (List.range 25).map fun k => b.getD k 0 ^^^ (~~~(at2 b (k % 5 + 1) (k / 5)) &&& at2 b (k % 5 + 2) (k / 5))
  match ch with
  | h :: r => (h ^^^ keccakRc i) :: r
  | [] => []

/-- Absorbing one block of 136 bytes into a state of 200 bytes. -/
def sha3Block (st blk : List Byte) : List Byte :=
  let full := xorBytes st (blk ++ List.replicate 64 0)
  let lanes := (chunks 8 full).map fun b => BitVec.ofNat 64 (beNat b.reverse)
  let out := (List.range 24).foldl keccakRound lanes
  (out.map fun l => (beBytes 8 l.toNat).reverse).flatten

/-! ## The four algorithms of a digest lane -/

/-- The block of an algorithm in bytes: 0 SHA-256, 1 SHA-384, 2 SHA-512, 3 SHA3-256. -/
def digBlock (alg : Nat) : Nat := match alg with | 0 => 64 | 3 => 136 | _ => 128

/-- The bytes of state an algorithm saves. -/
def digState (alg : Nat) : Nat := match alg with | 0 => 32 | 3 => 200 | _ => 64

/-- The bytes of a digest. -/
def digLen (alg : Nat) : Nat := match alg with | 1 => 48 | 2 => 64 | _ => 32

/-- The initial state as bytes in the algorithm's standard byte order. -/
def digInit (alg : Nat) : List Byte :=
  match alg with
  | 0 => ((primes.take 8).map fun p => beBytes 4 (sqrtFrac 32 p)).flatten
  | 1 => (((primes.drop 8).take 8).map fun p => beBytes 8 (sqrtFrac 64 p)).flatten
  | 2 => ((primes.take 8).map fun p => beBytes 8 (sqrtFrac 64 p)).flatten
  | _ => List.replicate 200 0

/-- One block into a state given as bytes. -/
def digStep (alg : Nat) (st blk : List Byte) : List Byte :=
  match alg with
  | 0 => ((sha2Block sha2w32 ((chunks 4 st).map fun b => BitVec.ofNat 32 (beNat b)) blk).map fun v => beBytes 4 v.toNat).flatten
  | 3 => sha3Block st blk
  | _ => ((sha2Block sha2w64 ((chunks 8 st).map fun b => BitVec.ofNat 64 (beNat b)) blk).map fun v => beBytes 8 v.toNat).flatten

/-- Whole blocks into a state. -/
def digAbsorb (alg : Nat) (st data : List Byte) : List Byte := (chunks (digBlock alg) data).foldl (digStep alg) st

/-- The padding after the last bytes of a message of `total` bytes. -/
def digPad (alg total : Nat) : List Byte :=
  let b := digBlock alg
  if alg = 3 then
    let n := b - total % b
    if n = 1 then [0x86] else [0x06] ++ List.replicate (n - 2) 0 ++ [0x80]
  else
    let l := if alg = 0 then 8 else 16
    [0x80] ++ List.replicate ((2 * b - 1 - l - total % b) % b) 0 ++ beBytes l (8 * total)

/-- The digest of a message that ends with `data` after `before` bytes absorbed into `st`. -/
def digFinish (alg : Nat) (st data : List Byte) (before : Nat) : List Byte :=
  (digAbsorb alg st (data ++ digPad alg (before + data.length))).take (digLen alg)

/-- The digest of a whole message. -/
def digest (alg : Nat) (msg : List Byte) : List Byte := digFinish alg (digInit alg) msg 0

/-! ## Checksums -/

/-- A reflected CRC of 32 bits with initial value and final inversion. -/
def crcRefl (poly : BitVec 32) (bs : List Byte) : BitVec 32 :=
  ~~~(bs.foldl (fun (c : BitVec 32) b =>
    (List.range 8).foldl (fun (c : BitVec 32) _ => if c.getLsbD 0 then (c >>> 1) ^^^ poly else c >>> 1)
      (c ^^^ b.setWidth 32)) 0xFFFFFFFF)

/-- CRC-32C (Castagnoli). -/
def crc32c (bs : List Byte) : BitVec 32 := crcRefl 0x82F63B78 bs

/-- CRC-32 of IEEE 802.3. -/
def crc32 (bs : List Byte) : BitVec 32 := crcRefl 0xEDB88320 bs

end Sys2Proof.Machine
end

