-- ==== Sys2Proof/Machine/Streams.lean ====
section
/-!
DEFINITION. Mesh nodes and the route rule (R180, R182), stream buffers and the counts of the stream unit (R128, R167, R185 to R188): positions,
delivery, draining, releasing and publishing.
-/

namespace Sys2Proof.Machine

/-! ## Nodes and routes (R180, R182) -/

/-- Whether a node ID names an endpoint. -/
def nodeUsed (n : Nat) : Bool :=
  decide (n < 40) || decide (0x40 ≤ n ∧ n ≤ 0x54) || decide (0x58 ≤ n ∧ n ≤ 0x5C)

/-- The ALLOW bit of a node's group (FAB_RENT). -/
def nodeGroup (n : Nat) : Nat :=
  if n < 40 then 0
  else if n < 0x50 then 1
  else if n = 0x50 then 2
  else if n = 0x51 then 3
  else if n = 0x52 then 4
  else if n = 0x53 then 5
  else if 0x58 ≤ n ∧ n ≤ 0x5B then 6
  else 7

/-- Which destinations accept a KIND other than stream data (log 26). -/
def nodeAccepts (n kind : Nat) : Bool :=
  match kind with
  | 0 => true
  | 1 => decide (n ≤ 0x53)
  | 2 | 4 => n == 0x54 || decide (0x58 ≤ n ∧ n ≤ 0x5C)
  | 3 => decide (n < 40) || decide (0x50 ≤ n ∧ n ≤ 0x54)
  | 5 => n == 0x51 || n == 0x52
  | 6 => decide (n < 40)
  | _ => decide (n < 40) || n == 0x54

/-- The route rule: a source cell's ALLOW admits the group of a used node, and the destination accepts the KIND. -/
def State.routes (s : State) (f : Flit) : Bool :=
  nodeUsed f.dst && nodeAccepts f.dst f.kind &&
    (decide (40 ≤ f.src) || ((s.fabric.roles.getD f.src { role := 0, fn := 0, slot := 0, allow := 0 }).allow).testBit (nodeGroup f.dst))

/-- A flit dropped by the route rule (R182). -/
def State.routeDrop (s : State) : State := (s.count 0x70 2 1).raise 0x70 3

/-- A flit that reaches its destination, or is dropped; a mesh without power carries none. -/
def State.onMesh (s : State) (f : Flit) (go : State → State) : State :=
  if !s.pageOn 0x70 then s else if s.routes f then go s else s.routeDrop

/-- The role-table entry of a cell (R191). -/
def State.role (s : State) (c : CellId) : Role := s.fabric.roles.getD c.val { role := 0, fn := 0, slot := 0, allow := 0 }

/-- Whether the mesh carries a cell's access to a node: the role table allows the group of the node (R182). Cell 40 is not on the
mesh, and without power for the mesh reaches the always-on pages alone (R180). -/
def State.cellRoute (s : State) (c : CellId) (node : Nat) : Bool := c.val == 40 || ((s.role c).allow).testBit (nodeGroup node)

/-! ## Stream buffers -/

/-- The bytes of a stream buffer. -/
abbrev sbSize : Nat := 262144

/-- The slot that serves a stream buffer; a buffer that does not exist has a slot that runs nothing (R136). -/
def Cell.su (k : Cell) (unit : Nat) : SuSlot := if unit = 0 then k.su0 else if unit = 1 then k.su1 else .idle

/-- Changing the slot of a stream buffer. -/
def State.modSu (s : State) (c : CellId) (unit : Nat) (f : SuSlot → SuSlot) : State :=
  s.modCell c fun k => if unit = 0 then { k with su0 := f k.su0 } else if unit = 1 then { k with su1 := f k.su1 } else k

/-- The position an offset stands for, from c or u (R167). -/
def posOf (c off : Nat) : Nat := c + (off + sbSize - c % sbSize) % sbSize

/-- A buffer. -/
def Cell.sb (k : Cell) (unit : Nat) : SMap Byte := if unit = 0 then k.sb0 else k.sb1

/-- Changing a buffer. -/
def State.modSb (s : State) (c : CellId) (unit : Nat) (f : SMap Byte → SMap Byte) : State :=
  s.modCell c fun k => if unit = 0 then { k with sb0 := f k.sb0 } else { k with sb1 := f k.sb1 }

/-- The array code of a buffer (R359). -/
def sbArray (unit : Nat) : Nat := 2 + unit % 2

/-- Reading `n` bytes of a buffer from an offset, wrapping: none when some 64-bit block is uncorrectable (R129, R356). -/
def State.readSb (s : State) (c : CellId) (unit off n : Nat) : Option (List Byte) × State :=
  (List.range n).foldl (fun (acc : Option (List Byte) × State) j =>
    let o := (off + j) % sbSize
    match acc.2.readProt (celPage c) (sbArray unit) (o / 8) 8 8 with
    | (none, s) => (none, s)
    | (some e, s) =>
      (acc.1.map fun bs => bs ++ [byteAt ((s.cell c).sb unit) o ^^^ BitVec.ofNat 8 (e / 2 ^ (8 * (o % 8)))], s)) (some [], s)

/-- Writing bytes into a buffer from an offset, wrapping: a block written whole takes fresh check bits, others are merged
(R358). -/
def State.writeSb (s : State) (c : CellId) (unit off : Nat) (bs : List Byte) : State :=
  let blocks := ((List.range bs.length).map fun j => (off + j) % sbSize / 8).eraseDups
  let s := blocks.foldl (fun s b =>
    let hit := (List.range 8).filter fun k => decide ((8 * b + k + sbSize - off % sbSize) % sbSize < bs.length)
    if hit.length = 8 then s.freshProt (celPage c) (sbArray unit) b
    else s.mergeProt (celPage c) (sbArray unit) b 8 8 (hit.foldl (fun a k => a + 255 * 256 ^ k) 0)) s
  s.modSb c unit fun m =>
    (List.range bs.length).foldl (fun m j => m.set (fun _ => 0) ((off + j) % sbSize) (bs.getD j 0)) m

/-- Marking the 64-bit blocks of a range of positions uncorrectable (R186): two row checks turned. -/
def State.poisonSb (s : State) (c : CellId) (unit off n : Nat) : State :=
  let blocks := ((List.range n).map fun j => (off + j) % sbSize / 8).eraseDups
  { s with upsets := blocks.foldl (fun m b =>
      m.set (fun _ => 0) (upKey (celPage c) (sbArray unit) b) (3 * 2 ^ 64)) s.upsets }

/-- A stream-unit slot's counts as SU_CNT and SU_XFR show them are c or u, and d or r; the slot is done when it has moved
LENGTH in full (SU_STAT). -/
def SuSlot.close (q : SuSlot) : SuSlot :=
  if q.active && decide (q.length ≤ q.d) then { q with done := true, active := false } else q

/-! ## The input of executions (R108, R186, R188) -/

/-- The descriptor that holds a position of a concatenation, and the offset in it; lengths in bytes (R108). -/
def rangeAt : List RangeDesc → Nat → Option (RangeDesc × Nat)
  | [], _ => none
  | d :: r, p =>
    let n := if d.ns then 4096 * d.length else d.length
    if p < n then some (d, p) else rangeAt r (p - n)

/-- The DRAM address of an SLM namespace's first byte. -/
def State.slmBase (s : State) (n : Nat) : Nat := match s.host.nss.find? fun x => x.nsid == n with
  | some x => x.base
  | none => 0

/-- The execution that runs on a cell. -/
def State.execOn (s : State) (c : CellId) : Option ExecRec := s.prog.execs.find? fun e => e.cell == c.val && e.step == 1

/-- Whether an index is one of a built-in program. -/
def isBuiltin (i : Nat) : Bool := decide (1 ≤ i ∧ i ≤ 10)

/-- Where DRAM holds the next byte of an input slot, and how many bytes follow it in one range: the range of OP 2, or in an execution the SLM
range that the position lies in (R186, R188). None where the input comes as flits. -/
def State.inputAddr (s : State) (c : CellId) (unit : Nat) : Option (Nat × Nat) :=
  let q := (s.cell c).su unit
  match if unit = 0 then s.execOn c else none with
  | none => if q.op = 2 then some (q.addr + q.d, q.length - q.d) else none
  | some e =>
    if isBuiltin e.pind then none
    else match rangeAt e.inputs q.d with
      | some (d, off) => if d.ns then none else some (s.slmBase d.nsid + d.start + off, d.length - off)
      | none => none

/-- Pieces of up to 64 bytes fetched from DRAM, up to the window and the length; a region that is not filled yet is waited for (R361). What the
cell's router drops does not come (R182; log 116). -/
def State.fetchPieces (s : State) (c : CellId) (unit : Nat) : Nat → State
  | 0 => s
  | f + 1 =>
    let q := (s.cell c).su unit
    match s.inputAddr c unit with
    | none => s
    | some (a, left) =>
      let n := min (min 64 left) (min q.length (q.c + sbSize) - q.d)
      if !q.active || q.err || n == 0 then s
      else if !s.rangeFilled a n then s.awaitFill a n
      else if !s.cellRoute c 0x58 then s.routeDrop
      else
        let ((bs, bad), s) := s.peek a n
        let s := s.writeSb c unit q.d bs
        let s := if bad then (s.poisonSb c unit q.d n).blockError (celPage c) 0x17 else s
        (s.modSu c unit fun q => { q with d := q.d + n }.close).fetchPieces c unit f

/-- A slot fetches ahead from DRAM (R186). In an execution the slot runs as OP 2 while its position lies in SLM, else as OP 1 (R188). -/
def State.fetchAhead (s : State) (c : CellId) (unit : Nat) : State :=
  let s := s.fetchPieces c unit 8192
  match if unit = 0 then s.execOn c else none with
  | none => s
  | some _ => s.modSu c 0 fun q => { q with op := if (s.inputAddr c 0).isSome then 2 else 1 }

/-- The credit a release sends to the source of an OP 1 stream: KIND 1, POS the count ÷ 64, GEN that of a source cell (R184,
R186). -/
def State.sendCredit (s : State) (c : CellId) (unit : Nat) : State :=
  let q := (s.cell c).su unit
  if (q.active || q.done) && q.op == 1 then
    let gen := if q.peer < 40 then (s.cell (Fin.ofNat 41 q.peer)).run.gen.toNat else 0
    let f : Flit := { dst := q.peer, src := c.val, cls := q.cls, kind := 1, sid := q.sid, gen := gen, pos := q.c / 64, nb := 0, last := false,
                      pois := false, aux := 0, payload := [] }
    s.onMesh f fun s => s.emit (.flit f.dst f.src f.cls 1 f.sid f.gen f.pos false false [])
  else s

/-- Releasing bytes of an input stream: c advances, what lies in DRAM is fetched ahead, and a credit goes out (R168, R186). -/
def State.releaseIn (s : State) (c : CellId) (unit n : Nat) : State :=
  ((s.modSu c unit fun q => { q with c := q.c + n }).fetchAhead c unit).sendCredit c unit

/-- Publishing bytes of an output stream (R168). -/
def State.publish (s : State) (c : CellId) (unit n : Nat) : State := s.modSu c unit fun q => { q with c := q.c + n }

/-- Whether every position of a range has been delivered. -/
def SuSlot.ready (q : SuSlot) (p n : Nat) : Bool := decide (p + n ≤ q.d)

/-- Bytes an engine reads from a handle's buffer by offset. -/
def State.engineRead (s : State) (c : CellId) (unit off n : Nat) : Option (List Byte) × State := s.readSb c unit off n

end Sys2Proof.Machine
end

