-- ==== Sys2Proof/Machine/Engines.lean ====
section
/-!
DEFINITION. What the engines behind the job ports make of a descriptor at submission (R169, R170, R190, R295, R296, R326,
R328, R329), and which stream handles a running job holds.
-/

namespace Sys2Proof.Machine

/-- Whether a cell is a compute cell. -/
def State.isCompute (s : State) (c : CellId) : Bool := (s.role c).role == 6

/-- A descriptor word. -/
def Job.word (j : Job) (k : Nat) : Word := (j.words.getD k .void).val

/-- The stream slot a HANDLE word names. -/
def State.suOf (s : State) (c : CellId) (h : Word) : SuSlot := (s.cell c).su (hUnit h)

/-- Bytes of input left in the stream an input HANDLE names. -/
def State.inLeft (s : State) (c : CellId) (h : Word) : Nat := (s.suOf c h).length - (s.suOf c h).c

/-- Bytes of output left under the bound of the stream an output HANDLE names. -/
def State.outLeft (s : State) (c : CellId) (h : Word) : Nat := (s.suOf c h).length - (s.suOf c h).c

/-! ## Search (R287, R295, R296) -/

/-- SRB_CTRL of a bank: FUNC, FW, MODE. -/
def State.bankFunc (s : State) (b : Nat) : Nat := s.field? (SRB_CTRL b) 3 0
def State.bankFw (s : State) (b : Nat) : Bool := s.regBit (SRB_CTRL b) 4
def State.bankMode (s : State) (b : Nat) : Nat := s.field? (SRB_CTRL b) 6 5

/-- Whether a cell may name a bank (R287). -/
def State.mayName (s : State) (c : CellId) (b : Nat) : Bool :=
  s.bankMode b == 1 && (!s.isCompute c || (!s.bankFw b && s.bankFunc b == (s.role c).fn))

/-- The banks of a mask, ascending. -/
def maskBanks (m : Nat) : List Nat := (List.range 16).filter fun b => m.testBit b

/-- The words of a search descriptor by OP. -/
def searchLen (op : Nat) : Nat := match op with | 1 => 8 | 2 => 5 | 3 => 13 | 4 => 12 | 5 => 13 | _ => 0

/-- The refusal of a search descriptor at submission: none when it is taken. -/
def searchRefusal (s : State) (c : CellId) (j : Job) : Option Nat :=
  let w := j.word 0
  let op := bits w 2 0
  let mask := bits w 19 4
  if j.words.length < 5 ∨ 13 < j.words.length then some 4
  else if op = 0 ∨ 6 ≤ op ∨ bit w 3 = true ∨ bits w 31 24 ≠ 0 ∨ ((op = 2 ∨ op = 5) ∧ mask ≠ 0) ∨
      (op ≠ 5 ∧ bits w 23 20 ≠ 0) then some 0x10
  else if j.words.length ≠ searchLen op then some 4
  else if (op = 1 ∨ op = 3 ∨ op = 4) ∧ bits (j.word 5) 31 16 ≠ 0 ∨ (op = 3 ∨ op = 4) ∧ bits (j.word 10) 31 16 ≠ 0 then
    some 0x11
  else if (op = 3 ∨ op = 4) ∧ (maskBanks mask).any (fun b => !s.mayName c b) = true ∨
      op = 5 ∧ (s.mayName c (bits w 23 20) = false ∨ 8191 < (j.word 1).toNat) then some 0x12
  else if op = 2 then
    if hUnit (j.word 1) = hUnit (j.word 2) ∨ hKind (j.word 1) ≠ 1 ∨ hKind (j.word 2) ≠ 2 then some 0x14
    else if (j.word 3).toNat = 0 ∨ s.inLeft c (j.word 1) < 24 * (j.word 3).toNat ∨
        s.outLeft c (j.word 2) < 8 * (j.word 3).toNat then some 0x13
    else none
  else none

/-! ## Codec (R190) -/

/-- The refusal of a codec descriptor at submission. -/
def codecRefusal (s : State) (c : CellId) (unit : Nat) (j : Job) : Option Nat :=
  let op := j.word 0
  if j.words.length ≠ 7 then some 4
  else if bits op 31 3 ≠ 0 ∨ bits op 2 1 = 3 then some 0x10
  else if (j.word 3).toNat = 0 ∨ 2 ^ 31 < (j.word 3).toNat ∨ (j.word 4).toNat = 0 ∨ 2 ^ 31 < (j.word 4).toNat then some 0x11
  else if hUnit (j.word 1) = hUnit (j.word 2) ∨ hKind (j.word 1) ≠ 1 ∨ hKind (j.word 2) ≠ 2 then some 0x12
  else if s.inLeft c (j.word 1) < (j.word 3).toNat ∨ s.outLeft c (j.word 2) < (j.word 4).toNat then some 0x13
  else if bit op 0 = false ∧ s.field? (CDC_CTRL unit) 31 16 = 0 then some 0x14
  else none

/-! ## Cipher (R306, R326, R329) -/

/-- The fields of a cipher descriptor's CTRL. -/
def Job.mode (j : Job) : Nat := bits (j.word 0) 2 0
def Job.decrypt (j : Job) : Bool := bit (j.word 0) 3
def Job.tlen (j : Job) : Nat := bits (j.word 0) 8 4
def Job.nlen (j : Job) : Nat := bits (j.word 0) 12 9
def Job.rlen (j : Job) : Nat := bits (j.word 0) 31 16

/-- The width CTR increments. -/
def Job.ctrw (j : Job) : Nat := match bits (j.word 0) 14 13 with | 0 => 8 | 1 => 32 | 2 => 64 | _ => 128

/-- The sixteen bytes of words 8 to 11. -/
def Job.iv (j : Job) : List Byte := wordBytes (j.word 8) ++ wordBytes (j.word 9) ++ wordBytes (j.word 10) ++ wordBytes (j.word 11)

/-- The epoch of a slot's label, bytes 4 to 7, and its PURPOSE. -/
def KeySlot.epoch (k : KeySlot) : Word := k.label.extractLsb' 32 32
def KeySlot.purpose (k : KeySlot) : Nat := (k.label.extractLsb' 0 8).toNat

/-- A key slot. -/
def State.key (s : State) (n : Nat) : KeySlot := s.crypto.slots.getD n .empty

/-- Bytes the source of a cipher job covers: associated data, payload, and the tag a verification reads. -/
def Job.srcLen (j : Job) : Nat :=
  (j.word 4).toNat + (j.word 5).toNat + (if j.decrypt && (j.mode == 4 || (j.mode == 5 && j.rlen == 0)) then j.tlen else 0)

/-- Bytes the destination of a cipher job covers. -/
def Job.dstLen (j : Job) : Nat :=
  let len := (j.word 5).toNat
  match j.mode with
  | 4 => if j.decrypt then len else len + j.tlen
  | 5 => if j.decrypt then 0 else if j.rlen = 0 then j.tlen else 32 * (len / (4 * j.rlen))
  | _ => len

/-- Whether a range that starts at an offset lies in the input stream, or under the output bound (R167). -/
def inRange (q : SuSlot) (off n : Nat) : Bool := decide (off < sbSize ∧ n ≤ sbSize ∧ posOf q.c off + n ≤ q.length)

/-- Whether two ranges of one buffer, both taken modulo its size, meet. -/
def rangesMeet (a n b m : Nat) : Bool :=
  decide (0 < n ∧ 0 < m) && (decide ((b + sbSize - a % sbSize) % sbSize < n) || decide ((a + sbSize - b % sbSize) % sbSize < m))

/-- The refusal of a cipher descriptor at submission. -/
def cipherRefusal (s : State) (c : CellId) (unit : Nat) (j : Job) : Option Nat :=
  let m := j.mode
  let len := (j.word 5).toNat
  let alen := (j.word 4).toNat
  let slot := s.key (bits (j.word 1) 5 0)
  let lim := s.reg (CIP_CCMLIM unit)
  let src := j.word 2
  let dst := j.word 6
  let ep := j.word 12
  if j.words.length ≠ 16 then some 4
  else if m = 0 ∨ 6 ≤ m ∨ bit (j.word 0) 15 = true ∨ (m ≠ 4 ∧ m ≠ 5 ∧ j.tlen ≠ 0) ∨ (m ≠ 4 ∧ j.nlen ≠ 0) ∨
      (m = 4 ∧ (j.tlen % 2 = 1 ∨ j.tlen < 4 ∨ 16 < j.tlen ∨ j.nlen < 7 ∨ 13 < j.nlen)) ∨
      (m = 5 ∧ (j.tlen < 8 ∨ 16 < j.tlen)) ∨ (j.rlen ≠ 0 ∧ (m ≠ 5 ∨ j.tlen ≠ 16)) ∨ (m ≠ 4 ∧ alen ≠ 0) ∨
      (m = 5 ∧ j.iv.any (· != 0) = true) ∨ (m = 4 ∧ (j.iv.drop j.nlen).any (· != 0) = true) then some 0x10
  else if ((m = 1 ∨ m = 3) ∧ len % 16 ≠ 0) ∨
      (m = 4 ∧ (bits lim 15 0 < alen ∨ bits lim 31 16 * 1024 < len ∨ 2 ^ (8 * (15 - j.nlen)) ≤ len)) ∨
      (m = 5 ∧ 2 ^ 31 ≤ len) ∨ (j.rlen ≠ 0 ∧ len % (4 * j.rlen) ≠ 0) ∨
      (m = 2 ∧ 2 ^ j.ctrw < beNat j.iv % 2 ^ j.ctrw + (len + 15) / 16) then some 0x11
  else if slot.valid = false ∨ (slot.fw = false ∧ slot.func ≠ (s.role c).fn) ∨
      (pmode (s.cell c) = true ∧ (slot.purpose = 1 ∨ slot.purpose = 4)) ∨
      (ep ≠ 0xFFFFFFFF ∧ (slot.epoch.toNat < ep.toNat ∨ (ep ≠ slot.epoch ∧ j.decrypt = false))) then some 0x12
  else if (hKind src ≠ 1 ∧ hKind src ≠ 2) ∨ hKind dst ≠ 2 ∨ (hKind src = 1 ∧ hUnit src = hUnit dst) ∨
      (hKind src = 1 ∧ inRange (s.suOf c src) (j.word 3).toNat j.srcLen = false) ∨
      (hKind src = 2 ∧ (sbSize ≤ (j.word 3).toNat ∨ sbSize < j.srcLen)) ∨
      inRange (s.suOf c dst) (j.word 7).toNat j.dstLen = false ∨
      (hKind src = 2 ∧ hUnit src = hUnit dst ∧ rangesMeet (j.word 3).toNat j.srcLen (j.word 7).toNat j.dstLen = true) then
    some 0x13
  else none

/-! ## Digest (R328, R329) -/

/-- The fields of a digest descriptor's CTRL. -/
def Job.alg (j : Job) : Nat := bits (j.word 0) 1 0
def Job.init (j : Job) : Bool := bit (j.word 0) 2
def Job.final (j : Job) : Bool := bit (j.word 0) 3
def Job.consume (j : Job) : Bool := bit (j.word 0) 4

/-- Message bytes before a digest job. -/
def Job.mlen (j : Job) : Nat := (j.word 4).toNat + 2 ^ 32 * (j.word 5).toNat

/-- The refusal of a digest descriptor at submission. -/
def digestRefusal (s : State) (c : CellId) (j : Job) : Option Nat :=
  let src := j.word 1
  let len := (j.word 3).toNat
  let b := digBlock j.alg
  if j.words.length ≠ 6 + (match j.alg with | 0 => 8 | 3 => 50 | _ => 16) then some 4
  else if bits (j.word 0) 31 5 ≠ 0 ∨ (j.consume = true ∧ (j.word 2).toNat ≠ 0) then some 0x10
  else if (j.final = false ∧ len % b ≠ 0) ∨ (j.init = false ∧ j.mlen % b ≠ 0) then some 0x11
  else if (j.consume = true ∧ hKind src ≠ 1) ∨ (j.consume = false ∧ hKind src ≠ 2) ∨
      (j.consume = true ∧ s.inLeft c src < len) ∨
      (j.consume = false ∧ (sbSize ≤ (j.word 2).toNat ∨ sbSize < len)) then some 0x13
  else none

/-! ## The ports together -/

/-- The refusal of a descriptor at a port of a KIND. -/
def engineRefusal (s : State) (c : CellId) (kind unit : Nat) (j : Job) : Option Nat :=
  match kind with
  | 3 => searchRefusal s c j
  | 4 => codecRefusal s c unit j
  | 5 => cipherRefusal s c unit j
  | _ => digestRefusal s c j

/-- What the layouts say of the tag of a descriptor word: a value, a HANDLE, a KEYREF, a word written back, which takes whatever the port
accepts, or one of any tag (R190, R295, R326, R328). -/
inductive WordUse where
  | value | handle | keyref | back | any
  deriving DecidableEq, Repr

def wordUse (kind k op : Nat) : WordUse :=
  match kind with
  | 3 => match op with
    | 1 => if 6 ≤ k then .back else .value
    | 2 => if k = 1 ∨ k = 2 then .handle else if k = 4 then .back else .value
    | 3 => if k = 12 then .back else .value
    | 4 => if k = 11 then .back else .value
    | 5 => if 2 ≤ k then .back else .value
    | _ => if k = 0 then .value else .back
  | 4 => if k = 1 ∨ k = 2 then .handle else if 5 ≤ k then .any else .value
  | 5 => if k = 1 then .keyref else if k = 2 ∨ k = 6 then .handle else if 13 ≤ k then .any else .value
  | _ => if k = 1 then .handle else .value

/-- Whether a port accepts a word (R169): INT, UNS, BYTES and TIME words as values, HANDLE words of KIND 1 or 2, and KEYREF words at KIND 5
and 6; a HANDLE and a KEYREF stand where the layout has them (log 115). -/
def acceptsWord (kind k op : Nat) (w : TWord) : Bool :=
  let value := isIdx w.tag || w.tag == tBytes || w.tag == tTime
  let handle := w.tag == tHandle && (hKind w.val == 1 || hKind w.val == 2)
  let key := w.tag == tKeyref && decide (5 ≤ kind)
  match wordUse kind k op with
  | .value => value
  | .handle => handle
  | .keyref => key
  | .back => value || handle || key
  | .any => true

/-- Whether a HANDLE or KEYREF word carries a GEN that is not current (R137). -/
def staleWord (k : Cell) (w : TWord) : Bool :=
  (w.tag == tHandle || w.tag == tKeyref) && hGen w.val != k.run.gen.toNat

/-- Whether the engine of a port accepts no job now, so that JOB stalls: the search engine in start-up (R302); a unit or
lane that is disabled or halted (CDC_CTRL, CIP_CTRL, DIG_CTRL; log 24). -/
def State.engineBusy (s : State) (kind unit : Nat) : Bool :=
  match kind with
  | 3 => s.regBit SRC_STAT 0
  | 4 => !s.regBit (CDC_CTRL unit) 0 || s.regBit (CDC_CTRL unit) 1
  | 5 => (List.range 16).all fun l => !s.regBit (CIP_CTRL l) 0 || s.regBit (CIP_CTRL l) 1
  | _ => !s.regBit (DIG_CTRL unit) 0

/-- Whether a port holds a job that has not ended: one that runs, or one stopped at its key limit (R169, R317). -/
def Port.occupied (p : Port) : Bool := match p.job with
  | some j => j.status.isNone || j.status == some 0x31
  | none => false

/-- The job of a cell's port that runs at its engine. -/
def State.running (s : State) (c : CellId) (p : Nat) : Option Job :=
  match ((s.cell c).ports.getD p .idle).job with
  | some j => if j.status.isNone && !j.lost then some j else none
  | none => none

/-- Whether a running job of the cell holds its input stream on a buffer (R190, R295, R328). -/
def State.heldIn (s : State) (c : CellId) (unit : Nat) : Bool :=
  (match s.running c 0 with | some j => bits (j.word 0) 2 0 == 2 && hUnit (j.word 1) == unit | none => false) ||
  (match s.running c 1 with | some j => hUnit (j.word 1) == unit | none => false) ||
  (match s.running c 3 with | some j => j.consume && hUnit (j.word 1) == unit | none => false)

/-- Whether a running job of the cell holds its output stream on a buffer. -/
def State.heldOut (s : State) (c : CellId) (unit : Nat) : Bool :=
  (match s.running c 0 with | some j => bits (j.word 0) 2 0 == 2 && hUnit (j.word 2) == unit | none => false) ||
  (match s.running c 1 with | some j => hUnit (j.word 2) == unit | none => false)

/-- The end of a cell's job: its status, delivered under SQ_DELAY of the engine's page (R463). -/
def State.endJob (s : State) (c : CellId) (p page status : Nat) : State := s.deliver page (.job c p status)

/-- Writing back words of a descriptor from word `k` on, tagged as given. -/
def State.writeBackWords (s : State) (c : CellId) (j : Job) (k : Nat) (ws : List TWord) : State :=
  (List.range ws.length).foldl (fun s i => s.writeDm c (j.base + k + i) (ws.getD i .void)) s

end Sys2Proof.Machine
end

