-- ==== Sys2Proof/Machine/CellMem.lean ====
section
/-!
DEFINITION. Data memory, the stack and the stream instructions of the cell core (R127, R128, R135, R137, R141, R165 to R168).
-/

namespace Sys2Proof.Machine

/-! ## Data memory -/

/-- A word as a move delivers it to a register: one with an uncorrectable error arrives as POISON without a trap (R159); a word that holds the
tag POISON traps, and RETADR in program mode raises TAG (R134). -/
def loadInto (c : CellId) (rd : Reg) (s : State) (a opnd : Nat) (k : State → Body) : Body :=
  match s.decodeDm c a with
  | (none, s') => k (s'.setW c rd ⟨tPoison, 0⟩)
  | (some w, s') =>
    if w.tag = tPoison then .fault 4 0 15 opnd
    else if w.tag = tRetadr ∧ pmode (s.cell c) = true then .fault 3 0 w.tag.toNat opnd
    else k (s'.setW c rd w)

/-- Whether a store may not replace what a word holds: RETADR in program mode (R135). -/
def guarded (c : CellId) (s : State) (a : Nat) : Bool :=
  pmode (s.cell c) && (s.readDm c a).1.tag == tRetadr

/-- A store of a register's word: its own tag, then the destination, then the bounds `ok` with DETAIL `det`. -/
def storeFrom (c : CellId) (w : TWord) (ok : Bool) (det a : Nat) (s : State) : Body :=
  need w 1 (movable (s.cell c))
    (if ok && guarded c s a then .fault 3 0 tRetadr.toNat 3
     else if !ok then .fault 5 det
     else .done (s.writeDm c a w))

/-- LD. -/
def execLd (i : Iss) (rd : Reg) (im : BitVec 5) (s : State) : Answer :=
  let w : IWord := majorWord 0x7 ((0 : BitVec 1) ++ rd ++ im)
  let a := (immOf i w).toNat
  s.issue i w fun s => if 32767 < a then .fault 5 (a % 65536) else loadInto i.cell rd s a 1 .done

/-- ST. -/
def execSt (i : Iss) (rs : Reg) (im : BitVec 5) (s : State) : Answer :=
  let w : IWord := majorWord 0x7 ((1 : BitVec 1) ++ rs ++ im)
  let a := (immOf i w).toNat
  s.issue i w fun s => storeFrom i.cell ((s.cell i.cell).reg rs) (decide (a ≤ 32767)) (a % 65536) a s

/-- The index register of MEMX and the offset register of STRM. -/
def idxReg (hi : Bool) : Reg := if hi then 15 else 14

/-- The word a PTR and an index name, if the PTR admits it (R137), and the index's low 16 bits. -/
def ptrAddr (p x : TWord) : Option Nat :=
  let a := (ptrBase p.val : Int) + intOf x
  if 0 ≤ intOf x ∧ a < ptrLimit p.val ∧ a < 32768 then some a.toNat else none

/-- LDX. -/
def execLdx (i : Iss) (rd rp : Reg) (hi : Bool) (s : State) : Answer :=
  s.issue i (majorWord 0x8 ((0 : BitVec 1) ++ rd ++ rp ++ bitOf hi)) fun s =>
    let k := s.cell i.cell
    let p := k.reg rp
    let x := k.reg (idxReg hi)
    need2 p (· == tPtr) x isIdx
      (match ptrAddr p x with
       | none => .fault 5 (bits x.val 15 0)
       | some a => loadInto i.cell rd s a 1 .done)

/-- STX: the PTR and its index are its second source. -/
def execStx (i : Iss) (rs rp : Reg) (hi : Bool) (s : State) : Answer :=
  s.issue i (majorWord 0x8 ((1 : BitVec 1) ++ rs ++ rp ++ bitOf hi)) fun s =>
    let k := s.cell i.cell
    let w := k.reg rs
    let p := k.reg rp
    let x := k.reg (idxReg hi)
    if w.tag = tPoison then .fault 4 0 15 1
    else if p.tag = tPoison ∨ x.tag = tPoison then .fault 4 0 15 2
    else if movable k w.tag = false then .fault 3 0 w.tag.toNat 1
    else if p.tag ≠ tPtr then .fault 3 0 p.tag.toNat 2
    else if isIdx x.tag = false then .fault 3 0 x.tag.toNat 2
    else match ptrAddr p x with
      | none => .fault 5 (bits x.val 15 0)
      | some a => storeFrom i.cell w true (bits x.val 15 0) a s

/-! ## The stack (R141, R166) -/

/-- The address a push writes: none when it raises STACK. -/
def pushAddr (k : Cell) : Option Nat :=
  let sp := k.sp.sp.toNat
  if sp = 0 ∨ sp - 1 < k.sp.splim.toNat ∨ 32767 < sp - 1 then none else some (sp - 1)

/-- Pushing a word. -/
def State.push (s : State) (c : CellId) (a : Nat) (w : TWord) : State :=
  (s.writeDm c a w).modCell c fun k => k.modSp fun p => { p with sp := BitVec.ofNat 16 a }

/-- PUSH: a move into data memory, so in program mode it may not replace a RETADR word (R134, R135; log 114). -/
def execPush (i : Iss) (r : Reg) (s : State) : Answer :=
  s.issue i (sysWord 0x08 r) fun s =>
    let k := s.cell i.cell
    need (k.reg r) 1 (movable k)
      (match pushAddr k with
       | none => .fault 6
       | some a => if guarded i.cell s a then .fault 3 0 tRetadr.toNat 3 else .done (s.push i.cell a (k.reg r)))

/-- Moving SP up past a popped word. -/
def State.popped (s : State) (c : CellId) : State := s.modCell c fun k => k.modSp fun p => { p with sp := p.sp + 1 }

/-- POP. -/
def execPop (i : Iss) (r : Reg) (s : State) : Answer :=
  s.issue i (sysWord 0x09 r) fun s =>
    let sp := (s.cell i.cell).sp.sp.toNat
    if 32768 ≤ sp then .fault 6 else loadInto i.cell r s sp 4 fun s => .done (s.popped i.cell)

/-- A RETADR word. -/
def retadr (pc : BitVec 14) : TWord := ⟨tRetadr, pc.setWidth 32⟩

/-- RET (R141): two cycles. -/
def execRet (i : Iss) (s : State) : Answer :=
  s.issue i (sysWord 0x05 0) fun s =>
    let sp := (s.cell i.cell).sp.sp.toNat
    if 32768 ≤ sp then .fault 6
    else
      let (w, s') := s.readDm i.cell sp
      if w.tag = tPoison then .fault 4 0 15 4
      else if w.tag = tRetadr then .ok (s'.popped i.cell) 2 (some (w.val.setWidth 14))
      else .fault 7 0 w.tag.toNat 4

/-- A call to a target: the word after the call is pushed. -/
def callBody (i : Iss) (target : BitVec 14) (s : State) : Body :=
  let k := s.cell i.cell
  match pushAddr k with
  | none => .fault 6
  | some a => .ok (s.push i.cell a (retadr (k.pc + BitVec.ofNat 14 (i.ext.length + 1)))) 2 (some target)

/-! ## Streams (R167, R168) -/

/-- The bytes of an access by its size code. -/
def sizeBytes (n : Fin 3) : Nat := 2 ^ n.val

/-- The handle register of STRM. -/
def whReg (wh : Fin 4) : Reg := BitVec.ofNat 4 wh.val

/-- A stream instruction word. -/
def strmWord (store : Bool) (size : Fin 3) (r : Reg) (wh : Fin 4) (hi : Bool) : IWord :=
  majorWord 0xA (bitOf store ++ BitVec.ofNat 2 size.val ++ r ++ BitVec.ofNat 2 wh.val ++ bitOf hi)

/-- Whether an offset lets an access of n bytes lie in the buffer. -/
def offOk (x : TWord) (n : Nat) : Bool := decide (0 ≤ intOf x ∧ intOf x + n ≤ sbSize)

/-- SLD: an input byte not yet delivered stalls; an uncorrectable block gives POISON (R128, R129). -/
def execSld (i : Iss) (size : Fin 3) (rd : Reg) (wh : Fin 4) (hi : Bool) (s : State) : Answer :=
  s.issue i (strmWord false size rd wh hi) fun s =>
    let c := i.cell
    let k := s.cell c
    let h := k.reg (whReg wh)
    let x := k.reg (idxReg hi)
    let n := sizeBytes size
    let q := k.su (hUnit h.val)
    let o := (intOf x).toNat
    let input := hKind h.val == 1
    let ps := (List.range n).map fun j => posOf q.c (o + j)
    need2 h (fun t => t == tHandle && decide (hKind h.val = 1 ∨ hKind h.val = 2)) x isIdx
      (if offOk x n = false ∨ (input = true ∧ ps.any (fun p => decide (q.length ≤ p)) = true) then .fault 5 (bits x.val 15 0)
       else if staleWord k h then .fault 12 2
       else if input && ps.any (fun p => decide (q.d ≤ p)) then .stall .input s
       else
         match s.readSb c (hUnit h.val) o n with
         | (none, s) => .done (s.setW c rd ⟨tPoison, 0⟩)
         | (some bs, s) => .done (s.setW c rd ⟨tBytes, BitVec.ofNat 32 (leNat bs)⟩))

/-- SST: space not yet drained stalls; a job that holds the output refuses (R167, R190). -/
def execSst (i : Iss) (size : Fin 3) (rs : Reg) (wh : Fin 4) (hi : Bool) (s : State) : Answer :=
  s.issue i (strmWord true size rs wh hi) fun s =>
    let c := i.cell
    let k := s.cell c
    let w := k.reg rs
    let h := k.reg (whReg wh)
    let x := k.reg (idxReg hi)
    let n := sizeBytes size
    let q := k.su (hUnit h.val)
    let o := (intOf x).toNat
    let ps := (List.range n).map fun j => posOf q.c (o + j)
    if w.tag = tPoison then .fault 4 0 15 1
    else if h.tag = tPoison ∨ x.tag = tPoison then .fault 4 0 15 2
    else if isOut w.tag = false then .fault 3 0 w.tag.toNat 1
    else if h.tag ≠ tHandle ∨ hKind h.val ≠ 2 then .fault 3 0 h.tag.toNat 2
    else if isIdx x.tag = false then .fault 3 0 x.tag.toNat 2
    else if offOk x n = false ∨ ps.any (fun p => decide (q.length ≤ p)) = true then .fault 5 (bits x.val 15 0)
    else if staleWord k h then .fault 12 2
    else if s.heldOut c (hUnit h.val) then .fault 12 5
    else if ps.any (fun p => decide (q.d + sbSize ≤ p)) then .stall .output s
    else .done (s.writeSb c (hUnit h.val) o ((wordBytes w.val).take n))

/-- SAVL: bytes delivered and not released, or space drained and not yet written past u. -/
def execSavl (i : Iss) (rd rs : Reg) (s : State) : Answer :=
  s.issue i (opWord 0x4 3 rd rs) fun s =>
    let k := s.cell i.cell
    let h := k.reg rs
    let q := k.su (hUnit h.val)
    need h 1 (fun t => t == tHandle && decide (hKind h.val = 1 ∨ hKind h.val = 2))
      (if staleWord k h then .fault 12 2
       else .done (s.setW i.cell rd (.uns (BitVec.ofNat 32 (if hKind h.val = 1 then q.d - q.c else q.d + sbSize - q.c)))))

/-- SREL: past the input length BOUNDS; past what is delivered it stalls. -/
def execSrel (i : Iss) (wh rs : Reg) (s : State) : Answer :=
  s.issue i (opWord 0xE 2 wh rs) fun s =>
    let c := i.cell
    let k := s.cell c
    let h := k.reg wh
    let x := k.reg rs
    let u := hUnit h.val
    let q := k.su u
    let n := x.val.toNat
    need2 h (fun t => t == tHandle && hKind h.val == 1) x isIdx
      (if q.length < q.c + n then .fault 5 (bits x.val 15 0)
       else if staleWord k h then .fault 12 2
       else if s.heldIn c u then .fault 12 5
       else if q.d < q.c + n then .stall .input s
       else .done (s.releaseIn c u n))

/-- SPUB: past the output bound BOUNDS. -/
def execSpub (i : Iss) (wh rs : Reg) (s : State) : Answer :=
  s.issue i (opWord 0xE 3 wh rs) fun s =>
    let c := i.cell
    let k := s.cell c
    let h := k.reg wh
    let x := k.reg rs
    let u := hUnit h.val
    let q := k.su u
    let n := x.val.toNat
    need2 h (fun t => t == tHandle && hKind h.val == 2) x isIdx
      (if q.length < q.c + n then .fault 5 (bits x.val 15 0)
       else if staleWord k h then .fault 12 2
       else if s.heldOut c u then .fault 12 5
       else .done (s.publish c u n))

/-! ## Job ports (R169, R170) -/

/-- GETP: two cycles. -/
def execGetp (i : Iss) (r : Reg) (s : State) : Answer :=
  s.issue i (sysWord 0x1A r) fun s =>
    let k := s.cell i.cell
    let a := k.reg r
    let kind := a.val.toNat
    need a 1 (· == tUns)
      (if kind < 3 ∨ 6 < kind then .fault 12 1
       else
         let p := k.ports.getD (kind - 3) .idle
         if pmode k && !p.enabled then .fault 12 1
         else .ok (s.setW i.cell r (mkHandle kind p.unit k.run.gen.toNat)) 2 none)

/-- The words of a descriptor, corrections counted on the way. -/
def State.readWords (s : State) (c : CellId) (base : Nat) : Nat → List TWord × State
  | 0 => ([], s)
  | n + 1 =>
    let (ws, s) := s.readWords c base n
    let (w, s) := s.readDm c (base + n)
    (ws ++ [w], s)

/-- A port's handle: KIND 3 to 6. -/
def isPortHandle (h : TWord) : Bool := h.tag == tHandle && decide (3 ≤ hKind h.val ∧ hKind h.val ≤ 6)

/-- JOB: 2 + words cycles and the cycles `waited`; it stalls while the port's job runs or the engine accepts none. A descriptor that the role
table does not let the cell send is dropped at its router: the job never ends (R182). -/
def execJob (i : Iss) (wh rp : Reg) (waited : Nat) (s : State) : Answer :=
  s.issue i (opWord 0xE 0 wh rp) fun s =>
    let c := i.cell
    let k := s.cell c
    let h := k.reg wh
    let p := k.reg rp
    let kind := hKind h.val
    let unit := hUnit h.val
    let n := ptrLimit p.val - ptrBase p.val
    let (ws, s') := if p.tag = tPtr then s.readWords c (ptrBase p.val) n else ([], s)
    let sent := s.cellRoute c (if kind ≤ 4 then 0x52 else 0x51)
    let j : Job := { words := ws, base := ptrBase p.val, status := none, done := 0, acc := [], lost := !sent }
    let op := bits (j.word 0) 2 0
    if h.tag = tPoison then .fault 4 0 15 1
    else if p.tag = tPoison then .fault 4 0 15 2
    else if ws.any (fun w => w.tag == tPoison) then .fault 4 0 15 0
    else if isPortHandle h = false then .fault 3 0 h.tag.toNat 1
    else if p.tag ≠ tPtr then .fault 3 0 p.tag.toNat 2
    else if staleWord k h || ws.any (staleWord k) then .fault 12 2
    else if (List.range ws.length).any (fun x => !acceptsWord kind x op (ws.getD x .void)) then .fault 12 3
    else if (k.ports.getD (kind - 3) .idle).occupied || s.engineBusy kind unit then .stall .port s
    else match engineRefusal s c kind unit j with
      | some d => .fault 12 d 0 0 waited
      | none =>
        let s' := if sent then s' else s'.routeDrop
        .ok (s'.modCell c fun k => { k with ports := at' k.ports (kind - 3) fun q => { q with job := some j } })
          (2 + n + waited) none

/-- A status that vendor firmware handles (R190, R296, R329). -/
def firmwareStatus (st : Nat) : Bool := st == 0x30 || st == 0x31 || st == 0x32

/-- JWAIT: no job, 0xFFFF_FFFF at once; a status that firmware handles raises JOB at the JWAIT word, the job standing as it
is until it continues or another job takes the port (R170, R317). -/
def execJwait (i : Iss) (rd wh : Reg) (waited : Nat) (s : State) : Answer :=
  s.issue i (opWord 0xE 1 rd wh) fun s =>
    let c := i.cell
    let k := s.cell c
    let h := k.reg wh
    let p := hKind h.val - 3
    need h 1 (fun _ => isPortHandle h)
      (if staleWord k h then .fault 12 2
       else match (k.ports.getD p .idle).job with
         | none => .ok (s.setW c rd (.uns 0xFFFFFFFF)) (1 + waited) none
         | some j =>
           match j.status with
           | none => .stall .port s
           | some st =>
             if firmwareStatus st then .fault 12 st 0 0 waited
             else .ok ((s.setW c rd (.uns (BitVec.ofNat 32 st))).modCell c fun k =>
               { k with ports := at' k.ports p fun q => { q with job := none } }) (1 + waited) none)

end Sys2Proof.Machine
end

