-- ==== Sys2Proof/Machine/CellCtl.lean ====
section
/-!
DEFINITION. Control transfer and traps of the cell core (R172, R173), and what happens to a core from outside: hold, fill,
interrupt, budget, product and stalls (R142, R145, R146, R151, R153).
-/

namespace Sys2Proof.Machine

/-! ## Control transfer (R172) -/

/-- The address of the next word of a core at its PC. -/
def nextWord (i : Iss) (k : Cell) : BitVec 14 := k.pc + BitVec.ofNat 14 (i.ext.length + 1)

/-- B.cond: one cycle when not taken, two when taken. -/
def execB (i : Iss) (cond : Fin 15) (off : BitVec 6) (s : State) : Answer :=
  let w : IWord := majorWord 0xC (BitVec.ofNat 4 cond.val ++ off)
  s.issue i w fun s =>
    let k := s.cell i.cell
    if condHolds k.sp.flags cond.val then .ok s 2 (some (nextWord i k + (immOf i w).setWidth 14)) else .ok s 1 none

/-- JMP. -/
def execJmp (i : Iss) (target : BitVec 9) (s : State) : Answer :=
  let w : IWord := majorWord 0xD ((0 : BitVec 1) ++ target)
  s.issue i w fun s => .ok s 2 (some ((immOf i w).setWidth 14))

/-- CALL. -/
def execCall (i : Iss) (target : BitVec 9) (s : State) : Answer :=
  let w : IWord := majorWord 0xD ((1 : BitVec 1) ++ target)
  s.issue i w (callBody i ((immOf i w).setWidth 14))

/-- A target register: INT or UNS, 0 to 16,383. -/
def targetReg (c : CellId) (r : Reg) (s : State) (k : BitVec 14 → Body) : Body :=
  let a := (s.cell c).reg r
  need a 1 isIdx (if 16383 < a.val.toNat then .fault 5 (bits a.val 15 0) else k (a.val.setWidth 14))

/-- JR. -/
def execJr (i : Iss) (r : Reg) (s : State) : Answer :=
  s.issue i (sysWord 0x0A r) fun s => targetReg i.cell r s fun t => .ok s 2 (some t)

/-- CALLR. -/
def execCallr (i : Iss) (r : Reg) (s : State) : Answer :=
  s.issue i (sysWord 0x0B r) fun s => targetReg i.cell r s fun t => callBody i t s

/-- RETT: firmware mode only; STAT and the PC come from TRAPCAUSE and TRAPPC (R148, R172). Cell 40 never enters program mode
(R144, log 25). -/
def execRett (i : Iss) (s : State) : Answer :=
  s.issue i (sysWord 0x04 0) fun s =>
    let k := s.cell i.cell
    let tc := k.sp.trapCause
    if pmode k || (i.cell.val == 40 && bit tc 4) then .fault 11
    else .ok (s.modCell i.cell fun k => k.modSp fun p => { p with stat := mkStat (bit tc 4) (bit tc 6) false (bit tc 5) }) 2
      (some k.sp.trapPc)

/-- END raises END. -/
def execEndp (i : Iss) (s : State) : Answer := s.issue i (sysWord 0x02 0) fun _ => .trap 13 0 0 0 true 0

/-- SWI n raises SWI. -/
def execSwi (i : Iss) (n : BitVec 4) (s : State) : Answer := s.issue i (sysWord 0x03 n) fun _ => .trap 15 n.toNat 0 0 true 0

/-- IDLE: firmware mode, outside a trap handler; IE is set and the core waits for the interrupt input. -/
def execIdle (i : Iss) (s : State) : Answer :=
  s.issue i (sysWord 0x18 0) fun s =>
    let k := s.cell i.cell
    if pmode k || trapBit k then .fault 11
    else .done (s.modCell i.cell fun k => { k with
      sp := { k.sp with stat := k.sp.stat ||| 2 }
      run := { k.run with idle := true } })

/-! ## Events at a core -/

/-- INTERRUPT_INPUT: the INT trap when IE = 1, PMODE = 0 and TRAP = 0, at an instruction boundary; not inside REP, and inside
REPI only between iterations (R146, R147). It ends the wait of IDLE. -/
def execInterruptInput (c : CellId) (s : State) : Answer :=
  let k := s.cell c
  if k.run.held || k.run.scrubbing || k.run.stall != .none || !k.mayInt || !s.irqLevel c || !s.pageOn (celPage c) then .next s
  else .next (s.trap c 14 0 0 0 k.pc)

/-- BUDGET_EXHAUSTED: CYCBUD has come to zero while an instruction of a program waits at a job port or is about to issue; it
is abandoned and BUDGET is taken (R145). Stream stalls do not count. For a built-in program, whose own instructions are not shown, the
command says when (R114, log 101). -/
def execBudgetExhausted (c : CellId) (s : State) : Answer :=
  let k := s.cell c
  let built := s.prog.execs.any fun e => e.cell == c.val && e.step == 1 && decide (1 ≤ e.pind ∧ e.pind ≤ 10) && !trapBit k
  if !built && (k.run.held || k.run.scrubbing || !pmode k || k.run.stall == .input || k.run.stall == .output ||
      !(k.sp.cycBud == 0 || k.run.stall == .port || s.armed (celPage c) 6)) then .next s
  else
    let s := if s.armed (celPage c) 6 then s.disarm (celPage c) 6 else s
    .next ((s.modCell c fun k => k.modSp fun p => { p with cycBud := 0 }).trap c 10 0 0 0 k.pc)

/-- PRODUCT_LANDS: the product whose third slot begins is written (R142). -/
def execProductLands (c : CellId) (s : State) : Answer :=
  match (s.cell c).mul with
  | none => .next s
  | some p => if p.left ≤ 1 then .next (s.modCell c Cell.land) else .next s

/-- The cycles of a stall that a hold ends count as those of any other: in STALL_IN or STALL_OUT, or for a job port in CYCBUD (R145,
R153). -/
def State.endStall (s : State) (c : CellId) (cycles : Nat) : State :=
  let k := s.cell c
  match k.run.stall with
  | .input => s.count (celPage c) 5 cycles
  | .output => s.count (celPage c) 6 cycles
  | .port => if pmode k then s.modCell c fun k => k.modSp fun p => { p with cycBud := p.cycBud - BitVec.ofNat 32 cycles } else s
  | .none | .fabric => s

/-- HOLD_REACHED: the requested boundary (R151): after a REP, after the present iteration of a REPI, at once in a stall, which has lasted
`waited` cycles. A pending product is written, HELD reads 1 and EV_CEL_HELD is raised. A load whose word has not come is made again later. A
program's wait at a port that outlasts its budget ends by BUDGET_EXHAUSTED first. -/
def execHoldReached (c : HoldAt) (s : State) : Answer :=
  let k := s.cell c.cell
  if !k.run.holdReq || k.run.held || (k.inRep && k.run.stall == .none) ||
      (k.run.stall == .port && pmode k && decide (k.sp.cycBud.toNat ≤ c.waited)) then .next s
  else
    .next ((((s.endStall c.cell c.waited).dropLoad c.cell).modCell c.cell fun k => k.land.modRun fun r =>
      { r with held := true, stall := .none, latched := false, iterated := false, exts := [], idle := false }).raise (celPage c.cell) 3)

/-- Releasing a core: at PC 0 it takes the START vector with STAT cleared (R151). -/
def State.releaseCore (s : State) (c : CellId) : State :=
  s.modCell c fun k => { k with
    sp := if k.pc = 0 then { k.sp with stat := 0 } else k.sp
    run := { k.run with held := false, holdReq := false, dbl := false } }

/-- A cell may start a fill only while held and not filling (R152). -/
def scrubCond (m : Master) (c : CellId) (v : Word) (s : State) : Option State :=
  let r := (s.cell c).run
  if bit v 2 && (!r.held || r.scrubbing) then some (s.refuse (celPage c) 0x10 m 0x80 v) else none

/-- The effect of a write of CEL_CTRL: HOLD requests a hold or releases the core; SCRUB cancels the stream slots and starts
the fill (R113, R151, R153, R189). A core that is filling stays held until the fill ends. -/
def celCtrlEffect (c : CellId) (v : Word) (s : State) : State :=
  let s := if bit v 2 then s.modCell c fun k => { k with
      su0 := .idle, su1 := .idle, suL := .idle, run := { k.run with scrubbing := true, holdReq := true } } else s
  let s := s.setReg (CEL_CTRL c.val) (setBit 0 0 (bit v 0))
  if bit v 0 then s.modCell c fun k => k.modRun fun r => { r with holdReq := true }
  else if (s.cell c).run.held then s.releaseCore c
  else s.modCell c fun k => k.modRun fun r => { r with holdReq := false }

/-- CEL_HOLD_WRITE. -/
def execCelHoldWrite (m : Master) (c : CellId) (v : Word) (s : State) : Answer :=
  let v := setBit v 2 false
  .next (s.write m (celPage c) 0x80 32 v (scrubCond m c v) fun _ => celCtrlEffect c v).1

/-- SCRUB: a write of CEL_CTRL with SCRUB and HOLD set. -/
def execScrub (m : Master) (c : CellId) (v : Word) (s : State) : Answer :=
  let v := setBit (setBit v 2 true) 0 true
  .next (s.write m (celPage c) 0x80 32 v (scrubCond m c v) fun _ => celCtrlEffect c v).1

/-- What the cipher and digest lanes hold of a cell's jobs is cleared: held jobs with the lane's key register, and contexts (R329). -/
def State.dropJobs (s : State) (c : CellId) : State :=
  let k := s.crypto
  { s with crypto := { k with
      lanes := k.lanes.map fun (l : Lane) => if l.job.any fun h => h.cell == c then { l with job := none, keys := [] } else l
      ctxs := k.ctxs.map fun (x : DigCtx) => if x.owner == some (c, 3) then .free else x
      digs := k.digs.map fun x => if x == some c then none else x } }

/-- A finished fill: data memory and stream buffers hold zeros with VOID tags and fresh check bits, the registers are VOID 0,
GEN advances, and EV_CEL_SCRUBBED is raised (R138, R153). -/
def State.fillCell (s : State) (c : CellId) : State :=
  let p := celPage c
  let s := { s with upsets := s.upsets.filter fun u => !(u.1 / 2 ^ 32 == p && u.1 / 2 ^ 28 % 16 != 1) }
  let s := (s.dropJobs c).modCell c fun k => { k with
    dm := [], sb0 := [], sb1 := [], w := List.replicate 16 .void
    ports := List.replicate 4 .idle
    run := { k.run with scrubbing := false, gen := k.run.gen + 1 } }
  s.raise p 8

/-- FILL_COMPLETE: the fill that runs ends. -/
def execFillComplete (c : CellId) (s : State) : Answer :=
  if !(s.cell c).run.scrubbing then .next s else .next (s.fillCell c)

/-! ## The windows of the CEL page (R124, R150, R152) -/

/-- A write through a window needs the core held and no fill (R152). -/
def heldCond (m : Master) (c : CellId) (off : Nat) (v : Word) (s : State) : Option State :=
  let r := (s.cell c).run
  if !r.held || r.scrubbing then some (s.refuse (celPage c) 0x10 m off v) else none

/-- A tag and value that a window refuses. -/
def badTagged (t v : Word) : Bool :=
  let n := bits t 3 0
  decide (0xB ≤ n ∧ n ≤ 0xE) || n == 10 || (n == 7 && (hKind v == 0 || decide (7 ≤ hKind v)))

/-- Advancing an address register of a window. -/
def State.advance (s : State) (key width : Nat) : State := s.setReg key (BitVec.ofNat 32 (((s.reg key).toNat + 1) % 2 ^ width))

/-- Storing an instruction word by itself: a partial write of its block (R358). -/
def State.writeIm (s : State) (c : CellId) (a : Nat) (w : IWord) : State :=
  (s.mergeProt (celPage c) 1 (a / 4) 7 8 (16383 * 2 ^ (14 * (a % 4)))).modCell c fun k => { k with im := k.im.set (fun _ => 0) a w }

/-- The effect of a write of CEL_IMDATA. -/
def imWrite (c : CellId) (v : Word) (s : State) : State :=
  (s.writeIm c (bits (s.reg (CEL_IMADDR c.val)) 13 0) (v.setWidth 14)).advance (CEL_IMADDR c.val) 14

/-- What a read of CEL_IMDATA returns, and the state after it. -/
def imRead (c : CellId) (s : State) : Word × State :=
  let a := bits (s.reg (CEL_IMADDR c.val)) 13 0
  let (w, s) := s.fetchI c a
  ((w.getD 0).setWidth 32, s.advance (CEL_IMADDR c.val) 14)

/-- The conditions of a write of CEL_DMDATA. -/
def dmCond (m : Master) (c : CellId) (v : Word) (s : State) : Option State :=
  match heldCond m c 0xB8 v s with
  | some s => some s
  | none => if badTagged (s.reg (CEL_DMTAG c.val)) v then some (s.refuseRsvd (celPage c) 0x11 m 0xB8 v) else none

/-- The effect of a write of CEL_DMDATA. -/
def dmWrite (c : CellId) (v : Word) (s : State) : State :=
  (s.writeDm c (bits (s.reg (CEL_DMADDR c.val)) 14 0) ⟨(s.reg (CEL_DMTAG c.val)).setWidth 4, v⟩).advance (CEL_DMADDR c.val) 15

/-- What a read of CEL_DMDATA returns; the word's tag goes to CEL_DMTAG. -/
def dmRead (c : CellId) (s : State) : Word × State :=
  let (w, s) := s.readDm c (bits (s.reg (CEL_DMADDR c.val)) 14 0)
  (w.val, (s.setReg (CEL_DMTAG c.val) (w.tag.setWidth 32)).advance (CEL_DMADDR c.val) 15)

/-- The conditions of a write of CEL_RVAL. The tag is ignored for special registers. -/
def rvalCond (m : Master) (c : CellId) (v : Word) (s : State) : Option State :=
  let sel := bits (s.reg (CEL_RSEL c.val)) 4 0
  match heldCond m c 0xC8 v s with
  | some s => some s
  | none =>
    if sel < 16 ∧ badTagged (s.reg (CEL_RTAG c.val)) v = true then some (s.refuseRsvd (celPage c) 0x11 m 0xC8 v)
    else if 26 ≤ sel ∧ sel ≤ 29 ∨ sel = 31 then some (s.refuse (celPage c) 0x12 m 0xC8 v)
    else none

/-- The effect of a write of CEL_RVAL: a general register with CEL_RTAG, or a special register, the PC among them. A special
register keeps the tag R139 gives it. -/
def rvalWrite (c : CellId) (v : Word) (s : State) : State :=
  let sel := bits (s.reg (CEL_RSEL c.val)) 4 0
  if sel < 16 then s.setW c (BitVec.ofNat 4 sel) ⟨(s.reg (CEL_RTAG c.val)).setWidth 4, v⟩
  else if sel = 16 then s.modCell c fun k => { k with pc := v.setWidth 14 }
  else s.modCell c fun k => k.modSp fun p =>
    writeSpecial p (sel - 16) ⟨(readSpecial k k.pc (sel - 16)).tag, v⟩

/-- What a read of CEL_RVAL returns; the tag goes to CEL_RTAG. Register 15 of the special ones reads 0. -/
def rvalRead (c : CellId) (s : State) : Word × State :=
  let sel := bits (s.reg (CEL_RSEL c.val)) 4 0
  let k := s.cell c
  let w := if sel < 16 then k.reg (BitVec.ofNat 4 sel) else readSpecial k k.pc (sel - 16)
  (w.val, s.setReg (CEL_RTAG c.val) (w.tag.setWidth 32))

/-- An access of a window: a write under its conditions, or a read, served at any time. -/
def windowAccess (m : Master) (page off : Nat) (write : Option Word) (cond : Word → State → Option State)
    (wr : Word → State → State) (rd : State → Word × State) (s : State) : Answer :=
  match write with
  | some v => .next (s.write m page off 32 v (cond v) fun _ => wr v).1
  | none =>
    match s.checkAccess m page off 32 true 0 with
    | .stop s r => .next (s.reply m r)
    | .pass _ => let (v, s) := rd s; .next (s.answerRead m page v)

def execCelImdataAccess (m : Master) (c : CellId) (write : Option Word) (s : State) : Answer :=
  windowAccess m (celPage c) 0xA4 write (heldCond m c 0xA4) (imWrite c) (imRead c) s

def execCelDmdataAccess (m : Master) (c : CellId) (write : Option Word) (s : State) : Answer :=
  windowAccess m (celPage c) 0xB8 write (dmCond m c) (dmWrite c) (dmRead c) s

def execCelRvalAccess (m : Master) (c : CellId) (write : Option Word) (s : State) : Answer :=
  windowAccess m (celPage c) 0xC8 write (rvalCond m c) (rvalWrite c) (rvalRead c) s

/-- CEL_DWIN.BASE above 59 is ignored (R152). -/
def dwinCond (m : Master) (c : CellId) (v : Word) (s : State) : Option State :=
  if 59 < bits v 5 0 then some (s.refuseRsvd (celPage c) 0x12 m 0x90 v) else none

/-- CEL_STAT as it reads (R151). -/
def celStat (s : State) (c : CellId) : Word :=
  let k := s.cell c
  let r := k.run
  BitVec.ofNat 32 (r.gen.toNat * 65536 + k.sp.stat.toNat * 16 + r.dbl.toNat * 8 + r.scrubbing.toNat * 4 +
    (r.stall == .input || r.stall == .output).toNat * 2 + r.held.toNat)

/-- CEL_ROLE and CEL_PCSNAP as they read. -/
def celRole (s : State) (c : CellId) : Word := BitVec.ofNat 32 ((s.role c).fn * 256 + (s.role c).role)
def celPc (s : State) (c : CellId) : Word := if (s.cell c).run.held then (s.cell c).pc.setWidth 32 else 0

end Sys2Proof.Machine
end

