-- ==== Sys2Proof/Machine/Lz.lean ====
section
/-!
DEFINITION. The formats the codec units decode (R119, R190): LZ4 blocks and frames with their checksums, and raw DEFLATE
(RFC 1951). The formats are those of the standards that R119 names (log 23).
-/

namespace Sys2Proof.Machine

/-- What decoding has come to: output so far, input bytes consumed, malformed at that point, more output wanted than the
limit, whether a match was used, and for DEFLATE whether every block was a dynamic one. -/
structure Decoded where
  out   : Array Byte
  used  : Nat
  bad   : Bool
  full  : Bool
  match_ : Bool
  dyn   : Bool
  deriving DecidableEq, Repr

/-- A fault at a position. -/
def Decoded.fail (d : Decoded) (p : Nat) : Decoded := { d with used := p, bad := true }

/-- Input as an array. -/
abbrev Inp := Array Byte

/-- A byte of the input as a number. -/
def inByte (i : Inp) (p : Nat) : Nat := (i.getD p 0).toNat

/-- A 32-bit little-endian number of the input. -/
def inWord (i : Inp) (p : Nat) : Nat :=
  inByte i p + 256 * inByte i (p + 1) + 65536 * inByte i (p + 2) + 16777216 * inByte i (p + 3)

/-! ## LZ4 blocks -/

/-- A length of the block format: 15 in the token continues in bytes while they are 255. Length and next position; none past
the end. -/
def lz4Len (i : Inp) (stop : Nat) : Nat → Nat → Nat → Option (Nat × Nat)
  | 0, _, _ => none
  | f + 1, p, n =>
    if stop ≤ p then none
    else if inByte i p = 255 then lz4Len i stop f (p + 1) (n + 255)
    else some (n + inByte i p, p + 1)

/-- Copying `n` bytes from `off` back. -/
def copyBack (out : Array Byte) (off : Nat) : Nat → Array Byte
  | 0 => out
  | n + 1 => copyBack (out.push (out.getD (out.size - off) 0)) off n

/-- Appending `n` bytes of input. -/
def copyIn (out : Array Byte) (i : Inp) (p : Nat) : Nat → Array Byte
  | 0 => out
  | n + 1 => copyIn (out.push (i.getD p 0)) i (p + 1) n

/-- The sequences of a block between `p` and `stop`; matches may reach back to output position `base`; `max` bounds the
output. -/
def lz4Seqs (i : Inp) (stop base max : Nat) : Nat → Nat → Decoded → Decoded
  | 0, p, d => d.fail p
  | f + 1, p, d =>
    if stop ≤ p then d.fail p
    else
      let tok := inByte i p
      match (if tok / 16 = 15 then lz4Len i stop (stop + 1) (p + 1) 15 else some (tok / 16, p + 1)) with
      | none => d.fail p
      | some (lit, q) =>
        if stop < q + lit then d.fail p
        else if max < d.out.size + lit then
          { d with out := copyIn d.out i q (max - d.out.size), used := p, full := true }
        else
          let out := copyIn d.out i q lit
          let q := q + lit
          if q = stop then { d with out := out, used := q }
          else if stop < q + 2 then { d with out := out }.fail q
          else
            let off := inByte i q + 256 * inByte i (q + 1)
            match (if tok % 16 = 15 then lz4Len i stop (stop + 1) (q + 2) 15 else some (tok % 16, q + 2)) with
            | none => { d with out := out }.fail q
            | some (m, r) =>
              let m := m + 4
              if off = 0 ∨ out.size < base + off then { d with out := out }.fail q
              else if max < out.size + m then
                { d with out := copyBack out off (max - out.size), used := q, full := true, match_ := true }
              else lz4Seqs i stop base max f r { d with out := copyBack out off m, match_ := true }

/-- Nothing decoded yet. -/
def Decoded.start : Decoded := { out := #[], used := 0, bad := false, full := false, match_ := false, dyn := true }

/-- Decoding one LZ4 block. -/
def lz4Block (i : Inp) (max : Nat) : Decoded := lz4Seqs i i.size 0 max (i.size + 1) 0 .start

/-! ## The checksum of LZ4 frames -/

/-- One lane round of xxHash-32. -/
def xxRound (acc inp : Word) : Word := (acc + inp * 2246822519).rotateLeft 13 * 2654435761

/-- The four lanes over whole 16-byte stripes. -/
def xxStripes (i : Inp) : Nat → Nat → (Word × Word × Word × Word) → (Word × Word × Word × Word)
  | 0, _, v => v
  | n + 1, p, (a, b, c, d) =>
    let w := fun k => BitVec.ofNat 32 (inWord i (p + 4 * k))
    xxStripes i n (p + 16) (xxRound a (w 0), xxRound b (w 1), xxRound c (w 2), xxRound d (w 3))

/-- xxHash-32 with seed 0. -/
def xxh32 (i : Inp) : Word :=
  let n := i.size
  let h : Word :=
    if 16 ≤ n then
      let (a, b, c, d) := xxStripes i (n / 16) 0 (606290984, 2246822519, 0, 0 - 2654435761)
      a.rotateLeft 1 + b.rotateLeft 7 + c.rotateLeft 12 + d.rotateLeft 18
    else 374761393
  let h := h + BitVec.ofNat 32 n
  let p := n / 16 * 16
  let h := (List.range ((n - p) / 4)).foldl (fun (h : Word) k =>
    (h + BitVec.ofNat 32 (inWord i (p + 4 * k)) * 3266489917).rotateLeft 17 * 668265263) h
  let p := p + (n - p) / 4 * 4
  let h := (List.range (n - p)).foldl (fun (h : Word) k =>
    (h + BitVec.ofNat 32 (inByte i (p + k)) * 374761393).rotateLeft 11 * 2654435761) h
  let h := (h ^^^ (h >>> 15)) * 2246822519
  let h := (h ^^^ (h >>> 13)) * 3266489917
  h ^^^ (h >>> 16)

/-! ## LZ4 frames -/

/-- The blocks of a frame from `p`; `start` is where the frame's output begins. -/
def lz4Blocks (i : Inp) (flg maxBlk start max : Nat) : Nat → Nat → Decoded → Decoded
  | 0, p, d => d.fail p
  | f + 1, p, d =>
    if i.size < p + 4 then d.fail p
    else
      let w := inWord i p
      let n := w % 2 ^ 31
      if w = 0 then
        if flg / 4 % 2 = 1 then
          if i.size < p + 8 ∨ inWord i (p + 4) ≠ (xxh32 (d.out.extract start d.out.size)).toNat then d.fail p
          else { d with used := p + 8 }
        else { d with used := p + 4 }
      else
        let chk := flg / 16 % 2 * 4
        if maxBlk < n ∨ i.size < p + 4 + n + chk then d.fail p
        else if chk = 4 ∧ inWord i (p + 4 + n) ≠ (xxh32 (i.extract (p + 4) (p + 4 + n))).toNat then d.fail p
        else
          let was := d.out.size
          let d' := if 2 ^ 31 ≤ w then
              if max < d.out.size + n then
                { d with out := copyIn d.out i (p + 4) (max - d.out.size), used := p, full := true }
              else { d with out := copyIn d.out i (p + 4) n }
            else lz4Seqs i (p + 4 + n) (if flg / 32 % 2 = 1 then was else start) max (n + 1) (p + 4) d
          if d'.bad ∨ d'.full then d'
          else if maxBlk < d'.out.size - was then d'.fail p
          else lz4Blocks i flg maxBlk start max f (p + 4 + n + chk) d'

/-- The frames of an input, one after another to its end. -/
def lz4Frames (i : Inp) (max : Nat) : Nat → Nat → Decoded → Decoded
  | 0, p, d => d.fail p
  | f + 1, p, d =>
    let flg := inByte i (p + 4)
    let bd := inByte i (p + 5)
    let sized := flg / 8 % 2
    let head := 2 + 8 * sized
    if i.size < p + 5 + head ∨ inWord i p ≠ 0x184D2204 ∨ flg / 64 ≠ 1 ∨ flg % 4 ≠ 0 ∨ bd % 16 ≠ 0 ∨ bd / 16 < 4 ∨
        7 < bd / 16 ∨
        inByte i (p + 4 + head) ≠ bits (xxh32 (i.extract (p + 4) (p + 4 + head))) 15 8 then d.fail p
    else
      let was := d.out.size
      let d := lz4Blocks i flg (2 ^ (8 + 2 * (bd / 16))) was max (i.size + 1) (p + 5 + head) d
      if d.bad ∨ d.full then d
      else if sized = 1 ∧ inWord i (p + 6) + 2 ^ 32 * inWord i (p + 10) ≠ d.out.size - was then d.fail p
      else if d.used = i.size then d
      else lz4Frames i max f d.used d

/-- Decoding LZ4 frames. -/
def lz4Frame (i : Inp) (max : Nat) : Decoded := lz4Frames i max (i.size + 1) 0 .start

/-! ## DEFLATE -/

/-- Bits of the input from a bit position, least significant first. -/
def inBits (i : Inp) (p n : Nat) : Nat :=
  (List.range n).foldl (fun a k => a + (inByte i ((p + k) / 8) / 2 ^ ((p + k) % 8) % 2) * 2 ^ k) 0

/-- Whether a set of code lengths is over-subscribed. -/
def overFull (lens : List Nat) : Bool :=
  decide (2 ^ 15 < lens.foldl (fun a l => if l = 0 then a else a + 2 ^ (15 - l)) 0)

/-- Decoding a symbol of a canonical code: `l` the present length, `code` and `first` as they stand. -/
def huffSym (i : Inp) (lens : List Nat) : Nat → Nat → Nat → Nat → Nat → Option (Nat × Nat)
  | 0, _, _, _, _ => none
  | f + 1, l, p, code, first =>
    if 8 * i.size ≤ p then none
    else
      let code := 2 * code + inBits i p 1
      let syms := (List.range lens.length).filter fun s => lens.getD s 0 == l
      if code < first + syms.length then some (syms.getD (code - first) 0, p + 1)
      else huffSym i lens f (l + 1) (p + 1) code (2 * (first + syms.length))

/-- A symbol and the position after it. -/
def sym (i : Inp) (lens : List Nat) (p : Nat) : Option (Nat × Nat) := huffSym i lens 15 1 p 0 0

/-- Length codes 257 to 285: base and extra bits. -/
def lenBase (s : Nat) : Nat × Nat :=
  if s < 265 then (s - 254, 0)
  else if s = 285 then (258, 0)
  else
    let e := (s - 261) / 4
    (2 ^ e * (4 + (s - 261) % 4) + 3, e)

/-- Distance codes 0 to 29: base and extra bits. -/
def distBase (s : Nat) : Nat × Nat :=
  if s < 4 then (s + 1, 0)
  else
    let e := s / 2 - 1
    (2 ^ e * (2 + s % 2) + 1, e)

/-- The symbols of a block under its two codes. Answers the decoding and the bit position. -/
def inflSyms (i : Inp) (ll dl : List Nat) (max : Nat) : Nat → Nat → Decoded → Decoded × Nat
  | 0, p, d => (d.fail (p / 8), p)
  | f + 1, p, d =>
    match sym i ll p with
    | none => (d.fail (p / 8), p)
    | some (s, q) =>
      if s = 256 then (d, q)
      else if s < 256 then
        if max ≤ d.out.size then ({ d with used := p / 8, full := true }, p)
        else inflSyms i ll dl max f q { d with out := d.out.push (BitVec.ofNat 8 s) }
      else if 285 < s then (d.fail (p / 8), p)
      else
        let (b, e) := lenBase s
        let n := b + inBits i q e
        match sym i dl (q + e) with
        | none => (d.fail (p / 8), p)
        | some (ds, r) =>
          let (db, de) := distBase ds
          let off := db + inBits i r de
          if 29 < ds ∨ d.out.size < off ∨ 8 * i.size < r + de then (d.fail (p / 8), p)
          else if max < d.out.size + n then
            ({ d with out := copyBack d.out off (max - d.out.size), used := p / 8, full := true, match_ := true }, p)
          else inflSyms i ll dl max f (r + de) { d with out := copyBack d.out off n, match_ := true }

/-- The code lengths of a dynamic block: `n` still wanted. -/
def inflLens (i : Inp) (cl : List Nat) : Nat → Nat → Nat → List Nat → Option (List Nat × Nat)
  | 0, _, _, _ => none
  | f + 1, n, p, ls =>
    if n = 0 then some (ls, p)
    else match sym i cl p with
      | none => none
      | some (s, q) =>
        if s < 16 then inflLens i cl f (n - 1) q (ls ++ [s])
        else
          let (v, k, q) := if s = 16 then (ls.getLastD 99, 3 + inBits i q 2, q + 2)
            else if s = 17 then (0, 3 + inBits i q 3, q + 3) else (0, 11 + inBits i q 7, q + 7)
          if v = 99 ∨ n < k then none else inflLens i cl f (n - k) q (ls ++ List.replicate k v)

/-- The order of the code length code lengths. -/
def clOrder : List Nat := [16, 17, 18, 0, 8, 7, 9, 6, 10, 5, 11, 4, 12, 3, 13, 2, 14, 1, 15]

/-- The blocks of a DEFLATE stream from a bit position. -/
def inflBlocks (i : Inp) (max : Nat) : Nat → Nat → Decoded → Decoded
  | 0, p, d => d.fail (p / 8)
  | f + 1, p, d =>
    if 8 * i.size < p + 3 then d.fail (p / 8)
    else
      let last := inBits i p 1
      let fuel := 8 * i.size + 2
      let (d, q) : Decoded × Nat := match inBits i (p + 1) 2 with
        | 0 =>
          let b := (p + 3 + 7) / 8
          let n := inByte i b + 256 * inByte i (b + 1)
          let c := inByte i (b + 2) + 256 * inByte i (b + 3)
          if i.size < b + 4 ∨ n + c ≠ 65535 ∨ i.size < b + 4 + n then (d.fail b, p)
          else if max < d.out.size + n then
            ({ d with out := copyIn d.out i (b + 4) (max - d.out.size), used := b, full := true, dyn := false }, p)
          else ({ d with out := copyIn d.out i (b + 4) n, dyn := false }, 8 * (b + 4 + n))
        | 1 =>
          let ll := List.replicate 144 8 ++ List.replicate 112 9 ++ List.replicate 24 7 ++ List.replicate 8 8
          inflSyms i ll (List.replicate 30 5) max fuel (p + 3) { d with dyn := false }
        | 2 =>
          let hl := inBits i (p + 3) 5 + 257
          let hd := inBits i (p + 8) 5 + 1
          let hc := inBits i (p + 13) 4 + 4
          let raw := (List.range hc).map fun k => (clOrder.getD k 0, inBits i (p + 17 + 3 * k) 3)
          let cl := (List.range 19).map fun s => ((raw.find? (·.1 == s)).map (·.2)).getD 0
          match inflLens i cl (hl + hd + 1) (hl + hd) (p + 17 + 3 * hc) [] with
          | none => (d.fail (p / 8), p)
          | some (ls, q) =>
            if 286 < hl ∨ 30 < hd ∨ overFull cl ∨ overFull (ls.take hl) ∨ overFull (ls.drop hl) then (d.fail (p / 8), p)
            else inflSyms i (ls.take hl) (ls.drop hl) max fuel q d
        | _ => (d.fail (p / 8), p)
      if d.bad ∨ d.full then d
      else if last = 1 then { d with used := (q + 7) / 8 }
      else inflBlocks i max f q d

/-- Decoding raw DEFLATE: input left after the final block is malformed. -/
def inflate (i : Inp) (max : Nat) : Decoded :=
  let d := inflBlocks i max (8 * i.size + 1) 0 .start
  if d.bad ∨ d.full ∨ d.used = i.size then d else d.fail d.used

/-- Decoding by FORMAT: 0 LZ4 block, 1 LZ4 frame, 2 raw DEFLATE (R190). -/
def decodeFormat (format : Nat) (bs : List Byte) (max : Nat) : Decoded :=
  match format with
  | 0 => lz4Block bs.toArray max
  | 1 => lz4Frame bs.toArray max
  | _ => inflate bs.toArray max

/-- Whether an output of the compressors is a form R119 lets them produce for an input. Without a window bank it uses no
match (R294). -/
def validOutput (format : Nat) (out inp : List Byte) (matching : Bool) : Bool :=
  let d := decodeFormat format out inp.length
  !d.bad && !d.full && d.used == out.length && d.out.toList == inp && (matching || !d.match_) &&
    (match format with
     | 0 => true
     | 1 => out.getD 4 0 == 0x6C && out.getD 5 0 == 0x40
     | _ => d.dyn)

end Sys2Proof.Machine
end

