-- ==== Sys2Proof/Machine/Fabric.lean ====
section
/-!
DEFINITION. The cell fabric (08): mesh nodes and the route rule, stream data and credits, the stream unit's registers, the
codec units and the role table.
-/

namespace Sys2Proof.Machine

/-! ## Side headers (R184) -/

/-- A side header (R184). -/
def Flit.header (f : Flit) : Nat :=
  f.dst % 128 + f.src % 128 * 2 ^ 7 + f.cls % 4 * 2 ^ 14 + f.kind % 8 * 2 ^ 16 +
    (if f.kind ≤ 1 then f.sid % 256 * 2 ^ 19 + f.gen % 256 * 2 ^ 27 + f.pos % 2 ^ 25 * 2 ^ 35 else f.aux.toNat * 2 ^ 19) +
    f.nb % 64 * 2 ^ 60 + f.last.toNat * 2 ^ 66 + f.pois.toNat * 2 ^ 67

/-- An error of the stream unit that records a header (R189). -/
def State.flitError (s : State) (c : CellId) (code : Nat) (f : Flit) : State :=
  let h := f.header
  s.blockError (celPage c) code (BitVec.ofNat 32 h) (BitVec.ofNat 32 (h / 2 ^ 32)) (BitVec.ofNat 32 (h / 2 ^ 64))

/-! ## Input streams (R186, R189) -/

/-- The contiguous prefix after landed pieces (position ÷ 64, bytes), at most as many steps as pieces. -/
def prefixOf : Nat → List (Nat × Nat) → Nat → Nat
  | 0, _, d => d
  | n + 1, l, d =>
    match l.find? fun p => decide (64 * p.1 ≤ d ∧ d < 64 * p.1 + p.2) with
    | some p => prefixOf n l (64 * p.1 + p.2)
    | none => d

/-- Landing a piece: d advances over every gap that is now filled. -/
def SuSlot.land (q : SuSlot) (k n : Nat) : SuSlot :=
  let l := q.landed ++ [(k, n)]
  let d := prefixOf l.length l q.d
  { q with d := d, landed := l.filter fun p => decide (d < 64 * p.1 + p.2) }.close

/-- A stream data flit at the stream unit of its destination cell. -/
def State.landFlit (s : State) (c : CellId) (f : Flit) : State :=
  let k := s.cell c
  let match? := fun (q : SuSlot) => q.active && (q.op == 1 || q.op == 2) && q.sid == f.sid
  let unit := if match? k.su0 then some 0 else if match? k.su1 then some 1 else none
  match unit with
  | none => s.count 0x70 3 1
  | some u =>
    let q := k.su u
    let p := 64 * f.pos
    if f.gen ≠ k.run.gen.toNat then s.count 0x70 3 1
    else if f.src ≠ q.peer then s.flitError c 0x15 f
    else if q.c + sbSize ≤ p ∨ q.length ≤ p then
      (s.modSu c u fun q => { q with active := false, err := true }).flitError c 0x16 f
    else if f.nb ≠ 63 ∧ f.last = false then s
    else
      let n := min (f.nb + 1) (min q.length (q.c + sbSize) - p)
      let s := s.writeSb c u p (sub f.payload 0 n)
      let s := if f.pois then s.poisonSb c u p n else s
      s.modSu c u fun q => q.land f.pos n

/-- STREAM_DATA_FLIT. -/
def execStreamDataFlit (f : Flit) (s : State) : Answer :=
  let f := { f with kind := 0 }
  .next (s.onMesh f fun s => if h : f.dst < 41 then s.landFlit ⟨f.dst, h⟩ f else s)

/-! ## Output streams (R187) -/

/-- Marking the DRAM lines of a range poisoned, wherever they stand. -/
def State.pokePoison (s : State) (addr len : Nat) : State :=
  if len = 0 then s
  else (List.range ((addr + len - 1) / 128 - addr / 128 + 1)).foldl (fun s j =>
    let n := addr / 128 + j
    match (s.slice (lineSlice n)).find n with
    | some l => s.putLine (lineSlice n) { l with pois := true }
    | none =>
      let ((l, _), s) := s.peekLine n
      s.dramWrite n l true) s

/-- One byte of an execution's output: into its SLM range, or held outside every namespace (R115). -/
def State.putByte (s : State) (e : ExecRec) (p : Nat) (b : Byte) (bad : Bool) : State :=
  match rangeAt e.outputs p with
  | none => s
  | some (d, off) =>
    if d.ns then { s with prog := { s.prog with held := s.prog.held.set (fun _ => 0) (e.cell * 2 ^ 32 + p) b } }
    else
      let a := s.slmBase d.nsid + d.start + off
      if bad then (s.poke a [b]).pokePoison a 1 else s.poke a [b]
def State.putBytes (s : State) (e : ExecRec) (p : Nat) (bs : List Byte) (bad : Bool) : State :=
  (List.range bs.length).foldl (fun (s : State) i => s.putByte e (p + i) (bs.getD i 0) bad) s

/-- Sending one piece of an output stream: to the ranges of an execution, to DRAM through the cache, or as a flit. -/
def State.drainPiece (s : State) (c : CellId) (u p n : Nat) (last : Bool) : State :=
  let q := (s.cell c).su u
  let (bs, s) := s.readSb c u p n
  let raw := (List.range n).map fun j => byteAt ((s.cell c).sb u) ((p + j) % sbSize)
  if q.op = 3 && !s.cellRoute c 0x58 then s.routeDrop
  else if q.op = 3 then
    match s.execOn c with
    | some e => s.putBytes e p (bs.getD raw) bs.isNone
    | none => match bs with
      | some bs => s.poke (q.addr + p) bs
      | none => (s.poke (q.addr + p) raw).pokePoison (q.addr + p) n
  else
    let f : Flit := { dst := q.peer, src := c.val, cls := q.cls, kind := 0, sid := q.target % 256, gen := q.target / 256,
                      pos := p / 64, nb := n - 1, last := last, pois := bs.isNone, aux := 0, payload := bs.getD raw }
    s.onMesh f fun s => s.emit (.flit f.dst f.src f.cls 0 f.sid f.gen f.pos f.last f.pois f.payload)

/-- Draining what the unit may drain: whole flits that u covers, within the credit for OP 4; the last partial flit when the
slot closes. -/
def State.drain (s : State) (c : CellId) (u : Nat) (close : Bool) : State :=
  let q := (s.cell c).su u
  if q.active && (q.op == 3 || q.op == 4) then
    let whole := q.c - q.c % 64
    let hi := if close then q.c else whole
    let hi := if q.op = 4 then min hi (q.credit + sbSize) else hi
    let s := (List.range ((hi - q.d + 63) / 64)).foldl (fun s j =>
      let p := q.d + 64 * j
      let n := min 64 (hi - p)
      s.drainPiece c u p n (p + n == q.length || (close && p + n == q.c))) s
    s.modSu c u fun q => { q with d := max q.d hi }.close
  else s

/-! ## The registers of the stream unit (R188, R189) -/

/-- The page offset of slot `k`'s descriptor (2 is slot L). -/
def descOff (k : Nat) : Nat := 0x100 + 0x20 * k

/-- A slot. -/
def Cell.suK (k : Cell) (j : Nat) : SuSlot := if j = 2 then k.suL else k.su j

/-- Changing a slot. -/
def State.modSuK (s : State) (c : CellId) (j : Nat) (f : SuSlot → SuSlot) : State :=
  if j = 2 then s.modCell c fun k => { k with suL := f k.suL } else s.modSu c j f

/-- What a slot's descriptor spells. -/
def State.suDesc (s : State) (c : CellId) (j : Nat) : SuSlot :=
  let w := fun k => s.reg (celPage c * 0x1000 + descOff j + 4 * k)
  { SuSlot.idle with
    active := true, op := bits (w 0) 3 0, cls := bits (w 0) 5 4, peer := bits (w 0) 14 8, sid := bits (w 0) 23 16
    length := (w 1).toNat, addr := (w 2).toNat + 2 ^ 32 * bits (w 3) 1 0, target := bits (w 4) 15 0 }

/-- The bytes of DRAM a descriptor names. -/
def SuSlot.rangeBytes (q : SuSlot) : Nat :=
  match q.op with
  | 2 | 3 => q.length
  | 5 => 2 * q.length
  | 6 => 8 * q.length
  | _ => 0

/-- Whether a slot may not start with its descriptor: OP not allowed, LENGTH or address outside the table, DRAM range past
usable DRAM. A load past the end of the memory breaks the table too (log 28). -/
def badStart (j : Nat) (q : SuSlot) : Bool :=
  let allowed := if j = 2 then q.op == 5 || q.op == 6 else decide (1 ≤ q.op ∧ q.op ≤ 4)
  let lengthOk := match q.op with
    | 5 => decide (1 ≤ q.length ∧ q.length ≤ 16320 ∧ q.target + q.length ≤ 16384)
    | 6 => decide (1 ≤ q.length ∧ q.target + q.length ≤ 32768)
    | _ => decide (1 ≤ q.length ∧ q.length ≤ 2 ^ 31)
  let addrOk := match q.op with
    | 2 | 3 => q.addr % 64 == 0
    | 5 | 6 => q.addr % 4 == 0
    | _ => true
  !allowed || !lengthOk || !addrOk || decide (dramBytes < q.addr + q.rangeBytes)

/-- A code or data load of slot L (R188, R189): words until a poisoned one, which stops the slot. Blocks of instruction memory
loaded whole take fresh check bits (R358). The load waits for a region that is not filled yet (R361); what the cell's router drops does not
come (R182; log 116). -/
def State.slotLoad (s : State) (c : CellId) : State :=
  let q := (s.cell c).suL
  if !q.active then s
  else if !s.rangeFilled q.addr q.rangeBytes then s.awaitFill q.addr q.rangeBytes
  else if !s.cellRoute c 0x58 then s.routeDrop
  else
  let s := if q.op = 5 then
      (List.range 4096).foldl (fun s b =>
        if q.target ≤ 4 * b ∧ 4 * b + 4 ≤ q.target + q.length then s.freshProt (celPage c) 1 b else s) s
    else s
  (List.range q.length).foldl (fun s j =>
    if (s.cell c).suL.err then s
    else
      let size := if q.op = 5 then 2 else 8
      let ((bs, bad), s) := s.peek (q.addr + size * j) size
      if bad then
        (s.modSuK c 2 fun q => { q with active := false, err := true }).blockError (celPage c) 0x17
      else
        let s := if q.op = 5 then s.writeIm c (q.target + j) (BitVec.ofNat 14 (leNat bs))
          else s.writeDm c (q.target + j) ⟨(bs.getD 4 0).setWidth 4, leWord (bs.take 4)⟩
        s.modSuK c 2 fun q => { q with d := q.d + 1 }.close) s

/-- START of a slot. -/
def State.startSlot (s : State) (c : CellId) (m : Master) (v : Word) (j : Nat) : State :=
  let q := s.suDesc c j
  if badStart j q || ((s.cell c).suK j).active then s.refuseRsvd (celPage c) 0x13 m 0x160 v
  else
    let s := s.modSuK c j fun _ => q
    if j = 2 then s.slotLoad c else s.fetchAhead c j

/-- Slots that waited for a region of DRAM go on when it is filled (R361). -/
def State.resumeSlots (s : State) : State :=
  (List.finRange 41).foldl (fun (s : State) c =>
    if !s.pageOn (celPage c) then s
    else ((if (s.cell c).suL.d = 0 then s.slotLoad c else s).fetchAhead c 0).fetchAhead c 1) s

/-- The effect of a write of SU_CMD: CANCEL bits, then START bits. -/
def suCmdEffect (m : Master) (c : CellId) (v : Word) (s : State) : State :=
  let s := (List.range 3).foldl (fun s j =>
    if bit v (3 + j) then s.modSuK c j fun q => { q with active := false } else s) s
  (List.range 3).foldl (fun s j => if bit v j then s.startSlot c m v j else s) s

/-- SU_START: a write of SU_CMD with START bits alone. -/
def execSuStart (m : Master) (c : CellId) (v : Word) (s : State) : Answer :=
  let v := v &&& ~~~(0x38 : Word)
  .next (s.write m (celPage c) 0x160 32 v noCond fun _ => suCmdEffect m c v).1

/-- SU_CANCEL: a write of SU_CMD with CANCEL bits alone. -/
def execSuCancel (m : Master) (c : CellId) (v : Word) (s : State) : Answer :=
  let v := v &&& ~~~(0x07 : Word)
  .next (s.write m (celPage c) 0x160 32 v noCond fun _ => suCmdEffect m c v).1

/-- A write of a slot's descriptor while the slot is ACTIVE is ignored. -/
def descCond (m : Master) (c : CellId) (off : Nat) (v : Word) (s : State) : Option State :=
  if ((s.cell c).suK ((off - 0x100) / 0x20)).active then some (s.refuse (celPage c) 0x14 m off v) else none

/-- SU_STAT as it reads. -/
def suStat (s : State) (c : CellId) : Word :=
  let q := fun j => (s.cell c).suK j
  BitVec.ofNat 32 ((List.range 3).foldl (fun a j =>
    a + (q j).active.toNat * 2 ^ j + (q j).err.toNat * 2 ^ (3 + j) + (q j).done.toNat * 2 ^ (6 + j)) 0)

/-- SU_CNT and SU_XFR as they read. -/
def suCnt (s : State) (c : CellId) (j : Nat) : Word := BitVec.ofNat 32 ((s.cell c).su j).c
def suXfr (s : State) (c : CellId) (j : Nat) : Word := BitVec.ofNat 32 ((s.cell c).su j).d

/-! ## The codec units (R190) -/

/-- The page of a codec unit. -/
def cdcPage (unit : Nat) : Nat := 0x71 + unit

/-- The cells in the order in which they come to a shared engine in one class: those of executions in order of their admission, then the others
(R69). -/
def State.cellOrder (s : State) : List CellId :=
  let first := (s.prog.execs.filter fun e => e.step == 1).map fun e => (Fin.ofNat 41 e.cell : CellId)
  first ++ (List.finRange 41).filter fun c => !first.contains c

/-- The cells whose job waits at or runs on a codec unit, the one with the lowest class of its input slot first. -/
def State.codecWaiting (s : State) (unit : Nat) : List CellId :=
  let cells := s.cellOrder.filter fun c =>
    (s.running c 1).isSome && ((s.cell c).ports.getD 1 .idle).unit == unit
  let cls := fun c => match s.running c 1 with
    | some j => (s.suOf c (j.word 1)).cls
    | none => 0
  (List.range 4).flatMap fun k => cells.filter fun c => cls c == k

/-- The jobs that a unit has begun. A job whose port was cleared is gone. -/
def State.codecJobs (s : State) (unit : Nat) : List CodecJob :=
  (s.fabric.codec.getD unit []).filter fun k => (s.running k.cell 1).isSome

/-- A job at a 64 KiB boundary of its input, with its output published. -/
def CodecJob.atEdge (k : CodecJob) : Bool := k.res.isNone && k.taken.length % 65536 == 0 && k.made.length == k.put

/-- The job that holds a unit: one between two boundaries (R190). -/
def State.codecPresent (s : State) (unit : Nat) : Option CodecJob := (s.codecJobs unit).find? fun k => !k.atEdge

/-- The job that a unit goes on with: the present one, or at a boundary the one of the lowest class, begun or new; none while the unit is
halted (R190). -/
def State.codecTurn (s : State) (unit : Nat) : Option CodecJob :=
  match s.codecPresent unit with
  | some k => some k
  | none =>
    if s.regBit (CDC_CTRL unit) 1 then none
    else (s.codecWaiting unit).head?.map fun c => match (s.codecJobs unit).find? fun k => k.cell == c with
      | some k => k
      | none => { cell := c, taken := [], rel := 0, made := [], put := 0, res := none }

/-- A unit's job as it now stands, first among those begun; and a job that is gone. -/
def State.setCodec (s : State) (unit : Nat) (l : List CodecJob) : State :=
  { s with fabric := { s.fabric with codec := s.fabric.codec.set unit l } }
def State.putCodec (s : State) (unit : Nat) (k : CodecJob) : State :=
  s.setCodec unit (k :: (s.codecJobs unit).filter fun x => x.cell != k.cell)
def State.dropCodec (s : State) (unit : Nat) (c : CellId) : State := s.setCodec unit ((s.codecJobs unit).filter fun x => x.cell != c)

/-- Clearing the window of the lowest bank that BANKS names, in window mode: at the start of every job and at a halt (R294). -/
def State.clearWindow (s : State) (unit : Nat) : State :=
  match maskBanks (s.field? (CDC_CTRL unit) 31 16) with
  | b :: _ =>
    if s.bankMode b = 2 then
      { s with search := { s.search with banks := at' s.search.banks b fun k => { k with window := [], winPos := 0, winRes := [] } } }
    else s
  | [] => s

/-- The end of a codec job: CONSUMED and PRODUCED are written back, tagged UNS; counters and events follow (R190). With the job that HALT let go
on to its boundary, HALT takes effect. -/
def State.codecFinish (s : State) (unit : Nat) (k : CodecJob) (status consumed produced : Nat) : State :=
  match s.running k.cell 1 with
  | none => s.dropCodec unit k.cell
  | some j =>
    let p := cdcPage unit
    let s := s.releaseIn k.cell (hUnit (j.word 1)) (consumed - k.rel)
    let s := s.writeBackWords k.cell j 5 [.uns (BitVec.ofNat 32 consumed), .uns (BitVec.ofNat 32 produced)]
    let s := ((s.count64 p 2 consumed).count64 p 4 produced).count p 6 1
    let s := if status = 0x20 then (s.count p 7 1).raise p 3 else s
    let s := if status = 0x30 then s.count p 8 1 else s
    let s := if s.regBit (CDC_CTRL unit) 1 then s.raise p 4 else s
    ((s.clearWindow unit).dropCodec unit k.cell).endJob k.cell 1 p status

/-- A job ends with status 0x0030 and the counts it has reached. -/
def State.codecStop (s : State) (unit : Nat) (k : CodecJob) : State := s.codecFinish unit k 0x30 k.taken.length k.put

/-- Publishing the output that a job has made, as far as the output stream has room. The job ends when it is decided and all is published; at a
boundary it stops when the unit is to halt. -/
def State.codecFlush (s : State) (unit : Nat) (k : CodecJob) : State :=
  match s.running k.cell 1 with
  | none => s.dropCodec unit k.cell
  | some j =>
    let u := hUnit (j.word 2)
    let q := (s.cell k.cell).su u
    let n := min (k.made.length - k.put) (q.d + sbSize - q.c)
    let s := (s.writeSb k.cell u q.c (sub k.made k.put n)).publish k.cell u n
    let k := { k with put := k.put + n }
    match k.res with
    | some (st, consumed) => if k.put = k.made.length then s.codecFinish unit k st consumed k.made.length else s.putCodec unit k
    | none => if k.atEdge && s.regBit (CDC_CTRL unit) 1 then s.codecStop unit k else s.putCodec unit k

/-- What decompression has come to over the input taken: the output, how much input may be released, and the end. Of input that is not yet decoded
the last 128 KiB stay in the buffer (log 117). -/
def codecDecode (j : Job) (taken : List Byte) : List Byte × Nat × Option (Nat × Nat) :=
  let d := decodeFormat (bits (j.word 0) 2 1) taken (j.word 4).toNat
  let whole := decide (taken.length = (j.word 3).toNat)
  let res := if d.full then some (0x21, d.used) else if whole then some (if d.bad then 0x20 else 0, d.used) else none
  (d.out.toList, max d.used (taken.length - 131072), res)

/-- Whether an output that a command carries can be what the compressor has made of the input taken so far: it decodes to the beginning of it, or
is a valid form of the whole (R119, R294, log 14). -/
def outputSoFar (fmt : Nat) (made taken : List Byte) (whole matching : Bool) : Bool :=
  if whole then validOutput fmt made taken matching
  else
    let d := decodeFormat fmt made taken.length
    !d.full && d.out.toList == taken.take d.out.size && (matching || !d.match_)

/-- What compression has come to with more output: that output, the input released, and the end; where OUTMAX is reached the input consumed is a
free value. None when the output is no output of the unit. -/
def State.codecEncode (s : State) (unit : Nat) (j : Job) (k : CodecJob) (output : List Byte) :
    Option (List Byte × Nat × Option (Nat × Nat)) × State :=
  let max := (j.word 4).toNat
  let made := k.made ++ output
  let whole := decide (k.taken.length = (j.word 3).toNat)
  let matching := (maskBanks (s.field? (CDC_CTRL unit) 31 16)).any fun b => s.bankMode b == 2
  if !outputSoFar (bits (j.word 0) 2 1) made k.taken whole matching then (none, s)
  else if max < made.length then
    let (n, s) := s.free
    let n := k.rel + n.toNat % (k.taken.length - k.rel)
    (some (made.take max, n, some (0x21, n)), s)
  else (some (made, k.taken.length, if whole then some (0, k.taken.length) else none), s)

/-- A job takes in input up to its next boundary, as far as it has come, and makes output of it. -/
def State.codecTake (s : State) (unit : Nat) (j : Job) (k : CodecJob) (output : List Byte) : State :=
  let iu := hUnit (j.word 1)
  let q := (s.cell k.cell).su iu
  let ahead := k.taken.length - k.rel
  let n := min (min ((j.word 3).toNat - k.taken.length) (65536 - k.taken.length % 65536)) (q.d - q.c - ahead)
  if n = 0 then s.putCodec unit k
  else match s.readSb k.cell iu (q.c + ahead) n with
    | (none, s) => s.codecFinish unit k 0x20 k.taken.length k.put
    | (some bs, t) =>
      let k' := { k with taken := k.taken ++ bs }
      let (x, t) := if bit (j.word 0) 0 then (some (codecDecode j k'.taken), t) else t.codecEncode unit j k' output
      match x with
      | none => s.putCodec unit k
      | some (made, rel, res) =>
        let t := match res with
          | none => t.releaseIn k.cell iu (rel - k.rel)
          | some _ => t
        t.codecFlush unit { k' with made := made, rel := if res.isNone then rel else k.rel, res := res }

/-- CODEC_JOB_END: the unit goes on with the job whose turn it is, to the next 64 KiB boundary of its input or to its end, where another job may
take the unit. `output` is what a compressor makes of the input it takes. -/
def execCodecJobEnd (unit : Fin 4) (output : List Byte) (s : State) : Answer :=
  let u := unit.val
  let p := cdcPage u
  match s.codecTurn u with
  | none => .next s
  | some k =>
    match s.running k.cell 1 with
    | none => .next s
    | some j =>
      if k.res.isSome || k.put < k.made.length then .next (s.codecFlush u k)
      else if s.armed p 3 then .next ((s.disarm p 3).codecFinish u k 0x20 k.taken.length k.put)
      else match s.readProt p 14 0 8 8 with
        | (none, s) => .next (s.codecFinish u k 0x30 k.taken.length k.put)
        | (some _, s) => .next (s.codecTake u j k output)

/-- BANKS may not name a bank that a function owns. -/
def cdcCtrlCond (m : Master) (unit : Nat) (v : Word) (s : State) : Option State :=
  if (maskBanks (bits v 31 16)).any fun b => s.bankFunc b != 0 && !s.bankFw b then
    some (s.refuse (cdcPage unit) 0x10 m 0x80 v) else none

/-- HALT: it takes effect at once where no job is between two boundaries, and else when the present one has come to its next (R190). -/
def State.codecHalt (s : State) (unit : Nat) : State :=
  if (s.codecPresent unit).isSome then s
  else match s.codecJobs unit with
    | k :: _ => s.codecStop unit k
    | [] => s.raise (cdcPage unit) 4

/-- The effect of a write of CDC_CTRL. -/
def cdcCtrlEffect (unit : Nat) (v : Word) (d : RegDef) (s : State) : State :=
  let was := s.regBit (CDC_CTRL unit) 1
  let s := s.store (CDC_CTRL unit) v d
  if bit v 1 && !was then s.codecHalt unit else s

/-- CODEC_HALT: a write of CDC_CTRL with HALT set. -/
def execCodecHalt (m : Master) (unit : Fin 4) (v : Word) (s : State) : Answer :=
  let v := setBit v 1 true
  .next (s.write m (cdcPage unit.val) 0x80 32 v (cdcCtrlCond m unit.val v) (cdcCtrlEffect unit.val v)).1

/-- CDC_STAT as it reads. -/
def cdcStat (s : State) (unit : Nat) : Word :=
  let halt := s.regBit (CDC_CTRL unit) 1
  match s.codecTurn unit with
  | none => BitVec.ofNat 32 (halt.toNat * 2)
  | some k =>
    let cls := match s.running k.cell 1 with
      | some j => (s.suOf k.cell (j.word 1)).cls
      | none => 0
    BitVec.ofNat 32 (k.cell.val * 2 ^ 18 + cls * 2 ^ 16 + 1)

/-- Codec output of a cell that waited for room goes on (R190). -/
def State.resumeCodecs (s : State) (c : CellId) : State :=
  (List.range 4).foldl (fun s u => match (s.codecJobs u).find? fun k => k.cell == c && k.put < k.made.length with
    | some k => s.codecFlush u k
    | none => s) s

/-- STREAM_DRAIN: a slot drains; with `close`, at END or when vendor firmware closes it, the last partial flit too. Codec
output that waited for room goes on. -/
def execStreamDrain (c : CellId) (slot : Fin 2) (close : Bool) (s : State) : Answer :=
  if !s.pageOn (celPage c) then .next s
  else .next ((s.drain c slot.val close).resumeCodecs c)

/-! ## The role table (R191, R192) -/

/-- Whether a role may stand on a cell. -/
def roleAllowed (c role : Nat) : Bool :=
  match role with
  | 0 => decide (c ≤ 39)
  | 1 | 2 | 3 | 4 | 5 => decide (c ≤ 15)
  | 6 => decide (16 ≤ c ∧ c ≤ 39)
  | 7 => c == 40
  | _ => false

/-- Whether an entry is one R192 refuses. -/
def State.badRole (s : State) (c : Nat) (r : Role) : Bool :=
  !roleAllowed c r.role || (r.fn != 0 && r.role != 6) || !s.fnExists r.fn

/-- An entry as FAB_RENT lays it out. -/
def roleOf (v : Word) : Role := { role := bits v 7 0, fn := bits v 11 8, slot := bits v 12 12, allow := bits v 23 16 }
def Role.word (r : Role) : Word := BitVec.ofNat 32 (r.role + r.fn * 2 ^ 8 + r.slot * 2 ^ 12 + r.allow * 2 ^ 16)

/-- Setting an entry of the role table; MAXLINK, the largest link load of the table, is a free value (log 29). -/
def State.setRole (s : State) (c : Nat) (r : Role) : State :=
  let (n, s) := s.free
  { s with fabric := { s.fabric with roles := s.fabric.roles.set c r } }.setField FAB_STAT 23 16 (n.toNat % 82)

/-- The conditions of a write of FAB_RENT. -/
def rentCond (m : Master) (v : Word) (s : State) : Option State :=
  let c := s.field? FAB_RSEL 5 0
  if h : c < 41 then
    let r := (s.cell ⟨c, h⟩).run
    if !r.held || r.scrubbing then some (s.refuse 0x70 0x10 m 0x84 v)
    else if s.badRole c (roleOf v) then some (s.refuseRsvd 0x70 0x11 m 0x84 v)
    else none
  else none

/-- The effect of a write of FAB_RENT; FAB_RSEL.CELL above 40 selects nothing. -/
def rentWrite (v : Word) (s : State) : State :=
  let c := s.field? FAB_RSEL 5 0
  if 40 < c then s else s.setRole c (roleOf v)

/-- FAB_RENT as it reads. -/
def rentRead (s : State) : Word :=
  let c := s.field? FAB_RSEL 5 0
  if 40 < c then 0 else (s.fabric.roles.getD c { role := 0, fn := 0, slot := 0, allow := 0 }).word

/-- FAB_STAT as it reads. -/
def fabStat (s : State) : Word :=
  let out := (s.fabric.roles.take 40).countP fun r => r.role == 0
  let moving := s.fabric.reassign.any fun r => decide (3 ≤ r.step)
  (s.reg FAB_STAT &&& 0xFF0000) ||| BitVec.ofNat 32 (out * 256 + moving.toNat)

/-- Holding a cell at once: a pending product is written and EV_CEL_HELD raised (R151). -/
def State.holdNow (s : State) (c : CellId) : State :=
  let s := s.setReg (CEL_CTRL c.val) 1
  if (s.cell c).run.held then s
  else ((s.dropLoad c).modCell c fun k => k.land.modRun fun r =>
    { r with held := true, holdReq := true, stall := .none, latched := false, iterated := false, exts := [], idle := false }).raise (celPage c) 3

/-- A hold followed by a fill, which cancels the stream slots (R113, R189). -/
def State.holdAndFill (s : State) (c : CellId) : State :=
  ((s.holdNow c).modCell c fun k => { k with su0 := .idle, su1 := .idle, suL := .idle }).fillCell c

/-- Releasing a cell with its CEL_CTRL. -/
def State.unhold (s : State) (c : CellId) : State := (s.setReg (CEL_CTRL c.val) 0).releaseCore c

/-- The load of WRELOAD (R191): cell 40 is held and filled, and its memories are loaded from FAB_WIMG × 64. The image is taken as
16,384 code units and then 32,768 data units of the .kco layouts (log 30). The flag says that the whole image was loaded: one that
passes usable DRAM or is not filled yet is not. -/
def State.wardenLoad (s : State) : Bool × State :=
  let c : CellId := 40
  let a := (s.reg FAB_WIMG).toNat * 64
  let s := s.holdAndFill c
  if dramBytes < a + 32768 + 262144 ∨ s.rangeFilled a (32768 + 262144) = false then (false, s)
  else
    let slot := fun op len addr => { SuSlot.idle with active := true, op := op, length := len, addr := addr }
    let s := (s.modSuK c 2 fun _ => slot 5 16384 a).slotLoad c
    if (s.cell c).suL.err then (false, s)
    else
      let s := (s.modSuK c 2 fun _ => slot 6 32768 (a + 32768)).slotLoad c
      (!(s.cell c).suL.err, s)

/-- Whether the segment that stands in cell 40's memories passes the check of the warden ROM (R436). -/
def State.wardenSigned (s : State) : Bool :=
  Config.wardenSigned (s.cell 40).im ((s.cell 40).dm.map fun x => (x.1, x.2.tag ++ x.2.val))

/-- Cell 40 is released at the START vector. -/
def State.wardenGo (s : State) : State := (s.modCell 40 fun k => { k with pc := 0 }).unhold 40

/-- The warden's reload within a reassignment (R193): it stays held with an image that is not whole or fails its check. -/
def State.wreload (s : State) : State :=
  let r := s.wardenLoad
  if r.1 && r.2.wardenSigned then r.2.wardenGo else r.2

/-! ## Flits with no effect beyond the route rule (log 26) -/

/-- JOB_DESCRIPTOR. -/
def execJobDescriptor (f : Flit) (s : State) : Answer := .next (s.onMesh { f with kind := 5 } id)

/-- JOB_STATUS. -/
def execJobStatus (f : Flit) (s : State) : Answer := .next (s.onMesh { f with kind := 6 } id)

/-- CONTROL_FLIT. -/
def execControlFlit (f : Flit) (s : State) : Answer := .next (s.onMesh { f with kind := 7 } id)

/-- FABRIC_READ_RESPONSE: the word that a waiting core's load takes when it issues again (R171, log 26). -/
def execFabricReadResponse (f : Flit) (s : State) : Answer :=
  let f := { f with kind := 3 }
  .next (s.onMesh f fun s =>
    if h : f.dst < 41 then
      if (s.cell ⟨f.dst, h⟩).run.stall = .fabric then
        { s with dram := { s.dram with
            served := s.dram.served ++ [{ id := f.dst, addr := f.aux.toNat, data := sub f.payload 0 4, pois := f.pois }] } }
      else s
    else s)

end Sys2Proof.Machine
end

