-- ==== Sys2Proof/Machine/Search.lean ====
section
/-!
DEFINITION. The search engine (13): banks, the port's five operations, the shadow and its sweep, spreads, window mode,
start-up, self-test and the conditions of its pages.
-/

namespace Sys2Proof.Machine

/-- The page of a bank, and page SRC. -/
def srbPage (b : Nat) : Nat := 0xA1 + b
abbrev srcPage : Nat := 0xA0

/-- A bank. -/
def State.bank (s : State) (b : Nat) : Bank := s.search.banks.getD b .empty

/-- Whether the engine works: its page is on, and no flush has stopped it (R303). -/
def State.srcRuns (s : State) : Bool := s.pageOn srcPage && s.power.flush == 0

/-- Changing a bank. -/
def State.modBank (s : State) (b : Nat) (f : Bank → Bank) : State :=
  { s with search := { s.search with banks := at' s.search.banks b f } }

/-! ## Entries and their order (R283, R284) -/

/-- The priority of a care mask: its number of care bits. -/
def priority (care : BitVec 144) : Nat := (List.range 144).countP fun k => care.getLsbD k

/-- Whether an entry precedes another: higher priority, then lower handle. -/
def Entry.precedes (a b : Entry) : Bool :=
  decide (priority b.care < priority a.care) || (priority a.care == priority b.care && decide (a.handle < b.handle))

/-- Whether an entry matches a key. -/
def Entry.hits (e : Entry) (k : BitVec 144) : Bool := (k ^^^ e.key) &&& e.care == 0

/-- The entry at a position. -/
def Bank.at (b : Bank) (pos : Nat) : Option Entry := (b.ents.find? (·.1 == pos)).map (·.2)

/-- Placing an entry at a position, keeping positions rising. -/
def putEnt (l : List (Nat × Entry)) (pos : Nat) (e : Entry) : List (Nat × Entry) :=
  match l with
  | [] => [(pos, e)]
  | (p, f) :: r => if pos < p then (pos, e) :: (p, f) :: r else if pos = p then (pos, e) :: r else (p, f) :: putEnt r pos e

/-- Freeing a position. -/
def Bank.drop (b : Bank) (pos : Nat) : Bank := { b with ents := b.ents.filter (·.1 != pos) }

/-- The lowest handle free in a bank. -/
def Bank.freeHandle (b : Bank) : Nat :=
  ((List.range 8192).find? fun h => !b.ents.any (·.2.handle == h)).getD 0

/-- The entries of a bank in the order of R284. -/
def inOrder (es : List Entry) : List Entry :=
  es.foldl (fun acc e => acc.takeWhile (fun f => f.precedes e) ++ e :: acc.dropWhile (fun f => f.precedes e)) []

/-! ## The shadow (R297) -/

/-- The free pattern. -/
def ShSlot.free : ShSlot := { key := 1, care := 0, data := 0 }

/-- A slot as its 40 bytes, and from them. -/
def ShSlot.bytes (x : ShSlot) : List Byte := leBytes 18 x.key.toNat ++ leBytes 18 x.care.toNat ++ wordBytes x.data
def ShSlot.ofBytes (bs : List Byte) : ShSlot :=
  { key := BitVec.ofNat 144 (leNat (sub bs 0 18)), care := BitVec.ofNat 144 (leNat (sub bs 18 18)), data := leWord (sub bs 36 4) }

/-- The slot of an entry. -/
def Entry.slot (e : Entry) : ShSlot := ⟨e.key, e.care, e.data⟩

/-- The DRAM address of a slot. -/
def State.shAddr (s : State) (b h : Nat) : Nat := (s.reg SRC_SHBASE).toNat * 64 + (8192 * b + h) * 40

/-- Reading a slot through the cache, a posted write of it first: none when it is uncorrectable. -/
def State.readSlot (s : State) (b h : Nat) : Option ShSlot × State :=
  match s.search.posted.reverse.find? fun w => w.1 == b && w.2.1 == h with
  | some w => (some w.2.2, s)
  | none =>
    let ((bs, bad), s) := s.peek (s.shAddr b h) 40
    (if bad then none else some (.ofBytes bs), s)

/-- Writing a slot in DRAM. -/
def State.writeSlot (s : State) (b h : Nat) (x : ShSlot) : State := s.poke (s.shAddr b h) x.bytes

/-- Posting a slot's write, which pauses the bank's sweep (R299). -/
def State.postSlot (s : State) (b h : Nat) (x : ShSlot) : State :=
  ({ s with search := { s.search with posted := s.search.posted ++ [(b, h, x)] } }).modBank b fun k => { k with waits := k.waits + 1 }

/-- The sweep of a bank restarts no later than a position. -/
def State.restartAt (s : State) (b pos : Nat) : State :=
  s.modBank b fun k => { k with restart := some (min pos (k.restart.getD pos)) }

/-- SRB_SWEEP.CURSOR. -/
def State.cursor (s : State) (b : Nat) : Nat := s.field? (SRB_SWEEP b) 12 0

/-! ## Associated data (R300, R359) -/

/-- Positions of a bank take other data: their blocks are merged (R358). -/
def State.mergeData (s : State) (b : Nat) (l : List Nat) : State :=
  (l.map (· / 2)).eraseDups.foldl (fun (s : State) k =>
    s.mergeProt (srbPage b) 9 k 8 8 ((l.contains (2 * k)).toNat * (2 ^ 32 - 1) + (l.contains (2 * k + 1)).toNat * ((2 ^ 32 - 1) * 2 ^ 32))) s

/-- The data of an entry: an uncorrectable block is read from the shadow slot and rewritten, counted in DATA_REPAIRS; with the
slot lost too it is a free value (log 5). -/
def State.entData (s : State) (b pos : Nat) (e : Entry) : Word × State :=
  match s.readProt (srbPage b) 9 (pos / 2) 8 8 with
  | (some p, s) => (e.data ^^^ BitVec.ofNat 32 (p / 2 ^ (32 * (pos % 2))), s)
  | (none, s) =>
    let (x, s) := s.readSlot b e.handle
    let (v, s) := match x with
      | some x => (x.data, s)
      | none =>
        let (n, s) := s.free
        (n.setWidth 32, s)
    let s := (s.freshProt (srbPage b) 9 (pos / 2)).modBank b fun k =>
      { k with ents := k.ents.map fun q => if q.1 == pos then (q.1, { q.2 with data := v }) else q }
    (v, s.count (srbPage b) 8 1)

/-! ## Searching (R286, R287) -/

/-- The result of a search. -/
structure Found where
  hit     : Bool
  bank    : Nat
  pos     : Nat
  count   : Nat
  cleared : Bool
  data    : Word
  deriving DecidableEq, Repr

/-- RES1 of a result (R295). -/
def Found.res1 (r : Found) : Word :=
  BitVec.ofNat 32 (r.bank + r.hit.toNat * 2 ^ 8 + (decide (2 ≤ r.count)).toNat * 2 ^ 9 + r.cleared.toNat * 2 ^ 10 +
    r.count * 2 ^ 12 + r.pos * 2 ^ 16)

/-- The matching entries of a list of banks: bank, position, entry, in order of bank and position. -/
def State.matches (s : State) (banks : List Nat) (key : BitVec 144) : List (Nat × Nat × Entry) :=
  banks.flatMap fun b => ((s.bank b).ents.filter fun q => q.2.hits key).map fun q => (b, q.1, q.2)

/-- A search of a cell over a bank mask. -/
def State.searchFor (s : State) (c : CellId) (mask : Nat) (key : BitVec 144) : Found × State :=
  let banks := (maskBanks mask).filter fun b => s.mayName c b
  let cleared := decide (banks.length < (maskBanks mask).length)
  let ms := s.matches banks key
  let top := ms.foldl (fun a m => max a (priority m.2.2.care)) 0
  let best := ms.filter fun m => priority m.2.2.care == top
  let s := banks.foldl (fun s b => s.count64 (srbPage b) 2 1) s
  match best with
  | [] => (⟨false, 0, 0, 0, cleared, 0⟩, s)
  | (b, pos, e) :: _ =>
    let s := s.count64 (srbPage b) 4 1
    let (v, s) := s.entData b pos e
    (⟨true, b, pos, min best.length 15, cleared, v⟩, s)

/-- A key or care mask from five descriptor words. -/
def Job.key144 (j : Job) (k : Nat) : BitVec 144 :=
  BitVec.ofNat 144 ((List.range 5).foldl (fun a i => a + (j.word (k + i)).toNat * 2 ^ (32 * i)) 0)

/-- A key or care mask as five words tagged UNS. -/
def keyWords (k : BitVec 144) : List TWord := (List.range 5).map fun i => .uns (BitVec.ofNat 32 (k.toNat / 2 ^ (32 * i)))

/-- The running search job of a cell with a given OP. -/
def State.searchJob (s : State) (c : CellId) (op : Nat) : Option Job :=
  match s.running c 0 with
  | some j => if bits (j.word 0) 2 0 = op ∧ s.srcRuns = true ∧ s.regBit SRC_STAT 0 = false then some j else none
  | none => none

/-- The end of a search job, with words written back (R295). -/
def State.endSearch (s : State) (c : CellId) (j : Job) (k : Nat) (ws : List TWord) (status : Nat) : State :=
  (s.writeBackWords c j k ws).endJob c 0 srcPage status

/-- Changing the running search job of a cell. -/
def State.modSearchJob (s : State) (c : CellId) (f : Job → Job) : State :=
  s.modCell c fun k => { k with ports := at' k.ports 0 fun q => { q with job := q.job.map f } }

/-- Whether a search names a bank whose searches are held (R301). -/
def State.heldSearch (s : State) (c : CellId) (mask : Nat) : Bool :=
  (maskBanks mask).any fun b => s.mayName c b && (s.bank b).holding

/-- SEARCH. -/
def execSearch (c : CellId) (s : State) : Answer :=
  match s.searchJob c 1 with
  | none => .next s
  | some j =>
    if s.heldSearch c (bits (j.word 0) 19 4) then .next s
    else
    let (r, s) := s.searchFor c (bits (j.word 0) 19 4) (j.key144 1)
    .next (s.endSearch c j 6 [.uns r.data, .uns r.res1] 0)

/-- One entry of a search stream: 24 bytes in, 8 bytes out. Input that is uncorrectable is a free value. None while a bank it names is held. -/
def State.streamSearch (s : State) (c : CellId) (iu ou : Nat) : Option State :=
  let qi := (s.cell c).su iu
  let qo := (s.cell c).su ou
  let (bs, s) := s.readSb c iu qi.c 24
  let (bs, s) := match bs with
    | some bs => (bs, s)
    | none =>
      let (a, s) := s.free
      let (b, s) := s.free
      let (d, s) := s.free
      (leBytes 8 a.toNat ++ leBytes 8 b.toNat ++ leBytes 8 d.toNat, s)
  if s.heldSearch c (leNat (sub bs 18 2)) then none
  else
    let (r, s) := s.searchFor c (leNat (sub bs 18 2)) (BitVec.ofNat 144 (leNat (sub bs 0 18)))
    let s := (s.writeSb c ou qo.c (wordBytes r.data ++ wordBytes r.res1)).publish c ou 8
    some (s.releaseIn c iu 24)

/-- Up to a number of them in order: how many were done, with the state. -/
def State.streamSearches (s : State) (c : CellId) (iu ou : Nat) : Nat → Nat × State
  | 0 => (0, s)
  | n + 1 => match s.streamSearch c iu ou with
    | none => (0, s)
    | some s =>
      let (k, s) := s.streamSearches c iu ou n
      (k + 1, s)

/-- SEARCH_STREAM: the entries that have been delivered and for which the output has room; the job ends with the last. -/
def execSearchStream (c : CellId) (s : State) : Answer :=
  match s.searchJob c 2 with
  | none => .next s
  | some j =>
    let iu := hUnit (j.word 1)
    let ou := hUnit (j.word 2)
    let qi := (s.cell c).su iu
    let qo := (s.cell c).su ou
    let total := (j.word 3).toNat
    let n := min (total - j.done) (min ((qi.d - qi.c) / 24) ((qo.d + sbSize - qo.c) / 8))
    let (n, s) := s.streamSearches c iu ou n
    let s := s.modSearchJob c fun j => { j with done := j.done + n }
    if j.done + n < total then .next s else .next (s.endSearch c j 4 [.uns (BitVec.ofNat 32 total)] 0)

/-- A job whose bank has been taken from its cell ends as stopped, its count written back (R296, R303). -/
def State.stopSearch (s : State) (c : CellId) : State :=
  match s.running c 0 with
  | none => s
  | some j =>
    let s := match bits (j.word 0) 2 0 with
      | 2 => s.writeBackWords c j 4 [.uns (BitVec.ofNat 32 j.done)]
      | 4 => s.writeBackWords c j 11 [.uns (BitVec.ofNat 32 j.done)]
      | _ => s
    s.endJob c 0 srcPage 0x30

/-- An operation that waits for shadow capacity is counted once (SHADOW_STALLS). -/
def State.shadowStall (s : State) (c : CellId) (j : Job) : State :=
  if j.acc.isEmpty then (s.modSearchJob c fun j => { j with acc := [1] }).count srcPage 3 1 else s

/-! ## INSERT, DELETE and READ (R291, R293, R295) -/

/-- Where an insert puts an entry: the moved entries, the position it takes and the first position moved or written. -/
def Bank.place (b : Bank) (e : Entry) : List (Nat × Entry) × Nat × Nat :=
  let pt := match (b.ents.filter fun q => q.2.precedes e).getLast? with
    | some q => q.1 + 1
    | none => 0
  let freeAt := fun p => !b.ents.any (·.1 == p)
  if pt < 8192 ∧ freeAt pt = true then (putEnt b.ents pt e, pt, pt)
  else
    let below := ((List.range pt).reverse).find? freeAt
    let above := ((List.range (8192 - pt)).map (pt + ·)).find? freeAt
    let down := match below, above with
      | some f, some g => if pt - f < g - pt then some f else none
      | some f, none => some f
      | none, _ => none
    match down, above with
    | some f, _ =>
      (putEnt (b.ents.map fun q => if f < q.1 ∧ q.1 < pt then (q.1 - 1, q.2) else q) (pt - 1) e, pt - 1, f)
    | none, some g => (putEnt (b.ents.map fun q => if pt ≤ q.1 ∧ q.1 < g then (q.1 + 1, q.2) else q) pt e, pt, pt)
    | none, none => (b.ents, pt, pt)

/-- INSERT: into the lowest bank of the mask with a free position; its shadow write is posted. -/
def execInsert (c : CellId) (s : State) : Answer :=
  match s.searchJob c 3 with
  | none => .next s
  | some j =>
    let banks := maskBanks (bits (j.word 0) 19 4)
    let low := banks.headD 0
    let room := banks.find? fun b => decide ((s.bank b).ents.length < 8192)
    if banks.any fun b => !s.mayName c b then .next (s.stopSearch c)
    else if s.armed (srbPage low) 5 && !banks.isEmpty then
      .next ((((s.disarm (srbPage low) 5).raise (srbPage low) 5)).endJob c 0 srcPage 0x20)
    else match room with
      | none =>
        let s := if banks.isEmpty then s else s.raise (srbPage low) 5
        .next (s.endJob c 0 srcPage 0x20)
      | some b =>
        if 64 ≤ s.search.posted.length then .next (s.shadowStall c j)
        else
          let care := j.key144 6
          let e : Entry := { key := j.key144 1 &&& care, care := care, data := j.word 11, handle := (s.bank b).freeHandle }
          let (ents, pos, first) := (s.bank b).place e
          let s := s.mergeData b ((ents.filter fun q => !(s.bank b).ents.contains q).map fun q => q.1)
          let s := s.modBank b fun k => { k with ents := ents, recov := k.recov.filter (· != e.handle) }
          let s := ((s.restartAt b first).postSlot b e.handle e.slot).count (srbPage b) 6 1
          .next (s.endSearch c j 12 [.uns (BitVec.ofNat 32 (b + pos * 2 ^ 16))] 0)

/-- DELETE: every equal entry, as far as the posted shadow writes have room; the job ends with the last. -/
def execDelete (c : CellId) (s : State) : Answer :=
  match s.searchJob c 4 with
  | none => .next s
  | some j =>
    let banks := maskBanks (bits (j.word 0) 19 4)
    let care := j.key144 6
    let key := j.key144 1 &&& care
    if banks.any fun b => !s.mayName c b then .next (s.stopSearch c)
    else
      let es := banks.flatMap fun b =>
        ((s.bank b).ents.filter fun q => q.2.key == key && q.2.care == care).map fun q => (b, q.1, q.2.handle)
      let room := 64 - s.search.posted.length
      if es.isEmpty then
        if j.done = 0 then .next (s.endSearch c j 11 [] 0x21)
        else .next (s.endSearch c j 11 [.uns (BitVec.ofNat 32 j.done)] 0)
      else if room = 0 then .next (s.shadowStall c j)
      else
        let now := es.take room
        let s := now.foldl (fun s q =>
          ((s.modBank q.1 fun k => { k.drop q.2.1 with recov := k.recov.filter (· != q.2.2) }).restartAt q.1 q.2.1).postSlot
            q.1 q.2.2 .free) s
        let n := j.done + now.length
        if now.length < es.length then .next (s.modSearchJob c fun j => { j with done := n })
        else .next (s.endSearch c j 11 [.uns (BitVec.ofNat 32 n)] 0)

/-- SEARCH_ENTRY_READ: the READ job. -/
def execSearchEntryRead (c : CellId) (s : State) : Answer :=
  match s.searchJob c 5 with
  | none => .next s
  | some j =>
    let b := bits (j.word 0) 23 20
    let pos := (j.word 1).toNat
    if !s.mayName c b then .next (s.stopSearch c)
    else match (s.bank b).at pos with
      | none => .next (s.endJob c 0 srcPage 0x21)
      | some e =>
        let (v, s) := s.entData b pos e
        .next (s.endSearch c j 2 (keyWords e.key ++ keyWords e.care ++ [.uns v]) 0)

/-! ## Window mode (R294) -/

/-- The bank that serves a codec unit: the lowest that BANKS names, if it is in window mode. -/
def State.windowBank (s : State) (unit : Nat) : Option Nat :=
  match maskBanks (s.field? (CDC_CTRL unit) 31 16) with
  | b :: _ => if s.bankMode b = 2 then some b else none
  | [] => none

/-- The most recent earlier window position at which `m` bytes equal those at offset `j` of the presented ones, as its
distance; `back` is the input before them, and only whole groups of eight are in the bank. -/
def windowMatch (back bs : List Byte) (m maxOff j : Nat) : Option Nat :=
  let all := (back ++ bs).toArray
  let here := back.length + j
  ((List.range back.length).reverse).find? (fun p =>
    decide (here - p ≤ maxOff) && (List.range m).all fun i => all.getD (p + i) 0 == all.getD (here + i) 0)
    |>.map fun p => here - p

/-- WINDOW_SEARCH: eleven bytes of a compression's input; then the entry of the first eight is taken into the window. -/
def execWindowSearch (unit : Fin 4) (bs : List Byte) (s : State) : Answer :=
  let u := unit.val
  let cell := (s.codecTurn u).map fun k => k.cell
  match cell.bind (fun c => s.running c 1), s.windowBank u with
  | some j, some b =>
    if bit (j.word 0) 0 then .next s
    else
      let fmt := bits (j.word 0) 2 1
      let (size, m, maxOff) := if fmt = 2 then (32768, 3, 32768) else (65536, 4, 65535)
      let k := s.bank b
      let res := (List.range 8).map fun i => windowMatch k.window (bs.take 11) m maxOff i
      let w := k.window ++ bs.take 8
      .next (s.modBank b fun k =>
        { k with winRes := res, window := w.drop (w.length - size), winPos := k.winPos + 8 })
  | _, _ => .next s

/-! ## Spreading and clearing (R285, R292) -/

/-- SRC_CTRL.STRIDE. -/
def State.stride (s : State) : Nat := s.field? SRC_CTRL 23 16

/-- The spread order: a free position after every STRIDE − 1 entries, while there are free positions. -/
def spreadEnts (stride : Nat) (es : List Entry) : List (Nat × Entry) :=
  (List.range es.length).zip es |>.map fun q => (q.1 + min (8192 - es.length) (q.1 / (stride - 1)), q.2)

/-- A spread; the sweep resumes no later than the first position moved. -/
def State.spreadBank (s : State) (b : Nat) : State :=
  let k := s.bank b
  let ents := spreadEnts s.stride (k.ents.map (·.2))
  match ents.find? fun q => !k.ents.contains q with
  | none => s
  | some q =>
    let cur := s.cursor b
    let s := (s.mergeData b ((ents.filter fun q => !k.ents.contains q).map fun q => q.1)).modBank b fun k => { k with ents := ents }
    s.setField (SRB_SWEEP b) 12 0 (min cur q.1)

/-- The longest run of occupied positions of a bank. -/
def longestRun (ents : List (Nat × Entry)) : Nat :=
  (ents.foldl (fun (a : Nat × Nat × Nat) q =>
    let run := if q.1 = a.2.1 then a.1 + 1 else 1
    (run, q.1 + 1, max a.2.2 run)) (0, 0, 0)).2.2

/-- Whether a bank's job port job names the bank. -/
def Job.namesBank (j : Job) (b : Nat) : Bool :=
  match bits (j.word 0) 2 0 with
  | 1 | 3 | 4 => (bits (j.word 0) 19 4).testBit b
  | 5 => bits (j.word 0) 23 20 == b
  | _ => false

/-- A clear: every position free, the shadow slots at the free pattern, jobs that name the bank stopped, the window empty. -/
def State.clearBank (s : State) (b : Nat) : State :=
  let s := (List.finRange 41).foldl (fun s c => match s.running c 0 with
    | some j => if j.namesBank b then s.stopSearch c else s
    | none => s) s
  let s := { s with search := { s.search with posted := s.search.posted.filter (·.1 != b) } }
  let s := s.modBank b fun k => { k with
    ents := [], window := [], winPos := 0, winRes := [], waits := 0, restart := none, mism := 0, recov := [], holding := false }
  let s := s.setField (SRB_SWEEP b) 12 0 0
  (List.range 8192).foldl (fun s h => s.writeSlot b h .free) s

/-- SRB_STAT.BMODE: start-up, test, recovery, or normal. -/
def State.bmode (s : State) (b : Nat) : Nat :=
  if s.regBit SRC_STAT 0 then 1 else if (s.bank b).testing then 2 else if (s.bank b).recov.isEmpty then 0 else 3

/-- SRB_STAT as it reads; TESTFAIL is stored. -/
def srbStat (s : State) (b : Nat) : Word :=
  let k := s.bank b
  (s.reg (SRB_STAT b) &&& 0x100000) |||
    BitVec.ofNat 32 (min (longestRun k.ents / s.stride) 255 * 2 ^ 24 + k.holding.toNat * 2 ^ 21 + s.bmode b * 2 ^ 16 + k.ents.length)

/-- The conditions of R304 on a write of SRB_CTRL. -/
def srbCtrlCond (m : Master) (b : Nat) (v : Word) (s : State) : Option State :=
  let p := srbPage b
  let fw := bit v 4
  let fn := bits v 3 0
  let mode := bits v 6 5
  if s.bmode b = 1 ∨ s.bmode b = 2 then some (s.refuse p 0x13 m 0x80 v)
  else if (fw = true ∧ fn ≠ 0) ∨ mode = 3 ∨ (mode = 2 ∧ fw = false) ∨ s.fnExists fn = false then
    some (s.refuseRsvd p 0x10 m 0x80 v)
  else if s.bankMode b = 2 ∧ mode ≠ 2 ∧
      (List.range 4).any (fun u => (s.field? (CDC_CTRL u) 31 16).testBit b) = true then some (s.refuse p 0x11 m 0x80 v)
  else if bit v 10 = true ∧ ((s.bankMode b = 1 ∧ s.bankFw b = false) ∨ (s.bank b).ents.isEmpty = false) then
    some (s.refuse p 0x12 m 0x80 v)
  else none

/-- The effect of a write of SRB_CTRL: a change of mode or owner and CLEAR clear the bank before the new mode and owner are
taken; then SPREAD and TEST. -/
def srbCtrlEffect (b : Nat) (v : Word) (s : State) : State :=
  let change := bits v 6 0 != s.field? (SRB_CTRL b) 6 0
  let s := if change || bit v 8 then s.clearBank b else s
  let s := s.setReg (SRB_CTRL b) (v &&& 0x7F)
  let s := if bit v 9 then s.spreadBank b else s
  if bit v 10 then s.modBank b fun k => { k with testing := true } else s

/-- A write of SRB_CTRL. -/
def srbCtrlWrite (m : Master) (b : Nat) (v : Word) (s : State) : Answer :=
  .next (s.write m (srbPage b) 0x80 32 v (srbCtrlCond m b v) fun _ => srbCtrlEffect b v).1

/-- SRB_MODE_OWNER_WRITE: a write of MODE, FW and FUNC. -/
def execSrbModeOwnerWrite (m : Master) (bank : Fin 16) (v : Word) (s : State) : Answer :=
  srbCtrlWrite m bank.val (setBits v 10 8 0) s

/-- CLEAR: a write of SRB_CTRL that keeps mode and owner and sets CLEAR. -/
def execClear (m : Master) (bank : Fin 16) (s : State) : Answer :=
  srbCtrlWrite m bank.val (setBit (s.reg (SRB_CTRL bank.val) &&& 0x7F) 8 true) s

/-- SPREAD: a write that sets SPREAD, or the automatic spread of a bank whose longest run exceeds four strides. -/
def execSpread (m : Option Master) (bank : Fin 16) (s : State) : Answer :=
  let b := bank.val
  match m with
  | some m => srbCtrlWrite m b (setBit (s.reg (SRB_CTRL b) &&& 0x7F) 9 true) s
  | none =>
    if s.srcRuns && !s.regBit SRC_STAT 0 && s.bankMode b == 1 && decide (4 * s.stride < longestRun (s.bank b).ents) then .next (s.spreadBank b)
    else .next s

/-- SRB_SELF_TEST: a write that sets TEST; or the end of the test that runs, which leaves the bank free. The engine's own
operations make no progress at step 4 (R301). -/
def execSrbSelfTest (m : Option Master) (bank : Fin 16) (pass : Bool) (s : State) : Answer :=
  let b := bank.val
  match m with
  | some m => srbCtrlWrite m b (setBit (s.reg (SRB_CTRL b) &&& 0x7F) 10 true) s
  | none =>
    if !(s.bank b).testing || !s.srcRuns || s.field? SRC_STAT 6 4 == 4 then .next s
    else
      let s := s.modBank b fun k => { k with testing := false, ents := [] }
      .next ((s.setReg (SRB_STAT b) (setBit (s.reg (SRB_STAT b)) 20 (!pass))).raise (srbPage b) 6)

/-! ## The sweep (R298, R299, R301) -/

/-- Entering a mismatch in the log. -/
def State.mismatch (s : State) (b pos handle kind : Nat) : State :=
  let s := [3, 2, 1].foldl (fun s k => s.setReg (SRB_MLOG b k) (s.reg (SRB_MLOG b (k - 1)))) s
  let s := s.setReg (SRB_MLOG b 0) (BitVec.ofNat 32 (2 ^ 31 + handle * 2 ^ 16 + kind * 2 ^ 13 + pos))
  ((s.modBank b fun k => { k with mism := k.mism + 1 }).count (srbPage b) 7 1).raise (srbPage b) 3

/-- Rewriting a position from a shadow slot. -/
def State.rewritePos (s : State) (b pos : Nat) (e : Entry) (x : ShSlot) : State :=
  (s.mergeData b [pos]).modBank b fun k =>
    { k with ents := putEnt k.ents pos { key := x.key, care := x.care, data := x.data, handle := e.handle } }

/-- One compare. -/
def State.comparePos (s : State) (b pos : Nat) (e : Entry) (bad : Bool) : State :=
  let (d, s) := s.readProt (srbPage b) 9 (pos / 2) 8 8
  let eBad := bad || d.isNone
  let (x, s) := s.readSlot b e.handle
  if s.armed (srbPage b) 3 then
    let s := (s.disarm (srbPage b) 3).mismatch b pos e.handle 2
    match x with
    | some x => if x = .free then s else s.rewritePos b pos e x
    | none => s
  else match x with
    | none =>
      if eBad then
        ((((s.modBank b fun k => k.drop pos).writeSlot b e.handle .free).count (srbPage b) 10 1).mismatch b pos e.handle 6)
      else (s.writeSlot b e.handle e.slot).mismatch b pos e.handle 5
    | some x =>
      if x = .free then (s.modBank b fun k => k.drop pos).mismatch b pos e.handle 3
      else if eBad then ((s.freshProt (srbPage b) 9 (pos / 2)).rewritePos b pos e x).mismatch b pos e.handle 4
      else if x.key ≠ e.key ∨ x.care ≠ e.care then (s.rewritePos b pos e x).mismatch b pos e.handle 1
      else if x.data ≠ e.data then (s.rewritePos b pos e x).mismatch b pos e.handle 2
      else s

/-- The number of valid shadow slots of a bank. -/
def State.validSlots (s : State) (b : Nat) : Nat :=
  (List.range 8192).countP fun h => match (s.readSlot b h).1 with
    | some x => x != .free
    | none => false

/-- The end of a pass: PASSES counts, the cursor returns to 0, and too many mismatches or unequal counts begin a recovery. -/
def State.passEnd (s : State) (b : Nat) : State :=
  let k := s.bank b
  let n := s.field? (SRB_SWEEP b) 31 16
  let s := s.setReg (SRB_SWEEP b) (BitVec.ofNat 32 ((n + 1) % 65536 * 65536))
  let bad := decide (k.ents.length ≠ s.validSlots b) || decide (s.field? SRC_CTRL 27 24 < k.mism)
  let s := s.modBank b fun k => { k with mism := 0 }
  if bad then
    ((s.modBank b fun k => { k with recov := k.ents.map (·.2.handle) }).count (srbPage b) 9 1).raise (srbPage b) 4
  else s

/-- A recovery: every position whose handle is unchanged since it began is rewritten from its slot (R301, R303). -/
def State.recoverBank (s : State) (b : Nat) : State :=
  let k := s.bank b
  let s := (k.ents.filter fun q => k.recov.contains q.2.handle).foldl (fun s q =>
    match s.readSlot b q.2.handle with
    | (some x, s) => if x = .free then s.modBank b fun k => k.drop q.1 else s.rewritePos b q.1 q.2 x
    | (none, s) => s) s
  s.modBank b fun k => { k with recov := [] }

/-- Rebuilding a bank from its shadow: the valid slots in the order of R284, spread. -/
def State.reloadBank (s : State) (b : Nat) : State :=
  let (es, s) := (List.range 8192).foldl (fun (a : List Entry × State) h =>
    match a.2.readSlot b h with
    | (some x, s) => (if x = .free then a.1 else a.1 ++ [{ key := x.key, care := x.care, data := x.data, handle := h }], s)
    | (none, s) => (a.1, s)) ([], s)
  s.modBank b fun k => { k with ents := spreadEnts s.stride (inOrder es) }

/-- SWEEP_COMPARE: the next occupied position of a bank in index mode, and the end of the pass after the last; in recovery,
the recovery. `flip` is what an upset has made of the entry, `bad` that its key reads uncorrectable, or in recovery the bank's handle table
(log 3): then searches are held, and the next one rebuilds the bank's order from its shadow (R301). The sweep waits for posted writes of the
bank (R299). -/
def execSweepCompare (bank : Fin 16) (flip : Option Entry) (bad : Bool) (s : State) : Answer :=
  let b := bank.val
  let k := s.bank b
  if !s.srcRuns || s.regBit SRC_STAT 0 || s.bankMode b != 1 || k.waits != 0 then .next s
  else if !k.recov.isEmpty then
    if s.field? SRC_STAT 6 4 = 4 then .next s
    else if k.holding then .next ((s.reloadBank b).modBank b fun k => { k with recov := [], holding := false })
    else if bad then .next (s.modBank b fun k => { k with holding := true })
    else .next (s.recoverBank b)
  else
    let cur := s.cursor b
    match k.ents.find? fun q => decide (cur ≤ q.1) with
    | none => .next (s.passEnd b)
    | some (pos, e) =>
      let e := match flip with
        | some f => { f with handle := e.handle }
        | none => e
      let s := s.modBank b fun k => { k with ents := putEnt k.ents pos e }
      let s := s.comparePos b pos e bad
      let s := s.setField (SRB_SWEEP b) 12 0 (pos + 1)
      if ((s.bank b).ents.any fun q => decide (pos < q.1)) && decide (pos < 8191) then .next s else .next (s.passEnd b)

/-- SHADOW_WRITE_COMPLETE: the oldest posted write reaches DRAM; with its bank's last one the sweep resumes. -/
def execShadowWriteComplete (s : State) : Answer :=
  match (if s.srcRuns then s.search.posted else []) with
  | [] => .next s
  | (b, h, x) :: r =>
    let s := { s with search := { s.search with posted := r } }
    let s := (s.writeSlot b h x).modBank b fun k => { k with waits := k.waits - 1 }
    let k := s.bank b
    match k.waits, k.restart with
    | 0, some p =>
      let s := s.setField (SRB_SWEEP b) 12 0 (min (s.cursor b) p)
      .next (s.modBank b fun k => { k with restart := none })
    | _, _ => .next s

/-! ## Page SRC (R301, R302, R304) -/

/-- SRC_CTRL takes fields in their ranges. -/
def srcCtrlCond (m : Master) (v : Word) (s : State) : Option State :=
  let lim := bits v 27 24
  let stride := bits v 23 16
  let ms := bits v 13 0
  if lim < 1 ∨ stride < 4 ∨ 128 < stride ∨ ms < 10 ∨ 10000 < ms then some (s.refuse srcPage 0x10 m 0x80 v) else none

/-- SRC_SHBASE is writable while START = 1. -/
def shbaseCond (m : Master) (v : Word) (s : State) : Option State :=
  if s.regBit SRC_STAT 0 then none else some (s.refuse srcPage 0x11 m 0x88 v)

/-- SRC_CMD is refused while INIT or RELOAD runs. -/
def srcCmdCond (m : Master) (v : Word) (s : State) : Option State :=
  if s.search.work ≠ 0 then some (s.refuse srcPage 0x11 m 0x8C v) else none

/-- The effect of a write of SRC_CMD: INIT frees every bank and slot; RELOAD starts the rebuild. -/
def srcCmdEffect (v : Word) (s : State) : State :=
  if bits v 1 0 = 0 then s
  else
    let s := s.setReg SRC_STAT (setBit (s.reg SRC_STAT) 0 true)
    if bit v 0 then
      let s := (List.range 16).foldl (fun s b => s.clearBank b) s
      { s with search := { s.search with work := 1 } }
    else { s with search := { s.search with work := 2 } }

/-- INIT. -/
def execInit (m : Master) (s : State) : Answer :=
  .next (s.write m srcPage 0x8C 32 1 (srcCmdCond m 1) fun _ => srcCmdEffect 1).1

/-- RELOAD. -/
def execReload (m : Master) (s : State) : Answer :=
  .next (s.write m srcPage 0x8C 32 2 (srcCmdCond m 2) fun _ => srcCmdEffect 2).1

/-- INIT or RELOAD ends; at throttle step 4 it makes no progress. -/
def State.endWork (s : State) : State :=
  if s.search.work = 0 ∨ s.field? SRC_STAT 6 4 = 4 ∨ s.srcRuns = false then s
  else
    let s := if s.search.work = 2 then
        (List.range 16).foldl (fun s b => if s.bankMode b = 1 then s.reloadBank b else s) s else s
    let s := { s with search := { s.search with work := 0 } }
    (s.setReg SRC_STAT (setBit (s.reg SRC_STAT) 0 false)).raise srcPage 4

/-- The throttle step of a junction temperature in °C. -/
def srcStep (t : Int) : Nat := if t < 95 then 0 else if t < 105 then 1 else if t < 115 then 2 else if t < 125 then 3 else 4

/-- SRC_THROTTLE_SAMPLE: TJ and STEP follow page TMP; the cycles of the last millisecond in which the engine's own operations
were withheld are counted while it has such work. -/
def execSrcThrottleSample (s : State) : Answer :=
  if !s.pageOn srcPage then .next s
  else
    let tj := s.field? TMP_STAT 7 0
    let step := srcStep ((tj : Int) - 64)
    let old := s.field? SRC_STAT 6 4
    let own := s.search.work != 0 || (List.range 16).any fun b => (s.bank b).testing || !(s.bank b).recov.isEmpty
    let held := if old = 4 then 800000 else 800000 - 800000 / 2 ^ old
    let s := if own && old != 0 then s.count srcPage 2 held else s
    let s := s.setReg SRC_STAT (setBits (setBits (s.reg SRC_STAT) 15 8 tj) 6 4 step)
    .next (if step = old then s else s.raise srcPage 3)

/-- SRC_STAT as it reads, with SHQ. -/
def srcStat (s : State) : Word := setBits (s.reg SRC_STAT) 22 16 s.search.posted.length

end Sys2Proof.Machine
end

