-- ==== Sys2Proof/Machine/Crypto.lean ====
section
/-!
DEFINITION. The cryptography complex (14): key slots and their commands, usage limits, cipher jobs and digest jobs of cells,
context slots, and what an alarm or a key-slot fault clears (R324, R455).
-/

namespace Sys2Proof.Machine

abbrev keyPage : Nat := 0xC0
def cipPage (lane : Nat) : Nat := 0xC1 + lane
def digPage (lane : Nat) : Nat := 0xD4 + lane

/-- Changing a key slot, a cipher lane, a context slot. -/
def State.modKey (s : State) (n : Nat) (f : KeySlot → KeySlot) : State :=
  { s with crypto := { s.crypto with slots := at' s.crypto.slots n f } }
def State.modLane (s : State) (l : Nat) (f : Lane → Lane) : State :=
  { s with crypto := { s.crypto with lanes := at' s.crypto.lanes l f } }
def State.modCtx (s : State) (k : Nat) (f : DigCtx → DigCtx) : State :=
  { s with crypto := { s.crypto with ctxs := at' s.crypto.ctxs k f } }

/-- A cipher lane. -/
def State.lane (s : State) (l : Nat) : Lane := s.crypto.lanes.getD l { job := none, path := none, keys := [] }

/-- The bytes of a slot's key, and of a label. -/
def KeySlot.bytes (k : KeySlot) : List Byte := leBytes (16 + 8 * k.klen) k.key.toNat
def labelBytes (l : BitVec 512) : List Byte := leBytes 64 l.toNat

/-- LIMIT of a slot (R316). -/
def KeySlot.limit (k : KeySlot) : Nat := 2 ^ k.lim

/-- Changing a job of a cell's port. -/
def State.modJob (s : State) (c : CellId) (p : Nat) (f : Job → Job) : State :=
  s.modCell c fun k => { k with ports := at' k.ports p fun q => { q with job := q.job.map f } }

/-! ## Alarms at the monitor (R454, R455) -/

/-- An alarm is raised: its ACTIVE and SEEN bits, EV_EVT_ALARM and the counter ALARMS. -/
def State.raiseAlarm (s : State) (n : Nat) : State :=
  let s := s.setReg EVT_ALARM (setBit (setBit (s.reg EVT_ALARM) n true) (8 + n) true)
  let s := { s with events := { s.events with alarms := if s.events.alarms.contains n then s.events.alarms else s.events.alarms ++ [n] } }
  (s.count 0x005 7 1).raise 0x005 3

/-! ## Digest contexts and clearing (R322 to R324) -/

/-- A digest lane clears its result registers. -/
def State.clearDigRes (s : State) (lane : Nat) : State :=
  let s := (List.range 16).foldl (fun s k => s.setReg (DIG_RES lane k) 0) s
  s.setReg (DIG_STAT lane) (setBit (s.reg (DIG_STAT lane)) 15 false)

/-- Clearing a context slot, with fresh check bits. -/
def State.clearCtx (s : State) (k : Nat) : State :=
  let s := s.modCtx k fun _ => .free
  (List.range 28).foldl (fun s b => s.freshProt 0xD4 10 (k * 28 + b)) s

/-- The end of a digest job with ALARM (R324). -/
def State.alarmDigest (s : State) (c : CellId) : State :=
  let s := (List.range 32).foldl (fun s k =>
    if (s.crypto.ctxs.getD k .free).owner = some (c, 3) then s.clearCtx k else s) s
  s.endJob c 3 (digPage 0) 0x32

/-- What every alarm clears at the digest lanes: results, contexts, and the jobs under way. -/
def State.clearDigests (s : State) : State :=
  let s := (List.finRange 41).foldl (fun s c => match s.running c 3 with
    | some j => if j.done != 0 || !j.acc.isEmpty ||
        s.crypto.ctxs.any (fun k => k.owner == some (c, 3)) then s.alarmDigest c else s
    | none => s) s
  let s := (List.range 32).foldl State.clearCtx s
  let s : State := { s with crypto := { s.crypto with digs := List.replicate 4 none } }
  (List.range 4).foldl (fun s l => ((s.clearDigRes l).count (digPage l) 6 1).raise (digPage l) 3) s

/-- Erasing a slot: the key, label and count; its use, limit and owner stay. -/
def State.eraseKey (s : State) (n : Nat) : State :=
  s.modKey n fun k => { k with valid := false, key := 0, klen := 0, root := false, label := 0, use := 0 }

/-- The jobs that are held on lanes under a slot end with a status, and their lanes are free. -/
def State.endHeld (s : State) (n status : Nat) : State :=
  (List.range 16).foldl (fun s l =>
    match (s.lane l).job with
    | some j =>
      if j.slot = n then (s.modLane l fun k => { k with job := none }).endJob j.cell j.port (cipPage l) status else s
    | none => s) s

/-- An alarm other than a key-slot fault: every slot, the lanes' key registers and the installed root are erased, held jobs end
with ALARM, and KEY refuses commands until it has cleared. -/
def State.cryptoAlarm (s : State) : State :=
  let s := s.clearDigests
  let s := (List.range 64).foldl (fun s n => (s.endHeld n 0x32).eraseKey n) s
  let s := { s with crypto := { s.crypto with
    root := none, lanes := s.crypto.lanes.map fun (l : Lane) => { l with keys := [] } } }
  (s.setReg KEY_STAT (setBit (s.reg KEY_STAT) 3 true)).raise keyPage 5

/-- A key-slot fault (R324): that slot alone is erased; the KEYSLOT alarm of R454 follows. -/
def State.keyFault (s : State) (n : Nat) : State :=
  let s := (s.clearDigests.endHeld n 0x32).eraseKey n
  let s := (List.range 8).foldl (fun s b => s.freshProt keyPage 11 (n * 8 + b)) s
  ((s.count keyPage 4 1).raise keyPage 4).raiseAlarm 4

/-- Using a slot's storage: an uncorrectable check, or a forced fault, is a key-slot fault (R324, R359). -/
def State.useKey (s : State) (n : Nat) : Bool × State :=
  let r := (List.range 8).foldl (fun (a : Bool × State) b =>
    match a.2.readProt keyPage 11 (n * 8 + b) 8 8 with
    | (some _, s) => (a.1, s)
    | (none, s) => (false, s)) (true, s)
  if r.1 then r else (false, r.2.keyFault n)

/-! ## Key commands (R313 to R317, R330) -/

/-- KEY_LABEL as 64 bytes in one value. -/
def State.labelReg (s : State) : BitVec 512 :=
  BitVec.ofNat 512 ((List.range 16).foldl (fun a k => a + (s.reg (KEY_LABEL k)).toNat * 2 ^ (32 * k)) 0)

/-- The byte k of a label. -/
def labelByte (l : BitVec 512) (k : Nat) : Nat := (l.extractLsb' (8 * k) 8).toNat
def labelEpoch (l : BitVec 512) : BitVec 32 := l.extractLsb' 32 32

/-- A label with another epoch. -/
def withEpoch (l : BitVec 512) (e : BitVec 32) : BitVec 512 :=
  (l &&& ~~~(0xFFFFFFFF00000000 : BitVec 512)) ||| (e.setWidth 512 <<< 32)

/-- Whether a DERIVE with a label, length and root into a slot agrees with R313 and R315. -/
def State.labelOk (s : State) (n : Nat) (l : BitVec 512) (klen : Nat) (root : Bool) : Bool :=
  let purpose := labelByte l 0
  let fn := labelByte l 1
  let nsid := labelByte l 2
  let k := s.key n
  let form := decide (1 ≤ purpose ∧ purpose ≤ 4) && (decide (fn ≤ 15) || fn == 0xFF) && decide (nsid ≤ 32) &&
    (purpose == 1 || nsid == 0) && decide (klen ≤ 2) && labelByte l 3 == klen && labelEpoch l != 0xFFFFFFFF &&
    (purpose == 4 || l >>> 64 == 0)
  let want := if purpose = 2 then s.crypto.root.isSome else false
  form && root == want &&
    (if n ≤ 32 then purpose == 1 && fn == 0xFF && nsid == n
     else if n = 33 then purpose == 2 && fn == 0xFF
     else if n ≤ 39 then purpose == 4 && fn == 0xFF
     else !k.fw && (purpose == 2 || purpose == 3) && fn == k.func)

/-- The root a slot's key comes from, as bytes. -/
def State.rootBytes (s : State) (prov : Bool) : List Byte :=
  leBytes 32 (if prov then s.crypto.root.getD 0 else Config.fuseRoot).toNat

/-- The key a root and label give, as a slot holds it. -/
def State.deriveFor (s : State) (prov : Bool) (l : BitVec 512) (klen : Nat) : BitVec 256 :=
  BitVec.ofNat 256 (leNat (deriveKey (s.rootBytes prov) (labelBytes l) (128 + 64 * klen)))

/-- The key a label names, apart from its epoch: its number in `epochs`. -/
def labelKey (l : BitVec 512) : Option Nat :=
  let fn := labelByte l 1
  match labelByte l 0 with
  | 1 => some (labelByte l 2)
  | 2 => some (if fn = 0xFF then 33 else 64 + fn)
  | 3 => some (80 + fn)
  | _ => none

/-- The last epoch of a key, and keeping a later one. -/
def State.lastEpoch (s : State) (k : Nat) : Word := s.crypto.epochs.get (fun _ => 0) k
def State.keepEpoch (s : State) (l : BitVec 512) : State :=
  match labelKey l with
  | some k =>
    if (s.lastEpoch k).toNat < (labelEpoch l).toNat then
      { s with crypto := { s.crypto with epochs := s.crypto.epochs.set (fun _ => 0) k (labelEpoch l) } }
    else s
  | none => s

/-- A key enters a slot with its label, fresh check bits and a count of 0 (R313, R316). -/
def State.loadKey (s : State) (n : Nat) (root : Bool) (l : BitVec 512) (klen : Nat) : State :=
  let key := s.deriveFor root l klen
  let s := s.modKey n fun k => { k with valid := true, key := key, klen := klen, root := root, label := l, use := 0 }
  let s := (List.range 8).foldl (fun s b => s.freshProt keyPage 11 (n * 8 + b)) s
  (s.keepEpoch l).count keyPage 2 1

/-- The namespace whose key a page set is under: 0 for journal pages and checkpoints (R310). -/
def UnitTag.keyNs (t : UnitTag) : Nat := if t.kind = 0 ∨ t.kind = 1 then t.nsid else 0

/-- Blocks that may still be encrypted under a slot. -/
def State.blocksLeft (s : State) (slot : Nat) : Nat := (s.key slot).limit - (s.key slot).use.toNat

/-- Whether a lane holds a path job at the limit: once the slot has been derived again the job goes on (R317). -/
def State.pathHeld (s : State) (l : Nat) : Bool := (s.lane l).path.any fun h => s.blocksLeft h.slot == 0

/-- Whether a page set is being encrypted under a slot: some of its blocks have passed, and it is not held at the limit. -/
def State.pathRunning (s : State) (n : Nat) : Bool :=
  (s.key n).valid && s.media.reqs.any fun r => r.phase == .cipher && (r.data.any fun p => p.tag.keyNs == n) &&
    r.lane.any fun l => (r.word != 0 || (s.lane l).path.any fun h => h.req == r.id) && !s.pathHeld l

/-- Whether a job that is not held at the limit processes blocks under a slot. -/
def State.keyRunning (s : State) (n : Nat) : Bool :=
  s.pathRunning n || (List.finRange 41).any fun c => match s.running c 2 with
    | some j => bits (j.word 1) 5 0 == n && !(List.range 16).any fun l => match (s.lane l).job with
        | some h => h.cell == c && h.port == 2 && h.stopped
        | none => false
    | none => false

/-- Whether jobs are held at the limit under a slot. -/
def State.keyHeld (s : State) (n : Nat) : Bool :=
  (List.range 16).any fun l => match (s.lane l).job, (s.lane l).path with
    | some j, _ => j.stopped && j.slot == n
    | none, some p => p.slot == n && s.pathHeld l
    | none, none => false

/-- The result of a command in KEY_STAT. -/
def State.keyResult (s : State) (r : Nat) : State := s.setReg KEY_STAT (setBits (s.reg KEY_STAT) 15 8 r)

/-- A refusal of the KEY block: RESULT, EV_KEY_REFUSED, the counter, and where the table names one an ERR_CAP code. -/
def State.keyRefuse (s : State) (m : Master) (v : Word) (r : Nat) (code : Option Nat) : State :=
  let s := ((s.keyResult r).count keyPage 5 1).raise keyPage 6
  match code with
  | some c => s.refuse keyPage c m 0x84 v
  | none => s

/-- Jobs held under a slot continue, or end with KEY_LIMIT. -/
def State.settleHeld (s : State) (n : Nat) (goOn : Bool) : State :=
  if goOn then
    (List.range 16).foldl (fun s l =>
      match (s.lane l).job with
      | some j =>
        if j.slot = n then (s.modLane l fun k => { k with job := k.job.map fun j => { j with stopped := false } }).modJob
          j.cell j.port fun q => { q with status := none }
        else s
      | none => s) s
  else
    let s := s.endHeld n 0x31
    (List.range 16).foldl (fun s l => s.modLane l fun k =>
      { k with path := match k.path with
          | some p => if p.slot = n then none else some p
          | none => none }) s

/-- DERIVE. -/
def State.derive (s : State) (m : Master) (v : Word) : State :=
  let n := bits v 8 3
  let klen := bits v 10 9
  let root := bit v 11
  let l := s.labelReg
  let k := s.key n
  let goOn := k.valid && withEpoch l (labelEpoch k.label) == k.label && decide ((labelEpoch k.label).toNat < (labelEpoch l).toNat)
  if s.keyRunning n && !(goOn && s.keyHeld n) then s.keyRefuse m v 1 (some 0x10)
  else if k.valid && l == k.label && klen == k.klen && root == k.root then s.keyResult 0
  else if root && s.crypto.root.isNone then s.keyRefuse m v 2 (some 0x11)
  else if !s.labelOk n l klen root then s.keyRefuse m v 4 (some 0x11)
  else
    ((s.loadKey n root l klen).settleHeld n goOn).keyResult 0

/-- ERASE. -/
def State.eraseCmd (s : State) (m : Master) (v : Word) : State :=
  let n := bits v 8 3
  if s.keyRunning n then s.keyRefuse m v 1 (some 0x10)
  else ((s.settleHeld n false).eraseKey n).keyResult 0

/-- The blob in KEY_WRAP, its wrapping key, and the root it holds if its tag verifies (R314). -/
def unwrap (s : State) (blob : List Byte) : Option (BitVec 256) :=
  let label : List Byte := [4, 0xFF, 0, 2, 0, 0, 0, 0, 1] ++ List.replicate 55 0
  let key := deriveKey (s.rootBytes false) label 256
  let (p, ok) := ccmDec key (blob.take 13) [] (sub blob 16 32) (sub blob 48 16)
  if ok then some (BitVec.ofNat 256 (leNat p)) else none

/-- Installing a blob as the provisioned root, or refusing it by its tag. -/
def State.installBlob (s : State) (blob : List Byte) : Option State :=
  (unwrap s blob).map fun r => { s with crypto := { s.crypto with root := some r } }

/-- INSTALL. -/
def State.installCmd (s : State) (m : Master) (v : Word) : State :=
  if (match m with | .cell _ => true | _ => false) then s.keyRefuse m v 6 none
  else if (m == .sideband && s.regBit KEY_CTRL 0) || s.events.tamper then s.keyRefuse m v 5 (some 0x12)
  else match s.installBlob (s.crypto.wrap.flatMap wordBytes) with
    | none => s.keyRefuse m v 3 (some 0x12)
    | some s => s.keyResult 0

/-- ERASE_ALL: every slot; jobs held at the limit end with KEY_LIMIT. -/
def State.eraseAllCmd (s : State) (m : Master) (v : Word) : State :=
  if (match m with | .cell _ => true | _ => false) then s.keyRefuse m v 6 none
  else ((List.range 64).foldl (fun s n => (s.settleHeld n false).eraseKey n) s).keyResult 0

/-- The effect of a write of KEY_CMD. -/
def keyCmdEffect (m : Master) (v : Word) (s : State) : State :=
  if s.regBit KEY_STAT 3 then s.keyRefuse m v 7 none
  else match bits v 2 0 with
    | 1 => s.derive m v
    | 2 => s.eraseCmd m v
    | 3 => s.installCmd m v
    | 4 => s.eraseAllCmd m v
    | _ => s.keyRefuse m v 8 none

/-- ROOT_LOCK: a write of KEY_CTRL with bit 0 set. -/
def execRootLock (m : Master) (v : Word) (s : State) : Answer :=
  let v := setBit v 0 true
  .next (s.write m keyPage 0x80 32 v noCond fun d s => s.store KEY_CTRL v d).1

/-! ## The window and the copies of page KEY -/

/-- The slot that KEY_SSEL selects. -/
def State.ksel (s : State) : Nat := s.field? KEY_SSEL 5 0

/-- KEY_STAT, KEY_SINFO, KEY_SEPOCH, KEY_SUSE0, KEY_SUSE1, KEY_SLIM and KEY_SOWN as they read. -/
def keyStat (s : State) : Word :=
  setBit (setBit (s.reg KEY_STAT) 2 (s.regBit KEY_CTRL 0)) 1 s.crypto.root.isSome
def keySinfo (s : State) : Word :=
  let k := s.key s.ksel
  let fn := labelByte k.label 1
  let held := s.keyHeld s.ksel
  if !k.valid then BitVec.ofNat 32 (held.toNat * 2 ^ 16)
  else BitVec.ofNat 32 ((fn == 0xFF).toNat * 2 ^ 17 + held.toNat * 2 ^ 16 + (if fn = 0xFF then 0 else fn % 16) * 2 ^ 12 +
    k.purpose * 2 ^ 4 + k.root.toNat * 8 + k.klen * 2 + 1)
def keySepoch (s : State) : Word := labelEpoch (s.key s.ksel).label
def keySuse0 (s : State) : Word := (s.key s.ksel).use.setWidth 32
def keySuse1 (s : State) : Word := ((s.key s.ksel).use >>> 32).setWidth 32
def keySlim (s : State) : Word := BitVec.ofNat 32 (s.key s.ksel).lim
def keySown (s : State) : Word := BitVec.ofNat 32 ((s.key s.ksel).func + 16 * (s.key s.ksel).fw.toNat)

/-- KEY_SUSE0_READ: the high byte is latched for the same master. -/
def execKeySuse0Read (m : Master) (s : State) : Answer :=
  let s := s.arrive m
  match s.checkAccess m keyPage 0x98 32 true 0 with
  | .stop s r => .next (s.reply m r)
  | .pass _ => .next ((s.latch keyPage 0x9C m (keySuse1 s)).answerRead m keyPage (keySuse0 s))

/-- A write of KEY_SLIM or KEY_SOWN needs a slot that no job uses; LIMLOG2 is 16 to 39. -/
def slotWinCond (m : Master) (off : Nat) (v : Word) (s : State) : Option State :=
  let n := s.ksel
  if s.keyRunning n || s.keyHeld n || (off == 0xA0 && (decide (bits v 5 0 < 16) || decide (39 < bits v 5 0))) then
    some (s.refuse keyPage 0x13 m off v) else none
def slimWrite (v : Word) (s : State) : State := s.modKey s.ksel fun k => { k with lim := bits v 5 0 }
def sownWrite (v : Word) (s : State) : State := s.modKey s.ksel fun k => { k with fw := bit v 4, func := bits v 3 0 }

/-- KEY_WRAP is write only. -/
def wrapWrite (k : Nat) (v : Word) (s : State) : State := { s with crypto := { s.crypto with wrap := s.crypto.wrap.set k v } }

/-! ## Usage (R316) -/

/-- Counting `n` encrypted blocks of a slot: the block that brings the count to LIMIT raises EV_KEY_LIMIT. -/
def State.useBlocks (s : State) (slot n : Nat) : State :=
  let k := s.key slot
  let s := s.modKey slot fun k => { k with use := k.use + BitVec.ofNat 40 n }
  if 0 < n ∧ k.use.toNat + n = k.limit then (s.count keyPage 3 1).raise keyPage 3 else s

/-! ## Cipher jobs of cells (R306, R307, R316, R317, R326) -/

/-- The blocks of one CMAC message. -/
def macLen (n : Nat) : Nat := max 1 ((n + 15) / 16)

/-- The 16-byte blocks of a job: of the formatted input for CCM and CMAC, of the payload for the others (log 32). -/
def Job.blocks (j : Job) : Nat :=
  let len := (j.word 5).toNat
  match j.mode with
  | 4 => 1 + (if (j.word 4).toNat = 0 then 0 else ((j.word 4).toNat + 17) / 16) + (len + 15) / 16
  | 5 => if j.rlen = 0 then macLen len else len / (4 * j.rlen) * macLen (4 * j.rlen)
  | _ => (len + 15) / 16

/-- The key of a block of a job from its keys, each with the block from which it applies. -/
def segKey (segs : List (Nat × List Byte)) (i : Nat) : List Byte :=
  ((segs.filter fun q => decide (q.1 ≤ i)).getLastD (0, [])).2

/-- The output of a job over its source bytes, and whether a verification held. -/
def cipherOut (j : Job) (segs : List (Nat × List Byte)) (src : List Byte) : List Byte × Bool :=
  let key := segKey segs
  let len := (j.word 5).toNat
  let alen := (j.word 4).toNat
  let iv := j.iv
  match j.mode with
  | 1 => (if j.decrypt then cbcDec (key 0) iv (chunks 16 (src.take len)) else cbcEnc key 0 iv (chunks 16 (src.take len)), true)
  | 2 => (ctrCrypt key iv j.ctrw (src.take len), true)
  | 3 => (if j.decrypt then cfbDec (key 0) iv (chunks 16 (src.take len)) else cfbEnc key 0 iv (chunks 16 (src.take len)), true)
  | 4 =>
    let nonce := iv.take j.nlen
    let ad := src.take alen
    let p := sub src alen len
    if j.decrypt then ccmDec (key 0) nonce ad p (sub src (alen + len) j.tlen) else (ccmEnc key nonce ad p j.tlen, true)
  | _ =>
    let msg := src.take len
    if j.decrypt then
      if j.rlen = 0 then ([], (cmacOver key msg).take j.tlen == sub src len j.tlen) else ([], true)
    else if j.rlen = 0 then ((cmacOver key msg).take j.tlen, true)
    else
      let per := macLen (4 * j.rlen)
      ((List.range (len / (4 * j.rlen))).flatMap fun r =>
        cmacOver (fun i => key (r * per + i)) (sub msg (4 * j.rlen * r) (4 * j.rlen)), true)

/-- Writing a job's output at DOFF; in record mode each tag goes to bytes 16 to 31 of its group of 32. -/
def State.writeCipher (s : State) (c : CellId) (j : Job) (out : List Byte) : State :=
  let u := hUnit (j.word 6)
  let off := (j.word 7).toNat
  if j.mode = 5 ∧ j.rlen ≠ 0 then
    (List.range (out.length / 16)).foldl (fun s r => s.writeSb c u (off + 32 * r + 16) (sub out (16 * r) 16)) s
  else s.writeSb c u off out

/-- The lane that holds a cell's cipher job. -/
def State.laneOf (s : State) (c : CellId) : Option Nat :=
  (List.range 16).find? fun l => match (s.lane l).job with
    | some h => h.cell == c
    | none => false

/-- The key an EPOCHSEL gives: the slot's, or one derived from its label with that epoch (R311, R326). -/
def State.jobKey (s : State) (k : KeySlot) (sel : Word) : BitVec 32 × BitVec 256 :=
  if sel = 0xFFFFFFFF ∨ sel = labelEpoch k.label then (labelEpoch k.label, k.key)
  else (sel, s.deriveFor k.root (withEpoch k.label sel) k.klen)

/-- The end of a cell's cipher job: its lane is free, and counters follow. -/
def State.endCipher (s : State) (c : CellId) (lane : Nat) (status blocks : Nat) : State :=
  let p := cipPage lane
  let s := s.modLane lane fun k => { k with job := none }
  let s := (s.setReg (CIP_POS lane) (BitVec.ofNat 32 blocks)).count p 4 1
  s.endJob c 2 p status

/-- CIPHER_JOB: the job of a cell's KIND 5 port on a lane. It waits while its source has not been delivered or its output space
not drained, while its key is erased or KEY is under an alarm; it stops before the block that would pass LIMIT. Whether a verification of
records succeeds is a free value: R326 gives the placement of their tags for generation alone (log 32). -/
def execCipherJob (c : CellId) (lane : Fin 16) (busErr : Bool) (s : State) : Answer :=
  let l := lane.val
  let p := cipPage l
  match s.running c 2 with
  | none => .next s
  | some j =>
    let n := bits (j.word 1) 5 0
    let held := s.laneOf c
    let ready := s.pageOn p && s.regBit (CIP_CTRL l) 0 && !s.regBit (CIP_CTRL l) 1 && (s.lane l).path.isNone &&
      (held == some l || (held == none && (s.lane l).job.isNone)) && !s.regBit KEY_STAT 3 && (s.key n).valid
    let su := hUnit (j.word 2)
    let du := hUnit (j.word 6)
    let qs := (s.cell c).su su
    let qd := (s.cell c).su du
    let srcReady := hKind (j.word 2) == 2 || decide (posOf qs.c (j.word 3).toNat + j.srcLen ≤ qs.d)
    let dstReady := j.dstLen == 0 || decide (posOf qd.c (j.word 7).toNat + j.dstLen ≤ qd.d + sbSize)
    if !ready || !srcReady || !dstReady then .next s
    else match s.useKey n with
      | (false, s) => .next (s.endCipher c l 0x32 0)
      | (true, s) =>
        match s.readSb c su (j.word 3).toNat j.srcLen with
        | (none, s) => .next (s.endCipher c l 0x32 0)
        | (some src, s) =>
          if busErr then .next (s.endCipher c l 0x32 0)
          else
            let k := s.key n
            let pos := match (s.lane l).job with
              | some h => h.pos
              | none => 0
            let (ep, key) := s.jobKey k (j.word 12)
            let segs := match (s.lane l).job with
              | some h => h.segs ++ [(pos, ep, key)]
              | none => [(0, ep, key)]
            let total := j.blocks
            let left := if j.decrypt then total else s.blocksLeft n
            if left < total - pos then
              let per := if j.mode = 5 ∧ j.rlen ≠ 0 then macLen (4 * j.rlen) else 1
              let from_ := (pos + left) / per * per
              let s := s.useBlocks n left
              let hold : LaneJob :=
                { cell := c, port := 2, cls := qs.cls, slot := n, mode := j.mode, pos := from_, total := total, stopped := true,
                  segs := if from_ = pos then segs.dropLast else segs }
              let s := s.modLane l fun q => { q with job := some hold }
              let s := (s.setReg (CIP_POS l) (BitVec.ofNat 32 (pos + left))).count64 p 2 left
              .next (((s.count p 6 1).raise p 4).endJob c 2 p 0x31)
            else
              let s := if j.decrypt then s else s.useBlocks n (total - pos)
              let size := 16 + 8 * k.klen
              let (out, ok) := cipherOut j (segs.map fun q => (q.1, leBytes size q.2.2.toNat)) src
              let verify := j.decrypt && (j.mode == 4 || j.mode == 5)
              let force := verify && s.armed p 3
              let s := if force then s.disarm p 3 else s
              let (x, s) := if verify && j.mode == 5 && j.rlen != 0 then
                  let (x, s) := s.free
                  (x.getLsbD 0, s)
                else (true, s)
              let ok := ok && !force && x
              let s := s.writeCipher c j (if ok then out else List.replicate out.length 0)
              let last := segs.getLastD (0, 0, 0)
              let per := if j.mode = 5 ∧ j.rlen ≠ 0 then macLen (4 * j.rlen) else 1
              let s := s.writeBackWords c j 13
                [.uns (BitVec.ofNat 32 total), .uns last.2.1, .uns (BitVec.ofNat 32 (last.1 / per))]
              let s := s.count64 p 2 (total - pos)
              let s := if ok then s else (s.count p 5 1).raise p 3
              .next (s.endCipher c l (if ok then 0 else 0x20) total)

/-- HALT takes effect on a lane: its held job ends with status 0x0030, its key register is cleared; a held path job goes back
to be issued again. -/
def State.haltLane (s : State) (l : Nat) : State :=
  let s := match (s.lane l).job with
    | some h => (s.modLane l fun k => { k with job := none }).endJob h.cell h.port (cipPage l) 0x30
    | none => s
  s.modLane l fun k => { k with path := none, keys := [] }

/-- The effect of a write of CIP_CTRL. -/
def cipCtrlEffect (l : Nat) (v : Word) (d : RegDef) (s : State) : State :=
  let was := s.regBit (CIP_CTRL l) 1
  let s := s.store (CIP_CTRL l) v d
  if bit v 1 && !was then s.haltLane l else s

/-- CIPHER_HALT: a write of CIP_CTRL with HALT set. -/
def execCipherHalt (m : Master) (lane : Fin 16) (v : Word) (s : State) : Answer :=
  let v := setBit v 1 true
  .next (s.write m (cipPage lane.val) 0x80 32 v noCond (cipCtrlEffect lane.val v)).1

/-- CIP_STAT as it reads. -/
def cipStat (s : State) (l : Nat) : Word :=
  let halt := s.regBit (CIP_CTRL l) 1
  match (s.lane l).job, s.media.reqs.find? fun r => r.lane == some l && (r.phase == .cipher || r.phase == .sensed) with
  | some h, _ => BitVec.ofNat 32 (h.cell.val * 2 ^ 14 + halt.toNat * 2 ^ 13 + h.stopped.toNat * 2 ^ 12 + h.slot * 2 ^ 6 +
      h.mode * 8 + h.cls * 2)
  | none, some r =>
    let held := s.pathHeld l
    let slot := if r.phase = .cipher then r.data.elim 0 fun p => p.tag.keyNs else 0
    BitVec.ofNat 32 (0x51 * 2 ^ 14 + halt.toNat * 2 ^ 13 + held.toNat * 2 ^ 12 + slot * 2 ^ 6 + 2 * 8 + r.cls.val * 2 + (!held).toNat)
  | none, none => BitVec.ofNat 32 (halt.toNat * 2 ^ 13)

/-- CIP_CCMLIM takes limits in their ranges. -/
def ccmLimCond (m : Master) (l : Nat) (v : Word) (s : State) : Option State :=
  if 65279 < bits v 15 0 ∨ bits v 31 16 < 1 ∨ 16384 < bits v 31 16 then some (s.refuse (cipPage l) 0x10 m 0x88 v) else none

/-! ## Digest jobs (R322, R323, R328) -/

/-- A context slot's bytes for a job (R322). -/
def ctxBytes (alg flags node : Nat) (len : Nat) (st : List Byte) : List Byte :=
  let b := [BitVec.ofNat 8 alg, BitVec.ofNat 8 flags] ++ leBytes 2 node ++ leBytes 4 0 ++ leBytes 16 (8 * len) ++ st
  sub b 0 224

/-- The state words of a digest descriptor as bytes, as many as the algorithm saves. -/
def Job.digStateIn (j : Job) : List Byte :=
  sub ((j.words.drop 6).flatMap fun w => wordBytes w.val) 0 (digState j.alg)

/-- A digest job's state so far: saved in a context slot, kept from its last turn, read from its descriptor, or fresh. None when
its context slot is uncorrectable. -/
def State.digResume (s : State) (c : CellId) (j : Job) : Option (List Byte) × State :=
  match (List.range 32).find? fun k => (s.crypto.ctxs.getD k .free).owner == some (c, 3) with
  | some k =>
    let ok := (List.range 28).foldl (fun (a : Bool × State) b =>
      match a.2.readProt 0xD4 10 (k * 28 + b) 8 8 with
      | (some _, s) => (a.1, s)
      | (none, s) => (false, s)) (true, s)
    let st := sub (s.crypto.ctxs.getD k .free).bytes 24 (digState j.alg)
    let s := ok.2.modCtx k fun x => { x with inUse := false, func := 0, owner := none }
    if ok.1 then (some st, s) else (none, s.clearCtx k)
  | none =>
    (some (if !j.acc.isEmpty then j.acc else if j.init then digInit j.alg else j.digStateIn), s)

/-- The cell whose job a digest lane has in hand between its turns. -/
def State.digOn (s : State) (l : Nat) : Option CellId := s.crypto.digs.getD l none
def State.setDig (s : State) (l : Nat) (c : Option CellId) : State := { s with crypto := { s.crypto with digs := s.crypto.digs.set l c } }

/-- A free context slot. -/
def State.freeCtx (s : State) : Option Nat := (List.range 32).find? fun k => !(s.crypto.ctxs.getD k .free).inUse

/-- A digest job is saved in a context slot at a block boundary, and leaves its lane (R322). FLAGS is a free value (log 5). -/
def State.saveDigest (s : State) (l k : Nat) (c : CellId) (j : Job) (done : Nat) (st : List Byte) : State :=
  let (fl, s) := s.free
  let s := s.modCtx k fun _ =>
    { bytes := ctxBytes j.alg (fl.toNat % 256) c.val (j.mlen + done) st, inUse := true, func := (s.role c).fn, owner := some (c, 3) }
  let s := (List.range 28).foldl (fun s b => s.freshProt 0xD4 10 (k * 28 + b)) s
  ((s.count (digPage l) 5 1).modJob c 3 fun j => { j with done := done, acc := [] }).setDig l none

/-- A lane is made free for the job of a cell: another's with more than one block left is saved; none when it cannot be (R322). -/
def State.switchTo (s : State) (l : Nat) (c : CellId) : Option State :=
  match s.digOn l with
  | none => some s
  | some d =>
    if d = c then some s
    else match s.running d 3, s.freeCtx with
      | none, _ => some (s.setDig l none)
      | some j, some k => if digBlock j.alg < (j.word 3).toNat - j.done then some (s.saveDigest l k d j j.done j.acc) else none
      | some _, none => none

/-- A bus error on a lane: the round state, its results and the job's context are cleared (R324). -/
def State.digBusErr (s : State) (c : CellId) (lane : Nat) : State :=
  let p := digPage lane
  let s := ((s.clearDigRes lane).alarmDigest c).setDig lane none
  ((s.count p 6 1).raise p 3).raise p 4

/-- DIGEST_JOB: the job of a cell's KIND 6 port on a lane, as far as its input has come; `cut` says after how many blocks a
second requester makes the lane save it to a free context slot. A job that the lane has in hand is saved for this one, which waits where that
cannot be; one that is not saved goes on where it is (R322). -/
def execDigestJob (c : CellId) (lane : Fin 4) (cut : Option Nat) (busErr : Bool) (s : State) : Answer :=
  let l := lane.val
  let p := digPage l
  let bound := fun (k : Nat) => s.crypto.bound.getD k none
  let own := (List.range 4).find? fun k => bound k == some c
  let mine := match own with
    | some k => k == l
    | none => (bound l).isNone
  let elsewhere := (List.range 4).any fun k => k != l && s.digOn k == some c
  match s.running c 3, s.switchTo l c with
  | none, _ => .next s
  | _, none => .next s
  | some j, some t =>
    if !s.pageOn p || !s.regBit (DIG_CTRL l) 0 || !mine || elsewhere then .next s
    else
      let s := t
      let u := hUnit (j.word 1)
      let q := (s.cell c).su u
      let len := (j.word 3).toNat
      let b := digBlock j.alg
      let rest := len - j.done
      let avail := if j.consume then min rest (q.d - q.c) else rest
      let avail := if avail < rest then avail / b * b else avail
      let stop := match cut, s.freeCtx with
        | some n, some k => if 0 < n ∧ n * b < avail then some (n * b, k) else none
        | _, _ => none
      let n := match stop with
        | some (m, _) => m
        | none => avail
      let last := n == rest
      if n = 0 ∧ last = false then .next s
      else
        let off := if j.consume then q.c else (j.word 2).toNat + j.done
        match s.readSb c u off n with
        | (none, s) => .next (s.digBusErr c l)
        | (some bs, s) =>
          if busErr || s.armed p 4 then .next ((s.disarm p 4).digBusErr c l)
          else match s.digResume c j with
            | (none, s) => .next (s.alarmDigest c)
            | (some st, s) =>
              let s := if j.consume then s.releaseIn c u n else s
              let s := s.count64 p 2 n
              let total := j.mlen + j.done + n
              if !last then
                let st := digAbsorb j.alg st bs
                match stop with
                | none => .next ((s.modJob c 3 fun j => { j with done := j.done + n, acc := st }).setDig l (some c))
                | some (_, k) => .next (s.saveDigest l k c j (j.done + n) st)
              else
                let words := j.words.length - 6
                let out := if j.final then digFinish j.alg st bs (total - n) else digAbsorb j.alg st bs
                let ws := (List.range words).map fun k => (⟨tBytes, leWord (sub out (4 * k) 4)⟩ : TWord)
                let s := s.writeBackWords c j 4 ([.uns (BitVec.ofNat 32 total), .uns (BitVec.ofNat 32 (total / 2 ^ 32))] ++ ws)
                let s := if j.final then
                    let s := (List.range 16).foldl (fun s k => s.setReg (DIG_RES l k) (leWord (sub out (4 * k) 4))) s
                    s.setReg (DIG_STAT l) (setBit (s.reg (DIG_STAT l)) 15 true)
                  else s
                .next (((s.count p 4 1).setDig l none).endJob c 3 p 0)

/-- DIG_STAT as it reads. -/
def digStat (s : State) (l : Nat) : Word :=
  let b := match s.crypto.bound.getD l none with
    | some c => c.val * 2 ^ 9 + 2 ^ 8
    | none => 0
  let job := match (s.digOn l).bind fun c => (s.running c 3).map fun j => (c, j) with
    | some (c, j) => ((s.cell c).su (hUnit (j.word 1))).cls * 2 ^ 16 + j.alg * 2 + 1
    | none => 0
  (s.reg (DIG_STAT l) &&& 0x8000) ||| BitVec.ofNat 32 (b + job)

/-- The selected context slot of a page. -/
def State.ctxSel (s : State) (l : Nat) : Nat := s.field? (DIG_CTXSEL l) 4 0

/-- DIG_CTXINFO and DIG_CTX as they read. -/
def digCtxInfo (s : State) (l : Nat) : Word :=
  let k := s.crypto.ctxs.getD (s.ctxSel l) .free
  if k.inUse then BitVec.ofNat 32 (k.func * 2 ^ 9 + (k.bytes.getD 0 0).toNat % 4 * 2 + 1) else 0
def digCtxRead (s : State) (l w : Nat) : Word := leWord (sub (s.crypto.ctxs.getD (s.ctxSel l) .free).bytes (4 * w) 4)

/-- A context slot in use takes no write. -/
def digCtxCond (m : Master) (l off : Nat) (v : Word) (s : State) : Option State :=
  if (s.crypto.ctxs.getD (s.ctxSel l) .free).inUse then some (s.refuse (digPage l) 0x11 m off v) else none
def digCtxWrite (l w : Nat) (v : Word) (s : State) : State :=
  let k := s.ctxSel l
  (s.mergeProt 0xD4 10 (k * 28 + w / 2) 8 8 ((2 ^ 32 - 1) * 2 ^ (32 * (w % 2)))).modCtx k fun x =>
    { x with bytes := x.bytes.take (4 * w) ++ wordBytes v ++ x.bytes.drop (4 * w + 4) }

/-- BIND stays 1 while an execution is bound. -/
def digCtrlCond (m : Master) (l : Nat) (v : Word) (s : State) : Option State :=
  if !bit v 1 && (s.crypto.bound.getD l none).isSome then some (s.refuse (digPage l) 0x12 m 0x80 v) else none

end Sys2Proof.Machine
end

