-- ==== Sys2Proof/Machine/Nvme.lean ====
section
/-!
DEFINITION. The NVMe controllers (04): statuses (R94), logs and asynchronous events (R80, R97), fetching of entries (R53, R99),
commands in flight and the posting of completions (R73, R81, R483), and the doorbells (R24).
-/

namespace Sys2Proof.Machine

/-! ## Statuses (R94) -/

/-- Do Not Retry: 0 on success, on the vendor codes, and on Data Transfer Error, Internal Error and Command Sequence Error. -/
def dnrOf (sct sc : Nat) : Bool :=
  !(sct == 7 || (sct == 0 && (sc == 0 || sc == 4 || sc == 6 || sc == 0xC)))

/-- A status with its dwords. -/
def status (sct sc : Nat) (dw0 : Word := 0) (dw1 : Word := 0) : Status := ⟨sct, sc, dnrOf sct sc, dw0, dw1⟩

def stOk : Status := status 0 0
def stOpcode : Status := status 0 0x01
def stField : Status := status 0 0x02
def stTransfer : Status := status 0 0x04
def stInternal : Status := status 0 0x06
def stAborted : Status := status 0 0x07
def stNamespace : Status := status 0 0x0B
def stSequence : Status := status 0 0x0C
def stSglLength : Status := status 0 0x0F
def stSglType : Status := status 0 0x11
def stPrpOffset : Status := status 0 0x13
def stProtected : Status := status 0 0x20
def stLba : Status := status 0 0x80
def stSizeLimit : Status := status 1 0x83
def stWriteFault : Status := status 2 0x80
def stUnrecovered : Status := status 2 0x81
def stCompare : Status := status 2 0x85
def stDeadline (w : Nat) : Status := status 7 0x80 (BitVec.ofNat 32 (w % 2 ^ 31))
def stDeferred (seq : BitVec 32) : Status := status 7 0x81 (seq &&& 0x7FFFFFFF)
def stBudget (why : Nat) : Status := status 7 0x82 (BitVec.ofNat 32 why)
def stAppend (why : Nat) : Status := status 7 0x83 (BitVec.ofNat 32 why)

/-- Whether a status enters the Error Information log (R94). -/
def Status.logged (st : Status) : Bool :=
  decide (st.sct ≤ 2) && !(st.sct == 0 && st.sc == 0) || (st.sct == 7 && (st.sc == 0x81 || st.sc == 0x83 || st.sc == 0x84))

/-- Entering an error in log page 01h: the newest of at most 64 comes first. -/
def State.logStatus (s : State) (r : CmdRef) (st : Status) : State :=
  if st.logged then
    s.modLogs r.fn fun l =>
      { l with errCnt := l.errCnt + 1, err := (⟨l.errCnt + 1, r.sqid, r.cid, st.sct, st.sc⟩ :: l.err).take 64 }
  else s

/-! ## Commands in flight -/

/-- The name of a command. -/
def NvmeCmd.ref (c : NvmeCmd) : CmdRef := ⟨c.fn, c.sqid, c.cid⟩

/-- A record of a command with nothing admitted. -/
def Cmd.plain (r : CmdRef) (now : Nat) : Cmd :=
  { ref := r, kind := .admin, cls := 3, ordered := false, seq := 0, start := now, deadline := now, reads := [], writes := [],
    dies := [], phase := .working, started := true, silent := false, bytes := 0, slma := 0, got := [], data := [], need := [],
    fault := none, admitted := false, landed := false, cqWait := false, segs := [], floor := false }

/-- A command that takes data from the host, and whether it still waits for some (R84, R89). -/
def Cmd.fetches (c : Cmd) : Bool := c.kind == .write || c.kind == .append || c.kind == .memWrite || c.kind == .compare
def Cmd.awaits (c : Cmd) : Bool := c.phase == .awaitData || (c.kind == .compare && c.phase == .working && !c.landed)

/-- The record of a command in flight, and changing it. -/
def State.cmd? (s : State) (r : CmdRef) : Option Cmd := s.host.cmds.find? fun c => c.ref == r
def State.modCmd (s : State) (r : CmdRef) (f : Cmd → Cmd) : State :=
  { s with host := { s.host with cmds := s.host.cmds.map fun c => if c.ref = r then f c else c } }
def State.dropCmd (s : State) (r : CmdRef) : State :=
  { s with host := { s.host with cmds := s.host.cmds.filter fun c => c.ref != r } }
/-- A command whose course is over is forgotten: its record, its place among those past their bound, its interval of R457. -/
def State.forget (s : State) (r : CmdRef) : State :=
  let s := s.dropCmd r
  let s : State := { s with events := { s.events with spans := s.events.spans.filter (· != (2, some r)) } }
  { s with adm := { s.adm with bound := s.adm.bound.filter (· != r) } }
def State.addCmd (s : State) (c : Cmd) : State :=
  { s with host := { s.host with cmds := s.host.cmds ++ [{ c with seq := s.host.nextSeq }], nextSeq := s.host.nextSeq + 1 } }

/-- The charges an owner holds in the ledger are released, a command's with those of its merges. -/
def ChargeOwner.covers : ChargeOwner → ChargeOwner → Bool
  | .cmd r, .merge q => r == q
  | a, b => a == b
def State.uncharge (s : State) (o : ChargeOwner) : State :=
  { s with adm := { s.adm with charges := s.adm.charges.filter fun c => !o.covers c.owner } }

/-- A command ends with a status: its charges are released, and unless it is silent a completion waits to be posted. -/
def State.finish (s : State) (r : CmdRef) (st : Status) : State :=
  let s := (s.uncharge (.cmd r)).logStatus r st
  match s.cmd? r with
  | some c => if c.silent then s.forget r else s.modCmd r fun c => { c with phase := .done st }
  | none => s.addCmd { Cmd.plain r s.ns with phase := .done st }

/-! ## Asynchronous events (R80) -/

/-- The completion of an Asynchronous Event Request: type, information and log page identifier in dword 0. -/
def asyncWord (e : Nat × Nat × Nat) : Word := BitVec.ofNat 32 (e.2.2 * 65536 + e.2.1 * 256 + e.1)

/-- Reporting waiting events: a type reported once waits until its log page is read. -/
def State.drainAsync (s : State) (f : Fun) : State :=
  let l := s.logsOf f
  match l.aers, l.asyncQ.find? fun e => !l.masked.contains e.1 with
  | cid :: rest, some e =>
    (s.modLogs f fun l => { l with aers := rest, asyncQ := l.asyncQ.erase e, masked := e.1 :: l.masked }).finish ⟨f, 0, cid⟩
      (status 0 0 (asyncWord e))
  | _, _ => s

/-- An asynchronous event of a function: type, information, log page. -/
def State.asyncEvent (s : State) (f : Fun) (ty info lid : Nat) : State :=
  if bit (s.ctrl f).csts 0 then
    (s.modLogs f fun l => { l with asyncQ := if l.asyncQ.contains (ty, info, lid) then l.asyncQ else
      l.asyncQ ++ [(ty, info, lid)] }).drainAsync f
  else s

/-- Reading a log page lets its event type be reported again. -/
def State.unmaskAsync (s : State) (f : Fun) (ty : Nat) : State :=
  (s.modLogs f fun l => { l with masked := l.masked.filter (· != ty) }).drainAsync f

/-! ## Queues (R82, R99) -/

/-- A submission or completion queue of a controller. -/
def Ctrl.sq? (c : Ctrl) (q : Nat) : Option SQueue := c.sqs.find? fun x => x.qid == q
def Ctrl.cq? (c : Ctrl) (q : Nat) : Option CQueue := c.cqs.find? fun x => x.qid == q
def State.modSq (s : State) (f : Fun) (q : Nat) (g : SQueue → SQueue) : State :=
  s.modCtrl f fun c => { c with sqs := c.sqs.map fun x => if x.qid = q then g x else x }
def State.modCq (s : State) (f : Fun) (q : Nat) (g : CQueue → CQueue) : State :=
  s.modCtrl f fun c => { c with cqs := c.cqs.map fun x => if x.qid = q then g x else x }

/-- The queue slot of a queue, and the NVQ page that serves it (R99). -/
def State.queueSlot (s : State) (f : Fun) (q : Nat) : Nat :=
  if q = 0 then f.val else 16 + (s.ctrl f).pool.getD (q - 1) 0
def State.nvqPage (s : State) (f : Fun) (q : Nat) : Nat := 0x011 + s.queueSlot f q / 48

/-- Whether a queue is an Evidential queue (R52). -/
def SQueue.evq (q : SQueue) : Bool := q.qid != 0 && q.fixed && q.dclass == 0

/-- Whether entries of a function's queues may be fetched at all: the host interface is on and its link up, the controller
is ready and fetches, no alarm but KEYSLOT is active (R455), no staging flush and no Evidential pause is under way (R91, R218), and fewer than 65,536 commands are in
flight (R55). -/
def State.fetching (s : State) (f : Fun) : Bool :=
  s.pageOn 0x010 && s.host.link.up && s.fnExists f.val && s.events.alarms.all (· == 4) && (s.ctrl f).fetching && bit (s.ctrl f).csts 0 &&
    !bit (s.ctrl f).csts 1 && !(s.ctrl f).d3hot && !(s.vfm.vfs.getD f.val .reset).flr && s.power.flush == 0 && s.power.vccq && s.power.entering.isNone &&
    (s.start.phase == .evReady || s.start.phase == .full) && s.fabric.pause.isNone && decide (s.host.cmds.length < 65536)

/-- Entries of Evidential queues are fetched ahead of all others (R52). -/
def State.evidWaiting (s : State) : Bool :=
  (List.finRange 16).any fun f => s.fetching f && (s.ctrl f).sqs.any fun q => q.evq && q.head != q.tail && q.del.isNone

/-- Whether the next entry of a queue may be fetched. -/
def State.fetchable (s : State) (f : Fun) (q : Nat) : Bool :=
  s.fetching f && (match (s.ctrl f).sq? q with
    | some x => x.head != x.tail && x.del.isNone && (x.evq || !s.evidWaiting)
    | none => false)

/-- CSTS.CFS is set on a function (R78, R99). -/
def State.fatal (s : State) (f : Fun) : State :=
  (s.modCtrl f fun c => { c with csts := setBit c.csts 1 true, fetching := false }).raise 0x010 7

/-- The doorbell write that covers the next entry gives one entry up. -/
def dropBell : List (Nat × Nat) → List (Nat × Nat)
  | [] => []
  | (n, t) :: r => if n ≤ 1 then r else (n - 1, t) :: r

/-- Entries at the head of the queue that an Abort completed are passed over (R86). -/
def SQueue.pass (q : SQueue) : SQueue :=
  q.doomed.foldl (fun (q : SQueue) _ =>
    if q.doomed.contains q.head then
      { q with head := (q.head + 1) % q.size, bells := dropBell q.bells, doomed := q.doomed.erase q.head }
    else q) q

/-- Whether an uncorrectable block of its queue buffer spoils a fetched entry: the buffer of the queue's page, or that of the host interface; the
entry of ring place h stands at 64 × h there (R359; log 125). -/
def State.entryBad (s : State) (page place : Nat) : Bool × State :=
  let (a, s) := s.scanProt page 13 (8 * place) 8
  let (b, s) := s.scanProt 0x010 13 (8 * place) 8
  (!(a ++ b).isEmpty, (s.clearProt page 13 (8 * place) 8).clearProt 0x010 13 (8 * place) 8)

/-- The fetch of an entry (R53, R99): what comes back is the time from which its bound or deadline runs (R44, R45), or none
when no command follows: the entry could not be fetched now, the fetch failed twice, or a buffer lost it and it ended with Internal Error
(R359). -/
def State.fetchEntry (s : State) (c : NvmeCmd) : State × Option Nat :=
  match s.fetchable c.fn c.sqid && (s.cmd? c.ref).isNone, (s.ctrl c.fn).sq? c.sqid with
  | true, some q =>
    if !c.fetch || s.armed (s.nvqPage c.fn c.sqid) 3 then
      (((s.disarm (s.nvqPage c.fn c.sqid) 3).fatal c.fn).raise (s.nvqPage c.fn c.sqid) 3, none)
    else
      let from' := if q.evq then (q.bells.headD (1, s.ns)).2 else s.ns
      let s := (s.count64 (s.nvqPage c.fn c.sqid) 2 1).modSq c.fn c.sqid fun q =>
        { q with head := (q.head + 1) % q.size, bells := dropBell q.bells }.pass
      match s.entryBad (s.nvqPage c.fn c.sqid) q.head with
      | (true, s) => (s.finish c.ref stInternal, none)
      | (false, s) => (s, some from')
  | _, _ => (s, none)

/-- A command of an admin queue: fetched, then handled. -/
def onAdmin (c : NvmeCmd) (s : State) (f : State → State) : Answer :=
  if c.sqid ≠ 0 then .next s
  else match s.fetchEntry c with
    | (s, some _) => .next (f s)
    | (s, none) => .next s

/-- A command of an I/O queue: fetched, then handled with the time its bound runs from. -/
def onIo (c : NvmeCmd) (s : State) (f : Nat → State → State) : Answer :=
  if c.sqid = 0 then .next s
  else match s.fetchEntry c with
    | (s, some t) => .next (f t s)
    | (s, none) => .next s

/-! ## Writes to host memory (R368) -/

/-- A virtual function's memory write marks its pages in the active bitmap; outside the window it sets OVER. -/
def State.markDirty (s : State) (f : Fun) (addr len : Nat) : State :=
  let d := (s.vfm.vfs.getD f.val .reset).dirty
  if f = 0 ∨ !d.enable ∨ len = 0 then s
  else
    let lo := d.base * 2 ^ 30 / 4096
    let n := d.gib * 2 ^ 18
    (List.range ((addr + len - 1) / 4096 - addr / 4096 + 1)).foldl (fun (s : State) k =>
      let p := addr / 4096 + k
      let set := fun (g : Dirty → Dirty) => { s with vfm := { s.vfm with vfs := at' s.vfm.vfs f.val fun v => { v with dirty := g v.dirty } } }
      if lo ≤ p ∧ p < lo + n then set fun d => { d with active := d.active.set (fun _ => false) (p - lo) true }
      else (set fun d => { d with overB := true }).raise 0x018 8) s

/-- The pieces of host memory a data pointer names, of `len` bytes in all (R84). -/
def ptrPieces : DataPtr → Nat → List (BitVec 64 × Nat)
  | .prp [], _ => []
  | .prp (a :: r), len =>
    let first := min len (4096 - a.toNat % 4096)
    (a, first) :: (List.range r.length).map fun k => (r.getD k 0, min 4096 (len - first - 4096 * k))
  | .sgl ds _, len =>
    (ds.foldl (fun (acc : List (BitVec 64 × Nat) × Nat) d =>
      (acc.1 ++ [(d.1, min d.2 acc.2)], acc.2 - min d.2 acc.2)) ([], len)).1

/-- Bytes written to the pieces of host memory, in order. -/
def State.hostWrite (s : State) (f : Fun) (segs : List (BitVec 64 × Nat)) (bs : List Byte) : State :=
  (segs.foldl (fun (acc : State × List Byte) p =>
    let n := min p.2 acc.2.length
    if n = 0 then acc
    else ((acc.1.markDirty f p.1.toNat n).emit (.hostWrite f p.1 (acc.2.take n)), acc.2.drop n)) (s, bs)).1

/-- A host data transfer fails: its event and counter, and that of poisoned TLPs (R84, R98); one that a force makes fail (R484). -/
def State.xferFail (s : State) (poisoned : Bool := false) : State :=
  let s := (s.raise 0x010 6).count 0x010 5 1
  if poisoned then s.count 0x010 4 1 else s
def State.xferOk (s : State) : Bool × State :=
  if s.armed 0x010 6 then (false, (s.disarm 0x010 6).xferFail) else (true, s)

/-! ## Completions (R73, R81, R97) -/

/-- The interrupt of a completion queue: coalesced while THR and TIME are nonzero and CD is 0, never on the admin queue's
vector (R81). -/
def State.signalCq (s : State) (f : Fun) (q : CQueue) : State :=
  let c := s.ctrl f
  if !q.ien || !c.msixEn then s
  else if q.vec == 0 || c.feat.coalThr == 0 || c.feat.coalTime == 0 || c.feat.vecCd.contains q.vec then s.sendVector f q.vec
  else
    let n := match c.coal.find? fun x => x.vec == q.vec with
      | some x => x
      | none => ⟨q.vec, 0, s.pages.dtime⟩
    let rest := c.coal.filter fun x => x.vec != q.vec
    if c.feat.coalThr < n.count + 1 then (s.modCtrl f fun c => { c with coal := rest }).sendVector f q.vec
    else s.modCtrl f fun c => { c with coal := rest ++ [{ n with count := n.count + 1 }] }

/-- The coalescing time of a vector has passed since its first waiting entry (R81). -/
def execInterruptCoalescingTimer (fn : Fun) (vec : Nat) (s : State) : Answer :=
  let c := s.ctrl fn
  match c.coal.find? fun x => x.vec == vec with
  | some x =>
    if (s.pages.dtime - x.since).toNat < 100 * c.feat.coalTime then .next s
    else .next ((s.modCtrl fn fun c => { c with coal := c.coal.filter fun y => y.vec != vec }).sendVector fn vec)
  | none => .next s

/-- Whether an admitted command is past its deadline or R44 bound. -/
def Cmd.isLate (c : Cmd) (now : Nat) : Bool := c.admitted && decide (c.deadline < now)

/-- LATE is counted, raised and logged (R73, R97 C3h). -/
def State.noteLate (s : State) (c : Cmd) : State :=
  let s := (s.count 0x020 7 1).raise 0x020 5
  let s : State := if c.cls = 0 then s.count 0x020 8 1 else s
  s.modLogs c.ref.fn fun l =>
    { l with late := (⟨c.ref.sqid, c.ref.cid, c.cls, (c.deadline - c.start) / 1000,
        min ((s.ns - c.start) / 1000) 0xFFFFFFFF⟩ :: l.late).take 64 }

/-- A Delete I/O Submission Queue completes after the last completion of the queue (R483). -/
def State.endDelete (s : State) (f : Fun) (q : Nat) : State :=
  match (s.ctrl f).sq? q with
  | some x =>
    match x.del with
    | some cid =>
      if s.host.cmds.any fun c => c.ref.fn == f && c.ref.sqid == q then s
      else (s.modCtrl f fun c => { c with sqs := c.sqs.filter fun y => y.qid != q }).finish ⟨f, 0, cid⟩ stOk
    | none => s
  | none => s

/-- Posting one completion entry into its queue's slot. -/
def State.post (s : State) (c : Cmd) (st : Status) (x : SQueue) (q : CQueue) : State :=
  let f := c.ref.fn
  let late := c.isLate s.ns
  let st := { st with dw0 := if c.admitted then setBit st.dw0 31 late else st.dw0 }
  let s : State := if late then s.noteLate c else s
  let s := s.emit (.completion f q.qid q.tail c.ref.sqid x.head c.ref.cid q.phase st)
  let s := s.markDirty f (q.base.toNat + 16 * q.tail) 16
  let s := s.modCq f q.qid fun q =>
    { q with tail := (q.tail + 1) % q.size, phase := if q.tail + 1 = q.size then !q.phase else q.phase }
  let s := (s.count64 (s.nvqPage f c.ref.sqid) 4 1).forget c.ref
  (s.endDelete f c.ref.sqid).signalCq f q

/-! ## Doorbells (R24, R481) -/

/-- Whether BAR0 of a function answers: in D0, and not fenced by its reset (R370). -/
def State.bar0On (s : State) (f : Fun) : Bool :=
  s.pageOn 0x010 && s.host.link.up && s.fnExists f.val && !(s.ctrl f).d3hot && !(s.vfm.vfs.getD f.val .reset).flr

/-- An invalid doorbell write: EV_NVQ_DBERR and the asynchronous event, 0 Invalid Doorbell Register, 1 Invalid Doorbell Write
Value. -/
def State.badBell (s : State) (f : Fun) (y info : Nat) : State := (s.raise (s.nvqPage f y) 5).asyncEvent f 0 info 1

/-- A write to a submission queue's tail doorbell of so many bytes. -/
def State.sqBell (s : State) (f : Fun) (y bytes : Nat) (v : Word) : State :=
  if !s.bar0On f || decide ((s.ctrl f).pool.length < y) || decide (4 < bytes) then s
  else match (s.ctrl f).sq? y with
    | none => s.badBell f y (if bytes = 4 then 0 else 1)
    | some q =>
      if bytes ≠ 4 ∨ q.size ≤ v.toNat then s.badBell f y 1
      else s.modSq f y fun q =>
        { q with tail := v.toNat, bells := if v.toNat = q.tail then q.bells else
          q.bells ++ [((v.toNat + q.size - q.tail) % q.size, s.ns)] }

/-- A write to a completion queue's head doorbell. -/
def State.cqBell (s : State) (f : Fun) (y bytes : Nat) (v : Word) : State :=
  if !s.bar0On f || decide ((s.ctrl f).pool.length < y) || decide (4 < bytes) then s
  else match (s.ctrl f).cq? y with
    | none => s.badBell f y (if bytes = 4 then 0 else 1)
    | some q => if bytes ≠ 4 ∨ q.size ≤ v.toNat then s.badBell f y 1 else s.modCq f y fun q => { q with head := v.toNat }

/-- The master of a function. -/
def fnMaster (f : Fun) : Master := if f = 0 then .pf else .vf f

def execSqTailDoorbell (fn : Fun) (y bytes : Nat) (v : Word) (s : State) : Answer :=
  .next ((s.arrive (fnMaster fn)).sqBell fn y bytes v)
def execCqHeadDoorbell (fn : Fun) (y bytes : Nat) (v : Word) (s : State) : Answer :=
  .next ((s.arrive (fnMaster fn)).cqBell fn y bytes v)

end Sys2Proof.Machine
end

