-- ==== Sys2Proof/Machine/Map.lean ====
section
/-!
DEFINITION. The map from namespace blocks to page sets (09): units and locations (R197 to R202), the staging index (R208, R209),
the journal buffer and its records (R214), the block table and the choice of a free block (R213, R231), unit tags and stripe
headers as bytes (R212, R246), and media requests.
-/

namespace Sys2Proof.Machine

/-! ## Namespaces, units and locations -/

/-- A general namespace. -/
def State.ns? (s : State) (n : Nat) : Option Ns := s.host.nss.find? fun x => x.nsid == n

/-- The base unit and the capacity in blocks of a namespace with a map (R197). -/
def State.baseOf (s : State) (n : Nat) : Nat :=
  if n = 1 then s.host.evid.base else match s.ns? n with
    | some x => x.base
    | none => 0
def State.capOf (s : State) (n : Nat) : Nat :=
  if n = 1 then s.host.evid.cap else match s.ns? n with
    | some x => if x.kind = .nvm then x.cap else 0
    | none => 0

/-- The global unit of a block (R197). -/
def State.unitOf (s : State) (n lba : Nat) : Nat := s.baseOf n + lba / 16

/-- The namespace and first block of a global unit. -/
def State.nsOfUnit (s : State) (u : Nat) : Option (Nat × Nat) :=
  let all := (1 :: s.host.nss.map fun x => x.nsid)
  (all.find? fun n => s.baseOf n ≤ u && u < s.baseOf n + (s.capOf n + 15) / 16).map fun n => (n, (u - s.baseOf n) * 16)

/-- A coarse entry (R199): LOST in bit 31, MAPPED in bit 30, FINE in bit 29. -/
def State.coarse (s : State) (u : Nat) : Word := s.ftl.map.coarse.get (fun _ => 0) u
def State.setCoarse (s : State) (u : Nat) (e : Word) : State :=
  { s with ftl := { s.ftl with map := { s.ftl.map with coarse := s.ftl.map.coarse.set (fun _ => 0) u e } } }

/-- A fine group's entry (R200): 36 bits, LOST in bit 34, MAPPED in bit 33, SLOT in bits [32:0]. -/
def State.fineEntry (s : State) (g i : Nat) : Nat :=
  ((s.ftl.map.fine.get (fun _ => 0) g).toNat >>> (36 * i)) % 2 ^ 36
def State.setFine (s : State) (g i e : Nat) : State :=
  let old := (s.ftl.map.fine.get (fun _ => 0) g).toNat
  let v := old - ((old >>> (36 * i)) % 2 ^ 36) * 2 ^ (36 * i) + (e % 2 ^ 36) * 2 ^ (36 * i)
  { s with ftl := { s.ftl with map := { s.ftl.map with fine := s.ftl.map.fine.set (fun _ => 0) g (BitVec.ofNat 576 v) } } }

/-- The coarse entry of a location, and a fine entry of a slot. -/
def coarseAt (die unit : Nat) : Word := BitVec.ofNat 32 (2 ^ 30 + die * 2 ^ 22 + unit)
def slotOf (die unit i : Nat) : Nat := die * 2 ^ 26 + unit * 16 + i
def fineAt (slot : Nat) : Nat := 2 ^ 33 + slot

/-- Where a block lies: nowhere, so that it reads as zeros; lost; or a block of a page set on a die. -/
inductive Place where
  | zero
  | lost
  | at (die unit i : Nat)
  deriving DecidableEq, Repr

/-- The place of block `i` of a global unit (R199, R200). -/
def State.placeOf (s : State) (u i : Nat) : Place :=
  let e := s.coarse u
  if bit e 29 then
    let f := s.fineEntry (bits e 23 0) i
    if f.testBit 34 then .lost
    else if f.testBit 33 then .at (f / 2 ^ 26 % 128) (f % 2 ^ 26 / 16) (f % 16)
    else .zero
  else if bit e 31 then .lost
  else if bit e 30 then .at (bits e 28 22) (bits e 21 0) i
  else .zero

/-- The place of a namespace's block. -/
def State.place (s : State) (n lba : Nat) : Place := s.placeOf (s.unitOf n lba) (lba % 16)

/-- Every block that the map places: die, page set, global unit, block of the unit. -/
def State.placed (s : State) : List (Nat × Nat × Nat × Nat) :=
  s.ftl.map.coarse.flatMap fun (u, _) => (List.range 16).filterMap fun i =>
    match s.placeOf u i with
    | .at d n _ => some (d, n, u, i)
    | _ => none

/-! ## Fine groups (R202) -/

/-- The first group and the number of groups of a pool: 0 promotion, 1 Evidential arrival, 2 flush (log 33). -/
def poolRange : Nat → Nat × Nat
  | 0 => (0, 15679488)
  | 1 => (15679488, 1048576)
  | _ => (16728064, 49152)

/-- How many groups of a pool are in use. -/
def State.poolUsed (s : State) (p : Nat) : Nat :=
  (s.ftl.map.groups.filter fun g => (poolRange p).1 ≤ g && g < (poolRange p).1 + (poolRange p).2).length

/-- The lowest free group of a pool. -/
def State.freeGroup (s : State) (p : Nat) : Option Nat :=
  let (a, n) := poolRange p
  ((List.range (min n (s.ftl.map.groups.length + 1))).map (a + ·)).find? fun g => !s.ftl.map.groups.contains g

/-- Drawing a group, with every entry 0; returning one. -/
def State.drawGroup (s : State) (g : Nat) : State :=
  { s with ftl := { s.ftl with map := { s.ftl.map with
      groups := g :: s.ftl.map.groups, fine := s.ftl.map.fine.set (fun _ => 0) g 0 } } }
def State.returnGroup (s : State) (g : Nat) : State :=
  { s with ftl := { s.ftl with map := { s.ftl.map with
      groups := s.ftl.map.groups.filter (· != g), fine := s.ftl.map.fine.set (fun _ => 0) g 0 } } }

/-! ## Geometry and the block table (R213, R231, R264) -/

/-- Blocks per die, page sets per native block, and the native mode (R264). -/
def State.blocks (s : State) : Nat := (s.media.geom.map fun g => g.1).getD 0
def State.psBlk (s : State) : Nat := (s.media.geom.map fun g => g.2.1).getD 0
def State.native (s : State) : Mode := if (s.media.geom.map fun g => g.2.2.1) = some 2 then .qlc else .tlc
def State.modeSets (s : State) (m : Mode) : Nat :=
  match m with
  | .pslc => s.psBlk / (if s.native = .qlc then 4 else 3)
  | _ => s.psBlk

/-- A mode as ADL and MCH number it. -/
def modeCode : Mode → Nat
  | .pslc => 0
  | .tlc => 1
  | .qlc => 2

/-- What the block table holds of a block nothing has used: free, never erased. -/
def Blk.fresh : Blk := { erases := 0, mode := .tlc, state := 0, next := 0, stream := 0, roff := 0, refresh := false, first := 0, drawn := false }
def State.blk (s : State) (die b : Nat) : Blk := s.ftl.map.blocks.get (fun _ => .fresh) (die * 4096 + b)
def State.modBlk (s : State) (die b : Nat) (f : Blk → Blk) : State :=
  { s with ftl := { s.ftl with map := { s.ftl.map with
      blocks := s.ftl.map.blocks.set (fun _ => .fresh) (die * 4096 + b) (f (s.blk die b)) } } }

/-- Whether a die is attached and has not failed; whether it is quiet (R263). -/
def State.usable (s : State) (die : Nat) : Bool :=
  (s.media.dies.getD die { attached := false, state := 0, mode := .tlc, susCnt := 0, susp := false, req := none, started := 0,
                           scale := 0, forced := false, paused := .none, lunReset := none }).attached && !s.red.failed.contains die
def State.quiet (s : State) (die : Nat) : Bool := s.media.quiet.contains (die % 8)

/-- Appending a record to the journal buffer (R214). -/
def State.note (s : State) (r : JRec) : State :=
  { s with ftl := { s.ftl with jbuf := s.ftl.jbuf ++ [r], jbufT := if s.ftl.jbuf.isEmpty then s.ns else s.ftl.jbufT } }

/-- The streams of a die: 0 the general buffer, 1 native blocks, 2 the evidence region, 3 journal and checkpoints, 4 Evidential
writes to general namespaces, 5 rebuild spare, 6 the staging flush, 7 native blocks of evidence. -/
abbrev stBuffer : Nat := 0
abbrev stNative : Nat := 1
abbrev stEvid : Nat := 2
abbrev stJournal : Nat := 3
abbrev stEvGen : Nat := 4
abbrev stSpare : Nat := 5
abbrev stFlush : Nat := 6
abbrev stEvNat : Nat := 7

/-- Raw bytes of an erase block and of the device; dies attached. -/
def State.rawBlk (s : State) : Nat := s.psBlk * 65536
def State.dieCount (s : State) : Nat := (s.media.dies.filter fun d => d.attached).length
def State.raw (s : State) : Nat := s.dieCount * s.blocks * s.rawBlk

/-- The evidence spare pool's size in bytes, and what is left of it (R230). -/
def State.evidPool (s : State) : Nat := s.raw / 100
def State.evidLeft (s : State) : Nat := s.evidPool - s.care.evUsed

/-- Raw bytes of the general free pool: the free blocks but for the rebuild spare (R19) and the evidence spare pool that are left. -/
def State.freeRaw (s : State) : Nat :=
  let spare := (s.blocks / 128) * s.dieCount - s.red.spare.foldl (fun a x => a + x.2) 0
  s.rawBlk * (s.dieCount * s.blocks - (s.ftl.map.blocks.filter fun x => x.2.state != 0).length - spare) - s.evidLeft

/-- Raw bytes of the blocks that hold general pSLC data, and of those of the evidence region. -/
def Blk.inBuffer (b : Blk) : Bool :=
  (b.stream == stBuffer || b.stream == stEvGen || b.stream == stFlush) && b.mode == .pslc && (b.state == 1 || b.state == 2)
def State.bufUsed (s : State) : Nat := s.rawBlk * (s.ftl.map.blocks.filter fun x => x.2.inBuffer).length
def State.evidUsed (s : State) : Nat :=
  s.rawBlk * (s.ftl.map.blocks.filter fun x => x.2.stream == stEvid && (x.2.state == 1 || x.2.state == 2)).length

/-- The floor of the general buffer, its present size, and a new size with the register that shows it (R225, R226). -/
def State.bufFloor (s : State) : Nat := s.raw * 5 / 1000
def State.bufSize (s : State) : Nat := max s.bufFloor s.care.bufCur
def State.setBuf (s : State) (n : Nat) : State :=
  ({ s with care := { s.care with bufCur := n } } : State).setReg MC_BUFCUR (BitVec.ofNat 32 (n / 2 ^ 20))

/-- User capacity in blocks: 24,000 GB for 32 TiB, in proportion to raw capacity (R19). -/
def State.userBlocks (s : State) : Nat := s.raw * 24000000000000 / 2 ^ 45 / 4096

/-- Blocks of general namespaces with MAPPED = 1 (R225). -/
def State.mappedBlocks (s : State) : Nat :=
  (s.placed.filter fun x => match s.nsOfUnit x.2.2.1 with
    | some (n, _) => n != 1
    | none => false).length

/-- The target size of the general buffer (R225). -/
def State.bufTarget (s : State) : Nat :=
  let user := s.userBlocks
  if user = 0 then 0 else max s.bufFloor (s.raw * (80 * user - 75 * min s.mappedBlocks user) / (1000 * user))

/-- Erased pSLC page sets of a die: those of its free blocks, and what its open blocks of the flush and of Evidential writes still
hold (R218, R228). -/
def State.erasedSets (s : State) (die : Nat) : Nat :=
  let of := fun (p : Blk → Bool) => s.ftl.map.blocks.filter fun x => x.1 / 4096 == die && p x.2
  s.modeSets .pslc * (s.blocks - (of fun b => b.state != 0).length) +
    (of fun b => b.state == 1 && b.mode == .pslc && (b.stream == stFlush || b.stream == stEvGen)).foldl
      (fun a x => a + (s.modeSets .pslc - x.2.next)) 0

/-- The share of the pool that remains, in hundredths of a per cent. -/
def State.evidReserve (s : State) : Nat := if s.evidPool = 0 then 0 else s.evidLeft * 10000 / s.evidPool

/-- MC_EVSPARE follows the pool. -/
def State.showEvSpare (s : State) : State :=
  s.setReg MC_EVSPARE (BitVec.ofNat 32 (s.evidPool / 2 ^ 30 * 65536 + s.evidLeft / 2 ^ 30))

/-- Where the next block of evidence comes from (R230): the general pool while it stays above MIN_OP and the general namespaces are not
read-only, else the spare pool; none when both are exhausted. True for the spare pool. -/
def State.evidSource (s : State) : Option Bool :=
  if s.raw / 10 + s.rawBlk ≤ s.freeRaw ∧ s.regBit MC_STAT 2 = false then some false
  else if s.rawBlk ≤ s.evidLeft then some true else none

/-- A draw on the spare pool: EV_MSQ_EVSPARE at the first one, and when RESERVE falls below 2,500. -/
def State.drawEvid (s : State) : State :=
  let was := s.evidReserve
  let s : State := { s with care := { s.care with evUsed := s.care.evUsed + s.rawBlk } }
  let s := (s.setField MC_STAT 4 4 1).showEvSpare
  let s : State := if s.care.evDrawn then s else s.raise 0x090 26
  let s : State := { s with care := { s.care with evDrawn := true } }
  if 2500 ≤ was ∧ s.evidReserve < 2500 then s.raise 0x090 26 else s

/-- Whether a stream may open one more block: the evidence region within its size, evidence from one of its two sources (R229, R230), the
general buffer within its present size, or growing to its target while the general pool keeps MIN_OP (R226). -/
def State.mayOpen (s : State) (stream : Nat) (mode : Mode) : Bool :=
  if stream = stEvid then decide (s.evidUsed + s.rawBlk ≤ s.raw / 400) && s.evidSource.isSome
  else if stream = stEvNat then s.evidSource.isSome
  else if stream = stBuffer ∧ mode = .pslc then
    decide (s.bufUsed + s.rawBlk ≤ s.bufSize) ||
      (decide (s.bufUsed + s.rawBlk ≤ s.bufTarget) && decide (s.raw / 10 + s.rawBlk ≤ s.freeRaw))
  else true

/-- What opening a block takes from the pools: a draw of evidence on the spare pool, or a larger buffer. -/
def State.opening (s : State) (stream die b : Nat) : State :=
  if stream = stEvid ∨ stream = stEvNat then
    if s.evidSource = some true then (s.modBlk die b fun x => { x with drawn := true }).drawEvid else s
  else if s.bufSize < s.bufUsed then s.setBuf s.bufUsed else s

/-- The free erased block of a die with the lowest erase count, ties to the lowest number (R231). -/
def State.freeBlock (s : State) (die : Nat) : Option Nat :=
  (List.range s.blocks).foldl (fun (a : Option Nat) b =>
    if (s.blk die b).state ≠ 0 then a else match a with
      | none => some b
      | some c => if (s.blk die b).erases < (s.blk die c).erases then some b else some c) none

/-- The next unit of a die's stream in a mode: the open block's next page set, or the first of a block that an OPEN record
names (R214, R231); a full block is closed, and its read-offset entry starts at 0 (R271). None when the stream may take no block. -/
def State.alloc (s : State) (die stream : Nat) (mode : Mode) : Option Nat × State :=
  let per := s.modeSets mode
  let take := fun (s : State) (b : Nat) =>
    let k := (s.blk die b).next
    (some (b * s.psBlk + k), s.modBlk die b fun x =>
      { x with next := k + 1, state := if per ≤ k + 1 then 2 else 1, first := if k = 0 then s.pages.dtime else x.first })
  match s.ftl.map.blocks.find? fun (key, x) => key / 4096 == die && x.state == 1 && x.stream == stream && x.mode == mode with
  | some (key, _) => take s (key % 4096)
  | none =>
    match s.freeBlock die with
    | none => (none, s)
    | some b =>
      if per = 0 || !s.mayOpen stream mode then (none, s)
      else
        let t := (s.modBlk die b fun x => { x with state := 1, mode := mode, stream := stream, next := 0, roff := 0 }).note
          (.opened die b (modeCode mode))
        take (t.opening stream die b) b

/-! ## Unit tags, stripe headers and journal pages as bytes (R212, R214, R246) -/

/-- A unit tag's 256 bytes. -/
def UnitTag.bytes (t : UnitTag) : List Byte :=
  let b := leBytes 1 t.kind ++ leBytes 1 t.nsid ++ leBytes 2 t.valid ++ leBytes 4 t.epoch.toNat ++ leBytes 8 t.wseq.toNat ++
    leBytes 8 t.lba0 ++ leBytes 4 t.erases ++ leBytes 2 t.split ++ leBytes 2 0 ++
    ((List.range 16).flatMap fun i => leBytes 8 (t.lbas.getD i 0)) ++ List.replicate 92 0
  b ++ wordBytes (crc32c b)

/-- A unit tag from its bytes. -/
def UnitTag.ofBytes (b : List Byte) : UnitTag :=
  { kind := leNat (sub b 0 1), nsid := leNat (sub b 1 1), valid := leNat (sub b 2 2), epoch := leWord (sub b 4 4),
    wseq := BitVec.ofNat 64 (leNat (sub b 8 8)), lba0 := leNat (sub b 16 8), erases := leNat (sub b 24 4),
    split := leNat (sub b 28 2), lbas := (List.range 16).map fun i => leNat (sub b (32 + 8 * i) 8) }

/-- A stripe header's 64 bytes. -/
def StripeHdr.bytes (h : StripeHdr) : List Byte :=
  let b := leBytes 8 h.sseq.toNat ++ leBytes 1 h.ch ++ leBytes 1 h.role ++ leBytes 1 h.way ++
    leBytes 1 (h.spare.toNat + 2 * h.part.toNat) ++ leBytes 2 h.present ++ leBytes 2 0 ++
    (match h.replaces with
     | some (d, blk, ps) => leBytes 8 (d + blk * 2 ^ 8 + ps * 2 ^ 32)
     | none => leBytes 8 0) ++ List.replicate 36 0
  b ++ wordBytes (crc32c b)

/-- A block as bytes, and bytes as a block. -/
def blockBytes (b : Block) : List Byte := leBytes 4096 b.toNat
def blockOf (bs : List Byte) : Block := BitVec.ofNat 32768 (leNat bs)

/-- A journal record's 32 bytes: TYPE, NSID, COUNT, ARG, LBA, NEW, OLD (R214). -/
def recBytes (ty nsid count arg lba new old : Nat) : List Byte :=
  leBytes 1 ty ++ leBytes 1 nsid ++ leBytes 2 count ++ leBytes 4 arg ++ leBytes 8 lba ++ leBytes 5 new ++ leBytes 3 0 ++
    leBytes 5 old ++ leBytes 3 0

def JRec.bytes : JRec → List Byte
  | .pad => recBytes 0 0 0 0 0 0 0
  | .map n c e lba loc => recBytes 1 n c e.toNat lba loc 0
  | .reloc n c e lba loc old => recBytes 2 n c e.toNat lba loc old
  | .promote n lba g p => recBytes 3 n 0 p lba g 0
  | .dealloc n c lba => recBytes 4 n c 0 lba 0 0
  | .lost n c lba cause => recBytes 5 n c cause lba 0 0
  | .staged n c w lba => recBytes 6 n c w.toNat lba 0 0
  | .opened d b m => recBytes 7 0 0 m (d + b * 256) 0 0
  | .erase d b k => recBytes 8 0 0 k (d + b * 256) 0 0
  | .epoch n k e => recBytes 9 n 0 e.toNat k 0 0
  | .nschg n c base size => recBytes 0x0A n c 0 size base 0
  | .ckpt slot j0 => recBytes 0x0B 0 0 slot j0.toNat 0 0

/-- A journal page's 64 KiB for one copy, its CRC 0: the header and 2,046 records, PAD where none is (R214). -/
def JPage.image (p : JPage) (copyB : Bool) (time : BitVec 64) : List Byte :=
  leBytes 4 0x4A524E4C ++ leBytes 2 1 ++ leBytes 2 p.recs.length ++ leBytes 8 p.jseq.toNat ++ leBytes 8 p.ckptJ0.toNat ++
    leBytes 4 (copyB.toNat + 2 * p.flush.toNat + 4 * p.final.toNat + 8 * p.shutdown.toNat) ++ leBytes 4 0 ++
    leBytes 8 time.toNat ++ List.replicate 20 0 ++ leBytes 4 0 ++
    (p.recs.flatMap JRec.bytes) ++ ((List.replicate (2046 - p.recs.length) JRec.pad).flatMap JRec.bytes)

/-- Bytes as the sixteen words of a page set. -/
def pageWords (bs : List Byte) : List Block := (List.range 16).map fun k => blockOf (sub bs (4096 * k) 4096)

/-! ## Media requests -/

/-- A request enters the scheduler's queues (R263). -/
def State.addReq (s : State) (r : Req) : State :=
  { s with media := { s.media with reqs := s.media.reqs ++ [{ r with id := s.media.nextId }], nextId := s.media.nextId + 1 } }

/-- A request, changing it, and taking it away. -/
def State.req? (s : State) (id : Nat) : Option Req := s.media.reqs.find? fun r => r.id == id
def State.modReq (s : State) (id : Nat) (f : Req → Req) : State :=
  { s with media := { s.media with reqs := s.media.reqs.map fun r => if r.id = id then f r else r } }
def State.dropReq (s : State) (id : Nat) : State :=
  { s with media := { s.media with reqs := s.media.reqs.filter fun r => r.id != id } }

/-- A read of a page set. -/
def readReq (die unit : Nat) (mode : Mode) (cls : Class) (o : ReqOwner) (blocks : List (Nat × Nat × BitVec 64)) : Req :=
  { id := 0, op := 1, die := die, unit := unit, mode := mode, cls := cls, owner := o, blocks := blocks, data := none, old := 0,
    slot := none, word := 0, lane := none, phase := .queued, start := 0, susp := false, more := [], bad := [] }

/-- A program of a page set: through the cipher first unless it holds parity. -/
def progReq (die unit : Nat) (mode : Mode) (cls : Class) (o : ReqOwner) (blocks : List (Nat × Nat × BitVec 64)) (d : PageSet)
    (plain : Bool) : Req :=
  { id := 0, op := 2, die := die, unit := unit, mode := mode, cls := cls, owner := o, blocks := blocks, data := some d, old := 0,
    slot := none, word := 0, lane := none, phase := if plain then .cipher else .queued, start := 0, susp := false, more := [], bad := [] }

/-- The erase of a block. -/
def eraseReq (die block : Nat) (psBlk : Nat) (o : ReqOwner) : Req :=
  { id := 0, op := 3, die := die, unit := block * psBlk, mode := .tlc, cls := 3, owner := o, blocks := [], data := none, old := 0,
    slot := none, word := 0, lane := none, phase := .queued, start := 0, susp := false, more := [], bad := [] }

/-- The mode in which a unit of a die is programmed. -/
def State.unitMode (s : State) (die unit : Nat) : Mode := (s.blk die (unit / s.psBlk)).mode

/-! ## The journal (R214) -/

/-- The die of a channel that takes journal pages: its lowest way that is usable and not quiet (log 33). The sixteen make the eight pairs
of R214: channels k and k + 8. -/
def State.journalDie (s : State) (ch : Nat) : Option Nat :=
  ((List.range 8).map (8 * ch + ·)).find? fun d => s.usable d && !s.quiet d

/-- The dies that may take a copy of a journal page: its pair's first, then the others of the region in turn, never on the channel of the
other copy nor on a die where the program has failed. -/
def State.copyDies (s : State) (p : JPage) (copyB : Bool) (avoid : List Nat) : List Nat :=
  let other := if copyB then p.atA else p.atB
  ((List.range 16).filterMap fun i => s.journalDie ((p.jseq.toNat + (if copyB then 8 else 0) + i) % 16)).filter fun d =>
    !avoid.contains d && (match other with
      | some (o, _) => o / 8 != d / 8
      | none => true)

/-- One copy of a journal page goes to its pair's die, or to another die of the region when that one cannot take it (R214). -/
def State.programCopy (s : State) (p : JPage) (copyB : Bool) (avoid : List Nat) : State :=
  match (s.copyDies p copyB avoid).find? fun d => (s.alloc d stJournal .pslc).1.isSome with
  | none => s
  | some d =>
    match s.alloc d stJournal .pslc with
    | (none, s) => s
    | (some u, s) =>
      let put := fun (x : JPage) => if x.jseq = p.jseq then
        (if copyB then { x with atB := some (d, u) } else { x with atA := some (d, u) }) else x
      let s : State := { s with ftl := { s.ftl with jpages := s.ftl.jpages.map put } }
      let tag : UnitTag := { kind := if copyB then 3 else 2, nsid := 0, valid := 0xFFFF, epoch := 0, wseq := 0, lba0 := 0,
                             erases := (s.blk d (u / s.psBlk)).erases, split := 4096, lbas := [] }
      s.addReq (progReq d u .pslc 1 (.journal p.jseq copyB) []
        { tag := tag, hdr := none, parity := [], words := pageWords (p.image copyB s.pages.dtime) } true)

/-- The J0 of the newest complete checkpoint (R215). -/
def State.newestJ0 (s : State) : BitVec 64 :=
  match s.ftl.ckptA, s.ftl.ckptB with
  | some a, some b => if a.j0.toNat < b.j0.toNat then b.j0 else a.j0
  | some a, none => a.j0
  | none, some b => b.j0
  | none, none => 0

/-- Sealing a journal page: what the buffer holds becomes the next page, and both copies are programmed. -/
def State.seal (s : State) (flush final shutdown : Bool) : State :=
  let p : JPage := { jseq := s.ftl.jseq, recs := s.ftl.jbuf, flush := flush, final := final, shutdown := shutdown,
                     ckptJ0 := s.newestJ0, copyA := false, copyB := false, durable := false, atA := none, atB := none }
  let s : State := { s with ftl := { s.ftl with jbuf := [], jpages := s.ftl.jpages ++ [p], jseq := s.ftl.jseq + 1 } }
  let s := s.programCopy p false []
  match s.ftl.jpages.find? fun x => x.jseq == p.jseq with
  | some q => s.programCopy q true []
  | none => s

/-- The records of one command are committed into one journal page; a page is programmed when it is full (R214). -/
def State.commit (s : State) (rs : List JRec) : State :=
  let s : State := if 2046 < s.ftl.jbuf.length + rs.length then s.seal false false false else s
  let s := rs.foldl State.note s
  if 2046 ≤ s.ftl.jbuf.length then s.seal false false false else s

/-- The number of the journal page that the next record goes into. -/
def State.nextPage (s : State) : BitVec 64 := s.ftl.jseq

/-! ## Staging (R209 to R211) -/

/-- The newest staged version of a block: what a read returns (R208). -/
def State.staged? (s : State) (n lba : Nat) : Option Staged :=
  s.ftl.staging.reverse.find? fun x => x.nsid == n && x.lba == lba

/-- Staging bytes not yet durable. -/
def State.dirty (s : State) : Nat := 4096 * s.ftl.staging.length

/-- Whether a write's data and its records find room: 192 MiB of data not yet in flash, and 16 MiB of records not yet durable (R19, R20,
R210). -/
def State.hasRoom (s : State) (bytes : Nat) : Bool :=
  decide (s.dirty + bytes ≤ 201326592) &&
    decide (2046 * (s.ftl.jpages.filter fun p => !p.durable).length + s.ftl.jbuf.length + 64 ≤ 524288)

/-- Taking blocks out of staging, with the charges they hold. -/
def State.unstage (s : State) (p : Staged → Bool) : State :=
  let gone := (s.ftl.staging.filter p).map fun x => ChargeOwner.stage x.version.toNat
  { s with ftl := { s.ftl with staging := s.ftl.staging.filter fun x => !p x },
           adm := { s.adm with charges := s.adm.charges.filter fun c => !gone.contains c.owner } }

/-- Versions are 64-bit wrapping position counters (R209): the one counted first. -/
def older (a b : BitVec 64) : Bool := a != b && decide ((b - a).toNat < 2 ^ 63)

/-- The staged versions of a block older than a version are superseded, those already on their way to a die only if so said (R209). -/
def State.supersede (s : State) (n lba : Nat) (v : BitVec 64) (issued : Bool) : State :=
  s.unstage fun x => x.nsid == n && x.lba == lba && older x.version v && (issued || !x.issued)

/-- A block enters staging with the next version; an older one not yet programmed is superseded. -/
def State.stage (s : State) (n lba : Nat) (data : Block) (r : CmdRef) (w : BitVec 32) (evid : Bool) : State :=
  let v := s.ftl.version
  let s := s.supersede n lba v false
  let floor := match s.cmd? r with
    | some c => c.floor
    | none => decide (s.field? ADM_STAT 13 12 = 2)
  let x : Staged := { nsid := n, lba := lba, version := v, data := data, fn := r.fn, ref := r, wseq := w, issued := false,
                      evid := evid, floor := floor }
  { s with ftl := { s.ftl with version := v + 1, staging := s.ftl.staging ++ [x] } }

end Sys2Proof.Machine
end

