-- ==== Sys2Proof/Machine/Forecast.lean ====
section
/-!
DEFINITION. Forecast (03): the model constants (R64), the ledger of committed work (R56 to R60), the worst-case completion time
(R56, R61 to R63), the order of the admission checks (R54), the Evidential budget (R48 to R50, R74), and the ADM and ADL pages.
-/

namespace Sys2Proof.Machine

/-! ## Model constants (R64) -/

/-- The figures of R64 in the units of ADM_CVAL: ns, 1/10,000, MB/s, hundredths, KiB, counts. -/
def constTable : List Nat :=
  [3000, 1000, 4000, 1000, 5000, 2000, 2000, 10000, 4000, 1200, 2200, 2000, 2000, 400, 1000000, 1000000,
   30000, 60000, 95000, 180000, 1500000, 4500000, 6000000, 25000, 10000, 4, 8, 2, 6, 6, 14000, 3600,
   1829, 29257, 2500, 1500, 100, 500, 600, 20, 58000, 196608, 800, 1000, 2]

/-- A constant in force; indexes 45 to 63 read 0. -/
def State.constWord (s : State) (i : Nat) : Word := s.adm.consts.get (fun k => BitVec.ofNat 32 (constTable.getD k 0)) i
def State.cst (s : State) (i : Nat) : Rat := if i < 45 then (s.constWord i).toNat else 0
def State.frac (s : State) (i : Nat) : Rat := s.cst i / 10000

/-- The time of a number of bytes at a rate in MB/s, in ns. -/
def State.xfer (s : State) (bytes : Nat) (rate : Nat) : Rat := if s.cst rate = 0 then 0 else bytes * 1000 / s.cst rate

/-- TR of a mode, and TP of a mode with the KiB it covers. -/
def State.tr (s : State) : Mode → Rat
  | .pslc => s.cst 16
  | .tlc => s.cst 17
  | .qlc => s.cst 18
def State.tp (s : State) : Mode → Rat
  | .pslc => s.cst 19
  | .tlc => s.cst 20
  | .qlc => s.cst 21
def pageKib : Mode → Rat
  | .pslc => 64
  | .tlc => 192
  | .qlc => 256

/-! ## The ledger (R56 to R60) -/

/-- Adding a charge; nothing is charged at class 0, whose share is the Evidential reservation. -/
def State.charge (s : State) (o : ChargeOwner) (c : Class) (r : Res) (ns : Rat) : State :=
  if c = 0 ∨ ns ≤ 0 then s else { s with adm := { s.adm with charges := s.adm.charges ++ [⟨o, c, r, ns⟩] } }

/-- A part of an owner's charge on a resource is done. -/
def State.worked (s : State) (o : ChargeOwner) (r : Res) (ns : Rat) : State :=
  { s with adm := { s.adm with charges := s.adm.charges.filterMap fun c =>
      if c.owner = o ∧ c.res = r then (if c.ns ≤ ns then none else some { c with ns := c.ns - ns }) else some c } }

/-- The committed work on a resource at classes 1 to c. -/
def State.committed (s : State) (r : Res) (c : Class) : Rat :=
  s.adm.charges.foldl (fun a x => if x.res = r ∧ x.cls ≤ c ∧ x.cls ≠ 0 then a + x.ns else a) 0

/-- The ways that take writes of classes 1 to 3: neither quiet nor joining (R60, R263). -/
def State.openWay (s : State) (w : Nat) : Bool :=
  decide (w < s.media.ways) && !s.media.quiet.contains w &&
    (match s.media.rot with
     | some r => !r.joining.contains w
     | none => true)
def State.openDies (s : State) : List Nat := (List.range 128).filter fun d => s.usable d && s.openWay (d % 8)

/-- A die as the scheduler sees it. -/
def DieSt.none : DieSt :=
  { attached := false, state := 0, mode := .pslc, susCnt := 0, susp := false, req := .none, started := 0, scale := 0, forced := false, paused := .none, lunReset := .none }
def State.dieSt (s : State) (d : Nat) : DieSt := s.media.dies.getD d .none
def State.modDie (s : State) (d : Nat) (f : DieSt → DieSt) : State :=
  { s with media := { s.media with dies := at' s.media.dies d f } }

/-- The characterised time of the operation in progress on a die. -/
def State.opTime (s : State) (d : DieSt) : Rat :=
  match d.state with
  | 1 => s.tr d.mode
  | 2 => s.tp d.mode
  | 3 => s.cst 22
  | _ => 0

/-- What remains of it. -/
def State.remaining (s : State) (d : DieSt) : Rat := max 0 (s.opTime d - ((s.ns - d.started : Nat) : Rat))

/-- The contribution of the operation in progress to a(die, c) (R58). -/
def State.inProgress (s : State) (die : Nat) (c : Class) : Rat :=
  let d := s.dieSt die
  let d := match d.paused with
    | some (st, id, run) => if d.state = 0 then { d with state := st, req := some id, started := s.ns - run } else d
    | none => d
  let evid := match d.req.bind s.req? with
    | some r => r.cls == 0
    | none => false
  if d.state = 0 || evid then 0
  else if c = 1 ∧ d.state = 2 ∧ (d.susCnt : Rat) < s.cst 25 ∨ c = 1 ∧ d.state = 3 ∧ (d.susCnt : Rat) < s.cst 26 then s.cst 23 + s.cst 24
  else s.remaining d

/-- What the ledger holds for the journal on a die of its eight pairs: one pSLC program in each interval of 1 ms, as class 1 work (R214). -/
def State.journalHold (s : State) (die : Nat) : Rat := if s.journalDie (die / 8) = some die then s.tp .pslc else 0

/-- a(r, c) of a die, a channel, and a rate resource (R56, R60). -/
def State.aDie (s : State) (die : Nat) (c : Class) : Rat :=
  let n := s.openDies.length
  s.committed (.die die) c + s.inProgress die c + s.journalHold die +
    (if s.openDies.contains die ∧ n ≠ 0 then s.committed .openDies c / n else 0)
def State.aChan (s : State) (ch : Nat) (c : Class) : Rat := s.committed (.chan ch) c + s.committed .allChans c / 16

/-- The capacity factor k of the throttle step Forecast uses (R427, R428). -/
def State.capFactor (s : State) : Rat :=
  match s.field? PWR_STAT 11 10 with
  | 0 => 1
  | 1 => 3 / 4
  | 2 => 1 / 2
  | _ => 1 / 4

/-- f(r) of the dies and of the channels (R57). -/
def State.fDie (s : State) : Rat := s.frac 39 + (if s.regBit ADM_STAT 11 then s.frac 37 else 0)
def State.fChan (s : State) : Rat := s.frac 39 + (if s.regBit ADM_STAT 11 then s.frac 38 else 0)

/-- mu(r) (R56, R428). -/
def State.muDie (s : State) : Rat := s.capFactor * (1 - s.frac 34 - s.fDie)
def State.muChan (s : State) : Rat := s.capFactor * (1 - s.frac 35 - s.fChan)
def State.muCip (s : State) : Rat := s.capFactor * (1 - s.frac 36)
def State.muHost (s : State) : Rat := 1 - s.frac 36

/-- The die charge per KiB and k_ch of the buffer state (R60); g is ADM_GCDEBT.G ÷ 100. -/
def State.gDebt (s : State) : Rat := (s.field? ADM_GCDEBT 15 0 : Rat) / 100
def State.dieCharge (s : State) : Rat :=
  let nat := s.tp s.native / pageKib s.native * (1 + s.gDebt)
  match s.field? ADM_STAT 13 12 with
  | 0 => s.cst 19 / 64
  | 1 => s.cst 19 / 64 + nat
  | _ => nat
def State.chanFactor (s : State) : Rat :=
  match s.field? ADM_STAT 13 12 with
  | 0 => 1
  | 1 => 3 + 2 * s.gDebt
  | _ => 1 + 2 * s.gDebt

/-- The program charge of a number of bytes: on the dies taken together and on the channels (R60). -/
def State.programCharge (s : State) (o : ChargeOwner) (c : Class) (bytes : Nat) : State :=
  (s.charge o c .openDies (s.dieCharge * bytes / 1024)).charge o c .allChans (s.chanFactor * s.xfer bytes 31)

/-- The staging drain rate of R60 in MB/s. DESIGN CHOICE (log 89): it is rounded down, which the worked admission of 03 (4,801 MB/s)
does not settle. -/
def State.drainRate (s : State) : Nat :=
  if s.dieCharge ≤ 0 then 0
  else
    let dies : Rat := (((s.media.dies.filter fun d => d.attached).length : Nat) : Rat) - s.cst 44 * 16
    (max 0 (dies * (1 - s.frac 34 - s.fDie) * 1024 * 1000 / s.dieCharge)).floor.toNat

/-! ## The worst-case completion time (R56, R59, R61 to R63) -/

/-- What a command demands (R59): the units it reads with die, mode and bytes; bytes on the host link in and out, through the
cipher, in DRAM, and into staging; whether it is a Flush; the cell and cycles of an execution, the time it holds cipher lanes
(R327), and what is left to the execution on the digest lane it will take (R321). -/
structure Demand where
  units   : List (Nat × Mode × Nat)
  hostIn  : Nat
  hostOut : Nat
  cipher  : Nat
  dram    : Nat
  stage   : Nat
  flush   : Bool
  cell    : Option (Nat × Nat)
  lanes   : Rat
  digest  : Rat

def Demand.none : Demand :=
  { units := [], hostIn := 0, hostOut := 0, cipher := 0, dram := 0, stage := 0, flush := false, cell := .none, lanes := 0, digest := 0 }

/-- The command's demand on a die and on a channel. -/
def State.sDie (s : State) (u : List (Nat × Mode × Nat)) (d : Nat) : Rat :=
  u.foldl (fun a x => if x.1 = d then a + s.tr x.2.1 + s.xfer x.2.2 31 else a) 0
def State.sChan (s : State) (u : List (Nat × Mode × Nat)) (ch : Nat) : Rat :=
  u.foldl (fun a x => if x.1 / 8 = ch then a + s.xfer x.2.2 31 else a) 0

/-- q(staging) (R56): what exceeds STG_MAX, or for a Flush all of it, at ADM_DRAIN. DESIGN CHOICE (log 70): while ADM_DRAIN is 0 nothing
drains, and the wait is longer than any deadline. -/
def State.qStage (s : State) (d : Demand) : Rat :=
  let excess : Rat := if d.flush then s.dirty else max 0 ((s.dirty : Rat) + d.stage - s.cst 41 * 1024)
  let rate : Rat := (s.reg ADM_DRAIN).toNat
  if (d.stage = 0 ∧ !d.flush) ∨ excess ≤ 0 then 0 else if rate = 0 then 2147483647000 else excess * 1000 / rate

/-- The longest wait for a resource (R56). -/
def State.worstWait (s : State) (c : Class) (d : Demand) : Rat :=
  let q := fun (a b mu : Rat) => if b ≤ 0 then 0 else if mu ≤ 0 then 2147483647000 else (a + b) / mu
  let dies := (List.range 128).map fun n => q (s.aDie n c) (s.sDie d.units n) s.muDie
  let chans := (List.range 16).map fun n => q (s.aChan n c) (s.sChan d.units n) s.muChan
  let rates := [q (s.committed .hostIn c) (s.xfer d.hostIn 30) s.muHost, q (s.committed .hostOut c) (s.xfer d.hostOut 30) s.muHost,
    q (s.committed .cipher c) (s.xfer d.cipher 33 + d.lanes) s.muCip, q (s.committed .dram c) (s.xfer d.dram 40) s.muHost, s.qStage d]
  let cell := match d.cell with
    | some (n, cyc) => [q (max (s.committed (.cell n) c) d.digest) ((cyc : Rat) * 5 / 8) s.capFactor]
    | none => []
  (dies ++ chans ++ rates ++ cell).foldl max 0

/-- Retries by class: RR_P, RR_B, RR_BG (R61). -/
def State.retries (s : State) (c : Class) : Rat := if c = 1 then s.cst 27 else if c = 2 then s.cst 28 else s.cst 29

/-- The slowest mode in which any die holds valid data, as its TR (R61). -/
def State.trDev (s : State) : Rat :=
  s.placed.foldl (fun a x => max a (s.tr (s.unitMode x.1 x.2.1))) 0

/-- The read tail up to the host transfer (R61), for the largest and slowest unit; 0 when no unit lies on a die. -/
def State.tailMedia (s : State) (c : Class) (u : List (Nat × Mode × Nat)) : Rat :=
  if u.isEmpty then 0
  else
    let unit := u.foldl (fun a x => max a x.2.2) 0
    let trm := u.foldl (fun a x => max a (s.tr x.2.1)) 0
    let b := max s.trDev (s.cst 23)
    let once := trm + s.cst 9 + s.xfer unit 31
    s.cst 6 + s.retries c * (once + s.cst 7) + (b + once + s.cst 8) + (s.xfer unit 32 + s.cst 10)

/-- The unit of the host-transfer term. -/
def hostUnit (u : List (Nat × Mode × Nat)) (len : Nat) : Nat :=
  if u.isEmpty then min len 65536 else u.foldl (fun a x => max a x.2.2) 0

def State.tailHost (s : State) (u : List (Nat × Mode × Nat)) (len : Nat) : Rat := s.xfer (hostUnit u len) 30 + s.cst 5
def State.tailRead (s : State) (c : Class) (u : List (Nat × Mode × Nat)) (len : Nat) : Rat :=
  s.tailMedia c u + s.tailHost u len + s.cst 3
def State.tailVerify (s : State) (c : Class) (u : List (Nat × Mode × Nat)) : Rat := s.tailMedia c u + s.cst 3
def State.tailWrite (s : State) : Rat := s.cst 5 + s.cst 4 + s.cst 3
def State.tailCopy (s : State) (c : Class) (u : List (Nat × Mode × Nat)) : Rat := s.tailMedia c u + s.cst 3 + s.cst 4
def State.tailSlm (s : State) : Rat := s.cst 5 + s.cst 3

/-- Whether two commands address a common block of a namespace (R85). -/
def Range.meets (a b : Range) : Bool := a.nsid == b.nsid && decide (a.lba < b.lba + b.nlb) && decide (b.lba < a.lba + a.nlb)
def Cmd.overlaps (a b : Cmd) : Bool :=
  (a.reads ++ a.writes).any fun x => (b.reads ++ b.writes).any fun y => x.meets y

/-- The earlier commands a command waits for (R85); one that a controller reset has left without a completion counts in every
queue of its function (R89). DESIGN CHOICE (log 105): only admitted commands count, not those of the admin queue. -/
def State.waitsFor (s : State) (c : Cmd) : List Cmd :=
  s.host.cmds.filter fun e => e.admitted && e.ref.fn == c.ref.fn && decide (e.seq < c.seq) &&
    (c.ordered || ((e.silent || e.ref.sqid == c.ref.sqid) && e.overlaps c))

/-- t_ord (R62), for a command about to be admitted. -/
def State.tOrd (s : State) (c : Cmd) : Rat :=
  (s.waitsFor { c with seq := s.host.nextSeq }).foldl (fun a e => max a (((e.deadline - s.ns : Nat) : Nat) : Rat)) 0

/-- W in ns (R56, R63). -/
def State.worst (s : State) (c : Class) (d : Demand) (tail ord : Rat) : Rat :=
  let w0 := s.cst 0 + (if s.regBit ADM_STAT 9 then s.cst 1 else s.cst 2) + ord + s.worstWait c d + tail
  w0 + s.cst 12 + s.cst 13 * ((w0 / 250000000).floor : Rat)

/-- W in µs, rounded up. -/
def wMicro (w : Rat) : Nat := (w / 1000).ceil.toNat

/-- The charges of an admitted command beside its program charge. -/
def State.chargeDemand (s : State) (o : ChargeOwner) (c : Class) (d : Demand) : State :=
  let s := (List.range 128).foldl (fun s n => s.charge o c (.die n) (s.sDie d.units n)) s
  let s := (List.range 16).foldl (fun s n => s.charge o c (.chan n) (s.sChan d.units n)) s
  let s := ((s.charge o c .hostIn (s.xfer d.hostIn 30)).charge o c .hostOut (s.xfer d.hostOut 30)).charge o c .cipher
    (s.xfer d.cipher 33)
  let s := s.charge o c .dram (s.xfer d.dram 40)
  match d.cell with
  | some (n, cyc) => s.charge o c (.cell n) ((cyc : Rat) * 5 / 8)
  | none => s

/-! ## Evidential budget (R48 to R50) -/

/-- The slice of a function, of field capture for 16. -/
def State.evSlice (s : State) (f : Nat) : Slice := if f = 16 then ⟨1, 5⟩ else s.adm.slices.getD f ⟨0, 0⟩

/-- Bucket depths (R49): bytes, and commands in 1/10,000. -/
def Slice.depth (x : Slice) : Bucket :=
  if x.mbps = 0 ∧ x.cmds = 0 then ⟨0, 0⟩ else ⟨max 65536 (x.mbps * 1000), (x.cmds + 9) / 10 * 10000⟩

/-- Taking and giving back tokens. -/
def State.modBucket (s : State) (f : Nat) (g : Bucket → Bucket) : State :=
  { s with adm := { s.adm with buckets := at' s.adm.buckets f g } }
def State.bucket (s : State) (f : Nat) : Bucket := s.adm.buckets.getD f ⟨0, 0⟩

/-- What a function's buckets hold now: what they held at the last filling and what has come since at its slice, up to their depths
(R49). -/
def State.bucketNow (s : State) (f : Nat) : Bucket :=
  let us := (s.pages.dtime - s.adm.refilled).toNat
  let x := s.evSlice f
  let b := s.bucket f
  ⟨min x.depth.bytes (b.bytes + us * x.mbps), min x.depth.cmds (b.cmds + us * x.cmds)⟩

/-- Every bucket filled to the present. -/
def State.fillBuckets (s : State) : State :=
  { s with adm := { s.adm with buckets := (List.range 17).map s.bucketNow, refilled := s.pages.dtime } }

/-- Tokens are taken from, and given back to, buckets filled to the present. -/
def State.takeTokens (s : State) (f len : Nat) : State := s.fillBuckets.modBucket f fun b => ⟨b.bytes - len, b.cmds - 10000⟩
def State.giveTokens (s : State) (f len : Nat) : State :=
  let d := (s.evSlice f).depth
  s.fillBuckets.modBucket f fun b => ⟨min d.bytes (b.bytes + len), min d.cmds (b.cmds + 10000)⟩

/-- TOKEN_REFILL: the buckets fill for the device time since the last filling (R49). -/
def execTokenRefill (s : State) : Answer := .next s.fillBuckets

/-- Whether an Evidential command is outstanding on a die (R50, R75): one of a queue, or an append, of the host or of field capture,
that is placed there and not yet durable. -/
def State.evidOn (s : State) (die : Nat) : Bool :=
  (s.host.cmds.any fun c => c.cls == 0 && c.admitted && c.dies.contains die) || s.host.evid.open_.any fun x => x.die == some die

/-- Whether a die may take an Evidential command now (R50): T_SPACE since the last, and none outstanding. -/
def State.spaced (s : State) (die : Nat) : Bool :=
  !(s.adm.spacing.any fun x => x.1 == die && decide ((s.ns : Rat) < x.2 + s.cst 15)) && !s.evidOn die
def State.space (s : State) (dies : List Nat) : State :=
  { s with adm := { s.adm with
      spacing := (s.adm.spacing.filter fun x => !dies.contains x.1) ++ dies.map fun d => (d, s.ns) } }

/-! ## Admission (R46, R47, R51, R54, R55) -/

/-- How class, deadline (µs) and ORDERED of a command are resolved; none when the tag breaks row 2 of R54. -/
structure Resolved where
  cls     : Class
  us      : Nat
  ordered : Bool
  dflt    : Bool

/-- The queue default or the tag (R47, R51, R52). `tagged` says that the command carries a tag, `may` that it may be Evidential
(R46). Only on an Evidential queue, FIXED = 1 with DCLASS = 0, is a command that may not be Evidential made Prompt (R51); on a tagged
queue a class 0 default for it is class 0 on an excluded command, row 2 of R54. -/
def resolve (q : SQueue) (cdw3 : Word) (tagged may : Bool) : Option Resolved :=
  if q.fixed then
    if q.dclass = 0 ∧ !may then some ⟨1, 2000000, false, true⟩ else some ⟨q.dclass, 64 * q.ddl, false, true⟩
  else if !tagged then (if q.dclass = 0 ∧ !may then none else some ⟨q.dclass, 64 * q.ddl, false, true⟩)
  else
    let cls : Class := Fin.ofNat 4 (bits cdw3 1 0)
    let dl := bits cdw3 15 4
    if bits cdw3 31 16 ≠ 0 ∨ bit cdw3 3 ∨ cls = 0 ∧ (dl ≠ 0 ∨ !may) then none
    else some ⟨cls, 64 * (if dl = 0 then q.ddl else dl), bit cdw3 2, false⟩

/-- The class minimum of R43 in µs. -/
def classMin : Class → Nat
  | 0 => 0
  | 1 => 2000
  | 2 => 10000
  | 3 => 64

/-- A refusal under rows 2 to 9 of R54 is kept in ADM_REJ and in the function's own view, and counted. -/
def State.reject (s : State) (r : CmdRef) (st : Status) (reason w us : Nat) : State :=
  let words := [BitVec.ofNat 32 (r.cid.toNat * 65536 + r.sqid), BitVec.ofNat 32 (reason * 65536 + r.fn.val * 256 + st.sc),
    BitVec.ofNat 32 w, BitVec.ofNat 32 us]
  let s := (List.range 4).foldl (fun s k => s.setReg (ADM_REJ k) (words.getD k 0)) s
  let s : State := { s with vfm := { s.vfm with vfs := at' s.vfm.vfs r.fn.val fun v =>
    { v with rej := (List.range 4).foldl (fun m k => m.set (fun _ => 0) k (words.getD k 0)) v.rej } } }
  let s := s.count 0x020 (if st.sct = 0 then 6 else if st.sc = 0x80 then 4 else 5) 1
  s.finish r st

/-- The R44 bound of a command kind in µs. -/
def boundOf : CmdKind → Nat
  | .write | .append => 3000
  | .copy => 3500
  | _ => 1500

/-- Admitting a command: its record, its charges or tokens, ADMIT_COUNT. -/
def State.admitted (s : State) (k : Cmd) (d : Demand) (prog len : Nat) : State :=
  let s := s.count64 0x020 2 1
  let s : State := if k.cls = 0 then (s.takeTokens k.ref.fn.val len).space k.dies
    else (s.chargeDemand (.cmd k.ref) k.cls d).programCharge (.cmd k.ref) k.cls prog
  let s := s.addCmd { k with admitted := true, floor := decide (s.field? ADM_STAT 13 12 = 2) }
  { s with adm := { s.adm with latest := max s.adm.latest k.deadline } }

/-- The record of a command as Forecast admits it: `from'` is the time from which an Evidential bound runs. -/
def State.asAdmitted (s : State) (k : Cmd) (r : Resolved) (from' : Nat) : Cmd :=
  if r.cls = 0 then { k with cls := 0, ordered := r.ordered, start := from', deadline := from' + 1000 * boundOf k.kind }
  else { k with cls := r.cls, ordered := r.ordered, start := s.ns, deadline := s.ns + 1000 * r.us, dies := [] }

/-- Forecast's rows in order (R54). `len` is the data length, `prog` the bytes of the program charge; `ok` is applied after admission.
DESIGN CHOICE (log 89): a slice is zero when both of its fields are. -/
def State.admission (s : State) (k : Cmd) (r : Option Resolved) (d : Demand) (tail : Class → Rat) (prog len from' : Nat)
    (check : State → Option Status) (ok : State → State) : State :=
  match r with
  | none => s.reject k.ref stField 0 0 0
  | some r =>
    let f := k.ref.fn.val
    if r.cls = 0 then
      let b := s.bucketNow f
      let no := fun why => s.reject k.ref (stBudget why) why 0 (boundOf k.kind)
      if (s.evSlice f).mbps = 0 ∧ (s.evSlice f).cmds = 0 then no 4
      else if b.cmds < 10000 then no 2
      else if b.bytes < len then no 1
      else if !(k.dies.all s.spaced) then no 3
      else ok (s.admitted (s.asAdmitted k r from') d prog len)
    else
      let w := s.worst r.cls d (tail r.cls) (s.tOrd (s.asAdmitted k r from'))
      if r.us < classMin r.cls then s.reject k.ref (stDeadline 0) 0 0 r.us
      else if ((1000 * r.us : Nat) : Rat) < w then s.reject k.ref (stDeadline (wMicro w)) 0 (wMicro w) r.us
      else match check s with
        | some st => s.finish k.ref st
        | none => ok (s.admitted (s.asAdmitted k r from') d prog len)

/-! ## The ADM page (R64, R74) -/

/-- A write of ADM_SLICE (R49, R74): the slice of the selected function; its buckets have filled at the old rate until now, and fill at the
new one from there. -/
def sliceWrite (v : Word) (s : State) : State :=
  let f := s.field? ADM_SLSEL 4 0
  if 15 < f then s
  else
    let old := s.evSlice f
    let x : Slice := ⟨bits v 7 0, bits v 23 16⟩
    let s := s.fillBuckets
    let s : State := { s with adm := { s.adm with slices := s.adm.slices.set f x } }
    s.modBucket f fun b =>
      if old.mbps = 0 ∧ old.cmds = 0 then x.depth else ⟨min b.bytes x.depth.bytes, min b.cmds x.depth.cmds⟩

/-- The condition under which it is refused. -/
def sliceCond (m : Master) (v : Word) (s : State) : Option State :=
  let f := s.field? ADM_SLSEL 4 0
  let others := fun (g : Slice → Nat) =>
    (List.range 16).foldl (fun a k => if k = f then a else a + g (s.evSlice k)) 0
  if f = 16 ∨ f < 16 ∧ (95 < others Slice.mbps + bits v 7 0 ∨ 115 < others Slice.cmds + bits v 23 16) then
    some (((s.setReg (PG_STAT 0x020) (setBit (s.reg (PG_STAT 0x020)) 17 true)).refuse 0x020 0x10 m 0x90 v).raise 0x020 6)
  else none

/-- What ADM_SLICE reads. -/
def sliceView (s : State) : Word :=
  let f := s.field? ADM_SLSEL 4 0
  if 16 < f then 0 else BitVec.ofNat 32 ((s.evSlice f).cmds * 65536 + (s.evSlice f).mbps)

def execAdmSliceWrite (m : Master) (v : Word) (s : State) : Answer :=
  .next (s.write m 0x020 0x90 32 v (sliceCond m v) fun _ => sliceWrite v).1

/-- ADM_CTRL: LOCK is set by 1; RT_INTERVAL below 25 stores 25. -/
def admCtrlEffect (v : Word) (d : RegDef) (s : State) : State :=
  let s := s.store ADM_CTRL v d
  if s.field? ADM_CTRL 15 8 < 25 then s.setField ADM_CTRL 15 8 25 else s

def execLock (m : Master) (v : Word) (s : State) : Answer :=
  .next (s.write m 0x020 0x80 32 (setBit v 0 true) noCond (admCtrlEffect (setBit v 0 true))).1

/-- ADM_CVAL stores the selected constant while LOCK is 0 (R64). -/
def cvalCond (m : Master) (v : Word) (s : State) : Option State :=
  if s.regBit ADM_CTRL 0 then some (s.refuse 0x020 0x11 m 0xA4 v) else none
def cvalWrite (v : Word) (s : State) : State :=
  let i := s.field? ADM_CSEL 5 0
  if 45 ≤ i then s
  else { s with adm := { s.adm with consts := s.adm.consts.set (fun k => BitVec.ofNat 32 (constTable.getD k 0)) i v } }
def cvalView (s : State) : Word :=
  let i := s.field? ADM_CSEL 5 0
  if 45 ≤ i then 0 else s.constWord i

def execAdmCvalWrite (m : Master) (v : Word) (s : State) : Answer :=
  .next (s.write m 0x020 0xA4 32 v (cvalCond m v) fun _ => cvalWrite v).1

/-! ## The ledger window (R75) -/

/-- A ledger value in µs, rounded up; that of a die is held at 20 bits. -/
def ledgerMicro (r : Rat) : Nat := (r / 1000).ceil.toNat
def ledgerWord (r : Rat) : Word := BitVec.ofNat 32 (min (ledgerMicro r) 0xFFFFF)
def rateWord (r : Rat) : Word := BitVec.ofNat 32 (min (ledgerMicro r) 0xFFFFFFFF)

/-- Every register of the page but ADL_SNAP, as it is latched: offset and value. DESIGN CHOICE (log 89): the mode bits of an idle die keep
the mode of its last operation. -/
def State.ledger (s : State) : List (Nat × Word) :=
  ((List.range 128).flatMap fun n =>
    let d := s.dieSt n
    let st := d.state + 4 * modeCode d.mode + 16 * min d.susCnt 15 + 256 * (s.quiet n && d.attached).toNat +
      512 * (s.evidOn n).toNat
    [(ADL_DIE (4 * n), ledgerWord (s.aDie n 1)), (ADL_DIE (4 * n + 1), ledgerWord (s.aDie n 2)),
     (ADL_DIE (4 * n + 2), ledgerWord (s.aDie n 3)), (ADL_DIE (4 * n + 3), BitVec.ofNat 32 st)]) ++
  ((List.range 20).flatMap fun k =>
    let a := fun (c : Class) => match k with
      | 0 => s.committed .hostIn c
      | 1 => s.committed .hostOut c
      | 2 => s.committed .cipher c
      | 3 => s.committed .dram c
      | n => s.aChan (n - 4) c
    [(ADL_RATE (4 * k), rateWord (a 1)), (ADL_RATE (4 * k + 1), rateWord (a 2)), (ADL_RATE (4 * k + 2), rateWord (a 3))]) ++
  [(ADL_DIRTY, BitVec.ofNat 32 (s.dirty / 1024))] ++
  ((List.range 24).flatMap fun k =>
    [(ADL_CELL (4 * k), rateWord (s.committed (.cell (16 + k)) 1)), (ADL_CELL (4 * k + 1), rateWord (s.committed (.cell (16 + k)) 2)),
     (ADL_CELL (4 * k + 2), rateWord (s.committed (.cell (16 + k)) 3))])

/-- ADL_SNAP latches every value at one instant. -/
def snapEffect (v : Word) (s : State) : State :=
  if bit v 0 then s.ledger.foldl (fun t x => t.setReg x.1 x.2) s else s

def execAdlSnap (m : Master) (v : Word) (s : State) : Answer :=
  .next (s.write m 0x021 0x80 32 (setBit v 0 true) noCond fun _ => snapEffect (setBit v 0 true)).1

/-! ## The fill, the buffer and the debt (R60, R225, R226, R228) -/

/-- The reserves of R228 in raw bytes: 10 MiB of pSLC capacity on every die. -/
def State.reserves (s : State) : Nat := s.dieCount * 10 * 2 ^ 20 * (if s.native = .qlc then 4 else 3)

/-- BUFSTATE is set in both registers; a change raises EV_ADM_BUFSTATE. -/
def State.setBufState (s : State) (b : Nat) : State :=
  let old := s.field? ADM_STAT 13 12
  let s := (s.setField ADM_STAT 13 12 b).setField MC_STAT 1 0 b
  if old = b then s else s.raise 0x020 7

/-- GCDEBT_REFRESH: the fill, the target, the current size, the buffer state, then g and the drain rate. How g follows from
garbage collection is left open: a free value within G_MAX (log 5, log 34). -/
def execGcdebtRefresh (s : State) : Answer :=
  let f := if s.userBlocks = 0 then 0 else min 10000 (s.mappedBlocks * 10000 / s.userBlocks)
  let target := s.bufTarget
  let floor := s.bufFloor
  let used := s.bufUsed
  let room := s.freeRaw - (s.care.bufCur - used) - s.raw / 10
  let cur := if s.care.bufCur < target then min target (s.care.bufCur + room) else max floor (max target used)
  let free := cur - used - s.reserves
  let s : State := { s with care := { s.care with bufUsed := used } }
  let s := (s.setBuf cur).setReg MC_BUFTGT (BitVec.ofNat 32 (target / 2 ^ 20))
  let s := s.setReg MC_BUFFREE (BitVec.ofNat 32 (free / 2 ^ 20))
  let s := s.setField MC_STAT 29 16 f
  let s := s.setBufState (if cur = floor ∧ free = 0 then 2 else if (free : Rat) < s.frac 43 * cur then 1 else 0)
  match s.free with
  | (v, s) =>
    let s := s.setReg ADM_GCDEBT (BitVec.ofNat 32 (v.toNat % ((s.constWord 42).toNat + 1) % 65536))
    .next (s.setReg ADM_DRAIN (BitVec.ofNat 32 s.drainRate))

end Sys2Proof.Machine
end

