-- ==== Sys2Proof/Machine/Stripes.lean ====
section
/-!
DEFINITION. Stripes (11): the arithmetic of P and Q (R247), roles (R244), accumulators and closure (R249 to R251), the recovery of
lost members (R248), and the choice of the die for a write (R66, R231, R263).
-/

namespace Sys2Proof.Machine

/-! ## GF(2^8) with polynomial 0x11D over every byte of a number (R247) -/

/-- The number whose `n` bytes are all 1. -/
def ones (n : Nat) : Nat := (2 ^ (8 * n) - 1) / 255

/-- Multiplying every byte by g = 2. -/
def gfDouble (n x : Nat) : Nat := ((x <<< 1) &&& (ones n * 0xFE)) ^^^ (((x >>> 7) &&& ones n) * 0x1D)

/-- Multiplying every byte by g^i. -/
def gfShift (n : Nat) : Nat → Nat → Nat
  | 0, x => x
  | i + 1, x => gfShift n i (gfDouble n x)

/-- Multiplying every byte by a constant byte. -/
def gfTimes (n c x : Nat) : Nat :=
  (List.range 8).foldl (fun a k => if c.testBit k then a ^^^ gfShift n k x else a) 0

/-- The inverse of a nonzero byte: its power 254. -/
def gfRecip (c : Nat) : Nat := (List.range 253).foldl (fun a _ => gfTimes 1 c a) c

/-- The bytes that parity covers of a member. -/
abbrev memberBytes : Nat := 65792

/-- g^i times a member. -/
def Member.shift (i : Nat) (m : Member) : Member := BitVec.ofNat 526336 (gfShift memberBytes i m.toNat)
def Member.times (c : Nat) (m : Member) : Member := BitVec.ofNat 526336 (gfTimes memberBytes c m.toNat)

/-- What parity covers of a page set: its tag field and its sixteen words (R247). -/
def PageSet.member (p : PageSet) : Member :=
  BitVec.ofNat 526336 (leNat (if p.parity.isEmpty then p.tag.bytes else p.parity) +
    2 ^ 2048 * (p.words.foldr (fun w a => w.toNat + 2 ^ 32768 * a) 0))

/-- A page set from what parity covers. A parity member keeps the parity of the tags. -/
def Member.pageSet (m : Member) (h : Option StripeHdr) (isParity : Bool) : PageSet :=
  let tag := leBytes 256 m.toNat
  { tag := UnitTag.ofBytes tag, hdr := h, parity := if isParity then tag else [],
    words := (List.range 16).map fun k => BitVec.ofNat 32768 (m.toNat / 2 ^ 2048 / 2 ^ (32768 * k)) }

/-! ## Roles (R244) -/

/-- The channel of the member with index i of a stripe: 0 to 13 data, 14 P, 15 Q. -/
def memberChan (sseq : BitVec 64) (i : Nat) : Nat := (sseq.toNat + 2 + i) % 16

/-- The index of the member on a channel. -/
def memberIdx (sseq : BitVec 64) (ch : Nat) : Nat := (ch + 14 + 16 - sseq.toNat % 16) % 16

/-- The die of a member. -/
def memberDie (sseq : BitVec 64) (way i : Nat) : Nat := 8 * memberChan sseq i + way

/-- A stripe's next data member after those it has, on a die that can take it (R251). -/
def State.nextMember (s : State) (x : Stripe) : Option Nat :=
  let from' := (x.members.map fun m => m.1 + 1).foldl max 0
  ((List.range 14).filter fun i => from' ≤ i).find? fun i => s.usable (memberDie x.sseq x.way i)

/-! ## Reading and recovering members (R248) -/

/-- The page set stored at a die's unit, if the die can be read. -/
def State.flashAt (s : State) (die unit : Nat) : Option PageSet :=
  let p := s.media.flash.get (fun _ => { tag := UnitTag.ofBytes [], hdr := none, parity := [], words := [] }) (die * 2 ^ 22 + unit)
  if p.words.isEmpty || !s.usable die then none else some p
def State.setFlash (s : State) (die unit : Nat) (p : Option PageSet) : State :=
  let dflt : PageSet := { tag := UnitTag.ofBytes [], hdr := none, parity := [], words := [] }
  { s with media := { s.media with flash := s.media.flash.set (fun _ => dflt) (die * 2 ^ 22 + unit) (p.getD dflt) } }

/-- The stripe of a page set: its header, as RED's books hold it. -/
def State.stripeOf (s : State) (die unit : Nat) : Option StripeHdr :=
  (s.media.flash.get (fun _ => { tag := UnitTag.ofBytes [], hdr := none, parity := [], words := [] }) (die * 2 ^ 22 + unit)).hdr

/-- The page set that a die is programming at a unit; a parity member is at hand from its closure on. -/
def State.inFlight (s : State) (die unit : Nat) : Option PageSet :=
  (s.media.reqs.find? fun r => r.op == 2 && r.die == die && r.unit == unit && (r.phase == .running || (match r.owner with
    | .parity _ _ => true
    | _ => false))).bind fun r => r.data

/-- A stripe's members by index and unit with its way, and P and Q when its accumulator holds them; of an open stripe the members that
have been folded in. -/
def State.stripeBook (s : State) (sseq : BitVec 64) : Option (List (Nat × Nat) × Nat × Option (Member × Member)) :=
  match s.red.stripes.find? fun x => x.sseq == sseq with
  | some x =>
    let sent := fun (m : Nat × Nat) =>
      let d := memberDie sseq x.way m.1
      (s.stripeOf d m.2).isSome || (s.inFlight d m.2).isSome
    some (x.members.filter sent, x.way, some (x.p, x.q))
  | none =>
    let e := s.red.closed.get (fun _ => ([], 0)) sseq.toNat
    if e.1.isEmpty then none else some (e.1.map fun m => (memberIdx sseq m.1, m.2), e.2, none)

/-- Where a page set is read: its own die, or its spare copy once it has been redirected (R253). -/
def State.redirect (s : State) (die unit : Nat) : Nat × Nat :=
  match s.red.repl.find? fun r => r.fromDie == die && r.fromBlock == unit / s.psBlk with
  | some r =>
    let u := r.toBlock * s.psBlk + unit % s.psBlk
    if (s.flashAt r.toDie u).isSome then (r.toDie, u) else (die, unit)
  | none => (die, unit)

/-- Recovering the member on channel `ch` of a stripe when the channels of `more` are unreadable too (R248): its content, and
whether Q was needed. -/
def State.recover (s : State) (sseq : BitVec 64) (ch : Nat) (more : List Nat) : Option (Member × Bool) :=
  match s.stripeBook sseq with
  | none => none
  | some (members, way, acc) =>
    let get := fun (i : Nat) =>
      if memberChan sseq i = ch ∨ more.contains (memberChan sseq i) then none
      else match members.find? fun m => m.1 == i with
        | some m =>
          let d := memberDie sseq way i
          match s.flashAt (s.redirect d m.2).1 (s.redirect d m.2).2 with
          | some p => some p.member
          | none => if s.usable d then (s.inFlight d m.2).map PageSet.member else none
        | none => none
    let p := match acc with
      | some (p, _) => some p
      | none => get 14
    let q := match acc with
      | some (_, q) => some q
      | none => get 15
    let data := (members.filter fun m => m.1 < 14).map fun m => m.1
    let lost := data.filter fun i => (get i).isNone
    let sumP := data.foldl (fun a i => match get i with
      | some m => a ^^^ m
      | none => a) (0 : Member)
    let sumQ := data.foldl (fun a i => match get i with
      | some m => a ^^^ m.shift i
      | none => a) (0 : Member)
    let solved : Option (List (Nat × Member) × Bool) :=
      match lost with
      | [] => some ([], false)
      | [x] => match p, q with
        | some p, _ => some ([(x, p ^^^ sumP)], false)
        | none, some q => some ([(x, (q ^^^ sumQ).times (gfRecip (gfShift 1 x 1)))], true)
        | none, none => none
      | [x, y] => match p, q with
        | some p, some q =>
          let gx := gfShift 1 x 1
          let gy := gfShift 1 y 1
          let dx := ((q ^^^ sumQ) ^^^ (p ^^^ sumP).times gy).times (gfRecip (gx ^^^ gy))
          some ([(x, dx), (y, (p ^^^ sumP) ^^^ dx)], true)
        | _, _ => none
      | _ => none
    match solved with
    | none => none
    | some (found, useQ) =>
      let i := memberIdx sseq ch
      if i < 14 then (found.find? fun m => m.1 == i).map fun m => (m.2, useQ)
      else
        let total := found.foldl (fun (a : Member) m => a ^^^ (if i = 14 then m.2 else m.2.shift m.1)) (if i = 14 then sumP else sumQ)
        some (total, useQ)

/-- Whether the tag of a recovered data member holds its CRC (R212, R248). -/
def Member.sound (m : Member) : Bool :=
  let b := leBytes 256 m.toNat
  leWord (sub b 252 4) == crc32c (b.take 252)

/-- A page set whose stripe's other members have been read (R61, R257, R272): from P, or from Q when a second member is lost; `more` are
the channels whose members could not be read either. -/
def State.reconstruct (s : State) (die unit : Nat) (more : List Nat) : Option PageSet × State :=
  match s.stripeOf die unit with
  | none => (none, s)
  | some h =>
    match s.recover h.sseq h.ch more with
    | none => (none, s)
    | some (m, useQ) =>
      (if h.role == 0 && !m.sound then none else some (m.pageSet (some h) (h.role != 0)), if useQ then (s.count 0x091 3 1).raise 0x091 6 else s)

/-- The page sets that a reconstruction reads, by the channel of the member, die and unit: the other members on dies, with Q only when a
second member is lost; what an accumulator holds, or a die is programming, is at hand (R248, R249). -/
def State.reconReads (s : State) (sseq : BitVec 64) (ch : Nat) (more : List Nat) : List (Nat × Nat × Nat) :=
  match s.stripeBook sseq with
  | none => []
  | some (members, way, _) =>
    let here := members.filterMap fun m =>
      let c := memberChan sseq m.1
      let k := s.redirect (memberDie sseq way m.1) m.2
      if c = ch ∨ more.contains c = true ∨ (s.flashAt k.1 k.2).isNone = true then none else some (m.1, k)
    let lost := members.length - here.length
    (here.filter fun x => x.1 != 15 || decide (1 < lost)).map fun x => (memberChan sseq x.1, x.2)

/-- The reads of a reconstruction enter the queues of their dies, for the request `id` (R61, R268). -/
def State.readMembers (s : State) (id : Nat) (cls : Class) (l : List (Nat × Nat × Nat)) : State :=
  l.foldl (fun (s : State) k =>
    s.addReq { readReq k.2.1 k.2.2 (s.unitMode k.2.1 k.2.2) cls (.recon id) [] with slot := some k.1 }) s

/-- A page set is to be reconstructed: its request waits for the members that are read for it. -/
def State.beginRecon (s : State) (r : Req) (bad : List Nat) : State :=
  let s := (s.count 0x020 11 1).modReq r.id fun x => { x with phase := .recon, more := [], bad := bad }
  match s.stripeOf r.die r.unit with
  | none => s
  | some h => s.readMembers r.id r.cls (s.reconReads h.sseq h.ch [])

/-- Whether reads for a reconstruction are still on their way. -/
def State.reconBusy (s : State) (id : Nat) : Bool := s.media.reqs.any fun r => r.owner == .recon id

/-! ## Accumulators (R249 to R251, R263) -/

/-- Folding a member in, or out again when its program fails. -/
def State.fold (s : State) (sseq : BitVec 64) (i : Nat) (m : Member) : State :=
  { s with red := { s.red with stripes := s.red.stripes.map fun x =>
      if x.sseq = sseq then { x with p := x.p ^^^ m, q := x.q ^^^ m.shift i } else x } }

/-- The number of the next stripe at a way: one more while P or Q falls on a failed die (R251). -/
def State.stripeNumber (s : State) (way : Nat) : BitVec 64 :=
  match (List.range 16).find? fun k =>
      s.usable (memberDie (s.red.sseq + BitVec.ofNat 64 k) way 14) && s.usable (memberDie (s.red.sseq + BitVec.ofNat 64 k) way 15) with
  | some k => s.red.sseq + BitVec.ofNat 64 k
  | none => s.red.sseq

/-- Binding an accumulator to a new stripe at a way. -/
def State.openStripe (s : State) (way : Nat) (evid : Bool) : State :=
  let n := s.stripeNumber way
  let acc := ((List.range 16).find? fun k => !s.red.stripes.any fun x => x.acc == k).getD 0
  let x : Stripe := { sseq := n, way := way, members := [], p := 0, q := 0, isOpen := true, evid := evid, acc := acc }
  let s := s.clearProt 0x091 12 (acc * 16448) 16448
  { s with red := { s.red with stripes := s.red.stripes ++ [x], sseq := n + 1 } }

/-- Committed class-1 work of a way over its dies. -/
def State.wayWork (s : State) (w : Nat) : Rat :=
  ((List.range 16).map fun ch => s.aDie (8 * ch + w) 1).foldl (· + ·) 0

/-- The open way with the least committed class-1 work. -/
def State.leastWay (s : State) : Option Nat :=
  ((List.range s.media.ways).filter fun w => s.openWay w).foldl (fun (a : Option Nat) w =>
    match a with
    | none => some w
    | some b => if s.wayWork w < s.wayWork b then some w else a) none

/-- Sixteen accumulators: one Evidential stripe on each quiet way, fourteen others (R263). A stripe that is closing holds its own until its
members have been programmed. -/
def State.fillStripes (s : State) : State :=
  let s := s.media.quiet.foldl (fun (s : State) w =>
    if (s.red.stripes.any fun x => x.isOpen && x.evid && x.way == w) || decide (16 ≤ s.red.stripes.length) then s
    else s.openStripe w true) s
  (List.range 14).foldl (fun (s : State) _ =>
    if (s.red.stripes.filter fun x => !x.evid).length < 14 ∧ s.red.stripes.length < 16 then
      match s.leastWay with
      | some w => s.openStripe w false
      | none => s
    else s) s

/-- PRESENT of a stripe (R246): the channels of its data members. -/
def Stripe.present (x : Stripe) : Nat := x.members.foldl (fun a m => a ||| 2 ^ memberChan x.sseq m.1) 0

/-- P and Q of the programmed members of a stripe, read back (R258, R359). -/
def State.parityOf (s : State) (sseq : BitVec 64) (way : Nat) (members : List (Nat × Nat)) : Member × Member :=
  members.foldl (fun (a : Member × Member) m =>
    match (s.flashAt (memberDie sseq way m.1) m.2).map PageSet.member with
    | some x => (a.1 ^^^ x, a.2 ^^^ x.shift m.1)
    | none => a) (0, 0)

/-- The P and Q that a stripe closes with: those of its accumulator, or of the members read back when a block of it is uncorrectable (R359). -/
def State.closing (s : State) (x : Stripe) : Stripe × State :=
  match s.scanProt 0x091 12 (x.acc * 16448) 16448 with
  | ([], s) => (x, s)
  | (_, s) =>
    let (p, q) := s.parityOf x.sseq x.way x.members
    ({ x with p := p, q := q }, s.clearProt 0x091 12 (x.acc * 16448) 16448)

/-- Closing a stripe (R250): its parity members are programmed; a stripe with no member is let go. -/
def State.closeStripe (s : State) (sseq : BitVec 64) : State :=
  match s.red.stripes.find? fun x => x.sseq == sseq with
  | none => s
  | some x =>
    let rest := s.red.stripes.filter fun y => y.sseq != sseq
    let s : State := { s with red := { s.red with stripes := rest } }
    if x.members.isEmpty then s
    else
      let (x, s) := s.closing x
      let part := decide (x.members.length < 14)
      let cls : Class := if x.evid then 0 else 1
      let hdr := fun (i : Nat) => ({ sseq := x.sseq, ch := memberChan x.sseq i, role := i - 13, way := x.way, spare := false,
                                     part := part, present := x.present, replaces := none } : StripeHdr)
      let put := fun (a : State × List (Nat × Nat)) (i : Nat) =>
        let die := memberDie x.sseq x.way i
        let m := if i = 14 then x.p else x.q
        let mode := match x.members with
          | m :: _ => a.1.unitMode (memberDie x.sseq x.way m.1) m.2
          | [] => .pslc
        let stream := if mode ≠ .pslc then stNative else if x.evid then stEvGen else stBuffer
        if !a.1.usable die then a
        else match a.1.alloc die stream mode with
          | (none, s) => (s, a.2)
          | (some u, s) => (s.addReq (progReq die u mode cls (.parity x.sseq (i == 15)) [] (m.pageSet (some (hdr i)) true) false),
              a.2 ++ [(memberChan x.sseq i, u)])
      let r := [14, 15].foldl put (s, x.members.map fun m => (memberChan x.sseq m.1, m.2))
      { r.1 with red := { r.1.red with closed := r.1.red.closed.set (fun _ => ([], 0)) x.sseq.toNat (r.2, x.way) } }

/-- A stripe closes once it takes no further member and each it has is programmed (R250). -/
def State.settleStripe (s : State) (sseq : BitVec 64) : State :=
  match s.red.stripes.find? fun x => x.sseq == sseq with
  | none => s
  | some x =>
    if (!x.isOpen || (s.nextMember x).isNone) && x.members.all fun m =>
        (s.stripeOf (memberDie x.sseq x.way m.1) m.2).isSome then (s.closeStripe sseq).fillStripes
    else s

/-- Every open stripe that a condition picks takes no further member and closes; others open in their place. -/
def State.closeWhere (s : State) (p : Stripe → Bool) : State :=
  ((s.red.stripes.filter fun x => x.isOpen && p x).foldl (fun (s : State) x =>
    ({ s with red := { s.red with stripes := s.red.stripes.map fun y =>
        if y.sseq = x.sseq then { y with isOpen := false } else y } } : State).settleStripe x.sseq) s).fillStripes

/-- A data member whose program did not reach its die leaves its stripe, and what had been folded in of it is taken out again. -/
def State.unmember (s : State) (r : Req) : State :=
  match r.data.bind fun p => p.hdr.map fun h => (p, h) with
  | none => s
  | some (p, h) =>
    if h.role != 0 || h.spare then s
    else
      let i := memberIdx h.sseq (r.die / 8)
      let s := if r.phase == .running then s.fold h.sseq i p.member else s
      let s : State := { s with red := { s.red with stripes := s.red.stripes.map fun x =>
        if x.sseq = h.sseq then { x with members := x.members.filter fun m => m.1 != i } else x } }
      s.settleStripe h.sseq

/-- The open stripe whose next data member lies on a die. -/
def State.stripeAt (s : State) (die : Nat) (evid : Bool) : Option (Stripe × Nat) :=
  s.red.stripes.findSome? fun x =>
    if x.isOpen && x.evid == evid then
      match s.nextMember x with
      | some i => if memberDie x.sseq x.way i = die then some (x, i) else none
      | none => none
    else none

/-- The die of the next data member of the stripe of classes 1 to 3 with the least committed class-1 work there (R263). -/
def State.leastDie (s : State) : Option Nat :=
  (s.red.stripes.filter fun x => x.isOpen && !x.evid && s.openWay x.way).foldl (fun (a : Option Nat) x =>
    match s.nextMember x with
    | none => a
    | some i =>
      let d := memberDie x.sseq x.way i
      match a with
      | none => some d
      | some b => if s.aDie d 1 < s.aDie b 1 then some d else a) none

/-- Giving a page set its place as the next data member of a stripe on a die: its unit, its header, and the state. -/
def State.takeMember (s : State) (die stream : Nat) (mode : Mode) (evid : Bool) : Option (Nat × StripeHdr) × State :=
  match s.stripeAt die evid with
  | none => (none, s)
  | some (x, i) =>
    match s.alloc die stream mode with
    | (none, s) => (none, s)
    | (some u, s) =>
      let h : StripeHdr := { sseq := x.sseq, ch := die / 8, role := 0, way := x.way, spare := false, part := false, present := 0,
                             replaces := none }
      (some (u, h), { s with red := { s.red with stripes := s.red.stripes.map fun y =>
        if y.sseq = x.sseq then { y with members := y.members ++ [(i, u)] } else y } })

end Sys2Proof.Machine
end

