-- ==== Sys2Proof/Machine/Ftl.lean ====
section
/-!
DEFINITION. Flash translation (09): map updates with their journal records (R199 to R205, R214, R221), the staging drain (R207,
R209), Evidential programs (R66, R206), relocation (R216), and the counter of the data cipher (R309).
-/

namespace Sys2Proof.Machine

/-! ## Locations in journal records, and the cipher's counter -/

/-- Journal locations (R198): coarse, and fine with FORM = 1. -/
def locCoarse (die unit : Nat) : Nat := die * 2 ^ 22 + unit
def locFine (slot : Nat) : Nat := 2 ^ 39 + slot

/-- The counter block of the first 16 bytes of fine slot `slot` of a die (R309). -/
def cipherIv (erases die slot : Nat) : List Byte :=
  beBytes 4 erases ++ beBytes 1 die ++ beBytes 4 slot ++ List.replicate 7 0

/-- One codeword's 4,096 data bytes through AES-256 CTR, the key of each cipher block by its number (R309). -/
def cryptWord (key : Nat → List Byte) (erases die unit k : Nat) (b : Block) : Block :=
  blockOf (ctrCrypt key (cipherIv erases die (16 * unit + k)) 8 (blockBytes b))

/-- The DATA key of a namespace and epoch, as a lane derives it (R311, R313). -/
def State.dataKey (s : State) (nsid : Nat) (e : BitVec 32) : BitVec 256 :=
  s.deriveFor false (BitVec.ofNat 512 (1 + 0xFF * 2 ^ 8 + nsid * 2 ^ 16 + 2 * 2 ^ 24 + e.toNat * 2 ^ 32)) 2

/-- Changing the relocations, and taking some away with what the ledger holds for them; `workId` numbers a housekeeping step: by its
erase block, a demotion by its unit. -/
def State.mapRelocs (s : State) (f : Reloc → Reloc) : State := { s with ftl := { s.ftl with relocs := s.ftl.relocs.map f } }
def workId (kind die block : Nat) : Nat := if kind = 2 ∨ kind = 5 then 2 ^ 40 * kind + block else 4096 * die + block
def Reloc.work (r : Reloc) : ChargeOwner := .work (workId (if r.why = .demote then 2 else 0) r.die r.block)
def State.dropRelocs (s : State) (p : Reloc → Bool) : State :=
  let gone := (s.ftl.relocs.filter p).map Reloc.work
  { s with ftl := { s.ftl with relocs := s.ftl.relocs.filter fun r => !p r },
           adm := { s.adm with charges := s.adm.charges.filter fun c => !gone.contains c.owner } }
def State.addReloc (s : State) (r : Reloc) : State := { s with ftl := { s.ftl with relocs := s.ftl.relocs ++ [r] } }

/-- Whether a relocation is that of an erase block, or the demotion of a unit. -/
def Reloc.ofBlock (r : Reloc) (die block : Nat) : Bool := r.why != .demote && r.die == die && r.block == block
def Reloc.ofUnit (r : Reloc) (u : Nat) : Bool := r.why == .demote && r.block == u

/-! ## Map updates -/

/-- A unit is written or deallocated now: a demotion of it is cancelled, and its 60 s begin again (R205). -/
def State.touch (s : State) (u : Nat) : State :=
  let s := s.dropRelocs fun r => r.ofUnit u
  { s with ftl := { s.ftl with lastWr := s.ftl.lastWr.set (fun _ => 0) u s.ns } }

/-- A fine unit gives its group back. -/
def State.unfine (s : State) (u : Nat) : State :=
  if bit (s.coarse u) 29 then s.returnGroup (bits (s.coarse u) 23 0) else s

/-- Making a unit fine with a group of a pool, every block keeping its place (R204, R206): its group; none when the pool is empty. -/
def State.promoteQuiet (s : State) (u pool : Nat) : Option (Nat × State) :=
  if bit (s.coarse u) 29 then some (bits (s.coarse u) 23 0, s)
  else match s.freeGroup pool with
    | none => none
    | some g =>
      let entry := fun (i : Nat) => match s.placeOf u i with
        | .at d n j => fineAt (slotOf d n j)
        | .lost => 2 ^ 34
        | .zero => 0
      let t := (List.range 16).foldl (fun (t : State) i => t.setFine g i (entry i)) (s.drawGroup g)
      some (g, t.setCoarse u (BitVec.ofNat 32 (2 ^ 30 + 2 ^ 29 + g)))

/-- The same with its PROMOTE record; false when the pool is empty. -/
def State.promote (s : State) (nsid u pool : Nat) : Bool × State :=
  if bit (s.coarse u) 29 then (true, s)
  else match s.promoteQuiet u pool with
    | none => (false, s)
    | some (g, t) => (true, t.commit [.promote nsid ((u - s.baseOf nsid) * 16) g pool])

/-- MAP of a whole unit: coarse, LOST cleared, its group returned. -/
def State.mapCoarse (s : State) (nsid u die unit : Nat) (e : BitVec 32) : State :=
  ((s.unfine u).setCoarse u (coarseAt die unit)).commit [.map nsid 15 e ((u - s.baseOf nsid) * 16) (locCoarse die unit)]

/-- MAP of one block of a fine unit. -/
def State.mapFine (s : State) (nsid lba slot : Nat) (e : BitVec 32) : State :=
  let u := s.unitOf nsid lba
  (s.setFine (bits (s.coarse u) 23 0) (lba % 16) (fineAt slot)).commit [.map nsid 0 e lba (locFine slot)]

/-- LOST for blocks of one unit (R199, R200, R214, R224). Of a coarse unit whose blocks are not all lost, those that are lost become fine
entries if the promotion pool has a group; otherwise the whole unit is LOST (log 92). -/
def State.loseIn (s : State) (nsid lba nlb cause : Nat) : State :=
  let u := s.unitOf nsid lba
  let s := if nlb = 16 ∧ bit (s.coarse u) 29 = false then s.setCoarse u 0x80000000
    else match s.promote nsid u 0 with
      | (true, s) => (List.range nlb).foldl (fun (s : State) i => s.setFine (bits (s.coarse u) 23 0) ((lba + i) % 16) (2 ^ 34)) s
      | (false, s) => s.setCoarse u 0x80000000
  (s.commit [.lost nsid (nlb - 1) lba cause]).count 0x091 5 1

/-- Runs of consecutive blocks: namespace, first block, number. -/
def runsOf (l : List (Nat × Nat)) : List (Nat × Nat × Nat) :=
  l.foldr (fun x a => match a with
    | (n, b, k) :: r => if n = x.1 ∧ b = x.2 + 1 then (n, x.2, k + 1) :: r else (x.1, x.2, 1) :: a
    | [] => [(x.1, x.2, 1)]) []

/-- LOST for a run of blocks, unit by unit; and for any blocks. -/
def State.loseRun (s : State) (nsid lba nlb cause : Nat) : State :=
  (List.range ((lba + nlb + 15) / 16 - lba / 16)).foldl (fun (s : State) k =>
    let a := max lba (16 * (lba / 16 + k))
    s.loseIn nsid a (min (lba + nlb) (16 * (lba / 16 + k) + 16) - a) cause) s
def State.loseBlocks (s : State) (l : List (Nat × Nat)) (cause : Nat) : State :=
  (runsOf (sortedBy (fun a b => decide (a.1 < b.1 ∨ a.1 = b.1 ∧ a.2 ≤ b.2)) l)).foldl (fun (s : State) x => s.loseRun x.1 x.2.1 x.2.2 cause) s

/-- DEALLOC records of a range, whose COUNT holds 65,536 blocks (R214). -/
def deallocRecs (n lba nlb : Nat) : List JRec :=
  (List.range ((nlb + 65535) / 65536)).map fun k => .dealloc n (min 65536 (nlb - 65536 * k) - 1) (lba + 65536 * k)

/-- One unit of a deallocation (R221), its blocks from `a` to `b`: staged versions of the blocks that it unmaps are superseded by versions of
their own (R209). The kinds of unit met: whole coarse, fine. -/
def State.deallocUnit (x : State × Bool × Bool) (nsid u a b : Nat) : State × Bool × Bool :=
  let s := x.1
  let fine := bit (s.coarse u) 29
  let drop := fun (s : State) => (List.range (b - a)).foldl (fun (s : State) i =>
    let s : State := { s with ftl := { s.ftl with version := s.ftl.version + 1 } }
    s.supersede nsid (a + i) s.ftl.version true) s
  if b - a = 16 then ((((drop s).unfine u).setCoarse u 0).touch u, x.2.1 || !fine, x.2.2 || fine)
  else if fine then
    (((List.range (b - a)).foldl (fun (s : State) i => s.setFine (bits (s.coarse u) 23 0) ((a + i) % 16) 0) (drop s)).touch u, x.2.1, true)
  else x

/-- Deallocating a range of a namespace, with one DEALLOC record for the range and each kind of unit (R221, R222). -/
def State.deallocate (s : State) (nsid lba nlb : Nat) : State :=
  let last := lba + nlb
  let units := (List.range ((last + 15) / 16 - lba / 16)).map (lba / 16 + ·)
  if nlb = 0 then s
  else
    let (s, whole, fine) := units.foldl (fun x k =>
      State.deallocUnit x nsid (x.1.baseOf nsid + k) (max lba (16 * k)) (min last (16 * k + 16))) (s, false, false)
    let a := (lba + 15) / 16 * 16
    let w := if whole then deallocRecs nsid a (last / 16 * 16 - a) else []
    let f := if fine then deallocRecs nsid lba nlb else []
    if (w ++ f).isEmpty then s else s.commit (w ++ f)

/-- Every unit of a namespace's range is unmapped, its last one too when the capacity ends within it, and its groups return (R197, R202,
R223). -/
def State.unmapNs (s : State) (base units : Nat) : State :=
  (s.ftl.map.coarse.filter fun x => decide (base ≤ x.1 ∧ x.1 < base + units)).foldl (fun (s : State) x =>
    ((s.unfine x.1).setCoarse x.1 0).touch x.1) s

/-! ## Namespaces' evidence state and commands that wait for durability -/

/-- The published point (R95): the lowest block whose append is not durable. -/
def State.republish (s : State) : State :=
  let e := s.host.evid
  { s with host := { s.host with evid := { e with
      published := e.open_.foldl (fun a x => min a x.lba) e.append } } }

/-- An append is durable: its blocks may be read. -/
def State.closeAppend (s : State) (p : AppendRec → Bool) : State :=
  ({ s with host := { s.host with evid := { s.host.evid with open_ := s.host.evid.open_.filter fun x => !p x } } }).republish

/-- Whether a staged block still stands for a command. -/
def State.stagedFor (s : State) (r : CmdRef) : Bool := s.ftl.staging.any fun x => x.ref == r && x.evid

/-- A Flush reports the C1h entries that record its writes (R88). -/
def State.markTold (s : State) (f : Fun) (got : List (Nat × Nat × Option Block)) : State :=
  let hit := fun (e : DwfEntry) => got.any fun b => b.1 == e.nsid && decide (e.slba ≤ b.2.1 ∧ b.2.1 < e.slba + e.nlb)
  s.modLogs f fun l => { l with dwf := l.dwf.map fun e => { e with told := e.told || hit e } }

/-- Commands that wait for durability and no longer need to: Evidential writes and copies (R211), and Flushes (R88). -/
def State.settle (s : State) : State :=
  s.host.cmds.foldl (fun (s : State) c =>
    match c.phase with
    | .working =>
      if c.kind = .flush ∧ c.need.all (fun v => !(s.ftl.staging.any fun x => x.version.toNat == v)) then
        match c.fault with
        | some q => (s.markTold c.ref.fn c.got).finish c.ref (stDeferred q)
        | none => s.finish c.ref stOk
      else if c.cls = 0 ∧ c.landed ∧ (c.kind = .write ∨ c.kind = .append ∨ c.kind = .copy) ∧ !s.stagedFor c.ref then
        let s : State := if c.kind = .append then s.closeAppend fun x => x.who == some c.ref else s
        let lba := match c.writes with
          | x :: _ => x.lba
          | [] => 0
        s.finish c.ref (if c.kind = .append then status 0 0 0 (BitVec.ofNat 32 lba) else stOk)
      else s
    | _ => s) s

/-! ## Programs of staged data (R66, R206, R207, R209) -/

/-- A unit tag before its epoch is known (R212). -/
def State.tagFor (s : State) (kind nsid die unit : Nat) (lba0 : Nat) (lbas : List (Option Nat)) : UnitTag :=
  { kind := kind, nsid := nsid,
    valid := (List.range 16).foldl (fun a i => if (lbas.getD i none).isSome then a + 2 ^ i else a) 0,
    epoch := 0, wseq := s.ftl.wseq, lba0 := if kind = 0 then lba0 else 0, erases := (s.blk die (unit / s.psBlk)).erases,
    split := 4096, lbas := if kind = 1 then (List.range 16).map fun i => (lbas.getD i none).getD 0 else List.replicate 16 0 }

/-- Staged blocks by version are on their way to a die. -/
def State.markIssued (s : State) (vs : List (Nat × Nat × BitVec 64)) (b : Bool) : State :=
  let hit := fun (x : Staged) => vs.any fun v => v.2.2 == x.version
  { s with ftl := { s.ftl with staging := s.ftl.staging.map fun x => if hit x then { x with issued := b } else x } }

/-- Whether a die keeps its reserves of erased pSLC capacity: a drain program waits while they are not whole, 2 MiB for the flush and 8 MiB for
Evidential writes to general namespaces, which themselves leave the flush its part (R218, R228). -/
def State.keepsReserve (s : State) (die stream : Nat) (owner : ReqOwner) : Bool :=
  if owner = .drain ∧ stream ≠ stFlush then decide (160 ≤ s.erasedSets die)
  else if stream = stEvGen then decide (32 < s.erasedSets die) else true

/-- Programming blocks on a die as the next member of its stripe: a coarse unit with sixteen words, of which those in `lost` are marked as
holding no data (R224), or fine blocks. False when the die has no place. -/
def State.programBlocks (s : State) (die : Nat) (cls : Class) (owner : ReqOwner) (evid : Bool) (stream : Nat) (mode : Mode)
    (nsid : Nat) (unit0 : Option Nat) (lost : List Nat) (words : List Block) (blocks : List (Nat × Nat × BitVec 64)) (old : Word) :
    Bool × State :=
  match if s.keepsReserve die stream owner then s.takeMember die stream mode evid else (none, s) with
  | (none, s) => (false, s)
  | (some (u, h), s) =>
    let tag := match unit0 with
      | some l => s.tagFor 0 nsid die u l ((List.range 16).map fun i => if lost.contains i then none else some (l + i))
      | none => s.tagFor 1 nsid die u 0 (blocks.map fun b => some b.2.1)
    let words := (List.range 16).map fun i => words.getD i 0
    let s : State := { s with ftl := { s.ftl with wseq := s.ftl.wseq + 1 } }
    (true, s.addReq { progReq die u mode cls owner blocks { tag := tag, hdr := some h, parity := [], words := words } true with
      old := old })

/-- The staged blocks that may be taken to a die: not issued, and no earlier version of them on its way, nor of a unit that is not fine any
other block (R209). -/
def State.ready (s : State) (evid : Bool) : List Staged :=
  s.ftl.staging.filter fun x => !x.issued && x.evid == evid &&
    !(s.ftl.staging.any fun y => y.issued && s.unitOf y.nsid y.lba == s.unitOf x.nsid x.lba &&
      (y.lba == x.lba || !bit (s.coarse (s.unitOf x.nsid x.lba)) 29))

/-- A staged block with its version. -/
def Staged.entry (x : Staged) : Nat × Nat × BitVec 64 := (x.nsid, x.lba, x.version)

/-- An Evidential write goes to a die (R66, R206): one page set, coarse when it covers a whole unit. -/
def State.programEvid (s : State) (die : Nat) (r : CmdRef) : State :=
  let bs := s.ftl.staging.filter fun x => x.ref == r && x.evid && !x.issued
  match bs with
  | [] => s
  | b :: _ =>
    let whole := decide (bs.length = 16) && decide (b.lba % 16 = 0)
    let stream := if b.nsid = 1 then stEvid else stEvGen
    match s.programBlocks die 0 (.evid (some r)) true stream .pslc b.nsid (if whole then some b.lba else none) []
        (bs.map fun x => x.data) (bs.map Staged.entry) 0 with
    | (false, s) => s
    | (true, s) =>
      let s := (s.markIssued (bs.map Staged.entry) true).modCmd r fun c => { c with dies := die :: c.dies }
      let l := s.host.evid.open_.map fun (x : AppendRec) => if x.who = some r then { x with die := some die } else x
      ({ s with host := { s.host with evid := { s.host.evid with open_ := l } } } : State).space [die]

/-- The place of a staged Evidential block in the order of admission (R66). -/
def State.evidSeq (s : State) (x : Staged) : Nat :=
  match s.cmd? x.ref, s.host.evid.open_.find? fun y => y.who == some x.ref with
  | some c, _ => c.seq
  | none, some y => y.seq
  | none, none => 0

/-- The Evidential write that is placed next: the first admitted of those whose data waits in staging. -/
def State.evidNext (s : State) : Option Staged :=
  (s.ftl.staging.filter fun x => x.evid && !x.issued).foldl (fun (a : Option Staged) x => match a with
    | none => some x
    | some y => if s.evidSeq x < s.evidSeq y then some x else some y) none

/-- The quiet die on which an Evidential write can be placed now (R50, R66). -/
def State.quietDie (s : State) : Option Nat :=
  (List.range 128).find? fun d => s.usable d && s.quiet d && s.spaced d && (s.stripeAt d true).isSome

/-- Evidential writes are placed in the order of their admission (R66). -/
def State.placeEvid (s : State) : State :=
  match s.evidNext with
  | none => s
  | some x =>
    match s.quietDie with
    | some d => s.programEvid d x.ref
    | none => s

/-- The mode and the stream of drain programs: native for writes admitted while BUFSTATE was FLOOR (R68, R228). -/
def State.drainMode (s : State) (floor : Bool) : Mode × Nat := if floor then (s.native, stNative) else (.pslc, stBuffer)

/-- Merges whose old unit is read or whose unit is not yet programmed: each takes 64 KiB of the 32 MiB of merge space (R210). -/
def State.mergesHeld (s : State) : Nat :=
  (s.media.reqs.filter fun r => r.owner == .merge || (r.owner == .drain && bit r.old 30 && r.blocks.length < 16)).length

/-- The blocks of a coarse page set that its tag marks as holding no data are LOST, by a record that follows the one that maps the unit; the
marks are what a read finds (R224). -/
def UnitTag.marked (t : UnitTag) : List (Nat × Nat) :=
  if t.kind = 0 then ((List.range 16).filter fun i => !t.valid.testBit i).map fun i => (t.nsid, t.lba0 + i) else []
def UnitTag.lostRecs (t : UnitTag) (cause : Nat) : List JRec :=
  (runsOf t.marked).map fun x => .lost x.1 (x.2.2 - 1) x.2.1 cause

/-- One block of a fine page set is mapped; its records are added to those before. -/
def State.placeFine (a : State × List JRec × List (Nat × Nat × BitVec 64)) (r : Req) (e : BitVec 32) (pool i : Nat) :
    State × List JRec × List (Nat × Nat × BitVec 64) :=
  let b := r.blocks.getD i (0, 0, 0)
  let s := a.1
  if !(s.ftl.staging.any fun x => x.nsid == b.1 && x.lba == b.2.1 && x.version == b.2.2) then a
  else
    let u := s.unitOf b.1 b.2.1
    match s.promoteQuiet u pool with
    | none => (s, a.2.1, a.2.2 ++ [b])
    | some (g, s) =>
      let was := bit (a.1.coarse u) 29
      let slot := slotOf r.die r.unit i
      let s := ((s.setFine g (b.2.1 % 16) (fineAt slot)).dropRelocs fun x => x.ofUnit u).supersede b.1 b.2.1 (b.2.2 + 1) true
      (s, a.2.1 ++ (if was then [] else [.promote b.1 (b.2.1 - b.2.1 % 16) g pool]) ++ [.map b.1 0 e b.2.1 (locFine slot)], a.2.2)

/-- A drain or Evidential program has been verified (R209, R211): what it makes of the map, for the versions that still stand, with its MAP
records added to those before. A coarse unit whose versions or base have changed is left as an orphan and drained anew. -/
def State.mapStaged (a : State × List JRec) (r : Req) : State × List JRec :=
  let s := a.1
  match r.data with
  | none => a
  | some p =>
    let stands := fun (b : Nat × Nat × BitVec 64) =>
      s.ftl.staging.any fun x => x.nsid == b.1 && x.lba == b.2.1 && x.version == b.2.2
    let t := p.tag
    if t.kind = 0 then
      let u := s.unitOf t.nsid t.lba0
      if r.blocks.all stands && (decide (r.blocks.length = 16) || s.coarse u == r.old) then
        let s := ((s.unfine u).setCoarse u (coarseAt r.die r.unit)).dropRelocs fun x => x.ofUnit u
        (r.blocks.foldl (fun (s : State) b => s.supersede b.1 b.2.1 (b.2.2 + 1) true) s,
          a.2 ++ .map t.nsid 15 t.epoch ((u - s.baseOf t.nsid) * 16) (locCoarse r.die r.unit) :: t.lostRecs 3)
      else (s.markIssued r.blocks false, a.2)
    else
      let pool := match r.owner with
        | .evid _ => 1
        | .zero => 1
        | _ => 0
      let (s, recs, back) := (List.range r.blocks.length).foldl (fun a i => State.placeFine a r t.epoch pool i) (s, a.2, [])
      (s.markIssued back false, recs)

/-- The records of verified programs are committed together. -/
def State.commitTogether (s : State) (l : List Req) : State :=
  let (s, recs) := l.foldl State.mapStaged (s, [])
  (if recs.isEmpty then s else s.commit recs).settle

/-- The staged blocks whose records go into one journal page with that of a staged block: those of its command, or for a command of more
than 2 MiB those of its 256 KiB (R87, R214). -/
def State.withIt (s : State) (x : Staged) : List Staged :=
  let all := s.ftl.staging.filter fun y => y.ref == x.ref && y.wseq == x.wseq && y.nsid == x.nsid && y.evid == x.evid
  if all.length ≤ 512 then all else all.filter fun y => y.lba / 64 == x.lba / 64

/-- The parked programs that are committed with some of them: `n` rounds over their commands; none when a block of one of these has not been
programmed yet. -/
def State.togetherWith (s : State) (l : List Req) : Nat → Option (List Req)
  | 0 => none
  | n + 1 =>
    let need := (s.ftl.staging.filter fun x => l.any fun r => r.blocks.contains x.entry).flatMap s.withIt
    let by' := fun (x : Staged) => s.media.parked.find? fun r => r.blocks.contains x.entry
    if need.all fun x => (by' x).isSome then
      let more := (need.filterMap by').eraseDups.filter fun r => !l.contains r
      if more.isEmpty then some l else s.togetherWith (l ++ more) n
    else none

/-- Parked programs whose commands are complete are committed. -/
def State.commitParked (s : State) : State :=
  s.media.parked.foldl (fun (s : State) r =>
    if !s.media.parked.contains r then s
    else match s.togetherWith [r] (s.media.parked.length + 1) with
      | none => s
      | some l => ({ s with media := { s.media with parked := s.media.parked.filter fun x => !l.contains x } } : State).commitTogether l) s

/-- A drain or Evidential program has been verified: an Evidential write is one page set, whose records are committed at once; others wait for
the rest of their commands. -/
def State.commitStaged (s : State) (r : Req) (p : PageSet) : State :=
  let r := { r with data := some p }
  if r.owner = .drain then ({ s with media := { s.media with parked := s.media.parked ++ [r] } } : State).commitParked
  else s.commitTogether [r]

/-- Parked programs are let go, to be drained anew. -/
def State.unpark (s : State) : State :=
  let s := s.media.parked.foldl (fun (s : State) r => s.markIssued r.blocks false) s
  { s with media := { s.media with parked := [] } }

/-- The oldest unit ready to be programmed, on the die that R263 picks, by the rows of R207. Part of a LOST unit becomes fine, or with the
promotion pool empty a coarse unit in which the other blocks are marked (R224). -/
def State.drainUnit (s : State) (d : Nat) : State :=
  match s.ready false, s.leastDie with
  | x :: rest, some least =>
    if s.aDie least 1 < s.aDie d 1 || !s.openWay (d % 8) then s
    else
      let u := s.unitOf x.nsid x.lba
      let mine := (x :: rest).filter fun y => s.unitOf y.nsid y.lba == u
      let cls : Class := match s.cmd? x.ref with
        | some c => c.cls
        | none => 2
      let (mode, stream) := s.drainMode x.floor
      let word := fun (i : Nat) => match mine.find? fun y => y.lba % 16 == i with
        | some y => some y.data
        | none => none
      let go := fun (unit0 : Option Nat) (lost : List Nat) (words : List Block) (bs : List Staged) (s : State) =>
        match s.programBlocks d cls .drain false stream mode x.nsid unit0 lost words (bs.map Staged.entry) (s.coarse u) with
        | (false, s) => s
        | (true, s) => s.markIssued (bs.map Staged.entry) true
      let start := x.lba - x.lba % 16
      let e := s.coarse u
      if (List.range 16).all fun i => (word i).isSome then go (some start) [] ((List.range 16).map fun i => (word i).getD 0) mine s
      else if bit e 29 ∨ bit e 31 then
        match s.promote x.nsid u 0 with
        | (false, s) => go (some start) ((List.range 16).filter fun i => (word i).isNone)
            ((List.range 16).map fun i => (word i).getD 0) mine s
        | (true, s) =>
          let fine := ((x :: rest).filter fun y => y.nsid == x.nsid && bit (s.coarse (s.unitOf y.nsid y.lba)) 29).take 16
          go none [] (fine.map fun y => y.data) fine s
      else if bit e 30 then
        if 512 ≤ s.mergesHeld then s else
        let req := readReq (bits e 28 22) (bits e 21 0) (s.unitMode (bits e 28 22) (bits e 21 0)) cls .merge (mine.map Staged.entry)
        (s.addReq { req with old := e }).markIssued (mine.map Staged.entry) true
      else go (some start) [] ((List.range 16).map fun i => (word i).getD 0) mine s
  | _, _ => s

/-- STAGING_DRAIN: on a quiet die the oldest waiting Evidential write that the die may take; otherwise the oldest unit ready. Nothing is
started during an Evidential pause (R194). -/
def execStagingDrain (die : Die) (s : State) : Answer :=
  let d := die.val
  let s := if s.fabric.pause.isSome then s else s.commitParked
  if !s.usable d || s.power.flush != 0 || !s.power.vccq || s.fabric.pause.isSome then .next s
  else if s.quiet d then
    match s.evidNext with
    | some x => if s.spaced d then .next (s.programEvid d x.ref) else .next s
    | none => .next s
  else .next (s.drainUnit d)

/-! ## Relocation: copy, commit, erase (R216, R217) -/

/-- The blocks that the map places in a page set: namespace, LBA, slot. -/
def State.blocksIn (s : State) (die unit : Nat) : List (Nat × Nat × BitVec 64) :=
  s.placed.filterMap fun x =>
    if x.1 = die ∧ x.2.1 = unit then
      match s.nsOfUnit x.2.2.1 with
      | some (n, l) => match s.placeOf x.2.2.1 x.2.2.2 with
        | .at _ _ i => some (n, l + x.2.2.2, BitVec.ofNat 64 (slotOf die unit i))
        | _ => none
      | none => none
    else none

/-- The page sets of a block that the map points into, rising. -/
def State.validIn (s : State) (die block : Nat) : List Nat :=
  (List.range s.psBlk).filterMap fun k =>
    if s.placed.any fun x => x.1 == die && x.2.1 == block * s.psBlk + k then some (block * s.psBlk + k) else none

/-- The journal page after which everything committed so far is durable. -/
def State.lastPage (s : State) : BitVec 64 := if s.ftl.jbuf.isEmpty then s.ftl.jseq - 1 else s.ftl.jseq

/-- Relocations are given up: what they have copied stays, and a refresh or a retirement is presented again at the next scheduling interval
(R69). -/
def State.giveUp (s : State) (p : Reloc → Bool) : State :=
  let retired := fun (r : Reloc) => decide ((s.blk r.die r.block).state = 5)
  let again := (s.ftl.relocs.filter fun r => p r && r.why != .demote && (r.why == .refresh || retired r)).map fun r =>
    ({ kind := if retired r then 4 else 3, die := r.die, block := r.block, cls := 3, after := 0 } : House)
  let s := s.dropRelocs p
  { s with adm := { s.adm with house := s.adm.house ++ again } }

/-- The relocation of a block that cannot go on is given up, with its operations that no die has begun. -/
def State.abortReloc (s : State) (die block : Nat) : State :=
  let s := s.giveUp fun r => r.ofBlock die block
  { s with media := { s.media with reqs := s.media.reqs.filter fun r => match r.owner with
    | .reloc w d b => w == .demote || w == .rebuild || d != die || b != block || r.phase == .running || r.phase == .handed
    | _ => true } }

/-- A relocation whose copies have all ended waits for its records, once no program of the block is on its way; one that has left data behind
is given up. -/
def State.stepReloc (s : State) (die block : Nat) : State :=
  let here := fun (r : Req) => r.op == 2 && r.die == die && r.unit / max 1 s.psBlk == block
  let pending := (s.media.reqs.any fun r => here r || match r.owner with
    | .reloc w d b => w != .demote && d == die && b == block
    | _ => false) || s.media.parked.any here
  if pending || !(s.ftl.relocs.any fun r => r.ofBlock die block && r.stage == 0) then s
  else if !(s.validIn die block).isEmpty then s.abortReloc die block
  else s.mapRelocs fun r =>
    if r.ofBlock die block && r.stage == 0 then { r with stage := 1, left := [], jseq := s.lastPage } else r

/-- How long ago in legal time a patrol pass began, in µs (R234); 0 while legal time is not known. -/
def State.passAge (s : State) (t : BitVec 64) : Nat := match s.legal with
  | some now => if t = 0 then 0 else (now - t).toNat
  | none => 0

/-- The end of a pass, once nothing of it is left: PATROL_LATE clears and the duration is kept (R236, R242). -/
def State.endPass (s : State) : State :=
  match s.care.patrol with
  | some (t, []) =>
    let hours := min 65535 (s.passAge t / 3600000000)
    { (s.setField MC_STAT 6 6 0).setReg MC_PATROL (BitVec.ofNat 32 (hours * 65536 + 10000)) with
      care := { s.care with patrolTot := 0 } }
  | _ => s

/-- Page sets leave the pass that is under way: those just read, and those of a block taken for relocation, which count as patrolled
(R238). -/
def State.patrolled (s : State) (gone : Nat → Bool) : State :=
  match s.care.patrol with
  | some (t, k :: l) =>
    let left := (k :: l).filter fun x => !gone x
    let done := s.care.patrolTot - left.length
    let s : State := { s with care := { s.care with patrol := some (t, left) } }
    (s.setField MC_PATROL 13 0 (done * 10000 / max 1 s.care.patrolTot)).endPass
  | _ => s

/-- The relocation of an erase block starts: an open block is closed, and every valid page set is read (R216). -/
def State.startReloc (s : State) (why : RelocWhy) (die block : Nat) (cls : Class) : State :=
  if s.ftl.relocs.any fun r => r.ofBlock die block then s
  else
    let s : State := if (s.blk die block).state = 1 then s.modBlk die block fun b => { b with state := 2 } else s
    let units := s.validIn die block
    let r : Reloc := { why := why, die := die, block := block, cls := cls, left := units, got := [], jseq := 0, stage := 0 }
    let s := (s.addReloc r).patrolled fun k => k / 2 ^ 22 == die && k % 2 ^ 22 / max 1 s.psBlk == block
    (units.foldl (fun (s : State) u =>
      s.addReq (readReq die u (s.unitMode die u) cls (.reloc why die block) (s.blocksIn die u))) s).stepReloc die block

/-- Where a relocated copy goes: a native page set of the die R263 picks, for evidence one of its own stream (R230). False when there is no
place. `lost` are the words of a coarse unit that could not be read. -/
def State.programCopies (s : State) (why : RelocWhy) (die block : Nat) (cls : Class) (lost : List Nat) (words : List Block)
    (blocks : List (Nat × Nat × BitVec 64)) : Bool × State :=
  match blocks, s.leastDie with
  | b :: _, some d =>
    let u := s.unitOf b.1 b.2.1
    let coarse := !bit (s.coarse u) 29 && decide (blocks.length = 16)
    s.programBlocks d cls (.reloc why die block) false (if b.1 = 1 then stEvNat else stNative) s.native b.1
      (if coarse ∨ why = .demote then some (b.2.1 - b.2.1 % 16) else none) lost words blocks 0
  | _, _ => (false, s)

/-- One block of a relocated copy: its RELOC record when the map still names the old slot. -/
def State.relocFine (a : State × List JRec) (r : Req) (t : UnitTag) (i : Nat) : State × List JRec :=
  let b := r.blocks.getD i (0, 0, 0)
  let s := a.1
  let u := s.unitOf b.1 b.2.1
  let g := bits (s.coarse u) 23 0
  let slot := slotOf r.die r.unit (if t.kind = 0 then b.2.1 % 16 else i)
  if bit (s.coarse u) 29 && s.fineEntry g (b.2.1 % 16) == fineAt b.2.2.toNat then
    if t.kind = 0 && !t.valid.testBit (b.2.1 % 16) then
      (s.setFine g (b.2.1 % 16) (2 ^ 34), a.2 ++ [.lost b.1 0 b.2.1 3])
    else
      (s.setFine g (b.2.1 % 16) (fineAt slot), a.2 ++ [.reloc b.1 0 t.epoch b.2.1 (locFine slot) (locFine b.2.2.toNat)])
  else a

/-- A relocated copy has been verified: RELOC records for the blocks whose map entry still names the old location, block by block when the
unit has become fine meanwhile. -/
def State.commitReloc (s : State) (r : Req) (p : PageSet) : State :=
  let t := p.tag
  let u := s.unitOf t.nsid t.lba0
  if t.kind = 0 ∧ bit (s.coarse u) 29 = false then
    let old := match r.blocks with
      | b :: _ => b.2.2.toNat
      | [] => 0
    if s.coarse u == coarseAt (old / 2 ^ 26) (old % 2 ^ 26 / 16) then
      (s.setCoarse u (coarseAt r.die r.unit)).commit
        (.reloc t.nsid 15 t.epoch t.lba0 (locCoarse r.die r.unit) (locCoarse (old / 2 ^ 26) (old % 2 ^ 26 / 16)) :: t.lostRecs 3)
    else s
  else
    let (s, recs) := (List.range r.blocks.length).foldl (fun a i => State.relocFine a r t i) (s, [])
    if recs.isEmpty then s else s.commit recs

/-- The record of a demotion: a RELOC whose OLD is the slot of the unit's first mapped block, or a MAP when no block was mapped (log 93). -/
def State.demoteRec (s : State) (u : Nat) (t : UnitTag) (die unit : Nat) : JRec :=
  match (List.range 16).findSome? fun i => match s.placeOf u i with
    | .at d n j => some (slotOf d n j)
    | _ => none with
  | some old => .reloc t.nsid 15 t.epoch t.lba0 (locCoarse die unit) (locFine old)
  | none => .map t.nsid 15 t.epoch t.lba0 (locCoarse die unit)

/-- A demotion's unit has been programmed (R205): unless a write or deallocation has cancelled it, the unit becomes coarse. -/
def State.commitDemote (s : State) (r : Req) (p : PageSet) : State :=
  let u := s.unitOf p.tag.nsid p.tag.lba0
  if s.ftl.relocs.any fun x => x.ofUnit u then
    let rec_ := s.demoteRec u p.tag r.die r.unit
    (((s.dropRelocs fun x => x.ofUnit u).unfine u).setCoarse u (coarseAt r.die r.unit)).commit [rec_]
  else s

/-- A read of a relocation, decrypted (R216, R224): `word` gives the page set's blocks, none where one cannot be recovered. The readable
blocks are programmed again; the others are LOST. -/
def State.relocRead (s : State) (r : Req) (why : RelocWhy) (die block : Nat) (word : Nat → Option Block) : State :=
  let s := s.dropReq r.id
  let idx := fun (b : Nat × Nat × BitVec 64) => b.2.2.toNat % 16
  if why = .demote then
    match s.ftl.relocs.find? fun x => x.ofUnit block with
    | none => s
    | some x =>
      let got := x.got ++ r.blocks.map fun b => (b.1, b.2.1, word (idx b))
      let s := s.mapRelocs fun y => if y.ofUnit block then { y with got := got } else y
      let pending := s.media.reqs.any fun q => match q.owner with
        | .reloc w _ b => w == .demote && b == block
        | _ => false
      match s.nsOfUnit block with
      | none => s
      | some (n, l) =>
        let bad := (got.filter fun g => g.2.2.isNone).map fun g => (g.1, g.2.1)
        if pending then s
        else if !bad.isEmpty then (s.dropRelocs fun y => y.ofUnit block).loseBlocks bad 3
        else
          let data := (List.range 16).map fun i => match got.find? fun g => g.2.1 == l + i with
            | some g => g.2.2.getD 0
            | none => 0
          match s.programCopies .demote 0 block x.cls [] data ((List.range 16).map fun i => (n, l + i, 0)) with
          | (true, s) => s
          | (false, s) => s.dropRelocs fun y => y.ofUnit block
  else
    let bad := r.blocks.filter fun b => (word (idx b)).isNone
    let good := r.blocks.filter fun b => (word (idx b)).isSome
    let coarse := match r.blocks with
      | b :: _ => !bit (s.coarse (s.unitOf b.1 b.2.1)) 29 && decide (r.blocks.length = 16)
      | [] => false
    let lose := fun (s : State) => (s.loseBlocks (bad.map fun b => (b.1, b.2.1)) 3)
    if good.isEmpty then (lose s).stepReloc die block
    else
      let (ok, t) := if coarse then
          s.programCopies why die block r.cls (bad.map idx) (r.blocks.map fun b => (word (idx b)).getD 0) r.blocks
        else (lose s).programCopies why die block r.cls [] (good.map fun b => (word (idx b)).getD 0) good
      if ok then t
      else if why = .rebuild then t.addReq { r with word := 0, lane := none }
      else t.abortReloc die block

/-- The demand of a step that reads page sets and copies them, in equal standing with a host Copy (R59, R69). -/
def State.houseDemand (s : State) (units : List (Nat × Nat)) : Demand :=
  { Demand.none with
    units := units.map fun u => (u.1, s.unitMode u.1 u.2, 65536), cipher := 2 * 65536 * units.length }

/-- The steps that wait, but for one; and one more. -/
def State.unhouse (s : State) (kind die block : Nat) : State :=
  { s with adm := { s.adm with house := s.adm.house.filter fun h => !(h.kind == kind && h.die == die && h.block == block) } }
def State.house (s : State) (h : House) : State := { s with adm := { s.adm with house := s.adm.house ++ [h] } }

/-- A housekeeping step that programs `bytes`. As class 3 work it is admitted against 2 s, into the capacity left, and waits when it is
refused (R69). As class 1 committed work it enters the ledger at once and begins when the latest deadline among the admissions made before
it has passed (R68). Its charge stands until it ends. -/
def State.houseAdmit (s : State) (kind die block : Nat) (cls : Class) (d : Demand) (bytes : Nat) (go : State → State) : State :=
  let o := ChargeOwner.work (workId kind die block)
  let put := fun (s : State) => ((s.uncharge o).chargeDemand o cls d).programCharge o cls bytes
  if s.fabric.pause.isSome then s
  else if cls = 1 then
    match s.adm.house.find? fun h => h.kind == kind && h.die == die && h.block == block && h.cls == 1 with
    | some h => if s.ns < h.after then s else go (s.unhouse kind die block)
    | none =>
      let t := put (s.unhouse kind die block)
      if s.ns < s.adm.latest then t.house ⟨kind, die, block, 1, s.adm.latest⟩ else go t
  else if (2000000000 : Rat) < s.worst 3 d (s.tailCopy 3 d.units) 0 then (s.unhouse kind die block).house ⟨kind, die, block, 3, 0⟩
  else go (put (s.unhouse kind die block))

/-- A step that relocates the valid page sets of an erase block. -/
def State.houseReloc (s : State) (kind die block : Nat) (cls : Class) (why : RelocWhy) : State :=
  let units := s.validIn die block
  s.houseAdmit kind die block cls (s.houseDemand (units.map fun u => (die, u))) (65536 * units.length) fun s => s.startReloc why die block cls

/-- Whether an erase block is at work: an operation in it, or a verified program whose records are not committed yet. -/
def State.inUse (s : State) (die block : Nat) : Bool :=
  (s.media.reqs ++ s.media.parked ++ s.media.queued).any fun r => r.die == die && r.unit / max 1 s.psBlk == block

/-- The victim of garbage collection (R216): the closed block with the fewest valid units, ties to the lowest die and block. -/
def State.victim (s : State) : Option (Nat × Nat) :=
  (s.ftl.map.blocks.filter fun x => x.2.state == 2 && x.2.stream != stJournal && x.2.stream != stSpare &&
    !s.inUse (x.1 / 4096) (x.1 % 4096) && !(s.ftl.relocs.any fun r => r.ofBlock (x.1 / 4096) (x.1 % 4096))).foldl
    (fun (a : Option (Nat × Nat)) x =>
      let k := (x.1 / 4096, x.1 % 4096)
      match a with
      | none => some k
      | some b => if (s.validIn k.1 k.2).length < (s.validIn b.1 b.2).length then some k else a) none

def State.collect (s : State) (die block : Nat) : State :=
  if s.victim = some (die, block) then s.houseReloc 0 die block 3 .gc else s

/-- GARBAGE_COLLECTION of the victim block (R216), admitted as class 3 (R69). -/
def execGarbageCollection (die : Die) (block : Nat) (s : State) : Answer := .next (s.collect die.val block)

/-- Half the evidence region in use (R229), and the Evidential reserve of a die below 4 MiB beside the flush reserve (R228). -/
def State.evidFull (s : State) : Bool := decide (s.raw / 400 < 2 * s.evidUsed)
def State.reserveLow (s : State) (die : Nat) : Bool := decide (s.erasedSets die < 96)

/-- Whether two blocks fold in one order: those of the general buffer, and those of the evidence region (R227, R229). -/
def Blk.foldsWith (a b : Blk) : Bool := (a.stream == stEvid) == (b.stream == stEvid)

/-- Folding of the oldest closed pSLC block, of the whole device or of a die whose Evidential reserve is low (R227 to R229). Evidence folds
while one of its sources has a native block (R230). -/
def State.foldBlock (s : State) (die block : Nat) : State :=
  let b := s.blk die block
  let low := s.reserveLow die && b.stream != stEvid
  let old := s.ftl.map.blocks.any fun x => x.2.foldsWith b && x.2.stream != stJournal && x.2.state == 2 && x.2.mode == .pslc &&
    (!low || x.1 / 4096 == die) &&
    decide (x.2.first.toNat < b.first.toNat) && !(s.ftl.relocs.any fun r => r.die == x.1 / 4096 && r.block == x.1 % 4096)
  if b.state ≠ 2 ∨ b.mode ≠ .pslc ∨ b.stream = stJournal ∨ old = true ∨ b.stream = stEvid ∧ s.evidSource.isNone = true then s
  else s.houseReloc 1 die block (if b.stream = stEvid ∧ s.evidFull ∨ low then 1 else 3) .fold

/-- FOLDING: the oldest closed pSLC block of its kind moves to native blocks (R227 to R229). -/
def execFolding (die : Die) (block : Nat) (s : State) : Answer := .next (s.foldBlock die.val block)

/-- Gathering a unit: the page sets that hold its blocks are read, or with none to read it is programmed at once. -/
def State.gather (s : State) (u n l : Nat) (cls : Class) (reads : List (Nat × Nat)) : State :=
  let r : Reloc := { why := .demote, die := 0, block := u, cls := cls, left := [], got := [], jseq := 0, stage := 0 }
  let s := s.addReloc r
  if reads.isEmpty then
    match s.programCopies .demote 0 u cls [] (List.replicate 16 0) ((List.range 16).map fun i => (n, l + i, 0)) with
    | (true, s) => s
    | (false, s) => s.dropRelocs fun y => y.ofUnit u
  else reads.foldl (fun (s : State) p =>
    s.addReq (readReq p.1 p.2 (s.unitMode p.1 p.2) cls (.reloc .demote 0 u)
      ((s.blocksIn p.1 p.2).filter fun b => s.unitOf b.1 b.2.1 == u))) s

/-- The page sets that hold the blocks of a unit; and the class of its demotion, 1 in the upper part of the evidence pool's range once the
pool is half used (R205). -/
def State.unitReads (s : State) (u : Nat) : List (Nat × Nat) :=
  (((List.range 16).map fun i => s.placeOf u i).filterMap fun p => match p with
    | .at d n _ => some (d, n)
    | _ => none).eraseDups
def State.demoteClass (s : State) (u : Nat) : Class :=
  let g := bits (s.coarse u) 23 0
  if 15679488 ≤ g ∧ g < 16728064 ∧ 524288 < s.poolUsed 1 then 1 else 3

/-- Whether a unit may be demoted: fine, without a LOST block, quiet for 60 s, with no write of it staged and none under way (R205). -/
def State.demotable (s : State) (u : Nat) : Bool :=
  bit (s.coarse u) 29 && !((List.range 16).map fun i => s.placeOf u i).contains .lost &&
    decide (s.ftl.lastWr.get (fun _ => 0) u + 60000000000 ≤ s.ns) && !(s.ftl.staging.any fun x => s.unitOf x.nsid x.lba == u) &&
    !(s.ftl.relocs.any fun r => r.ofUnit u)

/-- A fine unit that has been quiet for 60 s and has no LOST block is gathered into one coarse unit (R205). -/
def State.demoteUnit (s : State) (u : Nat) : State :=
  match s.nsOfUnit u with
  | none => s
  | some (n, l) =>
    if s.demotable u then
      s.houseAdmit 2 0 u (s.demoteClass u) (s.houseDemand (s.unitReads u)) 65536 fun v => v.gather u n l (s.demoteClass u) (s.unitReads u)
    else s

/-- DEMOTION of a fine unit that has been quiet for 60 s (R205). -/
def execDemotion (unit : Nat) (s : State) : Answer := .next (s.demoteUnit unit)

/-- BLOCK_ERASE (R217): a block that the map no longer names, in which nothing is at work, and whose RELOC and ERASE records are durable is
given its erase; a retired one is not (R233). -/
def execBlockErase (die : Die) (block : Nat) (s : State) : Answer :=
  let s := s.stepReloc die.val block
  let settled := fun (r : Reloc) => r.ofBlock die.val block && r.stage == 2 && decide (r.jseq.toNat < s.ftl.jseq.toNat) &&
    s.ftl.jpages.all fun p => p.durable || decide (r.jseq.toNat < p.jseq.toNat)
  if s.ftl.relocs.any settled && (s.validIn die.val block).isEmpty && !s.inUse die.val block && (s.blk die.val block).state != 5 then
    let s := s.mapRelocs fun r => if r.ofBlock die.val block then { r with stage := 3 } else r
    .next ((s.modBlk die.val block fun b => { b with state := 4 }).addReq (eraseReq die.val block s.psBlk .drain))
  else .next s

/-! ## The journal and checkpoints (R214, R215) -/

/-- Copies of journal pages that found no place are programmed when there is one (R214). -/
def State.placeCopies (s : State) : State :=
  s.ftl.jpages.foldl (fun (s : State) p =>
    let s : State := if p.copyA || p.atA.isSome then s else s.programCopy p false []
    if p.copyB || p.atB.isSome then s else s.programCopy p true []) s

/-- JOURNAL_PAGE_TIMER: 2 ms after its first record a page is sealed. -/
def execJournalPageTimer (s : State) : Answer :=
  if s.ftl.jbuf.isEmpty ∨ s.ns < s.ftl.jbufT + 2000000 then .next s.placeCopies else .next (s.placeCopies.seal false false false)

/-- The page sets that the journal, the in-flight stripe journal and the checkpoints need. -/
def State.keptSets (s : State) : List (Nat × Nat) :=
  ((s.red.sifjSets ++ s.red.sifjKept).map fun x => x.2) ++
  (s.ftl.jpages.flatMap fun p => p.atA.toList ++ p.atB.toList) ++
    ([s.ftl.ckptA, s.ftl.ckptB, s.ftl.ckptRun.map fun c => c.2].flatMap fun c => (c.map fun c => c.sets).getD [])

/-- Closed blocks of the region that hold nothing more of the journal or a checkpoint are erased in the order of R217. -/
def State.freeRegion (s : State) : State :=
  let kept := s.keptSets.map fun k => k.1 * 4096 + k.2 / max 1 s.psBlk
  let busy := s.media.reqs.map fun r => r.die * 4096 + r.unit / max 1 s.psBlk
  (s.ftl.map.blocks.filter fun x => x.2.state == 2 && x.2.stream == stJournal && !kept.contains x.1 && !busy.contains x.1).foldl
    (fun (s : State) x => s.startReloc .gc (x.1 / 4096) (x.1 % 4096) 3) s

/-- A checkpoint whose CKPT record lies in a durable page is complete (R215). -/
def State.completeCkpt (s : State) (p : JPage) : State :=
  match s.ftl.ckptRun with
  | none => s
  | some (slot, c) =>
    if p.recs.contains (.ckpt slot c.j0) then
      { s with ftl := { s.ftl with
          ckptRun := none, ckptA := if slot = 0 then some c else s.ftl.ckptA, ckptB := if slot = 0 then s.ftl.ckptB else some c } }
    else s

/-- Journal pages older than J0 of the older complete checkpoint may be reused. -/
def State.reusePages (s : State) : State :=
  match s.ftl.ckptA, s.ftl.ckptB with
  | some a, some b =>
    let keep := min a.j0.toNat b.j0.toNat
    { s with ftl := { s.ftl with jpages := s.ftl.jpages.filter fun p => decide (keep ≤ p.jseq.toNat) || !p.durable } }
  | _, _ => s

/-- The ERASE record of a relocation whose own records are durable (R216); a retired block gets none (R233). -/
def State.eraseRecord (s : State) (r : Reloc) : State :=
  if (s.blk r.die r.block).state = 5 then s.dropRelocs fun x => x.ofBlock r.die r.block
  else
    let n := min ((s.blk r.die r.block).erases + 1) 0xFFFFFFFF
    let s := (s.modBlk r.die r.block fun b => { b with erases := n, state := 3 }).commit [.erase r.die r.block n]
    s.mapRelocs fun x => if x.ofBlock r.die r.block then { x with stage := 2, jseq := s.lastPage } else x

/-- JOURNAL_PAGE_DURABLE: the oldest page not yet durable has both copies; relocations whose records it ends go on to their
ERASE record (R216, R217). -/
def execJournalPageDurable (s : State) : Answer :=
  match s.ftl.jpages.find? fun p => !p.durable with
  | none => .next s
  | some p =>
    if !(p.copyA && p.copyB) then .next s
    else
      let mark := fun (q : JPage) => if q.jseq = p.jseq then { q with durable := true } else q
      let s : State := { s with ftl := { s.ftl with jpages := s.ftl.jpages.map mark } }
      let s := (s.completeCkpt p).reusePages.freeRegion
      let done := s.ftl.relocs.filter fun r => r.why != .demote && r.stage == 1 && decide (r.jseq.toNat ≤ p.jseq.toNat)
      .next (done.foldl State.eraseRecord s)

/-- The pages of the journal since the newest J0. -/
def State.tail (s : State) : Nat := (s.ftl.jpages.filter fun p => decide (s.newestJ0.toNat ≤ p.jseq.toNat)).length

/-- The slot of the next checkpoint: slots are taken in turn (R215). -/
def State.ckptSlot (s : State) : Nat :=
  match s.ftl.ckptA, s.ftl.ckptB with
  | none, _ => 0
  | _, none => 1
  | some a, some b => if a.j0.toNat ≤ b.j0.toNat then 0 else 1

/-- The page sets of the map region and the block table that hold anything, by number (R201, R215): the coarse table from 0, the fine groups
from 22,352, the block table from 40,784 (log 94). -/
def MapImage.pages (m : MapImage) : List Nat :=
  (m.coarse.map fun x => x.1 / 16384).eraseDups ++
    (m.groups.flatMap fun g => [22352 + 72 * g / 65536, 22352 + (72 * g + 71) / 65536]).eraseDups ++
    (m.blocks.map fun x => 40784 + x.1 / 4096).eraseDups

/-- An entry of the block table in a checkpoint: 16 bytes (log 94). -/
def Blk.bytes (b : Blk) : List Byte :=
  leBytes 4 b.erases ++ leBytes 1 (modeCode b.mode) ++ leBytes 1 b.state ++ leBytes 1 b.stream ++ leBytes 1 b.roff ++
    leBytes 4 b.next ++ leBytes 1 b.refresh.toNat ++ leBytes 1 b.drawn.toNat ++ leBytes 2 0

/-- The 64 KiB of one of them. -/
def MapImage.page (m : MapImage) (k : Nat) : List Byte :=
  if k < 22352 then (List.range 16384).flatMap fun i => wordBytes (m.coarse.get (fun _ => 0) (16384 * k + i))
  else if k < 40784 then
    let at_ := 65536 * (k - 22352)
    let bs := (List.range 912).flatMap fun i => leBytes 72 (m.fine.get (fun _ => 0) (at_ / 72 + i)).toNat
    sub bs (at_ % 72) 65536
  else (List.range 4096).flatMap fun i => (m.blocks.get (fun _ => .fresh) (4096 * (k - 40784) + i)).bytes

/-- One page set of the checkpoint in progress is programmed, striped like user data; false when there is no place. -/
def State.ckptProgram (s : State) (slot : Nat) (c : Ckpt) (k : Nat) : Bool × State :=
  match s.leastDie with
  | none => (false, s)
  | some d =>
    match s.takeMember d stJournal .pslc false with
    | (none, _) => (false, s)
    | (some (u, h), s) =>
      let tag := { s.tagFor 4 0 d u 0 [] with valid := 0xFFFF, wseq := s.ftl.wseq }
      let s : State := { s with ftl := { s.ftl with wseq := s.ftl.wseq + 1 } }
      (true, s.addReq { progReq d u .pslc 3 (.ckpt slot) [] { tag := tag, hdr := some h, parity := [], words := pageWords (c.image.page k) }
        true with old := BitVec.ofNat 32 k })

/-- The checkpoint in progress goes on: when none of its programs is on its way the next segment of sixteen page sets is begun, and after the
last one its CKPT record is committed (R215). -/
def State.ckptPump (s : State) : State :=
  match s.ftl.ckptRun with
  | none => s
  | some (slot, c) =>
    let busy := s.media.reqs.any fun r => match r.owner with
      | .ckpt _ => true
      | _ => false
    if busy || (s.ftl.jbuf ++ s.ftl.jpages.flatMap fun p => p.recs).contains (.ckpt slot c.j0) then s
    else if c.todo.isEmpty then (s.uncharge (.work (workId 5 0 0))).commit [.ckpt slot c.j0]
    else
      (c.todo.take 16).foldl (fun (s : State) k => match s.ckptProgram slot c k with
        | (true, s) => { s with ftl := { s.ftl with ckptRun := s.ftl.ckptRun.map fun x => (x.1, { x.2 with todo := x.2.todo.erase k }) } }
        | (false, s) => s) s

/-- A page set of the checkpoint in progress has been programmed, or has to be programmed again. -/
def State.ckptDone (s : State) (slot die unit : Nat) : State :=
  ({ s with ftl := { s.ftl with ckptRun := s.ftl.ckptRun.map fun x =>
      if x.1 = slot then (x.1, { x.2 with sets := x.2.sets ++ [(die, unit)] }) else x } } : State).ckptPump
def State.ckptAgain (s : State) (slot k : Nat) : State :=
  { s with ftl := { s.ftl with ckptRun := s.ftl.ckptRun.map fun x =>
      if x.1 = slot then (x.1, { x.2 with todo := k :: x.2.todo }) else x } }

/-- A checkpoint of the present map and block table begins; J0 is a page that begins after it (log 35). -/
def State.beginCkpt (s : State) : State :=
  let s : State := if s.ftl.jbuf.isEmpty then s else s.seal false false false
  let slot := s.ckptSlot
  let c : Ckpt := { j0 := s.ftl.jseq, image := s.ftl.map, good := true, sets := [], todo := s.ftl.map.pages }
  ({ s with ftl := { s.ftl with ckptRun := some (slot, c), ckptT := s.pages.dtime } } : State).ckptPump

/-- A checkpoint admitted as class 3 work, or as class 1 committed work at the backstop (R215). -/
def State.ckptStep (s : State) (cls : Class) : State :=
  let bytes := 65536 * s.ftl.map.pages.length
  s.houseAdmit 5 0 0 cls { Demand.none with cipher := bytes } bytes State.beginCkpt

/-- CHECKPOINT_BEGIN: after 4,096 pages or 10 minutes, and at 12,288 pages as class 1 work; a checkpoint in progress goes on (R215). -/
def execCheckpointBegin (s : State) : Answer :=
  if s.ftl.ckptRun.isSome then .next s.ckptPump
  else if 12288 ≤ s.tail then .next (s.ckptStep 1)
  else if s.tail < 4096 ∧ (s.pages.dtime - s.ftl.ckptT).toNat < 600000000 then .next s
  else .next (s.ckptStep 3)

end Sys2Proof.Machine
end

