-- ==== Sys2Proof/Machine/Care.lean ====
section
/-!
DEFINITION. Media care (10): life, spare and retirement (R233, R239 to R241), the evidence spare pool (R229, R230), refresh
(R237) and patrol (R234 to R238).
-/

namespace Sys2Proof.Machine

/-! ## Life and spare (R19, R233, R239, R240) -/

/-- The general spare in bytes: the overprovisioning of R19 less MIN_OP (R233). -/
def State.generalSpare (s : State) : Nat :=
  let r := s.raw
  r - (r / 8 + r / 128 + r / 100 + r / 400 + r / 200 + r / 1000 + r * 24000000000000 / 2 ^ 45 + r / 10)

/-- The sum of the erase counts of the tenth of the in-service blocks with the highest counts, and their number. -/
def State.topErases (s : State) : Nat × Nat :=
  let n := max 1 ((s.dieCount * s.blocks - s.care.retired / max 1 s.rawBlk) / 10)
  let all := sortedBy (fun a b => decide (b ≤ a)) ((s.ftl.map.blocks.filter fun x => x.2.state != 5).map fun x => x.2.erases)
  ((all.take n).foldl (· + ·) 0, n)

/-- The wear and spare terms (R239). -/
def State.wearTerm (s : State) : Nat :=
  ceilDiv (100 * s.topErases.1) (s.topErases.2 * (s.reg MC_RATED).toNat)
def State.spareTerm (s : State) : Nat := ceilDiv (100 * s.care.retired) s.generalSpare

/-- Available Spare and Percentage Used. -/
def State.availSpare (s : State) : Nat := 100 - min 100 s.spareTerm
def State.pctUsed (s : State) : Nat := min 255 (max s.wearTerm s.spareTerm)

/-- A SMART warning is raised to every ready controller that asks for it: information 1 temperature, 2 spare, 0 reliability
(R240). -/
def State.smartEvent (s : State) (warn info : Nat) : State :=
  (List.finRange 16).foldl (fun s f =>
    if bit (s.ctrl f).feat.async warn then s.asyncEvent f 1 info 2 else s) s

/-- The life registers and the states of R241 follow the counts. -/
def State.updateLife (s : State) : State :=
  let gib := 2 ^ 30
  let low := decide (s.availSpare < 10)
  let gone := decide (s.generalSpare ≤ s.care.retired) && s.generalSpare != 0
  let s := s.setReg MC_LIFE (BitVec.ofNat 32 (s.availSpare * 2 ^ 24 + s.pctUsed * 2 ^ 16 +
    min 65535 (s.topErases.1 / s.topErases.2)))
  let s := s.setReg MC_SPARE (BitVec.ofNat 32 (s.generalSpare / gib * 65536 + ceilDiv s.care.retired gib))
  let s := s.showEvSpare
  let s : State := if low && !s.regBit MC_STAT 5 then ((s.setField MC_STAT 5 5 1).raise 0x090 24).smartEvent 0 2 else s
  if gone && !s.regBit MC_STAT 2 then ((s.setField MC_STAT 2 2 1).raise 0x090 25).smartEvent 3 0 else s

/-- The data of a retired block is relocated, unless a relocation of it is under way already: a retired block is not erased (R233). -/
def State.moveRetired (s : State) (die block : Nat) : State :=
  if (s.validIn die block).isEmpty || s.ftl.relocs.any fun r => r.ofBlock die block then s.unhouse 4 die block
  else s.houseReloc 4 die block 3 .retire

/-- A block is retired (R233): it takes no more programs, and its data is relocated. -/
def State.retireBlock (s : State) (die block : Nat) : State :=
  if (s.blk die block).state = 5 then s
  else
    let s := s.modBlk die block fun b => { b with state := 5 }
    let s : State := { s with care := { s.care with retired := s.care.retired + s.rawBlk } }
    (((s.count 0x090 2 1).raise 0x090 4).updateLife).moveRetired die block

/-! ## Refresh and patrol (R234 to R238) -/

/-- MC_REFRESH counts a refreshed block, held at 0x7FFF_FFFF (R237, R242). -/
def State.countRefresh (s : State) : State :=
  let n := (s.reg MC_REFRESH).toNat % 2 ^ 31
  if n + 1 < 0x7FFFFFFF then s.setReg MC_REFRESH (BitVec.ofNat 32 (n + 1))
  else
    let t := s.setReg MC_REFRESH 0xFFFFFFFF
    if s.regBit MC_REFRESH 31 then t else t.raise 0x090 2

/-- The relocation of a block that is to be refreshed (R237). A spare block's members leave it as data of the blocks it stands for (R253);
the journal's own blocks are not moved (log 96). -/
def State.refreshBlock (s : State) (die block : Nat) (cls : Class) : State :=
  let b := s.blk die block
  match s.red.repl.find? fun r => r.toDie == die && r.toBlock == block with
  | some r => (s.validIn r.fromDie r.fromBlock).foldl (fun (s : State) u =>
      s.addReq (readReq r.fromDie u (s.unitMode r.fromDie u) cls (.reloc .rebuild r.fromDie r.fromBlock) (s.blocksIn r.fromDie u)))
        (s.unhouse 3 die block)
  | none =>
    if (b.state ≠ 1 ∧ b.state ≠ 2) ∨ b.stream = stJournal ∨ (s.ftl.relocs.any fun r => r.ofBlock die block) = true then
      s.unhouse 3 die block
    else s.houseReloc 3 die block cls .refresh

/-- A block is queued for refresh once (R238): as class 3 work, or as class 1 committed work. -/
def State.refresh (s : State) (die block : Nat) (cls : Class) : State :=
  if (s.blk die block).refresh || s.ftl.relocs.any fun r => r.ofBlock die block then s
  else ((s.modBlk die block fun b => { b with refresh := true }).countRefresh).refreshBlock die block cls

/-- MC_CTRL.PERIOD in µs: a pass keeps the period that it began with (R242). -/
def State.period (s : State) : Nat := s.field? MC_CTRL 4 0 * 86400000000

/-- Whether a page set is one that patrol reads: programmed, and valid to the map, a stripe, the journal or a checkpoint (R234). -/
def State.patrols (s : State) (die unit : Nat) : Bool :=
  match s.flashAt die unit with
  | some p => s.keptSets.contains (die, unit) || match p.hdr with
    | some h => h.role != 0 || s.placed.any fun x => x.1 == die && x.2.1 == unit
    | none => false
  | none => false

/-- The page sets of a pass: every one patrol reads, blocks of the oldest program time first (R234). -/
def State.passList (s : State) : List Nat :=
  let blocks := sortedBy (fun a b => decide (a.2.first.toNat ≤ b.2.first.toNat))
    (s.ftl.map.blocks.filter fun x => x.2.state == 1 || x.2.state == 2)
  blocks.flatMap fun x => (List.range s.psBlk).filterMap fun k =>
    let u := x.1 % 4096 * s.psBlk + k
    if s.patrols (x.1 / 4096) u then some (x.1 / 4096 * 2 ^ 22 + u) else none

/-- HOUSEKEEPING_RETRY: the first step whose time has come is presented again: a refused one (R69), or class 1 committed work whose
deferral has ended (R68). -/
def execHousekeepingRetry (s : State) : Answer :=
  match s.adm.house.find? fun h => decide (h.after ≤ s.ns) with
  | none => .next s
  | some h =>
    let s : State := if h.cls = 1 then s else s.unhouse h.kind h.die h.block
    .next (match h.kind with
      | 0 => s.collect h.die h.block
      | 1 => s.foldBlock h.die h.block
      | 2 => s.demoteUnit h.block
      | 3 => s.refreshBlock h.die h.block h.cls
      | 4 => s.moveRetired h.die h.block
      | _ => s.ckptStep h.cls)

/-- PATROL_PASS_START: when the last pass has ended, or one period after it began, whichever is later. -/
def execPatrolPassStart (s : State) : Answer :=
  let ok := match s.care.patrol with
    | none => true
    | some (t, left) => left.isEmpty && decide (s.care.patrolPer ≤ s.passAge t)
  if !ok || !s.pageOn 0x090 then .next s
  else
    let l := s.passList
    let s : State := { s with care := { s.care with patrol := some (s.legal.getD 0, l), patrolTot := l.length, patrolPer := s.period } }
    .next ((s.setField MC_PATROL 13 0 0).endPass)

/-- PATROL_LATE: a pass that has not ended one period after it began (R236). -/
def execPatrolLate (s : State) : Answer :=
  match s.care.patrol with
  | some (t, _ :: _) =>
    if s.passAge t < s.care.patrolPer ∨ s.regBit MC_STAT 6 then .next s
    else .next ((s.setField MC_STAT 6 6 1).raise 0x090 27)
  | _ => .next s

/-- The counters of a page set's codewords by its decode result (R281). -/
def State.countDecode (s : State) (die : Nat) (r : ReadResult) : State :=
  let page := 0x080 + die / 8
  let sum := fun (l : List Nat) => l.foldl (· + ·) 0
  match r with
  | .good corr => (s.count64 page 2 16).count64 page 4 (sum corr)
  | .retried _ _ failed corr =>
    (((s.count64 page 2 16).count64 page 4 (sum corr)).count page 6 failed.length).count page 7 failed.length
  | .erased => s.count page 13 16
  | .unreadable [] => s
  | .unreadable bad =>
    (((s.count64 page 2 (16 - bad.length)).count page 6 bad.length).count page 8 bad.length).raise page 5

/-- What a read does to the care of its block (R237, R257, R271): the entry of a retry step that succeeded is kept; patrol refreshes a
block with a codeword of more than THRESH corrected bits, and one that needed a retry; an unreadable page set has its block refreshed. -/
def State.careOf (s : State) (die unit : Nat) (r : ReadResult) (patrol : Bool) : State :=
  let b := unit / max 1 s.psBlk
  match r with
  | .good corr => if patrol && corr.any fun k => decide (s.field? MC_CTRL 24 16 < k) then s.refresh die b 3 else s
  | .retried _ e _ _ =>
    let s := s.modBlk die b fun x => { x with roff := e % 16 }
    if patrol then s.refresh die b 1 else s
  | .erased => s
  | .unreadable _ => s.refresh die b 1

/-- PATROL_READ of the page set that the pass reaches next: a class 3 read at the media scheduler, one at a time (R235). Patrol runs in Gale
and Breeze (R234); a page set that is valid no more is passed over (R238). -/
def execPatrolRead (ch : Chan) (way : Fin 8) (block page : Nat) (s : State) : Answer :=
  let d := 8 * ch.val + way.val
  let unit := block * s.psBlk + page
  match s.care.patrol with
  | some (_, k :: _) =>
    if k ≠ d * 2 ^ 22 + unit ∨ 2 ≤ s.field? PWR_STAT 2 0 then .next s
    else if !s.patrols d unit then .next (s.patrolled (· == k))
    else if s.media.reqs.any fun r => r.owner == .patrol then .next s
    else .next (s.addReq (readReq d unit (s.unitMode d unit) 3 .patrol (s.blocksIn d unit)))
  | _ => .next s

/-- Patrol has read a page set, or its reconstruction has ended: blocks that cannot be recovered are LOST (R237). -/
def State.patrolEnd (s : State) (r : Req) (bad : List Nat) : State :=
  let lost := r.blocks.filter fun b => bad.contains (b.2.2.toNat % 16)
  ((s.dropReq r.id).loseBlocks (lost.map fun b => (b.1, b.2.1)) 3).patrolled (· == r.die * 2 ^ 22 + r.unit)

/-- MC_CTRL takes a value in its ranges (R243). -/
def mcCtrlCond (m : Master) (v : Word) (s : State) : Option State :=
  if bits v 4 0 < 2 ∨ 30 < bits v 4 0 ∨ bits v 24 16 < 32 ∨ 400 < bits v 24 16 then some (s.refuse 0x090 0x60 m 0x600 v) else none

/-- MC_REFRESH is cleared by a write of 0 alone (R12, R242). -/
def mcRefreshWrite (v : Word) (s : State) : State := if v = 0 then s.setReg MC_REFRESH 0 else s

end Sys2Proof.Machine
end

