-- ==== Sys2Proof/Machine/Red.lean ====
section
/-!
DEFINITION. Redundancy (11): the declaration of a failed member (R252), deferred write faults (R92), the rebuild (R253, R255,
R259), the in-flight stripe journal (R254) and the RED page.
-/

namespace Sys2Proof.Machine

/-! ## Deferred write faults (R92, R97 C1h) -/

/-- A fault enters log page C1h of the function that wrote the data, and its event is raised; pending Flushes that cover it
note it (R88). -/
def State.deferFault (s : State) (f : Fun) (nsid slba nlb cause : Nat) : State :=
  let l := s.logsOf f
  if 256 ≤ l.dwf.length then s.modLogs f fun l => { l with dwfLost := min (l.dwfLost + 1) 0xFFFFFFFF }
  else
    let e : DwfEntry := { seq := l.dwfNext, nsid := nsid, slba := slba, nlb := nlb, cause := cause, told := false,
                          time := s.pages.dtime }
    let s := s.modLogs f fun l => { l with dwf := l.dwf ++ [e], dwfNext := l.dwfNext + 1 }
    let hit := fun (c : Cmd) => c.kind == .flush && c.ref.fn == f &&
      c.got.any fun b => b.1 == nsid && decide (slba ≤ b.2.1 ∧ b.2.1 < slba + nlb)
    let cmds := s.host.cmds.map fun c => if hit c then { c with fault := some e.seq } else c
    ({ s with host := { s.host with cmds := cmds } }).asyncEvent f 7 0 0xC1

/-- The function that wrote a block (R92): the last writer of its unit; before any write, the namespace's owner. -/
def State.writerOf (s : State) (nsid lba : Nat) : Fun :=
  match s.ftl.writer.get (fun _ => 0) (s.unitOf nsid lba) with
  | k + 1 => Fin.ofNat 16 k
  | 0 => match s.ns? nsid with
    | some n => n.owner.getD 0
    | none => 0

/-! ## Registers that follow the rebuild -/

/-- RED_STAT and ADM_STAT.MEMBER, ADM_STAT.REBUILD follow the state (R255, R257). -/
def State.syncRed (s : State) : State :=
  let s := (s.setField RED_STAT 2 0 s.red.rbState).setField RED_STAT 15 8 s.red.failed.length
  let triple := !s.red.triple.isEmpty
  let double := (List.range 8).any fun w => decide ((s.red.failed.filter fun d => d % 8 == w).length = 2)
  let s := (s.setField RED_STAT 4 4 triple.toNat).setField RED_STAT 3 3 double.toNat
  let s := s.setField ADM_STAT 11 11 (decide (s.red.rbState = 2)).toNat
  let total := s.red.cursor + s.red.todo.length
  let pos := if total = 0 then 0 else s.red.cursor * 10000 / total
  let s := s.setReg RED_RB (BitVec.ofNat 32 (pos * 2 ^ 16 + s.red.die2.isSome.toNat * 2 ^ 15 + (s.red.die2.getD 0) * 2 ^ 8 +
    s.red.die1.isSome.toNat * 2 ^ 7 + s.red.die1.getD 0))
  s.cause 3 triple

/-! ## The in-flight stripe journal (R254) -/

/-- The two dies of its copies: on two channels, neither failed. -/
def State.sifjDies (s : State) : Option (Nat × Nat) :=
  match (List.range 16).filterMap s.journalDie with
  | a :: b :: _ => some (a, b)
  | _ => none

/-- The bytes of a copy (R254); its CRC is put in as it is stored. -/
def Sifj.bytes (c : Sifj) (copyB : Bool) : List Byte :=
  leBytes 4 0x534A4652 ++ leBytes 2 1 ++ leBytes 2 copyB.toNat ++ leBytes 8 c.seq.toNat ++
    leBytes 4 (c.rbState + c.die1 * 2 ^ 8 + c.die2 * 2 ^ 16) ++ leBytes 4 c.cursor ++ leBytes 4 c.repl.length ++ leBytes 4 c.closed.length ++
    List.replicate 32 0 ++
    (c.repl.flatMap fun r => leBytes 16 (r.fromDie + r.fromBlock * 2 ^ 8 + r.toDie * 2 ^ 32 + r.toBlock * 2 ^ 40)) ++
    c.closed.flatMap fun x => leBytes 8 x.1.toNat ++ leBytes 8 x.2

/-- The page sets that a copy takes. -/
def Sifj.pages (c : Sifj) (copyB : Bool) : List (List Byte) := chunks 65536 (c.bytes copyB)

/-- What the in-flight stripe journal holds now (R254). -/
def State.sifjNow (s : State) : Sifj :=
  { seq := s.red.sifjSeq, rbState := s.red.rbState, die1 := s.red.die1.getD 0, die2 := s.red.die2.getD 0,
    cursor := s.red.cursor, repl := s.red.repl,
    closed := if s.power.flush = 0 then [] else
      s.red.closed.map fun x => (BitVec.ofNat 64 x.1, x.2.1.foldl (fun p m =>
        if memberIdx (BitVec.ofNat 64 x.1) m.1 < 14 then p ||| 2 ^ m.1 else p) 0) }

/-- One page set of a copy is programmed in pSLC, beside the journal and encrypted as a journal page is (R254, R310; log 121). -/
def State.programSifj (s : State) (c : Sifj) (copyB : Bool) (die k : Nat) (page : List Byte) : State :=
  match s.alloc die stJournal .pslc with
  | (none, s) => s
  | (some u, s) =>
    let tag := { s.tagFor (if k != 0 then 5 else if copyB then 3 else 2) 0 die u 0 [] with valid := 0xFFFF }
    s.addReq (progReq die u .pslc 1 (.sifj c.seq copyB) [] { tag := tag, hdr := none, parity := [], words := pageWords page } true)

/-- Writing both copies. -/
def State.writeSifj (s : State) : State :=
  match s.sifjDies with
  | none => s
  | some (a, b) =>
    let c := s.sifjNow
    let s : State := { s with red := { s.red with sifjRun := some (c, a, b), sifjSets := [], sifjSeq := s.red.sifjSeq + 1, batch := 0 } }
    let put := fun (s : State) (x : Bool × Nat) => ((c.pages x.1).zipIdx).foldl (fun (s : State) p => s.programSifj c x.1 x.2 p.2 p.1) s
    [(false, a), (true, b)].foldl put s

/-- A page set of a copy has been programmed: a copy stands once all of its page sets are, and with both the registers follow. -/
def State.sifjDone (s : State) (r : Req) (seq : BitVec 64) (copyB : Bool) : State :=
  match s.red.sifjRun with
  | none => s
  | some (c, a, b) =>
    if c.seq ≠ seq then s
    else
      let sets := (copyB, r.die, r.unit) :: s.red.sifjSets
      let whole := fun (k : Bool) => decide ((sets.filter fun x => x.1 == k).length = (c.pages k).length)
      let s : State := { s with red := { s.red with sifjSets := sets } }
      let s : State := if !whole copyB then s
        else
          let s : State := { s with red := { s.red with
            sifjKept := (s.red.sifjKept.filter fun x => x.1 != copyB) ++ sets.filter fun x => x.1 == copyB } }
          if copyB then { s with red := { s.red with sifjB := some c, sifjDieB := b } }
          else { s with red := { s.red with sifjA := some c, sifjDieA := a } }
      if whole false && whole true then
        let s : State := { s with red := { s.red with sifjRun := none, sifjSets := [] } }
        (s.setReg RED_SIFJ (BitVec.ofNat 32 (c.seq.toNat % 65536 * 65536 + b * 256 + a))).count 0x091 6 1
      else s

/-- A page set of a copy could not be programmed: both copies are written anew. -/
def State.sifjAgain (s : State) (seq : BitVec 64) : State := if s.red.sifjRun.any fun x => x.1.seq == seq then s.writeSifj else s

/-- SIFJ_WRITE: while a rebuild runs (R254). -/
def execSifjWrite (s : State) : Answer := if s.red.rbState = 1 ∨ s.red.rbState = 2 then .next s.writeSifj else .next s

/-! ## The rebuild (R253) -/

/-- The spare blocks of a die: 1/128 of its blocks (R19), and how many are left. -/
def State.spareLeft (s : State) (die : Nat) : Nat := s.blocks / 128 - s.red.spare.get (fun _ => 0) die

/-- The die that takes a spare block of a way's member: the one of another way with the most spare left, ties to the lowest. -/
def State.spareDie (s : State) (way : Nat) : Option Nat :=
  (List.range 128).foldl (fun (a : Option Nat) d =>
    if !s.usable d || d % 8 == way || s.spareLeft d == 0 || (s.freeBlock d).isNone then a
    else match a with
      | none => some d
      | some b => if s.spareLeft b < s.spareLeft d then some d else a) none

/-- Whether a member still counts: the map points into it, or it is the parity of a stripe that holds such a member (R253). -/
def State.live (s : State) (die unit : Nat) : Bool :=
  let hit := fun (d u : Nat) => s.placed.any fun x => x.1 == d && x.2.1 == u
  hit die unit || (match s.stripeOf die unit with
    | some h => h.role != 0 && (match s.stripeBook h.sseq with
      | some (m, way, _) => m.any fun x => x.1 < 14 && hit (memberDie h.sseq way x.1) x.2
      | none => false)
    | none => false)

/-- Whether a page set's stripe holds evidence, checkpoints or folded evidence (R253). -/
def State.holdsEvid (s : State) (die unit : Nat) : Bool :=
  match s.stripeOf die unit with
  | some h => match s.stripeBook h.sseq with
    | some (m, way, _) => m.any fun x => match s.media.flash.find? fun p => p.1 == memberDie h.sseq way x.1 * 2 ^ 22 + x.2 with
      | some p => p.2.tag.nsid == 1 || p.2.tag.kind == 4
      | none => false
    | none => false
  | none => false

/-- The live members of the failed dies that have no spare copy, in the order of R253. -/
def State.rebuildList (s : State) : List Nat :=
  let all := (s.media.flash.map fun p => p.1).filter fun k =>
    s.red.failed.contains (k / 2 ^ 22) && s.live (k / 2 ^ 22) (k % 2 ^ 22) && (s.stripeOf (k / 2 ^ 22) (k % 2 ^ 22)).isSome &&
      s.redirect (k / 2 ^ 22) (k % 2 ^ 22) == (k / 2 ^ 22, k % 2 ^ 22)
  let two := fun (k : Nat) => decide (1 < (s.red.failed.filter fun d => d % 8 == k / 2 ^ 22 % 8).length)
  let a := all.filter two
  let b := all.filter fun k => !two k && s.holdsEvid (k / 2 ^ 22) (k % 2 ^ 22)
  let c := all.filter fun k => !two k && !s.holdsEvid (k / 2 ^ 22) (k % 2 ^ 22)
  a ++ b ++ sortedBy (fun x y => decide (x % 2 ^ 22 / max 1 s.psBlk ≤ y % 2 ^ 22 / max 1 s.psBlk)) c

/-- A page set on a die that can be read no more: a request that waits for its reconstruction. -/
def State.rebuildRead (s : State) (die unit : Nat) (o : ReqOwner) (blocks : List (Nat × Nat × BitVec 64)) : State :=
  let r := { readReq die unit (s.unitMode die unit) 3 o blocks with id := s.media.nextId }
  (s.addReq r).beginRecon r []

/-- An append whose blocks fail reconstruction before it has completed ends with Write Fault: its blocks are LOST, and the published point moves
past them (R96). -/
def State.failAppends (s : State) (bs : List (Nat × Nat)) : State :=
  (s.host.evid.open_.filter fun x => bs.any fun b => b.1 == 1 && decide (x.lba ≤ b.2 ∧ b.2 < x.lba + x.nlb)).foldl (fun (s : State) x =>
    match x.who with
    | none => s
    | some r =>
      let s := ((s.unstage fun y => y.ref == r).loseRun 1 x.lba x.nlb 3).closeAppend fun y => y.lba == x.lba
      if (s.cmd? r).isSome then s.finish r stWriteFault else s) s

/-- A third loss: the lost member's blocks are LOST; of an open stripe they are deferred faults of their writers (R92, R257). -/
def State.tripleLoss (s : State) (sseq : BitVec 64) (die unit : Nat) (isOpen evid : Bool) : State :=
  let s : State := { s with red := { s.red with triple := if s.red.triple.contains sseq.toNat then s.red.triple else
    sseq.toNat :: s.red.triple } }
  let cause := if isOpen && !evid then 1 else 3
  let bs := (s.blocksIn die unit).map fun b => (b.1, b.2.1)
  let s := (s.loseBlocks bs cause).failAppends bs
  let s := if cause = 1 then
      (runsOf (sortedBy (fun a b => decide (a.1 < b.1 ∨ a.1 = b.1 ∧ a.2 ≤ b.2)) bs)).foldl (fun (s : State) x =>
        s.deferFault (s.writerOf x.1 x.2.1) x.1 x.2.1 x.2.2 1) s
    else s
  s.raise 0x091 7

/-- The live data of a stripe on dies that can be read moves into new stripes (R253, R257). -/
def State.moveStripe (s : State) (sseq : BitVec 64) : State :=
  match s.stripeBook sseq with
  | none => s
  | some (ms, way, _) => (ms.filter fun x => decide (x.1 < 14)).foldl (fun (s : State) x =>
      let d := memberDie sseq way x.1
      let bs := s.blocksIn d x.2
      if !s.usable d || bs.isEmpty then s
      else s.addReq (readReq d x.2 (s.unitMode d x.2) 3 (.reloc .rebuild d (x.2 / max 1 s.psBlk)) bs)) s

/-- A restored member is programmed into its block's spare block; with no spare space left a data member moves to a new stripe, and a
parity member is restored by moving its stripe's live data (R253). -/
def State.placeMember (s : State) (k : Nat) (p : PageSet) (h : StripeHdr) : State :=
  let die := k / 2 ^ 22
  let unit := k % 2 ^ 22
  let per := max 1 s.psBlk
  let p := { p with hdr := some { h with spare := true, replaces := some (die, unit / per, unit % per) } }
  let place := fun (s : State) (d b : Nat) => s.addReq (progReq d (b * s.psBlk + unit % per) (s.unitMode die unit) 3 (.rebuild k) [] p false)
  match s.red.repl.find? fun r => r.fromDie == die && r.fromBlock == unit / per, s.spareDie (die % 8) with
  | some r, _ => place s r.toDie r.toBlock
  | none, some d =>
    match s.freeBlock d with
    | some b =>
      let mode := s.unitMode die unit
      let s := (s.modBlk d b fun x => { x with state := 2, mode := mode, stream := stSpare, first := s.pages.dtime }).note
        (.opened d b (modeCode mode))
      let r : Repl := { fromDie := die, fromBlock := unit / per, toDie := d, toBlock := b }
      let s : State := { s with red := { s.red with
        repl := s.red.repl ++ [r], batch := s.red.batch + 1,
        spare := s.red.spare.set (fun _ => 0) d (s.red.spare.get (fun _ => 0) d + 1) } }
      place (if max 1 (s.field? RED_CTRL 15 8) ≤ s.red.batch then s.writeSifj else s) d b
    | none => s
  | none, none =>
    if h.role = 0 then s.rebuildRead die unit (.reloc .rebuild die (unit / per)) (s.blocksIn die unit) else s.moveStripe h.sseq

/-- The reads for a member of the rebuild have ended (R253, R257): it is programmed, unless it is live no more (R259), or it is lost and the
rest of its stripe is moved. -/
def State.rebuildEnd (s : State) (r : Req) (k : Nat) : State :=
  let s := s.dropReq r.id
  if !s.live r.die r.unit then s
  else match s.stripeOf r.die r.unit with
    | none => s
    | some h => match s.reconstruct r.die r.unit r.more with
      | (some p, s) => s.placeMember k p h
      | (none, s) => (s.tripleLoss h.sseq r.die r.unit false false).moveStripe h.sseq

/-- The next member of the rebuild, when it is still live: its stripe is read (R253). A copy that has been programmed is read back. -/
def State.rebuildNext (s : State) : State :=
  match s.red.todo with
  | [] => s
  | k :: rest =>
    let die := k / 2 ^ 22
    let unit := k % 2 ^ 22
    let s : State := { s with red := { s.red with todo := rest, cursor := s.red.cursor + 1 } }
    if !s.live die unit then s
    else
      let copy := s.redirect die unit
      if copy ≠ (die, unit) then s.addReq (readReq copy.1 copy.2 (s.unitMode copy.1 copy.2) 3 (.rebuild k) [])
      else match s.stripeOf die unit with
        | none => s
        | some h =>
          let l := s.reconReads h.sseq h.ch []
          let s : State := { s with red := { s.red with rbReads := (s.red.rbReads.filter fun x =>
            decide (s.ns < x.1 + 1000000000)) ++ [(s.ns, l.length * 65536)] } }
          let id := s.media.nextId
          (s.addReq { readReq die unit (s.unitMode die unit) 3 (.rebuild k) [] with phase := .recon }).readMembers id 3 l

/-- The rebuild goes on until one of its members is on its way. -/
def State.pumpRebuild (s : State) : State :=
  if s.red.rbState ≠ 1 ∧ s.red.rbState ≠ 2 then s
  else s.red.todo.foldl (fun (s : State) _ =>
    if s.media.reqs.any fun r => match r.owner with
        | .rebuild _ => true
        | _ => false then s
    else s.rebuildNext) s

/-- A spare block that failed a program or the reading back: what it stands for is restored anew (R253, R273). -/
def State.dropSpare (s : State) (k : Nat) : State :=
  let s : State := { s with red := { s.red with
    repl := s.red.repl.filter fun r => !(r.fromDie == k / 2 ^ 22 && r.fromBlock == k % 2 ^ 22 / max 1 s.psBlk) } }
  { s with red := { s.red with todo := s.rebuildList } }

/-! ## The declaration of a failed member (R252) -/

/-- What a program that did not reach its die becomes: staged data is drained anew, an Evidential write is placed again, a
relocated copy is read again from its source, a journal copy goes to another die, a page set of a checkpoint and a member of the rebuild
are programmed again, and so is a dropped append's filling (R214, R273, R482). -/
def State.replan (s : State) (r : Req) : State :=
  let s := (s.unmember r).dropReq r.id
  match r.owner with
  | .drain => s.markIssued r.blocks false
  | .evid _ => (s.markIssued r.blocks false).placeEvid
  | .reloc why die block =>
    let srcs := (r.blocks.map fun b => (b.2.2.toNat / 2 ^ 26 % 128, b.2.2.toNat % 2 ^ 26 / 16)).eraseDups
    if why = .demote then s.dropRelocs fun x => x.ofUnit block
    else (srcs.foldl (fun (s : State) p =>
      s.addReq (readReq p.1 p.2 (s.unitMode p.1 p.2) r.cls (.reloc why die block) (s.blocksIn p.1 p.2))) s).stepReloc die block
  | .journal q copyB =>
    let clear := fun (p : JPage) => if p.jseq = q then (if copyB then { p with atB := none } else { p with atA := none }) else p
    let s : State := { s with ftl := { s.ftl with jpages := s.ftl.jpages.map clear } }
    match s.ftl.jpages.find? fun p => p.jseq == q with
    | some p => s.programCopy p copyB [r.die]
    | none => s
  | .ckpt slot => (s.ckptAgain slot r.old.toNat).ckptPump
  | .sifj seq _ => s.sifjAgain seq
  | .rebuild k => s.dropSpare k
  | .parity _ _ =>
    match r.data, s.usable r.die with
    | some p, true => match s.alloc r.die (if r.mode = .pslc then stBuffer else stNative) r.mode with
      | (some u, s) => s.addReq { r with unit := u, phase := .queued, data := some p, slot := none }
      | (none, s) => s
    | _, _ => s
  | .zero =>
    let mine := fun (x : AppendRec) => r.blocks.any fun b => b.2.1 == x.lba
    let l := s.host.evid.open_.map fun x => if mine x then { x with zero := false, die := none } else x
    ({ s with host := { s.host with evid := { s.host.evid with open_ := l } } } : State).unstage fun x => r.blocks.any fun b => b.2.2 == x.version
  | _ => s

/-- The erase blocks of a failed die that hold nothing live are retired; they do not count against the general spare (R233, R253). -/
def State.retireDie (s : State) (die : Nat) : State :=
  let keep := ((s.media.flash.filter fun p => decide (p.1 / 2 ^ 22 = die) && s.live die (p.1 % 2 ^ 22)).map fun p =>
    die * 4096 + p.1 % 2 ^ 22 / max 1 s.psBlk).eraseDups
  let retire := fun (x : Nat × Blk) => if x.1 / 4096 = die && !keep.contains x.1 then (x.1, { x.2 with state := 5 }) else x
  { s with ftl := { s.ftl with map := { s.ftl.map with blocks := s.ftl.map.blocks.map retire } } }

/-- Stripes of a third loss that have been emptied of live data are no longer counted (R257). -/
def State.emptyTriples (s : State) : State :=
  let left := s.red.triple.filter fun n => match s.stripeBook (BitVec.ofNat 64 n) with
    | some (m, way, _) => m.any fun x => s.live (memberDie (BitVec.ofNat 64 n) way x.1) x.2
    | none => false
  if left = s.red.triple then s else ({ s with red := { s.red with triple := left } } : State).syncRed

/-- Declaring a die failed (R252). -/
def State.failDie (s : State) (die : Nat) : State :=
  if s.red.failed.contains die then s
  else
    let way := die % 8
    let stripes := s.red.stripes.filter fun x => x.isOpen && x.way == way
    let recovered := stripes.flatMap fun x => x.members.filterMap fun m =>
      if memberDie x.sseq way m.1 = die ∧ (s.flashAt die m.2).isSome then some (x, m) else none
    let s : State := { s with red := { s.red with failed := s.red.failed ++ [die] } }
    let s : State := { s with start := { s.start with nor := { s.start.nor with failed := s.start.nor.failed ++ [die] } } }
    let s := (s.setReg (RED_FAILMAP (die / 32)) (setBit (s.reg (RED_FAILMAP (die / 32))) (die % 32) true)).raise 0x091 3
    let s := s.setField (MCH_DIE (die / 8) way) 9 9 1
    let s := s.retireDie die
    let s := s.modDie die fun d => { d with state := 0, susp := false, req := none, lunReset := none }
    let stuck := s.media.reqs.filter fun r => r.die == die && r.op != 1
    let s := stuck.foldl (fun (s : State) r => if r.op = 2 then s.replan r else s.dropReq r.id) s
    let requeue := fun (r : Req) =>
      if r.die = die ∧ r.op = 1 ∧ r.phase ≠ .sensed ∧ r.phase ≠ .recon then { r with phase := .queued } else r
    let s : State := { s with media := { s.media with reqs := s.media.reqs.map requeue } }
    let s := recovered.foldl (fun (s : State) x =>
      if (s.recover x.1.sseq (die / 8) []).isSome then
        s.rebuildRead die x.2.2 (.reloc .rebuild die (x.2.2 / max 1 s.psBlk)) (s.blocksIn die x.2.2)
      else s.tripleLoss x.1.sseq die x.2.2 true x.1.evid) s
    let s := s.closeWhere fun x => x.way == way
    let keep := decide (s.red.rbState = 2)
    let first := s.red.die1.isNone
    let s : State := { s with red := { s.red with
      rbState := if keep then 2 else 1, rbAfter := if keep then s.red.rbAfter else s.adm.latest,
      die1 := if first then some die else s.red.die1, die2 := if first then s.red.die2 else some die } }
    let s : State := { s with red := { s.red with todo := s.rebuildList } }
    (if (s.red.failed.filter fun d => d % 8 == way).length = 2 then s.raise 0x091 6 else s).syncRed.pumpRebuild

/-- Whether a failure declared by RED_FAIL would leave two attached dies free of failure on two channels. -/
def State.twoLeft (s : State) (die : Nat) : Bool :=
  decide (1 < (((List.range 128).filter fun d => s.usable d && d != die).map fun d => d / 8).eraseDups.length)

/-- MEMBER_FAILED: vendor firmware declares a die failed; never refused (R252). -/
def execMemberFailed (die : Die) (s : State) : Answer := if s.pageOn 0x091 then .next (s.failDie die.val).settle else .next s

/-- RED_FAIL: DECLARE names a die; refused for a die failed or not attached, and when too few dies would be left. -/
def redFailCond (m : Master) (v : Word) (s : State) : Option State :=
  if !bit v 31 then none
  else if !s.usable (bits v 6 0) then some (s.refuse 0x091 0x10 m 0x84 v)
  else if !s.twoLeft (bits v 6 0) then some (s.refuse 0x091 0x11 m 0x84 v)
  else none
def redFailEffect (v : Word) (s : State) : State := if bit v 31 then (s.failDie (bits v 6 0)).settle else s

def execRedFailDeclare (m : Master) (v : Word) (s : State) : Answer :=
  .next (s.write m 0x091 0x84 32 (setBit v 31 true) (redFailCond m (setBit v 31 true)) fun _ =>
    redFailEffect (setBit v 31 true)).1

/-! ## The states of the rebuild (R255) -/

/-- REBUILD_FLOOR: the latest deadline among the admissions made before the failure has passed. -/
def execRebuildFloor (s : State) : Answer :=
  if s.red.rbState ≠ 1 ∨ s.ns < s.red.rbAfter then .next s
  else .next ((({ s with red := { s.red with rbState := 2 } }).syncRed).raise 0x091 4).pumpRebuild

/-- Whether a read or a program of the rebuild is under way. -/
def State.rebuilding (s : State) : Bool := s.media.reqs.any fun r => match r.owner with
  | .rebuild _ => true
  | .reloc .rebuild _ _ => true
  | _ => false

/-- REBUILD_DONE: every stripe is restored; the journal is persisted, a checkpoint begins, the floors are released. -/
def execRebuildDone (s : State) : Answer :=
  if (s.red.rbState ≠ 1 ∧ s.red.rbState ≠ 2) ∨ !s.red.todo.isEmpty ∨ s.rebuilding then .next s
  else
    let s : State := ({ s with red := { s.red with rbState := 4 } }).writeSifj
    let s : State := if s.ftl.ckptRun.isSome then s else s.ckptStep 3
    .next (({ s with red := { s.red with rbState := 0, die1 := none, die2 := none, cursor := 0 } }).syncRed.emptyTriples.raise
      0x091 5)

/-- RED_CTRL: RB_BATCH 0 stores 1; RB_PAUSE enters and leaves PAUSED, releasing the floor (R255). -/
def redCtrlEffect (v : Word) (d : RegDef) (s : State) : State :=
  let s := s.store RED_CTRL v d
  let s : State := if s.field? RED_CTRL 15 8 = 0 then s.setField RED_CTRL 15 8 1 else s
  if s.regBit RED_CTRL 0 then
    if s.red.rbState = 3 then s else ({ s with red := { s.red with rbState := 3 } }).writeSifj.syncRed
  else if s.red.rbState = 3 then
    (({ s with red := { s.red with rbState := if s.red.todo.isEmpty && s.red.die1.isNone then 0 else 1, rbAfter := s.adm.latest } }).syncRed).pumpRebuild
  else s

def execRbPause (m : Master) (v : Word) (s : State) : Answer :=
  .next (s.write m 0x091 0x80 32 (setBit v 0 true) noCond (redCtrlEffect (setBit v 0 true))).1

/-- RED_STAT.OPEN and RED_RBRATE as they read. -/
def redStat (s : State) : Word :=
  setBits (s.reg RED_STAT) 26 22 (s.red.stripes.filter fun x => x.isOpen).length
def redRate (s : State) : Word :=
  BitVec.ofNat 32 (((s.red.rbReads.filter fun x => decide (s.ns < x.1 + 1000000000)).foldl (fun a x => a + x.2) 0) / 1000000)

end Sys2Proof.Machine
end

