-- ==== Sys2Proof/Machine/Media.lean ====
section
/-!
DEFINITION. The media scheduler and the channels (12): the quiet rotation (R263), the choice of the next operation (R263, R268,
R269), page buffers (R267), operations of a die and their results (R270 to R273).
-/

namespace Sys2Proof.Machine

/-- A channel, changing it, and changing its sequencer. -/
def Channel.idle : Channel := { seq := .reset, bufs := [none, none], waits := [], parked := true, reload := false }
def State.chan (s : State) (ch : Nat) : Channel := s.media.chans.getD ch .idle
def State.modChan (s : State) (ch : Nat) (f : Channel → Channel) : State :=
  { s with media := { s.media with chans := at' s.media.chans ch f } }
def State.modSeq (s : State) (ch : Nat) (f : Sequencer → Sequencer) : State :=
  s.modChan ch fun c => { c with seq := f c.seq }
def mchPage (ch : Nat) : Nat := 0x080 + ch

/-- Vendor firmware loads a channel's microstore from the image and sets MCH_CTRL.RUN (R280). -/
def State.reloadSeq (s : State) (ch : Nat) : State :=
  let words := ((s.media.micro.take 4096).mapIdx fun k w => (k, w)).filter fun p => p.2 != 0
  (s.setField (MCH_CTRL ch) 0 0 1).modChan ch fun c => { c with reload := false, seq := { c.seq with store := words } }

/-! ## The quiet rotation (R263) -/

/-- A rotation step is accepted every QROT seconds, and begins once the deadlines of the admissions before it have passed: the
open stripes of classes 1 to 3 on the joining ways then close. -/
def execQuietRotation (s : State) : Answer :=
  let w := s.media.ways
  match s.media.rot, s.media.quiet with
  | some r, _ =>
    if r.begun ∨ s.ns < r.after then .next s
    else
      let s : State := { s with media := { s.media with rot := some { r with begun := true } } }
      .next (s.closeWhere fun x => !x.evid && r.joining.contains x.way)
  | none, [a, b] =>
    if w < 4 ∨ (s.pages.dtime - s.media.lastRot).toNat < s.field? MSQ_CTRL 23 16 * 1000000 then .next s
    else
      let r : Rotation :=
        if w = 4 then { joining := [(b + 1) % 4], leaving := [a], after := s.adm.latest, begun := false, again := true }
        else { joining := [(b + 1) % w, (b + 2) % w], leaving := [a, b], after := s.adm.latest, begun := false, again := false }
      .next { s with media := { s.media with rot := some r } }
  | none, _ => .next s

/-- Whether a class 1 to 3 program or erase is at work on a way. -/
def State.wayBusy (s : State) (w : Nat) : Bool :=
  s.media.reqs.any fun r => r.die % 8 == w && r.op != 1 && r.cls != 0 && (r.phase == .running || r.phase == .handed)

/-- QUIET_JOIN: the joining ways join and the leaving ways leave at the same instant. -/
def execQuietJoin (s : State) : Answer :=
  match s.media.rot with
  | none => .next s
  | some r =>
    if !r.begun || r.joining.any s.wayBusy then .next s
    else
      let quiet := (s.media.quiet.filter fun w => !r.leaving.contains w) ++ r.joining
      let second : Option Rotation :=
        match r.again, quiet with
        | true, [a, b] => some { joining := [(b + 1) % 4], leaving := [a], after := s.adm.latest, begun := false, again := false }
        | _, _ => none
      let s : State := { s with media := { s.media with quiet := quiet, rot := second, lastRot := s.pages.dtime } }
      .next ((s.closeWhere fun x => x.evid && !quiet.contains x.way).placeEvid)

/-! ## Descriptors (R275) and the choice of the next operation -/

/-- Where the read data of a request go: node, SID, GEN and POS. The input of an execution names its cell, its stream and the position of the
page set's first byte (R188); other reads go to the cryptography complex, and those of RED and patrol to node 0x53 (log 36). -/
def State.routeOf (s : State) (r : Req) : Nat × Nat × Nat × Nat :=
  match r.owner with
  | .exec c => match s.prog.execs.find? fun e => e.ref == c with
    | some e =>
      let k := s.cell (Fin.ofNat 41 e.cell)
      let i := (r.blocks.headD (0, 0, 0)).2.2.toNat
      (e.cell, k.su0.sid, k.run.gen.toNat, (r.slot.getD 0 / 64 + 2 ^ 25 - 64 * i) % 2 ^ 25)
    | none => (0x51, 0, 0, 0)
  | .recon _ | .rebuild _ | .patrol => (0x53, 0, 0, 0)
  | _ => (0x51, 0, 0, 0)

/-- The operation number of a request in a descriptor, and its descriptor (R275; log 36). -/
def State.descOf (s : State) (r : Req) : Desc :=
  let (dst, sid, gen, pos) := if r.op = 1 then s.routeOf r else (0, 0, 0, 0)
  { op := r.op, way := r.die % 8, mode := modeCode r.mode, rdent := (s.blk r.die (r.unit / max 1 s.psBlk)).roff, cls := r.cls.val,
    addr := BitVec.ofNat 48 (r.unit * 2 ^ 16), dst := dst, sid := sid, gen := gen, pos := pos }

/-- A descriptor is handed to a channel, whose sequencer goes to MCH_CTRL.ENTRY. -/
def State.hand (s : State) (ch : Nat) (d : Desc) : State :=
  s.modSeq ch fun q => { q with
    desc := some d, active := true, todo := true, upc := BitVec.ofNat 12 (s.field? (MCH_CTRL ch) 27 16), entry := d.rdent, steps := 0,
    tmo := false, dfail := false, erased := false, ovth := false, susReq := decide (d.op = 6), wait := none,
    slots := List.replicate 24 0, failed := [] }

/-- A request before others: by class, then by age. -/
def Req.before (a b : Req) : Bool := decide (a.cls.val < b.cls.val) || (a.cls == b.cls && decide (a.id < b.id))
def firstReq (l : List Req) : Option Req :=
  l.foldl (fun (a : Option Req) r => match a with
    | none => some r
    | some b => if r.before b then some r else a) none

/-- Whether a program or erase may be issued to a die now: the quiet ways, and the joining ways of a step that has begun, take
class 0 alone. -/
def State.mayIssue (s : State) (r : Req) : Bool :=
  r.op == 1 || r.cls == 0 || (!s.quiet r.die && (match s.media.rot with
    | some t => !(t.begun && t.joining.contains (r.die % 8))
    | none => true))

/-- Whether an operation in progress is near its end (R268). -/
def State.nearEnd (s : State) (d : DieSt) : Bool := decide (s.remaining d ≤ s.cst 23 + s.cst 24)

/-- A read for a reconstruction goes before every other of its die, but for one of the rebuild, which is class 3 work (R61, R255). -/
def State.urgent (s : State) (r : Req) : Bool :=
  match r.owner with
  | .recon id => match s.req? id with
    | some p => (match p.owner with
      | .rebuild _ => false
      | _ => true)
    | none => false
  | _ => false
def State.firstOf (s : State) (l : List Req) : Option Req :=
  match firstReq (l.filter s.urgent) with
  | some r => some r
  | none => firstReq l

/-- Whether a read suspends the operation in progress (R268). -/
def State.suspends (s : State) (r : Req) (d : DieSt) : Bool :=
  !s.nearEnd d && (r.cls == 0 || s.urgent r || (r.cls == 1 && ((d.state == 2 && decide ((d.susCnt : Rat) < s.cst 25)) ||
    (d.state == 3 && decide ((d.susCnt : Rat) < s.cst 26)))))

/-- The read data of a request: its page set, and the phase that follows. -/
def State.senseWith (s : State) (r : Req) (p : PageSet) : State :=
  (s.modReq r.id fun x => { x with data := some p }).deliver (mchPage (r.die / 8)) (.die r.id)

/-- A request as an answer that nothing could be read for: what comes next belongs to its owner, at the cipher (no data). -/
def State.senseNone (s : State) (r : Req) : State := s.modReq r.id fun x => { x with data := none, phase := .sensed }

/-- A page set is at hand, as read or reconstructed, or cannot be had but for the codewords that decoded (R224, R237): patrol and the rebuild
take it as it is, the others by way of a cipher lane. -/
def State.concludeRead (s : State) (r : Req) (p : Option PageSet) : State :=
  match r.owner with
  | .patrol => s.patrolEnd r (if p.isSome then [] else r.bad)
  | _ => match p with
    | some p => (s.modReq r.id fun x => { x with bad := [] }).senseWith r p
    | none => match s.flashAt r.die r.unit with
      | some p => if r.bad.length < 16 then s.senseWith r p else s.senseNone r
      | none => s.senseNone r

/-- A reconstruction ends once no read for it is left (R248). -/
def State.finishRecon (s : State) (id : Nat) : State :=
  match s.req? id with
  | none => s
  | some r =>
    if r.phase ≠ .recon ∨ s.reconBusy id = true then s
    else match r.owner with
      | .rebuild k => (s.rebuildEnd r k).pumpRebuild
      | _ => match s.reconstruct r.die r.unit r.more with
        | (p, s) => s.concludeRead r p

/-- A member read for a reconstruction has come, or cannot be read: then the others that this asks for are read too. -/
def State.reconPart (s : State) (r : Req) (id : Nat) (ok : Bool) : State :=
  let s := s.dropReq r.id
  match s.req? id with
  | none => s
  | some q =>
    if ok then s.finishRecon id
    else match s.stripeOf q.die q.unit with
      | none => s.finishRecon id
      | some h =>
        let more := r.slot.getD 16 :: q.more
        let old := s.reconReads h.sseq h.ch q.more
        let new := (s.reconReads h.sseq h.ch more).filter fun k => !old.contains k
        ((s.modReq id fun x => { x with more := more }).readMembers id q.cls new).finishRecon id

/-- The spare copy of a member has been read back, or has not (R253). -/
def State.readBack (s : State) (r : Req) (k : Nat) (ok : Bool) : State :=
  let s := s.dropReq r.id
  (if ok then (s.count 0x091 2 1).syncRed else (s.dropSpare k).retireBlock r.die (r.unit / max 1 s.psBlk)).pumpRebuild

/-- A read has brought its page set, or has not (R248, R253, R272). -/
def State.readDone' (s : State) (r : Req) (p : Option PageSet) (bad : List Nat) : State :=
  match r.owner, p with
  | .recon id, _ => s.reconPart r id p.isSome
  | .rebuild k, _ => s.readBack r k p.isSome
  | _, some p => s.concludeRead r (some p)
  | _, none => (s.beginRecon r bad).finishRecon r.id

/-- MEDIA_SCHEDULE: the next operation of a die is handed to its channel, and a reconstruction that waits for nothing more ends. A read of a
failed die goes to the spare copy or is reconstructed; a read that may suspends an operation in progress; a suspended operation is resumed
when no read of class 0 or 1 and none for a reconstruction is left (R263, R268, R269). A channel that a fault has stopped is started again
with its microcode from the image (R280). -/
def execMediaSchedule (die : Die) (s : State) : Answer :=
  let d := die.val
  let ch := d / 8
  let s := if (s.chan ch).reload && s.pageOn (mchPage ch) then s.reloadSeq ch else s
  let st := s.dieSt d
  let queued := s.media.reqs.filter fun r => r.die == d && r.phase == .queued
  let reads := queued.filter fun r => r.op == 1
  if s.power.flush ≠ 0 ∨ !s.power.vccq ∨ !s.pageOn 0x090 ∨ !st.attached then .next s
  else match s.media.reqs.find? fun r => r.die == d && r.phase == .recon && !s.reconBusy r.id with
  | some r => .next (s.finishRecon r.id)
  | none =>
  if s.red.failed.contains d then
    match s.firstOf reads with
    | none => .next s
    | some r =>
      let (d', u') := s.redirect d r.unit
      if d' = d then .next (s.readDone' r none (List.range 16)) else .next (s.modReq r.id fun x => { x with die := d', unit := u' })
  else if !s.regBit (MCH_CTRL ch) 0 || (s.chan ch).seq.todo || st.lunReset.isSome then .next s
  else
    let give := fun (r : Req) => (s.modReq r.id fun x => { x with phase := .handed }).hand ch (s.descOf r)
    let way := fun (op : Nat) => ({ op := op, way := d % 8, mode := modeCode st.mode, rdent := 0, cls := 0, addr := 0, dst := 0,
                                    sid := 0, gen := 0, pos := 0 } : Desc)
    if st.state ≠ 0 then
      match s.firstOf reads with
      | some r => if st.state ≠ 1 && s.suspends r st then .next (s.hand ch (way 6)) else .next s
      | none => .next s
    else if st.susp then
      match s.firstOf (reads.filter fun r => decide (r.cls.val ≤ 1) || s.urgent r) with
      | some r => .next (give r)
      | none => .next (s.hand ch (way 7))
    else match s.firstOf (queued.filter s.mayIssue) with
      | some r => .next (give r)
      | none => .next s

/-! ## Page buffers (R267) -/

/-- Taking a buffer for a request: one it holds, a free one, or none, and then it waits. -/
def State.takeBuf (s : State) (ch id : Nat) : Option State :=
  let c := s.chan ch
  if c.bufs.contains (some id) then some s
  else match c.bufs.findIdx? (· == none) with
    | some k => some ((s.clearProt (mchPage ch) 8 (k * 12960) 12960).modChan ch fun c =>
        { c with bufs := c.bufs.set k (some id), waits := c.waits.filter (· != id) })
    | none => none
def State.waitBuf (s : State) (ch id : Nat) : State :=
  s.modChan ch fun c => { c with waits := if c.waits.contains id then c.waits else c.waits ++ [id] }

/-- PAGE_BUFFER_FREE: a buffer whose program has crossed into the die, or whose read has left for the mesh, is freed, and the
waiting operation of the lowest class and then the oldest age takes it. -/
def execPageBufferFree (ch : Chan) (buf : Fin 2) (s : State) : Answer :=
  let c := s.chan ch.val
  match c.bufs.getD buf.val none with
  | none => .next s
  | some id =>
    let busy : Bool := match s.req? id with
      | some (r : Req) => if r.op = 1 then r.phase == .running || r.phase == .handed || r.phase == .queued else r.phase == .handed
      | none => false
    if busy then .next s
    else
      let next := (firstReq (c.waits.filterMap fun n => s.req? n)).map fun (r : Req) => r.id
      .next ((s.clearProt (mchPage ch.val) 8 (buf.val * 12960) 12960).modChan ch.val fun c => { c with
        bufs := c.bufs.set buf.val next,
        waits := match next with
          | some n => c.waits.filter (· != n)
          | none => c.waits })

/-! ## Results of operations (R270 to R273) -/

/-- The retry steps a read may take (R270); a read for a reconstruction has those of the read it serves (log 97). -/
def State.retryLimit (s : State) (r : Req) : Nat :=
  let r := match r.owner with
    | .recon id => (s.req? id).getD r
    | _ => r
  let host := match r.owner with
    | .cmd _ => true
    | .exec _ => true
    | .merge => true
    | _ => false
  if r.cls = 0 then 0
  else if !host then s.field? MSQ_CTRL 3 0
  else (s.constWord (if r.cls = 1 then 27 else if r.cls = 2 then 28 else 29)).toNat

/-- The codewords of a read that an uncorrectable block of its page buffer spoils: they count as failed decoding; codeword k stands in slot k of the
buffer (R359; log 125). -/
def State.bufferBad (s : State) (r : Req) : List Nat × State :=
  match (s.chan (r.die / 8)).bufs.findIdx? (· == some r.id) with
  | none => ([], s)
  | some b =>
    let (l, s) := s.scanProt (mchPage (r.die / 8)) 8 (b * 12960) 8640
    ((l.map (· / 540)).eraseDups, s)

/-- A read has ended (R270 to R272): a result beyond the class's retries, and an erased or unreadable page set, go to
reconstruction. -/
def State.readEnd (s : State) (r : Req) (res : ReadResult) : State :=
  let res : ReadResult := match res with
    | .retried n _ failed _ => if s.retryLimit r < n then .unreadable failed else res
    | _ => res
  let (spoilt, s) := match res with
    | .erased => ([], s)
    | _ => s.bufferBad r
  let res : ReadResult := match res with
    | .unreadable l => ReadResult.unreadable (if l.isEmpty then [] else l ++ spoilt.filter fun k => !l.contains k)
    | _ => if spoilt.isEmpty then res else .unreadable spoilt
  let patrol := decide (r.owner = .patrol)
  let s := (s.countDecode r.die res).careOf r.die r.unit res patrol
  match res with
  | .good _ => s.readDone' r (s.flashAt r.die r.unit) (List.range 16)
  | .retried _ _ _ _ => s.readDone' r (s.flashAt r.die r.unit) (List.range 16)
  | .erased => s.readDone' r none (List.range 16)
  | .unreadable bad => s.readDone' r none (if bad.isEmpty then List.range 16 else bad)

/-- A verified program's consequences by its owner (R211, R214, R216, R253). -/
def State.programEnd (s : State) (r : Req) : State :=
  match r.data with
  | none => s.dropReq r.id
  | some p =>
    let s := (s.setFlash r.die r.unit (some p)).dropReq r.id
    let s : State := match p.hdr with
      | some h => s.settleStripe h.sseq
      | none => s
    match r.owner with
    | .drain => s.commitStaged r p
    | .evid _ => s.commitStaged r p
    | .reloc why die block => if why = .demote then s.commitDemote r p else (s.commitReloc r p).stepReloc die block
    | .journal q copyB =>
      let mark := fun (x : JPage) =>
        if x.jseq = q then { x with copyA := x.copyA || !copyB, copyB := x.copyB || copyB } else x
      { s with ftl := { s.ftl with jpages := s.ftl.jpages.map mark } }
    | .rebuild k => s.addReq (readReq r.die r.unit r.mode 3 (.rebuild k) [])
    | .ckpt slot => s.ckptDone slot r.die r.unit
    | .sifj seq copyB => s.sifjDone r seq copyB
    | .zero =>
      let s := match p.tag.lbas, r.blocks with
        | _, b :: _ => (s.commitStaged r p).closeAppend fun x => x.zero && x.lba == b.2.1
        | _, [] => s
      s
    | _ => s

/-- A program has failed (R273): the block is retired and the page set is placed again. -/
def State.programFail (s : State) (r : Req) : State :=
  (((s.count 0x090 3 1).raise (mchPage (r.die / 8)) 6).replan r).retireBlock r.die (r.unit / max 1 s.psBlk)

/-- What a block gives back when it has been erased: the buffer shrinks towards its target by a block of its own (R226), and a draw on the
evidence spare pool ends (R230). -/
def State.giveBack (s : State) (b : Blk) : State :=
  let s := if { b with state := 2 }.inBuffer && decide (s.bufTarget + s.rawBlk ≤ s.bufSize) then s.setBuf (s.bufSize - s.rawBlk) else s
  if b.drawn then ({ s with care := { s.care with evUsed := s.care.evUsed - s.rawBlk } } : State).showEvSpare else s

/-- An erase has ended (R216, R217, R233): the block joins the free pool, or is retired at 100,000 erases. A block retired meanwhile stays
retired. Journal copies that found no place may find one now. -/
def State.eraseEnd (s : State) (r : Req) : State :=
  let b := r.unit / max 1 s.psBlk
  let was := s.blk r.die b
  let s := (s.dropReq r.id).dropRelocs fun x => x.ofBlock r.die b
  let clear := (List.range s.psBlk).foldl (fun (s : State) k => s.setFlash r.die (b * s.psBlk + k) none) s
  let s := (clear.modBlk r.die b fun x => { Blk.fresh with erases := x.erases, state := if x.state = 5 then 5 else 0 }).giveBack was
  (if 100000 ≤ (s.blk r.die b).erases then s.retireBlock r.die b else s.updateLife).placeCopies
def State.eraseFail (s : State) (r : Req) : State :=
  let b := r.unit / max 1 s.psBlk
  (((s.dropReq r.id).dropRelocs fun x => x.ofBlock r.die b).count 0x090 4 1).raise (mchPage (r.die / 8)) 7 |>.retireBlock r.die b

/-- A program ends. In an Evidential pause its completion queues for the new firmware (R194). -/
def State.programDone (s : State) (r : Req) : State :=
  if s.fabric.pause.isNone then s.programEnd r
  else
    let s := (s.setFlash r.die r.unit r.data).dropReq r.id
    { s with media := { s.media with queued := s.media.queued ++ [r] } }

/-- The result of the operation of a request. -/
def State.opEnd (s : State) (r : Req) (res : DieResult) : State :=
  State.emptyTriples <| match r.op, res with
  | 1, .read x => s.readEnd r x
  | 1, _ => s.readEnd r (.unreadable [])
  | 2, .done => s.programDone r
  | 2, _ => s.programFail r
  | 3, .done => s.eraseEnd r
  | 3, _ => s.eraseFail r
  | _, _ => s

/-- The die is idle again. -/
def State.idleDie (s : State) (die : Nat) : State :=
  s.modDie die fun d => { d with state := 0, req := none, lunReset := none, forced := false, scale := 0 }

/-- The end of the operation in progress on a die. -/
def State.endOp (s : State) (die : Nat) (res : DieResult) : State :=
  match (s.dieSt die).req.bind s.req? with
  | none => s.idleDie die
  | some r => (s.idleDie die).opEnd r res

/-! ## Operations of the channels -/

/-- The request whose descriptor a channel has in hand. -/
def State.handed (s : State) (ch op : Nat) : Option Req :=
  match (s.chan ch).seq.desc with
  | some d => if d.op = op && (s.chan ch).seq.todo then
      s.media.reqs.find? fun r => r.phase == .handed && r.die == 8 * ch + d.way && r.op == op
    else none
  | none => none

/-- What a force of the channel's page does to the operation that starts (R484): bits 5 to 7 act on its result, bit 4 has it
pass its time limit. -/
def forcedBit : Nat → Nat
  | 1 => 5
  | 2 => 6
  | _ => 7

/-- The time limit of an operation has passed (R273): the scheduler gives the die LUN Reset. -/
def State.timeLimit (s : State) (die : Nat) : State :=
  let ch := die / 8
  let back := fun (r : Req) => if r.phase = .handed ∧ r.die / 8 = ch then { r with phase := .queued } else r
  let s : State := { s with media := { s.media with reqs := s.media.reqs.map back } }
  ((s.count (mchPage ch) 10 1).raise (mchPage ch) 4).hand ch
    { op := 4, way := die % 8, mode := 0, rdent := 0, cls := 0, addr := 0, dst := 0, sid := 0, gen := 0, pos := 0 }

/-- An operation starts in its die; its part of the ledger is now the operation in progress (R58). -/
def State.launch (s : State) (ch : Nat) (r : Req) : State :=
  let page := mchPage ch
  let scaleReg := if r.op = 1 then SQ_SCALE_R page else if r.op = 2 then SQ_SCALE_P page else SQ_SCALE_E page
  let forced := s.armed page (forcedBit r.op)
  let late := s.armed page 4
  let s : State := if forced then s.disarm page (forcedBit r.op) else s
  let s := s.modDie r.die fun d => { d with
    state := r.op, mode := if r.op = 3 then d.mode else r.mode, req := some r.id, started := s.ns, forced := forced,
    scale := s.field? scaleReg 11 0, susCnt := if d.susp then d.susCnt else 0 }
  let s := (s.modReq r.id fun x => { x with phase := .running, start := s.ns }).modSeq ch fun q => { q with todo := false }
  let s : State := match r.owner, r.op with
    | .cmd c, 1 => (s.worked (.cmd c) (.die r.die) (s.tr r.mode + s.xfer 65536 31)).worked (.cmd c) (.chan ch) (s.xfer 65536 31)
    | _, _ => s
  let s : State := match r.op, r.data with
    | 2, some p => match p.hdr with
      | some h => if h.role != 0 || h.spare then s else s.fold h.sseq (memberIdx h.sseq ch) p.member
      | none => s
    | _, _ => s
  if late then (s.disarm page 4).timeLimit r.die else s

/-- A read or a program starts once it holds a page buffer; an erase needs none. -/
def State.start' (s : State) (ch op : Nat) : State :=
  match s.handed ch op with
  | none => s
  | some r =>
    if op = 3 then s.launch ch r
    else match s.takeBuf ch r.id with
      | some s => s.launch ch r
      | none => s.waitBuf ch r.id

/-- MEDIA_READ, MEDIA_PROGRAM, MEDIA_ERASE: descriptors with OP 1, 2 and 3 are carried out. -/
def execMediaRead (ch : Chan) (s : State) : Answer := .next (s.start' ch.val 1)
def execMediaProgram (ch : Chan) (s : State) : Answer := .next (s.start' ch.val 2)
def execMediaErase (ch : Chan) (s : State) : Answer := .next (s.start' ch.val 3)

/-- The descriptor with an operation number that a channel has in hand and has not carried out. -/
def State.handedDesc (s : State) (ch op : Nat) : Option Desc :=
  match (s.chan ch).seq.desc with
  | some d => if d.op = op && (s.chan ch).seq.todo then some d else none
  | none => none

/-- LUN_RESET: a descriptor with OP 4. -/
def execLunReset (ch : Chan) (s : State) : Answer :=
  match s.handedDesc ch.val 4 with
  | none => .next s
  | some d =>
    let s := (s.modSeq ch.val fun q => { q with todo := false }).modDie (8 * ch.val + d.way) fun x =>
      { x with lunReset := some s.pages.dtime }
    .next ((s.count (mchPage ch.val) 11 1).emit (.nand ch.val [0x1FA#16]))

/-- SET_FEATURE: a descriptor with OP 5 sets a LUN feature: command EFh with LUN address, feature address and parameters. -/
def execSetFeature (ch : Chan) (way fa : Nat) (p : Word) (s : State) : Answer :=
  if (s.chan ch.val).seq.todo || !s.regBit (MCH_CTRL ch.val) 0 then .next s
  else .next (s.emit (.nand ch.val ([0x1D5#16, BitVec.ofNat 16 (0x200 + way % 8), BitVec.ofNat 16 (0x200 + fa % 256)] ++
    (wordBytes p).map fun b => 0x300#16 ||| b.setWidth 16)))

/-- SUSPEND: the operation in progress is suspended and its count rises (R268). -/
def execSuspend (ch : Chan) (s : State) : Answer :=
  match s.handedDesc ch.val 6 with
  | none => .next s
  | some d =>
    let die := 8 * ch.val + d.way
    let st := s.dieSt die
    let s := s.modSeq ch.val fun q => { q with todo := false, susReq := false }
    if st.state ≠ 2 ∧ st.state ≠ 3 then .next s
    else
      let s := s.modDie die fun x => { x with
        susp := true, susCnt := x.susCnt + 1, state := 0, req := none, paused := some (x.state, x.req.getD 0, s.ns - x.started) }
      .next ((s.count (mchPage ch.val) 9 1).count 0x020 10 1)

/-- RESUME: the suspended operation runs again. -/
def execResume (ch : Chan) (s : State) : Answer :=
  match s.handedDesc ch.val 7 with
  | none => .next s
  | some d =>
    let die := 8 * ch.val + d.way
    let s := s.modSeq ch.val fun q => { q with todo := false }
    match (s.dieSt die).paused with
    | none => .next s
    | some (st, id, run) => .next (s.modDie die fun x =>
        { x with susp := false, paused := none, state := st, req := some id, started := s.ns - run })

/-- The result a die shows once a forced source and a LUN Reset have had their say (R273, R484). -/
def DieSt.result (d : DieSt) (r : DieResult) : DieResult :=
  if d.lunReset.isSome ∨ d.forced then (if d.state = 1 then .read (.unreadable []) else .fail) else r

/-- DIE_READY: a result, held while SQ_SCALE holds the die's ready (R463). A die that was given LUN Reset while suspended ends
the suspended operation; one that is ready later than 10 ms after LUN Reset has failed (R273). -/
def execDieReady (die : Die) (r : DieResult) (s : State) : Answer :=
  let st := s.dieSt die.val
  let held := s.squall.scaled.any fun x => x.1 == die.val
  let late := st.lunReset.any fun t => decide (10000 < (s.pages.dtime - t).toNat)
  if held || late then .next s
  else if st.state = 0 then
    match st.paused, st.lunReset with
    | some (op, id, _), some _ =>
      let s := s.modDie die.val fun d => { d with susp := false, paused := none, state := op, req := some id }
      .next (s.endOp die.val ((s.dieSt die.val).result r))
    | none, some _ => .next (s.idleDie die.val)
    | _, none => .next s
  else
    let until' := st.started + (s.ns - st.started) * st.scale / 256
    if st.scale ≠ 0 ∧ s.ns < until' then
      .next { s with squall := { s.squall with scaled := s.squall.scaled ++ [(die.val, until', st.result r)] } }
    else .next (s.endOp die.val (st.result r))

/-- SCALED_READY_RELEASE: the held ready is released at its time. -/
def execScaledReadyRelease (die : Nat) (s : State) : Answer :=
  match s.squall.scaled.find? fun x => x.1 == die with
  | none => .next s
  | some x =>
    if s.ns < x.2.1 ∧ s.regBit SQL_STAT 0 then .next s
    else .next (({ s with squall := { s.squall with scaled := s.squall.scaled.filter fun y => y.1 != die } }).endOp die x.2.2)

/-- OPERATION_TIME_LIMIT: three times its characterised time has passed, suspended or not (R273). -/
def execOperationTimeLimit (die : Die) (s : State) : Answer :=
  let st := s.dieSt die.val
  let run := match st.paused with
    | some (op, _, n) => if st.state = 0 then (op, n) else (st.state, s.ns - st.started)
    | none => (st.state, s.ns - st.started)
  let limit := 3 * s.opTime { st with state := run.1 }
  if run.1 = 0 ∨ st.lunReset.isSome ∨ (run.2 : Rat) < limit ∨ (s.handedDesc (die.val / 8) 4).isSome then .next s
  else .next (s.timeLimit die.val)

/-- LUN_RESET_TIMEOUT: a die not ready within 10 ms of LUN Reset is declared failed (R252, R273). -/
def execLunResetTimeout (die : Die) (s : State) : Answer :=
  match (s.dieSt die.val).lunReset with
  | none => .next s
  | some t => if (s.pages.dtime - t).toNat < 10000 then .next s else .next (s.failDie die.val).settle

/-- MSQ_CTRL takes a value in its ranges (R282). -/
def msqCtrlCond (m : Master) (v : Word) (s : State) : Option State :=
  if bits v 23 16 < 10 ∨ bits v 3 0 = 0 then some (s.refuse 0x090 0x10 m 0xA0 v) else none

/-- The registers of a die, of the attached and quiet dies, and of the geometry as they read. -/
def mchDie (s : State) (ch w : Nat) : Word :=
  let d := s.dieSt (8 * ch + w)
  BitVec.ofNat 32 ((s.red.failed.contains (8 * ch + w)).toNat * 512 + d.susp.toNat * 256 + min d.susCnt 15 * 16 +
    modeCode d.mode * 4 + (if d.susp && d.state == 0 then (d.paused.map fun p => p.1).getD 0 else d.state))
def msqAtt (s : State) (k : Nat) : Word :=
  (List.range 32).foldl (fun a j => if (s.dieSt (32 * k + j)).attached then setBit a j true else a) 0
def msqQuiet (s : State) (k : Nat) : Word :=
  (List.range 32).foldl (fun a j => if (s.dieSt (32 * k + j)).attached && s.quiet (32 * k + j) then setBit a j true else a) 0
def msqGeom (s : State) : Word := BitVec.ofNat 32 (s.dieCount * 256 + s.media.ways)
def msqQways (s : State) : Word :=
  let moving := match s.media.rot with
    | some r => r.begun || (r.joining.length == 1 && !r.again)
    | none => false
  match s.media.quiet with
  | [a, b] => BitVec.ofNat 32 (moving.toNat * 128 + b * 16 + a)
  | _ => 0
def mchGeom (s : State) : Word :=
  match s.media.geom with
  | some (b, ps, n, p8, six) => BitVec.ofNat 32 (b * 2 ^ 16 + ps * 16 + n * 4 + p8.toNat * 2 + six.toNat)
  | none => 0

end Sys2Proof.Machine
end

