-- ==== Sys2Proof/Machine/Microcode.lean ====
section
/-!
DEFINITION. The microcode sequencers of the channels (12): microwords (R276), long and short operations (R277, R278), pairings and
faults (R279, R280), and the microstore window (R281).
-/

namespace Sys2Proof.Machine

/-- The microword at a channel's microaddress. -/
def Sequencer.word (q : Sequencer) : Word := q.store.get (fun _ => 0) q.upc.toNat

/-- Even parity over the whole word (R276). -/
def evenParity (w : Word) : Bool := (List.range 32).foldl (fun a k => a.xor (bit w k)) false == false

/-- The long opcode of a format-0 word, and its operand bits [25:1] that its operation names (R277). -/
def lop (w : Word) : Nat := bits w 30 26
def lopNamed : Nat → Word
  | 1 | 3 | 6 => fieldMask 12 1
  | 2 => fieldMask 16 1
  | 5 => fieldMask 16 1
  | 7 => fieldMask 24 1
  | 8 => fieldMask 25 24 ||| fieldMask 4 1
  | 9 => fieldMask 25 1
  | 10 => fieldMask 10 1
  | 12 => fieldMask 9 1
  | _ => 0

/-- Whether a counted operation's n and slot keep within 24 (R278, R279). -/
def countedOk (n slot : Nat) : Bool := decide (1 ≤ n ∧ slot + n ≤ 24)

/-- The two halves of a format-1 word: opcode and operand. -/
def busOp (w : Word) : Nat := bits w 30 27
def busArg (w : Word) : Nat := bits w 26 16
def bufOp (w : Word) : Nat := bits w 15 12
def bufArg (w : Word) : Nat := bits w 11 1

/-- Whether the operand of a bus-side operation is in order. -/
def busOk (op a : Nat) : Bool :=
  match op with
  | 1 => decide (a < 256)
  | 2 => decide (a < 32 ∧ a / 4 % 8 < 6)
  | 3 => decide (a < 128)
  | 4 | 5 => countedOk a 0
  | 6 => decide (a < 4)
  | 7 => decide (a < 2)
  | 8 => true
  | _ => decide (a = 0)

/-- Whether the operand of a buffer-side operation is in order. -/
def bufOk (op a : Nat) : Bool :=
  match op with
  | 0 => decide (a = 0)
  | 1 => decide (a < 2)
  | _ => decide (a < 1024) && countedOk (a % 32) (a / 32)

/-- The fault of a word, 0 when it executes (R280), but for the return stack's. -/
def wordFault (w : Word) : Nat :=
  if !evenParity w then 1
  else if !bit w 31 then
    if 12 < lop w then 2
    else if w &&& fieldMask 25 1 &&& ~~~lopNamed (lop w) ≠ 0 ∨ (lop w = 7 ∧ bits w 24 1 = 0) ∨ (lop w = 8 ∧ 8 < bits w 4 1) then 4
    else if lop w = 2 ∧ 10 < bits w 16 13 then 7
    else 0
  else if 8 < busOp w ∨ 7 < bufOp w then 3
  else if !busOk (busOp w) (busArg w) || !bufOk (bufOp w) (bufArg w) then 4
  else if (busOp w = 4 ∧ bufOp w = 3) ∨ (busOp w = 5 ∧ bufOp w = 2) then 5
  else 0

/-- The fault of a word in a sequencer (R280). -/
def Sequencer.fault (q : Sequencer) : Nat :=
  let f := wordFault q.word
  if f ≠ 0 then f
  else if (!bit q.word 31 && ((lop q.word == 3 && decide (4 ≤ q.stack.length)) || (lop q.word == 4 && q.stack.isEmpty))) then 6
  else 0

/-- The sequencer stops on a fault (R280): a read in progress counts as unreadable, a program as failed, an erase is given LUN
Reset and issued again; a descriptor not carried out goes back to the scheduler, and the microcode is to be loaded again. -/
def State.seqFault (s : State) (ch code : Nat) : State :=
  let q := (s.chan ch).seq
  let page := mchPage ch
  let s := (s.setField (MCH_CTRL ch) 0 0 0).setReg (MCH_STAT ch)
    (setBits (setBit (s.reg (MCH_STAT ch)) 1 true) 11 8 code)
  let s := ((s.raise page 3).count page 12 1).blockError page 0x12 (BitVec.ofNat 32 q.upc.toNat) 0 q.word
  let s := s.modChan ch fun c => { c with reload := true, seq := { c.seq with active := false, todo := false, wait := none } }
  let back := fun (r : Req) => if r.phase = .handed ∧ r.die / 8 = ch then { r with phase := .queued } else r
  let s : State := { s with media := { s.media with reqs := s.media.reqs.map back } }
  (List.range 8).foldl (fun (s : State) k =>
    let die := 8 * ch + k
    let d := s.dieSt die
    match d.state with
    | 1 => s.endOp die (.read (.unreadable []))
    | 2 => s.endOp die .fail
    | 3 =>
      let s := match d.req with
        | some id => s.modReq id fun r => { r with phase := .queued }
        | none => s
      s.modDie die fun d => { d with state := 0, req := none, lunReset := some s.pages.dtime }
    | _ => s) s

/-- Descriptor words 0 to 7 (R275). -/
def Desc.word (d : Desc) : Nat → Nat
  | 0 => d.op % 16 + d.way % 8 * 16 + d.mode % 4 * 128 + d.rdent % 16 * 512 + d.cls % 4 * 8192
  | 1 => d.addr.toNat % 2 ^ 32
  | 2 => d.addr.toNat / 2 ^ 32
  | 3 => d.dst % 128 + d.sid % 256 * 256 + d.gen % 256 * 65536
  | 4 => d.pos % 2 ^ 25
  | _ => 0

/-- LUN Set Features on the bus: command D5h, the LUN, the feature address, four parameter bytes. -/
def setFeatures (lun fa : Nat) (p : Word) : List (BitVec 16) :=
  [0x1D5#16, BitVec.ofNat 16 (0x200 + lun % 256), BitVec.ofNat 16 (0x200 + fa % 256)] ++
    (wordBytes p).map fun b => 0x300#16 ||| b.setWidth 16

/-- The retry steps left to the operation in hand (R270): none for Evidential, the class's for a host read, RRMAX for vendor
firmware's. -/
def State.stepsLeft (s : State) (ch : Nat) : Bool :=
  let q := (s.chan ch).seq
  match q.desc with
  | none => false
  | some d =>
    let r := s.media.reqs.find? fun r => r.die == 8 * ch + d.way && (r.phase == .running || r.phase == .handed)
    match r with
    | some r => decide (q.steps < s.retryLimit r)
    | none => decide (d.cls ≠ 0 ∧ q.steps < s.field? MSQ_CTRL 3 0)

/-- The conditions of JCC (R277); FAIL, ready and suspended are bits 0, 6 and 2 of ST (log 37). -/
def State.jccHolds (s : State) (ch c : Nat) : Bool :=
  let q := (s.chan ch).seq
  match c with
  | 0 => true
  | 1 => q.tmo
  | 2 => q.st.getLsbD 0
  | 3 => q.st.getLsbD 6
  | 4 => q.cnt == 0
  | 5 => q.dfail
  | 6 => q.erased
  | 7 => q.susReq
  | 8 => q.st.getLsbD 2
  | 9 => q.ovth
  | _ => s.stepsLeft ch

/-- The suspension of the operation in progress on a die (R268). -/
def State.suspendDie (s : State) (die : Nat) : State :=
  let st := s.dieSt die
  if st.state ≠ 2 ∧ st.state ≠ 3 then s
  else
    ((s.modDie die fun x => { x with
      susp := true, susCnt := x.susCnt + 1, state := 0, req := none,
      paused := some (x.state, x.req.getD 0, s.ns - x.started) }).count (mchPage (die / 8)) 9 1).count 0x020 10 1

/-- What the decoder has made of a page set, by the slots of its sixteen codewords. -/
def Sequencer.decoded (q : Sequencer) : ReadResult :=
  let corr := (q.slots.take 16).map fun x => x - 3
  if q.steps = 0 then .good corr else .retried q.steps q.entry q.failed corr

/-- POST: what the sequencer reports to the scheduler of the operation in hand. -/
def State.seqPost (s : State) (ch result : Nat) : State :=
  let q := (s.chan ch).seq
  match q.desc with
  | none => s
  | some d =>
    let die := 8 * ch + d.way
    let st := s.dieSt die
    if result = 6 then s.suspendDie die
    else if result = 4 then (if st.state = 0 then s else s.timeLimit die)
    else if 6 < result ∨ st.state = 0 then s
    else
      let res : DieResult := match result, st.state with
        | 0, 1 => .read q.decoded
        | 0, _ => .done
        | 5, 1 => .read .erased
        | _, 1 => .read (.unreadable ((List.range 16).filter fun k => q.slots.getD k 0 == 1))
        | _, _ => .fail
      s.endOp die (st.result res)

/-- The microaddress of the next word. -/
def Sequencer.next (q : Sequencer) : Sequencer := { q with upc := q.upc + 1 }

/-- An address register. -/
def Sequencer.an (q : Sequencer) (k : Nat) : BitVec 48 := q.a.getD k 0

/-- What LDDESC takes from the descriptor in hand: word k, or with 8 the whole address (R275, R277). -/
def Sequencer.descWord (q : Sequencer) (k : Nat) : BitVec 48 :=
  let d := q.desc.getD { op := 0, way := 0, mode := 0, rdent := 0, cls := 0, addr := 0, dst := 0, sid := 0, gen := 0, pos := 0 }
  if k = 8 then d.addr else BitVec.ofNat 48 (d.word k)

/-- The long operations (R277); `ready` and `st` are what a poll of WAITRB finds. -/
def State.longOp (s : State) (ch : Nat) (w : Word) (ready : Bool) (st : Byte) : State :=
  let q := (s.chan ch).seq
  let target := BitVec.ofNat 12 (bits w 12 1)
  let n := bits w 25 24
  let lun := (q.sel.map fun p => p.2).getD 0
  match lop w with
  | 0 => s.modSeq ch fun q => { q with
      active := false, todo := false, upc := BitVec.ofNat 12 (s.field? (MCH_CTRL ch) 27 16) }
  | 1 => s.modSeq ch fun q => { q with upc := target }
  | 2 => s.modSeq ch fun q => if s.jccHolds ch (bits w 16 13) then { q with upc := target } else q.next
  | 3 => s.modSeq ch fun q => { q with stack := (q.upc + 1) :: q.stack, upc := target }
  | 4 => s.modSeq ch fun q => { q with stack := q.stack.tail, upc := q.stack.headD 0 }
  | 5 => s.modSeq ch fun q => { q.next with cnt := BitVec.ofNat 16 (bits w 16 1) }
  | 6 => s.modSeq ch fun q =>
      let q : Sequencer := { q with cnt := q.cnt - 1 }
      if q.cnt = 0 then q.next else { q with upc := target }
  | 7 => s.modSeq ch fun q =>
      let q : Sequencer := { q with st := st }
      if ready then { q.next with wait := none }
      else match q.wait with
        | none => { q with wait := some (bits w 24 1 - 1) }
        | some k => { q with wait := some (k - 1) }
  | 8 => s.modSeq ch fun q => { q.next with a := q.a.set n (q.descWord (bits w 4 1)) }
  | 9 => s.modSeq ch fun q => { q.next with a := q.a.set n (q.an n + (BitVec.ofNat 23 (bits w 23 1)).signExtend 48) }
  | 10 => (s.modSeq ch Sequencer.next).emit
      (.nand ch (setFeatures lun (bits w 8 1) ((q.an (bits w 10 9)).setWidth 32)))
  | 11 =>
    if s.stepsLeft ch then
      let e := (q.entry + 1) % 16
      (s.modSeq ch fun q => { q.next with entry := e, steps := q.steps + 1 }).emit
        (.nand ch (setFeatures lun 0x89 (BitVec.ofNat 32 e)))
    else s.modSeq ch Sequencer.next
  | _ => (s.modSeq ch Sequencer.next).seqPost ch (bits w 8 1)

/-- The bus-side operations (R278); `st` is what a status cycle reads. -/
def State.busSide (s : State) (ch op a : Nat) (st : Byte) : State :=
  let q := (s.chan ch).seq
  let addr := fun (k m : Nat) => (List.range m).map fun j => BitVec.ofNat 16 (0x200 + ((q.an k).toNat >>> (8 * j)) % 256)
  match op with
  | 1 => s.emit (.nand ch [BitVec.ofNat 16 (0x100 + a % 256)])
  | 2 => s.emit (.nand ch (addr (a % 4) (a / 4 % 8 + 1)))
  | 3 => s.modSeq ch fun q => { q with sel := if 64 ≤ a then some (a % 8, a / 8 % 8) else none }
  | 4 => s.modSeq ch fun q => { q with fifo := q.fifo + a }
  | 5 => s.modSeq ch fun q => { q with fifo := q.fifo - a }
  | 6 => (s.modSeq ch fun q => { q with st := st }).emit (.nand ch (0x178#16 :: addr (a % 4) 3))
  | 7 => s.modSeq ch fun q => { q with wpn := decide (a = 1) }
  | _ => s

/-- The codewords of the page set that the operation in hand works on, as they leave for the mesh (R278). -/
def State.sendWords (s : State) (ch slot n : Nat) : State :=
  match (s.chan ch).seq.desc with
  | none => s
  | some d =>
    match s.media.reqs.find? fun r => r.die == 8 * ch + d.way && (r.phase == .running || r.phase == .handed) with
    | none => s
    | some r =>
      match s.flashAt r.die r.unit with
      | none => s
      | some p => (List.range (64 * n)).foldl (fun (s : State) j =>
          let k := slot + j / 64
          s.emit (.flit d.dst (0x40 + ch) d.cls 0 d.sid d.gen (d.pos + 64 * slot + j) (64 * slot + j == 1023)
            ((s.chan ch).seq.slots.getD k 0 == 1)
            (sub (leBytes 4096 (p.words.getD k 0).toNat) (64 * (j % 64)) 64))) s

/-- What the decoder finds in the slots a FILL or a SOFT names; the flags follow it: DFAIL of a failed codeword, ERASED of erased ones alone,
OVTH of more than THRESH corrected bits. -/
def State.decodeSlots (s : State) (ch slot n : Nat) (res : List Nat) (soft : Bool) : State :=
  let th := s.field? MC_CTRL 24 16
  s.modSeq ch fun q =>
    let put := fun (l : List Nat) (j : Nat) => if soft && l.getD (slot + j) 0 != 1 then l else l.set (slot + j) (res.getD j 0)
    let l := (List.range n).foldl put q.slots
    let mine := (List.range n).map fun j => l.getD (slot + j) 0
    let q : Sequencer := { q with slots := l, dfail := mine.contains 1 }
    if soft then q
    else { q with
      erased := mine.all (· == 2), ovth := mine.any fun x => decide (th + 3 < x), fifo := q.fifo - n,
      failed := if q.steps = 0 then ((List.range n).filter fun j => l.getD (slot + j) 0 == 1).map (slot + ·) else q.failed }

/-- The buffer-side operations (R278); `res` is what the decoder finds in the slots, two bytes for each. -/
def State.bufSide (s : State) (ch op a : Nat) (res : List Nat) : State :=
  let n := a % 32
  match op with
  | 1 => s.modSeq ch fun q => { q with buf := a % 2 }
  | 2 => s.decodeSlots ch (a / 32) n res false
  | 3 => s.modSeq ch fun q => { q with fifo := q.fifo + n }
  | 4 => s.decodeSlots ch (a / 32) n res true
  | 5 => s.sendWords ch (a / 32) n
  | _ => s

/-- A format-1 word: both halves in one cycle, the FIFO joining them. -/
def State.shortPair (s : State) (ch : Nat) (w : Word) (dq : List Byte) : State :=
  let res := (List.range 24).map fun j => leNat (sub dq (1 + 2 * j) 2)
  ((s.busSide ch (busOp w) (busArg w) (dq.getD 0 0)).bufSide ch (bufOp w) (bufArg w) res).modSeq ch Sequencer.next

/-- One microword (R276 to R280). -/
def State.microStep (s : State) (ch : Nat) (ready : Bool) (st : Byte) (dq : List Byte) : State :=
  let q := (s.chan ch).seq
  let f := q.fault
  if f ≠ 0 then s.seqFault ch f
  else if bit q.word 31 then s.shortPair ch q.word dq
  else s.longOp ch q.word ready st

/-- Whether a sequencer runs a descriptor and the word at its microaddress passes a test; a WAITRB whose timeout has run out
waits for WAITRB_TIMEOUT. -/
def State.seqAt (s : State) (ch : Nat) (p : Word → Bool) : Bool :=
  let q := (s.chan ch).seq
  s.pageOn (mchPage ch) && s.regBit (MCH_CTRL ch) 0 && q.active && q.wait != some 0 && p q.word

/-- A row of the long operations: the word at the microaddress has the row's opcode and operand. -/
def longRow (ch : Chan) (p : Word → Bool) (ready : Bool) (st : Byte) (s : State) : Answer :=
  if s.seqAt ch.val fun w => !bit w 31 && p w then .next (s.microStep ch.val ready st []) else .next s

/-- HALT, and the unassigned long opcodes, which stop the sequencer (R280). -/
def execHalt (ch : Chan) (s : State) : Answer :=
  longRow ch (fun w => lop w == 0 || decide (12 < lop w)) false 0 s
def execSeqJmp (ch : Chan) (target : BitVec 12) (s : State) : Answer :=
  longRow ch (fun w => lop w == 1 && bits w 12 1 == target.toNat) false 0 s
def execJcc (ch : Chan) (cond : BitVec 4) (target : BitVec 12) (s : State) : Answer :=
  longRow ch (fun w => lop w == 2 && bits w 16 13 == cond.toNat && bits w 12 1 == target.toNat) false 0 s
def execSeqCall (ch : Chan) (target : BitVec 12) (s : State) : Answer :=
  longRow ch (fun w => lop w == 3 && bits w 12 1 == target.toNat) false 0 s
def execSeqRet (ch : Chan) (s : State) : Answer := longRow ch (fun w => lop w == 4) false 0 s
def execLdcnt (ch : Chan) (n : BitVec 16) (s : State) : Answer :=
  longRow ch (fun w => lop w == 5 && bits w 16 1 == n.toNat) false 0 s
def execLoop (ch : Chan) (target : BitVec 12) (s : State) : Answer :=
  longRow ch (fun w => lop w == 6 && bits w 12 1 == target.toNat) false 0 s
def execWaitrb (ch : Chan) (w : Word) (ready : Bool) (st : Byte) (s : State) : Answer :=
  longRow ch (fun x => lop x == 7 && x == w) ready st s
def execLddesc (ch : Chan) (w : Word) (s : State) : Answer := longRow ch (fun x => lop x == 8 && x == w) false 0 s
def execAdda (ch : Chan) (w : Word) (s : State) : Answer := longRow ch (fun x => lop x == 9 && x == w) false 0 s
def execSetf (ch : Chan) (w : Word) (s : State) : Answer := longRow ch (fun x => lop x == 10 && x == w) false 0 s
def execRetry (ch : Chan) (w : Word) (s : State) : Answer := longRow ch (fun x => lop x == 11 && x == w) false 0 s
def execPost (ch : Chan) (w : Word) (s : State) : Answer := longRow ch (fun x => lop x == 12 && x == w) false 0 s

/-- WAITRB_TIMEOUT: the timeout has expired without the LUN being ready. -/
def execWaitrbTimeout (ch : Chan) (s : State) : Answer :=
  let q := (s.chan ch.val).seq
  if s.regBit (MCH_CTRL ch.val) 0 && q.active && q.wait == some 0 then
    .next (s.modSeq ch.val fun q => { q.next with tmo := true, wait := none })
  else .next s

/-- SHORT_OPERATION_PAIR: `dq` is what the status cycle reads, and then what the decoder finds in each slot. -/
def execShortOperationPair (ch : Chan) (w : Word) (dq : List Byte) (s : State) : Answer :=
  if s.seqAt ch.val fun x => bit x 31 && x == w then .next (s.microStep ch.val false 0 dq) else .next s

/-! ## The registers (R281) -/

/-- USLOAD or STEP written 1 while RUN = 1 (R281). -/
def mchCtrlCond (m : Master) (ch : Nat) (v : Word) (s : State) : Option State :=
  if s.regBit (MCH_CTRL ch) 0 ∧ (bit v 2 ∨ bit v 1) then some (s.refuse (mchPage ch) 0x11 m 0x80 v) else none

/-- A write of MCH_CTRL; STEP executes one microword while RUN is 0. A step of a WAITRB whose timeout has run out sets TO. -/
def mchCtrlEffect (ch : Nat) (v : Word) (ready : Bool) (st : Byte) (dq : List Byte) (d : RegDef) (s : State) : State :=
  let ran := s.regBit (MCH_CTRL ch) 0
  let s := s.store (MCH_CTRL ch) v d
  if ran ∨ bit v 1 = false then s
  else if (s.chan ch).seq.wait = some 0 then s.modSeq ch fun q => { q.next with tmo := true, wait := none }
  else s.microStep ch ready st dq

/-- STEP (R281). -/
def execStep (m : Master) (ch : Chan) (v : Word) (ready : Bool) (st : Byte) (dq : List Byte) (s : State) : Answer :=
  .next (s.write m (mchPage ch.val) 0x80 32 (setBit v 1 true) (mchCtrlCond m ch.val (setBit v 1 true))
    (mchCtrlEffect ch.val (setBit v 1 true) ready st dq)).1

/-- A microword may be written only while RUN = 0 and USLOAD = 1. -/
def usdataCond (m : Master) (ch : Nat) (v : Word) (s : State) : Option State :=
  if s.regBit (MCH_CTRL ch) 0 || !s.regBit (MCH_CTRL ch) 2 then some (s.refuse (mchPage ch) 0x10 m 0x8C v) else none

/-- MCH_USADDR advances after each access of MCH_USDATA. -/
def State.usNext (s : State) (ch : Nat) : State :=
  s.setReg (MCH_USADDR ch) (BitVec.ofNat 32 ((s.field? (MCH_USADDR ch) 11 0 + 1) % 4096))

def usdataEffect (ch : Nat) (v : Word) (_ : RegDef) (s : State) : State :=
  (s.modSeq ch fun q => { q with store := q.store.set (fun _ => 0) (s.field? (MCH_USADDR ch) 11 0) v }).usNext ch

/-- The microword that MCH_USDATA reads. -/
def usdataView (s : State) (ch : Nat) : Word := (s.chan ch).seq.store.get (fun _ => 0) (s.field? (MCH_USADDR ch) 11 0)

/-- MCH_USDATA_ACCESS (R281). -/
def execMchUsdataAccess (m : Master) (ch : Chan) (write : Option Word) (s : State) : Answer :=
  match write with
  | some v => .next (s.write m (mchPage ch.val) 0x8C 32 v (usdataCond m ch.val v) (usdataEffect ch.val v)).1
  | none =>
    match s.checkAccess m (mchPage ch.val) 0x8C 32 true 0 with
    | .stop s r => .next (s.reply m r)
    | .pass _ => .next ((s.answerRead m (mchPage ch.val) (usdataView s ch.val)).usNext ch.val)

/-- MCH_WAYMAP is written only while RUN = 0. -/
def waymapCond (m : Master) (ch off : Nat) (v : Word) (s : State) : Option State :=
  if s.regBit (MCH_CTRL ch) 0 then some (s.refuse (mchPage ch) 0x10 m off v) else none

/-- MCH_STAT as it reads. -/
def mchStat (s : State) (ch : Nat) : Word :=
  setBits (setBit (s.reg (MCH_STAT ch)) 0 (s.regBit (MCH_CTRL ch) 0)) 23 12 (s.chan ch).seq.upc.toNat

end Sys2Proof.Machine
end

