-- ==== Sys2Proof/Machine/Datapath.lean ====
section
/-!
DEFINITION. The data path between dies and commands: the reads a command needs (R53, R208), path jobs of the cipher lanes (R308 to
R311, R316 to R319), and what becomes of a page set that has been decrypted (R188, R207, R216, R224).
-/

namespace Sys2Proof.Machine

/-! ## The blocks of a command -/

/-- Every block of some ranges, in order. -/
def rangeBlocks (l : List Range) : List (Nat × Nat) :=
  l.flatMap fun x => (List.range x.nlb).map fun i => (x.nsid, x.lba + i)

/-- The blocks that must come from a die, with their places (R208): neither staged, nor zeros, nor lost. -/
def State.mediaBlocks (s : State) (l : List Range) : List (Nat × Nat × Nat × Nat × Nat) :=
  (rangeBlocks l).filterMap fun b =>
    if (s.staged? b.1 b.2).isSome then none
    else match s.place b.1 b.2 with
      | .at d u i => some (b.1, b.2, d, u, i)
      | _ => none

/-- The units a command reads (R59): a coarse unit in its page set, or a fine block on its own die. -/
def State.readUnits (s : State) (l : List Range) : List (Nat × Mode × Nat) :=
  ((s.mediaBlocks l).map fun (n, lba, d, u, _) =>
    if bit (s.coarse (s.unitOf n lba)) 29 then ((d, u), lba, 4096) else ((d, u), 0, 65536)).eraseDups.map fun x =>
    (x.1.1, s.unitMode x.1.1 x.1.2, x.2.2)

/-- The dies of the units (R50). -/
def unitDies (u : List (Nat × Mode × Nat)) : List Nat := (u.map fun x => x.1).eraseDups

/-- The ledger's share of a read's host transfer and of its work at the lanes is done. -/
def State.cmdData (s : State) (r : CmdRef) : List (Option Block) :=
  match s.cmd? r with
  | none => []
  | some c => (rangeBlocks c.reads).map fun w => (c.got.find? fun g => g.1 == w.1 && g.2.1 == w.2).bind fun g => g.2.2

/-- The charges a write holds for its programs and merges pass to the staged blocks, in equal shares (R68, R207). -/
def Charge.passes (c : Charge) (r : CmdRef) : Bool :=
  c.owner == .merge r || (c.owner == .cmd r && (c.res == .openDies || c.res == .allChans))
def State.passCharges (s : State) (r : CmdRef) (versions : List Nat) : State :=
  let mine := s.adm.charges.filter fun c => c.passes r
  let rest := s.adm.charges.filter fun c => !c.passes r
  let n := versions.length
  let share := versions.flatMap fun v => mine.map fun c => { c with owner := .stage v, ns := c.ns / n }
  if n = 0 then s else { s with adm := { s.adm with charges := rest ++ share } }

/-- A drain program that no die has begun is called off when one of its blocks has been written again: what it carried is drained anew, the
superseded version never (R209). -/
def State.callOff (s : State) : State :=
  let stale := fun (b : Nat × Nat × BitVec 64) => s.ftl.staging.any fun x => x.nsid == b.1 && x.lba == b.2.1 && older b.2.2 x.version
  (s.media.reqs.filter fun r => r.owner == .drain && (r.phase == .cipher || r.phase == .queued) && r.blocks.any stale).foldl
    (fun (s : State) r =>
      let s := ((s.unmember r).dropReq r.id).markIssued r.blocks false
      r.blocks.foldl (fun (s : State) b => match s.staged? b.1 b.2.1 with
        | some x => s.supersede b.1 b.2.1 x.version false
        | none => s) s) s

/-- The units of written blocks: a demotion of them is cancelled (R205), and their writer is noted (R92). -/
def State.wrote (s : State) (f : Fun) (n lba nlb : Nat) : State :=
  (List.range ((lba + nlb + 15) / 16 - lba / 16)).foldl (fun (s : State) k =>
    let u := s.baseOf n + lba / 16 + k
    let s := s.touch u
    { s with ftl := { s.ftl with writer := s.ftl.writer.set (fun _ => 0) u (f.val + 1) } }) s

/-- Ranges of blocks enter staging in order, and their STAGED records are committed together (R209, R210, R214). An Evidential write has
none and waits there for its program (R206); of another one the staged blocks take over its charges. -/
def State.stageParts (s : State) (r : CmdRef) (evid : Bool) (parts : List (Nat × Nat × List Block)) : State :=
  let w := s.ftl.wseq.setWidth 32
  let first := s.ftl.version.toNat
  let total := parts.foldl (fun a x => a + x.2.2.length) 0
  let s := parts.foldl (fun (s : State) x =>
    ((List.range x.2.2.length).foldl (fun (s : State) i => s.stage x.1 (x.2.1 + i) (x.2.2.getD i 0) r w evid) s).wrote
      r.fn x.1 x.2.1 x.2.2.length) s
  let recs := parts.flatMap fun x => (List.range ((x.2.2.length + 65535) / 65536)).map fun k =>
    JRec.staged x.1 (min 65536 (x.2.2.length - 65536 * k) - 1) w (x.2.1 + 65536 * k)
  if evid then s.placeEvid
  else ((if recs.isEmpty then s else s.commit recs).passCharges r ((List.range total).map (first + ·))).callOff
def State.stageAll (s : State) (r : CmdRef) (evid : Bool) (n lba : Nat) (bs : List Block) : State :=
  s.stageParts r evid [(n, lba, bs)]

/-- The data of a write has come: it enters staging and is acknowledged, or waits for durability when Evidential (R210, R211). One for which
staging has no room waits for it, with its data, until COMMAND_START finds some (R20, R210; log 98). -/
def State.landWrite (s : State) (r : CmdRef) (bs : List Block) : State :=
  match s.cmd? r with
  | none => s
  | some c =>
    match c.writes with
    | [] => s.finish r stOk
    | w :: _ =>
      if c.cls ≠ 0 ∧ s.hasRoom (4096 * bs.length) = false then s.modCmd r fun c => { c with phase := .room, data := bs }
      else
        let s := s.modCmd r fun c => { c with phase := .working, started := true, landed := true, data := [] }
        let s := s.stageAll r (c.cls == 0) w.nsid w.lba bs
        if c.cls = 0 then s.settle else s.finish r stOk

/-- A read has all its blocks: what the command does with them (R81, R84). -/
def State.readDone (s : State) (r : CmdRef) : State :=
  match s.cmd? r with
  | none => s
  | some c =>
    let want := rangeBlocks c.reads
    if c.phase ≠ .working ∨ c.got.length < want.length then s
    else
      let data := s.cmdData r
      let whole := data.all Option.isSome
      match c.kind with
      | .read =>
        match s.xferOk with
        | (false, s) => s.finish r stTransfer
        | (true, s) =>
          let s := (c.segs.foldl (fun (s : State) p => s.markDirty r.fn p.1.toNat p.2) s).emit (.blocks r (data.filterMap id))
          s.finish r (if whole then stOk else stUnrecovered)
      | .verify => s.finish r (if whole then stOk else stUnrecovered)
      | .compare =>
        if !c.landed then s
        else s.finish r (if !whole then stUnrecovered else if data.map (·.getD 0) = c.data then stOk else stCompare)
      | .copy => if !whole then s.finish r stUnrecovered else s.landWrite r (data.map (·.getD 0))
      | _ => s

/-- The reads of a command start: blocks in staging, zeros and lost blocks are had at once, the others are asked of their dies. -/
def State.beginRead (s : State) (r : CmdRef) (cls : Class) (l : List Range) : State :=
  let now := (rangeBlocks l).filterMap fun b =>
    match s.staged? b.1 b.2 with
    | some x => some (b.1, b.2, some x.data)
    | none => match s.place b.1 b.2 with
      | .zero => some (b.1, b.2, some (0 : Block))
      | .lost => some (b.1, b.2, none)
      | .at _ _ _ => none
  let media := s.mediaBlocks l
  let sets := (media.map fun (_, _, d, u, _) => (d, u)).eraseDups
  let s := s.modCmd r fun c => { c with got := c.got ++ now }
  let s := sets.foldl (fun (s : State) p =>
    s.addReq (readReq p.1 p.2 (s.unitMode p.1 p.2) cls (.cmd r)
      ((media.filter fun (_, _, d, u, _) => d == p.1 && u == p.2).map fun (n, b, _, _, i) => (n, b, BitVec.ofNat 64 i)))) s
  s.readDone r

/-! ## Executions: their input as a stream (R108, R186, R188) -/

/-- An execution. -/
def State.exec? (s : State) (r : CmdRef) : Option ExecRec := s.prog.execs.find? fun e => e.ref == r

/-- Bytes of the input at the next position enter stream buffer 0. -/
def State.feed (s : State) (c : CellId) (bs : List Byte) : State :=
  let q := (s.cell c).su 0
  (s.writeSb c 0 q.d bs).modSu c 0 fun q => { q with d := q.d + bs.length }.close

/-- The input of an execution as far as the window and what lies at hand allow: SLM bytes from DRAM, staged blocks and zeros at
once, a block on a die by a read of its own; a lost block stops the slot. -/
def State.pump (s : State) (e : ExecRec) : Nat → State
  | 0 => s
  | n + 1 =>
    let c : CellId := Fin.ofNat 41 e.cell
    let s := s.fetchAhead c 0
    let q := (s.cell c).su 0
    if !q.active || q.err then s
    else match rangeAt e.inputs q.d with
      | none => s
      | some (d, off) =>
        let room := min (q.c + sbSize) q.length - q.d
        if !d.ns then s
        else if room < min 4096 (q.length - q.d) then s
        else
          let lba := d.start + off / 4096
          match s.staged? d.nsid lba with
          | some x => (s.feed c (blockBytes x.data)).pump e n
          | none => match s.place d.nsid lba with
            | .zero => (s.feed c (List.replicate 4096 0)).pump e n
            | .lost => s.modSu c 0 fun q => { q with active := false, err := true }
            | .at die u i =>
              let cls : Class := Fin.ofNat 4 q.cls
              if s.media.reqs.any fun r => r.owner == .exec e.ref && r.slot == some q.d then s
              else s.addReq { readReq die u (s.unitMode die u) cls (.exec e.ref) [(d.nsid, lba, BitVec.ofNat 64 i)] with
                slot := some q.d }
def State.pumpExec (s : State) (e : ExecRec) : State := s.pump e 80

/-- STREAM_CREDIT: a destination's count for an OP 4 slot that sends to it (R186, R187). A cell's credit to the cipher lanes lets the flash
translation cells issue the reads of its execution's next blocks (R188). -/
def execStreamCredit (f : Flit) (s : State) : Answer :=
  let f := { f with kind := 1 }
  .next (s.onMesh f fun s =>
    if h : f.dst < 41 then
      let c : CellId := ⟨f.dst, h⟩
      let take := fun (q : SuSlot) =>
        if q.active && q.op == 4 && q.peer == f.src && q.target % 256 == f.sid && f.gen == (s.cell c).run.gen.toNat then
          { q with credit := max q.credit (64 * f.pos) } else q
      (s.modSu c 0 take).modSu c 1 take
    else if f.dst = 0x51 then
      match s.prog.execs.find? fun e => e.cell == f.src && e.step == 1 && !isBuiltin e.pind with
      | some e => s.pumpExec e
      | none => s
    else s)

/-- A block of an execution's input has come, or could not be recovered. -/
def State.execData (s : State) (r : Req) (c : CmdRef) (word : Nat → Option Block) : State :=
  let s := s.dropReq r.id
  match s.exec? c, r.blocks with
  | some e, b :: _ =>
    let cell : CellId := Fin.ofNat 41 e.cell
    if r.slot ≠ some ((s.cell cell).su 0).d then s
    else match word (b.2.2.toNat % 16) with
      | some w => (s.feed cell (blockBytes w)).pumpExec e
      | none => s.modSu cell 0 fun q => { q with active := false, err := true }
  | _, _ => s

/-! ## Merges (R207, R224) -/

/-- The old unit of a merge has been decrypted: the newest staged blocks replace its blocks and the unit is programmed (R207, R209). Where a
block that they do not cover cannot be read, the unit becomes fine, or with the promotion pool empty is merged with it marked; the block is
LOST (R224). A unit that has moved meanwhile is read again. -/
def State.merge (s : State) (r : Req) (word : Nat → Option Block) : State :=
  let s := (s.dropReq r.id).markIssued r.blocks false
  match r.blocks with
  | [] => s
  | b :: _ =>
    let n := b.1
    let start := b.2.1 - b.2.1 % 16
    let u := s.unitOf n start
    let s := (List.range 16).foldl (fun (s : State) i => match s.staged? n (start + i) with
      | some x => s.supersede n x.lba x.version false
      | none => s) s
    let mine := s.ftl.staging.filter fun x => x.nsid == n && x.lba / 16 == start / 16 && !x.evid && !x.issued
    let new := fun (i : Nat) => mine.find? fun x => x.lba == start + i
    match mine, s.leastDie with
    | x :: _, some d =>
      if s.coarse u ≠ r.old then s
      else
        let bad := (List.range 16).filter fun i => (new i).isNone && (word i).isNone
        if !bad.isEmpty && (s.promoteQuiet u 0).isSome then s.loseBlocks (bad.map fun i => (n, start + i)) 3
        else
          let data := (List.range 16).map fun i => match new i with
            | some x => x.data
            | none => (word i).getD 0
          let (mode, stream) := s.drainMode x.floor
          match s.programBlocks d r.cls .drain false stream mode n (some start) bad data (mine.map Staged.entry) r.old with
          | (true, s) => s.markIssued (mine.map Staged.entry) true
          | (false, s) => s
    | _, _ => s

/-- Block `i` of a page set that has been decrypted: none where its codeword could not be had (R237), or where the tag of a coarse unit
marks it as holding no data (R224). -/
def Req.block (r : Req) (words : Option (List Block)) (i : Nat) : Option Block :=
  match words, r.data with
  | some w, some p => if r.bad.contains i || (p.tag.kind == 0 && !p.tag.valid.testBit i) then none else some (w.getD i 0)
  | _, _ => none

/-- A page set has left its lane as plaintext, or nothing of it could be recovered. The 64 flits of a block for an execution that has ended carry a
GEN that is no longer current (R189). -/
def State.handOver (s : State) (r : Req) (words : Option (List Block)) : State :=
  let word := r.block words
  match r.owner with
  | .cmd c =>
    let got := r.blocks.map fun b => (b.1, b.2.1, word (b.2.2.toNat % 16))
    ((s.dropReq r.id).modCmd c fun k => { k with got := k.got ++ got }).readDone c
  | .exec c => s.execData r c word
  | .late => let s := s.dropReq r.id; if words.isSome then s.count 0x70 3 64 else s
  | .merge => s.merge r word
  | .reloc why die block => s.relocRead r why die block word
  | _ => s.dropReq r.id

/-! ## Path jobs (R308 to R311, R316 to R319) -/

/-- The key of each cipher block of a codeword: the tag's epoch up to SPLIT, the next one from there (R319). -/
def State.wordKey (s : State) (t : UnitTag) (w : Nat) : Nat → List Byte :=
  let a := leBytes 32 (s.dataKey t.keyNs t.epoch).toNat
  let b := if t.split < 4096 then leBytes 32 (s.dataKey t.keyNs (t.epoch + 1)).toNat else a
  fun j => if 256 * w + j < t.split then a else b

/-- Where a page set's counters come from: the location it was encrypted for, which a spare copy keeps (R253, R309). -/
def counterPlace (psBlk : Nat) (r : Req) (p : PageSet) : Nat × Nat :=
  match p.hdr.bind fun h => h.replaces with
  | some (d, b, k) => (d, b * psBlk + k)
  | none => (r.die, r.unit)

/-- A journal page's CRC over the bytes as stored (R214, R310). -/
def sealPage (t : UnitTag) (words : List Block) : List Block :=
  if t.kind = 2 ∨ t.kind = 3 then
    let bs := words.flatMap blockBytes
    pageWords (bs.take 60 ++ wordBytes (crc32c (bs.take 60 ++ [0, 0, 0, 0] ++ bs.drop 64)) ++ bs.drop 64)
  else words

/-- A page set that has been encrypted in full goes to the scheduler. -/
def State.encrypted (s : State) (r : Req) (p : PageSet) : State :=
  s.modReq r.id fun x => { x with
    data := some { p with words := sealPage p.tag p.words }, word := 16, lane := none, phase := .queued }

/-- Codeword `w` of a page set, encrypted under the keys of a tag; the header of a journal page stays as it is (R214, R310). -/
def State.cipherWord (s : State) (r : Req) (p : PageSet) (t : UnitTag) (w : Nat) : Block :=
  let plain := p.words.getD w 0
  let (d, u) := counterPlace s.psBlk r p
  let c := cryptWord (s.wordKey t w) t.erases d u w plain
  let head := BitVec.ofNat 32768 (2 ^ 512 - 1)
  if w = 0 ∧ (t.kind = 2 ∨ t.kind = 3) then (c &&& ~~~head) ||| (plain &&& head) else c

/-- One codeword is encrypted under the slot's present key, as far as its limit allows; the tag notes the epoch of the first block
and where the next one begins. -/
def State.encryptWord (s : State) (l : Nat) (r : Req) (p : PageSet) : State :=
  let n := p.tag.keyNs
  let k := s.key n
  let pos := match (s.lane l).path with
    | some h => h.pos
    | none => 0
  let at_ := 256 * r.word + pos
  let e := labelEpoch k.label
  let t := if at_ = 0 then { p.tag with epoch := e, split := 4096 }
    else if p.tag.split = 4096 ∧ e ≠ p.tag.epoch then { p.tag with split := at_ } else p.tag
  let left := s.blocksLeft n
  let page := cipPage l
  let p := { p with tag := t }
  if left < 256 - pos then
    let s := (s.useBlocks n left).modReq r.id fun x => { x with data := some p, lane := some l }
    let s := s.modLane l fun q => { q with path := some { req := r.id, word := r.word, pos := pos + left, slot := n } }
    ((s.count64 page 2 left).count page 6 1).raise page 4
  else
    let p := { p with words := p.words.set r.word (s.cipherWord r p t r.word) }
    let s := (s.useBlocks n (256 - pos)).modLane l fun q => { q with path := none }
    let s := ((s.count64 page 2 (256 - pos)).count page 4 1).setReg (CIP_POS l) 256
    if r.word = 15 then s.encrypted r p
    else s.modReq r.id fun x => { x with data := some p, word := r.word + 1, lane := some l }

/-- One codeword is decrypted under keys the lane derives from the tag; the last one hands the page set over. -/
def State.decryptWord (s : State) (l : Nat) (r : Req) (p : PageSet) : State :=
  let t := p.tag
  let (d, u) := counterPlace s.psBlk r p
  let plain := cryptWord (s.wordKey t r.word) t.erases d u r.word (p.words.getD r.word 0)
  let p := { p with words := p.words.set r.word plain }
  let page := cipPage l
  let mine := (t.keyNs, t.epoch, s.dataKey t.keyNs t.epoch) ::
    (if t.split < 4096 then [(t.keyNs, t.epoch + 1, s.dataKey t.keyNs (t.epoch + 1))] else [])
  let s := if r.word = 0 then s.modLane l fun q => { q with keys := (mine.filter (fun k => !q.keys.contains k) ++ q.keys).take 4 } else s
  let s := ((s.count64 page 2 256).count page 4 1).setReg (CIP_POS l) 256
  if r.word = 15 then s.handOver r (some p.words)
  else s.modReq r.id fun x => { x with data := some p, word := r.word + 1, lane := some l }

/-- Whether an execution has room for the block a request carries, at the next position of its input (R186). -/
def State.execTurn (s : State) (r : Req) : Bool :=
  match r.owner with
  | .exec c => match s.exec? c with
    | some e =>
      let q := (s.cell (Fin.ofNat 41 e.cell)).su 0
      r.slot != some q.d || decide (min (q.d + 4096) q.length ≤ q.c + sbSize)
    | none => true
  | _ => true

/-- Whether the next codeword of a request can pass: an encryption needs its slot's key, and a count below LIMIT once it has been held there. -/
def State.pathReady (s : State) (r : Req) (held : Bool) : Bool :=
  s.execTurn r && (match r.phase, r.data with
    | .cipher, some p => (s.key p.tag.keyNs).valid && !(held && s.blocksLeft p.tag.keyNs == 0)
    | .sensed, _ => true
    | _, _ => false)

/-- CIPHER_PATH_JOB: one 4 KiB codeword of a request on a lane, in codeword order on one lane. It waits while the lane is not
enabled, halted or taken, while KEY is under an alarm, for an encryption while the slot holds no key, and for a page set of the lane that
goes before it (R308). -/
def execCipherPathJob (lane : Fin 16) (req : Nat) (s : State) : Answer :=
  let l := lane.val
  let ln := s.lane l
  match s.req? req with
  | none => .next s
  | some r =>
    let free := ln.job.isNone && (match ln.path with
      | some h => h.req == req
      | none => true) && (r.lane == none || r.lane == some l)
    let first := !(s.media.reqs.any fun x => x.lane == some l && x.before r && s.pathReady x false)
    if !s.pageOn (cipPage l) || !s.regBit (CIP_CTRL l) 0 || s.regBit (CIP_CTRL l) 1 || s.regBit KEY_STAT 3 || !free || !first ||
        !s.pathReady r ln.path.isSome then .next s
    else match r.phase, r.data with
      | .cipher, some p =>
        match s.useKey p.tag.keyNs with
          | (false, s) => .next s
          | (true, s) => .next (s.encryptWord l r p)
      | .sensed, some p => .next (s.decryptWord l r p)
      | .sensed, none => .next (s.handOver r none)
      | _, _ => .next s

end Sys2Proof.Machine
end

