-- ==== Sys2Proof/Machine/HostIo.lean ====
section
/-!
DEFINITION. The I/O commands of the host (R81, R84 to R88, R96, R203, R207, R222, R482): the checks before admission in their
order, what a write makes of the units it touches, and how a command starts and ends.
-/

namespace Sys2Proof.Machine

/-! ## The checks of R84: rows in order, the first that holds decides -/

/-- A row: the status with which a command ends, and the state then. -/
abbrev Row := State → Option (Status × State)

def rowIf (b : Bool) (st : Status) : Row := fun s => if b then some (st, s) else none

def State.firstRow (s : State) : List Row → Option (Status × State)
  | [] => none
  | r :: rest => match r s with
    | some x => some x
    | none => s.firstRow rest

/-- The fields of I/O commands. -/
def NvmeCmd.slba (c : NvmeCmd) : Nat := c.cdw10.toNat + 2 ^ 32 * c.cdw11.toNat
def NvmeCmd.nlb (c : NvmeCmd) : Nat := bits c.cdw12 15 0 + 1
/-- DESIGN CHOICE (log 107): a directive type other than 0 is an option refused. -/
def NvmeCmd.directive (c : NvmeCmd) : Bool := bits c.cdw12 23 20 != 0

/-- The kind of a namespace that is attached to a function (R95, R101); without attached dies there is none (R262). -/
def State.kindFor (s : State) (f : Fun) (n : Nat) : Option NsKind :=
  if s.media.bare then none
  else if n = 1 then (if s.host.evid.cap ≠ 0 ∧ s.host.evid.attached.contains f = true then some .nvm else none)
  else match s.ns? n with
    | some x => if x.owner = some f then some x.kind else none
    | none => none

/-- An option the device refuses: a fused operation, or one named by the command (R78, R80, R81). -/
def optionRow (c : NvmeCmd) (bad : Bool) : Row := rowIf (c.fused || bad) stField

/-- The namespace is attached to the function, and is of the command's command set (R102). -/
def nsRow (c : NvmeCmd) (k : NsKind) : Row := fun s =>
  match s.kindFor c.fn c.nsid with
  | none => some (stNamespace, s)
  | some j => if j = k then none else some (stOpcode, s)

/-- MDTS: 2 MiB. -/
def mdtsRow (len : Nat) : Row := rowIf (decide (2097152 < len)) stField

/-- Every block lies in the namespace. -/
def lbaRow (n : Nat) (l : List Range) : Row := fun s => rowIf (l.any fun x => decide (s.capOf n < x.lba + x.nlb)) stLba s

/-- The data pointer names a transfer of `len` bytes. -/
def ptrBad (d : DataPtr) (len : Nat) : Option Status :=
  match d with
  | .prp pages => if pages.any fun a => a.toNat % 4 != 0 then some stPrpOffset else none
  | .sgl ds types =>
    if types.any fun t => t != 0 && t != 2 && t != 3 then some stSglType
    else if ds.foldl (fun a x => a + x.2) 0 < len then some stSglLength
    else none
def ptrRow (c : NvmeCmd) (len : Nat) : Row := fun s => (ptrBad c.dptr len).map fun st => (st, s)

/-- The fetch of a list in host memory. -/
def fetchRow (c : NvmeCmd) : Row := fun s =>
  if !c.xfer then some (stTransfer, s.xferFail c.poison)
  else match s.xferOk with
    | (false, s) => some (stTransfer, s)
    | (true, _) => none

/-- A deferred write fault is pending for the function and namespace; one refusal reports every entry (R93). -/
def deferRow (c : NvmeCmd) : Row := fun s =>
  let mine := fun (e : DwfEntry) => !e.told && e.nsid == c.nsid
  match ((s.logsOf c.fn).dwf.filter mine).getLast? with
  | none => none
  | some e => some (stDeferred e.seq, s.modLogs c.fn fun l =>
      { l with dwf := l.dwf.map fun e => { e with told := e.told || mine e } })

/-- A row of R96. -/
def evidRow (c : NvmeCmd) (why : Nat) (p : State → Bool) : Row := fun s =>
  if c.nsid = 1 ∧ p s = true then some (stAppend why, s) else none

/-- Row 5 of R96: a block at or above the published point. -/
def publishedRow (c : NvmeCmd) (l : List Range) : Row :=
  evidRow c 5 fun s => l.any fun x => decide (s.host.evid.published < x.lba + x.nlb)

/-- Row 6 of R96: an append past the capacity, or one that a force calls so (R484). -/
def capacityRow (c : NvmeCmd) (nlb : Nat) : Row := fun s =>
  if c.nsid ≠ 1 then none
  else if s.host.evid.cap < s.host.evid.append + nlb ∨ s.armed 0x010 3 = true then
    some (stAppend 6, (s.disarm 0x010 3).raise 0x010 3)
  else none

/-- The evidence region has no free space, its spare pool is empty and no native block may be drawn (R230, R241). -/
def State.regionFull (s : State) : Bool :=
  !s.mayOpen stEvid .pslc && !(s.ftl.map.blocks.any fun x => x.2.stream == stEvid && x.2.state == 1) && s.evidSource.isNone

/-- The namespace is read-only: a general one with the general pool and spares exhausted, NSID 1 with its reserve exhausted
(R241). -/
def protectRow (c : NvmeCmd) : Row := fun s =>
  if c.nsid = 1 then
    if s.regBit MC_STAT 3 || s.regionFull then some (stProtected, s.setField MC_STAT 3 3 1) else none
  else rowIf (s.regBit MC_STAT 2) stProtected s

/-! ## What a write makes of the units it touches (R203, R204, R207) -/

/-- The bytes of the program charge, the units that count a sub-unit rewrite, those promoted, and the merges: the old unit's
die and mode with the covered bytes. -/
structure WritePlan where
  bytes   : Nat
  times   : List Nat
  promote : List Nat
  merges  : List (Nat × Mode × Nat)

/-- The rewrites of a unit within the last 2 s. -/
def State.recent (s : State) (u : Nat) : List Nat :=
  (s.ftl.rewrites.get (fun _ => []) u).filter fun t => decide (s.ns - t ≤ 2000000000)

/-- What a write of a range makes of its units. With `deac`, a Write Zeroes with deallocation, whole units are deallocated, and parts count as
no sub-unit rewrite (R203, R222). -/
def State.planWrite (s : State) (n lba nlb : Nat) (deac : Bool) : WritePlan :=
  let last := lba + nlb
  (List.range ((last + 15) / 16 - lba / 16)).foldl (fun (p : WritePlan) j =>
    let k := lba / 16 + j
    let u := s.baseOf n + k
    let covered := 4096 * (min last (16 * k + 16) - max lba (16 * k))
    let e := s.coarse u
    if covered = 65536 && deac then p
    else if covered = 65536 || bit e 29 then { p with bytes := p.bytes + covered }
    else if bit e 30 then
      let p := if deac then p else { p with times := p.times ++ [u] }
      if !deac ∧ 3 ≤ (s.recent u).length ∧ s.poolUsed 0 + p.promote.length < (poolRange 0).2 then
        { p with bytes := p.bytes + covered, promote := p.promote ++ [u] }
      else
        { p with bytes := p.bytes + 65536,
                 merges := p.merges ++ [(bits e 28 22, s.unitMode (bits e 28 22) (bits e 21 0), covered)] }
    else { p with bytes := p.bytes + 65536 }) { bytes := 0, times := [], promote := [], merges := [] }

/-- The plan takes effect at admission: rewrites are noted, units promoted, merges charged at the write's class. Evidential writes never merge
(R206). -/
def State.applyPlan (s : State) (r : CmdRef) (n : Nat) (p : WritePlan) : State :=
  match s.cmd? r with
  | none => s
  | some k =>
    if k.cls = 0 then s else
    let s := p.times.foldl (fun (s : State) u =>
      let l := (s.ns :: s.recent u).take 3
      { s with ftl := { s.ftl with rewrites := s.ftl.rewrites.set (fun _ => []) u l } }) s
    let s := p.promote.foldl (fun (s : State) u => (s.promote n u 0).2) s
    p.merges.foldl (fun (s : State) m =>
      let s := s.charge (.merge r) k.cls (.die m.1) (s.tr m.2.1 + s.xfer 65536 31)
      let s := s.charge (.merge r) k.cls (.chan (m.1 / 8)) (s.xfer 65536 31)
      s.charge (.merge r) k.cls .cipher (s.xfer (131072 - m.2.2) 33)) s

/-! ## Starting a command (R85) -/

/-- A Memory Read: a poisoned line fails the transfer (R334). -/
def State.memRead (s : State) (k : Cmd) : State :=
  let n := match k.reads with
    | x :: _ => x.nsid
    | [] => 0
  let ((bs, bad), s) := s.peek (s.slmBase n + k.slma) k.bytes
  if bad then s.xferFail.finish k.ref stTransfer
  else match s.xferOk with
    | (false, s) => s.finish k.ref stTransfer
    | (true, s) => (s.hostWrite k.ref.fn k.segs bs).finish k.ref stOk

/-- Zeros are written: the whole units of a range are deallocated when `slma` is 1 (R222). More than 128 MiB of zeros enter staging in
pieces. -/
def State.writeZeros (s : State) (k : Cmd) : State :=
  match k.writes with
  | [] => s.finish k.ref stOk
  | w :: _ =>
    let last := w.lba + w.nlb
    let a := (w.lba + 15) / 16 * 16
    let b := last / 16 * 16
    if k.slma = 1 ∧ a < b then
      if s.hasRoom (4096 * (a - w.lba + (last - b))) then
        let s := s.deallocate w.nsid a (b - a)
        (s.stageParts k.ref false [(w.nsid, w.lba, List.replicate (a - w.lba) 0),
          (w.nsid, b, List.replicate (last - b) 0)]).finish k.ref stOk
      else s.modCmd k.ref fun k => { k with phase := .room }
    else if w.nlb ≤ 32768 then s.landWrite k.ref (List.replicate w.nlb 0)
    else if s.hasRoom 134217728 then
      ((s.stageParts k.ref false [(w.nsid, w.lba, List.replicate 32768 0)]).modCmd k.ref fun k =>
        { k with phase := .room, data := [], writes := [{ w with lba := w.lba + 32768, nlb := w.nlb - 32768 }] })
    else s.modCmd k.ref fun k => { k with phase := .room }

/-- A write for which staging had no room is presented again (R210). -/
def State.landRoom (s : State) (k : Cmd) : State :=
  if k.kind = .writeZeroes then s.writeZeros k else s.landWrite k.ref k.data

/-- A Flush marks its set: every acknowledged write of the function in its namespace that is not yet durable, and the newest
C1h entry that records one of its writes (R88). -/
def State.markFlush (s : State) (k : Cmd) : State :=
  let mine := fun (n : Nat) => k.slma == 0 || n == k.slma
  let set := s.ftl.staging.filter fun x => x.fn == k.ref.fn && !x.evid && mine x.nsid
  let fault := ((s.logsOf k.ref.fn).dwf.filter fun e => mine e.nsid).getLast?.map fun e => e.seq
  let old := ((s.logsOf k.ref.fn).dwf.filter fun e => mine e.nsid).flatMap fun e =>
    (List.range e.nlb).map fun i => (e.nsid, e.slba + i, (none : Option Block))
  s.modCmd k.ref fun k => { k with
    need := set.map fun x => x.version.toNat, got := old ++ set.map fun x => (x.nsid, x.lba, none), fault := fault }

/-- What an admitted command does first; a command that takes data from the host sends its first data request (R89). -/
def State.begin (s : State) (r : CmdRef) : State :=
  match s.cmd? r with
  | none => s
  | some k =>
    let on := fun (p : CmdPhase) => s.modCmd r fun k => { k with phase := p, started := k.started || k.fetches }
    match k.kind with
    | .read | .verify | .copy | .compare => (on .working).beginRead r k.cls k.reads
    | .write | .append | .memWrite => on .awaitData
    | .writeZeroes => (on .working).writeZeros k
    | .dsm => (k.writes.foldl (fun (s : State) w => s.deallocate w.nsid w.lba w.nlb) (on .working)).finish r stOk
    | .flush => (on .working).settle
    | .memRead => (on .working).memRead k
    | .execute | .admin => on .working

/-- An admitted command starts at once, or waits for the earlier commands of R85. -/
def State.kickOff (s : State) (r : CmdRef) : State :=
  match s.cmd? r with
  | none => s
  | some k => if (s.waitsFor k).isEmpty then s.begin r else s.modCmd r fun k => { k with phase := .held }

/-! ## The commands -/

/-- The record of an I/O command. -/
def NvmeCmd.record (c : NvmeCmd) (k : CmdKind) (reads writes : List Range) (len : Nat) : Cmd :=
  { Cmd.plain c.ref 0 with
    kind := k, reads := reads, writes := writes, bytes := len, segs := ptrPieces c.dptr len
    started := match k with
      | .read | .write | .append | .compare | .memRead | .memWrite => false
      | _ => true }

/-- What an I/O command asks of the device: its record, how class and deadline are resolved, the rows of its checks, its demand and tail,
the bytes of its program charge and of its data, and what admission makes of it. -/
structure IoJob where
  k    : Cmd
  r    : Option Resolved
  rows : List Row
  d    : Demand
  tail : Class → Rat
  prog : Nat
  len  : Nat
  ok   : State → State

/-- A command through the rows of R84 and then Forecast (R54). -/
def State.ioCommand (s : State) (j : IoJob) (from' : Nat) : State :=
  match s.firstRow j.rows with
  | some (st, s) => s.finish j.k.ref st
  | none => s.admission j.k j.r j.d j.tail j.prog j.len from' (fun _ => none) fun s => (j.ok s).kickOff j.k.ref

/-- A command with its queue. -/
def onQueue (c : NvmeCmd) (s : State) (f : SQueue → Nat → State → State) : Answer :=
  onIo c s fun t s => match (s.ctrl c.fn).sq? c.sqid with
    | some q => f q t s
    | none => s

/-- An I/O command of an I/O queue: fetched, then checked and admitted. -/
def onJob (c : NvmeCmd) (s : State) (job : NvmeCmd → SQueue → State → IoJob) : Answer :=
  onQueue c s fun q t s => s.ioCommand (job c q s) t

/-- The rows common to Read, Compare and Verify. -/
def readRows (c : NvmeCmd) (len : Nat) (l : List Range) : List Row :=
  [optionRow c false, nsRow c .nvm, mdtsRow len, lbaRow c.nsid l] ++ (if len = 0 then [] else [ptrRow c len]) ++
    [deferRow c, publishedRow c l]

/-- The demand of a read of ranges (R59). -/
def State.readDemand (s : State) (l : List Range) (toHost : Bool) : Demand :=
  let len := 4096 * l.foldl (fun a x => a + x.nlb) 0
  { Demand.none with
    units := s.readUnits l, hostIn := if toHost then 0 else len, hostOut := if toHost then len else 0, cipher := len }

/-- What a Read asks. -/
def readJob (c : NvmeCmd) (q : SQueue) (s : State) : IoJob :=
  let l := [Range.mk c.nsid c.slba c.nlb]
  let len := 4096 * c.nlb
  let d := s.readDemand l true
  { k := { c.record .read l [] len with dies := unitDies d.units }, r := resolve q c.cdw3 true (decide (len ≤ 65536))
    rows := readRows c len l, d := d, tail := fun cls => s.tailRead cls d.units len, prog := 0, len := len, ok := id }

/-- READ. -/
def execRead (c : NvmeCmd) (s : State) : Answer := onJob c s readJob

/-- What a Compare asks. -/
def compareJob (c : NvmeCmd) (q : SQueue) (s : State) : IoJob :=
  let l := [Range.mk c.nsid c.slba c.nlb]
  let len := 4096 * c.nlb
  let d := s.readDemand l false
  { k := { c.record .compare l [] len with dies := unitDies d.units }, r := resolve q c.cdw3 true (decide (len ≤ 65536))
    rows := readRows c len l, d := d, tail := fun cls => s.tailRead cls d.units len, prog := 0, len := len, ok := id }

/-- COMPARE. -/
def execCompare (c : NvmeCmd) (s : State) : Answer := onJob c s compareJob

/-- What a Verify asks: it carries no tag, and it moves no data on the host link (R51, R81). -/
def verifyJob (c : NvmeCmd) (q : SQueue) (s : State) : IoJob :=
  let l := [Range.mk c.nsid c.slba c.nlb]
  let d := s.readDemand l true
  { k := c.record .verify l [] 0, r := resolve q c.cdw3 false false, rows := readRows c 0 l, d := d
    tail := fun cls => s.tailVerify cls d.units, prog := 0, len := 4096 * c.nlb, ok := id }

/-- VERIFY. -/
def execVerify (c : NvmeCmd) (s : State) : Answer := onJob c s verifyJob

/-- The class with which a command reaches the evidence rows. -/
def classOf (r : Option Resolved) (c : NvmeCmd) : Class := match r with
  | some r => r.cls
  | none => Fin.ofNat 4 (bits c.cdw3 1 0)

/-- An append takes the blocks at the append point (R95, R96). -/
def State.takeAppend (s : State) (r : CmdRef) (nlb : Nat) : State :=
  let e := s.host.evid
  let rec_ : AppendRec := { lba := e.append, nlb := nlb, who := some r, zero := false, seq := (s.cmd? r).elim 0 Cmd.seq, die := none }
  let host := { s.host with evid := { e with append := e.append + nlb, open_ := e.open_ ++ [rec_], hostCnt := e.hostCnt + 1 } }
  ({ s with host := host }).modCmd r fun k => { k with writes := [Range.mk 1 e.append nlb] }

/-- What a Write asks: an append to NSID 1, or a write of a general namespace. -/
def writeJob (c : NvmeCmd) (q : SQueue) (s : State) : IoJob :=
  let len := 4096 * c.nlb
  let r := resolve q c.cdw3 true (decide (len ≤ 65536))
  let d := { Demand.none with hostIn := len, cipher := len, stage := len }
  let tail := fun (_ : Class) => s.tailWrite
  if c.nsid = 1 then
    { k := c.record .append [] [Range.mk 1 s.host.evid.append c.nlb] len, r := r
      rows := [optionRow c c.directive, nsRow c .nvm, mdtsRow len, ptrRow c len, deferRow c,
        evidRow c 1 fun s => decide (c.slba ≠ s.host.evid.append ∧ c.slba ≠ 2 ^ 64 - 1),
        evidRow c 3 fun _ => decide (classOf r c ≠ 0), capacityRow c c.nlb, protectRow c]
      d := d, tail := tail, prog := 0, len := len, ok := fun s => s.takeAppend c.ref c.nlb }
  else
    let w := [Range.mk c.nsid c.slba c.nlb]
    let p := s.planWrite c.nsid c.slba c.nlb false
    { k := c.record .write [] w len, r := r
      rows := [optionRow c c.directive, nsRow c .nvm, mdtsRow len, lbaRow c.nsid w, ptrRow c len, deferRow c, protectRow c]
      d := d, tail := tail, prog := p.bytes, len := len, ok := fun s => s.applyPlan c.ref c.nsid p }

/-- WRITE. -/
def execWrite (c : NvmeCmd) (s : State) : Answer := onJob c s writeJob

/-- What a Write Zeroes asks: no tag, nothing on the host link. -/
def writeZeroesJob (c : NvmeCmd) (q : SQueue) (s : State) : IoJob :=
  let w := [Range.mk c.nsid c.slba c.nlb]
  let len := 4096 * c.nlb
  let p := s.planWrite c.nsid c.slba c.nlb (bit c.cdw12 25)
  { k := { c.record .writeZeroes [] w 0 with slma := (bit c.cdw12 25).toNat }, r := resolve q c.cdw3 false false
    rows := [optionRow c false, nsRow c .nvm, lbaRow c.nsid w, deferRow c, evidRow c 2 fun _ => true, protectRow c]
    d := { Demand.none with cipher := len, stage := len }, tail := fun _ => s.tailWrite, prog := p.bytes, len := len
    ok := fun s => s.applyPlan c.ref c.nsid p }

/-- WRITE_ZEROES. -/
def execWriteZeroes (c : NvmeCmd) (s : State) : Answer := onJob c s writeZeroesJob

/-- The ranges of a Dataset Management: 16 bytes each, the length in bytes 4 to 7, the first block in bytes 8 to 15. -/
def dsmRanges (n count : Nat) (bs : List Byte) : List Range :=
  (List.range count).map fun i => Range.mk n (leNat (sub bs (16 * i + 8) 8)) (leNat (sub bs (16 * i + 4) 4))

/-- What a Dataset Management asks: with AD = 0 it succeeds without effect. DESIGN CHOICE (log 89): it demands no resource and has the
tail of a write, since R59 and R61 give it none. -/
def dsmJob (c : NvmeCmd) (q : SQueue) (s : State) : IoJob :=
  let count := bits c.cdw10 7 0 + 1
  let l := dsmRanges c.nsid count c.data
  let ad := bit c.cdw11 2
  { k := c.record .dsm [] (if ad then l else []) 0, r := resolve q c.cdw3 false false
    rows := [optionRow c false, nsRow c .nvm, ptrRow c (16 * count), fetchRow c, lbaRow c.nsid l, deferRow c,
      evidRow c 2 fun _ => true] ++ (if ad then [protectRow c] else [])
    d := .none, tail := fun _ => s.tailWrite, prog := 0, len := 0, ok := id }

/-- DATASET_MANAGEMENT. -/
def execDatasetManagement (c : NvmeCmd) (s : State) : Answer := onJob c s dsmJob

/-- The source ranges of a Copy of format 0: 32 bytes each, the first block in bytes 8 to 15, the number less one in bytes 16
and 17. -/
def copyRanges (n count : Nat) (bs : List Byte) : List Range :=
  (List.range count).map fun i => Range.mk n (leNat (sub bs (32 * i + 8) 8)) (leNat (sub bs (32 * i + 16) 2) + 1)

/-- What a Copy asks. -/
def copyJob (c : NvmeCmd) (q : SQueue) (s : State) : IoJob :=
  let count := bits c.cdw12 7 0 + 1
  let l := copyRanges c.nsid count c.data
  let nlb := l.foldl (fun a x => a + x.nlb) 0
  let w := [Range.mk c.nsid c.slba nlb]
  let len := 4096 * nlb
  let p := s.planWrite c.nsid c.slba nlb false
  let d := { Demand.none with units := s.readUnits l, cipher := 2 * len, stage := len }
  { k := { c.record .copy l w 0 with dies := unitDies d.units }, r := resolve q c.cdw3 true (decide (len ≤ 65536))
    rows := [optionRow c c.directive, nsRow c .nvm, rowIf (bits c.cdw12 11 8 != 0) stField, ptrRow c (32 * count),
      fetchRow c, rowIf (decide (128 < count ∨ 512 < nlb) || l.any fun x => decide (512 < x.nlb)) stSizeLimit,
      lbaRow c.nsid (l ++ w), deferRow c, evidRow c 2 fun _ => true, protectRow c]
    d := d, tail := fun cls => s.tailCopy cls d.units, prog := p.bytes, len := len, ok := fun s => s.applyPlan c.ref c.nsid p }

/-- COPY. -/
def execCopy (c : NvmeCmd) (s : State) : Answer := onJob c s copyJob

/-- What a Flush asks: of one namespace, or with NSID FFFFFFFFh of every namespace of the function. -/
def flushJob (c : NvmeCmd) (q : SQueue) (s : State) : IoJob :=
  let every := decide (c.nsid = 0xFFFFFFFF)
  { k := { c.record .flush [] [] 0 with slma := if every then 0 else c.nsid }, r := resolve q c.cdw3 false false
    rows := [optionRow c false] ++ (if every then [] else [nsRow c .nvm, deferRow c])
    d := { Demand.none with flush := true }, tail := fun _ => s.tailWrite, prog := 0, len := 0
    ok := fun s => match s.cmd? c.ref with
      | some k => s.markFlush k
      | none => s }

/-- FLUSH. -/
def execFlush (c : NvmeCmd) (s : State) : Answer := onJob c s flushJob

/-! ## Subsystem Local Memory (R102) -/

/-- The 4 KiB granules of a byte range. -/
def granules (n off len : Nat) : List Range :=
  if len = 0 then [] else [Range.mk n (off / 4096) ((off + len - 1) / 4096 - off / 4096 + 1)]

/-- What a Memory Read or Write asks: the byte offset in dwords 10 and 11, the length in bytes in dword 12 (log 38). -/
def slmJob (write : Bool) (c : NvmeCmd) (q : SQueue) (s : State) : IoJob :=
  let off := c.slba
  let len := c.cdw12.toNat
  let g := granules c.nsid off len
  let cap := match s.ns? c.nsid with
    | some x => x.cap
    | none => 0
  { k := { c.record (if write then .memWrite else .memRead) (if write then [] else g) (if write then g else []) len with slma := off }
    r := resolve q c.cdw3 false false
    rows := [optionRow c false, nsRow c .slm, mdtsRow len, rowIf (decide (cap < off + len)) stLba, ptrRow c len, deferRow c]
    d := { Demand.none with hostIn := if write then len else 0, hostOut := if write then 0 else len, dram := len }
    tail := fun _ => s.tailSlm, prog := 0, len := len, ok := id }

def execMemoryRead (c : NvmeCmd) (s : State) : Answer := onJob c s (slmJob false)
def execMemoryWrite (c : NvmeCmd) (s : State) : Answer := onJob c s (slmJob true)

/-! ## Host data and its failure (R84, R210, R482) -/

/-- An append that is dropped with none of its blocks written leaves them to be filled with zeros. -/
def State.dropAppend (s : State) (r : CmdRef) : State :=
  let l := s.host.evid.open_.map fun (x : AppendRec) => if x.who = some r then { x with who := none } else x
  { s with host := { s.host with evid := { s.host.evid with open_ := l } } }

/-- A transfer has failed: nothing is changed by the command, and it ends. -/
def State.failTransfer (s : State) (r : CmdRef) (poisoned : Bool) : State := ((s.xferFail poisoned).dropAppend r).finish r stTransfer

/-- HOST_WRITE_DATA_RECEIVED: all data of a write, an append, a Compare or a Memory Write, as whole blocks. -/
def execHostWriteDataReceived (c : CmdRef) (bs : List Block) (s : State) : Answer :=
  match s.cmd? c with
  | none => .next s
  | some k =>
    if bs.length ≠ (k.bytes + 4095) / 4096 then .next s
    else if k.phase = .awaitData then
      match s.xferOk with
      | (false, s) => .next ((s.dropAppend c).finish c stTransfer)
      | (true, s) =>
        if k.kind = .memWrite then
          let n := match k.writes with
            | x :: _ => x.nsid
            | [] => 0
          .next ((s.poke (s.slmBase n + k.slma) ((bs.flatMap blockBytes).take k.bytes)).finish c stOk)
        else .next (s.landWrite c bs)
    else if k.phase = .working ∧ k.kind = .compare ∧ k.landed = false then
      match s.xferOk with
      | (false, s) => .next (s.finish c stTransfer)
      | (true, s) => .next ((s.modCmd c fun k => { k with data := bs, landed := true }).readDone c)
    else .next s

/-- HOST_TRANSFER_FAILURE: of the data of a write, an append, a Memory Write or a Compare, or of a Read's or a Memory Read's data. A transfer to the host fails before its completion is posted. -/
def execHostTransferFailure (c : FailedTransfer) (s : State) : Answer :=
  match s.cmd? c.ref with
  | none => .next s
  | some k =>
    if k.awaits ∨ k.phase = .working ∧ k.kind = .read then .next (s.failTransfer c.ref c.poisoned)
    else if k.phase = .done stOk ∧ (k.kind = .read ∨ k.kind = .memRead) then
      .next (((s.xferFail c.poisoned).logStatus c.ref stTransfer).modCmd c.ref fun k => { k with phase := .done stTransfer })
    else .next s

/-- The reference under which the zeros of a dropped append are staged: no queue has that identifier. -/
def zeroRef : CmdRef := ⟨0, 0x10000, 0⟩

/-- The blocks of a dropped append are programmed with zeros on a quiet die (R482). -/
def State.zeroFill (s : State) (x : AppendRec) (d : Nat) : State :=
  let w := s.ftl.wseq.setWidth 32
  let t := (List.range x.nlb).foldl (fun (t : State) i => t.stage 1 (x.lba + i) 0 zeroRef w true) s
  let bs := (t.ftl.staging.filter fun y => y.ref == zeroRef && !y.issued).map Staged.entry
  let whole := decide (x.nlb = 16 ∧ x.lba % 16 = 0)
  match t.programBlocks d 0 .zero true stEvid .pslc 1 (if whole then some x.lba else none) [] (List.replicate 16 0) bs 0 with
  | (false, _) => s
  | (true, t) =>
    let l := t.host.evid.open_.map fun (y : AppendRec) => if y.lba = x.lba then { y with zero := true, die := some d } else y
    let host := { t.host with evid := { t.host.evid with open_ := l } }
    ({ t with host := host }.markIssued bs true).space [d]

/-- DROPPED_APPEND_ZERO_FILL, for the first dropped append. -/
def execDroppedAppendZeroFill (s : State) : Answer :=
  match s.host.evid.open_.find? fun x => x.who.isNone && !x.zero, s.quietDie with
  | some x, some d => .next (s.zeroFill x d)
  | _, _ => .next s

end Sys2Proof.Machine
end

