-- ==== Sys2Proof/Machine/Programs.lean ====
section
/-!
DEFINITION. Computational programs (05): slots and .kco objects (R103 to R106), memory range sets (R107), contracts (R110, R117),
parameter blocks (R118 to R122), and the checks and admission of Execute Program (R111, R112, R114).
-/

namespace Sys2Proof.Machine

/-! ## Slots and objects (R103 to R106) -/

/-- The computational programs namespace of a function. -/
def State.cpOf (s : State) (f : Fun) : Option Nat :=
  (s.host.nss.find? fun x => x.kind == .cp && x.owner == some f).map fun x => x.nsid

/-- The image in a function's slot; none when the slot is empty. -/
def State.slotImage (s : State) (f : Fun) (i : Nat) : Option (SMap Byte) :=
  (s.prog.slots.find? fun x => x.1 == f && x.2.1 == i).map fun x => x.2.2
def State.setSlot (s : State) (f : Fun) (i : Nat) (m : Option (SMap Byte)) : State :=
  let rest := s.prog.slots.filter fun x => !(x.1 == f && x.2.1 == i)
  { s with prog := { s.prog with slots := match m with
    | some m => rest ++ [(f, i, m)]
    | none => rest } }

/-- Whether an index is one of a downloadable slot. -/
def isSlot (i : Nat) : Bool := decide (16 ≤ i ∧ i ≤ 23)

/-- Whether an index is active: the built-in programs are unless they were deactivated (R103). -/
def State.progActive (s : State) (f : Fun) (i : Nat) : Bool :=
  let listed := s.prog.active.contains (f, i)
  if isBuiltin i then !listed else isSlot i && listed && (s.slotImage f i).isSome
def State.setActive (s : State) (f : Fun) (i : Nat) (on : Bool) : State :=
  let rest := s.prog.active.filter fun x => x != (f, i)
  { s with prog := { s.prog with active := if on != isBuiltin i then rest ++ [(f, i)] else rest } }

/-- The header of an object (R106). -/
def kcoOf (m : SMap Byte) : Kco :=
  let f := fun (a n : Nat) => leNat (loadBytes m a n)
  { uses := f 6 2, entry := f 24 2, codeWords := f 28 4, dataBase := f 32 4, dataWords := f 36 4, spInit := f 40 2,
    spLim := f 42 2, cpb := f 44 4, fixed := f 48 4, opb := f 52 4, ofixed := f 56 4, paramMax := f 60 2 }

/-- The bytes of an object. -/
def Kco.size (k : Kco) : Nat := 128 + 2 * k.codeWords + 8 * k.dataWords

/-- A code word, and a data word as its value, tag and remaining bits. -/
def Kco.code (k : Kco) (m : SMap Byte) (i : Nat) : Nat := if i < k.codeWords then leNat (loadBytes m (128 + 2 * i) 2) else 0
def Kco.dat (k : Kco) (m : SMap Byte) (i : Nat) : Nat := leNat (loadBytes m (128 + 2 * k.codeWords + 8 * i) 8)

/-- What FEAT0 to FEAT3 of a compute cell show (R150). -/
def featWords : List Nat := [0x000000FF, 0x000087FF, 0x00102010, 0]

/-- Whether a data word is one that an object may hold: a tag of data, the rest of its eight bytes 0, a PTR within bounds. -/
def okDatum (v : Nat) : Bool :=
  let t := v / 2 ^ 32
  let w := BitVec.ofNat 32 v
  (t == 0 || t == 1 || t == 2 || t == 3 || t == 4 || t == 5 || t == 6) &&
    (t != 6 || decide (ptrLimit w ≤ 32768 ∧ ptrBase w ≤ ptrLimit w))

/-- The checks of activation (R106). -/
def kcoValid (m : SMap Byte) : Bool :=
  let k := kcoOf m
  let zero := fun (a n : Nat) => leNat (loadBytes m a n) == 0
  leNat (loadBytes m 0 4) == 0x314F434B && leNat (loadBytes m 4 2) == 1 && decide (k.uses < 32) &&
    (List.range 4).all (fun i => leNat (loadBytes m (8 + 4 * i) 4) &&& (0xFFFFFFFF - featWords.getD i 0) == 0) &&
    decide (64 ≤ k.entry ∧ k.entry ≤ 16383) && decide (1 ≤ k.codeWords ∧ k.codeWords ≤ 16320) &&
    decide (k.dataBase ≤ 32767) && decide (k.dataBase + k.dataWords + k.paramMax / 4 ≤ 32768) &&
    decide (k.spLim ≤ k.spInit) && decide (k.paramMax ≤ 4096) && decide (k.size ≤ 294912) &&
    zero 26 2 && zero 62 2 && zero 96 32 &&
    (List.range k.codeWords).all (fun i => decide (k.code m i < 16384)) &&
    (List.range k.dataWords).all (fun i => okDatum (k.dat m i)) &&
    digest 0 (loadBytes m 0 64 ++ List.replicate 32 0 ++ loadBytes m 96 (k.size - 96)) == loadBytes m 64 32

/-- A command that manages programs names the function's computational programs namespace. -/
def onPrograms (c : NvmeCmd) (s : State) (f : State → State) : Answer :=
  onAdmin c s fun s => if s.cpOf c.fn = some c.nsid then f s else s.finish c.ref stNamespace

/-- LOAD_PROGRAM: index in dword 10 bits [15:0], unload in bit 24, bytes in dword 12, offset in dword 13 (log 39). -/
def execLoadProgram (c : NvmeCmd) (s : State) : Answer :=
  onPrograms c s fun s =>
    let i := bits c.cdw10 15 0
    let n := c.cdw12.toNat
    let off := c.cdw13.toNat
    if !isSlot i then s.finish c.ref stField
    else if s.progActive c.fn i then s.finish c.ref stSequence
    else if bit c.cdw10 24 then (s.setSlot c.fn i none).finish c.ref stOk
    else if n % 4 ≠ 0 ∨ off % 4 ≠ 0 ∨ 294912 < off + n then s.finish c.ref stField
    else match ptrBad c.dptr n with
      | some st => s.finish c.ref st
      | none =>
        if !c.xfer then (s.xferFail c.poison).finish c.ref stTransfer
        else match s.xferOk with
          | (false, s) => s.finish c.ref stTransfer
          | (true, s) => (s.setSlot c.fn i (some (storeBytes ((s.slotImage c.fn i).getD []) off (sub c.data 0 n)))).finish c.ref stOk

/-- PROGRAM_ACTIVATION_MANAGEMENT: index in dword 10 bits [15:0], 1 activates and 0 deactivates in bits [19:16] (log 39). -/
def execProgramActivationManagement (c : NvmeCmd) (s : State) : Answer :=
  onPrograms c s fun s =>
    let i := bits c.cdw10 15 0
    let sel := bits c.cdw10 19 16
    if 1 < sel ∨ (isBuiltin i || isSlot i) = false then s.finish c.ref stField
    else if sel = 0 then (s.setActive c.fn i false).finish c.ref stOk
    else if s.progActive c.fn i then s.finish c.ref stOk
    else if isBuiltin i then (s.setActive c.fn i true).finish c.ref stOk
    else match s.slotImage c.fn i with
      | some m => if kcoValid m then (s.setActive c.fn i true).finish c.ref stOk else s.finish c.ref stField
      | none => s.finish c.ref stField

/-! ## Memory range sets (R107) -/

/-- A descriptor from its 32 bytes, and whether it keeps the table. -/
def rangeDesc (bs : List Byte) : RangeDesc :=
  { ns := leNat (sub bs 0 1) == 1, output := leNat (sub bs 1 1) == 1, nsid := leNat (sub bs 4 4), start := leNat (sub bs 8 8),
    length := leNat (sub bs 16 8) }
def State.okDesc (s : State) (f : Fun) (bs : List Byte) : Bool :=
  let d := rangeDesc bs
  decide (leNat (sub bs 0 1) ≤ 1 ∧ leNat (sub bs 1 1) ≤ 1) && leNat (sub bs 2 2) == 0 && leNat (sub bs 24 8) == 0 &&
    s.kindFor f d.nsid == some (if d.ns then .nvm else .slm) && decide (1 ≤ d.length) &&
    (d.ns || (d.start % 4 == 0 && d.length % 4 == 0))

/-- A function's range set. -/
def State.rangeSet (s : State) (f : Fun) (i : Nat) : Option (List RangeDesc) :=
  (s.prog.sets.find? fun x => x.1 == f && x.2.1 == i).map fun x => x.2.2
def State.setRanges (s : State) (f : Fun) (i : Nat) (l : Option (List RangeDesc)) : State :=
  let rest := s.prog.sets.filter fun x => !(x.1 == f && x.2.1 == i)
  { s with prog := { s.prog with sets := match l with
    | some l => rest ++ [(f, i, l)]
    | none => rest } }

/-- MEMORY_RANGE_SET_MANAGEMENT: 0 defines or changes, 1 deletes in dword 10 bits [3:0]; the set, 1 to 32, in bits [31:16]; the
number of descriptors in dword 11 bits [7:0] (log 39). DESIGN CHOICE (log 102): a set that is not defined cannot be deleted. -/
def execMemoryRangeSetManagement (c : NvmeCmd) (s : State) : Answer :=
  onPrograms c s fun s =>
    let sel := bits c.cdw10 3 0
    let i := bits c.cdw10 31 16
    let n := bits c.cdw11 7 0
    let desc := fun (k : Nat) => sub c.data (32 * k) 32
    if 1 < sel ∨ i = 0 ∨ 32 < i then s.finish c.ref stField
    else if sel = 1 then
      (if (s.rangeSet c.fn i).isSome then (s.setRanges c.fn i none).finish c.ref stOk else s.finish c.ref stField)
    else if n = 0 ∨ 16 < n then s.finish c.ref stField
    else match ptrBad c.dptr (32 * n) with
      | some st => s.finish c.ref st
      | none =>
        if !c.xfer then (s.xferFail c.poison).finish c.ref stTransfer
        else match s.xferOk with
          | (false, s) => s.finish c.ref stTransfer
          | (true, s) =>
            if (List.range n).all fun k => s.okDesc c.fn (desc k) then
              (s.setRanges c.fn i (some ((List.range n).map fun k => rangeDesc (desc k)))).finish c.ref stOk
            else s.finish c.ref stField

/-! ## Contracts and parameter blocks (R110, R117 to R122) -/

/-- The bytes of a descriptor's range, and of a list of them. -/
def RangeDesc.size (d : RangeDesc) : Nat := if d.ns then 4096 * d.length else d.length
def rangesSize (l : List RangeDesc) : Nat := l.foldl (fun a d => a + d.size) 0

/-- A field of a parameter block. -/
def param (p : List Byte) (k n : Nat) : Nat := leNat (sub p k n)

/-- The length of PROJECT's output record. -/
def projectLen (p : List Byte) : Nat := (List.range (param p 4 1)).foldl (fun a i => a + param p (10 + 4 * i) 2) 0

/-- Contract cycles, output bound before R110's minimum and engines used, of a built-in program. -/
def builtinContract (i inlen : Nat) (p : List Byte) : Nat × Nat × Nat :=
  let l := param p 0 4
  let omax := param p 4 4
  match i with
  | 1 => (20000 + ceilDiv ((2 + param p 4 1) * inlen) 8, if param p 6 1 = 0 then inlen else 8 * inlen / l, 0)
  | 2 => (20000 + ceilDiv ((4 + param p 4 1) * inlen) 16, inlen * projectLen p / l, 0)
  | 3 => (50000 + ceilDiv inlen 4, inlen + ceilDiv inlen 255 + 4096, 2)
  | 4 => (50000 + ceilDiv omax 8, omax, 2)
  | 5 => (50000 + ceilDiv inlen 4, inlen + 5 * ceilDiv inlen 65535 + 64, 2)
  | 6 => (50000 + ceilDiv omax 8, omax, 2)
  | 7 => (10000 + inlen, digLen (param p 0 1), 8)
  | 8 => (100000 + ceilDiv (40 * inlen) l, 16, 1)
  | 9 => (20000 + ceilDiv inlen 2, inlen / 3, 1)
  | _ => (40000 + ceilDiv ((l + 64) * inlen) (2 * l), 32 * inlen / l, 4 + 16)

/-- The same of any program: a downloaded one's from its header. -/
def contractOf (i inlen : Nat) (p : List Byte) (m : SMap Byte) : Nat × Nat × Nat :=
  if isBuiltin i then builtinContract i inlen p
  else
    let k := kcoOf m
    (k.fixed + ceilDiv (k.cpb * inlen) 65536, k.ofixed + ceilDiv (k.opb * inlen) 65536, k.uses)

/-- PARAM_MAX of a program. -/
def paramMaxOf (i : Nat) (m : SMap Byte) : Nat :=
  match i with
  | 1 => 200
  | 2 => 72
  | 3 | 4 | 5 | 6 | 10 => 8
  | 7 => 4
  | 8 => 32
  | 9 => 0
  | _ => (kcoOf m).paramMax

/-- A record length. -/
def okLen (l : Nat) : Bool := decide (4 ≤ l ∧ l ≤ 65536) && l % 4 == 0

/-- A term of FILTER. -/
def okTerm (p : List Byte) (l i : Nat) : Bool :=
  let f := fun (k n : Nat) => param p (8 + 24 * i + k) n
  let w := f 2 1
  (w == 1 || w == 2 || w == 4 || w == 8) && decide (f 0 2 + w ≤ l) && decide (f 3 1 ≤ 2) && decide (f 4 1 ≤ 6) && f 5 3 == 0 &&
    decide (f 8 8 < 2 ^ (8 * w)) && (f 4 1 == 6 || f 16 8 == 0)

/-- The lowest and the second key slot of a function (R363): its SEAL and its PROGRAM key. -/
def State.keySlots (s : State) (f : Fun) : List Nat :=
  ((List.range 24).filter fun k => (s.vfm.vfs.getD f.val .reset).shares.keys.getLsbD k).map (40 + ·)

/-- Whether a bank belongs to a function. -/
def State.ownsBank (s : State) (f : Fun) (b : Nat) : Bool := s.bankMode b == 1 && !s.bankFw b && s.bankFunc b == f.val

/-- Whether every value of a parameter block of a built-in program keeps its rule. -/
def State.okParams (s : State) (f : Fun) (i : Nat) (p : List Byte) : Bool :=
  let l := param p 0 4
  let n := p.length
  match i with
  | 1 =>
    let t := param p 4 1
    n == 8 + 24 * t && okLen l && decide (1 ≤ t ∧ t ≤ 8) && decide (param p 5 1 ≤ 1 ∧ param p 6 1 ≤ 1) && param p 7 1 == 0 &&
      (List.range t).all fun k => okTerm p l k
  | 2 =>
    let t := param p 4 1
    n == 8 + 4 * t && okLen l && decide (1 ≤ t ∧ t ≤ 16) && param p 5 3 == 0 && decide (projectLen p ≤ 65536) &&
      (List.range t).all fun k => decide (1 ≤ param p (10 + 4 * k) 2 ∧ param p (8 + 4 * k) 2 + param p (10 + 4 * k) 2 ≤ l)
  | 3 => n == 8 && decide (param p 0 1 ≤ 1) && param p 1 3 == 0 && param p 4 4 == 0
  | 4 => n == 8 && decide (param p 0 1 ≤ 1) && param p 1 3 == 0 && decide (1 ≤ param p 4 4 ∧ param p 4 4 ≤ 2 ^ 31)
  | 5 => n == 8 && param p 0 4 == 0 && param p 4 4 == 0
  | 6 => n == 8 && param p 0 4 == 0 && decide (1 ≤ param p 4 4 ∧ param p 4 4 ≤ 2 ^ 31)
  | 7 => n == 4 && decide (param p 0 1 ≤ 3) && param p 1 3 == 0
  | 8 =>
    n == 32 && okLen l && ((maskBanks (param p 4 2)).all fun b => s.ownsBank f b) &&
      decide (1 ≤ param p 8 1 ∧ param p 8 1 ≤ 18 ∧ param p 6 2 + param p 8 1 ≤ l) && decide (param p 9 1 ≤ 1) &&
      (param p 9 1 == 0 || decide (param p 10 2 + 4 ≤ l)) && param p 12 2 == 0
  | 9 => n == 0
  | 10 =>
    n == 8 && okLen l && (match s.keySlots f with
      | k :: _ => decide (param p 4 4 ≤ (labelEpoch (s.key k).label).toNat)
      | [] => true)
  | _ => true

/-- The bytes of one record or entry of a program's input. -/
def recordSize (i : Nat) (p : List Byte) : Nat :=
  match i with
  | 1 | 2 | 8 | 10 => param p 0 4
  | 9 => 24
  | _ => 1

/-! ## The checks of Execute Program (R112, R114) -/

/-- Invalid Field in Command with a reason. -/
def stReason (n : Nat) : Status := status 0 2 (BitVec.ofNat 32 n)

/-- Whether a descriptor lies in its namespace. -/
def State.descInside (s : State) (f : Fun) (d : RangeDesc) : Bool :=
  s.kindFor f d.nsid == some (if d.ns then .nvm else .slm) &&
    decide (d.start + d.length ≤ (if d.ns then s.capOf d.nsid else (s.ns? d.nsid).elim 0 fun x => x.cap))

/-- Whether two ranges meet. -/
def RangeDesc.meets (a b : RangeDesc) : Bool :=
  a.ns == b.ns && a.nsid == b.nsid && decide (a.start < b.start + b.length) && decide (b.start < a.start + a.length)

/-- The rows of R112 after its first, for an index, set, input length and parameter block. -/
def progRows (c : NvmeCmd) (i inlen plen : Nat) (set : Option (List RangeDesc)) : List Row :=
  let l := set.getD []
  let ins := l.filter fun d => !d.output
  let outs := l.filter fun d => d.output
  let p := sub c.data 0 plen
  let row := fun (why : Nat) (q : State → Bool) (s : State) => if q s then some (stReason why, s) else (none : Option (Status × State))
  [row 1 fun s => !s.progActive c.fn i,
   row 2 fun _ => set.isNone,
   row 7 fun s => (s.vfm.vfs.getD c.fn.val .reset).shares.cells == 0,
   row 11 fun _ => decide (inlen = 0 ∨ 2 ^ 31 < inlen),
   row 3 fun _ => inlen != rangesSize ins,
   row 4 fun s => decide (paramMaxOf i ((s.slotImage c.fn i).getD []) < plen) || plen % 4 != 0,
   row 8 fun s => l.any fun d => !s.descInside c.fn d,
   row 9 fun _ => outs.any fun o => ins.any fun d => o.meets d,
   fun s => if plen = 0 then none else fetchRow c s,
   row 5 fun s => !s.okParams c.fn i p,
   row 6 fun _ => inlen % recordSize i p != 0,
   fun s => if ins.any fun d => d.ns && d.nsid == 1 && decide (s.host.evid.published < d.start + d.length) then
     some (stAppend 5, s) else none,
   fun s => if outs.any fun d => d.ns && d.nsid == 1 then some (stAppend 3, s) else none]

/-- Whether a function holds a share of every engine that USES names (R114, R363). -/
def State.holdsEngines (s : State) (f : Fun) (i uses : Nat) : Bool :=
  let x := (s.vfm.vfs.getD f.val .reset).shares
  (!uses.testBit 0 || x.banks != 0) && (!uses.testBit 1 || x.eng.getLsbD 0) && (!uses.testBit 2 || x.eng.getLsbD 1) &&
    (!uses.testBit 3 || x.eng.getLsbD 2) && (!uses.testBit 4 || decide ((if i = 10 then 1 else 2) ≤ (s.keySlots f).length))

/-- Whether a program issues index-mode operations of the search engine (R289): the two index programs, and downloaded ones that use the
engine. -/
def searches (i uses : Nat) : Bool := i == 8 || i == 9 || (!isBuiltin i && uses.testBit 0)

/-- The compute cells of a function, for a program that searches its search cells, the three lowest (R289); a cell that is being reassigned is
assigned nothing new unless the function has no other (R193; log 120). The least-loaded of them at a class. -/
def State.fnCells (s : State) (f : Fun) (search : Bool) : List Nat :=
  let held := ((List.range 24).filter fun k => (s.vfm.vfs.getD f.val .reset).shares.cells.getLsbD k).map (16 + ·)
  let all := if search then held.take 3 else held
  let now := all.filter fun n => let r := s.role (Fin.ofNat 41 n)
    r.role == 6 && r.fn == f.val && !(s.fabric.reassign.any fun x => x.cell == n)
  if now.isEmpty then all else now
def State.leastCell (s : State) (f : Fun) (c : Class) (search : Bool) : Nat :=
  let load := fun (n : Nat) => s.committed (.cell n) c
  let cells := s.fnCells f search
  cells.foldl (fun a n => if load n < load a then n else a) (cells.headD 16)

/-- What is left, by the ledger, to the execution on the least-loaded of digest lanes 0 to 2 (R321). -/
def State.laneLeft (s : State) : Rat :=
  let left := fun (l : Nat) => match s.crypto.bound.getD l none with
    | some c => s.committed (.cell c.val) 3
    | none => 0
  min (left 0) (min (left 1) (left 2))

/-- The bytes that the first `n` of a list of output ranges put into SLM, and into namespaces. -/
def splitOut : List RangeDesc → Nat → Nat × Nat
  | [], _ => (0, 0)
  | d :: r, n =>
    let here := min n d.size
    let (a, b) := splitOut r (n - here)
    if d.ns then (a, b + here) else (a + here, b)

/-- The blocks of namespace ranges, and the granules of SLM ranges (R85). -/
def execRanges (l : List RangeDesc) : List Range :=
  l.flatMap fun d => if d.ns then [Range.mk d.nsid d.start d.length] else granules d.nsid d.start d.length

/-- The contract of an Execute Program (R110, R117): its cycles, its output bound and the engines it uses; index, input length,
parameters and range set are those of its dwords. -/
def programContract (c : NvmeCmd) (s : State) : Nat × Nat × Nat :=
  let i := bits c.cdw10 15 0
  contractOf i (c.cdw12.toNat + 2 ^ 32 * c.cdw13.toNat) (sub c.data 0 (bits c.cdw11 15 0)) ((s.slotImage c.fn i).getD [])

/-- What an Execute Program asks: the checks of R84, then those of R112, and the demand of R111. -/
def programJob (c : NvmeCmd) (q : SQueue) (s : State) : IoJob :=
  let i := bits c.cdw10 15 0
  let plen := bits c.cdw11 15 0
  let inlen := c.cdw12.toNat + 2 ^ 32 * c.cdw13.toNat
  let set := s.rangeSet c.fn (bits c.cdw10 31 16)
  let l := set.getD []
  let ins := l.filter fun d => !d.output
  let outs := l.filter fun d => d.output
  let (cycles, bound0, uses) := programContract c s
  let bound := min bound0 (rangesSize outs)
  let (outSlm, outNs) := splitOut outs bound
  let slmIn := rangesSize (ins.filter fun d => !d.ns)
  let nsIn := rangesSize (ins.filter fun d => d.ns)
  let units := s.readUnits (execRanges (ins.filter fun d => d.ns))
  let r := resolve q c.cdw3 true false
  let cell := s.leastCell c.fn (classOf r c) (searches i uses)
  { k := { c.record .execute (execRanges ins) (execRanges outs) 0 with dies := [] }, r := r
    rows := [optionRow c (decide (bits c.cdw11 31 16 ≠ 0 ∨ c.cdw14 ≠ 0 ∨ c.cdw15 ≠ 0)), fun s => rowIf (s.cpOf c.fn != some c.nsid) stNamespace s] ++ (if plen = 0 then [] else [ptrRow c plen]) ++ [deferRow c,
      fun s => rowIf (s.regBit MC_STAT 2 && outs.any fun d => d.ns && d.nsid != 1) stProtected s] ++ progRows c i inlen plen set
    d := { Demand.none with
      units := units, cipher := nsIn + outNs, dram := slmIn + outSlm, stage := outNs, cell := some (cell, cycles + 40960)
      lanes := if uses.testBit 2 then (2 * cycles : Rat) * 5 / 8 / 16 else 0
      digest := if uses.testBit 3 then s.laneLeft else 0 }
    tail := fun cls => if nsIn = 0 then s.cst 3 else s.tailMedia cls units + s.cst 3 + (if outNs = 0 then 0 else s.cst 4), prog := outNs, len := inlen
    ok := fun u =>
      let e : ExecRec :=
        { ref := c.ref, cell := cell, pind := i, contract := cycles, outBound := bound, inputs := ins, outputs := outs
          params := sub c.data 0 plen, inlen := inlen, step := 0, done := 0, image := (s.slotImage c.fn i).getD [], res := none
          deadline := match u.cmd? c.ref with
            | some k => BitVec.ofNat 64 (k.deadline / 1000)
            | none => 0 }
      { u with prog := { u.prog with execs := u.prog.execs ++ [e] } } }

/-- The last two rows of R114: a contract beyond the largest, and an engine that the function holds no share of. -/
def programCheck (c : NvmeCmd) (s u : State) : Option Status :=
  let (cycles, _, uses) := programContract c s
  if 3200000000 < cycles then some (stReason 12)
  else if u.holdsEngines c.fn (bits c.cdw10 15 0) uses then none
  else some (stReason 13)

/-- EXECUTE_PROGRAM: the checks, then Forecast, then the last two rows of R114. -/
def executeProgram (go : State → State) (c : NvmeCmd) (s : State) : Answer :=
  onQueue c s fun q t s =>
    let j := programJob c q s
    match s.firstRow j.rows with
    | some (st, s) => s.finish j.k.ref st
    | none => s.admission j.k j.r j.d j.tail j.prog j.len t (programCheck c s) fun s => go ((j.ok s).kickOff j.k.ref)

end Sys2Proof.Machine
end

