-- ==== Sys2Proof/Machine/Runs.lean ====
section
/-!
DEFINITION. Executions (05): the cell at entry and at exit (R113), the built-in programs (R117 to R122), the end of an execution
and its output (R114, R115), and the commands that start, feed and complete one.
-/

namespace Sys2Proof.Machine

/-! ## Built-in programs (R117 to R122) -/

/-- Why a built-in program stops: a code of R114, or a trap with its cause. -/
inductive BuiltStop where
  | code (n : Nat)
  | trap (cause : Nat)

/-- What a built-in program has come to: its output, dword 0, and why it stopped. -/
structure Built where
  out  : List Byte
  dw0  : Nat
  stop : Option BuiltStop

/-- The output of each record in turn as far as the bound allows, and whether the bound was reached with input left (R114). -/
def fitOut (bound : Nat) : List (List Byte) → List Byte × Bool
  | [] => ([], false)
  | x :: r =>
    if bound < x.length then (x.take bound, true)
    else if !x.isEmpty && bound == x.length && !r.isEmpty then (x, true)
    else
      let (o, full) := fitOut (bound - x.length) r
      (x ++ o, full)

/-- The records that an output bound lets a program come to whose output is `n` bytes each. -/
def reached (bound n : Nat) (l : List (List Byte)) : List (List Byte) := l.take (max 1 (ceilDiv bound n))

/-- Output that follows the whole input: beyond the bound it is a BOUNDS trap. -/
def finalOut (bound : Nat) (out : List Byte) (dw0 : Nat) : Built :=
  { out := out.take bound, dw0 := dw0, stop := if bound < out.length then some (.trap 5) else none }

/-- Comparison by OP 0 to 5. -/
def compareOp (op : Nat) (a b : Int) : Bool :=
  match op with
  | 0 => decide (a = b)
  | 1 => decide (a ≠ b)
  | 2 => decide (a < b)
  | 3 => decide (a ≤ b)
  | 4 => decide (b < a)
  | _ => decide (b ≤ a)

/-- A field of `w` bytes as its TYPE compares it: unsigned, signed, or as a byte string. -/
def typedValue (ty w : Nat) (bs : List Byte) : Int :=
  match ty with
  | 0 => (leNat bs : Int)
  | 1 => if 2 ^ (8 * w - 1) ≤ leNat bs then (leNat bs : Int) - 2 ^ (8 * w) else (leNat bs : Int)
  | _ => (beNat bs : Int)

/-- Whether a record meets a term of FILTER (R118). -/
def termHolds (p r : List Byte) (i : Nat) : Bool :=
  let f := fun (k n : Nat) => param p (8 + 24 * i + k) n
  let w := f 2 1
  let field := sub r (f 0 2) w
  let value := sub p (16 + 24 * i) w
  if f 4 1 = 6 then leNat field &&& f 16 8 == leNat value
  else compareOp (f 4 1) (typedValue (f 3 1) w field) (typedValue (f 3 1) w value)

/-- FILTER. -/
def runFilter (p inp : List Byte) (bound : Nat) : Built :=
  let rs := chunks (param p 0 4) inp
  let holds := fun (r : List Byte) =>
    let l := (List.range (param p 4 1)).map (termHolds p r)
    if param p 5 1 = 0 then l.all id else l.any id
  let hits := (List.range rs.length).filter fun k => holds (rs.getD k [])
  let (out, excess) := fitOut bound ((List.range rs.length).map fun k =>
    if !hits.contains k then [] else if param p 6 1 = 0 then rs.getD k [] else leBytes 8 k)
  { out := out, dw0 := min hits.length 0x7FFFFFFF, stop := if excess then some (.code 3) else none }

/-- PROJECT. -/
def runProject (p inp : List Byte) (bound : Nat) : Built :=
  let rs := chunks (param p 0 4) inp
  let pick := fun (r : List Byte) => (List.range (param p 4 1)).flatMap fun k => sub r (param p (8 + 4 * k) 2) (param p (10 + 4 * k) 2)
  let (out, excess) := fitOut bound (rs.map pick)
  { out := out, dw0 := rs.length, stop := if excess then some (.code 3) else none }

/-- Bits, least significant first, as bytes. -/
def packBits (l : List Bool) : List Byte :=
  (List.range ((l.length + 7) / 8)).map fun i => BitVec.ofNat 8 (((l.drop (8 * i)).take 8).foldr (fun b a => 2 * a + b.toNat) 0)

/-- A number in `n` bits, least significant first, and a Huffman code, most significant first. -/
def lowBits (n v : Nat) : List Bool := (List.range n).map v.testBit
def codeBits (n v : Nat) : List Bool := (lowBits n v).reverse

/-- An all-literal output of each format: one LZ4 sequence; a frame of stored 64 KiB blocks; one dynamic Huffman block, in which 255 symbols
have 8 bits and two 9 bits. -/
def literals (fmt : Nat) (inp : List Byte) : List Byte :=
  let n := inp.length
  let len := if n < 15 then [] else List.replicate ((n - 15) / 255) (255 : Byte) ++ [BitVec.ofNat 8 ((n - 15) % 255)]
  let desc := [0x6C, 0x40] ++ leBytes 8 n
  match fmt with
  | 0 => BitVec.ofNat 8 (16 * min 15 n) :: (len ++ inp)
  | 1 => leBytes 4 0x184D2204 ++ desc ++ [BitVec.ofNat 8 (bits (xxh32 desc.toArray) 15 8)] ++
      ((chunks 65536 inp).flatMap fun b => leBytes 4 (2 ^ 31 + b.length) ++ b) ++ leBytes 4 0 ++ leBytes 4 (xxh32 inp.toArray).toNat
  | _ =>
    let sym := fun (k : Nat) => if k < 255 then codeBits 8 k else codeBits 9 (255 + k)
    packBits ([true, false, true] ++ lowBits 5 0 ++ lowBits 5 0 ++ lowBits 4 3 ++
      ([0, 0, 0, 2, 1, 0, 2].flatMap fun k => lowBits 3 k) ++ List.replicate 255 false ++ [true, true, true, true, true, false] ++
      (inp.flatMap fun b => sym b.toNat) ++ sym 256)

/-- What a compressor produces: a value of the part as far as it has the form R119 gives and stands for the input (log 14). -/
def produced (fmt : Nat) (inp : List Byte) : List Byte :=
  let o := Config.compressed fmt inp
  if validOutput fmt o inp true then o else literals fmt inp

/-- The compressors. -/
def runCompress (fmt : Nat) (inp : List Byte) (bound : Nat) : Built :=
  let o := produced fmt inp
  { out := o.take bound, dw0 := inp.length % 2 ^ 31, stop := if bound < o.length then some (.code 3) else none }

/-- The decompressors. DESIGN CHOICE (log 99): with the last byte of output the input counts as consumed, whatever end marks and checksums
follow it. -/
def runDecompress (fmt : Nat) (inp : List Byte) (bound : Nat) : Built :=
  let d := decodeFormat fmt inp bound
  { out := d.out.toList.take bound, dw0 := d.used % 2 ^ 31,
    stop := if d.bad then some (.code 2) else if d.full then some (.code 3) else none }

/-- INDEX_BUILD: one entry a record, by ordered insertion into the lowest bank with a free position (R121, R291). -/
def State.runBuild (s : State) (p inp : List Byte) (bound : Nat) : Built × State :=
  let banks := maskBanks (param p 4 2)
  let care := BitVec.ofNat 144 (param p 14 18)
  let rs := chunks (param p 0 4) inp
  let r := (List.range rs.length).foldl (fun (acc : State × Nat × Nat) k =>
    let rec_ := rs.getD k []
    let s := acc.1
    match banks.find? fun b => decide ((s.bank b).ents.length < 8192) with
    | none => (s, acc.2.1, acc.2.2 + 1)
    | some b =>
      let e : Entry :=
        { key := BitVec.ofNat 144 (param rec_ (param p 6 2) (param p 8 1)) &&& care, care := care
          data := BitVec.ofNat 32 (if param p 9 1 = 0 then k else param rec_ (param p 10 2) 4), handle := (s.bank b).freeHandle }
      let (ents, _, first) := (s.bank b).place e
      let s := s.mergeData b ((ents.filter fun q => !(s.bank b).ents.contains q).map fun q => q.1)
      let s := s.modBank b fun x => { x with ents := ents, recov := x.recov.filter (· != e.handle) }
      (((s.restartAt b first).writeSlot b e.handle e.slot).count (srbPage b) 6 1, acc.2.1 + 1, acc.2.2)) (s, 0, 0)
  (finalOut bound (leBytes 4 r.2.1 ++ leBytes 4 r.2.2 ++ List.replicate 8 0) r.2.1, r.1)

/-- INDEX_QUERY: an 8-byte result for each 24-byte entry. -/
def State.runQuery (s : State) (c : CellId) (inp : List Byte) (bound : Nat) : Built × State :=
  let all := chunks 24 inp
  let es := reached bound 8 all
  let r := es.foldl (fun (acc : State × List (List Byte) × Nat) e =>
    let (x, s) := acc.1.searchFor c (param e 18 2) (BitVec.ofNat 144 (param e 0 18))
    (s, acc.2.1 ++ [wordBytes x.data ++ wordBytes x.res1], acc.2.2 + x.hit.toNat)) (s, [], 0)
  ({ out := r.2.1.flatten.take bound, dw0 := min r.2.2 0x7FFFFFFF,
     stop := if es.length < all.length ∨ bound < 8 * es.length then some (.code 3) else none }, r.1)

/-- The next epoch of a function's key: its EPOCH record, then the DERIVE (R318). -/
def State.nextEpoch (s : State) (n : Nat) (f : Fun) : State :=
  let k := s.key n
  let l := withEpoch k.label (labelEpoch k.label + 1)
  let s := s.commit [.epoch 0 (f.val + 256 * labelByte l 0) (labelEpoch l)]
  s.loadKey n k.root l k.klen

/-- SEAL: CMAC-AES-256 of each record under the epoch asked for; from the record in which the key reaches its limit on, under the
next epoch (R122). None when the key slot is refused. -/
def State.runSeal (s : State) (f : Fun) (p inp : List Byte) (bound : Nat) : Built × State :=
  match s.keySlots f with
  | [] => ({ out := [], dw0 := 0, stop := some (.code 4) }, s)
  | n :: _ =>
    let l := param p 0 4
    let all := chunks l inp
    let rs := reached bound 32 all
    let want := BitVec.ofNat 32 (param p 4 4)
    let r := (List.range rs.length).foldl (fun (acc : State × List (List Byte) × BitVec 32 × Bool) k =>
      if acc.2.2.2 then acc
      else if acc.1.regBit KEY_STAT 3 || !(acc.1.key n).valid then (acc.1, acc.2.1, acc.2.2.1, true)
      else match acc.1.useKey n with
        | (false, s) => (s, acc.2.1, acc.2.2.1, true)
        | (true, s) =>
          let need := macLen l
          let excess := decide (s.blocksLeft n < need)
          let s := if excess then (s.useBlocks n (s.blocksLeft n)).nextEpoch n f else s
          let ep := if excess then labelEpoch (s.key n).label else acc.2.2.1
          let s := s.useBlocks n need
          let key := s.deriveFor (s.key n).root (withEpoch (s.key n).label ep) 2
          (s, acc.2.1 ++ [leBytes 8 k ++ wordBytes ep ++ List.replicate 4 0 ++ cmac (leBytes 32 key.toNat) (rs.getD k [])], ep, false))
      (s, [], want, false)
    ({ out := r.2.1.flatten.take bound, dw0 := 0,
       stop := if r.2.2.2 then some (.code 4) else if rs.length < all.length ∨ bound < 32 * rs.length then some (.code 3) else none }, r.1)

/-- A built-in program over its whole input. -/
def State.builtin (s : State) (c : CellId) (e : ExecRec) (inp : List Byte) : Built × State :=
  let p := e.params
  match e.pind with
  | 1 => (runFilter p inp e.outBound, s)
  | 2 => (runProject p inp e.outBound, s)
  | 3 => (runCompress (param p 0 1) inp e.outBound, s)
  | 4 => (runDecompress (param p 0 1) inp e.outBound, s)
  | 5 => (runCompress 2 inp e.outBound, s)
  | 6 => (runDecompress 2 inp e.outBound, s)
  | 7 => (finalOut e.outBound (digest (param p 0 1) inp) 0, s)
  | 8 => s.runBuild p inp e.outBound
  | 9 => s.runQuery c inp e.outBound
  | _ => s.runSeal e.ref.fn p inp e.outBound

/-! ## Entry (R113) -/

/-- Changing an execution. -/
def State.modExec (s : State) (r : CmdRef) (f : ExecRec → ExecRec) : State :=
  { s with prog := { s.prog with execs := s.prog.execs.map fun e => if e.ref = r then f e else e } }

/-- Binding a digest lane among 0 to 2 to a cell, and letting it go (R321). -/
def State.freeLane (s : State) : Option Nat := (List.range 3).find? fun l => (s.crypto.bound.getD l none).isNone
def State.bindLane (s : State) (l : Nat) (c : Option CellId) : State :=
  { s with crypto := { s.crypto with bound := s.crypto.bound.set l c } }
def State.unbindLanes (s : State) (c : CellId) : State :=
  { s with crypto := { s.crypto with bound := s.crypto.bound.map fun x => if x = some c then none else x } }

/-- The header of an execution's program: that of its object, or for a built-in program what vendor firmware gives it (R113). DESIGN CHOICE
(log 101): its entry, data base and stack come from the part. -/
def ExecRec.kco (e : ExecRec) : Kco :=
  if isBuiltin e.pind then
    let h := fun (k : Nat) => (Config.builtinHeader e.pind k).toNat
    { uses := (builtinContract e.pind e.inlen e.params).2.2, entry := max 64 (h 0), codeWords := 16320, dataBase := h 1, dataWords := 0,
      spInit := max (h 2) (h 3), spLim := h 3, cpb := 0, fixed := 0, opb := 0, ofixed := 0, paramMax := 4096 }
  else kcoOf e.image

/-- The registers of a cell at program entry: w0 to w5, SP, SPLIM, CYCBUD, the PC at ENTRY in program mode, the ports that USES
enables. The codec unit of a cell is its number modulo 4. -/
def State.enterProgram (s : State) (c : CellId) (e : ExecRec) (lane : Nat) : State :=
  let k := e.kco
  let base := k.dataBase + k.dataWords
  let plen := e.params.length
  let gen := (s.cell c).run.gen.toNat
  let slot := (s.keySlots e.ref.fn).getD 1 ((s.keySlots e.ref.fn).headD 0)
  let w : List TWord :=
    [⟨tPtr, if plen = 0 then 0 else BitVec.ofNat 32 ((base + plen / 4) * 2 ^ 16 + base)⟩, mkHandle 1 0 gen, mkHandle 2 1 gen,
     .uns (BitVec.ofNat 32 (if e.pind = 4 ∨ e.pind = 6 then param e.params 4 4 else e.inlen)),
     if k.uses.testBit 4 then ⟨tKeyref, BitVec.ofNat 32 (gen * 2 ^ 16 + slot)⟩ else .void, ⟨tTime, e.deadline.setWidth 32⟩] ++
    List.replicate 10 .void
  let port := fun (i unit : Nat) => { Port.idle with enabled := k.uses.testBit i, unit := unit }
  s.modCell c fun x => { x with
    w := w, pc := BitVec.ofNat 14 k.entry, mul := none
    sp := { x.sp with sp := BitVec.ofNat 16 k.spInit, splim := BitVec.ofNat 16 k.spLim, rc := 0, flags := 0,
                      cycBud := BitVec.ofNat 32 e.contract, stat := mkStat true false false false }
    ports := [port 0 0, port 1 (c.val % 4), port 2 0, port 3 lane] }

/-- An instruction word as the loader writes it: the trap stubs, the code from word 64, UNDEF after it (R106, R113, R125). -/
def ExecRec.codeWord (e : ExecRec) (i : Nat) : IWord :=
  if i < 64 then Config.trapStub i
  else if isBuiltin e.pind then Config.builtinCode e.pind i
  else BitVec.ofNat 14 (e.kco.code e.image (i - 64))

/-- The memories of a cell at program entry: its instruction memory written whole, data from DATA_BASE, the parameter block after it, each
word tagged BYTES (R113, R166). -/
def State.loadProgram (s : State) (c : CellId) (e : ExecRec) : State :=
  let k := e.kco
  let s : State := { s with upsets := s.upsets.filter fun u => !(u.1 / 2 ^ 28 == celPage c * 16 + 1) }
  let s := s.modCell c fun x => { x with
    im := (List.range 16384).filterMap fun i => if e.codeWord i = 0 then none else some (i, e.codeWord i) }
  let s := (List.range k.dataWords).foldl (fun (s : State) i => s.writeDm c (k.dataBase + i) (twordOf (k.dat e.image i))) s
  (List.range (e.params.length / 4)).foldl (fun (s : State) i =>
    s.writeDm c (k.dataBase + k.dataWords + i) ⟨tBytes, leWord (sub e.params (4 * i) 4)⟩) s

/-- An execution takes its cell: the fill, then its memories, registers and streams; a firmware job on the digest lane bound to it is saved and
goes on elsewhere (R321). A downloaded program then issues; the steps of a built-in
one are its firmware's own, and it asks for its namespace input (log 101). -/
def State.enterExec (s : State) (e : ExecRec) : State :=
  let c : CellId := Fin.ofNat 41 e.cell
  let (_, _, uses) := contractOf e.pind e.inlen e.params e.image
  let lane := s.freeLane.getD 0
  let cls : Class := match s.cmd? e.ref with
    | some k => k.cls
    | none => 3
  let s := (s.holdAndFill c).modExec e.ref fun e => { e with step := 1 }
  let s := if uses.testBit 3 then (((s.switchTo lane c).getD s).setDig lane none).bindLane lane (some c) else s
  let s := ((s.loadProgram c e).enterProgram c e lane).modCell c fun x => { x with
    su0 := { SuSlot.idle with active := true, op := 1, cls := cls.val, peer := 0x51, length := e.inlen }
    su1 := { SuSlot.idle with active := true, op := 3, cls := cls.val, length := e.outBound } }
  if isBuiltin e.pind then s.beginRead e.ref cls (execRanges (e.inputs.filter fun d => d.ns))
  else (s.unhold c).pumpExec { e with step := 1 }

/-- Whether a cell's reassignment keeps executions out: they still run out before the cell leaves its function. -/
def State.cellClosed (s : State) (c : Nat) : Bool :=
  s.fabric.reassign.any fun x => x.cell == c && (decide (3 ≤ x.step) || x.target.role == 6 && x.target.fn == x.old.fn)

/-- Whether an execution can take its cell now: its command has started, no other execution runs there, the cell is not being
reassigned, and a digest lane is free if it needs one. -/
def State.canEnter (s : State) (e : ExecRec) : Bool :=
  let (_, _, uses) := contractOf e.pind e.inlen e.params e.image
  e.step == 0 && ((s.cmd? e.ref).elim false fun k => k.phase == .working) && (s.execOn (Fin.ofNat 41 e.cell)).isNone &&
    !s.cellClosed e.cell && s.pageOn (celPage (Fin.ofNat 41 e.cell)) &&
    (!uses.testBit 3 || s.freeLane.isSome)

/-- Executions in the order in which cells and digest lanes are given to them: by class and then by age (R43, R69). -/
def State.execOrder (s : State) : List ExecRec :=
  let cls := fun (e : ExecRec) => (s.cmd? e.ref).elim 3 fun k => k.cls.val
  sortedBy (fun a b => decide (cls a ≤ cls b)) s.prog.execs

/-- Executions that can take their cells do. -/
def State.enterExecs (s : State) : State :=
  s.execOrder.foldl (fun (s : State) x => match s.exec? x.ref with
    | some e => if s.canEnter e then s.enterExec e else s
    | none => s) s

/-! ## The end of an execution (R114, R115) -/

/-- An execution leaves its cell: the fill again, its lane and held output let go; reads not yet issued are withdrawn, and what the others bring
is stale (R189). -/
def State.leaveExec (s : State) (e : ExecRec) : State :=
  let c : CellId := Fin.ofNat 41 e.cell
  let s := (s.holdAndFill c).unbindLanes c
  let mine := fun (r : Req) => r.owner == .exec e.ref
  let s : State := { s with media := { s.media with
    reqs := (s.media.reqs.filter fun r => !mine r || r.phase != .queued).map fun r => if mine r then { r with owner := .late } else r } }
  { s with prog := { s.prog with
      execs := s.prog.execs.filter fun x => x.ref != e.ref
      held := s.prog.held.filter fun x => x.1 / 2 ^ 32 != e.cell } }

/-- It ends with a status. -/
def State.closeExec (s : State) (e : ExecRec) (st : Status) : State := ((s.leaveExec e).finish e.ref st).enterExecs

/-- SLM bytes among the first `n` of output. -/
def ExecRec.slmOut (e : ExecRec) (n : Nat) : Nat := (splitOut e.outputs n).1

/-- Internal Error of R114 with a code, or with a trap's PC and cause. -/
def stStop (code dw1 : Nat) : Status := status 0 6 (BitVec.ofNat 32 (code * 2 ^ 24)) (BitVec.ofNat 32 dw1)
def stTrap (pc : BitVec 14) (cause : Nat) (dw1 : Nat) : Status :=
  status 0 6 (BitVec.ofNat 32 (2 ^ 24 + pc.toNat * 256 + cause)) (BitVec.ofNat 32 dw1)

/-- The namespace blocks that the first `n` bytes of output reach: namespace, block, position of its first byte, bytes reached. -/
def outBlocks (l : List RangeDesc) (n : Nat) : List (Nat × Nat × Nat × Nat) :=
  (l.foldl (fun (acc : List (Nat × Nat × Nat × Nat) × Nat) d =>
    let here := min (n - acc.2) d.size
    let new := if d.ns then
        (List.range ((here + 4095) / 4096)).map fun i => (d.nsid, d.start + i, acc.2 + 4096 * i, min 4096 (here - 4096 * i))
      else []
    (acc.1 ++ new, acc.2 + d.size)) ([], 0)).1

/-- The block that output reaches in part, if any: its remaining bytes keep their contents (R108). -/
def partBlock (l : List RangeDesc) (n : Nat) : Option (Nat × Nat) :=
  ((outBlocks l n).find? fun b => b.2.2.2 < 4096).map fun b => (b.1, b.2.1)

/-- Runs of consecutive blocks with their data, in order. -/
def blockRuns (l : List (Nat × Nat × Block)) : List (Nat × Nat × List Block) :=
  l.foldr (fun x rest => match rest with
    | y :: more => if y.1 = x.1 ∧ y.2.1 = x.2.1 + 1 then (x.1, x.2.1, x.2.2 :: y.2.2) :: more else (x.1, x.2.1, [x.2.2]) :: rest
    | [] => [(x.1, x.2.1, [x.2.2])]) []

/-- The namespace output of a success is committed (R115): it enters staging as a write's blocks do, 128 MiB at a time as staging has room
for them, each piece up to a 256 KiB boundary (R87, R210). Then the execution ends. -/
def State.commitOut (s : State) (e : ExecRec) (n : Nat) (old : Block) (st : Status) : State :=
  let data := fun (b : Nat × Nat × Nat × Nat) =>
    blockOf (loadBytes s.prog.held (e.cell * 2 ^ 32 + b.2.2.1) b.2.2.2 ++ (blockBytes old).drop b.2.2.2)
  let left := (outBlocks e.outputs n).drop e.done
  let now := left.take (32768 - (left.headD (0, 0, 0, 0)).2.1 % 64)
  if left.isEmpty then s.closeExec e st
  else if !s.hasRoom (4096 * now.length) then s
  else
    let s := s.stageParts e.ref false (blockRuns (now.map fun b => (b.1, b.2.1, data b)))
    if now.length = left.length then s.closeExec e st
    else s.modExec e.ref fun e => { e with done := e.done + now.length }

/-- A success waits for the block it reaches in part; then its output is committed and it ends. A partly reached block that is lost
leaves a free value in its remaining bytes. -/
def State.succeed (s : State) (e : ExecRec) (n : Nat) (st : Status) : State :=
  let s := s.modExec e.ref fun e => { e with res := some st }
  match partBlock e.outputs n with
  | none => s.commitOut e n 0 st
  | some (ns, lba) =>
    let have_ := fun (s : State) => (s.cmd? e.ref).bind fun k => k.got.find? fun g => g.1 == ns && g.2.1 == lba
    let s := if e.res.isSome ∨ (have_ s).isSome then s else
      s.beginRead e.ref ((s.cmd? e.ref).elim 3 fun k => k.cls) [Range.mk ns lba 1]
    match have_ s with
    | none => s
    | some (_, _, some b) => s.commitOut e n b st
    | some (_, _, none) =>
      let (b, s) := (List.range 512).foldl (fun (acc : List Byte × State) _ =>
        let (v, s) := acc.2.free
        (acc.1 ++ leBytes 8 v.toNat, s)) ([], s)
      s.commitOut e n (blockOf b) st

/-- The output bytes that dword 1 of a success counts. -/
def Status.bytes (st : Status) : Nat := st.dw1.toNat

/-- Whether the trap of a program came from a job refused for its key slot (R329). -/
def keyRefusal (k : Cell) : Bool :=
  let w := k.im.get (fun _ => 0) k.sp.trapPc.toNat
  let detail := bits k.sp.trapCause 31 16
  detail == 0x32 || (detail == 0x12 && major w == 0xE && hKind (k.reg ((w >>> 4).setWidth 4)).val == 5)

/-- The trap stub of a job held at its key's limit: the epoch advances, and the cell goes on at its JWAIT as after RETT (R170, R317, R318). -/
def State.limitStub (s : State) (c : CellId) (f : Fun) : State :=
  let s := ((s.keySlots f).filter s.keyHeld).foldl (fun (s : State) n => s.nextEpoch n f) s
  let s := ((s.keySlots f).filter s.keyHeld).foldl (fun (s : State) n => s.settleHeld n true) s
  s.modCell c fun k =>
    let tc := k.sp.trapCause
    { k with pc := k.sp.trapPc, sp := { k.sp with stat := mkStat (bit tc 4) (bit tc 6) false (bit tc 5) } }

/-- The budget has run out (R114), with `slm` bytes of output in SLM. -/
def State.budgetEnd (s : State) (e : ExecRec) (slm : Nat) : State :=
  s.closeExec e (status 7 0x84 (BitVec.ofNat 32 (ceilDiv e.contract 16)) (BitVec.ofNat 32 slm))

/-- How a downloaded program's execution has ended, if it has: its trap from program mode still stands in the cell, or its input
has been lost. What the program left unpublished or undrained goes out only at its END (R187). -/
def State.downloadedEnd (s : State) (e : ExecRec) : State :=
  let c : CellId := Fin.ofNat 41 e.cell
  let k := s.cell c
  let tc := k.sp.trapCause
  let cause := bits tc 3 0
  let lost := k.su0.err
  if !lost && !(trapBit k && bit tc 4) then s
  else if !lost && cause == 12 && bits tc 31 16 == 0x31 then s.limitStub c e.ref.fn
  else
    let s := if !lost && cause == 13 then s.drain c 1 true else s
    let n := (s.cell c).su1.d
    let slm := e.slmOut n
    if lost then s.closeExec e { stUnrecovered with dw1 := BitVec.ofNat 32 slm }
    else if cause = 13 then
      let w0 := k.reg 0
      s.succeed e n (status 0 0 (if w0.tag = tUns then w0.val &&& 0x7FFFFFFF else 0) (BitVec.ofNat 32 n))
    else if cause = 10 then s.budgetEnd e slm
    else if cause = 12 ∧ keyRefusal k = true then s.closeExec e (stStop 4 slm)
    else s.closeExec e (stTrap k.sp.trapPc (bits tc 7 0) slm)

/-- The whole input of a built-in program once its namespace blocks have come: none while some is awaited. -/
def State.builtinInput (s : State) (e : ExecRec) (k : Cmd) : Option ((Option (List Byte) × Bool) × State) :=
  let want := rangeBlocks (execRanges (e.inputs.filter fun d => d.ns))
  let find := fun (b : Nat × Nat) => k.got.find? fun g => g.1 == b.1 && g.2.1 == b.2
  if want.any fun b => (find b).isNone then none
  else
    some (e.inputs.foldl (fun (acc : (Option (List Byte) × Bool) × State) d =>
      if d.ns then
        let bs := (List.range d.length).map fun i => (find (d.nsid, d.start + i)).bind fun g => g.2.2
        ((if bs.all Option.isSome then acc.1.1.map fun l => l ++ bs.flatMap fun b => blockBytes (b.getD 0) else none, acc.1.2), acc.2)
      else
        let ((bs, bad), s) := acc.2.peek (s.slmBase d.nsid + d.start) d.length
        ((acc.1.1.map fun l => l ++ bs, acc.1.2 || bad), s)) ((some [], false), s))

/-- The end of a built-in program's execution, once its input has come. -/
def State.builtinEnd (s : State) (e : ExecRec) (k : Cmd) : State :=
  let c : CellId := Fin.ofNat 41 e.cell
  match s.builtinInput e k with
  | none => s
  | some ((none, _), s) => s.closeExec e stUnrecovered
  | some ((some inp, bad), s) =>
    let trap := fun (s : State) (cause n : Nat) =>
      let (v, s) := s.free
      s.closeExec e (stTrap (v.setWidth 14) (cause + 16) (e.slmOut n))
    if bad then trap s 4 0
    else
      let (r, s) := s.builtin c e inp
      let s := s.putBytes e 0 r.out false
      let n := r.out.length
      match r.stop with
      | none => s.succeed e n (status 0 0 (BitVec.ofNat 32 (r.dw0 % 2 ^ 31)) (BitVec.ofNat 32 n))
      | some (.code m) => s.closeExec e (stStop m (e.slmOut n))
      | some (.trap cause) => trap s cause n

/-- An execution that has come to its end is concluded. -/
def State.concludeExec (s : State) (r : CmdRef) : State :=
  match s.exec? r, s.cmd? r with
  | some e, some k =>
    if e.step ≠ 1 ∨ k.phase ≠ .working then s
    else match e.res with
      | some st => s.succeed e st.bytes st
      | none =>
      let x := s.cell (Fin.ofNat 41 e.cell)
      if !isBuiltin e.pind then s.downloadedEnd e
      else if trapBit x && bits x.sp.trapCause 3 0 == 10 then s.budgetEnd e 0
      else s.builtinEnd e k
  | _, _ => s

/-! ## Commands -/

/-- EXECUTE_PROGRAM. -/
def execExecuteProgram (c : NvmeCmd) (s : State) : Answer := executeProgram State.enterExecs c s

/-- COMMAND_START: a held command starts when the commands it waits for have completed (R85), a write that waits for room in staging when
there is some (R210); an execution also when its cell is free. -/
def execCommandStart (c : CmdRef) (s : State) : Answer :=
  match s.cmd? c with
  | none => .next s
  | some k =>
    let s := if k.phase = .held ∧ (s.waitsFor k).isEmpty = true then s.begin c
      else if k.phase = .room then s.landRoom k else s
    .next s.enterExecs

/-- STREAM_STALL_END: a stalled stream access can proceed; its cycles count in STALL_IN or STALL_OUT (R114, R128, R153). The
stream unit takes in what the window of an execution's input now allows. -/
def execStreamStallEnd (c : CellId) (cycles : Nat) (s : State) : Answer :=
  let clear := fun (s : State) => s.modCell c fun k => k.modRun fun r => { r with stall := .none }
  let feed := fun (s : State) => match s.execOn c with
    | some e => if isBuiltin e.pind then s else s.pumpExec e
    | none => s
  match (s.cell c).run.stall with
  | .input => .next (feed (clear (s.count (celPage c) 5 cycles)))
  | .output => .next (feed (clear (s.count (celPage c) 6 cycles)))
  | _ => .next s

/-- COMPLETION_POST: an execution is concluded first; a completion waits while its queue is full, and while no completion is posted
at all (R218), or completions queue for new firmware (R194). -/
def execCompletionPost (c : CmdRef) (s : State) : Answer :=
  if s.power.flush ≠ 0 || !s.pageOn 0x010 || s.fabric.pause.isSome then .next s
  else
    let s := s.concludeExec c
    match s.cmd? c with
    | none => .next s
    | some k =>
      match k.phase with
      | .done st =>
        match (s.ctrl c.fn).sq? c.sqid with
        | none => .next s
        | some x =>
          match (s.ctrl c.fn).cq? x.cqid with
          | none => .next s
          | some q =>
            if (q.tail + 1) % q.size = q.head then
              if k.cqWait then .next s
              else .next (((s.modCmd c fun k => { k with cqWait := true }).count (s.nvqPage c.fn c.sqid) 6 1).raise
                (s.nvqPage c.fn c.sqid) 4)
            else .next (s.post k st x q)
      | _ => .next s

end Sys2Proof.Machine
end

