-- ==== Sys2Proof/Machine/Controller.lean ====
section
/-!
DEFINITION. The controllers' own registers and resets (04, 02): BAR0 (R24, R78, R481), enabling, controller reset and shutdown
(R78, R89), and MSI-X of a function (R447, R448).
-/

namespace Sys2Proof.Machine

/-! ## What a reset makes of a function's commands (R89, R371) -/

/-- Giving a command another name wherever it is named. A command that goes on without a completion takes a name that no queue
gives, so that its identifier is free again. -/
def State.rename (s : State) (a b : CmdRef) : State :=
  let o := fun (r : CmdRef) => if r = a then b else r
  let own := fun (x : ReqOwner) => match x with
    | .cmd r => .cmd (o r)
    | .exec r => .exec (o r)
    | .evid (some r) => .evid (some (o r))
    | y => y
  let chg := fun (x : ChargeOwner) => match x with
    | .cmd r => .cmd (o r)
    | .merge r => .merge (o r)
    | y => y
  { s with
    host := { s.host with
      cmds := s.host.cmds.map fun c => { c with ref := o c.ref }
      evid := { s.host.evid with open_ := s.host.evid.open_.map fun x => { x with who := x.who.map o } }
      fw := { s.host.fw with commit := s.host.fw.commit.map fun x => { x with ref := o x.ref } } }
    adm := { s.adm with
      charges := s.adm.charges.map fun x => { x with owner := chg x.owner }, bound := s.adm.bound.map o }
    prog := { s.prog with execs := s.prog.execs.map fun x => { x with ref := o x.ref } }
    ftl := { s.ftl with staging := s.ftl.staging.map fun x => { x with ref := o x.ref } }
    media := { s.media with
      reqs := s.media.reqs.map fun x => { x with owner := own x.owner }
      parked := s.media.parked.map fun x => { x with owner := own x.owner }
      queued := s.media.queued.map fun x => { x with owner := own x.owner } }
    events := { s.events with spans := s.events.spans.map fun x => (x.1, x.2.map o) } }

/-- Discarding a command whose host data transfer had not started: its charge and tokens are released, an append is filled with
zeros (R89, R482). -/
def State.discard (s : State) (c : Cmd) : State :=
  let s := ((s.uncharge (.cmd c.ref)).dropAppend c.ref).forget c.ref
  if c.admitted ∧ c.cls = 0 then s.giveTokens c.ref.fn.val c.bytes else s

/-- One command at a controller reset of its function: discarded, or carried through without a completion. -/
def State.sortCmd (s : State) (c : Cmd) : State :=
  match c.phase with
  | .done _ => s.forget c.ref
  | _ =>
    if c.started then
      (s.modCmd c.ref fun k => { k with silent := true }).rename c.ref ⟨c.ref.fn, 0x100000 + c.seq, c.ref.cid⟩
    else s.discard c

/-- One command at an FLR of its VF (R370, R371): no completion is posted for it, and a write whose data has not all arrived is dropped
whole. -/
def State.sortFlr (s : State) (c : Cmd) : State :=
  if c.awaits then s.discard c else s.sortCmd c

/-- Every command of a function that has a name of a queue. -/
def State.sortCmds (s : State) (f : Fun) : State :=
  (s.host.cmds.filter fun c => c.ref.fn == f && !c.silent).foldl State.sortCmd s

/-- The function's asynchronous event requests and its Deletes that wait are forgotten, with the events. -/
def State.dropAsync (s : State) (f : Fun) : State :=
  let cids := (s.logsOf f).aers ++ (s.ctrl f).sqs.filterMap fun q => q.del
  (cids.foldl (fun (s : State) cid => s.forget ⟨f, 0, cid⟩) s).modLogs f fun l => { l with aers := [], asyncQ := [], masked := [] }

/-- A controller reset begins (R89): fetching stops, the commands are sorted. -/
def State.beginReset (s : State) (f : Fun) (cc : Word) : State :=
  let s := s.modCtrl f fun c => { c with cc := setBit cc 0 false, fetching := false, resetting := true, coal := [] }
  (s.dropAsync f).sortCmds f

/-- The features of a function at reset. -/
def Features.reset : Features := (Ctrl.reset []).feat

/-- The queues are deleted, the features take their defaults, the downloaded programs of the function are no longer active and the
built-in ones are (R89, R103). -/
def State.clearCtrl (s : State) (f : Fun) : State :=
  let s := s.modCtrl f fun c =>
    { c with sqs := [], cqs := [], csts := 0, resetting := false, intms := 0, feat := .reset, coal := [] }
  { s with prog := { s.prog with active := s.prog.active.filter fun a => a.1 != f } }

/-! ## MSI-X (R447, R448) -/

/-- Every page of the PF map and of a function's window. -/
def pagesOf (f : Fun) : List Nat :=
  if f = 0 then pfPages else pfPages ++ (List.range 3).map fun k => 0x1000 + 16 * f.val + k

/-- Whether a page with a pending event is routed to a vector, or a completion queue of the vector holds entries (log 9). -/
def State.vecEvents (s : State) (f : Fun) (v : Nat) : Bool :=
  (pagesOf f).any fun p => s.pageOn p && s.evPending p != 0 && s.route p == (0, v, f.val)
def State.vecWaits (s : State) (f : Fun) (v : Nat) : Bool :=
  s.vecEvents f v || (s.ctrl f).cqs.any fun q => q.ien && q.vec == v && q.head != q.tail

/-- One message for every vector that has a routed page with a pending event. -/
def State.sweepVectors (s : State) (f : Fun) : State :=
  if s.msixHeld f then s
  else (List.range 64).foldl (fun (s : State) v => if s.vecEvents f v then s.sendVector f v else s) s

/-- MSIX_ENABLE: the enable goes from 0 to 1. -/
def execMsixEnable (fn : Fun) (s : State) : Answer :=
  if (s.ctrl fn).msixEn || !(s.pageOn 0x010 && s.host.link.up && s.fnExists fn.val) then .next s
  else .next ((s.modCtrl fn fun c => { c with msixEn := true }).sweepVectors fn)

/-- A vector that is no longer masked sends its message if it is still due. -/
def State.unmaskVector (s : State) (f : Fun) (v : Nat) : State :=
  let c := s.ctrl f
  if c.msixFMask || bit (c.vecCtl v) 0 || !c.pba.getLsbD v then s
  else
    let s := s.modCtrl f fun c => { c with pba := c.pba &&& ~~~(BitVec.ofNat 64 (2 ^ v)) }
    if s.vecWaits f v ∧ s.msixHeld f = false then s.emit (.msix f v) else s

/-- A dword of the MSI-X table. -/
def State.setTab (s : State) (f : Fun) (k : Nat) (w : Word) : State :=
  s.modCtrl f fun c => { c with msixTab := c.msixTab.set (fun k => if k % 4 = 3 then 1 else 0) k w }

/-- MSIX_MASK_CLEAR: of one vector, or of the function. -/
def execMsixMaskClear (fn : Fun) (vec : Option Nat) (s : State) : Answer :=
  if !s.bar0On fn then .next s
  else match vec with
    | some v =>
      if (if fn = 0 then 64 else 16) ≤ v then .next s
      else .next ((s.setTab fn (4 * v + 3) (setBit ((s.ctrl fn).vecCtl v) 0 false)).unmaskVector fn v)
    | none =>
      let s := s.modCtrl fn fun c => { c with msixFMask := false }
      .next ((List.range 64).foldl (fun (s : State) v => s.unmaskVector fn v) s)

/-! ## Enabling, reset and shutdown (R78, R89) -/

/-- Whether R78 lets the controller become ready. -/
def Ctrl.badConfig (c : Ctrl) (cc : Word) : Bool :=
  bits cc 10 7 != 0 || bits cc 13 11 != 0 || bits cc 6 4 != 6 || bits c.aqa 11 0 == 0 || bits c.aqa 27 16 == 0

/-- CC.EN goes from 0 to 1: the admin queues exist and the controller is ready, or CSTS.CFS is set. A VF that is not online
does not become ready (log 9). -/
def State.enable (s : State) (f : Fun) (cc : Word) : State :=
  let c := s.ctrl f
  let s := s.modCtrl f fun c => { c with cc := cc }
  if c.resetting then s
  else if c.badConfig cc || !(f == 0 || (s.vfm.vfs.getD f.val .reset).online) then s.fatal f
  else
    let sq : SQueue := { qid := 0, size := bits c.aqa 11 0 + 1, cqid := 0, base := c.asq, head := 0, tail := 0, dclass := 3,
                         fixed := true, ddl := 31250, doomed := [], bells := [], del := none }
    let cq : CQueue := { qid := 0, size := bits c.aqa 27 16 + 1, base := c.acq, head := 0, tail := 0, phase := true, vec := 0, ien := true }
    s.modCtrl f fun c => { c with csts := setBit c.csts 0 true, sqs := [sq], cqs := [cq], fetching := true }

/-- CONTROLLER_ENABLE. -/
def execControllerEnable (fn : Fun) (cc : Word) (s : State) : Answer :=
  if !s.bar0On fn || bit (s.ctrl fn).cc 0 then .next s
  else .next ((s.count64 0x010 2 1).enable fn (setBit cc 0 true &&& 0xFFFFF1))

/-- CONTROLLER_RESET. -/
def execControllerReset (fn : Fun) (s : State) : Answer :=
  if !s.bar0On fn || !bit (s.ctrl fn).cc 0 then .next s
  else .next ((s.count64 0x010 2 1).beginReset fn (s.ctrl fn).cc)

/-- CONTROLLER_RESET_COMPLETE: the data of every write whose transfer had started has arrived or its transfer failed, the queues are deleted, CSTS.RDY reads 0, and withheld messages are sent (R448). A Secondary
Controller Offline that waits for it completes (R365). -/
def State.endReset (s : State) (f : Fun) : State :=
  let s := (s.clearCtrl f).sweepVectors f
  match s.host.cmds.find? fun c => c.kind == .admin && c.ref.fn == 0 && c.slma == 0x100 + f.val && c.phase == .working with
  | some c => s.finish c.ref stOk
  | none => s
def execControllerResetComplete (fn : Fun) (s : State) : Answer :=
  if (s.ctrl fn).resetting ∧ (s.vfm.vfs.getD fn.val .reset).flr = false ∧ (s.host.cmds.any fun c => c.ref.fn == fn && c.awaits) = false then
    .next (s.endReset fn)
  else .next s

/-- A shutdown notification: from the PF it stops every function's fetching and closes the open stripes, from a VF its own
fetching. -/
def State.shutdown (s : State) (f : Fun) (shn : Nat) : State :=
  let s := s.modCtrl f fun c => { c with cc := setBits c.cc 15 14 shn, csts := setBits c.csts 3 2 1 }
  if f = 0 then
    ((List.finRange 16).foldl (fun (s : State) g => s.modCtrl g fun c => { c with fetching := false }) s).closeWhere fun _ => true
  else s.modCtrl f fun c => { c with fetching := false }

/-- SHUTDOWN_NOTIFICATION: CC.SHN takes 01b or 10b. -/
def execShutdownNotification (fn : Fun) (shn : Nat) (s : State) : Answer :=
  if !s.bar0On fn || !(shn == 1 || shn == 2) || bits (s.ctrl fn).csts 3 2 != 0 then .next s
  else .next ((s.count64 0x010 2 1).shutdown fn shn)

/-- SHUTDOWN_COMPLETE: the staging concerned is durable. The PF's shutdown ends the journal with a page that has SHUTDOWN and
FINAL set, and completes when that page is durable (R214, R219). -/
def execShutdownComplete (fn : Fun) (s : State) : Answer :=
  let done := fun (s : State) => s.modCtrl fn fun c => { c with csts := setBits c.csts 3 2 2 }
  if bits (s.ctrl fn).csts 3 2 ≠ 1 then .next s
  else if fn ≠ 0 then
    if s.ftl.staging.any fun x => x.fn == fn then .next s else .next (done s)
  else if !s.ftl.staging.isEmpty then .next s
  else match s.ftl.jpages.getLast? with
    | some p =>
      if p.shutdown && p.final && s.ftl.jbuf.isEmpty then (if p.durable then .next (done s) else .next s)
      else .next (s.writeSifj.seal false true true)
    | none => .next (s.writeSifj.seal false true true)

/-! ## BAR0 (R24, R78, R481) -/

/-- CAP: MQES 4,095, CQR, TO 1, CSS naming I/O command sets. -/
def capReg : Nat := 4095 + 2 ^ 16 + 2 ^ 24 + 2 ^ 43

/-- A dword of BAR0 as it reads. -/
def State.bar0Word (s : State) (f : Fun) (off : Nat) : Word :=
  let c := s.ctrl f
  let vecs := if f = 0 then 64 else 16
  match off with
  | 0x00 => BitVec.ofNat 32 capReg
  | 0x04 => BitVec.ofNat 32 (capReg / 2 ^ 32)
  | 0x08 => 0x00020000
  | 0x0C => c.intms
  | 0x10 => c.intms
  | 0x14 => c.cc
  | 0x1C => c.csts
  | 0x24 => c.aqa
  | 0x28 => c.asq.setWidth 32
  | 0x2C => (c.asq >>> 32).setWidth 32
  | 0x30 => c.acq.setWidth 32
  | 0x34 => (c.acq >>> 32).setWidth 32
  | 0x3000 => c.pba.setWidth 32
  | 0x3004 => if f = 0 then (c.pba >>> 32).setWidth 32 else 0
  | _ =>
    if 0x2000 ≤ off ∧ off < 0x2000 + 16 * vecs then c.msixTab.get (fun k => if k % 4 = 3 then 1 else 0) ((off - 0x2000) / 4) else 0

/-- A write of CC: what its change of EN or SHN does. -/
def State.writeCc (s : State) (f : Fun) (v : Word) : State :=
  let old := (s.ctrl f).cc
  let v := v &&& 0xFFFFF1
  if !bit old 0 && bit v 0 then s.enable f v
  else if bit old 0 && !bit v 0 then s.beginReset f v
  else
    let s := s.modCtrl f fun c => { c with cc := setBits v 15 14 (bits old 15 14) }
    if bits v 15 14 = bits old 15 14 then s
    else if (bits v 15 14 = 1 ∨ bits v 15 14 = 2) ∧ bits (s.ctrl f).csts 3 2 = 0 then s.shutdown f (bits v 15 14)
    else s.modCtrl f fun c => { c with cc := v }

/-- A write of a dword, `mask` the enabled bytes. Doorbells are written through their own rules. -/
def State.bar0Write (s : State) (f : Fun) (off : Nat) (v mask : Word) (len : Nat) : State :=
  let c := s.ctrl f
  let vecs := if f = 0 then 64 else 16
  let mix := fun (old : Word) => (old &&& ~~~mask) ||| (v &&& mask)
  let lo := fun (q : BitVec 64) => (q >>> 32).setWidth 32 ++ (mix (q.setWidth 32) &&& 0xFFFFF000)
  let hi := fun (q : BitVec 64) => mix ((q >>> 32).setWidth 32) ++ q.setWidth 32
  match off with
  | 0x0C => s.modCtrl f fun c => { c with intms := c.intms ||| (v &&& mask) }
  | 0x10 => s.modCtrl f fun c => { c with intms := c.intms &&& ~~~(v &&& mask) }
  | 0x14 => s.writeCc f (mix c.cc)
  | 0x24 => s.modCtrl f fun c => { c with aqa := mix c.aqa &&& 0x0FFF0FFF }
  | 0x28 => s.modCtrl f fun c => { c with asq := lo c.asq }
  | 0x2C => s.modCtrl f fun c => { c with asq := hi c.asq }
  | 0x30 => s.modCtrl f fun c => { c with acq := lo c.acq }
  | 0x34 => s.modCtrl f fun c => { c with acq := hi c.acq }
  | _ =>
    if 0x2000 ≤ off ∧ off < 0x2000 + 16 * vecs then
      let k := (off - 0x2000) / 4
      let old := c.msixTab.get (fun k => if k % 4 = 3 then 1 else 0) k
      let keep : Word := if k % 4 = 0 then 0xFFFFFFFC else if k % 4 = 3 then 1 else 0xFFFFFFFF
      let s := s.setTab f k (mix old &&& keep)
      if k % 4 = 3 then s.unmaskVector f (k / 4) else s
    else if 0x1000 ≤ off ∧ off < 0x1408 then
      if off % 8 = 0 then s.sqBell f ((off - 0x1000) / 8) len v else s.cqBell f ((off - 0x1000) / 8) len v
    else s

/-- Whether an aligned 8-byte access is served as two dwords: CAP, ASQ, ACQ, or two dwords of one MSI-X table entry. -/
def wideOk (f : Fun) (off : Nat) : Bool :=
  decide (off % 8 = 0) && (off == 0 || off == 0x28 || off == 0x30 ||
    decide (0x2000 ≤ off ∧ off < 0x2000 + 16 * (if f = 0 then 64 else 16)))

/-- BAR0_ACCESS: 1, 2, 4 or 8 bytes. -/
def execBar0Access (fn : Fun) (off len : Nat) (write : Option (BitVec 64)) (s : State) : Answer :=
  if !s.bar0On fn || decide (0x4000 ≤ off) then .next s
  else
    let m := fnMaster fn
    let s := s.count64 0x010 2 1
    let base := off - off % 4
    let sh := 8 * (off % 4)
    if len = 8 ∧ wideOk fn off = true then
      match write with
      | none =>
        .next ((s.reply m (.data (s.bar0Word fn off))).reply m (.data (s.bar0Word fn (off + 4))))
      | some v =>
        .next ((s.bar0Write fn off (v.setWidth 32) 0xFFFFFFFF 4).bar0Write fn (off + 4) ((v >>> 32).setWidth 32) 0xFFFFFFFF 4)
    else if !(len == 1 || len == 2 || len == 4) || decide (4 < off % 4 + len) then
      match write with
      | none => .next (s.reply m .completerAbort)
      | some _ => .next (s.reply m .discarded)
    else
      let mask := BitVec.ofNat 32 ((2 ^ (8 * len) - 1) <<< sh)
      match write with
      | none => .next (s.reply m (.data ((s.bar0Word fn base &&& mask) >>> sh)))
      | some v => .next (s.bar0Write fn base ((v.setWidth 32) <<< sh) mask len)

end Sys2Proof.Machine
end

