-- ==== Sys2Proof/Machine/FieldDie.lean ====
section
/-!
DEFINITION. The field die (18): Front link messages and their checks (R379 to R383), parameters (R391), the ring (R397), wake
sources (R388), capture (R384 to R386, R393), legal time (R375 to R377), and what it does with host messages (R390 to R396).
-/

namespace Sys2Proof.Machine

/-! ## Messages (R379, R380) -/

/-- The 64 bytes of a message. -/
def mkMsg (ty seq cls flags : Nat) (body : List Byte) : List Byte :=
  let h := leBytes 1 ty ++ leBytes 1 body.length ++ leBytes 4 seq ++ leBytes 1 cls ++ leBytes 1 flags ++ body ++
    List.replicate (52 - body.length) 0
  h ++ wordBytes (crc32c h)

/-- The fields of a message. -/
def mByte (m : List Byte) (k : Nat) : Nat := (m.getD k 0).toNat
def mType (m : List Byte) : Nat := mByte m 0
def mLen (m : List Byte) : Nat := mByte m 1
def mSeq (m : List Byte) : BitVec 32 := leWord (sub m 2 4)
def mFlags (m : List Byte) : Nat := mByte m 7
def mFlag (m : List Byte) (k : Nat) : Bool := (mFlags m).testBit k
def mBody (m : List Byte) : List Byte := sub m 8 (mLen m)

/-- A message with RESENT set, its CRC following. -/
def resent (m : List Byte) : List Byte :=
  let h := m.take 7 ++ [m.getD 7 0 ||| 0x80] ++ sub m 8 52
  h ++ wordBytes (crc32c h)

/-- A little-endian field of a payload, and whether a run of bytes is 0. -/
def fld (b : List Byte) (k n : Nat) : Nat := leNat (sub b k n)
def zeros (b : List Byte) (k n : Nat) : Bool := fld b k n == 0

/-- The class, sequencing and free FLAGS bits of a type, in its direction. -/
def typeRule (toHost : Bool) (ty : Nat) : Option (Nat × Bool × Nat) :=
  match toHost, ty with
  | true, 0x01 => some (0, true, 0)
  | true, 0x02 => some (0, true, 1)
  | true, 0x03 => some (0, true, 1)
  | true, 0x04 => some (0, true, 1)
  | true, 0x05 => some (0, false, 0)
  | true, 0x06 => some (0, true, 0)
  | true, 0x07 => some (0, false, 2)
  | false, 0x81 => some (3, true, 0)
  | false, 0x82 => some (1, true, 0)
  | false, 0x83 => some (3, true, 0)
  | false, 0x84 => some (1, true, 0)
  | false, 0x85 => some (3, true, 3)
  | false, 0x86 => some (0, false, 3)
  | _, _ => none

/-- Data bytes of a CAN DLC, classic and FD. -/
def canLen (fd : Bool) (dlc : Nat) : Nat :=
  if dlc ≤ 8 then dlc else if fd then [12, 16, 20, 24, 32, 48, 64].getD (dlc - 9) 64 else 8

/-- The width of a field parameter (R391). -/
def paramWidth (p : Nat) : Option Nat :=
  if 0x100 ≤ p ∧ p ≤ 0x103 ∨ 0x200 ≤ p ∧ p ≤ 0x23F ∨ 0x600 ≤ p ∧ p ≤ 0x61F then some 8
  else if 0x300 ≤ p ∧ p ≤ 0x31F then some 20
  else if p = 0x280 ∨ p = 0x281 ∨ 0x400 ≤ p ∧ p ≤ 0x403 ∨ p = 0x410 ∨ p = 0x420 ∨ p = 0x421 ∨ p = 0x500 ∨ p = 0x501 ∨ p = 0x6FF then
    some 4
  else none

/-- The payload of a TX_CAN: data bytes by its ID word, CTL and DLC. -/
def txLen (b : List Byte) : Nat :=
  let fd := (mByte b 4).testBit 2
  if !fd && (mByte b 3).testBit 6 then 0 else min 44 (canLen fd (mByte b 5))

/-- LEN under R380. -/
def lenOk (ty : Nat) (m : List Byte) : Bool :=
  let n := mLen m
  let b := mBody m
  match ty with
  | 0x01 => n == 16
  | 0x02 => if mFlag m 0 then decide (16 ≤ n ∧ n ≤ 52) else n == 24 || n == 40
  | 0x03 => decide (17 ≤ n ∧ n ≤ 52)
  | 0x04 => n == 24
  | 0x06 => n == 48
  | 0x81 => match paramWidth (fld b 0 2) with
    | some w => n == 4 + w
    | none => decide (4 ≤ n ∧ n ≤ 52)
  | 0x82 => n == 16
  | 0x83 => n == 16
  | 0x84 => decide (8 ≤ n) && n == 8 + txLen b
  | 0x85 => if mFlag m 1 then n == 8 else decide (12 ≤ n ∧ n ≤ 52 ∧ n % 4 = 0)
  | _ => n == 8

/-- One classic record of a CAN_BATCH at a byte of the payload. -/
def canRecOk (b : List Byte) (k : Nat) (first : Bool) : Bool :=
  let dlc := mByte b (k + 3)
  let n := if (mByte b (k + 7)).testBit 6 then 0 else dlc
  (if first then zeros b k 2 else decide (fld b k 2 ≤ 1000)) && decide (mByte b (k + 2) ≤ 3 ∧ dlc ≤ 8 ∧ mByte b (k + 7) < 128) &&
    zeros b (k + 8 + n) (8 - n)

/-- The payload rules of the chapter (R384 to R390, R396). -/
def payloadOk (ty : Nat) (m : List Byte) : Bool :=
  let b := mBody m
  let n := mLen m
  match ty with
  | 0x01 =>
    let src := mByte b 8
    let st := mByte b 9
    let v := fld b 12 4
    decide (src ≤ 9) && zeros b 10 2 &&
      decide (st ≤ (if src ≤ 3 ∨ src = 5 ∨ src = 8 then 1 else if src = 7 then 2 else 0)) &&
      decide (v ≤ (if src = 4 ∨ src = 6 then 0xFFFFFFFF else if src = 7 then 0x3FFFF else if src = 5 ∨ src = 8 then 1
        else if src = 9 then 0xFF else 0))
  | 0x02 =>
    if mFlag m 0 then
      let size := canLen true (mByte b 13)
      let part := mByte b 14
      decide (mByte b 11 < 64 ∧ mByte b 12 < 16 ∧ mByte b 13 ≤ 15 ∧ mByte b 15 = 0) &&
        (if size ≤ 36 then part == 0 && n == 16 + size
         else if part = 0 then n == 52 else part == 1 && n == 16 + (size - 36))
    else canRecOk b 8 true && (n == 24 || canRecOk b 24 false)
  | 0x03 =>
    let cap := fld b 10 2
    let off := fld b 14 2
    decide (1 ≤ cap ∧ cap ≤ 1518 ∧ mByte b 12 < 32 ∧ mByte b 13 ≤ 42 ∧ off = 36 * mByte b 13 ∧ off < cap ∧ n = 16 + min 36 (cap - off)) &&
      mFlag m 0 == decide (cap ≤ off + 36)
  | 0x04 => (mFlag m 0 || zeros b 8 8) && decide (mByte b 20 < 4 ∧ mByte b 21 ≤ 1) && zeros b 22 2
  | 0x05 => decide (fld b 0 4 < 2 ^ 13 ∧ fld b 4 4 ≤ 131072)
  | 0x06 => decide (fld b 20 4 ≤ 131072 ∧ mByte b 35 < 32) && zeros b 44 4
  | 0x07 => zeros b 5 3 && (!mFlag m 1 || mByte b 4 == 0)
  | 0x81 => zeros b 2 2
  | 0x82 => mByte b 8 == 1 && zeros b 9 7
  | 0x83 => decide (fld b 0 4 < 2 ^ 13 ∧ 1 ≤ mByte b 4 ∧ mByte b 4 ≤ 100 ∧ mByte b 5 ≤ 3) && zeros b 6 2
  | 0x84 => decide (mByte b 3 < 128 ∧ mByte b 4 < 16 ∧ mByte b 5 ≤ 15) && zeros b 6 2
  | 0x85 => !mFlag m 1 || zeros b 0 8
  | _ => mFlag m 0 || zeros b 4 4

/-- The first four rows of R383 for a message of 64 bytes: the FRL counter slot of the row that drops it, or none. -/
def msgFault (toHost : Bool) (m : List Byte) : Option Nat :=
  if m.length ≠ 64 ∨ crc32c (m.take 60) ≠ leWord (sub m 60 4) then some 4
  else match typeRule toHost (mType m) with
    | none => some 5
    | some (cls, seqd, free) =>
      if lenOk (mType m) m && mByte m 6 == cls && (mFlags m % 128) &&& (127 - free) == 0 &&
          zeros m (8 + mLen m) (52 - mLen m) && (seqd || mSeq m == 0) && payloadOk (mType m) m then none
      else some 6

/-! ## Parameters (R391) -/

/-- The default of a parameter. -/
def paramDefault (p : Nat) : List Byte :=
  let le := fun (l : List Nat) => l.map (BitVec.ofNat 8)
  if 0x100 ≤ p ∧ p ≤ 0x103 then leBytes 2 500 ++ leBytes 2 2000 ++ le [80, 1, 0, 0]
  else if 0x400 ≤ p ∧ p ≤ 0x403 then le [20, 0, 3, 0]
  else if p = 0x410 then leBytes 2 1000 ++ leBytes 2 25
  else if p = 0x500 then leBytes 4 60
  else if p = 0x501 then leBytes 4 500
  else List.replicate ((paramWidth p).getD 0) 0

/-- A parameter as it stands. -/
def Field.param (f : Field) (p : Nat) : List Byte := f.mram.params.get paramDefault p

/-- Whether a value keeps the rule of its parameter. -/
def paramOk (p : Nat) (v : List Byte) : Bool :=
  let w := fld v 0 4
  if 0x100 ≤ p ∧ p ≤ 0x103 then
    decide (125 ≤ fld v 0 2 ∧ fld v 0 2 ≤ 1000 ∧ (fld v 2 2 = 0 ∨ 1000 ≤ fld v 2 2 ∧ fld v 2 2 ≤ 8000) ∧ 60 ≤ mByte v 4 ∧
      mByte v 4 ≤ 90 ∧ mByte v 5 ≤ 2) && zeros v 6 2
  else if 0x200 ≤ p ∧ p ≤ 0x23F then decide (w.testBit 30 = false ∧ fld v 4 4 < 2 ^ 30)
  else if p = 0x280 ∨ p = 0x281 then decide (w ≤ 2)
  else if 0x300 ≤ p ∧ p ≤ 0x31F then
    decide (mByte v 0 ≤ 1 ∧ mByte v 1 < 8 ∧ fld v 4 2 < 4096 ∧ (mByte v 0 = 0 ∨ 14 ≤ fld v 12 2) ∧ fld v 12 2 ≤ 1518) && zeros v 14 6
  else if 0x400 ≤ p ∧ p ≤ 0x403 then decide (1 ≤ fld v 0 2 ∧ fld v 0 2 ≤ 1000 ∧ mByte v 2 < 4 ∧ mByte v 3 < 2)
  else if p = 0x410 then decide (100 ≤ fld v 0 2 ∧ fld v 0 2 ≤ 10000 ∧ 10 ≤ fld v 2 2 ∧ fld v 2 2 ≤ 5000)
  else if p = 0x420 ∨ p = 0x421 then decide (w ≤ 1)
  else if p = 0x500 then decide (1 ≤ w ∧ w ≤ 3600)
  else if p = 0x501 then decide (50 ≤ w ∧ w ≤ 1000)
  else if 0x600 ≤ p ∧ p ≤ 0x61F then
    decide (w < 2 ^ 30 ∧ mByte v 4 < 16 ∧ mByte v 5 ≤ 1 ∧ fld v 6 2 ≤ 1000) && (decide (1 ≤ fld v 6 2) || zeros v 0 8)
  else w == 1

/-! ## The ring (R397, R398) -/

/-- Changing the field die. -/
def State.modField (s : State) (g : Field → Field) : State := { s with field := g s.field }

/-- Whether a sequence number is at or before another, by the sign of their wrapped difference (R381). -/
def seqLe (a b : BitVec 32) : Bool := decide (0 ≤ (b - a).toInt)

/-- A count that stays at its maximum. -/
def sat32 (n : Nat) : Nat := min n 0xFFFFFFFF

/-- The next sequence number; the reserve is moved on before a number at or past it is given (R398). -/
def Field.take (f : Field) (ty cls flags : Nat) (body : List Byte) : Field :=
  let r := if seqLe f.mram.reserve f.seq then f.mram.reserve + 4096 else f.mram.reserve
  { f with seq := f.seq + 1, mram := { f.mram with reserve := r },
           ring := f.ring ++ [⟨f.seq, mkMsg ty f.seq.toNat cls flags body, false⟩] }

/-- The level of a wake output by its parameter: 0x0420 + j. -/
def Field.pinLevel (f : Field) (j : Nat) (on : Bool) : Bool := on == (mByte (f.param (0x420 + j)) 0).testBit 0

/-- An EVENT_RECORD's payload. -/
def eventBody (time : BitVec 64) (src st v : Nat) : List Byte :=
  leBytes 8 time.toNat ++ leBytes 1 src ++ leBytes 1 st ++ [0, 0] ++ leBytes 4 v

/-- Of the whole tokens that have come at 4,096 a second, at most `n` enter the bucket, up to its depth (R21, R397). -/
def Field.fillTokens (f : Field) (n : Nat) : Field :=
  { f with tokens := min 4096 (f.tokens + min n (f.tokAcc / 1000000)), tokAcc := f.tokAcc - 1000000 * min n (f.tokAcc / 1000000) }

/-- Entries that take tokens enter the ring together, or none does: ordinary entries leave the 16 of the reserve free. -/
def Field.enter (f : Field) (l : List (Nat × Nat × List Byte)) : Field × Bool :=
  let f := f.fillTokens f.tokAcc
  let n := l.length
  if f.tokens < n then ({ f with counts := { f.counts with rateDrops := sat32 (f.counts.rateDrops + n) } }, false)
  else
    let f := { f with tokens := f.tokens - n }
    if 131072 - 16 < f.ring.length + n then ({ f with counts := { f.counts with fullDrops := sat32 (f.counts.fullDrops + n) } }, false)
    else (l.foldl (fun (f : Field) e => f.take e.1 0 e.2.1 e.2.2) f, true)

/-- TIME_SYNC and HEALTH take no token and may use the reserve. -/
def Field.enterFree (f : Field) (ty flags : Nat) (body : List Byte) : Field :=
  if 131072 ≤ f.ring.length then { f with counts := { f.counts with fullDrops := sat32 (f.counts.fullDrops + 1) } }
  else f.take ty 0 flags body

/-- Asserting or releasing the wake outputs of a mask: each change makes an entry of SOURCE 5. -/
def State.wakeOutputs (s : State) (m : Nat) (on : Bool) : State :=
  (List.range 2).foldl (fun (s : State) j =>
    if m.testBit j ∧ s.field.outputs.getD j false ≠ on then
      let lv := s.field.pinLevel j on
      (s.modField fun f => (({ f with outputs := f.outputs.set j on }).enter [(1, 0, eventBody f.time 5 lv.toNat j)]).1).emit (.wakeOut j lv)
    else s) s

/-- WAKE with the sources that fired. -/
def Field.wakeMsg (f : Field) : List Byte := mkMsg 5 0 0 0 (leBytes 4 f.fired.toNat ++ leBytes 4 f.ring.length)

/-- Wake sources fire (R388): nothing is woken with the link up. -/
def State.fire (s : State) (m : Word) : State :=
  let m := m &&& s.field.mram.policy.sources
  if m = 0 ∨ s.field.linkUp = true then s
  else
    let s := s.modField fun f => { f with fired := f.fired ||| m, repeats := true }
    let s := s.emit (.toHost s.field.wakeMsg)
    s.wakeOutputs s.field.mram.policy.outmask true

/-- What the ring's fill fires: above RING_PCT. -/
def State.fireRing (s : State) : State :=
  if s.field.mram.policy.pct * 131072 < s.field.ring.length * 100 then s.fire 0x800 else s

/-- Entries enter, and the ring's fill is looked at. -/
def State.produce (s : State) (l : List (Nat × Nat × List Byte)) : State := (s.modField fun f => (f.enter l).1).fireRing
def State.record (s : State) (time : BitVec 64) (src st v : Nat) : State := s.produce [(1, 0, eventBody time src st v)]

/-- HEALTH's payload. -/
def Field.healthBody (f : Field) : List Byte :=
  let c := f.counts
  let v := if f.running = 1 then f.mram.copyA.version else if f.running = 2 then f.mram.copyB.version else 0
  leBytes 8 f.time.toNat ++ leBytes 4 c.rateDrops ++ leBytes 4 c.fullDrops ++ leBytes 4 c.rxErr ++ leBytes 4 f.ring.length ++
    leBytes 4 c.fcsErr ++ leBytes 4 c.canErr ++ leBytes 2 f.mv ++ leBytes 1 f.temp ++ [f.flags] ++ wordBytes v ++ leBytes 4 c.corr ++
    [0, 0, 0, 0]

/-- HEALTH's FLAGS as the die stands, and the entry that every change of them makes (R387). -/
def Field.flagsNow (f : Field) : Byte :=
  BitVec.ofNat 8 (f.tvalid.toNat + 2 * f.mram.lock.toNat + 4 * (f.running != 0).toNat +
    8 * (f.mram.copyA.state == 3 || f.mram.copyB.state == 3).toNat + 16 * f.fell.toNat)
def State.health (s : State) : State :=
  let s := s.modField fun f => { f with flags := f.flagsNow }
  (s.modField fun f => f.enterFree 6 0 f.healthBody).fireRing
def State.syncFlags (s : State) : State := if s.field.flags = s.field.flagsNow then s else s.health

/-- A TIME_SYNC entry; `before` is the time before a step. -/
def State.syncEntry (s : State) (before : Option (BitVec 64)) : State :=
  (s.modField fun f =>
    let body := leBytes 8 f.time.toNat ++ leBytes 8 ((before.map BitVec.toNat).getD 0) ++
      leBytes 4 ((BitVec.ofInt 32 f.mram.trim).toNat) ++ leBytes 1 (f.tvalid.toNat + 2 * f.slew.isSome.toNat) ++
      leBytes 1 f.quality ++ [0, 0]
    f.enterFree 4 before.isSome.toNat body).fireRing

/-! ## Inputs (R384 to R386, R393) -/

/-- DISCRETE_INPUT_CHANGE: the level the pin has held; `t` is its first edge. -/
def execDiscreteInputChange (n : Nat) (level : Bool) (t : BitVec 64) (s : State) : Answer :=
  if !s.field.powered || decide (4 ≤ n) || s.field.levels.getD n false == level then .next s
  else
    let p := s.field.param (0x400 + n)
    let lv := level != (mByte p 3).testBit 0
    let s := s.modField fun f => { f with levels := f.levels.set n level }
    let s := if (mByte p 2).testBit (if lv then 0 else 1) then s.record t n lv.toNat 0 else s
    .next (s.fire (BitVec.ofNat 32 (2 ^ n)))

/-- SPEED_PULSE. -/
def execSpeedPulse (widthUs : Nat) (s : State) : Answer :=
  if !s.field.powered || decide (widthUs < fld (s.field.param 0x410) 2 2) then .next s
  else .next ((s.modField fun f => { f with pulses := f.pulses + 1 }).fire 0x400)

/-- SPEED_SAMPLE: at the end of an interval with a nonzero count, and of the first one whose count falls to zero. -/
def execSpeedSample (s : State) : Answer :=
  let f := s.field
  if !f.powered then .next s
  else
    let s := if f.pulses != 0 || f.pulsed then s.record f.time 4 0 f.pulses else s
    .next (s.modField fun f => { f with pulsed := f.pulses != 0, pulses := 0 })

/-- Whether a CAN frame passes the filters of its bus: an enabled one, or none enabled. -/
def Field.canPasses (f : Field) (bus : Nat) (ident : Word) : Bool :=
  let l := ((List.range 16).map fun k => f.param (0x200 + 16 * bus + k)).filter fun v => (mByte v 3).testBit 7
  l.isEmpty || l.any fun v => (ident ^^^ leWord (v.take 4)) &&& leWord (sub v 4 4) &&& 0x3FFFFFFF == 0

/-- A classic record. -/
def canRec (toff bus dlc : Nat) (ident : Word) (data : List Byte) : List Byte :=
  let n := if bit ident 30 then 0 else dlc
  leBytes 2 toff ++ leBytes 1 bus ++ leBytes 1 dlc ++ wordBytes ident ++ sub (data.take n) 0 8

/-- The last entry, when it is one classic frame not yet sent that ended at most 1 ms ago: the new frame is joined to it. -/
def Field.joins (f : Field) : Option RingEntry :=
  match f.ring.getLast? with
  | some e =>
    let ms := (f.time - BitVec.ofNat 64 (fld (mBody e.msg) 0 8)).toNat
    if mType e.msg = 2 ∧ mLen e.msg = 24 ∧ mFlag e.msg 0 = false ∧ seqLe f.sendAt e.seq = true ∧ ms ≤ 1000 then some e else none
  | none => none

/-- CAN_FRAME_RECEIVED: a frame without error on a bus that is not off; a classic-only bus receives no FD frame (R391). -/
def execCanFrameReceived (bus : Nat) (ident : Word) (fd brs esi : Bool) (dlc : Nat) (data : List Byte) (s : State) : Answer :=
  let f := s.field
  let id := ident &&& (if fd then 0x3FFFFFFF else 0x7FFFFFFF)
  let off := mByte (f.param (0x100 + bus)) 5 == 0 || fd && zeros (f.param (0x100 + bus)) 2 2
  if !f.powered || decide (4 ≤ bus) || off || !f.canPasses bus id then .next s
  else
    let dlc := if fd then min dlc 15 else min dlc 8
    let time := leBytes 8 f.time.toNat
    let s :=
      if fd then
        let n := canLen true dlc
        let head := fun (p : Nat) => time ++ wordBytes id ++ leBytes 1 (bus + 4 * brs.toNat + 8 * esi.toNat) ++ leBytes 1 dlc ++
          leBytes 1 p ++ [0]
        let d := sub data 0 n
        if n ≤ 36 then s.produce [(2, 1, head 0 ++ d)]
        else s.produce [(2, 1, head 0 ++ d.take 36), (2, 1, head 1 ++ d.drop 36)]
      else match f.joins with
        | some e =>
          let ms := (f.time - BitVec.ofNat 64 (fld (mBody e.msg) 0 8)).toNat
          let m := mkMsg 2 e.seq.toNat 0 0 (mBody e.msg ++ canRec ms bus dlc id data)
          s.modField fun f => { f with ring := f.ring.dropLast ++ [{ e with msg := m }] }
        | none => s.produce [(2, 0, time ++ canRec 0 bus dlc id data)]
    .next (s.fire (BitVec.ofNat 32 (2 ^ (4 + bus))))

/-- CAN_BUS_STATE_CHANGE. -/
def execCanBusStateChange (bus st tec rec : Nat) (s : State) : Answer :=
  if !s.field.powered || decide (4 ≤ bus) || decide (2 < st) || s.field.busSt.getD bus 0 == st then .next s
  else .next ((s.modField fun f => { f with busSt := f.busSt.set bus st }).record s.field.time 7 st
    (tec % 256 + rec % 256 * 256 + bus * 65536))

/-- Whether a frame matches an Ethernet filter (R393). -/
def ethMatches (v fr : List Byte) : Bool :=
  let be := fun (k : Nat) => mByte fr k * 256 + mByte fr (k + 1)
  let tagged := be 12 == 0x8100
  let ety := if tagged then be 16 else be 12
  let m := mByte v 1
  mByte v 0 == 1 && (!m.testBit 0 || (tagged && be 14 % 4096 == fld v 4 2)) && (!m.testBit 1 || ety == fld v 2 2) &&
    (!m.testBit 2 || fr.take 6 == sub v 6 6)

/-- ETH_FRAME_RECEIVED: a frame with a good FCS, given without it. -/
def execEthFrameReceived (port : Nat) (frame : List Byte) (s : State) : Answer :=
  let f := s.field
  if !f.powered || decide (2 ≤ port) || mByte (f.param (0x280 + port)) 0 == 0 || decide (frame.length < 14 ∨ 1518 < frame.length) then .next s
  else match (List.range 16).find? fun k => ethMatches (f.param (0x300 + 16 * port + k)) frame with
    | none => .next s
    | some k =>
      let cap := min frame.length (fld (f.param (0x300 + 16 * port + k)) 12 2)
      let num := f.frames.getD port 0
      let parts := (cap + 35) / 36
      let part := fun (p : Nat) =>
        (3, (p + 1 == parts).toNat, leBytes 8 f.time.toNat ++ leBytes 2 num.toNat ++ leBytes 2 cap ++ leBytes 1 (port + 2 * k) ++
          leBytes 1 p ++ leBytes 2 (36 * p) ++ (frame.take cap).drop (36 * p) |>.take (16 + min 36 (cap - 36 * p)))
      let s := s.modField fun f => { f with frames := f.frames.set port (num + 1) }
      .next ((s.produce ((List.range parts).map part)).fire (BitVec.ofNat 32 (2 ^ (8 + port))))

/-- ETHERNET_LINK_CHANGE. -/
def execEthernetLinkChange (port : Nat) (up : Bool) (s : State) : Answer :=
  if !s.field.powered || decide (2 ≤ port) || s.field.ethUp.getD port false == up then .next s
  else .next ((s.modField fun f => { f with ethUp := f.ethUp.set port up }).record s.field.time 8 up.toNat port)

/-! ## Timers of the field die -/

/-- A command of the field die, which has effect while it is powered. -/
def onField (s : State) (g : State → State) : Answer := if s.field.powered then .next (g s) else .next s

/-- FIELD_TOKEN_REFILL: `n` tokens enter the bucket, as far as they have come (R397). -/
def execFieldTokenRefill (n : Nat) (s : State) : Answer := onField s fun s => s.modField fun f => f.fillTokens n
def execTimeSyncInterval (s : State) : Answer := onField s fun s => s.syncEntry none
def execHealthInterval (mv temp : Nat) (s : State) : Answer :=
  onField s fun s => (s.modField fun f => { f with mv := mv % 65536, temp := temp % 256 }).health
def execLegalTimeStore (s : State) : Answer :=
  onField s fun s => s.modField fun f => { f with mram := { f.mram with time := f.time } }

/-- RTC_ALARM: the alarm time of the policy has been reached. -/
def execRtcAlarm (s : State) : Answer :=
  onField s fun s =>
    let a := s.field.mram.policy.alarm
    if a ≠ 0 ∧ a.toNat ≤ s.field.time.toNat then s.fire 0x1000 else s

/-- The RTC's course over some microseconds, turned by a slew at its rate (R376). -/
def Field.advance (f : Field) (us : Nat) : Field :=
  if !f.powered then f
  else
    let f := { f with tokAcc := f.tokAcc + 4096 * us }
    match f.slew with
    | none => { f with time := f.time + BitVec.ofNat 64 us }
    | some d =>
      let acc := f.slewAcc + us * fld (f.param 0x501) 0 4
      let k := min (acc / 1000000) d.natAbs
      let t := if 0 ≤ d then us + k else us - k
      { f with time := f.time + BitVec.ofNat 64 t, slewAcc := acc % 1000000, slew := some (if 0 ≤ d then d - k else d + k) }

/-- SLEW_COMPLETE. -/
def execSlewComplete (s : State) : Answer :=
  onField s fun s => if s.field.slew = some 0 then s.modField fun f => { f with slew := none, slewAcc := 0 } else s

/-- WAKE_REPEAT. -/
def execWakeRepeat (s : State) : Answer :=
  onField s fun s => if s.field.repeats ∧ s.field.linkUp = false then s.emit (.toHost s.field.wakeMsg) else s

/-- WAKE_OUTPUT_TIMEOUT: the outputs are released, or asserted again while the source persists. -/
def execWakeOutputTimeout (again : Bool) (s : State) : Answer :=
  onField s fun s =>
    if again then
      if s.field.repeats ∧ s.field.linkUp = false then s.wakeOutputs s.field.mram.policy.outmask true else s
    else s.wakeOutputs 3 false

/-- RING_ENTRY_SEND: the next entry, its stored CRC checked first (R398). -/
def execRingEntrySend (s : State) : Answer :=
  onField s fun s =>
    let f := s.field
    if !f.linkUp then s
    else match f.ring.find? fun e => e.seq == f.sendAt with
      | none => s
      | some e =>
        let ok := !e.bad && crc32c (e.msg.take 60) == leWord (sub e.msg 60 4)
        let m := if ok then e.msg else mkMsg 1 e.seq.toNat 0 0 (eventBody f.time 9 0 (mType e.msg))
        let again := !seqLe f.resent f.sendAt
        (s.modField fun f => { f with sendAt := f.sendAt + 1 }).emit (.toHost (if again then resent m else m))

/-- FIELD_COLD_START (R375, R398). -/
def execFieldColdStart (s : State) : Answer :=
  if s.field.powered then .next s
  else
    let s := s.modField fun f =>
      let q := f.mram.reserve
      { f with
        powered := true, fell := false, time := f.mram.time, tvalid := false, slew := none, slewAcc := 0, quality := 0, lastSet := none
        ring := [], seq := q, sendAt := q, resent := q, tokens := 4096, tokAcc := 0, fired := 0, repeats := false, outputs := [false, false]
        mram := { f.mram with cold := sat32 (f.mram.cold + 1) }
        counts := { rateDrops := 0, fullDrops := 0, rxErr := 0, fcsErr := 0, canErr := 0, corr := 0, cold := 0 }
        frames := [0, 0], pulses := 0, pulsed := false, expect := none, acks := [], tx := [], sentAt := [], linkUp := false }
    .next ((s.record s.field.time 6 0 s.field.mram.cold).syncFlags)

/-! ## Host messages (R382, R383, R389 to R396) -/

/-- The field die's ACK. -/
def State.fieldAck (s : State) (q : BitVec 32) (result : Nat) : State :=
  (s.modField fun f => { f with acks := ((q, result) :: f.acks).take 8 }).emit
    (.toHost (mkMsg 7 0 0 0 (leBytes 4 q.toNat ++ leBytes 1 result ++ [0, 0, 0])))

/-- A dropped host message counts in RX_ERR. -/
def State.rxErr (s : State) : State :=
  s.modField fun f => { f with counts := { f.counts with rxErr := sat32 (f.counts.rxErr + 1) } }

/-- A sequenced host message of a type at the field die: what is not acted on is dropped, a duplicate's ACK is repeated; `act`
gives its result, none when the ACK follows later. -/
def State.fieldReceive (s : State) (m : List Byte) (act : State → State × Option Nat) : State :=
  if !s.field.powered || !s.field.linkUp then s
  else if (msgFault false m).isSome then s.rxErr
  else
    let q := mSeq m
    let e := s.field.expect.getD q
    if q = e then
      let (s, r) := act (s.modField fun f => { f with expect := some (q + 1) })
      match r with
      | some r => s.fieldAck q r
      | none => s
    else if seqLe q e then
      match s.field.acks.find? fun a => a.1 == q with
      | some a => s.emit (.toHost (mkMsg 7 0 0 0 (leBytes 4 q.toNat ++ leBytes 1 a.2 ++ [0, 0, 0])))
      | none => s
    else s.rxErr

/-- A row of a type takes messages of that type, and messages that no row would take. -/
def rowTakes (toHost : Bool) (ty : Nat) (m : List Byte) : Bool := mType m == ty || (typeRule toHost (mType m)).isNone

/-- CONFIG: the parameter's new value, with its result (R391); once LOCK reads 1, every number from 0600h to 06FFh is refused (R392). -/
def State.config (s : State) (b : List Byte) : State × Option Nat :=
  let p := fld b 0 2
  let v := b.drop 4
  if 0x600 ≤ p ∧ p ≤ 0x6FF ∧ s.field.mram.lock = true then (s, some 3)
  else if (paramWidth p).isNone then (s, some 1)
  else if !paramOk p v then (s, some 2)
  else if p = 0x6FF then ((s.modField fun f => { f with mram := { f.mram with lock := true } }).syncFlags, some 0)
  else (s.modField fun f => { f with mram := { f.mram with params := f.mram.params.set paramDefault p v } }, some 0)

def execConfig (msg : List Byte) (s : State) : Answer :=
  if rowTakes false 0x81 msg then .next (s.fieldReceive msg fun s => s.config (mBody msg)) else .next s

/-- TIME_SET (R376): refused, stepped or slewed. The trim follows two slewing sets at least 6 h apart. -/
def State.timeSet (s : State) (v : BitVec 64) (quality : Nat) : State × Option Nat :=
  let f := s.field
  let d : Int := (v.toNat : Int) - f.time.toNat
  if v.toNat < 1704067200000000 then (s, some 9)
  else if !f.tvalid || decide (1000000 < d.natAbs) then
    let s := s.modField fun f => { f with
      time := v, tvalid := true, quality := quality, slew := none, slewAcc := 0, lastSet := f.lastSet.map fun t => t + (v - f.time) }
    ((s.syncEntry (some f.time)).syncFlags, some 0)
  else
    let us : Int := match f.lastSet with
      | some t => (f.time - t).toNat
      | none => 0
    let trim := if 21600000000 ≤ us then max (-50000) (min 50000 (f.mram.trim + d * 1000000000 / us)) else f.mram.trim
    let s := s.modField fun f =>
      { f with slew := some d, slewAcc := 0, quality := quality, lastSet := some f.time, mram := { f.mram with trim := trim } }
    ((s.syncEntry none).syncFlags, some 0)

def execTimeSet (msg : List Byte) (s : State) : Answer :=
  let b := mBody msg
  if rowTakes false 0x82 msg then .next (s.fieldReceive msg fun s => s.timeSet (BitVec.ofNat 64 (fld b 0 8)) (mByte b 8)) else .next s

/-- WAKE_POLICY. -/
def execWakePolicy (msg : List Byte) (s : State) : Answer :=
  let b := mBody msg
  let p : WakePolicy := { sources := leWord (b.take 4), pct := mByte b 4, outmask := mByte b 5, alarm := BitVec.ofNat 64 (fld b 8 8) }
  if rowTakes false 0x83 msg then
    .next (s.fieldReceive msg fun s => (s.modField fun f => { f with mram := { f.mram with policy := p } }, some 0))
  else .next s

/-- The allow-list entries that name a frame's ID word and bus (R394). -/
def Field.allowed (f : Field) (ident : Word) (bus : Nat) : List Nat :=
  (List.range 32).filter fun k =>
    let v := f.param (0x600 + k)
    decide (1 ≤ fld v 6 2) && leWord (v.take 4) == ident && (mByte v 4).testBit bus

/-- TX_CAN: accepted, or its result (R394, R395). Frames sent in the last second and those still to be sent count towards an entry's MAXRATE. -/
def State.txCan (s : State) (q : BitVec 32) (b : List Byte) : State × Option Nat :=
  let f := s.field
  let ident := leWord (b.take 4)
  let bus := mByte b 4 % 4
  let fd := (mByte b 4).testBit 2
  let named := if f.mram.lock then f.allowed ident bus else []
  let fits := named.filter fun k => !fd || mByte (f.param (0x600 + k)) 5 != 0
  let recent := f.sentAt.filter fun x => decide ((f.time - x.2).toNat < 1000000)
  let room := fun (k : Nat) => decide ((recent.filter fun x => x.1 == k).length + (f.tx.filter fun x => x.entry == k).length <
    fld (f.param (0x600 + k)) 6 2)
  if fd ∧ 13 < mByte b 5 then (s, some 2)
  else if named.isEmpty then (s, some 4)
  else if mByte (f.param (0x100 + bus)) 5 ≠ 2 then (s, some 6)
  else if fits.isEmpty then (s, some 4)
  else match fits.find? room with
    | none => (s, some 5)
    | some k =>
      let x : CanTx := { seq := q, bus := bus, ident := ident, ctl := mByte b 4, dlc := mByte b 5, data := b.drop 8, entry := k }
      (s.modField fun f => { f with tx := f.tx ++ [x], sentAt := recent }, none)

def execTxCan (msg : List Byte) (s : State) : Answer :=
  if rowTakes false 0x84 msg then .next (s.fieldReceive msg fun s => s.txCan (mSeq msg) (mBody msg)) else .next s

/-- CAN_TRANSMIT_DONE: of the oldest accepted frame. -/
def execCanTransmitDone (ok : Bool) (s : State) : Answer :=
  onField s fun s => match s.field.tx with
    | [] => s
    | x :: rest =>
      let s := s.modField fun f => { f with tx := rest }
      let s := if ok then
          (s.modField fun f => { f with sentAt := f.sentAt ++ [(x.entry, f.time)] }).emit (.can x.bus x.ident x.ctl x.dlc x.data)
        else s
      s.fieldAck x.seq (if ok then 0 else 6)

/-- The patch copy that is not running, and changing it. -/
def Field.spare (f : Field) : Patch := if f.running = 1 then f.mram.copyB else f.mram.copyA
def Field.setSpare (f : Field) (p : Patch) : Field :=
  { f with mram := if f.running = 1 then { f.mram with copyB := p } else { f.mram with copyA := p } }

/-- FIELD_IMAGE: one segment (R396). -/
def State.fieldSegment (s : State) (m : List Byte) : State × Option Nat :=
  let b := mBody m
  let off := fld b 0 4
  let total := fld b 4 4
  let n := mLen m - 8
  let p := s.field.spare
  if p.state = 2 then (s, some 10)
  else if 917504 < total ∨ total < off + n ∨ off ≠ 0 ∧ (p.state ≠ 1 ∨ p.next ≠ off ∨ p.total ≠ total) then (s, some 7)
  else
    let old := if off = 0 then [] else p.bytes
    let last := mFlag m 0 && off + n == total
    let q : Patch := { bytes := storeBytes old off (b.drop 8), total := total, next := off + n, state := if last then 2 else 1, version := 0 }
    let s := s.modField fun f => { f.setSpare q with imgSeq := if last then mSeq m else f.imgSeq }
    (s.syncFlags, if last then none else some 0)

def execFieldImage (msg : List Byte) (s : State) : Answer :=
  if rowTakes false 0x85 msg && !mFlag msg 1 then .next (s.fieldReceive msg fun s => s.fieldSegment msg) else .next s

/-- FIELD_IMAGE_VERIFIED. -/
def execFieldImageVerified (ok : Bool) (version : Word) (s : State) : Answer :=
  onField s fun s =>
    let p := s.field.spare
    if p.state ≠ 2 then s
    else
      let s := s.modField fun f => f.setSpare { p with state := if ok then 3 else 0, version := if ok then version else 0 }
      s.syncFlags.fieldAck s.field.imgSeq (if ok then 0 else 8)

/-- FIELD_IMAGE_ACTIVATE: a warm restart into the pending copy, or back from it when it fails to start. -/
def State.activatePatch (s : State) (starts : Bool) : State × Option Nat :=
  let f := s.field
  let p := f.spare
  if p.state = 2 then (s, some 10)
  else if p.state ≠ 3 then (s, some 7)
  else
    let s := s.modField fun f => f.setSpare { p with state := 4 }
    let s := s.modField fun g =>
      { g with running := if starts then (if f.running = 1 then 2 else 1) else f.running, fell := !starts }
    (s.syncFlags, some 0)

def execFieldImageActivate (msg : List Byte) (starts : Bool) (s : State) : Answer :=
  if mType msg == 0x85 && mFlag msg 1 then .next (s.fieldReceive msg fun s => s.activatePatch starts) else .next s

/-- The SEQ of the oldest entry not yet freed, or of the next; and the one after the last entry ever sent. -/
def Field.oldest (f : Field) : BitVec 32 :=
  match f.ring with
  | e :: _ => e.seq
  | [] => f.seq
def Field.sentTo (f : Field) : BitVec 32 := if seqLe f.resent f.sendAt then f.sendAt else f.resent

/-- Sending goes on from a SEQ that has been sent before, or from the oldest entry held when that is later (R381). -/
def Field.sendFrom (f : Field) (q : BitVec 32) : Field :=
  let q := if seqLe q f.sendAt then q else f.sendAt
  { f with sendAt := if seqLe f.oldest q then q else f.oldest, resent := f.sentTo }

/-- HOST_ACK: durable entries are freed; RESEND moves the sending back; RESUME is answered (R381, R389). -/
def execHostAck (msg : List Byte) (s : State) : Answer :=
  if !s.field.powered || !s.field.linkUp || !rowTakes false 0x86 msg then .next s
  else if (msgFault false msg).isSome then .next s.rxErr
  else
    let b := mBody msg
    let a := leWord (b.take 4)
    let s := if seqLe s.field.sentTo a then s.rxErr
      else s.modField fun f => { f with ring := f.ring.filter fun e => !seqLe e.seq a }
    let s := s.modField fun f => f.sendFrom (if mFlag msg 0 then leWord (sub b 4 4) else f.sendAt)
    if mFlag msg 1 then
      let q := s.field.oldest
      let s := s.modField fun f => { f with sendAt := q, resent := f.seq }
      .next (s.emit (.toHost (mkMsg 7 0 0 2 (leBytes 4 q.toNat ++ [0, 0, 0, 0]))))
    else .next s

/-! ## The device time -/

/-- Time passes: the device time, and the legal time of the field die's own clock (R42, R375). -/
def State.elapse (s : State) (us : Nat) : State :=
  { s with pages := { s.pages with dtime := s.pages.dtime + BitVec.ofNat 64 us }, field := s.field.advance us }

/-- The microseconds of the always-on tick at a phase of its second (R42): a tick is 30 and 265/512 µs. R42 gives the sum over a second; which
ticks are of 30 and which of 31 µs is the model's choice, spread evenly (DESIGN CHOICE, log 86). -/
def aonMicros (p : Nat) : Nat := 30 + ((p + 1) * 265 / 512 - p * 265 / 512)

/-- The phase after a tick: a second has 32,768 of them. -/
def nextPhase (p : Nat) : Nat := if p = 32767 then 0 else p + 1

/-- The device time (R42): 1 µs while the fast clocks run; else 30 or 31 µs at each tick of the always-on clock, so that
32,768 ticks make 1,000,000 µs. A tick of the clock that does not drive it changes nothing. -/
def execDeviceTimeTick (aon : Bool) (s : State) : Answer :=
  if aon = s.fastClocks then .next s
  else if aon then
    let p := s.pages.aonPhase
    let s := s.elapse (aonMicros p)
    .next { s with pages := { s.pages with aonPhase := nextPhase p } }
  else .next (s.elapse 1)

end Sys2Proof.Machine
end

