-- ==== Sys2Proof/Machine/Keys.lean ====
section
/-!
DEFINITION. Key epochs kept by the journal (R214, R318), the commands of KEY_CMD (R330), and the keys that vendor firmware derives by
itself (R313, R318, R363, R455).
-/

namespace Sys2Proof.Machine

/-! ## Epochs in the journal -/

/-- The EPOCH record of a label: a DATA key by its namespace; another under NSID 0 with its function and its purpose (R318). -/
def epochRecord (l : BitVec 512) : JRec :=
  if labelByte l 0 = 1 then .epoch (labelByte l 2) 0 (labelEpoch l)
  else .epoch 0 (labelByte l 1 + 256 * labelByte l 0) (labelEpoch l)

/-- The key of `epochs` that an EPOCH record names. -/
def epochKey (nsid key : Nat) : Nat :=
  if key = 0 then nsid
  else if key % 256 = 0xFF then 33
  else if key / 256 = 2 then 64 + key % 256
  else 80 + key % 256

/-- The record that a later epoch in slot `n` calls for, `old` being the state before (EPOCH_ADVANCE). -/
def State.journalKey (s old : State) (n : Nat) : State :=
  if s.crypto.epochs = old.crypto.epochs then s else s.commit [epochRecord (s.key n).label]

/-- A write of KEY_CMD with the EPOCH record of what it derives. -/
def keyCmdWrite (m : Master) (v : Word) (s : State) : State := (keyCmdEffect m v s).journalKey s (bits v 8 3)

/-- A write of KEY_CMD with a given OP. -/
def keyCmd (m : Master) (op : Nat) (v : Word) (s : State) : Answer :=
  let v := setBits v 2 0 op
  .next (s.write m keyPage 0x84 32 v noCond fun _ => keyCmdWrite m v).1

def execDerive (m : Master) (v : Word) (s : State) : Answer := keyCmd m 1 v s
def execErase (m : Master) (v : Word) (s : State) : Answer := keyCmd m 2 v s
def execInstall (m : Master) (v : Word) (s : State) : Answer := keyCmd m 3 v s
def execEraseAll (m : Master) (v : Word) (s : State) : Answer := keyCmd m 4 v s

/-- KEY_OP_REFUSED: a write whose OP is 0 or 5 to 7. -/
def execKeyOpRefused (m : Master) (v : Word) (s : State) : Answer :=
  let op := bits v 2 0
  keyCmd m (if op = 0 ∨ 5 ≤ op then op else 0) v s

/-! ## Slots in use -/

/-- A label of AES-256: purpose, function, namespace, epoch. -/
def mkLabel (purpose fn nsid : Nat) (e : BitVec 32) : BitVec 512 :=
  BitVec.ofNat 512 (purpose + fn * 2 ^ 8 + nsid * 2 ^ 16 + 2 * 2 ^ 24 + e.toNat * 2 ^ 32)

/-- Deriving a slot at the next epoch of its key, with the EPOCH record. -/
def State.deriveNext (s : State) (n purpose fn nsid : Nat) : State :=
  let root := decide (purpose = 2) && s.crypto.root.isSome
  let l := mkLabel purpose fn nsid 0
  let e := match labelKey l with
    | some k => s.lastEpoch k + 1
    | none => 0
  let l := mkLabel purpose fn nsid e
  (s.loadKey n root l 2).commit [epochRecord l]

/-- What each slot in use holds: purpose, function, namespace; a function's lowest slot its SEAL key and its next its PROGRAM key. -/
def State.slotsInUse (s : State) : List (Nat × Nat × Nat × Nat) :=
  let ns := (List.range 33).filter fun n => n == 0 || (n == 1 && s.host.evid.cap != 0) || (s.ns? n).any fun x => x.kind == .nvm
  ns.map (fun n => (n, 1, 0xFF, n)) ++ [(33, 2, 0xFF, 0)] ++
    (List.range 16).flatMap fun f =>
      match s.keySlots (Fin.ofNat 16 f) with
      | [] => []
      | [a] => [(a, 2, f, 0)]
      | a :: b :: _ => [(a, 2, f, 0), (b, 3, f, 0)]

/-- Deriving every slot in use that holds no key (R455). -/
def State.rederive (s : State) : State :=
  s.slotsInUse.foldl (fun (s : State) x => if (s.key x.1).valid then s else s.deriveNext x.1 x.2.1 x.2.2.1 x.2.2.2) s

/-- The wrapped root of the boot NOR is installed, unless TAMPER has occurred (R455). -/
def State.reinstallRoot (s : State) : State :=
  if s.events.tamper then s else (s.installBlob s.start.nor.blob).getD s

end Sys2Proof.Machine
end

