-- ==== Sys2Proof/Machine/Events.lean ====
section
/-!
DEFINITION. Alarms (R454, R455), the availability accounting (R456 to R459), and the view of page EVT (R448, R450, R451).
-/

namespace Sys2Proof.Machine

/-! ## Unavailable intervals (R457) -/

/-- Opening an interval of a cause; EV_EVT_UNAV when none was open (R460). -/
def State.openSpan (s : State) (c : Nat) (r : Option CmdRef) : State :=
  if s.events.spans.contains (c, r) then s
  else
    let first := s.events.spans.isEmpty
    let s : State := { s with events := { s.events with spans := s.events.spans ++ [(c, r)], unav := true } }
    let s := s.count 0x005 6 1
    if first then s.raise 0x005 6 else s

/-- Closing every interval of a cause. -/
def State.closeSpan (s : State) (c : Nat) : State :=
  { s with events := { s.events with spans := s.events.spans.filter fun x => x.1 != c } }

/-- EVIDENTIAL_BOUND_PASSED. -/
def execEvidentialBoundPassed (c : CmdRef) (s : State) : Answer :=
  match s.cmd? c with
  | some k =>
    let open_ := match k.phase with
      | .done _ => false
      | _ => true
    if k.admitted ∧ k.cls = 0 ∧ k.deadline < s.ns ∧ open_ = true ∧ s.adm.bound.contains c = false then
      .next (({ s with adm := { s.adm with bound := s.adm.bound ++ [c] } } : State).openSpan 2 (some c))
    else .next s
  | none => .next s

/-! ## Accounting (R456, R459) -/

/-- PCT_USED is at most 100. -/
def State.withinLife (s : State) : Bool := decide (s.pctUsed ≤ 100)

/-- Whether the conditions of R456 hold now. -/
def State.accountable (s : State) : Bool :=
  s.regBit EVT_CTRL 1 && s.power.v12 && s.power.aon && decide (s.field? PWR_STAT 2 0 < 2) && s.power.caseOutT.isNone &&
    s.power.supplyT.isNone && !s.sqlAny && !s.events.excluded && s.withinLife

/-- AVAILABILITY_TICK: the millisecond that ends is counted, and the next begins. -/
def execAvailabilityTick (s : State) : Answer :=
  let ok := s.accountable && !s.events.broken
  let un := s.events.unav || !s.events.spans.isEmpty
  let s : State := { s with events := { s.events with broken := !s.accountable, unav := false } }
  if !ok then .next s
  else
    let s := s.count64 0x005 2 1
    .next (if un then s.count64 0x005 4 1 else s)

/-- The counters written to the health log. -/
def State.writeAcct (s : State) : State :=
  let pair := fun (k : Nat) => BitVec.ofNat 64 ((s.reg (0x5F08 + 4 * k)).toNat + 2 ^ 32 * (s.reg (0x5F0C + 4 * k)).toNat)
  { s with
    start := { s.start with nor := { s.start.nor with acctMs := pair 2, unavMs := pair 4, unavInt := s.reg (0x5F08 + 24) } }
    events := { s.events with logT := s.pages.dtime } }

/-- ACCOUNTING_LOG_WRITE: every hour. -/
def execAccountingLogWrite (s : State) : Answer :=
  if s.start.phase = .off ∨ s.start.phase = .rom ∨ (s.pages.dtime - s.events.logT).toNat < 3600000000 then .next s
  else .next s.writeAcct

/-- EVT_STAT as it reads. -/
def evtStat (s : State) : Word :=
  let c := match s.events.spans with
    | x :: _ => x.1
    | [] => 0
  BitVec.ofNat 32 ((s.accountable && !s.events.broken).toNat * 32 + c * 2 + (decide (c ≠ 0)).toNat)

/-- EVT_PEND as it reads: 32 pages of the PF map. -/
def evtPend (s : State) (k : Nat) : Word :=
  BitVec.ofNat 32 ((List.range 32).foldl (fun a j =>
    if pfPages.contains (32 * k + j) && s.pageOn (32 * k + j) && s.evPending (32 * k + j) != 0 then a + 2 ^ j else a) 0)

/-- EVT_CTRL: REARM clears EVT_FIRST. Accounting that has been off starts within a millisecond. -/
def evtCtrlEffect (v : Word) (d : RegDef) (s : State) : State :=
  let s := if s.regBit EVT_CTRL 1 then s else s.breakMs
  let s := s.store EVT_CTRL v d
  if bit v 0 then ((s.setReg EVT_FIRST0 0).setReg EVT_FIRST1 0).setReg EVT_FIRST2 0 else s

/-- REARM. -/
def execRearm (m : Master) (v : Word) (s : State) : Answer :=
  let v := setBit v 0 true
  .next (s.write m 0x005 0x80 32 v noCond fun d => evtCtrlEffect v d).1

/-- EVT_ALARM: a SEEN bit whose alarm is active stays (R460). -/
def evtAlarmEffect (v : Word) (s : State) : State :=
  let a := s.reg EVT_ALARM
  s.setReg EVT_ALARM (a &&& ~~~(v &&& 0x1F &&& ~~~(a >>> 8)))

/-- The routes that name functions which no longer exist revert to the warden (R448). -/
def State.revertRoutes (s : State) : State :=
  pfPages.foldl (fun (s : State) p =>
    let (d, _, f) := s.route p
    if d = 0 ∧ s.fnExists f = false then
      let s := s.setReg (EV_ROUTE p) 2
      let s := (s.count 0x005 9 1).raise 0x005 5
      relevel p s
    else s) s

/-! ## Alarms -/

/-- An alarm begins. For KEYSLOT firmware derives the faulted slots again at once. -/
def State.beginAlarm (s : State) (n : Nat) : State :=
  let s := if s.events.alarms.contains n then s else s.raiseAlarm n
  if n = 4 then s.rederive
  else
    let s : State := if n = 3 then { s with events := { s.events with tamper := true } } else s
    let s := if s.pageOn keyPage then s.cryptoAlarm else { s with crypto := { s.crypto with root := none } }
    let s := s.syncTemp.syncSupply
    if n = 1 ∨ n = 3 then s.openSpan 4 none else s

/-- ALARM: of R454. -/
def execAlarm (n : Nat) (s : State) : Answer :=
  if 5 ≤ n ∨ n ≠ 4 ∧ s.events.alarms.contains n = true then .next s else .next (s.beginAlarm n)

/-- An alarm ends. When none but KEYSLOT is left, the root is installed and every slot in use derived again, and admission opens. After
CLOCK the warden owes a main-side restart (R442). -/
def State.endAlarm (s : State) (n : Nat) : State :=
  let s : State := { s with events := { s.events with alarms := s.events.alarms.filter (· != n) } }
  let s := s.setReg EVT_ALARM (setBit (s.reg EVT_ALARM) (8 + n) false)
  let s := s.syncTemp.syncSupply
  let s : State :=
    if n ≠ 4 ∧ s.events.alarms.all (· == 4) = true then
      let s := s.reinstallRoot
      let s := if s.pageOn keyPage then (s.setReg KEY_STAT (setBit (s.reg KEY_STAT) 3 false)).rederive else s
      s.closeSpan 4
    else s
  let s : State := if n = 1 then { s with start := { s.start with pendRst := some 5 } } else s
  s.raise 0x005 4

/-- ALARM_END. -/
def execAlarmEnd (n : Nat) (s : State) : Answer :=
  if s.events.alarms.contains n then .next (s.endAlarm n) else .next s

end Sys2Proof.Machine
end

