-- ==== Sys2Proof/Machine/Frl.lean ====
section
/-!
DEFINITION. The host side of the Front link (18): the link (R378), receiving (R381, R383), host messages (R382, R403), and cell 14's
capture into NSID 1 (R399 to R402).
-/

namespace Sys2Proof.Machine

/-- Changing the host side of the link. -/
def State.modFrl (s : State) (g : Frl → Frl) : State := { s with frl := g s.frl }

/-- Whether the host side runs and its link is up. -/
def State.frontUp (s : State) : Bool := s.pageOn 0x0F0 && s.regBit FRL_STAT 0

/-! ## Answers of the side-band to vendor requests (R409, R410) -/

/-- A vendor response: it ends a held request; STATUS 1, 2 and 5 raise EV_SBM_REFUSED. -/
def State.sbAnswer (s : State) (eid tag op : Byte) (status : Nat) (data : List Byte) : State :=
  let s : State := { s with sb := { s.sb with waits := s.sb.waits.filter fun w => !(w.eid == eid && w.tag == tag) } }
  let s := if status = 1 ∨ status = 2 ∨ status = 5 then (s.count 0x0F8 3 1).raise 0x0F8 3 else s
  s.deliver 0x0F8 (.out (.sideband eid ([op ||| 0x80, tag, BitVec.ofNat 8 status, 0] ++ data)))

/-! ## Sending (R382) -/

/-- A message as it leaves now: TIME of a TIME_SET is the legal time at that instant (R390). -/
def HostMsg.stamp (h : HostMsg) (now : BitVec 64) : HostMsg :=
  { h with sent := now, body := if h.type = 0x82 then leBytes 8 (fld h.body 0 8 + (now - h.sent).toNat) ++ h.body.drop 8 else h.body }

/-- A host message in its 64 bytes. -/
def HostMsg.bytes (h : HostMsg) : List Byte :=
  mkMsg h.type.toNat h.seq.toNat (match typeRule false h.type.toNat with
    | some (c, _, _) => c
    | none => 0) h.flags.toNat h.body

/-- The class of a queued message. -/
def HostMsg.cls (h : HostMsg) : Nat := match typeRule false h.type.toNat with
  | some (c, _, _) => c
  | none => 3

/-- Bytes padded with zeros to whole words. -/
def wordAligned (l : List Byte) : List Byte := l ++ List.replicate ((4 - l.length % 4) % 4) 0

/-- The next segment of the field patch image that goes to the field die, as the class 3 work it is: queued when nothing else is (R396). -/
def State.patchMsg (s : State) : State :=
  match s.frl.queue, s.frl.patch with
  | [], some off =>
    let img := s.start.nor.patch
    let n := min 44 (img.length - off)
    if n = 0 then s.modFrl fun f => { f with patch := none }
    else
      let last := decide (img.length ≤ off + n)
      let h : HostMsg := { seq := 0, type := 0x85, flags := BitVec.ofNat 8 last.toNat, owner := .firmware, sent := s.pages.dtime,
                           first := s.pages.dtime, body := leBytes 4 off ++ leBytes 4 img.length ++ sub img off n }
      s.modFrl fun f => { f with queue := [h], patch := if last then none else some (off + n) }
  | _, _ => s

/-- Queued messages are sent in order of class while the window of 8 allows, each with the next sequence number. -/
def State.pumpFront (s : State) : Nat → State
  | 0 => s
  | n + 1 =>
    if !s.frontUp || decide (8 ≤ s.frl.unack.length) then s
    else
      let s := s.patchMsg
      match s.frl.queue.find? fun h => s.frl.queue.all fun g => decide (h.cls ≤ g.cls) with
      | none => s
      | some h =>
        let h' := { h.stamp s.pages.dtime with seq := s.frl.hostSeq }
        let s := s.modFrl fun f => { f with queue := f.queue.erase h, hostSeq := f.hostSeq + 1, unack := f.unack ++ [h'] }
        (s.emit (.toField h'.bytes)).pumpFront n

/-- A host message is queued for the field die. -/
def State.sendField (s : State) (ty flags : Nat) (body : List Byte) (o : MsgOwner) : State :=
  let h : HostMsg := { seq := 0, type := BitVec.ofNat 8 ty, flags := BitVec.ofNat 8 flags, body := body, owner := o,
                       sent := s.pages.dtime, first := s.pages.dtime }
  (s.modFrl fun f => { f with queue := f.queue ++ [h] }).pumpFront 8

/-- An ACK of the host side: ASEQ, RSEQ and the flags RESEND and RESUME. -/
def State.sendAck (s : State) (flags : Nat) (a r : BitVec 32) : State :=
  (s.modFrl fun f => { f with lastTx := s.pages.dtime }).emit
    (.toField (mkMsg 0x86 0 0 flags (leBytes 4 a.toNat ++ leBytes 4 r.toNat)))

/-- A message sent again. -/
def HostMsg.again (h : HostMsg) : List Byte := resent h.bytes

/-- HOST_RESEND_TIMEOUT: messages without an ACK for 1 ms. -/
def execHostResendTimeout (s : State) : Answer :=
  if !s.frontUp then .next s
  else
    let old := fun (h : HostMsg) => decide (1000 ≤ (s.pages.dtime - h.sent).toNat)
    let t := (s.frl.unack.filter old).foldl (fun (t : State) h => t.emit (.toField (h.stamp s.pages.dtime).again)) s
    .next (t.modFrl fun f => { f with unack := f.unack.map fun h => if old h then h.stamp s.pages.dtime else h })

/-! ## The link (R378, R381) -/

/-- ACK with RESUME, whose ASEQ is the last durable point sent. -/
def State.sendResume (s : State) : State := s.sendAck 2 (s.reg FRL_DURSEQ) (s.reg FRL_RXSEQ)

/-- The link comes up: both sides are powered and FRL_CTRL.ENABLE is 1. -/
def State.frontLink (s : State) : State :=
  if !s.pageOn 0x0F0 || !s.field.powered || !s.regBit FRL_CTRL 0 || s.regBit FRL_STAT 0 then s
  else
    let s := s.setReg FRL_STAT (setBits (setBits (s.reg FRL_STAT) 8 5 15) 2 0 1)
    let s := s.modField fun f => { f with linkUp := true, expect := none, repeats := false }
    let s := (s.wakeOutputs 3 false).raise 0x0F0 3
    let s := (s.modFrl fun f => { f with waiting := true, resume := true }).sendResume
    let s := s.frl.unack.foldl (fun (t : State) h => t.emit (.toField (h.stamp s.pages.dtime).again)) s
    (s.modFrl fun f => { f with unack := f.unack.map fun h => h.stamp s.pages.dtime }).pumpFront 8

/-- The link goes down on both sides. -/
def State.frontDown (s : State) : State :=
  let s := s.modField fun f => { f with linkUp := false }
  if s.frontUp then (s.setReg FRL_STAT (setBits (setBits (s.reg FRL_STAT) 8 5 0) 2 0 0)).raise 0x0F0 4 else s

/-- FRONT_LINK_DOWN. -/
def execFrontLinkDown (s : State) : Answer := if s.frontUp then .next s.frontDown else .next s

/-- FRL_CTRL: RETRAIN takes the link down to be trained again, and so does clearing ENABLE. -/
def frlCtrlEffect (v : Word) (d : RegDef) (s : State) : State :=
  let s := s.store FRL_CTRL v d
  if bit v 1 || !bit v 0 then s.frontDown else s

/-- RETRAIN. -/
def execRetrain (m : Master) (v : Word) (s : State) : Answer :=
  let v := setBit v 1 true
  .next (s.write m 0x0F0 0x80 32 v noCond fun d => frlCtrlEffect v d).1

/-- RESUME_REPEAT: 1 ms after the last, until the field die has answered. -/
def execResumeRepeat (s : State) : Answer :=
  if s.frontUp && s.frl.waiting && decide (1000 ≤ (s.pages.dtime - s.frl.lastTx).toNat) then .next s.sendResume else .next s

/-! ## Receiving (R381, R383) -/

/-- A message dropped under R383. -/
def State.dropMsg (s : State) (slot : Nat) : State := (s.count 0x0F0 slot 1).raise 0x0F0 5

/-- What HEALTH shows in FRL_STAT, and legal time. -/
def State.takeHealth (s : State) (b : List Byte) : State :=
  let f := mByte b 35
  let v := setBits (s.reg FRL_STAT) 23 16 (fld b 20 4 * 100 / 131072)
  let s := s.setReg FRL_STAT (setBit (setBit v 4 (f.testBit 0)) 3 (f.testBit 1))
  (s.modFrl fun f => { f with health := b, healthT := s.pages.dtime }).learnTime (BitVec.ofNat 64 (fld b 0 8)) (f.testBit 0)

/-- An entry accepted: it goes to cell 14 unless it was resent and is at or before the last durable one that cell 14 knows (R401). -/
def State.acceptEntry (s : State) (m : List Byte) : State :=
  let s := (s.setReg FRL_RXSEQ (s.reg FRL_RXSEQ + 1)).count64 0x0F0 2 1
  let s := s.setReg FRL_STAT (setBit (s.reg FRL_STAT) 2 (mFlag m 7))
  let s := if mType m = 6 then s.takeHealth (mBody m) else s
  if mFlag m 7 && s.frl.durable.any fun d => seqLe (mSeq m) d then s else s.deliver 0x0F0 (.entry (mSeq m) m)

/-- Whether an uncorrectable block of the message buffer of page FRL spoils a message, which is then dropped and counted as one with a bad CRC;
the message of SEQ n stands at 64 × (n mod 256) there (R359; log 125). -/
def State.frlBad (s : State) (m : List Byte) : Bool × State :=
  let lo := 8 * ((mSeq m).toNat % 256)
  let (l, s) := s.scanProt 0x0F0 13 lo 8
  (!l.isEmpty, s.clearProt 0x0F0 13 lo 8)

/-- A message that arrives from the field die; `free` is what an unsequenced one does. -/
def State.fromField (s : State) (m : List Byte) (free : State → State) : State :=
  if !s.frontUp then s
  else match msgFault true m, s.frlBad m with
    | some slot, (_, s) => s.dropMsg slot
    | none, (true, s) => s.dropMsg 4
    | none, (false, s) =>
      match typeRule true (mType m) with
      | some (_, false, _) => free (s.count64 0x0F0 2 1)
      | _ =>
        if s.frl.waiting then s
        else if mSeq m = s.reg FRL_RXSEQ then s.acceptEntry m
        else
          let s := s.dropMsg 7
          if seqLe (mSeq m) (s.reg FRL_RXSEQ) then s else (s.sendAck 1 (s.reg FRL_DURSEQ) (s.reg FRL_RXSEQ)).count 0x0F0 8 1

/-- EVENT_RECORD, CAN_BATCH, ETH_FRAGMENT, TIME_SYNC and FIELD_HEALTH. -/
def execEventRecord (msg : List Byte) (s : State) : Answer :=
  if rowTakes true 0x01 msg then .next (s.fromField msg id) else .next s
def execCanBatch (msg : List Byte) (s : State) : Answer :=
  if rowTakes true 0x02 msg then .next (s.fromField msg id) else .next s
def execEthFragment (msg : List Byte) (s : State) : Answer :=
  if rowTakes true 0x03 msg then .next (s.fromField msg id) else .next s
def execTimeSync (msg : List Byte) (s : State) : Answer :=
  if rowTakes true 0x04 msg then .next (s.fromField msg id) else .next s
def execFieldHealth (msg : List Byte) (s : State) : Answer :=
  if rowTakes true 0x06 msg then .next (s.fromField msg id) else .next s

/-- A TIME_SET that the field die has accepted: legal time is valid, and has stepped to the set value unless it is being slewed (R376). -/
def State.timeTaken (s : State) (h : HostMsg) : State :=
  let set := BitVec.ofNat 64 (fld h.body 0 8) + (s.pages.dtime - h.sent)
  match s.legal, s.frl.legal with
  | some now, some (_, _, true) => s.learnTime (if (set - now).toInt.natAbs ≤ 1000000 then now else set) true
  | _, _ => s.learnTime set true

/-- What an acknowledged message was sent for (R403, R410). -/
def State.ackOwner (s : State) (h : HostMsg) (r : Nat) : State :=
  match h.owner with
  | .firmware => if h.type = 0x82 ∧ r = 0 then s.timeTaken h else s
  | .page => (s.setReg FRL_MSGCTL (setBit (setBits (s.reg FRL_MSGCTL) 31 24 r) 17 false)).raise 0x0F0 7
  | .sideband eid tag =>
    let s := if r = 0 ∧ h.type = 0x81 ∧ fld h.body 0 2 = 0x6FF then s.raise 0x0F8 4 else s
    s.sbAnswer eid tag 8 (if r = 0 then 0 else 6) [BitVec.ofNat 8 r]

/-- The field die's ACK: of a host message, or its answer to RESUME. -/
def State.takeAck (s : State) (m : List Byte) : State :=
  let a := leWord (sub (mBody m) 0 4)
  if mFlag m 1 then
    let s := (s.setReg FRL_RXSEQ a).setReg FRL_STAT (setBit (s.reg FRL_STAT) 1 true)
    s.modFrl fun f => { f with waiting := false }
  else match s.frl.unack.find? fun h => h.seq == a with
    | none => s
    | some h => ((s.modFrl fun f => { f with unack := f.unack.filter fun g => g.seq != a }).ackOwner h (mByte (mBody m) 4)).pumpFront 8

/-- ACK. -/
def execAck (msg : List Byte) (s : State) : Answer :=
  if rowTakes true 0x07 msg then .next (s.fromField msg fun s => s.takeAck msg) else .next s

/-! ## FRL_MSGCTL (R403) -/

/-- The page ignores a write while a message is outstanding. -/
def frlMsgCond (m : Master) (off : Nat) (v : Word) (s : State) : Option State :=
  if s.regBit FRL_MSGCTL 17 then some (s.refuse 0x0F0 0x10 m off v) else none

/-- The payload in FRL_MSG0 to FRL_MSG12. -/
def State.msgBody (s : State) (n : Nat) : List Byte :=
  ((List.range 13).flatMap fun k => wordBytes (s.reg (FRL_MSG k))).take n

/-- Whether SEND refuses a message. -/
def State.msgRefused (s : State) (m : Master) (ty len : Nat) : Bool :=
  let b := s.msgBody len
  !(ty == 0x81 || ty == 0x83 || ty == 0x84) || decide (52 < len) ||
    (m == .pf && ty == 0x81 && decide (0x600 ≤ fld b 0 2 ∧ fld b 0 2 ≤ 0x6FF)) ||
    (msgFault false (mkMsg ty 0 (match typeRule false ty with
      | some (c, _, _) => c
      | none => 0) 0 b)).isSome

/-- A write of FRL_MSGCTL. -/
def frlMsgEffect (m : Master) (v : Word) (d : RegDef) (s : State) : State :=
  let s := s.store FRL_MSGCTL v d
  if !bit v 16 then s
  else if s.msgRefused m (bits v 7 0) (bits v 13 8) then
    (s.setReg FRL_MSGCTL (setBits (s.reg FRL_MSGCTL) 31 24 0xFE)).refuse 0x0F0 0x11 m 0xC0 v
  else
    let s := s.setReg FRL_MSGCTL (setBit (s.reg FRL_MSGCTL) 17 true)
    s.sendField (bits v 7 0) 0 (s.msgBody (bits v 13 8)) .page

/-- FRL_MSG_SEND. -/
def execFrlMsgSend (m : Master) (v : Word) (s : State) : Answer :=
  let v := setBit v 16 true
  .next (s.write m 0x0F0 0xC0 32 v (frlMsgCond m 0xC0 v) fun d => frlMsgEffect m v d).1

/-- FRL_MSG_TIMEOUT: the message of FRL_MSGCTL has had no ACK for 10 ms. -/
def execFrlMsgTimeout (s : State) : Answer :=
  let mine := fun (h : HostMsg) => h.owner == .page && decide (10000 ≤ (s.pages.dtime - h.first).toNat)
  if !s.pageOn 0x0F0 || !s.regBit FRL_MSGCTL 17 || !(s.frl.unack ++ s.frl.queue).any mine then .next s
  else
    let excess := fun (h : HostMsg) => if mine h then { h with owner := .firmware } else h
    let s := s.modFrl fun f => { f with unack := f.unack.map excess, queue := f.queue.map excess }
    .next ((s.setReg FRL_MSGCTL (setBit (setBits (s.reg FRL_MSGCTL) 31 24 0xFF) 17 false)).raise 0x0F0 7)

/-! ## Capture (R399 to R402) -/

/-- The queue name under which cell 14's appends are staged: no queue of a host has it. -/
def capRef (n : Nat) : CmdRef := ⟨0, 0x10001, BitVec.ofNat 16 n⟩

/-- Whether the device serves cell 14's appends: Evidential-ready, no alarm but KEYSLOT, no flush or Evidential pause, cell 14 not being
reassigned, evidence not read-only. -/
def State.captures (s : State) : Bool :=
  s.pageOn 0x0F0 && (s.start.phase == .evReady || s.start.phase == .full) && s.events.alarms.all (· == 4) && s.power.flush == 0 &&
    s.power.entering.isNone && s.fabric.pause.isNone && !(s.fabric.reassign.any fun x => x.cell == 14) && s.host.evid.cap != 0 && !s.regBit MC_STAT 3

/-- How many held entries an append takes now: everything 20 ms after the oldest was accepted, full blocks when there are eight. -/
def State.captureTake (s : State) : Nat :=
  match s.frl.held with
  | [] => 0
  | (_, _, t, _) :: _ =>
    let n := s.frl.held.length
    if 20000 ≤ (s.pages.dtime - t).toNat then min n 1008 else if 504 ≤ n then min (n / 63 * 63) 1008 else 0

/-- When the append of the held entries fell due. -/
def State.captureDue (s : State) : Option (BitVec 64) :=
  match s.frl.held with
  | [] => none
  | (_, _, t, _) :: _ =>
    let a := t + 20000
    match s.frl.held[503]? with
    | some (_, _, u, _) => some (if u.toNat < a.toNat then u else a)
    | none => some a

/-- A capture block from its entries (R400); `n` is slot 33's epoch. -/
def captureBlock (es : List (BitVec 32 × List Byte × BitVec 64 × Bool)) (resume : Bool) (e : BitVec 32) (t : BitVec 64)
    (mac : List Byte → List Byte) : Block :=
  let first := match es with
    | x :: _ => x.1.toNat
    | [] => 0
  let flags := resume.toNat + 2 * (es.all fun x => x.2.2.2).toNat
  let head := leBytes 4 0x43464C42 ++ leBytes 2 1 ++ leBytes 1 es.length ++ leBytes 1 flags ++ leBytes 4 first ++ leBytes 4 e.toNat ++
    leBytes 8 t.toNat ++ List.replicate 24 0
  let body := sub (es.flatMap fun x => x.2.1) 0 4032
  blockOf (head ++ mac (head ++ body) ++ body)

/-- Sealing the blocks of an append under slot 33, whose key moves to its next epoch before a block that its limit does not leave room
for (R316, R318); none when the slot holds no key. -/
def State.sealBlocks (s : State) (es : List (BitVec 32 × List Byte × BitVec 64 × Bool)) : Nat → List Block × State
  | 0 => ([], s)
  | n + 1 =>
    let need := macLen 4080
    let s := if s.blocksLeft 33 < need then (s.useBlocks 33 (s.blocksLeft 33)).deriveNext 33 2 0xFF 0 else s
    let s := s.useBlocks 33 need
    let k := s.key 33
    let b := captureBlock (es.take 63) s.frl.resume (labelEpoch k.label) s.pages.dtime (cmac (leBytes 32 k.key.toNat))
    let r := (s.modFrl fun f => { f with resume := false }).sealBlocks (es.drop 63) n
    (b :: r.1, r.2)

/-- CAPTURE_APPEND. -/
def execCaptureAppend (s : State) : Answer :=
  let n := s.captureTake
  let k := (n + 62) / 63
  let e := s.host.evid
  if !s.captures || n == 0 || decide (2 ≤ (s.frl.appends.filter fun a => !a.done).length) then .next s
  else if s.regionFull then .next (s.setField MC_STAT 3 3 1)
  else if e.cap < e.append + k then .next (s.raise 0x010 3)
  else if (s.bucketNow 16).cmds < 10000 ∨ (s.bucketNow 16).bytes < 4096 * k then .next (s.count 0x020 5 1)
  else if s.regBit KEY_STAT 3 || !(s.key 33).valid then .next s
  else match s.useKey 33 with
    | (false, s) => .next s
    | (true, s) =>
      let es := s.frl.held.take n
      let (bs, s) := s.sealBlocks es k
      let r := capRef e.fieldCnt
      let last := match es.getLast? with
        | some x => x.1
        | none => 0
      let s := (s.takeTokens 16 (4096 * k)).count64 0x020 2 1
      let s := s.modFrl fun f => { f with held := f.held.drop n, appends := f.appends ++ [{ ref := r, last := last, done := false }] }
      let rec_ : AppendRec := { lba := e.append, nlb := k, who := some r, zero := false, seq := s.host.nextSeq, die := none }
      let s : State := { s with host := { s.host with nextSeq := s.host.nextSeq + 1, evid := { s.host.evid with
        append := e.append + k, open_ := e.open_ ++ [rec_], fieldCnt := e.fieldCnt + 1 } } }
      .next (s.stageAll r true 1 e.append bs)

/-- The durable appends at the head of the list: the last SEQ of the longest run, and the rest. -/
def durableRun : List CapAppend → Option (BitVec 32) × List CapAppend
  | [] => (none, [])
  | a :: l => if a.done then (match durableRun l with
      | (some q, rest) => (some q, rest)
      | (none, rest) => (some a.last, rest)) else (none, a :: l)

/-- APPEND_DURABLE: the append `k` of those in flight. -/
def execAppendDurable (k : Nat) (s : State) : Answer :=
  match s.frl.appends[k]? with
  | none => .next s
  | some a =>
    if a.done || s.stagedFor a.ref then .next s
    else
      let s := (s.closeAppend fun x => x.who == some a.ref).closeSpan 5
      match durableRun (s.frl.appends.set k { a with done := true }) with
      | (none, l) => .next (s.modFrl fun f => { f with appends := l })
      | (some q, l) =>
        let s := s.modFrl fun f => { f with appends := l, durable := some q }
        .next (if s.frontUp then (s.setReg FRL_DURSEQ q).sendAck 0 q (s.reg FRL_RXSEQ) else s)

/-- FIELD_APPEND_BOUND_PASSED: the append that is due has been held at Forecast for more than 3 ms. -/
def execFieldAppendBoundPassed (s : State) : Answer :=
  match s.captureDue with
  | some t => if s.pageOn 0x0F0 && decide (3000 < (s.pages.dtime - t).toNat) && decide (t.toNat ≤ s.pages.dtime.toNat) then
      .next (s.openSpan 5 none) else .next s
  | none => .next s

/-- VF3P3_LOSS: the field die loses its ring and everything outside MRAM, TIMEVALID with it (R83, R375), and the link goes down. -/
def execVf3p3Loss (s : State) : Answer :=
  if !s.field.powered then .next s
  else
    let s := (s.modField fun f => { f with powered := false, tvalid := false, ring := [], outputs := [false, false] }).frontDown
    .next (s.modFrl fun f => { f with legal := f.legal.map fun x => (x.1, x.2.1, false) })

end Sys2Proof.Machine
end

