-- ==== Sys2Proof/Machine/Admin.lean ====
section
/-!
DEFINITION. The admin commands (04, 17): queues (R82, R483), Get Log Page (R97), Identify (R78 to R80), Abort (R86), features (R52,
R81 to R83), asynchronous events, namespaces (R80, R95, R101, R197, R312), and Device Self-test (R70).
-/

namespace Sys2Proof.Machine

/-! ## Common -/

/-- A command of the admin queue that R80 allows; one that is for the PF only is refused on a VF. -/
def adminCmd (c : NvmeCmd) (s : State) (pfOnly : Bool) (f : State → State) : Answer :=
  onAdmin c s fun s =>
    if pfOnly && c.fn != 0 then s.finish c.ref stOpcode
    else if c.fused then s.finish c.ref stField
    else f s

/-- Data returned to host memory, and the command's end. -/
def State.answerData (s : State) (c : NvmeCmd) (bs : List Byte) (st : Status) : State :=
  match ptrBad c.dptr bs.length with
  | some e => s.finish c.ref e
  | none => match s.xferOk with
    | (false, s) => s.finish c.ref stTransfer
    | (true, s) => (s.hostWrite c.fn (ptrPieces c.dptr bs.length) bs).finish c.ref st

/-- A command that reads a data structure of `len` bytes first. -/
def State.withData (s : State) (c : NvmeCmd) (len : Nat) (f : State → State) : State :=
  match s.firstRow [ptrRow c len, fetchRow c] with
  | some (st, s) => s.finish c.ref st
  | none => f s

/-- A structure by its fields: offset, bytes, value; every other byte is 0. -/
def layout (len : Nat) (l : List (Nat × Nat × Nat)) : List Byte :=
  loadBytes (l.foldl (fun m x => storeBytes m x.1 (leBytes x.2.1 x.2.2)) []) 0 len

/-- Command specific statuses. -/
def stCqInvalid : Status := status 1 0x00
def stQid : Status := status 1 0x01
def stQsize : Status := status 1 0x02
def stAerLimit : Status := status 1 0x05
def stSlot : Status := status 1 0x06
def stImage : Status := status 1 0x07
def stVector : Status := status 1 0x08
def stLogPage : Status := status 1 0x09
def stFormat : Status := status 1 0x0A
def stQdelete : Status := status 1 0x0C
def stNotSaveable : Status := status 1 0x0D
def stCapacity : Status := status 1 0x15
def stNsidGone : Status := status 1 0x16
def stAttached : Status := status 1 0x18
def stPrivate : Status := status 1 0x19
def stNotAttached : Status := status 1 0x1A
def stControllers : Status := status 1 0x1C
def stTesting : Status := status 1 0x1D
def stController : Status := status 1 0x1F
def stSecondary : Status := status 1 0x20
def stResources : Status := status 1 0x21
def stAttachLimit : Status := status 1 0x27

/-! ## Queues (R82, R483) -/

/-- The MSI-X vectors of a function (R76). -/
def vectors (f : Fun) : Nat := if f = 0 then 64 else 16

/-- The address that PRP entry 1 gives. -/
def NvmeCmd.prp1 (c : NvmeCmd) : Option (BitVec 64) := match c.dptr with
  | .prp (a :: _) => some a
  | _ => none

/-- CREATE_IO_SUBMISSION_QUEUE. -/
def execCreateIoSubmissionQueue (c : NvmeCmd) (s : State) : Answer :=
  adminCmd c s false fun s =>
    let k := s.ctrl c.fn
    let qid := bits c.cdw10 15 0
    let size := bits c.cdw10 31 16
    let cq := bits c.cdw11 31 16
    if qid = 0 ∨ k.pool.length < qid ∨ (k.sq? qid).isSome = true then s.finish c.ref stQid
    else if size = 0 ∨ 4095 < size then s.finish c.ref stQsize
    else if cq = 0 ∨ (k.cq? cq).isNone = true then s.finish c.ref stCqInvalid
    else match c.prp1 with
      | none => s.finish c.ref stField
      | some a =>
        if !bit c.cdw11 0 then s.finish c.ref stField
        else if a.toNat % 4096 ≠ 0 then s.finish c.ref stPrpOffset
        else
          let q : SQueue := { qid := qid, size := size + 1, cqid := cq, base := a, head := 0, tail := 0, dclass := 2, fixed := true,
                              ddl := 1600, doomed := [], bells := [], del := none }
          (s.modCtrl c.fn fun k => { k with sqs := k.sqs ++ [q] }).finish c.ref stOk

/-- CREATE_IO_COMPLETION_QUEUE. -/
def execCreateIoCompletionQueue (c : NvmeCmd) (s : State) : Answer :=
  adminCmd c s false fun s =>
    let k := s.ctrl c.fn
    let qid := bits c.cdw10 15 0
    let size := bits c.cdw10 31 16
    let iv := bits c.cdw11 31 16
    if qid = 0 ∨ k.pool.length < qid ∨ (k.cq? qid).isSome = true then s.finish c.ref stQid
    else if size = 0 ∨ 4095 < size then s.finish c.ref stQsize
    else if bit c.cdw11 1 ∧ vectors c.fn ≤ iv then s.finish c.ref stVector
    else match c.prp1 with
      | none => s.finish c.ref stField
      | some a =>
        if !bit c.cdw11 0 then s.finish c.ref stField
        else if a.toNat % 4096 ≠ 0 then s.finish c.ref stPrpOffset
        else
          let q : CQueue := { qid := qid, size := size + 1, base := a, head := 0, tail := 0, phase := true, vec := iv, ien := bit c.cdw11 1 }
          (s.modCtrl c.fn fun k => { k with cqs := k.cqs ++ [q] }).finish c.ref stOk

/-- DELETE_IO_SUBMISSION_QUEUE: entries not fetched are discarded; it completes after the queue's last completion. -/
def execDeleteIoSubmissionQueue (c : NvmeCmd) (s : State) : Answer :=
  adminCmd c s false fun s =>
    let qid := bits c.cdw10 15 0
    match (s.ctrl c.fn).sq? qid with
    | some q =>
      if qid = 0 ∨ q.del.isSome = true then s.finish c.ref stQid
      else
        let s := s.addCmd (Cmd.plain c.ref s.ns)
        let s := s.modSq c.fn qid fun q => { q with del := some c.cid, tail := q.head, bells := [], doomed := [] }
        s.endDelete c.fn qid
    | none => s.finish c.ref stQid

/-- DELETE_IO_COMPLETION_QUEUE. -/
def execDeleteIoCompletionQueue (c : NvmeCmd) (s : State) : Answer :=
  adminCmd c s false fun s =>
    let k := s.ctrl c.fn
    let qid := bits c.cdw10 15 0
    if qid = 0 ∨ (k.cq? qid).isNone = true then s.finish c.ref stQid
    else if k.sqs.any fun q => q.cqid == qid then s.finish c.ref stQdelete
    else (s.modCtrl c.fn fun k => { k with cqs := k.cqs.filter fun q => q.qid != qid }).finish c.ref stOk

/-- The slot of a queue's first entry with a command identifier that is neither fetched nor passed over; `cids` are the identifiers of
the entries not yet fetched, two bytes each. -/
def State.waitingEntry (s : State) (f : Fun) (qid : Nat) (cids : List Byte) (cid : BitVec 16) : Option Nat :=
  match (s.ctrl f).sq? qid with
  | none => none
  | some q =>
    ((List.range ((q.tail + q.size - q.head) % q.size)).find? fun k =>
      decide (leNat (sub cids (2 * k) 2) = cid.toNat ∧ 2 * k + 2 ≤ cids.length) && !q.doomed.contains ((q.head + k) % q.size)).map
      fun k => (q.head + k) % q.size

/-- ABORT: an entry of the queue that is not yet fetched completes with Command Abort Requested and is passed over; every other command is
not aborted (R86). -/
def execAbort (c : NvmeCmd) (s : State) : Answer :=
  adminCmd c s false fun s =>
    let qid := bits c.cdw10 15 0
    let cid : BitVec 16 := (c.cdw10 >>> 16).setWidth 16
    match s.waitingEntry c.fn qid c.data cid with
    | some p =>
      if (s.cmd? ⟨c.fn, qid, cid⟩).isSome then s.finish c.ref (status 0 0 1)
      else ((s.modSq c.fn qid fun q => { q with doomed := q.doomed ++ [p] }.pass).finish ⟨c.fn, qid, cid⟩ stAborted).finish c.ref stOk
    | none => s.finish c.ref (status 0 0 1)

/-! ## Log pages (R97) -/

/-- An entry of page 01h. -/
def ErrEntry.bytes (e : ErrEntry) : List Byte :=
  layout 64 [(0, 8, e.count), (8, 2, e.sqid), (10, 2, e.cid.toNat), (12, 2, 2 * (e.sc + 256 * e.sct) + 32768 * (dnrOf e.sct e.sc).toNat),
    (14, 2, 0xFFFF)]

/-- The SMART critical warning byte (R240). -/
def State.critWarn (s : State) : Nat := (s.regBit MC_STAT 5).toNat + 8 * (s.regBit MC_STAT 2).toNat

/-- The composite temperature in kelvin. -/
def State.kelvin (s : State) : Nat := Config.composite s.power.temps

/-- Page 02h: what the specification gives; the standard's other counts are values of the part (log 13). -/
def State.smartPage (s : State) (f : Fun) : List Byte :=
  let head := layout 32 [(0, 1, s.critWarn), (1, 2, s.kelvin), (3, 1, s.availSpare), (4, 1, 10), (5, 1, s.pctUsed)]
  let counts := sub (Config.standardData "SMART" s.pages.dtime.toNat 144) 0 144
  let tail := (List.range 4).flatMap fun k => leBytes 2 (s.power.temps.getD k 0 + 273).toNat
  sub (head ++ counts ++ leBytes 24 (s.logsOf f).errCnt ++ tail) 0 512

/-- The slot control record in force: the intact copy with the later SEQ (R435). -/
def State.slotRec (s : State) : SlotRec :=
  let n := s.start.nor
  if !n.rec0.good then n.rec1 else if !n.rec1.good then n.rec0 else if seqLe n.rec0.seq n.rec1.seq then n.rec1 else n.rec0

/-- Writing the record to the copies in turn. -/
def State.putRec (s : State) (g : SlotRec → SlotRec) : State :=
  let r := s.slotRec
  let r' := { g r with seq := r.seq + 1, good := true }
  let n := s.start.nor
  let n' := if r = n.rec0 then { n with rec1 := r' } else { n with rec0 := r' }
  { s with start := { s.start with nor := n' } }

/-- Page 03h. -/
def State.slotPage (s : State) : List Byte :=
  let r := s.slotRec
  let rev := fun (i : Image) => (Config.standardData "FRS" i.release.toNat 8 ++ List.replicate 8 0).take 8
  let p := layout 512 [(0, 1, r.active + 16 * (if r.next = r.active then 0 else r.next))]
  p.take 8 ++ rev s.host.fw.slotA ++ rev s.host.fw.slotB ++ p.drop 24

/-- The opcodes of R80 and R81, admin and I/O. -/
def adminOpcodes (f : Fun) : List Nat :=
  [0x00, 0x01, 0x02, 0x04, 0x05, 0x06, 0x08, 0x09, 0x0A, 0x0C, 0x14, 0x80] ++ (if f = 0 then [0x0D, 0x10, 0x11, 0x15, 0x1C] else [])
def ioOpcodes : List Nat := [0x00, 0x01, 0x02, 0x05, 0x08, 0x09, 0x0C, 0x19]

/-- Page 05h: bit 0 of an opcode's dword says that it is supported. DESIGN CHOICE (log 106): every other bit is 0. -/
def effectsPage (f : Fun) : List Byte :=
  layout 4096 ((adminOpcodes f).map (fun o => (4 * o, 4, 1)) ++ ioOpcodes.map fun o => (1024 + 4 * o, 4, 1))

/-- Page 06h: the test in progress, then up to 20 results of 28 bytes, newest first. -/
def selfTestPage (l : FnLogs) : List Byte :=
  layout 564 ([(0, 1, l.test.getD 0)] ++ (List.range 20).map fun k =>
    (4 + 28 * k, 1, match l.selfTst[k]? with
      | some (kind, res, _) => kind * 16 + res
      | none => 15))

/-- Page C1h. -/
def DwfEntry.bytes (e : DwfEntry) : List Byte :=
  leBytes 4 e.seq.toNat ++ leBytes 4 e.nsid ++ leBytes 8 e.slba ++ leBytes 4 e.nlb ++ leBytes 1 e.cause ++ leBytes 1 e.told.toNat ++
    [0, 0] ++ leBytes 8 e.time.toNat
def dwfPage (l : FnLogs) : List Byte :=
  sub (layout 64 [(0, 4, l.dwf.length), (4, 4, min l.dwfLost 0xFFFFFFFF), (8, 4, l.dwfNext.toNat)] ++ l.dwf.flatMap DwfEntry.bytes) 0 8256

/-- Page C2h. -/
def State.evidPage (s : State) : List Byte :=
  let e := s.host.evid
  let cap := (s.frontUp && s.regBit FRL_STAT 1 && e.cap != 0).toNat + 2 * (decide (50 < s.field? FRL_STAT 23 16)).toNat
  layout 64 [(0, 8, e.cap), (8, 8, e.append), (16, 8, e.published), (24, 4, s.evidReserve), (28, 4, cap), (32, 8, min (2 ^ 64 - 1) e.fieldCnt),
    (40, 8, min (2 ^ 64 - 1) e.hostCnt)]

/-- Page C3h. -/
def LateEntry.bytes (e : LateEntry) : List Byte :=
  leBytes 2 e.sqid ++ leBytes 2 e.cid.toNat ++ leBytes 1 e.cls.val ++ [0, 0, 0] ++ leBytes 4 e.deadline ++ leBytes 4 e.actual
def latePage (l : FnLogs) : List Byte := sub (layout 16 [(0, 4, l.late.length)] ++ l.late.flatMap LateEntry.bytes) 0 1040

/-- A log page of a function, none for an identifier that is not served. -/
def State.logPage (s : State) (f : Fun) (lid : Nat) : Option (List Byte) :=
  let l := s.logsOf f
  match lid with
  | 0x01 => some (sub (l.err.flatMap ErrEntry.bytes) 0 4096)
  | 0x02 => some (s.smartPage f)
  | 0x03 => some s.slotPage
  | 0x04 => some (sub (l.changed.flatMap (leBytes 4)) 0 4096)
  | 0x05 => some (effectsPage f)
  | 0x06 => some (selfTestPage l)
  | 0xC1 => some (dwfPage l)
  | 0xC2 => some s.evidPage
  | 0xC3 => some (latePage l)
  | _ => none

/-- The type of asynchronous event whose page a log page is (R80). -/
def asyncType (lid : Nat) : Option Nat :=
  if lid = 1 then some 0 else if lid = 2 then some 1 else if lid = 3 ∨ lid = 4 then some 2 else if lid = 0xC1 then some 7 else none

/-- What reading a page does beside returning it: entries of C1h wholly returned are cleared when LSP bit 0 asks for it; page 04h is
cleared, and the event type is reported again, unless RAE is 1. -/
def State.afterLog (s : State) (f : Fun) (lid off len : Nat) (clear rae : Bool) : State :=
  let s := if lid = 0xC1 ∧ clear = true then
      s.modLogs f fun l => { l with dwf := (List.range l.dwf.length).filterMap fun i =>
        if off ≤ 64 + 32 * i ∧ 96 + 32 * i ≤ off + len then none else l.dwf[i]? }
    else s
  if rae then s
  else
    let s := if lid = 4 then s.modLogs f fun l => { l with changed := [] } else s
    match asyncType lid with
    | some t => s.unmaskAsync f t
    | none => s

/-- GET_LOG_PAGE. -/
def execGetLogPage (c : NvmeCmd) (s : State) : Answer :=
  adminCmd c s false fun s =>
    let lid := bits c.cdw10 7 0
    let off := c.cdw12.toNat + 2 ^ 32 * c.cdw13.toNat
    let len := 4 * (bits c.cdw10 31 16 + 65536 * bits c.cdw11 15 0 + 1)
    match s.logPage c.fn lid with
    | none => s.finish c.ref stLogPage
    | some p =>
      if off % 4 ≠ 0 ∨ p.length ≤ off ∨ bit c.cdw14 23 = true ∨ lid = 2 ∧ c.nsid ≠ 0xFFFFFFFF then s.finish c.ref stField
      else
        let bs := (p.drop off).take len
        let t := s.answerData c bs stOk
        if (t.cmd? c.ref).any fun k => k.phase == .done stOk then
          t.afterLog c.fn lid off len (bit c.cdw10 8) (bit c.cdw10 15)
        else t

/-! ## Identify (R78, R79, R80) -/

/-- A number in decimal ASCII digits, at most three. -/
def decimal (n : Nat) : List Byte :=
  let d := fun (k : Nat) => BitVec.ofNat 8 (0x30 + k % 10)
  (if 100 ≤ n then [d (n / 100)] else []) ++ (if 10 ≤ n then [d (n / 10)] else []) ++ [d n]

/-- An ASCII field of a fixed width, filled with spaces. -/
def asciiField (n : Nat) (cs : List Byte) : Nat := leNat ((cs ++ List.replicate n 0x20).take n)

/-- The model number: the part and the silicon revision, "SRB-4860 B0" (R3). -/
def modelNumber : List Byte := [0x53, 0x52, 0x42, 0x2D, 0x34, 0x38, 0x36, 0x30, 0x20, 0x42, 0x30]

/-- Identify Controller at the offsets of NVMe 2.0: the silicon revision in the model number and the running release as the firmware
revision (R3, log 87); fields that R78 does not list are 0. -/
def identifyController (release : Word) : List Byte :=
  layout 4096 [(24, 40, asciiField 40 modelNumber),
    (64, 8, asciiField 8 (decimal (bits release 31 24) ++ [0x2E] ++ decimal (bits release 23 16) ++ [0x2E] ++ decimal (bits release 15 0 % 1000))),
    (77, 1, 9), (80, 4, 0x00020000), (84, 4, 2000000), (88, 4, 10000), (92, 4, 0x300), (259, 1, 7), (260, 1, 0x14), (319, 1, 1),
    (516, 4, 32), (520, 2, 0x1CD), (526, 2, 63), (528, 2, 63), (536, 4, 1), (2048, 2, 2800)]

/-- Identify Namespace; `bytes` is the NVM capacity: of the namespace, or the user capacity in the structure common to all (R19, log 87). -/
def identifyNamespace (cap bytes : Nat) (shared : Bool) : List Byte :=
  layout 4096 [(0, 8, cap), (8, 8, cap), (16, 8, cap), (30, 1, shared.toNat), (34, 2, 63), (36, 2, 63), (40, 2, 63), (44, 2, 63),
    (48, 16, bytes), (64, 2, 15),
    (66, 2, 15), (74, 2, 512), (76, 4, 512), (80, 1, 127), (128, 4, 12 * 65536)]

/-- The command set identifiers of the namespaces (log 9). -/
def NsKind.csi : NsKind → Nat
  | .nvm => 0
  | .slm => 3
  | .cp => 4

/-- A namespace that the device reports: its kind, capacity, and whether it may be shared (R262). -/
def State.nsInfo (s : State) (n : Nat) : Option (NsKind × Nat × Bool) :=
  if s.media.bare then none
  else if n = 1 then (if s.host.evid.cap = 0 then none else some (.nvm, s.host.evid.cap, true))
  else (s.ns? n).map fun x => (x.kind, x.cap, false)

/-- The functions a namespace is attached to. -/
def State.attachedTo (s : State) (n : Nat) : List Nat :=
  (List.range 16).filter fun f => (s.kindFor (Fin.ofNat 16 f) n).isSome

/-- A list of 4-byte namespace identifiers above one. -/
def nsList (above : Nat) (p : Nat → Bool) : List Byte :=
  sub (((List.range 33).filter fun n => decide (above < n) && p n).flatMap (leBytes 4)) 0 4096

/-- A list of 2-byte controller identifiers from one on, after its count. A controller's identifier is its function number (log 9). -/
def ctrlList (from' : Nat) (p : Nat → Bool) : List Byte :=
  let l := (List.range 16).filter fun f => decide (from' ≤ f) && p f
  sub (leBytes 2 l.length ++ l.flatMap (leBytes 2)) 0 4096

/-- The Secondary Controller List: the VFs from a controller on, with their states and queue pairs. -/
def State.secondaryList (s : State) (from' : Nat) : List Byte :=
  let l := (List.range 16).filter fun f => decide (1 ≤ f ∧ from' ≤ f) && s.fnExists f
  sub (layout 32 [(0, 1, l.length)] ++ l.flatMap fun f =>
    layout 32 [(0, 2, f), (4, 1, (s.vfm.vfs.getD f .reset).online.toNat), (8, 2, f), (10, 2, (s.ctrl (Fin.ofNat 16 f)).pool.length)]) 0 4096

/-- The data structure that Identify returns, or its status. -/
def State.identifyData (s : State) (c : NvmeCmd) : Except Status (List Byte) :=
  let cns := bits c.cdw10 7 0
  let cnt := bits c.cdw10 31 16
  let csi := bits c.cdw11 31 24
  let n := c.nsid
  let has := fun (k : Nat) => (s.kindFor c.fn k).isSome
  let listed := fun (p : Nat → Bool) => if 0xFFFFFFFE ≤ n then Except.error stNamespace else .ok (nsList n p)
  let one := fun (p : Nat → Bool) (d : NsKind × Nat × Bool → List Byte) =>
    if n = 0 ∨ 32 < n then Except.error stNamespace
    else .ok (match p n, s.nsInfo n with
      | true, some x => d x
      | _, _ => List.replicate 4096 0)
  let nvmOnly := fun (x : NsKind × Nat × Bool) => if x.1 = .nvm then identifyNamespace x.2.1 (4096 * x.2.1) x.2.2 else List.replicate 4096 0
  let std := fun (k : Nat) => sub (Config.standardData "IDENTIFY" (cns + 256 * csi + 65536 * k) 4096) 0 4096
  match cns with
  | 0x00 => if n = 0xFFFFFFFF then .ok (identifyNamespace 0 (4096 * s.userBlocks) false) else one has nvmOnly
  | 0x01 => .ok (identifyController (s.reg FUS_FWREL))
  | 0x02 => listed fun k => has k && (s.nsInfo k).any fun x => x.1 == .nvm
  | 0x03 => one has fun _ => std n
  | 0x05 => one has fun x => if x.1.csi = csi then std n else List.replicate 4096 0
  | 0x06 => .ok (std 0)
  | 0x07 => listed fun k => has k && (s.nsInfo k).any fun x => x.1.csi == csi
  | 0x08 => one has fun _ => std n
  | 0x10 => listed fun k => (s.nsInfo k).isSome
  | 0x11 => one (fun _ => true) nvmOnly
  | 0x12 => if n = 0 ∨ 32 < n then .error stNamespace else .ok (ctrlList cnt fun f => (s.attachedTo n).contains f)
  | 0x13 => .ok (ctrlList cnt s.fnExists)
  | 0x14 => .ok (std 0)
  | 0x15 => .ok (s.secondaryList cnt)
  | _ => .error stField

/-- IDENTIFY. -/
def execIdentify (c : NvmeCmd) (s : State) : Answer :=
  adminCmd c s false fun s => match s.identifyData c with
    | .error st => s.finish c.ref st
    | .ok bs => s.answerData c bs stOk

/-! ## Features (R52, R81, R82, R83) -/

/-- Changing a function's features. -/
def State.modFeat (s : State) (f : Fun) (g : Features → Features) : State := s.modCtrl f fun c => { c with feat := g c.feat }

/-- The function's queue assignment as Number of Queues returns it. -/
def State.queueCount (s : State) (f : Fun) : Word :=
  let n := (s.ctrl f).pool.length - 1
  BitVec.ofNat 32 (n * 65537)

/-- Queue Admission Default (R52): none when the command breaks a rule. DESIGN CHOICE (log 89): the default is in force from the execution
of the command, also for entries fetched before its completion is posted. -/
def State.setDefault (s : State) (c : NvmeCmd) : Option State :=
  let q := bits c.cdw11 15 0
  let cls : Class := Fin.ofNat 4 (bits c.cdw12 1 0)
  let ddl := bits c.cdw12 18 4
  if q = 0 ∨ ((s.ctrl c.fn).sq? q).isNone = true ∨ bits c.cdw11 31 16 ≠ 0 ∨ bit c.cdw12 3 = true ∨ bits c.cdw12 31 19 ≠ 0 then none
  else if cls = 0 ∧ ddl ≠ 0 ∨ cls ≠ 0 ∧ (ddl = 0 ∨ 31250 < ddl) then none
  else some (s.modSq c.fn q fun x => { x with dclass := cls, fixed := bit c.cdw12 2, ddl := ddl })

/-- The composite and the four sensors that a Temperature Threshold names. -/
def tempSel (w : Word) : Option (List Nat) :=
  let t := bits w 19 16
  if 1 < bits w 21 20 then none else if t = 15 then some [0, 1, 2, 3, 4] else if t ≤ 4 then some [t] else none

/-- Set Features of one feature but Timestamp: the state and completion dword 0, or its status. -/
def State.setFeature (s : State) (c : NvmeCmd) (fid : Nat) : Except Status (State × Word) :=
  let f := c.fn
  let w := c.cdw11
  let ok := fun (g : Features → Features) => Except.ok (s.modFeat f g, (0 : Word))
  match fid with
  | 0x01 => ok fun x => { x with arb := w &&& 7 }
  | 0x02 => if bits w 4 0 ≠ 0 then .error stField else ok fun x => { x with power := w &&& 0xFF }
  | 0x04 => match tempSel w with
    | none => .error stField
    | some l => ok fun x => { x with tempThr := l.foldl (fun m k => m.set (fun _ => 0) (2 * k + bits w 21 20) (w &&& 0xFFFF)) x.tempThr }
  | 0x05 => if bit w 16 then .error stField else ok fun x => { x with errRec := w &&& 0xFFFF }
  | 0x07 => .ok (s, s.queueCount f)
  | 0x08 => ok fun x => { x with coalThr := bits w 7 0, coalTime := bits w 15 8 }
  | 0x09 =>
    let v := bits w 15 0
    if vectors f ≤ v then .error stField
    else ok fun x => { x with vecCd := if bit w 16 then (if x.vecCd.contains v then x.vecCd else x.vecCd ++ [v]) else x.vecCd.filter (· != v) }
  | 0x0A => .ok (s, 0)
  | 0x0B => ok fun x => { x with async := w }
  | 0xC1 => match s.setDefault c with
    | some s => .ok (s, 0)
    | none => .error stField
  | _ => .error stField

/-- A Set Features Timestamp from the PF goes to the field die as a TIME_SET (R83). -/
def State.setTimestamp (s : State) (c : NvmeCmd) : State :=
  if c.fn ≠ 0 then s.finish c.ref stField
  else s.withData c 8 fun s =>
    (s.sendField 0x82 0 (leBytes 8 (leNat (sub c.data 0 6) * 1000) ++ [1] ++ List.replicate 7 0) .firmware).finish c.ref stOk

/-- Features that can be set. -/
def featureIds : List Nat := [0x01, 0x02, 0x04, 0x05, 0x07, 0x08, 0x09, 0x0A, 0x0B, 0x0E, 0xC1]

/-- Set Features: a feature that is refused, then the Save bit, then the feature. -/
def State.setFeatures (s : State) (c : NvmeCmd) (fid : Nat) : State :=
  if !featureIds.contains fid then s.finish c.ref stField
  else if bit c.cdw10 31 then s.finish c.ref stNotSaveable
  else if fid = 0x0E then s.setTimestamp c
  else match s.setFeature c fid with
    | .error st => s.finish c.ref st
    | .ok (s, w) => s.finish c.ref (status 0 0 w)

/-- The current value of a feature. -/
def State.getFeature (s : State) (c : NvmeCmd) (fid : Nat) : Except Status Word :=
  let x := (s.ctrl c.fn).feat
  let w := c.cdw11
  match fid with
  | 0x01 => .ok x.arb
  | 0x02 => .ok x.power
  | 0x04 => match tempSel w with
    | some (k :: _) => if bits w 19 16 = 15 then .error stField else .ok (x.tempThr.get (fun _ => 0) (2 * k + bits w 21 20))
    | _ => .error stField
  | 0x05 => .ok x.errRec
  | 0x07 => .ok (s.queueCount c.fn)
  | 0x08 => .ok (BitVec.ofNat 32 (x.coalThr + 256 * x.coalTime))
  | 0x09 =>
    let v := bits w 15 0
    if vectors c.fn ≤ v then .error stField else .ok (BitVec.ofNat 32 (v + 65536 * (x.vecCd.contains v).toNat))
  | 0x0A => .ok 1
  | 0x0B => .ok x.async
  | 0xC1 =>
    if bits w 31 16 ≠ 0 then .error stField
    else match (s.ctrl c.fn).sq? (bits w 15 0) with
      | some q => if q.qid = 0 then .error stField else .ok (BitVec.ofNat 32 (q.dclass.val + 4 * q.fixed.toNat + 16 * q.ddl))
      | none => .error stField
  | _ => .error stField

/-- The eight bytes of Get Features Timestamp: milliseconds of the field die's legal time, as its messages tell it (R17), and the origin. -/
def State.timestamp (s : State) : List Byte :=
  leBytes 6 ((s.legal.getD 0).toNat / 1000) ++ [if s.frl.legal.any fun x => x.2.2 then 2 else 0, 0]

/-- Get Features: only current values are offered. -/
def State.getFeatures (s : State) (c : NvmeCmd) (fid : Nat) : State :=
  if bits c.cdw10 10 8 ≠ 0 then s.finish c.ref stField
  else if fid = 0x0E then s.answerData c s.timestamp stOk
  else match s.getFeature c fid with
    | .error st => s.finish c.ref st
    | .ok w => s.finish c.ref (status 0 0 w)

def execSetFeatures (c : NvmeCmd) (s : State) : Answer := adminCmd c s false fun s => s.setFeatures c (bits c.cdw10 7 0)
def execGetFeatures (c : NvmeCmd) (s : State) : Answer := adminCmd c s false fun s => s.getFeatures c (bits c.cdw10 7 0)
def execSetFeaturesNumberOfQueues (c : NvmeCmd) (s : State) : Answer := adminCmd c s false fun s => s.setFeatures c 0x07
def execSetFeaturesTimestamp (c : NvmeCmd) (s : State) : Answer := adminCmd c s false fun s => s.setFeatures c 0x0E
def execGetFeaturesTimestamp (c : NvmeCmd) (s : State) : Answer := adminCmd c s false fun s => s.getFeatures c 0x0E
def execSetQueueAdmissionDefault (c : NvmeCmd) (s : State) : Answer := adminCmd c s false fun s => s.setFeatures c 0xC1
def execGetQueueAdmissionDefault (c : NvmeCmd) (s : State) : Answer := adminCmd c s false fun s => s.getFeatures c 0xC1

/-- ASYNCHRONOUS_EVENT_REQUEST: at most 8 wait. -/
def execAsynchronousEventRequest (c : NvmeCmd) (s : State) : Answer :=
  adminCmd c s false fun s =>
    if 8 ≤ (s.logsOf c.fn).aers.length then s.finish c.ref stAerLimit
    else ((s.addCmd (Cmd.plain c.ref s.ns)).modLogs c.fn fun l => { l with aers := l.aers ++ [c.cid] }).drainAsync c.fn

/-! ## Namespaces -/

/-- A notice: it is reported when bit `k` of Asynchronous Event Configuration asks for it. -/
def State.notice (s : State) (f : Fun) (k info lid : Nat) : State :=
  if bit (s.ctrl f).feat.async k then s.asyncEvent f 2 info lid else s

/-- A namespace of a function has changed (log page 04h). -/
def State.nsChanged (s : State) (f : Fun) (n : Nat) : State :=
  (s.modLogs f fun l => { l with changed := if l.changed.contains n then l.changed else sortedBy (fun a b => decide (a ≤ b)) (l.changed ++ [n]) }).notice f 8 0 4

/-- The lowest place, in steps of `g`, at which `n` lie free of the ranges taken. -/
def freeRange (taken : List (Nat × Nat)) (g n : Nat) : Nat :=
  let up := fun (k : Nat) => (k + g - 1) / g * g
  let cands := sortedBy (fun a b => decide (a ≤ b)) (0 :: taken.map fun x => up (x.1 + x.2))
  (cands.find? fun b => taken.all fun x => decide (b + n ≤ x.1 ∨ x.1 + x.2 ≤ b)).getD 0

/-- Units of a capacity in granules of 16,384 (R197). -/
def unitsFor (cap : Nat) : Nat := (cap + 262143) / 262144 * 16384

/-- The unit ranges assigned, and the base for a namespace of a capacity. -/
def State.unitRanges (s : State) : List (Nat × Nat) :=
  (if s.host.evid.cap = 0 then [] else [(s.host.evid.base, unitsFor s.host.evid.cap)]) ++
    (s.host.nss.filter fun x => x.kind == .nvm).map fun x => (x.base, unitsFor x.cap)
def State.newBase (s : State) (cap : Nat) : Nat := freeRange s.unitRanges 16384 (unitsFor cap)

/-- The blocks of NVM namespaces, NSID 1 among them; the bytes of SLM namespaces. -/
def State.nvmBlocks (s : State) : Nat := s.host.evid.cap + ((s.host.nss.filter fun x => x.kind == .nvm).map fun x => x.cap).foldl (· + ·) 0
def State.slmBytes (s : State) : Nat := ((s.host.nss.filter fun x => x.kind == .slm).map fun x => x.cap).foldl (· + ·) 0

/-- Where SLM lies in DRAM: the 4 GiB from 4 GiB up (log 9). -/
def slmStart : Nat := 2 ^ 32

/-- Namespace Management, create. -/
def State.createNs (s : State) (c : NvmeCmd) : State :=
  let d := c.data
  let size := leNat (sub d 0 8)
  let cap := leNat (sub d 8 8)
  let csi := bits c.cdw11 31 24
  let free := (List.range 31).find? fun k => (s.ns? (k + 2)).isNone
  let add := fun (s : State) (x : Ns) => ({ s with host := { s.host with nss := s.host.nss ++ [x] } } : State)
  match (if csi = 0 then some NsKind.nvm else if csi = 3 then some .slm else if csi = 4 then some .cp else none), free with
  | none, _ => s.finish c.ref stField
  | _, none => s.finish c.ref stNsidGone
  | some k, some j =>
    let n := j + 2
    let ok := fun (s : State) => s.finish c.ref (status 0 0 (BitVec.ofNat 32 n))
    if leNat (sub d 30 1) ≠ 0 ∨ leNat (sub d 29 1) ≠ 0 then s.finish c.ref stField
    else match k with
      | .nvm =>
        if leNat (sub d 26 1) ≠ 0 then s.finish c.ref stFormat
        else if size = 0 ∨ size ≠ cap then s.finish c.ref stField
        else if s.userBlocks < s.nvmBlocks + cap then s.finish c.ref stCapacity
        else
          let b := s.newBase cap
          let s := (add s ⟨n, .nvm, cap, none, b⟩).commit [.nschg n 0 b (unitsFor cap)]
          ok (s.deriveNext n 1 0xFF n)
      | .slm =>
        if size = 0 ∨ size ≠ cap then s.finish c.ref stField
        else if 2 ^ 32 < s.slmBytes + cap then s.finish c.ref stCapacity
        else
          let taken := (s.host.nss.filter fun x => x.kind == .slm).map fun x => (x.base - slmStart, x.cap)
          ok (add s ⟨n, .slm, cap, none, slmStart + freeRange taken 4096 cap⟩)
      | .cp => ok (add s ⟨n, .cp, 0, none, 0⟩)

/-- Deleting one namespace: its range is unmapped, its staged blocks and key go, and its programs' slots when it is a computational
programs namespace. -/
def State.deleteNs (s : State) (x : Ns) : State :=
  let s : State := match x.kind with
    | .nvm =>
      let s := s.unmapNs x.base (unitsFor x.cap)
      let s := (s.eraseKey x.nsid).commit [.nschg x.nsid 1 x.base (unitsFor x.cap)]
      s.unstage fun y => y.nsid == x.nsid
    | .slm => s
    | .cp =>
      let slots := s.prog.slots.filter fun p => some p.1 != x.owner
      let active := s.prog.active.filter fun a => some a.1 != x.owner || isBuiltin a.2
      { s with prog := { s.prog with slots := slots, active := active } }
  let s : State := { s with host := { s.host with nss := s.host.nss.filter fun y => y.nsid != x.nsid } }
  match x.owner with
  | some f => s.nsChanged f x.nsid
  | none => s

/-- An admin command on one namespace: a deferred write fault pending for it ends the command first (R93). -/
def State.unlessDeferred (s : State) (c : NvmeCmd) (f : State → State) : State :=
  match deferRow c s with
  | some (st, s) => s.finish c.ref st
  | none => f s

/-- NAMESPACE_MANAGEMENT. -/
def execNamespaceManagement (c : NvmeCmd) (s : State) : Answer :=
  adminCmd c s true fun s =>
    match bits c.cdw10 3 0 with
    | 0 => s.withData c 4096 fun s => s.createNs c
    | 1 =>
      if c.nsid = 0xFFFFFFFF then (s.host.nss.foldl State.deleteNs s).finish c.ref stOk
      else s.unlessDeferred c fun s =>
        if c.nsid = 1 ∧ s.host.evid.cap ≠ 0 then s.finish c.ref (stAppend 4)
        else match s.ns? c.nsid with
          | some x => (s.deleteNs x).finish c.ref stOk
          | none => s.finish c.ref stNamespace
    | _ => s.finish c.ref stField

/-- The owner of a namespace changes. -/
def State.setNsOwner (s : State) (n : Nat) (f : Option Fun) : State :=
  { s with host := { s.host with nss := s.host.nss.map fun x => if x.nsid = n then { x with owner := f } else x } }

/-- Attaching a namespace to a function, or why not. A function has at most one SLM and one computational programs namespace, and its SLM
namespace lies within its share (R101). -/
def State.attachNs (s : State) (n f : Nat) : Except Status State :=
  let g : Fun := Fin.ofNat 16 f
  if n = 1 then
    if s.host.evid.attached.contains g then .error stAttached
    else .ok { s with host := { s.host with evid := { s.host.evid with attached := s.host.evid.attached ++ [g] } } }
  else match s.ns? n with
    | none => .error stNamespace
    | some x =>
      if x.owner = some g then .error stAttached
      else if x.owner.isSome then .error stPrivate
      else if x.kind ≠ .nvm ∧ (s.host.nss.any fun y => y.kind == x.kind && y.owner == some g) = true then .error stAttachLimit
      else if x.kind = .slm ∧ (s.vfm.vfs.getD f .reset).shares.slm * 2 ^ 26 < x.cap then .error stCapacity
      else .ok (s.setNsOwner n (some g))

/-- Detaching it. -/
def State.detachNs (s : State) (n f : Nat) : Except Status State :=
  let g : Fun := Fin.ofNat 16 f
  if n = 1 then
    if f = 0 then .error (stAppend 4)
    else if s.host.evid.attached.contains g then
      .ok { s with host := { s.host with evid := { s.host.evid with attached := s.host.evid.attached.filter (· != g) } } }
    else .error stNotAttached
  else match s.ns? n with
    | none => .error stNamespace
    | some x => if x.owner = some g then .ok (s.setNsOwner n none) else .error stNotAttached

/-- Every controller of a list in turn; the first refusal undoes all. -/
def State.overList (s : State) (g : State → Nat → Except Status State) : List Nat → Except Status State
  | [] => .ok s
  | f :: r => match g s f with
    | .ok s => s.overList g r
    | .error e => .error e

/-- NAMESPACE_ATTACHMENT. -/
def execNamespaceAttachment (c : NvmeCmd) (s : State) : Answer :=
  adminCmd c s true fun s =>
    let sel := bits c.cdw10 3 0
    if 1 < sel then s.finish c.ref stField
    else if (s.nsInfo c.nsid).isNone then s.finish c.ref stNamespace
    else s.unlessDeferred c fun s => s.withData c 4096 fun s =>
      let n := leNat (sub c.data 0 2)
      let l := (List.range (min n 2047)).map fun k => leNat (sub c.data (2 + 2 * k) 2)
      if n = 0 ∨ 2047 < n ∨ (l.any fun f => !(decide (f < 16) && s.fnExists f)) = true then s.finish c.ref stControllers
      else match s.overList (fun s f => if sel = 0 then s.attachNs c.nsid f else s.detachNs c.nsid f) l with
        | .error e => s.finish c.ref e
        | .ok s => (l.foldl (fun (s : State) f => s.nsChanged (Fin.ofNat 16 f) c.nsid) s).finish c.ref stOk

/-- Formatting a namespace: everything is deallocated and its key takes the next epoch (R312). -/
def State.formatNs (s : State) (x : Ns) : State :=
  let s := (s.unmapNs x.base (unitsFor x.cap)).commit [.nschg x.nsid 2 x.base (unitsFor x.cap)]
  (s.unstage fun y => y.nsid == x.nsid).deriveNext x.nsid 1 0xFF x.nsid

/-- FORMAT_NVM, its checks in the order of R84. -/
def execFormatNvm (c : NvmeCmd) (s : State) : Answer :=
  adminCmd c s false fun s =>
    let ses := bits c.cdw10 11 9
    let mine := s.host.nss.filter fun x => x.owner == some c.fn && x.kind == .nvm
    if ses ≠ 0 ∧ ses ≠ 2 ∨ bits c.cdw10 8 4 ≠ 0 then s.finish c.ref stField
    else if c.nsid ≠ 0xFFFFFFFF ∧ (s.kindFor c.fn c.nsid).isNone = true then s.finish c.ref stNamespace
    else if bits c.cdw10 3 0 ≠ 0 ∨ bits c.cdw10 13 12 ≠ 0 then s.finish c.ref stFormat
    else if c.nsid = 0xFFFFFFFF then (mine.foldl State.formatNs s).finish c.ref stOk
    else s.unlessDeferred c fun s =>
      if c.nsid = 1 then s.finish c.ref (stAppend 4)
      else match mine.find? fun x => x.nsid == c.nsid with
        | none => s.finish c.ref stField
        | some x => (s.formatNs x).finish c.ref stOk

/-! ## Device Self-test (R70) -/

/-- A result enters page 06h: kind, result, time. -/
def State.endTest (s : State) (f : Fun) (result : Nat) : State :=
  (s.uncharge (.work (2 ^ 50 + f.val))).modLogs f fun l => match l.test with
    | some k => { l with test := none, selfTst := ((k, result, s.pages.dtime.toNat) :: l.selfTst).take 20 }
    | none => l

/-- DEVICE_SELF_TEST: a short or extended test starts, or the one in progress is aborted. -/
def execDeviceSelfTest (c : NvmeCmd) (s : State) : Answer :=
  adminCmd c s false fun s =>
    let stc := bits c.cdw10 3 0
    if stc = 15 then (s.endTest c.fn 1).finish c.ref stOk
    else if stc ≠ 1 ∧ stc ≠ 2 then s.finish c.ref stField
    else if (s.logsOf c.fn).test.isSome then s.finish c.ref stTesting
    else (s.modLogs c.fn fun l => { l with test := some stc }).finish c.ref stOk

/-- The tests of search banks that a Device Self-test asks for: the empty ones that are off or held by vendor firmware, and serve no codec
(R301; log 91). -/
def State.testBanks (s : State) : State :=
  if s.regBit SRC_STAT 0 then s
  else (List.range 16).foldl (fun (s : State) b =>
    if (s.bankMode b == 0 || (s.bankMode b == 1 && s.bankFw b)) && (s.bank b).ents.isEmpty then s.modBank b fun k => { k with testing := true }
    else s) s

/-- SELF_TEST_SEGMENT: the next segment, which reads the page sets named, is at most 2 s of work and is admitted as class 3 work; a refused
one is presented again 10 ms later and changes nothing else (R70). Its work stands in the ledger until the next segment or the end of the
test. `last` and `pass` are what the segment finds (log 91). -/
def execSelfTestSegment (fn : Fun) (units : List (Die × Nat)) (last pass : Bool) (s : State) : Answer :=
  let d : Demand := { Demand.none with units := units.map fun u => (u.1.val, s.unitMode u.1.val u.2, 65536) }
  let o := ChargeOwner.work (2 ^ 50 + fn.val)
  let t := s.uncharge o
  let work := d.units.foldl (fun a x => a + s.tr x.2.1 + s.xfer x.2.2 31) 0
  if (s.logsOf fn).test.isNone || decide (s.ns < (s.logsOf fn).retry) || decide ((2000000000 : Rat) < work) then .next s
  else if (2000000000 : Rat) < t.worst 3 d (t.tailVerify 3 d.units) 0 then
    .next (s.modLogs fn fun l => { l with retry := s.ns + 10000000 })
  else if !pass then .next (t.endTest fn 7)
  else if last then .next (t.endTest fn 0)
  else .next (t.testBanks.chargeDemand o 3 d)

/-! ## Opcodes that are not listed -/

/-- INVALID_COMMAND_OPCODE: an opcode that R80 and R81 do not list, or refuse. -/
def execInvalidCommandOpcode (c : NvmeCmd) (s : State) : Answer :=
  if (if c.sqid = 0 then adminOpcodes c.fn else ioOpcodes).contains c.opc.toNat then .next s
  else match s.fetchEntry c with
    | (s, some _) => .next (s.finish c.ref stOpcode)
    | (s, none) => .next s

end Sys2Proof.Machine
end

