-- ==== Sys2Proof/Machine/Firmware.lean ====
section
/-!
DEFINITION. Firmware download, Commit and the signature check (R90, R91, R325, R435). The reassignment of the cells that an activation
starts stands in Reassign.lean.
-/

namespace Sys2Proof.Machine

/-- Changing the firmware record. -/
def State.modFw (s : State) (g : Firmware → Firmware) : State := { s with host := { s.host with fw := g s.host.fw } }

/-- The largest image, 24 MiB (R90). -/
abbrev imageMax : Nat := 24 * 2 ^ 20

/-- FIRMWARE_IMAGE_DOWNLOAD: a piece of whole 4 KiB at a 4 KiB offset within 24 MiB. -/
def execFirmwareImageDownload (c : NvmeCmd) (s : State) : Answer :=
  adminCmd c s true fun s =>
    let n := 4 * (c.cdw10.toNat + 1)
    let off := 4 * c.cdw11.toNat
    if n % 4096 ≠ 0 ∨ off % 4096 ≠ 0 ∨ imageMax < off + n then s.finish c.ref stField
    else s.withData c n fun s =>
      (s.modFw fun w => { w with down := storeBytes w.down off (sub c.data 0 n) }).finish c.ref stOk

/-- Whether an activation is in progress, from its Commit's acceptance on (R90, R91). -/
def State.activating (s : State) : Bool := s.regBit ADM_STAT 10 || s.host.fw.commit.isSome

/-- The slot a Commit names: 0 with action 010b or 011b is the slot that is not active. -/
def State.commitSlot (s : State) (fs : Nat) : Nat := if fs = 0 then (if s.slotRec.active = 1 then 2 else 1) else fs

/-- A Firmware Commit of one of `acts`, or of an action above 011b, which is refused. The image's signature is then checked as
Background work. -/
def firmwareCommit (c : NvmeCmd) (acts : List Nat) (s : State) : Answer :=
  let act := bits c.cdw10 5 3
  if act ≤ 3 ∧ acts.contains act = false then .next s
  else adminCmd c s true fun s =>
    let fs := bits c.cdw10 2 0
    if !acts.contains act then s.finish c.ref stField
    else if s.activating then s.finish c.ref stSequence
    else if 2 < fs ∨ fs = 0 ∧ act < 2 then s.finish c.ref stSlot
    else if act = 0 ∧ s.host.fw.down = [] then s.finish c.ref stImage
    else (s.addCmd (Cmd.plain c.ref s.ns)).modFw fun w =>
      { w with commit := some { ref := c.ref, action := act, slot := s.commitSlot fs, step := 0 } }

/-- FIRMWARE_COMMIT_REPLACE: action 000b. -/
def execFirmwareCommitReplace (c : NvmeCmd) (s : State) : Answer := firmwareCommit c [0] s

/-- FIRMWARE_COMMIT_NEXT_RESET: actions 001b and 010b. -/
def execFirmwareCommitNextReset (c : NvmeCmd) (s : State) : Answer := firmwareCommit c [1, 2] s

/-- FIRMWARE_COMMIT_ACTIVATE: action 011b. -/
def execFirmwareCommitActivate (c : NvmeCmd) (s : State) : Answer := firmwareCommit c [3] s

/-- The downloaded image takes a slot. -/
def State.replaceSlot (s : State) (slot : Nat) : State :=
  if s.host.fw.down = [] then s
  else s.modFw fun w =>
    let i : Image := { pieces := w.down, release := Config.imageRelease w.down, good := true }
    if slot = 2 then { w with slotB := i, down := [] } else { w with slotA := i, down := [] }

/-- An image in a slot. -/
def State.image (s : State) (slot : Nat) : Image := if slot = 2 then s.host.fw.slotB else s.host.fw.slotA

/-- Slot L loads a cell from the image of a slot, as FAB_RENT counts them: a service cell its code and data, a compute cell the trap stubs
(R113, R193). -/
def State.loadCell (s : State) (c : CellId) (r : Role) : State :=
  let img := (s.image (r.slot + 1)).pieces
  let code := fun (i : Nat) => if r.role = 6 then (if i < 64 then Config.trapStub i else 0) else Config.cellCode img c.val i
  let data := fun (i : Nat) => let w := if r.role = 6 then (0 : BitVec 36) else Config.cellData img c.val i
    (⟨w.extractLsb' 32 4, w.extractLsb' 0 32⟩ : TWord)
  let s : State := { s with upsets := s.upsets.filter fun u => !(u.1 / 2 ^ 28 == celPage c * 16 + 1) }
  s.modCell c fun k => { k with
    im := (List.range 16384).filterMap fun i => if code i = 0 then none else some (i, code i)
    dm := (List.range 32768).filterMap fun i => if data i = .void then none else some (i, data i) }

/-- The Commit ends with a status. -/
def State.endCommit (s : State) (k : Commit) (st : Status) : State :=
  (s.modFw fun w => { w with commit := none }).finish k.ref st

/-- Step 3 of R91: the pause is reserved in the ledger of cells 0 to 11, the record and ADM_STAT.ACT say that an activation runs, and
the notice goes out. -/
def State.startActivation (s : State) (k : Commit) : State :=
  let s := s.modFw fun w => { w with commit := some { k with step := 1 } }
  let s := s.putRec fun r => { r with prev := r.active, flags := r.flags ||| 1 }
  let s := s.setReg ADM_STAT (setBit (s.reg ADM_STAT) 10 true)
  let s := (List.range 12).foldl (fun (s : State) n => s.charge .pause 1 (.cell n) (s.cst 14)) s
  s.notice 0 9 1 3

/-- SIGNATURE_CHECK_DONE: the check ends. `ok` says that signature, format and hand-over format version hold (R90, R195). -/
def execSignatureCheckDone (ok : Bool) (s : State) : Answer :=
  match s.host.fw.commit with
  | none => .next s
  | some k =>
    if k.step ≠ 0 then .next s
    else if !ok || (s.host.fw.down = [] && !(s.image k.slot).good) then .next (s.endCommit k stImage)
    else match k.action with
      | 0 => .next ((s.replaceSlot k.slot).endCommit k stOk)
      | 1 => .next (((s.replaceSlot k.slot).putRec fun r => { r with next := k.slot }).endCommit k stOk)
      | 2 => .next ((s.putRec fun r => { r with next := k.slot }).endCommit k stOk)
      | _ => .next ((s.replaceSlot k.slot).startActivation k)

end Sys2Proof.Machine
end

