-- ==== Sys2Proof/Machine/Vfm.lean ====
section
/-!
DEFINITION. Virtual functions (17, 04): the pool and its shares (R363, R364, R366), Virtualization Management (R365, R99), mailboxes
(R367), the tenant's views, the dirty-page log (R368, R369), and resets of VFs and of the PF (R77, R370, R371).
-/

namespace Sys2Proof.Machine

abbrev vfmPage : Nat := 0x018

/-- A function's record. -/
def State.vf (s : State) (f : Nat) : Vf := s.vfm.vfs.getD f .reset
def State.modVf (s : State) (f : Nat) (g : Vf → Vf) : State := { s with vfm := { s.vfm with vfs := at' s.vfm.vfs f g } }
def State.modShares (s : State) (f : Nat) (g : Shares → Shares) : State := s.modVf f fun v => { v with shares := g v.shares }

/-- The function that VFM_SEL shows. -/
def State.vfmSel (s : State) : Fun := Fin.ofNat 16 (s.field? VFM_SEL 3 0)

/-! ## Way masks (R347, R363) -/

/-- Whether the shared default of R347 is in force: VFM_STATE.WDEFAULT. -/
def State.wayDefault (s : State) : Bool := (List.range 16).all fun f => (s.vf f).shares.ways == 0

/-- The function that holds a compute cell. -/
def State.cellHolder (s : State) (n : Nat) : Option Nat := (List.range 16).find? fun f => (s.vf f).shares.cells.getLsbD (n - 16)

/-- The mask of a requester of the function pool. -/
def State.poolMask (s : State) (id : Nat) : BitVec 16 :=
  if s.wayDefault then 0xFF00
  else match (if 41 ≤ id then some (id - 41) else s.cellHolder id) with
    | some f => BitVec.ofNat 16 ((s.vf f).shares.ways.toNat * 256)
    | none => 0

/-- The pool's masks in every slice follow the shares. -/
def State.remask (s : State) : State :=
  let ids := (List.range 24).map (16 + ·) ++ (List.range 16).map (41 + ·)
  (List.range 4).foldl (fun (s : State) k =>
    (s.modSlice k fun sl => { sl with masks := ids.foldl (fun m i => m.set (fun _ => 0xFFFF) i (s.poolMask i)) sl.masks }).syncWays k) s

/-! ## Compute cells (R193) -/

/-- A reassignment of a cell begins: steps 1 and 2 of R193. One that is under way takes the new target. -/
def State.startMove (s : State) (c : Nat) (r : Role) : State :=
  let l := s.fabric.reassign
  if l.any fun x => x.cell == c then
    { s with fabric := { s.fabric with reassign := l.map fun x => if x.cell = c then { x with target := { r with slot := x.target.slot } } else x } }
  else { s with fabric := { s.fabric with reassign := l ++ [{ cell := c, step := 2, target := r, old := s.role (Fin.ofNat 41 c) }] } }

/-- A compute cell goes to a function, 0 when none holds it. -/
def State.moveCell (s : State) (c f : Nat) : State :=
  let r := s.role (Fin.ofNat 41 c)
  s.startMove c { role := 6, fn := f, slot := r.slot, allow := 0xD8 }

/-! ## Releases (R364) -/

/-- The indexes of the bits of a mask. -/
def bitsOf (n m : Nat) : List Nat := (List.range n).filter fun k => m.testBit k

/-- A search bank leaves its function: cleared and off. -/
def State.freeBank (s : State) (b : Nat) : State := srbCtrlEffect b 0x10 s

/-- A way leaves its function: written back and invalidated in all four slices. -/
def State.freeWay (s : State) (w : Nat) : State := (List.range 4).foldl (fun (s : State) k => s.flushWay k (8 + w)) s

/-- A key slot leaves its function. -/
def State.freeSlot (s : State) (n : Nat) : State := (s.eraseKey n).modKey n fun k => { k with fw := true, func := 0 }

/-- A function's slots are its own, with its SEAL and PROGRAM keys at its present epochs (R363). -/
def State.fillSlots (s : State) (f : Fun) : State :=
  let put := fun (s : State) (n purpose : Nat) =>
    let s := s.modKey n fun k => { k with fw := false, func := f.val }
    let l := mkLabel purpose f.val 0 0
    let e := match labelKey l with
      | some k => s.lastEpoch k
      | none => 0
    if (s.key n).valid ∧ (s.key n).purpose = purpose then s
    else s.loadKey n (decide (purpose = 2) && s.crypto.root.isSome) (mkLabel purpose f.val 0 e) 2
  match s.keySlots f with
  | [] => s
  | [a] => put s a 2
  | a :: b :: _ => put (put s a 2) b 3

/-- The shares that are not held any more are cleared, those that are new are set up; compute cells apart. -/
def State.settleShares (s : State) (f : Fun) (old new : Shares) : State :=
  let lost := fun (a b : Nat) (n : Nat) => (bitsOf n a).filter fun k => !b.testBit k
  let s := (lost old.banks.toNat new.banks.toNat 16).foldl State.freeBank s
  let s := (lost new.banks.toNat old.banks.toNat 16).foldl (fun s b => srbCtrlEffect b (BitVec.ofNat 32 (0x20 + f.val)) s) s
  let s := (lost old.ways.toNat new.ways.toNat 8).foldl State.freeWay s
  let s := (lost old.keys.toNat new.keys.toNat 24).foldl (fun (s : State) k => s.freeSlot (40 + k)) s
  let s : State := if new.slm < old.slm then
      { s with vfm := { s.vfm with zeroing := s.vfm.zeroing ++ [(f.val, old.slm - new.slm)] } }
    else s
  let s := s.modShares f.val fun x => { new with cells := x.cells }
  (s.fillSlots f).remask

/-- Whether a line of SLM lies in a namespace whose bytes are kept: one that is not attached, or whose function holds a share. -/
def State.slmKept (s : State) (n : Nat) : Bool :=
  s.host.nss.any fun x => x.kind == .slm && decide (x.base < 128 * n + 128 ∧ 128 * n < x.base + x.cap) &&
    (match x.owner with
     | some f => (s.vf f.val).shares.slm != 0
     | none => true)

/-- A line of SLM that is to be written with zeros. -/
def State.slmFree (s : State) (n : Nat) : Bool := decide (slmStart ≤ 128 * n ∧ 128 * n < slmStart + 2 ^ 32) && !s.slmKept n

/-- Zeros in every line of SLM that no kept namespace holds. -/
def State.zeroSlm (s : State) : State :=
  let p := s.slmFree
  let d := s.dram
  { s with
    upsets := s.upsets.filter fun u =>
      !(decide (0xE1 ≤ u.1 / 2 ^ 32 ∧ u.1 / 2 ^ 32 ≤ 0xE4) && u.1 / 2 ^ 28 % 16 == 7 && p (u.1 % 2 ^ 28))
    dram := { d with
      mem := d.mem.filter fun x => !p (x.1 / 128)
      pois := d.pois.filter fun n => !p n
      slices := d.slices.map fun k => { k with lines := k.lines.filter fun l => !p l.n }
      victim := d.victim.filter fun l => !p l.n
      ebuf := d.ebuf.filter fun l => !p l.1.n
      chans := d.chans.map fun c => { c with queue := c.queue.filter fun r => !(p r.n && r.write.isSome) } } }

/-- SLM_SHARE_ZERO: the released SLM of a function is zero and free for another share. -/
def execSlmShareZero (fn : Fun) (s : State) : Answer :=
  if !s.vfm.zeroing.any fun z => z.1 == fn.val then .next s
  else .next { s.zeroSlm with vfm := { s.vfm with zeroing := s.vfm.zeroing.filter fun z => z.1 != fn.val } }

/-! ## APPLY and the share registers (R363, R366) -/

/-- The staged shares. -/
def State.staged (s : State) : Shares :=
  { cells := (s.reg VFM_CELLS).setWidth 24, slm := s.field? VFM_SLM 6 0, banks := (s.reg VFM_BANKS).setWidth 16,
    ways := (s.reg VFM_WAYS).setWidth 8, keys := (s.reg VFM_KEYS).setWidth 24, eng := (s.reg VFM_ENG).setWidth 3 }

/-- The staged registers take the applied shares of the function that VFM_SEL shows. -/
def State.reloadShares (s : State) : State :=
  let x := (s.vf s.vfmSel.val).shares
  let s := (s.setReg VFM_CELLS (x.cells.setWidth 32)).setReg VFM_SLM (BitVec.ofNat 32 x.slm)
  let s := (s.setReg VFM_BANKS (x.banks.setWidth 32)).setReg VFM_WAYS (x.ways.setWidth 32)
  (s.setReg VFM_KEYS (x.keys.setWidth 32)).setReg VFM_ENG (x.eng.setWidth 32)

def vfmSelEffect (v : Word) (d : RegDef) (s : State) : State := (s.store VFM_SEL v d).reloadShares

/-- VFM_SEL_WRITE. -/
def execVfmSelWrite (m : Master) (v : Word) (s : State) : Answer :=
  .next (s.write m vfmPage 0x80 32 v noCond (vfmSelEffect v)).1

/-- A write of a share register or of VFM_APPLY while an APPLY is in progress. -/
def shareCond (m : Master) (off : Nat) (v : Word) (s : State) : Option State :=
  if s.vfm.busy.isSome then some (s.refuse vfmPage 0x11 m off v) else none

/-- Whether a share of `f` meets another function's, the firmware's banks, or the bounds of the pool. -/
def State.shareConflict (s : State) (f : Fun) (x : Shares) : Bool :=
  let others := (List.range 16).filter (· != f.val)
  let codec := (List.range 4).foldl (fun m u => m ||| bits (s.reg (CDC_CTRL u)) 31 16) 0
  let fwBanks := (List.range 16).filter fun b => codec.testBit b || s.bankFw b && s.bankMode b != 0
  let zeroing := (s.vfm.zeroing.filter fun z => z.1 != f.val).foldl (fun a z => a + z.2) 0
  (others.any fun g =>
    let y := (s.vf g).shares
    x.cells &&& y.cells != 0 || x.banks &&& y.banks != 0 || x.ways &&& y.ways != 0 || x.keys &&& y.keys != 0) ||
    (s.vfm.busy.any fun b => b.1 != f && b.2.any fun c => x.cells.getLsbD (c.1 - 16)) ||
    (fwBanks.any fun b => x.banks.getLsbD b) || decide (2 < (bitsOf 24 x.keys.toNat).length) ||
    decide (64 < (others.foldl (fun a g => a + (s.vf g).shares.slm) 0) + zeroing + x.slm)

/-- Bytes of the SLM namespaces attached to a function. -/
def State.slmHeld (s : State) (f : Fun) : Nat :=
  (s.host.nss.filter fun x => x.kind == .slm && x.owner == some f).foldl (fun a x => a + x.cap) 0

/-- RESULT of VFM_APPLY. -/
def State.applyResult (s : State) (n : Nat) : State := s.setField VFM_APPLY 11 8 n

/-- An APPLY that nothing refuses. -/
def State.applyShares (s : State) (f : Fun) (x : Shares) : State :=
  let old := (s.vf f.val).shares
  let s := (s.applyResult 0).settleShares f old x
  let lost := (bitsOf 24 old.cells.toNat).filter fun k => !x.cells.getLsbD k
  let won := (bitsOf 24 x.cells.toNat).filter fun k => !old.cells.getLsbD k
  let stays := won.filter fun k =>
    let r := s.role (Fin.ofNat 41 (16 + k))
    r.role == 6 && r.fn == f.val && !(s.fabric.reassign.any fun y => y.cell == 16 + k)
  let moves := won.filter fun k => !stays.contains k
  let s := s.modShares f.val fun y => { y with
    cells := BitVec.ofNat 24 (((bitsOf 24 (old.cells &&& x.cells).toNat) ++ stays).foldl (fun a k => a + 2 ^ k) 0) }
  let s := lost.foldl (fun (s : State) k => s.moveCell (16 + k) 0) s
  let s := moves.foldl (fun (s : State) k => s.moveCell (16 + k) f.val) s
  let s := s.remask
  let wait := lost.map (fun k => (16 + k, false)) ++ moves.map fun k => (16 + k, true)
  if wait.isEmpty then s.raise vfmPage 9 else { s with vfm := { s.vfm with busy := some (f, wait) } }

/-- The effect of a write of VFM_APPLY. -/
def applyEffect (m : Master) (v : Word) (s : State) : State :=
  let f := s.vfmSel
  let x := s.staged
  let old := (s.vf f.val).shares
  if !bit v 0 then s
  else if !s.fnExists f.val then (s.applyResult 4).refuse vfmPage 0x10 m 0xA4 v
  else if f ≠ 0 ∧ (s.vf f.val).online = true ∧ { x with cells := old.cells } ≠ old then s.applyResult 1
  else if s.shareConflict f x then s.applyResult 2
  else if x.slm * 2 ^ 26 < s.slmHeld f then s.applyResult 3
  else s.applyShares f x

/-- APPLY. -/
def execApply (m : Master) (v : Word) (s : State) : Answer :=
  .next (s.write m vfmPage 0xA4 32 (setBit v 0 true) (shareCond m 0xA4 (setBit v 0 true)) fun _ => applyEffect m (setBit v 0 true)).1

/-- A cell that an APPLY waits for has changed hands; the last one ends the APPLY. -/
def State.cellJoined (s : State) (c : Nat) : State :=
  match s.vfm.busy with
  | none => s
  | some (f, l) =>
    if !l.any fun x => x.1 == c then s
    else
      let won := l.any fun x => x.1 == c && x.2
      let s := if won then s.modShares f.val fun y => { y with cells := y.cells ||| BitVec.ofNat 24 (2 ^ (c - 16)) } else s
      let rest := l.filter fun x => x.1 != c
      let s : State := { s with vfm := { s.vfm with busy := if rest.isEmpty then none else some (f, rest) } }
      let s := s.remask
      if rest.isEmpty then s.raise vfmPage 9 else s

/-! ## Virtualization Management (R365, R99) -/

/-- Virtualization Management of action `act` for a VF, or of an action that is none of the three, which is refused. -/
def virtualCmd (c : NvmeCmd) (act : Nat) (s : State) (f : Fun → State → State) : Answer :=
  let a := bits c.cdw10 3 0
  if 7 ≤ a ∧ a ≤ 9 ∧ a ≠ act then .next s
  else adminCmd c s true fun s =>
    let id := bits c.cdw10 31 16
    if a ≠ act then s.finish c.ref stField
    else if id = 0 ∨ 15 < id ∨ s.fnExists id = false then s.finish c.ref stController
    else f (Fin.ofNat 16 id) s

/-- SECONDARY_CONTROLLER_OFFLINE. -/
def execSecondaryControllerOffline (c : NvmeCmd) (s : State) : Answer :=
  virtualCmd c 7 s fun f s =>
    let s := (s.modVf f.val fun v => { v with online := false }).modCtrl f fun k => { k with fetching := false }
    let k := s.ctrl f
    if bit k.cc 0 || k.resetting then
      let s := if k.resetting then s else s.beginReset f k.cc
      s.addCmd { Cmd.plain c.ref s.ns with slma := 0x100 + f.val }
    else s.finish c.ref stOk

/-- The PF's highest pairs go to a function, or its own highest pairs come back. -/
def State.assignPairs (s : State) (f : Fun) (n : Nat) : State :=
  let mine := (s.ctrl f).pool
  let pf := (s.ctrl 0).pool
  let sort := fun (l : List Nat) => sortedBy (fun a b => decide (a ≤ b)) l
  if mine.length < n then
    let keep := pf.length - (n - mine.length)
    (s.modCtrl 0 fun k => { k with pool := pf.take keep }).modCtrl f fun k => { k with pool := sort (mine ++ pf.drop keep) }
  else (s.modCtrl 0 fun k => { k with pool := sort (pf ++ mine.drop n) }).modCtrl f fun k => { k with pool := mine.take n }

/-- SECONDARY_CONTROLLER_ASSIGN. -/
def execSecondaryControllerAssign (c : NvmeCmd) (s : State) : Answer :=
  virtualCmd c 8 s fun f s =>
    let n := bits c.cdw11 15 0
    let more := n - (s.ctrl f).pool.length
    let left := (s.ctrl 0).pool.length - more
    if bits c.cdw10 10 8 ≠ 0 then s.finish c.ref stField
    else if (s.vf f.val).online then s.finish c.ref stSecondary
    else if 127 < n ∨ (s.ctrl 0).pool.length ≤ more then s.finish c.ref stResources
    else if (s.ctrl 0).sqs.any (fun q => decide (left < q.qid)) || (s.ctrl 0).cqs.any (fun q => decide (left < q.qid)) then
      s.finish c.ref stField
    else (s.assignPairs f n).finish c.ref (status 0 0 (BitVec.ofNat 32 n))

/-- SECONDARY_CONTROLLER_ONLINE. -/
def execSecondaryControllerOnline (c : NvmeCmd) (s : State) : Answer :=
  virtualCmd c 9 s fun f s =>
    if (s.ctrl f).pool.isEmpty then s.finish c.ref stSecondary
    else (s.modVf f.val fun v => { v with online := true }).finish c.ref stOk

/-! ## Mailboxes (R367) -/

/-- The words of a mailbox as 64 bytes, and whether its header is good. -/
def boxBytes (b : SMap Word) : List Byte := (List.range 16).flatMap fun k => wordBytes (b.get (fun _ => 0) k)
def boxOk (b : SMap Word) : Bool :=
  let m := boxBytes b
  sub m 0 1 != [0] && decide ((m.getD 1 0).toNat ≤ 56) && leNat (sub m 4 4) == 0

/-- Page VMB of a VF. -/
def vmbPage (f : Nat) : Nat := 0x1000 + 16 * f

/-- VMB_OUT of a VF. -/
def State.vmbOut (s : State) (f : Nat) : SMap Word :=
  (List.range 16).foldl (fun m k => m.set (fun _ => 0) k (s.reg (vmbPage f * 0x1000 + 0x100 + 4 * k))) []

/-- The effect of a write of VFM_MBDB: FUNC 0, or a VF that does not exist, selects no mailbox. -/
def mbdbEffect (m : Master) (v : Word) (s : State) : State :=
  let f := s.vfmSel.val
  if f = 0 ∨ s.fnExists f = false then s
  else
    let s :=
      if !bit v 0 then s
      else if (s.vf f).dnFull || !boxOk (s.vf f).mbOut then (s.refuse vfmPage 0x13 m 0x180 v).count vfmPage 3 1
      else ((s.modVf f fun x => { x with mbDown := x.mbOut, dnFull := true }).count vfmPage 2 1).raise (vmbPage f) 3
    if bit v 1 && (s.vf f).upFull then (s.modVf f fun x => { x with upFull := false }).raise (vmbPage f) 4 else s

/-- The effect of a write of VMB_DB. -/
def vmbDbEffect (m : Master) (f : Nat) (v : Word) (s : State) : State :=
  let s :=
    if !bit v 0 then s
    else if (s.vf f).upFull || !boxOk (s.vmbOut f) then s.refuse (vmbPage f) 0x13 m 0x180 v
    else (s.modVf f fun x => { x with mbUp := s.vmbOut f, upFull := true }).raise vfmPage 3
  if bit v 1 && (s.vf f).dnFull then (s.modVf f fun x => { x with dnFull := false }).raise vfmPage 4 else s

/-- A write of the mailbox doorbell of a side. -/
def boxWrite (m : Master) (fn : Fun) (v : Word) (s : State) : Answer :=
  match m with
  | .vf n => if n = fn then .next (s.write m (vmbPage n.val) 0x180 32 v noCond fun _ => vmbDbEffect m n.val v).1 else .next s
  | _ => if s.vfmSel = fn then .next (s.write m vfmPage 0x180 32 v noCond fun _ => mbdbEffect m v).1 else .next s

/-- MAILBOX_SEND and MAILBOX_ACK of VF `fn`'s mailbox, by the manager or by the VF. -/
def execMailboxSend (m : Master) (fn : Fun) (v : Word) (s : State) : Answer := boxWrite m fn (setBit v 0 true) s
def execMailboxAck (m : Master) (fn : Fun) (v : Word) (s : State) : Answer := boxWrite m fn (setBit v 1 true) s

/-! ## The dirty-page log (R368, R369) -/

def State.dirtyOf (s : State) (f : Nat) : Dirty := (s.vf f).dirty
def State.modDirty (s : State) (f : Nat) (g : Dirty → Dirty) : State := s.modVf f fun v => { v with dirty := g v.dirty }

/-- A write of a register of the log that is ignored. -/
def dpCond (m : Master) (off : Nat) (v : Word) (s : State) : Option State :=
  let d := s.dirtyOf s.vfmSel.val
  let bad :=
    if off = 0xC0 then bit v 1 && (d.busy || !d.enable)
    else d.busy || d.enable || off == 0xC8 && (bits v 6 0 == 0 || decide (64 < bits v 6 0))
  if bad then some (s.refuse vfmPage 0x12 m off v) else none

/-- The effect of a write of VFM_DPCTRL: enabling zeroes bitmaps and OVER; COPY swaps the bitmaps. -/
def dpCtrlEffect (v : Word) (s : State) : State :=
  let f := s.vfmSel.val
  let s := s.modDirty f fun d =>
    if bit v 0 && !d.enable then { d with enable := true, active := [], old := [], overB := false } else { d with enable := bit v 0 }
  if bit v 1 then s.modDirty f fun d => { d with active := d.old, old := d.active, busy := true } else s

/-- The effect of a write of VFM_DPBASE, VFM_DPSIZE, VFM_DPDEST_LO or VFM_DPDEST_HI. -/
def dpEffect (off : Nat) (v : Word) (s : State) : State :=
  s.modDirty s.vfmSel.val fun d => match off with
    | 0xC4 => { d with base := v.toNat }
    | 0xC8 => { d with gib := bits v 6 0 }
    | 0xCC => { d with dest := (d.dest >>> 32).setWidth 32 ++ (v &&& 0xFFFFF000) }
    | _ => { d with dest := v ++ d.dest.setWidth 32 }

def dpCtrlWrite (m : Master) (v : Word) (s : State) : Answer :=
  .next (s.write m vfmPage 0xC0 32 v (dpCond m 0xC0 v) fun _ => dpCtrlEffect v).1

/-- DIRTY_PAGE_ENABLE and COPY_BITMAP. -/
def execDirtyPageEnable (m : Master) (v : Word) (s : State) : Answer := dpCtrlWrite m (setBits v 1 0 1) s
def execCopyBitmap (m : Master) (v : Word) (s : State) : Answer := dpCtrlWrite m (setBit v 1 true) s

/-- A bitmap's bytes: bit p mod 8 of byte p div 8 stands for page p. -/
def bitmapBytes (b : SMap Bool) (len : Nat) : List Byte :=
  loadBytes (b.foldl (fun (m : SMap Byte) x => m.set (fun _ => 0) (x.1 / 8) (byteAt m (x.1 / 8) ||| BitVec.ofNat 8 (2 ^ (x.1 % 8)))) []) 0 len

/-- DIRTY_PAGE_COPY_DONE: the retired bitmap is in the PF's memory. -/
def execDirtyPageCopyDone (fn : Fun) (s : State) : Answer :=
  let d := s.dirtyOf fn.val
  if !d.busy then .next s
  else
    let n := d.gib * 32768
    let s := s.hostWrite 0 [(d.dest, n)] (bitmapBytes d.old n)
    .next ((s.modDirty fn.val fun d => { d with old := [], overB := false, busy := false, rounds := d.rounds + 1 }).raise vfmPage 7)

/-! ## What the pages read (R363, R367, R369) -/

/-- A register of page VFM whose value is not stored. -/
def vfmView (s : State) (off : Nat) : Option Word :=
  let f := s.vfmSel
  let v := s.vf f.val
  let all := fun (p : Vf → Bool) => (List.range 15).foldl (fun a k => a + (p (s.vf (k + 1))).toNat * 2 ^ (k + 1)) 0
  let n := fun (x : Nat) => some (BitVec.ofNat 32 x)
  match off with
  | 0x84 => n ((s.fnExists f.val).toNat + 2 * (f == 0 || v.online).toNat + 4 * v.flr.toNat + 8 * s.wayDefault.toNat)
  | 0x8C => n (s.ctrl f).pool.length
  | 0xA4 => n (s.field? VFM_APPLY 11 8 * 256 + s.vfm.busy.isSome.toNat * 4096)
  | 0xC0 => n v.dirty.enable.toNat
  | 0xC4 => n v.dirty.base
  | 0xC8 => n v.dirty.gib
  | 0xCC => some (v.dirty.dest.setWidth 32)
  | 0xD0 => some ((v.dirty.dest >>> 32).setWidth 32)
  | 0xD4 => n (v.dirty.busy.toNat + 2 * v.dirty.overB.toNat + 65536 * v.dirty.rounds.toNat)
  | 0x184 => n (all Vf.upFull + 65536 * all Vf.dnFull)
  | _ =>
    if 0x100 ≤ off ∧ off < 0x140 then some (if f = 0 then 0 else v.mbUp.get (fun _ => 0) ((off - 0x100) / 4))
    else if 0x140 ≤ off ∧ off < 0x180 then some (if f = 0 then 0 else v.mbOut.get (fun _ => 0) ((off - 0x140) / 4))
    else none

/-- A write of VFM_MBOUT. -/
def mboutWrite (off : Nat) (v : Word) (s : State) : State :=
  if s.vfmSel = 0 then s else s.modVf s.vfmSel.val fun x => { x with mbOut := x.mbOut.set (fun _ => 0) ((off - 0x140) / 4) v }

/-- A register of a VF's window whose value is not stored: VMB, VAD, VTP. -/
def windowView (s : State) (page off : Nat) : Option Word :=
  let f := (page - 0x1000) / 16
  let v := s.vf f
  let x := s.evSlice f
  let b := s.bucketNow f
  let n := fun (x : Nat) => some (BitVec.ofNat 32 x)
  match page % 16, off with
  | 0, 0x184 => n (v.upFull.toNat + 2 * v.dnFull.toNat)
  | 0, _ => if 0x140 ≤ off ∧ off < 0x180 then some (v.mbDown.get (fun _ => 0) ((off - 0x140) / 4)) else none
  | 1, 0x80 => n (x.cmds * 65536 + x.mbps)
  | 1, 0x84 => n (min (b.bytes / 1024) 65535 + 65536 * min (b.cmds / 10000) 65535)
  | 1, 0x88 => some (s.reg ADM_STAT)
  | 1, _ => if 0xC0 ≤ off ∧ off < 0xD0 then some (v.rej.get (fun _ => 0) ((off - 0xC0) / 4)) else none
  | 2, 0x84 => n (2 * v.online.toNat)
  | 2, 0x88 => some (v.shares.cells.setWidth 32)
  | 2, 0x8C => n (s.ctrl (Fin.ofNat 16 f)).pool.length
  | 2, 0x90 => n v.shares.slm
  | 2, 0x94 => some (v.shares.banks.setWidth 32)
  | 2, 0x98 => some (v.shares.ways.setWidth 32)
  | 2, 0x9C => some (v.shares.keys.setWidth 32)
  | 2, 0xA0 => some (v.shares.eng.setWidth 32)
  | _, _ => none

/-! ## Resets (R77, R370, R371) -/

/-- The jobs of a cell stop: its lanes' with their key registers cleared, its codec job (R370 step 3). -/
def State.stopJobs (s : State) (c : CellId) : State :=
  let s := (List.range 16).foldl (fun (s : State) l => match (s.lane l).job with
    | some h => if h.cell = c then (s.modLane l fun k => { k with job := none, keys := [] }).endJob c h.port (cipPage l) 0x30 else s
    | none => s) s
  (List.range 4).foldl (fun (s : State) u => match (s.codecJobs u).find? fun k => k.cell == c with
    | some k => s.codecStop u k
    | none => s) s

/-- The cells that run for a function: its own, and those that still drain for it. -/
def State.cellsOf (s : State) (f : Fun) : List CellId :=
  (List.finRange 41).filter fun c => (s.role c).role == 6 &&
    ((s.fabric.reassign.any fun x => x.cell == c.val && x.old.fn == f.val && decide (x.step < 3)) ||
      (decide (16 ≤ c.val) && (s.vf f.val).shares.cells.getLsbD (c.val - 16)))

/-- Steps 3 and 4 of R370: jobs and executions of a function stop without a completion, its cells are held and scrubbed. -/
def State.stopExecs (s : State) (f : Fun) : State :=
  let cs := s.cellsOf f
  let s := cs.foldl State.stopJobs s
  let s := (List.range 32).foldl (fun (s : State) k =>
    let x := s.crypto.ctxs.getD k .free
    if x.inUse ∧ x.func = f.val ∧ f ≠ 0 then s.clearCtx k else s) s
  let mine := s.prog.execs.filter fun e => e.ref.fn == f
  let s := mine.foldl (fun (s : State) e =>
    let s : State := if e.step = 0 then { s with prog := { s.prog with execs := s.prog.execs.filter fun x => x.ref != e.ref } } else s.leaveExec e
    (s.uncharge (.cmd e.ref)).forget e.ref) s
  (cs.filter fun c => !(mine.any fun e => e.step != 0 && e.cell == c.val)).foldl State.holdAndFill s

/-- Steps 2 to 5 of R370: the VF is fenced and its work settled. -/
def State.beginFlr (s : State) (f : Fun) : State :=
  let s := s.modCtrl f fun c => { c with fetching := false, resetting := true, coal := [] }
  let s := s.modVf f.val fun v => { v with flr := true, mbUp := [], mbDown := [], upFull := false, dnFull := false }
  let s := ((s.count vfmPage 4 1).raise vfmPage 5).stopExecs f
  let s := s.dropAsync f
  (s.host.cmds.filter fun c => c.ref.fn == f && (!c.silent || c.awaits)).foldl State.sortFlr s

/-- Step 6 of R370. -/
def State.endFlr (s : State) (f : Fun) : State :=
  let s := s.modVf f.val fun v => { v with flr := false }
  let s := (s.modCtrl f fun c => Ctrl.reset c.pool).endReset f
  s.raise vfmPage 6

/-- FLR_VF. -/
def execFlrVf (fn : Fun) (s : State) : Answer :=
  if fn = 0 ∨ s.fnExists fn.val = false ∨ s.host.link.up = false ∨ s.pageOn 0x010 = false ∨ (s.vf fn.val).flr = true then .next s
  else .next (s.beginFlr fn)

/-- VF_RESET_COMPLETE. -/
def execVfResetComplete (fn : Fun) (s : State) : Answer := if (s.vf fn.val).flr then .next (s.endFlr fn) else .next s

/-- Every share of a VF is released, its Evidential slice and queue pairs among them (R364, R99). -/
def State.releaseVf (s : State) (f : Fun) : State :=
  let old := (s.vf f.val).shares
  let s := s.settleShares f old Vf.reset.shares
  let s := s.modShares f.val fun x => { x with cells := 0 }
  let cs := (bitsOf 24 old.cells.toNat).map (16 + ·)
  let s := cs.foldl (fun (s : State) c => s.moveCell c 0) s
  let s : State := { s with adm := { s.adm with slices := s.adm.slices.set f.val ⟨0, 0⟩ } }
  let s := (s.modBucket f.val fun _ => ⟨0, 0⟩).assignPairs f 0
  s.modVf f.val fun v => { v with online := false }

/-- Clearing VF Enable: every VF is reset, then its shares are released. A reassignment towards a VF goes to no function. -/
def State.clearVfEnable (s : State) : State :=
  if !s.host.link.vfEn then s
  else
    let vfs := (List.finRange 16).filter fun f => f != 0 && s.fnExists f.val
    let s := vfs.foldl (fun (s : State) f => (if (s.vf f.val).flr then s else s.beginFlr f).endFlr f) s
    let s := vfs.foldl State.releaseVf s
    let s : State := { s with
      fabric := { s.fabric with reassign := s.fabric.reassign.map fun x =>
        if x.target.fn = 0 then x else { x with target := { x.target with fn := 0 } } }
      vfm := { s.vfm with busy := s.vfm.busy.map fun b => if b.1 = 0 then b else (b.1, b.2.map fun x => (x.1, false)) }
      host := { s.host with link := { s.host.link with vfEn := false, numVfs := 0 } } }
    s.remask.revertRoutes

/-- VF_ENABLE_CLEAR. -/
def execVfEnableClear (s : State) : Answer := if s.pageOn 0x010 then .next s.clearVfEnable else .next s

/-- VF_ENABLE_SET: NumVFs is written with VF Enable. -/
def execVfEnableSet (n : Fun) (s : State) : Answer :=
  if s.host.link.vfEn || !s.host.link.up || !s.pageOn 0x010 then .next s
  else .next { s with host := { s.host with link := { s.host.link with vfEn := true, numVfs := n.val } } }

/-- FLR_PF: a controller reset of the PF, and VF Enable is cleared. -/
def execFlrPf (s : State) : Answer :=
  if s.host.link.up = false ∨ s.pageOn 0x010 = false then .next s
  else .next ((if (s.ctrl 0).resetting then s else s.beginReset 0 (s.ctrl 0).cc).clearVfEnable)

end Sys2Proof.Machine
end

