-- ==== Sys2Proof/Machine/Reassign.lean ====
section
/-!
DEFINITION. Quiesce and reassign (R193 to R196), and the activation of a firmware image without reset that it carries out (R91, R435).
-/

namespace Sys2Proof.Machine

/-- The firmware slot as FAB_RENT counts it: 0 slot A, 1 slot B. -/
def Commit.rent (k : Commit) : Nat := k.slot - 1

/-- The groups of R91 in their order: steps 4 to 8. -/
def groupOf (c : Nat) : Nat :=
  if 16 ≤ c ∧ c ≤ 39 then 1 else if c = 12 ∨ c = 13 ∨ c = 15 then 2 else if c = 14 then 3 else if c ≤ 11 then 4 else 5

/-- The slot a cell runs, and whether it is being reassigned. -/
def State.slotRun (s : State) (c : Nat) : Nat := (s.role (Fin.ofNat 41 c)).slot
def State.moving (s : State) (c : Nat) : Bool := s.fabric.reassign.any fun x => x.cell == c

/-- The activation that hands cells over now, if any. -/
def State.handing (s : State) : Option Commit := s.host.fw.commit.filter fun k => k.step == 1

/-- Whether a cell's turn has come: every cell of the earlier groups runs the new slot, and of cells 12 and 13 one at a time moves. -/
def State.turn (s : State) (k : Commit) (c : Nat) : Bool :=
  ((List.range 41).all fun d => decide (groupOf c ≤ groupOf d) || s.slotRun d == k.rent && !s.moving d) &&
    !(c == 12 && s.moving 13) && !(c == 13 && s.moving 12)

/-- Adding reassignments to those under way. -/
def State.addMoves (s : State) (l : List (Nat × Role)) : State :=
  let m : List Reassign := l.map fun x => { cell := x.1, step := 2, target := x.2, old := s.role (Fin.ofNat 41 x.1) }
  { s with fabric := { s.fabric with reassign := s.fabric.reassign ++ m } }

/-- Whether a cell has drained: a cell that leaves its function has run out every execution admitted to it, another the one that
runs; every job port is idle. -/
def State.drained (s : State) (x : Reassign) : Bool :=
  !(s.prog.execs.any fun e => e.cell == x.cell && (e.step != 0 || x.target.fn != x.old.fn || x.target.role != 6)) &&
    (List.range 4).all fun p => (s.running (Fin.ofNat 41 x.cell) p).isNone

/-- Steps 3 to 6 of R193: hold, scrub, rewrite (the role table, the owners of the cell's page, CEL_DWIN), load. The warden reloads itself in their
place. The pages of a role keep the owners of start-up (log 118). -/
def State.rewriteCell (s : State) (c : CellId) (r : Role) : State :=
  if c = 40 then s.wreload.setRole 40 r
  else
    let s := ((s.holdAndFill c).setRole c.val r).setReg (PG_OWNER (celPage c)) (ownerReset .cel c.val)
    let s := s.setReg (CEL_DWIN c.val) 0
    if r.role = 0 then s else s.loadCell c r

/-- A service cell's fence to the warden, when it has written its state to the hand-over area (step 2 of R193). -/
def State.sendFence (s : State) (c : CellId) : State :=
  if (s.role c).role = 0 ∨ (s.role c).role = 6 ∨ c = 40 then s
  else
    let f : Flit := { dst := 0x54, src := c.val, cls := 0, kind := 7, sid := 0, gen := 0, pos := 0, nb := 0, last := false, pois := false,
                      aux := 0, payload := [] }
    s.onMesh f fun s => s.emit (.flit f.dst f.src 0 7 0 0 0 false false [])

/-- DRAIN_DONE. -/
def execDrainDone (c : CellId) (s : State) : Answer :=
  match s.fabric.reassign.find? fun x => x.cell == c.val && x.step == 2 with
  | none => .next s
  | some x =>
    if !s.pageOn 0x70 || s.power.flush != 0 || !s.drained x then .next s
    else
      let s := (s.sendFence c).rewriteCell c x.target
      .next { s with fabric := { s.fabric with reassign := s.fabric.reassign.map fun y => if y.cell = c.val then { y with step := 6 } else y } }

/-- Step 7: a cell in a role runs again; EV_FAB_REASSIGNED. -/
def State.cellReady (s : State) (c : CellId) : State :=
  let s := if (s.role c).role = 0 ∨ c = 40 then s else s.unhold c
  let s : State := { s with fabric := { s.fabric with reassign := s.fabric.reassign.filter fun x => x.cell != c.val } }
  ((s.raise 0x70 4).count 0x70 4 1).cellJoined c.val

/-- The pause of R194 begins. -/
def State.beginPause (s : State) : State := { s with fabric := { s.fabric with pause := some s.pages.dtime } }

/-- The pause of R194 ends: the firmware takes the completions that have queued. -/
def State.endPause (s : State) : State :=
  let l := s.media.queued
  let s : State := { s.uncharge .pause with fabric := { s.fabric with pause := none } }
  l.foldl State.programEnd { s with media := { s.media with queued := [] } }

/-- The last act of step 8 of R91: the record names the new slot, and the Commit completes. The field patch of the image is then sent to the
field die (R396). -/
def State.endActivation (s : State) (k : Commit) : State :=
  let s := s.putRec fun r => { r with active := k.slot, next := k.slot, flags := r.flags / 2 * 2 }
  let s : State := { s with
    start := { s.start with slot := k.slot, nor := { s.start.nor with patch := wordAligned (Config.fieldPatch (s.image k.slot).pieces) } }
    frl := { s.frl with patch := some 0 } }
  ((s.setReg ADM_STAT (setBit (s.reg ADM_STAT) 10 false)).endCommit k stOk).pumpFront 8

/-- The reversal of R195: the cells that run the new slot go back, group by group in the reverse order of R91; then the Commit
completes with Invalid Firmware Image. -/
def State.reverseNext (s : State) (k : Commit) : State :=
  let l := (List.range 41).filter fun c => s.slotRun c == k.rent
  let top := l.foldl (fun a c => max a (groupOf c)) 0
  if (s.fabric.reassign.any fun x => x.target.slot != x.old.slot) then s
  else if l.isEmpty then (s.setReg ADM_STAT (setBit (s.reg ADM_STAT) 10 false)).endCommit k stImage
  else
    let now := (l.filter fun c => groupOf c == top && !s.moving c).reverse
    let now := if now.contains 13 then now.filter (· != 12) else now
    let s := s.addMoves (now.map fun c => (c, { s.role (Fin.ofNat 41 c) with slot := 1 - k.rent }))
    if top = 4 then s.beginPause else s

/-- A cell takes a role again at once, and runs. -/
def State.takeBack (s : State) (c : CellId) (r : Role) : State := (s.rewriteCell c r).cellReady c

/-- The activation has failed: the reversal begins (R195). -/
def State.reverse (s : State) (k : Commit) : State :=
  let k := { k with step := 2 }
  (s.modFw fun w => { w with commit := some k }).reverseNext k

/-- CELL_REASSIGN: steps 1 and 2 of R193. In an activation a cell keeps its role and takes the new slot when its turn comes, cells
0 to 11 together in the Evidential pause. For a cell that holds the new image and has not reported ready, the warden names the old slot when it
gives the cell up: the activation fails (R195; log 119). Nothing is reassigned while the staging flush runs (R196). -/
def execCellReassign (c : CellId) (r : Role) (s : State) : Answer :=
  let old := s.role c
  if !s.pageOn 0x70 || s.power.flush != 0 || s.badRole c.val r || decide (255 < r.allow ∨ 15 < r.fn) then .next s
  else if s.moving c.val then
    match s.handing, s.fabric.reassign.find? fun x => x.cell == c.val && x.step == 6 with
    | some k, some x => if 11 < c.val ∧ x.target.slot = k.rent ∧ r = x.old then .next ((s.takeBack c r).reverse k) else .next s
    | _, _ => .next s
  else if r.slot = old.slot then
    if (c.val = 12 ∧ s.moving 13 = true) ∨ (c.val = 13 ∧ s.moving 12 = true) then .next s else .next (s.addMoves [(c.val, r)])
  else match s.handing with
    | none => .next s
    | some k =>
      if r ≠ { old with slot := k.rent } ∨ s.turn k c.val = false then .next s
      else if 11 < c.val then .next (s.addMoves [(c.val, r)])
      else if (List.range 12).any s.moving then .next s
      else .next (s.addMoves ((List.range 12).map fun d => (d, { s.role (Fin.ofNat 41 d) with slot := k.rent }))).beginPause

/-- EVIDENTIAL_PAUSE_TIMEOUT: 900 µs into the pause one of cells 0 to 11 has not reported ready; the twelve go back to the old slot
and run again, and the reversal of the others begins. -/
def execEvidentialPauseTimeout (s : State) : Answer :=
  match s.fabric.pause, s.host.fw.commit with
  | some t, some k =>
    if (s.pages.dtime - t).toNat < 900 ∨ s.power.flush ≠ 0 ∨ (List.range 12).any s.moving = false then .next s
    else
      let back := fun (s : State) (n : Nat) =>
        let c : CellId := Fin.ofNat 41 n
        s.takeBack c { s.role c with slot := 1 - k.rent }
      .next (((List.range 12).foldl back s).endPause.reverse k)
  | _, _ => .next s

/-- PWR_FAIL# meets reassignments (R196): a cell that has not been held stays what it is, one that has been completes with its old image, and
a pause ends. -/
def State.dropMoves (s : State) : State :=
  let back := fun (s : State) (x : Reassign) =>
    let c : CellId := Fin.ofNat 41 x.cell
    if x.step < 3 then s
    else
      let s := s.rewriteCell c x.old
      if x.old.role = 0 ∨ c = 40 then s else s.unhold c
  let s := s.fabric.reassign.foldl back s
  let s : State := { s with fabric := { s.fabric with reassign := [] } }
  if s.fabric.pause.isSome then s.endPause else s

end Sys2Proof.Machine
end

