-- ==== Sys2Proof/Machine/Flush.lean ====
section
/-!
DEFINITION. Draining staging to flash and closing the journal, as the staging flush (R218), the entry to Lull and Calm (R418), and a
retained start (R442) do it.
-/

namespace Sys2Proof.Machine

/-! ## Programs carried out in one step -/

/-- A slot whose limit leaves no room for so many blocks moves to its next epoch first (R316, R318). -/
def State.roomFor (s : State) (n blocks : Nat) : State :=
  if blocks ≤ s.blocksLeft n then s else (s.useBlocks n (s.blocksLeft n)).deriveNext n 1 0xFF n

/-- Codeword `w` of a page set encrypted, the key moving to its next epoch within it when its limit falls there (R319). -/
def State.cryptStep (s : State) (r : Req) (p : PageSet) (w : Nat) : PageSet × State :=
  let n := p.tag.keyNs
  let s := s.roomFor n 1
  let left := s.blocksLeft n
  let e := labelEpoch (s.key n).label
  let t := if w = 0 then { p.tag with epoch := e, split := 4096 }
    else if p.tag.split = 4096 ∧ e ≠ p.tag.epoch then { p.tag with split := 256 * w } else p.tag
  let (t, s) := if left < 256 then ({ t with split := 256 * w + left }, (s.roomFor n 256).useBlocks n (256 - left))
    else (t, s.useBlocks n 256)
  ({ p with tag := t, words := p.words.set w (s.cipherWord r p t w) }, s)

/-- A whole page set encrypted, a journal page's CRC with it. -/
def State.cryptAll (s : State) (r : Req) (p : PageSet) : PageSet × State :=
  let x := (List.range 16).foldl (fun (a : PageSet × State) w => if w < r.word then a else a.2.cryptStep r a.1 w) (p, s)
  ({ x.1 with words := sealPage x.1.tag x.1.words }, x.2)

/-- A program taken to its verified end: encrypted, folded into its stripe, stored. -/
def State.programNow (s : State) (r : Req) : State :=
  match r.data with
  | none => s.dropReq r.id
  | some p =>
    let (p, s) := if r.phase = .cipher then s.cryptAll r p else (p, s)
    let s : State := match p.hdr with
      | some h => if h.role != 0 || h.spare || r.phase == .running then s else s.fold h.sseq (memberIdx h.sseq (r.die / 8)) p.member
      | none => s
    s.programEnd { r with data := some p }

/-- Every program at the scheduler is taken to its end, and those that follow from it. -/
def State.programAll (s : State) : Nat → State
  | 0 => s
  | n + 1 => match s.media.reqs.find? fun r => r.op == 2 with
    | none => s
    | some r => (s.programNow r).programAll n
def State.runPrograms (s : State) : State :=
  s.programAll (4 * s.media.reqs.length + 64 + 2 * (s.ftl.ckptRun.map fun x => x.2.todo.length).getD 0)

/-- The plaintext of a page set, read from its die or from its stripe: its blocks, none where there is nothing to read or the tag of a coarse
unit marks a block as holding no data (R224). -/
def State.readNow (s : State) (die unit : Nat) : Nat → Option Block :=
  let (d, u) := s.redirect die unit
  let p := match s.flashAt d u with
    | some p => some p
    | none => (s.reconstruct die unit []).1
  match p with
  | none => fun _ => none
  | some p =>
    let at_ := counterPlace s.psBlk (readReq die unit .pslc 1 .drain []) p
    fun w => if p.tag.kind == 0 && !p.tag.valid.testBit w then none
      else some (cryptWord (s.wordKey p.tag w) p.tag.erases at_.1 at_.2 w (p.words.getD w 0))

/-! ## What is stopped first -/

/-- Every die is idle; no operation, suspension or held ready is left. -/
def State.idleDies (s : State) : State :=
  let s : State := { s with squall := { s.squall with scaled := [] } }
  let s := (List.range 128).foldl (fun (s : State) d =>
    s.modDie d fun x => { x with state := 0, susp := false, req := none, paused := none, lunReset := none, forced := false, scale := 0 }) s
  let free := fun (c : Channel) => { c with
    bufs := [none, none], waits := [], seq := { c.seq with todo := false, desc := none, active := false, susReq := false } }
  { s with media := { s.media with chans := s.media.chans.map free } }

/-- What a read or an erase that is abandoned was for is done anew. -/
def State.abandonRead (s : State) (r : Req) : State :=
  let s := s.dropReq r.id
  match r.owner with
  | .merge => s.markIssued r.blocks false
  | .rebuild k => { s with red := { s.red with todo := s.red.todo ++ [k] } }
  | _ => s

/-- What a program that is abandoned carried is drained, placed or programmed anew; a relocated copy is still at its source. -/
def State.abandonProgram (s : State) (r : Req) : State :=
  let gone := (s.unmember r).dropReq r.id
  match r.owner with
  | .drain => gone.markIssued r.blocks false
  | .evid _ => gone.markIssued r.blocks false
  | .reloc _ _ _ => gone
  | .ckpt slot => gone.ckptAgain slot r.old.toNat
  | .rebuild k => { gone with red := { gone.red with todo := gone.red.todo ++ [k] } }
  | _ => s.replan r

/-- Reads, merges and erases are abandoned, and programs that `p` picks (R218 step 3). What was erased is erased again; of other relocations
a refresh and a retirement are presented again. -/
def State.abandon (s : State) (p : Req → Bool) : State :=
  let s := (s.media.reqs.filter fun r => r.op != 2).foldl State.abandonRead s.unpark
  let s := (s.media.reqs.filter p).foldl State.abandonProgram s
  let s := s.giveUp fun r => decide (r.stage < 2)
  let erasing := fun (b : Blk) => if b.state = 4 then { b with state := 3 } else b
  let s : State := { s with ftl := { s.ftl with
    relocs := s.ftl.relocs.map fun r => { r with stage := 2 }
    map := { s.ftl.map with blocks := s.ftl.map.blocks.map fun x => (x.1, erasing x.2) } } }
  s.idleDies

/-! ## The drain -/

/-- Of several staged versions of a block only the newest is programmed (R209). -/
def State.newestOnly (s : State) : State :=
  s.unstage fun x => s.ftl.staging.any fun y => y.nsid == x.nsid && y.lba == x.lba && older x.version y.version

/-- The staged blocks of a unit that are still to be programmed. -/
def State.stagedIn (s : State) (u : Nat) : List Staged :=
  s.ftl.staging.filter fun x => !x.issued && s.unitOf x.nsid x.lba == u

/-- A page set of staged blocks is programmed on the die that R263 picks, out of the flush reserve where nothing else is left; `lost` are the
words of a coarse unit that hold no data. -/
def State.drainSet (s : State) (power : Bool) (unit0 : Option Nat) (lost : List Nat) (words : List Block) (bs : List Staged)
    (old : Word) : State :=
  match bs, s.leastDie with
  | x :: _, some d =>
    let go := fun (mode : Mode) (stream : Nat) => s.programBlocks d 1 .drain false stream mode x.nsid unit0 lost words (bs.map Staged.entry) old
    let (mode, stream) := s.drainMode x.floor
    match go (if power then .pslc else mode) (if power then stFlush else stream) with
    | (true, s) => (s.markIssued (bs.map Staged.entry) true).runPrograms
    | (false, _) => match go .pslc stFlush with
      | (true, s) => (s.markIssued (bs.map Staged.entry) true).runPrograms
      | (false, _) => s
  | _, _ => s

/-- The partial units of a namespace that go to fine slots: in a flush all of them, with groups of the flush pool; else those that are
fine. -/
def State.drainFine (s : State) (power : Bool) (n : Nat) : State :=
  let pick := s.ftl.staging.filter fun x => !x.issued && x.nsid == n && decide ((s.stagedIn (s.unitOf n x.lba)).length < 16) &&
    (power || bit (s.coarse (s.unitOf n x.lba)) 29)
  let bs := pick.take 16
  let s := if power then bs.foldl (fun (s : State) x => (s.promote n (s.unitOf n x.lba) 2).2) s else s
  s.drainSet power none [] (bs.map fun x => x.data) bs 0

/-- The next page set of the drain: the oldest staged block with what it is programmed with (R207, R218 step 4, R224). -/
def State.drainNext (s : State) (power : Bool) : State :=
  match s.ftl.staging.find? fun x => !x.issued with
  | none => s
  | some x =>
    let u := s.unitOf x.nsid x.lba
    let e := s.coarse u
    let mine := s.stagedIn u
    let start := x.lba - x.lba % 16
    let new := fun (i : Nat) => mine.find? fun y => y.lba == start + i
    let coarse := fun (s : State) (old : Nat → Option Block) =>
      let bad := (List.range 16).filter fun i => (new i).isNone && (old i).isNone
      s.drainSet power (some start) bad ((List.range 16).map fun i => match new i with
        | some y => y.data
        | none => (old i).getD 0) mine e
    if mine.length = 16 then coarse s fun _ => none
    else if power || bit e 29 then s.drainFine power x.nsid
    else if x.evid || bit e 31 then match s.promote x.nsid u (if x.evid then 1 else 0) with
      | (true, s) => s.drainFine false x.nsid
      | (false, s) => coarse s fun _ => none
    else if bit e 30 then
      let old := s.readNow (bits e 28 22) (bits e 21 0)
      let bad := (List.range 16).filter fun i => (new i).isNone && (old i).isNone
      if !bad.isEmpty && (s.promoteQuiet u 0).isSome then s.loseBlocks (bad.map fun i => (x.nsid, start + i)) 3
      else coarse s old
    else coarse s fun _ => some 0

/-- Draining all of staging, with the records of what was programmed. -/
def State.drainLoop (s : State) (power : Bool) : Nat → State
  | 0 => s
  | n + 1 => if s.ftl.staging.all fun x => x.issued then s else (s.drainNext power).drainLoop power n
def State.drainAll (s : State) (power : Bool) : State :=
  let s := s.newestOnly
  (s.drainLoop power (2 * s.ftl.staging.length)).commitParked

/-! ## Closing the journal -/

/-- Journal pages with both copies become durable in their order, and the checkpoint that their CKPT record completes. -/
def State.settlePages (s : State) : State :=
  s.ftl.jpages.foldl (fun (s : State) p =>
    if p.durable || !(p.copyA && p.copyB) then s
    else
      let mark := fun (q : JPage) => if q.jseq = p.jseq then { q with durable := true } else q
      (({ s with ftl := { s.ftl with jpages := s.ftl.jpages.map mark } } : State).completeCkpt p).reusePages) s

/-- Steps 4 to 6 of R218: staging is programmed and every open stripe closed; the in-flight stripe journal is written, and the last
journal page, with FLUSH and FINAL, on both copies. -/
def State.flushOut (s : State) (power ckpt : Bool) : State :=
  let s := s.uncharge (.work (workId 5 0 0))
  let s := ({ s with ftl := { s.ftl with ckptRun := none } } : State).rederive.runPrograms
  let s := s.drainAll power
  let s := if ckpt then s.beginCkpt.runPrograms else s
  let s := (s.closeWhere fun _ => true).runPrograms
  let s := (s.roomFor 0 8192).runPrograms.writeSifj
  ((s.seal true true false).runPrograms).settlePages.settle

/-- Every channel leaves its bus: CE_n high, WP_n low, DQ not driven (R274). -/
def State.parkBuses (s : State) : State :=
  let park := fun (c : Channel) => { c with parked := true, seq := { c.seq with sel := none, wpn := false } }
  { s with media := { s.media with chans := s.media.chans.map park } }

end Sys2Proof.Machine
end

