-- ==== Sys2Proof/Machine/Replay.lean ====
section
/-!
DEFINITION. The start after a loss of power: journal replay, the tag scan and the full tag scan (R219, R220), the block table, stripe
repair and the in-flight stripe journal (R258), and the evidence namespace (R482).
-/

namespace Sys2Proof.Machine

/-! ## The journal that a start finds (R219) -/

/-- Whether a copy of a journal page is found whole: it was programmed, its die has not failed, and it is not among those that fail their
CRC, given by JSEQ and copy. -/
def State.goodCopy (s : State) (bad : List (Nat × Bool)) (p : JPage) (copyB : Bool) : Bool :=
  (if copyB then p.copyB else p.copyA) && !bad.contains (p.jseq.toNat, copyB) &&
    ((if copyB then p.atB else p.atA).all fun k => !s.red.failed.contains k.1)

/-- The intact pages of the journal up to the newest one: each with a good copy and following the page before it. -/
def intactRun (good : JPage → Bool) : Option (BitVec 64) → List JPage → List JPage
  | _, [] => []
  | prev, p :: r =>
    if good p && (match prev with
      | some q => p.jseq == q + 1
      | none => true) then p :: intactRun good (some p.jseq) r else []
def State.intactPages (s : State) (bad : List (Nat × Bool)) : List JPage :=
  intactRun (fun p => s.goodCopy bad p false || s.goodCopy bad p true) none s.ftl.jpages

/-- The records that a loss of power takes with it: those of the pages that are not intact, and of the buffer. -/
def State.lostRecs (s : State) (bad : List (Nat × Bool)) : List JRec :=
  (s.ftl.jpages.drop (s.intactPages bad).length).flatMap (fun p => p.recs) ++ s.ftl.jbuf

/-- A key whose EPOCH record is lost stands at the epoch before it. -/
def State.rollEpochs (s : State) (rs : List JRec) : State :=
  rs.reverse.foldl (fun (s : State) r => match r with
    | .epoch n k e => { s with crypto := { s.crypto with epochs := s.crypto.epochs.set (fun _ => 0) (epochKey n k) (e - 1) } }
    | _ => s) s

/-- The base unit of each namespace at the beginning of some records: what their first NSCHG record says of it, else its present base. -/
def State.firstBases (s : State) (rs : List JRec) : List (Nat × Nat) :=
  let change := fun (n : Nat) => rs.findSome? fun r => match r with
    | .nschg m c b _ => if m = n then some (c, b) else none
    | _ => none
  (List.range 33).filterMap fun n => match change n with
    | some (0, _) => none
    | some (_, b) => some (n, b)
    | none => if n = 1 ∨ (s.ns? n).isSome = true then some (n, s.baseOf n) else none

/-- The blocks of units within a range of a namespace, by unit: unit, first and last block in it. -/
def unitSpans (base lba nlb : Nat) : List (Nat × Nat × Nat) :=
  (List.range ((lba + nlb + 15) / 16 - lba / 16)).map fun k =>
    let j := lba / 16 + k
    (base + j, max lba (16 * j) - 16 * j, min (lba + nlb) (16 * j + 16) - 16 * j)

/-- A unit unmapped. -/
def State.clearUnit (s : State) (u : Nat) : State := (s.unfine u).setCoarse u 0

/-- The tag of a page set, as it lies in flash. -/
def State.tagAt (s : State) (die unit : Nat) : UnitTag :=
  (s.media.flash.get (fun _ => { tag := UnitTag.ofBytes [], hdr := none, parity := [], words := [] }) (die * 2 ^ 22 + unit)).tag

/-- Whether a coarse unit lies in a page set whose tag marks a block as holding no data (R224). -/
def State.marks (s : State) (u i : Nat) : Bool :=
  let e := s.coarse u
  bit e 30 && !bit e 29 && !(s.tagAt (bits e 28 22) (bits e 21 0)).valid.testBit i

/-- An entry that R199 says is never written: FINE without MAPPED. -/
def corrupt (e : Word) : Bool := bit e 29 && !bit e 30

/-- One record applied (R214); none where the map does not hold a RELOC's OLD, or a fine location names a unit that is not fine. A RELOC from
fine to coarse is that of a demotion, whose OLD is one block's (log 93). -/
def State.applyRec (s : State) (bases : List (Nat × Nat)) (r : JRec) : Option (State × List (Nat × Nat)) :=
  let base := fun (n : Nat) => ((bases.find? fun b => b.1 == n).map fun b => b.2).getD 0
  let mapTo := fun (s : State) (n c lba loc : Nat) =>
    if loc < 2 ^ 39 then
      some ((unitSpans (base n) lba (c + 1)).foldl (fun (s : State) x =>
        (s.unfine x.1).setCoarse x.1 (coarseAt (loc / 2 ^ 22) (loc % 2 ^ 22))) s)
    else if (unitSpans (base n) lba (c + 1)).all fun x => bit (s.coarse x.1) 29 then
      some ((List.range (c + 1)).foldl (fun (s : State) i =>
        s.setFine (bits (s.coarse (base n + (lba + i) / 16)) 23 0) ((lba + i) % 16) (fineAt (loc - 2 ^ 39 + i))) s)
    else none
  match r with
  | .map n c _ lba loc => (mapTo s n c lba loc).map fun s => (s, bases)
  | .reloc n c _ lba loc old =>
    let u := base n + lba / 16
    let e := s.coarse u
    let held := if old < 2 ^ 39 then !bit e 29 && e == coarseAt (old / 2 ^ 22) (old % 2 ^ 22)
      else bit e 29 && (if loc < 2 ^ 39 then (List.range 16).any fun i => s.fineEntry (bits e 23 0) i == fineAt (old - 2 ^ 39)
        else s.fineEntry (bits e 23 0) (lba % 16) == fineAt (old - 2 ^ 39))
    if held then (mapTo s n c lba loc).map fun s => (s, bases) else none
  | .promote n lba g _ =>
    let u := base n + lba / 16
    if bit (s.coarse u) 29 then some (s, bases)
    else
      let entry := fun (i : Nat) => match s.placeOf u i with
        | .at d n j => fineAt (slotOf d n j)
        | .lost => 2 ^ 34
        | .zero => 0
      let t := (List.range 16).foldl (fun (t : State) i => t.setFine g i (entry i)) (s.drawGroup g)
      some (t.setCoarse u (BitVec.ofNat 32 (2 ^ 30 + 2 ^ 29 + g)), bases)
  | .dealloc n c lba =>
    some ((unitSpans (base n) lba (c + 1)).foldl (fun (s : State) x =>
      if x.2.2 - x.2.1 = 16 then s.clearUnit x.1
      else if bit (s.coarse x.1) 29 then
        (List.range (x.2.2 - x.2.1)).foldl (fun (s : State) i => s.setFine (bits (s.coarse x.1) 23 0) (x.2.1 + i) 0) s
      else s) s, bases)
  | .lost n c lba _ =>
    some ((List.range (c + 1)).foldl (fun (s : State) i =>
      let u := base n + (lba + i) / 16
      if bit (s.coarse u) 29 then s.setFine (bits (s.coarse u) 23 0) ((lba + i) % 16) (2 ^ 34)
      else if s.marks u ((lba + i) % 16) then s else s.setCoarse u 0x80000000) s, bases)
  | .opened d b m =>
    some (s.modBlk d b fun x => { x with state := 1, mode := if m = 0 then .pslc else if m = 1 then .tlc else .qlc, next := 0 }, bases)
  | .erase d b k => some (s.modBlk d b fun x => { x with erases := k, state := 3 }, bases)
  | .epoch n k e =>
    some ({ s with crypto := { s.crypto with epochs := s.crypto.epochs.set (fun _ => 0) (epochKey n k) e } }, bases)
  | .nschg n c b size =>
    let s := if c = 0 then s else (List.range size).foldl (fun (s : State) i => s.clearUnit (b + i)) s
    some (s, (n, b) :: bases.filter fun x => x.1 != n)
  | .pad | .staged _ _ _ _ | .ckpt _ _ => some (s, bases)

/-- The unit that a record speaks of first, if any. -/
def JRec.unit : JRec → Option (Nat × Nat)
  | .map n _ _ lba _ => some (n, lba / 16)
  | .reloc n _ _ lba _ _ => some (n, lba / 16)
  | .promote n lba _ _ => some (n, lba / 16)
  | .dealloc n _ lba => some (n, lba / 16)
  | .lost n _ lba _ => some (n, lba / 16)
  | _ => none

/-- Whether a record meets an entry that breaks R199. -/
def State.meetsCorrupt (s : State) (bases : List (Nat × Nat)) (r : JRec) : Bool :=
  r.unit.any fun u => (bases.find? fun b => b.1 == u.1).any fun b => corrupt (s.coarse (b.2 + u.2))

/-- The pages applied in order: a page with a record that cannot apply, or that meets an entry breaking R199, ends the replay before it. The
state, and the pages applied. -/
def State.applyPages (s : State) (bases : List (Nat × Nat)) : List JPage → State × List JPage
  | [] => (s, [])
  | p :: r =>
    match p.recs.foldl (fun (a : Option (State × List (Nat × Nat))) x => a.bind fun a =>
        if a.1.meetsCorrupt a.2 x then none else a.1.applyRec a.2 x) (some (s, bases)) with
    | none => (s, [])
    | some (s, b) =>
      let (s, l) := s.applyPages b r
      (s, p :: l)

/-! ## The tag scan (R219, R220) -/

/-- Whether a page set can be read, from its die, from its spare copy or from its stripe. -/
def State.readable (s : State) (die unit : Nat) : Bool :=
  let k := s.redirect die unit
  (s.flashAt k.1 k.2).isSome || ((s.stripeOf die unit).bind fun h => s.recover h.sseq h.ch []).isSome

/-- Every page set that is programmed and can be read, its die and unit with its tag, those of data, in WSEQ order; that of a failed die is
recovered with its stripe. -/
def State.dataTags (s : State) : List (Nat × UnitTag) :=
  sortedBy (fun a b => a.2.wseq == b.2.wseq || older a.2.wseq b.2.wseq) ((s.media.flash.filter fun p =>
      decide (p.2.tag.kind ≤ 1) && p.2.parity.isEmpty && s.readable (p.1 / 2 ^ 22) (p.1 % 2 ^ 22) &&
      (match p.2.hdr with
       | some h => h.role == 0 && !h.spare
       | none => true)).map fun p => (p.1, p.2.tag))

/-- Whether a tag is newer than what the map holds of a block. -/
def State.newer (s : State) (t : UnitTag) (n lba : Nat) : Bool :=
  match s.place n lba with
  | .at d u _ => older (s.tagAt d u).wseq t.wseq
  | _ => true

/-- Making a unit fine for a tag that names blocks of it: with a group of the pool that such a write draws from, of another when that is
empty (DESIGN CHOICE, log 103). -/
def State.promoteAny (s : State) (nsid u : Nat) : Bool × State :=
  let try_ := fun (a : Bool × State) (pool : Nat) => if a.1 then a else a.2.promote nsid u pool
  [if nsid = 1 then 1 else 0, 2, 0, 1].foldl try_ (false, s)

/-- What a tag names is mapped to its page set, unless the map holds newer data of it. -/
def State.mapTag (s : State) (x : Nat × UnitTag) : State :=
  let t := x.2
  let die := x.1 / 2 ^ 22
  let unit := x.1 % 2 ^ 22
  if s.capOf t.nsid = 0 then s
  else if t.kind = 0 then
    let u := s.unitOf t.nsid t.lba0
    if t.lba0 < s.capOf t.nsid ∧ ((List.range 16).all fun i => s.newer t t.nsid (t.lba0 + i)) = true then
      s.mapCoarse t.nsid u die unit t.epoch else s
  else (List.range 16).foldl (fun (s : State) i =>
    let lba := t.lbas.getD i 0
    if !t.valid.testBit i || decide (s.capOf t.nsid ≤ lba) || !s.newer t t.nsid lba then s
    else match s.promoteAny t.nsid (s.unitOf t.nsid lba) with
      | (true, s) => s.mapFine t.nsid lba (slotOf die unit i) t.epoch
      | (false, s) => s) s

/-- The locations that replayed MAP and RELOC records name: die × 2^22 + unit. -/
def namedUnits (rs : List JRec) : List Nat :=
  rs.filterMap fun r => match r with
    | .map _ _ _ _ loc => some (if loc < 2 ^ 39 then loc else (loc - 2 ^ 39) / 16)
    | .reloc _ _ _ _ loc _ => some (if loc < 2 ^ 39 then loc else (loc - 2 ^ 39) / 16)
    | _ => none

/-- The namespaces that records created, deleted or formatted. -/
def changedNs (rs : List JRec) : List Nat :=
  rs.filterMap fun r => match r with
    | .nschg n _ _ _ => some n
    | _ => none

/-- The scan of an uncontrolled start: tags of the opened blocks that no replayed record names. What a changed namespace held before its
present key is not its data. -/
def State.scanTags (s : State) (rs : List JRec) (open_ : List Nat) : List (Nat × UnitTag) :=
  let named := namedUnits rs
  let changed := changedNs rs
  s.dataTags.filter fun x =>
    open_.contains (x.1 / 2 ^ 22 * 4096 + x.1 % 2 ^ 22 / max 1 s.psBlk) && !named.contains x.1 &&
      (!changed.contains x.2.nsid || decide ((s.lastEpoch x.2.nsid).toNat ≤ x.2.epoch.toNat))

/-- Whether a tag holds a block. -/
def UnitTag.holds (t : UnitTag) (n lba : Nat) : Bool :=
  t.nsid == n && (if t.kind = 0 then decide (t.lba0 ≤ lba ∧ lba < t.lba0 + 16) else (List.range 16).any fun i =>
    t.valid.testBit i && t.lbas.getD i 0 == lba)

/-- Whether a record settles a block of a namespace after its STAGED record. -/
def JRec.settles (n lba : Nat) : JRec → Bool
  | .map m c _ l _ => m == n && decide (l ≤ lba ∧ lba ≤ l + c)
  | .reloc m c _ l _ _ => m == n && decide (l ≤ lba ∧ lba ≤ l + c)
  | .dealloc m c l => m == n && decide (l ≤ lba ∧ lba ≤ l + c)
  | .lost m c l _ => m == n && decide (l ≤ lba ∧ lba ≤ l + c)
  | .staged m c _ l => m == n && decide (l ≤ lba ∧ lba ≤ l + c)
  | .nschg m _ _ _ => m == n
  | _ => false

/-- The blocks whose staged data the loss has taken: of each STAGED record, those that no later record and no scanned tag covers. -/
def lostStaged (tags : List (Nat × UnitTag)) : List JRec → List (Nat × Nat)
  | [] => []
  | .staged n c w l :: r =>
    ((List.range (c + 1)).filterMap fun i =>
      if (r.any fun x => x.settles n (l + i)) || tags.any fun t => t.2.holds n (l + i) && decide (w.toNat ≤ t.2.wseq.toNat % 2 ^ 32)
      then none else some (n, l + i)) ++ lostStaged tags r
  | _ :: r => lostStaged tags r

/-- Staged writes are lost: LOST cause 2, and deferred write faults of their writers (R92, R219). -/
def State.loseStaged (s : State) (l : List (Nat × Nat)) : State :=
  (runsOf (sortedBy (fun a b => decide (a.1 < b.1 ∨ a.1 = b.1 ∧ a.2 ≤ b.2)) l)).foldl (fun (s : State) x =>
    (s.loseRun x.1 x.2.1 x.2.2 2).deferFault (s.writerOf x.1 x.2.1) x.1 x.2.1 x.2.2 2) s

/-! ## The block table after replay -/

/-- Whether any page set of a block is programmed, and how many are. -/
def State.setsIn (s : State) (die b : Nat) : Nat :=
  (s.media.flash.filter fun p => decide (p.1 / 2 ^ 22 = die ∧ p.1 % 2 ^ 22 / max 1 s.psBlk = b)).length

/-- The blocks that are open or were opened since the checkpoint: those that records name, those that the image holds open, and those that
hold programs of a lost interval; `old` is the block table before the loss. -/
def State.openBlocks (s : State) (old : SMap Blk) (rs : List JRec) : List Nat :=
  let named := rs.filterMap fun r => match r with
    | .opened d b _ => some (d * 4096 + b)
    | _ => none
  let open_ := (s.ftl.map.blocks.filter fun x => x.2.state == 1).map fun x => x.1
  let late := (old.filter fun x => (x.2.state == 1 || x.2.state == 2) && (let r := (s.blk (x.1 / 4096) (x.1 % 4096)).state
    r != 1 && r != 2)).map fun x => x.1
  (named ++ open_ ++ late).eraseDups

/-- One block of the table settled. A block whose last record is ERASE is erased again, under the count of that record (R213, R219), unless
it has been opened and programmed since by a record that is lost. A block that has been opened is closed, also when nothing whole is found in
it, and is erased under its next count before it is used again (R213, R217). A retired one stays retired. -/
def State.settleBlk (s : State) (old : SMap Blk) (key : Nat) : State :=
  let d := key / 4096
  let b := key % 4096
  let o := old.get (fun _ => .fresh) key
  let r := s.blk d b
  let n := s.setsIn d b
  if o.state = 5 then s.modBlk d b fun _ => { o with erases := max o.erases r.erases }
  else if (r.state = 3 ∨ r.state = 4) ∧ ((o.state ≠ 1 ∧ o.state ≠ 2) ∨ n = 0) then
    let s := (List.range s.psBlk).foldl (fun (s : State) k => s.setFlash d (b * s.psBlk + k) none) s
    s.modBlk d b fun x => { Blk.fresh with erases := x.erases }
  else if n = 0 ∧ r.state = 0 ∧ o.state ≠ 1 then s
  else s.modBlk d b fun x => { x with
    state := 2, next := s.psBlk, mode := o.mode, stream := o.stream, roff := o.roff, first := o.first, drawn := o.drawn }
def State.settleBlks (s : State) (old : SMap Blk) : State :=
  ((old.map fun x => x.1) ++ s.ftl.map.blocks.map fun x => x.1).eraseDups.foldl (fun (s : State) k => s.settleBlk old k) s

/-- The block table after a full tag scan (R220): a block with page sets is closed, at the highest count its tags show; one with none is free,
at one more than the highest count of any tag, so that no count repeats (R213; DESIGN CHOICE, log 103). -/
def State.scanBlks (s : State) (old : SMap Blk) : State :=
  let sets := fun (key : Nat) => s.media.flash.filter fun p =>
    decide (p.1 / 2 ^ 22 = key / 4096 ∧ p.1 % 2 ^ 22 / max 1 s.psBlk = key % 4096)
  let top := fun (l : SMap PageSet) => l.foldl (fun a p => max a p.2.tag.erases) 0
  let all := top s.media.flash + 1
  let keys := (old.map fun x => x.1) ++ s.media.flash.map fun p => p.1 / 2 ^ 22 * 4096 + p.1 % 2 ^ 22 / max 1 s.psBlk
  keys.eraseDups.foldl (fun (s : State) key =>
    let o := old.get (fun _ => Blk.fresh) key
    let l := sets key
    s.modBlk (key / 4096) (key % 4096) fun _ =>
      if o.state = 5 then { o with erases := max (top l) all }
      else if l.isEmpty then { Blk.fresh with erases := all }
      else { o with state := 2, next := s.psBlk, erases := top l, refresh := false }) s

/-! ## Stripe repair and the in-flight stripe journal (R258) -/

/-- A stripe whose P or Q was not programmed, with what is present of it. -/
def State.brokenStripe (s : State) (sseq : BitVec 64) (way : Nat) (members : List (Nat × Nat)) : Stripe :=
  let here := members.filter fun m => m.1 < 14 && (s.stripeOf (memberDie sseq way m.1) m.2).isSome
  let (p, q) := s.parityOf sseq way here
  { sseq := sseq, way := way, members := here, p := p, q := q, isOpen := true, evid := false, acc := 0 }

/-- Whether a closed stripe lacks its P or its Q on a die that works. -/
def State.lacksParity (s : State) (sseq : BitVec 64) (e : List (Nat × Nat) × Nat) : Bool :=
  [14, 15].any fun i =>
    let d := memberDie sseq e.2 i
    s.usable d && !(e.1.any fun m => memberIdx sseq m.1 == i && (s.stripeOf d m.2).isSome)

/-- Stripe repair: stripes with data members but no parity are closed with P and Q of the members that are present. -/
def State.repairStripes (s : State) : State :=
  let s := s.rederive
  let broken := s.red.stripes.map (fun x => s.brokenStripe x.sseq x.way x.members) ++
    (s.red.closed.filter fun e => s.lacksParity (BitVec.ofNat 64 e.1) e.2).map fun e =>
      let n := BitVec.ofNat 64 e.1
      s.brokenStripe n e.2.2 (e.2.1.map fun m => (memberIdx n m.1, m.2))
  let broken := broken.filter fun x => !x.members.isEmpty
  let s : State := { s with red := { s.red with stripes := broken.zipIdx.map fun x => { x.1 with acc := x.2 } } }
  broken.foldl (fun (s : State) x => ((s.closeStripe x.sseq).count 0x091 4 1).runPrograms) s

/-- Whether a copy of the in-flight stripe journal is readable: its die has not failed, and its page sets stand. -/
def State.sifjOk (s : State) : Bool × Bool :=
  let whole := fun (k : Bool) => s.red.sifjKept.all fun x => x.1 != k || (s.flashAt x.2.1 x.2.2).isSome
  (s.red.sifjA.isSome && s.usable s.red.sifjDieA && whole false, s.red.sifjB.isSome && s.usable s.red.sifjDieB && whole true)

/-- The in-flight stripe journal is recovered; true when its loss calls for the scan of stripe headers (kind 4). One copy that stands alone is
written again as a new pair. -/
def State.recoverSifj (s : State) (uncontrolled : Bool) : Bool × State :=
  let s : State := { s with red := { s.red with sifjRun := none, sifjSets := [] } }
  let (a, b) := s.sifjOk
  let copy := match s.red.sifjA, s.red.sifjB with
    | some x, some y => if a && (!b || decide (y.seq.toNat ≤ x.seq.toNat)) then some x else if b then some y else none
    | some x, none => if a then some x else none
    | none, some y => if b then some y else none
    | none, none => none
  let running := match copy with
    | some c => c.rbState == 1 || c.rbState == 2
    | none => false
  let never := s.red.sifjA.isNone && s.red.sifjB.isNone && s.red.sifjSeq == 0
  let s := match copy with
    | some c => { s with red := { s.red with
        rbState := if c.rbState = 0 ∨ c.rbState = 4 then 0 else 1
        cursor := c.cursor
        repl := if uncontrolled && running then s.red.repl else c.repl } }
    | none => s
  let s := if !never && a != b then (s.setReg RED_STAT (setBit (s.reg RED_STAT) 20 true)).raise 0x091 8 |>.writeSifj else s
  let scan := (!never && copy.isNone) || (uncontrolled && running)
  (scan, if scan then s.setReg RED_STAT (setBit (s.reg RED_STAT) 21 true) else s)

/-- The rebuild takes up its work in DEFERRED. -/
def State.resumeRebuild (s : State) : State :=
  let todo := s.rebuildList
  let st := if todo.isEmpty then 0 else 1
  let first := s.red.failed.head?
  let second := (s.red.failed.drop 1).head?
  let s : State := { s with red := { s.red with
    todo := todo, rbState := st, rbAfter := s.ns, cursor := if st = 0 then 0 else s.red.cursor,
    die1 := if st = 0 then none else first, die2 := if st = 0 then none else second } }
  s.syncRed

/-! ## The evidence namespace (R482) -/

/-- The append point is the block after the highest durable block; the blocks below it that are not durable are to be filled with zeros,
in appends of at most one unit. -/
def State.recoverEvid (s : State) : State :=
  let e := s.host.evid
  let units := s.ftl.map.coarse.filter fun x => decide (e.base ≤ x.1 ∧ x.1 < e.base + (e.cap + 15) / 16) && e.cap != 0
  let has := fun (lba : Nat) => match s.place 1 lba with
    | .zero => false
    | _ => true
  let top := units.foldl (fun a x =>
    (List.range 16).foldl (fun a i => let l := (x.1 - e.base) * 16 + i
      if has l then max a (l + 1) else a) a) 0
  let holes := (List.range ((top + 15) / 16)).flatMap fun k =>
    runsOf (((List.range 16).map (16 * k + ·)).filterMap fun l => if l < top ∧ has l = false then some (1, l) else none)
  let open_ : List AppendRec := holes.map fun h => { lba := h.2.1, nlb := h.2.2, who := none, zero := false, seq := 0, die := none }
  ({ s with host := { s.host with evid := { e with append := top, open_ := open_, fieldCnt := 0, hostCnt := 0 } } } : State).republish

/-! ## The start of flash translation -/

/-- Members whose stripe header fails its CRC count as absent (R258). -/
def State.dropHeaders (s : State) (bad : List Nat) : State :=
  { s with media := { s.media with flash := s.media.flash.map fun p => if bad.contains p.1 then (p.1, { p.2 with hdr := none }) else p } }

/-- The kind of start that the newest intact page gives. -/
def kindOfPage : Option JPage → Nat
  | some p => if p.shutdown && p.final then 0 else if p.flush && p.final then 1 else 3
  | none => 3

/-- The checkpoint that a start loads: the newest one of which every page set is readable, by P and Q where need be. -/
def State.startCkpt (s : State) (okA okB : Bool) : Option Ckpt :=
  let whole := fun (c : Ckpt) => c.good && c.sets.all fun k => s.readable k.1 k.2
  match s.ftl.ckptA.filter (fun c => whole c && okA), s.ftl.ckptB.filter (fun c => whole c && okB) with
  | some a, some b => if a.j0.toNat < b.j0.toNat then some b else some a
  | some a, none => some a
  | none, b => b

/-- Loading the checkpoint and replaying the journal; `lost` are staged blocks that an unreadable retained area has taken. The kind of
R441 with the state (R219, R220, R258). -/
def State.replay (s : State) (okA okB : Bool) (bad : List (Nat × Bool)) (lost : List (Nat × Nat)) : Nat × State :=
  let old := s.ftl.map.blocks
  let pages := s.intactPages bad
  let s := s.rollEpochs (s.lostRecs bad)
  let s : State := { s with ftl := { s.ftl with
    jpages := pages.map fun p => { p with copyA := true, copyB := true, durable := true }
    jseq := match pages.getLast? with
      | some p => p.jseq + 1
      | none => s.ftl.jseq
    jbuf := [] } }
  match s.startCkpt okA okB with
  | none =>
    let s : State := { s with ftl := { s.ftl with map := .empty } }
    let s := s.dataTags.foldl State.mapTag (s.scanBlks old)
    let s := s.loseStaged (lost.filter fun b => match s.place b.1 b.2 with
      | .zero => true
      | _ => false)
    (5, ((s.recoverSifj true).2).repairStripes)
  | some c =>
    let tail := pages.filter fun p => decide (c.j0.toNat ≤ p.jseq.toNat)
    let (s, done) := ({ s with ftl := { s.ftl with map := c.image } } : State).applyPages
      (s.firstBases (tail.flatMap fun p => p.recs)) tail
    let rs := done.flatMap fun p => p.recs
    let kind := if done.length = tail.length ∧ lost.isEmpty then kindOfPage pages.getLast? else 3
    if kind = 3 then
      let open_ := s.openBlocks old rs
      let s := s.settleBlks old
      let tags := s.scanTags rs open_
      let s := tags.foldl State.mapTag s
      let s := s.loseStaged ((lostStaged tags rs ++ lost.filter fun b => !(tags.any fun t => t.2.holds b.1 b.2)).eraseDups)
      let (scan, s) := s.recoverSifj true
      (if scan then 4 else 3, s.repairStripes)
    else
      let s := s.settleBlks old
      let (scan, s) := s.recoverSifj false
      (if scan then 4 else kind, if scan then s.repairStripes else s)

end Sys2Proof.Machine
end

