-- ==== Sys2Proof/Machine/Squall.lean ====
section
/-!
DEFINITION. Squall (23): locking and unlocking (R461, R462, R466), forced sources (R464, R465, R484), and what the SQL page reads.
-/

namespace Sys2Proof.Machine

/-- The pages that hold a Squall area (R463). -/
def squallPages : List Nat := pfPages.filter fun p => (regDef p 0xE00).isSome

/-- Every control of every page at 0, and no force armed. -/
def State.clearControls (s : State) : State :=
  squallPages.foldl (fun (s : State) p =>
    ((((((s.setReg (SQ_DELAY p) 0).setReg (SQ_BP p) 0).setReg (SQ_SCALE_R p) 0).setReg (SQ_SCALE_P p) 0).setReg (SQ_SCALE_E p) 0).setReg
      (SQ_ARMED p) 0)) s

/-- Everything a delay or a scale holds is let out. -/
def State.releaseAll (s : State) : State :=
  let held := s.squall.delayed
  let dies := s.squall.scaled
  let s : State := { s with squall := { delayed := [], scaled := [] } }
  let s := held.foldl (fun (s : State) x => s.release x.2.2) s
  dies.foldl (fun (s : State) x => s.endOp x.1 x.2.2) s

/-- Locking (R462). -/
def State.lockSquall (s : State) : State :=
  if !s.regBit SQL_STAT 0 then s
  else
    let s := s.clearControls.releaseAll
    (s.setReg SQL_STAT 0).syncSquall.raise 0x006 4

/-- The unlock by a master (R461). -/
def State.unlockSquall (s : State) (pf : Bool) : State :=
  ((s.setReg SQL_STAT (BitVec.ofNat 32 (1 + 4 * pf.toNat))).count 0x006 2 1).raise 0x006 3

/-- Whether a lock or an unlock by a master is refused (R466). -/
def State.lockRefused (s : State) (m : Master) : Bool := m == .pf && s.squallHolder == some .sideband
def State.unlockRefused (s : State) (m : Master) : Bool :=
  s.squallHolder.isSome || m == .warden || (m == .pf && !Config.fuses.getLsbD 1)

/-- SQL_CTRL: LOCK goes before UNLOCK. -/
def sqlCond (m : Master) (v : Word) (s : State) : Option State :=
  if bit v 1 then (if s.lockRefused m then some (s.refuse 0x006 0x11 m 0x80 v) else none)
  else if bit v 0 && s.unlockRefused m then some (s.refuse 0x006 0x10 m 0x80 v)
  else none
def sqlEffect (m : Master) (v : Word) (s : State) : State :=
  if bit v 1 then s.lockSquall else if bit v 0 then s.unlockSquall (m == .pf) else s

/-- UNLOCK and LOCK of SQL_CTRL. -/
def execUnlock (m : Master) (v : Word) (s : State) : Answer :=
  let v := setBits v 1 0 1
  .next (s.write m 0x006 0x80 32 v (sqlCond m v) fun _ => sqlEffect m v).1
def execSqlLock (m : Master) (v : Word) (s : State) : Answer :=
  let v := setBit v 1 true
  .next (s.write m 0x006 0x80 32 v (sqlCond m v) fun _ => sqlEffect m v).1

/-- A force of source `k` of a page: on KEY it acts at once on the slot that KEY_SSEL selects; elsewhere it waits for its target. -/
def State.force (s : State) (page k : Nat) : State :=
  let s := (s.count 0x006 3 1).setReg SQL_STAT (setBit (s.reg SQL_STAT) 3 true)
  if page = keyPage then
    let n := s.ksel
    if k = 3 then s.modKey n fun x => { x with use := BitVec.ofNat 40 x.limit } else s.keyFault n
  else s.setReg (SQ_ARMED page) (setBit (s.reg (SQ_ARMED page)) k true)

/-- A write of SQ_FORCE (R465): bits that may not be forced are ignored and reported. -/
def forceEffect (m : Master) (page : Nat) (v : Word) (s : State) : State :=
  let mask := s.reg (SQ_FORCEABLE page)
  let s := if v &&& ~~~mask &&& 0xFFFFFFF8 ≠ 0 ∧ v &&& 7 = 0 then s.accessFail page 1 0x02 m 0xE20 v else s
  let s := (List.range 32).foldl (fun (s : State) k => if bit (v &&& mask) k then s.force page k else s) s
  if s.pageOn 0x020 then s.syncSquall else s

/-- SQ_FORCE. -/
def execSqForce (m : Master) (page : Nat) (v : Word) (s : State) : Answer :=
  if squallPages.contains page then .next (s.write m page 0xE20 32 v noCond fun _ => forceEffect m page v).1 else .next s

/-- The conditions of the other registers of the Squall area (R465). -/
def controlCond (m : Master) (page off : Nat) (v : Word) (s : State) : Option State :=
  let bad := if off = 0xE04 then decide (bits v 15 8 < bits v 7 0)
    else (off == 0xE08 || off == 0xE0C || off == 0xE10) && decide (1 ≤ bits v 11 0 ∧ bits v 11 0 ≤ 255)
  if bad then some (s.accessFail page 1 0x02 m off v) else none

/-- A control takes its value, and the promise follows (R467). -/
def controlEffect (page off : Nat) (v : Word) (d : RegDef) (s : State) : State :=
  let s := s.store (page * 0x1000 + off) v d
  if s.pageOn 0x020 then s.syncSquall else s

/-- DELAYED_RESULT_RELEASE: the oldest result whose time has come is let out. -/
def execDelayedResultRelease (s : State) : Answer :=
  match s.squall.delayed.find? fun x => decide (x.2.1 ≤ s.ns) with
  | none => .next s
  | some x => .next (({ s with squall := { s.squall with delayed := s.squall.delayed.erase x } } : State).release x.2.2)

/-- SQL_STAT and SQL_ACT as they read. -/
def sqlStat (s : State) : Word :=
  setBit (setBits (s.reg SQL_STAT) 31 16 s.sqlPages) 1 s.sqlAny
def sqlAct (s : State) (k : Nat) : Word :=
  BitVec.ofNat 32 ((List.range 32).foldl (fun a j =>
    if pfPages.contains (32 * k + j) && s.sqlActive (32 * k + j) then a + 2 ^ j else a) 0)

end Sys2Proof.Machine
end

