-- ==== Sys2Proof/Machine/Start.lean ====
section
/-!
DEFINITION. Starts and losses (20, 21): what turns off with the main side, the slot of a start (R435, R436), the main start (R439 to R441),
the main-side restart (R442), the staging flush (R218), and the steps that end a start.
-/

namespace Sys2Proof.Machine

/-! ## The main side turns off (R432) -/

/-- Whether a page belongs to a main-side domain: every page but those of the always-on domain, SBM, and cell 40 (R422). -/
def mainPage (p : Nat) : Bool := decide (7 < p) && p != 0xF8 && p != 0x68

/-- Registers, latches and error patterns of the main-side pages are gone; of DRAM they stay if it is kept. -/
def State.dropMain (s : State) (keepDram : Bool) : State :=
  let dram := fun (k : Nat) => keepDram && decide (0xE1 ≤ k / 2 ^ 32 ∧ k / 2 ^ 32 ≤ 0xE4) && k / 2 ^ 28 % 16 == 7
  { s with
    pages := { s.pages with
      regs := s.pages.regs.filter fun p => !mainPage (p.1 / 4096)
      latches := s.pages.latches.filter fun l => !mainPage l.page }
    upsets := s.upsets.filter fun p => !mainPage (p.1 / 2 ^ 32) || dram p.1 }

/-- The host side as a start finds it: controllers and commands are gone; logs of faults and errors, namespaces, evidence, slots stay. -/
def HostSide.restart (h : HostSide) : HostSide :=
  { h with
    ctrls := HostSide.reset.ctrls
    logs := h.logs.map fun (l : FnLogs) => { FnLogs.reset with
      dwf := l.dwf, dwfLost := l.dwfLost, dwfNext := l.dwfNext, err := l.err, errCnt := l.errCnt, selfTst := l.selfTst }
    cmds := []
    fw := { h.fw with down := [], commit := none, self := none }
    link := { HostSide.reset.link with perst := h.link.perst } }

/-- Flash translation without DRAM: staging, the journal buffer and what is not in flash are gone (R219, R419). -/
def State.loseFtl (s : State) : State :=
  let s := s.rollEpochs (s.lostRecs [])
  { s with ftl := { s.ftl with
      rewrites := [], lastWr := [], staging := [], jbuf := [], jpages := s.intactPages [], ckptRun := none, relocs := [], demote := [] } }

/-- Flash translation with DRAM in self-refresh: staging and the journal buffer wait for the drain of R442. -/
def State.keepFtl (s : State) : State :=
  { s with ftl := { s.ftl with
      rewrites := [], lastWr := [], staging := s.ftl.staging.map fun (x : Staged) => { x with issued := false }, relocs := [], demote := []
      jpages := s.ftl.jpages.map fun (p : JPage) => { p with
        atA := if p.copyA then p.atA else none, atB := if p.copyB then p.atB else none } } }

/-- The DRAM controller's queued writes are done before self-refresh (R442 step 3). -/
def State.finishDram (s : State) : State :=
  (List.range 4).foldl (fun (s : State) ch =>
    (s.dramCh ch).queue.foldl (fun (s : State) r => match r.write with
      | some (l, p) => s.dramWrite r.n l p
      | none => s) s) s

/-- Every main-side domain turns off or is reset; `keepDram` keeps DRAM, with staging, the journal buffer and the stripe accumulators, the
program slot images, and what lies in flash and in the boot NOR stays in any case. -/
def State.mainDown (s : State) (keepDram : Bool) : State :=
  let s := (s.lockSquall.abandon fun _ => true).frontDown
  let s := s.host.cmds.foldl (fun (s : State) c => s.forget c.ref) s
  let s := if keepDram then s.finishDram.keepFtl else s.loseFtl
  let s : State := { (s.dropMain keepDram) with
    host := s.host.restart
    adm := .reset
    prog := { slots := if keepDram then s.prog.slots else [], active := [], sets := [], execs := [], held := [] }
    cells := (List.range 41).map fun k => if k = 40 then s.cell 40 else .reset
    fabric := { roles := (List.range 41).map fun k => if k = 40 then s.role 40 else ({ role := 0, fn := 0, slot := 0, allow := 0 } : Role), reassign := [], pause := none,
                codec := List.replicate 4 [] }
    red := { s.red with rbReads := [] }
    media := { Media.reset with flash := s.media.flash, nextId := s.media.nextId }
    search := .reset
    crypto := { Crypto.reset with epochs := s.crypto.epochs }
    dram := if keepDram then { Dram.reset with mem := s.dram.mem, pois := s.dram.pois } else .reset
    vfm := .reset
    frl := .reset
    sb := { s.sb with state6 := false } }
  { s with power := { s.power with rising := none, entering := none } }

/-! ## The slot of a start (R435, R436) -/

/-- Whether every check of a slot's image holds. -/
def State.slotSound (s : State) (f : StartFacts) (n : Nat) : Bool := (s.image n).good && (if n = 2 then f.sealB else f.sealA)

/-- An activation that a loss cut short is taken back: PREV is the slot of the start (R435). -/
def State.settleRec (s : State) : State :=
  if s.slotRec.flags.testBit 0 then s.putRec fun r => { r with next := r.prev, flags := r.flags &&& 2 } else s

/-- The switch to the other slot (R436). -/
def State.switchSlot (s : State) : State :=
  let s := s.putRec fun r => { r with next := 3 - r.next, tries := 0, flags := r.flags ||| 2 }
  (s.raise 0x003 5).count 0x003 4 1

/-- The switch within a start; within a restart that counts as unavailable it opens an interval (R457). -/
def State.fallBack (s : State) : State :=
  let s := s.switchSlot
  if s.events.excluded then s else s.openSpan 3 none

/-- The slot that a start uses; none when the checks of both fail. `failed` says that the other slot has just failed its check. -/
def State.trySlot (s : State) (f : StartFacts) (failed : Bool) : Nat → Option Nat × State
  | 0 => (none, s)
  | k + 1 =>
    let s := s.putRec fun r => { r with tries := r.tries + 1 }
    let n := s.slotRec.next
    let sound := s.slotSound f n
    if sound && decide (s.slotRec.tries < 3) then (some n, s)
    else if !sound && failed then (none, s)
    else s.fallBack.trySlot f (!sound) k
def State.pickSlot (s : State) (f : StartFacts) : Option Nat × State := s.settleRec.trySlot f false 4

/-- The warden stays in ROM (R437). -/
def State.toRom (s : State) : State := { s with start := { s.start with phase := .rom } }

/-! ## Bringing the main side up (R421, R439) -/

/-- Clocks: the fast PLLs and the PCIe PHY's are locked, and their domains run (R424, R425). -/
def State.clocksOn (s : State) : State :=
  let s := s.setReg CLK_STAT (s.reg CLK_STAT ||| 0x7F)
  (s.setReg CLK_RUN0 (s.reg CLK_RUN0 ||| 0xFFFFFFF9)).setReg CLK_RUN1 (s.reg CLK_RUN1 ||| 0xFF)

/-- The service routing of R450: destination and target of a page. -/
def serviceRoute (p : Nat) : Nat × Nat :=
  if p ≤ 7 ∨ p = 0xF8 ∨ p = 0x70 ∨ 0x40 ≤ p ∧ p ≤ 0x67 then (2, 0)
  else if p = 0x68 then (3, 0)
  else if p = 0x18 then (0, 0)
  else if p = 0x10 ∨ p = 0x11 ∨ p = 0x12 ∨ p = 0x13 ∨ p = 0x20 ∨ p = 0x21 then (1, 0)
  else if 0x80 ≤ p ∧ p ≤ 0x90 then (1, 4)
  else if 0xC0 ≤ p ∧ p ≤ 0xD7 then (1, 6)
  else if p = 0x91 then (1, 12)
  else if p = 0xF0 then (1, 14)
  else (1, 15)

/-- Vendor firmware routes a page and enables every source of it. -/
def State.routePage (s : State) (p : Nat) : State :=
  let (d, t) := serviceRoute p
  let s := (s.setReg (EV_ROUTE p) (BitVec.ofNat 32 (d + 4 * t))).setReg (EV_ENABLE p) (match regDef p 0x24 with
    | some r => r.rw
    | none => 0)
  relevel p s

/-- DRAM is initialised or leaves self-refresh with the codes of the sampled band; its contents are filled only after a loss of power
(R342, R361). -/
def State.dramUp (s : State) (keepDram : Bool) (t : Int) : State :=
  let b := bandStep 8 0 t
  let s := s.setReg DRC_STAT (setBit (setBits (setBits (setBits 0 23 16 (t + 64).toNat) 10 8 b) 6 4 b) 2 (decide (85 < t)))
  let s := (List.range 4).foldl (fun (s : State) ch => s.modDramCh ch fun c => { c with
    codes := (List.range 10).foldl (fun m k => m.set (fun _ => 0) k (Config.delayCode b ch (k / 2) (k % 2))) c.codes }) s
  let s : State := { s with dram := { s.dram with lastBo := s.pages.dtime, margin := false } }
  if keepDram then
    let s := (List.range 8).foldl (fun (s : State) k => s.setReg (DRC_FILL k) (if k = 7 then 0xFFFF else 0xFFFFFFFF)) s
    s.setReg DRC_FILLSTAT 0x1EF
  else s

/-- A die constant, from the characterisation entry: a read time with 1.0 µs, a program time with 1.0 µs for each page set it covers (R64, R266);
none for a constant of the firmware's. -/
def dieWord (k : Nat) : Option Word :=
  if 16 ≤ k ∧ k ≤ 18 then some (BitVec.ofNat 32 (Config.dieTime (k - 16) 1 + 1000))
  else if k = 19 then some (BitVec.ofNat 32 (Config.dieTime 0 2 + 1000))
  else if k = 20 then some (BitVec.ofNat 32 (Config.dieTime 1 2 + 3000))
  else if k = 21 then some (BitVec.ofNat 32 (Config.dieTime 2 2 + 4000))
  else if 22 ≤ k ∧ k ≤ 26 ∨ k = 31 then some (Config.dieConst k) else none

/-- The model constants are loaded, those of the die from its characterisation entry and the others from the image's segment `cs`, and locked;
the buckets are full (R49, R64). -/
def State.loadConsts (s : State) (cs : List Word) : State :=
  let put := fun (m : SMap Word) (x : Nat × Word) => m.set (fun k => BitVec.ofNat 32 (constTable.getD k 0)) x.1 x.2
  let s : State := { s with adm := { s.adm with
    consts := ((List.range 45).filterMap fun k => match dieWord k with
      | some w => some (k, w)
      | none => (cs[k]?).map fun w => (k, w)).foldl put []
    buckets := (List.range 17).map fun f => (s.evSlice f).depth
    refilled := s.pages.dtime } }
  s.setReg ADM_CTRL (setBit (s.reg ADM_CTRL) 0 true)

/-- The root is installed from the boot NOR and locked (R314, R439). -/
def State.lockRoot (s : State) : State := s.reinstallRoot.setReg KEY_CTRL (setBit (s.reg KEY_CTRL) 0 true)

/-- The service masks of R347, and the ways that the health log disables (R349). -/
def State.cacheUp (s : State) : State :=
  let ids := (List.range 12).map (fun i => (i, (0x000F : BitVec 16))) ++
    ([12, 13, 14, 15, 40, 57, 58, 59, 60, 61, 62].map fun i => (i, (0x00F0 : BitVec 16)))
  let s := (List.range 4).foldl (fun (s : State) k =>
    s.modSlice k fun sl => { sl with masks := ids.foldl (fun m x => m.set (fun _ => 0xFFFF) x.1 x.2) sl.masks }) s
  (List.range 4).foldl (fun (s : State) k =>
    wdisEffect k (BitVec.ofNat 32 ((s.start.nor.ways.filter fun w => w.1 == k).foldl (fun a w => a ||| 2 ^ w.2) 0)) s) s.remask

/-- The entry of the default role table for a cell (R191). -/
def defaultRole (c slot : Nat) : Role :=
  { role := if c ≤ 3 then 1 else if c ≤ 11 then 2 else if c ≤ 13 then 3 else if c = 14 then 4 else if c = 15 then 5 else if c ≤ 39 then 6 else 7
    fn := 0, slot := slot, allow := if 16 ≤ c ∧ c ≤ 39 then 0xD8 else 0xFF }

/-- The image's role table is applied, and every cell in a role is loaded and released; an entry that R192 refuses takes its default. -/
def State.rolesUp (s : State) (rs : List Role) (slot : Nat) : State :=
  let entry := fun (c : Nat) => match rs[c]? with
    | some r => if s.badRole c r || decide (255 < r.allow) || r.fn != 0 then defaultRole c (slot - 1) else { r with slot := slot - 1 }
    | none => defaultRole c (slot - 1)
  let s : State := { s with fabric := { s.fabric with roles := (List.range 41).map entry } }
  let s := s.setRole 40 (entry 40)
  (List.finRange 40).foldl (fun (s : State) c =>
    let d : CellId := c.castLE (by decide)
    if (entry c.val).role = 0 then s else (s.loadCell d (entry c.val)).unhold d) s

/-- Vendor firmware writes the way maps and the microcode and sets RUN in every channel (R261, R262, R280). -/
def State.channelsUp (s : State) : State :=
  let way := fun (ch k : Nat) => if s.media.ways ≤ k then 0
    else s.media.wayMap.getD k 0 % 64 + if (s.dieSt (8 * ch + k)).attached then 128 else 0
  let map := fun (ch k : Nat) => BitVec.ofNat 32 ((List.range 4).foldr (fun j n => 256 * n + way ch (4 * k + j)) 0)
  (List.range 16).foldl (fun (s : State) ch =>
    (((s.setReg (MCH_WAYMAP ch 0) (map ch 0)).setReg (MCH_WAYMAP ch 1) (map ch 1)).reloadSeq ch).modChan ch
      fun c => { c with parked := false }) s

/-- The dies attach (R261, R262): with fewer than four ways none does; a die missing below W is declared failed (R252), and one found at a
way of W or above stays unattached. -/
def State.attachDies (s : State) (f : StartFacts) : State :=
  let w := if f.ways < 4 then 0 else min 8 f.ways
  let here := fun (d : Nat) => decide (d % 8 < w) && f.attached.contains d
  let s : State := { s with media := { s.media with
    ways := w, geom := if w = 0 then none else some f.geom, wayMap := f.wayMap, micro := f.micro, quiet := [0, 1], rot := none, lastRot := s.pages.dtime
    bare := decide (w = 0)
    dies := (List.range 128).map fun d => { DieSt.none with attached := here d } } }
  let missing := (List.range 128).filter fun d => decide (d % 8 < w) && !here d
  let new := missing.filter fun d => !s.red.failed.contains d
  let s : State := { s with
    red := { s.red with failed := s.red.failed ++ new }
    start := { s.start with nor := { s.start.nor with failed := s.start.nor.failed ++ new } } }
  let s := s.red.failed.foldl (fun (s : State) d =>
    (s.setReg (RED_FAILMAP (d / 32)) (setBit (s.reg (RED_FAILMAP (d / 32))) (d % 32) true)).setField (MCH_DIE (d / 8) (d % 8)) 9 9 1) s
  let s := new.foldl (fun (s : State) _ => s.raise 0x091 3) s
  if missing.isEmpty && w != 0 && f.attached.all here then s else s.raise 0x090 3

/-- The retained areas are drained (R442 step 4), the journal pages that lacked a copy being programmed again. -/
def State.drainRetained (s : State) : State :=
  s.rederive.placeCopies.repairStripes.fillStripes.flushOut true false

/-- Zeros in every hole that the start finds below the append point of NSID 1, on the quiet dies (R482). -/
def State.fillHoles (s : State) : State :=
  s.host.evid.open_.foldl (fun (s : State) x =>
    match (List.range 128).find? fun d => s.usable d && s.quiet d && (s.stripeAt d true).isSome with
    | some d => (s.zeroFill x d).runPrograms.settle
    | none => s) s

/-- Work on blocks that a loss or a restart has cut short is presented again: a retired block that still holds data, and one to be refreshed
(R232, R233). -/
def State.resumeCare (s : State) : State :=
  let again := s.ftl.map.blocks.filterMap fun x =>
    let k : Nat := if x.2.state = 5 ∧ (s.validIn (x.1 / 4096) (x.1 % 4096)).isEmpty = false then 4
      else if x.2.state = 2 ∧ x.2.refresh = true then 3 else 0
    if k = 0 then none else some ({ kind := k, die := x.1 / 4096, block := x.1 % 4096, cls := 3, after := 0 } : House)
  { s with adm := { s.adm with house := s.adm.house ++ again } }

/-- Flash translation, redundancy and evidence come up from flash; the kind of the start with the state (R219, R258, R441). -/
def State.mediaUp (s : State) (f : StartFacts) (restart : Bool) : Nat × State :=
  let lost := if restart && !f.retained then (s.ftl.staging.filter fun x => !x.evid).map fun x => (x.nsid, x.lba) else []
  let s : State := if restart && f.retained then s.drainRetained
    else if restart then s.loseFtl else s
  let (k, s) := (s.dropHeaders f.badHdrs).replay f.ckptA f.ckptB f.badCopies lost
  let s := s.rederive
  let s := (s.resumeRebuild.fillStripes.recoverEvid).fillHoles.runPrograms.settle.resumeCare.updateLife
  let s : State := { s with ftl := { s.ftl with ckptT := s.pages.dtime } }
  (if !restart then k else if !f.retained then max 3 k else if k < 3 then 2 else k, s)

/-- The log of the last 64 starts in the boot NOR: slot and kind (R434). -/
def State.logStart (s : State) (slot kind : Nat) : State :=
  { s with start := { s.start with nor := { s.start.nor with starts := (s.start.nor.starts ++ [(slot, kind)]).drop (s.start.nor.starts.length + 1 - 64) } } }

/-! ## The end of a start (R440, R441) -/

/-- The link leaves L0 (R98). -/
def State.linkDown (s : State) : State :=
  if !s.host.link.up then s
  else
    let l := { s.host.link with up := false, pm := 0, speed := 0, width := 0 }
    ((({ s with host := { s.host with link := l } } : State).raise 0x010 5).count 0x010 6 1)

/-- Steps 2 and 3 of a controller-side reset (R443): the endpoint and every controller are reset, the shares of the VFs and the slices of
functions 1 to 15 released, transfers from the host that had started fail with the link (R84), cells 0 to 3 reassigned in place, the constants and the root locked again; Squall is locked when the PF
holds it (R462). -/
def State.ctrlSide (s : State) : State :=
  let s := s.linkDown
  let s := ((List.finRange 16).filter fun f => s.fnExists f.val).foldl (fun (s : State) f =>
    let s := if (s.ctrl f).resetting then s else s.beginReset f (s.ctrl f).cc
    (s.clearCtrl f).modCtrl f fun c => Ctrl.reset c.pool) s
  let s := (s.host.cmds.filter Cmd.awaits).foldl (fun (s : State) c => s.failTransfer c.ref false) s
  let s := s.clearVfEnable
  let s := (List.range 15).foldl (fun (s : State) k =>
    ({ s with adm := { s.adm with slices := s.adm.slices.set (k + 1) ⟨0, 0⟩ } } : State).modBucket (k + 1) fun _ => ⟨0, 0⟩) s
  let s := [(0 : CellId), 1, 2, 3].foldl (fun (s : State) c => (s.rewriteCell c (s.role c)).unhold c) s
  let s := s.setReg ADM_CTRL (setBit (s.reg ADM_CTRL) 0 true)
  let s := s.setReg KEY_CTRL (setBit (s.reg KEY_CTRL) 0 true)
  let s := if s.squallHolder = some .pf then s.lockSquall else s
  { s with start := { s.start with pendCtl := false } }

/-- PWR_STAT.STATE changes: EV_PWR_STATE; only Gale and Breeze are accountable (R431, R456). -/
def State.setPower (s : State) (n : Nat) : State :=
  let old := s.field? PWR_STAT 2 0
  let s := if 2 ≤ n ∨ 2 ≤ old then s.breakMs else s
  if old = n then s else ((s.setField PWR_STAT 2 0 n).logWarden 0x001 (BitVec.ofNat 32 n)).raise 0x001 3

/-- Milliseconds since the main start. -/
def State.sinceStart (s : State) : Word := BitVec.ofNat 32 ((s.pages.dtime - s.start.began).toNat / 1000)

/-- Evidential-ready: Forecast admits class 0, the Front link is up and cell 14 has sent ACK with RESUME (R440). -/
def State.tryEvReady (s : State) : State :=
  if s.start.phase ≠ .starting ∨ !s.regBit FRL_STAT 0 ∨ !s.events.alarms.all (· == 4) then s
  else
    let s : State := { s with start := { s.start with phase := .evReady } }
    let s := ((s.setReg RST_STAT (setBit (s.reg RST_STAT) 0 true)).setReg RST_TEVID s.sinceStart).raise 0x003 3
    let s := s.putRec fun r => { r with tries := 0, active := s.start.slot }
    let s := s.setReg FUS_FWREL (s.image s.start.slot).release
    let s := if s.field? PWR_STAT 2 0 = 5 then s.setPower 0 else s
    let s := (s.closeSpan 1).closeSpan 3
    let s : State := { s with events := { s.events with excluded := false } }
    if s.start.pendCtl then s.ctrlSide else s

/-- The precondition of a deep state (R417): PERST# asserted, or for Lull the PF in D3hot with every controller disabled. -/
def State.deepAllowed (s : State) (target : Nat) : Bool :=
  s.host.link.perst || (target == 2 && (s.ctrl 0).d3hot && s.host.ctrls.all fun c => !bit c.cc 0)

/-- An admitted request for Lull (2) or Calm (3): entry begins, or waits until an activation and a start have ended (R417, R444). -/
def State.askDeep (s : State) (target : Nat) : State :=
  if s.regBit ADM_STAT 10 ∨ s.start.phase ≠ .full then { s with power := { s.power with calmReq := target } }
  else ({ s with power := { s.power with entering := some (target, 0), calmReq := 0 } } : State).setPower 4

/-- A request that has waited: it is made again. -/
def State.askWaiting (s : State) : State :=
  let t := s.power.calmReq
  if t = 0 ∨ s.start.phase ≠ .full ∨ s.regBit ADM_STAT 10 = true ∨ 2 ≤ s.field? PWR_STAT 2 0 then s
  else if s.deepAllowed t then s.askDeep t else { s with power := { s.power with calmReq := 0 } }

/-- Full service: the fill and the search engine's INIT have ended (R302, R361, R421). -/
def State.tryFull (s : State) : State :=
  if s.start.phase ≠ .evReady ∨ !s.regBit DRC_FILLSTAT 8 ∨ s.regBit SRC_STAT 0 then s
  else
    let s : State := { s with start := { s.start with phase := .full } }
    let s : State := { s with power := { s.power with deepT := some s.pages.dtime } }
    (((s.setReg RST_STAT (setBit (s.reg RST_STAT) 1 true)).setReg RST_TFULL s.sinceStart).raise 0x003 4).askWaiting

/-- FRONT_LINK_UP. -/
def execFrontLinkUp (s : State) : Answer := .next s.frontLink.tryEvReady.tryFull

/-- SRC_READY: INIT or RELOAD ends. -/
def execSrcReady (s : State) : Answer := .next s.endWork.tryFull

/-- REGION_FILL: the next region of DRAM is filled; stream slots that waited for it go on. -/
def execRegionFill (s : State) : Answer := .next s.fillRegion.resumeSlots.tryFull

/-! ## The start as a whole -/

/-- The main side comes up from a slot (R439, R440); `restart` is the retained start of R442. The shadow of the search engine is placed at 8 GiB
(DESIGN CHOICE, log 123). -/
def State.bringUp (s : State) (f : StartFacts) (slot : Nat) (restart : Bool) : State :=
  let s : State := { s with start := { s.start with phase := .starting, slot := slot, began := s.pages.dtime, pendRst := none } }
  let s := (((s.setReg RST_STAT 0).setReg RST_TEVID 0).setReg RST_TFULL 0).clocksOn
  let s := pfPages.foldl State.routePage s
  let s := s.setReg ADM_STAT (setBit (s.reg ADM_STAT) 5 true)
  let s := ((s.dramUp restart f.temp).loadConsts f.consts).lockRoot.cacheUp
  let s := ((s.rolesUp f.roles slot).attachDies f).channelsUp
  let (kind, s) := s.mediaUp f restart
  let s := s.setReg RST_STAT (BitVec.ofNat 32 (kind * 256))
  let s : State := { s with start := { s.start with kind := kind } }
  let s := if 3 ≤ kind then s.count 0x003 3 1 else s
  let s := ((s.syncTemp.syncSupply.syncSquall.cause 5 false).logStart slot kind)
  let s := srcCmdEffect 1 (s.setReg SRC_SHBASE 0x08000000)
  (if f.front then s.frontLink else s).tryEvReady.tryFull

/-- A start with the slot that R436 gives it; in ROM when there is none. -/
def State.startWith (s : State) (f : StartFacts) (restart : Bool) : State :=
  match s.pickSlot f with
  | (some n, s) => s.bringUp f n restart
  | (none, s) => (if restart then s.mainDown false else s).toRom

/-- Whether encrypting work can begin: no alarm that erases the key slots is active (R455). -/
def State.keysServe (s : State) : Bool := s.events.alarms.all (· == 4)

/-- MAIN_START: the warden finds V12_MAIN good while the main side is off, or after a flush (R218, R473). -/
def execMainStart (f : StartFacts) (s : State) : Answer :=
  let after := decide (s.power.flush = 2)
  if !s.power.aon || s.regBit PWR_STAT 17 || !s.keysServe || !(after || (s.start.phase == .warden && !s.power.calm)) then .next s
  else
    let s := if after then s.mainDown false else s.lockSquall
    let s : State := { s with
      power := { s.power with v12 := true, vccq := true, pwrFail := true, flush := 0, flushed := true }
      events := { s.events with excluded := true } }
    let hot := decide (s.power.wake = some 5)
    let c := s.reg RST_CAUSE ||| 2
    let s := ((s.setReg RST_CAUSE (if hot then setBit c 7 true else c)).count 0x003 2 1).breakMs
    let s : State := { s with power := { s.power with wake := none } }
    .next ((if s.field? PWR_STAT 2 0 = 3 then s.setPower 5 else s).startWith f false)

/-! ## The main-side restart (R442) -/

/-- Whether a cell in one of the service roles has stopped in a double trap. -/
def State.doubleTrapped (s : State) : Bool :=
  (List.finRange 41).any fun c => decide (1 ≤ (s.role c).role ∧ (s.role c).role ≤ 5) && (s.cell c).run.dbl

/-- Whether VCCQ_N has been back for 10 ms after its loss (R480). -/
def State.vccqBack (s : State) : Bool :=
  !s.power.vccq && s.power.candT.any fun x => x.1 == 31 && decide (10000 ≤ (s.pages.dtime - x.2).toNat)

/-- The RST_CAUSE bit of the restart that is owed, if any; a return of VCCQ_N has none. -/
def State.restartOwed (s : State) : Option (Option Nat) :=
  match s.start.pendRst with
  | some b => some (some b)
  | none => if s.sb.state6 then some (some 5) else if s.doubleTrapped then some (some 6) else if s.vccqBack then some none else none

/-- MAIN_SIDE_RESTART. -/
def execMainSideRestart (f : StartFacts) (s : State) : Answer :=
  let busy := decide (s.start.phase = .starting)
  if !(busy || s.start.phase == .evReady || s.start.phase == .full) || !s.pageOn 0x010 || s.power.flush != 0 || s.power.entering.isSome || !s.keysServe then .next s
  else match s.restartOwed with
    | none => .next s
    | some b =>
      let s := match b with
        | some k => s.setReg RST_CAUSE (setBit (s.reg RST_CAUSE) k true)
        | none => s
      let s := (s.count 0x003 2 1).count 0x003 5 1
      let s : State := if b = some 4 then { s with events := { s.events with excluded := true } }
        else if s.events.excluded then s else s.openSpan 1 none
      let ccs := s.host.ctrls.map fun c => c.cc
      let keep := !busy || s.regBit DRC_FILLSTAT 8
      let s := s.mainDown keep
      let cfs := fun (k : Nat) (c : Ctrl) => { c with cc := ccs.getD k 0, csts := 2 }
      let s : State := { s with
        host := { s.host with ctrls := s.host.ctrls.mapIdx cfs }
        power := { s.power with vccq := true, candT := s.power.candT.filter fun x => x.1 != 31 } }
      .next (s.breakMs.startWith f keep)

/-- MAINRST and CTRLRST: a write of both is ignored (R445). -/
def rstCtrlCond (m : Master) (v : Word) (s : State) : Option State :=
  if bit v 0 && bit v 1 then some (s.refuse 0x003 0x10 m 0x84 v) else none

/-! ## PWR_FAIL# (R218, R430, R444) -/

/-- Whether the main side is on: started, and in neither Lull nor Calm. -/
def State.mainOn (s : State) : Bool := s.pageOn 0x010

/-- The first steps of the flush: no fetch, no completion; commands without all their data are dropped, media work stops but for the
programs of pSLC, and no blackout is taken (R218, R342). Reassignments end first (R196). -/
def State.beginFlush (s : State) : State :=
  let s := s.dropMoves
  let s := if s.power.entering.isSome then ((s.setPower 0).raise 0x001 7).count 0x001 5 1 else s
  let s := s.host.cmds.foldl (fun (s : State) c => s.forget c.ref) s
  let native := fun (r : Req) => r.mode != .pslc && (match r.owner with
    | .parity _ _ => false
    | _ => true)
  let s := s.abandon native
  let s : State := { s with
    power := { s.power with flush := 1, flushed := false, entering := none }
    prog := { s.prog with execs := [] }
    host := { s.host with evid := { s.host.evid with open_ := s.host.evid.open_.map fun x => { x with who := none } } } }
  s.setReg DRC_RT 0

/-- POWER_FAIL: PWR_FAIL# is asserted. During a start that has not opened admission the start stops; in Lull, in Calm and with the main
side off nothing is flushed. -/
def execPowerFail (s : State) : Answer :=
  if s.power.flush ≠ 0 then .next { s with power := { s.power with pwrFail := false } }
  else
    let on := s.mainOn
    let s : State := { s with power := { s.power with pwrFail := false } }
    if !on then .next s
    else if s.start.phase = .starting then
      let s := s.mainDown false
      .next ({ s with start := { s.start with phase := .warden } } : State).breakMs
    else .next s.beginFlush

/-- FLUSH_COMPLETE: steps 4 to 7 of R218. -/
def execFlushComplete (s : State) : Answer :=
  if s.power.flush ≠ 1 ∨ s.regBit KEY_STAT 3 = true ∨ s.power.vccq = false then .next s
  else
    let s := (s.flushOut true false).parkBuses
    .next { s with power := { s.power with flush := 2, flushed := true } }

/-! ## Losses of supplies (R433, R480) -/

/-- The main side loses its power. -/
def State.loseMain (s : State) : State :=
  let on := s.start.phase != .off && s.start.phase != .rom
  if !on then s
  else
    let off := decide (s.start.phase = .warden)
    let s := if off then s else s.mainDown false
    let s : State := { s with
      power := { s.power with v12 := false, vccq := false, calm := false, wake := none, flush := 0, calmReq := 0 }
      start := { s.start with phase := .warden, pendRst := none, pendCtl := false } }
    let s := (s.setReg CLK_STAT (s.reg CLK_STAT &&& 0xC0)).setReg CLK_RUN1 0
    let s := s.setReg CLK_RUN0 (s.reg CLK_RUN0 &&& 7)
    (s.setPower 3).breakMs

/-- V12_MAIN_LOSS. -/
def execV12MainLoss (s : State) : Answer :=
  let s := s.loseMain
  .next { s with power := { s.power with v12 := false } }

/-- The memories of the always-on domain, with cell 40's: filled at power-on (R360). -/
def State.aonDown (s : State) : State :=
  { s with
    pages := { regs := [], latches := [], dtime := 0, aonPhase := 0 }
    upsets := []
    cells := s.cells.set 40 .reset
    fabric := { s.fabric with roles := s.fabric.roles.set 40 { role := 0, fn := 0, slot := 0, allow := 0 } }
    sb := { Sideband.reset with i3c := s.sb.i3c }
    power := { Power.reset with aon := false, temps := s.power.temps }
    events := { alarms := [], tamper := false, spans := [], logT := 0, excluded := false, broken := true, unav := false } }

/-- V3P3_AON_LOSS: as a loss of V12_MAIN, and the always-on domain is off. -/
def execV3p3AonLoss (s : State) : Answer :=
  if s.start.phase = .off then .next s
  else
    let s := s.loseMain.aonDown
    .next { s with start := { s.start with phase := .off, pendRst := none, pendCtl := false } }

/-! ## Always-on power-on (R438) -/

/-- A counter pair restored from the health log. -/
def State.restorePair (s : State) (slot : Nat) (v : BitVec 64) : State :=
  (s.setReg (0x5F08 + 4 * slot) (v.setWidth 32)).setReg (0x5F0C + 4 * slot) ((v >>> 32).setWidth 32)

/-- The warden's image is loaded and the warden released at its START vector (R438 step 3, log 118). -/
def State.wardenFrom (s : State) (slot : Nat) : State :=
  let s : State := { s with fabric := { s.fabric with roles := s.fabric.roles.set 40 (defaultRole 40 (slot - 1)) } }
  (s.loadCell 40 (defaultRole 40 (slot - 1))).wardenGo

/-- The same at a power-on, where the slot becomes that of the start. -/
def State.wardenUp (s : State) (slot : Nat) : State :=
  ({ s with start := { s.start with slot := slot } } : State).wardenFrom slot

/-- A reload whose segment fails its check: the warden of the other slot, or none when that fails too (R436, R437, log 128). -/
def State.wardenFall (s : State) : State :=
  let s := s.switchSlot
  if (s.image s.slotRec.next).good then s.wardenFrom s.slotRec.next
  else (if s.mainOn then s.mainDown false else s).toRom

/-- The warden's reload (R191, R436). -/
def State.reloadWarden (s : State) : State :=
  let r := s.wardenLoad
  if !r.1 then r.2 else if r.2.wardenSigned then r.2.wardenGo else r.2.wardenFall

/-- WRELOAD: a write of FAB_CTRL with bit 0 set. -/
def execWreload (m : Master) (v : Word) (s : State) : Answer :=
  let v := setBit v 0 true
  .next (s.write m 0x70 0x8C 32 v noCond fun _ s => s.reloadWarden).1

/-- ALWAYS_ON_POWER_ON: V3P3_AON becomes good, and the warden segment is verified; a bad segment makes the start fall back, two leave the
warden in ROM (R436, R437). The warden restores the accounting (R459). -/
def execAlwaysOnPowerOn (i3c : Bool) (s : State) : Answer :=
  if s.start.phase ≠ .off then .next s
  else
    let s : State := { s with
      pages := { regs := [], latches := [], dtime := 0, aonPhase := 0 }
      power := { s.power with aon := true }
      sb := { Sideband.reset with i3c := i3c }
      start := { s.start with phase := .warden }
      events := { s.events with excluded := true } }
    let n := s.start.nor
    let s := (((s.restorePair 2 n.acctMs).restorePair 4 n.unavMs).setReg (0x5F08 + 24) n.unavInt).settleRec
    let a := s.slotRec.next
    if (s.image a).good then .next (s.wardenUp a)
    else
      let s := s.fallBack
      if (s.image (3 - a)).good then .next (s.wardenUp (3 - a))
      else .next s.toRom

end Sys2Proof.Machine
end

