-- ==== Sys2Proof/Machine/Power.lean ====
section
/-!
DEFINITION. Power states, wakes, clocks, throttling and supplies (20, 24): Breeze, entry to and exit from Lull and Calm, the wake sources
of R426, the junction sensors and page TMP, the thermal hold, and the monitored supplies.
-/

namespace Sys2Proof.Machine

/-! ## The warden's health copy (R411) -/

/-- The health copy as it is taken now; STATE, FLAGS and AGE are added when it is read. -/
def State.copyHealth (s : State) : State :=
  let r := s.slotRec
  let b := [0, 0] ++ leBytes 2 ((s.reg ADM_STAT).toNat % 65536) ++ leBytes 1 s.pctUsed ++ leBytes 1 s.availSpare ++ leBytes 1 s.critWarn ++
    leBytes 1 s.red.failed.length ++ leBytes 2 s.kelvin ++ leBytes 1 (r.active + 4 * r.next) ++ [0] ++ leBytes 8 s.pages.dtime.toNat ++
    List.replicate 12 0
  { s with sb := { s.sb with health := b, copyT := s.pages.dtime, fstat := s.reg FRL_STAT } }

/-! ## Wakes (R426) -/

/-- A source has woken the device. -/
def State.noteWake (s : State) (n : Nat) : State :=
  ((s.setReg PWR_WAKE (setBit (s.reg PWR_WAKE) n true)).raise 0x001 4).count 0x001 4 1

/-- The wake source `n`: it ends an entry, Lull or Calm; in Breeze a request for Gale ends Breeze. In a thermal hold only the end of the
hold wakes the device, and a start ignores wakes (R430, R444). -/
def State.wakeBy (s : State) (n : Nat) : State :=
  let s := s.startWosc
  let st := s.field? PWR_STAT 2 0
  if s.regBit PWR_STAT 17 && n != 5 then s
  else match s.power.entering with
  | some (t, _) =>
    if n = 3 ∧ t ≠ 2 then s
    else
      let s := ({ s with power := { s.power with entering := none } } : State).setPower 0
      (((s.raise 0x001 7).count 0x001 5 1).noteWake n)
  | none =>
    if st = 1 then (if n = 1 ∨ n = 4 then s.setPower 0 else s)
    else if (st = 2 ∧ s.power.calm = false) ∨ (st = 3 ∧ s.power.calm = true ∧ n ≠ 3) then
      let s : State := { s with power := { s.power with wake := some n } }
      (s.noteWake n).setPower 5
    else s

/-- WAKE: a WAKE message from the field die. In Lull, in Calm and with the link down the lane-0 receiver passes it to the warden. -/
def execWake (msg : List Byte) (s : State) : Answer :=
  if !rowTakes true 0x05 msg then .next s
  else if s.frontUp then .next (s.fromField msg fun s => s.raise 0x0F0 6)
  else if s.power.aon && mType msg == 5 && (msgFault true msg).isNone then .next (s.wakeBy 0)
  else .next s

/-! ## Requests for a state (R417, R431) -/

/-- What a request for a state comes to: refused, or carried out. -/
def State.requestState (s : State) (n src : Nat) : Option State :=
  if n = 1 ∧ src = 4 ∨ 3 < n then none
  else if n ≤ 1 then some (s.wakeBy src)
  else if !s.deepAllowed n then none
  else if 2 ≤ s.field? PWR_STAT 2 0 ∨ s.start.phase = .warden then some s
  else some (s.askDeep n)

/-- The conditions of a write of PWR_REQ. -/
def pwrReqCond (m : Master) (v : Word) (s : State) : Option State :=
  let st := s.field? PWR_STAT 2 0
  if !bit v 2 then none
  else if st = 4 ∨ st = 5 then some (s.refuse 0x001 0x12 m 0x84 v)
  else if (s.requestState (bits v 1 0) 4).isNone then
    some ((s.setReg PWR_STAT (setBit (s.reg PWR_STAT) 18 true)).refuse 0x001 0x10 m 0x84 v)
  else none
def pwrReqEffect (v : Word) (s : State) : State := if bit v 2 then (s.requestState (bits v 1 0) 4).getD s else s

/-- GO. -/
def execGo (m : Master) (v : Word) (s : State) : Answer :=
  let v := setBit v 2 true
  .next (s.write m 0x001 0x84 32 v (pwrReqCond m v) fun _ => pwrReqEffect v).1

/-- PWR_CTRL: DEEP 1 and DELAY 0 are ignored as a whole. A new value starts the timer. -/
def pwrCtrlCond (m : Master) (v : Word) (s : State) : Option State :=
  if bits v 1 0 = 1 ∨ bits v 15 8 = 0 then some (s.refuse 0x001 0x11 m 0x80 v) else none
def pwrCtrlEffect (v : Word) (d : RegDef) (s : State) : State :=
  { (s.store PWR_CTRL v d) with power := { s.power with deepT := some s.pages.dtime } }

/-- AUTOMATIC_DEEP_TIMER: DELAY seconds have passed; without its precondition the timer restarts. -/
def execAutomaticDeepTimer (s : State) : Answer :=
  let t := s.field? PWR_CTRL 1 0
  let since := s.power.deepT.getD s.start.began
  if t < 2 ∨ 2 ≤ s.field? PWR_STAT 2 0 ∨ s.mainOn = false ∨ (s.pages.dtime - since).toNat < s.field? PWR_CTRL 15 8 * 1000000 then .next s
  else
    let s : State := { s with power := { s.power with deepT := some s.pages.dtime } }
    .next (if s.deepAllowed t then s.askDeep t else s)

/-! ## Breeze (R415, R416) -/

/-- Whether the device is idle as R415 asks. -/
def State.idle (s : State) : Bool :=
  let aer := fun (c : Cmd) => c.kind == .admin && (s.logsOf c.ref.fn).aers.contains c.ref.cid && c.ref.sqid == 0
  s.host.link.up && decide (2 ≤ s.host.link.pm) && s.host.cmds.all aer && s.prog.execs.isEmpty && s.ftl.relocs.isEmpty && s.ftl.demote.isEmpty &&
    (s.media.reqs.all fun r => r.cls != 3 || (match r.owner with
      | .patrol => true
      | .evid _ => true
      | _ => false)) && s.red.rbState == 0 && !s.regBit ADM_STAT 10

/-- BREEZE_ENTRY: the conditions have held for 20 ms. Idle compute cells turn off without retention, and so do search banks that hold no
entries. -/
def execBreezeEntry (s : State) : Answer :=
  let held := s.power.breezeT.any fun t => decide (20000 ≤ (s.pages.dtime - t).toNat)
  if !s.regBit PWR_CTRL 2 || s.start.phase != .full || s.field? PWR_STAT 2 0 != 0 || !s.idle || !held then .next s
  else
    let off := fun (p : Nat) => s.asleep p
    let s : State := { s with
      pages := { s.pages with
        regs := s.pages.regs.filter fun p => !off (p.1 / 4096) || (decide (0xA1 ≤ p.1 / 4096) && p.1 % 4096 == 0x80)
        latches := s.pages.latches.filter fun l => !off l.page }
      upsets := s.upsets.filter fun p => !off (p.1 / 2 ^ 32)
      cells := s.cells.mapIdx fun k c => if 16 ≤ k ∧ k ≤ 39 then Cell.reset else c }
    .next (s.setPower 1)

/-- BREEZE_EXIT: a condition has stopped holding. What was off powers up, filled. -/
def execBreezeExit (s : State) : Answer :=
  if s.field? PWR_STAT 2 0 ≠ 1 ∨ s.idle = true ∧ s.regBit PWR_CTRL 2 = true then .next s
  else
    let back := ((List.range 24).map (0x50 + ·) ++ (List.range 16).map (0xA1 + ·)).filter fun p => s.asleep p
    let s := back.foldl State.routePage (s.setPower 0)
    .next ((List.finRange 41).foldl (fun (s : State) c =>
      if 16 ≤ c.val ∧ c.val ≤ 39 ∧ (s.role c).role ≠ 0 ∧ (s.prog.execs.any fun e => e.cell == c.val && e.step != 0) = false then s.unhold c else s) s)

/-! ## Entry to Lull and Calm (R418) -/

/-- The pages of the domains that Lull turns off without retention (R422). -/
def lullOff (p : Nat) : Bool :=
  decide (0x50 ≤ p ∧ p ≤ 0x67 ∨ 0x70 ≤ p ∧ p ≤ 0x74 ∨ 0x80 ≤ p ∧ p ≤ 0x8F ∨ 0xA0 ≤ p ∧ p ≤ 0xB0 ∨ 0xC1 ≤ p ∧ p ≤ 0xD7 ∨
    0xE8 ≤ p ∧ p ≤ 0xEC ∨ p = 0xF0)

/-- The nonzero EV_RAW values of the pages that turn off go into the warden's event log (R449). -/
def State.logRaw (s : State) (off : Nat → Bool) : State :=
  pfPages.foldl (fun (s : State) p => if off p ∧ s.reg (EV_RAW p) ≠ 0 then s.logWarden p (s.reg (EV_RAW p)) else s) s

/-- Cell 14's appends have become durable: they are acknowledged (R418 step 1). -/
def State.ackAppends (s : State) : State :=
  let s := s.frl.appends.foldl (fun (s : State) a => s.closeAppend fun x => x.who == some a.ref) s
  match s.frl.appends.getLast? with
  | none => s
  | some a =>
    let s := (s.modFrl fun f => { f with appends := [], durable := some a.last }).closeSpan 5
    if s.frontUp then (s.setReg FRL_DURSEQ a.last).sendAck 0 a.last (s.reg FRL_RXSEQ) else s

/-- Steps 1 to 5 of R418: commands and background work stop, the rebuild is paused, staging drains, the journal is closed, the cache is
cleaned and invalidated, every channel leaves its bus. -/
def State.goDeep (s : State) (ckpt : Bool) : State :=
  let s := s.abandon fun _ => false
  let s : State := if s.red.rbState = 1 ∨ s.red.rbState = 2 then ({ s with red := { s.red with rbState := 3 } } : State).syncRed else s
  let s : State := { s with power := { s.power with flush := 1 }, prog := { s.prog with execs := [] } }
  let s := s.flushOut false ckpt
  let s : State := { s with power := { s.power with flush := 0 } }
  let s := s.ackAppends
  let s := s.host.cmds.foldl (fun (s : State) c => s.forget c.ref) s
  (s.maintain (fun _ => true) true true).parkBuses

/-- Whether an entry to a state may complete: no wake or alarm has come, and the supplies are there. -/
def State.entryRuns (s : State) (target : Nat) : Bool :=
  s.power.entering.any (fun e => e.1 == target) && s.power.pwrFail && s.power.flush == 0 && s.power.vccq && s.keysServe && s.mainOn

/-- LULL_ENTRY. DRAM keeps its contents in self-refresh; domains with retention keep theirs. -/
def execLullEntry (s : State) : Answer :=
  let s := s.askWaiting
  if !s.entryRuns 2 then .next s
  else
    let s := ((s.goDeep false).logRaw lullOff).copyHealth.finishDram.frontDown
    let keep := fun (k : Nat) => !lullOff (k / 4096) || (decide (0xA1 ≤ k / 4096 ∧ k / 4096 ≤ 0xB0) && k % 4096 == 0x80) || k == SRC_SHBASE
    let s : State := { s with
      pages := { s.pages with regs := s.pages.regs.filter fun p => keep p.1, latches := s.pages.latches.filter fun l => !lullOff l.page }
      upsets := s.upsets.filter fun p => !lullOff (p.1 / 2 ^ 32)
      cells := s.cells.mapIdx fun k c => if 16 ≤ k ∧ k ≤ 39 then Cell.reset else c
      fabric := { s.fabric with codec := List.replicate 4 [] }
      search := { s.search with banks := List.replicate 16 .empty, posted := [], work := 0 }
      crypto := { s.crypto with lanes := Crypto.reset.lanes, bound := Crypto.reset.bound, ctxs := Crypto.reset.ctxs, digs := Crypto.reset.digs }
      dram := { Dram.reset with mem := s.dram.mem, pois := s.dram.pois, chans := s.dram.chans.map fun (c : DramCh) => { c with queue := [], open_ := [] } }
      media := { s.media with chans := Media.reset.chans }
      frl := { Frl.reset with durable := s.frl.durable, legal := s.frl.legal }
      power := { s.power with entering := none } }
    let s := s.setReg DRC_STAT (setBit (s.reg DRC_STAT) 0 true)
    let s := ((s.setReg CLK_STAT (s.reg CLK_STAT &&& 0xF0)).setReg CLK_RUN0 (s.reg CLK_RUN0 &&& 7)).setReg CLK_RUN1 (s.reg CLK_RUN1 &&& 0x80)
    .next ((s.setPower 2).count 0x001 2 1)

/-- Every main-side domain and the clocks that feed them are off, and the warden serves alone. -/
def State.offAsCalm (s : State) : State :=
  let s : State := { s.mainDown false with start := { s.start with phase := .warden, pendRst := none, pendCtl := false } }
  let s : State := { s with power := { s.power with calm := true, entering := none, wake := none, calmReq := 0 } }
  let s := ((s.setReg CLK_STAT (s.reg CLK_STAT &&& 0xC0)).setReg CLK_RUN0 (s.reg CLK_RUN0 &&& 7)).setReg CLK_RUN1 0
  s.setPower 3

/-- CALM_ENTRY: with a checkpoint; DRAM and the main side turn off; the accounting is written (R459). -/
def execCalmEntry (s : State) : Answer :=
  let s := s.askWaiting
  if !s.entryRuns 3 then .next s
  else .next (((((s.goDeep true).logRaw mainPage).copyHealth.writeAcct).offAsCalm).count 0x001 3 1)

/-! ## Leaving Lull and Calm (R420, R421) -/

/-- DRAM leaves self-refresh under the codes of the present band (R342). -/
def State.leaveSelfRefresh (s : State) : State :=
  let fill := (DRC_FILLSTAT :: (List.range 8).map DRC_FILL).map fun k => (k, s.reg k)
  fill.foldl (fun (s : State) x => s.setReg x.1 x.2) (s.dramUp true (s.power.temps.getD 8 25))

/-- LULL_EXIT: the rails, clocks, DRAM and channels are back, the Front link trains, RELOAD begins, and admission opens. -/
def execLullExit (s : State) : Answer :=
  if s.field? PWR_STAT 2 0 ≠ 5 ∨ s.power.wake = none ∨ s.power.calm = true then .next s
  else
    let s : State := { s with power := { s.power with wake := none, deepT := some s.pages.dtime } }
    let s := (pfPages.filter lullOff).foldl State.routePage s.clocksOn
    let s := s.leaveSelfRefresh.cacheUp.channelsUp
    let s := s.red.failed.foldl (fun (s : State) d => s.setField (MCH_DIE (d / 8) (d % 8)) 9 9 1) s
    let s : State := { s with red := { s.red with rbAfter := s.adm.latest
                                                  rbState := if s.red.rbState = 3 ∧ s.regBit RED_CTRL 0 = false then
                                                    (if s.red.todo.isEmpty && s.red.die1.isNone then 0 else 1) else s.red.rbState } }
    let s := (s.syncRed.pumpRebuild).fillStripes
    let s := (List.finRange 41).foldl (fun (s : State) c =>
      if 16 ≤ c.val ∧ c.val ≤ 39 ∧ (s.role c).role ≠ 0 then s.unhold c else s) s
    let s := srcCmdEffect 2 s
    let s := s.setReg FRL_DURSEQ (s.frl.durable.getD 0)
    let s := s.frontLink.setPower 0
    .next (if s.start.pendCtl then s.ctrlSide else s)

/-- CALM_EXIT: the regulators are enabled; the main start follows (R421). -/
def execCalmExit (s : State) : Answer :=
  if s.power.calm = false ∨ s.power.wake = none ∨ s.regBit PWR_STAT 17 = true then .next s
  else .next { s with power := { s.power with calm := false } }

/-! ## Clocks (R424, R425) -/

/-- WARDEN_OSCILLATOR_STOP: 1 ms without a transaction, a wake or an alert. -/
def execWardenOscillatorStop (s : State) : Answer :=
  if !s.regBit CLK_STAT 7 || decide ((s.pages.dtime - s.sb.lastIO).toNat < 1000) || s.irqLevel 40 || s.alertLevel then .next s
  else .next ((s.setReg CLK_STAT (setBit (s.reg CLK_STAT) 7 false)).setReg CLK_RUN0 (s.reg CLK_RUN0 &&& 0xFFFFFFF9))

/-- The clock domains that a PLL feeds: first and number (R424). -/
def pllDomains : Nat → Nat × Nat
  | 0 => (3, 7)
  | 1 => (10, 5)
  | 2 => (15, 18)
  | 3 => (33, 6)
  | _ => (39, 1)

/-- The domains of a failed source stop. -/
def State.stopDomains (s : State) (l : List Nat) : State :=
  l.foldl (fun (s : State) k =>
    if k < 32 then s.setReg CLK_RUN0 (setBit (s.reg CLK_RUN0) k false) else s.setReg CLK_RUN1 (setBit (s.reg CLK_RUN1) (k - 32) false)) s

/-- PLL_UNLOCK: 0 to 3 PLL A to D, 4 the PCIe PHY PLL. -/
def execPllUnlock (pll : Nat) (s : State) : Answer :=
  if 4 < pll ∨ s.regBit CLK_STAT pll = false then .next s
  else
    let d := pllDomains pll
    let s := (s.setReg CLK_STAT (setBit (s.reg CLK_STAT) pll false)).stopDomains ((List.range d.2).map (d.1 + ·))
    let s := (s.raise 0x002 3).count 0x002 2 1
    .next (if pll < 4 then s.beginAlarm 1 else s)

/-- CRYSTAL_STOP: of the 25 MHz or the 32.768 kHz crystal. -/
def execCrystalStop (x25 : Bool) (s : State) : Answer :=
  let k := if x25 then 5 else 6
  if !s.regBit CLK_STAT k then .next s
  else
    let s := s.setReg CLK_STAT (setBit (s.reg CLK_STAT) k false)
    let s := if x25 then s else s.stopDomains [0]
    let s := (s.raise 0x002 4).count 0x002 3 1
    .next (if x25 then s.beginAlarm 1 else s)

/-! ## The junction sensors (R427 to R429, R479) -/

/-- Since when each condition holds: an entry is made when it begins and dropped when it ends. -/
def track (l : List (Nat × BitVec 64)) (now : BitVec 64) (cs : List (Nat × Bool)) : List (Nat × BitVec 64) :=
  cs.foldl (fun l c => if c.2 then (if l.any fun x => x.1 == c.1 then l else l ++ [(c.1, now)]) else l.filter fun x => x.1 != c.1) l

/-- Whether a condition has held for some microseconds. -/
def State.heldFor (s : State) (k us : Nat) : Bool := s.power.candT.any fun x => x.1 == k && decide (us ≤ (s.pages.dtime - x.2).toNat)

/-- The temperatures at which steps 1 to 3 are entered, and below which they are left. -/
def stepEnter : Nat → Int
  | 1 => 110
  | 2 => 115
  | _ => 120
def stepLeave (k : Nat) : Int := stepEnter k - 5

/-- The step that the hottest sensor gives after 100 ms (R427): conditions 1 to 3 are those of entering a step, 11 to 13 of leaving it. -/
def State.nextStep (s : State) : Nat → Nat → Nat
  | 0, n => n
  | f + 1, n =>
    if n < 3 ∧ s.heldFor (n + 1) 100000 = true then s.nextStep f (n + 1)
    else if 0 < n ∧ s.heldFor (10 + n) 100000 = true then s.nextStep f (n - 1) else n

/-- STEP and EFFECT, with EV_PWR_THROTTLE at a change. -/
def State.setSteps (s : State) (step effect : Nat) : State :=
  let v := setBits (setBits (s.reg PWR_STAT) 11 10 step) 13 12 effect
  if v = s.reg PWR_STAT then s else (s.setReg PWR_STAT v).raise 0x001 5

/-- A change of step: Forecast at once; the hardware at once when it falls, and when it rises after the latest deadline (R428). -/
def State.changeStep (s : State) (n : Nat) : State :=
  let old := s.field? PWR_STAT 11 10
  let eff := s.field? PWR_STAT 13 12
  if n = old then s
  else if n ≤ eff then ({ s with power := { s.power with rising := none } } : State).setSteps n n
  else
    let t := if old < n then s.adm.latest else (s.power.rising.map fun r => r.2).getD s.adm.latest
    ({ s with power := { s.power with rising := some (n, t) } } : State).setSteps n eff

/-- Seconds at step 1 or above (THROTTLE_S), condition 30. -/
def State.countThrottle (s : State) : State :=
  match s.power.candT.find? fun x => x.1 == 30 with
  | none => s
  | some x =>
    let n := (s.pages.dtime - x.2).toNat / 1000000
    if n = 0 then s
    else
      let l := s.power.candT.map fun y => if y.1 = 30 then (30, y.2 + BitVec.ofNat 64 (n * 1000000)) else y
      ({ s with power := { s.power with candT := l } } : State).count 0x001 6 n

/-- The case estimate: the hottest of sensors 0 to 7 less 0.30 °C per watt. -/
def State.caseTemp (s : State) (hot : Int) : Rat := hot - 3 * s.power.watts / 10

/-- THERMAL_SAMPLE: the 1 ms sample of sensors 0 to 8 and of the power drawn. -/
def execThermalSample (temps : List Int) (watts : Rat) (s : State) : Answer :=
  if !s.power.aon then .next s
  else
    let ts := (List.range 9).map fun k => temps.getD k 25
    let now := s.pages.dtime
    let hot := (ts.take 8).foldl max (ts.getD 0 25)
    let which := ((List.range 8).find? fun k => ts.getD k 25 == hot).getD 0
    let s : State := { s with power := { s.power with temps := ts, watts := watts } }
    let cse := s.caseTemp hot
    let out := decide (cse < -40) || decide (105 < cse)
    let s := s.setReg TMP_STAT (setBits (setBits (setBits 0 19 16 which) 15 8 (cse.floor + 64).toNat) 7 0 (hot + 64).toNat)
    let was := s.power.caseOutT.isSome
    let s := if out = was then s else s.raise 0x004 3
    let s := if out && !was then s.count 0x004 3 1 else s
    let s : State := { s with power := { s.power with
      caseOutT := if out then some (s.power.caseOutT.getD now) else none
      candT := track s.power.candT now
        ([(1, decide (110 ≤ hot)), (2, decide (115 ≤ hot)), (3, decide (120 ≤ hot)), (11, decide (hot < 105)), (12, decide (hot < 110)),
          (13, decide (hot < 115)), (20, decide (125 ≤ hot)), (21, decide (135 ≤ hot))]) } }
    let s := if s.pageOn 0x020 then s.changeStep (s.nextStep 3 (s.field? PWR_STAT 11 10)) else s
    let crit := s.heldFor 20 100000
    let s := if crit && !s.regBit PWR_STAT 16 then s.raise 0x001 6 else s
    let s := if crit then ({ s with power := { s.power with rising := none } } : State).setSteps 3 3 else s
    let s := s.setReg PWR_STAT (setBit (s.reg PWR_STAT) 16 crit)
    let s : State := { s with power := { s.power with candT := track s.power.candT now [(30, decide (0 < s.field? PWR_STAT 11 10))] } }
    .next s.countThrottle.syncTemp

/-- THROTTLE_EFFECT: the latest deadline before a rise has passed. -/
def execThrottleEffect (s : State) : Answer :=
  match s.power.rising with
  | none => .next s
  | some (n, t) =>
    if s.ns ≤ t then .next s
    else .next (({ s with power := { s.power with rising := none } } : State).setSteps (s.field? PWR_STAT 11 10) n)

/-- THERMAL_HOLD: 135 °C for 10 ms. Staging is flushed and the main side is held off. -/
def execThermalHold (s : State) : Answer :=
  let on := s.mainOn && s.start.phase != .starting
  if !s.heldFor 21 10000 || s.regBit PWR_STAT 17 || s.start.phase == .off || s.start.phase == .rom || (on && (!s.keysServe || !s.power.vccq)) then .next s
  else
    let s := if on then ((if s.power.flush = 0 then s.beginFlush else s).flushOut true false).parkBuses else s
    let s : State := { s with power := { s.power with flush := 0, flushed := true } }
    let s := if s.start.phase = .warden then s else s.offAsCalm
    let s := (s.setReg PWR_STAT (setBit (s.reg PWR_STAT) 17 true)).raise 0x001 6
    .next (s.breakMs.alert 0x001)

/-- THERMAL_HOLD_END: every sensor reads below 100 °C, and the device wakes. -/
def execThermalHoldEnd (s : State) : Answer :=
  if !s.regBit PWR_STAT 17 || s.power.temps.any fun t => decide (100 ≤ t) then .next s
  else .next ((s.setReg PWR_STAT (setBit (s.reg PWR_STAT) 17 false)).wakeBy 5)

/-! ## Supplies (R474, R480) -/

/-- SUPPLY_SAMPLE: V12_MAIN, V3P3_AON and VCCQ_N in millivolts. -/
def execSupplySample (main aon vccq : Nat) (s : State) : Answer :=
  if !s.power.aon then .next s
  else
    let outM := decide (main < 10800 ∨ 13200 < main)
    let outA := decide (aon < 3000 ∨ 3600 < aon)
    let outQ := decide (vccq < 1140 ∨ 1260 < vccq)
    let old := s.field? TMP_SUPPLY 26 24
    let new := outM.toNat + 2 * outA.toNat + 4 * outQ.toNat
    let s := s.setReg TMP_SUPPLY (setBits (setBits (setBits (setBits 0 26 24 new) 23 16 (min 255 (vccq / 10))) 15 8 (min 255 (aon / 20))) 7 0
      (min 255 (main / 100)))
    let s := if new = old then s else s.raise 0x004 4
    let s := s.count 0x004 2 ((List.range 3).countP fun k => new.testBit k && !old.testBit k)
    let s : State := { s with power := { s.power with
      v12 := !outM
      supplyT := if new = 0 then none else some (s.power.supplyT.getD s.pages.dtime)
      candT := track s.power.candT s.pages.dtime [(31, !outQ && !s.power.vccq)] } }
    let s := if new = 0 then s else s.breakMs
    .next s.syncSupply

/-- VCCQ_N_LOSS: below 1.0 V. Channels stop driving and fetching stops; staging stays. -/
def execVccqNLoss (s : State) : Answer :=
  if !s.mainOn then .next s
  else
    let s := (s.abandon fun _ => true).parkBuses
    .next { s with power := { s.power with vccq := false, candT := s.power.candT.filter fun x => x.1 != 31 } }

end Sys2Proof.Machine
end

