-- ==== Sys2Proof/Machine/Pcie.lean ====
section
/-!
DEFINITION. The PCIe link and the controller-side resets (R76, R98, R443, R444), and RST_CTRL (R442, R445).
-/

namespace Sys2Proof.Machine

/-! ## The link (R76, R98, R415, R426) -/

/-- The options of the endpoint that configuration space reports (R76): payload and read request sizes in bytes, tag width in bits, and the
capabilities that are present and absent. -/
structure PcieCaps where
  maxPayload     : Nat
  maxReadRequest : Nat
  tagBits        : Nat
  interruptPin   : Nat
  present        : List String
  absent         : List String
  deriving DecidableEq, Repr

/-- Those of this part. -/
def pcieCaps : PcieCaps :=
  { maxPayload := 512, maxReadRequest := 4096, tagBits := 10, interruptPin := 0
    present := ["SR-IOV", "ARI", "MSI-X", "D0", "D3hot", "ASPM L1", "L1.1", "L1.2", "LTR", "AER", "FLR"]
    absent := ["VF migration", "MSI", "INTx", "L0s", "D3cold with auxiliary power", "ATS", "PRI", "PASID", "TPH", "PTM", "Resizable BAR", "DOE",
      "IDE"] }

/-- Changing the link's state. -/
def State.modLink (s : State) (g : Link → Link) : State := { s with host := { s.host with link := g s.host.link } }

/-- PCIE_LINK_UP: the link enters L0; it trains only with PERST# deasserted and the host interface ready (R439). -/
def execPcieLinkUp (speed width : Nat) (s : State) : Answer :=
  let ready := s.start.phase == .evReady || s.start.phase == .full
  if s.host.link.up || s.host.link.perst || !ready || !s.pageOn 0x010 || !(decide (1 ≤ speed ∧ speed ≤ 5)) || !(width == 1 || width == 2 || width == 4) then
    .next s
  else
    let s := s.modLink fun l => { l with up := true, pm := 0, speed := speed, width := width }
    let s := (s.setReg CLK_STAT (setBit (s.reg CLK_STAT) 4 true)).setReg CLK_RUN1 (s.reg CLK_RUN1 ||| 0x80)
    .next (s.raise 0x010 4)

/-- PCIE_LINK_DOWN. -/
def execPcieLinkDown (s : State) : Answer := .next s.linkDown

/-- PCIE_L1_ENTRY: to L1 (1), L1.1 (2) or L1.2 (3). -/
def execPcieL1Entry (pm : Nat) (s : State) : Answer :=
  if !s.host.link.up || !(decide (1 ≤ pm ∧ pm ≤ 3)) then .next s
  else
    let t := if pm < 2 then none else if 2 ≤ s.host.link.pm then s.power.breezeT else some s.pages.dtime
    .next (({ s with power := { s.power with breezeT := t } } : State).modLink fun l => { l with pm := pm })

/-- The wake source of PCIe, when it is enabled. -/
def State.wakePcie (s : State) : State := if s.regBit PWR_WAKEEN 3 then s.wakeBy 3 else s

/-- PCIE_L1_EXIT: the link returns to L0, and ends Lull. -/
def execPcieL1Exit (s : State) : Answer :=
  if !s.host.link.up || s.host.link.pm == 0 then .next s
  else
    let s : State := ({ s with power := { s.power with breezeT := none } } : State).modLink fun l => { l with pm := 0 }
    .next (if 2 ≤ s.field? PWR_STAT 2 0 then s.wakePcie else s)

/-- PMCSR_WRITE: the PF's power state, D0 or D3hot; a write of D0 ends Lull. -/
def execPmcsrWrite (v : Word) (s : State) : Answer :=
  let d := bits v 1 0
  if !s.host.link.up || !(d == 0 || d == 3) then .next s
  else
    let s := s.modCtrl 0 fun c => { c with d3hot := d == 3 }
    .next (if d = 0 ∧ 2 ≤ s.field? PWR_STAT 2 0 then s.wakePcie else s)

/-! ## Controller-side reset (R443, R444) -/

/-- A controller-side reset, recorded in RST_CAUSE under its bit. During a start and in Lull it waits until the host interface is ready;
with the main side off there is nothing to reset. -/
def State.ctrlReset (s : State) (k : Nat) : State :=
  let s := s.setReg RST_CAUSE (setBit (s.reg RST_CAUSE) k true)
  let up := s.start.phase == .evReady || s.start.phase == .full
  if up && s.mainOn then s.ctrlSide
  else if up || s.start.phase == .starting then { s with start := { s.start with pendCtl := true } }
  else s

/-- PERST_ASSERTED. -/
def execPerstAsserted (s : State) : Answer :=
  if s.host.link.perst then .next s
  else .next (((s.modLink fun l => { l with perst := true }).ctrlReset 2).linkDown)

/-- PERST_DEASSERTED: a wake source when PWR_WAKEEN.PERST is 1. -/
def execPerstDeasserted (s : State) : Answer :=
  if !s.host.link.perst then .next s
  else
    let s := s.modLink fun l => { l with perst := false }
    .next (if s.regBit PWR_WAKEEN 2 then s.wakeBy 2 else s)

/-- HOT_RESET. -/
def execHotReset (s : State) : Answer := if s.host.link.up then .next (s.ctrlReset 3) else .next s

/-- RST_CTRL: CTRLRST is a controller-side reset; MAINRST makes the warden owe a main-side restart while the main side is on. -/
def rstCtrlEffect (v : Word) (s : State) : State :=
  let s := if bit v 1 then s.ctrlReset 3 else s
  if bit v 0 && s.mainOn then { s with start := { s.start with pendRst := some 4 } } else s

/-- CTRLRST. -/
def execCtrlrst (m : Master) (v : Word) (s : State) : Answer :=
  let v := setBit v 1 true
  .next (s.write m 0x003 0x84 32 v (rstCtrlCond m v) fun _ => rstCtrlEffect v).1

/-- MAINRST. -/
def execMainrst (m : Master) (v : Word) (s : State) : Answer :=
  let v := setBit v 0 true
  .next (s.write m 0x003 0x84 32 v (rstCtrlCond m v) fun _ => rstCtrlEffect v).1

end Sys2Proof.Machine
end

