-- ==== Sys2Proof/Machine/PageRead.lean ====
section
/-!
DEFINITION. What every register of a page reads (R9, R30, R34, R41, R463 and the chapters' register tables).
-/

namespace Sys2Proof.Machine

/-! ## Views of pages that hold copies of the block's state -/

/-- PG_STAT (R34): the stored bits with ERRCAP_VALID, CNT_SAT_ANY and SQL_ACTIVE. -/
def State.pgStat (s : State) (page : Nat) : Word :=
  let sat := s.reg (CNT_SAT0 page) != 0 || s.reg (CNT_SAT1 page) != 0
  setBit (setBit (setBit (s.reg (PG_STAT page)) 7 (s.regBit (ERR_CAP0 page) 0)) 6 sat) 5 (s.sqlActive page)

/-- HIF_LINK, HIF_FUNC and HIF_EVID (R98). -/
def hifView (s : State) (off : Nat) : Option Word :=
  let l := s.host.link
  match off with
  | 0x80 => some (BitVec.ofNat 32 (l.pm * 256 + l.up.toNat * 128 + l.speed * 16 + l.width))
  | 0x84 =>
    let en := (List.range 16).foldl (fun a f => a + (bit (s.ctrl (Fin.ofNat 16 f)).cc 0).toNat * 2 ^ f) 0
    some (BitVec.ofNat 32 (en * 65536 + l.vfEn.toNat * 32768 + l.numVfs))
  | 0x88 => some (BitVec.ofNat 32 (s.host.evid.cap - s.host.evid.append))
  | _ => none

/-- The function and queue identifier of a queue slot: slots 0 to 15 are the admin pairs; slot 16 + p is pool pair p, which its
function uses under its place in the function's list (R99). -/
def State.slotQueue (s : State) (n : Nat) : Option (Fun × Nat) :=
  if n < 16 then some (Fin.ofNat 16 n, 0)
  else
    match (List.finRange 16).find? fun f => (s.ctrl f).pool.contains (n - 16) with
    | none => none
    | some f => some (f, (s.ctrl f).pool.idxOf (n - 16) + 1)

/-- The slot that NVQ_SEL of an instance selects; values 48 to 63 select nothing (R99). -/
def State.nvqSlot (s : State) (i : Nat) : Option (Fun × Nat) :=
  let k := s.field? (NVQ_SEL i) 5 0
  if 47 < k then none else s.slotQueue (48 * i + k)

/-- NVQ_QINFO, NVQ_SQPTR and NVQ_CQPTR (R99): a queue pair that does not exist reads 0. -/
def nvqView (s : State) (i off : Nat) : Option Word :=
  if off = 0x80 then none
  else match s.nvqSlot i with
  | none => some 0
  | some (f, q) =>
    let sq := (s.ctrl f).sqs.find? (·.qid == q)
    let cq := (s.ctrl f).cqs.find? (·.qid == q)
    match off with
    | 0x84 =>
      some (match sq with
      | some x => BitVec.ofNat 32 (2 ^ 31 + (x.dclass == 0).toNat * 2 ^ 30 + f.val * 2 ^ 24 + q * 2 ^ 16 + (x.size - 1))
      | none => 0)
    | 0x88 => some (match sq with
      | some x => BitVec.ofNat 32 (x.tail * 65536 + x.head)
      | none => 0)
    | 0x8C => some (match cq with
      | some x => BitVec.ofNat 32 (x.head * 65536 + x.phase.toNat * 4096 + x.tail)
      | none => 0)
    | _ => none

/-- The registers of page CEL that copy the cell's state (R150, R188). -/
def celView (s : State) (c : CellId) (off : Nat) : Option Word :=
  match off with
  | 0x84 => some (celStat s c)
  | 0x88 => some (celRole s c)
  | 0x8C => some (celPc s c)
  | 0x164 => some (suStat s c)
  | 0x170 => some (suCnt s c 0)
  | 0x174 => some (suXfr s c 0)
  | 0x178 => some (suCnt s c 1)
  | 0x17C => some (suXfr s c 1)
  | _ => none

/-- The registers of page MSQ that copy the media's state (R281). -/
def msqView (s : State) (off : Nat) : Option Word :=
  if 0x80 ≤ off ∧ off < 0x90 then some (msqAtt s ((off - 0x80) / 4))
  else if 0x90 ≤ off ∧ off < 0xA0 then some (msqQuiet s ((off - 0x90) / 4))
  else if off = 0xA4 then some (msqGeom s)
  else if off = 0xA8 then some (msqQways s)
  else none

/-- The registers of a page MCH that copy the channel's state (R280). -/
def mchView (s : State) (i off : Nat) : Option Word :=
  if off = 0x84 then some (mchStat s i)
  else if off = 0x98 then some (mchGeom s)
  else if 0xA0 ≤ off ∧ off < 0xC0 then some (mchDie s i ((off - 0xA0) / 4))
  else none

/-- The registers of page KEY that copy the selected slot (R329). -/
def keyView (s : State) (off : Nat) : Option Word :=
  match off with
  | 0x88 => some (keyStat s)
  | 0x90 => some (keySinfo s)
  | 0x94 => some (keySepoch s)
  | 0x98 => some (keySuse0 s)
  | 0x9C => some (keySuse1 s)
  | 0xA0 => some (keySlim s)
  | 0xA4 => some (keySown s)
  | _ => none

/-- The registers of a page DIG that copy the lane and the selected context slot (R330). -/
def digView (s : State) (i off : Nat) : Option Word :=
  if off = 0x84 then some (digStat s i)
  else if off = 0x144 then some (digCtxInfo s i)
  else if 0x180 ≤ off ∧ off < 0x260 then some (digCtxRead s i ((off - 0x180) / 4))
  else none

/-- FUS_SERIAL, FUS_STAT and FUS_BOOT: the serial number and the fuses are the part's; FUS_BOOT copies the slot control record once the
warden runs (R444). -/
def fusView (s : State) (off : Nat) : Option Word :=
  match off with
  | 0x84 => some (Config.serial.setWidth 32)
  | 0x88 => some ((Config.serial >>> 32).setWidth 32)
  | 0x90 => some (Config.fuses.setWidth 32)
  | 0x94 =>
    let r := s.slotRec
    some (if s.start.phase == .off || s.start.phase == .rom then 0
      else BitVec.ofNat 32 (r.flags % 256 * 2 ^ 24 + r.tries % 256 * 2 ^ 16 + r.next % 256 * 2 ^ 8 + r.active % 256))
  | _ => none

/-- SBM_CTRL and SBM_STAT (R412). -/
def sbmView (s : State) (off : Nat) : Option Word :=
  match off with
  | 0x80 => some (setBit (s.reg SBM_CTRL) 9 s.sb.i3c)
  | 0x84 => some (setBits (setBit (s.reg SBM_STAT) 3 (s.host.evid.cap != 0)) 2 0 (min 4 (s.sb.waits.length + s.sb.held.length)))
  | _ => none

/-- PWR_STAT with PERST and PF_D3 (R430). -/
def pwrStatView (s : State) : Word := setBit (setBit (s.reg PWR_STAT) 8 s.host.link.perst) 9 (s.ctrl 0).d3hot

/-- TMP_SVAL: the selected sensor's reading plus 64; selections of no sensor read 0 (R479). -/
def tmpSval (s : State) : Word :=
  let k := s.field? TMP_SSEL 3 0
  if 8 < k then 0 else BitVec.ofNat 32 ((s.power.temps.getD k 0 + 64).toNat % 256)

/-- The registers whose value is not the stored one. -/
def blockView (s : State) (k : Kind) (i page off : Nat) : Option Word :=
  match k with
  | .top => if off = 0x84 then some (s.pages.dtime.setWidth 32)
      else if off = 0x88 then some ((s.pages.dtime >>> 32).setWidth 32) else none
  | .pwr => if off = 0x88 then some (pwrStatView s) else none
  | .clk => if off = 0x88 then some (setBits (s.reg CLK_RUN1) 11 8 (if s.frontUp then 15 else 0)) else none
  | .tmp => if off = 0x8C then some (tmpSval s) else none
  | .evt =>
    if off = 0x84 then some (evtStat s)
    else if 0x100 ≤ off ∧ off < 0x120 then some (evtPend s ((off - 0x100) / 4)) else none
  | .sql =>
    if off = 0x84 then some (sqlStat s)
    else if 0x100 ≤ off ∧ off < 0x120 then some (sqlAct s ((off - 0x100) / 4)) else none
  | .fus => fusView s off
  | .hif => hifView s off
  | .nvq => nvqView s i off
  | .vfm => vfmView s off
  | .adm => if off = 0x90 then some (sliceView s) else if off = 0xA4 then some (cvalView s) else none
  | .cel => if h : i < 41 then celView s ⟨i, h⟩ off else none
  | .fab => if off = 0x84 then some (rentRead s) else if off = 0x88 then some (fabStat s) else none
  | .cdc => if off = 0x84 then some (cdcStat s i) else none
  | .mch => mchView s i off
  | .msq => msqView s off
  | .red => if off = 0x88 then some (redStat s) else if off = 0xA4 then some (redRate s) else none
  | .src => if off = 0x84 then some (srcStat s) else none
  | .srb => if off = 0x84 then some (srbStat s i) else none
  | .key => keyView s off
  | .cip => if off = 0x84 then some (cipStat s i) else none
  | .dig => digView s i off
  | .dch => if off = 0x94 then some (dlyRead s i) else none
  | .fch => if off = 0x94 then some (wmaskRead s i) else none
  | .sbm => sbmView s off
  | .vmb | .vad | .vtp => windowView s page off
  | .rst | .adl | .drc | .fcv | .frl => none

/-- What a register of a page reads, without the effects of reading it: EV_PENDING and PG_STAT are computed, the locked Squall area reads
0 (R463), write-only and reserved bits read 0 (R9). -/
def State.view (s : State) (page off : Nat) : Word :=
  match kindOf page, regDef page off with
  | some (k, i), some d =>
    let v :=
      if off = 0xC then s.pgStat page
      else if off = 0x28 then s.evPending page
      else if inSquall off && s.squallHolder.isNone then 0
      else (blockView s k i page off).getD (s.reg (page * 4096 + off))
    v &&& (d.ro ||| d.rw ||| d.w1c ||| d.w1s)
  | _, _ => 0

/-! ## Reading -/

/-- The high word that a read of its low word latched for a master, once (R41, R42, R316). -/
def State.takeLatch (s : State) (page off : Nat) (m : Master) : Option Word × State :=
  match s.pages.latches.find? fun l => l.page == page && l.off == off && l.master == m with
  | none => (none, s)
  | some l => (some l.val, { s with pages := { s.pages with latches := s.pages.latches.erase l } })

/-- The low words whose read latches the word after them: joined counters, TOP_DTIME_LO and KEY_SUSE0. -/
def latchLow (k : Kind) (off : Nat) : Bool :=
  (k == .top && off == 0x84) || (k == .key && off == 0x98) ||
    (match counterAt k off with
     | some j => (joinedSlots k).contains j
     | none => false)

/-- A read of a register by a master with the effects of reading it: a window advances, a low word latches its high word. -/
def State.readReg (s : State) (m : Master) (page off : Nat) : Word × State :=
  match kindOf page with
  | none => (0, s)
  | some (k, i) =>
    if latchLow k off then (s.view page off, s.latch page (off + 4) m (s.view page (off + 4)))
    else match s.takeLatch page off m with
    | (some v, s) => (v, s)
    | (none, s) =>
      match k, off with
      | .mch, 0x8C => (usdataView s i, s.usNext i)
      | .cel, 0xA4 => if h : i < 41 then imRead ⟨i, h⟩ s else (0, s)
      | .cel, 0xB8 => if h : i < 41 then dmRead ⟨i, h⟩ s else (0, s)
      | .cel, 0xC8 => if h : i < 41 then rvalRead ⟨i, h⟩ s else (0, s)
      | _, _ => (s.view page off, s)

/-- A read of a page word through the common rules: its value, or how it was refused. -/
def State.readPage (s : State) (m : Master) (page off : Nat) (width : Nat := 32) : (Word ⊕ BusReply) × State :=
  let s := s.arrive m
  match s.checkAccess m page off width true 0 with
  | .stop s r => (.inr r, s)
  | .pass _ => let (v, s) := s.readReg m page off; (.inl v, s)

/-- A read with its answer. -/
def State.answerPage (s : State) (m : Master) (page off : Nat) : State :=
  match s.readPage m page off with
  | (.inl v, s) => s.answerRead m page v
  | (.inr r, s) => s.reply m r

/-- A read of a counter slot (R41): the low word of a joined counter latches the high word for the same master, whose next read of the
high word returns it. -/
def execCounterLowRead (m : Master) (page slot : Nat) (s : State) : Answer := .next (s.answerPage m page (slotOff slot))

/-- A read of TOP_DTIME_LO latches TOP_DTIME_HI for the same master (R42). -/
def execTopDtimeLoRead (m : Master) (s : State) : Answer := .next (s.answerPage m 0 0x84)

end Sys2Proof.Machine
end

