-- ==== Sys2Proof/Machine/PageWrite.lean ====
section
/-!
DEFINITION. What a write of every register of a page does: the conditions of its block's table and its effect (R9, R33 and the chapters).
-/

namespace Sys2Proof.Machine

/-- A write of EV_ENABLE: a source whose raw bit is already 1 becomes pending at once (R36). -/
def enableEffect (page : Nat) (v : Word) (d : RegDef) (s : State) : State :=
  let was := s.evPending page
  let low := s.alertLevel
  let s := s.store (EV_ENABLE page) v d
  let n := bitCount (s.evPending page &&& ~~~was)
  if n = 0 then (if low && !s.alertLevel then s.emit (.sidebandAlert false) else s)
  else match s.signal page n with
    | (s, false) => s
    | (s, true) => s.count 0x005 8 n

/-- A write of MCH_CTRL by itself: what a STEP finds on the bus is left open (log 5). -/
def mchCtrlPlain (ch : Nat) (v : Word) (d : RegDef) (s : State) : State :=
  if bit v 1 then
    let (x, s) := s.free
    mchCtrlEffect ch v (x.getLsbD 0) ((x >>> 8).setWidth 8) [(x >>> 16).setWidth 8, (x >>> 24).setWidth 8] d s
  else mchCtrlEffect ch v false 0 [] d s

/-- A write of CEL_STAT: DBLTRAP is cleared by 1 (R150). -/
def celStatWrite (c : CellId) (v : Word) (s : State) : State :=
  if bit v 3 then s.modCell c fun k => k.modRun fun r => { r with dbl := false } else s

/-- The condition of a block's table on a write of one of its registers, by offset. -/
def blockCond (k : Kind) (i : Nat) (m : Master) (off : Nat) (v : Word) : State → Option State :=
  match k with
  | .adm => if off = 0x90 then sliceCond m v else if off = 0xA4 then cvalCond m v else noCond
  | .cel =>
    if h : i < 41 then
      let c : CellId := ⟨i, h⟩
      if off = 0x80 then scrubCond m c v
      else if off = 0x90 then dwinCond m c v
      else if off = 0xA4 then heldCond m c 0xA4 v
      else if off = 0xB8 then dmCond m c v
      else if off = 0xC8 then rvalCond m c v
      else if 0x100 ≤ off ∧ off < 0x160 then descCond m c off v
      else noCond
    else noCond
  | .cdc => if off = 0x80 then cdcCtrlCond m i v else noCond
  | .fab => if off = 0x84 then rentCond m v else noCond
  | .msq => if off = 0xA0 then msqCtrlCond m v else if off = 0x600 then mcCtrlCond m v else noCond
  | .red => if off = 0x84 then redFailCond m v else noCond
  | .mch =>
    if off = 0x80 then mchCtrlCond m i v
    else if off = 0x8C then usdataCond m i v
    else if off = 0x90 ∨ off = 0x94 then waymapCond m i off v
    else noCond
  | .srb => if off = 0x80 then srbCtrlCond m i v else noCond
  | .src =>
    if off = 0x80 then srcCtrlCond m v
    else if off = 0x88 then shbaseCond m v
    else if off = 0x8C then srcCmdCond m v
    else noCond
  | .cip => if off = 0x88 then ccmLimCond m i v else noCond
  | .dig =>
    if off = 0x80 then digCtrlCond m i v
    else if 0x180 ≤ off ∧ off < 0x260 then digCtxCond m i off v
    else noCond
  | .key => if off = 0xA0 ∨ off = 0xA4 then slotWinCond m off v else noCond
  | .drc => if off = 0x80 then drcCtrlCond m v else if off = 0x88 then armCond m v else noCond
  | .dch => if off = 0x94 then dlyCond m i v else noCond
  | .fch =>
    if off = 0x80 then fchCtrlCond m i v
    else if off = 0x94 then wmaskCond m i v
    else if off = 0x98 then wdisCond m i v
    else if off = 0xA0 then wopCond m i v
    else noCond
  | .fcv => if off = 0x88 then mopCond m v else noCond
  | .vfm =>
    if 0x88 ≤ off ∧ off ≤ 0xA4 then shareCond m off v
    else if 0xC0 ≤ off ∧ off ≤ 0xD0 then dpCond m off v
    else noCond
  | .frl => if off = 0xC0 ∨ (0x100 ≤ off ∧ off < 0x134) then frlMsgCond m off v else noCond
  | .pwr => if off = 0x80 then pwrCtrlCond m v else if off = 0x84 then pwrReqCond m v else noCond
  | .rst => if off = 0x84 then rstCtrlCond m v else noCond
  | .sql => if off = 0x80 then sqlCond m v else noCond
  | .top | .clk | .tmp | .evt | .fus | .hif | .nvq | .adl | .sbm | .vmb | .vad | .vtp => noCond

/-- What a write of a block register does, by offset; every other register takes the value under its access codes (R9). -/
def blockEffect (k : Kind) (i page : Nat) (m : Master) (off : Nat) (v : Word) (d : RegDef) : State → State :=
  let plain := State.store (page * 0x1000 + off) v d
  match k with
  | .adm =>
    if off = 0x80 then admCtrlEffect v d
    else if off = 0x90 then sliceWrite v
    else if off = 0xA4 then cvalWrite v
    else plain
  | .adl => if off = 0x80 then snapEffect v else plain
  | .cel =>
    if h : i < 41 then
      let c : CellId := ⟨i, h⟩
      if off = 0x80 then celCtrlEffect c v
      else if off = 0x84 then celStatWrite c v
      else if off = 0xA4 then imWrite c v
      else if off = 0xB8 then dmWrite c v
      else if off = 0xC8 then rvalWrite c v
      else if off = 0x160 then suCmdEffect m c v
      else plain
    else plain
  | .cdc => if off = 0x80 then cdcCtrlEffect i v d else plain
  | .fab => if off = 0x84 then rentWrite v else if off = 0x8C then (fun s => if bit v 0 then s.reloadWarden else s) else plain
  | .msq => if off = 0x628 then mcRefreshWrite v else plain
  | .red => if off = 0x80 then redCtrlEffect v d else if off = 0x84 then redFailEffect v else plain
  | .mch => if off = 0x80 then mchCtrlPlain i v d else if off = 0x8C then usdataEffect i v d else plain
  | .srb => if off = 0x80 then srbCtrlEffect i v else plain
  | .src => if off = 0x8C then srcCmdEffect v else plain
  | .cip => if off = 0x80 then cipCtrlEffect i v d else plain
  | .dig => if 0x180 ≤ off ∧ off < 0x260 then digCtxWrite i ((off - 0x180) / 4) v else plain
  | .key =>
    if off = 0x84 then keyCmdWrite m v
    else if off = 0xA0 then slimWrite v
    else if off = 0xA4 then sownWrite v
    else if 0x140 ≤ off then wrapWrite ((off - 0x140) / 4) v
    else plain
  | .drc => if off = 0x88 then rtEffect v else plain
  | .dch => if off = 0x94 then dlyWrite i v else plain
  | .fch =>
    if off = 0x94 then wmaskEffect i v
    else if off = 0x98 then wdisEffect i v
    else if off = 0xA0 then wopEffect i v
    else plain
  | .fcv => if off = 0x88 then mopEffect v else plain
  | .vfm =>
    if off = 0x80 then vfmSelEffect v d
    else if off = 0xA4 then (fun s => if bit v 0 then applyEffect m v s else s)
    else if off = 0xC0 then dpCtrlEffect v
    else if 0xC4 ≤ off ∧ off ≤ 0xD0 then dpEffect off v
    else if 0x140 ≤ off ∧ off < 0x180 then mboutWrite off v
    else if off = 0x180 then mbdbEffect m v
    else plain
  | .vmb => if off = 0x180 then vmbDbEffect m ((page - 0x1000) / 16) v else plain
  | .frl => if off = 0x80 then frlCtrlEffect v d else if off = 0xC0 then frlMsgEffect m v d else plain
  | .pwr => if off = 0x80 then pwrCtrlEffect v d else if off = 0x84 then pwrReqEffect v else plain
  | .rst => if off = 0x84 then rstCtrlEffect v else plain
  | .evt => if off = 0x80 then evtCtrlEffect v d else if off = 0x88 then evtAlarmEffect v else plain
  | .sql => if off = 0x80 then sqlEffect m v else plain
  | .top | .clk | .tmp | .fus | .hif | .nvq | .sbm | .vad | .vtp => plain

/-- Whether an offset is one of the controls of the Squall area but SQ_FORCE (R463). -/
def isControl (off : Nat) : Bool := decide (0xE00 ≤ off ∧ off ≤ 0xE10)

/-- The conditions of a register of a page beyond the common rules. -/
def pageCond (page : Nat) (m : Master) (off : Nat) (v : Word) : State → Option State :=
  match kindOf page with
  | none => noCond
  | some (k, i) =>
    if off = 0x10 then ownerCond m page v
    else if isControl off then controlCond m page off v
    else if 0x80 ≤ off ∧ off < 0xD00 then blockCond k i m off v
    else noCond

/-- What a write of a register of a page does. -/
def pageEffect (page : Nat) (m : Master) (off : Nat) (v : Word) (d : RegDef) : State → State :=
  match kindOf page with
  | none => id
  | some (k, i) =>
    if 0x80 ≤ off ∧ off < 0xD00 then blockEffect k i page m off v d
    else if 0xF08 ≤ off then clearCounter page ((off - 0xF08) / 4) v
    else if isControl off then controlEffect page off v d
    else match off with
      | 0x08 => rearmCapture page v
      | 0x24 => enableEffect page v d
      | 0x2C => fun s => s.raiseMask page v
      | 0x30 => clearRaw page v
      | 0x34 => routeEffect page v d
      | 0xE20 => forceEffect m page v
      | 0xD04 => mpCorrWrite page v
      | 0xD28 => mpClear page v
      | _ => State.store (page * 0x1000 + off) v d

/-- A write of any page register by any master (R33). -/
def State.writePage (s : State) (m : Master) (page off width : Nat) (v : Word) : State × BusReply :=
  s.write m page off width v (pageCond page m off v) (pageEffect page m off v)

/-- REGISTER_WRITE. -/
def execRegisterWrite (m : Master) (page off width : Nat) (v : Word) (s : State) : Answer :=
  .next (s.writePage m page off width v).1

/-! ## Fabric loads and stores of a cell (R130 to R132, R171) -/

/-- What a fabric address names: a byte of usable DRAM through CEL_DWIN, a page and an offset, or nothing (R130). -/
inductive FabricTarget where
  | dram (a : Nat)
  | page (p off : Nat)
  | nothing
  deriving DecidableEq, Repr

/-- R130 for a cell. -/
def State.target (s : State) (c : CellId) (a : Nat) : FabricTarget :=
  if a < 0xE0000000 then
    let d := s.field? (CEL_DWIN c.val) 5 0 * 0x10000000 + a
    if lineCount * 128 ≤ d then .nothing else .dram d
  else if 0xF0000000 ≤ a ∧ a < 0xF1000000 then .page (a / 0x1000 % 0x1000) (a % 0x1000)
  else .nothing

/-- The master that a cell is at a page (R28). -/
def cellMaster (c : CellId) : Master := if h : c.val < 40 then .cell ⟨c.val, h⟩ else .warden

/-- The node behind which a page lies (R180). -/
def pageNode (page : Nat) : Nat := if page ≤ 7 ∨ page = 0xF0 ∨ page = 0xF8 then 0x54 else 0x5C

/-- The last answer that a requester's port gave for an address, and the state without it. -/
def State.takeServed (s : State) (id addr : Nat) : Option (Served × State) :=
  match s.dram.served.reverse.find? fun r => r.id == id && r.addr == addr with
  | none => none
  | some r => some (r, { s with dram := { s.dram with served := (s.dram.served.reverse.erase r).reverse } })

/-- A new load takes no answer that an earlier access of its requester got (R171). -/
def State.dropServed (s : State) (id addr : Nat) : State :=
  { s with dram := { s.dram with served := s.dram.served.filter fun r => !(r.id == id && r.addr == addr) } }

/-- An access of a cell to one aligned word of DRAM. -/
def wordAccess (d : Nat) (write : Option Word) : Access :=
  { n := d / 128, off := d % 128, len := 4, cls := 0, write := write.map wordBytes }

/-- A fabric access that traps BUSACC: DETAIL holds the low 16 bits of the address (R131). -/
def busacc (a : Nat) : Body := .fault 9 (a % 65536)

/-- The word that a load has received: POISON when its line was poisoned (R334). -/
def loadedWord (tag : BitVec 4) (r : Served) : TWord := if r.pois then ⟨tPoison, 0⟩ else ⟨tag, leWord r.data⟩

/-- Taking the word a load waits for into its register; the core waits while there is none. -/
def takeLoad (c : CellId) (addr : Nat) (tag : BitVec 4) (rd : Reg) (s : State) : Body :=
  match s.takeServed c.val addr with
  | none => .stall .fabric s
  | some (r, s) => .done (s.setW c rd (loadedWord tag r))

/-- The key under which the word of a page waits for a load, apart from every address of DRAM. -/
def pageKey (a : Nat) : Nat := 2 ^ 40 + a

/-- A load from a page: the page answers, held for SQ_DELAY, or the access is refused (R131, R463). -/
def loadPage (c : CellId) (a p off : Nat) (tag : BitVec 4) (rd : Reg) (s : State) : Body :=
  match s.readPage (cellMaster c) p off with
  | (.inr _, s) => .refused s 9 (a % 65536) 0
  | (.inl v, s) =>
    takeLoad c (pageKey a) tag rd (s.deliver p (.served { id := c.val, addr := pageKey a, data := wordBytes v, pois := false }))

/-- A load from DRAM: a hit delivers the word at once, a miss waits for its line (R171, R351). A port that does not accept the access, or a
region that is not filled, leaves the load to issue again. -/
def loadDram (c : CellId) (d : Nat) (tag : BitVec 4) (rd : Reg) (s : State) : Body :=
  if !s.regionFilled d then .stall .none (s.awaitFill d 1)
  else match s.access c.val (wordAccess d none) with
    | none => .stall .none s
    | some s => takeLoad c d tag rd s

/-- FLD (R171): a load whose request is out waits for its word; a new one is made under R131. -/
def execFld (i : Iss) (tg : BitVec 2) (rd ra : Reg) (s : State) : Answer :=
  s.issue i (opWord 0x9 tg rd ra) fun s =>
    let c := i.cell
    let k := s.cell c
    let x := k.reg ra
    let a := x.val.toNat
    need x 1 isIdx
      (if pmode k = true then busacc a
       else match s.target c a with
         | .nothing => busacc a
         | .dram d =>
           if a % 4 ≠ 0 then busacc a
           else if k.run.stall = .fabric then takeLoad c d (fldTag tg) rd s
           else if !s.pageOn 0xE8 then busacc a
           else if !s.cellRoute c (0x58 + lineSlice (d / 128)) then .stall .fabric s.routeDrop
           else loadDram c d (fldTag tg) rd (s.dropServed c.val d)
         | .page p off =>
           if k.run.stall = .fabric then takeLoad c (pageKey a) (fldTag tg) rd s
           else if !s.cellRoute c (pageNode p) then .stall .fabric s.routeDrop
           else loadPage c a p off (fldTag tg) rd (s.dropServed c.val (pageKey a)))

/-- A store to DRAM is posted; one that the port does not accept issues again. -/
def storeDram (c : CellId) (d : Nat) (v : Word) (s : State) : Body :=
  if !s.regionFilled d then .stall .none (s.awaitFill d 1)
  else match s.access c.val (wordAccess d (some v)) with
    | none => .stall .none s
    | some s => .ok s 2 none

/-- A store to a page, or its refusal (R131). A store by which the warden reloads itself ends at the reloaded PC (R191). -/
def storePage (c : CellId) (a p off : Nat) (v : Word) (s : State) : Body :=
  match s.writePage (cellMaster c) p off 32 v with
  | (t, .ok) => .ok t 2 (if (t.cell c).run.gen = (s.cell c).run.gen then none else some (t.cell c).pc)
  | (s, _) => .refused s 9 (a % 65536) 0

/-- FST (R132, R171). -/
def execFst (i : Iss) (rs ra : Reg) (s : State) : Answer :=
  s.issue i (opWord 0xB 2 rs ra) fun s =>
    let c := i.cell
    let k := s.cell c
    let w := k.reg rs
    let x := k.reg ra
    let a := x.val.toNat
    need2 w isOut x isIdx
      (if pmode k = true then busacc a
       else match s.target c a with
         | .nothing => busacc a
         | .dram d =>
           if a % 4 ≠ 0 ∨ !s.pageOn 0xE8 then busacc a
           else if !s.cellRoute c (0x58 + lineSlice (d / 128)) then .ok s.routeDrop 2 none
           else storeDram c d w.val s
         | .page p off =>
           if !s.cellRoute c (pageNode p) then .ok s.routeDrop 2 none else storePage c a p off w.val s)

/-! ## Fabric transactions that reach their target node (R180, R184, log 26) -/

/-- The requester that a node is at the fabric cache (R345); none for a node that holds no requester ID of its own. -/
def nodeRequester (n : Nat) : Option Nat :=
  if n < 40 then some n
  else match n with
    | 0x50 => some 41
    | 0x51 => some 59
    | 0x52 => some 57
    | 0x53 => some 58
    | 0x54 => some 61
    | _ => none

/-- The master that a node is at a page: a cell, the warden behind the bridge, the PF behind the host interface. -/
def nodeMaster (n : Nat) : Option Master :=
  if h : n < 40 then some (.cell ⟨n, h⟩)
  else if n = 0x54 then some .warden
  else if n = 0x50 then some .pf
  else none

/-- The page and offset of a transaction for a page bus, when that bus holds the page. -/
def flitPage (f : Flit) : Option (Nat × Nat) :=
  let a := f.aux.toNat % 0x1000000
  if pageNode (a / 0x1000) = f.dst then some (a / 0x1000, a % 0x1000) else none

/-- The cache access of a transaction for a slice: its bytes lie in one line of usable DRAM that the slice serves. -/
def flitAccess (f : Flit) (write : Bool) : Option Access :=
  let a := f.aux.toNat
  let len := f.nb % 64 + 1
  if f.dst = 0x58 + lineSlice (a / 128) ∧ a % 128 + len ≤ 128 ∧ a / 128 < lineCount then
    some { n := a / 128, off := a % 128, len := len, cls := f.cls % 4,
           write := if write then some (sub f.payload 0 len) else none }
  else none

/-- A transaction at a cache slice: accepted, or sent again later. -/
def State.flitDram (s : State) (f : Flit) (write : Bool) : State :=
  match nodeRequester f.src, flitAccess f write with
  | some id, some a => if s.regionFilled f.aux.toNat then (s.access id a).getD s else s.awaitFill f.aux.toNat 1
  | _, _ => s

/-- FABRIC_READ_REQUEST: a slice serves the requester's port; a page answers with a KIND 3 response, or refuses the read. -/
def execFabricReadRequest (f : Flit) (s : State) : Answer :=
  .next (s.onMesh { f with kind := 2 } fun s =>
    match nodeMaster f.src, flitPage f with
    | some m, some (p, off) =>
      (match s.readPage m p off (8 * (f.nb % 64 + 1)) with
       | (.inl v, s) => s.deliver p (.out (.flit f.src f.dst f.cls 3 0 0 0 true false (wordBytes v)))
       | (.inr _, s) => s)
    | _, _ => s.flitDram f false)

/-- FABRIC_WRITE: a word for a page, or the bytes of a line. -/
def execFabricWrite (f : Flit) (s : State) : Answer :=
  .next (s.onMesh { f with kind := 4 } fun s =>
    match nodeMaster f.src, flitPage f with
    | some m, some (p, off) => (s.writePage m p off (8 * (f.nb % 64 + 1)) (leWord (sub f.payload 0 4))).1
    | _, _ => s.flitDram f true)

end Sys2Proof.Machine
end

