-- ==== Sys2Proof/Machine/Sideband.lean ====
section
/-!
DEFINITION. The side-band management port (19): what it receives and in which power condition it serves it (R404, R406, R407, R412), MCTP control
(R406), NVMe-MI (R408), the vendor message set (R409, R410), SQUALL requests (R462) and the warden's health copy (R411).
-/

namespace Sys2Proof.Machine

/-! ## Receiving (R406, R407, R412) -/

/-- Whether the port answers: the warden or its ROM runs and SBM_CTRL.ENABLE is 1. -/
def State.portOn (s : State) : Bool := s.start.phase != .off && s.regBit SBM_CTRL 8

/-- Whether the warden is in its ROM (R437). -/
def State.inRom (s : State) : Bool := s.start.phase == .rom

/-- Whether the main side is up, out of reset, and in Gale or Breeze. -/
def State.mainAwake (s : State) : Bool :=
  (s.start.phase == .evReady || s.start.phase == .full) && decide (s.field? PWR_STAT 2 0 ≤ 1)

/-- A response of the port (log 40). -/
def State.sbOut (s : State) (r : SbReq) (bs : List Byte) : State := s.deliver 0x0F8 (.out (.sideband r.eid bs))

/-- An MCTP control response: the request bit cleared, the command, the completion code. -/
def State.mctpAnswer (s : State) (r : SbReq) (cc : Byte) (data : List Byte) : State :=
  s.sbOut r ([r.body.getD 0 0 &&& 0x7F, r.body.getD 1 0, cc] ++ data)

/-- An NVMe-MI response: the response bit set, the status, three bytes of management response. -/
def State.miAnswer (s : State) (r : SbReq) (st : Byte) (resp : Nat) (data : List Byte) : State :=
  s.sbOut r ([r.body.getD 0 0 ||| 0x80, 0, 0, st] ++ leBytes 3 resp ++ data)

/-- OP and TAG of a vendor request (R409). -/
def SbReq.op (r : SbReq) : Nat := (r.body.getD 0 0).toNat
def SbReq.vtag (r : SbReq) : Byte := r.body.getD 1 0

/-- A vendor response with a STATUS (R409). -/
def State.vAnswer (s : State) (r : SbReq) (st : Nat) (data : List Byte) : State := s.sbAnswer r.eid r.vtag (r.body.getD 0 0) st data

/-- The answer to a fifth request (R407, log 40): BUSY; ERROR_NOT_READY for control and Internal Error for NVMe-MI. -/
def State.sbBusy (s : State) (r : SbReq) : State :=
  if r.type = 0 then s.mctpAnswer r 4 [] else if r.type = 4 then s.miAnswer r 2 0 [] else s.vAnswer r 4 []

/-- The tag by which a request is known. -/
def SbReq.key (r : SbReq) : Byte := if r.type = 4 then r.tag else r.vtag

/-- A request arrives: one whose PEC or integrity check fails is counted and dropped; a tag carries one request at a time; a fifth request
held is answered with BUSY; and while the warden itself is being reassigned a request is held (R407). -/
def State.sbTake (s : State) (r : SbReq) (mine : Bool) (serve : State → State) : Answer :=
  if !s.portOn || !mine || decide (1024 < r.body.length) then .next s
  else
    let s := s.startWosc
    if !r.chk then .next (s.count 0x0F8 4 1)
    else if (s.sb.waits.any fun w => w.eid == r.eid && w.tag == r.key) || s.sb.held.any fun w => w.eid == r.eid && w.key == r.key then .next s
    else if s.moving 40 && decide (s.sb.waits.length + s.sb.held.length < 4) then
      .next { s with sb := { s.sb with held := s.sb.held ++ [r] } }
    else
      let s := s.count 0x0F8 2 1
      .next (if 4 ≤ s.sb.waits.length + s.sb.held.length then s.sbBusy r else serve s)

/-- A request is held for a main-side cell or the field die. OP 0 stands for an NVMe-MI request. -/
def State.sbHold (s : State) (eid tag op : Byte) : State :=
  { s with sb := { s.sb with waits := s.sb.waits ++ [{ eid := eid, tag := tag, op := op, since := s.pages.dtime }] } }

/-- A request that needs a main-side cell (R412): served in Gale and Breeze, held while no cell answers, else not ready. -/
def State.sbMain (s : State) (serve hold notReady : State → State) : State :=
  if s.mainAwake then (if s.sb.state6 then hold s else serve s) else notReady s

/-! ## Physical layer (R404) -/

/-- ENTDAA: with SB_MODE I3C the port takes its dynamic address once. -/
def execEntdaa (addr : BitVec 7) (s : State) : Answer :=
  if s.portOn && s.sb.i3c && addr != 0 && decide (s.field? SBM_STAT 22 16 = 0) then
    .next (s.startWosc.setField SBM_STAT 22 16 addr.toNat)
  else .next s

/-! ## MCTP control (R406) -/

/-- A control command with a code. -/
def State.mctp (s : State) (r : SbReq) (code : Byte) (serve : State → State) : Answer :=
  s.sbTake r (r.type == 0 && r.body.getD 1 0 == code) serve

/-- SET_ENDPOINT_ID: Set and Force take an identifier from the bus owner; Reset and Set Discovered are not offered, and 00h and FFh are no
endpoint's identifiers. -/
def execSetEndpointId (r : SbReq) (s : State) : Answer :=
  s.mctp r 1 fun s =>
    let e := r.body.getD 3 0
    if r.body.length ≠ 4 then s.mctpAnswer r 3 []
    else if 1 < (r.body.getD 2 0).toNat ∨ e = 0 ∨ e = 0xFF then s.mctpAnswer r 2 []
    else (s.setField SBM_CTRL 7 0 e.toNat).mctpAnswer r 0 [0, e, 0]

/-- GET_ENDPOINT_ID. -/
def execGetEndpointId (r : SbReq) (s : State) : Answer :=
  s.mctp r 2 fun s => s.mctpAnswer r 0 [BitVec.ofNat 8 (s.field? SBM_CTRL 7 0), 0, 0]

/-- GET_MCTP_VERSION_SUPPORT: base and control 1.3, NVMe-MI 1.2; other types have none. -/
def execGetMctpVersionSupport (r : SbReq) (s : State) : Answer :=
  s.mctp r 4 fun s =>
    match (r.body.getD 2 0).toNat with
    | 0xFF | 0x00 => s.mctpAnswer r 0 [1, 0xF1, 0xF3, 0xF0, 0x00]
    | 0x04 => s.mctpAnswer r 0 [1, 0xF1, 0xF2, 0xF0, 0x00]
    | _ => s.mctpAnswer r 0x80 []

/-- GET_MESSAGE_TYPE_SUPPORT: the three types of R406. -/
def execGetMessageTypeSupport (r : SbReq) (s : State) : Answer := s.mctp r 5 fun s => s.mctpAnswer r 0 [3, 0x00, 0x04, 0x7E]

/-- GET_VENDOR_DEFINED_MESSAGE_SUPPORT: one set, by the PCI vendor identifier. -/
def execGetVendorDefinedMessageSupport (r : SbReq) (s : State) : Answer :=
  s.mctp r 6 fun s =>
    if r.body.getD 2 0 = 0 then
      s.mctpAnswer r 0 [0xFF, 0, (Config.pciVendor >>> 8).setWidth 8, Config.pciVendor.setWidth 8, 0, 0]
    else s.mctpAnswer r 2 []

/-- UNSUPPORTED_MCTP_MESSAGE: another control command is answered with ERROR_UNSUPPORTED_CMD; a type that is not served is dropped and counted. -/
def execUnsupportedMctpMessage (r : SbReq) (s : State) : Answer :=
  if r.type = 0 then s.sbTake r (decide (2 ≤ r.body.length) && !([1, 2, 4, 5, 6].contains (r.body.getD 1 0).toNat)) fun s => s.mctpAnswer r 5 []
  else if r.type = 4 ∨ r.type = 0x7E then .next s
  else if s.portOn then .next (s.startWosc.count 0x0F8 4 1)
  else .next s

/-! ## NVMe-MI (R408, log 40) -/

/-- The composite temperature as the standard's byte gives it, in °C. -/
def ctempByte (kelvin : Nat) : Byte :=
  let t : Int := kelvin - 273
  if 126 < t then 0x7F else if t < -59 then 0xC4 else BitVec.ofInt 8 t

/-- Composite temperature, Percentage Used and critical warning of the warden's copy. -/
def State.copyTemp (s : State) : Nat := fld s.sb.health 8 2
def State.copyUsed (s : State) : Byte := s.sb.health.getD 4 0
def State.copyWarn (s : State) : Byte := s.sb.health.getD 6 0

/-- The status bits that the basic management command and the subsystem poll share: drive functional, reset not required, link active. -/
def State.miFlags (s : State) : Nat := (!s.sb.state6).toNat * 32 + 16 + s.host.link.up.toNat * 8

/-- BASIC_MANAGEMENT_COMMAND: with SMBus, data structure offset 0, from the warden's copy. The request carries no MCTP
header, and its type stands as 0. -/
def execBasicManagementCommand (r : SbReq) (s : State) : Answer :=
  s.sbTake r (!s.sb.i3c && r.type == 0 && r.body == [0]) fun s =>
    s.sbOut r [6, BitVec.ofNat 8 (128 + (!s.mainAwake).toNat * 64 + s.miFlags + 3), ~~~s.copyWarn, ctempByte s.copyTemp, s.copyUsed, 0, 0]

/-- An NVMe-MI message of a kind: 1 a management command, 2 a tunnelled admin command; its opcode; its two management dwords. -/
def SbReq.miKind (r : SbReq) : Nat := (r.body.getD 0 0).toNat / 8 % 16
def SbReq.miOp (r : SbReq) : Nat := (r.body.getD 3 0).toNat
def SbReq.nmd0 (r : SbReq) : Word := leWord (sub r.body 7 4)
def SbReq.nmd1 (r : SbReq) : Word := leWord (sub r.body 11 4)

/-- An NVMe-MI management command with an opcode. -/
def State.mi (s : State) (r : SbReq) (op : Nat) (serve : State → State) : Answer :=
  s.sbTake r (r.type == 4 && r.miKind == 1 && r.miOp == op) fun s =>
    s.sbMain serve (fun s => s.sbHold r.eid r.tag 0) fun s => s.miAnswer r 2 0 []

/-- READ_NVME_MI_DATA_STRUCTURE. -/
def execReadNvmeMiDataStructure (r : SbReq) (s : State) : Answer :=
  s.mi r 0 fun s =>
    let d := sub (Config.standardData "NVME_MI" r.nmd0.toNat 32) 0 32
    s.miAnswer r 0 d.length d

/-- NVM_SUBSYSTEM_HEALTH_STATUS_POLL. -/
def execNvmSubsystemHealthStatusPoll (r : SbReq) (s : State) : Answer :=
  s.mi r 1 fun s => s.miAnswer r 0 0 [BitVec.ofNat 8 s.miFlags, ~~~s.copyWarn, ctempByte s.copyTemp, s.copyUsed, 0, 0, 0, 0]

/-- CONTROLLER_HEALTH_STATUS_POLL: the controllers from the first one named on. -/
def execControllerHealthStatusPoll (r : SbReq) (s : State) : Answer :=
  s.mi r 2 fun s =>
    let first := bits r.nmd0 15 0
    let n := bits r.nmd0 23 16 + 1
    let fs := ((List.range 16).filter fun f => decide (first ≤ f) && s.fnExists f).take n
    let d := fs.flatMap fun f =>
      let c := s.ctrl (Fin.ofNat 16 f)
      leBytes 2 f ++ leBytes 2 (bits c.csts 5 0) ++ leBytes 2 s.copyTemp ++
        [s.copyUsed, s.sb.health.getD 5 0, s.copyWarn] ++ List.replicate 7 0
    s.miAnswer r 0 (fs.length * 65536) d

/-- CONFIGURATION_GET: the SMBus frequency and the transmission unit of port 0. -/
def execConfigurationGet (r : SbReq) (s : State) : Answer :=
  s.mi r 4 fun s =>
    match bits r.nmd0 7 0 with
    | 1 => if s.sb.i3c then s.miAnswer r 4 0 [] else s.miAnswer r 0 s.sb.freq []
    | 3 => s.miAnswer r 0 64 []
    | _ => s.miAnswer r 4 0 []

/-- CONFIGURATION_SET: frequencies 1 to 3 (100 kHz, 400 kHz, 1 MHz); a transmission unit other than 64 is Invalid Parameter. -/
def execConfigurationSet (r : SbReq) (s : State) : Answer :=
  s.mi r 3 fun s =>
    match bits r.nmd0 7 0 with
    | 1 =>
      let f := bits r.nmd0 11 8
      if s.sb.i3c ∨ f = 0 ∨ 3 < f then s.miAnswer r 4 0 []
      else ({ s with sb := { s.sb with freq := f } } : State).miAnswer r 0 0 []
    | 3 => s.miAnswer r (if bits r.nmd1 15 0 = 64 then 0 else 4) 0 []
    | _ => s.miAnswer r 4 0 []

/-- VPD_READ: bytes of the VPD in the boot NOR. -/
def execVpdRead (r : SbReq) (s : State) : Answer :=
  s.mi r 5 fun s =>
    let off := bits r.nmd0 15 0
    let len := bits r.nmd1 15 0
    if s.start.nor.vpd.length < off + len ∨ 1017 < len then s.miAnswer r 4 0 []
    else s.miAnswer r 0 0 (sub s.start.nor.vpd off len)

/-- The admin command that a tunnel request carries. -/
def SbReq.tunnelled (r : SbReq) : NvmeCmd :=
  let w := fun k => leWord (sub r.body (7 + 4 * (k - 1)) 4)
  { fn := Fin.ofNat 16 (fld r.body 5 2), sqid := 0, cid := 0, opc := r.body.getD 3 0, nsid := (w 1).toNat, cdw2 := w 2, cdw3 := w 3,
    cdw10 := w 10, cdw11 := w 11, cdw12 := w 12, cdw13 := w 13, cdw14 := w 14, cdw15 := w 15, dptr := .prp [], fused := false,
    mptr := false, data := [], xfer := true, fetch := true, poison := false }

/-- What a tunnelled Identify, Get Log Page or Get Features returns: status, data, and the state after it. -/
def State.tunnel (s : State) (c : NvmeCmd) : Status × List Byte × State :=
  match c.opc.toNat with
  | 0x06 => match s.identifyData c with
    | .error st => (st, [], s)
    | .ok bs => (stOk, bs, s)
  | 0x02 =>
    let lid := bits c.cdw10 7 0
    let off := c.cdw12.toNat + 2 ^ 32 * c.cdw13.toNat
    let len := 4 * (bits c.cdw10 31 16 + 65536 * bits c.cdw11 15 0 + 1)
    (match s.logPage c.fn lid with
     | none => (stLogPage, [], s)
     | some p =>
       if off % 4 ≠ 0 ∨ p.length ≤ off then (stField, [], s)
       else (stOk, (p.drop off).take len, s.afterLog c.fn lid off len (bit c.cdw10 8) (bit c.cdw10 15)))
  | _ =>
    if bits c.cdw10 10 8 ≠ 0 then (stField, [], s)
    else if bits c.cdw10 7 0 = 0x0E then (stOk, s.timestamp, s)
    else match s.getFeature c (bits c.cdw10 7 0) with
      | .error st => (st, [], s)
      | .ok w => (status 0 0 w, [], s)

/-- ADMIN_COMMAND_TUNNEL: Identify, Get Log Page and Get Features in Gale or Breeze; otherwise Invalid Command Opcode. -/
def execAdminCommandTunnel (r : SbReq) (s : State) : Answer :=
  s.sbTake r (r.type == 4 && r.miKind == 2) fun s =>
    let c := r.tunnelled
    let off := fld r.body 27 4
    let len := fld r.body 31 4
    if !([2, 6, 10].contains r.miOp) || !s.mainAwake then s.miAnswer r 3 0 []
    else if s.sb.state6 then s.sbHold r.eid r.tag 0
    else if !s.fnExists (fld r.body 5 2) || decide (1005 < len) then s.miAnswer r 4 0 []
    else
      let (st, bs, s) := s.tunnel c
      let dw3 := (st.sc + st.sct * 2 ^ 8 + st.dnr.toNat * 2 ^ 14) * 2 ^ 17
      s.miAnswer r 0 0 (wordBytes st.dw0 ++ wordBytes st.dw1 ++ leBytes 4 dw3 ++ (bs.drop off).take len)

/-- REFUSED_NVME_MI_COMMAND: every other command is answered with Invalid Command Opcode. -/
def execRefusedNvmeMiCommand (r : SbReq) (s : State) : Answer :=
  s.sbTake r (r.type == 4 && r.miKind != 2 && (r.miKind != 1 || decide (5 < r.miOp))) fun s => s.miAnswer r 3 0 []

/-! ## The vendor message set (R409, R410) -/

/-- A vendor request of an OP, with a condition on its operands; a nonzero reserved byte is INVALID; the ROM serves HEALTH and FW_SLOT get
alone (R437). -/
def State.vendor (s : State) (r : SbReq) (op : Nat) (mine rom : Bool) (serve : State → State) : Answer :=
  s.sbTake r (r.type == 0x7E && r.op == op && mine) fun s =>
    if s.inRom && !rom then s.vAnswer r 3 []
    else if fld r.body 2 2 ≠ 0 then s.vAnswer r 2 []
    else serve s

/-- Reading words of a page one after the other: the words read, and the status it ended with. -/
def State.readWords' (s : State) (page off : Nat) : Nat → List Word × Nat × State
  | 0 => ([], 0, s)
  | n + 1 =>
    match s.readPage .sideband page off with
    | (.inl v, s) =>
      let (l, st, s) := s.readWords' page (off + 4) n
      (v :: l, st, s)
    | (.inr .offError, s) => ([], 3, s)
    | (.inr _, s) => ([], 1, s)

/-- PAGE_READ: COUNT words, each a separate access, up to the first refused one. -/
def execPageRead (r : SbReq) (s : State) : Answer :=
  s.vendor r 1 true false fun s =>
    let n := fld r.body 8 1
    if r.body.length ≠ 12 ∨ n = 0 ∨ 16 < n ∨ fld r.body 9 3 ≠ 0 then s.vAnswer r 2 []
    else
      let (l, st, s) := s.readWords' (fld r.body 4 2) (fld r.body 6 2) n
      s.vAnswer r st (l.flatMap wordBytes)

/-- Writing words of a page one after the other: how many were written, and the status. -/
def State.writeWords' (s : State) (page off : Nat) : List Word → Nat × Nat × State
  | [] => (0, 0, s)
  | v :: l =>
    match s.writePage .sideband page off 32 v with
    | (s, .ok) =>
      let (n, st, s) := s.writeWords' page (off + 4) l
      (n + 1, st, s)
    | (s, .offError) => (0, 3, s)
    | (s, _) => (0, 1, s)

/-- PAGE_WRITE: DONE counts the words written before a refusal. -/
def execPageWrite (r : SbReq) (s : State) : Answer :=
  s.vendor r 2 true false fun s =>
    let n := fld r.body 8 1
    if r.body.length ≠ 12 + 4 * n ∨ n = 0 ∨ 16 < n ∨ fld r.body 9 3 ≠ 0 then s.vAnswer r 2 []
    else
      let (k, st, s) := s.writeWords' (fld r.body 4 2) (fld r.body 6 2) ((List.range n).map fun j => leWord (sub r.body (12 + 4 * j) 4))
      s.vAnswer r st [BitVec.ofNat 8 k]

/-- STATE of HEALTH (R411, R444). During an entry it is 0, during an exit the state being left: the main side runs in Lull and is off in Calm. -/
def State.healthState (s : State) : Nat :=
  let n := s.field? PWR_STAT 2 0
  if s.inRom || s.sb.state6 then 6
  else match s.start.phase with
    | .starting => 5
    | .evReady => if n = 4 then 0 else if n = 5 then 2 else n
    | .full => if n = 4 then 0 else if n = 5 then 2 else n
    | _ => if !s.power.v12 then 4 else if n = 3 ∨ n = 5 then 3 else 5

/-- HEALTH: the copy, with STATE, FLAGS and AGE as they are now. -/
def execHealth (r : SbReq) (s : State) : Answer :=
  s.vendor r 3 true true fun s =>
    let age := (s.pages.dtime - s.sb.copyT).toNat
    let flags := (decide (1000000 < age)).toNat + 2 * s.frontUp.toNat
    s.vAnswer r 0 (leBytes 1 s.healthState ++ leBytes 1 flags ++ sub s.sb.health 2 18 ++ leBytes 4 (min (age / 1000) 0xFFFFFFFF) ++
      List.replicate 8 0)

/-- The present state, and the state last asked for while it has not been reached. -/
def State.powerData (s : State) (asked : Option Nat) : List Byte :=
  let now := s.field? PWR_STAT 2 0
  let want := match asked, s.power.entering with
    | some n, _ => n
    | none, some (t, _) => t
    | none, none => if s.power.calmReq ≠ 0 then s.power.calmReq else if s.power.wake.isSome then 0 else now
  leBytes 1 now ++ leBytes 1 want

/-- POWER_GET: POWER with an ACTION other than request. -/
def execPowerGet (r : SbReq) (s : State) : Answer :=
  s.vendor r 4 (fld r.body 4 1 != 1) false fun s =>
    if r.body.length ≠ 6 ∨ fld r.body 4 1 ≠ 0 ∨ 3 < fld r.body 5 1 then s.vAnswer r 2 [] else s.vAnswer r 0 (s.powerData none)

/-- POWER_REQUEST: with V12_MAIN off only Calm can take a request (R412, R417). -/
def execPowerRequest (r : SbReq) (s : State) : Answer :=
  s.vendor r 4 (fld r.body 4 1 == 1) false fun s =>
    let n := fld r.body 5 1
    if r.body.length ≠ 6 ∨ 3 < n then s.vAnswer r 2 []
    else if !s.power.v12 && s.start.phase == .warden && !(s.power.calm && s.field? PWR_STAT 2 0 == 3) then s.vAnswer r 3 []
    else match s.requestState n 1 with
      | none => s.vAnswer r 5 []
      | some s => s.vAnswer r 0 (s.powerData (some n))

/-- LOG_READ of a page: an offset beyond it is outside the operands' rule. -/
def State.logAnswer (s : State) (r : SbReq) (p : List Byte) : State :=
  let off := fld r.body 8 4
  if p.length ≤ off then s.vAnswer r 2 [] else s.vAnswer r 0 ((p.drop off).take (fld r.body 12 2))

/-- LOG_READ: LIDs 02h, 03h, C2h and C3h of the PF need the main side; E0h is the warden's event log. -/
def execLogRead (r : SbReq) (s : State) : Answer :=
  s.vendor r 5 true false fun s =>
    let lid := fld r.body 4 1
    let len := fld r.body 12 2
    if r.body.length ≠ 14 ∨ fld r.body 5 3 ≠ 0 ∨ fld r.body 8 4 % 4 ≠ 0 ∨ len < 4 ∨ 1000 < len ∨
        !([0x02, 0x03, 0xC2, 0xC3, 0xE0].contains lid) then s.vAnswer r 2 []
    else if lid = 0xE0 then s.logAnswer r (Config.eventLog s.sb.evlog)
    else s.sbMain (fun s => match s.logPage 0 lid with
        | some p => s.logAnswer r p
        | none => s.vAnswer r 2 [])
      (fun s => s.sbHold r.eid r.vtag 5) fun s => s.vAnswer r 3 []

/-- The active and the next-start slot. -/
def State.slotData (s : State) : List Byte := leBytes 1 s.slotRec.active ++ leBytes 1 s.slotRec.next

/-- FW_SLOT_GET: FW_SLOT with an ACTION other than set. -/
def execFwSlotGet (r : SbReq) (s : State) : Answer :=
  s.vendor r 6 (fld r.body 4 1 != 1) true fun s =>
    if r.body.length ≠ 6 ∨ fld r.body 4 1 ≠ 0 then s.vAnswer r 2 [] else s.vAnswer r 0 s.slotData

/-- FW_SLOT_SET: NEXT is written; BUSY while ADM_STAT.ACT is 1. -/
def execFwSlotSet (r : SbReq) (s : State) : Answer :=
  s.vendor r 6 (fld r.body 4 1 == 1) false fun s =>
    let n := fld r.body 5 1
    if r.body.length ≠ 6 ∨ n = 0 ∨ 2 < n then s.vAnswer r 2 []
    else if s.regBit ADM_STAT 10 then s.vAnswer r 4 []
    else
      let s := s.putRec fun x => { x with next := n }
      s.vAnswer r 0 s.slotData

/-- FIELD_STATUS: FRL_STAT, live in Gale and Breeze and else the copy, the age and the bytes of the last HEALTH payload. -/
def execFieldStatus (r : SbReq) (s : State) : Answer :=
  s.vendor r 7 true false fun s =>
    if r.body.length ≠ 4 then s.vAnswer r 2 []
    else
      let w := if s.mainAwake && !s.sb.state6 then s.reg FRL_STAT else s.sb.fstat
      let age := min ((s.pages.dtime - s.frl.healthT).toNat / 1000) 0xFFFFFFFF
      s.vAnswer r 0 (wordBytes w ++ leBytes 4 age ++ sub s.frl.health 0 48)

/-- FIELD_CONFIG: a FIELD_CONFIG message, whose ACK answers the request (R392); one that R383 would not let pass is INVALID. -/
def execFieldConfig (r : SbReq) (s : State) : Answer :=
  s.vendor r 8 true false fun s =>
    let b := r.body.drop 4
    if b.length < 5 ∨ 52 < b.length ∨ (msgFault false (mkMsg 0x81 0 (match typeRule false 0x81 with
        | some (c, _, _) => c
        | none => 0) 0 b)).isSome then s.vAnswer r 2 []
    else s.sbMain (fun s => (s.sbHold r.eid r.vtag 8).sendField 0x81 0 b (.sideband r.eid r.vtag))
      (fun s => s.sbHold r.eid r.vtag 8) fun s => s.vAnswer r 3 []

/-- EVID_PROVISION: the capacity of NSID 1, once only (R95). DESIGN CHOICE (log 113): one beyond the remaining user capacity is INVALID. -/
def execEvidProvision (r : SbReq) (s : State) : Answer :=
  s.vendor r 9 true false fun s =>
    let n := fld r.body 4 4
    if r.body.length ≠ 8 ∨ n = 0 then s.vAnswer r 2 []
    else s.sbMain (fun s =>
        if s.host.evid.cap ≠ 0 then s.vAnswer r 5 []
        else if s.userBlocks < s.nvmBlocks + n then s.vAnswer r 2 []
        else
          let base := s.newBase n
          let s : State := { s with
            host := { s.host with evid := { s.host.evid with base := base, cap := n, attached := [0] } }
            start := { s.start with nor := { s.start.nor with evidCap := n } } }
          (s.raise 0x0F8 4).vAnswer r 0 [])
      (fun s => s.sbHold r.eid r.vtag 9) fun s => s.vAnswer r 3 []

/-- ROOT_BLOB: into the boot NOR for the next start (R314). -/
def execRootBlob (r : SbReq) (s : State) : Answer :=
  s.vendor r 0x0A true false fun s =>
    if r.body.length ≠ 68 then s.vAnswer r 2 []
    else if s.crypto.root.isSome then s.vAnswer r 5 []
    else
      let s : State := { s with start := { s.start with nor := { s.start.nor with blob := r.body.drop 4 } } }
      (s.raise 0x0F8 4).vAnswer r 0 []

/-- OWNER: the warden writes PG_OWNER. -/
def execOwner (r : SbReq) (s : State) : Answer :=
  s.vendor r 0x0B true false fun s =>
    let v := leWord (sub r.body 8 4)
    if r.body.length ≠ 12 ∨ fld r.body 6 2 ≠ 0 ∨ bit v 4 = false ∨ badOwner v = true then s.vAnswer r 2 []
    else match s.writePage .warden (fld r.body 4 2) 0x10 32 v with
      | (s, .ok) => s.vAnswer r 0 []
      | (s, .offError) => s.vAnswer r 3 []
      | (s, _) => s.vAnswer r 1 []

/-- The rule on the operands of SQUALL (R462). -/
def squallOperands (r : SbReq) : Bool := decide (r.body.length = 8) && decide (fld r.body 5 3 = 0)

/-- The SQL_STAT word. -/
def State.squallData (s : State) : List Byte := wordBytes (sqlStat s)

/-- SQUALL_STATUS: SQUALL with a SUBOP other than unlock and lock. -/
def execSquallStatus (r : SbReq) (s : State) : Answer :=
  s.vendor r 0x0C (fld r.body 4 1 != 1 && fld r.body 4 1 != 2) false fun s =>
    if squallOperands r = false ∨ fld r.body 4 1 ≠ 0 then s.vAnswer r 2 [] else s.vAnswer r 0 s.squallData

/-- SQUALL_UNLOCK. -/
def execSquallUnlock (r : SbReq) (s : State) : Answer :=
  s.vendor r 0x0C (fld r.body 4 1 == 1) false fun s =>
    if squallOperands r = false then s.vAnswer r 2 []
    else if s.unlockRefused .sideband then s.vAnswer r 5 s.squallData
    else
      let s := s.unlockSquall false
      s.vAnswer r 0 s.squallData

/-- SQUALL_LOCK. -/
def execSquallLock (r : SbReq) (s : State) : Answer :=
  s.vendor r 0x0C (fld r.body 4 1 == 2) false fun s =>
    if squallOperands r = false then s.vAnswer r 2 []
    else
      let s := s.lockSquall
      s.vAnswer r 0 s.squallData

/-- UNKNOWN_VENDOR_OP: an OP that R410 does not list, or a nonzero reserved byte. -/
def execUnknownVendorOp (r : SbReq) (s : State) : Answer :=
  s.sbTake r (r.type == 0x7E && (r.op == 0 || decide (0x0C < r.op) || fld r.body 2 2 != 0)) fun s =>
    if s.inRom then s.vAnswer r 3 [] else s.vAnswer r 2 []

/-! ## Held requests and the health copy (R410, R411) -/

/-- MAIN_SIDE_TIMEOUT: the oldest request held for 100 ms is answered with TIMEOUT. -/
def execMainSideTimeout (s : State) : Answer :=
  match s.sb.waits.find? fun w => decide (100000 ≤ (s.pages.dtime - w.since).toNat) with
  | none => .next s
  | some w =>
    if w.op = 0 then
      .next (({ s with sb := { s.sb with waits := s.sb.waits.erase w } } : State).deliver 0x0F8
        (.out (.sideband w.eid [0x88, 0, 0, 2, 0, 0, 0])))
    else .next (s.sbAnswer w.eid w.tag w.op 7 [])

/-- HEALTH_REFRESH: the copy is refreshed, or a refresh is missed; the second miss in succession sets STATE 6. -/
def execHealthRefresh (answered : Bool) (s : State) : Answer :=
  if !s.mainAwake then .next s
  else if answered then
    let s : State := { s with sb := { s.sb with missed := 0 } }
    .next s.copyHealth
  else
    let n := s.sb.missed + 1
    .next { s with sb := { s.sb with missed := n, state6 := s.sb.state6 || decide (2 ≤ n) } }

/-! ## Requests held for the warden (R91, R407) -/

/-- Every request the port serves: each is one of these, and the others leave it alone. -/
def sbServices : List (SbReq → State → Answer) :=
  [execSetEndpointId, execGetEndpointId, execGetMctpVersionSupport, execGetMessageTypeSupport, execGetVendorDefinedMessageSupport,
   execUnsupportedMctpMessage, execBasicManagementCommand, execReadNvmeMiDataStructure, execNvmSubsystemHealthStatusPoll, execControllerHealthStatusPoll,
   execConfigurationGet, execConfigurationSet, execVpdRead, execAdminCommandTunnel, execRefusedNvmeMiCommand,
   execPageRead, execPageWrite, execHealth, execPowerGet, execPowerRequest,
   execLogRead, execFwSlotGet, execFwSlotSet, execFieldStatus, execFieldConfig,
   execEvidProvision, execRootBlob, execOwner, execSquallStatus, execSquallUnlock,
   execSquallLock, execUnknownVendorOp]

/-- A request held is served. -/
def State.serveSb (s : State) (r : SbReq) : State :=
  sbServices.foldl (fun (s : State) f => match f r s with
    | .next t => t
    | _ => s) s
def State.serveHeld (s : State) : State := s.sb.held.foldl State.serveSb { s with sb := { s.sb with held := [] } }

/-- REPORT_READY: step 7 of R193; the warden first serves what was held for it (R91). -/
def execReportReady (c : CellId) (s : State) : Answer :=
  if !s.pageOn 0x70 || s.power.flush != 0 || !(s.fabric.reassign.any fun x => x.cell == c.val && x.step == 6) then .next s
  else
    let s := s.cellReady c
    let s := if c = 40 then s.serveHeld else s
    let s := if c.val < 12 ∧ s.fabric.pause.isSome = true ∧ (List.range 12).any s.moving = false then s.endPause else s
    let s := match s.host.fw.commit with
      | some k =>
        if k.step = 1 ∧ c = 40 ∧ s.slotRun 40 = k.rent then s.endActivation k
        else if k.step = 2 then s.reverseNext k
        else s
      | none => s
    .next s.enterExecs

end Sys2Proof.Machine
end

