-- ==== Sys2Proof/Machine/Dispatch.lean ====
section
/-!
DEFINITION. What each command does: one arm per constructor of `Instr`, each a direct call of its meaning.
-/

namespace Sys2Proof.Machine

/-- The effect of a command on everything but the queue. -/
def exec (i : Instr) (s : State) : Host.Outcome State Fault Refusal :=
  match i with
  | .registerWrite m page off width v => Sys2Proof.Machine.execRegisterWrite m page off width v s
  | .refusedRead m page off width => Sys2Proof.Machine.execRefusedRead m page off width s
  | .errcapRearm m page v => Sys2Proof.Machine.execErrcapRearm m page v s
  | .evSet m page v => Sys2Proof.Machine.execEvSet m page v s
  | .evClear m page v hw => Sys2Proof.Machine.execEvClear m page v hw s
  | .evRouteWrite m page v => Sys2Proof.Machine.execEvRouteWrite m page v s
  | .pgOwnerWrite m page v => Sys2Proof.Machine.execPgOwnerWrite m page v s
  | .counterClear m page slot v => Sys2Proof.Machine.execCounterClear m page slot v s
  | .counterLowRead m page slot => Sys2Proof.Machine.execCounterLowRead m page slot s
  | .topDtimeLoRead m => Sys2Proof.Machine.execTopDtimeLoRead m s
  | .deviceTimeTick aon => Sys2Proof.Machine.execDeviceTimeTick aon s
  | .sqTailDoorbell fn y bytes v => Sys2Proof.Machine.execSqTailDoorbell fn y bytes v s
  | .cqHeadDoorbell fn y bytes v => Sys2Proof.Machine.execCqHeadDoorbell fn y bytes v s
  | .bar0Access fn off len write => Sys2Proof.Machine.execBar0Access fn off len write s
  | .controllerEnable fn cc => Sys2Proof.Machine.execControllerEnable fn cc s
  | .controllerReset fn => Sys2Proof.Machine.execControllerReset fn s
  | .controllerResetComplete fn => Sys2Proof.Machine.execControllerResetComplete fn s
  | .shutdownNotification fn shn => Sys2Proof.Machine.execShutdownNotification fn shn s
  | .shutdownComplete fn => Sys2Proof.Machine.execShutdownComplete fn s
  | .tokenRefill => Sys2Proof.Machine.execTokenRefill s
  | .commandStart c => Sys2Proof.Machine.execCommandStart c s
  | .completionPost c => Sys2Proof.Machine.execCompletionPost c s
  | .evidentialBoundPassed c => Sys2Proof.Machine.execEvidentialBoundPassed c s
  | .admSliceWrite m v => Sys2Proof.Machine.execAdmSliceWrite m v s
  | .lock m v => Sys2Proof.Machine.execLock m v s
  | .admCvalWrite m v => Sys2Proof.Machine.execAdmCvalWrite m v s
  | .adlSnap m v => Sys2Proof.Machine.execAdlSnap m v s
  | .gcdebtRefresh => Sys2Proof.Machine.execGcdebtRefresh s
  | .housekeepingRetry => Sys2Proof.Machine.execHousekeepingRetry s
  | .selfTestSegment fn units last pass => Sys2Proof.Machine.execSelfTestSegment fn units last pass s
  | .createIoSubmissionQueue c => Sys2Proof.Machine.execCreateIoSubmissionQueue c s
  | .createIoCompletionQueue c => Sys2Proof.Machine.execCreateIoCompletionQueue c s
  | .deleteIoSubmissionQueue c => Sys2Proof.Machine.execDeleteIoSubmissionQueue c s
  | .deleteIoCompletionQueue c => Sys2Proof.Machine.execDeleteIoCompletionQueue c s
  | .getLogPage c => Sys2Proof.Machine.execGetLogPage c s
  | .identify c => Sys2Proof.Machine.execIdentify c s
  | .abort c => Sys2Proof.Machine.execAbort c s
  | .setFeatures c => Sys2Proof.Machine.execSetFeatures c s
  | .getFeatures c => Sys2Proof.Machine.execGetFeatures c s
  | .setFeaturesNumberOfQueues c => Sys2Proof.Machine.execSetFeaturesNumberOfQueues c s
  | .setFeaturesTimestamp c => Sys2Proof.Machine.execSetFeaturesTimestamp c s
  | .getFeaturesTimestamp c => Sys2Proof.Machine.execGetFeaturesTimestamp c s
  | .setQueueAdmissionDefault c => Sys2Proof.Machine.execSetQueueAdmissionDefault c s
  | .getQueueAdmissionDefault c => Sys2Proof.Machine.execGetQueueAdmissionDefault c s
  | .interruptCoalescingTimer fn vec => Sys2Proof.Machine.execInterruptCoalescingTimer fn vec s
  | .asynchronousEventRequest c => Sys2Proof.Machine.execAsynchronousEventRequest c s
  | .namespaceManagement c => Sys2Proof.Machine.execNamespaceManagement c s
  | .namespaceAttachment c => Sys2Proof.Machine.execNamespaceAttachment c s
  | .firmwareImageDownload c => Sys2Proof.Machine.execFirmwareImageDownload c s
  | .firmwareCommitReplace c => Sys2Proof.Machine.execFirmwareCommitReplace c s
  | .firmwareCommitNextReset c => Sys2Proof.Machine.execFirmwareCommitNextReset c s
  | .firmwareCommitActivate c => Sys2Proof.Machine.execFirmwareCommitActivate c s
  | .signatureCheckDone ok => Sys2Proof.Machine.execSignatureCheckDone ok s
  | .deviceSelfTest c => Sys2Proof.Machine.execDeviceSelfTest c s
  | .formatNvm c => Sys2Proof.Machine.execFormatNvm c s
  | .secondaryControllerOffline c => Sys2Proof.Machine.execSecondaryControllerOffline c s
  | .secondaryControllerAssign c => Sys2Proof.Machine.execSecondaryControllerAssign c s
  | .secondaryControllerOnline c => Sys2Proof.Machine.execSecondaryControllerOnline c s
  | .invalidCommandOpcode c => Sys2Proof.Machine.execInvalidCommandOpcode c s
  | .loadProgram c => Sys2Proof.Machine.execLoadProgram c s
  | .programActivationManagement c => Sys2Proof.Machine.execProgramActivationManagement c s
  | .memoryRangeSetManagement c => Sys2Proof.Machine.execMemoryRangeSetManagement c s
  | .read c => Sys2Proof.Machine.execRead c s
  | .write c => Sys2Proof.Machine.execWrite c s
  | .flush c => Sys2Proof.Machine.execFlush c s
  | .compare c => Sys2Proof.Machine.execCompare c s
  | .writeZeroes c => Sys2Proof.Machine.execWriteZeroes c s
  | .datasetManagement c => Sys2Proof.Machine.execDatasetManagement c s
  | .verify c => Sys2Proof.Machine.execVerify c s
  | .copy c => Sys2Proof.Machine.execCopy c s
  | .executeProgram c => Sys2Proof.Machine.execExecuteProgram c s
  | .memoryRead c => Sys2Proof.Machine.execMemoryRead c s
  | .memoryWrite c => Sys2Proof.Machine.execMemoryWrite c s
  | .hostWriteDataReceived c bs => Sys2Proof.Machine.execHostWriteDataReceived c bs s
  | .hostTransferFailure c => Sys2Proof.Machine.execHostTransferFailure c s
  | .droppedAppendZeroFill => Sys2Proof.Machine.execDroppedAppendZeroFill s
  | .pcieLinkUp speed width => Sys2Proof.Machine.execPcieLinkUp speed width s
  | .pcieLinkDown => Sys2Proof.Machine.execPcieLinkDown s
  | .flrPf => Sys2Proof.Machine.execFlrPf s
  | .flrVf fn => Sys2Proof.Machine.execFlrVf fn s
  | .vfResetComplete fn => Sys2Proof.Machine.execVfResetComplete fn s
  | .vfEnableClear => Sys2Proof.Machine.execVfEnableClear s
  | .msixEnable fn => Sys2Proof.Machine.execMsixEnable fn s
  | .msixMaskClear fn vec => Sys2Proof.Machine.execMsixMaskClear fn vec s
  | .pmcsrWrite v => Sys2Proof.Machine.execPmcsrWrite v s
  | .pcieL1Exit => Sys2Proof.Machine.execPcieL1Exit s
  | .perstAsserted => Sys2Proof.Machine.execPerstAsserted s
  | .perstDeasserted => Sys2Proof.Machine.execPerstDeasserted s
  | .hotReset => Sys2Proof.Machine.execHotReset s
  | .ctrlrst m v => Sys2Proof.Machine.execCtrlrst m v s
  | .mainrst m v => Sys2Proof.Machine.execMainrst m v s
  | .fillComplete c => Sys2Proof.Machine.execFillComplete c s
  | .scrub m c v => Sys2Proof.Machine.execScrub m c v s
  | .celHoldWrite m c v => Sys2Proof.Machine.execCelHoldWrite m c v s
  | .holdReached c => Sys2Proof.Machine.execHoldReached c s
  | .celImdataAccess m c write => Sys2Proof.Machine.execCelImdataAccess m c write s
  | .celDmdataAccess m c write => Sys2Proof.Machine.execCelDmdataAccess m c write s
  | .celRvalAccess m c write => Sys2Proof.Machine.execCelRvalAccess m c write s
  | .interruptInput c => Sys2Proof.Machine.execInterruptInput c s
  | .budgetExhausted c => Sys2Proof.Machine.execBudgetExhausted c s
  | .productLands c => Sys2Proof.Machine.execProductLands c s
  | .streamStallEnd c cycles => Sys2Proof.Machine.execStreamStallEnd c cycles s
  | .unassignedEncoding iss w => Sys2Proof.Machine.execUnassignedEncoding iss w s
  | .add iss rd rs => Sys2Proof.Machine.execAdd iss rd rs s
  | .sub iss rd rs => Sys2Proof.Machine.execSub iss rd rs s
  | .and iss rd rs => Sys2Proof.Machine.execAnd iss rd rs s
  | .or iss rd rs => Sys2Proof.Machine.execOr iss rd rs s
  | .xor iss rd rs => Sys2Proof.Machine.execXor iss rd rs s
  | .shl iss rd rs => Sys2Proof.Machine.execShl iss rd rs s
  | .shr iss rd rs => Sys2Proof.Machine.execShr iss rd rs s
  | .sar iss rd rs => Sys2Proof.Machine.execSar iss rd rs s
  | .adds iss rd rs => Sys2Proof.Machine.execAdds iss rd rs s
  | .subs iss rd rs => Sys2Proof.Machine.execSubs iss rd rs s
  | .mul iss rd rs => Sys2Proof.Machine.execMul iss rd rs s
  | .cmp iss rd rs => Sys2Proof.Machine.execCmp iss rd rs s
  | .addi iss rd im => Sys2Proof.Machine.execAddi iss rd im s
  | .cmpi iss rd im => Sys2Proof.Machine.execCmpi iss rd im s
  | .andi iss rd im => Sys2Proof.Machine.execAndi iss rd im s
  | .ori iss rd im => Sys2Proof.Machine.execOri iss rd im s
  | .li iss tg rd im => Sys2Proof.Machine.execLi iss tg rd im s
  | .mov iss rd rs => Sys2Proof.Machine.execMov iss rd rs s
  | .narrow iss rd rs => Sys2Proof.Machine.execNarrow iss rd rs s
  | .beql iss rd rs => Sys2Proof.Machine.execBeql iss rd rs s
  | .savl iss rd rs => Sys2Proof.Machine.execSavl iss rd rs s
  | .movs iss rd sp => Sys2Proof.Machine.execMovs iss rd sp s
  | .sets iss sp rs => Sys2Proof.Machine.execSets iss sp rs s
  | .fst iss rs ra => Sys2Proof.Machine.execFst iss rs ra s
  | .fld iss tg rd ra => Sys2Proof.Machine.execFld iss tg rd ra s
  | .retag iss rd rs => Sys2Proof.Machine.execRetag iss rd rs s
  | .ld iss rd im => Sys2Proof.Machine.execLd iss rd im s
  | .st iss rs im => Sys2Proof.Machine.execSt iss rs im s
  | .ldx iss rd rp hi => Sys2Proof.Machine.execLdx iss rd rp hi s
  | .stx iss rs rp hi => Sys2Proof.Machine.execStx iss rs rp hi s
  | .push iss r => Sys2Proof.Machine.execPush iss r s
  | .pop iss r => Sys2Proof.Machine.execPop iss r s
  | .sld iss size rd wh hi => Sys2Proof.Machine.execSld iss size rd wh hi s
  | .sst iss size rs wh hi => Sys2Proof.Machine.execSst iss size rs wh hi s
  | .srel iss wh rs => Sys2Proof.Machine.execSrel iss wh rs s
  | .spub iss wh rs => Sys2Proof.Machine.execSpub iss wh rs s
  | .getp iss r => Sys2Proof.Machine.execGetp iss r s
  | .job iss wh rp waited => Sys2Proof.Machine.execJob iss wh rp waited s
  | .jwait iss rd wh waited => Sys2Proof.Machine.execJwait iss rd wh waited s
  | .b iss cond off => Sys2Proof.Machine.execB iss cond off s
  | .jmp iss target => Sys2Proof.Machine.execJmp iss target s
  | .call iss target => Sys2Proof.Machine.execCall iss target s
  | .jr iss r => Sys2Proof.Machine.execJr iss r s
  | .callr iss r => Sys2Proof.Machine.execCallr iss r s
  | .ret iss => Sys2Proof.Machine.execRet iss s
  | .rett iss => Sys2Proof.Machine.execRett iss s
  | .nop iss => Sys2Proof.Machine.execNop iss s
  | .endp iss => Sys2Proof.Machine.execEndp iss s
  | .swi iss n => Sys2Proof.Machine.execSwi iss n s
  | .clr iss r => Sys2Proof.Machine.execClr iss r s
  | .rdtime iss r => Sys2Proof.Machine.execRdtime iss r s
  | .repi iss r => Sys2Proof.Machine.execRepi iss r s
  | .rep iss n => Sys2Proof.Machine.execRep iss n s
  | .test iss r => Sys2Proof.Machine.execTest iss r s
  | .not iss r => Sys2Proof.Machine.execNot iss r s
  | .neg iss r => Sys2Proof.Machine.execNeg iss r s
  | .cvti iss r => Sys2Proof.Machine.execCvti iss r s
  | .cvtu iss r => Sys2Proof.Machine.execCvtu iss r s
  | .cvtf iss r => Sys2Proof.Machine.execCvtf iss r s
  | .cvtb iss r => Sys2Proof.Machine.execCvtb iss r s
  | .cvtl iss r => Sys2Proof.Machine.execCvtl iss r s
  | .clz iss r => Sys2Proof.Machine.execClz iss r s
  | .popc iss r => Sys2Proof.Machine.execPopc iss r s
  | .bswp iss r => Sys2Proof.Machine.execBswp iss r s
  | .idle iss => Sys2Proof.Machine.execIdle iss s
  | .tagof iss r => Sys2Proof.Machine.execTagof iss r s
  | .setc iss r cond => Sys2Proof.Machine.execSetc iss r cond s
  | .streamDataFlit f => Sys2Proof.Machine.execStreamDataFlit f s
  | .streamCredit f => Sys2Proof.Machine.execStreamCredit f s
  | .fabricReadRequest f => Sys2Proof.Machine.execFabricReadRequest f s
  | .fabricReadResponse f => Sys2Proof.Machine.execFabricReadResponse f s
  | .fabricWrite f => Sys2Proof.Machine.execFabricWrite f s
  | .jobDescriptor f => Sys2Proof.Machine.execJobDescriptor f s
  | .jobStatus f => Sys2Proof.Machine.execJobStatus f s
  | .controlFlit f => Sys2Proof.Machine.execControlFlit f s
  | .suStart m c v => Sys2Proof.Machine.execSuStart m c v s
  | .suCancel m c v => Sys2Proof.Machine.execSuCancel m c v s
  | .streamDrain c slot close => Sys2Proof.Machine.execStreamDrain c slot close s
  | .codecJobEnd unit output => Sys2Proof.Machine.execCodecJobEnd unit output s
  | .codecHalt m unit v => Sys2Proof.Machine.execCodecHalt m unit v s
  | .wreload m v => Sys2Proof.Machine.execWreload m v s
  | .cellReassign c r => Sys2Proof.Machine.execCellReassign c r s
  | .drainDone c => Sys2Proof.Machine.execDrainDone c s
  | .reportReady c => Sys2Proof.Machine.execReportReady c s
  | .evidentialPauseTimeout => Sys2Proof.Machine.execEvidentialPauseTimeout s
  | .stagingDrain die => Sys2Proof.Machine.execStagingDrain die s
  | .journalPageTimer => Sys2Proof.Machine.execJournalPageTimer s
  | .journalPageDurable => Sys2Proof.Machine.execJournalPageDurable s
  | .checkpointBegin => Sys2Proof.Machine.execCheckpointBegin s
  | .demotion unit => Sys2Proof.Machine.execDemotion unit s
  | .garbageCollection die block => Sys2Proof.Machine.execGarbageCollection die block s
  | .blockErase die block => Sys2Proof.Machine.execBlockErase die block s
  | .folding die block => Sys2Proof.Machine.execFolding die block s
  | .powerFail => Sys2Proof.Machine.execPowerFail s
  | .flushComplete => Sys2Proof.Machine.execFlushComplete s
  | .patrolPassStart => Sys2Proof.Machine.execPatrolPassStart s
  | .patrolLate => Sys2Proof.Machine.execPatrolLate s
  | .patrolRead ch way block page => Sys2Proof.Machine.execPatrolRead ch way block page s
  | .memberFailed die => Sys2Proof.Machine.execMemberFailed die s
  | .redFailDeclare m v => Sys2Proof.Machine.execRedFailDeclare m v s
  | .rebuildFloor => Sys2Proof.Machine.execRebuildFloor s
  | .rebuildDone => Sys2Proof.Machine.execRebuildDone s
  | .rbPause m v => Sys2Proof.Machine.execRbPause m v s
  | .sifjWrite => Sys2Proof.Machine.execSifjWrite s
  | .quietRotation => Sys2Proof.Machine.execQuietRotation s
  | .quietJoin => Sys2Proof.Machine.execQuietJoin s
  | .mediaSchedule die => Sys2Proof.Machine.execMediaSchedule die s
  | .mediaRead ch => Sys2Proof.Machine.execMediaRead ch s
  | .mediaProgram ch => Sys2Proof.Machine.execMediaProgram ch s
  | .mediaErase ch => Sys2Proof.Machine.execMediaErase ch s
  | .lunReset ch => Sys2Proof.Machine.execLunReset ch s
  | .setFeature ch way fa p => Sys2Proof.Machine.execSetFeature ch way fa p s
  | .suspend ch => Sys2Proof.Machine.execSuspend ch s
  | .resume ch => Sys2Proof.Machine.execResume ch s
  | .dieReady die r => Sys2Proof.Machine.execDieReady die r s
  | .operationTimeLimit die => Sys2Proof.Machine.execOperationTimeLimit die s
  | .lunResetTimeout die => Sys2Proof.Machine.execLunResetTimeout die s
  | .pageBufferFree ch buf => Sys2Proof.Machine.execPageBufferFree ch buf s
  | .halt ch => Sys2Proof.Machine.execHalt ch s
  | .seqJmp ch target => Sys2Proof.Machine.execSeqJmp ch target s
  | .jcc ch cond target => Sys2Proof.Machine.execJcc ch cond target s
  | .seqCall ch target => Sys2Proof.Machine.execSeqCall ch target s
  | .seqRet ch => Sys2Proof.Machine.execSeqRet ch s
  | .ldcnt ch n => Sys2Proof.Machine.execLdcnt ch n s
  | .loop ch target => Sys2Proof.Machine.execLoop ch target s
  | .waitrb ch w ready st => Sys2Proof.Machine.execWaitrb ch w ready st s
  | .waitrbTimeout ch => Sys2Proof.Machine.execWaitrbTimeout ch s
  | .lddesc ch w => Sys2Proof.Machine.execLddesc ch w s
  | .adda ch w => Sys2Proof.Machine.execAdda ch w s
  | .setf ch w => Sys2Proof.Machine.execSetf ch w s
  | .retry ch w => Sys2Proof.Machine.execRetry ch w s
  | .post ch w => Sys2Proof.Machine.execPost ch w s
  | .shortOperationPair ch w dq => Sys2Proof.Machine.execShortOperationPair ch w dq s
  | .step m ch v ready st dq => Sys2Proof.Machine.execStep m ch v ready st dq s
  | .mchUsdataAccess m ch write => Sys2Proof.Machine.execMchUsdataAccess m ch write s
  | .search c => Sys2Proof.Machine.execSearch c s
  | .searchStream c => Sys2Proof.Machine.execSearchStream c s
  | .insert c => Sys2Proof.Machine.execInsert c s
  | .delete c => Sys2Proof.Machine.execDelete c s
  | .searchEntryRead c => Sys2Proof.Machine.execSearchEntryRead c s
  | .windowSearch unit bs => Sys2Proof.Machine.execWindowSearch unit bs s
  | .sweepCompare bank flip bad => Sys2Proof.Machine.execSweepCompare bank flip bad s
  | .shadowWriteComplete => Sys2Proof.Machine.execShadowWriteComplete s
  | .spread m bank => Sys2Proof.Machine.execSpread m bank s
  | .clear m bank => Sys2Proof.Machine.execClear m bank s
  | .srbModeOwnerWrite m bank v => Sys2Proof.Machine.execSrbModeOwnerWrite m bank v s
  | .init m => Sys2Proof.Machine.execInit m s
  | .reload m => Sys2Proof.Machine.execReload m s
  | .srcReady => Sys2Proof.Machine.execSrcReady s
  | .srcThrottleSample => Sys2Proof.Machine.execSrcThrottleSample s
  | .cipherPathJob lane req => Sys2Proof.Machine.execCipherPathJob lane req s
  | .cipherJob c lane busErr => Sys2Proof.Machine.execCipherJob c lane busErr s
  | .cipherHalt m lane v => Sys2Proof.Machine.execCipherHalt m lane v s
  | .digestJob c lane cut busErr => Sys2Proof.Machine.execDigestJob c lane cut busErr s
  | .derive m v => Sys2Proof.Machine.execDerive m v s
  | .erase m v => Sys2Proof.Machine.execErase m v s
  | .install m v => Sys2Proof.Machine.execInstall m v s
  | .eraseAll m v => Sys2Proof.Machine.execEraseAll m v s
  | .keyOpRefused m v => Sys2Proof.Machine.execKeyOpRefused m v s
  | .rootLock m v => Sys2Proof.Machine.execRootLock m v s
  | .keySuse0Read m => Sys2Proof.Machine.execKeySuse0Read m s
  | .dramRequestIssue ch upset => Sys2Proof.Machine.execDramRequestIssue ch upset s
  | .perBankRefresh ch => Sys2Proof.Machine.execPerBankRefresh ch s
  | .dramTempSample t => Sys2Proof.Machine.execDramTempSample t s
  | .arm m v => Sys2Proof.Machine.execArm m v s
  | .cancel m v => Sys2Proof.Machine.execCancel m v s
  | .retuneBlackout => Sys2Proof.Machine.execRetuneBlackout s
  | .cacheAccess id addr len cls write => Sys2Proof.Machine.execCacheAccess id addr len cls write s
  | .cacheFill slice id => Sys2Proof.Machine.execCacheFill slice id s
  | .wayDisable slice way => Sys2Proof.Machine.execWayDisable slice way s
  | .clean m v => Sys2Proof.Machine.execClean m v s
  | .inval m v => Sys2Proof.Machine.execInval m v s
  | .cleanInval m v => Sys2Proof.Machine.execCleanInval m v s
  | .cleanAll m v => Sys2Proof.Machine.execCleanAll m v s
  | .cleanInvalAll m v => Sys2Proof.Machine.execCleanInvalAll m v s
  | .cleanWay m slice v => Sys2Proof.Machine.execCleanWay m slice v s
  | .cleanInvalWay m slice v => Sys2Proof.Machine.execCleanInvalWay m slice v s
  | .maintenanceDone slice => Sys2Proof.Machine.execMaintenanceDone slice s
  | .fchWdis m slice v => Sys2Proof.Machine.execFchWdis m slice v s
  | .regionFill => Sys2Proof.Machine.execRegionFill s
  | .mpClear m page v => Sys2Proof.Machine.execMpClear m page v s
  | .vfmSelWrite m v => Sys2Proof.Machine.execVfmSelWrite m v s
  | .apply m v => Sys2Proof.Machine.execApply m v s
  | .mailboxSend m fn v => Sys2Proof.Machine.execMailboxSend m fn v s
  | .mailboxAck m fn v => Sys2Proof.Machine.execMailboxAck m fn v s
  | .dirtyPageEnable m v => Sys2Proof.Machine.execDirtyPageEnable m v s
  | .copyBitmap m v => Sys2Proof.Machine.execCopyBitmap m v s
  | .dirtyPageCopyDone fn => Sys2Proof.Machine.execDirtyPageCopyDone fn s
  | .slmShareZero fn => Sys2Proof.Machine.execSlmShareZero fn s
  | .discreteInputChange n level t => Sys2Proof.Machine.execDiscreteInputChange n level t s
  | .speedSample => Sys2Proof.Machine.execSpeedSample s
  | .canFrameReceived bus ident fd brs esi dlc data => Sys2Proof.Machine.execCanFrameReceived bus ident fd brs esi dlc data s
  | .canBusStateChange bus st tec rec => Sys2Proof.Machine.execCanBusStateChange bus st tec rec s
  | .ethFrameReceived port frame => Sys2Proof.Machine.execEthFrameReceived port frame s
  | .ethernetLinkChange port up => Sys2Proof.Machine.execEthernetLinkChange port up s
  | .fieldTokenRefill n => Sys2Proof.Machine.execFieldTokenRefill n s
  | .timeSyncInterval => Sys2Proof.Machine.execTimeSyncInterval s
  | .healthInterval mv temp => Sys2Proof.Machine.execHealthInterval mv temp s
  | .rtcAlarm => Sys2Proof.Machine.execRtcAlarm s
  | .legalTimeStore => Sys2Proof.Machine.execLegalTimeStore s
  | .ringEntrySend => Sys2Proof.Machine.execRingEntrySend s
  | .wakeRepeat => Sys2Proof.Machine.execWakeRepeat s
  | .wakeOutputTimeout again => Sys2Proof.Machine.execWakeOutputTimeout again s
  | .fieldColdStart => Sys2Proof.Machine.execFieldColdStart s
  | .vf3p3Loss => Sys2Proof.Machine.execVf3p3Loss s
  | .eventRecord msg => Sys2Proof.Machine.execEventRecord msg s
  | .canBatch msg => Sys2Proof.Machine.execCanBatch msg s
  | .ethFragment msg => Sys2Proof.Machine.execEthFragment msg s
  | .timeSync msg => Sys2Proof.Machine.execTimeSync msg s
  | .wake msg => Sys2Proof.Machine.execWake msg s
  | .fieldHealth msg => Sys2Proof.Machine.execFieldHealth msg s
  | .ack msg => Sys2Proof.Machine.execAck msg s
  | .config msg => Sys2Proof.Machine.execConfig msg s
  | .timeSet msg => Sys2Proof.Machine.execTimeSet msg s
  | .wakePolicy msg => Sys2Proof.Machine.execWakePolicy msg s
  | .txCan msg => Sys2Proof.Machine.execTxCan msg s
  | .canTransmitDone ok => Sys2Proof.Machine.execCanTransmitDone ok s
  | .fieldImage msg => Sys2Proof.Machine.execFieldImage msg s
  | .fieldImageVerified ok version => Sys2Proof.Machine.execFieldImageVerified ok version s
  | .fieldImageActivate msg starts => Sys2Proof.Machine.execFieldImageActivate msg starts s
  | .hostAck msg => Sys2Proof.Machine.execHostAck msg s
  | .frontLinkUp => Sys2Proof.Machine.execFrontLinkUp s
  | .frontLinkDown => Sys2Proof.Machine.execFrontLinkDown s
  | .retrain m v => Sys2Proof.Machine.execRetrain m v s
  | .resumeRepeat => Sys2Proof.Machine.execResumeRepeat s
  | .hostResendTimeout => Sys2Proof.Machine.execHostResendTimeout s
  | .frlMsgSend m v => Sys2Proof.Machine.execFrlMsgSend m v s
  | .frlMsgTimeout => Sys2Proof.Machine.execFrlMsgTimeout s
  | .captureAppend => Sys2Proof.Machine.execCaptureAppend s
  | .appendDurable k => Sys2Proof.Machine.execAppendDurable k s
  | .setEndpointId r => Sys2Proof.Machine.execSetEndpointId r s
  | .getEndpointId r => Sys2Proof.Machine.execGetEndpointId r s
  | .getMctpVersionSupport r => Sys2Proof.Machine.execGetMctpVersionSupport r s
  | .getMessageTypeSupport r => Sys2Proof.Machine.execGetMessageTypeSupport r s
  | .getVendorDefinedMessageSupport r => Sys2Proof.Machine.execGetVendorDefinedMessageSupport r s
  | .unsupportedMctpMessage r => Sys2Proof.Machine.execUnsupportedMctpMessage r s
  | .entdaa addr => Sys2Proof.Machine.execEntdaa addr s
  | .basicManagementCommand r => Sys2Proof.Machine.execBasicManagementCommand r s
  | .readNvmeMiDataStructure r => Sys2Proof.Machine.execReadNvmeMiDataStructure r s
  | .nvmSubsystemHealthStatusPoll r => Sys2Proof.Machine.execNvmSubsystemHealthStatusPoll r s
  | .controllerHealthStatusPoll r => Sys2Proof.Machine.execControllerHealthStatusPoll r s
  | .configurationGet r => Sys2Proof.Machine.execConfigurationGet r s
  | .configurationSet r => Sys2Proof.Machine.execConfigurationSet r s
  | .vpdRead r => Sys2Proof.Machine.execVpdRead r s
  | .adminCommandTunnel r => Sys2Proof.Machine.execAdminCommandTunnel r s
  | .refusedNvmeMiCommand r => Sys2Proof.Machine.execRefusedNvmeMiCommand r s
  | .pageRead r => Sys2Proof.Machine.execPageRead r s
  | .pageWrite r => Sys2Proof.Machine.execPageWrite r s
  | .health r => Sys2Proof.Machine.execHealth r s
  | .powerGet r => Sys2Proof.Machine.execPowerGet r s
  | .powerRequest r => Sys2Proof.Machine.execPowerRequest r s
  | .logRead r => Sys2Proof.Machine.execLogRead r s
  | .fwSlotGet r => Sys2Proof.Machine.execFwSlotGet r s
  | .fwSlotSet r => Sys2Proof.Machine.execFwSlotSet r s
  | .fieldStatus r => Sys2Proof.Machine.execFieldStatus r s
  | .fieldConfig r => Sys2Proof.Machine.execFieldConfig r s
  | .evidProvision r => Sys2Proof.Machine.execEvidProvision r s
  | .rootBlob r => Sys2Proof.Machine.execRootBlob r s
  | .owner r => Sys2Proof.Machine.execOwner r s
  | .squallStatus r => Sys2Proof.Machine.execSquallStatus r s
  | .squallUnlock r => Sys2Proof.Machine.execSquallUnlock r s
  | .squallLock r => Sys2Proof.Machine.execSquallLock r s
  | .unknownVendorOp r => Sys2Proof.Machine.execUnknownVendorOp r s
  | .mainSideTimeout => Sys2Proof.Machine.execMainSideTimeout s
  | .healthRefresh answered => Sys2Proof.Machine.execHealthRefresh answered s
  | .breezeEntry => Sys2Proof.Machine.execBreezeEntry s
  | .breezeExit => Sys2Proof.Machine.execBreezeExit s
  | .automaticDeepTimer => Sys2Proof.Machine.execAutomaticDeepTimer s
  | .go m v => Sys2Proof.Machine.execGo m v s
  | .lullEntry => Sys2Proof.Machine.execLullEntry s
  | .calmEntry => Sys2Proof.Machine.execCalmEntry s
  | .lullExit => Sys2Proof.Machine.execLullExit s
  | .calmExit => Sys2Proof.Machine.execCalmExit s
  | .thermalSample temps watts => Sys2Proof.Machine.execThermalSample temps watts s
  | .throttleEffect => Sys2Proof.Machine.execThrottleEffect s
  | .thermalHold => Sys2Proof.Machine.execThermalHold s
  | .thermalHoldEnd => Sys2Proof.Machine.execThermalHoldEnd s
  | .wardenOscillatorStop => Sys2Proof.Machine.execWardenOscillatorStop s
  | .pllUnlock pll => Sys2Proof.Machine.execPllUnlock pll s
  | .crystalStop x25 => Sys2Proof.Machine.execCrystalStop x25 s
  | .alwaysOnPowerOn i3c => Sys2Proof.Machine.execAlwaysOnPowerOn i3c s
  | .mainStart f => Sys2Proof.Machine.execMainStart f s
  | .mainSideRestart f => Sys2Proof.Machine.execMainSideRestart f s
  | .v12MainLoss => Sys2Proof.Machine.execV12MainLoss s
  | .vccqNLoss => Sys2Proof.Machine.execVccqNLoss s
  | .supplySample main aon vccq => Sys2Proof.Machine.execSupplySample main aon vccq s
  | .alarm n => Sys2Proof.Machine.execAlarm n s
  | .alarmEnd n => Sys2Proof.Machine.execAlarmEnd n s
  | .rearm m v => Sys2Proof.Machine.execRearm m v s
  | .availabilityTick => Sys2Proof.Machine.execAvailabilityTick s
  | .accountingLogWrite => Sys2Proof.Machine.execAccountingLogWrite s
  | .unlock m v => Sys2Proof.Machine.execUnlock m v s
  | .sqlLock m v => Sys2Proof.Machine.execSqlLock m v s
  | .sqForce m page v => Sys2Proof.Machine.execSqForce m page v s
  | .delayedResultRelease => Sys2Proof.Machine.execDelayedResultRelease s
  | .scaledReadyRelease die => Sys2Proof.Machine.execScaledReadyRelease die s
  | .v3p3AonLoss => Sys2Proof.Machine.execV3p3AonLoss s
  | .vfEnableSet n => Sys2Proof.Machine.execVfEnableSet n s
  | .pcieL1Entry pm => Sys2Proof.Machine.execPcieL1Entry pm s
  | .speedPulse widthUs => Sys2Proof.Machine.execSpeedPulse widthUs s
  | .srbSelfTest m bank pass => Sys2Proof.Machine.execSrbSelfTest m bank pass s
  | .fieldAppendBoundPassed => Sys2Proof.Machine.execFieldAppendBoundPassed s
  | .slewComplete => Sys2Proof.Machine.execSlewComplete s

end Sys2Proof.Machine
end

