-- ==== Sys2Proof/Safety.lean ====
section
/-!
DEFINITION. The terms in which claims about the block are stated: a command that is carried out, an access that the common rules let
through, and the form that every state of the machine keeps.
-/

namespace Sys2Proof.Machine

/-- The device carries a command out: it answers a next state, of which `P` holds. -/
def Does (c : Instr) (s : State) (P : State → Prop) : Prop := ∃ t, exec c s = .next t ∧ P t

/-- A step is safe when it answers a next state: neither a fault nor a refusal. -/
def Steps (s : State) : Prop := ∃ t, step s = .next t

/-! ## Accesses -/

/-- A register that neither the delivery of an event, nor a counter, nor an error capture writes: all but EV_RAW, ERR_CAP0 to ERR_CAP7 and the
counter area of a page, the oscillator's bits in CLK (R424), and EVT_FIRST (R450). The key is page × 4096 + offset. -/
def QuietReg (k : Nat) : Prop :=
  k % 4096 ≠ 0x20 ∧ ¬(0x40 ≤ k % 4096 ∧ k % 4096 < 0x60) ∧ k % 4096 < 0xF00 ∧
    k ∉ [CLK_STAT, CLK_RUN0, EVT_FIRST0, EVT_FIRST1, EVT_FIRST2]


/-- An aligned 32-bit access of a master reaches the register `d` of a page (R26, R32, the first two rows of R33). -/
def Reaches (s : State) (m : Master) (page off : Nat) (d : RegDef) : Prop :=
  reaches m page = true ∧ (kindOf page).isSome = true ∧ s.pageOn page = true ∧ off % 4 = 0 ∧ regDef page off = some d

/-- A write that no row of R33 before the block's own conditions stops: the master may write the register, the Squall area is not
locked, and a value for EV_ROUTE is valid. -/
def Writes (s : State) (m : Master) (page off : Nat) (v : Word) (d : RegDef) : Prop :=
  Reaches s m page off d ∧ tenantView m page = false ∧ d.owner ≠ .none ∧ (inSquall off && s.squallHolder.isNone) = false ∧
    s.mayWrite m page d = true ∧ (decide (off = 0x34) && s.badRoute v) = false

/-- A write that the common rules and the block's own conditions `cond` let through whole: no reserved bit is set. -/
def Accepts (s : State) (m : Master) (page off : Nat) (v : Word) (cond : State → Option State) (d : RegDef) : Prop :=
  Writes (s.arrive m) m page off v d ∧ cond (s.arrive m) = none ∧ v &&& d.reserved = 0

/-! ## Commands of the host -/

/-- The next entry of an I/O queue is fetched as `c`, leaving `u`; its bound runs from `t0` (R53). -/
def Fetched (c : NvmeCmd) (s u : State) (q : SQueue) (t0 : Nat) : Prop :=
  c.sqid ≠ 0 ∧ s.fetchEntry c = (u, some t0) ∧ (u.ctrl c.fn).sq? c.sqid = some q

/-- The next entry of an admin queue is fetched as `c`, leaving `u`. -/
def FetchedAdmin (c : NvmeCmd) (s u : State) : Prop := c.sqid = 0 ∧ ∃ t0, s.fetchEntry c = (u, some t0)

/-- Forecast admits a command (R54): an Evidential one on its budget and die spacing, another on its class minimum and worst case. -/
def Admits (s : State) (k : Cmd) (r : Resolved) (d : Demand) (tail : Class → Rat) (len t0 : Nat) : Prop :=
  if r.cls = 0 then
    ¬((s.evSlice k.ref.fn.val).mbps = 0 ∧ (s.evSlice k.ref.fn.val).cmds = 0) ∧ 10000 ≤ (s.bucketNow k.ref.fn.val).cmds ∧
      len ≤ (s.bucketNow k.ref.fn.val).bytes ∧ k.dies.all s.spaced = true
  else
    classMin r.cls ≤ r.us ∧ s.worst r.cls d (tail r.cls) (s.tOrd (s.asAdmitted k r t0)) ≤ ((1000 * r.us : Nat) : Rat)

/-- What admission makes of a job (R55, R85): its record with its charges or tokens, and its start unless it waits for an earlier one. -/
def State.taken (s : State) (j : IoJob) (r : Resolved) (t0 : Nat) : State :=
  (j.ok (s.admitted (s.asAdmitted j.k r t0) j.d j.prog j.len)).kickOff j.k.ref

/-! ## Instructions of the cells -/

/-- The instruction at the PC of the command's cell is `w` under the command's EXT words, and none of the conditions that come before
its encoding's meets it (R147): the core issues, its words are fetched leaving `v`, the budget lasts, no interrupt is taken, and
no word lies in words 0 to 63 in program mode. -/
def Issuable (s : State) (i : Iss) (w : IWord) (v : State) : Prop :=
  let k := s.cell i.cell
  let start := k.pc.toNat + k.run.latched.toNat
  s.issues i.cell k.inRep = true ∧ s.fetchSlot i.cell start (i.ext.length + 1) = (some (i.ext.map extWord ++ [w]), v) ∧
    (pmode k && (k.sp.cycBud == 0 || s.armed (celPage i.cell) 6)) = false ∧ (k.mayInt && s.irqLevel i.cell) = false ∧
    (pmode k && lowFetch start (i.ext.length + 1)) = false

/-- The slots of an instruction: its words, or one inside a repeat after the first iteration (R174). -/
def Cell.slotsOf (k : Cell) (i : Iss) : Nat := if k.run.latched && k.run.iterated then 1 else i.ext.length + 1

/-- The instruction issues: its encoding raises nothing, and it acts on `u`, in which its slots have passed. -/
def Issues (s : State) (i : Iss) (w : IWord) (u : State) : Prop :=
  ∃ v, Issuable s i w v ∧ undefWord w = false ∧ rsvdWord w = false ∧ chainBad w i.ext = false ∧ i.ext.length ≤ 3 ∧
    u = v.modCell i.cell fun q =>
      let q := q.slots ((s.cell i.cell).slotsOf i)
      if !(s.cell i.cell).run.latched && !isPrefix w then q.modSp fun p => { p with stat := p.stat &&& 0x7 } else q

/-- CYCBUD lasts for `n` cycles and the EXT words (R145, R158). -/
def Affords (s : State) (i : Iss) (n : Nat) : Prop :=
  pmode (s.cell i.cell) = true → n + ((s.cell i.cell).slotsOf i - 1) ≤ (s.cell i.cell).sp.cycBud.toNat

/-- What issue makes of an instruction's own effect `v` (R145, R153, R158, R174): the cycles are charged in program mode, INSTR
counts, and the PC, or inside a repeat the count, moves. -/
def State.issued (v s : State) (i : Iss) (n : Nat) (pc : Option (BitVec 14)) : State :=
  let k := s.cell i.cell
  let b := k.sp.cycBud - BitVec.ofNat 32 (n + (k.slotsOf i - 1))
  (if pmode k then v.modCell i.cell fun q => q.modSp fun p => { p with cycBud := b } else v).retire i.cell i.ext pc k.run.latched

/-- What an instruction's cycles leave of CYCBUD when it traps (R145). -/
def State.paid (u : State) (c : CellId) (n : Nat) : State :=
  if pmode (u.cell c) then u.modCell c fun k => k.modSp fun p => { p with cycBud := (u.cell c).sp.cycBud - BitVec.ofNat 32 n } else u

/-- What an instruction that reads and writes registers of cell `c` leaves alone: the registers of `keep`, the cell's memories, stream units
and engine ports, SP and SPLIM, every other cell, the stored error patterns, and the units beyond the cells. -/
structure CoreFrame (c : CellId) (keep : Reg → Prop) (s t : State) : Prop where
  others : ∀ e, e ≠ c → t.cell e = s.cell e
  regs : ∀ r, keep r → (t.cell c).reg r = (s.cell c).reg r
  memories : (t.cell c).dm = (s.cell c).dm ∧ (t.cell c).im = (s.cell c).im ∧ (t.cell c).sb0 = (s.cell c).sb0 ∧ (t.cell c).sb1 = (s.cell c).sb1
  units : (t.cell c).su0 = (s.cell c).su0 ∧ (t.cell c).su1 = (s.cell c).su1 ∧ (t.cell c).suL = (s.cell c).suL ∧
    (t.cell c).ports = (s.cell c).ports
  stack : (t.cell c).sp.sp = (s.cell c).sp.sp ∧ (t.cell c).sp.splim = (s.cell c).sp.splim
  device : t.upsets = s.upsets ∧ t.adm = s.adm ∧ t.prog = s.prog ∧ t.fabric = s.fabric ∧ t.ftl = s.ftl ∧ t.care = s.care ∧ t.red = s.red ∧
    t.media = s.media ∧ t.search = s.search ∧ t.crypto = s.crypto ∧ t.dram = s.dram ∧ t.vfm = s.vfm ∧ t.field = s.field ∧ t.frl = s.frl

/-! ## Words of the microcode -/

/-- The sequencer of a channel works on a long word of its microstore that passes every check of R277. -/
def AtWord (s : State) (ch : Chan) (w : Word) : Prop :=
  (s.chan ch.val).seq.word = w ∧ s.pageOn (mchPage ch.val) = true ∧ s.regBit (MCH_CTRL ch.val) 0 = true ∧
    (s.chan ch.val).seq.active = true ∧ (s.chan ch.val).seq.wait ≠ some 0 ∧ (s.chan ch.val).seq.fault = 0 ∧ bit w 31 = false

/-! ## Requests of the side-band port -/

/-- The port takes a request, leaving `v`: it answers, the message's length and check hold, its tag carries no request yet, the warden is
not moving (R91), and fewer than four requests are held (R406, R407, R409). -/
def Takes (s : State) (r : SbReq) (v : State) : Prop :=
  s.portOn = true ∧ r.body.length ≤ 1024 ∧ r.chk = true ∧
    ((s.startWosc.sb.waits.any fun w => w.eid == r.eid && w.tag == r.key) || s.startWosc.sb.held.any fun w => w.eid == r.eid && w.key == r.key)
      = false ∧
    s.startWosc.moving 40 = false ∧ v = s.startWosc.count 0x0F8 2 1 ∧ v.sb.waits.length + v.sb.held.length < 4

/-- The port takes a vendor request of an OP with its reserved bytes 0; the warden is not in its ROM, or `rom` says that the ROM serves
the OP as well (R409, R437). -/
def TakesOp (s : State) (r : SbReq) (op : Nat) (rom : Bool) (v : State) : Prop :=
  Takes s r v ∧ r.type = 0x7E ∧ r.op = op ∧ (v.inRom && !rom) = false ∧ fld r.body 2 2 = 0

/-- A main-side cell serves a request at once: the main side is up, in Gale or Breeze, and its cells answer (R412). -/
def Serves (v : State) : Prop := v.mainAwake = true ∧ v.sb.state6 = false

/-! ## The form of a state -/

/-- The registers are in canonical form: keys rising, no register listed at its reset value. -/
def State.Canonical (s : State) : Prop := SMap.wf (fun k => resetOf (k / 4096) (k % 4096)) s.pages.regs = true

/-- The units that the device has (R13, R76, R198): 41 cells, 16 functions, 16 channels, 128 dies, 16 search banks, 64 key slots,
16 cipher lanes, 4 digest lanes, 32 context slots, 4 DRAM channels and 4 slices. -/
def State.Complete (s : State) : Prop :=
  s.cells.length = 41 ∧ s.host.ctrls.length = 16 ∧ s.host.logs.length = 16 ∧ s.vfm.vfs.length = 16 ∧
    s.media.chans.length = 16 ∧ s.media.dies.length = 128 ∧ s.search.banks.length = 16 ∧ s.crypto.slots.length = 64 ∧
    s.crypto.lanes.length = 16 ∧ s.crypto.bound.length = 4 ∧ s.crypto.ctxs.length = 32 ∧ s.dram.chans.length = 4 ∧
    s.dram.slices.length = 4

/-- The form that every step keeps. -/
def State.Sound (s : State) : Prop := s.Canonical ∧ s.Complete

end Sys2Proof.Machine
end

