-- ==== Sys2Proof/Certificates/Slice0/Obligations.lean ====
section
/-!
DEFINITION. The statements for the provers. `Does c s P` says that the command completes with a next state of which `P` holds; where the
conclusion equates that state with an expression, everything that the expression does not change is unchanged.
-/

open Sys2Proof Sys2Proof.Machine

/-- A step takes the command at the front of the queue and answers what that command does with the rest of the queue left waiting. -/
def Obligations.StepTakesFrontCommand : Prop :=
  ∀ (c : Instr) (rest : List Instr) (s : State), s.pending = c :: rest → step s = exec c { s with pending := rest }

/-- On an empty queue the block idles: the step leaves the machine as it is. This is the model's choice (log 1). -/
def Obligations.IdleStep : Prop :=
  ∀ s : State, s.pending = [] → step s = .next s

/-- No command ends in a fault or a refusal: in every state, the device either acts on it, answers it, or leaves it without effect. -/
def Obligations.NoCommandStops : Prop :=
  ∀ (c : Instr) (s : State), ∃ t, exec c s = .next t

/-- The machine after reset has the form that every step keeps: no command waits, the device time is 0, and every register holds the
reset value of its table but CEL_CTRL of cell 40, which the warden's start has released (log 4). -/
def Obligations.ResetState : Prop :=
  State.reset.Sound ∧ State.reset.pending = [] ∧ State.reset.pages.dtime = 0 ∧
    (∀ k, k ≠ 0x68080 → State.reset.reg k = resetOf (k / 4096) (k % 4096)) ∧ State.reset.reg 0x68080 = 0

/-- Every step keeps the form of the state: the registers stay in canonical form and the device keeps its units (R13, R76, R198). -/
def Obligations.SoundKept : Prop :=
  ∀ s t : State, s.Sound → step s = .next t → t.Sound

/-- Commands leave the queue one at a time in the order in which they wait, and no command adds one: a step takes off the front command and
leaves the others. -/
def Obligations.QueueFifo : Prop :=
  ∀ s t : State, step s = .next t → t.pending = s.pending.tail

/-- The commands of the register pages complete (R33, R35 to R42): a write that the common rules let through has its register's own
effect, a read is answered, and the device time advances. -/
def Obligations.PageCommands : Prop :=
  (∀ s m page off v d, Accepts s m page off v (pageCond page m off v) d →
    Does (.registerWrite m page off 32 v) s fun t => t = pageEffect page m off v d (s.arrive m)) ∧
  (∀ s m page off width, reaches m page = true → (kindOf page).isSome = true → (s.arrive m).pageOn page = true →
      (width ≠ 32 ∨ off % 4 ≠ 0) →
    Does (.refusedRead m page off width) s fun t =>
      t = ((s.arrive m).accessFail page 0 0x01 m off 0).emit (.reply m (widthReply m true))) ∧
  (∀ s m page v d, Accepts s m page 0x08 (setBit v 0 true) noCond d →
    Does (.errcapRearm m page v) s fun t =>
      t = (List.range 8).foldl (fun s k => s.setReg (page * 0x1000 + 0x40 + 4 * k) 0) (s.arrive m)) ∧
  (∀ s m page v d, Accepts s m page 0x2C v noCond d →
    Does (.evSet m page v) s fun t => t = (s.arrive m).raiseMask page v) ∧
  (∀ s m page v hw d, Accepts s m page 0x30 v noCond d →
    Does (.evClear m page v hw) s fun t => t = (clearRaw page v (s.arrive m)).raiseMask page hw) ∧
  (∀ s m page v d, Accepts s m page 0x34 v noCond d →
    Does (.evRouteWrite m page v) s fun t => t = routeEffect page v d (s.arrive m)) ∧
  (∀ s page v d, Accepts s .warden page 0x10 v (ownerCond .warden page v) d →
    Does (.pgOwnerWrite .warden page v) s fun t => t = s.store (PG_OWNER page) v d) ∧
  (∀ s m page slot v d, Accepts s m page (slotOff slot) v noCond d →
    Does (.counterClear m page slot v) s fun t => t = clearCounter page slot v (s.arrive m)) ∧
  (∀ s m page slot k i d, Reaches (s.arrive m) m page (slotOff slot) d → kindOf page = some (k, i) →
      (joinedSlots k).contains slot = true →
    Does (.counterLowRead m page slot) s fun t =>
      t = ((s.arrive m).latch page (slotOff slot + 4) m ((s.arrive m).view page (slotOff slot + 4))).answerRead m page
        ((s.arrive m).view page (slotOff slot))) ∧
  (∀ s m d, Reaches (s.arrive m) m 0 0x84 d →
    Does (.topDtimeLoRead m) s fun t =>
      t = ((s.arrive m).latch 0 0x88 m (((s.arrive m).pages.dtime >>> 32).setWidth 32)).answerRead m 0
        ((s.arrive m).pages.dtime.setWidth 32)) ∧
  (∀ s, s.fastClocks = true → Does (.deviceTimeTick false) s fun t => t = s.elapse 1) ∧
  (∀ s, s.fastClocks = false → Does (.deviceTimeTick true) s fun t =>
    t = { s.elapse (aonMicros s.pages.aonPhase) with
      pages := { (s.elapse (aonMicros s.pages.aonPhase)).pages with aonPhase := nextPhase s.pages.aonPhase } }) ∧
  (∀ s m page slot k i d l, Reaches (s.arrive m) m page (slotOff slot) d → kindOf page = some (k, i) →
      (joinedSlots k).contains slot = false →
      ((s.arrive m).pages.latches.find? fun l => l.page == page && l.off == slotOff slot && l.master == m) = some l →
    Does (.counterLowRead m page slot) s fun t =>
      t = ({ s.arrive m with pages := { (s.arrive m).pages with latches := (s.arrive m).pages.latches.erase l } } : State).answerRead m page
        l.val)

/-- The commands of Forecast's pages complete (R49, R64, R69, R70, R74, R75, R225): the buckets fill, slices and constants are stored, the
ledger is latched, the debt is refreshed, a refused housekeeping step is presented again, and a self-test segment is done. -/
def Obligations.ForecastCommands : Prop :=
  (∀ s, Does .tokenRefill s fun t =>
    t.adm.refilled = s.pages.dtime ∧ t.pages = s.pages ∧ t.adm.slices = s.adm.slices ∧ t.adm.buckets.length = 17 ∧
    ∀ f, f < 17 → t.bucket f =
      ⟨min (s.evSlice f).depth.bytes ((s.bucket f).bytes + (s.pages.dtime - s.adm.refilled).toNat * (s.evSlice f).mbps),
       min (s.evSlice f).depth.cmds ((s.bucket f).cmds + (s.pages.dtime - s.adm.refilled).toNat * (s.evSlice f).cmds)⟩) ∧
  (∀ s m v d, Accepts s m 0x020 0x90 v (sliceCond m v) d →
      (s.arrive m).field? ADM_SLSEL 4 0 < 16 → s.adm.slices.length = 16 →
    Does (.admSliceWrite m v) s fun t => t.evSlice ((s.arrive m).field? ADM_SLSEL 4 0) = ⟨bits v 7 0, bits v 23 16⟩ ∧
      t.pages = (s.arrive m).pages ∧ t.adm.refilled = (s.arrive m).pages.dtime) ∧
  (∀ s m v d, Accepts s m 0x020 0x90 v (sliceCond m v) d → 16 ≤ (s.arrive m).field? ADM_SLSEL 4 0 →
    Does (.admSliceWrite m v) s fun t => t = s.arrive m) ∧
  (∀ s m v d, Accepts s m 0x020 0x80 (setBit v 0 true) noCond d →
    Does (.lock m v) s fun t => t = admCtrlEffect (setBit v 0 true) d (s.arrive m)) ∧
  (∀ s m v d, Accepts s m 0x020 0xA4 v (cvalCond m v) d → (s.arrive m).field? ADM_CSEL 5 0 < 45 →
      SMap.wf (fun k => BitVec.ofNat 32 (constTable.getD k 0)) s.adm.consts = true →
    Does (.admCvalWrite m v) s fun t => t.constWord ((s.arrive m).field? ADM_CSEL 5 0) = v ∧ t.pages = (s.arrive m).pages) ∧
  (∀ s m v d, Accepts s m 0x021 0x80 (setBit v 0 true) noCond d →
    Does (.adlSnap m v) s fun t => t = (s.arrive m).ledger.foldl (fun t x => t.setReg x.1 x.2) (s.arrive m)) ∧
  (∀ s m v d, Accepts s m 0x020 0xA4 v (cvalCond m v) d → 45 ≤ (s.arrive m).field? ADM_CSEL 5 0 →
    Does (.admCvalWrite m v) s fun t => t = s.arrive m) ∧
  (∀ s, Does .gcdebtRefresh s fun t => t.care.bufUsed = s.bufUsed ∧ t.fresh = s.fresh + 1 ∧ t.adm = s.adm ∧ t.ftl = s.ftl ∧
    t.care.bufCur = if s.care.bufCur < s.bufTarget then
        min s.bufTarget (s.care.bufCur + (s.freeRaw - (s.care.bufCur - s.bufUsed) - s.raw / 10))
      else max s.bufFloor (max s.bufTarget s.bufUsed)) ∧
  (∀ s h u, (s.adm.house.find? fun h => decide (h.after ≤ s.ns)) = some h →
      u = (if h.cls = 1 then s else s.unhouse h.kind h.die h.block) →
    Does .housekeepingRetry s fun t => (h.kind = 0 → t = u.collect h.die h.block) ∧ (h.kind = 1 → t = u.foldBlock h.die h.block) ∧
        (h.kind = 2 → t = u.demoteUnit h.block) ∧ (h.kind = 3 → t = u.refreshBlock h.die h.block h.cls) ∧
        (h.kind = 4 → t = u.moveRetired h.die h.block) ∧ (5 ≤ h.kind → t = u.ckptStep h.cls)) ∧
  (∀ s, (s.adm.house.find? fun h => decide (h.after ≤ s.ns)) = none → Does .housekeepingRetry s fun t => t = s) ∧
  (∀ s fn units last pass d v, (s.logsOf fn).test.isSome = true → (s.logsOf fn).retry ≤ s.ns →
      d = { Demand.none with units := units.map fun u => (u.1.val, s.unitMode u.1.val u.2, 65536) } →
      v = s.uncharge (.work (2 ^ 50 + fn.val)) →
      d.units.foldl (fun a x => a + s.tr x.2.1 + s.xfer x.2.2 31) 0 ≤ (2000000000 : Rat) →
    Does (.selfTestSegment fn units last pass) s fun t =>
      t = if (2000000000 : Rat) < v.worst 3 d (v.tailVerify 3 d.units) 0 then
          s.modLogs fn fun l => { l with retry := s.ns + 10000000 }
        else if pass = false then v.endTest fn 7
        else if last = true then v.endTest fn 0
        else v.testBanks.chargeDemand (.work (2 ^ 50 + fn.val)) 3 d)

/-- The Evidential slices (R48): a write of ADM_SLICE by any master with any value leaves the sums over functions 0 to 15 within 95 MB/s
and 11,500 commands/s when they were within them. -/
def Obligations.SliceSums : Prop :=
  ∀ s m v, s.Canonical → s.adm.slices.length = 16 →
    (s.adm.slices.map Slice.mbps).sum ≤ 95 → (s.adm.slices.map Slice.cmds).sum ≤ 115 →
    Does (.admSliceWrite m v) s fun t =>
      t.adm.slices.length = 16 ∧ (t.adm.slices.map Slice.mbps).sum ≤ 95 ∧ (t.adm.slices.map Slice.cmds).sum ≤ 115

/-- The commands of the NVMe controllers complete (R24, R78, R81, R89, R447, R448, R481): BAR0 is read, doorbells move their pointers, a
controller becomes ready, is reset and shut down, and vectors are enabled and unmasked. -/
def Obligations.ControllerCommands : Prop :=
  (∀ s fn off, s.bar0On fn = true → off < 0x4000 → off % 4 = 0 →
    Does (.bar0Access fn off 4 none) s fun t =>
      t = (s.count64 0x010 2 1).reply (fnMaster fn) (.data ((s.count64 0x010 2 1).bar0Word fn off &&& 0xFFFFFFFF))) ∧
  (∀ s u fn y v q, u = s.arrive (fnMaster fn) → u.bar0On fn = true → y ≤ (u.ctrl fn).pool.length → (u.ctrl fn).sq? y = some q →
      v.toNat < q.size →
    Does (.sqTailDoorbell fn y 4 v) s fun t => t = u.modSq fn y fun q =>
      { q with tail := v.toNat, bells := if v.toNat = q.tail then q.bells else
          q.bells ++ [((v.toNat + q.size - q.tail) % q.size, u.ns)] }) ∧
  (∀ s u fn y v q, u = s.arrive (fnMaster fn) → u.bar0On fn = true → y ≤ (u.ctrl fn).pool.length → (u.ctrl fn).cq? y = some q →
      v.toNat < q.size →
    Does (.cqHeadDoorbell fn y 4 v) s fun t => t = u.modCq fn y fun q => { q with head := v.toNat }) ∧
  (∀ s u fn cc, u = s.count64 0x010 2 1 → s.bar0On fn = true → bit (s.ctrl fn).cc 0 = false → u.host.ctrls.length = 16 →
      (u.ctrl fn).resetting = false → (u.ctrl fn).badConfig (setBit cc 0 true &&& 0xFFFFF1) = false →
      (fn = 0 ∨ (u.vfm.vfs.getD fn.val .reset).online = true) →
    Does (.controllerEnable fn cc) s fun t =>
      (t.ctrl fn).cc = setBit cc 0 true &&& 0xFFFFF1 ∧ bit (t.ctrl fn).csts 0 = true ∧ (t.ctrl fn).fetching = true ∧
      (t.ctrl fn).sqs.map SQueue.qid = [0] ∧ (t.ctrl fn).cqs.map CQueue.qid = [0] ∧ t.pages = u.pages) ∧
  (∀ s fn, s.bar0On fn = true → bit (s.ctrl fn).cc 0 = true →
    Does (.controllerReset fn) s fun t => t = (s.count64 0x010 2 1).beginReset fn (s.ctrl fn).cc) ∧
  (∀ s fn, (s.ctrl fn).resetting = true → (s.vfm.vfs.getD fn.val .reset).flr = false →
      (s.host.cmds.any fun c => c.ref.fn == fn && c.awaits) = false →
    Does (.controllerResetComplete fn) s fun t => t = s.endReset fn) ∧
  (∀ s fn shn, s.bar0On fn = true → (shn = 1 ∨ shn = 2) → bits (s.ctrl fn).csts 3 2 = 0 →
    Does (.shutdownNotification fn shn) s fun t => t = (s.count64 0x010 2 1).shutdown fn shn) ∧
  (∀ s fn, fn ≠ 0 → bits (s.ctrl fn).csts 3 2 = 1 → (s.ftl.staging.any fun x => x.fn == fn) = false →
    Does (.shutdownComplete fn) s fun t => t = s.modCtrl fn fun c => { c with csts := setBits c.csts 3 2 2 }) ∧
  (∀ s fn, (s.ctrl fn).msixEn = false → s.pageOn 0x010 = true → s.host.link.up = true → s.fnExists fn.val = true →
    Does (.msixEnable fn) s fun t => t = (s.modCtrl fn fun c => { c with msixEn := true }).sweepVectors fn) ∧
  (∀ s fn v, s.bar0On fn = true → v < (if fn = 0 then 64 else 16) →
    Does (.msixMaskClear fn (some v)) s fun t =>
      t = (s.setTab fn (4 * v + 3) (setBit ((s.ctrl fn).vecCtl v) 0 false)).unmaskVector fn v) ∧
  (∀ s fn vec x, ((s.ctrl fn).coal.find? fun x => x.vec == vec) = some x →
      100 * (s.ctrl fn).feat.coalTime ≤ (s.pages.dtime - x.since).toNat →
    Does (.interruptCoalescingTimer fn vec) s fun t =>
      t = (s.modCtrl fn fun c => { c with coal := c.coal.filter fun y => y.vec != vec }).sendVector fn vec)

/-- The I/O commands complete (R54, R55, R81, R84 to R88, R96, R102, R111, R222): one whose entry is fetched, which passes the checks of its
rows and which Forecast admits is taken, with its record, its charges or tokens, and its start unless it waits for an earlier one. -/
def Obligations.HostIoCommands : Prop :=
  (∀ c s u q r t0, Fetched c s u q t0 → u.firstRow (readJob c q u).rows = none → (readJob c q u).r = some r →
      Admits u (readJob c q u).k r (readJob c q u).d (readJob c q u).tail (readJob c q u).len t0 →
    Does (.read c) s fun t => t = u.taken (readJob c q u) r t0) ∧
  (∀ c s u q r t0, Fetched c s u q t0 → u.firstRow (writeJob c q u).rows = none → (writeJob c q u).r = some r →
      Admits u (writeJob c q u).k r (writeJob c q u).d (writeJob c q u).tail (writeJob c q u).len t0 →
    Does (.write c) s fun t => t = u.taken (writeJob c q u) r t0) ∧
  (∀ c s u q r t0, Fetched c s u q t0 → u.firstRow (flushJob c q u).rows = none → (flushJob c q u).r = some r →
      Admits u (flushJob c q u).k r (flushJob c q u).d (flushJob c q u).tail (flushJob c q u).len t0 →
    Does (.flush c) s fun t => t = u.taken (flushJob c q u) r t0) ∧
  (∀ c s u q r t0, Fetched c s u q t0 → u.firstRow (compareJob c q u).rows = none → (compareJob c q u).r = some r →
      Admits u (compareJob c q u).k r (compareJob c q u).d (compareJob c q u).tail (compareJob c q u).len t0 →
    Does (.compare c) s fun t => t = u.taken (compareJob c q u) r t0) ∧
  (∀ c s u q r t0, Fetched c s u q t0 → u.firstRow (writeZeroesJob c q u).rows = none → (writeZeroesJob c q u).r = some r →
      Admits u (writeZeroesJob c q u).k r (writeZeroesJob c q u).d (writeZeroesJob c q u).tail (writeZeroesJob c q u).len t0 →
    Does (.writeZeroes c) s fun t => t = u.taken (writeZeroesJob c q u) r t0) ∧
  (∀ c s u q r t0, Fetched c s u q t0 → u.firstRow (dsmJob c q u).rows = none → (dsmJob c q u).r = some r →
      Admits u (dsmJob c q u).k r (dsmJob c q u).d (dsmJob c q u).tail (dsmJob c q u).len t0 →
    Does (.datasetManagement c) s fun t => t = u.taken (dsmJob c q u) r t0) ∧
  (∀ c s u q r t0, Fetched c s u q t0 → u.firstRow (verifyJob c q u).rows = none → (verifyJob c q u).r = some r →
      Admits u (verifyJob c q u).k r (verifyJob c q u).d (verifyJob c q u).tail (verifyJob c q u).len t0 →
    Does (.verify c) s fun t => t = u.taken (verifyJob c q u) r t0) ∧
  (∀ c s u q r t0, Fetched c s u q t0 → u.firstRow (copyJob c q u).rows = none → (copyJob c q u).r = some r →
      Admits u (copyJob c q u).k r (copyJob c q u).d (copyJob c q u).tail (copyJob c q u).len t0 →
    Does (.copy c) s fun t => t = u.taken (copyJob c q u) r t0) ∧
  (∀ c s u q r t0, Fetched c s u q t0 → u.firstRow (slmJob false c q u).rows = none → (slmJob false c q u).r = some r →
      Admits u (slmJob false c q u).k r (slmJob false c q u).d (slmJob false c q u).tail (slmJob false c q u).len t0 →
    Does (.memoryRead c) s fun t => t = u.taken (slmJob false c q u) r t0) ∧
  (∀ c s u q r t0, Fetched c s u q t0 → u.firstRow (slmJob true c q u).rows = none → (slmJob true c q u).r = some r →
      Admits u (slmJob true c q u).k r (slmJob true c q u).d (slmJob true c q u).tail (slmJob true c q u).len t0 →
    Does (.memoryWrite c) s fun t => t = u.taken (slmJob true c q u) r t0) ∧
  (∀ c s u q r t0, Fetched c s u q t0 → u.firstRow (programJob c q u).rows = none → (programJob c q u).r = some r → r.cls ≠ 0 →
      Admits u (programJob c q u).k r (programJob c q u).d (programJob c q u).tail (programJob c q u).len t0 →
      programCheck c u u = none →
    Does (.executeProgram c) s fun t => t = (u.taken (programJob c q u) r t0).enterExecs)

/-- The course of a command completes (R73, R81, R84, R85, R210, R457, R482, R483): a held command starts, host data lands or fails, the bound
passes, the completion is posted, and a dropped append is filled with zeros. -/
def Obligations.CommandCourse : Prop :=
  (∀ s c k, s.cmd? c = some k → k.phase = .held → (s.waitsFor k).isEmpty = true →
    Does (.commandStart c) s fun t => t = (s.begin c).enterExecs) ∧
  (∀ s u c k st x q, s.power.flush = 0 → s.pageOn 0x010 = true → s.fabric.pause = none → s.concludeExec c = u → u.cmd? c = some k → k.phase = .done st →
      (u.ctrl c.fn).sq? c.sqid = some x → (u.ctrl c.fn).cq? x.cqid = some q → (q.tail + 1) % q.size ≠ q.head →
    Does (.completionPost c) s fun t => t = u.post k st x q) ∧
  (∀ s c k, s.cmd? c = some k → k.admitted = true → k.cls = 0 → k.deadline < s.ns → k.phase = .working → s.adm.bound.contains c = false →
    Does (.evidentialBoundPassed c) s fun t =>
      t = ({ s with adm := { s.adm with bound := s.adm.bound ++ [c] } } : State).openSpan 2 (some c)) ∧
  (∀ s c k bs, s.cmd? c = some k → bs.length = (k.bytes + 4095) / 4096 → k.phase = .awaitData → s.armed 0x010 6 = false →
      k.kind ≠ .memWrite →
    Does (.hostWriteDataReceived c bs) s fun t => t = s.landWrite c bs) ∧
  (∀ s c k bs x rest, s.cmd? c = some k → bs.length = (k.bytes + 4095) / 4096 → k.phase = .awaitData → s.armed 0x010 6 = false →
      k.kind = .memWrite → k.writes = x :: rest →
    Does (.hostWriteDataReceived c bs) s fun t =>
      t = (s.poke (s.slmBase x.nsid + k.slma) ((bs.flatMap blockBytes).take k.bytes)).finish c stOk) ∧
  (∀ s c k bs, s.cmd? c = some k → bs.length = (k.bytes + 4095) / 4096 → k.phase = .working → k.kind = .compare → k.landed = false →
      s.armed 0x010 6 = false →
    Does (.hostWriteDataReceived c bs) s fun t => t = (s.modCmd c fun k => { k with data := bs, landed := true }).readDone c) ∧
  (∀ s c k, s.cmd? c.ref = some k → k.awaits = true ∨ k.phase = .working ∧ k.kind = .read →
    Does (.hostTransferFailure c) s fun t => t = s.failTransfer c.ref c.poisoned) ∧
  (∀ s c k, s.cmd? c.ref = some k → k.phase = .done stOk → k.kind = .read ∨ k.kind = .memRead →
    Does (.hostTransferFailure c) s fun t =>
      t = ((s.xferFail c.poisoned).logStatus c.ref stTransfer).modCmd c.ref fun k => { k with phase := .done stTransfer }) ∧
  (∀ s x d, (s.host.evid.open_.find? fun x => x.who.isNone && !x.zero) = some x → s.quietDie = some d →
    Does .droppedAppendZeroFill s fun t => t = s.zeroFill x d)

/-- The admin commands of queues, logs, features and events complete (R52, R80 to R83, R86, R97, R483): fetched on the admin queue, each has its
effect and ends with its status. -/
def Obligations.AdminQueueCommands : Prop :=
  (∀ c s u a, FetchedAdmin c s u → c.fused = false → 1 ≤ bits c.cdw10 15 0 → bits c.cdw10 15 0 ≤ (u.ctrl c.fn).pool.length →
      (u.ctrl c.fn).sq? (bits c.cdw10 15 0) = none → 1 ≤ bits c.cdw10 31 16 → bits c.cdw10 31 16 ≤ 4095 →
      bits c.cdw11 31 16 ≠ 0 → ((u.ctrl c.fn).cq? (bits c.cdw11 31 16)).isSome = true → c.prp1 = some a → bit c.cdw11 0 = true →
      a.toNat % 4096 = 0 →
    Does (.createIoSubmissionQueue c) s fun t => t = (u.modCtrl c.fn fun k => { k with sqs := k.sqs ++
      [{ qid := bits c.cdw10 15 0, size := bits c.cdw10 31 16 + 1, cqid := bits c.cdw11 31 16, base := a, head := 0, tail := 0, dclass := 2,
         fixed := true, ddl := 1600, doomed := [], bells := [], del := none }] }).finish c.ref stOk) ∧
  (∀ c s u a, FetchedAdmin c s u → c.fused = false → 1 ≤ bits c.cdw10 15 0 → bits c.cdw10 15 0 ≤ (u.ctrl c.fn).pool.length →
      (u.ctrl c.fn).cq? (bits c.cdw10 15 0) = none → 1 ≤ bits c.cdw10 31 16 → bits c.cdw10 31 16 ≤ 4095 →
      (bit c.cdw11 1 = true → bits c.cdw11 31 16 < vectors c.fn) → c.prp1 = some a → bit c.cdw11 0 = true → a.toNat % 4096 = 0 →
    Does (.createIoCompletionQueue c) s fun t => t = (u.modCtrl c.fn fun k => { k with cqs := k.cqs ++
      [{ qid := bits c.cdw10 15 0, size := bits c.cdw10 31 16 + 1, base := a, head := 0, tail := 0, phase := true,
         vec := bits c.cdw11 31 16, ien := bit c.cdw11 1 }] }).finish c.ref stOk) ∧
  (∀ c s u q, FetchedAdmin c s u → c.fused = false → bits c.cdw10 15 0 ≠ 0 → (u.ctrl c.fn).sq? (bits c.cdw10 15 0) = some q → q.del = none →
    Does (.deleteIoSubmissionQueue c) s fun t =>
      t = (((u.addCmd (Cmd.plain c.ref u.ns)).modSq c.fn (bits c.cdw10 15 0) fun q =>
        { q with del := some c.cid, tail := q.head, bells := [], doomed := [] }).endDelete c.fn (bits c.cdw10 15 0))) ∧
  (∀ c s u, FetchedAdmin c s u → c.fused = false → bits c.cdw10 15 0 ≠ 0 → ((u.ctrl c.fn).cq? (bits c.cdw10 15 0)).isSome = true →
      ((u.ctrl c.fn).sqs.any fun q => q.cqid == bits c.cdw10 15 0) = false →
    Does (.deleteIoCompletionQueue c) s fun t =>
      t = (u.modCtrl c.fn fun k => { k with cqs := k.cqs.filter fun q => q.qid != bits c.cdw10 15 0 }).finish c.ref stOk) ∧
  (∀ c s u p t, FetchedAdmin c s u → c.fused = false → u.logPage c.fn (bits c.cdw10 7 0) = some p → c.cdw12.toNat % 4 = 0 → c.cdw13 = 0 →
      c.cdw12.toNat < p.length → bit c.cdw14 23 = false → (bits c.cdw10 7 0 = 2 → c.nsid = 0xFFFFFFFF) →
      u.answerData c ((p.drop c.cdw12.toNat).take (4 * (bits c.cdw10 31 16 + 65536 * bits c.cdw11 15 0 + 1))) stOk = t →
      ((t.cmd? c.ref).any fun k => k.phase == .done stOk) = true →
    Does (.getLogPage c) s fun v => v = t.afterLog c.fn (bits c.cdw10 7 0) c.cdw12.toNat
      (4 * (bits c.cdw10 31 16 + 65536 * bits c.cdw11 15 0 + 1)) (bit c.cdw10 8) (bit c.cdw10 15)) ∧
  (∀ c s u bs, FetchedAdmin c s u → c.fused = false → u.identifyData c = .ok bs →
    Does (.identify c) s fun t => t = u.answerData c bs stOk) ∧
  (∀ c s u p, FetchedAdmin c s u → c.fused = false →
      u.waitingEntry c.fn (bits c.cdw10 15 0) c.data ((c.cdw10 >>> 16).setWidth 16) = some p →
      u.cmd? ⟨c.fn, bits c.cdw10 15 0, (c.cdw10 >>> 16).setWidth 16⟩ = none →
    Does (.abort c) s fun t => t = ((u.modSq c.fn (bits c.cdw10 15 0) fun q => { q with doomed := q.doomed ++ [p] }.pass).finish
      ⟨c.fn, bits c.cdw10 15 0, (c.cdw10 >>> 16).setWidth 16⟩ stAborted).finish c.ref stOk) ∧
  (∀ c s u, FetchedAdmin c s u → c.fused = false →
      u.waitingEntry c.fn (bits c.cdw10 15 0) c.data ((c.cdw10 >>> 16).setWidth 16) = none ∨
        (u.cmd? ⟨c.fn, bits c.cdw10 15 0, (c.cdw10 >>> 16).setWidth 16⟩).isSome = true →
    Does (.abort c) s fun t => t = u.finish c.ref (status 0 0 1)) ∧
  (∀ c s u v w, FetchedAdmin c s u → c.fused = false → featureIds.contains (bits c.cdw10 7 0) = true → bit c.cdw10 31 = false →
      bits c.cdw10 7 0 ≠ 0x0E → u.setFeature c (bits c.cdw10 7 0) = .ok (v, w) →
    Does (.setFeatures c) s fun t => t = v.finish c.ref (status 0 0 w)) ∧
  (∀ c s u w, FetchedAdmin c s u → c.fused = false → bits c.cdw10 10 8 = 0 → bits c.cdw10 7 0 ≠ 0x0E →
      u.getFeature c (bits c.cdw10 7 0) = .ok w →
    Does (.getFeatures c) s fun t => t = u.finish c.ref (status 0 0 w)) ∧
  (∀ c s u, FetchedAdmin c s u → c.fused = false → bit c.cdw10 31 = false →
    Does (.setFeaturesNumberOfQueues c) s fun t => t = u.finish c.ref (status 0 0 (u.queueCount c.fn))) ∧
  (∀ c s u, FetchedAdmin c s u → c.fused = false → bit c.cdw10 31 = false → c.fn = 0 → u.firstRow [ptrRow c 8, fetchRow c] = none →
    Does (.setFeaturesTimestamp c) s fun t => t =
      (u.sendField 0x82 0 (leBytes 8 (leNat (sub c.data 0 6) * 1000) ++ [1] ++ List.replicate 7 0) .firmware).finish c.ref stOk) ∧
  (∀ c s u, FetchedAdmin c s u → c.fused = false → bits c.cdw10 10 8 = 0 →
    Does (.getFeaturesTimestamp c) s fun t => t = u.answerData c u.timestamp stOk) ∧
  (∀ c s u v, FetchedAdmin c s u → c.fused = false → bit c.cdw10 31 = false → u.setDefault c = some v →
    Does (.setQueueAdmissionDefault c) s fun t => t = v.finish c.ref (status 0 0 0)) ∧
  (∀ c s u q, FetchedAdmin c s u → c.fused = false → bits c.cdw10 10 8 = 0 → bits c.cdw11 31 16 = 0 →
      (u.ctrl c.fn).sq? (bits c.cdw11 15 0) = some q → q.qid ≠ 0 →
    Does (.getQueueAdmissionDefault c) s fun t =>
      t = u.finish c.ref (status 0 0 (BitVec.ofNat 32 (q.dclass.val + 4 * q.fixed.toNat + 16 * q.ddl)))) ∧
  (∀ c s u, FetchedAdmin c s u → c.fused = false → (u.logsOf c.fn).aers.length < 8 →
    Does (.asynchronousEventRequest c) s fun t =>
      t = ((u.addCmd (Cmd.plain c.ref u.ns)).modLogs c.fn fun l => { l with aers := l.aers ++ [c.cid] }).drainAsync c.fn) ∧
  (∀ c s u t0, (if c.sqid = 0 then adminOpcodes c.fn else ioOpcodes).contains c.opc.toNat = false → s.fetchEntry c = (u, some t0) →
    Does (.invalidCommandOpcode c) s fun t => t = u.finish c.ref stOpcode)

/-- The admin commands of namespaces, firmware, programs and tests complete (R70, R80, R90, R91, R95, R101 to R104, R197, R312, R325). -/
def Obligations.AdminManagementCommands : Prop :=
  (∀ c s u x, FetchedAdmin c s u → c.fused = false → c.fn = 0 → bits c.cdw10 3 0 = 1 → c.nsid ≠ 1 → c.nsid ≠ 0xFFFFFFFF → deferRow c u = none →
      u.ns? c.nsid = some x →
    Does (.namespaceManagement c) s fun t => t = (u.deleteNs x).finish c.ref stOk) ∧
  (∀ c s u n b, FetchedAdmin c s u → c.fused = false → c.fn = 0 → bits c.cdw10 3 0 = 0 → u.firstRow [ptrRow c 4096, fetchRow c] = none →
      bits c.cdw11 31 24 = 0 → ((List.range 31).find? fun k => (u.ns? (k + 2)).isNone) = some n → leNat (sub c.data 30 1) = 0 →
      leNat (sub c.data 29 1) = 0 → leNat (sub c.data 26 1) = 0 → leNat (sub c.data 0 8) ≠ 0 → leNat (sub c.data 8 8) = leNat (sub c.data 0 8) →
      u.nvmBlocks + leNat (sub c.data 0 8) ≤ u.userBlocks → b = u.newBase (leNat (sub c.data 0 8)) →
    Does (.namespaceManagement c) s fun t => t =
      ((({ u with host := { u.host with nss := u.host.nss ++ [⟨n + 2, .nvm, leNat (sub c.data 0 8), none, b⟩] } } : State).commit
        [.nschg (n + 2) 0 b (unitsFor (leNat (sub c.data 0 8)))]).deriveNext (n + 2) 1 0xFF (n + 2)).finish c.ref
          (status 0 0 (BitVec.ofNat 32 (n + 2)))) ∧
  (∀ c s u n l v, FetchedAdmin c s u → c.fused = false → c.fn = 0 → bits c.cdw10 3 0 ≤ 1 → (u.nsInfo c.nsid).isSome = true → deferRow c u = none →
      u.firstRow [ptrRow c 4096, fetchRow c] = none → n = leNat (sub c.data 0 2) → 1 ≤ n → n ≤ 2047 →
      l = (List.range n).map (fun k => leNat (sub c.data (2 + 2 * k) 2)) → (∀ f ∈ l, f < 16 ∧ u.fnExists f = true) →
      u.overList (fun s f => if bits c.cdw10 3 0 = 0 then s.attachNs c.nsid f else s.detachNs c.nsid f) l = .ok v →
    Does (.namespaceAttachment c) s fun t =>
      t = (l.foldl (fun (s : State) f => s.nsChanged (Fin.ofNat 16 f) c.nsid) v).finish c.ref stOk) ∧
  (∀ c s u x, FetchedAdmin c s u → c.fused = false → c.nsid ≠ 1 → c.nsid ≠ 0xFFFFFFFF → (u.kindFor c.fn c.nsid).isSome = true →
      bits c.cdw10 3 0 = 0 → bits c.cdw10 13 12 = 0 → (bits c.cdw10 11 9 = 0 ∨ bits c.cdw10 11 9 = 2) → bits c.cdw10 8 4 = 0 →
      ((u.host.nss.filter fun x => x.owner == some c.fn && x.kind == .nvm).find? fun x => x.nsid == c.nsid) = some x →
      deferRow c u = none →
    Does (.formatNvm c) s fun t => t = (u.formatNs x).finish c.ref stOk) ∧
  (∀ c s u, FetchedAdmin c s u → c.fused = false → (bits c.cdw10 3 0 = 1 ∨ bits c.cdw10 3 0 = 2) → (u.logsOf c.fn).test = none →
    Does (.deviceSelfTest c) s fun t =>
      t = (u.modLogs c.fn fun l => { l with test := some (bits c.cdw10 3 0) }).finish c.ref stOk) ∧
  (∀ c s u n, FetchedAdmin c s u → c.fused = false → c.fn = 0 → n = 4 * (c.cdw10.toNat + 1) → n % 4096 = 0 → 4 * c.cdw11.toNat % 4096 = 0 →
      4 * c.cdw11.toNat + n ≤ imageMax → u.firstRow [ptrRow c n, fetchRow c] = none →
    Does (.firmwareImageDownload c) s fun t =>
      t = (u.modFw fun w => { w with down := storeBytes w.down (4 * c.cdw11.toNat) (sub c.data 0 n) }).finish c.ref stOk) ∧
  (∀ c s u, FetchedAdmin c s u → c.fused = false → c.fn = 0 → bits c.cdw10 5 3 = 0 → u.activating = false →
      (bits c.cdw10 2 0 = 1 ∨ bits c.cdw10 2 0 = 2) → u.host.fw.down ≠ [] →
    Does (.firmwareCommitReplace c) s fun t => t = (u.addCmd (Cmd.plain c.ref u.ns)).modFw fun w =>
      { w with commit := some { ref := c.ref, action := 0, slot := bits c.cdw10 2 0, step := 0 } }) ∧
  (∀ c s u, FetchedAdmin c s u → c.fused = false → c.fn = 0 → bits c.cdw10 5 3 = 2 → u.activating = false → bits c.cdw10 2 0 ≤ 2 →
    Does (.firmwareCommitNextReset c) s fun t => t = (u.addCmd (Cmd.plain c.ref u.ns)).modFw fun w =>
      { w with commit := some { ref := c.ref, action := 2, slot := u.commitSlot (bits c.cdw10 2 0), step := 0 } }) ∧
  (∀ c s u, FetchedAdmin c s u → c.fused = false → c.fn = 0 → bits c.cdw10 5 3 = 3 → u.activating = false → bits c.cdw10 2 0 ≤ 2 →
    Does (.firmwareCommitActivate c) s fun t => t = (u.addCmd (Cmd.plain c.ref u.ns)).modFw fun w =>
      { w with commit := some { ref := c.ref, action := 3, slot := u.commitSlot (bits c.cdw10 2 0), step := 0 } }) ∧
  (∀ s k, s.host.fw.commit = some k → k.step = 0 → s.host.fw.down ≠ [] →
    Does (.signatureCheckDone true) s fun t => t = match k.action with
      | 0 => (s.replaceSlot k.slot).endCommit k stOk
      | 1 => ((s.replaceSlot k.slot).putRec fun r => { r with next := k.slot }).endCommit k stOk
      | 2 => (s.putRec fun r => { r with next := k.slot }).endCommit k stOk
      | _ => (s.replaceSlot k.slot).startActivation k)

/-- The commands that manage programs complete (R103 to R107): a piece of an object is loaded, a program is activated and deactivated, and a
range set is defined. -/
def Obligations.ProgramCommands : Prop :=
  (∀ c s u n, FetchedAdmin c s u → u.cpOf c.fn = some c.nsid → isSlot (bits c.cdw10 15 0) = true → u.progActive c.fn (bits c.cdw10 15 0) = false →
      bit c.cdw10 24 = false → n = c.cdw12.toNat → n % 4 = 0 → c.cdw13.toNat % 4 = 0 → c.cdw13.toNat + n ≤ 294912 →
      ptrBad c.dptr n = none → c.xfer = true → u.xferOk = (true, u) →
    Does (.loadProgram c) s fun t => t = (u.setSlot c.fn (bits c.cdw10 15 0) (some (storeBytes
      ((u.slotImage c.fn (bits c.cdw10 15 0)).getD []) c.cdw13.toNat (sub c.data 0 n)))).finish c.ref stOk) ∧
  (∀ c s u i, FetchedAdmin c s u → u.cpOf c.fn = some c.nsid → i = bits c.cdw10 15 0 → bits c.cdw10 19 16 = 1 → u.progActive c.fn i = false →
      (isBuiltin i = true ∨ isSlot i = true ∧ ∃ m, u.slotImage c.fn i = some m ∧ kcoValid m = true) →
    Does (.programActivationManagement c) s fun t => t = (u.setActive c.fn i true).finish c.ref stOk) ∧
  (∀ c s u i, FetchedAdmin c s u → u.cpOf c.fn = some c.nsid → i = bits c.cdw10 15 0 → bits c.cdw10 19 16 = 0 →
      (isBuiltin i || isSlot i) = true →
    Does (.programActivationManagement c) s fun t => t = (u.setActive c.fn i false).finish c.ref stOk) ∧
  (∀ c s u i n, FetchedAdmin c s u → u.cpOf c.fn = some c.nsid → bits c.cdw10 3 0 = 0 → i = bits c.cdw10 31 16 → 1 ≤ i → i ≤ 32 →
      n = bits c.cdw11 7 0 → 1 ≤ n → n ≤ 16 → ptrBad c.dptr (32 * n) = none → c.xfer = true → u.xferOk = (true, u) →
      ((List.range n).all fun k => u.okDesc c.fn (sub c.data (32 * k) 32)) = true →
    Does (.memoryRangeSetManagement c) s fun t =>
      t = (u.setRanges c.fn i (some ((List.range n).map fun k => rangeDesc (sub c.data (32 * k) 32)))).finish c.ref stOk)

/-- The commands of virtual functions complete (R77, R99, R363 to R371): controllers go offline, are assigned pairs and go online, shares are
selected and applied, mailboxes are used, pages are logged and their bitmap copied, and functions are reset. -/
def Obligations.VirtualFunctionCommands : Prop :=
  (∀ c s u f, FetchedAdmin c s u → c.fused = false → c.fn = 0 → bits c.cdw10 3 0 = 7 → bits c.cdw10 31 16 = f.val → f ≠ 0 →
      u.fnExists f.val = true → bit (u.ctrl f).cc 0 = false → (u.ctrl f).resetting = false → u.host.ctrls.length = 16 →
    Does (.secondaryControllerOffline c) s fun t => t = ((u.modVf f.val fun v => { v with online := false }).modCtrl f
      fun k => { k with fetching := false }).finish c.ref stOk) ∧
  (∀ c s u f n, FetchedAdmin c s u → c.fused = false → c.fn = 0 → bits c.cdw10 3 0 = 8 → bits c.cdw10 31 16 = f.val → f ≠ 0 →
      u.fnExists f.val = true → bits c.cdw10 10 8 = 0 → (u.vf f.val).online = false → bits c.cdw11 15 0 = n → n ≤ 127 →
      n < (u.ctrl 0).pool.length + (u.ctrl f).pool.length →
      (∀ q ∈ (u.ctrl 0).sqs, q.qid ≤ (u.ctrl 0).pool.length - (n - (u.ctrl f).pool.length)) →
      (∀ q ∈ (u.ctrl 0).cqs, q.qid ≤ (u.ctrl 0).pool.length - (n - (u.ctrl f).pool.length)) → (u.ctrl 0).pool ≠ [] →
    Does (.secondaryControllerAssign c) s fun t => t = (u.assignPairs f n).finish c.ref (status 0 0 (BitVec.ofNat 32 n))) ∧
  (∀ c s u f, FetchedAdmin c s u → c.fused = false → c.fn = 0 → bits c.cdw10 3 0 = 9 → bits c.cdw10 31 16 = f.val → f ≠ 0 →
      u.fnExists f.val = true → (u.ctrl f).pool.isEmpty = false →
    Does (.secondaryControllerOnline c) s fun t => t = (u.modVf f.val fun v => { v with online := true }).finish c.ref stOk) ∧
  (∀ s m v d, Accepts s m 0x018 0x80 v noCond d →
    Does (.vfmSelWrite m v) s fun t => t = ((s.arrive m).store VFM_SEL v d).reloadShares) ∧
  (∀ s m v d, Accepts s m 0x018 0xA4 (setBit v 0 true) (shareCond m 0xA4 (setBit v 0 true)) d → (s.arrive m).fnExists (s.arrive m).vfmSel.val = true →
      ((s.arrive m).vfmSel = 0 ∨ ((s.arrive m).vf (s.arrive m).vfmSel.val).online = false) →
      (s.arrive m).shareConflict (s.arrive m).vfmSel (s.arrive m).staged = false →
      (s.arrive m).slmHeld (s.arrive m).vfmSel ≤ (s.arrive m).staged.slm * 2 ^ 26 →
    Does (.apply m v) s fun t => t = (s.arrive m).applyShares (s.arrive m).vfmSel (s.arrive m).staged) ∧
  (∀ s fn v d, Accepts s (.vf fn) (vmbPage fn.val) 0x180 (setBit v 0 true) noCond d → ((s.arrive (.vf fn)).vf fn.val).upFull = false →
      boxOk ((s.arrive (.vf fn)).vmbOut fn.val) = true → bit v 1 = false →
    Does (.mailboxSend (.vf fn) fn v) s fun t => t = ((s.arrive (.vf fn)).modVf fn.val fun x =>
      { x with mbUp := (s.arrive (.vf fn)).vmbOut fn.val, upFull := true }).raise vfmPage 3) ∧
  (∀ s fn v d, s.vfmSel = fn → (s.arrive .pf).vfmSel = fn → fn ≠ 0 → (s.arrive .pf).fnExists fn.val = true →
      Accepts s .pf 0x018 0x180 (setBit v 1 true) noCond d → ((s.arrive .pf).vf fn.val).upFull = true → bit v 0 = false →
    Does (.mailboxAck .pf fn v) s fun t =>
      t = ((s.arrive .pf).modVf fn.val fun x => { x with upFull := false }).raise (vmbPage fn.val) 4) ∧
  (∀ s m v d, Accepts s m 0x018 0xC0 (setBits v 1 0 1) (dpCond m 0xC0 (setBits v 1 0 1)) d →
    Does (.dirtyPageEnable m v) s fun t => t = dpCtrlEffect (setBits v 1 0 1) (s.arrive m)) ∧
  (∀ s m v d, Accepts s m 0x018 0xC0 (setBit v 1 true) (dpCond m 0xC0 (setBit v 1 true)) d →
    Does (.copyBitmap m v) s fun t => t = dpCtrlEffect (setBit v 1 true) (s.arrive m)) ∧
  (∀ s fn, (s.dirtyOf fn.val).busy = true →
    Does (.dirtyPageCopyDone fn) s fun t => t = (((s.hostWrite 0 [((s.dirtyOf fn.val).dest, (s.dirtyOf fn.val).gib * 32768)]
      (bitmapBytes (s.dirtyOf fn.val).old ((s.dirtyOf fn.val).gib * 32768))).modDirty fn.val fun d =>
        { d with old := [], overB := false, busy := false, rounds := d.rounds + 1 }).raise vfmPage 7)) ∧
  (∀ s fn, (s.vfm.zeroing.any fun z => z.1 == fn.val) = true →
    Does (.slmShareZero fn) s fun t => t = { s.zeroSlm with vfm := { s.vfm with zeroing := s.vfm.zeroing.filter fun z => z.1 != fn.val } }) ∧
  (∀ s fn, fn ≠ 0 → s.fnExists fn.val = true → s.host.link.up = true → s.pageOn 0x010 = true → (s.vf fn.val).flr = false →
    Does (.flrVf fn) s fun t => t = s.beginFlr fn) ∧
  (∀ s fn, (s.vf fn.val).flr = true →
    Does (.vfResetComplete fn) s fun t => t = s.endFlr fn) ∧
  (∀ s, s.pageOn 0x010 = true →
    Does .vfEnableClear s fun t => t = s.clearVfEnable) ∧
  (∀ s n, s.host.link.vfEn = false → s.host.link.up = true → s.pageOn 0x010 = true →
    Does (.vfEnableSet n) s fun t =>
      t = { s with host := { s.host with link := { s.host.link with vfEn := true, numVfs := n.val } } }) ∧
  (∀ s, s.host.link.up = true → s.pageOn 0x010 = true → (s.ctrl 0).resetting = false →
    Does .flrPf s fun t => t = (s.beginReset 0 (s.ctrl 0).cc).clearVfEnable)

/-- The commands of the PCIe link and its resets complete (R76, R98, R426, R442 to R445). -/
def Obligations.LinkCommands : Prop :=
  (∀ s speed width, s.host.link.up = false → s.host.link.perst = false → (s.start.phase = .evReady ∨ s.start.phase = .full) →
      s.pageOn 0x010 = true → 1 ≤ speed → speed ≤ 5 → (width = 1 ∨ width = 2 ∨ width = 4) →
    Does (.pcieLinkUp speed width) s fun t => t =
      (((s.modLink fun l => { l with up := true, pm := 0, speed := speed, width := width }).setReg CLK_STAT
        (setBit (s.reg CLK_STAT) 4 true)).setReg CLK_RUN1 (s.reg CLK_RUN1 ||| 0x80)).raise 0x010 4) ∧
  (∀ s, Does .pcieLinkDown s fun t => t = s.linkDown) ∧
  (∀ s pm, s.host.link.up = true → 1 ≤ pm → pm ≤ 3 →
    Does (.pcieL1Entry pm) s fun t => t = ({ s with power := { s.power with breezeT :=
      if pm < 2 then none else if 2 ≤ s.host.link.pm then s.power.breezeT else some s.pages.dtime } } : State).modLink fun l => { l with pm := pm }) ∧
  (∀ s, s.host.link.up = true → s.host.link.pm ≠ 0 → s.field? PWR_STAT 2 0 < 2 →
    Does .pcieL1Exit s fun t =>
      t = ({ s with power := { s.power with breezeT := none } } : State).modLink fun l => { l with pm := 0 }) ∧
  (∀ s v, s.host.link.up = true → (bits v 1 0 = 0 ∨ bits v 1 0 = 3) → s.field? PWR_STAT 2 0 < 2 →
    Does (.pmcsrWrite v) s fun t => t = s.modCtrl 0 fun c => { c with d3hot := bits v 1 0 == 3 }) ∧
  (∀ s, s.host.link.perst = false →
    Does .perstAsserted s fun t => t = ((s.modLink fun l => { l with perst := true }).ctrlReset 2).linkDown) ∧
  (∀ s, s.host.link.perst = true →
    Does .perstDeasserted s fun t => t = if s.regBit PWR_WAKEEN 2 then (s.modLink fun l => { l with perst := false }).wakeBy 2
      else s.modLink fun l => { l with perst := false }) ∧
  (∀ s, s.host.link.up = true → Does .hotReset s fun t => t = s.ctrlReset 3) ∧
  (∀ s m v d, Accepts s m 0x003 0x84 (setBit v 1 true) (rstCtrlCond m (setBit v 1 true)) d → bit v 0 = false →
    Does (.ctrlrst m v) s fun t => t = (s.arrive m).ctrlReset 3) ∧
  (∀ s m v d, Accepts s m 0x003 0x84 (setBit v 0 true) (rstCtrlCond m (setBit v 0 true)) d → bit v 1 = false → (s.arrive m).mainOn = true →
    Does (.mainrst m v) s fun t => t = { s.arrive m with start := { (s.arrive m).start with pendRst := some 4 } })

/-- The two-register instructions of the cells complete (R134, R142, R143, R159, R160, R162, R178): with operands of the tags that the rules
allow, the result with its tag and FLAGS is written, a product is started, or FLAGS alone is written, in one cycle. -/
def Obligations.CellArithmetic : Prop :=
  (∀ i rd rs s u a b, Issues s i (opWord 0x1 0 rd rs) u → Affords s i 1 → (u.cell i.cell).reg rd = a → (u.cell i.cell).reg rs = b →
      (isNum a.tag = true ∧ b.tag = a.tag ∨ a.tag = tTime ∧ b.tag = tInt ∨ a.tag = tInt ∧ b.tag = tTime) →
    Does (.add i rd rs) s fun t =>
      t = (u.result i.cell rd ⟨if a.tag = tTime ∨ b.tag = tTime then tTime else a.tag, a.val + b.val⟩
        (addFlags (u.cell i.cell).sp.flags a.val b.val)).issued s i 1 none) ∧
  (∀ i rd rs s u a b, Issues s i (opWord 0x1 1 rd rs) u → Affords s i 1 → (u.cell i.cell).reg rd = a → (u.cell i.cell).reg rs = b →
      (isNum a.tag = true ∧ b.tag = a.tag ∨ a.tag = tTime ∧ b.tag = tInt ∨ a.tag = tTime ∧ b.tag = tTime) →
    Does (.sub i rd rs) s fun t =>
      t = (u.result i.cell rd ⟨if a.tag = tTime ∧ b.tag = tTime then tInt else a.tag, a.val - b.val⟩
        (subFlags (u.cell i.cell).sp.flags a.val b.val)).issued s i 1 none) ∧
  (∀ i rd rs s u a b, Issues s i (opWord 0x1 2 rd rs) u → Affords s i 1 → (u.cell i.cell).reg rd = a → (u.cell i.cell).reg rs = b →
      isLogic a.tag = true ∧ b.tag = a.tag →
    Does (.and i rd rs) s fun t =>
      t = (u.result i.cell rd ⟨a.tag, a.val &&& b.val⟩
        (setZN00 (u.cell i.cell).sp.flags (a.val &&& b.val))).issued s i 1 none) ∧
  (∀ i rd rs s u a b, Issues s i (opWord 0x1 3 rd rs) u → Affords s i 1 → (u.cell i.cell).reg rd = a → (u.cell i.cell).reg rs = b →
      isLogic a.tag = true ∧ b.tag = a.tag →
    Does (.or i rd rs) s fun t =>
      t = (u.result i.cell rd ⟨a.tag, a.val ||| b.val⟩
        (setZN00 (u.cell i.cell).sp.flags (a.val ||| b.val))).issued s i 1 none) ∧
  (∀ i rd rs s u a b, Issues s i (opWord 0x2 0 rd rs) u → Affords s i 1 → (u.cell i.cell).reg rd = a → (u.cell i.cell).reg rs = b →
      isLogic a.tag = true ∧ b.tag = a.tag →
    Does (.xor i rd rs) s fun t =>
      t = (u.result i.cell rd ⟨a.tag, a.val ^^^ b.val⟩
        (setZN00 (u.cell i.cell).sp.flags (a.val ^^^ b.val))).issued s i 1 none) ∧
  (∀ i rd rs s u a b, Issues s i (opWord 0x2 1 rd rs) u → Affords s i 1 → (u.cell i.cell).reg rd = a → (u.cell i.cell).reg rs = b →
      isNum a.tag = true ∧ isIdx b.tag = true →
    Does (.shl i rd rs) s fun t =>
      t = (u.result i.cell rd ⟨a.tag, (shlOp a.val b.val.toNat).1⟩
        (shiftFlags (u.cell i.cell).sp.flags (shlOp a.val b.val.toNat).1 (shlOp a.val b.val.toNat).2)).issued s i 1 none) ∧
  (∀ i rd rs s u a b, Issues s i (opWord 0x2 2 rd rs) u → Affords s i 1 → (u.cell i.cell).reg rd = a → (u.cell i.cell).reg rs = b →
      isNum a.tag = true ∧ isIdx b.tag = true →
    Does (.shr i rd rs) s fun t =>
      t = (u.result i.cell rd ⟨a.tag, (shrOp a.val b.val.toNat).1⟩
        (shiftFlags (u.cell i.cell).sp.flags (shrOp a.val b.val.toNat).1 (shrOp a.val b.val.toNat).2)).issued s i 1 none) ∧
  (∀ i rd rs s u a b, Issues s i (opWord 0x2 3 rd rs) u → Affords s i 1 → (u.cell i.cell).reg rd = a → (u.cell i.cell).reg rs = b →
      isNum a.tag = true ∧ isIdx b.tag = true →
    Does (.sar i rd rs) s fun t =>
      t = (u.result i.cell rd ⟨a.tag, (sarOp a.val b.val.toNat).1⟩
        (shiftFlags (u.cell i.cell).sp.flags (sarOp a.val b.val.toNat).1 (sarOp a.val b.val.toNat).2)).issued s i 1 none) ∧
  (∀ i rd rs s u a b, Issues s i (opWord 0x3 0 rd rs) u → Affords s i 1 → (u.cell i.cell).reg rd = a → (u.cell i.cell).reg rs = b →
      isNum a.tag = true ∧ b.tag = a.tag → (clampTo a.tag (intOf a + intOf b)).2 = false →
    Does (.adds i rd rs) s fun t =>
      t = (u.result i.cell rd ⟨a.tag, BitVec.ofInt 32 (intOf a + intOf b)⟩
        (setZNCV (u.cell i.cell).sp.flags (BitVec.ofInt 32 (intOf a + intOf b) == 0) (BitVec.ofInt 32 (intOf a + intOf b)).msb
          ((addFlags (u.cell i.cell).sp.flags a.val b.val).getLsbD 2) ((addFlags (u.cell i.cell).sp.flags a.val b.val).getLsbD 3))).issued s i 1 none) ∧
  (∀ i rd rs s u a b, Issues s i (opWord 0x3 0 rd rs) u → Affords s i 1 → (u.cell i.cell).reg rd = a → (u.cell i.cell).reg rs = b →
      isNum a.tag = true ∧ b.tag = a.tag → (clampTo a.tag (intOf a + intOf b)).2 = true →
    Does (.adds i rd rs) s fun t => ∃ c,
      t = (u.free.2.result i.cell rd ⟨a.tag, (clampTo a.tag (intOf a + intOf b)).1⟩
        (setSV (setZNCV (u.cell i.cell).sp.flags ((clampTo a.tag (intOf a + intOf b)).1 == 0) (clampTo a.tag (intOf a + intOf b)).1.msb
          c true))).issued s i 1 none) ∧
  (∀ i rd rs s u a b, Issues s i (opWord 0x3 1 rd rs) u → Affords s i 1 → (u.cell i.cell).reg rd = a → (u.cell i.cell).reg rs = b →
      isNum a.tag = true ∧ b.tag = a.tag → (clampTo a.tag (intOf a - intOf b)).2 = false →
    Does (.subs i rd rs) s fun t =>
      t = (u.result i.cell rd ⟨a.tag, BitVec.ofInt 32 (intOf a - intOf b)⟩
        (setZNCV (u.cell i.cell).sp.flags (BitVec.ofInt 32 (intOf a - intOf b) == 0) (BitVec.ofInt 32 (intOf a - intOf b)).msb
          ((subFlags (u.cell i.cell).sp.flags a.val b.val).getLsbD 2) ((subFlags (u.cell i.cell).sp.flags a.val b.val).getLsbD 3))).issued s i 1 none) ∧
  (∀ i rd rs s u a b, Issues s i (opWord 0x3 1 rd rs) u → Affords s i 1 → (u.cell i.cell).reg rd = a → (u.cell i.cell).reg rs = b →
      isNum a.tag = true ∧ b.tag = a.tag → (clampTo a.tag (intOf a - intOf b)).2 = true →
    Does (.subs i rd rs) s fun t => ∃ c,
      t = (u.free.2.result i.cell rd ⟨a.tag, (clampTo a.tag (intOf a - intOf b)).1⟩
        (setSV (setZNCV (u.cell i.cell).sp.flags ((clampTo a.tag (intOf a - intOf b)).1 == 0) (clampTo a.tag (intOf a - intOf b)).1.msb
          c true))).issued s i 1 none) ∧
  (∀ i rd rs s u a b, Issues s i (opWord 0x3 2 rd rs) u → Affords s i 1 → (u.cell i.cell).reg rd = a → (u.cell i.cell).reg rs = b →
      isNum a.tag = true ∧ b.tag = a.tag →
    Does (.mul i rd rs) s fun t => t = (u.modCell i.cell fun k => { k with mul := some (productOf a b) }).issued s i 1 none) ∧
  (∀ i rd rs s u a b, Issues s i (opWord 0x3 3 rd rs) u → Affords s i 1 → (u.cell i.cell).reg rd = a → (u.cell i.cell).reg rs = b →
      (isNum a.tag = true ∨ a.tag = tBytes ∨ a.tag = tPtr ∨ a.tag = tTime) ∧ b.tag = a.tag →
    Does (.cmp i rd rs) s fun t => t = (u.setFlags i.cell
      (if a.tag = tBytes ∨ a.tag = tPtr then setEq (u.cell i.cell).sp.flags (a.val == b.val)
       else if a.tag = tTime then setZN00 (u.cell i.cell).sp.flags (a.val - b.val)
       else subFlags (u.cell i.cell).sp.flags a.val b.val)).issued s i 1 none)

/-- The instructions with an immediate and the moves of the cells complete (R133, R134, R136, R137, R139, R144, R157, R160, R163): a value
under its EXT payloads, a register or a special register is combined, compared, moved, narrowed or given a tag. -/
def Obligations.CellImmediatesAndMoves : Prop :=
  (∀ i rd im s u a, Issues s i (opWord 0x6 0 rd im) u → Affords s i 1 → (u.cell i.cell).reg rd = a →
      (isNum a.tag = true ∨ a.tag = tTime) →
    Does (.addi i rd im) s fun t =>
      t = (u.result i.cell rd ⟨a.tag, a.val + immValue (opWord 0x6 0 rd im) i.ext⟩
        (addFlags (u.cell i.cell).sp.flags a.val (immValue (opWord 0x6 0 rd im) i.ext))).issued s i 1 none) ∧
  (∀ i rd im s u a, Issues s i (opWord 0x6 1 rd im) u → Affords s i 1 → (u.cell i.cell).reg rd = a →
      (isNum a.tag = true ∨ a.tag = tBytes ∨ a.tag = tTime) →
    Does (.cmpi i rd im) s fun t => t = (u.setFlags i.cell
      (if a.tag = tBytes ∨ a.tag = tPtr then setEq (u.cell i.cell).sp.flags (a.val == immValue (opWord 0x6 1 rd im) i.ext)
       else if a.tag = tTime then setZN00 (u.cell i.cell).sp.flags (a.val - immValue (opWord 0x6 1 rd im) i.ext)
       else subFlags (u.cell i.cell).sp.flags a.val (immValue (opWord 0x6 1 rd im) i.ext))).issued s i 1 none) ∧
  (∀ i rd im s u a, Issues s i (opWord 0x6 2 rd im) u → Affords s i 1 → (u.cell i.cell).reg rd = a →
      (isNum a.tag = true ∨ a.tag = tBytes) →
    Does (.andi i rd im) s fun t =>
      t = (u.result i.cell rd ⟨a.tag, a.val &&& immValue (opWord 0x6 2 rd im) i.ext⟩
        (setZN00 (u.cell i.cell).sp.flags (a.val &&& immValue (opWord 0x6 2 rd im) i.ext))).issued s i 1 none) ∧
  (∀ i rd im s u a, Issues s i (opWord 0x6 3 rd im) u → Affords s i 1 → (u.cell i.cell).reg rd = a →
      (isNum a.tag = true ∨ a.tag = tBytes) →
    Does (.ori i rd im) s fun t =>
      t = (u.result i.cell rd ⟨a.tag, a.val ||| immValue (opWord 0x6 3 rd im) i.ext⟩
        (setZN00 (u.cell i.cell).sp.flags (a.val ||| immValue (opWord 0x6 3 rd im) i.ext))).issued s i 1 none) ∧
  (∀ i tg rd im s u, Issues s i (opWord 0x5 tg rd im) u → Affords s i 1 →
    Does (.li i tg rd im) s fun t => t = (u.setW i.cell rd ⟨liTag tg, immValue (opWord 0x5 tg rd im) i.ext⟩).issued s i 1 none) ∧
  (∀ i rd rs s u a, Issues s i (opWord 0x4 0 rd rs) u → Affords s i 1 → (u.cell i.cell).reg rs = a → a.tag ≠ tPoison →
      (a.tag = tRetadr → pmode (u.cell i.cell) = false) →
    Does (.mov i rd rs) s fun t => t = (u.setW i.cell rd a).issued s i 1 none) ∧
  (∀ i rd rs s u a b, Issues s i (opWord 0x4 1 rd rs) u → Affords s i 1 → (u.cell i.cell).reg rd = a → (u.cell i.cell).reg rs = b →
      a.tag = tPtr ∧ isIdx b.tag = true → ptrBase a.val + bits b.val 15 0 + bits b.val 31 16 ≤ ptrLimit a.val →
    Does (.narrow i rd rs) s fun t => t = (u.setW i.cell rd ⟨tPtr, BitVec.ofNat 32
      ((ptrBase a.val + bits b.val 15 0 + bits b.val 31 16) * 65536 + (ptrBase a.val + bits b.val 15 0))⟩).issued s i 1 none) ∧
  (∀ i rd rs s u a b, Issues s i (opWord 0x4 2 rd rs) u → Affords s i 1 → (u.cell i.cell).reg rd = a → (u.cell i.cell).reg rs = b →
      a.tag = tBytes ∧ b.tag = tBytes →
    Does (.beql i rd rs) s fun t =>
      t = (u.result i.cell rd ⟨tBytes, laneEq a.val b.val⟩
        (setZ (u.cell i.cell).sp.flags (a.val == b.val))).issued s i 1 none) ∧
  (∀ i rd rs s u a b, Issues s i (opWord 0xB 3 rd rs) u → Affords s i 1 → (u.cell i.cell).reg rd = a → (u.cell i.cell).reg rs = b →
      a.tag ≠ tPoison ∧ b.tag = tUns → retagRsvd b.val a.val = false → pmode (u.cell i.cell) = false →
    Does (.retag i rd rs) s fun t => t = (u.setW i.cell rd ⟨b.val.setWidth 4, a.val⟩).issued s i 1 none) ∧
  (∀ i rd sp s u, Issues s i (opWord 0xB 0 rd sp) u → Affords s i 1 →
    Does (.movs i rd sp) s fun t => t = (u.setW i.cell rd (readSpecial (u.cell i.cell)
      ((u.cell i.cell).pc + BitVec.ofNat 14 (u.cell i.cell).run.latched.toNat) sp.toNat)).issued s i 1 none) ∧
  (∀ i sp rs s u a, Issues s i (opWord 0xB 1 sp rs) u → Affords s i 1 → (u.cell i.cell).reg rs = a →
      setsPriv i.cell (u.cell i.cell) sp.toNat a = false → (isIdx a.tag = true ∨ (sp = 4 ∨ sp = 5) ∧ a.tag = tFix) →
    Does (.sets i sp rs) s fun t => t = (u.modCell i.cell fun k => k.modSp fun p => writeSpecial p sp.toNat a).issued s i 1 none)

/-- The instructions of the cells on one register complete (R161, R164, R173): clearing, device time, tests, complements, conversions, counts
of bits, byte order, tags and conditions. -/
def Obligations.CellRegisterForms : Prop :=
  (∀ i s u, Issues s i (sysWord 0x01 0) u → Affords s i 1 →
    Does (.nop i) s fun t => t = u.issued s i 1 none) ∧
  (∀ i r s u, Issues s i (sysWord 0x06 r) u → Affords s i 1 →
    Does (.clr i r) s fun t => t = (u.setW i.cell r ⟨tVoid, 0⟩).issued s i 1 none) ∧
  (∀ i r s u, Issues s i (sysWord 0x07 r) u → Affords s i 1 →
    Does (.rdtime i r) s fun t => t = (u.setW i.cell r ⟨tTime, u.pages.dtime.setWidth 32⟩).issued s i 1 none) ∧
  (∀ i r s u a, Issues s i (sysWord 0x0D r) u → Affords s i 1 → (u.cell i.cell).reg r = a →
      isOut a.tag = true →
    Does (.test i r) s fun t =>
      t = (u.result i.cell r a
        (setZN00 (u.cell i.cell).sp.flags a.val)).issued s i 1 none) ∧
  (∀ i r s u a, Issues s i (sysWord 0x0E r) u → Affords s i 1 → (u.cell i.cell).reg r = a →
      isLogic a.tag = true →
    Does (.not i r) s fun t =>
      t = (u.result i.cell r ⟨a.tag, if a.tag = tBool then 1 - a.val else ~~~a.val⟩
        (setZN00 (u.cell i.cell).sp.flags (if a.tag = tBool then 1 - a.val else ~~~a.val))).issued s i 1 none) ∧
  (∀ i r s u a, Issues s i (sysWord 0x0F r) u → Affords s i 1 → (u.cell i.cell).reg r = a →
      (a.tag = tInt ∨ a.tag = tFix) →
    Does (.neg i r) s fun t =>
      t = (u.result i.cell r ⟨a.tag, 0 - a.val⟩
        (subFlags (u.cell i.cell).sp.flags 0 a.val)).issued s i 1 none) ∧
  (∀ i r s u a, Issues s i (sysWord 0x10 r) u → Affords s i 1 → (u.cell i.cell).reg r = a → isLogic a.tag = true →
    Does (.cvti i r) s fun t => t = (if a.tag = tInt then u.result i.cell r a (setZNV (u.cell i.cell).sp.flags a.val false)
      else u.result i.cell r ⟨tInt, (toInt' a).1⟩ (if (toInt' a).2.2 then setSV (setZNV (u.cell i.cell).sp.flags (toInt' a).1 (toInt' a).2.1)
        else setZNV (u.cell i.cell).sp.flags (toInt' a).1 (toInt' a).2.1)).issued s i 1 none) ∧
  (∀ i r s u a, Issues s i (sysWord 0x11 r) u → Affords s i 1 → (u.cell i.cell).reg r = a → isLogic a.tag = true →
    Does (.cvtu i r) s fun t => t = (if a.tag = tUns then u.result i.cell r a (setZNV (u.cell i.cell).sp.flags a.val false)
      else u.result i.cell r ⟨tUns, (toUns' a).1⟩ (if (toUns' a).2.2 then setSV (setZNV (u.cell i.cell).sp.flags (toUns' a).1 (toUns' a).2.1)
        else setZNV (u.cell i.cell).sp.flags (toUns' a).1 (toUns' a).2.1)).issued s i 1 none) ∧
  (∀ i r s u a, Issues s i (sysWord 0x12 r) u → Affords s i 1 → (u.cell i.cell).reg r = a → isLogic a.tag = true →
    Does (.cvtf i r) s fun t => t = (if a.tag = tFix then u.result i.cell r a (setZNV (u.cell i.cell).sp.flags a.val false)
      else u.result i.cell r ⟨tFix, (toFix' a).1⟩ (if (toFix' a).2.2 then setSV (setZNV (u.cell i.cell).sp.flags (toFix' a).1 (toFix' a).2.1)
        else setZNV (u.cell i.cell).sp.flags (toFix' a).1 (toFix' a).2.1)).issued s i 1 none) ∧
  (∀ i r s u a, Issues s i (sysWord 0x13 r) u → Affords s i 1 → (u.cell i.cell).reg r = a → isLogic a.tag = true →
    Does (.cvtb i r) s fun t => t = (if a.tag = tBytes then u.result i.cell r a (setZNV (u.cell i.cell).sp.flags a.val false)
      else u.result i.cell r ⟨tBytes, (toBytes' a).1⟩ (if (toBytes' a).2.2 then setSV (setZNV (u.cell i.cell).sp.flags (toBytes' a).1 (toBytes' a).2.1)
        else setZNV (u.cell i.cell).sp.flags (toBytes' a).1 (toBytes' a).2.1)).issued s i 1 none) ∧
  (∀ i r s u a, Issues s i (sysWord 0x14 r) u → Affords s i 1 → (u.cell i.cell).reg r = a → isLogic a.tag = true →
    Does (.cvtl i r) s fun t => t = (if a.tag = tBool then u.result i.cell r a (setZNV (u.cell i.cell).sp.flags a.val false)
      else u.result i.cell r ⟨tBool, (toBool' a).1⟩ (if (toBool' a).2.2 then setSV (setZNV (u.cell i.cell).sp.flags (toBool' a).1 (toBool' a).2.1)
        else setZNV (u.cell i.cell).sp.flags (toBool' a).1 (toBool' a).2.1)).issued s i 1 none) ∧
  (∀ i r s u a, Issues s i (sysWord 0x15 r) u → Affords s i 1 → (u.cell i.cell).reg r = a →
      (isIdx a.tag = true ∨ a.tag = tBytes) →
    Does (.clz i r) s fun t =>
      t = (u.result i.cell r ⟨tUns, BitVec.ofNat 32 (clzOf a.val)⟩
        (setZN00 (u.cell i.cell).sp.flags (BitVec.ofNat 32 (clzOf a.val)))).issued s i 1 none) ∧
  (∀ i r s u a, Issues s i (sysWord 0x16 r) u → Affords s i 1 → (u.cell i.cell).reg r = a →
      (isIdx a.tag = true ∨ a.tag = tBytes) →
    Does (.popc i r) s fun t =>
      t = (u.result i.cell r ⟨tUns, BitVec.ofNat 32 (popOf a.val)⟩
        (setZN00 (u.cell i.cell).sp.flags (BitVec.ofNat 32 (popOf a.val)))).issued s i 1 none) ∧
  (∀ i r s u a, Issues s i (sysWord 0x17 r) u → Affords s i 1 → (u.cell i.cell).reg r = a →
      a.tag = tBytes →
    Does (.bswp i r) s fun t =>
      t = (u.result i.cell r ⟨tBytes, bswpOf a.val⟩
        (setZN00 (u.cell i.cell).sp.flags (bswpOf a.val))).issued s i 1 none) ∧
  (∀ i r s u a, Issues s i (sysWord 0x19 r) u → Affords s i 1 → (u.cell i.cell).reg r = a → a.tag ≠ tPoison →
    Does (.tagof i r) s fun t => t = (u.setW i.cell r ⟨tUns, a.tag.setWidth 32⟩).issued s i 1 none) ∧
  (∀ i r c s u, Issues s i (sysWord (BitVec.ofNat 6 (0x20 + c.val)) r) u → Affords s i 1 →
    Does (.setc i r c) s fun t =>
      t = (u.setW i.cell r ⟨tBool, BitVec.ofNat 32 (condHolds (u.cell i.cell).sp.flags c.val).toNat⟩).issued s i 1 none)

/-- The memory, stack and call instructions of the cells complete (R127, R134, R135, R137, R141, R159, R165, R166, R172): an address that the
rules admit is read into a register or written from one, and SP moves with what is pushed and popped. -/
def Obligations.CellMemoryAndStack : Prop :=
  (∀ i rd im s u v a w, Issues s i (majorWord 0x7 ((0 : BitVec 1) ++ rd ++ im)) u → Affords s i 1 →
      a = (immValue (majorWord 0x7 ((0 : BitVec 1) ++ rd ++ im)) i.ext).toNat → a ≤ 32767 → u.decodeDm i.cell a = (w, v) →
      (∀ x, w = some x → x.tag ≠ tPoison ∧ (x.tag = tRetadr → pmode (u.cell i.cell) = false)) →
    Does (.ld i rd im) s fun t => t = (v.setW i.cell rd (w.getD ⟨tPoison, 0⟩)).issued s i 1 none) ∧
  (∀ i rs im s u a w, Issues s i (majorWord 0x7 ((1 : BitVec 1) ++ rs ++ im)) u → Affords s i 1 →
      a = (immValue (majorWord 0x7 ((1 : BitVec 1) ++ rs ++ im)) i.ext).toNat → a ≤ 32767 → (u.cell i.cell).reg rs = w →
      w.tag ≠ tPoison → movable (u.cell i.cell) w.tag = true → guarded i.cell u a = false →
    Does (.st i rs im) s fun t => t = (u.writeDm i.cell a w).issued s i 1 none) ∧
  (∀ i rd rp hi s u v p x a w, Issues s i (majorWord 0x8 ((0 : BitVec 1) ++ rd ++ rp ++ bitOf hi)) u → Affords s i 1 →
      (u.cell i.cell).reg rp = p → (u.cell i.cell).reg (idxReg hi) = x → p.tag = tPtr ∧ isIdx x.tag = true → ptrAddr p x = some a →
      u.decodeDm i.cell a = (w, v) → (∀ x, w = some x → x.tag ≠ tPoison ∧ (x.tag = tRetadr → pmode (u.cell i.cell) = false)) →
    Does (.ldx i rd rp hi) s fun t => t = (v.setW i.cell rd (w.getD ⟨tPoison, 0⟩)).issued s i 1 none) ∧
  (∀ i rs rp hi s u p x a w, Issues s i (majorWord 0x8 ((1 : BitVec 1) ++ rs ++ rp ++ bitOf hi)) u → Affords s i 1 →
      (u.cell i.cell).reg rs = w → (u.cell i.cell).reg rp = p → (u.cell i.cell).reg (idxReg hi) = x → w.tag ≠ tPoison →
      movable (u.cell i.cell) w.tag = true → p.tag = tPtr ∧ isIdx x.tag = true → ptrAddr p x = some a → guarded i.cell u a = false →
    Does (.stx i rs rp hi) s fun t => t = (u.writeDm i.cell a w).issued s i 1 none) ∧
  (∀ i r s u a, Issues s i (sysWord 0x08 r) u → Affords s i 1 → ((u.cell i.cell).reg r).tag ≠ tPoison →
      movable (u.cell i.cell) ((u.cell i.cell).reg r).tag = true → pushAddr (u.cell i.cell) = some a →
      guarded i.cell u a = false →
    Does (.push i r) s fun t => t = ((u.writeDm i.cell a ((u.cell i.cell).reg r)).modCell i.cell fun k =>
      k.modSp fun p => { p with sp := BitVec.ofNat 16 a }).issued s i 1 none) ∧
  (∀ i r s u v w, Issues s i (sysWord 0x09 r) u → Affords s i 1 → (u.cell i.cell).sp.sp.toNat < 32768 →
      u.decodeDm i.cell (u.cell i.cell).sp.sp.toNat = (w, v) →
      (∀ x, w = some x → x.tag ≠ tPoison ∧ (x.tag = tRetadr → pmode (u.cell i.cell) = false)) →
    Does (.pop i r) s fun t =>
      t = ((v.setW i.cell r (w.getD ⟨tPoison, 0⟩)).modCell i.cell fun k => k.modSp fun p => { p with sp := p.sp + 1 }).issued s i 1 none) ∧
  (∀ i s u v w, Issues s i (sysWord 0x05 0) u → Affords s i 2 → (u.cell i.cell).sp.sp.toNat < 32768 →
      u.readDm i.cell (u.cell i.cell).sp.sp.toNat = (w, v) → w.tag = tRetadr →
    Does (.ret i) s fun t => t = (v.modCell i.cell fun k => k.modSp fun p => { p with sp := p.sp + 1 }).issued s i 2
      (some (w.val.setWidth 14))) ∧
  (∀ i target s u a, Issues s i (majorWord 0xD ((1 : BitVec 1) ++ target)) u → Affords s i 2 → pushAddr (u.cell i.cell) = some a →
    Does (.call i target) s fun t => t = (u.push i.cell a (retadr ((u.cell i.cell).pc + BitVec.ofNat 14 (i.ext.length + 1)))).issued s i 2
      (some ((immValue (majorWord 0xD ((1 : BitVec 1) ++ target)) i.ext).setWidth 14))) ∧
  (∀ i r s u a x, Issues s i (sysWord 0x0B r) u → Affords s i 2 → (u.cell i.cell).reg r = x → isIdx x.tag = true → x.val.toNat ≤ 16383 →
      pushAddr (u.cell i.cell) = some a →
    Does (.callr i r) s fun t => t = (u.push i.cell a (retadr ((u.cell i.cell).pc + BitVec.ofNat 14 (i.ext.length + 1)))).issued s i 2
      (some (x.val.setWidth 14)))

/-- The control instructions of the cells complete (R144, R146 to R149, R161, R172 to R176, R179): branches and jumps move the PC, RETT returns,
IDLE waits, END and SWI take their traps, prefixes latch a repeat, and an unassigned encoding raises UNDEF or RSVD. -/
def Obligations.CellControlTransfer : Prop :=
  (∀ i c off s u w, w = majorWord 0xC (BitVec.ofNat 4 c.val ++ off) → Issues s i w u → condHolds (u.cell i.cell).sp.flags c.val = true →
      Affords s i 2 →
    Does (.b i c off) s fun t => t = u.issued s i 2 (some ((u.cell i.cell).pc + BitVec.ofNat 14 (i.ext.length + 1) +
      (immValue w i.ext).setWidth 14))) ∧
  (∀ i c off s u w, w = majorWord 0xC (BitVec.ofNat 4 c.val ++ off) → Issues s i w u → condHolds (u.cell i.cell).sp.flags c.val = false →
      Affords s i 1 →
    Does (.b i c off) s fun t => t = u.issued s i 1 none) ∧
  (∀ i target s u, Issues s i (majorWord 0xD ((0 : BitVec 1) ++ target)) u → Affords s i 2 →
    Does (.jmp i target) s fun t =>
      t = u.issued s i 2 (some ((immValue (majorWord 0xD ((0 : BitVec 1) ++ target)) i.ext).setWidth 14))) ∧
  (∀ i r s u x, Issues s i (sysWord 0x0A r) u → Affords s i 2 → (u.cell i.cell).reg r = x → isIdx x.tag = true → x.val.toNat ≤ 16383 →
    Does (.jr i r) s fun t => t = u.issued s i 2 (some (x.val.setWidth 14))) ∧
  (∀ i s u tc, Issues s i (sysWord 0x04 0) u → Affords s i 2 → pmode (u.cell i.cell) = false → tc = (u.cell i.cell).sp.trapCause →
      (i.cell.val = 40 → bit tc 4 = false) →
    Does (.rett i) s fun t => t = (u.modCell i.cell fun k => k.modSp fun p =>
      { p with stat := mkStat (bit tc 4) (bit tc 6) false (bit tc 5) }).issued s i 2 (some (u.cell i.cell).sp.trapPc)) ∧
  (∀ i s u, Issues s i (sysWord 0x18 0) u → Affords s i 1 → pmode (u.cell i.cell) = false → trapBit (u.cell i.cell) = false →
    Does (.idle i) s fun t => t = (u.modCell i.cell fun k => { k with
      sp := { k.sp with stat := k.sp.stat ||| 2 }, run := { k.run with idle := true } }).issued s i 1 none) ∧
  (∀ i s u, Issues s i (sysWord 0x02 0) u → Affords s i 1 →
    Does (.endp i) s fun t => t = (u.paid i.cell ((s.cell i.cell).slotsOf i)).trap i.cell 13 0 0 0
      ((s.cell i.cell).pc + BitVec.ofNat 14 (i.ext.length + 1))) ∧
  (∀ i n s u, Issues s i (sysWord 0x03 n) u → Affords s i 1 →
    Does (.swi i n) s fun t => t = (u.paid i.cell ((s.cell i.cell).slotsOf i)).trap i.cell 15 n.toNat 0 0
      ((s.cell i.cell).pc + BitVec.ofNat 14 (i.ext.length + 1))) ∧
  (∀ i n s u ws rc, Issues s i (majorWord 0 ((0xF : BitVec 4) ++ n)) u → Affords s i 1 →
      u.pairWords i.cell ((u.cell i.cell).pc.toNat + 1) 4 = .ok ws → pairFault ws = none →
      rc = (if ract (u.cell i.cell) then (u.cell i.cell).sp.rc else BitVec.ofNat 16 (n.toNat + 1)) →
    Does (.rep i n) s fun t => t = (if rc = 0 then
        (u.modCell i.cell fun k => k.modSp fun p => { p with rc := 0, stat := p.stat &&& 0x7 }).issued s i 1
          (some ((u.cell i.cell).pc + BitVec.ofNat 14 (ws.length - 1 + 2)))
      else (u.modCell i.cell fun k => { k with
        sp := { k.sp with rc := rc, stat := k.sp.stat ||| 0x8 }
        run := { k.run with latched := true, iterated := false, exts := [] } }).issued s i 1 (some (u.cell i.cell).pc))) ∧
  (∀ i r s u ws x rc, Issues s i (sysWord 0x0C r) u → Affords s i 1 →
      u.pairWords i.cell ((u.cell i.cell).pc.toNat + 1) 4 = .ok ws → pairFault ws = none →
      (u.cell i.cell).reg r = x → (ract (u.cell i.cell) = false → isIdx x.tag = true ∧ x.val.toNat ≤ 65535) →
      rc = (if ract (u.cell i.cell) then (u.cell i.cell).sp.rc else BitVec.ofNat 16 x.val.toNat) →
    Does (.repi i r) s fun t => t = (if rc = 0 then
        (u.modCell i.cell fun k => k.modSp fun p => { p with rc := 0, stat := p.stat &&& 0x7 }).issued s i 1
          (some ((u.cell i.cell).pc + BitVec.ofNat 14 (ws.length - 1 + 2)))
      else (u.modCell i.cell fun k => { k with
        sp := { k.sp with rc := rc, stat := k.sp.stat ||| 0x8 }
        run := { k.run with latched := true, iterated := false, exts := [] } }).issued s i 1 (some (u.cell i.cell).pc))) ∧
  (∀ i w s v, Issuable s i w v → i.ext.length ≤ 3 → undefWord w = true →
      (pmode (v.cell i.cell) = true → (s.cell i.cell).slotsOf i ≤ (v.cell i.cell).sp.cycBud.toNat) →
    Does (.unassignedEncoding i w) s fun t =>
      t = (v.paid i.cell ((s.cell i.cell).slotsOf i)).trap i.cell 1 w.toNat 0 0 (s.cell i.cell).pc) ∧
  (∀ i w s v, Issuable s i w v → (undefWord w = true → 3 < i.ext.length) →
      rsvdWord w = true ∨ chainBad w i.ext = true ∨ 3 < i.ext.length →
      (pmode (v.cell i.cell) = true → (s.cell i.cell).slotsOf i ≤ (v.cell i.cell).sp.cycBud.toNat) →
    Does (.unassignedEncoding i w) s fun t =>
      t = (v.paid i.cell ((s.cell i.cell).slotsOf i)).trap i.cell 2 ((i.ext.map extWord).headD w).toNat 0 0 (s.cell i.cell).pc)

/-- The stream and job instructions of the cells complete (R128, R136, R137, R147, R159, R167 to R170): bytes that are delivered are read,
bytes for which there is room are written, counts advance, and a port takes a job and returns its status. -/
def Obligations.CellStreamsAndJobs : Prop :=
  (∀ i size rd wh hi s u v h x q bs, Issues s i (strmWord false size rd wh hi) u → Affords s i 1 →
      (u.cell i.cell).reg (whReg wh) = h → (u.cell i.cell).reg (idxReg hi) = x → h.tag = tHandle ∧ isIdx x.tag = true →
      (u.cell i.cell).su (hUnit h.val) = q → offOk x (sizeBytes size) = true → staleWord (u.cell i.cell) h = false →
      (hKind h.val = 2 ∨ hKind h.val = 1 ∧ ∀ j < sizeBytes size, posOf q.c ((intOf x).toNat + j) < q.length ∧
        posOf q.c ((intOf x).toNat + j) < q.d) →
      u.readSb i.cell (hUnit h.val) (intOf x).toNat (sizeBytes size) = (some bs, v) →
    Does (.sld i size rd wh hi) s fun t => t = (v.setW i.cell rd ⟨tBytes, BitVec.ofNat 32 (leNat bs)⟩).issued s i 1 none) ∧
  (∀ i size rs wh hi s u w h x q, Issues s i (strmWord true size rs wh hi) u → Affords s i 1 →
      (u.cell i.cell).reg rs = w → (u.cell i.cell).reg (whReg wh) = h → (u.cell i.cell).reg (idxReg hi) = x →
      w.tag ≠ tPoison ∧ isOut w.tag = true → h.tag = tHandle ∧ hKind h.val = 2 → isIdx x.tag = true →
      (u.cell i.cell).su (hUnit h.val) = q → offOk x (sizeBytes size) = true → staleWord (u.cell i.cell) h = false →
      u.heldOut i.cell (hUnit h.val) = false →
      (∀ j < sizeBytes size, posOf q.c ((intOf x).toNat + j) < q.length ∧ posOf q.c ((intOf x).toNat + j) < q.d + sbSize) →
    Does (.sst i size rs wh hi) s fun t =>
      t = (u.writeSb i.cell (hUnit h.val) (intOf x).toNat ((wordBytes w.val).take (sizeBytes size))).issued s i 1 none) ∧
  (∀ i rd rs s u h q, Issues s i (opWord 0x4 3 rd rs) u → Affords s i 1 → (u.cell i.cell).reg rs = h → h.tag = tHandle →
      (hKind h.val = 1 ∨ hKind h.val = 2) → staleWord (u.cell i.cell) h = false → (u.cell i.cell).su (hUnit h.val) = q →
    Does (.savl i rd rs) s fun t =>
      t = (u.setW i.cell rd ⟨tUns, BitVec.ofNat 32 (if hKind h.val = 1 then q.d - q.c else q.d + sbSize - q.c)⟩).issued s i 1 none) ∧
  (∀ i wh rs s u h x q, Issues s i (opWord 0xE 2 wh rs) u → Affords s i 1 → (u.cell i.cell).reg wh = h → (u.cell i.cell).reg rs = x →
      h.tag = tHandle → hKind h.val = 1 → isIdx x.tag = true → (u.cell i.cell).su (hUnit h.val) = q → q.c + x.val.toNat ≤ q.length →
      q.c + x.val.toNat ≤ q.d → staleWord (u.cell i.cell) h = false → u.heldIn i.cell (hUnit h.val) = false →
    Does (.srel i wh rs) s fun t => t = (u.releaseIn i.cell (hUnit h.val) x.val.toNat).issued s i 1 none) ∧
  (∀ i wh rs s u h x q, Issues s i (opWord 0xE 3 wh rs) u → Affords s i 1 → (u.cell i.cell).reg wh = h → (u.cell i.cell).reg rs = x →
      h.tag = tHandle → hKind h.val = 2 → isIdx x.tag = true → (u.cell i.cell).su (hUnit h.val) = q → q.c + x.val.toNat ≤ q.length →
      staleWord (u.cell i.cell) h = false → u.heldOut i.cell (hUnit h.val) = false →
    Does (.spub i wh rs) s fun t => t = (u.publish i.cell (hUnit h.val) x.val.toNat).issued s i 1 none) ∧
  (∀ i r s u a p, Issues s i (sysWord 0x1A r) u → Affords s i 2 → (u.cell i.cell).reg r = a → a.tag = tUns → 3 ≤ a.val.toNat →
      a.val.toNat ≤ 6 → (u.cell i.cell).ports.getD (a.val.toNat - 3) .idle = p → (pmode (u.cell i.cell) = true → p.enabled = true) →
    Does (.getp i r) s fun t =>
      t = (u.setW i.cell r (mkHandle a.val.toNat p.unit (u.cell i.cell).run.gen.toNat)).issued s i 2 none) ∧
  (∀ i wh rp waited s u v h p ws n j r, Issues s i (opWord 0xE 0 wh rp) u → (u.cell i.cell).reg wh = h → (u.cell i.cell).reg rp = p →
      isPortHandle h = true → p.tag = tPtr → n = ptrLimit p.val - ptrBase p.val → u.readWords i.cell (ptrBase p.val) n = (ws, v) →
      r = u.cellRoute i.cell (if hKind h.val ≤ 4 then 0x52 else 0x51) →
      j = { words := ws, base := ptrBase p.val, status := none, done := 0, acc := [], lost := !r } →
      (ws.any fun w => w.tag == tPoison) = false → staleWord (u.cell i.cell) h = false → ws.any (staleWord (u.cell i.cell)) = false →
      (∀ x < ws.length, acceptsWord (hKind h.val) x (bits (j.word 0) 2 0) (ws.getD x .void) = true) →
      ((u.cell i.cell).ports.getD (hKind h.val - 3) .idle).occupied = false → u.engineBusy (hKind h.val) (hUnit h.val) = false →
      engineRefusal u i.cell (hKind h.val) (hUnit h.val) j = none → Affords s i (2 + n + waited) →
    Does (.job i wh rp waited) s fun t => t = ((if r then v else v.routeDrop).modCell i.cell fun k =>
      { k with ports := at' k.ports (hKind h.val - 3) fun q => { q with job := some j } }).issued s i (2 + n + waited) none) ∧
  (∀ i rd wh waited s u h p, Issues s i (opWord 0xE 1 rd wh) u → (u.cell i.cell).reg wh = h → isPortHandle h = true →
      staleWord (u.cell i.cell) h = false → Affords s i (1 + waited) → p = hKind h.val - 3 →
      ((u.cell i.cell).ports.getD p .idle).job = none →
    Does (.jwait i rd wh waited) s fun t => t = (u.setW i.cell rd ⟨tUns, 0xFFFFFFFF⟩).issued s i (1 + waited) none) ∧
  (∀ i rd wh waited s u h p j st, Issues s i (opWord 0xE 1 rd wh) u → (u.cell i.cell).reg wh = h → isPortHandle h = true →
      staleWord (u.cell i.cell) h = false → Affords s i (1 + waited) → p = hKind h.val - 3 →
      ((u.cell i.cell).ports.getD p .idle).job = some j → j.status = some st → firmwareStatus st = false →
    Does (.jwait i rd wh waited) s fun t => t = ((u.setW i.cell rd ⟨tUns, BitVec.ofNat 32 st⟩).modCell i.cell fun k =>
      { k with ports := at' k.ports p fun q => { q with job := none } }).issued s i (1 + waited) none)

/-- What happens to a core from outside completes (R113, R124, R128, R138, R142, R145, R146, R151 to R153): interrupts, the end of a budget, a
product that lands, stalls that end, holds and fills, and the windows of its page. -/
def Obligations.CellEvents : Prop :=
  (∀ s c k, s.cell c = k → k.run.held = false → k.run.scrubbing = false → k.run.stall = .none → k.mayInt = true → s.irqLevel c = true →
      s.pageOn (celPage c) = true →
    Does (.interruptInput c) s fun t => t = s.trap c 14 0 0 0 k.pc) ∧
  (∀ s c k, s.cell c = k →
      (s.prog.execs.any fun e => e.cell == c.val && e.step == 1 && decide (1 ≤ e.pind ∧ e.pind ≤ 10) && !trapBit k) = true ∨
        k.run.held = false ∧ k.run.scrubbing = false ∧ pmode k = true ∧ k.run.stall ≠ .input ∧ k.run.stall ≠ .output ∧
          (k.sp.cycBud = 0 ∨ k.run.stall = .port ∨ s.armed (celPage c) 6 = true) →
    Does (.budgetExhausted c) s fun t => t = ((if s.armed (celPage c) 6 then s.disarm (celPage c) 6 else s).modCell c fun k =>
      k.modSp fun p => { p with cycBud := 0 }).trap c 10 0 0 0 k.pc) ∧
  (∀ s c p, (s.cell c).mul = some p → p.left ≤ 1 → Does (.productLands c) s fun t => t = s.modCell c Cell.land) ∧
  (∀ s c k, s.cell c.cell = k → k.run.holdReq = true → k.run.held = false → (k.inRep = true → k.run.stall ≠ .none) →
      (k.run.stall = .port → pmode k = true → c.waited < k.sp.cycBud.toNat) →
    Does (.holdReached c) s fun t => t = (((s.endStall c.cell c.waited).dropLoad c.cell).modCell c.cell fun k => k.land.modRun fun r =>
      { r with held := true, stall := .none, latched := false, iterated := false, exts := [], idle := false }).raise (celPage c.cell) 3) ∧
  (∀ s c, (s.cell c).run.scrubbing = true → Does (.fillComplete c) s fun t => t = s.fillCell c) ∧
  (∀ s m c v d, Accepts s m (celPage c) 0x80 (setBit v 2 false) (scrubCond m c (setBit v 2 false)) d →
    Does (.celHoldWrite m c v) s fun t => t = celCtrlEffect c (setBit v 2 false) (s.arrive m)) ∧
  (∀ s m c v d, Accepts s m (celPage c) 0x80 (setBit (setBit v 2 true) 0 true) (scrubCond m c (setBit (setBit v 2 true) 0 true)) d →
    Does (.scrub m c v) s fun t => t = celCtrlEffect c (setBit (setBit v 2 true) 0 true) (s.arrive m)) ∧
  (∀ s m c v d, Accepts s m (celPage c) 0xA4 v (heldCond m c 0xA4 v) d →
    Does (.celImdataAccess m c (some v)) s fun t => t = imWrite c v (s.arrive m)) ∧
  (∀ s m c v d, Accepts s m (celPage c) 0xB8 v (dmCond m c v) d →
    Does (.celDmdataAccess m c (some v)) s fun t => t = dmWrite c v (s.arrive m)) ∧
  (∀ s m c v d, Accepts s m (celPage c) 0xC8 v (rvalCond m c v) d →
    Does (.celRvalAccess m c (some v)) s fun t => t = rvalWrite c v (s.arrive m)) ∧
  (∀ s m c d, Reaches s m (celPage c) 0xA4 d →
    Does (.celImdataAccess m c none) s fun t => t = (imRead c s).2.answerRead m (celPage c) (imRead c s).1) ∧
  (∀ s m c d, Reaches s m (celPage c) 0xB8 d →
    Does (.celDmdataAccess m c none) s fun t => t = (dmRead c s).2.answerRead m (celPage c) (dmRead c s).1) ∧
  (∀ s m c d, Reaches s m (celPage c) 0xC8 d →
    Does (.celRvalAccess m c none) s fun t => t = (rvalRead c s).2.answerRead m (celPage c) (rvalRead c s).1) ∧
  (∀ s c n, (s.cell c).run.stall = .input → s.execOn c = none →
    Does (.streamStallEnd c n) s fun t => t = (s.count (celPage c) 5 n).modCell c fun k => k.modRun fun r => { r with stall := .none })

/-- The commands of the mesh, the stream units and the codec complete (R180 to R195): flits that the route rule admits take effect, slots start,
drain and are cancelled, a codec job ends or is halted, and roles change. -/
def Obligations.FabricCommands : Prop :=
  (∀ s f, s.pageOn 0x70 = true → s.routes { f with kind := 0 } = true → ∀ h : f.dst < 41,
    Does (.streamDataFlit f) s fun t => t = s.landFlit ⟨f.dst, h⟩ { f with kind := 0 }) ∧
  (∀ s f, s.pageOn 0x70 = true → s.routes { f with kind := 1 } = true → f.dst < 40 → ∀ c : CellId, c.val = f.dst →
      (s.cell c).su0.active = true → (s.cell c).su0.op = 4 → (s.cell c).su0.peer = f.src → (s.cell c).su0.target % 256 = f.sid →
      f.gen = (s.cell c).run.gen.toNat → (s.cell c).su1.active = false → s.cells.length = 41 →
    Does (.streamCredit f) s fun t => (t.cell c).su0 =
        { (s.cell c).su0 with credit := max (s.cell c).su0.credit (64 * f.pos) } ∧ (t.cell c).su1 = (s.cell c).su1 ∧ t.pages = s.pages) ∧
  (∀ s f, s.pageOn 0x70 = true → s.routes { f with kind := 3 } = true → ∀ h : f.dst < 41, (s.cell ⟨f.dst, h⟩).run.stall = .fabric →
    Does (.fabricReadResponse f) s fun t => t = { s with dram := { s.dram with
      served := s.dram.served ++ [{ id := f.dst, addr := f.aux.toNat, data := sub f.payload 0 4, pois := f.pois }] } }) ∧
  (∀ s f, s.pageOn 0x70 = true → s.routes { f with kind := 5 } = true → Does (.jobDescriptor f) s fun t => t = s) ∧
  (∀ s f, s.pageOn 0x70 = true → s.routes { f with kind := 6 } = true → Does (.jobStatus f) s fun t => t = s) ∧
  (∀ s f, s.pageOn 0x70 = true → s.routes { f with kind := 7 } = true → Does (.controlFlit f) s fun t => t = s) ∧
  (∀ s m c v d, Accepts s m (celPage c) 0x160 (v &&& ~~~(0x38 : Word)) noCond d →
    Does (.suStart m c v) s fun t => t = suCmdEffect m c (v &&& ~~~(0x38 : Word)) (s.arrive m)) ∧
  (∀ s m c v d, Accepts s m (celPage c) 0x160 (v &&& ~~~(0x07 : Word)) noCond d →
    Does (.suCancel m c v) s fun t => t = suCmdEffect m c (v &&& ~~~(0x07 : Word)) (s.arrive m)) ∧
  (∀ s c slot close, s.pageOn (celPage c) = true →
    Does (.streamDrain c slot close) s fun t => t = (s.drain c slot.val close).resumeCodecs c) ∧
  (∀ s unit output k, s.codecTurn unit.val = some k → (s.running k.cell 1).isSome = true → (k.res.isSome || k.put < k.made.length) = true →
    Does (.codecJobEnd unit output) s fun t => t = s.codecFlush unit.val k) ∧
  (∀ s unit output k, s.codecTurn unit.val = some k → (s.running k.cell 1).isSome = true → (k.res.isSome || k.put < k.made.length) = false →
      s.armed (cdcPage unit.val) 3 = true →
    Does (.codecJobEnd unit output) s fun t =>
      t = (s.disarm (cdcPage unit.val) 3).codecFinish unit.val k 0x20 k.taken.length k.put) ∧
  (∀ s unit output k j x v, s.codecTurn unit.val = some k → s.running k.cell 1 = some j → (k.res.isSome || k.put < k.made.length) = false →
      s.armed (cdcPage unit.val) 3 = false → s.readProt (cdcPage unit.val) 14 0 8 8 = (x, v) →
    Does (.codecJobEnd unit output) s fun t =>
      t = if x.isSome then v.codecTake unit.val j k output else v.codecFinish unit.val k 0x30 k.taken.length k.put) ∧
  (∀ s unit output k j e v w q n bs made rel res, s.codecTurn unit.val = some k → s.running k.cell 1 = some j →
      (k.res.isSome || k.put < k.made.length) = false → s.armed (cdcPage unit.val) 3 = false →
      s.readProt (cdcPage unit.val) 14 0 8 8 = (some e, v) → bit (j.word 0) 0 = true → q = (v.cell k.cell).su (hUnit (j.word 1)) →
      n = min (min ((j.word 3).toNat - k.taken.length) (65536 - k.taken.length % 65536)) (q.d - q.c - (k.taken.length - k.rel)) → n ≠ 0 →
      v.readSb k.cell (hUnit (j.word 1)) (q.c + (k.taken.length - k.rel)) n = (some bs, w) →
      codecDecode j (k.taken ++ bs) = (made, rel, res) →
    Does (.codecJobEnd unit output) s fun t =>
      t = (if res.isNone then w.releaseIn k.cell (hUnit (j.word 1)) (rel - k.rel) else w).codecFlush unit.val
        { k with taken := k.taken ++ bs, made := made, rel := if res.isNone then rel else k.rel, res := res }) ∧
  (∀ s m unit v d, Accepts s m (cdcPage unit.val) 0x80 (setBit v 1 true) (cdcCtrlCond m unit.val (setBit v 1 true)) d →
    Does (.codecHalt m unit v) s fun t => t = cdcCtrlEffect unit.val (setBit v 1 true) d (s.arrive m)) ∧
  (∀ s m v d, Accepts s m 0x70 0x8C (setBit v 0 true) noCond d →
    Does (.wreload m v) s fun t => t = if !(s.arrive m).wardenLoad.1 then (s.arrive m).wardenLoad.2
      else if (s.arrive m).wardenLoad.2.wardenSigned then (s.arrive m).wardenLoad.2.wardenGo else (s.arrive m).wardenLoad.2.wardenFall)

/-- The steps of a reassignment and a cell's fabric accesses complete (R130 to R132, R171, R180 to R184, R193 to R195). -/
def Obligations.CellReassignment : Prop :=
  (∀ s c r, s.pageOn 0x70 = true → s.power.flush = 0 → s.moving c.val = false → s.badRole c.val r = false → r.allow ≤ 255 → r.fn ≤ 15 →
      r.slot = (s.role c).slot → (c.val = 12 → s.moving 13 = false) → (c.val = 13 → s.moving 12 = false) →
    Does (.cellReassign c r) s fun t => t = s.addMoves [(c.val, r)]) ∧
  (∀ s c r k, s.pageOn 0x70 = true → s.power.flush = 0 → s.moving c.val = false → s.badRole c.val r = false → r.allow ≤ 255 → r.fn ≤ 15 →
      r.slot ≠ (s.role c).slot → s.handing = some k → r = { s.role c with slot := k.rent } → s.turn k c.val = true → 11 < c.val →
    Does (.cellReassign c r) s fun t => t = s.addMoves [(c.val, r)]) ∧
  (∀ s c r k, s.pageOn 0x70 = true → s.power.flush = 0 → s.moving c.val = false → s.badRole c.val r = false → r.allow ≤ 255 → r.fn ≤ 15 →
      r.slot ≠ (s.role c).slot → s.handing = some k → r = { s.role c with slot := k.rent } → s.turn k c.val = true → c.val ≤ 11 →
      (List.range 12).any s.moving = false →
    Does (.cellReassign c r) s fun t =>
      t = (s.addMoves ((List.range 12).map fun d => (d, { s.role (Fin.ofNat 41 d) with slot := k.rent }))).beginPause) ∧
  (∀ s c x v, (s.fabric.reassign.find? fun x => x.cell == c.val && x.step == 2) = some x → s.pageOn 0x70 = true → s.power.flush = 0 →
      s.drained x = true → v = (s.sendFence c).rewriteCell c x.target →
    Does (.drainDone c) s fun t => t = { v with fabric := { v.fabric with
      reassign := v.fabric.reassign.map fun y => if y.cell = c.val then { y with step := 6 } else y } }) ∧
  (∀ s c u, s.pageOn 0x70 = true → s.power.flush = 0 → (s.fabric.reassign.any fun x => x.cell == c.val && x.step == 6) = true →
      u = (if c = 40 then (s.cellReady c).serveHeld else s.cellReady c) → u.host.fw.commit = none → u.fabric.pause = none →
    Does (.reportReady c) s fun t => t = u.enterExecs) ∧
  (∀ s t0 k v, s.fabric.pause = some t0 → s.host.fw.commit = some k → 900 ≤ (s.pages.dtime - t0).toNat → s.power.flush = 0 →
      (List.range 12).any s.moving = true →
      v = (List.range 12).foldl (fun (s : State) n =>
        s.takeBack (Fin.ofNat 41 n) { s.role (Fin.ofNat 41 n) with slot := 1 - k.rent }) s →
    Does .evidentialPauseTimeout s fun t => t = v.endPause.reverse k) ∧
  (∀ i tg rd ra s u x a k r v, Issues s i (opWord 0x9 tg rd ra) u → Affords s i 1 → (u.cell i.cell).reg ra = x → isIdx x.tag = true →
      a = x.val.toNat → pmode (u.cell i.cell) = false → (u.cell i.cell).run.stall = .fabric →
      ((∃ d, u.target i.cell a = .dram d ∧ a % 4 = 0 ∧ k = d) ∨ ∃ p off, u.target i.cell a = .page p off ∧ k = pageKey a) →
      u.takeServed i.cell.val k = some (r, v) →
    Does (.fld i tg rd ra) s fun t => t = (v.setW i.cell rd (loadedWord (fldTag tg) r)).issued s i 1 none) ∧
  (∀ i rs ra s u w x a p off v, Issues s i (opWord 0xB 2 rs ra) u → Affords s i 2 → (u.cell i.cell).reg rs = w → (u.cell i.cell).reg ra = x →
      isOut w.tag = true → isIdx x.tag = true → a = x.val.toNat → pmode (u.cell i.cell) = false →
      u.target i.cell a = .page p off → u.cellRoute i.cell (pageNode p) = true →
      u.writePage (cellMaster i.cell) p off 32 w.val = (v, .ok) →
    Does (.fst i rs ra) s fun t => t = v.issued s i 2
      (if (v.cell i.cell).run.gen = (u.cell i.cell).run.gen then none else some (v.cell i.cell).pc)) ∧
  (∀ s f m p off v t0, s.pageOn 0x70 = true → s.routes { f with kind := 2 } = true → nodeMaster f.src = some m → flitPage f = some (p, off) →
      s.readPage m p off (8 * (f.nb % 64 + 1)) = (.inl v, t0) →
    Does (.fabricReadRequest f) s fun t => t = t0.deliver p (.out (.flit f.src f.dst f.cls 3 0 0 0 true false (wordBytes v)))) ∧
  (∀ s f m p off, s.pageOn 0x70 = true → s.routes { f with kind := 4 } = true → nodeMaster f.src = some m → flitPage f = some (p, off) →
    Does (.fabricWrite f) s fun t => t = (s.writePage m p off (8 * (f.nb % 64 + 1)) (leWord (sub f.payload 0 4))).1)

/-- The commands of the translation layer and of media care complete (R205, R209 to R217, R227 to R238): staged writes drain, journal pages are
sealed and durable, checkpoints begin, units are demoted, blocks collected, folded and erased, and patrol passes run. -/
def Obligations.StorageCommands : Prop :=
  (∀ s die x u, s.fabric.pause = none → s.commitParked = u → u.fabric.pause = none → u.usable die.val = true → u.power.flush = 0 →
      u.power.vccq = true → u.quiet die.val = true → u.evidNext = some x → u.spaced die.val = true →
    Does (.stagingDrain die) s fun t => t = u.programEvid die.val x.ref) ∧
  (∀ s die u, s.fabric.pause = none → s.commitParked = u → u.fabric.pause = none → u.usable die.val = true → u.power.flush = 0 →
      u.power.vccq = true → u.quiet die.val = false →
    Does (.stagingDrain die) s fun t => t = u.drainUnit die.val) ∧
  (∀ s, s.ftl.jbuf.isEmpty = false → s.ftl.jbufT + 2000000 ≤ s.ns →
    Does .journalPageTimer s fun t => t = s.placeCopies.seal false false false) ∧
  (∀ s, s.ftl.jbuf.isEmpty = true ∨ s.ns < s.ftl.jbufT + 2000000 → Does .journalPageTimer s fun t => t = s.placeCopies) ∧
  (∀ s p v, (s.ftl.jpages.find? fun p => !p.durable) = some p → p.copyA = true → p.copyB = true →
      v = (({ s with ftl := { s.ftl with jpages := s.ftl.jpages.map (fun q => if q.jseq = p.jseq then { q with durable := true } else q) } } :
        State).completeCkpt p).reusePages.freeRegion →
    Does .journalPageDurable s fun t =>
      t = (v.ftl.relocs.filter fun r => r.why != .demote && r.stage == 1 && decide (r.jseq.toNat ≤ p.jseq.toNat)).foldl State.eraseRecord v) ∧
  (∀ s, s.ftl.ckptRun = none → (4096 ≤ s.tail ∨ 600000000 ≤ (s.pages.dtime - s.ftl.ckptT).toNat) →
    Does .checkpointBegin s fun t => t = s.ckptStep (if 12288 ≤ s.tail then 1 else 3)) ∧
  (∀ s, s.ftl.ckptRun.isSome = true → Does .checkpointBegin s fun t => t = s.ckptPump) ∧
  (∀ s u n l, s.nsOfUnit u = some (n, l) → s.demotable u = true →
    Does (.demotion u) s fun t => t = s.houseAdmit 2 0 u (s.demoteClass u) (s.houseDemand (s.unitReads u)) 65536
      fun v => v.gather u n l (s.demoteClass u) (s.unitReads u)) ∧
  (∀ s die block, s.victim = some (die.val, block) →
    Does (.garbageCollection die block) s fun t =>
      t = s.houseAdmit 0 die.val block 3 (s.houseDemand ((s.validIn die.val block).map fun u => (die.val, u)))
        (65536 * (s.validIn die.val block).length) fun s => s.startReloc .gc die.val block 3) ∧
  (∀ s die block u, s.stepReloc die.val block = u → (u.ftl.relocs.any fun r => r.ofBlock die.val block && r.stage == 2 &&
      decide (r.jseq.toNat < u.ftl.jseq.toNat) && u.ftl.jpages.all fun p => p.durable || decide (r.jseq.toNat < p.jseq.toNat)) = true →
      (u.validIn die.val block).isEmpty = true → u.inUse die.val block = false → (u.blk die.val block).state ≠ 5 →
    Does (.blockErase die block) s fun t =>
      t = (((u.mapRelocs fun r => if r.ofBlock die.val block then { r with stage := 3 } else r).modBlk die.val block fun b =>
        { b with state := 4 }).addReq (eraseReq die.val block u.psBlk .drain))) ∧
  (∀ s die block b low, s.blk die.val block = b → b.state = 2 → b.mode = .pslc → b.stream ≠ stJournal →
      (b.stream = stEvid → s.evidSource.isSome = true) → low = (s.reserveLow die.val && b.stream != stEvid) →
      (s.ftl.map.blocks.any fun x => x.2.foldsWith b && x.2.stream != stJournal && x.2.state == 2 && x.2.mode == .pslc &&
        (!low || x.1 / 4096 == die.val) && decide (x.2.first.toNat < b.first.toNat) &&
        !(s.ftl.relocs.any fun r => r.die == x.1 / 4096 && r.block == x.1 % 4096)) = false →
    Does (.folding die block) s fun t => t = s.houseReloc 1 die.val block (if b.stream = stEvid ∧ s.evidFull ∨ low then 1 else 3) .fold) ∧
  (∀ s, s.pageOn 0x090 = true → (s.care.patrol = none ∨ ∃ t, s.care.patrol = some (t, []) ∧ s.care.patrolPer ≤ s.passAge t) →
    Does .patrolPassStart s fun t => t =
      (({ s with care := { s.care with
          patrol := some (s.legal.getD 0, s.passList), patrolTot := s.passList.length, patrolPer := s.period } } : State).setField
        MC_PATROL 13 0 0).endPass) ∧
  (∀ s t0 k l, s.care.patrol = some (t0, k :: l) → s.care.patrolPer ≤ s.passAge t0 → s.regBit MC_STAT 6 = false →
    Does .patrolLate s fun t => t = (s.setField MC_STAT 6 6 1).raise 0x090 27) ∧
  (∀ s ch way block page d unit t0 rest, d = 8 * ch.val + way.val → unit = block * s.psBlk + page →
      s.care.patrol = some (t0, (d * 2 ^ 22 + unit) :: rest) → s.field? PWR_STAT 2 0 < 2 → s.patrols d unit = true →
      (s.media.reqs.any fun r => r.owner == .patrol) = false →
    Does (.patrolRead ch way block page) s fun t =>
      t = s.addReq (readReq d unit (s.unitMode d unit) 3 .patrol (s.blocksIn d unit))) ∧
  (∀ s m v d, Accepts s m 0x091 0x84 (setBit v 31 true) (redFailCond m (setBit v 31 true)) d →
    Does (.redFailDeclare m v) s fun t => t = redFailEffect (setBit v 31 true) (s.arrive m)) ∧
  (∀ s m v d, Accepts s m 0x091 0x80 (setBit v 0 true) noCond d →
    Does (.rbPause m v) s fun t => t = redCtrlEffect (setBit v 0 true) d (s.arrive m)) ∧
  (∀ s die, s.pageOn 0x091 = true → Does (.memberFailed die) s fun t => t = (s.failDie die.val).settle) ∧
  (∀ s, s.red.rbState = 1 → s.red.rbAfter ≤ s.ns →
    Does .rebuildFloor s fun t => t = ((({ s with red := { s.red with rbState := 2 } } : State).syncRed).raise 0x091 4).pumpRebuild) ∧
  (∀ s v w, (s.red.rbState = 1 ∨ s.red.rbState = 2) → s.red.todo = [] → s.rebuilding = false →
      ({ s with red := { s.red with rbState := 4 } } : State).writeSifj = v → (if v.ftl.ckptRun.isSome then v else v.ckptStep 3) = w →
    Does .rebuildDone s fun t => t = ({ w with red := { w.red with
      rbState := 0, die1 := none, die2 := none, cursor := 0 } } : State).syncRed.emptyTriples.raise 0x091 5)

/-- The commands of power failure, redundancy and the media scheduler complete (R218, R253 to R255, R263 to R275, R484): the flush, SIFJ, the
quiet ways, operations handed to channels, started, suspended, resumed and ended. -/
def Obligations.MediaCommands : Prop :=
  (∀ s, s.power.flush = 0 → s.mainOn = true → s.start.phase ≠ .starting →
    Does .powerFail s fun t => t = ({ s with power := { s.power with pwrFail := false } } : State).beginFlush) ∧
  (∀ s, s.power.flush = 1 → s.regBit KEY_STAT 3 = false → s.power.vccq = true →
    Does .flushComplete s fun t => t = { (s.flushOut true false).parkBuses with
      power := { (s.flushOut true false).parkBuses.power with flush := 2, flushed := true } }) ∧
  (∀ s, (s.red.rbState = 1 ∨ s.red.rbState = 2) → Does .sifjWrite s fun t => t = s.writeSifj) ∧
  (∀ s r, s.media.rot = some r → r.begun = false → r.after ≤ s.ns →
    Does .quietRotation s fun t => t = ({ s with media := { s.media with rot := some { r with begun := true } } } : State).closeWhere
      fun x => !x.evid && r.joining.contains x.way) ∧
  (∀ s a b, s.media.rot = none → s.media.quiet = [a, b] → 4 < s.media.ways →
      s.field? MSQ_CTRL 23 16 * 1000000 ≤ (s.pages.dtime - s.media.lastRot).toNat →
    Does .quietRotation s fun t => ∃ r : Rotation, t = { s with media := { s.media with rot := some r } } ∧
      r = ⟨[(b + 1) % s.media.ways, (b + 2) % s.media.ways], [a, b], s.adm.latest, false, false⟩) ∧
  (∀ s r quiet, s.media.rot = some r → r.begun = true → r.again = false → r.joining.any s.wayBusy = false →
      quiet = (s.media.quiet.filter fun w => !r.leaving.contains w) ++ r.joining →
    Does .quietJoin s fun t =>
      t = (({ s with media := { s.media with quiet := quiet, rot := none, lastRot := s.pages.dtime } } : State).closeWhere
        fun x => x.evid && !quiet.contains x.way).placeEvid) ∧
  (∀ s die r u, (if (s.chan (die.val / 8)).reload && s.pageOn (mchPage (die.val / 8)) then s.reloadSeq (die.val / 8) else s) = u →
      u.power.flush = 0 → u.power.vccq = true → u.pageOn 0x090 = true → (u.dieSt die.val).attached = true →
      (u.media.reqs.find? fun r => r.die == die.val && r.phase == .recon && !u.reconBusy r.id) = none →
      u.red.failed.contains die.val = false → u.regBit (MCH_CTRL (die.val / 8)) 0 = true → (u.chan (die.val / 8)).seq.todo = false →
      (u.dieSt die.val).lunReset = none → (u.dieSt die.val).state = 0 → (u.dieSt die.val).susp = false →
      u.firstOf ((u.media.reqs.filter fun r => r.die == die.val && r.phase == .queued).filter u.mayIssue) = some r →
    Does (.mediaSchedule die) s fun t => t = (u.modReq r.id fun x => { x with phase := .handed }).hand (die.val / 8) (u.descOf r)) ∧
  (∀ s die r u, (if (s.chan (die.val / 8)).reload && s.pageOn (mchPage (die.val / 8)) then s.reloadSeq (die.val / 8) else s) = u →
      u.power.flush = 0 → u.power.vccq = true → u.pageOn 0x090 = true → (u.dieSt die.val).attached = true →
      (u.media.reqs.find? fun r => r.die == die.val && r.phase == .recon && !u.reconBusy r.id) = some r →
    Does (.mediaSchedule die) s fun t => t = u.finishRecon r.id) ∧
  (∀ s ch r v, s.handed ch.val 1 = some r → s.takeBuf ch.val r.id = some v →
    Does (.mediaRead ch) s fun t => t = v.launch ch.val r) ∧
  (∀ s ch r v, s.handed ch.val 2 = some r → s.takeBuf ch.val r.id = some v →
    Does (.mediaProgram ch) s fun t => t = v.launch ch.val r) ∧
  (∀ s ch r, s.handed ch.val 3 = some r → Does (.mediaErase ch) s fun t => t = s.launch ch.val r) ∧
  (∀ s ch d, s.handedDesc ch.val 4 = some d →
    Does (.lunReset ch) s fun t => t = ((((s.modSeq ch.val fun q => { q with todo := false }).modDie (8 * ch.val + d.way) fun x =>
      { x with lunReset := some s.pages.dtime }).count (mchPage ch.val) 11 1).emit (.nand ch.val [0x1FA#16]))) ∧
  (∀ s ch way fa p, (s.chan ch.val).seq.todo = false → s.regBit (MCH_CTRL ch.val) 0 = true →
    Does (.setFeature ch way fa p) s fun t => t = s.emit (.nand ch.val
      ([0x1D5#16, BitVec.ofNat 16 (0x200 + way % 8), BitVec.ofNat 16 (0x200 + fa % 256)] ++
        (wordBytes p).map fun b => 0x300#16 ||| b.setWidth 16))) ∧
  (∀ s ch d die st, s.handedDesc ch.val 6 = some d → die = 8 * ch.val + d.way → s.dieSt die = st → (st.state = 2 ∨ st.state = 3) →
    Does (.suspend ch) s fun t => ∃ f, t = ((((s.modSeq ch.val fun q => { q with todo := false, susReq := false }).modDie die f).count
      (mchPage ch.val) 9 1).count 0x020 10 1) ∧
      ∀ x, f x = { x with susp := true, susCnt := x.susCnt + 1, state := 0, req := none,
                          paused := some (x.state, x.req.getD 0, s.ns - x.started) }) ∧
  (∀ s ch d die st id run v, s.handedDesc ch.val 7 = some d → die = 8 * ch.val + d.way →
      s.modSeq ch.val (fun q => { q with todo := false }) = v → (v.dieSt die).paused = some (st, id, run) →
    Does (.resume ch) s fun t => t = v.modDie die fun x =>
      { x with susp := false, paused := none, state := st, req := some id, started := v.ns - run }) ∧
  (∀ s die r, (s.squall.scaled.any fun x => x.1 == die.val) = false →
      ((s.dieSt die.val).lunReset.any fun t => decide (10000 < (s.pages.dtime - t).toNat)) = false → (s.dieSt die.val).state ≠ 0 →
      (s.dieSt die.val).scale = 0 →
    Does (.dieReady die r) s fun t => t = s.endOp die.val ((s.dieSt die.val).result r)) ∧
  (∀ s die x, (s.squall.scaled.find? fun x => x.1 == die) = some x → x.2.1 ≤ s.ns →
    Does (.scaledReadyRelease die) s fun t =>
      t = ({ s with squall := { s.squall with scaled := s.squall.scaled.filter fun y => y.1 != die } } : State).endOp die x.2.2) ∧
  (∀ s die st, s.dieSt die.val = st → st.paused = none → st.state ≠ 0 → st.lunReset = none → 3 * s.opTime st ≤ ((s.ns - st.started : Nat) : Rat) →
      s.handedDesc (die.val / 8) 4 = none →
    Does (.operationTimeLimit die) s fun t => t = s.timeLimit die.val) ∧
  (∀ s die t0, (s.dieSt die.val).lunReset = some t0 → 10000 ≤ (s.pages.dtime - t0).toNat →
    Does (.lunResetTimeout die) s fun t => t = (s.failDie die.val).settle) ∧
  (∀ s ch buf id next, (s.chan ch.val).bufs.getD buf.val none = some id →
      (∀ r, s.req? id = some r → r.phase ≠ .handed ∧ (r.op = 1 → r.phase ≠ .running ∧ r.phase ≠ .queued)) →
      next = (firstReq ((s.chan ch.val).waits.filterMap fun n => s.req? n)).map (fun r => r.id) →
    Does (.pageBufferFree ch buf) s fun t => t = (s.clearProt (mchPage ch.val) 8 (buf.val * 12960) 12960).modChan ch.val fun c => { c with
      bufs := c.bufs.set buf.val next
      waits := match next with
        | some n => c.waits.filter (· != n)
        | none => c.waits })

/-- The microcode of the channels runs (R276 to R281): a word of the microstore that passes every check of its form is executed as its row, and
one that fails a check stops the channel; a poll whose time has run out goes on, the windows of the microstore are read and written, and
STEP of a stopped sequencer executes one word. -/
def Obligations.SequencerCommands : Prop :=
  (∀ s (ch : Chan) w, AtWord s ch w → lop w = 0 → 
    Does (.halt ch) s fun t => t = s.modSeq ch.val fun q =>
      { q with active := false, todo := false, upc := BitVec.ofNat 12 (s.field? (MCH_CTRL ch.val) 27 16) }) ∧
  (∀ s (ch : Chan) w a, AtWord s ch w → lop w = 1 → a.toNat = bits w 12 1 → 
    Does (.seqJmp ch a) s fun t => t = s.modSeq ch.val fun q => { q with upc := a }) ∧
  (∀ s (ch : Chan) w c a, AtWord s ch w → lop w = 2 → c.toNat = bits w 16 13 → a.toNat = bits w 12 1 → 
    Does (.jcc ch c a) s fun t => t = s.modSeq ch.val fun q => if s.jccHolds ch.val c.toNat then { q with upc := a } else q.next) ∧
  (∀ s (ch : Chan) w a, AtWord s ch w → lop w = 3 → a.toNat = bits w 12 1 → 
    Does (.seqCall ch a) s fun t => t = s.modSeq ch.val fun q => { q with stack := (q.upc + 1) :: q.stack, upc := a }) ∧
  (∀ s (ch : Chan) w, AtWord s ch w → lop w = 4 → 
    Does (.seqRet ch) s fun t => t = s.modSeq ch.val fun q => { q with stack := q.stack.tail, upc := q.stack.headD 0 }) ∧
  (∀ s (ch : Chan) w n, AtWord s ch w → lop w = 5 → n.toNat = bits w 16 1 → 
    Does (.ldcnt ch n) s fun t => t = s.modSeq ch.val fun q => { q.next with cnt := n }) ∧
  (∀ s (ch : Chan) w a, AtWord s ch w → lop w = 6 → a.toNat = bits w 12 1 → 
    Does (.loop ch a) s fun t => t = s.modSeq ch.val fun q =>
      if q.cnt - 1 = 0 then { q.next with cnt := 0 } else { q with cnt := q.cnt - 1, upc := a }) ∧
  (∀ s (ch : Chan) w ready st, AtWord s ch w → lop w = 7 → 
    Does (.waitrb ch w ready st) s fun t => t = s.modSeq ch.val fun q =>
      if ready then { q.next with st := st, wait := none } else { q with st := st, wait := some (q.wait.getD (bits w 24 1) - 1) }) ∧
  (∀ s (ch : Chan) w, AtWord s ch w → lop w = 8 → 
    Does (.lddesc ch w) s fun t => t = s.modSeq ch.val fun q => { q.next with a := q.a.set (bits w 25 24) (q.descWord (bits w 4 1)) }) ∧
  (∀ s (ch : Chan) w, AtWord s ch w → lop w = 9 → 
    Does (.adda ch w) s fun t => t = s.modSeq ch.val fun q =>
      { q.next with a := q.a.set (bits w 25 24) (q.an (bits w 25 24) + (BitVec.ofNat 23 (bits w 23 1)).signExtend 48) }) ∧
  (∀ s (ch : Chan) w q, AtWord s ch w → lop w = 10 → (s.chan ch.val).seq = q → 
    Does (.setf ch w) s fun t => t = (s.modSeq ch.val Sequencer.next).emit (.nand ch.val
      (setFeatures ((q.sel.map fun p => p.2).getD 0) (bits w 8 1) ((q.an (bits w 10 9)).setWidth 32)))) ∧
  (∀ s (ch : Chan) w q, AtWord s ch w → lop w = 11 → (s.chan ch.val).seq = q → 
    Does (.retry ch w) s fun t => t = if s.stepsLeft ch.val then
        (s.modSeq ch.val fun q' => { q'.next with entry := (q.entry + 1) % 16, steps := q'.steps + 1 }).emit (.nand ch.val
          (setFeatures ((q.sel.map fun p => p.2).getD 0) 0x89 (BitVec.ofNat 32 ((q.entry + 1) % 16))))
      else s.modSeq ch.val Sequencer.next) ∧
  (∀ s (ch : Chan) w, AtWord s ch w → lop w = 12 → 
    Does (.post ch w) s fun t => t = (s.modSeq ch.val Sequencer.next).seqPost ch.val (bits w 8 1)) ∧
  (∀ s (ch : Chan) q w, (s.chan ch.val).seq = q → q.word = w → s.pageOn (mchPage ch.val) = true → s.regBit (MCH_CTRL ch.val) 0 = true →
      q.active = true → q.wait ≠ some 0 → q.fault ≠ 0 → bit w 31 = false → 12 < lop w →
    Does (.halt ch) s fun t => t = s.seqFault ch.val q.fault) ∧
  (∀ s (ch : Chan) q w dq, (s.chan ch.val).seq = q → q.word = w → s.pageOn (mchPage ch.val) = true → s.regBit (MCH_CTRL ch.val) 0 = true →
      q.active = true → q.wait ≠ some 0 → bit w 31 = true →
    Does (.shortOperationPair ch w dq) s fun t => t = if q.fault ≠ 0 then s.seqFault ch.val q.fault
      else ((s.busSide ch.val (busOp w) (busArg w) (dq.getD 0 0)).bufSide ch.val (bufOp w) (bufArg w)
        ((List.range 24).map fun j => leNat (sub dq (1 + 2 * j) 2))).modSeq ch.val Sequencer.next) ∧
  (∀ s (ch : Chan), s.regBit (MCH_CTRL ch.val) 0 = true → (s.chan ch.val).seq.active = true → (s.chan ch.val).seq.wait = some 0 →
    Does (.waitrbTimeout ch) s fun t => t = s.modSeq ch.val fun q => { q.next with tmo := true, wait := none }) ∧
  (∀ s m ch v ready st dq d u, Accepts s m (mchPage ch.val) 0x80 (setBit v 1 true) (mchCtrlCond m ch.val (setBit v 1 true)) d →
      u = (s.arrive m).store (MCH_CTRL ch.val) (setBit v 1 true) d →
    Does (.step m ch v ready st dq) s fun t => t = if (s.arrive m).regBit (MCH_CTRL ch.val) 0 = true then u
      else if (u.chan ch.val).seq.wait = some 0 then u.modSeq ch.val fun q => { q.next with tmo := true, wait := none }
      else u.microStep ch.val ready st dq) ∧
  (∀ s m ch v d, Accepts s m (mchPage ch.val) 0x8C v (usdataCond m ch.val v) d →
    Does (.mchUsdataAccess m ch (some v)) s fun t => t = ((s.arrive m).modSeq ch.val fun q =>
      { q with store := q.store.set (fun _ => 0) ((s.arrive m).field? (MCH_USADDR ch.val) 11 0) v }).usNext ch.val) ∧
  (∀ s m ch d, Reaches s m (mchPage ch.val) 0x8C d →
    Does (.mchUsdataAccess m ch none) s fun t => t = (s.answerRead m (mchPage ch.val)
      ((s.chan ch.val).seq.store.get (fun _ => 0) (s.field? (MCH_USADDR ch.val) 11 0))).usNext ch.val)

/-- The jobs and engines of the ternary search engine complete with the effect of R284 to R304, each under the conditions its rules name. -/
def Obligations.SearchCommands : Prop :=
  (∀ s c j r v, s.searchJob c 1 = some j → s.heldSearch c (bits (j.word 0) 19 4) = false → s.searchFor c (bits (j.word 0) 19 4) (j.key144 1) = (r, v) →
    Does (.search c) s fun t => t = v.endSearch c j 6 [.uns r.data, .uns r.res1] 0) ∧
  (∀ s c j n0 n u v, s.searchJob c 2 = some j →
      n0 = min ((j.word 3).toNat - j.done) (min ((((s.cell c).su (hUnit (j.word 1))).d - ((s.cell c).su (hUnit (j.word 1))).c) / 24)
        ((((s.cell c).su (hUnit (j.word 2))).d + sbSize - ((s.cell c).su (hUnit (j.word 2))).c) / 8)) →
      s.streamSearches c (hUnit (j.word 1)) (hUnit (j.word 2)) n0 = (n, v) →
      u = v.modSearchJob c (fun j => { j with done := j.done + n }) →
    Does (.searchStream c) s fun t =>
      t = if j.done + n < (j.word 3).toNat then u else u.endSearch c j 4 [.uns (BitVec.ofNat 32 (j.word 3).toNat)] 0) ∧
  (∀ s c j b ents pos first e w, s.searchJob c 3 = some j → ((maskBanks (bits (j.word 0) 19 4)).any fun b => !s.mayName c b) = false →
      s.armed (srbPage ((maskBanks (bits (j.word 0) 19 4)).headD 0)) 5 = false →
      (maskBanks (bits (j.word 0) 19 4)).find? (fun b => decide ((s.bank b).ents.length < 8192)) = some b → s.search.posted.length < 64 →
      e = { key := j.key144 1 &&& j.key144 6, care := j.key144 6, data := j.word 11, handle := (s.bank b).freeHandle } →
      (s.bank b).place e = (ents, pos, first) →
      w = (s.mergeData b ((ents.filter fun q => !(s.bank b).ents.contains q).map fun q => q.1)).modBank b
          (fun k => { k with ents := ents, recov := k.recov.filter (· != e.handle) }) →
    Does (.insert c) s fun t =>
      t = (((w.restartAt b first).postSlot b e.handle e.slot).count (srbPage b) 6 1).endSearch c j 12
        [.uns (BitVec.ofNat 32 (b + pos * 2 ^ 16))] 0) ∧
  (∀ s c j es w, s.searchJob c 4 = some j → ((maskBanks (bits (j.word 0) 19 4)).any fun b => !s.mayName c b) = false →
      es = ((maskBanks (bits (j.word 0) 19 4)).flatMap fun b =>
        ((s.bank b).ents.filter fun q => q.2.key == (j.key144 1 &&& j.key144 6) && q.2.care == j.key144 6).map
          fun q => (b, q.1, q.2.handle)) →
      es ≠ [] → es.length + s.search.posted.length ≤ 64 →
      w = es.foldl (fun s q =>
        ((s.modBank q.1 fun k => { k.drop q.2.1 with recov := k.recov.filter (· != q.2.2) }).restartAt q.1 q.2.1).postSlot
          q.1 q.2.2 .free) s →
    Does (.delete c) s fun t => t = w.endSearch c j 11 [.uns (BitVec.ofNat 32 (j.done + es.length))] 0) ∧
  (∀ s c j e d v, s.searchJob c 5 = some j → s.mayName c (bits (j.word 0) 23 20) = true →
      (s.bank (bits (j.word 0) 23 20)).at (j.word 1).toNat = some e →
      s.entData (bits (j.word 0) 23 20) (j.word 1).toNat e = (d, v) →
    Does (.searchEntryRead c) s fun t => t = v.endSearch c j 2 (keyWords e.key ++ keyWords e.care ++ [.uns d]) 0) ∧
  (∀ s unit bs c j b size m far, (s.codecTurn unit.val).map (fun k => k.cell) = some c →
      s.running c 1 = some j → s.windowBank unit.val = some b → bit (j.word 0) 0 = false →
      (size, m, far) = (if bits (j.word 0) 2 1 = 2 then (32768, 3, 32768) else (65536, 4, 65535)) →
    Does (.windowSearch unit bs) s fun t => t = s.modBank b fun k =>
      { k with winRes := (List.range 8).map fun i => windowMatch (s.bank b).window (bs.take 11) m far i
               window := ((s.bank b).window ++ bs.take 8).drop (((s.bank b).window ++ bs.take 8).length - size)
               winPos := k.winPos + 8 }) ∧
  (∀ s bank flip bad pos e f u, s.srcRuns = true → s.regBit SRC_STAT 0 = false → s.bankMode bank.val = 1 →
      (s.bank bank.val).waits = 0 → (s.bank bank.val).recov = [] →
      (s.bank bank.val).ents.find? (fun q => decide (s.cursor bank.val ≤ q.1)) = some (pos, e) →
      f = (flip.map fun f => { f with handle := e.handle }).getD e →
      u = (((s.modBank bank.val fun k => { k with ents := putEnt k.ents pos f }).comparePos bank.val pos f bad).setField
        (SRB_SWEEP bank.val) 12 0 (pos + 1)) →
    Does (.sweepCompare bank flip bad) s fun t =>
      t = if (((u.bank bank.val).ents.any fun q => decide (pos < q.1)) && decide (pos < 8191)) = true then u
        else u.passEnd bank.val) ∧
  (∀ s b h x rest u, s.srcRuns = true → s.search.posted = (b, h, x) :: rest →
      u = (({ s with search := { s.search with posted := rest } } : State).writeSlot b h x).modBank b
        (fun k => { k with waits := k.waits - 1 }) → (u.bank b).waits ≠ 0 →
    Does .shadowWriteComplete s fun t => t = u) ∧
  (∀ s b h x rest u p, s.srcRuns = true → s.search.posted = (b, h, x) :: rest →
      u = (({ s with search := { s.search with posted := rest } } : State).writeSlot b h x).modBank b
        (fun k => { k with waits := k.waits - 1 }) → (u.bank b).waits = 0 → (u.bank b).restart = some p →
    Does .shadowWriteComplete s fun t =>
      t = (u.setField (SRB_SWEEP b) 12 0 (min (u.cursor b) p)).modBank b fun k => { k with restart := none }) ∧
  (∀ s bank, s.srcRuns = true → s.regBit SRC_STAT 0 = false → s.bankMode bank.val = 1 → 4 * s.stride < longestRun (s.bank bank.val).ents →
    Does (.spread none bank) s fun t => t = s.spreadBank bank.val) ∧
  (∀ s m bank w d, w = setBit (s.reg (SRB_CTRL bank.val) &&& 0x7F) 9 true →
      Accepts s m (srbPage bank.val) 0x80 w (srbCtrlCond m bank.val w) d →
    Does (.spread (some m) bank) s fun t => t = srbCtrlEffect bank.val w (s.arrive m)) ∧
  (∀ s m bank w d, w = setBit (s.reg (SRB_CTRL bank.val) &&& 0x7F) 8 true →
      Accepts s m (srbPage bank.val) 0x80 w (srbCtrlCond m bank.val w) d →
    Does (.clear m bank) s fun t => t = srbCtrlEffect bank.val w (s.arrive m)) ∧
  (∀ s m bank v w d, w = setBits v 10 8 0 → Accepts s m (srbPage bank.val) 0x80 w (srbCtrlCond m bank.val w) d →
    Does (.srbModeOwnerWrite m bank v) s fun t => t = srbCtrlEffect bank.val w (s.arrive m)) ∧
  (∀ s m bank pass w d, w = setBit (s.reg (SRB_CTRL bank.val) &&& 0x7F) 10 true →
      Accepts s m (srbPage bank.val) 0x80 w (srbCtrlCond m bank.val w) d →
    Does (.srbSelfTest (some m) bank pass) s fun t => t = srbCtrlEffect bank.val w (s.arrive m)) ∧
  (∀ s bank pass u, (s.bank bank.val).testing = true → s.srcRuns = true → s.field? SRC_STAT 6 4 ≠ 4 →
      u = s.modBank bank.val (fun k => { k with testing := false, ents := [] }) →
    Does (.srbSelfTest none bank pass) s fun t =>
      t = (u.setReg (SRB_STAT bank.val) (setBit (u.reg (SRB_STAT bank.val)) 20 (!pass))).raise (srbPage bank.val) 6) ∧
  (∀ s m d, Accepts s m srcPage 0x8C 1 (srcCmdCond m 1) d → Does (.init m) s fun t => t = srcCmdEffect 1 (s.arrive m)) ∧
  (∀ s m d, Accepts s m srcPage 0x8C 2 (srcCmdCond m 2) d → Does (.reload m) s fun t => t = srcCmdEffect 2 (s.arrive m)) ∧
  (∀ s u, s.search.work = 1 ∨ s.search.work = 2 → s.field? SRC_STAT 6 4 ≠ 4 → s.srcRuns = true →
      u = (if s.search.work = 2 then
        (List.range 16).foldl (fun s b => if s.bankMode b = 1 then s.reloadBank b else s) s else s) →
    Does .srcReady s fun t => ∃ x : State, x = { u with search := { u.search with work := 0 } } ∧
      t = ((x.setReg SRC_STAT (setBit (x.reg SRC_STAT) 0 false)).raise srcPage 4).tryFull) ∧
  (∀ s step old held u, s.pageOn srcPage = true → step = srcStep ((s.field? TMP_STAT 7 0 : Int) - 64) → old = s.field? SRC_STAT 6 4 →
      held = (if old = 4 then 800000 else 800000 - 800000 / 2 ^ old) →
      u = (if (s.search.work != 0 || (List.range 16).any fun b => (s.bank b).testing || !(s.bank b).recov.isEmpty) && old != 0 then
        s.count srcPage 2 held else s) →
    Does .srcThrottleSample s fun t =>
      t = if step = old then u.setReg SRC_STAT (setBits (setBits (u.reg SRC_STAT) 15 8 (s.field? TMP_STAT 7 0)) 6 4 step)
        else (u.setReg SRC_STAT (setBits (setBits (u.reg SRC_STAT) 15 8 (s.field? TMP_STAT 7 0)) 6 4 step)).raise srcPage 3)

/-- The commands of the cryptographic complex complete with the effect of R306 to R330: codewords on the data path, cipher and digest jobs
of cells, HALT, and the operations of the key store; a refused operation completes with its RESULT. -/
def Obligations.CryptoCommands : Prop :=
  (∀ s lane req r p n v, s.req? req = some r → (s.lane lane.val).job = none →
      ((s.lane lane.val).path.isNone = true ∨ ∃ h, (s.lane lane.val).path = some h ∧ h.req = req) →
      (r.lane = none ∨ r.lane = some lane.val) → s.pageOn (cipPage lane.val) = true →
      s.regBit (CIP_CTRL lane.val) 0 = true → s.regBit (CIP_CTRL lane.val) 1 = false → s.regBit KEY_STAT 3 = false →
      (s.media.reqs.any fun x => x.lane == some lane.val && x.before r && s.pathReady x false) = false →
      s.pathReady r (s.lane lane.val).path.isSome = true → r.phase = .cipher → r.data = some p → n = p.tag.keyNs →
      s.useKey n = (true, v) →
    Does (.cipherPathJob lane req) s fun t => t = v.encryptWord lane.val r p) ∧
  (∀ s lane req r p, s.req? req = some r → (s.lane lane.val).job = none →
      ((s.lane lane.val).path.isNone = true ∨ ∃ h, (s.lane lane.val).path = some h ∧ h.req = req) →
      (r.lane = none ∨ r.lane = some lane.val) → s.pageOn (cipPage lane.val) = true →
      s.regBit (CIP_CTRL lane.val) 0 = true → s.regBit (CIP_CTRL lane.val) 1 = false → s.regBit KEY_STAT 3 = false →
      (s.media.reqs.any fun x => x.lane == some lane.val && x.before r && s.pathReady x false) = false →
      s.pathReady r (s.lane lane.val).path.isSome = true → r.phase = .sensed → r.data = some p →
    Does (.cipherPathJob lane req) s fun t => t = s.decryptWord lane.val r p) ∧
  (∀ s c lane j l n pos per segs u v w x y out verify force z, s.running c 2 = some j → l = lane.val → n = bits (j.word 1) 5 0 →
      s.pageOn (cipPage l) = true → s.regBit (CIP_CTRL l) 0 = true → s.regBit (CIP_CTRL l) 1 = false → (s.lane l).path = none →
      (s.laneOf c = some l ∨ (s.laneOf c = none ∧ (s.lane l).job = none)) → s.regBit KEY_STAT 3 = false → (s.key n).valid = true →
      (hKind (j.word 2) = 2 ∨ posOf ((s.cell c).su (hUnit (j.word 2))).c (j.word 3).toNat + j.srcLen ≤
        ((s.cell c).su (hUnit (j.word 2))).d) →
      (j.dstLen = 0 ∨ posOf ((s.cell c).su (hUnit (j.word 6))).c (j.word 7).toNat + j.dstLen ≤
        ((s.cell c).su (hUnit (j.word 6))).d + sbSize) →
      s.useKey n = (true, u) → u.readSb c (hUnit (j.word 2)) (j.word 3).toNat j.srcLen = (some x, v) →
      pos = ((v.lane l).job.map (·.pos)).getD 0 →
      segs = (((v.lane l).job.map fun h => h.segs ++ [(pos, v.jobKey (v.key n) (j.word 12))]).getD
        [(0, v.jobKey (v.key n) (j.word 12))]) →
      (j.decrypt = true ∨ j.blocks - pos ≤ v.blocksLeft n) →
      w = (if j.decrypt then v else v.useBlocks n (j.blocks - pos)) →
      cipherOut j (segs.map fun q => (q.1, leBytes (16 + 8 * (v.key n).klen) q.2.2.toNat)) x = (out, y) →
      verify = (j.decrypt && (j.mode == 4 || j.mode == 5)) → force = (verify && w.armed (cipPage l) 3) →
      (verify && j.mode == 5 && j.rlen != 0) = false →
      per = (if j.mode = 5 ∧ j.rlen ≠ 0 then macLen (4 * j.rlen) else 1) →
      z = ((if force then w.disarm (cipPage l) 3 else w).writeCipher c j
        (if y && !force then out else List.replicate out.length 0)).writeBackWords c j 13
          [.uns (BitVec.ofNat 32 j.blocks), .uns (segs.getLastD (0, 0, 0)).2.1,
            .uns (BitVec.ofNat 32 ((segs.getLastD (0, 0, 0)).1 / per))] →
    Does (.cipherJob c lane false) s fun t => ∃ e : State, e = z.count64 (cipPage l) 2 (j.blocks - pos) ∧
      t = (if y && !force then e else (e.count (cipPage l) 5 1).raise (cipPage l) 3).endCipher c l
        (if y && !force then 0 else 0x20) j.blocks) ∧
  (∀ s m lane v d, Accepts s m (cipPage lane.val) 0x80 (setBit v 1 true) noCond d →
    Does (.cipherHalt m lane v) s fun t => t = cipCtrlEffect lane.val (setBit v 1 true) d (s.arrive m)) ∧
  (∀ s t0 c lane j l u rest off x y st v w z, s.running c 3 = some j → l = lane.val → s.switchTo l c = some t0 →
      s.pageOn (digPage l) = true → s.regBit (DIG_CTRL l) 0 = true →
      (((List.range 4).find? fun k => s.crypto.bound.getD k none == some c) = some l ∨
        (((List.range 4).find? fun k => s.crypto.bound.getD k none == some c) = none ∧ s.crypto.bound.getD l none = none)) →
      ((List.range 4).any fun k => k != l && s.digOn k == some c) = false →
      u = hUnit (j.word 1) → rest = (j.word 3).toNat - j.done → (j.consume = true → rest ≤ ((t0.cell c).su u).d - ((t0.cell c).su u).c) →
      off = (if j.consume then ((t0.cell c).su u).c else (j.word 2).toNat + j.done) →
      t0.readSb c u off rest = (some x, v) → v.armed (digPage l) 4 = false → v.digResume c j = (some st, w) →
      y = (if j.final then digFinish j.alg st x (j.mlen + j.done + rest - rest) else digAbsorb j.alg st x) →
      z = ((if j.consume then w.releaseIn c u rest else w).count64 (digPage l) 2 rest).writeBackWords c j 4
        ([.uns (BitVec.ofNat 32 (j.mlen + j.done + rest)), .uns (BitVec.ofNat 32 ((j.mlen + j.done + rest) / 2 ^ 32))] ++
          (List.range (j.words.length - 6)).map fun k => (⟨tBytes, leWord (sub y (4 * k) 4)⟩ : TWord)) →
    Does (.digestJob c lane none false) s fun t => ∃ e : State,
      e = (if j.final then
        ((List.range 16).foldl (fun s k => s.setReg (DIG_RES l k) (leWord (sub y (4 * k) 4))) z).setReg (DIG_STAT l)
          (setBit (((List.range 16).foldl (fun s k => s.setReg (DIG_RES l k) (leWord (sub y (4 * k) 4))) z).reg (DIG_STAT l))
            15 true) else z) ∧
      t = ((e.count (digPage l) 4 1).setDig l none).endJob c 3 (digPage l) 0) ∧
  (∀ s m v d a n l k goOn, Accepts s m keyPage 0x84 (setBits v 2 0 1) noCond d → a = s.arrive m → n = bits v 8 3 → l = a.labelReg →
      k = a.key n → goOn = (k.valid && withEpoch l (labelEpoch k.label) == k.label &&
        decide ((labelEpoch k.label).toNat < (labelEpoch l).toNat)) →
      a.regBit KEY_STAT 3 = false → (a.keyRunning n = true → goOn = true ∧ a.keyHeld n = true) →
      (k.valid && l == k.label && bits v 10 9 == k.klen && bit (setBits v 2 0 1) 11 == k.root) = false →
      (bit (setBits v 2 0 1) 11 = true → a.crypto.root ≠ none) →
      a.labelOk n l (bits v 10 9) (bit (setBits v 2 0 1) 11) = true →
    Does (.derive m v) s fun t => t = (((a.loadKey n (bit (setBits v 2 0 1) 11) l (bits v 10 9)).settleHeld n goOn).keyResult
      0).journalKey a n) ∧
  (∀ s m v d a n, Accepts s m keyPage 0x84 (setBits v 2 0 2) noCond d → a = s.arrive m → n = bits v 8 3 →
      a.regBit KEY_STAT 3 = false → a.keyRunning n = false →
    Does (.erase m v) s fun t => t = (((a.settleHeld n false).eraseKey n).keyResult 0).journalKey a n) ∧
  (∀ s m v d a u, Accepts s m keyPage 0x84 (setBits v 2 0 3) noCond d → a = s.arrive m → (∀ c, m ≠ .cell c) →
      a.regBit KEY_STAT 3 = false → a.events.tamper = false → (m = .sideband → a.regBit KEY_CTRL 0 = false) →
      a.installBlob (a.crypto.wrap.flatMap wordBytes) = some u →
    Does (.install m v) s fun t => t = (u.keyResult 0).journalKey a (bits v 8 3)) ∧
  (∀ s m v d a, Accepts s m keyPage 0x84 (setBits v 2 0 4) noCond d → a = s.arrive m → (∀ c, m ≠ .cell c) →
      a.regBit KEY_STAT 3 = false →
    Does (.eraseAll m v) s fun t =>
      t = (((List.range 64).foldl (fun s n => (s.settleHeld n false).eraseKey n) a).keyResult 0).journalKey a (bits v 8 3)) ∧
  (∀ s m v d a, Accepts s m keyPage 0x84 v noCond d → a = s.arrive m → a.regBit KEY_STAT 3 = false →
      (bits v 2 0 = 0 ∨ 5 ≤ bits v 2 0) →
    Does (.keyOpRefused m v) s fun t => t = (a.keyRefuse m v 8 none).journalKey a (bits v 8 3)) ∧
  (∀ s m v d, Accepts s m keyPage 0x80 (setBit v 0 true) noCond d →
    Does (.rootLock m v) s fun t => t = (s.arrive m).store KEY_CTRL (setBit v 0 true) d) ∧
  (∀ s m d a, a = s.arrive m → Reaches a m keyPage 0x98 d →
    Does (.keySuse0Read m) s fun t => t = (a.latch keyPage 0x9C m (keySuse1 a)).answerRead m keyPage (keySuse0 a))

/-- The commands of the DRAM channels and of retuning complete with the effect of R335 to R343, R361 and R362: a request issues, a bank is
refreshed, a sample is taken, the staged codes become active, a region is filled and a correction log is emptied. -/
def Obligations.DramCommands : Prop :=
  (∀ s ch upset r l pois u, s.regBit DRC_STAT 0 = false → s.regBit DRC_STAT 1 = false → s.nextReq ch = some r → r.write = some (l, pois) →
      u = ((if s.promoted r then s.count 0x0E0 3 1 else s).activate ch r).modDramCh ch
        (fun c => { c with queue := c.queue.erase r }) →
      (u.dram.ebuf.find? fun e => e.1.n == r.n && r.req == 63) = none →
    Does (.dramRequestIssue ch upset) s fun t =>
      t = (({ u with dram := { u.dram with ebuf := u.dram.ebuf.filter fun e => e.1.n != r.n } } : State).dramWrite r.n l pois).syncFcv) ∧
  (∀ s ch upset r l pois e k bad u v, s.regBit DRC_STAT 0 = false → s.regBit DRC_STAT 1 = false → s.nextReq ch = some r →
      r.write = some (l, pois) →
      u = ((if s.promoted r then s.count 0x0E0 3 1 else s).activate ch r).modDramCh ch
        (fun c => { c with queue := c.queue.erase r }) →
      (u.dram.ebuf.find? fun e => e.1.n == r.n && r.req == 63) = some e →
      u.readLoose { e.1 with data := l } = (k, bad, v) →
    Does (.dramRequestIssue ch upset) s fun t =>
      t = (({ v with dram := { v.dram with ebuf := v.dram.ebuf.filter fun e => e.1.n != r.n } } : State).dramWrite r.n k
        (pois || bad)).syncFcv) ∧
  (∀ s ch upset r l turn u v, s.regBit DRC_STAT 0 = false → s.regBit DRC_STAT 1 = false → s.nextReq ch = some r → r.write = none →
      u = ((if s.promoted r then s.count 0x0E0 3 1 else s).activate ch r).modDramCh ch
        (fun c => { c with queue := c.queue.erase r }) →
      turn = upset.foldl (fun a p => a ^^^ (p.2.toNat * 2 ^ (266 * (p.1 % 4)))) 0 →
      v = { u with upsets := u.upsets.set (fun _ => 0) (lineKey r.n) (u.upsets.get (fun _ => 0) (lineKey r.n) ^^^ turn) } →
      (v.dramRead r.n).2.armed (0xE1 + ch) 3 = false → (v.dramRead r.n).1 = l →
    Does (.dramRequestIssue ch upset) s fun t => t = (v.dramRead r.n).2.deliverLine r.req r.n l) ∧
  (∀ s ch, s.pageOn 0x0E0 = true → s.regBit DRC_STAT 0 = false → s.regBit DRC_STAT 1 = false →
    Does (.perBankRefresh ch) s fun t => t = s.modDramCh ch fun c =>
      { c with bank := (c.bank + 1) % 16, open_ := c.open_.set (fun _ => 0) c.bank 0, pend := c.pend - 1 }) ∧
  (∀ s ch, s.pageOn 0x0E0 = true → s.regBit DRC_STAT 1 = true →
    Does (.perBankRefresh ch) s fun t => t = s.modDramCh ch fun c => { c with pend := min 8 (c.pend + 1) }) ∧
  (∀ s d st b u, s.pageOn 0x0E0 = true → st = s.reg DRC_STAT → b = bandStep 8 (bits st 6 4) d →
      u = s.setReg DRC_STAT (setBit (setBits (setBits st 23 16 (d + 64).toNat) 6 4 b) 2 (decide (85 < d))) →
      (bandHolds (bits (setBits (setBits st 23 16 (d + 64).toNat) 6 4 b) 10 8) d ||
        bit (setBits (setBits st 23 16 (d + 64).toNat) 6 4 b) 3) = true →
    Does (.dramTempSample d) s fun t => t = if b = bits st 6 4 then u else (u.raise 0x0E0 3).stageCodes b) ∧
  (∀ s d st b u, s.pageOn 0x0E0 = true → st = s.reg DRC_STAT → b = bandStep 8 (bits st 6 4) d →
      u = s.setReg DRC_STAT (setBit (setBits (setBits st 23 16 (d + 64).toNat) 6 4 b) 2 (decide (85 < d))) →
      (bandHolds (bits (setBits (setBits st 23 16 (d + 64).toNat) 6 4 b) 10 8) d ||
        bit (setBits (setBits st 23 16 (d + 64).toNat) 6 4 b) 3) = false →
    Does (.dramTempSample d) s fun t => ∃ x y : State, x = (if b = bits st 6 4 then u else (u.raise 0x0E0 3).stageCodes b) ∧
      y = ((x.setReg DRC_STAT (setBit (x.reg DRC_STAT) 3 true)).syncTemp.raise 0x0E0 5).count 0x0E0 5 1 ∧
      t = { y with dram := { y.dram with margin := true } }) ∧
  (∀ s m v d, Accepts s m 0x0E0 0x88 (setBit v 0 true) (armCond m (setBit v 0 true)) d →
    Does (.arm m v) s fun t => t = rtEffect (setBit v 0 true) (s.arrive m)) ∧
  (∀ s m v d, Accepts s m 0x0E0 0x88 (setBit v 1 true) (armCond m (setBit v 1 true)) d →
    Does (.cancel m v) s fun t => t = rtEffect (setBit v 1 true) (s.arrive m)) ∧
  (∀ s, s.regBit DRC_STAT 1 = false → s.regBit DRC_RT 0 = true → s.regBit DRC_STAT 0 = false → s.power.pwrFail = true →
      (s.slotDue || s.dram.margin) = true → (s.dram.chans.all fun c => c.pend == 0) = true →
    Does .retuneBlackout s fun t => t = s.setReg DRC_STAT (setBit (s.reg DRC_STAT) 1 true)) ∧
  (∀ s u st ok v w, s.regBit DRC_STAT 1 = true →
      u = (List.range 4).foldl (fun (s : State) ch =>
        if (s.dramCh ch).queue.length = 0 then s.modDramCh ch fun c => { c with
          open_ := [], codes := (List.range 10).foldl (fun m k => m.set (fun _ => 0) k (m.get (fun _ => 0) (16 + k))) c.codes }
        else (s.modDramCh ch fun c => { c with
          open_ := [], codes := (List.range 10).foldl (fun m k => m.set (fun _ => 0) k (m.get (fun _ => 0) (16 + k))) c.codes
          }).count (0xE1 + ch) 6 (s.dramCh ch).queue.length) s →
      st = setBit (setBits (u.reg DRC_STAT) 10 8 (bits (u.reg DRC_STAT) 6 4)) 1 false →
      ok = bandHolds (bits (u.reg DRC_STAT) 6 4) u.dramTemp →
      v = (u.setReg DRC_STAT (if ok then setBit st 3 false else st)).setReg DRC_RT 0 →
      w = { v with dram := { v.dram with lastBo := v.pages.dtime, margin := if ok then false else v.dram.margin } } →
    Does .retuneBlackout s fun t =>
      t = (((if bit st 3 && ok then w.syncTemp else w).raise 0x0E0 4).count 0x0E0 2 1).count 0x020 9 1) ∧
  (∀ s, Does .regionFill s fun t => t = s.fillRegion.resumeSlots.tryFull) ∧
  (∀ s m page v d, Accepts s m page 0xD28 (setBit v 0 true) noCond d →
    Does (.mpClear m page v) s fun t => t = mpClear page (setBit v 0 true) (s.arrive m))

/-- The commands of the fabric cache complete with the effect of R344 to R354: an access that its port accepts, a fill, the way operations and
the maintenance operations. DONE of an ALL operation is the
model's choice (log 127). -/
def Obligations.CacheCommands : Prop :=
  (∀ s id addr len cls write u, id < 63 → 0 < len → addr % 128 + len ≤ 128 → addr / 128 < lineCount → s.regionFilled addr = true →
      s.pageOn 0xE8 = true →
      s.access id { n := addr / 128, off := addr % 128, len := len, cls := cls % 4, write := write.map fun bs => sub bs 0 len } = some u →
    Does (.cacheAccess id addr len cls write) s fun t => t = u) ∧
  (∀ s slice id p d pois x y w v u, (s.slice slice).port id = some p → p.arrived = some (d, pois) →
      s.serveJoined slice id p.joined d pois false = (x, y, w, v) →
      (if p.alloc && !(v.usableWays slice id).isEmpty then v.allocate slice id p.n 0 x w y
        else if w then v.enqueue { n := p.n, cls := 0, req := id, since := s.pages.dtime, write := some (x, y) } else some v) = some u →
    Does (.cacheFill slice id) s fun t => ∃ z : State,
      z = u.modSlice slice (fun sl => { sl with ports := sl.ports.filter (·.id != id) }) ∧
      t = match p.stopped with | none => z | some a => (z.access id a).getD z) ∧
  (∀ s slice way at_ u, (s.slice slice).retire.find? (·.1 == way) = some at_ → at_.2 ≤ s.ns → (s.slice slice).wop = none →
      u = (s.flushWay slice way).setReg (FCH_WAYS slice)
        (setBit (setBit ((s.flushWay slice way).reg (FCH_WAYS slice)) (16 + way) false) way true) →
    Does (.wayDisable slice way) s fun t => t =
      (((u.modSlice slice fun sl => { sl with retire := sl.retire.filter (·.1 != way) }).syncWays slice).logWays slice).raise
        (fchPage slice) 4) ∧
  (∀ s m slice v d, Accepts s m (fchPage slice) 0x98 v (wdisCond m slice v) d →
    Does (.fchWdis m slice v) s fun t => t = wdisEffect slice v (s.arrive m)) ∧
  (∀ s m v d, Accepts s m 0x0EC 0x88 (setBits v 2 0 1) (mopCond m (setBits v 2 0 1)) d →
    Does (.clean m v) s fun t => t = mopEffect (setBits v 2 0 1) (s.arrive m)) ∧
  (∀ s m v d, Accepts s m 0x0EC 0x88 (setBits v 2 0 2) (mopCond m (setBits v 2 0 2)) d →
    Does (.inval m v) s fun t => t = mopEffect (setBits v 2 0 2) (s.arrive m)) ∧
  (∀ s m v d, Accepts s m 0x0EC 0x88 (setBits v 2 0 3) (mopCond m (setBits v 2 0 3)) d →
    Does (.cleanInval m v) s fun t => t = mopEffect (setBits v 2 0 3) (s.arrive m)) ∧
  (∀ s m v d, Accepts s m 0x0EC 0x88 (setBits v 2 0 4) (mopCond m (setBits v 2 0 4)) d →
    Does (.cleanAll m v) s fun t => t = mopEffect (setBits v 2 0 4) (s.arrive m)) ∧
  (∀ s m v d, Accepts s m 0x0EC 0x88 (setBits v 2 0 5) (mopCond m (setBits v 2 0 5)) d →
    Does (.cleanInvalAll m v) s fun t => t = mopEffect (setBits v 2 0 5) (s.arrive m)) ∧
  (∀ s m slice v d, Accepts s m (fchPage slice) 0xA0 (setBits v 1 0 1) (wopCond m slice (setBits v 1 0 1)) d →
    Does (.cleanWay m slice v) s fun t => t = wopEffect slice (setBits v 1 0 1) (s.arrive m)) ∧
  (∀ s m slice v d, Accepts s m (fchPage slice) 0xA0 (setBits v 1 0 2) (wopCond m slice (setBits v 1 0 2)) d →
    Does (.cleanInvalWay m slice v) s fun t => t = wopEffect slice (setBits v 1 0 2) (s.arrive m)) ∧
  (∀ s o u, s.dram.mop = some o → s.mopWaits o = false →
      u = s.maintain o.covers (o.op != 2) (o.op = 2 || o.op = 3 || o.op = 5) →
    Does (.maintenanceDone none) s fun t => t = (({ u with dram := { u.dram with mop := none } } : State).setReg FCV_MSTAT
      (setBits (setBits (({ u with dram := { u.dram with mop := none } } : State).reg FCV_MSTAT) 1 0 0) 31 16
        (if decide (4 ≤ o.op) then
            min 65535 (s.dram.slices.foldl (fun n (sl : Slice4) => n + sl.lines.length)
              (s.dram.victim.length + s.dram.ebuf.length))
          else o.count))).raise 0x0EC 3) ∧
  (∀ s k op w u, (s.slice k).wop = some (op, w) → ((s.slice k).ports.any fun p => p.alloc && (s.usableWays k p.id).contains w) = false →
      u = (s.writeBack k ((s.slice k).lines.filter (·.way == w))).modSlice k (fun sl => { sl with
        wop := none, lines := if op = 2 then sl.lines.filter (·.way != w)
          else sl.lines.map fun l => if l.way = w then { l with dirty := false } else l }) →
    Does (.maintenanceDone (some k)) s fun t => t = u.setReg (FCH_STAT k) (setBit (u.reg (FCH_STAT k)) 16 false))

/-- What the field die's inputs, timers and power do, while the die is powered (R375, R376, R384 to R388, R393, R398). -/
def Obligations.FieldInputCommands : Prop :=
  (∀ s n level time p u, s.field.powered = true → n < 4 → s.field.levels.getD n false ≠ level → p = s.field.param (0x400 + n) →
      u = s.modField (fun f => { f with levels := f.levels.set n level }) →
    Does (.discreteInputChange n level time) s fun t =>
      t = (if (mByte p 2).testBit (if level != (mByte p 3).testBit 0 then 0 else 1) then
        u.record time n (level != (mByte p 3).testBit 0).toNat 0 else u).fire (BitVec.ofNat 32 (2 ^ n))) ∧
  (∀ s w, s.field.powered = true → fld (s.field.param 0x410) 2 2 ≤ w →
    Does (.speedPulse w) s fun t => t = (s.modField fun f => { f with pulses := f.pulses + 1 }).fire 0x400) ∧
  (∀ s, s.field.powered = true →
    Does .speedSample s fun t =>
      t = (if (s.field.pulses != 0 || s.field.pulsed) = true then s.record s.field.time 4 0 s.field.pulses else s).modField
        fun f => { f with pulsed := f.pulses != 0, pulses := 0 }) ∧
  (∀ s bus ident brs esi dlc data id time head d n, s.field.powered = true → bus < 4 → mByte (s.field.param (0x100 + bus)) 5 ≠ 0 →
      zeros (s.field.param (0x100 + bus)) 2 2 = false → id = ident &&& 0x3FFFFFFF → s.field.canPasses bus id = true → time = leBytes 8 s.field.time.toNat → n = canLen true (min dlc 15) →
      head = (fun p => time ++ wordBytes id ++ leBytes 1 (bus + 4 * brs.toNat + 8 * esi.toNat) ++ leBytes 1 (min dlc 15) ++
        leBytes 1 p ++ [0]) → d = sub data 0 n →
    Does (.canFrameReceived bus ident true brs esi dlc data) s fun t =>
      t = (if n ≤ 36 then s.produce [(2, 1, head 0 ++ d)] else
        s.produce [(2, 1, head 0 ++ d.take 36), (2, 1, head 1 ++ d.drop 36)]).fire (BitVec.ofNat 32 (2 ^ (4 + bus)))) ∧
  (∀ s bus ident brs esi dlc data id time, s.field.powered = true → bus < 4 → mByte (s.field.param (0x100 + bus)) 5 ≠ 0 →
      id = ident &&& 0x7FFFFFFF → s.field.canPasses bus id = true → time = leBytes 8 s.field.time.toNat → s.field.joins = none →
    Does (.canFrameReceived bus ident false brs esi dlc data) s fun t =>
      t = (s.produce [(2, 0, time ++ canRec 0 bus (min dlc 8) id data)]).fire (BitVec.ofNat 32 (2 ^ (4 + bus)))) ∧
  (∀ s bus ident brs esi dlc data id e ms, s.field.powered = true → bus < 4 → mByte (s.field.param (0x100 + bus)) 5 ≠ 0 →
      id = ident &&& 0x7FFFFFFF → s.field.canPasses bus id = true → s.field.joins = some e →
      ms = (s.field.time - BitVec.ofNat 64 (fld (mBody e.msg) 0 8)).toNat →
    Does (.canFrameReceived bus ident false brs esi dlc data) s fun t =>
      t = (s.modField fun f => { f with ring := f.ring.dropLast ++ [{ e with
        msg := mkMsg 2 e.seq.toNat 0 0 (mBody e.msg ++ canRec ms bus (min dlc 8) id data) }] }).fire (BitVec.ofNat 32 (2 ^ (4 + bus)))) ∧
  (∀ s bus st tec rec_, s.field.powered = true → bus < 4 → st ≤ 2 → s.field.busSt.getD bus 0 ≠ st →
    Does (.canBusStateChange bus st tec rec_) s fun t =>
      t = (s.modField fun f => { f with busSt := f.busSt.set bus st }).record s.field.time 7 st
        (tec % 256 + rec_ % 256 * 256 + bus * 65536)) ∧
  (∀ s port frame k cap parts, s.field.powered = true → port < 2 → mByte (s.field.param (0x280 + port)) 0 ≠ 0 → 14 ≤ frame.length →
      frame.length ≤ 1518 → (List.range 16).find? (fun k => ethMatches (s.field.param (0x300 + 16 * port + k)) frame) = some k →
      cap = min frame.length (fld (s.field.param (0x300 + 16 * port + k)) 12 2) → parts = (cap + 35) / 36 →
    Does (.ethFrameReceived port frame) s fun t => ∃ part : Nat → Nat × Nat × List Byte,
      (∀ p, part p = (3, (p + 1 == parts).toNat, (leBytes 8 s.field.time.toNat ++ leBytes 2 (s.field.frames.getD port 0).toNat ++
        leBytes 2 cap ++ leBytes 1 (port + 2 * k) ++ leBytes 1 p ++ leBytes 2 (36 * p) ++ (frame.take cap).drop (36 * p)).take
          (16 + min 36 (cap - 36 * p)))) ∧
      t = ((s.modField fun f => { f with frames := f.frames.set port (s.field.frames.getD port 0 + 1) }).produce
        ((List.range parts).map part)).fire (BitVec.ofNat 32 (2 ^ (8 + port)))) ∧
  (∀ s port up, s.field.powered = true → port < 2 → s.field.ethUp.getD port false ≠ up →
    Does (.ethernetLinkChange port up) s fun t =>
      t = (s.modField fun f => { f with ethUp := f.ethUp.set port up }).record s.field.time 8 up.toNat port) ∧
  (∀ s n, s.field.powered = true →
    Does (.fieldTokenRefill n) s fun t => t = s.modField fun f =>
      { f with tokens := min 4096 (f.tokens + min n (f.tokAcc / 1000000)), tokAcc := f.tokAcc - 1000000 * min n (f.tokAcc / 1000000) }) ∧
  (∀ s, s.field.powered = true → Does .timeSyncInterval s fun t => t = s.syncEntry none) ∧
  (∀ s mv temp, s.field.powered = true →
    Does (.healthInterval mv temp) s fun t => t = (s.modField fun f => { f with mv := mv % 65536, temp := temp % 256 }).health) ∧
  (∀ s, s.field.powered = true →
    Does .legalTimeStore s fun t => t = s.modField fun f => { f with mram := { f.mram with time := f.time } }) ∧
  (∀ s, s.field.powered = true → s.field.mram.policy.alarm ≠ 0 → s.field.mram.policy.alarm.toNat ≤ s.field.time.toNat →
    Does .rtcAlarm s fun t => t = s.fire 0x1000) ∧
  (∀ s, s.field.powered = true → s.field.slew = some 0 →
    Does .slewComplete s fun t => t = s.modField fun f => { f with slew := none, slewAcc := 0 }) ∧
  (∀ s, s.field.powered = true → s.field.repeats = true → s.field.linkUp = false →
    Does .wakeRepeat s fun t => t = s.emit (.toHost s.field.wakeMsg)) ∧
  (∀ s, s.field.powered = true → Does (.wakeOutputTimeout false) s fun t => t = s.wakeOutputs 3 false) ∧
  (∀ s, s.field.powered = true → s.field.repeats = true → s.field.linkUp = false →
    Does (.wakeOutputTimeout true) s fun t => t = s.wakeOutputs s.field.mram.policy.outmask true) ∧
  (∀ s e m, s.field.powered = true → s.field.linkUp = true → (s.field.ring.find? fun e => e.seq == s.field.sendAt) = some e →
      m = (if !e.bad && crc32c (e.msg.take 60) == leWord (sub e.msg 60 4) then e.msg
        else mkMsg 1 e.seq.toNat 0 0 (eventBody s.field.time 9 0 (mType e.msg))) →
    Does .ringEntrySend s fun t =>
      t = (s.modField fun f => { f with sendAt := f.sendAt + 1 }).emit
        (.toHost (if !seqLe s.field.resent s.field.sendAt then resent m else m))) ∧
  (∀ s u, s.field.powered = false → u = s.modField (fun f => { f with
        powered := true, fell := false, time := f.mram.time, tvalid := false, slew := none, slewAcc := 0, quality := 0, lastSet := none
        ring := [], seq := f.mram.reserve, sendAt := f.mram.reserve, resent := f.mram.reserve, tokens := 4096, tokAcc := 0, fired := 0
        repeats := false, outputs := [false, false], mram := { f.mram with cold := sat32 (f.mram.cold + 1) }
        counts := { rateDrops := 0, fullDrops := 0, rxErr := 0, fcsErr := 0, canErr := 0, corr := 0, cold := 0 }
        frames := [0, 0], pulses := 0, pulsed := false, expect := none, acks := [], tx := [], sentAt := [], linkUp := false }) →
    Does .fieldColdStart s fun t => t = (u.record u.field.time 6 0 u.field.mram.cold).syncFlags) ∧
  (∀ s, s.field.powered = true →
    Does .vf3p3Loss s fun t =>
      t = (s.modField fun f => { f with powered := false, tvalid := false, ring := [], outputs := [false, false] }).frontDown.modFrl
        fun f => { f with legal := f.legal.map fun x => (x.1, x.2.1, false) })

/-- Messages to the field die act once, in sequence, with their ACK (R381, R382, R389 to R396); messages from it enter the host side in sequence
(R381, R383). -/
def Obligations.FieldMessageCommands : Prop :=
  (∀ s msg u r, s.field.powered = true → s.field.linkUp = true → msgFault false msg = none → mType msg = 0x81 →
      mSeq msg = s.field.expect.getD (mSeq msg) →
      (s.modField fun f => { f with expect := some (mSeq msg + 1) }).config (mBody msg) = (u, some r) →
    Does (.config msg) s fun t => t = u.fieldAck (mSeq msg) r) ∧
  (∀ s msg u r, s.field.powered = true → s.field.linkUp = true → msgFault false msg = none → mType msg = 0x82 →
      mSeq msg = s.field.expect.getD (mSeq msg) →
      (s.modField fun f => { f with expect := some (mSeq msg + 1) }).timeSet (BitVec.ofNat 64 (fld (mBody msg) 0 8))
        (mByte (mBody msg) 8) = (u, some r) →
    Does (.timeSet msg) s fun t => t = u.fieldAck (mSeq msg) r) ∧
  (∀ s msg b, s.field.powered = true → s.field.linkUp = true → msgFault false msg = none → mType msg = 0x83 →
      mSeq msg = s.field.expect.getD (mSeq msg) → b = mBody msg →
    Does (.wakePolicy msg) s fun t => ∃ p : WakePolicy,
      p = { sources := leWord (b.take 4), pct := mByte b 4, outmask := mByte b 5, alarm := BitVec.ofNat 64 (fld b 8 8) } ∧
      t = ((s.modField fun f => { f with expect := some (mSeq msg + 1) }).modField fun f =>
        { f with mram := { f.mram with policy := p } }).fieldAck (mSeq msg) 0) ∧
  (∀ s msg u r, s.field.powered = true → s.field.linkUp = true → msgFault false msg = none → mType msg = 0x84 →
      mSeq msg = s.field.expect.getD (mSeq msg) →
      (s.modField fun f => { f with expect := some (mSeq msg + 1) }).txCan (mSeq msg) (mBody msg) = (u, r) →
    Does (.txCan msg) s fun t => t = match r with | some r => u.fieldAck (mSeq msg) r | none => u) ∧
  (∀ s ok x rest u, s.field.powered = true → s.field.tx = x :: rest → u = s.modField (fun f => { f with tx := rest }) →
    Does (.canTransmitDone ok) s fun t =>
      t = (if ok then (u.modField fun f => { f with sentAt := f.sentAt ++ [(x.entry, f.time)] }).emit
        (.can x.bus x.ident x.ctl x.dlc x.data) else u).fieldAck x.seq (if ok then 0 else 6)) ∧
  (∀ s msg u r, s.field.powered = true → s.field.linkUp = true → msgFault false msg = none → mType msg = 0x85 → mFlag msg 1 = false →
      mSeq msg = s.field.expect.getD (mSeq msg) →
      (s.modField fun f => { f with expect := some (mSeq msg + 1) }).fieldSegment msg = (u, r) →
    Does (.fieldImage msg) s fun t => t = match r with | some r => u.fieldAck (mSeq msg) r | none => u) ∧
  (∀ s ok version p, s.field.powered = true → s.field.spare = p → p.state = 2 →
    Does (.fieldImageVerified ok version) s fun t =>
      t = (s.modField fun f => f.setSpare { p with state := if ok then 3 else 0, version := if ok then version else 0
        }).syncFlags.fieldAck s.field.imgSeq (if ok then 0 else 8)) ∧
  (∀ s msg starts u r, s.field.powered = true → s.field.linkUp = true → msgFault false msg = none → mType msg = 0x85 →
      mFlag msg 1 = true → mSeq msg = s.field.expect.getD (mSeq msg) →
      (s.modField fun f => { f with expect := some (mSeq msg + 1) }).activatePatch starts = (u, some r) →
    Does (.fieldImageActivate msg starts) s fun t => t = u.fieldAck (mSeq msg) r) ∧
  (∀ s msg a u v, s.field.powered = true → s.field.linkUp = true → msgFault false msg = none → mType msg = 0x86 →
      a = leWord ((mBody msg).take 4) →
      u = (if seqLe s.field.sentTo a = true then s.rxErr
        else s.modField fun f => { f with ring := f.ring.filter fun e => !seqLe e.seq a }) →
      v = u.modField (fun f => f.sendFrom (if mFlag msg 0 = true then leWord (sub (mBody msg) 4 4) else f.sendAt)) →
    Does (.hostAck msg) s fun t =>
      t = if mFlag msg 1 = true then (v.modField fun f => { f with sendAt := v.field.oldest, resent := f.seq }).emit
        (.toHost (mkMsg 7 0 0 2 (leBytes 4 v.field.oldest.toNat ++ [0, 0, 0, 0]))) else v)

/-- The host side of the Front link: the link, repeats, messages to and from the field die, FRL_MSGCTL, and cell 14's capture (R378 to R383,
R399 to R403). -/
def Obligations.FrontLinkCommands : Prop :=
  (∀ s, Does .frontLinkUp s fun t => t = s.frontLink.tryEvReady.tryFull) ∧
  (∀ s, s.frontUp = true → Does .frontLinkDown s fun t => t = s.frontDown) ∧
  (∀ s m v d, Accepts s m 0x0F0 0x80 (setBit v 1 true) noCond d →
    Does (.retrain m v) s fun t => t = ((s.arrive m).store FRL_CTRL (setBit v 1 true) d).frontDown) ∧
  (∀ s, s.frontUp = true → s.frl.waiting = true → 1000 ≤ (s.pages.dtime - s.frl.lastTx).toNat →
    Does .resumeRepeat s fun t => t = s.sendResume) ∧
  (∀ s old u, s.frontUp = true → old = (fun h : HostMsg => decide (1000 ≤ (s.pages.dtime - h.sent).toNat)) →
      u = (s.frl.unack.filter old).foldl (fun (x : State) h => x.emit (.toField (h.stamp s.pages.dtime).again)) s →
    Does .hostResendTimeout s fun t =>
      t = u.modFrl fun f => { f with unack := f.unack.map fun h => if old h then h.stamp s.pages.dtime else h }) ∧
  (∀ s msg u, s.frontUp = true → msgFault true msg = none → mType msg = 1 → s.frlBad msg = (false, u) → u.frl.waiting = false →
      mSeq msg = u.reg FRL_RXSEQ → Does (.eventRecord msg) s fun t => t = u.acceptEntry msg) ∧
  (∀ s msg u, s.frontUp = true → msgFault true msg = none → mType msg = 2 → s.frlBad msg = (false, u) → u.frl.waiting = false →
      mSeq msg = u.reg FRL_RXSEQ → Does (.canBatch msg) s fun t => t = u.acceptEntry msg) ∧
  (∀ s msg u, s.frontUp = true → msgFault true msg = none → mType msg = 3 → s.frlBad msg = (false, u) → u.frl.waiting = false →
      mSeq msg = u.reg FRL_RXSEQ → Does (.ethFragment msg) s fun t => t = u.acceptEntry msg) ∧
  (∀ s msg u, s.frontUp = true → msgFault true msg = none → mType msg = 4 → s.frlBad msg = (false, u) → u.frl.waiting = false →
      mSeq msg = u.reg FRL_RXSEQ → Does (.timeSync msg) s fun t => t = u.acceptEntry msg) ∧
  (∀ s msg u, s.frontUp = true → msgFault true msg = none → mType msg = 6 → s.frlBad msg = (false, u) → u.frl.waiting = false →
      mSeq msg = u.reg FRL_RXSEQ → Does (.fieldHealth msg) s fun t => t = u.acceptEntry msg) ∧
  (∀ s msg u, s.frontUp = true → msgFault true msg = none → mType msg = 7 → s.frlBad msg = (false, u) →
    Does (.ack msg) s fun t => t = (u.count64 0x0F0 2 1).takeAck msg) ∧
  (∀ s msg u, s.frontUp = true → msgFault true msg = none → mType msg = 5 → s.frlBad msg = (false, u) →
    Does (.wake msg) s fun t => t = (u.count64 0x0F0 2 1).raise 0x0F0 6) ∧
  (∀ s msg, s.frontUp = false → s.power.aon = true → msgFault true msg = none → mType msg = 5 →
    Does (.wake msg) s fun t => t = s.wakeBy 0) ∧
  (∀ s m v d u w, Accepts s m 0x0F0 0xC0 (setBit v 16 true) (frlMsgCond m 0xC0 (setBit v 16 true)) d → w = setBit v 16 true →
      u = (s.arrive m).store FRL_MSGCTL w d →
    Does (.frlMsgSend m v) s fun t => t = if u.msgRefused m (bits w 7 0) (bits w 13 8) = true
      then (u.setReg FRL_MSGCTL (setBits (u.reg FRL_MSGCTL) 31 24 0xFE)).refuse 0x0F0 0x11 m 0xC0 w
      else (u.setReg FRL_MSGCTL (setBit (u.reg FRL_MSGCTL) 17 true)).sendField (bits w 7 0) 0
        ((u.setReg FRL_MSGCTL (setBit (u.reg FRL_MSGCTL) 17 true)).msgBody (bits w 13 8)) .page) ∧
  (∀ s mine u, s.pageOn 0x0F0 = true → s.regBit FRL_MSGCTL 17 = true →
      mine = (fun h : HostMsg => h.owner == .page && decide (10000 ≤ (s.pages.dtime - h.first).toNat)) →
      (s.frl.unack ++ s.frl.queue).any mine = true →
      u = s.modFrl (fun f => { f with unack := f.unack.map fun h => if mine h then { h with owner := .firmware } else h
                                      queue := f.queue.map fun h => if mine h then { h with owner := .firmware } else h }) →
    Does .frlMsgTimeout s fun t =>
      t = (u.setReg FRL_MSGCTL (setBit (setBits (u.reg FRL_MSGCTL) 31 24 0xFF) 17 false)).raise 0x0F0 7) ∧
  (∀ s n k e es bs last u v x y, s.captures = true → n = s.captureTake → n ≠ 0 → k = (n + 62) / 63 → e = s.host.evid →
      (s.frl.appends.filter fun a => !a.done).length < 2 → s.regionFull = false → e.append + k ≤ e.cap →
      10000 ≤ (s.bucketNow 16).cmds → 4096 * k ≤ (s.bucketNow 16).bytes → s.regBit KEY_STAT 3 = false → (s.key 33).valid = true →
      s.useKey 33 = (true, u) → es = u.frl.held.take n → u.sealBlocks es k = (bs, v) →
      last = (es.getLast?.map (·.1)).getD 0 →
      x = ((v.takeTokens 16 (4096 * k)).count64 0x020 2 1).modFrl (fun f => { f with
        held := f.held.drop n, appends := f.appends ++ [(⟨capRef e.fieldCnt, last, false⟩ : CapAppend)] }) →
      y = { x with host := { x.host with nextSeq := x.host.nextSeq + 1, evid := { x.host.evid with
        append := e.append + k, fieldCnt := e.fieldCnt + 1
        open_ := e.open_ ++ [(⟨e.append, k, some (capRef e.fieldCnt), false, x.host.nextSeq, none⟩ : AppendRec)] } } } →
    Does .captureAppend s fun t => t = y.stageAll (capRef e.fieldCnt) true 1 e.append bs) ∧
  (∀ s k a u, s.frl.appends[k]? = some a → a.done = false → s.stagedFor a.ref = false →
      u = (s.closeAppend fun x => x.who == some a.ref).closeSpan 5 →
    Does (.appendDurable k) s fun t => t = match durableRun (u.frl.appends.set k { a with done := true }) with
      | (none, l) => u.modFrl fun f => { f with appends := l }
      | (some q, l) => if (u.modFrl fun f => { f with appends := l, durable := some q }).frontUp
        then ((u.modFrl fun f => { f with appends := l, durable := some q }).setReg FRL_DURSEQ q).sendAck 0 q
          ((u.modFrl fun f => { f with appends := l, durable := some q }).reg FRL_RXSEQ)
        else u.modFrl fun f => { f with appends := l, durable := some q }) ∧
  (∀ s d, s.captureDue = some d → s.pageOn 0x0F0 = true → 3000 < (s.pages.dtime - d).toNat → d.toNat ≤ s.pages.dtime.toNat →
    Does .fieldAppendBoundPassed s fun t => t = s.openSpan 5 none)

/-- The physical layer, MCTP control and NVMe-MI commands of the side-band port complete once the port takes the request (R404, R406 to R408,
R412): each form of a request has its answer. -/
def Obligations.ManagementCommands : Prop :=
  (∀ s addr, s.portOn = true → s.sb.i3c = true → addr ≠ 0 → s.field? SBM_STAT 22 16 = 0 →
    Does (.entdaa addr) s fun t => t = s.startWosc.setField SBM_STAT 22 16 addr.toNat) ∧
  (∀ s r v, Takes s r v → r.type = 0 → r.body.getD 1 0 = 1 →
      r.body.length = 4 →
      (r.body.getD 2 0).toNat ≤ 1 →
      r.body.getD 3 0 ≠ 0 →
      r.body.getD 3 0 ≠ 0xFF →
    Does (.setEndpointId r) s fun t => t = (v.setField SBM_CTRL 7 0 (r.body.getD 3 0).toNat).mctpAnswer r 0 [0, r.body.getD 3 0, 0]) ∧
  (∀ s r v, Takes s r v → r.type = 0 → r.body.getD 1 0 = 2 →
    Does (.getEndpointId r) s fun t => t = v.mctpAnswer r 0 [BitVec.ofNat 8 (v.field? SBM_CTRL 7 0), 0, 0]) ∧
  (∀ s r v, Takes s r v → r.type = 0 → r.body.getD 1 0 = 4 →
      r.body.getD 2 0 = 0xFF ∨ r.body.getD 2 0 = 0 →
    Does (.getMctpVersionSupport r) s fun t => t = v.mctpAnswer r 0 [1, 0xF1, 0xF3, 0xF0, 0x00]) ∧
  (∀ s r v, Takes s r v → r.type = 0 → r.body.getD 1 0 = 4 →
      r.body.getD 2 0 = 4 →
    Does (.getMctpVersionSupport r) s fun t => t = v.mctpAnswer r 0 [1, 0xF1, 0xF2, 0xF0, 0x00]) ∧
  (∀ s r v, Takes s r v → r.type = 0 → r.body.getD 1 0 = 5 →
    Does (.getMessageTypeSupport r) s fun t => t = v.mctpAnswer r 0 [3, 0x00, 0x04, 0x7E]) ∧
  (∀ s r v, Takes s r v → r.type = 0 → r.body.getD 1 0 = 6 →
      r.body.getD 2 0 = 0 →
    Does (.getVendorDefinedMessageSupport r) s fun t => t = v.mctpAnswer r 0
      [0xFF, 0, (Config.pciVendor >>> 8).setWidth 8, Config.pciVendor.setWidth 8, 0, 0]) ∧
  (∀ s r v, Takes s r v → r.type = 0 → 2 ≤ r.body.length → [1, 2, 4, 5, 6].contains (r.body.getD 1 0).toNat = false →
    Does (.unsupportedMctpMessage r) s fun t => t = v.mctpAnswer r 5 []) ∧
  (∀ s r, s.portOn = true → r.type ≠ 0 → r.type ≠ 4 → r.type ≠ 0x7E →
    Does (.unsupportedMctpMessage r) s fun t => t = s.startWosc.count 0x0F8 4 1) ∧
  (∀ s r v, Takes s r v → s.sb.i3c = false → r.type = 0 → r.body = [0] →
    Does (.basicManagementCommand r) s fun t => t = v.sbOut r
      [6, BitVec.ofNat 8 (128 + (!v.mainAwake).toNat * 64 + v.miFlags + 3), ~~~v.copyWarn, ctempByte v.copyTemp, v.copyUsed, 0, 0]) ∧
  (∀ s r v d, Takes s r v → r.type = 4 → r.miKind = 1 → r.miOp = 0 → Serves v →
      d = sub (Config.standardData "NVME_MI" r.nmd0.toNat 32) 0 32 →
    Does (.readNvmeMiDataStructure r) s fun t => t = v.miAnswer r 0 d.length d) ∧
  (∀ s r v, Takes s r v → r.type = 4 → r.miKind = 1 → r.miOp = 1 → Serves v →
    Does (.nvmSubsystemHealthStatusPoll r) s fun t => t = v.miAnswer r 0 0
      [BitVec.ofNat 8 v.miFlags, ~~~v.copyWarn, ctempByte v.copyTemp, v.copyUsed, 0, 0, 0, 0]) ∧
  (∀ s r v fs, Takes s r v → r.type = 4 → r.miKind = 1 → r.miOp = 2 → Serves v →
      fs = (((List.range 16).filter fun f => decide (bits r.nmd0 15 0 ≤ f) && v.fnExists f).take (bits r.nmd0 23 16 + 1)) →
    Does (.controllerHealthStatusPoll r) s fun t => t = v.miAnswer r 0 (fs.length * 65536)
      (fs.flatMap fun f => leBytes 2 f ++ leBytes 2 (bits (v.ctrl (Fin.ofNat 16 f)).csts 5 0) ++ leBytes 2 v.copyTemp ++
        [v.copyUsed, v.sb.health.getD 5 0, v.copyWarn] ++ List.replicate 7 0)) ∧
  (∀ s r v, Takes s r v → r.type = 4 → r.miKind = 1 → r.miOp = 4 → Serves v →
      bits r.nmd0 7 0 = 1 →
      v.sb.i3c = false →
    Does (.configurationGet r) s fun t => t = v.miAnswer r 0 v.sb.freq []) ∧
  (∀ s r v, Takes s r v → r.type = 4 → r.miKind = 1 → r.miOp = 4 → Serves v →
      bits r.nmd0 7 0 = 3 →
    Does (.configurationGet r) s fun t => t = v.miAnswer r 0 64 []) ∧
  (∀ s r v, Takes s r v → r.type = 4 → r.miKind = 1 → r.miOp = 3 → Serves v →
      bits r.nmd0 7 0 = 1 →
      v.sb.i3c = false →
      1 ≤ bits r.nmd0 11 8 →
      bits r.nmd0 11 8 ≤ 3 →
    Does (.configurationSet r) s fun t => t = ({ v with sb := { v.sb with freq := bits r.nmd0 11 8 } } : State).miAnswer r 0 0 []) ∧
  (∀ s r v, Takes s r v → r.type = 4 → r.miKind = 1 → r.miOp = 3 → Serves v →
      bits r.nmd0 7 0 = 3 →
      bits r.nmd1 15 0 = 64 →
    Does (.configurationSet r) s fun t => t = v.miAnswer r 0 0 []) ∧
  (∀ s r v, Takes s r v → r.type = 4 → r.miKind = 1 → r.miOp = 5 → Serves v →
      bits r.nmd0 15 0 + bits r.nmd1 15 0 ≤ v.start.nor.vpd.length →
      bits r.nmd1 15 0 ≤ 1017 →
    Does (.vpdRead r) s fun t => t = v.miAnswer r 0 0 (sub v.start.nor.vpd (bits r.nmd0 15 0) (bits r.nmd1 15 0))) ∧
  (∀ s r v st bs u, Takes s r v → r.type = 4 → r.miKind = 2 → [2, 6, 10].contains r.miOp = true → Serves v →
      v.fnExists (fld r.body 5 2) = true → fld r.body 31 4 ≤ 1005 → v.tunnel r.tunnelled = (st, bs, u) →
    Does (.adminCommandTunnel r) s fun t => t = u.miAnswer r 0 0 (wordBytes st.dw0 ++ wordBytes st.dw1 ++
      leBytes 4 ((st.sc + st.sct * 2 ^ 8 + st.dnr.toNat * 2 ^ 14) * 2 ^ 17) ++ (bs.drop (fld r.body 27 4)).take (fld r.body 31 4))) ∧
  (∀ s r v, Takes s r v → r.type = 4 → r.miKind ≠ 2 → (r.miKind ≠ 1 ∨ 5 < r.miOp) →
    Does (.refusedNvmeMiCommand r) s fun t => t = v.miAnswer r 3 0 [])

/-- The vendor message set, SQUALL requests, the timeout of a held request and the health copy (R409 to R412, R437, R462): each form of a
request that the rules serve has its effect and its answer. -/
def Obligations.VendorCommands : Prop :=
  (∀ s r v n l st u, TakesOp s r 1 false v →
      r.body.length = 12 →
      n = fld r.body 8 1 →
      1 ≤ n →
      n ≤ 16 →
      fld r.body 9 3 = 0 →
      v.readWords' (fld r.body 4 2) (fld r.body 6 2) n = (l, st, u) →
    Does (.pageRead r) s fun t => t = u.vAnswer r st (l.flatMap wordBytes)) ∧
  (∀ s r v n k st u, TakesOp s r 2 false v →
      n = fld r.body 8 1 →
      r.body.length = 12 + 4 * n →
      1 ≤ n →
      n ≤ 16 →
      fld r.body 9 3 = 0 →
      v.writeWords' (fld r.body 4 2) (fld r.body 6 2) ((List.range n).map fun j => leWord (sub r.body (12 + 4 * j) 4)) = (k, st, u) →
    Does (.pageWrite r) s fun t => t = u.vAnswer r st [BitVec.ofNat 8 k]) ∧
  (∀ s r v age, TakesOp s r 3 true v →
      age = (v.pages.dtime - v.sb.copyT).toNat →
    Does (.health r) s fun t => t = v.vAnswer r 0 (leBytes 1 v.healthState ++ leBytes 1 ((decide (1000000 < age)).toNat + 2 * v.frontUp.toNat) ++
      sub v.sb.health 2 18 ++ leBytes 4 (min (age / 1000) 0xFFFFFFFF) ++ List.replicate 8 0)) ∧
  (∀ s r v, TakesOp s r 4 false v →
      r.body.length = 6 →
      fld r.body 4 1 = 0 →
      fld r.body 5 1 ≤ 3 →
    Does (.powerGet r) s fun t => t = v.vAnswer r 0 (v.powerData none)) ∧
  (∀ s r v u, TakesOp s r 4 false v →
      r.body.length = 6 →
      fld r.body 4 1 = 1 →
      fld r.body 5 1 ≤ 3 →
      (v.power.v12 = true ∨ (v.power.calm = true ∧ v.field? PWR_STAT 2 0 = 3)) →
      v.requestState (fld r.body 5 1) 1 = some u →
    Does (.powerRequest r) s fun t => t = u.vAnswer r 0 (u.powerData (some (fld r.body 5 1)))) ∧
  (∀ s r v lid, TakesOp s r 5 false v →
      r.body.length = 14 →
      lid = fld r.body 4 1 →
      fld r.body 5 3 = 0 →
      fld r.body 8 4 % 4 = 0 →
      4 ≤ fld r.body 12 2 →
      fld r.body 12 2 ≤ 1000 →
      lid = 0xE0 →
    Does (.logRead r) s fun t => t = v.logAnswer r (Config.eventLog v.sb.evlog)) ∧
  (∀ s r v lid p, TakesOp s r 5 false v →
      r.body.length = 14 →
      lid = fld r.body 4 1 →
      fld r.body 5 3 = 0 →
      fld r.body 8 4 % 4 = 0 →
      4 ≤ fld r.body 12 2 →
      fld r.body 12 2 ≤ 1000 →
      [0x02, 0x03, 0xC2, 0xC3].contains lid = true →
      Serves v →
      v.logPage 0 lid = some p →
    Does (.logRead r) s fun t => t = v.logAnswer r p) ∧
  (∀ s r v, TakesOp s r 6 true v →
      r.body.length = 6 →
      fld r.body 4 1 = 0 →
    Does (.fwSlotGet r) s fun t => t = v.vAnswer r 0 v.slotData) ∧
  (∀ s r v u, TakesOp s r 6 false v →
      r.body.length = 6 →
      fld r.body 4 1 = 1 →
      1 ≤ fld r.body 5 1 →
      fld r.body 5 1 ≤ 2 →
      v.regBit ADM_STAT 10 = false →
      u = v.putRec (fun x => { x with next := fld r.body 5 1 }) →
    Does (.fwSlotSet r) s fun t => t = u.vAnswer r 0 u.slotData) ∧
  (∀ s r v w, TakesOp s r 7 false v →
      r.body.length = 4 →
      w = (if v.mainAwake && !v.sb.state6 then v.reg FRL_STAT else v.sb.fstat) →
    Does (.fieldStatus r) s fun t => t = v.vAnswer r 0
      (wordBytes w ++ leBytes 4 (min ((v.pages.dtime - v.frl.healthT).toNat / 1000) 0xFFFFFFFF) ++ sub v.frl.health 0 48)) ∧
  (∀ s r v b k x y, TakesOp s r 8 false v →
      b = r.body.drop 4 →
      5 ≤ b.length →
      b.length ≤ 52 →
      typeRule false 0x81 = some (k, x, y) →
      msgFault false (mkMsg 0x81 0 k 0 b) = none →
      Serves v →
    Does (.fieldConfig r) s fun t => t = (v.sbHold r.eid r.vtag 8).sendField 0x81 0 b (.sideband r.eid r.vtag)) ∧
  (∀ s r v u, TakesOp s r 9 false v →
      r.body.length = 8 →
      fld r.body 4 4 ≠ 0 →
      Serves v →
      v.host.evid.cap = 0 →
      v.nvmBlocks + fld r.body 4 4 ≤ v.userBlocks →
      u = { v with host := { v.host with evid := { v.host.evid with base := v.newBase (fld r.body 4 4), cap := fld r.body 4 4, attached := [0] } }
                   start := { v.start with nor := { v.start.nor with evidCap := fld r.body 4 4 } } } →
    Does (.evidProvision r) s fun t => t = (u.raise 0x0F8 4).vAnswer r 0 []) ∧
  (∀ s r v, TakesOp s r 0x0A false v →
      r.body.length = 68 →
      v.crypto.root = none →
    Does (.rootBlob r) s fun t => t = (({ v with start := { v.start with nor := { v.start.nor with blob := r.body.drop 4 } } } : State).raise 0x0F8 4).vAnswer r 0 []) ∧
  (∀ s r v w u, TakesOp s r 0x0B false v →
      r.body.length = 12 →
      fld r.body 6 2 = 0 →
      w = leWord (sub r.body 8 4) →
      bit w 4 = true →
      badOwner w = false →
      v.writePage .warden (fld r.body 4 2) 0x10 32 w = (u, .ok) →
    Does (.owner r) s fun t => t = u.vAnswer r 0 []) ∧
  (∀ s r v, TakesOp s r 0x0C false v →
      r.body.length = 8 →
      fld r.body 5 3 = 0 →
      fld r.body 4 1 = 0 →
    Does (.squallStatus r) s fun t => t = v.vAnswer r 0 v.squallData) ∧
  (∀ s r v u, TakesOp s r 0x0C false v →
      r.body.length = 8 →
      fld r.body 5 3 = 0 →
      fld r.body 4 1 = 1 →
      v.unlockRefused .sideband = false →
      u = v.unlockSquall false →
    Does (.squallUnlock r) s fun t => t = u.vAnswer r 0 u.squallData) ∧
  (∀ s r v u, TakesOp s r 0x0C false v →
      r.body.length = 8 →
      fld r.body 5 3 = 0 →
      fld r.body 4 1 = 2 →
      u = v.lockSquall →
    Does (.squallLock r) s fun t => t = u.vAnswer r 0 u.squallData) ∧
  (∀ s r v, Takes s r v → r.type = 0x7E → (r.op = 0 ∨ 0x0C < r.op ∨ fld r.body 2 2 ≠ 0) →
    Does (.unknownVendorOp r) s fun t => t = v.vAnswer r (if v.inRom then 3 else 2) []) ∧
  (∀ s w, (s.sb.waits.find? fun w => decide (100000 ≤ (s.pages.dtime - w.since).toNat)) = some w → w.op ≠ 0 →
    Does .mainSideTimeout s fun t => t = s.sbAnswer w.eid w.tag w.op 7 []) ∧
  (∀ s w, (s.sb.waits.find? fun w => decide (100000 ≤ (s.pages.dtime - w.since).toNat)) = some w → w.op = 0 →
    Does .mainSideTimeout s fun t => t = ({ s with sb := { s.sb with waits := s.sb.waits.erase w } } : State).deliver 0x0F8
      (.out (.sideband w.eid [0x88, 0, 0, 2, 0, 0, 0]))) ∧
  (∀ s, s.mainAwake = true →
    Does (.healthRefresh true) s fun t => t = ({ s with sb := { s.sb with missed := 0 } } : State).copyHealth) ∧
  (∀ s, s.mainAwake = true →
    Does (.healthRefresh false) s fun t => t = { s with
      sb := { s.sb with missed := s.sb.missed + 1, state6 := s.sb.state6 || decide (2 ≤ s.sb.missed + 1) } })

/-- The power states, the clocks, the junction sensors and the supplies (R415 to R432, R474, R480): each entry, exit, sample and step has its
effect under the conditions that its rule names. -/
def Obligations.PowerCommands : Prop :=
  (∀ s d u, s.regBit PWR_CTRL 2 = true → s.start.phase = .full → s.field? PWR_STAT 2 0 = 0 → s.idle = true → s.power.breezeT = some d →
      20000 ≤ (s.pages.dtime - d).toNat →
      u = { s with
        pages := { s.pages with
          regs := s.pages.regs.filter fun p => !s.asleep (p.1 / 4096) || (decide (0xA1 ≤ p.1 / 4096) && p.1 % 4096 == 0x80)
          latches := s.pages.latches.filter fun l => !s.asleep l.page }
        upsets := s.upsets.filter fun p => !s.asleep (p.1 / 2 ^ 32)
        cells := s.cells.mapIdx fun k c => if 16 ≤ k ∧ k ≤ 39 then Cell.reset else c } →
    Does .breezeEntry s fun t => t = u.setPower 1) ∧
  (∀ s back, s.field? PWR_STAT 2 0 = 1 → (s.idle = true → s.regBit PWR_CTRL 2 = false) →
      back = (((List.range 24).map (0x50 + ·) ++ (List.range 16).map (0xA1 + ·)).filter fun p => s.asleep p) →
    Does .breezeExit s fun t => t = (List.finRange 41).foldl (fun (s : State) c =>
      if 16 ≤ c.val ∧ c.val ≤ 39 ∧ (s.role c).role ≠ 0 ∧ (s.prog.execs.any fun e => e.cell == c.val && e.step != 0) = false then s.unhold c
      else s) (back.foldl State.routePage (s.setPower 0))) ∧
  (∀ s n, n = s.field? PWR_CTRL 1 0 → 2 ≤ n → s.field? PWR_STAT 2 0 < 2 → s.mainOn = true →
      s.field? PWR_CTRL 15 8 * 1000000 ≤ (s.pages.dtime - s.power.deepT.getD s.start.began).toNat → s.deepAllowed n = true →
    Does .automaticDeepTimer s fun t =>
      t = ({ s with power := { s.power with deepT := some s.pages.dtime } } : State).askDeep n) ∧
  (∀ s m v d u, Accepts s m 0x001 0x84 (setBit v 2 true) (pwrReqCond m (setBit v 2 true)) d →
      (s.arrive m).requestState (bits (setBit v 2 true) 1 0) 4 = some u →
    Does (.go m v) s fun t => t = u) ∧
  (∀ s u, s.askWaiting.entryRuns 2 = true → u = ((s.askWaiting.goDeep false).logRaw lullOff).copyHealth.finishDram.frontDown →
    Does .lullEntry s fun t => ∃ v w x : State, v = { u with
        pages := { u.pages with
          regs := u.pages.regs.filter fun p =>
            !lullOff (p.1 / 4096) || (decide (0xA1 ≤ p.1 / 4096 ∧ p.1 / 4096 ≤ 0xB0) && p.1 % 4096 == 0x80) || p.1 == SRC_SHBASE
          latches := u.pages.latches.filter fun l => !lullOff l.page }
        upsets := u.upsets.filter fun p => !lullOff (p.1 / 2 ^ 32)
        cells := u.cells.mapIdx fun k c => if 16 ≤ k ∧ k ≤ 39 then Cell.reset else c
        fabric := { u.fabric with codec := List.replicate 4 [] }
        search := { u.search with banks := List.replicate 16 .empty, posted := [], work := 0 }
        crypto := { u.crypto with lanes := Crypto.reset.lanes, bound := Crypto.reset.bound, ctxs := Crypto.reset.ctxs, digs := Crypto.reset.digs }
        dram := { Dram.reset with mem := u.dram.mem, pois := u.dram.pois, chans := u.dram.chans.map fun (c : DramCh) => { c with queue := [], open_ := [] } }
        media := { u.media with chans := Media.reset.chans }
        frl := { Frl.reset with durable := u.frl.durable, legal := u.frl.legal }
        power := { u.power with entering := none } } ∧
      w = v.setReg DRC_STAT (setBit (v.reg DRC_STAT) 0 true) ∧ x = w.setReg CLK_STAT (w.reg CLK_STAT &&& 0xF0) ∧
      t = (((x.setReg CLK_RUN0 (w.reg CLK_RUN0 &&& 7)).setReg CLK_RUN1 (w.reg CLK_RUN1 &&& 0x80)).setPower 2).count 0x001 2 1) ∧
  (∀ s, s.askWaiting.entryRuns 3 = true →
    Does .calmEntry s fun t =>
      t = ((((s.askWaiting.goDeep true).logRaw mainPage).copyHealth.writeAcct).offAsCalm).count 0x001 3 1) ∧
  (∀ s u r v w x, s.field? PWR_STAT 2 0 = 5 → s.power.wake ≠ none → s.power.calm = false →
      u = { s with power := { s.power with wake := none, deepT := some s.pages.dtime } } →
      r = ((pfPages.filter lullOff).foldl State.routePage u.clocksOn).leaveSelfRefresh.cacheUp.channelsUp →
      v = r.red.failed.foldl (fun (s : State) d => s.setField (MCH_DIE (d / 8) (d % 8)) 9 9 1) r →
      w = { v with red := { v.red with rbAfter := v.adm.latest
                                       rbState := if v.red.rbState = 3 ∧ v.regBit RED_CTRL 0 = false then
                                         (if v.red.todo.isEmpty && v.red.die1.isNone then 0 else 1) else v.red.rbState } } →
      x = srcCmdEffect 2 ((List.finRange 41).foldl (fun (s : State) c =>
        if 16 ≤ c.val ∧ c.val ≤ 39 ∧ (s.role c).role ≠ 0 then s.unhold c else s) (w.syncRed.pumpRebuild).fillStripes) →
    Does .lullExit s fun t => ∃ y : State, y = (x.setReg FRL_DURSEQ (x.frl.durable.getD 0)).frontLink.setPower 0 ∧
      t = if y.start.pendCtl then y.ctrlSide else y) ∧
  (∀ s, s.power.calm = true → s.power.wake ≠ none → s.regBit PWR_STAT 17 = false →
    Does .calmExit s fun t => t = { s with power := { s.power with calm := false } }) ∧
  (∀ s temps watts ts hot cse out u v w x y crit, s.power.aon = true → ts = (List.range 9).map (fun k => temps.getD k 25) →
      hot = (ts.take 8).foldl max (ts.getD 0 25) → u = { s with power := { s.power with temps := ts, watts := watts } } →
      cse = u.caseTemp hot → out = (decide (cse < -40) || decide (105 < cse)) →
      v = u.setReg TMP_STAT (setBits (setBits (setBits 0 19 16 (((List.range 8).find? fun k => ts.getD k 25 == hot).getD 0)) 15 8
        (cse.floor + 64).toNat) 7 0 (hot + 64).toNat) →
      w = (if out && !v.power.caseOutT.isSome then (if out = v.power.caseOutT.isSome then v else v.raise 0x004 3).count 0x004 3 1
        else if out = v.power.caseOutT.isSome then v else v.raise 0x004 3) →
      x = { w with power := { w.power with
        caseOutT := if out then some (w.power.caseOutT.getD s.pages.dtime) else none
        candT := track w.power.candT s.pages.dtime
          ([(1, decide (110 ≤ hot)), (2, decide (115 ≤ hot)), (3, decide (120 ≤ hot)), (11, decide (hot < 105)), (12, decide (hot < 110)),
            (13, decide (hot < 115)), (20, decide (125 ≤ hot)), (21, decide (135 ≤ hot))]) } } →
      y = (if x.pageOn 0x020 then x.changeStep (x.nextStep 3 (x.field? PWR_STAT 11 10)) else x) → crit = y.heldFor 20 100000 →
    Does (.thermalSample temps watts) s fun t => ∃ a b c : State,
      a = (if crit && !y.regBit PWR_STAT 16 then y.raise 0x001 6 else y) ∧
      b = (if crit then ({ a with power := { a.power with rising := none } } : State).setSteps 3 3 else a) ∧
      c = b.setReg PWR_STAT (setBit (b.reg PWR_STAT) 16 crit) ∧
      t = ({ c with power := { c.power with
        candT := track c.power.candT s.pages.dtime [(30, decide (0 < c.field? PWR_STAT 11 10))] } } : State).countThrottle.syncTemp) ∧
  (∀ s n at_, s.power.rising = some (n, at_) → at_ < s.ns →
    Does .throttleEffect s fun t =>
      t = ({ s with power := { s.power with rising := none } } : State).setSteps (s.field? PWR_STAT 11 10) n) ∧
  (∀ s on u v w, s.heldFor 21 10000 = true → s.regBit PWR_STAT 17 = false → s.start.phase ≠ .off → s.start.phase ≠ .rom →
      on = (s.mainOn && s.start.phase != .starting) → (on = true → s.keysServe = true ∧ s.power.vccq = true) →
      u = (if on then ((if s.power.flush = 0 then s.beginFlush else s).flushOut true false).parkBuses else s) →
      v = { u with power := { u.power with flush := 0, flushed := true } } →
      w = (if v.start.phase = .warden then v else v.offAsCalm) →
    Does .thermalHold s fun t =>
      t = (((w.setReg PWR_STAT (setBit (w.reg PWR_STAT) 17 true)).raise 0x001 6).breakMs).alert 0x001) ∧
  (∀ s, s.regBit PWR_STAT 17 = true → (s.power.temps.any fun d => decide (100 ≤ d)) = false →
    Does .thermalHoldEnd s fun t => t = (s.setReg PWR_STAT (setBit (s.reg PWR_STAT) 17 false)).wakeBy 5) ∧
  (∀ s, s.regBit CLK_STAT 7 = true → 1000 ≤ (s.pages.dtime - s.sb.lastIO).toNat → s.irqLevel 40 = false → s.alertLevel = false →
    Does .wardenOscillatorStop s fun t => ∃ u : State, u = s.setReg CLK_STAT (setBit (s.reg CLK_STAT) 7 false) ∧
      t = u.setReg CLK_RUN0 (s.reg CLK_RUN0 &&& 0xFFFFFFF9)) ∧
  (∀ s pll u, pll ≤ 4 → s.regBit CLK_STAT pll = true →
      u = ((((s.setReg CLK_STAT (setBit (s.reg CLK_STAT) pll false)).stopDomains
        ((List.range (pllDomains pll).2).map ((pllDomains pll).1 + ·))).raise 0x002 3).count 0x002 2 1) →
    Does (.pllUnlock pll) s fun t => t = if pll < 4 then u.beginAlarm 1 else u) ∧
  (∀ s, s.regBit CLK_STAT 5 = true →
    Does (.crystalStop true) s fun t =>
      t = (((s.setReg CLK_STAT (setBit (s.reg CLK_STAT) 5 false)).raise 0x002 4).count 0x002 3 1).beginAlarm 1) ∧
  (∀ s, s.regBit CLK_STAT 6 = true →
    Does (.crystalStop false) s fun t =>
      t = ((((s.setReg CLK_STAT (setBit (s.reg CLK_STAT) 6 false)).stopDomains [0]).raise 0x002 4).count 0x002 3 1)) ∧
  (∀ s main aon vccq old new u v, s.power.aon = true → old = s.field? TMP_SUPPLY 26 24 →
      new = (decide (main < 10800 ∨ 13200 < main)).toNat + 2 * (decide (aon < 3000 ∨ 3600 < aon)).toNat +
        4 * (decide (vccq < 1140 ∨ 1260 < vccq)).toNat →
      u = s.setReg TMP_SUPPLY (setBits (setBits (setBits (setBits 0 26 24 new) 23 16 (min 255 (vccq / 10))) 15 8 (min 255 (aon / 20))) 7 0
        (min 255 (main / 100))) →
      v = (if new = old then u else u.raise 0x004 4).count 0x004 2 ((List.range 3).countP fun k => new.testBit k && !old.testBit k) →
    Does (.supplySample main aon vccq) s fun t => ∃ w : State, w = { v with power := { v.power with
        v12 := !decide (main < 10800 ∨ 13200 < main)
        supplyT := if new = 0 then none else some (v.power.supplyT.getD v.pages.dtime)
        candT := track v.power.candT v.pages.dtime [(31, !decide (vccq < 1140 ∨ 1260 < vccq) && !v.power.vccq)] } } ∧
      t = (if new = 0 then w else w.breakMs).syncSupply) ∧
  (∀ s u, s.mainOn = true → u = (s.abandon fun _ => true).parkBuses →
    Does .vccqNLoss s fun t => t = { u with
      power := { u.power with vccq := false, candT := u.power.candT.filter fun x => x.1 != 31 } })

/-- The starts, restarts and losses of power of R433 to R444 and R480: what brings the device up, takes its main side down and brings it back. -/
def Obligations.StartCommands : Prop :=
  (∀ s i3c u v a, s.start.phase = .off →
      u = { s with pages := { regs := [], latches := [], dtime := 0, aonPhase := 0 }, power := { s.power with aon := true }
                   sb := { Sideband.reset with i3c := i3c }, start := { s.start with phase := .warden }
                   events := { s.events with excluded := true } } →
      v = (((u.restorePair 2 u.start.nor.acctMs).restorePair 4 u.start.nor.unavMs).setReg (0x5F08 + 24) u.start.nor.unavInt).settleRec →
      a = v.slotRec.next →
    Does (.alwaysOnPowerOn i3c) s fun t =>
      t = if (v.image a).good then v.wardenUp a else if (v.fallBack.image (3 - a)).good then v.fallBack.wardenUp (3 - a)
        else v.fallBack.toRom) ∧
  (∀ s f u v w x, s.power.aon = true → s.regBit PWR_STAT 17 = false → s.keysServe = true →
      (s.power.flush = 2 ∨ (s.start.phase = .warden ∧ s.power.calm = false)) →
      u = (if s.power.flush = 2 then s.mainDown false else s.lockSquall) →
      v = { u with power := { u.power with v12 := true, vccq := true, pwrFail := true, flush := 0, flushed := true }
                   events := { u.events with excluded := true } } →
      w = ((v.setReg RST_CAUSE (if v.power.wake = some 5 then setBit (v.reg RST_CAUSE ||| 2) 7 true
        else v.reg RST_CAUSE ||| 2)).count 0x003 2 1).breakMs →
      x = { w with power := { w.power with wake := none } } →
    Does (.mainStart f) s fun t => t = (if x.field? PWR_STAT 2 0 = 3 then x.setPower 5 else x).startWith f false) ∧
  (∀ s f b, ∀ u v : State, ∀ ccs, ∀ x : State, (s.start.phase = .starting ∨ s.start.phase = .evReady ∨ s.start.phase = .full) → s.pageOn 0x010 = true →
      s.power.flush = 0 → s.power.entering = none → s.keysServe = true → s.restartOwed = some b →
      u = (((b.map fun k => s.setReg RST_CAUSE (setBit (s.reg RST_CAUSE) k true)).getD s).count 0x003 2 1).count 0x003 5 1 →
      v = (if b = some 4 then { u with events := { u.events with excluded := true } } else if u.events.excluded then u
        else u.openSpan 1 none) →
      ccs = v.host.ctrls.map (fun c => c.cc) →
      x = v.mainDown (!decide (s.start.phase = .starting) || v.regBit DRC_FILLSTAT 8) →
    Does (.mainSideRestart f) s fun t => t = (({ x with
      host := { x.host with ctrls := x.host.ctrls.mapIdx fun k c => { c with cc := ccs.getD k 0, csts := 2 } }
      power := { x.power with vccq := true, candT := x.power.candT.filter fun y => y.1 != 31 } } : State).breakMs.startWith f
        (!decide (s.start.phase = .starting) || v.regBit DRC_FILLSTAT 8))) ∧
  (∀ s, Does .v12MainLoss s fun t => t = { s.loseMain with power := { s.loseMain.power with v12 := false } }) ∧
  (∀ s, s.start.phase ≠ .off →
    Does .v3p3AonLoss s fun t => t = { s.loseMain.aonDown with
      start := { s.loseMain.aonDown.start with phase := .off, pendRst := none, pendCtl := false } })

/-- Alarms, the availability accounting and Squall (R448 to R467, R484): each command has the effect that its rule gives it. -/
def Obligations.AlarmAndSquallCommands : Prop :=
  (∀ s n, n < 5 → (n = 4 ∨ s.events.alarms.contains n = false) → Does (.alarm n) s fun t => t = s.beginAlarm n) ∧
  (∀ s n, s.events.alarms.contains n = true → Does (.alarmEnd n) s fun t => t = s.endAlarm n) ∧
  (∀ s m v d, Accepts s m 0x005 0x80 (setBit v 0 true) noCond d →
    Does (.rearm m v) s fun t => t = evtCtrlEffect (setBit v 0 true) d (s.arrive m)) ∧
  (∀ s u, s.accountable = true → s.events.broken = false →
      u = ({ s with events := { s.events with broken := false, unav := false } } : State).count64 0x005 2 1 →
    Does .availabilityTick s fun t =>
      t = if (s.events.unav || !s.events.spans.isEmpty) = true then u.count64 0x005 4 1 else u) ∧
  (∀ s, s.start.phase ≠ .off → s.start.phase ≠ .rom → 3600000000 ≤ (s.pages.dtime - s.events.logT).toNat →
    Does .accountingLogWrite s fun t => t = s.writeAcct) ∧
  (∀ s m v d, Accepts s m 0x006 0x80 (setBits v 1 0 1) (sqlCond m (setBits v 1 0 1)) d →
    Does (.unlock m v) s fun t => t = (s.arrive m).unlockSquall (m == .pf)) ∧
  (∀ s m v d, Accepts s m 0x006 0x80 (setBit v 1 true) (sqlCond m (setBit v 1 true)) d →
    Does (.sqlLock m v) s fun t => t = (s.arrive m).lockSquall) ∧
  (∀ s m page v d, squallPages.contains page = true → Accepts s m page 0xE20 v noCond d →
    Does (.sqForce m page v) s fun t => t = forceEffect m page v (s.arrive m)) ∧
  (∀ s x, (s.squall.delayed.find? fun x => decide (x.2.1 ≤ s.ns)) = some x →
    Does .delayedResultRelease s fun t =>
      t = ({ s with squall := { s.squall with delayed := s.squall.delayed.erase x } } : State).release x.2.2)

/-- R26, a PF access to a page number that is not in the map, or a VF access to its window beyond page 2: a read returns 0, a write is ignored
(no quiet register but PG_STAT of TOP or VMB changes), and UNMAPPED, bit 2, is set there. -/
def Obligations.UnmappedPageAccess : Prop :=
  ∀ (s : State) (m : Master) (page off : Nat) (v : Word), s.Canonical →
    (m = .pf ∧ page < 0x1000 ∧ kindOf page = none ∨
      ∃ n, m = .vf n ∧ 0x1000 + 16 * n.val + 3 ≤ page ∧ page < 0x1000 + 16 * n.val + 16) →
    off < 0x1000 → off % 4 = 0 →
    Does (.refusedRead m page off 32) s (fun t =>
      (∃ u : State, t = u.emit (.reply m (.data 0))) ∧ t.regBit (PG_STAT (homePage m)) 2 = true ∧
        ∀ k, QuietReg k → k ≠ PG_STAT (homePage m) → t.reg k = s.reg k) ∧
    Does (.registerWrite m page off 32 v) s (fun t =>
      t.regBit (PG_STAT (homePage m)) 2 = true ∧ ∀ k, QuietReg k → k ≠ PG_STAT (homePage m) → t.reg k = s.reg k)

/-- R32: pages 0x000 to 0x007 and SBM are reachable in every power state; an access to any other page while its domain is off is not
serviced: a read returns an error response with 0, a write is discarded, and TOP.PG_STAT.OFF_ERR, bit 16, is set; beyond the count of the request itself,
nothing else changes. -/
def Obligations.PoweredOffPageAccess : Prop :=
  (∀ (s : State) page, page ≤ 7 ∨ page = 0xF8 → s.pageOn page = true) ∧
  (∀ (s : State) m page off width v, reaches m page = true → (kindOf page).isSome = true → (s.arrive m).pageOn page = false →
    Does (.refusedRead m page off width) s (fun t =>
      t = ((s.arrive m).setReg (PG_STAT 0) (setBit ((s.arrive m).reg (PG_STAT 0)) 16 true)).emit (.reply m .offError)) ∧
    Does (.registerWrite m page off width v) s (fun t =>
      t = (s.arrive m).setReg (PG_STAT 0) (setBit ((s.arrive m).reg (PG_STAT 0)) 16 true)))

/-- Accesses that a row of R33 stops touch no register of the block (width, alignment, mapping, owner, locked Squall area, an invalid route): the
status bit of that row is set, and no quiet register but the page's PG_STAT changes. Writes to a register whose owner is none report
nothing at all. -/
def Obligations.RefusedAccessFrame : Prop :=
  (∀ (s : State) m page off width v, s.Canonical → reaches m page = true → (kindOf page).isSome = true → (s.arrive m).pageOn page = true →
      (width ≠ 32 ∨ off % 4 ≠ 0) →
    Does (.registerWrite m page off width v) s fun t =>
      t.regBit (PG_STAT page) 0 = true ∧ ∀ k, QuietReg k → k ≠ PG_STAT page → t.reg k = s.reg k) ∧
  (∀ s m page off v d, s.Canonical → Reaches (s.arrive m) m page off d → tenantView m page = false → d.owner ≠ .none →
      ((inSquall off && (s.arrive m).squallHolder.isNone) = true ∨ (s.arrive m).mayWrite m page d = false) →
    Does (.registerWrite m page off 32 v) s fun t =>
      t.regBit (PG_STAT page) 3 = true ∧ ∀ k, QuietReg k → k ≠ PG_STAT page → t.reg k = s.reg k) ∧
  (∀ s m page v d, s.Canonical → Reaches (s.arrive m) m page 0x34 d → tenantView m page = false → d.owner ≠ .none →
      (s.arrive m).mayWrite m page d = true → (s.arrive m).badRoute v = true →
    Does (.registerWrite m page 0x34 32 v) s fun t =>
      t.regBit (PG_STAT page) 4 = true ∧ ∀ k, QuietReg k → k ≠ PG_STAT page → t.reg k = s.reg k) ∧
  (∀ s m page off v d, Reaches (s.arrive m) m page off d → tenantView m page = false → d.owner = .none →
    Does (.registerWrite m page off 32 v) s fun t => t = s.arrive m)

/-- R36: a raw bit that hardware sets in the cycle in which EV_CLEAR clears it reads 1 afterwards; enabling a source whose raw bit is already 1
makes it pending at once. -/
def Obligations.ClearedEventSetBySameCycle : Prop :=
  (∀ (s : State) m page v hw d k, s.Canonical → Accepts s m page 0x30 v noCond d → k < 32 → bit hw k = true →
    Does (.evClear m page v hw) s fun t => t.regBit (EV_RAW page) k = true) ∧
  (∀ (s : State) m page v d k, s.Canonical → Accepts s m page 0x24 v noCond d → k < 32 → s.regBit (EV_RAW page) k = true →
      bit v k = true →
    Does (.registerWrite m page 0x24 32 v) s fun t => bit (t.evPending page) k = true)

/-- A saturating counter of a page (R11, R12, R40): it adds up to its maximum and stays there, its SAT bit is set when it reaches it and kept; a
write of another value than 0 changes nothing, and a write of 0 clears the counter and its SAT bit. (Page EVT, whose own counter takes
withheld messages, and joined counters are not meant.) -/
def Obligations.CountersSaturate : Prop :=
  (∀ (s : State) page slot n, s.Canonical → page ≠ 0x005 → slot ≤ 61 →
    (s.count page slot n).reg (page * 0x1000 + slotOff slot) =
        BitVec.ofNat 32 (min ((s.reg (page * 0x1000 + slotOff slot)).toNat + n) 0xFFFFFFFF) ∧
      (s.count page slot n).regBit (page * 0x1000 + 0xF00 + 4 * (slot / 32)) (slot % 32) =
        (s.regBit (page * 0x1000 + 0xF00 + 4 * (slot / 32)) (slot % 32) ||
          decide (0xFFFFFFFF ≤ (s.reg (page * 0x1000 + slotOff slot)).toNat + n))) ∧
  (∀ (s : State) m page slot v d, Accepts s m page (slotOff slot) v noCond d → v ≠ 0 →
    Does (.counterClear m page slot v) s fun t => t = s.arrive m) ∧
  (∀ (s : State) m page slot d k i, s.Canonical → Accepts s m page (slotOff slot) 0 noCond d → slot ≤ 61 → kindOf page = some (k, i) →
      (joinedSlots k).contains slot = false → (joinedSlots k).contains (slot - 1) = false → page ≠ 0x005 →
    Does (.counterClear m page slot 0) s fun t =>
      t.reg (page * 0x1000 + slotOff slot) = 0 ∧ t.regBit (page * 0x1000 + 0xF00 + 4 * (slot / 32)) (slot % 32) = false)

/-- On the always-on clock the device time advances by 30 or 31 µs at a tick, and from any phase 32,768 ticks make exactly 1,000,000 µs (R42). -/
def Obligations.AlwaysOnSecond : Prop :=
  (∀ p, aonMicros p = 30 ∨ aonMicros p = 31) ∧
  (∀ p, p < 32768 → ((List.range 32768).map fun k => aonMicros (nextPhase^[k] p)).sum = 1000000) ∧
  (∀ s, s.fastClocks = false → s.pages.aonPhase < 32768 →
    Does (.deviceTimeTick true) s fun t =>
      t.pages.dtime = s.pages.dtime + BitVec.ofNat 64 (aonMicros s.pages.aonPhase) ∧
        t.pages.aonPhase = nextPhase s.pages.aonPhase ∧ t.pages.aonPhase < 32768 ∧ t.pages.regs = s.pages.regs)

/-- ADM_STAT.PROMISE, bit 0, reads 1 exactly while no cause bit [5:1] is set: setting or clearing a cause changes that bit and PROMISE and no other
bit of ADM_STAT, and no other quiet register (R71). -/
def Obligations.PromiseFollowsItsCauses : Prop :=
  ∀ (s : State) k b, s.Canonical → 1 ≤ k → k ≤ 5 →
    ((s.cause k b).regBit ADM_STAT 0 = true ↔ bits ((s.cause k b).reg ADM_STAT) 5 1 = 0) ∧
      (s.cause k b).regBit ADM_STAT k = b ∧
      (∀ j, j < 32 → j ≠ 0 → j ≠ k → (s.cause k b).regBit ADM_STAT j = s.regBit ADM_STAT j) ∧
      ∀ r, QuietReg r → r ≠ ADM_STAT → (s.cause k b).reg r = s.reg r

/-- The row and column parities of an on-chip array (R355, R356, R357): one wrong bit of a block, of data or of its checks, is corrected on
delivery, two wrong data bits are found uncorrectable, and a read leaves the stored error where it is. -/
def Obligations.GridCorrectsOnDelivery : Prop :=
  (∀ rows cols k, 0 < rows → 0 < cols → k < rows * cols + rows + cols → gridDecode rows cols (2 ^ k) = (some 0, true)) ∧
  (∀ rows cols j k, j < k → k < rows * cols → (gridDecode rows cols (2 ^ j + 2 ^ k)).1 = none) ∧
  (∀ (s : State) page array index rows cols,
    (s.readProt page array index rows cols).2.upsets = s.upsets ∧
      ∀ k, 0 < rows → 0 < cols → k < rows * cols + rows + cols → s.upsets.get (fun _ => 0) (upKey page array index) = 2 ^ k →
        (s.readProt page array index rows cols).1 = some 0)

/-- The code of a DRAM word (R333): an error of one bit, of the 256 data bits or of the ten check bits, is corrected, and an error of two bits
is uncorrectable. -/
def Obligations.SecdedCorrectsAndDetects : Prop :=
  (∀ k, k < 266 → secded (2 ^ k) = (some 0, true)) ∧
  (∀ j k, j < k → k < 266 → secded (2 ^ j + 2 ^ k) = (none, false))

/-- A line written to DRAM is read back with its poison, and a write changes no other line (R332 to R334). -/
def Obligations.DramReadsBack : Prop :=
  (∀ (s : State) n l p, SMap.wf (fun _ => (0 : Byte)) s.dram.mem = true → SMap.wf (fun _ => (0 : Nat)) s.upsets = true →
    ((s.dramWrite n l p).dramRead n).1 = (l, p)) ∧
  (∀ (s : State) n m l p, SMap.wf (fun _ => (0 : Byte)) s.dram.mem = true → SMap.wf (fun _ => (0 : Nat)) s.upsets = true →
      n < lineCount → m < lineCount → m ≠ n →
    ((s.dramWrite n l p).dramRead m).1 = (s.dramRead m).1)

/-- A word stored in a cell's data memory is read back with its tag; the other words, the other cells and the registers of the cell stay as they
are (R129, R358). -/
def Obligations.CellMemoryReadsBack : Prop :=
  ∀ (s : State) c a w, s.cells.length = 41 → SMap.wf (fun _ => TWord.void) (s.cell c).dm = true →
      SMap.wf (fun _ => (0 : Nat)) s.upsets = true →
    ((s.writeDm c a w).readDm c a).1 = w ∧ (∀ b, b ≠ a → ((s.writeDm c a w).readDm c b).1 = (s.readDm c b).1) ∧
      (∀ e, e ≠ c → (s.writeDm c a w).cell e = s.cell e) ∧ ∀ r, ((s.writeDm c a w).cell c).reg r = (s.cell c).reg r

/-- What the register instructions of a cell leave alone, in every next state that they give, trap or not: the registers but rd, the cell's
memories, stream units and engine ports, SP and SPLIM, every other cell, and every unit of the device beyond the cells. -/
def Obligations.CellRegisterFrame : Prop :=
  ∀ (s t : State) i rd rs im tg cond c, c ∈ [Instr.add i rd rs, .sub i rd rs, .and i rd rs, .or i rd rs, .xor i rd rs, .shl i rd rs, .shr i rd rs,
      .sar i rd rs, .mul i rd rs, .cmp i rd rs, .addi i rd im, .cmpi i rd im, .andi i rd im, .ori i rd im, .li i tg rd im, .mov i rd rs,
      .beql i rd rs, .movs i rd rs, .retag i rd rs, .clr i rd, .rdtime i rd, .test i rd, .not i rd, .neg i rd, .cvti i rd, .cvtu i rd,
      .cvtf i rd, .cvtb i rd, .cvtl i rd, .clz i rd, .popc i rd, .bswp i rd, .tagof i rd, .setc i rd cond] →
    exec c s = .next t → CoreFrame i.cell (· ≠ rd) s t

/-- R149: a trap condition that arises while STAT.TRAP is 1 is a double trap: TRAPCAUSE and TRAPPC keep the first trap's record, the core stops at
once with CEL_CTRL.HOLD, bit 0, and CEL_STAT.DOUBLE, bit 3, at 1, and EV_CEL_DOUBLE, bit 4, is raised. -/
def Obligations.DoubleTrapKeepsTheFirst : Prop :=
  ∀ (s : State) c cause detail tagseen opnd pc, s.Canonical → s.cells.length = 41 → trapBit (s.cell c) = true →
    ((s.trap c cause detail tagseen opnd pc).cell c).sp.trapCause = (s.cell c).sp.trapCause ∧
      ((s.trap c cause detail tagseen opnd pc).cell c).sp.trapPc = (s.cell c).sp.trapPc ∧
      ((s.trap c cause detail tagseen opnd pc).cell c).run.held = true ∧
      (s.trap c cause detail tagseen opnd pc).regBit (CEL_CTRL c.val) 0 = true ∧
      bit (celStat (s.trap c cause detail tagseen opnd pc) c) 3 = true ∧
      (s.trap c cause detail tagseen opnd pc).regBit (EV_RAW (celPage c)) 4 = true

/-- An alarm other than KEYSLOT erases every key slot and the provisioned root and closes KEY (R324, R330, R455): no slot keeps a valid key, and
KEY_STAT.ALARM, bit 3, is set. -/
def Obligations.AlarmErasesKeys : Prop :=
  ∀ (s : State) n, s.Canonical → n ≤ 3 → s.events.alarms.contains n = false → s.pageOn keyPage = true →
    Does (.alarm n) s fun t =>
      (∀ k, k < 64 → (t.key k).valid = false ∧ (t.key k).key = 0) ∧ t.crypto.root = none ∧ t.regBit KEY_STAT 3 = true

/-- Once LOCK reads 1, a CONFIG of PNUM 0600h to 06FFh is answered with RESULT 3, and neither the parameters nor LOCK change (R392). -/
def Obligations.LockedParametersStay : Prop :=
  ∀ (s : State) msg, s.field.powered = true → s.field.linkUp = true → msgFault false msg = none → mType msg = 0x81 →
      mSeq msg = s.field.expect.getD (mSeq msg) → 0x600 ≤ fld (mBody msg) 0 2 → fld (mBody msg) 0 2 ≤ 0x6FF → s.field.mram.lock = true →
    Does (.config msg) s fun t =>
      t = (s.modField fun f => { f with expect := some (mSeq msg + 1) }).fieldAck (mSeq msg) 3 ∧ t.field.mram = s.field.mram

/-- A host message that the field die has already acted on is not acted on again: its ACK is repeated with the same RESULT and nothing else
changes (R382). -/
def Obligations.DuplicateMessageNotRepeated : Prop :=
  (∀ (s : State) msg e a, s.field.powered = true → s.field.linkUp = true → msgFault false msg = none → s.field.expect = some e → mSeq msg ≠ e →
      seqLe (mSeq msg) e = true → s.field.acks.find? (fun x => x.1 == mSeq msg) = some a → mType msg = 0x81 →
    Does (.config msg) s fun t => t = s.emit (.toHost (mkMsg 7 0 0 0 (leBytes 4 (mSeq msg).toNat ++ leBytes 1 a.2 ++ [0, 0, 0])))) ∧
  (∀ (s : State) msg e a, s.field.powered = true → s.field.linkUp = true → msgFault false msg = none → s.field.expect = some e → mSeq msg ≠ e →
      seqLe (mSeq msg) e = true → s.field.acks.find? (fun x => x.1 == mSeq msg) = some a → mType msg = 0x82 →
    Does (.timeSet msg) s fun t => t = s.emit (.toHost (mkMsg 7 0 0 0 (leBytes 4 (mSeq msg).toNat ++ leBytes 1 a.2 ++ [0, 0, 0]))))

/-- The port holds at most four requests, those that wait for a cell and those kept while the warden moves: with four of them, a request that it
takes is answered with BUSY and not served (R407, R91). -/
def Obligations.FifthRequestIsBusy : Prop :=
  ∀ (s : State) r mine serve, s.portOn = true → r.body.length ≤ 1024 → r.chk = true → mine = true →
      4 ≤ s.sb.waits.length + s.sb.held.length →
      ((s.sb.waits.any fun w => w.eid == r.eid && w.tag == r.key) || s.sb.held.any fun w => w.eid == r.eid && w.key == r.key) = false →
    s.sbTake r mine serve = .next ((s.startWosc.count 0x0F8 2 1).sbBusy r)

/-- Forecast never refuses an Evidential command with 80h, whatever PROMISE reads (R67): it admits it, or refuses it with 82h for one of the four
reasons of its budget and its die spacing. -/
def Obligations.EvidentialNeverRefused80h : Prop :=
  ∀ (s : State) k r d tail prog len t0 check ok, r.cls = 0 →
    s.admission k (some r) d tail prog len t0 check ok = ok (s.admitted (s.asAdmitted k r t0) d prog len) ∨
      ∃ why, 1 ≤ why ∧ why ≤ 4 ∧ (stBudget why).sct = 7 ∧ (stBudget why).sc = 0x82 ∧
        s.admission k (some r) d tail prog len t0 check ok = s.reject k.ref (stBudget why) why 0 (boundOf k.kind)

/-- The commands of the pages ADM and ADL complete with these next states, in full (R49, R60, R64, R74, R75, R225 to R227): a refill, a slice,
the lock of the constants, a constant, the snapshot of the ledger, and the refresh of the debt, whose value is free within its bound
(log 34). -/
def Obligations.LedgerCommands : Prop :=
  (∀ s, Does .tokenRefill s fun t => t = { s with adm := { s.adm with
      buckets := (List.range 17).map fun f =>
        ⟨min (s.evSlice f).depth.bytes ((s.bucket f).bytes + (s.pages.dtime - s.adm.refilled).toNat * (s.evSlice f).mbps),
         min (s.evSlice f).depth.cmds ((s.bucket f).cmds + (s.pages.dtime - s.adm.refilled).toNat * (s.evSlice f).cmds)⟩
      refilled := s.pages.dtime } }) ∧
  (∀ s m v d u f x, Accepts s m 0x020 0x90 v (sliceCond m v) d → u = s.arrive m → f = u.field? ADM_SLSEL 4 0 → f < 16 →
      x = (⟨bits v 7 0, bits v 23 16⟩ : Slice) →
    Does (.admSliceWrite m v) s fun t => t = { u with adm := { u.adm with
      slices := u.adm.slices.set f x
      refilled := u.pages.dtime
      buckets := at' ((List.range 17).map u.bucketNow) f fun b =>
        if u.evSlice f = ⟨0, 0⟩ then x.depth else ⟨min b.bytes x.depth.bytes, min b.cmds x.depth.cmds⟩ } }) ∧
  (∀ s m v d u, Accepts s m 0x020 0x80 (setBit v 0 true) noCond d → u = (s.arrive m).store ADM_CTRL (setBit v 0 true) d →
    Does (.lock m v) s fun t => t = (if u.field? ADM_CTRL 15 8 < 25 then u.setField ADM_CTRL 15 8 25 else u)) ∧
  (∀ s m v d u k, Accepts s m 0x020 0xA4 v (cvalCond m v) d → u = s.arrive m → k = u.field? ADM_CSEL 5 0 → k < 45 →
    Does (.admCvalWrite m v) s fun t => t = { u with adm := { u.adm with
      consts := u.adm.consts.set (fun k => BitVec.ofNat 32 (constTable.getD k 0)) k v } }) ∧
  (∀ s m v d, Accepts s m 0x021 0x80 (setBit v 0 true) noCond d →
    Does (.adlSnap m v) s fun t => t = (s.arrive m).ledger.foldl (fun t x => t.setReg x.1 x.2) (s.arrive m)) ∧
  (∀ s cur free pct u v, cur = (if s.care.bufCur < s.bufTarget then
          min s.bufTarget (s.care.bufCur + (s.freeRaw - (s.care.bufCur - s.bufUsed) - s.raw / 10))
        else max s.bufFloor (max s.bufTarget s.bufUsed)) →
      free = cur - s.bufUsed - s.reserves →
      pct = (if s.userBlocks = 0 then 0 else min 10000 (s.mappedBlocks * 10000 / s.userBlocks)) →
      u = (((((({ s with care := { s.care with bufUsed := s.bufUsed } } : State).setBuf cur).setReg MC_BUFTGT
          (BitVec.ofNat 32 (s.bufTarget / 2 ^ 20))).setReg MC_BUFFREE (BitVec.ofNat 32 (free / 2 ^ 20))).setField MC_STAT 29 16 pct).setBufState
        (if cur = s.bufFloor ∧ free = 0 then 2 else if (free : Rat) < s.frac 43 * cur then 1 else 0)) →
      v = ({ u with fresh := u.fresh + 1 } : State).setReg ADM_GCDEBT
        (BitVec.ofNat 32 ((Config.freeValue u.fresh).toNat % ((u.constWord 42).toNat + 1) % 65536)) →
    Does .gcdebtRefresh s fun t => t = v.setReg ADM_DRAIN (BitVec.ofNat 32 v.drainRate))
end

