-- ==== Sys2Proof/Laws/Access.lean ====
section
/-!
SUPPORT. The common rules of R33 in one lemma each: a read that reaches its register, a write that they let through, and the rows that
stop one.
-/

namespace Sys2Proof.Machine

variable {s : State} {m : Master} {page off : Nat} {v : Word} {d : RegDef}

/-- An access that reaches its register passes the first rows of R33. -/
theorem checkAccess_of_reaches (h : Reaches s m page off d) (r : Bool) :
    s.checkAccess m page off 32 r v = .pass d := by
  obtain ⟨h1, h2, h3, h4, h5⟩ := h
  simp [State.checkAccess, h1, h2, h3, h4, h5]

/-- An access of another width, or not aligned, is not performed (R33). -/
theorem checkAccess_width (h1 : reaches m page = true) (h2 : (kindOf page).isSome = true) (h3 : s.pageOn page = true)
    {width : Nat} (hw : width ≠ 32 ∨ off % 4 ≠ 0) (r : Bool) :
    s.checkAccess m page off width r v =
      .stop (s.accessFail page 0 0x01 m off (if r then 0 else v)) (widthReply m r) := by
  simp only [State.checkAccess, h1, h2, h3, Bool.not_true, Bool.and_false, Bool.false_eq_true, if_false, Bool.and_self, if_true, hw]

/-- A write that no condition stops has its register's effect. -/
theorem write_of_accepts {cond : State → Option State} {eff : RegDef → State → State}
    (h : Accepts s m page off v cond d) : s.write m page off 32 v cond eff = (eff d (s.arrive m), .ok) := by
  obtain ⟨⟨hr, ht, ho, hq, hm, he⟩, hc, hv⟩ := h
  simp only [State.write, checkAccess_of_reaches hr, ht, ho, hq, hm, he, hc, hv, Bool.false_eq_true, if_false, Bool.not_true,
    ne_eq, not_true_eq_false]

/-- A write of a master that the owner line does not name is ignored and reported (R8, R33). -/
theorem write_of_foreign {cond : State → Option State} {eff : RegDef → State → State}
    (hr : Reaches (s.arrive m) m page off d) (ht : tenantView m page = false) (ho : d.owner ≠ .none)
    (hq : (inSquall off && (s.arrive m).squallHolder.isNone) = false) (hm : (s.arrive m).mayWrite m page d = false) :
    s.write m page off 32 v cond eff = ((s.arrive m).accessFail page 3 0x04 m off v, .accessError) := by
  simp only [State.write, checkAccess_of_reaches hr, ht, ho, hq, hm, Bool.false_eq_true, if_false, Bool.not_false, if_true]

/-- A write to a register whose owner is none changes nothing and reports nothing (R8, R33). -/
theorem write_of_unowned {cond : State → Option State} {eff : RegDef → State → State}
    (hr : Reaches (s.arrive m) m page off d) (ht : tenantView m page = false) (ho : d.owner = .none) :
    s.write m page off 32 v cond eff = (s.arrive m, .ok) := by
  simp only [State.write, checkAccess_of_reaches hr, ht, ho, Bool.false_eq_true, if_false, if_true]

/-- A job whose checks all pass and which Forecast admits is taken (R54, R84). -/
theorem ioCommand_of_admits {j : IoJob} {r : Resolved} {t0 : Nat} (h1 : s.firstRow j.rows = none) (h2 : j.r = some r)
    (h3 : Admits s j.k r j.d j.tail j.len t0) : s.ioCommand j t0 = s.taken j r t0 := by
  unfold State.ioCommand State.admission State.taken
  rw [h1, h2]
  unfold Admits at h3
  dsimp only
  split at h3
  · next hc =>
    obtain ⟨a, b, c, e⟩ := h3
    rw [if_pos hc, if_neg a, if_neg (by omega), if_neg (by omega), if_neg (by simp [e])]
  · next hc =>
    rw [if_neg hc, if_neg (by omega), if_neg (not_lt.2 h3.2)]

/-- An I/O command whose entry is fetched is checked and admitted in its place. -/
theorem onJob_of_fetched {c : NvmeCmd} {u : State} {q : SQueue} {t0 : Nat} {job : NvmeCmd → SQueue → State → IoJob}
    (h : Fetched c s u q t0) : onJob c s job = .next (u.ioCommand (job c q u) t0) := by
  obtain ⟨h1, h2, h3⟩ := h
  simp only [onJob, onQueue, onIo, h1, h2, h3, if_false]

/-- An admin command whose entry is fetched is handled. -/
theorem onAdmin_of_fetched {c : NvmeCmd} {u : State} {f : State → State} (h : FetchedAdmin c s u) :
    onAdmin c s f = .next (f u) := by
  obtain ⟨h1, t0, h2⟩ := h
  simp [onAdmin, h1, h2]

/-- A request that the port takes is served (R407). -/
theorem sbTake_of_takes {r : SbReq} {u : State} {mine : Bool} {serve : State → State} (h : Takes s r u) (hm : mine = true) :
    s.sbTake r mine serve = .next (serve u) := by
  obtain ⟨h1, h2, h3, h4, h5, rfl, h6⟩ := h
  unfold State.sbTake
  dsimp only at h4 ⊢
  simp only [h1, hm, h3, h4, h5, Bool.not_true, Bool.or_self, Bool.false_or, Bool.false_and, Bool.false_eq_true, if_false, decide_eq_true_eq]
  rw [if_neg (by omega), if_neg (by omega)]

/-- A vendor request that the warden's firmware takes is served (R409). -/
theorem vendor_of_takes {r : SbReq} {op : Nat} {u : State} {mine rom : Bool} {serve : State → State} (h : TakesOp s r op rom u)
    (hm : mine = true) : s.vendor r op mine rom serve = .next (serve u) := by
  obtain ⟨h, h1, h2, h3, h4⟩ := h
  unfold State.vendor
  rw [sbTake_of_takes h (by simp [h1, h2, hm]), h3]
  simp [h4]

/-- A request that a main-side cell serves (R412). -/
theorem sbMain_of_serves {serve hold idle : State → State} (h : Serves s) : s.sbMain serve hold idle = serve s := by
  unfold State.sbMain
  simp [h.1, h.2]

end Sys2Proof.Machine
end

