-- ==== Sys2Proof/Laws/Bits.lean ====
section
/-!
SUPPORT. The laws of bits and fields of a word.
-/

namespace Sys2Proof

/-- The mask of one bit. -/
theorem bit_fieldMask {k j : Nat} (hk : k < 32) (hj : j < 32) : bit (fieldMask k k) j = decide (j = k) := by
  have : (2 ^ (k + 1 - k) - 1) <<< k = 2 ^ k := by
    rw [show k + 1 - k = 1 by omega]; simp [Nat.shiftLeft_eq]
  simp only [bit, fieldMask, this, BitVec.getLsbD_ofNat, hj, decide_true, Bool.true_and, Nat.testBit_two_pow]
  exact decide_eq_decide.2 eq_comm

/-- A bit of a word with one bit replaced. -/
theorem bit_setBit {w : Word} {k j : Nat} {b : Bool} (hk : k < 32) (hj : j < 32) :
    bit (setBit w k b) j = if j = k then b else bit w j := by
  have hv : ((b.toNat % 2 ^ (k + 1 - k)) <<< k) = if b then 2 ^ k else 0 := by
    rw [show k + 1 - k = 1 by omega]; cases b <;> simp [Nat.shiftLeft_eq]
  have hm := bit_fieldMask hk hj
  simp only [bit] at hm
  simp only [bit, setBit, setBits, hv, BitVec.getLsbD_or, BitVec.getLsbD_and, BitVec.getLsbD_not, hj, decide_true, Bool.true_and,
    hm, BitVec.getLsbD_ofNat]
  by_cases h : j = k
  · subst h; cases b <;> simp [Nat.testBit_two_pow]
  · cases b <;> simp [h, Nat.testBit_two_pow, Ne.symm h]

/-- A replaced bit. -/
theorem bit_setBit_self {w : Word} {k : Nat} {b : Bool} (hk : k < 32) : bit (setBit w k b) k = b := by
  simp [bit_setBit hk hk]

/-- Every other bit of the word. -/
theorem bit_setBit_ne {w : Word} {k j : Nat} {b : Bool} (hk : k < 32) (hj : j < 32) (h : j ≠ k) :
    bit (setBit w k b) j = bit w j := by
  simp [bit_setBit hk hj, h]

/-- The bits of a field's mask. -/
theorem getLsbD_fieldMask {hi lo i : Nat} :
    (fieldMask hi lo).getLsbD i = (decide (i < 32) && decide (lo ≤ i) && decide (i < hi + 1)) := by
  unfold fieldMask
  simp only [BitVec.getLsbD_ofNat, Nat.testBit_shiftLeft, Nat.testBit_two_pow_sub_one]
  by_cases h : i < 32
  · by_cases h2 : lo ≤ i
    · simp [h, h2]; omega
    · simp [h2]
  · simp [h]

/-- A replaced field. -/
theorem bits_setBits {w : Word} {hi lo v : Nat} (h : hi < 32) (hl : lo ≤ hi) :
    bits (setBits w hi lo v) hi lo = v % 2 ^ (hi + 1 - lo) := by
  apply Nat.eq_of_testBit_eq
  intro i
  unfold bits setBits
  simp only [Nat.testBit_mod_two_pow, Nat.testBit_shiftRight, BitVec.testBit_toNat, BitVec.getLsbD_or, BitVec.getLsbD_and,
    BitVec.getLsbD_not, getLsbD_fieldMask, BitVec.getLsbD_ofNat, Nat.testBit_shiftLeft]
  by_cases h1 : i < hi + 1 - lo
  · have : lo + i < 32 := by omega
    simp [h1, this, show lo + i < hi + 1 by omega]
  · simp [h1]

/-- A field above a replaced one. -/
theorem bits_setBits_above {w : Word} {hi lo v i j : Nat} (hl : lo ≤ hi) (h2 : hi < j) :
    bits (setBits w hi lo v) i j = bits w i j := by
  apply Nat.eq_of_testBit_eq
  intro k
  unfold bits setBits
  simp only [Nat.testBit_mod_two_pow, Nat.testBit_shiftRight, BitVec.testBit_toNat, BitVec.getLsbD_or, BitVec.getLsbD_and,
    BitVec.getLsbD_not, getLsbD_fieldMask, BitVec.getLsbD_ofNat, Nat.testBit_shiftLeft]
  by_cases h1 : k < i + 1 - j
  · by_cases h3 : j + k < 32
    · simp [h1, h3, show ¬ j + k < hi + 1 by omega, show ¬ j + k - lo < hi + 1 - lo by omega]
    · simp [h1, h3, BitVec.getLsbD_of_ge w (j + k) (by omega)]
  · simp [h1]

end Sys2Proof
end

