-- ==== Sys2Proof/Laws/Lenses.lean ====
section
/-!
SUPPORT. Changing one unit of a list and reading it or another one: cells, controllers, logs.
-/

namespace Sys2Proof.Machine

variable {s : State}

theorem getD_modify_self {α : Type} {l : List α} {k : Nat} {f : α → α} {d : α} (h : k < l.length) :
    (l.modify k f).getD k d = f (l.getD k d) := by
  simp [List.getD_eq_getElem?_getD, h]

theorem getD_modify_ne {α : Type} {l : List α} {j k : Nat} {f : α → α} {d : α} (h : j ≠ k) :
    (l.modify k f).getD j d = l.getD j d := by
  simp [List.getD_eq_getElem?_getD, List.getElem?_modify, Ne.symm h]

theorem State.cell_modCell_self {c : CellId} {f : Cell → Cell} (h : s.cells.length = 41) :
    (s.modCell c f).cell c = f (s.cell c) :=
  getD_modify_self (by rw [h]; exact c.isLt)

theorem State.cell_modCell_ne {c e : CellId} {f : Cell → Cell} (h : e ≠ c) : (s.modCell c f).cell e = s.cell e :=
  getD_modify_ne fun x => h (Fin.ext x)

theorem State.ctrl_modCtrl_self {f : Fun} {g : Ctrl → Ctrl} (h : s.host.ctrls.length = 16) :
    (s.modCtrl f g).ctrl f = g (s.ctrl f) :=
  getD_modify_self (by rw [h]; exact f.isLt)

theorem State.ctrl_modCtrl_ne {f e : Fun} {g : Ctrl → Ctrl} (h : e ≠ f) : (s.modCtrl f g).ctrl e = s.ctrl e :=
  getD_modify_ne fun x => h (Fin.ext x)

theorem State.logsOf_modLogs_self {f : Fun} {g : FnLogs → FnLogs} (h : s.host.logs.length = 16) :
    (s.modLogs f g).logsOf f = g (s.logsOf f) :=
  getD_modify_self (by rw [h]; exact f.isLt)

theorem State.logsOf_modLogs_ne {f e : Fun} {g : FnLogs → FnLogs} (h : e ≠ f) : (s.modLogs f g).logsOf e = s.logsOf e :=
  getD_modify_ne fun x => h (Fin.ext x)

end Sys2Proof.Machine
end

