-- ==== Sys2Proof/Laws/Cells.lean ====
section
/-!
SUPPORT. What issue answers, once for every instruction of the cells: its effect when the body succeeds, a trap when it raises one.
-/

namespace Sys2Proof.Machine

variable {s u v : State} {i : Iss} {w : IWord} {body : State → Body}

/-- An instruction that issues and succeeds within its budget has its effect. -/
theorem issue_of_issues {n : Nat} {pc : Option (BitVec 14)} (h : Issues s i w u) (hb : body u = .ok v n pc)
    (ha : Affords s i n) : s.issue i w body = .next (v.issued s i n pc) := by
  obtain ⟨x, ⟨h1, h2, h3, h4, h5⟩, h6, h7, h8, h9, rfl⟩ := h
  have h9' : ¬ 3 < i.ext.length := by omega
  unfold State.issue
  simp only [h1, h2, h3, h4, h5, h6, h7, h8, h9', Bool.not_true, Bool.false_eq_true, if_false, ne_eq, reduceCtorEq, not_true,
    and_false, false_and, or_self, not_false_eq_true]
  unfold Cell.slotsOf at hb
  rw [hb]
  unfold Affords Cell.slotsOf at ha
  unfold State.issued spend Cell.slotsOf
  dsimp only
  cases hp : pmode (s.cell i.cell)
  · simp
  · rw [hp] at ha
    simp only [if_true]
    rw [if_neg (by have := ha rfl; omega)]

/-- The same of a command whose meaning is an issue. -/
theorem does_of_issues {c : Instr} {n : Nat} {pc : Option (BitVec 14)} {P : State → Prop} (he : exec c s = s.issue i w body)
    (h : Issues s i w u) (ha : Affords s i n) (hb : body u = .ok v n pc) (hp : P (v.issued s i n pc)) : Does c s P :=
  ⟨_, he.trans (issue_of_issues h hb ha), hp⟩

/-! ## Operands -/

/-- An operand that its rule allows lets the instruction go on (R159). -/
theorem need_ok {a : TWord} {o : Nat} {ok : BitVec 4 → Bool} {k : Body} (h : a.tag ≠ tPoison ∧ ok a.tag = true) :
    need a o ok k = k := by
  simp only [need, h.1, h.2, if_false, if_true]

/-- Two operands that their rules allow let the instruction go on (R159). -/
theorem need2_ok {a b : TWord} {okA okB : BitVec 4 → Bool} {k : Body}
    (h : a.tag ≠ tPoison ∧ b.tag ≠ tPoison ∧ okA a.tag = true ∧ okB b.tag = true) : need2 a okA b okB k = k := by
  simp only [need2, h.1, h.2.1, h.2.2.1, h.2.2.2, Bool.not_true, Bool.false_eq_true, if_false]

/-- A two-register instruction whose operands its rules allow has its result. -/
theorem alu2_ok {c : CellId} {rd rs : Reg} {okA okB : BitVec 4 → BitVec 4 → Bool} {f : TWord → TWord → BitVec 6 → TWord × BitVec 6}
    {a b : TWord} (ha : (u.cell c).reg rd = a) (hb : (u.cell c).reg rs = b)
    (h : a.tag ≠ tPoison ∧ b.tag ≠ tPoison ∧ okA a.tag b.tag = true ∧ okB a.tag b.tag = true) :
    alu2 c rd rs okA okB f u = .ok (u.result c rd (f a b (u.cell c).sp.flags).1 (f a b (u.cell c).sp.flags).2) 1 none := by
  subst ha hb
  unfold alu2
  exact need2_ok (okA := fun t => okA t _) (okB := fun t => okB _ t) h

/-- A one-register instruction whose operand its rule allows has its result. -/
theorem alu1_ok {c : CellId} {r : Reg} {ok : BitVec 4 → Bool} {f : TWord → BitVec 6 → TWord × BitVec 6} {a : TWord}
    (ha : (u.cell c).reg r = a) (h : a.tag ≠ tPoison ∧ ok a.tag = true) :
    alu1 c r ok f u = .ok (u.result c r (f a (u.cell c).sp.flags).1 (f a (u.cell c).sp.flags).2) 1 none := by
  subst ha
  exact need_ok h

/-- A move of a word from data memory delivers it: POISON with value 0 for an uncorrectable one (R134, R159). -/
theorem loadInto_ok {c : CellId} {rd : Reg} {a o : Nat} {k : State → Body} {x : Option TWord} (h : u.decodeDm c a = (x, v))
    (hx : ∀ y, x = some y → y.tag ≠ tPoison ∧ (y.tag = tRetadr → pmode (u.cell c) = false)) :
    loadInto c rd u a o k = k (v.setW c rd (x.getD ⟨tPoison, 0⟩)) := by
  unfold loadInto
  rw [h]
  cases x with
  | none => rfl
  | some y =>
    obtain ⟨h1, h2⟩ := hx y rfl
    dsimp only
    rw [if_neg h1, if_neg (by intro ⟨p, q⟩; rw [h2 p] at q; cases q)]
    rfl

/-- A repeat prefix whose pair is right sets the count and the latch, or passes over a count of 0 (R174). -/
theorem pairBody_repeat {c : CellId} {ws : List IWord} {count : Nat} {k : Nat → State → Body}
    (h1 : u.pairWords c ((u.cell c).pc.toNat + 1) 4 = .ok ws) (h2 : pairFault ws = none)
    (h3 : k (ws.length - 1) u = repeatBody c (ws.length - 1) u count) :
    pairBody c k u =
      .ok (if (if ract (u.cell c) then (u.cell c).sp.rc else BitVec.ofNat 16 count) = 0 then
          u.modCell c fun k => k.modSp fun p => { p with rc := 0, stat := p.stat &&& 0x7 }
        else u.modCell c fun k => { k with
          sp := { k.sp with
            rc := (if ract (u.cell c) then (u.cell c).sp.rc else BitVec.ofNat 16 count), stat := k.sp.stat ||| 0x8 }
          run := { k.run with latched := true, iterated := false, exts := [] } }) 1
        (if (if ract (u.cell c) then (u.cell c).sp.rc else BitVec.ofNat 16 count) = 0 then
          some ((u.cell c).pc + BitVec.ofNat 14 (ws.length - 1 + 2)) else some (u.cell c).pc) := by
  unfold pairBody
  rw [h1]
  dsimp only
  rw [h2]
  dsimp only
  rw [h3]
  unfold repeatBody
  dsimp only
  split <;> split <;> rfl

/-- The tags of numbers and of the logical instructions are not POISON. -/
theorem isNum_ne : ∀ t : BitVec 4, isNum t = true → t ≠ tPoison := by decide
theorem isLogic_ne : ∀ t : BitVec 4, isLogic t = true → t ≠ tPoison := by decide
theorem isIdx_ne : ∀ t : BitVec 4, isIdx t = true → t ≠ tPoison := by decide

/-! ## Frames of the register instructions -/

section Frame

variable {c : CellId} {keep : Reg → Prop} {t : State}

theorem CoreFrame.refl : CoreFrame c keep s s :=
  ⟨fun _ _ => rfl, fun _ _ => rfl, ⟨rfl, rfl, rfl, rfl⟩, ⟨rfl, rfl, rfl, rfl⟩, ⟨rfl, rfl⟩,
    ⟨rfl, rfl, rfl, rfl, rfl, rfl, rfl, rfl, rfl, rfl, rfl, rfl, rfl, rfl⟩⟩

theorem CoreFrame.trans (h : CoreFrame c keep s t) (g : CoreFrame c keep t u) : CoreFrame c keep s u := by
  obtain ⟨a1, a2, ⟨a3, a4, a5, a6⟩, ⟨a7, a8, a9, a10⟩, ⟨a11, a12⟩, b1, b2, b3, b4, b5, b6, b7, b8, b9, b10, b11, b12, b13, b14⟩ := h
  obtain ⟨c1, c2, ⟨c3, c4, c5, c6⟩, ⟨c7, c8, c9, c10⟩, ⟨c11, c12⟩, d1, d2, d3, d4, d5, d6, d7, d8, d9, d10, d11, d12, d13, d14⟩ := g
  exact ⟨fun e he => (c1 e he).trans (a1 e he), fun r hr => (c2 r hr).trans (a2 r hr),
    ⟨c3.trans a3, c4.trans a4, c5.trans a5, c6.trans a6⟩, ⟨c7.trans a7, c8.trans a8, c9.trans a9, c10.trans a10⟩,
    ⟨c11.trans a11, c12.trans a12⟩,
    ⟨d1.trans b1, d2.trans b2, d3.trans b3, d4.trans b4, d5.trans b5, d6.trans b6, d7.trans b7, d8.trans b8, d9.trans b9, d10.trans b10,
      d11.trans b11, d12.trans b12, d13.trans b13, d14.trans b14⟩⟩

/-- A change of nothing that the frame names but cell `c`, and of that cell only what the frame leaves open. -/
theorem CoreFrame.modCell {f : Cell → Cell} (hr : ∀ k r, keep r → (f k).w.getD r.toNat .void = k.w.getD r.toNat .void)
    (hm : ∀ k, (f k).dm = k.dm ∧ (f k).im = k.im ∧ (f k).sb0 = k.sb0 ∧ (f k).sb1 = k.sb1 ∧ (f k).su0 = k.su0 ∧ (f k).su1 = k.su1 ∧
      (f k).suL = k.suL ∧ (f k).ports = k.ports ∧ (f k).sp.sp = k.sp.sp ∧ (f k).sp.splim = k.sp.splim) :
    CoreFrame c keep s (s.modCell c f) := by
  by_cases hc : c.val < s.cells.length
  · have e : (s.modCell c f).cell c = f (s.cell c) := getD_modify_self hc
    obtain ⟨h1, h2, h3, h4, h5, h6, h7, h8, h9, h10⟩ := hm (s.cell c)
    exact ⟨fun e he => State.cell_modCell_ne he, fun r h => by rw [e]; exact hr _ _ h, by rw [e]; exact ⟨h1, h2, h3, h4⟩,
      by rw [e]; exact ⟨h5, h6, h7, h8⟩, by rw [e]; exact ⟨h9, h10⟩, CoreFrame.refl.device (c := c) (keep := keep)⟩
  · have e : (s.modCell c f).cells = s.cells := List.modify_eq_self (by omega)
    have e2 : ∀ x, (s.modCell c f).cell x = s.cell x := fun x => by unfold State.cell; rw [e]
    refine ⟨fun x _ => e2 x, fun r _ => by rw [e2], ?_, ?_, ?_, CoreFrame.refl.device (c := c) (keep := keep)⟩ <;> rw [e2] <;> simp

/-- The parts of a state that the frame speaks of. -/
def State.coreParts (s : State) := (s.cells, s.upsets, s.adm, s.prog, s.fabric, s.ftl, s.care, s.red, s.media, s.search, s.crypto, s.dram,
  s.vfm, s.field, s.frl)

/-- A change of pages, controllers, output and the like. -/
theorem CoreFrame.of_parts (h : CoreFrame c keep s t) (e : u.coreParts = t.coreParts) : CoreFrame c keep s u := by
  simp only [State.coreParts, Prod.mk.injEq] at e
  obtain ⟨e0, e1⟩ := e
  have ec : ∀ x, u.cell x = t.cell x := fun x => by unfold State.cell; rw [e0]
  exact h.trans ⟨fun x _ => ec x, fun r _ => by rw [ec], by rw [ec]; simp, by rw [ec]; simp, by rw [ec]; simp, e1⟩

theorem State.coreParts_sendVectors (s : State) (f : Fun) (v n : Nat) : (s.sendVectors f v n).coreParts = s.coreParts := by
  induction n with
  | zero => rfl
  | succ n ih => unfold State.sendVectors State.sendVector; split <;> exact ih

theorem State.coreParts_startWosc (s : State) : s.startWosc.coreParts = s.coreParts := rfl

theorem State.coreParts_alert (s : State) (p : Nat) : (s.alert p).coreParts = s.coreParts := by
  unfold State.alert State.logWarden State.emit State.coreParts; dsimp only; split <;> rfl

theorem State.coreParts_signal (s : State) (p n : Nat) : (s.signal p n).1.coreParts = s.coreParts := by
  unfold State.signal
  repeat' split
  all_goals first
    | exact State.coreParts_sendVectors _ _ _ _
    | exact State.coreParts_startWosc _
    | exact State.coreParts_alert _ _

theorem State.coreParts_setRaw (s : State) (p : Nat) (m : Word) : (s.setRaw p m).1.coreParts = s.coreParts := by
  have h := State.coreParts_signal (s.setReg (EV_RAW p) (s.reg (EV_RAW p) ||| m)) p
    (bitCount (m &&& ~~~s.reg (EV_RAW p) &&& s.reg (EV_ENABLE p)))
  unfold State.setRaw
  dsimp only
  split
  · rfl
  · split <;> (next e => rw [e] at h; exact h)

theorem State.coreParts_countRaw (s : State) (p k n : Nat) : (s.countRaw p k n).1.coreParts = s.coreParts := by
  unfold State.countRaw; dsimp only; split <;> rfl

theorem State.coreParts_raiseMask (s : State) (p : Nat) (m : Word) : (s.raiseMask p m).coreParts = s.coreParts := by
  have h := State.coreParts_setRaw s p m
  unfold State.raiseMask
  split
  · next e => rw [e] at h; exact h
  · next v n _ e =>
    rw [e] at h
    have g := State.coreParts_countRaw v 5 8 n
    split
    · next e' => rw [e'] at g; exact g.trans h
    · next e' => rw [e'] at g; exact (State.coreParts_setRaw _ _ _).trans (g.trans h)

theorem State.coreParts_raise (s : State) (p k : Nat) : (s.raise p k).coreParts = s.coreParts := State.coreParts_raiseMask _ _ _

theorem State.coreParts_count (s : State) (p k n : Nat) : (s.count p k n).coreParts = s.coreParts := by
  have h := State.coreParts_countRaw s p k n
  unfold State.count
  split
  · next e => rw [e] at h; exact (State.coreParts_raise _ _ _).trans h
  · next e => rw [e] at h; exact h

theorem State.coreParts_count64 (s : State) (p k n : Nat) : (s.count64 p k n).coreParts = s.coreParts := by
  unfold State.count64; dsimp only; split
  · exact State.coreParts_raise _ _ _
  · rfl

theorem State.coreParts_logCorrection (s : State) (p a i : Nat) : (s.logCorrection p a i).coreParts = s.coreParts := by
  have h : ∀ (t : State) (v : Word), (t.logPlace p v).coreParts = t.coreParts := by
    intro t v
    unfold State.logPlace
    dsimp only
    split <;> rfl
  unfold State.logCorrection
  dsimp only
  split
  · rw [State.coreParts_raise, h]
    rfl
  · rw [h]
    rfl

theorem State.coreParts_readProt (s : State) (p a i r d : Nat) : (s.readProt p a i r d).2.coreParts = s.coreParts := by
  unfold State.readProt
  dsimp only
  split
  · rfl
  · split
    · exact State.coreParts_logCorrection s p a i
    · rfl

theorem State.coreParts_fetchI (s : State) (c : CellId) (a : Nat) : (s.fetchI c a).2.coreParts = s.coreParts := by
  have h := State.coreParts_readProt s (celPage c) 1 (a % 16384 / 4) 7 8
  unfold State.fetchI
  dsimp only
  split <;> (next e => rw [e] at h; exact h)

theorem State.coreParts_fetchN (c : CellId) (n : Nat) : ∀ (s : State) (a : Nat), (s.fetchN c a n).2.coreParts = s.coreParts := by
  induction n with
  | zero => intro s a; rfl
  | succ n ih =>
    intro s a
    have h := State.coreParts_fetchI s c a
    unfold State.fetchN
    split
    · next e => rw [e] at h; exact h
    · next v e =>
      rw [e] at h
      have g := ih v (a + 1)
      split <;> (next e' => rw [e'] at g; exact g.trans h)

theorem State.coreParts_fetchSlot (s : State) (c : CellId) (a n : Nat) : (s.fetchSlot c a n).2.coreParts = s.coreParts := by
  unfold State.fetchSlot
  dsimp only
  split
  · have h := State.coreParts_fetchI s c (a + (s.cell c).run.exts.length)
    split <;> (next e => rw [e] at h; exact h)
  · exact State.coreParts_fetchN c n s a

theorem Cell.land_w (k : Cell) : k.land.w = k.w := by unfold Cell.land; split <;> rfl

theorem Cell.land_rest (k : Cell) : k.land.dm = k.dm ∧ k.land.im = k.im ∧ k.land.sb0 = k.sb0 ∧ k.land.sb1 = k.sb1 ∧
    k.land.su0 = k.su0 ∧ k.land.su1 = k.su1 ∧ k.land.suL = k.suL ∧ k.land.ports = k.ports ∧ k.land.sp.sp = k.sp.sp ∧
    k.land.sp.splim = k.sp.splim := by
  unfold Cell.land; split <;> simp

theorem Cell.slots_w (k : Cell) (n : Nat) : (k.slots n).w = k.w := by
  unfold Cell.slots; split
  · rfl
  · split
    · exact Cell.land_w k
    · rfl

theorem Cell.slots_rest (k : Cell) (n : Nat) : (k.slots n).dm = k.dm ∧ (k.slots n).im = k.im ∧ (k.slots n).sb0 = k.sb0 ∧
    (k.slots n).sb1 = k.sb1 ∧ (k.slots n).su0 = k.su0 ∧ (k.slots n).su1 = k.su1 ∧ (k.slots n).suL = k.suL ∧
    (k.slots n).ports = k.ports ∧ (k.slots n).sp.sp = k.sp.sp ∧ (k.slots n).sp.splim = k.sp.splim := by
  unfold Cell.slots; split
  · simp
  · split
    · exact Cell.land_rest k
    · simp

theorem Cell.slots_mode (k : Cell) (n : Nat) : (k.slots n).sp.cycBud = k.sp.cycBud ∧ (k.slots n).sp.stat = k.sp.stat := by
  unfold Cell.slots; split
  · exact ⟨rfl, rfl⟩
  · split
    · unfold Cell.land; split <;> exact ⟨rfl, rfl⟩
    · exact ⟨rfl, rfl⟩

theorem CoreFrame.setReg (h : CoreFrame c keep s t) (k : Nat) (v : Word) : CoreFrame c keep s (t.setReg k v) := h.of_parts rfl

theorem CoreFrame.raise (h : CoreFrame c keep s t) (p k : Nat) : CoreFrame c keep s (t.raise p k) :=
  h.of_parts (State.coreParts_raise _ _ _)

theorem CoreFrame.count (h : CoreFrame c keep s t) (p k n : Nat) : CoreFrame c keep s (t.count p k n) :=
  h.of_parts (State.coreParts_count _ _ _ _)

/-- A trap, and a double trap. -/
theorem CoreFrame.trap (cause detail tagseen opnd : Nat) (pc : BitVec 14) :
    CoreFrame c keep s (s.trap c cause detail tagseen opnd pc) := by
  unfold State.trap
  dsimp only
  split
  · unfold State.doubleTrap
    apply CoreFrame.raise
    apply CoreFrame.count
    apply CoreFrame.setReg
    refine CoreFrame.modCell (fun k r _ => ?_) fun k => ?_
    · show k.land.w.getD _ _ = _
      rw [Cell.land_w]
    · exact Cell.land_rest k
  · repeat' split
    all_goals
      repeat with_reducible first
        | apply CoreFrame.raise
        | apply CoreFrame.count
        | apply CoreFrame.setReg
      refine CoreFrame.modCell (fun k r _ => ?_) fun k => ?_
      · show k.land.w.getD _ _ = _
        rw [Cell.land_w]
      · exact Cell.land_rest k

/-- The cycles of an instruction that traps, and the trap. -/
theorem CoreFrame.charged {f : State → State} (n : Nat) (hf : ∀ v, CoreFrame c keep v (f v)) : CoreFrame c keep s (s.charged c n f) := by
  have h : ∀ (b : Word), CoreFrame c keep s (s.modCell c fun k => k.modSp fun p => { p with cycBud := b }) := fun b =>
    CoreFrame.modCell (fun k r _ => rfl) fun k => ⟨rfl, rfl, rfl, rfl, rfl, rfl, rfl, rfl, rfl, rfl⟩
  unfold State.charged
  dsimp only
  repeat' split
  · exact (h 0).trans (CoreFrame.trap _ _ _ _ _)
  · exact (h _).trans (hf _)
  · exact hf s

/-- What follows an instruction's own effect. -/
theorem CoreFrame.retire (len : List (BitVec 10)) (pc : Option (BitVec 14)) (b : Bool) : CoreFrame c keep s (s.retire c len pc b) := by
  unfold State.retire
  refine CoreFrame.of_parts (t := s.modCell c _) (CoreFrame.modCell ?_ ?_) (State.coreParts_count64 _ _ _ _)
  · intro k r _; dsimp only; repeat' split
    all_goals rfl
  · intro k; dsimp only; repeat' split
    all_goals simp

/-- A body that writes cell `c` within the frame when it succeeds, and else raises a trap. -/
def BodyKeeps (c : CellId) (keep : Reg → Prop) (u : State) : Body → Prop
  | .ok v _ _ => CoreFrame c keep u v
  | .trap .. => True
  | _ => False

/-- An answer whose next state, if it is one, satisfies `P`. -/
def AllNext (P : State → Prop) (o : Answer) : Prop := ∀ t, o = .next t → P t

theorem AllNext.next {P : State → Prop} (h : P s) : AllNext P (.next s) := fun _ e => by cases e; exact h

theorem AllNext.ite {P : State → Prop} {p : Prop} [Decidable p] {a b : Answer} (ha : AllNext P a) (hb : AllNext P b) :
    AllNext P (if p then a else b) := by split <;> assumption

/-- Every next state of an instruction whose body keeps the frame. -/
theorem CoreFrame.issue (h : ∀ u, BodyKeeps i.cell keep u (body u)) : AllNext (CoreFrame i.cell keep s) (s.issue i w body) := by
  have hb : ∀ {v : State} {f : Special → Special}, CoreFrame i.cell keep s v → (∀ p, (f p).sp = p.sp ∧ (f p).splim = p.splim) →
      CoreFrame i.cell keep s (v.modCell i.cell fun k => k.modSp f) := fun hv hf =>
    hv.trans (CoreFrame.modCell (fun k r _ => rfl) fun k => ⟨rfl, rfl, rfl, rfl, rfl, rfl, rfl, rfl, (hf _).1, (hf _).2⟩)
  have ht : ∀ {v : State} (a b d e : Nat) (q : BitVec 14), CoreFrame i.cell keep s v →
      CoreFrame i.cell keep s (v.trap i.cell a b d e q) := fun _ _ _ _ _ hv => hv.trans (CoreFrame.trap _ _ _ _ _)
  have hs : CoreFrame i.cell keep s s := CoreFrame.refl
  unfold State.issue
  dsimp only
  refine AllNext.ite (AllNext.next hs) ?_
  have hc : ∀ {v : State} (n a b d e : Nat) (q : BitVec 14), CoreFrame i.cell keep s v →
      CoreFrame i.cell keep s (v.charged i.cell n fun x => x.trap i.cell a b d e q) := fun _ _ _ _ _ _ hv =>
    hv.trans (CoreFrame.charged _ fun _ => CoreFrame.trap _ _ _ _ _)
  have hf := State.coreParts_fetchSlot s i.cell ((s.cell i.cell).pc.toNat + (s.cell i.cell).run.latched.toNat) (i.ext.length + 1)
  generalize s.fetchSlot i.cell ((s.cell i.cell).pc.toNat + (s.cell i.cell).run.latched.toNat) (i.ext.length + 1) = r at hf ⊢
  obtain ⟨words, s1⟩ := r
  have h1 : CoreFrame i.cell keep s s1 := hs.of_parts hf
  dsimp only
  refine AllNext.ite (AllNext.next hs) (AllNext.ite (AllNext.next ?_) (AllNext.ite (AllNext.next (ht _ _ _ _ _ hs))
    (AllNext.ite (AllNext.next (hc _ _ _ _ _ _ hs)) (AllNext.ite (AllNext.next (hc _ _ _ _ _ _ h1))
      (AllNext.ite (AllNext.next (hc _ _ _ _ _ _ h1)) (AllNext.ite (AllNext.next (hc _ _ _ _ _ _ h1)) ?_))))))
  · exact ht _ _ _ _ _ (hb (hs.setReg _ _) fun _ => ⟨rfl, rfl⟩)
  · generalize hu : (s1.modCell i.cell fun k => _) = u
    have h2 : CoreFrame i.cell keep s u := by
      rw [← hu]
      refine h1.trans (CoreFrame.modCell (fun k r _ => ?_) fun k => ?_)
      · split
        · show (k.slots _).w.getD _ _ = _; rw [Cell.slots_w]
        · rw [Cell.slots_w]
      · split
        · exact Cell.slots_rest k _
        · exact Cell.slots_rest k _
    have hk := h u
    generalize body u = o at hk ⊢
    cases o with
    | ok v n pc =>
      have h3 : CoreFrame i.cell keep s v := h2.trans hk
      dsimp only
      split
      · exact AllNext.next (ht _ _ _ _ _ (hb h1 fun _ => ⟨rfl, rfl⟩))
      · refine AllNext.next (CoreFrame.trans ?_ (CoreFrame.retire _ _ _))
        split
        · exact hb h3 fun _ => ⟨rfl, rfl⟩
        · exact h3
    | trap a b d e after n => exact AllNext.next (hc _ _ _ _ _ _ h2)
    | refused => exact hk.elim
    | stall => exact hk.elim

/-- Writing a register, FLAGS, or both. -/
theorem CoreFrame.setW (rd : Reg) (x : TWord) : CoreFrame c (· ≠ rd) u (u.setW c rd x) := by
  refine CoreFrame.modCell (fun k r hr => ?_) fun k => ⟨rfl, rfl, rfl, rfl, rfl, rfl, rfl, rfl, rfl, rfl⟩
  show (k.w.set rd.toNat x).getD r.toNat .void = _
  have : rd.toNat ≠ r.toNat := fun h => hr (BitVec.eq_of_toNat_eq h.symm)
  simp [List.getD_eq_getElem?_getD, List.getElem?_set_ne this]

theorem CoreFrame.setFlags (f : BitVec 6) : CoreFrame c keep u (u.setFlags c f) :=
  CoreFrame.modCell (fun _ _ _ => rfl) fun _ => ⟨rfl, rfl, rfl, rfl, rfl, rfl, rfl, rfl, rfl, rfl⟩

theorem CoreFrame.result (rd : Reg) (x : TWord) (f : BitVec 6) : CoreFrame c (· ≠ rd) u (u.result c rd x f) := by
  refine CoreFrame.modCell (fun k r hr => ?_) fun k => ⟨rfl, rfl, rfl, rfl, rfl, rfl, rfl, rfl, rfl, rfl⟩
  show (k.w.set rd.toNat x).getD r.toNat .void = _
  have : rd.toNat ≠ r.toNat := fun h => hr (BitVec.eq_of_toNat_eq h.symm)
  simp [List.getD_eq_getElem?_getD, List.getElem?_set_ne this]

theorem BodyKeeps.alu2 (rd rs : Reg) (a b : BitVec 4 → BitVec 4 → Bool) (f : TWord → TWord → BitVec 6 → TWord × BitVec 6) :
    BodyKeeps c (· ≠ rd) u (alu2 c rd rs a b f u) := by
  unfold Machine.alu2 need2 Body.done Body.fault
  dsimp only
  repeat' split
  all_goals first | trivial | exact CoreFrame.result _ _ _

theorem BodyKeeps.alu1 (rd : Reg) (a : BitVec 4 → Bool) (f : TWord → BitVec 6 → TWord × BitVec 6) :
    BodyKeeps c (· ≠ rd) u (alu1 c rd a f u) := by
  unfold Machine.alu1 need Body.done Body.fault
  dsimp only
  repeat' split
  all_goals first | trivial | exact CoreFrame.result _ _ _

end Frame

/-! ## Traps -/

/-- The slots that pass leave the budget and the mode. -/
theorem Issues.budget (h : Issues s i w u) :
    (u.cell i.cell).sp.cycBud = (s.cell i.cell).sp.cycBud ∧ pmode (u.cell i.cell) = pmode (s.cell i.cell) := by
  obtain ⟨x, ⟨-, h2, -⟩, -, -, -, -, rfl⟩ := h
  have hc : x.cell i.cell = s.cell i.cell := by
    have := State.coreParts_fetchSlot s i.cell ((s.cell i.cell).pc.toNat + (s.cell i.cell).run.latched.toNat) (i.ext.length + 1)
    rw [h2] at this
    simp only [State.coreParts, Prod.mk.injEq] at this
    unfold State.cell; rw [this.1]
  by_cases hl : i.cell.val < x.cells.length
  · rw [show ∀ f, (x.modCell i.cell f).cell i.cell = f (x.cell i.cell) from fun f => getD_modify_self hl, hc]
    have hs := Cell.slots_mode (s.cell i.cell) ((s.cell i.cell).slotsOf i)
    dsimp only
    split
    · refine ⟨hs.1, ?_⟩
      show (((s.cell i.cell).slots _).sp.stat &&& 0x7).getLsbD 0 = (s.cell i.cell).sp.stat.getLsbD 0
      rw [hs.2]; simp
    · exact ⟨hs.1, by unfold pmode; rw [hs.2]⟩
  · rw [show ∀ f, (x.modCell i.cell f).cell i.cell = x.cell i.cell from fun f => by
      unfold State.cell State.modCell at'; dsimp only; rw [List.modify_eq_self (by omega)], hc]
    exact ⟨rfl, rfl⟩

/-- Cycles that the budget holds are charged. -/
theorem charged_of {c : CellId} {n : Nat} {f : State → State} (h : pmode (u.cell c) = true → n ≤ (u.cell c).sp.cycBud.toNat) :
    u.charged c n f = f (u.paid c n) := by
  unfold State.charged State.paid spend
  dsimp only
  split
  · rw [if_neg (by have := h ‹_›; omega)]
  · rfl

/-- An instruction that issues and raises a trap takes it once its cycles are charged (R145, R146). -/
theorem issue_of_fault {c d g o : Nat} {after : Bool} (h : Issues s i w u) (ha : Affords s i 1) (hb : body u = .trap c d g o after 0) :
    s.issue i w body = .next ((u.paid i.cell ((s.cell i.cell).slotsOf i)).trap i.cell c d g o
      (if after then (s.cell i.cell).pc + BitVec.ofNat 14 (i.ext.length + 1) else (s.cell i.cell).pc)) := by
  have hp := h.budget
  obtain ⟨x, ⟨h1, h2, h3, h4, h5⟩, h6, h7, h8, h9, hu⟩ := h
  have h9' : ¬ 3 < i.ext.length := by omega
  unfold State.issue
  simp only [h1, h2, h3, h4, h5, h6, h7, h8, h9', Bool.not_true, Bool.false_eq_true, if_false, ne_eq, reduceCtorEq, not_true,
    and_false, false_and, or_self, not_false_eq_true]
  unfold Cell.slotsOf at hu
  rw [← hu, hb]
  dsimp only
  unfold Cell.slotsOf
  rw [charged_of]
  · rfl
  · rw [hp.1, hp.2]
    intro hm
    have := ha hm
    unfold Cell.slotsOf at this
    omega

end Sys2Proof.Machine
end

