-- ==== Sys2Proof/Laws/Maps.lean ====
section
/-!
SUPPORT. The laws of sparse tables: a stored value is read back, other keys keep theirs, and the canonical form is kept.
-/

namespace Sys2Proof.Machine

variable {α : Type} [DecidableEq α] {d : Nat → α}

/-- Every key of a table is greater than `k`. -/
def SMap.Above (k : Nat) (m : SMap α) : Prop := ∀ p ∈ m, k < p.1

theorem SMap.wf_tail {p : Nat × α} {m : SMap α} (h : SMap.wf d (p :: m) = true) : SMap.wf d m = true := by
  cases m with
  | nil => rfl
  | cons q r => simp only [SMap.wf, Bool.and_eq_true] at h; exact h.2

theorem SMap.wf_above {k : Nat} {v : α} {m : SMap α} (h : SMap.wf d ((k, v) :: m) = true) : SMap.Above k m := by
  induction m generalizing k v with
  | nil => intro p hp; cases hp
  | cons q r ih =>
    obtain ⟨j, w⟩ := q
    simp only [SMap.wf, Bool.and_eq_true, decide_eq_true_eq] at h
    intro p hp
    rcases List.mem_cons.1 hp with rfl | hr
    · exact h.1.2
    · exact lt_trans h.1.2 (ih h.2 p hr)

theorem SMap.wf_head {k : Nat} {v : α} {m : SMap α} (h : SMap.wf d ((k, v) :: m) = true) : v ≠ d k := by
  cases m with
  | nil => simpa [SMap.wf] using h
  | cons q r => simp only [SMap.wf, Bool.and_eq_true, decide_eq_true_eq] at h; exact h.1.1

theorem SMap.wf_cons {k : Nat} {v : α} {m : SMap α} (hv : v ≠ d k) (ha : SMap.Above k m) (hm : SMap.wf d m = true) :
    SMap.wf d ((k, v) :: m) = true := by
  cases m with
  | nil => simpa [SMap.wf] using hv
  | cons q r =>
    simp only [SMap.wf, Bool.and_eq_true, decide_eq_true_eq]
    exact ⟨⟨hv, ha q List.mem_cons_self⟩, hm⟩

omit [DecidableEq α] in
theorem SMap.get_above {k : Nat} {m : SMap α} (h : SMap.Above k m) : SMap.get d m k = d k := by
  cases m with
  | nil => rfl
  | cons q r =>
    have := h q List.mem_cons_self
    simp only [SMap.get, Nat.ne_of_gt this, this, if_true, if_false]

theorem SMap.set_above {j k : Nat} {x : α} {m : SMap α} (h : SMap.Above j m) (hk : j < k) :
    SMap.Above j (SMap.set d m k x) := by
  induction m with
  | nil => simp only [SMap.set]; split <;> intro p hp <;> simp_all
  | cons q r ih =>
    obtain ⟨i, v⟩ := q
    have hr : SMap.Above j r := fun p hp => h p (List.mem_cons_of_mem _ hp)
    have hi : j < i := h (i, v) List.mem_cons_self
    simp only [SMap.set]
    split_ifs <;> intro p hp
    · exact h p hp
    · rcases List.mem_cons.1 hp with rfl | hp
      · exact hk
      · exact h p hp
    · exact hr p hp
    · rcases List.mem_cons.1 hp with rfl | hp
      · exact hk
      · exact hr p hp
    · rcases List.mem_cons.1 hp with rfl | hp
      · exact hi
      · exact ih hr p hp

/-- The canonical form is kept by every store. -/
theorem SMap.wf_set {k : Nat} {x : α} {m : SMap α} (h : SMap.wf d m = true) : SMap.wf d (SMap.set d m k x) = true := by
  induction m with
  | nil => simp only [SMap.set]; split <;> simp_all [SMap.wf]
  | cons q r ih =>
    obtain ⟨i, v⟩ := q
    have ha := SMap.wf_above h
    have ht := SMap.wf_tail h
    simp only [SMap.set]
    split_ifs with h1 h2 h3 h4
    · exact h
    · refine SMap.wf_cons h2 ?_ h
      intro p hp
      rcases List.mem_cons.1 hp with rfl | hp
      · exact h1
      · exact lt_trans h1 (ha p hp)
    · exact ht
    · exact SMap.wf_cons h4 (h3 ▸ ha) ht
    · exact SMap.wf_cons (SMap.wf_head h) (SMap.set_above ha (by omega)) (ih ht)

/-- A stored value is read back. -/
theorem SMap.get_set_self {k : Nat} {x : α} {m : SMap α} (h : SMap.wf d m = true) :
    SMap.get d (SMap.set d m k x) k = x := by
  induction m with
  | nil => simp only [SMap.set]; split <;> simp_all [SMap.get]
  | cons q r ih =>
    obtain ⟨i, v⟩ := q
    simp only [SMap.set]
    split_ifs with h1 h2 h3 h4
    · simp only [SMap.get, Nat.ne_of_gt h1, h1, if_true, if_false, h2]
    · simp [SMap.get]
    · rw [SMap.get_above (h3 ▸ SMap.wf_above h), h4]
    · simp [SMap.get]
    · have hlt : i < k := by omega
      simp only [SMap.get, Nat.ne_of_lt hlt, if_false, h1, ih (SMap.wf_tail h)]

/-- Every other key keeps its value. -/
theorem SMap.get_set_ne {j k : Nat} {x : α} {m : SMap α} (h : SMap.wf d m = true) (hne : j ≠ k) :
    SMap.get d (SMap.set d m k x) j = SMap.get d m j := by
  induction m with
  | nil =>
    simp only [SMap.set]
    split
    · rfl
    · simp only [SMap.get, Ne.symm hne, if_false]; split <;> rfl
  | cons q r ih =>
    obtain ⟨i, v⟩ := q
    have ha := SMap.wf_above h
    simp only [SMap.set]
    split_ifs with h1 h2 h3 h4
    · rfl
    · simp only [SMap.get, Ne.symm hne, if_false]
      split_ifs with h5 h6 h7 <;> first | rfl | omega
    · subst h3
      simp only [SMap.get, Ne.symm hne, if_false]
      split_ifs with h5
      · exact SMap.get_above fun p hp => lt_trans h5 (ha p hp)
      · rfl
    · subst h3
      simp only [SMap.get, Ne.symm hne, if_false]
    · simp only [SMap.get, ih (SMap.wf_tail h)]

/-- Dropping entries keeps the canonical form. -/
theorem SMap.wf_filter {f : Nat × α → Bool} {m : SMap α} (h : SMap.wf d m = true) : SMap.wf d (m.filter f) = true := by
  induction m with
  | nil => rfl
  | cons q r ih =>
    obtain ⟨i, v⟩ := q
    simp only [List.filter]
    split
    · exact SMap.wf_cons (SMap.wf_head h) (fun p hp => SMap.wf_above h p (List.mem_of_mem_filter hp)) (ih (SMap.wf_tail h))
    · exact ih (SMap.wf_tail h)

/-! ## Registers -/

/-- A register holds what was last stored in it. -/
theorem State.reg_setReg_self {s : State} {k : Nat} {v : Word}
    (h : SMap.wf (fun k => resetOf (k / 4096) (k % 4096)) s.pages.regs = true) : (s.setReg k v).reg k = v :=
  SMap.get_set_self h

/-- Storing a register leaves every other register as it is. -/
theorem State.reg_setReg_ne {s : State} {j k : Nat} {v : Word}
    (h : SMap.wf (fun k => resetOf (k / 4096) (k % 4096)) s.pages.regs = true) (hne : j ≠ k) :
    (s.setReg k v).reg j = s.reg j :=
  SMap.get_set_ne h hne

end Sys2Proof.Machine
end

