-- ==== Sys2Proof/Laws/Registers.lean ====
section
/-!
SUPPORT. What the shared operations make of the registers: they keep the canonical form, and the delivery of events, counters, error capture
and refused accesses leave every quiet register as it is.
-/

namespace Sys2Proof.Machine

/-- `t` follows from `s` with the canonical form kept and the registers of `keys` unchanged. -/
structure Leaves (keys : Nat → Prop) (s t : State) : Prop where
  run : s.Canonical → t.Canonical ∧ ∀ k, keys k → t.reg k = s.reg k

variable {keys : Nat → Prop} {s t u : State}


theorem Leaves.refl : Leaves keys s s := ⟨fun h => ⟨h, fun _ _ => rfl⟩⟩

theorem Leaves.trans (h1 : Leaves keys s t) (h2 : Leaves keys t u) : Leaves keys s u := ⟨fun h =>
  have a := h1.run h
  have b := h2.run a.1
  ⟨b.1, fun k hk => (b.2 k hk).trans (a.2 k hk)⟩⟩

/-- A change that touches no register. -/
theorem Leaves.of_regs (h1 : Leaves keys s t) (h : u.pages.regs = t.pages.regs) : Leaves keys s u :=
  h1.trans ⟨fun hc => ⟨by unfold State.Canonical at *; rw [h]; exact hc, fun _ _ => by unfold State.reg; rw [h]⟩⟩

/-- Storing a register outside the kept ones. -/
theorem Leaves.setReg (h1 : Leaves keys s t) {j : Nat} {v : Word} (hj : ¬ keys j) : Leaves keys s (t.setReg j v) :=
  h1.trans ⟨fun hc => ⟨SMap.wf_set hc, fun _ hk => State.reg_setReg_ne hc fun e => hj (e ▸ hk)⟩⟩

/-- Fewer registers are asked for. -/
theorem Leaves.mono {keys' : Nat → Prop} (h : Leaves keys s t) (hk : ∀ k, keys' k → keys k) : Leaves keys' s t :=
  ⟨fun hc => ⟨(h.run hc).1, fun k hq => (h.run hc).2 k (hk k hq)⟩⟩

theorem not_quiet_off {page off : Nat} (h2 : off < 4096) (h : off = 0x20 ∨ 0x40 ≤ off ∧ off < 0x60 ∨ 0xF00 ≤ off) :
    ¬ QuietReg (page * 4096 + off) := by
  unfold QuietReg; rintro ⟨h3, h4, h5, -⟩; omega

theorem not_quiet_wake {k : Nat} (h : k ∈ [CLK_STAT, CLK_RUN0, EVT_FIRST0, EVT_FIRST1, EVT_FIRST2]) : ¬ QuietReg k :=
  fun hq => hq.2.2.2 h

theorem Leaves.startWosc (h : Leaves QuietReg s t) : Leaves QuietReg s t.startWosc := by
  unfold State.startWosc
  exact Leaves.of_regs ((h.setReg (not_quiet_wake (by decide))).setReg (not_quiet_wake (by decide))) rfl

theorem Leaves.alert (h : Leaves keys s t) (p : Nat) : Leaves keys s (t.alert p) := by
  unfold State.alert; dsimp only; split <;> exact Leaves.of_regs h rfl

theorem Leaves.sendVector (h : Leaves keys s t) (f : Fun) (v : Nat) : Leaves keys s (t.sendVector f v) := by
  unfold State.sendVector; split <;> exact Leaves.of_regs h rfl

theorem Leaves.sendVectors (h : Leaves keys s t) (f : Fun) (v n : Nat) : Leaves keys s (t.sendVectors f v n) := by
  induction n with
  | zero => exact h
  | succ n ih => exact ih.sendVector f v

theorem Leaves.signal (h : Leaves QuietReg s t) (p n : Nat) : Leaves QuietReg s (t.signal p n).1 := by
  unfold State.signal
  repeat' split
  all_goals first | exact h | exact h.sendVectors _ _ _ | exact h.startWosc | exact h.alert _

theorem Leaves.setRaw (h : Leaves QuietReg s t) (p : Nat) (m : Word) : Leaves QuietReg s (t.setRaw p m).1 := by
  unfold State.setRaw
  have h1 : Leaves QuietReg s (t.setReg (EV_RAW p) (t.reg (EV_RAW p) ||| m)) :=
    h.setReg (not_quiet_off (by decide) (by decide))
  dsimp only
  split
  · exact h1
  · have h2 := h1.signal p (bitCount (m &&& ~~~t.reg (EV_RAW p) &&& t.reg (EV_ENABLE p)))
    split <;> (next e => simpa only [e] using h2)

theorem Leaves.countRaw (h : Leaves QuietReg s t) {p k n : Nat} (hk : k ≤ 61) : Leaves QuietReg s (t.countRaw p k n).1 := by
  have h1 : Leaves QuietReg s (t.setReg (p * 4096 + 0xF08 + 4 * k)
      (BitVec.ofNat 32 (min ((t.reg (p * 4096 + 0xF08 + 4 * k)).toNat + n) 0xFFFFFFFF))) :=
    h.setReg (by have := not_quiet_off (page := p) (off := 0xF08 + 4 * k) (by omega) (by omega)
                 rwa [← Nat.add_assoc] at this)
  unfold State.countRaw
  dsimp only
  split
  · exact h1.setReg (by have := not_quiet_off (page := p) (off := 0xF00 + 4 * (k / 32)) (by omega) (by omega)
                        rwa [← Nat.add_assoc] at this)
  · exact h1

theorem Leaves.raiseMask (h : Leaves QuietReg s t) (p : Nat) (m : Word) : Leaves QuietReg s (t.raiseMask p m) := by
  have h1 := h.setRaw p m
  unfold State.raiseMask
  split
  · next e => simpa only [e] using h1
  · next u n _ e =>
    have h2 : Leaves QuietReg s (u.countRaw 5 8 n).1 := Leaves.countRaw (by simpa only [e] using h1) (by decide)
    split
    · next e' => simpa only [e'] using h2
    · next e' => exact Leaves.setRaw (by simpa only [e'] using h2) _ _

theorem Leaves.raise (h : Leaves QuietReg s t) (p k : Nat) : Leaves QuietReg s (t.raise p k) := h.raiseMask _ _

theorem Leaves.count (h : Leaves QuietReg s t) {p k n : Nat} (hk : k ≤ 61) : Leaves QuietReg s (t.count p k n) := by
  have h1 := h.countRaw (p := p) (n := n) hk
  unfold State.count
  split
  · next e => exact Leaves.raise (by simpa only [e] using h1) _ _
  · next e => simpa only [e] using h1

theorem Leaves.count64 (h : Leaves QuietReg s t) {p k n : Nat} (hk : k ≤ 60) : Leaves QuietReg s (t.count64 p k n) := by
  have e1 : ¬ QuietReg (p * 4096 + 0xF08 + 4 * k) := by
    have := not_quiet_off (page := p) (off := 0xF08 + 4 * k) (by omega) (by omega)
    rwa [← Nat.add_assoc] at this
  have e2 : ¬ QuietReg (p * 4096 + 0xF08 + 4 * k + 4) := by
    have := not_quiet_off (page := p) (off := 0xF08 + 4 * k + 4) (by omega) (by omega)
    simpa only [Nat.add_assoc] using this
  have e3 : ¬ QuietReg (p * 4096 + 0xF00) := not_quiet_off (by decide) (by decide)
  unfold State.count64
  dsimp only
  split
  · exact (((h.setReg e1).setReg e2).setReg e3).raise _ _
  · exact (h.setReg e1).setReg e2

theorem Leaves.error (h : Leaves QuietReg s t) (p code : Nat) (m : Option Master) (c1 c2 c3 c6 c7 : Word) :
    Leaves QuietReg s (t.error p code m c1 c2 c3 c6 c7) := by
  have h0 : Leaves QuietReg s (t.count p 0 1) := h.count (by decide)
  have hd : ∀ o, 0x40 ≤ o → o < 0x60 → ¬ QuietReg (p * 4096 + o) := fun o h1 h2 => not_quiet_off (by omega) (by omega)
  have a0 : ¬ QuietReg (ERR_CAP0 p) := hd 0x40 (by decide) (by decide)
  have a1 : ¬ QuietReg (ERR_CAP1 p) := hd 0x44 (by decide) (by decide)
  have a2 : ¬ QuietReg (ERR_CAP2 p) := hd 0x48 (by decide) (by decide)
  have a3 : ¬ QuietReg (ERR_CAP3 p) := hd 0x4C (by decide) (by decide)
  have a4 : ¬ QuietReg (ERR_CAP4 p) := hd 0x50 (by decide) (by decide)
  have a5 : ¬ QuietReg (ERR_CAP5 p) := hd 0x54 (by decide) (by decide)
  have a6 : ¬ QuietReg (ERR_CAP6 p) := hd 0x58 (by decide) (by decide)
  have a7 : ¬ QuietReg (ERR_CAP7 p) := hd 0x5C (by decide) (by decide)
  have e0 : ¬ QuietReg EVT_FIRST0 := not_quiet_wake (by decide)
  have e1 : ¬ QuietReg EVT_FIRST1 := not_quiet_wake (by decide)
  have e2 : ¬ QuietReg EVT_FIRST2 := not_quiet_wake (by decide)
  unfold State.error
  dsimp only
  split
  · exact h0.setReg a0
  · refine Leaves.raise ?_ _ _
    split
    · exact (((((((h0.setReg a0).setReg a1).setReg a2).setReg a3).setReg a4).setReg a5).setReg a6).setReg a7
    · exact ((((((((((h0.setReg a0).setReg a1).setReg a2).setReg a3).setReg a4).setReg a5).setReg a6).setReg a7).setReg e0).setReg
        e1).setReg e2

theorem Leaves.blockError (h : Leaves QuietReg s t) (p code : Nat) (c1 c2 c3 : Word) :
    Leaves QuietReg s (t.blockError p code c1 c2 c3) := h.error _ _ _ _ _ _ _ _

theorem quietReg_pgStat (p : Nat) : QuietReg (PG_STAT p) := by
  unfold QuietReg PG_STAT CLK_STAT CLK_RUN0 EVT_FIRST0 EVT_FIRST1 EVT_FIRST2
  refine ⟨by omega, by omega, by omega, fun h => ?_⟩
  simp only [List.mem_cons, List.not_mem_nil, or_false] at h
  omega

theorem State.setStat_leaves {p k : Nat} : Leaves (fun j => QuietReg j ∧ j ≠ PG_STAT p) s (s.setStat p k) := by
  unfold State.setStat
  have h1 : Leaves (fun j => QuietReg j ∧ j ≠ PG_STAT p) s (s.setReg (PG_STAT p) (setBit (s.reg (PG_STAT p)) k true)) :=
    Leaves.refl.setReg fun h => h.2 rfl
  dsimp only
  split
  · exact h1.trans ((Leaves.refl.raise _ _).mono fun _ h => h.1)
  · exact h1

theorem State.setStat_pgStat {p k : Nat} (hc : s.Canonical) :
    (s.setStat p k).reg (PG_STAT p) = setBit (s.reg (PG_STAT p)) k true := by
  have h1 : (s.setReg (PG_STAT p) (setBit (s.reg (PG_STAT p)) k true)).Canonical := SMap.wf_set hc
  unfold State.setStat
  dsimp only
  split
  · rw [((Leaves.refl.raise _ _).run h1).2 _ (quietReg_pgStat p), State.reg_setReg_self hc]
  · exact State.reg_setReg_self hc

theorem Leaves.countError (h : Leaves QuietReg s t) (p code : Nat) (m : Option Master) (c1 c2 c3 c6 c7 : Word) :
    Leaves QuietReg s ((t.count p 1 1).error p code m c1 c2 c3 c6 c7) :=
  (h.count (by decide)).error _ _ _ _ _ _ _ _

/-- A refused access changes no quiet register but its page's PG_STAT. -/
theorem State.accessFail_leaves {p k code : Nat} {m : Master} {off : Nat} {v : Word} :
    Leaves (fun j => QuietReg j ∧ j ≠ PG_STAT p) s (s.accessFail p k code m off v) :=
  State.setStat_leaves.trans ((Leaves.refl.countError _ _ _ _ _ _ _ _).mono fun _ h => h.1)

/-- The status bit of a refused access. -/
theorem State.accessFail_pgStat {p k code : Nat} {m : Master} {off : Nat} {v : Word} (hc : s.Canonical) :
    (s.accessFail p k code m off v).reg (PG_STAT p) = setBit (s.reg (PG_STAT p)) k true := by
  have h1 : (s.setStat p k).Canonical := (State.setStat_leaves.run hc).1
  unfold State.accessFail
  rw [((Leaves.refl.countError _ _ _ _ _ _ _ _).run h1).2 _ (quietReg_pgStat p), State.setStat_pgStat hc]

theorem Leaves.refuse (h : Leaves QuietReg s t) (p code : Nat) (m : Master) (off : Nat) (v : Word) :
    Leaves QuietReg s (t.refuse p code m off v) := h.error _ _ _ _ _ _ _ _

theorem Leaves.arrive (h : Leaves QuietReg s t) (m : Master) : Leaves QuietReg s (t.arrive m) := by
  unfold State.arrive
  repeat' split
  all_goals first | exact h | exact h.count64 (by decide)

end Sys2Proof.Machine
end

