-- ==== Sys2Proof/Laws/State.lean ====
section
/-!
SUPPORT. What each basic update leaves as it is: one lemma per field and update, true by definition, so that no later proof unfolds a record
update; and what the delivery of events can touch.
-/

namespace Sys2Proof.Machine

set_option Elab.async false

variable (s : State)

/-! ## setReg -/

@[simp] theorem State.setReg_pending (k : Nat) (v : Word) : (s.setReg k v).pending = s.pending := rfl
@[simp] theorem State.setReg_host (k : Nat) (v : Word) : (s.setReg k v).host = s.host := rfl
@[simp] theorem State.setReg_adm (k : Nat) (v : Word) : (s.setReg k v).adm = s.adm := rfl
@[simp] theorem State.setReg_prog (k : Nat) (v : Word) : (s.setReg k v).prog = s.prog := rfl
@[simp] theorem State.setReg_cells (k : Nat) (v : Word) : (s.setReg k v).cells = s.cells := rfl
@[simp] theorem State.setReg_fabric (k : Nat) (v : Word) : (s.setReg k v).fabric = s.fabric := rfl
@[simp] theorem State.setReg_ftl (k : Nat) (v : Word) : (s.setReg k v).ftl = s.ftl := rfl
@[simp] theorem State.setReg_care (k : Nat) (v : Word) : (s.setReg k v).care = s.care := rfl
@[simp] theorem State.setReg_red (k : Nat) (v : Word) : (s.setReg k v).red = s.red := rfl
@[simp] theorem State.setReg_media (k : Nat) (v : Word) : (s.setReg k v).media = s.media := rfl
@[simp] theorem State.setReg_search (k : Nat) (v : Word) : (s.setReg k v).search = s.search := rfl
@[simp] theorem State.setReg_crypto (k : Nat) (v : Word) : (s.setReg k v).crypto = s.crypto := rfl
@[simp] theorem State.setReg_dram (k : Nat) (v : Word) : (s.setReg k v).dram = s.dram := rfl
@[simp] theorem State.setReg_upsets (k : Nat) (v : Word) : (s.setReg k v).upsets = s.upsets := rfl
@[simp] theorem State.setReg_vfm (k : Nat) (v : Word) : (s.setReg k v).vfm = s.vfm := rfl
@[simp] theorem State.setReg_field (k : Nat) (v : Word) : (s.setReg k v).field = s.field := rfl
@[simp] theorem State.setReg_frl (k : Nat) (v : Word) : (s.setReg k v).frl = s.frl := rfl
@[simp] theorem State.setReg_sb (k : Nat) (v : Word) : (s.setReg k v).sb = s.sb := rfl
@[simp] theorem State.setReg_power (k : Nat) (v : Word) : (s.setReg k v).power = s.power := rfl
@[simp] theorem State.setReg_start (k : Nat) (v : Word) : (s.setReg k v).start = s.start := rfl
@[simp] theorem State.setReg_events (k : Nat) (v : Word) : (s.setReg k v).events = s.events := rfl
@[simp] theorem State.setReg_squall (k : Nat) (v : Word) : (s.setReg k v).squall = s.squall := rfl
@[simp] theorem State.setReg_fresh (k : Nat) (v : Word) : (s.setReg k v).fresh = s.fresh := rfl
@[simp] theorem State.setReg_out (k : Nat) (v : Word) : (s.setReg k v).out = s.out := rfl

/-! ## setField -/

@[simp] theorem State.setField_pending (k hi lo v : Nat) : (s.setField k hi lo v).pending = s.pending := rfl
@[simp] theorem State.setField_host (k hi lo v : Nat) : (s.setField k hi lo v).host = s.host := rfl
@[simp] theorem State.setField_adm (k hi lo v : Nat) : (s.setField k hi lo v).adm = s.adm := rfl
@[simp] theorem State.setField_prog (k hi lo v : Nat) : (s.setField k hi lo v).prog = s.prog := rfl
@[simp] theorem State.setField_cells (k hi lo v : Nat) : (s.setField k hi lo v).cells = s.cells := rfl
@[simp] theorem State.setField_fabric (k hi lo v : Nat) : (s.setField k hi lo v).fabric = s.fabric := rfl
@[simp] theorem State.setField_ftl (k hi lo v : Nat) : (s.setField k hi lo v).ftl = s.ftl := rfl
@[simp] theorem State.setField_care (k hi lo v : Nat) : (s.setField k hi lo v).care = s.care := rfl
@[simp] theorem State.setField_red (k hi lo v : Nat) : (s.setField k hi lo v).red = s.red := rfl
@[simp] theorem State.setField_media (k hi lo v : Nat) : (s.setField k hi lo v).media = s.media := rfl
@[simp] theorem State.setField_search (k hi lo v : Nat) : (s.setField k hi lo v).search = s.search := rfl
@[simp] theorem State.setField_crypto (k hi lo v : Nat) : (s.setField k hi lo v).crypto = s.crypto := rfl
@[simp] theorem State.setField_dram (k hi lo v : Nat) : (s.setField k hi lo v).dram = s.dram := rfl
@[simp] theorem State.setField_upsets (k hi lo v : Nat) : (s.setField k hi lo v).upsets = s.upsets := rfl
@[simp] theorem State.setField_vfm (k hi lo v : Nat) : (s.setField k hi lo v).vfm = s.vfm := rfl
@[simp] theorem State.setField_field (k hi lo v : Nat) : (s.setField k hi lo v).field = s.field := rfl
@[simp] theorem State.setField_frl (k hi lo v : Nat) : (s.setField k hi lo v).frl = s.frl := rfl
@[simp] theorem State.setField_sb (k hi lo v : Nat) : (s.setField k hi lo v).sb = s.sb := rfl
@[simp] theorem State.setField_power (k hi lo v : Nat) : (s.setField k hi lo v).power = s.power := rfl
@[simp] theorem State.setField_start (k hi lo v : Nat) : (s.setField k hi lo v).start = s.start := rfl
@[simp] theorem State.setField_events (k hi lo v : Nat) : (s.setField k hi lo v).events = s.events := rfl
@[simp] theorem State.setField_squall (k hi lo v : Nat) : (s.setField k hi lo v).squall = s.squall := rfl
@[simp] theorem State.setField_fresh (k hi lo v : Nat) : (s.setField k hi lo v).fresh = s.fresh := rfl
@[simp] theorem State.setField_out (k hi lo v : Nat) : (s.setField k hi lo v).out = s.out := rfl

/-! ## resetPage -/

@[simp] theorem State.resetPage_pending (p : Nat) (l : List Nat) : (s.resetPage p l).pending = s.pending := rfl
@[simp] theorem State.resetPage_host (p : Nat) (l : List Nat) : (s.resetPage p l).host = s.host := rfl
@[simp] theorem State.resetPage_adm (p : Nat) (l : List Nat) : (s.resetPage p l).adm = s.adm := rfl
@[simp] theorem State.resetPage_prog (p : Nat) (l : List Nat) : (s.resetPage p l).prog = s.prog := rfl
@[simp] theorem State.resetPage_cells (p : Nat) (l : List Nat) : (s.resetPage p l).cells = s.cells := rfl
@[simp] theorem State.resetPage_fabric (p : Nat) (l : List Nat) : (s.resetPage p l).fabric = s.fabric := rfl
@[simp] theorem State.resetPage_ftl (p : Nat) (l : List Nat) : (s.resetPage p l).ftl = s.ftl := rfl
@[simp] theorem State.resetPage_care (p : Nat) (l : List Nat) : (s.resetPage p l).care = s.care := rfl
@[simp] theorem State.resetPage_red (p : Nat) (l : List Nat) : (s.resetPage p l).red = s.red := rfl
@[simp] theorem State.resetPage_media (p : Nat) (l : List Nat) : (s.resetPage p l).media = s.media := rfl
@[simp] theorem State.resetPage_search (p : Nat) (l : List Nat) : (s.resetPage p l).search = s.search := rfl
@[simp] theorem State.resetPage_crypto (p : Nat) (l : List Nat) : (s.resetPage p l).crypto = s.crypto := rfl
@[simp] theorem State.resetPage_dram (p : Nat) (l : List Nat) : (s.resetPage p l).dram = s.dram := rfl
@[simp] theorem State.resetPage_upsets (p : Nat) (l : List Nat) : (s.resetPage p l).upsets = s.upsets := rfl
@[simp] theorem State.resetPage_vfm (p : Nat) (l : List Nat) : (s.resetPage p l).vfm = s.vfm := rfl
@[simp] theorem State.resetPage_field (p : Nat) (l : List Nat) : (s.resetPage p l).field = s.field := rfl
@[simp] theorem State.resetPage_frl (p : Nat) (l : List Nat) : (s.resetPage p l).frl = s.frl := rfl
@[simp] theorem State.resetPage_sb (p : Nat) (l : List Nat) : (s.resetPage p l).sb = s.sb := rfl
@[simp] theorem State.resetPage_power (p : Nat) (l : List Nat) : (s.resetPage p l).power = s.power := rfl
@[simp] theorem State.resetPage_start (p : Nat) (l : List Nat) : (s.resetPage p l).start = s.start := rfl
@[simp] theorem State.resetPage_events (p : Nat) (l : List Nat) : (s.resetPage p l).events = s.events := rfl
@[simp] theorem State.resetPage_squall (p : Nat) (l : List Nat) : (s.resetPage p l).squall = s.squall := rfl
@[simp] theorem State.resetPage_fresh (p : Nat) (l : List Nat) : (s.resetPage p l).fresh = s.fresh := rfl
@[simp] theorem State.resetPage_out (p : Nat) (l : List Nat) : (s.resetPage p l).out = s.out := rfl

/-! ## emit -/

@[simp] theorem State.emit_pending (o : Out) : (s.emit o).pending = s.pending := rfl
@[simp] theorem State.emit_pages (o : Out) : (s.emit o).pages = s.pages := rfl
@[simp] theorem State.emit_host (o : Out) : (s.emit o).host = s.host := rfl
@[simp] theorem State.emit_adm (o : Out) : (s.emit o).adm = s.adm := rfl
@[simp] theorem State.emit_prog (o : Out) : (s.emit o).prog = s.prog := rfl
@[simp] theorem State.emit_cells (o : Out) : (s.emit o).cells = s.cells := rfl
@[simp] theorem State.emit_fabric (o : Out) : (s.emit o).fabric = s.fabric := rfl
@[simp] theorem State.emit_ftl (o : Out) : (s.emit o).ftl = s.ftl := rfl
@[simp] theorem State.emit_care (o : Out) : (s.emit o).care = s.care := rfl
@[simp] theorem State.emit_red (o : Out) : (s.emit o).red = s.red := rfl
@[simp] theorem State.emit_media (o : Out) : (s.emit o).media = s.media := rfl
@[simp] theorem State.emit_search (o : Out) : (s.emit o).search = s.search := rfl
@[simp] theorem State.emit_crypto (o : Out) : (s.emit o).crypto = s.crypto := rfl
@[simp] theorem State.emit_dram (o : Out) : (s.emit o).dram = s.dram := rfl
@[simp] theorem State.emit_upsets (o : Out) : (s.emit o).upsets = s.upsets := rfl
@[simp] theorem State.emit_vfm (o : Out) : (s.emit o).vfm = s.vfm := rfl
@[simp] theorem State.emit_field (o : Out) : (s.emit o).field = s.field := rfl
@[simp] theorem State.emit_frl (o : Out) : (s.emit o).frl = s.frl := rfl
@[simp] theorem State.emit_sb (o : Out) : (s.emit o).sb = s.sb := rfl
@[simp] theorem State.emit_power (o : Out) : (s.emit o).power = s.power := rfl
@[simp] theorem State.emit_start (o : Out) : (s.emit o).start = s.start := rfl
@[simp] theorem State.emit_events (o : Out) : (s.emit o).events = s.events := rfl
@[simp] theorem State.emit_squall (o : Out) : (s.emit o).squall = s.squall := rfl
@[simp] theorem State.emit_fresh (o : Out) : (s.emit o).fresh = s.fresh := rfl

/-! ## modCell -/

@[simp] theorem State.modCell_pending (c : CellId) (f : Cell → Cell) : (s.modCell c f).pending = s.pending := rfl
@[simp] theorem State.modCell_pages (c : CellId) (f : Cell → Cell) : (s.modCell c f).pages = s.pages := rfl
@[simp] theorem State.modCell_host (c : CellId) (f : Cell → Cell) : (s.modCell c f).host = s.host := rfl
@[simp] theorem State.modCell_adm (c : CellId) (f : Cell → Cell) : (s.modCell c f).adm = s.adm := rfl
@[simp] theorem State.modCell_prog (c : CellId) (f : Cell → Cell) : (s.modCell c f).prog = s.prog := rfl
@[simp] theorem State.modCell_fabric (c : CellId) (f : Cell → Cell) : (s.modCell c f).fabric = s.fabric := rfl
@[simp] theorem State.modCell_ftl (c : CellId) (f : Cell → Cell) : (s.modCell c f).ftl = s.ftl := rfl
@[simp] theorem State.modCell_care (c : CellId) (f : Cell → Cell) : (s.modCell c f).care = s.care := rfl
@[simp] theorem State.modCell_red (c : CellId) (f : Cell → Cell) : (s.modCell c f).red = s.red := rfl
@[simp] theorem State.modCell_media (c : CellId) (f : Cell → Cell) : (s.modCell c f).media = s.media := rfl
@[simp] theorem State.modCell_search (c : CellId) (f : Cell → Cell) : (s.modCell c f).search = s.search := rfl
@[simp] theorem State.modCell_crypto (c : CellId) (f : Cell → Cell) : (s.modCell c f).crypto = s.crypto := rfl
@[simp] theorem State.modCell_dram (c : CellId) (f : Cell → Cell) : (s.modCell c f).dram = s.dram := rfl
@[simp] theorem State.modCell_upsets (c : CellId) (f : Cell → Cell) : (s.modCell c f).upsets = s.upsets := rfl
@[simp] theorem State.modCell_vfm (c : CellId) (f : Cell → Cell) : (s.modCell c f).vfm = s.vfm := rfl
@[simp] theorem State.modCell_field (c : CellId) (f : Cell → Cell) : (s.modCell c f).field = s.field := rfl
@[simp] theorem State.modCell_frl (c : CellId) (f : Cell → Cell) : (s.modCell c f).frl = s.frl := rfl
@[simp] theorem State.modCell_sb (c : CellId) (f : Cell → Cell) : (s.modCell c f).sb = s.sb := rfl
@[simp] theorem State.modCell_power (c : CellId) (f : Cell → Cell) : (s.modCell c f).power = s.power := rfl
@[simp] theorem State.modCell_start (c : CellId) (f : Cell → Cell) : (s.modCell c f).start = s.start := rfl
@[simp] theorem State.modCell_events (c : CellId) (f : Cell → Cell) : (s.modCell c f).events = s.events := rfl
@[simp] theorem State.modCell_squall (c : CellId) (f : Cell → Cell) : (s.modCell c f).squall = s.squall := rfl
@[simp] theorem State.modCell_fresh (c : CellId) (f : Cell → Cell) : (s.modCell c f).fresh = s.fresh := rfl
@[simp] theorem State.modCell_out (c : CellId) (f : Cell → Cell) : (s.modCell c f).out = s.out := rfl

/-! ## modCtrl -/

@[simp] theorem State.modCtrl_pending (f : Fun) (g : Ctrl → Ctrl) : (s.modCtrl f g).pending = s.pending := rfl
@[simp] theorem State.modCtrl_pages (f : Fun) (g : Ctrl → Ctrl) : (s.modCtrl f g).pages = s.pages := rfl
@[simp] theorem State.modCtrl_adm (f : Fun) (g : Ctrl → Ctrl) : (s.modCtrl f g).adm = s.adm := rfl
@[simp] theorem State.modCtrl_prog (f : Fun) (g : Ctrl → Ctrl) : (s.modCtrl f g).prog = s.prog := rfl
@[simp] theorem State.modCtrl_cells (f : Fun) (g : Ctrl → Ctrl) : (s.modCtrl f g).cells = s.cells := rfl
@[simp] theorem State.modCtrl_fabric (f : Fun) (g : Ctrl → Ctrl) : (s.modCtrl f g).fabric = s.fabric := rfl
@[simp] theorem State.modCtrl_ftl (f : Fun) (g : Ctrl → Ctrl) : (s.modCtrl f g).ftl = s.ftl := rfl
@[simp] theorem State.modCtrl_care (f : Fun) (g : Ctrl → Ctrl) : (s.modCtrl f g).care = s.care := rfl
@[simp] theorem State.modCtrl_red (f : Fun) (g : Ctrl → Ctrl) : (s.modCtrl f g).red = s.red := rfl
@[simp] theorem State.modCtrl_media (f : Fun) (g : Ctrl → Ctrl) : (s.modCtrl f g).media = s.media := rfl
@[simp] theorem State.modCtrl_search (f : Fun) (g : Ctrl → Ctrl) : (s.modCtrl f g).search = s.search := rfl
@[simp] theorem State.modCtrl_crypto (f : Fun) (g : Ctrl → Ctrl) : (s.modCtrl f g).crypto = s.crypto := rfl
@[simp] theorem State.modCtrl_dram (f : Fun) (g : Ctrl → Ctrl) : (s.modCtrl f g).dram = s.dram := rfl
@[simp] theorem State.modCtrl_upsets (f : Fun) (g : Ctrl → Ctrl) : (s.modCtrl f g).upsets = s.upsets := rfl
@[simp] theorem State.modCtrl_vfm (f : Fun) (g : Ctrl → Ctrl) : (s.modCtrl f g).vfm = s.vfm := rfl
@[simp] theorem State.modCtrl_field (f : Fun) (g : Ctrl → Ctrl) : (s.modCtrl f g).field = s.field := rfl
@[simp] theorem State.modCtrl_frl (f : Fun) (g : Ctrl → Ctrl) : (s.modCtrl f g).frl = s.frl := rfl
@[simp] theorem State.modCtrl_sb (f : Fun) (g : Ctrl → Ctrl) : (s.modCtrl f g).sb = s.sb := rfl
@[simp] theorem State.modCtrl_power (f : Fun) (g : Ctrl → Ctrl) : (s.modCtrl f g).power = s.power := rfl
@[simp] theorem State.modCtrl_start (f : Fun) (g : Ctrl → Ctrl) : (s.modCtrl f g).start = s.start := rfl
@[simp] theorem State.modCtrl_events (f : Fun) (g : Ctrl → Ctrl) : (s.modCtrl f g).events = s.events := rfl
@[simp] theorem State.modCtrl_squall (f : Fun) (g : Ctrl → Ctrl) : (s.modCtrl f g).squall = s.squall := rfl
@[simp] theorem State.modCtrl_fresh (f : Fun) (g : Ctrl → Ctrl) : (s.modCtrl f g).fresh = s.fresh := rfl
@[simp] theorem State.modCtrl_out (f : Fun) (g : Ctrl → Ctrl) : (s.modCtrl f g).out = s.out := rfl

/-! ## modLogs -/

@[simp] theorem State.modLogs_pending (f : Fun) (g : FnLogs → FnLogs) : (s.modLogs f g).pending = s.pending := rfl
@[simp] theorem State.modLogs_pages (f : Fun) (g : FnLogs → FnLogs) : (s.modLogs f g).pages = s.pages := rfl
@[simp] theorem State.modLogs_adm (f : Fun) (g : FnLogs → FnLogs) : (s.modLogs f g).adm = s.adm := rfl
@[simp] theorem State.modLogs_prog (f : Fun) (g : FnLogs → FnLogs) : (s.modLogs f g).prog = s.prog := rfl
@[simp] theorem State.modLogs_cells (f : Fun) (g : FnLogs → FnLogs) : (s.modLogs f g).cells = s.cells := rfl
@[simp] theorem State.modLogs_fabric (f : Fun) (g : FnLogs → FnLogs) : (s.modLogs f g).fabric = s.fabric := rfl
@[simp] theorem State.modLogs_ftl (f : Fun) (g : FnLogs → FnLogs) : (s.modLogs f g).ftl = s.ftl := rfl
@[simp] theorem State.modLogs_care (f : Fun) (g : FnLogs → FnLogs) : (s.modLogs f g).care = s.care := rfl
@[simp] theorem State.modLogs_red (f : Fun) (g : FnLogs → FnLogs) : (s.modLogs f g).red = s.red := rfl
@[simp] theorem State.modLogs_media (f : Fun) (g : FnLogs → FnLogs) : (s.modLogs f g).media = s.media := rfl
@[simp] theorem State.modLogs_search (f : Fun) (g : FnLogs → FnLogs) : (s.modLogs f g).search = s.search := rfl
@[simp] theorem State.modLogs_crypto (f : Fun) (g : FnLogs → FnLogs) : (s.modLogs f g).crypto = s.crypto := rfl
@[simp] theorem State.modLogs_dram (f : Fun) (g : FnLogs → FnLogs) : (s.modLogs f g).dram = s.dram := rfl
@[simp] theorem State.modLogs_upsets (f : Fun) (g : FnLogs → FnLogs) : (s.modLogs f g).upsets = s.upsets := rfl
@[simp] theorem State.modLogs_vfm (f : Fun) (g : FnLogs → FnLogs) : (s.modLogs f g).vfm = s.vfm := rfl
@[simp] theorem State.modLogs_field (f : Fun) (g : FnLogs → FnLogs) : (s.modLogs f g).field = s.field := rfl
@[simp] theorem State.modLogs_frl (f : Fun) (g : FnLogs → FnLogs) : (s.modLogs f g).frl = s.frl := rfl
@[simp] theorem State.modLogs_sb (f : Fun) (g : FnLogs → FnLogs) : (s.modLogs f g).sb = s.sb := rfl
@[simp] theorem State.modLogs_power (f : Fun) (g : FnLogs → FnLogs) : (s.modLogs f g).power = s.power := rfl
@[simp] theorem State.modLogs_start (f : Fun) (g : FnLogs → FnLogs) : (s.modLogs f g).start = s.start := rfl
@[simp] theorem State.modLogs_events (f : Fun) (g : FnLogs → FnLogs) : (s.modLogs f g).events = s.events := rfl
@[simp] theorem State.modLogs_squall (f : Fun) (g : FnLogs → FnLogs) : (s.modLogs f g).squall = s.squall := rfl
@[simp] theorem State.modLogs_fresh (f : Fun) (g : FnLogs → FnLogs) : (s.modLogs f g).fresh = s.fresh := rfl
@[simp] theorem State.modLogs_out (f : Fun) (g : FnLogs → FnLogs) : (s.modLogs f g).out = s.out := rfl

/-! ## logWarden -/

@[simp] theorem State.logWarden_pending (p : Nat) (w : Word) : (s.logWarden p w).pending = s.pending := by simp only [State.logWarden]
@[simp] theorem State.logWarden_pages (p : Nat) (w : Word) : (s.logWarden p w).pages = s.pages := by simp only [State.logWarden]
@[simp] theorem State.logWarden_host (p : Nat) (w : Word) : (s.logWarden p w).host = s.host := by simp only [State.logWarden]
@[simp] theorem State.logWarden_adm (p : Nat) (w : Word) : (s.logWarden p w).adm = s.adm := by simp only [State.logWarden]
@[simp] theorem State.logWarden_prog (p : Nat) (w : Word) : (s.logWarden p w).prog = s.prog := by simp only [State.logWarden]
@[simp] theorem State.logWarden_cells (p : Nat) (w : Word) : (s.logWarden p w).cells = s.cells := by simp only [State.logWarden]
@[simp] theorem State.logWarden_fabric (p : Nat) (w : Word) : (s.logWarden p w).fabric = s.fabric := by simp only [State.logWarden]
@[simp] theorem State.logWarden_ftl (p : Nat) (w : Word) : (s.logWarden p w).ftl = s.ftl := by simp only [State.logWarden]
@[simp] theorem State.logWarden_care (p : Nat) (w : Word) : (s.logWarden p w).care = s.care := by simp only [State.logWarden]
@[simp] theorem State.logWarden_red (p : Nat) (w : Word) : (s.logWarden p w).red = s.red := by simp only [State.logWarden]
@[simp] theorem State.logWarden_media (p : Nat) (w : Word) : (s.logWarden p w).media = s.media := by simp only [State.logWarden]
@[simp] theorem State.logWarden_search (p : Nat) (w : Word) : (s.logWarden p w).search = s.search := by simp only [State.logWarden]
@[simp] theorem State.logWarden_crypto (p : Nat) (w : Word) : (s.logWarden p w).crypto = s.crypto := by simp only [State.logWarden]
@[simp] theorem State.logWarden_dram (p : Nat) (w : Word) : (s.logWarden p w).dram = s.dram := by simp only [State.logWarden]
@[simp] theorem State.logWarden_upsets (p : Nat) (w : Word) : (s.logWarden p w).upsets = s.upsets := by simp only [State.logWarden]
@[simp] theorem State.logWarden_vfm (p : Nat) (w : Word) : (s.logWarden p w).vfm = s.vfm := by simp only [State.logWarden]
@[simp] theorem State.logWarden_field (p : Nat) (w : Word) : (s.logWarden p w).field = s.field := by simp only [State.logWarden]
@[simp] theorem State.logWarden_frl (p : Nat) (w : Word) : (s.logWarden p w).frl = s.frl := by simp only [State.logWarden]
@[simp] theorem State.logWarden_power (p : Nat) (w : Word) : (s.logWarden p w).power = s.power := by simp only [State.logWarden]
@[simp] theorem State.logWarden_start (p : Nat) (w : Word) : (s.logWarden p w).start = s.start := by simp only [State.logWarden]
@[simp] theorem State.logWarden_events (p : Nat) (w : Word) : (s.logWarden p w).events = s.events := by simp only [State.logWarden]
@[simp] theorem State.logWarden_squall (p : Nat) (w : Word) : (s.logWarden p w).squall = s.squall := by simp only [State.logWarden]
@[simp] theorem State.logWarden_fresh (p : Nat) (w : Word) : (s.logWarden p w).fresh = s.fresh := by simp only [State.logWarden]
@[simp] theorem State.logWarden_out (p : Nat) (w : Word) : (s.logWarden p w).out = s.out := by simp only [State.logWarden]

/-! ## breakMs -/

@[simp] theorem State.breakMs_pending : s.breakMs.pending = s.pending := rfl
@[simp] theorem State.breakMs_pages : s.breakMs.pages = s.pages := rfl
@[simp] theorem State.breakMs_host : s.breakMs.host = s.host := rfl
@[simp] theorem State.breakMs_adm : s.breakMs.adm = s.adm := rfl
@[simp] theorem State.breakMs_prog : s.breakMs.prog = s.prog := rfl
@[simp] theorem State.breakMs_cells : s.breakMs.cells = s.cells := rfl
@[simp] theorem State.breakMs_fabric : s.breakMs.fabric = s.fabric := rfl
@[simp] theorem State.breakMs_ftl : s.breakMs.ftl = s.ftl := rfl
@[simp] theorem State.breakMs_care : s.breakMs.care = s.care := rfl
@[simp] theorem State.breakMs_red : s.breakMs.red = s.red := rfl
@[simp] theorem State.breakMs_media : s.breakMs.media = s.media := rfl
@[simp] theorem State.breakMs_search : s.breakMs.search = s.search := rfl
@[simp] theorem State.breakMs_crypto : s.breakMs.crypto = s.crypto := rfl
@[simp] theorem State.breakMs_dram : s.breakMs.dram = s.dram := rfl
@[simp] theorem State.breakMs_upsets : s.breakMs.upsets = s.upsets := rfl
@[simp] theorem State.breakMs_vfm : s.breakMs.vfm = s.vfm := rfl
@[simp] theorem State.breakMs_field : s.breakMs.field = s.field := rfl
@[simp] theorem State.breakMs_frl : s.breakMs.frl = s.frl := rfl
@[simp] theorem State.breakMs_sb : s.breakMs.sb = s.sb := rfl
@[simp] theorem State.breakMs_power : s.breakMs.power = s.power := rfl
@[simp] theorem State.breakMs_start : s.breakMs.start = s.start := rfl
@[simp] theorem State.breakMs_squall : s.breakMs.squall = s.squall := rfl
@[simp] theorem State.breakMs_fresh : s.breakMs.fresh = s.fresh := rfl
@[simp] theorem State.breakMs_out : s.breakMs.out = s.out := rfl

/-! ## reply -/

@[simp] theorem State.reply_pending (m : Master) (r : BusReply) : (s.reply m r).pending = s.pending := rfl
@[simp] theorem State.reply_pages (m : Master) (r : BusReply) : (s.reply m r).pages = s.pages := rfl
@[simp] theorem State.reply_host (m : Master) (r : BusReply) : (s.reply m r).host = s.host := rfl
@[simp] theorem State.reply_adm (m : Master) (r : BusReply) : (s.reply m r).adm = s.adm := rfl
@[simp] theorem State.reply_prog (m : Master) (r : BusReply) : (s.reply m r).prog = s.prog := rfl
@[simp] theorem State.reply_cells (m : Master) (r : BusReply) : (s.reply m r).cells = s.cells := rfl
@[simp] theorem State.reply_fabric (m : Master) (r : BusReply) : (s.reply m r).fabric = s.fabric := rfl
@[simp] theorem State.reply_ftl (m : Master) (r : BusReply) : (s.reply m r).ftl = s.ftl := rfl
@[simp] theorem State.reply_care (m : Master) (r : BusReply) : (s.reply m r).care = s.care := rfl
@[simp] theorem State.reply_red (m : Master) (r : BusReply) : (s.reply m r).red = s.red := rfl
@[simp] theorem State.reply_media (m : Master) (r : BusReply) : (s.reply m r).media = s.media := rfl
@[simp] theorem State.reply_search (m : Master) (r : BusReply) : (s.reply m r).search = s.search := rfl
@[simp] theorem State.reply_crypto (m : Master) (r : BusReply) : (s.reply m r).crypto = s.crypto := rfl
@[simp] theorem State.reply_dram (m : Master) (r : BusReply) : (s.reply m r).dram = s.dram := rfl
@[simp] theorem State.reply_upsets (m : Master) (r : BusReply) : (s.reply m r).upsets = s.upsets := rfl
@[simp] theorem State.reply_vfm (m : Master) (r : BusReply) : (s.reply m r).vfm = s.vfm := rfl
@[simp] theorem State.reply_field (m : Master) (r : BusReply) : (s.reply m r).field = s.field := rfl
@[simp] theorem State.reply_frl (m : Master) (r : BusReply) : (s.reply m r).frl = s.frl := rfl
@[simp] theorem State.reply_sb (m : Master) (r : BusReply) : (s.reply m r).sb = s.sb := rfl
@[simp] theorem State.reply_power (m : Master) (r : BusReply) : (s.reply m r).power = s.power := rfl
@[simp] theorem State.reply_start (m : Master) (r : BusReply) : (s.reply m r).start = s.start := rfl
@[simp] theorem State.reply_events (m : Master) (r : BusReply) : (s.reply m r).events = s.events := rfl
@[simp] theorem State.reply_squall (m : Master) (r : BusReply) : (s.reply m r).squall = s.squall := rfl
@[simp] theorem State.reply_fresh (m : Master) (r : BusReply) : (s.reply m r).fresh = s.fresh := rfl

/-! ## disarm -/

@[simp] theorem State.disarm_pending (p k : Nat) : (s.disarm p k).pending = s.pending := rfl
@[simp] theorem State.disarm_host (p k : Nat) : (s.disarm p k).host = s.host := rfl
@[simp] theorem State.disarm_adm (p k : Nat) : (s.disarm p k).adm = s.adm := rfl
@[simp] theorem State.disarm_prog (p k : Nat) : (s.disarm p k).prog = s.prog := rfl
@[simp] theorem State.disarm_cells (p k : Nat) : (s.disarm p k).cells = s.cells := rfl
@[simp] theorem State.disarm_fabric (p k : Nat) : (s.disarm p k).fabric = s.fabric := rfl
@[simp] theorem State.disarm_ftl (p k : Nat) : (s.disarm p k).ftl = s.ftl := rfl
@[simp] theorem State.disarm_care (p k : Nat) : (s.disarm p k).care = s.care := rfl
@[simp] theorem State.disarm_red (p k : Nat) : (s.disarm p k).red = s.red := rfl
@[simp] theorem State.disarm_media (p k : Nat) : (s.disarm p k).media = s.media := rfl
@[simp] theorem State.disarm_search (p k : Nat) : (s.disarm p k).search = s.search := rfl
@[simp] theorem State.disarm_crypto (p k : Nat) : (s.disarm p k).crypto = s.crypto := rfl
@[simp] theorem State.disarm_dram (p k : Nat) : (s.disarm p k).dram = s.dram := rfl
@[simp] theorem State.disarm_upsets (p k : Nat) : (s.disarm p k).upsets = s.upsets := rfl
@[simp] theorem State.disarm_vfm (p k : Nat) : (s.disarm p k).vfm = s.vfm := rfl
@[simp] theorem State.disarm_field (p k : Nat) : (s.disarm p k).field = s.field := rfl
@[simp] theorem State.disarm_frl (p k : Nat) : (s.disarm p k).frl = s.frl := rfl
@[simp] theorem State.disarm_sb (p k : Nat) : (s.disarm p k).sb = s.sb := rfl
@[simp] theorem State.disarm_power (p k : Nat) : (s.disarm p k).power = s.power := rfl
@[simp] theorem State.disarm_start (p k : Nat) : (s.disarm p k).start = s.start := rfl
@[simp] theorem State.disarm_events (p k : Nat) : (s.disarm p k).events = s.events := rfl
@[simp] theorem State.disarm_squall (p k : Nat) : (s.disarm p k).squall = s.squall := rfl
@[simp] theorem State.disarm_fresh (p k : Nat) : (s.disarm p k).fresh = s.fresh := rfl
@[simp] theorem State.disarm_out (p k : Nat) : (s.disarm p k).out = s.out := rfl

@[simp] theorem State.modCtrl_host_logs (f : Fun) (g : Ctrl → Ctrl) : (s.modCtrl f g).host.logs = s.host.logs := rfl
@[simp] theorem State.modCtrl_host_cmds (f : Fun) (g : Ctrl → Ctrl) : (s.modCtrl f g).host.cmds = s.host.cmds := rfl
@[simp] theorem State.modCtrl_host_nss (f : Fun) (g : Ctrl → Ctrl) : (s.modCtrl f g).host.nss = s.host.nss := rfl
@[simp] theorem State.modCtrl_host_evid (f : Fun) (g : Ctrl → Ctrl) : (s.modCtrl f g).host.evid = s.host.evid := rfl
@[simp] theorem State.modCtrl_host_fw (f : Fun) (g : Ctrl → Ctrl) : (s.modCtrl f g).host.fw = s.host.fw := rfl
@[simp] theorem State.modCtrl_host_link (f : Fun) (g : Ctrl → Ctrl) : (s.modCtrl f g).host.link = s.host.link := rfl
@[simp] theorem State.modCtrl_host_nextSeq (f : Fun) (g : Ctrl → Ctrl) : (s.modCtrl f g).host.nextSeq = s.host.nextSeq := rfl

@[simp] theorem State.modLogs_host_ctrls (f : Fun) (g : FnLogs → FnLogs) : (s.modLogs f g).host.ctrls = s.host.ctrls := rfl
@[simp] theorem State.modLogs_host_cmds (f : Fun) (g : FnLogs → FnLogs) : (s.modLogs f g).host.cmds = s.host.cmds := rfl
@[simp] theorem State.modLogs_host_nss (f : Fun) (g : FnLogs → FnLogs) : (s.modLogs f g).host.nss = s.host.nss := rfl
@[simp] theorem State.modLogs_host_evid (f : Fun) (g : FnLogs → FnLogs) : (s.modLogs f g).host.evid = s.host.evid := rfl
@[simp] theorem State.modLogs_host_fw (f : Fun) (g : FnLogs → FnLogs) : (s.modLogs f g).host.fw = s.host.fw := rfl
@[simp] theorem State.modLogs_host_link (f : Fun) (g : FnLogs → FnLogs) : (s.modLogs f g).host.link = s.host.link := rfl
@[simp] theorem State.modLogs_host_nextSeq (f : Fun) (g : FnLogs → FnLogs) : (s.modLogs f g).host.nextSeq = s.host.nextSeq := rfl

@[simp] theorem State.setReg_pages_latches (k : Nat) (v : Word) : (s.setReg k v).pages.latches = s.pages.latches := rfl
@[simp] theorem State.setReg_pages_dtime (k : Nat) (v : Word) : (s.setReg k v).pages.dtime = s.pages.dtime := rfl
@[simp] theorem State.setReg_pages_aonPhase (k : Nat) (v : Word) : (s.setReg k v).pages.aonPhase = s.pages.aonPhase := rfl
@[simp] theorem State.setField_pages_latches (k hi lo v : Nat) : (s.setField k hi lo v).pages.latches = s.pages.latches := rfl
@[simp] theorem State.setField_pages_dtime (k hi lo v : Nat) : (s.setField k hi lo v).pages.dtime = s.pages.dtime := rfl
@[simp] theorem State.setField_pages_aonPhase (k hi lo v : Nat) : (s.setField k hi lo v).pages.aonPhase = s.pages.aonPhase := rfl
@[simp] theorem State.resetPage_pages_latches (p : Nat) (l : List Nat) : (s.resetPage p l).pages.latches = s.pages.latches := rfl
@[simp] theorem State.resetPage_pages_dtime (p : Nat) (l : List Nat) : (s.resetPage p l).pages.dtime = s.pages.dtime := rfl
@[simp] theorem State.resetPage_pages_aonPhase (p : Nat) (l : List Nat) : (s.resetPage p l).pages.aonPhase = s.pages.aonPhase := rfl
@[simp] theorem State.emit_reg (o : Out) (k : Nat) : (s.emit o).reg k = s.reg k := rfl
@[simp] theorem State.modCell_reg (c : CellId) (f : Cell → Cell) (k : Nat) : (s.modCell c f).reg k = s.reg k := rfl
@[simp] theorem State.modCtrl_reg (f : Fun) (g : Ctrl → Ctrl) (k : Nat) : (s.modCtrl f g).reg k = s.reg k := rfl
@[simp] theorem State.modLogs_reg (f : Fun) (g : FnLogs → FnLogs) (k : Nat) : (s.modLogs f g).reg k = s.reg k := rfl
@[simp] theorem State.emit_out (o : Out) : (s.emit o).out = s.out ++ [o] := rfl

/-! ## The delivery of events: registers, pending bits of vectors, the warden's log and what is sent outward alone -/


@[simp] theorem State.startWosc_pending : s.startWosc.pending = s.pending := by
  simp [State.startWosc]
@[simp] theorem State.startWosc_adm : s.startWosc.adm = s.adm := by
  simp [State.startWosc]
@[simp] theorem State.startWosc_prog : s.startWosc.prog = s.prog := by
  simp [State.startWosc]
@[simp] theorem State.startWosc_cells : s.startWosc.cells = s.cells := by
  simp [State.startWosc]
@[simp] theorem State.startWosc_fabric : s.startWosc.fabric = s.fabric := by
  simp [State.startWosc]
@[simp] theorem State.startWosc_ftl : s.startWosc.ftl = s.ftl := by
  simp [State.startWosc]
@[simp] theorem State.startWosc_care : s.startWosc.care = s.care := by
  simp [State.startWosc]
@[simp] theorem State.startWosc_red : s.startWosc.red = s.red := by
  simp [State.startWosc]
@[simp] theorem State.startWosc_media : s.startWosc.media = s.media := by
  simp [State.startWosc]
@[simp] theorem State.startWosc_search : s.startWosc.search = s.search := by
  simp [State.startWosc]
@[simp] theorem State.startWosc_crypto : s.startWosc.crypto = s.crypto := by
  simp [State.startWosc]
@[simp] theorem State.startWosc_dram : s.startWosc.dram = s.dram := by
  simp [State.startWosc]
@[simp] theorem State.startWosc_upsets : s.startWosc.upsets = s.upsets := by
  simp [State.startWosc]
@[simp] theorem State.startWosc_vfm : s.startWosc.vfm = s.vfm := by
  simp [State.startWosc]
@[simp] theorem State.startWosc_field : s.startWosc.field = s.field := by
  simp [State.startWosc]
@[simp] theorem State.startWosc_frl : s.startWosc.frl = s.frl := by
  simp [State.startWosc]
@[simp] theorem State.startWosc_power : s.startWosc.power = s.power := by
  simp [State.startWosc]
@[simp] theorem State.startWosc_start : s.startWosc.start = s.start := by
  simp [State.startWosc]
@[simp] theorem State.startWosc_events : s.startWosc.events = s.events := by
  simp [State.startWosc]
@[simp] theorem State.startWosc_squall : s.startWosc.squall = s.squall := by
  simp [State.startWosc]
@[simp] theorem State.startWosc_fresh : s.startWosc.fresh = s.fresh := by
  simp [State.startWosc]
@[simp] theorem State.startWosc_host_logs : s.startWosc.host.logs = s.host.logs := by
  simp [State.startWosc]
@[simp] theorem State.startWosc_host_cmds : s.startWosc.host.cmds = s.host.cmds := by
  simp [State.startWosc]
@[simp] theorem State.startWosc_host_nss : s.startWosc.host.nss = s.host.nss := by
  simp [State.startWosc]
@[simp] theorem State.startWosc_host_evid : s.startWosc.host.evid = s.host.evid := by
  simp [State.startWosc]
@[simp] theorem State.startWosc_host_fw : s.startWosc.host.fw = s.host.fw := by
  simp [State.startWosc]
@[simp] theorem State.startWosc_host_link : s.startWosc.host.link = s.host.link := by
  simp [State.startWosc]
@[simp] theorem State.startWosc_host_nextSeq : s.startWosc.host.nextSeq = s.host.nextSeq := by
  simp [State.startWosc]

@[simp] theorem State.alert_pending (p : Nat) : (s.alert p).pending = s.pending := by
  unfold State.alert; dsimp only; split <;> simp
@[simp] theorem State.alert_adm (p : Nat) : (s.alert p).adm = s.adm := by
  unfold State.alert; dsimp only; split <;> simp
@[simp] theorem State.alert_prog (p : Nat) : (s.alert p).prog = s.prog := by
  unfold State.alert; dsimp only; split <;> simp
@[simp] theorem State.alert_cells (p : Nat) : (s.alert p).cells = s.cells := by
  unfold State.alert; dsimp only; split <;> simp
@[simp] theorem State.alert_fabric (p : Nat) : (s.alert p).fabric = s.fabric := by
  unfold State.alert; dsimp only; split <;> simp
@[simp] theorem State.alert_ftl (p : Nat) : (s.alert p).ftl = s.ftl := by
  unfold State.alert; dsimp only; split <;> simp
@[simp] theorem State.alert_care (p : Nat) : (s.alert p).care = s.care := by
  unfold State.alert; dsimp only; split <;> simp
@[simp] theorem State.alert_red (p : Nat) : (s.alert p).red = s.red := by
  unfold State.alert; dsimp only; split <;> simp
@[simp] theorem State.alert_media (p : Nat) : (s.alert p).media = s.media := by
  unfold State.alert; dsimp only; split <;> simp
@[simp] theorem State.alert_search (p : Nat) : (s.alert p).search = s.search := by
  unfold State.alert; dsimp only; split <;> simp
@[simp] theorem State.alert_crypto (p : Nat) : (s.alert p).crypto = s.crypto := by
  unfold State.alert; dsimp only; split <;> simp
@[simp] theorem State.alert_dram (p : Nat) : (s.alert p).dram = s.dram := by
  unfold State.alert; dsimp only; split <;> simp
@[simp] theorem State.alert_upsets (p : Nat) : (s.alert p).upsets = s.upsets := by
  unfold State.alert; dsimp only; split <;> simp
@[simp] theorem State.alert_vfm (p : Nat) : (s.alert p).vfm = s.vfm := by
  unfold State.alert; dsimp only; split <;> simp
@[simp] theorem State.alert_field (p : Nat) : (s.alert p).field = s.field := by
  unfold State.alert; dsimp only; split <;> simp
@[simp] theorem State.alert_frl (p : Nat) : (s.alert p).frl = s.frl := by
  unfold State.alert; dsimp only; split <;> simp
@[simp] theorem State.alert_power (p : Nat) : (s.alert p).power = s.power := by
  unfold State.alert; dsimp only; split <;> simp
@[simp] theorem State.alert_start (p : Nat) : (s.alert p).start = s.start := by
  unfold State.alert; dsimp only; split <;> simp
@[simp] theorem State.alert_events (p : Nat) : (s.alert p).events = s.events := by
  unfold State.alert; dsimp only; split <;> simp
@[simp] theorem State.alert_squall (p : Nat) : (s.alert p).squall = s.squall := by
  unfold State.alert; dsimp only; split <;> simp
@[simp] theorem State.alert_fresh (p : Nat) : (s.alert p).fresh = s.fresh := by
  unfold State.alert; dsimp only; split <;> simp
@[simp] theorem State.alert_host_logs (p : Nat) : (s.alert p).host.logs = s.host.logs := by
  unfold State.alert; dsimp only; split <;> simp
@[simp] theorem State.alert_host_cmds (p : Nat) : (s.alert p).host.cmds = s.host.cmds := by
  unfold State.alert; dsimp only; split <;> simp
@[simp] theorem State.alert_host_nss (p : Nat) : (s.alert p).host.nss = s.host.nss := by
  unfold State.alert; dsimp only; split <;> simp
@[simp] theorem State.alert_host_evid (p : Nat) : (s.alert p).host.evid = s.host.evid := by
  unfold State.alert; dsimp only; split <;> simp
@[simp] theorem State.alert_host_fw (p : Nat) : (s.alert p).host.fw = s.host.fw := by
  unfold State.alert; dsimp only; split <;> simp
@[simp] theorem State.alert_host_link (p : Nat) : (s.alert p).host.link = s.host.link := by
  unfold State.alert; dsimp only; split <;> simp
@[simp] theorem State.alert_host_nextSeq (p : Nat) : (s.alert p).host.nextSeq = s.host.nextSeq := by
  unfold State.alert; dsimp only; split <;> simp

@[simp] theorem State.sendVector_pending (f : Fun) (v : Nat) : (s.sendVector f v).pending = s.pending := by
  unfold State.sendVector; split <;> rfl
@[simp] theorem State.sendVector_adm (f : Fun) (v : Nat) : (s.sendVector f v).adm = s.adm := by
  unfold State.sendVector; split <;> rfl
@[simp] theorem State.sendVector_prog (f : Fun) (v : Nat) : (s.sendVector f v).prog = s.prog := by
  unfold State.sendVector; split <;> rfl
@[simp] theorem State.sendVector_cells (f : Fun) (v : Nat) : (s.sendVector f v).cells = s.cells := by
  unfold State.sendVector; split <;> rfl
@[simp] theorem State.sendVector_fabric (f : Fun) (v : Nat) : (s.sendVector f v).fabric = s.fabric := by
  unfold State.sendVector; split <;> rfl
@[simp] theorem State.sendVector_ftl (f : Fun) (v : Nat) : (s.sendVector f v).ftl = s.ftl := by
  unfold State.sendVector; split <;> rfl
@[simp] theorem State.sendVector_care (f : Fun) (v : Nat) : (s.sendVector f v).care = s.care := by
  unfold State.sendVector; split <;> rfl
@[simp] theorem State.sendVector_red (f : Fun) (v : Nat) : (s.sendVector f v).red = s.red := by
  unfold State.sendVector; split <;> rfl
@[simp] theorem State.sendVector_media (f : Fun) (v : Nat) : (s.sendVector f v).media = s.media := by
  unfold State.sendVector; split <;> rfl
@[simp] theorem State.sendVector_search (f : Fun) (v : Nat) : (s.sendVector f v).search = s.search := by
  unfold State.sendVector; split <;> rfl
@[simp] theorem State.sendVector_crypto (f : Fun) (v : Nat) : (s.sendVector f v).crypto = s.crypto := by
  unfold State.sendVector; split <;> rfl
@[simp] theorem State.sendVector_dram (f : Fun) (v : Nat) : (s.sendVector f v).dram = s.dram := by
  unfold State.sendVector; split <;> rfl
@[simp] theorem State.sendVector_upsets (f : Fun) (v : Nat) : (s.sendVector f v).upsets = s.upsets := by
  unfold State.sendVector; split <;> rfl
@[simp] theorem State.sendVector_vfm (f : Fun) (v : Nat) : (s.sendVector f v).vfm = s.vfm := by
  unfold State.sendVector; split <;> rfl
@[simp] theorem State.sendVector_field (f : Fun) (v : Nat) : (s.sendVector f v).field = s.field := by
  unfold State.sendVector; split <;> rfl
@[simp] theorem State.sendVector_frl (f : Fun) (v : Nat) : (s.sendVector f v).frl = s.frl := by
  unfold State.sendVector; split <;> rfl
@[simp] theorem State.sendVector_power (f : Fun) (v : Nat) : (s.sendVector f v).power = s.power := by
  unfold State.sendVector; split <;> rfl
@[simp] theorem State.sendVector_start (f : Fun) (v : Nat) : (s.sendVector f v).start = s.start := by
  unfold State.sendVector; split <;> rfl
@[simp] theorem State.sendVector_events (f : Fun) (v : Nat) : (s.sendVector f v).events = s.events := by
  unfold State.sendVector; split <;> rfl
@[simp] theorem State.sendVector_squall (f : Fun) (v : Nat) : (s.sendVector f v).squall = s.squall := by
  unfold State.sendVector; split <;> rfl
@[simp] theorem State.sendVector_fresh (f : Fun) (v : Nat) : (s.sendVector f v).fresh = s.fresh := by
  unfold State.sendVector; split <;> rfl
@[simp] theorem State.sendVector_host_logs (f : Fun) (v : Nat) : (s.sendVector f v).host.logs = s.host.logs := by
  unfold State.sendVector; split <;> rfl
@[simp] theorem State.sendVector_host_cmds (f : Fun) (v : Nat) : (s.sendVector f v).host.cmds = s.host.cmds := by
  unfold State.sendVector; split <;> rfl
@[simp] theorem State.sendVector_host_nss (f : Fun) (v : Nat) : (s.sendVector f v).host.nss = s.host.nss := by
  unfold State.sendVector; split <;> rfl
@[simp] theorem State.sendVector_host_evid (f : Fun) (v : Nat) : (s.sendVector f v).host.evid = s.host.evid := by
  unfold State.sendVector; split <;> rfl
@[simp] theorem State.sendVector_host_fw (f : Fun) (v : Nat) : (s.sendVector f v).host.fw = s.host.fw := by
  unfold State.sendVector; split <;> rfl
@[simp] theorem State.sendVector_host_link (f : Fun) (v : Nat) : (s.sendVector f v).host.link = s.host.link := by
  unfold State.sendVector; split <;> rfl
@[simp] theorem State.sendVector_host_nextSeq (f : Fun) (v : Nat) : (s.sendVector f v).host.nextSeq = s.host.nextSeq := by
  unfold State.sendVector; split <;> rfl

@[simp] theorem State.sendVectors_pending (f : Fun) (v n : Nat) : (s.sendVectors f v n).pending = s.pending := by
  induction n with
  | zero => rfl
  | succ n ih => simpa [State.sendVectors] using ih
@[simp] theorem State.sendVectors_adm (f : Fun) (v n : Nat) : (s.sendVectors f v n).adm = s.adm := by
  induction n with
  | zero => rfl
  | succ n ih => simpa [State.sendVectors] using ih
@[simp] theorem State.sendVectors_prog (f : Fun) (v n : Nat) : (s.sendVectors f v n).prog = s.prog := by
  induction n with
  | zero => rfl
  | succ n ih => simpa [State.sendVectors] using ih
@[simp] theorem State.sendVectors_cells (f : Fun) (v n : Nat) : (s.sendVectors f v n).cells = s.cells := by
  induction n with
  | zero => rfl
  | succ n ih => simpa [State.sendVectors] using ih
@[simp] theorem State.sendVectors_fabric (f : Fun) (v n : Nat) : (s.sendVectors f v n).fabric = s.fabric := by
  induction n with
  | zero => rfl
  | succ n ih => simpa [State.sendVectors] using ih
@[simp] theorem State.sendVectors_ftl (f : Fun) (v n : Nat) : (s.sendVectors f v n).ftl = s.ftl := by
  induction n with
  | zero => rfl
  | succ n ih => simpa [State.sendVectors] using ih
@[simp] theorem State.sendVectors_care (f : Fun) (v n : Nat) : (s.sendVectors f v n).care = s.care := by
  induction n with
  | zero => rfl
  | succ n ih => simpa [State.sendVectors] using ih
@[simp] theorem State.sendVectors_red (f : Fun) (v n : Nat) : (s.sendVectors f v n).red = s.red := by
  induction n with
  | zero => rfl
  | succ n ih => simpa [State.sendVectors] using ih
@[simp] theorem State.sendVectors_media (f : Fun) (v n : Nat) : (s.sendVectors f v n).media = s.media := by
  induction n with
  | zero => rfl
  | succ n ih => simpa [State.sendVectors] using ih
@[simp] theorem State.sendVectors_search (f : Fun) (v n : Nat) : (s.sendVectors f v n).search = s.search := by
  induction n with
  | zero => rfl
  | succ n ih => simpa [State.sendVectors] using ih
@[simp] theorem State.sendVectors_crypto (f : Fun) (v n : Nat) : (s.sendVectors f v n).crypto = s.crypto := by
  induction n with
  | zero => rfl
  | succ n ih => simpa [State.sendVectors] using ih
@[simp] theorem State.sendVectors_dram (f : Fun) (v n : Nat) : (s.sendVectors f v n).dram = s.dram := by
  induction n with
  | zero => rfl
  | succ n ih => simpa [State.sendVectors] using ih
@[simp] theorem State.sendVectors_upsets (f : Fun) (v n : Nat) : (s.sendVectors f v n).upsets = s.upsets := by
  induction n with
  | zero => rfl
  | succ n ih => simpa [State.sendVectors] using ih
@[simp] theorem State.sendVectors_vfm (f : Fun) (v n : Nat) : (s.sendVectors f v n).vfm = s.vfm := by
  induction n with
  | zero => rfl
  | succ n ih => simpa [State.sendVectors] using ih
@[simp] theorem State.sendVectors_field (f : Fun) (v n : Nat) : (s.sendVectors f v n).field = s.field := by
  induction n with
  | zero => rfl
  | succ n ih => simpa [State.sendVectors] using ih
@[simp] theorem State.sendVectors_frl (f : Fun) (v n : Nat) : (s.sendVectors f v n).frl = s.frl := by
  induction n with
  | zero => rfl
  | succ n ih => simpa [State.sendVectors] using ih
@[simp] theorem State.sendVectors_power (f : Fun) (v n : Nat) : (s.sendVectors f v n).power = s.power := by
  induction n with
  | zero => rfl
  | succ n ih => simpa [State.sendVectors] using ih
@[simp] theorem State.sendVectors_start (f : Fun) (v n : Nat) : (s.sendVectors f v n).start = s.start := by
  induction n with
  | zero => rfl
  | succ n ih => simpa [State.sendVectors] using ih
@[simp] theorem State.sendVectors_events (f : Fun) (v n : Nat) : (s.sendVectors f v n).events = s.events := by
  induction n with
  | zero => rfl
  | succ n ih => simpa [State.sendVectors] using ih
@[simp] theorem State.sendVectors_squall (f : Fun) (v n : Nat) : (s.sendVectors f v n).squall = s.squall := by
  induction n with
  | zero => rfl
  | succ n ih => simpa [State.sendVectors] using ih
@[simp] theorem State.sendVectors_fresh (f : Fun) (v n : Nat) : (s.sendVectors f v n).fresh = s.fresh := by
  induction n with
  | zero => rfl
  | succ n ih => simpa [State.sendVectors] using ih
@[simp] theorem State.sendVectors_host_logs (f : Fun) (v n : Nat) : (s.sendVectors f v n).host.logs = s.host.logs := by
  induction n with
  | zero => rfl
  | succ n ih => simpa [State.sendVectors] using ih
@[simp] theorem State.sendVectors_host_cmds (f : Fun) (v n : Nat) : (s.sendVectors f v n).host.cmds = s.host.cmds := by
  induction n with
  | zero => rfl
  | succ n ih => simpa [State.sendVectors] using ih
@[simp] theorem State.sendVectors_host_nss (f : Fun) (v n : Nat) : (s.sendVectors f v n).host.nss = s.host.nss := by
  induction n with
  | zero => rfl
  | succ n ih => simpa [State.sendVectors] using ih
@[simp] theorem State.sendVectors_host_evid (f : Fun) (v n : Nat) : (s.sendVectors f v n).host.evid = s.host.evid := by
  induction n with
  | zero => rfl
  | succ n ih => simpa [State.sendVectors] using ih
@[simp] theorem State.sendVectors_host_fw (f : Fun) (v n : Nat) : (s.sendVectors f v n).host.fw = s.host.fw := by
  induction n with
  | zero => rfl
  | succ n ih => simpa [State.sendVectors] using ih
@[simp] theorem State.sendVectors_host_link (f : Fun) (v n : Nat) : (s.sendVectors f v n).host.link = s.host.link := by
  induction n with
  | zero => rfl
  | succ n ih => simpa [State.sendVectors] using ih
@[simp] theorem State.sendVectors_host_nextSeq (f : Fun) (v n : Nat) : (s.sendVectors f v n).host.nextSeq = s.host.nextSeq := by
  induction n with
  | zero => rfl
  | succ n ih => simpa [State.sendVectors] using ih

@[simp] theorem State.signal_pending (p n : Nat) : (s.signal p n).1.pending = s.pending := by
  unfold State.signal; repeat' split
  all_goals simp
@[simp] theorem State.signal_adm (p n : Nat) : (s.signal p n).1.adm = s.adm := by
  unfold State.signal; repeat' split
  all_goals simp
@[simp] theorem State.signal_prog (p n : Nat) : (s.signal p n).1.prog = s.prog := by
  unfold State.signal; repeat' split
  all_goals simp
@[simp] theorem State.signal_cells (p n : Nat) : (s.signal p n).1.cells = s.cells := by
  unfold State.signal; repeat' split
  all_goals simp
@[simp] theorem State.signal_fabric (p n : Nat) : (s.signal p n).1.fabric = s.fabric := by
  unfold State.signal; repeat' split
  all_goals simp
@[simp] theorem State.signal_ftl (p n : Nat) : (s.signal p n).1.ftl = s.ftl := by
  unfold State.signal; repeat' split
  all_goals simp
@[simp] theorem State.signal_care (p n : Nat) : (s.signal p n).1.care = s.care := by
  unfold State.signal; repeat' split
  all_goals simp
@[simp] theorem State.signal_red (p n : Nat) : (s.signal p n).1.red = s.red := by
  unfold State.signal; repeat' split
  all_goals simp
@[simp] theorem State.signal_media (p n : Nat) : (s.signal p n).1.media = s.media := by
  unfold State.signal; repeat' split
  all_goals simp
@[simp] theorem State.signal_search (p n : Nat) : (s.signal p n).1.search = s.search := by
  unfold State.signal; repeat' split
  all_goals simp
@[simp] theorem State.signal_crypto (p n : Nat) : (s.signal p n).1.crypto = s.crypto := by
  unfold State.signal; repeat' split
  all_goals simp
@[simp] theorem State.signal_dram (p n : Nat) : (s.signal p n).1.dram = s.dram := by
  unfold State.signal; repeat' split
  all_goals simp
@[simp] theorem State.signal_upsets (p n : Nat) : (s.signal p n).1.upsets = s.upsets := by
  unfold State.signal; repeat' split
  all_goals simp
@[simp] theorem State.signal_vfm (p n : Nat) : (s.signal p n).1.vfm = s.vfm := by
  unfold State.signal; repeat' split
  all_goals simp
@[simp] theorem State.signal_field (p n : Nat) : (s.signal p n).1.field = s.field := by
  unfold State.signal; repeat' split
  all_goals simp
@[simp] theorem State.signal_frl (p n : Nat) : (s.signal p n).1.frl = s.frl := by
  unfold State.signal; repeat' split
  all_goals simp
@[simp] theorem State.signal_power (p n : Nat) : (s.signal p n).1.power = s.power := by
  unfold State.signal; repeat' split
  all_goals simp
@[simp] theorem State.signal_start (p n : Nat) : (s.signal p n).1.start = s.start := by
  unfold State.signal; repeat' split
  all_goals simp
@[simp] theorem State.signal_events (p n : Nat) : (s.signal p n).1.events = s.events := by
  unfold State.signal; repeat' split
  all_goals simp
@[simp] theorem State.signal_squall (p n : Nat) : (s.signal p n).1.squall = s.squall := by
  unfold State.signal; repeat' split
  all_goals simp
@[simp] theorem State.signal_fresh (p n : Nat) : (s.signal p n).1.fresh = s.fresh := by
  unfold State.signal; repeat' split
  all_goals simp
@[simp] theorem State.signal_host_logs (p n : Nat) : (s.signal p n).1.host.logs = s.host.logs := by
  unfold State.signal; repeat' split
  all_goals simp
@[simp] theorem State.signal_host_cmds (p n : Nat) : (s.signal p n).1.host.cmds = s.host.cmds := by
  unfold State.signal; repeat' split
  all_goals simp
@[simp] theorem State.signal_host_nss (p n : Nat) : (s.signal p n).1.host.nss = s.host.nss := by
  unfold State.signal; repeat' split
  all_goals simp
@[simp] theorem State.signal_host_evid (p n : Nat) : (s.signal p n).1.host.evid = s.host.evid := by
  unfold State.signal; repeat' split
  all_goals simp
@[simp] theorem State.signal_host_fw (p n : Nat) : (s.signal p n).1.host.fw = s.host.fw := by
  unfold State.signal; repeat' split
  all_goals simp
@[simp] theorem State.signal_host_link (p n : Nat) : (s.signal p n).1.host.link = s.host.link := by
  unfold State.signal; repeat' split
  all_goals simp
@[simp] theorem State.signal_host_nextSeq (p n : Nat) : (s.signal p n).1.host.nextSeq = s.host.nextSeq := by
  unfold State.signal; repeat' split
  all_goals simp

@[simp] theorem State.setRaw_pending (p : Nat) (m : Word) : (s.setRaw p m).1.pending = s.pending := by
  unfold State.setRaw; dsimp only; split
  · simp
  · have h := State.signal_pending (s.setReg (EV_RAW p) (s.reg (EV_RAW p) ||| m)) p
      (bitCount (m &&& ~~~s.reg (EV_RAW p) &&& s.reg (EV_ENABLE p)))
    split <;> (next e => simpa [e] using h)
@[simp] theorem State.setRaw_adm (p : Nat) (m : Word) : (s.setRaw p m).1.adm = s.adm := by
  unfold State.setRaw; dsimp only; split
  · simp
  · have h := State.signal_adm (s.setReg (EV_RAW p) (s.reg (EV_RAW p) ||| m)) p
      (bitCount (m &&& ~~~s.reg (EV_RAW p) &&& s.reg (EV_ENABLE p)))
    split <;> (next e => simpa [e] using h)
@[simp] theorem State.setRaw_prog (p : Nat) (m : Word) : (s.setRaw p m).1.prog = s.prog := by
  unfold State.setRaw; dsimp only; split
  · simp
  · have h := State.signal_prog (s.setReg (EV_RAW p) (s.reg (EV_RAW p) ||| m)) p
      (bitCount (m &&& ~~~s.reg (EV_RAW p) &&& s.reg (EV_ENABLE p)))
    split <;> (next e => simpa [e] using h)
@[simp] theorem State.setRaw_cells (p : Nat) (m : Word) : (s.setRaw p m).1.cells = s.cells := by
  unfold State.setRaw; dsimp only; split
  · simp
  · have h := State.signal_cells (s.setReg (EV_RAW p) (s.reg (EV_RAW p) ||| m)) p
      (bitCount (m &&& ~~~s.reg (EV_RAW p) &&& s.reg (EV_ENABLE p)))
    split <;> (next e => simpa [e] using h)
@[simp] theorem State.setRaw_fabric (p : Nat) (m : Word) : (s.setRaw p m).1.fabric = s.fabric := by
  unfold State.setRaw; dsimp only; split
  · simp
  · have h := State.signal_fabric (s.setReg (EV_RAW p) (s.reg (EV_RAW p) ||| m)) p
      (bitCount (m &&& ~~~s.reg (EV_RAW p) &&& s.reg (EV_ENABLE p)))
    split <;> (next e => simpa [e] using h)
@[simp] theorem State.setRaw_ftl (p : Nat) (m : Word) : (s.setRaw p m).1.ftl = s.ftl := by
  unfold State.setRaw; dsimp only; split
  · simp
  · have h := State.signal_ftl (s.setReg (EV_RAW p) (s.reg (EV_RAW p) ||| m)) p
      (bitCount (m &&& ~~~s.reg (EV_RAW p) &&& s.reg (EV_ENABLE p)))
    split <;> (next e => simpa [e] using h)
@[simp] theorem State.setRaw_care (p : Nat) (m : Word) : (s.setRaw p m).1.care = s.care := by
  unfold State.setRaw; dsimp only; split
  · simp
  · have h := State.signal_care (s.setReg (EV_RAW p) (s.reg (EV_RAW p) ||| m)) p
      (bitCount (m &&& ~~~s.reg (EV_RAW p) &&& s.reg (EV_ENABLE p)))
    split <;> (next e => simpa [e] using h)
@[simp] theorem State.setRaw_red (p : Nat) (m : Word) : (s.setRaw p m).1.red = s.red := by
  unfold State.setRaw; dsimp only; split
  · simp
  · have h := State.signal_red (s.setReg (EV_RAW p) (s.reg (EV_RAW p) ||| m)) p
      (bitCount (m &&& ~~~s.reg (EV_RAW p) &&& s.reg (EV_ENABLE p)))
    split <;> (next e => simpa [e] using h)
@[simp] theorem State.setRaw_media (p : Nat) (m : Word) : (s.setRaw p m).1.media = s.media := by
  unfold State.setRaw; dsimp only; split
  · simp
  · have h := State.signal_media (s.setReg (EV_RAW p) (s.reg (EV_RAW p) ||| m)) p
      (bitCount (m &&& ~~~s.reg (EV_RAW p) &&& s.reg (EV_ENABLE p)))
    split <;> (next e => simpa [e] using h)
@[simp] theorem State.setRaw_search (p : Nat) (m : Word) : (s.setRaw p m).1.search = s.search := by
  unfold State.setRaw; dsimp only; split
  · simp
  · have h := State.signal_search (s.setReg (EV_RAW p) (s.reg (EV_RAW p) ||| m)) p
      (bitCount (m &&& ~~~s.reg (EV_RAW p) &&& s.reg (EV_ENABLE p)))
    split <;> (next e => simpa [e] using h)
@[simp] theorem State.setRaw_crypto (p : Nat) (m : Word) : (s.setRaw p m).1.crypto = s.crypto := by
  unfold State.setRaw; dsimp only; split
  · simp
  · have h := State.signal_crypto (s.setReg (EV_RAW p) (s.reg (EV_RAW p) ||| m)) p
      (bitCount (m &&& ~~~s.reg (EV_RAW p) &&& s.reg (EV_ENABLE p)))
    split <;> (next e => simpa [e] using h)
@[simp] theorem State.setRaw_dram (p : Nat) (m : Word) : (s.setRaw p m).1.dram = s.dram := by
  unfold State.setRaw; dsimp only; split
  · simp
  · have h := State.signal_dram (s.setReg (EV_RAW p) (s.reg (EV_RAW p) ||| m)) p
      (bitCount (m &&& ~~~s.reg (EV_RAW p) &&& s.reg (EV_ENABLE p)))
    split <;> (next e => simpa [e] using h)
@[simp] theorem State.setRaw_upsets (p : Nat) (m : Word) : (s.setRaw p m).1.upsets = s.upsets := by
  unfold State.setRaw; dsimp only; split
  · simp
  · have h := State.signal_upsets (s.setReg (EV_RAW p) (s.reg (EV_RAW p) ||| m)) p
      (bitCount (m &&& ~~~s.reg (EV_RAW p) &&& s.reg (EV_ENABLE p)))
    split <;> (next e => simpa [e] using h)
@[simp] theorem State.setRaw_vfm (p : Nat) (m : Word) : (s.setRaw p m).1.vfm = s.vfm := by
  unfold State.setRaw; dsimp only; split
  · simp
  · have h := State.signal_vfm (s.setReg (EV_RAW p) (s.reg (EV_RAW p) ||| m)) p
      (bitCount (m &&& ~~~s.reg (EV_RAW p) &&& s.reg (EV_ENABLE p)))
    split <;> (next e => simpa [e] using h)
@[simp] theorem State.setRaw_field (p : Nat) (m : Word) : (s.setRaw p m).1.field = s.field := by
  unfold State.setRaw; dsimp only; split
  · simp
  · have h := State.signal_field (s.setReg (EV_RAW p) (s.reg (EV_RAW p) ||| m)) p
      (bitCount (m &&& ~~~s.reg (EV_RAW p) &&& s.reg (EV_ENABLE p)))
    split <;> (next e => simpa [e] using h)
@[simp] theorem State.setRaw_frl (p : Nat) (m : Word) : (s.setRaw p m).1.frl = s.frl := by
  unfold State.setRaw; dsimp only; split
  · simp
  · have h := State.signal_frl (s.setReg (EV_RAW p) (s.reg (EV_RAW p) ||| m)) p
      (bitCount (m &&& ~~~s.reg (EV_RAW p) &&& s.reg (EV_ENABLE p)))
    split <;> (next e => simpa [e] using h)
@[simp] theorem State.setRaw_power (p : Nat) (m : Word) : (s.setRaw p m).1.power = s.power := by
  unfold State.setRaw; dsimp only; split
  · simp
  · have h := State.signal_power (s.setReg (EV_RAW p) (s.reg (EV_RAW p) ||| m)) p
      (bitCount (m &&& ~~~s.reg (EV_RAW p) &&& s.reg (EV_ENABLE p)))
    split <;> (next e => simpa [e] using h)
@[simp] theorem State.setRaw_start (p : Nat) (m : Word) : (s.setRaw p m).1.start = s.start := by
  unfold State.setRaw; dsimp only; split
  · simp
  · have h := State.signal_start (s.setReg (EV_RAW p) (s.reg (EV_RAW p) ||| m)) p
      (bitCount (m &&& ~~~s.reg (EV_RAW p) &&& s.reg (EV_ENABLE p)))
    split <;> (next e => simpa [e] using h)
@[simp] theorem State.setRaw_events (p : Nat) (m : Word) : (s.setRaw p m).1.events = s.events := by
  unfold State.setRaw; dsimp only; split
  · simp
  · have h := State.signal_events (s.setReg (EV_RAW p) (s.reg (EV_RAW p) ||| m)) p
      (bitCount (m &&& ~~~s.reg (EV_RAW p) &&& s.reg (EV_ENABLE p)))
    split <;> (next e => simpa [e] using h)
@[simp] theorem State.setRaw_squall (p : Nat) (m : Word) : (s.setRaw p m).1.squall = s.squall := by
  unfold State.setRaw; dsimp only; split
  · simp
  · have h := State.signal_squall (s.setReg (EV_RAW p) (s.reg (EV_RAW p) ||| m)) p
      (bitCount (m &&& ~~~s.reg (EV_RAW p) &&& s.reg (EV_ENABLE p)))
    split <;> (next e => simpa [e] using h)
@[simp] theorem State.setRaw_fresh (p : Nat) (m : Word) : (s.setRaw p m).1.fresh = s.fresh := by
  unfold State.setRaw; dsimp only; split
  · simp
  · have h := State.signal_fresh (s.setReg (EV_RAW p) (s.reg (EV_RAW p) ||| m)) p
      (bitCount (m &&& ~~~s.reg (EV_RAW p) &&& s.reg (EV_ENABLE p)))
    split <;> (next e => simpa [e] using h)
@[simp] theorem State.setRaw_host_logs (p : Nat) (m : Word) : (s.setRaw p m).1.host.logs = s.host.logs := by
  unfold State.setRaw; dsimp only; split
  · simp
  · have h := State.signal_host_logs (s.setReg (EV_RAW p) (s.reg (EV_RAW p) ||| m)) p
      (bitCount (m &&& ~~~s.reg (EV_RAW p) &&& s.reg (EV_ENABLE p)))
    split <;> (next e => simpa [e] using h)
@[simp] theorem State.setRaw_host_cmds (p : Nat) (m : Word) : (s.setRaw p m).1.host.cmds = s.host.cmds := by
  unfold State.setRaw; dsimp only; split
  · simp
  · have h := State.signal_host_cmds (s.setReg (EV_RAW p) (s.reg (EV_RAW p) ||| m)) p
      (bitCount (m &&& ~~~s.reg (EV_RAW p) &&& s.reg (EV_ENABLE p)))
    split <;> (next e => simpa [e] using h)
@[simp] theorem State.setRaw_host_nss (p : Nat) (m : Word) : (s.setRaw p m).1.host.nss = s.host.nss := by
  unfold State.setRaw; dsimp only; split
  · simp
  · have h := State.signal_host_nss (s.setReg (EV_RAW p) (s.reg (EV_RAW p) ||| m)) p
      (bitCount (m &&& ~~~s.reg (EV_RAW p) &&& s.reg (EV_ENABLE p)))
    split <;> (next e => simpa [e] using h)
@[simp] theorem State.setRaw_host_evid (p : Nat) (m : Word) : (s.setRaw p m).1.host.evid = s.host.evid := by
  unfold State.setRaw; dsimp only; split
  · simp
  · have h := State.signal_host_evid (s.setReg (EV_RAW p) (s.reg (EV_RAW p) ||| m)) p
      (bitCount (m &&& ~~~s.reg (EV_RAW p) &&& s.reg (EV_ENABLE p)))
    split <;> (next e => simpa [e] using h)
@[simp] theorem State.setRaw_host_fw (p : Nat) (m : Word) : (s.setRaw p m).1.host.fw = s.host.fw := by
  unfold State.setRaw; dsimp only; split
  · simp
  · have h := State.signal_host_fw (s.setReg (EV_RAW p) (s.reg (EV_RAW p) ||| m)) p
      (bitCount (m &&& ~~~s.reg (EV_RAW p) &&& s.reg (EV_ENABLE p)))
    split <;> (next e => simpa [e] using h)
@[simp] theorem State.setRaw_host_link (p : Nat) (m : Word) : (s.setRaw p m).1.host.link = s.host.link := by
  unfold State.setRaw; dsimp only; split
  · simp
  · have h := State.signal_host_link (s.setReg (EV_RAW p) (s.reg (EV_RAW p) ||| m)) p
      (bitCount (m &&& ~~~s.reg (EV_RAW p) &&& s.reg (EV_ENABLE p)))
    split <;> (next e => simpa [e] using h)
@[simp] theorem State.setRaw_host_nextSeq (p : Nat) (m : Word) : (s.setRaw p m).1.host.nextSeq = s.host.nextSeq := by
  unfold State.setRaw; dsimp only; split
  · simp
  · have h := State.signal_host_nextSeq (s.setReg (EV_RAW p) (s.reg (EV_RAW p) ||| m)) p
      (bitCount (m &&& ~~~s.reg (EV_RAW p) &&& s.reg (EV_ENABLE p)))
    split <;> (next e => simpa [e] using h)

@[simp] theorem State.countRaw_pending (p k n : Nat) : (s.countRaw p k n).1.pending = s.pending := by
  unfold State.countRaw; dsimp only; split <;> rfl
@[simp] theorem State.countRaw_adm (p k n : Nat) : (s.countRaw p k n).1.adm = s.adm := by
  unfold State.countRaw; dsimp only; split <;> rfl
@[simp] theorem State.countRaw_prog (p k n : Nat) : (s.countRaw p k n).1.prog = s.prog := by
  unfold State.countRaw; dsimp only; split <;> rfl
@[simp] theorem State.countRaw_cells (p k n : Nat) : (s.countRaw p k n).1.cells = s.cells := by
  unfold State.countRaw; dsimp only; split <;> rfl
@[simp] theorem State.countRaw_fabric (p k n : Nat) : (s.countRaw p k n).1.fabric = s.fabric := by
  unfold State.countRaw; dsimp only; split <;> rfl
@[simp] theorem State.countRaw_ftl (p k n : Nat) : (s.countRaw p k n).1.ftl = s.ftl := by
  unfold State.countRaw; dsimp only; split <;> rfl
@[simp] theorem State.countRaw_care (p k n : Nat) : (s.countRaw p k n).1.care = s.care := by
  unfold State.countRaw; dsimp only; split <;> rfl
@[simp] theorem State.countRaw_red (p k n : Nat) : (s.countRaw p k n).1.red = s.red := by
  unfold State.countRaw; dsimp only; split <;> rfl
@[simp] theorem State.countRaw_media (p k n : Nat) : (s.countRaw p k n).1.media = s.media := by
  unfold State.countRaw; dsimp only; split <;> rfl
@[simp] theorem State.countRaw_search (p k n : Nat) : (s.countRaw p k n).1.search = s.search := by
  unfold State.countRaw; dsimp only; split <;> rfl
@[simp] theorem State.countRaw_crypto (p k n : Nat) : (s.countRaw p k n).1.crypto = s.crypto := by
  unfold State.countRaw; dsimp only; split <;> rfl
@[simp] theorem State.countRaw_dram (p k n : Nat) : (s.countRaw p k n).1.dram = s.dram := by
  unfold State.countRaw; dsimp only; split <;> rfl
@[simp] theorem State.countRaw_upsets (p k n : Nat) : (s.countRaw p k n).1.upsets = s.upsets := by
  unfold State.countRaw; dsimp only; split <;> rfl
@[simp] theorem State.countRaw_vfm (p k n : Nat) : (s.countRaw p k n).1.vfm = s.vfm := by
  unfold State.countRaw; dsimp only; split <;> rfl
@[simp] theorem State.countRaw_field (p k n : Nat) : (s.countRaw p k n).1.field = s.field := by
  unfold State.countRaw; dsimp only; split <;> rfl
@[simp] theorem State.countRaw_frl (p k n : Nat) : (s.countRaw p k n).1.frl = s.frl := by
  unfold State.countRaw; dsimp only; split <;> rfl
@[simp] theorem State.countRaw_power (p k n : Nat) : (s.countRaw p k n).1.power = s.power := by
  unfold State.countRaw; dsimp only; split <;> rfl
@[simp] theorem State.countRaw_start (p k n : Nat) : (s.countRaw p k n).1.start = s.start := by
  unfold State.countRaw; dsimp only; split <;> rfl
@[simp] theorem State.countRaw_events (p k n : Nat) : (s.countRaw p k n).1.events = s.events := by
  unfold State.countRaw; dsimp only; split <;> rfl
@[simp] theorem State.countRaw_squall (p k n : Nat) : (s.countRaw p k n).1.squall = s.squall := by
  unfold State.countRaw; dsimp only; split <;> rfl
@[simp] theorem State.countRaw_fresh (p k n : Nat) : (s.countRaw p k n).1.fresh = s.fresh := by
  unfold State.countRaw; dsimp only; split <;> rfl
@[simp] theorem State.countRaw_host (p k n : Nat) : (s.countRaw p k n).1.host = s.host := by
  unfold State.countRaw; dsimp only; split <;> rfl
@[simp] theorem State.countRaw_sb (p k n : Nat) : (s.countRaw p k n).1.sb = s.sb := by
  unfold State.countRaw; dsimp only; split <;> rfl
@[simp] theorem State.countRaw_out (p k n : Nat) : (s.countRaw p k n).1.out = s.out := by
  unfold State.countRaw; dsimp only; split <;> rfl
@[simp] theorem State.countRaw_host_logs (p k n : Nat) : (s.countRaw p k n).1.host.logs = s.host.logs := by
  unfold State.countRaw; dsimp only; split <;> rfl
@[simp] theorem State.countRaw_host_cmds (p k n : Nat) : (s.countRaw p k n).1.host.cmds = s.host.cmds := by
  unfold State.countRaw; dsimp only; split <;> rfl
@[simp] theorem State.countRaw_host_nss (p k n : Nat) : (s.countRaw p k n).1.host.nss = s.host.nss := by
  unfold State.countRaw; dsimp only; split <;> rfl
@[simp] theorem State.countRaw_host_evid (p k n : Nat) : (s.countRaw p k n).1.host.evid = s.host.evid := by
  unfold State.countRaw; dsimp only; split <;> rfl
@[simp] theorem State.countRaw_host_fw (p k n : Nat) : (s.countRaw p k n).1.host.fw = s.host.fw := by
  unfold State.countRaw; dsimp only; split <;> rfl
@[simp] theorem State.countRaw_host_link (p k n : Nat) : (s.countRaw p k n).1.host.link = s.host.link := by
  unfold State.countRaw; dsimp only; split <;> rfl
@[simp] theorem State.countRaw_host_nextSeq (p k n : Nat) : (s.countRaw p k n).1.host.nextSeq = s.host.nextSeq := by
  unfold State.countRaw; dsimp only; split <;> rfl

@[simp] theorem State.raiseMask_pending (p : Nat) (m : Word) : (s.raiseMask p m).pending = s.pending := by
  have h1 := State.setRaw_pending s p m
  unfold State.raiseMask; split
  · next t e => simpa only [e] using h1
  · next t n _ e =>
    have h2 := State.countRaw_pending t 5 8 n
    split
    · next u e' => simpa only [e, e'] using (h2.trans (by simpa only [e] using h1))
    · next u e' => rw [State.setRaw_pending]; simpa only [e, e'] using (h2.trans (by simpa only [e] using h1))
@[simp] theorem State.raiseMask_adm (p : Nat) (m : Word) : (s.raiseMask p m).adm = s.adm := by
  have h1 := State.setRaw_adm s p m
  unfold State.raiseMask; split
  · next t e => simpa only [e] using h1
  · next t n _ e =>
    have h2 := State.countRaw_adm t 5 8 n
    split
    · next u e' => simpa only [e, e'] using (h2.trans (by simpa only [e] using h1))
    · next u e' => rw [State.setRaw_adm]; simpa only [e, e'] using (h2.trans (by simpa only [e] using h1))
@[simp] theorem State.raiseMask_prog (p : Nat) (m : Word) : (s.raiseMask p m).prog = s.prog := by
  have h1 := State.setRaw_prog s p m
  unfold State.raiseMask; split
  · next t e => simpa only [e] using h1
  · next t n _ e =>
    have h2 := State.countRaw_prog t 5 8 n
    split
    · next u e' => simpa only [e, e'] using (h2.trans (by simpa only [e] using h1))
    · next u e' => rw [State.setRaw_prog]; simpa only [e, e'] using (h2.trans (by simpa only [e] using h1))
@[simp] theorem State.raiseMask_cells (p : Nat) (m : Word) : (s.raiseMask p m).cells = s.cells := by
  have h1 := State.setRaw_cells s p m
  unfold State.raiseMask; split
  · next t e => simpa only [e] using h1
  · next t n _ e =>
    have h2 := State.countRaw_cells t 5 8 n
    split
    · next u e' => simpa only [e, e'] using (h2.trans (by simpa only [e] using h1))
    · next u e' => rw [State.setRaw_cells]; simpa only [e, e'] using (h2.trans (by simpa only [e] using h1))
@[simp] theorem State.raiseMask_fabric (p : Nat) (m : Word) : (s.raiseMask p m).fabric = s.fabric := by
  have h1 := State.setRaw_fabric s p m
  unfold State.raiseMask; split
  · next t e => simpa only [e] using h1
  · next t n _ e =>
    have h2 := State.countRaw_fabric t 5 8 n
    split
    · next u e' => simpa only [e, e'] using (h2.trans (by simpa only [e] using h1))
    · next u e' => rw [State.setRaw_fabric]; simpa only [e, e'] using (h2.trans (by simpa only [e] using h1))
@[simp] theorem State.raiseMask_ftl (p : Nat) (m : Word) : (s.raiseMask p m).ftl = s.ftl := by
  have h1 := State.setRaw_ftl s p m
  unfold State.raiseMask; split
  · next t e => simpa only [e] using h1
  · next t n _ e =>
    have h2 := State.countRaw_ftl t 5 8 n
    split
    · next u e' => simpa only [e, e'] using (h2.trans (by simpa only [e] using h1))
    · next u e' => rw [State.setRaw_ftl]; simpa only [e, e'] using (h2.trans (by simpa only [e] using h1))
@[simp] theorem State.raiseMask_care (p : Nat) (m : Word) : (s.raiseMask p m).care = s.care := by
  have h1 := State.setRaw_care s p m
  unfold State.raiseMask; split
  · next t e => simpa only [e] using h1
  · next t n _ e =>
    have h2 := State.countRaw_care t 5 8 n
    split
    · next u e' => simpa only [e, e'] using (h2.trans (by simpa only [e] using h1))
    · next u e' => rw [State.setRaw_care]; simpa only [e, e'] using (h2.trans (by simpa only [e] using h1))
@[simp] theorem State.raiseMask_red (p : Nat) (m : Word) : (s.raiseMask p m).red = s.red := by
  have h1 := State.setRaw_red s p m
  unfold State.raiseMask; split
  · next t e => simpa only [e] using h1
  · next t n _ e =>
    have h2 := State.countRaw_red t 5 8 n
    split
    · next u e' => simpa only [e, e'] using (h2.trans (by simpa only [e] using h1))
    · next u e' => rw [State.setRaw_red]; simpa only [e, e'] using (h2.trans (by simpa only [e] using h1))
@[simp] theorem State.raiseMask_media (p : Nat) (m : Word) : (s.raiseMask p m).media = s.media := by
  have h1 := State.setRaw_media s p m
  unfold State.raiseMask; split
  · next t e => simpa only [e] using h1
  · next t n _ e =>
    have h2 := State.countRaw_media t 5 8 n
    split
    · next u e' => simpa only [e, e'] using (h2.trans (by simpa only [e] using h1))
    · next u e' => rw [State.setRaw_media]; simpa only [e, e'] using (h2.trans (by simpa only [e] using h1))
@[simp] theorem State.raiseMask_search (p : Nat) (m : Word) : (s.raiseMask p m).search = s.search := by
  have h1 := State.setRaw_search s p m
  unfold State.raiseMask; split
  · next t e => simpa only [e] using h1
  · next t n _ e =>
    have h2 := State.countRaw_search t 5 8 n
    split
    · next u e' => simpa only [e, e'] using (h2.trans (by simpa only [e] using h1))
    · next u e' => rw [State.setRaw_search]; simpa only [e, e'] using (h2.trans (by simpa only [e] using h1))
@[simp] theorem State.raiseMask_crypto (p : Nat) (m : Word) : (s.raiseMask p m).crypto = s.crypto := by
  have h1 := State.setRaw_crypto s p m
  unfold State.raiseMask; split
  · next t e => simpa only [e] using h1
  · next t n _ e =>
    have h2 := State.countRaw_crypto t 5 8 n
    split
    · next u e' => simpa only [e, e'] using (h2.trans (by simpa only [e] using h1))
    · next u e' => rw [State.setRaw_crypto]; simpa only [e, e'] using (h2.trans (by simpa only [e] using h1))
@[simp] theorem State.raiseMask_dram (p : Nat) (m : Word) : (s.raiseMask p m).dram = s.dram := by
  have h1 := State.setRaw_dram s p m
  unfold State.raiseMask; split
  · next t e => simpa only [e] using h1
  · next t n _ e =>
    have h2 := State.countRaw_dram t 5 8 n
    split
    · next u e' => simpa only [e, e'] using (h2.trans (by simpa only [e] using h1))
    · next u e' => rw [State.setRaw_dram]; simpa only [e, e'] using (h2.trans (by simpa only [e] using h1))
@[simp] theorem State.raiseMask_upsets (p : Nat) (m : Word) : (s.raiseMask p m).upsets = s.upsets := by
  have h1 := State.setRaw_upsets s p m
  unfold State.raiseMask; split
  · next t e => simpa only [e] using h1
  · next t n _ e =>
    have h2 := State.countRaw_upsets t 5 8 n
    split
    · next u e' => simpa only [e, e'] using (h2.trans (by simpa only [e] using h1))
    · next u e' => rw [State.setRaw_upsets]; simpa only [e, e'] using (h2.trans (by simpa only [e] using h1))
@[simp] theorem State.raiseMask_vfm (p : Nat) (m : Word) : (s.raiseMask p m).vfm = s.vfm := by
  have h1 := State.setRaw_vfm s p m
  unfold State.raiseMask; split
  · next t e => simpa only [e] using h1
  · next t n _ e =>
    have h2 := State.countRaw_vfm t 5 8 n
    split
    · next u e' => simpa only [e, e'] using (h2.trans (by simpa only [e] using h1))
    · next u e' => rw [State.setRaw_vfm]; simpa only [e, e'] using (h2.trans (by simpa only [e] using h1))
@[simp] theorem State.raiseMask_field (p : Nat) (m : Word) : (s.raiseMask p m).field = s.field := by
  have h1 := State.setRaw_field s p m
  unfold State.raiseMask; split
  · next t e => simpa only [e] using h1
  · next t n _ e =>
    have h2 := State.countRaw_field t 5 8 n
    split
    · next u e' => simpa only [e, e'] using (h2.trans (by simpa only [e] using h1))
    · next u e' => rw [State.setRaw_field]; simpa only [e, e'] using (h2.trans (by simpa only [e] using h1))
@[simp] theorem State.raiseMask_frl (p : Nat) (m : Word) : (s.raiseMask p m).frl = s.frl := by
  have h1 := State.setRaw_frl s p m
  unfold State.raiseMask; split
  · next t e => simpa only [e] using h1
  · next t n _ e =>
    have h2 := State.countRaw_frl t 5 8 n
    split
    · next u e' => simpa only [e, e'] using (h2.trans (by simpa only [e] using h1))
    · next u e' => rw [State.setRaw_frl]; simpa only [e, e'] using (h2.trans (by simpa only [e] using h1))
@[simp] theorem State.raiseMask_power (p : Nat) (m : Word) : (s.raiseMask p m).power = s.power := by
  have h1 := State.setRaw_power s p m
  unfold State.raiseMask; split
  · next t e => simpa only [e] using h1
  · next t n _ e =>
    have h2 := State.countRaw_power t 5 8 n
    split
    · next u e' => simpa only [e, e'] using (h2.trans (by simpa only [e] using h1))
    · next u e' => rw [State.setRaw_power]; simpa only [e, e'] using (h2.trans (by simpa only [e] using h1))
@[simp] theorem State.raiseMask_start (p : Nat) (m : Word) : (s.raiseMask p m).start = s.start := by
  have h1 := State.setRaw_start s p m
  unfold State.raiseMask; split
  · next t e => simpa only [e] using h1
  · next t n _ e =>
    have h2 := State.countRaw_start t 5 8 n
    split
    · next u e' => simpa only [e, e'] using (h2.trans (by simpa only [e] using h1))
    · next u e' => rw [State.setRaw_start]; simpa only [e, e'] using (h2.trans (by simpa only [e] using h1))
@[simp] theorem State.raiseMask_events (p : Nat) (m : Word) : (s.raiseMask p m).events = s.events := by
  have h1 := State.setRaw_events s p m
  unfold State.raiseMask; split
  · next t e => simpa only [e] using h1
  · next t n _ e =>
    have h2 := State.countRaw_events t 5 8 n
    split
    · next u e' => simpa only [e, e'] using (h2.trans (by simpa only [e] using h1))
    · next u e' => rw [State.setRaw_events]; simpa only [e, e'] using (h2.trans (by simpa only [e] using h1))
@[simp] theorem State.raiseMask_squall (p : Nat) (m : Word) : (s.raiseMask p m).squall = s.squall := by
  have h1 := State.setRaw_squall s p m
  unfold State.raiseMask; split
  · next t e => simpa only [e] using h1
  · next t n _ e =>
    have h2 := State.countRaw_squall t 5 8 n
    split
    · next u e' => simpa only [e, e'] using (h2.trans (by simpa only [e] using h1))
    · next u e' => rw [State.setRaw_squall]; simpa only [e, e'] using (h2.trans (by simpa only [e] using h1))
@[simp] theorem State.raiseMask_fresh (p : Nat) (m : Word) : (s.raiseMask p m).fresh = s.fresh := by
  have h1 := State.setRaw_fresh s p m
  unfold State.raiseMask; split
  · next t e => simpa only [e] using h1
  · next t n _ e =>
    have h2 := State.countRaw_fresh t 5 8 n
    split
    · next u e' => simpa only [e, e'] using (h2.trans (by simpa only [e] using h1))
    · next u e' => rw [State.setRaw_fresh]; simpa only [e, e'] using (h2.trans (by simpa only [e] using h1))
@[simp] theorem State.raiseMask_host_logs (p : Nat) (m : Word) : (s.raiseMask p m).host.logs = s.host.logs := by
  have h1 := State.setRaw_host_logs s p m
  unfold State.raiseMask; split
  · next t e => simpa only [e] using h1
  · next t n _ e =>
    have h2 := State.countRaw_host_logs t 5 8 n
    split
    · next u e' => simpa only [e, e'] using (h2.trans (by simpa only [e] using h1))
    · next u e' => rw [State.setRaw_host_logs]; simpa only [e, e'] using (h2.trans (by simpa only [e] using h1))
@[simp] theorem State.raiseMask_host_cmds (p : Nat) (m : Word) : (s.raiseMask p m).host.cmds = s.host.cmds := by
  have h1 := State.setRaw_host_cmds s p m
  unfold State.raiseMask; split
  · next t e => simpa only [e] using h1
  · next t n _ e =>
    have h2 := State.countRaw_host_cmds t 5 8 n
    split
    · next u e' => simpa only [e, e'] using (h2.trans (by simpa only [e] using h1))
    · next u e' => rw [State.setRaw_host_cmds]; simpa only [e, e'] using (h2.trans (by simpa only [e] using h1))
@[simp] theorem State.raiseMask_host_nss (p : Nat) (m : Word) : (s.raiseMask p m).host.nss = s.host.nss := by
  have h1 := State.setRaw_host_nss s p m
  unfold State.raiseMask; split
  · next t e => simpa only [e] using h1
  · next t n _ e =>
    have h2 := State.countRaw_host_nss t 5 8 n
    split
    · next u e' => simpa only [e, e'] using (h2.trans (by simpa only [e] using h1))
    · next u e' => rw [State.setRaw_host_nss]; simpa only [e, e'] using (h2.trans (by simpa only [e] using h1))
@[simp] theorem State.raiseMask_host_evid (p : Nat) (m : Word) : (s.raiseMask p m).host.evid = s.host.evid := by
  have h1 := State.setRaw_host_evid s p m
  unfold State.raiseMask; split
  · next t e => simpa only [e] using h1
  · next t n _ e =>
    have h2 := State.countRaw_host_evid t 5 8 n
    split
    · next u e' => simpa only [e, e'] using (h2.trans (by simpa only [e] using h1))
    · next u e' => rw [State.setRaw_host_evid]; simpa only [e, e'] using (h2.trans (by simpa only [e] using h1))
@[simp] theorem State.raiseMask_host_fw (p : Nat) (m : Word) : (s.raiseMask p m).host.fw = s.host.fw := by
  have h1 := State.setRaw_host_fw s p m
  unfold State.raiseMask; split
  · next t e => simpa only [e] using h1
  · next t n _ e =>
    have h2 := State.countRaw_host_fw t 5 8 n
    split
    · next u e' => simpa only [e, e'] using (h2.trans (by simpa only [e] using h1))
    · next u e' => rw [State.setRaw_host_fw]; simpa only [e, e'] using (h2.trans (by simpa only [e] using h1))
@[simp] theorem State.raiseMask_host_link (p : Nat) (m : Word) : (s.raiseMask p m).host.link = s.host.link := by
  have h1 := State.setRaw_host_link s p m
  unfold State.raiseMask; split
  · next t e => simpa only [e] using h1
  · next t n _ e =>
    have h2 := State.countRaw_host_link t 5 8 n
    split
    · next u e' => simpa only [e, e'] using (h2.trans (by simpa only [e] using h1))
    · next u e' => rw [State.setRaw_host_link]; simpa only [e, e'] using (h2.trans (by simpa only [e] using h1))
@[simp] theorem State.raiseMask_host_nextSeq (p : Nat) (m : Word) : (s.raiseMask p m).host.nextSeq = s.host.nextSeq := by
  have h1 := State.setRaw_host_nextSeq s p m
  unfold State.raiseMask; split
  · next t e => simpa only [e] using h1
  · next t n _ e =>
    have h2 := State.countRaw_host_nextSeq t 5 8 n
    split
    · next u e' => simpa only [e, e'] using (h2.trans (by simpa only [e] using h1))
    · next u e' => rw [State.setRaw_host_nextSeq]; simpa only [e, e'] using (h2.trans (by simpa only [e] using h1))

@[simp] theorem State.raise_pending (p k : Nat) : (s.raise p k).pending = s.pending := by
  unfold State.raise; simp
@[simp] theorem State.raise_adm (p k : Nat) : (s.raise p k).adm = s.adm := by
  unfold State.raise; simp
@[simp] theorem State.raise_prog (p k : Nat) : (s.raise p k).prog = s.prog := by
  unfold State.raise; simp
@[simp] theorem State.raise_cells (p k : Nat) : (s.raise p k).cells = s.cells := by
  unfold State.raise; simp
@[simp] theorem State.raise_fabric (p k : Nat) : (s.raise p k).fabric = s.fabric := by
  unfold State.raise; simp
@[simp] theorem State.raise_ftl (p k : Nat) : (s.raise p k).ftl = s.ftl := by
  unfold State.raise; simp
@[simp] theorem State.raise_care (p k : Nat) : (s.raise p k).care = s.care := by
  unfold State.raise; simp
@[simp] theorem State.raise_red (p k : Nat) : (s.raise p k).red = s.red := by
  unfold State.raise; simp
@[simp] theorem State.raise_media (p k : Nat) : (s.raise p k).media = s.media := by
  unfold State.raise; simp
@[simp] theorem State.raise_search (p k : Nat) : (s.raise p k).search = s.search := by
  unfold State.raise; simp
@[simp] theorem State.raise_crypto (p k : Nat) : (s.raise p k).crypto = s.crypto := by
  unfold State.raise; simp
@[simp] theorem State.raise_dram (p k : Nat) : (s.raise p k).dram = s.dram := by
  unfold State.raise; simp
@[simp] theorem State.raise_upsets (p k : Nat) : (s.raise p k).upsets = s.upsets := by
  unfold State.raise; simp
@[simp] theorem State.raise_vfm (p k : Nat) : (s.raise p k).vfm = s.vfm := by
  unfold State.raise; simp
@[simp] theorem State.raise_field (p k : Nat) : (s.raise p k).field = s.field := by
  unfold State.raise; simp
@[simp] theorem State.raise_frl (p k : Nat) : (s.raise p k).frl = s.frl := by
  unfold State.raise; simp
@[simp] theorem State.raise_power (p k : Nat) : (s.raise p k).power = s.power := by
  unfold State.raise; simp
@[simp] theorem State.raise_start (p k : Nat) : (s.raise p k).start = s.start := by
  unfold State.raise; simp
@[simp] theorem State.raise_events (p k : Nat) : (s.raise p k).events = s.events := by
  unfold State.raise; simp
@[simp] theorem State.raise_squall (p k : Nat) : (s.raise p k).squall = s.squall := by
  unfold State.raise; simp
@[simp] theorem State.raise_fresh (p k : Nat) : (s.raise p k).fresh = s.fresh := by
  unfold State.raise; simp
@[simp] theorem State.raise_host_logs (p k : Nat) : (s.raise p k).host.logs = s.host.logs := by
  unfold State.raise; simp
@[simp] theorem State.raise_host_cmds (p k : Nat) : (s.raise p k).host.cmds = s.host.cmds := by
  unfold State.raise; simp
@[simp] theorem State.raise_host_nss (p k : Nat) : (s.raise p k).host.nss = s.host.nss := by
  unfold State.raise; simp
@[simp] theorem State.raise_host_evid (p k : Nat) : (s.raise p k).host.evid = s.host.evid := by
  unfold State.raise; simp
@[simp] theorem State.raise_host_fw (p k : Nat) : (s.raise p k).host.fw = s.host.fw := by
  unfold State.raise; simp
@[simp] theorem State.raise_host_link (p k : Nat) : (s.raise p k).host.link = s.host.link := by
  unfold State.raise; simp
@[simp] theorem State.raise_host_nextSeq (p k : Nat) : (s.raise p k).host.nextSeq = s.host.nextSeq := by
  unfold State.raise; simp

@[simp] theorem State.count_pending (p k n : Nat) : (s.count p k n).pending = s.pending := by
  have h := State.countRaw_pending s p k n
  unfold State.count; split <;> (next t e => simpa [e] using h)
@[simp] theorem State.count_adm (p k n : Nat) : (s.count p k n).adm = s.adm := by
  have h := State.countRaw_adm s p k n
  unfold State.count; split <;> (next t e => simpa [e] using h)
@[simp] theorem State.count_prog (p k n : Nat) : (s.count p k n).prog = s.prog := by
  have h := State.countRaw_prog s p k n
  unfold State.count; split <;> (next t e => simpa [e] using h)
@[simp] theorem State.count_cells (p k n : Nat) : (s.count p k n).cells = s.cells := by
  have h := State.countRaw_cells s p k n
  unfold State.count; split <;> (next t e => simpa [e] using h)
@[simp] theorem State.count_fabric (p k n : Nat) : (s.count p k n).fabric = s.fabric := by
  have h := State.countRaw_fabric s p k n
  unfold State.count; split <;> (next t e => simpa [e] using h)
@[simp] theorem State.count_ftl (p k n : Nat) : (s.count p k n).ftl = s.ftl := by
  have h := State.countRaw_ftl s p k n
  unfold State.count; split <;> (next t e => simpa [e] using h)
@[simp] theorem State.count_care (p k n : Nat) : (s.count p k n).care = s.care := by
  have h := State.countRaw_care s p k n
  unfold State.count; split <;> (next t e => simpa [e] using h)
@[simp] theorem State.count_red (p k n : Nat) : (s.count p k n).red = s.red := by
  have h := State.countRaw_red s p k n
  unfold State.count; split <;> (next t e => simpa [e] using h)
@[simp] theorem State.count_media (p k n : Nat) : (s.count p k n).media = s.media := by
  have h := State.countRaw_media s p k n
  unfold State.count; split <;> (next t e => simpa [e] using h)
@[simp] theorem State.count_search (p k n : Nat) : (s.count p k n).search = s.search := by
  have h := State.countRaw_search s p k n
  unfold State.count; split <;> (next t e => simpa [e] using h)
@[simp] theorem State.count_crypto (p k n : Nat) : (s.count p k n).crypto = s.crypto := by
  have h := State.countRaw_crypto s p k n
  unfold State.count; split <;> (next t e => simpa [e] using h)
@[simp] theorem State.count_dram (p k n : Nat) : (s.count p k n).dram = s.dram := by
  have h := State.countRaw_dram s p k n
  unfold State.count; split <;> (next t e => simpa [e] using h)
@[simp] theorem State.count_upsets (p k n : Nat) : (s.count p k n).upsets = s.upsets := by
  have h := State.countRaw_upsets s p k n
  unfold State.count; split <;> (next t e => simpa [e] using h)
@[simp] theorem State.count_vfm (p k n : Nat) : (s.count p k n).vfm = s.vfm := by
  have h := State.countRaw_vfm s p k n
  unfold State.count; split <;> (next t e => simpa [e] using h)
@[simp] theorem State.count_field (p k n : Nat) : (s.count p k n).field = s.field := by
  have h := State.countRaw_field s p k n
  unfold State.count; split <;> (next t e => simpa [e] using h)
@[simp] theorem State.count_frl (p k n : Nat) : (s.count p k n).frl = s.frl := by
  have h := State.countRaw_frl s p k n
  unfold State.count; split <;> (next t e => simpa [e] using h)
@[simp] theorem State.count_power (p k n : Nat) : (s.count p k n).power = s.power := by
  have h := State.countRaw_power s p k n
  unfold State.count; split <;> (next t e => simpa [e] using h)
@[simp] theorem State.count_start (p k n : Nat) : (s.count p k n).start = s.start := by
  have h := State.countRaw_start s p k n
  unfold State.count; split <;> (next t e => simpa [e] using h)
@[simp] theorem State.count_events (p k n : Nat) : (s.count p k n).events = s.events := by
  have h := State.countRaw_events s p k n
  unfold State.count; split <;> (next t e => simpa [e] using h)
@[simp] theorem State.count_squall (p k n : Nat) : (s.count p k n).squall = s.squall := by
  have h := State.countRaw_squall s p k n
  unfold State.count; split <;> (next t e => simpa [e] using h)
@[simp] theorem State.count_fresh (p k n : Nat) : (s.count p k n).fresh = s.fresh := by
  have h := State.countRaw_fresh s p k n
  unfold State.count; split <;> (next t e => simpa [e] using h)
@[simp] theorem State.count_host_logs (p k n : Nat) : (s.count p k n).host.logs = s.host.logs := by
  have h := State.countRaw_host_logs s p k n
  unfold State.count; split <;> (next t e => simpa [e] using h)
@[simp] theorem State.count_host_cmds (p k n : Nat) : (s.count p k n).host.cmds = s.host.cmds := by
  have h := State.countRaw_host_cmds s p k n
  unfold State.count; split <;> (next t e => simpa [e] using h)
@[simp] theorem State.count_host_nss (p k n : Nat) : (s.count p k n).host.nss = s.host.nss := by
  have h := State.countRaw_host_nss s p k n
  unfold State.count; split <;> (next t e => simpa [e] using h)
@[simp] theorem State.count_host_evid (p k n : Nat) : (s.count p k n).host.evid = s.host.evid := by
  have h := State.countRaw_host_evid s p k n
  unfold State.count; split <;> (next t e => simpa [e] using h)
@[simp] theorem State.count_host_fw (p k n : Nat) : (s.count p k n).host.fw = s.host.fw := by
  have h := State.countRaw_host_fw s p k n
  unfold State.count; split <;> (next t e => simpa [e] using h)
@[simp] theorem State.count_host_link (p k n : Nat) : (s.count p k n).host.link = s.host.link := by
  have h := State.countRaw_host_link s p k n
  unfold State.count; split <;> (next t e => simpa [e] using h)
@[simp] theorem State.count_host_nextSeq (p k n : Nat) : (s.count p k n).host.nextSeq = s.host.nextSeq := by
  have h := State.countRaw_host_nextSeq s p k n
  unfold State.count; split <;> (next t e => simpa [e] using h)

@[simp] theorem State.count64_pending (p k n : Nat) : (s.count64 p k n).pending = s.pending := by
  unfold State.count64; dsimp only; split <;> simp
@[simp] theorem State.count64_adm (p k n : Nat) : (s.count64 p k n).adm = s.adm := by
  unfold State.count64; dsimp only; split <;> simp
@[simp] theorem State.count64_prog (p k n : Nat) : (s.count64 p k n).prog = s.prog := by
  unfold State.count64; dsimp only; split <;> simp
@[simp] theorem State.count64_cells (p k n : Nat) : (s.count64 p k n).cells = s.cells := by
  unfold State.count64; dsimp only; split <;> simp
@[simp] theorem State.count64_fabric (p k n : Nat) : (s.count64 p k n).fabric = s.fabric := by
  unfold State.count64; dsimp only; split <;> simp
@[simp] theorem State.count64_ftl (p k n : Nat) : (s.count64 p k n).ftl = s.ftl := by
  unfold State.count64; dsimp only; split <;> simp
@[simp] theorem State.count64_care (p k n : Nat) : (s.count64 p k n).care = s.care := by
  unfold State.count64; dsimp only; split <;> simp
@[simp] theorem State.count64_red (p k n : Nat) : (s.count64 p k n).red = s.red := by
  unfold State.count64; dsimp only; split <;> simp
@[simp] theorem State.count64_media (p k n : Nat) : (s.count64 p k n).media = s.media := by
  unfold State.count64; dsimp only; split <;> simp
@[simp] theorem State.count64_search (p k n : Nat) : (s.count64 p k n).search = s.search := by
  unfold State.count64; dsimp only; split <;> simp
@[simp] theorem State.count64_crypto (p k n : Nat) : (s.count64 p k n).crypto = s.crypto := by
  unfold State.count64; dsimp only; split <;> simp
@[simp] theorem State.count64_dram (p k n : Nat) : (s.count64 p k n).dram = s.dram := by
  unfold State.count64; dsimp only; split <;> simp
@[simp] theorem State.count64_upsets (p k n : Nat) : (s.count64 p k n).upsets = s.upsets := by
  unfold State.count64; dsimp only; split <;> simp
@[simp] theorem State.count64_vfm (p k n : Nat) : (s.count64 p k n).vfm = s.vfm := by
  unfold State.count64; dsimp only; split <;> simp
@[simp] theorem State.count64_field (p k n : Nat) : (s.count64 p k n).field = s.field := by
  unfold State.count64; dsimp only; split <;> simp
@[simp] theorem State.count64_frl (p k n : Nat) : (s.count64 p k n).frl = s.frl := by
  unfold State.count64; dsimp only; split <;> simp
@[simp] theorem State.count64_power (p k n : Nat) : (s.count64 p k n).power = s.power := by
  unfold State.count64; dsimp only; split <;> simp
@[simp] theorem State.count64_start (p k n : Nat) : (s.count64 p k n).start = s.start := by
  unfold State.count64; dsimp only; split <;> simp
@[simp] theorem State.count64_events (p k n : Nat) : (s.count64 p k n).events = s.events := by
  unfold State.count64; dsimp only; split <;> simp
@[simp] theorem State.count64_squall (p k n : Nat) : (s.count64 p k n).squall = s.squall := by
  unfold State.count64; dsimp only; split <;> simp
@[simp] theorem State.count64_fresh (p k n : Nat) : (s.count64 p k n).fresh = s.fresh := by
  unfold State.count64; dsimp only; split <;> simp
@[simp] theorem State.count64_host_logs (p k n : Nat) : (s.count64 p k n).host.logs = s.host.logs := by
  unfold State.count64; dsimp only; split <;> simp
@[simp] theorem State.count64_host_cmds (p k n : Nat) : (s.count64 p k n).host.cmds = s.host.cmds := by
  unfold State.count64; dsimp only; split <;> simp
@[simp] theorem State.count64_host_nss (p k n : Nat) : (s.count64 p k n).host.nss = s.host.nss := by
  unfold State.count64; dsimp only; split <;> simp
@[simp] theorem State.count64_host_evid (p k n : Nat) : (s.count64 p k n).host.evid = s.host.evid := by
  unfold State.count64; dsimp only; split <;> simp
@[simp] theorem State.count64_host_fw (p k n : Nat) : (s.count64 p k n).host.fw = s.host.fw := by
  unfold State.count64; dsimp only; split <;> simp
@[simp] theorem State.count64_host_link (p k n : Nat) : (s.count64 p k n).host.link = s.host.link := by
  unfold State.count64; dsimp only; split <;> simp
@[simp] theorem State.count64_host_nextSeq (p k n : Nat) : (s.count64 p k n).host.nextSeq = s.host.nextSeq := by
  unfold State.count64; dsimp only; split <;> simp

@[simp] theorem State.error_pending (p code : Nat) (m : Option Master) (c1 c2 c3 c6 c7 : Word) : (s.error p code m c1 c2 c3 c6 c7).pending = s.pending := by
  unfold State.error; dsimp only; repeat' split
  all_goals simp
@[simp] theorem State.error_adm (p code : Nat) (m : Option Master) (c1 c2 c3 c6 c7 : Word) : (s.error p code m c1 c2 c3 c6 c7).adm = s.adm := by
  unfold State.error; dsimp only; repeat' split
  all_goals simp
@[simp] theorem State.error_prog (p code : Nat) (m : Option Master) (c1 c2 c3 c6 c7 : Word) : (s.error p code m c1 c2 c3 c6 c7).prog = s.prog := by
  unfold State.error; dsimp only; repeat' split
  all_goals simp
@[simp] theorem State.error_cells (p code : Nat) (m : Option Master) (c1 c2 c3 c6 c7 : Word) : (s.error p code m c1 c2 c3 c6 c7).cells = s.cells := by
  unfold State.error; dsimp only; repeat' split
  all_goals simp
@[simp] theorem State.error_fabric (p code : Nat) (m : Option Master) (c1 c2 c3 c6 c7 : Word) : (s.error p code m c1 c2 c3 c6 c7).fabric = s.fabric := by
  unfold State.error; dsimp only; repeat' split
  all_goals simp
@[simp] theorem State.error_ftl (p code : Nat) (m : Option Master) (c1 c2 c3 c6 c7 : Word) : (s.error p code m c1 c2 c3 c6 c7).ftl = s.ftl := by
  unfold State.error; dsimp only; repeat' split
  all_goals simp
@[simp] theorem State.error_care (p code : Nat) (m : Option Master) (c1 c2 c3 c6 c7 : Word) : (s.error p code m c1 c2 c3 c6 c7).care = s.care := by
  unfold State.error; dsimp only; repeat' split
  all_goals simp
@[simp] theorem State.error_red (p code : Nat) (m : Option Master) (c1 c2 c3 c6 c7 : Word) : (s.error p code m c1 c2 c3 c6 c7).red = s.red := by
  unfold State.error; dsimp only; repeat' split
  all_goals simp
@[simp] theorem State.error_media (p code : Nat) (m : Option Master) (c1 c2 c3 c6 c7 : Word) : (s.error p code m c1 c2 c3 c6 c7).media = s.media := by
  unfold State.error; dsimp only; repeat' split
  all_goals simp
@[simp] theorem State.error_search (p code : Nat) (m : Option Master) (c1 c2 c3 c6 c7 : Word) : (s.error p code m c1 c2 c3 c6 c7).search = s.search := by
  unfold State.error; dsimp only; repeat' split
  all_goals simp
@[simp] theorem State.error_crypto (p code : Nat) (m : Option Master) (c1 c2 c3 c6 c7 : Word) : (s.error p code m c1 c2 c3 c6 c7).crypto = s.crypto := by
  unfold State.error; dsimp only; repeat' split
  all_goals simp
@[simp] theorem State.error_dram (p code : Nat) (m : Option Master) (c1 c2 c3 c6 c7 : Word) : (s.error p code m c1 c2 c3 c6 c7).dram = s.dram := by
  unfold State.error; dsimp only; repeat' split
  all_goals simp
@[simp] theorem State.error_upsets (p code : Nat) (m : Option Master) (c1 c2 c3 c6 c7 : Word) : (s.error p code m c1 c2 c3 c6 c7).upsets = s.upsets := by
  unfold State.error; dsimp only; repeat' split
  all_goals simp
@[simp] theorem State.error_vfm (p code : Nat) (m : Option Master) (c1 c2 c3 c6 c7 : Word) : (s.error p code m c1 c2 c3 c6 c7).vfm = s.vfm := by
  unfold State.error; dsimp only; repeat' split
  all_goals simp
@[simp] theorem State.error_field (p code : Nat) (m : Option Master) (c1 c2 c3 c6 c7 : Word) : (s.error p code m c1 c2 c3 c6 c7).field = s.field := by
  unfold State.error; dsimp only; repeat' split
  all_goals simp
@[simp] theorem State.error_frl (p code : Nat) (m : Option Master) (c1 c2 c3 c6 c7 : Word) : (s.error p code m c1 c2 c3 c6 c7).frl = s.frl := by
  unfold State.error; dsimp only; repeat' split
  all_goals simp
@[simp] theorem State.error_power (p code : Nat) (m : Option Master) (c1 c2 c3 c6 c7 : Word) : (s.error p code m c1 c2 c3 c6 c7).power = s.power := by
  unfold State.error; dsimp only; repeat' split
  all_goals simp
@[simp] theorem State.error_start (p code : Nat) (m : Option Master) (c1 c2 c3 c6 c7 : Word) : (s.error p code m c1 c2 c3 c6 c7).start = s.start := by
  unfold State.error; dsimp only; repeat' split
  all_goals simp
@[simp] theorem State.error_events (p code : Nat) (m : Option Master) (c1 c2 c3 c6 c7 : Word) : (s.error p code m c1 c2 c3 c6 c7).events = s.events := by
  unfold State.error; dsimp only; repeat' split
  all_goals simp
@[simp] theorem State.error_squall (p code : Nat) (m : Option Master) (c1 c2 c3 c6 c7 : Word) : (s.error p code m c1 c2 c3 c6 c7).squall = s.squall := by
  unfold State.error; dsimp only; repeat' split
  all_goals simp
@[simp] theorem State.error_fresh (p code : Nat) (m : Option Master) (c1 c2 c3 c6 c7 : Word) : (s.error p code m c1 c2 c3 c6 c7).fresh = s.fresh := by
  unfold State.error; dsimp only; repeat' split
  all_goals simp
@[simp] theorem State.error_host_logs (p code : Nat) (m : Option Master) (c1 c2 c3 c6 c7 : Word) : (s.error p code m c1 c2 c3 c6 c7).host.logs = s.host.logs := by
  unfold State.error; dsimp only; repeat' split
  all_goals simp
@[simp] theorem State.error_host_cmds (p code : Nat) (m : Option Master) (c1 c2 c3 c6 c7 : Word) : (s.error p code m c1 c2 c3 c6 c7).host.cmds = s.host.cmds := by
  unfold State.error; dsimp only; repeat' split
  all_goals simp
@[simp] theorem State.error_host_nss (p code : Nat) (m : Option Master) (c1 c2 c3 c6 c7 : Word) : (s.error p code m c1 c2 c3 c6 c7).host.nss = s.host.nss := by
  unfold State.error; dsimp only; repeat' split
  all_goals simp
@[simp] theorem State.error_host_evid (p code : Nat) (m : Option Master) (c1 c2 c3 c6 c7 : Word) : (s.error p code m c1 c2 c3 c6 c7).host.evid = s.host.evid := by
  unfold State.error; dsimp only; repeat' split
  all_goals simp
@[simp] theorem State.error_host_fw (p code : Nat) (m : Option Master) (c1 c2 c3 c6 c7 : Word) : (s.error p code m c1 c2 c3 c6 c7).host.fw = s.host.fw := by
  unfold State.error; dsimp only; repeat' split
  all_goals simp
@[simp] theorem State.error_host_link (p code : Nat) (m : Option Master) (c1 c2 c3 c6 c7 : Word) : (s.error p code m c1 c2 c3 c6 c7).host.link = s.host.link := by
  unfold State.error; dsimp only; repeat' split
  all_goals simp
@[simp] theorem State.error_host_nextSeq (p code : Nat) (m : Option Master) (c1 c2 c3 c6 c7 : Word) : (s.error p code m c1 c2 c3 c6 c7).host.nextSeq = s.host.nextSeq := by
  unfold State.error; dsimp only; repeat' split
  all_goals simp

@[simp] theorem State.blockError_pending (p code : Nat) (c1 c2 c3 : Word) : (s.blockError p code c1 c2 c3).pending = s.pending := by
  unfold State.blockError; simp
@[simp] theorem State.blockError_adm (p code : Nat) (c1 c2 c3 : Word) : (s.blockError p code c1 c2 c3).adm = s.adm := by
  unfold State.blockError; simp
@[simp] theorem State.blockError_prog (p code : Nat) (c1 c2 c3 : Word) : (s.blockError p code c1 c2 c3).prog = s.prog := by
  unfold State.blockError; simp
@[simp] theorem State.blockError_cells (p code : Nat) (c1 c2 c3 : Word) : (s.blockError p code c1 c2 c3).cells = s.cells := by
  unfold State.blockError; simp
@[simp] theorem State.blockError_fabric (p code : Nat) (c1 c2 c3 : Word) : (s.blockError p code c1 c2 c3).fabric = s.fabric := by
  unfold State.blockError; simp
@[simp] theorem State.blockError_ftl (p code : Nat) (c1 c2 c3 : Word) : (s.blockError p code c1 c2 c3).ftl = s.ftl := by
  unfold State.blockError; simp
@[simp] theorem State.blockError_care (p code : Nat) (c1 c2 c3 : Word) : (s.blockError p code c1 c2 c3).care = s.care := by
  unfold State.blockError; simp
@[simp] theorem State.blockError_red (p code : Nat) (c1 c2 c3 : Word) : (s.blockError p code c1 c2 c3).red = s.red := by
  unfold State.blockError; simp
@[simp] theorem State.blockError_media (p code : Nat) (c1 c2 c3 : Word) : (s.blockError p code c1 c2 c3).media = s.media := by
  unfold State.blockError; simp
@[simp] theorem State.blockError_search (p code : Nat) (c1 c2 c3 : Word) : (s.blockError p code c1 c2 c3).search = s.search := by
  unfold State.blockError; simp
@[simp] theorem State.blockError_crypto (p code : Nat) (c1 c2 c3 : Word) : (s.blockError p code c1 c2 c3).crypto = s.crypto := by
  unfold State.blockError; simp
@[simp] theorem State.blockError_dram (p code : Nat) (c1 c2 c3 : Word) : (s.blockError p code c1 c2 c3).dram = s.dram := by
  unfold State.blockError; simp
@[simp] theorem State.blockError_upsets (p code : Nat) (c1 c2 c3 : Word) : (s.blockError p code c1 c2 c3).upsets = s.upsets := by
  unfold State.blockError; simp
@[simp] theorem State.blockError_vfm (p code : Nat) (c1 c2 c3 : Word) : (s.blockError p code c1 c2 c3).vfm = s.vfm := by
  unfold State.blockError; simp
@[simp] theorem State.blockError_field (p code : Nat) (c1 c2 c3 : Word) : (s.blockError p code c1 c2 c3).field = s.field := by
  unfold State.blockError; simp
@[simp] theorem State.blockError_frl (p code : Nat) (c1 c2 c3 : Word) : (s.blockError p code c1 c2 c3).frl = s.frl := by
  unfold State.blockError; simp
@[simp] theorem State.blockError_power (p code : Nat) (c1 c2 c3 : Word) : (s.blockError p code c1 c2 c3).power = s.power := by
  unfold State.blockError; simp
@[simp] theorem State.blockError_start (p code : Nat) (c1 c2 c3 : Word) : (s.blockError p code c1 c2 c3).start = s.start := by
  unfold State.blockError; simp
@[simp] theorem State.blockError_events (p code : Nat) (c1 c2 c3 : Word) : (s.blockError p code c1 c2 c3).events = s.events := by
  unfold State.blockError; simp
@[simp] theorem State.blockError_squall (p code : Nat) (c1 c2 c3 : Word) : (s.blockError p code c1 c2 c3).squall = s.squall := by
  unfold State.blockError; simp
@[simp] theorem State.blockError_fresh (p code : Nat) (c1 c2 c3 : Word) : (s.blockError p code c1 c2 c3).fresh = s.fresh := by
  unfold State.blockError; simp
@[simp] theorem State.blockError_host_logs (p code : Nat) (c1 c2 c3 : Word) : (s.blockError p code c1 c2 c3).host.logs = s.host.logs := by
  unfold State.blockError; simp
@[simp] theorem State.blockError_host_cmds (p code : Nat) (c1 c2 c3 : Word) : (s.blockError p code c1 c2 c3).host.cmds = s.host.cmds := by
  unfold State.blockError; simp
@[simp] theorem State.blockError_host_nss (p code : Nat) (c1 c2 c3 : Word) : (s.blockError p code c1 c2 c3).host.nss = s.host.nss := by
  unfold State.blockError; simp
@[simp] theorem State.blockError_host_evid (p code : Nat) (c1 c2 c3 : Word) : (s.blockError p code c1 c2 c3).host.evid = s.host.evid := by
  unfold State.blockError; simp
@[simp] theorem State.blockError_host_fw (p code : Nat) (c1 c2 c3 : Word) : (s.blockError p code c1 c2 c3).host.fw = s.host.fw := by
  unfold State.blockError; simp
@[simp] theorem State.blockError_host_link (p code : Nat) (c1 c2 c3 : Word) : (s.blockError p code c1 c2 c3).host.link = s.host.link := by
  unfold State.blockError; simp
@[simp] theorem State.blockError_host_nextSeq (p code : Nat) (c1 c2 c3 : Word) : (s.blockError p code c1 c2 c3).host.nextSeq = s.host.nextSeq := by
  unfold State.blockError; simp

@[simp] theorem State.setStat_pending (p k : Nat) : (s.setStat p k).pending = s.pending := by
  unfold State.setStat; dsimp only; split <;> simp
@[simp] theorem State.setStat_adm (p k : Nat) : (s.setStat p k).adm = s.adm := by
  unfold State.setStat; dsimp only; split <;> simp
@[simp] theorem State.setStat_prog (p k : Nat) : (s.setStat p k).prog = s.prog := by
  unfold State.setStat; dsimp only; split <;> simp
@[simp] theorem State.setStat_cells (p k : Nat) : (s.setStat p k).cells = s.cells := by
  unfold State.setStat; dsimp only; split <;> simp
@[simp] theorem State.setStat_fabric (p k : Nat) : (s.setStat p k).fabric = s.fabric := by
  unfold State.setStat; dsimp only; split <;> simp
@[simp] theorem State.setStat_ftl (p k : Nat) : (s.setStat p k).ftl = s.ftl := by
  unfold State.setStat; dsimp only; split <;> simp
@[simp] theorem State.setStat_care (p k : Nat) : (s.setStat p k).care = s.care := by
  unfold State.setStat; dsimp only; split <;> simp
@[simp] theorem State.setStat_red (p k : Nat) : (s.setStat p k).red = s.red := by
  unfold State.setStat; dsimp only; split <;> simp
@[simp] theorem State.setStat_media (p k : Nat) : (s.setStat p k).media = s.media := by
  unfold State.setStat; dsimp only; split <;> simp
@[simp] theorem State.setStat_search (p k : Nat) : (s.setStat p k).search = s.search := by
  unfold State.setStat; dsimp only; split <;> simp
@[simp] theorem State.setStat_crypto (p k : Nat) : (s.setStat p k).crypto = s.crypto := by
  unfold State.setStat; dsimp only; split <;> simp
@[simp] theorem State.setStat_dram (p k : Nat) : (s.setStat p k).dram = s.dram := by
  unfold State.setStat; dsimp only; split <;> simp
@[simp] theorem State.setStat_upsets (p k : Nat) : (s.setStat p k).upsets = s.upsets := by
  unfold State.setStat; dsimp only; split <;> simp
@[simp] theorem State.setStat_vfm (p k : Nat) : (s.setStat p k).vfm = s.vfm := by
  unfold State.setStat; dsimp only; split <;> simp
@[simp] theorem State.setStat_field (p k : Nat) : (s.setStat p k).field = s.field := by
  unfold State.setStat; dsimp only; split <;> simp
@[simp] theorem State.setStat_frl (p k : Nat) : (s.setStat p k).frl = s.frl := by
  unfold State.setStat; dsimp only; split <;> simp
@[simp] theorem State.setStat_power (p k : Nat) : (s.setStat p k).power = s.power := by
  unfold State.setStat; dsimp only; split <;> simp
@[simp] theorem State.setStat_start (p k : Nat) : (s.setStat p k).start = s.start := by
  unfold State.setStat; dsimp only; split <;> simp
@[simp] theorem State.setStat_events (p k : Nat) : (s.setStat p k).events = s.events := by
  unfold State.setStat; dsimp only; split <;> simp
@[simp] theorem State.setStat_squall (p k : Nat) : (s.setStat p k).squall = s.squall := by
  unfold State.setStat; dsimp only; split <;> simp
@[simp] theorem State.setStat_fresh (p k : Nat) : (s.setStat p k).fresh = s.fresh := by
  unfold State.setStat; dsimp only; split <;> simp
@[simp] theorem State.setStat_host_logs (p k : Nat) : (s.setStat p k).host.logs = s.host.logs := by
  unfold State.setStat; dsimp only; split <;> simp
@[simp] theorem State.setStat_host_cmds (p k : Nat) : (s.setStat p k).host.cmds = s.host.cmds := by
  unfold State.setStat; dsimp only; split <;> simp
@[simp] theorem State.setStat_host_nss (p k : Nat) : (s.setStat p k).host.nss = s.host.nss := by
  unfold State.setStat; dsimp only; split <;> simp
@[simp] theorem State.setStat_host_evid (p k : Nat) : (s.setStat p k).host.evid = s.host.evid := by
  unfold State.setStat; dsimp only; split <;> simp
@[simp] theorem State.setStat_host_fw (p k : Nat) : (s.setStat p k).host.fw = s.host.fw := by
  unfold State.setStat; dsimp only; split <;> simp
@[simp] theorem State.setStat_host_link (p k : Nat) : (s.setStat p k).host.link = s.host.link := by
  unfold State.setStat; dsimp only; split <;> simp
@[simp] theorem State.setStat_host_nextSeq (p k : Nat) : (s.setStat p k).host.nextSeq = s.host.nextSeq := by
  unfold State.setStat; dsimp only; split <;> simp

@[simp] theorem State.accessFail_pending (p k code : Nat) (m : Master) (off : Nat) (v : Word) : (s.accessFail p k code m off v).pending = s.pending := by
  unfold State.accessFail; simp
@[simp] theorem State.accessFail_adm (p k code : Nat) (m : Master) (off : Nat) (v : Word) : (s.accessFail p k code m off v).adm = s.adm := by
  unfold State.accessFail; simp
@[simp] theorem State.accessFail_prog (p k code : Nat) (m : Master) (off : Nat) (v : Word) : (s.accessFail p k code m off v).prog = s.prog := by
  unfold State.accessFail; simp
@[simp] theorem State.accessFail_cells (p k code : Nat) (m : Master) (off : Nat) (v : Word) : (s.accessFail p k code m off v).cells = s.cells := by
  unfold State.accessFail; simp
@[simp] theorem State.accessFail_fabric (p k code : Nat) (m : Master) (off : Nat) (v : Word) : (s.accessFail p k code m off v).fabric = s.fabric := by
  unfold State.accessFail; simp
@[simp] theorem State.accessFail_ftl (p k code : Nat) (m : Master) (off : Nat) (v : Word) : (s.accessFail p k code m off v).ftl = s.ftl := by
  unfold State.accessFail; simp
@[simp] theorem State.accessFail_care (p k code : Nat) (m : Master) (off : Nat) (v : Word) : (s.accessFail p k code m off v).care = s.care := by
  unfold State.accessFail; simp
@[simp] theorem State.accessFail_red (p k code : Nat) (m : Master) (off : Nat) (v : Word) : (s.accessFail p k code m off v).red = s.red := by
  unfold State.accessFail; simp
@[simp] theorem State.accessFail_media (p k code : Nat) (m : Master) (off : Nat) (v : Word) : (s.accessFail p k code m off v).media = s.media := by
  unfold State.accessFail; simp
@[simp] theorem State.accessFail_search (p k code : Nat) (m : Master) (off : Nat) (v : Word) : (s.accessFail p k code m off v).search = s.search := by
  unfold State.accessFail; simp
@[simp] theorem State.accessFail_crypto (p k code : Nat) (m : Master) (off : Nat) (v : Word) : (s.accessFail p k code m off v).crypto = s.crypto := by
  unfold State.accessFail; simp
@[simp] theorem State.accessFail_dram (p k code : Nat) (m : Master) (off : Nat) (v : Word) : (s.accessFail p k code m off v).dram = s.dram := by
  unfold State.accessFail; simp
@[simp] theorem State.accessFail_upsets (p k code : Nat) (m : Master) (off : Nat) (v : Word) : (s.accessFail p k code m off v).upsets = s.upsets := by
  unfold State.accessFail; simp
@[simp] theorem State.accessFail_vfm (p k code : Nat) (m : Master) (off : Nat) (v : Word) : (s.accessFail p k code m off v).vfm = s.vfm := by
  unfold State.accessFail; simp
@[simp] theorem State.accessFail_field (p k code : Nat) (m : Master) (off : Nat) (v : Word) : (s.accessFail p k code m off v).field = s.field := by
  unfold State.accessFail; simp
@[simp] theorem State.accessFail_frl (p k code : Nat) (m : Master) (off : Nat) (v : Word) : (s.accessFail p k code m off v).frl = s.frl := by
  unfold State.accessFail; simp
@[simp] theorem State.accessFail_power (p k code : Nat) (m : Master) (off : Nat) (v : Word) : (s.accessFail p k code m off v).power = s.power := by
  unfold State.accessFail; simp
@[simp] theorem State.accessFail_start (p k code : Nat) (m : Master) (off : Nat) (v : Word) : (s.accessFail p k code m off v).start = s.start := by
  unfold State.accessFail; simp
@[simp] theorem State.accessFail_events (p k code : Nat) (m : Master) (off : Nat) (v : Word) : (s.accessFail p k code m off v).events = s.events := by
  unfold State.accessFail; simp
@[simp] theorem State.accessFail_squall (p k code : Nat) (m : Master) (off : Nat) (v : Word) : (s.accessFail p k code m off v).squall = s.squall := by
  unfold State.accessFail; simp
@[simp] theorem State.accessFail_fresh (p k code : Nat) (m : Master) (off : Nat) (v : Word) : (s.accessFail p k code m off v).fresh = s.fresh := by
  unfold State.accessFail; simp
@[simp] theorem State.accessFail_host_logs (p k code : Nat) (m : Master) (off : Nat) (v : Word) : (s.accessFail p k code m off v).host.logs = s.host.logs := by
  unfold State.accessFail; simp
@[simp] theorem State.accessFail_host_cmds (p k code : Nat) (m : Master) (off : Nat) (v : Word) : (s.accessFail p k code m off v).host.cmds = s.host.cmds := by
  unfold State.accessFail; simp
@[simp] theorem State.accessFail_host_nss (p k code : Nat) (m : Master) (off : Nat) (v : Word) : (s.accessFail p k code m off v).host.nss = s.host.nss := by
  unfold State.accessFail; simp
@[simp] theorem State.accessFail_host_evid (p k code : Nat) (m : Master) (off : Nat) (v : Word) : (s.accessFail p k code m off v).host.evid = s.host.evid := by
  unfold State.accessFail; simp
@[simp] theorem State.accessFail_host_fw (p k code : Nat) (m : Master) (off : Nat) (v : Word) : (s.accessFail p k code m off v).host.fw = s.host.fw := by
  unfold State.accessFail; simp
@[simp] theorem State.accessFail_host_link (p k code : Nat) (m : Master) (off : Nat) (v : Word) : (s.accessFail p k code m off v).host.link = s.host.link := by
  unfold State.accessFail; simp
@[simp] theorem State.accessFail_host_nextSeq (p k code : Nat) (m : Master) (off : Nat) (v : Word) : (s.accessFail p k code m off v).host.nextSeq = s.host.nextSeq := by
  unfold State.accessFail; simp

@[simp] theorem State.refuse_pending (p code : Nat) (m : Master) (off : Nat) (v : Word) : (s.refuse p code m off v).pending = s.pending := by
  unfold State.refuse; simp
@[simp] theorem State.refuse_adm (p code : Nat) (m : Master) (off : Nat) (v : Word) : (s.refuse p code m off v).adm = s.adm := by
  unfold State.refuse; simp
@[simp] theorem State.refuse_prog (p code : Nat) (m : Master) (off : Nat) (v : Word) : (s.refuse p code m off v).prog = s.prog := by
  unfold State.refuse; simp
@[simp] theorem State.refuse_cells (p code : Nat) (m : Master) (off : Nat) (v : Word) : (s.refuse p code m off v).cells = s.cells := by
  unfold State.refuse; simp
@[simp] theorem State.refuse_fabric (p code : Nat) (m : Master) (off : Nat) (v : Word) : (s.refuse p code m off v).fabric = s.fabric := by
  unfold State.refuse; simp
@[simp] theorem State.refuse_ftl (p code : Nat) (m : Master) (off : Nat) (v : Word) : (s.refuse p code m off v).ftl = s.ftl := by
  unfold State.refuse; simp
@[simp] theorem State.refuse_care (p code : Nat) (m : Master) (off : Nat) (v : Word) : (s.refuse p code m off v).care = s.care := by
  unfold State.refuse; simp
@[simp] theorem State.refuse_red (p code : Nat) (m : Master) (off : Nat) (v : Word) : (s.refuse p code m off v).red = s.red := by
  unfold State.refuse; simp
@[simp] theorem State.refuse_media (p code : Nat) (m : Master) (off : Nat) (v : Word) : (s.refuse p code m off v).media = s.media := by
  unfold State.refuse; simp
@[simp] theorem State.refuse_search (p code : Nat) (m : Master) (off : Nat) (v : Word) : (s.refuse p code m off v).search = s.search := by
  unfold State.refuse; simp
@[simp] theorem State.refuse_crypto (p code : Nat) (m : Master) (off : Nat) (v : Word) : (s.refuse p code m off v).crypto = s.crypto := by
  unfold State.refuse; simp
@[simp] theorem State.refuse_dram (p code : Nat) (m : Master) (off : Nat) (v : Word) : (s.refuse p code m off v).dram = s.dram := by
  unfold State.refuse; simp
@[simp] theorem State.refuse_upsets (p code : Nat) (m : Master) (off : Nat) (v : Word) : (s.refuse p code m off v).upsets = s.upsets := by
  unfold State.refuse; simp
@[simp] theorem State.refuse_vfm (p code : Nat) (m : Master) (off : Nat) (v : Word) : (s.refuse p code m off v).vfm = s.vfm := by
  unfold State.refuse; simp
@[simp] theorem State.refuse_field (p code : Nat) (m : Master) (off : Nat) (v : Word) : (s.refuse p code m off v).field = s.field := by
  unfold State.refuse; simp
@[simp] theorem State.refuse_frl (p code : Nat) (m : Master) (off : Nat) (v : Word) : (s.refuse p code m off v).frl = s.frl := by
  unfold State.refuse; simp
@[simp] theorem State.refuse_power (p code : Nat) (m : Master) (off : Nat) (v : Word) : (s.refuse p code m off v).power = s.power := by
  unfold State.refuse; simp
@[simp] theorem State.refuse_start (p code : Nat) (m : Master) (off : Nat) (v : Word) : (s.refuse p code m off v).start = s.start := by
  unfold State.refuse; simp
@[simp] theorem State.refuse_events (p code : Nat) (m : Master) (off : Nat) (v : Word) : (s.refuse p code m off v).events = s.events := by
  unfold State.refuse; simp
@[simp] theorem State.refuse_squall (p code : Nat) (m : Master) (off : Nat) (v : Word) : (s.refuse p code m off v).squall = s.squall := by
  unfold State.refuse; simp
@[simp] theorem State.refuse_fresh (p code : Nat) (m : Master) (off : Nat) (v : Word) : (s.refuse p code m off v).fresh = s.fresh := by
  unfold State.refuse; simp
@[simp] theorem State.refuse_host_logs (p code : Nat) (m : Master) (off : Nat) (v : Word) : (s.refuse p code m off v).host.logs = s.host.logs := by
  unfold State.refuse; simp
@[simp] theorem State.refuse_host_cmds (p code : Nat) (m : Master) (off : Nat) (v : Word) : (s.refuse p code m off v).host.cmds = s.host.cmds := by
  unfold State.refuse; simp
@[simp] theorem State.refuse_host_nss (p code : Nat) (m : Master) (off : Nat) (v : Word) : (s.refuse p code m off v).host.nss = s.host.nss := by
  unfold State.refuse; simp
@[simp] theorem State.refuse_host_evid (p code : Nat) (m : Master) (off : Nat) (v : Word) : (s.refuse p code m off v).host.evid = s.host.evid := by
  unfold State.refuse; simp
@[simp] theorem State.refuse_host_fw (p code : Nat) (m : Master) (off : Nat) (v : Word) : (s.refuse p code m off v).host.fw = s.host.fw := by
  unfold State.refuse; simp
@[simp] theorem State.refuse_host_link (p code : Nat) (m : Master) (off : Nat) (v : Word) : (s.refuse p code m off v).host.link = s.host.link := by
  unfold State.refuse; simp
@[simp] theorem State.refuse_host_nextSeq (p code : Nat) (m : Master) (off : Nat) (v : Word) : (s.refuse p code m off v).host.nextSeq = s.host.nextSeq := by
  unfold State.refuse; simp

@[simp] theorem State.refuseRsvd_pending (p code : Nat) (m : Master) (off : Nat) (v : Word) : (s.refuseRsvd p code m off v).pending = s.pending := by
  unfold State.refuseRsvd; simp
@[simp] theorem State.refuseRsvd_adm (p code : Nat) (m : Master) (off : Nat) (v : Word) : (s.refuseRsvd p code m off v).adm = s.adm := by
  unfold State.refuseRsvd; simp
@[simp] theorem State.refuseRsvd_prog (p code : Nat) (m : Master) (off : Nat) (v : Word) : (s.refuseRsvd p code m off v).prog = s.prog := by
  unfold State.refuseRsvd; simp
@[simp] theorem State.refuseRsvd_cells (p code : Nat) (m : Master) (off : Nat) (v : Word) : (s.refuseRsvd p code m off v).cells = s.cells := by
  unfold State.refuseRsvd; simp
@[simp] theorem State.refuseRsvd_fabric (p code : Nat) (m : Master) (off : Nat) (v : Word) : (s.refuseRsvd p code m off v).fabric = s.fabric := by
  unfold State.refuseRsvd; simp
@[simp] theorem State.refuseRsvd_ftl (p code : Nat) (m : Master) (off : Nat) (v : Word) : (s.refuseRsvd p code m off v).ftl = s.ftl := by
  unfold State.refuseRsvd; simp
@[simp] theorem State.refuseRsvd_care (p code : Nat) (m : Master) (off : Nat) (v : Word) : (s.refuseRsvd p code m off v).care = s.care := by
  unfold State.refuseRsvd; simp
@[simp] theorem State.refuseRsvd_red (p code : Nat) (m : Master) (off : Nat) (v : Word) : (s.refuseRsvd p code m off v).red = s.red := by
  unfold State.refuseRsvd; simp
@[simp] theorem State.refuseRsvd_media (p code : Nat) (m : Master) (off : Nat) (v : Word) : (s.refuseRsvd p code m off v).media = s.media := by
  unfold State.refuseRsvd; simp
@[simp] theorem State.refuseRsvd_search (p code : Nat) (m : Master) (off : Nat) (v : Word) : (s.refuseRsvd p code m off v).search = s.search := by
  unfold State.refuseRsvd; simp
@[simp] theorem State.refuseRsvd_crypto (p code : Nat) (m : Master) (off : Nat) (v : Word) : (s.refuseRsvd p code m off v).crypto = s.crypto := by
  unfold State.refuseRsvd; simp
@[simp] theorem State.refuseRsvd_dram (p code : Nat) (m : Master) (off : Nat) (v : Word) : (s.refuseRsvd p code m off v).dram = s.dram := by
  unfold State.refuseRsvd; simp
@[simp] theorem State.refuseRsvd_upsets (p code : Nat) (m : Master) (off : Nat) (v : Word) : (s.refuseRsvd p code m off v).upsets = s.upsets := by
  unfold State.refuseRsvd; simp
@[simp] theorem State.refuseRsvd_vfm (p code : Nat) (m : Master) (off : Nat) (v : Word) : (s.refuseRsvd p code m off v).vfm = s.vfm := by
  unfold State.refuseRsvd; simp
@[simp] theorem State.refuseRsvd_field (p code : Nat) (m : Master) (off : Nat) (v : Word) : (s.refuseRsvd p code m off v).field = s.field := by
  unfold State.refuseRsvd; simp
@[simp] theorem State.refuseRsvd_frl (p code : Nat) (m : Master) (off : Nat) (v : Word) : (s.refuseRsvd p code m off v).frl = s.frl := by
  unfold State.refuseRsvd; simp
@[simp] theorem State.refuseRsvd_power (p code : Nat) (m : Master) (off : Nat) (v : Word) : (s.refuseRsvd p code m off v).power = s.power := by
  unfold State.refuseRsvd; simp
@[simp] theorem State.refuseRsvd_start (p code : Nat) (m : Master) (off : Nat) (v : Word) : (s.refuseRsvd p code m off v).start = s.start := by
  unfold State.refuseRsvd; simp
@[simp] theorem State.refuseRsvd_events (p code : Nat) (m : Master) (off : Nat) (v : Word) : (s.refuseRsvd p code m off v).events = s.events := by
  unfold State.refuseRsvd; simp
@[simp] theorem State.refuseRsvd_squall (p code : Nat) (m : Master) (off : Nat) (v : Word) : (s.refuseRsvd p code m off v).squall = s.squall := by
  unfold State.refuseRsvd; simp
@[simp] theorem State.refuseRsvd_fresh (p code : Nat) (m : Master) (off : Nat) (v : Word) : (s.refuseRsvd p code m off v).fresh = s.fresh := by
  unfold State.refuseRsvd; simp
@[simp] theorem State.refuseRsvd_host_logs (p code : Nat) (m : Master) (off : Nat) (v : Word) : (s.refuseRsvd p code m off v).host.logs = s.host.logs := by
  unfold State.refuseRsvd; simp
@[simp] theorem State.refuseRsvd_host_cmds (p code : Nat) (m : Master) (off : Nat) (v : Word) : (s.refuseRsvd p code m off v).host.cmds = s.host.cmds := by
  unfold State.refuseRsvd; simp
@[simp] theorem State.refuseRsvd_host_nss (p code : Nat) (m : Master) (off : Nat) (v : Word) : (s.refuseRsvd p code m off v).host.nss = s.host.nss := by
  unfold State.refuseRsvd; simp
@[simp] theorem State.refuseRsvd_host_evid (p code : Nat) (m : Master) (off : Nat) (v : Word) : (s.refuseRsvd p code m off v).host.evid = s.host.evid := by
  unfold State.refuseRsvd; simp
@[simp] theorem State.refuseRsvd_host_fw (p code : Nat) (m : Master) (off : Nat) (v : Word) : (s.refuseRsvd p code m off v).host.fw = s.host.fw := by
  unfold State.refuseRsvd; simp
@[simp] theorem State.refuseRsvd_host_link (p code : Nat) (m : Master) (off : Nat) (v : Word) : (s.refuseRsvd p code m off v).host.link = s.host.link := by
  unfold State.refuseRsvd; simp
@[simp] theorem State.refuseRsvd_host_nextSeq (p code : Nat) (m : Master) (off : Nat) (v : Word) : (s.refuseRsvd p code m off v).host.nextSeq = s.host.nextSeq := by
  unfold State.refuseRsvd; simp

@[simp] theorem State.arrive_pending (m : Master) : (s.arrive m).pending = s.pending := by
  unfold State.arrive; repeat' split
  all_goals simp
@[simp] theorem State.arrive_adm (m : Master) : (s.arrive m).adm = s.adm := by
  unfold State.arrive; repeat' split
  all_goals simp
@[simp] theorem State.arrive_prog (m : Master) : (s.arrive m).prog = s.prog := by
  unfold State.arrive; repeat' split
  all_goals simp
@[simp] theorem State.arrive_cells (m : Master) : (s.arrive m).cells = s.cells := by
  unfold State.arrive; repeat' split
  all_goals simp
@[simp] theorem State.arrive_fabric (m : Master) : (s.arrive m).fabric = s.fabric := by
  unfold State.arrive; repeat' split
  all_goals simp
@[simp] theorem State.arrive_ftl (m : Master) : (s.arrive m).ftl = s.ftl := by
  unfold State.arrive; repeat' split
  all_goals simp
@[simp] theorem State.arrive_care (m : Master) : (s.arrive m).care = s.care := by
  unfold State.arrive; repeat' split
  all_goals simp
@[simp] theorem State.arrive_red (m : Master) : (s.arrive m).red = s.red := by
  unfold State.arrive; repeat' split
  all_goals simp
@[simp] theorem State.arrive_media (m : Master) : (s.arrive m).media = s.media := by
  unfold State.arrive; repeat' split
  all_goals simp
@[simp] theorem State.arrive_search (m : Master) : (s.arrive m).search = s.search := by
  unfold State.arrive; repeat' split
  all_goals simp
@[simp] theorem State.arrive_crypto (m : Master) : (s.arrive m).crypto = s.crypto := by
  unfold State.arrive; repeat' split
  all_goals simp
@[simp] theorem State.arrive_dram (m : Master) : (s.arrive m).dram = s.dram := by
  unfold State.arrive; repeat' split
  all_goals simp
@[simp] theorem State.arrive_upsets (m : Master) : (s.arrive m).upsets = s.upsets := by
  unfold State.arrive; repeat' split
  all_goals simp
@[simp] theorem State.arrive_vfm (m : Master) : (s.arrive m).vfm = s.vfm := by
  unfold State.arrive; repeat' split
  all_goals simp
@[simp] theorem State.arrive_field (m : Master) : (s.arrive m).field = s.field := by
  unfold State.arrive; repeat' split
  all_goals simp
@[simp] theorem State.arrive_frl (m : Master) : (s.arrive m).frl = s.frl := by
  unfold State.arrive; repeat' split
  all_goals simp
@[simp] theorem State.arrive_power (m : Master) : (s.arrive m).power = s.power := by
  unfold State.arrive; repeat' split
  all_goals simp
@[simp] theorem State.arrive_start (m : Master) : (s.arrive m).start = s.start := by
  unfold State.arrive; repeat' split
  all_goals simp
@[simp] theorem State.arrive_events (m : Master) : (s.arrive m).events = s.events := by
  unfold State.arrive; repeat' split
  all_goals simp
@[simp] theorem State.arrive_squall (m : Master) : (s.arrive m).squall = s.squall := by
  unfold State.arrive; repeat' split
  all_goals simp
@[simp] theorem State.arrive_fresh (m : Master) : (s.arrive m).fresh = s.fresh := by
  unfold State.arrive; repeat' split
  all_goals simp
@[simp] theorem State.arrive_host_logs (m : Master) : (s.arrive m).host.logs = s.host.logs := by
  unfold State.arrive; repeat' split
  all_goals simp
@[simp] theorem State.arrive_host_cmds (m : Master) : (s.arrive m).host.cmds = s.host.cmds := by
  unfold State.arrive; repeat' split
  all_goals simp
@[simp] theorem State.arrive_host_nss (m : Master) : (s.arrive m).host.nss = s.host.nss := by
  unfold State.arrive; repeat' split
  all_goals simp
@[simp] theorem State.arrive_host_evid (m : Master) : (s.arrive m).host.evid = s.host.evid := by
  unfold State.arrive; repeat' split
  all_goals simp
@[simp] theorem State.arrive_host_fw (m : Master) : (s.arrive m).host.fw = s.host.fw := by
  unfold State.arrive; repeat' split
  all_goals simp
@[simp] theorem State.arrive_host_link (m : Master) : (s.arrive m).host.link = s.host.link := by
  unfold State.arrive; repeat' split
  all_goals simp
@[simp] theorem State.arrive_host_nextSeq (m : Master) : (s.arrive m).host.nextSeq = s.host.nextSeq := by
  unfold State.arrive; repeat' split
  all_goals simp

@[simp] theorem State.cause_pending (k : Nat) (b : Bool) : (s.cause k b).pending = s.pending := by
  unfold State.cause; dsimp only; repeat' split
  all_goals simp
@[simp] theorem State.cause_adm (k : Nat) (b : Bool) : (s.cause k b).adm = s.adm := by
  unfold State.cause; dsimp only; repeat' split
  all_goals simp
@[simp] theorem State.cause_prog (k : Nat) (b : Bool) : (s.cause k b).prog = s.prog := by
  unfold State.cause; dsimp only; repeat' split
  all_goals simp
@[simp] theorem State.cause_cells (k : Nat) (b : Bool) : (s.cause k b).cells = s.cells := by
  unfold State.cause; dsimp only; repeat' split
  all_goals simp
@[simp] theorem State.cause_fabric (k : Nat) (b : Bool) : (s.cause k b).fabric = s.fabric := by
  unfold State.cause; dsimp only; repeat' split
  all_goals simp
@[simp] theorem State.cause_ftl (k : Nat) (b : Bool) : (s.cause k b).ftl = s.ftl := by
  unfold State.cause; dsimp only; repeat' split
  all_goals simp
@[simp] theorem State.cause_care (k : Nat) (b : Bool) : (s.cause k b).care = s.care := by
  unfold State.cause; dsimp only; repeat' split
  all_goals simp
@[simp] theorem State.cause_red (k : Nat) (b : Bool) : (s.cause k b).red = s.red := by
  unfold State.cause; dsimp only; repeat' split
  all_goals simp
@[simp] theorem State.cause_media (k : Nat) (b : Bool) : (s.cause k b).media = s.media := by
  unfold State.cause; dsimp only; repeat' split
  all_goals simp
@[simp] theorem State.cause_search (k : Nat) (b : Bool) : (s.cause k b).search = s.search := by
  unfold State.cause; dsimp only; repeat' split
  all_goals simp
@[simp] theorem State.cause_crypto (k : Nat) (b : Bool) : (s.cause k b).crypto = s.crypto := by
  unfold State.cause; dsimp only; repeat' split
  all_goals simp
@[simp] theorem State.cause_dram (k : Nat) (b : Bool) : (s.cause k b).dram = s.dram := by
  unfold State.cause; dsimp only; repeat' split
  all_goals simp
@[simp] theorem State.cause_upsets (k : Nat) (b : Bool) : (s.cause k b).upsets = s.upsets := by
  unfold State.cause; dsimp only; repeat' split
  all_goals simp
@[simp] theorem State.cause_vfm (k : Nat) (b : Bool) : (s.cause k b).vfm = s.vfm := by
  unfold State.cause; dsimp only; repeat' split
  all_goals simp
@[simp] theorem State.cause_field (k : Nat) (b : Bool) : (s.cause k b).field = s.field := by
  unfold State.cause; dsimp only; repeat' split
  all_goals simp
@[simp] theorem State.cause_frl (k : Nat) (b : Bool) : (s.cause k b).frl = s.frl := by
  unfold State.cause; dsimp only; repeat' split
  all_goals simp
@[simp] theorem State.cause_power (k : Nat) (b : Bool) : (s.cause k b).power = s.power := by
  unfold State.cause; dsimp only; repeat' split
  all_goals simp
@[simp] theorem State.cause_start (k : Nat) (b : Bool) : (s.cause k b).start = s.start := by
  unfold State.cause; dsimp only; repeat' split
  all_goals simp
@[simp] theorem State.cause_events (k : Nat) (b : Bool) : (s.cause k b).events = s.events := by
  unfold State.cause; dsimp only; repeat' split
  all_goals simp
@[simp] theorem State.cause_squall (k : Nat) (b : Bool) : (s.cause k b).squall = s.squall := by
  unfold State.cause; dsimp only; repeat' split
  all_goals simp
@[simp] theorem State.cause_fresh (k : Nat) (b : Bool) : (s.cause k b).fresh = s.fresh := by
  unfold State.cause; dsimp only; repeat' split
  all_goals simp
@[simp] theorem State.cause_host_logs (k : Nat) (b : Bool) : (s.cause k b).host.logs = s.host.logs := by
  unfold State.cause; dsimp only; repeat' split
  all_goals simp
@[simp] theorem State.cause_host_cmds (k : Nat) (b : Bool) : (s.cause k b).host.cmds = s.host.cmds := by
  unfold State.cause; dsimp only; repeat' split
  all_goals simp
@[simp] theorem State.cause_host_nss (k : Nat) (b : Bool) : (s.cause k b).host.nss = s.host.nss := by
  unfold State.cause; dsimp only; repeat' split
  all_goals simp
@[simp] theorem State.cause_host_evid (k : Nat) (b : Bool) : (s.cause k b).host.evid = s.host.evid := by
  unfold State.cause; dsimp only; repeat' split
  all_goals simp
@[simp] theorem State.cause_host_fw (k : Nat) (b : Bool) : (s.cause k b).host.fw = s.host.fw := by
  unfold State.cause; dsimp only; repeat' split
  all_goals simp
@[simp] theorem State.cause_host_link (k : Nat) (b : Bool) : (s.cause k b).host.link = s.host.link := by
  unfold State.cause; dsimp only; repeat' split
  all_goals simp
@[simp] theorem State.cause_host_nextSeq (k : Nat) (b : Bool) : (s.cause k b).host.nextSeq = s.host.nextSeq := by
  unfold State.cause; dsimp only; repeat' split
  all_goals simp


end Sys2Proof.Machine
end

