-- ==== Sys2Proof/WellFormed.lean ====
section
/-!
DEFINITION. Well-formed commands: every operand lies in the range that the specification gives it. The types of the operands bound the rest.
-/

namespace Sys2Proof

/-- A master of R28: VFs are 1 to 15; the type of a cell bounds it to 0 to 39. -/
def Master.wf : Master → Bool
  | .vf n => n != 0
  | .pf | .sideband | .cell _ | .warden => true

/-- A host command's queue is 0 (admin) to 128, and its NSID has 32 bits (R24, R79). -/
def Machine.NvmeCmd.wf (c : Machine.NvmeCmd) : Bool := decide (c.sqid ≤ 128) && decide (c.nsid < 0x100000000)

/-- A page number of BAR2, or a page of a VF window (R25, R26). -/
def pageNumber (p : Nat) : Bool := decide (p < 0x1100)

/-- An offset in a page. -/
def pageOffset (o : Nat) : Bool := decide (o < 0x1000)

/-- The width of an access in bits: 8 to 64, or a TLP of more (R33). -/
def busWidth (w : Nat) : Bool := decide (8 ≤ w) && w % 8 == 0

/-- A counter slot (R40). -/
def counterSlot (k : Nat) : Bool := decide (k < 62)

/-- A doorbell number (R24). -/
def doorbell (y : Nat) : Bool := decide (y ≤ 128)

/-- The bytes of a host access (R481). -/
def hostBytes (n : Nat) : Bool := [1, 2, 4, 8].contains n

/-- An offset in BAR0 (R23). -/
def bar0 (o : Nat) : Bool := decide (o < 0x4000)

/-- The bytes of an access within one line (R344). -/
def lineLen (n : Nat) : Bool := decide (1 ≤ n ∧ n ≤ 128)

/-- A number below a bound. -/
def below (n k : Nat) : Bool := decide (k < n)

/-- A well-formed command. -/
def Instr.wf : Instr → Bool
  | .registerWrite m page off width _ => m.wf && pageNumber page && pageOffset off && busWidth width
  | .refusedRead m page off width => m.wf && pageNumber page && pageOffset off && busWidth width
  | .errcapRearm m page _ => m.wf && pageNumber page
  | .evSet m page _ => m.wf && pageNumber page
  | .evClear m page _ _ => m.wf && pageNumber page
  | .evRouteWrite m page _ => m.wf && pageNumber page
  | .pgOwnerWrite m page _ => m.wf && pageNumber page
  | .counterClear m page slot _ => m.wf && pageNumber page && counterSlot slot
  | .counterLowRead m page slot => m.wf && pageNumber page && counterSlot slot
  | .topDtimeLoRead m => m.wf
  | .sqTailDoorbell _ y bytes _ => doorbell y && hostBytes bytes
  | .cqHeadDoorbell _ y bytes _ => doorbell y && hostBytes bytes
  | .bar0Access _ off len _ => bar0 off && hostBytes len
  | .shutdownNotification _ shn => below 4 shn
  | .admSliceWrite m _ => m.wf
  | .lock m _ => m.wf
  | .admCvalWrite m _ => m.wf
  | .adlSnap m _ => m.wf
  | .createIoSubmissionQueue c => c.wf
  | .createIoCompletionQueue c => c.wf
  | .deleteIoSubmissionQueue c => c.wf
  | .deleteIoCompletionQueue c => c.wf
  | .getLogPage c => c.wf
  | .identify c => c.wf
  | .abort c => c.wf
  | .setFeatures c => c.wf
  | .getFeatures c => c.wf
  | .setFeaturesNumberOfQueues c => c.wf
  | .setFeaturesTimestamp c => c.wf
  | .getFeaturesTimestamp c => c.wf
  | .setQueueAdmissionDefault c => c.wf
  | .getQueueAdmissionDefault c => c.wf
  | .interruptCoalescingTimer _ vec => below 64 vec
  | .asynchronousEventRequest c => c.wf
  | .namespaceManagement c => c.wf
  | .namespaceAttachment c => c.wf
  | .firmwareImageDownload c => c.wf
  | .firmwareCommitReplace c => c.wf
  | .firmwareCommitNextReset c => c.wf
  | .firmwareCommitActivate c => c.wf
  | .deviceSelfTest c => c.wf
  | .formatNvm c => c.wf
  | .secondaryControllerOffline c => c.wf
  | .secondaryControllerAssign c => c.wf
  | .secondaryControllerOnline c => c.wf
  | .invalidCommandOpcode c => c.wf
  | .loadProgram c => c.wf
  | .programActivationManagement c => c.wf
  | .memoryRangeSetManagement c => c.wf
  | .read c => c.wf
  | .write c => c.wf
  | .flush c => c.wf
  | .compare c => c.wf
  | .writeZeroes c => c.wf
  | .datasetManagement c => c.wf
  | .verify c => c.wf
  | .copy c => c.wf
  | .executeProgram c => c.wf
  | .memoryRead c => c.wf
  | .memoryWrite c => c.wf
  | .pcieLinkUp speed width => below 6 speed && below 5 width
  | .msixMaskClear _ vec => vec.all (below 64)
  | .ctrlrst m _ => m.wf
  | .mainrst m _ => m.wf
  | .scrub m _ _ => m.wf
  | .celHoldWrite m _ _ => m.wf
  | .celImdataAccess m _ _ => m.wf
  | .celDmdataAccess m _ _ => m.wf
  | .celRvalAccess m _ _ => m.wf
  | .suStart m _ _ => m.wf
  | .suCancel m _ _ => m.wf
  | .codecHalt m _ _ => m.wf
  | .wreload m _ => m.wf
  | .garbageCollection _ block => below 4096 block
  | .blockErase _ block => below 4096 block
  | .folding _ block => below 4096 block
  | .redFailDeclare m _ => m.wf
  | .rbPause m _ => m.wf
  | .setFeature _ way fa _ => below 8 way && below 256 fa
  | .step m _ _ _ _ _ => m.wf
  | .mchUsdataAccess m _ _ => m.wf
  | .spread m _ => m.all Master.wf
  | .clear m _ => m.wf
  | .srbModeOwnerWrite m _ _ => m.wf
  | .init m => m.wf
  | .reload m => m.wf
  | .cipherHalt m _ _ => m.wf
  | .derive m _ => m.wf
  | .erase m _ => m.wf
  | .install m _ => m.wf
  | .eraseAll m _ => m.wf
  | .keyOpRefused m _ => m.wf
  | .rootLock m _ => m.wf
  | .keySuse0Read m => m.wf
  | .dramRequestIssue ch _ => below 4 ch
  | .perBankRefresh ch => below 4 ch
  | .arm m _ => m.wf
  | .cancel m _ => m.wf
  | .cacheAccess id _ len cls _ => below 63 id && lineLen len && below 4 cls
  | .cacheFill slice id => below 4 slice && below 63 id
  | .wayDisable slice way => below 4 slice && below 16 way
  | .clean m _ => m.wf
  | .inval m _ => m.wf
  | .cleanInval m _ => m.wf
  | .cleanAll m _ => m.wf
  | .cleanInvalAll m _ => m.wf
  | .cleanWay m slice _ => m.wf && below 4 slice
  | .cleanInvalWay m slice _ => m.wf && below 4 slice
  | .maintenanceDone slice => slice.all (below 4)
  | .fchWdis m slice _ => m.wf && below 4 slice
  | .mpClear m page _ => m.wf && pageNumber page
  | .vfmSelWrite m _ => m.wf
  | .apply m _ => m.wf
  | .mailboxSend m _ _ => m.wf
  | .mailboxAck m _ _ => m.wf
  | .dirtyPageEnable m _ => m.wf
  | .copyBitmap m _ => m.wf
  | .discreteInputChange n _ _ => below 4 n
  | .canFrameReceived bus _ _ _ _ dlc _ => below 4 bus && below 16 dlc
  | .canBusStateChange bus _ _ _ => below 4 bus
  | .ethFrameReceived port _ => below 2 port
  | .ethernetLinkChange port _ => below 2 port
  | .retrain m _ => m.wf
  | .frlMsgSend m _ => m.wf
  | .go m _ => m.wf
  | .pllUnlock pll => below 5 pll
  | .alarm n => below 5 n
  | .alarmEnd n => below 5 n
  | .rearm m _ => m.wf
  | .unlock m _ => m.wf
  | .sqlLock m _ => m.wf
  | .sqForce m page _ => m.wf && pageNumber page
  | .scaledReadyRelease die => below 128 die
  | .pcieL1Entry pm => below 4 pm
  | .srbSelfTest m _ _ => m.all Master.wf
  | .deviceTimeTick .. | .controllerEnable .. | .controllerReset .. | .controllerResetComplete .. | .shutdownComplete ..
  | .tokenRefill | .commandStart .. | .completionPost .. | .evidentialBoundPassed .. | .gcdebtRefresh | .housekeepingRetry
  | .selfTestSegment .. | .signatureCheckDone .. | .hostWriteDataReceived .. | .hostTransferFailure .. | .droppedAppendZeroFill
  | .pcieLinkDown | .flrPf | .flrVf .. | .vfResetComplete .. | .vfEnableClear | .msixEnable .. | .pmcsrWrite .. | .pcieL1Exit
  | .perstAsserted | .perstDeasserted | .hotReset | .fillComplete .. | .holdReached .. | .interruptInput .. | .budgetExhausted ..
  | .productLands .. | .streamStallEnd .. | .unassignedEncoding .. | .add .. | .sub .. | .and .. | .or .. | .xor .. | .shl ..
  | .shr .. | .sar .. | .adds .. | .subs .. | .mul .. | .cmp .. | .addi .. | .cmpi .. | .andi .. | .ori .. | .li .. | .mov ..
  | .narrow .. | .beql .. | .savl .. | .movs .. | .sets .. | .fst .. | .fld .. | .retag .. | .ld .. | .st .. | .ldx .. | .stx ..
  | .push .. | .pop .. | .sld .. | .sst .. | .srel .. | .spub .. | .getp .. | .job .. | .jwait .. | .b .. | .jmp .. | .call ..
  | .jr .. | .callr .. | .ret .. | .rett .. | .nop .. | .endp .. | .swi .. | .clr .. | .rdtime .. | .repi .. | .rep .. | .test ..
  | .not .. | .neg .. | .cvti .. | .cvtu .. | .cvtf .. | .cvtb .. | .cvtl .. | .clz .. | .popc .. | .bswp .. | .idle ..
  | .tagof .. | .setc .. | .streamDataFlit .. | .streamCredit .. | .fabricReadRequest .. | .fabricReadResponse ..
  | .fabricWrite .. | .jobDescriptor .. | .jobStatus .. | .controlFlit .. | .streamDrain .. | .codecJobEnd .. | .cellReassign ..
  | .drainDone .. | .reportReady .. | .evidentialPauseTimeout | .stagingDrain .. | .journalPageTimer | .journalPageDurable
  | .checkpointBegin | .demotion .. | .powerFail | .flushComplete | .patrolPassStart | .patrolLate | .patrolRead ..
  | .memberFailed .. | .rebuildFloor | .rebuildDone | .sifjWrite | .quietRotation | .quietJoin | .mediaSchedule ..
  | .mediaRead .. | .mediaProgram .. | .mediaErase .. | .lunReset .. | .suspend .. | .resume .. | .dieReady ..
  | .operationTimeLimit .. | .lunResetTimeout .. | .pageBufferFree .. | .halt .. | .seqJmp .. | .jcc .. | .seqCall ..
  | .seqRet .. | .ldcnt .. | .loop .. | .waitrb .. | .waitrbTimeout .. | .lddesc .. | .adda .. | .setf .. | .retry .. | .post ..
  | .shortOperationPair .. | .search .. | .searchStream .. | .insert .. | .delete .. | .searchEntryRead .. | .windowSearch ..
  | .sweepCompare .. | .shadowWriteComplete | .srcReady | .srcThrottleSample | .cipherPathJob .. | .cipherJob .. | .digestJob ..
  | .dramTempSample .. | .retuneBlackout | .regionFill | .dirtyPageCopyDone .. | .slmShareZero .. | .speedSample
  | .fieldTokenRefill .. | .timeSyncInterval | .healthInterval .. | .rtcAlarm | .legalTimeStore | .ringEntrySend | .wakeRepeat
  | .wakeOutputTimeout .. | .fieldColdStart | .vf3p3Loss | .eventRecord .. | .canBatch .. | .ethFragment .. | .timeSync ..
  | .wake .. | .fieldHealth .. | .ack .. | .config .. | .timeSet .. | .wakePolicy .. | .txCan .. | .canTransmitDone ..
  | .fieldImage .. | .fieldImageVerified .. | .fieldImageActivate .. | .hostAck .. | .frontLinkUp | .frontLinkDown
  | .resumeRepeat | .hostResendTimeout | .frlMsgTimeout | .captureAppend | .appendDurable .. | .setEndpointId ..
  | .getEndpointId .. | .getMctpVersionSupport .. | .getMessageTypeSupport .. | .getVendorDefinedMessageSupport ..
  | .unsupportedMctpMessage .. | .entdaa .. | .basicManagementCommand .. | .readNvmeMiDataStructure ..
  | .nvmSubsystemHealthStatusPoll .. | .controllerHealthStatusPoll .. | .configurationGet .. | .configurationSet .. | .vpdRead ..
  | .adminCommandTunnel .. | .refusedNvmeMiCommand .. | .pageRead .. | .pageWrite .. | .health .. | .powerGet ..
  | .powerRequest .. | .logRead .. | .fwSlotGet .. | .fwSlotSet .. | .fieldStatus .. | .fieldConfig .. | .evidProvision ..
  | .rootBlob .. | .owner .. | .squallStatus .. | .squallUnlock .. | .squallLock .. | .unknownVendorOp .. | .mainSideTimeout
  | .healthRefresh .. | .breezeEntry | .breezeExit | .automaticDeepTimer | .lullEntry | .calmEntry | .lullExit | .calmExit
  | .thermalSample .. | .throttleEffect | .thermalHold | .thermalHoldEnd | .wardenOscillatorStop | .crystalStop ..
  | .alwaysOnPowerOn .. | .mainStart .. | .mainSideRestart .. | .v12MainLoss | .vccqNLoss | .supplySample .. | .availabilityTick
  | .accountingLogWrite | .delayedResultRelease | .v3p3AonLoss | .vfEnableSet .. | .speedPulse .. | .fieldAppendBoundPassed
  | .slewComplete => true

end Sys2Proof
end

