-- ==== Sys2Proof/Tests/Slice0.lean ====
section
/-!
SUPPORT. The model's own tests. For every statement with hypotheses, and for each of its clauses, a named theorem shows a state and operands
that meet them together (`test_<statement>_<clause>`); an ill-formed term for each check of WellFormed; the specification's worked examples,
and test vectors of the standards it names.
-/

open Sys2Proof Sys2Proof.Machine

namespace Sys2Proof.Tests

set_option Elab.async false

/-- The device after a full start: the main side is up and in Gale. -/
def awake : State := { State.reset with start := { Start.reset with phase := .full } }

/-- A register of a page. -/
def regAt (page off : Nat) : RegDef := (regDef page off).getD { off := 0, owner := .none }

/-- `Reaches` as a value. -/
def reachesB (s : State) (m : Master) (page off : Nat) (d : RegDef) : Bool :=
  reaches m page && (kindOf page).isSome && s.pageOn page && off % 4 == 0 && regDef page off == some d

theorem reaches_of {s : State} {m : Master} {page off : Nat} {d : RegDef} (h : reachesB s m page off d = true) :
    Reaches s m page off d := by
  simp only [reachesB, Bool.and_eq_true, beq_iff_eq] at h
  exact ⟨h.1.1.1.1, h.1.1.1.2, h.1.1.2, h.1.2, h.2⟩

/-- `Accepts` as a value. -/
def acceptsB (s : State) (m : Master) (page off : Nat) (v : Word) (cond : State → Option State) (d : RegDef) : Bool :=
  reachesB (s.arrive m) m page off d && !tenantView m page && d.owner != .none && !(inSquall off && (s.arrive m).squallHolder.isNone) &&
    (s.arrive m).mayWrite m page d && !(decide (off = 0x34) && (s.arrive m).badRoute v) && (cond (s.arrive m)).isNone && v &&& d.reserved == 0

theorem accepts_of {s : State} {m : Master} {page off : Nat} {v : Word} {cond : State → Option State} {d : RegDef}
    (h : acceptsB s m page off v cond d = true) : Accepts s m page off v cond d := by
  simp only [acceptsB, Bool.and_eq_true, Bool.not_eq_true', bne_iff_ne, ne_eq, Option.isNone_iff_eq_none, beq_iff_eq] at h
  exact ⟨⟨reaches_of h.1.1.1.1.1.1.1, h.1.1.1.1.1.1.2, h.1.1.1.1.1.2, h.1.1.1.1.2, h.1.1.1.2, h.1.1.2⟩, h.1.2, h.2⟩

/-- An admin submission queue and an I/O submission queue of class 1 with a default bound of 2 s, eight entries each. -/
def asq : SQueue :=
  { qid := 0, size := 8, cqid := 0, base := 0x10000, head := 0, tail := 2, dclass := 0, fixed := false, ddl := 0, doomed := [], bells := [],
    del := none }
def iosq : SQueue := { asq with qid := 1, cqid := 1, base := 0x20000, dclass := 1, fixed := true, ddl := 31250 }

/-- Their completion queues. -/
def acq : CQueue := { qid := 0, size := 8, base := 0x30000, head := 0, tail := 0, phase := true, vec := 0, ien := true }
def iocq : CQueue := { acq with qid := 1, base := 0x40000, vec := 1 }

/-- An enabled controller that fetches, with both queue pairs. -/
def upCtrl (pool : List Nat) : Ctrl :=
  { Ctrl.reset pool with cc := 0x00460001, csts := 1, aqa := 0x00070007, fetching := true, sqs := [asq, iosq], cqs := [acq, iocq] }

/-- The device with its supplies and its link up, the PF's controller enabled, and an NVM, an SLM and a CP namespace of the PF. -/
def hosted : State :=
  { awake with
    power := { Power.reset with v12 := true, vccq := true }
    host := { HostSide.reset with
      link := { HostSide.reset.link with up := true, perst := false }
      ctrls := upCtrl (List.range 128) :: List.replicate 15 (Ctrl.reset [])
      nss := [⟨2, .nvm, 4096, some 0, 0⟩, ⟨3, .slm, 4096, some 0, 0⟩, ⟨4, .cp, 0, some 0, 0⟩] } }

/-- The PF's controller changed. -/
def ctrlOf (f : Ctrl → Ctrl) : State := hosted.modCtrl 0 f

/-- A submission entry. -/
def ent (sqid : Nat) (opc : Byte) (nsid : Nat) (cdw10 cdw11 cdw12 : Word) : NvmeCmd :=
  { fn := 0, sqid := sqid, cid := 7, opc := opc, nsid := nsid, cdw2 := 0, cdw3 := 0, cdw10 := cdw10, cdw11 := cdw11, cdw12 := cdw12,
    cdw13 := 0, cdw14 := 0, cdw15 := 0, dptr := .prp [0x1000, 0x2000], fused := false, mptr := false, data := [], xfer := true, fetch := true,
        poison := false }

theorem fetched_of {c : NvmeCmd} {s : State} {q : SQueue} {t0 : Nat} (h1 : c.sqid ≠ 0) (h2 : (s.fetchEntry c).2 = some t0)
    (h3 : ((s.fetchEntry c).1.ctrl c.fn).sq? c.sqid = some q) : Fetched c s (s.fetchEntry c).1 q t0 := ⟨h1, Prod.ext rfl h2, h3⟩

theorem fetchedAdmin_of {c : NvmeCmd} {s : State} (h1 : c.sqid = 0) (h2 : (s.fetchEntry c).2.isSome = true) :
    FetchedAdmin c s (s.fetchEntry c).1 :=
  ⟨h1, (s.fetchEntry c).2.get h2, Prod.ext rfl (by simp)⟩

/-- `Admits` as a value. -/
def admitsB (s : State) (k : Cmd) (r : Resolved) (d : Demand) (tail : Sys2Proof.Class → Rat) (len t0 : Nat) : Bool :=
  if r.cls = 0 then
    !((s.evSlice k.ref.fn.val).mbps == 0 && (s.evSlice k.ref.fn.val).cmds == 0) && decide (10000 ≤ (s.bucketNow k.ref.fn.val).cmds) &&
      decide (len ≤ (s.bucketNow k.ref.fn.val).bytes) && k.dies.all s.spaced
  else decide (classMin r.cls ≤ r.us) && decide (s.worst r.cls d (tail r.cls) (s.tOrd (s.asAdmitted k r t0)) ≤ ((1000 * r.us : Nat) : Rat))

theorem admits_of {s : State} {k : Cmd} {r : Resolved} {d : Demand} {tail : Sys2Proof.Class → Rat} {len t0 : Nat}
    (h : admitsB s k r d tail len t0 = true) : Admits s k r d tail len t0 := by
  unfold admitsB at h
  unfold Admits
  split at h
  · rename_i hc
    rw [if_pos hc]
    simp only [Bool.and_eq_true, Bool.not_eq_true', Bool.and_eq_false_iff, beq_eq_false_iff_ne, decide_eq_true_eq] at h
    exact ⟨fun e => h.1.1.1.elim (fun n => n e.1) fun n => n e.2, h.1.1.2, h.1.2, h.2⟩
  · rename_i hc
    rw [if_neg hc]
    simp only [Bool.and_eq_true, decide_eq_true_eq] at h
    exact h

/-- The state once an entry has been fetched. -/
def got (c : NvmeCmd) (s : State) : State := (s.fetchEntry c).1

/-- The I/O queue once an entry has been fetched. -/
def popped : SQueue := { iosq with head := 1 }

/-- A Read of one block, admitted and at work. -/
def aCmd : Cmd :=
  { Cmd.plain ⟨0, 1, 7⟩ 0 with
    kind := .read, reads := [⟨2, 0, 1⟩], bytes := 4096, cls := 1, deadline := 2000000000, phase := .working, admitted := true, started := true }

/-- The device with that command in flight, changed. -/
def busy (f : Cmd → Cmd) : State := { hosted with host := { hosted.host with cmds := [f aCmd] } }

/-- The state once the words of an instruction have been fetched, and once its slots have passed. -/
def fetchedIn (s : State) (i : Iss) : State :=
  (s.fetchSlot i.cell ((s.cell i.cell).pc.toNat + (s.cell i.cell).run.latched.toNat) (i.ext.length + 1)).2
def into (s : State) (i : Iss) (w : IWord) : State :=
  (fetchedIn s i).modCell i.cell fun q =>
    let q := q.slots ((s.cell i.cell).slotsOf i)
    if !(s.cell i.cell).run.latched && !isPrefix w then q.modSp fun p => { p with stat := p.stat &&& 0x7 } else q

/-- `Issuable` as a value. -/
def issuableB (s : State) (i : Iss) (w : IWord) : Bool :=
  let k := s.cell i.cell
  let start := k.pc.toNat + k.run.latched.toNat
  s.issues i.cell k.inRep && decide ((s.fetchSlot i.cell start (i.ext.length + 1)).1 = some (i.ext.map extWord ++ [w])) &&
    !(pmode k && (k.sp.cycBud == 0 || s.armed (celPage i.cell) 6)) &&
    !(k.mayInt && s.irqLevel i.cell) &&
    !(pmode k && lowFetch start (i.ext.length + 1))

theorem issuable_of {s : State} {i : Iss} {w : IWord} (h : issuableB s i w = true) : Issuable s i w (fetchedIn s i) := by
  simp only [issuableB, Bool.and_eq_true, Bool.not_eq_true', decide_eq_true_eq] at h
  exact ⟨h.1.1.1.1, Prod.ext h.1.1.1.2 rfl, h.1.1.2, h.1.2, h.2⟩

theorem issues_of {s : State} {i : Iss} {w : IWord} (h : issuableB s i w = true)
    (g : (!undefWord w && !rsvdWord w && !chainBad w i.ext && decide (i.ext.length ≤ 3)) = true) : Issues s i w (into s i w) := by
  simp only [Bool.and_eq_true, Bool.not_eq_true', decide_eq_true_eq] at g
  exact ⟨fetchedIn s i, issuable_of h, g.1.1.1, g.1.1.2, g.1.2, g.2, rfl⟩

/-- The device with cell 0 released at a word, and its registers set. -/
def celled (w : IWord) (f : Cell → Cell) : State :=
  awake.modCell 0 fun k => f { k with im := [(0, w)], run := { k.run with held := false, holdReq := false } }

/-- A cell with registers w0 and w1 set. -/
def regs01 (a b : TWord) (k : Cell) : Cell := { k with w := a :: b :: List.replicate 14 .void }

/-- Cell 0, without EXT words. -/
def i0 : Iss := ⟨0, []⟩

/-- An admin entry of function 0. -/
def adm (opc : Byte) (nsid : Nat) (cdw10 cdw11 cdw12 : Word) : NvmeCmd := ent 0 opc nsid cdw10 cdw11 cdw12

/-- The value of a success. -/
def okOf {α : Type} (x : Except Status α) (d : α) : α := match x with
  | .ok v => v
  | .error _ => d

theorem ok_of {α : Type} {x : Except Status α} (d : α) (h : x.isOk = true) : x = .ok (okOf x d) := by
  cases x with
  | ok v => rfl
  | error e => cases h

theorem some_of {α : Type} {x : Option α} (d : α) (h : x.isSome = true) : x = some (x.getD d) := by
  cases x with
  | some v => rfl
  | none => cases h

/-- A die that is attached and ready. -/
def readyDie : DieSt :=
  { attached := true, state := 0, mode := .tlc, susCnt := 0, susp := false, req := none, started := 0, scale := 0, forced := false,
    paused := none, lunReset := none }

/-- An open stripe without members. -/
def openStripe (sseq : BitVec 64) (way : Nat) (evid : Bool) : Stripe := ⟨sseq, way, [], 0, 0, true, evid, 0⟩

/-- The device with its media: 128 dies of 512 blocks of 1,024 page sets, quiet ways 0 and 1, an open stripe of each sort. -/
def stored : State :=
  { hosted.setReg (MCH_CTRL 0) 1 with
    media := { Media.reset with
      ways := 8, geom := some (512, 1024, 1, false, false), quiet := [0, 1], dies := List.replicate 128 readyDie
      chans := List.replicate 16 { seq := .reset, bufs := [none, none], waits := [], parked := false, reload := false } }
    red := { Red.reset with stripes := [openStripe 0 0 true, openStripe 1 2 false], sseq := 2 } }

theorem some_pair {α β : Type} {x : Option (α × β)} (r : α) (d : α × β) (h : x.map Prod.fst = some r) : x = some (r, (x.getD d).2) := by
  cases x with
  | some v => simp only [Option.map_some, Option.some.injEq] at h; subst h; rfl
  | none => cases h

theorem pair_of {α β : Type} (x : α × β) : x = (x.1, x.2) := rfl
theorem triple_of {α β γ : Type} (x : α × β × γ) : x = (x.1, x.2.1, x.2.2) := rfl

/-! ## Witnesses: Register pages -/

namespace G02

theorem test_PageCommands_0 :
    ∃ (s : State) (m : Master) (page : Nat) (off : Nat) (v : Word) (d : RegDef), Accepts s m page off v (pageCond page m off v) d :=
  ⟨awake, .pf, 0, 0x8C, 5, regAt 0 0x8C, accepts_of (by decide +kernel)⟩

theorem test_PageCommands_1 :
    ∃ (s : State) (m : Master) (page : Nat) (off : Nat) (width : Nat), reaches m page = true ∧ (kindOf page).isSome = true ∧
        (s.arrive m).pageOn page = true ∧ ((width ≠ 32 ∨ off % 4 ≠ 0)) :=
  ⟨awake, .pf, 0, 0x8C, 16, by decide +kernel⟩

theorem test_PageCommands_2 :
    ∃ (s : State) (m : Master) (page : Nat) (v : Word) (d : RegDef), Accepts s m page 0x08 (setBit v 0 true) noCond d :=
  ⟨awake, .pf, 0, 0, regAt 0 0x08, accepts_of (by decide +kernel)⟩

theorem test_PageCommands_3 :
    ∃ (s : State) (m : Master) (page : Nat) (v : Word) (d : RegDef), Accepts s m page 0x2C v noCond d :=
  ⟨awake, .pf, 0, 4, regAt 0 0x2C, accepts_of (by decide +kernel)⟩

theorem test_PageCommands_4 :
    ∃ (s : State) (m : Master) (page : Nat) (v : Word) (d : RegDef), Accepts s m page 0x30 v noCond d :=
  ⟨awake, .pf, 0, 4, regAt 0 0x30, accepts_of (by decide +kernel)⟩

theorem test_PageCommands_5 :
    ∃ (s : State) (m : Master) (page : Nat) (v : Word) (d : RegDef), Accepts s m page 0x34 v noCond d :=
  ⟨awake, .pf, 0, 3, regAt 0 0x34, accepts_of (by decide +kernel)⟩

theorem test_PageCommands_6 :
    ∃ (s : State) (page : Nat) (v : Word) (d : RegDef), Accepts s .warden page 0x10 v (ownerCond .warden page v) d :=
  ⟨awake, 0, 0x15, regAt 0 0x10, accepts_of (by decide +kernel)⟩

theorem test_PageCommands_7 :
    ∃ (s : State) (m : Master) (page : Nat) (slot : Nat) (v : Word) (d : RegDef), Accepts s m page (slotOff slot) v noCond d :=
  ⟨awake, .pf, 0, 1, 0, regAt 0 0xF0C, accepts_of (by decide +kernel)⟩

theorem test_PageCommands_8 :
    ∃ (s : State) (m : Master) (page : Nat) (slot : Nat) (k : Kind) (i : Nat) (d : RegDef), Reaches (s.arrive m) m page (slotOff slot) d ∧
        kindOf page = some (k, i) ∧ (joinedSlots k).contains slot = true :=
  ⟨awake, .pf, 0x010, 2, .hif, 0, regAt 0x010 0xF10, reaches_of (by decide +kernel), rfl, by decide +kernel⟩

theorem test_PageCommands_9 :
    ∃ (s : State) (m : Master) (d : RegDef), Reaches (s.arrive m) m 0 0x84 d :=
  ⟨awake, .pf, regAt 0 0x84, reaches_of (by decide +kernel)⟩

theorem test_PageCommands_10 :
    ∃ (s : State), s.fastClocks = true :=
  ⟨awake, rfl⟩

theorem test_PageCommands_11 :
    ∃ (s : State), s.fastClocks = false :=
  ⟨State.reset, rfl⟩

theorem test_PageCommands_12 :
    ∃ (s : State) (m : Master) (page : Nat) (slot : Nat) (k : Kind) (i : Nat) (d : RegDef) (l : Latch), Reaches (s.arrive m) m page (slotOff slot) d ∧
        kindOf page = some (k, i) ∧ (joinedSlots k).contains slot = false ∧
        ((s.arrive m).pages.latches.find? fun l => l.page == page && l.off == slotOff slot && l.master == m) = some l :=
  ⟨awake.latch 0x010 0xF14 .pf 7, .pf, 0x010, 3, .hif, 0, regAt 0x010 0xF14, ⟨0x010, 0xF14, .pf, 7⟩, reaches_of (by decide +kernel), rfl,
      by decide +kernel, rfl⟩
end G02

/-! ## Witnesses: Forecast -/

namespace G03

theorem test_ForecastCommands_1 :
    ∃ (s : State) (m : Master) (v : Word) (d : RegDef), Accepts s m 0x020 0x90 v (sliceCond m v) d ∧ (s.arrive m).field? ADM_SLSEL 4 0 < 16 ∧
        s.adm.slices.length = 16 :=
  ⟨awake, .pf, 0x00050002, regAt 0x020 0x90, accepts_of (by decide +kernel), by decide +kernel, rfl⟩

theorem test_ForecastCommands_2 :
    ∃ (s : State) (m : Master) (v : Word) (d : RegDef), Accepts s m 0x020 0x90 v (sliceCond m v) d ∧ 16 ≤ (s.arrive m).field? ADM_SLSEL 4 0 :=
  ⟨awake.setReg ADM_SLSEL 17, .pf, 0, regAt 0x020 0x90, accepts_of (by decide +kernel), by decide +kernel⟩

theorem test_ForecastCommands_3 :
    ∃ (s : State) (m : Master) (v : Word) (d : RegDef), Accepts s m 0x020 0x80 (setBit v 0 true) noCond d :=
  ⟨awake, .pf, 0, regAt 0x020 0x80, accepts_of (by decide +kernel)⟩

theorem test_ForecastCommands_4 :
    ∃ (s : State) (m : Master) (v : Word) (d : RegDef), Accepts s m 0x020 0xA4 v (cvalCond m v) d ∧ (s.arrive m).field? ADM_CSEL 5 0 < 45 ∧
        SMap.wf (fun k => BitVec.ofNat 32 (constTable.getD k 0)) s.adm.consts = true :=
  ⟨awake, .cell 0, 7, regAt 0x020 0xA4, accepts_of (by decide +kernel), by decide +kernel⟩

theorem test_ForecastCommands_5 :
    ∃ (s : State) (m : Master) (v : Word) (d : RegDef), Accepts s m 0x021 0x80 (setBit v 0 true) noCond d :=
  ⟨awake, .pf, 0, regAt 0x021 0x80, accepts_of (by decide +kernel)⟩

theorem test_ForecastCommands_6 :
    ∃ (s : State) (m : Master) (v : Word) (d : RegDef), Accepts s m 0x020 0xA4 v (cvalCond m v) d ∧ 45 ≤ (s.arrive m).field? ADM_CSEL 5 0 :=
  ⟨awake.setReg ADM_CSEL 63, .cell 0, 7, regAt 0x020 0xA4, accepts_of (by decide +kernel), by decide +kernel⟩

theorem test_ForecastCommands_8 :
    ∃ (s : State) (h : House) (u : State), (s.adm.house.find? fun h => decide (h.after ≤ s.ns)) = some h ∧
        u = (if h.cls = 1 then s else s.unhouse h.kind h.die h.block) :=
  ⟨{ awake with adm := { awake.adm with house := [⟨0, 1, 2, 3, 0⟩] } }, ⟨0, 1, 2, 3, 0⟩,
      ({ awake with adm := { awake.adm with house := [⟨0, 1, 2, 3, 0⟩] } } : State).unhouse 0 1 2, by decide +kernel, rfl⟩

theorem test_ForecastCommands_9 :
    ∃ (s : State), (s.adm.house.find? fun h => decide (h.after ≤ s.ns)) = none :=
  ⟨{ awake with adm := { awake.adm with house := [⟨0, 1, 2, 3, 1⟩] } }, by decide +kernel⟩

theorem test_ForecastCommands_10 :
    ∃ (s : State) (fn : Fun) (units : List (Die × Nat)) (d : Demand) (v : State), (s.logsOf fn).test.isSome = true ∧ (s.logsOf fn).retry ≤ s.ns ∧
        d = { Demand.none with units := units.map fun u => (u.1.val, s.unitMode u.1.val u.2, 65536) } ∧ v = s.uncharge (.work (2 ^ 50 + fn.val)) ∧
        d.units.foldl (fun a x => a + s.tr x.2.1 + s.xfer x.2.2 31) 0 ≤ (2000000000 : Rat) :=
  ⟨awake.modLogs 0 fun l => { l with test := some 1 }, 0, [(5, 0)], _, _, by decide +kernel, by decide +kernel, rfl, rfl, by decide +kernel⟩

theorem test_SliceSums_0 :
    ∃ (s : State), s.Canonical ∧ s.adm.slices.length = 16 ∧ (s.adm.slices.map Slice.mbps).sum ≤ 95 ∧ (s.adm.slices.map Slice.cmds).sum ≤ 115 :=
  ⟨awake, rfl, rfl, by decide +kernel⟩
end G03

/-! ## Witnesses: NVMe controllers -/

namespace G04a

theorem test_ControllerCommands_0 :
    ∃ (s : State) (fn : Fun) (off : Nat), s.bar0On fn = true ∧ off < 0x4000 ∧ off % 4 = 0 :=
  ⟨hosted, 0, 0x1C, by decide +kernel⟩

theorem test_ControllerCommands_1 :
    ∃ (s : State) (u : State) (fn : Fun) (y : Nat) (v : Word) (q : SQueue), u = s.arrive (fnMaster fn) ∧ u.bar0On fn = true ∧
        y ≤ (u.ctrl fn).pool.length ∧ (u.ctrl fn).sq? y = some q ∧ v.toNat < q.size :=
  ⟨hosted, hosted.arrive .pf, 0, 1, 5, iosq, rfl, by decide +kernel, by decide +kernel, rfl, by decide +kernel⟩

theorem test_ControllerCommands_2 :
    ∃ (s : State) (u : State) (fn : Fun) (y : Nat) (v : Word) (q : CQueue), u = s.arrive (fnMaster fn) ∧ u.bar0On fn = true ∧
        y ≤ (u.ctrl fn).pool.length ∧ (u.ctrl fn).cq? y = some q ∧ v.toNat < q.size :=
  ⟨hosted, hosted.arrive .pf, 0, 1, 5, iocq, rfl, by decide +kernel, by decide +kernel, rfl, by decide +kernel⟩

theorem test_ControllerCommands_3 :
    ∃ (s : State) (u : State) (fn : Fun) (cc : Word), u = s.count64 0x010 2 1 ∧ s.bar0On fn = true ∧ bit (s.ctrl fn).cc 0 = false ∧
        u.host.ctrls.length = 16 ∧ (u.ctrl fn).resetting = false ∧ (u.ctrl fn).badConfig (setBit cc 0 true &&& 0xFFFFF1) = false ∧ ((fn = 0 ∨
        (u.vfm.vfs.getD fn.val .reset).online = true)) :=
  ⟨ctrlOf fun c => { c with cc := 0, csts := 0 }, (ctrlOf fun c => { c with cc := 0, csts := 0 }).count64 0x010 2 1, 0, 0x00460060, rfl,
      by decide +kernel, by decide +kernel, rfl, by decide +kernel⟩

theorem test_ControllerCommands_4 :
    ∃ (s : State) (fn : Fun), s.bar0On fn = true ∧ bit (s.ctrl fn).cc 0 = true :=
  ⟨hosted, 0, by decide +kernel⟩

theorem test_ControllerCommands_5 :
    ∃ (s : State) (fn : Fun), (s.ctrl fn).resetting = true ∧ (s.vfm.vfs.getD fn.val .reset).flr = false ∧
        (s.host.cmds.any fun c => c.ref.fn == fn && c.awaits) = false :=
  ⟨ctrlOf fun c => { c with resetting := true }, 0, by decide +kernel⟩

theorem test_ControllerCommands_6 :
    ∃ (s : State) (fn : Fun) (shn : Nat), s.bar0On fn = true ∧ ((shn = 1 ∨ shn = 2)) ∧ bits (s.ctrl fn).csts 3 2 = 0 :=
  ⟨hosted, 0, 1, by decide +kernel⟩

theorem test_ControllerCommands_7 :
    ∃ (s : State) (fn : Fun), fn ≠ 0 ∧ bits (s.ctrl fn).csts 3 2 = 1 ∧ (s.ftl.staging.any fun x => x.fn == fn) = false :=
  ⟨hosted.modCtrl 1 fun c => { c with csts := 4 }, 1, by decide +kernel⟩

theorem test_ControllerCommands_8 :
    ∃ (s : State) (fn : Fun), (s.ctrl fn).msixEn = false ∧ s.pageOn 0x010 = true ∧ s.host.link.up = true ∧ s.fnExists fn.val = true :=
  ⟨hosted, 0, by decide +kernel, by decide +kernel, rfl, by decide +kernel⟩

theorem test_ControllerCommands_9 :
    ∃ (s : State) (fn : Fun) (v : Nat), s.bar0On fn = true ∧ v < (if fn = 0 then 64 else 16) :=
  ⟨hosted, 0, 63, by decide +kernel⟩

theorem test_ControllerCommands_10 :
    ∃ (s : State) (fn : Fun) (vec : Nat) (x : Coal), ((s.ctrl fn).coal.find? fun x => x.vec == vec) = some x ∧
        100 * (s.ctrl fn).feat.coalTime ≤ (s.pages.dtime - x.since).toNat :=
  ⟨ctrlOf fun c => { c with coal := [⟨1, 2, 0⟩] }, 0, 1, ⟨1, 2, 0⟩, rfl, by decide +kernel⟩
end G04a

/-! ## Witnesses: Admin and I/O commands -/

namespace G04b

/-- The device with compute cells of the PF, a digest engine share and a range set of 4 KiB of SLM. -/
def computing : State :=
  { hosted with
    vfm := { hosted.vfm with vfs := at' hosted.vfm.vfs 0 fun v => { v with shares := { v.shares with cells := 1, eng := 7 } } }
    prog := { hosted.prog with sets := [(0, 1, [⟨false, false, 3, 0, 1024⟩, ⟨false, true, 3, 2048, 64⟩])] } }

/-- DIGEST over that set. -/
def digestEnt : NvmeCmd := { ent 1 1 4 0x00010007 4 1024 with cdw3 := 1, data := [0, 0, 0, 0] }

/-- An append of one block was dropped. -/
def dropped : State := { stored with host := { stored.host with evid := { stored.host.evid with cap := 100, open_ := [⟨0, 1, none, false, 0, none⟩] } } }

theorem test_HostIoCommands_0 :
    ∃ (c : NvmeCmd) (s : State) (u : State) (q : SQueue) (r : Resolved) (t0 : Nat), Fetched c s u q t0 ∧ u.firstRow (readJob c q u).rows = none ∧
        (readJob c q u).r = some r ∧ Admits u (readJob c q u).k r (readJob c q u).d (readJob c q u).tail (readJob c q u).len t0 :=
  ⟨ent 1 2 2 0 0 0, hosted, got (ent 1 2 2 0 0 0) (hosted), popped, ⟨1, 2000000, false, true⟩, 0, fetched_of (by decide) rfl (by decide +kernel),
      by decide +kernel, rfl, admits_of (by decide +kernel)⟩

theorem test_HostIoCommands_1 :
    ∃ (c : NvmeCmd) (s : State) (u : State) (q : SQueue) (r : Resolved) (t0 : Nat), Fetched c s u q t0 ∧ u.firstRow (writeJob c q u).rows = none ∧
        (writeJob c q u).r = some r ∧ Admits u (writeJob c q u).k r (writeJob c q u).d (writeJob c q u).tail (writeJob c q u).len t0 :=
  ⟨ent 1 1 2 0 0 0, hosted, got (ent 1 1 2 0 0 0) (hosted), popped, ⟨1, 2000000, false, true⟩, 0, fetched_of (by decide) rfl (by decide +kernel),
      by decide +kernel, rfl, admits_of (by decide +kernel)⟩

theorem test_HostIoCommands_2 :
    ∃ (c : NvmeCmd) (s : State) (u : State) (q : SQueue) (r : Resolved) (t0 : Nat), Fetched c s u q t0 ∧ u.firstRow (flushJob c q u).rows = none ∧
        (flushJob c q u).r = some r ∧ Admits u (flushJob c q u).k r (flushJob c q u).d (flushJob c q u).tail (flushJob c q u).len t0 :=
  ⟨ent 1 0 2 0 0 0, hosted, got (ent 1 0 2 0 0 0) (hosted), popped, ⟨1, 2000000, false, true⟩, 0, fetched_of (by decide) rfl (by decide +kernel),
      by decide +kernel, rfl, admits_of (by decide +kernel)⟩

theorem test_HostIoCommands_3 :
    ∃ (c : NvmeCmd) (s : State) (u : State) (q : SQueue) (r : Resolved) (t0 : Nat), Fetched c s u q t0 ∧ u.firstRow (compareJob c q u).rows = none ∧
        (compareJob c q u).r = some r ∧ Admits u (compareJob c q u).k r (compareJob c q u).d (compareJob c q u).tail (compareJob c q u).len t0 :=
  ⟨ent 1 5 2 0 0 0, hosted, got (ent 1 5 2 0 0 0) (hosted), popped, ⟨1, 2000000, false, true⟩, 0, fetched_of (by decide) rfl (by decide +kernel),
      by decide +kernel, rfl, admits_of (by decide +kernel)⟩

theorem test_HostIoCommands_4 :
    ∃ (c : NvmeCmd) (s : State) (u : State) (q : SQueue) (r : Resolved) (t0 : Nat), Fetched c s u q t0 ∧ u.firstRow (writeZeroesJob c q u).rows = none ∧
        (writeZeroesJob c q u).r = some r ∧
        Admits u (writeZeroesJob c q u).k r (writeZeroesJob c q u).d (writeZeroesJob c q u).tail (writeZeroesJob c q u).len t0 :=
  ⟨ent 1 8 2 0 0 0, hosted, got (ent 1 8 2 0 0 0) (hosted), popped, ⟨1, 2000000, false, true⟩, 0, fetched_of (by decide) rfl (by decide +kernel),
      by decide +kernel, rfl, admits_of (by decide +kernel)⟩

theorem test_HostIoCommands_5 :
    ∃ (c : NvmeCmd) (s : State) (u : State) (q : SQueue) (r : Resolved) (t0 : Nat), Fetched c s u q t0 ∧ u.firstRow (dsmJob c q u).rows = none ∧
        (dsmJob c q u).r = some r ∧ Admits u (dsmJob c q u).k r (dsmJob c q u).d (dsmJob c q u).tail (dsmJob c q u).len t0 :=
  ⟨{ ent 1 9 2 0 4 0 with data := List.replicate 16 0 }, hosted, got ({ ent 1 9 2 0 4 0 with data := List.replicate 16 0 }) (hosted), popped, ⟨1,
      2000000, false, true⟩, 0, fetched_of (by decide) rfl (by decide +kernel), by decide +kernel, rfl, admits_of (by decide +kernel)⟩

theorem test_HostIoCommands_6 :
    ∃ (c : NvmeCmd) (s : State) (u : State) (q : SQueue) (r : Resolved) (t0 : Nat), Fetched c s u q t0 ∧ u.firstRow (verifyJob c q u).rows = none ∧
        (verifyJob c q u).r = some r ∧ Admits u (verifyJob c q u).k r (verifyJob c q u).d (verifyJob c q u).tail (verifyJob c q u).len t0 :=
  ⟨ent 1 12 2 0 0 0, hosted, got (ent 1 12 2 0 0 0) (hosted), popped, ⟨1, 2000000, false, true⟩, 0, fetched_of (by decide) rfl (by decide +kernel),
      by decide +kernel, rfl, admits_of (by decide +kernel)⟩

theorem test_HostIoCommands_7 :
    ∃ (c : NvmeCmd) (s : State) (u : State) (q : SQueue) (r : Resolved) (t0 : Nat), Fetched c s u q t0 ∧ u.firstRow (copyJob c q u).rows = none ∧
        (copyJob c q u).r = some r ∧ Admits u (copyJob c q u).k r (copyJob c q u).d (copyJob c q u).tail (copyJob c q u).len t0 :=
  ⟨{ ent 1 25 2 0 0 0 with data := List.replicate 32 0 }, hosted, got ({ ent 1 25 2 0 0 0 with data := List.replicate 32 0 }) (hosted), popped, ⟨1,
      2000000, false, true⟩, 0, fetched_of (by decide) rfl (by decide +kernel), by decide +kernel, rfl, admits_of (by decide +kernel)⟩

theorem test_HostIoCommands_8 :
    ∃ (c : NvmeCmd) (s : State) (u : State) (q : SQueue) (r : Resolved) (t0 : Nat), Fetched c s u q t0 ∧ u.firstRow (slmJob false c q u).rows = none ∧
        (slmJob false c q u).r = some r ∧
        Admits u (slmJob false c q u).k r (slmJob false c q u).d (slmJob false c q u).tail (slmJob false c q u).len t0 :=
  ⟨ent 1 2 3 0 0 64, hosted, got (ent 1 2 3 0 0 64) (hosted), popped, ⟨1, 2000000, false, true⟩, 0, fetched_of (by decide) rfl (by decide +kernel),
      by decide +kernel, rfl, admits_of (by decide +kernel)⟩

theorem test_HostIoCommands_9 :
    ∃ (c : NvmeCmd) (s : State) (u : State) (q : SQueue) (r : Resolved) (t0 : Nat), Fetched c s u q t0 ∧ u.firstRow (slmJob true c q u).rows = none ∧
        (slmJob true c q u).r = some r ∧ Admits u (slmJob true c q u).k r (slmJob true c q u).d (slmJob true c q u).tail (slmJob true c q u).len t0 :=
  ⟨ent 1 1 3 0 0 64, hosted, got (ent 1 1 3 0 0 64) (hosted), popped, ⟨1, 2000000, false, true⟩, 0, fetched_of (by decide) rfl (by decide +kernel),
      by decide +kernel, rfl, admits_of (by decide +kernel)⟩

theorem test_HostIoCommands_10 :
    ∃ (c : NvmeCmd) (s : State) (u : State) (q : SQueue) (r : Resolved) (t0 : Nat), Fetched c s u q t0 ∧ u.firstRow (programJob c q u).rows = none ∧
        (programJob c q u).r = some r ∧ r.cls ≠ 0 ∧
        Admits u (programJob c q u).k r (programJob c q u).d (programJob c q u).tail (programJob c q u).len t0 ∧ programCheck c u u = none :=
  ⟨digestEnt, computing, got digestEnt computing, popped, ⟨1, 2000000, false, true⟩, 0, fetched_of (by decide) rfl (by decide +kernel),
      by decide +kernel, rfl, by decide +kernel, admits_of (by decide +kernel), by decide +kernel⟩

theorem test_CommandCourse_0 :
    ∃ (s : State) (c : CmdRef) (k : Cmd), s.cmd? c = some k ∧ k.phase = .held ∧ (s.waitsFor k).isEmpty = true :=
  ⟨busy fun k => { k with phase := .held }, ⟨0, 1, 7⟩, { aCmd with phase := .held }, rfl, rfl, by decide +kernel⟩

theorem test_CommandCourse_1 :
    ∃ (s : State) (u : State) (c : CmdRef) (k : Cmd) (st : Status) (x : SQueue) (q : CQueue), s.power.flush = 0 ∧ s.pageOn 0x010 = true ∧
        s.fabric.pause = none ∧ s.concludeExec c = u ∧ u.cmd? c = some k ∧ k.phase = .done st ∧ (u.ctrl c.fn).sq? c.sqid = some x ∧
        (u.ctrl c.fn).cq? x.cqid = some q ∧ (q.tail + 1) % q.size ≠ q.head :=
  ⟨busy fun k => { k with phase := .done stOk }, busy fun k => { k with phase := .done stOk }, ⟨0, 1, 7⟩, { aCmd with phase := .done stOk }, stOk, iosq,
      iocq, rfl, by decide +kernel, rfl, rfl, rfl, rfl, rfl, rfl, by decide +kernel⟩

theorem test_CommandCourse_2 :
    ∃ (s : State) (c : CmdRef) (k : Cmd), s.cmd? c = some k ∧ k.admitted = true ∧ k.cls = 0 ∧ k.deadline < s.ns ∧ k.phase = .working ∧
        s.adm.bound.contains c = false :=
  ⟨{ busy (fun k => { k with cls := 0, deadline := 0 }) with pages := { hosted.pages with dtime := 1 } }, ⟨0, 1, 7⟩,
      { aCmd with cls := 0, deadline := 0 }, rfl, rfl, rfl, by decide +kernel, rfl, by decide +kernel⟩

theorem test_CommandCourse_3 :
    ∃ (s : State) (c : CmdRef) (k : Cmd) (bs : List Block), s.cmd? c = some k ∧ bs.length = (k.bytes + 4095) / 4096 ∧ k.phase = .awaitData ∧
        s.armed 0x010 6 = false ∧ k.kind ≠ .memWrite :=
  ⟨busy fun k => { k with phase := .awaitData, kind := .write }, ⟨0, 1, 7⟩, { aCmd with phase := .awaitData, kind := .write }, [0], rfl, rfl, rfl,
      by decide +kernel⟩

theorem test_CommandCourse_4 :
    ∃ (s : State) (c : CmdRef) (k : Cmd) (bs : List Block) (x : Range) (rest : List Range), s.cmd? c = some k ∧ bs.length = (k.bytes + 4095) / 4096 ∧
        k.phase = .awaitData ∧ s.armed 0x010 6 = false ∧ k.kind = .memWrite ∧ k.writes = x :: rest :=
  ⟨busy fun k => { k with phase := .awaitData, kind := .memWrite, writes := [⟨3, 0, 1⟩] }, ⟨0, 1, 7⟩,
      { aCmd with phase := .awaitData, kind := .memWrite, writes := [⟨3, 0, 1⟩] }, [5], ⟨3, 0, 1⟩, [], rfl, rfl, rfl, by decide +kernel, rfl, rfl⟩

theorem test_CommandCourse_5 :
    ∃ (s : State) (c : CmdRef) (k : Cmd) (bs : List Block), s.cmd? c = some k ∧ bs.length = (k.bytes + 4095) / 4096 ∧ k.phase = .working ∧
        k.kind = .compare ∧ k.landed = false ∧ s.armed 0x010 6 = false :=
  ⟨busy fun k => { k with kind := .compare }, ⟨0, 1, 7⟩, { aCmd with kind := .compare }, [5], rfl, rfl, rfl, rfl, rfl, by decide +kernel⟩

theorem test_CommandCourse_6 :
    ∃ (s : State) (c : FailedTransfer) (k : Cmd), s.cmd? c.ref = some k ∧ (k.awaits = true ∨ k.phase = .working ∧ k.kind = .read) :=
  ⟨busy fun k => { k with phase := .awaitData }, ⟨⟨0, 1, 7⟩, false⟩, { aCmd with phase := .awaitData }, rfl, by decide +kernel⟩

theorem test_CommandCourse_7 :
    ∃ (s : State) (c : FailedTransfer) (k : Cmd), s.cmd? c.ref = some k ∧ k.phase = .done stOk ∧ (k.kind = .read ∨ k.kind = .memRead) :=
  ⟨busy fun k => { k with phase := .done stOk }, ⟨⟨0, 1, 7⟩, false⟩, { aCmd with phase := .done stOk }, rfl, rfl, by decide +kernel⟩

theorem test_CommandCourse_8 :
    ∃ (s : State) (x : AppendRec) (d : Nat), (s.host.evid.open_.find? fun x => x.who.isNone && !x.zero) = some x ∧ s.quietDie = some d :=
  ⟨dropped, ⟨0, 1, none, false, 0, none⟩, dropped.quietDie.getD 0, rfl, some_of 0 (by decide +kernel)⟩
end G04b

/-! ## Witnesses: Programs -/

namespace G05

/-- The device with NSID 2 detached. -/
def loose : State := { hosted with host := { hosted.host with nss := [⟨2, .nvm, 4096, none, 0⟩] } }

/-- The device with a downloaded image. -/
def fetchedImage : State := { hosted with host := { hosted.host with fw := { hosted.host.fw with down := [(0, 1)] } } }

theorem test_AdminQueueCommands_0 :
    ∃ (c : NvmeCmd) (s : State) (u : State) (a : BitVec 64), FetchedAdmin c s u ∧ c.fused = false ∧ 1 ≤ bits c.cdw10 15 0 ∧
        bits c.cdw10 15 0 ≤ (u.ctrl c.fn).pool.length ∧ (u.ctrl c.fn).sq? (bits c.cdw10 15 0) = none ∧ 1 ≤ bits c.cdw10 31 16 ∧
        bits c.cdw10 31 16 ≤ 4095 ∧ bits c.cdw11 31 16 ≠ 0 ∧ ((u.ctrl c.fn).cq? (bits c.cdw11 31 16)).isSome = true ∧ c.prp1 = some a ∧
        bit c.cdw11 0 = true ∧ a.toNat % 4096 = 0 :=
  ⟨adm 1 0 0x0FFF0002 0x00010001 0, hosted, got (adm 1 0 0x0FFF0002 0x00010001 0) (hosted), 0x1000,
      fetchedAdmin_of (by decide +kernel) (by decide +kernel), rfl, by decide +kernel, by decide +kernel, by decide +kernel, by decide +kernel,
      by decide +kernel, by decide +kernel, by decide +kernel, rfl, by decide +kernel⟩

theorem test_AdminQueueCommands_1 :
    ∃ (c : NvmeCmd) (s : State) (u : State) (a : BitVec 64), FetchedAdmin c s u ∧ c.fused = false ∧ 1 ≤ bits c.cdw10 15 0 ∧
        bits c.cdw10 15 0 ≤ (u.ctrl c.fn).pool.length ∧ (u.ctrl c.fn).cq? (bits c.cdw10 15 0) = none ∧ 1 ≤ bits c.cdw10 31 16 ∧
        bits c.cdw10 31 16 ≤ 4095 ∧ ((bit c.cdw11 1 = true → bits c.cdw11 31 16 < vectors c.fn)) ∧ c.prp1 = some a ∧ bit c.cdw11 0 = true ∧
        a.toNat % 4096 = 0 :=
  ⟨adm 5 0 0x0FFF0002 0x003F0003 0, hosted, got (adm 5 0 0x0FFF0002 0x003F0003 0) (hosted), 0x1000,
      fetchedAdmin_of (by decide +kernel) (by decide +kernel), rfl, by decide +kernel, by decide +kernel, by decide +kernel, by decide +kernel,
      by decide +kernel, by decide +kernel, rfl, by decide +kernel⟩

theorem test_AdminQueueCommands_2 :
    ∃ (c : NvmeCmd) (s : State) (u : State) (q : SQueue), FetchedAdmin c s u ∧ c.fused = false ∧ bits c.cdw10 15 0 ≠ 0 ∧
        (u.ctrl c.fn).sq? (bits c.cdw10 15 0) = some q ∧ q.del = none :=
  ⟨adm 0 0 1 0 0, hosted, got (adm 0 0 1 0 0) (hosted), iosq, fetchedAdmin_of (by decide +kernel) (by decide +kernel), rfl, by decide +kernel, rfl, rfl⟩

theorem test_AdminQueueCommands_3 :
    ∃ (c : NvmeCmd) (s : State) (u : State), FetchedAdmin c s u ∧ c.fused = false ∧ bits c.cdw10 15 0 ≠ 0 ∧
        ((u.ctrl c.fn).cq? (bits c.cdw10 15 0)).isSome = true ∧ ((u.ctrl c.fn).sqs.any fun q => q.cqid == bits c.cdw10 15 0) = false :=
  ⟨adm 4 0 1 0 0, ctrlOf fun c => { c with sqs := [asq] }, got (adm 4 0 1 0 0) (ctrlOf fun c => { c with sqs := [asq] }),
      fetchedAdmin_of (by decide +kernel) (by decide +kernel), rfl, by decide +kernel⟩

theorem test_AdminQueueCommands_4 :
    ∃ (c : NvmeCmd) (s : State) (u : State) (p : List Byte) (t : State), FetchedAdmin c s u ∧ c.fused = false ∧
        u.logPage c.fn (bits c.cdw10 7 0) = some p ∧ c.cdw12.toNat % 4 = 0 ∧ c.cdw13 = 0 ∧ c.cdw12.toNat < p.length ∧ bit c.cdw14 23 = false ∧
        ((bits c.cdw10 7 0 = 2 → c.nsid = 0xFFFFFFFF)) ∧
        u.answerData c ((p.drop c.cdw12.toNat).take (4 * (bits c.cdw10 31 16 + 65536 * bits c.cdw11 15 0 + 1))) stOk = t ∧
        ((t.cmd? c.ref).any fun k => k.phase == .done stOk) = true :=
  ⟨adm 2 0xFFFFFFFF 0x000300C2 0 0, hosted, got (adm 2 0xFFFFFFFF 0x000300C2 0 0) (hosted), (got (adm 2 0xFFFFFFFF 0x000300C2 0 0) hosted).evidPage,
      (got (adm 2 0xFFFFFFFF 0x000300C2 0 0) hosted).answerData (adm 2 0xFFFFFFFF 0x000300C2 0 0) ((((got (adm 2 0xFFFFFFFF 0x000300C2 0 0) hosted).evidPage).drop 0).take 16) stOk,
      fetchedAdmin_of (by decide +kernel) (by decide +kernel), rfl, rfl, by decide +kernel, rfl, by decide +kernel, by decide +kernel,
      by decide +kernel, rfl, by decide +kernel⟩

theorem test_AdminQueueCommands_5 :
    ∃ (c : NvmeCmd) (s : State) (u : State) (bs : List Byte), FetchedAdmin c s u ∧ c.fused = false ∧ u.identifyData c = .ok bs :=
  ⟨adm 6 0xFFFFFFFF 0 0 0, hosted, got (adm 6 0xFFFFFFFF 0 0 0) hosted,
      okOf ((got (adm 6 0xFFFFFFFF 0 0 0) hosted).identifyData (adm 6 0xFFFFFFFF 0 0 0)) [], fetchedAdmin_of (by decide +kernel) (by decide +kernel),
      rfl, ok_of [] (by decide +kernel)⟩

theorem test_AdminQueueCommands_6 :
    ∃ (c : NvmeCmd) (s : State) (u : State) (p : Nat), FetchedAdmin c s u ∧ c.fused = false ∧
        u.waitingEntry c.fn (bits c.cdw10 15 0) c.data ((c.cdw10 >>> 16).setWidth 16) = some p ∧ u.cmd? ⟨c.fn, bits c.cdw10 15 0,
        (c.cdw10 >>> 16).setWidth 16⟩ = none :=
  ⟨{ adm 8 0 0x00090001 0 0 with data := [9, 0] }, ctrlOf fun c => { c with sqs := [asq, { iosq with tail := 2 }] },
      got ({ adm 8 0 0x00090001 0 0 with data := [9, 0] }) (ctrlOf fun c => { c with sqs := [asq, { iosq with tail := 2 }] }), 0,
      fetchedAdmin_of (by decide +kernel) (by decide +kernel), rfl, rfl, by decide +kernel⟩

theorem test_AdminQueueCommands_7 :
    ∃ (c : NvmeCmd) (s : State) (u : State), FetchedAdmin c s u ∧ c.fused = false ∧
        (u.waitingEntry c.fn (bits c.cdw10 15 0) c.data ((c.cdw10 >>> 16).setWidth 16) = none ∨ (u.cmd? ⟨c.fn, bits c.cdw10 15 0,
        (c.cdw10 >>> 16).setWidth 16⟩).isSome = true) :=
  ⟨adm 8 0 0x00090001 0 0, hosted, got (adm 8 0 0x00090001 0 0) (hosted), fetchedAdmin_of (by decide +kernel) (by decide +kernel), rfl,
      by decide +kernel⟩

theorem test_AdminQueueCommands_8 :
    ∃ (c : NvmeCmd) (s : State) (u : State) (v : State) (w : Word), FetchedAdmin c s u ∧ c.fused = false ∧ featureIds.contains (bits c.cdw10 7 0) = true ∧
        bit c.cdw10 31 = false ∧ bits c.cdw10 7 0 ≠ 0x0E ∧ u.setFeature c (bits c.cdw10 7 0) = .ok (v, w) :=
  ⟨adm 9 0 0x08 0x0A04 0, hosted, got (adm 9 0 0x08 0x0A04 0) (hosted),
      (okOf ((got (adm 9 0 0x08 0x0A04 0) hosted).setFeature (adm 9 0 0x08 0x0A04 0) 8) (hosted, 0)).1,
      (okOf ((got (adm 9 0 0x08 0x0A04 0) hosted).setFeature (adm 9 0 0x08 0x0A04 0) 8) (hosted, 0)).2,
      fetchedAdmin_of (by decide +kernel) (by decide +kernel), rfl, by decide +kernel, by decide +kernel, by decide +kernel, ok_of (hosted,
      0) (by decide +kernel)⟩

theorem test_AdminQueueCommands_9 :
    ∃ (c : NvmeCmd) (s : State) (u : State) (w : Word), FetchedAdmin c s u ∧ c.fused = false ∧ bits c.cdw10 10 8 = 0 ∧ bits c.cdw10 7 0 ≠ 0x0E ∧
        u.getFeature c (bits c.cdw10 7 0) = .ok w :=
  ⟨adm 10 0 0x08 0 0, hosted, got (adm 10 0 0x08 0 0) (hosted), 0, fetchedAdmin_of (by decide +kernel) (by decide +kernel), rfl, by decide +kernel⟩

theorem test_AdminQueueCommands_10 :
    ∃ (c : NvmeCmd) (s : State) (u : State), FetchedAdmin c s u ∧ c.fused = false ∧ bit c.cdw10 31 = false :=
  ⟨adm 9 0 7 0 0, hosted, got (adm 9 0 7 0 0) (hosted), fetchedAdmin_of (by decide +kernel) (by decide +kernel), rfl, by decide +kernel⟩

theorem test_AdminQueueCommands_11 :
    ∃ (c : NvmeCmd) (s : State) (u : State), FetchedAdmin c s u ∧ c.fused = false ∧ bit c.cdw10 31 = false ∧ c.fn = 0 ∧ u.firstRow [ptrRow c 8,
        fetchRow c] = none :=
  ⟨adm 9 0 14 0 0, hosted, got (adm 9 0 14 0 0) (hosted), fetchedAdmin_of (by decide +kernel) (by decide +kernel), rfl, by decide +kernel, rfl,
      by decide +kernel⟩

theorem test_AdminQueueCommands_12 :
    ∃ (c : NvmeCmd) (s : State) (u : State), FetchedAdmin c s u ∧ c.fused = false ∧ bits c.cdw10 10 8 = 0 :=
  ⟨adm 10 0 14 0 0, hosted, got (adm 10 0 14 0 0) (hosted), fetchedAdmin_of (by decide +kernel) (by decide +kernel), rfl, by decide +kernel⟩

theorem test_AdminQueueCommands_13 :
    ∃ (c : NvmeCmd) (s : State) (u : State) (v : State), FetchedAdmin c s u ∧ c.fused = false ∧ bit c.cdw10 31 = false ∧ u.setDefault c = some v :=
  ⟨adm 9 0 0xC1 1 0x161, hosted, got (adm 9 0 0xC1 1 0x161) (hosted),
      ((got (adm 9 0 0xC1 1 0x161) hosted).setDefault (adm 9 0 0xC1 1 0x161)).getD hosted, fetchedAdmin_of (by decide +kernel) (by decide +kernel), rfl,
      by decide +kernel, some_of hosted (by decide +kernel)⟩

theorem test_AdminQueueCommands_14 :
    ∃ (c : NvmeCmd) (s : State) (u : State) (q : SQueue), FetchedAdmin c s u ∧ c.fused = false ∧ bits c.cdw10 10 8 = 0 ∧ bits c.cdw11 31 16 = 0 ∧
        (u.ctrl c.fn).sq? (bits c.cdw11 15 0) = some q ∧ q.qid ≠ 0 :=
  ⟨adm 10 0 0xC1 1 0, hosted, got (adm 10 0 0xC1 1 0) (hosted), iosq, fetchedAdmin_of (by decide +kernel) (by decide +kernel), rfl, by decide +kernel,
      by decide +kernel, rfl, by decide +kernel⟩

theorem test_AdminQueueCommands_15 :
    ∃ (c : NvmeCmd) (s : State) (u : State), FetchedAdmin c s u ∧ c.fused = false ∧ (u.logsOf c.fn).aers.length < 8 :=
  ⟨adm 12 0 0 0 0, hosted, got (adm 12 0 0 0 0) (hosted), fetchedAdmin_of (by decide +kernel) (by decide +kernel), rfl, by decide +kernel⟩

theorem test_AdminQueueCommands_16 :
    ∃ (c : NvmeCmd) (s : State) (u : State) (t0 : Nat), (if c.sqid = 0 then adminOpcodes c.fn else ioOpcodes).contains c.opc.toNat = false ∧
        s.fetchEntry c = (u, some t0) :=
  ⟨adm 0xFF 0 0 0 0, hosted, got (adm 0xFF 0 0 0 0) (hosted), 0, by decide +kernel, Prod.ext rfl (by decide +kernel)⟩

theorem test_AdminManagementCommands_0 :
    ∃ (c : NvmeCmd) (s : State) (u : State) (x : Ns), FetchedAdmin c s u ∧ c.fused = false ∧ c.fn = 0 ∧ bits c.cdw10 3 0 = 1 ∧ c.nsid ≠ 1 ∧
        c.nsid ≠ 0xFFFFFFFF ∧ deferRow c u = none ∧ u.ns? c.nsid = some x :=
  ⟨adm 13 2 1 0 0, hosted, got (adm 13 2 1 0 0) (hosted), ⟨2, .nvm, 4096, some 0, 0⟩, fetchedAdmin_of (by decide +kernel) (by decide +kernel), rfl, rfl,
      by decide +kernel, by decide +kernel, by decide +kernel, by decide +kernel, rfl⟩

theorem test_AdminManagementCommands_1 :
    ∃ (c : NvmeCmd) (s : State) (u : State) (n : Nat) (b : Nat), FetchedAdmin c s u ∧ c.fused = false ∧ c.fn = 0 ∧ bits c.cdw10 3 0 = 0 ∧
        u.firstRow [ptrRow c 4096, fetchRow c] = none ∧ bits c.cdw11 31 24 = 0 ∧ ((List.range 31).find? fun k => (u.ns? (k + 2)).isNone) = some n ∧
        leNat (sub c.data 30 1) = 0 ∧ leNat (sub c.data 29 1) = 0 ∧ leNat (sub c.data 26 1) = 0 ∧ leNat (sub c.data 0 8) ≠ 0 ∧
        leNat (sub c.data 8 8) = leNat (sub c.data 0 8) ∧ u.nvmBlocks + leNat (sub c.data 0 8) ≤ u.userBlocks ∧ b = u.newBase (leNat (sub c.data 0 8)) :=
  ⟨{ adm 13 0 0 0 0 with data := leBytes 8 16 ++ leBytes 8 16 ++ List.replicate 4080 0 }, stored,
      got ({ adm 13 0 0 0 0 with data := leBytes 8 16 ++ leBytes 8 16 ++ List.replicate 4080 0 }) (stored), 3,
      (got ({ adm 13 0 0 0 0 with data := leBytes 8 16 ++ leBytes 8 16 ++ List.replicate 4080 0 }) stored).newBase (leNat (sub ({ adm 13 0 0 0 0 with data := leBytes 8 16 ++ leBytes 8 16 ++ List.replicate 4080 0 }).data 0 8)),
      fetchedAdmin_of (by decide +kernel) (by decide +kernel), rfl, rfl, by decide +kernel⟩

theorem test_AdminManagementCommands_2 :
    ∃ (c : NvmeCmd) (s : State) (u : State) (n : Nat) (l : List Nat) (v : State), FetchedAdmin c s u ∧ c.fused = false ∧ c.fn = 0 ∧ bits c.cdw10 3 0 ≤ 1 ∧
        (u.nsInfo c.nsid).isSome = true ∧ deferRow c u = none ∧ u.firstRow [ptrRow c 4096, fetchRow c] = none ∧ n = leNat (sub c.data 0 2) ∧ 1 ≤ n ∧
        n ≤ 2047 ∧ l = (List.range n).map (fun k => leNat (sub c.data (2 + 2 * k) 2)) ∧ ((∀ f ∈ l, f < 16 ∧ u.fnExists f = true)) ∧
        u.overList (fun s f => if bits c.cdw10 3 0 = 0 then s.attachNs c.nsid f else s.detachNs c.nsid f) l = .ok v :=
  ⟨{ adm 21 2 0 0 0 with data := [1, 0, 0, 0] }, loose, got ({ adm 21 2 0 0 0 with data := [1, 0, 0, 0] }) (loose), 1, [0],
      okOf ((got ({ adm 21 2 0 0 0 with data := [1, 0, 0, 0] }) loose).attachNs 2 0) hosted, fetchedAdmin_of (by decide +kernel) (by decide +kernel),
      rfl, rfl, by decide +kernel, by decide +kernel, by decide +kernel, by decide +kernel, rfl, by decide +kernel, by decide +kernel,
      by decide +kernel, by decide +kernel, ok_of hosted (by decide +kernel)⟩

theorem test_AdminManagementCommands_3 :
    ∃ (c : NvmeCmd) (s : State) (u : State) (x : Ns), FetchedAdmin c s u ∧ c.fused = false ∧ c.nsid ≠ 1 ∧ c.nsid ≠ 0xFFFFFFFF ∧
        (u.kindFor c.fn c.nsid).isSome = true ∧ bits c.cdw10 3 0 = 0 ∧ bits c.cdw10 13 12 = 0 ∧ ((bits c.cdw10 11 9 = 0 ∨ bits c.cdw10 11 9 = 2)) ∧
        bits c.cdw10 8 4 = 0 ∧ ((u.host.nss.filter fun x => x.owner == some c.fn && x.kind == .nvm).find? fun x => x.nsid == c.nsid) = some x ∧
        deferRow c u = none :=
  ⟨adm 128 2 0x400 0 0, hosted, got (adm 128 2 0x400 0 0) (hosted), ⟨2, .nvm, 4096, some 0, 0⟩, fetchedAdmin_of (by decide +kernel) (by decide +kernel),
      rfl, by decide +kernel, by decide +kernel, by decide +kernel, by decide +kernel, by decide +kernel, by decide +kernel, by decide +kernel, rfl,
      by decide +kernel⟩

theorem test_AdminManagementCommands_4 :
    ∃ (c : NvmeCmd) (s : State) (u : State), FetchedAdmin c s u ∧ c.fused = false ∧ ((bits c.cdw10 3 0 = 1 ∨ bits c.cdw10 3 0 = 2)) ∧
        (u.logsOf c.fn).test = none :=
  ⟨adm 20 0 1 0 0, hosted, got (adm 20 0 1 0 0) (hosted), fetchedAdmin_of (by decide +kernel) (by decide +kernel), rfl, by decide +kernel⟩

theorem test_AdminManagementCommands_5 :
    ∃ (c : NvmeCmd) (s : State) (u : State) (n : Nat), FetchedAdmin c s u ∧ c.fused = false ∧ c.fn = 0 ∧ n = 4 * (c.cdw10.toNat + 1) ∧ n % 4096 = 0 ∧
        4 * c.cdw11.toNat % 4096 = 0 ∧ 4 * c.cdw11.toNat + n ≤ imageMax ∧ u.firstRow [ptrRow c n, fetchRow c] = none :=
  ⟨adm 17 0 1023 0 0, hosted, got (adm 17 0 1023 0 0) (hosted), 4096, fetchedAdmin_of (by decide +kernel) (by decide +kernel), rfl, rfl,
      by decide +kernel⟩

theorem test_AdminManagementCommands_6 :
    ∃ (c : NvmeCmd) (s : State) (u : State), FetchedAdmin c s u ∧ c.fused = false ∧ c.fn = 0 ∧ bits c.cdw10 5 3 = 0 ∧ u.activating = false ∧
        ((bits c.cdw10 2 0 = 1 ∨ bits c.cdw10 2 0 = 2)) ∧ u.host.fw.down ≠ [] :=
  ⟨adm 16 0 1 0 0, fetchedImage, got (adm 16 0 1 0 0) (fetchedImage), fetchedAdmin_of (by decide +kernel) (by decide +kernel), rfl, rfl,
      by decide +kernel, rfl, by decide +kernel⟩

theorem test_AdminManagementCommands_7 :
    ∃ (c : NvmeCmd) (s : State) (u : State), FetchedAdmin c s u ∧ c.fused = false ∧ c.fn = 0 ∧ bits c.cdw10 5 3 = 2 ∧ u.activating = false ∧
        bits c.cdw10 2 0 ≤ 2 :=
  ⟨adm 16 0 0x11 0 0, hosted, got (adm 16 0 0x11 0 0) (hosted), fetchedAdmin_of (by decide +kernel) (by decide +kernel), rfl, rfl, by decide +kernel,
      rfl, by decide +kernel⟩

theorem test_AdminManagementCommands_8 :
    ∃ (c : NvmeCmd) (s : State) (u : State), FetchedAdmin c s u ∧ c.fused = false ∧ c.fn = 0 ∧ bits c.cdw10 5 3 = 3 ∧ u.activating = false ∧
        bits c.cdw10 2 0 ≤ 2 :=
  ⟨adm 16 0 0x1A 0 0, hosted, got (adm 16 0 0x1A 0 0) (hosted), fetchedAdmin_of (by decide +kernel) (by decide +kernel), rfl, rfl, by decide +kernel,
      rfl, by decide +kernel⟩

theorem test_AdminManagementCommands_9 :
    ∃ (s : State) (k : Commit), s.host.fw.commit = some k ∧ k.step = 0 ∧ s.host.fw.down ≠ [] :=
  ⟨{ fetchedImage with host := { fetchedImage.host with fw := { fetchedImage.host.fw with commit := some ⟨⟨0, 0, 7⟩, 0, 1, 0⟩ } } }, ⟨⟨0, 0, 7⟩, 0, 1,
      0⟩, rfl, rfl, by decide +kernel⟩
end G05

/-! ## Witnesses: Arithmetic of the cells -/

namespace G06

/-- The device with three virtual functions; function 1 has one queue pair. -/
def virt : State :=
  { hosted with host := { hosted.host with
      link := { hosted.host.link with vfEn := true, numVfs := 3 }
      ctrls := upCtrl (List.range 127) :: Ctrl.reset [127] :: List.replicate 14 (Ctrl.reset []) } }

/-- The device with one virtual function's fields changed. -/
def virtOf (n : Nat) (f : Vf → Vf) : State := virt.modVf n f

/-- Function 0's manager page selects function 1. -/
def virtSel : State := virt.setReg VFM_SEL 1

/-- The device with a built-in program deactivated. -/
def inactive3 : State := { hosted with prog := { hosted.prog with active := [(0, 3)] } }

theorem test_ProgramCommands_0 :
    ∃ (c : NvmeCmd) (s : State) (u : State) (n : Nat), FetchedAdmin c s u ∧ u.cpOf c.fn = some c.nsid ∧ isSlot (bits c.cdw10 15 0) = true ∧
        u.progActive c.fn (bits c.cdw10 15 0) = false ∧ bit c.cdw10 24 = false ∧ n = c.cdw12.toNat ∧ n % 4 = 0 ∧ c.cdw13.toNat % 4 = 0 ∧
        c.cdw13.toNat + n ≤ 294912 ∧ ptrBad c.dptr n = none ∧ c.xfer = true ∧ u.xferOk = (true, u) :=
  ⟨{ adm 0x85 4 16 0 64 with data := List.replicate 64 0 }, hosted, got ({ adm 0x85 4 16 0 64 with data := List.replicate 64 0 }) (hosted), 64,
      fetchedAdmin_of (by decide +kernel) (by decide +kernel), rfl, by decide +kernel, by decide +kernel, by decide +kernel, rfl, by decide +kernel,
      by decide +kernel, by decide +kernel, by decide +kernel, rfl, rfl⟩

theorem test_ProgramCommands_1 :
    ∃ (c : NvmeCmd) (s : State) (u : State) (i : Nat), FetchedAdmin c s u ∧ u.cpOf c.fn = some c.nsid ∧ i = bits c.cdw10 15 0 ∧ bits c.cdw10 19 16 = 1 ∧
        u.progActive c.fn i = false ∧ ((isBuiltin i = true ∨ isSlot i = true ∧ ∃ m, u.slotImage c.fn i = some m ∧ kcoValid m = true)) :=
  ⟨adm 0x88 4 0x00010003 0 0, inactive3, got (adm 0x88 4 0x00010003 0 0) (inactive3), 3, fetchedAdmin_of (by decide +kernel) (by decide +kernel), rfl,
      by decide +kernel, by decide +kernel, by decide +kernel, Or.inl (by decide +kernel)⟩

theorem test_ProgramCommands_2 :
    ∃ (c : NvmeCmd) (s : State) (u : State) (i : Nat), FetchedAdmin c s u ∧ u.cpOf c.fn = some c.nsid ∧ i = bits c.cdw10 15 0 ∧ bits c.cdw10 19 16 = 0 ∧
        (isBuiltin i || isSlot i) = true :=
  ⟨adm 0x88 4 0x00000003 0 0, hosted, got (adm 0x88 4 0x00000003 0 0) (hosted), 3, fetchedAdmin_of (by decide +kernel) (by decide +kernel), rfl,
      by decide +kernel⟩

theorem test_ProgramCommands_3 :
    ∃ (c : NvmeCmd) (s : State) (u : State) (i : Nat) (n : Nat), FetchedAdmin c s u ∧ u.cpOf c.fn = some c.nsid ∧ bits c.cdw10 3 0 = 0 ∧
        i = bits c.cdw10 31 16 ∧ 1 ≤ i ∧ i ≤ 32 ∧ n = bits c.cdw11 7 0 ∧ 1 ≤ n ∧ n ≤ 16 ∧ ptrBad c.dptr (32 * n) = none ∧ c.xfer = true ∧
        u.xferOk = (true, u) ∧ ((List.range n).all fun k => u.okDesc c.fn (sub c.data (32 * k) 32)) = true :=
  ⟨{ adm 0x89 4 0x00010000 1 0 with data := [0, 0, 0, 0, 3, 0, 0, 0, 0, 0, 0, 0, 0, 0, 0, 0, 64, 0, 0, 0, 0, 0, 0, 0, 0, 0, 0, 0, 0, 0, 0, 0] }, hosted,
      got ({ adm 0x89 4 0x00010000 1 0 with data := [0, 0, 0, 0, 3, 0, 0, 0, 0, 0, 0, 0, 0, 0, 0, 0, 64, 0, 0, 0, 0, 0, 0, 0, 0, 0, 0, 0, 0, 0, 0, 0] }) (hosted),
      1, 1, fetchedAdmin_of (by decide +kernel) (by decide +kernel), rfl, by decide +kernel, by decide +kernel, by decide +kernel, by decide +kernel,
      by decide +kernel, by decide +kernel, by decide +kernel, by decide +kernel, rfl, rfl, by decide +kernel⟩

theorem test_VirtualFunctionCommands_0 :
    ∃ (c : NvmeCmd) (s : State) (u : State) (f : Fun), FetchedAdmin c s u ∧ c.fused = false ∧ c.fn = 0 ∧ bits c.cdw10 3 0 = 7 ∧
        bits c.cdw10 31 16 = f.val ∧ f ≠ 0 ∧ u.fnExists f.val = true ∧ bit (u.ctrl f).cc 0 = false ∧ (u.ctrl f).resetting = false ∧
        u.host.ctrls.length = 16 :=
  ⟨adm 0x1C 0 0x00010007 0 0, virt, got (adm 0x1C 0 0x00010007 0 0) (virt), 1, fetchedAdmin_of (by decide +kernel) (by decide +kernel), rfl, rfl,
      by decide +kernel, rfl, by decide +kernel, by decide +kernel, by decide +kernel, by decide +kernel, rfl⟩

theorem test_VirtualFunctionCommands_1 :
    ∃ (c : NvmeCmd) (s : State) (u : State) (f : Fun) (n : Nat), FetchedAdmin c s u ∧ c.fused = false ∧ c.fn = 0 ∧ bits c.cdw10 3 0 = 8 ∧
        bits c.cdw10 31 16 = f.val ∧ f ≠ 0 ∧ u.fnExists f.val = true ∧ bits c.cdw10 10 8 = 0 ∧ (u.vf f.val).online = false ∧ bits c.cdw11 15 0 = n ∧
        n ≤ 127 ∧ n < (u.ctrl 0).pool.length + (u.ctrl f).pool.length ∧ (∀ q ∈ (u.ctrl 0).sqs,
        q.qid ≤ (u.ctrl 0).pool.length - (n - (u.ctrl f).pool.length)) ∧ (∀ q ∈ (u.ctrl 0).cqs,
        q.qid ≤ (u.ctrl 0).pool.length - (n - (u.ctrl f).pool.length)) ∧ (u.ctrl 0).pool ≠ [] :=
  ⟨adm 0x1C 0 0x00020008 4 0, virt, got (adm 0x1C 0 0x00020008 4 0) (virt), 2, 4, fetchedAdmin_of (by decide +kernel) (by decide +kernel), rfl, rfl,
      by decide +kernel, rfl, by decide +kernel, by decide +kernel, by decide +kernel, by decide +kernel, rfl, by decide +kernel⟩

theorem test_VirtualFunctionCommands_2 :
    ∃ (c : NvmeCmd) (s : State) (u : State) (f : Fun), FetchedAdmin c s u ∧ c.fused = false ∧ c.fn = 0 ∧ bits c.cdw10 3 0 = 9 ∧
        bits c.cdw10 31 16 = f.val ∧ f ≠ 0 ∧ u.fnExists f.val = true ∧ (u.ctrl f).pool.isEmpty = false :=
  ⟨adm 0x1C 0 0x00010009 0 0, virt, got (adm 0x1C 0 0x00010009 0 0) (virt), 1, fetchedAdmin_of (by decide +kernel) (by decide +kernel), rfl, rfl,
      by decide +kernel, rfl, by decide +kernel⟩

theorem test_VirtualFunctionCommands_3 :
    ∃ (s : State) (m : Master) (v : Word) (d : RegDef), Accepts s m 0x018 0x80 v noCond d :=
  ⟨virt, .pf, 1, regAt 0x018 0x80, accepts_of (by decide +kernel)⟩

theorem test_VirtualFunctionCommands_4 :
    ∃ (s : State) (m : Master) (v : Word) (d : RegDef), Accepts s m 0x018 0xA4 (setBit v 0 true) (shareCond m 0xA4 (setBit v 0 true)) d ∧
        (s.arrive m).fnExists (s.arrive m).vfmSel.val = true ∧ (((s.arrive m).vfmSel = 0 ∨ ((s.arrive m).vf (s.arrive m).vfmSel.val).online = false)) ∧
        (s.arrive m).shareConflict (s.arrive m).vfmSel (s.arrive m).staged = false ∧
        (s.arrive m).slmHeld (s.arrive m).vfmSel ≤ (s.arrive m).staged.slm * 2 ^ 26 :=
  ⟨{ virt with host := { virt.host with nss := [] } }, .pf, 0, regAt 0x018 0xA4, accepts_of (by decide +kernel), by decide +kernel⟩

theorem test_VirtualFunctionCommands_5 :
    ∃ (s : State) (fn : Fun) (v : Word) (d : RegDef), Accepts s (.vf fn) (vmbPage fn.val) 0x180 (setBit v 0 true) noCond d ∧
        ((s.arrive (.vf fn)).vf fn.val).upFull = false ∧ boxOk ((s.arrive (.vf fn)).vmbOut fn.val) = true ∧ bit v 1 = false :=
  ⟨virt.setReg 0x1010100 3, 1, 0, regAt (vmbPage 1) 0x180, accepts_of (by decide +kernel), by decide +kernel⟩

theorem test_VirtualFunctionCommands_6 :
    ∃ (s : State) (fn : Fun) (v : Word) (d : RegDef), s.vfmSel = fn ∧ (s.arrive .pf).vfmSel = fn ∧ fn ≠ 0 ∧ (s.arrive .pf).fnExists fn.val = true ∧
        Accepts s .pf 0x018 0x180 (setBit v 1 true) noCond d ∧ ((s.arrive .pf).vf fn.val).upFull = true ∧ bit v 0 = false :=
  ⟨virtSel.modVf 1 fun v => { v with upFull := true }, 1, 0, regAt 0x018 0x180, rfl, rfl, by decide +kernel, by decide +kernel,
      accepts_of (by decide +kernel), by decide +kernel⟩

theorem test_VirtualFunctionCommands_7 :
    ∃ (s : State) (m : Master) (v : Word) (d : RegDef), Accepts s m 0x018 0xC0 (setBits v 1 0 1) (dpCond m 0xC0 (setBits v 1 0 1)) d :=
  ⟨virtSel, .pf, 0, regAt 0x018 0xC0, accepts_of (by decide +kernel)⟩

theorem test_VirtualFunctionCommands_8 :
    ∃ (s : State) (m : Master) (v : Word) (d : RegDef), Accepts s m 0x018 0xC0 (setBit v 1 true) (dpCond m 0xC0 (setBit v 1 true)) d :=
  ⟨virtSel.modVf 1 fun v => { v with dirty := { v.dirty with enable := true } }, .pf, 0, regAt 0x018 0xC0, accepts_of (by decide +kernel)⟩

theorem test_VirtualFunctionCommands_9 :
    ∃ (s : State) (fn : Fun), (s.dirtyOf fn.val).busy = true :=
  ⟨virt.modVf 1 fun v => { v with dirty := { v.dirty with busy := true } }, 1, by decide +kernel⟩

theorem test_VirtualFunctionCommands_10 :
    ∃ (s : State) (fn : Fun), (s.vfm.zeroing.any fun z => z.1 == fn.val) = true :=
  ⟨{ virt with vfm := { virt.vfm with zeroing := [(1, 2)] } }, 1, by decide +kernel⟩

theorem test_VirtualFunctionCommands_11 :
    ∃ (s : State) (fn : Fun), fn ≠ 0 ∧ s.fnExists fn.val = true ∧ s.host.link.up = true ∧ s.pageOn 0x010 = true ∧ (s.vf fn.val).flr = false :=
  ⟨virt, 1, by decide +kernel, by decide +kernel, rfl, by decide +kernel⟩

theorem test_VirtualFunctionCommands_12 :
    ∃ (s : State) (fn : Fun), (s.vf fn.val).flr = true :=
  ⟨virt.modVf 1 fun v => { v with flr := true }, 1, by decide +kernel⟩

theorem test_VirtualFunctionCommands_13 :
    ∃ (s : State), s.pageOn 0x010 = true :=
  ⟨virt, by decide +kernel⟩

theorem test_VirtualFunctionCommands_14 :
    ∃ (s : State), s.host.link.vfEn = false ∧ s.host.link.up = true ∧ s.pageOn 0x010 = true :=
  ⟨hosted, rfl, rfl, by decide +kernel⟩

theorem test_VirtualFunctionCommands_15 :
    ∃ (s : State), s.host.link.up = true ∧ s.pageOn 0x010 = true ∧ (s.ctrl 0).resetting = false :=
  ⟨virt, rfl, by decide +kernel⟩

theorem test_LinkCommands_0 :
    ∃ (s : State) (speed : Nat) (width : Nat), s.host.link.up = false ∧ s.host.link.perst = false ∧ ((s.start.phase = .evReady ∨ s.start.phase = .full)) ∧
        s.pageOn 0x010 = true ∧ 1 ≤ speed ∧ speed ≤ 5 ∧ ((width = 1 ∨ width = 2 ∨ width = 4)) :=
  ⟨{ hosted with host := { hosted.host with link := { hosted.host.link with up := false } } }, 4, 2, rfl, rfl, by decide +kernel⟩

theorem test_LinkCommands_2 :
    ∃ (s : State) (pm : Nat), s.host.link.up = true ∧ 1 ≤ pm ∧ pm ≤ 3 :=
  ⟨hosted, 3, rfl, by decide +kernel⟩

theorem test_LinkCommands_3 :
    ∃ (s : State), s.host.link.up = true ∧ s.host.link.pm ≠ 0 ∧ s.field? PWR_STAT 2 0 < 2 :=
  ⟨hosted.modLink fun l => { l with pm := 1 }, rfl, by decide +kernel⟩

theorem test_LinkCommands_4 :
    ∃ (s : State) (v : Word), s.host.link.up = true ∧ ((bits v 1 0 = 0 ∨ bits v 1 0 = 3)) ∧ s.field? PWR_STAT 2 0 < 2 :=
  ⟨hosted, 3, rfl, by decide +kernel⟩

theorem test_LinkCommands_5 :
    ∃ (s : State), s.host.link.perst = false :=
  ⟨hosted, rfl⟩

theorem test_LinkCommands_6 :
    ∃ (s : State), s.host.link.perst = true :=
  ⟨awake, rfl⟩

theorem test_LinkCommands_7 :
    ∃ (s : State), s.host.link.up = true :=
  ⟨hosted, rfl⟩

theorem test_LinkCommands_8 :
    ∃ (s : State) (m : Master) (v : Word) (d : RegDef), Accepts s m 0x003 0x84 (setBit v 1 true) (rstCtrlCond m (setBit v 1 true)) d ∧ bit v 0 = false :=
  ⟨hosted, .warden, 0, regAt 0x003 0x84, accepts_of (by decide +kernel), by decide +kernel⟩

theorem test_LinkCommands_9 :
    ∃ (s : State) (m : Master) (v : Word) (d : RegDef), Accepts s m 0x003 0x84 (setBit v 0 true) (rstCtrlCond m (setBit v 0 true)) d ∧ bit v 1 = false ∧
        (s.arrive m).mainOn = true :=
  ⟨hosted, .warden, 0, regAt 0x003 0x84, accepts_of (by decide +kernel), by decide +kernel⟩
end G06

/-! ## Witnesses: Memory and control of the cells -/

namespace G07a

theorem test_CellArithmetic_0 :
    ∃ (i : Iss) (rd : BitVec 4) (rs : BitVec 4) (s : State) (u : State) (a : TWord) (b : TWord), Issues s i (opWord 0x1 0 rd rs) u ∧ Affords s i 1 ∧
        (u.cell i.cell).reg rd = a ∧ (u.cell i.cell).reg rs = b ∧ ((isNum a.tag = true ∧ b.tag = a.tag ∨ a.tag = tTime ∧ b.tag = tInt ∨ a.tag = tInt ∧
        b.tag = tTime)) :=
  ⟨i0, 0, 1, celled (opWord 0x1 0 0 1) (regs01 ⟨8, 5⟩ ⟨1, 7⟩), into (celled (opWord 0x1 0 0 1) (regs01 ⟨8, 5⟩ ⟨1, 7⟩)) i0 (opWord 0x1 0 0 1), ⟨8, 5⟩,
      ⟨1, 7⟩, issues_of (by decide +kernel) (by decide +kernel), fun h => absurd h (by decide +kernel), rfl, rfl, by decide +kernel⟩

theorem test_CellArithmetic_1 :
    ∃ (i : Iss) (rd : BitVec 4) (rs : BitVec 4) (s : State) (u : State) (a : TWord) (b : TWord), Issues s i (opWord 0x1 1 rd rs) u ∧ Affords s i 1 ∧
        (u.cell i.cell).reg rd = a ∧ (u.cell i.cell).reg rs = b ∧ ((isNum a.tag = true ∧ b.tag = a.tag ∨ a.tag = tTime ∧ b.tag = tInt ∨ a.tag = tTime ∧
        b.tag = tTime)) :=
  ⟨i0, 0, 1, celled (opWord 0x1 1 0 1) (regs01 ⟨8, 5⟩ ⟨8, 7⟩), into (celled (opWord 0x1 1 0 1) (regs01 ⟨8, 5⟩ ⟨8, 7⟩)) i0 (opWord 0x1 1 0 1), ⟨8, 5⟩,
      ⟨8, 7⟩, issues_of (by decide +kernel) (by decide +kernel), fun h => absurd h (by decide +kernel), rfl, rfl, by decide +kernel⟩

theorem test_CellArithmetic_2 :
    ∃ (i : Iss) (rd : BitVec 4) (rs : BitVec 4) (s : State) (u : State) (a : TWord) (b : TWord), Issues s i (opWord 0x1 2 rd rs) u ∧ Affords s i 1 ∧
        (u.cell i.cell).reg rd = a ∧ (u.cell i.cell).reg rs = b ∧ (isLogic a.tag = true ∧ b.tag = a.tag) :=
  ⟨i0, 0, 1, celled (opWord 0x1 2 0 1) (regs01 ⟨4, 0xF0⟩ ⟨4, 0xF0⟩), into (celled (opWord 0x1 2 0 1) (regs01 ⟨4, 0xF0⟩ ⟨4,
      0xF0⟩)) i0 (opWord 0x1 2 0 1), ⟨4, 0xF0⟩, ⟨4, 0xF0⟩, issues_of (by decide +kernel) (by decide +kernel), fun h => absurd h (by decide +kernel),
      rfl, rfl, by decide +kernel⟩

theorem test_CellArithmetic_3 :
    ∃ (i : Iss) (rd : BitVec 4) (rs : BitVec 4) (s : State) (u : State) (a : TWord) (b : TWord), Issues s i (opWord 0x1 3 rd rs) u ∧ Affords s i 1 ∧
        (u.cell i.cell).reg rd = a ∧ (u.cell i.cell).reg rs = b ∧ (isLogic a.tag = true ∧ b.tag = a.tag) :=
  ⟨i0, 0, 1, celled (opWord 0x1 3 0 1) (regs01 ⟨2, 5⟩ ⟨2, 7⟩), into (celled (opWord 0x1 3 0 1) (regs01 ⟨2, 5⟩ ⟨2, 7⟩)) i0 (opWord 0x1 3 0 1), ⟨2, 5⟩,
      ⟨2, 7⟩, issues_of (by decide +kernel) (by decide +kernel), fun h => absurd h (by decide +kernel), rfl, rfl, by decide +kernel⟩

theorem test_CellArithmetic_4 :
    ∃ (i : Iss) (rd : BitVec 4) (rs : BitVec 4) (s : State) (u : State) (a : TWord) (b : TWord), Issues s i (opWord 0x2 0 rd rs) u ∧ Affords s i 1 ∧
        (u.cell i.cell).reg rd = a ∧ (u.cell i.cell).reg rs = b ∧ (isLogic a.tag = true ∧ b.tag = a.tag) :=
  ⟨i0, 0, 1, celled (opWord 0x2 0 0 1) (regs01 ⟨2, 5⟩ ⟨2, 7⟩), into (celled (opWord 0x2 0 0 1) (regs01 ⟨2, 5⟩ ⟨2, 7⟩)) i0 (opWord 0x2 0 0 1), ⟨2, 5⟩,
      ⟨2, 7⟩, issues_of (by decide +kernel) (by decide +kernel), fun h => absurd h (by decide +kernel), rfl, rfl, by decide +kernel⟩

theorem test_CellArithmetic_5 :
    ∃ (i : Iss) (rd : BitVec 4) (rs : BitVec 4) (s : State) (u : State) (a : TWord) (b : TWord), Issues s i (opWord 0x2 1 rd rs) u ∧ Affords s i 1 ∧
        (u.cell i.cell).reg rd = a ∧ (u.cell i.cell).reg rs = b ∧ (isNum a.tag = true ∧ isIdx b.tag = true) :=
  ⟨i0, 0, 1, celled (opWord 0x2 1 0 1) (regs01 ⟨2, 5⟩ ⟨1, 33⟩), into (celled (opWord 0x2 1 0 1) (regs01 ⟨2, 5⟩ ⟨1, 33⟩)) i0 (opWord 0x2 1 0 1), ⟨2, 5⟩,
      ⟨1, 33⟩, issues_of (by decide +kernel) (by decide +kernel), fun h => absurd h (by decide +kernel), rfl, rfl, by decide +kernel⟩

theorem test_CellArithmetic_6 :
    ∃ (i : Iss) (rd : BitVec 4) (rs : BitVec 4) (s : State) (u : State) (a : TWord) (b : TWord), Issues s i (opWord 0x2 2 rd rs) u ∧ Affords s i 1 ∧
        (u.cell i.cell).reg rd = a ∧ (u.cell i.cell).reg rs = b ∧ (isNum a.tag = true ∧ isIdx b.tag = true) :=
  ⟨i0, 0, 1, celled (opWord 0x2 2 0 1) (regs01 ⟨1, 5⟩ ⟨2, 7⟩), into (celled (opWord 0x2 2 0 1) (regs01 ⟨1, 5⟩ ⟨2, 7⟩)) i0 (opWord 0x2 2 0 1), ⟨1, 5⟩,
      ⟨2, 7⟩, issues_of (by decide +kernel) (by decide +kernel), fun h => absurd h (by decide +kernel), rfl, rfl, by decide +kernel⟩

theorem test_CellArithmetic_7 :
    ∃ (i : Iss) (rd : BitVec 4) (rs : BitVec 4) (s : State) (u : State) (a : TWord) (b : TWord), Issues s i (opWord 0x2 3 rd rs) u ∧ Affords s i 1 ∧
        (u.cell i.cell).reg rd = a ∧ (u.cell i.cell).reg rs = b ∧ (isNum a.tag = true ∧ isIdx b.tag = true) :=
  ⟨i0, 0, 1, celled (opWord 0x2 3 0 1) (regs01 ⟨1, 0x80000000⟩ ⟨2, 5⟩), into (celled (opWord 0x2 3 0 1) (regs01 ⟨1, 0x80000000⟩ ⟨2,
      5⟩)) i0 (opWord 0x2 3 0 1), ⟨1, 0x80000000⟩, ⟨2, 5⟩, issues_of (by decide +kernel) (by decide +kernel), fun h => absurd h (by decide +kernel),
      rfl, rfl, by decide +kernel⟩

theorem test_CellArithmetic_8 :
    ∃ (i : Iss) (rd : BitVec 4) (rs : BitVec 4) (s : State) (u : State) (a : TWord) (b : TWord), Issues s i (opWord 0x3 0 rd rs) u ∧ Affords s i 1 ∧
        (u.cell i.cell).reg rd = a ∧ (u.cell i.cell).reg rs = b ∧ (isNum a.tag = true ∧ b.tag = a.tag) ∧ (clampTo a.tag (intOf a + intOf b)).2 = false :=
  ⟨i0, 0, 1, celled (opWord 0x3 0 0 1) (regs01 ⟨1, 5⟩ ⟨1, 7⟩), into (celled (opWord 0x3 0 0 1) (regs01 ⟨1, 5⟩ ⟨1, 7⟩)) i0 (opWord 0x3 0 0 1), ⟨1, 5⟩,
      ⟨1, 7⟩, issues_of (by decide +kernel) (by decide +kernel), fun h => absurd h (by decide +kernel), rfl, rfl, by decide +kernel⟩

theorem test_CellArithmetic_9 :
    ∃ (i : Iss) (rd : BitVec 4) (rs : BitVec 4) (s : State) (u : State) (a : TWord) (b : TWord), Issues s i (opWord 0x3 0 rd rs) u ∧ Affords s i 1 ∧
        (u.cell i.cell).reg rd = a ∧ (u.cell i.cell).reg rs = b ∧ (isNum a.tag = true ∧ b.tag = a.tag) ∧ (clampTo a.tag (intOf a + intOf b)).2 = true :=
  ⟨i0, 0, 1, celled (opWord 0x3 0 0 1) (regs01 ⟨1, 0x7FFFFFFF⟩ ⟨1, 7⟩), into (celled (opWord 0x3 0 0 1) (regs01 ⟨1, 0x7FFFFFFF⟩ ⟨1,
      7⟩)) i0 (opWord 0x3 0 0 1), ⟨1, 0x7FFFFFFF⟩, ⟨1, 7⟩, issues_of (by decide +kernel) (by decide +kernel), fun h => absurd h (by decide +kernel),
      rfl, rfl, by decide +kernel⟩

theorem test_CellArithmetic_10 :
    ∃ (i : Iss) (rd : BitVec 4) (rs : BitVec 4) (s : State) (u : State) (a : TWord) (b : TWord), Issues s i (opWord 0x3 1 rd rs) u ∧ Affords s i 1 ∧
        (u.cell i.cell).reg rd = a ∧ (u.cell i.cell).reg rs = b ∧ (isNum a.tag = true ∧ b.tag = a.tag) ∧ (clampTo a.tag (intOf a - intOf b)).2 = false :=
  ⟨i0, 0, 1, celled (opWord 0x3 1 0 1) (regs01 ⟨1, 5⟩ ⟨1, 7⟩), into (celled (opWord 0x3 1 0 1) (regs01 ⟨1, 5⟩ ⟨1, 7⟩)) i0 (opWord 0x3 1 0 1), ⟨1, 5⟩,
      ⟨1, 7⟩, issues_of (by decide +kernel) (by decide +kernel), fun h => absurd h (by decide +kernel), rfl, rfl, by decide +kernel⟩

theorem test_CellArithmetic_11 :
    ∃ (i : Iss) (rd : BitVec 4) (rs : BitVec 4) (s : State) (u : State) (a : TWord) (b : TWord), Issues s i (opWord 0x3 1 rd rs) u ∧ Affords s i 1 ∧
        (u.cell i.cell).reg rd = a ∧ (u.cell i.cell).reg rs = b ∧ (isNum a.tag = true ∧ b.tag = a.tag) ∧ (clampTo a.tag (intOf a - intOf b)).2 = true :=
  ⟨i0, 0, 1, celled (opWord 0x3 1 0 1) (regs01 ⟨1, 0x80000000⟩ ⟨1, 7⟩), into (celled (opWord 0x3 1 0 1) (regs01 ⟨1, 0x80000000⟩ ⟨1,
      7⟩)) i0 (opWord 0x3 1 0 1), ⟨1, 0x80000000⟩, ⟨1, 7⟩, issues_of (by decide +kernel) (by decide +kernel), fun h => absurd h (by decide +kernel),
      rfl, rfl, by decide +kernel⟩

theorem test_CellArithmetic_12 :
    ∃ (i : Iss) (rd : BitVec 4) (rs : BitVec 4) (s : State) (u : State) (a : TWord) (b : TWord), Issues s i (opWord 0x3 2 rd rs) u ∧ Affords s i 1 ∧
        (u.cell i.cell).reg rd = a ∧ (u.cell i.cell).reg rs = b ∧ (isNum a.tag = true ∧ b.tag = a.tag) :=
  ⟨i0, 0, 1, celled (opWord 0x3 2 0 1) (regs01 ⟨1, 5⟩ ⟨1, 7⟩), into (celled (opWord 0x3 2 0 1) (regs01 ⟨1, 5⟩ ⟨1, 7⟩)) i0 (opWord 0x3 2 0 1), ⟨1, 5⟩,
      ⟨1, 7⟩, issues_of (by decide +kernel) (by decide +kernel), fun h => absurd h (by decide +kernel), rfl, rfl, by decide +kernel⟩

theorem test_CellArithmetic_13 :
    ∃ (i : Iss) (rd : BitVec 4) (rs : BitVec 4) (s : State) (u : State) (a : TWord) (b : TWord), Issues s i (opWord 0x3 3 rd rs) u ∧ Affords s i 1 ∧
        (u.cell i.cell).reg rd = a ∧ (u.cell i.cell).reg rs = b ∧ ((isNum a.tag = true ∨ a.tag = tBytes ∨ a.tag = tPtr ∨ a.tag = tTime) ∧
        b.tag = a.tag) :=
  ⟨i0, 0, 1, celled (opWord 0x3 3 0 1) (regs01 ⟨6, 5⟩ ⟨6, 7⟩), into (celled (opWord 0x3 3 0 1) (regs01 ⟨6, 5⟩ ⟨6, 7⟩)) i0 (opWord 0x3 3 0 1), ⟨6, 5⟩,
      ⟨6, 7⟩, issues_of (by decide +kernel) (by decide +kernel), fun h => absurd h (by decide +kernel), rfl, rfl, by decide +kernel⟩

theorem test_CellImmediatesAndMoves_0 :
    ∃ (i : Iss) (rd : BitVec 4) (im : BitVec 4) (s : State) (u : State) (a : TWord), Issues s i (opWord 0x6 0 rd im) u ∧ Affords s i 1 ∧
        (u.cell i.cell).reg rd = a ∧ ((isNum a.tag = true ∨ a.tag = tTime)) :=
  ⟨i0, 0, 15, celled (opWord 0x6 0 0 15) (regs01 ⟨8, 5⟩ ⟨2, 7⟩), into (celled (opWord 0x6 0 0 15) (regs01 ⟨8, 5⟩ ⟨2, 7⟩)) i0 (opWord 0x6 0 0 15), ⟨8,
      5⟩, issues_of (by decide +kernel) (by decide +kernel), fun h => absurd h (by decide +kernel), rfl, by decide +kernel⟩

theorem test_CellImmediatesAndMoves_1 :
    ∃ (i : Iss) (rd : BitVec 4) (im : BitVec 4) (s : State) (u : State) (a : TWord), Issues s i (opWord 0x6 1 rd im) u ∧ Affords s i 1 ∧
        (u.cell i.cell).reg rd = a ∧ ((isNum a.tag = true ∨ a.tag = tBytes ∨ a.tag = tTime)) :=
  ⟨i0, 0, 15, celled (opWord 0x6 1 0 15) (regs01 ⟨4, 0xF0⟩ ⟨2, 7⟩), into (celled (opWord 0x6 1 0 15) (regs01 ⟨4, 0xF0⟩ ⟨2, 7⟩)) i0 (opWord 0x6 1 0 15),
      ⟨4, 0xF0⟩, issues_of (by decide +kernel) (by decide +kernel), fun h => absurd h (by decide +kernel), rfl, by decide +kernel⟩

theorem test_CellImmediatesAndMoves_2 :
    ∃ (i : Iss) (rd : BitVec 4) (im : BitVec 4) (s : State) (u : State) (a : TWord), Issues s i (opWord 0x6 2 rd im) u ∧ Affords s i 1 ∧
        (u.cell i.cell).reg rd = a ∧ ((isNum a.tag = true ∨ a.tag = tBytes)) :=
  ⟨i0, 0, 15, celled (opWord 0x6 2 0 15) (regs01 ⟨4, 0xF0⟩ ⟨2, 7⟩), into (celled (opWord 0x6 2 0 15) (regs01 ⟨4, 0xF0⟩ ⟨2, 7⟩)) i0 (opWord 0x6 2 0 15),
      ⟨4, 0xF0⟩, issues_of (by decide +kernel) (by decide +kernel), fun h => absurd h (by decide +kernel), rfl, by decide +kernel⟩

theorem test_CellImmediatesAndMoves_3 :
    ∃ (i : Iss) (rd : BitVec 4) (im : BitVec 4) (s : State) (u : State) (a : TWord), Issues s i (opWord 0x6 3 rd im) u ∧ Affords s i 1 ∧
        (u.cell i.cell).reg rd = a ∧ ((isNum a.tag = true ∨ a.tag = tBytes)) :=
  ⟨i0, 0, 15, celled (opWord 0x6 3 0 15) (regs01 ⟨2, 5⟩ ⟨2, 7⟩), into (celled (opWord 0x6 3 0 15) (regs01 ⟨2, 5⟩ ⟨2, 7⟩)) i0 (opWord 0x6 3 0 15), ⟨2,
      5⟩, issues_of (by decide +kernel) (by decide +kernel), fun h => absurd h (by decide +kernel), rfl, by decide +kernel⟩

theorem test_CellImmediatesAndMoves_4 :
    ∃ (i : Iss) (tg : BitVec 2) (rd : BitVec 4) (im : BitVec 4) (s : State) (u : State), Issues s i (opWord 0x5 tg rd im) u ∧ Affords s i 1 :=
  ⟨i0, 1, 0, 15, celled (opWord 0x5 1 0 15) (regs01 ⟨2, 5⟩ ⟨2, 7⟩), into (celled (opWord 0x5 1 0 15) (regs01 ⟨2, 5⟩ ⟨2, 7⟩)) i0 (opWord 0x5 1 0 15),
      issues_of (by decide +kernel) (by decide +kernel), fun h => absurd h (by decide +kernel)⟩

theorem test_CellImmediatesAndMoves_5 :
    ∃ (i : Iss) (rd : BitVec 4) (rs : BitVec 4) (s : State) (u : State) (a : TWord), Issues s i (opWord 0x4 0 rd rs) u ∧ Affords s i 1 ∧
        (u.cell i.cell).reg rs = a ∧ a.tag ≠ tPoison ∧ ((a.tag = tRetadr → pmode (u.cell i.cell) = false)) :=
  ⟨i0, 0, 1, celled (opWord 0x4 0 0 1) (regs01 ⟨2, 5⟩ ⟨10, 7⟩), into (celled (opWord 0x4 0 0 1) (regs01 ⟨2, 5⟩ ⟨10, 7⟩)) i0 (opWord 0x4 0 0 1), ⟨10, 7⟩,
      issues_of (by decide +kernel) (by decide +kernel), fun h => absurd h (by decide +kernel), rfl, by decide +kernel⟩

theorem test_CellImmediatesAndMoves_6 :
    ∃ (i : Iss) (rd : BitVec 4) (rs : BitVec 4) (s : State) (u : State) (a : TWord) (b : TWord), Issues s i (opWord 0x4 1 rd rs) u ∧ Affords s i 1 ∧
        (u.cell i.cell).reg rd = a ∧ (u.cell i.cell).reg rs = b ∧ (a.tag = tPtr ∧ isIdx b.tag = true) ∧
        ptrBase a.val + bits b.val 15 0 + bits b.val 31 16 ≤ ptrLimit a.val :=
  ⟨i0, 0, 1, celled (opWord 0x4 1 0 1) (regs01 ⟨6, 0x00400010⟩ ⟨2, 0x00080004⟩), into (celled (opWord 0x4 1 0 1) (regs01 ⟨6, 0x00400010⟩ ⟨2,
      0x00080004⟩)) i0 (opWord 0x4 1 0 1), ⟨6, 0x00400010⟩, ⟨2, 0x00080004⟩, issues_of (by decide +kernel) (by decide +kernel),
      fun h => absurd h (by decide +kernel), rfl, rfl, by decide +kernel⟩

theorem test_CellImmediatesAndMoves_7 :
    ∃ (i : Iss) (rd : BitVec 4) (rs : BitVec 4) (s : State) (u : State) (a : TWord) (b : TWord), Issues s i (opWord 0x4 2 rd rs) u ∧ Affords s i 1 ∧
        (u.cell i.cell).reg rd = a ∧ (u.cell i.cell).reg rs = b ∧ (a.tag = tBytes ∧ b.tag = tBytes) :=
  ⟨i0, 0, 1, celled (opWord 0x4 2 0 1) (regs01 ⟨4, 0xF0⟩ ⟨4, 0xF0⟩), into (celled (opWord 0x4 2 0 1) (regs01 ⟨4, 0xF0⟩ ⟨4,
      0xF0⟩)) i0 (opWord 0x4 2 0 1), ⟨4, 0xF0⟩, ⟨4, 0xF0⟩, issues_of (by decide +kernel) (by decide +kernel), fun h => absurd h (by decide +kernel),
      rfl, rfl, by decide +kernel⟩

theorem test_CellImmediatesAndMoves_8 :
    ∃ (i : Iss) (rd : BitVec 4) (rs : BitVec 4) (s : State) (u : State) (a : TWord) (b : TWord), Issues s i (opWord 0xB 3 rd rs) u ∧ Affords s i 1 ∧
        (u.cell i.cell).reg rd = a ∧ (u.cell i.cell).reg rs = b ∧ (a.tag ≠ tPoison ∧ b.tag = tUns) ∧ retagRsvd b.val a.val = false ∧
        pmode (u.cell i.cell) = false :=
  ⟨i0, 0, 1, celled (opWord 0xB 3 0 1) (regs01 ⟨2, 5⟩ ⟨2, 1⟩), into (celled (opWord 0xB 3 0 1) (regs01 ⟨2, 5⟩ ⟨2, 1⟩)) i0 (opWord 0xB 3 0 1), ⟨2, 5⟩,
      ⟨2, 1⟩, issues_of (by decide +kernel) (by decide +kernel), fun h => absurd h (by decide +kernel), rfl, rfl, by decide +kernel⟩

theorem test_CellImmediatesAndMoves_9 :
    ∃ (i : Iss) (rd : BitVec 4) (sp : BitVec 4) (s : State) (u : State), Issues s i (opWord 0xB 0 rd sp) u ∧ Affords s i 1 :=
  ⟨i0, 0, 5, celled (opWord 0xB 0 0 5) (regs01 ⟨2, 5⟩ ⟨2, 7⟩), into (celled (opWord 0xB 0 0 5) (regs01 ⟨2, 5⟩ ⟨2, 7⟩)) i0 (opWord 0xB 0 0 5),
      issues_of (by decide +kernel) (by decide +kernel), fun h => absurd h (by decide +kernel)⟩

theorem test_CellImmediatesAndMoves_10 :
    ∃ (i : Iss) (sp : BitVec 4) (rs : BitVec 4) (s : State) (u : State) (a : TWord), Issues s i (opWord 0xB 1 sp rs) u ∧ Affords s i 1 ∧
        (u.cell i.cell).reg rs = a ∧ setsPriv i.cell (u.cell i.cell) sp.toNat a = false ∧ ((isIdx a.tag = true ∨ (sp = 4 ∨ sp = 5) ∧ a.tag = tFix)) :=
  ⟨i0, 5, 0, celled (opWord 0xB 1 5 0) (regs01 ⟨2, 5⟩ ⟨2, 7⟩), into (celled (opWord 0xB 1 5 0) (regs01 ⟨2, 5⟩ ⟨2, 7⟩)) i0 (opWord 0xB 1 5 0), ⟨2, 5⟩,
      issues_of (by decide +kernel) (by decide +kernel), fun h => absurd h (by decide +kernel), rfl, by decide +kernel⟩

theorem test_CellRegisterForms_0 :
    ∃ (i : Iss) (s : State) (u : State), Issues s i (sysWord 0x01 0) u ∧ Affords s i 1 :=
  ⟨i0, celled (sysWord 0x01 0) (regs01 ⟨2, 5⟩ ⟨2, 7⟩), into (celled (sysWord 0x01 0) (regs01 ⟨2, 5⟩ ⟨2, 7⟩)) i0 (sysWord 0x01 0),
      issues_of (by decide +kernel) (by decide +kernel), fun h => absurd h (by decide +kernel)⟩

theorem test_CellRegisterForms_1 :
    ∃ (i : Iss) (r : BitVec 4) (s : State) (u : State), Issues s i (sysWord 0x06 r) u ∧ Affords s i 1 :=
  ⟨i0, 0, celled (sysWord 0x06 0) (regs01 ⟨2, 5⟩ ⟨2, 7⟩), into (celled (sysWord 0x06 0) (regs01 ⟨2, 5⟩ ⟨2, 7⟩)) i0 (sysWord 0x06 0),
      issues_of (by decide +kernel) (by decide +kernel), fun h => absurd h (by decide +kernel)⟩

theorem test_CellRegisterForms_2 :
    ∃ (i : Iss) (r : BitVec 4) (s : State) (u : State), Issues s i (sysWord 0x07 r) u ∧ Affords s i 1 :=
  ⟨i0, 0, celled (sysWord 0x07 0) (regs01 ⟨2, 5⟩ ⟨2, 7⟩), into (celled (sysWord 0x07 0) (regs01 ⟨2, 5⟩ ⟨2, 7⟩)) i0 (sysWord 0x07 0),
      issues_of (by decide +kernel) (by decide +kernel), fun h => absurd h (by decide +kernel)⟩

theorem test_CellRegisterForms_3 :
    ∃ (i : Iss) (r : BitVec 4) (s : State) (u : State) (a : TWord), Issues s i (sysWord 0x0D r) u ∧ Affords s i 1 ∧ (u.cell i.cell).reg r = a ∧
        isOut a.tag = true :=
  ⟨i0, 0, celled (sysWord 0x0D 0) (regs01 ⟨8, 5⟩ ⟨2, 7⟩), into (celled (sysWord 0x0D 0) (regs01 ⟨8, 5⟩ ⟨2, 7⟩)) i0 (sysWord 0x0D 0), ⟨8, 5⟩,
      issues_of (by decide +kernel) (by decide +kernel), fun h => absurd h (by decide +kernel), rfl, by decide +kernel⟩

theorem test_CellRegisterForms_4 :
    ∃ (i : Iss) (r : BitVec 4) (s : State) (u : State) (a : TWord), Issues s i (sysWord 0x0E r) u ∧ Affords s i 1 ∧ (u.cell i.cell).reg r = a ∧
        isLogic a.tag = true :=
  ⟨i0, 0, celled (sysWord 0x0E 0) (regs01 ⟨5, 1⟩ ⟨2, 7⟩), into (celled (sysWord 0x0E 0) (regs01 ⟨5, 1⟩ ⟨2, 7⟩)) i0 (sysWord 0x0E 0), ⟨5, 1⟩,
      issues_of (by decide +kernel) (by decide +kernel), fun h => absurd h (by decide +kernel), rfl, by decide +kernel⟩

theorem test_CellRegisterForms_5 :
    ∃ (i : Iss) (r : BitVec 4) (s : State) (u : State) (a : TWord), Issues s i (sysWord 0x0F r) u ∧ Affords s i 1 ∧ (u.cell i.cell).reg r = a ∧
        ((a.tag = tInt ∨ a.tag = tFix)) :=
  ⟨i0, 0, celled (sysWord 0x0F 0) (regs01 ⟨1, 0x80000000⟩ ⟨2, 7⟩), into (celled (sysWord 0x0F 0) (regs01 ⟨1, 0x80000000⟩ ⟨2, 7⟩)) i0 (sysWord 0x0F 0),
      ⟨1, 0x80000000⟩, issues_of (by decide +kernel) (by decide +kernel), fun h => absurd h (by decide +kernel), rfl, by decide +kernel⟩

theorem test_CellRegisterForms_6 :
    ∃ (i : Iss) (r : BitVec 4) (s : State) (u : State) (a : TWord), Issues s i (sysWord 0x10 r) u ∧ Affords s i 1 ∧ (u.cell i.cell).reg r = a ∧
        isLogic a.tag = true :=
  ⟨i0, 0, celled (sysWord 0x10 0) (regs01 ⟨2, 5⟩ ⟨2, 7⟩), into (celled (sysWord 0x10 0) (regs01 ⟨2, 5⟩ ⟨2, 7⟩)) i0 (sysWord 0x10 0), ⟨2, 5⟩,
      issues_of (by decide +kernel) (by decide +kernel), fun h => absurd h (by decide +kernel), rfl, by decide +kernel⟩

theorem test_CellRegisterForms_7 :
    ∃ (i : Iss) (r : BitVec 4) (s : State) (u : State) (a : TWord), Issues s i (sysWord 0x11 r) u ∧ Affords s i 1 ∧ (u.cell i.cell).reg r = a ∧
        isLogic a.tag = true :=
  ⟨i0, 0, celled (sysWord 0x11 0) (regs01 ⟨1, 5⟩ ⟨2, 7⟩), into (celled (sysWord 0x11 0) (regs01 ⟨1, 5⟩ ⟨2, 7⟩)) i0 (sysWord 0x11 0), ⟨1, 5⟩,
      issues_of (by decide +kernel) (by decide +kernel), fun h => absurd h (by decide +kernel), rfl, by decide +kernel⟩

theorem test_CellRegisterForms_8 :
    ∃ (i : Iss) (r : BitVec 4) (s : State) (u : State) (a : TWord), Issues s i (sysWord 0x12 r) u ∧ Affords s i 1 ∧ (u.cell i.cell).reg r = a ∧
        isLogic a.tag = true :=
  ⟨i0, 0, celled (sysWord 0x12 0) (regs01 ⟨1, 5⟩ ⟨2, 7⟩), into (celled (sysWord 0x12 0) (regs01 ⟨1, 5⟩ ⟨2, 7⟩)) i0 (sysWord 0x12 0), ⟨1, 5⟩,
      issues_of (by decide +kernel) (by decide +kernel), fun h => absurd h (by decide +kernel), rfl, by decide +kernel⟩

theorem test_CellRegisterForms_9 :
    ∃ (i : Iss) (r : BitVec 4) (s : State) (u : State) (a : TWord), Issues s i (sysWord 0x13 r) u ∧ Affords s i 1 ∧ (u.cell i.cell).reg r = a ∧
        isLogic a.tag = true :=
  ⟨i0, 0, celled (sysWord 0x13 0) (regs01 ⟨2, 5⟩ ⟨2, 7⟩), into (celled (sysWord 0x13 0) (regs01 ⟨2, 5⟩ ⟨2, 7⟩)) i0 (sysWord 0x13 0), ⟨2, 5⟩,
      issues_of (by decide +kernel) (by decide +kernel), fun h => absurd h (by decide +kernel), rfl, by decide +kernel⟩

theorem test_CellRegisterForms_10 :
    ∃ (i : Iss) (r : BitVec 4) (s : State) (u : State) (a : TWord), Issues s i (sysWord 0x14 r) u ∧ Affords s i 1 ∧ (u.cell i.cell).reg r = a ∧
        isLogic a.tag = true :=
  ⟨i0, 0, celled (sysWord 0x14 0) (regs01 ⟨1, 5⟩ ⟨2, 7⟩), into (celled (sysWord 0x14 0) (regs01 ⟨1, 5⟩ ⟨2, 7⟩)) i0 (sysWord 0x14 0), ⟨1, 5⟩,
      issues_of (by decide +kernel) (by decide +kernel), fun h => absurd h (by decide +kernel), rfl, by decide +kernel⟩

theorem test_CellRegisterForms_11 :
    ∃ (i : Iss) (r : BitVec 4) (s : State) (u : State) (a : TWord), Issues s i (sysWord 0x15 r) u ∧ Affords s i 1 ∧ (u.cell i.cell).reg r = a ∧
        ((isIdx a.tag = true ∨ a.tag = tBytes)) :=
  ⟨i0, 0, celled (sysWord 0x15 0) (regs01 ⟨4, 0xF0⟩ ⟨2, 7⟩), into (celled (sysWord 0x15 0) (regs01 ⟨4, 0xF0⟩ ⟨2, 7⟩)) i0 (sysWord 0x15 0), ⟨4, 0xF0⟩,
      issues_of (by decide +kernel) (by decide +kernel), fun h => absurd h (by decide +kernel), rfl, by decide +kernel⟩

theorem test_CellRegisterForms_12 :
    ∃ (i : Iss) (r : BitVec 4) (s : State) (u : State) (a : TWord), Issues s i (sysWord 0x16 r) u ∧ Affords s i 1 ∧ (u.cell i.cell).reg r = a ∧
        ((isIdx a.tag = true ∨ a.tag = tBytes)) :=
  ⟨i0, 0, celled (sysWord 0x16 0) (regs01 ⟨2, 5⟩ ⟨2, 7⟩), into (celled (sysWord 0x16 0) (regs01 ⟨2, 5⟩ ⟨2, 7⟩)) i0 (sysWord 0x16 0), ⟨2, 5⟩,
      issues_of (by decide +kernel) (by decide +kernel), fun h => absurd h (by decide +kernel), rfl, by decide +kernel⟩

theorem test_CellRegisterForms_13 :
    ∃ (i : Iss) (r : BitVec 4) (s : State) (u : State) (a : TWord), Issues s i (sysWord 0x17 r) u ∧ Affords s i 1 ∧ (u.cell i.cell).reg r = a ∧
        a.tag = tBytes :=
  ⟨i0, 0, celled (sysWord 0x17 0) (regs01 ⟨4, 0xF0⟩ ⟨2, 7⟩), into (celled (sysWord 0x17 0) (regs01 ⟨4, 0xF0⟩ ⟨2, 7⟩)) i0 (sysWord 0x17 0), ⟨4, 0xF0⟩,
      issues_of (by decide +kernel) (by decide +kernel), fun h => absurd h (by decide +kernel), rfl, rfl⟩

theorem test_CellRegisterForms_14 :
    ∃ (i : Iss) (r : BitVec 4) (s : State) (u : State) (a : TWord), Issues s i (sysWord 0x19 r) u ∧ Affords s i 1 ∧ (u.cell i.cell).reg r = a ∧
        a.tag ≠ tPoison :=
  ⟨i0, 0, celled (sysWord 0x19 0) (regs01 ⟨9, 3⟩ ⟨2, 7⟩), into (celled (sysWord 0x19 0) (regs01 ⟨9, 3⟩ ⟨2, 7⟩)) i0 (sysWord 0x19 0), ⟨9, 3⟩,
      issues_of (by decide +kernel) (by decide +kernel), fun h => absurd h (by decide +kernel), rfl, by decide +kernel⟩

theorem test_CellRegisterForms_15 :
    ∃ (i : Iss) (r : BitVec 4) (c : Fin 15) (s : State) (u : State), Issues s i (sysWord (BitVec.ofNat 6 (0x20 + c.val)) r) u ∧ Affords s i 1 :=
  ⟨i0, 0, 3, celled (sysWord (BitVec.ofNat 6 (0x20 + (3 : Fin 15).val)) 0) (regs01 ⟨2, 5⟩ ⟨2, 7⟩),
      into (celled (sysWord (BitVec.ofNat 6 (0x20 + (3 : Fin 15).val)) 0) (regs01 ⟨2, 5⟩ ⟨2,
      7⟩)) i0 (sysWord (BitVec.ofNat 6 (0x20 + (3 : Fin 15).val)) 0), issues_of (by decide +kernel) (by decide +kernel),
      fun h => absurd h (by decide +kernel)⟩
end G07a

/-! ## Witnesses: Streams and events of the cells -/

namespace G07b

/-- A state for `CellMemoryAndStack` 0. -/
def mem0 : State := celled (majorWord 0x7 ((0 : BitVec 1) ++ (0 : Reg) ++ (5 : BitVec 5))) fun k => { k with dm := [(5, ⟨2, 9⟩)] }

/-- A state for `CellMemoryAndStack` 1. -/
def mem1 : State := celled (majorWord 0x7 ((1 : BitVec 1) ++ (0 : Reg) ++ (5 : BitVec 5))) fun k => regs01 ⟨2, 7⟩ ⟨2, 0⟩ k

/-- A state for `CellMemoryAndStack` 2. -/
def mem2 : State := celled (majorWord 0x8 ((0 : BitVec 1) ++ (0 : Reg) ++ (1 : Reg) ++ bitOf false)) fun k => { k with dm := [(5, ⟨2, 9⟩)], w := [⟨2, 7⟩, ⟨6, 0x00080004⟩] ++ List.replicate 12 .void ++ [⟨2, 1⟩, ⟨2, 2⟩] }

/-- A state for `CellMemoryAndStack` 3. -/
def mem3 : State := celled (majorWord 0x8 ((1 : BitVec 1) ++ (0 : Reg) ++ (1 : Reg) ++ bitOf true)) fun k => { k with dm := [(5, ⟨2, 9⟩)], w := [⟨2, 7⟩, ⟨6, 0x00080004⟩] ++ List.replicate 12 .void ++ [⟨2, 1⟩, ⟨2, 2⟩] }

/-- A state for `CellMemoryAndStack` 4. -/
def mem4 : State := celled (sysWord 0x08 0) fun k => regs01 ⟨2, 7⟩ ⟨2, 0⟩ k

/-- A state for `CellMemoryAndStack` 5. -/
def mem5 : State := celled (sysWord 0x09 0) fun k => { k with dm := [(32766, ⟨2, 9⟩)], sp := { k.sp with sp := 32766 } }

/-- A state for `CellMemoryAndStack` 6. -/
def mem6 : State := celled (sysWord 0x05 0) fun k => { k with dm := [(32766, ⟨10, 9⟩)], sp := { k.sp with sp := 32766 } }

/-- A state for `CellMemoryAndStack` 7. -/
def mem7 : State := celled (majorWord 0xD ((1 : BitVec 1) ++ (100 : BitVec 9))) fun k => k

/-- A state for `CellMemoryAndStack` 8. -/
def mem8 : State := celled (sysWord 0x0B 0) fun k => regs01 ⟨2, 16383⟩ ⟨2, 0⟩ k

/-- A state for `CellControlTransfer` 0. -/
def jmp0 : State := celled (majorWord 0xC (BitVec.ofNat 4 (1 : Fin 15).val ++ (1 : BitVec 6))) fun k => { k with sp := { k.sp with flags := 63 } }

/-- A state for `CellControlTransfer` 1. -/
def jmp1 : State := celled (majorWord 0xC (BitVec.ofNat 4 (1 : Fin 15).val ++ (1 : BitVec 6))) fun k => { k with sp := { k.sp with flags := 0 } }

theorem test_CellMemoryAndStack_0 :
    ∃ (i : Iss) (rd : Reg) (im : BitVec 5) (s : State) (u : State) (v : State) (a : Nat) (w : Option TWord),
        Issues s i (majorWord 0x7 ((0 : BitVec 1) ++ rd ++ im)) u ∧ Affords s i 1 ∧
        a = (immValue (majorWord 0x7 ((0 : BitVec 1) ++ rd ++ im)) i.ext).toNat ∧ a ≤ 32767 ∧ u.decodeDm i.cell a = (w, v) ∧ ((∀ x, w = some x →
        x.tag ≠ tPoison ∧ (x.tag = tRetadr → pmode (u.cell i.cell) = false))) :=
  ⟨i0, 0, 5, mem0, into (mem0) i0 (majorWord 0x7 ((0 : BitVec 1) ++ (0 : Reg) ++ (5 : BitVec 5))),
      ((into mem0 i0 (majorWord 0x7 ((0 : BitVec 1) ++ (0 : Reg) ++ (5 : BitVec 5)))).decodeDm 0 5).2, 5, some ⟨2, 9⟩,
      issues_of (by decide +kernel) (by decide +kernel), fun h => absurd h (by decide +kernel), rfl, by decide +kernel,
      Prod.ext (by decide +kernel) rfl, by decide +kernel⟩

theorem test_CellMemoryAndStack_1 :
    ∃ (i : Iss) (rs : Reg) (im : BitVec 5) (s : State) (u : State) (a : Nat) (w : TWord), Issues s i (majorWord 0x7 ((1 : BitVec 1) ++ rs ++ im)) u ∧
        Affords s i 1 ∧ a = (immValue (majorWord 0x7 ((1 : BitVec 1) ++ rs ++ im)) i.ext).toNat ∧ a ≤ 32767 ∧ (u.cell i.cell).reg rs = w ∧
        w.tag ≠ tPoison ∧ movable (u.cell i.cell) w.tag = true ∧ guarded i.cell u a = false :=
  ⟨i0, 0, 5, mem1, into (mem1) i0 (majorWord 0x7 ((1 : BitVec 1) ++ (0 : Reg) ++ (5 : BitVec 5))), 5, ⟨2, 7⟩,
      issues_of (by decide +kernel) (by decide +kernel), fun h => absurd h (by decide +kernel), rfl, by decide +kernel, rfl, by decide +kernel⟩

theorem test_CellMemoryAndStack_2 :
    ∃ (i : Iss) (rd : Reg) (rp : Reg) (hi : Bool) (s : State) (u : State) (v : State) (p : TWord) (x : TWord) (a : Nat) (w : Option TWord),
        Issues s i (majorWord 0x8 ((0 : BitVec 1) ++ rd ++ rp ++ bitOf hi)) u ∧ Affords s i 1 ∧ (u.cell i.cell).reg rp = p ∧
        (u.cell i.cell).reg (idxReg hi) = x ∧ (p.tag = tPtr ∧ isIdx x.tag = true) ∧ ptrAddr p x = some a ∧ u.decodeDm i.cell a = (w, v) ∧ ((∀ x,
        w = some x → x.tag ≠ tPoison ∧ (x.tag = tRetadr → pmode (u.cell i.cell) = false))) :=
  ⟨i0, 0, 1, false, mem2, into (mem2) i0 (majorWord 0x8 ((0 : BitVec 1) ++ (0 : Reg) ++ (1 : Reg) ++ bitOf false)),
      ((into mem2 i0 (majorWord 0x8 ((0 : BitVec 1) ++ (0 : Reg) ++ (1 : Reg) ++ bitOf false))).decodeDm 0 5).2, ⟨6, 0x00080004⟩, ⟨2, 1⟩, 5, some ⟨2,
      9⟩, issues_of (by decide +kernel) (by decide +kernel), fun h => absurd h (by decide +kernel), rfl, rfl, by decide +kernel, rfl,
      Prod.ext (by decide +kernel) rfl, by decide +kernel⟩

theorem test_CellMemoryAndStack_3 :
    ∃ (i : Iss) (rs : Reg) (rp : Reg) (hi : Bool) (s : State) (u : State) (p : TWord) (x : TWord) (a : Nat) (w : TWord),
        Issues s i (majorWord 0x8 ((1 : BitVec 1) ++ rs ++ rp ++ bitOf hi)) u ∧ Affords s i 1 ∧ (u.cell i.cell).reg rs = w ∧ (u.cell i.cell).reg rp = p ∧
        (u.cell i.cell).reg (idxReg hi) = x ∧ w.tag ≠ tPoison ∧ movable (u.cell i.cell) w.tag = true ∧ (p.tag = tPtr ∧ isIdx x.tag = true) ∧
        ptrAddr p x = some a ∧ guarded i.cell u a = false :=
  ⟨i0, 0, 1, true, mem3, into (mem3) i0 (majorWord 0x8 ((1 : BitVec 1) ++ (0 : Reg) ++ (1 : Reg) ++ bitOf true)), ⟨6, 0x00080004⟩, ⟨2, 2⟩, 6, ⟨2, 7⟩,
      issues_of (by decide +kernel) (by decide +kernel), fun h => absurd h (by decide +kernel), rfl, rfl, rfl, by decide +kernel, by decide +kernel,
      by decide +kernel, rfl, by decide +kernel⟩

theorem test_CellMemoryAndStack_4 :
    ∃ (i : Iss) (r : BitVec 4) (s : State) (u : State) (a : Nat), Issues s i (sysWord 0x08 r) u ∧ Affords s i 1 ∧ ((u.cell i.cell).reg r).tag ≠ tPoison ∧
        movable (u.cell i.cell) ((u.cell i.cell).reg r).tag = true ∧ pushAddr (u.cell i.cell) = some a ∧ guarded i.cell u a = false :=
  ⟨i0, 0, mem4, into (mem4) i0 (sysWord 0x08 0), 32767, issues_of (by decide +kernel) (by decide +kernel), fun h => absurd h (by decide +kernel),
      by decide +kernel, by decide +kernel, rfl, by decide +kernel⟩

theorem test_CellMemoryAndStack_5 :
    ∃ (i : Iss) (r : BitVec 4) (s : State) (u : State) (v : State) (w : Option TWord), Issues s i (sysWord 0x09 r) u ∧ Affords s i 1 ∧
        (u.cell i.cell).sp.sp.toNat < 32768 ∧ u.decodeDm i.cell (u.cell i.cell).sp.sp.toNat = (w, v) ∧ ((∀ x, w = some x → x.tag ≠ tPoison ∧
        (x.tag = tRetadr → pmode (u.cell i.cell) = false))) :=
  ⟨i0, 0, mem5, into (mem5) i0 (sysWord 0x09 0), ((into mem5 i0 (sysWord 0x09 0)).decodeDm 0 32766).2, some ⟨2, 9⟩,
      issues_of (by decide +kernel) (by decide +kernel), fun h => absurd h (by decide +kernel), by decide +kernel, Prod.ext (by decide +kernel) rfl,
      by decide +kernel⟩

theorem test_CellMemoryAndStack_6 :
    ∃ (i : Iss) (s : State) (u : State) (v : State) (w : TWord), Issues s i (sysWord 0x05 0) u ∧ Affords s i 2 ∧ (u.cell i.cell).sp.sp.toNat < 32768 ∧
        u.readDm i.cell (u.cell i.cell).sp.sp.toNat = (w, v) ∧ w.tag = tRetadr :=
  ⟨i0, mem6, into (mem6) i0 (sysWord 0x05 0), ((into mem6 i0 (sysWord 0x05 0)).decodeDm 0 32766).2, ⟨10, 9⟩,
      issues_of (by decide +kernel) (by decide +kernel), fun h => absurd h (by decide +kernel), by decide +kernel, Prod.ext (by decide +kernel) rfl,
      rfl⟩

theorem test_CellMemoryAndStack_7 :
    ∃ (i : Iss) (target : BitVec 9) (s : State) (u : State) (a : Nat), Issues s i (majorWord 0xD ((1 : BitVec 1) ++ target)) u ∧ Affords s i 2 ∧
        pushAddr (u.cell i.cell) = some a :=
  ⟨i0, 100, mem7, into (mem7) i0 (majorWord 0xD ((1 : BitVec 1) ++ (100 : BitVec 9))), 32767, issues_of (by decide +kernel) (by decide +kernel),
      fun h => absurd h (by decide +kernel), rfl⟩

theorem test_CellMemoryAndStack_8 :
    ∃ (i : Iss) (r : BitVec 4) (s : State) (u : State) (a : Nat) (x : TWord), Issues s i (sysWord 0x0B r) u ∧ Affords s i 2 ∧ (u.cell i.cell).reg r = x ∧
        isIdx x.tag = true ∧ x.val.toNat ≤ 16383 ∧ pushAddr (u.cell i.cell) = some a :=
  ⟨i0, 0, mem8, into (mem8) i0 (sysWord 0x0B 0), 32767, ⟨2, 16383⟩, issues_of (by decide +kernel) (by decide +kernel),
      fun h => absurd h (by decide +kernel), rfl, by decide +kernel, by decide +kernel, rfl⟩

theorem test_CellControlTransfer_0 :
    ∃ (i : Iss) (c : Fin 15) (off : BitVec 6) (s : State) (u : State) (w : IWord), w = majorWord 0xC (BitVec.ofNat 4 c.val ++ off) ∧ Issues s i w u ∧
        condHolds (u.cell i.cell).sp.flags c.val = true ∧ Affords s i 2 :=
  ⟨i0, 1, 1, jmp0, into (jmp0) i0 (majorWord 0xC (BitVec.ofNat 4 (1 : Fin 15).val ++ (1 : BitVec 6))),
      majorWord 0xC (BitVec.ofNat 4 (1 : Fin 15).val ++ (1 : BitVec 6)), rfl, issues_of (by decide +kernel) (by decide +kernel), by decide +kernel,
      fun h => absurd h (by decide +kernel)⟩

theorem test_CellControlTransfer_1 :
    ∃ (i : Iss) (c : Fin 15) (off : BitVec 6) (s : State) (u : State) (w : IWord), w = majorWord 0xC (BitVec.ofNat 4 c.val ++ off) ∧ Issues s i w u ∧
        condHolds (u.cell i.cell).sp.flags c.val = false ∧ Affords s i 1 :=
  ⟨i0, 1, 1, jmp1, into (jmp1) i0 (majorWord 0xC (BitVec.ofNat 4 (1 : Fin 15).val ++ (1 : BitVec 6))),
      majorWord 0xC (BitVec.ofNat 4 (1 : Fin 15).val ++ (1 : BitVec 6)), rfl, issues_of (by decide +kernel) (by decide +kernel), by decide +kernel,
      fun h => absurd h (by decide +kernel)⟩

theorem test_CellControlTransfer_2 :
    ∃ (i : Iss) (target : BitVec 9) (s : State) (u : State), Issues s i (majorWord 0xD ((0 : BitVec 1) ++ target)) u ∧ Affords s i 2 :=
  ⟨i0, 100, celled (majorWord 0xD ((0 : BitVec 1) ++ (100 : BitVec 9))) fun k => k,
      into (celled (majorWord 0xD ((0 : BitVec 1) ++ (100 : BitVec 9))) fun k => k) i0 (majorWord 0xD ((0 : BitVec 1) ++ (100 : BitVec 9))),
      issues_of (by decide +kernel) (by decide +kernel), fun h => absurd h (by decide +kernel)⟩

theorem test_CellControlTransfer_3 :
    ∃ (i : Iss) (r : BitVec 4) (s : State) (u : State) (x : TWord), Issues s i (sysWord 0x0A r) u ∧ Affords s i 2 ∧ (u.cell i.cell).reg r = x ∧
        isIdx x.tag = true ∧ x.val.toNat ≤ 16383 :=
  ⟨i0, 0, celled (sysWord 0x0A 0) fun k => regs01 ⟨2, 16383⟩ ⟨2, 0⟩ k, into (celled (sysWord 0x0A 0) fun k => regs01 ⟨2, 16383⟩ ⟨2,
      0⟩ k) i0 (sysWord 0x0A 0), ⟨2, 16383⟩, issues_of (by decide +kernel) (by decide +kernel), fun h => absurd h (by decide +kernel), rfl,
      by decide +kernel⟩

theorem test_CellControlTransfer_4 :
    ∃ (i : Iss) (s : State) (u : State) (tc : Word), Issues s i (sysWord 0x04 0) u ∧ Affords s i 2 ∧ pmode (u.cell i.cell) = false ∧
        tc = (u.cell i.cell).sp.trapCause ∧ ((i.cell.val = 40 → bit tc 4 = false)) :=
  ⟨i0, celled (sysWord 0x04 0) fun k => { k with sp := { k.sp with trapCause := 0x10, stat := 4 } },
      into (celled (sysWord 0x04 0) fun k => { k with sp := { k.sp with trapCause := 0x10, stat := 4 } }) i0 (sysWord 0x04 0), 0x10,
      issues_of (by decide +kernel) (by decide +kernel), fun h => absurd h (by decide +kernel), by decide +kernel, rfl, by decide +kernel⟩

theorem test_CellControlTransfer_5 :
    ∃ (i : Iss) (s : State) (u : State), Issues s i (sysWord 0x18 0) u ∧ Affords s i 1 ∧ pmode (u.cell i.cell) = false ∧
        trapBit (u.cell i.cell) = false :=
  ⟨i0, celled (sysWord 0x18 0) fun k => k, into (celled (sysWord 0x18 0) fun k => k) i0 (sysWord 0x18 0),
      issues_of (by decide +kernel) (by decide +kernel), fun h => absurd h (by decide +kernel), by decide +kernel⟩

theorem test_CellControlTransfer_6 :
    ∃ (i : Iss) (s : State) (u : State), Issues s i (sysWord 0x02 0) u ∧ Affords s i 1 :=
  ⟨i0, celled (sysWord 0x02 0) fun k => k, into (celled (sysWord 0x02 0) fun k => k) i0 (sysWord 0x02 0),
      issues_of (by decide +kernel) (by decide +kernel), fun h => absurd h (by decide +kernel)⟩

theorem test_CellControlTransfer_7 :
    ∃ (i : Iss) (n : BitVec 4) (s : State) (u : State), Issues s i (sysWord 0x03 n) u ∧ Affords s i 1 :=
  ⟨i0, 15, celled (sysWord 0x03 15) fun k => k, into (celled (sysWord 0x03 15) fun k => k) i0 (sysWord 0x03 15),
      issues_of (by decide +kernel) (by decide +kernel), fun h => absurd h (by decide +kernel)⟩

theorem test_CellControlTransfer_8 :
    ∃ (i : Iss) (n : BitVec 6) (s : State) (u : State) (ws : List IWord) (rc : BitVec 16), Issues s i (majorWord 0 ((0xF : BitVec 4) ++ n)) u ∧
        Affords s i 1 ∧ u.pairWords i.cell ((u.cell i.cell).pc.toNat + 1) 4 = .ok ws ∧ pairFault ws = none ∧
        rc = (if ract (u.cell i.cell) then (u.cell i.cell).sp.rc else BitVec.ofNat 16 (n.toNat + 1)) :=
  ⟨i0, 2,
      celled (majorWord 0 ((0xF : BitVec 4) ++ (2 : BitVec 6))) fun k => { k with im := [(0, majorWord 0 ((0xF : BitVec 4) ++ (2 : BitVec 6))), (1, sysWord 0x01 0)] },
      into (celled (majorWord 0 ((0xF : BitVec 4) ++ (2 : BitVec 6))) fun k => { k with im := [(0, majorWord 0 ((0xF : BitVec 4) ++ (2 : BitVec 6))), (1, sysWord 0x01 0)] }) i0 (majorWord 0 ((0xF : BitVec 4) ++ (2 : BitVec 6))),
      [sysWord 0x01 0], _, issues_of (by decide +kernel) (by decide +kernel), fun h => absurd h (by decide +kernel), by decide +kernel,
      by decide +kernel, rfl⟩

theorem test_CellControlTransfer_9 :
    ∃ (i : Iss) (r : BitVec 4) (s : State) (u : State) (ws : List IWord) (x : TWord) (rc : BitVec 16), Issues s i (sysWord 0x0C r) u ∧ Affords s i 1 ∧
        u.pairWords i.cell ((u.cell i.cell).pc.toNat + 1) 4 = .ok ws ∧ pairFault ws = none ∧ (u.cell i.cell).reg r = x ∧ ((ract (u.cell i.cell) = false →
        isIdx x.tag = true ∧ x.val.toNat ≤ 65535)) ∧ rc = (if ract (u.cell i.cell) then (u.cell i.cell).sp.rc else BitVec.ofNat 16 x.val.toNat) :=
  ⟨i0, 0, celled (sysWord 0x0C 0) fun k => { regs01 ⟨2, 65535⟩ ⟨2, 0⟩ k with im := [(0, sysWord 0x0C 0), (1, sysWord 0x01 0)] },
      into (celled (sysWord 0x0C 0) fun k => { regs01 ⟨2, 65535⟩ ⟨2, 0⟩ k with im := [(0, sysWord 0x0C 0), (1, sysWord 0x01 0)] }) i0 (sysWord 0x0C 0),
      [sysWord 0x01 0], ⟨2, 65535⟩, _, issues_of (by decide +kernel) (by decide +kernel), fun h => absurd h (by decide +kernel), by decide +kernel,
      by decide +kernel, rfl, by decide +kernel, rfl⟩

theorem test_CellControlTransfer_10 :
    ∃ (i : Iss) (w : IWord) (s : State) (v : State), Issuable s i w v ∧ i.ext.length ≤ 3 ∧ undefWord w = true ∧ ((pmode (v.cell i.cell) = true →
        (s.cell i.cell).slotsOf i ≤ (v.cell i.cell).sp.cycBud.toNat)) :=
  ⟨i0, sysWord 0x1B 0, celled (sysWord 0x1B 0) fun k => k, fetchedIn (celled (sysWord 0x1B 0) fun k => k) i0, issuable_of (by decide +kernel),
      by decide +kernel⟩

theorem test_CellControlTransfer_11 :
    ∃ (i : Iss) (w : IWord) (s : State) (v : State), Issuable s i w v ∧ ((undefWord w = true → 3 < i.ext.length)) ∧ (rsvdWord w = true ∨
        chainBad w i.ext = true ∨ 3 < i.ext.length) ∧ ((pmode (v.cell i.cell) = true → (s.cell i.cell).slotsOf i ≤ (v.cell i.cell).sp.cycBud.toNat)) :=
  ⟨i0, sysWord 0x01 1, celled (sysWord 0x01 1) fun k => k, fetchedIn (celled (sysWord 0x01 1) fun k => k) i0, issuable_of (by decide +kernel),
      by decide +kernel⟩
end G07b

/-! ## Witnesses: The fabric -/

namespace G08

/-- A state for `CellStreamsAndJobs` 0. -/
def str0 : State := celled (strmWord false 2 1 0 false) fun k => { k with su0 := { SuSlot.idle with active := true, op := 1, length := 8, d := 8 }, su1 := { SuSlot.idle with active := true, op := 1, length := 16 }, sb0 := [(0, 7)], w := [mkHandle 1 0 0, .void] ++ List.replicate 12 .void ++ [⟨2, 0⟩, ⟨2, 3⟩] }

/-- A state for `CellStreamsAndJobs` 1. -/
def str1 : State := celled (strmWord true 2 1 0 false) fun k => { k with su0 := { SuSlot.idle with active := true, op := 1, length := 8, d := 8 }, su1 := { SuSlot.idle with active := true, op := 1, length := 16 }, sb0 := [(0, 7)], w := [mkHandle 2 1 0, ⟨2, 9⟩] ++ List.replicate 12 .void ++ [⟨2, 0⟩, ⟨2, 3⟩] }

/-- A state for `CellStreamsAndJobs` 2. -/
def str2 : State := celled (opWord 0x4 3 1 0) fun k => { k with su0 := { SuSlot.idle with active := true, op := 1, length := 8, d := 8 }, su1 := { SuSlot.idle with active := true, op := 1, length := 16 }, sb0 := [(0, 7)], w := [mkHandle 1 0 0, .void] ++ List.replicate 12 .void ++ [⟨2, 0⟩, ⟨2, 3⟩] }

/-- A state for `CellStreamsAndJobs` 3. -/
def str3 : State := celled (opWord 0xE 2 0 1) fun k => { k with su0 := { SuSlot.idle with active := true, op := 1, length := 8, d := 8 }, su1 := { SuSlot.idle with active := true, op := 1, length := 16 }, sb0 := [(0, 7)], w := [mkHandle 1 0 0, ⟨2, 8⟩] ++ List.replicate 12 .void ++ [⟨2, 0⟩, ⟨2, 3⟩] }

/-- A state for `CellStreamsAndJobs` 4. -/
def str4 : State := celled (opWord 0xE 3 0 1) fun k => { k with su0 := { SuSlot.idle with active := true, op := 1, length := 8, d := 8 }, su1 := { SuSlot.idle with active := true, op := 1, length := 16 }, sb0 := [(0, 7)], w := [mkHandle 2 1 0, ⟨2, 16⟩] ++ List.replicate 12 .void ++ [⟨2, 0⟩, ⟨2, 3⟩] }

/-- A state for `CellStreamsAndJobs` 5. -/
def str5 : State := celled (sysWord 0x1A 0) fun k => regs01 ⟨2, 6⟩ ⟨2, 0⟩ k

/-- The words of a search descriptor of OP 1 and the cell that submits it. -/
def searchWords : List TWord := [⟨2, 1⟩, ⟨2, 5⟩, ⟨2, 0⟩, ⟨2, 0⟩, ⟨2, 0⟩, ⟨2, 0⟩, ⟨2, 0⟩, ⟨2, 0⟩]

/-- A state for `CellStreamsAndJobs` 6. -/
def str6 : State :=
  let s := (celled (opWord 0xE 0 0 1) fun k => { regs01 (mkHandle 3 0 0) ⟨6, 0x00180010⟩ k with dm := (List.range 8).map fun j => (16 + j, searchWords.getD j .void) }).setReg SRC_STAT 0
  { s with fabric := { s.fabric with roles := [{ role := 9, fn := 0, slot := 0, allow := 63 }] } }

/-- A state for `CellStreamsAndJobs` 7. -/
def str7 : State := celled (opWord 0xE 1 1 0) fun k => regs01 (mkHandle 3 0 0) ⟨2, 0⟩ k

/-- A state for `CellStreamsAndJobs` 8. -/
def str8 : State := celled (opWord 0xE 1 1 0) fun k => { regs01 (mkHandle 3 0 0) ⟨2, 0⟩ k with ports := { enabled := true, unit := 0, job := some ⟨[], 0, some 0, 0, [], false⟩ } :: List.replicate 3 .idle }

/-- Cell 0 in vendor mode with interrupts enabled and a pending event routed to it. -/
def evs : State := (((celled 0 fun k => k.modSp fun p => { p with stat := 2 }).setReg (EV_RAW 0x010) 1).setReg (EV_ENABLE 0x010) 1).setReg (EV_ROUTE 0x010) 1

/-- Cell 0 in program mode with no budget. -/
def poor : State := celled 0 fun k => k.modSp fun p => { p with stat := 1 }

/-- A flit of a kind from a node to a node. -/
def flitTo (dst src kind : Nat) : Flit := ⟨dst, src, 0, kind, 0, 0, 0, 4, true, false, 0, [1, 2, 3, 4]⟩

/-- Cell 0 with a codec job on port 1, its input delivered, and the jobs that unit 0 has begun. -/
def lzJob : Job := ⟨[⟨2, 1⟩, mkHandle 1 0 0, mkHandle 2 1 0, ⟨2, 2⟩, ⟨2, 8⟩], 16, none, 0, [], false⟩
def fresh0 : CodecJob := ⟨0, [], 0, [], 0, none⟩
def coding (jobs : List CodecJob) : State :=
  let s : State := celled 0 fun k => { k with
    su0 := { SuSlot.idle with active := true, op := 1, length := 8, d := 8 }, su1 := { SuSlot.idle with active := true, op := 1, length := 8 }
    sb0 := [(0, 0x10), (1, 7)]
    ports := [.idle, { enabled := true, unit := 0, job := some lzJob }, .idle, .idle] }
  { s with fabric := { s.fabric with codec := jobs :: List.replicate 3 [] } }

theorem test_CellStreamsAndJobs_0 :
    ∃ (i : Iss) (size : Fin 3) (rd : Reg) (wh : Fin 4) (hi : Bool) (s : State) (u : State) (v : State) (h : TWord) (x : TWord) (q : SuSlot) (bs : List Byte),
        Issues s i (strmWord false size rd wh hi) u ∧ Affords s i 1 ∧ (u.cell i.cell).reg (whReg wh) = h ∧ (u.cell i.cell).reg (idxReg hi) = x ∧
        (h.tag = tHandle ∧ isIdx x.tag = true) ∧ (u.cell i.cell).su (hUnit h.val) = q ∧ offOk x (sizeBytes size) = true ∧
        staleWord (u.cell i.cell) h = false ∧ ((hKind h.val = 2 ∨ hKind h.val = 1 ∧ ∀ j < sizeBytes size, posOf q.c ((intOf x).toNat + j) < q.length ∧
        posOf q.c ((intOf x).toNat + j) < q.d)) ∧ u.readSb i.cell (hUnit h.val) (intOf x).toNat (sizeBytes size) = (some bs, v) :=
  ⟨i0, 2, 1, 0, false, str0, into (str0) i0 (strmWord false 2 1 0 false), ((into str0 i0 (strmWord false 2 1 0 false)).readSb 0 0 0 4).2,
      mkHandle 1 0 0, ⟨2, 0⟩, { SuSlot.idle with active := true, op := 1, length := 8, d := 8 }, [7, 0, 0, 0],
      issues_of (by decide +kernel) (by decide +kernel), fun h => absurd h (by decide +kernel), rfl, rfl, by decide +kernel, rfl, by decide +kernel,
      by decide +kernel, by decide +kernel, Prod.ext (by decide +kernel) rfl⟩

theorem test_CellStreamsAndJobs_1 :
    ∃ (i : Iss) (size : Fin 3) (rs : Reg) (wh : Fin 4) (hi : Bool) (s : State) (u : State) (w : TWord) (h : TWord) (x : TWord) (q : SuSlot),
        Issues s i (strmWord true size rs wh hi) u ∧ Affords s i 1 ∧ (u.cell i.cell).reg rs = w ∧ (u.cell i.cell).reg (whReg wh) = h ∧
        (u.cell i.cell).reg (idxReg hi) = x ∧ (w.tag ≠ tPoison ∧ isOut w.tag = true) ∧ (h.tag = tHandle ∧ hKind h.val = 2) ∧ isIdx x.tag = true ∧
        (u.cell i.cell).su (hUnit h.val) = q ∧ offOk x (sizeBytes size) = true ∧ staleWord (u.cell i.cell) h = false ∧
        u.heldOut i.cell (hUnit h.val) = false ∧ ((∀ j < sizeBytes size, posOf q.c ((intOf x).toNat + j) < q.length ∧
        posOf q.c ((intOf x).toNat + j) < q.d + sbSize)) :=
  ⟨i0, 2, 1, 0, false, str1, into (str1) i0 (strmWord true 2 1 0 false), ⟨2, 9⟩, mkHandle 2 1 0, ⟨2, 0⟩,
      { SuSlot.idle with active := true, op := 1, length := 16 }, issues_of (by decide +kernel) (by decide +kernel),
      fun h => absurd h (by decide +kernel), rfl, rfl, rfl, by decide +kernel, by decide +kernel, by decide +kernel, rfl, by decide +kernel⟩

theorem test_CellStreamsAndJobs_2 :
    ∃ (i : Iss) (rd : BitVec 4) (rs : BitVec 4) (s : State) (u : State) (h : TWord) (q : SuSlot), Issues s i (opWord 0x4 3 rd rs) u ∧ Affords s i 1 ∧
        (u.cell i.cell).reg rs = h ∧ h.tag = tHandle ∧ ((hKind h.val = 1 ∨ hKind h.val = 2)) ∧ staleWord (u.cell i.cell) h = false ∧
        (u.cell i.cell).su (hUnit h.val) = q :=
  ⟨i0, 1, 0, str2, into (str2) i0 (opWord 0x4 3 1 0), mkHandle 1 0 0, { SuSlot.idle with active := true, op := 1, length := 8, d := 8 },
      issues_of (by decide +kernel) (by decide +kernel), fun h => absurd h (by decide +kernel), rfl, rfl, by decide +kernel, by decide +kernel, rfl⟩

theorem test_CellStreamsAndJobs_3 :
    ∃ (i : Iss) (wh : BitVec 4) (rs : BitVec 4) (s : State) (u : State) (h : TWord) (x : TWord) (q : SuSlot), Issues s i (opWord 0xE 2 wh rs) u ∧
        Affords s i 1 ∧ (u.cell i.cell).reg wh = h ∧ (u.cell i.cell).reg rs = x ∧ h.tag = tHandle ∧ hKind h.val = 1 ∧ isIdx x.tag = true ∧
        (u.cell i.cell).su (hUnit h.val) = q ∧ q.c + x.val.toNat ≤ q.length ∧ q.c + x.val.toNat ≤ q.d ∧ staleWord (u.cell i.cell) h = false ∧
        u.heldIn i.cell (hUnit h.val) = false :=
  ⟨i0, 0, 1, str3, into (str3) i0 (opWord 0xE 2 0 1), mkHandle 1 0 0, ⟨2, 8⟩, { SuSlot.idle with active := true, op := 1, length := 8, d := 8 },
      issues_of (by decide +kernel) (by decide +kernel), fun h => absurd h (by decide +kernel), rfl, rfl, rfl, by decide +kernel, by decide +kernel,
      rfl, by decide +kernel⟩

theorem test_CellStreamsAndJobs_4 :
    ∃ (i : Iss) (wh : BitVec 4) (rs : BitVec 4) (s : State) (u : State) (h : TWord) (x : TWord) (q : SuSlot), Issues s i (opWord 0xE 3 wh rs) u ∧
        Affords s i 1 ∧ (u.cell i.cell).reg wh = h ∧ (u.cell i.cell).reg rs = x ∧ h.tag = tHandle ∧ hKind h.val = 2 ∧ isIdx x.tag = true ∧
        (u.cell i.cell).su (hUnit h.val) = q ∧ q.c + x.val.toNat ≤ q.length ∧ staleWord (u.cell i.cell) h = false ∧
        u.heldOut i.cell (hUnit h.val) = false :=
  ⟨i0, 0, 1, str4, into (str4) i0 (opWord 0xE 3 0 1), mkHandle 2 1 0, ⟨2, 16⟩, { SuSlot.idle with active := true, op := 1, length := 16 },
      issues_of (by decide +kernel) (by decide +kernel), fun h => absurd h (by decide +kernel), rfl, rfl, rfl, by decide +kernel, by decide +kernel,
      rfl, by decide +kernel⟩

theorem test_CellStreamsAndJobs_5 :
    ∃ (i : Iss) (r : BitVec 4) (s : State) (u : State) (a : TWord) (p : Port), Issues s i (sysWord 0x1A r) u ∧ Affords s i 2 ∧ (u.cell i.cell).reg r = a ∧
        a.tag = tUns ∧ 3 ≤ a.val.toNat ∧ a.val.toNat ≤ 6 ∧ (u.cell i.cell).ports.getD (a.val.toNat - 3) .idle = p ∧ ((pmode (u.cell i.cell) = true →
        p.enabled = true)) :=
  ⟨i0, 0, str5, into (str5) i0 (sysWord 0x1A 0), ⟨2, 6⟩, .idle, issues_of (by decide +kernel) (by decide +kernel),
      fun h => absurd h (by decide +kernel), rfl, rfl, by decide +kernel, by decide +kernel, rfl, by decide +kernel⟩

theorem test_CellStreamsAndJobs_6 :
    ∃ (i : Iss) (wh : BitVec 4) (rp : BitVec 4) (waited : Nat) (s : State) (u : State) (v : State) (h : TWord) (p : TWord) (ws : List TWord) (n : Nat) (j : Job) (r : Bool),
        Issues s i (opWord 0xE 0 wh rp) u ∧ (u.cell i.cell).reg wh = h ∧ (u.cell i.cell).reg rp = p ∧ isPortHandle h = true ∧ p.tag = tPtr ∧
        n = ptrLimit p.val - ptrBase p.val ∧ u.readWords i.cell (ptrBase p.val) n = (ws, v) ∧
        r = u.cellRoute i.cell (if hKind h.val ≤ 4 then 0x52 else 0x51) ∧
        j = { words := ws, base := ptrBase p.val, status := none, done := 0, acc := [], lost := !r } ∧ (ws.any fun w => w.tag == tPoison) = false ∧
        staleWord (u.cell i.cell) h = false ∧ ws.any (staleWord (u.cell i.cell)) = false ∧ (∀ x < ws.length,
        acceptsWord (hKind h.val) x (bits (j.word 0) 2 0) (ws.getD x .void) = true) ∧
        ((u.cell i.cell).ports.getD (hKind h.val - 3) .idle).occupied = false ∧ u.engineBusy (hKind h.val) (hUnit h.val) = false ∧
        engineRefusal u i.cell (hKind h.val) (hUnit h.val) j = none ∧ Affords s i (2 + n + waited) :=
  ⟨i0, 0, 1, 0, str6, into (str6) i0 (opWord 0xE 0 0 1), ((into str6 i0 (opWord 0xE 0 0 1)).readWords 0 16 8).2, mkHandle 3 0 0, ⟨6, 0x00180010⟩,
      searchWords, 8, ⟨searchWords, 16, none, 0, [], false⟩, true, issues_of (by decide +kernel) (by decide +kernel), rfl, rfl, by decide +kernel, rfl,
      rfl, Prod.ext (by decide +kernel) rfl, by decide +kernel, rfl, by decide +kernel, by decide +kernel, by decide +kernel, by decide +kernel,
      by decide +kernel, by decide +kernel, by decide +kernel, fun h => absurd h (by decide +kernel)⟩

theorem test_CellStreamsAndJobs_7 :
    ∃ (i : Iss) (rd : BitVec 4) (wh : BitVec 4) (waited : Nat) (s : State) (u : State) (h : TWord) (p : Nat), Issues s i (opWord 0xE 1 rd wh) u ∧
        (u.cell i.cell).reg wh = h ∧ isPortHandle h = true ∧ staleWord (u.cell i.cell) h = false ∧ Affords s i (1 + waited) ∧ p = hKind h.val - 3 ∧
        ((u.cell i.cell).ports.getD p .idle).job = none :=
  ⟨i0, 1, 0, 0, str7, into (str7) i0 (opWord 0xE 1 1 0), mkHandle 3 0 0, 0, issues_of (by decide +kernel) (by decide +kernel), rfl, by decide +kernel,
      by decide +kernel, fun h => absurd h (by decide +kernel), rfl, by decide +kernel⟩

theorem test_CellStreamsAndJobs_8 :
    ∃ (i : Iss) (rd : BitVec 4) (wh : BitVec 4) (waited : Nat) (s : State) (u : State) (h : TWord) (p : Nat) (j : Job) (st : Nat),
        Issues s i (opWord 0xE 1 rd wh) u ∧ (u.cell i.cell).reg wh = h ∧ isPortHandle h = true ∧ staleWord (u.cell i.cell) h = false ∧
        Affords s i (1 + waited) ∧ p = hKind h.val - 3 ∧ ((u.cell i.cell).ports.getD p .idle).job = some j ∧ j.status = some st ∧
        firmwareStatus st = false :=
  ⟨i0, 1, 0, 0, str8, into (str8) i0 (opWord 0xE 1 1 0), mkHandle 3 0 0, 0, ⟨[], 0, some 0, 0, [], false⟩, 0,
      issues_of (by decide +kernel) (by decide +kernel), rfl, by decide +kernel, by decide +kernel, fun h => absurd h (by decide +kernel), rfl, rfl,
      rfl, by decide +kernel⟩

theorem test_CellEvents_0 :
    ∃ (s : State) (c : CellId) (k : Cell), s.cell c = k ∧ k.run.held = false ∧ k.run.scrubbing = false ∧ k.run.stall = .none ∧ k.mayInt = true ∧
        s.irqLevel c = true ∧ s.pageOn (celPage c) = true :=
  ⟨evs, 0, evs.cell 0, rfl, rfl, rfl, rfl, rfl, by decide +kernel⟩

theorem test_CellEvents_1 :
    ∃ (s : State) (c : CellId) (k : Cell), s.cell c = k ∧ ((s.prog.execs.any fun e => e.cell == c.val && e.step == 1 && decide (1 ≤ e.pind ∧
        e.pind ≤ 10) && !trapBit k) = true ∨ k.run.held = false ∧ k.run.scrubbing = false ∧ pmode k = true ∧ k.run.stall ≠ .input ∧
        k.run.stall ≠ .output ∧ (k.sp.cycBud = 0 ∨ k.run.stall = .port ∨ s.armed (celPage c) 6 = true)) :=
  ⟨poor, 0, poor.cell 0, rfl, by decide +kernel⟩

theorem test_CellEvents_2 :
    ∃ (s : State) (c : CellId) (p : Product), (s.cell c).mul = some p ∧ p.left ≤ 1 :=
  ⟨celled 0 fun k => { k with mul := some ⟨1, ⟨2, 6⟩, ⟨2, 0⟩, false⟩ }, 0, ⟨1, ⟨2, 6⟩, ⟨2, 0⟩, false⟩, rfl, by decide +kernel⟩

theorem test_CellEvents_3 :
    ∃ (s : State) (c : HoldAt) (k : Cell), s.cell c.cell = k ∧ k.run.holdReq = true ∧ k.run.held = false ∧ ((k.inRep = true → k.run.stall ≠ .none)) ∧
        ((k.run.stall = .port → pmode k = true → c.waited < k.sp.cycBud.toNat)) :=
  ⟨celled 0 fun k => k.modRun fun r => { r with holdReq := true }, ⟨0, 0⟩, (celled 0 fun k => k.modRun fun r => { r with holdReq := true }).cell 0, rfl,
      rfl, rfl, by decide +kernel⟩

theorem test_CellEvents_4 :
    ∃ (s : State) (c : CellId), (s.cell c).run.scrubbing = true :=
  ⟨celled 0 fun k => k.modRun fun r => { r with scrubbing := true }, 0, by decide +kernel⟩

theorem test_CellEvents_5 :
    ∃ (s : State) (m : Master) (c : CellId) (v : Word) (d : RegDef),
        Accepts s m (celPage c) 0x80 (setBit v 2 false) (scrubCond m c (setBit v 2 false)) d :=
  ⟨awake, .warden, 0, 0, regAt (celPage 0) 0x80, accepts_of (by decide +kernel)⟩

theorem test_CellEvents_6 :
    ∃ (s : State) (m : Master) (c : CellId) (v : Word) (d : RegDef),
        Accepts s m (celPage c) 0x80 (setBit (setBit v 2 true) 0 true) (scrubCond m c (setBit (setBit v 2 true) 0 true)) d :=
  ⟨awake, .warden, 0, 0, regAt (celPage 0) 0x80, accepts_of (by decide +kernel)⟩

theorem test_CellEvents_7 :
    ∃ (s : State) (m : Master) (c : CellId) (v : Word) (d : RegDef), Accepts s m (celPage c) 0xA4 v (heldCond m c 0xA4 v) d :=
  ⟨awake, .warden, 0, 5, regAt (celPage 0) 0xA4, accepts_of (by decide +kernel)⟩

theorem test_CellEvents_8 :
    ∃ (s : State) (m : Master) (c : CellId) (v : Word) (d : RegDef), Accepts s m (celPage c) 0xB8 v (dmCond m c v) d :=
  ⟨awake, .warden, 0, 5, regAt (celPage 0) 0xB8, accepts_of (by decide +kernel)⟩

theorem test_CellEvents_9 :
    ∃ (s : State) (m : Master) (c : CellId) (v : Word) (d : RegDef), Accepts s m (celPage c) 0xC8 v (rvalCond m c v) d :=
  ⟨awake, .warden, 0, 5, regAt (celPage 0) 0xC8, accepts_of (by decide +kernel)⟩

theorem test_CellEvents_10 :
    ∃ (s : State) (m : Master) (c : CellId) (d : RegDef), Reaches s m (celPage c) 0xA4 d :=
  ⟨awake, .pf, 0, regAt (celPage 0) 0xA4, reaches_of (by decide +kernel)⟩

theorem test_CellEvents_11 :
    ∃ (s : State) (m : Master) (c : CellId) (d : RegDef), Reaches s m (celPage c) 0xB8 d :=
  ⟨awake, .pf, 0, regAt (celPage 0) 0xB8, reaches_of (by decide +kernel)⟩

theorem test_CellEvents_12 :
    ∃ (s : State) (m : Master) (c : CellId) (d : RegDef), Reaches s m (celPage c) 0xC8 d :=
  ⟨awake, .pf, 0, regAt (celPage 0) 0xC8, reaches_of (by decide +kernel)⟩

theorem test_CellEvents_13 :
    ∃ (s : State) (c : CellId), (s.cell c).run.stall = .input ∧ s.execOn c = none :=
  ⟨celled 0 fun k => k.modRun fun r => { r with stall := .input }, 0, by decide +kernel⟩

theorem test_FabricCommands_0 :
    ∃ (s : State) (f : Flit), s.pageOn 0x70 = true ∧ s.routes { f with kind := 0 } = true :=
  ⟨awake, flitTo 0 0x54 0, by decide +kernel⟩

theorem test_FabricCommands_1 :
    ∃ (s : State) (f : Flit) (c : CellId), s.pageOn 0x70 = true ∧ s.routes { f with kind := 1 } = true ∧ f.dst < 40 ∧ c.val = f.dst ∧
        (s.cell c).su0.active = true ∧ (s.cell c).su0.op = 4 ∧ (s.cell c).su0.peer = f.src ∧ (s.cell c).su0.target % 256 = f.sid ∧
        f.gen = (s.cell c).run.gen.toNat ∧ (s.cell c).su1.active = false ∧ s.cells.length = 41 :=
  ⟨celled 0 fun k => { k with su0 := { SuSlot.idle with active := true, op := 4, peer := 0x54 } }, flitTo 0 0x54 1, 0, by decide +kernel,
      by decide +kernel, by decide +kernel, rfl, by decide +kernel, by decide +kernel, rfl, rfl, rfl, by decide +kernel, rfl⟩

theorem test_FabricCommands_2 :
    ∃ (s : State) (f : Flit), s.pageOn 0x70 = true ∧ s.routes { f with kind := 3 } = true ∧ (∃ h : f.dst < 41, (s.cell ⟨f.dst, h⟩).run.stall = .fabric) :=
  ⟨celled 0 fun k => k.modRun fun r => { r with stall := .fabric }, flitTo 0 0x54 3, by decide +kernel, by decide +kernel, ⟨by decide,
      by decide +kernel⟩⟩

theorem test_FabricCommands_3 :
    ∃ (s : State) (f : Flit), s.pageOn 0x70 = true ∧ s.routes { f with kind := 5 } = true :=
  ⟨awake, flitTo 0x51 0x54 5, by decide +kernel⟩

theorem test_FabricCommands_4 :
    ∃ (s : State) (f : Flit), s.pageOn 0x70 = true ∧ s.routes { f with kind := 6 } = true :=
  ⟨awake, flitTo 0 0x54 6, by decide +kernel⟩

theorem test_FabricCommands_5 :
    ∃ (s : State) (f : Flit), s.pageOn 0x70 = true ∧ s.routes { f with kind := 7 } = true :=
  ⟨awake, flitTo 0x54 0x54 7, by decide +kernel⟩

theorem test_FabricCommands_6 :
    ∃ (s : State) (m : Master) (c : CellId) (v : Word) (d : RegDef), Accepts s m (celPage c) 0x160 (v &&& ~~~(0x38 : Word)) noCond d :=
  ⟨awake, .warden, 0, 0, regAt (celPage 0) 0x160, accepts_of (by decide +kernel)⟩

theorem test_FabricCommands_7 :
    ∃ (s : State) (m : Master) (c : CellId) (v : Word) (d : RegDef), Accepts s m (celPage c) 0x160 (v &&& ~~~(0x07 : Word)) noCond d :=
  ⟨awake, .warden, 0, 0, regAt (celPage 0) 0x160, accepts_of (by decide +kernel)⟩

theorem test_FabricCommands_8 :
    ∃ (s : State) (c : CellId), s.pageOn (celPage c) = true :=
  ⟨celled 0 fun k => { k with su0 := { SuSlot.idle with active := true, op := 3, length := 8, c := 8 } }, 0, by decide +kernel⟩

theorem test_FabricCommands_9 :
    ∃ (s : State) (unit : Fin 4) (k : CodecJob), s.codecTurn unit.val = some k ∧ (s.running k.cell 1).isSome = true ∧
        (k.res.isSome || k.put < k.made.length) = true :=
  ⟨coding [⟨0, [0x10, 7], 0, [7], 0, some (0, 2)⟩], 0, ⟨0, [0x10, 7], 0, [7], 0, some (0, 2)⟩, rfl, by decide +kernel⟩

theorem test_FabricCommands_10 :
    ∃ (s : State) (unit : Fin 4) (k : CodecJob), s.codecTurn unit.val = some k ∧ (s.running k.cell 1).isSome = true ∧
        (k.res.isSome || k.put < k.made.length) = false ∧ s.armed (cdcPage unit.val) 3 = true :=
  ⟨(coding []).setReg (SQ_ARMED (cdcPage 0)) 8, 0, fresh0, rfl, by decide +kernel⟩

theorem test_FabricCommands_11 :
    ∃ (s : State) (unit : Fin 4) (k : CodecJob) (j : Job) (x : Option Nat) (v : State), s.codecTurn unit.val = some k ∧ s.running k.cell 1 = some j ∧
        (k.res.isSome || k.put < k.made.length) = false ∧ s.armed (cdcPage unit.val) 3 = false ∧ s.readProt (cdcPage unit.val) 14 0 8 8 = (x, v) :=
  ⟨coding [], 0, fresh0, lzJob, _, _, rfl, rfl, by decide +kernel, by decide +kernel, pair_of _⟩

theorem test_FabricCommands_12 :
    ∃ (s : State) (unit : Fin 4) (k : CodecJob) (j : Job) (e : Nat) (v : State) (q : SuSlot) (n : Nat) (bs : List Byte) (w : State) (made : List Byte) (rel : Nat) (res : Option (Nat × Nat)),
        s.codecTurn unit.val = some k ∧ s.running k.cell 1 = some j ∧ (k.res.isSome || k.put < k.made.length) = false ∧
        s.armed (cdcPage unit.val) 3 = false ∧ s.readProt (cdcPage unit.val) 14 0 8 8 = (some e, v) ∧ bit (j.word 0) 0 = true ∧
        q = (v.cell k.cell).su (hUnit (j.word 1)) ∧
        n = min (min ((j.word 3).toNat - k.taken.length) (65536 - k.taken.length % 65536)) (q.d - q.c - (k.taken.length - k.rel)) ∧ n ≠ 0 ∧
        v.readSb k.cell (hUnit (j.word 1)) (q.c + (k.taken.length - k.rel)) n = (some bs, w) ∧ codecDecode j (k.taken ++ bs) = (made, rel, res) :=
  ⟨coding [], 0, fresh0, lzJob, 0, ((coding []).readProt (cdcPage 0) 14 0 8 8).2, _, 2, [0x10, 7],
      (((coding []).readProt (cdcPage 0) 14 0 8 8).2.readSb 0 0 0 2).2, _, _, _, rfl, rfl, by decide +kernel, by decide +kernel,
      Prod.ext (by decide +kernel) rfl, by decide +kernel, rfl, rfl, by decide +kernel, Prod.ext (by decide +kernel) rfl, triple_of _⟩

theorem test_FabricCommands_13 :
    ∃ (s : State) (m : Master) (unit : Fin 4) (v : Word) (d : RegDef),
        Accepts s m (cdcPage unit.val) 0x80 (setBit v 1 true) (cdcCtrlCond m unit.val (setBit v 1 true)) d :=
  ⟨awake, .warden, 0, 0, regAt (cdcPage 0) 0x80, accepts_of (by decide +kernel)⟩

theorem test_FabricCommands_14 :
    ∃ (s : State) (m : Master) (v : Word) (d : RegDef), Accepts s m 0x70 0x8C (setBit v 0 true) noCond d :=
  ⟨awake, .warden, 0, regAt 0x70 0x8C, accepts_of (by decide +kernel)⟩
end G08

/-! ## Witnesses: Storage and media care -/

namespace G09

/-- The device in an activation of slot 2 that hands cells over, whose cells from 12 up already run the new slot. -/
def handingOver (lo : Nat) : State :=
  { awake with
    fabric := { awake.fabric with roles := (List.range 41).map fun d => (⟨if d = 40 then 7 else 0, 0, if lo ≤ d then 1 else 0, 255⟩ : Role) }
    host := { awake.host with fw := { awake.host.fw with commit := some ⟨⟨0, 0, 7⟩, 3, 2, 1⟩ } } }

/-- The device with a reassignment of cell 16 at a step. -/
def moving16 (step : Nat) : State :=
  { awake with fabric := { awake.fabric with reassign := [⟨16, step, ⟨6, 0, 0, 1⟩, ⟨0, 0, 0, 0⟩⟩] } }

/-- An activation that holds the Evidential pause over cell 3 for 900 µs. -/
def pausing : State :=
  { awake with
    pages := { awake.pages with dtime := 900 }
    fabric := { awake.fabric with reassign := [⟨3, 2, ⟨1, 0, 1, 1⟩, ⟨1, 0, 0, 1⟩⟩], pause := some 0 }
    host := { awake.host with fw := { awake.host.fw with commit := some ⟨⟨0, 0, 7⟩, 3, 2, 1⟩ } } }

/-- What the timeout makes of the cells of the pause. -/
def paused (k : Commit) (s : State) : State :=
  (List.range 12).foldl (fun (s : State) n => s.takeBack (Fin.ofNat 41 n) { s.role (Fin.ofNat 41 n) with slot := 1 - k.rent }) s

/-- Cell 0 waits for a word of DRAM that has come. -/
def loading : State := { celled (opWord 0x9 0 0 1) (fun k => (regs01 ⟨2, 0⟩ ⟨2, 64⟩ k).modRun fun r => { r with stall := .fabric }) with dram := { Dram.reset with served := [⟨0, 64, [9, 0, 0, 0], false⟩] } }

/-- Cell 0, which may reach the page buses, stores to a register of a codec unit. -/
def storing : State :=
  { celled (opWord 0xB 2 0 1) (fun k => regs01 ⟨2, 1⟩ ⟨2, 0xF0071080⟩ k) with fabric := { awake.fabric with roles := awake.fabric.roles.set 0 ⟨1, 0, 0, 255⟩ } }

/-- A transaction for a register of a page. -/
def flitReg (dst src kind aux : Nat) : Flit := ⟨dst, src, 0, kind, 0, 0, 0, 3, true, false, BitVec.ofNat 41 aux, [1, 0, 0, 0]⟩

/-- The translation layer changed. -/
def ftlOf (f : Ftl → Ftl) : State := { stored with ftl := f stored.ftl }

/-- An Evidential block in staging. -/
def aStaged : Staged := ⟨2, 0, 1, 0, 0, ⟨0, 1, 7⟩, 1, false, true, false⟩

/-- A block of the block table. -/
def aBlk (mode : Mode) (state stream : Nat) : Blk := ⟨0, mode, state, 1, stream, 0, false, 0, false⟩

/-- A journal page, both copies programmed. -/
def aPage : JPage := ⟨1, [], false, false, false, 0, true, true, false, none, none⟩

/-- A fine unit that has not been written for a minute. -/
def oldFine : State :=
  { ftlOf (fun f => { f with map := { f.map with coarse := [(0, 0x60000000)], groups := [0] } }) with
    pages := { stored.pages with dtime := 60000000 } }

/-- A block in use on die 16. -/
def usedBlk (mode : Mode) (stream : Nat) : State :=
  ftlOf fun f => { f with map := { f.map with blocks := [(16 * 4096 + 3, aBlk mode 2 stream)] } }

/-- A relocation whose ERASE record is durable. -/
def erasing : State := ftlOf fun f => { f with jseq := 1, relocs := [⟨.gc, 16, 3, 3, [], [], 0, 2⟩] }

/-- A patrol pass with page sets left to read. -/
def patrolling (l : List Nat) : State := { stored with care := { stored.care with patrol := some (1, l) } }

/-- A page set of the in-flight stripe journal, which the patrol reads. -/
def journalSet : State :=
  { patrolling [5] with
    media := { stored.media with flash := [(5, { tag := UnitTag.ofBytes [], hdr := none, parity := [], words := [0] })] }
    red := { stored.red with sifjSets := [(true, 0, 5)] } }

/-- The rebuild in a state. -/
def rebuilding (st : Nat) : State := { stored with red := { stored.red with rbState := st, die1 := some 5, failed := [5] } }

/-- The in-flight stripe journal once a rebuild has ended. -/
def rebuilt : State := ({ rebuilding 2 with red := { (rebuilding 2).red with rbState := 4 } } : State).writeSifj

theorem test_CellReassignment_0 :
    ∃ (s : State) (c : CellId) (r : Role), s.pageOn 0x70 = true ∧ s.power.flush = 0 ∧ s.moving c.val = false ∧ s.badRole c.val r = false ∧ r.allow ≤ 255 ∧
        r.fn ≤ 15 ∧ r.slot = (s.role c).slot ∧ ((c.val = 12 → s.moving 13 = false)) ∧ ((c.val = 13 → s.moving 12 = false)) :=
  ⟨awake, 16, ⟨6, 0, 0, 1⟩, by decide +kernel, rfl, by decide +kernel, by decide +kernel, by decide +kernel, by decide +kernel, rfl, by decide +kernel⟩

theorem test_CellReassignment_1 :
    ∃ (s : State) (c : CellId) (r : Role) (k : Commit), s.pageOn 0x70 = true ∧ s.power.flush = 0 ∧ s.moving c.val = false ∧ s.badRole c.val r = false ∧
        r.allow ≤ 255 ∧ r.fn ≤ 15 ∧ r.slot ≠ (s.role c).slot ∧ s.handing = some k ∧ r = { s.role c with slot := k.rent } ∧ s.turn k c.val = true ∧
        11 < c.val :=
  ⟨handingOver 17, 16, ⟨0, 0, 1, 255⟩, ⟨⟨0, 0, 7⟩, 3, 2, 1⟩, by decide +kernel, rfl, by decide +kernel, by decide +kernel, by decide +kernel,
      by decide +kernel, by decide +kernel, rfl, by decide +kernel⟩

theorem test_CellReassignment_2 :
    ∃ (s : State) (c : CellId) (r : Role) (k : Commit), s.pageOn 0x70 = true ∧ s.power.flush = 0 ∧ s.moving c.val = false ∧ s.badRole c.val r = false ∧
        r.allow ≤ 255 ∧ r.fn ≤ 15 ∧ r.slot ≠ (s.role c).slot ∧ s.handing = some k ∧ r = { s.role c with slot := k.rent } ∧ s.turn k c.val = true ∧
        c.val ≤ 11 ∧ (List.range 12).any s.moving = false :=
  ⟨handingOver 12, 3, ⟨0, 0, 1, 255⟩, ⟨⟨0, 0, 7⟩, 3, 2, 1⟩, by decide +kernel, rfl, by decide +kernel, by decide +kernel, by decide +kernel,
      by decide +kernel, by decide +kernel, rfl, by decide +kernel⟩

theorem test_CellReassignment_3 :
    ∃ (s : State) (c : CellId) (x : Reassign) (v : State), (s.fabric.reassign.find? fun x => x.cell == c.val && x.step == 2) = some x ∧
        s.pageOn 0x70 = true ∧ s.power.flush = 0 ∧ s.drained x = true ∧ v = (s.sendFence c).rewriteCell c x.target :=
  ⟨moving16 2, 16, ⟨16, 2, ⟨6, 0, 0, 1⟩, ⟨0, 0, 0, 0⟩⟩, ((moving16 2).sendFence 16).rewriteCell 16 ⟨6, 0, 0, 1⟩, rfl, by decide +kernel, rfl,
      by decide +kernel, rfl⟩

theorem test_CellReassignment_4 :
    ∃ (s : State) (c : CellId) (u : State), s.pageOn 0x70 = true ∧ s.power.flush = 0 ∧
        (s.fabric.reassign.any fun x => x.cell == c.val && x.step == 6) = true ∧ u = (if c = 40 then (s.cellReady c).serveHeld else s.cellReady c) ∧
        u.host.fw.commit = none ∧ u.fabric.pause = none :=
  ⟨moving16 6, 16, (moving16 6).cellReady 16, by decide +kernel, rfl, by decide +kernel, rfl, by decide +kernel⟩

theorem test_CellReassignment_5 :
    ∃ (s : State) (t0 : BitVec 64) (k : Commit) (v : State), s.fabric.pause = some t0 ∧ s.host.fw.commit = some k ∧ 900 ≤ (s.pages.dtime - t0).toNat ∧
        s.power.flush = 0 ∧ (List.range 12).any s.moving = true ∧
        v = (List.range 12).foldl (fun (s : State) n => s.takeBack (Fin.ofNat 41 n) { s.role (Fin.ofNat 41 n) with slot := 1 - k.rent }) s :=
  ⟨pausing, 0, ⟨⟨0, 0, 7⟩, 3, 2, 1⟩, paused ⟨⟨0, 0, 7⟩, 3, 2, 1⟩ pausing, rfl, rfl, by decide +kernel, rfl, by decide +kernel, rfl⟩

theorem test_CellReassignment_6 :
    ∃ (i : Iss) (tg : BitVec 2) (rd : BitVec 4) (ra : BitVec 4) (s : State) (u : State) (x : TWord) (a : Nat) (k : Nat) (r : Served) (v : State),
        Issues s i (opWord 0x9 tg rd ra) u ∧ Affords s i 1 ∧ (u.cell i.cell).reg ra = x ∧ isIdx x.tag = true ∧ a = x.val.toNat ∧
        pmode (u.cell i.cell) = false ∧ (u.cell i.cell).run.stall = .fabric ∧ (((∃ d, u.target i.cell a = .dram d ∧ a % 4 = 0 ∧ k = d) ∨ ∃ p off,
        u.target i.cell a = .page p off ∧ k = pageKey a)) ∧ u.takeServed i.cell.val k = some (r, v) :=
  ⟨i0, 0, 0, 1, loading, into loading i0 (opWord 0x9 0 0 1), ⟨2, 64⟩, 64, 64, ⟨0, 64, [9, 0, 0, 0], false⟩,
      (((into loading i0 (opWord 0x9 0 0 1)).takeServed 0 64).getD (⟨0, 0, [], false⟩, loading)).2, issues_of (by decide +kernel) (by decide +kernel),
      fun h => absurd h (by decide +kernel), rfl, by decide +kernel, by decide +kernel, by decide +kernel, by decide +kernel, Or.inl ⟨64,
      by decide +kernel⟩, some_pair _ _ (by decide +kernel)⟩

theorem test_CellReassignment_7 :
    ∃ (i : Iss) (rs : BitVec 4) (ra : BitVec 4) (s : State) (u : State) (w : TWord) (x : TWord) (a : Nat) (p : Nat) (off : Nat) (v : State),
        Issues s i (opWord 0xB 2 rs ra) u ∧ Affords s i 2 ∧ (u.cell i.cell).reg rs = w ∧ (u.cell i.cell).reg ra = x ∧ isOut w.tag = true ∧
        isIdx x.tag = true ∧ a = x.val.toNat ∧ pmode (u.cell i.cell) = false ∧ u.target i.cell a = .page p off ∧ u.cellRoute i.cell (pageNode p) = true ∧
        u.writePage (cellMaster i.cell) p off 32 w.val = (v, .ok) :=
  ⟨i0, 0, 1, storing, into storing i0 (opWord 0xB 2 0 1), ⟨2, 1⟩, ⟨2, 0xF0071080⟩, 0xF0071080, 0x071, 0x80,
      ((into storing i0 (opWord 0xB 2 0 1)).writePage (.cell 0) 0x071 0x80 32 1).1, issues_of (by decide +kernel) (by decide +kernel),
      fun h => absurd h (by decide +kernel), rfl, rfl, by decide +kernel, by decide +kernel, by decide +kernel, by decide +kernel, by decide +kernel,
      by decide +kernel, Prod.ext rfl (by decide +kernel)⟩

theorem test_CellReassignment_8 :
    ∃ (s : State) (f : Flit) (m : Master) (p : Nat) (off : Nat) (v : Word) (t0 : State), s.pageOn 0x70 = true ∧ s.routes { f with kind := 2 } = true ∧
        nodeMaster f.src = some m ∧ flitPage f = some (p, off) ∧ s.readPage m p off (8 * (f.nb % 64 + 1)) = (.inl v, t0) :=
  ⟨awake, flitReg 0x54 0x50 2 0x8C, .pf, 0, 0x8C, ((awake.readPage .pf 0 0x8C 32).1.getLeft?).getD 0, (awake.readPage .pf 0 0x8C 32).2,
      by decide +kernel, by decide +kernel, rfl, rfl, Prod.ext (by decide +kernel) rfl⟩

theorem test_CellReassignment_9 :
    ∃ (s : State) (f : Flit) (m : Master) (p : Nat) (off : Nat), s.pageOn 0x70 = true ∧ s.routes { f with kind := 4 } = true ∧ nodeMaster f.src = some m ∧
        flitPage f = some (p, off) :=
  ⟨awake, flitReg 0x54 0x50 4 0x8C, .pf, 0, 0x8C, by decide +kernel, by decide +kernel, rfl, rfl⟩

theorem test_StorageCommands_0 :
    ∃ (s : State) (die : Die) (x : Staged) (u : State), s.fabric.pause = none ∧ s.commitParked = u ∧ u.fabric.pause = none ∧ u.usable die.val = true ∧
        u.power.flush = 0 ∧ u.power.vccq = true ∧ u.quiet die.val = true ∧ u.evidNext = some x ∧ u.spaced die.val = true :=
  ⟨ftlOf fun f => { f with staging := [aStaged] }, 0, aStaged, (ftlOf fun f => { f with staging := [aStaged] }).commitParked, rfl, rfl,
      by decide +kernel, by decide +kernel, rfl, by decide +kernel, by decide +kernel, rfl, by decide +kernel⟩

theorem test_StorageCommands_1 :
    ∃ (s : State) (die : Die) (u : State), s.fabric.pause = none ∧ s.commitParked = u ∧ u.fabric.pause = none ∧ u.usable die.val = true ∧
        u.power.flush = 0 ∧ u.power.vccq = true ∧ u.quiet die.val = false :=
  ⟨stored, 2, stored.commitParked, rfl, rfl, by decide +kernel, by decide +kernel, rfl, by decide +kernel⟩

theorem test_StorageCommands_2 :
    ∃ (s : State), s.ftl.jbuf.isEmpty = false ∧ s.ftl.jbufT + 2000000 ≤ s.ns :=
  ⟨{ ftlOf (fun f => { f with jbuf := [.pad] }) with pages := { stored.pages with dtime := 2000 } }, rfl, by decide +kernel⟩

theorem test_StorageCommands_3 :
    ∃ (s : State), (s.ftl.jbuf.isEmpty = true ∨ s.ns < s.ftl.jbufT + 2000000) :=
  ⟨stored, Or.inl rfl⟩

theorem test_StorageCommands_4 :
    ∃ (s : State) (p : JPage) (v : State), (s.ftl.jpages.find? fun p => !p.durable) = some p ∧ p.copyA = true ∧ p.copyB = true ∧
        v = (({ s with ftl := { s.ftl with jpages := s.ftl.jpages.map (fun q => if q.jseq = p.jseq then { q with durable := true } else q) } } : State).completeCkpt p).reusePages.freeRegion :=
  ⟨ftlOf fun f => { f with jpages := [aPage] }, aPage,
      (({ ftlOf (fun f => { f with jpages := [aPage] }) with ftl := { stored.ftl with jpages := [{ aPage with durable := true }] } } : State).completeCkpt aPage).reusePages.freeRegion,
      rfl, rfl, rfl, rfl⟩

theorem test_StorageCommands_5 :
    ∃ (s : State), s.ftl.ckptRun = none ∧ ((4096 ≤ s.tail ∨ 600000000 ≤ (s.pages.dtime - s.ftl.ckptT).toNat)) :=
  ⟨{ stored with pages := { stored.pages with dtime := 600000000 } }, rfl, by decide +kernel⟩

theorem test_StorageCommands_6 :
    ∃ (s : State), s.ftl.ckptRun.isSome = true :=
  ⟨ftlOf fun f => { f with ckptRun := some (0, ⟨0, f.map, true, [], []⟩) }, rfl⟩

theorem test_StorageCommands_7 :
    ∃ (s : State) (u : Nat) (n : Nat) (l : Nat), s.nsOfUnit u = some (n, l) ∧ s.demotable u = true :=
  ⟨oldFine, 0, 2, 0, by decide +kernel⟩

theorem test_StorageCommands_8 :
    ∃ (s : State) (die : Die) (block : Nat), s.victim = some (die.val, block) :=
  ⟨usedBlk .tlc stNative, 16, 3, by decide +kernel⟩

theorem test_StorageCommands_9 :
    ∃ (s : State) (die : Die) (block : Nat) (u : State), s.stepReloc die.val block = u ∧
        (u.ftl.relocs.any fun r => r.ofBlock die.val block && r.stage == 2 && decide (r.jseq.toNat < u.ftl.jseq.toNat) && u.ftl.jpages.all fun p => p.durable || decide (r.jseq.toNat < p.jseq.toNat)) = true ∧
        (u.validIn die.val block).isEmpty = true ∧ u.inUse die.val block = false ∧ (u.blk die.val block).state ≠ 5 :=
  ⟨erasing, 16, 3, erasing.stepReloc 16 3, rfl, by decide +kernel⟩

theorem test_StorageCommands_10 :
    ∃ (s : State) (die : Die) (block : Nat) (b : Blk) (low : Bool), s.blk die.val block = b ∧ b.state = 2 ∧ b.mode = .pslc ∧ b.stream ≠ stJournal ∧
        ((b.stream = stEvid → s.evidSource.isSome = true)) ∧ low = (s.reserveLow die.val && b.stream != stEvid) ∧
        (s.ftl.map.blocks.any fun x => x.2.foldsWith b && x.2.stream != stJournal && x.2.state == 2 && x.2.mode == .pslc && (!low || x.1 / 4096 == die.val) && decide (x.2.first.toNat < b.first.toNat) && !(s.ftl.relocs.any fun r => r.die == x.1 / 4096 && r.block == x.1 % 4096)) = false :=
  ⟨usedBlk .pslc stEvGen, 16, 3, aBlk .pslc 2 stEvGen, (usedBlk .pslc stEvGen).reserveLow 16 && (aBlk .pslc 2 stEvGen).stream != stEvid,
      by decide +kernel, rfl, rfl, by decide +kernel, by decide +kernel, rfl, by decide +kernel⟩

theorem test_StorageCommands_11 :
    ∃ (s : State), s.pageOn 0x090 = true ∧ ((s.care.patrol = none ∨ ∃ t, s.care.patrol = some (t, []) ∧ s.care.patrolPer ≤ s.passAge t)) :=
  ⟨stored, by decide +kernel⟩

theorem test_StorageCommands_12 :
    ∃ (s : State) (t0 : BitVec 64) (k : Nat) (l : List Nat), s.care.patrol = some (t0, k :: l) ∧ s.care.patrolPer ≤ s.passAge t0 ∧
        s.regBit MC_STAT 6 = false :=
  ⟨{ patrolling [5] with frl := { stored.frl with legal := some (5000000000000, 0, true) } }, 1, 5, [], rfl, by decide +kernel⟩

theorem test_StorageCommands_13 :
    ∃ (s : State) (ch : Chan) (way : Fin 8) (block : Nat) (page : Nat) (d : Nat) (unit : Nat) (t0 : BitVec 64) (rest : List Nat),
        d = 8 * ch.val + way.val ∧ unit = block * s.psBlk + page ∧ s.care.patrol = some (t0, (d * 2 ^ 22 + unit) :: rest) ∧ s.field? PWR_STAT 2 0 < 2 ∧
        s.patrols d unit = true ∧ (s.media.reqs.any fun r => r.owner == .patrol) = false :=
  ⟨journalSet, 0, 0, 0, 5, _, _, 1, [], rfl, rfl, rfl, by decide +kernel⟩

theorem test_StorageCommands_14 :
    ∃ (s : State) (m : Master) (v : Word) (d : RegDef), Accepts s m 0x091 0x84 (setBit v 31 true) (redFailCond m (setBit v 31 true)) d :=
  ⟨stored, .warden, 5, regAt 0x091 0x84, accepts_of (by decide +kernel)⟩

theorem test_StorageCommands_15 :
    ∃ (s : State) (m : Master) (v : Word) (d : RegDef), Accepts s m 0x091 0x80 (setBit v 0 true) noCond d :=
  ⟨stored, .warden, 0, regAt 0x091 0x80, accepts_of (by decide +kernel)⟩

theorem test_StorageCommands_16 :
    ∃ (s : State), s.pageOn 0x091 = true :=
  ⟨stored, by decide +kernel⟩

theorem test_StorageCommands_17 :
    ∃ (s : State), s.red.rbState = 1 ∧ s.red.rbAfter ≤ s.ns :=
  ⟨rebuilding 1, rfl, by decide +kernel⟩

theorem test_StorageCommands_18 :
    ∃ (s : State) (v : State) (w : State), ((s.red.rbState = 1 ∨ s.red.rbState = 2)) ∧ s.red.todo = [] ∧ s.rebuilding = false ∧
        ({ s with red := { s.red with rbState := 4 } } : State).writeSifj = v ∧ (if v.ftl.ckptRun.isSome then v else v.ckptStep 3) = w :=
  ⟨rebuilding 2, rebuilt, if rebuilt.ftl.ckptRun.isSome then rebuilt else rebuilt.ckptStep 3, by decide +kernel, rfl, rfl, rfl, rfl⟩
end G09

/-! ## Witnesses: Media -/

namespace G10

/-- The device with a step of the quiet rotation. -/
def rotating (r : Option Rotation) : State := { stored with media := { stored.media with rot := r } }

/-- The rotation of ways 2 and 3 in place of 0 and 1. -/
def aRot (begun : Bool) : Rotation := ⟨[2, 3], [0, 1], 0, begun, false⟩

/-- A media operation on die 2, and the device with it and its descriptor in the hand of channel 0. -/
def aReq (op : Nat) (ph : ReqPhase) : Req := { readReq 2 5 .tlc 1 .drain [] with op := op, phase := ph }
def aDesc (op : Nat) : Desc := ⟨op, 2, 1, 0, 1, 0, 0, 0, 0, 0⟩
def asked (op : Nat) (ph : ReqPhase) : State :=
  { stored with media := { stored.media with
      reqs := [aReq op ph]
      chans := at' stored.media.chans 0 fun c => { c with seq := { c.seq with desc := some (aDesc op), todo := ph == .handed } } } }

/-- The device with die 2 changed. -/
def dieOf (op : Nat) (f : DieSt → DieSt) : State := (asked op .handed).modDie 2 f

/-- A word of microcode with even parity, and channel 0 at work on it. -/
def seqWord (n : Nat) : Word := let w := BitVec.ofNat 32 n; if evenParity w then w else w ||| 1
def seqForm (k : Nat) : Word := seqWord (k * 2 ^ 26 + if k = 7 then 2 else 0)
def sequencing (w : Word) : State :=
  { stored with media := { stored.media with
      chans := at' stored.media.chans 0 fun c => { c with seq := { c.seq with active := true, stack := [5], store := [(0, w)] } } } }

theorem at_word (k : Nat) (h : k < 13) : AtWord (sequencing (seqForm k)) 0 (seqForm k) := by
  have : ∀ k < 13, ((sequencing (seqForm k)).chan 0).seq.word = seqForm k ∧ (sequencing (seqForm k)).pageOn (mchPage 0) = true ∧
      (sequencing (seqForm k)).regBit (MCH_CTRL 0) 0 = true ∧ ((sequencing (seqForm k)).chan 0).seq.active = true ∧
      ((sequencing (seqForm k)).chan 0).seq.wait ≠ some 0 ∧ ((sequencing (seqForm k)).chan 0).seq.fault = 0 ∧ bit (seqForm k) 31 = false := by
    decide +kernel
  exact this k h

/-- Channel 0 at a word that no row of the microcode spells. -/
def badWord : Word := seqWord (13 * 2 ^ 26)

theorem test_MediaCommands_0 :
    ∃ (s : State), s.power.flush = 0 ∧ s.mainOn = true ∧ s.start.phase ≠ .starting :=
  ⟨stored, rfl, rfl, by decide +kernel⟩

theorem test_MediaCommands_1 :
    ∃ (s : State), s.power.flush = 1 ∧ s.regBit KEY_STAT 3 = false ∧ s.power.vccq = true :=
  ⟨{ stored with power := { stored.power with flush := 1 } }, rfl, by decide +kernel, rfl⟩

theorem test_MediaCommands_2 :
    ∃ (s : State), ((s.red.rbState = 1 ∨ s.red.rbState = 2)) :=
  ⟨{ stored with red := { stored.red with rbState := 1 } }, by decide +kernel⟩

theorem test_MediaCommands_3 :
    ∃ (s : State) (r : Rotation), s.media.rot = some r ∧ r.begun = false ∧ r.after ≤ s.ns :=
  ⟨rotating (some (aRot false)), aRot false, rfl, rfl, by decide +kernel⟩

theorem test_MediaCommands_4 :
    ∃ (s : State) (a : Nat) (b : Nat), s.media.rot = none ∧ s.media.quiet = [a, b] ∧ 4 < s.media.ways ∧
        s.field? MSQ_CTRL 23 16 * 1000000 ≤ (s.pages.dtime - s.media.lastRot).toNat :=
  ⟨{ rotating none with pages := { stored.pages with dtime := 0x1000000000 } }, 0, 1, rfl, rfl, by decide +kernel⟩

theorem test_MediaCommands_5 :
    ∃ (s : State) (r : Rotation) (quiet : List Nat), s.media.rot = some r ∧ r.begun = true ∧ r.again = false ∧ r.joining.any s.wayBusy = false ∧
        quiet = (s.media.quiet.filter fun w => !r.leaving.contains w) ++ r.joining :=
  ⟨rotating (some (aRot true)), aRot true, [2, 3], rfl, rfl, rfl, by decide +kernel, rfl⟩

theorem test_MediaCommands_6 :
    ∃ (s : State) (die : Die) (r : Req) (u : State),
        (if (s.chan (die.val / 8)).reload && s.pageOn (mchPage (die.val / 8)) then s.reloadSeq (die.val / 8) else s) = u ∧ u.power.flush = 0 ∧
        u.power.vccq = true ∧ u.pageOn 0x090 = true ∧ (u.dieSt die.val).attached = true ∧
        (u.media.reqs.find? fun r => r.die == die.val && r.phase == .recon && !u.reconBusy r.id) = none ∧ u.red.failed.contains die.val = false ∧
        u.regBit (MCH_CTRL (die.val / 8)) 0 = true ∧ (u.chan (die.val / 8)).seq.todo = false ∧ (u.dieSt die.val).lunReset = none ∧
        (u.dieSt die.val).state = 0 ∧ (u.dieSt die.val).susp = false ∧
        u.firstOf ((u.media.reqs.filter fun r => r.die == die.val && r.phase == .queued).filter u.mayIssue) = some r :=
  ⟨asked 1 .queued, 2, aReq 1 .queued, asked 1 .queued, rfl, rfl, rfl, by decide +kernel⟩

theorem test_MediaCommands_7 :
    ∃ (s : State) (die : Die) (r : Req) (u : State),
        (if (s.chan (die.val / 8)).reload && s.pageOn (mchPage (die.val / 8)) then s.reloadSeq (die.val / 8) else s) = u ∧ u.power.flush = 0 ∧
        u.power.vccq = true ∧ u.pageOn 0x090 = true ∧ (u.dieSt die.val).attached = true ∧
        (u.media.reqs.find? fun r => r.die == die.val && r.phase == .recon && !u.reconBusy r.id) = some r :=
  ⟨asked 1 .recon, 2, aReq 1 .recon, asked 1 .recon, rfl, rfl, rfl, by decide +kernel⟩

theorem test_MediaCommands_8 :
    ∃ (s : State) (ch : Chan) (r : Req) (v : State), s.handed ch.val 1 = some r ∧ s.takeBuf ch.val r.id = some v :=
  ⟨asked 1 .handed, 0, aReq 1 .handed, ((asked 1 .handed).takeBuf 0 0).getD stored, by decide +kernel, some_of stored (by decide +kernel)⟩

theorem test_MediaCommands_9 :
    ∃ (s : State) (ch : Chan) (r : Req) (v : State), s.handed ch.val 2 = some r ∧ s.takeBuf ch.val r.id = some v :=
  ⟨asked 2 .handed, 0, aReq 2 .handed, ((asked 2 .handed).takeBuf 0 0).getD stored, by decide +kernel, some_of stored (by decide +kernel)⟩

theorem test_MediaCommands_10 :
    ∃ (s : State) (ch : Chan) (r : Req), s.handed ch.val 3 = some r :=
  ⟨asked 3 .handed, 0, aReq 3 .handed, by decide +kernel⟩

theorem test_MediaCommands_11 :
    ∃ (s : State) (ch : Chan) (d : Desc), s.handedDesc ch.val 4 = some d :=
  ⟨asked 4 .handed, 0, aDesc 4, by decide +kernel⟩

theorem test_MediaCommands_12 :
    ∃ (s : State) (ch : Chan), (s.chan ch.val).seq.todo = false ∧ s.regBit (MCH_CTRL ch.val) 0 = true :=
  ⟨stored, 0, by decide +kernel⟩

theorem test_MediaCommands_13 :
    ∃ (s : State) (ch : Chan) (d : Desc) (die : Nat) (st : DieSt), s.handedDesc ch.val 6 = some d ∧ die = 8 * ch.val + d.way ∧ s.dieSt die = st ∧
        ((st.state = 2 ∨ st.state = 3)) :=
  ⟨dieOf 6 fun x => { x with state := 2, req := some 9 }, 0, aDesc 6, 2, { readyDie with state := 2, req := some 9 }, by decide +kernel⟩

theorem test_MediaCommands_14 :
    ∃ (s : State) (ch : Chan) (d : Desc) (die : Nat) (st : Nat) (id : Nat) (run : Nat) (v : State), s.handedDesc ch.val 7 = some d ∧
        die = 8 * ch.val + d.way ∧ s.modSeq ch.val (fun q => { q with todo := false }) = v ∧ (v.dieSt die).paused = some (st, id, run) :=
  ⟨dieOf 7 fun x => { x with paused := some (2, 9, 100) }, 0, aDesc 7, 2, 2, 9, 100,
      (dieOf 7 fun x => { x with paused := some (2, 9, 100) }).modSeq 0 fun q => { q with todo := false }, by decide +kernel, by decide +kernel, rfl,
      by decide +kernel⟩

theorem test_MediaCommands_15 :
    ∃ (s : State) (die : Die), (s.squall.scaled.any fun x => x.1 == die.val) = false ∧
        ((s.dieSt die.val).lunReset.any fun t => decide (10000 < (s.pages.dtime - t).toNat)) = false ∧ (s.dieSt die.val).state ≠ 0 ∧
        (s.dieSt die.val).scale = 0 :=
  ⟨stored.modDie 2 fun x => { x with state := 1 }, 2, by decide +kernel⟩

theorem test_MediaCommands_16 :
    ∃ (s : State) (die : Nat) (x : Nat × Nat × DieResult), (s.squall.scaled.find? fun x => x.1 == die) = some x ∧ x.2.1 ≤ s.ns :=
  ⟨{ stored with squall := { stored.squall with scaled := [(2, 0, .done)] } }, 2, (2, 0, .done), by decide +kernel⟩

theorem test_MediaCommands_17 :
    ∃ (s : State) (die : Die) (st : DieSt), s.dieSt die.val = st ∧ st.paused = none ∧ st.state ≠ 0 ∧ st.lunReset = none ∧
        3 * s.opTime st ≤ ((s.ns - st.started : Nat) : Rat) ∧ s.handedDesc (die.val / 8) 4 = none :=
  ⟨{ stored.modDie 2 (fun x => { x with state := 1 }) with pages := { stored.pages with dtime := 0x1000000000 } }, 2, { readyDie with state := 1 },
      by decide +kernel, rfl, by decide +kernel, rfl, by decide +kernel⟩

theorem test_MediaCommands_18 :
    ∃ (s : State) (die : Die) (t0 : BitVec 64), (s.dieSt die.val).lunReset = some t0 ∧ 10000 ≤ (s.pages.dtime - t0).toNat :=
  ⟨{ stored.modDie 2 (fun x => { x with lunReset := some 0 }) with pages := { stored.pages with dtime := 10000 } }, 2, 0, by decide +kernel⟩

theorem test_MediaCommands_19 :
    ∃ (s : State) (ch : Chan) (buf : Fin 2) (id : Nat) (next : Option Nat), (s.chan ch.val).bufs.getD buf.val none = some id ∧ ((∀ r, s.req? id = some r →
        r.phase ≠ .handed ∧ (r.op = 1 → r.phase ≠ .running ∧ r.phase ≠ .queued))) ∧
        next = (firstReq ((s.chan ch.val).waits.filterMap fun n => s.req? n)).map (fun r => r.id) :=
  ⟨stored.modChan 0 fun c => { c with bufs := [some 0, none] }, 0, 0, 0, none, by decide +kernel, fun r h => by simp [State.req?, stored, hosted, awake,
      Media.reset, State.modChan, State.reset] at h, by decide +kernel⟩

theorem test_SequencerCommands_0 :
    ∃ (s : State) (ch : Chan) (w : Word), AtWord s ch w ∧ lop w = 0 :=
  ⟨sequencing (seqForm 0), 0, seqForm 0, at_word 0 (by decide), by decide +kernel⟩

theorem test_SequencerCommands_1 :
    ∃ (s : State) (ch : Chan) (w : Word) (a : BitVec 12), AtWord s ch w ∧ lop w = 1 ∧ a.toNat = bits w 12 1 :=
  ⟨sequencing (seqForm 1), 0, seqForm 1, BitVec.ofNat 12 (bits (seqForm 1) 12 1), at_word 1 (by decide), by decide +kernel⟩

theorem test_SequencerCommands_2 :
    ∃ (s : State) (ch : Chan) (w : Word) (c : BitVec 4) (a : BitVec 12), AtWord s ch w ∧ lop w = 2 ∧ c.toNat = bits w 16 13 ∧ a.toNat = bits w 12 1 :=
  ⟨sequencing (seqForm 2), 0, seqForm 2, BitVec.ofNat 4 (bits (seqForm 2) 16 13), BitVec.ofNat 12 (bits (seqForm 2) 12 1), at_word 2 (by decide),
      by decide +kernel⟩

theorem test_SequencerCommands_3 :
    ∃ (s : State) (ch : Chan) (w : Word) (a : BitVec 12), AtWord s ch w ∧ lop w = 3 ∧ a.toNat = bits w 12 1 :=
  ⟨sequencing (seqForm 3), 0, seqForm 3, BitVec.ofNat 12 (bits (seqForm 3) 12 1), at_word 3 (by decide), by decide +kernel⟩

theorem test_SequencerCommands_4 :
    ∃ (s : State) (ch : Chan) (w : Word), AtWord s ch w ∧ lop w = 4 :=
  ⟨sequencing (seqForm 4), 0, seqForm 4, at_word 4 (by decide), by decide +kernel⟩

theorem test_SequencerCommands_5 :
    ∃ (s : State) (ch : Chan) (w : Word) (n : BitVec 16), AtWord s ch w ∧ lop w = 5 ∧ n.toNat = bits w 16 1 :=
  ⟨sequencing (seqForm 5), 0, seqForm 5, BitVec.ofNat 16 (bits (seqForm 5) 16 1), at_word 5 (by decide), by decide +kernel⟩

theorem test_SequencerCommands_6 :
    ∃ (s : State) (ch : Chan) (w : Word) (a : BitVec 12), AtWord s ch w ∧ lop w = 6 ∧ a.toNat = bits w 12 1 :=
  ⟨sequencing (seqForm 6), 0, seqForm 6, BitVec.ofNat 12 (bits (seqForm 6) 12 1), at_word 6 (by decide), by decide +kernel⟩

theorem test_SequencerCommands_7 :
    ∃ (s : State) (ch : Chan) (w : Word), AtWord s ch w ∧ lop w = 7 :=
  ⟨sequencing (seqForm 7), 0, seqForm 7, at_word 7 (by decide), by decide +kernel⟩

theorem test_SequencerCommands_8 :
    ∃ (s : State) (ch : Chan) (w : Word), AtWord s ch w ∧ lop w = 8 :=
  ⟨sequencing (seqForm 8), 0, seqForm 8, at_word 8 (by decide), by decide +kernel⟩

theorem test_SequencerCommands_9 :
    ∃ (s : State) (ch : Chan) (w : Word), AtWord s ch w ∧ lop w = 9 :=
  ⟨sequencing (seqForm 9), 0, seqForm 9, at_word 9 (by decide), by decide +kernel⟩

theorem test_SequencerCommands_10 :
    ∃ (s : State) (ch : Chan) (w : Word) (q : Sequencer), AtWord s ch w ∧ lop w = 10 ∧ (s.chan ch.val).seq = q :=
  ⟨sequencing (seqForm 10), 0, seqForm 10, ((sequencing (seqForm 10)).chan 0).seq, at_word 10 (by decide), by decide +kernel, rfl⟩

theorem test_SequencerCommands_11 :
    ∃ (s : State) (ch : Chan) (w : Word) (q : Sequencer), AtWord s ch w ∧ lop w = 11 ∧ (s.chan ch.val).seq = q :=
  ⟨sequencing (seqForm 11), 0, seqForm 11, ((sequencing (seqForm 11)).chan 0).seq, at_word 11 (by decide), by decide +kernel, rfl⟩

theorem test_SequencerCommands_12 :
    ∃ (s : State) (ch : Chan) (w : Word), AtWord s ch w ∧ lop w = 12 :=
  ⟨sequencing (seqForm 12), 0, seqForm 12, at_word 12 (by decide), by decide +kernel⟩

theorem test_SequencerCommands_13 :
    ∃ (s : State) (ch : Chan) (q : Sequencer) (w : Word), (s.chan ch.val).seq = q ∧ q.word = w ∧ s.pageOn (mchPage ch.val) = true ∧
        s.regBit (MCH_CTRL ch.val) 0 = true ∧ q.active = true ∧ q.wait ≠ some 0 ∧ q.fault ≠ 0 ∧ bit w 31 = false ∧ 12 < lop w :=
  ⟨sequencing badWord, 0, ((sequencing badWord).chan 0).seq, badWord, by decide +kernel⟩

theorem test_SequencerCommands_14 :
    ∃ (s : State) (ch : Chan) (q : Sequencer) (w : Word), (s.chan ch.val).seq = q ∧ q.word = w ∧ s.pageOn (mchPage ch.val) = true ∧
        s.regBit (MCH_CTRL ch.val) 0 = true ∧ q.active = true ∧ q.wait ≠ some 0 ∧ bit w 31 = true :=
  ⟨sequencing (seqWord 0x80000000), 0, ((sequencing (seqWord 0x80000000)).chan 0).seq, seqWord 0x80000000, by decide +kernel⟩

theorem test_SequencerCommands_15 :
    ∃ (s : State) (ch : Chan), s.regBit (MCH_CTRL ch.val) 0 = true ∧ (s.chan ch.val).seq.active = true ∧ (s.chan ch.val).seq.wait = some 0 :=
  ⟨(sequencing 0).modSeq 0 fun q => { q with wait := some 0 }, 0, by decide +kernel⟩

theorem test_SequencerCommands_16 :
    ∃ (s : State) (m : Master) (ch : Chan) (v : Word) (d : RegDef) (u : State),
        Accepts s m (mchPage ch.val) 0x80 (setBit v 1 true) (mchCtrlCond m ch.val (setBit v 1 true)) d ∧
        u = (s.arrive m).store (MCH_CTRL ch.val) (setBit v 1 true) d :=
  ⟨stored.setReg (MCH_CTRL 0) 4, .warden, 0, 0, regAt (mchPage 0) 0x80, _, accepts_of (by decide +kernel), rfl⟩

theorem test_SequencerCommands_17 :
    ∃ (s : State) (m : Master) (ch : Chan) (v : Word) (d : RegDef), Accepts s m (mchPage ch.val) 0x8C v (usdataCond m ch.val v) d :=
  ⟨stored.setReg (MCH_CTRL 0) 4, .warden, 0, 5, regAt (mchPage 0) 0x8C, accepts_of (by decide +kernel)⟩

theorem test_SequencerCommands_18 :
    ∃ (s : State) (m : Master) (ch : Chan) (d : RegDef), Reaches s m (mchPage ch.val) 0x8C d :=
  ⟨stored, .pf, 0, regAt (mchPage 0) 0x8C, reaches_of (by decide +kernel)⟩
end G10

/-! ## Witnesses: Search -/

namespace G11

/-- The search engine ready, bank 0 in index mode with entries, and a search job of cell 0. -/
def sJob (w0 : Word) (rest : List TWord) : Job := ⟨.uns w0 :: rest, 16, none, 0, [], false⟩
def ent5 : Entry := ⟨5, 0xFF, 77, 3⟩
def searching (j : Job) (f : Bank → Bank) : State :=
  let s : State := { awake with
    cells := at' awake.cells 0 fun k => { k with
      ports := [⟨true, 0, some j⟩, .idle, .idle, .idle]
      su0 := { SuSlot.idle with active := true, op := 1, length := 48, d := 48 }, su1 := { SuSlot.idle with active := true, op := 1, length := 16 } }
    search := { awake.search with banks := at' awake.search.banks 0 fun k => f { k with ents := [(0, ent5)] } } }
  (s.setReg SRC_STAT 0).setReg (SRB_CTRL 0) 0x30

/-- An insertion. -/
def e3 : Entry := { key := (sJob 0x13 ([.uns 6, .uns 0, .uns 0, .uns 0, .uns 0, .uns 0xFF, .uns 0, .uns 0, .uns 0, .uns 0, .uns 9, .uns 0])).key144 1 &&& (sJob 0x13 ([.uns 6, .uns 0, .uns 0, .uns 0, .uns 0, .uns 0xFF, .uns 0, .uns 0, .uns 0, .uns 0, .uns 9, .uns 0])).key144 6, care := (sJob 0x13 ([.uns 6, .uns 0, .uns 0, .uns 0, .uns 0, .uns 0xFF, .uns 0, .uns 0, .uns 0, .uns 0, .uns 9, .uns 0])).key144 6, data := (sJob 0x13 ([.uns 6, .uns 0, .uns 0, .uns 0, .uns 0, .uns 0xFF, .uns 0, .uns 0, .uns 0, .uns 0, .uns 9, .uns 0])).word 11, handle := ((searching (sJob 0x13 ([.uns 6, .uns 0, .uns 0, .uns 0, .uns 0, .uns 0xFF, .uns 0, .uns 0, .uns 0, .uns 0, .uns 9, .uns 0])) id).bank 0).freeHandle }

/-- A codec job that waits at unit 0, whose window is bank 0. -/
def windowing : State :=
  let s : State := awake.modCell 0 fun k => { k with
    ports := [.idle, ⟨true, 0, some (sJob 0 [mkHandle 1 0 0, mkHandle 2 1 0, .uns 2, .uns 8])⟩, .idle, .idle] }
  (s.setReg (CDC_CTRL 0) 0x10001).setReg (SRB_CTRL 0) 0x50

/-- A posted shadow write of bank 0. -/
def posting (waits : Nat) (restart : Option Nat) : State :=
  let s : State := searching (sJob 0 []) fun k => { k with waits := waits, restart := restart }
  { s with search := { s.search with posted := [(0, 3, .free)] } }
def posted (waits : Nat) (restart : Option Nat) : State :=
  (({ posting waits restart with search := { (posting waits restart).search with posted := [] } } : State).writeSlot 0 3 .free).modBank 0
    fun k => { k with waits := k.waits - 1 }

theorem test_SearchCommands_0 :
    ∃ (s : State) (c : CellId) (j : Job) (r : Found) (v : State), s.searchJob c 1 = some j ∧ s.heldSearch c (bits (j.word 0) 19 4) = false ∧
        s.searchFor c (bits (j.word 0) 19 4) (j.key144 1) = (r, v) :=
  ⟨searching (sJob 0x11 [.uns 5, .uns 0, .uns 0, .uns 0, .uns 0, .uns 0, .uns 0]) id, 0, sJob 0x11 [.uns 5, .uns 0, .uns 0, .uns 0, .uns 0, .uns 0,
      .uns 0], ((searching (sJob 0x11 [.uns 5, .uns 0, .uns 0, .uns 0, .uns 0, .uns 0, .uns 0]) id).searchFor 0 1 5).1, ((searching (sJob 0x11 [.uns 5,
      .uns 0, .uns 0, .uns 0, .uns 0, .uns 0, .uns 0]) id).searchFor 0 1 5).2, by decide +kernel, rfl, rfl⟩

theorem test_SearchCommands_1 :
    ∃ (s : State) (c : CellId) (j : Job) (n0 : Nat) (n : Nat) (u : State) (v : State), s.searchJob c 2 = some j ∧
        n0 = min ((j.word 3).toNat - j.done) (min ((((s.cell c).su (hUnit (j.word 1))).d - ((s.cell c).su (hUnit (j.word 1))).c) / 24) ((((s.cell c).su (hUnit (j.word 2))).d + sbSize - ((s.cell c).su (hUnit (j.word 2))).c) / 8)) ∧
        s.streamSearches c (hUnit (j.word 1)) (hUnit (j.word 2)) n0 = (n, v) ∧ u = v.modSearchJob c (fun j => { j with done := j.done + n }) :=
  ⟨searching (sJob 2 [mkHandle 1 0 0, mkHandle 2 1 0, .uns 2, .uns 0]) id, 0, sJob 2 [mkHandle 1 0 0, mkHandle 2 1 0, .uns 2, .uns 0], 2,
      ((searching (sJob 2 [mkHandle 1 0 0, mkHandle 2 1 0, .uns 2, .uns 0]) id).streamSearches 0 0 1 2).1, _, ((searching (sJob 2 [mkHandle 1 0 0,
      mkHandle 2 1 0, .uns 2, .uns 0]) id).streamSearches 0 0 1 2).2, by decide +kernel, by decide +kernel, pair_of _, rfl⟩

theorem test_SearchCommands_2 :
    ∃ (s : State) (c : CellId) (j : Job) (b : Nat) (ents : List (Nat × Entry)) (pos : Nat) (first : Nat) (e : Entry) (w : State),
        s.searchJob c 3 = some j ∧ ((maskBanks (bits (j.word 0) 19 4)).any fun b => !s.mayName c b) = false ∧
        s.armed (srbPage ((maskBanks (bits (j.word 0) 19 4)).headD 0)) 5 = false ∧
        (maskBanks (bits (j.word 0) 19 4)).find? (fun b => decide ((s.bank b).ents.length < 8192)) = some b ∧ s.search.posted.length < 64 ∧
        e = { key := j.key144 1 &&& j.key144 6, care := j.key144 6, data := j.word 11, handle := (s.bank b).freeHandle } ∧ (s.bank b).place e = (ents,
        pos, first) ∧
        w = (s.mergeData b ((ents.filter fun q => !(s.bank b).ents.contains q).map fun q => q.1)).modBank b (fun k => { k with ents := ents, recov := k.recov.filter (· != e.handle) }) :=
  ⟨searching (sJob 0x13 ([.uns 6, .uns 0, .uns 0, .uns 0, .uns 0, .uns 0xFF, .uns 0, .uns 0, .uns 0, .uns 0, .uns 9, .uns 0])) id, 0,
      sJob 0x13 ([.uns 6, .uns 0, .uns 0, .uns 0, .uns 0, .uns 0xFF, .uns 0, .uns 0, .uns 0, .uns 0, .uns 9, .uns 0]), 0, _, _, _, e3, _,
      by decide +kernel, by decide +kernel, by decide +kernel, by decide +kernel, by decide +kernel, rfl, triple_of _, rfl⟩

theorem test_SearchCommands_3 :
    ∃ (s : State) (c : CellId) (j : Job) (es : List (Nat × Nat × Nat)) (w : State), s.searchJob c 4 = some j ∧
        ((maskBanks (bits (j.word 0) 19 4)).any fun b => !s.mayName c b) = false ∧
        es = ((maskBanks (bits (j.word 0) 19 4)).flatMap fun b => ((s.bank b).ents.filter fun q => q.2.key == (j.key144 1 &&& j.key144 6) && q.2.care == j.key144 6).map fun q => (b,
        q.1, q.2.handle)) ∧ es ≠ [] ∧ es.length + s.search.posted.length ≤ 64 ∧
        w = es.foldl (fun s q => ((s.modBank q.1 fun k => { k.drop q.2.1 with recov := k.recov.filter (· != q.2.2) }).restartAt q.1 q.2.1).postSlot q.1 q.2.2 .free) s :=
  ⟨searching (sJob 0x14 ([.uns 5, .uns 0, .uns 0, .uns 0, .uns 0, .uns 0xFF, .uns 0, .uns 0, .uns 0, .uns 0, .uns 0])) id, 0, sJob 0x14 ([.uns 5,
      .uns 0, .uns 0, .uns 0, .uns 0, .uns 0xFF, .uns 0, .uns 0, .uns 0, .uns 0, .uns 0]), [(0, 0, 3)], _, by decide +kernel, by decide +kernel,
      by decide +kernel, by decide +kernel, by decide +kernel, rfl⟩

theorem test_SearchCommands_4 :
    ∃ (s : State) (c : CellId) (j : Job) (e : Entry) (d : Word) (v : State), s.searchJob c 5 = some j ∧ s.mayName c (bits (j.word 0) 23 20) = true ∧
        (s.bank (bits (j.word 0) 23 20)).at (j.word 1).toNat = some e ∧ s.entData (bits (j.word 0) 23 20) (j.word 1).toNat e = (d, v) :=
  ⟨searching (sJob 5 [.uns 0]) id, 0, sJob 5 [.uns 0], ent5, 77, ((searching (sJob 5 [.uns 0]) id).entData 0 0 ent5).2, by decide +kernel,
      by decide +kernel, by decide +kernel, Prod.ext (by decide +kernel) rfl⟩

theorem test_SearchCommands_5 :
    ∃ (s : State) (unit : Fin 4) (c : CellId) (j : Job) (b : Nat) (size : Nat) (m : Nat) (far : Nat),
        (s.codecTurn unit.val).map (fun k => k.cell) = some c ∧ s.running c 1 = some j ∧ s.windowBank unit.val = some b ∧ bit (j.word 0) 0 = false ∧
        (size, m, far) = (if bits (j.word 0) 2 1 = 2 then (32768, 3, 32768) else (65536, 4, 65535)) :=
  ⟨windowing, 0, 0, sJob 0 [mkHandle 1 0 0, mkHandle 2 1 0, .uns 2, .uns 8], 0, 65536, 4, 65535, by decide +kernel⟩

theorem test_SearchCommands_6 :
    ∃ (s : State) (bank : Fin 16) (flip : Option Entry) (bad : Bool) (pos : Nat) (e : Entry) (f : Entry) (u : State), s.srcRuns = true ∧
        s.regBit SRC_STAT 0 = false ∧ s.bankMode bank.val = 1 ∧ (s.bank bank.val).waits = 0 ∧ (s.bank bank.val).recov = [] ∧
        (s.bank bank.val).ents.find? (fun q => decide (s.cursor bank.val ≤ q.1)) = some (pos, e) ∧
        f = (flip.map fun f => { f with handle := e.handle }).getD e ∧
        u = (((s.modBank bank.val fun k => { k with ents := putEnt k.ents pos f }).comparePos bank.val pos f bad).setField (SRB_SWEEP bank.val) 12 0 (pos + 1)) :=
  ⟨searching (sJob 0 []) id, 0, none, false, 0, ent5, ent5,
      (((searching (sJob 0 []) id).modBank 0 fun k => { k with ents := putEnt k.ents 0 ent5 }).comparePos 0 0 ent5 false).setField (SRB_SWEEP 0) 12 0 1,
      rfl, by decide +kernel, by decide +kernel, by decide +kernel, by decide +kernel, by decide +kernel, by decide +kernel, rfl⟩

theorem test_SearchCommands_7 :
    ∃ (s : State) (b : Nat) (h : Nat) (x : ShSlot) (rest : List (Nat × Nat × ShSlot)) (u : State), s.srcRuns = true ∧ s.search.posted = (b, h,
        x) :: rest ∧
        u = (({ s with search := { s.search with posted := rest } } : State).writeSlot b h x).modBank b (fun k => { k with waits := k.waits - 1 }) ∧
        (u.bank b).waits ≠ 0 :=
  ⟨posting 2 none, 0, 3, .free, [], posted 2 none, by decide +kernel, rfl, rfl, by decide +kernel⟩

theorem test_SearchCommands_8 :
    ∃ (s : State) (b : Nat) (h : Nat) (x : ShSlot) (rest : List (Nat × Nat × ShSlot)) (u : State) (p : Nat), s.srcRuns = true ∧ s.search.posted = (b, h,
        x) :: rest ∧
        u = (({ s with search := { s.search with posted := rest } } : State).writeSlot b h x).modBank b (fun k => { k with waits := k.waits - 1 }) ∧
        (u.bank b).waits = 0 ∧ (u.bank b).restart = some p :=
  ⟨posting 1 (some 4), 0, 3, .free, [], posted 1 (some 4), 4, by decide +kernel, rfl, rfl, by decide +kernel, rfl⟩

theorem test_SearchCommands_9 :
    ∃ (s : State) (bank : Fin 16), s.srcRuns = true ∧ s.regBit SRC_STAT 0 = false ∧ s.bankMode bank.val = 1 ∧
        4 * s.stride < longestRun (s.bank bank.val).ents :=
  ⟨(searching (sJob 0 []) fun k => { k with ents := [(0, ent5), (1, ent5)] }).setReg SRC_CTRL 0, 0, rfl, by decide +kernel⟩

theorem test_SearchCommands_10 :
    ∃ (s : State) (m : Master) (bank : Fin 16) (w : Word) (d : RegDef), w = setBit (s.reg (SRB_CTRL bank.val) &&& 0x7F) 9 true ∧
        Accepts s m (srbPage bank.val) 0x80 w (srbCtrlCond m bank.val w) d :=
  ⟨(awake.setReg SRC_STAT 0).setReg (SRB_CTRL 0) 0x10, .warden, 0, 0x210, regAt (srbPage 0) 0x80, by decide +kernel, accepts_of (by decide +kernel)⟩

theorem test_SearchCommands_11 :
    ∃ (s : State) (m : Master) (bank : Fin 16) (w : Word) (d : RegDef), w = setBit (s.reg (SRB_CTRL bank.val) &&& 0x7F) 8 true ∧
        Accepts s m (srbPage bank.val) 0x80 w (srbCtrlCond m bank.val w) d :=
  ⟨(awake.setReg SRC_STAT 0).setReg (SRB_CTRL 0) 0x10, .warden, 0, 0x110, regAt (srbPage 0) 0x80, by decide +kernel, accepts_of (by decide +kernel)⟩

theorem test_SearchCommands_12 :
    ∃ (s : State) (m : Master) (bank : Fin 16) (v : Word) (w : Word) (d : RegDef), w = setBits v 10 8 0 ∧
        Accepts s m (srbPage bank.val) 0x80 w (srbCtrlCond m bank.val w) d :=
  ⟨(awake.setReg SRC_STAT 0).setReg (SRB_CTRL 0) 0x10, .warden, 0, 0x30, 0x30, regAt (srbPage 0) 0x80, by decide +kernel,
      accepts_of (by decide +kernel)⟩

theorem test_SearchCommands_13 :
    ∃ (s : State) (m : Master) (bank : Fin 16) (w : Word) (d : RegDef), w = setBit (s.reg (SRB_CTRL bank.val) &&& 0x7F) 10 true ∧
        Accepts s m (srbPage bank.val) 0x80 w (srbCtrlCond m bank.val w) d :=
  ⟨(awake.setReg SRC_STAT 0).setReg (SRB_CTRL 0) 0x10, .warden, 0, 0x410, regAt (srbPage 0) 0x80, by decide +kernel, accepts_of (by decide +kernel)⟩

theorem test_SearchCommands_14 :
    ∃ (s : State) (bank : Fin 16) (u : State), (s.bank bank.val).testing = true ∧ s.srcRuns = true ∧ s.field? SRC_STAT 6 4 ≠ 4 ∧
        u = s.modBank bank.val (fun k => { k with testing := false, ents := [] }) :=
  ⟨searching (sJob 0 []) fun k => { k with testing := true }, 0,
      (searching (sJob 0 []) fun k => { k with testing := true }).modBank 0 (fun k => { k with testing := false, ents := [] }), by decide +kernel, rfl,
      by decide +kernel, rfl⟩

theorem test_SearchCommands_15 :
    ∃ (s : State) (m : Master) (d : RegDef), Accepts s m srcPage 0x8C 1 (srcCmdCond m 1) d :=
  ⟨awake, .warden, regAt srcPage 0x8C, accepts_of (by decide +kernel)⟩

theorem test_SearchCommands_16 :
    ∃ (s : State) (m : Master) (d : RegDef), Accepts s m srcPage 0x8C 2 (srcCmdCond m 2) d :=
  ⟨awake, .warden, regAt srcPage 0x8C, accepts_of (by decide +kernel)⟩

theorem test_SearchCommands_17 :
    ∃ (s : State) (u : State), (s.search.work = 1 ∨ s.search.work = 2) ∧ s.field? SRC_STAT 6 4 ≠ 4 ∧ s.srcRuns = true ∧
        u = (if s.search.work = 2 then (List.range 16).foldl (fun s b => if s.bankMode b = 1 then s.reloadBank b else s) s else s) :=
  ⟨{ awake with search := { awake.search with work := 1 } }, { awake with search := { awake.search with work := 1 } }, by decide +kernel,
      by decide +kernel, rfl, rfl⟩

theorem test_SearchCommands_18 :
    ∃ (s : State) (step : Nat) (old : Nat) (held : Nat) (u : State), s.pageOn srcPage = true ∧ step = srcStep ((s.field? TMP_STAT 7 0 : Int) - 64) ∧
        old = s.field? SRC_STAT 6 4 ∧ held = (if old = 4 then 800000 else 800000 - 800000 / 2 ^ old) ∧
        u = (if (s.search.work != 0 || (List.range 16).any fun b => (s.bank b).testing || !(s.bank b).recov.isEmpty) && old != 0 then s.count srcPage 2 held else s) :=
  ⟨awake, 0, 0, 0, awake, by decide +kernel, by decide +kernel, by decide +kernel, by decide +kernel, rfl⟩
end G11

/-! ## Witnesses: Cryptography -/

namespace G12

/-- A key in slot 2, lane 0 enabled, and a page set of NSID 2 on its way through a lane. -/
def aKey : KeySlot := ⟨true, 0x1234, 2, false, BitVec.ofNat 512 0x020201FF01, 0, 32, false, 0⟩
def aSet : PageSet := ⟨⟨0, 2, 1, 0, 0, 0, 0, 4096, [0]⟩, none, [], List.replicate 16 0⟩
def aPath (op : Nat) (ph : ReqPhase) : Req := { readReq 2 5 .tlc 1 .drain [] with op := op, phase := ph, data := some aSet }
def keyed : State := ({ stored with crypto := { stored.crypto with slots := at' stored.crypto.slots 2 fun _ => aKey } }.setReg (CIP_CTRL 0) 1).setReg (DIG_CTRL 0) 1
def ciphering (r : Req) : State := { keyed with media := { keyed.media with reqs := [r] } }

/-- A cipher job under slot 2 at port 2 of cell 0: CBC over the 16 bytes that stand in its stream buffer 0; and a digest job at port 3
over 16 bytes of it, SHA-256 from the start to the end. -/
def cipJob : Job :=
  ⟨[.uns 1, .uns 2, mkHandle 1 0 0, .uns 0, .uns 0, .uns 16, mkHandle 2 1 0, .uns 0, .uns 0, .uns 0, .uns 0, .uns 0, .uns 0xFFFFFFFF,
    .uns 0, .uns 0, .uns 0], 16, none, 0, [], false⟩
def digJob : Job := ⟨.uns 0x1C :: mkHandle 1 0 0 :: .uns 0 :: .uns 16 :: List.replicate 10 (.uns 0), 16, none, 0, [], false⟩
def jobbing : State := keyed.modCell 0 fun k => { k with
  ports := [.idle, .idle, ⟨true, 0, some cipJob⟩, ⟨true, 0, some digJob⟩]
  su0 := { SuSlot.idle with active := true, op := 1, length := 48, d := 48 }, su1 := { SuSlot.idle with active := true, op := 1, length := 16 } }

/-- The key block with a label for slot 2. -/
def labelled : State := keyed.setReg (KEY_LABEL 0) 0x0002FF01

theorem xorBytes_length (a b : List Byte) : (xorBytes a b).length = min a.length b.length := by
  simp [xorBytes]

theorem chunk_length {k : Nat} {bs : List Byte} (hk : 0 < k) (h : bs.length % k = 0) : ∀ c ∈ chunks k bs, c.length = k := by
  simp only [chunks, List.mem_map, List.mem_range, forall_exists_index, and_imp, forall_apply_eq_imp_iff₂]
  intro j hj
  have hd := Nat.div_add_mod bs.length k
  have : (bs.length + k - 1) / k = bs.length / k := by
    rw [show bs.length + k - 1 = (k - 1) + k * (bs.length / k) by omega, Nat.add_mul_div_left _ _ hk, Nat.div_eq_of_lt (by omega)]
    omega
  rw [this] at hj
  have h2 : k * (j + 1) ≤ k * (bs.length / k) := Nat.mul_le_mul_left k hj
  simp only [List.length_take, List.length_drop]
  have : k * (j + 1) = k * j + k := by ring
  omega

theorem nextKeyWord_length {nk i : Nat} {rc : Byte} {w : List (List Byte)} (hn : 0 < nk) (hl : nk ≤ w.length) (h : ∀ c ∈ w, c.length = 4) :
    (nextKeyWord nk i rc w).length = 4 := by
  have h1 : (w.headD []).length = 4 := by
    cases w with
    | nil => simp at hl; omega
    | cons a r => exact h a (by simp)
  have h2 : (w.getD (nk - 1) []).length = 4 := by
    rw [List.getD_eq_getElem _ _ (by omega)]
    exact h _ (List.getElem_mem _)
  unfold nextKeyWord
  simp only [xorBytes_length, h2]
  split
  · split
    · next e =>
      have e' := congrArg List.length e
      simp only [List.length_map, List.length_append, List.length_drop, List.length_take, List.length_cons, h1] at e' ⊢
      omega
    · next e =>
      have e' := congrArg List.length e
      simp only [List.length_map, List.length_append, List.length_drop, List.length_take, List.length_nil, h1] at e'
      omega
  · split <;> simp only [List.length_map, h1] <;> rfl

theorem expandKey_length {nk : Nat} (hn : 0 < nk) : ∀ (n i : Nat) (rc : Byte) (w : List (List Byte)), nk ≤ w.length →
    (∀ c ∈ w, c.length = 4) → (expandKey nk n i rc w).flatten.length = 4 * (n + w.length) := by
  intro n
  induction n with
  | zero =>
    intro i rc w _ h
    have e : ∀ c ∈ w.reverse, c.length = 4 := fun c m => h c (List.mem_reverse.1 m)
    rw [expandKey, List.length_flatten, List.map_congr_left e, List.map_const', List.sum_replicate]
    simp; omega
  | succ n ih =>
    intro i rc w hl h
    rw [expandKey, ih _ _ _ (by simp; omega)]
    · simp; omega
    · intro c hc
      rcases List.mem_cons.1 hc with rfl | hc
      · exact nextKeyWord_length hn hl h
      · exact h c hc

theorem roundKeys_length {key : List Byte} (h : key.length = 32) : ∀ k ∈ roundKeys key, k.length = 16 := by
  have h4 := chunk_length (k := 4) (bs := key) (by omega) (by omega)
  have hl : (chunks 4 key).length = 8 := by simp [chunks, h]
  unfold roundKeys
  refine chunk_length (by omega) ?_
  rw [h, expandKey_length (by omega) _ _ _ _ (by simp [hl]) (fun c m => h4 c (List.mem_reverse.1 m))]
  simp [hl]

theorem mixCols_length {m b : List Byte} (h : b.length = 16) : (mixCols m b).length = 16 := by
  simp [mixCols, chunks, h, mixCol, List.range_succ]

theorem encRounds_length : ∀ (ks : List (List Byte)) (b : List Byte), (∀ k ∈ ks, k.length = 16) → b.length = 16 →
    (encRounds ks b).length = 16 := by
  intro ks
  induction ks with
  | nil => intro b _ h; simpa [encRounds] using h
  | cons k r ih =>
    intro b hk hb
    have h1 := hk k (by simp)
    cases r with
    | nil => simp [encRounds, xorBytes_length, shiftRows, h1]
    | cons k2 r =>
      rw [encRounds]
      · refine ih _ (fun c hc => hk c (by simp_all)) ?_
        rw [xorBytes_length, mixCols_length (by simp [shiftRows]), h1]; rfl
      · simp

theorem aesEnc_length {key block : List Byte} (h : key.length = 32) (hb : block.length = 16) : (aesEnc key block).length = 16 := by
  have hk := roundKeys_length h
  unfold aesEnc
  split
  · exact hb
  · next k r e =>
    rw [e] at hk
    exact encRounds_length r _ (fun c hc => hk c (by simp [hc])) (by rw [xorBytes_length, hb, hk k (by simp)]; rfl)

theorem macBlocks_length {key : List Byte} (h : key.length = 32) : ∀ (bs : List (List Byte)) (j : Nat) (x : List Byte),
    (∀ b ∈ bs, b.length = 16) → x.length = 16 → (macBlocks (fun _ => key) j x bs).length = 16 := by
  intro bs
  induction bs with
  | nil => intro j x _ hx; simpa [macBlocks] using hx
  | cons b r ih =>
    intro j x hb hx
    rw [macBlocks]
    exact ih _ _ (fun c hc => hb c (by simp [hc])) (aesEnc_length h (by rw [xorBytes_length, hx, hb b (by simp)]; rfl))

theorem beBytes_length (n v : Nat) : (beBytes n v).length = n := by simp [beBytes]

theorem cmac_length {key msg : List Byte} (h : key.length = 32) (hm : 0 < msg.length) : (cmac key msg).length = 16 := by
  have hc : ∀ c ∈ chunks 16 msg, c.length ≤ 16 := by
    simp only [chunks, List.mem_map, forall_exists_index, and_imp, forall_apply_eq_imp_iff₂]
    intro j _
    exact List.length_take_le _ _
  have hd : ∀ c ∈ (chunks 16 msg).dropLast, c.length = 16 := by
    intro c hcm
    obtain ⟨i, hi, rfl⟩ := List.getElem_of_mem hcm
    simp only [List.getElem_dropLast, chunks, List.getElem_map, List.getElem_range, List.length_take, List.length_drop]
    simp only [List.length_dropLast, chunks, List.length_map, List.length_range] at hi
    omega
  have hl : ((chunks 16 msg).getLastD []).length ≤ 16 := by
    cases e : chunks 16 msg with
    | nil => simp
    | cons a r => exact hc _ (by rw [e, List.getLastD_cons]; exact List.getLastD_mem_cons)
  unfold cmac cmacOver
  refine macBlocks_length h _ _ _ ?_ (by simp)
  intro b hb
  rcases List.mem_append.1 hb with hb | hb
  · exact hd b hb
  · rw [List.mem_singleton] at hb
    subst hb
    split
    · next e => rw [xorBytes_length, e, cmacDouble, beBytes_length]; rfl
    · rw [xorBytes_length, cmacDouble, beBytes_length]
      simp only [List.length_append, List.length_cons, List.length_nil, List.length_replicate]
      omega

theorem leBytes_length (n v : Nat) : (leBytes n v).length = n := by
  induction n generalizing v with
  | zero => rfl
  | succ n ih => simp [leBytes, ih]

theorem deriveKey_length {root label : List Byte} (h : root.length = 32) : (deriveKey root label 256).length = 32 := by
  unfold deriveKey
  simp only [show (128 : Nat) < 256 by decide, if_true, List.length_take, List.length_append]
  rw [cmac_length h (by simp [beBytes_length]), cmac_length h (by simp [beBytes_length])]
  rfl

theorem wordBytes_leWord (a b c d : Byte) : wordBytes (leWord [a, b, c, d]) = [a, b, c, d] := by
  have ha := a.isLt; have hb := b.isLt; have hc := c.isLt; have hd := d.isLt
  simp only [wordBytes, leWord, leNat, leBytes, BitVec.toNat_ofNat, List.cons.injEq, and_true]
  refine ⟨?_, ?_, ?_, ?_⟩ <;> (apply BitVec.eq_of_toNat_eq; simp only [BitVec.toNat_ofNat]; omega)

/-- The wrapping key of the part, the payload of a blob of zeros, and its tag. -/
def wrapKey : List Byte := deriveKey (leBytes 32 Config.fuseRoot.toNat) ([4, 0xFF, 0, 2, 0, 0, 0, 0, 1] ++ List.replicate 55 0) 256
def blobPayload : List Byte := ccmCrypt (fun _ => wrapKey) 0 (List.replicate 13 0) (List.replicate 32 0)
def blobTag : List Byte :=
  xorBytes ((macBlocks (fun _ => wrapKey) 0 (List.replicate 16 0) (chunks 16 (ccmInput (List.replicate 13 0) [] blobPayload 16))).take 16)
    (aesEnc wrapKey (ccmCtr (List.replicate 13 0) 0))

theorem zeroPad_length (bs : List Byte) : (zeroPad bs).length % 16 = 0 := by
  simp only [zeroPad, List.length_append, List.length_replicate]
  omega

theorem blobTag_length : blobTag.length = 16 := by
  have hk : wrapKey.length = 32 := deriveKey_length (leBytes_length _ _)
  rw [blobTag, xorBytes_length, List.length_take, macBlocks_length hk _ _ _ _ (by simp),
    aesEnc_length hk (by simp [ccmCtr, beBytes_length])]
  · rfl
  · refine chunk_length (by omega) ?_
    have := zeroPad_length blobPayload
    simp only [ccmInput, ccmAad, List.length_append, List.length_cons, beBytes_length, List.length_replicate, List.isEmpty_nil, if_true,
      List.length_nil]
    omega

/-- KEY_WRAP with that blob. -/
def wrapWords : List Word := List.replicate 12 0 ++ (List.range 4).map fun k => leWord (sub blobTag (4 * k) 4)

theorem unwrap_blob (s : State) : (unwrap s (wrapWords.flatMap wordBytes)).isSome = true := by
  have e : wrapWords.flatMap wordBytes = List.replicate 48 0 ++ blobTag := by
    have hl := blobTag_length
    unfold wrapWords
    generalize blobTag = t at hl
    rw [List.flatMap_append]
    match t, hl with
    | [a0, a1, a2, a3, a4, a5, a6, a7, a8, a9, a10, a11, a12, a13, a14, a15], _ =>
      show _ ++ (wordBytes (leWord [a0, a1, a2, a3]) ++ (wordBytes (leWord [a4, a5, a6, a7]) ++ (wordBytes (leWord [a8, a9, a10, a11]) ++
        (wordBytes (leWord [a12, a13, a14, a15]) ++ [])))) = _
      simp only [wordBytes_leWord]
      rfl
  have e1 : (List.replicate 48 0 ++ blobTag).take 13 = List.replicate 13 0 := rfl
  have e2 : sub (List.replicate 48 0 ++ blobTag) 16 32 = List.replicate 32 0 := by
    generalize blobTag = t
    rfl
  have e3 : sub (List.replicate 48 0 ++ blobTag) 48 16 = blobTag := by
    have hl := blobTag_length
    generalize blobTag = t at hl
    match t, hl with
    | [a0, a1, a2, a3, a4, a5, a6, a7, a8, a9, a10, a11, a12, a13, a14, a15], _ => rfl
  rw [e]
  unfold unwrap
  simp only [e1, e2, e3]
  have h : (ccmDec wrapKey (List.replicate 13 0) [] (List.replicate 32 0) blobTag).2 = true := by
    simp only [ccmDec, beq_iff_eq, blobTag_length]
    rfl
  have h2 : ccmDec (deriveKey (s.rootBytes false) ([4, 0xFF, 0, 2, 0, 0, 0, 0, 1] ++ List.replicate 55 0) 256) (List.replicate 13 0) []
      (List.replicate 32 0) blobTag = ccmDec wrapKey (List.replicate 13 0) [] (List.replicate 32 0) blobTag := rfl
  rw [h2, h]
  rfl

/-- The key block with that blob. -/
def wrapped : State := { keyed with crypto := { keyed.crypto with wrap := wrapWords } }

theorem test_CryptoCommands_0 :
    ∃ (s : State) (lane : Fin 16) (req : Nat) (r : Req) (p : PageSet) (n : Nat) (v : State), s.req? req = some r ∧ (s.lane lane.val).job = none ∧
        (((s.lane lane.val).path.isNone = true ∨ ∃ h, (s.lane lane.val).path = some h ∧ h.req = req)) ∧ ((r.lane = none ∨ r.lane = some lane.val)) ∧
        s.pageOn (cipPage lane.val) = true ∧ s.regBit (CIP_CTRL lane.val) 0 = true ∧ s.regBit (CIP_CTRL lane.val) 1 = false ∧
        s.regBit KEY_STAT 3 = false ∧ (s.media.reqs.any fun x => x.lane == some lane.val && x.before r && s.pathReady x false) = false ∧
        s.pathReady r (s.lane lane.val).path.isSome = true ∧ r.phase = .cipher ∧ r.data = some p ∧ n = p.tag.keyNs ∧ s.useKey n = (true, v) :=
  ⟨ciphering (aPath 2 .cipher), 0, 0, aPath 2 .cipher, aSet, 2, ((ciphering (aPath 2 .cipher)).useKey 2).2, by decide +kernel, by decide +kernel,
      Or.inl (by decide +kernel), Or.inl rfl, by decide +kernel, by decide +kernel, by decide +kernel, by decide +kernel, by decide +kernel,
      by decide +kernel, rfl, rfl, by decide +kernel, Prod.ext (by decide +kernel) rfl⟩

theorem test_CryptoCommands_1 :
    ∃ (s : State) (lane : Fin 16) (req : Nat) (r : Req) (p : PageSet), s.req? req = some r ∧ (s.lane lane.val).job = none ∧
        (((s.lane lane.val).path.isNone = true ∨ ∃ h, (s.lane lane.val).path = some h ∧ h.req = req)) ∧ ((r.lane = none ∨ r.lane = some lane.val)) ∧
        s.pageOn (cipPage lane.val) = true ∧ s.regBit (CIP_CTRL lane.val) 0 = true ∧ s.regBit (CIP_CTRL lane.val) 1 = false ∧
        s.regBit KEY_STAT 3 = false ∧ (s.media.reqs.any fun x => x.lane == some lane.val && x.before r && s.pathReady x false) = false ∧
        s.pathReady r (s.lane lane.val).path.isSome = true ∧ r.phase = .sensed ∧ r.data = some p :=
  ⟨ciphering (aPath 1 .sensed), 0, 0, aPath 1 .sensed, aSet, by decide +kernel, by decide +kernel, Or.inl (by decide +kernel), Or.inl rfl,
      by decide +kernel, by decide +kernel, by decide +kernel, by decide +kernel, by decide +kernel, rfl, rfl, rfl⟩

theorem test_CryptoCommands_2 :
    ∃ (s : State) (c : CellId) (lane : Fin 16) (j : Job) (l : Nat) (n : Nat) (pos : Nat) (per : Nat) (segs : List (Nat × BitVec 32 × BitVec 256)) (u : State) (v : State) (w : State) (x : List Byte) (y : Bool) (out : List Byte) (verify : Bool) (force : Bool) (z : State),
        s.running c 2 = some j ∧ l = lane.val ∧ n = bits (j.word 1) 5 0 ∧ s.pageOn (cipPage l) = true ∧ s.regBit (CIP_CTRL l) 0 = true ∧
        s.regBit (CIP_CTRL l) 1 = false ∧ (s.lane l).path = none ∧ ((s.laneOf c = some l ∨ (s.laneOf c = none ∧ (s.lane l).job = none))) ∧
        s.regBit KEY_STAT 3 = false ∧ (s.key n).valid = true ∧ ((hKind (j.word 2) = 2 ∨
        posOf ((s.cell c).su (hUnit (j.word 2))).c (j.word 3).toNat + j.srcLen ≤ ((s.cell c).su (hUnit (j.word 2))).d)) ∧ ((j.dstLen = 0 ∨
        posOf ((s.cell c).su (hUnit (j.word 6))).c (j.word 7).toNat + j.dstLen ≤ ((s.cell c).su (hUnit (j.word 6))).d + sbSize)) ∧ s.useKey n = (true,
        u) ∧ u.readSb c (hUnit (j.word 2)) (j.word 3).toNat j.srcLen = (some x, v) ∧ pos = ((v.lane l).job.map (·.pos)).getD 0 ∧
        segs = (((v.lane l).job.map fun h => h.segs ++ [(pos, v.jobKey (v.key n) (j.word 12))]).getD [(0, v.jobKey (v.key n) (j.word 12))]) ∧
        ((j.decrypt = true ∨ j.blocks - pos ≤ v.blocksLeft n)) ∧ w = (if j.decrypt then v else v.useBlocks n (j.blocks - pos)) ∧
        cipherOut j (segs.map fun q => (q.1, leBytes (16 + 8 * (v.key n).klen) q.2.2.toNat)) x = (out, y) ∧
        verify = (j.decrypt && (j.mode == 4 || j.mode == 5)) ∧ force = (verify && w.armed (cipPage l) 3) ∧
        (verify && j.mode == 5 && j.rlen != 0) = false ∧ (per = (if j.mode = 5 ∧ j.rlen ≠ 0 then macLen (4 * j.rlen) else 1)) ∧
        z = ((if force then w.disarm (cipPage l) 3 else w).writeCipher c j (if y && !force then out else List.replicate out.length 0)).writeBackWords c j 13 [.uns (BitVec.ofNat 32 j.blocks),
        .uns (segs.getLastD (0, 0, 0)).2.1, .uns (BitVec.ofNat 32 ((segs.getLastD (0, 0, 0)).1 / per))] :=
  ⟨jobbing, 0, 0, cipJob, _, _, _, _, _, (jobbing.useKey 2).2, (((jobbing.useKey 2).2).readSb 0 0 0 16).2, _,
      ((((jobbing.useKey 2).2).readSb 0 0 0 16).1).getD [], _, _, _, _, _, by decide +kernel, rfl, rfl, by decide +kernel, by decide +kernel,
      by decide +kernel, by decide +kernel, Or.inr (by decide +kernel), by decide +kernel, by decide +kernel, by decide +kernel, by decide +kernel,
      Prod.ext (by decide +kernel) rfl, Prod.ext (some_of [] (by decide +kernel)) rfl, rfl, rfl, Or.inr (by decide +kernel), rfl, pair_of _, rfl, rfl,
      by decide +kernel, rfl, rfl⟩

theorem test_CryptoCommands_3 :
    ∃ (s : State) (m : Master) (lane : Fin 16) (v : Word) (d : RegDef), Accepts s m (cipPage lane.val) 0x80 (setBit v 1 true) noCond d :=
  ⟨keyed, .warden, 0, 0, regAt (cipPage 0) 0x80, accepts_of (by decide +kernel)⟩

theorem test_CryptoCommands_4 :
    ∃ (s : State) (t0 : State) (c : CellId) (lane : Fin 4) (j : Job) (l : Nat) (u : Nat) (rest : Nat) (off : Nat) (x : List Byte) (y : List Byte) (st : List Byte) (v : State) (w : State) (z : State),
        s.running c 3 = some j ∧ l = lane.val ∧ s.switchTo l c = some t0 ∧ s.pageOn (digPage l) = true ∧ s.regBit (DIG_CTRL l) 0 = true ∧
        ((((List.range 4).find? fun k => s.crypto.bound.getD k none == some c) = some l ∨
        (((List.range 4).find? fun k => s.crypto.bound.getD k none == some c) = none ∧ s.crypto.bound.getD l none = none))) ∧
        ((List.range 4).any fun k => k != l && s.digOn k == some c) = false ∧ u = hUnit (j.word 1) ∧ rest = (j.word 3).toNat - j.done ∧
        ((j.consume = true → rest ≤ ((t0.cell c).su u).d - ((t0.cell c).su u).c)) ∧
        off = (if j.consume then ((t0.cell c).su u).c else (j.word 2).toNat + j.done) ∧ t0.readSb c u off rest = (some x, v) ∧
        v.armed (digPage l) 4 = false ∧ v.digResume c j = (some st, w) ∧
        y = (if j.final then digFinish j.alg st x (j.mlen + j.done + rest - rest) else digAbsorb j.alg st x) ∧
        z = ((if j.consume then w.releaseIn c u rest else w).count64 (digPage l) 2 rest).writeBackWords c j 4 ([.uns (BitVec.ofNat 32 (j.mlen + j.done + rest)),
        .uns (BitVec.ofNat 32 ((j.mlen + j.done + rest) / 2 ^ 32))] ++ (List.range (j.words.length - 6)).map fun k => (⟨tBytes,
        leWord (sub y (4 * k) 4)⟩ : TWord)) :=
  ⟨jobbing, jobbing, 0, 0, digJob, _, _, _, _, ((jobbing.readSb 0 0 0 16).1).getD [], _, ((((jobbing.readSb 0 0 0 16).2).digResume 0 digJob).1).getD [],
      (jobbing.readSb 0 0 0 16).2, (((jobbing.readSb 0 0 0 16).2).digResume 0 digJob).2, _, by decide +kernel, rfl, rfl, by decide +kernel,
      by decide +kernel, Or.inr (by decide +kernel), by decide +kernel, rfl, rfl, fun _ => by decide +kernel, rfl,
      Prod.ext (some_of [] (by decide +kernel)) rfl, by decide +kernel, Prod.ext (some_of [] (by decide +kernel)) rfl, rfl, rfl⟩

theorem test_CryptoCommands_5 :
    ∃ (s : State) (m : Master) (v : Word) (d : RegDef) (a : State) (n : Nat) (l : BitVec 512) (k : KeySlot) (goOn : Bool),
        Accepts s m keyPage 0x84 (setBits v 2 0 1) noCond d ∧ a = s.arrive m ∧ n = bits v 8 3 ∧ l = a.labelReg ∧ k = a.key n ∧
        goOn = (k.valid && withEpoch l (labelEpoch k.label) == k.label && decide ((labelEpoch k.label).toNat < (labelEpoch l).toNat)) ∧
        a.regBit KEY_STAT 3 = false ∧ ((a.keyRunning n = true → goOn = true ∧ a.keyHeld n = true)) ∧
        (k.valid && l == k.label && bits v 10 9 == k.klen && bit (setBits v 2 0 1) 11 == k.root) = false ∧ ((bit (setBits v 2 0 1) 11 = true →
        a.crypto.root ≠ none)) ∧ a.labelOk n l (bits v 10 9) (bit (setBits v 2 0 1) 11) = true :=
  ⟨labelled, .warden, 0x10, regAt keyPage 0x84, _, _, _, _, _, accepts_of (by decide +kernel), rfl, rfl, rfl, rfl, rfl, by decide +kernel⟩

theorem test_CryptoCommands_6 :
    ∃ (s : State) (m : Master) (v : Word) (d : RegDef) (a : State) (n : Nat), Accepts s m keyPage 0x84 (setBits v 2 0 2) noCond d ∧ a = s.arrive m ∧
        n = bits v 8 3 ∧ a.regBit KEY_STAT 3 = false ∧ a.keyRunning n = false :=
  ⟨keyed, .warden, 0x10, regAt keyPage 0x84, _, _, accepts_of (by decide +kernel), rfl, rfl, by decide +kernel⟩

theorem test_CryptoCommands_7 :
    ∃ (s : State) (m : Master) (v : Word) (d : RegDef) (a : State) (u : State), Accepts s m keyPage 0x84 (setBits v 2 0 3) noCond d ∧ a = s.arrive m ∧
        (∀ c, m ≠ .cell c) ∧ a.regBit KEY_STAT 3 = false ∧ a.events.tamper = false ∧ ((m = .sideband → a.regBit KEY_CTRL 0 = false)) ∧
        a.installBlob (a.crypto.wrap.flatMap wordBytes) = some u :=
  ⟨wrapped, .warden, 0, regAt keyPage 0x84, _,
      (((wrapped.arrive .warden).installBlob ((wrapped.arrive .warden).crypto.wrap.flatMap wordBytes))).getD wrapped, accepts_of (by decide +kernel),
      rfl, fun c => by decide +revert, by decide +kernel, by decide +kernel, fun h => Master.noConfusion h,
      some_of wrapped ((Option.isSome_map ..).trans (unwrap_blob _))⟩

theorem test_CryptoCommands_8 :
    ∃ (s : State) (m : Master) (v : Word) (d : RegDef) (a : State), Accepts s m keyPage 0x84 (setBits v 2 0 4) noCond d ∧ a = s.arrive m ∧ (∀ c,
        m ≠ .cell c) ∧ a.regBit KEY_STAT 3 = false :=
  ⟨keyed, .warden, 0, regAt keyPage 0x84, _, accepts_of (by decide +kernel), rfl, fun c => by decide +revert, by decide +kernel⟩

theorem test_CryptoCommands_9 :
    ∃ (s : State) (m : Master) (v : Word) (d : RegDef) (a : State), Accepts s m keyPage 0x84 v noCond d ∧ a = s.arrive m ∧ a.regBit KEY_STAT 3 = false ∧
        ((bits v 2 0 = 0 ∨ 5 ≤ bits v 2 0)) :=
  ⟨keyed, .warden, 6, regAt keyPage 0x84, _, accepts_of (by decide +kernel), rfl, by decide +kernel, Or.inr (by decide)⟩

theorem test_CryptoCommands_10 :
    ∃ (s : State) (m : Master) (v : Word) (d : RegDef), Accepts s m keyPage 0x80 (setBit v 0 true) noCond d :=
  ⟨keyed, .warden, 0, regAt keyPage 0x80, accepts_of (by decide +kernel)⟩

theorem test_CryptoCommands_11 :
    ∃ (s : State) (m : Master) (d : RegDef) (a : State), a = s.arrive m ∧ Reaches a m keyPage 0x98 d :=
  ⟨keyed, .warden, regAt keyPage 0x98, _, rfl, reaches_of (by decide +kernel)⟩
end G12

/-! ## Witnesses: DRAM and cache -/

namespace G13

/-- The device with its first region of DRAM filled, band 3 applied, and its DRAM changed. -/
def dramed (f : Dram → Dram) : State :=
  let s := ((stored.setReg DRC_STAT 0x00590330).setReg (DRC_FILL 0) 1).setReg DRC_RT 1
  { s with dram := f s.dram }
def queued (r : LineReq) : State := dramed fun d => { d with chans := at' d.chans 0 fun c => { c with queue := [r], open_ := [(0, 1)] } }
def activated (r : LineReq) : State :=
  ((if (queued r).promoted r then (queued r).count 0x0E0 3 1 else queued r).activate 0 r).modDramCh 0 (fun c => { c with queue := c.queue.erase r })
def wrLine : LineReq := ⟨0, 1, 3, 0, some (5, false)⟩
def rdLine : LineReq := ⟨0, 1, 3, 0, none⟩
def turned (e : Nat) : State := { activated rdLine with
  upsets := (activated rdLine).upsets.set (fun _ => 0) (lineKey 0) ((activated rdLine).upsets.get (fun _ => 0) (lineKey 0) ^^^ e) }

def wrEvict : LineReq := ⟨0, 1, 63, 0, some (5, false)⟩
def evLine : CLine := ⟨0, 2, 0, 9, true, false, 1⟩
def evicting : State := let s := queued wrEvict; { s with dram := { s.dram with ebuf := [(evLine, false)] } }
def evicted : State :=
  ((if evicting.promoted wrEvict then evicting.count 0x0E0 3 1 else evicting).activate 0 wrEvict).modDramCh 0 (fun c => { c with queue := c.queue.erase wrEvict })

/-- A miss of requester 3 whose line has come, and a dirty line in way 2 of slice 0 with work on that way. -/
def cport : CPort := ⟨3, 0, true, some (7, false), [⟨0, 0, 8, 1, none⟩], none⟩
def filling : State := dramed fun d => { d with slices := at' d.slices 0 fun sl => { sl with ports := [cport] } }
def joinedBy : Line × Bool × Bool × State := filling.serveJoined 0 3 cport.joined 7 false false
def cached (f : Slice4 →
    Slice4) : State := dramed fun d => { d with slices := at' d.slices 0 fun sl => f { sl with lines := [⟨0, 2, 0, 9, true, false, 1⟩] } }

theorem test_DramCommands_0 :
    ∃ (s : State) (ch : Nat) (r : LineReq) (l : Line) (pois : Bool) (u : State), s.regBit DRC_STAT 0 = false ∧ s.regBit DRC_STAT 1 = false ∧
        s.nextReq ch = some r ∧ r.write = some (l, pois) ∧
        u = ((if s.promoted r then s.count 0x0E0 3 1 else s).activate ch r).modDramCh ch (fun c => { c with queue := c.queue.erase r }) ∧
        (u.dram.ebuf.find? fun e => e.1.n == r.n && r.req == 63) = none :=
  ⟨queued wrLine, 0, wrLine, 5, false, activated wrLine, by decide +kernel, by decide +kernel, by decide +kernel, rfl, rfl, by decide +kernel⟩

theorem test_DramCommands_1 :
    ∃ (s : State) (ch : Nat) (r : LineReq) (l : Line) (pois : Bool) (e : CLine × Bool) (k : Line) (bad : Bool) (u : State) (v : State),
        s.regBit DRC_STAT 0 = false ∧ s.regBit DRC_STAT 1 = false ∧ s.nextReq ch = some r ∧ r.write = some (l, pois) ∧
        u = ((if s.promoted r then s.count 0x0E0 3 1 else s).activate ch r).modDramCh ch (fun c => { c with queue := c.queue.erase r }) ∧
        (u.dram.ebuf.find? fun e => e.1.n == r.n && r.req == 63) = some e ∧ u.readLoose { e.1 with data := l } = (k, bad, v) :=
  ⟨evicting, 0, wrEvict, 5, false, (evLine, false), (evicted.readLoose { evLine with data := 5 }).1, (evicted.readLoose { evLine with data := 5 }).2.1,
      evicted, (evicted.readLoose { evLine with data := 5 }).2.2, by decide +kernel, by decide +kernel, by decide +kernel, rfl, rfl, by decide +kernel,
      triple_of _⟩

theorem test_DramCommands_2 :
    ∃ (s : State) (ch : Nat) (upset : List (Nat × BitVec 266)) (r : LineReq) (l : Line × Bool) (turn : Nat) (u : State) (v : State),
        s.regBit DRC_STAT 0 = false ∧ s.regBit DRC_STAT 1 = false ∧ s.nextReq ch = some r ∧ r.write = none ∧
        u = ((if s.promoted r then s.count 0x0E0 3 1 else s).activate ch r).modDramCh ch (fun c => { c with queue := c.queue.erase r }) ∧
        turn = upset.foldl (fun a p => a ^^^ (p.2.toNat * 2 ^ (266 * (p.1 % 4)))) 0 ∧
        v = { u with upsets := u.upsets.set (fun _ => 0) (lineKey r.n) (u.upsets.get (fun _ => 0) (lineKey r.n) ^^^ turn) } ∧
        (v.dramRead r.n).2.armed (0xE1 + ch) 3 = false ∧ (v.dramRead r.n).1 = l :=
  ⟨queued rdLine, 0, [], rdLine, ((turned 0).dramRead 0).1, 0, activated rdLine, turned 0, by decide +kernel, by decide +kernel, by decide +kernel, rfl,
      rfl, rfl, rfl, by decide +kernel, rfl⟩

theorem test_DramCommands_3 :
    ∃ (s : State), s.pageOn 0x0E0 = true ∧ s.regBit DRC_STAT 0 = false ∧ s.regBit DRC_STAT 1 = false :=
  ⟨dramed id, by decide +kernel⟩

theorem test_DramCommands_4 :
    ∃ (s : State), s.pageOn 0x0E0 = true ∧ s.regBit DRC_STAT 1 = true :=
  ⟨stored.setReg DRC_STAT 2, by decide +kernel⟩

theorem test_DramCommands_5 :
    ∃ (s : State) (d : Int) (st : Word) (b : Nat) (u : State), s.pageOn 0x0E0 = true ∧ st = s.reg DRC_STAT ∧ b = bandStep 8 (bits st 6 4) d ∧
        u = s.setReg DRC_STAT (setBit (setBits (setBits st 23 16 (d + 64).toNat) 6 4 b) 2 (decide (85 < d))) ∧
        (bandHolds (bits (setBits (setBits st 23 16 (d + 64).toNat) 6 4 b) 10 8) d || bit (setBits (setBits st 23 16 (d + 64).toNat) 6 4 b) 3) = true :=
  ⟨dramed id, 25, _, _, _, by decide +kernel, rfl, rfl, rfl, by decide +kernel⟩

theorem test_DramCommands_6 :
    ∃ (s : State) (d : Int) (st : Word) (b : Nat) (u : State), s.pageOn 0x0E0 = true ∧ st = s.reg DRC_STAT ∧ b = bandStep 8 (bits st 6 4) d ∧
        u = s.setReg DRC_STAT (setBit (setBits (setBits st 23 16 (d + 64).toNat) 6 4 b) 2 (decide (85 < d))) ∧
        (bandHolds (bits (setBits (setBits st 23 16 (d + 64).toNat) 6 4 b) 10 8) d || bit (setBits (setBits st 23 16 (d + 64).toNat) 6 4 b) 3) = false :=
  ⟨dramed id, 70, _, _, _, by decide +kernel, rfl, rfl, rfl, by decide +kernel⟩

theorem test_DramCommands_7 :
    ∃ (s : State) (m : Master) (v : Word) (d : RegDef), Accepts s m 0x0E0 0x88 (setBit v 0 true) (armCond m (setBit v 0 true)) d :=
  ⟨dramed id, .warden, 0, regAt 0xE0 0x88, accepts_of (by decide +kernel)⟩

theorem test_DramCommands_8 :
    ∃ (s : State) (m : Master) (v : Word) (d : RegDef), Accepts s m 0x0E0 0x88 (setBit v 1 true) (armCond m (setBit v 1 true)) d :=
  ⟨dramed id, .warden, 0, regAt 0xE0 0x88, accepts_of (by decide +kernel)⟩

theorem test_DramCommands_9 :
    ∃ (s : State), s.regBit DRC_STAT 1 = false ∧ s.regBit DRC_RT 0 = true ∧ s.regBit DRC_STAT 0 = false ∧ s.power.pwrFail = true ∧
        (s.slotDue || s.dram.margin) = true ∧ (s.dram.chans.all fun c => c.pend == 0) = true :=
  ⟨({ dramed (fun d => { d with margin := true }) with power := { stored.power with pwrFail := true } } : State), by decide +kernel, by decide +kernel,
      by decide +kernel, rfl, by decide +kernel⟩

theorem test_DramCommands_10 :
    ∃ (s : State) (u : State) (st : Word) (ok : Bool) (v : State) (w : State), s.regBit DRC_STAT 1 = true ∧
        u = (List.range 4).foldl (fun (s : State) ch => if (s.dramCh ch).queue.length = 0 then s.modDramCh ch fun c => { c with open_ := [], codes := (List.range 10).foldl (fun m k => m.set (fun _ => 0) k (m.get (fun _ => 0) (16 + k))) c.codes } else (s.modDramCh ch fun c => { c with open_ := [], codes := (List.range 10).foldl (fun m k => m.set (fun _ => 0) k (m.get (fun _ => 0) (16 + k))) c.codes }).count (0xE1 + ch) 6 (s.dramCh ch).queue.length) s ∧
        st = setBit (setBits (u.reg DRC_STAT) 10 8 (bits (u.reg DRC_STAT) 6 4)) 1 false ∧ ok = bandHolds (bits (u.reg DRC_STAT) 6 4) u.dramTemp ∧
        v = (u.setReg DRC_STAT (if ok then setBit st 3 false else st)).setReg DRC_RT 0 ∧
        w = { v with dram := { v.dram with lastBo := v.pages.dtime, margin := if ok then false else v.dram.margin } } :=
  ⟨(dramed id).setReg DRC_STAT 0x00590332, _, _, _, _, _, by decide +kernel, rfl, rfl, rfl, rfl, rfl⟩

theorem test_DramCommands_12 :
    ∃ (s : State) (m : Master) (page : Nat) (v : Word) (d : RegDef), Accepts s m page 0xD28 (setBit v 0 true) noCond d :=
  ⟨dramed id, .warden, 0xE8, 0, regAt 0xE8 0xD28, accepts_of (by decide +kernel)⟩

theorem test_CacheCommands_0 :
    ∃ (s : State) (id : Nat) (addr : Nat) (len : Nat) (cls : Nat) (write : Option (List Byte)) (u : State), id < 63 ∧ 0 < len ∧ addr % 128 + len ≤ 128 ∧
        addr / 128 < lineCount ∧ s.regionFilled addr = true ∧ s.pageOn 0xE8 = true ∧
        s.access id { n := addr / 128, off := addr % 128, len := len, cls := cls % 4, write := write.map fun bs => sub bs 0 len } = some u :=
  ⟨dramed id, 3, 8, 8, 1, some [1, 2, 3, 4, 5, 6, 7, 8],
      ((dramed id).access 3 ({ n := 0, off := 8, len := 8, cls := 1, write := some [1, 2, 3, 4, 5, 6, 7, 8] } : Access)).getD (dramed id),
      by decide +kernel, by decide +kernel, by decide +kernel, by decide +kernel, by decide +kernel, by decide +kernel,
      some_of (dramed id) (by decide +kernel)⟩

theorem test_CacheCommands_1 :
    ∃ (s : State) (slice : Nat) (id : Nat) (p : CPort) (d : Line) (pois : Bool) (x : Line) (y : Bool) (w : Bool) (v : State) (u : State),
        (s.slice slice).port id = some p ∧ p.arrived = some (d, pois) ∧ s.serveJoined slice id p.joined d pois false = (x, y, w, v) ∧
        (if p.alloc && !(v.usableWays slice id).isEmpty then v.allocate slice id p.n 0 x w y else if w then v.enqueue { n := p.n, cls := 0, req := id, since := s.pages.dtime, write := some (x, y) } else some v) = some u :=
  ⟨filling, 0, 3, cport, 7, false, joinedBy.1, joinedBy.2.1, joinedBy.2.2.1, joinedBy.2.2.2,
      (if cport.alloc && !(joinedBy.2.2.2.usableWays 0 3).isEmpty then joinedBy.2.2.2.allocate 0 3 cport.n 0 joinedBy.1 joinedBy.2.2.1 joinedBy.2.1 else if joinedBy.2.2.1 then joinedBy.2.2.2.enqueue { n := cport.n, cls := 0, req := 3, since := filling.pages.dtime, write := some (joinedBy.1, joinedBy.2.1) } else some joinedBy.2.2.2).getD filling,
      by decide +kernel, rfl, rfl, some_of filling (by decide +kernel)⟩

theorem test_CacheCommands_2 :
    ∃ (s : State) (slice : Nat) (way : Nat) (at_ : Nat × Nat) (u : State), (s.slice slice).retire.find? (·.1 == way) = some at_ ∧ at_.2 ≤ s.ns ∧
        (s.slice slice).wop = none ∧
        u = (s.flushWay slice way).setReg (FCH_WAYS slice) (setBit (setBit ((s.flushWay slice way).reg (FCH_WAYS slice)) (16 + way) false) way true) :=
  ⟨cached fun sl => { sl with retire := [(2, 0)] }, 0, 2, (2, 0), _, by decide +kernel, by decide +kernel, by decide +kernel, rfl⟩

theorem test_CacheCommands_3 :
    ∃ (s : State) (m : Master) (slice : Nat) (v : Word) (d : RegDef), Accepts s m (fchPage slice) 0x98 v (wdisCond m slice v) d :=
  ⟨cached id, .warden, 0, 4, regAt (fchPage 0) 0x98, accepts_of (by decide +kernel)⟩

theorem test_CacheCommands_4 :
    ∃ (s : State) (m : Master) (v : Word) (d : RegDef), Accepts s m 0x0EC 0x88 (setBits v 2 0 1) (mopCond m (setBits v 2 0 1)) d :=
  ⟨cached id, .warden, 0, regAt 0xEC 0x88, accepts_of (by decide +kernel)⟩

theorem test_CacheCommands_5 :
    ∃ (s : State) (m : Master) (v : Word) (d : RegDef), Accepts s m 0x0EC 0x88 (setBits v 2 0 2) (mopCond m (setBits v 2 0 2)) d :=
  ⟨cached id, .warden, 0, regAt 0xEC 0x88, accepts_of (by decide +kernel)⟩

theorem test_CacheCommands_6 :
    ∃ (s : State) (m : Master) (v : Word) (d : RegDef), Accepts s m 0x0EC 0x88 (setBits v 2 0 3) (mopCond m (setBits v 2 0 3)) d :=
  ⟨cached id, .warden, 0, regAt 0xEC 0x88, accepts_of (by decide +kernel)⟩

theorem test_CacheCommands_7 :
    ∃ (s : State) (m : Master) (v : Word) (d : RegDef), Accepts s m 0x0EC 0x88 (setBits v 2 0 4) (mopCond m (setBits v 2 0 4)) d :=
  ⟨cached id, .warden, 0, regAt 0xEC 0x88, accepts_of (by decide +kernel)⟩

theorem test_CacheCommands_8 :
    ∃ (s : State) (m : Master) (v : Word) (d : RegDef), Accepts s m 0x0EC 0x88 (setBits v 2 0 5) (mopCond m (setBits v 2 0 5)) d :=
  ⟨cached id, .warden, 0, regAt 0xEC 0x88, accepts_of (by decide +kernel)⟩

theorem test_CacheCommands_9 :
    ∃ (s : State) (m : Master) (slice : Nat) (v : Word) (d : RegDef),
        Accepts s m (fchPage slice) 0xA0 (setBits v 1 0 1) (wopCond m slice (setBits v 1 0 1)) d :=
  ⟨cached id, .warden, 0, 0x20, regAt (fchPage 0) 0xA0, accepts_of (by decide +kernel)⟩

theorem test_CacheCommands_10 :
    ∃ (s : State) (m : Master) (slice : Nat) (v : Word) (d : RegDef),
        Accepts s m (fchPage slice) 0xA0 (setBits v 1 0 2) (wopCond m slice (setBits v 1 0 2)) d :=
  ⟨cached id, .warden, 0, 0x20, regAt (fchPage 0) 0xA0, accepts_of (by decide +kernel)⟩

theorem test_CacheCommands_11 :
    ∃ (s : State) (o : MOp) (u : State), s.dram.mop = some o ∧ s.mopWaits o = false ∧
        u = s.maintain o.covers (o.op != 2) (o.op = 2 || o.op = 3 || o.op = 5) :=
  ⟨({ cached id with dram := { (cached id).dram with mop := some ⟨3, 0, 1⟩ } } : State), ⟨3, 0, 1⟩, _, by decide +kernel, by decide +kernel, rfl⟩

theorem test_CacheCommands_12 :
    ∃ (s : State) (k : Nat) (op : Nat) (w : Nat) (u : State), (s.slice k).wop = some (op, w) ∧
        ((s.slice k).ports.any fun p => p.alloc && (s.usableWays k p.id).contains w) = false ∧
        u = (s.writeBack k ((s.slice k).lines.filter (·.way == w))).modSlice k (fun sl => { sl with wop := none, lines := if op = 2 then sl.lines.filter (·.way != w) else sl.lines.map fun l => if l.way = w then { l with dirty := false } else l }) :=
  ⟨cached fun sl => { sl with wop := some (2, 2) }, 0, 2, 2, _, by decide +kernel, rfl, rfl⟩
end G13

/-! ## Witnesses: The field die -/

namespace G14

/-- The field die changed; powered, with its link up or down. -/
def fielded (f : Field → Field) : State := { awake with field := f Field.reset }
def linked (f : Field → Field) : State := fielded fun g => f { g with linkUp := true }

/-- A classic CAN frame in the ring, and a wake pending with the link down. -/
def oneCan : RingEntry := ⟨0, mkMsg 2 0 0 0 (leBytes 8 0 ++ canRec 0 1 2 5 [1, 2]), false⟩
def waking : State := fielded fun f => { f with repeats := true }

/-- A frame filter of port 0 that passes everything, and an Ethernet frame. -/
def etherOn : State := fielded fun f => { f with mram := { f.mram with
  params := [(0x280, leBytes 4 1), (0x300, [1] ++ List.replicate 11 0 ++ leBytes 2 64 ++ List.replicate 6 0)] } }

/-- A value in two parts, by its second. -/
theorem both_of {α β : Type} {x : α × β} {b : β} (h : x.2 = b) : x = (x.1, b) := by subst h; rfl

/-- The field die once it has taken the message that it expects. -/
def tookMsg (s : State) (q : BitVec 32) : State := s.modField fun f => { f with expect := some (q + 1) }

/-- Messages to the field die: a parameter, the time, a policy, a frame, a patch segment, its activation, an ACK, an ACK with RESUME. -/
def cfgMsg : List Byte := mkMsg 0x81 4 3 0 (leBytes 2 0x500 ++ [0, 0] ++ leBytes 4 30)
def timeMsg : List Byte := mkMsg 0x82 4 1 0 (leBytes 8 1704067200000001 ++ [1] ++ List.replicate 7 0)
def polMsg : List Byte := mkMsg 0x83 4 3 0 (leBytes 4 3 ++ [50, 1, 0, 0] ++ leBytes 8 0)
def txMsg : List Byte := mkMsg 0x84 4 1 0 (leBytes 4 5 ++ [1, 1, 0, 0, 9])
def segMsg : List Byte := mkMsg 0x85 4 3 0 (leBytes 4 0 ++ leBytes 4 16 ++ leBytes 4 7)
def actMsg : List Byte := mkMsg 0x85 4 3 2 (List.replicate 8 0)
def ackMsg (fl : Nat) : List Byte := mkMsg 0x86 0 0 fl (List.replicate 8 0)
def verified (st : Nat) : State := linked fun f => f.setSpare { Patch.none with state := st }

theorem test_FieldInputCommands_0 :
    ∃ (s : State) (n : Nat) (level : Bool) (p : List Byte) (u : State), s.field.powered = true ∧ n < 4 ∧ s.field.levels.getD n false ≠ level ∧
        p = s.field.param (0x400 + n) ∧ u = s.modField (fun f => { f with levels := f.levels.set n level }) :=
  ⟨fielded id, 0, true, _, _, rfl, by decide, by decide +kernel, rfl, rfl⟩

theorem test_FieldInputCommands_1 :
    ∃ (s : State) (w : Nat), s.field.powered = true ∧ fld (s.field.param 0x410) 2 2 ≤ w :=
  ⟨fielded id, 100, rfl, by decide +kernel⟩

theorem test_FieldInputCommands_2 :
    ∃ (s : State), s.field.powered = true :=
  ⟨fielded id, rfl⟩

theorem test_FieldInputCommands_3 :
    ∃ (s : State) (bus : Nat) (ident : Word) (brs : Bool) (esi : Bool) (dlc : Nat) (data : List Byte) (id : Word) (time : List Byte) (head : Nat →
        List Byte) (d : List Byte) (n : Nat), s.field.powered = true ∧ bus < 4 ∧ mByte (s.field.param (0x100 + bus)) 5 ≠ 0 ∧
        zeros (s.field.param (0x100 + bus)) 2 2 = false ∧ id = ident &&& 0x3FFFFFFF ∧ s.field.canPasses bus id = true ∧
        time = leBytes 8 s.field.time.toNat ∧ n = canLen true (min dlc 15) ∧
        head = (fun p => time ++ wordBytes id ++ leBytes 1 (bus + 4 * brs.toNat + 8 * esi.toNat) ++ leBytes 1 (min dlc 15) ++ leBytes 1 p ++ [0]) ∧
        d = sub data 0 n :=
  ⟨fielded id, 1, 0x40000005, true, false, 9, [1], _, _, _, _, _, rfl, by decide +kernel, by decide +kernel, by decide +kernel, rfl, by decide +kernel,
      rfl, by rfl, rfl, rfl⟩

theorem test_FieldInputCommands_4 :
    ∃ (s : State) (bus : Nat) (ident : Word) (id : Word) (time : List Byte), s.field.powered = true ∧ bus < 4 ∧
        mByte (s.field.param (0x100 + bus)) 5 ≠ 0 ∧ id = ident &&& 0x7FFFFFFF ∧ s.field.canPasses bus id = true ∧ time = leBytes 8 s.field.time.toNat ∧
        s.field.joins = none :=
  ⟨fielded id, 1, 5, _, _, rfl, by decide +kernel, by decide +kernel, rfl, by decide +kernel, rfl, rfl⟩

theorem test_FieldInputCommands_5 :
    ∃ (s : State) (bus : Nat) (ident : Word) (id : Word) (e : RingEntry) (ms : Nat), s.field.powered = true ∧ bus < 4 ∧
        mByte (s.field.param (0x100 + bus)) 5 ≠ 0 ∧ id = ident &&& 0x7FFFFFFF ∧ s.field.canPasses bus id = true ∧ s.field.joins = some e ∧
        ms = (s.field.time - BitVec.ofNat 64 (fld (mBody e.msg) 0 8)).toNat :=
  ⟨fielded fun f => { f with ring := [oneCan] }, 1, 5, _, oneCan, _, rfl, by decide +kernel, by decide +kernel, rfl, by decide +kernel,
      by decide +kernel, rfl⟩

theorem test_FieldInputCommands_6 :
    ∃ (s : State) (bus : Nat) (st : Nat), s.field.powered = true ∧ bus < 4 ∧ st ≤ 2 ∧ s.field.busSt.getD bus 0 ≠ st :=
  ⟨fielded id, 1, 1, rfl, by decide +kernel⟩

theorem test_FieldInputCommands_7 :
    ∃ (s : State) (port : Nat) (frame : List Byte) (k : Nat) (cap : Nat) (parts : Nat), s.field.powered = true ∧ port < 2 ∧
        mByte (s.field.param (0x280 + port)) 0 ≠ 0 ∧ 14 ≤ frame.length ∧ frame.length ≤ 1518 ∧
        (List.range 16).find? (fun k => ethMatches (s.field.param (0x300 + 16 * port + k)) frame) = some k ∧
        cap = min frame.length (fld (s.field.param (0x300 + 16 * port + k)) 12 2) ∧ parts = (cap + 35) / 36 :=
  ⟨etherOn, 0, List.replicate 64 0, 0, _, _, rfl, by decide +kernel, by decide +kernel, by decide +kernel, by decide +kernel, rfl, rfl, rfl⟩

theorem test_FieldInputCommands_8 :
    ∃ (s : State) (port : Nat) (up : Bool), s.field.powered = true ∧ port < 2 ∧ s.field.ethUp.getD port false ≠ up :=
  ⟨fielded id, 1, true, rfl, by decide +kernel⟩

theorem test_FieldInputCommands_9 :
    ∃ (s : State), s.field.powered = true :=
  ⟨fielded id, rfl⟩

theorem test_FieldInputCommands_10 :
    ∃ (s : State), s.field.powered = true :=
  ⟨fielded id, rfl⟩

theorem test_FieldInputCommands_11 :
    ∃ (s : State), s.field.powered = true :=
  ⟨fielded id, rfl⟩

theorem test_FieldInputCommands_12 :
    ∃ (s : State), s.field.powered = true :=
  ⟨fielded id, rfl⟩

theorem test_FieldInputCommands_13 :
    ∃ (s : State), s.field.powered = true ∧ s.field.mram.policy.alarm ≠ 0 ∧ s.field.mram.policy.alarm.toNat ≤ s.field.time.toNat :=
  ⟨fielded fun f => { f with time := 9, mram := { f.mram with policy := { f.mram.policy with alarm := 5 } } }, rfl, by decide +kernel⟩

theorem test_FieldInputCommands_14 :
    ∃ (s : State), s.field.powered = true ∧ s.field.slew = some 0 :=
  ⟨fielded fun f => { f with slew := some 0 }, rfl, rfl⟩

theorem test_FieldInputCommands_15 :
    ∃ (s : State), s.field.powered = true ∧ s.field.repeats = true ∧ s.field.linkUp = false :=
  ⟨waking, rfl, rfl, rfl⟩

theorem test_FieldInputCommands_16 :
    ∃ (s : State), s.field.powered = true :=
  ⟨fielded id, rfl⟩

theorem test_FieldInputCommands_17 :
    ∃ (s : State), s.field.powered = true ∧ s.field.repeats = true ∧ s.field.linkUp = false :=
  ⟨waking, rfl, rfl, rfl⟩

theorem test_FieldInputCommands_18 :
    ∃ (s : State) (e : RingEntry) (m : List Byte), s.field.powered = true ∧ s.field.linkUp = true ∧
        (s.field.ring.find? fun e => e.seq == s.field.sendAt) = some e ∧
        m = (if !e.bad && crc32c (e.msg.take 60) == leWord (sub e.msg 60 4) then e.msg else mkMsg 1 e.seq.toNat 0 0 (eventBody s.field.time 9 0 (mType e.msg))) :=
  ⟨linked fun f => { f with ring := [oneCan] }, oneCan, _, rfl, rfl, by decide +kernel, rfl⟩

theorem test_FieldInputCommands_19 :
    ∃ (s : State) (u : State), s.field.powered = false ∧
        u = s.modField (fun f => { f with powered := true, fell := false, time := f.mram.time, tvalid := false, slew := none, slewAcc := 0, quality := 0, lastSet := none, ring := [], seq := f.mram.reserve, sendAt := f.mram.reserve, resent := f.mram.reserve, tokens := 4096, tokAcc := 0, fired := 0, repeats := false, outputs := [false, false], mram := { f.mram with cold := sat32 (f.mram.cold + 1) }, counts := { rateDrops := 0, fullDrops := 0, rxErr := 0, fcsErr := 0, canErr := 0, corr := 0, cold := 0 }, frames := [0, 0], pulses := 0, pulsed := false, expect := none, acks := [], tx := [], sentAt := [], linkUp := false }) :=
  ⟨fielded fun f => { f with powered := false }, _, rfl, rfl⟩

theorem test_FieldInputCommands_20 :
    ∃ (s : State), s.field.powered = true :=
  ⟨fielded id, rfl⟩

theorem test_FieldMessageCommands_0 :
    ∃ (s : State) (msg : List Byte) (u : State) (r : Nat), s.field.powered = true ∧ s.field.linkUp = true ∧ msgFault false msg = none ∧ mType msg = 0x81 ∧
        mSeq msg = s.field.expect.getD (mSeq msg) ∧ (s.modField fun f => { f with expect := some (mSeq msg + 1) }).config (mBody msg) = (u, some r) :=
  ⟨linked id, cfgMsg, ((tookMsg (linked id) 4).config (mBody cfgMsg)).1, 0, rfl, rfl, by decide +kernel, by decide +kernel, by decide +kernel,
      both_of (by decide +kernel)⟩

theorem test_FieldMessageCommands_1 :
    ∃ (s : State) (msg : List Byte) (u : State) (r : Nat), s.field.powered = true ∧ s.field.linkUp = true ∧ msgFault false msg = none ∧ mType msg = 0x82 ∧
        mSeq msg = s.field.expect.getD (mSeq msg) ∧
        (s.modField fun f => { f with expect := some (mSeq msg + 1) }).timeSet (BitVec.ofNat 64 (fld (mBody msg) 0 8)) (mByte (mBody msg) 8) = (u,
        some r) :=
  ⟨linked id, timeMsg, ((tookMsg (linked id) 4).timeSet (BitVec.ofNat 64 (fld (mBody timeMsg) 0 8)) (mByte (mBody timeMsg) 8)).1, 0, rfl, rfl,
      by decide +kernel, by decide +kernel, by decide +kernel, both_of (by decide +kernel)⟩

theorem test_FieldMessageCommands_2 :
    ∃ (s : State) (msg : List Byte) (b : List Byte), s.field.powered = true ∧ s.field.linkUp = true ∧ msgFault false msg = none ∧ mType msg = 0x83 ∧
        mSeq msg = s.field.expect.getD (mSeq msg) ∧ b = mBody msg :=
  ⟨linked id, polMsg, _, rfl, rfl, by decide +kernel, by decide +kernel, by decide +kernel, rfl⟩

theorem test_FieldMessageCommands_3 :
    ∃ (s : State) (msg : List Byte) (u : State) (r : Option Nat), s.field.powered = true ∧ s.field.linkUp = true ∧ msgFault false msg = none ∧
        mType msg = 0x84 ∧ mSeq msg = s.field.expect.getD (mSeq msg) ∧
        (s.modField fun f => { f with expect := some (mSeq msg + 1) }).txCan (mSeq msg) (mBody msg) = (u, r) :=
  ⟨linked id, txMsg, ((tookMsg (linked id) 4).txCan (mSeq txMsg) (mBody txMsg)).1, some 4, rfl, rfl, by decide +kernel, by decide +kernel,
      by decide +kernel, both_of (by decide +kernel)⟩

theorem test_FieldMessageCommands_4 :
    ∃ (s : State) (x : CanTx) (rest : List CanTx) (u : State), s.field.powered = true ∧ s.field.tx = x :: rest ∧
        u = s.modField (fun f => { f with tx := rest }) :=
  ⟨fielded fun f => { f with tx := [⟨3, 1, 5, 0, 1, [9], 0⟩] }, ⟨3, 1, 5, 0, 1, [9], 0⟩, [], _, rfl, rfl, rfl⟩

theorem test_FieldMessageCommands_5 :
    ∃ (s : State) (msg : List Byte) (u : State) (r : Option Nat), s.field.powered = true ∧ s.field.linkUp = true ∧ msgFault false msg = none ∧
        mType msg = 0x85 ∧ mFlag msg 1 = false ∧ mSeq msg = s.field.expect.getD (mSeq msg) ∧
        (s.modField fun f => { f with expect := some (mSeq msg + 1) }).fieldSegment msg = (u, r) :=
  ⟨linked id, segMsg, ((tookMsg (linked id) 4).fieldSegment segMsg).1, some 0, rfl, rfl, by decide +kernel, by decide +kernel, by decide +kernel,
      by decide +kernel, both_of (by decide +kernel)⟩

theorem test_FieldMessageCommands_6 :
    ∃ (s : State) (p : Patch), s.field.powered = true ∧ s.field.spare = p ∧ p.state = 2 :=
  ⟨verified 2, _, rfl, rfl, rfl⟩

theorem test_FieldMessageCommands_7 :
    ∃ (s : State) (msg : List Byte) (starts : Bool) (u : State) (r : Nat), s.field.powered = true ∧ s.field.linkUp = true ∧ msgFault false msg = none ∧
        mType msg = 0x85 ∧ mFlag msg 1 = true ∧ mSeq msg = s.field.expect.getD (mSeq msg) ∧
        (s.modField fun f => { f with expect := some (mSeq msg + 1) }).activatePatch starts = (u, some r) :=
  ⟨verified 3, actMsg, true, ((tookMsg (verified 3) 4).activatePatch true).1, 0, rfl, rfl, by decide +kernel, by decide +kernel, by decide +kernel,
      by decide +kernel, both_of (by decide +kernel)⟩

theorem test_FieldMessageCommands_8 :
    ∃ (s : State) (msg : List Byte) (a : Word) (u : State) (v : State), s.field.powered = true ∧ s.field.linkUp = true ∧ msgFault false msg = none ∧
        mType msg = 0x86 ∧ a = leWord ((mBody msg).take 4) ∧
        u = (if seqLe s.field.sentTo a = true then s.rxErr else s.modField fun f => { f with ring := f.ring.filter fun e => !seqLe e.seq a }) ∧
        v = u.modField (fun f => f.sendFrom (if mFlag msg 0 = true then leWord (sub (mBody msg) 4 4) else f.sendAt)) :=
  ⟨linked fun f => { f with sendAt := 1 }, ackMsg 2, 0, _, _, rfl, rfl, by decide +kernel, by decide +kernel, by decide +kernel, rfl, rfl⟩
end G14

/-! ## Witnesses: The Front link -/

namespace G15

/-- The front link up, the host side changed, and an entry and messages of the field die. -/
def fronted (f : Frl → Frl) : State :=
  let s := awake.setReg FRL_STAT 0x1E1
  { s with frl := f s.frl, pages := { s.pages with dtime := 100000 } }
def entryMsg (ty : Nat) : List Byte := mkMsg ty 0 0 0 (match ty with
  | 1 => eventBody 0 0 1 0
  | 2 => leBytes 8 0 ++ canRec 0 1 2 5 [1, 2]
  | 3 => List.replicate 10 0 ++ leBytes 2 1 ++ List.replicate 5 0
  | 4 => List.replicate 24 0
  | _ => List.replicate 48 0)
def hostMsg : HostMsg := ⟨0, 0x83, 0, [], .page, 0, 0⟩

/-- The device with an evidence namespace, tokens of cell 14, a key in slot 33 and two entries held. -/
def capturing : State :=
  let s := fronted fun f => { f with held := [(1, entryMsg 1, 0, true), (2, entryMsg 1, 0, true)] }
  { s with
    host := { s.host with evid := { s.host.evid with cap := 1000 } }
    adm := { s.adm with buckets := List.replicate 17 ⟨100000000, 100000000⟩ }
    ftl := { s.ftl with map := { s.ftl.map with blocks := [(16 * 4096 + 3, ⟨0, .pslc, 1, 1, stEvid, 0, false, 0, false⟩)] } }
    crypto := { s.crypto with slots := at' s.crypto.slots 33 fun k => { k with valid := true, klen := 2, label := 2, lim := 32 } } }

theorem test_FrontLinkCommands_1 :
    ∃ (s : State), s.frontUp = true :=
  ⟨fronted id, rfl⟩

theorem test_FrontLinkCommands_2 :
    ∃ (s : State) (m : Master) (v : Word) (d : RegDef), Accepts s m 0x0F0 0x80 (setBit v 1 true) noCond d :=
  ⟨fronted id, .warden, 1, regAt 0xF0 0x80, accepts_of (by decide +kernel)⟩

theorem test_FrontLinkCommands_3 :
    ∃ (s : State), s.frontUp = true ∧ s.frl.waiting = true ∧ 1000 ≤ (s.pages.dtime - s.frl.lastTx).toNat :=
  ⟨fronted fun f => { f with waiting := true }, rfl, rfl, by decide +kernel⟩

theorem test_FrontLinkCommands_4 :
    ∃ (s : State) (old : HostMsg → Bool) (u : State), s.frontUp = true ∧ old = (fun h : HostMsg => decide (1000 ≤ (s.pages.dtime - h.sent).toNat)) ∧
        u = (s.frl.unack.filter old).foldl (fun (x : State) h => x.emit (.toField (h.stamp s.pages.dtime).again)) s :=
  ⟨fronted fun f => { f with unack := [hostMsg] }, _, _, rfl, rfl, rfl⟩

theorem test_FrontLinkCommands_5 :
    ∃ (s : State) (msg : List Byte) (u : State), s.frontUp = true ∧ msgFault true msg = none ∧ mType msg = 1 ∧ s.frlBad msg = (false, u) ∧
        u.frl.waiting = false ∧ mSeq msg = u.reg FRL_RXSEQ :=
  ⟨fronted id, entryMsg 1, ((fronted id).frlBad (entryMsg 1)).2, rfl, by decide +kernel, by decide +kernel, Prod.ext (by decide +kernel) rfl,
      by decide +kernel⟩

theorem test_FrontLinkCommands_6 :
    ∃ (s : State) (msg : List Byte) (u : State), s.frontUp = true ∧ msgFault true msg = none ∧ mType msg = 2 ∧ s.frlBad msg = (false, u) ∧
        u.frl.waiting = false ∧ mSeq msg = u.reg FRL_RXSEQ :=
  ⟨fronted id, entryMsg 2, ((fronted id).frlBad (entryMsg 2)).2, rfl, by decide +kernel, by decide +kernel, Prod.ext (by decide +kernel) rfl,
      by decide +kernel⟩

theorem test_FrontLinkCommands_7 :
    ∃ (s : State) (msg : List Byte) (u : State), s.frontUp = true ∧ msgFault true msg = none ∧ mType msg = 3 ∧ s.frlBad msg = (false, u) ∧
        u.frl.waiting = false ∧ mSeq msg = u.reg FRL_RXSEQ :=
  ⟨fronted id, mkMsg 3 0 0 1 (List.replicate 10 0 ++ leBytes 2 1 ++ List.replicate 5 0),
      ((fronted id).frlBad (mkMsg 3 0 0 1 (List.replicate 10 0 ++ leBytes 2 1 ++ List.replicate 5 0))).2, rfl, by decide +kernel, by decide +kernel,
      Prod.ext (by decide +kernel) rfl, by decide +kernel⟩

theorem test_FrontLinkCommands_8 :
    ∃ (s : State) (msg : List Byte) (u : State), s.frontUp = true ∧ msgFault true msg = none ∧ mType msg = 4 ∧ s.frlBad msg = (false, u) ∧
        u.frl.waiting = false ∧ mSeq msg = u.reg FRL_RXSEQ :=
  ⟨fronted id, entryMsg 4, ((fronted id).frlBad (entryMsg 4)).2, rfl, by decide +kernel, by decide +kernel, Prod.ext (by decide +kernel) rfl,
      by decide +kernel⟩

theorem test_FrontLinkCommands_9 :
    ∃ (s : State) (msg : List Byte) (u : State), s.frontUp = true ∧ msgFault true msg = none ∧ mType msg = 6 ∧ s.frlBad msg = (false, u) ∧
        u.frl.waiting = false ∧ mSeq msg = u.reg FRL_RXSEQ :=
  ⟨fronted id, entryMsg 6, ((fronted id).frlBad (entryMsg 6)).2, rfl, by decide +kernel, by decide +kernel, Prod.ext (by decide +kernel) rfl,
      by decide +kernel⟩

theorem test_FrontLinkCommands_10 :
    ∃ (s : State) (msg : List Byte) (u : State), s.frontUp = true ∧ msgFault true msg = none ∧ mType msg = 7 ∧ s.frlBad msg = (false, u) :=
  ⟨fronted id, mkMsg 7 0 0 0 (List.replicate 8 0), ((fronted id).frlBad (mkMsg 7 0 0 0 (List.replicate 8 0))).2, rfl, by decide +kernel,
      by decide +kernel, Prod.ext (by decide +kernel) rfl⟩

theorem test_FrontLinkCommands_11 :
    ∃ (s : State) (msg : List Byte) (u : State), s.frontUp = true ∧ msgFault true msg = none ∧ mType msg = 5 ∧ s.frlBad msg = (false, u) :=
  ⟨fronted id, mkMsg 5 0 0 0 (List.replicate 8 0), ((fronted id).frlBad (mkMsg 5 0 0 0 (List.replicate 8 0))).2, rfl, by decide +kernel,
      by decide +kernel, Prod.ext (by decide +kernel) rfl⟩

theorem test_FrontLinkCommands_12 :
    ∃ (s : State) (msg : List Byte), s.frontUp = false ∧ s.power.aon = true ∧ msgFault true msg = none ∧ mType msg = 5 :=
  ⟨awake, mkMsg 5 0 0 0 (List.replicate 8 0), rfl, rfl, by decide +kernel⟩

theorem test_FrontLinkCommands_13 :
    ∃ (s : State) (m : Master) (v : Word) (d : RegDef) (u : State) (w : Word),
        Accepts s m 0x0F0 0xC0 (setBit v 16 true) (frlMsgCond m 0xC0 (setBit v 16 true)) d ∧ w = setBit v 16 true ∧
        u = (s.arrive m).store FRL_MSGCTL w d :=
  ⟨fronted id, .warden, 0, regAt 0xF0 0xC0, _, _, accepts_of (by decide +kernel), rfl, rfl⟩

theorem test_FrontLinkCommands_14 :
    ∃ (s : State) (mine : HostMsg → Bool) (u : State), s.pageOn 0x0F0 = true ∧ s.regBit FRL_MSGCTL 17 = true ∧
        mine = (fun h : HostMsg => h.owner == .page && decide (10000 ≤ (s.pages.dtime - h.first).toNat)) ∧ (s.frl.unack ++ s.frl.queue).any mine = true ∧
        u = s.modFrl (fun f => { f with unack := f.unack.map (fun h => if mine h then { h with owner := .firmware } else h), queue := f.queue.map fun h => if mine h then { h with owner := .firmware } else h }) :=
  ⟨(fronted fun f => { f with unack := [hostMsg] }).setReg FRL_MSGCTL 0x20000, _, _, by decide +kernel, by decide +kernel, rfl, by decide +kernel, rfl⟩

theorem test_FrontLinkCommands_15 :
    ∃ (s : State) (n : Nat) (k : Nat) (e : Evid) (es : List (BitVec 32 × List Byte × BitVec 64 × Bool)) (bs : List Block) (last : BitVec 32) (u : State) (v : State) (x : State) (y : State),
        s.captures = true ∧ n = s.captureTake ∧ n ≠ 0 ∧ k = (n + 62) / 63 ∧ e = s.host.evid ∧ (s.frl.appends.filter fun a => !a.done).length < 2 ∧
        s.regionFull = false ∧ e.append + k ≤ e.cap ∧ 10000 ≤ (s.bucketNow 16).cmds ∧ 4096 * k ≤ (s.bucketNow 16).bytes ∧ s.regBit KEY_STAT 3 = false ∧
        (s.key 33).valid = true ∧ s.useKey 33 = (true, u) ∧ es = u.frl.held.take n ∧ u.sealBlocks es k = (bs, v) ∧ last = (es.getLast?.map (·.1)).getD 0 ∧
        x = ((v.takeTokens 16 (4096 * k)).count64 0x020 2 1).modFrl (fun f => { f with held := f.held.drop n, appends := f.appends ++ [(⟨capRef e.fieldCnt, last, false⟩ : CapAppend)] }) ∧
        y = { x with host := { x.host with nextSeq := x.host.nextSeq + 1, evid := { x.host.evid with append := e.append + k, fieldCnt := e.fieldCnt + 1, open_ := e.open_ ++ [(⟨e.append, k, some (capRef e.fieldCnt), false, x.host.nextSeq, none⟩ : AppendRec)] } } } :=
  ⟨capturing, 2, 1, _, _, (((capturing.useKey 33).2).sealBlocks (((capturing.useKey 33).2).frl.held.take 2) 1).1, _, (capturing.useKey 33).2,
      (((capturing.useKey 33).2).sealBlocks (((capturing.useKey 33).2).frl.held.take 2) 1).2, _, _, by decide +kernel, by decide +kernel,
      by decide +kernel, by decide +kernel, rfl, by decide +kernel, by decide +kernel, by decide +kernel, by decide +kernel, by decide +kernel,
      by decide +kernel, by decide +kernel, Prod.ext (by decide +kernel) rfl, rfl, rfl, rfl, rfl, rfl⟩

theorem test_FrontLinkCommands_16 :
    ∃ (s : State) (k : Nat) (a : CapAppend) (u : State), s.frl.appends[k]? = some a ∧ a.done = false ∧ s.stagedFor a.ref = false ∧
        u = (s.closeAppend fun x => x.who == some a.ref).closeSpan 5 :=
  ⟨fronted fun f => { f with appends := [⟨capRef 0, 5, false⟩] }, 0, ⟨capRef 0, 5, false⟩, _, by decide +kernel, rfl, by decide +kernel, rfl⟩

theorem test_FrontLinkCommands_17 :
    ∃ (s : State) (d : BitVec 64), s.captureDue = some d ∧ s.pageOn 0x0F0 = true ∧ 3000 < (s.pages.dtime - d).toNat ∧ d.toNat ≤ s.pages.dtime.toNat :=
  ⟨fronted fun f => { f with held := [(1, [], 0, true)] }, 20000, by decide +kernel⟩
end G15

/-! ## Witnesses: Side-band management -/

namespace G16

/-- The side-band port enabled, the warden answering. -/
def ported (f : State → State) : State := f (awake.setReg SBM_CTRL 0x100)
def p0 : State := ported id

/-- The state once the port has taken a request. -/
def taken (s : State) : State := s.startWosc.count 0x0F8 2 1

/-- A control request, an NVMe-MI request and a vendor request. -/
def ctl (l : List Byte) : SbReq := ⟨9, 1, 0, 0x80 :: l, true⟩
def mi (op : Byte) (d0 d1 : Word) : SbReq := ⟨9, 1, 4, [8, 0, 0, op, 0, 0, 0] ++ wordBytes d0 ++ wordBytes d1, true⟩
def vnd (op : Byte) (l : List Byte) : SbReq := ⟨9, 1, 0x7E, [op, 1, 0, 0] ++ l, true⟩

/-- `Takes`, `TakesOp` and `Serves` as values. -/
def takesB (s : State) (r : SbReq) : Bool :=
  s.portOn && decide (r.body.length ≤ 1024) && r.chk &&
    !((s.startWosc.sb.waits.any fun w => w.eid == r.eid && w.tag == r.key) || s.startWosc.sb.held.any fun w => w.eid == r.eid && w.key == r.key) &&
    !s.startWosc.moving 40 && decide ((s.startWosc.count 0x0F8 2 1).sb.waits.length + (s.startWosc.count 0x0F8 2 1).sb.held.length < 4)

theorem takes_of {s : State} {r : SbReq} (h : takesB s r = true) : Takes s r (taken s) := by
  simp only [takesB, Bool.and_eq_true, Bool.not_eq_true', decide_eq_true_eq] at h
  exact ⟨h.1.1.1.1.1, h.1.1.1.1.2, h.1.1.1.2, h.1.1.2, h.1.2, rfl, h.2⟩

theorem takesOp_of {s : State} {r : SbReq} {op : Nat} {rom : Bool}
    (h : (takesB s r && r.type == 0x7E && r.op == op && !((taken s).inRom && !rom) && decide (fld r.body 2 2 = 0)) = true) :
    TakesOp s r op rom (taken s) := by
  simp only [Bool.and_eq_true, Bool.not_eq_true', decide_eq_true_eq, beq_iff_eq] at h
  exact ⟨takes_of h.1.1.1.1, h.1.1.1.2, h.1.1.2, h.1.2, h.2⟩

theorem serves_of {v : State} (h : (v.mainAwake && !v.sb.state6) = true) : Serves v := by
  simp only [Bool.and_eq_true, Bool.not_eq_true'] at h
  exact h

theorem triple_by {α β γ : Type} {x : α × β × γ} {a : α} {b : β} (h : (x.1, x.2.1) = (a, b)) : x = (a, b, x.2.2) := by
  cases h; rfl

/-- The same with its dies attached. -/
def p1 : State := ported fun s => { s with media := { s.media with dies := s.media.dies.map fun d => { d with attached := true }, geom := some (512, 1024, 1, false, false) } }

theorem test_ManagementCommands_0 :
    ∃ (s : State) (addr : BitVec 7), s.portOn = true ∧ s.sb.i3c = true ∧ addr ≠ 0 ∧ s.field? SBM_STAT 22 16 = 0 :=
  ⟨(ported fun s => { s with sb := { s.sb with i3c := true } }), 5, rfl, rfl, by decide +kernel⟩

theorem test_ManagementCommands_1 :
    ∃ (s : State) (r : SbReq) (v : State), Takes s r v ∧ r.type = 0 ∧ r.body.getD 1 0 = 1 ∧ r.body.length = 4 ∧ (r.body.getD 2 0).toNat ≤ 1 ∧
        r.body.getD 3 0 ≠ 0 ∧ r.body.getD 3 0 ≠ 0xFF :=
  ⟨p0, ctl [1, 0, 9], taken (p0), takes_of (by decide +kernel), by decide +kernel⟩

theorem test_ManagementCommands_2 :
    ∃ (s : State) (r : SbReq) (v : State), Takes s r v ∧ r.type = 0 ∧ r.body.getD 1 0 = 2 :=
  ⟨p0, ctl [2], taken (p0), takes_of (by decide +kernel), by decide +kernel⟩

theorem test_ManagementCommands_3 :
    ∃ (s : State) (r : SbReq) (v : State), Takes s r v ∧ r.type = 0 ∧ r.body.getD 1 0 = 4 ∧ (r.body.getD 2 0 = 0xFF ∨ r.body.getD 2 0 = 0) :=
  ⟨p0, ctl [4, 0], taken (p0), takes_of (by decide +kernel), by decide +kernel⟩

theorem test_ManagementCommands_4 :
    ∃ (s : State) (r : SbReq) (v : State), Takes s r v ∧ r.type = 0 ∧ r.body.getD 1 0 = 4 ∧ r.body.getD 2 0 = 4 :=
  ⟨p0, ctl [4, 4], taken (p0), takes_of (by decide +kernel), by decide +kernel⟩

theorem test_ManagementCommands_5 :
    ∃ (s : State) (r : SbReq) (v : State), Takes s r v ∧ r.type = 0 ∧ r.body.getD 1 0 = 5 :=
  ⟨p0, ctl [5], taken (p0), takes_of (by decide +kernel), by decide +kernel⟩

theorem test_ManagementCommands_6 :
    ∃ (s : State) (r : SbReq) (v : State), Takes s r v ∧ r.type = 0 ∧ r.body.getD 1 0 = 6 ∧ r.body.getD 2 0 = 0 :=
  ⟨p0, ctl [6, 0], taken (p0), takes_of (by decide +kernel), by decide +kernel⟩

theorem test_ManagementCommands_7 :
    ∃ (s : State) (r : SbReq) (v : State), Takes s r v ∧ r.type = 0 ∧ 2 ≤ r.body.length ∧ [1, 2, 4, 5, 6].contains (r.body.getD 1 0).toNat = false :=
  ⟨p0, ctl [9], taken (p0), takes_of (by decide +kernel), by decide +kernel⟩

theorem test_ManagementCommands_8 :
    ∃ (s : State) (r : SbReq), s.portOn = true ∧ r.type ≠ 0 ∧ r.type ≠ 4 ∧ r.type ≠ 0x7E :=
  ⟨p0, ⟨9, 1, 5, [], true⟩, rfl, by decide +kernel⟩

theorem test_ManagementCommands_9 :
    ∃ (s : State) (r : SbReq) (v : State), Takes s r v ∧ s.sb.i3c = false ∧ r.type = 0 ∧ r.body = [0] :=
  ⟨p0, ⟨9, 1, 0, [0], true⟩, taken (p0), takes_of (by decide +kernel), rfl, rfl, rfl⟩

theorem test_ManagementCommands_10 :
    ∃ (s : State) (r : SbReq) (v : State) (d : List Byte), Takes s r v ∧ r.type = 4 ∧ r.miKind = 1 ∧ r.miOp = 0 ∧ Serves v ∧
        d = sub (Config.standardData "NVME_MI" r.nmd0.toNat 32) 0 32 :=
  ⟨p0, mi 0 0 0, taken (p0), _, takes_of (by decide +kernel), by decide +kernel, by decide +kernel, by decide +kernel, serves_of (by decide +kernel),
      rfl⟩

theorem test_ManagementCommands_11 :
    ∃ (s : State) (r : SbReq) (v : State), Takes s r v ∧ r.type = 4 ∧ r.miKind = 1 ∧ r.miOp = 1 ∧ Serves v :=
  ⟨p0, mi 1 0 0, taken (p0), takes_of (by decide +kernel), by decide +kernel, by decide +kernel, by decide +kernel, serves_of (by decide +kernel)⟩

theorem test_ManagementCommands_12 :
    ∃ (s : State) (r : SbReq) (v : State) (fs : List Nat), Takes s r v ∧ r.type = 4 ∧ r.miKind = 1 ∧ r.miOp = 2 ∧ Serves v ∧
        fs = (((List.range 16).filter fun f => decide (bits r.nmd0 15 0 ≤ f) && v.fnExists f).take (bits r.nmd0 23 16 + 1)) :=
  ⟨p0, mi 2 0 0, taken (p0), _, takes_of (by decide +kernel), by decide +kernel, by decide +kernel, by decide +kernel, serves_of (by decide +kernel),
      rfl⟩

theorem test_ManagementCommands_13 :
    ∃ (s : State) (r : SbReq) (v : State), Takes s r v ∧ r.type = 4 ∧ r.miKind = 1 ∧ r.miOp = 4 ∧ Serves v ∧ bits r.nmd0 7 0 = 1 ∧ v.sb.i3c = false :=
  ⟨p0, mi 4 1 0, taken (p0), takes_of (by decide +kernel), by decide +kernel, by decide +kernel, by decide +kernel, serves_of (by decide +kernel),
      by decide +kernel, rfl⟩

theorem test_ManagementCommands_14 :
    ∃ (s : State) (r : SbReq) (v : State), Takes s r v ∧ r.type = 4 ∧ r.miKind = 1 ∧ r.miOp = 4 ∧ Serves v ∧ bits r.nmd0 7 0 = 3 :=
  ⟨p0, mi 4 3 0, taken (p0), takes_of (by decide +kernel), by decide +kernel, by decide +kernel, by decide +kernel, serves_of (by decide +kernel),
      by decide +kernel⟩

theorem test_ManagementCommands_15 :
    ∃ (s : State) (r : SbReq) (v : State), Takes s r v ∧ r.type = 4 ∧ r.miKind = 1 ∧ r.miOp = 3 ∧ Serves v ∧ bits r.nmd0 7 0 = 1 ∧ v.sb.i3c = false ∧
        1 ≤ bits r.nmd0 11 8 ∧ bits r.nmd0 11 8 ≤ 3 :=
  ⟨p0, mi 3 0x101 0, taken (p0), takes_of (by decide +kernel), by decide +kernel, by decide +kernel, by decide +kernel, serves_of (by decide +kernel),
      by decide +kernel, rfl, by decide +kernel⟩

theorem test_ManagementCommands_16 :
    ∃ (s : State) (r : SbReq) (v : State), Takes s r v ∧ r.type = 4 ∧ r.miKind = 1 ∧ r.miOp = 3 ∧ Serves v ∧ bits r.nmd0 7 0 = 3 ∧
        bits r.nmd1 15 0 = 64 :=
  ⟨p0, mi 3 3 64, taken (p0), takes_of (by decide +kernel), by decide +kernel, by decide +kernel, by decide +kernel, serves_of (by decide +kernel),
      by decide +kernel⟩

theorem test_ManagementCommands_17 :
    ∃ (s : State) (r : SbReq) (v : State), Takes s r v ∧ r.type = 4 ∧ r.miKind = 1 ∧ r.miOp = 5 ∧ Serves v ∧
        bits r.nmd0 15 0 + bits r.nmd1 15 0 ≤ v.start.nor.vpd.length ∧ bits r.nmd1 15 0 ≤ 1017 :=
  ⟨p0, mi 5 0 0, taken (p0), takes_of (by decide +kernel), by decide +kernel, by decide +kernel, by decide +kernel, serves_of (by decide +kernel),
      by decide +kernel⟩

theorem test_ManagementCommands_18 :
    ∃ (s : State) (r : SbReq) (v : State) (st : Status) (bs : List Byte) (u : State), Takes s r v ∧ r.type = 4 ∧ r.miKind = 2 ∧ [2, 6,
        10].contains r.miOp = true ∧ Serves v ∧ v.fnExists (fld r.body 5 2) = true ∧ fld r.body 31 4 ≤ 1005 ∧ v.tunnel r.tunnelled = (st, bs, u) :=
  ⟨p0, ⟨9, 1, 4, [16, 0, 0, 10, 0, 0, 0] ++ List.replicate 36 0 ++ wordBytes 1 ++ List.replicate 40 0, true⟩, taken (p0),
      ((taken p0).tunnel (SbReq.tunnelled ⟨9, 1, 4, [16, 0, 0, 10, 0, 0, 0] ++ List.replicate 36 0 ++ wordBytes 1 ++ List.replicate 40 0, true⟩)).1,
      ((taken p0).tunnel (SbReq.tunnelled ⟨9, 1, 4, [16, 0, 0, 10, 0, 0, 0] ++ List.replicate 36 0 ++ wordBytes 1 ++ List.replicate 40 0, true⟩)).2.1,
      ((taken p0).tunnel (SbReq.tunnelled ⟨9, 1, 4, [16, 0, 0, 10, 0, 0, 0] ++ List.replicate 36 0 ++ wordBytes 1 ++ List.replicate 40 0, true⟩)).2.2,
      takes_of (by decide +kernel), by decide +kernel, by decide +kernel, by decide +kernel, serves_of (by decide +kernel), by decide +kernel,
      by decide +kernel, rfl⟩

theorem test_ManagementCommands_19 :
    ∃ (s : State) (r : SbReq) (v : State), Takes s r v ∧ r.type = 4 ∧ r.miKind ≠ 2 ∧ ((r.miKind ≠ 1 ∨ 5 < r.miOp)) :=
  ⟨p0, mi 9 0 0, taken (p0), takes_of (by decide +kernel), by decide +kernel, by decide +kernel, Or.inr (by decide +kernel)⟩

theorem test_VendorCommands_0 :
    ∃ (s : State) (r : SbReq) (v : State) (n : Nat) (l : List Word) (st : Nat) (u : State), TakesOp s r 1 false v ∧ r.body.length = 12 ∧
        n = fld r.body 8 1 ∧ 1 ≤ n ∧ n ≤ 16 ∧ fld r.body 9 3 = 0 ∧ v.readWords' (fld r.body 4 2) (fld r.body 6 2) n = (l, st, u) :=
  ⟨p0, vnd 1 [0xF8, 0, 0, 0, 1, 0, 0, 0], taken (p0), 1, ((taken p0).readWords' (fld (SbReq.body (vnd 1 [0xF8, 0, 0, 0, 1, 0, 0,
      0])) 4 2) (fld (SbReq.body (vnd 1 [0xF8, 0, 0, 0, 1, 0, 0, 0])) 6 2) 1).1, ((taken p0).readWords' (fld (SbReq.body (vnd 1 [0xF8, 0, 0, 0, 1, 0, 0,
      0])) 4 2) (fld (SbReq.body (vnd 1 [0xF8, 0, 0, 0, 1, 0, 0, 0])) 6 2) 1).2.1, ((taken p0).readWords' (fld (SbReq.body (vnd 1 [0xF8, 0, 0, 0, 1, 0,
      0, 0])) 4 2) (fld (SbReq.body (vnd 1 [0xF8, 0, 0, 0, 1, 0, 0, 0])) 6 2) 1).2.2, takesOp_of (by decide +kernel), by decide +kernel,
      by decide +kernel, by decide +kernel, by decide +kernel, by decide +kernel, rfl⟩

theorem test_VendorCommands_1 :
    ∃ (s : State) (r : SbReq) (v : State) (n : Nat) (k : Nat) (st : Nat) (u : State), TakesOp s r 2 false v ∧ n = fld r.body 8 1 ∧
        r.body.length = 12 + 4 * n ∧ 1 ≤ n ∧ n ≤ 16 ∧ fld r.body 9 3 = 0 ∧
        v.writeWords' (fld r.body 4 2) (fld r.body 6 2) ((List.range n).map fun j => leWord (sub r.body (12 + 4 * j) 4)) = (k, st, u) :=
  ⟨p0, vnd 2 [0xF8, 0, 0x80, 0, 1, 0, 0, 0, 0, 1, 0, 0], taken (p0), 1, ((taken p0).writeWords' (fld (SbReq.body (vnd 2 [0xF8, 0, 0x80, 0, 1, 0, 0, 0,
      0, 1, 0, 0])) 4 2) (fld (SbReq.body (vnd 2 [0xF8, 0, 0x80, 0, 1, 0, 0, 0, 0, 1, 0,
      0])) 6 2) ((List.range 1).map fun j => leWord (sub (SbReq.body (vnd 2 [0xF8, 0, 0x80, 0, 1, 0, 0, 0, 0, 1, 0, 0])) (12 + 4 * j) 4))).1,
      ((taken p0).writeWords' (fld (SbReq.body (vnd 2 [0xF8, 0, 0x80, 0, 1, 0, 0, 0, 0, 1, 0, 0])) 4 2) (fld (SbReq.body (vnd 2 [0xF8, 0, 0x80, 0, 1, 0,
      0, 0, 0, 1, 0, 0])) 6 2) ((List.range 1).map fun j => leWord (sub (SbReq.body (vnd 2 [0xF8, 0, 0x80, 0, 1, 0, 0, 0, 0, 1, 0,
      0])) (12 + 4 * j) 4))).2.1, ((taken p0).writeWords' (fld (SbReq.body (vnd 2 [0xF8, 0, 0x80, 0, 1, 0, 0, 0, 0, 1, 0,
      0])) 4 2) (fld (SbReq.body (vnd 2 [0xF8, 0, 0x80, 0, 1, 0, 0, 0, 0, 1, 0,
      0])) 6 2) ((List.range 1).map fun j => leWord (sub (SbReq.body (vnd 2 [0xF8, 0, 0x80, 0, 1, 0, 0, 0, 0, 1, 0, 0])) (12 + 4 * j) 4))).2.2,
      takesOp_of (by decide +kernel), by decide +kernel, by decide +kernel, by decide +kernel, by decide +kernel, by decide +kernel, triple_of _⟩

theorem test_VendorCommands_2 :
    ∃ (s : State) (r : SbReq) (v : State) (age : Nat), TakesOp s r 3 true v ∧ age = (v.pages.dtime - v.sb.copyT).toNat :=
  ⟨p0, vnd 3 [], taken (p0), _, takesOp_of (by decide +kernel), rfl⟩

theorem test_VendorCommands_3 :
    ∃ (s : State) (r : SbReq) (v : State), TakesOp s r 4 false v ∧ r.body.length = 6 ∧ fld r.body 4 1 = 0 ∧ fld r.body 5 1 ≤ 3 :=
  ⟨p0, vnd 4 [0, 2], taken (p0), takesOp_of (by decide +kernel), by decide +kernel⟩

theorem test_VendorCommands_4 :
    ∃ (s : State) (r : SbReq) (v : State) (u : State), TakesOp s r 4 false v ∧ r.body.length = 6 ∧ fld r.body 4 1 = 1 ∧ fld r.body 5 1 ≤ 3 ∧
        ((v.power.v12 = true ∨ (v.power.calm = true ∧ v.field? PWR_STAT 2 0 = 3))) ∧ v.requestState (fld r.body 5 1) 1 = some u :=
  ⟨(ported fun s => { s with power := { s.power with v12 := true } }), vnd 4 [1, 0],
      taken ((ported fun s => { s with power := { s.power with v12 := true } })),
      ((taken (ported fun s => { s with power := { s.power with v12 := true } })).requestState 0 1).getD awake, takesOp_of (by decide +kernel),
      by decide +kernel, by decide +kernel, by decide +kernel, Or.inl rfl, some_of awake (by decide +kernel)⟩

theorem test_VendorCommands_5 :
    ∃ (s : State) (r : SbReq) (v : State) (lid : Nat), TakesOp s r 5 false v ∧ r.body.length = 14 ∧ lid = fld r.body 4 1 ∧ fld r.body 5 3 = 0 ∧
        fld r.body 8 4 % 4 = 0 ∧ 4 ≤ fld r.body 12 2 ∧ fld r.body 12 2 ≤ 1000 ∧ lid = 0xE0 :=
  ⟨p0, vnd 5 [0xE0, 0, 0, 0, 0, 0, 0, 0, 4, 0], taken (p0), 0xE0, takesOp_of (by decide +kernel), by decide +kernel, by decide +kernel,
      by decide +kernel, by decide +kernel, by decide +kernel, by decide +kernel, rfl⟩

theorem test_VendorCommands_6 :
    ∃ (s : State) (r : SbReq) (v : State) (lid : Nat) (p : List Byte), TakesOp s r 5 false v ∧ r.body.length = 14 ∧ lid = fld r.body 4 1 ∧
        fld r.body 5 3 = 0 ∧ fld r.body 8 4 % 4 = 0 ∧ 4 ≤ fld r.body 12 2 ∧ fld r.body 12 2 ≤ 1000 ∧ [0x02, 0x03, 0xC2, 0xC3].contains lid = true ∧
        Serves v ∧ v.logPage 0 lid = some p :=
  ⟨p0, vnd 5 [3, 0, 0, 0, 0, 0, 0, 0, 4, 0], taken (p0), 3, ((taken p0).logPage 0 3).getD [], takesOp_of (by decide +kernel), by decide +kernel,
      by decide +kernel, by decide +kernel, by decide +kernel, by decide +kernel, by decide +kernel, by decide +kernel, serves_of (by decide +kernel),
      rfl⟩

theorem test_VendorCommands_7 :
    ∃ (s : State) (r : SbReq) (v : State), TakesOp s r 6 true v ∧ r.body.length = 6 ∧ fld r.body 4 1 = 0 :=
  ⟨p0, vnd 6 [0, 0], taken (p0), takesOp_of (by decide +kernel), by decide +kernel⟩

theorem test_VendorCommands_8 :
    ∃ (s : State) (r : SbReq) (v : State) (u : State), TakesOp s r 6 false v ∧ r.body.length = 6 ∧ fld r.body 4 1 = 1 ∧ 1 ≤ fld r.body 5 1 ∧
        fld r.body 5 1 ≤ 2 ∧ v.regBit ADM_STAT 10 = false ∧ u = v.putRec (fun x => { x with next := fld r.body 5 1 }) :=
  ⟨p0, vnd 6 [1, 2], taken (p0), _, takesOp_of (by decide +kernel), by decide +kernel, by decide +kernel, by decide +kernel, by decide +kernel,
      by decide +kernel, rfl⟩

theorem test_VendorCommands_9 :
    ∃ (s : State) (r : SbReq) (v : State) (w : Word), TakesOp s r 7 false v ∧ r.body.length = 4 ∧
        w = (if v.mainAwake && !v.sb.state6 then v.reg FRL_STAT else v.sb.fstat) :=
  ⟨p0, vnd 7 [], taken (p0), _, takesOp_of (by decide +kernel), by decide +kernel, rfl⟩

theorem test_VendorCommands_10 :
    ∃ (s : State) (r : SbReq) (v : State) (b : List Byte) (k : Nat) (x : Bool) (y : Nat), TakesOp s r 8 false v ∧ b = r.body.drop 4 ∧ 5 ≤ b.length ∧
        b.length ≤ 52 ∧ typeRule false 0x81 = some (k, x, y) ∧ msgFault false (mkMsg 0x81 0 k 0 b) = none ∧ Serves v :=
  ⟨p0, vnd 8 (leBytes 2 0x500 ++ [0, 0] ++ leBytes 4 30), taken (p0), _, 3, true, 0, takesOp_of (by decide +kernel), rfl, by decide +kernel,
      by decide +kernel, rfl, by decide +kernel, serves_of (by decide +kernel)⟩

theorem test_VendorCommands_11 :
    ∃ (s : State) (r : SbReq) (v : State) (u : State), TakesOp s r 9 false v ∧ r.body.length = 8 ∧ fld r.body 4 4 ≠ 0 ∧ Serves v ∧ v.host.evid.cap = 0 ∧
        v.nvmBlocks + fld r.body 4 4 ≤ v.userBlocks ∧
        u = { v with host := { v.host with evid := { v.host.evid with base := v.newBase (fld r.body 4 4), cap := fld r.body 4 4, attached := [0] } }, start := { v.start with nor := { v.start.nor with evidCap := fld r.body 4 4 } } } :=
  ⟨p1, vnd 9 [0, 1, 0, 0], taken (p1), _, takesOp_of (by decide +kernel), by decide +kernel, by decide +kernel, serves_of (by decide +kernel),
      by decide +kernel, by decide +kernel, rfl⟩

theorem test_VendorCommands_12 :
    ∃ (s : State) (r : SbReq) (v : State), TakesOp s r 0x0A false v ∧ r.body.length = 68 ∧ v.crypto.root = none :=
  ⟨p0, vnd 0x0A (List.replicate 64 0), taken (p0), takesOp_of (by decide +kernel), by decide +kernel⟩

theorem test_VendorCommands_13 :
    ∃ (s : State) (r : SbReq) (v : State) (w : Word) (u : State), TakesOp s r 0x0B false v ∧ r.body.length = 12 ∧ fld r.body 6 2 = 0 ∧
        w = leWord (sub r.body 8 4) ∧ bit w 4 = true ∧ badOwner w = false ∧ v.writePage .warden (fld r.body 4 2) 0x10 32 w = (u, .ok) :=
  ⟨p0, vnd 0x0B [0xE8, 0, 0, 0, 0x10, 0, 0, 0], taken (p0), 0x10, ((taken p0).writePage .warden (fld (SbReq.body (vnd 0x0B [0xE8, 0, 0, 0, 0x10, 0, 0,
      0])) 4 2) 0x10 32 0x10).1, takesOp_of (by decide +kernel), by decide +kernel, by decide +kernel, by decide +kernel, by decide +kernel,
      by decide +kernel, Prod.ext rfl (by decide +kernel)⟩

theorem test_VendorCommands_14 :
    ∃ (s : State) (r : SbReq) (v : State), TakesOp s r 0x0C false v ∧ r.body.length = 8 ∧ fld r.body 5 3 = 0 ∧ fld r.body 4 1 = 0 :=
  ⟨p0, vnd 0x0C [0, 0, 0, 0], taken (p0), takesOp_of (by decide +kernel), by decide +kernel⟩

theorem test_VendorCommands_15 :
    ∃ (s : State) (r : SbReq) (v : State) (u : State), TakesOp s r 0x0C false v ∧ r.body.length = 8 ∧ fld r.body 5 3 = 0 ∧ fld r.body 4 1 = 1 ∧
        v.unlockRefused .sideband = false ∧ u = v.unlockSquall false :=
  ⟨p0, vnd 0x0C [1, 0, 0, 0], taken (p0), _, takesOp_of (by decide +kernel), by decide +kernel, by decide +kernel, by decide +kernel, by decide +kernel,
      rfl⟩

theorem test_VendorCommands_16 :
    ∃ (s : State) (r : SbReq) (v : State) (u : State), TakesOp s r 0x0C false v ∧ r.body.length = 8 ∧ fld r.body 5 3 = 0 ∧ fld r.body 4 1 = 2 ∧
        u = v.lockSquall :=
  ⟨p0, vnd 0x0C [2, 0, 0, 0], taken (p0), _, takesOp_of (by decide +kernel), by decide +kernel, by decide +kernel, by decide +kernel, rfl⟩

theorem test_VendorCommands_17 :
    ∃ (s : State) (r : SbReq) (v : State), Takes s r v ∧ r.type = 0x7E ∧ ((r.op = 0 ∨ 0x0C < r.op ∨ fld r.body 2 2 ≠ 0)) :=
  ⟨p0, vnd 0x0D [], taken (p0), takes_of (by decide +kernel), by decide +kernel, Or.inr (Or.inl (by decide +kernel))⟩

theorem test_VendorCommands_18 :
    ∃ (s : State) (w : SbWait), (s.sb.waits.find? fun w => decide (100000 ≤ (s.pages.dtime - w.since).toNat)) = some w ∧ w.op ≠ 0 :=
  ⟨(ported fun s => { s with sb := { s.sb with waits := [⟨9, 1, 5, 0⟩] }, pages := { s.pages with dtime := 100000 } }), ⟨9, 1, 5, 0⟩, by decide +kernel⟩

theorem test_VendorCommands_19 :
    ∃ (s : State) (w : SbWait), (s.sb.waits.find? fun w => decide (100000 ≤ (s.pages.dtime - w.since).toNat)) = some w ∧ w.op = 0 :=
  ⟨(ported fun s => { s with sb := { s.sb with waits := [⟨9, 1, 0, 0⟩] }, pages := { s.pages with dtime := 100000 } }), ⟨9, 1, 0, 0⟩, by decide +kernel,
      rfl⟩

theorem test_VendorCommands_20 :
    ∃ (s : State), s.mainAwake = true :=
  ⟨p0, rfl⟩

theorem test_VendorCommands_21 :
    ∃ (s : State), s.mainAwake = true :=
  ⟨p0, rfl⟩
end G16

/-! ## Witnesses: Power, starts and alarms -/

namespace G17

/-- The device awake, with a time, its link in L1 with PERST# as given, and its power changed. -/
def powered (perst : Bool) (f : Power → Power) : State :=
  { hosted with
    pages := { hosted.pages with dtime := 1000000000 }
    host := { hosted.host with link := { hosted.host.link with pm := 2, perst := perst } }
    power := f { hosted.power with flush := 0 } }
def facts : StartFacts := ⟨true, true, [], [], List.range 128, 8, (512, 1024, 1, false, false), [0, 1, 2, 3, 4, 5, 6, 7], [], true, 25, true, true,
    [], [], true⟩

theorem test_PowerCommands_0 :
    ∃ (s : State) (d : BitVec 64) (u : State), s.regBit PWR_CTRL 2 = true ∧ s.start.phase = .full ∧ s.field? PWR_STAT 2 0 = 0 ∧ s.idle = true ∧
        s.power.breezeT = some d ∧ 20000 ≤ (s.pages.dtime - d).toNat ∧
        (u = { s with pages := { s.pages with regs := s.pages.regs.filter (fun p => !s.asleep (p.1 / 4096) || (decide (0xA1 ≤ p.1 / 4096) && p.1 % 4096 == 0x80)), latches := s.pages.latches.filter fun l => !s.asleep l.page }, upsets := s.upsets.filter (fun p => !s.asleep (p.1 / 2 ^ 32)), cells := s.cells.mapIdx fun k c => if 16 ≤ k ∧ k ≤ 39 then Cell.reset else c }) :=
  ⟨(powered false fun p => { p with breezeT := some 0 }).setReg PWR_CTRL 0x104, 0, _, by decide +kernel, by decide +kernel, by decide +kernel,
      by decide +kernel, by decide +kernel, by decide +kernel, rfl⟩

theorem test_PowerCommands_1 :
    ∃ (s : State) (back : List Nat), s.field? PWR_STAT 2 0 = 1 ∧ ((s.idle = true → s.regBit PWR_CTRL 2 = false)) ∧
        back = (((List.range 24).map (0x50 + ·) ++ (List.range 16).map (0xA1 + ·)).filter fun p => s.asleep p) :=
  ⟨((powered false id).setReg PWR_STAT 1).setReg PWR_CTRL 0x100, _, by decide +kernel, by decide +kernel, rfl⟩

theorem test_PowerCommands_2 :
    ∃ (s : State) (n : Nat), n = s.field? PWR_CTRL 1 0 ∧ 2 ≤ n ∧ s.field? PWR_STAT 2 0 < 2 ∧ s.mainOn = true ∧
        s.field? PWR_CTRL 15 8 * 1000000 ≤ (s.pages.dtime - s.power.deepT.getD s.start.began).toNat ∧ s.deepAllowed n = true :=
  ⟨(powered true id).setReg PWR_CTRL 0x102, 2, by decide +kernel⟩

theorem test_PowerCommands_3 :
    ∃ (s : State) (m : Master) (v : Word) (d : RegDef) (u : State), Accepts s m 0x001 0x84 (setBit v 2 true) (pwrReqCond m (setBit v 2 true)) d ∧
        (s.arrive m).requestState (bits (setBit v 2 true) 1 0) 4 = some u :=
  ⟨(powered true id), .warden, 2, regAt 0x001 0x84, (((powered true id).arrive .warden).requestState 2 4).getD awake, accepts_of (by decide +kernel),
      some_of awake (by decide +kernel)⟩

theorem test_PowerCommands_4 :
    ∃ (s : State) (u : State), s.askWaiting.entryRuns 2 = true ∧ u = ((s.askWaiting.goDeep false).logRaw lullOff).copyHealth.finishDram.frontDown :=
  ⟨(powered true fun p => { p with entering := some (2, 0) }).setReg PWR_STAT 4, _, by decide +kernel, rfl⟩

theorem test_PowerCommands_5 :
    ∃ (s : State), s.askWaiting.entryRuns 3 = true :=
  ⟨(powered true fun p => { p with entering := some (3, 0) }).setReg PWR_STAT 4, by decide +kernel⟩

theorem test_PowerCommands_6 :
    ∃ (s : State) (u : State) (r : State) (v : State) (w : State) (x : State), s.field? PWR_STAT 2 0 = 5 ∧ s.power.wake ≠ none ∧ s.power.calm = false ∧
        u = { s with power := { s.power with wake := none, deepT := some s.pages.dtime } } ∧
        r = ((pfPages.filter lullOff).foldl State.routePage u.clocksOn).leaveSelfRefresh.cacheUp.channelsUp ∧
        v = r.red.failed.foldl (fun (s : State) d => s.setField (MCH_DIE (d / 8) (d % 8)) 9 9 1) r ∧
        (w = { v with red := { v.red with rbAfter := v.adm.latest, rbState := if v.red.rbState = 3 ∧ v.regBit RED_CTRL 0 = false then (if v.red.todo.isEmpty && v.red.die1.isNone then 0 else 1) else v.red.rbState } }) ∧
        (x = srcCmdEffect 2 ((List.finRange 41).foldl (fun (s : State) c => if 16 ≤ c.val ∧ c.val ≤ 39 ∧
        (s.role c).role ≠ 0 then s.unhold c else s) (w.syncRed.pumpRebuild).fillStripes)) :=
  ⟨(powered true fun p => { p with wake := some 1 }).setReg PWR_STAT 5, _, _, _, _, _, by decide +kernel, by decide +kernel, by decide +kernel, rfl,
      rfl, rfl, rfl, rfl⟩

theorem test_PowerCommands_7 :
    ∃ (s : State), s.power.calm = true ∧ s.power.wake ≠ none ∧ s.regBit PWR_STAT 17 = false :=
  ⟨(powered true fun p => { p with wake := some 1, calm := true }).setReg PWR_STAT 5, rfl, by decide +kernel⟩

theorem test_PowerCommands_8 :
    ∃ (s : State) (temps : List Int) (watts : Rat) (ts : List Int) (hot : Int) (cse : Rat) (out : Bool) (u : State) (v : State) (w : State) (x : State) (y : State) (crit : Bool),
        s.power.aon = true ∧ ts = (List.range 9).map (fun k => temps.getD k 25) ∧ hot = (ts.take 8).foldl max (ts.getD 0 25) ∧
        u = { s with power := { s.power with temps := ts, watts := watts } } ∧ cse = u.caseTemp hot ∧ out = (decide (cse < -40) || decide (105 < cse)) ∧
        v = u.setReg TMP_STAT (setBits (setBits (setBits 0 19 16 (((List.range 8).find? fun k => ts.getD k 25 == hot).getD 0)) 15 8 (cse.floor + 64).toNat) 7 0 (hot + 64).toNat) ∧
        w = (if out && !v.power.caseOutT.isSome then (if out = v.power.caseOutT.isSome then v else v.raise 0x004 3).count 0x004 3 1 else if out = v.power.caseOutT.isSome then v else v.raise 0x004 3) ∧
        x = { w with power := { w.power with caseOutT := if out then some (w.power.caseOutT.getD s.pages.dtime) else none, candT := track w.power.candT s.pages.dtime ([(1, decide (110 ≤ hot)), (2, decide (115 ≤ hot)), (3, decide (120 ≤ hot)), (11, decide (hot < 105)), (12, decide (hot < 110)), (13, decide (hot < 115)), (20, decide (125 ≤ hot)), (21, decide (135 ≤ hot))]) } } ∧
        y = (if x.pageOn 0x020 then x.changeStep (x.nextStep 3 (x.field? PWR_STAT 11 10)) else x) ∧ crit = y.heldFor 20 100000 :=
  ⟨powered true id, List.replicate 9 30, 5, _, _, _, _, _, _, _, _, _, _, rfl, rfl, rfl, rfl, rfl, rfl, rfl, rfl, rfl, rfl, rfl⟩

theorem test_PowerCommands_9 :
    ∃ (s : State) (n : Nat) (at_ : Nat), s.power.rising = some (n, at_) ∧ at_ < s.ns :=
  ⟨powered true fun p => { p with rising := some (1, 5) }, 1, 5, by decide +kernel⟩

theorem test_PowerCommands_10 :
    ∃ (s : State) (on : Bool) (u : State) (v : State) (w : State), s.heldFor 21 10000 = true ∧ s.regBit PWR_STAT 17 = false ∧ s.start.phase ≠ .off ∧
        s.start.phase ≠ .rom ∧ on = (s.mainOn && s.start.phase != .starting) ∧ ((on = true → s.keysServe = true ∧ s.power.vccq = true)) ∧
        u = (if on then ((if s.power.flush = 0 then s.beginFlush else s).flushOut true false).parkBuses else s) ∧
        v = { u with power := { u.power with flush := 0, flushed := true } } ∧ w = (if v.start.phase = .warden then v else v.offAsCalm) :=
  ⟨powered true fun p => { p with candT := [(21, 0)] }, true, _, _, _, by decide +kernel, by decide +kernel, by decide +kernel, by decide +kernel,
      by decide +kernel, fun _ => ⟨by decide +kernel, by decide +kernel⟩, rfl, rfl, rfl⟩

theorem test_PowerCommands_11 :
    ∃ (s : State), s.regBit PWR_STAT 17 = true ∧ (s.power.temps.any fun d => decide (100 ≤ d)) = false :=
  ⟨(powered true id).setReg PWR_STAT 0x20000, by decide +kernel⟩

theorem test_PowerCommands_12 :
    ∃ (s : State), s.regBit CLK_STAT 7 = true ∧ 1000 ≤ (s.pages.dtime - s.sb.lastIO).toNat ∧ s.irqLevel 40 = false ∧ s.alertLevel = false :=
  ⟨(powered true id).setReg CLK_STAT 0xFF, by decide +kernel⟩

theorem test_PowerCommands_13 :
    ∃ (s : State) (pll : Nat) (u : State), pll ≤ 4 ∧ s.regBit CLK_STAT pll = true ∧
        u = ((((s.setReg CLK_STAT (setBit (s.reg CLK_STAT) pll false)).stopDomains ((List.range (pllDomains pll).2).map ((pllDomains pll).1 + ·))).raise 0x002 3).count 0x002 2 1) :=
  ⟨(powered true id).setReg CLK_STAT 0xFF, 2, _, by decide +kernel, by decide +kernel, rfl⟩

theorem test_PowerCommands_14 :
    ∃ (s : State), s.regBit CLK_STAT 5 = true :=
  ⟨(powered true id).setReg CLK_STAT 0xFF, by decide +kernel⟩

theorem test_PowerCommands_15 :
    ∃ (s : State), s.regBit CLK_STAT 6 = true :=
  ⟨(powered true id).setReg CLK_STAT 0xFF, by decide +kernel⟩

theorem test_PowerCommands_16 :
    ∃ (s : State) (main : Nat) (aon : Nat) (vccq : Nat) (old : Nat) (new : Nat) (u : State) (v : State), s.power.aon = true ∧
        old = s.field? TMP_SUPPLY 26 24 ∧ (new = (decide (main < 10800 ∨ 13200 < main)).toNat + 2 * (decide (aon < 3000 ∨
        3600 < aon)).toNat + 4 * (decide (vccq < 1140 ∨ 1260 < vccq)).toNat) ∧
        u = s.setReg TMP_SUPPLY (setBits (setBits (setBits (setBits 0 26 24 new) 23 16 (min 255 (vccq / 10))) 15 8 (min 255 (aon / 20))) 7 0 (min 255 (main / 100))) ∧
        v = (if new = old then u else u.raise 0x004 4).count 0x004 2 ((List.range 3).countP fun k => new.testBit k && !old.testBit k) :=
  ⟨powered true id, 12000, 3300, 1200, _, _, _, _, rfl, rfl, rfl, rfl, rfl⟩

theorem test_PowerCommands_17 :
    ∃ (s : State) (u : State), s.mainOn = true ∧ u = (s.abandon fun _ => true).parkBuses :=
  ⟨powered true id, _, rfl, rfl⟩

theorem test_StartCommands_0 :
    ∃ (s : State) (i3c : Bool) (u : State) (v : State) (a : Nat), s.start.phase = .off ∧
        u = { s with pages := { regs := [], latches := [], dtime := 0, aonPhase := 0 }, power := { s.power with aon := true }, sb := { Sideband.reset with i3c := i3c }, start := { s.start with phase := .warden }, events := { s.events with excluded := true } } ∧
        v = (((u.restorePair 2 u.start.nor.acctMs).restorePair 4 u.start.nor.unavMs).setReg (0x5F08 + 24) u.start.nor.unavInt).settleRec ∧
        a = v.slotRec.next :=
  ⟨{ awake with start := { awake.start with phase := .off } }, false, _, _, _, rfl, rfl, rfl, rfl⟩

theorem test_StartCommands_1 :
    ∃ (s : State) (u : State) (v : State) (w : State) (x : State), s.power.aon = true ∧ s.regBit PWR_STAT 17 = false ∧ s.keysServe = true ∧
        ((s.power.flush = 2 ∨ (s.start.phase = .warden ∧ s.power.calm = false))) ∧ u = (if s.power.flush = 2 then s.mainDown false else s.lockSquall) ∧
        v = { u with power := { u.power with v12 := true, vccq := true, pwrFail := true, flush := 0, flushed := true }, events := { u.events with excluded := true } } ∧
        w = ((v.setReg RST_CAUSE (if v.power.wake = some 5 then setBit (v.reg RST_CAUSE ||| 2) 7 true else v.reg RST_CAUSE ||| 2)).count 0x003 2 1).breakMs ∧
        x = { w with power := { w.power with wake := none } } :=
  ⟨State.reset, _, _, _, _, by decide +kernel, by decide +kernel, by decide +kernel, Or.inr (by decide +kernel), rfl, rfl, rfl, rfl⟩

theorem test_StartCommands_2 :
    ∃ (s : State) (b : Option Nat) (u : State) (v : State) (ccs : List Word) (x : State), ((s.start.phase = .starting ∨ s.start.phase = .evReady ∨
        s.start.phase = .full)) ∧ s.pageOn 0x010 = true ∧ s.power.flush = 0 ∧ s.power.entering = none ∧ s.keysServe = true ∧ s.restartOwed = some b ∧
        u = (((b.map fun k => s.setReg RST_CAUSE (setBit (s.reg RST_CAUSE) k true)).getD s).count 0x003 2 1).count 0x003 5 1 ∧
        v = (if b = some 4 then { u with events := { u.events with excluded := true } } else if u.events.excluded then u else u.openSpan 1 none) ∧
        ccs = v.host.ctrls.map (fun c => c.cc) ∧ x = v.mainDown (!decide (s.start.phase = .starting) || v.regBit DRC_FILLSTAT 8) :=
  ⟨{ powered true id with start := { awake.start with pendRst := some 4 } }, some 4, _, _, _, _, by decide +kernel, by decide +kernel,
      by decide +kernel, by decide +kernel, by decide +kernel, by decide +kernel, rfl, rfl, rfl, rfl⟩

theorem test_StartCommands_4 :
    ∃ (s : State), s.start.phase ≠ .off :=
  ⟨awake, by decide +kernel⟩

theorem test_AlarmAndSquallCommands_0 :
    ∃ (s : State) (n : Nat), n < 5 ∧ ((n = 4 ∨ s.events.alarms.contains n = false)) :=
  ⟨awake, 3, by decide +kernel⟩

theorem test_AlarmAndSquallCommands_1 :
    ∃ (s : State) (n : Nat), s.events.alarms.contains n = true :=
  ⟨{ awake with events := { awake.events with alarms := [3] } }, 3, by decide +kernel⟩

theorem test_AlarmAndSquallCommands_2 :
    ∃ (s : State) (m : Master) (v : Word) (d : RegDef), Accepts s m 0x005 0x80 (setBit v 0 true) noCond d :=
  ⟨awake, .warden, 0, regAt 0x005 0x80, accepts_of (by decide +kernel)⟩

theorem test_AlarmAndSquallCommands_3 :
    ∃ (s : State) (u : State), s.accountable = true ∧ s.events.broken = false ∧
        u = ({ s with events := { s.events with broken := false, unav := false } } : State).count64 0x005 2 1 :=
  ⟨powered true id, _, by decide +kernel, rfl, rfl⟩

theorem test_AlarmAndSquallCommands_4 :
    ∃ (s : State), s.start.phase ≠ .off ∧ s.start.phase ≠ .rom ∧ 3600000000 ≤ (s.pages.dtime - s.events.logT).toNat :=
  ⟨{ powered true id with pages := { (powered true id).pages with dtime := 4000000000 } }, by decide +kernel⟩

theorem test_AlarmAndSquallCommands_5 :
    ∃ (s : State) (m : Master) (v : Word) (d : RegDef), Accepts s m 0x006 0x80 (setBits v 1 0 1) (sqlCond m (setBits v 1 0 1)) d :=
  ⟨awake, .sideband, 0, regAt 0x006 0x80, accepts_of (by decide +kernel)⟩

theorem test_AlarmAndSquallCommands_6 :
    ∃ (s : State) (m : Master) (v : Word) (d : RegDef), Accepts s m 0x006 0x80 (setBit v 1 true) (sqlCond m (setBit v 1 true)) d :=
  ⟨awake, .warden, 0, regAt 0x006 0x80, accepts_of (by decide +kernel)⟩

theorem test_AlarmAndSquallCommands_7 :
    ∃ (s : State) (m : Master) (page : Nat) (v : Word) (d : RegDef), squallPages.contains page = true ∧ Accepts s m page 0xE20 v noCond d :=
  ⟨awake.setReg SQL_STAT 1, .sideband, 0x90, 8, regAt 0x90 0xE20, by decide +kernel, accepts_of (by decide +kernel)⟩

theorem test_AlarmAndSquallCommands_8 :
    ∃ (s : State) (x : Nat × Nat × Delayed), (s.squall.delayed.find? fun x => decide (x.2.1 ≤ s.ns)) = some x :=
  ⟨{ awake with squall := { awake.squall with delayed := [(0, 0, .die 0)] } }, (0, 0, .die 0), by decide +kernel⟩
end G17

/-! ## Witnesses: The machine -/

namespace G20

theorem test_StepTakesFrontCommand_0 :
    ∃ (c : Instr) (rest : List Instr) (s : State), s.pending = c :: rest :=
  ⟨.tokenRefill, [.powerFail], { State.reset with pending := [.tokenRefill, .powerFail] }, rfl⟩

theorem test_IdleStep_0 :
    ∃ (s : State), s.pending = [] :=
  ⟨State.reset, rfl⟩

theorem test_SoundKept_0 :
    ∃ (s : State) (t : State), s.Sound ∧ step s = .next t :=
  ⟨State.reset, State.reset, ⟨rfl, rfl, rfl, rfl, rfl, rfl, rfl, rfl, rfl, rfl, rfl, rfl, rfl, rfl⟩, rfl⟩

theorem test_QueueFifo_0 :
    ∃ (s : State) (t : State), step s = .next t :=
  ⟨{ State.reset with pending := [.powerFail, .flushComplete] }, _, rfl⟩
end G20

/-! ## Witnesses: Rules over all commands -/

namespace G21

theorem test_UnmappedPageAccess_0 :
    ∃ (s : State) (m : Master) (page : Nat) (off : Nat), s.Canonical ∧ ((m = .pf ∧ page < 0x1000 ∧ kindOf page = none ∨ ∃ n, m = .vf n ∧
        0x1000 + 16 * n.val + 3 ≤ page ∧ page < 0x1000 + 16 * n.val + 16)) ∧ off < 0x1000 ∧ off % 4 = 0 :=
  ⟨awake, .vf 1, 0x101F, 0xFFC, rfl, .inr ⟨1, by decide⟩, by decide +kernel⟩

theorem test_PoweredOffPageAccess_0 :
    ∃ (page : Nat), (page ≤ 7 ∨ page = 0xF8) :=
  ⟨7, by decide +kernel⟩

theorem test_PoweredOffPageAccess_1 :
    ∃ (s : State) (m : Master) (page : Nat), reaches m page = true ∧ (kindOf page).isSome = true ∧ (s.arrive m).pageOn page = false :=
  ⟨State.reset, .pf, 0x020, by decide +kernel⟩

theorem test_RefusedAccessFrame_0 :
    ∃ (s : State) (m : Master) (page : Nat) (off : Nat) (width : Nat), s.Canonical ∧ reaches m page = true ∧ (kindOf page).isSome = true ∧
        (s.arrive m).pageOn page = true ∧ ((width ≠ 32 ∨ off % 4 ≠ 0)) :=
  ⟨awake, .pf, 0x020, 0x81, 32, rfl, by decide +kernel⟩

theorem test_RefusedAccessFrame_1 :
    ∃ (s : State) (m : Master) (page : Nat) (off : Nat) (d : RegDef), s.Canonical ∧ Reaches (s.arrive m) m page off d ∧ tenantView m page = false ∧
        d.owner ≠ .none ∧ (((inSquall off && (s.arrive m).squallHolder.isNone) = true ∨ (s.arrive m).mayWrite m page d = false)) :=
  ⟨awake, .cell 40, 0x020, 0xE00, regAt 0x020 0xE00, rfl, reaches_of (by decide +kernel), by decide +kernel⟩

theorem test_RefusedAccessFrame_2 :
    ∃ (s : State) (m : Master) (page : Nat) (v : Word) (d : RegDef), s.Canonical ∧ Reaches (s.arrive m) m page 0x34 d ∧ tenantView m page = false ∧
        d.owner ≠ .none ∧ (s.arrive m).mayWrite m page d = true ∧ (s.arrive m).badRoute v = true :=
  ⟨awake, .pf, 0x020, 0x7, regAt 0x020 0x34, rfl, reaches_of (by decide +kernel), by decide +kernel⟩

theorem test_RefusedAccessFrame_3 :
    ∃ (s : State) (m : Master) (page : Nat) (off : Nat) (d : RegDef), Reaches (s.arrive m) m page off d ∧ tenantView m page = false ∧ d.owner = .none :=
  ⟨awake, .pf, 0x020, 0, regAt 0x020 0, reaches_of (by decide +kernel), by decide +kernel, rfl⟩
end G21

/-! ## Witnesses: Access and counters -/

namespace G22

theorem test_ClearedEventSetBySameCycle_0 :
    ∃ (s : State) (m : Master) (page : Nat) (v : Word) (hw : Word) (d : RegDef) (k : Nat), s.Canonical ∧ Accepts s m page 0x30 v noCond d ∧ k < 32 ∧
        bit hw k = true :=
  ⟨awake, .pf, 0, 4, 4, regAt 0 0x30, 2, rfl, accepts_of (by decide +kernel), by decide +kernel⟩

theorem test_ClearedEventSetBySameCycle_1 :
    ∃ (s : State) (m : Master) (page : Nat) (v : Word) (d : RegDef) (k : Nat), s.Canonical ∧ Accepts s m page 0x24 v noCond d ∧ k < 32 ∧
        s.regBit (EV_RAW page) k = true ∧ bit v k = true :=
  ⟨awake.raise 0 31, .pf, 0, 0x80000000, regAt 0 0x24, 31, rfl, accepts_of (by decide +kernel), by decide +kernel⟩

theorem test_CountersSaturate_0 :
    ∃ (s : State) (page : Nat) (slot : Nat), s.Canonical ∧ page ≠ 0x005 ∧ slot ≤ 61 :=
  ⟨awake, 0x020, 61, rfl, by decide +kernel⟩

theorem test_CountersSaturate_1 :
    ∃ (s : State) (m : Master) (page : Nat) (slot : Nat) (v : Word) (d : RegDef), Accepts s m page (slotOff slot) v noCond d ∧ v ≠ 0 :=
  ⟨awake, .pf, 0, 1, 1, regAt 0 0xF0C, accepts_of (by decide +kernel), by decide +kernel⟩

theorem test_CountersSaturate_2 :
    ∃ (s : State) (m : Master) (page : Nat) (slot : Nat) (d : RegDef) (k : Kind) (i : Nat), s.Canonical ∧ Accepts s m page (slotOff slot) 0 noCond d ∧
        slot ≤ 61 ∧ kindOf page = some (k, i) ∧ (joinedSlots k).contains slot = false ∧ (joinedSlots k).contains (slot - 1) = false ∧ page ≠ 0x005 :=
  ⟨awake, .pf, 0, 1, regAt 0 0xF0C, .top, 0, rfl, accepts_of (by decide +kernel), by decide +kernel, rfl, by decide +kernel⟩

theorem test_AlwaysOnSecond_1 :
    ∃ (p : Nat), p < 32768 :=
  ⟨32767, by decide +kernel⟩

theorem test_AlwaysOnSecond_2 :
    ∃ (s : State), s.fastClocks = false ∧ s.pages.aonPhase < 32768 :=
  ⟨State.reset, rfl, by decide +kernel⟩

theorem test_PromiseFollowsItsCauses_0 :
    ∃ (s : State) (k : Nat), s.Canonical ∧ 1 ≤ k ∧ k ≤ 5 :=
  ⟨awake, 5, rfl, by decide +kernel⟩

theorem test_GridCorrectsOnDelivery_0 :
    ∃ (rows : Nat) (cols : Nat) (k : Nat), 0 < rows ∧ 0 < cols ∧ k < rows * cols + rows + cols :=
  ⟨6, 6, 47, by decide +kernel⟩

theorem test_GridCorrectsOnDelivery_1 :
    ∃ (rows : Nat) (cols : Nat) (j : Nat) (k : Nat), j < k ∧ k < rows * cols :=
  ⟨6, 6, 34, 35, by decide +kernel⟩

theorem test_GridCorrectsOnDelivery_2 :
    ∃ (s : State) (page : Nat) (array : Nat) (index : Nat) (rows : Nat) (cols : Nat) (k : Nat), 0 < rows ∧ 0 < cols ∧ k < rows * cols + rows + cols ∧
        s.upsets.get (fun _ => 0) (upKey page array index) = 2 ^ k :=
  ⟨{ awake with upsets := [(upKey 0x40 0 5, 8)] }, 0x40, 0, 5, 6, 6, 3, by decide +kernel⟩

theorem test_SecdedCorrectsAndDetects_0 :
    ∃ (k : Nat), k < 266 :=
  ⟨265, by decide +kernel⟩

theorem test_SecdedCorrectsAndDetects_1 :
    ∃ (j : Nat) (k : Nat), j < k ∧ k < 266 :=
  ⟨264, 265, by decide +kernel⟩

theorem test_DramReadsBack_0 :
    ∃ (s : State), SMap.wf (fun _ => (0 : Byte)) s.dram.mem = true ∧ SMap.wf (fun _ => (0 : Nat)) s.upsets = true :=
  ⟨awake, by decide +kernel⟩

theorem test_DramReadsBack_1 :
    ∃ (s : State) (n : Nat) (m : Nat), SMap.wf (fun _ => (0 : Byte)) s.dram.mem = true ∧ SMap.wf (fun _ => (0 : Nat)) s.upsets = true ∧ n < lineCount ∧
        m < lineCount ∧ m ≠ n :=
  ⟨awake, 0, 125829119, by decide +kernel⟩
end G22

/-! ## Witnesses: Alarms, parameters and requests -/

namespace G23

theorem test_CellMemoryReadsBack_0 :
    ∃ (s : State) (c : CellId), s.cells.length = 41 ∧ SMap.wf (fun _ => TWord.void) (s.cell c).dm = true ∧ SMap.wf (fun _ => (0 : Nat)) s.upsets = true :=
  ⟨awake, 0, rfl, by decide +kernel⟩

theorem test_CellRegisterFrame_0 :
    ∃ (s : State) (t : State) (i : Iss) (rd : Reg) (rs : Reg) (im : BitVec 4) (tg : BitVec 2) (cond : Fin 15) (c : Instr), c ∈ [Instr.add i rd rs,
        .sub i rd rs, .and i rd rs, .or i rd rs, .xor i rd rs, .shl i rd rs, .shr i rd rs, .sar i rd rs, .mul i rd rs, .cmp i rd rs, .addi i rd im,
        .cmpi i rd im, .andi i rd im, .ori i rd im, .li i tg rd im, .mov i rd rs, .beql i rd rs, .movs i rd rs, .retag i rd rs, .clr i rd, .rdtime i rd,
        .test i rd, .not i rd, .neg i rd, .cvti i rd, .cvtu i rd, .cvtf i rd, .cvtb i rd, .cvtl i rd, .clz i rd, .popc i rd, .bswp i rd, .tagof i rd,
        .setc i rd cond] ∧ exec c s = .next t :=
  ⟨awake, awake, ⟨0, []⟩, 1, 2, 0, 0, 0, .add ⟨0, []⟩ 1 2, by simp, by with_unfolding_all rfl⟩

theorem test_DoubleTrapKeepsTheFirst_0 :
    ∃ (s : State) (c : CellId), s.Canonical ∧ s.cells.length = 41 ∧ trapBit (s.cell c) = true :=
  ⟨awake.modCell 3 fun k => k.modSp fun p => { p with stat := 4 }, 3, rfl, rfl, by decide +kernel⟩
end G23

/-! ## Witnesses: Messages and checks -/

namespace G24

/-- The field die with its Front link up, the next host message expected at sequence 5. -/
def linked : State := { awake with field := { awake.field with linkUp := true, expect := some 5, acks := [(4, 0)] } }

/-- A CONFIG of a parameter. -/
def configMsg (seq pnum : Nat) (v : List Byte) : List Byte := mkMsg 0x81 seq 3 0 (leBytes 2 pnum ++ [0, 0] ++ v)
theorem test_AlarmErasesKeys_0 :
    ∃ (s : State) (n : Nat), s.Canonical ∧ n ≤ 3 ∧ s.events.alarms.contains n = false ∧ s.pageOn keyPage = true :=
  ⟨awake, 3, rfl, by decide +kernel⟩

theorem test_LockedParametersStay_0 :
    ∃ (s : State) (msg : List Byte), s.field.powered = true ∧ s.field.linkUp = true ∧ msgFault false msg = none ∧ mType msg = 0x81 ∧
        mSeq msg = s.field.expect.getD (mSeq msg) ∧ 0x600 ≤ fld (mBody msg) 0 2 ∧ fld (mBody msg) 0 2 ≤ 0x6FF ∧ s.field.mram.lock = true :=
  ⟨linked.modField fun f => { f with mram := { f.mram with lock := true } }, configMsg 5 0x6FF [1, 0, 0, 0], rfl, rfl, by decide +kernel,
      by decide +kernel, by decide +kernel, by decide +kernel, by decide +kernel, rfl⟩

theorem test_DuplicateMessageNotRepeated_0 :
    ∃ (s : State) (msg : List Byte) (e : BitVec 32) (a : BitVec 32 × Nat), s.field.powered = true ∧ s.field.linkUp = true ∧ msgFault false msg = none ∧
        s.field.expect = some e ∧ mSeq msg ≠ e ∧ seqLe (mSeq msg) e = true ∧ s.field.acks.find? (fun x => x.1 == mSeq msg) = some a ∧ mType msg = 0x81 :=
  ⟨linked, configMsg 4 0x500 [1, 0, 0, 0], 5, (4, 0), rfl, rfl, by decide +kernel, rfl, by decide +kernel, by decide +kernel, rfl, by decide +kernel⟩

theorem test_DuplicateMessageNotRepeated_1 :
    ∃ (s : State) (msg : List Byte) (e : BitVec 32) (a : BitVec 32 × Nat), s.field.powered = true ∧ s.field.linkUp = true ∧ msgFault false msg = none ∧
        s.field.expect = some e ∧ mSeq msg ≠ e ∧ seqLe (mSeq msg) e = true ∧ s.field.acks.find? (fun x => x.1 == mSeq msg) = some a ∧ mType msg = 0x82 :=
  ⟨linked, mkMsg 0x82 4 1 0 (leBytes 8 0 ++ [1] ++ List.replicate 7 0), 5, (4, 0), rfl, rfl, by decide +kernel, rfl, by decide +kernel,
      by decide +kernel, rfl, by decide +kernel⟩

theorem test_FifthRequestIsBusy_0 :
    ∃ (s : State) (r : SbReq) (mine : Bool), s.portOn = true ∧ r.body.length ≤ 1024 ∧ r.chk = true ∧ mine = true ∧
        4 ≤ s.sb.waits.length + s.sb.held.length ∧
        ((s.sb.waits.any fun w => w.eid == r.eid && w.tag == r.key) || s.sb.held.any fun w => w.eid == r.eid && w.key == r.key) = false :=
  ⟨{ awake with sb := { awake.sb with waits := List.replicate 4 { eid := 1, tag := 1, op := 0x10, since := 0 } } }, ⟨9, 2, 0x7E, [0x10, 2, 0, 0], true⟩,
      true, rfl, by decide +kernel, rfl, rfl, by decide +kernel⟩

theorem test_EvidentialNeverRefused80h_0 :
    ∃ (r : Resolved), r.cls = 0 :=
  ⟨⟨0, 0, false, false⟩, rfl⟩
end G24

/-! ## Witnesses: The ledger -/

namespace G25

theorem test_LedgerCommands_1 :
    ∃ (s : State) (m : Master) (v : Word) (d : RegDef) (u : State) (f : Nat) (x : Slice), Accepts s m 0x020 0x90 v (sliceCond m v) d ∧ u = s.arrive m ∧
        f = u.field? ADM_SLSEL 4 0 ∧ f < 16 ∧ x = (⟨bits v 7 0, bits v 23 16⟩ : Slice) :=
  ⟨awake, .pf, 0x00050002, regAt 0x020 0x90, _, _, _, accepts_of (by decide +kernel), rfl, rfl, by decide +kernel, rfl⟩

theorem test_LedgerCommands_2 :
    ∃ (s : State) (m : Master) (v : Word) (d : RegDef) (u : State), Accepts s m 0x020 0x80 (setBit v 0 true) noCond d ∧
        u = (s.arrive m).store ADM_CTRL (setBit v 0 true) d :=
  ⟨awake, .pf, 0, regAt 0x020 0x80, _, accepts_of (by decide +kernel), rfl⟩

theorem test_LedgerCommands_3 :
    ∃ (s : State) (m : Master) (v : Word) (d : RegDef) (u : State) (k : Nat), Accepts s m 0x020 0xA4 v (cvalCond m v) d ∧ u = s.arrive m ∧
        k = u.field? ADM_CSEL 5 0 ∧ k < 45 :=
  ⟨awake, .cell 0, 7, regAt 0x020 0xA4, _, _, accepts_of (by decide +kernel), rfl, rfl, by decide +kernel⟩

theorem test_LedgerCommands_4 :
    ∃ (s : State) (m : Master) (v : Word) (d : RegDef), Accepts s m 0x021 0x80 (setBit v 0 true) noCond d :=
  ⟨awake, .pf, 0, regAt 0x021 0x80, accepts_of (by decide +kernel)⟩

theorem test_LedgerCommands_5 :
    ∃ (s : State) (cur : Nat) (free : Nat) (pct : Nat) (u : State) (v : State),
        cur = (if s.care.bufCur < s.bufTarget then min s.bufTarget (s.care.bufCur + (s.freeRaw - (s.care.bufCur - s.bufUsed) - s.raw / 10)) else max s.bufFloor (max s.bufTarget s.bufUsed)) ∧
        free = cur - s.bufUsed - s.reserves ∧ pct = (if s.userBlocks = 0 then 0 else min 10000 (s.mappedBlocks * 10000 / s.userBlocks)) ∧
        (u = (((((({ s with care := { s.care with bufUsed := s.bufUsed } } : State).setBuf cur).setReg MC_BUFTGT (BitVec.ofNat 32 (s.bufTarget / 2 ^ 20))).setReg MC_BUFFREE (BitVec.ofNat 32 (free / 2 ^ 20))).setField MC_STAT 29 16 pct).setBufState (if cur = s.bufFloor ∧
        free = 0 then 2 else if (free : Rat) < s.frac 43 * cur then 1 else 0))) ∧
        v = ({ u with fresh := u.fresh + 1 } : State).setReg ADM_GCDEBT (BitVec.ofNat 32 ((Config.freeValue u.fresh).toNat % ((u.constWord 42).toNat + 1) % 65536)) :=
  ⟨awake, _, _, _, _, _, rfl, rfl, rfl, rfl, rfl⟩
end G25

/-! ## Well-formedness: an ill-formed term for each check -/

/-- A host command with a queue beyond 128, and one whose NSID has more than 32 bits. -/
def longQueue : NvmeCmd := { ent 0 0 0 0 0 0 with sqid := 129 }
def wideNsid : NvmeCmd := { ent 0 0 0 0 0 0 with nsid := 0x100000000 }

theorem test_wellFormed_accepts :
    ([.registerWrite (.vf 3) 0x10FF 0xFFC 32 0, .sqTailDoorbell 0 128 4 0, .bar0Access 0 0x3FF8 8 none, .identify (ent 0 6 0 0 0 0),
      .cacheAccess 62 0 128 3 none, .maintenanceDone none, .dramTempSample 25] : List Instr).all Instr.wf = true := by
  decide

theorem test_illFormed_access :
    ([.registerWrite (.vf 0) 0 0 32 0, .registerWrite .pf 0x1100 0 32 0, .registerWrite .pf 0 0x1000 32 0,
      .registerWrite .pf 0 0 12 0, .registerWrite .pf 0 0 0 0, .refusedRead .pf 0x1100 0 32, .errcapRearm .pf 0x1100 0, .evSet .pf 0x1100 0,
      .evClear .pf 0x1100 0 0, .evRouteWrite .pf 0x1100 0, .pgOwnerWrite .pf 0x1100 0, .counterClear .pf 0 62 0, .counterLowRead .pf 0 62,
      .topDtimeLoRead (.vf 0), .mpClear .pf 0x1100 0, .sqForce .pf 0x1100 0] : List Instr).all (fun c => !c.wf) = true := by
  decide

theorem test_illFormed_host :
    ([.sqTailDoorbell 0 129 4 0, .sqTailDoorbell 0 1 3 0, .cqHeadDoorbell 0 129 4 0, .bar0Access 0 0x4000 4 none, .bar0Access 0 0 3 none,
      .shutdownNotification 0 4, .identify longQueue, .read wideNsid, .interruptCoalescingTimer 0 64, .msixMaskClear 0 (some 64),
      .pcieLinkUp 6 1, .pcieLinkUp 1 5, .pcieL1Entry 4] : List Instr).all (fun c => !c.wf) = true := by
  decide

theorem test_illFormed_units :
    ([.garbageCollection 0 4096, .blockErase 0 4096, .folding 0 4096, .setFeature 0 8 0 0, .setFeature 0 0 256 0, .dramRequestIssue 4 [],
      .perBankRefresh 4, .cacheAccess 63 0 1 0 none, .cacheAccess 0 0 0 0 none, .cacheAccess 0 0 129 0 none, .cacheAccess 0 0 1 4 none,
      .cacheFill 4 0, .cacheFill 0 63, .wayDisable 4 0, .wayDisable 0 16, .cleanWay .pf 4 0, .cleanInvalWay .pf 4 0, .maintenanceDone (some 4),
      .fchWdis .pf 4 0, .scaledReadyRelease 128, .pllUnlock 5, .alarm 5, .alarmEnd 5] : List Instr).all (fun c => !c.wf) = true := by
  decide

theorem test_illFormed_field :
    ([.discreteInputChange 4 true 0, .canFrameReceived 4 0 true true true 0 [], .canFrameReceived 0 0 true true true 16 [],
      .canBusStateChange 4 0 0 0, .ethFrameReceived 2 [], .ethernetLinkChange 2 true] : List Instr).all (fun c => !c.wf) = true := by
  decide

/-! ## The specification's worked examples -/

/-- The owners of channel 05's page in the example of chapter 02. -/
def diagnosed : State := awake.setReg (PG_OWNER 0x85) 0x0B040019

/-- Chapter 02, step 1: a 16-bit write is discarded, counted and captured. -/
def diag1 : State := (diagnosed.write .pf 0x85 0xC 16 1 noCond fun _ s => s).1

theorem test_example_reaching_a_register_1 :
    bit (diag1.reg (PG_STAT 0x85)) 0 = true ∧ diag1.reg (ERR_CAP0 0x85) = 0x00000101 ∧ diag1.reg (ERR_CAP1 0x85) = 0xC ∧
      bit (diag1.reg (EV_RAW 0x85)) 0 = true := by
  decide +kernel

/-- Chapter 02, step 3: the side-band is no owner, and the capture of step 1 stands. -/
def diag3 : State := (diag1.write .sideband 0x85 0xC 32 1 noCond fun _ s => s).1

theorem test_example_reaching_a_register_3 :
    bit (diag3.reg (PG_STAT 0x85)) 3 = true ∧ diag3.reg (ERR_CAP0 0x85) = 0x00000103 ∧
      diag3.reg (ERR_CAP1 0x85) = 0xC := by
  decide +kernel

/-- Chapter 02, steps 4 and 5: a write by an owner clears the bits, and ERRCAP_REARM the capture. -/
theorem test_example_reaching_a_register_4 :
    (match exec (.registerWrite .pf 0x85 0xC 32 9) diag3 with
      | .next t => (t.readPage .pf 0x85 0xC).1 == .inl 0x80
      | _ => false) = true := by
  decide +kernel

theorem test_example_reaching_a_register_5 :
    (match exec (.errcapRearm .pf 0x85 1) diag3 with
      | .next t => (List.range 8).all fun k => t.reg (ERR_CAP0 0x85 + 4 * k) == 0
      | _ => false) = true := by
  decide +kernel

/-- Chapter 03, a worked admission: BUFSTATE TIGHT, G 60, exclusive map ways, 128 dies with ways 0 and 1 quiet. -/
def tractor : State :=
  { (awake.setReg ADM_STAT 0x1201).setReg ADM_GCDEBT 60 with
    media := { Media.reset with ways := 8, quiet := [0, 1], dies := List.replicate 128 { DieSt.none with attached := true } } }

/-- Step 3: die 07.4 has 95 µs of a sense and 128 µs queued, die 03.1 a program that may be suspended. -/
def tractor3 : State :=
  (((tractor.charge (.work 0) 1 (.die 60) 128000).modDie 60 fun d => { d with state := 1, mode := .qlc }).modDie 25 fun d =>
    { d with state := 2, mode := .tlc, susCnt := 1 })

theorem test_example_worked_admission_3 :
    (tractor3.aDie 60 1, tractor3.aDie 25 1) = (223000, 35000) ∧
      wMicro (tractor3.worstWait 1 { Demand.none with units := [(60, .tlc, 65536), (25, .tlc, 65536)] }) = 403 := by
  decide +kernel

/-- Step 6: with b = 95 µs the search is told that 11,071 µs would do (b is 70 µs more than with no data on any die). Of the 7,296 µs on
die 09.2, 180 are what the ledger holds for the journal (R214). -/
theorem test_example_worked_admission_6 :
    wMicro ((tractor.charge (.work 0) 2 (.die 74) 7116000).worst 2
      { Demand.none with units := List.replicate 2 (74, .qlc, 65536), hostOut := 2097152, cipher := 2097152 }
      (tractor.tailRead 2 (List.replicate 2 (74, .qlc, 65536)) 2097152 + 70000) 0) = 11071 := by
  decide +kernel

/-- Step 8: 256 KiB at the TIGHT charge is 40.8 µs on each die of the open ways and none on a quiet one. -/
theorem test_example_worked_admission_8 :
    ((tractor.programCharge (.work 0) 1 262144).aDie 75 1, (tractor.programCharge (.work 0) 1 262144).aDie 72 1) = (122500 / 3, 0) := by
  decide +kernel

/-- Chapter 07, the record filter: each word is its instruction's, which leaves the cell as it is at another word. -/
def filterWords : List (IWord × Instr) :=
  [(0x15E0, .li i0 1 14 0), (0x20A0, .ldx i0 5 0 false), (0x0115, .cvtu i0 5), (0x0F73, .cmp i0 7 3), (0x321B, .b i0 8 27),
    (0x2943, .sld i0 2 8 1 true), (0x18F4, .addi i0 15 4), (0x06F4, .and i0 15 4), (0x3A1C, .srel i0 1 12), (0x047C, .add i0 7 12),
    (0x10DA, .mov i0 13 10), (0x011D, .cvtu i0 13), (0x326F, .b i0 9 47), (0x2B44, .sst i0 2 8 2 false), (0x3B2C, .spub i0 2 12),
    (0x3023, .b i0 0 35), (0x0020, .endp i0)]

/-- Whether an instruction acts on a cell whose first word is `w`. -/
def acts (w : IWord) (c : Instr) : Bool := match exec c (celled w id) with
  | .next t => t.cell 0 != (celled w id).cell 0
  | _ => false

theorem test_example_record_filter : (filterWords.all fun p => acts p.1 p.2 && !acts (p.1 ^^^ 1) p.2) = true := by
  decide +kernel

/-- Chapter 16, one word with two upsets: bit 14 is mended on the way out, and with bit 20 the word cannot be. -/
theorem test_example_two_upsets :
    gridDecode 6 6 (2 ^ 14) = (some 0, true) ∧ (gridDecode 6 6 (2 ^ 14 + 2 ^ 20)).1 = none := by
  decide +kernel

/-- Chapter 15, a cab warms: at 0 °C band 1 is left for band 2, and band 1's codes hold to 8 °C. -/
theorem test_example_band_edge :
    bandStep 8 1 0 = 2 ∧ bandStep 8 1 (-1) = 1 ∧ bandHolds 1 8 = true ∧ bandHolds 1 9 = false := by
  decide +kernel

/-- Chapter 18, a frame split: CAN bus 2 receives a 64-byte FD frame; part 0 has LEN 52 and the header of the example, part 1 LEN 44. -/
def busy2 : State := { awake with field := { Field.reset with seq := 0x00012C40 } }

theorem test_example_frame_split :
    (match exec (.canFrameReceived 2 0x38FEF100 true false false 15 (List.replicate 64 7)) busy2 with
      | .next t => t.field.ring.map fun e => e.msg.take 8
      | _ => []) = [[0x02, 0x34, 0x40, 0x2C, 0x01, 0x00, 0x00, 0x01], [0x02, 0x2C, 0x41, 0x2C, 0x01, 0x00, 0x00, 0x01]] := by
  decide +kernel

/-! ## The standards' own vectors (log 23) -/

/-- FIPS 197, appendix C.3: AES-256. -/
theorem test_aes256 :
    aesEnc ((List.range 32).map (BitVec.ofNat 8)) ((List.range 16).map fun k => BitVec.ofNat 8 (17 * k)) =
      [0x8E, 0xA2, 0xB7, 0xCA, 0x51, 0x67, 0x45, 0xBF, 0xEA, 0xFC, 0x49, 0x90, 0x4B, 0x49, 0x60, 0x89] := by
  decide +kernel

/-- The check value of CRC-32C over the digits 1 to 9. -/
theorem test_crc32c : crc32c ((List.range 9).map fun k => BitVec.ofNat 8 (0x31 + k)) = 0xE3069283 := by
  decide +kernel

end Sys2Proof.Tests
end

section
/-!
The statistic counters: what `State.countRaw` stores, and that the event it raises leaves every counter area but EVT's as it is.
-/

namespace Sys2Proof.Machine

/-! ## The counter areas and the delivery of events -/

/-- A register of a counter area, other than page EVT's: the SAT words and the slots (R11). -/
def CounterReg (k : Nat) : Prop := k / 4096 ≠ 5 ∧ 0xF00 ≤ k % 4096

variable {s t : State} {page slot n : Nat}

theorem counterReg_slot (hp : page ≠ 5) (hs : slot ≤ 61) : CounterReg (page * 4096 + 0xF08 + 4 * slot) := by
  unfold CounterReg; omega

theorem counterReg_sat (hp : page ≠ 5) (hs : slot ≤ 61) : CounterReg (page * 4096 + 0xF00 + 4 * (slot / 32)) := by
  unfold CounterReg; omega

theorem not_counterReg_evRaw {p : Nat} : ¬ CounterReg (EV_RAW p) := by
  unfold CounterReg EV_RAW; omega

theorem not_counterReg_evt {off : Nat} (h : off < 4096) : ¬ CounterReg (5 * 4096 + off) := by
  unfold CounterReg; omega

/-- The registers kept by an operation that answers a pair, as its state is named by a match. -/
theorem Leaves.fst_of_eq {keys : Nat → Prop} {α : Type} {x : State × α} {u : State} {a : α} (h : Leaves keys s x.1) (e : x = (u, a)) :
    Leaves keys s u := by
  subst e; exact h

theorem leaves_counters_startWosc : Leaves CounterReg t t.startWosc := by
  have h1 : ¬ CounterReg CLK_STAT := by unfold CounterReg; decide
  have h2 : ¬ CounterReg CLK_RUN0 := by unfold CounterReg; decide
  exact ((Leaves.refl.setReg h1).setReg h2).of_regs rfl

theorem leaves_counters_signal (p n : Nat) : Leaves CounterReg t (t.signal p n).1 := by
  unfold State.signal
  split
  · split
    · split
      · exact .refl
      · exact Leaves.refl.sendVectors _ _ _
    · exact .refl
  · exact leaves_counters_startWosc
  · exact Leaves.refl.alert _
  · exact .refl

theorem leaves_counters_setRaw (p : Nat) (m : Word) : Leaves CounterReg t (t.setRaw p m).1 := by
  have h1 : Leaves CounterReg t (t.setReg (EV_RAW p) (t.reg (EV_RAW p) ||| m)) := Leaves.refl.setReg not_counterReg_evRaw
  have h2 := h1.trans (leaves_counters_signal p (bitCount (m &&& ~~~t.reg (EV_RAW p) &&& t.reg (EV_ENABLE p))))
  unfold State.setRaw
  dsimp only
  split
  · exact h1
  · split
    · next e => exact (congrArg Prod.fst e) ▸ h2
    · next e => exact (congrArg Prod.fst e) ▸ h2

theorem leaves_counters_countRaw_evt {k : Nat} (hk : k ≤ 61) (n : Nat) : Leaves CounterReg t (t.countRaw 5 k n).1 := by
  have h1 : ¬ CounterReg (5 * 4096 + 0xF08 + 4 * k) := Nat.add_assoc .. ▸ not_counterReg_evt (by omega)
  have h2 : ¬ CounterReg (5 * 4096 + 0xF00 + 4 * (k / 32)) := Nat.add_assoc .. ▸ not_counterReg_evt (by omega)
  unfold State.countRaw
  dsimp only
  split
  · exact (Leaves.refl.setReg h1).setReg h2
  · exact Leaves.refl.setReg h1

/-- Raising an event touches no counter but EVT's. -/
theorem leaves_counters_raise {p k : Nat} : Leaves CounterReg t (t.raise p k) := by
  have h1 : Leaves CounterReg t _ := leaves_counters_setRaw p (BitVec.ofNat 32 (2 ^ k))
  unfold State.raise State.raiseMask
  split
  · next e => exact h1.fst_of_eq e
  · next u n _ e =>
    have h2 : Leaves CounterReg t u := h1.fst_of_eq e
    have h3 := h2.trans (leaves_counters_countRaw_evt (by decide : 8 ≤ 61) n)
    split
    · next e' => exact h3.fst_of_eq e'
    · next e' => exact (h3.fst_of_eq e').trans (leaves_counters_setRaw _ _)

/-- An addition to a counter leaves the counters as its first part, without the event, does. -/
theorem leaves_counters_count : Leaves CounterReg (s.countRaw page slot n).1 (s.count page slot n) := by
  unfold State.count
  split
  · next e => exact e ▸ leaves_counters_raise
  · next e => exact e ▸ .refl

/-! ## Adding to a counter -/

theorem canonical_countRaw (page n : Nat) (hc : s.Canonical) (hs : slot ≤ 61) : (s.countRaw page slot n).1.Canonical :=
  ((Leaves.refl.countRaw hs).run hc).1

/-- The counter holds the sum, or its maximum (R11). -/
theorem reg_countRaw (hc : s.Canonical) (hs : slot ≤ 61) :
    (s.countRaw page slot n).1.reg (page * 4096 + 0xF08 + 4 * slot) =
      BitVec.ofNat 32 (min ((s.reg (page * 4096 + 0xF08 + 4 * slot)).toNat + n) 0xFFFFFFFF) := by
  unfold State.countRaw
  dsimp only
  split
  · exact (State.reg_setReg_ne (SMap.wf_set hc) (by omega)).trans (State.reg_setReg_self hc)
  · exact State.reg_setReg_self hc

/-- The SAT bit is set when the counter reaches its maximum, and kept (R11). -/
theorem sat_countRaw (hc : s.Canonical) (hs : slot ≤ 61) :
    (s.countRaw page slot n).1.regBit (page * 4096 + 0xF00 + 4 * (slot / 32)) (slot % 32) =
      (s.regBit (page * 4096 + 0xF00 + 4 * (slot / 32)) (slot % 32) ||
        decide (0xFFFFFFFF ≤ (s.reg (page * 4096 + 0xF08 + 4 * slot)).toNat + n)) := by
  have hne : page * 4096 + 0xF00 + 4 * (slot / 32) ≠ page * 4096 + 0xF08 + 4 * slot := by omega
  unfold State.countRaw State.regBit
  simp only [State.reg_setReg_ne hc hne]
  split
  · next h =>
    rw [State.reg_setReg_self (SMap.wf_set hc), bit_setBit_self (Nat.mod_lt _ (by decide)), h.2, Bool.false_or, eq_comm, decide_eq_true_eq]
    omega
  · next h =>
    rw [State.reg_setReg_ne hc hne]
    cases hb : bit (s.reg (page * 4096 + 0xF00 + 4 * (slot / 32))) (slot % 32) with
    | true => rfl
    | false =>
      rw [Bool.false_or, eq_comm, decide_eq_false_iff_not]
      intro hle
      exact h ⟨by omega, hb⟩

/-! ## Clearing a counter -/

theorem clearCounter_nonzero {v : Word} (h : v ≠ 0) : clearCounter page slot v s = s := by
  unfold clearCounter
  exact if_pos (.inl h)

/-- A write of 0 to a counter that is joined to no other clears it and its SAT bit (R12). -/
theorem clearCounter_zero {k : Kind} {i : Nat} (hk : kindOf page = some (k, i)) (h1 : (joinedSlots k).contains slot = false)
    (h2 : (joinedSlots k).contains (slot - 1) = false) (hp : page ≠ 5) :
    clearCounter page slot 0 s = (s.setReg (page * 0x1000 + slotOff slot) 0).setReg (page * 0x1000 + 0xF00 + 4 * (slot / 32))
      (setBit ((s.setReg (page * 0x1000 + slotOff slot) 0).reg (page * 0x1000 + 0xF00 + 4 * (slot / 32))) (slot % 32) false) := by
  simp only [clearCounter, hk, h1, h2, hp, ne_eq, not_true_eq_false, false_and, or_self, if_false, Bool.false_eq_true]

theorem exec_counterClear {m : Master} {v : Word} {d : RegDef} (h : Accepts s m page (slotOff slot) v noCond d) :
    exec (.counterClear m page slot v) s = .next (clearCounter page slot v (s.arrive m)) := by
  change execCounterClear m page slot v s = _
  rw [execCounterClear, write_of_accepts h]

theorem canonical_arrive (m : Master) (hc : s.Canonical) : (s.arrive m).Canonical := ((Leaves.refl.arrive m).run hc).1

end Sys2Proof.Machine

open Sys2Proof Sys2Proof.Machine

/-- Settles O46: the addition and the clear by what they store, and the event of a saturation by the counters that it leaves. -/
theorem countersSaturate : Obligations.CountersSaturate := by
  refine ⟨fun s page slot n hc hp hs => ?_, fun s m page slot v d ha hv => ?_, fun s m page slot d k i hc ha hs hk h1 h2 hp => ?_⟩
  · obtain ⟨-, hkept⟩ := leaves_counters_count.run (canonical_countRaw page n hc hs)
    constructor
    · rw [slotOff, ← Nat.add_assoc, hkept _ (counterReg_slot hp hs), reg_countRaw hc hs]
    · rw [State.regBit, hkept _ (counterReg_sat hp hs), slotOff, ← Nat.add_assoc]
      exact sat_countRaw hc hs
  · exact ⟨_, exec_counterClear ha, clearCounter_nonzero hv⟩
  · refine ⟨_, exec_counterClear ha, ?_⟩
    have ha := canonical_arrive m hc
    rw [clearCounter_zero hk h1 h2 hp]
    constructor
    · exact (State.reg_setReg_ne (SMap.wf_set ha) (by unfold slotOff; omega)).trans (State.reg_setReg_self ha)
    · rw [State.regBit, State.reg_setReg_self (SMap.wf_set ha), bit_setBit_self (Nat.mod_lt _ (by decide))]
end

section
/-!
The form of a state (`State.Sound`) as a predicate on everything that an operation can answer, and the updates that keep it.
-/

namespace Sys2Proof.Machine

/-! ## The form of what an operation answers -/

/-- A value that an operation may answer, if it is there, satisfies `P`. -/
def AllSome {α : Type} (P : α → Prop) (o : Option α) : Prop := ∀ a, o = some a → P a

/-- The value of a computation that succeeds satisfies `P`. -/
def AllOk {ε α : Type} (P : α → Prop) (o : Except ε α) : Prop := ∀ a, o = .ok a → P a

/-- The value of a computation that fails satisfies `P`. -/
def AllError {ε α : Type} (P : ε → Prop) (o : Except ε α) : Prop := ∀ a, o = .error a → P a

/-- Every state in what an instruction's body answers has the form. -/
structure Body.Sound (b : Body) : Prop where
  okState {s : State} {n : Nat} {pc : Option (BitVec 14)} : b = .ok s n pc → s.Sound
  refusedState {s : State} {x y z : Nat} : b = .refused s x y z → s.Sound
  stallState {k : Stall} {s : State} : b = .stall k s → s.Sound

/-- The state in the answer to a refused access has the form. -/
def Verdict.Sound (v : Verdict) : Prop := ∀ s r, v = .stop s r → s.Sound

/-- A row of the checks of R84 that ends a command leaves a state that has the form. -/
def Row.Sound (r : Row) : Prop := ∀ s : State, s.Sound → AllSome (fun x => x.2.Sound) (r s)

/-- Every row of a list leaves a state that has the form. -/
def AllRows (l : List Row) : Prop := ∀ r ∈ l, Row.Sound r

/-- The checks of an I/O job and what its admission makes of the state keep the form. -/
structure IoJob.Sound (j : IoJob) : Prop where
  rows : AllRows j.rows
  ok : ∀ s : State, s.Sound → (j.ok s).Sound

section Answers

variable {α β γ ε : Type} {P : α → Prop} {c : Prop} {inst : Decidable c}

theorem AllSome.none : AllSome P none := fun _ e => nomatch e
theorem AllSome.some {a : α} (h : P a) : AllSome P (some a) := fun _ e => Option.some.inj e ▸ h
theorem AllSome.of_eq {o : Option α} {a : α} (h : AllSome P o) (e : o = .some a) : P a := h a e
theorem AllSome.ite {a b : Option α} (ha : AllSome P a) (hb : AllSome P b) : AllSome P (if c then a else b) := by
  split <;> assumption
theorem AllSome.iteFn {f g : β → Option α} {x : β} (hf : AllSome P (f x)) (hg : AllSome P (g x)) :
    AllSome P ((if c then f else g) x) := by
  split <;> assumption
theorem AllSome.diteFn {f : c → β → Option α} {g : ¬ c → β → Option α} {x : β} (hf : ∀ h, AllSome P (f h x))
    (hg : ∀ h, AllSome P (g h x)) : AllSome P ((if h : c then f h else g h) x) := by
  split
  · exact hf _
  · exact hg _
theorem AllSome.getD {o : Option α} {a : α} (ho : AllSome P o) (ha : P a) : P (o.getD a) := by
  cases o with
  | none => exact ha
  | some b => exact ho b rfl
theorem AllSome.map {f : β → α} {Q : β → Prop} {o : Option β} (ho : AllSome Q o) (hf : ∀ b, Q b → P (f b)) :
    AllSome P (o.map f) := by
  cases o with
  | none => exact .none
  | some b => exact .some (hf b (ho b rfl))
theorem AllSome.bind {f : β → Option α} {Q : β → Prop} {o : Option β} (ho : AllSome Q o) (hf : ∀ b, Q b → AllSome P (f b)) :
    AllSome P (o.bind f) := by
  cases o with
  | none => exact .none
  | some b => exact hf b (ho b rfl)
theorem AllSome.foldl {f : Option α → β → Option α} {l : List β} {o : Option α} (ho : AllSome P o)
    (hf : ∀ o, AllSome P o → ∀ b, AllSome P (f o b)) : AllSome P (l.foldl f o) :=
  l.foldlRecOn f ho fun o ho b _ => hf o ho b
theorem AllSome.eqOf (P : α → Prop) {o : Option α} {a : α} (e : o = .some a) (h : AllSome P o) : P a := h a e
theorem AllSome.mapOf {f : β → α} {o : Option β} (hf : ∀ b, P (f b)) : AllSome P (o.map f) := by
  cases o with
  | none => exact .none
  | some b => exact .some (hf b)

theorem AllOk.ok {a : α} (h : P a) : AllOk P (.ok a : Except ε α) := fun _ e => Except.ok.inj e ▸ h
theorem AllOk.error {e : ε} : AllOk P (.error e) := fun _ h => nomatch h
theorem AllOk.of_eq {o : Except ε α} {a : α} (h : AllOk P o) (e : o = .ok a) : P a := h a e
theorem AllOk.ite {a b : Except ε α} (ha : AllOk P a) (hb : AllOk P b) : AllOk P (if c then a else b) := by
  split <;> assumption

theorem AllError.ok {a : β} : AllError P (.ok a : Except α β) := fun _ h => nomatch h
theorem AllError.error {e : α} (h : P e) : AllError P (.error e : Except α β) := fun _ e => Except.error.inj e ▸ h
theorem AllError.of_eq {o : Except α β} {a : α} (h : AllError P o) (e : o = .error a) : P a := h a e
theorem AllError.ite {a b : Except α β} (ha : AllError P a) (hb : AllError P b) : AllError P (if c then a else b) := by
  split <;> assumption
theorem AllError.map {f : β → γ} {o : Except α β} (ho : AllError P o) : AllError P (o.map f) := by
  cases o with
  | error e => exact .error (ho e rfl)
  | ok b => exact .ok

section Rows

variable {r : Row} {l l' : List Row}

theorem AllRows.head (h : AllRows (r :: l)) : Row.Sound r := h r List.mem_cons_self
theorem AllRows.tail (h : AllRows (r :: l)) : AllRows l := fun x hx => h x (List.mem_cons_of_mem _ hx)
theorem AllRows.nil : AllRows [] := fun _ hx => nomatch hx
theorem AllRows.cons (h : Row.Sound r) (hl : AllRows l) : AllRows (r :: l) := List.forall_mem_cons.2 ⟨h, hl⟩
theorem AllRows.append (h : AllRows l) (h' : AllRows l') : AllRows (l ++ l') := List.forall_mem_append.2 ⟨h, h'⟩
theorem AllRows.ite (h : AllRows l) (h' : AllRows l') : AllRows (if c then l else l') := by split <;> assumption

end Rows

variable {s t : State} {b d : Body}

theorem Body.Sound.ok {n : Nat} {pc : Option (BitVec 14)} (h : s.Sound) : (Body.ok s n pc).Sound :=
  ⟨fun e => by cases e; exact h, (nomatch ·), (nomatch ·)⟩
theorem Body.Sound.trap {x y z w n : Nat} {after : Bool} : (Body.trap x y z w after n).Sound :=
  ⟨(nomatch ·), (nomatch ·), (nomatch ·)⟩
theorem Body.Sound.refused {x y z : Nat} (h : s.Sound) : (Body.refused s x y z).Sound :=
  ⟨(nomatch ·), fun e => by cases e; exact h, (nomatch ·)⟩
theorem Body.Sound.stall {k : Stall} (h : s.Sound) : (Body.stall k s).Sound :=
  ⟨(nomatch ·), (nomatch ·), fun e => by cases e; exact h⟩
theorem Body.Sound.ite (hb : b.Sound) (hd : d.Sound) : (if c then b else d).Sound := by split <;> assumption

theorem Verdict.Sound.stop {r : BusReply} (h : s.Sound) : (Verdict.stop s r).Sound := fun _ _ e => by cases e; exact h
theorem Verdict.Sound.pass {d : RegDef} : (Verdict.pass d).Sound := fun _ _ e => nomatch e
theorem Verdict.Sound.ite {b d : Verdict} (hb : b.Sound) (hd : d.Sound) : (if c then b else d).Sound := by split <;> assumption
theorem Verdict.Sound.of_eq {o : Verdict} {r : BusReply} (h : o.Sound) (e : o = .stop s r) : s.Sound := h _ _ e

/-! ## The form of a state -/

namespace State.Sound

theorem ite (hs : s.Sound) (ht : t.Sound) : (if c then s else t).Sound := by split <;> assumption
theorem iteFn {f g : State → State} (hf : (f s).Sound) (hg : (g s).Sound) : ((if c then f else g) s).Sound := by
  split <;> assumption
theorem diteFn {f : c → State → State} {g : ¬ c → State → State} (hf : ∀ h, (f h s).Sound) (hg : ∀ h, (g h s).Sound) :
    ((if h : c then f h else g h) s).Sound := by
  split
  · exact hf _
  · exact hg _
theorem iteFst {x y : State × α} (hx : x.1.Sound) (hy : y.1.Sound) : (if c then x else y).1.Sound := by split <;> assumption
theorem iteSnd {x y : α × State} (hx : x.2.Sound) (hy : y.2.Sound) : (if c then x else y).2.Sound := by split <;> assumption
theorem iteSnd2 {x y : α × β × State} (hx : x.2.2.Sound) (hy : y.2.2.Sound) : (if c then x else y).2.2.Sound := by
  split <;> assumption
theorem fst {a : α} (h : s.Sound) : (s, a).1.Sound := h
theorem snd {a : α} (h : s.Sound) : (a, s).2.Sound := h
theorem snd2 {a : α} {b : β} (h : s.Sound) : (a, b, s).2.2.Sound := h
theorem snd3 {a : α} {b : β} {d : γ} (h : s.Sound) : (a, b, d, s).2.2.2.Sound := h
theorem ofFst {x : State × α} {a : α} (h : x.1.Sound) (e : x = (s, a)) : s.Sound := by subst e; exact h
theorem ofSnd {x : α × State} {a : α} (h : x.2.Sound) (e : x = (a, s)) : s.Sound := by subst e; exact h
theorem ofSnd2 {x : α × β × State} {a : α} {b : β} (h : x.2.2.Sound) (e : x = (a, b, s)) : s.Sound := by subst e; exact h
theorem ofSnd3 {x : α × β × γ × State} {a : α} {b : β} {d : γ} (h : x.2.2.2.Sound) (e : x = (a, b, d, s)) : s.Sound := by subst e; exact h

theorem fstOf {x : State × α} {a : α} (e : x = (s, a)) (h : x.1.Sound) : s.Sound := h.ofFst e
theorem sndOf {x : α × State} {a : α} (e : x = (a, s)) (h : x.2.Sound) : s.Sound := h.ofSnd e
theorem snd2Of {x : α × β × State} {a : α} {b : β} (e : x = (a, b, s)) (h : x.2.2.Sound) : s.Sound := h.ofSnd2 e

theorem foldl {f : State → α → State} {l : List α} (h : s.Sound) (hf : ∀ t, t.Sound → ∀ a, (f t a).Sound) : (l.foldl f s).Sound :=
  l.foldlRecOn f h fun t ht x _ => hf t ht x
theorem foldlFst {f : State × β → α → State × β} {l : List α} {x : State × β} (h : x.1.Sound)
    (hf : ∀ t, t.1.Sound → ∀ a, (f t a).1.Sound) : (l.foldl f x).1.Sound :=
  l.foldlRecOn (motive := fun t => t.1.Sound) f h fun t ht a _ => hf t ht a
theorem foldlSnd {f : β × State → α → β × State} {l : List α} {x : β × State} (h : x.2.Sound)
    (hf : ∀ t, t.2.Sound → ∀ a, (f t a).2.Sound) : (l.foldl f x).2.Sound :=
  l.foldlRecOn (motive := fun t => t.2.Sound) f h fun t ht a _ => hf t ht a
theorem foldlSnd2 {f : β × γ × State → α → β × γ × State} {l : List α} {x : β × γ × State} (h : x.2.2.Sound)
    (hf : ∀ t, t.2.2.Sound → ∀ a, (f t a).2.2.Sound) : (l.foldl f x).2.2.Sound :=
  l.foldlRecOn (motive := fun t => t.2.2.Sound) f h fun t ht a _ => hf t ht a

end State.Sound
end Answers

/-- A list with one element changed is as long. -/
@[simp] theorem length_at' {α : Type} {l : List α} {k : Nat} {f : α → α} : (at' l k f).length = l.length :=
  List.length_modify ..

/-! ## Updates that leave the registers and the lists of units as they are -/

namespace State.Sound

variable {s : State}

/-- A change of nothing that the form speaks of. -/
theorem rest (h : s.Sound) {pending latches dtime aonPhase cmds nss evid fw link nextSeq adm prog fabric ftl care red reqs nextId flash
    quiet rot lastRot ways geom wayMap micro parked queued bare posted work epochs wrap root digs mem pois victim ebuf want stamp mop
    served lastBo margin upsets busy zeroing field frl sb power start events squall fresh out} :
    State.Sound ⟨pending, ⟨s.pages.regs, latches, dtime, aonPhase⟩, ⟨s.host.ctrls, s.host.logs, cmds, nss, evid, fw, link, nextSeq⟩,
      adm, prog, s.cells, fabric, ftl, care, red,
      ⟨s.media.chans, s.media.dies, reqs, nextId, flash, quiet, rot, lastRot, ways, geom, wayMap, micro, parked, queued, bare⟩,
      ⟨s.search.banks, posted, work⟩,
      ⟨s.crypto.slots, epochs, wrap, root, s.crypto.lanes, s.crypto.bound, s.crypto.ctxs, digs⟩,
      ⟨mem, pois, s.dram.chans, s.dram.slices, victim, ebuf, want, stamp, mop, served, lastBo, margin⟩, upsets,
      ⟨s.vfm.vfs, busy, zeroing⟩, field, frl, sb, power, start, events, squall, fresh, out⟩ := h

/-! ## Updates of the registers and of the lists of units -/

theorem canonical (h : s.Sound) : SMap.wf (fun k => resetOf (k / 4096) (k % 4096)) s.pages.regs = true := h.1

theorem complete (h : s.Sound) : s.Complete := h.2

theorem withRegs (h : s.Sound) {m : SMap Word} (e : SMap.wf (fun k => resetOf (k / 4096) (k % 4096)) m = true) :
    State.Sound { s with pages := { s.pages with regs := m } } := ⟨e, h.complete⟩

theorem withCells (h : s.Sound) {l : List Cell} (e : l.length = s.cells.length) : State.Sound { s with cells := l } := by
  obtain ⟨h0, h1, h2⟩ := h
  exact ⟨h0, e.trans h1, h2⟩

theorem withCtrls (h : s.Sound) {l : List Ctrl} (e : l.length = s.host.ctrls.length) :
    State.Sound { s with host := { s.host with ctrls := l } } := by
  obtain ⟨h0, h1, h2, h3⟩ := h
  exact ⟨h0, h1, e.trans h2, h3⟩

theorem withLogs (h : s.Sound) {l : List FnLogs} (e : l.length = s.host.logs.length) :
    State.Sound { s with host := { s.host with logs := l } } := by
  obtain ⟨h0, h1, h2, h3, h4⟩ := h
  exact ⟨h0, h1, h2, e.trans h3, h4⟩

theorem withVfs (h : s.Sound) {l : List Vf} (e : l.length = s.vfm.vfs.length) :
    State.Sound { s with vfm := { s.vfm with vfs := l } } := by
  obtain ⟨h0, h1, h2, h3, h4, h5⟩ := h
  exact ⟨h0, h1, h2, h3, e.trans h4, h5⟩

theorem withMedia (h : s.Sound) {m : Media} (e1 : m.chans.length = s.media.chans.length)
    (e2 : m.dies.length = s.media.dies.length) : State.Sound { s with media := m } := by
  obtain ⟨h0, h1, h2, h3, h4, h5, h6, h7⟩ := h
  exact ⟨h0, h1, h2, h3, h4, e1.trans h5, e2.trans h6, h7⟩

theorem withBanks (h : s.Sound) {l : List Bank} (e : l.length = s.search.banks.length) :
    State.Sound { s with search := { s.search with banks := l } } := by
  obtain ⟨h0, h1, h2, h3, h4, h5, h6, h7, h8⟩ := h
  exact ⟨h0, h1, h2, h3, h4, h5, h6, e.trans h7, h8⟩

theorem withCrypto (h : s.Sound) {c : Crypto} (e1 : c.slots.length = s.crypto.slots.length)
    (e2 : c.lanes.length = s.crypto.lanes.length) (e3 : c.bound.length = s.crypto.bound.length)
    (e4 : c.ctxs.length = s.crypto.ctxs.length) : State.Sound { s with crypto := c } := by
  obtain ⟨h0, h1, h2, h3, h4, h5, h6, h7, h8, h9, h10, h11, h12⟩ := h
  exact ⟨h0, h1, h2, h3, h4, h5, h6, h7, e1.trans h8, e2.trans h9, e3.trans h10, e4.trans h11, h12⟩

theorem withDram (h : s.Sound) {d : Dram} (e1 : d.chans.length = s.dram.chans.length)
    (e2 : d.slices.length = s.dram.slices.length) : State.Sound { s with dram := d } := by
  obtain ⟨h0, h1, h2, h3, h4, h5, h6, h7, h8, h9, h10, h11, h12, h13⟩ := h
  exact ⟨h0, h1, h2, h3, h4, h5, h6, h7, h8, h9, h10, h11, e1.trans h12, e2.trans h13⟩

end State.Sound

/-! ## Every operation of the model keeps the form, in the order of the model's files -/

variable {s : State}

/-! ### Ops -/

theorem State.Sound.setReg {key : Nat} {v : Word} (h : s.Sound) : (s.setReg key v).Sound :=
  h.withRegs (SMap.wf_set h.canonical)

theorem State.Sound.setField {key hi lo v : Nat} (h : s.Sound) : (s.setField key hi lo v).Sound := h.setReg

theorem State.Sound.emit {o : Out} (h : s.Sound) : (s.emit o).Sound := h.rest

theorem State.Sound.free (h : s.Sound) : s.free.2.Sound := .snd h.rest

theorem State.Sound.learnTime {t : BitVec 64} {valid : Bool} (h : s.Sound) : (s.learnTime t valid).Sound :=
  h.rest

theorem State.Sound.modCell {c : CellId} {f : Cell → Cell} (h : s.Sound) : (s.modCell c f).Sound :=
  h.withCells length_at'

theorem State.Sound.modCtrl {f : Fun} {g : Ctrl → Ctrl} (h : s.Sound) : (s.modCtrl f g).Sound :=
  h.withCtrls length_at'

theorem State.Sound.modLogs {f : Fun} {g : FnLogs → FnLogs} (h : s.Sound) : (s.modLogs f g).Sound :=
  h.withLogs length_at'

theorem State.Sound.startWosc (h : s.Sound) : s.startWosc.Sound := h.setReg.setReg.rest

theorem State.Sound.logWarden {page : Nat} {w : Word} (h : s.Sound) : (s.logWarden page w).Sound := h.rest

theorem State.Sound.alert {page : Nat} (h : s.Sound) : (s.alert page).Sound := by
  unfold State.alert
  extract_lets s1
  have h1 : s1.Sound := h.logWarden
  exact .ite h1.emit h1

theorem State.Sound.sendVector {f : Fun} {v : Nat} (h : s.Sound) : (s.sendVector f v).Sound :=
  .ite h.modCtrl h.emit

theorem State.Sound.sendVectors {f : Fun} {v n : Nat} (h : s.Sound) : (s.sendVectors f v n).Sound := by
  induction n with
  | zero => exact h
  | succ n ih => exact ih.sendVector

theorem State.Sound.signal {page n : Nat} (h : s.Sound) : (s.signal page n).1.Sound := by
  unfold State.signal
  split
  · exact .iteFst (.iteFst (.fst h) (.fst h.sendVectors)) (.fst h)
  · exact .fst h.startWosc
  · exact .fst h.alert
  · exact .fst h

theorem State.Sound.setRaw {page : Nat} {m : Word} (h : s.Sound) : (s.setRaw page m).1.Sound := by
  unfold State.setRaw
  extract_lets
  refine .iteFst (.fst h.setReg) ?_
  split
  · next e => exact .fst (h.setReg.signal.ofFst e)
  · next e => exact .fst (h.setReg.signal.ofFst e)

theorem State.Sound.countRaw {page slot n : Nat} (h : s.Sound) : (s.countRaw page slot n).1.Sound :=
  .iteFst (.fst h.setReg.setReg) (.fst h.setReg)

theorem State.Sound.raiseMask {page : Nat} {m : Word} (h : s.Sound) : (s.raiseMask page m).Sound := by
  unfold State.raiseMask
  split
  · next e => exact h.setRaw.ofFst e
  · next e =>
      split
      · next e2 => exact (h.setRaw.ofFst e).countRaw.ofFst e2
      · next e2 => exact ((h.setRaw.ofFst e).countRaw.ofFst e2).setRaw

theorem State.Sound.raise {page k : Nat} (h : s.Sound) : (s.raise page k).Sound := h.raiseMask

theorem State.Sound.count {page slot n : Nat} (h : s.Sound) : (s.count page slot n).Sound := by
  unfold State.count
  split
  · next e => exact (h.countRaw.ofFst e).raise
  · next e => exact h.countRaw.ofFst e

theorem State.Sound.count64 {page slot n : Nat} (h : s.Sound) : (s.count64 page slot n).Sound := by
  unfold State.count64
  extract_lets _ _ s1
  have h1 : s1.Sound := h.setReg.setReg
  exact .ite h1.setReg.raise h1

theorem State.Sound.error {page code : Nat} {m : Option Master} {c1 c2 c3 c6 c7 : Word} (h : s.Sound) :
    (s.error page code m c1 c2 c3 c6 c7).Sound := by
  unfold State.error
  extract_lets s1
  have h1 : s1.Sound := h.count
  refine .ite h1.setReg ?_
  split
  · extract_lets _ s2 _ s3 s4
    have h2 : s2.Sound := h1.setReg.setReg.setReg
    have h3 : s3.Sound := h2.setReg.setReg.setReg
    have h4 : s4.Sound := h3.setReg.setReg
    exact .raise (.ite h4 h4.setReg.setReg.setReg)

theorem State.Sound.blockError {page code : Nat} {c1 c2 c3 : Word} (h : s.Sound) : (s.blockError page code c1 c2 c3).Sound :=
  h.error

theorem State.Sound.setStat {page k : Nat} (h : s.Sound) : (s.setStat page k).Sound :=
  .ite h.setReg.raise h.setReg

theorem State.Sound.accessFail {page k code : Nat} {m : Master} {off : Nat} {v : Word} (h : s.Sound) :
    (s.accessFail page k code m off v).Sound :=
  h.setStat.count.error

theorem State.Sound.refuse {page code : Nat} {m : Master} {off : Nat} {v : Word} (h : s.Sound) : (s.refuse page code m off v).Sound :=
  h.error

theorem State.Sound.refuseRsvd {page code : Nat} {m : Master} {off : Nat} {v : Word} (h : s.Sound) :
    (s.refuseRsvd page code m off v).Sound :=
  h.setStat.refuse

theorem State.Sound.logPlace {page : Nat} {v : Word} (h : s.Sound) : (s.logPlace page v).Sound :=
  .ite h h.setReg.setReg

theorem State.Sound.logCorrection {page array index : Nat} (h : s.Sound) : (s.logCorrection page array index).Sound := by
  unfold State.logCorrection
  extract_lets _ _ _ s1
  have h1 : s1.Sound := .logPlace (.ite h.setReg.setReg h.setReg)
  exact .ite h1.raise h1

theorem State.Sound.readProt {page array index rows cols : Nat} (h : s.Sound) : (s.readProt page array index rows cols).2.Sound := by
  unfold State.readProt
  extract_lets
  refine .iteSnd (.snd h) ?_
  split
  · exact .snd h.logCorrection
  · exact .snd h

theorem State.Sound.scanProt {page array lo n : Nat} (h : s.Sound) : (s.scanProt page array lo n).2.Sound := by
  unfold State.scanProt
  refine .foldlSnd (.snd h) (fun _ ht _ => ?_)
  split
  · next e => exact .snd (ht.readProt.ofSnd e)
  · next e => exact .snd (ht.readProt.ofSnd e)

theorem State.Sound.clearProt {page array lo n : Nat} (h : s.Sound) : (s.clearProt page array lo n).Sound :=
  h.rest

theorem State.Sound.freshProt {page array index : Nat} (h : s.Sound) : (s.freshProt page array index).Sound :=
  h.rest

theorem State.Sound.mergeProt {page array index rows cols written : Nat} (h : s.Sound) :
    (s.mergeProt page array index rows cols written).Sound := by
  unfold State.mergeProt
  split
  · next e =>
      have h1 := h.readProt.ofSnd e
      exact h1.rest
  · next e =>
      have h2 := h.readProt.ofSnd e
      exact h2.rest

theorem State.Sound.arrive {m : Master} (h : s.Sound) : (s.arrive m).Sound := by
  unfold State.arrive
  split
  · exact .ite h.count64 h
  · exact .ite h.count64 h
  · exact h

theorem State.Sound.checkAccess {m : Master} {page off width : Nat} {isRead : Bool} {v : Word} (h : s.Sound) :
    (s.checkAccess m page off width isRead v).Sound := by
  unfold State.checkAccess
  refine .ite (.stop h.setReg) ?_
  extract_lets
  refine .ite (.stop h.accessFail) ?_
  split
  · exact .stop h.accessFail
  · exact .pass

theorem State.Sound.write {m : Master} {page off width : Nat} {v : Word} {cond : State → Option State} {effect : RegDef → State → State}
    (h : s.Sound) (hcond : ∀ t, t.Sound → AllSome State.Sound (cond t)) (heffect : ∀ x, ∀ t, t.Sound → (effect x t).Sound) :
    (s.write m page off width v cond effect).1.Sound := by
  unfold State.write
  extract_lets s1
  have h1 : s1.Sound := h.arrive
  split
  · next e => exact .fst (h1.checkAccess.of_eq e)
  · refine .iteFst (.fst h1.accessFail) (.iteFst (.fst h1) ?_)
    refine .iteFst (.fst h1.accessFail) (.iteFst (.fst h1.accessFail) (.iteFst (.fst h1.accessFail) ?_))
    split
    · next e => exact .fst ((hcond _ h1).of_eq e)
    · exact .iteFst (.fst (heffect _ _ h1).accessFail) (.fst (heffect _ _ h1))

theorem State.Sound.store {key : Nat} {v : Word} {d : RegDef} (h : s.Sound) : (State.store key v d s).Sound :=
  h.setReg

theorem State.Sound.cause {k : Nat} {b : Bool} (h : s.Sound) : (s.cause k b).Sound :=
  .ite h.setReg (.ite h.setReg.raise h.setReg.raise)

theorem State.Sound.syncTemp (h : s.Sound) : s.syncTemp.Sound := .ite h h.cause

theorem State.Sound.syncSupply (h : s.Sound) : s.syncSupply.Sound := .ite h h.cause

theorem State.Sound.breakMs (h : s.Sound) : s.breakMs.Sound := h.rest

theorem State.Sound.syncSquall (h : s.Sound) : s.syncSquall.Sound := .cause (.ite h.breakMs h)

theorem State.Sound.reply {m : Master} {r : BusReply} (h : s.Sound) : (s.reply m r).Sound := h.emit

theorem State.Sound.release {x : Delayed} (h : s.Sound) : (s.release x).Sound := by
  unfold State.release
  split
  · exact h.emit
  · exact h.modCell
  · exact h.rest
  · exact h.rest
  · exact h.rest

theorem State.Sound.deliver {page : Nat} {d : Delayed} (h : s.Sound) : (s.deliver page d).Sound :=
  .ite h.release h.rest

theorem State.Sound.answerRead {m : Master} {page : Nat} {v : Word} (h : s.Sound) : (s.answerRead m page v).Sound :=
  h.deliver

theorem State.Sound.disarm {page k : Nat} (h : s.Sound) : (s.disarm page k).Sound := h.setReg

/-! ### Pages -/

theorem State.Sound.rearmCapture {page : Nat} {v : Word} (h : s.Sound) : (rearmCapture page v s).Sound :=
  .ite (h.foldl (fun _ ht _ => ht.setReg)) h

theorem State.Sound.execErrcapRearm {m : Master} {page : Nat} {v : Word} (h : s.Sound) :
    AllNext State.Sound (execErrcapRearm m page v s) :=
  .next (h.write (fun _ _ => .none) (fun _ _ ht => ht.rearmCapture))

theorem State.Sound.execEvSet {m : Master} {page : Nat} {v : Word} (h : s.Sound) : AllNext State.Sound (execEvSet m page v s) :=
  .next (h.write (fun _ _ => .none) (fun _ _ ht => ht.raiseMask))

theorem State.Sound.clearRaw {page : Nat} {v : Word} (h : s.Sound) : (clearRaw page v s).Sound :=
  .ite h.setReg.emit h.setReg

theorem State.Sound.execEvClear {m : Master} {page : Nat} {v hw : Word} (h : s.Sound) :
    AllNext State.Sound (execEvClear m page v hw s) :=
  .next (.raiseMask (h.write (fun _ _ => .none) (fun _ _ ht => ht.clearRaw)))

theorem State.Sound.relevel {page : Nat} (h : s.Sound) : (relevel page s).Sound := by
  unfold Machine.relevel
  refine .ite h ?_
  split
  · exact h.startWosc
  · exact h.alert
  · exact h

theorem State.Sound.routeEffect {page : Nat} {v : Word} {d : RegDef} (h : s.Sound) : (routeEffect page v d s).Sound := by
  unfold Machine.routeEffect
  extract_lets s1
  have h1 : s1.Sound := h.store.relevel
  exact .ite h1.emit h1

theorem State.Sound.execEvRouteWrite {m : Master} {page : Nat} {v : Word} (h : s.Sound) :
    AllNext State.Sound (execEvRouteWrite m page v s) :=
  .next (h.write (fun _ _ => .none) (fun _ _ ht => ht.routeEffect))

theorem State.Sound.ownerCond {m : Master} {page : Nat} {v : Word} (h : s.Sound) : AllSome State.Sound (ownerCond m page v s) :=
  .ite (.some h.accessFail) .none

theorem State.Sound.execPgOwnerWrite {m : Master} {page : Nat} {v : Word} (h : s.Sound) :
    AllNext State.Sound (execPgOwnerWrite m page v s) :=
  .next (h.write (fun _ ht => ht.ownerCond) (fun _ _ ht => ht.store))

theorem State.Sound.clearCounter {page slot : Nat} {v : Word} (h : s.Sound) : (clearCounter page slot v s).Sound := by
  unfold Machine.clearCounter
  extract_lets joined clear
  have hc (t : State) (ht : t.Sound) (j : Nat) : (clear t j).Sound := .setReg (.ite ht.setReg.setReg ht.setReg)
  exact .ite h (.ite (hc _ (hc s h 2) 4) (hc s h slot))

theorem State.Sound.execCounterClear {m : Master} {page slot : Nat} {v : Word} (h : s.Sound) :
    AllNext State.Sound (execCounterClear m page slot v s) :=
  .next (h.write (fun _ _ => .none) (fun _ _ ht => ht.clearCounter))

theorem State.Sound.latch {page off : Nat} {m : Master} {v : Word} (h : s.Sound) : (s.latch page off m v).Sound :=
  h.rest

theorem State.Sound.execRefusedRead {m : Master} {page off width : Nat} (h : s.Sound) :
    AllNext State.Sound (execRefusedRead m page off width s) := by
  unfold Machine.execRefusedRead
  extract_lets s1
  have h1 : s1.Sound := h.arrive
  split
  · next e => exact .next (h1.checkAccess.of_eq e).reply
  · exact .next h1

/-! ### CellCore -/

theorem State.Sound.setW {c : CellId} {r : Reg} {v : TWord} (h : s.Sound) : (s.setW c r v).Sound := h.modCell

theorem State.Sound.decodeDm {c : CellId} {a : Nat} (h : s.Sound) : (s.decodeDm c a).2.Sound := by
  unfold State.decodeDm
  extract_lets
  split
  · next e => exact .snd (h.readProt.ofSnd e)
  · next e =>
      have h1 := h.readProt.ofSnd e
      exact .snd (.ite h1.count h1)

theorem State.Sound.readDm {c : CellId} {a : Nat} (h : s.Sound) : (s.readDm c a).2.Sound := .snd h.decodeDm

theorem State.Sound.writeDm {c : CellId} {a : Nat} {w : TWord} (h : s.Sound) : (s.writeDm c a w).Sound :=
  h.modCell.freshProt

theorem State.Sound.fetchI {c : CellId} {a : Nat} (h : s.Sound) : (s.fetchI c a).2.Sound := by
  unfold State.fetchI
  extract_lets
  split
  · next e => exact .snd (h.readProt.ofSnd e)
  · next e => exact .snd (h.readProt.ofSnd e)

theorem State.Sound.dropLoad {c : CellId} (h : s.Sound) : (s.dropLoad c).Sound := by
  obtain ⟨h0, h1, h2, h3, h4, h5, h6, h7, h8, h9, h10, h11, h12, h13⟩ := h
  exact ⟨h0, h1, h2, h3, h4, h5, h6, h7, h8, h9, h10, h11, h12, (List.length_map ..).trans h13⟩

theorem State.Sound.doubleTrap {c : CellId} (h : s.Sound) : (s.doubleTrap c).Sound :=
  h.modCell.setReg.count.raise

theorem State.Sound.trap {c : CellId} {cause detail tagseen opnd : Nat} {pc : BitVec 14} (h : s.Sound) :
    (s.trap c cause detail tagseen opnd pc).Sound := by
  unfold State.trap
  extract_lets _ _ _ _ _ s1 s2 s3
  have h1 : s1.Sound := h.modCell.setReg.setReg
  have h2 : s2.Sound := h1.count
  have h3 : s3.Sound := .ite h2.count h2
  exact .ite h.doubleTrap (.ite h3.raise (.ite h3.raise (.ite h3.raise h3)))

theorem State.Sound.fetchN {c : CellId} {a n : Nat} (h : s.Sound) : (s.fetchN c a n).2.Sound := by
  induction n generalizing s a with
  | zero => exact .snd h
  | succ n ih =>
    unfold State.fetchN
    split
    · next e => exact .snd (h.fetchI.ofSnd e)
    · next e =>
        split
        · next e2 => exact .snd ((ih (h.fetchI.ofSnd e)).ofSnd e2)
        · next e2 => exact .snd ((ih (h.fetchI.ofSnd e)).ofSnd e2)

theorem State.Sound.fetchSlot {c : CellId} {a n : Nat} (h : s.Sound) : (s.fetchSlot c a n).2.Sound := by
  unfold State.fetchSlot
  extract_lets
  refine .iteSnd ?_ h.fetchN
  split
  · next e => exact .snd (h.fetchI.ofSnd e)
  · next e => exact .snd (h.fetchI.ofSnd e)

theorem State.Sound.pairWords {c : CellId} {a n : Nat} (h : s.Sound) : AllError (fun x => x.2.Sound) (s.pairWords c a n) := by
  induction n generalizing s a with
  | zero => exact .ok
  | succ n ih =>
    unfold State.pairWords
    refine .ite (.error (.snd h)) ?_
    split
    · next e => exact .error (.snd (h.fetchI.ofSnd e))
    · next e => exact .ite (.map (ih (h.fetchI.ofSnd e))) .ok

theorem State.Sound.charged {c : CellId} {n : Nat} {f : State → State} (h : s.Sound) (hf : ∀ t, t.Sound → (f t).Sound) :
    (s.charged c n f).Sound := by
  unfold State.charged
  extract_lets
  refine .ite ?_ (hf _ h)
  split
  · exact h.modCell.trap
  · exact hf _ h.modCell

theorem State.Sound.retire {c : CellId} {ext : List (BitVec 10)} {pc : Option (BitVec 14)} {wasLatched : Bool} (h : s.Sound) :
    (s.retire c ext pc wasLatched).Sound :=
  h.modCell.count64

theorem State.Sound.issue {i : Iss} {w : IWord} {body : State → Body} (h : s.Sound) (hbody : ∀ t, t.Sound → (body t).Sound) :
    AllNext State.Sound (s.issue i w body) := by
  unfold State.issue
  extract_lets
  refine .ite (.next h) (.ite (.next h) (.ite (.next h.disarm.modCell.trap) ?_))
  refine .ite (.next h.trap) (.ite (.next (h.charged (fun _ ht => ht.trap))) ?_)
  refine .ite (.next (h.fetchSlot.charged (fun _ ht => ht.trap))) ?_
  refine .ite (.next (h.fetchSlot.charged (fun _ ht => ht.trap))) ?_
  refine .ite (.next (h.fetchSlot.charged (fun _ ht => ht.trap))) ?_
  extract_lets s2
  have h2 : s2.Sound := h.fetchSlot.modCell
  split
  · next e => exact .next (.modCell (.ite ((hbody _ h2).stallState e).modCell h.fetchSlot))
  · exact .next (h2.charged (fun _ ht => ht.trap))
  · next e => exact .next (((hbody _ h2).refusedState e).charged (fun _ ht => ht.trap))
  · next e =>
      have h3 := (hbody _ h2).okState e
      split
      · exact .next h.fetchSlot.modCell.trap
      · exact .next (.retire (.ite h3.modCell h3))

theorem Body.Sound.need {a : TWord} {opnd : Nat} {ok : BitVec 4 → Bool} {k : Body} (h : k.Sound) : (need a opnd ok k).Sound :=
  .ite .trap (.ite h .trap)

theorem Body.Sound.need2 {a : TWord} {okA : BitVec 4 → Bool} {b : TWord} {okB : BitVec 4 → Bool} {k : Body} (h : k.Sound) :
    (need2 a okA b okB k).Sound :=
  .ite .trap (.ite .trap (.ite .trap (.ite .trap h)))

theorem Body.Sound.needEq {a b : TWord} {ok : BitVec 4 → Bool} {k : Body} (h : k.Sound) : (needEq a b ok k).Sound :=
  .need2 h

theorem State.Sound.result {c : CellId} {rd : Reg} {v : TWord} {f : BitVec 6} (h : s.Sound) : (s.result c rd v f).Sound :=
  h.modCell

theorem State.Sound.setFlags {c : CellId} {f : BitVec 6} (h : s.Sound) : (s.setFlags c f).Sound := h.modCell

/-! ### CellAlu -/

theorem State.Sound.alu2 {c : CellId} {rd rs : Reg} {okA okB : BitVec 4 → BitVec 4 → Bool} {f : TWord → TWord → BitVec 6 → TWord × BitVec
    6} (h : s.Sound) : (alu2 c rd rs okA okB f s).Sound := by
  unfold Machine.alu2
  exact .need2 (.ok h.result)

theorem State.Sound.alu1 {c : CellId} {r : Reg} {ok : BitVec 4 → Bool} {f : TWord → BitVec 6 → TWord × BitVec 6} (h : s.Sound) :
    (alu1 c r ok f s).Sound :=
  .need (.ok h.result)

theorem State.Sound.logic2 {c : CellId} {rd rs : Reg} {f : Word → Word → Word} (h : s.Sound) : (logic2 c rd rs f s).Sound :=
  h.alu2

theorem State.Sound.shift2 {c : CellId} {rd rs : Reg} {f : Word → Nat → Word × Bool} (h : s.Sound) : (shift2 c rd rs f s).Sound :=
  h.alu2

theorem State.Sound.execAdd {i : Iss} {rd rs : Reg} (h : s.Sound) : AllNext State.Sound (execAdd i rd rs s) :=
  h.issue (fun _ ht => ht.alu2)

theorem State.Sound.execSub {i : Iss} {rd rs : Reg} (h : s.Sound) : AllNext State.Sound (execSub i rd rs s) :=
  h.issue (fun _ ht => ht.alu2)

theorem State.Sound.execAnd {i : Iss} {rd rs : Reg} (h : s.Sound) : AllNext State.Sound (execAnd i rd rs s) :=
  h.issue (fun _ ht => ht.logic2)

theorem State.Sound.execOr {i : Iss} {rd rs : Reg} (h : s.Sound) : AllNext State.Sound (execOr i rd rs s) :=
  h.issue (fun _ ht => ht.logic2)

theorem State.Sound.execXor {i : Iss} {rd rs : Reg} (h : s.Sound) : AllNext State.Sound (execXor i rd rs s) :=
  h.issue (fun _ ht => ht.logic2)

theorem State.Sound.execShl {i : Iss} {rd rs : Reg} (h : s.Sound) : AllNext State.Sound (execShl i rd rs s) :=
  h.issue (fun _ ht => ht.shift2)

theorem State.Sound.execShr {i : Iss} {rd rs : Reg} (h : s.Sound) : AllNext State.Sound (execShr i rd rs s) :=
  h.issue (fun _ ht => ht.shift2)

theorem State.Sound.execSar {i : Iss} {rd rs : Reg} (h : s.Sound) : AllNext State.Sound (execSar i rd rs s) :=
  h.issue (fun _ ht => ht.shift2)

theorem State.Sound.satBody {c : CellId} {rd rs : Reg} {op : ℤ → ℤ → ℤ} {plain : BitVec 6 → Word → Word → BitVec 6} (h : s.Sound) :
    (satBody c rd rs op plain s).Sound :=
  .needEq (.ok (.result (.ite h.free h)))

theorem State.Sound.execAdds {i : Iss} {rd rs : Reg} (h : s.Sound) : AllNext State.Sound (execAdds i rd rs s) :=
  h.issue (fun _ ht => ht.satBody)

theorem State.Sound.execSubs {i : Iss} {rd rs : Reg} (h : s.Sound) : AllNext State.Sound (execSubs i rd rs s) :=
  h.issue (fun _ ht => ht.satBody)

theorem State.Sound.execMul {i : Iss} {rd rs : Reg} (h : s.Sound) : AllNext State.Sound (execMul i rd rs s) :=
  h.issue (fun _ ht => .needEq (.ok ht.modCell))

theorem State.Sound.execCmp {i : Iss} {rd rs : Reg} (h : s.Sound) : AllNext State.Sound (execCmp i rd rs s) :=
  h.issue (fun _ ht => .needEq (.ok ht.setFlags))

theorem State.Sound.execAddi {i : Iss} {rd : Reg} {im : BitVec 4} (h : s.Sound) : AllNext State.Sound (execAddi i rd im s) :=
  h.issue (fun _ ht => ht.alu1)

theorem State.Sound.execCmpi {i : Iss} {rd : Reg} {im : BitVec 4} (h : s.Sound) : AllNext State.Sound (execCmpi i rd im s) :=
  h.issue (fun _ ht => .need (.ok ht.setFlags))

theorem State.Sound.execAndi {i : Iss} {rd : Reg} {im : BitVec 4} (h : s.Sound) : AllNext State.Sound (execAndi i rd im s) :=
  h.issue (fun _ ht => ht.alu1)

theorem State.Sound.execOri {i : Iss} {rd : Reg} {im : BitVec 4} (h : s.Sound) : AllNext State.Sound (execOri i rd im s) :=
  h.issue (fun _ ht => ht.alu1)

theorem State.Sound.execLi {i : Iss} {tg : BitVec 2} {rd : Reg} {im : BitVec 4} (h : s.Sound) :
    AllNext State.Sound (execLi i tg rd im s) :=
  h.issue (fun _ ht => .ok ht.setW)

theorem State.Sound.execMov {i : Iss} {rd rs : Reg} (h : s.Sound) : AllNext State.Sound (execMov i rd rs s) :=
  h.issue (fun _ ht => .need (.ok ht.setW))

theorem State.Sound.execNarrow {i : Iss} {rd rs : Reg} (h : s.Sound) : AllNext State.Sound (execNarrow i rd rs s) :=
  h.issue (fun _ ht => .need2 (.ite .trap (.ok ht.setW)))

theorem State.Sound.execBeql {i : Iss} {rd rs : Reg} (h : s.Sound) : AllNext State.Sound (execBeql i rd rs s) :=
  h.issue (fun _ ht => ht.alu2)

theorem State.Sound.execRetag {i : Iss} {rd rs : Reg} (h : s.Sound) : AllNext State.Sound (execRetag i rd rs s) :=
  h.issue (fun _ ht => .ite .trap (.ite .trap (.need2 (.ok ht.setW))))

theorem State.Sound.execMovs {i : Iss} {rd sp : Reg} (h : s.Sound) : AllNext State.Sound (execMovs i rd sp s) :=
  h.issue (fun _ ht => .ok ht.setW)

theorem State.Sound.execSets {i : Iss} {sp rs : Reg} (h : s.Sound) : AllNext State.Sound (execSets i sp rs s) :=
  h.issue (fun _ ht => .ite .trap (.need (.ok ht.modCell)))

theorem State.Sound.convert {c : CellId} {r : Reg} {t : BitVec 4} {f : TWord → Word × Bool × Bool} (h : s.Sound) :
    (convert c r t f s).Sound :=
  h.alu1

theorem State.Sound.execCvti {i : Iss} {r : Reg} (h : s.Sound) : AllNext State.Sound (execCvti i r s) :=
  h.issue (fun _ ht => ht.convert)

theorem State.Sound.execCvtu {i : Iss} {r : Reg} (h : s.Sound) : AllNext State.Sound (execCvtu i r s) :=
  h.issue (fun _ ht => ht.convert)

theorem State.Sound.execCvtf {i : Iss} {r : Reg} (h : s.Sound) : AllNext State.Sound (execCvtf i r s) :=
  h.issue (fun _ ht => ht.convert)

theorem State.Sound.execCvtb {i : Iss} {r : Reg} (h : s.Sound) : AllNext State.Sound (execCvtb i r s) :=
  h.issue (fun _ ht => ht.convert)

theorem State.Sound.execCvtl {i : Iss} {r : Reg} (h : s.Sound) : AllNext State.Sound (execCvtl i r s) :=
  h.issue (fun _ ht => ht.convert)

theorem State.Sound.execNop {i : Iss} (h : s.Sound) : AllNext State.Sound (execNop i s) :=
  h.issue (fun _ ht => .ok ht)

theorem State.Sound.execClr {i : Iss} {r : Reg} (h : s.Sound) : AllNext State.Sound (execClr i r s) :=
  h.issue (fun _ ht => .ok ht.setW)

theorem State.Sound.execRdtime {i : Iss} {r : Reg} (h : s.Sound) : AllNext State.Sound (execRdtime i r s) :=
  h.issue (fun _ ht => .ok ht.setW)

theorem State.Sound.execTest {i : Iss} {r : Reg} (h : s.Sound) : AllNext State.Sound (execTest i r s) :=
  h.issue (fun _ ht => ht.alu1)

theorem State.Sound.execNot {i : Iss} {r : Reg} (h : s.Sound) : AllNext State.Sound (execNot i r s) :=
  h.issue (fun _ ht => ht.alu1)

theorem State.Sound.execNeg {i : Iss} {r : Reg} (h : s.Sound) : AllNext State.Sound (execNeg i r s) :=
  h.issue (fun _ ht => ht.alu1)

theorem State.Sound.execClz {i : Iss} {r : Reg} (h : s.Sound) : AllNext State.Sound (execClz i r s) :=
  h.issue (fun _ ht => ht.alu1)

theorem State.Sound.execPopc {i : Iss} {r : Reg} (h : s.Sound) : AllNext State.Sound (execPopc i r s) :=
  h.issue (fun _ ht => ht.alu1)

theorem State.Sound.execBswp {i : Iss} {r : Reg} (h : s.Sound) : AllNext State.Sound (execBswp i r s) :=
  h.issue (fun _ ht => ht.alu1)

theorem State.Sound.execTagof {i : Iss} {r : Reg} (h : s.Sound) : AllNext State.Sound (execTagof i r s) :=
  h.issue (fun _ ht => .need (.ok ht.setW))

theorem State.Sound.execSetc {i : Iss} {r : Reg} {cond : Fin 15} (h : s.Sound) : AllNext State.Sound (execSetc i r cond s) :=
  h.issue (fun _ ht => .ok ht.setW)

theorem State.Sound.repeatBody {c : CellId} {ext count : Nat} (h : s.Sound) : (repeatBody c ext s count).Sound :=
  .ite (.ok h.modCell) (.ok h.modCell)

theorem State.Sound.pairBody {c : CellId} {k : Nat → State → Body} (hk : ∀ x, ∀ t, t.Sound → (k x t).Sound) (h : s.Sound) :
    (pairBody c k s).Sound := by
  unfold Machine.pairBody
  split
  · next e => exact .ite (.refused (h.pairWords.of_eq e)) .trap
  · split
    · exact .trap
    · exact hk _ _ h

theorem State.Sound.execRep {i : Iss} {n : BitVec 6} (h : s.Sound) : AllNext State.Sound (execRep i n s) :=
  h.issue (fun _ ht => State.Sound.pairBody (fun _ _ ht2 => ht2.repeatBody) ht)

theorem State.Sound.execRepi {i : Iss} {r : Reg} (h : s.Sound) : AllNext State.Sound (execRepi i r s) :=
  h.issue (fun _ ht => State.Sound.pairBody (fun _ _ ht2 => .ite ht2.repeatBody (.need (.ite .trap ht2.repeatBody))) ht)

theorem State.Sound.execUnassignedEncoding {i : Iss} {w : BitVec 14} (h : s.Sound) :
    AllNext State.Sound (execUnassignedEncoding i w s) :=
  .ite (h.issue (fun _ ht => .ok ht)) (.next h)

/-! ### Dram -/

theorem State.Sound.dramRead {n : Nat} (h : s.Sound) : (s.dramRead n).2.Sound := by
  unfold State.dramRead
  extract_lets _ s1 _ _ _ _ _ _ _ s2
  have h1 : s1.Sound := h.count64
  have h2 : s2.Sound := .ite h1 h1.count.logCorrection
  exact .iteSnd (.snd h1) (.snd (.ite h2.count.raise.blockError h2))

theorem State.Sound.dramWrite {n : Nat} {l : Line} {pois : Bool} (h : s.Sound) : (s.dramWrite n l pois).Sound :=
  h.rest.count64

theorem State.Sound.awaitFill {a len : Nat} (h : s.Sound) : (s.awaitFill a len).Sound := h.rest

theorem State.Sound.readGrid {page array base : Nat} {data : Line} {fix loss : State → State} (h : s.Sound) (hfix : ∀ t, t.Sound → (fix
    t).Sound) (hloss : ∀ t, t.Sound → (loss t).Sound) : (s.readGrid page array base data fix loss).2.2.Sound := by
  unfold State.readGrid
  refine .foldlSnd2 (.snd2 h) (fun _ ht _ => ?_)
  split
  · extract_lets
    refine .iteSnd2 (.snd2 ht) ?_
    split
    · next e2 =>
        have h1 := ht.readProt.ofSnd e2
        exact .snd2 (.ite (hfix _ h1) h1)
    · next e2 => exact .snd2 (hloss _ (ht.readProt.ofSnd e2))

theorem State.Sound.dirtyLost {l : CLine} (h : s.Sound) : (s.dirtyLost l).Sound := h.raise.blockError

theorem State.Sound.readLoose {l : CLine} (h : s.Sound) : (s.readLoose l).2.2.Sound := by
  unfold State.readLoose
  split
  · next e =>
      have h1 := State.Sound.snd2Of e (h.readGrid (fun _ ht => ht) (fun _ ht => ht))
      exact .snd2 (.ite h1.dirtyLost h1)

theorem State.Sound.looseSlot {lo n : Nat} {l : List CLine} (h : s.Sound) : (s.looseSlot lo n l).2.Sound :=
  .snd h.clearProt

theorem State.Sound.modDramCh {ch : Nat} {f : DramCh → DramCh} (h : s.Sound) : (s.modDramCh ch f).Sound :=
  .setReg (.withDram h length_at' rfl)

theorem State.Sound.enqueue {r : LineReq} (h : s.Sound) : AllSome State.Sound (s.enqueue r) :=
  .ite .none (.some h.modDramCh)

theorem State.Sound.activate {ch : Nat} {r : LineReq} (h : s.Sound) : (s.activate ch r).Sound := by
  unfold State.activate
  refine .ite h ?_
  split
  · next e =>
      extract_lets s1
      have h1 : s1.Sound := (h.free.ofSnd e).modDramCh
      exact .ite h1.count h1

theorem State.Sound.deliverLine {req n : Nat} {l : Line × Bool} (h : s.Sound) : (s.deliverLine req n l).Sound :=
  h.withDram rfl (List.length_map ..)

theorem State.Sound.syncFcv (h : s.Sound) : s.syncFcv.Sound := h.setReg

theorem State.Sound.execDramRequestIssue {ch : Nat} {upset : List (Nat × BitVec 266)} (h : s.Sound) :
    AllNext State.Sound (execDramRequestIssue ch upset s) := by
  unfold Machine.execDramRequestIssue
  refine .ite (.next h) ?_
  split
  · exact .next h
  · extract_lets s1 s2 s3 turn k s4 page
    have h1 : s1.Sound := .ite h.count h
    have h3 : s3.Sound := h1.activate.modDramCh
    have h4 : s4.Sound := h3.rest
    clear_value s4 s3
    split
    · split
      · next e =>
          refine .next (.syncFcv (.dramWrite (.rest (State.Sound.snd2Of e ?_))))
          split
          · apply State.Sound.readLoose
            exact h3
          · exact .snd2 h3
    · split
      · next e =>
          have h5 := h4.dramRead.ofSnd e
          split
          · next t e =>
              have h6 : t.Sound := State.Sound.sndOf e (.iteSnd (.snd h5.disarm.count.raise.blockError) (.snd h5))
              exact .next h6.deliverLine

theorem State.Sound.execPerBankRefresh {ch : Nat} (h : s.Sound) : AllNext State.Sound (execPerBankRefresh ch s) :=
  .ite (.next h) (.ite (.next h.modDramCh) (.ite (.next h) (.next h.modDramCh)))

theorem State.Sound.stageCodes {b : Nat} (h : s.Sound) : (s.stageCodes b).Sound :=
  .setReg (h.foldl (fun _ ht _ => ht.modDramCh))

theorem State.Sound.execDramTempSample {t : ℤ} (h : s.Sound) : AllNext State.Sound (execDramTempSample t s) := by
  unfold Machine.execDramTempSample
  extract_lets _ _ _ _ _ _ s1 _ s2
  have h1 : s1.Sound := .ite h.setReg h.setReg.raise.stageCodes
  clear_value s1
  have h2 : s2.Sound := h1.setReg.syncTemp.raise.count
  clear_value s2
  exact .ite (.next h) (.ite (.next h1) (.next h2.rest))

theorem State.Sound.armCond {m : Master} {v : Word} (h : s.Sound) : AllSome State.Sound (armCond m v s) :=
  .ite (.some h.refuse) .none

theorem State.Sound.rtEffect {v : Word} (h : s.Sound) : (rtEffect v s).Sound := by
  unfold Machine.rtEffect
  extract_lets s1
  have h1 : s1.Sound := .ite h.setReg h
  exact .ite h1.setReg h1

theorem State.Sound.execArm {m : Master} {v : Word} (h : s.Sound) : AllNext State.Sound (execArm m v s) :=
  .next (h.write (fun _ ht => ht.armCond) (fun _ _ ht => ht.rtEffect))

theorem State.Sound.execCancel {m : Master} {v : Word} (h : s.Sound) : AllNext State.Sound (execCancel m v s) :=
  .next (h.write (fun _ ht => ht.armCond) (fun _ _ ht => ht.rtEffect))

theorem State.Sound.execRetuneBlackout (h : s.Sound) : AllNext State.Sound (execRetuneBlackout s) := by
  unfold Machine.execRetuneBlackout
  refine .ite (.next (.ite h.setReg h)) ?_
  extract_lets s1 _ _ _ _ _ s2
  have h1 : s1.Sound := h.foldl (fun _ ht _ => .ite ht.modDramCh ht.modDramCh.count)
  clear_value s1
  have h2 : s2.Sound := h1.setReg.setReg
  exact .next (.count (.count (.raise (.ite h2.rest.syncTemp h2.rest))))

theorem State.Sound.drcCtrlCond {m : Master} {v : Word} (h : s.Sound) : AllSome State.Sound (drcCtrlCond m v s) :=
  .ite (.some h.refuse) .none

theorem State.Sound.dlyCond {m : Master} {ch : Nat} {v : Word} (h : s.Sound) : AllSome State.Sound (dlyCond m ch v s) :=
  .ite (.some h.refuse) .none

theorem State.Sound.dlyWrite {ch : Nat} {v : Word} (h : s.Sound) : (dlyWrite ch v s).Sound := by
  unfold Machine.dlyWrite
  split
  · exact h
  · exact h.modDramCh

theorem State.Sound.fillRegion (h : s.Sound) : s.fillRegion.Sound := .ite h h.rest.setReg.rest.setReg

theorem State.Sound.mpClear {page : Nat} {v : Word} (h : s.Sound) : (mpClear page v s).Sound :=
  .ite (.setReg (h.foldl (fun _ ht _ => ht.setReg))) h

theorem State.Sound.execMpClear {m : Master} {page : Nat} {v : Word} (h : s.Sound) : AllNext State.Sound (execMpClear m page v s) :=
  .next (h.write (fun _ _ => .none) (fun _ _ ht => ht.mpClear))

theorem State.Sound.mpCorrWrite {page : Nat} {v : Word} (h : s.Sound) : (mpCorrWrite page v s).Sound :=
  .ite h.setReg.setReg h

/-! ### Cache -/

theorem State.Sound.modSlice {k : Nat} {f : Slice4 → Slice4} (h : s.Sound) : (s.modSlice k f).Sound :=
  h.withDram rfl length_at'

theorem State.Sound.syncWays {k : Nat} (h : s.Sound) : (s.syncWays k).Sound := h.setReg.setReg

theorem State.Sound.logWays {k : Nat} (h : s.Sound) : (s.logWays k).Sound := .ite h h.rest

theorem State.Sound.putLine {k : Nat} {l : CLine} (h : s.Sound) : (s.putLine k l).Sound := h.modSlice

theorem State.Sound.dropLine {k n : Nat} (h : s.Sound) : (s.dropLine k n).Sound := h.modSlice

theorem State.Sound.wayCorrected {k w : Nat} (h : s.Sound) : (s.wayCorrected k w).Sound := by
  unfold State.wayCorrected
  extract_lets _ _ _ _ s1
  have h1 : s1.Sound := h.modSlice.count
  exact .ite (.ite h1.raise h1.setReg.modSlice.raise) h1

theorem State.Sound.readBlocks {k : Nat} {l : CLine} (h : s.Sound) : (s.readBlocks k l).2.2.Sound := by
  unfold State.readBlocks
  exact h.readGrid (fun _ ht => ht.wayCorrected) (fun _ ht => ht.count)

theorem State.Sound.tagsGood {k : Nat} {l : CLine} (h : s.Sound) : (s.tagsGood k l).2.Sound := by
  unfold State.tagsGood
  extract_lets
  split
  · next e => exact .snd (h.readProt.ofSnd e)
  · next e =>
      split
      · next e2 => exact .snd ((h.readProt.ofSnd e).readProt.ofSnd e2)
      · next e2 => exact .snd ((h.readProt.ofSnd e).readProt.ofSnd e2).dropLine.raise.blockError.count

theorem State.Sound.writeBlocks {k set way off len : Nat} (h : s.Sound) : (s.writeBlocks k set way off len).Sound :=
  h.foldl (fun _ ht _ => .ite ht (.ite ht.freshProt ht.mergeProt))

theorem State.Sound.takeLine {k : Nat} {l : CLine} (h : s.Sound) : (s.takeLine k l).2.2.Sound := by
  unfold State.takeLine
  split
  · next e =>
      have h1 := h.readBlocks.ofSnd2 e
      exact .iteSnd2 (.snd2 h1.dirtyLost) (.snd2 h1)

theorem State.Sound.evict {l : CLine} {cls : Nat} (h : s.Sound) : (s.evict l cls).Sound := by
  unfold State.evict
  extract_lets
  split
  · exact h.looseSlot.rest.syncFcv
  · refine .ite ?_ h.rest.looseSlot.rest.syncFcv
    split
    · next e =>
        split
        · next e2 =>
            have h1 := (h.rest.readLoose.ofSnd2 e).looseSlot.ofSnd e2
            exact .syncFcv (.rest (.looseSlot (AllSome.getD h1.rest.enqueue h1.rest)))

theorem State.Sound.takeLoose {n : Nat} (h : s.Sound) : AllSome (fun x => x.2.2.Sound) (s.takeLoose n) := by
  unfold State.takeLoose
  split
  · exact .some (.snd2 h.rest.syncFcv)
  · split
    · exact .none
    · exact .some (.snd2 (.syncFcv (.ite h.rest h.rest.modDramCh)))

theorem State.Sound.recall {n : Nat} (h : s.Sound) : (s.recall n).2.Sound := by
  unfold State.recall
  split
  · exact .snd h
  · next e =>
      split
      · next e2 => exact .snd ((h.takeLoose.of_eq e).readLoose.ofSnd2 e2)

theorem State.Sound.allocate {k id n cls : Nat} {data : Line} {dirty pois : Bool} (h : s.Sound) :
    AllSome State.Sound (s.allocate k id n cls data dirty pois) := by
  unfold State.allocate
  extract_lets set ways inSet put
  have hput (t : State) (ht : t.Sound) (w : Nat) : (put t w).Sound := by
    unfold put
    extract_lets s1 s2
    have h1 : s1.Sound := ht.foldl (fun _ ht _ => ht.freshProt)
    clear_value s1
    exact h1.freshProt.freshProt.putLine.rest
  clear_value put inSet
  split
  · exact .some (hput s h _)
  · split
    · exact .none
    · refine .ite .none ?_
      extract_lets o
      split
      · next e => exact .some (hput _ (h.takeLine.ofSnd2 e).dropLine.evict _)

theorem State.Sound.serveData {k id : Nat} {a : Access} {data : Line} {pois : Bool} (h : s.Sound) :
    (s.serveData k id a data pois).2.2.2.Sound := by
  unfold State.serveData
  split
  · exact .snd3 h
  · exact .snd3 h.deliver

/-- Both states that an access which hits may leave have the form. -/
theorem State.Sound.serveHit {k id : Nat} {a : Access} {l : CLine} (h : s.Sound) :
    AllSome State.Sound (s.serveHit k id a l).1 ∧ (s.serveHit k id a l).2.Sound := by
  unfold State.serveHit
  split
  · next e => exact ⟨.none, h.tagsGood.ofSnd e⟩
  · next e =>
      have h1 := h.tagsGood.ofSnd e
      split
      · exact ⟨.some h1.writeBlocks.putLine.rest, h1.writeBlocks⟩
      · split
        · next e =>
            have h2 := h1.readBlocks.ofSnd2 e
            split
            · exact ⟨.none, h2.dropLine⟩
            · extract_lets _ s3 _ s4
              have h3 : s3.Sound := .ite h2.disarm h2
              have h4 : s4.Sound := .ite h3.dirtyLost h3
              clear_value s4
              split
              · next e =>
                  have h5 := h4.serveData.ofSnd3 e
                  exact ⟨.some h5.putLine.rest, h5⟩

theorem State.Sound.access {id : Nat} {a : Access} (h : s.Sound) : AllSome State.Sound (s.access id a) := by
  unfold State.access
  extract_lets k page covered port stopped miss
  have hmiss (t : State) (ht : t.Sound) : AllSome State.Sound (miss t) := by
    unfold miss
    extract_lets s1
    have h1 : s1.Sound := ht.count64
    clear_value s1 port
    split
    · exact .ite (.some ht.modSlice) (.some h1.modSlice.count)
    · split
      · next e =>
          extract_lets s2
          have h2 : s2.Sound := (h1.recall.ofSnd e).count.count
          clear_value s2
          split
          · next e =>
              have h3 := h2.serveData.ofSnd3 e
              exact .ite (.ite (.some h3.evict) (.some h3)) h3.allocate
      · next e =>
          have h2 := h1.recall.ofSnd e
          split
          · exact .ite h2.enqueue h2.allocate
          · exact .map h2.enqueue (fun _ ht => ht.modSlice)
  clear_value miss
  refine .ite .none ?_
  split
  · split
    · next e => exact .some (h.serveHit.1 _ (congrArg Prod.fst e)).count64
    · next e => exact hmiss _ (h.serveHit.2.ofSnd e)
  · exact hmiss s h

theorem State.Sound.execCacheAccess {id addr len cls : Nat} {write : Option (List Byte)} (h : s.Sound) :
    AllNext State.Sound (execCacheAccess id addr len cls write s) :=
  .ite (.next h) (.ite (.next h.awaitFill) (.next (AllSome.getD h.access h)))

theorem State.Sound.serveJoined {k id : Nat} {l : List Access} {x : Line} {x' x'' : Bool} (h : s.Sound) :
    (s.serveJoined k id l x x' x'').2.2.2.Sound := by
  induction l generalizing s x x' x'' with
  | nil => exact .snd3 h
  | cons x l ih =>
    unfold State.serveJoined
    split
    · next e => exact ih (h.serveData.ofSnd3 e)

theorem State.Sound.execCacheFill {slice id : Nat} (h : s.Sound) : AllNext State.Sound (execCacheFill slice id s) := by
  unfold Machine.execCacheFill
  split
  · exact .next h
  · split
    · exact .next h
    · split
      · next e =>
          have h1 := h.serveJoined.ofSnd3 e
          extract_lets placed
          have hp : AllSome State.Sound placed := .ite h1.allocate (.ite h1.enqueue (.some h1))
          clear_value placed
          split
          · exact .next h
          · next s2 =>
              have h2 : s2.Sound := hp _ rfl
              split
              · exact .next h2.modSlice
              · exact .next (AllSome.getD h2.modSlice.access h2.modSlice)

theorem State.Sound.writeBack {k : Nat} {l : List CLine} (h : s.Sound) : (s.writeBack k l).Sound := by
  induction l generalizing s with
  | nil => exact h
  | cons x l ih =>
    unfold State.writeBack
    refine .ite ?_ (ih h)
    split
    · next e => exact ih (h.takeLine.ofSnd2 e).dramWrite

theorem State.Sound.flushWay {k w : Nat} (h : s.Sound) : (s.flushWay k w).Sound := h.writeBack.modSlice

theorem State.Sound.execWayDisable {slice way : Nat} (h : s.Sound) : AllNext State.Sound (execWayDisable slice way s) := by
  unfold Machine.execWayDisable
  split
  · exact .next h
  · exact .ite (.next h) (.next h.flushWay.setReg.modSlice.syncWays.logWays.raise)

theorem State.Sound.wdisCond {m : Master} {k : Nat} {v : Word} (h : s.Sound) : AllSome State.Sound (wdisCond m k v s) :=
  .ite (.some h.refuse.raise) .none

theorem State.Sound.wdisEffect {k : Nat} {v : Word} (h : s.Sound) : (wdisEffect k v s).Sound :=
  .logWays (.syncWays (.setReg (h.foldl (fun _ ht _ => .ite ht.flushWay.modSlice.setReg ht))))

theorem State.Sound.execFchWdis {m : Master} {slice : Nat} {v : Word} (h : s.Sound) : AllNext State.Sound (execFchWdis m slice v s) :=
  .next (h.write (fun _ ht => ht.wdisCond) (fun _ _ ht => ht.wdisEffect))

theorem State.Sound.mopCond {m : Master} {v : Word} (h : s.Sound) : AllSome State.Sound (mopCond m v s) :=
  .ite (.some h.refuse) (.ite (.some h.refuse) .none)

theorem State.Sound.mopEffect {v : Word} (h : s.Sound) : (mopEffect v s).Sound := by
  unfold Machine.mopEffect
  extract_lets _ _ _ _ s1 s2
  have h1 : s1.Sound := h.rest.setReg
  have h2 : s2.Sound := h1.count
  exact .ite h2.count h2

theorem State.Sound.mopWrite {m : Master} {op : Nat} {v : Word} (h : s.Sound) : AllNext State.Sound (mopWrite m op v s) :=
  .next (h.write (fun _ ht => ht.mopCond) (fun _ _ ht => ht.mopEffect))

theorem State.Sound.execClean {m : Master} {v : Word} (h : s.Sound) : AllNext State.Sound (execClean m v s) :=
  h.mopWrite

theorem State.Sound.execInval {m : Master} {v : Word} (h : s.Sound) : AllNext State.Sound (execInval m v s) :=
  h.mopWrite

theorem State.Sound.execCleanInval {m : Master} {v : Word} (h : s.Sound) : AllNext State.Sound (execCleanInval m v s) :=
  h.mopWrite

theorem State.Sound.execCleanAll {m : Master} {v : Word} (h : s.Sound) : AllNext State.Sound (execCleanAll m v s) :=
  h.mopWrite

theorem State.Sound.execCleanInvalAll {m : Master} {v : Word} (h : s.Sound) : AllNext State.Sound (execCleanInvalAll m v s) :=
  h.mopWrite

theorem State.Sound.wopCond {m : Master} {k : Nat} {v : Word} (h : s.Sound) : AllSome State.Sound (wopCond m k v s) :=
  .ite (.some h.refuse) .none

theorem State.Sound.wopEffect {k : Nat} {v : Word} (h : s.Sound) : (wopEffect k v s).Sound :=
  h.modSlice.setReg

theorem State.Sound.wopWrite {m : Master} {op k : Nat} {v : Word} (h : s.Sound) : AllNext State.Sound (wopWrite m op k v s) :=
  .next (h.write (fun _ ht => ht.wopCond) (fun _ _ ht => ht.wopEffect))

theorem State.Sound.execCleanWay {m : Master} {slice : Nat} {v : Word} (h : s.Sound) : AllNext State.Sound (execCleanWay m slice v s) :=
  h.wopWrite

theorem State.Sound.execCleanInvalWay {m : Master} {slice : Nat} {v : Word} (h : s.Sound) :
    AllNext State.Sound (execCleanInvalWay m slice v s) :=
  h.wopWrite

theorem State.Sound.cleanLoose {ls : List CLine} (h : s.Sound) : (s.cleanLoose ls).Sound := by
  unfold State.cleanLoose
  refine .foldl h (fun _ ht _ => ?_)
  refine .ite ?_ ht
  split
  · next e => exact (ht.readLoose.ofSnd2 e).dramWrite

theorem State.Sound.maintain {names : Nat → Bool} {clean drop : Bool} (h : s.Sound) : (s.maintain names clean drop).Sound := by
  unfold State.maintain
  extract_lets s1 s2 keep d s3 s4
  have h1 : s1.Sound := h.foldl fun _ ht _ => ht.writeBack
  have h2 : s2.Sound := .ite h1.cleanLoose.cleanLoose h
  clear_value s2
  have h3 : s3.Sound := h2.withDram rfl (List.length_map ..)
  have h4 : s4.Sound := h3.foldl fun _ ht _ => ht.modDramCh
  exact h4.syncFcv

theorem State.Sound.execMaintenanceDone {slice : Option Nat} (h : s.Sound) : AllNext State.Sound (execMaintenanceDone slice s) := by
  unfold Machine.execMaintenanceDone
  split
  · split
    · exact .next h
    · refine .ite (.next h) ?_
      extract_lets _ _ s1
      have h1 : s1.Sound := h.maintain
      exact .next h1.rest.setReg.raise
  · split
    · exact .next h
    · exact .ite (.next h) (.next h.writeBack.modSlice.setReg)

theorem State.Sound.fchCtrlCond {m : Master} {k : Nat} {v : Word} (h : s.Sound) : AllSome State.Sound (fchCtrlCond m k v s) :=
  .ite (.some h.refuse) .none

theorem State.Sound.wmaskCond {m : Master} {k : Nat} {v : Word} (h : s.Sound) : AllSome State.Sound (wmaskCond m k v s) :=
  .ite (.some h.refuseRsvd) .none

theorem State.Sound.wmaskEffect {k : Nat} {v : Word} (h : s.Sound) : (wmaskEffect k v s).Sound :=
  h.modSlice.syncWays

theorem State.Sound.peekLine {n : Nat} (h : s.Sound) : (s.peekLine n).2.Sound := by
  unfold State.peekLine
  extract_lets
  split
  · split
    · next e => exact .snd (h.takeLine.ofSnd2 e)
  · split
    · split
      · next e =>
          have h1 := h.readLoose.ofSnd2 e
          exact .iteSnd h1.dramRead (.snd h1)
    · split
      · exact .snd h
      · exact h.dramRead

theorem State.Sound.peek {addr len : Nat} (h : s.Sound) : (s.peek addr len).2.Sound := by
  unfold State.peek
  refine .iteSnd (.snd h) ?_
  extract_lets first lines r
  have hr : r.2.2.Sound := by
    refine .foldlSnd2 (.snd2 h) fun t ht n => ?_
    rcases e : t.2.2.peekLine n with ⟨⟨l, p⟩, u⟩
    exact .snd2 (ht.peekLine.ofSnd e)
  exact .snd hr

theorem State.Sound.pokeLine {n off : Nat} {bs : List Byte} (h : s.Sound) : (s.pokeLine n off bs).Sound := by
  unfold State.pokeLine
  extract_lets
  split
  · exact h.writeBlocks.putLine
  · split
    · next e =>
        have h1 := h.peekLine.ofSnd e
        extract_lets s2
        have h2 : s2.Sound := by
          dsimp only [s2]
          split
          · next e2 => exact h1.takeLoose.of_eq e2
          · exact h1
        exact h2.modDramCh.dramWrite

theorem State.Sound.poke {addr : Nat} {bs : List Byte} (h : s.Sound) : (s.poke addr bs).Sound :=
  .ite h (h.foldl (fun _ ht _ => ht.pokeLine))

/-! ### Streams -/

theorem State.Sound.routeDrop (h : s.Sound) : s.routeDrop.Sound := h.count.raise

theorem State.Sound.onMesh {f : Flit} {go : State → State} (h : s.Sound) (hgo : ∀ t, t.Sound → (go t).Sound) : (s.onMesh f go).Sound :=
  .ite h (.ite (hgo _ h) h.routeDrop)

theorem State.Sound.modSu {c : CellId} {unit : Nat} {f : SuSlot → SuSlot} (h : s.Sound) : (s.modSu c unit f).Sound :=
  h.modCell

theorem State.Sound.modSb {c : CellId} {unit : Nat} {f : SMap Byte → SMap Byte} (h : s.Sound) : (s.modSb c unit f).Sound :=
  h.modCell

theorem State.Sound.readSb {c : CellId} {unit off n : Nat} (h : s.Sound) : (s.readSb c unit off n).2.Sound := by
  unfold State.readSb
  refine .foldlSnd (.snd h) (fun _ ht _ => ?_)
  extract_lets
  split
  · next e => exact .snd (ht.readProt.ofSnd e)
  · next e => exact .snd (ht.readProt.ofSnd e)

theorem State.Sound.writeSb {c : CellId} {unit off : Nat} {bs : List Byte} (h : s.Sound) : (s.writeSb c unit off bs).Sound :=
  .modSb (h.foldl (fun _ ht _ => .ite ht.freshProt ht.mergeProt))

theorem State.Sound.poisonSb {c : CellId} {unit off n : Nat} (h : s.Sound) : (s.poisonSb c unit off n).Sound :=
  h.rest

theorem State.Sound.fetchPieces {c : CellId} {unit n : Nat} (h : s.Sound) : (s.fetchPieces c unit n).Sound := by
  induction n generalizing s with
  | zero => exact h
  | succ n ih =>
    unfold State.fetchPieces
    extract_lets
    split
    · exact h
    · extract_lets
      refine .ite h (.ite h.awaitFill (.ite h.routeDrop ?_))
      split
      · next e =>
          extract_lets s1
          have h1 : s1.Sound := (h.peek.ofSnd e).writeSb
          exact ih (.modSu (.ite h1.poisonSb.blockError h1))

theorem State.Sound.fetchAhead {c : CellId} {unit : Nat} (h : s.Sound) : (s.fetchAhead c unit).Sound := by
  unfold State.fetchAhead
  extract_lets s1
  have h1 : s1.Sound := h.fetchPieces
  split
  · exact h1
  · exact h1.modSu

theorem State.Sound.sendCredit {c : CellId} {unit : Nat} (h : s.Sound) : (s.sendCredit c unit).Sound :=
  .ite (h.onMesh (fun _ ht => ht.emit)) h

theorem State.Sound.releaseIn {c : CellId} {unit n : Nat} (h : s.Sound) : (s.releaseIn c unit n).Sound :=
  h.modSu.fetchAhead.sendCredit

theorem State.Sound.publish {c : CellId} {unit n : Nat} (h : s.Sound) : (s.publish c unit n).Sound := h.modSu

/-! ### Engines -/

theorem State.Sound.endJob {c : CellId} {p page status : Nat} (h : s.Sound) : (s.endJob c p page status).Sound :=
  h.deliver

theorem State.Sound.writeBackWords {c : CellId} {j : Job} {k : Nat} {ws : List TWord} (h : s.Sound) :
    (s.writeBackWords c j k ws).Sound :=
  h.foldl (fun _ ht _ => ht.writeDm)

/-! ### CellMem -/

theorem State.Sound.loadInto {c : CellId} {rd : Reg} {a opnd : Nat} {k : State → Body} (h : s.Sound) (hk : ∀ t, t.Sound → (k t).Sound) :
    (loadInto c rd s a opnd k).Sound := by
  unfold Machine.loadInto
  split
  · next e => exact hk _ (h.decodeDm.ofSnd e).setW
  · next e => exact .ite .trap (.ite .trap (hk _ (h.decodeDm.ofSnd e).setW))

theorem State.Sound.storeFrom {c : CellId} {w : TWord} {ok : Bool} {det a : Nat} (h : s.Sound) : (storeFrom c w ok det a s).Sound :=
  .need (.ite .trap (.ite .trap (.ok h.writeDm)))

theorem State.Sound.execLd {i : Iss} {rd : Reg} {im : BitVec 5} (h : s.Sound) : AllNext State.Sound (execLd i rd im s) :=
  h.issue (fun _ ht => .ite .trap (ht.loadInto (fun _ ht2 => .ok ht2)))

theorem State.Sound.execSt {i : Iss} {rs : Reg} {im : BitVec 5} (h : s.Sound) : AllNext State.Sound (execSt i rs im s) :=
  h.issue (fun _ ht => ht.storeFrom)

theorem State.Sound.execLdx {i : Iss} {rd rp : Reg} {hi : Bool} (h : s.Sound) : AllNext State.Sound (execLdx i rd rp hi s) := by
  unfold Machine.execLdx
  refine State.Sound.issue h (fun _ ht => ?_)
  extract_lets
  refine .need2 ?_
  split
  · exact .trap
  · exact ht.loadInto (fun _ ht2 => .ok ht2)

theorem State.Sound.execStx {i : Iss} {rs rp : Reg} {hi : Bool} (h : s.Sound) : AllNext State.Sound (execStx i rs rp hi s) := by
  unfold Machine.execStx
  refine State.Sound.issue h (fun _ ht => ?_)
  extract_lets
  refine .ite .trap (.ite .trap (.ite .trap (.ite .trap (.ite .trap ?_))))
  split
  · exact .trap
  · exact ht.storeFrom

theorem State.Sound.push {c : CellId} {a : Nat} {w : TWord} (h : s.Sound) : (s.push c a w).Sound :=
  h.writeDm.modCell

theorem State.Sound.execPush {i : Iss} {r : Reg} (h : s.Sound) : AllNext State.Sound (execPush i r s) := by
  unfold Machine.execPush
  refine State.Sound.issue h (fun _ ht => ?_)
  extract_lets
  refine .need ?_
  split
  · exact .trap
  · exact .ite .trap (.ok ht.push)

theorem State.Sound.popped {c : CellId} (h : s.Sound) : (s.popped c).Sound := h.modCell

theorem State.Sound.execPop {i : Iss} {r : Reg} (h : s.Sound) : AllNext State.Sound (execPop i r s) :=
  h.issue (fun _ ht => .ite .trap (ht.loadInto (fun _ ht2 => .ok ht2.popped)))

theorem State.Sound.execRet {i : Iss} (h : s.Sound) : AllNext State.Sound (execRet i s) :=
  h.issue (fun _ ht => .ite .trap (.ite .trap (.ite (.ok ht.readDm.popped) .trap)))

theorem State.Sound.callBody {i : Iss} {target : BitVec 14} (h : s.Sound) : (callBody i target s).Sound := by
  unfold Machine.callBody
  extract_lets
  split
  · exact .trap
  · exact .ok h.push

theorem State.Sound.execSld {i : Iss} {size : Fin 3} {rd : Reg} {wh : Fin 4} {hi : Bool} (h : s.Sound) :
    AllNext State.Sound (execSld i size rd wh hi s) := by
  unfold Machine.execSld
  refine State.Sound.issue h (fun _ ht => ?_)
  extract_lets
  refine .need2 (.ite .trap (.ite .trap (.ite (.stall ht) ?_)))
  split
  · next e => exact .ok (ht.readSb.ofSnd e).setW
  · next e => exact .ok (ht.readSb.ofSnd e).setW

theorem State.Sound.execSst {i : Iss} {size : Fin 3} {rs : Reg} {wh : Fin 4} {hi : Bool} (h : s.Sound) :
    AllNext State.Sound (execSst i size rs wh hi s) :=
  h.issue (fun _ ht => .ite .trap (.ite .trap (.ite .trap (.ite .trap (.ite .trap (.ite .trap (.ite .trap (.ite .trap (.ite (.stall ht)
      (.ok ht.writeSb))))))))))

theorem State.Sound.execSavl {i : Iss} {rd rs : Reg} (h : s.Sound) : AllNext State.Sound (execSavl i rd rs s) :=
  h.issue (fun _ ht => .need (.ite .trap (.ok ht.setW)))

theorem State.Sound.execSrel {i : Iss} {wh rs : Reg} (h : s.Sound) : AllNext State.Sound (execSrel i wh rs s) :=
  h.issue (fun _ ht => .need2 (.ite .trap (.ite .trap (.ite .trap (.ite (.stall ht) (.ok ht.releaseIn))))))

theorem State.Sound.execSpub {i : Iss} {wh rs : Reg} (h : s.Sound) : AllNext State.Sound (execSpub i wh rs s) :=
  h.issue (fun _ ht => .need2 (.ite .trap (.ite .trap (.ite .trap (.ok ht.publish)))))

theorem State.Sound.execGetp {i : Iss} {r : Reg} (h : s.Sound) : AllNext State.Sound (execGetp i r s) :=
  h.issue (fun _ ht => .need (.ite .trap (.ite .trap (.ok ht.setW))))

theorem State.Sound.readWords {c : CellId} {base n : Nat} (h : s.Sound) : (s.readWords c base n).2.Sound := by
  induction n with
  | zero => exact .snd h
  | succ n ih => exact .snd ih.readDm

theorem State.Sound.execJob {i : Iss} {wh rp : Reg} {waited : Nat} (h : s.Sound) : AllNext State.Sound (execJob i wh rp waited s) := by
  unfold Machine.execJob
  refine State.Sound.issue h (fun _ ht => ?_)
  extract_lets
  split
  · next e =>
      have h1 := State.Sound.sndOf e (.iteSnd ht.readWords (.snd ht))
      extract_lets
      refine .ite .trap ?_
      refine .ite .trap (.ite .trap (.ite .trap (.ite .trap (.ite .trap (.ite .trap (.ite (.stall ht) ?_))))))
      split
      · exact .trap
      · exact .ok (.modCell (.ite h1 h1.routeDrop))

theorem State.Sound.execJwait {i : Iss} {rd wh : Reg} {waited : Nat} (h : s.Sound) : AllNext State.Sound (execJwait i rd wh waited s) := by
  unfold Machine.execJwait
  refine State.Sound.issue h (fun _ ht => ?_)
  extract_lets
  refine .need (.ite .trap ?_)
  split
  · exact .ok ht.setW
  · split
    · exact .stall ht
    · exact .ite .trap (.ok ht.setW.modCell)

/-! ### CellCtl -/

theorem State.Sound.execB {i : Iss} {cond : Fin 15} {off : BitVec 6} (h : s.Sound) : AllNext State.Sound (execB i cond off s) :=
  h.issue (fun _ ht => .ite (.ok ht) (.ok ht))

theorem State.Sound.execJmp {i : Iss} {target : BitVec 9} (h : s.Sound) : AllNext State.Sound (execJmp i target s) :=
  h.issue (fun _ ht => .ok ht)

theorem State.Sound.execCall {i : Iss} {target : BitVec 9} (h : s.Sound) : AllNext State.Sound (execCall i target s) :=
  h.issue (fun _ ht => ht.callBody)

theorem Body.Sound.targetReg {c : CellId} {r : Reg} {k : BitVec 14 → Body} (hk : ∀ x, (k x).Sound) : (targetReg c r s k).Sound :=
  .need (.ite .trap (hk _))

theorem State.Sound.execJr {i : Iss} {r : Reg} (h : s.Sound) : AllNext State.Sound (execJr i r s) :=
  h.issue (fun _ ht => .targetReg (fun _ => .ok ht))

theorem State.Sound.execCallr {i : Iss} {r : Reg} (h : s.Sound) : AllNext State.Sound (execCallr i r s) :=
  h.issue (fun _ ht => .targetReg (fun _ => ht.callBody))

theorem State.Sound.execRett {i : Iss} (h : s.Sound) : AllNext State.Sound (execRett i s) :=
  h.issue (fun _ ht => .ite .trap (.ok ht.modCell))

theorem State.Sound.execEndp {i : Iss} (h : s.Sound) : AllNext State.Sound (execEndp i s) :=
  h.issue (fun _ _ => .trap)

theorem State.Sound.execSwi {i : Iss} {n : BitVec 4} (h : s.Sound) : AllNext State.Sound (execSwi i n s) :=
  h.issue (fun _ _ => .trap)

theorem State.Sound.execIdle {i : Iss} (h : s.Sound) : AllNext State.Sound (execIdle i s) :=
  h.issue (fun _ ht => .ite .trap (.ok ht.modCell))

theorem State.Sound.execInterruptInput {c : CellId} (h : s.Sound) : AllNext State.Sound (execInterruptInput c s) :=
  .ite (.next h) (.next h.trap)

theorem State.Sound.execBudgetExhausted {c : CellId} (h : s.Sound) : AllNext State.Sound (execBudgetExhausted c s) :=
  .ite (.next h) (.next (.trap (.modCell (.ite h.disarm h))))

theorem State.Sound.execProductLands {c : CellId} (h : s.Sound) : AllNext State.Sound (execProductLands c s) := by
  unfold Machine.execProductLands
  split
  · exact .next h
  · exact .ite (.next h.modCell) (.next h)

theorem State.Sound.endStall {c : CellId} {cycles : Nat} (h : s.Sound) : (s.endStall c cycles).Sound := by
  unfold State.endStall
  extract_lets
  split
  · exact h.count
  · exact h.count
  · exact .ite h.modCell h
  · exact h
  · exact h

theorem State.Sound.execHoldReached {c : HoldAt} (h : s.Sound) : AllNext State.Sound (execHoldReached c s) :=
  .ite (.next h) (.next h.endStall.dropLoad.modCell.raise)

theorem State.Sound.releaseCore {c : CellId} (h : s.Sound) : (s.releaseCore c).Sound := h.modCell

theorem State.Sound.scrubCond {m : Master} {c : CellId} {v : Word} (h : s.Sound) : AllSome State.Sound (scrubCond m c v s) :=
  .ite (.some h.refuse) .none

theorem State.Sound.celCtrlEffect {c : CellId} {v : Word} (h : s.Sound) : (celCtrlEffect c v s).Sound := by
  unfold Machine.celCtrlEffect
  extract_lets s1
  have h1 : s1.Sound := .ite h.modCell h
  exact .ite h1.setReg.modCell (.ite h1.setReg.releaseCore h1.setReg.modCell)

theorem State.Sound.execCelHoldWrite {m : Master} {c : CellId} {v : Word} (h : s.Sound) :
    AllNext State.Sound (execCelHoldWrite m c v s) :=
  .next (h.write (fun _ ht => ht.scrubCond) (fun _ _ ht => ht.celCtrlEffect))

theorem State.Sound.execScrub {m : Master} {c : CellId} {v : Word} (h : s.Sound) : AllNext State.Sound (execScrub m c v s) :=
  .next (h.write (fun _ ht => ht.scrubCond) (fun _ _ ht => ht.celCtrlEffect))

theorem State.Sound.dropJobs {c : CellId} (h : s.Sound) : (s.dropJobs c).Sound :=
  h.withCrypto rfl (List.length_map ..) rfl (List.length_map ..)

theorem State.Sound.fillCell {c : CellId} (h : s.Sound) : (s.fillCell c).Sound :=
  h.rest.dropJobs.modCell.raise

theorem State.Sound.execFillComplete {c : CellId} (h : s.Sound) : AllNext State.Sound (execFillComplete c s) :=
  .ite (.next h) (.next h.fillCell)

theorem State.Sound.heldCond {m : Master} {c : CellId} {off : Nat} {v : Word} (h : s.Sound) :
    AllSome State.Sound (heldCond m c off v s) :=
  .ite (.some h.refuse) .none

theorem State.Sound.advance {key width : Nat} (h : s.Sound) : (s.advance key width).Sound := h.setReg

theorem State.Sound.writeIm {c : CellId} {a : Nat} {w : IWord} (h : s.Sound) : (s.writeIm c a w).Sound :=
  h.mergeProt.modCell

theorem State.Sound.imWrite {c : CellId} {v : Word} (h : s.Sound) : (imWrite c v s).Sound :=
  h.writeIm.advance

theorem State.Sound.imRead {c : CellId} (h : s.Sound) : (imRead c s).2.Sound := .snd h.fetchI.advance

theorem State.Sound.dmCond {m : Master} {c : CellId} {v : Word} (h : s.Sound) : AllSome State.Sound (dmCond m c v s) := by
  unfold Machine.dmCond
  split
  · next e => exact .some (h.heldCond.of_eq e)
  · exact .ite (.some h.refuseRsvd) .none

theorem State.Sound.dmWrite {c : CellId} {v : Word} (h : s.Sound) : (dmWrite c v s).Sound :=
  h.writeDm.advance

theorem State.Sound.dmRead {c : CellId} (h : s.Sound) : (dmRead c s).2.Sound := .snd h.readDm.setReg.advance

theorem State.Sound.rvalCond {m : Master} {c : CellId} {v : Word} (h : s.Sound) : AllSome State.Sound (rvalCond m c v s) := by
  unfold Machine.rvalCond
  extract_lets
  split
  · next e => exact .some (h.heldCond.of_eq e)
  · exact .ite (.some h.refuseRsvd) (.ite (.some h.refuse) .none)

theorem State.Sound.rvalWrite {c : CellId} {v : Word} (h : s.Sound) : (rvalWrite c v s).Sound :=
  .ite h.setW (.ite h.modCell h.modCell)

theorem State.Sound.rvalRead {c : CellId} (h : s.Sound) : (rvalRead c s).2.Sound := .snd h.setReg

theorem State.Sound.windowAccess {m : Master} {page off : Nat} {write : Option Word} {cond : Word → State → Option State} {wr : Word →
    State → State} {rd : State → Word × State} (hcond : ∀ x, ∀ t, t.Sound → AllSome State.Sound (cond x t)) (hwr : ∀ x, ∀ t, t.Sound → (wr
    x t).Sound) (hrd : ∀ t, t.Sound → (rd t).2.Sound) (h : s.Sound) :
    AllNext State.Sound (windowAccess m page off write cond wr rd s) := by
  unfold Machine.windowAccess
  split
  · exact .next (h.write (fun _ ht => hcond _ _ ht) (fun _ _ ht => hwr _ _ ht))
  · split
    · next e => exact .next (h.checkAccess.of_eq e).reply
    · exact .next (hrd _ h).answerRead

theorem State.Sound.execCelImdataAccess {m : Master} {c : CellId} {write : Option Word} (h : s.Sound) :
    AllNext State.Sound (execCelImdataAccess m c write s) :=
  State.Sound.windowAccess (fun _ _ ht => ht.heldCond) (fun _ _ ht => ht.imWrite) (fun _ ht => ht.imRead) h

theorem State.Sound.execCelDmdataAccess {m : Master} {c : CellId} {write : Option Word} (h : s.Sound) :
    AllNext State.Sound (execCelDmdataAccess m c write s) :=
  State.Sound.windowAccess (fun _ _ ht => ht.dmCond) (fun _ _ ht => ht.dmWrite) (fun _ ht => ht.dmRead) h

theorem State.Sound.execCelRvalAccess {m : Master} {c : CellId} {write : Option Word} (h : s.Sound) :
    AllNext State.Sound (execCelRvalAccess m c write s) :=
  State.Sound.windowAccess (fun _ _ ht => ht.rvalCond) (fun _ _ ht => ht.rvalWrite) (fun _ ht => ht.rvalRead) h

theorem State.Sound.dwinCond {m : Master} {c : CellId} {v : Word} (h : s.Sound) : AllSome State.Sound (dwinCond m c v s) :=
  .ite (.some h.refuseRsvd) .none

/-! ### Fabric -/

theorem State.Sound.flitError {c : CellId} {code : Nat} {f : Flit} (h : s.Sound) : (s.flitError c code f).Sound :=
  h.blockError

theorem State.Sound.landFlit {c : CellId} {f : Flit} (h : s.Sound) : (s.landFlit c f).Sound := by
  unfold State.landFlit
  extract_lets _ _ x1
  clear_value x1
  split
  · exact h.count
  · extract_lets _ _ s2
    have h2 : s2.Sound := h.writeSb
    exact .ite h.count (.ite h.flitError (.ite h.modSu.flitError (.ite h (.modSu (.ite h2.poisonSb h2)))))

theorem State.Sound.execStreamDataFlit {f : Flit} (h : s.Sound) : AllNext State.Sound (execStreamDataFlit f s) := by
  unfold Machine.execStreamDataFlit
  extract_lets
  refine .next (.onMesh h (fun _ ht => ?_))
  split
  · exact ht.landFlit
  · exact ht

theorem State.Sound.pokePoison {addr len : Nat} (h : s.Sound) : (s.pokePoison addr len).Sound := by
  unfold State.pokePoison
  refine .ite h (.foldl h (fun _ ht _ => ?_))
  extract_lets
  split
  · exact ht.putLine
  · split
    · next e => exact (ht.peekLine.ofSnd e).dramWrite

theorem State.Sound.putByte {e : ExecRec} {p : Nat} {b : Byte} {bad : Bool} (h : s.Sound) : (s.putByte e p b bad).Sound := by
  unfold State.putByte
  split
  · exact h
  · exact .ite h.rest (.ite h.poke.pokePoison h.poke)

theorem State.Sound.putBytes {e : ExecRec} {p : Nat} {bs : List Byte} {bad : Bool} (h : s.Sound) : (s.putBytes e p bs bad).Sound :=
  h.foldl (fun _ ht _ => ht.putByte)

theorem State.Sound.drainPiece {c : CellId} {u p n : Nat} {last : Bool} (h : s.Sound) : (s.drainPiece c u p n last).Sound := by
  unfold State.drainPiece
  extract_lets
  split
  · next e =>
      have h1 := h.readSb.ofSnd e
      extract_lets
      refine .ite h1.routeDrop (.ite ?_ (h1.onMesh (fun _ ht => ht.emit)))
      split
      · exact h1.putBytes
      · split
        · exact h1.poke
        · exact h1.poke.pokePoison

theorem State.Sound.drain {c : CellId} {u : Nat} {close : Bool} (h : s.Sound) : (s.drain c u close).Sound :=
  .ite (.modSu (h.foldl (fun _ ht _ => ht.drainPiece))) h

theorem State.Sound.modSuK {c : CellId} {j : Nat} {f : SuSlot → SuSlot} (h : s.Sound) : (s.modSuK c j f).Sound :=
  .ite h.modCell h.modSu

theorem State.Sound.slotLoad {c : CellId} (h : s.Sound) : (s.slotLoad c).Sound := by
  unfold State.slotLoad
  extract_lets
  refine .ite h (.ite h.awaitFill ?_)
  refine .ite h.routeDrop (.foldl (.ite (h.foldl (fun _ ht _ => .ite ht.freshProt ht)) h) (fun _ ht _ => ?_))
  refine .ite ht ?_
  split
  · next e =>
      have h1 := ht.peek.ofSnd e
      exact .ite h1.modSuK.blockError (.modSuK (.ite h1.writeIm h1.writeDm))

theorem State.Sound.startSlot {c : CellId} {m : Master} {v : Word} {j : Nat} (h : s.Sound) : (s.startSlot c m v j).Sound :=
  .ite h.refuseRsvd (.ite h.modSuK.slotLoad h.modSuK.fetchAhead)

theorem State.Sound.resumeSlots (h : s.Sound) : s.resumeSlots.Sound :=
  h.foldl (fun _ ht _ => .ite ht (.fetchAhead (.fetchAhead (.ite ht.slotLoad ht))))

theorem State.Sound.suCmdEffect {m : Master} {c : CellId} {v : Word} (h : s.Sound) : (suCmdEffect m c v s).Sound :=
  .foldl (h.foldl (fun _ ht _ => .ite ht.modSuK ht)) (fun _ ht _ => .ite ht.startSlot ht)

theorem State.Sound.execSuStart {m : Master} {c : CellId} {v : Word} (h : s.Sound) : AllNext State.Sound (execSuStart m c v s) :=
  .next (h.write (fun _ _ => .none) (fun _ _ ht => ht.suCmdEffect))

theorem State.Sound.execSuCancel {m : Master} {c : CellId} {v : Word} (h : s.Sound) : AllNext State.Sound (execSuCancel m c v s) :=
  .next (h.write (fun _ _ => .none) (fun _ _ ht => ht.suCmdEffect))

theorem State.Sound.descCond {m : Master} {c : CellId} {off : Nat} {v : Word} (h : s.Sound) :
    AllSome State.Sound (descCond m c off v s) :=
  .ite (.some h.refuse) .none

theorem State.Sound.setCodec {unit : Nat} {l : List CodecJob} (h : s.Sound) : (s.setCodec unit l).Sound :=
  h.rest

theorem State.Sound.putCodec {unit : Nat} {k : CodecJob} (h : s.Sound) : (s.putCodec unit k).Sound :=
  h.setCodec

theorem State.Sound.dropCodec {unit : Nat} {c : CellId} (h : s.Sound) : (s.dropCodec unit c).Sound :=
  h.setCodec

theorem State.Sound.clearWindow {unit : Nat} (h : s.Sound) : (s.clearWindow unit).Sound := by
  unfold State.clearWindow
  split
  · exact .ite (.withBanks h length_at') h
  · exact h

theorem State.Sound.codecFinish {unit : Nat} {k : CodecJob} {status consumed produced : Nat} (h : s.Sound) :
    (s.codecFinish unit k status consumed produced).Sound := by
  unfold State.codecFinish
  split
  · exact h.dropCodec
  · extract_lets _ s1 s2 s3 s4 s5
    have h1 : s1.Sound := h.releaseIn
    have h2 : s2.Sound := h1.writeBackWords
    have h3 : s3.Sound := h2.count64.count64.count
    have h4 : s4.Sound := .ite h3.count.raise h3
    have h5 : s5.Sound := .ite h4.count h4
    exact .endJob (.dropCodec (.clearWindow (.ite h5.raise h5)))

theorem State.Sound.codecStop {unit : Nat} {k : CodecJob} (h : s.Sound) : (s.codecStop unit k).Sound :=
  h.codecFinish

theorem State.Sound.codecFlush {unit : Nat} {k : CodecJob} (h : s.Sound) : (s.codecFlush unit k).Sound := by
  unfold State.codecFlush
  split
  · exact h.dropCodec
  · extract_lets _ _ _ s1
    have h1 : s1.Sound := h.writeSb.publish
    split
    · exact .ite h1.codecFinish h1.putCodec
    · exact .ite h1.codecStop h1.putCodec

theorem State.Sound.codecEncode {unit : Nat} {j : Job} {k : CodecJob} {output : List Byte} (h : s.Sound) :
    (s.codecEncode unit j k output).2.Sound := by
  unfold State.codecEncode
  extract_lets
  refine .iteSnd (.snd h) (.iteSnd ?_ (.snd h))
  split
  · next e => exact .snd (h.free.ofSnd e)

theorem State.Sound.codecTake {unit : Nat} {j : Job} {k : CodecJob} {output : List Byte} (h : s.Sound) :
    (s.codecTake unit j k output).Sound := by
  unfold State.codecTake
  extract_lets
  refine .ite h.putCodec ?_
  split
  · next e => exact (h.readSb.ofSnd e).codecFinish
  · next e =>
      have h1 := h.readSb.ofSnd e
      extract_lets
      split
      · next e2 =>
          have h2 := State.Sound.sndOf e2 (.iteSnd (.snd h1) h1.codecEncode)
          split
          · exact h.putCodec
          · extract_lets s3
            have h3 : s3.Sound := by
              dsimp only [s3]
              split
              · exact h2.releaseIn
              · exact h2
            exact h3.codecFlush

theorem State.Sound.execCodecJobEnd {unit : Fin 4} {output : List Byte} (h : s.Sound) :
    AllNext State.Sound (execCodecJobEnd unit output s) := by
  unfold Machine.execCodecJobEnd
  extract_lets
  split
  · exact .next h
  · split
    · exact .next h
    · refine .ite (.next h.codecFlush) (.ite (.next h.disarm.codecFinish) ?_)
      split
      · next e => exact .next (h.readProt.ofSnd e).codecFinish
      · next e => exact .next (h.readProt.ofSnd e).codecTake

theorem State.Sound.cdcCtrlCond {m : Master} {unit : Nat} {v : Word} (h : s.Sound) : AllSome State.Sound (cdcCtrlCond m unit v s) :=
  .ite (.some h.refuse) .none

theorem State.Sound.codecHalt {unit : Nat} (h : s.Sound) : (s.codecHalt unit).Sound := by
  unfold State.codecHalt
  refine .ite h ?_
  split
  · exact h.codecStop
  · exact h.raise

theorem State.Sound.cdcCtrlEffect {unit : Nat} {v : Word} {d : RegDef} (h : s.Sound) : (cdcCtrlEffect unit v d s).Sound := by
  unfold Machine.cdcCtrlEffect
  extract_lets _ s1
  have h1 : s1.Sound := h.store
  exact .ite h1.codecHalt h1

theorem State.Sound.execCodecHalt {m : Master} {unit : Fin 4} {v : Word} (h : s.Sound) :
    AllNext State.Sound (execCodecHalt m unit v s) :=
  .next (h.write (fun _ ht => ht.cdcCtrlCond) (fun _ _ ht => ht.cdcCtrlEffect))

theorem State.Sound.resumeCodecs {c : CellId} (h : s.Sound) : (s.resumeCodecs c).Sound := by
  unfold State.resumeCodecs
  refine .foldl h (fun _ ht _ => ?_)
  split
  · exact ht.codecFlush
  · exact ht

theorem State.Sound.execStreamDrain {c : CellId} {slot : Fin 2} {close : Bool} (h : s.Sound) :
    AllNext State.Sound (execStreamDrain c slot close s) :=
  .ite (.next h) (.next h.drain.resumeCodecs)

theorem State.Sound.setRole {c : Nat} {r : Role} (h : s.Sound) : (s.setRole c r).Sound := by
  unfold State.setRole
  split
  · next e =>
      have h1 := h.free.ofSnd e
      exact h1.rest.setField

theorem State.Sound.rentCond {m : Master} {v : Word} (h : s.Sound) : AllSome State.Sound (rentCond m v s) := by
  unfold Machine.rentCond
  extract_lets
  split
  · exact .ite (.some h.refuse) (.ite (.some h.refuseRsvd) .none)
  · exact .none

theorem State.Sound.rentWrite {v : Word} (h : s.Sound) : (rentWrite v s).Sound := .ite h h.setRole

theorem State.Sound.holdNow {c : CellId} (h : s.Sound) : (s.holdNow c).Sound :=
  .ite h.setReg h.setReg.dropLoad.modCell.raise

theorem State.Sound.holdAndFill {c : CellId} (h : s.Sound) : (s.holdAndFill c).Sound :=
  h.holdNow.modCell.fillCell

theorem State.Sound.unhold {c : CellId} (h : s.Sound) : (s.unhold c).Sound := h.setReg.releaseCore

theorem State.Sound.wardenLoad (h : s.Sound) : s.wardenLoad.2.Sound := by
  unfold State.wardenLoad
  extract_lets _ _ s1 _ _ s2
  have h1 : s1.Sound := h.holdAndFill
  have h2 : s2.Sound := h1.modSuK.slotLoad
  exact .iteSnd (.snd h1) (.iteSnd (.snd h2) (.snd h2.modSuK.slotLoad))

theorem State.Sound.wardenGo (h : s.Sound) : s.wardenGo.Sound := h.modCell.unhold

theorem State.Sound.wreload (h : s.Sound) : s.wreload.Sound := by
  unfold State.wreload
  extract_lets s1
  have h1 : s1.2.Sound := h.wardenLoad
  exact .ite h1.wardenGo h1

theorem State.Sound.execJobDescriptor {f : Flit} (h : s.Sound) : AllNext State.Sound (execJobDescriptor f s) :=
  .next (h.onMesh (fun _ ht => ht))

theorem State.Sound.execJobStatus {f : Flit} (h : s.Sound) : AllNext State.Sound (execJobStatus f s) :=
  .next (h.onMesh (fun _ ht => ht))

theorem State.Sound.execControlFlit {f : Flit} (h : s.Sound) : AllNext State.Sound (execControlFlit f s) :=
  .next (h.onMesh (fun _ ht => ht))

theorem State.Sound.execFabricReadResponse {f : Flit} (h : s.Sound) : AllNext State.Sound (execFabricReadResponse f s) := by
  unfold Machine.execFabricReadResponse
  extract_lets
  refine .next (.onMesh h (fun _ ht => ?_))
  split
  · exact .ite ht.rest ht
  · exact ht

/-! ### Search -/

theorem State.Sound.modBank {b : Nat} {f : Bank → Bank} (h : s.Sound) : (s.modBank b f).Sound :=
  h.withBanks length_at'

theorem State.Sound.readSlot {b h : Nat} (hs : s.Sound) : (s.readSlot b h).2.Sound := by
  unfold State.readSlot
  split
  · exact .snd hs
  · split
    · next e => exact .snd (hs.peek.ofSnd e)

theorem State.Sound.writeSlot {b h : Nat} {x : ShSlot} (hs : s.Sound) : (s.writeSlot b h x).Sound := hs.poke

theorem State.Sound.postSlot {b h : Nat} {x : ShSlot} (hs : s.Sound) : (s.postSlot b h x).Sound :=
  hs.rest.modBank

theorem State.Sound.restartAt {b pos : Nat} (h : s.Sound) : (s.restartAt b pos).Sound := h.modBank

theorem State.Sound.mergeData {b : Nat} {l : List Nat} (h : s.Sound) : (s.mergeData b l).Sound :=
  h.foldl (fun _ ht _ => ht.mergeProt)

theorem State.Sound.entData {b pos : Nat} {e : Entry} (h : s.Sound) : (s.entData b pos e).2.Sound := by
  unfold State.entData
  split
  · next e => exact .snd (h.readProt.ofSnd e)
  · next e =>
      split
      · next e2 =>
          have h1 := (h.readProt.ofSnd e).readSlot.ofSnd e2
          split
          · next e =>
              refine .snd (.count (.modBank (.freshProt (State.Sound.sndOf e ?_))))
              split
              · exact .snd h1
              · exact .snd h1.free

theorem State.Sound.searchFor {c : CellId} {mask : Nat} {key : BitVec 144} (h : s.Sound) : (s.searchFor c mask key).2.Sound := by
  unfold State.searchFor
  extract_lets _ _ _ _ x1 s2
  clear_value x1
  have h2 : s2.Sound := h.foldl (fun _ ht _ => ht.count64)
  clear_value s2
  split
  · exact .snd h2
  · exact .snd h2.count64.entData

theorem State.Sound.endSearch {c : CellId} {j : Job} {k : Nat} {ws : List TWord} {status : Nat} (h : s.Sound) :
    (s.endSearch c j k ws status).Sound :=
  h.writeBackWords.endJob

theorem State.Sound.modSearchJob {c : CellId} {f : Job → Job} (h : s.Sound) : (s.modSearchJob c f).Sound :=
  h.modCell

theorem State.Sound.execSearch {c : CellId} (h : s.Sound) : AllNext State.Sound (execSearch c s) := by
  unfold Machine.execSearch
  split
  · exact .next h
  · exact .ite (.next h) (.next h.searchFor.endSearch)

theorem State.Sound.streamSearch {c : CellId} {iu ou : Nat} (h : s.Sound) : AllSome State.Sound (s.streamSearch c iu ou) := by
  unfold State.streamSearch
  extract_lets
  split
  · next e =>
      have h1 := h.readSb.ofSnd e
      split
      · next t e =>
          have h2 : t.Sound := by
            refine State.Sound.sndOf e ?_
            split
            · exact .snd h1
            · exact .snd h1.free.free.free
          refine .ite .none ?_
          split
          · next e => exact .some (h2.searchFor.ofSnd e).writeSb.publish.releaseIn

theorem State.Sound.streamSearches {c : CellId} {iu ou n : Nat} (h : s.Sound) : (s.streamSearches c iu ou n).2.Sound := by
  induction n generalizing s with
  | zero => exact .snd h
  | succ n ih =>
    dsimp only [State.streamSearches]
    split
    · exact .snd h
    · next e =>
        exact .snd (ih (h.streamSearch.of_eq e))

theorem State.Sound.execSearchStream {c : CellId} (h : s.Sound) : AllNext State.Sound (execSearchStream c s) := by
  unfold Machine.execSearchStream
  split
  · exact .next h
  · extract_lets
    split
    · next e =>
        extract_lets s1
        have h1 : s1.Sound := (h.streamSearches.ofSnd e).modSearchJob
        exact .ite (.next h1) (.next h1.endSearch)

theorem State.Sound.stopSearch {c : CellId} (h : s.Sound) : (s.stopSearch c).Sound := by
  unfold State.stopSearch
  split
  · exact h
  · extract_lets s1
    have h1 : s1.Sound := by
      dsimp only [s1]
      split
      · exact h.writeBackWords
      · exact h.writeBackWords
      · exact h
    exact h1.endJob

theorem State.Sound.shadowStall {c : CellId} {j : Job} (h : s.Sound) : (s.shadowStall c j).Sound :=
  .ite h.modSearchJob.count h

theorem State.Sound.execInsert {c : CellId} (h : s.Sound) : AllNext State.Sound (execInsert c s) := by
  unfold Machine.execInsert
  split
  · exact .next h
  · extract_lets _ _ x1
    clear_value x1
    refine .ite (.next h.stopSearch) (.ite (.next h.disarm.raise.endJob) ?_)
    split
    · exact .next (.endJob (.ite h h.raise))
    · exact .ite (.next h.shadowStall) (.next h.mergeData.modBank.restartAt.postSlot.count.endSearch)

theorem State.Sound.execDelete {c : CellId} (h : s.Sound) : AllNext State.Sound (execDelete c s) := by
  unfold Machine.execDelete
  split
  · exact .next h
  · extract_lets _ _ _ _ _ _ s1
    have h1 : s1.Sound := h.foldl (fun _ ht _ => ht.modBank.restartAt.postSlot)
    exact .ite (.next h.stopSearch) (.ite (.ite (.next h.endSearch) (.next h.endSearch)) (.ite (.next h.shadowStall) (.ite (.next
        h1.modSearchJob) (.next h1.endSearch))))

theorem State.Sound.execSearchEntryRead {c : CellId} (h : s.Sound) : AllNext State.Sound (execSearchEntryRead c s) := by
  unfold Machine.execSearchEntryRead
  split
  · exact .next h
  · extract_lets
    refine .ite (.next h.stopSearch) ?_
    split
    · exact .next h.endJob
    · exact .next h.entData.endSearch

theorem State.Sound.execWindowSearch {unit : Fin 4} {bs : List Byte} (h : s.Sound) : AllNext State.Sound (execWindowSearch unit bs s) := by
  unfold Machine.execWindowSearch
  extract_lets
  split
  · exact .ite (.next h) (.next h.modBank)
  · exact .next h

theorem State.Sound.spreadBank {b : Nat} (h : s.Sound) : (s.spreadBank b).Sound := by
  unfold State.spreadBank
  extract_lets
  split
  · exact h
  · exact h.mergeData.modBank.setField

theorem State.Sound.clearBank {b : Nat} (h : s.Sound) : (s.clearBank b).Sound := by
  unfold State.clearBank
  extract_lets s1 _ _ s2
  have h1 : s1.Sound := by
    dsimp only [s1]
    refine .foldl h (fun _ ht _ => ?_)
    split
    · exact .ite ht.stopSearch ht
    · exact ht
  clear_value s1
  have h2 : s2.Sound := h1.rest.modBank
  exact h2.setField.foldl (fun _ ht _ => ht.writeSlot)

theorem State.Sound.srbCtrlCond {m : Master} {b : Nat} {v : Word} (h : s.Sound) : AllSome State.Sound (srbCtrlCond m b v s) :=
  .ite (.some h.refuse) (.ite (.some h.refuseRsvd) (.ite (.some h.refuse) (.ite (.some h.refuse) .none)))

theorem State.Sound.srbCtrlEffect {b : Nat} {v : Word} (h : s.Sound) : (srbCtrlEffect b v s).Sound := by
  unfold Machine.srbCtrlEffect
  extract_lets _ s1 _ s2
  have h1 : s1.Sound := .ite h.clearBank h
  have h2 : s2.Sound := .ite h1.setReg.spreadBank h1.setReg
  exact .ite h2.modBank h2

theorem State.Sound.srbCtrlWrite {m : Master} {b : Nat} {v : Word} (h : s.Sound) : AllNext State.Sound (srbCtrlWrite m b v s) :=
  .next (h.write (fun _ ht => ht.srbCtrlCond) (fun _ _ ht => ht.srbCtrlEffect))

theorem State.Sound.execSrbModeOwnerWrite {m : Master} {bank : Fin 16} {v : Word} (h : s.Sound) :
    AllNext State.Sound (execSrbModeOwnerWrite m bank v s) :=
  h.srbCtrlWrite

theorem State.Sound.execClear {m : Master} {bank : Fin 16} (h : s.Sound) : AllNext State.Sound (execClear m bank s) :=
  h.srbCtrlWrite

theorem State.Sound.execSpread {m : Option Master} {bank : Fin 16} (h : s.Sound) : AllNext State.Sound (execSpread m bank s) := by
  unfold Machine.execSpread
  extract_lets
  split
  · exact h.srbCtrlWrite
  · exact .ite (.next h.spreadBank) (.next h)

theorem State.Sound.execSrbSelfTest {m : Option Master} {bank : Fin 16} {pass : Bool} (h : s.Sound) :
    AllNext State.Sound (execSrbSelfTest m bank pass s) := by
  unfold Machine.execSrbSelfTest
  extract_lets
  split
  · exact h.srbCtrlWrite
  · exact .ite (.next h) (.next h.modBank.setReg.raise)

theorem State.Sound.mismatch {b pos handle kind : Nat} (h : s.Sound) : (s.mismatch b pos handle kind).Sound :=
  .raise (.count (.modBank (.setReg (h.foldl (fun _ ht _ => ht.setReg)))))

theorem State.Sound.rewritePos {b pos : Nat} {e : Entry} {x : ShSlot} (h : s.Sound) : (s.rewritePos b pos e x).Sound :=
  h.mergeData.modBank

theorem State.Sound.comparePos {b pos : Nat} {e : Entry} {bad : Bool} (h : s.Sound) : (s.comparePos b pos e bad).Sound := by
  unfold State.comparePos
  split
  · next e =>
      extract_lets
      split
      · next e2 =>
          have h1 := (h.readProt.ofSnd e).readSlot.ofSnd e2
          refine .ite ?_ ?_
          · extract_lets s2
            have h2 : s2.Sound := h1.disarm.mismatch
            split
            · exact .ite h2 h2.rewritePos
            · exact h2
          · split
            · exact .ite h1.modBank.writeSlot.count.mismatch h1.writeSlot.mismatch
            · exact .ite h1.modBank.mismatch (.ite h1.freshProt.rewritePos.mismatch
                (.ite h1.rewritePos.mismatch (.ite h1.rewritePos.mismatch h1)))

theorem State.Sound.passEnd {b : Nat} (h : s.Sound) : (s.passEnd b).Sound := by
  unfold State.passEnd
  extract_lets _ _ _ _ s1
  have h1 : s1.Sound := h.setReg.modBank
  exact .ite h1.modBank.count.raise h1

theorem State.Sound.recoverBank {b : Nat} (h : s.Sound) : (s.recoverBank b).Sound := by
  unfold State.recoverBank
  extract_lets _ s1
  have h1 : s1.Sound := by
    dsimp only [s1]
    refine .foldl h (fun _ ht _ => ?_)
    split
    · next e =>
        have h2 := ht.readSlot.ofSnd e
        exact .ite h2.modBank h2.rewritePos
    · next e => exact ht.readSlot.ofSnd e
  exact h1.modBank

theorem State.Sound.reloadBank {b : Nat} (h : s.Sound) : (s.reloadBank b).Sound := by
  rw [State.reloadBank]
  split
  · next t e =>
      have ht : t.Sound := by
        refine State.Sound.sndOf e (.foldlSnd (.snd h) fun t ht k => ?_)
        split
        · next e => exact .snd (ht.readSlot.ofSnd e)
        · next e => exact .snd (ht.readSlot.ofSnd e)
      exact ht.modBank

theorem State.Sound.execSweepCompare {bank : Fin 16} {flip : Option Entry} {bad : Bool} (h : s.Sound) :
    AllNext State.Sound (execSweepCompare bank flip bad s) := by
  unfold Machine.execSweepCompare
  extract_lets
  refine .ite (.next h) ?_
  refine .ite (.ite (.next h) (.ite (.next h.reloadBank.modBank) (.ite (.next h.modBank) (.next h.recoverBank)))) ?_
  split
  · exact .next h.passEnd
  · extract_lets _ _ s1
    have h1 : s1.Sound := h.modBank.comparePos
    exact .ite (.next h1.setField) (.next h1.setField.passEnd)

theorem State.Sound.execShadowWriteComplete (h : s.Sound) : AllNext State.Sound (execShadowWriteComplete s) := by
  unfold Machine.execShadowWriteComplete
  split
  · exact .next h
  · extract_lets _ _ s1
    have h1 : s1.Sound := h.rest.writeSlot.modBank
    split
    · exact .next h1.setField.modBank
    · exact .next h1

theorem State.Sound.srcCtrlCond {m : Master} {v : Word} (h : s.Sound) : AllSome State.Sound (srcCtrlCond m v s) :=
  .ite (.some h.refuse) .none

theorem State.Sound.shbaseCond {m : Master} {v : Word} (h : s.Sound) : AllSome State.Sound (shbaseCond m v s) :=
  .ite .none (.some h.refuse)

theorem State.Sound.srcCmdCond {m : Master} {v : Word} (h : s.Sound) : AllSome State.Sound (srcCmdCond m v s) :=
  .ite (.some h.refuse) .none

/-- A change of the work of the search engine. -/
theorem State.Sound.searchWork {n : Nat} (h : s.Sound) : State.Sound { s with search := { s.search with work := n } } := h.rest

theorem State.Sound.srcCmdEffect {v : Word} (h : s.Sound) : (srcCmdEffect v s).Sound := by
  unfold Machine.srcCmdEffect
  refine .ite h ?_
  extract_lets s1 s2
  have h1 : s1.Sound := h.setReg
  have h2 : s2.Sound := h1.foldl (fun _ ht _ => ht.clearBank)
  clear_value s2
  split
  · exact h2.searchWork
  · exact h1.searchWork

theorem State.Sound.execInit {m : Master} (h : s.Sound) : AllNext State.Sound (execInit m s) :=
  .next (h.write (fun _ ht => ht.srcCmdCond) (fun _ _ ht => ht.srcCmdEffect))

theorem State.Sound.execReload {m : Master} (h : s.Sound) : AllNext State.Sound (execReload m s) :=
  .next (h.write (fun _ ht => ht.srcCmdCond) (fun _ _ ht => ht.srcCmdEffect))

theorem State.Sound.endWork (h : s.Sound) : s.endWork.Sound := by
  unfold State.endWork
  refine .ite h ?_
  extract_lets s1
  have h1 : s1.Sound := .ite (h.foldl (fun _ ht _ => .ite ht.reloadBank ht)) h
  exact h1.rest.setReg.raise

theorem State.Sound.execSrcThrottleSample (h : s.Sound) : AllNext State.Sound (execSrcThrottleSample s) := by
  unfold Machine.execSrcThrottleSample
  refine .ite (.next h) ?_
  extract_lets _ _ _ _ _ s1
  have h1 : s1.Sound := .ite h.count h
  exact .next (.ite h1.setReg h1.setReg.raise)

/-! ### Crypto -/

theorem State.Sound.modKey {n : Nat} {f : KeySlot → KeySlot} (h : s.Sound) : (s.modKey n f).Sound :=
  h.withCrypto length_at' rfl rfl rfl

theorem State.Sound.modLane {l : Nat} {f : Lane → Lane} (h : s.Sound) : (s.modLane l f).Sound :=
  h.withCrypto rfl length_at' rfl rfl

theorem State.Sound.modCtx {k : Nat} {f : DigCtx → DigCtx} (h : s.Sound) : (s.modCtx k f).Sound :=
  h.withCrypto rfl rfl rfl length_at'

theorem State.Sound.modJob {c : CellId} {p : Nat} {f : Job → Job} (h : s.Sound) : (s.modJob c p f).Sound :=
  h.modCell

theorem State.Sound.raiseAlarm {n : Nat} (h : s.Sound) : (s.raiseAlarm n).Sound := h.setReg.rest.count.raise

theorem State.Sound.clearDigRes {lane : Nat} (h : s.Sound) : (s.clearDigRes lane).Sound :=
  .setReg (h.foldl (fun _ ht _ => ht.setReg))

theorem State.Sound.clearCtx {k : Nat} (h : s.Sound) : (s.clearCtx k).Sound :=
  h.modCtx.foldl (fun _ ht _ => ht.freshProt)

theorem State.Sound.alarmDigest {c : CellId} (h : s.Sound) : (s.alarmDigest c).Sound :=
  .endJob (h.foldl (fun _ ht _ => .ite ht.clearCtx ht))

theorem State.Sound.clearDigests (h : s.Sound) : s.clearDigests.Sound := by
  unfold State.clearDigests
  extract_lets s1 s2
  have h1 : s1.Sound := by
    dsimp only [s1]
    refine .foldl h (fun _ ht _ => ?_)
    split
    · exact .ite ht.alarmDigest ht
    · exact ht
  clear_value s1
  have h2 : s2.Sound := h1.foldl (fun _ ht _ => ht.clearCtx)
  clear_value s2
  exact h2.rest.foldl (fun _ ht _ => ht.clearDigRes.count.raise)

theorem State.Sound.eraseKey {n : Nat} (h : s.Sound) : (s.eraseKey n).Sound := h.modKey

theorem State.Sound.endHeld {n status : Nat} (h : s.Sound) : (s.endHeld n status).Sound := by
  unfold State.endHeld
  refine .foldl h (fun _ ht _ => ?_)
  split
  · exact .ite ht.modLane.endJob ht
  · exact ht

theorem State.Sound.cryptoAlarm (h : s.Sound) : s.cryptoAlarm.Sound := by
  unfold State.cryptoAlarm
  extract_lets s1 s2 k s3
  have hk (u : State) (hu : u.Sound) : State.Sound { u with crypto := { u.crypto with
      root := none, lanes := u.crypto.lanes.map fun (l : Lane) => { l with keys := [] } } } :=
    hu.withCrypto rfl (List.length_map ..) rfl rfl
  have h1 : s1.Sound := h.clearDigests
  have h2 : s2.Sound := h1.foldl fun _ ht _ => ht.endHeld.eraseKey
  have h3 : s3.Sound := hk s2 h2
  exact h3.setReg.raise

theorem State.Sound.keyFault {n : Nat} (h : s.Sound) : (s.keyFault n).Sound :=
  .raiseAlarm (.raise (.count (h.clearDigests.endHeld.eraseKey.foldl (fun _ ht _ => ht.freshProt))))

theorem State.Sound.useKey {n : Nat} (h : s.Sound) : (s.useKey n).2.Sound := by
  unfold State.useKey
  extract_lets s1
  have h1 : s1.2.Sound := by
    dsimp only [s1]
    refine .foldlSnd (.snd h) (fun _ ht _ => ?_)
    split
    · next e => exact .snd (ht.readProt.ofSnd e)
    · next e => exact .snd (ht.readProt.ofSnd e)
  exact .iteSnd h1 (.snd h1.keyFault)

theorem State.Sound.keepEpoch {l : BitVec 512} (h : s.Sound) : (s.keepEpoch l).Sound := by
  unfold State.keepEpoch
  split
  · exact .ite h.rest h
  · exact h

theorem State.Sound.loadKey {n : Nat} {root : Bool} {l : BitVec 512} {klen : Nat} (h : s.Sound) : (s.loadKey n root l klen).Sound :=
  .count (.keepEpoch (h.modKey.foldl (fun _ ht _ => ht.freshProt)))

theorem State.Sound.keyResult {r : Nat} (h : s.Sound) : (s.keyResult r).Sound := h.setReg

theorem State.Sound.keyRefuse {m : Master} {v : Word} {r : Nat} {code : Option Nat} (h : s.Sound) : (s.keyRefuse m v r code).Sound := by
  unfold State.keyRefuse
  extract_lets s1
  have h1 : s1.Sound := h.keyResult.count.raise
  split
  · exact h1.refuse
  · exact h1

theorem State.Sound.settleHeld {n : Nat} {goOn : Bool} (h : s.Sound) : (s.settleHeld n goOn).Sound := by
  unfold State.settleHeld
  refine .ite (.foldl h (fun _ ht _ => ?_)) (h.endHeld.foldl (fun _ ht _ => ht.modLane))
  split
  · exact .ite ht.modLane.modJob ht
  · exact ht

theorem State.Sound.derive {m : Master} {v : Word} (h : s.Sound) : (s.derive m v).Sound :=
  .ite h.keyRefuse (.ite h.keyResult (.ite h.keyRefuse (.ite h.keyRefuse h.loadKey.settleHeld.keyResult)))

theorem State.Sound.eraseCmd {m : Master} {v : Word} (h : s.Sound) : (s.eraseCmd m v).Sound :=
  .ite h.keyRefuse h.settleHeld.eraseKey.keyResult

theorem State.Sound.installBlob {blob : List Byte} (h : s.Sound) : AllSome State.Sound (s.installBlob blob) :=
  AllSome.mapOf (fun _ => h.rest)

theorem State.Sound.installCmd {m : Master} {v : Word} (h : s.Sound) : (s.installCmd m v).Sound := by
  unfold State.installCmd
  refine .ite h.keyRefuse (.ite h.keyRefuse ?_)
  split
  · exact h.keyRefuse
  · next e => exact (h.installBlob.of_eq e).keyResult

theorem State.Sound.eraseAllCmd {m : Master} {v : Word} (h : s.Sound) : (s.eraseAllCmd m v).Sound :=
  .ite h.keyRefuse (.keyResult (h.foldl (fun _ ht _ => ht.settleHeld.eraseKey)))

theorem State.Sound.keyCmdEffect {m : Master} {v : Word} (h : s.Sound) : (keyCmdEffect m v s).Sound := by
  unfold Machine.keyCmdEffect
  refine .ite h.keyRefuse ?_
  split
  · exact h.derive
  · exact h.eraseCmd
  · exact h.installCmd
  · exact h.eraseAllCmd
  · exact h.keyRefuse

theorem State.Sound.execRootLock {m : Master} {v : Word} (h : s.Sound) : AllNext State.Sound (execRootLock m v s) :=
  .next (h.write (fun _ _ => .none) (fun _ _ ht => ht.store))

theorem State.Sound.execKeySuse0Read {m : Master} (h : s.Sound) : AllNext State.Sound (execKeySuse0Read m s) := by
  unfold Machine.execKeySuse0Read
  extract_lets s1
  have h1 : s1.Sound := h.arrive
  split
  · next e => exact .next (h1.checkAccess.of_eq e).reply
  · exact .next h1.latch.answerRead

theorem State.Sound.slotWinCond {m : Master} {off : Nat} {v : Word} (h : s.Sound) : AllSome State.Sound (slotWinCond m off v s) :=
  .ite (.some h.refuse) .none

theorem State.Sound.slimWrite {v : Word} (h : s.Sound) : (slimWrite v s).Sound := h.modKey

theorem State.Sound.sownWrite {v : Word} (h : s.Sound) : (sownWrite v s).Sound := h.modKey

theorem State.Sound.wrapWrite {k : Nat} {v : Word} (h : s.Sound) : (wrapWrite k v s).Sound := h.rest

theorem State.Sound.useBlocks {slot n : Nat} (h : s.Sound) : (s.useBlocks slot n).Sound :=
  .ite h.modKey.count.raise h.modKey

theorem State.Sound.writeCipher {c : CellId} {j : Job} {out : List Byte} (h : s.Sound) : (s.writeCipher c j out).Sound :=
  .ite (h.foldl (fun _ ht _ => ht.writeSb)) h.writeSb

theorem State.Sound.endCipher {c : CellId} {lane status blocks : Nat} (h : s.Sound) : (s.endCipher c lane status blocks).Sound :=
  h.modLane.setReg.count.endJob

theorem State.Sound.execCipherJob {c : CellId} {lane : Fin 16} {busErr : Bool} (h : s.Sound) :
    AllNext State.Sound (execCipherJob c lane busErr s) := by
  unfold Machine.execCipherJob
  extract_lets
  split
  · exact .next h
  · extract_lets
    refine .ite (.next h) ?_
    split
    · next e => exact .next (h.useKey.ofSnd e).endCipher
    · next e =>
        have h1 := h.useKey.ofSnd e
        split
        · next e => exact .next (h1.readSb.ofSnd e).endCipher
        · next e =>
            have h2 := h1.readSb.ofSnd e
            refine .ite (.next h2.endCipher) ?_
            extract_lets k pos left from_ s4 s3 size force s2
            have h4 : s4.Sound := h2.useBlocks
            have h3 : s3.Sound := .ite h2 h2.useBlocks
            have h2 : s2.Sound := .ite h3.disarm h3
            clear_value s2 s3 s4
            split
            · extract_lets
              refine .ite (.next h4.modLane.setReg.count64.count.raise.endJob) ?_
              split
              · split
                · next t e =>
                    have ht : t.Sound := by
                      refine State.Sound.sndOf e (.iteSnd ?_ (.snd h2))
                      exact .snd h2.free
                    extract_lets ok s5 s6 s7 s8
                    have h7 : s7.Sound := ht.writeCipher.writeBackWords.count64
                    have h8 : s8.Sound := .ite h7 h7.count.raise
                    exact .next h8.endCipher

theorem State.Sound.haltLane {l : Nat} (h : s.Sound) : (s.haltLane l).Sound := by
  unfold State.haltLane
  extract_lets s1
  have h1 : s1.Sound := by
    dsimp only [s1]
    split
    · exact h.modLane.endJob
    · exact h
  exact h1.modLane

theorem State.Sound.cipCtrlEffect {l : Nat} {v : Word} {d : RegDef} (h : s.Sound) : (cipCtrlEffect l v d s).Sound := by
  unfold Machine.cipCtrlEffect
  extract_lets _ s1
  have h1 : s1.Sound := h.store
  exact .ite h1.haltLane h1

theorem State.Sound.execCipherHalt {m : Master} {lane : Fin 16} {v : Word} (h : s.Sound) :
    AllNext State.Sound (execCipherHalt m lane v s) :=
  .next (h.write (fun _ _ => .none) (fun _ _ ht => ht.cipCtrlEffect))

theorem State.Sound.ccmLimCond {m : Master} {l : Nat} {v : Word} (h : s.Sound) : AllSome State.Sound (ccmLimCond m l v s) :=
  .ite (.some h.refuse) .none

theorem State.Sound.digResume {c : CellId} {j : Job} (h : s.Sound) : (s.digResume c j).2.Sound := by
  unfold State.digResume
  split
  · extract_lets s1
    have h1 : s1.2.Sound := by
      dsimp only [s1]
      refine .foldlSnd (.snd h) (fun _ ht _ => ?_)
      split
      · next e => exact .snd (ht.readProt.ofSnd e)
      · next e => exact .snd (ht.readProt.ofSnd e)
    exact .iteSnd (.snd h1.modCtx) (.snd h1.modCtx.clearCtx)
  · exact .snd h

theorem State.Sound.setDig {l : Nat} {c : Option CellId} (h : s.Sound) : (s.setDig l c).Sound := h.rest

theorem State.Sound.saveDigest {l k : Nat} {c : CellId} {j : Job} {done : Nat} {st : List Byte} (h : s.Sound) :
    (s.saveDigest l k c j done st).Sound := by
  unfold State.saveDigest
  split
  · next e => exact .setDig (.modJob (.count ((h.free.ofSnd e).modCtx.foldl (fun _ ht _ => ht.freshProt))))

theorem State.Sound.switchTo {l : Nat} {c : CellId} (h : s.Sound) : AllSome State.Sound (s.switchTo l c) := by
  unfold State.switchTo
  split
  · exact .some h
  · refine .ite (.some h) ?_
    split
    · exact .some h.setDig
    · exact .ite (.some h.saveDigest) .none
    · exact .none

theorem State.Sound.digBusErr {c : CellId} {lane : Nat} (h : s.Sound) : (s.digBusErr c lane).Sound :=
  h.clearDigRes.alarmDigest.setDig.count.raise.raise

theorem State.Sound.execDigestJob {c : CellId} {lane : Fin 4} {cut : Option Nat} {busErr : Bool} (h : s.Sound) :
    AllNext State.Sound (execDigestJob c lane cut busErr s) := by
  unfold Machine.execDigestJob
  extract_lets
  split
  · exact .next h
  · exact .next h
  · next ea eb =>
      refine .ite (.next h) ?_
      extract_lets s1 _ _ _ _ _ _ _ x2
      clear_value x2
      have h1 : s1.Sound := h.switchTo.of_eq eb
      refine .ite (.next h1) ?_
      split
      · next e2 => exact .next (h1.readSb.ofSnd e2).digBusErr
      · next e2 =>
          have h3 := h1.readSb.ofSnd e2
          refine .ite (.next h3.disarm.digBusErr) ?_
          split
          · next e3 => exact .next (h3.digResume.ofSnd e3).alarmDigest
          · next e3 =>
              have h4 := h3.digResume.ofSnd e3
              extract_lets s5 s6 _ _ _ s7
              have h5 : s5.Sound := .ite h4.releaseIn h4
              have h6 : s6.Sound := h5.count64
              have h7 : s7.Sound := h6.writeBackWords
              refine .ite ?_ (.next (.endJob (.setDig (.count (.ite (.setReg (h7.foldl (fun _ ht _ => ht.setReg))) h7)))))
              split
              · exact .next h6.modJob.setDig
              · exact .next h6.saveDigest

theorem State.Sound.digCtxCond {m : Master} {l off : Nat} {v : Word} (h : s.Sound) : AllSome State.Sound (digCtxCond m l off v s) :=
  .ite (.some h.refuse) .none

theorem State.Sound.digCtxWrite {l w : Nat} {v : Word} (h : s.Sound) : (digCtxWrite l w v s).Sound :=
  h.mergeProt.modCtx

theorem State.Sound.digCtrlCond {m : Master} {l : Nat} {v : Word} (h : s.Sound) : AllSome State.Sound (digCtrlCond m l v s) :=
  .ite (.some h.refuse) .none

/-! ### Nvme -/

theorem State.Sound.logStatus {r : CmdRef} {st : Status} (h : s.Sound) : (s.logStatus r st).Sound :=
  .ite h.modLogs h

theorem State.Sound.modCmd {r : CmdRef} {f : Cmd → Cmd} (h : s.Sound) : (s.modCmd r f).Sound := h.rest

theorem State.Sound.dropCmd {r : CmdRef} (h : s.Sound) : (s.dropCmd r).Sound := h.rest

theorem State.Sound.forget {r : CmdRef} (h : s.Sound) : (s.forget r).Sound := by
  unfold State.forget
  extract_lets s1
  have h1 : s1.Sound := h.dropCmd
  exact h1.rest.rest

theorem State.Sound.addCmd {c : Cmd} (h : s.Sound) : (s.addCmd c).Sound := h.rest

theorem State.Sound.uncharge {o : ChargeOwner} (h : s.Sound) : (s.uncharge o).Sound := h.rest

theorem State.Sound.finish {r : CmdRef} {st : Status} (h : s.Sound) : (s.finish r st).Sound := by
  unfold State.finish
  extract_lets s1
  have h1 : s1.Sound := h.uncharge.logStatus
  split
  · exact .ite h1.forget h1.modCmd
  · exact h1.addCmd

theorem State.Sound.drainAsync {f : Fun} (h : s.Sound) : (s.drainAsync f).Sound := by
  unfold State.drainAsync
  extract_lets
  split
  · exact h.modLogs.finish
  · exact h

theorem State.Sound.asyncEvent {f : Fun} {ty info lid : Nat} (h : s.Sound) : (s.asyncEvent f ty info lid).Sound :=
  .ite h.modLogs.drainAsync h

theorem State.Sound.unmaskAsync {f : Fun} {ty : Nat} (h : s.Sound) : (s.unmaskAsync f ty).Sound :=
  h.modLogs.drainAsync

theorem State.Sound.modSq {f : Fun} {q : Nat} {g : SQueue → SQueue} (h : s.Sound) : (s.modSq f q g).Sound :=
  h.modCtrl

theorem State.Sound.modCq {f : Fun} {q : Nat} {g : CQueue → CQueue} (h : s.Sound) : (s.modCq f q g).Sound :=
  h.modCtrl

theorem State.Sound.fatal {f : Fun} (h : s.Sound) : (s.fatal f).Sound := h.modCtrl.raise

theorem State.Sound.entryBad {page place : Nat} (h : s.Sound) : (s.entryBad page place).2.Sound :=
  .snd h.scanProt.scanProt.clearProt.clearProt

theorem State.Sound.fetchEntry {c : NvmeCmd} (h : s.Sound) : (s.fetchEntry c).1.Sound := by
  unfold State.fetchEntry
  split
  · refine .iteFst (.fst h.disarm.fatal.raise) ?_
    extract_lets
    split
    · next e => exact .fst (h.count64.modSq.entryBad.ofSnd e).finish
    · next e => exact .fst (h.count64.modSq.entryBad.ofSnd e)
  · exact .fst h

theorem State.Sound.onAdmin {c : NvmeCmd} {f : State → State} (h : s.Sound) (hf : ∀ t, t.Sound → (f t).Sound) :
    AllNext State.Sound (onAdmin c s f) := by
  unfold Machine.onAdmin
  refine .ite (.next h) ?_
  split
  · next e => exact .next (hf _ (h.fetchEntry.ofFst e))
  · next e => exact .next (h.fetchEntry.ofFst e)

theorem State.Sound.onIo {c : NvmeCmd} {f : Nat → State → State} (h : s.Sound) (hf : ∀ x, ∀ t, t.Sound → (f x t).Sound) :
    AllNext State.Sound (onIo c s f) := by
  unfold Machine.onIo
  refine .ite (.next h) ?_
  split
  · next e => exact .next (hf _ _ (h.fetchEntry.ofFst e))
  · next e => exact .next (h.fetchEntry.ofFst e)

theorem State.Sound.markDirty {f : Fun} {addr len : Nat} (h : s.Sound) : (s.markDirty f addr len).Sound := by
  unfold State.markDirty
  refine .ite h (.foldl h fun _ ht _ => .ite ?_ (.raise ?_))
  · exact ht.withVfs length_at'
  · exact ht.withVfs length_at'

theorem State.Sound.hostWrite {f : Fun} {segs : List (BitVec 64 × Nat)} {bs : List Byte} (h : s.Sound) :
    (s.hostWrite f segs bs).Sound :=
  .foldlFst (.fst h) (fun _ ht _ => .iteFst ht (.fst ht.markDirty.emit))

theorem State.Sound.xferFail {poisoned : Bool} (h : s.Sound) : (s.xferFail poisoned).Sound := by
  unfold State.xferFail
  extract_lets s1
  have h1 : s1.Sound := h.raise.count
  exact .ite h1.count h1

theorem State.Sound.xferOk (h : s.Sound) : s.xferOk.2.Sound := .iteSnd (.snd h.disarm.xferFail) (.snd h)

theorem State.Sound.signalCq {f : Fun} {q : CQueue} (h : s.Sound) : (s.signalCq f q).Sound :=
  .ite h (.ite h.sendVector (.ite h.modCtrl.sendVector h.modCtrl))

theorem State.Sound.execInterruptCoalescingTimer {fn : Fun} {vec : Nat} (h : s.Sound) :
    AllNext State.Sound (execInterruptCoalescingTimer fn vec s) := by
  unfold Machine.execInterruptCoalescingTimer
  extract_lets
  split
  · exact .ite (.next h) (.next h.modCtrl.sendVector)
  · exact .next h

theorem State.Sound.noteLate {c : Cmd} (h : s.Sound) : (s.noteLate c).Sound := by
  unfold State.noteLate
  extract_lets s1
  have h1 : s1.Sound := h.count.raise
  exact .modLogs (.ite h1.count h1)

theorem State.Sound.endDelete {f : Fun} {q : Nat} (h : s.Sound) : (s.endDelete f q).Sound := by
  unfold State.endDelete
  split
  · split
    · exact .ite h h.modCtrl.finish
    · exact h
  · exact h

theorem State.Sound.post {c : Cmd} {st : Status} {x : SQueue} {q : CQueue} (h : s.Sound) : (s.post c st x q).Sound :=
  .signalCq (.endDelete (.forget (.count64 (.modCq (.markDirty (.emit (.ite h.noteLate h)))))))

theorem State.Sound.badBell {f : Fun} {y info : Nat} (h : s.Sound) : (s.badBell f y info).Sound :=
  h.raise.asyncEvent

theorem State.Sound.sqBell {f : Fun} {y bytes : Nat} {v : Word} (h : s.Sound) : (s.sqBell f y bytes v).Sound := by
  unfold State.sqBell
  refine .ite h ?_
  split
  · exact h.badBell
  · exact .ite h.badBell h.modSq

theorem State.Sound.cqBell {f : Fun} {y bytes : Nat} {v : Word} (h : s.Sound) : (s.cqBell f y bytes v).Sound := by
  unfold State.cqBell
  refine .ite h ?_
  split
  · exact h.badBell
  · exact .ite h.badBell h.modCq

theorem State.Sound.execSqTailDoorbell {fn : Fun} {y bytes : Nat} {v : Word} (h : s.Sound) :
    AllNext State.Sound (execSqTailDoorbell fn y bytes v s) :=
  .next h.arrive.sqBell

theorem State.Sound.execCqHeadDoorbell {fn : Fun} {y bytes : Nat} {v : Word} (h : s.Sound) :
    AllNext State.Sound (execCqHeadDoorbell fn y bytes v s) :=
  .next h.arrive.cqBell

/-! ### Map -/

theorem State.Sound.setCoarse {u : Nat} {e : Word} (h : s.Sound) : (s.setCoarse u e).Sound := h.rest

theorem State.Sound.setFine {g i e : Nat} (h : s.Sound) : (s.setFine g i e).Sound := h.rest

theorem State.Sound.drawGroup {g : Nat} (h : s.Sound) : (s.drawGroup g).Sound := h.rest

theorem State.Sound.returnGroup {g : Nat} (h : s.Sound) : (s.returnGroup g).Sound := h.rest

theorem State.Sound.modBlk {die b : Nat} {f : Blk → Blk} (h : s.Sound) : (s.modBlk die b f).Sound := h.rest

theorem State.Sound.note {r : JRec} (h : s.Sound) : (s.note r).Sound := h.rest

theorem State.Sound.setBuf {n : Nat} (h : s.Sound) : (s.setBuf n).Sound := h.rest.setReg

theorem State.Sound.showEvSpare (h : s.Sound) : s.showEvSpare.Sound := h.setReg

theorem State.Sound.drawEvid (h : s.Sound) : s.drawEvid.Sound := by
  unfold State.drawEvid
  extract_lets _ _ _ s1 s2
  have h1 : s1.Sound := h.rest.setField.showEvSpare
  have h2 : s2.Sound := .ite h1 h1.raise
  exact .ite h2.rest.raise h2.rest

theorem State.Sound.opening {stream die b : Nat} (h : s.Sound) : (s.opening stream die b).Sound :=
  .ite (.ite h.modBlk.drawEvid h) (.ite h.setBuf h)

theorem State.Sound.alloc {die stream : Nat} {mode : Mode} (h : s.Sound) : (s.alloc die stream mode).2.Sound := by
  unfold State.alloc
  extract_lets
  split
  · exact .snd h.modBlk
  · split
    · exact .snd h
    · exact .iteSnd (.snd h) (.snd h.modBlk.note.opening.modBlk)

theorem State.Sound.addReq {r : Req} (h : s.Sound) : (s.addReq r).Sound := h.rest

theorem State.Sound.modReq {id : Nat} {f : Req → Req} (h : s.Sound) : (s.modReq id f).Sound := h.rest

theorem State.Sound.dropReq {id : Nat} (h : s.Sound) : (s.dropReq id).Sound := h.rest

theorem State.Sound.programCopy {p : JPage} {copyB : Bool} {avoid : List Nat} (h : s.Sound) : (s.programCopy p copyB avoid).Sound := by
  unfold State.programCopy
  split
  · exact h
  · split
    · next e => exact h.alloc.ofSnd e
    · next e =>
        have h1 := h.alloc.ofSnd e
        exact h1.rest.addReq

theorem State.Sound.seal {flush final shutdown : Bool} (h : s.Sound) : (s.seal flush final shutdown).Sound := by
  unfold State.seal
  extract_lets _ _ _ s1
  have h1 : s1.Sound := h.rest.programCopy
  split
  · exact h1.programCopy
  · exact h1

theorem State.Sound.commit {rs : List JRec} (h : s.Sound) : (s.commit rs).Sound := by
  unfold State.commit
  extract_lets s1 s2
  have h1 : s1.Sound := .ite h.seal h
  have h2 : s2.Sound := h1.foldl (fun _ ht _ => ht.note)
  exact .ite h2.seal h2

theorem State.Sound.unstage {p : Staged → Bool} (h : s.Sound) : (s.unstage p).Sound := h.rest

theorem State.Sound.supersede {n lba : Nat} {v : BitVec 64} {issued : Bool} (h : s.Sound) : (s.supersede n lba v issued).Sound :=
  h.unstage

theorem State.Sound.stage {n lba : Nat} {data : Block} {r : CmdRef} {w : BitVec 32} {evid : Bool} (h : s.Sound) :
    (s.stage n lba data r w evid).Sound := by
  unfold State.stage
  extract_lets _ s1
  have h1 : s1.Sound := h.supersede
  exact h1.rest

/-! ### Forecast -/

theorem State.Sound.charge {o : ChargeOwner} {c : Class} {r : Res} {ns : Rat} (h : s.Sound) : (s.charge o c r ns).Sound :=
  .ite h h.rest

theorem State.Sound.worked {o : ChargeOwner} {r : Res} {ns : Rat} (h : s.Sound) : (s.worked o r ns).Sound :=
  h.rest

theorem State.Sound.modDie {d : Nat} {f : DieSt → DieSt} (h : s.Sound) : (s.modDie d f).Sound :=
  h.withMedia rfl length_at'

theorem State.Sound.programCharge {o : ChargeOwner} {c : Class} {bytes : Nat} (h : s.Sound) : (s.programCharge o c bytes).Sound :=
  h.charge.charge

theorem State.Sound.chargeDemand {o : ChargeOwner} {c : Class} {d : Demand} (h : s.Sound) : (s.chargeDemand o c d).Sound := by
  unfold State.chargeDemand
  extract_lets s1 s2 s3 s4
  have h1 : s1.Sound := h.foldl (fun _ ht _ => ht.charge)
  have h2 : s2.Sound := h1.foldl (fun _ ht _ => ht.charge)
  have h3 : s3.Sound := h2.charge.charge.charge
  have h4 : s4.Sound := h3.charge
  split
  · exact h4.charge
  · exact h4

theorem State.Sound.modBucket {f : Nat} {g : Bucket → Bucket} (h : s.Sound) : (s.modBucket f g).Sound :=
  h.rest

theorem State.Sound.fillBuckets (h : s.Sound) : s.fillBuckets.Sound := h.rest

theorem State.Sound.takeTokens {f len : Nat} (h : s.Sound) : (s.takeTokens f len).Sound :=
  h.fillBuckets.modBucket

theorem State.Sound.giveTokens {f len : Nat} (h : s.Sound) : (s.giveTokens f len).Sound :=
  h.fillBuckets.modBucket

theorem State.Sound.execTokenRefill (h : s.Sound) : AllNext State.Sound (execTokenRefill s) :=
  .next h.fillBuckets

theorem State.Sound.space {dies : List Nat} (h : s.Sound) : (s.space dies).Sound := h.rest

theorem State.Sound.reject {r : CmdRef} {st : Status} {reason w us : Nat} (h : s.Sound) : (s.reject r st reason w us).Sound := by
  unfold State.reject
  extract_lets words s1
  have h1 : s1.Sound := h.foldl fun _ ht _ => ht.setReg
  exact .finish (.count (.withVfs h1 length_at'))

theorem State.Sound.admitted {k : Cmd} {d : Demand} {prog len : Nat} (h : s.Sound) : (s.admitted k d prog len).Sound := by
  unfold State.admitted
  extract_lets s1 _ s2
  have h1 : s1.Sound := h.count64
  have h2 : s2.Sound := .addCmd (.ite h1.takeTokens.space h1.chargeDemand.programCharge)
  exact h2.rest

theorem State.Sound.admission {k : Cmd} {r : Option Resolved} {d : Demand} {tail : Class → Rat} {prog len from' : Nat} {check : State →
    Option Status} {ok : State → State} (h : s.Sound) (hok : ∀ t, t.Sound → (ok t).Sound) :
    (s.admission k r d tail prog len from' check ok).Sound := by
  unfold State.admission
  split
  · exact h.reject
  · extract_lets
    refine .ite (.ite h.reject (.ite h.reject (.ite h.reject (.ite h.reject (hok _ h.admitted))))) ?_
    refine .ite h.reject (.ite h.reject ?_)
    split
    · exact h.finish
    · exact hok _ h.admitted

theorem State.Sound.sliceWrite {v : Word} (h : s.Sound) : (sliceWrite v s).Sound := by
  unfold Machine.sliceWrite
  extract_lets _ _ _ s1
  have h1 : s1.Sound := h.fillBuckets
  exact .ite h h1.rest.modBucket

theorem State.Sound.sliceCond {m : Master} {v : Word} (h : s.Sound) : AllSome State.Sound (sliceCond m v s) :=
  .ite (.some h.setReg.refuse.raise) .none

theorem State.Sound.execAdmSliceWrite {m : Master} {v : Word} (h : s.Sound) : AllNext State.Sound (execAdmSliceWrite m v s) :=
  .next (h.write (fun _ ht => ht.sliceCond) (fun _ _ ht => ht.sliceWrite))

theorem State.Sound.admCtrlEffect {v : Word} {d : RegDef} (h : s.Sound) : (admCtrlEffect v d s).Sound := by
  unfold Machine.admCtrlEffect
  extract_lets s1
  have h1 : s1.Sound := h.store
  exact .ite h1.setField h1

theorem State.Sound.execLock {m : Master} {v : Word} (h : s.Sound) : AllNext State.Sound (execLock m v s) :=
  .next (h.write (fun _ _ => .none) (fun _ _ ht => ht.admCtrlEffect))

theorem State.Sound.cvalCond {m : Master} {v : Word} (h : s.Sound) : AllSome State.Sound (cvalCond m v s) :=
  .ite (.some h.refuse) .none

theorem State.Sound.cvalWrite {v : Word} (h : s.Sound) : (cvalWrite v s).Sound := .ite h h.rest

theorem State.Sound.execAdmCvalWrite {m : Master} {v : Word} (h : s.Sound) : AllNext State.Sound (execAdmCvalWrite m v s) :=
  .next (h.write (fun _ ht => ht.cvalCond) (fun _ _ ht => ht.cvalWrite))

theorem State.Sound.snapEffect {v : Word} (h : s.Sound) : (snapEffect v s).Sound :=
  .ite (h.foldl (fun _ ht _ => ht.setReg)) h

theorem State.Sound.execAdlSnap {m : Master} {v : Word} (h : s.Sound) : AllNext State.Sound (execAdlSnap m v s) :=
  .next (h.write (fun _ _ => .none) (fun _ _ ht => ht.snapEffect))

theorem State.Sound.setBufState {b : Nat} (h : s.Sound) : (s.setBufState b).Sound := by
  unfold State.setBufState
  extract_lets _ s1
  have h1 : s1.Sound := h.setField.setField
  exact .ite h1 h1.raise

theorem State.Sound.execGcdebtRefresh (h : s.Sound) : AllNext State.Sound (execGcdebtRefresh s) := by
  unfold Machine.execGcdebtRefresh
  extract_lets
  split
  · next e => exact .next (h.rest.setBuf.setReg.setReg.setField.setBufState.free.ofSnd e).setReg.setReg

/-! ### Stripes -/

theorem State.Sound.setFlash {die unit : Nat} {p : Option PageSet} (h : s.Sound) : (s.setFlash die unit p).Sound :=
  h.rest

theorem State.Sound.reconstruct {die unit : Nat} {more : List Nat} (h : s.Sound) : (s.reconstruct die unit more).2.Sound := by
  unfold State.reconstruct
  split
  · exact .snd h
  · split
    · exact .snd h
    · exact .snd (.ite h.count.raise h)

theorem State.Sound.readMembers {id : Nat} {cls : Class} {l : List (Nat × Nat × Nat)} (h : s.Sound) : (s.readMembers id cls l).Sound :=
  h.foldl (fun _ ht _ => ht.addReq)

theorem State.Sound.beginRecon {r : Req} {bad : List Nat} (h : s.Sound) : (s.beginRecon r bad).Sound := by
  unfold State.beginRecon
  extract_lets s1
  have h1 : s1.Sound := h.count.modReq
  split
  · exact h1
  · exact h1.readMembers

theorem State.Sound.fold {sseq : BitVec 64} {i : Nat} {m : Member} (h : s.Sound) : (s.fold sseq i m).Sound :=
  h.rest

theorem State.Sound.openStripe {way : Nat} {evid : Bool} (h : s.Sound) : (s.openStripe way evid).Sound := by
  unfold State.openStripe
  extract_lets _ _ _ s1
  have h1 : s1.Sound := h.clearProt
  exact h1.rest

theorem State.Sound.fillStripes (h : s.Sound) : s.fillStripes.Sound := by
  unfold State.fillStripes
  extract_lets
  refine .foldl (h.foldl (fun _ ht _ => .ite ht ht.openStripe)) (fun _ ht _ => ?_)
  refine .ite ?_ ht
  split
  · exact ht.openStripe
  · exact ht

theorem State.Sound.closing {x : Stripe} (h : s.Sound) : (s.closing x).2.Sound := by
  unfold State.closing
  split
  · next e => exact .snd (h.scanProt.ofSnd e)
  · next e => exact .snd (h.scanProt.ofSnd e).clearProt

theorem State.Sound.closeStripe {sseq : BitVec 64} (h : s.Sound) : (s.closeStripe sseq).Sound := by
  unfold State.closeStripe
  split
  · exact h
  · extract_lets
    refine .ite h.rest ?_
    split
    · next e =>
        extract_lets _ _ _ _ s1
        have h1 : s1.1.Sound := by
          dsimp only [s1]
          refine .foldlFst (.fst (h.rest.closing.ofSnd e)) (fun _ ht _ => ?_)
          extract_lets
          refine .iteFst ht ?_
          split
          · next e2 => exact .fst (ht.alloc.ofSnd e2)
          · next e2 => exact .fst (ht.alloc.ofSnd e2).addReq
        exact h1.rest

theorem State.Sound.settleStripe {sseq : BitVec 64} (h : s.Sound) : (s.settleStripe sseq).Sound := by
  unfold State.settleStripe
  split
  · exact h
  · exact .ite h.closeStripe.fillStripes h

theorem State.Sound.closeWhere {p : Stripe → Bool} (h : s.Sound) : (s.closeWhere p).Sound :=
  .fillStripes (h.foldl (fun _ ht _ => ht.rest.settleStripe))

theorem State.Sound.unmember {r : Req} (h : s.Sound) : (s.unmember r).Sound := by
  unfold State.unmember
  split
  · exact h
  · refine .ite h ?_
    extract_lets _ s1
    have h1 : s1.Sound := .ite h.fold h
    exact h1.rest.settleStripe

theorem State.Sound.takeMember {die stream : Nat} {mode : Mode} {evid : Bool} (h : s.Sound) :
    (s.takeMember die stream mode evid).2.Sound := by
  unfold State.takeMember
  split
  · exact .snd h
  · split
    · next e => exact .snd (h.alloc.ofSnd e)
    · next e =>
        have h1 := h.alloc.ofSnd e
        exact .snd h1.rest

/-! ### Ftl -/

theorem State.Sound.mapRelocs {f : Reloc → Reloc} (h : s.Sound) : (s.mapRelocs f).Sound := h.rest

theorem State.Sound.dropRelocs {p : Reloc → Bool} (h : s.Sound) : (s.dropRelocs p).Sound := h.rest

theorem State.Sound.addReloc {r : Reloc} (h : s.Sound) : (s.addReloc r).Sound := h.rest

theorem State.Sound.touch {u : Nat} (h : s.Sound) : (s.touch u).Sound := by
  unfold State.touch
  extract_lets s1
  have h1 : s1.Sound := h.dropRelocs
  exact h1.rest

theorem State.Sound.unfine {u : Nat} (h : s.Sound) : (s.unfine u).Sound := .ite h.returnGroup h

theorem State.Sound.promoteQuiet {u pool : Nat} (h : s.Sound) : AllSome (fun x => x.2.Sound) (s.promoteQuiet u pool) := by
  unfold State.promoteQuiet
  refine .ite (.some (.snd h)) ?_
  split
  · exact .none
  · exact .some (.snd (.setCoarse (h.drawGroup.foldl (fun _ ht _ => ht.setFine))))

theorem State.Sound.promote {nsid u pool : Nat} (h : s.Sound) : (s.promote nsid u pool).2.Sound := by
  unfold State.promote
  refine .iteSnd (.snd h) ?_
  split
  · exact .snd h
  · next e => exact .snd (h.promoteQuiet.of_eq e).commit

theorem State.Sound.mapCoarse {nsid u die unit : Nat} {e : BitVec 32} (h : s.Sound) : (s.mapCoarse nsid u die unit e).Sound :=
  h.unfine.setCoarse.commit

theorem State.Sound.mapFine {nsid lba slot : Nat} {e : BitVec 32} (h : s.Sound) : (s.mapFine nsid lba slot e).Sound :=
  h.setFine.commit

theorem State.Sound.loseIn {nsid lba nlb cause : Nat} (h : s.Sound) : (s.loseIn nsid lba nlb cause).Sound := by
  unfold State.loseIn
  extract_lets _ s1
  have h1 : s1.Sound := by
    dsimp only [s1]
    refine .ite h.setCoarse ?_
    split
    · next e => exact (h.promote.ofSnd e).foldl (fun _ ht _ => ht.setFine)
    · next e => exact (h.promote.ofSnd e).setCoarse
  exact h1.commit.count

theorem State.Sound.loseRun {nsid lba nlb cause : Nat} (h : s.Sound) : (s.loseRun nsid lba nlb cause).Sound :=
  h.foldl (fun _ ht _ => ht.loseIn)

theorem State.Sound.loseBlocks {l : List (Nat × Nat)} {cause : Nat} (h : s.Sound) : (s.loseBlocks l cause).Sound :=
  h.foldl (fun _ ht _ => ht.loseRun)

theorem State.Sound.deallocUnit {x : State × Bool × Bool} {nsid u a b : Nat} (h : x.1.Sound) :
    (State.deallocUnit x nsid u a b).1.Sound :=
  .iteFst (.fst (.touch (.setCoarse (.unfine (h.foldl (fun _ ht _ => ht.rest.supersede)))))) (.iteFst (.fst (.touch (.foldl (h.foldl (fun _
      ht _ => ht.rest.supersede)) (fun _ ht _ => ht.setFine)))) h)

theorem State.Sound.deallocate {nsid lba nlb : Nat} (h : s.Sound) : (s.deallocate nsid lba nlb).Sound := by
  unfold State.deallocate
  extract_lets
  refine .ite h ?_
  split
  · next e =>
      have h1 := State.Sound.fstOf e (.foldlFst (.fst h) (fun _ ht _ => ht.deallocUnit))
      exact .ite h1 h1.commit

theorem State.Sound.unmapNs {base units : Nat} (h : s.Sound) : (s.unmapNs base units).Sound :=
  h.foldl (fun _ ht _ => ht.unfine.setCoarse.touch)

theorem State.Sound.republish (h : s.Sound) : s.republish.Sound := h.rest

theorem State.Sound.closeAppend {p : AppendRec → Bool} (h : s.Sound) : (s.closeAppend p).Sound :=
  h.rest.republish

theorem State.Sound.markTold {f : Fun} {got : List (Nat × Nat × Option Block)} (h : s.Sound) : (s.markTold f got).Sound :=
  h.modLogs

theorem State.Sound.settle (h : s.Sound) : s.settle.Sound := by
  unfold State.settle
  refine .foldl h (fun _ ht _ => ?_)
  split
  · refine .ite ?_ (.ite (.finish (.ite ht.closeAppend ht)) ht)
    split
    · exact ht.markTold.finish
    · exact ht.finish
  · exact ht

theorem State.Sound.markIssued {vs : List (Nat × Nat × BitVec 64)} {b : Bool} (h : s.Sound) : (s.markIssued vs b).Sound :=
  h.rest

theorem State.Sound.programBlocks {die : Nat} {cls : Class} {owner : ReqOwner} {evid : Bool} {stream : Nat} {mode : Mode} {nsid : Nat}
    {unit0 : Option Nat} {lost : List Nat} {words : List Block} {blocks : List (Nat × Nat × BitVec 64)} {old : Word} (h : s.Sound) :
    (s.programBlocks die cls owner evid stream mode nsid unit0 lost words blocks old).2.Sound := by
  have h1 : (if s.keepsReserve die stream owner then s.takeMember die stream mode evid else (none, s)).2.Sound :=
    .iteSnd h.takeMember h
  unfold State.programBlocks
  split
  · next e => exact h1.ofSnd e
  · next e => exact (h1.ofSnd e).rest.addReq

theorem State.Sound.programEvid {die : Nat} {r : CmdRef} (h : s.Sound) : (s.programEvid die r).Sound := by
  unfold State.programEvid
  extract_lets x1
  clear_value x1
  split
  · exact h
  · extract_lets
    split
    · next e => exact h.programBlocks.ofSnd e
    · next e =>
        extract_lets s2
        have h2 : s2.Sound := (h.programBlocks.ofSnd e).markIssued.modCmd
        exact h2.rest.space

theorem State.Sound.placeEvid (h : s.Sound) : s.placeEvid.Sound := by
  unfold State.placeEvid
  split
  · exact h
  · split
    · exact h.programEvid
    · exact h

theorem State.Sound.placeFine {a : State × List JRec × List (Nat × Nat × BitVec 64)} {r : Req} {e : BitVec 32} {pool i : Nat} (h :
    a.1.Sound) : (State.placeFine a r e pool i).1.Sound := by
  unfold State.placeFine
  extract_lets
  refine .iteFst h ?_
  split
  · exact .fst h
  · next e => exact .fst (h.promoteQuiet.of_eq e).setFine.dropRelocs.supersede

theorem State.Sound.mapStaged {a : State × List JRec} {r : Req} (h : a.1.Sound) : (State.mapStaged a r).1.Sound := by
  unfold State.mapStaged
  extract_lets
  split
  · exact h
  · extract_lets
    refine .iteFst (.iteFst (.fst (h.unfine.setCoarse.dropRelocs.foldl (fun _ ht _ => ht.supersede))) (.fst h.markIssued)) ?_
    split
    · next e => exact .fst ((State.Sound.fstOf e (.foldlFst (.fst h) (fun _ ht _ => ht.placeFine)))).markIssued

theorem State.Sound.commitTogether {l : List Req} (h : s.Sound) : (s.commitTogether l).Sound := by
  unfold State.commitTogether
  split
  · next e =>
      have h1 := State.Sound.fstOf e (.foldlFst (.fst h) (fun _ ht _ => ht.mapStaged))
      exact .settle (.ite h1 h1.commit)

theorem State.Sound.commitParked (h : s.Sound) : s.commitParked.Sound := by
  unfold State.commitParked
  refine .foldl h (fun _ ht _ => ?_)
  refine .ite ht ?_
  split
  · exact ht
  · exact ht.rest.commitTogether

theorem State.Sound.commitStaged {r : Req} {p : PageSet} (h : s.Sound) : (s.commitStaged r p).Sound :=
  .ite h.rest.commitParked h.commitTogether

theorem State.Sound.unpark (h : s.Sound) : s.unpark.Sound := by
  unfold State.unpark
  extract_lets s1
  have h1 : s1.Sound := h.foldl (fun _ ht _ => ht.markIssued)
  exact h1.rest

theorem State.Sound.drainUnit {d : Nat} (h : s.Sound) : (s.drainUnit d).Sound := by
  unfold State.drainUnit
  split
  · refine .ite h ?_
    extract_lets u mine cls word start e
    split
    · extract_lets go
      have hgo (t : State) (ht : t.Sound) (unit0 : Option Nat) (lost : List Nat) (words : List Block) (bs : List Staged) :
          (go unit0 lost words bs t).Sound := by
        unfold go
        split
        · next e => exact ht.programBlocks.ofSnd e
        · next e => exact (ht.programBlocks.ofSnd e).markIssued
      clear_value go
      refine .ite (hgo s h ..) (.ite ?_ (.ite (.ite h h.addReq.markIssued) (hgo s h ..)))
      split
      · next e => exact hgo _ (h.promote.ofSnd e) ..
      · next e => exact hgo _ (h.promote.ofSnd e) ..
  · exact h

theorem State.Sound.execStagingDrain {die : Die} (h : s.Sound) : AllNext State.Sound (execStagingDrain die s) := by
  unfold Machine.execStagingDrain
  extract_lets _ s1
  have h1 : s1.Sound := .ite h h.commitParked
  refine .ite (.next h1) (.ite ?_ (.next h1.drainUnit))
  split
  · exact .ite (.next h1.programEvid) (.next h1)
  · exact .next h1

theorem State.Sound.giveUp {p : Reloc → Bool} (h : s.Sound) : (s.giveUp p).Sound := by
  unfold State.giveUp
  extract_lets _ _ s1
  have h1 : s1.Sound := h.dropRelocs
  exact h1.rest

theorem State.Sound.abortReloc {die block : Nat} (h : s.Sound) : (s.abortReloc die block).Sound := by
  unfold State.abortReloc
  extract_lets s1
  have h1 : s1.Sound := h.giveUp
  exact h1.rest

theorem State.Sound.stepReloc {die block : Nat} (h : s.Sound) : (s.stepReloc die block).Sound :=
  .ite h (.ite h.abortReloc h.mapRelocs)

theorem State.Sound.endPass (h : s.Sound) : s.endPass.Sound := by
  unfold State.endPass
  split
  · exact h.setField.setReg.rest
  · exact h

theorem State.Sound.patrolled {gone : Nat → Bool} (h : s.Sound) : (s.patrolled gone).Sound := by
  unfold State.patrolled
  split
  · exact h.rest.setField.endPass
  · exact h

theorem State.Sound.startReloc {why : RelocWhy} {die block : Nat} {cls : Class} (h : s.Sound) :
    (s.startReloc why die block cls).Sound :=
  .ite h (.stepReloc (.foldl (.patrolled (.addReloc (.ite h.modBlk h))) (fun _ ht _ => ht.addReq)))

theorem State.Sound.programCopies {why : RelocWhy} {die block : Nat} {cls : Class} {lost : List Nat} {words : List Block} {blocks : List
    (Nat × Nat × BitVec 64)} (h : s.Sound) : (s.programCopies why die block cls lost words blocks).2.Sound := by
  unfold State.programCopies
  split
  · exact h.programBlocks
  · exact .snd h

theorem State.Sound.relocFine {a : State × List JRec} {r : Req} {t : UnitTag} {i : Nat} (h : a.1.Sound) :
    (State.relocFine a r t i).1.Sound :=
  .iteFst (.iteFst (.fst h.setFine) (.fst h.setFine)) h

theorem State.Sound.commitReloc {r : Req} {p : PageSet} (h : s.Sound) : (s.commitReloc r p).Sound := by
  unfold State.commitReloc
  extract_lets
  refine .ite (.ite h.setCoarse.commit h) ?_
  split
  · next e =>
      have h1 := State.Sound.fstOf e (.foldlFst (.fst h) (fun _ ht _ => ht.relocFine))
      exact .ite h1 h1.commit

theorem State.Sound.commitDemote {r : Req} {p : PageSet} (h : s.Sound) : (s.commitDemote r p).Sound :=
  .ite h.dropRelocs.unfine.setCoarse.commit h

theorem State.Sound.relocRead {r : Req} {why : RelocWhy} {die block : Nat} {word : Nat → Option Block} (h : s.Sound) :
    (s.relocRead r why die block word).Sound := by
  unfold State.relocRead
  extract_lets s1
  have h1 : s1.Sound := h.dropReq
  refine .ite ?_ ?_
  · split
    · exact h1
    · extract_lets _ s2
      have h2 : s2.Sound := h1.mapRelocs
      split
      · exact h2
      · refine .ite h2 (.ite h2.dropRelocs.loseBlocks ?_)
        extract_lets
        split
        · next e => exact h2.programCopies.ofSnd e
        · next e => exact (h2.programCopies.ofSnd e).dropRelocs
  · refine .ite h1.loseBlocks.stepReloc ?_
    split
    · next e =>
        have h3 := State.Sound.sndOf e (.iteSnd h1.programCopies h1.loseBlocks.programCopies)
        exact .ite h3 (.ite h3.addReq h3.abortReloc)

theorem State.Sound.unhouse {kind die block : Nat} (h : s.Sound) : (s.unhouse kind die block).Sound := h.rest

theorem State.Sound.house {h : House} (hs : s.Sound) : (s.house h).Sound := hs.rest

theorem State.Sound.houseAdmit {kind die block : Nat} {cls : Class} {d : Demand} {bytes : Nat} {go : State → State} (h : s.Sound) (hgo :
    ∀ t, t.Sound → (go t).Sound) : (s.houseAdmit kind die block cls d bytes go).Sound := by
  unfold State.houseAdmit
  extract_lets _ _ s1
  have h1 : s1.Sound := h.unhouse.uncharge.chargeDemand.programCharge
  refine .ite h (.ite ?_ (.ite h.unhouse.house (hgo _ h.unhouse.uncharge.chargeDemand.programCharge)))
  split
  · exact .ite h (hgo _ h.unhouse)
  · exact .ite h1.house (hgo _ h1)

theorem State.Sound.houseReloc {kind die block : Nat} {cls : Class} {why : RelocWhy} (h : s.Sound) :
    (s.houseReloc kind die block cls why).Sound :=
  h.houseAdmit (fun _ ht => ht.startReloc)

theorem State.Sound.collect {die block : Nat} (h : s.Sound) : (s.collect die block).Sound :=
  .ite h.houseReloc h

theorem State.Sound.execGarbageCollection {die : Die} {block : Nat} (h : s.Sound) :
    AllNext State.Sound (execGarbageCollection die block s) :=
  .next h.collect

theorem State.Sound.foldBlock {die block : Nat} (h : s.Sound) : (s.foldBlock die block).Sound :=
  .ite h h.houseReloc

theorem State.Sound.execFolding {die : Die} {block : Nat} (h : s.Sound) : AllNext State.Sound (execFolding die block s) :=
  .next h.foldBlock

theorem State.Sound.gather {u n l : Nat} {cls : Class} {reads : List (Nat × Nat)} (h : s.Sound) : (s.gather u n l cls reads).Sound := by
  unfold State.gather
  extract_lets _ s1
  have h1 : s1.Sound := h.addReloc
  refine .ite ?_ (h1.foldl (fun _ ht _ => ht.addReq))
  split
  · next e => exact h1.programCopies.ofSnd e
  · next e => exact (h1.programCopies.ofSnd e).dropRelocs

theorem State.Sound.demoteUnit {u : Nat} (h : s.Sound) : (s.demoteUnit u).Sound := by
  unfold State.demoteUnit
  split
  · exact h
  · exact .ite (h.houseAdmit (fun _ ht => ht.gather)) h

theorem State.Sound.execDemotion {unit : Nat} (h : s.Sound) : AllNext State.Sound (execDemotion unit s) :=
  .next h.demoteUnit

theorem State.Sound.execBlockErase {die : Die} {block : Nat} (h : s.Sound) : AllNext State.Sound (execBlockErase die block s) := by
  unfold Machine.execBlockErase
  extract_lets s1
  have h1 : s1.Sound := h.stepReloc
  exact .ite (.next h1.mapRelocs.modBlk.addReq) (.next h1)

theorem State.Sound.placeCopies (h : s.Sound) : s.placeCopies.Sound := by
  unfold State.placeCopies
  refine .foldl h (fun _ ht _ => ?_)
  extract_lets s1
  have h1 : s1.Sound := .ite ht ht.programCopy
  exact .ite h1 h1.programCopy

theorem State.Sound.execJournalPageTimer (h : s.Sound) : AllNext State.Sound (execJournalPageTimer s) :=
  .ite (.next h.placeCopies) (.next h.placeCopies.seal)

theorem State.Sound.freeRegion (h : s.Sound) : s.freeRegion.Sound := h.foldl (fun _ ht _ => ht.startReloc)

theorem State.Sound.completeCkpt {p : JPage} (h : s.Sound) : (s.completeCkpt p).Sound := by
  unfold State.completeCkpt
  split
  · exact h
  · exact .ite h.rest h

theorem State.Sound.reusePages (h : s.Sound) : s.reusePages.Sound := by
  unfold State.reusePages
  split
  · exact h.rest
  · exact h

theorem State.Sound.eraseRecord {r : Reloc} (h : s.Sound) : (s.eraseRecord r).Sound :=
  .ite h.dropRelocs h.modBlk.commit.mapRelocs

theorem State.Sound.execJournalPageDurable (h : s.Sound) : AllNext State.Sound (execJournalPageDurable s) := by
  unfold Machine.execJournalPageDurable
  split
  · exact .next h
  · exact .ite (.next h) (.next (h.rest.completeCkpt.reusePages.freeRegion.foldl (fun _ ht _ => ht.eraseRecord)))

theorem State.Sound.ckptProgram {slot : Nat} {c : Ckpt} {k : Nat} (h : s.Sound) : (s.ckptProgram slot c k).2.Sound := by
  unfold State.ckptProgram
  split
  · exact .snd h
  · split
    · exact .snd h
    · next e =>
        have h1 := h.takeMember.ofSnd e
        exact .snd h1.rest.addReq

theorem State.Sound.ckptPump (h : s.Sound) : s.ckptPump.Sound := by
  unfold State.ckptPump
  split
  · exact h
  · extract_lets
    refine .ite h (.ite h.uncharge.commit (.foldl h (fun _ ht _ => ?_)))
    split
    · next e =>
        have h1 := ht.ckptProgram.ofSnd e
        exact h1.rest
    · next e => exact ht.ckptProgram.ofSnd e

theorem State.Sound.ckptDone {slot die unit : Nat} (h : s.Sound) : (s.ckptDone slot die unit).Sound :=
  h.rest.ckptPump

theorem State.Sound.ckptAgain {slot k : Nat} (h : s.Sound) : (s.ckptAgain slot k).Sound := h.rest

theorem State.Sound.beginCkpt (h : s.Sound) : s.beginCkpt.Sound := by
  unfold State.beginCkpt
  extract_lets s1
  have h1 : s1.Sound := .ite h h.seal
  exact h1.rest.ckptPump

theorem State.Sound.ckptStep {cls : Class} (h : s.Sound) : (s.ckptStep cls).Sound :=
  h.houseAdmit (fun _ ht => ht.beginCkpt)

theorem State.Sound.execCheckpointBegin (h : s.Sound) : AllNext State.Sound (execCheckpointBegin s) :=
  .ite (.next h.ckptPump) (.ite (.next h.ckptStep) (.ite (.next h) (.next h.ckptStep)))

/-! ### Care -/

theorem State.Sound.smartEvent {warn info : Nat} (h : s.Sound) : (s.smartEvent warn info).Sound :=
  h.foldl (fun _ ht _ => .ite ht.asyncEvent ht)

theorem State.Sound.updateLife (h : s.Sound) : s.updateLife.Sound := by
  unfold State.updateLife
  extract_lets _ _ _ _ s1 s2 s3
  have h1 : s1.Sound := h.setReg.setReg
  have h2 : s2.Sound := h1.showEvSpare
  have h3 : s3.Sound := .ite h2.setField.raise.smartEvent h2
  exact .ite h3.setField.raise.smartEvent h3

theorem State.Sound.moveRetired {die block : Nat} (h : s.Sound) : (s.moveRetired die block).Sound :=
  .ite h.unhouse h.houseReloc

theorem State.Sound.retireBlock {die block : Nat} (h : s.Sound) : (s.retireBlock die block).Sound :=
  .ite h h.modBlk.rest.count.raise.updateLife.moveRetired

theorem State.Sound.countRefresh (h : s.Sound) : s.countRefresh.Sound :=
  .ite h.setReg (.ite h.setReg h.setReg.raise)

theorem State.Sound.refreshBlock {die block : Nat} {cls : Class} (h : s.Sound) : (s.refreshBlock die block cls).Sound := by
  unfold State.refreshBlock
  extract_lets
  split
  · exact h.unhouse.foldl (fun _ ht _ => ht.addReq)
  · exact .ite h.unhouse h.houseReloc

theorem State.Sound.refresh {die block : Nat} {cls : Class} (h : s.Sound) : (s.refresh die block cls).Sound :=
  .ite h h.modBlk.countRefresh.refreshBlock

theorem State.Sound.execHousekeepingRetry (h : s.Sound) : AllNext State.Sound (execHousekeepingRetry s) := by
  unfold Machine.execHousekeepingRetry
  split
  · exact .next h
  · extract_lets s1
    have h1 : s1.Sound := .ite h h.unhouse
    refine .next ?_
    split
    · exact h1.collect
    · exact h1.foldBlock
    · exact h1.demoteUnit
    · exact h1.refreshBlock
    · exact h1.moveRetired
    · exact h1.ckptStep

theorem State.Sound.execPatrolPassStart (h : s.Sound) : AllNext State.Sound (execPatrolPassStart s) :=
  .ite (.next h) (.next h.rest.setField.endPass)

theorem State.Sound.execPatrolLate (h : s.Sound) : AllNext State.Sound (execPatrolLate s) := by
  unfold Machine.execPatrolLate
  split
  · exact .ite (.next h) (.next h.setField.raise)
  · exact .next h

theorem State.Sound.countDecode {die : Nat} {r : ReadResult} (h : s.Sound) : (s.countDecode die r).Sound := by
  unfold State.countDecode
  extract_lets
  split
  · exact h.count64.count64
  · exact h.count64.count64.count.count
  · exact h.count
  · exact h
  · exact h.count64.count.count.raise

theorem State.Sound.careOf {die unit : Nat} {r : ReadResult} {patrol : Bool} (h : s.Sound) : (s.careOf die unit r patrol).Sound := by
  unfold State.careOf
  extract_lets
  split
  · exact .ite h.refresh h
  · exact .ite h.modBlk.refresh h.modBlk
  · exact h
  · exact h.refresh

theorem State.Sound.execPatrolRead {ch : Chan} {way : Fin 8} {block page : Nat} (h : s.Sound) :
    AllNext State.Sound (execPatrolRead ch way block page s) := by
  unfold Machine.execPatrolRead
  extract_lets
  split
  · exact .ite (.next h) (.ite (.next h.patrolled) (.ite (.next h) (.next h.addReq)))
  · exact .next h

theorem State.Sound.patrolEnd {r : Req} {bad : List Nat} (h : s.Sound) : (s.patrolEnd r bad).Sound :=
  h.dropReq.loseBlocks.patrolled

theorem State.Sound.mcCtrlCond {m : Master} {v : Word} (h : s.Sound) : AllSome State.Sound (mcCtrlCond m v s) :=
  .ite (.some h.refuse) .none

theorem State.Sound.mcRefreshWrite {v : Word} (h : s.Sound) : (mcRefreshWrite v s).Sound := .ite h.setReg h

/-! ### Red -/

theorem State.Sound.deferFault {f : Fun} {nsid slba nlb cause : Nat} (h : s.Sound) : (s.deferFault f nsid slba nlb cause).Sound :=
  .ite h.modLogs h.modLogs.rest.asyncEvent

theorem State.Sound.syncRed (h : s.Sound) : s.syncRed.Sound :=
  h.setField.setField.setField.setField.setField.setReg.cause

theorem State.Sound.programSifj {c : Sifj} {copyB : Bool} {die k : Nat} {page : List Byte} (h : s.Sound) :
    (s.programSifj c copyB die k page).Sound := by
  unfold State.programSifj
  split
  · next e => exact h.alloc.ofSnd e
  · next e => exact (h.alloc.ofSnd e).addReq

theorem State.Sound.writeSifj (h : s.Sound) : s.writeSifj.Sound := by
  unfold State.writeSifj
  split
  · exact h
  · exact h.rest.foldl (fun _ ht _ => ht.foldl (fun _ ht2 _ => ht2.programSifj))

theorem State.Sound.sifjDone {r : Req} {seq : BitVec 64} {copyB : Bool} (h : s.Sound) : (s.sifjDone r seq copyB).Sound := by
  unfold State.sifjDone
  split
  · exact h
  · refine .ite h ?_
    extract_lets _ _ _ _ _ _ _ s1
    have h1 : s1.Sound := .ite h.rest (.ite h.rest.rest.rest h.rest.rest.rest)
    exact .ite h1.rest.setReg.count h1

theorem State.Sound.sifjAgain {seq : BitVec 64} (h : s.Sound) : (s.sifjAgain seq).Sound := .ite h.writeSifj h

theorem State.Sound.execSifjWrite (h : s.Sound) : AllNext State.Sound (execSifjWrite s) :=
  .ite (.next h.writeSifj) (.next h)

theorem State.Sound.rebuildRead {die unit : Nat} {o : ReqOwner} {blocks : List (Nat × Nat × BitVec 64)} (h : s.Sound) :
    (s.rebuildRead die unit o blocks).Sound :=
  h.addReq.beginRecon

theorem State.Sound.failAppends {bs : List (Nat × Nat)} (h : s.Sound) : (s.failAppends bs).Sound := by
  unfold State.failAppends
  refine .foldl h (fun _ ht _ => ?_)
  split
  · exact ht
  · extract_lets s1
    have h1 : s1.Sound := ht.unstage.loseRun.closeAppend
    exact .ite h1.finish h1

theorem State.Sound.tripleLoss {sseq : BitVec 64} {die unit : Nat} {isOpen evid : Bool} (h : s.Sound) :
    (s.tripleLoss sseq die unit isOpen evid).Sound := by
  unfold State.tripleLoss
  extract_lets _ _ _ _ s1
  have h1 : s1.Sound := h.rest.loseBlocks.failAppends
  exact .raise (.ite (h1.foldl (fun _ ht _ => ht.deferFault)) h1)

theorem State.Sound.moveStripe {sseq : BitVec 64} (h : s.Sound) : (s.moveStripe sseq).Sound := by
  unfold State.moveStripe
  split
  · exact h
  · exact h.foldl (fun _ ht _ => .ite ht ht.addReq)

theorem State.Sound.placeMember {k : Nat} {p : PageSet} {h : StripeHdr} (hs : s.Sound) : (s.placeMember k p h).Sound := by
  unfold State.placeMember
  extract_lets
  split
  · exact hs.addReq
  · split
    · extract_lets s1
      have h1 : s1.Sound := hs.modBlk.note
      exact .addReq (.ite h1.rest.writeSifj h1.rest)
    · exact hs
  · exact .ite hs.rebuildRead hs.moveStripe

theorem State.Sound.rebuildEnd {r : Req} {k : Nat} (h : s.Sound) : (s.rebuildEnd r k).Sound := by
  unfold State.rebuildEnd
  extract_lets s1
  have h1 : s1.Sound := h.dropReq
  refine .ite h1 ?_
  split
  · exact h1
  · split
    · next e => exact (h1.reconstruct.ofSnd e).placeMember
    · next e => exact (h1.reconstruct.ofSnd e).tripleLoss.moveStripe

theorem State.Sound.rebuildNext (h : s.Sound) : s.rebuildNext.Sound := by
  unfold State.rebuildNext
  split
  · exact h
  · extract_lets
    refine .ite h.rest (.ite h.rest.addReq ?_)
    split
    · exact h.rest
    · exact h.rest.rest.addReq.readMembers

theorem State.Sound.pumpRebuild (h : s.Sound) : s.pumpRebuild.Sound :=
  .ite h (h.foldl (fun _ ht _ => .ite ht ht.rebuildNext))

theorem State.Sound.dropSpare {k : Nat} (h : s.Sound) : (s.dropSpare k).Sound := h.rest.rest

theorem State.Sound.replan {r : Req} (h : s.Sound) : (s.replan r).Sound := by
  unfold State.replan
  extract_lets s2
  have h2 : s2.Sound := h.unmember.dropReq
  clear_value s2
  cases r.owner with
  | drain => exact h2.markIssued
  | evid => exact h2.markIssued.placeEvid
  | reloc => exact .ite h2.dropRelocs (.stepReloc (h2.foldl (fun _ ht _ => ht.addReq)))
  | journal q copyB =>
    dsimp only
    split
    · exact h2.rest.programCopy
    · exact h2.rest
  | ckpt => exact h2.ckptAgain.ckptPump
  | sifj => exact h2.sifjAgain
  | rebuild => exact h2.dropSpare
  | parity =>
    dsimp only
    split
    · split
      · next e => exact (h2.alloc.ofSnd e).addReq
      · next e => exact h2.alloc.ofSnd e
    · exact h2
  | zero => exact h2.rest.unstage
  | cmd | exec | merge | patrol | late | recon => exact h2

theorem State.Sound.retireDie {die : Nat} (h : s.Sound) : (s.retireDie die).Sound := h.rest

theorem State.Sound.emptyTriples (h : s.Sound) : s.emptyTriples.Sound := .ite h h.rest.syncRed

theorem State.Sound.failDie {die : Nat} (h : s.Sound) : (s.failDie die).Sound := by
  unfold State.failDie
  refine .ite h ?_
  extract_lets _ _ _ _ _ _ _ _ s1 _ s2 _ _ s3 _ _ _ s4 s5
  have h1 : s1.Sound := h.rest.rest.setReg.raise
  clear_value s1
  have h2 : s2.Sound := h1.setField.retireDie
  clear_value s2
  have h3 : s3.Sound := h2.modDie.foldl (fun _ ht _ => .ite ht.replan ht.dropReq)
  clear_value s3
  have h4 : s4.Sound := h3.rest.foldl (fun _ ht _ => .ite ht.rebuildRead ht.tripleLoss)
  clear_value s4
  have h5 : s5.Sound := h4.closeWhere
  clear_value s5
  exact .pumpRebuild (.syncRed (.ite h5.rest.rest.raise h5.rest.rest))

theorem State.Sound.execMemberFailed {die : Die} (h : s.Sound) : AllNext State.Sound (execMemberFailed die s) :=
  .ite (.next h.failDie.settle) (.next h)

theorem State.Sound.redFailCond {m : Master} {v : Word} (h : s.Sound) : AllSome State.Sound (redFailCond m v s) :=
  .ite .none (.ite (.some h.refuse) (.ite (.some h.refuse) .none))

theorem State.Sound.redFailEffect {v : Word} (h : s.Sound) : (redFailEffect v s).Sound :=
  .ite h.failDie.settle h

theorem State.Sound.execRedFailDeclare {m : Master} {v : Word} (h : s.Sound) : AllNext State.Sound (execRedFailDeclare m v s) :=
  .next (h.write (fun _ ht => ht.redFailCond) (fun _ _ ht => ht.redFailEffect))

theorem State.Sound.execRebuildFloor (h : s.Sound) : AllNext State.Sound (execRebuildFloor s) :=
  .ite (.next h) (.next h.rest.syncRed.raise.pumpRebuild)

theorem State.Sound.execRebuildDone (h : s.Sound) : AllNext State.Sound (execRebuildDone s) := by
  unfold Machine.execRebuildDone
  refine .ite (.next h) ?_
  extract_lets _ s1 s2
  have h1 : s1.Sound := h.rest.writeSifj
  have h2 : s2.Sound := .ite h1 h1.ckptStep
  exact .next h2.rest.syncRed.emptyTriples.raise

theorem State.Sound.redCtrlEffect {v : Word} {d : RegDef} (h : s.Sound) : (redCtrlEffect v d s).Sound := by
  unfold Machine.redCtrlEffect
  extract_lets s1 s2
  have h1 : s1.Sound := h.store
  have h2 : s2.Sound := .ite h1.setField h1
  exact .ite (.ite h2 h2.rest.writeSifj.syncRed) (.ite h2.rest.syncRed.pumpRebuild h2)

theorem State.Sound.execRbPause {m : Master} {v : Word} (h : s.Sound) : AllNext State.Sound (execRbPause m v s) :=
  .next (h.write (fun _ _ => .none) (fun _ _ ht => ht.redCtrlEffect))

/-! ### Media -/

theorem State.Sound.modChan {ch : Nat} {f : Channel → Channel} (h : s.Sound) : (s.modChan ch f).Sound :=
  h.withMedia length_at' rfl

theorem State.Sound.modSeq {ch : Nat} {f : Sequencer → Sequencer} (h : s.Sound) : (s.modSeq ch f).Sound :=
  h.modChan

theorem State.Sound.reloadSeq {ch : Nat} (h : s.Sound) : (s.reloadSeq ch).Sound := h.setField.modChan

theorem State.Sound.execQuietRotation (h : s.Sound) : AllNext State.Sound (execQuietRotation s) := by
  unfold Machine.execQuietRotation
  extract_lets
  split
  · exact .ite (.next h) (.next h.rest.closeWhere)
  · exact .ite (.next h) (.next h.rest)
  · exact .next h

theorem State.Sound.execQuietJoin (h : s.Sound) : AllNext State.Sound (execQuietJoin s) := by
  unfold Machine.execQuietJoin
  split
  · exact .next h
  · exact .ite (.next h) (.next h.rest.closeWhere.placeEvid)

theorem State.Sound.hand {ch : Nat} {d : Desc} (h : s.Sound) : (s.hand ch d).Sound := h.modSeq

theorem State.Sound.senseWith {r : Req} {p : PageSet} (h : s.Sound) : (s.senseWith r p).Sound :=
  h.modReq.deliver

theorem State.Sound.senseNone {r : Req} (h : s.Sound) : (s.senseNone r).Sound := h.modReq

theorem State.Sound.concludeRead {r : Req} {p : Option PageSet} (h : s.Sound) : (s.concludeRead r p).Sound := by
  unfold State.concludeRead
  split
  · exact h.patrolEnd
  · split
    · exact h.modReq.senseWith
    · split
      · exact .ite h.senseWith h.senseNone
      · exact h.senseNone

theorem State.Sound.finishRecon {id : Nat} (h : s.Sound) : (s.finishRecon id).Sound := by
  unfold State.finishRecon
  split
  · exact h
  · refine .ite h ?_
    split
    · exact h.rebuildEnd.pumpRebuild
    · exact h.reconstruct.concludeRead

theorem State.Sound.reconPart {r : Req} {id : Nat} {ok : Bool} (h : s.Sound) : (s.reconPart r id ok).Sound := by
  unfold State.reconPart
  extract_lets s1
  have h1 : s1.Sound := h.dropReq
  split
  · exact h1
  · refine .ite h1.finishRecon ?_
    split
    · exact h1.finishRecon
    · exact h1.modReq.readMembers.finishRecon

theorem State.Sound.readBack {r : Req} {k : Nat} {ok : Bool} (h : s.Sound) : (s.readBack r k ok).Sound := by
  unfold State.readBack
  extract_lets s1
  have h1 : s1.Sound := h.dropReq
  exact .pumpRebuild (.ite h1.count.syncRed h1.dropSpare.retireBlock)

theorem State.Sound.readDone' {r : Req} {p : Option PageSet} {bad : List Nat} (h : s.Sound) : (s.readDone' r p bad).Sound := by
  unfold State.readDone'
  split
  · exact h.reconPart
  · exact h.readBack
  · exact h.concludeRead
  · exact h.beginRecon.finishRecon

theorem State.Sound.execMediaSchedule {die : Die} (h : s.Sound) : AllNext State.Sound (execMediaSchedule die s) := by
  unfold Machine.execMediaSchedule
  extract_lets _ _ s1
  have h1 : s1.Sound := .ite h.reloadSeq h
  refine .ite (.next h1) ?_
  split
  · exact .next h1.finishRecon
  · refine .ite ?_ ?_
    · split
      · exact .next h1
      · exact .ite (.next h1.readDone') (.next h1.modReq)
    · refine .ite (.next h1) (.ite ?_ ?_)
      · split
        · exact .ite (.next h1.hand) (.next h1)
        · exact .next h1
      · refine .ite ?_ ?_
        · split
          · exact .next h1.modReq.hand
          · exact .next h1.hand
        · split
          · exact .next h1.modReq.hand
          · exact .next h1

theorem State.Sound.takeBuf {ch id : Nat} (h : s.Sound) : AllSome State.Sound (s.takeBuf ch id) := by
  unfold State.takeBuf
  extract_lets
  refine .ite (.some h) ?_
  split
  · exact .some h.clearProt.modChan
  · exact .none

theorem State.Sound.waitBuf {ch id : Nat} (h : s.Sound) : (s.waitBuf ch id).Sound := h.modChan

theorem State.Sound.execPageBufferFree {ch : Chan} {buf : Fin 2} (h : s.Sound) : AllNext State.Sound (execPageBufferFree ch buf s) := by
  unfold Machine.execPageBufferFree
  extract_lets
  split
  · exact .next h
  · exact .ite (.next h) (.next h.clearProt.modChan)

theorem State.Sound.bufferBad {r : Req} (h : s.Sound) : (s.bufferBad r).2.Sound := by
  unfold State.bufferBad
  split
  · exact .snd h
  · exact .snd h.scanProt

theorem State.Sound.readEnd {r : Req} {res : ReadResult} (h : s.Sound) : (s.readEnd r res).Sound := by
  unfold State.readEnd
  extract_lets res1 patrol
  clear_value res1
  split
  · next t e =>
      have h1 : t.Sound := by
        refine State.Sound.sndOf e ?_
        split
        · exact .snd h
        · exact h.bufferBad
      extract_lets res2 s2
      have h2 : s2.Sound := h1.countDecode.careOf
      clear_value res2
      split
      · exact h2.readDone'
      · exact h2.readDone'
      · exact h2.readDone'
      · exact h2.readDone'

theorem State.Sound.programEnd {r : Req} (h : s.Sound) : (s.programEnd r).Sound := by
  unfold State.programEnd
  split
  · exact h.dropReq
  · extract_lets s1 s2 _ s3
    have h1 : s1.Sound := h.setFlash.dropReq
    have h2 : s2.Sound := by
      dsimp only [s2]
      split
      · exact h1.settleStripe
      · exact h1
    clear_value s2
    cases r.owner with
    | drain => exact h2.commitStaged
    | evid => exact h2.commitStaged
    | reloc => exact .ite h2.commitDemote h2.commitReloc.stepReloc
    | journal => exact h2.rest
    | rebuild => exact h2.addReq
    | ckpt => exact h2.ckptDone
    | sifj => exact h2.sifjDone
    | zero =>
      dsimp only [s3]
      split
      · exact h2.commitStaged.closeAppend
      · exact h2
    | cmd | exec | merge | parity | patrol | late | recon => exact h2

theorem State.Sound.programFail {r : Req} (h : s.Sound) : (s.programFail r).Sound :=
  h.count.raise.replan.retireBlock

theorem State.Sound.giveBack {b : Blk} (h : s.Sound) : (s.giveBack b).Sound := by
  unfold State.giveBack
  extract_lets s1
  have h1 : s1.Sound := .ite h.setBuf h
  exact .ite h1.rest.showEvSpare h1

theorem State.Sound.eraseEnd {r : Req} (h : s.Sound) : (s.eraseEnd r).Sound := by
  unfold State.eraseEnd
  extract_lets _ _ s1 s2 _ s3
  have h1 : s1.Sound := h.dropReq.dropRelocs
  have h2 : s2.Sound := h1.foldl (fun _ ht _ => ht.setFlash)
  have h3 : s3.Sound := h2.modBlk.giveBack
  exact .placeCopies (.ite h3.retireBlock h3.updateLife)

theorem State.Sound.eraseFail {r : Req} (h : s.Sound) : (s.eraseFail r).Sound :=
  h.dropReq.dropRelocs.count.raise.retireBlock

theorem State.Sound.programDone {r : Req} (h : s.Sound) : (s.programDone r).Sound := by
  unfold State.programDone
  refine .ite h.programEnd ?_
  extract_lets s1
  have h1 : s1.Sound := h.setFlash.dropReq
  exact h1.rest

theorem State.Sound.opEnd {r : Req} {res : DieResult} (h : s.Sound) : (s.opEnd r res).Sound := by
  unfold State.opEnd
  refine .emptyTriples ?_
  split
  · exact h.readEnd
  · exact h.readEnd
  · exact h.programDone
  · exact h.programFail
  · exact h.eraseEnd
  · exact h.eraseFail
  · exact h

theorem State.Sound.idleDie {die : Nat} (h : s.Sound) : (s.idleDie die).Sound := h.modDie

theorem State.Sound.endOp {die : Nat} {res : DieResult} (h : s.Sound) : (s.endOp die res).Sound := by
  unfold State.endOp
  split
  · exact h.idleDie
  · exact h.idleDie.opEnd

theorem State.Sound.timeLimit {die : Nat} (h : s.Sound) : (s.timeLimit die).Sound := h.rest.count.raise.hand

theorem State.Sound.launch {ch : Nat} {r : Req} (h : s.Sound) : (s.launch ch r).Sound := by
  unfold State.launch
  extract_lets _ _ _ _ s1 _ s2 s3 s4
  have h1 : s1.Sound := .ite h.disarm h
  have h2 : s2.Sound := h1.modDie.modReq.modSeq
  have h3 : s3.Sound := by
    dsimp only [s3]
    split
    · exact h2.worked.worked
    · exact h2
  have h4 : s4.Sound := by
    dsimp only [s4]
    split
    · split
      · exact .ite h3 h3.fold
      · exact h3
    · exact h3
  exact .ite h4.disarm.timeLimit h4

theorem State.Sound.start' {ch op : Nat} (h : s.Sound) : (s.start' ch op).Sound := by
  unfold State.start'
  split
  · exact h
  · refine .ite h.launch ?_
    split
    · next e => exact (h.takeBuf.of_eq e).launch
    · exact h.waitBuf

theorem State.Sound.execMediaRead {ch : Chan} (h : s.Sound) : AllNext State.Sound (execMediaRead ch s) :=
  .next h.start'

theorem State.Sound.execMediaProgram {ch : Chan} (h : s.Sound) : AllNext State.Sound (execMediaProgram ch s) :=
  .next h.start'

theorem State.Sound.execMediaErase {ch : Chan} (h : s.Sound) : AllNext State.Sound (execMediaErase ch s) :=
  .next h.start'

theorem State.Sound.execLunReset {ch : Chan} (h : s.Sound) : AllNext State.Sound (execLunReset ch s) := by
  unfold Machine.execLunReset
  split
  · exact .next h
  · exact .next h.modSeq.modDie.count.emit

theorem State.Sound.execSetFeature {ch : Chan} {way fa : Nat} {p : Word} (h : s.Sound) :
    AllNext State.Sound (execSetFeature ch way fa p s) :=
  .ite (.next h) (.next h.emit)

theorem State.Sound.execSuspend {ch : Chan} (h : s.Sound) : AllNext State.Sound (execSuspend ch s) := by
  unfold Machine.execSuspend
  split
  · exact .next h
  · exact .ite (.next h.modSeq) (.next h.modSeq.modDie.count.count)

theorem State.Sound.execResume {ch : Chan} (h : s.Sound) : AllNext State.Sound (execResume ch s) := by
  unfold Machine.execResume
  split
  · exact .next h
  · extract_lets
    split
    · exact .next h.modSeq
    · exact .next h.modSeq.modDie

theorem State.Sound.execDieReady {die : Die} {r : DieResult} (h : s.Sound) : AllNext State.Sound (execDieReady die r s) := by
  unfold Machine.execDieReady
  extract_lets
  refine .ite (.next h) (.ite ?_ (.ite (.next h.rest) (.next h.endOp)))
  split
  · exact .next h.modDie.endOp
  · exact .next h.idleDie
  · exact .next h

theorem State.Sound.execScaledReadyRelease {die : Nat} (h : s.Sound) : AllNext State.Sound (execScaledReadyRelease die s) := by
  unfold Machine.execScaledReadyRelease
  split
  · exact .next h
  · exact .ite (.next h) (.next h.rest.endOp)

theorem State.Sound.execOperationTimeLimit {die : Die} (h : s.Sound) : AllNext State.Sound (execOperationTimeLimit die s) :=
  .ite (.next h) (.next h.timeLimit)

theorem State.Sound.execLunResetTimeout {die : Die} (h : s.Sound) : AllNext State.Sound (execLunResetTimeout die s) := by
  unfold Machine.execLunResetTimeout
  split
  · exact .next h
  · exact .ite (.next h) (.next h.failDie.settle)

theorem State.Sound.msqCtrlCond {m : Master} {v : Word} (h : s.Sound) : AllSome State.Sound (msqCtrlCond m v s) :=
  .ite (.some h.refuse) .none

/-! ### Microcode -/

theorem State.Sound.seqFault {ch code : Nat} (h : s.Sound) : (s.seqFault ch code).Sound := by
  unfold State.seqFault
  extract_lets _ _ _ _ s1
  have h1 : s1.Sound := h.setField.setReg.raise.count.blockError.modChan
  refine .foldl h1.rest (fun _ ht _ => ?_)
  extract_lets _ _ s2
  have h2 : s2.Sound := by
    dsimp only [s2]
    split
    · exact ht.modReq
    · exact ht
  split
  · exact ht.endOp
  · exact ht.endOp
  · exact h2.modDie
  · exact ht

theorem State.Sound.suspendDie {die : Nat} (h : s.Sound) : (s.suspendDie die).Sound :=
  .ite h h.modDie.count.count

theorem State.Sound.seqPost {ch result : Nat} (h : s.Sound) : (s.seqPost ch result).Sound := by
  unfold State.seqPost
  extract_lets
  split
  · exact h
  · exact .ite h.suspendDie (.ite (.ite h h.timeLimit) (.ite h h.endOp))

theorem State.Sound.longOp {ch : Nat} {w : Word} {ready : Bool} {st : Byte} (h : s.Sound) : (s.longOp ch w ready st).Sound := by
  unfold State.longOp
  extract_lets
  split
  · exact h.modSeq
  · exact h.modSeq
  · exact h.modSeq
  · exact h.modSeq
  · exact h.modSeq
  · exact h.modSeq
  · exact h.modSeq
  · exact h.modSeq
  · exact h.modSeq
  · exact h.modSeq
  · exact h.modSeq.emit
  · exact .ite h.modSeq.emit h.modSeq
  · exact h.modSeq.seqPost

theorem State.Sound.busSide {ch op a : Nat} {st : Byte} (h : s.Sound) : (s.busSide ch op a st).Sound := by
  unfold State.busSide
  extract_lets
  split
  · exact h.emit
  · exact h.emit
  · exact h.modSeq
  · exact h.modSeq
  · exact h.modSeq
  · exact h.modSeq.emit
  · exact h.modSeq
  · exact h

theorem State.Sound.sendWords {ch slot n : Nat} (h : s.Sound) : (s.sendWords ch slot n).Sound := by
  unfold State.sendWords
  split
  · exact h
  · split
    · exact h
    · split
      · exact h
      · exact h.foldl (fun _ ht _ => ht.emit)

theorem State.Sound.decodeSlots {ch slot n : Nat} {res : List Nat} {soft : Bool} (h : s.Sound) :
    (s.decodeSlots ch slot n res soft).Sound :=
  h.modSeq

theorem State.Sound.bufSide {ch op a : Nat} {res : List Nat} (h : s.Sound) : (s.bufSide ch op a res).Sound := by
  unfold State.bufSide
  extract_lets
  split
  · exact h.modSeq
  · exact h.decodeSlots
  · exact h.modSeq
  · exact h.decodeSlots
  · exact h.sendWords
  · exact h

theorem State.Sound.shortPair {ch : Nat} {w : Word} {dq : List Byte} (h : s.Sound) : (s.shortPair ch w dq).Sound :=
  h.busSide.bufSide.modSeq

theorem State.Sound.microStep {ch : Nat} {ready : Bool} {st : Byte} {dq : List Byte} (h : s.Sound) :
    (s.microStep ch ready st dq).Sound :=
  .ite h.seqFault (.ite h.shortPair h.longOp)

theorem State.Sound.longRow {ch : Chan} {p : Word → Bool} {ready : Bool} {st : Byte} (h : s.Sound) :
    AllNext State.Sound (longRow ch p ready st s) :=
  .ite (.next h.microStep) (.next h)

theorem State.Sound.execHalt {ch : Chan} (h : s.Sound) : AllNext State.Sound (execHalt ch s) := h.longRow

theorem State.Sound.execSeqJmp {ch : Chan} {target : BitVec 12} (h : s.Sound) : AllNext State.Sound (execSeqJmp ch target s) :=
  h.longRow

theorem State.Sound.execJcc {ch : Chan} {cond : BitVec 4} {target : BitVec 12} (h : s.Sound) :
    AllNext State.Sound (execJcc ch cond target s) :=
  h.longRow

theorem State.Sound.execSeqCall {ch : Chan} {target : BitVec 12} (h : s.Sound) : AllNext State.Sound (execSeqCall ch target s) :=
  h.longRow

theorem State.Sound.execSeqRet {ch : Chan} (h : s.Sound) : AllNext State.Sound (execSeqRet ch s) := h.longRow

theorem State.Sound.execLdcnt {ch : Chan} {n : BitVec 16} (h : s.Sound) : AllNext State.Sound (execLdcnt ch n s) :=
  h.longRow

theorem State.Sound.execLoop {ch : Chan} {target : BitVec 12} (h : s.Sound) : AllNext State.Sound (execLoop ch target s) :=
  h.longRow

theorem State.Sound.execWaitrb {ch : Chan} {w : Word} {ready : Bool} {st : Byte} (h : s.Sound) :
    AllNext State.Sound (execWaitrb ch w ready st s) :=
  h.longRow

theorem State.Sound.execLddesc {ch : Chan} {w : Word} (h : s.Sound) : AllNext State.Sound (execLddesc ch w s) :=
  h.longRow

theorem State.Sound.execAdda {ch : Chan} {w : Word} (h : s.Sound) : AllNext State.Sound (execAdda ch w s) :=
  h.longRow

theorem State.Sound.execSetf {ch : Chan} {w : Word} (h : s.Sound) : AllNext State.Sound (execSetf ch w s) :=
  h.longRow

theorem State.Sound.execRetry {ch : Chan} {w : Word} (h : s.Sound) : AllNext State.Sound (execRetry ch w s) :=
  h.longRow

theorem State.Sound.execPost {ch : Chan} {w : Word} (h : s.Sound) : AllNext State.Sound (execPost ch w s) :=
  h.longRow

theorem State.Sound.execWaitrbTimeout {ch : Chan} (h : s.Sound) : AllNext State.Sound (execWaitrbTimeout ch s) :=
  .ite (.next h.modSeq) (.next h)

theorem State.Sound.execShortOperationPair {ch : Chan} {w : Word} {dq : List Byte} (h : s.Sound) :
    AllNext State.Sound (execShortOperationPair ch w dq s) :=
  .ite (.next h.microStep) (.next h)

theorem State.Sound.mchCtrlCond {m : Master} {ch : Nat} {v : Word} (h : s.Sound) : AllSome State.Sound (mchCtrlCond m ch v s) :=
  .ite (.some h.refuse) .none

theorem State.Sound.mchCtrlEffect {ch : Nat} {v : Word} {ready : Bool} {st : Byte} {dq : List Byte} {d : RegDef} (h : s.Sound) :
    (mchCtrlEffect ch v ready st dq d s).Sound := by
  unfold Machine.mchCtrlEffect
  extract_lets _ s1
  have h1 : s1.Sound := h.store
  exact .ite h1 (.ite h1.modSeq h1.microStep)

theorem State.Sound.execStep {m : Master} {ch : Chan} {v : Word} {ready : Bool} {st : Byte} {dq : List Byte} (h : s.Sound) :
    AllNext State.Sound (execStep m ch v ready st dq s) :=
  .next (h.write (fun _ ht => ht.mchCtrlCond) (fun _ _ ht => ht.mchCtrlEffect))

theorem State.Sound.usdataCond {m : Master} {ch : Nat} {v : Word} (h : s.Sound) : AllSome State.Sound (usdataCond m ch v s) :=
  .ite (.some h.refuse) .none

theorem State.Sound.usNext {ch : Nat} (h : s.Sound) : (s.usNext ch).Sound := h.setReg

theorem State.Sound.usdataEffect {ch : Nat} {v : Word} {x : RegDef} (h : s.Sound) : (usdataEffect ch v x s).Sound :=
  h.modSeq.usNext

theorem State.Sound.execMchUsdataAccess {m : Master} {ch : Chan} {write : Option Word} (h : s.Sound) :
    AllNext State.Sound (execMchUsdataAccess m ch write s) := by
  unfold Machine.execMchUsdataAccess
  split
  · exact .next (h.write (fun _ ht => ht.usdataCond) (fun _ _ ht => ht.usdataEffect))
  · split
    · next e => exact .next (h.checkAccess.of_eq e).reply
    · exact .next h.answerRead.usNext

theorem State.Sound.waymapCond {m : Master} {ch off : Nat} {v : Word} (h : s.Sound) : AllSome State.Sound (waymapCond m ch off v s) :=
  .ite (.some h.refuse) .none

/-! ### Datapath -/

theorem State.Sound.passCharges {r : CmdRef} {versions : List Nat} (h : s.Sound) : (s.passCharges r versions).Sound :=
  .ite h h.rest

theorem State.Sound.callOff (h : s.Sound) : s.callOff.Sound := by
  unfold State.callOff
  extract_lets
  refine .foldl h (fun _ ht _ => ?_)
  extract_lets
  refine .foldl ht.unmember.dropReq.markIssued (fun _ ht2 _ => ?_)
  split
  · exact ht2.supersede
  · exact ht2

theorem State.Sound.wrote {f : Fun} {n lba nlb : Nat} (h : s.Sound) : (s.wrote f n lba nlb).Sound := by
  unfold State.wrote
  refine .foldl h (fun _ ht _ => ?_)
  extract_lets _ s1
  have h1 : s1.Sound := ht.touch
  exact h1.rest

theorem State.Sound.stageParts {r : CmdRef} {evid : Bool} {parts : List (Nat × Nat × List Block)} (h : s.Sound) :
    (s.stageParts r evid parts).Sound := by
  unfold State.stageParts
  extract_lets _ _ _ s1
  have h1 : s1.Sound := h.foldl (fun _ ht _ => .wrote (ht.foldl (fun _ ht2 _ => ht2.stage)))
  exact .ite h1.placeEvid (.callOff (.passCharges (.ite h1 h1.commit)))

theorem State.Sound.stageAll {r : CmdRef} {evid : Bool} {n lba : Nat} {bs : List Block} (h : s.Sound) :
    (s.stageAll r evid n lba bs).Sound :=
  h.stageParts

theorem State.Sound.landWrite {r : CmdRef} {bs : List Block} (h : s.Sound) : (s.landWrite r bs).Sound := by
  unfold State.landWrite
  split
  · exact h
  · split
    · exact h.finish
    · refine .ite h.modCmd ?_
      extract_lets _ s1
      have h1 : s1.Sound := h.modCmd.stageAll
      exact .ite h1.settle h1.finish

theorem State.Sound.readDone {r : CmdRef} (h : s.Sound) : (s.readDone r).Sound := by
  unfold State.readDone
  split
  · exact h
  · extract_lets
    refine .ite h ?_
    split
    · split
      · next e => exact (h.xferOk.ofSnd e).finish
      · next e => exact .finish (.emit ((h.xferOk.ofSnd e).foldl (fun _ ht _ => ht.markDirty)))
    · exact h.finish
    · exact .ite h h.finish
    · exact .ite h.finish h.landWrite
    · exact h

theorem State.Sound.beginRead {r : CmdRef} {cls : Class} {l : List Range} (h : s.Sound) : (s.beginRead r cls l).Sound :=
  .readDone (h.modCmd.foldl (fun _ ht _ => ht.addReq))

theorem State.Sound.feed {c : CellId} {bs : List Byte} (h : s.Sound) : (s.feed c bs).Sound := h.writeSb.modSu

theorem State.Sound.pump {e : ExecRec} {n : Nat} (h : s.Sound) : (s.pump e n).Sound := by
  induction n generalizing s with
  | zero => exact h
  | succ n ih =>
    unfold State.pump
    extract_lets _ s1
    have h1 : s1.Sound := h.fetchAhead
    refine .ite h1 ?_
    split
    · exact h1
    · refine .ite h1 (.ite h1 ?_)
      extract_lets
      split
      · exact ih h1.feed
      · split
        · exact ih h1.feed
        · exact h1.modSu
        · exact .ite h1 h1.addReq

theorem State.Sound.pumpExec {e : ExecRec} (h : s.Sound) : (s.pumpExec e).Sound := h.pump

theorem State.Sound.execStreamCredit {f : Flit} (h : s.Sound) : AllNext State.Sound (execStreamCredit f s) := by
  unfold Machine.execStreamCredit
  extract_lets
  refine .next (.onMesh h (fun _ ht => ?_))
  split
  · exact ht.modSu.modSu
  · refine .ite ?_ ht
    split
    · exact ht.pumpExec
    · exact ht

theorem State.Sound.execData {r : Req} {c : CmdRef} {word : Nat → Option Block} (h : s.Sound) : (s.execData r c word).Sound := by
  unfold State.execData
  extract_lets s1
  have h1 : s1.Sound := h.dropReq
  split
  · extract_lets
    refine .ite h1 ?_
    split
    · exact h1.feed.pumpExec
    · exact h1.modSu
  · exact h1

theorem State.Sound.merge {r : Req} {word : Nat → Option Block} (h : s.Sound) : (s.merge r word).Sound := by
  unfold State.merge
  extract_lets s1
  have h1 : s1.Sound := h.dropReq.markIssued
  split
  · exact h1
  · extract_lets _ _ _ s2 x3
    clear_value x3
    have h2 : s2.Sound := by
      dsimp only [s2]
      refine .foldl h1 (fun _ ht _ => ?_)
      split
      · exact ht.supersede
      · exact ht
    split
    · refine .ite h2 (.ite h2.loseBlocks ?_)
      split
      · split
        · next e => exact (h2.programBlocks.ofSnd e).markIssued
        · next e => exact h2.programBlocks.ofSnd e
    · exact h2

theorem State.Sound.handOver {r : Req} {words : Option (List Block)} (h : s.Sound) : (s.handOver r words).Sound := by
  unfold State.handOver
  extract_lets _ _ s1
  have h1 : s1.Sound := h.dropReq
  split
  · exact h.dropReq.modCmd.readDone
  · exact h.execData
  · exact .ite h1.count h1
  · exact h.merge
  · exact h.relocRead
  · exact h.dropReq

theorem State.Sound.encrypted {r : Req} {p : PageSet} (h : s.Sound) : (s.encrypted r p).Sound := h.modReq

theorem State.Sound.encryptWord {l : Nat} {r : Req} {p : PageSet} (h : s.Sound) : (s.encryptWord l r p).Sound := by
  unfold State.encryptWord
  extract_lets _ _ _ _ _ _ _ _ _ _ _ _ _ s1 s2
  have h1 : s1.Sound := h.useBlocks.modLane
  have h2 : s2.Sound := h1.count64.count.setReg
  exact .ite h.useBlocks.modReq.modLane.count64.count.raise (.ite h2.encrypted h2.modReq)

theorem State.Sound.decryptWord {l : Nat} {r : Req} {p : PageSet} (h : s.Sound) : (s.decryptWord l r p).Sound := by
  unfold State.decryptWord
  extract_lets _ _ _ s1 s2
  have h1 : s1.Sound := .ite h.modLane h
  have h2 : s2.Sound := h1.count64.count.setReg
  exact .ite h2.handOver h2.modReq

theorem State.Sound.execCipherPathJob {lane : Fin 16} {req : Nat} (h : s.Sound) : AllNext State.Sound (execCipherPathJob lane req s) := by
  unfold Machine.execCipherPathJob
  extract_lets
  split
  · exact .next h
  · extract_lets
    refine .ite (.next h) ?_
    split
    · split
      · next e => exact .next (h.useKey.ofSnd e)
      · next e => exact .next (h.useKey.ofSnd e).encryptWord
    · exact .next h.decryptWord
    · exact .next h.handOver
    · exact .next h

/-! ### HostIo -/

theorem State.Sound.rowIf {b : Bool} {st : Status} (h : s.Sound) : AllSome (fun x => x.2.Sound) (rowIf b st s) :=
  .ite (.some (.snd h)) .none

theorem State.Sound.firstRow {l : List Row} (h : s.Sound) (hl : AllRows l) : AllSome (fun x => x.2.Sound) (s.firstRow l) := by
  induction l with
  | nil => exact .none
  | cons r l ih =>
    unfold State.firstRow
    split
    · next e => exact .some (hl.head s h _ e)
    · exact ih hl.tail

theorem State.Sound.optionRow {c : NvmeCmd} {bad : Bool} (h : s.Sound) : AllSome (fun x => x.2.Sound) (optionRow c bad s) :=
  h.rowIf

theorem State.Sound.nsRow {c : NvmeCmd} {k : NsKind} (h : s.Sound) : AllSome (fun x => x.2.Sound) (nsRow c k s) := by
  unfold Machine.nsRow
  split
  · exact .some (.snd h)
  · exact .ite .none (.some (.snd h))

theorem State.Sound.mdtsRow {len : Nat} (h : s.Sound) : AllSome (fun x => x.2.Sound) (mdtsRow len s) :=
  h.rowIf

theorem State.Sound.lbaRow {n : Nat} {l : List Range} (h : s.Sound) : AllSome (fun x => x.2.Sound) (lbaRow n l s) :=
  h.rowIf

theorem State.Sound.ptrRow {c : NvmeCmd} {len : Nat} (h : s.Sound) : AllSome (fun x => x.2.Sound) (ptrRow c len s) :=
  AllSome.mapOf (fun _ => .snd h)

theorem State.Sound.fetchRow {c : NvmeCmd} (h : s.Sound) : AllSome (fun x => x.2.Sound) (fetchRow c s) := by
  unfold Machine.fetchRow
  refine .ite (.some (.snd h.xferFail)) ?_
  split
  · next e => exact .some (.snd (h.xferOk.ofSnd e))
  · exact .none

theorem State.Sound.deferRow {c : NvmeCmd} (h : s.Sound) : AllSome (fun x => x.2.Sound) (deferRow c s) := by
  unfold Machine.deferRow
  extract_lets
  split
  · exact .none
  · exact .some (.snd h.modLogs)

theorem State.Sound.evidRow {c : NvmeCmd} {why : Nat} {p : State → Bool} (h : s.Sound) :
    AllSome (fun x => x.2.Sound) (evidRow c why p s) :=
  .ite (.some (.snd h)) .none

theorem State.Sound.publishedRow {c : NvmeCmd} {l : List Range} (h : s.Sound) : AllSome (fun x => x.2.Sound) (publishedRow c l s) :=
  h.evidRow

theorem State.Sound.capacityRow {c : NvmeCmd} {nlb : Nat} (h : s.Sound) : AllSome (fun x => x.2.Sound) (capacityRow c nlb s) :=
  .ite .none (.ite (.some (.snd h.disarm.raise)) .none)

theorem State.Sound.protectRow {c : NvmeCmd} (h : s.Sound) : AllSome (fun x => x.2.Sound) (protectRow c s) :=
  .ite (.ite (.some (.snd h.setField)) .none) h.rowIf

theorem State.Sound.applyPlan {r : CmdRef} {n : Nat} {p : WritePlan} (h : s.Sound) : (s.applyPlan r n p).Sound := by
  unfold State.applyPlan
  split
  · exact h
  · exact .ite h (.foldl (.foldl (h.foldl (fun _ ht _ => ht.rest)) (fun _ ht _ => ht.promote)) (fun _ ht _ => ht.charge.charge.charge))

theorem State.Sound.memRead {k : Cmd} (h : s.Sound) : (s.memRead k).Sound := by
  unfold State.memRead
  extract_lets
  split
  · next e =>
      have h1 := h.peek.ofSnd e
      refine .ite h1.xferFail.finish ?_
      split
      · next e2 => exact (h1.xferOk.ofSnd e2).finish
      · next e2 => exact (h1.xferOk.ofSnd e2).hostWrite.finish

theorem State.Sound.writeZeros {k : Cmd} (h : s.Sound) : (s.writeZeros k).Sound := by
  unfold State.writeZeros
  split
  · exact h.finish
  · exact .ite (.ite h.deallocate.stageParts.finish h.modCmd) (.ite h.landWrite (.ite h.stageParts.modCmd h.modCmd))

theorem State.Sound.landRoom {k : Cmd} (h : s.Sound) : (s.landRoom k).Sound := .ite h.writeZeros h.landWrite

theorem State.Sound.markFlush {k : Cmd} (h : s.Sound) : (s.markFlush k).Sound := h.modCmd

theorem State.Sound.begin {r : CmdRef} (h : s.Sound) : (s.begin r).Sound := by
  unfold State.begin
  split
  · exact h
  · extract_lets
    split
    · exact h.modCmd.beginRead
    · exact h.modCmd.beginRead
    · exact h.modCmd.beginRead
    · exact h.modCmd.beginRead
    · exact h.modCmd
    · exact h.modCmd
    · exact h.modCmd
    · exact h.modCmd.writeZeros
    · exact .finish (h.modCmd.foldl (fun _ ht _ => ht.deallocate))
    · exact h.modCmd.settle
    · exact h.modCmd.memRead
    · exact h.modCmd
    · exact h.modCmd

theorem State.Sound.kickOff {r : CmdRef} (h : s.Sound) : (s.kickOff r).Sound := by
  unfold State.kickOff
  split
  · exact h
  · exact .ite h.begin h.modCmd

/-! The rows of R84 as checks that keep the form. -/

theorem Row.Sound.rowIf {b : Bool} {st : Status} : Row.Sound (rowIf b st) := fun _ h => h.rowIf
theorem Row.Sound.optionRow {c : NvmeCmd} {bad : Bool} : Row.Sound (optionRow c bad) := fun _ h => h.optionRow
theorem Row.Sound.nsRow {c : NvmeCmd} {k : NsKind} : Row.Sound (nsRow c k) := fun _ h => h.nsRow
theorem Row.Sound.mdtsRow {len : Nat} : Row.Sound (mdtsRow len) := fun _ h => h.mdtsRow
theorem Row.Sound.lbaRow {n : Nat} {l : List Range} : Row.Sound (lbaRow n l) := fun _ h => h.lbaRow
theorem Row.Sound.ptrRow {c : NvmeCmd} {len : Nat} : Row.Sound (ptrRow c len) := fun _ h => h.ptrRow
theorem Row.Sound.fetchRow {c : NvmeCmd} : Row.Sound (fetchRow c) := fun _ h => h.fetchRow
theorem Row.Sound.deferRow {c : NvmeCmd} : Row.Sound (deferRow c) := fun _ h => h.deferRow
theorem Row.Sound.evidRow {c : NvmeCmd} {why : Nat} {p : State → Bool} : Row.Sound (evidRow c why p) := fun _ h => h.evidRow
theorem Row.Sound.publishedRow {c : NvmeCmd} {l : List Range} : Row.Sound (publishedRow c l) := fun _ h => h.publishedRow
theorem Row.Sound.capacityRow {c : NvmeCmd} {nlb : Nat} : Row.Sound (capacityRow c nlb) := fun _ h => h.capacityRow
theorem Row.Sound.protectRow {c : NvmeCmd} : Row.Sound (protectRow c) := fun _ h => h.protectRow

theorem State.Sound.ioCommand {j : IoJob} {from' : Nat} (h : s.Sound) (hj : j.Sound) : (s.ioCommand j from').Sound := by
  unfold State.ioCommand
  split
  · next e => exact ((h.firstRow hj.rows).of_eq e).finish
  · exact h.admission (fun _ ht => (hj.ok _ ht).kickOff)

theorem State.Sound.onQueue {c : NvmeCmd} {f : SQueue → Nat → State → State} (h : s.Sound) (hf : ∀ x, ∀ y, ∀ t, t.Sound → (f x y
    t).Sound) : AllNext State.Sound (onQueue c s f) := by
  unfold Machine.onQueue
  refine State.Sound.onIo h (fun _ _ ht => ?_)
  split
  · exact hf _ _ _ ht
  · exact ht

theorem State.Sound.onJob {c : NvmeCmd} {job : NvmeCmd → SQueue → State → IoJob} (h : s.Sound) (hjob : ∀ q t, (job c q t).Sound) :
    AllNext State.Sound (onJob c s job) :=
  h.onQueue (fun _ _ _ ht => ht.ioCommand (hjob _ _))

theorem AllRows.readRows {c : NvmeCmd} {len : Nat} {l : List Range} : AllRows (readRows c len l) :=
  .append (.append (.cons .optionRow (.cons .nsRow (.cons .mdtsRow (.cons .lbaRow .nil)))) (.ite .nil (.cons .ptrRow .nil)))
    (.cons .deferRow (.cons .publishedRow .nil))

theorem IoJob.Sound.readJob {c : NvmeCmd} {q : SQueue} : (readJob c q s).Sound := ⟨.readRows, fun _ h => h⟩

theorem State.Sound.execRead {c : NvmeCmd} (h : s.Sound) : AllNext State.Sound (execRead c s) := h.onJob (fun _ _ => .readJob)

theorem IoJob.Sound.compareJob {c : NvmeCmd} {q : SQueue} : (compareJob c q s).Sound := ⟨.readRows, fun _ h => h⟩

theorem State.Sound.execCompare {c : NvmeCmd} (h : s.Sound) : AllNext State.Sound (execCompare c s) := h.onJob (fun _ _ => .compareJob)

theorem IoJob.Sound.verifyJob {c : NvmeCmd} {q : SQueue} : (verifyJob c q s).Sound := ⟨.readRows, fun _ h => h⟩

theorem State.Sound.execVerify {c : NvmeCmd} (h : s.Sound) : AllNext State.Sound (execVerify c s) := h.onJob (fun _ _ => .verifyJob)

theorem State.Sound.takeAppend {r : CmdRef} {nlb : Nat} (h : s.Sound) : (s.takeAppend r nlb).Sound :=
  h.rest.modCmd

theorem IoJob.Sound.writeJob {c : NvmeCmd} {q : SQueue} : (writeJob c q s).Sound := by
  unfold Machine.writeJob
  extract_lets
  split
  · exact ⟨.cons .optionRow (.cons .nsRow (.cons .mdtsRow (.cons .ptrRow (.cons .deferRow (.cons .evidRow (.cons .evidRow
      (.cons .capacityRow (.cons .protectRow .nil)))))))), fun _ h => h.takeAppend⟩
  · exact ⟨.cons .optionRow (.cons .nsRow (.cons .mdtsRow (.cons .lbaRow (.cons .ptrRow (.cons .deferRow (.cons .protectRow
      .nil)))))), fun _ h => h.applyPlan⟩

theorem State.Sound.execWrite {c : NvmeCmd} (h : s.Sound) : AllNext State.Sound (execWrite c s) := h.onJob (fun _ _ => .writeJob)

theorem IoJob.Sound.writeZeroesJob {c : NvmeCmd} {q : SQueue} : (writeZeroesJob c q s).Sound :=
  ⟨.cons .optionRow (.cons .nsRow (.cons .lbaRow (.cons .deferRow (.cons .evidRow (.cons .protectRow .nil))))),
    fun _ h => h.applyPlan⟩

theorem State.Sound.execWriteZeroes {c : NvmeCmd} (h : s.Sound) : AllNext State.Sound (execWriteZeroes c s) :=
  h.onJob (fun _ _ => .writeZeroesJob)

theorem IoJob.Sound.dsmJob {c : NvmeCmd} {q : SQueue} : (dsmJob c q s).Sound :=
  ⟨.append (.cons .optionRow (.cons .nsRow (.cons .ptrRow (.cons .fetchRow (.cons .lbaRow (.cons .deferRow (.cons .evidRow
    .nil))))))) (.ite (.cons .protectRow .nil) .nil), fun _ h => h⟩

theorem State.Sound.execDatasetManagement {c : NvmeCmd} (h : s.Sound) : AllNext State.Sound (execDatasetManagement c s) :=
  h.onJob (fun _ _ => .dsmJob)

theorem IoJob.Sound.copyJob {c : NvmeCmd} {q : SQueue} : (copyJob c q s).Sound :=
  ⟨.cons .optionRow (.cons .nsRow (.cons .rowIf (.cons .ptrRow (.cons .fetchRow (.cons .rowIf (.cons .lbaRow (.cons .deferRow
    (.cons .evidRow (.cons .protectRow .nil))))))))), fun _ h => h.applyPlan⟩

theorem State.Sound.execCopy {c : NvmeCmd} (h : s.Sound) : AllNext State.Sound (execCopy c s) := h.onJob (fun _ _ => .copyJob)

theorem IoJob.Sound.flushJob {c : NvmeCmd} {q : SQueue} : (flushJob c q s).Sound := by
  refine ⟨.append (.cons .optionRow .nil) (.ite .nil (.cons .nsRow (.cons .deferRow .nil))), fun t h => ?_⟩
  dsimp only [Machine.flushJob]
  split
  · exact h.markFlush
  · exact h

theorem State.Sound.execFlush {c : NvmeCmd} (h : s.Sound) : AllNext State.Sound (execFlush c s) := h.onJob (fun _ _ => .flushJob)

theorem IoJob.Sound.slmJob {write : Bool} {c : NvmeCmd} {q : SQueue} : (slmJob write c q s).Sound :=
  ⟨.cons .optionRow (.cons .nsRow (.cons .mdtsRow (.cons .rowIf (.cons .ptrRow (.cons .deferRow .nil))))), fun _ h => h⟩

theorem State.Sound.execMemoryRead {c : NvmeCmd} (h : s.Sound) : AllNext State.Sound (execMemoryRead c s) := h.onJob (fun _ _ => .slmJob)

theorem State.Sound.execMemoryWrite {c : NvmeCmd} (h : s.Sound) : AllNext State.Sound (execMemoryWrite c s) := h.onJob (fun _ _ => .slmJob)

theorem State.Sound.dropAppend {r : CmdRef} (h : s.Sound) : (s.dropAppend r).Sound := h.rest

theorem State.Sound.failTransfer {r : CmdRef} {poisoned : Bool} (h : s.Sound) : (s.failTransfer r poisoned).Sound :=
  h.xferFail.dropAppend.finish

theorem State.Sound.execHostWriteDataReceived {c : CmdRef} {bs : List Block} (h : s.Sound) :
    AllNext State.Sound (execHostWriteDataReceived c bs s) := by
  unfold Machine.execHostWriteDataReceived
  split
  · exact .next h
  · refine .ite (.next h) (.ite ?_ ?_)
    · split
      · next e => exact .next (h.xferOk.ofSnd e).dropAppend.finish
      · next e =>
          have h1 := h.xferOk.ofSnd e
          exact .ite (.next h1.poke.finish) (.next h1.landWrite)
    · refine .ite ?_ (.next h)
      split
      · next e => exact .next (h.xferOk.ofSnd e).finish
      · next e => exact .next (h.xferOk.ofSnd e).modCmd.readDone

theorem State.Sound.execHostTransferFailure {c : FailedTransfer} (h : s.Sound) : AllNext State.Sound (execHostTransferFailure c s) := by
  unfold Machine.execHostTransferFailure
  split
  · exact .next h
  · exact .ite (.next h.failTransfer) (.ite (.next h.xferFail.logStatus.modCmd) (.next h))

theorem State.Sound.zeroFill {x : AppendRec} {d : Nat} (h : s.Sound) : (s.zeroFill x d).Sound := by
  unfold State.zeroFill
  extract_lets
  split
  · exact h
  · next e =>
      have h1 := State.Sound.sndOf e (.programBlocks (h.foldl (fun _ ht _ => ht.stage)))
      exact h1.rest.markIssued.space

theorem State.Sound.execDroppedAppendZeroFill (h : s.Sound) : AllNext State.Sound (execDroppedAppendZeroFill s) := by
  unfold Machine.execDroppedAppendZeroFill
  split
  · exact .next h.zeroFill
  · exact .next h

/-! ### Programs -/

theorem State.Sound.setSlot {f : Fun} {i : Nat} {m : Option (SMap Byte)} (h : s.Sound) : (s.setSlot f i m).Sound :=
  h.rest

theorem State.Sound.setActive {f : Fun} {i : Nat} {on : Bool} (h : s.Sound) : (s.setActive f i on).Sound :=
  h.rest

theorem State.Sound.onPrograms {c : NvmeCmd} {f : State → State} (h : s.Sound) (hf : ∀ t, t.Sound → (f t).Sound) :
    AllNext State.Sound (onPrograms c s f) :=
  h.onAdmin (fun _ ht => .ite (hf _ ht) ht.finish)

theorem State.Sound.execLoadProgram {c : NvmeCmd} (h : s.Sound) : AllNext State.Sound (execLoadProgram c s) := by
  unfold Machine.execLoadProgram
  refine State.Sound.onPrograms h (fun _ ht => ?_)
  extract_lets
  refine .ite ht.finish (.ite ht.finish (.ite ht.setSlot.finish (.ite ht.finish ?_)))
  split
  · exact ht.finish
  · refine .ite ht.xferFail.finish ?_
    split
    · next e => exact (ht.xferOk.ofSnd e).finish
    · next e => exact (ht.xferOk.ofSnd e).setSlot.finish

theorem State.Sound.execProgramActivationManagement {c : NvmeCmd} (h : s.Sound) :
    AllNext State.Sound (execProgramActivationManagement c s) := by
  unfold Machine.execProgramActivationManagement
  refine State.Sound.onPrograms h (fun _ ht => ?_)
  extract_lets
  refine .ite ht.finish (.ite ht.setActive.finish (.ite ht.finish (.ite ht.setActive.finish ?_)))
  split
  · exact .ite ht.setActive.finish ht.finish
  · exact ht.finish

theorem State.Sound.setRanges {f : Fun} {i : Nat} {l : Option (List RangeDesc)} (h : s.Sound) : (s.setRanges f i l).Sound :=
  h.rest

theorem State.Sound.execMemoryRangeSetManagement {c : NvmeCmd} (h : s.Sound) : AllNext State.Sound (execMemoryRangeSetManagement c s) := by
  unfold Machine.execMemoryRangeSetManagement
  refine State.Sound.onPrograms h (fun _ ht => ?_)
  extract_lets
  refine .ite ht.finish (.ite (.ite ht.setRanges.finish ht.finish) (.ite ht.finish ?_))
  split
  · exact ht.finish
  · refine .ite ht.xferFail.finish ?_
    split
    · next e => exact (ht.xferOk.ofSnd e).finish
    · next e =>
        have h1 := ht.xferOk.ofSnd e
        exact .ite h1.setRanges.finish h1.finish

theorem AllRows.progRows {c : NvmeCmd} {i inlen plen : Nat} {set : Option (List RangeDesc)} :
    AllRows (progRows c i inlen plen set) := by
  unfold Machine.progRows
  extract_lets l ins outs p row
  have hrow (why : Nat) (q : State → Bool) : Row.Sound (row why q) := fun _ h => .ite (.some (.snd h)) .none
  clear_value row
  exact .cons (hrow _ _) (.cons (hrow _ _) (.cons (hrow _ _) (.cons (hrow _ _) (.cons (hrow _ _) (.cons (hrow _ _) (.cons (hrow _ _)
    (.cons (hrow _ _) (.cons (fun _ h => .ite .none h.fetchRow) (.cons (hrow _ _) (.cons (hrow _ _)
    (.cons (fun _ h => .ite (.some (.snd h)) .none) (.cons (fun _ h => .ite (.some (.snd h)) .none) .nil))))))))))))

theorem IoJob.Sound.programJob {c : NvmeCmd} {q : SQueue} : (programJob c q s).Sound :=
  ⟨.append (.append (.append (.cons .optionRow (.cons (fun _ h => h.rowIf) .nil)) (.ite .nil (.cons .ptrRow .nil)))
    (.cons .deferRow (.cons (fun _ h => h.rowIf) .nil))) .progRows, fun _ h => h.rest⟩

theorem State.Sound.executeProgram {go : State → State} {c : NvmeCmd} (hgo : ∀ t, t.Sound → (go t).Sound) (h : s.Sound) :
    AllNext State.Sound (executeProgram go c s) := by
  unfold Machine.executeProgram
  refine h.onQueue fun q _ t ht => ?_
  extract_lets j
  have hj : j.Sound := .programJob
  split
  · next e => exact ((ht.firstRow hj.rows).of_eq e).finish
  · exact ht.admission fun _ hu => hgo _ (hj.ok _ hu).kickOff

/-! ### Runs -/

theorem State.Sound.runBuild {p inp : List Byte} {bound : Nat} (h : s.Sound) : (s.runBuild p inp bound).2.Sound := by
  unfold State.runBuild
  extract_lets _ _ _ s1
  have h1 : s1.1.Sound := by
    dsimp only [s1]
    refine .foldlFst (.fst h) (fun _ ht _ => ?_)
    extract_lets
    split
    · exact .fst ht
    · exact .fst ht.mergeData.modBank.restartAt.writeSlot.count
  exact .snd h1

theorem State.Sound.runQuery {c : CellId} {inp : List Byte} {bound : Nat} (h : s.Sound) : (s.runQuery c inp bound).2.Sound :=
  .snd (.foldlFst (.fst h) (fun _ ht _ => .fst ht.searchFor))

theorem State.Sound.nextEpoch {n : Nat} {f : Fun} (h : s.Sound) : (s.nextEpoch n f).Sound := h.commit.loadKey

theorem State.Sound.runSeal {f : Fun} {p inp : List Byte} {bound : Nat} (h : s.Sound) : (s.runSeal f p inp bound).2.Sound := by
  unfold State.runSeal
  split
  · exact .snd h
  · extract_lets _ _ _ _ _ s1
    have h1 : s1.1.Sound := by
      dsimp only [s1]
      refine .foldlFst (.fst h) (fun _ ht _ => ?_)
      refine .iteFst ht (.iteFst (.fst ht) ?_)
      split
      · next e => exact .fst (ht.useKey.ofSnd e)
      · next e =>
          have h2 := ht.useKey.ofSnd e
          exact .fst (.useBlocks (.ite h2.useBlocks.nextEpoch h2))
    exact .snd h1

theorem State.Sound.builtin {c : CellId} {e : ExecRec} {inp : List Byte} (h : s.Sound) : (s.builtin c e inp).2.Sound := by
  unfold State.builtin
  extract_lets
  split
  · exact .snd h
  · exact .snd h
  · exact .snd h
  · exact .snd h
  · exact .snd h
  · exact .snd h
  · exact .snd h
  · exact h.runBuild
  · exact h.runQuery
  · exact h.runSeal

theorem State.Sound.modExec {r : CmdRef} {f : ExecRec → ExecRec} (h : s.Sound) : (s.modExec r f).Sound :=
  h.rest

theorem State.Sound.bindLane {l : Nat} {c : Option CellId} (h : s.Sound) : (s.bindLane l c).Sound :=
  h.withCrypto rfl rfl (List.length_set ..) rfl

theorem State.Sound.unbindLanes {c : CellId} (h : s.Sound) : (s.unbindLanes c).Sound :=
  h.withCrypto rfl rfl (List.length_map ..) rfl

theorem State.Sound.enterProgram {c : CellId} {e : ExecRec} {lane : Nat} (h : s.Sound) : (s.enterProgram c e lane).Sound :=
  h.modCell

theorem State.Sound.loadProgram {c : CellId} {e : ExecRec} (h : s.Sound) : (s.loadProgram c e).Sound :=
  .foldl (h.rest.modCell.foldl (fun _ ht _ => ht.writeDm)) (fun _ ht _ => ht.writeDm)

theorem State.Sound.enterExec {e : ExecRec} (h : s.Sound) : (s.enterExec e).Sound := by
  unfold State.enterExec
  extract_lets _ _ _ s1
  have h1 : s1.Sound := h.holdAndFill.modExec
  split
  · extract_lets s2 s3
    have h2 : s2.Sound := .ite (.bindLane (.setDig (AllSome.getD h1.switchTo h1))) h1
    have h3 : s3.Sound := h2.loadProgram.enterProgram.modCell
    exact .ite h3.beginRead h3.unhold.pumpExec

theorem State.Sound.enterExecs (h : s.Sound) : s.enterExecs.Sound := by
  unfold State.enterExecs
  refine .foldl h (fun _ ht _ => ?_)
  split
  · exact .ite ht.enterExec ht
  · exact ht

theorem State.Sound.leaveExec {e : ExecRec} (h : s.Sound) : (s.leaveExec e).Sound := by
  unfold State.leaveExec
  extract_lets _ s1
  have h1 : s1.Sound := h.holdAndFill.unbindLanes
  exact h1.rest.rest

theorem State.Sound.closeExec {e : ExecRec} {st : Status} (h : s.Sound) : (s.closeExec e st).Sound :=
  h.leaveExec.finish.enterExecs

theorem State.Sound.commitOut {e : ExecRec} {n : Nat} {old : Block} {st : Status} (h : s.Sound) : (s.commitOut e n old st).Sound := by
  unfold State.commitOut
  extract_lets _ _ _ s1
  have h1 : s1.Sound := h.stageParts
  exact .ite h.closeExec (.ite h (.ite h1.closeExec h1.modExec))

theorem State.Sound.succeed {e : ExecRec} {n : Nat} {st : Status} (h : s.Sound) : (s.succeed e n st).Sound := by
  unfold State.succeed
  extract_lets s1
  have h1 : s1.Sound := h.modExec
  split
  · exact h1.commitOut
  · extract_lets have_ s2
    have h2 : s2.Sound := .ite h1 h1.beginRead
    clear_value s2 have_
    split
    · exact h2
    · exact h2.commitOut
    · generalize List.range 512 = l
      split
      · next e =>
          refine .commitOut (State.Sound.sndOf e (.foldlSnd (.snd h2) fun t ht k => ?_))
          split
          · next e => exact .snd (ht.free.ofSnd e)

theorem State.Sound.limitStub {c : CellId} {f : Fun} (h : s.Sound) : (s.limitStub c f).Sound :=
  .modCell (.foldl (h.foldl (fun _ ht _ => ht.nextEpoch)) (fun _ ht _ => ht.settleHeld))

theorem State.Sound.budgetEnd {e : ExecRec} {slm : Nat} (h : s.Sound) : (s.budgetEnd e slm).Sound :=
  h.closeExec

theorem State.Sound.downloadedEnd {e : ExecRec} (h : s.Sound) : (s.downloadedEnd e).Sound := by
  unfold State.downloadedEnd
  extract_lets _ _ _ _ _ s1
  have h1 : s1.Sound := .ite h.drain h
  exact .ite h (.ite h.limitStub (.ite h1.closeExec (.ite h1.succeed (.ite h1.budgetEnd (.ite h1.closeExec h1.closeExec)))))

theorem State.Sound.builtinInput {e : ExecRec} {k : Cmd} (h : s.Sound) : AllSome (fun x => x.2.Sound) (s.builtinInput e k) := by
  unfold State.builtinInput
  extract_lets
  refine .ite .none (.some (.foldlSnd (.snd h) (fun _ ht _ => ?_)))
  refine .iteSnd (.snd ht) ?_
  split
  · next e => exact .snd (ht.peek.ofSnd e)

theorem State.Sound.builtinEnd {e : ExecRec} {k : Cmd} (h : s.Sound) : (s.builtinEnd e k).Sound := by
  unfold State.builtinEnd
  extract_lets c trap
  have htrap (t : State) (ht : t.Sound) (cause n : Nat) : (trap t cause n).Sound := by
    unfold trap
    split
    · next e => exact (ht.free.ofSnd e).closeExec
  clear_value trap
  split
  · exact h
  · next e => exact (h.builtinInput.of_eq e).closeExec
  · next e =>
      have h1 : State.Sound _ := h.builtinInput.of_eq e
      refine .ite (htrap _ h1 ..) ?_
      split
      · next e =>
          extract_lets s2 n
          have h2 : s2.Sound := (h1.builtin.ofSnd e).putBytes
          split
          · exact h2.succeed
          · exact h2.closeExec
          · exact htrap _ h2 ..

theorem State.Sound.concludeExec {r : CmdRef} (h : s.Sound) : (s.concludeExec r).Sound := by
  unfold State.concludeExec
  split
  · refine .ite h ?_
    split
    · exact h.succeed
    · exact .ite h.downloadedEnd (.ite h.budgetEnd h.builtinEnd)
  · exact h

theorem State.Sound.execExecuteProgram {c : NvmeCmd} (h : s.Sound) : AllNext State.Sound (execExecuteProgram c s) :=
  State.Sound.executeProgram (fun _ ht => ht.enterExecs) h

theorem State.Sound.execCommandStart {c : CmdRef} (h : s.Sound) : AllNext State.Sound (execCommandStart c s) := by
  unfold Machine.execCommandStart
  split
  · exact .next h
  · exact .next (.enterExecs (.ite h.begin (.ite h.landRoom h)))

theorem State.Sound.execStreamStallEnd {c : CellId} {cycles : Nat} (h : s.Sound) :
    AllNext State.Sound (execStreamStallEnd c cycles s) := by
  unfold Machine.execStreamStallEnd
  extract_lets clear feed
  have hfeed (t : State) (ht : t.Sound) : (feed (clear t)).Sound := by
    have hc : (clear t).Sound := ht.modCell
    unfold feed
    split
    · exact .ite hc hc.pumpExec
    · exact hc
  split
  · exact .next (hfeed _ h.count)
  · exact .next (hfeed _ h.count)
  · exact .next h

theorem State.Sound.execCompletionPost {c : CmdRef} (h : s.Sound) : AllNext State.Sound (execCompletionPost c s) := by
  unfold Machine.execCompletionPost
  refine .ite (.next h) ?_
  extract_lets s1
  have h1 : s1.Sound := h.concludeExec
  split
  · exact .next h1
  · split
    · split
      · exact .next h1
      · split
        · exact .next h1
        · exact .ite (.ite (.next h1) (.next h1.modCmd.count.raise)) (.next h1.post)
    · exact .next h1

/-! ### Controller -/

theorem State.Sound.rename {a b : CmdRef} (h : s.Sound) : (s.rename a b).Sound := h.rest

theorem State.Sound.discard {c : Cmd} (h : s.Sound) : (s.discard c).Sound := by
  unfold State.discard
  extract_lets s1
  have h1 : s1.Sound := h.uncharge.dropAppend.forget
  exact .ite h1.giveTokens h1

theorem State.Sound.sortCmd {c : Cmd} (h : s.Sound) : (s.sortCmd c).Sound := by
  unfold State.sortCmd
  split
  · exact h.forget
  · exact .ite h.modCmd.rename h.discard

theorem State.Sound.sortFlr {c : Cmd} (h : s.Sound) : (s.sortFlr c).Sound := .ite h.discard h.sortCmd

theorem State.Sound.sortCmds {f : Fun} (h : s.Sound) : (s.sortCmds f).Sound :=
  h.foldl (fun _ ht _ => ht.sortCmd)

theorem State.Sound.dropAsync {f : Fun} (h : s.Sound) : (s.dropAsync f).Sound :=
  .modLogs (h.foldl (fun _ ht _ => ht.forget))

theorem State.Sound.beginReset {f : Fun} {cc : Word} (h : s.Sound) : (s.beginReset f cc).Sound :=
  h.modCtrl.dropAsync.sortCmds

theorem State.Sound.clearCtrl {f : Fun} (h : s.Sound) : (s.clearCtrl f).Sound := h.modCtrl.rest

theorem State.Sound.sweepVectors {f : Fun} (h : s.Sound) : (s.sweepVectors f).Sound :=
  .ite h (h.foldl (fun _ ht _ => .ite ht.sendVector ht))

theorem State.Sound.execMsixEnable {fn : Fun} (h : s.Sound) : AllNext State.Sound (execMsixEnable fn s) :=
  .ite (.next h) (.next h.modCtrl.sweepVectors)

theorem State.Sound.unmaskVector {f : Fun} {v : Nat} (h : s.Sound) : (s.unmaskVector f v).Sound :=
  .ite h (.ite h.modCtrl.emit h.modCtrl)

theorem State.Sound.setTab {f : Fun} {k : Nat} {w : Word} (h : s.Sound) : (s.setTab f k w).Sound := h.modCtrl

theorem State.Sound.execMsixMaskClear {fn : Fun} {vec : Option Nat} (h : s.Sound) : AllNext State.Sound (execMsixMaskClear fn vec s) := by
  unfold Machine.execMsixMaskClear
  refine .ite (.next h) ?_
  split
  · exact .ite (.next h) (.next h.setTab.unmaskVector)
  · exact .next (h.modCtrl.foldl (fun _ ht _ => ht.unmaskVector))

theorem State.Sound.enable {f : Fun} {cc : Word} (h : s.Sound) : (s.enable f cc).Sound :=
  .ite h.modCtrl (.ite h.modCtrl.fatal h.modCtrl.modCtrl)

theorem State.Sound.execControllerEnable {fn : Fun} {cc : Word} (h : s.Sound) : AllNext State.Sound (execControllerEnable fn cc s) :=
  .ite (.next h) (.next h.count64.enable)

theorem State.Sound.execControllerReset {fn : Fun} (h : s.Sound) : AllNext State.Sound (execControllerReset fn s) :=
  .ite (.next h) (.next h.count64.beginReset)

theorem State.Sound.endReset {f : Fun} (h : s.Sound) : (s.endReset f).Sound := by
  unfold State.endReset
  extract_lets s1
  have h1 : s1.Sound := h.clearCtrl.sweepVectors
  split
  · exact h1.finish
  · exact h1

theorem State.Sound.execControllerResetComplete {fn : Fun} (h : s.Sound) : AllNext State.Sound (execControllerResetComplete fn s) :=
  .ite (.next h.endReset) (.next h)

theorem State.Sound.shutdown {f : Fun} {shn : Nat} (h : s.Sound) : (s.shutdown f shn).Sound :=
  .ite (.closeWhere (h.modCtrl.foldl (fun _ ht _ => ht.modCtrl))) h.modCtrl.modCtrl

theorem State.Sound.execShutdownNotification {fn : Fun} {shn : Nat} (h : s.Sound) :
    AllNext State.Sound (execShutdownNotification fn shn s) :=
  .ite (.next h) (.next h.count64.shutdown)

theorem State.Sound.execShutdownComplete {fn : Fun} (h : s.Sound) : AllNext State.Sound (execShutdownComplete fn s) := by
  unfold Machine.execShutdownComplete
  extract_lets
  refine .ite (.next h) (.ite (.ite (.next h) (.next h.modCtrl)) (.ite (.next h) ?_))
  split
  · exact .ite (.ite (.next h.modCtrl) (.next h)) (.next h.writeSifj.seal)
  · exact .next h.writeSifj.seal

theorem State.Sound.writeCc {f : Fun} {v : Word} (h : s.Sound) : (s.writeCc f v).Sound :=
  .ite h.enable (.ite h.beginReset (.ite h.modCtrl (.ite h.modCtrl.shutdown h.modCtrl.modCtrl)))

theorem State.Sound.bar0Write {f : Fun} {off : Nat} {v mask : Word} {len : Nat} (h : s.Sound) : (s.bar0Write f off v mask len).Sound := by
  unfold State.bar0Write
  extract_lets _ _ _ _ _ _ _ _ s1
  have h1 : s1.Sound := h.setTab
  split
  · exact h.modCtrl
  · exact h.modCtrl
  · exact h.writeCc
  · exact h.modCtrl
  · exact h.modCtrl
  · exact h.modCtrl
  · exact h.modCtrl
  · exact h.modCtrl
  · exact .ite (.ite h1.unmaskVector h1) (.ite (.ite h.sqBell h.cqBell) h)

theorem State.Sound.execBar0Access {fn : Fun} {off len : Nat} {write : Option (BitVec 64)} (h : s.Sound) :
    AllNext State.Sound (execBar0Access fn off len write s) := by
  unfold Machine.execBar0Access
  refine .ite (.next h) ?_
  extract_lets _ s1
  have h1 : s1.Sound := h.count64
  refine .ite ?_ ?_
  · split
    · exact .next h1.reply.reply
    · exact .next h1.bar0Write.bar0Write
  · refine .ite ?_ ?_
    · split
      · exact .next h1.reply
      · exact .next h1.reply
    · split
      · exact .next h1.reply
      · exact .next h1.bar0Write

/-! ### FieldDie -/

theorem State.Sound.modField {g : Field → Field} (h : s.Sound) : (s.modField g).Sound := h.rest

theorem State.Sound.wakeOutputs {m : Nat} {on : Bool} (h : s.Sound) : (s.wakeOutputs m on).Sound :=
  h.foldl (fun _ ht _ => .ite ht.modField.emit ht)

theorem State.Sound.fire {m : Word} (h : s.Sound) : (s.fire m).Sound := .ite h h.modField.emit.wakeOutputs

theorem State.Sound.fireRing (h : s.Sound) : s.fireRing.Sound := .ite h.fire h

theorem State.Sound.produce {l : List (Nat × Nat × List Byte)} (h : s.Sound) : (s.produce l).Sound :=
  h.modField.fireRing

theorem State.Sound.record {time : BitVec 64} {src st v : Nat} (h : s.Sound) : (s.record time src st v).Sound :=
  h.produce

theorem State.Sound.health (h : s.Sound) : s.health.Sound := h.modField.modField.fireRing

theorem State.Sound.syncFlags (h : s.Sound) : s.syncFlags.Sound := .ite h h.health

theorem State.Sound.syncEntry {before : Option (BitVec 64)} (h : s.Sound) : (s.syncEntry before).Sound :=
  h.modField.fireRing

theorem State.Sound.execDiscreteInputChange {n : Nat} {level : Bool} {t : BitVec 64} (h : s.Sound) :
    AllNext State.Sound (execDiscreteInputChange n level t s) :=
  .ite (.next h) (.next (.fire (.ite h.modField.record h.modField)))

theorem State.Sound.execSpeedPulse {widthUs : Nat} (h : s.Sound) : AllNext State.Sound (execSpeedPulse widthUs s) :=
  .ite (.next h) (.next h.modField.fire)

theorem State.Sound.execSpeedSample (h : s.Sound) : AllNext State.Sound (execSpeedSample s) :=
  .ite (.next h) (.next (.modField (.ite h.record h)))

theorem State.Sound.execCanFrameReceived {bus : Nat} {ident : Word} {fd brs esi : Bool} {dlc : Nat} {data : List Byte} (h : s.Sound) :
    AllNext State.Sound (execCanFrameReceived bus ident fd brs esi dlc data s) := by
  unfold Machine.execCanFrameReceived
  extract_lets _ _ _ _ _ _ _ _ s1
  have h1 : s1.Sound := by
    dsimp only [s1]
    refine .ite (.ite h.produce h.produce) ?_
    split
    · exact h.modField
    · exact h.produce
  exact .ite (.next h) (.next h1.fire)

theorem State.Sound.execCanBusStateChange {bus st tec rec : Nat} (h : s.Sound) :
    AllNext State.Sound (execCanBusStateChange bus st tec rec s) :=
  .ite (.next h) (.next h.modField.record)

theorem State.Sound.execEthFrameReceived {port : Nat} {frame : List Byte} (h : s.Sound) :
    AllNext State.Sound (execEthFrameReceived port frame s) := by
  unfold Machine.execEthFrameReceived
  extract_lets
  refine .ite (.next h) ?_
  split
  · exact .next h
  · exact .next h.modField.produce.fire

theorem State.Sound.execEthernetLinkChange {port : Nat} {up : Bool} (h : s.Sound) :
    AllNext State.Sound (execEthernetLinkChange port up s) :=
  .ite (.next h) (.next h.modField.record)

theorem State.Sound.onField {g : State → State} (h : s.Sound) (hg : ∀ t, t.Sound → (g t).Sound) : AllNext State.Sound (onField s g) :=
  .ite (.next (hg _ h)) (.next h)

theorem State.Sound.execFieldTokenRefill {n : Nat} (h : s.Sound) : AllNext State.Sound (execFieldTokenRefill n s) :=
  h.onField (fun _ ht => ht.modField)

theorem State.Sound.execTimeSyncInterval (h : s.Sound) : AllNext State.Sound (execTimeSyncInterval s) :=
  h.onField (fun _ ht => ht.syncEntry)

theorem State.Sound.execHealthInterval {mv temp : Nat} (h : s.Sound) : AllNext State.Sound (execHealthInterval mv temp s) :=
  h.onField (fun _ ht => ht.modField.health)

theorem State.Sound.execLegalTimeStore (h : s.Sound) : AllNext State.Sound (execLegalTimeStore s) :=
  h.onField (fun _ ht => ht.modField)

theorem State.Sound.execRtcAlarm (h : s.Sound) : AllNext State.Sound (execRtcAlarm s) :=
  h.onField (fun _ ht => .ite ht.fire ht)

theorem State.Sound.execSlewComplete (h : s.Sound) : AllNext State.Sound (execSlewComplete s) :=
  h.onField (fun _ ht => .ite ht.modField ht)

theorem State.Sound.execWakeRepeat (h : s.Sound) : AllNext State.Sound (execWakeRepeat s) :=
  h.onField (fun _ ht => .ite ht.emit ht)

theorem State.Sound.execWakeOutputTimeout {again : Bool} (h : s.Sound) : AllNext State.Sound (execWakeOutputTimeout again s) :=
  h.onField (fun _ ht => .ite (.ite ht.wakeOutputs ht) ht.wakeOutputs)

theorem State.Sound.execRingEntrySend (h : s.Sound) : AllNext State.Sound (execRingEntrySend s) := by
  unfold Machine.execRingEntrySend
  refine State.Sound.onField h (fun _ ht => ?_)
  extract_lets
  refine .ite ht ?_
  split
  · exact ht
  · exact ht.modField.emit

theorem State.Sound.execFieldColdStart (h : s.Sound) : AllNext State.Sound (execFieldColdStart s) :=
  .ite (.next h) (.next h.modField.record.syncFlags)

theorem State.Sound.fieldAck {q : BitVec 32} {result : Nat} (h : s.Sound) : (s.fieldAck q result).Sound :=
  h.modField.emit

theorem State.Sound.rxErr (h : s.Sound) : s.rxErr.Sound := h.modField

theorem State.Sound.fieldReceive {m : List Byte} {act : State → State × Option Nat} (h : s.Sound) (hact : ∀ t, t.Sound → (act t).1.Sound)
    : (s.fieldReceive m act).Sound := by
  unfold State.fieldReceive
  refine .ite h (.ite h.rxErr ?_)
  extract_lets
  refine .ite ?_ ?_
  · split
    · next e =>
        have h1 := (hact _ h.modField).ofFst e
        split
        · exact h1.fieldAck
        · exact h1
  · refine .ite ?_ h.rxErr
    split
    · exact h.emit
    · exact h

theorem State.Sound.config {b : List Byte} (h : s.Sound) : (s.config b).1.Sound :=
  .iteFst (.fst h) (.iteFst (.fst h) (.iteFst (.fst h) (.iteFst (.fst h.modField.syncFlags) (.fst h.modField))))

theorem State.Sound.execConfig {msg : List Byte} (h : s.Sound) : AllNext State.Sound (execConfig msg s) :=
  .ite (.next (h.fieldReceive (fun _ ht => ht.config))) (.next h)

theorem State.Sound.timeSet {v : BitVec 64} {quality : Nat} (h : s.Sound) : (s.timeSet v quality).1.Sound :=
  .iteFst (.fst h) (.iteFst (.fst h.modField.syncEntry.syncFlags) (.fst h.modField.syncEntry.syncFlags))

theorem State.Sound.execTimeSet {msg : List Byte} (h : s.Sound) : AllNext State.Sound (execTimeSet msg s) :=
  .ite (.next (h.fieldReceive (fun _ ht => ht.timeSet))) (.next h)

theorem State.Sound.execWakePolicy {msg : List Byte} (h : s.Sound) : AllNext State.Sound (execWakePolicy msg s) :=
  .ite (.next (h.fieldReceive (fun _ ht => .fst ht.modField))) (.next h)

theorem State.Sound.txCan {q : BitVec 32} {b : List Byte} (h : s.Sound) : (s.txCan q b).1.Sound := by
  unfold State.txCan
  extract_lets
  refine .iteFst (.fst h) (.iteFst (.fst h) (.iteFst (.fst h) (.iteFst (.fst h) ?_)))
  split
  · exact .fst h
  · exact .fst h.modField

theorem State.Sound.execTxCan {msg : List Byte} (h : s.Sound) : AllNext State.Sound (execTxCan msg s) :=
  .ite (.next (h.fieldReceive (fun _ ht => ht.txCan))) (.next h)

theorem State.Sound.execCanTransmitDone {ok : Bool} (h : s.Sound) : AllNext State.Sound (execCanTransmitDone ok s) := by
  unfold Machine.execCanTransmitDone
  refine State.Sound.onField h (fun _ ht => ?_)
  split
  · exact ht
  · exact .fieldAck (.ite ht.modField.modField.emit ht.modField)

theorem State.Sound.fieldSegment {m : List Byte} (h : s.Sound) : (s.fieldSegment m).1.Sound :=
  .iteFst (.fst h) (.iteFst (.fst h) (.fst h.modField.syncFlags))

theorem State.Sound.execFieldImage {msg : List Byte} (h : s.Sound) : AllNext State.Sound (execFieldImage msg s) :=
  .ite (.next (h.fieldReceive (fun _ ht => ht.fieldSegment))) (.next h)

theorem State.Sound.execFieldImageVerified {ok : Bool} {version : Word} (h : s.Sound) :
    AllNext State.Sound (execFieldImageVerified ok version s) :=
  h.onField (fun _ ht => .ite ht ht.modField.syncFlags.fieldAck)

theorem State.Sound.activatePatch {starts : Bool} (h : s.Sound) : (s.activatePatch starts).1.Sound :=
  .iteFst (.fst h) (.iteFst (.fst h) (.fst h.modField.modField.syncFlags))

theorem State.Sound.execFieldImageActivate {msg : List Byte} {starts : Bool} (h : s.Sound) :
    AllNext State.Sound (execFieldImageActivate msg starts s) :=
  .ite (.next (h.fieldReceive (fun _ ht => ht.activatePatch))) (.next h)

theorem State.Sound.execHostAck {msg : List Byte} (h : s.Sound) : AllNext State.Sound (execHostAck msg s) := by
  unfold Machine.execHostAck
  refine .ite (.next h) (.ite (.next h.rxErr) ?_)
  extract_lets _ _ s1
  have h1 : s1.Sound := .ite h.rxErr h.modField
  exact .ite (.next h1.modField.modField.emit) (.next h1.modField)

theorem State.Sound.elapse {us : Nat} (h : s.Sound) : (s.elapse us).Sound := h.rest

theorem State.Sound.execDeviceTimeTick {aon : Bool} (h : s.Sound) : AllNext State.Sound (execDeviceTimeTick aon s) := by
  unfold Machine.execDeviceTimeTick
  refine .ite (.next h) (.ite ?_ (.next h.elapse))
  extract_lets _ s1
  have h1 : s1.Sound := h.elapse
  exact .next h1.rest

/-! ### Keys -/

theorem State.Sound.journalKey {old : State} {n : Nat} (h : s.Sound) : (s.journalKey old n).Sound := .ite h h.commit

theorem State.Sound.keyCmdWrite {m : Master} {v : Word} (h : s.Sound) : (keyCmdWrite m v s).Sound := h.keyCmdEffect.journalKey

theorem State.Sound.keyCmd {m : Master} {op : Nat} {v : Word} (h : s.Sound) : AllNext State.Sound (keyCmd m op v s) :=
  .next (h.write (fun _ _ => .none) (fun _ _ ht => ht.keyCmdWrite))

theorem State.Sound.execDerive {m : Master} {v : Word} (h : s.Sound) : AllNext State.Sound (execDerive m v s) :=
  h.keyCmd

theorem State.Sound.execErase {m : Master} {v : Word} (h : s.Sound) : AllNext State.Sound (execErase m v s) :=
  h.keyCmd

theorem State.Sound.execInstall {m : Master} {v : Word} (h : s.Sound) : AllNext State.Sound (execInstall m v s) :=
  h.keyCmd

theorem State.Sound.execEraseAll {m : Master} {v : Word} (h : s.Sound) : AllNext State.Sound (execEraseAll m v s) :=
  h.keyCmd

theorem State.Sound.execKeyOpRefused {m : Master} {v : Word} (h : s.Sound) : AllNext State.Sound (execKeyOpRefused m v s) :=
  h.keyCmd

theorem State.Sound.deriveNext {n purpose fn nsid : Nat} (h : s.Sound) : (s.deriveNext n purpose fn nsid).Sound := by
  unfold State.deriveNext
  extract_lets
  exact h.loadKey.commit

theorem State.Sound.rederive (h : s.Sound) : s.rederive.Sound :=
  h.foldl (fun _ ht _ => .ite ht ht.deriveNext)

theorem State.Sound.reinstallRoot (h : s.Sound) : s.reinstallRoot.Sound :=
  .ite h (AllSome.getD h.installBlob h)

/-! ### Events -/

theorem State.Sound.openSpan {c : Nat} {r : Option CmdRef} (h : s.Sound) : (s.openSpan c r).Sound := by
  unfold State.openSpan
  refine .ite h ?_
  extract_lets _ _ _ s1
  have h1 : s1.Sound := h.rest.count
  exact .ite h1.raise h1

theorem State.Sound.closeSpan {c : Nat} (h : s.Sound) : (s.closeSpan c).Sound := h.rest

theorem State.Sound.execEvidentialBoundPassed {c : CmdRef} (h : s.Sound) : AllNext State.Sound (execEvidentialBoundPassed c s) := by
  unfold Machine.execEvidentialBoundPassed
  split
  · exact .ite (.next h.rest.openSpan) (.next h)
  · exact .next h

theorem State.Sound.execAvailabilityTick (h : s.Sound) : AllNext State.Sound (execAvailabilityTick s) := by
  unfold Machine.execAvailabilityTick
  extract_lets _ _ _ _ s1
  have h1 : s1.Sound := h.rest.count64
  exact .ite (.next h.rest) (.next (.ite h1.count64 h1))

theorem State.Sound.writeAcct (h : s.Sound) : s.writeAcct.Sound := h.rest

theorem State.Sound.execAccountingLogWrite (h : s.Sound) : AllNext State.Sound (execAccountingLogWrite s) :=
  .ite (.next h) (.next h.writeAcct)

theorem State.Sound.evtCtrlEffect {v : Word} {d : RegDef} (h : s.Sound) : (evtCtrlEffect v d s).Sound := by
  unfold Machine.evtCtrlEffect
  extract_lets s1 s2
  have h1 : s1.Sound := .ite h h.breakMs
  have h2 : s2.Sound := h1.store
  exact .ite h2.setReg.setReg.setReg h2

theorem State.Sound.execRearm {m : Master} {v : Word} (h : s.Sound) : AllNext State.Sound (execRearm m v s) :=
  .next (h.write (fun _ _ => .none) (fun _ _ ht => ht.evtCtrlEffect))

theorem State.Sound.evtAlarmEffect {v : Word} (h : s.Sound) : (evtAlarmEffect v s).Sound := h.setReg

theorem State.Sound.revertRoutes (h : s.Sound) : s.revertRoutes.Sound :=
  h.foldl (fun _ ht _ => .ite ht.setReg.count.raise.relevel ht)

theorem State.Sound.beginAlarm {n : Nat} (h : s.Sound) : (s.beginAlarm n).Sound := by
  unfold State.beginAlarm
  extract_lets s1 _ s2 _ s3 s4
  have h1 : s1.Sound := .ite h h.raiseAlarm
  have h2 : s2.Sound := .ite h1.rest h1
  have h3 : s3.Sound := .ite h2.cryptoAlarm h2.rest
  have h4 : s4.Sound := h3.syncTemp.syncSupply
  exact .ite h1.rederive (.ite h4.openSpan h4)

theorem State.Sound.execAlarm {n : Nat} (h : s.Sound) : AllNext State.Sound (execAlarm n s) :=
  .ite (.next h) (.next h.beginAlarm)

theorem State.Sound.endAlarm {n : Nat} (h : s.Sound) : (s.endAlarm n).Sound := by
  unfold State.endAlarm
  extract_lets _ _ s1 s2 s3 s4 s5
  have h1 : s1.Sound := h.rest.setReg
  have h2 : s2.Sound := h1.syncTemp.syncSupply
  have h3 : s3.Sound := h2.reinstallRoot
  have h4 : s4.Sound := .ite h3.setReg.rederive h3
  have h5 : s5.Sound := .ite h4.closeSpan h2
  exact .raise (.ite h5.rest h5)

theorem State.Sound.execAlarmEnd {n : Nat} (h : s.Sound) : AllNext State.Sound (execAlarmEnd n s) :=
  .ite (.next h.endAlarm) (.next h)

/-! ### Frl -/

theorem State.Sound.modFrl {g : Frl → Frl} (h : s.Sound) : (s.modFrl g).Sound := h.rest

theorem State.Sound.sbAnswer {eid tag op : Byte} {status : Nat} {data : List Byte} (h : s.Sound) :
    (s.sbAnswer eid tag op status data).Sound :=
  .deliver (.ite h.rest.count.raise h.rest)

theorem State.Sound.patchMsg (h : s.Sound) : s.patchMsg.Sound := by
  unfold State.patchMsg
  split
  · exact .ite h.modFrl h.modFrl
  · exact h

theorem State.Sound.pumpFront {n : Nat} (h : s.Sound) : (s.pumpFront n).Sound := by
  induction n generalizing s with
  | zero => exact h
  | succ n ih =>
    unfold State.pumpFront
    refine .ite h ?_
    extract_lets s1
    have h1 : s1.Sound := h.patchMsg
    split
    · exact h1
    · exact ih h1.modFrl.emit

theorem State.Sound.sendField {ty flags : Nat} {body : List Byte} {o : MsgOwner} (h : s.Sound) : (s.sendField ty flags body o).Sound :=
  h.modFrl.pumpFront

theorem State.Sound.sendAck {flags : Nat} {a r : BitVec 32} (h : s.Sound) : (s.sendAck flags a r).Sound :=
  h.modFrl.emit

theorem State.Sound.execHostResendTimeout (h : s.Sound) : AllNext State.Sound (execHostResendTimeout s) :=
  .ite (.next h) (.next (.modFrl (h.foldl (fun _ ht _ => ht.emit))))

theorem State.Sound.sendResume (h : s.Sound) : s.sendResume.Sound := h.sendAck

theorem State.Sound.frontLink (h : s.Sound) : s.frontLink.Sound :=
  .ite h (.pumpFront (.modFrl (h.setReg.modField.wakeOutputs.raise.modFrl.sendResume.foldl (fun _ ht _ => ht.emit))))

theorem State.Sound.frontDown (h : s.Sound) : s.frontDown.Sound := .ite h.modField.setReg.raise h.modField

theorem State.Sound.execFrontLinkDown (h : s.Sound) : AllNext State.Sound (execFrontLinkDown s) :=
  .ite (.next h.frontDown) (.next h)

theorem State.Sound.frlCtrlEffect {v : Word} {d : RegDef} (h : s.Sound) : (frlCtrlEffect v d s).Sound := by
  unfold Machine.frlCtrlEffect
  extract_lets s1
  have h1 : s1.Sound := h.store
  exact .ite h1.frontDown h1

theorem State.Sound.execRetrain {m : Master} {v : Word} (h : s.Sound) : AllNext State.Sound (execRetrain m v s) :=
  .next (h.write (fun _ _ => .none) (fun _ _ ht => ht.frlCtrlEffect))

theorem State.Sound.execResumeRepeat (h : s.Sound) : AllNext State.Sound (execResumeRepeat s) :=
  .ite (.next h.sendResume) (.next h)

theorem State.Sound.dropMsg {slot : Nat} (h : s.Sound) : (s.dropMsg slot).Sound := h.count.raise

theorem State.Sound.takeHealth {b : List Byte} (h : s.Sound) : (s.takeHealth b).Sound :=
  h.setReg.modFrl.learnTime

theorem State.Sound.acceptEntry {m : List Byte} (h : s.Sound) : (s.acceptEntry m).Sound := by
  unfold State.acceptEntry
  extract_lets s1 _ s2
  have h1 : s1.Sound := h.setReg.count64
  have h2 : s2.Sound := .ite h1.setReg.takeHealth h1.setReg
  exact .ite h2 h2.deliver

theorem State.Sound.frlBad {m : List Byte} (h : s.Sound) : (s.frlBad m).2.Sound := .snd h.scanProt.clearProt

theorem State.Sound.fromField {m : List Byte} {free : State → State} (h : s.Sound) (hfree : ∀ t, t.Sound → (free t).Sound) :
    (s.fromField m free).Sound := by
  unfold State.fromField
  refine .ite h ?_
  split
  · next ea eb => exact (h.frlBad.ofSnd eb).dropMsg
  · next ea eb => exact (h.frlBad.ofSnd eb).dropMsg
  · next ea eb =>
      have h1 := h.frlBad.ofSnd eb
      split
      · exact hfree _ h1.count64
      · refine .ite h1 (.ite h1.acceptEntry ?_)
        extract_lets s2
        have h2 : s2.Sound := h1.dropMsg
        exact .ite h2 h2.sendAck.count

theorem State.Sound.execEventRecord {msg : List Byte} (h : s.Sound) : AllNext State.Sound (execEventRecord msg s) :=
  .ite (.next (h.fromField (fun _ ht => ht))) (.next h)

theorem State.Sound.execCanBatch {msg : List Byte} (h : s.Sound) : AllNext State.Sound (execCanBatch msg s) :=
  .ite (.next (h.fromField (fun _ ht => ht))) (.next h)

theorem State.Sound.execEthFragment {msg : List Byte} (h : s.Sound) : AllNext State.Sound (execEthFragment msg s) :=
  .ite (.next (h.fromField (fun _ ht => ht))) (.next h)

theorem State.Sound.execTimeSync {msg : List Byte} (h : s.Sound) : AllNext State.Sound (execTimeSync msg s) :=
  .ite (.next (h.fromField (fun _ ht => ht))) (.next h)

theorem State.Sound.execFieldHealth {msg : List Byte} (h : s.Sound) : AllNext State.Sound (execFieldHealth msg s) :=
  .ite (.next (h.fromField (fun _ ht => ht))) (.next h)

theorem State.Sound.timeTaken {h : HostMsg} (hs : s.Sound) : (s.timeTaken h).Sound := by
  unfold State.timeTaken
  extract_lets
  split
  · exact hs.learnTime
  · exact hs.learnTime

theorem State.Sound.ackOwner {h : HostMsg} {r : Nat} (hs : s.Sound) : (s.ackOwner h r).Sound := by
  unfold State.ackOwner
  split
  · exact .ite hs.timeTaken hs
  · exact hs.setReg.raise
  · exact .sbAnswer (.ite hs.raise hs)

theorem State.Sound.takeAck {m : List Byte} (h : s.Sound) : (s.takeAck m).Sound := by
  unfold State.takeAck
  extract_lets
  refine .ite h.setReg.setReg.modFrl ?_
  split
  · exact h
  · exact h.modFrl.ackOwner.pumpFront

theorem State.Sound.execAck {msg : List Byte} (h : s.Sound) : AllNext State.Sound (execAck msg s) :=
  .ite (.next (h.fromField (fun _ ht => ht.takeAck))) (.next h)

theorem State.Sound.frlMsgCond {m : Master} {off : Nat} {v : Word} (h : s.Sound) : AllSome State.Sound (frlMsgCond m off v s) :=
  .ite (.some h.refuse) .none

theorem State.Sound.frlMsgEffect {m : Master} {v : Word} {d : RegDef} (h : s.Sound) : (frlMsgEffect m v d s).Sound := by
  unfold Machine.frlMsgEffect
  extract_lets s1
  have h1 : s1.Sound := h.store
  exact .ite h1 (.ite h1.setReg.refuse h1.setReg.sendField)

theorem State.Sound.execFrlMsgSend {m : Master} {v : Word} (h : s.Sound) : AllNext State.Sound (execFrlMsgSend m v s) :=
  .next (h.write (fun _ ht => ht.frlMsgCond) (fun _ _ ht => ht.frlMsgEffect))

theorem State.Sound.execFrlMsgTimeout (h : s.Sound) : AllNext State.Sound (execFrlMsgTimeout s) :=
  .ite (.next h) (.next h.modFrl.setReg.raise)

theorem State.Sound.sealBlocks {es : List (BitVec 32 × List Byte × BitVec 64 × Bool)} {n : Nat} (h : s.Sound) :
    (s.sealBlocks es n).2.Sound := by
  induction n generalizing s es with
  | zero => exact .snd h
  | succ n ih => exact .snd (ih (.modFrl (.useBlocks (.ite h.useBlocks.deriveNext h))))

theorem State.Sound.execCaptureAppend (h : s.Sound) : AllNext State.Sound (execCaptureAppend s) := by
  unfold Machine.execCaptureAppend
  extract_lets
  refine .ite (.next h) ?_
  refine .ite (.next h.setField) (.ite (.next h.raise) (.ite (.next h.count) (.ite (.next h) ?_)))
  split
  · next e => exact .next (h.useKey.ofSnd e)
  · next e =>
      extract_lets
      split
      · next e2 =>
          extract_lets _ s1
          have h1 : s1.Sound := ((h.useKey.ofSnd e).sealBlocks.ofSnd e2).takeTokens.count64.modFrl
          exact .next h1.rest.stageAll

theorem State.Sound.execAppendDurable {k : Nat} (h : s.Sound) : AllNext State.Sound (execAppendDurable k s) := by
  unfold Machine.execAppendDurable
  split
  · exact .next h
  · refine .ite (.next h) ?_
    extract_lets s1
    have h1 : s1.Sound := h.closeAppend.closeSpan
    split
    · exact .next h1.modFrl
    · exact .next (.ite h1.modFrl.setReg.sendAck h1.modFrl)

theorem State.Sound.execFieldAppendBoundPassed (h : s.Sound) : AllNext State.Sound (execFieldAppendBoundPassed s) := by
  unfold Machine.execFieldAppendBoundPassed
  split
  · exact .ite (.next h.openSpan) (.next h)
  · exact .next h

theorem State.Sound.execVf3p3Loss (h : s.Sound) : AllNext State.Sound (execVf3p3Loss s) :=
  .ite (.next h) (.next h.modField.frontDown.modFrl)

/-! ### Admin -/

theorem State.Sound.adminCmd {c : NvmeCmd} {pfOnly : Bool} {f : State → State} (h : s.Sound) (hf : ∀ t, t.Sound → (f t).Sound) :
    AllNext State.Sound (adminCmd c s pfOnly f) :=
  h.onAdmin (fun _ ht => .ite ht.finish (.ite ht.finish (hf _ ht)))

theorem State.Sound.answerData {c : NvmeCmd} {bs : List Byte} {st : Status} (h : s.Sound) : (s.answerData c bs st).Sound := by
  unfold State.answerData
  split
  · exact h.finish
  · split
    · next e => exact (h.xferOk.ofSnd e).finish
    · next e => exact (h.xferOk.ofSnd e).hostWrite.finish

theorem State.Sound.withData {c : NvmeCmd} {len : Nat} {f : State → State} (h : s.Sound) (hf : ∀ t, t.Sound → (f t).Sound) :
    (s.withData c len f).Sound := by
  unfold State.withData
  have hr : AllRows [Machine.ptrRow c len, Machine.fetchRow c] := .cons .ptrRow (.cons .fetchRow .nil)
  split
  · next e => exact ((h.firstRow hr).of_eq e).finish
  · exact hf _ h

theorem State.Sound.execCreateIoSubmissionQueue {c : NvmeCmd} (h : s.Sound) : AllNext State.Sound (execCreateIoSubmissionQueue c s) := by
  unfold Machine.execCreateIoSubmissionQueue
  refine State.Sound.adminCmd h (fun _ ht => ?_)
  extract_lets
  refine .ite ht.finish (.ite ht.finish (.ite ht.finish ?_))
  split
  · exact ht.finish
  · exact .ite ht.finish (.ite ht.finish ht.modCtrl.finish)

theorem State.Sound.execCreateIoCompletionQueue {c : NvmeCmd} (h : s.Sound) : AllNext State.Sound (execCreateIoCompletionQueue c s) := by
  unfold Machine.execCreateIoCompletionQueue
  refine State.Sound.adminCmd h (fun _ ht => ?_)
  extract_lets
  refine .ite ht.finish (.ite ht.finish (.ite ht.finish ?_))
  split
  · exact ht.finish
  · exact .ite ht.finish (.ite ht.finish ht.modCtrl.finish)

theorem State.Sound.execDeleteIoSubmissionQueue {c : NvmeCmd} (h : s.Sound) : AllNext State.Sound (execDeleteIoSubmissionQueue c s) := by
  unfold Machine.execDeleteIoSubmissionQueue
  refine State.Sound.adminCmd h (fun _ ht => ?_)
  extract_lets
  split
  · exact .ite ht.finish ht.addCmd.modSq.endDelete
  · exact ht.finish

theorem State.Sound.execDeleteIoCompletionQueue {c : NvmeCmd} (h : s.Sound) : AllNext State.Sound (execDeleteIoCompletionQueue c s) :=
  h.adminCmd (fun _ ht => .ite ht.finish (.ite ht.finish ht.modCtrl.finish))

theorem State.Sound.execAbort {c : NvmeCmd} (h : s.Sound) : AllNext State.Sound (execAbort c s) := by
  unfold Machine.execAbort
  refine State.Sound.adminCmd h (fun _ ht => ?_)
  extract_lets
  split
  · exact .ite ht.finish ht.modSq.finish.finish
  · exact ht.finish

theorem State.Sound.putRec {g : SlotRec → SlotRec} (h : s.Sound) : (s.putRec g).Sound := h.rest

theorem State.Sound.afterLog {f : Fun} {lid off len : Nat} {clear rae : Bool} (h : s.Sound) :
    (s.afterLog f lid off len clear rae).Sound := by
  unfold State.afterLog
  extract_lets s1 s2
  have h1 : s1.Sound := .ite h.modLogs h
  have h2 : s2.Sound := .ite h1.modLogs h1
  refine .ite h1 ?_
  split
  · exact h2.unmaskAsync
  · exact h2

theorem State.Sound.execGetLogPage {c : NvmeCmd} (h : s.Sound) : AllNext State.Sound (execGetLogPage c s) := by
  unfold Machine.execGetLogPage
  refine State.Sound.adminCmd h (fun _ ht => ?_)
  extract_lets
  split
  · exact ht.finish
  · refine .ite ht.finish ?_
    extract_lets _ s1
    have h1 : s1.Sound := ht.answerData
    exact .ite h1.afterLog h1

theorem State.Sound.execIdentify {c : NvmeCmd} (h : s.Sound) : AllNext State.Sound (execIdentify c s) := by
  unfold Machine.execIdentify
  refine State.Sound.adminCmd h (fun _ ht => ?_)
  split
  · exact ht.finish
  · exact ht.answerData

theorem State.Sound.modFeat {f : Fun} {g : Features → Features} (h : s.Sound) : (s.modFeat f g).Sound :=
  h.modCtrl

theorem State.Sound.setDefault {c : NvmeCmd} (h : s.Sound) : AllSome State.Sound (s.setDefault c) :=
  .ite .none (.ite .none (.some h.modSq))

theorem State.Sound.setFeature {c : NvmeCmd} {fid : Nat} (h : s.Sound) : AllOk (fun x => x.1.Sound) (s.setFeature c fid) := by
  unfold State.setFeature
  extract_lets
  split
  · exact .ok (.fst h.modFeat)
  · exact .ite .error (.ok (.fst h.modFeat))
  · split
    · exact .error
    · exact .ok (.fst h.modFeat)
  · exact .ite .error (.ok (.fst h.modFeat))
  · exact .ok (.fst h)
  · exact .ok (.fst h.modFeat)
  · exact .ite .error (.ok (.fst h.modFeat))
  · exact .ok (.fst h)
  · exact .ok (.fst h.modFeat)
  · split
    · next e => exact .ok (.fst (h.setDefault.of_eq e))
    · exact .error
  · exact .error

theorem State.Sound.setTimestamp {c : NvmeCmd} (h : s.Sound) : (s.setTimestamp c).Sound :=
  .ite h.finish (h.withData (fun _ ht => ht.sendField.finish))

theorem State.Sound.setFeatures {c : NvmeCmd} {fid : Nat} (h : s.Sound) : (s.setFeatures c fid).Sound := by
  unfold State.setFeatures
  refine .ite h.finish (.ite h.finish (.ite h.setTimestamp ?_))
  split
  · exact h.finish
  · next e => exact (h.setFeature.of_eq e).finish

theorem State.Sound.getFeatures {c : NvmeCmd} {fid : Nat} (h : s.Sound) : (s.getFeatures c fid).Sound := by
  unfold State.getFeatures
  refine .ite h.finish (.ite h.answerData ?_)
  split
  · exact h.finish
  · exact h.finish

theorem State.Sound.execSetFeatures {c : NvmeCmd} (h : s.Sound) : AllNext State.Sound (execSetFeatures c s) :=
  h.adminCmd (fun _ ht => ht.setFeatures)

theorem State.Sound.execGetFeatures {c : NvmeCmd} (h : s.Sound) : AllNext State.Sound (execGetFeatures c s) :=
  h.adminCmd (fun _ ht => ht.getFeatures)

theorem State.Sound.execSetFeaturesNumberOfQueues {c : NvmeCmd} (h : s.Sound) :
    AllNext State.Sound (execSetFeaturesNumberOfQueues c s) :=
  h.adminCmd (fun _ ht => ht.setFeatures)

theorem State.Sound.execSetFeaturesTimestamp {c : NvmeCmd} (h : s.Sound) : AllNext State.Sound (execSetFeaturesTimestamp c s) :=
  h.adminCmd (fun _ ht => ht.setFeatures)

theorem State.Sound.execGetFeaturesTimestamp {c : NvmeCmd} (h : s.Sound) : AllNext State.Sound (execGetFeaturesTimestamp c s) :=
  h.adminCmd (fun _ ht => ht.getFeatures)

theorem State.Sound.execSetQueueAdmissionDefault {c : NvmeCmd} (h : s.Sound) : AllNext State.Sound (execSetQueueAdmissionDefault c s) :=
  h.adminCmd (fun _ ht => ht.setFeatures)

theorem State.Sound.execGetQueueAdmissionDefault {c : NvmeCmd} (h : s.Sound) : AllNext State.Sound (execGetQueueAdmissionDefault c s) :=
  h.adminCmd (fun _ ht => ht.getFeatures)

theorem State.Sound.execAsynchronousEventRequest {c : NvmeCmd} (h : s.Sound) : AllNext State.Sound (execAsynchronousEventRequest c s) :=
  h.adminCmd (fun _ ht => .ite ht.finish ht.addCmd.modLogs.drainAsync)

theorem State.Sound.notice {f : Fun} {k info lid : Nat} (h : s.Sound) : (s.notice f k info lid).Sound :=
  .ite h.asyncEvent h

theorem State.Sound.nsChanged {f : Fun} {n : Nat} (h : s.Sound) : (s.nsChanged f n).Sound := h.modLogs.notice

theorem State.Sound.createNs {c : NvmeCmd} (h : s.Sound) : (s.createNs c).Sound := by
  unfold State.createNs
  extract_lets _ _ _ _ x1
  clear_value x1
  split
  · exact h.finish
  · exact h.finish
  · extract_lets
    refine .ite h.finish ?_
    split
    · exact .ite h.finish (.ite h.finish (.ite h.finish h.rest.commit.deriveNext.finish))
    · exact .ite h.finish (.ite h.finish h.rest.finish)
    · exact h.rest.finish

theorem State.Sound.deleteNs {x : Ns} (h : s.Sound) : (s.deleteNs x).Sound := by
  unfold State.deleteNs
  extract_lets s1 s2 _ _ _ s3
  have h1 : s1.Sound := h.unmapNs
  have h2 : s2.Sound := h1.eraseKey.commit
  have h3 : s3.Sound := by
    dsimp only [s3]
    split
    · exact h2.unstage
    · exact h
    · exact h.rest
  split
  · exact h3.rest.nsChanged
  · exact h3.rest

theorem State.Sound.unlessDeferred {c : NvmeCmd} {f : State → State} (h : s.Sound) (hf : ∀ t, t.Sound → (f t).Sound) :
    (s.unlessDeferred c f).Sound := by
  unfold State.unlessDeferred
  split
  · next e => exact (h.deferRow.of_eq e).finish
  · exact hf _ h

theorem State.Sound.execNamespaceManagement {c : NvmeCmd} (h : s.Sound) : AllNext State.Sound (execNamespaceManagement c s) := by
  unfold Machine.execNamespaceManagement
  refine State.Sound.adminCmd h (fun _ ht => ?_)
  split
  · exact ht.withData (fun _ ht2 => ht2.createNs)
  · refine .ite (.finish (ht.foldl (fun _ ht2 _ => ht2.deleteNs))) (.unlessDeferred ht (fun _ ht2 => ?_))
    refine .ite ht2.finish ?_
    split
    · exact ht2.deleteNs.finish
    · exact ht2.finish
  · exact ht.finish

theorem State.Sound.setNsOwner {n : Nat} {f : Option Fun} (h : s.Sound) : (s.setNsOwner n f).Sound := h.rest

theorem State.Sound.attachNs {n f : Nat} (h : s.Sound) : AllOk State.Sound (s.attachNs n f) := by
  unfold State.attachNs
  extract_lets
  refine .ite (.ite .error (.ok h.rest)) ?_
  split
  · exact .error
  · exact .ite .error (.ite .error (.ite .error (.ite .error (.ok h.setNsOwner))))

theorem State.Sound.detachNs {n f : Nat} (h : s.Sound) : AllOk State.Sound (s.detachNs n f) := by
  unfold State.detachNs
  extract_lets
  refine .ite (.ite .error (.ite (.ok h.rest) .error)) ?_
  split
  · exact .error
  · exact .ite (.ok h.setNsOwner) .error

theorem State.Sound.overList {g : State → Nat → Except Status State} {l : List Nat} (h : s.Sound) (hg : ∀ t, t.Sound → ∀ x, AllOk
    State.Sound (g t x)) : AllOk State.Sound (s.overList g l) := by
  induction l generalizing s with
  | nil => exact .ok h
  | cons x l ih =>
    unfold State.overList
    split
    · next e => exact ih ((hg _ h _).of_eq e)
    · exact .error

theorem State.Sound.execNamespaceAttachment {c : NvmeCmd} (h : s.Sound) : AllNext State.Sound (execNamespaceAttachment c s) := by
  unfold Machine.execNamespaceAttachment
  refine h.adminCmd fun _ ht => ?_
  extract_lets
  refine .ite ht.finish (.ite ht.finish (.unlessDeferred ht fun _ ht => .withData ht fun t ht => ?_))
  extract_lets
  refine .ite ht.finish ?_
  split
  · exact ht.finish
  · next e =>
      have h1 := (State.Sound.overList ht fun _ hu _ => .ite hu.attachNs hu.detachNs).of_eq e
      exact (h1.foldl fun _ ht _ => ht.nsChanged).finish

theorem State.Sound.formatNs {x : Ns} (h : s.Sound) : (s.formatNs x).Sound := by
  unfold State.formatNs
  extract_lets
  exact h.unmapNs.commit.unstage.deriveNext

theorem State.Sound.execFormatNvm {c : NvmeCmd} (h : s.Sound) : AllNext State.Sound (execFormatNvm c s) := by
  unfold Machine.execFormatNvm
  refine State.Sound.adminCmd h (fun _ ht => ?_)
  extract_lets
  refine .ite ht.finish (.ite ht.finish (.ite ht.finish ?_))
  refine .ite (.finish (ht.foldl (fun _ ht2 _ => ht2.formatNs))) (.unlessDeferred ht (fun _ ht2 => ?_))
  refine .ite ht2.finish ?_
  split
  · exact ht2.finish
  · exact ht2.formatNs.finish

theorem State.Sound.endTest {f : Fun} {result : Nat} (h : s.Sound) : (s.endTest f result).Sound :=
  h.uncharge.modLogs

theorem State.Sound.execDeviceSelfTest {c : NvmeCmd} (h : s.Sound) : AllNext State.Sound (execDeviceSelfTest c s) :=
  h.adminCmd (fun _ ht => .ite ht.endTest.finish (.ite ht.finish (.ite ht.finish ht.modLogs.finish)))

theorem State.Sound.testBanks (h : s.Sound) : s.testBanks.Sound :=
  .ite h (h.foldl (fun _ ht _ => .ite ht.modBank ht))

theorem State.Sound.execSelfTestSegment {fn : Fun} {units : List (Die × Nat)} {last pass : Bool} (h : s.Sound) :
    AllNext State.Sound (execSelfTestSegment fn units last pass s) := by
  unfold Machine.execSelfTestSegment
  extract_lets _ _ _ s1
  have h1 : s1.Sound := h.uncharge
  exact .ite (.next h) (.ite (.next h.modLogs) (.ite (.next h1.endTest) (.ite (.next h1.endTest) (.next h1.testBanks.chargeDemand))))

theorem State.Sound.execInvalidCommandOpcode {c : NvmeCmd} (h : s.Sound) : AllNext State.Sound (execInvalidCommandOpcode c s) := by
  unfold Machine.execInvalidCommandOpcode
  refine .ite (.next h) ?_
  split
  · next e => exact .next (h.fetchEntry.ofFst e).finish
  · next e => exact .next (h.fetchEntry.ofFst e)

/-! ### Firmware -/

theorem State.Sound.modFw {g : Firmware → Firmware} (h : s.Sound) : (s.modFw g).Sound := h.rest

theorem State.Sound.execFirmwareImageDownload {c : NvmeCmd} (h : s.Sound) : AllNext State.Sound (execFirmwareImageDownload c s) :=
  h.adminCmd (fun _ ht => .ite ht.finish (ht.withData (fun _ ht2 => ht2.modFw.finish)))

theorem State.Sound.firmwareCommit {c : NvmeCmd} {acts : List Nat} (h : s.Sound) : AllNext State.Sound (firmwareCommit c acts s) :=
  .ite (.next h) (h.adminCmd (fun _ ht => .ite ht.finish (.ite ht.finish (.ite ht.finish (.ite ht.finish ht.addCmd.modFw)))))

theorem State.Sound.execFirmwareCommitReplace {c : NvmeCmd} (h : s.Sound) : AllNext State.Sound (execFirmwareCommitReplace c s) :=
  h.firmwareCommit

theorem State.Sound.execFirmwareCommitNextReset {c : NvmeCmd} (h : s.Sound) : AllNext State.Sound (execFirmwareCommitNextReset c s) :=
  h.firmwareCommit

theorem State.Sound.execFirmwareCommitActivate {c : NvmeCmd} (h : s.Sound) : AllNext State.Sound (execFirmwareCommitActivate c s) :=
  h.firmwareCommit

theorem State.Sound.replaceSlot {slot : Nat} (h : s.Sound) : (s.replaceSlot slot).Sound := .ite h h.modFw

theorem State.Sound.loadCell {c : CellId} {r : Role} (h : s.Sound) : (s.loadCell c r).Sound := h.rest.modCell

theorem State.Sound.endCommit {k : Commit} {st : Status} (h : s.Sound) : (s.endCommit k st).Sound :=
  h.modFw.finish

theorem State.Sound.startActivation {k : Commit} (h : s.Sound) : (s.startActivation k).Sound :=
  .notice (h.modFw.putRec.setReg.foldl (fun _ ht _ => ht.charge))

theorem State.Sound.execSignatureCheckDone {ok : Bool} (h : s.Sound) : AllNext State.Sound (execSignatureCheckDone ok s) := by
  unfold Machine.execSignatureCheckDone
  split
  · exact .next h
  · refine .ite (.next h) (.ite (.next h.endCommit) ?_)
    split
    · exact .next h.replaceSlot.endCommit
    · exact .next h.replaceSlot.putRec.endCommit
    · exact .next h.putRec.endCommit
    · exact .next h.replaceSlot.startActivation

/-! ### Vfm -/

theorem State.Sound.modVf {f : Nat} {g : Vf → Vf} (h : s.Sound) : (s.modVf f g).Sound :=
  h.withVfs length_at'

theorem State.Sound.modShares {f : Nat} {g : Shares → Shares} (h : s.Sound) : (s.modShares f g).Sound :=
  h.modVf

theorem State.Sound.remask (h : s.Sound) : s.remask.Sound := h.foldl (fun _ ht _ => ht.modSlice.syncWays)

theorem State.Sound.startMove {c : Nat} {r : Role} (h : s.Sound) : (s.startMove c r).Sound :=
  .ite h.rest h.rest

theorem State.Sound.moveCell {c f : Nat} (h : s.Sound) : (s.moveCell c f).Sound := h.startMove

theorem State.Sound.freeBank {b : Nat} (h : s.Sound) : (s.freeBank b).Sound := h.srbCtrlEffect

theorem State.Sound.freeWay {w : Nat} (h : s.Sound) : (s.freeWay w).Sound :=
  h.foldl (fun _ ht _ => ht.flushWay)

theorem State.Sound.freeSlot {n : Nat} (h : s.Sound) : (s.freeSlot n).Sound := h.eraseKey.modKey

theorem State.Sound.fillSlots {f : Fun} (h : s.Sound) : (s.fillSlots f).Sound := by
  unfold State.fillSlots
  extract_lets put
  have hput (t : State) (ht : t.Sound) (n purpose : Nat) : (put t n purpose).Sound := .ite ht.modKey ht.modKey.loadKey
  clear_value put
  split
  · exact h
  · exact hput s h ..
  · exact hput _ (hput s h ..) ..

theorem State.Sound.settleShares {f : Fun} {old new : Shares} (h : s.Sound) : (s.settleShares f old new).Sound := by
  unfold State.settleShares
  extract_lets _ s1 s2 s3 s4
  have h1 : s1.Sound := h.foldl (fun _ ht _ => ht.freeBank)
  have h2 : s2.Sound := h1.foldl (fun _ ht _ => ht.srbCtrlEffect)
  have h3 : s3.Sound := h2.foldl (fun _ ht _ => ht.freeWay)
  have h4 : s4.Sound := h3.foldl (fun _ ht _ => ht.freeSlot)
  exact .remask (.fillSlots (.modShares (.ite h4.rest h4)))

theorem State.Sound.zeroSlm (h : s.Sound) : s.zeroSlm.Sound := by
  obtain ⟨h0, h1, h2, h3, h4, h5, h6, h7, h8, h9, h10, h11, h12, h13⟩ := h
  exact ⟨h0, h1, h2, h3, h4, h5, h6, h7, h8, h9, h10, h11, (List.length_map ..).trans h12, (List.length_map ..).trans h13⟩

theorem State.Sound.execSlmShareZero {fn : Fun} (h : s.Sound) : AllNext State.Sound (execSlmShareZero fn s) := by
  unfold Machine.execSlmShareZero
  refine .ite (.next h) (.next ?_)
  exact h.zeroSlm.rest

theorem State.Sound.reloadShares (h : s.Sound) : s.reloadShares.Sound :=
  h.setReg.setReg.setReg.setReg.setReg.setReg

theorem State.Sound.vfmSelEffect {v : Word} {d : RegDef} (h : s.Sound) : (vfmSelEffect v d s).Sound :=
  h.store.reloadShares

theorem State.Sound.execVfmSelWrite {m : Master} {v : Word} (h : s.Sound) : AllNext State.Sound (execVfmSelWrite m v s) :=
  .next (h.write (fun _ _ => .none) (fun _ _ ht => ht.vfmSelEffect))

theorem State.Sound.shareCond {m : Master} {off : Nat} {v : Word} (h : s.Sound) : AllSome State.Sound (shareCond m off v s) :=
  .ite (.some h.refuse) .none

theorem State.Sound.applyResult {n : Nat} (h : s.Sound) : (s.applyResult n).Sound := h.setField

theorem State.Sound.applyShares {f : Fun} {x : Shares} (h : s.Sound) : (s.applyShares f x).Sound := by
  unfold State.applyShares
  extract_lets _ s1 _ _ _ _ _ s2 s3 s4
  have h1 : s1.Sound := h.applyResult.settleShares
  have h2 : s2.Sound := h1.modShares.foldl (fun _ ht _ => ht.moveCell)
  have h3 : s3.Sound := h2.foldl (fun _ ht _ => ht.moveCell)
  have h4 : s4.Sound := h3.remask
  exact .ite h4.raise h4.rest

theorem State.Sound.applyEffect {m : Master} {v : Word} (h : s.Sound) : (applyEffect m v s).Sound :=
  .ite h (.ite h.applyResult.refuse (.ite h.applyResult (.ite h.applyResult (.ite h.applyResult h.applyShares))))

theorem State.Sound.execApply {m : Master} {v : Word} (h : s.Sound) : AllNext State.Sound (execApply m v s) :=
  .next (h.write (fun _ ht => ht.shareCond) (fun _ _ ht => ht.applyEffect))

theorem State.Sound.cellJoined {c : Nat} (h : s.Sound) : (s.cellJoined c).Sound := by
  unfold State.cellJoined
  split
  · exact h
  · refine .ite h ?_
    extract_lets _ s1 _ _ _ s2
    have h1 : s1.Sound := .ite h.modShares h
    have h2 : s2.Sound := h1.rest.remask
    exact .ite h2.raise h2

theorem State.Sound.virtualCmd {c : NvmeCmd} {act : Nat} {f : Fun → State → State} (h : s.Sound) (hf : ∀ x, ∀ t, t.Sound → (f x t).Sound)
    : AllNext State.Sound (virtualCmd c act s f) :=
  .ite (.next h) (h.adminCmd (fun _ ht => .ite ht.finish (.ite ht.finish (hf _ _ ht))))

theorem State.Sound.execSecondaryControllerOffline {c : NvmeCmd} (h : s.Sound) :
    AllNext State.Sound (execSecondaryControllerOffline c s) := by
  unfold Machine.execSecondaryControllerOffline
  refine State.Sound.virtualCmd h (fun _ _ ht => ?_)
  extract_lets s1
  have h1 : s1.Sound := ht.modVf.modCtrl
  exact .ite (.addCmd (.ite h1 h1.beginReset)) h1.finish

theorem State.Sound.assignPairs {f : Fun} {n : Nat} (h : s.Sound) : (s.assignPairs f n).Sound :=
  .ite h.modCtrl.modCtrl h.modCtrl.modCtrl

theorem State.Sound.execSecondaryControllerAssign {c : NvmeCmd} (h : s.Sound) :
    AllNext State.Sound (execSecondaryControllerAssign c s) :=
  h.virtualCmd (fun _ _ ht => .ite ht.finish (.ite ht.finish (.ite ht.finish (.ite ht.finish ht.assignPairs.finish))))

theorem State.Sound.execSecondaryControllerOnline {c : NvmeCmd} (h : s.Sound) :
    AllNext State.Sound (execSecondaryControllerOnline c s) :=
  h.virtualCmd (fun _ _ ht => .ite ht.finish ht.modVf.finish)

theorem State.Sound.mbdbEffect {m : Master} {v : Word} (h : s.Sound) : (mbdbEffect m v s).Sound := by
  unfold Machine.mbdbEffect
  extract_lets _ s1
  have h1 : s1.Sound := .ite h (.ite h.refuse.count h.modVf.count.raise)
  exact .ite h (.ite h1.modVf.raise h1)

theorem State.Sound.vmbDbEffect {m : Master} {f : Nat} {v : Word} (h : s.Sound) : (vmbDbEffect m f v s).Sound := by
  unfold Machine.vmbDbEffect
  extract_lets s1
  have h1 : s1.Sound := .ite h (.ite h.refuse h.modVf.raise)
  exact .ite h1.modVf.raise h1

theorem State.Sound.boxWrite {m : Master} {fn : Fun} {v : Word} (h : s.Sound) : AllNext State.Sound (boxWrite m fn v s) := by
  unfold Machine.boxWrite
  split
  · exact .ite (.next (h.write (fun _ ht => .none) (fun _ _ ht => ht.vmbDbEffect))) (.next h)
  · exact .ite (.next (h.write (fun _ ht => .none) (fun _ _ ht => ht.mbdbEffect))) (.next h)

theorem State.Sound.execMailboxSend {m : Master} {fn : Fun} {v : Word} (h : s.Sound) : AllNext State.Sound (execMailboxSend m fn v s) :=
  h.boxWrite

theorem State.Sound.execMailboxAck {m : Master} {fn : Fun} {v : Word} (h : s.Sound) : AllNext State.Sound (execMailboxAck m fn v s) :=
  h.boxWrite

theorem State.Sound.modDirty {f : Nat} {g : Dirty → Dirty} (h : s.Sound) : (s.modDirty f g).Sound := h.modVf

theorem State.Sound.dpCond {m : Master} {off : Nat} {v : Word} (h : s.Sound) : AllSome State.Sound (dpCond m off v s) :=
  .ite (.some h.refuse) .none

theorem State.Sound.dpCtrlEffect {v : Word} (h : s.Sound) : (dpCtrlEffect v s).Sound :=
  .ite h.modDirty.modDirty h.modDirty

theorem State.Sound.dpEffect {off : Nat} {v : Word} (h : s.Sound) : (dpEffect off v s).Sound := h.modDirty

theorem State.Sound.dpCtrlWrite {m : Master} {v : Word} (h : s.Sound) : AllNext State.Sound (dpCtrlWrite m v s) :=
  .next (h.write (fun _ ht => ht.dpCond) (fun _ _ ht => ht.dpCtrlEffect))

theorem State.Sound.execDirtyPageEnable {m : Master} {v : Word} (h : s.Sound) : AllNext State.Sound (execDirtyPageEnable m v s) :=
  h.dpCtrlWrite

theorem State.Sound.execCopyBitmap {m : Master} {v : Word} (h : s.Sound) : AllNext State.Sound (execCopyBitmap m v s) :=
  h.dpCtrlWrite

theorem State.Sound.execDirtyPageCopyDone {fn : Fun} (h : s.Sound) : AllNext State.Sound (execDirtyPageCopyDone fn s) :=
  .ite (.next h) (.next h.hostWrite.modDirty.raise)

theorem State.Sound.mboutWrite {off : Nat} {v : Word} (h : s.Sound) : (mboutWrite off v s).Sound :=
  .ite h h.modVf

theorem State.Sound.stopJobs {c : CellId} (h : s.Sound) : (s.stopJobs c).Sound := by
  unfold State.stopJobs
  extract_lets s1
  have h1 : s1.Sound := by
    dsimp only [s1]
    refine .foldl h (fun _ ht _ => ?_)
    split
    · exact .ite ht.modLane.endJob ht
    · exact ht
  refine .foldl h1 (fun _ ht _ => ?_)
  split
  · exact ht.codecStop
  · exact ht

theorem State.Sound.stopExecs {f : Fun} (h : s.Sound) : (s.stopExecs f).Sound :=
  .foldl (.foldl (.foldl (h.foldl (fun _ ht _ => ht.stopJobs)) (fun _ ht _ => .ite ht.clearCtx ht)) (fun _ ht _ => .forget (.uncharge (.ite
      ht.rest ht.leaveExec)))) (fun _ ht _ => ht.holdAndFill)

theorem State.Sound.beginFlr {f : Fun} (h : s.Sound) : (s.beginFlr f).Sound :=
  h.modCtrl.modVf.count.raise.stopExecs.dropAsync.foldl (fun _ ht _ => ht.sortFlr)

theorem State.Sound.endFlr {f : Fun} (h : s.Sound) : (s.endFlr f).Sound := h.modVf.modCtrl.endReset.raise

theorem State.Sound.execFlrVf {fn : Fun} (h : s.Sound) : AllNext State.Sound (execFlrVf fn s) :=
  .ite (.next h) (.next h.beginFlr)

theorem State.Sound.execVfResetComplete {fn : Fun} (h : s.Sound) : AllNext State.Sound (execVfResetComplete fn s) :=
  .ite (.next h.endFlr) (.next h)

theorem State.Sound.releaseVf {f : Fun} (h : s.Sound) : (s.releaseVf f).Sound := by
  unfold State.releaseVf
  extract_lets _ _ _ _ s1
  have h1 : s1.Sound := h.settleShares.modShares.foldl (fun _ ht _ => ht.moveCell)
  exact h1.rest.modBucket.assignPairs.modVf

theorem State.Sound.clearVfEnable (h : s.Sound) : s.clearVfEnable.Sound := by
  unfold State.clearVfEnable
  refine .ite h ?_
  extract_lets _ _ s1
  have h1 : s1.Sound := .foldl (h.foldl (fun _ ht _ => .endFlr (.ite ht ht.beginFlr))) (fun _ ht _ => ht.releaseVf)
  exact h1.rest.remask.revertRoutes

theorem State.Sound.execVfEnableClear (h : s.Sound) : AllNext State.Sound (execVfEnableClear s) :=
  .ite (.next h.clearVfEnable) (.next h)

theorem State.Sound.execVfEnableSet {n : Fun} (h : s.Sound) : AllNext State.Sound (execVfEnableSet n s) :=
  .ite (.next h) (.next h.rest)

theorem State.Sound.execFlrPf (h : s.Sound) : AllNext State.Sound (execFlrPf s) :=
  .ite (.next h) (.next (.clearVfEnable (.ite h h.beginReset)))

/-! ### Reassign -/

theorem State.Sound.addMoves {l : List (Nat × Role)} (h : s.Sound) : (s.addMoves l).Sound := h.rest

theorem State.Sound.rewriteCell {c : CellId} {r : Role} (h : s.Sound) : (s.rewriteCell c r).Sound := by
  unfold State.rewriteCell
  refine .ite h.wreload.setRole ?_
  extract_lets s1
  have h1 : s1.Sound := h.holdAndFill.setRole.setReg
  exact .ite h1.setReg h1.setReg.loadCell

theorem State.Sound.sendFence {c : CellId} (h : s.Sound) : (s.sendFence c).Sound :=
  .ite h (h.onMesh (fun _ ht => ht.emit))

theorem State.Sound.execDrainDone {c : CellId} (h : s.Sound) : AllNext State.Sound (execDrainDone c s) := by
  unfold Machine.execDrainDone
  split
  · exact .next h
  · refine .ite (.next h) ?_
    extract_lets s1
    have h1 : s1.Sound := h.sendFence.rewriteCell
    exact .next h1.rest

theorem State.Sound.cellReady {c : CellId} (h : s.Sound) : (s.cellReady c).Sound := by
  unfold State.cellReady
  extract_lets s1
  have h1 : s1.Sound := .ite h h.unhold
  exact h1.rest.raise.count.cellJoined

theorem State.Sound.beginPause (h : s.Sound) : s.beginPause.Sound := h.rest

theorem State.Sound.endPause (h : s.Sound) : s.endPause.Sound := by
  unfold State.endPause
  extract_lets _ s1
  have h1 : s1.Sound := h.uncharge
  exact h1.rest.rest.foldl (fun _ ht _ => ht.programEnd)

theorem State.Sound.endActivation {k : Commit} (h : s.Sound) : (s.endActivation k).Sound := by
  unfold State.endActivation
  extract_lets s1
  have h1 : s1.Sound := h.putRec
  exact h1.rest.setReg.endCommit.pumpFront

theorem State.Sound.reverseNext {k : Commit} (h : s.Sound) : (s.reverseNext k).Sound := by
  unfold State.reverseNext
  extract_lets _ _ _ _ s1
  have h1 : s1.Sound := h.addMoves
  exact .ite h (.ite h.setReg.endCommit (.ite h1.beginPause h1))

theorem State.Sound.takeBack {c : CellId} {r : Role} (h : s.Sound) : (s.takeBack c r).Sound :=
  h.rewriteCell.cellReady

theorem State.Sound.reverse {k : Commit} (h : s.Sound) : (s.reverse k).Sound := h.modFw.reverseNext

theorem State.Sound.execCellReassign {c : CellId} {r : Role} (h : s.Sound) : AllNext State.Sound (execCellReassign c r s) := by
  unfold Machine.execCellReassign
  extract_lets
  refine .ite (.next h) (.ite ?_ ?_)
  · split
    · exact .ite (.next h.takeBack.reverse) (.next h)
    · exact .next h
  · refine .ite (.ite (.next h) (.next h.addMoves)) ?_
    split
    · exact .next h
    · exact .ite (.next h) (.ite (.next h.addMoves) (.ite (.next h) (.next h.addMoves.beginPause)))

theorem State.Sound.execEvidentialPauseTimeout (h : s.Sound) : AllNext State.Sound (execEvidentialPauseTimeout s) := by
  unfold Machine.execEvidentialPauseTimeout
  split
  · exact .ite (.next h) (.next (.reverse (.endPause (h.foldl (fun _ ht _ => ht.takeBack)))))
  · exact .next h

theorem State.Sound.dropMoves (h : s.Sound) : s.dropMoves.Sound := by
  unfold State.dropMoves
  extract_lets back s1 s2
  have h1 : s1.Sound := by
    refine .foldl h fun t ht x => ?_
    unfold back
    exact .ite ht (.ite ht.rewriteCell ht.rewriteCell.unhold)
  clear_value s1
  exact .ite h1.rest.endPause h1.rest

/-! ### Flush -/

theorem State.Sound.roomFor {n blocks : Nat} (h : s.Sound) : (s.roomFor n blocks).Sound :=
  .ite h h.useBlocks.deriveNext

theorem State.Sound.cryptStep {r : Req} {p : PageSet} {w : Nat} (h : s.Sound) : (s.cryptStep r p w).2.Sound := by
  unfold State.cryptStep
  extract_lets _ s1
  have h1 : s1.Sound := h.roomFor
  exact .snd (.iteSnd (.snd h1.roomFor.useBlocks) (.snd h1.useBlocks))

theorem State.Sound.cryptAll {r : Req} {p : PageSet} (h : s.Sound) : (s.cryptAll r p).2.Sound :=
  .snd (.foldlSnd (.snd h) (fun _ ht _ => .iteSnd ht ht.cryptStep))

theorem State.Sound.programNow {r : Req} (h : s.Sound) : (s.programNow r).Sound := by
  unfold State.programNow
  split
  · exact h.dropReq
  · split
    · next e =>
        have h1 := State.Sound.sndOf e (.iteSnd h.cryptAll (.snd h))
        extract_lets s2
        have h2 : s2.Sound := by
          dsimp only [s2]
          split
          · exact .ite h1 h1.fold
          · exact h1
        exact h2.programEnd

theorem State.Sound.programAll {n : Nat} (h : s.Sound) : (s.programAll n).Sound := by
  induction n generalizing s with
  | zero => exact h
  | succ n ih =>
    unfold State.programAll
    split
    · exact h
    · exact ih h.programNow

theorem State.Sound.runPrograms (h : s.Sound) : s.runPrograms.Sound := h.programAll

theorem State.Sound.idleDies (h : s.Sound) : s.idleDies.Sound := by
  unfold State.idleDies
  extract_lets free s1 s2
  have h1 : s1.Sound := h.rest
  have h2 : s2.Sound := h1.foldl fun _ ht _ => ht.modDie
  clear_value s2
  exact h2.withMedia (List.length_map ..) rfl

theorem State.Sound.abandonRead {r : Req} (h : s.Sound) : (s.abandonRead r).Sound := by
  unfold State.abandonRead
  extract_lets s1
  have h1 : s1.Sound := h.dropReq
  split
  · exact h1.markIssued
  · exact h1.rest
  · exact h1

theorem State.Sound.abandonProgram {r : Req} (h : s.Sound) : (s.abandonProgram r).Sound := by
  unfold State.abandonProgram
  extract_lets s1
  have h1 : s1.Sound := h.unmember.dropReq
  split
  · exact h1.markIssued
  · exact h1.markIssued
  · exact h1
  · exact h1.ckptAgain
  · exact h1.rest
  · exact h.replan

theorem State.Sound.abandon {p : Req → Bool} (h : s.Sound) : (s.abandon p).Sound := by
  unfold State.abandon
  extract_lets _ _ s1
  have h1 : s1.Sound := .giveUp (.foldl (h.unpark.foldl (fun _ ht _ => ht.abandonRead)) (fun _ ht _ => ht.abandonProgram))
  exact h1.rest.idleDies

theorem State.Sound.newestOnly (h : s.Sound) : s.newestOnly.Sound := h.unstage

theorem State.Sound.drainSet {power : Bool} {unit0 : Option Nat} {lost : List Nat} {words : List Block} {bs : List Staged} {old : Word}
    (h : s.Sound) : (s.drainSet power unit0 lost words bs old).Sound := by
  unfold State.drainSet
  split
  · extract_lets
    split
    · split
      · next e => exact (h.programBlocks.ofSnd e).markIssued.runPrograms
      · split
        · next e2 => exact (h.programBlocks.ofSnd e2).markIssued.runPrograms
        · exact h
  · exact h

theorem State.Sound.drainFine {power : Bool} {n : Nat} (h : s.Sound) : (s.drainFine power n).Sound :=
  .drainSet (.ite (h.foldl (fun _ ht _ => ht.promote)) h)

theorem State.Sound.drainNext {power : Bool} (h : s.Sound) : (s.drainNext power).Sound := by
  unfold State.drainNext
  split
  · exact h
  · extract_lets
    refine .ite h.drainSet (.ite h.drainFine (.ite ?_ (.ite (.ite h.loseBlocks h.drainSet) h.drainSet)))
    split
    · next e => exact (h.promote.ofSnd e).drainFine
    · next e => exact (h.promote.ofSnd e).drainSet

theorem State.Sound.drainLoop {power : Bool} {n : Nat} (h : s.Sound) : (s.drainLoop power n).Sound := by
  induction n generalizing s with
  | zero => exact h
  | succ n ih => exact .ite h (ih h.drainNext)

theorem State.Sound.drainAll {power : Bool} (h : s.Sound) : (s.drainAll power).Sound :=
  h.newestOnly.drainLoop.commitParked

theorem State.Sound.settlePages (h : s.Sound) : s.settlePages.Sound :=
  h.foldl (fun _ ht _ => .ite ht ht.rest.completeCkpt.reusePages)

theorem State.Sound.flushOut {power ckpt : Bool} (h : s.Sound) : (s.flushOut power ckpt).Sound := by
  unfold State.flushOut
  extract_lets s1 _ s2 s3
  have h1 : s1.Sound := h.uncharge
  have h2 : s2.Sound := h1.rest.rederive.runPrograms
  have h3 : s3.Sound := h2.drainAll
  exact .settle (.settlePages (.runPrograms (.seal (.writeSifj (.runPrograms (.roomFor (.runPrograms (.closeWhere (.ite
      h3.beginCkpt.runPrograms h3)))))))))

theorem State.Sound.parkBuses (h : s.Sound) : s.parkBuses.Sound :=
  h.withMedia (List.length_map ..) rfl

/-! ### Replay -/

theorem State.Sound.rollEpochs {rs : List JRec} (h : s.Sound) : (s.rollEpochs rs).Sound := by
  unfold State.rollEpochs
  refine .foldl h (fun _ ht _ => ?_)
  split
  · exact ht.rest
  · exact ht

theorem State.Sound.clearUnit {u : Nat} (h : s.Sound) : (s.clearUnit u).Sound := h.unfine.setCoarse

theorem State.Sound.applyRec {bases : List (Nat × Nat)} {r : JRec} (h : s.Sound) : AllSome (fun x => x.1.Sound) (s.applyRec bases r) := by
  unfold State.applyRec
  extract_lets
  split
  · exact AllSome.map (.ite (.some (h.foldl (fun _ ht _ => ht.unfine.setCoarse))) (.ite (.some (h.foldl (fun _ ht _ => ht.setFine)))
      .none)) (fun _ ht => .fst ht)
  · exact .ite (AllSome.map (.ite (.some (h.foldl (fun _ ht _ => ht.unfine.setCoarse))) (.ite (.some (h.foldl (fun _ ht _ => ht.setFine)))
      .none)) (fun _ ht => .fst ht)) .none
  · exact .ite (.some (.fst h)) (.some (.fst (.setCoarse (h.drawGroup.foldl (fun _ ht _ => ht.setFine)))))
  · exact .some (.fst (h.foldl (fun _ ht _ => .ite ht.clearUnit (.ite (ht.foldl (fun _ ht2 _ => ht2.setFine)) ht))))
  · exact .some (.fst (h.foldl (fun _ ht _ => .ite ht.setFine (.ite ht ht.setCoarse))))
  · exact .some (.fst h.modBlk)
  · exact .some (.fst h.modBlk)
  · exact .some (.fst h.rest)
  · exact .some (.fst (.ite h (h.foldl (fun _ ht _ => ht.clearUnit))))
  · exact .some (.fst h)
  · exact .some (.fst h)
  · exact .some (.fst h)

theorem State.Sound.applyPages {bases : List (Nat × Nat)} {l : List JPage} (h : s.Sound) : (s.applyPages bases l).1.Sound := by
  induction l generalizing s bases with
  | nil => exact .fst h
  | cons p l ih =>
    unfold State.applyPages
    split
    · exact .fst h
    · next t b e =>
        have ht : t.Sound := AllSome.eqOf (fun x : State × List (Nat × Nat) => x.1.Sound) e
          (.foldl (.some h) fun _ ho _ => .bind ho fun _ ha => .ite .none ha.applyRec)
        split
        · next e => exact .fst ((ih ht).ofFst e)

theorem State.Sound.promoteAny {nsid u : Nat} (h : s.Sound) : (s.promoteAny nsid u).2.Sound :=
  .foldlSnd (.snd h) (fun _ ht _ => .iteSnd ht ht.promote)

theorem State.Sound.mapTag {x : Nat × UnitTag} (h : s.Sound) : (s.mapTag x).Sound := by
  unfold State.mapTag
  extract_lets
  refine .ite h (.ite (.ite h.mapCoarse h) (.foldl h (fun _ ht _ => ?_)))
  extract_lets
  refine .ite ht ?_
  split
  · next e => exact (ht.promoteAny.ofSnd e).mapFine
  · next e => exact ht.promoteAny.ofSnd e

theorem State.Sound.loseStaged {l : List (Nat × Nat)} (h : s.Sound) : (s.loseStaged l).Sound :=
  h.foldl (fun _ ht _ => ht.loseRun.deferFault)

theorem State.Sound.settleBlk {old : SMap Blk} {key : Nat} (h : s.Sound) : (s.settleBlk old key).Sound :=
  .ite h.modBlk (.ite (.modBlk (h.foldl (fun _ ht _ => ht.setFlash))) (.ite h h.modBlk))

theorem State.Sound.settleBlks {old : SMap Blk} (h : s.Sound) : (s.settleBlks old).Sound :=
  h.foldl (fun _ ht _ => ht.settleBlk)

theorem State.Sound.scanBlks {old : SMap Blk} (h : s.Sound) : (s.scanBlks old).Sound :=
  h.foldl (fun _ ht _ => ht.modBlk)

theorem State.Sound.repairStripes (h : s.Sound) : s.repairStripes.Sound := by
  unfold State.repairStripes
  extract_lets s1
  have h1 : s1.Sound := h.rederive
  exact h1.rest.foldl (fun _ ht _ => ht.closeStripe.count.runPrograms)

theorem State.Sound.recoverSifj {uncontrolled : Bool} (h : s.Sound) : (s.recoverSifj uncontrolled).2.Sound := by
  unfold State.recoverSifj
  extract_lets
  split
  · extract_lets x1 _ s2 s3
    clear_value x1
    have h2 : s2.Sound := by
      dsimp only [s2]
      split
      · exact h.rest.rest
      · exact h.rest
    have h3 : s3.Sound := .ite h2.setReg.raise.writeSifj h2
    exact .snd (.ite h3.setReg h3)

theorem State.Sound.resumeRebuild (h : s.Sound) : s.resumeRebuild.Sound := h.rest.syncRed

theorem State.Sound.recoverEvid (h : s.Sound) : s.recoverEvid.Sound := h.rest.republish

theorem State.Sound.dropHeaders {bad : List Nat} (h : s.Sound) : (s.dropHeaders bad).Sound := h.rest

theorem State.Sound.replay {okA okB : Bool} {bad : List (Nat × Bool)} {lost : List (Nat × Nat)} (h : s.Sound) :
    (s.replay okA okB bad lost).2.Sound := by
  unfold State.replay
  extract_lets _ _ s1
  have h1 : s1.Sound := h.rollEpochs
  split
  · exact .snd (.repairStripes (.recoverSifj (.loseStaged (h1.rest.rest.scanBlks.foldl (fun _ ht _ => ht.mapTag)))))
  · extract_lets
    split
    · next e =>
        extract_lets _ _ _ s2
        have h2 : s2.Sound := (h1.rest.rest.applyPages.ofFst e).settleBlks
        exact .iteSnd (.snd (.repairStripes (.recoverSifj (.loseStaged (h2.foldl (fun _ ht _ => ht.mapTag)))))) (.snd (.ite
            h2.recoverSifj.repairStripes h2.recoverSifj))

/-! ### Squall -/

theorem State.Sound.clearControls (h : s.Sound) : s.clearControls.Sound :=
  h.foldl (fun _ ht _ => ht.setReg.setReg.setReg.setReg.setReg.setReg)

theorem State.Sound.releaseAll (h : s.Sound) : s.releaseAll.Sound :=
  .foldl (h.rest.foldl (fun _ ht _ => ht.release)) (fun _ ht _ => ht.endOp)

theorem State.Sound.lockSquall (h : s.Sound) : s.lockSquall.Sound :=
  .ite h h.clearControls.releaseAll.setReg.syncSquall.raise

theorem State.Sound.unlockSquall {pf : Bool} (h : s.Sound) : (s.unlockSquall pf).Sound :=
  h.setReg.count.raise

theorem State.Sound.sqlCond {m : Master} {v : Word} (h : s.Sound) : AllSome State.Sound (sqlCond m v s) :=
  .ite (.ite (.some h.refuse) .none) (.ite (.some h.refuse) .none)

theorem State.Sound.sqlEffect {m : Master} {v : Word} (h : s.Sound) : (sqlEffect m v s).Sound :=
  .ite h.lockSquall (.ite h.unlockSquall h)

theorem State.Sound.execUnlock {m : Master} {v : Word} (h : s.Sound) : AllNext State.Sound (execUnlock m v s) :=
  .next (h.write (fun _ ht => ht.sqlCond) (fun _ _ ht => ht.sqlEffect))

theorem State.Sound.execSqlLock {m : Master} {v : Word} (h : s.Sound) : AllNext State.Sound (execSqlLock m v s) :=
  .next (h.write (fun _ ht => ht.sqlCond) (fun _ _ ht => ht.sqlEffect))

theorem State.Sound.force {page k : Nat} (h : s.Sound) : (s.force page k).Sound := by
  unfold State.force
  extract_lets s1
  have h1 : s1.Sound := h.count.setReg
  exact .ite (.ite h1.modKey h1.keyFault) h1.setReg

theorem State.Sound.forceEffect {m : Master} {page : Nat} {v : Word} (h : s.Sound) : (forceEffect m page v s).Sound := by
  unfold Machine.forceEffect
  extract_lets _ s1 s2
  have h1 : s1.Sound := .ite h.accessFail h
  have h2 : s2.Sound := h1.foldl (fun _ ht _ => .ite ht.force ht)
  exact .ite h2.syncSquall h2

theorem State.Sound.execSqForce {m : Master} {page : Nat} {v : Word} (h : s.Sound) : AllNext State.Sound (execSqForce m page v s) :=
  .ite (.next (h.write (fun _ _ => .none) (fun _ _ ht => ht.forceEffect))) (.next h)

theorem State.Sound.controlCond {m : Master} {page off : Nat} {v : Word} (h : s.Sound) :
    AllSome State.Sound (controlCond m page off v s) :=
  .ite (.some h.accessFail) .none

theorem State.Sound.controlEffect {page off : Nat} {v : Word} {d : RegDef} (h : s.Sound) : (controlEffect page off v d s).Sound := by
  unfold Machine.controlEffect
  extract_lets s1
  have h1 : s1.Sound := h.store
  exact .ite h1.syncSquall h1

theorem State.Sound.execDelayedResultRelease (h : s.Sound) : AllNext State.Sound (execDelayedResultRelease s) := by
  unfold Machine.execDelayedResultRelease
  split
  · exact .next h
  · exact .next h.rest.release

/-! ### Start -/

theorem State.Sound.dropMain {keepDram : Bool} (h : s.Sound) : (s.dropMain keepDram).Sound := by
  obtain ⟨h0, hs⟩ := h
  exact ⟨SMap.wf_filter h0, hs⟩

theorem State.Sound.loseFtl (h : s.Sound) : s.loseFtl.Sound := by
  unfold State.loseFtl
  extract_lets s1
  have h1 : s1.Sound := h.rollEpochs
  exact h1.rest

theorem State.Sound.keepFtl (h : s.Sound) : s.keepFtl.Sound := h.rest

theorem State.Sound.finishDram (h : s.Sound) : s.finishDram.Sound := by
  unfold State.finishDram
  refine .foldl h (fun _ ht _ => ?_)
  refine .foldl ht (fun _ ht2 _ => ?_)
  split
  · exact ht2.dramWrite
  · exact ht2

theorem State.Sound.mainDown {keepDram : Bool} (h : s.Sound) : (s.mainDown keepDram).Sound := by
  unfold State.mainDown
  extract_lets s1 s2 s3 _ _ _ _ _ _ s4
  have h1 : s1.Sound := h.lockSquall.abandon.frontDown
  have h2 : s2.Sound := h1.foldl fun _ ht _ => ht.forget
  have h3 : s3.Sound := .ite h2.finishDram.keepFtl h2.loseFtl
  obtain ⟨hregs, -⟩ : (s3.dropMain keepDram).Sound := h3.dropMain
  obtain ⟨-, -, -, hlogs, -⟩ := h3
  have h4 : s4.Sound := by
    refine ⟨hregs, (List.length_map _).trans List.length_range, rfl, (List.length_map _).trans hlogs, rfl, rfl, rfl, rfl, rfl, rfl,
      rfl, rfl, ?_, ?_⟩
    · cases keepDram <;> rfl
    · cases keepDram <;> rfl
  exact h4.rest

theorem State.Sound.settleRec (h : s.Sound) : s.settleRec.Sound := .ite h.putRec h

theorem State.Sound.switchSlot (h : s.Sound) : s.switchSlot.Sound := h.putRec.raise.count

theorem State.Sound.fallBack (h : s.Sound) : s.fallBack.Sound := by
  unfold State.fallBack
  extract_lets s1
  have h1 : s1.Sound := h.switchSlot
  exact .ite h1 h1.openSpan

theorem State.Sound.trySlot {f : StartFacts} {failed : Bool} {n : Nat} (h : s.Sound) : (s.trySlot f failed n).2.Sound := by
  induction n generalizing s failed with
  | zero => exact .snd h
  | succ n ih =>
    unfold State.trySlot
    extract_lets s1
    have h1 : s1.Sound := h.putRec
    exact .iteSnd (.snd h1) (.iteSnd (.snd h1) (ih h1.fallBack))

theorem State.Sound.pickSlot {f : StartFacts} (h : s.Sound) : (s.pickSlot f).2.Sound := h.settleRec.trySlot

theorem State.Sound.toRom (h : s.Sound) : s.toRom.Sound := h.rest

theorem State.Sound.clocksOn (h : s.Sound) : s.clocksOn.Sound := h.setReg.setReg.setReg

theorem State.Sound.routePage {p : Nat} (h : s.Sound) : (s.routePage p).Sound := h.setReg.setReg.relevel

theorem State.Sound.dramUp {keepDram : Bool} {t : ℤ} (h : s.Sound) : (s.dramUp keepDram t).Sound := by
  unfold State.dramUp
  extract_lets _ _ s1
  have h1 : s1.Sound := h.setReg.foldl (fun _ ht _ => ht.modDramCh)
  exact .ite (.setReg (h1.rest.foldl (fun _ ht _ => ht.setReg))) h1.rest

theorem State.Sound.loadConsts {cs : List Word} (h : s.Sound) : (s.loadConsts cs).Sound := h.rest.setReg

theorem State.Sound.lockRoot (h : s.Sound) : s.lockRoot.Sound := h.reinstallRoot.setReg

theorem State.Sound.cacheUp (h : s.Sound) : s.cacheUp.Sound :=
  .foldl (.remask (h.foldl (fun _ ht _ => ht.modSlice))) (fun _ ht _ => ht.wdisEffect)

theorem State.Sound.rolesUp {rs : List Role} {slot : Nat} (h : s.Sound) : (s.rolesUp rs slot).Sound :=
  h.rest.setRole.foldl (fun _ ht _ => .ite ht ht.loadCell.unhold)

theorem State.Sound.channelsUp (h : s.Sound) : s.channelsUp.Sound :=
  h.foldl (fun _ ht _ => ht.setReg.setReg.reloadSeq.modChan)

theorem State.Sound.attachDies {f : StartFacts} (h : s.Sound) : (s.attachDies f).Sound := by
  unfold State.attachDies
  extract_lets w here _ _ s1 missing new _ _ _ s2 s3 s4
  have h1 : s1.Sound := by
    obtain ⟨h0, h1, h2, h3, h4, h5, -, h7⟩ := h
    exact ⟨h0, h1, h2, h3, h4, h5, (List.length_map _).trans List.length_range, h7⟩
  have h2 : s2.Sound := h1.rest
  have h3 : s3.Sound := h2.foldl fun _ ht _ => ht.setReg.setField
  have h4 : s4.Sound := h3.foldl fun _ ht _ => ht.raise
  exact .ite h4 h4.raise

theorem State.Sound.drainRetained (h : s.Sound) : s.drainRetained.Sound :=
  h.rederive.placeCopies.repairStripes.fillStripes.flushOut

theorem State.Sound.fillHoles (h : s.Sound) : s.fillHoles.Sound := by
  unfold State.fillHoles
  refine .foldl h (fun _ ht _ => ?_)
  split
  · exact ht.zeroFill.runPrograms.settle
  · exact ht

theorem State.Sound.resumeCare (h : s.Sound) : s.resumeCare.Sound := h.rest

theorem State.Sound.mediaUp {f : StartFacts} {restart : Bool} (h : s.Sound) : (s.mediaUp f restart).2.Sound := by
  rw [State.mediaUp]
  split
  · next t e =>
      have h1 : t.Sound := State.Sound.sndOf e (.replay (.dropHeaders (.ite h.drainRetained (.ite h.loseFtl h))))
      extract_lets s1 s2
      have h2 : s2.Sound := h1.rederive.resumeRebuild.fillStripes.recoverEvid.fillHoles.runPrograms.settle.resumeCare.updateLife
      have hckpt (u : State) (hu : u.Sound) (n : Nat) : (n, { u with ftl := { u.ftl with ckptT := u.pages.dtime } }).2.Sound :=
        hu.rest
      exact hckpt s2 h2 _

theorem State.Sound.logStart {slot kind : Nat} (h : s.Sound) : (s.logStart slot kind).Sound := h.rest

theorem State.Sound.linkDown (h : s.Sound) : s.linkDown.Sound := .ite h h.rest.raise.count

theorem State.Sound.ctrlSide (h : s.Sound) : s.ctrlSide.Sound := by
  unfold State.ctrlSide
  extract_lets s1 s2 s3 s4 s5 s6 _ s7 s8
  have h1 : s1.Sound := h.linkDown
  have h2 : s2.Sound := h1.foldl (fun _ ht _ => .modCtrl (.clearCtrl (.ite ht ht.beginReset)))
  have h3 : s3.Sound := h2.foldl (fun _ ht _ => ht.failTransfer)
  have h4 : s4.Sound := h3.clearVfEnable
  have h5 : s5.Sound := h4.foldl (fun _ ht _ => ht.rest.modBucket)
  have h6 : s6.Sound := h5.foldl (fun _ ht _ => ht.rewriteCell.unhold)
  have h7 : s7.Sound := h6.setReg.setReg
  have h8 : s8.Sound := .ite h7.lockSquall h7
  exact h8.rest

theorem State.Sound.setPower {n : Nat} (h : s.Sound) : (s.setPower n).Sound := by
  unfold State.setPower
  extract_lets _ s1
  have h1 : s1.Sound := .ite h.breakMs h
  exact .ite h1 h1.setField.logWarden.raise

theorem State.Sound.tryEvReady (h : s.Sound) : s.tryEvReady.Sound := by
  unfold State.tryEvReady
  refine .ite h ?_
  extract_lets _ _ s1 s2 _ s3 s4
  have h1 : s1.Sound := h.rest.setReg.setReg.raise
  have h2 : s2.Sound := h1.putRec
  have h3 : s3.Sound := .ite h2.setReg.setPower h2.setReg
  have h4 : s4.Sound := h3.closeSpan.closeSpan
  exact .ite h4.rest.ctrlSide h4.rest

theorem State.Sound.askDeep {target : Nat} (h : s.Sound) : (s.askDeep target).Sound :=
  .ite h.rest h.rest.setPower

theorem State.Sound.askWaiting (h : s.Sound) : s.askWaiting.Sound := .ite h (.ite h.askDeep h.rest)

theorem State.Sound.tryFull (h : s.Sound) : s.tryFull.Sound :=
  .ite h h.rest.rest.setReg.setReg.raise.askWaiting

theorem State.Sound.execFrontLinkUp (h : s.Sound) : AllNext State.Sound (execFrontLinkUp s) :=
  .next h.frontLink.tryEvReady.tryFull

theorem State.Sound.execSrcReady (h : s.Sound) : AllNext State.Sound (execSrcReady s) :=
  .next h.endWork.tryFull

theorem State.Sound.execRegionFill (h : s.Sound) : AllNext State.Sound (execRegionFill s) :=
  .next h.fillRegion.resumeSlots.tryFull

theorem State.Sound.bringUp {f : StartFacts} {slot : Nat} {restart : Bool} (h : s.Sound) : (s.bringUp f slot restart).Sound := by
  unfold State.bringUp
  extract_lets
  split
  · next e =>
      extract_lets s1 _ _ s2 s3 s4
      have h1 : s1.Sound := ((State.Sound.sndOf e (.mediaUp (.channelsUp (.attachDies (.rolesUp (.cacheUp (.lockRoot (.loadConsts (.dramUp
          (.setReg (h.rest.setReg.setReg.setReg.clocksOn.foldl (fun _ ht _ => ht.routePage))))))))))))).setReg
      have h2 : s2.Sound := .ite h1.rest.count h1.rest
      have h3 : s3.Sound := h2.syncTemp.syncSupply.syncSquall.cause.logStart
      have h4 : s4.Sound := h3.setReg.srcCmdEffect
      exact .tryFull (.tryEvReady (.ite h4.frontLink h4))

theorem State.Sound.startWith {f : StartFacts} {restart : Bool} (h : s.Sound) : (s.startWith f restart).Sound := by
  unfold State.startWith
  split
  · next e => exact (h.pickSlot.ofSnd e).bringUp
  · next e =>
      have h1 := h.pickSlot.ofSnd e
      exact .toRom (.ite h1.mainDown h1)

theorem State.Sound.execMainStart {f : StartFacts} (h : s.Sound) : AllNext State.Sound (execMainStart f s) := by
  unfold Machine.execMainStart
  extract_lets _ s1 _ _ _ _ _ s2
  have h1 : s1.Sound := .ite h.mainDown h.lockSquall
  have h2 : s2.Sound := h1.rest.setReg.count.breakMs
  exact .ite (.next h) (.next (.startWith (.ite h2.rest.setPower h2.rest)))

theorem State.Sound.execMainSideRestart {f : StartFacts} (h : s.Sound) : AllNext State.Sound (execMainSideRestart f s) := by
  unfold Machine.execMainSideRestart
  extract_lets busy
  refine .ite (.next h) ?_
  split
  · exact .next h
  · next b _ =>
    extract_lets s1 s2 _ s3 ccs keep s4 cfs _ _ s5
    have h1 : s1.Sound := by
      cases b with
      | none => exact h
      | some => exact h.setReg
    have h2 : s2.Sound := h1.count.count
    clear_value s2
    have h3 : s3.Sound := .ite h2.rest (.ite h2 h2.openSpan)
    have h4 : s4.Sound := h3.mainDown
    have h5 : s5.Sound := (withCtrls h4 List.length_mapIdx).rest
    exact .next h5.breakMs.startWith

theorem State.Sound.rstCtrlCond {m : Master} {v : Word} (h : s.Sound) : AllSome State.Sound (rstCtrlCond m v s) :=
  .ite (.some h.refuse) .none

theorem State.Sound.beginFlush (h : s.Sound) : s.beginFlush.Sound := by
  unfold State.beginFlush
  extract_lets s1 _ _ _ s2
  have h1 : s1.Sound := h.dropMoves
  clear_value s1
  have h2 : s2.Sound := .abandon (.foldl (.ite h1.setPower.raise.count h1) (fun _ ht _ => ht.forget))
  clear_value s2
  exact h2.rest.setReg

theorem State.Sound.execPowerFail (h : s.Sound) : AllNext State.Sound (execPowerFail s) := by
  unfold Machine.execPowerFail
  refine .ite (.next h.rest) ?_
  extract_lets _ _ _ s1
  have h1 : s1.Sound := h.rest.mainDown
  clear_value s1
  exact .ite (.next h.rest) (.ite (.next h1.rest.breakMs) (.next h.rest.beginFlush))

theorem State.Sound.execFlushComplete (h : s.Sound) : AllNext State.Sound (execFlushComplete s) := by
  unfold Machine.execFlushComplete
  refine .ite (.next h) ?_
  extract_lets s1
  have h1 : s1.Sound := h.flushOut.parkBuses
  clear_value s1
  exact .next h1.rest

theorem State.Sound.loseMain (h : s.Sound) : s.loseMain.Sound := by
  unfold State.loseMain
  extract_lets _ _ s1
  have h1 : s1.Sound := .ite h h.mainDown
  exact .ite h h1.rest.setReg.setReg.setReg.setPower.breakMs

theorem State.Sound.execV12MainLoss (h : s.Sound) : AllNext State.Sound (execV12MainLoss s) := by
  unfold Machine.execV12MainLoss
  extract_lets s1
  have h1 : s1.Sound := h.loseMain
  exact .next h1.rest

theorem State.Sound.aonDown (h : s.Sound) : s.aonDown.Sound := by
  obtain ⟨-, h1, hs⟩ := h
  exact ⟨rfl, (List.length_set ..).trans h1, hs⟩

theorem State.Sound.execV3p3AonLoss (h : s.Sound) : AllNext State.Sound (execV3p3AonLoss s) := by
  unfold Machine.execV3p3AonLoss
  refine .ite (.next h) ?_
  extract_lets s1
  have h1 : s1.Sound := h.loseMain.aonDown
  exact .next h1.rest

theorem State.Sound.restorePair {slot : Nat} {v : BitVec 64} (h : s.Sound) : (s.restorePair slot v).Sound :=
  h.setReg.setReg

theorem State.Sound.wardenFrom {slot : Nat} (h : s.Sound) : (s.wardenFrom slot).Sound :=
  h.rest.loadCell.wardenGo

theorem State.Sound.wardenUp {slot : Nat} (h : s.Sound) : (s.wardenUp slot).Sound := h.rest.wardenFrom

theorem State.Sound.wardenFall (h : s.Sound) : s.wardenFall.Sound := by
  unfold State.wardenFall
  extract_lets s1
  have h1 : s1.Sound := h.switchSlot
  exact .ite h1.wardenFrom (.toRom (.ite h1.mainDown h1))

theorem State.Sound.reloadWarden (h : s.Sound) : s.reloadWarden.Sound := by
  unfold State.reloadWarden
  extract_lets s1
  have h1 : s1.2.Sound := h.wardenLoad
  exact .ite h1 (.ite h1.wardenGo h1.wardenFall)

theorem State.Sound.execWreload {m : Master} {v : Word} (h : s.Sound) : AllNext State.Sound (execWreload m v s) :=
  .next (h.write (fun _ _ => .none) (fun _ _ ht => ht.reloadWarden))

theorem State.Sound.execAlwaysOnPowerOn {i3c : Bool} (h : s.Sound) : AllNext State.Sound (execAlwaysOnPowerOn i3c s) := by
  unfold Machine.execAlwaysOnPowerOn
  refine .ite (.next h) ?_
  extract_lets _ _ _ _ s1 n s2 a s3
  have h1 : s1.Sound := ⟨rfl, h.complete⟩
  have h2 : s2.Sound := h1.restorePair.restorePair.setReg.settleRec
  exact .ite (.next h2.wardenUp) (.ite (.next h2.fallBack.wardenUp) (.next h2.fallBack.toRom))

/-! ### Power -/

theorem State.Sound.copyHealth (h : s.Sound) : s.copyHealth.Sound := h.rest

theorem State.Sound.noteWake {n : Nat} (h : s.Sound) : (s.noteWake n).Sound := h.setReg.raise.count

theorem State.Sound.wakeBy {n : Nat} (h : s.Sound) : (s.wakeBy n).Sound := by
  unfold State.wakeBy
  extract_lets s1
  have h1 : s1.Sound := h.startWosc
  refine .ite h1 ?_
  split
  · exact .ite h1 h1.rest.setPower.raise.count.noteWake
  · exact .ite (.ite h1.setPower h1) (.ite h1.rest.noteWake.setPower h1)

theorem State.Sound.execWake {msg : List Byte} (h : s.Sound) : AllNext State.Sound (execWake msg s) :=
  .ite (.next h) (.ite (.next (h.fromField (fun _ ht => ht.raise))) (.ite (.next h.wakeBy) (.next h)))

theorem State.Sound.requestState {n src : Nat} (h : s.Sound) : AllSome State.Sound (s.requestState n src) :=
  .ite .none (.ite (.some h.wakeBy) (.ite .none (.ite (.some h) (.some h.askDeep))))

theorem State.Sound.pwrReqCond {m : Master} {v : Word} (h : s.Sound) : AllSome State.Sound (pwrReqCond m v s) :=
  .ite .none (.ite (.some h.refuse) (.ite (.some h.setReg.refuse) .none))

theorem State.Sound.pwrReqEffect {v : Word} (h : s.Sound) : (pwrReqEffect v s).Sound :=
  .ite (AllSome.getD h.requestState h) h

theorem State.Sound.execGo {m : Master} {v : Word} (h : s.Sound) : AllNext State.Sound (execGo m v s) :=
  .next (h.write (fun _ ht => ht.pwrReqCond) (fun _ _ ht => ht.pwrReqEffect))

theorem State.Sound.pwrCtrlCond {m : Master} {v : Word} (h : s.Sound) : AllSome State.Sound (pwrCtrlCond m v s) :=
  .ite (.some h.refuse) .none

theorem State.Sound.pwrCtrlEffect {v : Word} {d : RegDef} (h : s.Sound) : (pwrCtrlEffect v d s).Sound := by
  unfold Machine.pwrCtrlEffect
  extract_lets s1
  have h1 : s1.Sound := h.store
  exact h1.rest

theorem State.Sound.execAutomaticDeepTimer (h : s.Sound) : AllNext State.Sound (execAutomaticDeepTimer s) :=
  .ite (.next h) (.next (.ite h.rest.askDeep h.rest))

theorem State.Sound.execBreezeEntry (h : s.Sound) : AllNext State.Sound (execBreezeEntry s) := by
  unfold Machine.execBreezeEntry
  extract_lets held off s1
  refine .ite (.next h) (.next (.setPower ?_))
  obtain ⟨h0, h1, h2⟩ := h
  exact ⟨SMap.wf_filter h0, List.length_mapIdx.trans h1, h2⟩

theorem State.Sound.execBreezeExit (h : s.Sound) : AllNext State.Sound (execBreezeExit s) :=
  .ite (.next h) (.next (.foldl (h.setPower.foldl (fun _ ht _ => ht.routePage)) (fun _ ht _ => .ite ht.unhold ht)))

theorem State.Sound.logRaw {off : Nat → Bool} (h : s.Sound) : (s.logRaw off).Sound :=
  h.foldl (fun _ ht _ => .ite ht.logWarden ht)

theorem State.Sound.ackAppends (h : s.Sound) : s.ackAppends.Sound := by
  unfold State.ackAppends
  extract_lets s1
  have h1 : s1.Sound := h.foldl (fun _ ht _ => ht.closeAppend)
  split
  · exact h1
  · extract_lets s2
    have h2 : s2.Sound := h1.modFrl.closeSpan
    exact .ite h2.setReg.sendAck h2

theorem State.Sound.goDeep {ckpt : Bool} (h : s.Sound) : (s.goDeep ckpt).Sound := by
  unfold State.goDeep
  extract_lets s1 _ s2 _ _ _ s3
  have h1 : s1.Sound := h.abandon
  clear_value s1
  have h2 : s2.Sound := .ite h1.rest.syncRed h1
  clear_value s2
  have h3 : s3.Sound := h2.rest.flushOut
  clear_value s3
  exact .parkBuses (.maintain (h3.rest.ackAppends.foldl (fun _ ht _ => ht.forget)))

theorem State.Sound.execLullEntry (h : s.Sound) : AllNext State.Sound (execLullEntry s) := by
  unfold Machine.execLullEntry
  extract_lets s1 s2 keep _ _ _ _ _ _ _ _ s3 s4 s5
  have h1 : s1.Sound := h.askWaiting
  have h2 : s2.Sound := h1.goDeep.logRaw.copyHealth.finishDram.frontDown
  clear_value s2
  have h3 : s3.Sound := by
    obtain ⟨h0, h1, h2, h3, h4, -, h6, -, h8, -, -, -, h12, -⟩ := h2
    exact ⟨SMap.wf_filter h0, List.length_mapIdx.trans h1, h2, h3, h4, rfl, h6, rfl, h8, rfl, rfl, rfl,
      (List.length_map _).trans h12, rfl⟩
  have h5 : s5.Sound := h3.setReg.setReg.setReg.setReg
  exact .ite (.next h1) (.next h5.setPower.count)

theorem State.Sound.offAsCalm (h : s.Sound) : s.offAsCalm.Sound := by
  unfold State.offAsCalm
  extract_lets s1
  have h1 : s1.Sound := h.mainDown
  clear_value s1
  exact h1.rest.rest.setReg.setReg.setReg.setPower

theorem State.Sound.execCalmEntry (h : s.Sound) : AllNext State.Sound (execCalmEntry s) := by
  unfold Machine.execCalmEntry
  extract_lets s1
  have h1 : s1.Sound := h.askWaiting
  exact .ite (.next h1) (.next h1.goDeep.logRaw.copyHealth.writeAcct.offAsCalm.count)

theorem State.Sound.leaveSelfRefresh (h : s.Sound) : s.leaveSelfRefresh.Sound :=
  h.dramUp.foldl (fun _ ht _ => ht.setReg)

theorem State.Sound.execLullExit (h : s.Sound) : AllNext State.Sound (execLullExit s) := by
  unfold Machine.execLullExit
  refine .ite (.next h) ?_
  extract_lets _ _ s1 s2 s3 _ _ s4 s5 s6 _ s7
  have h1 : s1.Sound := h.rest.clocksOn.foldl (fun _ ht _ => ht.routePage)
  have h2 : s2.Sound := h1.leaveSelfRefresh.cacheUp.channelsUp
  have h3 : s3.Sound := h2.foldl (fun _ ht _ => ht.setField)
  have h4 : s4.Sound := h3.rest.syncRed.pumpRebuild.fillStripes
  have h5 : s5.Sound := h4.foldl (fun _ ht _ => .ite ht.unhold ht)
  have h6 : s6.Sound := h5.srcCmdEffect
  have h7 : s7.Sound := h6.setReg.frontLink.setPower
  exact .next (.ite h7.ctrlSide h7)

theorem State.Sound.execCalmExit (h : s.Sound) : AllNext State.Sound (execCalmExit s) :=
  .ite (.next h) (.next h.rest)

theorem State.Sound.execWardenOscillatorStop (h : s.Sound) : AllNext State.Sound (execWardenOscillatorStop s) :=
  .ite (.next h) (.next h.setReg.setReg)

theorem State.Sound.stopDomains {l : List Nat} (h : s.Sound) : (s.stopDomains l).Sound :=
  h.foldl (fun _ ht _ => .ite ht.setReg ht.setReg)

theorem State.Sound.execPllUnlock {pll : Nat} (h : s.Sound) : AllNext State.Sound (execPllUnlock pll s) := by
  unfold Machine.execPllUnlock
  refine .ite (.next h) ?_
  extract_lets _ s1 s2
  have h1 : s1.Sound := h.setReg.stopDomains
  have h2 : s2.Sound := h1.raise.count
  exact .next (.ite h2.beginAlarm h2)

theorem State.Sound.execCrystalStop {x25 : Bool} (h : s.Sound) : AllNext State.Sound (execCrystalStop x25 s) := by
  unfold Machine.execCrystalStop
  extract_lets _ _ s1 s2
  have h1 : s1.Sound := .ite h.setReg h.setReg.stopDomains
  have h2 : s2.Sound := h1.raise.count
  exact .ite (.next h) (.next (.ite h2.beginAlarm h2))

theorem State.Sound.setSteps {step effect : Nat} (h : s.Sound) : (s.setSteps step effect).Sound :=
  .ite h h.setReg.raise

theorem State.Sound.changeStep {n : Nat} (h : s.Sound) : (s.changeStep n).Sound :=
  .ite h (.ite h.rest.setSteps h.rest.setSteps)

theorem State.Sound.countThrottle (h : s.Sound) : s.countThrottle.Sound := by
  unfold State.countThrottle
  split
  · exact h
  · exact .ite h h.rest.count

theorem State.Sound.execThermalSample {temps : List ℤ} {watts : Rat} (h : s.Sound) :
    AllNext State.Sound (execThermalSample temps watts s) := by
  unfold Machine.execThermalSample
  refine .ite (.next h) ?_
  extract_lets _ _ _ _ _ _ _ _ s1 _ s2 s3 _ _ s4 _ s5 _ _ s6
  have h1 : s1.Sound := h.rest.setReg
  have h2 : s2.Sound := .ite h1 h1.raise
  have h3 : s3.Sound := .ite h2.count h2
  have h4 : s4.Sound := .ite h3.rest.changeStep h3.rest
  have h5 : s5.Sound := .ite h4.raise h4
  have h6 : s6.Sound := .setReg (.ite h5.rest.setSteps h5)
  exact .next h6.rest.countThrottle.syncTemp

theorem State.Sound.execThrottleEffect (h : s.Sound) : AllNext State.Sound (execThrottleEffect s) := by
  unfold Machine.execThrottleEffect
  split
  · exact .next h
  · exact .ite (.next h) (.next h.rest.setSteps)

theorem State.Sound.execThermalHold (h : s.Sound) : AllNext State.Sound (execThermalHold s) := by
  unfold Machine.execThermalHold
  extract_lets _ s1
  have h1 : s1.Sound := .ite (.parkBuses (.flushOut (.ite h.beginFlush h))) h
  exact .ite (.next h) (.next (.alert (.breakMs (.raise (.setReg (.ite h1.rest h1.rest.offAsCalm))))))

theorem State.Sound.execThermalHoldEnd (h : s.Sound) : AllNext State.Sound (execThermalHoldEnd s) :=
  .ite (.next h) (.next h.setReg.wakeBy)

theorem State.Sound.execSupplySample {main aon vccq : Nat} (h : s.Sound) : AllNext State.Sound (execSupplySample main aon vccq s) := by
  unfold Machine.execSupplySample
  refine .ite (.next h) ?_
  extract_lets _ _ _ _ _ _ s1 s2
  have h1 : s1.Sound := .ite h.setReg h.setReg.raise
  have h2 : s2.Sound := h1.count
  exact .next (.syncSupply (.ite h2.rest h2.rest.breakMs))

theorem State.Sound.execVccqNLoss (h : s.Sound) : AllNext State.Sound (execVccqNLoss s) := by
  unfold Machine.execVccqNLoss
  refine .ite (.next h) ?_
  extract_lets s1
  have h1 : s1.Sound := h.abandon.parkBuses
  clear_value s1
  exact .next h1.rest

/-! ### Pcie -/

theorem State.Sound.modLink {g : Link → Link} (h : s.Sound) : (s.modLink g).Sound := h.rest

theorem State.Sound.execPcieLinkUp {speed width : Nat} (h : s.Sound) : AllNext State.Sound (execPcieLinkUp speed width s) :=
  .ite (.next h) (.next h.modLink.setReg.setReg.raise)

theorem State.Sound.execPcieLinkDown (h : s.Sound) : AllNext State.Sound (execPcieLinkDown s) :=
  .next h.linkDown

theorem State.Sound.execPcieL1Entry {pm : Nat} (h : s.Sound) : AllNext State.Sound (execPcieL1Entry pm s) :=
  .ite (.next h) (.next h.rest.modLink)

theorem State.Sound.wakePcie (h : s.Sound) : s.wakePcie.Sound := .ite h.wakeBy h

theorem State.Sound.execPcieL1Exit (h : s.Sound) : AllNext State.Sound (execPcieL1Exit s) := by
  unfold Machine.execPcieL1Exit
  refine .ite (.next h) ?_
  extract_lets _ s1
  have h1 : s1.Sound := h.rest.modLink
  exact .next (.ite h1.wakePcie h1)

theorem State.Sound.execPmcsrWrite {v : Word} (h : s.Sound) : AllNext State.Sound (execPmcsrWrite v s) :=
  .ite (.next h) (.next (.ite h.modCtrl.wakePcie h.modCtrl))

theorem State.Sound.ctrlReset {k : Nat} (h : s.Sound) : (s.ctrlReset k).Sound :=
  .ite h.setReg.ctrlSide (.ite h.setReg.rest h.setReg)

theorem State.Sound.execPerstAsserted (h : s.Sound) : AllNext State.Sound (execPerstAsserted s) :=
  .ite (.next h) (.next h.modLink.ctrlReset.linkDown)

theorem State.Sound.execPerstDeasserted (h : s.Sound) : AllNext State.Sound (execPerstDeasserted s) :=
  .ite (.next h) (.next (.ite h.modLink.wakeBy h.modLink))

theorem State.Sound.execHotReset (h : s.Sound) : AllNext State.Sound (execHotReset s) :=
  .ite (.next h.ctrlReset) (.next h)

theorem State.Sound.rstCtrlEffect {v : Word} (h : s.Sound) : (rstCtrlEffect v s).Sound := by
  unfold Machine.rstCtrlEffect
  extract_lets s1
  have h1 : s1.Sound := .ite h.ctrlReset h
  exact .ite h1.rest h1

theorem State.Sound.execCtrlrst {m : Master} {v : Word} (h : s.Sound) : AllNext State.Sound (execCtrlrst m v s) :=
  .next (h.write (fun _ ht => ht.rstCtrlCond) (fun _ _ ht => ht.rstCtrlEffect))

theorem State.Sound.execMainrst {m : Master} {v : Word} (h : s.Sound) : AllNext State.Sound (execMainrst m v s) :=
  .next (h.write (fun _ ht => ht.rstCtrlCond) (fun _ _ ht => ht.rstCtrlEffect))

/-! ### PageRead -/

theorem State.Sound.takeLatch {page off : Nat} {m : Master} (h : s.Sound) : (s.takeLatch page off m).2.Sound := by
  unfold State.takeLatch
  split
  · exact .snd h
  · exact .snd h.rest

theorem State.Sound.readReg {m : Master} {page off : Nat} (h : s.Sound) : (s.readReg m page off).2.Sound := by
  unfold State.readReg
  split
  · exact .snd h
  · refine .iteSnd (.snd h.latch) ?_
    split
    · next e => exact .snd (h.takeLatch.ofSnd e)
    · next e =>
        have h1 := h.takeLatch.ofSnd e
        split
        · exact .snd h1.usNext
        · split
          · exact h1.imRead
          · exact .snd h1
        · split
          · exact h1.dmRead
          · exact .snd h1
        · split
          · exact h1.rvalRead
          · exact .snd h1
        · exact .snd h1

theorem State.Sound.readPage {m : Master} {page off width : Nat} (h : s.Sound) : (s.readPage m page off width).2.Sound := by
  unfold State.readPage
  extract_lets s1
  have h1 : s1.Sound := h.arrive
  split
  · next e => exact .snd (h1.checkAccess.of_eq e)
  · exact .snd h1.readReg

theorem State.Sound.answerPage {m : Master} {page off : Nat} (h : s.Sound) : (s.answerPage m page off).Sound := by
  unfold State.answerPage
  split
  · next e => exact (h.readPage.ofSnd e).answerRead
  · next e => exact (h.readPage.ofSnd e).reply

theorem State.Sound.execCounterLowRead {m : Master} {page slot : Nat} (h : s.Sound) :
    AllNext State.Sound (execCounterLowRead m page slot s) :=
  .next h.answerPage

theorem State.Sound.execTopDtimeLoRead {m : Master} (h : s.Sound) : AllNext State.Sound (execTopDtimeLoRead m s) :=
  .next h.answerPage

/-! ### PageWrite -/

theorem State.Sound.enableEffect {page : Nat} {v : Word} {d : RegDef} (h : s.Sound) : (enableEffect page v d s).Sound := by
  unfold Machine.enableEffect
  extract_lets _ _ s1
  have h1 : s1.Sound := h.store
  refine .ite (.ite h1.emit h1) ?_
  split
  · next e => exact h1.signal.ofFst e
  · next e => exact (h1.signal.ofFst e).count

theorem State.Sound.mchCtrlPlain {ch : Nat} {v : Word} {d : RegDef} (h : s.Sound) : (mchCtrlPlain ch v d s).Sound := by
  unfold Machine.mchCtrlPlain
  refine .ite ?_ h.mchCtrlEffect
  split
  · next e => exact (h.free.ofSnd e).mchCtrlEffect

theorem State.Sound.celStatWrite {c : CellId} {v : Word} (h : s.Sound) : (celStatWrite c v s).Sound :=
  .ite h.modCell h

theorem State.Sound.blockCond {k : Kind} {i : Nat} {m : Master} {off : Nat} {v : Word} (h : s.Sound) :
    AllSome State.Sound (blockCond k i m off v s) := by
  unfold Machine.blockCond
  split
  · exact .iteFn h.sliceCond (.iteFn h.cvalCond .none)
  · exact .diteFn (fun _ => .iteFn h.scrubCond (.iteFn h.dwinCond (.iteFn h.heldCond (.iteFn h.dmCond (.iteFn h.rvalCond (.iteFn h.descCond
      .none)))))) (fun _ => .none)
  · exact .iteFn h.cdcCtrlCond .none
  · exact .iteFn h.rentCond .none
  · exact .iteFn h.msqCtrlCond (.iteFn h.mcCtrlCond .none)
  · exact .iteFn h.redFailCond .none
  · exact .iteFn h.mchCtrlCond (.iteFn h.usdataCond (.iteFn h.waymapCond .none))
  · exact .iteFn h.srbCtrlCond .none
  · exact .iteFn h.srcCtrlCond (.iteFn h.shbaseCond (.iteFn h.srcCmdCond .none))
  · exact .iteFn h.ccmLimCond .none
  · exact .iteFn h.digCtrlCond (.iteFn h.digCtxCond .none)
  · exact .iteFn h.slotWinCond .none
  · exact .iteFn h.drcCtrlCond (.iteFn h.armCond .none)
  · exact .iteFn h.dlyCond .none
  · exact .iteFn h.fchCtrlCond (.iteFn h.wmaskCond (.iteFn h.wdisCond (.iteFn h.wopCond .none)))
  · exact .iteFn h.mopCond .none
  · exact .iteFn h.shareCond (.iteFn h.dpCond .none)
  · exact .iteFn h.frlMsgCond .none
  · exact .iteFn h.pwrCtrlCond (.iteFn h.pwrReqCond .none)
  · exact .iteFn h.rstCtrlCond .none
  · exact .iteFn h.sqlCond .none
  · exact .none
  · exact .none
  · exact .none
  · exact .none
  · exact .none
  · exact .none
  · exact .none
  · exact .none
  · exact .none
  · exact .none
  · exact .none
  · exact .none

theorem State.Sound.blockEffect {k : Kind} {i page : Nat} {m : Master} {off : Nat} {v : Word} {d : RegDef} (h : s.Sound) :
    (blockEffect k i page m off v d s).Sound := by
  unfold Machine.blockEffect
  split
  · exact .iteFn h.admCtrlEffect (.iteFn h.sliceWrite (.iteFn h.cvalWrite h.store))
  · exact .iteFn h.snapEffect h.store
  · exact .diteFn (fun _ => .iteFn h.celCtrlEffect (.iteFn h.celStatWrite (.iteFn h.imWrite (.iteFn h.dmWrite (.iteFn h.rvalWrite (.iteFn
      h.suCmdEffect h.store)))))) (fun _ => h.store)
  · exact .iteFn h.cdcCtrlEffect h.store
  · exact .iteFn h.rentWrite (.iteFn (.ite h.reloadWarden h) h.store)
  · exact .iteFn h.mcRefreshWrite h.store
  · exact .iteFn h.redCtrlEffect (.iteFn h.redFailEffect h.store)
  · exact .iteFn h.mchCtrlPlain (.iteFn h.usdataEffect h.store)
  · exact .iteFn h.srbCtrlEffect h.store
  · exact .iteFn h.srcCmdEffect h.store
  · exact .iteFn h.cipCtrlEffect h.store
  · exact .iteFn h.digCtxWrite h.store
  · exact .iteFn h.keyCmdWrite (.iteFn h.slimWrite (.iteFn h.sownWrite (.iteFn h.wrapWrite h.store)))
  · exact .iteFn h.rtEffect h.store
  · exact .iteFn h.dlyWrite h.store
  · exact .iteFn h.wmaskEffect (.iteFn h.wdisEffect (.iteFn h.wopEffect h.store))
  · exact .iteFn h.mopEffect h.store
  · exact .iteFn h.vfmSelEffect (.iteFn (.ite h.applyEffect h) (.iteFn h.dpCtrlEffect (.iteFn h.dpEffect (.iteFn h.mboutWrite (.iteFn
      h.mbdbEffect h.store)))))
  · exact .iteFn h.vmbDbEffect h.store
  · exact .iteFn h.frlCtrlEffect (.iteFn h.frlMsgEffect h.store)
  · exact .iteFn h.pwrCtrlEffect (.iteFn h.pwrReqEffect h.store)
  · exact .iteFn h.rstCtrlEffect h.store
  · exact .iteFn h.evtCtrlEffect (.iteFn h.evtAlarmEffect h.store)
  · exact .iteFn h.sqlEffect h.store
  · exact h.store
  · exact h.store
  · exact h.store
  · exact h.store
  · exact h.store
  · exact h.store
  · exact h.store
  · exact h.store
  · exact h.store

theorem State.Sound.pageCond {page : Nat} {m : Master} {off : Nat} {v : Word} (h : s.Sound) :
    AllSome State.Sound (pageCond page m off v s) := by
  unfold Machine.pageCond
  rcases kindOf page with _ | ⟨k, i⟩
  · exact .none
  · exact .iteFn h.ownerCond (.iteFn h.controlCond (.iteFn h.blockCond .none))

theorem State.Sound.pageEffect {page : Nat} {m : Master} {off : Nat} {v : Word} {d : RegDef} (h : s.Sound) :
    (pageEffect page m off v d s).Sound := by
  unfold Machine.pageEffect
  rcases kindOf page with _ | ⟨k, i⟩
  · exact h
  · refine .iteFn h.blockEffect (.iteFn h.clearCounter (.iteFn h.controlEffect ?_))
    split
    · exact h.rearmCapture
    · exact h.enableEffect
    · exact h.raiseMask
    · exact h.clearRaw
    · exact h.routeEffect
    · exact h.forceEffect
    · exact h.mpCorrWrite
    · exact h.mpClear
    · exact h.store

theorem State.Sound.writePage {m : Master} {page off width : Nat} {v : Word} (h : s.Sound) : (s.writePage m page off width v).1.Sound :=
  h.write (fun _ ht => ht.pageCond) (fun _ _ ht => ht.pageEffect)

theorem State.Sound.execRegisterWrite {m : Master} {page off width : Nat} {v : Word} (h : s.Sound) :
    AllNext State.Sound (execRegisterWrite m page off width v s) :=
  .next h.writePage

theorem State.Sound.takeServed {id addr : Nat} (h : s.Sound) : AllSome (fun x => x.2.Sound) (s.takeServed id addr) := by
  unfold State.takeServed
  split
  · exact .none
  · exact .some (.snd h.rest)

theorem State.Sound.dropServed {id addr : Nat} (h : s.Sound) : (s.dropServed id addr).Sound := h.rest

theorem State.Sound.takeLoad {c : CellId} {addr : Nat} {tag : BitVec 4} {rd : Reg} (h : s.Sound) : (takeLoad c addr tag rd s).Sound := by
  unfold Machine.takeLoad
  split
  · exact .stall h
  · next e => exact .ok (h.takeServed.of_eq e).setW

theorem State.Sound.loadPage {c : CellId} {a p off : Nat} {tag : BitVec 4} {rd : Reg} (h : s.Sound) :
    (loadPage c a p off tag rd s).Sound := by
  unfold Machine.loadPage
  split
  · next e => exact .refused (h.readPage.ofSnd e)
  · next e => exact (h.readPage.ofSnd e).deliver.takeLoad

theorem State.Sound.loadDram {c : CellId} {d : Nat} {tag : BitVec 4} {rd : Reg} (h : s.Sound) : (loadDram c d tag rd s).Sound := by
  unfold Machine.loadDram
  refine .ite (.stall h.awaitFill) ?_
  split
  · exact .stall h
  · next e => exact (h.access.of_eq e).takeLoad

theorem State.Sound.execFld {i : Iss} {tg : BitVec 2} {rd ra : Reg} (h : s.Sound) : AllNext State.Sound (execFld i tg rd ra s) := by
  unfold Machine.execFld
  refine State.Sound.issue h (fun _ ht => ?_)
  extract_lets
  refine .need (.ite .trap ?_)
  split
  · exact .trap
  · exact .ite .trap (.ite ht.takeLoad (.ite .trap (.ite (.stall ht.routeDrop) ht.dropServed.loadDram)))
  · exact .ite ht.takeLoad (.ite (.stall ht.routeDrop) ht.dropServed.loadPage)

theorem State.Sound.storeDram {c : CellId} {d : Nat} {v : Word} (h : s.Sound) : (storeDram c d v s).Sound := by
  unfold Machine.storeDram
  refine .ite (.stall h.awaitFill) ?_
  split
  · exact .stall h
  · next e => exact .ok (h.access.of_eq e)

theorem State.Sound.storePage {c : CellId} {a p off : Nat} {v : Word} (h : s.Sound) : (storePage c a p off v s).Sound := by
  unfold Machine.storePage
  split
  · next e => exact .ok (h.writePage.ofFst e)
  · next e => exact .refused (h.writePage.ofFst e)

theorem State.Sound.execFst {i : Iss} {rs ra : Reg} (h : s.Sound) : AllNext State.Sound (execFst i rs ra s) := by
  unfold Machine.execFst
  refine State.Sound.issue h (fun _ ht => ?_)
  extract_lets
  refine .need2 (.ite .trap ?_)
  split
  · exact .trap
  · exact .ite .trap (.ite (.ok ht.routeDrop) ht.storeDram)
  · exact .ite (.ok ht.routeDrop) ht.storePage

theorem State.Sound.flitDram {f : Flit} {write : Bool} (h : s.Sound) : (s.flitDram f write).Sound := by
  unfold State.flitDram
  split
  · exact .ite (AllSome.getD h.access h) h.awaitFill
  · exact h

theorem State.Sound.execFabricReadRequest {f : Flit} (h : s.Sound) : AllNext State.Sound (execFabricReadRequest f s) := by
  unfold Machine.execFabricReadRequest
  refine .next (.onMesh h (fun _ ht => ?_))
  split
  · split
    · next e => exact (ht.readPage.ofSnd e).deliver
    · next e => exact ht.readPage.ofSnd e
  · exact ht.flitDram

theorem State.Sound.execFabricWrite {f : Flit} (h : s.Sound) : AllNext State.Sound (execFabricWrite f s) := by
  unfold Machine.execFabricWrite
  refine .next (.onMesh h (fun _ ht => ?_))
  split
  · exact ht.writePage
  · exact ht.flitDram

/-! ### Sideband -/

theorem State.Sound.sbOut {r : SbReq} {bs : List Byte} (h : s.Sound) : (s.sbOut r bs).Sound := h.deliver

theorem State.Sound.mctpAnswer {r : SbReq} {cc : Byte} {data : List Byte} (h : s.Sound) : (s.mctpAnswer r cc data).Sound :=
  h.sbOut

theorem State.Sound.miAnswer {r : SbReq} {st : Byte} {resp : Nat} {data : List Byte} (h : s.Sound) :
    (s.miAnswer r st resp data).Sound :=
  h.sbOut

theorem State.Sound.vAnswer {r : SbReq} {st : Nat} {data : List Byte} (h : s.Sound) : (s.vAnswer r st data).Sound :=
  h.sbAnswer

theorem State.Sound.sbBusy {r : SbReq} (h : s.Sound) : (s.sbBusy r).Sound :=
  .ite h.mctpAnswer (.ite h.miAnswer h.vAnswer)

theorem State.Sound.sbTake {r : SbReq} {mine : Bool} {serve : State → State} (h : s.Sound) (hserve : ∀ t, t.Sound → (serve t).Sound) :
    AllNext State.Sound (s.sbTake r mine serve) := by
  unfold State.sbTake
  refine .ite (.next h) ?_
  extract_lets s1 _ s2
  have h1 : s1.Sound := h.startWosc
  have h2 : s2.Sound := h1.count
  exact .ite (.next h1.count) (.ite (.next h1) (.ite (.next h1.rest) (.next (.ite h2.sbBusy (hserve _ h2)))))

theorem State.Sound.sbHold {eid tag op : Byte} (h : s.Sound) : (s.sbHold eid tag op).Sound := h.rest

theorem State.Sound.sbMain {serve hold notReady : State → State} (h : s.Sound) (hserve : ∀ t, t.Sound → (serve t).Sound) (hhold : ∀ t,
    t.Sound → (hold t).Sound) (hnotReady : ∀ t, t.Sound → (notReady t).Sound) : (s.sbMain serve hold notReady).Sound :=
  .ite (.ite (hhold _ h) (hserve _ h)) (hnotReady _ h)

theorem State.Sound.execEntdaa {addr : BitVec 7} (h : s.Sound) : AllNext State.Sound (execEntdaa addr s) :=
  .ite (.next h.startWosc.setField) (.next h)

theorem State.Sound.mctp {r : SbReq} {code : Byte} {serve : State → State} (h : s.Sound) (hserve : ∀ t, t.Sound → (serve t).Sound) :
    AllNext State.Sound (s.mctp r code serve) :=
  h.sbTake hserve

theorem State.Sound.execSetEndpointId {r : SbReq} (h : s.Sound) : AllNext State.Sound (execSetEndpointId r s) :=
  h.mctp (fun _ ht => .ite ht.mctpAnswer (.ite ht.mctpAnswer ht.setField.mctpAnswer))

theorem State.Sound.execGetEndpointId {r : SbReq} (h : s.Sound) : AllNext State.Sound (execGetEndpointId r s) :=
  h.mctp (fun _ ht => ht.mctpAnswer)

theorem State.Sound.execGetMctpVersionSupport {r : SbReq} (h : s.Sound) : AllNext State.Sound (execGetMctpVersionSupport r s) := by
  unfold Machine.execGetMctpVersionSupport
  refine State.Sound.mctp h (fun _ ht => ?_)
  split
  · exact ht.mctpAnswer
  · exact ht.mctpAnswer
  · exact ht.mctpAnswer
  · exact ht.mctpAnswer

theorem State.Sound.execGetMessageTypeSupport {r : SbReq} (h : s.Sound) : AllNext State.Sound (execGetMessageTypeSupport r s) :=
  h.mctp (fun _ ht => ht.mctpAnswer)

theorem State.Sound.execGetVendorDefinedMessageSupport {r : SbReq} (h : s.Sound) :
    AllNext State.Sound (execGetVendorDefinedMessageSupport r s) :=
  h.mctp (fun _ ht => .ite ht.mctpAnswer ht.mctpAnswer)

theorem State.Sound.execUnsupportedMctpMessage {r : SbReq} (h : s.Sound) : AllNext State.Sound (execUnsupportedMctpMessage r s) :=
  .ite (h.sbTake (fun _ ht => ht.mctpAnswer)) (.ite (.next h) (.ite (.next h.startWosc.count) (.next h)))

theorem State.Sound.execBasicManagementCommand {r : SbReq} (h : s.Sound) : AllNext State.Sound (execBasicManagementCommand r s) :=
  h.sbTake (fun _ ht => ht.sbOut)

theorem State.Sound.mi {r : SbReq} {op : Nat} {serve : State → State} (h : s.Sound) (hserve : ∀ t, t.Sound → (serve t).Sound) :
    AllNext State.Sound (s.mi r op serve) :=
  h.sbTake (fun _ ht => ht.sbMain hserve (fun _ ht2 => ht2.sbHold) (fun _ ht2 => ht2.miAnswer))

theorem State.Sound.execReadNvmeMiDataStructure {r : SbReq} (h : s.Sound) : AllNext State.Sound (execReadNvmeMiDataStructure r s) :=
  h.mi (fun _ ht => ht.miAnswer)

theorem State.Sound.execNvmSubsystemHealthStatusPoll {r : SbReq} (h : s.Sound) :
    AllNext State.Sound (execNvmSubsystemHealthStatusPoll r s) :=
  h.mi (fun _ ht => ht.miAnswer)

theorem State.Sound.execControllerHealthStatusPoll {r : SbReq} (h : s.Sound) :
    AllNext State.Sound (execControllerHealthStatusPoll r s) :=
  h.mi (fun _ ht => ht.miAnswer)

theorem State.Sound.execConfigurationGet {r : SbReq} (h : s.Sound) : AllNext State.Sound (execConfigurationGet r s) := by
  unfold Machine.execConfigurationGet
  refine State.Sound.mi h (fun _ ht => ?_)
  split
  · exact .ite ht.miAnswer ht.miAnswer
  · exact ht.miAnswer
  · exact ht.miAnswer

theorem State.Sound.execConfigurationSet {r : SbReq} (h : s.Sound) : AllNext State.Sound (execConfigurationSet r s) := by
  unfold Machine.execConfigurationSet
  refine State.Sound.mi h (fun _ ht => ?_)
  split
  · exact .ite ht.miAnswer ht.rest.miAnswer
  · exact ht.miAnswer
  · exact ht.miAnswer

theorem State.Sound.execVpdRead {r : SbReq} (h : s.Sound) : AllNext State.Sound (execVpdRead r s) :=
  h.mi (fun _ ht => .ite ht.miAnswer ht.miAnswer)

theorem State.Sound.tunnel {c : NvmeCmd} (h : s.Sound) : (s.tunnel c).2.2.Sound := by
  unfold State.tunnel
  split
  · split
    · exact .snd2 h
    · exact .snd2 h
  · extract_lets
    split
    · exact .snd2 h
    · exact .iteSnd2 (.snd2 h) (.snd2 h.afterLog)
  · refine .iteSnd2 (.snd2 h) (.iteSnd2 (.snd2 h) ?_)
    split
    · exact .snd2 h
    · exact .snd2 h

theorem State.Sound.execAdminCommandTunnel {r : SbReq} (h : s.Sound) : AllNext State.Sound (execAdminCommandTunnel r s) :=
  h.sbTake (fun _ ht => .ite ht.miAnswer (.ite ht.sbHold (.ite ht.miAnswer ht.tunnel.miAnswer)))

theorem State.Sound.execRefusedNvmeMiCommand {r : SbReq} (h : s.Sound) : AllNext State.Sound (execRefusedNvmeMiCommand r s) :=
  h.sbTake (fun _ ht => ht.miAnswer)

theorem State.Sound.vendor {r : SbReq} {op : Nat} {mine rom : Bool} {serve : State → State} (h : s.Sound) (hserve : ∀ t, t.Sound → (serve
    t).Sound) : AllNext State.Sound (s.vendor r op mine rom serve) :=
  h.sbTake (fun _ ht => .ite ht.vAnswer (.ite ht.vAnswer (hserve _ ht)))

theorem State.Sound.readWords' {page off n : Nat} (h : s.Sound) : (s.readWords' page off n).2.2.Sound := by
  induction n generalizing s off with
  | zero => exact .snd2 h
  | succ n ih =>
    unfold State.readWords'
    split
    · next e => exact .snd2 (ih (h.readPage.ofSnd e))
    · next e => exact .snd2 (h.readPage.ofSnd e)
    · next e => exact .snd2 (h.readPage.ofSnd e)

theorem State.Sound.execPageRead {r : SbReq} (h : s.Sound) : AllNext State.Sound (execPageRead r s) :=
  h.vendor (fun _ ht => .ite ht.vAnswer ht.readWords'.vAnswer)

theorem State.Sound.writeWords' {page off : Nat} {l : List Word} (h : s.Sound) : (s.writeWords' page off l).2.2.Sound := by
  induction l generalizing s off with
  | nil => exact .snd2 h
  | cons x l ih =>
    unfold State.writeWords'
    split
    · next e => exact .snd2 (ih (h.writePage.ofFst e))
    · next e => exact .snd2 (h.writePage.ofFst e)
    · next e => exact .snd2 (h.writePage.ofFst e)

theorem State.Sound.execPageWrite {r : SbReq} (h : s.Sound) : AllNext State.Sound (execPageWrite r s) :=
  h.vendor (fun _ ht => .ite ht.vAnswer ht.writeWords'.vAnswer)

theorem State.Sound.execHealth {r : SbReq} (h : s.Sound) : AllNext State.Sound (execHealth r s) :=
  h.vendor (fun _ ht => ht.vAnswer)

theorem State.Sound.execPowerGet {r : SbReq} (h : s.Sound) : AllNext State.Sound (execPowerGet r s) :=
  h.vendor (fun _ ht => .ite ht.vAnswer ht.vAnswer)

theorem State.Sound.execPowerRequest {r : SbReq} (h : s.Sound) : AllNext State.Sound (execPowerRequest r s) := by
  unfold Machine.execPowerRequest
  refine State.Sound.vendor h (fun _ ht => ?_)
  extract_lets
  refine .ite ht.vAnswer (.ite ht.vAnswer ?_)
  split
  · exact ht.vAnswer
  · next e => exact (ht.requestState.of_eq e).vAnswer

theorem State.Sound.logAnswer {r : SbReq} {p : List Byte} (h : s.Sound) : (s.logAnswer r p).Sound :=
  .ite h.vAnswer h.vAnswer

theorem State.Sound.execLogRead {r : SbReq} (h : s.Sound) : AllNext State.Sound (execLogRead r s) := by
  unfold Machine.execLogRead
  refine State.Sound.vendor h (fun _ ht => ?_)
  extract_lets
  refine .ite ht.vAnswer ?_
  refine .ite ht.logAnswer (.sbMain ht (fun _ ht2 => ?_) (fun _ ht2 => ht2.sbHold) (fun _ ht2 => ht2.vAnswer))
  split
  · exact ht2.logAnswer
  · exact ht2.vAnswer

theorem State.Sound.execFwSlotGet {r : SbReq} (h : s.Sound) : AllNext State.Sound (execFwSlotGet r s) :=
  h.vendor (fun _ ht => .ite ht.vAnswer ht.vAnswer)

theorem State.Sound.execFwSlotSet {r : SbReq} (h : s.Sound) : AllNext State.Sound (execFwSlotSet r s) :=
  h.vendor (fun _ ht => .ite ht.vAnswer (.ite ht.vAnswer ht.putRec.vAnswer))

theorem State.Sound.execFieldStatus {r : SbReq} (h : s.Sound) : AllNext State.Sound (execFieldStatus r s) :=
  h.vendor (fun _ ht => .ite ht.vAnswer ht.vAnswer)

theorem State.Sound.execFieldConfig {r : SbReq} (h : s.Sound) : AllNext State.Sound (execFieldConfig r s) :=
  h.vendor (fun _ ht => .ite ht.vAnswer (ht.sbMain (fun _ ht2 => ht2.sbHold.sendField) (fun _ ht2 => ht2.sbHold) (fun _ ht2 =>
      ht2.vAnswer)))

theorem State.Sound.execEvidProvision {r : SbReq} (h : s.Sound) : AllNext State.Sound (execEvidProvision r s) :=
  h.vendor (fun _ ht => .ite ht.vAnswer (ht.sbMain (fun _ ht2 => .ite ht2.vAnswer (.ite ht2.vAnswer ht2.rest.raise.vAnswer)) (fun _ ht2 =>
      ht2.sbHold) (fun _ ht2 => ht2.vAnswer)))

theorem State.Sound.execRootBlob {r : SbReq} (h : s.Sound) : AllNext State.Sound (execRootBlob r s) :=
  h.vendor (fun _ ht => .ite ht.vAnswer (.ite ht.vAnswer ht.rest.raise.vAnswer))

theorem State.Sound.execOwner {r : SbReq} (h : s.Sound) : AllNext State.Sound (execOwner r s) := by
  unfold Machine.execOwner
  refine State.Sound.vendor h (fun _ ht => ?_)
  extract_lets
  refine .ite ht.vAnswer ?_
  split
  · next e => exact (ht.writePage.ofFst e).vAnswer
  · next e => exact (ht.writePage.ofFst e).vAnswer
  · next e => exact (ht.writePage.ofFst e).vAnswer

theorem State.Sound.execSquallStatus {r : SbReq} (h : s.Sound) : AllNext State.Sound (execSquallStatus r s) :=
  h.vendor (fun _ ht => .ite ht.vAnswer ht.vAnswer)

theorem State.Sound.execSquallUnlock {r : SbReq} (h : s.Sound) : AllNext State.Sound (execSquallUnlock r s) :=
  h.vendor (fun _ ht => .ite ht.vAnswer (.ite ht.vAnswer ht.unlockSquall.vAnswer))

theorem State.Sound.execSquallLock {r : SbReq} (h : s.Sound) : AllNext State.Sound (execSquallLock r s) :=
  h.vendor (fun _ ht => .ite ht.vAnswer ht.lockSquall.vAnswer)

theorem State.Sound.execUnknownVendorOp {r : SbReq} (h : s.Sound) : AllNext State.Sound (execUnknownVendorOp r s) :=
  h.sbTake (fun _ ht => .ite ht.vAnswer ht.vAnswer)

theorem State.Sound.execMainSideTimeout (h : s.Sound) : AllNext State.Sound (execMainSideTimeout s) := by
  unfold Machine.execMainSideTimeout
  split
  · exact .next h
  · exact .ite (.next h.rest.deliver) (.next h.sbAnswer)

theorem State.Sound.execHealthRefresh {answered : Bool} (h : s.Sound) : AllNext State.Sound (execHealthRefresh answered s) :=
  .ite (.next h) (.ite (.next h.rest.copyHealth) (.next h.rest))

/-- Every request that the port serves keeps the form. -/
theorem sbServices_sound : ∀ f ∈ sbServices, ∀ (r : SbReq) (s : State), s.Sound → AllNext State.Sound (f r s) := by
  unfold sbServices
  simp only [List.forall_mem_cons]
  exact ⟨fun _ _ h => h.execSetEndpointId, fun _ _ h => h.execGetEndpointId, fun _ _ h => h.execGetMctpVersionSupport,
    fun _ _ h => h.execGetMessageTypeSupport, fun _ _ h => h.execGetVendorDefinedMessageSupport,
    fun _ _ h => h.execUnsupportedMctpMessage, fun _ _ h => h.execBasicManagementCommand,
    fun _ _ h => h.execReadNvmeMiDataStructure, fun _ _ h => h.execNvmSubsystemHealthStatusPoll,
    fun _ _ h => h.execControllerHealthStatusPoll, fun _ _ h => h.execConfigurationGet, fun _ _ h => h.execConfigurationSet,
    fun _ _ h => h.execVpdRead, fun _ _ h => h.execAdminCommandTunnel, fun _ _ h => h.execRefusedNvmeMiCommand,
    fun _ _ h => h.execPageRead, fun _ _ h => h.execPageWrite, fun _ _ h => h.execHealth, fun _ _ h => h.execPowerGet,
    fun _ _ h => h.execPowerRequest, fun _ _ h => h.execLogRead, fun _ _ h => h.execFwSlotGet, fun _ _ h => h.execFwSlotSet,
    fun _ _ h => h.execFieldStatus, fun _ _ h => h.execFieldConfig, fun _ _ h => h.execEvidProvision,
    fun _ _ h => h.execRootBlob, fun _ _ h => h.execOwner, fun _ _ h => h.execSquallStatus, fun _ _ h => h.execSquallUnlock,
    fun _ _ h => h.execSquallLock, fun _ _ h => h.execUnknownVendorOp, fun _ hf => nomatch hf⟩

theorem State.Sound.serveSb {r : SbReq} (h : s.Sound) : (s.serveSb r).Sound := by
  unfold State.serveSb
  refine sbServices.foldlRecOn _ h fun t ht f hf => ?_
  split
  · next e => exact sbServices_sound f hf r t ht _ e
  · exact ht

theorem State.Sound.serveHeld (h : s.Sound) : s.serveHeld.Sound := h.rest.foldl (fun _ ht _ => ht.serveSb)

theorem State.Sound.execReportReady {c : CellId} (h : s.Sound) : AllNext State.Sound (execReportReady c s) := by
  unfold Machine.execReportReady
  refine .ite (.next h) ?_
  extract_lets s1 s2 s3 s4
  have h1 : s1.Sound := h.cellReady
  have h2 : s2.Sound := .ite h1.serveHeld h1
  have h3 : s3.Sound := .ite h2.endPause h2
  have h4 : s4.Sound := by
    dsimp only [s4]
    split
    · exact .ite h3.endActivation (.ite h3.reverseNext h3)
    · exact h3
  exact .next h4.enterExecs

/-! ## Every command, and the step -/

/-- Every command keeps the form of the state. -/
theorem exec_sound {i : Instr} (h : s.Sound) : AllNext State.Sound (exec i s) := by
  cases i with
  | registerWrite m page off width v => exact (h.execRegisterWrite : AllNext _ (execRegisterWrite m page off width v s))
  | refusedRead m page off width => exact (h.execRefusedRead : AllNext _ (execRefusedRead m page off width s))
  | errcapRearm m page v => exact (h.execErrcapRearm : AllNext _ (execErrcapRearm m page v s))
  | evSet m page v => exact (h.execEvSet : AllNext _ (execEvSet m page v s))
  | evClear m page v hw => exact (h.execEvClear : AllNext _ (execEvClear m page v hw s))
  | evRouteWrite m page v => exact (h.execEvRouteWrite : AllNext _ (execEvRouteWrite m page v s))
  | pgOwnerWrite m page v => exact (h.execPgOwnerWrite : AllNext _ (execPgOwnerWrite m page v s))
  | counterClear m page slot v => exact (h.execCounterClear : AllNext _ (execCounterClear m page slot v s))
  | counterLowRead m page slot => exact (h.execCounterLowRead : AllNext _ (execCounterLowRead m page slot s))
  | topDtimeLoRead m => exact (h.execTopDtimeLoRead : AllNext _ (execTopDtimeLoRead m s))
  | deviceTimeTick aon => exact (h.execDeviceTimeTick : AllNext _ (execDeviceTimeTick aon s))
  | sqTailDoorbell fn y bytes v => exact (h.execSqTailDoorbell : AllNext _ (execSqTailDoorbell fn y bytes v s))
  | cqHeadDoorbell fn y bytes v => exact (h.execCqHeadDoorbell : AllNext _ (execCqHeadDoorbell fn y bytes v s))
  | bar0Access fn off len write => exact (h.execBar0Access : AllNext _ (execBar0Access fn off len write s))
  | controllerEnable fn cc => exact (h.execControllerEnable : AllNext _ (execControllerEnable fn cc s))
  | controllerReset fn => exact (h.execControllerReset : AllNext _ (execControllerReset fn s))
  | controllerResetComplete fn => exact (h.execControllerResetComplete : AllNext _ (execControllerResetComplete fn s))
  | shutdownNotification fn shn => exact (h.execShutdownNotification : AllNext _ (execShutdownNotification fn shn s))
  | shutdownComplete fn => exact (h.execShutdownComplete : AllNext _ (execShutdownComplete fn s))
  | tokenRefill => exact (h.execTokenRefill : AllNext _ (execTokenRefill s))
  | commandStart c => exact (h.execCommandStart : AllNext _ (execCommandStart c s))
  | completionPost c => exact (h.execCompletionPost : AllNext _ (execCompletionPost c s))
  | evidentialBoundPassed c => exact (h.execEvidentialBoundPassed : AllNext _ (execEvidentialBoundPassed c s))
  | admSliceWrite m v => exact (h.execAdmSliceWrite : AllNext _ (execAdmSliceWrite m v s))
  | lock m v => exact (h.execLock : AllNext _ (execLock m v s))
  | admCvalWrite m v => exact (h.execAdmCvalWrite : AllNext _ (execAdmCvalWrite m v s))
  | adlSnap m v => exact (h.execAdlSnap : AllNext _ (execAdlSnap m v s))
  | gcdebtRefresh => exact (h.execGcdebtRefresh : AllNext _ (execGcdebtRefresh s))
  | housekeepingRetry => exact (h.execHousekeepingRetry : AllNext _ (execHousekeepingRetry s))
  | selfTestSegment fn units last pass => exact (h.execSelfTestSegment : AllNext _ (execSelfTestSegment fn units last pass s))
  | createIoSubmissionQueue c => exact (h.execCreateIoSubmissionQueue : AllNext _ (execCreateIoSubmissionQueue c s))
  | createIoCompletionQueue c => exact (h.execCreateIoCompletionQueue : AllNext _ (execCreateIoCompletionQueue c s))
  | deleteIoSubmissionQueue c => exact (h.execDeleteIoSubmissionQueue : AllNext _ (execDeleteIoSubmissionQueue c s))
  | deleteIoCompletionQueue c => exact (h.execDeleteIoCompletionQueue : AllNext _ (execDeleteIoCompletionQueue c s))
  | getLogPage c => exact (h.execGetLogPage : AllNext _ (execGetLogPage c s))
  | identify c => exact (h.execIdentify : AllNext _ (execIdentify c s))
  | abort c => exact (h.execAbort : AllNext _ (execAbort c s))
  | setFeatures c => exact (h.execSetFeatures : AllNext _ (execSetFeatures c s))
  | getFeatures c => exact (h.execGetFeatures : AllNext _ (execGetFeatures c s))
  | setFeaturesNumberOfQueues c => exact (h.execSetFeaturesNumberOfQueues : AllNext _ (execSetFeaturesNumberOfQueues c s))
  | setFeaturesTimestamp c => exact (h.execSetFeaturesTimestamp : AllNext _ (execSetFeaturesTimestamp c s))
  | getFeaturesTimestamp c => exact (h.execGetFeaturesTimestamp : AllNext _ (execGetFeaturesTimestamp c s))
  | setQueueAdmissionDefault c => exact (h.execSetQueueAdmissionDefault : AllNext _ (execSetQueueAdmissionDefault c s))
  | getQueueAdmissionDefault c => exact (h.execGetQueueAdmissionDefault : AllNext _ (execGetQueueAdmissionDefault c s))
  | interruptCoalescingTimer fn vec => exact (h.execInterruptCoalescingTimer : AllNext _ (execInterruptCoalescingTimer fn vec s))
  | asynchronousEventRequest c => exact (h.execAsynchronousEventRequest : AllNext _ (execAsynchronousEventRequest c s))
  | namespaceManagement c => exact (h.execNamespaceManagement : AllNext _ (execNamespaceManagement c s))
  | namespaceAttachment c => exact (h.execNamespaceAttachment : AllNext _ (execNamespaceAttachment c s))
  | firmwareImageDownload c => exact (h.execFirmwareImageDownload : AllNext _ (execFirmwareImageDownload c s))
  | firmwareCommitReplace c => exact (h.execFirmwareCommitReplace : AllNext _ (execFirmwareCommitReplace c s))
  | firmwareCommitNextReset c => exact (h.execFirmwareCommitNextReset : AllNext _ (execFirmwareCommitNextReset c s))
  | firmwareCommitActivate c => exact (h.execFirmwareCommitActivate : AllNext _ (execFirmwareCommitActivate c s))
  | signatureCheckDone ok => exact (h.execSignatureCheckDone : AllNext _ (execSignatureCheckDone ok s))
  | deviceSelfTest c => exact (h.execDeviceSelfTest : AllNext _ (execDeviceSelfTest c s))
  | formatNvm c => exact (h.execFormatNvm : AllNext _ (execFormatNvm c s))
  | secondaryControllerOffline c => exact (h.execSecondaryControllerOffline : AllNext _ (execSecondaryControllerOffline c s))
  | secondaryControllerAssign c => exact (h.execSecondaryControllerAssign : AllNext _ (execSecondaryControllerAssign c s))
  | secondaryControllerOnline c => exact (h.execSecondaryControllerOnline : AllNext _ (execSecondaryControllerOnline c s))
  | invalidCommandOpcode c => exact (h.execInvalidCommandOpcode : AllNext _ (execInvalidCommandOpcode c s))
  | loadProgram c => exact (h.execLoadProgram : AllNext _ (execLoadProgram c s))
  | programActivationManagement c => exact (h.execProgramActivationManagement : AllNext _ (execProgramActivationManagement c s))
  | memoryRangeSetManagement c => exact (h.execMemoryRangeSetManagement : AllNext _ (execMemoryRangeSetManagement c s))
  | read c => exact (h.execRead : AllNext _ (execRead c s))
  | write c => exact (h.execWrite : AllNext _ (execWrite c s))
  | flush c => exact (h.execFlush : AllNext _ (execFlush c s))
  | compare c => exact (h.execCompare : AllNext _ (execCompare c s))
  | writeZeroes c => exact (h.execWriteZeroes : AllNext _ (execWriteZeroes c s))
  | datasetManagement c => exact (h.execDatasetManagement : AllNext _ (execDatasetManagement c s))
  | verify c => exact (h.execVerify : AllNext _ (execVerify c s))
  | copy c => exact (h.execCopy : AllNext _ (execCopy c s))
  | executeProgram c => exact (h.execExecuteProgram : AllNext _ (execExecuteProgram c s))
  | memoryRead c => exact (h.execMemoryRead : AllNext _ (execMemoryRead c s))
  | memoryWrite c => exact (h.execMemoryWrite : AllNext _ (execMemoryWrite c s))
  | hostWriteDataReceived c bs => exact (h.execHostWriteDataReceived : AllNext _ (execHostWriteDataReceived c bs s))
  | hostTransferFailure c => exact (h.execHostTransferFailure : AllNext _ (execHostTransferFailure c s))
  | droppedAppendZeroFill => exact (h.execDroppedAppendZeroFill : AllNext _ (execDroppedAppendZeroFill s))
  | pcieLinkUp speed width => exact (h.execPcieLinkUp : AllNext _ (execPcieLinkUp speed width s))
  | pcieLinkDown => exact (h.execPcieLinkDown : AllNext _ (execPcieLinkDown s))
  | flrPf => exact (h.execFlrPf : AllNext _ (execFlrPf s))
  | flrVf fn => exact (h.execFlrVf : AllNext _ (execFlrVf fn s))
  | vfResetComplete fn => exact (h.execVfResetComplete : AllNext _ (execVfResetComplete fn s))
  | vfEnableClear => exact (h.execVfEnableClear : AllNext _ (execVfEnableClear s))
  | msixEnable fn => exact (h.execMsixEnable : AllNext _ (execMsixEnable fn s))
  | msixMaskClear fn vec => exact (h.execMsixMaskClear : AllNext _ (execMsixMaskClear fn vec s))
  | pmcsrWrite v => exact (h.execPmcsrWrite : AllNext _ (execPmcsrWrite v s))
  | pcieL1Exit => exact (h.execPcieL1Exit : AllNext _ (execPcieL1Exit s))
  | perstAsserted => exact (h.execPerstAsserted : AllNext _ (execPerstAsserted s))
  | perstDeasserted => exact (h.execPerstDeasserted : AllNext _ (execPerstDeasserted s))
  | hotReset => exact (h.execHotReset : AllNext _ (execHotReset s))
  | ctrlrst m v => exact (h.execCtrlrst : AllNext _ (execCtrlrst m v s))
  | mainrst m v => exact (h.execMainrst : AllNext _ (execMainrst m v s))
  | fillComplete c => exact (h.execFillComplete : AllNext _ (execFillComplete c s))
  | scrub m c v => exact (h.execScrub : AllNext _ (execScrub m c v s))
  | celHoldWrite m c v => exact (h.execCelHoldWrite : AllNext _ (execCelHoldWrite m c v s))
  | holdReached c => exact (h.execHoldReached : AllNext _ (execHoldReached c s))
  | celImdataAccess m c write => exact (h.execCelImdataAccess : AllNext _ (execCelImdataAccess m c write s))
  | celDmdataAccess m c write => exact (h.execCelDmdataAccess : AllNext _ (execCelDmdataAccess m c write s))
  | celRvalAccess m c write => exact (h.execCelRvalAccess : AllNext _ (execCelRvalAccess m c write s))
  | interruptInput c => exact (h.execInterruptInput : AllNext _ (execInterruptInput c s))
  | budgetExhausted c => exact (h.execBudgetExhausted : AllNext _ (execBudgetExhausted c s))
  | productLands c => exact (h.execProductLands : AllNext _ (execProductLands c s))
  | streamStallEnd c cycles => exact (h.execStreamStallEnd : AllNext _ (execStreamStallEnd c cycles s))
  | unassignedEncoding iss w => exact (h.execUnassignedEncoding : AllNext _ (execUnassignedEncoding iss w s))
  | add iss rd rs => exact (h.execAdd : AllNext _ (execAdd iss rd rs s))
  | sub iss rd rs => exact (h.execSub : AllNext _ (execSub iss rd rs s))
  | and iss rd rs => exact (h.execAnd : AllNext _ (execAnd iss rd rs s))
  | or iss rd rs => exact (h.execOr : AllNext _ (execOr iss rd rs s))
  | xor iss rd rs => exact (h.execXor : AllNext _ (execXor iss rd rs s))
  | shl iss rd rs => exact (h.execShl : AllNext _ (execShl iss rd rs s))
  | shr iss rd rs => exact (h.execShr : AllNext _ (execShr iss rd rs s))
  | sar iss rd rs => exact (h.execSar : AllNext _ (execSar iss rd rs s))
  | adds iss rd rs => exact (h.execAdds : AllNext _ (execAdds iss rd rs s))
  | subs iss rd rs => exact (h.execSubs : AllNext _ (execSubs iss rd rs s))
  | mul iss rd rs => exact (h.execMul : AllNext _ (execMul iss rd rs s))
  | cmp iss rd rs => exact (h.execCmp : AllNext _ (execCmp iss rd rs s))
  | addi iss rd im => exact (h.execAddi : AllNext _ (execAddi iss rd im s))
  | cmpi iss rd im => exact (h.execCmpi : AllNext _ (execCmpi iss rd im s))
  | andi iss rd im => exact (h.execAndi : AllNext _ (execAndi iss rd im s))
  | ori iss rd im => exact (h.execOri : AllNext _ (execOri iss rd im s))
  | li iss tg rd im => exact (h.execLi : AllNext _ (execLi iss tg rd im s))
  | mov iss rd rs => exact (h.execMov : AllNext _ (execMov iss rd rs s))
  | narrow iss rd rs => exact (h.execNarrow : AllNext _ (execNarrow iss rd rs s))
  | beql iss rd rs => exact (h.execBeql : AllNext _ (execBeql iss rd rs s))
  | savl iss rd rs => exact (h.execSavl : AllNext _ (execSavl iss rd rs s))
  | movs iss rd sp => exact (h.execMovs : AllNext _ (execMovs iss rd sp s))
  | sets iss sp rs => exact (h.execSets : AllNext _ (execSets iss sp rs s))
  | fst iss rs ra => exact (h.execFst : AllNext _ (execFst iss rs ra s))
  | fld iss tg rd ra => exact (h.execFld : AllNext _ (execFld iss tg rd ra s))
  | retag iss rd rs => exact (h.execRetag : AllNext _ (execRetag iss rd rs s))
  | ld iss rd im => exact (h.execLd : AllNext _ (execLd iss rd im s))
  | st iss rs im => exact (h.execSt : AllNext _ (execSt iss rs im s))
  | ldx iss rd rp hi => exact (h.execLdx : AllNext _ (execLdx iss rd rp hi s))
  | stx iss rs rp hi => exact (h.execStx : AllNext _ (execStx iss rs rp hi s))
  | push iss r => exact (h.execPush : AllNext _ (execPush iss r s))
  | pop iss r => exact (h.execPop : AllNext _ (execPop iss r s))
  | sld iss size rd wh hi => exact (h.execSld : AllNext _ (execSld iss size rd wh hi s))
  | sst iss size rs wh hi => exact (h.execSst : AllNext _ (execSst iss size rs wh hi s))
  | srel iss wh rs => exact (h.execSrel : AllNext _ (execSrel iss wh rs s))
  | spub iss wh rs => exact (h.execSpub : AllNext _ (execSpub iss wh rs s))
  | getp iss r => exact (h.execGetp : AllNext _ (execGetp iss r s))
  | job iss wh rp waited => exact (h.execJob : AllNext _ (execJob iss wh rp waited s))
  | jwait iss rd wh waited => exact (h.execJwait : AllNext _ (execJwait iss rd wh waited s))
  | b iss cond off => exact (h.execB : AllNext _ (execB iss cond off s))
  | jmp iss target => exact (h.execJmp : AllNext _ (execJmp iss target s))
  | call iss target => exact (h.execCall : AllNext _ (execCall iss target s))
  | jr iss r => exact (h.execJr : AllNext _ (execJr iss r s))
  | callr iss r => exact (h.execCallr : AllNext _ (execCallr iss r s))
  | ret iss => exact (h.execRet : AllNext _ (execRet iss s))
  | rett iss => exact (h.execRett : AllNext _ (execRett iss s))
  | nop iss => exact (h.execNop : AllNext _ (execNop iss s))
  | endp iss => exact (h.execEndp : AllNext _ (execEndp iss s))
  | swi iss n => exact (h.execSwi : AllNext _ (execSwi iss n s))
  | clr iss r => exact (h.execClr : AllNext _ (execClr iss r s))
  | rdtime iss r => exact (h.execRdtime : AllNext _ (execRdtime iss r s))
  | repi iss r => exact (h.execRepi : AllNext _ (execRepi iss r s))
  | rep iss n => exact (h.execRep : AllNext _ (execRep iss n s))
  | test iss r => exact (h.execTest : AllNext _ (execTest iss r s))
  | not iss r => exact (h.execNot : AllNext _ (execNot iss r s))
  | neg iss r => exact (h.execNeg : AllNext _ (execNeg iss r s))
  | cvti iss r => exact (h.execCvti : AllNext _ (execCvti iss r s))
  | cvtu iss r => exact (h.execCvtu : AllNext _ (execCvtu iss r s))
  | cvtf iss r => exact (h.execCvtf : AllNext _ (execCvtf iss r s))
  | cvtb iss r => exact (h.execCvtb : AllNext _ (execCvtb iss r s))
  | cvtl iss r => exact (h.execCvtl : AllNext _ (execCvtl iss r s))
  | clz iss r => exact (h.execClz : AllNext _ (execClz iss r s))
  | popc iss r => exact (h.execPopc : AllNext _ (execPopc iss r s))
  | bswp iss r => exact (h.execBswp : AllNext _ (execBswp iss r s))
  | idle iss => exact (h.execIdle : AllNext _ (execIdle iss s))
  | tagof iss r => exact (h.execTagof : AllNext _ (execTagof iss r s))
  | setc iss r cond => exact (h.execSetc : AllNext _ (execSetc iss r cond s))
  | streamDataFlit f => exact (h.execStreamDataFlit : AllNext _ (execStreamDataFlit f s))
  | streamCredit f => exact (h.execStreamCredit : AllNext _ (execStreamCredit f s))
  | fabricReadRequest f => exact (h.execFabricReadRequest : AllNext _ (execFabricReadRequest f s))
  | fabricReadResponse f => exact (h.execFabricReadResponse : AllNext _ (execFabricReadResponse f s))
  | fabricWrite f => exact (h.execFabricWrite : AllNext _ (execFabricWrite f s))
  | jobDescriptor f => exact (h.execJobDescriptor : AllNext _ (execJobDescriptor f s))
  | jobStatus f => exact (h.execJobStatus : AllNext _ (execJobStatus f s))
  | controlFlit f => exact (h.execControlFlit : AllNext _ (execControlFlit f s))
  | suStart m c v => exact (h.execSuStart : AllNext _ (execSuStart m c v s))
  | suCancel m c v => exact (h.execSuCancel : AllNext _ (execSuCancel m c v s))
  | streamDrain c slot close => exact (h.execStreamDrain : AllNext _ (execStreamDrain c slot close s))
  | codecJobEnd unit output => exact (h.execCodecJobEnd : AllNext _ (execCodecJobEnd unit output s))
  | codecHalt m unit v => exact (h.execCodecHalt : AllNext _ (execCodecHalt m unit v s))
  | wreload m v => exact (h.execWreload : AllNext _ (execWreload m v s))
  | cellReassign c r => exact (h.execCellReassign : AllNext _ (execCellReassign c r s))
  | drainDone c => exact (h.execDrainDone : AllNext _ (execDrainDone c s))
  | reportReady c => exact (h.execReportReady : AllNext _ (execReportReady c s))
  | evidentialPauseTimeout => exact (h.execEvidentialPauseTimeout : AllNext _ (execEvidentialPauseTimeout s))
  | stagingDrain die => exact (h.execStagingDrain : AllNext _ (execStagingDrain die s))
  | journalPageTimer => exact (h.execJournalPageTimer : AllNext _ (execJournalPageTimer s))
  | journalPageDurable => exact (h.execJournalPageDurable : AllNext _ (execJournalPageDurable s))
  | checkpointBegin => exact (h.execCheckpointBegin : AllNext _ (execCheckpointBegin s))
  | demotion unit => exact (h.execDemotion : AllNext _ (execDemotion unit s))
  | garbageCollection die block => exact (h.execGarbageCollection : AllNext _ (execGarbageCollection die block s))
  | blockErase die block => exact (h.execBlockErase : AllNext _ (execBlockErase die block s))
  | folding die block => exact (h.execFolding : AllNext _ (execFolding die block s))
  | powerFail => exact (h.execPowerFail : AllNext _ (execPowerFail s))
  | flushComplete => exact (h.execFlushComplete : AllNext _ (execFlushComplete s))
  | patrolPassStart => exact (h.execPatrolPassStart : AllNext _ (execPatrolPassStart s))
  | patrolLate => exact (h.execPatrolLate : AllNext _ (execPatrolLate s))
  | patrolRead ch way block page => exact (h.execPatrolRead : AllNext _ (execPatrolRead ch way block page s))
  | memberFailed die => exact (h.execMemberFailed : AllNext _ (execMemberFailed die s))
  | redFailDeclare m v => exact (h.execRedFailDeclare : AllNext _ (execRedFailDeclare m v s))
  | rebuildFloor => exact (h.execRebuildFloor : AllNext _ (execRebuildFloor s))
  | rebuildDone => exact (h.execRebuildDone : AllNext _ (execRebuildDone s))
  | rbPause m v => exact (h.execRbPause : AllNext _ (execRbPause m v s))
  | sifjWrite => exact (h.execSifjWrite : AllNext _ (execSifjWrite s))
  | quietRotation => exact (h.execQuietRotation : AllNext _ (execQuietRotation s))
  | quietJoin => exact (h.execQuietJoin : AllNext _ (execQuietJoin s))
  | mediaSchedule die => exact (h.execMediaSchedule : AllNext _ (execMediaSchedule die s))
  | mediaRead ch => exact (h.execMediaRead : AllNext _ (execMediaRead ch s))
  | mediaProgram ch => exact (h.execMediaProgram : AllNext _ (execMediaProgram ch s))
  | mediaErase ch => exact (h.execMediaErase : AllNext _ (execMediaErase ch s))
  | lunReset ch => exact (h.execLunReset : AllNext _ (execLunReset ch s))
  | setFeature ch way fa p => exact (h.execSetFeature : AllNext _ (execSetFeature ch way fa p s))
  | suspend ch => exact (h.execSuspend : AllNext _ (execSuspend ch s))
  | resume ch => exact (h.execResume : AllNext _ (execResume ch s))
  | dieReady die r => exact (h.execDieReady : AllNext _ (execDieReady die r s))
  | operationTimeLimit die => exact (h.execOperationTimeLimit : AllNext _ (execOperationTimeLimit die s))
  | lunResetTimeout die => exact (h.execLunResetTimeout : AllNext _ (execLunResetTimeout die s))
  | pageBufferFree ch buf => exact (h.execPageBufferFree : AllNext _ (execPageBufferFree ch buf s))
  | halt ch => exact (h.execHalt : AllNext _ (execHalt ch s))
  | seqJmp ch target => exact (h.execSeqJmp : AllNext _ (execSeqJmp ch target s))
  | jcc ch cond target => exact (h.execJcc : AllNext _ (execJcc ch cond target s))
  | seqCall ch target => exact (h.execSeqCall : AllNext _ (execSeqCall ch target s))
  | seqRet ch => exact (h.execSeqRet : AllNext _ (execSeqRet ch s))
  | ldcnt ch n => exact (h.execLdcnt : AllNext _ (execLdcnt ch n s))
  | loop ch target => exact (h.execLoop : AllNext _ (execLoop ch target s))
  | waitrb ch w ready st => exact (h.execWaitrb : AllNext _ (execWaitrb ch w ready st s))
  | waitrbTimeout ch => exact (h.execWaitrbTimeout : AllNext _ (execWaitrbTimeout ch s))
  | lddesc ch w => exact (h.execLddesc : AllNext _ (execLddesc ch w s))
  | adda ch w => exact (h.execAdda : AllNext _ (execAdda ch w s))
  | setf ch w => exact (h.execSetf : AllNext _ (execSetf ch w s))
  | retry ch w => exact (h.execRetry : AllNext _ (execRetry ch w s))
  | post ch w => exact (h.execPost : AllNext _ (execPost ch w s))
  | shortOperationPair ch w dq => exact (h.execShortOperationPair : AllNext _ (execShortOperationPair ch w dq s))
  | step m ch v ready st dq => exact (h.execStep : AllNext _ (execStep m ch v ready st dq s))
  | mchUsdataAccess m ch write => exact (h.execMchUsdataAccess : AllNext _ (execMchUsdataAccess m ch write s))
  | search c => exact (h.execSearch : AllNext _ (execSearch c s))
  | searchStream c => exact (h.execSearchStream : AllNext _ (execSearchStream c s))
  | insert c => exact (h.execInsert : AllNext _ (execInsert c s))
  | delete c => exact (h.execDelete : AllNext _ (execDelete c s))
  | searchEntryRead c => exact (h.execSearchEntryRead : AllNext _ (execSearchEntryRead c s))
  | windowSearch unit bs => exact (h.execWindowSearch : AllNext _ (execWindowSearch unit bs s))
  | sweepCompare bank flip bad => exact (h.execSweepCompare : AllNext _ (execSweepCompare bank flip bad s))
  | shadowWriteComplete => exact (h.execShadowWriteComplete : AllNext _ (execShadowWriteComplete s))
  | spread m bank => exact (h.execSpread : AllNext _ (execSpread m bank s))
  | clear m bank => exact (h.execClear : AllNext _ (execClear m bank s))
  | srbModeOwnerWrite m bank v => exact (h.execSrbModeOwnerWrite : AllNext _ (execSrbModeOwnerWrite m bank v s))
  | init m => exact (h.execInit : AllNext _ (execInit m s))
  | reload m => exact (h.execReload : AllNext _ (execReload m s))
  | srcReady => exact (h.execSrcReady : AllNext _ (execSrcReady s))
  | srcThrottleSample => exact (h.execSrcThrottleSample : AllNext _ (execSrcThrottleSample s))
  | cipherPathJob lane req => exact (h.execCipherPathJob : AllNext _ (execCipherPathJob lane req s))
  | cipherJob c lane busErr => exact (h.execCipherJob : AllNext _ (execCipherJob c lane busErr s))
  | cipherHalt m lane v => exact (h.execCipherHalt : AllNext _ (execCipherHalt m lane v s))
  | digestJob c lane cut busErr => exact (h.execDigestJob : AllNext _ (execDigestJob c lane cut busErr s))
  | derive m v => exact (h.execDerive : AllNext _ (execDerive m v s))
  | erase m v => exact (h.execErase : AllNext _ (execErase m v s))
  | install m v => exact (h.execInstall : AllNext _ (execInstall m v s))
  | eraseAll m v => exact (h.execEraseAll : AllNext _ (execEraseAll m v s))
  | keyOpRefused m v => exact (h.execKeyOpRefused : AllNext _ (execKeyOpRefused m v s))
  | rootLock m v => exact (h.execRootLock : AllNext _ (execRootLock m v s))
  | keySuse0Read m => exact (h.execKeySuse0Read : AllNext _ (execKeySuse0Read m s))
  | dramRequestIssue ch upset => exact (h.execDramRequestIssue : AllNext _ (execDramRequestIssue ch upset s))
  | perBankRefresh ch => exact (h.execPerBankRefresh : AllNext _ (execPerBankRefresh ch s))
  | dramTempSample t => exact (h.execDramTempSample : AllNext _ (execDramTempSample t s))
  | arm m v => exact (h.execArm : AllNext _ (execArm m v s))
  | cancel m v => exact (h.execCancel : AllNext _ (execCancel m v s))
  | retuneBlackout => exact (h.execRetuneBlackout : AllNext _ (execRetuneBlackout s))
  | cacheAccess id addr len cls write => exact (h.execCacheAccess : AllNext _ (execCacheAccess id addr len cls write s))
  | cacheFill slice id => exact (h.execCacheFill : AllNext _ (execCacheFill slice id s))
  | wayDisable slice way => exact (h.execWayDisable : AllNext _ (execWayDisable slice way s))
  | clean m v => exact (h.execClean : AllNext _ (execClean m v s))
  | inval m v => exact (h.execInval : AllNext _ (execInval m v s))
  | cleanInval m v => exact (h.execCleanInval : AllNext _ (execCleanInval m v s))
  | cleanAll m v => exact (h.execCleanAll : AllNext _ (execCleanAll m v s))
  | cleanInvalAll m v => exact (h.execCleanInvalAll : AllNext _ (execCleanInvalAll m v s))
  | cleanWay m slice v => exact (h.execCleanWay : AllNext _ (execCleanWay m slice v s))
  | cleanInvalWay m slice v => exact (h.execCleanInvalWay : AllNext _ (execCleanInvalWay m slice v s))
  | maintenanceDone slice => exact (h.execMaintenanceDone : AllNext _ (execMaintenanceDone slice s))
  | fchWdis m slice v => exact (h.execFchWdis : AllNext _ (execFchWdis m slice v s))
  | regionFill => exact (h.execRegionFill : AllNext _ (execRegionFill s))
  | mpClear m page v => exact (h.execMpClear : AllNext _ (execMpClear m page v s))
  | vfmSelWrite m v => exact (h.execVfmSelWrite : AllNext _ (execVfmSelWrite m v s))
  | apply m v => exact (h.execApply : AllNext _ (execApply m v s))
  | mailboxSend m fn v => exact (h.execMailboxSend : AllNext _ (execMailboxSend m fn v s))
  | mailboxAck m fn v => exact (h.execMailboxAck : AllNext _ (execMailboxAck m fn v s))
  | dirtyPageEnable m v => exact (h.execDirtyPageEnable : AllNext _ (execDirtyPageEnable m v s))
  | copyBitmap m v => exact (h.execCopyBitmap : AllNext _ (execCopyBitmap m v s))
  | dirtyPageCopyDone fn => exact (h.execDirtyPageCopyDone : AllNext _ (execDirtyPageCopyDone fn s))
  | slmShareZero fn => exact (h.execSlmShareZero : AllNext _ (execSlmShareZero fn s))
  | discreteInputChange n level t => exact (h.execDiscreteInputChange : AllNext _ (execDiscreteInputChange n level t s))
  | speedSample => exact (h.execSpeedSample : AllNext _ (execSpeedSample s))
  | canFrameReceived bus ident fd brs esi dlc data =>
    exact (h.execCanFrameReceived : AllNext _ (execCanFrameReceived bus ident fd brs esi dlc data s))
  | canBusStateChange bus st tec rec => exact (h.execCanBusStateChange : AllNext _ (execCanBusStateChange bus st tec rec s))
  | ethFrameReceived port frame => exact (h.execEthFrameReceived : AllNext _ (execEthFrameReceived port frame s))
  | ethernetLinkChange port up => exact (h.execEthernetLinkChange : AllNext _ (execEthernetLinkChange port up s))
  | fieldTokenRefill n => exact (h.execFieldTokenRefill : AllNext _ (execFieldTokenRefill n s))
  | timeSyncInterval => exact (h.execTimeSyncInterval : AllNext _ (execTimeSyncInterval s))
  | healthInterval mv temp => exact (h.execHealthInterval : AllNext _ (execHealthInterval mv temp s))
  | rtcAlarm => exact (h.execRtcAlarm : AllNext _ (execRtcAlarm s))
  | legalTimeStore => exact (h.execLegalTimeStore : AllNext _ (execLegalTimeStore s))
  | ringEntrySend => exact (h.execRingEntrySend : AllNext _ (execRingEntrySend s))
  | wakeRepeat => exact (h.execWakeRepeat : AllNext _ (execWakeRepeat s))
  | wakeOutputTimeout again => exact (h.execWakeOutputTimeout : AllNext _ (execWakeOutputTimeout again s))
  | fieldColdStart => exact (h.execFieldColdStart : AllNext _ (execFieldColdStart s))
  | vf3p3Loss => exact (h.execVf3p3Loss : AllNext _ (execVf3p3Loss s))
  | eventRecord msg => exact (h.execEventRecord : AllNext _ (execEventRecord msg s))
  | canBatch msg => exact (h.execCanBatch : AllNext _ (execCanBatch msg s))
  | ethFragment msg => exact (h.execEthFragment : AllNext _ (execEthFragment msg s))
  | timeSync msg => exact (h.execTimeSync : AllNext _ (execTimeSync msg s))
  | wake msg => exact (h.execWake : AllNext _ (execWake msg s))
  | fieldHealth msg => exact (h.execFieldHealth : AllNext _ (execFieldHealth msg s))
  | ack msg => exact (h.execAck : AllNext _ (execAck msg s))
  | config msg => exact (h.execConfig : AllNext _ (execConfig msg s))
  | timeSet msg => exact (h.execTimeSet : AllNext _ (execTimeSet msg s))
  | wakePolicy msg => exact (h.execWakePolicy : AllNext _ (execWakePolicy msg s))
  | txCan msg => exact (h.execTxCan : AllNext _ (execTxCan msg s))
  | canTransmitDone ok => exact (h.execCanTransmitDone : AllNext _ (execCanTransmitDone ok s))
  | fieldImage msg => exact (h.execFieldImage : AllNext _ (execFieldImage msg s))
  | fieldImageVerified ok version => exact (h.execFieldImageVerified : AllNext _ (execFieldImageVerified ok version s))
  | fieldImageActivate msg starts => exact (h.execFieldImageActivate : AllNext _ (execFieldImageActivate msg starts s))
  | hostAck msg => exact (h.execHostAck : AllNext _ (execHostAck msg s))
  | frontLinkUp => exact (h.execFrontLinkUp : AllNext _ (execFrontLinkUp s))
  | frontLinkDown => exact (h.execFrontLinkDown : AllNext _ (execFrontLinkDown s))
  | retrain m v => exact (h.execRetrain : AllNext _ (execRetrain m v s))
  | resumeRepeat => exact (h.execResumeRepeat : AllNext _ (execResumeRepeat s))
  | hostResendTimeout => exact (h.execHostResendTimeout : AllNext _ (execHostResendTimeout s))
  | frlMsgSend m v => exact (h.execFrlMsgSend : AllNext _ (execFrlMsgSend m v s))
  | frlMsgTimeout => exact (h.execFrlMsgTimeout : AllNext _ (execFrlMsgTimeout s))
  | captureAppend => exact (h.execCaptureAppend : AllNext _ (execCaptureAppend s))
  | appendDurable k => exact (h.execAppendDurable : AllNext _ (execAppendDurable k s))
  | setEndpointId r => exact (h.execSetEndpointId : AllNext _ (execSetEndpointId r s))
  | getEndpointId r => exact (h.execGetEndpointId : AllNext _ (execGetEndpointId r s))
  | getMctpVersionSupport r => exact (h.execGetMctpVersionSupport : AllNext _ (execGetMctpVersionSupport r s))
  | getMessageTypeSupport r => exact (h.execGetMessageTypeSupport : AllNext _ (execGetMessageTypeSupport r s))
  | getVendorDefinedMessageSupport r => exact (h.execGetVendorDefinedMessageSupport : AllNext _ (execGetVendorDefinedMessageSupport r s))
  | unsupportedMctpMessage r => exact (h.execUnsupportedMctpMessage : AllNext _ (execUnsupportedMctpMessage r s))
  | entdaa addr => exact (h.execEntdaa : AllNext _ (execEntdaa addr s))
  | basicManagementCommand r => exact (h.execBasicManagementCommand : AllNext _ (execBasicManagementCommand r s))
  | readNvmeMiDataStructure r => exact (h.execReadNvmeMiDataStructure : AllNext _ (execReadNvmeMiDataStructure r s))
  | nvmSubsystemHealthStatusPoll r => exact (h.execNvmSubsystemHealthStatusPoll : AllNext _ (execNvmSubsystemHealthStatusPoll r s))
  | controllerHealthStatusPoll r => exact (h.execControllerHealthStatusPoll : AllNext _ (execControllerHealthStatusPoll r s))
  | configurationGet r => exact (h.execConfigurationGet : AllNext _ (execConfigurationGet r s))
  | configurationSet r => exact (h.execConfigurationSet : AllNext _ (execConfigurationSet r s))
  | vpdRead r => exact (h.execVpdRead : AllNext _ (execVpdRead r s))
  | adminCommandTunnel r => exact (h.execAdminCommandTunnel : AllNext _ (execAdminCommandTunnel r s))
  | refusedNvmeMiCommand r => exact (h.execRefusedNvmeMiCommand : AllNext _ (execRefusedNvmeMiCommand r s))
  | pageRead r => exact (h.execPageRead : AllNext _ (execPageRead r s))
  | pageWrite r => exact (h.execPageWrite : AllNext _ (execPageWrite r s))
  | health r => exact (h.execHealth : AllNext _ (execHealth r s))
  | powerGet r => exact (h.execPowerGet : AllNext _ (execPowerGet r s))
  | powerRequest r => exact (h.execPowerRequest : AllNext _ (execPowerRequest r s))
  | logRead r => exact (h.execLogRead : AllNext _ (execLogRead r s))
  | fwSlotGet r => exact (h.execFwSlotGet : AllNext _ (execFwSlotGet r s))
  | fwSlotSet r => exact (h.execFwSlotSet : AllNext _ (execFwSlotSet r s))
  | fieldStatus r => exact (h.execFieldStatus : AllNext _ (execFieldStatus r s))
  | fieldConfig r => exact (h.execFieldConfig : AllNext _ (execFieldConfig r s))
  | evidProvision r => exact (h.execEvidProvision : AllNext _ (execEvidProvision r s))
  | rootBlob r => exact (h.execRootBlob : AllNext _ (execRootBlob r s))
  | owner r => exact (h.execOwner : AllNext _ (execOwner r s))
  | squallStatus r => exact (h.execSquallStatus : AllNext _ (execSquallStatus r s))
  | squallUnlock r => exact (h.execSquallUnlock : AllNext _ (execSquallUnlock r s))
  | squallLock r => exact (h.execSquallLock : AllNext _ (execSquallLock r s))
  | unknownVendorOp r => exact (h.execUnknownVendorOp : AllNext _ (execUnknownVendorOp r s))
  | mainSideTimeout => exact (h.execMainSideTimeout : AllNext _ (execMainSideTimeout s))
  | healthRefresh answered => exact (h.execHealthRefresh : AllNext _ (execHealthRefresh answered s))
  | breezeEntry => exact (h.execBreezeEntry : AllNext _ (execBreezeEntry s))
  | breezeExit => exact (h.execBreezeExit : AllNext _ (execBreezeExit s))
  | automaticDeepTimer => exact (h.execAutomaticDeepTimer : AllNext _ (execAutomaticDeepTimer s))
  | go m v => exact (h.execGo : AllNext _ (execGo m v s))
  | lullEntry => exact (h.execLullEntry : AllNext _ (execLullEntry s))
  | calmEntry => exact (h.execCalmEntry : AllNext _ (execCalmEntry s))
  | lullExit => exact (h.execLullExit : AllNext _ (execLullExit s))
  | calmExit => exact (h.execCalmExit : AllNext _ (execCalmExit s))
  | thermalSample temps watts => exact (h.execThermalSample : AllNext _ (execThermalSample temps watts s))
  | throttleEffect => exact (h.execThrottleEffect : AllNext _ (execThrottleEffect s))
  | thermalHold => exact (h.execThermalHold : AllNext _ (execThermalHold s))
  | thermalHoldEnd => exact (h.execThermalHoldEnd : AllNext _ (execThermalHoldEnd s))
  | wardenOscillatorStop => exact (h.execWardenOscillatorStop : AllNext _ (execWardenOscillatorStop s))
  | pllUnlock pll => exact (h.execPllUnlock : AllNext _ (execPllUnlock pll s))
  | crystalStop x25 => exact (h.execCrystalStop : AllNext _ (execCrystalStop x25 s))
  | alwaysOnPowerOn i3c => exact (h.execAlwaysOnPowerOn : AllNext _ (execAlwaysOnPowerOn i3c s))
  | mainStart f => exact (h.execMainStart : AllNext _ (execMainStart f s))
  | mainSideRestart f => exact (h.execMainSideRestart : AllNext _ (execMainSideRestart f s))
  | v12MainLoss => exact (h.execV12MainLoss : AllNext _ (execV12MainLoss s))
  | vccqNLoss => exact (h.execVccqNLoss : AllNext _ (execVccqNLoss s))
  | supplySample main aon vccq => exact (h.execSupplySample : AllNext _ (execSupplySample main aon vccq s))
  | alarm n => exact (h.execAlarm : AllNext _ (execAlarm n s))
  | alarmEnd n => exact (h.execAlarmEnd : AllNext _ (execAlarmEnd n s))
  | rearm m v => exact (h.execRearm : AllNext _ (execRearm m v s))
  | availabilityTick => exact (h.execAvailabilityTick : AllNext _ (execAvailabilityTick s))
  | accountingLogWrite => exact (h.execAccountingLogWrite : AllNext _ (execAccountingLogWrite s))
  | unlock m v => exact (h.execUnlock : AllNext _ (execUnlock m v s))
  | sqlLock m v => exact (h.execSqlLock : AllNext _ (execSqlLock m v s))
  | sqForce m page v => exact (h.execSqForce : AllNext _ (execSqForce m page v s))
  | delayedResultRelease => exact (h.execDelayedResultRelease : AllNext _ (execDelayedResultRelease s))
  | scaledReadyRelease die => exact (h.execScaledReadyRelease : AllNext _ (execScaledReadyRelease die s))
  | v3p3AonLoss => exact (h.execV3p3AonLoss : AllNext _ (execV3p3AonLoss s))
  | vfEnableSet n => exact (h.execVfEnableSet : AllNext _ (execVfEnableSet n s))
  | pcieL1Entry pm => exact (h.execPcieL1Entry : AllNext _ (execPcieL1Entry pm s))
  | speedPulse widthUs => exact (h.execSpeedPulse : AllNext _ (execSpeedPulse widthUs s))
  | srbSelfTest m bank pass => exact (h.execSrbSelfTest : AllNext _ (execSrbSelfTest m bank pass s))
  | fieldAppendBoundPassed => exact (h.execFieldAppendBoundPassed : AllNext _ (execFieldAppendBoundPassed s))
  | slewComplete => exact (h.execSlewComplete : AllNext _ (execSlewComplete s))

/-- Every step keeps the form of the state. -/
theorem step_sound (h : s.Sound) : AllNext State.Sound (step s) := by
  unfold step
  split
  · exact .next h
  · exact exec_sound h.rest

end Sys2Proof.Machine

open Sys2Proof Sys2Proof.Machine

/-- Settles O5: every operation of the model keeps the form, so every command does, and so does the step, which takes it from the queue. -/
theorem soundKept : Obligations.SoundKept := fun _ t h e => step_sound h t e
end

section
/-!
Accesses to the register pages that a row of R33 stops: what the access check answers, and what a stopped access leaves of the registers.
-/

namespace Sys2Proof.Machine

variable {s : State} {m : Master} {page off width : Nat} {v : Word} {d : RegDef}

/-! ## The rows of R33 -/

/-- A page whose domain is off does not service an access (R32). -/
theorem checkAccess_off (h1 : reaches m page = true) (h2 : (kindOf page).isSome = true) (h3 : s.pageOn page = false) (r : Bool) :
    s.checkAccess m page off width r v = .stop (s.setReg (PG_STAT 0) (setBit (s.reg (PG_STAT 0)) 16 true)) .offError := by
  simp only [State.checkAccess, h1, h2, h3, Bool.not_false, Bool.and_self, if_true]

/-- An access that no page answers is recorded in the master's home page (R26). -/
theorem checkAccess_unmapped (h : (reaches m page && (kindOf page).isSome) = false) (ho : off % 4 = 0) (r : Bool) :
    s.checkAccess m page off 32 r v =
      .stop (s.accessFail (homePage m) 2 0x03 m off (if r then 0 else v)) (unmappedReply m r) := by
  simp only [State.checkAccess, h, ho, Bool.false_and, Bool.false_eq_true, if_false, ne_eq, not_true_eq_false, or_self]

/-- Above page 2 a VF window has no page (R26). -/
theorem kindOf_window {n : Nat} (h1 : 0x1000 + 16 * n + 3 ≤ page) (h2 : page < 0x1000 + 16 * n + 16) : kindOf page = none := by
  obtain ⟨j, hj, rfl⟩ : ∃ j, j < 13 ∧ page = 0x1000 + 16 * n + 3 + j := ⟨page - (0x1000 + 16 * n + 3), by omega, by omega⟩
  have hw : ¬ 0x1000 + 16 * n + 3 + j < 0x1000 := by omega
  have hr : (0x1000 + 16 * n + 3 + j - 0x1000) % 16 = 3 + j := by omega
  simp only [kindOf, hw, if_false, hr]
  split
  · split <;> first | omega | rfl
  · rfl

/-! ## Stopped accesses -/

theorem exec_registerWrite {t : State} {r : BusReply}
    (h : s.write m page off width v (pageCond page m off v) (pageEffect page m off v) = (t, r)) :
    exec (.registerWrite m page off width v) s = .next t := by
  change execRegisterWrite m page off width v s = _
  rw [execRegisterWrite, State.writePage, h]

/-- A write that the access check stops. -/
theorem exec_registerWrite_of_stop {t : State} {r : BusReply} (h : (s.arrive m).checkAccess m page off width false v = .stop t r) :
    exec (.registerWrite m page off width v) s = .next t :=
  exec_registerWrite (r := r) (by simp only [State.write, h])

/-- A read that the access check stops is answered to its master. -/
theorem exec_refusedRead_of_stop {t : State} {r : BusReply} (h : (s.arrive m).checkAccess m page off width true 0 = .stop t r) :
    exec (.refusedRead m page off width) s = .next (t.emit (.reply m r)) := by
  change execRefusedRead m page off width s = _
  simp only [execRefusedRead, h, State.reply]

/-- A write into the locked Squall area is ignored and reported (R33, R463). -/
theorem write_of_locked {cond : State → Option State} {eff : RegDef → State → State} (hr : Reaches (s.arrive m) m page off d)
    (ht : tenantView m page = false) (ho : d.owner ≠ .none) (hq : (inSquall off && (s.arrive m).squallHolder.isNone) = true) :
    s.write m page off 32 v cond eff = ((s.arrive m).accessFail page 3 0x04 m off v, .accessError) := by
  simp only [State.write, checkAccess_of_reaches hr, ht, ho, hq, Bool.false_eq_true, if_false, if_true]

/-- A write that the lock or the owner line does not permit is ignored and reported. -/
theorem write_of_not_permitted {cond : State → Option State} {eff : RegDef → State → State} (hr : Reaches (s.arrive m) m page off d)
    (ht : tenantView m page = false) (ho : d.owner ≠ .none)
    (h : (inSquall off && (s.arrive m).squallHolder.isNone) = true ∨ (s.arrive m).mayWrite m page d = false) :
    s.write m page off 32 v cond eff = ((s.arrive m).accessFail page 3 0x04 m off v, .accessError) := by
  cases hq : inSquall off && (s.arrive m).squallHolder.isNone with
  | true => exact write_of_locked hr ht ho hq
  | false => exact write_of_foreign hr ht ho hq (h.resolve_left (by simp [hq]))

/-- An invalid route is ignored and reported (R33, R38). -/
theorem write_of_badRoute {cond : State → Option State} {eff : RegDef → State → State} (hr : Reaches (s.arrive m) m page 0x34 d)
    (ht : tenantView m page = false) (ho : d.owner ≠ .none) (hm : (s.arrive m).mayWrite m page d = true)
    (hb : (s.arrive m).badRoute v = true) :
    s.write m page 0x34 32 v cond eff = ((s.arrive m).accessFail page 4 0x05 m 0x34 v, .accessError) := by
  have hq : inSquall 0x34 = false := rfl
  simp only [State.write, checkAccess_of_reaches hr, ht, ho, hq, hm, hb, Bool.false_and, Bool.false_eq_true, if_false, Bool.not_true,
    decide_true, Bool.and_self, if_true]

/-- A refused access sets its status bit and touches no quiet register but its page's PG_STAT. -/
theorem accessFail_frame {p k code : Nat} {w : Word} (hc : s.Canonical) (hk : k < 32) :
    ((s.arrive m).accessFail p k code m off w).regBit (PG_STAT p) k = true ∧
      ∀ j, QuietReg j → j ≠ PG_STAT p → ((s.arrive m).accessFail p k code m off w).reg j = s.reg j := by
  obtain ⟨ha, harrive⟩ := (Leaves.refl.arrive m).run hc
  obtain ⟨-, hfail⟩ := (State.accessFail_leaves (p := p) (k := k) (code := code) (m := m) (off := off) (v := w)).run ha
  constructor
  · rw [State.regBit, State.accessFail_pgStat ha, bit_setBit_self hk]
  · exact fun j hq hj => (hfail j ⟨hq, hj⟩).trans (harrive j hq)

end Sys2Proof.Machine

open Sys2Proof Sys2Proof.Machine

/-- Settles O42: no page answers such an access, so the check stops it in the home page of its master. -/
theorem unmappedPageAccess : Obligations.UnmappedPageAccess := by
  intro s m page off v hc hm _ ho
  have hp : kindOf page = none := by
    obtain ⟨-, -, h⟩ | ⟨n, -, h1, h2⟩ := hm
    · exact h
    · exact kindOf_window h1 h2
  have hr : unmappedReply m true = .data 0 := by
    obtain ⟨rfl, -⟩ | ⟨n, rfl, -⟩ := hm <;> rfl
  have hk : (reaches m page && (kindOf page).isSome) = false := by rw [hp, Option.isSome_none, Bool.and_false]
  have hread := exec_refusedRead_of_stop (checkAccess_unmapped (s := s.arrive m) (v := 0) hk ho true)
  rw [hr] at hread
  refine ⟨⟨_, hread, ⟨_, rfl⟩, ?_⟩, ⟨_, exec_registerWrite_of_stop (checkAccess_unmapped hk ho false), accessFail_frame hc (by decide)⟩⟩
  simp only [State.regBit, State.emit_reg]
  exact accessFail_frame hc (by decide)

/-- Settles O43: the always-on pages are the first disjuncts of `State.pageOn`, and power is the first row that an access meets. -/
theorem poweredOffPageAccess : Obligations.PoweredOffPageAccess := by
  refine ⟨fun s page h => ?_, fun s m page off width v h1 h2 h3 =>
    ⟨⟨_, exec_refusedRead_of_stop (checkAccess_off h1 h2 h3 true), rfl⟩,
      ⟨_, exec_registerWrite_of_stop (checkAccess_off h1 h2 h3 false), rfl⟩⟩⟩
  rw [State.pageOn, Bool.or_eq_true, Bool.or_eq_true, decide_eq_true_eq, beq_iff_eq]
  exact .inl h

/-- Settles O44: each row that stops a write reports it with `accessFail`, and a register without an owner takes none. -/
theorem refusedAccessFrame : Obligations.RefusedAccessFrame := by
  refine ⟨fun s m page off width v hc h1 h2 h3 hw => ?_, fun s m page off v d hc hr ht ho h => ?_,
    fun s m page v d hc hr ht ho hm hb => ?_, fun s m page off v d hr ht ho => ?_⟩
  · exact ⟨_, exec_registerWrite_of_stop (checkAccess_width h1 h2 h3 hw false), accessFail_frame hc (by decide)⟩
  · exact ⟨_, exec_registerWrite (write_of_not_permitted hr ht ho h), accessFail_frame hc (by decide)⟩
  · exact ⟨_, exec_registerWrite (write_of_badRoute hr ht ho hm hb), accessFail_frame hc (by decide)⟩
  · exact ⟨_, exec_registerWrite (write_of_unowned hr ht ho), rfl⟩
end

section
/-!
The always-on clock (R42): a tick's microseconds are the step of `p * 265 / 512` over 30, so a run of ticks telescopes, and a second ends where
it began because 32,768 is a multiple of 512.
-/

namespace Sys2Proof.Machine

/-- What the ticks before phase `p` add to 30 µs each. -/
def aonCarry (p : Nat) : Nat := p * 265 / 512

theorem aonMicros_add_carry (p : Nat) : aonMicros p + aonCarry p = 30 + aonCarry (p + 1) := by
  unfold aonMicros aonCarry; omega

theorem aonMicros_eq_or (p : Nat) : aonMicros p = 30 ∨ aonMicros p = 31 := by
  unfold aonMicros; omega

theorem aonCarry_seconds (p k : Nat) : aonCarry (p + 32768 * k) = aonCarry p + 16960 * k := by
  unfold aonCarry; omega

/-- The phase comes around without a change of the ticks' pattern. -/
theorem aonMicros_mod (p : Nat) : aonMicros (p % 32768) = aonMicros p := by
  have h := aonMicros_add_carry (p % 32768 + 32768 * (p / 32768))
  have h' := aonMicros_add_carry (p % 32768)
  rw [Nat.add_right_comm, aonCarry_seconds, aonCarry_seconds, Nat.mod_add_div] at h
  omega

theorem nextPhase_lt {p : Nat} (h : p < 32768) : nextPhase p < 32768 := by
  unfold nextPhase; split <;> omega

theorem nextPhase_iterate {p : Nat} (h : p < 32768) (n : Nat) : nextPhase^[n] p = (p + n) % 32768 := by
  induction n with
  | zero => exact (Nat.mod_eq_of_lt h).symm
  | succ n ih =>
    rw [Function.iterate_succ_apply', ih]
    unfold nextPhase
    split <;> omega

/-- A run of ticks from a phase: 30 µs each and the carries that lie between. -/
theorem sum_aonMicros {p : Nat} (h : p < 32768) (n : Nat) :
    ((List.range n).map fun k => aonMicros (nextPhase^[k] p)).sum + aonCarry p = 30 * n + aonCarry (p + n) := by
  induction n with
  | zero => simp
  | succ n ih =>
    have hn : aonMicros (nextPhase^[n] p) = aonMicros (p + n) := by rw [nextPhase_iterate h, aonMicros_mod]
    have hc := aonMicros_add_carry (p + n)
    rw [List.range_succ, List.map_append, List.sum_append, List.map_singleton, List.sum_singleton, hn, ← Nat.add_assoc p n 1]
    omega

/-- A tick of the clock that drives the device time. -/
theorem exec_deviceTimeTick_aon {s : State} (h : s.fastClocks = false) :
    exec (.deviceTimeTick true) s = .next { s.elapse (aonMicros s.pages.aonPhase) with
      pages := { (s.elapse (aonMicros s.pages.aonPhase)).pages with aonPhase := nextPhase s.pages.aonPhase } } := by
  change execDeviceTimeTick true s = _
  simp only [execDeviceTimeTick, h, Bool.true_eq_false, if_false, if_true]

theorem exec_deviceTimeTick_fast {s : State} (h : s.fastClocks = true) : exec (.deviceTimeTick false) s = .next (s.elapse 1) := by
  change execDeviceTimeTick false s = _
  simp only [execDeviceTimeTick, h, Bool.false_eq_true, if_false]

end Sys2Proof.Machine

open Sys2Proof Sys2Proof.Machine

/-- Settles O47: the ticks of a second telescope to 30 × 32,768 µs and the 16,960 µs that the carry rises in it. -/
theorem alwaysOnSecond : Obligations.AlwaysOnSecond := by
  refine ⟨aonMicros_eq_or, fun p hp => ?_, fun s hs hp => ⟨_, exec_deviceTimeTick_aon hs, rfl, rfl, nextPhase_lt hp, rfl⟩⟩
  have h := sum_aonMicros hp 32768
  rw [aonCarry_seconds p 1] at h
  omega
end

section
/-!
The commands of the register pages: a write that the common rules let through has its register's effect, and a read latches or takes up the
word after it.
-/

namespace Sys2Proof.Machine

variable {s : State} {m : Master} {page off slot : Nat} {v : Word} {d : RegDef} {k : Kind} {i : Nat}

/-! ## Writes -/

theorem exec_registerWrite_of_accepts (h : Accepts s m page off v (pageCond page m off v) d) :
    exec (.registerWrite m page off 32 v) s = .next (pageEffect page m off v d (s.arrive m)) :=
  exec_registerWrite (write_of_accepts h)

theorem exec_errcapRearm (h : Accepts s m page 0x08 (setBit v 0 true) noCond d) :
    exec (.errcapRearm m page v) s = .next (rearmCapture page (setBit v 0 true) (s.arrive m)) := by
  change execErrcapRearm m page v s = _
  rw [execErrcapRearm, write_of_accepts h]

/-- A write with ERRCAP_REARM set clears the capture (R39). -/
theorem rearmCapture_setBit :
    rearmCapture page (setBit v 0 true) s = (List.range 8).foldl (fun s k => s.setReg (page * 0x1000 + 0x40 + 4 * k) 0) s := by
  rw [rearmCapture, bit_setBit_self (by decide), if_pos rfl]

theorem exec_evSet (h : Accepts s m page 0x2C v noCond d) : exec (.evSet m page v) s = .next ((s.arrive m).raiseMask page v) := by
  change execEvSet m page v s = _
  rw [execEvSet, write_of_accepts h]

theorem exec_evClear {hw : Word} (h : Accepts s m page 0x30 v noCond d) :
    exec (.evClear m page v hw) s = .next ((clearRaw page v (s.arrive m)).raiseMask page hw) := by
  change execEvClear m page v hw s = _
  rw [execEvClear, write_of_accepts h]

theorem exec_evRouteWrite (h : Accepts s m page 0x34 v noCond d) :
    exec (.evRouteWrite m page v) s = .next (routeEffect page v d (s.arrive m)) := by
  change execEvRouteWrite m page v s = _
  rw [execEvRouteWrite, write_of_accepts h]

theorem exec_pgOwnerWrite (h : Accepts s m page 0x10 v (ownerCond m page v) d) :
    exec (.pgOwnerWrite m page v) s = .next ((s.arrive m).store (PG_OWNER page) v d) := by
  change execPgOwnerWrite m page v s = _
  rw [execPgOwnerWrite, write_of_accepts h]

/-! ## Reads -/

/-- A read that reaches its register is answered with what the register gives. -/
theorem answerPage_of_reaches {t : State} (h : Reaches (s.arrive m) m page off d) (hr : (s.arrive m).readReg m page off = (v, t)) :
    s.answerPage m page off = t.answerRead m page v := by
  simp only [State.answerPage, State.readPage, checkAccess_of_reaches h, hr]

/-- A low word latches the word after it for the master (R41). -/
theorem readReg_of_latchLow (hk : kindOf page = some (k, i)) (hl : latchLow k off = true) :
    s.readReg m page off = (s.view page off, s.latch page (off + 4) m (s.view page (off + 4))) := by
  simp only [State.readReg, hk, hl, if_true]

/-- A word that is latched for the master is read from its latch, once (R41). -/
theorem readReg_of_latched {l : Latch} (hk : kindOf page = some (k, i)) (hl : latchLow k off = false)
    (h : (s.pages.latches.find? fun l => l.page == page && l.off == off && l.master == m) = some l) :
    s.readReg m page off = (l.val, { s with pages := { s.pages with latches := s.pages.latches.erase l } }) := by
  simp only [State.readReg, hk, hl, Bool.false_eq_true, if_false, State.takeLatch, h]

/-- Every page implements its joined counters. -/
theorem joinedSlots_lt_cntNum : ∀ j ∈ joinedSlots k, j < cntNum k := by
  cases k <;> decide

/-- Of the counter slots it is the low words of the joined counters that latch (R41). -/
theorem latchLow_slotOff : latchLow k (slotOff slot) = (joinedSlots k).contains slot := by
  have h1 : slotOff slot ≠ 0x84 := by unfold slotOff; omega
  have h2 : slotOff slot ≠ 0x98 := by unfold slotOff; omega
  have hc : counterAt k (slotOff slot) = if slot < cntNum k then some slot else none := by
    have hs : (slotOff slot - 0xF08) / 4 = slot := by unfold slotOff; omega
    have ha : 0xF08 ≤ slotOff slot ∧ slotOff slot % 4 = 0 := by unfold slotOff; omega
    simp only [counterAt, hs, ha, true_and]
  simp only [latchLow, beq_eq_false_iff_ne.2 h1, beq_eq_false_iff_ne.2 h2, Bool.and_false, Bool.false_or, hc]
  by_cases hs : slot < cntNum k
  · simp only [if_pos hs]
  · simp only [if_neg hs]
    exact (Bool.eq_false_iff.2 fun h => hs (joinedSlots_lt_cntNum slot (List.contains_iff_mem.1 h))).symm

theorem exec_counterLowRead (m : Master) (page slot : Nat) (s : State) :
    exec (.counterLowRead m page slot) s = .next (s.answerPage m page (slotOff slot)) := rfl

theorem exec_topDtimeLoRead (m : Master) (s : State) : exec (.topDtimeLoRead m) s = .next (s.answerPage m 0 0x84) := rfl

/-- A read-only word that copies the block's state reads as that copy. -/
theorem view_of_blockView {w : Word} (hk : kindOf page = some (k, i)) (hd : regDef page off = some d) (hr : d.ro = BitVec.allOnes 32)
    (h1 : off ≠ 0xC) (h2 : off ≠ 0x28) (h3 : inSquall off = false) (hb : blockView s k i page off = some w) : s.view page off = w := by
  simp only [State.view, hk, hd, hr, h1, h2, h3, hb, if_false, Bool.false_and, Bool.false_eq_true, Option.getD_some, BitVec.allOnes_or,
    BitVec.and_allOnes]

/-- TOP_DTIME_LO and TOP_DTIME_HI read the device time (R42). -/
theorem view_topDtimeLo : s.view 0 0x84 = s.pages.dtime.setWidth 32 :=
  view_of_blockView (k := .top) rfl rfl rfl (by decide) (by decide) rfl rfl

theorem view_topDtimeHi : s.view 0 0x88 = (s.pages.dtime >>> 32).setWidth 32 :=
  view_of_blockView (k := .top) rfl rfl rfl (by decide) (by decide) rfl rfl

end Sys2Proof.Machine

open Sys2Proof Sys2Proof.Machine

/-- Settles O7: an accepted write is its effect on the state in which the request has arrived, and a read is the answer of its register. -/
theorem pageCommands : Obligations.PageCommands := by
  refine ⟨fun s m page off v d h => ⟨_, exec_registerWrite_of_accepts h, rfl⟩,
    fun s m page off width h1 h2 h3 hw => ⟨_, exec_refusedRead_of_stop (checkAccess_width h1 h2 h3 hw true), rfl⟩,
    fun s m page v d h => ⟨_, exec_errcapRearm h, rearmCapture_setBit⟩,
    fun s m page v d h => ⟨_, exec_evSet h, rfl⟩,
    fun s m page v hw d h => ⟨_, exec_evClear h, rfl⟩,
    fun s m page v d h => ⟨_, exec_evRouteWrite h, rfl⟩,
    fun s page v d h => ⟨_, exec_pgOwnerWrite h, rfl⟩,
    fun s m page slot v d h => ⟨_, exec_counterClear h, rfl⟩,
    fun s m page slot k i d h hk hj => ⟨_, exec_counterLowRead m page slot s, ?_⟩,
    fun s m d h => ⟨_, exec_topDtimeLoRead m s, ?_⟩,
    fun s h => ⟨_, exec_deviceTimeTick_fast h, rfl⟩,
    fun s h => ⟨_, exec_deviceTimeTick_aon h, rfl⟩,
    fun s m page slot k i d l h hk hj hl => ⟨_, exec_counterLowRead m page slot s, ?_⟩⟩
  · exact answerPage_of_reaches h (readReg_of_latchLow hk (latchLow_slotOff.trans hj))
  · rw [answerPage_of_reaches h (readReg_of_latchLow rfl rfl), view_topDtimeLo, view_topDtimeHi]
  · exact answerPage_of_reaches h (readReg_of_latched hk (latchLow_slotOff.trans hj) hl)
end

section
/-!
Reset: no register is listed but CEL_CTRL of cell 40, so every other one reads its reset value.
-/

namespace Sys2Proof.Machine

/-- In a table of one entry every other key reads its default. -/
theorem SMap.get_singleton_ne {α : Type} {d : Nat → α} {j k : Nat} {v : α} (h : k ≠ j) : SMap.get d [(j, v)] k = d k := by
  simp [SMap.get, h.symm]

/-- CEL_CTRL of cell 40 is the only listed register, at 0 for its reset value 1. -/
theorem reset_canonical : State.reset.Canonical := rfl

theorem reset_complete : State.reset.Complete := by
  simp [State.Complete, State.reset, HostSide.reset, Vfm.reset, Media.reset, Search.reset, Crypto.reset, Dram.reset]

end Sys2Proof.Machine

open Sys2Proof Sys2Proof.Machine

/-- Settles O4: the table of the registers holds the one entry of CEL_CTRL of cell 40. -/
theorem resetState : Obligations.ResetState :=
  ⟨⟨reset_canonical, reset_complete⟩, rfl, rfl, fun _ h => SMap.get_singleton_ne h, rfl⟩
end

section
/-!
Raw bits (R35, R36): what delivers events sets raw bits of pages and clears none, so a bit set in the cycle of an EV_CLEAR stays, and a raw bit
is still there when EV_ENABLE makes it pending.
-/

namespace Sys2Proof.Machine

variable {s t u : State} {page slot n k : Nat} {m v : Word} {d : RegDef}

/-! ## Operations that clear no raw bit -/

/-- An EV_RAW register of a page. -/
def RawReg (j : Nat) : Prop := j % 4096 = 0x20

/-- `t` follows from `s` with the canonical form and every raw bit kept. -/
structure KeepsRaw (s t : State) : Prop where
  run : s.Canonical → t.Canonical ∧ ∀ page k, s.regBit (EV_RAW page) k = true → t.regBit (EV_RAW page) k = true

theorem KeepsRaw.refl : KeepsRaw s s := ⟨fun hc => ⟨hc, fun _ _ h => h⟩⟩

theorem KeepsRaw.trans (h1 : KeepsRaw s t) (h2 : KeepsRaw t u) : KeepsRaw s u := ⟨fun hc =>
  have ⟨ht, hst⟩ := h1.run hc
  have ⟨hu, htu⟩ := h2.run ht
  ⟨hu, fun page k h => htu page k (hst page k h)⟩⟩

theorem rawReg_evRaw : RawReg (EV_RAW page) := by
  unfold RawReg EV_RAW; omega

/-- What leaves every EV_RAW as it is. -/
theorem KeepsRaw.of_leaves (h : Leaves RawReg s t) : KeepsRaw s t := ⟨fun hc =>
  have ⟨ht, hst⟩ := h.run hc
  ⟨ht, fun _ _ hb => by rw [State.regBit, hst _ rawReg_evRaw]; exact hb⟩⟩

/-- Of the registers the signal that follows an event can touch the oscillator's alone. -/
theorem Leaves.signal_of {keys : Nat → Prop} (h1 : ¬ keys CLK_STAT) (h2 : ¬ keys CLK_RUN0) (p n : Nat) :
    Leaves keys s (s.signal p n).1 := by
  unfold State.signal
  split
  · split
    · split
      · exact .refl
      · exact Leaves.refl.sendVectors _ _ _
    · exact .refl
  · exact ((Leaves.refl.setReg h1).setReg h2).of_regs rfl
  · exact Leaves.refl.alert _
  · exact .refl

theorem leaves_raw_signal (p n : Nat) : Leaves RawReg s (s.signal p n).1 :=
  .signal_of (by unfold RawReg; decide) (by unfold RawReg; decide) p n

/-- Setting raw bits is the store of EV_RAW and a signal, which leaves EV_RAW. -/
theorem leaves_raw_setRaw (p : Nat) (m : Word) :
    Leaves RawReg (s.setReg (EV_RAW p) (s.reg (EV_RAW p) ||| m)) (s.setRaw p m).1 := by
  unfold State.setRaw
  dsimp only
  split
  · exact .refl
  · split <;> (next e => exact (leaves_raw_signal _ _).fst_of_eq e)

theorem KeepsRaw.storeRaw (p : Nat) (m : Word) : KeepsRaw s (s.setReg (EV_RAW p) (s.reg (EV_RAW p) ||| m)) := ⟨fun hc => by
  refine ⟨SMap.wf_set hc, fun page k h => ?_⟩
  by_cases hp : EV_RAW page = EV_RAW p
  · rw [hp] at h ⊢
    rw [State.regBit] at h ⊢
    rw [State.reg_setReg_self hc, bit, BitVec.getLsbD_or, ← bit, h, Bool.true_or]
  · rw [State.regBit, State.reg_setReg_ne hc hp]
    exact h⟩

theorem KeepsRaw.setRaw (p : Nat) (m : Word) : KeepsRaw s (s.setRaw p m).1 :=
  (KeepsRaw.storeRaw p m).trans (.of_leaves (leaves_raw_setRaw p m))

/-- The raw bits of the mask are set. -/
theorem evRaw_setRaw (hc : s.Canonical) (hk : bit m k = true) : (s.setRaw page m).1.regBit (EV_RAW page) k = true := by
  obtain ⟨-, h⟩ := (leaves_raw_setRaw page m).run (SMap.wf_set hc)
  rw [State.regBit, h _ rawReg_evRaw, State.reg_setReg_self hc, bit, BitVec.getLsbD_or, ← bit, ← bit, hk, Bool.or_true]

theorem leaves_raw_countRaw (hs : slot ≤ 61) : Leaves RawReg s (s.countRaw page slot n).1 := by
  have h1 : ¬ RawReg (page * 4096 + 0xF08 + 4 * slot) := by unfold RawReg; omega
  have h2 : ¬ RawReg (page * 4096 + 0xF00 + 4 * (slot / 32)) := by unfold RawReg; omega
  unfold State.countRaw
  dsimp only
  split
  · exact (Leaves.refl.setReg h1).setReg h2
  · exact Leaves.refl.setReg h1

/-- Raising events clears no raw bit that was set when the mask's bits were. -/
theorem keepsRaw_setRaw_raiseMask : KeepsRaw (s.setRaw page m).1 (s.raiseMask page m) := by
  unfold State.raiseMask
  split
  · next e => rw [e]; exact .refl
  · next u n _ e =>
    have h : KeepsRaw u (u.countRaw 5 8 n).1 := .of_leaves (leaves_raw_countRaw (by decide))
    rw [e]
    split
    · next e' => rw [e'] at h; exact h
    · next e' => rw [e'] at h; exact h.trans (.setRaw _ _)

theorem KeepsRaw.raise (p k : Nat) : KeepsRaw s (s.raise p k) := (KeepsRaw.setRaw _ _).trans keepsRaw_setRaw_raiseMask

theorem KeepsRaw.count (p : Nat) (hs : slot ≤ 61) (n : Nat) : KeepsRaw s (s.count p slot n) := by
  have h : KeepsRaw s (s.countRaw p slot n).1 := .of_leaves (leaves_raw_countRaw hs)
  unfold State.count
  split
  · next e => rw [e] at h; exact h.trans (.raise _ _)
  · next e => rw [e] at h; exact h

theorem KeepsRaw.count64 (p : Nat) (hs : slot ≤ 60) (n : Nat) : KeepsRaw s (s.count64 p slot n) := by
  have h1 : ¬ RawReg (p * 4096 + 0xF08 + 4 * slot) := by unfold RawReg; omega
  have h2 : ¬ RawReg (p * 4096 + 0xF08 + 4 * slot + 4) := by unfold RawReg; omega
  have h3 : ¬ RawReg (p * 4096 + 0xF00) := by unfold RawReg; omega
  unfold State.count64
  dsimp only
  split
  · exact (KeepsRaw.of_leaves (((Leaves.refl.setReg h1).setReg h2).setReg h3)).trans (.raise _ _)
  · exact .of_leaves ((Leaves.refl.setReg h1).setReg h2)

theorem KeepsRaw.arrive (m : Master) : KeepsRaw s (s.arrive m) := by
  unfold State.arrive
  split
  · split
    · exact .count64 _ (by decide) _
    · exact .refl
  · split
    · exact .count64 _ (by decide) _
    · exact .refl
  · exact .refl

/-! ## EV_CLEAR -/

theorem canonical_clearRaw (hc : s.Canonical) : (clearRaw page v s).Canonical := by
  unfold clearRaw
  dsimp only
  split <;> exact SMap.wf_set hc

/-- The raw bits of a raised mask are set. -/
theorem evRaw_raiseMask (hc : s.Canonical) (hk : bit m k = true) : (s.raiseMask page m).regBit (EV_RAW page) k = true :=
  (keepsRaw_setRaw_raiseMask.run ((KeepsRaw.setRaw page m).run hc).1).2 page k (evRaw_setRaw hc hk)

/-! ## EV_ENABLE -/

theorem regDef_evEnable (h : (kindOf page).isSome = true) :
    regDef page 0x24 = some { off := 0x24, owner := .page, rw := BitVec.allOnes 32 } := by
  obtain ⟨⟨k, i⟩, hk⟩ := Option.isSome_iff_exists.1 h
  have hf : regsCommon.find? (·.at 0x24) = some { off := 0x24, owner := .page, rw := BitVec.allOnes 32 } := rfl
  simp only [regDef, hk, List.find?_append, hf, Option.some_or]
  rfl

theorem pageCond_evEnable {m : Master} (h : (kindOf page).isSome = true) : pageCond page m 0x24 v = noCond := by
  obtain ⟨⟨k, i⟩, hk⟩ := Option.isSome_iff_exists.1 h
  simp only [pageCond, hk]
  rfl

theorem pageEffect_evEnable {m : Master} (h : (kindOf page).isSome = true) :
    pageEffect page m 0x24 v d = enableEffect page v d := by
  obtain ⟨⟨k, i⟩, hk⟩ := Option.isSome_iff_exists.1 h
  simp only [pageEffect, hk]
  rfl

/-- What a write of EV_ENABLE does beside the store: nothing, the end of an alert, or a signal with its withheld messages counted. -/
theorem enableEffect_cases : enableEffect page v d s = s.store (EV_ENABLE page) v d ∨
    enableEffect page v d s = (s.store (EV_ENABLE page) v d).emit (.sidebandAlert false) ∨
    ∃ n, enableEffect page v d s = ((s.store (EV_ENABLE page) v d).signal page n).1 ∨
      enableEffect page v d s = ((s.store (EV_ENABLE page) v d).signal page n).1.count 0x005 8 n := by
  unfold enableEffect
  dsimp only
  split
  · split
    · exact .inr (.inl rfl)
    · exact .inl rfl
  · refine .inr (.inr ⟨bitCount ((s.store (EV_ENABLE page) v d).evPending page &&& ~~~s.evPending page), ?_⟩)
    split
    · next e => exact .inl (by rw [e])
    · next e => exact .inr (by rw [e])

theorem leaves_quiet_enableEffect : Leaves QuietReg (s.store (EV_ENABLE page) v d) (enableEffect page v d s) := by
  obtain h | h | ⟨n, h | h⟩ := enableEffect_cases (s := s) (page := page) (v := v) (d := d) <;> rw [h]
  · exact .refl
  · exact Leaves.refl.of_regs rfl
  · exact Leaves.refl.signal _ _
  · exact (Leaves.refl.signal _ _).count (by decide)

theorem keepsRaw_enableEffect : KeepsRaw (s.store (EV_ENABLE page) v d) (enableEffect page v d s) := by
  obtain h | h | ⟨n, h | h⟩ := enableEffect_cases (s := s) (page := page) (v := v) (d := d) <;> rw [h]
  · exact .refl
  · exact .of_leaves (Leaves.refl.of_regs rfl)
  · exact .of_leaves (leaves_raw_signal _ _)
  · exact (KeepsRaw.of_leaves (leaves_raw_signal _ _)).trans (.count _ (by decide) _)

theorem quietReg_evEnable : QuietReg (EV_ENABLE page) := by
  unfold QuietReg EV_ENABLE CLK_STAT CLK_RUN0 EVT_FIRST0 EVT_FIRST1 EVT_FIRST2
  refine ⟨by omega, by omega, by omega, fun h => ?_⟩
  simp only [List.mem_cons, List.not_mem_nil, or_false] at h
  omega

/-- A bit that a master writes as 1 into a register of RW bits alone reads 1. -/
theorem bit_store (hc : s.Canonical) (hd : d.rw = BitVec.allOnes 32) (hv : bit v k = true) : bit ((s.store n v d).reg n) k = true := by
  rw [bit] at hv
  simp only [State.store, State.reg_setReg_self hc, hd, BitVec.and_allOnes, bit, BitVec.getLsbD_or, hv, Bool.or_true, Bool.true_or]

/-- A source that is enabled while its raw bit is 1 is pending (R36). -/
theorem evPending_enableEffect (hc : s.Canonical) (hd : d.rw = BitVec.allOnes 32) (hr : s.regBit (EV_RAW page) k = true)
    (hv : bit v k = true) : bit ((enableEffect page v d s).evPending page) k = true := by
  have hs : (s.store (EV_ENABLE page) v d).Canonical := SMap.wf_set hc
  have hne : EV_RAW page ≠ EV_ENABLE page := by unfold EV_RAW EV_ENABLE; omega
  have hr' : (s.store (EV_ENABLE page) v d).regBit (EV_RAW page) k = true := by
    rw [State.regBit, State.store, State.reg_setReg_ne hc hne]
    exact hr
  have hraw := (keepsRaw_enableEffect.run hs).2 page k hr'
  have hen : bit ((enableEffect page v d s).reg (EV_ENABLE page)) k = true := by
    rw [(leaves_quiet_enableEffect.run hs).2 _ quietReg_evEnable]
    exact bit_store hc hd hv
  rw [State.regBit, bit] at hraw
  rw [bit] at hen
  rw [State.evPending, bit, BitVec.getLsbD_and, hraw, hen, Bool.and_self]

end Sys2Proof.Machine

open Sys2Proof Sys2Proof.Machine

/-- Settles O45: the raised mask comes after the clearing, and neither the request nor the store of EV_ENABLE clears a raw bit. -/
theorem clearedEventSetBySameCycle : Obligations.ClearedEventSetBySameCycle := by
  refine ⟨fun s m page v hw d k hc h _ hk => ⟨_, exec_evClear h, evRaw_raiseMask (canonical_clearRaw (canonical_arrive m hc)) hk⟩,
    fun s m page v d k hc h _ hr hv => ?_⟩
  obtain ⟨⟨⟨-, hp, -, -, hd⟩, -⟩, -⟩ := id h
  obtain rfl := Option.some.inj ((regDef_evEnable hp).symm.trans hd)
  obtain ⟨ha, hraw⟩ := (KeepsRaw.arrive m).run hc
  rw [← pageCond_evEnable (v := v) (m := m) hp] at h
  refine ⟨_, exec_registerWrite_of_accepts h, ?_⟩
  rw [pageEffect_evEnable hp]
  exact evPending_enableEffect ha rfl (hraw page k hr) hv
end

section
/-!
The commands of the NVMe controllers, each under the conditions in which it acts.
-/

namespace Sys2Proof.Machine

variable {s : State} {fn : Fun} {y off shn v vec : Nat} {w cc : Word}

/-! ## BAR0 and the doorbells (R24, R481) -/

/-- An aligned dword of BAR0 is read whole. -/
theorem exec_bar0Access_read (hb : s.bar0On fn = true) (h1 : off < 0x4000) (h2 : off % 4 = 0) :
    exec (.bar0Access fn off 4 none) s = .next ((s.count64 0x010 2 1).reply (fnMaster fn)
      (.data ((s.count64 0x010 2 1).bar0Word fn off &&& 0xFFFFFFFF))) := by
  change execBar0Access fn off 4 none s = _
  have hon : (!s.bar0On fn || decide (0x4000 ≤ off)) = false := by
    rw [hb, Bool.not_true, Bool.false_or, decide_eq_false_iff_not]
    omega
  have hlen : ¬((4 : Nat) = 8 ∧ wideOk fn off = true) := fun h => absurd h.1 (by decide)
  unfold execBar0Access
  simp only [hon, hlen, h2, Bool.false_eq_true, if_false]
  rfl

/-- A doorbell within the function's queues is written. -/
theorem bell_on (hb : s.bar0On fn = true) (hy : y ≤ (s.ctrl fn).pool.length) :
    (!s.bar0On fn || decide ((s.ctrl fn).pool.length < y) || decide (4 < 4)) = false := by
  rw [hb, decide_eq_false (not_lt.2 hy)]
  rfl

theorem sqBell_of_valid {q : SQueue} (hb : s.bar0On fn = true) (hy : y ≤ (s.ctrl fn).pool.length) (hq : (s.ctrl fn).sq? y = some q)
    (hw : w.toNat < q.size) : s.sqBell fn y 4 w = s.modSq fn y fun q =>
      { q with tail := w.toNat, bells := if w.toNat = q.tail then q.bells else
          q.bells ++ [((w.toNat + q.size - q.tail) % q.size, s.ns)] } := by
  simp only [State.sqBell, bell_on hb hy, hq, not_le.2 hw, Bool.false_eq_true, if_false, ne_eq, not_true_eq_false, or_self]

theorem cqBell_of_valid {q : CQueue} (hb : s.bar0On fn = true) (hy : y ≤ (s.ctrl fn).pool.length) (hq : (s.ctrl fn).cq? y = some q)
    (hw : w.toNat < q.size) : s.cqBell fn y 4 w = s.modCq fn y fun q => { q with head := w.toNat } := by
  simp only [State.cqBell, bell_on hb hy, hq, not_le.2 hw, Bool.false_eq_true, if_false, ne_eq, not_true_eq_false, or_self]

theorem exec_sqTailDoorbell : exec (.sqTailDoorbell fn y 4 w) s = .next ((s.arrive (fnMaster fn)).sqBell fn y 4 w) := rfl

theorem exec_cqHeadDoorbell : exec (.cqHeadDoorbell fn y 4 w) s = .next ((s.arrive (fnMaster fn)).cqBell fn y 4 w) := rfl

/-! ## Enabling, reset and shutdown (R78, R89) -/

theorem exec_controllerEnable (hb : s.bar0On fn = true) (hc : bit (s.ctrl fn).cc 0 = false) :
    exec (.controllerEnable fn cc) s = .next ((s.count64 0x010 2 1).enable fn (setBit cc 0 true &&& 0xFFFFF1)) := by
  change execControllerEnable fn cc s = _
  simp only [execControllerEnable, hb, hc, Bool.not_true, Bool.or_self, Bool.false_eq_true, if_false]

/-- The admin queues of a controller that R78 lets become ready. -/
def Ctrl.adminSq (c : Ctrl) : SQueue :=
  { qid := 0, size := bits c.aqa 11 0 + 1, cqid := 0, base := c.asq, head := 0, tail := 0, dclass := 3, fixed := true, ddl := 31250,
    doomed := [], bells := [], del := none }

def Ctrl.adminCq (c : Ctrl) : CQueue :=
  { qid := 0, size := bits c.aqa 27 16 + 1, base := c.acq, head := 0, tail := 0, phase := true, vec := 0, ien := true }

/-- A controller that R78 lets become ready has its admin queues and fetches. -/
theorem enable_of_ready (hr : (s.ctrl fn).resetting = false) (hb : (s.ctrl fn).badConfig cc = false)
    (ho : fn = 0 ∨ (s.vfm.vfs.getD fn.val .reset).online = true) :
    s.enable fn cc = (s.modCtrl fn fun c => { c with cc := cc }).modCtrl fn fun c =>
      { c with csts := setBit c.csts 0 true, sqs := [(s.ctrl fn).adminSq], cqs := [(s.ctrl fn).adminCq], fetching := true } := by
  have hon : (fn == 0 || (s.vfm.vfs.getD fn.val .reset).online) = true := by
    rw [Bool.or_eq_true, beq_iff_eq]
    exact ho
  unfold State.enable
  simp only [State.modCtrl_vfm, hr, hb, hon, Bool.false_eq_true, if_false, Bool.not_true, Bool.or_self]
  rfl

/-- What an enabled controller holds. -/
theorem ctrl_enable (hl : s.host.ctrls.length = 16) (hr : (s.ctrl fn).resetting = false) (hb : (s.ctrl fn).badConfig cc = false)
    (ho : fn = 0 ∨ (s.vfm.vfs.getD fn.val .reset).online = true) :
    (s.enable fn cc).ctrl fn = { s.ctrl fn with
      cc := cc, csts := setBit (s.ctrl fn).csts 0 true, sqs := [(s.ctrl fn).adminSq], cqs := [(s.ctrl fn).adminCq], fetching := true } := by
  have hl' : (s.modCtrl fn fun c => { c with cc := cc }).host.ctrls.length = 16 := length_at'.trans hl
  rw [enable_of_ready hr hb ho, State.ctrl_modCtrl_self hl', State.ctrl_modCtrl_self hl]

theorem exec_controllerReset (hb : s.bar0On fn = true) (hc : bit (s.ctrl fn).cc 0 = true) :
    exec (.controllerReset fn) s = .next ((s.count64 0x010 2 1).beginReset fn (s.ctrl fn).cc) := by
  change execControllerReset fn s = _
  simp only [execControllerReset, hb, hc, Bool.not_true, Bool.or_self, Bool.false_eq_true, if_false]

theorem exec_controllerResetComplete (h1 : (s.ctrl fn).resetting = true) (h2 : (s.vfm.vfs.getD fn.val .reset).flr = false)
    (h3 : (s.host.cmds.any fun c => c.ref.fn == fn && c.awaits) = false) :
    exec (.controllerResetComplete fn) s = .next (s.endReset fn) := by
  change execControllerResetComplete fn s = _
  rw [execControllerResetComplete, if_pos ⟨h1, h2, h3⟩]

theorem exec_shutdownNotification (hb : s.bar0On fn = true) (hn : shn = 1 ∨ shn = 2) (hc : bits (s.ctrl fn).csts 3 2 = 0) :
    exec (.shutdownNotification fn shn) s = .next ((s.count64 0x010 2 1).shutdown fn shn) := by
  change execShutdownNotification fn shn s = _
  have hs : (shn == 1 || shn == 2) = true := by
    rw [Bool.or_eq_true, beq_iff_eq, beq_iff_eq]
    exact hn
  simp only [execShutdownNotification, hb, hs, hc, Bool.not_true, bne_self_eq_false, Bool.or_self, Bool.false_eq_true, if_false]

/-- A VF's shutdown completes when none of its writes is staged (R89). -/
theorem exec_shutdownComplete_vf (hf : fn ≠ 0) (hc : bits (s.ctrl fn).csts 3 2 = 1)
    (hs : (s.ftl.staging.any fun x => x.fn == fn) = false) :
    exec (.shutdownComplete fn) s = .next (s.modCtrl fn fun c => { c with csts := setBits c.csts 3 2 2 }) := by
  change execShutdownComplete fn s = _
  simp only [execShutdownComplete, hf, hc, hs, ne_eq, not_true_eq_false, not_false_eq_true, Bool.false_eq_true, if_false, if_true]

/-! ## MSI-X (R81, R447, R448) -/

theorem exec_msixEnable (h1 : (s.ctrl fn).msixEn = false) (h2 : s.pageOn 0x010 = true) (h3 : s.host.link.up = true)
    (h4 : s.fnExists fn.val = true) :
    exec (.msixEnable fn) s = .next ((s.modCtrl fn fun c => { c with msixEn := true }).sweepVectors fn) := by
  change execMsixEnable fn s = _
  simp only [execMsixEnable, h1, h2, h3, h4, Bool.and_self, Bool.not_true, Bool.or_self, Bool.false_eq_true, if_false]

theorem exec_msixMaskClear_vector (hb : s.bar0On fn = true) (hv : v < if fn = 0 then 64 else 16) :
    exec (.msixMaskClear fn (some v)) s =
      .next ((s.setTab fn (4 * v + 3) (setBit ((s.ctrl fn).vecCtl v) 0 false)).unmaskVector fn v) := by
  change execMsixMaskClear fn (some v) s = _
  simp only [execMsixMaskClear, hb, not_le.2 hv, Bool.not_true, Bool.false_eq_true, if_false]

theorem exec_interruptCoalescingTimer {x : Coal} (hx : ((s.ctrl fn).coal.find? fun x => x.vec == vec) = some x)
    (ht : 100 * (s.ctrl fn).feat.coalTime ≤ (s.pages.dtime - x.since).toNat) :
    exec (.interruptCoalescingTimer fn vec) s =
      .next ((s.modCtrl fn fun c => { c with coal := c.coal.filter fun y => y.vec != vec }).sendVector fn vec) := by
  change execInterruptCoalescingTimer fn vec s = _
  simp only [execInterruptCoalescingTimer, hx, not_lt.2 ht, if_false]

end Sys2Proof.Machine

open Sys2Proof Sys2Proof.Machine

/-- Settles O10: under its conditions each command passes its guards, and an enabled controller is read back from the two updates. -/
theorem controllerCommands : Obligations.ControllerCommands := by
  refine ⟨fun s fn off hb h1 h2 => ⟨_, exec_bar0Access_read hb h1 h2, rfl⟩, ?_, ?_, ?_,
    fun s fn hb hc => ⟨_, exec_controllerReset hb hc, rfl⟩,
    fun s fn h1 h2 h3 => ⟨_, exec_controllerResetComplete h1 h2 h3, rfl⟩,
    fun s fn shn hb hn hc => ⟨_, exec_shutdownNotification hb hn hc, rfl⟩,
    fun s fn hf hc hs => ⟨_, exec_shutdownComplete_vf hf hc hs, rfl⟩,
    fun s fn h1 h2 h3 h4 => ⟨_, exec_msixEnable h1 h2 h3 h4, rfl⟩,
    fun s fn v hb hv => ⟨_, exec_msixMaskClear_vector hb hv, rfl⟩,
    fun s fn vec x hx ht => ⟨_, exec_interruptCoalescingTimer hx ht, rfl⟩⟩
  · rintro s _ fn y v q rfl hb hy hq hv
    exact ⟨_, exec_sqTailDoorbell, sqBell_of_valid hb hy hq hv⟩
  · rintro s _ fn y v q rfl hb hy hq hv
    exact ⟨_, exec_cqHeadDoorbell, cqBell_of_valid hb hy hq hv⟩
  · rintro s _ fn cc rfl hb hc hl hr hg ho
    have h := ctrl_enable hl hr hg ho
    refine ⟨_, exec_controllerEnable hb hc, by rw [h], ?_, by rw [h], by rw [h]; rfl, by rw [h]; rfl, ?_⟩
    · rw [h]
      exact bit_setBit_self (by decide)
    · rw [enable_of_ready hr hg ho]
      rfl
end

section
/-!
Forecast's pages (R48 to R75): what a refill, a slice, a constant, a snapshot and the refresh of the debt make of the state, and what a
write of any page can make of the ledger.
-/

namespace Sys2Proof.Machine

variable {s t : State} {m : Master} {page off : Nat} {v : Word} {d : RegDef}

/-! ## Writes that are let through -/

theorem exec_admSliceWrite (h : Accepts s m 0x020 0x90 v (sliceCond m v) d) :
    exec (.admSliceWrite m v) s = .next (sliceWrite v (s.arrive m)) := by
  change execAdmSliceWrite m v s = _
  rw [execAdmSliceWrite, write_of_accepts h]

theorem exec_lock (h : Accepts s m 0x020 0x80 (setBit v 0 true) noCond d) :
    exec (.lock m v) s = .next (admCtrlEffect (setBit v 0 true) d (s.arrive m)) := by
  change execLock m v s = _
  rw [execLock, write_of_accepts h]

theorem exec_admCvalWrite (h : Accepts s m 0x020 0xA4 v (cvalCond m v) d) :
    exec (.admCvalWrite m v) s = .next (cvalWrite v (s.arrive m)) := by
  change execAdmCvalWrite m v s = _
  rw [execAdmCvalWrite, write_of_accepts h]

theorem exec_adlSnap (h : Accepts s m 0x021 0x80 (setBit v 0 true) noCond d) :
    exec (.adlSnap m v) s = .next ((s.arrive m).ledger.foldl (fun t x => t.setReg x.1 x.2) (s.arrive m)) := by
  change execAdlSnap m v s = _
  rw [execAdlSnap, write_of_accepts h, snapEffect, if_pos (bit_setBit_self (by decide))]

/-! ## Buckets and slices (R48, R49) -/

theorem exec_tokenRefill : exec .tokenRefill s = .next s.fillBuckets := rfl

/-- A filled bucket. -/
theorem State.bucket_fillBuckets {f : Nat} (hf : f < 17) : s.fillBuckets.bucket f = s.bucketNow f := by
  simp [State.bucket, State.fillBuckets, List.getD_eq_getElem?_getD, hf]

/-- A slice is zero when both of its fields are. -/
theorem Slice.eq_zero_iff {x : Slice} : x = ⟨0, 0⟩ ↔ x.mbps = 0 ∧ x.cmds = 0 := by
  cases x
  exact Slice.mk.injEq .. ▸ Iff.rfl

/-- The slice of a function is stored, the buckets have filled at the old rates, and the function's own is cut to the new depth, or full when
it had no slice (R49). -/
theorem sliceWrite_of_function (hf : s.field? ADM_SLSEL 4 0 < 16) :
    sliceWrite v s = { s with adm := { s.adm with
      slices := s.adm.slices.set (s.field? ADM_SLSEL 4 0) ⟨bits v 7 0, bits v 23 16⟩
      refilled := s.pages.dtime
      buckets := at' ((List.range 17).map s.bucketNow) (s.field? ADM_SLSEL 4 0) fun b =>
        if s.evSlice (s.field? ADM_SLSEL 4 0) = ⟨0, 0⟩ then (⟨bits v 7 0, bits v 23 16⟩ : Slice).depth
        else ⟨min b.bytes (⟨bits v 7 0, bits v 23 16⟩ : Slice).depth.bytes,
          min b.cmds (⟨bits v 7 0, bits v 23 16⟩ : Slice).depth.cmds⟩ } } := by
  simp only [sliceWrite, if_neg (not_lt.2 (Nat.le_of_lt_succ hf)), Slice.eq_zero_iff]
  rfl

/-- A selector above 15 names no function. -/
theorem sliceWrite_of_other (hf : 16 ≤ s.field? ADM_SLSEL 4 0) : sliceWrite v s = s := if_pos hf

/-- The slice of a function reads as it was stored. -/
theorem State.evSlice_set {f : Nat} {x : Slice} (h : t.adm.slices = s.adm.slices.set f x) (hf : f < 16) (hl : s.adm.slices.length = 16) :
    t.evSlice f = x := by
  simp [State.evSlice, h, List.getD_eq_getElem?_getD, hl, hf, Nat.ne_of_lt hf]

/-! ## The sums of the slices (R48) -/

/-- A sum over a list, by places. -/
theorem sum_map_eq_sum_getD {α : Type} (g : α → Nat) (d : α) (l : List α) :
    (l.map g).sum = ∑ k ∈ Finset.range l.length, g (l.getD k d) := by
  induction l with
  | nil => rfl
  | cons a l ih =>
    rw [List.length_cons, Finset.sum_range_succ', List.map_cons, List.sum_cons, ih, Nat.add_comm]
    rfl

/-- A running sum that leaves one place out. -/
theorem foldl_range_skip (f : Nat) (g : Nat → Nat) (n : Nat) :
    (List.range n).foldl (fun a k => if k = f then a else a + g k) 0 = ∑ k ∈ Finset.range n, if k = f then 0 else g k := by
  induction n with
  | zero => rfl
  | succ n ih =>
    rw [List.range_succ, List.foldl_append, ih, Finset.sum_range_succ, List.foldl_cons, List.foldl_nil]
    split <;> rfl

/-- With one place replaced, a sum is that of the other places and the new value. -/
theorem sum_map_set {α : Type} (g : α → Nat) (d : α) {l : List α} {f : Nat} {x : α} (hf : f < l.length) :
    ((l.set f x).map g).sum = (List.range l.length).foldl (fun a k => if k = f then a else a + g (l.getD k d)) 0 + g x := by
  have hx : g x = ∑ k ∈ Finset.range l.length, if k = f then g x else 0 := by
    rw [Finset.sum_ite_eq', if_pos (Finset.mem_range.2 hf)]
  rw [foldl_range_skip f fun k => g (l.getD k d)]
  conv_rhs => rw [hx]
  rw [← Finset.sum_add_distrib, sum_map_eq_sum_getD g d, List.length_set]
  refine Finset.sum_congr rfl fun k hk => ?_
  obtain rfl | hne := eq_or_ne k f
  · simp [List.getD_eq_getElem?_getD, hf]
  · simp [List.getD_eq_getElem?_getD, hne, hne.symm]

/-- What ADM_SLICE lets through keeps the sums within R48's limits. -/
theorem sum_slices_of_sliceCond (hc : sliceCond m v s = none) (hf : s.field? ADM_SLSEL 4 0 < 16) (hl : s.adm.slices.length = 16) :
    ((s.adm.slices.set (s.field? ADM_SLSEL 4 0) ⟨bits v 7 0, bits v 23 16⟩).map Slice.mbps).sum ≤ 95 ∧
      ((s.adm.slices.set (s.field? ADM_SLSEL 4 0) ⟨bits v 7 0, bits v 23 16⟩).map Slice.cmds).sum ≤ 115 := by
  have hothers (g : Slice → Nat) : (List.range 16).foldl (fun a k => if k = s.field? ADM_SLSEL 4 0 then a else a + g (s.evSlice k)) 0 =
      (List.range 16).foldl (fun a k => if k = s.field? ADM_SLSEL 4 0 then a else a + g (s.adm.slices.getD k ⟨0, 0⟩)) 0 := by
    refine List.foldl_ext _ _ _ fun a k hk => ?_
    rw [State.evSlice, if_neg (Nat.ne_of_lt (List.mem_range.1 hk))]
  unfold sliceCond at hc
  dsimp only at hc
  split at hc
  · exact nomatch hc
  · next hlim =>
    rw [sum_map_set Slice.mbps ⟨0, 0⟩ (hl ▸ hf), sum_map_set Slice.cmds ⟨0, 0⟩ (hl ▸ hf), hl, ← hothers, ← hothers]
    dsimp only
    omega

/-! ## The ledger under a write (R33) -/

theorem checkAccess_stop_adm {width : Nat} {r : Bool} {b : BusReply} (h : s.checkAccess m page off width r v = .stop t b) :
    t.adm = s.adm := by
  unfold State.checkAccess at h
  dsimp only at h
  split at h
  · cases h; rfl
  · split at h
    · cases h; exact State.accessFail_adm ..
    · split at h
      · cases h; exact State.accessFail_adm ..
      · exact nomatch h

/-- A write leaves Forecast's records as they are, unless its block's conditions let it through to its register's effect. -/
theorem write_adm {width : Nat} {cond : State → Option State} {eff : RegDef → State → State}
    (hc : ∀ t, cond (s.arrive m) = some t → t.adm = s.adm) :
    (s.write m page off width v cond eff).1.adm = s.adm ∨
      cond (s.arrive m) = none ∧ ∃ d, (s.write m page off width v cond eff).1.adm = (eff d (s.arrive m)).adm := by
  have hfail (p k code : Nat) : ((s.arrive m).accessFail p k code m off v).adm = s.adm := by
    rw [State.accessFail_adm, State.arrive_adm]
  unfold State.write
  dsimp only
  split
  · next h => exact .inl ((checkAccess_stop_adm h).trans (State.arrive_adm ..))
  · next d _ =>
    split
    · exact .inl (by rw [hfail])
    split
    · exact .inl (State.arrive_adm ..)
    split
    · exact .inl (by rw [hfail])
    split
    · exact .inl (by rw [hfail])
    split
    · exact .inl (by rw [hfail])
    split
    · next t h => exact .inl (hc t h)
    · next h =>
      refine .inr ⟨h, d, ?_⟩
      split
      · rw [State.accessFail_adm]
      · rfl

/-- A refused slice is reported and not stored. -/
theorem sliceCond_adm (h : sliceCond m v s = some t) : t.adm = s.adm := by
  unfold sliceCond at h
  dsimp only at h
  split at h
  · cases h; simp
  · exact nomatch h

/-! ## Constants (R64) -/

/-- The constant that ADM_CSEL selects is stored. -/
theorem cvalWrite_of_constant (hk : s.field? ADM_CSEL 5 0 < 45) :
    cvalWrite v s = { s with adm := { s.adm with
      consts := s.adm.consts.set (fun k => BitVec.ofNat 32 (constTable.getD k 0)) (s.field? ADM_CSEL 5 0) v } } :=
  if_neg (not_le.2 hk)

theorem cvalWrite_of_other (hk : 45 ≤ s.field? ADM_CSEL 5 0) : cvalWrite v s = s := if_pos hk

/-! ## The refresh of the debt (R60, R225, R226) -/

@[simp] theorem State.setBufState_adm (b : Nat) : (s.setBufState b).adm = s.adm := by
  unfold State.setBufState; dsimp only; split <;> simp
@[simp] theorem State.setBufState_ftl (b : Nat) : (s.setBufState b).ftl = s.ftl := by
  unfold State.setBufState; dsimp only; split <;> simp
@[simp] theorem State.setBufState_care (b : Nat) : (s.setBufState b).care = s.care := by
  unfold State.setBufState; dsimp only; split <;> simp
@[simp] theorem State.setBufState_fresh (b : Nat) : (s.setBufState b).fresh = s.fresh := by
  unfold State.setBufState; dsimp only; split <;> simp

/-- The size of the general buffer after a refresh: it grows with the room there is, and shrinks to its target (R225). -/
def State.bufNext (s : State) : Nat :=
  if s.care.bufCur < s.bufTarget then min s.bufTarget (s.care.bufCur + (s.freeRaw - (s.care.bufCur - s.bufUsed) - s.raw / 10))
  else max s.bufFloor (max s.bufTarget s.bufUsed)

/-- What of the buffer is free after a refresh (R226). -/
def State.bufLeft (s : State) : Nat := s.bufNext - s.bufUsed - s.reserves

/-- The state with the buffer's figures refreshed. -/
def State.refreshBuf (s : State) : State :=
  (((((({ s with care := { s.care with bufUsed := s.bufUsed } } : State).setBuf s.bufNext).setReg MC_BUFTGT
    (BitVec.ofNat 32 (s.bufTarget / 2 ^ 20))).setReg MC_BUFFREE (BitVec.ofNat 32 (s.bufLeft / 2 ^ 20))).setField MC_STAT 29 16
      (if s.userBlocks = 0 then 0 else min 10000 (s.mappedBlocks * 10000 / s.userBlocks))).setBufState
    (if s.bufNext = s.bufFloor ∧ s.bufLeft = 0 then 2 else if (s.bufLeft : Rat) < s.frac 43 * s.bufNext then 1 else 0))

/-- The state with a free value as the debt, within its bound (log 34). -/
def State.drawDebt (s : State) : State :=
  ({ s with fresh := s.fresh + 1 } : State).setReg ADM_GCDEBT
    (BitVec.ofNat 32 ((Config.freeValue s.fresh).toNat % ((s.constWord 42).toNat + 1) % 65536))

theorem exec_gcdebtRefresh : exec .gcdebtRefresh s =
    .next (s.refreshBuf.drawDebt.setReg ADM_DRAIN (BitVec.ofNat 32 s.refreshBuf.drawDebt.drainRate)) := rfl

/-- Beside registers, a refresh changes the buffer's figures and uses one free value. -/
theorem refreshBuf_frame : s.refreshBuf.care = { s.care with bufUsed := s.bufUsed, bufCur := s.bufNext } ∧ s.refreshBuf.fresh = s.fresh ∧
    s.refreshBuf.adm = s.adm ∧ s.refreshBuf.ftl = s.ftl := by
  simp [State.refreshBuf, State.setBuf]

/-! ## Housekeeping and self-test (R68 to R70) -/

theorem exec_housekeepingRetry_none (h : (s.adm.house.find? fun h => decide (h.after ≤ s.ns)) = none) :
    exec .housekeepingRetry s = .next s := by
  change execHousekeepingRetry s = _
  rw [execHousekeepingRetry, h]

/-- The housekeeping step that an entry stands for. -/
def State.runHouse (s : State) (h : House) : State :=
  match h.kind with
  | 0 => s.collect h.die h.block
  | 1 => s.foldBlock h.die h.block
  | 2 => s.demoteUnit h.block
  | 3 => s.refreshBlock h.die h.block h.cls
  | 4 => s.moveRetired h.die h.block
  | _ => s.ckptStep h.cls

/-- The first step whose time has come is presented again, and is no longer kept unless it is class 1 committed work. -/
theorem exec_housekeepingRetry_some {h : House} (hf : (s.adm.house.find? fun h => decide (h.after ≤ s.ns)) = some h) :
    exec .housekeepingRetry s = .next ((if h.cls = 1 then s else s.unhouse h.kind h.die h.block).runHouse h) := by
  change execHousekeepingRetry s = _
  rw [execHousekeepingRetry, hf]
  rfl

theorem runHouse_eq {h : House} : (h.kind = 0 → s.runHouse h = s.collect h.die h.block) ∧
    (h.kind = 1 → s.runHouse h = s.foldBlock h.die h.block) ∧ (h.kind = 2 → s.runHouse h = s.demoteUnit h.block) ∧
    (h.kind = 3 → s.runHouse h = s.refreshBlock h.die h.block h.cls) ∧ (h.kind = 4 → s.runHouse h = s.moveRetired h.die h.block) ∧
    (5 ≤ h.kind → s.runHouse h = s.ckptStep h.cls) := by
  obtain ⟨kind, die, block, cls, after⟩ := h
  refine ⟨?_, ?_, ?_, ?_, ?_, fun h => ?_⟩
  iterate 5 (rintro rfl; rfl)
  obtain ⟨n, rfl⟩ := Nat.exists_eq_add_of_le' h
  rfl

/-- What the ledger holds while a function's self-test segment is considered: all but the segment before it (R70). -/
def State.segmentLedger (s : State) (fn : Fun) : State := s.uncharge (.work (2 ^ 50 + fn.val))

/-- The demand of a segment: the page sets that it reads. -/
def State.segmentDemand (s : State) (units : List (Die × Nat)) : Demand :=
  { Demand.none with units := units.map fun u => (u.1.val, s.unitMode u.1.val u.2, 65536) }

/-- A segment of a test in progress whose time has come, of at most 2 s of work. -/
theorem exec_selfTestSegment {fn : Fun} {units : List (Die × Nat)} {last pass : Bool} (ht : (s.logsOf fn).test.isSome = true)
    (hr : (s.logsOf fn).retry ≤ s.ns)
    (hw : (s.segmentDemand units).units.foldl (fun a x => a + s.tr x.2.1 + s.xfer x.2.2 31) 0 ≤ (2000000000 : Rat)) :
    exec (.selfTestSegment fn units last pass) s = .next
      (if (2000000000 : Rat) < (s.segmentLedger fn).worst 3 (s.segmentDemand units)
          ((s.segmentLedger fn).tailVerify 3 (s.segmentDemand units).units) 0 then
        s.modLogs fn fun l => { l with retry := s.ns + 10000000 }
      else if pass = false then (s.segmentLedger fn).endTest fn 7
      else if last = true then (s.segmentLedger fn).endTest fn 0
      else (s.segmentLedger fn).testBanks.chargeDemand (.work (2 ^ 50 + fn.val)) 3 (s.segmentDemand units)) := by
  change execSelfTestSegment fn units last pass s = _
  have hgo : ((s.logsOf fn).test.isNone || decide (s.ns < (s.logsOf fn).retry) || decide ((2000000000 : Rat) <
      (s.segmentDemand units).units.foldl (fun a x => a + s.tr x.2.1 + s.xfer x.2.2 31) 0)) = false := by
    rw [decide_eq_false (not_lt.2 hr), decide_eq_false (not_lt.2 hw), Option.isNone_eq_false_iff.2 ht]
    rfl
  refine (if_neg (Bool.eq_false_iff.1 hgo)).trans ?_
  simp only [apply_ite (Host.Outcome.next : State → Answer), Bool.not_eq_true']
  rfl

/-! ## Admission of Evidential commands (R67) -/

/-- An Evidential command meets the rows of its budget and its die spacing, and no other (R54). -/
theorem admission_of_evidential {k : Cmd} {r : Resolved} {x : Demand} {tail : Class → Rat} {prog len t0 : Nat}
    {check : State → Option Status} {ok : State → State} (hr : r.cls = 0) :
    s.admission k (some r) x tail prog len t0 check ok =
      if (s.evSlice k.ref.fn.val).mbps = 0 ∧ (s.evSlice k.ref.fn.val).cmds = 0 then s.reject k.ref (stBudget 4) 4 0 (boundOf k.kind)
      else if (s.bucketNow k.ref.fn.val).cmds < 10000 then s.reject k.ref (stBudget 2) 2 0 (boundOf k.kind)
      else if (s.bucketNow k.ref.fn.val).bytes < len then s.reject k.ref (stBudget 1) 1 0 (boundOf k.kind)
      else if !(k.dies.all s.spaced) then s.reject k.ref (stBudget 3) 3 0 (boundOf k.kind)
      else ok (s.admitted (s.asAdmitted k r t0) x prog len) :=
  if_pos hr

/-! ## PROMISE (R71) -/

/-- The word that a change of a cause bit leaves in ADM_STAT: the bit, and PROMISE as the causes then are. -/
def promiseWord (w : Word) (k : Nat) (b : Bool) : Word := setBit (setBit w k b) 0 (decide (bits (setBit w k b) 5 1 = 0))

/-- Beside that word, a change of a cause at most raises an event. -/
theorem leaves_cause (k : Nat) (b : Bool) :
    Leaves QuietReg (s.setReg ADM_STAT (promiseWord (s.reg ADM_STAT) k b)) (s.cause k b) := by
  unfold State.cause
  dsimp only
  split
  · exact .refl
  · split
    · exact Leaves.refl.raise _ _
    · exact Leaves.refl.raise _ _

theorem quietReg_admStat : QuietReg ADM_STAT := by
  unfold QuietReg
  decide

theorem bits_promiseWord (w : Word) (k : Nat) (b : Bool) : bits (promiseWord w k b) 5 1 = bits (setBit w k b) 5 1 :=
  bits_setBits_above (by decide) (by decide)

theorem reg_cause (k : Nat) (b : Bool) (hc : s.Canonical) : (s.cause k b).reg ADM_STAT = promiseWord (s.reg ADM_STAT) k b := by
  rw [((leaves_cause k b).run (SMap.wf_set hc)).2 _ quietReg_admStat, State.reg_setReg_self hc]

theorem reg_cause_ne {r : Nat} (k : Nat) (b : Bool) (hc : s.Canonical) (hq : QuietReg r) (hr : r ≠ ADM_STAT) :
    (s.cause k b).reg r = s.reg r := by
  rw [((leaves_cause k b).run (SMap.wf_set hc)).2 _ hq, State.reg_setReg_ne hc hr]

end Sys2Proof.Machine

open Sys2Proof Sys2Proof.Machine

/-- Settles O8: each command passes its guards, and its effect is read off the fields that it stores. -/
theorem forecastCommands : Obligations.ForecastCommands := by
  refine ⟨fun s => ⟨_, exec_tokenRefill, rfl, rfl, rfl, rfl, fun f hf => State.bucket_fillBuckets hf⟩,
    fun s m v d h hf hl => ⟨_, exec_admSliceWrite h, ?_⟩,
    fun s m v d h hf => ⟨_, exec_admSliceWrite h, sliceWrite_of_other hf⟩,
    fun s m v d h => ⟨_, exec_lock h, rfl⟩,
    fun s m v d h hk hw => ⟨_, exec_admCvalWrite h, ?_⟩,
    fun s m v d h => ⟨_, exec_adlSnap h, rfl⟩,
    fun s m v d h hk => ⟨_, exec_admCvalWrite h, cvalWrite_of_other hk⟩,
    fun s => ⟨_, exec_gcdebtRefresh, ?_⟩, ?_,
    fun s h => ⟨_, exec_housekeepingRetry_none h, rfl⟩, ?_⟩
  · rw [sliceWrite_of_function hf]
    exact ⟨State.evSlice_set rfl hf (by rwa [State.arrive_adm]), rfl, rfl⟩
  · rw [cvalWrite_of_constant hk]
    exact ⟨SMap.get_set_self (by rwa [State.arrive_adm]), rfl⟩
  · obtain ⟨hcare, hfresh, hadm, hftl⟩ := refreshBuf_frame (s := s)
    exact ⟨congrArg Care.bufUsed hcare, congrArg (· + 1) hfresh, hadm, hftl, congrArg Care.bufCur hcare⟩
  · rintro s h _ hf rfl
    exact ⟨_, exec_housekeepingRetry_some hf, runHouse_eq⟩
  · rintro s fn units last pass _ _ ht hr rfl rfl hw
    exact ⟨_, exec_selfTestSegment ht hr hw, rfl⟩

/-- Settles O48: the causes are above PROMISE in the word that the change leaves, and the event that it raises touches no quiet register. -/
theorem promiseFollowsItsCauses : Obligations.PromiseFollowsItsCauses := by
  intro s k b hc h1 h5
  have hb (j : Nat) (hj : j < 32) (h0 : j ≠ 0) : bit (promiseWord (s.reg ADM_STAT) k b) j = bit (setBit (s.reg ADM_STAT) k b) j :=
    bit_setBit_ne (by decide) hj h0
  simp only [State.regBit, reg_cause k b hc]
  refine ⟨?_, ?_, fun j hj h0 hk => ?_, fun r hq hr => reg_cause_ne k b hc hq hr⟩
  · rw [promiseWord, bit_setBit_self (by decide), decide_eq_true_eq, ← promiseWord, bits_promiseWord]
  · rw [hb k (by omega) (by omega), bit_setBit_self (by omega)]
  · rw [hb j hj h0, bit_setBit_ne (by omega) hj hk]

/-- Settles O59: the rows of an Evidential command refuse it with its own four reasons, whose status is 82h. -/
theorem evidentialNeverRefused80h : Obligations.EvidentialNeverRefused80h := by
  intro s k r d tail prog len t0 check ok hr
  rw [admission_of_evidential hr]
  split
  · exact .inr ⟨4, by decide, by decide, rfl, rfl, rfl⟩
  split
  · exact .inr ⟨2, by decide, by decide, rfl, rfl, rfl⟩
  split
  · exact .inr ⟨1, by decide, by decide, rfl, rfl, rfl⟩
  split
  · exact .inr ⟨3, by decide, by decide, rfl, rfl, rfl⟩
  · exact .inl rfl

/-- Settles O60: the same effects, written out. -/
theorem ledgerCommands : Obligations.LedgerCommands := by
  refine ⟨fun s => ⟨_, exec_tokenRefill, rfl⟩, ?_, ?_, ?_, fun s m v d h => ⟨_, exec_adlSnap h, rfl⟩, ?_⟩
  · rintro s m v d _ _ _ h rfl rfl hf rfl
    exact ⟨_, exec_admSliceWrite h, sliceWrite_of_function hf⟩
  · rintro s m v d _ h rfl
    exact ⟨_, exec_lock h, rfl⟩
  · rintro s m v d _ _ h rfl rfl hk
    exact ⟨_, exec_admCvalWrite h, cvalWrite_of_constant hk⟩
  · rintro s _ _ _ _ _ rfl rfl rfl rfl rfl
    exact ⟨_, exec_gcdebtRefresh, rfl⟩

/-- Settles O9: a write changes the slices only through ADM_SLICE's effect, whose condition bounds the sums of the stored slices. -/
theorem sliceSums : Obligations.SliceSums := by
  intro s m v _ hl hb hn
  refine ⟨_, rfl, ?_⟩
  obtain h | ⟨hc, d, h⟩ := write_adm (s := s) (m := m) (page := 0x020) (off := 0x90) (width := 32) (v := v) (cond := sliceCond m v)
    (eff := fun _ => sliceWrite v) fun t ht => (sliceCond_adm ht).trans (State.arrive_adm ..)
  · rw [h]
    exact ⟨hl, hb, hn⟩
  · rw [h]
    rw [← State.arrive_adm s m] at hl hb hn
    obtain hf | hf := Nat.lt_or_ge ((s.arrive m).field? ADM_SLSEL 4 0) 16
    · rw [sliceWrite_of_function hf]
      exact ⟨List.length_set.trans hl, sum_slices_of_sliceCond hc hf hl⟩
    · rw [sliceWrite_of_other hf]
      exact ⟨hl, hb, hn⟩
end

section
/-!
I/O commands of the host: a job that is admitted is taken, and the course of a command from its held start to its completion.
-/

namespace Sys2Proof.Machine

variable {s u : State} {c : NvmeCmd} {q : SQueue} {r : Resolved} {t0 : Nat}

/-! ## Admission (R54, R84) -/

/-- An I/O command that is fetched, passes the rows of its job and is admitted, is taken. -/
theorem onJob_of_admits {job : NvmeCmd → SQueue → State → IoJob} (hf : Fetched c s u q t0)
    (h1 : u.firstRow (job c q u).rows = none) (h2 : (job c q u).r = some r)
    (h3 : Admits u (job c q u).k r (job c q u).d (job c q u).tail (job c q u).len t0) :
    onJob c s job = .next (u.taken (job c q u) r t0) := by
  rw [onJob_of_fetched hf, ioCommand_of_admits h1 h2 h3]

/-- A command on a fetched entry runs with its queue and the time from which its bound runs. -/
theorem onQueue_of_fetched {f : SQueue → Nat → State → State} (hf : Fetched c s u q t0) : onQueue c s f = .next (f q t0 u) := by
  obtain ⟨h1, h2, h3⟩ := hf
  simp only [onQueue, onIo, h1, h2, h3, if_false]

/-- A command of another class than Evidential that meets its class minimum and worst case, and that a last check does not end. -/
theorem admission_of_worst {k : Cmd} {x : Demand} {tail : Class → Rat} {prog len : Nat} {check : State → Option Status}
    {ok : State → State} (hr : r.cls ≠ 0) (h : Admits s k r x tail len t0) (hc : check s = none) :
    s.admission k (some r) x tail prog len t0 check ok = ok (s.admitted (s.asAdmitted k r t0) x prog len) := by
  rw [Admits, if_neg hr] at h
  obtain ⟨hmin, hworst⟩ := h
  simp only [State.admission, if_neg hr, if_neg (not_lt.2 hmin), if_neg (not_lt.2 hworst), hc]

/-- An Execute Program that passes its rows and the last two of R114, and that Forecast admits, is taken; its cell may then enter it. -/
theorem exec_executeProgram (hf : Fetched c s u q t0) (h1 : u.firstRow (programJob c q u).rows = none)
    (h2 : (programJob c q u).r = some r) (hr : r.cls ≠ 0)
    (h3 : Admits u (programJob c q u).k r (programJob c q u).d (programJob c q u).tail (programJob c q u).len t0)
    (h4 : programCheck c u u = none) :
    exec (.executeProgram c) s = .next (u.taken (programJob c q u) r t0).enterExecs := by
  change execExecuteProgram c s = _
  rw [execExecuteProgram, executeProgram, onQueue_of_fetched hf]
  simp only [h1, h2, admission_of_worst hr h3 h4]
  rfl

/-! ## Starts and bounds (R85, R457) -/

variable {ref : CmdRef} {k : Cmd} {bs : List Block}

theorem exec_commandStart_held (hk : s.cmd? ref = some k) (hp : k.phase = .held) (hw : (s.waitsFor k).isEmpty = true) :
    exec (.commandStart ref) s = .next (s.begin ref).enterExecs := by
  change execCommandStart ref s = _
  simp only [execCommandStart, hk, hp, hw, and_self, if_true]

theorem exec_evidentialBoundPassed (hk : s.cmd? ref = some k) (ha : k.admitted = true) (hcl : k.cls = 0) (hd : k.deadline < s.ns)
    (hp : k.phase = .working) (hb : s.adm.bound.contains ref = false) :
    exec (.evidentialBoundPassed ref) s =
      .next (({ s with adm := { s.adm with bound := s.adm.bound ++ [ref] } } : State).openSpan 2 (some ref)) := by
  change execEvidentialBoundPassed ref s = _
  simp only [execEvidentialBoundPassed, hk, ha, hcl, hd, hp, hb, and_self, if_true]

/-! ## Host data (R84, R210) -/

theorem xferOk_of_unarmed (h : s.armed 0x010 6 = false) : s.xferOk = (true, s) := by
  rw [State.xferOk, if_neg (Bool.eq_false_iff.1 h)]

theorem exec_hostWriteDataReceived_write (hk : s.cmd? ref = some k) (hl : bs.length = (k.bytes + 4095) / 4096)
    (hp : k.phase = .awaitData) (ha : s.armed 0x010 6 = false) (hkind : k.kind ≠ .memWrite) :
    exec (.hostWriteDataReceived ref bs) s = .next (s.landWrite ref bs) := by
  change execHostWriteDataReceived ref bs s = _
  simp only [execHostWriteDataReceived, hk, hl, hp, xferOk_of_unarmed ha, hkind, ne_eq, not_true_eq_false, if_false, if_true]

theorem exec_hostWriteDataReceived_memWrite {x : Range} {rest : List Range} (hk : s.cmd? ref = some k)
    (hl : bs.length = (k.bytes + 4095) / 4096) (hp : k.phase = .awaitData) (ha : s.armed 0x010 6 = false) (hkind : k.kind = .memWrite)
    (hw : k.writes = x :: rest) :
    exec (.hostWriteDataReceived ref bs) s =
      .next ((s.poke (s.slmBase x.nsid + k.slma) ((bs.flatMap blockBytes).take k.bytes)).finish ref stOk) := by
  change execHostWriteDataReceived ref bs s = _
  simp only [execHostWriteDataReceived, hk, hl, hp, xferOk_of_unarmed ha, hkind, hw, ne_eq, not_true_eq_false, if_false, if_true]

theorem exec_hostWriteDataReceived_compare (hk : s.cmd? ref = some k) (hl : bs.length = (k.bytes + 4095) / 4096)
    (hp : k.phase = .working) (hkind : k.kind = .compare) (hn : k.landed = false) (ha : s.armed 0x010 6 = false) :
    exec (.hostWriteDataReceived ref bs) s = .next ((s.modCmd ref fun k => { k with data := bs, landed := true }).readDone ref) := by
  change execHostWriteDataReceived ref bs s = _
  simp only [execHostWriteDataReceived, hk, hl, hp, xferOk_of_unarmed ha, hkind, hn, ne_eq, not_true_eq_false, reduceCtorEq, and_self,
    if_false, if_true]

theorem exec_hostTransferFailure_waiting {f : FailedTransfer} (hk : s.cmd? f.ref = some k)
    (h : k.awaits = true ∨ k.phase = .working ∧ k.kind = .read) :
    exec (.hostTransferFailure f) s = .next (s.failTransfer f.ref f.poisoned) := by
  change execHostTransferFailure f s = _
  simp only [execHostTransferFailure, hk, if_pos h]

/-- A transfer to the host fails between the end of its command and the completion. -/
theorem exec_hostTransferFailure_done {f : FailedTransfer} (hk : s.cmd? f.ref = some k) (hp : k.phase = .done stOk)
    (hkind : k.kind = .read ∨ k.kind = .memRead) :
    exec (.hostTransferFailure f) s = .next
      (((s.xferFail f.poisoned).logStatus f.ref stTransfer).modCmd f.ref fun k => { k with phase := .done stTransfer }) := by
  change execHostTransferFailure f s = _
  have hw : ¬(k.awaits = true ∨ k.phase = .working ∧ k.kind = .read) := by
    simp [Cmd.awaits, hp]
  simp only [execHostTransferFailure, hk, if_neg hw, if_pos (And.intro hp hkind)]

/-! ## Completions and zero-fills (R81, R482) -/

/-- A completion with room in its queue is posted. -/
theorem exec_completionPost {st : Status} {x : SQueue} {y : CQueue} (h1 : s.power.flush = 0) (h2 : s.pageOn 0x010 = true)
    (h3 : s.fabric.pause = none) (hu : s.concludeExec ref = u) (hk : u.cmd? ref = some k) (hp : k.phase = .done st)
    (hx : (u.ctrl ref.fn).sq? ref.sqid = some x) (hy : (u.ctrl ref.fn).cq? x.cqid = some y) (hroom : (y.tail + 1) % y.size ≠ y.head) :
    exec (.completionPost ref) s = .next (u.post k st x y) := by
  change execCompletionPost ref s = _
  simp only [execCompletionPost, h1, h2, h3, hu, hk, hp, hx, hy, hroom, ne_eq, not_true_eq_false, decide_false, Bool.not_true,
    Option.isSome_none, Bool.or_self, Bool.false_eq_true, if_false]

theorem exec_droppedAppendZeroFill {x : AppendRec} {d : Nat} (hx : (s.host.evid.open_.find? fun x => x.who.isNone && !x.zero) = some x)
    (hd : s.quietDie = some d) : exec .droppedAppendZeroFill s = .next (s.zeroFill x d) := by
  change execDroppedAppendZeroFill s = _
  simp only [execDroppedAppendZeroFill, hx, hd]

end Sys2Proof.Machine

open Sys2Proof Sys2Proof.Machine

/-- Settles O11: every I/O command is a job, and a job that is fetched, passes its rows and is admitted is taken. -/
theorem hostIoCommands : Obligations.HostIoCommands :=
  ⟨fun _ _ _ _ _ _ hf h1 h2 h3 => ⟨_, onJob_of_admits (job := readJob) hf h1 h2 h3, rfl⟩,
    fun _ _ _ _ _ _ hf h1 h2 h3 => ⟨_, onJob_of_admits (job := writeJob) hf h1 h2 h3, rfl⟩,
    fun _ _ _ _ _ _ hf h1 h2 h3 => ⟨_, onJob_of_admits (job := flushJob) hf h1 h2 h3, rfl⟩,
    fun _ _ _ _ _ _ hf h1 h2 h3 => ⟨_, onJob_of_admits (job := compareJob) hf h1 h2 h3, rfl⟩,
    fun _ _ _ _ _ _ hf h1 h2 h3 => ⟨_, onJob_of_admits (job := writeZeroesJob) hf h1 h2 h3, rfl⟩,
    fun _ _ _ _ _ _ hf h1 h2 h3 => ⟨_, onJob_of_admits (job := dsmJob) hf h1 h2 h3, rfl⟩,
    fun _ _ _ _ _ _ hf h1 h2 h3 => ⟨_, onJob_of_admits (job := verifyJob) hf h1 h2 h3, rfl⟩,
    fun _ _ _ _ _ _ hf h1 h2 h3 => ⟨_, onJob_of_admits (job := copyJob) hf h1 h2 h3, rfl⟩,
    fun _ _ _ _ _ _ hf h1 h2 h3 => ⟨_, onJob_of_admits (job := slmJob false) hf h1 h2 h3, rfl⟩,
    fun _ _ _ _ _ _ hf h1 h2 h3 => ⟨_, onJob_of_admits (job := slmJob true) hf h1 h2 h3, rfl⟩,
    fun _ _ _ _ _ _ hf h1 h2 hr h3 h4 => ⟨_, exec_executeProgram hf h1 h2 hr h3 h4, rfl⟩⟩

/-- Settles O12: in its phase each command of the course passes its guards. -/
theorem commandCourse : Obligations.CommandCourse :=
  ⟨fun _ _ _ hk hp hw => ⟨_, exec_commandStart_held hk hp hw, rfl⟩,
    fun _ _ _ _ _ _ _ h1 h2 h3 hu hk hp hx hy hroom => ⟨_, exec_completionPost h1 h2 h3 hu hk hp hx hy hroom, rfl⟩,
    fun _ _ _ hk ha hc hd hp hb => ⟨_, exec_evidentialBoundPassed hk ha hc hd hp hb, rfl⟩,
    fun _ _ _ _ hk hl hp ha hkind => ⟨_, exec_hostWriteDataReceived_write hk hl hp ha hkind, rfl⟩,
    fun _ _ _ _ _ _ hk hl hp ha hkind hw => ⟨_, exec_hostWriteDataReceived_memWrite hk hl hp ha hkind hw, rfl⟩,
    fun _ _ _ _ hk hl hp hkind hn ha => ⟨_, exec_hostWriteDataReceived_compare hk hl hp hkind hn ha, rfl⟩,
    fun _ _ _ hk h => ⟨_, exec_hostTransferFailure_waiting hk h, rfl⟩,
    fun _ _ _ hk hp hkind => ⟨_, exec_hostTransferFailure_done hk hp hkind, rfl⟩,
    fun _ _ _ hx hd => ⟨_, exec_droppedAppendZeroFill hx hd, rfl⟩⟩
end

section
/-!
Admin commands of queues, logs, features and events, each fetched on the admin queue and past its own checks.
-/

namespace Sys2Proof.Machine

variable {c : NvmeCmd} {s u v : State}

/-- An admin command that is fetched, is not fused, and is served on its function, is handled. -/
theorem adminCmd_of_fetched {pfOnly : Bool} {f : State → State} (hf : FetchedAdmin c s u) (hn : c.fused = false)
    (hp : pfOnly = false ∨ c.fn = 0) : adminCmd c s pfOnly f = .next (f u) := by
  have hpf : (pfOnly && c.fn != 0) = false := by
    obtain rfl | h := hp
    · rfl
    · rw [h, bne_self_eq_false, Bool.and_false]
  rw [adminCmd, onAdmin_of_fetched hf]
  simp only [hpf, hn, Bool.false_eq_true, if_false]

/-! ## Queues (R82, R483) -/

/-- The queue that a Create I/O Submission Queue describes, with the queue defaults of R52. -/
def NvmeCmd.newSq (c : NvmeCmd) (a : BitVec 64) : SQueue :=
  { qid := bits c.cdw10 15 0, size := bits c.cdw10 31 16 + 1, cqid := bits c.cdw11 31 16, base := a, head := 0, tail := 0, dclass := 2
    fixed := true, ddl := 1600, doomed := [], bells := [], del := none }

/-- The queue that a Create I/O Completion Queue describes. -/
def NvmeCmd.newCq (c : NvmeCmd) (a : BitVec 64) : CQueue :=
  { qid := bits c.cdw10 15 0, size := bits c.cdw10 31 16 + 1, base := a, head := 0, tail := 0, phase := true
    vec := bits c.cdw11 31 16, ien := bit c.cdw11 1 }

/-- A queue identifier within the pool that no queue has is none that a Create refuses. -/
theorem not_badQid {α : Type} {o : Option α} {qid pool : Nat} (h1 : 1 ≤ qid) (h2 : qid ≤ pool) (ho : o = none) :
    ¬(qid = 0 ∨ pool < qid ∨ o.isSome = true) := by
  rw [ho]
  rintro (h | h | h)
  · omega
  · omega
  · exact nomatch h

theorem exec_createIoSubmissionQueue {a : BitVec 64} (hf : FetchedAdmin c s u) (hn : c.fused = false) (h1 : 1 ≤ bits c.cdw10 15 0)
    (h2 : bits c.cdw10 15 0 ≤ (u.ctrl c.fn).pool.length) (hq : (u.ctrl c.fn).sq? (bits c.cdw10 15 0) = none)
    (h3 : 1 ≤ bits c.cdw10 31 16) (h4 : bits c.cdw10 31 16 ≤ 4095) (h5 : bits c.cdw11 31 16 ≠ 0)
    (hcq : ((u.ctrl c.fn).cq? (bits c.cdw11 31 16)).isSome = true) (hp : c.prp1 = some a) (hpc : bit c.cdw11 0 = true)
    (ha : a.toNat % 4096 = 0) :
    exec (.createIoSubmissionQueue c) s =
      .next ((u.modCtrl c.fn fun k => { k with sqs := k.sqs ++ [c.newSq a] }).finish c.ref stOk) := by
  have hqid := not_badQid h1 h2 hq
  have hsize : ¬(bits c.cdw10 31 16 = 0 ∨ 4095 < bits c.cdw10 31 16) := by omega
  have hcqid : ¬(bits c.cdw11 31 16 = 0 ∨ ((u.ctrl c.fn).cq? (bits c.cdw11 31 16)).isNone = true) := by
    rw [← Option.not_isSome, hcq]
    simp [h5]
  refine (adminCmd_of_fetched hf hn (.inl rfl)).trans (congrArg _ ?_)
  simp only [if_neg hqid, if_neg hsize, if_neg hcqid, hp, hpc, ha, Bool.not_true, Bool.false_eq_true, ne_eq, not_true_eq_false, if_false]
  rfl

theorem exec_createIoCompletionQueue {a : BitVec 64} (hf : FetchedAdmin c s u) (hn : c.fused = false) (h1 : 1 ≤ bits c.cdw10 15 0)
    (h2 : bits c.cdw10 15 0 ≤ (u.ctrl c.fn).pool.length) (hq : (u.ctrl c.fn).cq? (bits c.cdw10 15 0) = none)
    (h3 : 1 ≤ bits c.cdw10 31 16) (h4 : bits c.cdw10 31 16 ≤ 4095) (hv : bit c.cdw11 1 = true → bits c.cdw11 31 16 < vectors c.fn)
    (hp : c.prp1 = some a) (hpc : bit c.cdw11 0 = true) (ha : a.toNat % 4096 = 0) :
    exec (.createIoCompletionQueue c) s =
      .next ((u.modCtrl c.fn fun k => { k with cqs := k.cqs ++ [c.newCq a] }).finish c.ref stOk) := by
  have hqid := not_badQid h1 h2 hq
  have hsize : ¬(bits c.cdw10 31 16 = 0 ∨ 4095 < bits c.cdw10 31 16) := by omega
  have hvec : ¬(bit c.cdw11 1 = true ∧ vectors c.fn ≤ bits c.cdw11 31 16) := fun h => absurd (hv h.1) (not_lt.2 h.2)
  refine (adminCmd_of_fetched hf hn (.inl rfl)).trans (congrArg _ ?_)
  simp only [if_neg hqid, if_neg hsize, if_neg hvec, hp, hpc, ha, Bool.not_true, Bool.false_eq_true, ne_eq, not_true_eq_false, if_false]
  rfl

/-- A queue that is not being deleted yet: its entries not fetched are discarded, and the command waits for its last completion. -/
theorem exec_deleteIoSubmissionQueue {q : SQueue} (hf : FetchedAdmin c s u) (hn : c.fused = false) (h0 : bits c.cdw10 15 0 ≠ 0)
    (hq : (u.ctrl c.fn).sq? (bits c.cdw10 15 0) = some q) (hd : q.del = none) :
    exec (.deleteIoSubmissionQueue c) s = .next (((u.addCmd (Cmd.plain c.ref u.ns)).modSq c.fn (bits c.cdw10 15 0) fun q =>
      { q with del := some c.cid, tail := q.head, bells := [], doomed := [] }).endDelete c.fn (bits c.cdw10 15 0)) := by
  refine (adminCmd_of_fetched hf hn (.inl rfl)).trans (congrArg _ ?_)
  simp only [hq, hd, h0, Option.isSome_none, Bool.false_eq_true, or_self, if_false]

theorem exec_deleteIoCompletionQueue (hf : FetchedAdmin c s u) (hn : c.fused = false) (h0 : bits c.cdw10 15 0 ≠ 0)
    (hq : ((u.ctrl c.fn).cq? (bits c.cdw10 15 0)).isSome = true)
    (hs : ((u.ctrl c.fn).sqs.any fun q => q.cqid == bits c.cdw10 15 0) = false) :
    exec (.deleteIoCompletionQueue c) s =
      .next ((u.modCtrl c.fn fun k => { k with cqs := k.cqs.filter fun q => q.qid != bits c.cdw10 15 0 }).finish c.ref stOk) := by
  refine (adminCmd_of_fetched hf hn (.inl rfl)).trans (congrArg _ ?_)
  simp only [h0, ← Option.not_isSome, hq, hs, Bool.not_true, Bool.false_eq_true, or_self, if_false]

/-! ## Abort (R86) -/

/-- The identifier that an Abort names. -/
def NvmeCmd.abortCid (c : NvmeCmd) : BitVec 16 := (c.cdw10 >>> 16).setWidth 16

/-- An entry that waits is passed over, and completes as aborted before the Abort does. -/
theorem exec_abort_waiting {p : Nat} (hf : FetchedAdmin c s u) (hn : c.fused = false)
    (hw : u.waitingEntry c.fn (bits c.cdw10 15 0) c.data c.abortCid = some p)
    (hk : u.cmd? ⟨c.fn, bits c.cdw10 15 0, c.abortCid⟩ = none) :
    exec (.abort c) s = .next (((u.modSq c.fn (bits c.cdw10 15 0) fun q => { q with doomed := q.doomed ++ [p] }.pass).finish
      ⟨c.fn, bits c.cdw10 15 0, c.abortCid⟩ stAborted).finish c.ref stOk) := by
  rw [NvmeCmd.abortCid] at *
  refine (adminCmd_of_fetched hf hn (.inl rfl)).trans (congrArg _ ?_)
  simp only [hw, hk, Option.isSome_none, Bool.false_eq_true, if_false]

/-- Every other command is not aborted. -/
theorem exec_abort_other (hf : FetchedAdmin c s u) (hn : c.fused = false)
    (h : u.waitingEntry c.fn (bits c.cdw10 15 0) c.data c.abortCid = none ∨
      (u.cmd? ⟨c.fn, bits c.cdw10 15 0, c.abortCid⟩).isSome = true) :
    exec (.abort c) s = .next (u.finish c.ref (status 0 0 1)) := by
  rw [NvmeCmd.abortCid] at h
  refine (adminCmd_of_fetched hf hn (.inl rfl)).trans (congrArg _ ?_)
  dsimp only
  split
  · next hw =>
    rw [hw] at h
    exact if_pos (h.resolve_left (nomatch ·))
  · rfl

/-! ## Log pages and Identify (R78, R97) -/

/-- The bytes of a log page that a Get Log Page asks for. -/
def NvmeCmd.logLen (c : NvmeCmd) : Nat := 4 * (bits c.cdw10 31 16 + 65536 * bits c.cdw11 15 0 + 1)

/-- A page that is returned has the effects of being read. -/
theorem exec_getLogPage {p : List Byte} {t : State} (hf : FetchedAdmin c s u) (hn : c.fused = false)
    (hp : u.logPage c.fn (bits c.cdw10 7 0) = some p) (h4 : c.cdw12.toNat % 4 = 0) (h13 : c.cdw13 = 0) (hl : c.cdw12.toNat < p.length)
    (h23 : bit c.cdw14 23 = false) (h2 : bits c.cdw10 7 0 = 2 → c.nsid = 0xFFFFFFFF)
    (ht : u.answerData c ((p.drop c.cdw12.toNat).take c.logLen) stOk = t) (hd : ((t.cmd? c.ref).any fun k => k.phase == .done stOk) = true) :
    exec (.getLogPage c) s =
      .next (t.afterLog c.fn (bits c.cdw10 7 0) c.cdw12.toNat c.logLen (bit c.cdw10 8) (bit c.cdw10 15)) := by
  have hoff : c.cdw12.toNat + 2 ^ 32 * c.cdw13.toNat = c.cdw12.toNat := by simp [h13]
  have hok : ¬(c.cdw12.toNat % 4 ≠ 0 ∨ p.length ≤ c.cdw12.toNat ∨ bit c.cdw14 23 = true ∨
      bits c.cdw10 7 0 = 2 ∧ c.nsid ≠ 0xFFFFFFFF) := by
    rintro (h | h | h | ⟨h, hne⟩)
    · exact h h4
    · omega
    · rw [h23] at h
      exact nomatch h
    · exact hne (h2 h)
  rw [NvmeCmd.logLen] at *
  refine (adminCmd_of_fetched hf hn (.inl rfl)).trans (congrArg _ ?_)
  simp only [hp, hoff, if_neg hok, ht, hd, if_true]

theorem exec_identify {bs : List Byte} (hf : FetchedAdmin c s u) (hn : c.fused = false) (hb : u.identifyData c = .ok bs) :
    exec (.identify c) s = .next (u.answerData c bs stOk) := by
  refine (adminCmd_of_fetched hf hn (.inl rfl)).trans (congrArg _ ?_)
  simp only [hb]

/-! ## Features (R52, R81 to R83) -/

theorem setFeatures_of_feature {fid : Nat} {w : Word} (hi : featureIds.contains fid = true) (hs : bit c.cdw10 31 = false)
    (ht : fid ≠ 0x0E) (h : u.setFeature c fid = .ok (v, w)) : u.setFeatures c fid = v.finish c.ref (status 0 0 w) := by
  simp only [State.setFeatures, hi, hs, ht, h, Bool.not_true, Bool.false_eq_true, if_false]

theorem getFeatures_of_feature {fid : Nat} {w : Word} (hs : bits c.cdw10 10 8 = 0) (ht : fid ≠ 0x0E)
    (h : u.getFeature c fid = .ok w) : u.getFeatures c fid = u.finish c.ref (status 0 0 w) := by
  simp only [State.getFeatures, hs, ht, h, ne_eq, not_true_eq_false, if_false]

theorem setFeature_default (h : u.setDefault c = some v) : u.setFeature c 0xC1 = .ok (v, 0) := by
  simp only [State.setFeature, h]

theorem getFeature_default {q : SQueue} (h11 : bits c.cdw11 31 16 = 0) (hq : (u.ctrl c.fn).sq? (bits c.cdw11 15 0) = some q)
    (h0 : q.qid ≠ 0) : u.getFeature c 0xC1 = .ok (BitVec.ofNat 32 (q.dclass.val + 4 * q.fixed.toNat + 16 * q.ddl)) := by
  simp only [State.getFeature, h11, hq, h0, ne_eq, not_true_eq_false, if_false]

/-- A Timestamp from the PF goes to the field die. -/
theorem setFeatures_timestamp (hs : bit c.cdw10 31 = false) (hfn : c.fn = 0) (hr : u.firstRow [ptrRow c 8, fetchRow c] = none) :
    u.setFeatures c 0x0E =
      (u.sendField 0x82 0 (leBytes 8 (leNat (sub c.data 0 6) * 1000) ++ [1] ++ List.replicate 7 0) .firmware).finish c.ref stOk := by
  have hi : featureIds.contains 0x0E = true := rfl
  simp only [State.setFeatures, hi, hs, State.setTimestamp, hfn, State.withData, hr, Bool.not_true, Bool.false_eq_true, ne_eq,
    not_true_eq_false, if_false, if_true]

theorem getFeatures_timestamp (hs : bits c.cdw10 10 8 = 0) : u.getFeatures c 0x0E = u.answerData c u.timestamp stOk := by
  simp only [State.getFeatures, hs, ne_eq, not_true_eq_false, if_false, if_true]

/-! ## Asynchronous events and unlisted opcodes (R80, R81) -/

theorem exec_asynchronousEventRequest (hf : FetchedAdmin c s u) (hn : c.fused = false) (hl : (u.logsOf c.fn).aers.length < 8) :
    exec (.asynchronousEventRequest c) s =
      .next (((u.addCmd (Cmd.plain c.ref u.ns)).modLogs c.fn fun l => { l with aers := l.aers ++ [c.cid] }).drainAsync c.fn) :=
  (adminCmd_of_fetched hf hn (.inl rfl)).trans (congrArg _ (if_neg (not_le.2 hl)))

/-- An opcode that is not listed ends with its status, on an admin queue and on an I/O queue. -/
theorem exec_invalidCommandOpcode {t0 : Nat} (ho : (if c.sqid = 0 then adminOpcodes c.fn else ioOpcodes).contains c.opc.toNat = false)
    (hf : s.fetchEntry c = (u, some t0)) : exec (.invalidCommandOpcode c) s = .next (u.finish c.ref stOpcode) := by
  change execInvalidCommandOpcode c s = _
  simp only [execInvalidCommandOpcode, ho, hf, Bool.false_eq_true, if_false]

end Sys2Proof.Machine

open Sys2Proof Sys2Proof.Machine

/-- Settles O13: each command is handled in the state that its fetch leaves, past its own checks. -/
theorem adminQueueCommands : Obligations.AdminQueueCommands := by
  refine ⟨fun c s u a hf hn h1 h2 hq h3 h4 h5 hcq hp hpc ha => ⟨_, exec_createIoSubmissionQueue hf hn h1 h2 hq h3 h4 h5 hcq hp hpc ha, rfl⟩,
    fun c s u a hf hn h1 h2 hq h3 h4 hv hp hpc ha => ⟨_, exec_createIoCompletionQueue hf hn h1 h2 hq h3 h4 hv hp hpc ha, rfl⟩,
    fun c s u q hf hn h0 hq hd => ⟨_, exec_deleteIoSubmissionQueue hf hn h0 hq hd, rfl⟩,
    fun c s u hf hn h0 hq hs => ⟨_, exec_deleteIoCompletionQueue hf hn h0 hq hs, rfl⟩,
    fun c s u p t hf hn hp h4 h13 hl h23 h2 ht hd => ⟨_, exec_getLogPage hf hn hp h4 h13 hl h23 h2 ht hd, rfl⟩,
    fun c s u bs hf hn hb => ⟨_, exec_identify hf hn hb, rfl⟩,
    fun c s u p hf hn hw hk => ⟨_, exec_abort_waiting hf hn hw hk, rfl⟩,
    fun c s u hf hn h => ⟨_, exec_abort_other hf hn h, rfl⟩,
    fun c s u v w hf hn hi hs ht h => ⟨_, adminCmd_of_fetched hf hn (.inl rfl), setFeatures_of_feature hi hs ht h⟩,
    fun c s u w hf hn hs ht h => ⟨_, adminCmd_of_fetched hf hn (.inl rfl), getFeatures_of_feature hs ht h⟩,
    fun c s u hf hn hs => ⟨_, adminCmd_of_fetched hf hn (.inl rfl), setFeatures_of_feature rfl hs (by decide) rfl⟩,
    fun c s u hf hn hs hfn hr => ⟨_, adminCmd_of_fetched hf hn (.inl rfl), setFeatures_timestamp hs hfn hr⟩,
    fun c s u hf hn hs => ⟨_, adminCmd_of_fetched hf hn (.inl rfl), getFeatures_timestamp hs⟩,
    fun c s u v hf hn hs h => ⟨_, adminCmd_of_fetched hf hn (.inl rfl), setFeatures_of_feature rfl hs (by decide) (setFeature_default h)⟩,
    fun c s u q hf hn hs h11 hq h0 =>
      ⟨_, adminCmd_of_fetched hf hn (.inl rfl), getFeatures_of_feature hs (by decide) (getFeature_default h11 hq h0)⟩,
    fun c s u hf hn hl => ⟨_, exec_asynchronousEventRequest hf hn hl, rfl⟩,
    fun c s u t0 ho hf => ⟨_, exec_invalidCommandOpcode ho hf, rfl⟩⟩
end

section
/-!
Admin commands of namespaces, firmware and tests, each fetched on the admin queue and past its own checks.
-/

namespace Sys2Proof.Machine

variable {c : NvmeCmd} {s u : State}

/-! ## Checks that several commands share (R84, R93) -/

/-- A structure in host memory whose pointer and fetch are good is read. -/
theorem withData_of_rows {len : Nat} {f : State → State} (h : u.firstRow [ptrRow c len, fetchRow c] = none) : u.withData c len f = f u := by
  rw [State.withData, h]

/-- Without a pending deferred write fault the command goes on. -/
theorem unlessDeferred_of_row {f : State → State} (h : deferRow c u = none) : u.unlessDeferred c f = f u := by
  rw [State.unlessDeferred, h]

/-! ## Namespaces (R80, R95, R101, R197, R312) -/

theorem exec_namespaceManagement_delete {x : Ns} (hf : FetchedAdmin c s u) (hn : c.fused = false) (hfn : c.fn = 0)
    (hsel : bits c.cdw10 3 0 = 1) (h1 : c.nsid ≠ 1) (hall : c.nsid ≠ 0xFFFFFFFF) (hd : deferRow c u = none) (hx : u.ns? c.nsid = some x) :
    exec (.namespaceManagement c) s = .next ((u.deleteNs x).finish c.ref stOk) := by
  refine (adminCmd_of_fetched hf hn (.inr hfn)).trans (congrArg _ ?_)
  simp only [hsel, if_neg hall, unlessDeferred_of_row hd, h1, hx, false_and, if_false]

theorem exec_namespaceManagement_create (hf : FetchedAdmin c s u) (hn : c.fused = false) (hfn : c.fn = 0)
    (hsel : bits c.cdw10 3 0 = 0) (hr : u.firstRow [ptrRow c 4096, fetchRow c] = none) :
    exec (.namespaceManagement c) s = .next (u.createNs c) := by
  refine (adminCmd_of_fetched hf hn (.inr hfn)).trans (congrArg _ ?_)
  simp only [hsel, withData_of_rows hr]

/-- An NVM namespace of a size within the user capacity takes the lowest free NSID and unit range, and its first key. -/
theorem createNs_of_nvm {n : Nat} (hcsi : bits c.cdw11 31 24 = 0) (hfree : ((List.range 31).find? fun k => (u.ns? (k + 2)).isNone) = some n)
    (h30 : leNat (sub c.data 30 1) = 0) (h29 : leNat (sub c.data 29 1) = 0) (h26 : leNat (sub c.data 26 1) = 0)
    (hsize : leNat (sub c.data 0 8) ≠ 0) (hcap : leNat (sub c.data 8 8) = leNat (sub c.data 0 8))
    (hroom : u.nvmBlocks + leNat (sub c.data 0 8) ≤ u.userBlocks) :
    u.createNs c =
      ((({ u with host := { u.host with nss := u.host.nss ++
        [⟨n + 2, .nvm, leNat (sub c.data 0 8), none, u.newBase (leNat (sub c.data 0 8))⟩] } } : State).commit
          [.nschg (n + 2) 0 (u.newBase (leNat (sub c.data 0 8))) (unitsFor (leNat (sub c.data 0 8)))]).deriveNext (n + 2) 1 0xFF
            (n + 2)).finish c.ref (status 0 0 (BitVec.ofNat 32 (n + 2))) := by
  simp only [State.createNs, hcsi, hfree, h30, h29, h26, hcap, if_neg (not_lt.2 hroom), hsize, ne_eq, not_true_eq_false, or_self, if_false,
    if_true]

/-- The controllers of the list are attached or detached in turn, and each is told of the change. -/
theorem exec_namespaceAttachment {n : Nat} {l : List Nat} {v : State} (hf : FetchedAdmin c s u) (hn : c.fused = false) (hfn : c.fn = 0)
    (hsel : bits c.cdw10 3 0 ≤ 1) (hns : (u.nsInfo c.nsid).isSome = true) (hd : deferRow c u = none)
    (hr : u.firstRow [ptrRow c 4096, fetchRow c] = none) (hcnt : n = leNat (sub c.data 0 2)) (h1 : 1 ≤ n) (h2 : n ≤ 2047)
    (hl : l = (List.range n).map (fun k => leNat (sub c.data (2 + 2 * k) 2))) (hall : ∀ f ∈ l, f < 16 ∧ u.fnExists f = true)
    (hv : u.overList (fun s f => if bits c.cdw10 3 0 = 0 then s.attachNs c.nsid f else s.detachNs c.nsid f) l = .ok v) :
    exec (.namespaceAttachment c) s =
      .next ((l.foldl (fun (s : State) f => s.nsChanged (Fin.ofNat 16 f) c.nsid) v).finish c.ref stOk) := by
  have hnone : (u.nsInfo c.nsid).isNone = false := by rw [← Option.not_isSome, hns]; rfl
  have hany : (l.any fun f => !(decide (f < 16) && u.fnExists f)) = false := by
    refine List.any_eq_false.2 fun f hm => ?_
    obtain ⟨hlt, hex⟩ := hall f hm
    rw [decide_eq_true hlt, hex]
    decide
  have hlist : ¬(n = 0 ∨ 2047 < n ∨ (l.any fun f => !(decide (f < 16) && u.fnExists f)) = true) := by
    rw [hany]
    rintro (h | h | h)
    · omega
    · omega
    · exact nomatch h
  refine (adminCmd_of_fetched hf hn (.inr hfn)).trans (congrArg _ ?_)
  simp only [if_neg (not_lt.2 hsel), hnone, unlessDeferred_of_row hd, withData_of_rows hr, ← hcnt, min_eq_left h2, ← hl, if_neg hlist, hv,
    Bool.false_eq_true, if_false]

theorem exec_formatNvm {x : Ns} (hf : FetchedAdmin c s u) (hn : c.fused = false) (h1 : c.nsid ≠ 1) (hall : c.nsid ≠ 0xFFFFFFFF)
    (hk : (u.kindFor c.fn c.nsid).isSome = true) (hlbaf : bits c.cdw10 3 0 = 0) (hlbafu : bits c.cdw10 13 12 = 0)
    (hses : bits c.cdw10 11 9 = 0 ∨ bits c.cdw10 11 9 = 2) (hpi : bits c.cdw10 8 4 = 0)
    (hx : ((u.host.nss.filter fun x => x.owner == some c.fn && x.kind == .nvm).find? fun x => x.nsid == c.nsid) = some x)
    (hd : deferRow c u = none) : exec (.formatNvm c) s = .next ((u.formatNs x).finish c.ref stOk) := by
  have hfield : ¬(bits c.cdw10 11 9 ≠ 0 ∧ bits c.cdw10 11 9 ≠ 2 ∨ bits c.cdw10 8 4 ≠ 0) := by omega
  have hns : ¬(c.nsid ≠ 0xFFFFFFFF ∧ (u.kindFor c.fn c.nsid).isNone = true) := by
    rw [← Option.not_isSome, hk]
    exact fun h => nomatch h.2
  have hformat : ¬(bits c.cdw10 3 0 ≠ 0 ∨ bits c.cdw10 13 12 ≠ 0) := by omega
  refine (adminCmd_of_fetched hf hn (.inl rfl)).trans (congrArg _ ?_)
  simp only [if_neg hfield, if_neg hns, if_neg hformat, if_neg hall, unlessDeferred_of_row hd, if_neg h1, hx]

/-! ## Self-test and firmware (R70, R90, R91) -/

theorem exec_deviceSelfTest (hf : FetchedAdmin c s u) (hn : c.fused = false) (hstc : bits c.cdw10 3 0 = 1 ∨ bits c.cdw10 3 0 = 2)
    (ht : (u.logsOf c.fn).test = none) :
    exec (.deviceSelfTest c) s = .next ((u.modLogs c.fn fun l => { l with test := some (bits c.cdw10 3 0) }).finish c.ref stOk) := by
  have habort : bits c.cdw10 3 0 ≠ 15 := by omega
  have hfield : ¬(bits c.cdw10 3 0 ≠ 1 ∧ bits c.cdw10 3 0 ≠ 2) := by omega
  refine (adminCmd_of_fetched hf hn (.inl rfl)).trans (congrArg _ ?_)
  simp only [if_neg habort, if_neg hfield, ht, Option.isSome_none, Bool.false_eq_true, if_false]

theorem exec_firmwareImageDownload {n : Nat} (hf : FetchedAdmin c s u) (hn : c.fused = false) (hfn : c.fn = 0)
    (hlen : n = 4 * (c.cdw10.toNat + 1)) (h1 : n % 4096 = 0) (h2 : 4 * c.cdw11.toNat % 4096 = 0) (h3 : 4 * c.cdw11.toNat + n ≤ imageMax)
    (hr : u.firstRow [ptrRow c n, fetchRow c] = none) :
    exec (.firmwareImageDownload c) s = .next
      ((u.modFw fun w => { w with down := storeBytes w.down (4 * c.cdw11.toNat) (sub c.data 0 n) }).finish c.ref stOk) := by
  have hpiece : ¬(n % 4096 ≠ 0 ∨ 4 * c.cdw11.toNat % 4096 ≠ 0 ∨ imageMax < 4 * c.cdw11.toNat + n) := by omega
  refine (adminCmd_of_fetched hf hn (.inr hfn)).trans (congrArg _ ?_)
  simp only [← hlen, if_neg hpiece, withData_of_rows hr]

/-- What an accepted Commit makes of the state: it waits for the check of the image's signature. -/
def State.beginCommit (u : State) (c : NvmeCmd) : State :=
  (u.addCmd (Cmd.plain c.ref u.ns)).modFw fun w =>
    { w with commit := some { ref := c.ref, action := bits c.cdw10 5 3, slot := u.commitSlot (bits c.cdw10 2 0), step := 0 } }

/-- A Commit of one of its command's actions, of a slot that the action may name, while no activation is in progress. -/
theorem firmwareCommit_of_action {acts : List Nat} (hf : FetchedAdmin c s u) (hn : c.fused = false) (hfn : c.fn = 0)
    (ha : acts.contains (bits c.cdw10 5 3) = true) (hidle : u.activating = false) (hs : bits c.cdw10 2 0 ≤ 2)
    (h0 : bits c.cdw10 2 0 = 0 → 2 ≤ bits c.cdw10 5 3) (hdown : bits c.cdw10 5 3 = 0 → u.host.fw.down ≠ []) :
    firmwareCommit c acts s = .next (u.beginCommit c) := by
  have hother : ¬(bits c.cdw10 5 3 ≤ 3 ∧ acts.contains (bits c.cdw10 5 3) = false) := by
    rw [ha]
    exact fun h => nomatch h.2
  have hslot : ¬(2 < bits c.cdw10 2 0 ∨ bits c.cdw10 2 0 = 0 ∧ bits c.cdw10 5 3 < 2) := by omega
  have himage : ¬(bits c.cdw10 5 3 = 0 ∧ u.host.fw.down = []) := fun h => hdown h.1 h.2
  refine (if_neg hother).trans ((adminCmd_of_fetched hf hn (.inr hfn)).trans (congrArg _ ?_))
  simp only [ha, hidle, if_neg hslot, if_neg himage, Bool.not_true, Bool.false_eq_true, if_false]
  rfl

/-- A slot that is named is the slot of the Commit. -/
theorem commitSlot_of_named {n : Nat} (h : n ≠ 0) : u.commitSlot n = n := if_neg h

/-- What a Commit's action makes of a good image: it takes a slot, the slot is the next one, or it is activated (R90). -/
def State.takeImage (s : State) (k : Commit) : State :=
  match k.action with
  | 0 => (s.replaceSlot k.slot).endCommit k stOk
  | 1 => ((s.replaceSlot k.slot).putRec fun r => { r with next := k.slot }).endCommit k stOk
  | 2 => (s.putRec fun r => { r with next := k.slot }).endCommit k stOk
  | _ => (s.replaceSlot k.slot).startActivation k

theorem exec_signatureCheckDone {k : Commit} (hk : s.host.fw.commit = some k) (h0 : k.step = 0) (hd : s.host.fw.down ≠ []) :
    exec (.signatureCheckDone true) s = .next (s.takeImage k) := by
  change execSignatureCheckDone true s = _
  have hgood : (!true || decide (s.host.fw.down = []) && !(s.image k.slot).good) = false := by
    rw [decide_eq_false hd]
    rfl
  simp only [execSignatureCheckDone, hk, h0, hgood, ne_eq, not_true_eq_false, Bool.false_eq_true, if_false]
  unfold State.takeImage
  generalize k.action = a
  match a with
  | 0 | 1 | 2 | _ + 3 => rfl

end Sys2Proof.Machine

open Sys2Proof Sys2Proof.Machine

/-- Settles O14: each command is handled in the state that its fetch leaves, past its own checks. -/
theorem adminManagementCommands : Obligations.AdminManagementCommands := by
  refine ⟨fun c s u x hf hn hfn hsel h1 hall hd hx => ⟨_, exec_namespaceManagement_delete hf hn hfn hsel h1 hall hd hx, rfl⟩,
    fun c s u n b hf hn hfn hsel hr hcsi hfree h30 h29 h26 hsize hcap hroom hb =>
      ⟨_, exec_namespaceManagement_create hf hn hfn hsel hr, hb ▸ createNs_of_nvm hcsi hfree h30 h29 h26 hsize hcap hroom⟩,
    fun c s u n l v hf hn hfn hsel hns hd hr hcnt h1 h2 hl hall hv =>
      ⟨_, exec_namespaceAttachment hf hn hfn hsel hns hd hr hcnt h1 h2 hl hall hv, rfl⟩,
    fun c s u x hf hn h1 hall hk hlbaf hlbafu hses hpi hx hd =>
      ⟨_, exec_formatNvm hf hn h1 hall hk hlbaf hlbafu hses hpi hx hd, rfl⟩,
    fun c s u hf hn hstc ht => ⟨_, exec_deviceSelfTest hf hn hstc ht, rfl⟩,
    fun c s u n hf hn hfn hlen h1 h2 h3 hr => ⟨_, exec_firmwareImageDownload hf hn hfn hlen h1 h2 h3 hr, rfl⟩,
    fun c s u hf hn hfn ha hidle hs hd =>
      ⟨_, firmwareCommit_of_action hf hn hfn (by rw [ha]; rfl) hidle (by omega) (by omega) (fun _ => hd), ?_⟩,
    fun c s u hf hn hfn ha hidle hs =>
      ⟨_, firmwareCommit_of_action hf hn hfn (by rw [ha]; rfl) hidle hs (by omega) (by omega), ?_⟩,
    fun c s u hf hn hfn ha hidle hs =>
      ⟨_, firmwareCommit_of_action hf hn hfn (by rw [ha]; rfl) hidle hs (by omega) (by omega), ?_⟩,
    fun s k hk h0 hd => ⟨_, exec_signatureCheckDone hk h0 hd, rfl⟩⟩
  · rw [State.beginCommit, ha, commitSlot_of_named (by omega)]
  · rw [State.beginCommit, ha]
  · rw [State.beginCommit, ha]
end

section
/-!
The commands of virtual functions, each under the conditions in which it acts.
-/

namespace Sys2Proof.Machine

variable {c : NvmeCmd} {s u : State} {m : Master} {f fn : Fun} {v : Word} {d : RegDef}

/-! ## Virtualization Management (R99, R365) -/

/-- Virtualization Management of a command's own action, by the PF, for a VF that exists. -/
theorem virtualCmd_of_fetched {act : Nat} {g : Fun → State → State} (hf : FetchedAdmin c s u) (hn : c.fused = false) (hfn : c.fn = 0)
    (ha : bits c.cdw10 3 0 = act) (hid : bits c.cdw10 31 16 = f.val) (h0 : f ≠ 0) (he : u.fnExists f.val = true) :
    virtualCmd c act s g = .next (g f u) := by
  have hact : ¬(7 ≤ bits c.cdw10 3 0 ∧ bits c.cdw10 3 0 ≤ 9 ∧ bits c.cdw10 3 0 ≠ act) := fun ⟨_, _, h⟩ => h ha
  have hctl : ¬(f.val = 0 ∨ 15 < f.val ∨ u.fnExists f.val = false) := by
    rw [he]
    rintro (h | h | h)
    · exact h0 (Fin.ext h)
    · exact absurd f.isLt (by omega)
    · exact nomatch h
  refine (if_neg hact).trans ((adminCmd_of_fetched hf hn (.inr hfn)).trans (congrArg _ ?_))
  simp only [hid, if_neg (not_not.2 ha), if_neg hctl, Fin.ofNat_val_eq_self]

/-- A controller that is disabled and not in reset goes offline at once. -/
theorem exec_secondaryControllerOffline (hf : FetchedAdmin c s u) (hn : c.fused = false) (hfn : c.fn = 0) (ha : bits c.cdw10 3 0 = 7)
    (hid : bits c.cdw10 31 16 = f.val) (h0 : f ≠ 0) (he : u.fnExists f.val = true) (hcc : bit (u.ctrl f).cc 0 = false)
    (hr : (u.ctrl f).resetting = false) (hl : u.host.ctrls.length = 16) :
    exec (.secondaryControllerOffline c) s = .next (((u.modVf f.val fun v => { v with online := false }).modCtrl f
      fun k => { k with fetching := false }).finish c.ref stOk) := by
  change execSecondaryControllerOffline c s = _
  refine (virtualCmd_of_fetched hf hn hfn ha hid h0 he).trans (congrArg _ ?_)
  have hctrl : ((u.modVf f.val fun v => { v with online := false }).modCtrl f fun k => { k with fetching := false }).ctrl f =
      { u.ctrl f with fetching := false } := State.ctrl_modCtrl_self (s := u.modVf f.val fun v => { v with online := false }) hl
  simp only [hctrl, hcc, hr, Bool.or_self, Bool.false_eq_true, if_false]

/-- No queue lies above a bound that holds for every one. -/
theorem any_lt_eq_false {α : Type} {l : List α} {g : α → Nat} {n : Nat} (h : ∀ q ∈ l, g q ≤ n) :
    (l.any fun q => decide (n < g q)) = false :=
  List.any_eq_false.2 fun q hq hlt => not_lt.2 (h q hq) (of_decide_eq_true hlt)

/-- An offline controller is assigned a number of queue pairs that the PF can spare. -/
theorem exec_secondaryControllerAssign {n : Nat} (hf : FetchedAdmin c s u) (hn : c.fused = false) (hfn : c.fn = 0)
    (ha : bits c.cdw10 3 0 = 8) (hid : bits c.cdw10 31 16 = f.val) (h0 : f ≠ 0) (he : u.fnExists f.val = true)
    (hrt : bits c.cdw10 10 8 = 0) (hoff : (u.vf f.val).online = false) (hnr : bits c.cdw11 15 0 = n) (hmax : n ≤ 127)
    (hsum : n < (u.ctrl 0).pool.length + (u.ctrl f).pool.length)
    (hsq : ∀ q ∈ (u.ctrl 0).sqs, q.qid ≤ (u.ctrl 0).pool.length - (n - (u.ctrl f).pool.length))
    (hcq : ∀ q ∈ (u.ctrl 0).cqs, q.qid ≤ (u.ctrl 0).pool.length - (n - (u.ctrl f).pool.length)) (hpool : (u.ctrl 0).pool ≠ []) :
    exec (.secondaryControllerAssign c) s = .next ((u.assignPairs f n).finish c.ref (status 0 0 (BitVec.ofNat 32 n))) := by
  have hroom : ¬(127 < n ∨ (u.ctrl 0).pool.length ≤ n - (u.ctrl f).pool.length) := by
    have := List.length_pos_iff.2 hpool
    omega
  have hsq' : ((u.ctrl 0).sqs.any fun q => decide ((u.ctrl 0).pool.length - (n - (u.ctrl f).pool.length) < q.qid)) = false :=
    any_lt_eq_false hsq
  have hcq' : ((u.ctrl 0).cqs.any fun q => decide ((u.ctrl 0).pool.length - (n - (u.ctrl f).pool.length) < q.qid)) = false :=
    any_lt_eq_false hcq
  change execSecondaryControllerAssign c s = _
  refine (virtualCmd_of_fetched hf hn hfn ha hid h0 he).trans (congrArg _ ?_)
  simp only [hrt, hoff, hnr, if_neg hroom, hsq', hcq', ne_eq, not_true_eq_false, Bool.or_self, Bool.false_eq_true, if_false]

/-- A controller that has queue pairs goes online. -/
theorem exec_secondaryControllerOnline (hf : FetchedAdmin c s u) (hn : c.fused = false) (hfn : c.fn = 0) (ha : bits c.cdw10 3 0 = 9)
    (hid : bits c.cdw10 31 16 = f.val) (h0 : f ≠ 0) (he : u.fnExists f.val = true) (hp : (u.ctrl f).pool.isEmpty = false) :
    exec (.secondaryControllerOnline c) s = .next ((u.modVf f.val fun v => { v with online := true }).finish c.ref stOk) := by
  change execSecondaryControllerOnline c s = _
  refine (virtualCmd_of_fetched hf hn hfn ha hid h0 he).trans (congrArg _ ?_)
  simp only [hp, Bool.false_eq_true, if_false]

/-! ## Shares (R363, R366) -/

theorem exec_vfmSelWrite (h : Accepts s m 0x018 0x80 v noCond d) :
    exec (.vfmSelWrite m v) s = .next (vfmSelEffect v d (s.arrive m)) := by
  change execVfmSelWrite m v s = _
  rw [execVfmSelWrite, write_of_accepts h]

theorem exec_apply (h : Accepts s m 0x018 0xA4 (setBit v 0 true) (shareCond m 0xA4 (setBit v 0 true)) d) :
    exec (.apply m v) s = .next (applyEffect m (setBit v 0 true) (s.arrive m)) := by
  change execApply m v s = _
  rw [execApply, write_of_accepts h]

/-- An APPLY for a function that exists and is the PF or offline takes shares that are free and large enough. -/
theorem applyEffect_of_free (hb : bit v 0 = true) (he : s.fnExists s.vfmSel.val = true)
    (hoff : s.vfmSel = 0 ∨ (s.vf s.vfmSel.val).online = false) (hc : s.shareConflict s.vfmSel s.staged = false)
    (hs : s.slmHeld s.vfmSel ≤ s.staged.slm * 2 ^ 26) : applyEffect m v s = s.applyShares s.vfmSel s.staged := by
  have honline : ¬(s.vfmSel ≠ 0 ∧ (s.vf s.vfmSel.val).online = true ∧
      { s.staged with cells := (s.vf s.vfmSel.val).shares.cells } ≠ (s.vf s.vfmSel.val).shares) := by
    rintro ⟨hne, hon, -⟩
    obtain h | h := hoff
    · exact hne h
    · rw [h] at hon
      exact nomatch hon
  simp only [applyEffect, hb, he, if_neg honline, hc, if_neg (not_lt.2 hs), Bool.not_true, Bool.false_eq_true, if_false]

/-! ## Mailboxes (R367) -/

theorem exec_mailboxSend_vf (h : Accepts s (.vf fn) (vmbPage fn.val) 0x180 (setBit v 0 true) noCond d) :
    exec (.mailboxSend (.vf fn) fn v) s = .next (vmbDbEffect (.vf fn) fn.val (setBit v 0 true) (s.arrive (.vf fn))) :=
  (if_pos rfl).trans (by rw [write_of_accepts h])

/-- A VF's good message goes into its empty mailbox. -/
theorem vmbDbEffect_of_send {f : Nat} (h0 : bit v 0 = true) (h1 : bit v 1 = false) (hfull : (s.vf f).upFull = false)
    (hbox : boxOk (s.vmbOut f) = true) :
    vmbDbEffect m f v s = (s.modVf f fun x => { x with mbUp := s.vmbOut f, upFull := true }).raise vfmPage 3 := by
  simp only [vmbDbEffect, h0, h1, hfull, hbox, Bool.not_true, Bool.or_self, Bool.false_and, Bool.false_eq_true, if_false]

theorem exec_mailboxAck_pf (hsel : s.vfmSel = fn) (h : Accepts s .pf 0x018 0x180 (setBit v 1 true) noCond d) :
    exec (.mailboxAck .pf fn v) s = .next (mbdbEffect .pf (setBit v 1 true) (s.arrive .pf)) :=
  (if_pos hsel).trans (by rw [write_of_accepts h])

/-- The message of the selected VF is acknowledged. -/
theorem mbdbEffect_of_ack (hsel : s.vfmSel = fn) (hne : fn ≠ 0) (he : s.fnExists fn.val = true) (h0 : bit v 0 = false)
    (h1 : bit v 1 = true) (hfull : (s.vf fn.val).upFull = true) :
    mbdbEffect m v s = (s.modVf fn.val fun x => { x with upFull := false }).raise (vmbPage fn.val) 4 := by
  have hbox : ¬(fn.val = 0 ∨ s.fnExists fn.val = false) := by
    rw [he]
    rintro (h | h)
    · exact hne (Fin.ext h)
    · exact nomatch h
  simp only [mbdbEffect, hsel, if_neg hbox, h0, h1, hfull, Bool.not_false, Bool.and_self, if_true]

/-! ## The dirty-page log (R368, R369) -/

theorem dpCtrlWrite_of_accepts (h : Accepts s m 0x018 0xC0 v (dpCond m 0xC0 v) d) :
    dpCtrlWrite m v s = .next (dpCtrlEffect v (s.arrive m)) := by
  rw [dpCtrlWrite, write_of_accepts h]

/-- The retired bitmap of a function is written to the PF's memory, and the copy ends. -/
theorem exec_dirtyPageCopyDone (hb : (s.dirtyOf fn.val).busy = true) :
    exec (.dirtyPageCopyDone fn) s = .next (((s.hostWrite 0 [((s.dirtyOf fn.val).dest, (s.dirtyOf fn.val).gib * 32768)]
      (bitmapBytes (s.dirtyOf fn.val).old ((s.dirtyOf fn.val).gib * 32768))).modDirty fn.val fun d =>
        { d with old := [], overB := false, busy := false, rounds := d.rounds + 1 }).raise vfmPage 7) := by
  change execDirtyPageCopyDone fn s = _
  simp only [execDirtyPageCopyDone, hb, Bool.not_true, Bool.false_eq_true, if_false]

/-! ## Released memory (R364) -/

theorem exec_slmShareZero (h : (s.vfm.zeroing.any fun z => z.1 == fn.val) = true) :
    exec (.slmShareZero fn) s =
      .next { s.zeroSlm with vfm := { s.vfm with zeroing := s.vfm.zeroing.filter fun z => z.1 != fn.val } } := by
  change execSlmShareZero fn s = _
  simp only [execSlmShareZero, h, Bool.not_true, Bool.false_eq_true, if_false]

/-! ## Resets and VF Enable (R77, R370, R371) -/

theorem exec_flrVf (hne : fn ≠ 0) (he : s.fnExists fn.val = true) (hup : s.host.link.up = true) (hon : s.pageOn 0x010 = true)
    (hr : (s.vf fn.val).flr = false) : exec (.flrVf fn) s = .next (s.beginFlr fn) := by
  change execFlrVf fn s = _
  simp only [execFlrVf, hne, he, hup, hon, hr, Bool.true_eq_false, Bool.false_eq_true, or_self, if_false]

theorem exec_vfResetComplete (hr : (s.vf fn.val).flr = true) : exec (.vfResetComplete fn) s = .next (s.endFlr fn) := if_pos hr

theorem exec_vfEnableClear (hon : s.pageOn 0x010 = true) : exec .vfEnableClear s = .next s.clearVfEnable := if_pos hon

theorem exec_vfEnableSet {n : Fun} (hen : s.host.link.vfEn = false) (hup : s.host.link.up = true) (hon : s.pageOn 0x010 = true) :
    exec (.vfEnableSet n) s =
      .next { s with host := { s.host with link := { s.host.link with vfEn := true, numVfs := n.val } } } := by
  change execVfEnableSet n s = _
  simp only [execVfEnableSet, hen, hup, hon, Bool.not_true, Bool.or_self, Bool.false_eq_true, if_false]

theorem exec_flrPf (hup : s.host.link.up = true) (hon : s.pageOn 0x010 = true) (hr : (s.ctrl 0).resetting = false) :
    exec .flrPf s = .next (s.beginReset 0 (s.ctrl 0).cc).clearVfEnable := by
  change execFlrPf s = _
  simp only [execFlrPf, hup, hon, hr, Bool.true_eq_false, Bool.false_eq_true, or_self, if_false]

end Sys2Proof.Machine

open Sys2Proof Sys2Proof.Machine

/-- Settles O16: each command passes its guards, and an accepted write has the effect that its bits select. -/
theorem virtualFunctionCommands : Obligations.VirtualFunctionCommands := by
  refine ⟨fun c s u f hf hn hfn ha hid h0 he hcc hr hl => ⟨_, exec_secondaryControllerOffline hf hn hfn ha hid h0 he hcc hr hl, rfl⟩,
    fun c s u f n hf hn hfn ha hid h0 he hrt hoff hnr hmax hsum hsq hcq hpool =>
      ⟨_, exec_secondaryControllerAssign hf hn hfn ha hid h0 he hrt hoff hnr hmax hsum hsq hcq hpool, rfl⟩,
    fun c s u f hf hn hfn ha hid h0 he hp => ⟨_, exec_secondaryControllerOnline hf hn hfn ha hid h0 he hp, rfl⟩,
    fun s m v d h => ⟨_, exec_vfmSelWrite h, rfl⟩,
    fun s m v d h he hoff hc hs => ⟨_, exec_apply h, applyEffect_of_free (bit_setBit_self (by decide)) he hoff hc hs⟩,
    fun s fn v d h hfull hbox h1 => ⟨_, exec_mailboxSend_vf h, vmbDbEffect_of_send (bit_setBit_self (by decide)) ?_ hfull hbox⟩,
    fun s fn v d hsel hsel' hne he h hfull h0 =>
      ⟨_, exec_mailboxAck_pf hsel h, mbdbEffect_of_ack hsel' hne he ?_ (bit_setBit_self (by decide)) hfull⟩,
    fun s m v d h => ⟨_, dpCtrlWrite_of_accepts h, rfl⟩,
    fun s m v d h => ⟨_, dpCtrlWrite_of_accepts h, rfl⟩,
    fun s fn hb => ⟨_, exec_dirtyPageCopyDone hb, rfl⟩,
    fun s fn h => ⟨_, exec_slmShareZero h, rfl⟩,
    fun s fn hne he hup hon hr => ⟨_, exec_flrVf hne he hup hon hr, rfl⟩,
    fun s fn hr => ⟨_, exec_vfResetComplete hr, rfl⟩,
    fun s hon => ⟨_, exec_vfEnableClear hon, rfl⟩,
    fun s n hen hup hon => ⟨_, exec_vfEnableSet hen hup hon, rfl⟩,
    fun s hup hon hr => ⟨_, exec_flrPf hup hon hr, rfl⟩⟩
  · rw [bit_setBit_ne (by decide) (by decide) (by decide), h1]
  · rw [bit_setBit_ne (by decide) (by decide) (by decide), h0]
end

section
/-!
The commands of the PCIe link and of the controller-side resets, each under the conditions in which it acts.
-/

namespace Sys2Proof.Machine

variable {s : State} {m : Master} {v : Word} {d : RegDef}

/-! ## The link (R76, R98, R426) -/

/-- With PERST# deasserted and the host interface ready, the link trains at one of its speeds and widths (R439). -/
theorem exec_pcieLinkUp {speed width : Nat} (hup : s.host.link.up = false) (hp : s.host.link.perst = false)
    (hr : s.start.phase = .evReady ∨ s.start.phase = .full) (hon : s.pageOn 0x010 = true) (h1 : 1 ≤ speed) (h5 : speed ≤ 5)
    (hw : width = 1 ∨ width = 2 ∨ width = 4) :
    exec (.pcieLinkUp speed width) s = .next
      ((((s.modLink fun l => { l with up := true, pm := 0, speed := speed, width := width }).setReg CLK_STAT
        (setBit (s.reg CLK_STAT) 4 true)).setReg CLK_RUN1 (s.reg CLK_RUN1 ||| 0x80)).raise 0x010 4) := by
  change execPcieLinkUp speed width s = _
  have hready : (s.start.phase == .evReady || s.start.phase == .full) = true := by
    rw [Bool.or_eq_true, beq_iff_eq, beq_iff_eq]
    exact hr
  have hwidth : (width == 1 || width == 2 || width == 4) = true := by
    obtain rfl | rfl | rfl := hw <;> rfl
  simp only [execPcieLinkUp, hup, hp, hready, hon, hwidth, h1, h5, and_self, decide_true, Bool.not_true, Bool.or_self,
    Bool.false_eq_true, if_false]
  rfl

theorem exec_pcieLinkDown : exec .pcieLinkDown s = .next s.linkDown := rfl

theorem exec_pcieL1Entry {pm : Nat} (hup : s.host.link.up = true) (h1 : 1 ≤ pm) (h3 : pm ≤ 3) :
    exec (.pcieL1Entry pm) s = .next (({ s with power := { s.power with breezeT :=
      if pm < 2 then none else if 2 ≤ s.host.link.pm then s.power.breezeT else some s.pages.dtime } } : State).modLink
        fun l => { l with pm := pm }) := by
  change execPcieL1Entry pm s = _
  simp only [execPcieL1Entry, hup, h1, h3, and_self, decide_true, Bool.not_true, Bool.or_self, Bool.false_eq_true, if_false]

/-- Outside Lull and Calm the return to L0 wakes nothing. -/
theorem exec_pcieL1Exit (hup : s.host.link.up = true) (hpm : s.host.link.pm ≠ 0) (ha : s.field? PWR_STAT 2 0 < 2) :
    exec .pcieL1Exit s =
      .next (({ s with power := { s.power with breezeT := none } } : State).modLink fun l => { l with pm := 0 }) := by
  have hgo : ¬(!s.host.link.up || s.host.link.pm == 0) = true := by
    rw [hup, beq_eq_false_iff_ne.2 hpm]
    decide
  exact (if_neg hgo).trans (congrArg _ (if_neg (not_le.2 ha)))

/-- Outside Lull and Calm a write of the PF's power state wakes nothing. -/
theorem exec_pmcsrWrite (hup : s.host.link.up = true) (hd : bits v 1 0 = 0 ∨ bits v 1 0 = 3) (ha : s.field? PWR_STAT 2 0 < 2) :
    exec (.pmcsrWrite v) s = .next (s.modCtrl 0 fun c => { c with d3hot := bits v 1 0 == 3 }) := by
  have hgo : ¬(!s.host.link.up || !(bits v 1 0 == 0 || bits v 1 0 == 3)) = true := by
    obtain h | h := hd <;> rw [hup, h] <;> decide
  exact (if_neg hgo).trans (congrArg _ (if_neg fun ⟨_, h⟩ => not_le.2 ha h))

/-! ## Controller-side resets (R443, R444) -/

theorem exec_perstAsserted (hp : s.host.link.perst = false) :
    exec .perstAsserted s = .next ((s.modLink fun l => { l with perst := true }).ctrlReset 2).linkDown := by
  change execPerstAsserted s = _
  simp only [execPerstAsserted, hp, Bool.false_eq_true, if_false]

/-- Deasserting PERST# wakes the device when PWR_WAKEEN lets it, which the change of the link leaves as it was. -/
theorem exec_perstDeasserted (hp : s.host.link.perst = true) :
    exec .perstDeasserted s = .next (if s.regBit PWR_WAKEEN 2 then (s.modLink fun l => { l with perst := false }).wakeBy 2
      else s.modLink fun l => { l with perst := false }) := by
  change execPerstDeasserted s = _
  simp only [execPerstDeasserted, hp, Bool.not_true, Bool.false_eq_true, if_false]
  rfl

theorem exec_hotReset (hup : s.host.link.up = true) : exec .hotReset s = .next (s.ctrlReset 3) := if_pos hup

/-! ## RST_CTRL (R442, R445) -/

theorem exec_ctrlrst (h : Accepts s m 0x003 0x84 (setBit v 1 true) (rstCtrlCond m (setBit v 1 true)) d) :
    exec (.ctrlrst m v) s = .next (rstCtrlEffect (setBit v 1 true) (s.arrive m)) := by
  change execCtrlrst m v s = _
  simp only [execCtrlrst, write_of_accepts h]

theorem exec_mainrst (h : Accepts s m 0x003 0x84 (setBit v 0 true) (rstCtrlCond m (setBit v 0 true)) d) :
    exec (.mainrst m v) s = .next (rstCtrlEffect (setBit v 0 true) (s.arrive m)) := by
  change execMainrst m v s = _
  simp only [execMainrst, write_of_accepts h]

/-- CTRLRST alone is a controller-side reset. -/
theorem rstCtrlEffect_of_ctrlrst (h1 : bit v 1 = true) (h0 : bit v 0 = false) : rstCtrlEffect v s = s.ctrlReset 3 := by
  simp only [rstCtrlEffect, h1, h0, Bool.false_and, Bool.false_eq_true, if_false, if_true]

/-- MAINRST alone makes the warden owe a restart while the main side is on. -/
theorem rstCtrlEffect_of_mainrst (h1 : bit v 1 = false) (h0 : bit v 0 = true) (hon : s.mainOn = true) :
    rstCtrlEffect v s = { s with start := { s.start with pendRst := some 4 } } := by
  simp only [rstCtrlEffect, h1, h0, hon, Bool.and_self, Bool.false_eq_true, if_false, if_true]

end Sys2Proof.Machine

open Sys2Proof Sys2Proof.Machine

/-- Settles O17: each command passes its guards, and of RST_CTRL the one bit that is set has its effect. -/
theorem linkCommands : Obligations.LinkCommands := by
  refine ⟨fun s speed width hup hp hr hon h1 h5 hw => ⟨_, exec_pcieLinkUp hup hp hr hon h1 h5 hw, rfl⟩,
    fun s => ⟨_, exec_pcieLinkDown, rfl⟩,
    fun s pm hup h1 h3 => ⟨_, exec_pcieL1Entry hup h1 h3, rfl⟩,
    fun s hup hpm ha => ⟨_, exec_pcieL1Exit hup hpm ha, rfl⟩,
    fun s v hup hd ha => ⟨_, exec_pmcsrWrite hup hd ha, rfl⟩,
    fun s hp => ⟨_, exec_perstAsserted hp, rfl⟩,
    fun s hp => ⟨_, exec_perstDeasserted hp, rfl⟩,
    fun s hup => ⟨_, exec_hotReset hup, rfl⟩,
    fun s m v d h h0 => ⟨_, exec_ctrlrst h, rstCtrlEffect_of_ctrlrst (bit_setBit_self (by decide)) ?_⟩,
    fun s m v d h h1 hon => ⟨_, exec_mainrst h, rstCtrlEffect_of_mainrst ?_ (bit_setBit_self (by decide)) hon⟩⟩
  · rw [bit_setBit_ne (by decide) (by decide) (by decide), h0]
  · rw [bit_setBit_ne (by decide) (by decide) (by decide), h1]
end

section
/-!
The commands that manage programs, each fetched on the admin queue, in the function's programs namespace, and past its own checks.
-/

namespace Sys2Proof.Machine

variable {c : NvmeCmd} {s u : State}

/-- A fetched command that names its function's programs namespace is handled. -/
theorem onPrograms_of_fetched {f : State → State} (hf : FetchedAdmin c s u) (hcp : u.cpOf c.fn = some c.nsid) :
    onPrograms c s f = .next (f u) :=
  (onAdmin_of_fetched hf).trans (congrArg _ (if_pos hcp))

/-! ## Programs (R103 to R106) -/

/-- The indices of the built-in programs are below those of the slots. -/
theorem isBuiltin_of_isSlot {i : Nat} (h : isSlot i = true) : isBuiltin i = false := by
  have h := of_decide_eq_true h
  exact decide_eq_false (by omega)

/-- A piece of an object is stored in a slot that is not active. -/
theorem exec_loadProgram_piece (hf : FetchedAdmin c s u) (hcp : u.cpOf c.fn = some c.nsid) (hi : isSlot (bits c.cdw10 15 0) = true)
    (ha : u.progActive c.fn (bits c.cdw10 15 0) = false) (hld : bit c.cdw10 24 = false) (hn : c.cdw12.toNat % 4 = 0)
    (ho : c.cdw13.toNat % 4 = 0) (hmax : c.cdw13.toNat + c.cdw12.toNat ≤ 294912) (hp : ptrBad c.dptr c.cdw12.toNat = none)
    (hx : c.xfer = true) (hok : u.xferOk = (true, u)) :
    exec (.loadProgram c) s = .next ((u.setSlot c.fn (bits c.cdw10 15 0) (some (storeBytes
      ((u.slotImage c.fn (bits c.cdw10 15 0)).getD []) c.cdw13.toNat (sub c.data 0 c.cdw12.toNat)))).finish c.ref stOk) := by
  have hpiece : ¬(c.cdw12.toNat % 4 ≠ 0 ∨ c.cdw13.toNat % 4 ≠ 0 ∨ 294912 < c.cdw13.toNat + c.cdw12.toNat) := by omega
  refine (onPrograms_of_fetched hf hcp).trans (congrArg _ ?_)
  simp only [hi, ha, hld, if_neg hpiece, hp, hx, hok, Bool.not_true, Bool.false_eq_true, if_false]

/-- A program that is not active is activated: a built-in one at once, an object when it is valid. -/
theorem exec_programActivationManagement_activate (hf : FetchedAdmin c s u) (hcp : u.cpOf c.fn = some c.nsid)
    (hsel : bits c.cdw10 19 16 = 1) (ha : u.progActive c.fn (bits c.cdw10 15 0) = false)
    (hi : isBuiltin (bits c.cdw10 15 0) = true ∨
      isSlot (bits c.cdw10 15 0) = true ∧ ∃ m, u.slotImage c.fn (bits c.cdw10 15 0) = some m ∧ kcoValid m = true) :
    exec (.programActivationManagement c) s = .next ((u.setActive c.fn (bits c.cdw10 15 0) true).finish c.ref stOk) := by
  refine (onPrograms_of_fetched hf hcp).trans (congrArg _ ?_)
  obtain hb | ⟨hs, m, hm, hv⟩ := hi
  · simp only [hsel, ha, hb, Bool.true_or, Bool.true_eq_false, Bool.false_eq_true, Nat.lt_irrefl, Nat.one_ne_zero, or_self, if_false,
      if_true]
  · simp only [hsel, ha, isBuiltin_of_isSlot hs, hs, hm, hv, Bool.or_true, Bool.true_eq_false, Bool.false_eq_true, Nat.lt_irrefl,
      Nat.one_ne_zero, or_self, if_false, if_true]

theorem exec_programActivationManagement_deactivate (hf : FetchedAdmin c s u) (hcp : u.cpOf c.fn = some c.nsid)
    (hsel : bits c.cdw10 19 16 = 0) (hi : (isBuiltin (bits c.cdw10 15 0) || isSlot (bits c.cdw10 15 0)) = true) :
    exec (.programActivationManagement c) s = .next ((u.setActive c.fn (bits c.cdw10 15 0) false).finish c.ref stOk) := by
  refine (onPrograms_of_fetched hf hcp).trans (congrArg _ ?_)
  simp only [hsel, hi, Nat.not_lt_zero, Bool.true_eq_false, or_self, if_false, if_true]

/-! ## Memory range sets (R107) -/

/-- A set whose descriptors all keep the table of R107 is defined. -/
theorem exec_memoryRangeSetManagement_define (hf : FetchedAdmin c s u) (hcp : u.cpOf c.fn = some c.nsid) (hsel : bits c.cdw10 3 0 = 0)
    (hi1 : 1 ≤ bits c.cdw10 31 16) (hi2 : bits c.cdw10 31 16 ≤ 32) (hn1 : 1 ≤ bits c.cdw11 7 0) (hn2 : bits c.cdw11 7 0 ≤ 16)
    (hp : ptrBad c.dptr (32 * bits c.cdw11 7 0) = none) (hx : c.xfer = true) (hok : u.xferOk = (true, u))
    (hd : ((List.range (bits c.cdw11 7 0)).all fun k => u.okDesc c.fn (sub c.data (32 * k) 32)) = true) :
    exec (.memoryRangeSetManagement c) s = .next ((u.setRanges c.fn (bits c.cdw10 31 16)
      (some ((List.range (bits c.cdw11 7 0)).map fun k => rangeDesc (sub c.data (32 * k) 32)))).finish c.ref stOk) := by
  have hset : ¬(1 < bits c.cdw10 3 0 ∨ bits c.cdw10 31 16 = 0 ∨ 32 < bits c.cdw10 31 16) := by omega
  have hdefine : bits c.cdw10 3 0 ≠ 1 := by omega
  have hcount : ¬(bits c.cdw11 7 0 = 0 ∨ 16 < bits c.cdw11 7 0) := by omega
  refine (onPrograms_of_fetched hf hcp).trans (congrArg _ ?_)
  simp only [if_neg hset, if_neg hdefine, if_neg hcount, hp, hx, hok, hd, Bool.not_true, Bool.false_eq_true, if_false, if_true]

end Sys2Proof.Machine

open Sys2Proof Sys2Proof.Machine

/-- Settles O15: each command is handled in the state that its fetch leaves, past its own checks. -/
theorem programCommands : Obligations.ProgramCommands := by
  refine ⟨?_, ?_, ?_, ?_⟩
  · rintro c s u _ hf hcp hi ha hld rfl hn ho hmax hp hx hok
    exact ⟨_, exec_loadProgram_piece hf hcp hi ha hld hn ho hmax hp hx hok, rfl⟩
  · rintro c s u _ hf hcp rfl hsel ha hi
    exact ⟨_, exec_programActivationManagement_activate hf hcp hsel ha hi, rfl⟩
  · rintro c s u _ hf hcp rfl hsel hi
    exact ⟨_, exec_programActivationManagement_deactivate hf hcp hsel hi, rfl⟩
  · rintro c s u _ _ hf hcp hsel rfl hi1 hi2 rfl hn1 hn2 hp hx hok hd
    exact ⟨_, exec_memoryRangeSetManagement_define hf hcp hsel hi1 hi2 hn1 hn2 hp hx hok hd, rfl⟩
end

section
/-!
What happens to a core from outside, each under the conditions in which it acts.
-/

namespace Sys2Proof.Machine

variable {s : State} {m : Master} {c : CellId} {v : Word} {d : RegDef}

/-! ## Interrupts, budgets and products (R142, R145, R146) -/

/-- A core at an instruction boundary that may be interrupted takes the INT trap. -/
theorem exec_interruptInput (hh : (s.cell c).run.held = false) (hs : (s.cell c).run.scrubbing = false)
    (hst : (s.cell c).run.stall = .none) (hi : (s.cell c).mayInt = true) (hl : s.irqLevel c = true) (hon : s.pageOn (celPage c) = true) :
    exec (.interruptInput c) s = .next (s.trap c 14 0 0 0 (s.cell c).pc) := by
  change execInterruptInput c s = _
  simp only [execInterruptInput, hh, hs, hst, hi, hl, hon, bne_self_eq_false, Bool.not_true, Bool.or_self, Bool.false_eq_true, if_false]

/-- Whether a built-in program runs on a cell, outside its trap handler. -/
def State.runsBuiltin (s : State) (c : CellId) : Bool :=
  s.prog.execs.any fun e => e.cell == c.val && e.step == 1 && decide (1 ≤ e.pind ∧ e.pind ≤ 10) && !trapBit (s.cell c)

/-- Whether the budget of a program ends where the core stands: it issues, or waits at a job port. -/
def State.budgetEnds (s : State) (c : CellId) : Prop :=
  (s.cell c).run.held = false ∧ (s.cell c).run.scrubbing = false ∧ pmode (s.cell c) = true ∧ (s.cell c).run.stall ≠ .input ∧
    (s.cell c).run.stall ≠ .output ∧ ((s.cell c).sp.cycBud = 0 ∨ (s.cell c).run.stall = .port ∨ s.armed (celPage c) 6 = true)

/-- A budget that is used up, or that a force ends, takes the BUDGET trap. -/
theorem exec_budgetExhausted (h : s.runsBuiltin c = true ∨ s.budgetEnds c) :
    exec (.budgetExhausted c) s = .next (((if s.armed (celPage c) 6 then s.disarm (celPage c) 6 else s).modCell c fun k =>
      k.modSp fun p => { p with cycBud := 0 }).trap c 10 0 0 0 (s.cell c).pc) := by
  refine if_neg ?_
  change ¬(!s.runsBuiltin c && _) = true
  obtain hb | ⟨hh, hs, hp, hin, hout, hend⟩ := h
  · rw [hb]
    exact Bool.false_ne_true
  · have hends : ((s.cell c).sp.cycBud == 0 || (s.cell c).run.stall == .port || s.armed (celPage c) 6) = true := by
      simpa only [Bool.or_eq_true, beq_iff_eq, or_assoc] using hend
    simp only [hh, hs, hp, beq_eq_false_iff_ne.2 hin, beq_eq_false_iff_ne.2 hout, hends, Bool.not_true, Bool.or_self, Bool.and_false,
      Bool.false_eq_true, not_false_eq_true]

theorem exec_productLands {p : Product} (hp : (s.cell c).mul = some p) (hl : p.left ≤ 1) :
    exec (.productLands c) s = .next (s.modCell c Cell.land) := by
  change execProductLands c s = _
  simp only [execProductLands, hp, if_pos hl]

/-! ## Holds and fills (R113, R138, R151, R153) -/

/-- A requested hold takes effect outside REP, or in a stall that the budget outlasts. -/
theorem exec_holdReached {a : HoldAt} (hr : (s.cell a.cell).run.holdReq = true) (hh : (s.cell a.cell).run.held = false)
    (hrep : (s.cell a.cell).inRep = true → (s.cell a.cell).run.stall ≠ .none)
    (hport : (s.cell a.cell).run.stall = .port → pmode (s.cell a.cell) = true → a.waited < (s.cell a.cell).sp.cycBud.toNat) :
    exec (.holdReached a) s =
      .next ((((s.endStall a.cell a.waited).dropLoad a.cell).modCell a.cell fun k => k.land.modRun fun r =>
        { r with held := true, stall := .none, latched := false, iterated := false, exts := [], idle := false }).raise
          (celPage a.cell) 3) := by
  refine if_neg ?_
  simp only [hr, hh, Bool.not_true, Bool.false_or, Bool.or_eq_true, Bool.and_eq_true, beq_iff_eq, decide_eq_true_eq]
  rintro (⟨hin, hnone⟩ | ⟨⟨hst, hp⟩, hle⟩)
  · exact hrep hin hnone
  · exact not_le.2 (hport hst hp) hle

theorem exec_fillComplete (h : (s.cell c).run.scrubbing = true) : exec (.fillComplete c) s = .next (s.fillCell c) := by
  change execFillComplete c s = _
  simp only [execFillComplete, h, Bool.not_true, Bool.false_eq_true, if_false]

theorem exec_celHoldWrite (h : Accepts s m (celPage c) 0x80 (setBit v 2 false) (scrubCond m c (setBit v 2 false)) d) :
    exec (.celHoldWrite m c v) s = .next (celCtrlEffect c (setBit v 2 false) (s.arrive m)) := by
  change execCelHoldWrite m c v s = _
  rw [execCelHoldWrite, write_of_accepts h]

theorem exec_scrub
    (h : Accepts s m (celPage c) 0x80 (setBit (setBit v 2 true) 0 true) (scrubCond m c (setBit (setBit v 2 true) 0 true)) d) :
    exec (.scrub m c v) s = .next (celCtrlEffect c (setBit (setBit v 2 true) 0 true) (s.arrive m)) := by
  change execScrub m c v s = _
  rw [execScrub, write_of_accepts h]

/-! ## The windows of the CEL page (R124, R152) -/

section Windows

variable {page off : Nat} {cond : Word → State → Option State} {wr : Word → State → State} {rd : State → Word × State}

theorem windowAccess_of_accepts (h : Accepts s m page off v (cond v) d) :
    windowAccess m page off (some v) cond wr rd s = .next (wr v (s.arrive m)) := by
  simp only [windowAccess, write_of_accepts h]

theorem windowAccess_of_reaches (h : Reaches s m page off d) :
    windowAccess m page off none cond wr rd s = .next ((rd s).2.answerRead m page (rd s).1) := by
  simp only [windowAccess, checkAccess_of_reaches h]

end Windows

theorem exec_celImdataAccess (w : Option Word) : exec (.celImdataAccess m c w) s =
    windowAccess m (celPage c) 0xA4 w (heldCond m c 0xA4) (imWrite c) (imRead c) s := rfl

theorem exec_celDmdataAccess (w : Option Word) : exec (.celDmdataAccess m c w) s =
    windowAccess m (celPage c) 0xB8 w (dmCond m c) (dmWrite c) (dmRead c) s := rfl

theorem exec_celRvalAccess (w : Option Word) : exec (.celRvalAccess m c w) s =
    windowAccess m (celPage c) 0xC8 w (rvalCond m c) (rvalWrite c) (rvalRead c) s := rfl

/-! ## Stalls (R128, R153) -/

/-- What a cell executes does not depend on the counters or on the cells. -/
theorem execOn_count_modCell {page slot n : Nat} {f : Cell → Cell} : ((s.count page slot n).modCell c f).execOn c = s.execOn c := by
  simp only [State.execOn, State.modCell_prog, State.count_prog]

/-- A stalled load of a cell without an execution proceeds; its cycles count in STALL_IN. -/
theorem exec_streamStallEnd_input {n : Nat} (hst : (s.cell c).run.stall = .input) (he : s.execOn c = none) :
    exec (.streamStallEnd c n) s = .next ((s.count (celPage c) 5 n).modCell c fun k => k.modRun fun r => { r with stall := .none }) := by
  change execStreamStallEnd c n s = _
  simp only [execStreamStallEnd, hst, execOn_count_modCell, he]

end Sys2Proof.Machine

open Sys2Proof Sys2Proof.Machine

/-- Settles O24: each event passes its guards, and an accepted access of a window has the window's effect. -/
theorem cellEvents : Obligations.CellEvents := by
  refine ⟨?_, ?_, fun s c p hp hl => ⟨_, exec_productLands hp hl, rfl⟩, ?_,
    fun s c h => ⟨_, exec_fillComplete h, rfl⟩,
    fun s m c v d h => ⟨_, exec_celHoldWrite h, rfl⟩,
    fun s m c v d h => ⟨_, exec_scrub h, rfl⟩,
    fun s m c v d h => ⟨_, (exec_celImdataAccess _).trans (windowAccess_of_accepts h), rfl⟩,
    fun s m c v d h => ⟨_, (exec_celDmdataAccess _).trans (windowAccess_of_accepts h), rfl⟩,
    fun s m c v d h => ⟨_, (exec_celRvalAccess _).trans (windowAccess_of_accepts h), rfl⟩,
    fun s m c d h => ⟨_, (exec_celImdataAccess _).trans (windowAccess_of_reaches h), rfl⟩,
    fun s m c d h => ⟨_, (exec_celDmdataAccess _).trans (windowAccess_of_reaches h), rfl⟩,
    fun s m c d h => ⟨_, (exec_celRvalAccess _).trans (windowAccess_of_reaches h), rfl⟩,
    fun s c n hst he => ⟨_, exec_streamStallEnd_input hst he, rfl⟩⟩
  · rintro s c _ rfl hh hs hst hi hl hon
    exact ⟨_, exec_interruptInput hh hs hst hi hl hon, rfl⟩
  · rintro s c _ rfl h
    exact ⟨_, exec_budgetExhausted h, rfl⟩
  · rintro s c _ rfl hr hh hrep hport
    exact ⟨_, exec_holdReached hr hh hrep hport, rfl⟩
end

section
/-!
The two-register instructions of the cells: which pairs of tags each form admits, and what each form then answers.
-/

namespace Sys2Proof.Machine

variable {s u : State} {i : Iss} {c : CellId} {rd rs : Reg} {a b : TWord}

/-! ## The tags that the forms admit (R160, R162) -/

theorem tags_add : ∀ t v : BitVec 4, isNum t = true ∧ v = t ∨ t = tTime ∧ v = tInt ∨ t = tInt ∧ v = tTime →
    t ≠ tPoison ∧ v ≠ tPoison ∧ (isNum t || t == tTime) = true ∧
      (if t = tTime then v == tInt else v == t || (t == tInt && v == tTime)) = true := by decide

theorem tags_sub : ∀ t v : BitVec 4, isNum t = true ∧ v = t ∨ t = tTime ∧ v = tInt ∨ t = tTime ∧ v = tTime →
    t ≠ tPoison ∧ v ≠ tPoison ∧ (isNum t || t == tTime) = true ∧
      (if t = tTime then v == tInt || v == tTime else v == t) = true := by decide

/-- Two equal tags of a list that leaves POISON out. -/
theorem tags_equal {ok : BitVec 4 → Bool} {t v : BitVec 4} (hok : ∀ t, ok t = true → t ≠ tPoison) (h : ok t = true ∧ v = t) :
    t ≠ tPoison ∧ v ≠ tPoison ∧ ok t = true ∧ (v == t) = true := by
  obtain ⟨h, rfl⟩ := h
  exact ⟨hok _ h, hok _ h, h, beq_self_eq_true v⟩

/-- The tags that CMP admits. -/
def isCmp (t : BitVec 4) : Bool := isNum t || t == tBytes || t == tPtr || t == tTime

theorem isCmp_ne : ∀ t : BitVec 4, isCmp t = true → t ≠ tPoison := by decide

theorem isCmp_iff : ∀ t : BitVec 4, isCmp t = true ↔ isNum t = true ∨ t = tBytes ∨ t = tPtr ∨ t = tTime := by decide

/-! ## The forms -/

/-- Two operands of the same one of the listed tags let the instruction go on. -/
theorem needEq_ok {ok : BitVec 4 → Bool} {k : Body} (hok : ∀ t, ok t = true → t ≠ tPoison) (h : ok a.tag = true ∧ b.tag = a.tag) :
    needEq a b ok k = k := need2_ok (tags_equal hok h)

theorem logic2_ok {f : Word → Word → Word} (ha : (u.cell c).reg rd = a) (hb : (u.cell c).reg rs = b)
    (h : isLogic a.tag = true ∧ b.tag = a.tag) :
    logic2 c rd rs f u = .done (u.result c rd ⟨a.tag, f a.val b.val⟩ (setZN00 (u.cell c).sp.flags (f a.val b.val))) := by
  obtain ⟨hp, hq, hl, he⟩ := tags_equal isLogic_ne h
  exact alu2_ok ha hb ⟨hp, hq, hl, beq_iff_eq.2 (eq_of_beq he).symm⟩

theorem shift2_ok {f : Word → Nat → Word × Bool} (ha : (u.cell c).reg rd = a) (hb : (u.cell c).reg rs = b)
    (h : isNum a.tag = true ∧ isIdx b.tag = true) :
    shift2 c rd rs f u = .done (u.result c rd ⟨a.tag, (f a.val b.val.toNat).1⟩
      (shiftFlags (u.cell c).sp.flags (f a.val b.val.toNat).1 (f a.val b.val.toNat).2)) :=
  alu2_ok ha hb ⟨isNum_ne _ h.1, isIdx_ne _ h.2, h⟩

/-- A value that needs no clamping stays. -/
theorem clampTo_of_inside {t : BitVec 4} {v : Int} (h : (clampTo t v).2 = false) : (clampTo t v).1 = BitVec.ofInt 32 v := by
  revert h
  unfold clampTo
  dsimp only
  generalize (if t = tUns then (0 : Int) else -2147483648) = lo
  generalize (if t = tUns then (4294967295 : Int) else 2147483647) = hi
  split
  · exact fun h => nomatch h
  · split
    · exact fun h => nomatch h
    · exact fun _ => rfl

section Saturating

variable {op : Int → Int → Int} {plain : BitVec 6 → Word → Word → BitVec 6}

theorem satBody_of_inside (ha : (u.cell c).reg rd = a) (hb : (u.cell c).reg rs = b) (ht : isNum a.tag = true ∧ b.tag = a.tag)
    (hr : (clampTo a.tag (op (intOf a) (intOf b))).2 = false) :
    satBody c rd rs op plain u = .done (u.result c rd ⟨a.tag, BitVec.ofInt 32 (op (intOf a) (intOf b))⟩
      (setZNCV (u.cell c).sp.flags (BitVec.ofInt 32 (op (intOf a) (intOf b)) == 0) (BitVec.ofInt 32 (op (intOf a) (intOf b))).msb
        ((plain (u.cell c).sp.flags a.val b.val).getLsbD 2) ((plain (u.cell c).sp.flags a.val b.val).getLsbD 3))) := by
  subst ha hb
  simp only [satBody, needEq_ok isNum_ne ht, satFlags, hr, clampTo_of_inside hr, Bool.false_eq_true, if_false]

/-- A result outside the range is clamped, with S and V set and a free C (R162). -/
theorem satBody_of_outside (ha : (u.cell c).reg rd = a) (hb : (u.cell c).reg rs = b) (ht : isNum a.tag = true ∧ b.tag = a.tag)
    (hr : (clampTo a.tag (op (intOf a) (intOf b))).2 = true) :
    satBody c rd rs op plain u = .done (u.free.2.result c rd ⟨a.tag, (clampTo a.tag (op (intOf a) (intOf b))).1⟩
      (setSV (setZNCV (u.cell c).sp.flags ((clampTo a.tag (op (intOf a) (intOf b))).1 == 0)
        (clampTo a.tag (op (intOf a) (intOf b))).1.msb (u.free.1.getLsbD 0) true))) := by
  subst ha hb
  simp only [satBody, needEq_ok isNum_ne ht, satFlags, hr, if_true]

end Saturating

/-! ## Multiplication and comparison (R142, R162) -/

theorem exec_mul (h : Issues s i (opWord 0x3 2 rd rs) u) (hc : Affords s i 1) (ha : (u.cell i.cell).reg rd = a)
    (hb : (u.cell i.cell).reg rs = b) (ht : isNum a.tag = true ∧ b.tag = a.tag) :
    exec (.mul i rd rs) s = .next ((u.modCell i.cell fun k => { k with mul := some (productOf a b) }).issued s i 1 none) := by
  subst ha hb
  change execMul i rd rs s = _
  refine issue_of_issues h ?_ hc
  exact needEq_ok isNum_ne ht

theorem exec_cmp (h : Issues s i (opWord 0x3 3 rd rs) u) (hc : Affords s i 1) (ha : (u.cell i.cell).reg rd = a)
    (hb : (u.cell i.cell).reg rs = b) (ht : isCmp a.tag = true ∧ b.tag = a.tag) :
    exec (.cmp i rd rs) s = .next ((u.setFlags i.cell (cmpFlags (u.cell i.cell).sp.flags a.tag a.val b.val)).issued s i 1 none) := by
  subst ha hb
  change execCmp i rd rs s = _
  refine issue_of_issues h ?_ hc
  exact needEq_ok isCmp_ne ht

end Sys2Proof.Machine

open Sys2Proof Sys2Proof.Machine

/-- Settles O18: the operands pass the tag rule of the instruction's form, which then writes its result and FLAGS. -/
theorem cellArithmetic : Obligations.CellArithmetic := by
  refine ⟨?_, ?_, ?_, ?_, ?_, ?_, ?_, ?_, ?_, ?_, ?_, ?_, ?_, ?_⟩
  · exact fun i rd rs s u a b h hc ha hb ht => does_of_issues rfl h hc (alu2_ok ha hb (tags_add _ _ ht)) rfl
  · exact fun i rd rs s u a b h hc ha hb ht => does_of_issues rfl h hc (alu2_ok ha hb (tags_sub _ _ ht)) rfl
  · exact fun i rd rs s u a b h hc ha hb ht => does_of_issues rfl h hc (logic2_ok ha hb ht) rfl
  · exact fun i rd rs s u a b h hc ha hb ht => does_of_issues rfl h hc (logic2_ok ha hb ht) rfl
  · exact fun i rd rs s u a b h hc ha hb ht => does_of_issues rfl h hc (logic2_ok ha hb ht) rfl
  · exact fun i rd rs s u a b h hc ha hb ht => does_of_issues rfl h hc (shift2_ok ha hb ht) rfl
  · exact fun i rd rs s u a b h hc ha hb ht => does_of_issues rfl h hc (shift2_ok ha hb ht) rfl
  · exact fun i rd rs s u a b h hc ha hb ht => does_of_issues rfl h hc (shift2_ok ha hb ht) rfl
  · exact fun i rd rs s u a b h hc ha hb ht hr => does_of_issues rfl h hc (satBody_of_inside ha hb ht hr) rfl
  · exact fun i rd rs s u a b h hc ha hb ht hr => does_of_issues rfl h hc (satBody_of_outside ha hb ht hr) ⟨_, rfl⟩
  · exact fun i rd rs s u a b h hc ha hb ht hr => does_of_issues rfl h hc (satBody_of_inside ha hb ht hr) rfl
  · exact fun i rd rs s u a b h hc ha hb ht hr => does_of_issues rfl h hc (satBody_of_outside ha hb ht hr) ⟨_, rfl⟩
  · exact fun i rd rs s u a b h hc ha hb ht => ⟨_, exec_mul h hc ha hb ht, rfl⟩
  · exact fun i rd rs s u a b h hc ha hb ht => ⟨_, exec_cmp h hc ha hb ⟨(isCmp_iff _).2 ht.1, ht.2⟩, rfl⟩
end

section
/-!
The instructions of the cells with an immediate, and those that move a word, a tag or a special register.
-/

namespace Sys2Proof.Machine

variable {s u : State} {i : Iss} {rd rs : Reg} {a b : TWord}

/-! ## Immediates (R160) -/

theorem tags_addi : ∀ t : BitVec 4, isNum t = true ∨ t = tTime → t ≠ tPoison ∧ (isNum t || t == tTime) = true := by decide

theorem tags_cmpi : ∀ t : BitVec 4, isNum t = true ∨ t = tBytes ∨ t = tTime →
    t ≠ tPoison ∧ (isNum t || t == tBytes || t == tTime) = true := by decide

theorem tags_andi : ∀ t : BitVec 4, isNum t = true ∨ t = tBytes → t ≠ tPoison ∧ (isNum t || t == tBytes) = true := by decide

theorem exec_cmpi {im : BitVec 4} (h : Issues s i (opWord 0x6 1 rd im) u) (hc : Affords s i 1) (ha : (u.cell i.cell).reg rd = a)
    (ht : isNum a.tag = true ∨ a.tag = tBytes ∨ a.tag = tTime) :
    exec (.cmpi i rd im) s = .next ((u.setFlags i.cell
      (cmpFlags (u.cell i.cell).sp.flags a.tag a.val (immValue (opWord 0x6 1 rd im) i.ext))).issued s i 1 none) := by
  subst ha
  change execCmpi i rd im s = _
  dsimp only [execCmpi]
  refine issue_of_issues h ?_ hc
  exact need_ok (tags_cmpi _ ht)

theorem exec_li {tg : BitVec 2} {im : BitVec 4} (h : Issues s i (opWord 0x5 tg rd im) u) (hc : Affords s i 1) :
    exec (.li i tg rd im) s = .next ((u.setW i.cell rd ⟨liTag tg, immValue (opWord 0x5 tg rd im) i.ext⟩).issued s i 1 none) := by
  change execLi i tg rd im s = _
  dsimp only [execLi]
  refine issue_of_issues h ?_ hc
  rfl

/-! ## Moves (R134, R137, R163) -/

/-- A word that a program may move: not POISON, and RETADR in firmware mode only. -/
theorem movable_of {k : Cell} {t : BitVec 4} (hp : t ≠ tPoison) (hr : t = tRetadr → pmode k = false) : movable k t = true := by
  simp only [movable, Bool.and_eq_true, Bool.or_eq_true, bne_iff_ne, Bool.not_eq_true']
  exact ⟨hp, Classical.or_iff_not_imp_left.2 fun h => hr (not_not.1 h)⟩

theorem exec_mov (h : Issues s i (opWord 0x4 0 rd rs) u) (hc : Affords s i 1) (ha : (u.cell i.cell).reg rs = a) (hp : a.tag ≠ tPoison)
    (hr : a.tag = tRetadr → pmode (u.cell i.cell) = false) :
    exec (.mov i rd rs) s = .next ((u.setW i.cell rd a).issued s i 1 none) := by
  subst ha
  change execMov i rd rs s = _
  refine issue_of_issues h ?_ hc
  exact need_ok ⟨hp, movable_of hp hr⟩

theorem exec_narrow (h : Issues s i (opWord 0x4 1 rd rs) u) (hc : Affords s i 1) (ha : (u.cell i.cell).reg rd = a)
    (hb : (u.cell i.cell).reg rs = b) (ht : a.tag = tPtr ∧ isIdx b.tag = true)
    (hl : ptrBase a.val + bits b.val 15 0 + bits b.val 31 16 ≤ ptrLimit a.val) :
    exec (.narrow i rd rs) s = .next ((u.setW i.cell rd ⟨tPtr, BitVec.ofNat 32
      ((ptrBase a.val + bits b.val 15 0 + bits b.val 31 16) * 65536 + (ptrBase a.val + bits b.val 15 0))⟩).issued s i 1 none) := by
  subst ha hb
  change execNarrow i rd rs s = _
  refine issue_of_issues h ?_ hc
  have hp : ∀ t : BitVec 4, t = tPtr → t ≠ tPoison := by decide
  exact (need2_ok (okA := (· == tPtr)) ⟨hp _ ht.1, isIdx_ne _ ht.2, beq_iff_eq.2 ht.1, ht.2⟩).trans (if_neg (not_lt.2 hl))

theorem tags_beql : ∀ t v : BitVec 4, t = tBytes ∧ v = tBytes →
    t ≠ tPoison ∧ v ≠ tPoison ∧ (t == tBytes) = true ∧ (v == tBytes) = true := by decide

theorem exec_retag (h : Issues s i (opWord 0xB 3 rd rs) u) (hc : Affords s i 1) (ha : (u.cell i.cell).reg rd = a)
    (hb : (u.cell i.cell).reg rs = b) (hp : a.tag ≠ tPoison) (ht : b.tag = tUns) (hr : retagRsvd b.val a.val = false)
    (hm : pmode (u.cell i.cell) = false) :
    exec (.retag i rd rs) s = .next ((u.setW i.cell rd ⟨b.val.setWidth 4, a.val⟩).issued s i 1 none) := by
  subst ha hb
  change execRetag i rd rs s = _
  dsimp only [execRetag]
  refine issue_of_issues h ?_ hc
  have hq : ((u.cell i.cell).reg rs).tag ≠ tPoison := by rw [ht]; decide
  simp only [hr, hm, Bool.false_eq_true, and_false, if_false]
  exact need2_ok ⟨hp, hq, rfl, beq_iff_eq.2 ht⟩

/-! ## Special registers (R139, R144) -/

theorem exec_movs {sp : Reg} (h : Issues s i (opWord 0xB 0 rd sp) u) (hc : Affords s i 1) :
    exec (.movs i rd sp) s = .next ((u.setW i.cell rd (readSpecial (u.cell i.cell)
      ((u.cell i.cell).pc + BitVec.ofNat 14 (u.cell i.cell).run.latched.toNat) sp.toNat)).issued s i 1 none) := by
  change execMovs i rd sp s = _
  refine issue_of_issues h ?_ hc
  rfl

theorem exec_sets {sp : Reg} (h : Issues s i (opWord 0xB 1 sp rs) u) (hc : Affords s i 1) (ha : (u.cell i.cell).reg rs = a)
    (hp : setsPriv i.cell (u.cell i.cell) sp.toNat a = false) (ht : isIdx a.tag = true ∨ (sp = 4 ∨ sp = 5) ∧ a.tag = tFix) :
    exec (.sets i sp rs) s = .next ((u.modCell i.cell fun k => k.modSp fun p => writeSpecial p sp.toNat a).issued s i 1 none) := by
  subst ha
  change execSets i sp rs s = _
  refine issue_of_issues h ?_ hc
  have hok : ∀ (t : BitVec 4) (n : Reg), isIdx t = true ∨ (n = 4 ∨ n = 5) ∧ t = tFix →
      t ≠ tPoison ∧ (isIdx t || ((n.toNat == 4 || n.toNat == 5) && t == tFix)) = true := by decide
  exact (if_neg (Bool.eq_false_iff.1 hp)).trans (need_ok (hok _ sp ht))

end Sys2Proof.Machine

open Sys2Proof Sys2Proof.Machine

/-- Settles O19: the operand passes the instruction's rule and the word is combined, compared or stored. -/
theorem cellImmediatesAndMoves : Obligations.CellImmediatesAndMoves := by
  refine ⟨?_, ?_, ?_, ?_, ?_, ?_, ?_, ?_, ?_, ?_, ?_⟩
  · exact fun i rd im s u a h hc ha ht => does_of_issues rfl h hc (alu1_ok ha (tags_addi _ ht)) rfl
  · exact fun i rd im s u a h hc ha ht => ⟨_, exec_cmpi h hc ha ht, rfl⟩
  · exact fun i rd im s u a h hc ha ht => does_of_issues rfl h hc (alu1_ok ha (tags_andi _ ht)) rfl
  · exact fun i rd im s u a h hc ha ht => does_of_issues rfl h hc (alu1_ok ha (tags_andi _ ht)) rfl
  · exact fun i tg rd im s u h hc => ⟨_, exec_li h hc, rfl⟩
  · exact fun i rd rs s u a h hc ha hp hr => ⟨_, exec_mov h hc ha hp hr, rfl⟩
  · exact fun i rd rs s u a b h hc ha hb ht hl => ⟨_, exec_narrow h hc ha hb ht hl, rfl⟩
  · exact fun i rd rs s u a b h hc ha hb ht => does_of_issues rfl h hc (alu2_ok ha hb (tags_beql _ _ ht)) rfl
  · exact fun i rd rs s u a b h hc ha hb ht hr hm => ⟨_, exec_retag h hc ha hb ht.1 ht.2 hr hm, rfl⟩
  · exact fun i rd sp s u h hc => ⟨_, exec_movs h hc, rfl⟩
  · exact fun i sp rs s u a h hc ha hp ht => ⟨_, exec_sets h hc ha hp ht, rfl⟩
end

section
/-!
Loads, stores, the stack and calls of the cells: the word that a load delivers, the store that its guard lets through, and the address that a
push takes.
-/

namespace Sys2Proof.Machine

variable {s u v : State} {i : Iss} {c : CellId} {r rd rs rp : Reg} {hi : Bool} {p x w : TWord} {y : Option TWord} {a : Nat}

/-! ## Data memory (R134, R135, R137, R165) -/

/-- The word that a load has read may go to a register: none that is uncorrectable is refused, POISON is, and RETADR in program mode. -/
def Deliverable (k : Cell) (y : Option TWord) : Prop := ∀ x, y = some x → x.tag ≠ tPoison ∧ (x.tag = tRetadr → pmode k = false)

/-- A store of a word that may move, to an address in range whose word is not guarded, is done. -/
theorem storeFrom_ok {ok : Bool} {det : Nat} (hp : w.tag ≠ tPoison) (hm : movable (u.cell c) w.tag = true) (hok : ok = true)
    (hg : guarded c u a = false) : storeFrom c w ok det a u = .done (u.writeDm c a w) := by
  subst hok
  refine (need_ok ⟨hp, hm⟩).trans ?_
  simp only [hg, Bool.and_false, Bool.not_true, Bool.false_eq_true, if_false]

theorem exec_ld {im : BitVec 5} {z : IWord} (hz : z = majorWord 0x7 ((0 : BitVec 1) ++ rd ++ im)) (h : Issues s i z u)
    (hc : Affords s i 1) (ha : a = (immValue z i.ext).toNat) (hl : a ≤ 32767) (hd : u.decodeDm i.cell a = (y, v))
    (hy : Deliverable (u.cell i.cell) y) :
    exec (.ld i rd im) s = .next ((v.setW i.cell rd (y.getD ⟨tPoison, 0⟩)).issued s i 1 none) := by
  subst hz ha
  change execLd i rd im s = _
  dsimp only [execLd]
  refine issue_of_issues h ?_ hc
  exact (if_neg (not_lt.2 hl)).trans (loadInto_ok hd hy)

theorem exec_st {im : BitVec 5} {z : IWord} (hz : z = majorWord 0x7 ((1 : BitVec 1) ++ rs ++ im)) (h : Issues s i z u)
    (hc : Affords s i 1) (ha : a = (immValue z i.ext).toNat) (hl : a ≤ 32767) (hw : (u.cell i.cell).reg rs = w)
    (hp : w.tag ≠ tPoison) (hm : movable (u.cell i.cell) w.tag = true) (hg : guarded i.cell u a = false) :
    exec (.st i rs im) s = .next ((u.writeDm i.cell a w).issued s i 1 none) := by
  subst hz ha hw
  change execSt i rs im s = _
  dsimp only [execSt]
  refine issue_of_issues h ?_ hc
  exact storeFrom_ok hp hm (decide_eq_true hl) hg

/-- A PTR and its index are admitted as operands. -/
theorem tags_ptr : ∀ t v : BitVec 4, t = tPtr ∧ isIdx v = true →
    t ≠ tPoison ∧ v ≠ tPoison ∧ (t == tPtr) = true ∧ isIdx v = true := by decide

theorem exec_ldx (h : Issues s i (majorWord 0x8 ((0 : BitVec 1) ++ rd ++ rp ++ bitOf hi)) u) (hc : Affords s i 1)
    (hp : (u.cell i.cell).reg rp = p) (hx : (u.cell i.cell).reg (idxReg hi) = x) (ht : p.tag = tPtr ∧ isIdx x.tag = true)
    (ha : ptrAddr p x = some a) (hd : u.decodeDm i.cell a = (y, v)) (hy : Deliverable (u.cell i.cell) y) :
    exec (.ldx i rd rp hi) s = .next ((v.setW i.cell rd (y.getD ⟨tPoison, 0⟩)).issued s i 1 none) := by
  subst hp hx
  change execLdx i rd rp hi s = _
  refine issue_of_issues h ?_ hc
  simp only [ha]
  exact (need2_ok (okA := (· == tPtr)) (tags_ptr _ _ ht)).trans (loadInto_ok hd hy)

theorem exec_stx (h : Issues s i (majorWord 0x8 ((1 : BitVec 1) ++ rs ++ rp ++ bitOf hi)) u) (hc : Affords s i 1)
    (hw : (u.cell i.cell).reg rs = w) (hp : (u.cell i.cell).reg rp = p) (hx : (u.cell i.cell).reg (idxReg hi) = x)
    (hwp : w.tag ≠ tPoison) (hm : movable (u.cell i.cell) w.tag = true) (ht : p.tag = tPtr ∧ isIdx x.tag = true)
    (ha : ptrAddr p x = some a) (hg : guarded i.cell u a = false) :
    exec (.stx i rs rp hi) s = .next ((u.writeDm i.cell a w).issued s i 1 none) := by
  subst hw hp hx
  change execStx i rs rp hi s = _
  refine issue_of_issues h ?_ hc
  have h2 := isIdx_ne _ ht.2
  simp only [hwp, h2, hm, ht.1, ht.2, ha, if_false, reduceCtorEq, ne_eq, not_true_eq_false]
  exact storeFrom_ok hwp hm rfl hg

/-! ## The stack (R141, R166) -/

theorem exec_push (h : Issues s i (sysWord 0x08 r) u) (hc : Affords s i 1) (hp : ((u.cell i.cell).reg r).tag ≠ tPoison)
    (hm : movable (u.cell i.cell) ((u.cell i.cell).reg r).tag = true) (ha : pushAddr (u.cell i.cell) = some a)
    (hg : guarded i.cell u a = false) :
    exec (.push i r) s = .next ((u.push i.cell a ((u.cell i.cell).reg r)).issued s i 1 none) := by
  change execPush i r s = _
  refine issue_of_issues h ?_ hc
  simp only [ha, hg, Bool.false_eq_true, if_false]
  exact need_ok ⟨hp, hm⟩

theorem exec_pop (h : Issues s i (sysWord 0x09 r) u) (hc : Affords s i 1) (hs : (u.cell i.cell).sp.sp.toNat < 32768)
    (hd : u.decodeDm i.cell (u.cell i.cell).sp.sp.toNat = (y, v)) (hy : Deliverable (u.cell i.cell) y) :
    exec (.pop i r) s = .next (((v.setW i.cell r (y.getD ⟨tPoison, 0⟩)).popped i.cell).issued s i 1 none) := by
  change execPop i r s = _
  refine issue_of_issues h ?_ hc
  exact (if_neg (not_le.2 hs)).trans (loadInto_ok hd hy)

/-! ## Calls and returns (R141, R172) -/

theorem exec_ret (h : Issues s i (sysWord 0x05 0) u) (hc : Affords s i 2) (hs : (u.cell i.cell).sp.sp.toNat < 32768)
    (hd : u.readDm i.cell (u.cell i.cell).sp.sp.toNat = (w, v)) (ht : w.tag = tRetadr) :
    exec (.ret i) s = .next ((v.popped i.cell).issued s i 2 (some (w.val.setWidth 14))) := by
  change execRet i s = _
  refine issue_of_issues h ?_ hc
  have hp : tRetadr ≠ tPoison := by decide
  simp only [not_le.2 hs, hd, ht, hp, if_false, if_true]

/-- A call with room on the stack pushes the word after it. -/
theorem callBody_ok {target : BitVec 14} (ha : pushAddr (u.cell i.cell) = some a) :
    callBody i target u =
      .ok (u.push i.cell a (retadr ((u.cell i.cell).pc + BitVec.ofNat 14 (i.ext.length + 1)))) 2 (some target) := by
  simp only [callBody, ha]

theorem exec_call {target : BitVec 9} {z : IWord} (hz : z = majorWord 0xD ((1 : BitVec 1) ++ target)) (h : Issues s i z u)
    (hc : Affords s i 2) (ha : pushAddr (u.cell i.cell) = some a) :
    exec (.call i target) s = .next ((u.push i.cell a (retadr ((u.cell i.cell).pc + BitVec.ofNat 14 (i.ext.length + 1)))).issued s i 2
      (some ((immValue z i.ext).setWidth 14))) := by
  subst hz
  exact issue_of_issues h (callBody_ok ha) hc

/-- A register that names a word of instruction memory is a target. -/
theorem targetReg_ok {k : BitVec 14 → Body} (hx : (u.cell c).reg r = x) (ht : isIdx x.tag = true) (hl : x.val.toNat ≤ 16383) :
    targetReg c r u k = k (x.val.setWidth 14) := by
  subst hx
  exact (need_ok ⟨isIdx_ne _ ht, ht⟩).trans (if_neg (not_lt.2 hl))

theorem exec_callr (h : Issues s i (sysWord 0x0B r) u) (hc : Affords s i 2) (hx : (u.cell i.cell).reg r = x) (ht : isIdx x.tag = true)
    (hl : x.val.toNat ≤ 16383) (ha : pushAddr (u.cell i.cell) = some a) :
    exec (.callr i r) s = .next ((u.push i.cell a (retadr ((u.cell i.cell).pc + BitVec.ofNat 14 (i.ext.length + 1)))).issued s i 2
      (some (x.val.setWidth 14))) := by
  change execCallr i r s = _
  exact issue_of_issues h ((targetReg_ok hx ht hl).trans (callBody_ok ha)) hc

end Sys2Proof.Machine

open Sys2Proof Sys2Proof.Machine

/-- Settles O21: the address passes its checks, and the word is delivered or stored. -/
theorem cellMemoryAndStack : Obligations.CellMemoryAndStack := by
  refine ⟨?_, ?_, ?_, ?_, ?_, ?_, ?_, ?_, ?_⟩
  · exact fun i rd im s u v a w h hc ha hl hd hy => ⟨_, exec_ld rfl h hc ha hl hd hy, rfl⟩
  · exact fun i rs im s u a w h hc ha hl hw hp hm hg => ⟨_, exec_st rfl h hc ha hl hw hp hm hg, rfl⟩
  · exact fun i rd rp hi s u v p x a w h hc hp hx ht ha hd hy => ⟨_, exec_ldx h hc hp hx ht ha hd hy, rfl⟩
  · exact fun i rs rp hi s u p x a w h hc hw hp hx hwp hm ht ha hg => ⟨_, exec_stx h hc hw hp hx hwp hm ht ha hg, rfl⟩
  · exact fun i r s u a h hc hp hm ha hg => ⟨_, exec_push h hc hp hm ha hg, rfl⟩
  · exact fun i r s u v w h hc hs hd hy => ⟨_, exec_pop h hc hs hd hy, rfl⟩
  · exact fun i s u v w h hc hs hd ht => ⟨_, exec_ret h hc hs hd ht, rfl⟩
  · exact fun i target s u a h hc ha => ⟨_, exec_call rfl h hc ha, rfl⟩
  · exact fun i r s u a x h hc hx ht hl ha => ⟨_, exec_callr h hc hx ht hl ha, rfl⟩
end

section
/-!
Control transfer of the cells: branches, jumps, the returns, traps and waits that a program asks for, the repeats, and the encodings that
raise a trap by themselves.
-/

namespace Sys2Proof.Machine

variable {s u v : State} {i : Iss} {r : Reg} {x : TWord} {w : IWord}

/-! ## Branches and jumps (R161, R172) -/

theorem exec_b_taken {c : Fin 15} {off : BitVec 6} (hw : w = majorWord 0xC (BitVec.ofNat 4 c.val ++ off)) (h : Issues s i w u)
    (hb : condHolds (u.cell i.cell).sp.flags c.val = true) (hc : Affords s i 2) :
    exec (.b i c off) s = .next (u.issued s i 2 (some ((u.cell i.cell).pc + BitVec.ofNat 14 (i.ext.length + 1) +
      (immValue w i.ext).setWidth 14))) := by
  subst hw
  change execB i c off s = _
  dsimp only [execB]
  refine issue_of_issues h ?_ hc
  exact if_pos hb

theorem exec_b_not_taken {c : Fin 15} {off : BitVec 6} (hw : w = majorWord 0xC (BitVec.ofNat 4 c.val ++ off)) (h : Issues s i w u)
    (hb : condHolds (u.cell i.cell).sp.flags c.val = false) (hc : Affords s i 1) :
    exec (.b i c off) s = .next (u.issued s i 1 none) := by
  subst hw
  change execB i c off s = _
  dsimp only [execB]
  refine issue_of_issues h ?_ hc
  exact if_neg (Bool.eq_false_iff.1 hb)

theorem exec_jmp {target : BitVec 9} (hw : w = majorWord 0xD ((0 : BitVec 1) ++ target)) (h : Issues s i w u) (hc : Affords s i 2) :
    exec (.jmp i target) s = .next (u.issued s i 2 (some ((immValue w i.ext).setWidth 14))) := by
  subst hw
  change execJmp i target s = _
  dsimp only [execJmp]
  refine issue_of_issues h ?_ hc
  rfl

theorem exec_jr (h : Issues s i (sysWord 0x0A r) u) (hc : Affords s i 2) (hx : (u.cell i.cell).reg r = x) (ht : isIdx x.tag = true)
    (hl : x.val.toNat ≤ 16383) : exec (.jr i r) s = .next (u.issued s i 2 (some (x.val.setWidth 14))) := by
  change execJr i r s = _
  refine issue_of_issues h ?_ hc
  exact targetReg_ok hx ht hl

/-! ## Return from a trap, and waiting (R146, R148, R172) -/

/-- In firmware mode a return takes STAT and the PC from the record; on cell 40 the record must not name program mode (R144). -/
theorem exec_rett {tc : Word} (h : Issues s i (sysWord 0x04 0) u) (hc : Affords s i 2) (hm : pmode (u.cell i.cell) = false)
    (htc : tc = (u.cell i.cell).sp.trapCause) (h40 : i.cell.val = 40 → bit tc 4 = false) :
    exec (.rett i) s = .next ((u.modCell i.cell fun k => k.modSp fun p =>
      { p with stat := mkStat (bit tc 4) (bit tc 6) false (bit tc 5) }).issued s i 2 (some (u.cell i.cell).sp.trapPc)) := by
  subst htc
  change execRett i s = _
  refine issue_of_issues h ?_ hc
  refine if_neg ?_
  simpa only [hm, Bool.false_or, Bool.and_eq_true, beq_iff_eq, not_and, Bool.not_eq_true] using h40

theorem exec_idle (h : Issues s i (sysWord 0x18 0) u) (hc : Affords s i 1) (hm : pmode (u.cell i.cell) = false)
    (ht : trapBit (u.cell i.cell) = false) :
    exec (.idle i) s = .next ((u.modCell i.cell fun k => { k with
      sp := { k.sp with stat := k.sp.stat ||| 2 }, run := { k.run with idle := true } }).issued s i 1 none) := by
  change execIdle i s = _
  refine issue_of_issues h ?_ hc
  simp only [hm, ht, Bool.or_self, Bool.false_eq_true, if_false]
  rfl

/-! ## Traps that a program asks for (R146, R172) -/

theorem exec_endp (h : Issues s i (sysWord 0x02 0) u) (hc : Affords s i 1) :
    exec (.endp i) s = .next ((u.paid i.cell ((s.cell i.cell).slotsOf i)).trap i.cell 13 0 0 0
      ((s.cell i.cell).pc + BitVec.ofNat 14 (i.ext.length + 1))) := by
  change execEndp i s = _
  exact issue_of_fault (after := true) h hc rfl

theorem exec_swi {n : BitVec 4} (h : Issues s i (sysWord 0x03 n) u) (hc : Affords s i 1) :
    exec (.swi i n) s = .next ((u.paid i.cell ((s.cell i.cell).slotsOf i)).trap i.cell 15 n.toNat 0 0
      ((s.cell i.cell).pc + BitVec.ofNat 14 (i.ext.length + 1))) := by
  change execSwi i n s = _
  exact issue_of_fault (after := true) h hc rfl

/-! ## Repeats (R174 to R176) -/

/-- REP or REPI before `n` EXT words and an instruction latches a repeat of `rc` iterations at its own PC; with none it passes over them. -/
def State.repeated (u s : State) (i : Iss) (rc : BitVec 16) (n : Nat) : State :=
  if rc = 0 then
    (u.modCell i.cell fun k => k.modSp fun p => { p with rc := 0, stat := p.stat &&& 0x7 }).issued s i 1
      (some ((u.cell i.cell).pc + BitVec.ofNat 14 (n + 2)))
  else (u.modCell i.cell fun k => { k with
    sp := { k.sp with rc := rc, stat := k.sp.stat ||| 0x8 }
    run := { k.run with latched := true, iterated := false, exts := [] } }).issued s i 1 (some (u.cell i.cell).pc)

/-- What REP and REPI share: the words after them are fetched and may be repeated, and `body` goes on to the count. -/
theorem issue_of_pair {ws : List IWord} {count : Nat} {body : Nat → State → Body} {rc : BitVec 16} (h : Issues s i w u)
    (hc : Affords s i 1) (hws : u.pairWords i.cell ((u.cell i.cell).pc.toNat + 1) 4 = .ok ws) (hf : pairFault ws = none)
    (hb : body (ws.length - 1) u = repeatBody i.cell (ws.length - 1) u count)
    (hrc : rc = if ract (u.cell i.cell) then (u.cell i.cell).sp.rc else BitVec.ofNat 16 count) :
    s.issue i w (pairBody i.cell body) = .next (u.repeated s i rc (ws.length - 1)) := by
  have hp := pairBody_repeat hws hf hb
  rw [← hrc] at hp
  rw [issue_of_issues h hp hc, State.repeated]
  by_cases h0 : rc = 0
  · simp only [if_pos h0]
  · simp only [if_neg h0]

theorem exec_rep {n : BitVec 6} {ws : List IWord} {rc : BitVec 16} (h : Issues s i (majorWord 0 ((0xF : BitVec 4) ++ n)) u)
    (hc : Affords s i 1) (hws : u.pairWords i.cell ((u.cell i.cell).pc.toNat + 1) 4 = .ok ws) (hf : pairFault ws = none)
    (hrc : rc = if ract (u.cell i.cell) then (u.cell i.cell).sp.rc else BitVec.ofNat 16 (n.toNat + 1)) :
    exec (.rep i n) s = .next (u.repeated s i rc (ws.length - 1)) := by
  change execRep i n s = _
  exact issue_of_pair h hc hws hf rfl hrc

/-- A latch that a return or a hold left keeps its count, whatever the register holds. -/
theorem repeatBody_of_ract {c : CellId} {n k j : Nat} (h : ract (u.cell c) = true) : repeatBody c n u k = repeatBody c n u j := by
  simp only [repeatBody, h, if_true]

theorem exec_repi {ws : List IWord} {rc : BitVec 16} (h : Issues s i (sysWord 0x0C r) u) (hc : Affords s i 1)
    (hws : u.pairWords i.cell ((u.cell i.cell).pc.toNat + 1) 4 = .ok ws) (hf : pairFault ws = none) (hx : (u.cell i.cell).reg r = x)
    (ht : ract (u.cell i.cell) = false → isIdx x.tag = true ∧ x.val.toNat ≤ 65535)
    (hrc : rc = if ract (u.cell i.cell) then (u.cell i.cell).sp.rc else BitVec.ofNat 16 x.val.toNat) :
    exec (.repi i r) s = .next (u.repeated s i rc (ws.length - 1)) := by
  subst hx
  change execRepi i r s = _
  refine issue_of_pair h hc hws hf ?_ hrc
  cases hr : ract (u.cell i.cell) with
  | true => exact (if_pos rfl).trans (repeatBody_of_ract hr)
  | false =>
    obtain ⟨hi, hl⟩ := ht hr
    simp only [Bool.false_eq_true, if_false, need_ok (And.intro (isIdx_ne _ hi) hi), not_lt.2 hl]

/-! ## Unassigned encodings (R147, R179) -/

/-- A word that names no instruction raises UNDEF once its slots are paid. -/
theorem issue_of_undef {body : State → Body} (h : Issuable s i w v) (hl : i.ext.length ≤ 3) (hu : undefWord w = true)
    (hp : pmode (v.cell i.cell) = true → (s.cell i.cell).slotsOf i ≤ (v.cell i.cell).sp.cycBud.toNat) :
    s.issue i w body = .next ((v.paid i.cell ((s.cell i.cell).slotsOf i)).trap i.cell 1 w.toNat 0 0 (s.cell i.cell).pc) := by
  obtain ⟨h1, h2, h3, h4, h5⟩ := h
  unfold State.issue
  simp only [h1, h2, h3, h4, h5, hu, hl, Bool.not_true, Bool.false_eq_true, if_false, if_true, ne_eq, reduceCtorEq, not_true,
    and_false, and_self, not_false_eq_true]
  exact congrArg _ (charged_of hp)

/-- A word with a reserved field, a broken chain of EXT words, or more than three of them, raises RSVD with its first word. -/
theorem issue_of_rsvd {body : State → Body} (h : Issuable s i w v) (hu : undefWord w = true → 3 < i.ext.length)
    (hr : rsvdWord w = true ∨ chainBad w i.ext = true ∨ 3 < i.ext.length)
    (hp : pmode (v.cell i.cell) = true → (s.cell i.cell).slotsOf i ≤ (v.cell i.cell).sp.cycBud.toNat) :
    s.issue i w body = .next ((v.paid i.cell ((s.cell i.cell).slotsOf i)).trap i.cell 2 ((i.ext.map extWord).headD w).toNat 0 0
      (s.cell i.cell).pc) := by
  obtain ⟨h1, h2, h3, h4, h5⟩ := h
  have hn : ¬(undefWord w = true ∧ i.ext.length ≤ 3) := fun hq => not_lt.2 hq.2 (hu hq.1)
  unfold State.issue
  simp only [h1, h2, h3, h4, h5, hn, hr, Bool.not_true, Bool.false_eq_true, if_false, if_true, ne_eq, reduceCtorEq, not_true,
    and_false, not_false_eq_true]
  refine (congrArg _ (charged_of hp)).trans ?_
  cases i.ext <;> rfl

theorem exec_unassignedEncoding
    (h : undefWord w = true ∨ rsvdWord w = true ∨ chainBad w i.ext = true ∨ 3 < i.ext.length) :
    exec (.unassignedEncoding i w) s = s.issue i w .done := by
  refine if_pos ?_
  simpa only [Bool.or_eq_true, decide_eq_true_eq, or_assoc] using h

end Sys2Proof.Machine

open Sys2Proof Sys2Proof.Machine

/-- Settles O22: the instruction issues and moves the PC, takes its trap or latches the repeat; a word without a meaning traps in issue. -/
theorem cellControlTransfer : Obligations.CellControlTransfer := by
  refine ⟨?_, ?_, ?_, ?_, ?_, ?_, ?_, ?_, ?_, ?_, ?_, ?_⟩
  · exact fun i c off s u w hw h hb hc => ⟨_, exec_b_taken hw h hb hc, rfl⟩
  · exact fun i c off s u w hw h hb hc => ⟨_, exec_b_not_taken hw h hb hc, rfl⟩
  · exact fun i target s u h hc => ⟨_, exec_jmp rfl h hc, rfl⟩
  · exact fun i r s u x h hc hx ht hl => ⟨_, exec_jr h hc hx ht hl, rfl⟩
  · exact fun i s u tc h hc hm htc h40 => ⟨_, exec_rett h hc hm htc h40, rfl⟩
  · exact fun i s u h hc hm ht => ⟨_, exec_idle h hc hm ht, rfl⟩
  · exact fun i s u h hc => ⟨_, exec_endp h hc, rfl⟩
  · exact fun i n s u h hc => ⟨_, exec_swi h hc, rfl⟩
  · exact fun i n s u ws rc h hc hws hf hrc => ⟨_, exec_rep h hc hws hf hrc, rfl⟩
  · exact fun i r s u ws x rc h hc hws hf hx ht hrc => ⟨_, exec_repi h hc hws hf hx ht hrc, rfl⟩
  · exact fun i w s v h hl hu hp => ⟨_, (exec_unassignedEncoding (.inl hu)).trans (issue_of_undef h hl hu hp), rfl⟩
  · exact fun i w s v h hu hr hp => ⟨_, (exec_unassignedEncoding (.inr hr)).trans (issue_of_rsvd h hu hr hp), rfl⟩
end

section
/-!
Streams and jobs of the cells: the positions that an access may touch, the counts that advance, and the port that takes a job and gives its
status back.
-/

namespace Sys2Proof.Machine

variable {s u v : State} {i : Iss} {r rd rs rp wh : Reg} {sz : Fin 3} {hr : Fin 4} {hi : Bool} {h p w x : TWord} {q : SuSlot}

/-! ## Handles and positions (R128, R136, R167) -/

theorem isHandle_ne : ∀ t : BitVec 4, t = tHandle → t ≠ tPoison := by decide

/-- No position of an access meets a condition that none of them meets. -/
theorem any_positions_eq_false {c o n : Nat} {f : Nat → Bool} (hf : ∀ j < n, f (posOf c (o + j)) = false) :
    ((List.range n).map fun j => posOf c (o + j)).any f = false := by
  simpa only [List.any_map, List.any_eq_false, List.mem_range, Function.comp_apply, Bool.not_eq_true] using hf

/-- The positions of an access of `n` bytes at an offset lie below `b`. -/
def SuSlot.below (q : SuSlot) (o n b : Nat) : Prop := ∀ j < n, posOf q.c (o + j) < b

theorem SuSlot.below.any_le {o n b : Nat} (hb : q.below o n b) :
    ((List.range n).map fun j => posOf q.c (o + j)).any (fun p => decide (b ≤ p)) = false :=
  any_positions_eq_false fun j hj => decide_eq_false (not_le.2 (hb j hj))

/-! ## Loads and stores (R167) -/

theorem exec_sld {bs : List Byte} (hu : Issues s i (strmWord false sz rd hr hi) u) (hc : Affords s i 1)
    (hh : (u.cell i.cell).reg (whReg hr) = h) (hx : (u.cell i.cell).reg (idxReg hi) = x) (ht : h.tag = tHandle ∧ isIdx x.tag = true)
    (hq : (u.cell i.cell).su (hUnit h.val) = q) (ho : offOk x (sizeBytes sz) = true) (hs : staleWord (u.cell i.cell) h = false)
    (hk : hKind h.val = 2 ∨ hKind h.val = 1 ∧ q.below (intOf x).toNat (sizeBytes sz) q.length ∧ q.below (intOf x).toNat (sizeBytes sz) q.d)
    (hb : u.readSb i.cell (hUnit h.val) (intOf x).toNat (sizeBytes sz) = (some bs, v)) :
    exec (.sld i sz rd hr hi) s = .next ((v.setW i.cell rd ⟨tBytes, BitVec.ofNat 32 (leNat bs)⟩).issued s i 1 none) := by
  subst hh hx hq
  change execSld i sz rd hr hi s = _
  refine issue_of_issues hu ?_ hc
  obtain ⟨ht, hi⟩ := ht
  have hkind : hKind ((u.cell i.cell).reg (whReg hr)).val = 1 ∨ hKind ((u.cell i.cell).reg (whReg hr)).val = 2 := hk.symm.imp_left And.left
  refine (need2_ok (okA := fun t => t == tHandle && decide (hKind _ = 1 ∨ hKind _ = 2))
    ⟨isHandle_ne _ ht, isIdx_ne _ hi, by simp only [ht, hkind, beq_self_eq_true, decide_true, Bool.and_self], hi⟩).trans ?_
  obtain hk | ⟨hk, hl, hd⟩ := hk
  · simp only [ho, hs, hk, hb, Nat.reduceBEq, Bool.false_eq_true, Bool.false_and, false_and, reduceCtorEq, or_self, if_false]
    rfl
  · simp only [ho, hs, hl.any_le, hd.any_le, hb, Bool.and_false, Bool.false_eq_true, and_false, reduceCtorEq, or_self, if_false]
    rfl

theorem exec_sst (hu : Issues s i (strmWord true sz rs hr hi) u) (hc : Affords s i 1) (hw : (u.cell i.cell).reg rs = w)
    (hh : (u.cell i.cell).reg (whReg hr) = h) (hx : (u.cell i.cell).reg (idxReg hi) = x) (hwt : w.tag ≠ tPoison ∧ isOut w.tag = true)
    (hht : h.tag = tHandle ∧ hKind h.val = 2) (hxt : isIdx x.tag = true) (hq : (u.cell i.cell).su (hUnit h.val) = q)
    (ho : offOk x (sizeBytes sz) = true) (hs : staleWord (u.cell i.cell) h = false) (hf : u.heldOut i.cell (hUnit h.val) = false)
    (hl : q.below (intOf x).toNat (sizeBytes sz) q.length) (hd : q.below (intOf x).toNat (sizeBytes sz) (q.d + sbSize)) :
    exec (.sst i sz rs hr hi) s = .next
      ((u.writeSb i.cell (hUnit h.val) (intOf x).toNat ((wordBytes w.val).take (sizeBytes sz))).issued s i 1 none) := by
  subst hw hh hx hq
  change execSst i sz rs hr hi s = _
  refine issue_of_issues hu ?_ hc
  obtain ⟨hwp, hwo⟩ := hwt
  obtain ⟨hht, hk⟩ := hht
  have hxp := isIdx_ne _ hxt
  simp only [hwp, hxp, hwo, hht, hk, hxt, ho, hs, hf, hl.any_le, hd.any_le, if_false, or_self, ne_eq, not_true_eq_false,
    reduceCtorEq, Bool.false_eq_true]
  rfl

/-! ## Counts (R167, R168) -/

theorem exec_savl (hu : Issues s i (opWord 0x4 3 rd rs) u) (hc : Affords s i 1) (hh : (u.cell i.cell).reg rs = h) (ht : h.tag = tHandle)
    (hk : hKind h.val = 1 ∨ hKind h.val = 2) (hs : staleWord (u.cell i.cell) h = false) (hq : (u.cell i.cell).su (hUnit h.val) = q) :
    exec (.savl i rd rs) s = .next
      ((u.setW i.cell rd ⟨tUns, BitVec.ofNat 32 (if hKind h.val = 1 then q.d - q.c else q.d + sbSize - q.c)⟩).issued s i 1 none) := by
  subst hh hq
  change execSavl i rd rs s = _
  refine issue_of_issues hu ?_ hc
  refine (need_ok ⟨isHandle_ne _ ht, ?_⟩).trans (if_neg (Bool.eq_false_iff.1 hs))
  simp only [ht, hk, beq_self_eq_true, decide_true, Bool.and_self]

/-- A handle of one kind and a count are admitted as operands. -/
theorem handle_count_ok {kind : Nat} {k : Body} (ht : h.tag = tHandle) (hk : hKind h.val = kind) (hx : isIdx x.tag = true) :
    need2 h (fun t => t == tHandle && hKind h.val == kind) x isIdx k = k :=
  need2_ok (okA := fun t => t == tHandle && hKind h.val == kind)
    ⟨isHandle_ne _ ht, isIdx_ne _ hx, by simp only [ht, hk, beq_self_eq_true, Bool.and_self], hx⟩

theorem exec_srel (hu : Issues s i (opWord 0xE 2 wh rs) u) (hc : Affords s i 1) (hh : (u.cell i.cell).reg wh = h)
    (hx : (u.cell i.cell).reg rs = x) (ht : h.tag = tHandle) (hk : hKind h.val = 1) (hi : isIdx x.tag = true)
    (hq : (u.cell i.cell).su (hUnit h.val) = q) (hl : q.c + x.val.toNat ≤ q.length) (hd : q.c + x.val.toNat ≤ q.d)
    (hs : staleWord (u.cell i.cell) h = false) (hf : u.heldIn i.cell (hUnit h.val) = false) :
    exec (.srel i wh rs) s = .next ((u.releaseIn i.cell (hUnit h.val) x.val.toNat).issued s i 1 none) := by
  subst hh hx hq
  change execSrel i wh rs s = _
  refine issue_of_issues hu ?_ hc
  refine (handle_count_ok ht hk hi).trans ?_
  simp only [not_lt.2 hl, not_lt.2 hd, hs, hf, Bool.false_eq_true, if_false]
  rfl

theorem exec_spub (hu : Issues s i (opWord 0xE 3 wh rs) u) (hc : Affords s i 1) (hh : (u.cell i.cell).reg wh = h)
    (hx : (u.cell i.cell).reg rs = x) (ht : h.tag = tHandle) (hk : hKind h.val = 2) (hi : isIdx x.tag = true)
    (hq : (u.cell i.cell).su (hUnit h.val) = q) (hl : q.c + x.val.toNat ≤ q.length)
    (hs : staleWord (u.cell i.cell) h = false) (hf : u.heldOut i.cell (hUnit h.val) = false) :
    exec (.spub i wh rs) s = .next ((u.publish i.cell (hUnit h.val) x.val.toNat).issued s i 1 none) := by
  subst hh hx hq
  change execSpub i wh rs s = _
  refine issue_of_issues hu ?_ hc
  refine (handle_count_ok ht hk hi).trans ?_
  simp only [not_lt.2 hl, hs, hf, Bool.false_eq_true, if_false]
  rfl

/-! ## Job ports (R169, R170) -/

theorem exec_getp {a : TWord} {y : Port} (hu : Issues s i (sysWord 0x1A r) u) (hc : Affords s i 2) (ha : (u.cell i.cell).reg r = a)
    (ht : a.tag = tUns) (h3 : 3 ≤ a.val.toNat) (h6 : a.val.toNat ≤ 6)
    (hy : (u.cell i.cell).ports.getD (a.val.toNat - 3) .idle = y) (he : pmode (u.cell i.cell) = true → y.enabled = true) :
    exec (.getp i r) s = .next ((u.setW i.cell r (mkHandle a.val.toNat y.unit (u.cell i.cell).run.gen.toNat)).issued s i 2 none) := by
  subst ha hy
  change execGetp i r s = _
  refine issue_of_issues hu ?_ hc
  have hp : tUns ≠ tPoison := by decide
  refine (need_ok (ok := (· == tUns)) ⟨ht ▸ hp, beq_iff_eq.2 ht⟩).trans ?_
  rw [if_neg (by omega)]
  refine if_neg ?_
  simpa only [Bool.and_eq_true, Bool.not_eq_true', not_and, Bool.not_eq_false] using he

theorem isPortHandle_ne (hp : isPortHandle h = true) : h.tag ≠ tPoison :=
  isHandle_ne _ (beq_iff_eq.1 (Bool.and_eq_true_iff.1 hp).1)

/-- The job that a port takes: the descriptor's words, lost when the role table does not let the cell send it (R182). -/
def jobOf (ws : List TWord) (base : Nat) (sent : Bool) : Job :=
  { words := ws, base := base, status := none, done := 0, acc := [], lost := !sent }

theorem any_rejected_eq_false {kind op : Nat} {ws : List TWord}
    (h : ∀ x < ws.length, acceptsWord kind x op (ws.getD x .void) = true) :
    ((List.range ws.length).any fun x => !acceptsWord kind x op (ws.getD x .void)) = false := by
  simpa only [List.any_eq_false, List.mem_range, Bool.not_eq_true', Bool.not_eq_false] using h

/-- A descriptor whose words the engine accepts is taken by an idle port. -/
theorem exec_job {waited n : Nat} {ws : List TWord} {sent : Bool} (hu : Issues s i (opWord 0xE 0 wh rp) u)
    (hh : (u.cell i.cell).reg wh = h) (hp : (u.cell i.cell).reg rp = p) (hport : isPortHandle h = true) (ht : p.tag = tPtr)
    (hn : n = ptrLimit p.val - ptrBase p.val) (hw : u.readWords i.cell (ptrBase p.val) n = (ws, v))
    (hr : sent = u.cellRoute i.cell (if hKind h.val ≤ 4 then 0x52 else 0x51)) (hpois : (ws.any fun w => w.tag == tPoison) = false)
    (hs : staleWord (u.cell i.cell) h = false) (hsw : ws.any (staleWord (u.cell i.cell)) = false)
    (hacc : ∀ x < ws.length, acceptsWord (hKind h.val) x (bits ((jobOf ws (ptrBase p.val) sent).word 0) 2 0) (ws.getD x .void) = true)
    (hocc : ((u.cell i.cell).ports.getD (hKind h.val - 3) .idle).occupied = false)
    (hbusy : u.engineBusy (hKind h.val) (hUnit h.val) = false)
    (href : engineRefusal u i.cell (hKind h.val) (hUnit h.val) (jobOf ws (ptrBase p.val) sent) = none)
    (hc : Affords s i (2 + n + waited)) :
    exec (.job i wh rp waited) s = .next (((if sent then v else v.routeDrop).modCell i.cell fun k =>
      { k with ports := at' k.ports (hKind h.val - 3) fun q => { q with job := some (jobOf ws (ptrBase p.val) sent) } }).issued s i
        (2 + n + waited) none) := by
  subst hh hp hn hr
  change execJob i wh rp waited s = _
  refine issue_of_issues hu ?_ hc
  have hrej := any_rejected_eq_false hacc
  have hpp : tPtr ≠ tPoison := by decide
  unfold jobOf at hrej href ⊢
  simp only [isPortHandle_ne hport, ht, hpp, hport, hw, hpois, hs, hsw, hrej, hocc, hbusy, href, if_true, if_false, Bool.or_self,
    Bool.false_eq_true, reduceCtorEq, ne_eq, not_true_eq_false]

/-- The handle of a port that is not stale is what JWAIT wants. -/
theorem jwait_operand_ok {k : Body} {c : CellId} (hport : isPortHandle h = true) (hs : staleWord (u.cell c) h = false) :
    need h 1 (fun _ => isPortHandle h) (if staleWord (u.cell c) h then .fault 12 2 else k) = k :=
  (need_ok ⟨isPortHandle_ne hport, hport⟩).trans (if_neg (Bool.eq_false_iff.1 hs))

theorem exec_jwait_idle {waited : Nat} (hu : Issues s i (opWord 0xE 1 rd wh) u) (hh : (u.cell i.cell).reg wh = h)
    (hport : isPortHandle h = true) (hs : staleWord (u.cell i.cell) h = false) (hc : Affords s i (1 + waited))
    (hj : ((u.cell i.cell).ports.getD (hKind h.val - 3) .idle).job = none) :
    exec (.jwait i rd wh waited) s = .next ((u.setW i.cell rd ⟨tUns, 0xFFFFFFFF⟩).issued s i (1 + waited) none) := by
  subst hh
  change execJwait i rd wh waited s = _
  refine issue_of_issues hu ?_ hc
  refine (jwait_operand_ok hport hs).trans ?_
  simp only [hj]
  rfl

theorem exec_jwait_ended {waited st : Nat} {j : Job} (hu : Issues s i (opWord 0xE 1 rd wh) u) (hh : (u.cell i.cell).reg wh = h)
    (hport : isPortHandle h = true) (hs : staleWord (u.cell i.cell) h = false) (hc : Affords s i (1 + waited))
    (hj : ((u.cell i.cell).ports.getD (hKind h.val - 3) .idle).job = some j) (hst : j.status = some st) (hfw : firmwareStatus st = false) :
    exec (.jwait i rd wh waited) s = .next (((u.setW i.cell rd ⟨tUns, BitVec.ofNat 32 st⟩).modCell i.cell fun k =>
      { k with ports := at' k.ports (hKind h.val - 3) fun q => { q with job := none } }).issued s i (1 + waited) none) := by
  subst hh
  change execJwait i rd wh waited s = _
  refine issue_of_issues hu ?_ hc
  refine (jwait_operand_ok hport hs).trans ?_
  simp only [hj, hst, hfw, Bool.false_eq_true, if_false]
  rfl

end Sys2Proof.Machine

open Sys2Proof Sys2Proof.Machine

/-- Settles O23: the handle and the offset or count pass their checks, and the bytes, the counts or the port take the effect. -/
theorem cellStreamsAndJobs : Obligations.CellStreamsAndJobs := by
  refine ⟨?_, ?_, ?_, ?_, ?_, ?_, ?_, ?_, ?_⟩
  · rintro i size rd wh hi s u v h x q bs hu hc hh hx ht hq ho hs hk hb
    have hk := hk.imp_right fun ⟨hk, hp⟩ => And.intro hk (And.intro (fun j hj => (hp j hj).1) fun j hj => (hp j hj).2)
    exact ⟨_, exec_sld hu hc hh hx ht hq ho hs hk hb, rfl⟩
  · exact fun i size rs wh hi s u w h x q hu hc hw hh hx hwt hht hxt hq ho hs hf hp =>
      ⟨_, exec_sst hu hc hw hh hx hwt hht hxt hq ho hs hf (fun j hj => (hp j hj).1) fun j hj => (hp j hj).2, rfl⟩
  · exact fun i rd rs s u h q hu hc hh ht hk hs hq => ⟨_, exec_savl hu hc hh ht hk hs hq, rfl⟩
  · exact fun i wh rs s u h x q hu hc hh hx ht hk hi hq hl hd hs hf => ⟨_, exec_srel hu hc hh hx ht hk hi hq hl hd hs hf, rfl⟩
  · exact fun i wh rs s u h x q hu hc hh hx ht hk hi hq hl hs hf => ⟨_, exec_spub hu hc hh hx ht hk hi hq hl hs hf, rfl⟩
  · exact fun i r s u a p hu hc ha ht h3 h6 hp he => ⟨_, exec_getp hu hc ha ht h3 h6 hp he, rfl⟩
  · rintro i wh rp waited s u v h p ws n _ r hu hh hp hport ht hn hw hr rfl hpois hs hsw hacc hocc hbusy href hc
    exact ⟨_, exec_job hu hh hp hport ht hn hw hr hpois hs hsw hacc hocc hbusy href hc, rfl⟩
  · rintro i rd wh waited s u h _ hu hh hport hs hc rfl hj
    exact ⟨_, exec_jwait_idle hu hh hport hs hc hj, rfl⟩
  · rintro i rd wh waited s u h _ j st hu hh hport hs hc rfl hj hst hfw
    exact ⟨_, exec_jwait_ended hu hh hport hs hc hj hst hfw, rfl⟩
end

section
/-!
Reassignment of the cells and their accesses over the fabric: the moves that begin, drain, end and are taken back, and the loads, stores and
transactions that reach their target.
-/

namespace Sys2Proof.Machine

variable {s u v : State} {c : CellId} {r : Role} {i : Iss}

/-! ## The beginning of a reassignment (R193, R194) -/

/-- The warden may begin a reassignment of a cell to a role: the mesh has power, no flush runs, the cell is not moving, and the role is one that
FAB_RENT can hold. -/
structure MayMove (s : State) (c : CellId) (r : Role) : Prop where
  on : s.pageOn 0x70 = true
  flush : s.power.flush = 0
  still : s.moving c.val = false
  role : s.badRole c.val r = false
  allow : r.allow ≤ 255
  fn : r.fn ≤ 15

theorem MayMove.not_refused (h : MayMove s c r) :
    ¬(!s.pageOn 0x70 || s.power.flush != 0 || s.badRole c.val r || decide (255 < r.allow ∨ 15 < r.fn)) = true := by
  have hr : ¬(255 < r.allow ∨ 15 < r.fn) := not_or.2 ⟨not_lt.2 h.allow, not_lt.2 h.fn⟩
  simp only [h.on, h.flush, h.role, hr, bne_self_eq_false, decide_false, Bool.not_true, Bool.or_self, Bool.false_eq_true,
    not_false_eq_true]

theorem MayMove.not_moving (h : MayMove s c r) : ¬s.moving c.val = true := Bool.eq_false_iff.1 h.still

/-- A role with the same image begins at once, of cells 12 and 13 when the other stands still. -/
theorem exec_cellReassign_same (h : MayMove s c r) (hs : r.slot = (s.role c).slot) (h12 : c.val = 12 → s.moving 13 = false)
    (h13 : c.val = 13 → s.moving 12 = false) : exec (.cellReassign c r) s = .next (s.addMoves [(c.val, r)]) := by
  change execCellReassign c r s = _
  refine (if_neg h.not_refused).trans ((if_neg h.not_moving).trans ((if_pos hs).trans (if_neg ?_)))
  rintro (⟨hc, hm⟩ | ⟨hc, hm⟩)
  · exact Bool.eq_false_iff.1 (h12 hc) hm
  · exact Bool.eq_false_iff.1 (h13 hc) hm

section Activation

variable {k : Commit} (h : MayMove s c r) (hs : r.slot ≠ (s.role c).slot) (hk : s.handing = some k)
  (hr : r = { s.role c with slot := k.rent }) (ht : s.turn k c.val = true)

include h hs hk hr ht

/-- In an activation a cell whose turn has come takes the new image in its role. -/
theorem exec_cellReassign_activation (hc : 11 < c.val) : exec (.cellReassign c r) s = .next (s.addMoves [(c.val, r)]) := by
  change execCellReassign c r s = _
  refine (if_neg h.not_refused).trans ((if_neg h.not_moving).trans ((if_neg hs).trans ?_))
  simp only [hk, ← hr, ht, hc, ne_eq, not_true_eq_false, Bool.true_eq_false, or_self, if_false, if_true]

/-- The Evidential cells take it together, in the pause. -/
theorem exec_cellReassign_evidential (hc : c.val ≤ 11) (hm : (List.range 12).any s.moving = false) :
    exec (.cellReassign c r) s =
      .next (s.addMoves ((List.range 12).map fun d => (d, { s.role (Fin.ofNat 41 d) with slot := k.rent }))).beginPause := by
  change execCellReassign c r s = _
  refine (if_neg h.not_refused).trans ((if_neg h.not_moving).trans ((if_neg hs).trans ?_))
  simp only [hk, ← hr, ht, not_lt.2 hc, hm, ne_eq, not_true_eq_false, Bool.true_eq_false, Bool.false_eq_true, or_self, if_false]

end Activation

/-! ## Its course and its end (R193 to R195) -/

theorem exec_drainDone {x : Reassign} (hx : (s.fabric.reassign.find? fun x => x.cell == c.val && x.step == 2) = some x)
    (hon : s.pageOn 0x70 = true) (hf : s.power.flush = 0) (hd : s.drained x = true) (hv : v = (s.sendFence c).rewriteCell c x.target) :
    exec (.drainDone c) s = .next { v with fabric := { v.fabric with
      reassign := v.fabric.reassign.map fun y => if y.cell = c.val then { y with step := 6 } else y } } := by
  subst hv
  change execDrainDone c s = _
  simp only [execDrainDone, hx, hon, hf, hd, bne_self_eq_false, Bool.not_true, Bool.or_self, Bool.false_eq_true, if_false]

/-- A cell that reports ready outside an activation and a pause runs again. -/
theorem exec_reportReady (hon : s.pageOn 0x70 = true) (hf : s.power.flush = 0)
    (hr : (s.fabric.reassign.any fun x => x.cell == c.val && x.step == 6) = true)
    (hu : u = if c = 40 then (s.cellReady c).serveHeld else s.cellReady c) (hc : u.host.fw.commit = none) (hp : u.fabric.pause = none) :
    exec (.reportReady c) s = .next u.enterExecs := by
  change execReportReady c s = _
  simp only [execReportReady, hon, hf, hr, ← hu, hp, hc, bne_self_eq_false, Bool.not_true, Bool.or_self, Bool.false_eq_true, if_false,
    Option.isSome_none, false_and, and_false]

theorem exec_evidentialPauseTimeout {t0 : BitVec 64} {k : Commit} (hp : s.fabric.pause = some t0) (hk : s.host.fw.commit = some k)
    (ht : 900 ≤ (s.pages.dtime - t0).toNat) (hf : s.power.flush = 0) (hm : (List.range 12).any s.moving = true)
    (hv : v = (List.range 12).foldl (fun (s : State) n =>
      s.takeBack (Fin.ofNat 41 n) { s.role (Fin.ofNat 41 n) with slot := 1 - k.rent }) s) :
    exec .evidentialPauseTimeout s = .next (v.endPause.reverse k) := by
  subst hv
  change execEvidentialPauseTimeout s = _
  simp only [execEvidentialPauseTimeout, hp, hk, not_lt.2 ht, hf, hm, ne_eq, not_true_eq_false, Bool.true_eq_false, or_self, if_false]

/-! ## Fabric loads and stores of a cell (R130 to R132, R171) -/

/-- The key under which the word of a load waits: the DRAM address, or the key of the page's word. -/
def LoadKey (u : State) (c : CellId) (a k : Nat) : Prop :=
  (∃ d, u.target c a = .dram d ∧ a % 4 = 0 ∧ k = d) ∨ ∃ p off, u.target c a = .page p off ∧ k = pageKey a

/-- A load whose word has come takes it. -/
theorem exec_fld {tg : BitVec 2} {rd ra : Reg} {x : TWord} {a k : Nat} {y : Served} (h : Issues s i (opWord 0x9 tg rd ra) u)
    (hc : Affords s i 1) (hx : (u.cell i.cell).reg ra = x) (ht : isIdx x.tag = true) (ha : a = x.val.toNat)
    (hm : pmode (u.cell i.cell) = false) (hs : (u.cell i.cell).run.stall = .fabric) (hk : LoadKey u i.cell a k)
    (hy : u.takeServed i.cell.val k = some (y, v)) :
    exec (.fld i tg rd ra) s = .next ((v.setW i.cell rd (loadedWord (fldTag tg) y)).issued s i 1 none) := by
  subst hx ha
  change execFld i tg rd ra s = _
  refine issue_of_issues h ?_ hc
  refine (need_ok ⟨isIdx_ne _ ht, ht⟩).trans ((if_neg (Bool.eq_false_iff.1 hm)).trans ?_)
  obtain ⟨d, hd, h4, rfl⟩ | ⟨p, off, hp, rfl⟩ := hk
  · simp only [hd, h4, hs, takeLoad, hy, ne_eq, not_true_eq_false, if_false, if_true]
    rfl
  · simp only [hp, hs, takeLoad, hy, if_true]
    rfl

/-- A store to a page that takes it. -/
theorem exec_fst {rs ra : Reg} {w x : TWord} {a p off : Nat} (h : Issues s i (opWord 0xB 2 rs ra) u) (hc : Affords s i 2)
    (hw : (u.cell i.cell).reg rs = w) (hx : (u.cell i.cell).reg ra = x) (hwt : isOut w.tag = true) (hxt : isIdx x.tag = true)
    (ha : a = x.val.toNat) (hm : pmode (u.cell i.cell) = false) (hp : u.target i.cell a = .page p off)
    (hr : u.cellRoute i.cell (pageNode p) = true) (hv : u.writePage (cellMaster i.cell) p off 32 w.val = (v, .ok)) :
    exec (.fst i rs ra) s = .next (v.issued s i 2
      (if (v.cell i.cell).run.gen = (u.cell i.cell).run.gen then none else some (v.cell i.cell).pc)) := by
  subst hw hx ha
  change execFst i rs ra s = _
  refine issue_of_issues h ?_ hc
  have hne : ∀ t : BitVec 4, isOut t = true → t ≠ tPoison := by decide
  refine (need2_ok ⟨hne _ hwt, isIdx_ne _ hxt, hwt, hxt⟩).trans ((if_neg (Bool.eq_false_iff.1 hm)).trans ?_)
  simp only [hp, hr, storePage, hv, Bool.not_true, Bool.false_eq_true, if_false]

/-! ## Transactions that reach a page (R180, R184) -/

/-- The mesh carries a flit that the route rule lets through. -/
theorem onMesh_of_routes {f : Flit} {go : State → State} (hon : s.pageOn 0x70 = true) (hr : s.routes f = true) : s.onMesh f go = go s := by
  simp only [State.onMesh, hon, hr, Bool.not_true, Bool.false_eq_true, if_false, if_true]

section Transactions

variable {f : Flit} {m : Master} {p off : Nat}

theorem exec_fabricReadRequest {w : Word} (hon : s.pageOn 0x70 = true) (hr : s.routes { f with kind := 2 } = true)
    (hm : nodeMaster f.src = some m) (hp : flitPage f = some (p, off)) (hv : s.readPage m p off (8 * (f.nb % 64 + 1)) = (.inl w, v)) :
    exec (.fabricReadRequest f) s = .next (v.deliver p (.out (.flit f.src f.dst f.cls 3 0 0 0 true false (wordBytes w)))) := by
  change execFabricReadRequest f s = _
  simp only [execFabricReadRequest, onMesh_of_routes hon hr, hm, hp, hv]

theorem exec_fabricWrite (hon : s.pageOn 0x70 = true) (hr : s.routes { f with kind := 4 } = true)
    (hm : nodeMaster f.src = some m) (hp : flitPage f = some (p, off)) :
    exec (.fabricWrite f) s = .next (s.writePage m p off (8 * (f.nb % 64 + 1)) (leWord (sub f.payload 0 4))).1 := by
  change execFabricWrite f s = _
  simp only [execFabricWrite, onMesh_of_routes hon hr, hm, hp]

end Transactions

end Sys2Proof.Machine

open Sys2Proof Sys2Proof.Machine

/-- Settles O26: each step of a reassignment passes its guards, and each access finds its target. -/
theorem cellReassignment : Obligations.CellReassignment := by
  refine ⟨?_, ?_, ?_, ?_, ?_, ?_, ?_, ?_, ?_, ?_⟩
  · exact fun s c r h1 h2 h3 h4 h5 h6 hs h12 h13 => ⟨_, exec_cellReassign_same ⟨h1, h2, h3, h4, h5, h6⟩ hs h12 h13, rfl⟩
  · exact fun s c r k h1 h2 h3 h4 h5 h6 hs hk hr ht hc =>
      ⟨_, exec_cellReassign_activation ⟨h1, h2, h3, h4, h5, h6⟩ hs hk hr ht hc, rfl⟩
  · exact fun s c r k h1 h2 h3 h4 h5 h6 hs hk hr ht hc hm =>
      ⟨_, exec_cellReassign_evidential ⟨h1, h2, h3, h4, h5, h6⟩ hs hk hr ht hc hm, rfl⟩
  · exact fun s c x v hx hon hf hd hv => ⟨_, exec_drainDone hx hon hf hd hv, rfl⟩
  · exact fun s c u hon hf hr hu hc hp => ⟨_, exec_reportReady hon hf hr hu hc hp, rfl⟩
  · exact fun s t0 k v hp hk ht hf hm hv => ⟨_, exec_evidentialPauseTimeout hp hk ht hf hm hv, rfl⟩
  · exact fun i tg rd ra s u x a k r v h hc hx ht ha hm hs hk hy => ⟨_, exec_fld h hc hx ht ha hm hs hk hy, rfl⟩
  · exact fun i rs ra s u w x a p off v h hc hw hx hwt hxt ha hm hp hr hv => ⟨_, exec_fst h hc hw hx hwt hxt ha hm hp hr hv, rfl⟩
  · exact fun s f m p off v t0 hon hr hm hp hv => ⟨_, exec_fabricReadRequest hon hr hm hp hv, rfl⟩
  · exact fun s f m p off hon hr hm hp => ⟨_, exec_fabricWrite hon hr hm hp, rfl⟩
end

section
/-!
The data memory of a cell: what a word reads as, from what is stored and from its block's error pattern; and a double trap, which leaves the
first trap's record.
-/

namespace Sys2Proof.Machine

variable {s : State} {c e : CellId} {a b : Nat} {w : TWord}

/-! ## Reading a data word (R129, R356) -/

/-- What a block's error pattern leaves on the data; none when the block is uncorrectable (R356). -/
def patternLeft (rows cols p : Nat) : Option Nat := if p = 0 then some 0 else (gridDecode rows cols p).1

theorem readProt_fst {page array index rows cols : Nat} :
    (s.readProt page array index rows cols).1 = patternLeft rows cols (s.upsets.get (fun _ => 0) (upKey page array index)) := by
  unfold State.readProt patternLeft
  dsimp only
  split
  · rfl
  · split <;> (next h => rw [h])

theorem cell_of_coreParts {t : State} (h : t.coreParts = s.coreParts) : t.cell c = s.cell c :=
  congrArg (fun x : List Cell => x.getD c.val .reset) (Prod.ext_iff.1 h).1

/-- A data word reads as it is stored, but for what its block's error pattern leaves. -/
theorem readDm_fst : (s.readDm c a).1 = ((patternLeft 6 6 (s.upsets.get (fun _ => 0) (upKey (celPage c) 0 a))).map fun x =>
    if x = 0 then (s.cell c).dmRaw a else twordOf (twordNat ((s.cell c).dmRaw a) ^^^ x)).getD ⟨tPoison, 0⟩ := by
  have h1 := readProt_fst (s := s) (page := celPage c) (array := 0) (index := a) (rows := 6) (cols := 6)
  have h2 := State.coreParts_readProt s (celPage c) 0 a 6 6
  unfold State.readDm State.decodeDm
  dsimp only
  split
  · next h =>
    rw [h] at h1
    rw [← h1]
    rfl
  · next h =>
    rw [h] at h1 h2
    rw [← h1, cell_of_coreParts h2]
    rfl

/-- A word reads the same when it and its block's error pattern are the same. -/
theorem readDm_congr {t : State} (hu : t.upsets.get (fun _ => 0) (upKey (celPage c) 0 a) = s.upsets.get (fun _ => 0) (upKey (celPage c) 0 a))
    (hd : (t.cell c).dmRaw a = (s.cell c).dmRaw a) : (t.readDm c a).1 = (s.readDm c a).1 := by
  rw [readDm_fst, readDm_fst, hu, hd]

/-- A word whose block carries no error reads as it is stored. -/
theorem readDm_of_clean (hu : s.upsets.get (fun _ => 0) (upKey (celPage c) 0 a) = 0) : (s.readDm c a).1 = (s.cell c).dmRaw a := by
  rw [readDm_fst, hu]
  rfl

/-! ## Storing a data word (R129, R358) -/

theorem cell_writeDm_self (hl : s.cells.length = 41) :
    (s.writeDm c a w).cell c = { s.cell c with dm := (s.cell c).dm.set (fun _ => TWord.void) a w } :=
  State.cell_modCell_self hl

theorem cell_writeDm_ne (h : e ≠ c) : (s.writeDm c a w).cell e = s.cell e := State.cell_modCell_ne h

theorem upsets_writeDm_self (hu : SMap.wf (fun _ => (0 : Nat)) s.upsets = true) :
    (s.writeDm c a w).upsets.get (fun _ => 0) (upKey (celPage c) 0 a) = 0 := SMap.get_set_self hu

theorem upsets_writeDm_ne (hu : SMap.wf (fun _ => (0 : Nat)) s.upsets = true) (h : b ≠ a) :
    (s.writeDm c a w).upsets.get (fun _ => 0) (upKey (celPage c) 0 b) = s.upsets.get (fun _ => 0) (upKey (celPage c) 0 b) :=
  SMap.get_set_ne hu fun hk => h (Nat.add_left_cancel hk)

/-! ## Double traps (R149) -/

/-- What a double trap leaves of the cell: the product lands, and the core is held with the record of the first trap. -/
def Cell.doubleTrapped (k : Cell) : Cell := k.land.modRun fun r =>
  { r with held := true, holdReq := true, dbl := true, stall := .none, latched := false, iterated := false, exts := [] }

theorem trap_of_trapBit {cause detail tagseen opnd : Nat} {pc : BitVec 14} (h : trapBit (s.cell c) = true) :
    s.trap c cause detail tagseen opnd pc = s.doubleTrap c := if_pos h

theorem cell_doubleTrap (hl : s.cells.length = 41) : (s.doubleTrap c).cell c = (s.cell c).doubleTrapped :=
  (cell_of_coreParts ((State.coreParts_raise _ _ _).trans (State.coreParts_count _ _ _ _))).trans (State.cell_modCell_self hl)

theorem land_trapRecord (k : Cell) : k.land.sp.trapCause = k.sp.trapCause ∧ k.land.sp.trapPc = k.sp.trapPc := by
  unfold Cell.land
  split <;> exact ⟨rfl, rfl⟩

theorem quietReg_celCtrl : QuietReg (CEL_CTRL c.val) := by
  have hc := c.isLt
  unfold QuietReg CEL_CTRL CLK_STAT CLK_RUN0 EVT_FIRST0 EVT_FIRST1 EVT_FIRST2
  refine ⟨by omega, by omega, by omega, fun h => ?_⟩
  simp only [List.mem_cons, List.not_mem_nil, or_false] at h
  omega

/-- The cell and CEL_CTRL change before the counter and the event. -/
theorem doubleTrap_eq : s.doubleTrap c =
    (((s.modCell c Cell.doubleTrapped).setReg (CEL_CTRL c.val) 1).count (celPage c) 9 1).raise (celPage c) 4 := rfl

theorem celCtrl_doubleTrap (hc : s.Canonical) : (s.doubleTrap c).reg (CEL_CTRL c.val) = 1 := by
  have hh : ((s.modCell c Cell.doubleTrapped).setReg (CEL_CTRL c.val) 1).Canonical := SMap.wf_set hc
  rw [doubleTrap_eq, (((Leaves.refl.count (by decide)).raise _ _).run hh).2 _ quietReg_celCtrl]
  exact State.reg_setReg_self hc

theorem evRaw_doubleTrap (hc : s.Canonical) : (s.doubleTrap c).regBit (EV_RAW (celPage c)) 4 = true := by
  have hh : ((s.modCell c Cell.doubleTrapped).setReg (CEL_CTRL c.val) 1).Canonical := SMap.wf_set hc
  rw [doubleTrap_eq]
  exact evRaw_raiseMask ((Leaves.refl.count (by decide)).run hh).1 (by decide)

/-- CEL_STAT.DOUBLE is bit 3 (R151). -/
theorem bit_celStat_double : bit (celStat s c) 3 = (s.cell c).run.dbl := by
  have h2 := Bool.toNat_le (s.cell c).run.scrubbing
  have h1 := Bool.toNat_le ((s.cell c).run.stall == .input || (s.cell c).run.stall == .output)
  have h0 := Bool.toNat_le (s.cell c).run.held
  rw [celStat, bit, BitVec.getLsbD_ofNat, Nat.testBit_eq_decide_div_mod_eq, decide_eq_true (show 3 < 32 by decide), Bool.true_and]
  cases (s.cell c).run.dbl
  · exact decide_eq_false (by dsimp only [Bool.toNat_false]; omega)
  · exact decide_eq_true (by dsimp only [Bool.toNat_true]; omega)

end Sys2Proof.Machine

open Sys2Proof Sys2Proof.Machine

/-- Settles O52: the store replaces one word and the pattern of its block, and a word reads by these two alone. -/
theorem cellMemoryReadsBack : Obligations.CellMemoryReadsBack := by
  intro s c a w hl hd hu
  refine ⟨?_, fun b hb => readDm_congr (upsets_writeDm_ne hu hb) ?_, fun e he => cell_writeDm_ne he, fun r => ?_⟩
  · rw [readDm_of_clean (upsets_writeDm_self hu), cell_writeDm_self hl]
    exact SMap.get_set_self hd
  · rw [cell_writeDm_self hl]
    exact SMap.get_set_ne hd hb
  · rw [cell_writeDm_self hl]
    rfl

/-- Settles O54: a trap under TRAP is a double trap, and none of what follows its hold touches the record, CEL_CTRL or the event. -/
theorem doubleTrapKeepsTheFirst : Obligations.DoubleTrapKeepsTheFirst := by
  intro s c cause detail tagseen opnd pc hc hl ht
  obtain ⟨hcause, hpc⟩ := land_trapRecord (s.cell c)
  rw [trap_of_trapBit ht, bit_celStat_double, cell_doubleTrap hl, State.regBit, celCtrl_doubleTrap hc, evRaw_doubleTrap hc]
  exact ⟨hcause, hpc, rfl, rfl, rfl, rfl⟩
end

section
/-!
The instructions of the cells on one register, and what every register instruction leaves alone.
-/

namespace Sys2Proof.Machine

variable {s u v : State} {i : Iss} {c : CellId} {r : Reg} {a b : TWord}

/-! ## The tags that the one-register forms admit (R159, R164, R173) -/

theorem isOut_ne : ∀ t : BitVec 4, isOut t = true → t ≠ tPoison := by decide

theorem tags_neg : ∀ t : BitVec 4, t = tInt ∨ t = tFix → t ≠ tPoison ∧ (t == tInt || t == tFix) = true := by decide

theorem tags_count : ∀ t : BitVec 4, isIdx t = true ∨ t = tBytes → t ≠ tPoison ∧ isCount t = true := by decide

theorem tags_bswp : ∀ t : BitVec 4, t = tBytes → t ≠ tPoison ∧ (t == tBytes) = true := by decide

/-! ## Conversions (R164) -/

/-- A conversion leaves a word of its own tag unchanged and else writes what its table gives, with S only on saturation. -/
theorem convert_ok {t : BitVec 4} {f : TWord → Word × Bool × Bool} (ha : (u.cell c).reg r = a) (h : isLogic a.tag = true) :
    convert c r t f u = .done (if a.tag = t then u.result c r a (setZNV (u.cell c).sp.flags a.val false)
      else u.result c r ⟨t, (f a).1⟩ (if (f a).2.2 then setSV (setZNV (u.cell c).sp.flags (f a).1 (f a).2.1)
        else setZNV (u.cell c).sp.flags (f a).1 (f a).2.1)) := by
  refine (alu1_ok ha ⟨isLogic_ne _ h, h⟩).trans ?_
  by_cases ht : a.tag = t
  · simp only [if_pos ht, Body.done]
  · simp only [if_neg ht, Body.done]

/-! ## Clearing, device time, conditions and tags (R158, R161, R173) -/

/-- A body without an operand rule has its effect. -/

theorem issue_of_done {w : IWord} {f : State → State} (h : Issues s i w u) (hc : Affords s i 1) :
    (s.issue i w fun x => .done (f x)) = .next ((f u).issued s i 1 none) :=
  issue_of_issues h rfl hc

theorem exec_nop (h : Issues s i (sysWord 0x01 0) u) (hc : Affords s i 1) :
    exec (.nop i) s = .next (u.issued s i 1 none) := by
  change execNop i s = _
  exact issue_of_done (f := id) h hc

theorem exec_clr (h : Issues s i (sysWord 0x06 r) u) (hc : Affords s i 1) :
    exec (.clr i r) s = .next ((u.setW i.cell r ⟨tVoid, 0⟩).issued s i 1 none) := by
  change execClr i r s = _
  exact issue_of_done h hc

theorem exec_rdtime (h : Issues s i (sysWord 0x07 r) u) (hc : Affords s i 1) :
    exec (.rdtime i r) s = .next ((u.setW i.cell r ⟨tTime, u.pages.dtime.setWidth 32⟩).issued s i 1 none) := by
  change execRdtime i r s = _
  exact issue_of_done h hc

theorem exec_setc {d : Fin 15} (h : Issues s i (sysWord (BitVec.ofNat 6 (0x20 + d.val)) r) u) (hc : Affords s i 1) :
    exec (.setc i r d) s = .next ((u.setW i.cell r
      ⟨tBool, BitVec.ofNat 32 (condHolds (u.cell i.cell).sp.flags d.val).toNat⟩).issued s i 1 none) := by
  change execSetc i r d s = _
  exact issue_of_done h hc

theorem exec_tagof (h : Issues s i (sysWord 0x19 r) u) (hc : Affords s i 1) (ha : (u.cell i.cell).reg r = a) (hp : a.tag ≠ tPoison) :
    exec (.tagof i r) s = .next ((u.setW i.cell r ⟨tUns, a.tag.setWidth 32⟩).issued s i 1 none) := by
  subst ha
  change execTagof i r s = _
  refine issue_of_issues h ?_ hc
  exact need_ok ⟨hp, rfl⟩

/-! ## Bodies that keep the frame (R158, R159) -/

section Frame

variable {keep : Reg → Prop} {k : Body} {o : Nat}

theorem BodyKeeps.ite {p : Prop} [Decidable p] {j : Body} (hj : BodyKeeps c keep u j) (hk : BodyKeeps c keep u k) :
    BodyKeeps c keep u (if p then j else k) := by
  split
  · exact hj
  · exact hk

theorem BodyKeeps.need {ok : BitVec 4 → Bool} (hk : BodyKeeps c keep u k) : BodyKeeps c keep u (need a o ok k) :=
  .ite trivial (.ite hk trivial)

theorem BodyKeeps.need2 {okA okB : BitVec 4 → Bool} (hk : BodyKeeps c keep u k) : BodyKeeps c keep u (need2 a okA b okB k) :=
  .ite trivial (.ite trivial (.ite trivial (.ite trivial hk)))

theorem BodyKeeps.needEq {ok : BitVec 4 → Bool} (hk : BodyKeeps c keep u k) : BodyKeeps c keep u (needEq a b ok k) := .need2 hk

theorem BodyKeeps.fault (n d : Nat) : BodyKeeps c keep u (.fault n d) := trivial

theorem BodyKeeps.done (hv : CoreFrame c keep u v) : BodyKeeps c keep u (.done v) := hv

/-- MUL changes the pending product of its cell. -/
theorem CoreFrame.startProduct (p : Product) : CoreFrame c keep u (u.modCell c fun k => { k with mul := some p }) :=
  .modCell (fun _ _ _ => rfl) fun _ => ⟨rfl, rfl, rfl, rfl, rfl, rfl, rfl, rfl, rfl, rfl⟩

end Frame

/-! ## Instructions that keep the frame -/

/-- Every next state of an instruction leaves alone what a register instruction of its cell must: all registers but `rd`, and the rest of
the core's frame. -/
def KeepsAllBut (i : Iss) (rd : Reg) (s : State) (x : Instr) : Prop := AllNext (CoreFrame i.cell (· ≠ rd) s) (exec x s)

section Register

variable {x : Instr} {w : IWord} {rd rs : Reg}

theorem KeepsAllBut.of_alu2 {okA okB : BitVec 4 → BitVec 4 → Bool} {f : TWord → TWord → BitVec 6 → TWord × BitVec 6}
    (he : exec x s = s.issue i w (alu2 i.cell rd rs okA okB f)) : KeepsAllBut i rd s x := by
  unfold KeepsAllBut
  rw [he]
  exact .issue fun _ => .alu2 rd rs okA okB f

theorem KeepsAllBut.of_alu1 {ok : BitVec 4 → Bool} {f : TWord → BitVec 6 → TWord × BitVec 6}
    (he : exec x s = s.issue i w (alu1 i.cell rd ok f)) : KeepsAllBut i rd s x := by
  unfold KeepsAllBut
  rw [he]
  exact .issue fun _ => .alu1 rd ok f

end Register

section Moves

variable {rd rs : Reg} {im : BitVec 4} {tg : BitVec 2} {d : Fin 15}

theorem keepsAllBut_mul : KeepsAllBut i rd s (.mul i rd rs) :=
  (CoreFrame.issue fun _ => .needEq (.done (.startProduct _)) : AllNext _ (execMul i rd rs s))

theorem keepsAllBut_cmp : KeepsAllBut i rd s (.cmp i rd rs) :=
  (CoreFrame.issue fun _ => .needEq (.done (.setFlags _)) : AllNext _ (execCmp i rd rs s))

theorem keepsAllBut_cmpi : KeepsAllBut i rd s (.cmpi i rd im) :=
  (CoreFrame.issue fun _ => .need (.done (.setFlags _)) : AllNext _ (execCmpi i rd im s))

theorem keepsAllBut_li : KeepsAllBut i rd s (.li i tg rd im) :=
  (CoreFrame.issue fun _ => .done (.setW rd _) : AllNext _ (execLi i tg rd im s))

theorem keepsAllBut_mov : KeepsAllBut i rd s (.mov i rd rs) :=
  (CoreFrame.issue fun _ => .need (.done (.setW rd _)) : AllNext _ (execMov i rd rs s))

theorem keepsAllBut_movs : KeepsAllBut i rd s (.movs i rd rs) :=
  (CoreFrame.issue fun _ => .done (.setW rd _) : AllNext _ (execMovs i rd rs s))

/-- RETAG traps on a reserved tag, then in program mode, before it looks at its operands (R147). -/
theorem keepsAllBut_retag : KeepsAllBut i rd s (.retag i rd rs) :=
  (CoreFrame.issue fun _ => .ite (.fault _ _) (.ite (.fault _ _) (.need2 (.done (.setW rd _)))) : AllNext _ (execRetag i rd rs s))

theorem keepsAllBut_clr : KeepsAllBut i rd s (.clr i rd) :=
  (CoreFrame.issue fun _ => .done (.setW rd _) : AllNext _ (execClr i rd s))

theorem keepsAllBut_rdtime : KeepsAllBut i rd s (.rdtime i rd) :=
  (CoreFrame.issue fun _ => .done (.setW rd _) : AllNext _ (execRdtime i rd s))

theorem keepsAllBut_tagof : KeepsAllBut i rd s (.tagof i rd) :=
  (CoreFrame.issue fun _ => .need (.done (.setW rd _)) : AllNext _ (execTagof i rd s))

theorem keepsAllBut_setc : KeepsAllBut i rd s (.setc i rd d) :=
  (CoreFrame.issue fun _ => .done (.setW rd _) : AllNext _ (execSetc i rd d s))

end Moves

end Sys2Proof.Machine

open Sys2Proof Sys2Proof.Machine

/-- Settles O20: the register's word passes the instruction's tag rule, where it has one, and the result replaces it. -/
theorem cellRegisterForms : Obligations.CellRegisterForms := by
  refine ⟨?_, ?_, ?_, ?_, ?_, ?_, ?_, ?_, ?_, ?_, ?_, ?_, ?_, ?_, ?_, ?_⟩
  · exact fun i s u h hc => ⟨_, exec_nop h hc, rfl⟩
  · exact fun i r s u h hc => ⟨_, exec_clr h hc, rfl⟩
  · exact fun i r s u h hc => ⟨_, exec_rdtime h hc, rfl⟩
  · exact fun i r s u a h hc ha ht => does_of_issues rfl h hc (alu1_ok ha ⟨isOut_ne _ ht, ht⟩) rfl
  · exact fun i r s u a h hc ha ht => does_of_issues rfl h hc (alu1_ok ha ⟨isLogic_ne _ ht, ht⟩) rfl
  · exact fun i r s u a h hc ha ht => does_of_issues rfl h hc (alu1_ok ha (tags_neg _ ht)) rfl
  · exact fun i r s u a h hc ha ht => does_of_issues rfl h hc (convert_ok ha ht) rfl
  · exact fun i r s u a h hc ha ht => does_of_issues rfl h hc (convert_ok ha ht) rfl
  · exact fun i r s u a h hc ha ht => does_of_issues rfl h hc (convert_ok ha ht) rfl
  · exact fun i r s u a h hc ha ht => does_of_issues rfl h hc (convert_ok ha ht) rfl
  · exact fun i r s u a h hc ha ht => does_of_issues rfl h hc (convert_ok ha ht) rfl
  · exact fun i r s u a h hc ha ht => does_of_issues rfl h hc (alu1_ok ha (tags_count _ ht)) rfl
  · exact fun i r s u a h hc ha ht => does_of_issues rfl h hc (alu1_ok ha (tags_count _ ht)) rfl
  · exact fun i r s u a h hc ha ht => does_of_issues rfl h hc (alu1_ok ha (tags_bswp _ ht)) rfl
  · exact fun i r s u a h hc ha hp => ⟨_, exec_tagof h hc ha hp, rfl⟩
  · exact fun i r c s u h hc => ⟨_, exec_setc h hc, rfl⟩

/-- Settles O53: each of the instructions is an issue whose body traps or writes rd, FLAGS or the pending product alone. -/
theorem cellRegisterFrame : Obligations.CellRegisterFrame := by
  intro s t i rd rs im tg cond x hx he
  suffices h : ∀ y ∈ _, KeepsAllBut i rd s y from h x hx t he
  simp only [List.forall_mem_cons]
  exact ⟨.of_alu2 rfl, .of_alu2 rfl, .of_alu2 rfl, .of_alu2 rfl, .of_alu2 rfl, .of_alu2 rfl, .of_alu2 rfl, .of_alu2 rfl,
    keepsAllBut_mul, keepsAllBut_cmp, .of_alu1 rfl, keepsAllBut_cmpi, .of_alu1 rfl, .of_alu1 rfl, keepsAllBut_li, keepsAllBut_mov,
    .of_alu2 rfl, keepsAllBut_movs, keepsAllBut_retag, keepsAllBut_clr, keepsAllBut_rdtime, .of_alu1 rfl, .of_alu1 rfl, .of_alu1 rfl,
    .of_alu1 rfl, .of_alu1 rfl, .of_alu1 rfl, .of_alu1 rfl, .of_alu1 rfl, .of_alu1 rfl, .of_alu1 rfl, .of_alu1 rfl,
    keepsAllBut_tagof, keepsAllBut_setc, fun _ h => nomatch h⟩
end

section
/-!
The mesh, the stream units and the codec: the flits that the route rule lets through, the commands of a cell's slots, the course of a codec job,
and the warden's reload.
-/

namespace Sys2Proof.Machine

variable {s v w : State} {c : CellId} {f : Flit} {m : Master} {x : Word} {d : RegDef}

/-! ## Flits (R184 to R187) -/

theorem State.cell_modSu_self {unit : Nat} {g : SuSlot → SuSlot} (h : s.cells.length = 41) : (s.modSu c unit g).cell c =
    if unit = 0 then { s.cell c with su0 := g (s.cell c).su0 } else if unit = 1 then { s.cell c with su1 := g (s.cell c).su1 } else s.cell c :=
  State.cell_modCell_self h

section Flits

variable (hon : s.pageOn 0x70 = true)

include hon

theorem exec_streamDataFlit (hr : s.routes { f with kind := 0 } = true) (h : f.dst < 41) :
    exec (.streamDataFlit f) s = .next (s.landFlit ⟨f.dst, h⟩ { f with kind := 0 }) := by
  change execStreamDataFlit f s = _
  simp only [execStreamDataFlit, onMesh_of_routes hon hr, h, dif_pos]

/-- The word of a load that waits is kept for the core (R171). -/
theorem exec_fabricReadResponse (hr : s.routes { f with kind := 3 } = true) (h : f.dst < 41)
    (hs : (s.cell ⟨f.dst, h⟩).run.stall = .fabric) : exec (.fabricReadResponse f) s = .next { s with dram := { s.dram with
      served := s.dram.served ++ [{ id := f.dst, addr := f.aux.toNat, data := sub f.payload 0 4, pois := f.pois }] } } := by
  change execFabricReadResponse f s = _
  simp only [execFabricReadResponse, onMesh_of_routes hon hr, h, hs, dif_pos, if_true]

/-! A descriptor, a status and a control flit have no effect beyond the route rule (log 26). -/

theorem exec_jobDescriptor (hr : s.routes { f with kind := 5 } = true) : exec (.jobDescriptor f) s = .next s :=
  congrArg Host.Outcome.next (onMesh_of_routes hon hr)

theorem exec_jobStatus (hr : s.routes { f with kind := 6 } = true) : exec (.jobStatus f) s = .next s :=
  congrArg Host.Outcome.next (onMesh_of_routes hon hr)

theorem exec_controlFlit (hr : s.routes { f with kind := 7 } = true) : exec (.controlFlit f) s = .next s :=
  congrArg Host.Outcome.next (onMesh_of_routes hon hr)

end Flits

/-- A credit is for this slot: an OP 4 slot that sends to the flit's source and stream, in the cell's generation (R184, R187). -/
def SuSlot.credits (q : SuSlot) (gen : Nat) (f : Flit) : Bool :=
  q.active && q.op == 4 && q.peer == f.src && q.target % 256 == f.sid && f.gen == gen

/-- What a credit flit makes of a slot. -/
def SuSlot.takeCredit (q : SuSlot) (gen : Nat) (f : Flit) : SuSlot :=
  if q.credits gen f then { q with credit := max q.credit (64 * f.pos) } else q

theorem SuSlot.takeCredit_of_inactive {q : SuSlot} {gen : Nat} (h : q.active = false) : q.takeCredit gen f = q := by
  simp only [takeCredit, credits, h, Bool.false_and, Bool.false_eq_true, if_false]

theorem SuSlot.takeCredit_of_open {q : SuSlot} {gen : Nat} (ha : q.active = true) (ho : q.op = 4) (hp : q.peer = f.src)
    (ht : q.target % 256 = f.sid) (hg : f.gen = gen) : q.takeCredit gen f = { q with credit := max q.credit (64 * f.pos) } := by
  simp only [takeCredit, credits, ha, ho, hp, ht, hg, beq_self_eq_true, Bool.and_self, if_true]

/-- A credit flit to a cell goes to both of its slots. -/
theorem exec_streamCredit (hon : s.pageOn 0x70 = true) (hr : s.routes { f with kind := 1 } = true) (hc : c.val = f.dst) :
    exec (.streamCredit f) s = .next ((s.modSu c 0 fun q => q.takeCredit (s.cell c).run.gen.toNat f).modSu c 1 fun q =>
      q.takeCredit (s.cell c).run.gen.toNat f) := by
  obtain ⟨n, hn⟩ := c
  obtain rfl : n = f.dst := hc
  change execStreamCredit f s = _
  simp only [execStreamCredit, onMesh_of_routes hon hr, hn, dif_pos]
  rfl

/-- The slots of a cell after both were changed. -/
theorem cell_modSu_both {g h : SuSlot → SuSlot} (hl : s.cells.length = 41) : ((s.modSu c 0 g).modSu c 1 h).cell c =
    { s.cell c with su0 := g (s.cell c).su0, su1 := h (s.cell c).su1 } := by
  have hl' : (s.modSu c 0 g).cells.length = 41 := (List.length_modify ..).trans hl
  rw [State.cell_modSu_self hl', State.cell_modSu_self hl]
  rfl

/-! ## The commands of a cell's slots (R185 to R189) -/

theorem exec_suStart (h : Accepts s m (celPage c) 0x160 (x &&& ~~~(0x38 : Word)) noCond d) :
    exec (.suStart m c x) s = .next (suCmdEffect m c (x &&& ~~~(0x38 : Word)) (s.arrive m)) := by
  change execSuStart m c x s = _
  rw [execSuStart, write_of_accepts h]

theorem exec_suCancel (h : Accepts s m (celPage c) 0x160 (x &&& ~~~(0x07 : Word)) noCond d) :
    exec (.suCancel m c x) s = .next (suCmdEffect m c (x &&& ~~~(0x07 : Word)) (s.arrive m)) := by
  change execSuCancel m c x s = _
  rw [execSuCancel, write_of_accepts h]

theorem exec_streamDrain {slot : Fin 2} {close : Bool} (hon : s.pageOn (celPage c) = true) :
    exec (.streamDrain c slot close) s = .next ((s.drain c slot.val close).resumeCodecs c) := by
  change execStreamDrain c slot close s = _
  simp only [execStreamDrain, hon, Bool.not_true, Bool.false_eq_true, if_false]

/-! ## The course of a codec job (R190) -/

section Codec

variable {unit : Fin 4} {output : List Byte} {k : CodecJob} {j : Job}

section Turn

variable (hk : s.codecTurn unit.val = some k) (hj : s.running k.cell 1 = some j)

include hk hj

/-- A decided job, or one with output that waits for room, goes on publishing. -/
theorem exec_codecJobEnd_publishing (ho : (k.res.isSome || k.put < k.made.length) = true) :
    exec (.codecJobEnd unit output) s = .next (s.codecFlush unit.val k) := by
  change execCodecJobEnd unit output s = _
  simp only [execCodecJobEnd, hk, hj, ho, if_true]

section Input

variable (ho : (k.res.isSome || k.put < k.made.length) = false)

include ho

/-- Squall's bad input ends the job with status 0x0020. -/
theorem exec_codecJobEnd_armed (ha : s.armed (cdcPage unit.val) 3 = true) : exec (.codecJobEnd unit output) s =
    .next ((s.disarm (cdcPage unit.val) 3).codecFinish unit.val k 0x20 k.taken.length k.put) := by
  change execCodecJobEnd unit output s = _
  simp only [execCodecJobEnd, hk, hj, ho, ha, Bool.false_eq_true, if_false, if_true]

/-- The unit's memory is read: the job takes input, or ends with status 0x0030 at an uncorrectable word. -/
theorem exec_codecJobEnd_taking {y : Option Nat} (ha : s.armed (cdcPage unit.val) 3 = false)
    (hy : s.readProt (cdcPage unit.val) 14 0 8 8 = (y, v)) : exec (.codecJobEnd unit output) s =
    .next (if y.isSome then v.codecTake unit.val j k output else v.codecFinish unit.val k 0x30 k.taken.length k.put) := by
  change execCodecJobEnd unit output s = _
  cases y <;> simp only [execCodecJobEnd, hk, hj, ho, ha, hy, Option.isSome_none, Option.isSome_some, Bool.false_eq_true, if_false, if_true]

end Input

end Turn

/-- The bytes that a job may take in now: up to its length, its next boundary and what has come (R190). -/
def CodecJob.room (k : CodecJob) (j : Job) (q : SuSlot) : Nat :=
  min (min ((j.word 3).toNat - k.taken.length) (65536 - k.taken.length % 65536)) (q.d - q.c - (k.taken.length - k.rel))

/-- A decompressing job takes bytes in, decodes all it has taken, and publishes; it releases input while it is not decided. -/
theorem codecTake_of_decodes {unit : Nat} {bs made : List Byte} {rel : Nat} {res : Option (Nat × Nat)} (hd : bit (j.word 0) 0 = true)
    (hn : k.room j ((s.cell k.cell).su (hUnit (j.word 1))) ≠ 0)
    (hb : s.readSb k.cell (hUnit (j.word 1)) (((s.cell k.cell).su (hUnit (j.word 1))).c + (k.taken.length - k.rel))
      (k.room j ((s.cell k.cell).su (hUnit (j.word 1)))) = (some bs, w))
    (hx : codecDecode j (k.taken ++ bs) = (made, rel, res)) : s.codecTake unit j k output =
      (if res.isNone then w.releaseIn k.cell (hUnit (j.word 1)) (rel - k.rel) else w).codecFlush unit
        { k with taken := k.taken ++ bs, made := made, rel := if res.isNone then rel else k.rel, res := res } := by
  unfold CodecJob.room at hn hb
  cases res <;> simp only [State.codecTake, hn, hb, hd, hx, if_false, if_true] <;> rfl

/-! ## The codec's halt and the warden's reload (R190, R191) -/

theorem exec_codecHalt (h : Accepts s m (cdcPage unit.val) 0x80 (setBit x 1 true) (cdcCtrlCond m unit.val (setBit x 1 true)) d) :
    exec (.codecHalt m unit x) s = .next (cdcCtrlEffect unit.val (setBit x 1 true) d (s.arrive m)) := by
  change execCodecHalt m unit x s = _
  rw [execCodecHalt, write_of_accepts h]

end Codec

theorem exec_wreload (h : Accepts s m 0x70 0x8C (setBit x 0 true) noCond d) :
    exec (.wreload m x) s = .next (s.arrive m).reloadWarden := by
  change execWreload m x s = _
  rw [execWreload, write_of_accepts h]

end Sys2Proof.Machine

open Sys2Proof Sys2Proof.Machine

/-- Settles O25: the route rule and the access rules let each command through, and a codec job goes on from where it stands. -/
theorem fabricCommands : Obligations.FabricCommands := by
  refine ⟨?_, ?_, ?_, ?_, ?_, ?_, ?_, ?_, ?_, ?_, ?_, ?_, ?_, ?_, ?_⟩
  · exact fun s f hon hr h => ⟨_, exec_streamDataFlit hon hr h, rfl⟩
  · intro s f hon hr _ c hc ha ho hp ht hg hi hl
    refine ⟨_, exec_streamCredit hon hr hc, ?_, ?_, rfl⟩
    · rw [cell_modSu_both hl]
      exact SuSlot.takeCredit_of_open ha ho hp ht hg
    · rw [cell_modSu_both hl]
      exact SuSlot.takeCredit_of_inactive hi
  · exact fun s f hon hr h hs => ⟨_, exec_fabricReadResponse hon hr h hs, rfl⟩
  · exact fun s f hon hr => ⟨_, exec_jobDescriptor hon hr, rfl⟩
  · exact fun s f hon hr => ⟨_, exec_jobStatus hon hr, rfl⟩
  · exact fun s f hon hr => ⟨_, exec_controlFlit hon hr, rfl⟩
  · exact fun s m c v d h => ⟨_, exec_suStart h, rfl⟩
  · exact fun s m c v d h => ⟨_, exec_suCancel h, rfl⟩
  · exact fun s c slot close hon => ⟨_, exec_streamDrain hon, rfl⟩
  · intro s unit output k hk hs ho
    obtain ⟨j, hj⟩ := Option.isSome_iff_exists.1 hs
    exact ⟨_, exec_codecJobEnd_publishing hk hj ho, rfl⟩
  · intro s unit output k hk hs ho ha
    obtain ⟨j, hj⟩ := Option.isSome_iff_exists.1 hs
    exact ⟨_, exec_codecJobEnd_armed hk hj ho ha, rfl⟩
  · exact fun s unit output k j x v hk hj ho ha hx => ⟨_, exec_codecJobEnd_taking hk hj ho ha hx, rfl⟩
  · rintro s unit output k j e v w _ _ bs made rel res hk hj ho ha he hd rfl rfl hn hb hx
    exact ⟨_, exec_codecJobEnd_taking hk hj ho ha he, codecTake_of_decodes hd hn hb hx⟩
  · exact fun s m unit v d h => ⟨_, exec_codecHalt h, rfl⟩
  · exact fun s m v d h => ⟨_, exec_wreload h, rfl⟩
end

section
/-!
Flash translation and media care: staged writes, the journal and its checkpoints, the housekeeping steps, patrol, and the course of a rebuild.
-/

namespace Sys2Proof.Machine

variable {s : State} {m : Master} {die : Die} {block : Nat} {v : Word} {d : RegDef}

/-! ## The staging drain (R194, R207, R209) -/

/-- Whether a die takes programs of staged data: it is in use and powered, and neither a flush nor an Evidential pause is on. -/
def State.drains (s : State) (die : Nat) : Prop :=
  s.fabric.pause = none ∧ s.usable die = true ∧ s.power.flush = 0 ∧ s.power.vccq = true

section Drain

variable (hs : s.fabric.pause = none) (hd : s.commitParked.drains die.val)

include hs hd

/-- Once the parked programs are committed, a quiet die that the spacing allows takes the Evidential write that is next. -/
theorem exec_stagingDrain_evid {x : Staged} (hq : s.commitParked.quiet die.val = true) (hx : s.commitParked.evidNext = some x)
    (hsp : s.commitParked.spaced die.val = true) :
    exec (.stagingDrain die) s = .next (s.commitParked.programEvid die.val x.ref) := by
  obtain ⟨hp, hu, hf, hv⟩ := hd
  change execStagingDrain die s = _
  simp only [execStagingDrain, hs, hp, hu, hf, hv, hq, hx, hsp, Option.isSome_none, bne_self_eq_false, Bool.not_true, Bool.or_self,
    Bool.false_eq_true, if_false, if_true]

/-- A die that is not quiet takes the oldest unit that is ready. -/
theorem exec_stagingDrain_unit (hq : s.commitParked.quiet die.val = false) :
    exec (.stagingDrain die) s = .next (s.commitParked.drainUnit die.val) := by
  obtain ⟨hp, hu, hf, hv⟩ := hd
  change execStagingDrain die s = _
  simp only [execStagingDrain, hs, hp, hu, hf, hv, hq, Option.isSome_none, bne_self_eq_false, Bool.not_true, Bool.or_self,
    Bool.false_eq_true, if_false]

end Drain

/-! ## The journal and checkpoints (R214, R215) -/

/-- A page that holds records is sealed 2 ms after its first one. -/
theorem exec_journalPageTimer_due (hj : s.ftl.jbuf.isEmpty = false) (ht : s.ftl.jbufT + 2000000 ≤ s.ns) :
    exec .journalPageTimer s = .next (s.placeCopies.seal false false false) :=
  if_neg (not_or_intro (ne_true_of_eq_false hj) (not_lt.2 ht))

theorem exec_journalPageTimer_early (h : s.ftl.jbuf.isEmpty = true ∨ s.ns < s.ftl.jbufT + 2000000) :
    exec .journalPageTimer s = .next s.placeCopies :=
  if_pos h

/-- A page of the journal is marked durable, and what that completes or frees follows: the checkpoint, pages and blocks (R214, R215). -/
def State.pageDurable (s : State) (p : JPage) : State :=
  (({ s with ftl := { s.ftl with jpages := s.ftl.jpages.map fun q => if q.jseq = p.jseq then { q with durable := true } else q } } :
    State).completeCkpt p).reusePages.freeRegion

theorem exec_journalPageDurable {p : JPage} (hp : (s.ftl.jpages.find? fun p => !p.durable) = some p) (ha : p.copyA = true)
    (hb : p.copyB = true) :
    exec .journalPageDurable s = .next (((s.pageDurable p).ftl.relocs.filter fun r => r.why != .demote && r.stage == 1 &&
      decide (r.jseq.toNat ≤ p.jseq.toNat)).foldl State.eraseRecord (s.pageDurable p)) := by
  change execJournalPageDurable s = _
  rw [execJournalPageDurable, hp]
  exact if_neg (by simp only [ha, hb, Bool.and_self, Bool.not_true, Bool.false_eq_true, not_false_eq_true])

/-- After 4,096 pages or 10 minutes a checkpoint is class 3 work, and from 12,288 pages class 1 work. -/
theorem exec_checkpointBegin_due (hr : s.ftl.ckptRun = none)
    (h : 4096 ≤ s.tail ∨ 600000000 ≤ (s.pages.dtime - s.ftl.ckptT).toNat) :
    exec .checkpointBegin s = .next (s.ckptStep (if 12288 ≤ s.tail then 1 else 3)) := by
  have hdue : ¬(s.tail < 4096 ∧ (s.pages.dtime - s.ftl.ckptT).toNat < 600000000) := by omega
  change execCheckpointBegin s = _
  simp only [execCheckpointBegin, hr, if_neg hdue, Option.isSome_none, Bool.false_eq_true, if_false]
  split <;> rfl

/-- A checkpoint in progress goes on (log 35). -/
theorem exec_checkpointBegin_running (hr : s.ftl.ckptRun.isSome = true) : exec .checkpointBegin s = .next s.ckptPump := if_pos hr

/-! ## Housekeeping (R205, R216, R217, R227 to R230) -/

theorem exec_demotion {u n l : Nat} (hn : s.nsOfUnit u = some (n, l)) (hd : s.demotable u = true) :
    exec (.demotion u) s = .next (s.houseAdmit 2 0 u (s.demoteClass u) (s.houseDemand (s.unitReads u)) 65536
      fun v => v.gather u n l (s.demoteClass u) (s.unitReads u)) := by
  change Host.Outcome.next (s.demoteUnit u) = _
  simp only [State.demoteUnit, hn, hd, if_true]

theorem exec_garbageCollection (hv : s.victim = some (die.val, block)) :
    exec (.garbageCollection die block) s = .next (s.houseReloc 0 die.val block 3 .gc) :=
  congrArg Host.Outcome.next (if_pos hv)

/-- Whether the RELOC records of a block, and those after them, are durable, so that it may be erased (R217). -/
def State.relocSettled (s : State) (die block : Nat) : Bool :=
  s.ftl.relocs.any fun r => r.ofBlock die block && r.stage == 2 && decide (r.jseq.toNat < s.ftl.jseq.toNat) &&
    s.ftl.jpages.all fun p => p.durable || decide (r.jseq.toNat < p.jseq.toNat)

/-- A block is given its erase. -/
def State.giveErase (s : State) (die block : Nat) : State :=
  ((s.mapRelocs fun r => if r.ofBlock die block then { r with stage := 3 } else r).modBlk die block fun b =>
    { b with state := 4 }).addReq (eraseReq die block s.psBlk .drain)

/-- Whether a block may be erased: its records are durable, the map names nothing in it, nothing is at work in it, and it is not retired. -/
def State.mayErase (s : State) (die block : Nat) : Bool :=
  s.relocSettled die block && (s.validIn die block).isEmpty && !s.inUse die block && (s.blk die block).state != 5

theorem State.mayErase_of {die : Nat} (hr : s.relocSettled die block = true) (hv : (s.validIn die block).isEmpty = true)
    (hi : s.inUse die block = false) (hb : (s.blk die block).state ≠ 5) : s.mayErase die block = true := by
  simp only [State.mayErase, hr, hv, hi, bne_iff_ne.2 hb, Bool.not_false, Bool.and_self]

theorem exec_blockErase (h : (s.stepReloc die.val block).mayErase die.val block = true) :
    exec (.blockErase die block) s = .next ((s.stepReloc die.val block).giveErase die.val block) := if_pos h

/-- Whether a closed pSLC block of the same kind, not under way, is older than a block: on its die alone when that one's reserve is low. -/
def State.foldsLater (s : State) (die : Nat) (b : Blk) (low : Bool) : Bool :=
  s.ftl.map.blocks.any fun x => x.2.foldsWith b && x.2.stream != stJournal && x.2.state == 2 && x.2.mode == .pslc &&
    (!low || x.1 / 4096 == die) && decide (x.2.first.toNat < b.first.toNat) &&
    !(s.ftl.relocs.any fun r => r.die == x.1 / 4096 && r.block == x.1 % 4096)

theorem exec_folding {b : Blk} {low : Bool} (hb : s.blk die.val block = b) (hst : b.state = 2) (hm : b.mode = .pslc)
    (hj : b.stream ≠ stJournal) (he : b.stream = stEvid → s.evidSource.isSome = true)
    (hl : low = (s.reserveLow die.val && b.stream != stEvid)) (hold : s.foldsLater die.val b low = false) :
    exec (.folding die block) s =
      .next (s.houseReloc 1 die.val block (if b.stream = stEvid ∧ s.evidFull ∨ low then 1 else 3) .fold) := by
  subst hb hl
  refine congrArg Host.Outcome.next (if_neg ?_)
  rintro (h | h | h | h | ⟨hs, hn⟩)
  · exact h hst
  · exact h hm
  · exact hj h
  · exact Bool.false_ne_true (hold.symm.trans h)
  · rw [Option.isNone_iff_eq_none] at hn
    simpa only [hn, Option.isSome_none, Bool.false_eq_true] using he hs

/-! ## Patrol (R234 to R238) -/

/-- The next pass begins: its list and its period are those of now. -/
def State.beginPass (s : State) : State :=
  (({ s with care := { s.care with
      patrol := some (s.legal.getD 0, s.passList), patrolTot := s.passList.length, patrolPer := s.period } } : State).setField
    MC_PATROL 13 0 0).endPass

theorem exec_patrolPassStart (hon : s.pageOn 0x090 = true)
    (h : s.care.patrol = none ∨ ∃ t, s.care.patrol = some (t, []) ∧ s.care.patrolPer ≤ s.passAge t) :
    exec .patrolPassStart s = .next s.beginPass := by
  refine if_neg ?_
  obtain hn | ⟨t, ht, hp⟩ := h
  · simp only [hn, hon, Bool.not_true, Bool.or_self, Bool.false_eq_true, not_false_eq_true]
  · simp only [ht, hon, List.isEmpty_nil, decide_eq_true hp, Bool.and_self, Bool.not_true, Bool.or_self, Bool.false_eq_true,
      not_false_eq_true]

theorem exec_patrolLate {t0 : BitVec 64} {k : Nat} {l : List Nat} (hp : s.care.patrol = some (t0, k :: l))
    (ha : s.care.patrolPer ≤ s.passAge t0) (hs : s.regBit MC_STAT 6 = false) :
    exec .patrolLate s = .next ((s.setField MC_STAT 6 6 1).raise 0x090 27) := by
  change execPatrolLate s = _
  simp only [execPatrolLate, hp, not_lt.2 ha, hs, Bool.false_eq_true, or_self, if_false]

/-- The page set that the pass reaches next is read, if it is valid and no other patrol read is under way. -/
theorem exec_patrolRead {ch : Chan} {way : Fin 8} {page : Nat} {t0 : BitVec 64} {rest : List Nat}
    (hp : s.care.patrol = some (t0, ((8 * ch.val + way.val) * 2 ^ 22 + (block * s.psBlk + page)) :: rest))
    (hw : s.field? PWR_STAT 2 0 < 2) (hv : s.patrols (8 * ch.val + way.val) (block * s.psBlk + page) = true)
    (hr : (s.media.reqs.any fun r => r.owner == .patrol) = false) :
    exec (.patrolRead ch way block page) s =
      .next (s.addReq (readReq (8 * ch.val + way.val) (block * s.psBlk + page)
        (s.unitMode (8 * ch.val + way.val) (block * s.psBlk + page)) 3 .patrol
        (s.blocksIn (8 * ch.val + way.val) (block * s.psBlk + page)))) := by
  change execPatrolRead ch way block page s = _
  simp only [execPatrolRead, hp, not_le.2 hw, hv, hr, ne_eq, not_true_eq_false, or_self, Bool.not_true, Bool.false_eq_true, if_false]

/-! ## Failed members and the rebuild (R252 to R255) -/

theorem exec_redFailDeclare (h : Accepts s m 0x091 0x84 (setBit v 31 true) (redFailCond m (setBit v 31 true)) d) :
    exec (.redFailDeclare m v) s = .next (redFailEffect (setBit v 31 true) (s.arrive m)) := by
  change execRedFailDeclare m v s = _
  rw [execRedFailDeclare, write_of_accepts h]

theorem exec_rbPause (h : Accepts s m 0x091 0x80 (setBit v 0 true) noCond d) :
    exec (.rbPause m v) s = .next (redCtrlEffect (setBit v 0 true) d (s.arrive m)) := by
  change execRbPause m v s = _
  rw [execRbPause, write_of_accepts h]

theorem exec_memberFailed (hon : s.pageOn 0x091 = true) : exec (.memberFailed die) s = .next (s.failDie die.val).settle := if_pos hon

/-- The floors of the rebuild take effect once the deadlines of the admissions before the failure have passed. -/
theorem exec_rebuildFloor (hs : s.red.rbState = 1) (ht : s.red.rbAfter ≤ s.ns) :
    exec .rebuildFloor s = .next ((({ s with red := { s.red with rbState := 2 } } : State).syncRed).raise 0x091 4).pumpRebuild :=
  if_neg (not_or_intro (not_not_intro hs) (not_lt.2 ht))

/-- The rebuild persists its state, and a checkpoint is under way. -/
def State.rebuildSaved (s : State) : State :=
  let v := ({ s with red := { s.red with rbState := 4 } } : State).writeSifj
  if v.ftl.ckptRun.isSome then v else v.ckptStep 3

theorem exec_rebuildDone (hs : s.red.rbState = 1 ∨ s.red.rbState = 2) (ht : s.red.todo = []) (hr : s.rebuilding = false) :
    exec .rebuildDone s = .next (({ s.rebuildSaved with red := { s.rebuildSaved.red with
      rbState := 0, die1 := none, die2 := none, cursor := 0 } } : State).syncRed.emptyTriples.raise 0x091 5) := by
  refine if_neg ?_
  rintro (⟨h1, h2⟩ | h | h)
  · exact hs.elim h1 h2
  · simp only [ht, List.isEmpty_nil, Bool.not_true, Bool.false_eq_true] at h
  · exact Bool.false_ne_true (hr.symm.trans h)

end Sys2Proof.Machine

open Sys2Proof Sys2Proof.Machine

/-- Settles O27: each command passes its guards, and its effect is that of the work it names. -/
theorem storageCommands : Obligations.StorageCommands := by
  refine ⟨?_, ?_, fun s hj ht => ⟨_, exec_journalPageTimer_due hj ht, rfl⟩, fun s h => ⟨_, exec_journalPageTimer_early h, rfl⟩, ?_,
    fun s hr h => ⟨_, exec_checkpointBegin_due hr h, rfl⟩,
    fun s hr => ⟨_, exec_checkpointBegin_running hr, rfl⟩,
    fun s u n l hn hd => ⟨_, exec_demotion hn hd, rfl⟩,
    fun s die block hv => ⟨_, exec_garbageCollection hv, rfl⟩, ?_,
    fun s die block b low hb hst hm hj he hl hold => ⟨_, exec_folding hb hst hm hj he hl hold, rfl⟩,
    fun s hon h => ⟨_, exec_patrolPassStart hon h, rfl⟩,
    fun s t0 k l hp ha hs => ⟨_, exec_patrolLate hp ha hs, rfl⟩, ?_,
    fun s m v d h => ⟨_, exec_redFailDeclare h, rfl⟩,
    fun s m v d h => ⟨_, exec_rbPause h, rfl⟩,
    fun s die hon => ⟨_, exec_memberFailed hon, rfl⟩,
    fun s hs ht => ⟨_, exec_rebuildFloor hs ht, rfl⟩, ?_⟩
  · rintro s die x _ hs rfl hp hu hf hv hq hx hsp
    exact ⟨_, exec_stagingDrain_evid hs ⟨hp, hu, hf, hv⟩ hq hx hsp, rfl⟩
  · rintro s die _ hs rfl hp hu hf hv hq
    exact ⟨_, exec_stagingDrain_unit hs ⟨hp, hu, hf, hv⟩ hq, rfl⟩
  · rintro s p _ hp ha hb rfl
    exact ⟨_, exec_journalPageDurable hp ha hb, rfl⟩
  · rintro s die block _ rfl hr hv hi hb
    exact ⟨_, exec_blockErase (State.mayErase_of hr hv hi hb), rfl⟩
  · rintro s ch way block page _ _ t0 rest rfl rfl hp hw hv hr
    exact ⟨_, exec_patrolRead hp hw hv hr, rfl⟩
  · rintro s _ _ hs ht hr rfl rfl
    exact ⟨_, exec_rebuildDone hs ht hr, rfl⟩
end

section
/-!
Power failure, the in-flight stripe journal, the quiet ways, and the operations of the dies: handed to a channel, started, suspended, resumed
and ended.
-/

namespace Sys2Proof.Machine

variable {s u : State} {die : Die} {ch : Chan} {r : Req}

/-! ## Power failure and the stripe journal (R218, R254, R430) -/

theorem exec_powerFail (hf : s.power.flush = 0) (hon : s.mainOn = true) (hp : s.start.phase ≠ .starting) :
    exec .powerFail s = .next ({ s with power := { s.power with pwrFail := false } } : State).beginFlush := by
  change execPowerFail s = _
  simp only [execPowerFail, hf, hon, hp, ne_eq, not_true_eq_false, Bool.not_true, Bool.false_eq_true, if_false]

/-- The flush ends once the keys are there, while the dies have power: its copies are out and the buses are parked. -/
theorem exec_flushComplete (hf : s.power.flush = 1) (hk : s.regBit KEY_STAT 3 = false) (hv : s.power.vccq = true) :
    exec .flushComplete s = .next { (s.flushOut true false).parkBuses with
      power := { (s.flushOut true false).parkBuses.power with flush := 2, flushed := true } } := by
  refine if_neg ?_
  simp only [hf, hk, hv, ne_eq, not_true_eq_false, Bool.false_eq_true, Bool.true_eq_false, or_self, not_false_eq_true]

theorem exec_sifjWrite (h : s.red.rbState = 1 ∨ s.red.rbState = 2) : exec .sifjWrite s = .next s.writeSifj := if_pos h

/-! ## The quiet rotation (R263) -/

/-- The quiet ways after a step of the rotation. -/
def State.quietAfter (s : State) (r : Rotation) : List Nat := (s.media.quiet.filter fun w => !r.leaving.contains w) ++ r.joining

section Rotations

variable {r : Rotation} (hr : s.media.rot = some r)

include hr

/-- An accepted step begins after the deadlines before it: stripes of classes 1 to 3 on the joining ways close. -/
theorem exec_quietRotation_begins (hb : r.begun = false) (ht : r.after ≤ s.ns) :
    exec .quietRotation s = .next (({ s with media := { s.media with rot := some { r with begun := true } } } : State).closeWhere
      fun x => !x.evid && r.joining.contains x.way) := by
  change execQuietRotation s = _
  simp only [execQuietRotation, hr, hb, not_lt.2 ht, Bool.false_eq_true, or_self, if_false]

/-- The joining ways join and the leaving ways leave; without a second half no step is left. -/
theorem exec_quietJoin (hb : r.begun = true) (ha : r.again = false) (hw : r.joining.any s.wayBusy = false) :
    exec .quietJoin s = .next ((({ s with media := { s.media with
        quiet := s.quietAfter r, rot := none, lastRot := s.pages.dtime } } : State).closeWhere
      fun x => x.evid && !(s.quietAfter r).contains x.way).placeEvid) := by
  change execQuietJoin s = _
  simp only [execQuietJoin, State.quietAfter, hr, hb, ha, hw, Bool.not_true, Bool.or_self, Bool.false_eq_true, if_false]

end Rotations

/-- A step is accepted QROT seconds after the last: with more than four ways the next two replace both. -/
theorem exec_quietRotation_accepts {a b : Nat} (hr : s.media.rot = none) (hq : s.media.quiet = [a, b]) (hw : 4 < s.media.ways)
    (ht : s.field? MSQ_CTRL 23 16 * 1000000 ≤ (s.pages.dtime - s.media.lastRot).toNat) :
    exec .quietRotation s = .next { s with media := { s.media with
      rot := some ⟨[(b + 1) % s.media.ways, (b + 2) % s.media.ways], [a, b], s.adm.latest, false, false⟩ } } := by
  have hnow : ¬(s.media.ways < 4 ∨ (s.pages.dtime - s.media.lastRot).toNat < s.field? MSQ_CTRL 23 16 * 1000000) := by omega
  change execQuietRotation s = _
  simp only [execQuietRotation, hr, hq, if_neg hnow, if_neg hw.ne']

/-! ## The media scheduler (R248, R263, R268, R280) -/

/-- The state that MEDIA_SCHEDULE acts on: a channel that a fault has stopped is started again. -/
def State.restarted (s : State) (ch : Nat) : State :=
  if (s.chan ch).reload && s.pageOn (mchPage ch) then s.reloadSeq ch else s

/-- Whether the media scheduler serves a die: it is attached, everything has power, and no flush is on. -/
def State.serves (s : State) (die : Nat) : Prop :=
  s.power.flush = 0 ∧ s.power.vccq = true ∧ s.pageOn 0x090 = true ∧ (s.dieSt die).attached = true

/-- A reconstruction of a die that waits for no read. -/
def State.reconReady (s : State) (die : Nat) : Option Req :=
  s.media.reqs.find? fun r => r.die == die && r.phase == .recon && !s.reconBusy r.id

/-- Whether a die can take a new operation: it has not failed, its channel runs and has none in hand, and it is idle. -/
def State.takesOp (s : State) (die : Nat) : Prop :=
  s.red.failed.contains die = false ∧ s.regBit (MCH_CTRL (die / 8)) 0 = true ∧ (s.chan (die / 8)).seq.todo = false ∧
    (s.dieSt die).lunReset = none ∧ (s.dieSt die).state = 0 ∧ (s.dieSt die).susp = false

section Schedule

variable (hu : s.restarted (die.val / 8) = u) (hs : u.serves die.val)

include hu hs

/-- The first of the operations that may be issued to an idle die is handed to its channel. -/
theorem exec_mediaSchedule_hands (hn : u.reconReady die.val = none) (ht : u.takesOp die.val)
    (hr : u.firstOf ((u.media.reqs.filter fun r => r.die == die.val && r.phase == .queued).filter u.mayIssue) = some r) :
    exec (.mediaSchedule die) s =
      .next ((u.modReq r.id fun x => { x with phase := .handed }).hand (die.val / 8) (u.descOf r)) := by
  obtain ⟨hf, hv, hon, ha⟩ := hs
  obtain ⟨hfail, hrun, htodo, hl, hst, hsu⟩ := ht
  unfold State.restarted at hu
  unfold State.reconReady at hn
  change execMediaSchedule die s = _
  simp only [execMediaSchedule, hu, hf, hv, hon, ha, hn, hfail, hrun, htodo, hl, hst, hsu, hr, ne_eq, not_true_eq_false, Bool.not_true,
    Option.isSome_none, Bool.or_self, Bool.false_eq_true, or_self, if_false]

/-- A reconstruction that waits for nothing more ends before an operation is chosen. -/
theorem exec_mediaSchedule_recon (hr : u.reconReady die.val = some r) :
    exec (.mediaSchedule die) s = .next (u.finishRecon r.id) := by
  obtain ⟨hf, hv, hon, ha⟩ := hs
  unfold State.restarted at hu
  unfold State.reconReady at hr
  change execMediaSchedule die s = _
  simp only [execMediaSchedule, hu, hf, hv, hon, ha, hr, ne_eq, not_true_eq_false, Bool.not_true, Bool.false_eq_true, or_self, if_false]

end Schedule

/-! ## Operations start in their die (R267, R275) -/

/-- A read or a program that has a page buffer starts. -/
theorem start'_of_takeBuf {v : State} {ch op : Nat} (ho : op ≠ 3) (hr : s.handed ch op = some r) (hv : s.takeBuf ch r.id = some v) :
    s.start' ch op = v.launch ch r := by
  simp only [State.start', hr, hv, if_neg ho]

theorem exec_mediaRead {v : State} (hr : s.handed ch.val 1 = some r) (hv : s.takeBuf ch.val r.id = some v) :
    exec (.mediaRead ch) s = .next (v.launch ch.val r) :=
  congrArg Host.Outcome.next (start'_of_takeBuf (by decide) hr hv)

theorem exec_mediaProgram {v : State} (hr : s.handed ch.val 2 = some r) (hv : s.takeBuf ch.val r.id = some v) :
    exec (.mediaProgram ch) s = .next (v.launch ch.val r) :=
  congrArg Host.Outcome.next (start'_of_takeBuf (by decide) hr hv)

/-- An erase needs no page buffer. -/
theorem exec_mediaErase (hr : s.handed ch.val 3 = some r) : exec (.mediaErase ch) s = .next (s.launch ch.val r) := by
  change Host.Outcome.next (s.start' ch.val 3) = _
  simp only [State.start', hr, if_true]

/-! ## Descriptors that are no media operations (R268, R273, R275) -/

section Descriptors

variable {d : Desc}

theorem exec_lunReset (hd : s.handedDesc ch.val 4 = some d) :
    exec (.lunReset ch) s = .next ((((s.modSeq ch.val fun q => { q with todo := false }).modDie (8 * ch.val + d.way) fun x =>
      { x with lunReset := some s.pages.dtime }).count (mchPage ch.val) 11 1).emit (.nand ch.val [0x1FA#16])) := by
  change execLunReset ch s = _
  simp only [execLunReset, hd]

theorem exec_setFeature {way fa : Nat} {p : Word} (ht : (s.chan ch.val).seq.todo = false) (hr : s.regBit (MCH_CTRL ch.val) 0 = true) :
    exec (.setFeature ch way fa p) s = .next (s.emit (.nand ch.val
      ([0x1D5#16, BitVec.ofNat 16 (0x200 + way % 8), BitVec.ofNat 16 (0x200 + fa % 256)] ++
        (wordBytes p).map fun b => 0x300#16 ||| b.setWidth 16))) := by
  refine if_neg ?_
  simp only [ht, hr, Bool.not_true, Bool.or_self, Bool.false_eq_true, not_false_eq_true]

/-- What SUSPEND makes of a die at the time `now`: its operation is kept with the time that it has run. -/
def DieSt.suspended (x : DieSt) (now : Nat) : DieSt :=
  { x with susp := true, susCnt := x.susCnt + 1, state := 0, req := .none, paused := some (x.state, x.req.getD 0, now - x.started) }

/-- A program or erase in progress is suspended, and counted. -/
theorem exec_suspend (hd : s.handedDesc ch.val 6 = some d)
    (hst : (s.dieSt (8 * ch.val + d.way)).state = 2 ∨ (s.dieSt (8 * ch.val + d.way)).state = 3) :
    exec (.suspend ch) s = .next ((((s.modSeq ch.val fun q => { q with todo := false, susReq := false }).modDie (8 * ch.val + d.way)
      fun x => x.suspended s.ns).count (mchPage ch.val) 9 1).count 0x020 10 1) := by
  have hbusy : ¬((s.dieSt (8 * ch.val + d.way)).state ≠ 2 ∧ (s.dieSt (8 * ch.val + d.way)).state ≠ 3) := by omega
  change execSuspend ch s = _
  simp only [execSuspend, hd, if_neg hbusy]
  rfl

theorem exec_resume {st id run : Nat} (hd : s.handedDesc ch.val 7 = some d)
    (hp : ((s.modSeq ch.val fun q => { q with todo := false }).dieSt (8 * ch.val + d.way)).paused = some (st, id, run)) :
    exec (.resume ch) s = .next ((s.modSeq ch.val fun q => { q with todo := false }).modDie (8 * ch.val + d.way) fun x =>
      { x with susp := false, paused := none, state := st, req := some id,
               started := (s.modSeq ch.val fun q => { q with todo := false }).ns - run }) := by
  change execResume ch s = _
  simp only [execResume, hd, hp]

end Descriptors

/-! ## Operations end (R252, R273, R463) -/

/-- A die in operation, whose ready nothing holds, shows its result. -/
theorem exec_dieReady {res : DieResult} (hh : (s.squall.scaled.any fun x => x.1 == die.val) = false)
    (hl : ((s.dieSt die.val).lunReset.any fun t => decide (10000 < (s.pages.dtime - t).toNat)) = false)
    (hst : (s.dieSt die.val).state ≠ 0) (hsc : (s.dieSt die.val).scale = 0) :
    exec (.dieReady die res) s = .next (s.endOp die.val ((s.dieSt die.val).result res)) := by
  change execDieReady die res s = _
  simp only [execDieReady, hh, hl, if_neg hst, hsc, ne_eq, not_true_eq_false, false_and, Bool.or_self, Bool.false_eq_true, if_false]

/-- A held ready is released at its time. -/
theorem exec_scaledReadyRelease {die : Nat} {x : Nat × Nat × DieResult} (hx : (s.squall.scaled.find? fun x => x.1 == die) = some x)
    (ht : x.2.1 ≤ s.ns) : exec (.scaledReadyRelease die) s =
      .next (({ s with squall := { s.squall with scaled := s.squall.scaled.filter fun y => y.1 != die } } : State).endOp die x.2.2) := by
  change execScaledReadyRelease die s = _
  simp only [execScaledReadyRelease, hx, not_lt.2 ht, false_and, if_false]

/-- The operation of a die, in progress or suspended, and the time that it has run. -/
def DieSt.ran (x : DieSt) (now : Nat) : Nat × Nat :=
  match x.paused with
  | some (op, _, n) => if x.state = 0 then (op, n) else (x.state, now - x.started)
  | .none => (x.state, now - x.started)

theorem DieSt.ran_of_running {x : DieSt} {now : Nat} (h : x.paused = .none) : x.ran now = (x.state, now - x.started) := by
  rw [DieSt.ran, h]

/-- An operation that has run for three times its time is given LUN Reset. -/
theorem exec_operationTimeLimit (hp : (s.dieSt die.val).paused = none) (hst : (s.dieSt die.val).state ≠ 0)
    (hl : (s.dieSt die.val).lunReset = none)
    (ht : 3 * s.opTime (s.dieSt die.val) ≤ ((s.ns - (s.dieSt die.val).started : Nat) : Rat))
    (hd : s.handedDesc (die.val / 8) 4 = none) : exec (.operationTimeLimit die) s = .next (s.timeLimit die.val) := by
  refine if_neg ?_
  change ¬(((s.dieSt die.val).ran s.ns).1 = 0 ∨ _ ∨ (((s.dieSt die.val).ran s.ns).2 : Rat) <
    3 * s.opTime { s.dieSt die.val with state := ((s.dieSt die.val).ran s.ns).1 } ∨ _)
  rw [DieSt.ran_of_running hp, hl, hd]
  rintro (h | h | h | h)
  · exact hst h
  · exact Bool.false_ne_true h
  · exact not_lt.2 ht h
  · exact Bool.false_ne_true h

theorem exec_lunResetTimeout {t0 : BitVec 64} (hl : (s.dieSt die.val).lunReset = some t0) (ht : 10000 ≤ (s.pages.dtime - t0).toNat) :
    exec (.lunResetTimeout die) s = .next (s.failDie die.val).settle := by
  change execLunResetTimeout die s = _
  simp only [execLunResetTimeout, hl, if_neg (not_lt.2 ht)]

/-! ## Page buffers (R267) -/

/-- Whether a request still needs its page buffer: a program until it has crossed into the die, a read until its data have left. -/
def Req.needsBuf (r : Req) : Bool :=
  if r.op = 1 then r.phase == .running || r.phase == .handed || r.phase == .queued else r.phase == .handed

theorem Req.needsBuf_eq_false (hh : r.phase ≠ .handed) (hr : r.op = 1 → r.phase ≠ .running ∧ r.phase ≠ .queued) :
    r.needsBuf = false := by
  unfold Req.needsBuf
  split
  case isTrue ho => simp only [beq_eq_false_iff_ne.2 hh, beq_eq_false_iff_ne.2 (hr ho).1, beq_eq_false_iff_ne.2 (hr ho).2, Bool.or_self]
  case isFalse => exact beq_eq_false_iff_ne.2 hh

/-- The waiting operation that takes the buffer. -/
def State.nextInBuf (s : State) (ch : Nat) : Option Nat :=
  (firstReq ((s.chan ch).waits.filterMap fun n => s.req? n)).map fun r => r.id

/-- A buffer goes to a waiting operation, or is free. -/
def Channel.giveBuf (c : Channel) (buf : Nat) (next : Option Nat) : Channel :=
  { c with
    bufs := c.bufs.set buf next
    waits := match next with
      | some n => c.waits.filter (· != n)
      | none => c.waits }

/-- A buffer whose operation needs it no more goes to the operation that waits first. -/
theorem exec_pageBufferFree {buf : Fin 2} {id : Nat} (hb : (s.chan ch.val).bufs.getD buf.val none = some id)
    (hn : ∀ r, s.req? id = some r → r.needsBuf = false) :
    exec (.pageBufferFree ch buf) s =
      .next ((s.clearProt (mchPage ch.val) 8 (buf.val * 12960) 12960).modChan ch.val fun c =>
        c.giveBuf buf.val (s.nextInBuf ch.val)) := by
  change execPageBufferFree ch buf s = _
  rw [execPageBufferFree, hb]
  refine if_neg ?_
  cases hr : s.req? id with
  | none => exact Bool.false_ne_true
  | some r => exact ne_true_of_eq_false (hn r hr)

end Sys2Proof.Machine

open Sys2Proof Sys2Proof.Machine

/-- Settles O28: each command passes its guards, and an operation goes its way from the queue to its result. -/
theorem mediaCommands : Obligations.MediaCommands := by
  refine ⟨fun s hf hon hp => ⟨_, exec_powerFail hf hon hp, rfl⟩,
    fun s hf hk hv => ⟨_, exec_flushComplete hf hk hv, rfl⟩,
    fun s h => ⟨_, exec_sifjWrite h, rfl⟩,
    fun s r hr hb ht => ⟨_, exec_quietRotation_begins hr hb ht, rfl⟩,
    fun s a b hr hq hw ht => ⟨_, exec_quietRotation_accepts hr hq hw ht, _, rfl, rfl⟩, ?_, ?_,
    fun s die r u hu hf hv hon ha hr => ⟨_, exec_mediaSchedule_recon hu ⟨hf, hv, hon, ha⟩ hr, rfl⟩,
    fun s ch r v hr hv => ⟨_, exec_mediaRead hr hv, rfl⟩,
    fun s ch r v hr hv => ⟨_, exec_mediaProgram hr hv, rfl⟩,
    fun s ch r hr => ⟨_, exec_mediaErase hr, rfl⟩,
    fun s ch d hd => ⟨_, exec_lunReset hd, rfl⟩,
    fun s ch way fa p ht hr => ⟨_, exec_setFeature ht hr, rfl⟩, ?_, ?_,
    fun s die r hh hl hst hsc => ⟨_, exec_dieReady hh hl hst hsc, rfl⟩,
    fun s die x hx ht => ⟨_, exec_scaledReadyRelease hx ht, rfl⟩, ?_,
    fun s die t0 hl ht => ⟨_, exec_lunResetTimeout hl ht, rfl⟩, ?_⟩
  · rintro s r _ hr hb ha hw rfl
    exact ⟨_, exec_quietJoin hr hb ha hw, rfl⟩
  · intro s die r u hu hf hv hon ha hn hfail hrun htodo hl hst hsu hr
    exact ⟨_, exec_mediaSchedule_hands hu ⟨hf, hv, hon, ha⟩ hn ⟨hfail, hrun, htodo, hl, hst, hsu⟩ hr, rfl⟩
  · rintro s ch d _ _ hd rfl rfl hst
    exact ⟨_, exec_suspend hd hst, _, rfl, fun x => rfl⟩
  · rintro s ch d _ st id run _ hd rfl rfl hp
    exact ⟨_, exec_resume hd hp, rfl⟩
  · rintro s die _ rfl hp hst hl ht hd
    exact ⟨_, exec_operationTimeLimit hp hst hl ht hd, rfl⟩
  · rintro s ch buf id _ hb hn rfl
    exact ⟨_, exec_pageBufferFree hb fun r hr => (hn r hr).elim Req.needsBuf_eq_false, rfl⟩
end

section
/-!
The microcode of the channels: the test of a word that each row makes, what each long operation does, the two formats and the faults, and
the windows of the microstore.
-/

namespace Sys2Proof.Machine

variable {s : State} {ch : Chan} {w : Word} {ready : Bool} {st : Byte} {dq : List Byte} {m : Master} {v : Word} {d : RegDef}

/-! ## The word at the microaddress (R276, R280) -/

/-- The sequencer of a channel runs, does not wait for WAITRB_TIMEOUT, and stands at the word `w`. -/
def State.runsWord (s : State) (ch : Chan) (w : Word) : Prop :=
  (s.chan ch.val).seq.word = w ∧ s.pageOn (mchPage ch.val) = true ∧ s.regBit (MCH_CTRL ch.val) 0 = true ∧
    (s.chan ch.val).seq.active = true ∧ (s.chan ch.val).seq.wait ≠ some 0

theorem State.seqAt_of_runsWord {p : Word → Bool} (h : s.runsWord ch w) (hp : p w = true) : s.seqAt ch.val p = true := by
  obtain ⟨rfl, hon, hrun, hact, hwait⟩ := h
  simp only [State.seqAt, hon, hrun, hact, hp, bne_iff_ne.2 hwait, Bool.and_self]

/-- A long word that passes the row's test is executed. -/
theorem longRow_of_runsWord {p : Word → Bool} (h : s.runsWord ch w) (hf : bit w 31 = false) (hp : p w = true) :
    longRow ch p ready st s = .next (s.microStep ch.val ready st []) :=
  if_pos (State.seqAt_of_runsWord h (by rw [hf, hp]; rfl))

theorem State.microStep_of_fault {ch : Nat} (hf : (s.chan ch).seq.fault ≠ 0) :
    s.microStep ch ready st dq = s.seqFault ch (s.chan ch).seq.fault := if_pos hf

theorem State.microStep_long {ch : Nat} (hf : (s.chan ch).seq.fault = 0) (hl : bit (s.chan ch).seq.word 31 = false) :
    s.microStep ch ready st dq = s.longOp ch (s.chan ch).seq.word ready st := by
  simp only [State.microStep, hf, hl, ne_eq, not_true_eq_false, Bool.false_eq_true, if_false]

theorem State.microStep_short {ch : Nat} (hf : (s.chan ch).seq.fault = 0) (hl : bit (s.chan ch).seq.word 31 = true) :
    s.microStep ch ready st dq = s.shortPair ch (s.chan ch).seq.word dq := by
  simp only [State.microStep, hf, hl, ne_eq, not_true_eq_false, if_false, if_true]

/-- A row whose test the word passes has the effect of its long operation, where every check of the word holds. -/
theorem longRow_of_atWord {p : Word → Bool} {t : State} (h : AtWord s ch w) (hp : p w = true)
    (ht : s.longOp ch.val w ready st = t) : longRow ch p ready st s = .next t := by
  obtain ⟨rfl, hon, hrun, hact, hwait, hf, hl⟩ := h
  rw [longRow_of_runsWord ⟨rfl, hon, hrun, hact, hwait⟩ hl hp, State.microStep_long hf hl, ht]

/-- The test of a row: the opcode, and one field or the whole word. -/
theorem rowTest {α : Type} [BEq α] [LawfulBEq α] {k : Nat} {x y : α} (ho : lop w = k) (hx : x = y) :
    (lop w == k && x == y) = true := by
  rw [ho, hx, beq_self_eq_true, beq_self_eq_true, Bool.and_self]

/-! ## The long operations (R277, R279) -/

section LongOperations

variable {ch : Nat}

theorem State.longOp_halt (ho : lop w = 0) : s.longOp ch w ready st = s.modSeq ch fun q =>
    { q with active := false, todo := false, upc := BitVec.ofNat 12 (s.field? (MCH_CTRL ch) 27 16) } := by
  simp only [State.longOp, ho]

theorem State.longOp_jmp {a : BitVec 12} (ho : lop w = 1) (ha : a.toNat = bits w 12 1) :
    s.longOp ch w ready st = s.modSeq ch fun q => { q with upc := a } := by
  simp only [State.longOp, ho, ← ha, BitVec.ofNat_toNat, BitVec.setWidth_eq]

theorem State.longOp_jcc {c : BitVec 4} {a : BitVec 12} (ho : lop w = 2) (hc : c.toNat = bits w 16 13) (ha : a.toNat = bits w 12 1) :
    s.longOp ch w ready st = s.modSeq ch fun q => if s.jccHolds ch c.toNat then { q with upc := a } else q.next := by
  simp only [State.longOp, ho, hc, ← ha, BitVec.ofNat_toNat, BitVec.setWidth_eq]

theorem State.longOp_call {a : BitVec 12} (ho : lop w = 3) (ha : a.toNat = bits w 12 1) :
    s.longOp ch w ready st = s.modSeq ch fun q => { q with stack := (q.upc + 1) :: q.stack, upc := a } := by
  simp only [State.longOp, ho, ← ha, BitVec.ofNat_toNat, BitVec.setWidth_eq]

theorem State.longOp_ret (ho : lop w = 4) :
    s.longOp ch w ready st = s.modSeq ch fun q => { q with stack := q.stack.tail, upc := q.stack.headD 0 } := by
  simp only [State.longOp, ho]

theorem State.longOp_ldcnt {n : BitVec 16} (ho : lop w = 5) (hn : n.toNat = bits w 16 1) :
    s.longOp ch w ready st = s.modSeq ch fun q => { q.next with cnt := n } := by
  simp only [State.longOp, ho, ← hn, BitVec.ofNat_toNat, BitVec.setWidth_eq]

/-- LOOP leaves its loop when the count that it lowers reaches 0. -/
theorem State.longOp_loop {a : BitVec 12} (ho : lop w = 6) (ha : a.toNat = bits w 12 1) :
    s.longOp ch w ready st = s.modSeq ch fun q =>
      if q.cnt - 1 = 0 then { q.next with cnt := 0 } else { q with cnt := q.cnt - 1, upc := a } := by
  simp only [State.longOp, ho, ← ha, BitVec.ofNat_toNat, BitVec.setWidth_eq]
  congr 1
  funext q
  split
  case isTrue h => rw [Sequencer.next, h]; rfl
  case isFalse => rfl

/-- A poll that finds the LUN not ready counts one off the timeout, which the first poll takes from the word. -/
theorem State.longOp_waitrb (ho : lop w = 7) : s.longOp ch w ready st = s.modSeq ch fun q =>
    if ready then { q.next with st := st, wait := none } else { q with st := st, wait := some (q.wait.getD (bits w 24 1) - 1) } := by
  simp only [State.longOp, ho]
  congr 1
  funext q
  cases ready with
  | true => rfl
  | false => cases hw : q.wait <;> rfl

theorem State.longOp_lddesc (ho : lop w = 8) : s.longOp ch w ready st = s.modSeq ch fun q =>
    { q.next with a := q.a.set (bits w 25 24) (q.descWord (bits w 4 1)) } := by
  simp only [State.longOp, ho]

theorem State.longOp_adda (ho : lop w = 9) : s.longOp ch w ready st = s.modSeq ch fun q =>
    { q.next with a := q.a.set (bits w 25 24) (q.an (bits w 25 24) + (BitVec.ofNat 23 (bits w 23 1)).signExtend 48) } := by
  simp only [State.longOp, ho]

theorem State.longOp_setf (ho : lop w = 10) :
    s.longOp ch w ready st = (s.modSeq ch Sequencer.next).emit (.nand ch
      (Machine.setFeatures (((s.chan ch).seq.sel.map fun p => p.2).getD 0) (bits w 8 1)
        (((s.chan ch).seq.an (bits w 10 9)).setWidth 32))) := by
  simp only [State.longOp, ho]

/-- RETRY sets the next retry entry while the operation in hand has steps left (R270). -/
theorem State.longOp_retry (ho : lop w = 11) : s.longOp ch w ready st =
    if s.stepsLeft ch then
      (s.modSeq ch fun q => { q.next with entry := ((s.chan ch).seq.entry + 1) % 16, steps := q.steps + 1 }).emit (.nand ch
        (Machine.setFeatures (((s.chan ch).seq.sel.map fun p => p.2).getD 0) 0x89 (BitVec.ofNat 32 (((s.chan ch).seq.entry + 1) % 16))))
    else s.modSeq ch Sequencer.next := by
  simp only [State.longOp, ho]

theorem State.longOp_post (ho : lop w = 12) :
    s.longOp ch w ready st = (s.modSeq ch Sequencer.next).seqPost ch (bits w 8 1) := by
  simp only [State.longOp, ho]

end LongOperations

/-! ## Faults, short words and the timeout of a poll (R278, R280) -/

/-- An unassigned long opcode stops the sequencer. -/
theorem exec_halt_unassigned (h : s.runsWord ch w) (hf : (s.chan ch.val).seq.fault ≠ 0) (hl : bit w 31 = false) (ho : 12 < lop w) :
    exec (.halt ch) s = .next (s.seqFault ch.val (s.chan ch.val).seq.fault) :=
  (longRow_of_runsWord h hl (by rw [decide_eq_true ho, Bool.or_true])).trans
    (congrArg Host.Outcome.next (State.microStep_of_fault hf))

/-- A short word executes both its halves, or stops the sequencer. -/
theorem exec_shortOperationPair (h : s.runsWord ch w) (hl : bit w 31 = true) :
    exec (.shortOperationPair ch w dq) s = .next (if (s.chan ch.val).seq.fault ≠ 0 then s.seqFault ch.val (s.chan ch.val).seq.fault
      else s.shortPair ch.val w dq) := by
  change execShortOperationPair ch w dq s = _
  rw [execShortOperationPair, if_pos (State.seqAt_of_runsWord h (by rw [hl, beq_self_eq_true, Bool.and_self]))]
  obtain ⟨rfl, -⟩ := h
  split
  case isTrue hf => rw [State.microStep_of_fault hf]
  case isFalse hf => rw [State.microStep_short (not_not.1 hf) hl]

theorem exec_waitrbTimeout (hrun : s.regBit (MCH_CTRL ch.val) 0 = true) (hact : (s.chan ch.val).seq.active = true)
    (hwait : (s.chan ch.val).seq.wait = some 0) :
    exec (.waitrbTimeout ch) s = .next (s.modSeq ch.val fun q => { q.next with tmo := true, wait := none }) :=
  if_pos (by rw [hrun, hact, hwait]; rfl)

/-! ## STEP and the windows of the microstore (R281) -/

/-- An accepted STEP executes one word, a poll whose time has run out going on, unless the sequencer runs. -/
theorem exec_step (h : Accepts s m (mchPage ch.val) 0x80 (setBit v 1 true) (mchCtrlCond m ch.val (setBit v 1 true)) d) :
    exec (.step m ch v ready st dq) s = .next (mchCtrlEffect ch.val (setBit v 1 true) ready st dq d (s.arrive m)) := by
  change execStep m ch v ready st dq s = _
  rw [execStep, write_of_accepts h]

theorem mchCtrlEffect_step {ch : Nat} {u : State} (hu : s.store (MCH_CTRL ch) (setBit v 1 true) d = u) :
    mchCtrlEffect ch (setBit v 1 true) ready st dq d s = if s.regBit (MCH_CTRL ch) 0 = true then u
      else if (u.chan ch).seq.wait = some 0 then u.modSeq ch fun q => { q.next with tmo := true, wait := none }
      else u.microStep ch ready st dq := by
  simp only [mchCtrlEffect, hu, bit_setBit_self (show 1 < 32 by decide), Bool.true_eq_false, or_false]

theorem exec_mchUsdataAccess_write (h : Accepts s m (mchPage ch.val) 0x8C v (usdataCond m ch.val v) d) :
    exec (.mchUsdataAccess m ch (some v)) s = .next (usdataEffect ch.val v d (s.arrive m)) := by
  change execMchUsdataAccess m ch (some v) s = _
  simp only [execMchUsdataAccess, write_of_accepts h]

theorem exec_mchUsdataAccess_read (h : Reaches s m (mchPage ch.val) 0x8C d) :
    exec (.mchUsdataAccess m ch none) s = .next ((s.answerRead m (mchPage ch.val) (usdataView s ch.val)).usNext ch.val) := by
  change execMchUsdataAccess m ch none s = _
  simp only [execMchUsdataAccess, checkAccess_of_reaches h]

end Sys2Proof.Machine

open Sys2Proof Sys2Proof.Machine

/-- Settles O29: a word that passes its row's test is the long operation of its opcode, and the other commands pass their guards. -/
theorem sequencerCommands : Obligations.SequencerCommands := by
  refine ⟨fun s ch w h ho => ⟨_, longRow_of_atWord h (by rw [ho]; rfl) (State.longOp_halt ho), rfl⟩,
    fun s ch w a h ho ha => ⟨_, longRow_of_atWord h (rowTest ho ha.symm) (State.longOp_jmp ho ha), rfl⟩,
    fun s ch w c a h ho hc ha => ⟨_, longRow_of_atWord h (Bool.and_eq_true_iff.2 ⟨rowTest ho hc.symm, beq_iff_eq.2 ha.symm⟩)
      (State.longOp_jcc ho hc ha), rfl⟩,
    fun s ch w a h ho ha => ⟨_, longRow_of_atWord h (rowTest ho ha.symm) (State.longOp_call ho ha), rfl⟩,
    fun s ch w h ho => ⟨_, longRow_of_atWord h (beq_iff_eq.2 ho) (State.longOp_ret ho), rfl⟩,
    fun s ch w n h ho hn => ⟨_, longRow_of_atWord h (rowTest ho hn.symm) (State.longOp_ldcnt ho hn), rfl⟩,
    fun s ch w a h ho ha => ⟨_, longRow_of_atWord h (rowTest ho ha.symm) (State.longOp_loop ho ha), rfl⟩,
    fun s ch w ready st h ho => ⟨_, longRow_of_atWord h (rowTest ho rfl) (State.longOp_waitrb ho), rfl⟩,
    fun s ch w h ho => ⟨_, longRow_of_atWord h (rowTest ho rfl) (State.longOp_lddesc ho), rfl⟩,
    fun s ch w h ho => ⟨_, longRow_of_atWord h (rowTest ho rfl) (State.longOp_adda ho), rfl⟩, ?_, ?_,
    fun s ch w h ho => ⟨_, longRow_of_atWord h (rowTest ho rfl) (State.longOp_post ho), rfl⟩, ?_, ?_,
    fun s ch hrun hact hwait => ⟨_, exec_waitrbTimeout hrun hact hwait, rfl⟩,
    fun s m ch v ready st dq d u h hu => ⟨_, exec_step h, mchCtrlEffect_step hu.symm⟩,
    fun s m ch v d h => ⟨_, exec_mchUsdataAccess_write h, rfl⟩,
    fun s m ch d h => ⟨_, exec_mchUsdataAccess_read h, rfl⟩⟩
  · rintro s ch w _ h ho rfl
    exact ⟨_, longRow_of_atWord h (rowTest ho rfl) (State.longOp_setf ho), rfl⟩
  · rintro s ch w _ h ho rfl
    exact ⟨_, longRow_of_atWord h (rowTest ho rfl) (State.longOp_retry ho), rfl⟩
  · rintro s ch _ w rfl hw hon hrun hact hwait hf hl ho
    exact ⟨_, exec_halt_unassigned ⟨hw, hon, hrun, hact, hwait⟩ hf hl ho, rfl⟩
  · rintro s ch _ w dq rfl hw hon hrun hact hwait hl
    exact ⟨_, exec_shortOperationPair ⟨hw, hon, hrun, hact, hwait⟩ hl, rfl⟩
end

section
/-!
The search engine: the jobs of its port, the window of the codec, the sweep and the posted writes of the shadow, and the operations of its
banks and of page SRC.
-/

namespace Sys2Proof.Machine

variable {s u v w : State} {c : CellId} {j : Job} {b pos first : Nat} {e : Entry} {bank : Fin 16} {m : Master} {d : RegDef}

/-! ## The jobs of the port (R286 to R291, R293, R295) -/

/-- A search that names no bank whose searches are held ends with its result. -/
theorem exec_search {r : Found} (hj : s.searchJob c 1 = some j) (hh : s.heldSearch c (bits (j.word 0) 19 4) = false)
    (hf : s.searchFor c (bits (j.word 0) 19 4) (j.key144 1) = (r, v)) :
    exec (.search c) s = .next (v.endSearch c j 6 [.uns r.data, .uns r.res1] 0) := by
  change execSearch c s = _
  simp only [execSearch, hj, hh, hf, Bool.false_eq_true, if_false]

/-- The entries of a search stream that its input has delivered and for which its output has room. -/
def State.streamRoom (s : State) (c : CellId) (j : Job) : Nat :=
  min ((j.word 3).toNat - j.done) (min ((((s.cell c).su (hUnit (j.word 1))).d - ((s.cell c).su (hUnit (j.word 1))).c) / 24)
    ((((s.cell c).su (hUnit (j.word 2))).d + sbSize - ((s.cell c).su (hUnit (j.word 2))).c) / 8))

/-- The entries that were searched are counted in the job, which ends with the last of its entries. -/
theorem exec_searchStream {n : Nat} (hj : s.searchJob c 2 = some j)
    (hn : s.streamSearches c (hUnit (j.word 1)) (hUnit (j.word 2)) (s.streamRoom c j) = (n, v))
    (hu : v.modSearchJob c (fun j => { j with done := j.done + n }) = u) :
    exec (.searchStream c) s = .next (if j.done + n < (j.word 3).toNat then u
      else u.endSearch c j 4 [.uns (BitVec.ofNat 32 (j.word 3).toNat)] 0) := by
  unfold State.streamRoom at hn
  change execSearchStream c s = _
  simp only [execSearchStream, hj, hn, hu, apply_ite Host.Outcome.next]

/-- The entry that an INSERT job brings to a bank: the lowest free handle is its handle. -/
def Job.entryFor (j : Job) (k : Bank) : Entry :=
  { key := j.key144 1 &&& j.key144 6, care := j.key144 6, data := j.word 11, handle := k.freeHandle }

/-- A bank takes the entries `ents`, among them the new entry `e`: moved data are merged, and a recovery leaves `e` alone. -/
def State.takeEnts (s : State) (b : Nat) (ents : List (Nat × Entry)) (e : Entry) : State :=
  (s.mergeData b ((ents.filter fun q => !(s.bank b).ents.contains q).map fun q => q.1)).modBank b fun k =>
    { k with ents := ents, recov := k.recov.filter (· != e.handle) }

/-- An insertion into the lowest bank with a free position, while the posted writes have room. -/
theorem exec_insert {ents : List (Nat × Entry)} (hj : s.searchJob c 3 = some j)
    (hm : ((maskBanks (bits (j.word 0) 19 4)).any fun b => !s.mayName c b) = false)
    (ha : s.armed (srbPage ((maskBanks (bits (j.word 0) 19 4)).headD 0)) 5 = false)
    (hb : (maskBanks (bits (j.word 0) 19 4)).find? (fun b => decide ((s.bank b).ents.length < 8192)) = some b)
    (hp : s.search.posted.length < 64) (he : j.entryFor (s.bank b) = e) (hpl : (s.bank b).place e = (ents, pos, first)) :
    exec (.insert c) s = .next (((((s.takeEnts b ents e).restartAt b first).postSlot b e.handle e.slot).count (srbPage b) 6 1).endSearch
      c j 12 [.uns (BitVec.ofNat 32 (b + pos * 2 ^ 16))] 0) := by
  subst he
  unfold Job.entryFor at hpl
  change execInsert c s = _
  simp only [execInsert, hj, hm, ha, hb, hpl, not_le.2 hp, Bool.false_and, Bool.false_eq_true, if_false, State.takeEnts, Job.entryFor]

/-- The entries equal to that of a DELETE job in the banks it names: bank, position and handle. -/
def State.equalEnts (s : State) (j : Job) : List (Nat × Nat × Nat) :=
  (maskBanks (bits (j.word 0) 19 4)).flatMap fun b =>
    ((s.bank b).ents.filter fun q => q.2.key == (j.key144 1 &&& j.key144 6) && q.2.care == j.key144 6).map fun q => (b, q.1, q.2.handle)

/-- An entry is deleted: its position is free, the sweep restarts there, and the write of the free pattern to its slot is posted. -/
def State.deleteEnt (s : State) (q : Nat × Nat × Nat) : State :=
  ((s.modBank q.1 fun k => { k.drop q.2.1 with recov := k.recov.filter (· != q.2.2) }).restartAt q.1 q.2.1).postSlot q.1 q.2.2 .free

/-- When the posted writes have room for every equal entry, the job ends with all of them deleted. -/
theorem exec_delete {es : List (Nat × Nat × Nat)} (hj : s.searchJob c 4 = some j)
    (hm : ((maskBanks (bits (j.word 0) 19 4)).any fun b => !s.mayName c b) = false) (hes : s.equalEnts j = es) (hne : es ≠ [])
    (hp : es.length + s.search.posted.length ≤ 64) :
    exec (.delete c) s = .next ((es.foldl State.deleteEnt s).endSearch c j 11 [.uns (BitVec.ofNat 32 (j.done + es.length))] 0) := by
  have hlen : 0 < es.length := List.length_pos_iff.2 hne
  have hroom : ¬64 - s.search.posted.length = 0 := by omega
  have hall : es.take (64 - s.search.posted.length) = es := List.take_of_length_le (by omega)
  unfold State.equalEnts at hes
  change execDelete c s = _
  simp only [execDelete, hj, hm, hes, hall, List.isEmpty_eq_false_iff.2 hne, if_neg hroom, lt_irrefl, Bool.false_eq_true, if_false]
  rfl

/-- A READ of an occupied position of a bank that the cell may name ends with the entry. -/
theorem exec_searchEntryRead {x : Word} (hj : s.searchJob c 5 = some j) (hm : s.mayName c (bits (j.word 0) 23 20) = true)
    (he : (s.bank (bits (j.word 0) 23 20)).at (j.word 1).toNat = some e)
    (hd : s.entData (bits (j.word 0) 23 20) (j.word 1).toNat e = (x, v)) :
    exec (.searchEntryRead c) s = .next (v.endSearch c j 2 (keyWords e.key ++ keyWords e.care ++ [.uns x]) 0) := by
  change execSearchEntryRead c s = _
  simp only [execSearchEntryRead, hj, hm, he, hd, Bool.not_true, Bool.false_eq_true, if_false]

/-! ## Window mode (R294) -/

/-- The window, the shortest match and the farthest distance of a format. -/
def windowLimits (fmt : Nat) : Nat × Nat × Nat := if fmt = 2 then (32768, 3, 32768) else (65536, 4, 65535)

/-- The input `back` before the presented bytes is searched for matches with them; then the window, of `size` bytes, takes the first
eight. -/
def Bank.searchWindow (k : Bank) (back bs : List Byte) (size len far : Nat) : Bank :=
  { k with winRes := (List.range 8).map fun i => windowMatch back (bs.take 11) len far i
           window := (back ++ bs.take 8).drop ((back ++ bs.take 8).length - size)
           winPos := k.winPos + 8 }

theorem exec_windowSearch {unit : Fin 4} {bs : List Byte} {size len far : Nat}
    (hc : (s.codecTurn unit.val).map (fun k => k.cell) = some c) (hj : s.running c 1 = some j) (hb : s.windowBank unit.val = some b)
    (hz : bit (j.word 0) 0 = false) (hl : windowLimits (bits (j.word 0) 2 1) = (size, len, far)) :
    exec (.windowSearch unit bs) s = .next (s.modBank b fun k => k.searchWindow (s.bank b).window bs size len far) := by
  unfold windowLimits at hl
  change execWindowSearch unit bs s = _
  simp only [execWindowSearch, hc, Option.bind_some, hj, hb, hz, hl, Bool.false_eq_true, if_false]
  rfl

/-! ## The sweep and the posted writes (R297 to R299) -/

/-- The sweep of a bank goes on: the engine works and has started, the bank is in index mode, and no posted write of it waits. -/
def State.sweeps (s : State) (b : Nat) : Prop :=
  s.srcRuns = true ∧ s.regBit SRC_STAT 0 = false ∧ s.bankMode b = 1 ∧ (s.bank b).waits = 0

/-- The entry `f` that stands at a position is compared with its shadow, and the cursor passes it. -/
def State.sweepPos (s : State) (b pos : Nat) (f : Entry) (bad : Bool) : State :=
  ((s.modBank b fun k => { k with ents := putEnt k.ents pos f }).comparePos b pos f bad).setField (SRB_SWEEP b) 12 0 (pos + 1)

/-- The next occupied position is compared; after the last one the pass ends. -/
theorem exec_sweepCompare {flip : Option Entry} {bad : Bool} {f : Entry} (hs : s.sweeps bank.val)
    (hr : (s.bank bank.val).recov = [])
    (hn : (s.bank bank.val).ents.find? (fun q => decide (s.cursor bank.val ≤ q.1)) = some (pos, e))
    (hf : (flip.map fun f => { f with handle := e.handle }).getD e = f) (hu : s.sweepPos bank.val pos f bad = u) :
    exec (.sweepCompare bank flip bad) s =
      .next (if (((u.bank bank.val).ents.any fun q => decide (pos < q.1)) && decide (pos < 8191)) = true then u
        else u.passEnd bank.val) := by
  obtain ⟨hrun, hst, hm, hw⟩ := hs
  subst hf hu
  change execSweepCompare bank flip bad s = _
  simp only [execSweepCompare, hrun, hst, hm, hw, hr, hn, bne_self_eq_false, Bool.not_true, Bool.or_self, List.isEmpty_nil,
    Bool.false_eq_true, if_false, apply_ite Host.Outcome.next]
  cases flip <;> rfl

/-- The oldest posted write reaches its slot. -/
def State.writePosted (s : State) (b h : Nat) (x : ShSlot) (rest : List (Nat × Nat × ShSlot)) : State :=
  (({ s with search := { s.search with posted := rest } } : State).writeSlot b h x).modBank b fun k => { k with waits := k.waits - 1 }

section Posted

variable {h : Nat} {x : ShSlot} {rest : List (Nat × Nat × ShSlot)} (hr : s.srcRuns = true) (hp : s.search.posted = (b, h, x) :: rest)
  (hu : s.writePosted b h x rest = u)

include hr hp hu

/-- While other writes of the bank wait, its sweep waits. -/
theorem exec_shadowWriteComplete_waiting (hw : (u.bank b).waits ≠ 0) : exec .shadowWriteComplete s = .next u := by
  unfold State.writePosted at hu
  change execShadowWriteComplete s = _
  simp only [execShadowWriteComplete, hr, hp, hu, if_true]
  split
  case h_1 h0 _ => exact absurd h0 hw
  case h_2 => rfl

/-- With the last write of its bank the sweep restarts no later than the change. -/
theorem exec_shadowWriteComplete_last {p : Nat} (hw : (u.bank b).waits = 0) (hre : (u.bank b).restart = some p) :
    exec .shadowWriteComplete s =
      .next ((u.setField (SRB_SWEEP b) 12 0 (min (u.cursor b) p)).modBank b fun k => { k with restart := none }) := by
  unfold State.writePosted at hu
  change execShadowWriteComplete s = _
  simp only [execShadowWriteComplete, hr, hp, hu, hw, hre, if_true]

end Posted

/-! ## Spreads, clears and self-tests of a bank (R285, R292, R301, R304) -/

/-- A bank in index mode whose longest run exceeds four strides is spread. -/
theorem exec_spread_automatic (hr : s.srcRuns = true) (hst : s.regBit SRC_STAT 0 = false) (hm : s.bankMode bank.val = 1)
    (hl : 4 * s.stride < longestRun (s.bank bank.val).ents) : exec (.spread none bank) s = .next (s.spreadBank bank.val) := by
  refine if_pos ?_
  simp only [hr, hst, hm, hl, Bool.not_false, beq_self_eq_true, decide_true, Bool.and_self]

/-- An accepted write of SRB_CTRL has the effect of R304. -/
theorem srbCtrlWrite_of_accepts {b : Nat} {x : Word} (h : Accepts s m (srbPage b) 0x80 x (srbCtrlCond m b x) d) :
    srbCtrlWrite m b x s = .next (srbCtrlEffect b x (s.arrive m)) := by
  rw [srbCtrlWrite, write_of_accepts h]

/-- The self-test of a bank ends: the bank is free. -/
def State.endBankTest (s : State) (b : Nat) : State := s.modBank b fun k => { k with testing := false, ents := [] }

theorem exec_srbSelfTest_ends {pass : Bool} (ht : (s.bank bank.val).testing = true) (hr : s.srcRuns = true)
    (hs : s.field? SRC_STAT 6 4 ≠ 4) (hu : s.endBankTest bank.val = u) :
    exec (.srbSelfTest none bank pass) s =
      .next ((u.setReg (SRB_STAT bank.val) (setBit (u.reg (SRB_STAT bank.val)) 20 (!pass))).raise (srbPage bank.val) 6) := by
  subst hu
  refine if_neg ?_
  simp only [ht, hr, beq_eq_false_iff_ne.2 hs, Bool.not_true, Bool.or_self, Bool.false_eq_true, not_false_eq_true]

/-! ## Page SRC (R301, R302, R304) -/

theorem exec_init (h : Accepts s m srcPage 0x8C 1 (srcCmdCond m 1) d) : exec (.init m) s = .next (srcCmdEffect 1 (s.arrive m)) := by
  change execInit m s = _
  rw [execInit, write_of_accepts h]

theorem exec_reload (h : Accepts s m srcPage 0x8C 2 (srcCmdCond m 2) d) : exec (.reload m) s = .next (srcCmdEffect 2 (s.arrive m)) := by
  change execReload m s = _
  rw [execReload, write_of_accepts h]

/-- What the end of INIT or RELOAD has made of the banks: RELOAD has rebuilt those in index mode from their shadows. -/
def State.reloaded (s : State) : State :=
  if s.search.work = 2 then (List.range 16).foldl (fun s b => if s.bankMode b = 1 then s.reloadBank b else s) s else s

/-- No INIT and no RELOAD runs any longer. -/
def State.workDone (s : State) : State := { s with search := { s.search with work := 0 } }

section Work

variable (hw : s.search.work = 1 ∨ s.search.work = 2) (hs : s.field? SRC_STAT 6 4 ≠ 4) (hr : s.srcRuns = true)

include hw hs hr

theorem State.endWork_of_running :
    s.endWork = (s.reloaded.workDone.setReg SRC_STAT (setBit (s.reloaded.workDone.reg SRC_STAT) 0 false)).raise srcPage 4 := by
  refine if_neg ?_
  rintro (h | h | h)
  · omega
  · exact hs h
  · exact Bool.false_ne_true (h.symm.trans hr)

/-- START falls with the end of INIT or RELOAD, and the device may be in full service. -/
theorem exec_srcReady : exec .srcReady s =
    .next ((s.reloaded.workDone.setReg SRC_STAT (setBit (s.reloaded.workDone.reg SRC_STAT) 0 false)).raise srcPage 4).tryFull :=
  congrArg (fun t : State => Host.Outcome.next t.tryFull) (State.endWork_of_running hw hs hr)

end Work

/-- Whether the engine has work of its own: INIT, RELOAD, a self-test or a recovery. -/
def State.ownWork (s : State) : Bool :=
  s.search.work != 0 || (List.range 16).any fun b => (s.bank b).testing || !(s.bank b).recov.isEmpty

/-- The cycles of a millisecond that a throttle step withholds. -/
def withheld (step : Nat) : Nat := if step = 4 then 800000 else 800000 - 800000 / 2 ^ step

/-- The cycles withheld in the last millisecond are counted while the engine has work of its own. -/
def State.countWithheld (s : State) : State :=
  if s.ownWork && s.field? SRC_STAT 6 4 != 0 then s.count srcPage 2 (withheld (s.field? SRC_STAT 6 4)) else s

/-- SRC_STAT takes the temperature and its step; a change of the step raises its event. -/
theorem exec_srcThrottleSample {step : Nat} (hon : s.pageOn srcPage = true) (hs : srcStep ((s.field? TMP_STAT 7 0 : Int) - 64) = step)
    (hu : s.countWithheld = u)
    (hw : u.setReg SRC_STAT (setBits (setBits (u.reg SRC_STAT) 15 8 (s.field? TMP_STAT 7 0)) 6 4 step) = w) :
    exec .srcThrottleSample s = .next (if step = s.field? SRC_STAT 6 4 then w else w.raise srcPage 3) := by
  subst hs hu hw
  refine if_neg ?_
  simp only [hon, Bool.not_true, Bool.false_eq_true, not_false_eq_true]

end Sys2Proof.Machine

open Sys2Proof Sys2Proof.Machine

/-- Settles O30: each job passes its guards and ends with its result, and each engine takes its step. -/
theorem searchCommands : Obligations.SearchCommands := by
  refine ⟨fun s c j r v hj hh hf => ⟨_, exec_search hj hh hf, rfl⟩, ?_, ?_, ?_,
    fun s c j e x v hj hm he hd => ⟨_, exec_searchEntryRead hj hm he hd, rfl⟩,
    fun s unit bs c j b size len far hc hj hb hz hl => ⟨_, exec_windowSearch hc hj hb hz hl.symm, rfl⟩, ?_,
    fun s b h x rest u hr hp hu hw => ⟨_, exec_shadowWriteComplete_waiting hr hp hu.symm hw, rfl⟩,
    fun s b h x rest u p hr hp hu hw hre => ⟨_, exec_shadowWriteComplete_last hr hp hu.symm hw hre, rfl⟩,
    fun s bank hr hst hm hl => ⟨_, exec_spread_automatic hr hst hm hl, rfl⟩, ?_, ?_, ?_, ?_,
    fun s bank pass u ht hr hs hu => ⟨_, exec_srbSelfTest_ends ht hr hs hu.symm, rfl⟩,
    fun s m d h => ⟨_, exec_init h, rfl⟩,
    fun s m d h => ⟨_, exec_reload h, rfl⟩, ?_, ?_⟩
  · rintro s c j _ n u v hj rfl hn hu
    exact ⟨_, exec_searchStream hj hn hu.symm, rfl⟩
  · rintro s c j b ents pos first e _ hj hm ha hb hp he hpl rfl
    exact ⟨_, exec_insert hj hm ha hb hp he.symm hpl, rfl⟩
  · rintro s c j es _ hj hm hes hne hp rfl
    exact ⟨_, exec_delete hj hm hes.symm hne hp, rfl⟩
  · intro s bank flip bad pos e f u hr hst hm hw hrec hn hf hu
    exact ⟨_, exec_sweepCompare ⟨hr, hst, hm, hw⟩ hrec hn hf.symm hu.symm, rfl⟩
  · rintro s m bank _ d rfl h
    exact ⟨_, srbCtrlWrite_of_accepts h, rfl⟩
  · rintro s m bank _ d rfl h
    exact ⟨_, srbCtrlWrite_of_accepts h, rfl⟩
  · rintro s m bank v _ d rfl h
    exact ⟨_, srbCtrlWrite_of_accepts h, rfl⟩
  · rintro s m bank pass _ d rfl h
    exact ⟨_, srbCtrlWrite_of_accepts h, rfl⟩
  · rintro s _ hw hs hr rfl
    exact ⟨_, exec_srcReady hw hs hr, _, rfl, rfl⟩
  · rintro s _ _ _ _ hon rfl rfl rfl rfl
    exact ⟨_, exec_srcThrottleSample hon rfl rfl rfl, rfl⟩
end

section
/-!
The queue of commands: every command ends in a next state, in which the same commands wait (`State.Queued`).
-/

namespace Sys2Proof.Machine

/-- The commands `qs` wait. -/
def State.Queued (qs : List Instr) (s : State) : Prop := s.pending = qs

/-- A command is carried out: it answers a next state, of which `P` holds. -/
def Answers (P : State → Prop) (o : Answer) : Prop := ∃ t, o = .next t ∧ P t

/-! ## The commands that wait in what an operation answers -/

/-- In every state in what an instruction's body answers the commands `qs` wait. -/
structure Body.Queued (qs : List Instr) (b : Body) : Prop where
  okState {s : State} {n : Nat} {pc : Option (BitVec 14)} : b = .ok s n pc → s.Queued qs
  refusedState {s : State} {x y z : Nat} : b = .refused s x y z → s.Queued qs
  stallState {k : Stall} {s : State} : b = .stall k s → s.Queued qs

/-- In the state in the answer to a refused access the commands `qs` wait. -/
def Verdict.Queued (qs : List Instr) (v : Verdict) : Prop := ∀ s r, v = .stop s r → s.Queued qs

/-- A row of the checks of R84 that ends a command leaves the commands `qs` waiting. -/
def Row.Queued (qs : List Instr) (r : Row) : Prop := ∀ s : State, s.Queued qs → AllSome (fun x => x.2.Queued qs) (r s)

/-- Every row of a list leaves the commands `qs` waiting. -/
def RowsQueued (qs : List Instr) (l : List Row) : Prop := ∀ r ∈ l, Row.Queued qs r

/-- The checks of an I/O job and what its admission makes of the state leave the commands `qs` waiting. -/
structure IoJob.Queued (qs : List Instr) (j : IoJob) : Prop where
  rows : RowsQueued qs j.rows
  ok : ∀ s : State, s.Queued qs → (j.ok s).Queued qs

variable {qs : List Instr}

section Answers

variable {α β γ ε : Type} {P : State → Prop} {c : Prop} {inst : Decidable c}

theorem Answers.next {s : State} (h : P s) : Answers P (.next s) := ⟨s, rfl, h⟩
theorem Answers.ite {a b : Answer} (ha : Answers P a) (hb : Answers P b) : Answers P (if c then a else b) := by
  split <;> assumption

section Rows

variable {r : Row} {l l' : List Row}

theorem RowsQueued.head (h : RowsQueued qs (r :: l)) : Row.Queued qs r := h r List.mem_cons_self
theorem RowsQueued.tail (h : RowsQueued qs (r :: l)) : RowsQueued qs l := fun x hx => h x (List.mem_cons_of_mem _ hx)
theorem RowsQueued.nil : RowsQueued qs [] := fun _ hx => nomatch hx
theorem RowsQueued.cons (h : Row.Queued qs r) (hl : RowsQueued qs l) : RowsQueued qs (r :: l) := List.forall_mem_cons.2 ⟨h, hl⟩
theorem RowsQueued.append (h : RowsQueued qs l) (h' : RowsQueued qs l') : RowsQueued qs (l ++ l') := List.forall_mem_append.2 ⟨h, h'⟩
theorem RowsQueued.ite (h : RowsQueued qs l) (h' : RowsQueued qs l') : RowsQueued qs (if c then l else l') := by split <;> assumption

end Rows

variable {s t : State} {b d : Body}

theorem Body.Queued.ok {n : Nat} {pc : Option (BitVec 14)} (h : s.Queued qs) : (Body.ok s n pc).Queued qs :=
  ⟨fun e => by cases e; exact h, (nomatch ·), (nomatch ·)⟩
theorem Body.Queued.trap {x y z w n : Nat} {after : Bool} : (Body.trap x y z w after n).Queued qs :=
  ⟨(nomatch ·), (nomatch ·), (nomatch ·)⟩
theorem Body.Queued.refused {x y z : Nat} (h : s.Queued qs) : (Body.refused s x y z).Queued qs :=
  ⟨(nomatch ·), fun e => by cases e; exact h, (nomatch ·)⟩
theorem Body.Queued.stall {k : Stall} (h : s.Queued qs) : (Body.stall k s).Queued qs :=
  ⟨(nomatch ·), (nomatch ·), fun e => by cases e; exact h⟩
theorem Body.Queued.ite (hb : b.Queued qs) (hd : d.Queued qs) : (if c then b else d).Queued qs := by split <;> assumption

theorem Verdict.Queued.stop {r : BusReply} (h : s.Queued qs) : (Verdict.stop s r).Queued qs := fun _ _ e => by cases e; exact h
theorem Verdict.Queued.pass {d : RegDef} : (Verdict.pass d).Queued qs := fun _ _ e => nomatch e
theorem Verdict.Queued.ite {b d : Verdict} (hb : b.Queued qs) (hd : d.Queued qs) : (if c then b else d).Queued qs := by split <;> assumption
theorem Verdict.Queued.of_eq {o : Verdict} {r : BusReply} (h : o.Queued qs) (e : o = .stop s r) : s.Queued qs := h _ _ e

/-! ## The commands that wait in a state -/

namespace State.Queued

theorem ite (hs : s.Queued qs) (ht : t.Queued qs) : (if c then s else t).Queued qs := by split <;> assumption
theorem iteFn {f g : State → State} (hf : (f s).Queued qs) (hg : (g s).Queued qs) : ((if c then f else g) s).Queued qs := by
  split <;> assumption
theorem diteFn {f : c → State → State} {g : ¬ c → State → State} (hf : ∀ h, (f h s).Queued qs) (hg : ∀ h, (g h s).Queued qs) :
    ((if h : c then f h else g h) s).Queued qs := by
  split
  · exact hf _
  · exact hg _
theorem iteFst {x y : State × α} (hx : x.1.Queued qs) (hy : y.1.Queued qs) : (if c then x else y).1.Queued qs := by split <;> assumption
theorem iteSnd {x y : α × State} (hx : x.2.Queued qs) (hy : y.2.Queued qs) : (if c then x else y).2.Queued qs := by split <;> assumption
theorem iteSnd2 {x y : α × β × State} (hx : x.2.2.Queued qs) (hy : y.2.2.Queued qs) : (if c then x else y).2.2.Queued qs := by
  split <;> assumption
theorem fst {a : α} (h : s.Queued qs) : (s, a).1.Queued qs := h
theorem snd {a : α} (h : s.Queued qs) : (a, s).2.Queued qs := h
theorem snd2 {a : α} {b : β} (h : s.Queued qs) : (a, b, s).2.2.Queued qs := h
theorem snd3 {a : α} {b : β} {d : γ} (h : s.Queued qs) : (a, b, d, s).2.2.2.Queued qs := h
theorem ofFst {x : State × α} {a : α} (h : x.1.Queued qs) (e : x = (s, a)) : s.Queued qs := by subst e; exact h
theorem ofSnd {x : α × State} {a : α} (h : x.2.Queued qs) (e : x = (a, s)) : s.Queued qs := by subst e; exact h
theorem ofSnd2 {x : α × β × State} {a : α} {b : β} (h : x.2.2.Queued qs) (e : x = (a, b, s)) : s.Queued qs := by subst e; exact h
theorem ofSnd3 {x : α × β × γ × State} {a : α} {b : β} {d : γ} (h : x.2.2.2.Queued qs) (e : x = (a, b, d, s)) : s.Queued qs := by subst e; exact h

theorem fstOf {x : State × α} {a : α} (e : x = (s, a)) (h : x.1.Queued qs) : s.Queued qs := h.ofFst e
theorem sndOf {x : α × State} {a : α} (e : x = (a, s)) (h : x.2.Queued qs) : s.Queued qs := h.ofSnd e
theorem snd2Of {x : α × β × State} {a : α} {b : β} (e : x = (a, b, s)) (h : x.2.2.Queued qs) : s.Queued qs := h.ofSnd2 e

theorem foldl {f : State → α → State} {l : List α} (h : s.Queued qs) (hf : ∀ t, t.Queued qs → ∀ a, (f t a).Queued qs) : (l.foldl f s).Queued qs :=
  l.foldlRecOn f h fun t ht x _ => hf t ht x
theorem foldlFst {f : State × β → α → State × β} {l : List α} {x : State × β} (h : x.1.Queued qs)
    (hf : ∀ t, t.1.Queued qs → ∀ a, (f t a).1.Queued qs) : (l.foldl f x).1.Queued qs :=
  l.foldlRecOn (motive := fun t => t.1.Queued qs) f h fun t ht a _ => hf t ht a
theorem foldlSnd {f : β × State → α → β × State} {l : List α} {x : β × State} (h : x.2.Queued qs)
    (hf : ∀ t, t.2.Queued qs → ∀ a, (f t a).2.Queued qs) : (l.foldl f x).2.Queued qs :=
  l.foldlRecOn (motive := fun t => t.2.Queued qs) f h fun t ht a _ => hf t ht a
theorem foldlSnd2 {f : β × γ × State → α → β × γ × State} {l : List α} {x : β × γ × State} (h : x.2.2.Queued qs)
    (hf : ∀ t, t.2.2.Queued qs → ∀ a, (f t a).2.2.Queued qs) : (l.foldl f x).2.2.Queued qs :=
  l.foldlRecOn (motive := fun t => t.2.2.Queued qs) f h fun t ht a _ => hf t ht a

end State.Queued
end Answers

/-! ## Changes of anything but the queue -/

/-- A change of other parts of the state. -/
theorem State.Queued.rest {s : State} (h : s.Queued qs) {pages host adm prog cells fabric ftl care red media search crypto dram upsets vfm field
    frl sb power start events squall fresh out} :
    State.Queued qs ⟨s.pending, pages, host, adm, prog, cells, fabric, ftl, care, red, media, search, crypto, dram, upsets, vfm, field, frl,
      sb, power, start, events, squall, fresh, out⟩ := h

/-! ## Every operation of the model leaves the queue as it is, in the order of the model's files -/

variable {s : State}

/-! ### Ops -/

theorem State.Queued.setReg {key : Nat} {v : Word} (h : s.Queued qs) : (s.setReg key v).Queued qs :=
  h.rest

theorem State.Queued.setField {key hi lo v : Nat} (h : s.Queued qs) : (s.setField key hi lo v).Queued qs := h.setReg

theorem State.Queued.emit {o : Out} (h : s.Queued qs) : (s.emit o).Queued qs := h.rest

theorem State.Queued.free (h : s.Queued qs) : s.free.2.Queued qs := .snd h.rest

theorem State.Queued.learnTime {t : BitVec 64} {valid : Bool} (h : s.Queued qs) : (s.learnTime t valid).Queued qs :=
  h.rest

theorem State.Queued.modCell {c : CellId} {f : Cell → Cell} (h : s.Queued qs) : (s.modCell c f).Queued qs :=
  h.rest

theorem State.Queued.modCtrl {f : Fun} {g : Ctrl → Ctrl} (h : s.Queued qs) : (s.modCtrl f g).Queued qs :=
  h.rest

theorem State.Queued.modLogs {f : Fun} {g : FnLogs → FnLogs} (h : s.Queued qs) : (s.modLogs f g).Queued qs :=
  h.rest

theorem State.Queued.startWosc (h : s.Queued qs) : s.startWosc.Queued qs := h.setReg.setReg.rest

theorem State.Queued.logWarden {page : Nat} {w : Word} (h : s.Queued qs) : (s.logWarden page w).Queued qs := h.rest

theorem State.Queued.alert {page : Nat} (h : s.Queued qs) : (s.alert page).Queued qs := by
  unfold State.alert
  extract_lets s1
  have h1 : s1.Queued qs := h.logWarden
  exact .ite h1.emit h1

theorem State.Queued.sendVector {f : Fun} {v : Nat} (h : s.Queued qs) : (s.sendVector f v).Queued qs :=
  .ite h.modCtrl h.emit

theorem State.Queued.sendVectors {f : Fun} {v n : Nat} (h : s.Queued qs) : (s.sendVectors f v n).Queued qs := by
  induction n with
  | zero => exact h
  | succ n ih => exact ih.sendVector

theorem State.Queued.signal {page n : Nat} (h : s.Queued qs) : (s.signal page n).1.Queued qs := by
  unfold State.signal
  split
  · exact .iteFst (.iteFst (.fst h) (.fst h.sendVectors)) (.fst h)
  · exact .fst h.startWosc
  · exact .fst h.alert
  · exact .fst h

theorem State.Queued.setRaw {page : Nat} {m : Word} (h : s.Queued qs) : (s.setRaw page m).1.Queued qs := by
  unfold State.setRaw
  extract_lets
  refine .iteFst (.fst h.setReg) ?_
  split
  · next e => exact .fst (h.setReg.signal.ofFst e)
  · next e => exact .fst (h.setReg.signal.ofFst e)

theorem State.Queued.countRaw {page slot n : Nat} (h : s.Queued qs) : (s.countRaw page slot n).1.Queued qs :=
  .iteFst (.fst h.setReg.setReg) (.fst h.setReg)

theorem State.Queued.raiseMask {page : Nat} {m : Word} (h : s.Queued qs) : (s.raiseMask page m).Queued qs := by
  unfold State.raiseMask
  split
  · next e => exact h.setRaw.ofFst e
  · next e =>
      split
      · next e2 => exact (h.setRaw.ofFst e).countRaw.ofFst e2
      · next e2 => exact ((h.setRaw.ofFst e).countRaw.ofFst e2).setRaw

theorem State.Queued.raise {page k : Nat} (h : s.Queued qs) : (s.raise page k).Queued qs := h.raiseMask

theorem State.Queued.count {page slot n : Nat} (h : s.Queued qs) : (s.count page slot n).Queued qs := by
  unfold State.count
  split
  · next e => exact (h.countRaw.ofFst e).raise
  · next e => exact h.countRaw.ofFst e

theorem State.Queued.count64 {page slot n : Nat} (h : s.Queued qs) : (s.count64 page slot n).Queued qs := by
  unfold State.count64
  extract_lets _ _ s1
  have h1 : s1.Queued qs := h.setReg.setReg
  exact .ite h1.setReg.raise h1

theorem State.Queued.error {page code : Nat} {m : Option Master} {c1 c2 c3 c6 c7 : Word} (h : s.Queued qs) :
    (s.error page code m c1 c2 c3 c6 c7).Queued qs := by
  unfold State.error
  extract_lets s1
  have h1 : s1.Queued qs := h.count
  refine .ite h1.setReg ?_
  split
  · extract_lets _ s2 _ s3 s4
    have h2 : s2.Queued qs := h1.setReg.setReg.setReg
    have h3 : s3.Queued qs := h2.setReg.setReg.setReg
    have h4 : s4.Queued qs := h3.setReg.setReg
    exact .raise (.ite h4 h4.setReg.setReg.setReg)

theorem State.Queued.blockError {page code : Nat} {c1 c2 c3 : Word} (h : s.Queued qs) : (s.blockError page code c1 c2 c3).Queued qs :=
  h.error

theorem State.Queued.setStat {page k : Nat} (h : s.Queued qs) : (s.setStat page k).Queued qs :=
  .ite h.setReg.raise h.setReg

theorem State.Queued.accessFail {page k code : Nat} {m : Master} {off : Nat} {v : Word} (h : s.Queued qs) :
    (s.accessFail page k code m off v).Queued qs :=
  h.setStat.count.error

theorem State.Queued.refuse {page code : Nat} {m : Master} {off : Nat} {v : Word} (h : s.Queued qs) : (s.refuse page code m off v).Queued qs :=
  h.error

theorem State.Queued.refuseRsvd {page code : Nat} {m : Master} {off : Nat} {v : Word} (h : s.Queued qs) :
    (s.refuseRsvd page code m off v).Queued qs :=
  h.setStat.refuse

theorem State.Queued.logPlace {page : Nat} {v : Word} (h : s.Queued qs) : (s.logPlace page v).Queued qs :=
  .ite h h.setReg.setReg

theorem State.Queued.logCorrection {page array index : Nat} (h : s.Queued qs) : (s.logCorrection page array index).Queued qs := by
  unfold State.logCorrection
  extract_lets _ _ _ s1
  have h1 : s1.Queued qs := .logPlace (.ite h.setReg.setReg h.setReg)
  exact .ite h1.raise h1

theorem State.Queued.readProt {page array index rows cols : Nat} (h : s.Queued qs) : (s.readProt page array index rows cols).2.Queued qs := by
  unfold State.readProt
  extract_lets
  refine .iteSnd (.snd h) ?_
  split
  · exact .snd h.logCorrection
  · exact .snd h

theorem State.Queued.scanProt {page array lo n : Nat} (h : s.Queued qs) : (s.scanProt page array lo n).2.Queued qs := by
  unfold State.scanProt
  refine .foldlSnd (.snd h) (fun _ ht _ => ?_)
  split
  · next e => exact .snd (ht.readProt.ofSnd e)
  · next e => exact .snd (ht.readProt.ofSnd e)

theorem State.Queued.clearProt {page array lo n : Nat} (h : s.Queued qs) : (s.clearProt page array lo n).Queued qs :=
  h.rest

theorem State.Queued.freshProt {page array index : Nat} (h : s.Queued qs) : (s.freshProt page array index).Queued qs :=
  h.rest

theorem State.Queued.mergeProt {page array index rows cols written : Nat} (h : s.Queued qs) :
    (s.mergeProt page array index rows cols written).Queued qs := by
  unfold State.mergeProt
  split
  · next e =>
      have h1 := h.readProt.ofSnd e
      exact h1.rest
  · next e =>
      have h2 := h.readProt.ofSnd e
      exact h2.rest

theorem State.Queued.arrive {m : Master} (h : s.Queued qs) : (s.arrive m).Queued qs := by
  unfold State.arrive
  split
  · exact .ite h.count64 h
  · exact .ite h.count64 h
  · exact h

theorem State.Queued.checkAccess {m : Master} {page off width : Nat} {isRead : Bool} {v : Word} (h : s.Queued qs) :
    (s.checkAccess m page off width isRead v).Queued qs := by
  unfold State.checkAccess
  refine .ite (.stop h.setReg) ?_
  extract_lets
  refine .ite (.stop h.accessFail) ?_
  split
  · exact .stop h.accessFail
  · exact .pass

theorem State.Queued.write {m : Master} {page off width : Nat} {v : Word} {cond : State → Option State} {effect : RegDef → State → State}
    (h : s.Queued qs) (hcond : ∀ t, t.Queued qs → AllSome (State.Queued qs) (cond t)) (heffect : ∀ x, ∀ t, t.Queued qs → (effect x t).Queued qs) :
    (s.write m page off width v cond effect).1.Queued qs := by
  unfold State.write
  extract_lets s1
  have h1 : s1.Queued qs := h.arrive
  split
  · next e => exact .fst (h1.checkAccess.of_eq e)
  · refine .iteFst (.fst h1.accessFail) (.iteFst (.fst h1) ?_)
    refine .iteFst (.fst h1.accessFail) (.iteFst (.fst h1.accessFail) (.iteFst (.fst h1.accessFail) ?_))
    split
    · next e => exact .fst ((hcond _ h1).of_eq e)
    · exact .iteFst (.fst (heffect _ _ h1).accessFail) (.fst (heffect _ _ h1))

theorem State.Queued.store {key : Nat} {v : Word} {d : RegDef} (h : s.Queued qs) : (State.store key v d s).Queued qs :=
  h.setReg

theorem State.Queued.cause {k : Nat} {b : Bool} (h : s.Queued qs) : (s.cause k b).Queued qs :=
  .ite h.setReg (.ite h.setReg.raise h.setReg.raise)

theorem State.Queued.syncTemp (h : s.Queued qs) : s.syncTemp.Queued qs := .ite h h.cause

theorem State.Queued.syncSupply (h : s.Queued qs) : s.syncSupply.Queued qs := .ite h h.cause

theorem State.Queued.breakMs (h : s.Queued qs) : s.breakMs.Queued qs := h.rest

theorem State.Queued.syncSquall (h : s.Queued qs) : s.syncSquall.Queued qs := .cause (.ite h.breakMs h)

theorem State.Queued.reply {m : Master} {r : BusReply} (h : s.Queued qs) : (s.reply m r).Queued qs := h.emit

theorem State.Queued.release {x : Delayed} (h : s.Queued qs) : (s.release x).Queued qs := by
  unfold State.release
  split
  · exact h.emit
  · exact h.modCell
  · exact h.rest
  · exact h.rest
  · exact h.rest

theorem State.Queued.deliver {page : Nat} {d : Delayed} (h : s.Queued qs) : (s.deliver page d).Queued qs :=
  .ite h.release h.rest

theorem State.Queued.answerRead {m : Master} {page : Nat} {v : Word} (h : s.Queued qs) : (s.answerRead m page v).Queued qs :=
  h.deliver

theorem State.Queued.disarm {page k : Nat} (h : s.Queued qs) : (s.disarm page k).Queued qs := h.setReg

/-! ### Pages -/

theorem State.Queued.rearmCapture {page : Nat} {v : Word} (h : s.Queued qs) : (rearmCapture page v s).Queued qs :=
  .ite (h.foldl (fun _ ht _ => ht.setReg)) h

theorem State.Queued.execErrcapRearm {m : Master} {page : Nat} {v : Word} (h : s.Queued qs) :
    Answers (State.Queued qs) (execErrcapRearm m page v s) :=
  .next (h.write (fun _ _ => .none) (fun _ _ ht => ht.rearmCapture))

theorem State.Queued.execEvSet {m : Master} {page : Nat} {v : Word} (h : s.Queued qs) : Answers (State.Queued qs) (execEvSet m page v s) :=
  .next (h.write (fun _ _ => .none) (fun _ _ ht => ht.raiseMask))

theorem State.Queued.clearRaw {page : Nat} {v : Word} (h : s.Queued qs) : (clearRaw page v s).Queued qs :=
  .ite h.setReg.emit h.setReg

theorem State.Queued.execEvClear {m : Master} {page : Nat} {v hw : Word} (h : s.Queued qs) :
    Answers (State.Queued qs) (execEvClear m page v hw s) :=
  .next (.raiseMask (h.write (fun _ _ => .none) (fun _ _ ht => ht.clearRaw)))

theorem State.Queued.relevel {page : Nat} (h : s.Queued qs) : (relevel page s).Queued qs := by
  unfold Machine.relevel
  refine .ite h ?_
  split
  · exact h.startWosc
  · exact h.alert
  · exact h

theorem State.Queued.routeEffect {page : Nat} {v : Word} {d : RegDef} (h : s.Queued qs) : (routeEffect page v d s).Queued qs := by
  unfold Machine.routeEffect
  extract_lets s1
  have h1 : s1.Queued qs := h.store.relevel
  exact .ite h1.emit h1

theorem State.Queued.execEvRouteWrite {m : Master} {page : Nat} {v : Word} (h : s.Queued qs) :
    Answers (State.Queued qs) (execEvRouteWrite m page v s) :=
  .next (h.write (fun _ _ => .none) (fun _ _ ht => ht.routeEffect))

theorem State.Queued.ownerCond {m : Master} {page : Nat} {v : Word} (h : s.Queued qs) : AllSome (State.Queued qs) (ownerCond m page v s) :=
  .ite (.some h.accessFail) .none

theorem State.Queued.execPgOwnerWrite {m : Master} {page : Nat} {v : Word} (h : s.Queued qs) :
    Answers (State.Queued qs) (execPgOwnerWrite m page v s) :=
  .next (h.write (fun _ ht => ht.ownerCond) (fun _ _ ht => ht.store))

theorem State.Queued.clearCounter {page slot : Nat} {v : Word} (h : s.Queued qs) : (clearCounter page slot v s).Queued qs := by
  unfold Machine.clearCounter
  extract_lets joined clear
  have hc (t : State) (ht : t.Queued qs) (j : Nat) : (clear t j).Queued qs := .setReg (.ite ht.setReg.setReg ht.setReg)
  exact .ite h (.ite (hc _ (hc s h 2) 4) (hc s h slot))

theorem State.Queued.execCounterClear {m : Master} {page slot : Nat} {v : Word} (h : s.Queued qs) :
    Answers (State.Queued qs) (execCounterClear m page slot v s) :=
  .next (h.write (fun _ _ => .none) (fun _ _ ht => ht.clearCounter))

theorem State.Queued.latch {page off : Nat} {m : Master} {v : Word} (h : s.Queued qs) : (s.latch page off m v).Queued qs :=
  h.rest

theorem State.Queued.execRefusedRead {m : Master} {page off width : Nat} (h : s.Queued qs) :
    Answers (State.Queued qs) (execRefusedRead m page off width s) := by
  unfold Machine.execRefusedRead
  extract_lets s1
  have h1 : s1.Queued qs := h.arrive
  split
  · next e => exact .next (h1.checkAccess.of_eq e).reply
  · exact .next h1

/-! ### CellCore -/

theorem State.Queued.setW {c : CellId} {r : Reg} {v : TWord} (h : s.Queued qs) : (s.setW c r v).Queued qs := h.modCell

theorem State.Queued.decodeDm {c : CellId} {a : Nat} (h : s.Queued qs) : (s.decodeDm c a).2.Queued qs := by
  unfold State.decodeDm
  extract_lets
  split
  · next e => exact .snd (h.readProt.ofSnd e)
  · next e =>
      have h1 := h.readProt.ofSnd e
      exact .snd (.ite h1.count h1)

theorem State.Queued.readDm {c : CellId} {a : Nat} (h : s.Queued qs) : (s.readDm c a).2.Queued qs := .snd h.decodeDm

theorem State.Queued.writeDm {c : CellId} {a : Nat} {w : TWord} (h : s.Queued qs) : (s.writeDm c a w).Queued qs :=
  h.modCell.freshProt

theorem State.Queued.fetchI {c : CellId} {a : Nat} (h : s.Queued qs) : (s.fetchI c a).2.Queued qs := by
  unfold State.fetchI
  extract_lets
  split
  · next e => exact .snd (h.readProt.ofSnd e)
  · next e => exact .snd (h.readProt.ofSnd e)

theorem State.Queued.dropLoad {c : CellId} (h : s.Queued qs) : (s.dropLoad c).Queued qs := h.rest

theorem State.Queued.doubleTrap {c : CellId} (h : s.Queued qs) : (s.doubleTrap c).Queued qs :=
  h.modCell.setReg.count.raise

theorem State.Queued.trap {c : CellId} {cause detail tagseen opnd : Nat} {pc : BitVec 14} (h : s.Queued qs) :
    (s.trap c cause detail tagseen opnd pc).Queued qs := by
  unfold State.trap
  extract_lets _ _ _ _ _ s1 s2 s3
  have h1 : s1.Queued qs := h.modCell.setReg.setReg
  have h2 : s2.Queued qs := h1.count
  have h3 : s3.Queued qs := .ite h2.count h2
  exact .ite h.doubleTrap (.ite h3.raise (.ite h3.raise (.ite h3.raise h3)))

theorem State.Queued.fetchN {c : CellId} {a n : Nat} (h : s.Queued qs) : (s.fetchN c a n).2.Queued qs := by
  induction n generalizing s a with
  | zero => exact .snd h
  | succ n ih =>
    unfold State.fetchN
    split
    · next e => exact .snd (h.fetchI.ofSnd e)
    · next e =>
        split
        · next e2 => exact .snd ((ih (h.fetchI.ofSnd e)).ofSnd e2)
        · next e2 => exact .snd ((ih (h.fetchI.ofSnd e)).ofSnd e2)

theorem State.Queued.fetchSlot {c : CellId} {a n : Nat} (h : s.Queued qs) : (s.fetchSlot c a n).2.Queued qs := by
  unfold State.fetchSlot
  extract_lets
  refine .iteSnd ?_ h.fetchN
  split
  · next e => exact .snd (h.fetchI.ofSnd e)
  · next e => exact .snd (h.fetchI.ofSnd e)

theorem State.Queued.pairWords {c : CellId} {a n : Nat} (h : s.Queued qs) : AllError (fun x => x.2.Queued qs) (s.pairWords c a n) := by
  induction n generalizing s a with
  | zero => exact .ok
  | succ n ih =>
    unfold State.pairWords
    refine .ite (.error (.snd h)) ?_
    split
    · next e => exact .error (.snd (h.fetchI.ofSnd e))
    · next e => exact .ite (.map (ih (h.fetchI.ofSnd e))) .ok

theorem State.Queued.charged {c : CellId} {n : Nat} {f : State → State} (h : s.Queued qs) (hf : ∀ t, t.Queued qs → (f t).Queued qs) :
    (s.charged c n f).Queued qs := by
  unfold State.charged
  extract_lets
  refine .ite ?_ (hf _ h)
  split
  · exact h.modCell.trap
  · exact hf _ h.modCell

theorem State.Queued.retire {c : CellId} {ext : List (BitVec 10)} {pc : Option (BitVec 14)} {wasLatched : Bool} (h : s.Queued qs) :
    (s.retire c ext pc wasLatched).Queued qs :=
  h.modCell.count64

theorem State.Queued.issue {i : Iss} {w : IWord} {body : State → Body} (h : s.Queued qs) (hbody : ∀ t, t.Queued qs → (body t).Queued qs) :
    Answers (State.Queued qs) (s.issue i w body) := by
  unfold State.issue
  extract_lets
  refine .ite (.next h) (.ite (.next h) (.ite (.next h.disarm.modCell.trap) ?_))
  refine .ite (.next h.trap) (.ite (.next (h.charged (fun _ ht => ht.trap))) ?_)
  refine .ite (.next (h.fetchSlot.charged (fun _ ht => ht.trap))) ?_
  refine .ite (.next (h.fetchSlot.charged (fun _ ht => ht.trap))) ?_
  refine .ite (.next (h.fetchSlot.charged (fun _ ht => ht.trap))) ?_
  extract_lets s2
  have h2 : s2.Queued qs := h.fetchSlot.modCell
  split
  · next e => exact .next (.modCell (.ite ((hbody _ h2).stallState e).modCell h.fetchSlot))
  · exact .next (h2.charged (fun _ ht => ht.trap))
  · next e => exact .next (((hbody _ h2).refusedState e).charged (fun _ ht => ht.trap))
  · next e =>
      have h3 := (hbody _ h2).okState e
      split
      · exact .next h.fetchSlot.modCell.trap
      · exact .next (.retire (.ite h3.modCell h3))

theorem Body.Queued.need {a : TWord} {opnd : Nat} {ok : BitVec 4 → Bool} {k : Body} (h : k.Queued qs) : (need a opnd ok k).Queued qs :=
  .ite .trap (.ite h .trap)

theorem Body.Queued.need2 {a : TWord} {okA : BitVec 4 → Bool} {b : TWord} {okB : BitVec 4 → Bool} {k : Body} (h : k.Queued qs) :
    (need2 a okA b okB k).Queued qs :=
  .ite .trap (.ite .trap (.ite .trap (.ite .trap h)))

theorem Body.Queued.needEq {a b : TWord} {ok : BitVec 4 → Bool} {k : Body} (h : k.Queued qs) : (needEq a b ok k).Queued qs :=
  .need2 h

theorem State.Queued.result {c : CellId} {rd : Reg} {v : TWord} {f : BitVec 6} (h : s.Queued qs) : (s.result c rd v f).Queued qs :=
  h.modCell

theorem State.Queued.setFlags {c : CellId} {f : BitVec 6} (h : s.Queued qs) : (s.setFlags c f).Queued qs := h.modCell

/-! ### CellAlu -/

theorem State.Queued.alu2 {c : CellId} {rd rs : Reg} {okA okB : BitVec 4 → BitVec 4 → Bool} {f : TWord → TWord → BitVec 6 → TWord × BitVec
    6} (h : s.Queued qs) : (alu2 c rd rs okA okB f s).Queued qs := by
  unfold Machine.alu2
  exact .need2 (.ok h.result)

theorem State.Queued.alu1 {c : CellId} {r : Reg} {ok : BitVec 4 → Bool} {f : TWord → BitVec 6 → TWord × BitVec 6} (h : s.Queued qs) :
    (alu1 c r ok f s).Queued qs :=
  .need (.ok h.result)

theorem State.Queued.logic2 {c : CellId} {rd rs : Reg} {f : Word → Word → Word} (h : s.Queued qs) : (logic2 c rd rs f s).Queued qs :=
  h.alu2

theorem State.Queued.shift2 {c : CellId} {rd rs : Reg} {f : Word → Nat → Word × Bool} (h : s.Queued qs) : (shift2 c rd rs f s).Queued qs :=
  h.alu2

theorem State.Queued.execAdd {i : Iss} {rd rs : Reg} (h : s.Queued qs) : Answers (State.Queued qs) (execAdd i rd rs s) :=
  h.issue (fun _ ht => ht.alu2)

theorem State.Queued.execSub {i : Iss} {rd rs : Reg} (h : s.Queued qs) : Answers (State.Queued qs) (execSub i rd rs s) :=
  h.issue (fun _ ht => ht.alu2)

theorem State.Queued.execAnd {i : Iss} {rd rs : Reg} (h : s.Queued qs) : Answers (State.Queued qs) (execAnd i rd rs s) :=
  h.issue (fun _ ht => ht.logic2)

theorem State.Queued.execOr {i : Iss} {rd rs : Reg} (h : s.Queued qs) : Answers (State.Queued qs) (execOr i rd rs s) :=
  h.issue (fun _ ht => ht.logic2)

theorem State.Queued.execXor {i : Iss} {rd rs : Reg} (h : s.Queued qs) : Answers (State.Queued qs) (execXor i rd rs s) :=
  h.issue (fun _ ht => ht.logic2)

theorem State.Queued.execShl {i : Iss} {rd rs : Reg} (h : s.Queued qs) : Answers (State.Queued qs) (execShl i rd rs s) :=
  h.issue (fun _ ht => ht.shift2)

theorem State.Queued.execShr {i : Iss} {rd rs : Reg} (h : s.Queued qs) : Answers (State.Queued qs) (execShr i rd rs s) :=
  h.issue (fun _ ht => ht.shift2)

theorem State.Queued.execSar {i : Iss} {rd rs : Reg} (h : s.Queued qs) : Answers (State.Queued qs) (execSar i rd rs s) :=
  h.issue (fun _ ht => ht.shift2)

theorem State.Queued.satBody {c : CellId} {rd rs : Reg} {op : ℤ → ℤ → ℤ} {plain : BitVec 6 → Word → Word → BitVec 6} (h : s.Queued qs) :
    (satBody c rd rs op plain s).Queued qs :=
  .needEq (.ok (.result (.ite h.free h)))

theorem State.Queued.execAdds {i : Iss} {rd rs : Reg} (h : s.Queued qs) : Answers (State.Queued qs) (execAdds i rd rs s) :=
  h.issue (fun _ ht => ht.satBody)

theorem State.Queued.execSubs {i : Iss} {rd rs : Reg} (h : s.Queued qs) : Answers (State.Queued qs) (execSubs i rd rs s) :=
  h.issue (fun _ ht => ht.satBody)

theorem State.Queued.execMul {i : Iss} {rd rs : Reg} (h : s.Queued qs) : Answers (State.Queued qs) (execMul i rd rs s) :=
  h.issue (fun _ ht => .needEq (.ok ht.modCell))

theorem State.Queued.execCmp {i : Iss} {rd rs : Reg} (h : s.Queued qs) : Answers (State.Queued qs) (execCmp i rd rs s) :=
  h.issue (fun _ ht => .needEq (.ok ht.setFlags))

theorem State.Queued.execAddi {i : Iss} {rd : Reg} {im : BitVec 4} (h : s.Queued qs) : Answers (State.Queued qs) (execAddi i rd im s) :=
  h.issue (fun _ ht => ht.alu1)

theorem State.Queued.execCmpi {i : Iss} {rd : Reg} {im : BitVec 4} (h : s.Queued qs) : Answers (State.Queued qs) (execCmpi i rd im s) :=
  h.issue (fun _ ht => .need (.ok ht.setFlags))

theorem State.Queued.execAndi {i : Iss} {rd : Reg} {im : BitVec 4} (h : s.Queued qs) : Answers (State.Queued qs) (execAndi i rd im s) :=
  h.issue (fun _ ht => ht.alu1)

theorem State.Queued.execOri {i : Iss} {rd : Reg} {im : BitVec 4} (h : s.Queued qs) : Answers (State.Queued qs) (execOri i rd im s) :=
  h.issue (fun _ ht => ht.alu1)

theorem State.Queued.execLi {i : Iss} {tg : BitVec 2} {rd : Reg} {im : BitVec 4} (h : s.Queued qs) :
    Answers (State.Queued qs) (execLi i tg rd im s) :=
  h.issue (fun _ ht => .ok ht.setW)

theorem State.Queued.execMov {i : Iss} {rd rs : Reg} (h : s.Queued qs) : Answers (State.Queued qs) (execMov i rd rs s) :=
  h.issue (fun _ ht => .need (.ok ht.setW))

theorem State.Queued.execNarrow {i : Iss} {rd rs : Reg} (h : s.Queued qs) : Answers (State.Queued qs) (execNarrow i rd rs s) :=
  h.issue (fun _ ht => .need2 (.ite .trap (.ok ht.setW)))

theorem State.Queued.execBeql {i : Iss} {rd rs : Reg} (h : s.Queued qs) : Answers (State.Queued qs) (execBeql i rd rs s) :=
  h.issue (fun _ ht => ht.alu2)

theorem State.Queued.execRetag {i : Iss} {rd rs : Reg} (h : s.Queued qs) : Answers (State.Queued qs) (execRetag i rd rs s) :=
  h.issue (fun _ ht => .ite .trap (.ite .trap (.need2 (.ok ht.setW))))

theorem State.Queued.execMovs {i : Iss} {rd sp : Reg} (h : s.Queued qs) : Answers (State.Queued qs) (execMovs i rd sp s) :=
  h.issue (fun _ ht => .ok ht.setW)

theorem State.Queued.execSets {i : Iss} {sp rs : Reg} (h : s.Queued qs) : Answers (State.Queued qs) (execSets i sp rs s) :=
  h.issue (fun _ ht => .ite .trap (.need (.ok ht.modCell)))

theorem State.Queued.convert {c : CellId} {r : Reg} {t : BitVec 4} {f : TWord → Word × Bool × Bool} (h : s.Queued qs) :
    (convert c r t f s).Queued qs :=
  h.alu1

theorem State.Queued.execCvti {i : Iss} {r : Reg} (h : s.Queued qs) : Answers (State.Queued qs) (execCvti i r s) :=
  h.issue (fun _ ht => ht.convert)

theorem State.Queued.execCvtu {i : Iss} {r : Reg} (h : s.Queued qs) : Answers (State.Queued qs) (execCvtu i r s) :=
  h.issue (fun _ ht => ht.convert)

theorem State.Queued.execCvtf {i : Iss} {r : Reg} (h : s.Queued qs) : Answers (State.Queued qs) (execCvtf i r s) :=
  h.issue (fun _ ht => ht.convert)

theorem State.Queued.execCvtb {i : Iss} {r : Reg} (h : s.Queued qs) : Answers (State.Queued qs) (execCvtb i r s) :=
  h.issue (fun _ ht => ht.convert)

theorem State.Queued.execCvtl {i : Iss} {r : Reg} (h : s.Queued qs) : Answers (State.Queued qs) (execCvtl i r s) :=
  h.issue (fun _ ht => ht.convert)

theorem State.Queued.execNop {i : Iss} (h : s.Queued qs) : Answers (State.Queued qs) (execNop i s) :=
  h.issue (fun _ ht => .ok ht)

theorem State.Queued.execClr {i : Iss} {r : Reg} (h : s.Queued qs) : Answers (State.Queued qs) (execClr i r s) :=
  h.issue (fun _ ht => .ok ht.setW)

theorem State.Queued.execRdtime {i : Iss} {r : Reg} (h : s.Queued qs) : Answers (State.Queued qs) (execRdtime i r s) :=
  h.issue (fun _ ht => .ok ht.setW)

theorem State.Queued.execTest {i : Iss} {r : Reg} (h : s.Queued qs) : Answers (State.Queued qs) (execTest i r s) :=
  h.issue (fun _ ht => ht.alu1)

theorem State.Queued.execNot {i : Iss} {r : Reg} (h : s.Queued qs) : Answers (State.Queued qs) (execNot i r s) :=
  h.issue (fun _ ht => ht.alu1)

theorem State.Queued.execNeg {i : Iss} {r : Reg} (h : s.Queued qs) : Answers (State.Queued qs) (execNeg i r s) :=
  h.issue (fun _ ht => ht.alu1)

theorem State.Queued.execClz {i : Iss} {r : Reg} (h : s.Queued qs) : Answers (State.Queued qs) (execClz i r s) :=
  h.issue (fun _ ht => ht.alu1)

theorem State.Queued.execPopc {i : Iss} {r : Reg} (h : s.Queued qs) : Answers (State.Queued qs) (execPopc i r s) :=
  h.issue (fun _ ht => ht.alu1)

theorem State.Queued.execBswp {i : Iss} {r : Reg} (h : s.Queued qs) : Answers (State.Queued qs) (execBswp i r s) :=
  h.issue (fun _ ht => ht.alu1)

theorem State.Queued.execTagof {i : Iss} {r : Reg} (h : s.Queued qs) : Answers (State.Queued qs) (execTagof i r s) :=
  h.issue (fun _ ht => .need (.ok ht.setW))

theorem State.Queued.execSetc {i : Iss} {r : Reg} {cond : Fin 15} (h : s.Queued qs) : Answers (State.Queued qs) (execSetc i r cond s) :=
  h.issue (fun _ ht => .ok ht.setW)

theorem State.Queued.repeatBody {c : CellId} {ext count : Nat} (h : s.Queued qs) : (repeatBody c ext s count).Queued qs :=
  .ite (.ok h.modCell) (.ok h.modCell)

theorem State.Queued.pairBody {c : CellId} {k : Nat → State → Body} (hk : ∀ x, ∀ t, t.Queued qs → (k x t).Queued qs) (h : s.Queued qs) :
    (pairBody c k s).Queued qs := by
  unfold Machine.pairBody
  split
  · next e => exact .ite (.refused (h.pairWords.of_eq e)) .trap
  · split
    · exact .trap
    · exact hk _ _ h

theorem State.Queued.execRep {i : Iss} {n : BitVec 6} (h : s.Queued qs) : Answers (State.Queued qs) (execRep i n s) :=
  h.issue (fun _ ht => State.Queued.pairBody (fun _ _ ht2 => ht2.repeatBody) ht)

theorem State.Queued.execRepi {i : Iss} {r : Reg} (h : s.Queued qs) : Answers (State.Queued qs) (execRepi i r s) :=
  h.issue (fun _ ht => State.Queued.pairBody (fun _ _ ht2 => .ite ht2.repeatBody (.need (.ite .trap ht2.repeatBody))) ht)

theorem State.Queued.execUnassignedEncoding {i : Iss} {w : BitVec 14} (h : s.Queued qs) :
    Answers (State.Queued qs) (execUnassignedEncoding i w s) :=
  .ite (h.issue (fun _ ht => .ok ht)) (.next h)

/-! ### Dram -/

theorem State.Queued.dramRead {n : Nat} (h : s.Queued qs) : (s.dramRead n).2.Queued qs := by
  unfold State.dramRead
  extract_lets _ s1 _ _ _ _ _ _ _ s2
  have h1 : s1.Queued qs := h.count64
  have h2 : s2.Queued qs := .ite h1 h1.count.logCorrection
  exact .iteSnd (.snd h1) (.snd (.ite h2.count.raise.blockError h2))

theorem State.Queued.dramWrite {n : Nat} {l : Line} {pois : Bool} (h : s.Queued qs) : (s.dramWrite n l pois).Queued qs :=
  h.rest.count64

theorem State.Queued.awaitFill {a len : Nat} (h : s.Queued qs) : (s.awaitFill a len).Queued qs := h.rest

theorem State.Queued.readGrid {page array base : Nat} {data : Line} {fix loss : State → State} (h : s.Queued qs) (hfix : ∀ t, t.Queued qs → (fix
    t).Queued qs) (hloss : ∀ t, t.Queued qs → (loss t).Queued qs) : (s.readGrid page array base data fix loss).2.2.Queued qs := by
  unfold State.readGrid
  refine .foldlSnd2 (.snd2 h) (fun _ ht _ => ?_)
  split
  · extract_lets
    refine .iteSnd2 (.snd2 ht) ?_
    split
    · next e2 =>
        have h1 := ht.readProt.ofSnd e2
        exact .snd2 (.ite (hfix _ h1) h1)
    · next e2 => exact .snd2 (hloss _ (ht.readProt.ofSnd e2))

theorem State.Queued.dirtyLost {l : CLine} (h : s.Queued qs) : (s.dirtyLost l).Queued qs := h.raise.blockError

theorem State.Queued.readLoose {l : CLine} (h : s.Queued qs) : (s.readLoose l).2.2.Queued qs := by
  unfold State.readLoose
  split
  · next e =>
      have h1 := State.Queued.snd2Of e (h.readGrid (fun _ ht => ht) (fun _ ht => ht))
      exact .snd2 (.ite h1.dirtyLost h1)

theorem State.Queued.looseSlot {lo n : Nat} {l : List CLine} (h : s.Queued qs) : (s.looseSlot lo n l).2.Queued qs :=
  .snd h.clearProt

theorem State.Queued.modDramCh {ch : Nat} {f : DramCh → DramCh} (h : s.Queued qs) : (s.modDramCh ch f).Queued qs :=
  .setReg (.rest h)

theorem State.Queued.enqueue {r : LineReq} (h : s.Queued qs) : AllSome (State.Queued qs) (s.enqueue r) :=
  .ite .none (.some h.modDramCh)

theorem State.Queued.activate {ch : Nat} {r : LineReq} (h : s.Queued qs) : (s.activate ch r).Queued qs := by
  unfold State.activate
  refine .ite h ?_
  split
  · next e =>
      extract_lets s1
      have h1 : s1.Queued qs := (h.free.ofSnd e).modDramCh
      exact .ite h1.count h1

theorem State.Queued.deliverLine {req n : Nat} {l : Line × Bool} (h : s.Queued qs) : (s.deliverLine req n l).Queued qs :=
  h.rest

theorem State.Queued.syncFcv (h : s.Queued qs) : s.syncFcv.Queued qs := h.setReg

theorem State.Queued.execDramRequestIssue {ch : Nat} {upset : List (Nat × BitVec 266)} (h : s.Queued qs) :
    Answers (State.Queued qs) (execDramRequestIssue ch upset s) := by
  unfold Machine.execDramRequestIssue
  refine .ite (.next h) ?_
  split
  · exact .next h
  · extract_lets s1 s2 s3 turn k s4 page
    have h1 : s1.Queued qs := .ite h.count h
    have h3 : s3.Queued qs := h1.activate.modDramCh
    have h4 : s4.Queued qs := h3.rest
    clear_value s4 s3
    split
    · split
      · next e =>
          refine .next (.syncFcv (.dramWrite (.rest (State.Queued.snd2Of e ?_))))
          split
          · apply State.Queued.readLoose
            exact h3
          · exact .snd2 h3
    · split
      · next e =>
          have h5 := h4.dramRead.ofSnd e
          split
          · next t e =>
              have h6 : t.Queued qs := State.Queued.sndOf e (.iteSnd (.snd h5.disarm.count.raise.blockError) (.snd h5))
              exact .next h6.deliverLine

theorem State.Queued.execPerBankRefresh {ch : Nat} (h : s.Queued qs) : Answers (State.Queued qs) (execPerBankRefresh ch s) :=
  .ite (.next h) (.ite (.next h.modDramCh) (.ite (.next h) (.next h.modDramCh)))

theorem State.Queued.stageCodes {b : Nat} (h : s.Queued qs) : (s.stageCodes b).Queued qs :=
  .setReg (h.foldl (fun _ ht _ => ht.modDramCh))

theorem State.Queued.execDramTempSample {t : ℤ} (h : s.Queued qs) : Answers (State.Queued qs) (execDramTempSample t s) := by
  unfold Machine.execDramTempSample
  extract_lets _ _ _ _ _ _ s1 _ s2
  have h1 : s1.Queued qs := .ite h.setReg h.setReg.raise.stageCodes
  clear_value s1
  have h2 : s2.Queued qs := h1.setReg.syncTemp.raise.count
  clear_value s2
  exact .ite (.next h) (.ite (.next h1) (.next h2.rest))

theorem State.Queued.armCond {m : Master} {v : Word} (h : s.Queued qs) : AllSome (State.Queued qs) (armCond m v s) :=
  .ite (.some h.refuse) .none

theorem State.Queued.rtEffect {v : Word} (h : s.Queued qs) : (rtEffect v s).Queued qs := by
  unfold Machine.rtEffect
  extract_lets s1
  have h1 : s1.Queued qs := .ite h.setReg h
  exact .ite h1.setReg h1

theorem State.Queued.execArm {m : Master} {v : Word} (h : s.Queued qs) : Answers (State.Queued qs) (execArm m v s) :=
  .next (h.write (fun _ ht => ht.armCond) (fun _ _ ht => ht.rtEffect))

theorem State.Queued.execCancel {m : Master} {v : Word} (h : s.Queued qs) : Answers (State.Queued qs) (execCancel m v s) :=
  .next (h.write (fun _ ht => ht.armCond) (fun _ _ ht => ht.rtEffect))

theorem State.Queued.execRetuneBlackout (h : s.Queued qs) : Answers (State.Queued qs) (execRetuneBlackout s) := by
  unfold Machine.execRetuneBlackout
  refine .ite (.next (.ite h.setReg h)) ?_
  extract_lets s1 _ _ _ _ _ s2
  have h1 : s1.Queued qs := h.foldl (fun _ ht _ => .ite ht.modDramCh ht.modDramCh.count)
  clear_value s1
  have h2 : s2.Queued qs := h1.setReg.setReg
  exact .next (.count (.count (.raise (.ite h2.rest.syncTemp h2.rest))))

theorem State.Queued.drcCtrlCond {m : Master} {v : Word} (h : s.Queued qs) : AllSome (State.Queued qs) (drcCtrlCond m v s) :=
  .ite (.some h.refuse) .none

theorem State.Queued.dlyCond {m : Master} {ch : Nat} {v : Word} (h : s.Queued qs) : AllSome (State.Queued qs) (dlyCond m ch v s) :=
  .ite (.some h.refuse) .none

theorem State.Queued.dlyWrite {ch : Nat} {v : Word} (h : s.Queued qs) : (dlyWrite ch v s).Queued qs := by
  unfold Machine.dlyWrite
  split
  · exact h
  · exact h.modDramCh

theorem State.Queued.fillRegion (h : s.Queued qs) : s.fillRegion.Queued qs := .ite h h.rest.setReg.rest.setReg

theorem State.Queued.mpClear {page : Nat} {v : Word} (h : s.Queued qs) : (mpClear page v s).Queued qs :=
  .ite (.setReg (h.foldl (fun _ ht _ => ht.setReg))) h

theorem State.Queued.execMpClear {m : Master} {page : Nat} {v : Word} (h : s.Queued qs) : Answers (State.Queued qs) (execMpClear m page v s) :=
  .next (h.write (fun _ _ => .none) (fun _ _ ht => ht.mpClear))

theorem State.Queued.mpCorrWrite {page : Nat} {v : Word} (h : s.Queued qs) : (mpCorrWrite page v s).Queued qs :=
  .ite h.setReg.setReg h

/-! ### Cache -/

theorem State.Queued.modSlice {k : Nat} {f : Slice4 → Slice4} (h : s.Queued qs) : (s.modSlice k f).Queued qs :=
  h.rest

theorem State.Queued.syncWays {k : Nat} (h : s.Queued qs) : (s.syncWays k).Queued qs := h.setReg.setReg

theorem State.Queued.logWays {k : Nat} (h : s.Queued qs) : (s.logWays k).Queued qs := .ite h h.rest

theorem State.Queued.putLine {k : Nat} {l : CLine} (h : s.Queued qs) : (s.putLine k l).Queued qs := h.modSlice

theorem State.Queued.dropLine {k n : Nat} (h : s.Queued qs) : (s.dropLine k n).Queued qs := h.modSlice

theorem State.Queued.wayCorrected {k w : Nat} (h : s.Queued qs) : (s.wayCorrected k w).Queued qs := by
  unfold State.wayCorrected
  extract_lets _ _ _ _ s1
  have h1 : s1.Queued qs := h.modSlice.count
  exact .ite (.ite h1.raise h1.setReg.modSlice.raise) h1

theorem State.Queued.readBlocks {k : Nat} {l : CLine} (h : s.Queued qs) : (s.readBlocks k l).2.2.Queued qs := by
  unfold State.readBlocks
  exact h.readGrid (fun _ ht => ht.wayCorrected) (fun _ ht => ht.count)

theorem State.Queued.tagsGood {k : Nat} {l : CLine} (h : s.Queued qs) : (s.tagsGood k l).2.Queued qs := by
  unfold State.tagsGood
  extract_lets
  split
  · next e => exact .snd (h.readProt.ofSnd e)
  · next e =>
      split
      · next e2 => exact .snd ((h.readProt.ofSnd e).readProt.ofSnd e2)
      · next e2 => exact .snd ((h.readProt.ofSnd e).readProt.ofSnd e2).dropLine.raise.blockError.count

theorem State.Queued.writeBlocks {k set way off len : Nat} (h : s.Queued qs) : (s.writeBlocks k set way off len).Queued qs :=
  h.foldl (fun _ ht _ => .ite ht (.ite ht.freshProt ht.mergeProt))

theorem State.Queued.takeLine {k : Nat} {l : CLine} (h : s.Queued qs) : (s.takeLine k l).2.2.Queued qs := by
  unfold State.takeLine
  split
  · next e =>
      have h1 := h.readBlocks.ofSnd2 e
      exact .iteSnd2 (.snd2 h1.dirtyLost) (.snd2 h1)

theorem State.Queued.evict {l : CLine} {cls : Nat} (h : s.Queued qs) : (s.evict l cls).Queued qs := by
  unfold State.evict
  extract_lets
  split
  · exact h.looseSlot.rest.syncFcv
  · refine .ite ?_ h.rest.looseSlot.rest.syncFcv
    split
    · next e =>
        split
        · next e2 =>
            have h1 := (h.rest.readLoose.ofSnd2 e).looseSlot.ofSnd e2
            exact .syncFcv (.rest (.looseSlot (AllSome.getD h1.rest.enqueue h1.rest)))

theorem State.Queued.takeLoose {n : Nat} (h : s.Queued qs) : AllSome (fun x => x.2.2.Queued qs) (s.takeLoose n) := by
  unfold State.takeLoose
  split
  · exact .some (.snd2 h.rest.syncFcv)
  · split
    · exact .none
    · exact .some (.snd2 (.syncFcv (.ite h.rest h.rest.modDramCh)))

theorem State.Queued.recall {n : Nat} (h : s.Queued qs) : (s.recall n).2.Queued qs := by
  unfold State.recall
  split
  · exact .snd h
  · next e =>
      split
      · next e2 => exact .snd ((h.takeLoose.of_eq e).readLoose.ofSnd2 e2)

theorem State.Queued.allocate {k id n cls : Nat} {data : Line} {dirty pois : Bool} (h : s.Queued qs) :
    AllSome (State.Queued qs) (s.allocate k id n cls data dirty pois) := by
  unfold State.allocate
  extract_lets set ways inSet put
  have hput (t : State) (ht : t.Queued qs) (w : Nat) : (put t w).Queued qs := by
    unfold put
    extract_lets s1 s2
    have h1 : s1.Queued qs := ht.foldl (fun _ ht _ => ht.freshProt)
    clear_value s1
    exact h1.freshProt.freshProt.putLine.rest
  clear_value put inSet
  split
  · exact .some (hput s h _)
  · split
    · exact .none
    · refine .ite .none ?_
      extract_lets o
      split
      · next e => exact .some (hput _ (h.takeLine.ofSnd2 e).dropLine.evict _)

theorem State.Queued.serveData {k id : Nat} {a : Access} {data : Line} {pois : Bool} (h : s.Queued qs) :
    (s.serveData k id a data pois).2.2.2.Queued qs := by
  unfold State.serveData
  split
  · exact .snd3 h
  · exact .snd3 h.deliver

/-- Both states that an access which hits may leave leave the queue as it is. -/
theorem State.Queued.serveHit {k id : Nat} {a : Access} {l : CLine} (h : s.Queued qs) :
    AllSome (State.Queued qs) (s.serveHit k id a l).1 ∧ (s.serveHit k id a l).2.Queued qs := by
  unfold State.serveHit
  split
  · next e => exact ⟨.none, h.tagsGood.ofSnd e⟩
  · next e =>
      have h1 := h.tagsGood.ofSnd e
      split
      · exact ⟨.some h1.writeBlocks.putLine.rest, h1.writeBlocks⟩
      · split
        · next e =>
            have h2 := h1.readBlocks.ofSnd2 e
            split
            · exact ⟨.none, h2.dropLine⟩
            · extract_lets _ s3 _ s4
              have h3 : s3.Queued qs := .ite h2.disarm h2
              have h4 : s4.Queued qs := .ite h3.dirtyLost h3
              clear_value s4
              split
              · next e =>
                  have h5 := h4.serveData.ofSnd3 e
                  exact ⟨.some h5.putLine.rest, h5⟩

theorem State.Queued.access {id : Nat} {a : Access} (h : s.Queued qs) : AllSome (State.Queued qs) (s.access id a) := by
  unfold State.access
  extract_lets k page covered port stopped miss
  have hmiss (t : State) (ht : t.Queued qs) : AllSome (State.Queued qs) (miss t) := by
    unfold miss
    extract_lets s1
    have h1 : s1.Queued qs := ht.count64
    clear_value s1 port
    split
    · exact .ite (.some ht.modSlice) (.some h1.modSlice.count)
    · split
      · next e =>
          extract_lets s2
          have h2 : s2.Queued qs := (h1.recall.ofSnd e).count.count
          clear_value s2
          split
          · next e =>
              have h3 := h2.serveData.ofSnd3 e
              exact .ite (.ite (.some h3.evict) (.some h3)) h3.allocate
      · next e =>
          have h2 := h1.recall.ofSnd e
          split
          · exact .ite h2.enqueue h2.allocate
          · exact .map h2.enqueue (fun _ ht => ht.modSlice)
  clear_value miss
  refine .ite .none ?_
  split
  · split
    · next e => exact .some (h.serveHit.1 _ (congrArg Prod.fst e)).count64
    · next e => exact hmiss _ (h.serveHit.2.ofSnd e)
  · exact hmiss s h

theorem State.Queued.execCacheAccess {id addr len cls : Nat} {write : Option (List Byte)} (h : s.Queued qs) :
    Answers (State.Queued qs) (execCacheAccess id addr len cls write s) :=
  .ite (.next h) (.ite (.next h.awaitFill) (.next (AllSome.getD h.access h)))

theorem State.Queued.serveJoined {k id : Nat} {l : List Access} {x : Line} {x' x'' : Bool} (h : s.Queued qs) :
    (s.serveJoined k id l x x' x'').2.2.2.Queued qs := by
  induction l generalizing s x x' x'' with
  | nil => exact .snd3 h
  | cons x l ih =>
    unfold State.serveJoined
    split
    · next e => exact ih (h.serveData.ofSnd3 e)

theorem State.Queued.execCacheFill {slice id : Nat} (h : s.Queued qs) : Answers (State.Queued qs) (execCacheFill slice id s) := by
  unfold Machine.execCacheFill
  split
  · exact .next h
  · split
    · exact .next h
    · split
      · next e =>
          have h1 := h.serveJoined.ofSnd3 e
          extract_lets placed
          have hp : AllSome (State.Queued qs) placed := .ite h1.allocate (.ite h1.enqueue (.some h1))
          clear_value placed
          split
          · exact .next h
          · next s2 =>
              have h2 : s2.Queued qs := hp _ rfl
              split
              · exact .next h2.modSlice
              · exact .next (AllSome.getD h2.modSlice.access h2.modSlice)

theorem State.Queued.writeBack {k : Nat} {l : List CLine} (h : s.Queued qs) : (s.writeBack k l).Queued qs := by
  induction l generalizing s with
  | nil => exact h
  | cons x l ih =>
    unfold State.writeBack
    refine .ite ?_ (ih h)
    split
    · next e => exact ih (h.takeLine.ofSnd2 e).dramWrite

theorem State.Queued.flushWay {k w : Nat} (h : s.Queued qs) : (s.flushWay k w).Queued qs := h.writeBack.modSlice

theorem State.Queued.execWayDisable {slice way : Nat} (h : s.Queued qs) : Answers (State.Queued qs) (execWayDisable slice way s) := by
  unfold Machine.execWayDisable
  split
  · exact .next h
  · exact .ite (.next h) (.next h.flushWay.setReg.modSlice.syncWays.logWays.raise)

theorem State.Queued.wdisCond {m : Master} {k : Nat} {v : Word} (h : s.Queued qs) : AllSome (State.Queued qs) (wdisCond m k v s) :=
  .ite (.some h.refuse.raise) .none

theorem State.Queued.wdisEffect {k : Nat} {v : Word} (h : s.Queued qs) : (wdisEffect k v s).Queued qs :=
  .logWays (.syncWays (.setReg (h.foldl (fun _ ht _ => .ite ht.flushWay.modSlice.setReg ht))))

theorem State.Queued.execFchWdis {m : Master} {slice : Nat} {v : Word} (h : s.Queued qs) : Answers (State.Queued qs) (execFchWdis m slice v s) :=
  .next (h.write (fun _ ht => ht.wdisCond) (fun _ _ ht => ht.wdisEffect))

theorem State.Queued.mopCond {m : Master} {v : Word} (h : s.Queued qs) : AllSome (State.Queued qs) (mopCond m v s) :=
  .ite (.some h.refuse) (.ite (.some h.refuse) .none)

theorem State.Queued.mopEffect {v : Word} (h : s.Queued qs) : (mopEffect v s).Queued qs := by
  unfold Machine.mopEffect
  extract_lets _ _ _ _ s1 s2
  have h1 : s1.Queued qs := h.rest.setReg
  have h2 : s2.Queued qs := h1.count
  exact .ite h2.count h2

theorem State.Queued.mopWrite {m : Master} {op : Nat} {v : Word} (h : s.Queued qs) : Answers (State.Queued qs) (mopWrite m op v s) :=
  .next (h.write (fun _ ht => ht.mopCond) (fun _ _ ht => ht.mopEffect))

theorem State.Queued.execClean {m : Master} {v : Word} (h : s.Queued qs) : Answers (State.Queued qs) (execClean m v s) :=
  h.mopWrite

theorem State.Queued.execInval {m : Master} {v : Word} (h : s.Queued qs) : Answers (State.Queued qs) (execInval m v s) :=
  h.mopWrite

theorem State.Queued.execCleanInval {m : Master} {v : Word} (h : s.Queued qs) : Answers (State.Queued qs) (execCleanInval m v s) :=
  h.mopWrite

theorem State.Queued.execCleanAll {m : Master} {v : Word} (h : s.Queued qs) : Answers (State.Queued qs) (execCleanAll m v s) :=
  h.mopWrite

theorem State.Queued.execCleanInvalAll {m : Master} {v : Word} (h : s.Queued qs) : Answers (State.Queued qs) (execCleanInvalAll m v s) :=
  h.mopWrite

theorem State.Queued.wopCond {m : Master} {k : Nat} {v : Word} (h : s.Queued qs) : AllSome (State.Queued qs) (wopCond m k v s) :=
  .ite (.some h.refuse) .none

theorem State.Queued.wopEffect {k : Nat} {v : Word} (h : s.Queued qs) : (wopEffect k v s).Queued qs :=
  h.modSlice.setReg

theorem State.Queued.wopWrite {m : Master} {op k : Nat} {v : Word} (h : s.Queued qs) : Answers (State.Queued qs) (wopWrite m op k v s) :=
  .next (h.write (fun _ ht => ht.wopCond) (fun _ _ ht => ht.wopEffect))

theorem State.Queued.execCleanWay {m : Master} {slice : Nat} {v : Word} (h : s.Queued qs) : Answers (State.Queued qs) (execCleanWay m slice v s) :=
  h.wopWrite

theorem State.Queued.execCleanInvalWay {m : Master} {slice : Nat} {v : Word} (h : s.Queued qs) :
    Answers (State.Queued qs) (execCleanInvalWay m slice v s) :=
  h.wopWrite

theorem State.Queued.cleanLoose {ls : List CLine} (h : s.Queued qs) : (s.cleanLoose ls).Queued qs := by
  unfold State.cleanLoose
  refine .foldl h (fun _ ht _ => ?_)
  refine .ite ?_ ht
  split
  · next e => exact (ht.readLoose.ofSnd2 e).dramWrite

theorem State.Queued.maintain {names : Nat → Bool} {clean drop : Bool} (h : s.Queued qs) : (s.maintain names clean drop).Queued qs := by
  unfold State.maintain
  extract_lets s1 s2 keep d s3 s4
  have h1 : s1.Queued qs := h.foldl fun _ ht _ => ht.writeBack
  have h2 : s2.Queued qs := .ite h1.cleanLoose.cleanLoose h
  clear_value s2
  have h3 : s3.Queued qs := h2.rest
  have h4 : s4.Queued qs := h3.foldl fun _ ht _ => ht.modDramCh
  exact h4.syncFcv

theorem State.Queued.execMaintenanceDone {slice : Option Nat} (h : s.Queued qs) : Answers (State.Queued qs) (execMaintenanceDone slice s) := by
  unfold Machine.execMaintenanceDone
  split
  · split
    · exact .next h
    · refine .ite (.next h) ?_
      extract_lets _ _ s1
      have h1 : s1.Queued qs := h.maintain
      exact .next h1.rest.setReg.raise
  · split
    · exact .next h
    · exact .ite (.next h) (.next h.writeBack.modSlice.setReg)

theorem State.Queued.fchCtrlCond {m : Master} {k : Nat} {v : Word} (h : s.Queued qs) : AllSome (State.Queued qs) (fchCtrlCond m k v s) :=
  .ite (.some h.refuse) .none

theorem State.Queued.wmaskCond {m : Master} {k : Nat} {v : Word} (h : s.Queued qs) : AllSome (State.Queued qs) (wmaskCond m k v s) :=
  .ite (.some h.refuseRsvd) .none

theorem State.Queued.wmaskEffect {k : Nat} {v : Word} (h : s.Queued qs) : (wmaskEffect k v s).Queued qs :=
  h.modSlice.syncWays

theorem State.Queued.peekLine {n : Nat} (h : s.Queued qs) : (s.peekLine n).2.Queued qs := by
  unfold State.peekLine
  extract_lets
  split
  · split
    · next e => exact .snd (h.takeLine.ofSnd2 e)
  · split
    · split
      · next e =>
          have h1 := h.readLoose.ofSnd2 e
          exact .iteSnd h1.dramRead (.snd h1)
    · split
      · exact .snd h
      · exact h.dramRead

theorem State.Queued.peek {addr len : Nat} (h : s.Queued qs) : (s.peek addr len).2.Queued qs := by
  unfold State.peek
  refine .iteSnd (.snd h) ?_
  extract_lets first lines r
  have hr : r.2.2.Queued qs := by
    refine .foldlSnd2 (.snd2 h) fun t ht n => ?_
    rcases e : t.2.2.peekLine n with ⟨⟨l, p⟩, u⟩
    exact .snd2 (ht.peekLine.ofSnd e)
  exact .snd hr

theorem State.Queued.pokeLine {n off : Nat} {bs : List Byte} (h : s.Queued qs) : (s.pokeLine n off bs).Queued qs := by
  unfold State.pokeLine
  extract_lets
  split
  · exact h.writeBlocks.putLine
  · split
    · next e =>
        have h1 := h.peekLine.ofSnd e
        extract_lets s2
        have h2 : s2.Queued qs := by
          dsimp only [s2]
          split
          · next e2 => exact h1.takeLoose.of_eq e2
          · exact h1
        exact h2.modDramCh.dramWrite

theorem State.Queued.poke {addr : Nat} {bs : List Byte} (h : s.Queued qs) : (s.poke addr bs).Queued qs :=
  .ite h (h.foldl (fun _ ht _ => ht.pokeLine))

/-! ### Streams -/

theorem State.Queued.routeDrop (h : s.Queued qs) : s.routeDrop.Queued qs := h.count.raise

theorem State.Queued.onMesh {f : Flit} {go : State → State} (h : s.Queued qs) (hgo : ∀ t, t.Queued qs → (go t).Queued qs) : (s.onMesh f go).Queued qs :=
  .ite h (.ite (hgo _ h) h.routeDrop)

theorem State.Queued.modSu {c : CellId} {unit : Nat} {f : SuSlot → SuSlot} (h : s.Queued qs) : (s.modSu c unit f).Queued qs :=
  h.modCell

theorem State.Queued.modSb {c : CellId} {unit : Nat} {f : SMap Byte → SMap Byte} (h : s.Queued qs) : (s.modSb c unit f).Queued qs :=
  h.modCell

theorem State.Queued.readSb {c : CellId} {unit off n : Nat} (h : s.Queued qs) : (s.readSb c unit off n).2.Queued qs := by
  unfold State.readSb
  refine .foldlSnd (.snd h) (fun _ ht _ => ?_)
  extract_lets
  split
  · next e => exact .snd (ht.readProt.ofSnd e)
  · next e => exact .snd (ht.readProt.ofSnd e)

theorem State.Queued.writeSb {c : CellId} {unit off : Nat} {bs : List Byte} (h : s.Queued qs) : (s.writeSb c unit off bs).Queued qs :=
  .modSb (h.foldl (fun _ ht _ => .ite ht.freshProt ht.mergeProt))

theorem State.Queued.poisonSb {c : CellId} {unit off n : Nat} (h : s.Queued qs) : (s.poisonSb c unit off n).Queued qs :=
  h.rest

theorem State.Queued.fetchPieces {c : CellId} {unit n : Nat} (h : s.Queued qs) : (s.fetchPieces c unit n).Queued qs := by
  induction n generalizing s with
  | zero => exact h
  | succ n ih =>
    unfold State.fetchPieces
    extract_lets
    split
    · exact h
    · extract_lets
      refine .ite h (.ite h.awaitFill (.ite h.routeDrop ?_))
      split
      · next e =>
          extract_lets s1
          have h1 : s1.Queued qs := (h.peek.ofSnd e).writeSb
          exact ih (.modSu (.ite h1.poisonSb.blockError h1))

theorem State.Queued.fetchAhead {c : CellId} {unit : Nat} (h : s.Queued qs) : (s.fetchAhead c unit).Queued qs := by
  unfold State.fetchAhead
  extract_lets s1
  have h1 : s1.Queued qs := h.fetchPieces
  split
  · exact h1
  · exact h1.modSu

theorem State.Queued.sendCredit {c : CellId} {unit : Nat} (h : s.Queued qs) : (s.sendCredit c unit).Queued qs :=
  .ite (h.onMesh (fun _ ht => ht.emit)) h

theorem State.Queued.releaseIn {c : CellId} {unit n : Nat} (h : s.Queued qs) : (s.releaseIn c unit n).Queued qs :=
  h.modSu.fetchAhead.sendCredit

theorem State.Queued.publish {c : CellId} {unit n : Nat} (h : s.Queued qs) : (s.publish c unit n).Queued qs := h.modSu

/-! ### Engines -/

theorem State.Queued.endJob {c : CellId} {p page status : Nat} (h : s.Queued qs) : (s.endJob c p page status).Queued qs :=
  h.deliver

theorem State.Queued.writeBackWords {c : CellId} {j : Job} {k : Nat} {ws : List TWord} (h : s.Queued qs) :
    (s.writeBackWords c j k ws).Queued qs :=
  h.foldl (fun _ ht _ => ht.writeDm)

/-! ### CellMem -/

theorem State.Queued.loadInto {c : CellId} {rd : Reg} {a opnd : Nat} {k : State → Body} (h : s.Queued qs) (hk : ∀ t, t.Queued qs → (k t).Queued qs) :
    (loadInto c rd s a opnd k).Queued qs := by
  unfold Machine.loadInto
  split
  · next e => exact hk _ (h.decodeDm.ofSnd e).setW
  · next e => exact .ite .trap (.ite .trap (hk _ (h.decodeDm.ofSnd e).setW))

theorem State.Queued.storeFrom {c : CellId} {w : TWord} {ok : Bool} {det a : Nat} (h : s.Queued qs) : (storeFrom c w ok det a s).Queued qs :=
  .need (.ite .trap (.ite .trap (.ok h.writeDm)))

theorem State.Queued.execLd {i : Iss} {rd : Reg} {im : BitVec 5} (h : s.Queued qs) : Answers (State.Queued qs) (execLd i rd im s) :=
  h.issue (fun _ ht => .ite .trap (ht.loadInto (fun _ ht2 => .ok ht2)))

theorem State.Queued.execSt {i : Iss} {rs : Reg} {im : BitVec 5} (h : s.Queued qs) : Answers (State.Queued qs) (execSt i rs im s) :=
  h.issue (fun _ ht => ht.storeFrom)

theorem State.Queued.execLdx {i : Iss} {rd rp : Reg} {hi : Bool} (h : s.Queued qs) : Answers (State.Queued qs) (execLdx i rd rp hi s) := by
  unfold Machine.execLdx
  refine State.Queued.issue h (fun _ ht => ?_)
  extract_lets
  refine .need2 ?_
  split
  · exact .trap
  · exact ht.loadInto (fun _ ht2 => .ok ht2)

theorem State.Queued.execStx {i : Iss} {rs rp : Reg} {hi : Bool} (h : s.Queued qs) : Answers (State.Queued qs) (execStx i rs rp hi s) := by
  unfold Machine.execStx
  refine State.Queued.issue h (fun _ ht => ?_)
  extract_lets
  refine .ite .trap (.ite .trap (.ite .trap (.ite .trap (.ite .trap ?_))))
  split
  · exact .trap
  · exact ht.storeFrom

theorem State.Queued.push {c : CellId} {a : Nat} {w : TWord} (h : s.Queued qs) : (s.push c a w).Queued qs :=
  h.writeDm.modCell

theorem State.Queued.execPush {i : Iss} {r : Reg} (h : s.Queued qs) : Answers (State.Queued qs) (execPush i r s) := by
  unfold Machine.execPush
  refine State.Queued.issue h (fun _ ht => ?_)
  extract_lets
  refine .need ?_
  split
  · exact .trap
  · exact .ite .trap (.ok ht.push)

theorem State.Queued.popped {c : CellId} (h : s.Queued qs) : (s.popped c).Queued qs := h.modCell

theorem State.Queued.execPop {i : Iss} {r : Reg} (h : s.Queued qs) : Answers (State.Queued qs) (execPop i r s) :=
  h.issue (fun _ ht => .ite .trap (ht.loadInto (fun _ ht2 => .ok ht2.popped)))

theorem State.Queued.execRet {i : Iss} (h : s.Queued qs) : Answers (State.Queued qs) (execRet i s) :=
  h.issue (fun _ ht => .ite .trap (.ite .trap (.ite (.ok ht.readDm.popped) .trap)))

theorem State.Queued.callBody {i : Iss} {target : BitVec 14} (h : s.Queued qs) : (callBody i target s).Queued qs := by
  unfold Machine.callBody
  extract_lets
  split
  · exact .trap
  · exact .ok h.push

theorem State.Queued.execSld {i : Iss} {size : Fin 3} {rd : Reg} {wh : Fin 4} {hi : Bool} (h : s.Queued qs) :
    Answers (State.Queued qs) (execSld i size rd wh hi s) := by
  unfold Machine.execSld
  refine State.Queued.issue h (fun _ ht => ?_)
  extract_lets
  refine .need2 (.ite .trap (.ite .trap (.ite (.stall ht) ?_)))
  split
  · next e => exact .ok (ht.readSb.ofSnd e).setW
  · next e => exact .ok (ht.readSb.ofSnd e).setW

theorem State.Queued.execSst {i : Iss} {size : Fin 3} {rs : Reg} {wh : Fin 4} {hi : Bool} (h : s.Queued qs) :
    Answers (State.Queued qs) (execSst i size rs wh hi s) :=
  h.issue (fun _ ht => .ite .trap (.ite .trap (.ite .trap (.ite .trap (.ite .trap (.ite .trap (.ite .trap (.ite .trap (.ite (.stall ht)
      (.ok ht.writeSb))))))))))

theorem State.Queued.execSavl {i : Iss} {rd rs : Reg} (h : s.Queued qs) : Answers (State.Queued qs) (execSavl i rd rs s) :=
  h.issue (fun _ ht => .need (.ite .trap (.ok ht.setW)))

theorem State.Queued.execSrel {i : Iss} {wh rs : Reg} (h : s.Queued qs) : Answers (State.Queued qs) (execSrel i wh rs s) :=
  h.issue (fun _ ht => .need2 (.ite .trap (.ite .trap (.ite .trap (.ite (.stall ht) (.ok ht.releaseIn))))))

theorem State.Queued.execSpub {i : Iss} {wh rs : Reg} (h : s.Queued qs) : Answers (State.Queued qs) (execSpub i wh rs s) :=
  h.issue (fun _ ht => .need2 (.ite .trap (.ite .trap (.ite .trap (.ok ht.publish)))))

theorem State.Queued.execGetp {i : Iss} {r : Reg} (h : s.Queued qs) : Answers (State.Queued qs) (execGetp i r s) :=
  h.issue (fun _ ht => .need (.ite .trap (.ite .trap (.ok ht.setW))))

theorem State.Queued.readWords {c : CellId} {base n : Nat} (h : s.Queued qs) : (s.readWords c base n).2.Queued qs := by
  induction n with
  | zero => exact .snd h
  | succ n ih => exact .snd ih.readDm

theorem State.Queued.execJob {i : Iss} {wh rp : Reg} {waited : Nat} (h : s.Queued qs) : Answers (State.Queued qs) (execJob i wh rp waited s) := by
  unfold Machine.execJob
  refine State.Queued.issue h (fun _ ht => ?_)
  extract_lets
  split
  · next e =>
      have h1 := State.Queued.sndOf e (.iteSnd ht.readWords (.snd ht))
      extract_lets
      refine .ite .trap ?_
      refine .ite .trap (.ite .trap (.ite .trap (.ite .trap (.ite .trap (.ite .trap (.ite (.stall ht) ?_))))))
      split
      · exact .trap
      · exact .ok (.modCell (.ite h1 h1.routeDrop))

theorem State.Queued.execJwait {i : Iss} {rd wh : Reg} {waited : Nat} (h : s.Queued qs) : Answers (State.Queued qs) (execJwait i rd wh waited s) := by
  unfold Machine.execJwait
  refine State.Queued.issue h (fun _ ht => ?_)
  extract_lets
  refine .need (.ite .trap ?_)
  split
  · exact .ok ht.setW
  · split
    · exact .stall ht
    · exact .ite .trap (.ok ht.setW.modCell)

/-! ### CellCtl -/

theorem State.Queued.execB {i : Iss} {cond : Fin 15} {off : BitVec 6} (h : s.Queued qs) : Answers (State.Queued qs) (execB i cond off s) :=
  h.issue (fun _ ht => .ite (.ok ht) (.ok ht))

theorem State.Queued.execJmp {i : Iss} {target : BitVec 9} (h : s.Queued qs) : Answers (State.Queued qs) (execJmp i target s) :=
  h.issue (fun _ ht => .ok ht)

theorem State.Queued.execCall {i : Iss} {target : BitVec 9} (h : s.Queued qs) : Answers (State.Queued qs) (execCall i target s) :=
  h.issue (fun _ ht => ht.callBody)

theorem Body.Queued.targetReg {c : CellId} {r : Reg} {k : BitVec 14 → Body} (hk : ∀ x, (k x).Queued qs) : (targetReg c r s k).Queued qs :=
  .need (.ite .trap (hk _))

theorem State.Queued.execJr {i : Iss} {r : Reg} (h : s.Queued qs) : Answers (State.Queued qs) (execJr i r s) :=
  h.issue (fun _ ht => .targetReg (fun _ => .ok ht))

theorem State.Queued.execCallr {i : Iss} {r : Reg} (h : s.Queued qs) : Answers (State.Queued qs) (execCallr i r s) :=
  h.issue (fun _ ht => .targetReg (fun _ => ht.callBody))

theorem State.Queued.execRett {i : Iss} (h : s.Queued qs) : Answers (State.Queued qs) (execRett i s) :=
  h.issue (fun _ ht => .ite .trap (.ok ht.modCell))

theorem State.Queued.execEndp {i : Iss} (h : s.Queued qs) : Answers (State.Queued qs) (execEndp i s) :=
  h.issue (fun _ _ => .trap)

theorem State.Queued.execSwi {i : Iss} {n : BitVec 4} (h : s.Queued qs) : Answers (State.Queued qs) (execSwi i n s) :=
  h.issue (fun _ _ => .trap)

theorem State.Queued.execIdle {i : Iss} (h : s.Queued qs) : Answers (State.Queued qs) (execIdle i s) :=
  h.issue (fun _ ht => .ite .trap (.ok ht.modCell))

theorem State.Queued.execInterruptInput {c : CellId} (h : s.Queued qs) : Answers (State.Queued qs) (execInterruptInput c s) :=
  .ite (.next h) (.next h.trap)

theorem State.Queued.execBudgetExhausted {c : CellId} (h : s.Queued qs) : Answers (State.Queued qs) (execBudgetExhausted c s) :=
  .ite (.next h) (.next (.trap (.modCell (.ite h.disarm h))))

theorem State.Queued.execProductLands {c : CellId} (h : s.Queued qs) : Answers (State.Queued qs) (execProductLands c s) := by
  unfold Machine.execProductLands
  split
  · exact .next h
  · exact .ite (.next h.modCell) (.next h)

theorem State.Queued.endStall {c : CellId} {cycles : Nat} (h : s.Queued qs) : (s.endStall c cycles).Queued qs := by
  unfold State.endStall
  extract_lets
  split
  · exact h.count
  · exact h.count
  · exact .ite h.modCell h
  · exact h
  · exact h

theorem State.Queued.execHoldReached {c : HoldAt} (h : s.Queued qs) : Answers (State.Queued qs) (execHoldReached c s) :=
  .ite (.next h) (.next h.endStall.dropLoad.modCell.raise)

theorem State.Queued.releaseCore {c : CellId} (h : s.Queued qs) : (s.releaseCore c).Queued qs := h.modCell

theorem State.Queued.scrubCond {m : Master} {c : CellId} {v : Word} (h : s.Queued qs) : AllSome (State.Queued qs) (scrubCond m c v s) :=
  .ite (.some h.refuse) .none

theorem State.Queued.celCtrlEffect {c : CellId} {v : Word} (h : s.Queued qs) : (celCtrlEffect c v s).Queued qs := by
  unfold Machine.celCtrlEffect
  extract_lets s1
  have h1 : s1.Queued qs := .ite h.modCell h
  exact .ite h1.setReg.modCell (.ite h1.setReg.releaseCore h1.setReg.modCell)

theorem State.Queued.execCelHoldWrite {m : Master} {c : CellId} {v : Word} (h : s.Queued qs) :
    Answers (State.Queued qs) (execCelHoldWrite m c v s) :=
  .next (h.write (fun _ ht => ht.scrubCond) (fun _ _ ht => ht.celCtrlEffect))

theorem State.Queued.execScrub {m : Master} {c : CellId} {v : Word} (h : s.Queued qs) : Answers (State.Queued qs) (execScrub m c v s) :=
  .next (h.write (fun _ ht => ht.scrubCond) (fun _ _ ht => ht.celCtrlEffect))

theorem State.Queued.dropJobs {c : CellId} (h : s.Queued qs) : (s.dropJobs c).Queued qs :=
  h.rest

theorem State.Queued.fillCell {c : CellId} (h : s.Queued qs) : (s.fillCell c).Queued qs :=
  h.rest.dropJobs.modCell.raise

theorem State.Queued.execFillComplete {c : CellId} (h : s.Queued qs) : Answers (State.Queued qs) (execFillComplete c s) :=
  .ite (.next h) (.next h.fillCell)

theorem State.Queued.heldCond {m : Master} {c : CellId} {off : Nat} {v : Word} (h : s.Queued qs) :
    AllSome (State.Queued qs) (heldCond m c off v s) :=
  .ite (.some h.refuse) .none

theorem State.Queued.advance {key width : Nat} (h : s.Queued qs) : (s.advance key width).Queued qs := h.setReg

theorem State.Queued.writeIm {c : CellId} {a : Nat} {w : IWord} (h : s.Queued qs) : (s.writeIm c a w).Queued qs :=
  h.mergeProt.modCell

theorem State.Queued.imWrite {c : CellId} {v : Word} (h : s.Queued qs) : (imWrite c v s).Queued qs :=
  h.writeIm.advance

theorem State.Queued.imRead {c : CellId} (h : s.Queued qs) : (imRead c s).2.Queued qs := .snd h.fetchI.advance

theorem State.Queued.dmCond {m : Master} {c : CellId} {v : Word} (h : s.Queued qs) : AllSome (State.Queued qs) (dmCond m c v s) := by
  unfold Machine.dmCond
  split
  · next e => exact .some (h.heldCond.of_eq e)
  · exact .ite (.some h.refuseRsvd) .none

theorem State.Queued.dmWrite {c : CellId} {v : Word} (h : s.Queued qs) : (dmWrite c v s).Queued qs :=
  h.writeDm.advance

theorem State.Queued.dmRead {c : CellId} (h : s.Queued qs) : (dmRead c s).2.Queued qs := .snd h.readDm.setReg.advance

theorem State.Queued.rvalCond {m : Master} {c : CellId} {v : Word} (h : s.Queued qs) : AllSome (State.Queued qs) (rvalCond m c v s) := by
  unfold Machine.rvalCond
  extract_lets
  split
  · next e => exact .some (h.heldCond.of_eq e)
  · exact .ite (.some h.refuseRsvd) (.ite (.some h.refuse) .none)

theorem State.Queued.rvalWrite {c : CellId} {v : Word} (h : s.Queued qs) : (rvalWrite c v s).Queued qs :=
  .ite h.setW (.ite h.modCell h.modCell)

theorem State.Queued.rvalRead {c : CellId} (h : s.Queued qs) : (rvalRead c s).2.Queued qs := .snd h.setReg

theorem State.Queued.windowAccess {m : Master} {page off : Nat} {write : Option Word} {cond : Word → State → Option State} {wr : Word →
    State → State} {rd : State → Word × State} (hcond : ∀ x, ∀ t, t.Queued qs → AllSome (State.Queued qs) (cond x t)) (hwr : ∀ x, ∀ t, t.Queued qs → (wr
    x t).Queued qs) (hrd : ∀ t, t.Queued qs → (rd t).2.Queued qs) (h : s.Queued qs) :
    Answers (State.Queued qs) (windowAccess m page off write cond wr rd s) := by
  unfold Machine.windowAccess
  split
  · exact .next (h.write (fun _ ht => hcond _ _ ht) (fun _ _ ht => hwr _ _ ht))
  · split
    · next e => exact .next (h.checkAccess.of_eq e).reply
    · exact .next (hrd _ h).answerRead

theorem State.Queued.execCelImdataAccess {m : Master} {c : CellId} {write : Option Word} (h : s.Queued qs) :
    Answers (State.Queued qs) (execCelImdataAccess m c write s) :=
  State.Queued.windowAccess (fun _ _ ht => ht.heldCond) (fun _ _ ht => ht.imWrite) (fun _ ht => ht.imRead) h

theorem State.Queued.execCelDmdataAccess {m : Master} {c : CellId} {write : Option Word} (h : s.Queued qs) :
    Answers (State.Queued qs) (execCelDmdataAccess m c write s) :=
  State.Queued.windowAccess (fun _ _ ht => ht.dmCond) (fun _ _ ht => ht.dmWrite) (fun _ ht => ht.dmRead) h

theorem State.Queued.execCelRvalAccess {m : Master} {c : CellId} {write : Option Word} (h : s.Queued qs) :
    Answers (State.Queued qs) (execCelRvalAccess m c write s) :=
  State.Queued.windowAccess (fun _ _ ht => ht.rvalCond) (fun _ _ ht => ht.rvalWrite) (fun _ ht => ht.rvalRead) h

theorem State.Queued.dwinCond {m : Master} {c : CellId} {v : Word} (h : s.Queued qs) : AllSome (State.Queued qs) (dwinCond m c v s) :=
  .ite (.some h.refuseRsvd) .none

/-! ### Fabric -/

theorem State.Queued.flitError {c : CellId} {code : Nat} {f : Flit} (h : s.Queued qs) : (s.flitError c code f).Queued qs :=
  h.blockError

theorem State.Queued.landFlit {c : CellId} {f : Flit} (h : s.Queued qs) : (s.landFlit c f).Queued qs := by
  unfold State.landFlit
  extract_lets _ _ x1
  clear_value x1
  split
  · exact h.count
  · extract_lets _ _ s2
    have h2 : s2.Queued qs := h.writeSb
    exact .ite h.count (.ite h.flitError (.ite h.modSu.flitError (.ite h (.modSu (.ite h2.poisonSb h2)))))

theorem State.Queued.execStreamDataFlit {f : Flit} (h : s.Queued qs) : Answers (State.Queued qs) (execStreamDataFlit f s) := by
  unfold Machine.execStreamDataFlit
  extract_lets
  refine .next (.onMesh h (fun _ ht => ?_))
  split
  · exact ht.landFlit
  · exact ht

theorem State.Queued.pokePoison {addr len : Nat} (h : s.Queued qs) : (s.pokePoison addr len).Queued qs := by
  unfold State.pokePoison
  refine .ite h (.foldl h (fun _ ht _ => ?_))
  extract_lets
  split
  · exact ht.putLine
  · split
    · next e => exact (ht.peekLine.ofSnd e).dramWrite

theorem State.Queued.putByte {e : ExecRec} {p : Nat} {b : Byte} {bad : Bool} (h : s.Queued qs) : (s.putByte e p b bad).Queued qs := by
  unfold State.putByte
  split
  · exact h
  · exact .ite h.rest (.ite h.poke.pokePoison h.poke)

theorem State.Queued.putBytes {e : ExecRec} {p : Nat} {bs : List Byte} {bad : Bool} (h : s.Queued qs) : (s.putBytes e p bs bad).Queued qs :=
  h.foldl (fun _ ht _ => ht.putByte)

theorem State.Queued.drainPiece {c : CellId} {u p n : Nat} {last : Bool} (h : s.Queued qs) : (s.drainPiece c u p n last).Queued qs := by
  unfold State.drainPiece
  extract_lets
  split
  · next e =>
      have h1 := h.readSb.ofSnd e
      extract_lets
      refine .ite h1.routeDrop (.ite ?_ (h1.onMesh (fun _ ht => ht.emit)))
      split
      · exact h1.putBytes
      · split
        · exact h1.poke
        · exact h1.poke.pokePoison

theorem State.Queued.drain {c : CellId} {u : Nat} {close : Bool} (h : s.Queued qs) : (s.drain c u close).Queued qs :=
  .ite (.modSu (h.foldl (fun _ ht _ => ht.drainPiece))) h

theorem State.Queued.modSuK {c : CellId} {j : Nat} {f : SuSlot → SuSlot} (h : s.Queued qs) : (s.modSuK c j f).Queued qs :=
  .ite h.modCell h.modSu

theorem State.Queued.slotLoad {c : CellId} (h : s.Queued qs) : (s.slotLoad c).Queued qs := by
  unfold State.slotLoad
  extract_lets
  refine .ite h (.ite h.awaitFill ?_)
  refine .ite h.routeDrop (.foldl (.ite (h.foldl (fun _ ht _ => .ite ht.freshProt ht)) h) (fun _ ht _ => ?_))
  refine .ite ht ?_
  split
  · next e =>
      have h1 := ht.peek.ofSnd e
      exact .ite h1.modSuK.blockError (.modSuK (.ite h1.writeIm h1.writeDm))

theorem State.Queued.startSlot {c : CellId} {m : Master} {v : Word} {j : Nat} (h : s.Queued qs) : (s.startSlot c m v j).Queued qs :=
  .ite h.refuseRsvd (.ite h.modSuK.slotLoad h.modSuK.fetchAhead)

theorem State.Queued.resumeSlots (h : s.Queued qs) : s.resumeSlots.Queued qs :=
  h.foldl (fun _ ht _ => .ite ht (.fetchAhead (.fetchAhead (.ite ht.slotLoad ht))))

theorem State.Queued.suCmdEffect {m : Master} {c : CellId} {v : Word} (h : s.Queued qs) : (suCmdEffect m c v s).Queued qs :=
  .foldl (h.foldl (fun _ ht _ => .ite ht.modSuK ht)) (fun _ ht _ => .ite ht.startSlot ht)

theorem State.Queued.execSuStart {m : Master} {c : CellId} {v : Word} (h : s.Queued qs) : Answers (State.Queued qs) (execSuStart m c v s) :=
  .next (h.write (fun _ _ => .none) (fun _ _ ht => ht.suCmdEffect))

theorem State.Queued.execSuCancel {m : Master} {c : CellId} {v : Word} (h : s.Queued qs) : Answers (State.Queued qs) (execSuCancel m c v s) :=
  .next (h.write (fun _ _ => .none) (fun _ _ ht => ht.suCmdEffect))

theorem State.Queued.descCond {m : Master} {c : CellId} {off : Nat} {v : Word} (h : s.Queued qs) :
    AllSome (State.Queued qs) (descCond m c off v s) :=
  .ite (.some h.refuse) .none

theorem State.Queued.setCodec {unit : Nat} {l : List CodecJob} (h : s.Queued qs) : (s.setCodec unit l).Queued qs :=
  h.rest

theorem State.Queued.putCodec {unit : Nat} {k : CodecJob} (h : s.Queued qs) : (s.putCodec unit k).Queued qs :=
  h.setCodec

theorem State.Queued.dropCodec {unit : Nat} {c : CellId} (h : s.Queued qs) : (s.dropCodec unit c).Queued qs :=
  h.setCodec

theorem State.Queued.clearWindow {unit : Nat} (h : s.Queued qs) : (s.clearWindow unit).Queued qs := by
  unfold State.clearWindow
  split
  · exact .ite (.rest h) h
  · exact h

theorem State.Queued.codecFinish {unit : Nat} {k : CodecJob} {status consumed produced : Nat} (h : s.Queued qs) :
    (s.codecFinish unit k status consumed produced).Queued qs := by
  unfold State.codecFinish
  split
  · exact h.dropCodec
  · extract_lets _ s1 s2 s3 s4 s5
    have h1 : s1.Queued qs := h.releaseIn
    have h2 : s2.Queued qs := h1.writeBackWords
    have h3 : s3.Queued qs := h2.count64.count64.count
    have h4 : s4.Queued qs := .ite h3.count.raise h3
    have h5 : s5.Queued qs := .ite h4.count h4
    exact .endJob (.dropCodec (.clearWindow (.ite h5.raise h5)))

theorem State.Queued.codecStop {unit : Nat} {k : CodecJob} (h : s.Queued qs) : (s.codecStop unit k).Queued qs :=
  h.codecFinish

theorem State.Queued.codecFlush {unit : Nat} {k : CodecJob} (h : s.Queued qs) : (s.codecFlush unit k).Queued qs := by
  unfold State.codecFlush
  split
  · exact h.dropCodec
  · extract_lets _ _ _ s1
    have h1 : s1.Queued qs := h.writeSb.publish
    split
    · exact .ite h1.codecFinish h1.putCodec
    · exact .ite h1.codecStop h1.putCodec

theorem State.Queued.codecEncode {unit : Nat} {j : Job} {k : CodecJob} {output : List Byte} (h : s.Queued qs) :
    (s.codecEncode unit j k output).2.Queued qs := by
  unfold State.codecEncode
  extract_lets
  refine .iteSnd (.snd h) (.iteSnd ?_ (.snd h))
  split
  · next e => exact .snd (h.free.ofSnd e)

theorem State.Queued.codecTake {unit : Nat} {j : Job} {k : CodecJob} {output : List Byte} (h : s.Queued qs) :
    (s.codecTake unit j k output).Queued qs := by
  unfold State.codecTake
  extract_lets
  refine .ite h.putCodec ?_
  split
  · next e => exact (h.readSb.ofSnd e).codecFinish
  · next e =>
      have h1 := h.readSb.ofSnd e
      extract_lets
      split
      · next e2 =>
          have h2 := State.Queued.sndOf e2 (.iteSnd (.snd h1) h1.codecEncode)
          split
          · exact h.putCodec
          · extract_lets s3
            have h3 : s3.Queued qs := by
              dsimp only [s3]
              split
              · exact h2.releaseIn
              · exact h2
            exact h3.codecFlush

theorem State.Queued.execCodecJobEnd {unit : Fin 4} {output : List Byte} (h : s.Queued qs) :
    Answers (State.Queued qs) (execCodecJobEnd unit output s) := by
  unfold Machine.execCodecJobEnd
  extract_lets
  split
  · exact .next h
  · split
    · exact .next h
    · refine .ite (.next h.codecFlush) (.ite (.next h.disarm.codecFinish) ?_)
      split
      · next e => exact .next (h.readProt.ofSnd e).codecFinish
      · next e => exact .next (h.readProt.ofSnd e).codecTake

theorem State.Queued.cdcCtrlCond {m : Master} {unit : Nat} {v : Word} (h : s.Queued qs) : AllSome (State.Queued qs) (cdcCtrlCond m unit v s) :=
  .ite (.some h.refuse) .none

theorem State.Queued.codecHalt {unit : Nat} (h : s.Queued qs) : (s.codecHalt unit).Queued qs := by
  unfold State.codecHalt
  refine .ite h ?_
  split
  · exact h.codecStop
  · exact h.raise

theorem State.Queued.cdcCtrlEffect {unit : Nat} {v : Word} {d : RegDef} (h : s.Queued qs) : (cdcCtrlEffect unit v d s).Queued qs := by
  unfold Machine.cdcCtrlEffect
  extract_lets _ s1
  have h1 : s1.Queued qs := h.store
  exact .ite h1.codecHalt h1

theorem State.Queued.execCodecHalt {m : Master} {unit : Fin 4} {v : Word} (h : s.Queued qs) :
    Answers (State.Queued qs) (execCodecHalt m unit v s) :=
  .next (h.write (fun _ ht => ht.cdcCtrlCond) (fun _ _ ht => ht.cdcCtrlEffect))

theorem State.Queued.resumeCodecs {c : CellId} (h : s.Queued qs) : (s.resumeCodecs c).Queued qs := by
  unfold State.resumeCodecs
  refine .foldl h (fun _ ht _ => ?_)
  split
  · exact ht.codecFlush
  · exact ht

theorem State.Queued.execStreamDrain {c : CellId} {slot : Fin 2} {close : Bool} (h : s.Queued qs) :
    Answers (State.Queued qs) (execStreamDrain c slot close s) :=
  .ite (.next h) (.next h.drain.resumeCodecs)

theorem State.Queued.setRole {c : Nat} {r : Role} (h : s.Queued qs) : (s.setRole c r).Queued qs := by
  unfold State.setRole
  split
  · next e =>
      have h1 := h.free.ofSnd e
      exact h1.rest.setField

theorem State.Queued.rentCond {m : Master} {v : Word} (h : s.Queued qs) : AllSome (State.Queued qs) (rentCond m v s) := by
  unfold Machine.rentCond
  extract_lets
  split
  · exact .ite (.some h.refuse) (.ite (.some h.refuseRsvd) .none)
  · exact .none

theorem State.Queued.rentWrite {v : Word} (h : s.Queued qs) : (rentWrite v s).Queued qs := .ite h h.setRole

theorem State.Queued.holdNow {c : CellId} (h : s.Queued qs) : (s.holdNow c).Queued qs :=
  .ite h.setReg h.setReg.dropLoad.modCell.raise

theorem State.Queued.holdAndFill {c : CellId} (h : s.Queued qs) : (s.holdAndFill c).Queued qs :=
  h.holdNow.modCell.fillCell

theorem State.Queued.unhold {c : CellId} (h : s.Queued qs) : (s.unhold c).Queued qs := h.setReg.releaseCore

theorem State.Queued.wardenLoad (h : s.Queued qs) : s.wardenLoad.2.Queued qs := by
  unfold State.wardenLoad
  extract_lets _ _ s1 _ _ s2
  have h1 : s1.Queued qs := h.holdAndFill
  have h2 : s2.Queued qs := h1.modSuK.slotLoad
  exact .iteSnd (.snd h1) (.iteSnd (.snd h2) (.snd h2.modSuK.slotLoad))

theorem State.Queued.wardenGo (h : s.Queued qs) : s.wardenGo.Queued qs := h.modCell.unhold

theorem State.Queued.wreload (h : s.Queued qs) : s.wreload.Queued qs := by
  unfold State.wreload
  extract_lets s1
  have h1 : s1.2.Queued qs := h.wardenLoad
  exact .ite h1.wardenGo h1

theorem State.Queued.execJobDescriptor {f : Flit} (h : s.Queued qs) : Answers (State.Queued qs) (execJobDescriptor f s) :=
  .next (h.onMesh (fun _ ht => ht))

theorem State.Queued.execJobStatus {f : Flit} (h : s.Queued qs) : Answers (State.Queued qs) (execJobStatus f s) :=
  .next (h.onMesh (fun _ ht => ht))

theorem State.Queued.execControlFlit {f : Flit} (h : s.Queued qs) : Answers (State.Queued qs) (execControlFlit f s) :=
  .next (h.onMesh (fun _ ht => ht))

theorem State.Queued.execFabricReadResponse {f : Flit} (h : s.Queued qs) : Answers (State.Queued qs) (execFabricReadResponse f s) := by
  unfold Machine.execFabricReadResponse
  extract_lets
  refine .next (.onMesh h (fun _ ht => ?_))
  split
  · exact .ite ht.rest ht
  · exact ht

/-! ### Search -/

theorem State.Queued.modBank {b : Nat} {f : Bank → Bank} (h : s.Queued qs) : (s.modBank b f).Queued qs :=
  h.rest

theorem State.Queued.readSlot {b h : Nat} (hs : s.Queued qs) : (s.readSlot b h).2.Queued qs := by
  unfold State.readSlot
  split
  · exact .snd hs
  · split
    · next e => exact .snd (hs.peek.ofSnd e)

theorem State.Queued.writeSlot {b h : Nat} {x : ShSlot} (hs : s.Queued qs) : (s.writeSlot b h x).Queued qs := hs.poke

theorem State.Queued.postSlot {b h : Nat} {x : ShSlot} (hs : s.Queued qs) : (s.postSlot b h x).Queued qs :=
  hs.rest.modBank

theorem State.Queued.restartAt {b pos : Nat} (h : s.Queued qs) : (s.restartAt b pos).Queued qs := h.modBank

theorem State.Queued.mergeData {b : Nat} {l : List Nat} (h : s.Queued qs) : (s.mergeData b l).Queued qs :=
  h.foldl (fun _ ht _ => ht.mergeProt)

theorem State.Queued.entData {b pos : Nat} {e : Entry} (h : s.Queued qs) : (s.entData b pos e).2.Queued qs := by
  unfold State.entData
  split
  · next e => exact .snd (h.readProt.ofSnd e)
  · next e =>
      split
      · next e2 =>
          have h1 := (h.readProt.ofSnd e).readSlot.ofSnd e2
          split
          · next e =>
              refine .snd (.count (.modBank (.freshProt (State.Queued.sndOf e ?_))))
              split
              · exact .snd h1
              · exact .snd h1.free

theorem State.Queued.searchFor {c : CellId} {mask : Nat} {key : BitVec 144} (h : s.Queued qs) : (s.searchFor c mask key).2.Queued qs := by
  unfold State.searchFor
  extract_lets _ _ _ _ x1 s2
  clear_value x1
  have h2 : s2.Queued qs := h.foldl (fun _ ht _ => ht.count64)
  clear_value s2
  split
  · exact .snd h2
  · exact .snd h2.count64.entData

theorem State.Queued.endSearch {c : CellId} {j : Job} {k : Nat} {ws : List TWord} {status : Nat} (h : s.Queued qs) :
    (s.endSearch c j k ws status).Queued qs :=
  h.writeBackWords.endJob

theorem State.Queued.modSearchJob {c : CellId} {f : Job → Job} (h : s.Queued qs) : (s.modSearchJob c f).Queued qs :=
  h.modCell

theorem State.Queued.execSearch {c : CellId} (h : s.Queued qs) : Answers (State.Queued qs) (execSearch c s) := by
  unfold Machine.execSearch
  split
  · exact .next h
  · exact .ite (.next h) (.next h.searchFor.endSearch)

theorem State.Queued.streamSearch {c : CellId} {iu ou : Nat} (h : s.Queued qs) : AllSome (State.Queued qs) (s.streamSearch c iu ou) := by
  unfold State.streamSearch
  extract_lets
  split
  · next e =>
      have h1 := h.readSb.ofSnd e
      split
      · next t e =>
          have h2 : t.Queued qs := by
            refine State.Queued.sndOf e ?_
            split
            · exact .snd h1
            · exact .snd h1.free.free.free
          refine .ite .none ?_
          split
          · next e => exact .some (h2.searchFor.ofSnd e).writeSb.publish.releaseIn

theorem State.Queued.streamSearches {c : CellId} {iu ou n : Nat} (h : s.Queued qs) : (s.streamSearches c iu ou n).2.Queued qs := by
  induction n generalizing s with
  | zero => exact .snd h
  | succ n ih =>
    dsimp only [State.streamSearches]
    split
    · exact .snd h
    · next e =>
        exact .snd (ih (h.streamSearch.of_eq e))

theorem State.Queued.execSearchStream {c : CellId} (h : s.Queued qs) : Answers (State.Queued qs) (execSearchStream c s) := by
  unfold Machine.execSearchStream
  split
  · exact .next h
  · extract_lets
    split
    · next e =>
        extract_lets s1
        have h1 : s1.Queued qs := (h.streamSearches.ofSnd e).modSearchJob
        exact .ite (.next h1) (.next h1.endSearch)

theorem State.Queued.stopSearch {c : CellId} (h : s.Queued qs) : (s.stopSearch c).Queued qs := by
  unfold State.stopSearch
  split
  · exact h
  · extract_lets s1
    have h1 : s1.Queued qs := by
      dsimp only [s1]
      split
      · exact h.writeBackWords
      · exact h.writeBackWords
      · exact h
    exact h1.endJob

theorem State.Queued.shadowStall {c : CellId} {j : Job} (h : s.Queued qs) : (s.shadowStall c j).Queued qs :=
  .ite h.modSearchJob.count h

theorem State.Queued.execInsert {c : CellId} (h : s.Queued qs) : Answers (State.Queued qs) (execInsert c s) := by
  unfold Machine.execInsert
  split
  · exact .next h
  · extract_lets _ _ x1
    clear_value x1
    refine .ite (.next h.stopSearch) (.ite (.next h.disarm.raise.endJob) ?_)
    split
    · exact .next (.endJob (.ite h h.raise))
    · exact .ite (.next h.shadowStall) (.next h.mergeData.modBank.restartAt.postSlot.count.endSearch)

theorem State.Queued.execDelete {c : CellId} (h : s.Queued qs) : Answers (State.Queued qs) (execDelete c s) := by
  unfold Machine.execDelete
  split
  · exact .next h
  · extract_lets _ _ _ _ _ _ s1
    have h1 : s1.Queued qs := h.foldl (fun _ ht _ => ht.modBank.restartAt.postSlot)
    exact .ite (.next h.stopSearch) (.ite (.ite (.next h.endSearch) (.next h.endSearch)) (.ite (.next h.shadowStall) (.ite (.next
        h1.modSearchJob) (.next h1.endSearch))))

theorem State.Queued.execSearchEntryRead {c : CellId} (h : s.Queued qs) : Answers (State.Queued qs) (execSearchEntryRead c s) := by
  unfold Machine.execSearchEntryRead
  split
  · exact .next h
  · extract_lets
    refine .ite (.next h.stopSearch) ?_
    split
    · exact .next h.endJob
    · exact .next h.entData.endSearch

theorem State.Queued.execWindowSearch {unit : Fin 4} {bs : List Byte} (h : s.Queued qs) : Answers (State.Queued qs) (execWindowSearch unit bs s) := by
  unfold Machine.execWindowSearch
  extract_lets
  split
  · exact .ite (.next h) (.next h.modBank)
  · exact .next h

theorem State.Queued.spreadBank {b : Nat} (h : s.Queued qs) : (s.spreadBank b).Queued qs := by
  unfold State.spreadBank
  extract_lets
  split
  · exact h
  · exact h.mergeData.modBank.setField

theorem State.Queued.clearBank {b : Nat} (h : s.Queued qs) : (s.clearBank b).Queued qs := by
  unfold State.clearBank
  extract_lets s1 _ _ s2
  have h1 : s1.Queued qs := by
    dsimp only [s1]
    refine .foldl h (fun _ ht _ => ?_)
    split
    · exact .ite ht.stopSearch ht
    · exact ht
  clear_value s1
  have h2 : s2.Queued qs := h1.rest.modBank
  exact h2.setField.foldl (fun _ ht _ => ht.writeSlot)

theorem State.Queued.srbCtrlCond {m : Master} {b : Nat} {v : Word} (h : s.Queued qs) : AllSome (State.Queued qs) (srbCtrlCond m b v s) :=
  .ite (.some h.refuse) (.ite (.some h.refuseRsvd) (.ite (.some h.refuse) (.ite (.some h.refuse) .none)))

theorem State.Queued.srbCtrlEffect {b : Nat} {v : Word} (h : s.Queued qs) : (srbCtrlEffect b v s).Queued qs := by
  unfold Machine.srbCtrlEffect
  extract_lets _ s1 _ s2
  have h1 : s1.Queued qs := .ite h.clearBank h
  have h2 : s2.Queued qs := .ite h1.setReg.spreadBank h1.setReg
  exact .ite h2.modBank h2

theorem State.Queued.srbCtrlWrite {m : Master} {b : Nat} {v : Word} (h : s.Queued qs) : Answers (State.Queued qs) (srbCtrlWrite m b v s) :=
  .next (h.write (fun _ ht => ht.srbCtrlCond) (fun _ _ ht => ht.srbCtrlEffect))

theorem State.Queued.execSrbModeOwnerWrite {m : Master} {bank : Fin 16} {v : Word} (h : s.Queued qs) :
    Answers (State.Queued qs) (execSrbModeOwnerWrite m bank v s) :=
  h.srbCtrlWrite

theorem State.Queued.execClear {m : Master} {bank : Fin 16} (h : s.Queued qs) : Answers (State.Queued qs) (execClear m bank s) :=
  h.srbCtrlWrite

theorem State.Queued.execSpread {m : Option Master} {bank : Fin 16} (h : s.Queued qs) : Answers (State.Queued qs) (execSpread m bank s) := by
  unfold Machine.execSpread
  extract_lets
  split
  · exact h.srbCtrlWrite
  · exact .ite (.next h.spreadBank) (.next h)

theorem State.Queued.execSrbSelfTest {m : Option Master} {bank : Fin 16} {pass : Bool} (h : s.Queued qs) :
    Answers (State.Queued qs) (execSrbSelfTest m bank pass s) := by
  unfold Machine.execSrbSelfTest
  extract_lets
  split
  · exact h.srbCtrlWrite
  · exact .ite (.next h) (.next h.modBank.setReg.raise)

theorem State.Queued.mismatch {b pos handle kind : Nat} (h : s.Queued qs) : (s.mismatch b pos handle kind).Queued qs :=
  .raise (.count (.modBank (.setReg (h.foldl (fun _ ht _ => ht.setReg)))))

theorem State.Queued.rewritePos {b pos : Nat} {e : Entry} {x : ShSlot} (h : s.Queued qs) : (s.rewritePos b pos e x).Queued qs :=
  h.mergeData.modBank

theorem State.Queued.comparePos {b pos : Nat} {e : Entry} {bad : Bool} (h : s.Queued qs) : (s.comparePos b pos e bad).Queued qs := by
  unfold State.comparePos
  split
  · next e =>
      extract_lets
      split
      · next e2 =>
          have h1 := (h.readProt.ofSnd e).readSlot.ofSnd e2
          refine .ite ?_ ?_
          · extract_lets s2
            have h2 : s2.Queued qs := h1.disarm.mismatch
            split
            · exact .ite h2 h2.rewritePos
            · exact h2
          · split
            · exact .ite h1.modBank.writeSlot.count.mismatch h1.writeSlot.mismatch
            · exact .ite h1.modBank.mismatch (.ite h1.freshProt.rewritePos.mismatch
                (.ite h1.rewritePos.mismatch (.ite h1.rewritePos.mismatch h1)))

theorem State.Queued.passEnd {b : Nat} (h : s.Queued qs) : (s.passEnd b).Queued qs := by
  unfold State.passEnd
  extract_lets _ _ _ _ s1
  have h1 : s1.Queued qs := h.setReg.modBank
  exact .ite h1.modBank.count.raise h1

theorem State.Queued.recoverBank {b : Nat} (h : s.Queued qs) : (s.recoverBank b).Queued qs := by
  unfold State.recoverBank
  extract_lets _ s1
  have h1 : s1.Queued qs := by
    dsimp only [s1]
    refine .foldl h (fun _ ht _ => ?_)
    split
    · next e =>
        have h2 := ht.readSlot.ofSnd e
        exact .ite h2.modBank h2.rewritePos
    · next e => exact ht.readSlot.ofSnd e
  exact h1.modBank

theorem State.Queued.reloadBank {b : Nat} (h : s.Queued qs) : (s.reloadBank b).Queued qs := by
  rw [State.reloadBank]
  split
  · next t e =>
      have ht : t.Queued qs := by
        refine State.Queued.sndOf e (.foldlSnd (.snd h) fun t ht k => ?_)
        split
        · next e => exact .snd (ht.readSlot.ofSnd e)
        · next e => exact .snd (ht.readSlot.ofSnd e)
      exact ht.modBank

theorem State.Queued.execSweepCompare {bank : Fin 16} {flip : Option Entry} {bad : Bool} (h : s.Queued qs) :
    Answers (State.Queued qs) (execSweepCompare bank flip bad s) := by
  unfold Machine.execSweepCompare
  extract_lets
  refine .ite (.next h) ?_
  refine .ite (.ite (.next h) (.ite (.next h.reloadBank.modBank) (.ite (.next h.modBank) (.next h.recoverBank)))) ?_
  split
  · exact .next h.passEnd
  · extract_lets _ _ s1
    have h1 : s1.Queued qs := h.modBank.comparePos
    exact .ite (.next h1.setField) (.next h1.setField.passEnd)

theorem State.Queued.execShadowWriteComplete (h : s.Queued qs) : Answers (State.Queued qs) (execShadowWriteComplete s) := by
  unfold Machine.execShadowWriteComplete
  split
  · exact .next h
  · extract_lets _ _ s1
    have h1 : s1.Queued qs := h.rest.writeSlot.modBank
    split
    · exact .next h1.setField.modBank
    · exact .next h1

theorem State.Queued.srcCtrlCond {m : Master} {v : Word} (h : s.Queued qs) : AllSome (State.Queued qs) (srcCtrlCond m v s) :=
  .ite (.some h.refuse) .none

theorem State.Queued.shbaseCond {m : Master} {v : Word} (h : s.Queued qs) : AllSome (State.Queued qs) (shbaseCond m v s) :=
  .ite .none (.some h.refuse)

theorem State.Queued.srcCmdCond {m : Master} {v : Word} (h : s.Queued qs) : AllSome (State.Queued qs) (srcCmdCond m v s) :=
  .ite (.some h.refuse) .none

/-- A change of the work of the search engine. -/
theorem State.Queued.searchWork {n : Nat} (h : s.Queued qs) : State.Queued qs { s with search := { s.search with work := n } } := h.rest

theorem State.Queued.srcCmdEffect {v : Word} (h : s.Queued qs) : (srcCmdEffect v s).Queued qs := by
  unfold Machine.srcCmdEffect
  refine .ite h ?_
  extract_lets s1 s2
  have h1 : s1.Queued qs := h.setReg
  have h2 : s2.Queued qs := h1.foldl (fun _ ht _ => ht.clearBank)
  clear_value s2
  split
  · exact h2.searchWork
  · exact h1.searchWork

theorem State.Queued.execInit {m : Master} (h : s.Queued qs) : Answers (State.Queued qs) (execInit m s) :=
  .next (h.write (fun _ ht => ht.srcCmdCond) (fun _ _ ht => ht.srcCmdEffect))

theorem State.Queued.execReload {m : Master} (h : s.Queued qs) : Answers (State.Queued qs) (execReload m s) :=
  .next (h.write (fun _ ht => ht.srcCmdCond) (fun _ _ ht => ht.srcCmdEffect))

theorem State.Queued.endWork (h : s.Queued qs) : s.endWork.Queued qs := by
  unfold State.endWork
  refine .ite h ?_
  extract_lets s1
  have h1 : s1.Queued qs := .ite (h.foldl (fun _ ht _ => .ite ht.reloadBank ht)) h
  exact h1.rest.setReg.raise

theorem State.Queued.execSrcThrottleSample (h : s.Queued qs) : Answers (State.Queued qs) (execSrcThrottleSample s) := by
  unfold Machine.execSrcThrottleSample
  refine .ite (.next h) ?_
  extract_lets _ _ _ _ _ s1
  have h1 : s1.Queued qs := .ite h.count h
  exact .next (.ite h1.setReg h1.setReg.raise)

/-! ### Crypto -/

theorem State.Queued.modKey {n : Nat} {f : KeySlot → KeySlot} (h : s.Queued qs) : (s.modKey n f).Queued qs :=
  h.rest

theorem State.Queued.modLane {l : Nat} {f : Lane → Lane} (h : s.Queued qs) : (s.modLane l f).Queued qs :=
  h.rest

theorem State.Queued.modCtx {k : Nat} {f : DigCtx → DigCtx} (h : s.Queued qs) : (s.modCtx k f).Queued qs :=
  h.rest

theorem State.Queued.modJob {c : CellId} {p : Nat} {f : Job → Job} (h : s.Queued qs) : (s.modJob c p f).Queued qs :=
  h.modCell

theorem State.Queued.raiseAlarm {n : Nat} (h : s.Queued qs) : (s.raiseAlarm n).Queued qs := h.setReg.rest.count.raise

theorem State.Queued.clearDigRes {lane : Nat} (h : s.Queued qs) : (s.clearDigRes lane).Queued qs :=
  .setReg (h.foldl (fun _ ht _ => ht.setReg))

theorem State.Queued.clearCtx {k : Nat} (h : s.Queued qs) : (s.clearCtx k).Queued qs :=
  h.modCtx.foldl (fun _ ht _ => ht.freshProt)

theorem State.Queued.alarmDigest {c : CellId} (h : s.Queued qs) : (s.alarmDigest c).Queued qs :=
  .endJob (h.foldl (fun _ ht _ => .ite ht.clearCtx ht))

theorem State.Queued.clearDigests (h : s.Queued qs) : s.clearDigests.Queued qs := by
  unfold State.clearDigests
  extract_lets s1 s2
  have h1 : s1.Queued qs := by
    dsimp only [s1]
    refine .foldl h (fun _ ht _ => ?_)
    split
    · exact .ite ht.alarmDigest ht
    · exact ht
  clear_value s1
  have h2 : s2.Queued qs := h1.foldl (fun _ ht _ => ht.clearCtx)
  clear_value s2
  exact h2.rest.foldl (fun _ ht _ => ht.clearDigRes.count.raise)

theorem State.Queued.eraseKey {n : Nat} (h : s.Queued qs) : (s.eraseKey n).Queued qs := h.modKey

theorem State.Queued.endHeld {n status : Nat} (h : s.Queued qs) : (s.endHeld n status).Queued qs := by
  unfold State.endHeld
  refine .foldl h (fun _ ht _ => ?_)
  split
  · exact .ite ht.modLane.endJob ht
  · exact ht

theorem State.Queued.cryptoAlarm (h : s.Queued qs) : s.cryptoAlarm.Queued qs := by
  unfold State.cryptoAlarm
  extract_lets s1 s2 k s3
  have hk (u : State) (hu : u.Queued qs) : State.Queued qs { u with crypto := { u.crypto with
      root := none, lanes := u.crypto.lanes.map fun (l : Lane) => { l with keys := [] } } } :=
    hu.rest
  have h1 : s1.Queued qs := h.clearDigests
  have h2 : s2.Queued qs := h1.foldl fun _ ht _ => ht.endHeld.eraseKey
  have h3 : s3.Queued qs := hk s2 h2
  exact h3.setReg.raise

theorem State.Queued.keyFault {n : Nat} (h : s.Queued qs) : (s.keyFault n).Queued qs :=
  .raiseAlarm (.raise (.count (h.clearDigests.endHeld.eraseKey.foldl (fun _ ht _ => ht.freshProt))))

theorem State.Queued.useKey {n : Nat} (h : s.Queued qs) : (s.useKey n).2.Queued qs := by
  unfold State.useKey
  extract_lets s1
  have h1 : s1.2.Queued qs := by
    dsimp only [s1]
    refine .foldlSnd (.snd h) (fun _ ht _ => ?_)
    split
    · next e => exact .snd (ht.readProt.ofSnd e)
    · next e => exact .snd (ht.readProt.ofSnd e)
  exact .iteSnd h1 (.snd h1.keyFault)

theorem State.Queued.keepEpoch {l : BitVec 512} (h : s.Queued qs) : (s.keepEpoch l).Queued qs := by
  unfold State.keepEpoch
  split
  · exact .ite h.rest h
  · exact h

theorem State.Queued.loadKey {n : Nat} {root : Bool} {l : BitVec 512} {klen : Nat} (h : s.Queued qs) : (s.loadKey n root l klen).Queued qs :=
  .count (.keepEpoch (h.modKey.foldl (fun _ ht _ => ht.freshProt)))

theorem State.Queued.keyResult {r : Nat} (h : s.Queued qs) : (s.keyResult r).Queued qs := h.setReg

theorem State.Queued.keyRefuse {m : Master} {v : Word} {r : Nat} {code : Option Nat} (h : s.Queued qs) : (s.keyRefuse m v r code).Queued qs := by
  unfold State.keyRefuse
  extract_lets s1
  have h1 : s1.Queued qs := h.keyResult.count.raise
  split
  · exact h1.refuse
  · exact h1

theorem State.Queued.settleHeld {n : Nat} {goOn : Bool} (h : s.Queued qs) : (s.settleHeld n goOn).Queued qs := by
  unfold State.settleHeld
  refine .ite (.foldl h (fun _ ht _ => ?_)) (h.endHeld.foldl (fun _ ht _ => ht.modLane))
  split
  · exact .ite ht.modLane.modJob ht
  · exact ht

theorem State.Queued.derive {m : Master} {v : Word} (h : s.Queued qs) : (s.derive m v).Queued qs :=
  .ite h.keyRefuse (.ite h.keyResult (.ite h.keyRefuse (.ite h.keyRefuse h.loadKey.settleHeld.keyResult)))

theorem State.Queued.eraseCmd {m : Master} {v : Word} (h : s.Queued qs) : (s.eraseCmd m v).Queued qs :=
  .ite h.keyRefuse h.settleHeld.eraseKey.keyResult

theorem State.Queued.installBlob {blob : List Byte} (h : s.Queued qs) : AllSome (State.Queued qs) (s.installBlob blob) :=
  AllSome.mapOf (fun _ => h.rest)

theorem State.Queued.installCmd {m : Master} {v : Word} (h : s.Queued qs) : (s.installCmd m v).Queued qs := by
  unfold State.installCmd
  refine .ite h.keyRefuse (.ite h.keyRefuse ?_)
  split
  · exact h.keyRefuse
  · next e => exact (h.installBlob.of_eq e).keyResult

theorem State.Queued.eraseAllCmd {m : Master} {v : Word} (h : s.Queued qs) : (s.eraseAllCmd m v).Queued qs :=
  .ite h.keyRefuse (.keyResult (h.foldl (fun _ ht _ => ht.settleHeld.eraseKey)))

theorem State.Queued.keyCmdEffect {m : Master} {v : Word} (h : s.Queued qs) : (keyCmdEffect m v s).Queued qs := by
  unfold Machine.keyCmdEffect
  refine .ite h.keyRefuse ?_
  split
  · exact h.derive
  · exact h.eraseCmd
  · exact h.installCmd
  · exact h.eraseAllCmd
  · exact h.keyRefuse

theorem State.Queued.execRootLock {m : Master} {v : Word} (h : s.Queued qs) : Answers (State.Queued qs) (execRootLock m v s) :=
  .next (h.write (fun _ _ => .none) (fun _ _ ht => ht.store))

theorem State.Queued.execKeySuse0Read {m : Master} (h : s.Queued qs) : Answers (State.Queued qs) (execKeySuse0Read m s) := by
  unfold Machine.execKeySuse0Read
  extract_lets s1
  have h1 : s1.Queued qs := h.arrive
  split
  · next e => exact .next (h1.checkAccess.of_eq e).reply
  · exact .next h1.latch.answerRead

theorem State.Queued.slotWinCond {m : Master} {off : Nat} {v : Word} (h : s.Queued qs) : AllSome (State.Queued qs) (slotWinCond m off v s) :=
  .ite (.some h.refuse) .none

theorem State.Queued.slimWrite {v : Word} (h : s.Queued qs) : (slimWrite v s).Queued qs := h.modKey

theorem State.Queued.sownWrite {v : Word} (h : s.Queued qs) : (sownWrite v s).Queued qs := h.modKey

theorem State.Queued.wrapWrite {k : Nat} {v : Word} (h : s.Queued qs) : (wrapWrite k v s).Queued qs := h.rest

theorem State.Queued.useBlocks {slot n : Nat} (h : s.Queued qs) : (s.useBlocks slot n).Queued qs :=
  .ite h.modKey.count.raise h.modKey

theorem State.Queued.writeCipher {c : CellId} {j : Job} {out : List Byte} (h : s.Queued qs) : (s.writeCipher c j out).Queued qs :=
  .ite (h.foldl (fun _ ht _ => ht.writeSb)) h.writeSb

theorem State.Queued.endCipher {c : CellId} {lane status blocks : Nat} (h : s.Queued qs) : (s.endCipher c lane status blocks).Queued qs :=
  h.modLane.setReg.count.endJob

theorem State.Queued.execCipherJob {c : CellId} {lane : Fin 16} {busErr : Bool} (h : s.Queued qs) :
    Answers (State.Queued qs) (execCipherJob c lane busErr s) := by
  unfold Machine.execCipherJob
  extract_lets
  split
  · exact .next h
  · extract_lets
    refine .ite (.next h) ?_
    split
    · next e => exact .next (h.useKey.ofSnd e).endCipher
    · next e =>
        have h1 := h.useKey.ofSnd e
        split
        · next e => exact .next (h1.readSb.ofSnd e).endCipher
        · next e =>
            have h2 := h1.readSb.ofSnd e
            refine .ite (.next h2.endCipher) ?_
            extract_lets k pos left from_ s4 s3 size force s2
            have h4 : s4.Queued qs := h2.useBlocks
            have h3 : s3.Queued qs := .ite h2 h2.useBlocks
            have h2 : s2.Queued qs := .ite h3.disarm h3
            clear_value s2 s3 s4
            split
            · extract_lets
              refine .ite (.next h4.modLane.setReg.count64.count.raise.endJob) ?_
              split
              · split
                · next t e =>
                    have ht : t.Queued qs := by
                      refine State.Queued.sndOf e (.iteSnd ?_ (.snd h2))
                      exact .snd h2.free
                    extract_lets ok s5 s6 s7 s8
                    have h7 : s7.Queued qs := ht.writeCipher.writeBackWords.count64
                    have h8 : s8.Queued qs := .ite h7 h7.count.raise
                    exact .next h8.endCipher

theorem State.Queued.haltLane {l : Nat} (h : s.Queued qs) : (s.haltLane l).Queued qs := by
  unfold State.haltLane
  extract_lets s1
  have h1 : s1.Queued qs := by
    dsimp only [s1]
    split
    · exact h.modLane.endJob
    · exact h
  exact h1.modLane

theorem State.Queued.cipCtrlEffect {l : Nat} {v : Word} {d : RegDef} (h : s.Queued qs) : (cipCtrlEffect l v d s).Queued qs := by
  unfold Machine.cipCtrlEffect
  extract_lets _ s1
  have h1 : s1.Queued qs := h.store
  exact .ite h1.haltLane h1

theorem State.Queued.execCipherHalt {m : Master} {lane : Fin 16} {v : Word} (h : s.Queued qs) :
    Answers (State.Queued qs) (execCipherHalt m lane v s) :=
  .next (h.write (fun _ _ => .none) (fun _ _ ht => ht.cipCtrlEffect))

theorem State.Queued.ccmLimCond {m : Master} {l : Nat} {v : Word} (h : s.Queued qs) : AllSome (State.Queued qs) (ccmLimCond m l v s) :=
  .ite (.some h.refuse) .none

theorem State.Queued.digResume {c : CellId} {j : Job} (h : s.Queued qs) : (s.digResume c j).2.Queued qs := by
  unfold State.digResume
  split
  · extract_lets s1
    have h1 : s1.2.Queued qs := by
      dsimp only [s1]
      refine .foldlSnd (.snd h) (fun _ ht _ => ?_)
      split
      · next e => exact .snd (ht.readProt.ofSnd e)
      · next e => exact .snd (ht.readProt.ofSnd e)
    exact .iteSnd (.snd h1.modCtx) (.snd h1.modCtx.clearCtx)
  · exact .snd h

theorem State.Queued.setDig {l : Nat} {c : Option CellId} (h : s.Queued qs) : (s.setDig l c).Queued qs := h.rest

theorem State.Queued.saveDigest {l k : Nat} {c : CellId} {j : Job} {done : Nat} {st : List Byte} (h : s.Queued qs) :
    (s.saveDigest l k c j done st).Queued qs := by
  unfold State.saveDigest
  split
  · next e => exact .setDig (.modJob (.count ((h.free.ofSnd e).modCtx.foldl (fun _ ht _ => ht.freshProt))))

theorem State.Queued.switchTo {l : Nat} {c : CellId} (h : s.Queued qs) : AllSome (State.Queued qs) (s.switchTo l c) := by
  unfold State.switchTo
  split
  · exact .some h
  · refine .ite (.some h) ?_
    split
    · exact .some h.setDig
    · exact .ite (.some h.saveDigest) .none
    · exact .none

theorem State.Queued.digBusErr {c : CellId} {lane : Nat} (h : s.Queued qs) : (s.digBusErr c lane).Queued qs :=
  h.clearDigRes.alarmDigest.setDig.count.raise.raise

theorem State.Queued.execDigestJob {c : CellId} {lane : Fin 4} {cut : Option Nat} {busErr : Bool} (h : s.Queued qs) :
    Answers (State.Queued qs) (execDigestJob c lane cut busErr s) := by
  unfold Machine.execDigestJob
  extract_lets
  split
  · exact .next h
  · exact .next h
  · next ea eb =>
      refine .ite (.next h) ?_
      extract_lets s1 _ _ _ _ _ _ _ x2
      clear_value x2
      have h1 : s1.Queued qs := h.switchTo.of_eq eb
      refine .ite (.next h1) ?_
      split
      · next e2 => exact .next (h1.readSb.ofSnd e2).digBusErr
      · next e2 =>
          have h3 := h1.readSb.ofSnd e2
          refine .ite (.next h3.disarm.digBusErr) ?_
          split
          · next e3 => exact .next (h3.digResume.ofSnd e3).alarmDigest
          · next e3 =>
              have h4 := h3.digResume.ofSnd e3
              extract_lets s5 s6 _ _ _ s7
              have h5 : s5.Queued qs := .ite h4.releaseIn h4
              have h6 : s6.Queued qs := h5.count64
              have h7 : s7.Queued qs := h6.writeBackWords
              refine .ite ?_ (.next (.endJob (.setDig (.count (.ite (.setReg (h7.foldl (fun _ ht _ => ht.setReg))) h7)))))
              split
              · exact .next h6.modJob.setDig
              · exact .next h6.saveDigest

theorem State.Queued.digCtxCond {m : Master} {l off : Nat} {v : Word} (h : s.Queued qs) : AllSome (State.Queued qs) (digCtxCond m l off v s) :=
  .ite (.some h.refuse) .none

theorem State.Queued.digCtxWrite {l w : Nat} {v : Word} (h : s.Queued qs) : (digCtxWrite l w v s).Queued qs :=
  h.mergeProt.modCtx

theorem State.Queued.digCtrlCond {m : Master} {l : Nat} {v : Word} (h : s.Queued qs) : AllSome (State.Queued qs) (digCtrlCond m l v s) :=
  .ite (.some h.refuse) .none

/-! ### Nvme -/

theorem State.Queued.logStatus {r : CmdRef} {st : Status} (h : s.Queued qs) : (s.logStatus r st).Queued qs :=
  .ite h.modLogs h

theorem State.Queued.modCmd {r : CmdRef} {f : Cmd → Cmd} (h : s.Queued qs) : (s.modCmd r f).Queued qs := h.rest

theorem State.Queued.dropCmd {r : CmdRef} (h : s.Queued qs) : (s.dropCmd r).Queued qs := h.rest

theorem State.Queued.forget {r : CmdRef} (h : s.Queued qs) : (s.forget r).Queued qs := by
  unfold State.forget
  extract_lets s1
  have h1 : s1.Queued qs := h.dropCmd
  exact h1.rest.rest

theorem State.Queued.addCmd {c : Cmd} (h : s.Queued qs) : (s.addCmd c).Queued qs := h.rest

theorem State.Queued.uncharge {o : ChargeOwner} (h : s.Queued qs) : (s.uncharge o).Queued qs := h.rest

theorem State.Queued.finish {r : CmdRef} {st : Status} (h : s.Queued qs) : (s.finish r st).Queued qs := by
  unfold State.finish
  extract_lets s1
  have h1 : s1.Queued qs := h.uncharge.logStatus
  split
  · exact .ite h1.forget h1.modCmd
  · exact h1.addCmd

theorem State.Queued.drainAsync {f : Fun} (h : s.Queued qs) : (s.drainAsync f).Queued qs := by
  unfold State.drainAsync
  extract_lets
  split
  · exact h.modLogs.finish
  · exact h

theorem State.Queued.asyncEvent {f : Fun} {ty info lid : Nat} (h : s.Queued qs) : (s.asyncEvent f ty info lid).Queued qs :=
  .ite h.modLogs.drainAsync h

theorem State.Queued.unmaskAsync {f : Fun} {ty : Nat} (h : s.Queued qs) : (s.unmaskAsync f ty).Queued qs :=
  h.modLogs.drainAsync

theorem State.Queued.modSq {f : Fun} {q : Nat} {g : SQueue → SQueue} (h : s.Queued qs) : (s.modSq f q g).Queued qs :=
  h.modCtrl

theorem State.Queued.modCq {f : Fun} {q : Nat} {g : CQueue → CQueue} (h : s.Queued qs) : (s.modCq f q g).Queued qs :=
  h.modCtrl

theorem State.Queued.fatal {f : Fun} (h : s.Queued qs) : (s.fatal f).Queued qs := h.modCtrl.raise

theorem State.Queued.entryBad {page place : Nat} (h : s.Queued qs) : (s.entryBad page place).2.Queued qs :=
  .snd h.scanProt.scanProt.clearProt.clearProt

theorem State.Queued.fetchEntry {c : NvmeCmd} (h : s.Queued qs) : (s.fetchEntry c).1.Queued qs := by
  unfold State.fetchEntry
  split
  · refine .iteFst (.fst h.disarm.fatal.raise) ?_
    extract_lets
    split
    · next e => exact .fst (h.count64.modSq.entryBad.ofSnd e).finish
    · next e => exact .fst (h.count64.modSq.entryBad.ofSnd e)
  · exact .fst h

theorem State.Queued.onAdmin {c : NvmeCmd} {f : State → State} (h : s.Queued qs) (hf : ∀ t, t.Queued qs → (f t).Queued qs) :
    Answers (State.Queued qs) (onAdmin c s f) := by
  unfold Machine.onAdmin
  refine .ite (.next h) ?_
  split
  · next e => exact .next (hf _ (h.fetchEntry.ofFst e))
  · next e => exact .next (h.fetchEntry.ofFst e)

theorem State.Queued.onIo {c : NvmeCmd} {f : Nat → State → State} (h : s.Queued qs) (hf : ∀ x, ∀ t, t.Queued qs → (f x t).Queued qs) :
    Answers (State.Queued qs) (onIo c s f) := by
  unfold Machine.onIo
  refine .ite (.next h) ?_
  split
  · next e => exact .next (hf _ _ (h.fetchEntry.ofFst e))
  · next e => exact .next (h.fetchEntry.ofFst e)

theorem State.Queued.markDirty {f : Fun} {addr len : Nat} (h : s.Queued qs) : (s.markDirty f addr len).Queued qs := by
  unfold State.markDirty
  refine .ite h (.foldl h fun _ ht _ => .ite ?_ (.raise ?_))
  · exact ht.rest
  · exact ht.rest

theorem State.Queued.hostWrite {f : Fun} {segs : List (BitVec 64 × Nat)} {bs : List Byte} (h : s.Queued qs) :
    (s.hostWrite f segs bs).Queued qs :=
  .foldlFst (.fst h) (fun _ ht _ => .iteFst ht (.fst ht.markDirty.emit))

theorem State.Queued.xferFail {poisoned : Bool} (h : s.Queued qs) : (s.xferFail poisoned).Queued qs := by
  unfold State.xferFail
  extract_lets s1
  have h1 : s1.Queued qs := h.raise.count
  exact .ite h1.count h1

theorem State.Queued.xferOk (h : s.Queued qs) : s.xferOk.2.Queued qs := .iteSnd (.snd h.disarm.xferFail) (.snd h)

theorem State.Queued.signalCq {f : Fun} {q : CQueue} (h : s.Queued qs) : (s.signalCq f q).Queued qs :=
  .ite h (.ite h.sendVector (.ite h.modCtrl.sendVector h.modCtrl))

theorem State.Queued.execInterruptCoalescingTimer {fn : Fun} {vec : Nat} (h : s.Queued qs) :
    Answers (State.Queued qs) (execInterruptCoalescingTimer fn vec s) := by
  unfold Machine.execInterruptCoalescingTimer
  extract_lets
  split
  · exact .ite (.next h) (.next h.modCtrl.sendVector)
  · exact .next h

theorem State.Queued.noteLate {c : Cmd} (h : s.Queued qs) : (s.noteLate c).Queued qs := by
  unfold State.noteLate
  extract_lets s1
  have h1 : s1.Queued qs := h.count.raise
  exact .modLogs (.ite h1.count h1)

theorem State.Queued.endDelete {f : Fun} {q : Nat} (h : s.Queued qs) : (s.endDelete f q).Queued qs := by
  unfold State.endDelete
  split
  · split
    · exact .ite h h.modCtrl.finish
    · exact h
  · exact h

theorem State.Queued.post {c : Cmd} {st : Status} {x : SQueue} {q : CQueue} (h : s.Queued qs) : (s.post c st x q).Queued qs :=
  .signalCq (.endDelete (.forget (.count64 (.modCq (.markDirty (.emit (.ite h.noteLate h)))))))

theorem State.Queued.badBell {f : Fun} {y info : Nat} (h : s.Queued qs) : (s.badBell f y info).Queued qs :=
  h.raise.asyncEvent

theorem State.Queued.sqBell {f : Fun} {y bytes : Nat} {v : Word} (h : s.Queued qs) : (s.sqBell f y bytes v).Queued qs := by
  unfold State.sqBell
  refine .ite h ?_
  split
  · exact h.badBell
  · exact .ite h.badBell h.modSq

theorem State.Queued.cqBell {f : Fun} {y bytes : Nat} {v : Word} (h : s.Queued qs) : (s.cqBell f y bytes v).Queued qs := by
  unfold State.cqBell
  refine .ite h ?_
  split
  · exact h.badBell
  · exact .ite h.badBell h.modCq

theorem State.Queued.execSqTailDoorbell {fn : Fun} {y bytes : Nat} {v : Word} (h : s.Queued qs) :
    Answers (State.Queued qs) (execSqTailDoorbell fn y bytes v s) :=
  .next h.arrive.sqBell

theorem State.Queued.execCqHeadDoorbell {fn : Fun} {y bytes : Nat} {v : Word} (h : s.Queued qs) :
    Answers (State.Queued qs) (execCqHeadDoorbell fn y bytes v s) :=
  .next h.arrive.cqBell

/-! ### Map -/

theorem State.Queued.setCoarse {u : Nat} {e : Word} (h : s.Queued qs) : (s.setCoarse u e).Queued qs := h.rest

theorem State.Queued.setFine {g i e : Nat} (h : s.Queued qs) : (s.setFine g i e).Queued qs := h.rest

theorem State.Queued.drawGroup {g : Nat} (h : s.Queued qs) : (s.drawGroup g).Queued qs := h.rest

theorem State.Queued.returnGroup {g : Nat} (h : s.Queued qs) : (s.returnGroup g).Queued qs := h.rest

theorem State.Queued.modBlk {die b : Nat} {f : Blk → Blk} (h : s.Queued qs) : (s.modBlk die b f).Queued qs := h.rest

theorem State.Queued.note {r : JRec} (h : s.Queued qs) : (s.note r).Queued qs := h.rest

theorem State.Queued.setBuf {n : Nat} (h : s.Queued qs) : (s.setBuf n).Queued qs := h.rest.setReg

theorem State.Queued.showEvSpare (h : s.Queued qs) : s.showEvSpare.Queued qs := h.setReg

theorem State.Queued.drawEvid (h : s.Queued qs) : s.drawEvid.Queued qs := by
  unfold State.drawEvid
  extract_lets _ _ _ s1 s2
  have h1 : s1.Queued qs := h.rest.setField.showEvSpare
  have h2 : s2.Queued qs := .ite h1 h1.raise
  exact .ite h2.rest.raise h2.rest

theorem State.Queued.opening {stream die b : Nat} (h : s.Queued qs) : (s.opening stream die b).Queued qs :=
  .ite (.ite h.modBlk.drawEvid h) (.ite h.setBuf h)

theorem State.Queued.alloc {die stream : Nat} {mode : Mode} (h : s.Queued qs) : (s.alloc die stream mode).2.Queued qs := by
  unfold State.alloc
  extract_lets
  split
  · exact .snd h.modBlk
  · split
    · exact .snd h
    · exact .iteSnd (.snd h) (.snd h.modBlk.note.opening.modBlk)

theorem State.Queued.addReq {r : Req} (h : s.Queued qs) : (s.addReq r).Queued qs := h.rest

theorem State.Queued.modReq {id : Nat} {f : Req → Req} (h : s.Queued qs) : (s.modReq id f).Queued qs := h.rest

theorem State.Queued.dropReq {id : Nat} (h : s.Queued qs) : (s.dropReq id).Queued qs := h.rest

theorem State.Queued.programCopy {p : JPage} {copyB : Bool} {avoid : List Nat} (h : s.Queued qs) : (s.programCopy p copyB avoid).Queued qs := by
  unfold State.programCopy
  split
  · exact h
  · split
    · next e => exact h.alloc.ofSnd e
    · next e =>
        have h1 := h.alloc.ofSnd e
        exact h1.rest.addReq

theorem State.Queued.seal {flush final shutdown : Bool} (h : s.Queued qs) : (s.seal flush final shutdown).Queued qs := by
  unfold State.seal
  extract_lets _ _ _ s1
  have h1 : s1.Queued qs := h.rest.programCopy
  split
  · exact h1.programCopy
  · exact h1

theorem State.Queued.commit {rs : List JRec} (h : s.Queued qs) : (s.commit rs).Queued qs := by
  unfold State.commit
  extract_lets s1 s2
  have h1 : s1.Queued qs := .ite h.seal h
  have h2 : s2.Queued qs := h1.foldl (fun _ ht _ => ht.note)
  exact .ite h2.seal h2

theorem State.Queued.unstage {p : Staged → Bool} (h : s.Queued qs) : (s.unstage p).Queued qs := h.rest

theorem State.Queued.supersede {n lba : Nat} {v : BitVec 64} {issued : Bool} (h : s.Queued qs) : (s.supersede n lba v issued).Queued qs :=
  h.unstage

theorem State.Queued.stage {n lba : Nat} {data : Block} {r : CmdRef} {w : BitVec 32} {evid : Bool} (h : s.Queued qs) :
    (s.stage n lba data r w evid).Queued qs := by
  unfold State.stage
  extract_lets _ s1
  have h1 : s1.Queued qs := h.supersede
  exact h1.rest

/-! ### Forecast -/

theorem State.Queued.charge {o : ChargeOwner} {c : Class} {r : Res} {ns : Rat} (h : s.Queued qs) : (s.charge o c r ns).Queued qs :=
  .ite h h.rest

theorem State.Queued.worked {o : ChargeOwner} {r : Res} {ns : Rat} (h : s.Queued qs) : (s.worked o r ns).Queued qs :=
  h.rest

theorem State.Queued.modDie {d : Nat} {f : DieSt → DieSt} (h : s.Queued qs) : (s.modDie d f).Queued qs :=
  h.rest

theorem State.Queued.programCharge {o : ChargeOwner} {c : Class} {bytes : Nat} (h : s.Queued qs) : (s.programCharge o c bytes).Queued qs :=
  h.charge.charge

theorem State.Queued.chargeDemand {o : ChargeOwner} {c : Class} {d : Demand} (h : s.Queued qs) : (s.chargeDemand o c d).Queued qs := by
  unfold State.chargeDemand
  extract_lets s1 s2 s3 s4
  have h1 : s1.Queued qs := h.foldl (fun _ ht _ => ht.charge)
  have h2 : s2.Queued qs := h1.foldl (fun _ ht _ => ht.charge)
  have h3 : s3.Queued qs := h2.charge.charge.charge
  have h4 : s4.Queued qs := h3.charge
  split
  · exact h4.charge
  · exact h4

theorem State.Queued.modBucket {f : Nat} {g : Bucket → Bucket} (h : s.Queued qs) : (s.modBucket f g).Queued qs :=
  h.rest

theorem State.Queued.fillBuckets (h : s.Queued qs) : s.fillBuckets.Queued qs := h.rest

theorem State.Queued.takeTokens {f len : Nat} (h : s.Queued qs) : (s.takeTokens f len).Queued qs :=
  h.fillBuckets.modBucket

theorem State.Queued.giveTokens {f len : Nat} (h : s.Queued qs) : (s.giveTokens f len).Queued qs :=
  h.fillBuckets.modBucket

theorem State.Queued.execTokenRefill (h : s.Queued qs) : Answers (State.Queued qs) (execTokenRefill s) :=
  .next h.fillBuckets

theorem State.Queued.space {dies : List Nat} (h : s.Queued qs) : (s.space dies).Queued qs := h.rest

theorem State.Queued.reject {r : CmdRef} {st : Status} {reason w us : Nat} (h : s.Queued qs) : (s.reject r st reason w us).Queued qs := by
  unfold State.reject
  extract_lets words s1
  have h1 : s1.Queued qs := h.foldl fun _ ht _ => ht.setReg
  exact .finish (.count (.rest h1))

theorem State.Queued.admitted {k : Cmd} {d : Demand} {prog len : Nat} (h : s.Queued qs) : (s.admitted k d prog len).Queued qs := by
  unfold State.admitted
  extract_lets s1 _ s2
  have h1 : s1.Queued qs := h.count64
  have h2 : s2.Queued qs := .addCmd (.ite h1.takeTokens.space h1.chargeDemand.programCharge)
  exact h2.rest

theorem State.Queued.admission {k : Cmd} {r : Option Resolved} {d : Demand} {tail : Class → Rat} {prog len from' : Nat} {check : State →
    Option Status} {ok : State → State} (h : s.Queued qs) (hok : ∀ t, t.Queued qs → (ok t).Queued qs) :
    (s.admission k r d tail prog len from' check ok).Queued qs := by
  unfold State.admission
  split
  · exact h.reject
  · extract_lets
    refine .ite (.ite h.reject (.ite h.reject (.ite h.reject (.ite h.reject (hok _ h.admitted))))) ?_
    refine .ite h.reject (.ite h.reject ?_)
    split
    · exact h.finish
    · exact hok _ h.admitted

theorem State.Queued.sliceWrite {v : Word} (h : s.Queued qs) : (sliceWrite v s).Queued qs := by
  unfold Machine.sliceWrite
  extract_lets _ _ _ s1
  have h1 : s1.Queued qs := h.fillBuckets
  exact .ite h h1.rest.modBucket

theorem State.Queued.sliceCond {m : Master} {v : Word} (h : s.Queued qs) : AllSome (State.Queued qs) (sliceCond m v s) :=
  .ite (.some h.setReg.refuse.raise) .none

theorem State.Queued.execAdmSliceWrite {m : Master} {v : Word} (h : s.Queued qs) : Answers (State.Queued qs) (execAdmSliceWrite m v s) :=
  .next (h.write (fun _ ht => ht.sliceCond) (fun _ _ ht => ht.sliceWrite))

theorem State.Queued.admCtrlEffect {v : Word} {d : RegDef} (h : s.Queued qs) : (admCtrlEffect v d s).Queued qs := by
  unfold Machine.admCtrlEffect
  extract_lets s1
  have h1 : s1.Queued qs := h.store
  exact .ite h1.setField h1

theorem State.Queued.execLock {m : Master} {v : Word} (h : s.Queued qs) : Answers (State.Queued qs) (execLock m v s) :=
  .next (h.write (fun _ _ => .none) (fun _ _ ht => ht.admCtrlEffect))

theorem State.Queued.cvalCond {m : Master} {v : Word} (h : s.Queued qs) : AllSome (State.Queued qs) (cvalCond m v s) :=
  .ite (.some h.refuse) .none

theorem State.Queued.cvalWrite {v : Word} (h : s.Queued qs) : (cvalWrite v s).Queued qs := .ite h h.rest

theorem State.Queued.execAdmCvalWrite {m : Master} {v : Word} (h : s.Queued qs) : Answers (State.Queued qs) (execAdmCvalWrite m v s) :=
  .next (h.write (fun _ ht => ht.cvalCond) (fun _ _ ht => ht.cvalWrite))

theorem State.Queued.snapEffect {v : Word} (h : s.Queued qs) : (snapEffect v s).Queued qs :=
  .ite (h.foldl (fun _ ht _ => ht.setReg)) h

theorem State.Queued.execAdlSnap {m : Master} {v : Word} (h : s.Queued qs) : Answers (State.Queued qs) (execAdlSnap m v s) :=
  .next (h.write (fun _ _ => .none) (fun _ _ ht => ht.snapEffect))

theorem State.Queued.setBufState {b : Nat} (h : s.Queued qs) : (s.setBufState b).Queued qs := by
  unfold State.setBufState
  extract_lets _ s1
  have h1 : s1.Queued qs := h.setField.setField
  exact .ite h1 h1.raise

theorem State.Queued.execGcdebtRefresh (h : s.Queued qs) : Answers (State.Queued qs) (execGcdebtRefresh s) := by
  unfold Machine.execGcdebtRefresh
  extract_lets
  split
  · next e => exact .next (h.rest.setBuf.setReg.setReg.setField.setBufState.free.ofSnd e).setReg.setReg

/-! ### Stripes -/

theorem State.Queued.setFlash {die unit : Nat} {p : Option PageSet} (h : s.Queued qs) : (s.setFlash die unit p).Queued qs :=
  h.rest

theorem State.Queued.reconstruct {die unit : Nat} {more : List Nat} (h : s.Queued qs) : (s.reconstruct die unit more).2.Queued qs := by
  unfold State.reconstruct
  split
  · exact .snd h
  · split
    · exact .snd h
    · exact .snd (.ite h.count.raise h)

theorem State.Queued.readMembers {id : Nat} {cls : Class} {l : List (Nat × Nat × Nat)} (h : s.Queued qs) : (s.readMembers id cls l).Queued qs :=
  h.foldl (fun _ ht _ => ht.addReq)

theorem State.Queued.beginRecon {r : Req} {bad : List Nat} (h : s.Queued qs) : (s.beginRecon r bad).Queued qs := by
  unfold State.beginRecon
  extract_lets s1
  have h1 : s1.Queued qs := h.count.modReq
  split
  · exact h1
  · exact h1.readMembers

theorem State.Queued.fold {sseq : BitVec 64} {i : Nat} {m : Member} (h : s.Queued qs) : (s.fold sseq i m).Queued qs :=
  h.rest

theorem State.Queued.openStripe {way : Nat} {evid : Bool} (h : s.Queued qs) : (s.openStripe way evid).Queued qs := by
  unfold State.openStripe
  extract_lets _ _ _ s1
  have h1 : s1.Queued qs := h.clearProt
  exact h1.rest

theorem State.Queued.fillStripes (h : s.Queued qs) : s.fillStripes.Queued qs := by
  unfold State.fillStripes
  extract_lets
  refine .foldl (h.foldl (fun _ ht _ => .ite ht ht.openStripe)) (fun _ ht _ => ?_)
  refine .ite ?_ ht
  split
  · exact ht.openStripe
  · exact ht

theorem State.Queued.closing {x : Stripe} (h : s.Queued qs) : (s.closing x).2.Queued qs := by
  unfold State.closing
  split
  · next e => exact .snd (h.scanProt.ofSnd e)
  · next e => exact .snd (h.scanProt.ofSnd e).clearProt

theorem State.Queued.closeStripe {sseq : BitVec 64} (h : s.Queued qs) : (s.closeStripe sseq).Queued qs := by
  unfold State.closeStripe
  split
  · exact h
  · extract_lets
    refine .ite h.rest ?_
    split
    · next e =>
        extract_lets _ _ _ _ s1
        have h1 : s1.1.Queued qs := by
          dsimp only [s1]
          refine .foldlFst (.fst (h.rest.closing.ofSnd e)) (fun _ ht _ => ?_)
          extract_lets
          refine .iteFst ht ?_
          split
          · next e2 => exact .fst (ht.alloc.ofSnd e2)
          · next e2 => exact .fst (ht.alloc.ofSnd e2).addReq
        exact h1.rest

theorem State.Queued.settleStripe {sseq : BitVec 64} (h : s.Queued qs) : (s.settleStripe sseq).Queued qs := by
  unfold State.settleStripe
  split
  · exact h
  · exact .ite h.closeStripe.fillStripes h

theorem State.Queued.closeWhere {p : Stripe → Bool} (h : s.Queued qs) : (s.closeWhere p).Queued qs :=
  .fillStripes (h.foldl (fun _ ht _ => ht.rest.settleStripe))

theorem State.Queued.unmember {r : Req} (h : s.Queued qs) : (s.unmember r).Queued qs := by
  unfold State.unmember
  split
  · exact h
  · refine .ite h ?_
    extract_lets _ s1
    have h1 : s1.Queued qs := .ite h.fold h
    exact h1.rest.settleStripe

theorem State.Queued.takeMember {die stream : Nat} {mode : Mode} {evid : Bool} (h : s.Queued qs) :
    (s.takeMember die stream mode evid).2.Queued qs := by
  unfold State.takeMember
  split
  · exact .snd h
  · split
    · next e => exact .snd (h.alloc.ofSnd e)
    · next e =>
        have h1 := h.alloc.ofSnd e
        exact .snd h1.rest

/-! ### Ftl -/

theorem State.Queued.mapRelocs {f : Reloc → Reloc} (h : s.Queued qs) : (s.mapRelocs f).Queued qs := h.rest

theorem State.Queued.dropRelocs {p : Reloc → Bool} (h : s.Queued qs) : (s.dropRelocs p).Queued qs := h.rest

theorem State.Queued.addReloc {r : Reloc} (h : s.Queued qs) : (s.addReloc r).Queued qs := h.rest

theorem State.Queued.touch {u : Nat} (h : s.Queued qs) : (s.touch u).Queued qs := by
  unfold State.touch
  extract_lets s1
  have h1 : s1.Queued qs := h.dropRelocs
  exact h1.rest

theorem State.Queued.unfine {u : Nat} (h : s.Queued qs) : (s.unfine u).Queued qs := .ite h.returnGroup h

theorem State.Queued.promoteQuiet {u pool : Nat} (h : s.Queued qs) : AllSome (fun x => x.2.Queued qs) (s.promoteQuiet u pool) := by
  unfold State.promoteQuiet
  refine .ite (.some (.snd h)) ?_
  split
  · exact .none
  · exact .some (.snd (.setCoarse (h.drawGroup.foldl (fun _ ht _ => ht.setFine))))

theorem State.Queued.promote {nsid u pool : Nat} (h : s.Queued qs) : (s.promote nsid u pool).2.Queued qs := by
  unfold State.promote
  refine .iteSnd (.snd h) ?_
  split
  · exact .snd h
  · next e => exact .snd (h.promoteQuiet.of_eq e).commit

theorem State.Queued.mapCoarse {nsid u die unit : Nat} {e : BitVec 32} (h : s.Queued qs) : (s.mapCoarse nsid u die unit e).Queued qs :=
  h.unfine.setCoarse.commit

theorem State.Queued.mapFine {nsid lba slot : Nat} {e : BitVec 32} (h : s.Queued qs) : (s.mapFine nsid lba slot e).Queued qs :=
  h.setFine.commit

theorem State.Queued.loseIn {nsid lba nlb cause : Nat} (h : s.Queued qs) : (s.loseIn nsid lba nlb cause).Queued qs := by
  unfold State.loseIn
  extract_lets _ s1
  have h1 : s1.Queued qs := by
    dsimp only [s1]
    refine .ite h.setCoarse ?_
    split
    · next e => exact (h.promote.ofSnd e).foldl (fun _ ht _ => ht.setFine)
    · next e => exact (h.promote.ofSnd e).setCoarse
  exact h1.commit.count

theorem State.Queued.loseRun {nsid lba nlb cause : Nat} (h : s.Queued qs) : (s.loseRun nsid lba nlb cause).Queued qs :=
  h.foldl (fun _ ht _ => ht.loseIn)

theorem State.Queued.loseBlocks {l : List (Nat × Nat)} {cause : Nat} (h : s.Queued qs) : (s.loseBlocks l cause).Queued qs :=
  h.foldl (fun _ ht _ => ht.loseRun)

theorem State.Queued.deallocUnit {x : State × Bool × Bool} {nsid u a b : Nat} (h : x.1.Queued qs) :
    (State.deallocUnit x nsid u a b).1.Queued qs :=
  .iteFst (.fst (.touch (.setCoarse (.unfine (h.foldl (fun _ ht _ => ht.rest.supersede)))))) (.iteFst (.fst (.touch (.foldl (h.foldl (fun _
      ht _ => ht.rest.supersede)) (fun _ ht _ => ht.setFine)))) h)

theorem State.Queued.deallocate {nsid lba nlb : Nat} (h : s.Queued qs) : (s.deallocate nsid lba nlb).Queued qs := by
  unfold State.deallocate
  extract_lets
  refine .ite h ?_
  split
  · next e =>
      have h1 := State.Queued.fstOf e (.foldlFst (.fst h) (fun _ ht _ => ht.deallocUnit))
      exact .ite h1 h1.commit

theorem State.Queued.unmapNs {base units : Nat} (h : s.Queued qs) : (s.unmapNs base units).Queued qs :=
  h.foldl (fun _ ht _ => ht.unfine.setCoarse.touch)

theorem State.Queued.republish (h : s.Queued qs) : s.republish.Queued qs := h.rest

theorem State.Queued.closeAppend {p : AppendRec → Bool} (h : s.Queued qs) : (s.closeAppend p).Queued qs :=
  h.rest.republish

theorem State.Queued.markTold {f : Fun} {got : List (Nat × Nat × Option Block)} (h : s.Queued qs) : (s.markTold f got).Queued qs :=
  h.modLogs

theorem State.Queued.settle (h : s.Queued qs) : s.settle.Queued qs := by
  unfold State.settle
  refine .foldl h (fun _ ht _ => ?_)
  split
  · refine .ite ?_ (.ite (.finish (.ite ht.closeAppend ht)) ht)
    split
    · exact ht.markTold.finish
    · exact ht.finish
  · exact ht

theorem State.Queued.markIssued {vs : List (Nat × Nat × BitVec 64)} {b : Bool} (h : s.Queued qs) : (s.markIssued vs b).Queued qs :=
  h.rest

theorem State.Queued.programBlocks {die : Nat} {cls : Class} {owner : ReqOwner} {evid : Bool} {stream : Nat} {mode : Mode} {nsid : Nat}
    {unit0 : Option Nat} {lost : List Nat} {words : List Block} {blocks : List (Nat × Nat × BitVec 64)} {old : Word} (h : s.Queued qs) :
    (s.programBlocks die cls owner evid stream mode nsid unit0 lost words blocks old).2.Queued qs := by
  have h1 : (if s.keepsReserve die stream owner then s.takeMember die stream mode evid else (none, s)).2.Queued qs :=
    .iteSnd h.takeMember h
  unfold State.programBlocks
  split
  · next e => exact h1.ofSnd e
  · next e => exact (h1.ofSnd e).rest.addReq

theorem State.Queued.programEvid {die : Nat} {r : CmdRef} (h : s.Queued qs) : (s.programEvid die r).Queued qs := by
  unfold State.programEvid
  extract_lets x1
  clear_value x1
  split
  · exact h
  · extract_lets
    split
    · next e => exact h.programBlocks.ofSnd e
    · next e =>
        extract_lets s2
        have h2 : s2.Queued qs := (h.programBlocks.ofSnd e).markIssued.modCmd
        exact h2.rest.space

theorem State.Queued.placeEvid (h : s.Queued qs) : s.placeEvid.Queued qs := by
  unfold State.placeEvid
  split
  · exact h
  · split
    · exact h.programEvid
    · exact h

theorem State.Queued.placeFine {a : State × List JRec × List (Nat × Nat × BitVec 64)} {r : Req} {e : BitVec 32} {pool i : Nat} (h :
    a.1.Queued qs) : (State.placeFine a r e pool i).1.Queued qs := by
  unfold State.placeFine
  extract_lets
  refine .iteFst h ?_
  split
  · exact .fst h
  · next e => exact .fst (h.promoteQuiet.of_eq e).setFine.dropRelocs.supersede

theorem State.Queued.mapStaged {a : State × List JRec} {r : Req} (h : a.1.Queued qs) : (State.mapStaged a r).1.Queued qs := by
  unfold State.mapStaged
  extract_lets
  split
  · exact h
  · extract_lets
    refine .iteFst (.iteFst (.fst (h.unfine.setCoarse.dropRelocs.foldl (fun _ ht _ => ht.supersede))) (.fst h.markIssued)) ?_
    split
    · next e => exact .fst ((State.Queued.fstOf e (.foldlFst (.fst h) (fun _ ht _ => ht.placeFine)))).markIssued

theorem State.Queued.commitTogether {l : List Req} (h : s.Queued qs) : (s.commitTogether l).Queued qs := by
  unfold State.commitTogether
  split
  · next e =>
      have h1 := State.Queued.fstOf e (.foldlFst (.fst h) (fun _ ht _ => ht.mapStaged))
      exact .settle (.ite h1 h1.commit)

theorem State.Queued.commitParked (h : s.Queued qs) : s.commitParked.Queued qs := by
  unfold State.commitParked
  refine .foldl h (fun _ ht _ => ?_)
  refine .ite ht ?_
  split
  · exact ht
  · exact ht.rest.commitTogether

theorem State.Queued.commitStaged {r : Req} {p : PageSet} (h : s.Queued qs) : (s.commitStaged r p).Queued qs :=
  .ite h.rest.commitParked h.commitTogether

theorem State.Queued.unpark (h : s.Queued qs) : s.unpark.Queued qs := by
  unfold State.unpark
  extract_lets s1
  have h1 : s1.Queued qs := h.foldl (fun _ ht _ => ht.markIssued)
  exact h1.rest

theorem State.Queued.drainUnit {d : Nat} (h : s.Queued qs) : (s.drainUnit d).Queued qs := by
  unfold State.drainUnit
  split
  · refine .ite h ?_
    extract_lets u mine cls word start e
    split
    · extract_lets go
      have hgo (t : State) (ht : t.Queued qs) (unit0 : Option Nat) (lost : List Nat) (words : List Block) (bs : List Staged) :
          (go unit0 lost words bs t).Queued qs := by
        unfold go
        split
        · next e => exact ht.programBlocks.ofSnd e
        · next e => exact (ht.programBlocks.ofSnd e).markIssued
      clear_value go
      refine .ite (hgo s h ..) (.ite ?_ (.ite (.ite h h.addReq.markIssued) (hgo s h ..)))
      split
      · next e => exact hgo _ (h.promote.ofSnd e) ..
      · next e => exact hgo _ (h.promote.ofSnd e) ..
  · exact h

theorem State.Queued.execStagingDrain {die : Die} (h : s.Queued qs) : Answers (State.Queued qs) (execStagingDrain die s) := by
  unfold Machine.execStagingDrain
  extract_lets _ s1
  have h1 : s1.Queued qs := .ite h h.commitParked
  refine .ite (.next h1) (.ite ?_ (.next h1.drainUnit))
  split
  · exact .ite (.next h1.programEvid) (.next h1)
  · exact .next h1

theorem State.Queued.giveUp {p : Reloc → Bool} (h : s.Queued qs) : (s.giveUp p).Queued qs := by
  unfold State.giveUp
  extract_lets _ _ s1
  have h1 : s1.Queued qs := h.dropRelocs
  exact h1.rest

theorem State.Queued.abortReloc {die block : Nat} (h : s.Queued qs) : (s.abortReloc die block).Queued qs := by
  unfold State.abortReloc
  extract_lets s1
  have h1 : s1.Queued qs := h.giveUp
  exact h1.rest

theorem State.Queued.stepReloc {die block : Nat} (h : s.Queued qs) : (s.stepReloc die block).Queued qs :=
  .ite h (.ite h.abortReloc h.mapRelocs)

theorem State.Queued.endPass (h : s.Queued qs) : s.endPass.Queued qs := by
  unfold State.endPass
  split
  · exact h.setField.setReg.rest
  · exact h

theorem State.Queued.patrolled {gone : Nat → Bool} (h : s.Queued qs) : (s.patrolled gone).Queued qs := by
  unfold State.patrolled
  split
  · exact h.rest.setField.endPass
  · exact h

theorem State.Queued.startReloc {why : RelocWhy} {die block : Nat} {cls : Class} (h : s.Queued qs) :
    (s.startReloc why die block cls).Queued qs :=
  .ite h (.stepReloc (.foldl (.patrolled (.addReloc (.ite h.modBlk h))) (fun _ ht _ => ht.addReq)))

theorem State.Queued.programCopies {why : RelocWhy} {die block : Nat} {cls : Class} {lost : List Nat} {words : List Block} {blocks : List
    (Nat × Nat × BitVec 64)} (h : s.Queued qs) : (s.programCopies why die block cls lost words blocks).2.Queued qs := by
  unfold State.programCopies
  split
  · exact h.programBlocks
  · exact .snd h

theorem State.Queued.relocFine {a : State × List JRec} {r : Req} {t : UnitTag} {i : Nat} (h : a.1.Queued qs) :
    (State.relocFine a r t i).1.Queued qs :=
  .iteFst (.iteFst (.fst h.setFine) (.fst h.setFine)) h

theorem State.Queued.commitReloc {r : Req} {p : PageSet} (h : s.Queued qs) : (s.commitReloc r p).Queued qs := by
  unfold State.commitReloc
  extract_lets
  refine .ite (.ite h.setCoarse.commit h) ?_
  split
  · next e =>
      have h1 := State.Queued.fstOf e (.foldlFst (.fst h) (fun _ ht _ => ht.relocFine))
      exact .ite h1 h1.commit

theorem State.Queued.commitDemote {r : Req} {p : PageSet} (h : s.Queued qs) : (s.commitDemote r p).Queued qs :=
  .ite h.dropRelocs.unfine.setCoarse.commit h

theorem State.Queued.relocRead {r : Req} {why : RelocWhy} {die block : Nat} {word : Nat → Option Block} (h : s.Queued qs) :
    (s.relocRead r why die block word).Queued qs := by
  unfold State.relocRead
  extract_lets s1
  have h1 : s1.Queued qs := h.dropReq
  refine .ite ?_ ?_
  · split
    · exact h1
    · extract_lets _ s2
      have h2 : s2.Queued qs := h1.mapRelocs
      split
      · exact h2
      · refine .ite h2 (.ite h2.dropRelocs.loseBlocks ?_)
        extract_lets
        split
        · next e => exact h2.programCopies.ofSnd e
        · next e => exact (h2.programCopies.ofSnd e).dropRelocs
  · refine .ite h1.loseBlocks.stepReloc ?_
    split
    · next e =>
        have h3 := State.Queued.sndOf e (.iteSnd h1.programCopies h1.loseBlocks.programCopies)
        exact .ite h3 (.ite h3.addReq h3.abortReloc)

theorem State.Queued.unhouse {kind die block : Nat} (h : s.Queued qs) : (s.unhouse kind die block).Queued qs := h.rest

theorem State.Queued.house {h : House} (hs : s.Queued qs) : (s.house h).Queued qs := hs.rest

theorem State.Queued.houseAdmit {kind die block : Nat} {cls : Class} {d : Demand} {bytes : Nat} {go : State → State} (h : s.Queued qs) (hgo :
    ∀ t, t.Queued qs → (go t).Queued qs) : (s.houseAdmit kind die block cls d bytes go).Queued qs := by
  unfold State.houseAdmit
  extract_lets _ _ s1
  have h1 : s1.Queued qs := h.unhouse.uncharge.chargeDemand.programCharge
  refine .ite h (.ite ?_ (.ite h.unhouse.house (hgo _ h.unhouse.uncharge.chargeDemand.programCharge)))
  split
  · exact .ite h (hgo _ h.unhouse)
  · exact .ite h1.house (hgo _ h1)

theorem State.Queued.houseReloc {kind die block : Nat} {cls : Class} {why : RelocWhy} (h : s.Queued qs) :
    (s.houseReloc kind die block cls why).Queued qs :=
  h.houseAdmit (fun _ ht => ht.startReloc)

theorem State.Queued.collect {die block : Nat} (h : s.Queued qs) : (s.collect die block).Queued qs :=
  .ite h.houseReloc h

theorem State.Queued.execGarbageCollection {die : Die} {block : Nat} (h : s.Queued qs) :
    Answers (State.Queued qs) (execGarbageCollection die block s) :=
  .next h.collect

theorem State.Queued.foldBlock {die block : Nat} (h : s.Queued qs) : (s.foldBlock die block).Queued qs :=
  .ite h h.houseReloc

theorem State.Queued.execFolding {die : Die} {block : Nat} (h : s.Queued qs) : Answers (State.Queued qs) (execFolding die block s) :=
  .next h.foldBlock

theorem State.Queued.gather {u n l : Nat} {cls : Class} {reads : List (Nat × Nat)} (h : s.Queued qs) : (s.gather u n l cls reads).Queued qs := by
  unfold State.gather
  extract_lets _ s1
  have h1 : s1.Queued qs := h.addReloc
  refine .ite ?_ (h1.foldl (fun _ ht _ => ht.addReq))
  split
  · next e => exact h1.programCopies.ofSnd e
  · next e => exact (h1.programCopies.ofSnd e).dropRelocs

theorem State.Queued.demoteUnit {u : Nat} (h : s.Queued qs) : (s.demoteUnit u).Queued qs := by
  unfold State.demoteUnit
  split
  · exact h
  · exact .ite (h.houseAdmit (fun _ ht => ht.gather)) h

theorem State.Queued.execDemotion {unit : Nat} (h : s.Queued qs) : Answers (State.Queued qs) (execDemotion unit s) :=
  .next h.demoteUnit

theorem State.Queued.execBlockErase {die : Die} {block : Nat} (h : s.Queued qs) : Answers (State.Queued qs) (execBlockErase die block s) := by
  unfold Machine.execBlockErase
  extract_lets s1
  have h1 : s1.Queued qs := h.stepReloc
  exact .ite (.next h1.mapRelocs.modBlk.addReq) (.next h1)

theorem State.Queued.placeCopies (h : s.Queued qs) : s.placeCopies.Queued qs := by
  unfold State.placeCopies
  refine .foldl h (fun _ ht _ => ?_)
  extract_lets s1
  have h1 : s1.Queued qs := .ite ht ht.programCopy
  exact .ite h1 h1.programCopy

theorem State.Queued.execJournalPageTimer (h : s.Queued qs) : Answers (State.Queued qs) (execJournalPageTimer s) :=
  .ite (.next h.placeCopies) (.next h.placeCopies.seal)

theorem State.Queued.freeRegion (h : s.Queued qs) : s.freeRegion.Queued qs := h.foldl (fun _ ht _ => ht.startReloc)

theorem State.Queued.completeCkpt {p : JPage} (h : s.Queued qs) : (s.completeCkpt p).Queued qs := by
  unfold State.completeCkpt
  split
  · exact h
  · exact .ite h.rest h

theorem State.Queued.reusePages (h : s.Queued qs) : s.reusePages.Queued qs := by
  unfold State.reusePages
  split
  · exact h.rest
  · exact h

theorem State.Queued.eraseRecord {r : Reloc} (h : s.Queued qs) : (s.eraseRecord r).Queued qs :=
  .ite h.dropRelocs h.modBlk.commit.mapRelocs

theorem State.Queued.execJournalPageDurable (h : s.Queued qs) : Answers (State.Queued qs) (execJournalPageDurable s) := by
  unfold Machine.execJournalPageDurable
  split
  · exact .next h
  · exact .ite (.next h) (.next (h.rest.completeCkpt.reusePages.freeRegion.foldl (fun _ ht _ => ht.eraseRecord)))

theorem State.Queued.ckptProgram {slot : Nat} {c : Ckpt} {k : Nat} (h : s.Queued qs) : (s.ckptProgram slot c k).2.Queued qs := by
  unfold State.ckptProgram
  split
  · exact .snd h
  · split
    · exact .snd h
    · next e =>
        have h1 := h.takeMember.ofSnd e
        exact .snd h1.rest.addReq

theorem State.Queued.ckptPump (h : s.Queued qs) : s.ckptPump.Queued qs := by
  unfold State.ckptPump
  split
  · exact h
  · extract_lets
    refine .ite h (.ite h.uncharge.commit (.foldl h (fun _ ht _ => ?_)))
    split
    · next e =>
        have h1 := ht.ckptProgram.ofSnd e
        exact h1.rest
    · next e => exact ht.ckptProgram.ofSnd e

theorem State.Queued.ckptDone {slot die unit : Nat} (h : s.Queued qs) : (s.ckptDone slot die unit).Queued qs :=
  h.rest.ckptPump

theorem State.Queued.ckptAgain {slot k : Nat} (h : s.Queued qs) : (s.ckptAgain slot k).Queued qs := h.rest

theorem State.Queued.beginCkpt (h : s.Queued qs) : s.beginCkpt.Queued qs := by
  unfold State.beginCkpt
  extract_lets s1
  have h1 : s1.Queued qs := .ite h h.seal
  exact h1.rest.ckptPump

theorem State.Queued.ckptStep {cls : Class} (h : s.Queued qs) : (s.ckptStep cls).Queued qs :=
  h.houseAdmit (fun _ ht => ht.beginCkpt)

theorem State.Queued.execCheckpointBegin (h : s.Queued qs) : Answers (State.Queued qs) (execCheckpointBegin s) :=
  .ite (.next h.ckptPump) (.ite (.next h.ckptStep) (.ite (.next h) (.next h.ckptStep)))

/-! ### Care -/

theorem State.Queued.smartEvent {warn info : Nat} (h : s.Queued qs) : (s.smartEvent warn info).Queued qs :=
  h.foldl (fun _ ht _ => .ite ht.asyncEvent ht)

theorem State.Queued.updateLife (h : s.Queued qs) : s.updateLife.Queued qs := by
  unfold State.updateLife
  extract_lets _ _ _ _ s1 s2 s3
  have h1 : s1.Queued qs := h.setReg.setReg
  have h2 : s2.Queued qs := h1.showEvSpare
  have h3 : s3.Queued qs := .ite h2.setField.raise.smartEvent h2
  exact .ite h3.setField.raise.smartEvent h3

theorem State.Queued.moveRetired {die block : Nat} (h : s.Queued qs) : (s.moveRetired die block).Queued qs :=
  .ite h.unhouse h.houseReloc

theorem State.Queued.retireBlock {die block : Nat} (h : s.Queued qs) : (s.retireBlock die block).Queued qs :=
  .ite h h.modBlk.rest.count.raise.updateLife.moveRetired

theorem State.Queued.countRefresh (h : s.Queued qs) : s.countRefresh.Queued qs :=
  .ite h.setReg (.ite h.setReg h.setReg.raise)

theorem State.Queued.refreshBlock {die block : Nat} {cls : Class} (h : s.Queued qs) : (s.refreshBlock die block cls).Queued qs := by
  unfold State.refreshBlock
  extract_lets
  split
  · exact h.unhouse.foldl (fun _ ht _ => ht.addReq)
  · exact .ite h.unhouse h.houseReloc

theorem State.Queued.refresh {die block : Nat} {cls : Class} (h : s.Queued qs) : (s.refresh die block cls).Queued qs :=
  .ite h h.modBlk.countRefresh.refreshBlock

theorem State.Queued.execHousekeepingRetry (h : s.Queued qs) : Answers (State.Queued qs) (execHousekeepingRetry s) := by
  unfold Machine.execHousekeepingRetry
  split
  · exact .next h
  · extract_lets s1
    have h1 : s1.Queued qs := .ite h h.unhouse
    refine .next ?_
    split
    · exact h1.collect
    · exact h1.foldBlock
    · exact h1.demoteUnit
    · exact h1.refreshBlock
    · exact h1.moveRetired
    · exact h1.ckptStep

theorem State.Queued.execPatrolPassStart (h : s.Queued qs) : Answers (State.Queued qs) (execPatrolPassStart s) :=
  .ite (.next h) (.next h.rest.setField.endPass)

theorem State.Queued.execPatrolLate (h : s.Queued qs) : Answers (State.Queued qs) (execPatrolLate s) := by
  unfold Machine.execPatrolLate
  split
  · exact .ite (.next h) (.next h.setField.raise)
  · exact .next h

theorem State.Queued.countDecode {die : Nat} {r : ReadResult} (h : s.Queued qs) : (s.countDecode die r).Queued qs := by
  unfold State.countDecode
  extract_lets
  split
  · exact h.count64.count64
  · exact h.count64.count64.count.count
  · exact h.count
  · exact h
  · exact h.count64.count.count.raise

theorem State.Queued.careOf {die unit : Nat} {r : ReadResult} {patrol : Bool} (h : s.Queued qs) : (s.careOf die unit r patrol).Queued qs := by
  unfold State.careOf
  extract_lets
  split
  · exact .ite h.refresh h
  · exact .ite h.modBlk.refresh h.modBlk
  · exact h
  · exact h.refresh

theorem State.Queued.execPatrolRead {ch : Chan} {way : Fin 8} {block page : Nat} (h : s.Queued qs) :
    Answers (State.Queued qs) (execPatrolRead ch way block page s) := by
  unfold Machine.execPatrolRead
  extract_lets
  split
  · exact .ite (.next h) (.ite (.next h.patrolled) (.ite (.next h) (.next h.addReq)))
  · exact .next h

theorem State.Queued.patrolEnd {r : Req} {bad : List Nat} (h : s.Queued qs) : (s.patrolEnd r bad).Queued qs :=
  h.dropReq.loseBlocks.patrolled

theorem State.Queued.mcCtrlCond {m : Master} {v : Word} (h : s.Queued qs) : AllSome (State.Queued qs) (mcCtrlCond m v s) :=
  .ite (.some h.refuse) .none

theorem State.Queued.mcRefreshWrite {v : Word} (h : s.Queued qs) : (mcRefreshWrite v s).Queued qs := .ite h.setReg h

/-! ### Red -/

theorem State.Queued.deferFault {f : Fun} {nsid slba nlb cause : Nat} (h : s.Queued qs) : (s.deferFault f nsid slba nlb cause).Queued qs :=
  .ite h.modLogs h.modLogs.rest.asyncEvent

theorem State.Queued.syncRed (h : s.Queued qs) : s.syncRed.Queued qs :=
  h.setField.setField.setField.setField.setField.setReg.cause

theorem State.Queued.programSifj {c : Sifj} {copyB : Bool} {die k : Nat} {page : List Byte} (h : s.Queued qs) :
    (s.programSifj c copyB die k page).Queued qs := by
  unfold State.programSifj
  split
  · next e => exact h.alloc.ofSnd e
  · next e => exact (h.alloc.ofSnd e).addReq

theorem State.Queued.writeSifj (h : s.Queued qs) : s.writeSifj.Queued qs := by
  unfold State.writeSifj
  split
  · exact h
  · exact h.rest.foldl (fun _ ht _ => ht.foldl (fun _ ht2 _ => ht2.programSifj))

theorem State.Queued.sifjDone {r : Req} {seq : BitVec 64} {copyB : Bool} (h : s.Queued qs) : (s.sifjDone r seq copyB).Queued qs := by
  unfold State.sifjDone
  split
  · exact h
  · refine .ite h ?_
    extract_lets _ _ _ _ _ _ _ s1
    have h1 : s1.Queued qs := .ite h.rest (.ite h.rest.rest.rest h.rest.rest.rest)
    exact .ite h1.rest.setReg.count h1

theorem State.Queued.sifjAgain {seq : BitVec 64} (h : s.Queued qs) : (s.sifjAgain seq).Queued qs := .ite h.writeSifj h

theorem State.Queued.execSifjWrite (h : s.Queued qs) : Answers (State.Queued qs) (execSifjWrite s) :=
  .ite (.next h.writeSifj) (.next h)

theorem State.Queued.rebuildRead {die unit : Nat} {o : ReqOwner} {blocks : List (Nat × Nat × BitVec 64)} (h : s.Queued qs) :
    (s.rebuildRead die unit o blocks).Queued qs :=
  h.addReq.beginRecon

theorem State.Queued.failAppends {bs : List (Nat × Nat)} (h : s.Queued qs) : (s.failAppends bs).Queued qs := by
  unfold State.failAppends
  refine .foldl h (fun _ ht _ => ?_)
  split
  · exact ht
  · extract_lets s1
    have h1 : s1.Queued qs := ht.unstage.loseRun.closeAppend
    exact .ite h1.finish h1

theorem State.Queued.tripleLoss {sseq : BitVec 64} {die unit : Nat} {isOpen evid : Bool} (h : s.Queued qs) :
    (s.tripleLoss sseq die unit isOpen evid).Queued qs := by
  unfold State.tripleLoss
  extract_lets _ _ _ _ s1
  have h1 : s1.Queued qs := h.rest.loseBlocks.failAppends
  exact .raise (.ite (h1.foldl (fun _ ht _ => ht.deferFault)) h1)

theorem State.Queued.moveStripe {sseq : BitVec 64} (h : s.Queued qs) : (s.moveStripe sseq).Queued qs := by
  unfold State.moveStripe
  split
  · exact h
  · exact h.foldl (fun _ ht _ => .ite ht ht.addReq)

theorem State.Queued.placeMember {k : Nat} {p : PageSet} {h : StripeHdr} (hs : s.Queued qs) : (s.placeMember k p h).Queued qs := by
  unfold State.placeMember
  extract_lets
  split
  · exact hs.addReq
  · split
    · extract_lets s1
      have h1 : s1.Queued qs := hs.modBlk.note
      exact .addReq (.ite h1.rest.writeSifj h1.rest)
    · exact hs
  · exact .ite hs.rebuildRead hs.moveStripe

theorem State.Queued.rebuildEnd {r : Req} {k : Nat} (h : s.Queued qs) : (s.rebuildEnd r k).Queued qs := by
  unfold State.rebuildEnd
  extract_lets s1
  have h1 : s1.Queued qs := h.dropReq
  refine .ite h1 ?_
  split
  · exact h1
  · split
    · next e => exact (h1.reconstruct.ofSnd e).placeMember
    · next e => exact (h1.reconstruct.ofSnd e).tripleLoss.moveStripe

theorem State.Queued.rebuildNext (h : s.Queued qs) : s.rebuildNext.Queued qs := by
  unfold State.rebuildNext
  split
  · exact h
  · extract_lets
    refine .ite h.rest (.ite h.rest.addReq ?_)
    split
    · exact h.rest
    · exact h.rest.rest.addReq.readMembers

theorem State.Queued.pumpRebuild (h : s.Queued qs) : s.pumpRebuild.Queued qs :=
  .ite h (h.foldl (fun _ ht _ => .ite ht ht.rebuildNext))

theorem State.Queued.dropSpare {k : Nat} (h : s.Queued qs) : (s.dropSpare k).Queued qs := h.rest.rest

theorem State.Queued.replan {r : Req} (h : s.Queued qs) : (s.replan r).Queued qs := by
  unfold State.replan
  extract_lets s2
  have h2 : s2.Queued qs := h.unmember.dropReq
  clear_value s2
  cases r.owner with
  | drain => exact h2.markIssued
  | evid => exact h2.markIssued.placeEvid
  | reloc => exact .ite h2.dropRelocs (.stepReloc (h2.foldl (fun _ ht _ => ht.addReq)))
  | journal q copyB =>
    dsimp only
    split
    · exact h2.rest.programCopy
    · exact h2.rest
  | ckpt => exact h2.ckptAgain.ckptPump
  | sifj => exact h2.sifjAgain
  | rebuild => exact h2.dropSpare
  | parity =>
    dsimp only
    split
    · split
      · next e => exact (h2.alloc.ofSnd e).addReq
      · next e => exact h2.alloc.ofSnd e
    · exact h2
  | zero => exact h2.rest.unstage
  | cmd | exec | merge | patrol | late | recon => exact h2

theorem State.Queued.retireDie {die : Nat} (h : s.Queued qs) : (s.retireDie die).Queued qs := h.rest

theorem State.Queued.emptyTriples (h : s.Queued qs) : s.emptyTriples.Queued qs := .ite h h.rest.syncRed

theorem State.Queued.failDie {die : Nat} (h : s.Queued qs) : (s.failDie die).Queued qs := by
  unfold State.failDie
  refine .ite h ?_
  extract_lets _ _ _ _ _ _ _ _ s1 _ s2 _ _ s3 _ _ _ s4 s5
  have h1 : s1.Queued qs := h.rest.rest.setReg.raise
  clear_value s1
  have h2 : s2.Queued qs := h1.setField.retireDie
  clear_value s2
  have h3 : s3.Queued qs := h2.modDie.foldl (fun _ ht _ => .ite ht.replan ht.dropReq)
  clear_value s3
  have h4 : s4.Queued qs := h3.rest.foldl (fun _ ht _ => .ite ht.rebuildRead ht.tripleLoss)
  clear_value s4
  have h5 : s5.Queued qs := h4.closeWhere
  clear_value s5
  exact .pumpRebuild (.syncRed (.ite h5.rest.rest.raise h5.rest.rest))

theorem State.Queued.execMemberFailed {die : Die} (h : s.Queued qs) : Answers (State.Queued qs) (execMemberFailed die s) :=
  .ite (.next h.failDie.settle) (.next h)

theorem State.Queued.redFailCond {m : Master} {v : Word} (h : s.Queued qs) : AllSome (State.Queued qs) (redFailCond m v s) :=
  .ite .none (.ite (.some h.refuse) (.ite (.some h.refuse) .none))

theorem State.Queued.redFailEffect {v : Word} (h : s.Queued qs) : (redFailEffect v s).Queued qs :=
  .ite h.failDie.settle h

theorem State.Queued.execRedFailDeclare {m : Master} {v : Word} (h : s.Queued qs) : Answers (State.Queued qs) (execRedFailDeclare m v s) :=
  .next (h.write (fun _ ht => ht.redFailCond) (fun _ _ ht => ht.redFailEffect))

theorem State.Queued.execRebuildFloor (h : s.Queued qs) : Answers (State.Queued qs) (execRebuildFloor s) :=
  .ite (.next h) (.next h.rest.syncRed.raise.pumpRebuild)

theorem State.Queued.execRebuildDone (h : s.Queued qs) : Answers (State.Queued qs) (execRebuildDone s) := by
  unfold Machine.execRebuildDone
  refine .ite (.next h) ?_
  extract_lets _ s1 s2
  have h1 : s1.Queued qs := h.rest.writeSifj
  have h2 : s2.Queued qs := .ite h1 h1.ckptStep
  exact .next h2.rest.syncRed.emptyTriples.raise

theorem State.Queued.redCtrlEffect {v : Word} {d : RegDef} (h : s.Queued qs) : (redCtrlEffect v d s).Queued qs := by
  unfold Machine.redCtrlEffect
  extract_lets s1 s2
  have h1 : s1.Queued qs := h.store
  have h2 : s2.Queued qs := .ite h1.setField h1
  exact .ite (.ite h2 h2.rest.writeSifj.syncRed) (.ite h2.rest.syncRed.pumpRebuild h2)

theorem State.Queued.execRbPause {m : Master} {v : Word} (h : s.Queued qs) : Answers (State.Queued qs) (execRbPause m v s) :=
  .next (h.write (fun _ _ => .none) (fun _ _ ht => ht.redCtrlEffect))

/-! ### Media -/

theorem State.Queued.modChan {ch : Nat} {f : Channel → Channel} (h : s.Queued qs) : (s.modChan ch f).Queued qs :=
  h.rest

theorem State.Queued.modSeq {ch : Nat} {f : Sequencer → Sequencer} (h : s.Queued qs) : (s.modSeq ch f).Queued qs :=
  h.modChan

theorem State.Queued.reloadSeq {ch : Nat} (h : s.Queued qs) : (s.reloadSeq ch).Queued qs := h.setField.modChan

theorem State.Queued.execQuietRotation (h : s.Queued qs) : Answers (State.Queued qs) (execQuietRotation s) := by
  unfold Machine.execQuietRotation
  extract_lets
  split
  · exact .ite (.next h) (.next h.rest.closeWhere)
  · exact .ite (.next h) (.next h.rest)
  · exact .next h

theorem State.Queued.execQuietJoin (h : s.Queued qs) : Answers (State.Queued qs) (execQuietJoin s) := by
  unfold Machine.execQuietJoin
  split
  · exact .next h
  · exact .ite (.next h) (.next h.rest.closeWhere.placeEvid)

theorem State.Queued.hand {ch : Nat} {d : Desc} (h : s.Queued qs) : (s.hand ch d).Queued qs := h.modSeq

theorem State.Queued.senseWith {r : Req} {p : PageSet} (h : s.Queued qs) : (s.senseWith r p).Queued qs :=
  h.modReq.deliver

theorem State.Queued.senseNone {r : Req} (h : s.Queued qs) : (s.senseNone r).Queued qs := h.modReq

theorem State.Queued.concludeRead {r : Req} {p : Option PageSet} (h : s.Queued qs) : (s.concludeRead r p).Queued qs := by
  unfold State.concludeRead
  split
  · exact h.patrolEnd
  · split
    · exact h.modReq.senseWith
    · split
      · exact .ite h.senseWith h.senseNone
      · exact h.senseNone

theorem State.Queued.finishRecon {id : Nat} (h : s.Queued qs) : (s.finishRecon id).Queued qs := by
  unfold State.finishRecon
  split
  · exact h
  · refine .ite h ?_
    split
    · exact h.rebuildEnd.pumpRebuild
    · exact h.reconstruct.concludeRead

theorem State.Queued.reconPart {r : Req} {id : Nat} {ok : Bool} (h : s.Queued qs) : (s.reconPart r id ok).Queued qs := by
  unfold State.reconPart
  extract_lets s1
  have h1 : s1.Queued qs := h.dropReq
  split
  · exact h1
  · refine .ite h1.finishRecon ?_
    split
    · exact h1.finishRecon
    · exact h1.modReq.readMembers.finishRecon

theorem State.Queued.readBack {r : Req} {k : Nat} {ok : Bool} (h : s.Queued qs) : (s.readBack r k ok).Queued qs := by
  unfold State.readBack
  extract_lets s1
  have h1 : s1.Queued qs := h.dropReq
  exact .pumpRebuild (.ite h1.count.syncRed h1.dropSpare.retireBlock)

theorem State.Queued.readDone' {r : Req} {p : Option PageSet} {bad : List Nat} (h : s.Queued qs) : (s.readDone' r p bad).Queued qs := by
  unfold State.readDone'
  split
  · exact h.reconPart
  · exact h.readBack
  · exact h.concludeRead
  · exact h.beginRecon.finishRecon

theorem State.Queued.execMediaSchedule {die : Die} (h : s.Queued qs) : Answers (State.Queued qs) (execMediaSchedule die s) := by
  unfold Machine.execMediaSchedule
  extract_lets _ _ s1
  have h1 : s1.Queued qs := .ite h.reloadSeq h
  refine .ite (.next h1) ?_
  split
  · exact .next h1.finishRecon
  · refine .ite ?_ ?_
    · split
      · exact .next h1
      · exact .ite (.next h1.readDone') (.next h1.modReq)
    · refine .ite (.next h1) (.ite ?_ ?_)
      · split
        · exact .ite (.next h1.hand) (.next h1)
        · exact .next h1
      · refine .ite ?_ ?_
        · split
          · exact .next h1.modReq.hand
          · exact .next h1.hand
        · split
          · exact .next h1.modReq.hand
          · exact .next h1

theorem State.Queued.takeBuf {ch id : Nat} (h : s.Queued qs) : AllSome (State.Queued qs) (s.takeBuf ch id) := by
  unfold State.takeBuf
  extract_lets
  refine .ite (.some h) ?_
  split
  · exact .some h.clearProt.modChan
  · exact .none

theorem State.Queued.waitBuf {ch id : Nat} (h : s.Queued qs) : (s.waitBuf ch id).Queued qs := h.modChan

theorem State.Queued.execPageBufferFree {ch : Chan} {buf : Fin 2} (h : s.Queued qs) : Answers (State.Queued qs) (execPageBufferFree ch buf s) := by
  unfold Machine.execPageBufferFree
  extract_lets
  split
  · exact .next h
  · exact .ite (.next h) (.next h.clearProt.modChan)

theorem State.Queued.bufferBad {r : Req} (h : s.Queued qs) : (s.bufferBad r).2.Queued qs := by
  unfold State.bufferBad
  split
  · exact .snd h
  · exact .snd h.scanProt

theorem State.Queued.readEnd {r : Req} {res : ReadResult} (h : s.Queued qs) : (s.readEnd r res).Queued qs := by
  unfold State.readEnd
  extract_lets res1 patrol
  clear_value res1
  split
  · next t e =>
      have h1 : t.Queued qs := by
        refine State.Queued.sndOf e ?_
        split
        · exact .snd h
        · exact h.bufferBad
      extract_lets res2 s2
      have h2 : s2.Queued qs := h1.countDecode.careOf
      clear_value res2
      split
      · exact h2.readDone'
      · exact h2.readDone'
      · exact h2.readDone'
      · exact h2.readDone'

theorem State.Queued.programEnd {r : Req} (h : s.Queued qs) : (s.programEnd r).Queued qs := by
  unfold State.programEnd
  split
  · exact h.dropReq
  · extract_lets s1 s2 _ s3
    have h1 : s1.Queued qs := h.setFlash.dropReq
    have h2 : s2.Queued qs := by
      dsimp only [s2]
      split
      · exact h1.settleStripe
      · exact h1
    clear_value s2
    cases r.owner with
    | drain => exact h2.commitStaged
    | evid => exact h2.commitStaged
    | reloc => exact .ite h2.commitDemote h2.commitReloc.stepReloc
    | journal => exact h2.rest
    | rebuild => exact h2.addReq
    | ckpt => exact h2.ckptDone
    | sifj => exact h2.sifjDone
    | zero =>
      dsimp only [s3]
      split
      · exact h2.commitStaged.closeAppend
      · exact h2
    | cmd | exec | merge | parity | patrol | late | recon => exact h2

theorem State.Queued.programFail {r : Req} (h : s.Queued qs) : (s.programFail r).Queued qs :=
  h.count.raise.replan.retireBlock

theorem State.Queued.giveBack {b : Blk} (h : s.Queued qs) : (s.giveBack b).Queued qs := by
  unfold State.giveBack
  extract_lets s1
  have h1 : s1.Queued qs := .ite h.setBuf h
  exact .ite h1.rest.showEvSpare h1

theorem State.Queued.eraseEnd {r : Req} (h : s.Queued qs) : (s.eraseEnd r).Queued qs := by
  unfold State.eraseEnd
  extract_lets _ _ s1 s2 _ s3
  have h1 : s1.Queued qs := h.dropReq.dropRelocs
  have h2 : s2.Queued qs := h1.foldl (fun _ ht _ => ht.setFlash)
  have h3 : s3.Queued qs := h2.modBlk.giveBack
  exact .placeCopies (.ite h3.retireBlock h3.updateLife)

theorem State.Queued.eraseFail {r : Req} (h : s.Queued qs) : (s.eraseFail r).Queued qs :=
  h.dropReq.dropRelocs.count.raise.retireBlock

theorem State.Queued.programDone {r : Req} (h : s.Queued qs) : (s.programDone r).Queued qs := by
  unfold State.programDone
  refine .ite h.programEnd ?_
  extract_lets s1
  have h1 : s1.Queued qs := h.setFlash.dropReq
  exact h1.rest

theorem State.Queued.opEnd {r : Req} {res : DieResult} (h : s.Queued qs) : (s.opEnd r res).Queued qs := by
  unfold State.opEnd
  refine .emptyTriples ?_
  split
  · exact h.readEnd
  · exact h.readEnd
  · exact h.programDone
  · exact h.programFail
  · exact h.eraseEnd
  · exact h.eraseFail
  · exact h

theorem State.Queued.idleDie {die : Nat} (h : s.Queued qs) : (s.idleDie die).Queued qs := h.modDie

theorem State.Queued.endOp {die : Nat} {res : DieResult} (h : s.Queued qs) : (s.endOp die res).Queued qs := by
  unfold State.endOp
  split
  · exact h.idleDie
  · exact h.idleDie.opEnd

theorem State.Queued.timeLimit {die : Nat} (h : s.Queued qs) : (s.timeLimit die).Queued qs := h.rest.count.raise.hand

theorem State.Queued.launch {ch : Nat} {r : Req} (h : s.Queued qs) : (s.launch ch r).Queued qs := by
  unfold State.launch
  extract_lets _ _ _ _ s1 _ s2 s3 s4
  have h1 : s1.Queued qs := .ite h.disarm h
  have h2 : s2.Queued qs := h1.modDie.modReq.modSeq
  have h3 : s3.Queued qs := by
    dsimp only [s3]
    split
    · exact h2.worked.worked
    · exact h2
  have h4 : s4.Queued qs := by
    dsimp only [s4]
    split
    · split
      · exact .ite h3 h3.fold
      · exact h3
    · exact h3
  exact .ite h4.disarm.timeLimit h4

theorem State.Queued.start' {ch op : Nat} (h : s.Queued qs) : (s.start' ch op).Queued qs := by
  unfold State.start'
  split
  · exact h
  · refine .ite h.launch ?_
    split
    · next e => exact (h.takeBuf.of_eq e).launch
    · exact h.waitBuf

theorem State.Queued.execMediaRead {ch : Chan} (h : s.Queued qs) : Answers (State.Queued qs) (execMediaRead ch s) :=
  .next h.start'

theorem State.Queued.execMediaProgram {ch : Chan} (h : s.Queued qs) : Answers (State.Queued qs) (execMediaProgram ch s) :=
  .next h.start'

theorem State.Queued.execMediaErase {ch : Chan} (h : s.Queued qs) : Answers (State.Queued qs) (execMediaErase ch s) :=
  .next h.start'

theorem State.Queued.execLunReset {ch : Chan} (h : s.Queued qs) : Answers (State.Queued qs) (execLunReset ch s) := by
  unfold Machine.execLunReset
  split
  · exact .next h
  · exact .next h.modSeq.modDie.count.emit

theorem State.Queued.execSetFeature {ch : Chan} {way fa : Nat} {p : Word} (h : s.Queued qs) :
    Answers (State.Queued qs) (execSetFeature ch way fa p s) :=
  .ite (.next h) (.next h.emit)

theorem State.Queued.execSuspend {ch : Chan} (h : s.Queued qs) : Answers (State.Queued qs) (execSuspend ch s) := by
  unfold Machine.execSuspend
  split
  · exact .next h
  · exact .ite (.next h.modSeq) (.next h.modSeq.modDie.count.count)

theorem State.Queued.execResume {ch : Chan} (h : s.Queued qs) : Answers (State.Queued qs) (execResume ch s) := by
  unfold Machine.execResume
  split
  · exact .next h
  · extract_lets
    split
    · exact .next h.modSeq
    · exact .next h.modSeq.modDie

theorem State.Queued.execDieReady {die : Die} {r : DieResult} (h : s.Queued qs) : Answers (State.Queued qs) (execDieReady die r s) := by
  unfold Machine.execDieReady
  extract_lets
  refine .ite (.next h) (.ite ?_ (.ite (.next h.rest) (.next h.endOp)))
  split
  · exact .next h.modDie.endOp
  · exact .next h.idleDie
  · exact .next h

theorem State.Queued.execScaledReadyRelease {die : Nat} (h : s.Queued qs) : Answers (State.Queued qs) (execScaledReadyRelease die s) := by
  unfold Machine.execScaledReadyRelease
  split
  · exact .next h
  · exact .ite (.next h) (.next h.rest.endOp)

theorem State.Queued.execOperationTimeLimit {die : Die} (h : s.Queued qs) : Answers (State.Queued qs) (execOperationTimeLimit die s) :=
  .ite (.next h) (.next h.timeLimit)

theorem State.Queued.execLunResetTimeout {die : Die} (h : s.Queued qs) : Answers (State.Queued qs) (execLunResetTimeout die s) := by
  unfold Machine.execLunResetTimeout
  split
  · exact .next h
  · exact .ite (.next h) (.next h.failDie.settle)

theorem State.Queued.msqCtrlCond {m : Master} {v : Word} (h : s.Queued qs) : AllSome (State.Queued qs) (msqCtrlCond m v s) :=
  .ite (.some h.refuse) .none

/-! ### Microcode -/

theorem State.Queued.seqFault {ch code : Nat} (h : s.Queued qs) : (s.seqFault ch code).Queued qs := by
  unfold State.seqFault
  extract_lets _ _ _ _ s1
  have h1 : s1.Queued qs := h.setField.setReg.raise.count.blockError.modChan
  refine .foldl h1.rest (fun _ ht _ => ?_)
  extract_lets _ _ s2
  have h2 : s2.Queued qs := by
    dsimp only [s2]
    split
    · exact ht.modReq
    · exact ht
  split
  · exact ht.endOp
  · exact ht.endOp
  · exact h2.modDie
  · exact ht

theorem State.Queued.suspendDie {die : Nat} (h : s.Queued qs) : (s.suspendDie die).Queued qs :=
  .ite h h.modDie.count.count

theorem State.Queued.seqPost {ch result : Nat} (h : s.Queued qs) : (s.seqPost ch result).Queued qs := by
  unfold State.seqPost
  extract_lets
  split
  · exact h
  · exact .ite h.suspendDie (.ite (.ite h h.timeLimit) (.ite h h.endOp))

theorem State.Queued.longOp {ch : Nat} {w : Word} {ready : Bool} {st : Byte} (h : s.Queued qs) : (s.longOp ch w ready st).Queued qs := by
  unfold State.longOp
  extract_lets
  split
  · exact h.modSeq
  · exact h.modSeq
  · exact h.modSeq
  · exact h.modSeq
  · exact h.modSeq
  · exact h.modSeq
  · exact h.modSeq
  · exact h.modSeq
  · exact h.modSeq
  · exact h.modSeq
  · exact h.modSeq.emit
  · exact .ite h.modSeq.emit h.modSeq
  · exact h.modSeq.seqPost

theorem State.Queued.busSide {ch op a : Nat} {st : Byte} (h : s.Queued qs) : (s.busSide ch op a st).Queued qs := by
  unfold State.busSide
  extract_lets
  split
  · exact h.emit
  · exact h.emit
  · exact h.modSeq
  · exact h.modSeq
  · exact h.modSeq
  · exact h.modSeq.emit
  · exact h.modSeq
  · exact h

theorem State.Queued.sendWords {ch slot n : Nat} (h : s.Queued qs) : (s.sendWords ch slot n).Queued qs := by
  unfold State.sendWords
  split
  · exact h
  · split
    · exact h
    · split
      · exact h
      · exact h.foldl (fun _ ht _ => ht.emit)

theorem State.Queued.decodeSlots {ch slot n : Nat} {res : List Nat} {soft : Bool} (h : s.Queued qs) :
    (s.decodeSlots ch slot n res soft).Queued qs :=
  h.modSeq

theorem State.Queued.bufSide {ch op a : Nat} {res : List Nat} (h : s.Queued qs) : (s.bufSide ch op a res).Queued qs := by
  unfold State.bufSide
  extract_lets
  split
  · exact h.modSeq
  · exact h.decodeSlots
  · exact h.modSeq
  · exact h.decodeSlots
  · exact h.sendWords
  · exact h

theorem State.Queued.shortPair {ch : Nat} {w : Word} {dq : List Byte} (h : s.Queued qs) : (s.shortPair ch w dq).Queued qs :=
  h.busSide.bufSide.modSeq

theorem State.Queued.microStep {ch : Nat} {ready : Bool} {st : Byte} {dq : List Byte} (h : s.Queued qs) :
    (s.microStep ch ready st dq).Queued qs :=
  .ite h.seqFault (.ite h.shortPair h.longOp)

theorem State.Queued.longRow {ch : Chan} {p : Word → Bool} {ready : Bool} {st : Byte} (h : s.Queued qs) :
    Answers (State.Queued qs) (longRow ch p ready st s) :=
  .ite (.next h.microStep) (.next h)

theorem State.Queued.execHalt {ch : Chan} (h : s.Queued qs) : Answers (State.Queued qs) (execHalt ch s) := h.longRow

theorem State.Queued.execSeqJmp {ch : Chan} {target : BitVec 12} (h : s.Queued qs) : Answers (State.Queued qs) (execSeqJmp ch target s) :=
  h.longRow

theorem State.Queued.execJcc {ch : Chan} {cond : BitVec 4} {target : BitVec 12} (h : s.Queued qs) :
    Answers (State.Queued qs) (execJcc ch cond target s) :=
  h.longRow

theorem State.Queued.execSeqCall {ch : Chan} {target : BitVec 12} (h : s.Queued qs) : Answers (State.Queued qs) (execSeqCall ch target s) :=
  h.longRow

theorem State.Queued.execSeqRet {ch : Chan} (h : s.Queued qs) : Answers (State.Queued qs) (execSeqRet ch s) := h.longRow

theorem State.Queued.execLdcnt {ch : Chan} {n : BitVec 16} (h : s.Queued qs) : Answers (State.Queued qs) (execLdcnt ch n s) :=
  h.longRow

theorem State.Queued.execLoop {ch : Chan} {target : BitVec 12} (h : s.Queued qs) : Answers (State.Queued qs) (execLoop ch target s) :=
  h.longRow

theorem State.Queued.execWaitrb {ch : Chan} {w : Word} {ready : Bool} {st : Byte} (h : s.Queued qs) :
    Answers (State.Queued qs) (execWaitrb ch w ready st s) :=
  h.longRow

theorem State.Queued.execLddesc {ch : Chan} {w : Word} (h : s.Queued qs) : Answers (State.Queued qs) (execLddesc ch w s) :=
  h.longRow

theorem State.Queued.execAdda {ch : Chan} {w : Word} (h : s.Queued qs) : Answers (State.Queued qs) (execAdda ch w s) :=
  h.longRow

theorem State.Queued.execSetf {ch : Chan} {w : Word} (h : s.Queued qs) : Answers (State.Queued qs) (execSetf ch w s) :=
  h.longRow

theorem State.Queued.execRetry {ch : Chan} {w : Word} (h : s.Queued qs) : Answers (State.Queued qs) (execRetry ch w s) :=
  h.longRow

theorem State.Queued.execPost {ch : Chan} {w : Word} (h : s.Queued qs) : Answers (State.Queued qs) (execPost ch w s) :=
  h.longRow

theorem State.Queued.execWaitrbTimeout {ch : Chan} (h : s.Queued qs) : Answers (State.Queued qs) (execWaitrbTimeout ch s) :=
  .ite (.next h.modSeq) (.next h)

theorem State.Queued.execShortOperationPair {ch : Chan} {w : Word} {dq : List Byte} (h : s.Queued qs) :
    Answers (State.Queued qs) (execShortOperationPair ch w dq s) :=
  .ite (.next h.microStep) (.next h)

theorem State.Queued.mchCtrlCond {m : Master} {ch : Nat} {v : Word} (h : s.Queued qs) : AllSome (State.Queued qs) (mchCtrlCond m ch v s) :=
  .ite (.some h.refuse) .none

theorem State.Queued.mchCtrlEffect {ch : Nat} {v : Word} {ready : Bool} {st : Byte} {dq : List Byte} {d : RegDef} (h : s.Queued qs) :
    (mchCtrlEffect ch v ready st dq d s).Queued qs := by
  unfold Machine.mchCtrlEffect
  extract_lets _ s1
  have h1 : s1.Queued qs := h.store
  exact .ite h1 (.ite h1.modSeq h1.microStep)

theorem State.Queued.execStep {m : Master} {ch : Chan} {v : Word} {ready : Bool} {st : Byte} {dq : List Byte} (h : s.Queued qs) :
    Answers (State.Queued qs) (execStep m ch v ready st dq s) :=
  .next (h.write (fun _ ht => ht.mchCtrlCond) (fun _ _ ht => ht.mchCtrlEffect))

theorem State.Queued.usdataCond {m : Master} {ch : Nat} {v : Word} (h : s.Queued qs) : AllSome (State.Queued qs) (usdataCond m ch v s) :=
  .ite (.some h.refuse) .none

theorem State.Queued.usNext {ch : Nat} (h : s.Queued qs) : (s.usNext ch).Queued qs := h.setReg

theorem State.Queued.usdataEffect {ch : Nat} {v : Word} {x : RegDef} (h : s.Queued qs) : (usdataEffect ch v x s).Queued qs :=
  h.modSeq.usNext

theorem State.Queued.execMchUsdataAccess {m : Master} {ch : Chan} {write : Option Word} (h : s.Queued qs) :
    Answers (State.Queued qs) (execMchUsdataAccess m ch write s) := by
  unfold Machine.execMchUsdataAccess
  split
  · exact .next (h.write (fun _ ht => ht.usdataCond) (fun _ _ ht => ht.usdataEffect))
  · split
    · next e => exact .next (h.checkAccess.of_eq e).reply
    · exact .next h.answerRead.usNext

theorem State.Queued.waymapCond {m : Master} {ch off : Nat} {v : Word} (h : s.Queued qs) : AllSome (State.Queued qs) (waymapCond m ch off v s) :=
  .ite (.some h.refuse) .none

/-! ### Datapath -/

theorem State.Queued.passCharges {r : CmdRef} {versions : List Nat} (h : s.Queued qs) : (s.passCharges r versions).Queued qs :=
  .ite h h.rest

theorem State.Queued.callOff (h : s.Queued qs) : s.callOff.Queued qs := by
  unfold State.callOff
  extract_lets
  refine .foldl h (fun _ ht _ => ?_)
  extract_lets
  refine .foldl ht.unmember.dropReq.markIssued (fun _ ht2 _ => ?_)
  split
  · exact ht2.supersede
  · exact ht2

theorem State.Queued.wrote {f : Fun} {n lba nlb : Nat} (h : s.Queued qs) : (s.wrote f n lba nlb).Queued qs := by
  unfold State.wrote
  refine .foldl h (fun _ ht _ => ?_)
  extract_lets _ s1
  have h1 : s1.Queued qs := ht.touch
  exact h1.rest

theorem State.Queued.stageParts {r : CmdRef} {evid : Bool} {parts : List (Nat × Nat × List Block)} (h : s.Queued qs) :
    (s.stageParts r evid parts).Queued qs := by
  unfold State.stageParts
  extract_lets _ _ _ s1
  have h1 : s1.Queued qs := h.foldl (fun _ ht _ => .wrote (ht.foldl (fun _ ht2 _ => ht2.stage)))
  exact .ite h1.placeEvid (.callOff (.passCharges (.ite h1 h1.commit)))

theorem State.Queued.stageAll {r : CmdRef} {evid : Bool} {n lba : Nat} {bs : List Block} (h : s.Queued qs) :
    (s.stageAll r evid n lba bs).Queued qs :=
  h.stageParts

theorem State.Queued.landWrite {r : CmdRef} {bs : List Block} (h : s.Queued qs) : (s.landWrite r bs).Queued qs := by
  unfold State.landWrite
  split
  · exact h
  · split
    · exact h.finish
    · refine .ite h.modCmd ?_
      extract_lets _ s1
      have h1 : s1.Queued qs := h.modCmd.stageAll
      exact .ite h1.settle h1.finish

theorem State.Queued.readDone {r : CmdRef} (h : s.Queued qs) : (s.readDone r).Queued qs := by
  unfold State.readDone
  split
  · exact h
  · extract_lets
    refine .ite h ?_
    split
    · split
      · next e => exact (h.xferOk.ofSnd e).finish
      · next e => exact .finish (.emit ((h.xferOk.ofSnd e).foldl (fun _ ht _ => ht.markDirty)))
    · exact h.finish
    · exact .ite h h.finish
    · exact .ite h.finish h.landWrite
    · exact h

theorem State.Queued.beginRead {r : CmdRef} {cls : Class} {l : List Range} (h : s.Queued qs) : (s.beginRead r cls l).Queued qs :=
  .readDone (h.modCmd.foldl (fun _ ht _ => ht.addReq))

theorem State.Queued.feed {c : CellId} {bs : List Byte} (h : s.Queued qs) : (s.feed c bs).Queued qs := h.writeSb.modSu

theorem State.Queued.pump {e : ExecRec} {n : Nat} (h : s.Queued qs) : (s.pump e n).Queued qs := by
  induction n generalizing s with
  | zero => exact h
  | succ n ih =>
    unfold State.pump
    extract_lets _ s1
    have h1 : s1.Queued qs := h.fetchAhead
    refine .ite h1 ?_
    split
    · exact h1
    · refine .ite h1 (.ite h1 ?_)
      extract_lets
      split
      · exact ih h1.feed
      · split
        · exact ih h1.feed
        · exact h1.modSu
        · exact .ite h1 h1.addReq

theorem State.Queued.pumpExec {e : ExecRec} (h : s.Queued qs) : (s.pumpExec e).Queued qs := h.pump

theorem State.Queued.execStreamCredit {f : Flit} (h : s.Queued qs) : Answers (State.Queued qs) (execStreamCredit f s) := by
  unfold Machine.execStreamCredit
  extract_lets
  refine .next (.onMesh h (fun _ ht => ?_))
  split
  · exact ht.modSu.modSu
  · refine .ite ?_ ht
    split
    · exact ht.pumpExec
    · exact ht

theorem State.Queued.execData {r : Req} {c : CmdRef} {word : Nat → Option Block} (h : s.Queued qs) : (s.execData r c word).Queued qs := by
  unfold State.execData
  extract_lets s1
  have h1 : s1.Queued qs := h.dropReq
  split
  · extract_lets
    refine .ite h1 ?_
    split
    · exact h1.feed.pumpExec
    · exact h1.modSu
  · exact h1

theorem State.Queued.merge {r : Req} {word : Nat → Option Block} (h : s.Queued qs) : (s.merge r word).Queued qs := by
  unfold State.merge
  extract_lets s1
  have h1 : s1.Queued qs := h.dropReq.markIssued
  split
  · exact h1
  · extract_lets _ _ _ s2 x3
    clear_value x3
    have h2 : s2.Queued qs := by
      dsimp only [s2]
      refine .foldl h1 (fun _ ht _ => ?_)
      split
      · exact ht.supersede
      · exact ht
    split
    · refine .ite h2 (.ite h2.loseBlocks ?_)
      split
      · split
        · next e => exact (h2.programBlocks.ofSnd e).markIssued
        · next e => exact h2.programBlocks.ofSnd e
    · exact h2

theorem State.Queued.handOver {r : Req} {words : Option (List Block)} (h : s.Queued qs) : (s.handOver r words).Queued qs := by
  unfold State.handOver
  extract_lets _ _ s1
  have h1 : s1.Queued qs := h.dropReq
  split
  · exact h.dropReq.modCmd.readDone
  · exact h.execData
  · exact .ite h1.count h1
  · exact h.merge
  · exact h.relocRead
  · exact h.dropReq

theorem State.Queued.encrypted {r : Req} {p : PageSet} (h : s.Queued qs) : (s.encrypted r p).Queued qs := h.modReq

theorem State.Queued.encryptWord {l : Nat} {r : Req} {p : PageSet} (h : s.Queued qs) : (s.encryptWord l r p).Queued qs := by
  unfold State.encryptWord
  extract_lets _ _ _ _ _ _ _ _ _ _ _ _ _ s1 s2
  have h1 : s1.Queued qs := h.useBlocks.modLane
  have h2 : s2.Queued qs := h1.count64.count.setReg
  exact .ite h.useBlocks.modReq.modLane.count64.count.raise (.ite h2.encrypted h2.modReq)

theorem State.Queued.decryptWord {l : Nat} {r : Req} {p : PageSet} (h : s.Queued qs) : (s.decryptWord l r p).Queued qs := by
  unfold State.decryptWord
  extract_lets _ _ _ s1 s2
  have h1 : s1.Queued qs := .ite h.modLane h
  have h2 : s2.Queued qs := h1.count64.count.setReg
  exact .ite h2.handOver h2.modReq

theorem State.Queued.execCipherPathJob {lane : Fin 16} {req : Nat} (h : s.Queued qs) : Answers (State.Queued qs) (execCipherPathJob lane req s) := by
  unfold Machine.execCipherPathJob
  extract_lets
  split
  · exact .next h
  · extract_lets
    refine .ite (.next h) ?_
    split
    · split
      · next e => exact .next (h.useKey.ofSnd e)
      · next e => exact .next (h.useKey.ofSnd e).encryptWord
    · exact .next h.decryptWord
    · exact .next h.handOver
    · exact .next h

/-! ### HostIo -/

theorem State.Queued.rowIf {b : Bool} {st : Status} (h : s.Queued qs) : AllSome (fun x => x.2.Queued qs) (rowIf b st s) :=
  .ite (.some (.snd h)) .none

theorem State.Queued.firstRow {l : List Row} (h : s.Queued qs) (hl : RowsQueued qs l) : AllSome (fun x => x.2.Queued qs) (s.firstRow l) := by
  induction l with
  | nil => exact .none
  | cons r l ih =>
    unfold State.firstRow
    split
    · next e => exact .some (hl.head s h _ e)
    · exact ih hl.tail

theorem State.Queued.optionRow {c : NvmeCmd} {bad : Bool} (h : s.Queued qs) : AllSome (fun x => x.2.Queued qs) (optionRow c bad s) :=
  h.rowIf

theorem State.Queued.nsRow {c : NvmeCmd} {k : NsKind} (h : s.Queued qs) : AllSome (fun x => x.2.Queued qs) (nsRow c k s) := by
  unfold Machine.nsRow
  split
  · exact .some (.snd h)
  · exact .ite .none (.some (.snd h))

theorem State.Queued.mdtsRow {len : Nat} (h : s.Queued qs) : AllSome (fun x => x.2.Queued qs) (mdtsRow len s) :=
  h.rowIf

theorem State.Queued.lbaRow {n : Nat} {l : List Range} (h : s.Queued qs) : AllSome (fun x => x.2.Queued qs) (lbaRow n l s) :=
  h.rowIf

theorem State.Queued.ptrRow {c : NvmeCmd} {len : Nat} (h : s.Queued qs) : AllSome (fun x => x.2.Queued qs) (ptrRow c len s) :=
  AllSome.mapOf (fun _ => .snd h)

theorem State.Queued.fetchRow {c : NvmeCmd} (h : s.Queued qs) : AllSome (fun x => x.2.Queued qs) (fetchRow c s) := by
  unfold Machine.fetchRow
  refine .ite (.some (.snd h.xferFail)) ?_
  split
  · next e => exact .some (.snd (h.xferOk.ofSnd e))
  · exact .none

theorem State.Queued.deferRow {c : NvmeCmd} (h : s.Queued qs) : AllSome (fun x => x.2.Queued qs) (deferRow c s) := by
  unfold Machine.deferRow
  extract_lets
  split
  · exact .none
  · exact .some (.snd h.modLogs)

theorem State.Queued.evidRow {c : NvmeCmd} {why : Nat} {p : State → Bool} (h : s.Queued qs) :
    AllSome (fun x => x.2.Queued qs) (evidRow c why p s) :=
  .ite (.some (.snd h)) .none

theorem State.Queued.publishedRow {c : NvmeCmd} {l : List Range} (h : s.Queued qs) : AllSome (fun x => x.2.Queued qs) (publishedRow c l s) :=
  h.evidRow

theorem State.Queued.capacityRow {c : NvmeCmd} {nlb : Nat} (h : s.Queued qs) : AllSome (fun x => x.2.Queued qs) (capacityRow c nlb s) :=
  .ite .none (.ite (.some (.snd h.disarm.raise)) .none)

theorem State.Queued.protectRow {c : NvmeCmd} (h : s.Queued qs) : AllSome (fun x => x.2.Queued qs) (protectRow c s) :=
  .ite (.ite (.some (.snd h.setField)) .none) h.rowIf

theorem State.Queued.applyPlan {r : CmdRef} {n : Nat} {p : WritePlan} (h : s.Queued qs) : (s.applyPlan r n p).Queued qs := by
  unfold State.applyPlan
  split
  · exact h
  · exact .ite h (.foldl (.foldl (h.foldl (fun _ ht _ => ht.rest)) (fun _ ht _ => ht.promote)) (fun _ ht _ => ht.charge.charge.charge))

theorem State.Queued.memRead {k : Cmd} (h : s.Queued qs) : (s.memRead k).Queued qs := by
  unfold State.memRead
  extract_lets
  split
  · next e =>
      have h1 := h.peek.ofSnd e
      refine .ite h1.xferFail.finish ?_
      split
      · next e2 => exact (h1.xferOk.ofSnd e2).finish
      · next e2 => exact (h1.xferOk.ofSnd e2).hostWrite.finish

theorem State.Queued.writeZeros {k : Cmd} (h : s.Queued qs) : (s.writeZeros k).Queued qs := by
  unfold State.writeZeros
  split
  · exact h.finish
  · exact .ite (.ite h.deallocate.stageParts.finish h.modCmd) (.ite h.landWrite (.ite h.stageParts.modCmd h.modCmd))

theorem State.Queued.landRoom {k : Cmd} (h : s.Queued qs) : (s.landRoom k).Queued qs := .ite h.writeZeros h.landWrite

theorem State.Queued.markFlush {k : Cmd} (h : s.Queued qs) : (s.markFlush k).Queued qs := h.modCmd

theorem State.Queued.begin {r : CmdRef} (h : s.Queued qs) : (s.begin r).Queued qs := by
  unfold State.begin
  split
  · exact h
  · extract_lets
    split
    · exact h.modCmd.beginRead
    · exact h.modCmd.beginRead
    · exact h.modCmd.beginRead
    · exact h.modCmd.beginRead
    · exact h.modCmd
    · exact h.modCmd
    · exact h.modCmd
    · exact h.modCmd.writeZeros
    · exact .finish (h.modCmd.foldl (fun _ ht _ => ht.deallocate))
    · exact h.modCmd.settle
    · exact h.modCmd.memRead
    · exact h.modCmd
    · exact h.modCmd

theorem State.Queued.kickOff {r : CmdRef} (h : s.Queued qs) : (s.kickOff r).Queued qs := by
  unfold State.kickOff
  split
  · exact h
  · exact .ite h.begin h.modCmd

/-! The rows of R84 as checks that leave the queue as it is. -/

theorem Row.Queued.rowIf {b : Bool} {st : Status} : Row.Queued qs (rowIf b st) := fun _ h => h.rowIf
theorem Row.Queued.optionRow {c : NvmeCmd} {bad : Bool} : Row.Queued qs (optionRow c bad) := fun _ h => h.optionRow
theorem Row.Queued.nsRow {c : NvmeCmd} {k : NsKind} : Row.Queued qs (nsRow c k) := fun _ h => h.nsRow
theorem Row.Queued.mdtsRow {len : Nat} : Row.Queued qs (mdtsRow len) := fun _ h => h.mdtsRow
theorem Row.Queued.lbaRow {n : Nat} {l : List Range} : Row.Queued qs (lbaRow n l) := fun _ h => h.lbaRow
theorem Row.Queued.ptrRow {c : NvmeCmd} {len : Nat} : Row.Queued qs (ptrRow c len) := fun _ h => h.ptrRow
theorem Row.Queued.fetchRow {c : NvmeCmd} : Row.Queued qs (fetchRow c) := fun _ h => h.fetchRow
theorem Row.Queued.deferRow {c : NvmeCmd} : Row.Queued qs (deferRow c) := fun _ h => h.deferRow
theorem Row.Queued.evidRow {c : NvmeCmd} {why : Nat} {p : State → Bool} : Row.Queued qs (evidRow c why p) := fun _ h => h.evidRow
theorem Row.Queued.publishedRow {c : NvmeCmd} {l : List Range} : Row.Queued qs (publishedRow c l) := fun _ h => h.publishedRow
theorem Row.Queued.capacityRow {c : NvmeCmd} {nlb : Nat} : Row.Queued qs (capacityRow c nlb) := fun _ h => h.capacityRow
theorem Row.Queued.protectRow {c : NvmeCmd} : Row.Queued qs (protectRow c) := fun _ h => h.protectRow

theorem State.Queued.ioCommand {j : IoJob} {from' : Nat} (h : s.Queued qs) (hj : j.Queued qs) : (s.ioCommand j from').Queued qs := by
  unfold State.ioCommand
  split
  · next e => exact ((h.firstRow hj.rows).of_eq e).finish
  · exact h.admission (fun _ ht => (hj.ok _ ht).kickOff)

theorem State.Queued.onQueue {c : NvmeCmd} {f : SQueue → Nat → State → State} (h : s.Queued qs) (hf : ∀ x, ∀ y, ∀ t, t.Queued qs → (f x y
    t).Queued qs) : Answers (State.Queued qs) (onQueue c s f) := by
  unfold Machine.onQueue
  refine State.Queued.onIo h (fun _ _ ht => ?_)
  split
  · exact hf _ _ _ ht
  · exact ht

theorem State.Queued.onJob {c : NvmeCmd} {job : NvmeCmd → SQueue → State → IoJob} (h : s.Queued qs) (hjob : ∀ q t, (job c q t).Queued qs) :
    Answers (State.Queued qs) (onJob c s job) :=
  h.onQueue (fun _ _ _ ht => ht.ioCommand (hjob _ _))

theorem RowsQueued.readRows {c : NvmeCmd} {len : Nat} {l : List Range} : RowsQueued qs (readRows c len l) :=
  .append (.append (.cons .optionRow (.cons .nsRow (.cons .mdtsRow (.cons .lbaRow .nil)))) (.ite .nil (.cons .ptrRow .nil)))
    (.cons .deferRow (.cons .publishedRow .nil))

theorem IoJob.Queued.readJob {c : NvmeCmd} {q : SQueue} : (readJob c q s).Queued qs := ⟨.readRows, fun _ h => h⟩

theorem State.Queued.execRead {c : NvmeCmd} (h : s.Queued qs) : Answers (State.Queued qs) (execRead c s) := h.onJob (fun _ _ => .readJob)

theorem IoJob.Queued.compareJob {c : NvmeCmd} {q : SQueue} : (compareJob c q s).Queued qs := ⟨.readRows, fun _ h => h⟩

theorem State.Queued.execCompare {c : NvmeCmd} (h : s.Queued qs) : Answers (State.Queued qs) (execCompare c s) := h.onJob (fun _ _ => .compareJob)

theorem IoJob.Queued.verifyJob {c : NvmeCmd} {q : SQueue} : (verifyJob c q s).Queued qs := ⟨.readRows, fun _ h => h⟩

theorem State.Queued.execVerify {c : NvmeCmd} (h : s.Queued qs) : Answers (State.Queued qs) (execVerify c s) := h.onJob (fun _ _ => .verifyJob)

theorem State.Queued.takeAppend {r : CmdRef} {nlb : Nat} (h : s.Queued qs) : (s.takeAppend r nlb).Queued qs :=
  h.rest.modCmd

theorem IoJob.Queued.writeJob {c : NvmeCmd} {q : SQueue} : (writeJob c q s).Queued qs := by
  unfold Machine.writeJob
  extract_lets
  split
  · exact ⟨.cons .optionRow (.cons .nsRow (.cons .mdtsRow (.cons .ptrRow (.cons .deferRow (.cons .evidRow (.cons .evidRow
      (.cons .capacityRow (.cons .protectRow .nil)))))))), fun _ h => h.takeAppend⟩
  · exact ⟨.cons .optionRow (.cons .nsRow (.cons .mdtsRow (.cons .lbaRow (.cons .ptrRow (.cons .deferRow (.cons .protectRow
      .nil)))))), fun _ h => h.applyPlan⟩

theorem State.Queued.execWrite {c : NvmeCmd} (h : s.Queued qs) : Answers (State.Queued qs) (execWrite c s) := h.onJob (fun _ _ => .writeJob)

theorem IoJob.Queued.writeZeroesJob {c : NvmeCmd} {q : SQueue} : (writeZeroesJob c q s).Queued qs :=
  ⟨.cons .optionRow (.cons .nsRow (.cons .lbaRow (.cons .deferRow (.cons .evidRow (.cons .protectRow .nil))))),
    fun _ h => h.applyPlan⟩

theorem State.Queued.execWriteZeroes {c : NvmeCmd} (h : s.Queued qs) : Answers (State.Queued qs) (execWriteZeroes c s) :=
  h.onJob (fun _ _ => .writeZeroesJob)

theorem IoJob.Queued.dsmJob {c : NvmeCmd} {q : SQueue} : (dsmJob c q s).Queued qs :=
  ⟨.append (.cons .optionRow (.cons .nsRow (.cons .ptrRow (.cons .fetchRow (.cons .lbaRow (.cons .deferRow (.cons .evidRow
    .nil))))))) (.ite (.cons .protectRow .nil) .nil), fun _ h => h⟩

theorem State.Queued.execDatasetManagement {c : NvmeCmd} (h : s.Queued qs) : Answers (State.Queued qs) (execDatasetManagement c s) :=
  h.onJob (fun _ _ => .dsmJob)

theorem IoJob.Queued.copyJob {c : NvmeCmd} {q : SQueue} : (copyJob c q s).Queued qs :=
  ⟨.cons .optionRow (.cons .nsRow (.cons .rowIf (.cons .ptrRow (.cons .fetchRow (.cons .rowIf (.cons .lbaRow (.cons .deferRow
    (.cons .evidRow (.cons .protectRow .nil))))))))), fun _ h => h.applyPlan⟩

theorem State.Queued.execCopy {c : NvmeCmd} (h : s.Queued qs) : Answers (State.Queued qs) (execCopy c s) := h.onJob (fun _ _ => .copyJob)

theorem IoJob.Queued.flushJob {c : NvmeCmd} {q : SQueue} : (flushJob c q s).Queued qs := by
  refine ⟨.append (.cons .optionRow .nil) (.ite .nil (.cons .nsRow (.cons .deferRow .nil))), fun t h => ?_⟩
  dsimp only [Machine.flushJob]
  split
  · exact h.markFlush
  · exact h

theorem State.Queued.execFlush {c : NvmeCmd} (h : s.Queued qs) : Answers (State.Queued qs) (execFlush c s) := h.onJob (fun _ _ => .flushJob)

theorem IoJob.Queued.slmJob {write : Bool} {c : NvmeCmd} {q : SQueue} : (slmJob write c q s).Queued qs :=
  ⟨.cons .optionRow (.cons .nsRow (.cons .mdtsRow (.cons .rowIf (.cons .ptrRow (.cons .deferRow .nil))))), fun _ h => h⟩

theorem State.Queued.execMemoryRead {c : NvmeCmd} (h : s.Queued qs) : Answers (State.Queued qs) (execMemoryRead c s) := h.onJob (fun _ _ => .slmJob)

theorem State.Queued.execMemoryWrite {c : NvmeCmd} (h : s.Queued qs) : Answers (State.Queued qs) (execMemoryWrite c s) := h.onJob (fun _ _ => .slmJob)

theorem State.Queued.dropAppend {r : CmdRef} (h : s.Queued qs) : (s.dropAppend r).Queued qs := h.rest

theorem State.Queued.failTransfer {r : CmdRef} {poisoned : Bool} (h : s.Queued qs) : (s.failTransfer r poisoned).Queued qs :=
  h.xferFail.dropAppend.finish

theorem State.Queued.execHostWriteDataReceived {c : CmdRef} {bs : List Block} (h : s.Queued qs) :
    Answers (State.Queued qs) (execHostWriteDataReceived c bs s) := by
  unfold Machine.execHostWriteDataReceived
  split
  · exact .next h
  · refine .ite (.next h) (.ite ?_ ?_)
    · split
      · next e => exact .next (h.xferOk.ofSnd e).dropAppend.finish
      · next e =>
          have h1 := h.xferOk.ofSnd e
          exact .ite (.next h1.poke.finish) (.next h1.landWrite)
    · refine .ite ?_ (.next h)
      split
      · next e => exact .next (h.xferOk.ofSnd e).finish
      · next e => exact .next (h.xferOk.ofSnd e).modCmd.readDone

theorem State.Queued.execHostTransferFailure {c : FailedTransfer} (h : s.Queued qs) : Answers (State.Queued qs) (execHostTransferFailure c s) := by
  unfold Machine.execHostTransferFailure
  split
  · exact .next h
  · exact .ite (.next h.failTransfer) (.ite (.next h.xferFail.logStatus.modCmd) (.next h))

theorem State.Queued.zeroFill {x : AppendRec} {d : Nat} (h : s.Queued qs) : (s.zeroFill x d).Queued qs := by
  unfold State.zeroFill
  extract_lets
  split
  · exact h
  · next e =>
      have h1 := State.Queued.sndOf e (.programBlocks (h.foldl (fun _ ht _ => ht.stage)))
      exact h1.rest.markIssued.space

theorem State.Queued.execDroppedAppendZeroFill (h : s.Queued qs) : Answers (State.Queued qs) (execDroppedAppendZeroFill s) := by
  unfold Machine.execDroppedAppendZeroFill
  split
  · exact .next h.zeroFill
  · exact .next h

/-! ### Programs -/

theorem State.Queued.setSlot {f : Fun} {i : Nat} {m : Option (SMap Byte)} (h : s.Queued qs) : (s.setSlot f i m).Queued qs :=
  h.rest

theorem State.Queued.setActive {f : Fun} {i : Nat} {on : Bool} (h : s.Queued qs) : (s.setActive f i on).Queued qs :=
  h.rest

theorem State.Queued.onPrograms {c : NvmeCmd} {f : State → State} (h : s.Queued qs) (hf : ∀ t, t.Queued qs → (f t).Queued qs) :
    Answers (State.Queued qs) (onPrograms c s f) :=
  h.onAdmin (fun _ ht => .ite (hf _ ht) ht.finish)

theorem State.Queued.execLoadProgram {c : NvmeCmd} (h : s.Queued qs) : Answers (State.Queued qs) (execLoadProgram c s) := by
  unfold Machine.execLoadProgram
  refine State.Queued.onPrograms h (fun _ ht => ?_)
  extract_lets
  refine .ite ht.finish (.ite ht.finish (.ite ht.setSlot.finish (.ite ht.finish ?_)))
  split
  · exact ht.finish
  · refine .ite ht.xferFail.finish ?_
    split
    · next e => exact (ht.xferOk.ofSnd e).finish
    · next e => exact (ht.xferOk.ofSnd e).setSlot.finish

theorem State.Queued.execProgramActivationManagement {c : NvmeCmd} (h : s.Queued qs) :
    Answers (State.Queued qs) (execProgramActivationManagement c s) := by
  unfold Machine.execProgramActivationManagement
  refine State.Queued.onPrograms h (fun _ ht => ?_)
  extract_lets
  refine .ite ht.finish (.ite ht.setActive.finish (.ite ht.finish (.ite ht.setActive.finish ?_)))
  split
  · exact .ite ht.setActive.finish ht.finish
  · exact ht.finish

theorem State.Queued.setRanges {f : Fun} {i : Nat} {l : Option (List RangeDesc)} (h : s.Queued qs) : (s.setRanges f i l).Queued qs :=
  h.rest

theorem State.Queued.execMemoryRangeSetManagement {c : NvmeCmd} (h : s.Queued qs) : Answers (State.Queued qs) (execMemoryRangeSetManagement c s) := by
  unfold Machine.execMemoryRangeSetManagement
  refine State.Queued.onPrograms h (fun _ ht => ?_)
  extract_lets
  refine .ite ht.finish (.ite (.ite ht.setRanges.finish ht.finish) (.ite ht.finish ?_))
  split
  · exact ht.finish
  · refine .ite ht.xferFail.finish ?_
    split
    · next e => exact (ht.xferOk.ofSnd e).finish
    · next e =>
        have h1 := ht.xferOk.ofSnd e
        exact .ite h1.setRanges.finish h1.finish

theorem RowsQueued.progRows {c : NvmeCmd} {i inlen plen : Nat} {set : Option (List RangeDesc)} :
    RowsQueued qs (progRows c i inlen plen set) := by
  unfold Machine.progRows
  extract_lets l ins outs p row
  have hrow (why : Nat) (q : State → Bool) : Row.Queued qs (row why q) := fun _ h => .ite (.some (.snd h)) .none
  clear_value row
  exact .cons (hrow _ _) (.cons (hrow _ _) (.cons (hrow _ _) (.cons (hrow _ _) (.cons (hrow _ _) (.cons (hrow _ _) (.cons (hrow _ _)
    (.cons (hrow _ _) (.cons (fun _ h => .ite .none h.fetchRow) (.cons (hrow _ _) (.cons (hrow _ _)
    (.cons (fun _ h => .ite (.some (.snd h)) .none) (.cons (fun _ h => .ite (.some (.snd h)) .none) .nil))))))))))))

theorem IoJob.Queued.programJob {c : NvmeCmd} {q : SQueue} : (programJob c q s).Queued qs :=
  ⟨.append (.append (.append (.cons .optionRow (.cons (fun _ h => h.rowIf) .nil)) (.ite .nil (.cons .ptrRow .nil)))
    (.cons .deferRow (.cons (fun _ h => h.rowIf) .nil))) .progRows, fun _ h => h.rest⟩

theorem State.Queued.executeProgram {go : State → State} {c : NvmeCmd} (hgo : ∀ t, t.Queued qs → (go t).Queued qs) (h : s.Queued qs) :
    Answers (State.Queued qs) (executeProgram go c s) := by
  unfold Machine.executeProgram
  refine h.onQueue fun q _ t ht => ?_
  extract_lets j
  have hj : j.Queued qs := .programJob
  split
  · next e => exact ((ht.firstRow hj.rows).of_eq e).finish
  · exact ht.admission fun _ hu => hgo _ (hj.ok _ hu).kickOff

/-! ### Runs -/

theorem State.Queued.runBuild {p inp : List Byte} {bound : Nat} (h : s.Queued qs) : (s.runBuild p inp bound).2.Queued qs := by
  unfold State.runBuild
  extract_lets _ _ _ s1
  have h1 : s1.1.Queued qs := by
    dsimp only [s1]
    refine .foldlFst (.fst h) (fun _ ht _ => ?_)
    extract_lets
    split
    · exact .fst ht
    · exact .fst ht.mergeData.modBank.restartAt.writeSlot.count
  exact .snd h1

theorem State.Queued.runQuery {c : CellId} {inp : List Byte} {bound : Nat} (h : s.Queued qs) : (s.runQuery c inp bound).2.Queued qs :=
  .snd (.foldlFst (.fst h) (fun _ ht _ => .fst ht.searchFor))

theorem State.Queued.nextEpoch {n : Nat} {f : Fun} (h : s.Queued qs) : (s.nextEpoch n f).Queued qs := h.commit.loadKey

theorem State.Queued.runSeal {f : Fun} {p inp : List Byte} {bound : Nat} (h : s.Queued qs) : (s.runSeal f p inp bound).2.Queued qs := by
  unfold State.runSeal
  split
  · exact .snd h
  · extract_lets _ _ _ _ _ s1
    have h1 : s1.1.Queued qs := by
      dsimp only [s1]
      refine .foldlFst (.fst h) (fun _ ht _ => ?_)
      refine .iteFst ht (.iteFst (.fst ht) ?_)
      split
      · next e => exact .fst (ht.useKey.ofSnd e)
      · next e =>
          have h2 := ht.useKey.ofSnd e
          exact .fst (.useBlocks (.ite h2.useBlocks.nextEpoch h2))
    exact .snd h1

theorem State.Queued.builtin {c : CellId} {e : ExecRec} {inp : List Byte} (h : s.Queued qs) : (s.builtin c e inp).2.Queued qs := by
  unfold State.builtin
  extract_lets
  split
  · exact .snd h
  · exact .snd h
  · exact .snd h
  · exact .snd h
  · exact .snd h
  · exact .snd h
  · exact .snd h
  · exact h.runBuild
  · exact h.runQuery
  · exact h.runSeal

theorem State.Queued.modExec {r : CmdRef} {f : ExecRec → ExecRec} (h : s.Queued qs) : (s.modExec r f).Queued qs :=
  h.rest

theorem State.Queued.bindLane {l : Nat} {c : Option CellId} (h : s.Queued qs) : (s.bindLane l c).Queued qs :=
  h.rest

theorem State.Queued.unbindLanes {c : CellId} (h : s.Queued qs) : (s.unbindLanes c).Queued qs :=
  h.rest

theorem State.Queued.enterProgram {c : CellId} {e : ExecRec} {lane : Nat} (h : s.Queued qs) : (s.enterProgram c e lane).Queued qs :=
  h.modCell

theorem State.Queued.loadProgram {c : CellId} {e : ExecRec} (h : s.Queued qs) : (s.loadProgram c e).Queued qs :=
  .foldl (h.rest.modCell.foldl (fun _ ht _ => ht.writeDm)) (fun _ ht _ => ht.writeDm)

theorem State.Queued.enterExec {e : ExecRec} (h : s.Queued qs) : (s.enterExec e).Queued qs := by
  unfold State.enterExec
  extract_lets _ _ _ s1
  have h1 : s1.Queued qs := h.holdAndFill.modExec
  split
  · extract_lets s2 s3
    have h2 : s2.Queued qs := .ite (.bindLane (.setDig (AllSome.getD h1.switchTo h1))) h1
    have h3 : s3.Queued qs := h2.loadProgram.enterProgram.modCell
    exact .ite h3.beginRead h3.unhold.pumpExec

theorem State.Queued.enterExecs (h : s.Queued qs) : s.enterExecs.Queued qs := by
  unfold State.enterExecs
  refine .foldl h (fun _ ht _ => ?_)
  split
  · exact .ite ht.enterExec ht
  · exact ht

theorem State.Queued.leaveExec {e : ExecRec} (h : s.Queued qs) : (s.leaveExec e).Queued qs := by
  unfold State.leaveExec
  extract_lets _ s1
  have h1 : s1.Queued qs := h.holdAndFill.unbindLanes
  exact h1.rest.rest

theorem State.Queued.closeExec {e : ExecRec} {st : Status} (h : s.Queued qs) : (s.closeExec e st).Queued qs :=
  h.leaveExec.finish.enterExecs

theorem State.Queued.commitOut {e : ExecRec} {n : Nat} {old : Block} {st : Status} (h : s.Queued qs) : (s.commitOut e n old st).Queued qs := by
  unfold State.commitOut
  extract_lets _ _ _ s1
  have h1 : s1.Queued qs := h.stageParts
  exact .ite h.closeExec (.ite h (.ite h1.closeExec h1.modExec))

theorem State.Queued.succeed {e : ExecRec} {n : Nat} {st : Status} (h : s.Queued qs) : (s.succeed e n st).Queued qs := by
  unfold State.succeed
  extract_lets s1
  have h1 : s1.Queued qs := h.modExec
  split
  · exact h1.commitOut
  · extract_lets have_ s2
    have h2 : s2.Queued qs := .ite h1 h1.beginRead
    clear_value s2 have_
    split
    · exact h2
    · exact h2.commitOut
    · generalize List.range 512 = l
      split
      · next e =>
          refine .commitOut (State.Queued.sndOf e (.foldlSnd (.snd h2) fun t ht k => ?_))
          split
          · next e => exact .snd (ht.free.ofSnd e)

theorem State.Queued.limitStub {c : CellId} {f : Fun} (h : s.Queued qs) : (s.limitStub c f).Queued qs :=
  .modCell (.foldl (h.foldl (fun _ ht _ => ht.nextEpoch)) (fun _ ht _ => ht.settleHeld))

theorem State.Queued.budgetEnd {e : ExecRec} {slm : Nat} (h : s.Queued qs) : (s.budgetEnd e slm).Queued qs :=
  h.closeExec

theorem State.Queued.downloadedEnd {e : ExecRec} (h : s.Queued qs) : (s.downloadedEnd e).Queued qs := by
  unfold State.downloadedEnd
  extract_lets _ _ _ _ _ s1
  have h1 : s1.Queued qs := .ite h.drain h
  exact .ite h (.ite h.limitStub (.ite h1.closeExec (.ite h1.succeed (.ite h1.budgetEnd (.ite h1.closeExec h1.closeExec)))))

theorem State.Queued.builtinInput {e : ExecRec} {k : Cmd} (h : s.Queued qs) : AllSome (fun x => x.2.Queued qs) (s.builtinInput e k) := by
  unfold State.builtinInput
  extract_lets
  refine .ite .none (.some (.foldlSnd (.snd h) (fun _ ht _ => ?_)))
  refine .iteSnd (.snd ht) ?_
  split
  · next e => exact .snd (ht.peek.ofSnd e)

theorem State.Queued.builtinEnd {e : ExecRec} {k : Cmd} (h : s.Queued qs) : (s.builtinEnd e k).Queued qs := by
  unfold State.builtinEnd
  extract_lets c trap
  have htrap (t : State) (ht : t.Queued qs) (cause n : Nat) : (trap t cause n).Queued qs := by
    unfold trap
    split
    · next e => exact (ht.free.ofSnd e).closeExec
  clear_value trap
  split
  · exact h
  · next e => exact (h.builtinInput.of_eq e).closeExec
  · next e =>
      have h1 : State.Queued qs _ := h.builtinInput.of_eq e
      refine .ite (htrap _ h1 ..) ?_
      split
      · next e =>
          extract_lets s2 n
          have h2 : s2.Queued qs := (h1.builtin.ofSnd e).putBytes
          split
          · exact h2.succeed
          · exact h2.closeExec
          · exact htrap _ h2 ..

theorem State.Queued.concludeExec {r : CmdRef} (h : s.Queued qs) : (s.concludeExec r).Queued qs := by
  unfold State.concludeExec
  split
  · refine .ite h ?_
    split
    · exact h.succeed
    · exact .ite h.downloadedEnd (.ite h.budgetEnd h.builtinEnd)
  · exact h

theorem State.Queued.execExecuteProgram {c : NvmeCmd} (h : s.Queued qs) : Answers (State.Queued qs) (execExecuteProgram c s) :=
  State.Queued.executeProgram (fun _ ht => ht.enterExecs) h

theorem State.Queued.execCommandStart {c : CmdRef} (h : s.Queued qs) : Answers (State.Queued qs) (execCommandStart c s) := by
  unfold Machine.execCommandStart
  split
  · exact .next h
  · exact .next (.enterExecs (.ite h.begin (.ite h.landRoom h)))

theorem State.Queued.execStreamStallEnd {c : CellId} {cycles : Nat} (h : s.Queued qs) :
    Answers (State.Queued qs) (execStreamStallEnd c cycles s) := by
  unfold Machine.execStreamStallEnd
  extract_lets clear feed
  have hfeed (t : State) (ht : t.Queued qs) : (feed (clear t)).Queued qs := by
    have hc : (clear t).Queued qs := ht.modCell
    unfold feed
    split
    · exact .ite hc hc.pumpExec
    · exact hc
  split
  · exact .next (hfeed _ h.count)
  · exact .next (hfeed _ h.count)
  · exact .next h

theorem State.Queued.execCompletionPost {c : CmdRef} (h : s.Queued qs) : Answers (State.Queued qs) (execCompletionPost c s) := by
  unfold Machine.execCompletionPost
  refine .ite (.next h) ?_
  extract_lets s1
  have h1 : s1.Queued qs := h.concludeExec
  split
  · exact .next h1
  · split
    · split
      · exact .next h1
      · split
        · exact .next h1
        · exact .ite (.ite (.next h1) (.next h1.modCmd.count.raise)) (.next h1.post)
    · exact .next h1

/-! ### Controller -/

theorem State.Queued.rename {a b : CmdRef} (h : s.Queued qs) : (s.rename a b).Queued qs := h.rest

theorem State.Queued.discard {c : Cmd} (h : s.Queued qs) : (s.discard c).Queued qs := by
  unfold State.discard
  extract_lets s1
  have h1 : s1.Queued qs := h.uncharge.dropAppend.forget
  exact .ite h1.giveTokens h1

theorem State.Queued.sortCmd {c : Cmd} (h : s.Queued qs) : (s.sortCmd c).Queued qs := by
  unfold State.sortCmd
  split
  · exact h.forget
  · exact .ite h.modCmd.rename h.discard

theorem State.Queued.sortFlr {c : Cmd} (h : s.Queued qs) : (s.sortFlr c).Queued qs := .ite h.discard h.sortCmd

theorem State.Queued.sortCmds {f : Fun} (h : s.Queued qs) : (s.sortCmds f).Queued qs :=
  h.foldl (fun _ ht _ => ht.sortCmd)

theorem State.Queued.dropAsync {f : Fun} (h : s.Queued qs) : (s.dropAsync f).Queued qs :=
  .modLogs (h.foldl (fun _ ht _ => ht.forget))

theorem State.Queued.beginReset {f : Fun} {cc : Word} (h : s.Queued qs) : (s.beginReset f cc).Queued qs :=
  h.modCtrl.dropAsync.sortCmds

theorem State.Queued.clearCtrl {f : Fun} (h : s.Queued qs) : (s.clearCtrl f).Queued qs := h.modCtrl.rest

theorem State.Queued.sweepVectors {f : Fun} (h : s.Queued qs) : (s.sweepVectors f).Queued qs :=
  .ite h (h.foldl (fun _ ht _ => .ite ht.sendVector ht))

theorem State.Queued.execMsixEnable {fn : Fun} (h : s.Queued qs) : Answers (State.Queued qs) (execMsixEnable fn s) :=
  .ite (.next h) (.next h.modCtrl.sweepVectors)

theorem State.Queued.unmaskVector {f : Fun} {v : Nat} (h : s.Queued qs) : (s.unmaskVector f v).Queued qs :=
  .ite h (.ite h.modCtrl.emit h.modCtrl)

theorem State.Queued.setTab {f : Fun} {k : Nat} {w : Word} (h : s.Queued qs) : (s.setTab f k w).Queued qs := h.modCtrl

theorem State.Queued.execMsixMaskClear {fn : Fun} {vec : Option Nat} (h : s.Queued qs) : Answers (State.Queued qs) (execMsixMaskClear fn vec s) := by
  unfold Machine.execMsixMaskClear
  refine .ite (.next h) ?_
  split
  · exact .ite (.next h) (.next h.setTab.unmaskVector)
  · exact .next (h.modCtrl.foldl (fun _ ht _ => ht.unmaskVector))

theorem State.Queued.enable {f : Fun} {cc : Word} (h : s.Queued qs) : (s.enable f cc).Queued qs :=
  .ite h.modCtrl (.ite h.modCtrl.fatal h.modCtrl.modCtrl)

theorem State.Queued.execControllerEnable {fn : Fun} {cc : Word} (h : s.Queued qs) : Answers (State.Queued qs) (execControllerEnable fn cc s) :=
  .ite (.next h) (.next h.count64.enable)

theorem State.Queued.execControllerReset {fn : Fun} (h : s.Queued qs) : Answers (State.Queued qs) (execControllerReset fn s) :=
  .ite (.next h) (.next h.count64.beginReset)

theorem State.Queued.endReset {f : Fun} (h : s.Queued qs) : (s.endReset f).Queued qs := by
  unfold State.endReset
  extract_lets s1
  have h1 : s1.Queued qs := h.clearCtrl.sweepVectors
  split
  · exact h1.finish
  · exact h1

theorem State.Queued.execControllerResetComplete {fn : Fun} (h : s.Queued qs) : Answers (State.Queued qs) (execControllerResetComplete fn s) :=
  .ite (.next h.endReset) (.next h)

theorem State.Queued.shutdown {f : Fun} {shn : Nat} (h : s.Queued qs) : (s.shutdown f shn).Queued qs :=
  .ite (.closeWhere (h.modCtrl.foldl (fun _ ht _ => ht.modCtrl))) h.modCtrl.modCtrl

theorem State.Queued.execShutdownNotification {fn : Fun} {shn : Nat} (h : s.Queued qs) :
    Answers (State.Queued qs) (execShutdownNotification fn shn s) :=
  .ite (.next h) (.next h.count64.shutdown)

theorem State.Queued.execShutdownComplete {fn : Fun} (h : s.Queued qs) : Answers (State.Queued qs) (execShutdownComplete fn s) := by
  unfold Machine.execShutdownComplete
  extract_lets
  refine .ite (.next h) (.ite (.ite (.next h) (.next h.modCtrl)) (.ite (.next h) ?_))
  split
  · exact .ite (.ite (.next h.modCtrl) (.next h)) (.next h.writeSifj.seal)
  · exact .next h.writeSifj.seal

theorem State.Queued.writeCc {f : Fun} {v : Word} (h : s.Queued qs) : (s.writeCc f v).Queued qs :=
  .ite h.enable (.ite h.beginReset (.ite h.modCtrl (.ite h.modCtrl.shutdown h.modCtrl.modCtrl)))

theorem State.Queued.bar0Write {f : Fun} {off : Nat} {v mask : Word} {len : Nat} (h : s.Queued qs) : (s.bar0Write f off v mask len).Queued qs := by
  unfold State.bar0Write
  extract_lets _ _ _ _ _ _ _ _ s1
  have h1 : s1.Queued qs := h.setTab
  split
  · exact h.modCtrl
  · exact h.modCtrl
  · exact h.writeCc
  · exact h.modCtrl
  · exact h.modCtrl
  · exact h.modCtrl
  · exact h.modCtrl
  · exact h.modCtrl
  · exact .ite (.ite h1.unmaskVector h1) (.ite (.ite h.sqBell h.cqBell) h)

theorem State.Queued.execBar0Access {fn : Fun} {off len : Nat} {write : Option (BitVec 64)} (h : s.Queued qs) :
    Answers (State.Queued qs) (execBar0Access fn off len write s) := by
  unfold Machine.execBar0Access
  refine .ite (.next h) ?_
  extract_lets _ s1
  have h1 : s1.Queued qs := h.count64
  refine .ite ?_ ?_
  · split
    · exact .next h1.reply.reply
    · exact .next h1.bar0Write.bar0Write
  · refine .ite ?_ ?_
    · split
      · exact .next h1.reply
      · exact .next h1.reply
    · split
      · exact .next h1.reply
      · exact .next h1.bar0Write

/-! ### FieldDie -/

theorem State.Queued.modField {g : Field → Field} (h : s.Queued qs) : (s.modField g).Queued qs := h.rest

theorem State.Queued.wakeOutputs {m : Nat} {on : Bool} (h : s.Queued qs) : (s.wakeOutputs m on).Queued qs :=
  h.foldl (fun _ ht _ => .ite ht.modField.emit ht)

theorem State.Queued.fire {m : Word} (h : s.Queued qs) : (s.fire m).Queued qs := .ite h h.modField.emit.wakeOutputs

theorem State.Queued.fireRing (h : s.Queued qs) : s.fireRing.Queued qs := .ite h.fire h

theorem State.Queued.produce {l : List (Nat × Nat × List Byte)} (h : s.Queued qs) : (s.produce l).Queued qs :=
  h.modField.fireRing

theorem State.Queued.record {time : BitVec 64} {src st v : Nat} (h : s.Queued qs) : (s.record time src st v).Queued qs :=
  h.produce

theorem State.Queued.health (h : s.Queued qs) : s.health.Queued qs := h.modField.modField.fireRing

theorem State.Queued.syncFlags (h : s.Queued qs) : s.syncFlags.Queued qs := .ite h h.health

theorem State.Queued.syncEntry {before : Option (BitVec 64)} (h : s.Queued qs) : (s.syncEntry before).Queued qs :=
  h.modField.fireRing

theorem State.Queued.execDiscreteInputChange {n : Nat} {level : Bool} {t : BitVec 64} (h : s.Queued qs) :
    Answers (State.Queued qs) (execDiscreteInputChange n level t s) :=
  .ite (.next h) (.next (.fire (.ite h.modField.record h.modField)))

theorem State.Queued.execSpeedPulse {widthUs : Nat} (h : s.Queued qs) : Answers (State.Queued qs) (execSpeedPulse widthUs s) :=
  .ite (.next h) (.next h.modField.fire)

theorem State.Queued.execSpeedSample (h : s.Queued qs) : Answers (State.Queued qs) (execSpeedSample s) :=
  .ite (.next h) (.next (.modField (.ite h.record h)))

theorem State.Queued.execCanFrameReceived {bus : Nat} {ident : Word} {fd brs esi : Bool} {dlc : Nat} {data : List Byte} (h : s.Queued qs) :
    Answers (State.Queued qs) (execCanFrameReceived bus ident fd brs esi dlc data s) := by
  unfold Machine.execCanFrameReceived
  extract_lets _ _ _ _ _ _ _ _ s1
  have h1 : s1.Queued qs := by
    dsimp only [s1]
    refine .ite (.ite h.produce h.produce) ?_
    split
    · exact h.modField
    · exact h.produce
  exact .ite (.next h) (.next h1.fire)

theorem State.Queued.execCanBusStateChange {bus st tec rec : Nat} (h : s.Queued qs) :
    Answers (State.Queued qs) (execCanBusStateChange bus st tec rec s) :=
  .ite (.next h) (.next h.modField.record)

theorem State.Queued.execEthFrameReceived {port : Nat} {frame : List Byte} (h : s.Queued qs) :
    Answers (State.Queued qs) (execEthFrameReceived port frame s) := by
  unfold Machine.execEthFrameReceived
  extract_lets
  refine .ite (.next h) ?_
  split
  · exact .next h
  · exact .next h.modField.produce.fire

theorem State.Queued.execEthernetLinkChange {port : Nat} {up : Bool} (h : s.Queued qs) :
    Answers (State.Queued qs) (execEthernetLinkChange port up s) :=
  .ite (.next h) (.next h.modField.record)

theorem State.Queued.onField {g : State → State} (h : s.Queued qs) (hg : ∀ t, t.Queued qs → (g t).Queued qs) : Answers (State.Queued qs) (onField s g) :=
  .ite (.next (hg _ h)) (.next h)

theorem State.Queued.execFieldTokenRefill {n : Nat} (h : s.Queued qs) : Answers (State.Queued qs) (execFieldTokenRefill n s) :=
  h.onField (fun _ ht => ht.modField)

theorem State.Queued.execTimeSyncInterval (h : s.Queued qs) : Answers (State.Queued qs) (execTimeSyncInterval s) :=
  h.onField (fun _ ht => ht.syncEntry)

theorem State.Queued.execHealthInterval {mv temp : Nat} (h : s.Queued qs) : Answers (State.Queued qs) (execHealthInterval mv temp s) :=
  h.onField (fun _ ht => ht.modField.health)

theorem State.Queued.execLegalTimeStore (h : s.Queued qs) : Answers (State.Queued qs) (execLegalTimeStore s) :=
  h.onField (fun _ ht => ht.modField)

theorem State.Queued.execRtcAlarm (h : s.Queued qs) : Answers (State.Queued qs) (execRtcAlarm s) :=
  h.onField (fun _ ht => .ite ht.fire ht)

theorem State.Queued.execSlewComplete (h : s.Queued qs) : Answers (State.Queued qs) (execSlewComplete s) :=
  h.onField (fun _ ht => .ite ht.modField ht)

theorem State.Queued.execWakeRepeat (h : s.Queued qs) : Answers (State.Queued qs) (execWakeRepeat s) :=
  h.onField (fun _ ht => .ite ht.emit ht)

theorem State.Queued.execWakeOutputTimeout {again : Bool} (h : s.Queued qs) : Answers (State.Queued qs) (execWakeOutputTimeout again s) :=
  h.onField (fun _ ht => .ite (.ite ht.wakeOutputs ht) ht.wakeOutputs)

theorem State.Queued.execRingEntrySend (h : s.Queued qs) : Answers (State.Queued qs) (execRingEntrySend s) := by
  unfold Machine.execRingEntrySend
  refine State.Queued.onField h (fun _ ht => ?_)
  extract_lets
  refine .ite ht ?_
  split
  · exact ht
  · exact ht.modField.emit

theorem State.Queued.execFieldColdStart (h : s.Queued qs) : Answers (State.Queued qs) (execFieldColdStart s) :=
  .ite (.next h) (.next h.modField.record.syncFlags)

theorem State.Queued.fieldAck {q : BitVec 32} {result : Nat} (h : s.Queued qs) : (s.fieldAck q result).Queued qs :=
  h.modField.emit

theorem State.Queued.rxErr (h : s.Queued qs) : s.rxErr.Queued qs := h.modField

theorem State.Queued.fieldReceive {m : List Byte} {act : State → State × Option Nat} (h : s.Queued qs) (hact : ∀ t, t.Queued qs → (act t).1.Queued qs)
    : (s.fieldReceive m act).Queued qs := by
  unfold State.fieldReceive
  refine .ite h (.ite h.rxErr ?_)
  extract_lets
  refine .ite ?_ ?_
  · split
    · next e =>
        have h1 := (hact _ h.modField).ofFst e
        split
        · exact h1.fieldAck
        · exact h1
  · refine .ite ?_ h.rxErr
    split
    · exact h.emit
    · exact h

theorem State.Queued.config {b : List Byte} (h : s.Queued qs) : (s.config b).1.Queued qs :=
  .iteFst (.fst h) (.iteFst (.fst h) (.iteFst (.fst h) (.iteFst (.fst h.modField.syncFlags) (.fst h.modField))))

theorem State.Queued.execConfig {msg : List Byte} (h : s.Queued qs) : Answers (State.Queued qs) (execConfig msg s) :=
  .ite (.next (h.fieldReceive (fun _ ht => ht.config))) (.next h)

theorem State.Queued.timeSet {v : BitVec 64} {quality : Nat} (h : s.Queued qs) : (s.timeSet v quality).1.Queued qs :=
  .iteFst (.fst h) (.iteFst (.fst h.modField.syncEntry.syncFlags) (.fst h.modField.syncEntry.syncFlags))

theorem State.Queued.execTimeSet {msg : List Byte} (h : s.Queued qs) : Answers (State.Queued qs) (execTimeSet msg s) :=
  .ite (.next (h.fieldReceive (fun _ ht => ht.timeSet))) (.next h)

theorem State.Queued.execWakePolicy {msg : List Byte} (h : s.Queued qs) : Answers (State.Queued qs) (execWakePolicy msg s) :=
  .ite (.next (h.fieldReceive (fun _ ht => .fst ht.modField))) (.next h)

theorem State.Queued.txCan {q : BitVec 32} {b : List Byte} (h : s.Queued qs) : (s.txCan q b).1.Queued qs := by
  unfold State.txCan
  extract_lets
  refine .iteFst (.fst h) (.iteFst (.fst h) (.iteFst (.fst h) (.iteFst (.fst h) ?_)))
  split
  · exact .fst h
  · exact .fst h.modField

theorem State.Queued.execTxCan {msg : List Byte} (h : s.Queued qs) : Answers (State.Queued qs) (execTxCan msg s) :=
  .ite (.next (h.fieldReceive (fun _ ht => ht.txCan))) (.next h)

theorem State.Queued.execCanTransmitDone {ok : Bool} (h : s.Queued qs) : Answers (State.Queued qs) (execCanTransmitDone ok s) := by
  unfold Machine.execCanTransmitDone
  refine State.Queued.onField h (fun _ ht => ?_)
  split
  · exact ht
  · exact .fieldAck (.ite ht.modField.modField.emit ht.modField)

theorem State.Queued.fieldSegment {m : List Byte} (h : s.Queued qs) : (s.fieldSegment m).1.Queued qs :=
  .iteFst (.fst h) (.iteFst (.fst h) (.fst h.modField.syncFlags))

theorem State.Queued.execFieldImage {msg : List Byte} (h : s.Queued qs) : Answers (State.Queued qs) (execFieldImage msg s) :=
  .ite (.next (h.fieldReceive (fun _ ht => ht.fieldSegment))) (.next h)

theorem State.Queued.execFieldImageVerified {ok : Bool} {version : Word} (h : s.Queued qs) :
    Answers (State.Queued qs) (execFieldImageVerified ok version s) :=
  h.onField (fun _ ht => .ite ht ht.modField.syncFlags.fieldAck)

theorem State.Queued.activatePatch {starts : Bool} (h : s.Queued qs) : (s.activatePatch starts).1.Queued qs :=
  .iteFst (.fst h) (.iteFst (.fst h) (.fst h.modField.modField.syncFlags))

theorem State.Queued.execFieldImageActivate {msg : List Byte} {starts : Bool} (h : s.Queued qs) :
    Answers (State.Queued qs) (execFieldImageActivate msg starts s) :=
  .ite (.next (h.fieldReceive (fun _ ht => ht.activatePatch))) (.next h)

theorem State.Queued.execHostAck {msg : List Byte} (h : s.Queued qs) : Answers (State.Queued qs) (execHostAck msg s) := by
  unfold Machine.execHostAck
  refine .ite (.next h) (.ite (.next h.rxErr) ?_)
  extract_lets _ _ s1
  have h1 : s1.Queued qs := .ite h.rxErr h.modField
  exact .ite (.next h1.modField.modField.emit) (.next h1.modField)

theorem State.Queued.elapse {us : Nat} (h : s.Queued qs) : (s.elapse us).Queued qs := h.rest

theorem State.Queued.execDeviceTimeTick {aon : Bool} (h : s.Queued qs) : Answers (State.Queued qs) (execDeviceTimeTick aon s) := by
  unfold Machine.execDeviceTimeTick
  refine .ite (.next h) (.ite ?_ (.next h.elapse))
  extract_lets _ s1
  have h1 : s1.Queued qs := h.elapse
  exact .next h1.rest

/-! ### Keys -/

theorem State.Queued.journalKey {old : State} {n : Nat} (h : s.Queued qs) : (s.journalKey old n).Queued qs := .ite h h.commit

theorem State.Queued.keyCmdWrite {m : Master} {v : Word} (h : s.Queued qs) : (keyCmdWrite m v s).Queued qs := h.keyCmdEffect.journalKey

theorem State.Queued.keyCmd {m : Master} {op : Nat} {v : Word} (h : s.Queued qs) : Answers (State.Queued qs) (keyCmd m op v s) :=
  .next (h.write (fun _ _ => .none) (fun _ _ ht => ht.keyCmdWrite))

theorem State.Queued.execDerive {m : Master} {v : Word} (h : s.Queued qs) : Answers (State.Queued qs) (execDerive m v s) :=
  h.keyCmd

theorem State.Queued.execErase {m : Master} {v : Word} (h : s.Queued qs) : Answers (State.Queued qs) (execErase m v s) :=
  h.keyCmd

theorem State.Queued.execInstall {m : Master} {v : Word} (h : s.Queued qs) : Answers (State.Queued qs) (execInstall m v s) :=
  h.keyCmd

theorem State.Queued.execEraseAll {m : Master} {v : Word} (h : s.Queued qs) : Answers (State.Queued qs) (execEraseAll m v s) :=
  h.keyCmd

theorem State.Queued.execKeyOpRefused {m : Master} {v : Word} (h : s.Queued qs) : Answers (State.Queued qs) (execKeyOpRefused m v s) :=
  h.keyCmd

theorem State.Queued.deriveNext {n purpose fn nsid : Nat} (h : s.Queued qs) : (s.deriveNext n purpose fn nsid).Queued qs := by
  unfold State.deriveNext
  extract_lets
  exact h.loadKey.commit

theorem State.Queued.rederive (h : s.Queued qs) : s.rederive.Queued qs :=
  h.foldl (fun _ ht _ => .ite ht ht.deriveNext)

theorem State.Queued.reinstallRoot (h : s.Queued qs) : s.reinstallRoot.Queued qs :=
  .ite h (AllSome.getD h.installBlob h)

/-! ### Events -/

theorem State.Queued.openSpan {c : Nat} {r : Option CmdRef} (h : s.Queued qs) : (s.openSpan c r).Queued qs := by
  unfold State.openSpan
  refine .ite h ?_
  extract_lets _ _ _ s1
  have h1 : s1.Queued qs := h.rest.count
  exact .ite h1.raise h1

theorem State.Queued.closeSpan {c : Nat} (h : s.Queued qs) : (s.closeSpan c).Queued qs := h.rest

theorem State.Queued.execEvidentialBoundPassed {c : CmdRef} (h : s.Queued qs) : Answers (State.Queued qs) (execEvidentialBoundPassed c s) := by
  unfold Machine.execEvidentialBoundPassed
  split
  · exact .ite (.next h.rest.openSpan) (.next h)
  · exact .next h

theorem State.Queued.execAvailabilityTick (h : s.Queued qs) : Answers (State.Queued qs) (execAvailabilityTick s) := by
  unfold Machine.execAvailabilityTick
  extract_lets _ _ _ _ s1
  have h1 : s1.Queued qs := h.rest.count64
  exact .ite (.next h.rest) (.next (.ite h1.count64 h1))

theorem State.Queued.writeAcct (h : s.Queued qs) : s.writeAcct.Queued qs := h.rest

theorem State.Queued.execAccountingLogWrite (h : s.Queued qs) : Answers (State.Queued qs) (execAccountingLogWrite s) :=
  .ite (.next h) (.next h.writeAcct)

theorem State.Queued.evtCtrlEffect {v : Word} {d : RegDef} (h : s.Queued qs) : (evtCtrlEffect v d s).Queued qs := by
  unfold Machine.evtCtrlEffect
  extract_lets s1 s2
  have h1 : s1.Queued qs := .ite h h.breakMs
  have h2 : s2.Queued qs := h1.store
  exact .ite h2.setReg.setReg.setReg h2

theorem State.Queued.execRearm {m : Master} {v : Word} (h : s.Queued qs) : Answers (State.Queued qs) (execRearm m v s) :=
  .next (h.write (fun _ _ => .none) (fun _ _ ht => ht.evtCtrlEffect))

theorem State.Queued.evtAlarmEffect {v : Word} (h : s.Queued qs) : (evtAlarmEffect v s).Queued qs := h.setReg

theorem State.Queued.revertRoutes (h : s.Queued qs) : s.revertRoutes.Queued qs :=
  h.foldl (fun _ ht _ => .ite ht.setReg.count.raise.relevel ht)

theorem State.Queued.beginAlarm {n : Nat} (h : s.Queued qs) : (s.beginAlarm n).Queued qs := by
  unfold State.beginAlarm
  extract_lets s1 _ s2 _ s3 s4
  have h1 : s1.Queued qs := .ite h h.raiseAlarm
  have h2 : s2.Queued qs := .ite h1.rest h1
  have h3 : s3.Queued qs := .ite h2.cryptoAlarm h2.rest
  have h4 : s4.Queued qs := h3.syncTemp.syncSupply
  exact .ite h1.rederive (.ite h4.openSpan h4)

theorem State.Queued.execAlarm {n : Nat} (h : s.Queued qs) : Answers (State.Queued qs) (execAlarm n s) :=
  .ite (.next h) (.next h.beginAlarm)

theorem State.Queued.endAlarm {n : Nat} (h : s.Queued qs) : (s.endAlarm n).Queued qs := by
  unfold State.endAlarm
  extract_lets _ _ s1 s2 s3 s4 s5
  have h1 : s1.Queued qs := h.rest.setReg
  have h2 : s2.Queued qs := h1.syncTemp.syncSupply
  have h3 : s3.Queued qs := h2.reinstallRoot
  have h4 : s4.Queued qs := .ite h3.setReg.rederive h3
  have h5 : s5.Queued qs := .ite h4.closeSpan h2
  exact .raise (.ite h5.rest h5)

theorem State.Queued.execAlarmEnd {n : Nat} (h : s.Queued qs) : Answers (State.Queued qs) (execAlarmEnd n s) :=
  .ite (.next h.endAlarm) (.next h)

/-! ### Frl -/

theorem State.Queued.modFrl {g : Frl → Frl} (h : s.Queued qs) : (s.modFrl g).Queued qs := h.rest

theorem State.Queued.sbAnswer {eid tag op : Byte} {status : Nat} {data : List Byte} (h : s.Queued qs) :
    (s.sbAnswer eid tag op status data).Queued qs :=
  .deliver (.ite h.rest.count.raise h.rest)

theorem State.Queued.patchMsg (h : s.Queued qs) : s.patchMsg.Queued qs := by
  unfold State.patchMsg
  split
  · exact .ite h.modFrl h.modFrl
  · exact h

theorem State.Queued.pumpFront {n : Nat} (h : s.Queued qs) : (s.pumpFront n).Queued qs := by
  induction n generalizing s with
  | zero => exact h
  | succ n ih =>
    unfold State.pumpFront
    refine .ite h ?_
    extract_lets s1
    have h1 : s1.Queued qs := h.patchMsg
    split
    · exact h1
    · exact ih h1.modFrl.emit

theorem State.Queued.sendField {ty flags : Nat} {body : List Byte} {o : MsgOwner} (h : s.Queued qs) : (s.sendField ty flags body o).Queued qs :=
  h.modFrl.pumpFront

theorem State.Queued.sendAck {flags : Nat} {a r : BitVec 32} (h : s.Queued qs) : (s.sendAck flags a r).Queued qs :=
  h.modFrl.emit

theorem State.Queued.execHostResendTimeout (h : s.Queued qs) : Answers (State.Queued qs) (execHostResendTimeout s) :=
  .ite (.next h) (.next (.modFrl (h.foldl (fun _ ht _ => ht.emit))))

theorem State.Queued.sendResume (h : s.Queued qs) : s.sendResume.Queued qs := h.sendAck

theorem State.Queued.frontLink (h : s.Queued qs) : s.frontLink.Queued qs :=
  .ite h (.pumpFront (.modFrl (h.setReg.modField.wakeOutputs.raise.modFrl.sendResume.foldl (fun _ ht _ => ht.emit))))

theorem State.Queued.frontDown (h : s.Queued qs) : s.frontDown.Queued qs := .ite h.modField.setReg.raise h.modField

theorem State.Queued.execFrontLinkDown (h : s.Queued qs) : Answers (State.Queued qs) (execFrontLinkDown s) :=
  .ite (.next h.frontDown) (.next h)

theorem State.Queued.frlCtrlEffect {v : Word} {d : RegDef} (h : s.Queued qs) : (frlCtrlEffect v d s).Queued qs := by
  unfold Machine.frlCtrlEffect
  extract_lets s1
  have h1 : s1.Queued qs := h.store
  exact .ite h1.frontDown h1

theorem State.Queued.execRetrain {m : Master} {v : Word} (h : s.Queued qs) : Answers (State.Queued qs) (execRetrain m v s) :=
  .next (h.write (fun _ _ => .none) (fun _ _ ht => ht.frlCtrlEffect))

theorem State.Queued.execResumeRepeat (h : s.Queued qs) : Answers (State.Queued qs) (execResumeRepeat s) :=
  .ite (.next h.sendResume) (.next h)

theorem State.Queued.dropMsg {slot : Nat} (h : s.Queued qs) : (s.dropMsg slot).Queued qs := h.count.raise

theorem State.Queued.takeHealth {b : List Byte} (h : s.Queued qs) : (s.takeHealth b).Queued qs :=
  h.setReg.modFrl.learnTime

theorem State.Queued.acceptEntry {m : List Byte} (h : s.Queued qs) : (s.acceptEntry m).Queued qs := by
  unfold State.acceptEntry
  extract_lets s1 _ s2
  have h1 : s1.Queued qs := h.setReg.count64
  have h2 : s2.Queued qs := .ite h1.setReg.takeHealth h1.setReg
  exact .ite h2 h2.deliver

theorem State.Queued.frlBad {m : List Byte} (h : s.Queued qs) : (s.frlBad m).2.Queued qs := .snd h.scanProt.clearProt

theorem State.Queued.fromField {m : List Byte} {free : State → State} (h : s.Queued qs) (hfree : ∀ t, t.Queued qs → (free t).Queued qs) :
    (s.fromField m free).Queued qs := by
  unfold State.fromField
  refine .ite h ?_
  split
  · next ea eb => exact (h.frlBad.ofSnd eb).dropMsg
  · next ea eb => exact (h.frlBad.ofSnd eb).dropMsg
  · next ea eb =>
      have h1 := h.frlBad.ofSnd eb
      split
      · exact hfree _ h1.count64
      · refine .ite h1 (.ite h1.acceptEntry ?_)
        extract_lets s2
        have h2 : s2.Queued qs := h1.dropMsg
        exact .ite h2 h2.sendAck.count

theorem State.Queued.execEventRecord {msg : List Byte} (h : s.Queued qs) : Answers (State.Queued qs) (execEventRecord msg s) :=
  .ite (.next (h.fromField (fun _ ht => ht))) (.next h)

theorem State.Queued.execCanBatch {msg : List Byte} (h : s.Queued qs) : Answers (State.Queued qs) (execCanBatch msg s) :=
  .ite (.next (h.fromField (fun _ ht => ht))) (.next h)

theorem State.Queued.execEthFragment {msg : List Byte} (h : s.Queued qs) : Answers (State.Queued qs) (execEthFragment msg s) :=
  .ite (.next (h.fromField (fun _ ht => ht))) (.next h)

theorem State.Queued.execTimeSync {msg : List Byte} (h : s.Queued qs) : Answers (State.Queued qs) (execTimeSync msg s) :=
  .ite (.next (h.fromField (fun _ ht => ht))) (.next h)

theorem State.Queued.execFieldHealth {msg : List Byte} (h : s.Queued qs) : Answers (State.Queued qs) (execFieldHealth msg s) :=
  .ite (.next (h.fromField (fun _ ht => ht))) (.next h)

theorem State.Queued.timeTaken {h : HostMsg} (hs : s.Queued qs) : (s.timeTaken h).Queued qs := by
  unfold State.timeTaken
  extract_lets
  split
  · exact hs.learnTime
  · exact hs.learnTime

theorem State.Queued.ackOwner {h : HostMsg} {r : Nat} (hs : s.Queued qs) : (s.ackOwner h r).Queued qs := by
  unfold State.ackOwner
  split
  · exact .ite hs.timeTaken hs
  · exact hs.setReg.raise
  · exact .sbAnswer (.ite hs.raise hs)

theorem State.Queued.takeAck {m : List Byte} (h : s.Queued qs) : (s.takeAck m).Queued qs := by
  unfold State.takeAck
  extract_lets
  refine .ite h.setReg.setReg.modFrl ?_
  split
  · exact h
  · exact h.modFrl.ackOwner.pumpFront

theorem State.Queued.execAck {msg : List Byte} (h : s.Queued qs) : Answers (State.Queued qs) (execAck msg s) :=
  .ite (.next (h.fromField (fun _ ht => ht.takeAck))) (.next h)

theorem State.Queued.frlMsgCond {m : Master} {off : Nat} {v : Word} (h : s.Queued qs) : AllSome (State.Queued qs) (frlMsgCond m off v s) :=
  .ite (.some h.refuse) .none

theorem State.Queued.frlMsgEffect {m : Master} {v : Word} {d : RegDef} (h : s.Queued qs) : (frlMsgEffect m v d s).Queued qs := by
  unfold Machine.frlMsgEffect
  extract_lets s1
  have h1 : s1.Queued qs := h.store
  exact .ite h1 (.ite h1.setReg.refuse h1.setReg.sendField)

theorem State.Queued.execFrlMsgSend {m : Master} {v : Word} (h : s.Queued qs) : Answers (State.Queued qs) (execFrlMsgSend m v s) :=
  .next (h.write (fun _ ht => ht.frlMsgCond) (fun _ _ ht => ht.frlMsgEffect))

theorem State.Queued.execFrlMsgTimeout (h : s.Queued qs) : Answers (State.Queued qs) (execFrlMsgTimeout s) :=
  .ite (.next h) (.next h.modFrl.setReg.raise)

theorem State.Queued.sealBlocks {es : List (BitVec 32 × List Byte × BitVec 64 × Bool)} {n : Nat} (h : s.Queued qs) :
    (s.sealBlocks es n).2.Queued qs := by
  induction n generalizing s es with
  | zero => exact .snd h
  | succ n ih => exact .snd (ih (.modFrl (.useBlocks (.ite h.useBlocks.deriveNext h))))

theorem State.Queued.execCaptureAppend (h : s.Queued qs) : Answers (State.Queued qs) (execCaptureAppend s) := by
  unfold Machine.execCaptureAppend
  extract_lets
  refine .ite (.next h) ?_
  refine .ite (.next h.setField) (.ite (.next h.raise) (.ite (.next h.count) (.ite (.next h) ?_)))
  split
  · next e => exact .next (h.useKey.ofSnd e)
  · next e =>
      extract_lets
      split
      · next e2 =>
          extract_lets _ s1
          have h1 : s1.Queued qs := ((h.useKey.ofSnd e).sealBlocks.ofSnd e2).takeTokens.count64.modFrl
          exact .next h1.rest.stageAll

theorem State.Queued.execAppendDurable {k : Nat} (h : s.Queued qs) : Answers (State.Queued qs) (execAppendDurable k s) := by
  unfold Machine.execAppendDurable
  split
  · exact .next h
  · refine .ite (.next h) ?_
    extract_lets s1
    have h1 : s1.Queued qs := h.closeAppend.closeSpan
    split
    · exact .next h1.modFrl
    · exact .next (.ite h1.modFrl.setReg.sendAck h1.modFrl)

theorem State.Queued.execFieldAppendBoundPassed (h : s.Queued qs) : Answers (State.Queued qs) (execFieldAppendBoundPassed s) := by
  unfold Machine.execFieldAppendBoundPassed
  split
  · exact .ite (.next h.openSpan) (.next h)
  · exact .next h

theorem State.Queued.execVf3p3Loss (h : s.Queued qs) : Answers (State.Queued qs) (execVf3p3Loss s) :=
  .ite (.next h) (.next h.modField.frontDown.modFrl)

/-! ### Admin -/

theorem State.Queued.adminCmd {c : NvmeCmd} {pfOnly : Bool} {f : State → State} (h : s.Queued qs) (hf : ∀ t, t.Queued qs → (f t).Queued qs) :
    Answers (State.Queued qs) (adminCmd c s pfOnly f) :=
  h.onAdmin (fun _ ht => .ite ht.finish (.ite ht.finish (hf _ ht)))

theorem State.Queued.answerData {c : NvmeCmd} {bs : List Byte} {st : Status} (h : s.Queued qs) : (s.answerData c bs st).Queued qs := by
  unfold State.answerData
  split
  · exact h.finish
  · split
    · next e => exact (h.xferOk.ofSnd e).finish
    · next e => exact (h.xferOk.ofSnd e).hostWrite.finish

theorem State.Queued.withData {c : NvmeCmd} {len : Nat} {f : State → State} (h : s.Queued qs) (hf : ∀ t, t.Queued qs → (f t).Queued qs) :
    (s.withData c len f).Queued qs := by
  unfold State.withData
  have hr : RowsQueued qs [Machine.ptrRow c len, Machine.fetchRow c] := .cons .ptrRow (.cons .fetchRow .nil)
  split
  · next e => exact ((h.firstRow hr).of_eq e).finish
  · exact hf _ h

theorem State.Queued.execCreateIoSubmissionQueue {c : NvmeCmd} (h : s.Queued qs) : Answers (State.Queued qs) (execCreateIoSubmissionQueue c s) := by
  unfold Machine.execCreateIoSubmissionQueue
  refine State.Queued.adminCmd h (fun _ ht => ?_)
  extract_lets
  refine .ite ht.finish (.ite ht.finish (.ite ht.finish ?_))
  split
  · exact ht.finish
  · exact .ite ht.finish (.ite ht.finish ht.modCtrl.finish)

theorem State.Queued.execCreateIoCompletionQueue {c : NvmeCmd} (h : s.Queued qs) : Answers (State.Queued qs) (execCreateIoCompletionQueue c s) := by
  unfold Machine.execCreateIoCompletionQueue
  refine State.Queued.adminCmd h (fun _ ht => ?_)
  extract_lets
  refine .ite ht.finish (.ite ht.finish (.ite ht.finish ?_))
  split
  · exact ht.finish
  · exact .ite ht.finish (.ite ht.finish ht.modCtrl.finish)

theorem State.Queued.execDeleteIoSubmissionQueue {c : NvmeCmd} (h : s.Queued qs) : Answers (State.Queued qs) (execDeleteIoSubmissionQueue c s) := by
  unfold Machine.execDeleteIoSubmissionQueue
  refine State.Queued.adminCmd h (fun _ ht => ?_)
  extract_lets
  split
  · exact .ite ht.finish ht.addCmd.modSq.endDelete
  · exact ht.finish

theorem State.Queued.execDeleteIoCompletionQueue {c : NvmeCmd} (h : s.Queued qs) : Answers (State.Queued qs) (execDeleteIoCompletionQueue c s) :=
  h.adminCmd (fun _ ht => .ite ht.finish (.ite ht.finish ht.modCtrl.finish))

theorem State.Queued.execAbort {c : NvmeCmd} (h : s.Queued qs) : Answers (State.Queued qs) (execAbort c s) := by
  unfold Machine.execAbort
  refine State.Queued.adminCmd h (fun _ ht => ?_)
  extract_lets
  split
  · exact .ite ht.finish ht.modSq.finish.finish
  · exact ht.finish

theorem State.Queued.putRec {g : SlotRec → SlotRec} (h : s.Queued qs) : (s.putRec g).Queued qs := h.rest

theorem State.Queued.afterLog {f : Fun} {lid off len : Nat} {clear rae : Bool} (h : s.Queued qs) :
    (s.afterLog f lid off len clear rae).Queued qs := by
  unfold State.afterLog
  extract_lets s1 s2
  have h1 : s1.Queued qs := .ite h.modLogs h
  have h2 : s2.Queued qs := .ite h1.modLogs h1
  refine .ite h1 ?_
  split
  · exact h2.unmaskAsync
  · exact h2

theorem State.Queued.execGetLogPage {c : NvmeCmd} (h : s.Queued qs) : Answers (State.Queued qs) (execGetLogPage c s) := by
  unfold Machine.execGetLogPage
  refine State.Queued.adminCmd h (fun _ ht => ?_)
  extract_lets
  split
  · exact ht.finish
  · refine .ite ht.finish ?_
    extract_lets _ s1
    have h1 : s1.Queued qs := ht.answerData
    exact .ite h1.afterLog h1

theorem State.Queued.execIdentify {c : NvmeCmd} (h : s.Queued qs) : Answers (State.Queued qs) (execIdentify c s) := by
  unfold Machine.execIdentify
  refine State.Queued.adminCmd h (fun _ ht => ?_)
  split
  · exact ht.finish
  · exact ht.answerData

theorem State.Queued.modFeat {f : Fun} {g : Features → Features} (h : s.Queued qs) : (s.modFeat f g).Queued qs :=
  h.modCtrl

theorem State.Queued.setDefault {c : NvmeCmd} (h : s.Queued qs) : AllSome (State.Queued qs) (s.setDefault c) :=
  .ite .none (.ite .none (.some h.modSq))

theorem State.Queued.setFeature {c : NvmeCmd} {fid : Nat} (h : s.Queued qs) : AllOk (fun x => x.1.Queued qs) (s.setFeature c fid) := by
  unfold State.setFeature
  extract_lets
  split
  · exact .ok (.fst h.modFeat)
  · exact .ite .error (.ok (.fst h.modFeat))
  · split
    · exact .error
    · exact .ok (.fst h.modFeat)
  · exact .ite .error (.ok (.fst h.modFeat))
  · exact .ok (.fst h)
  · exact .ok (.fst h.modFeat)
  · exact .ite .error (.ok (.fst h.modFeat))
  · exact .ok (.fst h)
  · exact .ok (.fst h.modFeat)
  · split
    · next e => exact .ok (.fst (h.setDefault.of_eq e))
    · exact .error
  · exact .error

theorem State.Queued.setTimestamp {c : NvmeCmd} (h : s.Queued qs) : (s.setTimestamp c).Queued qs :=
  .ite h.finish (h.withData (fun _ ht => ht.sendField.finish))

theorem State.Queued.setFeatures {c : NvmeCmd} {fid : Nat} (h : s.Queued qs) : (s.setFeatures c fid).Queued qs := by
  unfold State.setFeatures
  refine .ite h.finish (.ite h.finish (.ite h.setTimestamp ?_))
  split
  · exact h.finish
  · next e => exact (h.setFeature.of_eq e).finish

theorem State.Queued.getFeatures {c : NvmeCmd} {fid : Nat} (h : s.Queued qs) : (s.getFeatures c fid).Queued qs := by
  unfold State.getFeatures
  refine .ite h.finish (.ite h.answerData ?_)
  split
  · exact h.finish
  · exact h.finish

theorem State.Queued.execSetFeatures {c : NvmeCmd} (h : s.Queued qs) : Answers (State.Queued qs) (execSetFeatures c s) :=
  h.adminCmd (fun _ ht => ht.setFeatures)

theorem State.Queued.execGetFeatures {c : NvmeCmd} (h : s.Queued qs) : Answers (State.Queued qs) (execGetFeatures c s) :=
  h.adminCmd (fun _ ht => ht.getFeatures)

theorem State.Queued.execSetFeaturesNumberOfQueues {c : NvmeCmd} (h : s.Queued qs) :
    Answers (State.Queued qs) (execSetFeaturesNumberOfQueues c s) :=
  h.adminCmd (fun _ ht => ht.setFeatures)

theorem State.Queued.execSetFeaturesTimestamp {c : NvmeCmd} (h : s.Queued qs) : Answers (State.Queued qs) (execSetFeaturesTimestamp c s) :=
  h.adminCmd (fun _ ht => ht.setFeatures)

theorem State.Queued.execGetFeaturesTimestamp {c : NvmeCmd} (h : s.Queued qs) : Answers (State.Queued qs) (execGetFeaturesTimestamp c s) :=
  h.adminCmd (fun _ ht => ht.getFeatures)

theorem State.Queued.execSetQueueAdmissionDefault {c : NvmeCmd} (h : s.Queued qs) : Answers (State.Queued qs) (execSetQueueAdmissionDefault c s) :=
  h.adminCmd (fun _ ht => ht.setFeatures)

theorem State.Queued.execGetQueueAdmissionDefault {c : NvmeCmd} (h : s.Queued qs) : Answers (State.Queued qs) (execGetQueueAdmissionDefault c s) :=
  h.adminCmd (fun _ ht => ht.getFeatures)

theorem State.Queued.execAsynchronousEventRequest {c : NvmeCmd} (h : s.Queued qs) : Answers (State.Queued qs) (execAsynchronousEventRequest c s) :=
  h.adminCmd (fun _ ht => .ite ht.finish ht.addCmd.modLogs.drainAsync)

theorem State.Queued.notice {f : Fun} {k info lid : Nat} (h : s.Queued qs) : (s.notice f k info lid).Queued qs :=
  .ite h.asyncEvent h

theorem State.Queued.nsChanged {f : Fun} {n : Nat} (h : s.Queued qs) : (s.nsChanged f n).Queued qs := h.modLogs.notice

theorem State.Queued.createNs {c : NvmeCmd} (h : s.Queued qs) : (s.createNs c).Queued qs := by
  unfold State.createNs
  extract_lets _ _ _ _ x1
  clear_value x1
  split
  · exact h.finish
  · exact h.finish
  · extract_lets
    refine .ite h.finish ?_
    split
    · exact .ite h.finish (.ite h.finish (.ite h.finish h.rest.commit.deriveNext.finish))
    · exact .ite h.finish (.ite h.finish h.rest.finish)
    · exact h.rest.finish

theorem State.Queued.deleteNs {x : Ns} (h : s.Queued qs) : (s.deleteNs x).Queued qs := by
  unfold State.deleteNs
  extract_lets s1 s2 _ _ _ s3
  have h1 : s1.Queued qs := h.unmapNs
  have h2 : s2.Queued qs := h1.eraseKey.commit
  have h3 : s3.Queued qs := by
    dsimp only [s3]
    split
    · exact h2.unstage
    · exact h
    · exact h.rest
  split
  · exact h3.rest.nsChanged
  · exact h3.rest

theorem State.Queued.unlessDeferred {c : NvmeCmd} {f : State → State} (h : s.Queued qs) (hf : ∀ t, t.Queued qs → (f t).Queued qs) :
    (s.unlessDeferred c f).Queued qs := by
  unfold State.unlessDeferred
  split
  · next e => exact (h.deferRow.of_eq e).finish
  · exact hf _ h

theorem State.Queued.execNamespaceManagement {c : NvmeCmd} (h : s.Queued qs) : Answers (State.Queued qs) (execNamespaceManagement c s) := by
  unfold Machine.execNamespaceManagement
  refine State.Queued.adminCmd h (fun _ ht => ?_)
  split
  · exact ht.withData (fun _ ht2 => ht2.createNs)
  · refine .ite (.finish (ht.foldl (fun _ ht2 _ => ht2.deleteNs))) (.unlessDeferred ht (fun _ ht2 => ?_))
    refine .ite ht2.finish ?_
    split
    · exact ht2.deleteNs.finish
    · exact ht2.finish
  · exact ht.finish

theorem State.Queued.setNsOwner {n : Nat} {f : Option Fun} (h : s.Queued qs) : (s.setNsOwner n f).Queued qs := h.rest

theorem State.Queued.attachNs {n f : Nat} (h : s.Queued qs) : AllOk (State.Queued qs) (s.attachNs n f) := by
  unfold State.attachNs
  extract_lets
  refine .ite (.ite .error (.ok h.rest)) ?_
  split
  · exact .error
  · exact .ite .error (.ite .error (.ite .error (.ite .error (.ok h.setNsOwner))))

theorem State.Queued.detachNs {n f : Nat} (h : s.Queued qs) : AllOk (State.Queued qs) (s.detachNs n f) := by
  unfold State.detachNs
  extract_lets
  refine .ite (.ite .error (.ite (.ok h.rest) .error)) ?_
  split
  · exact .error
  · exact .ite (.ok h.setNsOwner) .error

theorem State.Queued.overList {g : State → Nat → Except Status State} {l : List Nat} (h : s.Queued qs)
    (hg : ∀ t, t.Queued qs → ∀ x, AllOk (State.Queued qs) (g t x)) : AllOk (State.Queued qs) (s.overList g l) := by
  induction l generalizing s with
  | nil => exact .ok h
  | cons x l ih =>
    unfold State.overList
    split
    · next e => exact ih ((hg _ h _).of_eq e)
    · exact .error

theorem State.Queued.execNamespaceAttachment {c : NvmeCmd} (h : s.Queued qs) : Answers (State.Queued qs) (execNamespaceAttachment c s) := by
  unfold Machine.execNamespaceAttachment
  refine h.adminCmd fun _ ht => ?_
  extract_lets
  refine .ite ht.finish (.ite ht.finish (.unlessDeferred ht fun _ ht => .withData ht fun t ht => ?_))
  extract_lets
  refine .ite ht.finish ?_
  split
  · exact ht.finish
  · next e =>
      have h1 := (State.Queued.overList ht fun _ hu _ => .ite hu.attachNs hu.detachNs).of_eq e
      exact (h1.foldl fun _ ht _ => ht.nsChanged).finish

theorem State.Queued.formatNs {x : Ns} (h : s.Queued qs) : (s.formatNs x).Queued qs := by
  unfold State.formatNs
  extract_lets
  exact h.unmapNs.commit.unstage.deriveNext

theorem State.Queued.execFormatNvm {c : NvmeCmd} (h : s.Queued qs) : Answers (State.Queued qs) (execFormatNvm c s) := by
  unfold Machine.execFormatNvm
  refine State.Queued.adminCmd h (fun _ ht => ?_)
  extract_lets
  refine .ite ht.finish (.ite ht.finish (.ite ht.finish ?_))
  refine .ite (.finish (ht.foldl (fun _ ht2 _ => ht2.formatNs))) (.unlessDeferred ht (fun _ ht2 => ?_))
  refine .ite ht2.finish ?_
  split
  · exact ht2.finish
  · exact ht2.formatNs.finish

theorem State.Queued.endTest {f : Fun} {result : Nat} (h : s.Queued qs) : (s.endTest f result).Queued qs :=
  h.uncharge.modLogs

theorem State.Queued.execDeviceSelfTest {c : NvmeCmd} (h : s.Queued qs) : Answers (State.Queued qs) (execDeviceSelfTest c s) :=
  h.adminCmd (fun _ ht => .ite ht.endTest.finish (.ite ht.finish (.ite ht.finish ht.modLogs.finish)))

theorem State.Queued.testBanks (h : s.Queued qs) : s.testBanks.Queued qs :=
  .ite h (h.foldl (fun _ ht _ => .ite ht.modBank ht))

theorem State.Queued.execSelfTestSegment {fn : Fun} {units : List (Die × Nat)} {last pass : Bool} (h : s.Queued qs) :
    Answers (State.Queued qs) (execSelfTestSegment fn units last pass s) := by
  unfold Machine.execSelfTestSegment
  extract_lets _ _ _ s1
  have h1 : s1.Queued qs := h.uncharge
  exact .ite (.next h) (.ite (.next h.modLogs) (.ite (.next h1.endTest) (.ite (.next h1.endTest) (.next h1.testBanks.chargeDemand))))

theorem State.Queued.execInvalidCommandOpcode {c : NvmeCmd} (h : s.Queued qs) : Answers (State.Queued qs) (execInvalidCommandOpcode c s) := by
  unfold Machine.execInvalidCommandOpcode
  refine .ite (.next h) ?_
  split
  · next e => exact .next (h.fetchEntry.ofFst e).finish
  · next e => exact .next (h.fetchEntry.ofFst e)

/-! ### Firmware -/

theorem State.Queued.modFw {g : Firmware → Firmware} (h : s.Queued qs) : (s.modFw g).Queued qs := h.rest

theorem State.Queued.execFirmwareImageDownload {c : NvmeCmd} (h : s.Queued qs) : Answers (State.Queued qs) (execFirmwareImageDownload c s) :=
  h.adminCmd (fun _ ht => .ite ht.finish (ht.withData (fun _ ht2 => ht2.modFw.finish)))

theorem State.Queued.firmwareCommit {c : NvmeCmd} {acts : List Nat} (h : s.Queued qs) : Answers (State.Queued qs) (firmwareCommit c acts s) :=
  .ite (.next h) (h.adminCmd (fun _ ht => .ite ht.finish (.ite ht.finish (.ite ht.finish (.ite ht.finish ht.addCmd.modFw)))))

theorem State.Queued.execFirmwareCommitReplace {c : NvmeCmd} (h : s.Queued qs) : Answers (State.Queued qs) (execFirmwareCommitReplace c s) :=
  h.firmwareCommit

theorem State.Queued.execFirmwareCommitNextReset {c : NvmeCmd} (h : s.Queued qs) : Answers (State.Queued qs) (execFirmwareCommitNextReset c s) :=
  h.firmwareCommit

theorem State.Queued.execFirmwareCommitActivate {c : NvmeCmd} (h : s.Queued qs) : Answers (State.Queued qs) (execFirmwareCommitActivate c s) :=
  h.firmwareCommit

theorem State.Queued.replaceSlot {slot : Nat} (h : s.Queued qs) : (s.replaceSlot slot).Queued qs := .ite h h.modFw

theorem State.Queued.loadCell {c : CellId} {r : Role} (h : s.Queued qs) : (s.loadCell c r).Queued qs := h.rest.modCell

theorem State.Queued.endCommit {k : Commit} {st : Status} (h : s.Queued qs) : (s.endCommit k st).Queued qs :=
  h.modFw.finish

theorem State.Queued.startActivation {k : Commit} (h : s.Queued qs) : (s.startActivation k).Queued qs :=
  .notice (h.modFw.putRec.setReg.foldl (fun _ ht _ => ht.charge))

theorem State.Queued.execSignatureCheckDone {ok : Bool} (h : s.Queued qs) : Answers (State.Queued qs) (execSignatureCheckDone ok s) := by
  unfold Machine.execSignatureCheckDone
  split
  · exact .next h
  · refine .ite (.next h) (.ite (.next h.endCommit) ?_)
    split
    · exact .next h.replaceSlot.endCommit
    · exact .next h.replaceSlot.putRec.endCommit
    · exact .next h.putRec.endCommit
    · exact .next h.replaceSlot.startActivation

/-! ### Vfm -/

theorem State.Queued.modVf {f : Nat} {g : Vf → Vf} (h : s.Queued qs) : (s.modVf f g).Queued qs :=
  h.rest

theorem State.Queued.modShares {f : Nat} {g : Shares → Shares} (h : s.Queued qs) : (s.modShares f g).Queued qs :=
  h.modVf

theorem State.Queued.remask (h : s.Queued qs) : s.remask.Queued qs := h.foldl (fun _ ht _ => ht.modSlice.syncWays)

theorem State.Queued.startMove {c : Nat} {r : Role} (h : s.Queued qs) : (s.startMove c r).Queued qs :=
  .ite h.rest h.rest

theorem State.Queued.moveCell {c f : Nat} (h : s.Queued qs) : (s.moveCell c f).Queued qs := h.startMove

theorem State.Queued.freeBank {b : Nat} (h : s.Queued qs) : (s.freeBank b).Queued qs := h.srbCtrlEffect

theorem State.Queued.freeWay {w : Nat} (h : s.Queued qs) : (s.freeWay w).Queued qs :=
  h.foldl (fun _ ht _ => ht.flushWay)

theorem State.Queued.freeSlot {n : Nat} (h : s.Queued qs) : (s.freeSlot n).Queued qs := h.eraseKey.modKey

theorem State.Queued.fillSlots {f : Fun} (h : s.Queued qs) : (s.fillSlots f).Queued qs := by
  unfold State.fillSlots
  extract_lets put
  have hput (t : State) (ht : t.Queued qs) (n purpose : Nat) : (put t n purpose).Queued qs := .ite ht.modKey ht.modKey.loadKey
  clear_value put
  split
  · exact h
  · exact hput s h ..
  · exact hput _ (hput s h ..) ..

theorem State.Queued.settleShares {f : Fun} {old new : Shares} (h : s.Queued qs) : (s.settleShares f old new).Queued qs := by
  unfold State.settleShares
  extract_lets _ s1 s2 s3 s4
  have h1 : s1.Queued qs := h.foldl (fun _ ht _ => ht.freeBank)
  have h2 : s2.Queued qs := h1.foldl (fun _ ht _ => ht.srbCtrlEffect)
  have h3 : s3.Queued qs := h2.foldl (fun _ ht _ => ht.freeWay)
  have h4 : s4.Queued qs := h3.foldl (fun _ ht _ => ht.freeSlot)
  exact .remask (.fillSlots (.modShares (.ite h4.rest h4)))

theorem State.Queued.zeroSlm (h : s.Queued qs) : s.zeroSlm.Queued qs := h.rest

theorem State.Queued.execSlmShareZero {fn : Fun} (h : s.Queued qs) : Answers (State.Queued qs) (execSlmShareZero fn s) := by
  unfold Machine.execSlmShareZero
  refine .ite (.next h) (.next ?_)
  exact h.zeroSlm.rest

theorem State.Queued.reloadShares (h : s.Queued qs) : s.reloadShares.Queued qs :=
  h.setReg.setReg.setReg.setReg.setReg.setReg

theorem State.Queued.vfmSelEffect {v : Word} {d : RegDef} (h : s.Queued qs) : (vfmSelEffect v d s).Queued qs :=
  h.store.reloadShares

theorem State.Queued.execVfmSelWrite {m : Master} {v : Word} (h : s.Queued qs) : Answers (State.Queued qs) (execVfmSelWrite m v s) :=
  .next (h.write (fun _ _ => .none) (fun _ _ ht => ht.vfmSelEffect))

theorem State.Queued.shareCond {m : Master} {off : Nat} {v : Word} (h : s.Queued qs) : AllSome (State.Queued qs) (shareCond m off v s) :=
  .ite (.some h.refuse) .none

theorem State.Queued.applyResult {n : Nat} (h : s.Queued qs) : (s.applyResult n).Queued qs := h.setField

theorem State.Queued.applyShares {f : Fun} {x : Shares} (h : s.Queued qs) : (s.applyShares f x).Queued qs := by
  unfold State.applyShares
  extract_lets _ s1 _ _ _ _ _ s2 s3 s4
  have h1 : s1.Queued qs := h.applyResult.settleShares
  have h2 : s2.Queued qs := h1.modShares.foldl (fun _ ht _ => ht.moveCell)
  have h3 : s3.Queued qs := h2.foldl (fun _ ht _ => ht.moveCell)
  have h4 : s4.Queued qs := h3.remask
  exact .ite h4.raise h4.rest

theorem State.Queued.applyEffect {m : Master} {v : Word} (h : s.Queued qs) : (applyEffect m v s).Queued qs :=
  .ite h (.ite h.applyResult.refuse (.ite h.applyResult (.ite h.applyResult (.ite h.applyResult h.applyShares))))

theorem State.Queued.execApply {m : Master} {v : Word} (h : s.Queued qs) : Answers (State.Queued qs) (execApply m v s) :=
  .next (h.write (fun _ ht => ht.shareCond) (fun _ _ ht => ht.applyEffect))

theorem State.Queued.cellJoined {c : Nat} (h : s.Queued qs) : (s.cellJoined c).Queued qs := by
  unfold State.cellJoined
  split
  · exact h
  · refine .ite h ?_
    extract_lets _ s1 _ _ _ s2
    have h1 : s1.Queued qs := .ite h.modShares h
    have h2 : s2.Queued qs := h1.rest.remask
    exact .ite h2.raise h2

theorem State.Queued.virtualCmd {c : NvmeCmd} {act : Nat} {f : Fun → State → State} (h : s.Queued qs) (hf : ∀ x, ∀ t, t.Queued qs → (f x t).Queued qs)
    : Answers (State.Queued qs) (virtualCmd c act s f) :=
  .ite (.next h) (h.adminCmd (fun _ ht => .ite ht.finish (.ite ht.finish (hf _ _ ht))))

theorem State.Queued.execSecondaryControllerOffline {c : NvmeCmd} (h : s.Queued qs) :
    Answers (State.Queued qs) (execSecondaryControllerOffline c s) := by
  unfold Machine.execSecondaryControllerOffline
  refine State.Queued.virtualCmd h (fun _ _ ht => ?_)
  extract_lets s1
  have h1 : s1.Queued qs := ht.modVf.modCtrl
  exact .ite (.addCmd (.ite h1 h1.beginReset)) h1.finish

theorem State.Queued.assignPairs {f : Fun} {n : Nat} (h : s.Queued qs) : (s.assignPairs f n).Queued qs :=
  .ite h.modCtrl.modCtrl h.modCtrl.modCtrl

theorem State.Queued.execSecondaryControllerAssign {c : NvmeCmd} (h : s.Queued qs) :
    Answers (State.Queued qs) (execSecondaryControllerAssign c s) :=
  h.virtualCmd (fun _ _ ht => .ite ht.finish (.ite ht.finish (.ite ht.finish (.ite ht.finish ht.assignPairs.finish))))

theorem State.Queued.execSecondaryControllerOnline {c : NvmeCmd} (h : s.Queued qs) :
    Answers (State.Queued qs) (execSecondaryControllerOnline c s) :=
  h.virtualCmd (fun _ _ ht => .ite ht.finish ht.modVf.finish)

theorem State.Queued.mbdbEffect {m : Master} {v : Word} (h : s.Queued qs) : (mbdbEffect m v s).Queued qs := by
  unfold Machine.mbdbEffect
  extract_lets _ s1
  have h1 : s1.Queued qs := .ite h (.ite h.refuse.count h.modVf.count.raise)
  exact .ite h (.ite h1.modVf.raise h1)

theorem State.Queued.vmbDbEffect {m : Master} {f : Nat} {v : Word} (h : s.Queued qs) : (vmbDbEffect m f v s).Queued qs := by
  unfold Machine.vmbDbEffect
  extract_lets s1
  have h1 : s1.Queued qs := .ite h (.ite h.refuse h.modVf.raise)
  exact .ite h1.modVf.raise h1

theorem State.Queued.boxWrite {m : Master} {fn : Fun} {v : Word} (h : s.Queued qs) : Answers (State.Queued qs) (boxWrite m fn v s) := by
  unfold Machine.boxWrite
  split
  · exact .ite (.next (h.write (fun _ ht => .none) (fun _ _ ht => ht.vmbDbEffect))) (.next h)
  · exact .ite (.next (h.write (fun _ ht => .none) (fun _ _ ht => ht.mbdbEffect))) (.next h)

theorem State.Queued.execMailboxSend {m : Master} {fn : Fun} {v : Word} (h : s.Queued qs) : Answers (State.Queued qs) (execMailboxSend m fn v s) :=
  h.boxWrite

theorem State.Queued.execMailboxAck {m : Master} {fn : Fun} {v : Word} (h : s.Queued qs) : Answers (State.Queued qs) (execMailboxAck m fn v s) :=
  h.boxWrite

theorem State.Queued.modDirty {f : Nat} {g : Dirty → Dirty} (h : s.Queued qs) : (s.modDirty f g).Queued qs := h.modVf

theorem State.Queued.dpCond {m : Master} {off : Nat} {v : Word} (h : s.Queued qs) : AllSome (State.Queued qs) (dpCond m off v s) :=
  .ite (.some h.refuse) .none

theorem State.Queued.dpCtrlEffect {v : Word} (h : s.Queued qs) : (dpCtrlEffect v s).Queued qs :=
  .ite h.modDirty.modDirty h.modDirty

theorem State.Queued.dpEffect {off : Nat} {v : Word} (h : s.Queued qs) : (dpEffect off v s).Queued qs := h.modDirty

theorem State.Queued.dpCtrlWrite {m : Master} {v : Word} (h : s.Queued qs) : Answers (State.Queued qs) (dpCtrlWrite m v s) :=
  .next (h.write (fun _ ht => ht.dpCond) (fun _ _ ht => ht.dpCtrlEffect))

theorem State.Queued.execDirtyPageEnable {m : Master} {v : Word} (h : s.Queued qs) : Answers (State.Queued qs) (execDirtyPageEnable m v s) :=
  h.dpCtrlWrite

theorem State.Queued.execCopyBitmap {m : Master} {v : Word} (h : s.Queued qs) : Answers (State.Queued qs) (execCopyBitmap m v s) :=
  h.dpCtrlWrite

theorem State.Queued.execDirtyPageCopyDone {fn : Fun} (h : s.Queued qs) : Answers (State.Queued qs) (execDirtyPageCopyDone fn s) :=
  .ite (.next h) (.next h.hostWrite.modDirty.raise)

theorem State.Queued.mboutWrite {off : Nat} {v : Word} (h : s.Queued qs) : (mboutWrite off v s).Queued qs :=
  .ite h h.modVf

theorem State.Queued.stopJobs {c : CellId} (h : s.Queued qs) : (s.stopJobs c).Queued qs := by
  unfold State.stopJobs
  extract_lets s1
  have h1 : s1.Queued qs := by
    dsimp only [s1]
    refine .foldl h (fun _ ht _ => ?_)
    split
    · exact .ite ht.modLane.endJob ht
    · exact ht
  refine .foldl h1 (fun _ ht _ => ?_)
  split
  · exact ht.codecStop
  · exact ht

theorem State.Queued.stopExecs {f : Fun} (h : s.Queued qs) : (s.stopExecs f).Queued qs :=
  .foldl (.foldl (.foldl (h.foldl (fun _ ht _ => ht.stopJobs)) (fun _ ht _ => .ite ht.clearCtx ht)) (fun _ ht _ => .forget (.uncharge (.ite
      ht.rest ht.leaveExec)))) (fun _ ht _ => ht.holdAndFill)

theorem State.Queued.beginFlr {f : Fun} (h : s.Queued qs) : (s.beginFlr f).Queued qs :=
  h.modCtrl.modVf.count.raise.stopExecs.dropAsync.foldl (fun _ ht _ => ht.sortFlr)

theorem State.Queued.endFlr {f : Fun} (h : s.Queued qs) : (s.endFlr f).Queued qs := h.modVf.modCtrl.endReset.raise

theorem State.Queued.execFlrVf {fn : Fun} (h : s.Queued qs) : Answers (State.Queued qs) (execFlrVf fn s) :=
  .ite (.next h) (.next h.beginFlr)

theorem State.Queued.execVfResetComplete {fn : Fun} (h : s.Queued qs) : Answers (State.Queued qs) (execVfResetComplete fn s) :=
  .ite (.next h.endFlr) (.next h)

theorem State.Queued.releaseVf {f : Fun} (h : s.Queued qs) : (s.releaseVf f).Queued qs := by
  unfold State.releaseVf
  extract_lets _ _ _ _ s1
  have h1 : s1.Queued qs := h.settleShares.modShares.foldl (fun _ ht _ => ht.moveCell)
  exact h1.rest.modBucket.assignPairs.modVf

theorem State.Queued.clearVfEnable (h : s.Queued qs) : s.clearVfEnable.Queued qs := by
  unfold State.clearVfEnable
  refine .ite h ?_
  extract_lets _ _ s1
  have h1 : s1.Queued qs := .foldl (h.foldl (fun _ ht _ => .endFlr (.ite ht ht.beginFlr))) (fun _ ht _ => ht.releaseVf)
  exact h1.rest.remask.revertRoutes

theorem State.Queued.execVfEnableClear (h : s.Queued qs) : Answers (State.Queued qs) (execVfEnableClear s) :=
  .ite (.next h.clearVfEnable) (.next h)

theorem State.Queued.execVfEnableSet {n : Fun} (h : s.Queued qs) : Answers (State.Queued qs) (execVfEnableSet n s) :=
  .ite (.next h) (.next h.rest)

theorem State.Queued.execFlrPf (h : s.Queued qs) : Answers (State.Queued qs) (execFlrPf s) :=
  .ite (.next h) (.next (.clearVfEnable (.ite h h.beginReset)))

/-! ### Reassign -/

theorem State.Queued.addMoves {l : List (Nat × Role)} (h : s.Queued qs) : (s.addMoves l).Queued qs := h.rest

theorem State.Queued.rewriteCell {c : CellId} {r : Role} (h : s.Queued qs) : (s.rewriteCell c r).Queued qs := by
  unfold State.rewriteCell
  refine .ite h.wreload.setRole ?_
  extract_lets s1
  have h1 : s1.Queued qs := h.holdAndFill.setRole.setReg
  exact .ite h1.setReg h1.setReg.loadCell

theorem State.Queued.sendFence {c : CellId} (h : s.Queued qs) : (s.sendFence c).Queued qs :=
  .ite h (h.onMesh (fun _ ht => ht.emit))

theorem State.Queued.execDrainDone {c : CellId} (h : s.Queued qs) : Answers (State.Queued qs) (execDrainDone c s) := by
  unfold Machine.execDrainDone
  split
  · exact .next h
  · refine .ite (.next h) ?_
    extract_lets s1
    have h1 : s1.Queued qs := h.sendFence.rewriteCell
    exact .next h1.rest

theorem State.Queued.cellReady {c : CellId} (h : s.Queued qs) : (s.cellReady c).Queued qs := by
  unfold State.cellReady
  extract_lets s1
  have h1 : s1.Queued qs := .ite h h.unhold
  exact h1.rest.raise.count.cellJoined

theorem State.Queued.beginPause (h : s.Queued qs) : s.beginPause.Queued qs := h.rest

theorem State.Queued.endPause (h : s.Queued qs) : s.endPause.Queued qs := by
  unfold State.endPause
  extract_lets _ s1
  have h1 : s1.Queued qs := h.uncharge
  exact h1.rest.rest.foldl (fun _ ht _ => ht.programEnd)

theorem State.Queued.endActivation {k : Commit} (h : s.Queued qs) : (s.endActivation k).Queued qs := by
  unfold State.endActivation
  extract_lets s1
  have h1 : s1.Queued qs := h.putRec
  exact h1.rest.setReg.endCommit.pumpFront

theorem State.Queued.reverseNext {k : Commit} (h : s.Queued qs) : (s.reverseNext k).Queued qs := by
  unfold State.reverseNext
  extract_lets _ _ _ _ s1
  have h1 : s1.Queued qs := h.addMoves
  exact .ite h (.ite h.setReg.endCommit (.ite h1.beginPause h1))

theorem State.Queued.takeBack {c : CellId} {r : Role} (h : s.Queued qs) : (s.takeBack c r).Queued qs :=
  h.rewriteCell.cellReady

theorem State.Queued.reverse {k : Commit} (h : s.Queued qs) : (s.reverse k).Queued qs := h.modFw.reverseNext

theorem State.Queued.execCellReassign {c : CellId} {r : Role} (h : s.Queued qs) : Answers (State.Queued qs) (execCellReassign c r s) := by
  unfold Machine.execCellReassign
  extract_lets
  refine .ite (.next h) (.ite ?_ ?_)
  · split
    · exact .ite (.next h.takeBack.reverse) (.next h)
    · exact .next h
  · refine .ite (.ite (.next h) (.next h.addMoves)) ?_
    split
    · exact .next h
    · exact .ite (.next h) (.ite (.next h.addMoves) (.ite (.next h) (.next h.addMoves.beginPause)))

theorem State.Queued.execEvidentialPauseTimeout (h : s.Queued qs) : Answers (State.Queued qs) (execEvidentialPauseTimeout s) := by
  unfold Machine.execEvidentialPauseTimeout
  split
  · exact .ite (.next h) (.next (.reverse (.endPause (h.foldl (fun _ ht _ => ht.takeBack)))))
  · exact .next h

theorem State.Queued.dropMoves (h : s.Queued qs) : s.dropMoves.Queued qs := by
  unfold State.dropMoves
  extract_lets back s1 s2
  have h1 : s1.Queued qs := by
    refine .foldl h fun t ht x => ?_
    unfold back
    exact .ite ht (.ite ht.rewriteCell ht.rewriteCell.unhold)
  clear_value s1
  exact .ite h1.rest.endPause h1.rest

/-! ### Flush -/

theorem State.Queued.roomFor {n blocks : Nat} (h : s.Queued qs) : (s.roomFor n blocks).Queued qs :=
  .ite h h.useBlocks.deriveNext

theorem State.Queued.cryptStep {r : Req} {p : PageSet} {w : Nat} (h : s.Queued qs) : (s.cryptStep r p w).2.Queued qs := by
  unfold State.cryptStep
  extract_lets _ s1
  have h1 : s1.Queued qs := h.roomFor
  exact .snd (.iteSnd (.snd h1.roomFor.useBlocks) (.snd h1.useBlocks))

theorem State.Queued.cryptAll {r : Req} {p : PageSet} (h : s.Queued qs) : (s.cryptAll r p).2.Queued qs :=
  .snd (.foldlSnd (.snd h) (fun _ ht _ => .iteSnd ht ht.cryptStep))

theorem State.Queued.programNow {r : Req} (h : s.Queued qs) : (s.programNow r).Queued qs := by
  unfold State.programNow
  split
  · exact h.dropReq
  · split
    · next e =>
        have h1 := State.Queued.sndOf e (.iteSnd h.cryptAll (.snd h))
        extract_lets s2
        have h2 : s2.Queued qs := by
          dsimp only [s2]
          split
          · exact .ite h1 h1.fold
          · exact h1
        exact h2.programEnd

theorem State.Queued.programAll {n : Nat} (h : s.Queued qs) : (s.programAll n).Queued qs := by
  induction n generalizing s with
  | zero => exact h
  | succ n ih =>
    unfold State.programAll
    split
    · exact h
    · exact ih h.programNow

theorem State.Queued.runPrograms (h : s.Queued qs) : s.runPrograms.Queued qs := h.programAll

theorem State.Queued.idleDies (h : s.Queued qs) : s.idleDies.Queued qs := by
  unfold State.idleDies
  extract_lets free s1 s2
  have h1 : s1.Queued qs := h.rest
  have h2 : s2.Queued qs := h1.foldl fun _ ht _ => ht.modDie
  clear_value s2
  exact h2.rest

theorem State.Queued.abandonRead {r : Req} (h : s.Queued qs) : (s.abandonRead r).Queued qs := by
  unfold State.abandonRead
  extract_lets s1
  have h1 : s1.Queued qs := h.dropReq
  split
  · exact h1.markIssued
  · exact h1.rest
  · exact h1

theorem State.Queued.abandonProgram {r : Req} (h : s.Queued qs) : (s.abandonProgram r).Queued qs := by
  unfold State.abandonProgram
  extract_lets s1
  have h1 : s1.Queued qs := h.unmember.dropReq
  split
  · exact h1.markIssued
  · exact h1.markIssued
  · exact h1
  · exact h1.ckptAgain
  · exact h1.rest
  · exact h.replan

theorem State.Queued.abandon {p : Req → Bool} (h : s.Queued qs) : (s.abandon p).Queued qs := by
  unfold State.abandon
  extract_lets _ _ s1
  have h1 : s1.Queued qs := .giveUp (.foldl (h.unpark.foldl (fun _ ht _ => ht.abandonRead)) (fun _ ht _ => ht.abandonProgram))
  exact h1.rest.idleDies

theorem State.Queued.newestOnly (h : s.Queued qs) : s.newestOnly.Queued qs := h.unstage

theorem State.Queued.drainSet {power : Bool} {unit0 : Option Nat} {lost : List Nat} {words : List Block} {bs : List Staged} {old : Word}
    (h : s.Queued qs) : (s.drainSet power unit0 lost words bs old).Queued qs := by
  unfold State.drainSet
  split
  · extract_lets
    split
    · split
      · next e => exact (h.programBlocks.ofSnd e).markIssued.runPrograms
      · split
        · next e2 => exact (h.programBlocks.ofSnd e2).markIssued.runPrograms
        · exact h
  · exact h

theorem State.Queued.drainFine {power : Bool} {n : Nat} (h : s.Queued qs) : (s.drainFine power n).Queued qs :=
  .drainSet (.ite (h.foldl (fun _ ht _ => ht.promote)) h)

theorem State.Queued.drainNext {power : Bool} (h : s.Queued qs) : (s.drainNext power).Queued qs := by
  unfold State.drainNext
  split
  · exact h
  · extract_lets
    refine .ite h.drainSet (.ite h.drainFine (.ite ?_ (.ite (.ite h.loseBlocks h.drainSet) h.drainSet)))
    split
    · next e => exact (h.promote.ofSnd e).drainFine
    · next e => exact (h.promote.ofSnd e).drainSet

theorem State.Queued.drainLoop {power : Bool} {n : Nat} (h : s.Queued qs) : (s.drainLoop power n).Queued qs := by
  induction n generalizing s with
  | zero => exact h
  | succ n ih => exact .ite h (ih h.drainNext)

theorem State.Queued.drainAll {power : Bool} (h : s.Queued qs) : (s.drainAll power).Queued qs :=
  h.newestOnly.drainLoop.commitParked

theorem State.Queued.settlePages (h : s.Queued qs) : s.settlePages.Queued qs :=
  h.foldl (fun _ ht _ => .ite ht ht.rest.completeCkpt.reusePages)

theorem State.Queued.flushOut {power ckpt : Bool} (h : s.Queued qs) : (s.flushOut power ckpt).Queued qs := by
  unfold State.flushOut
  extract_lets s1 _ s2 s3
  have h1 : s1.Queued qs := h.uncharge
  have h2 : s2.Queued qs := h1.rest.rederive.runPrograms
  have h3 : s3.Queued qs := h2.drainAll
  exact .settle (.settlePages (.runPrograms (.seal (.writeSifj (.runPrograms (.roomFor (.runPrograms (.closeWhere (.ite
      h3.beginCkpt.runPrograms h3)))))))))

theorem State.Queued.parkBuses (h : s.Queued qs) : s.parkBuses.Queued qs :=
  h.rest

/-! ### Replay -/

theorem State.Queued.rollEpochs {rs : List JRec} (h : s.Queued qs) : (s.rollEpochs rs).Queued qs := by
  unfold State.rollEpochs
  refine .foldl h (fun _ ht _ => ?_)
  split
  · exact ht.rest
  · exact ht

theorem State.Queued.clearUnit {u : Nat} (h : s.Queued qs) : (s.clearUnit u).Queued qs := h.unfine.setCoarse

theorem State.Queued.applyRec {bases : List (Nat × Nat)} {r : JRec} (h : s.Queued qs) : AllSome (fun x => x.1.Queued qs) (s.applyRec bases r) := by
  unfold State.applyRec
  extract_lets
  split
  · exact AllSome.map (.ite (.some (h.foldl (fun _ ht _ => ht.unfine.setCoarse))) (.ite (.some (h.foldl (fun _ ht _ => ht.setFine)))
      .none)) (fun _ ht => .fst ht)
  · exact .ite (AllSome.map (.ite (.some (h.foldl (fun _ ht _ => ht.unfine.setCoarse))) (.ite (.some (h.foldl (fun _ ht _ => ht.setFine)))
      .none)) (fun _ ht => .fst ht)) .none
  · exact .ite (.some (.fst h)) (.some (.fst (.setCoarse (h.drawGroup.foldl (fun _ ht _ => ht.setFine)))))
  · exact .some (.fst (h.foldl (fun _ ht _ => .ite ht.clearUnit (.ite (ht.foldl (fun _ ht2 _ => ht2.setFine)) ht))))
  · exact .some (.fst (h.foldl (fun _ ht _ => .ite ht.setFine (.ite ht ht.setCoarse))))
  · exact .some (.fst h.modBlk)
  · exact .some (.fst h.modBlk)
  · exact .some (.fst h.rest)
  · exact .some (.fst (.ite h (h.foldl (fun _ ht _ => ht.clearUnit))))
  · exact .some (.fst h)
  · exact .some (.fst h)
  · exact .some (.fst h)

theorem State.Queued.applyPages {bases : List (Nat × Nat)} {l : List JPage} (h : s.Queued qs) : (s.applyPages bases l).1.Queued qs := by
  induction l generalizing s bases with
  | nil => exact .fst h
  | cons p l ih =>
    unfold State.applyPages
    split
    · exact .fst h
    · next t b e =>
        have ht : t.Queued qs := AllSome.eqOf (fun x : State × List (Nat × Nat) => x.1.Queued qs) e
          (.foldl (.some h) fun _ ho _ => .bind ho fun _ ha => .ite .none ha.applyRec)
        split
        · next e => exact .fst ((ih ht).ofFst e)

theorem State.Queued.promoteAny {nsid u : Nat} (h : s.Queued qs) : (s.promoteAny nsid u).2.Queued qs :=
  .foldlSnd (.snd h) (fun _ ht _ => .iteSnd ht ht.promote)

theorem State.Queued.mapTag {x : Nat × UnitTag} (h : s.Queued qs) : (s.mapTag x).Queued qs := by
  unfold State.mapTag
  extract_lets
  refine .ite h (.ite (.ite h.mapCoarse h) (.foldl h (fun _ ht _ => ?_)))
  extract_lets
  refine .ite ht ?_
  split
  · next e => exact (ht.promoteAny.ofSnd e).mapFine
  · next e => exact ht.promoteAny.ofSnd e

theorem State.Queued.loseStaged {l : List (Nat × Nat)} (h : s.Queued qs) : (s.loseStaged l).Queued qs :=
  h.foldl (fun _ ht _ => ht.loseRun.deferFault)

theorem State.Queued.settleBlk {old : SMap Blk} {key : Nat} (h : s.Queued qs) : (s.settleBlk old key).Queued qs :=
  .ite h.modBlk (.ite (.modBlk (h.foldl (fun _ ht _ => ht.setFlash))) (.ite h h.modBlk))

theorem State.Queued.settleBlks {old : SMap Blk} (h : s.Queued qs) : (s.settleBlks old).Queued qs :=
  h.foldl (fun _ ht _ => ht.settleBlk)

theorem State.Queued.scanBlks {old : SMap Blk} (h : s.Queued qs) : (s.scanBlks old).Queued qs :=
  h.foldl (fun _ ht _ => ht.modBlk)

theorem State.Queued.repairStripes (h : s.Queued qs) : s.repairStripes.Queued qs := by
  unfold State.repairStripes
  extract_lets s1
  have h1 : s1.Queued qs := h.rederive
  exact h1.rest.foldl (fun _ ht _ => ht.closeStripe.count.runPrograms)

theorem State.Queued.recoverSifj {uncontrolled : Bool} (h : s.Queued qs) : (s.recoverSifj uncontrolled).2.Queued qs := by
  unfold State.recoverSifj
  extract_lets
  split
  · extract_lets x1 _ s2 s3
    clear_value x1
    have h2 : s2.Queued qs := by
      dsimp only [s2]
      split
      · exact h.rest.rest
      · exact h.rest
    have h3 : s3.Queued qs := .ite h2.setReg.raise.writeSifj h2
    exact .snd (.ite h3.setReg h3)

theorem State.Queued.resumeRebuild (h : s.Queued qs) : s.resumeRebuild.Queued qs := h.rest.syncRed

theorem State.Queued.recoverEvid (h : s.Queued qs) : s.recoverEvid.Queued qs := h.rest.republish

theorem State.Queued.dropHeaders {bad : List Nat} (h : s.Queued qs) : (s.dropHeaders bad).Queued qs := h.rest

theorem State.Queued.replay {okA okB : Bool} {bad : List (Nat × Bool)} {lost : List (Nat × Nat)} (h : s.Queued qs) :
    (s.replay okA okB bad lost).2.Queued qs := by
  unfold State.replay
  extract_lets _ _ s1
  have h1 : s1.Queued qs := h.rollEpochs
  split
  · exact .snd (.repairStripes (.recoverSifj (.loseStaged (h1.rest.rest.scanBlks.foldl (fun _ ht _ => ht.mapTag)))))
  · extract_lets
    split
    · next e =>
        extract_lets _ _ _ s2
        have h2 : s2.Queued qs := (h1.rest.rest.applyPages.ofFst e).settleBlks
        exact .iteSnd (.snd (.repairStripes (.recoverSifj (.loseStaged (h2.foldl (fun _ ht _ => ht.mapTag)))))) (.snd (.ite
            h2.recoverSifj.repairStripes h2.recoverSifj))

/-! ### Squall -/

theorem State.Queued.clearControls (h : s.Queued qs) : s.clearControls.Queued qs :=
  h.foldl (fun _ ht _ => ht.setReg.setReg.setReg.setReg.setReg.setReg)

theorem State.Queued.releaseAll (h : s.Queued qs) : s.releaseAll.Queued qs :=
  .foldl (h.rest.foldl (fun _ ht _ => ht.release)) (fun _ ht _ => ht.endOp)

theorem State.Queued.lockSquall (h : s.Queued qs) : s.lockSquall.Queued qs :=
  .ite h h.clearControls.releaseAll.setReg.syncSquall.raise

theorem State.Queued.unlockSquall {pf : Bool} (h : s.Queued qs) : (s.unlockSquall pf).Queued qs :=
  h.setReg.count.raise

theorem State.Queued.sqlCond {m : Master} {v : Word} (h : s.Queued qs) : AllSome (State.Queued qs) (sqlCond m v s) :=
  .ite (.ite (.some h.refuse) .none) (.ite (.some h.refuse) .none)

theorem State.Queued.sqlEffect {m : Master} {v : Word} (h : s.Queued qs) : (sqlEffect m v s).Queued qs :=
  .ite h.lockSquall (.ite h.unlockSquall h)

theorem State.Queued.execUnlock {m : Master} {v : Word} (h : s.Queued qs) : Answers (State.Queued qs) (execUnlock m v s) :=
  .next (h.write (fun _ ht => ht.sqlCond) (fun _ _ ht => ht.sqlEffect))

theorem State.Queued.execSqlLock {m : Master} {v : Word} (h : s.Queued qs) : Answers (State.Queued qs) (execSqlLock m v s) :=
  .next (h.write (fun _ ht => ht.sqlCond) (fun _ _ ht => ht.sqlEffect))

theorem State.Queued.force {page k : Nat} (h : s.Queued qs) : (s.force page k).Queued qs := by
  unfold State.force
  extract_lets s1
  have h1 : s1.Queued qs := h.count.setReg
  exact .ite (.ite h1.modKey h1.keyFault) h1.setReg

theorem State.Queued.forceEffect {m : Master} {page : Nat} {v : Word} (h : s.Queued qs) : (forceEffect m page v s).Queued qs := by
  unfold Machine.forceEffect
  extract_lets _ s1 s2
  have h1 : s1.Queued qs := .ite h.accessFail h
  have h2 : s2.Queued qs := h1.foldl (fun _ ht _ => .ite ht.force ht)
  exact .ite h2.syncSquall h2

theorem State.Queued.execSqForce {m : Master} {page : Nat} {v : Word} (h : s.Queued qs) : Answers (State.Queued qs) (execSqForce m page v s) :=
  .ite (.next (h.write (fun _ _ => .none) (fun _ _ ht => ht.forceEffect))) (.next h)

theorem State.Queued.controlCond {m : Master} {page off : Nat} {v : Word} (h : s.Queued qs) :
    AllSome (State.Queued qs) (controlCond m page off v s) :=
  .ite (.some h.accessFail) .none

theorem State.Queued.controlEffect {page off : Nat} {v : Word} {d : RegDef} (h : s.Queued qs) : (controlEffect page off v d s).Queued qs := by
  unfold Machine.controlEffect
  extract_lets s1
  have h1 : s1.Queued qs := h.store
  exact .ite h1.syncSquall h1

theorem State.Queued.execDelayedResultRelease (h : s.Queued qs) : Answers (State.Queued qs) (execDelayedResultRelease s) := by
  unfold Machine.execDelayedResultRelease
  split
  · exact .next h
  · exact .next h.rest.release

/-! ### Start -/

theorem State.Queued.dropMain {keepDram : Bool} (h : s.Queued qs) : (s.dropMain keepDram).Queued qs := h.rest

theorem State.Queued.loseFtl (h : s.Queued qs) : s.loseFtl.Queued qs := by
  unfold State.loseFtl
  extract_lets s1
  have h1 : s1.Queued qs := h.rollEpochs
  exact h1.rest

theorem State.Queued.keepFtl (h : s.Queued qs) : s.keepFtl.Queued qs := h.rest

theorem State.Queued.finishDram (h : s.Queued qs) : s.finishDram.Queued qs := by
  unfold State.finishDram
  refine .foldl h (fun _ ht _ => ?_)
  refine .foldl ht (fun _ ht2 _ => ?_)
  split
  · exact ht2.dramWrite
  · exact ht2

theorem State.Queued.mainDown {keepDram : Bool} (h : s.Queued qs) : (s.mainDown keepDram).Queued qs := by
  unfold State.mainDown
  extract_lets s1 s2 s3 _ _ _ _ _ _ s4
  have h1 : s1.Queued qs := h.lockSquall.abandon.frontDown
  have h2 : s2.Queued qs := h1.foldl fun _ ht _ => ht.forget
  have h3 : s3.Queued qs := .ite h2.finishDram.keepFtl h2.loseFtl
  have h4 : s4.Queued qs := h3.dropMain.rest
  exact h4.rest

theorem State.Queued.settleRec (h : s.Queued qs) : s.settleRec.Queued qs := .ite h.putRec h

theorem State.Queued.switchSlot (h : s.Queued qs) : s.switchSlot.Queued qs := h.putRec.raise.count

theorem State.Queued.fallBack (h : s.Queued qs) : s.fallBack.Queued qs := by
  unfold State.fallBack
  extract_lets s1
  have h1 : s1.Queued qs := h.switchSlot
  exact .ite h1 h1.openSpan

theorem State.Queued.trySlot {f : StartFacts} {failed : Bool} {n : Nat} (h : s.Queued qs) : (s.trySlot f failed n).2.Queued qs := by
  induction n generalizing s failed with
  | zero => exact .snd h
  | succ n ih =>
    unfold State.trySlot
    extract_lets s1
    have h1 : s1.Queued qs := h.putRec
    exact .iteSnd (.snd h1) (.iteSnd (.snd h1) (ih h1.fallBack))

theorem State.Queued.pickSlot {f : StartFacts} (h : s.Queued qs) : (s.pickSlot f).2.Queued qs := h.settleRec.trySlot

theorem State.Queued.toRom (h : s.Queued qs) : s.toRom.Queued qs := h.rest

theorem State.Queued.clocksOn (h : s.Queued qs) : s.clocksOn.Queued qs := h.setReg.setReg.setReg

theorem State.Queued.routePage {p : Nat} (h : s.Queued qs) : (s.routePage p).Queued qs := h.setReg.setReg.relevel

theorem State.Queued.dramUp {keepDram : Bool} {t : ℤ} (h : s.Queued qs) : (s.dramUp keepDram t).Queued qs := by
  unfold State.dramUp
  extract_lets _ _ s1
  have h1 : s1.Queued qs := h.setReg.foldl (fun _ ht _ => ht.modDramCh)
  exact .ite (.setReg (h1.rest.foldl (fun _ ht _ => ht.setReg))) h1.rest

theorem State.Queued.loadConsts {cs : List Word} (h : s.Queued qs) : (s.loadConsts cs).Queued qs := h.rest.setReg

theorem State.Queued.lockRoot (h : s.Queued qs) : s.lockRoot.Queued qs := h.reinstallRoot.setReg

theorem State.Queued.cacheUp (h : s.Queued qs) : s.cacheUp.Queued qs :=
  .foldl (.remask (h.foldl (fun _ ht _ => ht.modSlice))) (fun _ ht _ => ht.wdisEffect)

theorem State.Queued.rolesUp {rs : List Role} {slot : Nat} (h : s.Queued qs) : (s.rolesUp rs slot).Queued qs :=
  h.rest.setRole.foldl (fun _ ht _ => .ite ht ht.loadCell.unhold)

theorem State.Queued.channelsUp (h : s.Queued qs) : s.channelsUp.Queued qs :=
  h.foldl (fun _ ht _ => ht.setReg.setReg.reloadSeq.modChan)

theorem State.Queued.attachDies {f : StartFacts} (h : s.Queued qs) : (s.attachDies f).Queued qs := by
  unfold State.attachDies
  extract_lets w here _ _ s1 missing new _ _ _ s2 s3 s4
  have h1 : s1.Queued qs := h.rest
  have h2 : s2.Queued qs := h1.rest
  have h3 : s3.Queued qs := h2.foldl fun _ ht _ => ht.setReg.setField
  have h4 : s4.Queued qs := h3.foldl fun _ ht _ => ht.raise
  exact .ite h4 h4.raise

theorem State.Queued.drainRetained (h : s.Queued qs) : s.drainRetained.Queued qs :=
  h.rederive.placeCopies.repairStripes.fillStripes.flushOut

theorem State.Queued.fillHoles (h : s.Queued qs) : s.fillHoles.Queued qs := by
  unfold State.fillHoles
  refine .foldl h (fun _ ht _ => ?_)
  split
  · exact ht.zeroFill.runPrograms.settle
  · exact ht

theorem State.Queued.resumeCare (h : s.Queued qs) : s.resumeCare.Queued qs := h.rest

theorem State.Queued.mediaUp {f : StartFacts} {restart : Bool} (h : s.Queued qs) : (s.mediaUp f restart).2.Queued qs := by
  rw [State.mediaUp]
  split
  · next t e =>
      have h1 : t.Queued qs := State.Queued.sndOf e (.replay (.dropHeaders (.ite h.drainRetained (.ite h.loseFtl h))))
      extract_lets s1 s2
      have h2 : s2.Queued qs := h1.rederive.resumeRebuild.fillStripes.recoverEvid.fillHoles.runPrograms.settle.resumeCare.updateLife
      have hckpt (u : State) (hu : u.Queued qs) (n : Nat) : (n, { u with ftl := { u.ftl with ckptT := u.pages.dtime } }).2.Queued qs :=
        hu.rest
      exact hckpt s2 h2 _

theorem State.Queued.logStart {slot kind : Nat} (h : s.Queued qs) : (s.logStart slot kind).Queued qs := h.rest

theorem State.Queued.linkDown (h : s.Queued qs) : s.linkDown.Queued qs := .ite h h.rest.raise.count

theorem State.Queued.ctrlSide (h : s.Queued qs) : s.ctrlSide.Queued qs := by
  unfold State.ctrlSide
  extract_lets s1 s2 s3 s4 s5 s6 _ s7 s8
  have h1 : s1.Queued qs := h.linkDown
  have h2 : s2.Queued qs := h1.foldl (fun _ ht _ => .modCtrl (.clearCtrl (.ite ht ht.beginReset)))
  have h3 : s3.Queued qs := h2.foldl (fun _ ht _ => ht.failTransfer)
  have h4 : s4.Queued qs := h3.clearVfEnable
  have h5 : s5.Queued qs := h4.foldl (fun _ ht _ => ht.rest.modBucket)
  have h6 : s6.Queued qs := h5.foldl (fun _ ht _ => ht.rewriteCell.unhold)
  have h7 : s7.Queued qs := h6.setReg.setReg
  have h8 : s8.Queued qs := .ite h7.lockSquall h7
  exact h8.rest

theorem State.Queued.setPower {n : Nat} (h : s.Queued qs) : (s.setPower n).Queued qs := by
  unfold State.setPower
  extract_lets _ s1
  have h1 : s1.Queued qs := .ite h.breakMs h
  exact .ite h1 h1.setField.logWarden.raise

theorem State.Queued.tryEvReady (h : s.Queued qs) : s.tryEvReady.Queued qs := by
  unfold State.tryEvReady
  refine .ite h ?_
  extract_lets _ _ s1 s2 _ s3 s4
  have h1 : s1.Queued qs := h.rest.setReg.setReg.raise
  have h2 : s2.Queued qs := h1.putRec
  have h3 : s3.Queued qs := .ite h2.setReg.setPower h2.setReg
  have h4 : s4.Queued qs := h3.closeSpan.closeSpan
  exact .ite h4.rest.ctrlSide h4.rest

theorem State.Queued.askDeep {target : Nat} (h : s.Queued qs) : (s.askDeep target).Queued qs :=
  .ite h.rest h.rest.setPower

theorem State.Queued.askWaiting (h : s.Queued qs) : s.askWaiting.Queued qs := .ite h (.ite h.askDeep h.rest)

theorem State.Queued.tryFull (h : s.Queued qs) : s.tryFull.Queued qs :=
  .ite h h.rest.rest.setReg.setReg.raise.askWaiting

theorem State.Queued.execFrontLinkUp (h : s.Queued qs) : Answers (State.Queued qs) (execFrontLinkUp s) :=
  .next h.frontLink.tryEvReady.tryFull

theorem State.Queued.execSrcReady (h : s.Queued qs) : Answers (State.Queued qs) (execSrcReady s) :=
  .next h.endWork.tryFull

theorem State.Queued.execRegionFill (h : s.Queued qs) : Answers (State.Queued qs) (execRegionFill s) :=
  .next h.fillRegion.resumeSlots.tryFull

theorem State.Queued.bringUp {f : StartFacts} {slot : Nat} {restart : Bool} (h : s.Queued qs) : (s.bringUp f slot restart).Queued qs := by
  unfold State.bringUp
  extract_lets
  split
  · next e =>
      extract_lets s1 _ _ s2 s3 s4
      have h1 : s1.Queued qs := ((State.Queued.sndOf e (.mediaUp (.channelsUp (.attachDies (.rolesUp (.cacheUp (.lockRoot (.loadConsts (.dramUp
          (.setReg (h.rest.setReg.setReg.setReg.clocksOn.foldl (fun _ ht _ => ht.routePage))))))))))))).setReg
      have h2 : s2.Queued qs := .ite h1.rest.count h1.rest
      have h3 : s3.Queued qs := h2.syncTemp.syncSupply.syncSquall.cause.logStart
      have h4 : s4.Queued qs := h3.setReg.srcCmdEffect
      exact .tryFull (.tryEvReady (.ite h4.frontLink h4))

theorem State.Queued.startWith {f : StartFacts} {restart : Bool} (h : s.Queued qs) : (s.startWith f restart).Queued qs := by
  unfold State.startWith
  split
  · next e => exact (h.pickSlot.ofSnd e).bringUp
  · next e =>
      have h1 := h.pickSlot.ofSnd e
      exact .toRom (.ite h1.mainDown h1)

theorem State.Queued.execMainStart {f : StartFacts} (h : s.Queued qs) : Answers (State.Queued qs) (execMainStart f s) := by
  unfold Machine.execMainStart
  extract_lets _ s1 _ _ _ _ _ s2
  have h1 : s1.Queued qs := .ite h.mainDown h.lockSquall
  have h2 : s2.Queued qs := h1.rest.setReg.count.breakMs
  exact .ite (.next h) (.next (.startWith (.ite h2.rest.setPower h2.rest)))

theorem State.Queued.execMainSideRestart {f : StartFacts} (h : s.Queued qs) : Answers (State.Queued qs) (execMainSideRestart f s) := by
  unfold Machine.execMainSideRestart
  extract_lets busy
  refine .ite (.next h) ?_
  split
  · exact .next h
  · next b _ =>
    extract_lets s1 s2 _ s3 ccs keep s4 cfs _ _ s5
    have h1 : s1.Queued qs := by
      cases b with
      | none => exact h
      | some => exact h.setReg
    have h2 : s2.Queued qs := h1.count.count
    clear_value s2
    have h3 : s3.Queued qs := .ite h2.rest (.ite h2 h2.openSpan)
    have h4 : s4.Queued qs := h3.mainDown
    have h5 : s5.Queued qs := h4.rest
    exact .next h5.breakMs.startWith

theorem State.Queued.rstCtrlCond {m : Master} {v : Word} (h : s.Queued qs) : AllSome (State.Queued qs) (rstCtrlCond m v s) :=
  .ite (.some h.refuse) .none

theorem State.Queued.beginFlush (h : s.Queued qs) : s.beginFlush.Queued qs := by
  unfold State.beginFlush
  extract_lets s1 _ _ _ s2
  have h1 : s1.Queued qs := h.dropMoves
  clear_value s1
  have h2 : s2.Queued qs := .abandon (.foldl (.ite h1.setPower.raise.count h1) (fun _ ht _ => ht.forget))
  clear_value s2
  exact h2.rest.setReg

theorem State.Queued.execPowerFail (h : s.Queued qs) : Answers (State.Queued qs) (execPowerFail s) := by
  unfold Machine.execPowerFail
  refine .ite (.next h.rest) ?_
  extract_lets _ _ _ s1
  have h1 : s1.Queued qs := h.rest.mainDown
  clear_value s1
  exact .ite (.next h.rest) (.ite (.next h1.rest.breakMs) (.next h.rest.beginFlush))

theorem State.Queued.execFlushComplete (h : s.Queued qs) : Answers (State.Queued qs) (execFlushComplete s) := by
  unfold Machine.execFlushComplete
  refine .ite (.next h) ?_
  extract_lets s1
  have h1 : s1.Queued qs := h.flushOut.parkBuses
  clear_value s1
  exact .next h1.rest

theorem State.Queued.loseMain (h : s.Queued qs) : s.loseMain.Queued qs := by
  unfold State.loseMain
  extract_lets _ _ s1
  have h1 : s1.Queued qs := .ite h h.mainDown
  exact .ite h h1.rest.setReg.setReg.setReg.setPower.breakMs

theorem State.Queued.execV12MainLoss (h : s.Queued qs) : Answers (State.Queued qs) (execV12MainLoss s) := by
  unfold Machine.execV12MainLoss
  extract_lets s1
  have h1 : s1.Queued qs := h.loseMain
  exact .next h1.rest

theorem State.Queued.aonDown (h : s.Queued qs) : s.aonDown.Queued qs := h.rest

theorem State.Queued.execV3p3AonLoss (h : s.Queued qs) : Answers (State.Queued qs) (execV3p3AonLoss s) := by
  unfold Machine.execV3p3AonLoss
  refine .ite (.next h) ?_
  extract_lets s1
  have h1 : s1.Queued qs := h.loseMain.aonDown
  exact .next h1.rest

theorem State.Queued.restorePair {slot : Nat} {v : BitVec 64} (h : s.Queued qs) : (s.restorePair slot v).Queued qs :=
  h.setReg.setReg

theorem State.Queued.wardenFrom {slot : Nat} (h : s.Queued qs) : (s.wardenFrom slot).Queued qs :=
  h.rest.loadCell.wardenGo

theorem State.Queued.wardenUp {slot : Nat} (h : s.Queued qs) : (s.wardenUp slot).Queued qs := h.rest.wardenFrom

theorem State.Queued.wardenFall (h : s.Queued qs) : s.wardenFall.Queued qs := by
  unfold State.wardenFall
  extract_lets s1
  have h1 : s1.Queued qs := h.switchSlot
  exact .ite h1.wardenFrom (.toRom (.ite h1.mainDown h1))

theorem State.Queued.reloadWarden (h : s.Queued qs) : s.reloadWarden.Queued qs := by
  unfold State.reloadWarden
  extract_lets s1
  have h1 : s1.2.Queued qs := h.wardenLoad
  exact .ite h1 (.ite h1.wardenGo h1.wardenFall)

theorem State.Queued.execWreload {m : Master} {v : Word} (h : s.Queued qs) : Answers (State.Queued qs) (execWreload m v s) :=
  .next (h.write (fun _ _ => .none) (fun _ _ ht => ht.reloadWarden))

theorem State.Queued.execAlwaysOnPowerOn {i3c : Bool} (h : s.Queued qs) : Answers (State.Queued qs) (execAlwaysOnPowerOn i3c s) := by
  unfold Machine.execAlwaysOnPowerOn
  refine .ite (.next h) ?_
  extract_lets _ _ _ _ s1 n s2 a s3
  have h1 : s1.Queued qs := h.rest
  have h2 : s2.Queued qs := h1.restorePair.restorePair.setReg.settleRec
  exact .ite (.next h2.wardenUp) (.ite (.next h2.fallBack.wardenUp) (.next h2.fallBack.toRom))

/-! ### Power -/

theorem State.Queued.copyHealth (h : s.Queued qs) : s.copyHealth.Queued qs := h.rest

theorem State.Queued.noteWake {n : Nat} (h : s.Queued qs) : (s.noteWake n).Queued qs := h.setReg.raise.count

theorem State.Queued.wakeBy {n : Nat} (h : s.Queued qs) : (s.wakeBy n).Queued qs := by
  unfold State.wakeBy
  extract_lets s1
  have h1 : s1.Queued qs := h.startWosc
  refine .ite h1 ?_
  split
  · exact .ite h1 h1.rest.setPower.raise.count.noteWake
  · exact .ite (.ite h1.setPower h1) (.ite h1.rest.noteWake.setPower h1)

theorem State.Queued.execWake {msg : List Byte} (h : s.Queued qs) : Answers (State.Queued qs) (execWake msg s) :=
  .ite (.next h) (.ite (.next (h.fromField (fun _ ht => ht.raise))) (.ite (.next h.wakeBy) (.next h)))

theorem State.Queued.requestState {n src : Nat} (h : s.Queued qs) : AllSome (State.Queued qs) (s.requestState n src) :=
  .ite .none (.ite (.some h.wakeBy) (.ite .none (.ite (.some h) (.some h.askDeep))))

theorem State.Queued.pwrReqCond {m : Master} {v : Word} (h : s.Queued qs) : AllSome (State.Queued qs) (pwrReqCond m v s) :=
  .ite .none (.ite (.some h.refuse) (.ite (.some h.setReg.refuse) .none))

theorem State.Queued.pwrReqEffect {v : Word} (h : s.Queued qs) : (pwrReqEffect v s).Queued qs :=
  .ite (AllSome.getD h.requestState h) h

theorem State.Queued.execGo {m : Master} {v : Word} (h : s.Queued qs) : Answers (State.Queued qs) (execGo m v s) :=
  .next (h.write (fun _ ht => ht.pwrReqCond) (fun _ _ ht => ht.pwrReqEffect))

theorem State.Queued.pwrCtrlCond {m : Master} {v : Word} (h : s.Queued qs) : AllSome (State.Queued qs) (pwrCtrlCond m v s) :=
  .ite (.some h.refuse) .none

theorem State.Queued.pwrCtrlEffect {v : Word} {d : RegDef} (h : s.Queued qs) : (pwrCtrlEffect v d s).Queued qs := by
  unfold Machine.pwrCtrlEffect
  extract_lets s1
  have h1 : s1.Queued qs := h.store
  exact h1.rest

theorem State.Queued.execAutomaticDeepTimer (h : s.Queued qs) : Answers (State.Queued qs) (execAutomaticDeepTimer s) :=
  .ite (.next h) (.next (.ite h.rest.askDeep h.rest))

theorem State.Queued.execBreezeEntry (h : s.Queued qs) : Answers (State.Queued qs) (execBreezeEntry s) := by
  unfold Machine.execBreezeEntry
  extract_lets held off s1
  exact .ite (.next h) (.next h.rest.setPower)

theorem State.Queued.execBreezeExit (h : s.Queued qs) : Answers (State.Queued qs) (execBreezeExit s) :=
  .ite (.next h) (.next (.foldl (h.setPower.foldl (fun _ ht _ => ht.routePage)) (fun _ ht _ => .ite ht.unhold ht)))

theorem State.Queued.logRaw {off : Nat → Bool} (h : s.Queued qs) : (s.logRaw off).Queued qs :=
  h.foldl (fun _ ht _ => .ite ht.logWarden ht)

theorem State.Queued.ackAppends (h : s.Queued qs) : s.ackAppends.Queued qs := by
  unfold State.ackAppends
  extract_lets s1
  have h1 : s1.Queued qs := h.foldl (fun _ ht _ => ht.closeAppend)
  split
  · exact h1
  · extract_lets s2
    have h2 : s2.Queued qs := h1.modFrl.closeSpan
    exact .ite h2.setReg.sendAck h2

theorem State.Queued.goDeep {ckpt : Bool} (h : s.Queued qs) : (s.goDeep ckpt).Queued qs := by
  unfold State.goDeep
  extract_lets s1 _ s2 _ _ _ s3
  have h1 : s1.Queued qs := h.abandon
  clear_value s1
  have h2 : s2.Queued qs := .ite h1.rest.syncRed h1
  clear_value s2
  have h3 : s3.Queued qs := h2.rest.flushOut
  clear_value s3
  exact .parkBuses (.maintain (h3.rest.ackAppends.foldl (fun _ ht _ => ht.forget)))

theorem State.Queued.execLullEntry (h : s.Queued qs) : Answers (State.Queued qs) (execLullEntry s) := by
  unfold Machine.execLullEntry
  extract_lets s1 s2 keep _ _ _ _ _ _ _ _ s3 s4 s5
  have h1 : s1.Queued qs := h.askWaiting
  have h2 : s2.Queued qs := h1.goDeep.logRaw.copyHealth.finishDram.frontDown
  clear_value s2
  have h3 : s3.Queued qs := h2.rest
  have h5 : s5.Queued qs := h3.setReg.setReg.setReg.setReg
  exact .ite (.next h1) (.next h5.setPower.count)

theorem State.Queued.offAsCalm (h : s.Queued qs) : s.offAsCalm.Queued qs := by
  unfold State.offAsCalm
  extract_lets s1
  have h1 : s1.Queued qs := h.mainDown
  clear_value s1
  exact h1.rest.rest.setReg.setReg.setReg.setPower

theorem State.Queued.execCalmEntry (h : s.Queued qs) : Answers (State.Queued qs) (execCalmEntry s) := by
  unfold Machine.execCalmEntry
  extract_lets s1
  have h1 : s1.Queued qs := h.askWaiting
  exact .ite (.next h1) (.next h1.goDeep.logRaw.copyHealth.writeAcct.offAsCalm.count)

theorem State.Queued.leaveSelfRefresh (h : s.Queued qs) : s.leaveSelfRefresh.Queued qs :=
  h.dramUp.foldl (fun _ ht _ => ht.setReg)

theorem State.Queued.execLullExit (h : s.Queued qs) : Answers (State.Queued qs) (execLullExit s) := by
  unfold Machine.execLullExit
  refine .ite (.next h) ?_
  extract_lets _ _ s1 s2 s3 _ _ s4 s5 s6 _ s7
  have h1 : s1.Queued qs := h.rest.clocksOn.foldl (fun _ ht _ => ht.routePage)
  have h2 : s2.Queued qs := h1.leaveSelfRefresh.cacheUp.channelsUp
  have h3 : s3.Queued qs := h2.foldl (fun _ ht _ => ht.setField)
  have h4 : s4.Queued qs := h3.rest.syncRed.pumpRebuild.fillStripes
  have h5 : s5.Queued qs := h4.foldl (fun _ ht _ => .ite ht.unhold ht)
  have h6 : s6.Queued qs := h5.srcCmdEffect
  have h7 : s7.Queued qs := h6.setReg.frontLink.setPower
  exact .next (.ite h7.ctrlSide h7)

theorem State.Queued.execCalmExit (h : s.Queued qs) : Answers (State.Queued qs) (execCalmExit s) :=
  .ite (.next h) (.next h.rest)

theorem State.Queued.execWardenOscillatorStop (h : s.Queued qs) : Answers (State.Queued qs) (execWardenOscillatorStop s) :=
  .ite (.next h) (.next h.setReg.setReg)

theorem State.Queued.stopDomains {l : List Nat} (h : s.Queued qs) : (s.stopDomains l).Queued qs :=
  h.foldl (fun _ ht _ => .ite ht.setReg ht.setReg)

theorem State.Queued.execPllUnlock {pll : Nat} (h : s.Queued qs) : Answers (State.Queued qs) (execPllUnlock pll s) := by
  unfold Machine.execPllUnlock
  refine .ite (.next h) ?_
  extract_lets _ s1 s2
  have h1 : s1.Queued qs := h.setReg.stopDomains
  have h2 : s2.Queued qs := h1.raise.count
  exact .next (.ite h2.beginAlarm h2)

theorem State.Queued.execCrystalStop {x25 : Bool} (h : s.Queued qs) : Answers (State.Queued qs) (execCrystalStop x25 s) := by
  unfold Machine.execCrystalStop
  extract_lets _ _ s1 s2
  have h1 : s1.Queued qs := .ite h.setReg h.setReg.stopDomains
  have h2 : s2.Queued qs := h1.raise.count
  exact .ite (.next h) (.next (.ite h2.beginAlarm h2))

theorem State.Queued.setSteps {step effect : Nat} (h : s.Queued qs) : (s.setSteps step effect).Queued qs :=
  .ite h h.setReg.raise

theorem State.Queued.changeStep {n : Nat} (h : s.Queued qs) : (s.changeStep n).Queued qs :=
  .ite h (.ite h.rest.setSteps h.rest.setSteps)

theorem State.Queued.countThrottle (h : s.Queued qs) : s.countThrottle.Queued qs := by
  unfold State.countThrottle
  split
  · exact h
  · exact .ite h h.rest.count

theorem State.Queued.execThermalSample {temps : List ℤ} {watts : Rat} (h : s.Queued qs) :
    Answers (State.Queued qs) (execThermalSample temps watts s) := by
  unfold Machine.execThermalSample
  refine .ite (.next h) ?_
  extract_lets _ _ _ _ _ _ _ _ s1 _ s2 s3 _ _ s4 _ s5 _ _ s6
  have h1 : s1.Queued qs := h.rest.setReg
  have h2 : s2.Queued qs := .ite h1 h1.raise
  have h3 : s3.Queued qs := .ite h2.count h2
  have h4 : s4.Queued qs := .ite h3.rest.changeStep h3.rest
  have h5 : s5.Queued qs := .ite h4.raise h4
  have h6 : s6.Queued qs := .setReg (.ite h5.rest.setSteps h5)
  exact .next h6.rest.countThrottle.syncTemp

theorem State.Queued.execThrottleEffect (h : s.Queued qs) : Answers (State.Queued qs) (execThrottleEffect s) := by
  unfold Machine.execThrottleEffect
  split
  · exact .next h
  · exact .ite (.next h) (.next h.rest.setSteps)

theorem State.Queued.execThermalHold (h : s.Queued qs) : Answers (State.Queued qs) (execThermalHold s) := by
  unfold Machine.execThermalHold
  extract_lets _ s1
  have h1 : s1.Queued qs := .ite (.parkBuses (.flushOut (.ite h.beginFlush h))) h
  exact .ite (.next h) (.next (.alert (.breakMs (.raise (.setReg (.ite h1.rest h1.rest.offAsCalm))))))

theorem State.Queued.execThermalHoldEnd (h : s.Queued qs) : Answers (State.Queued qs) (execThermalHoldEnd s) :=
  .ite (.next h) (.next h.setReg.wakeBy)

theorem State.Queued.execSupplySample {main aon vccq : Nat} (h : s.Queued qs) : Answers (State.Queued qs) (execSupplySample main aon vccq s) := by
  unfold Machine.execSupplySample
  refine .ite (.next h) ?_
  extract_lets _ _ _ _ _ _ s1 s2
  have h1 : s1.Queued qs := .ite h.setReg h.setReg.raise
  have h2 : s2.Queued qs := h1.count
  exact .next (.syncSupply (.ite h2.rest h2.rest.breakMs))

theorem State.Queued.execVccqNLoss (h : s.Queued qs) : Answers (State.Queued qs) (execVccqNLoss s) := by
  unfold Machine.execVccqNLoss
  refine .ite (.next h) ?_
  extract_lets s1
  have h1 : s1.Queued qs := h.abandon.parkBuses
  clear_value s1
  exact .next h1.rest

/-! ### Pcie -/

theorem State.Queued.modLink {g : Link → Link} (h : s.Queued qs) : (s.modLink g).Queued qs := h.rest

theorem State.Queued.execPcieLinkUp {speed width : Nat} (h : s.Queued qs) : Answers (State.Queued qs) (execPcieLinkUp speed width s) :=
  .ite (.next h) (.next h.modLink.setReg.setReg.raise)

theorem State.Queued.execPcieLinkDown (h : s.Queued qs) : Answers (State.Queued qs) (execPcieLinkDown s) :=
  .next h.linkDown

theorem State.Queued.execPcieL1Entry {pm : Nat} (h : s.Queued qs) : Answers (State.Queued qs) (execPcieL1Entry pm s) :=
  .ite (.next h) (.next h.rest.modLink)

theorem State.Queued.wakePcie (h : s.Queued qs) : s.wakePcie.Queued qs := .ite h.wakeBy h

theorem State.Queued.execPcieL1Exit (h : s.Queued qs) : Answers (State.Queued qs) (execPcieL1Exit s) := by
  unfold Machine.execPcieL1Exit
  refine .ite (.next h) ?_
  extract_lets _ s1
  have h1 : s1.Queued qs := h.rest.modLink
  exact .next (.ite h1.wakePcie h1)

theorem State.Queued.execPmcsrWrite {v : Word} (h : s.Queued qs) : Answers (State.Queued qs) (execPmcsrWrite v s) :=
  .ite (.next h) (.next (.ite h.modCtrl.wakePcie h.modCtrl))

theorem State.Queued.ctrlReset {k : Nat} (h : s.Queued qs) : (s.ctrlReset k).Queued qs :=
  .ite h.setReg.ctrlSide (.ite h.setReg.rest h.setReg)

theorem State.Queued.execPerstAsserted (h : s.Queued qs) : Answers (State.Queued qs) (execPerstAsserted s) :=
  .ite (.next h) (.next h.modLink.ctrlReset.linkDown)

theorem State.Queued.execPerstDeasserted (h : s.Queued qs) : Answers (State.Queued qs) (execPerstDeasserted s) :=
  .ite (.next h) (.next (.ite h.modLink.wakeBy h.modLink))

theorem State.Queued.execHotReset (h : s.Queued qs) : Answers (State.Queued qs) (execHotReset s) :=
  .ite (.next h.ctrlReset) (.next h)

theorem State.Queued.rstCtrlEffect {v : Word} (h : s.Queued qs) : (rstCtrlEffect v s).Queued qs := by
  unfold Machine.rstCtrlEffect
  extract_lets s1
  have h1 : s1.Queued qs := .ite h.ctrlReset h
  exact .ite h1.rest h1

theorem State.Queued.execCtrlrst {m : Master} {v : Word} (h : s.Queued qs) : Answers (State.Queued qs) (execCtrlrst m v s) :=
  .next (h.write (fun _ ht => ht.rstCtrlCond) (fun _ _ ht => ht.rstCtrlEffect))

theorem State.Queued.execMainrst {m : Master} {v : Word} (h : s.Queued qs) : Answers (State.Queued qs) (execMainrst m v s) :=
  .next (h.write (fun _ ht => ht.rstCtrlCond) (fun _ _ ht => ht.rstCtrlEffect))

/-! ### PageRead -/

theorem State.Queued.takeLatch {page off : Nat} {m : Master} (h : s.Queued qs) : (s.takeLatch page off m).2.Queued qs := by
  unfold State.takeLatch
  split
  · exact .snd h
  · exact .snd h.rest

theorem State.Queued.readReg {m : Master} {page off : Nat} (h : s.Queued qs) : (s.readReg m page off).2.Queued qs := by
  unfold State.readReg
  split
  · exact .snd h
  · refine .iteSnd (.snd h.latch) ?_
    split
    · next e => exact .snd (h.takeLatch.ofSnd e)
    · next e =>
        have h1 := h.takeLatch.ofSnd e
        split
        · exact .snd h1.usNext
        · split
          · exact h1.imRead
          · exact .snd h1
        · split
          · exact h1.dmRead
          · exact .snd h1
        · split
          · exact h1.rvalRead
          · exact .snd h1
        · exact .snd h1

theorem State.Queued.readPage {m : Master} {page off width : Nat} (h : s.Queued qs) : (s.readPage m page off width).2.Queued qs := by
  unfold State.readPage
  extract_lets s1
  have h1 : s1.Queued qs := h.arrive
  split
  · next e => exact .snd (h1.checkAccess.of_eq e)
  · exact .snd h1.readReg

theorem State.Queued.answerPage {m : Master} {page off : Nat} (h : s.Queued qs) : (s.answerPage m page off).Queued qs := by
  unfold State.answerPage
  split
  · next e => exact (h.readPage.ofSnd e).answerRead
  · next e => exact (h.readPage.ofSnd e).reply

theorem State.Queued.execCounterLowRead {m : Master} {page slot : Nat} (h : s.Queued qs) :
    Answers (State.Queued qs) (execCounterLowRead m page slot s) :=
  .next h.answerPage

theorem State.Queued.execTopDtimeLoRead {m : Master} (h : s.Queued qs) : Answers (State.Queued qs) (execTopDtimeLoRead m s) :=
  .next h.answerPage

/-! ### PageWrite -/

theorem State.Queued.enableEffect {page : Nat} {v : Word} {d : RegDef} (h : s.Queued qs) : (enableEffect page v d s).Queued qs := by
  unfold Machine.enableEffect
  extract_lets _ _ s1
  have h1 : s1.Queued qs := h.store
  refine .ite (.ite h1.emit h1) ?_
  split
  · next e => exact h1.signal.ofFst e
  · next e => exact (h1.signal.ofFst e).count

theorem State.Queued.mchCtrlPlain {ch : Nat} {v : Word} {d : RegDef} (h : s.Queued qs) : (mchCtrlPlain ch v d s).Queued qs := by
  unfold Machine.mchCtrlPlain
  refine .ite ?_ h.mchCtrlEffect
  split
  · next e => exact (h.free.ofSnd e).mchCtrlEffect

theorem State.Queued.celStatWrite {c : CellId} {v : Word} (h : s.Queued qs) : (celStatWrite c v s).Queued qs :=
  .ite h.modCell h

theorem State.Queued.blockCond {k : Kind} {i : Nat} {m : Master} {off : Nat} {v : Word} (h : s.Queued qs) :
    AllSome (State.Queued qs) (blockCond k i m off v s) := by
  unfold Machine.blockCond
  split
  · exact .iteFn h.sliceCond (.iteFn h.cvalCond .none)
  · exact .diteFn (fun _ => .iteFn h.scrubCond (.iteFn h.dwinCond (.iteFn h.heldCond (.iteFn h.dmCond (.iteFn h.rvalCond (.iteFn h.descCond
      .none)))))) (fun _ => .none)
  · exact .iteFn h.cdcCtrlCond .none
  · exact .iteFn h.rentCond .none
  · exact .iteFn h.msqCtrlCond (.iteFn h.mcCtrlCond .none)
  · exact .iteFn h.redFailCond .none
  · exact .iteFn h.mchCtrlCond (.iteFn h.usdataCond (.iteFn h.waymapCond .none))
  · exact .iteFn h.srbCtrlCond .none
  · exact .iteFn h.srcCtrlCond (.iteFn h.shbaseCond (.iteFn h.srcCmdCond .none))
  · exact .iteFn h.ccmLimCond .none
  · exact .iteFn h.digCtrlCond (.iteFn h.digCtxCond .none)
  · exact .iteFn h.slotWinCond .none
  · exact .iteFn h.drcCtrlCond (.iteFn h.armCond .none)
  · exact .iteFn h.dlyCond .none
  · exact .iteFn h.fchCtrlCond (.iteFn h.wmaskCond (.iteFn h.wdisCond (.iteFn h.wopCond .none)))
  · exact .iteFn h.mopCond .none
  · exact .iteFn h.shareCond (.iteFn h.dpCond .none)
  · exact .iteFn h.frlMsgCond .none
  · exact .iteFn h.pwrCtrlCond (.iteFn h.pwrReqCond .none)
  · exact .iteFn h.rstCtrlCond .none
  · exact .iteFn h.sqlCond .none
  · exact .none
  · exact .none
  · exact .none
  · exact .none
  · exact .none
  · exact .none
  · exact .none
  · exact .none
  · exact .none
  · exact .none
  · exact .none
  · exact .none

theorem State.Queued.blockEffect {k : Kind} {i page : Nat} {m : Master} {off : Nat} {v : Word} {d : RegDef} (h : s.Queued qs) :
    (blockEffect k i page m off v d s).Queued qs := by
  unfold Machine.blockEffect
  split
  · exact .iteFn h.admCtrlEffect (.iteFn h.sliceWrite (.iteFn h.cvalWrite h.store))
  · exact .iteFn h.snapEffect h.store
  · exact .diteFn (fun _ => .iteFn h.celCtrlEffect (.iteFn h.celStatWrite (.iteFn h.imWrite (.iteFn h.dmWrite (.iteFn h.rvalWrite (.iteFn
      h.suCmdEffect h.store)))))) (fun _ => h.store)
  · exact .iteFn h.cdcCtrlEffect h.store
  · exact .iteFn h.rentWrite (.iteFn (.ite h.reloadWarden h) h.store)
  · exact .iteFn h.mcRefreshWrite h.store
  · exact .iteFn h.redCtrlEffect (.iteFn h.redFailEffect h.store)
  · exact .iteFn h.mchCtrlPlain (.iteFn h.usdataEffect h.store)
  · exact .iteFn h.srbCtrlEffect h.store
  · exact .iteFn h.srcCmdEffect h.store
  · exact .iteFn h.cipCtrlEffect h.store
  · exact .iteFn h.digCtxWrite h.store
  · exact .iteFn h.keyCmdWrite (.iteFn h.slimWrite (.iteFn h.sownWrite (.iteFn h.wrapWrite h.store)))
  · exact .iteFn h.rtEffect h.store
  · exact .iteFn h.dlyWrite h.store
  · exact .iteFn h.wmaskEffect (.iteFn h.wdisEffect (.iteFn h.wopEffect h.store))
  · exact .iteFn h.mopEffect h.store
  · exact .iteFn h.vfmSelEffect (.iteFn (.ite h.applyEffect h) (.iteFn h.dpCtrlEffect (.iteFn h.dpEffect (.iteFn h.mboutWrite (.iteFn
      h.mbdbEffect h.store)))))
  · exact .iteFn h.vmbDbEffect h.store
  · exact .iteFn h.frlCtrlEffect (.iteFn h.frlMsgEffect h.store)
  · exact .iteFn h.pwrCtrlEffect (.iteFn h.pwrReqEffect h.store)
  · exact .iteFn h.rstCtrlEffect h.store
  · exact .iteFn h.evtCtrlEffect (.iteFn h.evtAlarmEffect h.store)
  · exact .iteFn h.sqlEffect h.store
  · exact h.store
  · exact h.store
  · exact h.store
  · exact h.store
  · exact h.store
  · exact h.store
  · exact h.store
  · exact h.store
  · exact h.store

theorem State.Queued.pageCond {page : Nat} {m : Master} {off : Nat} {v : Word} (h : s.Queued qs) :
    AllSome (State.Queued qs) (pageCond page m off v s) := by
  unfold Machine.pageCond
  rcases kindOf page with _ | ⟨k, i⟩
  · exact .none
  · exact .iteFn h.ownerCond (.iteFn h.controlCond (.iteFn h.blockCond .none))

theorem State.Queued.pageEffect {page : Nat} {m : Master} {off : Nat} {v : Word} {d : RegDef} (h : s.Queued qs) :
    (pageEffect page m off v d s).Queued qs := by
  unfold Machine.pageEffect
  rcases kindOf page with _ | ⟨k, i⟩
  · exact h
  · refine .iteFn h.blockEffect (.iteFn h.clearCounter (.iteFn h.controlEffect ?_))
    split
    · exact h.rearmCapture
    · exact h.enableEffect
    · exact h.raiseMask
    · exact h.clearRaw
    · exact h.routeEffect
    · exact h.forceEffect
    · exact h.mpCorrWrite
    · exact h.mpClear
    · exact h.store

theorem State.Queued.writePage {m : Master} {page off width : Nat} {v : Word} (h : s.Queued qs) : (s.writePage m page off width v).1.Queued qs :=
  h.write (fun _ ht => ht.pageCond) (fun _ _ ht => ht.pageEffect)

theorem State.Queued.execRegisterWrite {m : Master} {page off width : Nat} {v : Word} (h : s.Queued qs) :
    Answers (State.Queued qs) (execRegisterWrite m page off width v s) :=
  .next h.writePage

theorem State.Queued.takeServed {id addr : Nat} (h : s.Queued qs) : AllSome (fun x => x.2.Queued qs) (s.takeServed id addr) := by
  unfold State.takeServed
  split
  · exact .none
  · exact .some (.snd h.rest)

theorem State.Queued.dropServed {id addr : Nat} (h : s.Queued qs) : (s.dropServed id addr).Queued qs := h.rest

theorem State.Queued.takeLoad {c : CellId} {addr : Nat} {tag : BitVec 4} {rd : Reg} (h : s.Queued qs) : (takeLoad c addr tag rd s).Queued qs := by
  unfold Machine.takeLoad
  split
  · exact .stall h
  · next e => exact .ok (h.takeServed.of_eq e).setW

theorem State.Queued.loadPage {c : CellId} {a p off : Nat} {tag : BitVec 4} {rd : Reg} (h : s.Queued qs) :
    (loadPage c a p off tag rd s).Queued qs := by
  unfold Machine.loadPage
  split
  · next e => exact .refused (h.readPage.ofSnd e)
  · next e => exact (h.readPage.ofSnd e).deliver.takeLoad

theorem State.Queued.loadDram {c : CellId} {d : Nat} {tag : BitVec 4} {rd : Reg} (h : s.Queued qs) : (loadDram c d tag rd s).Queued qs := by
  unfold Machine.loadDram
  refine .ite (.stall h.awaitFill) ?_
  split
  · exact .stall h
  · next e => exact (h.access.of_eq e).takeLoad

theorem State.Queued.execFld {i : Iss} {tg : BitVec 2} {rd ra : Reg} (h : s.Queued qs) : Answers (State.Queued qs) (execFld i tg rd ra s) := by
  unfold Machine.execFld
  refine State.Queued.issue h (fun _ ht => ?_)
  extract_lets
  refine .need (.ite .trap ?_)
  split
  · exact .trap
  · exact .ite .trap (.ite ht.takeLoad (.ite .trap (.ite (.stall ht.routeDrop) ht.dropServed.loadDram)))
  · exact .ite ht.takeLoad (.ite (.stall ht.routeDrop) ht.dropServed.loadPage)

theorem State.Queued.storeDram {c : CellId} {d : Nat} {v : Word} (h : s.Queued qs) : (storeDram c d v s).Queued qs := by
  unfold Machine.storeDram
  refine .ite (.stall h.awaitFill) ?_
  split
  · exact .stall h
  · next e => exact .ok (h.access.of_eq e)

theorem State.Queued.storePage {c : CellId} {a p off : Nat} {v : Word} (h : s.Queued qs) : (storePage c a p off v s).Queued qs := by
  unfold Machine.storePage
  split
  · next e => exact .ok (h.writePage.ofFst e)
  · next e => exact .refused (h.writePage.ofFst e)

theorem State.Queued.execFst {i : Iss} {rs ra : Reg} (h : s.Queued qs) : Answers (State.Queued qs) (execFst i rs ra s) := by
  unfold Machine.execFst
  refine State.Queued.issue h (fun _ ht => ?_)
  extract_lets
  refine .need2 (.ite .trap ?_)
  split
  · exact .trap
  · exact .ite .trap (.ite (.ok ht.routeDrop) ht.storeDram)
  · exact .ite (.ok ht.routeDrop) ht.storePage

theorem State.Queued.flitDram {f : Flit} {write : Bool} (h : s.Queued qs) : (s.flitDram f write).Queued qs := by
  unfold State.flitDram
  split
  · exact .ite (AllSome.getD h.access h) h.awaitFill
  · exact h

theorem State.Queued.execFabricReadRequest {f : Flit} (h : s.Queued qs) : Answers (State.Queued qs) (execFabricReadRequest f s) := by
  unfold Machine.execFabricReadRequest
  refine .next (.onMesh h (fun _ ht => ?_))
  split
  · split
    · next e => exact (ht.readPage.ofSnd e).deliver
    · next e => exact ht.readPage.ofSnd e
  · exact ht.flitDram

theorem State.Queued.execFabricWrite {f : Flit} (h : s.Queued qs) : Answers (State.Queued qs) (execFabricWrite f s) := by
  unfold Machine.execFabricWrite
  refine .next (.onMesh h (fun _ ht => ?_))
  split
  · exact ht.writePage
  · exact ht.flitDram

/-! ### Sideband -/

theorem State.Queued.sbOut {r : SbReq} {bs : List Byte} (h : s.Queued qs) : (s.sbOut r bs).Queued qs := h.deliver

theorem State.Queued.mctpAnswer {r : SbReq} {cc : Byte} {data : List Byte} (h : s.Queued qs) : (s.mctpAnswer r cc data).Queued qs :=
  h.sbOut

theorem State.Queued.miAnswer {r : SbReq} {st : Byte} {resp : Nat} {data : List Byte} (h : s.Queued qs) :
    (s.miAnswer r st resp data).Queued qs :=
  h.sbOut

theorem State.Queued.vAnswer {r : SbReq} {st : Nat} {data : List Byte} (h : s.Queued qs) : (s.vAnswer r st data).Queued qs :=
  h.sbAnswer

theorem State.Queued.sbBusy {r : SbReq} (h : s.Queued qs) : (s.sbBusy r).Queued qs :=
  .ite h.mctpAnswer (.ite h.miAnswer h.vAnswer)

theorem State.Queued.sbTake {r : SbReq} {mine : Bool} {serve : State → State} (h : s.Queued qs) (hserve : ∀ t, t.Queued qs → (serve t).Queued qs) :
    Answers (State.Queued qs) (s.sbTake r mine serve) := by
  unfold State.sbTake
  refine .ite (.next h) ?_
  extract_lets s1 _ s2
  have h1 : s1.Queued qs := h.startWosc
  have h2 : s2.Queued qs := h1.count
  exact .ite (.next h1.count) (.ite (.next h1) (.ite (.next h1.rest) (.next (.ite h2.sbBusy (hserve _ h2)))))

theorem State.Queued.sbHold {eid tag op : Byte} (h : s.Queued qs) : (s.sbHold eid tag op).Queued qs := h.rest

theorem State.Queued.sbMain {serve hold notReady : State → State} (h : s.Queued qs) (hserve : ∀ t, t.Queued qs → (serve t).Queued qs) (hhold : ∀ t,
    t.Queued qs → (hold t).Queued qs) (hnotReady : ∀ t, t.Queued qs → (notReady t).Queued qs) : (s.sbMain serve hold notReady).Queued qs :=
  .ite (.ite (hhold _ h) (hserve _ h)) (hnotReady _ h)

theorem State.Queued.execEntdaa {addr : BitVec 7} (h : s.Queued qs) : Answers (State.Queued qs) (execEntdaa addr s) :=
  .ite (.next h.startWosc.setField) (.next h)

theorem State.Queued.mctp {r : SbReq} {code : Byte} {serve : State → State} (h : s.Queued qs) (hserve : ∀ t, t.Queued qs → (serve t).Queued qs) :
    Answers (State.Queued qs) (s.mctp r code serve) :=
  h.sbTake hserve

theorem State.Queued.execSetEndpointId {r : SbReq} (h : s.Queued qs) : Answers (State.Queued qs) (execSetEndpointId r s) :=
  h.mctp (fun _ ht => .ite ht.mctpAnswer (.ite ht.mctpAnswer ht.setField.mctpAnswer))

theorem State.Queued.execGetEndpointId {r : SbReq} (h : s.Queued qs) : Answers (State.Queued qs) (execGetEndpointId r s) :=
  h.mctp (fun _ ht => ht.mctpAnswer)

theorem State.Queued.execGetMctpVersionSupport {r : SbReq} (h : s.Queued qs) : Answers (State.Queued qs) (execGetMctpVersionSupport r s) := by
  unfold Machine.execGetMctpVersionSupport
  refine State.Queued.mctp h (fun _ ht => ?_)
  split
  · exact ht.mctpAnswer
  · exact ht.mctpAnswer
  · exact ht.mctpAnswer
  · exact ht.mctpAnswer

theorem State.Queued.execGetMessageTypeSupport {r : SbReq} (h : s.Queued qs) : Answers (State.Queued qs) (execGetMessageTypeSupport r s) :=
  h.mctp (fun _ ht => ht.mctpAnswer)

theorem State.Queued.execGetVendorDefinedMessageSupport {r : SbReq} (h : s.Queued qs) :
    Answers (State.Queued qs) (execGetVendorDefinedMessageSupport r s) :=
  h.mctp (fun _ ht => .ite ht.mctpAnswer ht.mctpAnswer)

theorem State.Queued.execUnsupportedMctpMessage {r : SbReq} (h : s.Queued qs) : Answers (State.Queued qs) (execUnsupportedMctpMessage r s) :=
  .ite (h.sbTake (fun _ ht => ht.mctpAnswer)) (.ite (.next h) (.ite (.next h.startWosc.count) (.next h)))

theorem State.Queued.execBasicManagementCommand {r : SbReq} (h : s.Queued qs) : Answers (State.Queued qs) (execBasicManagementCommand r s) :=
  h.sbTake (fun _ ht => ht.sbOut)

theorem State.Queued.mi {r : SbReq} {op : Nat} {serve : State → State} (h : s.Queued qs) (hserve : ∀ t, t.Queued qs → (serve t).Queued qs) :
    Answers (State.Queued qs) (s.mi r op serve) :=
  h.sbTake (fun _ ht => ht.sbMain hserve (fun _ ht2 => ht2.sbHold) (fun _ ht2 => ht2.miAnswer))

theorem State.Queued.execReadNvmeMiDataStructure {r : SbReq} (h : s.Queued qs) : Answers (State.Queued qs) (execReadNvmeMiDataStructure r s) :=
  h.mi (fun _ ht => ht.miAnswer)

theorem State.Queued.execNvmSubsystemHealthStatusPoll {r : SbReq} (h : s.Queued qs) :
    Answers (State.Queued qs) (execNvmSubsystemHealthStatusPoll r s) :=
  h.mi (fun _ ht => ht.miAnswer)

theorem State.Queued.execControllerHealthStatusPoll {r : SbReq} (h : s.Queued qs) :
    Answers (State.Queued qs) (execControllerHealthStatusPoll r s) :=
  h.mi (fun _ ht => ht.miAnswer)

theorem State.Queued.execConfigurationGet {r : SbReq} (h : s.Queued qs) : Answers (State.Queued qs) (execConfigurationGet r s) := by
  unfold Machine.execConfigurationGet
  refine State.Queued.mi h (fun _ ht => ?_)
  split
  · exact .ite ht.miAnswer ht.miAnswer
  · exact ht.miAnswer
  · exact ht.miAnswer

theorem State.Queued.execConfigurationSet {r : SbReq} (h : s.Queued qs) : Answers (State.Queued qs) (execConfigurationSet r s) := by
  unfold Machine.execConfigurationSet
  refine State.Queued.mi h (fun _ ht => ?_)
  split
  · exact .ite ht.miAnswer ht.rest.miAnswer
  · exact ht.miAnswer
  · exact ht.miAnswer

theorem State.Queued.execVpdRead {r : SbReq} (h : s.Queued qs) : Answers (State.Queued qs) (execVpdRead r s) :=
  h.mi (fun _ ht => .ite ht.miAnswer ht.miAnswer)

theorem State.Queued.tunnel {c : NvmeCmd} (h : s.Queued qs) : (s.tunnel c).2.2.Queued qs := by
  unfold State.tunnel
  split
  · split
    · exact .snd2 h
    · exact .snd2 h
  · extract_lets
    split
    · exact .snd2 h
    · exact .iteSnd2 (.snd2 h) (.snd2 h.afterLog)
  · refine .iteSnd2 (.snd2 h) (.iteSnd2 (.snd2 h) ?_)
    split
    · exact .snd2 h
    · exact .snd2 h

theorem State.Queued.execAdminCommandTunnel {r : SbReq} (h : s.Queued qs) : Answers (State.Queued qs) (execAdminCommandTunnel r s) :=
  h.sbTake (fun _ ht => .ite ht.miAnswer (.ite ht.sbHold (.ite ht.miAnswer ht.tunnel.miAnswer)))

theorem State.Queued.execRefusedNvmeMiCommand {r : SbReq} (h : s.Queued qs) : Answers (State.Queued qs) (execRefusedNvmeMiCommand r s) :=
  h.sbTake (fun _ ht => ht.miAnswer)

theorem State.Queued.vendor {r : SbReq} {op : Nat} {mine rom : Bool} {serve : State → State} (h : s.Queued qs) (hserve : ∀ t, t.Queued qs → (serve
    t).Queued qs) : Answers (State.Queued qs) (s.vendor r op mine rom serve) :=
  h.sbTake (fun _ ht => .ite ht.vAnswer (.ite ht.vAnswer (hserve _ ht)))

theorem State.Queued.readWords' {page off n : Nat} (h : s.Queued qs) : (s.readWords' page off n).2.2.Queued qs := by
  induction n generalizing s off with
  | zero => exact .snd2 h
  | succ n ih =>
    unfold State.readWords'
    split
    · next e => exact .snd2 (ih (h.readPage.ofSnd e))
    · next e => exact .snd2 (h.readPage.ofSnd e)
    · next e => exact .snd2 (h.readPage.ofSnd e)

theorem State.Queued.execPageRead {r : SbReq} (h : s.Queued qs) : Answers (State.Queued qs) (execPageRead r s) :=
  h.vendor (fun _ ht => .ite ht.vAnswer ht.readWords'.vAnswer)

theorem State.Queued.writeWords' {page off : Nat} {l : List Word} (h : s.Queued qs) : (s.writeWords' page off l).2.2.Queued qs := by
  induction l generalizing s off with
  | nil => exact .snd2 h
  | cons x l ih =>
    unfold State.writeWords'
    split
    · next e => exact .snd2 (ih (h.writePage.ofFst e))
    · next e => exact .snd2 (h.writePage.ofFst e)
    · next e => exact .snd2 (h.writePage.ofFst e)

theorem State.Queued.execPageWrite {r : SbReq} (h : s.Queued qs) : Answers (State.Queued qs) (execPageWrite r s) :=
  h.vendor (fun _ ht => .ite ht.vAnswer ht.writeWords'.vAnswer)

theorem State.Queued.execHealth {r : SbReq} (h : s.Queued qs) : Answers (State.Queued qs) (execHealth r s) :=
  h.vendor (fun _ ht => ht.vAnswer)

theorem State.Queued.execPowerGet {r : SbReq} (h : s.Queued qs) : Answers (State.Queued qs) (execPowerGet r s) :=
  h.vendor (fun _ ht => .ite ht.vAnswer ht.vAnswer)

theorem State.Queued.execPowerRequest {r : SbReq} (h : s.Queued qs) : Answers (State.Queued qs) (execPowerRequest r s) := by
  unfold Machine.execPowerRequest
  refine State.Queued.vendor h (fun _ ht => ?_)
  extract_lets
  refine .ite ht.vAnswer (.ite ht.vAnswer ?_)
  split
  · exact ht.vAnswer
  · next e => exact (ht.requestState.of_eq e).vAnswer

theorem State.Queued.logAnswer {r : SbReq} {p : List Byte} (h : s.Queued qs) : (s.logAnswer r p).Queued qs :=
  .ite h.vAnswer h.vAnswer

theorem State.Queued.execLogRead {r : SbReq} (h : s.Queued qs) : Answers (State.Queued qs) (execLogRead r s) := by
  unfold Machine.execLogRead
  refine State.Queued.vendor h (fun _ ht => ?_)
  extract_lets
  refine .ite ht.vAnswer ?_
  refine .ite ht.logAnswer (.sbMain ht (fun _ ht2 => ?_) (fun _ ht2 => ht2.sbHold) (fun _ ht2 => ht2.vAnswer))
  split
  · exact ht2.logAnswer
  · exact ht2.vAnswer

theorem State.Queued.execFwSlotGet {r : SbReq} (h : s.Queued qs) : Answers (State.Queued qs) (execFwSlotGet r s) :=
  h.vendor (fun _ ht => .ite ht.vAnswer ht.vAnswer)

theorem State.Queued.execFwSlotSet {r : SbReq} (h : s.Queued qs) : Answers (State.Queued qs) (execFwSlotSet r s) :=
  h.vendor (fun _ ht => .ite ht.vAnswer (.ite ht.vAnswer ht.putRec.vAnswer))

theorem State.Queued.execFieldStatus {r : SbReq} (h : s.Queued qs) : Answers (State.Queued qs) (execFieldStatus r s) :=
  h.vendor (fun _ ht => .ite ht.vAnswer ht.vAnswer)

theorem State.Queued.execFieldConfig {r : SbReq} (h : s.Queued qs) : Answers (State.Queued qs) (execFieldConfig r s) :=
  h.vendor (fun _ ht => .ite ht.vAnswer (ht.sbMain (fun _ ht2 => ht2.sbHold.sendField) (fun _ ht2 => ht2.sbHold) (fun _ ht2 =>
      ht2.vAnswer)))

theorem State.Queued.execEvidProvision {r : SbReq} (h : s.Queued qs) : Answers (State.Queued qs) (execEvidProvision r s) :=
  h.vendor (fun _ ht => .ite ht.vAnswer (ht.sbMain (fun _ ht2 => .ite ht2.vAnswer (.ite ht2.vAnswer ht2.rest.raise.vAnswer)) (fun _ ht2 =>
      ht2.sbHold) (fun _ ht2 => ht2.vAnswer)))

theorem State.Queued.execRootBlob {r : SbReq} (h : s.Queued qs) : Answers (State.Queued qs) (execRootBlob r s) :=
  h.vendor (fun _ ht => .ite ht.vAnswer (.ite ht.vAnswer ht.rest.raise.vAnswer))

theorem State.Queued.execOwner {r : SbReq} (h : s.Queued qs) : Answers (State.Queued qs) (execOwner r s) := by
  unfold Machine.execOwner
  refine State.Queued.vendor h (fun _ ht => ?_)
  extract_lets
  refine .ite ht.vAnswer ?_
  split
  · next e => exact (ht.writePage.ofFst e).vAnswer
  · next e => exact (ht.writePage.ofFst e).vAnswer
  · next e => exact (ht.writePage.ofFst e).vAnswer

theorem State.Queued.execSquallStatus {r : SbReq} (h : s.Queued qs) : Answers (State.Queued qs) (execSquallStatus r s) :=
  h.vendor (fun _ ht => .ite ht.vAnswer ht.vAnswer)

theorem State.Queued.execSquallUnlock {r : SbReq} (h : s.Queued qs) : Answers (State.Queued qs) (execSquallUnlock r s) :=
  h.vendor (fun _ ht => .ite ht.vAnswer (.ite ht.vAnswer ht.unlockSquall.vAnswer))

theorem State.Queued.execSquallLock {r : SbReq} (h : s.Queued qs) : Answers (State.Queued qs) (execSquallLock r s) :=
  h.vendor (fun _ ht => .ite ht.vAnswer ht.lockSquall.vAnswer)

theorem State.Queued.execUnknownVendorOp {r : SbReq} (h : s.Queued qs) : Answers (State.Queued qs) (execUnknownVendorOp r s) :=
  h.sbTake (fun _ ht => .ite ht.vAnswer ht.vAnswer)

theorem State.Queued.execMainSideTimeout (h : s.Queued qs) : Answers (State.Queued qs) (execMainSideTimeout s) := by
  unfold Machine.execMainSideTimeout
  split
  · exact .next h
  · exact .ite (.next h.rest.deliver) (.next h.sbAnswer)

theorem State.Queued.execHealthRefresh {answered : Bool} (h : s.Queued qs) : Answers (State.Queued qs) (execHealthRefresh answered s) :=
  .ite (.next h) (.ite (.next h.rest.copyHealth) (.next h.rest))

/-- Every request that the port serves leaves the queue as it is. -/
theorem sbServices_queued : ∀ f ∈ sbServices, ∀ (r : SbReq) (s : State), s.Queued qs → Answers (State.Queued qs) (f r s) := by
  unfold sbServices
  simp only [List.forall_mem_cons]
  exact ⟨fun _ _ h => h.execSetEndpointId, fun _ _ h => h.execGetEndpointId, fun _ _ h => h.execGetMctpVersionSupport,
    fun _ _ h => h.execGetMessageTypeSupport, fun _ _ h => h.execGetVendorDefinedMessageSupport,
    fun _ _ h => h.execUnsupportedMctpMessage, fun _ _ h => h.execBasicManagementCommand,
    fun _ _ h => h.execReadNvmeMiDataStructure, fun _ _ h => h.execNvmSubsystemHealthStatusPoll,
    fun _ _ h => h.execControllerHealthStatusPoll, fun _ _ h => h.execConfigurationGet, fun _ _ h => h.execConfigurationSet,
    fun _ _ h => h.execVpdRead, fun _ _ h => h.execAdminCommandTunnel, fun _ _ h => h.execRefusedNvmeMiCommand,
    fun _ _ h => h.execPageRead, fun _ _ h => h.execPageWrite, fun _ _ h => h.execHealth, fun _ _ h => h.execPowerGet,
    fun _ _ h => h.execPowerRequest, fun _ _ h => h.execLogRead, fun _ _ h => h.execFwSlotGet, fun _ _ h => h.execFwSlotSet,
    fun _ _ h => h.execFieldStatus, fun _ _ h => h.execFieldConfig, fun _ _ h => h.execEvidProvision,
    fun _ _ h => h.execRootBlob, fun _ _ h => h.execOwner, fun _ _ h => h.execSquallStatus, fun _ _ h => h.execSquallUnlock,
    fun _ _ h => h.execSquallLock, fun _ _ h => h.execUnknownVendorOp, fun _ hf => nomatch hf⟩

theorem State.Queued.serveSb {r : SbReq} (h : s.Queued qs) : (s.serveSb r).Queued qs := by
  unfold State.serveSb
  refine sbServices.foldlRecOn _ h fun t ht f hf => ?_
  split
  · next e =>
      obtain ⟨u, e', hu⟩ := sbServices_queued f hf r t ht
      exact Host.Outcome.next.inj (e.symm.trans e') ▸ hu
  · exact ht

theorem State.Queued.serveHeld (h : s.Queued qs) : s.serveHeld.Queued qs := h.rest.foldl (fun _ ht _ => ht.serveSb)

theorem State.Queued.execReportReady {c : CellId} (h : s.Queued qs) : Answers (State.Queued qs) (execReportReady c s) := by
  unfold Machine.execReportReady
  refine .ite (.next h) ?_
  extract_lets s1 s2 s3 s4
  have h1 : s1.Queued qs := h.cellReady
  have h2 : s2.Queued qs := .ite h1.serveHeld h1
  have h3 : s3.Queued qs := .ite h2.endPause h2
  have h4 : s4.Queued qs := by
    dsimp only [s4]
    split
    · exact .ite h3.endActivation (.ite h3.reverseNext h3)
    · exact h3
  exact .next h4.enterExecs

/-! ## Every command, and the step -/

/-- Every command answers a next state, in which the same commands wait. -/
theorem exec_queued {i : Instr} (h : s.Queued qs) : Answers (State.Queued qs) (exec i s) := by
  cases i with
  | registerWrite m page off width v => exact (h.execRegisterWrite : Answers _ (execRegisterWrite m page off width v s))
  | refusedRead m page off width => exact (h.execRefusedRead : Answers _ (execRefusedRead m page off width s))
  | errcapRearm m page v => exact (h.execErrcapRearm : Answers _ (execErrcapRearm m page v s))
  | evSet m page v => exact (h.execEvSet : Answers _ (execEvSet m page v s))
  | evClear m page v hw => exact (h.execEvClear : Answers _ (execEvClear m page v hw s))
  | evRouteWrite m page v => exact (h.execEvRouteWrite : Answers _ (execEvRouteWrite m page v s))
  | pgOwnerWrite m page v => exact (h.execPgOwnerWrite : Answers _ (execPgOwnerWrite m page v s))
  | counterClear m page slot v => exact (h.execCounterClear : Answers _ (execCounterClear m page slot v s))
  | counterLowRead m page slot => exact (h.execCounterLowRead : Answers _ (execCounterLowRead m page slot s))
  | topDtimeLoRead m => exact (h.execTopDtimeLoRead : Answers _ (execTopDtimeLoRead m s))
  | deviceTimeTick aon => exact (h.execDeviceTimeTick : Answers _ (execDeviceTimeTick aon s))
  | sqTailDoorbell fn y bytes v => exact (h.execSqTailDoorbell : Answers _ (execSqTailDoorbell fn y bytes v s))
  | cqHeadDoorbell fn y bytes v => exact (h.execCqHeadDoorbell : Answers _ (execCqHeadDoorbell fn y bytes v s))
  | bar0Access fn off len write => exact (h.execBar0Access : Answers _ (execBar0Access fn off len write s))
  | controllerEnable fn cc => exact (h.execControllerEnable : Answers _ (execControllerEnable fn cc s))
  | controllerReset fn => exact (h.execControllerReset : Answers _ (execControllerReset fn s))
  | controllerResetComplete fn => exact (h.execControllerResetComplete : Answers _ (execControllerResetComplete fn s))
  | shutdownNotification fn shn => exact (h.execShutdownNotification : Answers _ (execShutdownNotification fn shn s))
  | shutdownComplete fn => exact (h.execShutdownComplete : Answers _ (execShutdownComplete fn s))
  | tokenRefill => exact (h.execTokenRefill : Answers _ (execTokenRefill s))
  | commandStart c => exact (h.execCommandStart : Answers _ (execCommandStart c s))
  | completionPost c => exact (h.execCompletionPost : Answers _ (execCompletionPost c s))
  | evidentialBoundPassed c => exact (h.execEvidentialBoundPassed : Answers _ (execEvidentialBoundPassed c s))
  | admSliceWrite m v => exact (h.execAdmSliceWrite : Answers _ (execAdmSliceWrite m v s))
  | lock m v => exact (h.execLock : Answers _ (execLock m v s))
  | admCvalWrite m v => exact (h.execAdmCvalWrite : Answers _ (execAdmCvalWrite m v s))
  | adlSnap m v => exact (h.execAdlSnap : Answers _ (execAdlSnap m v s))
  | gcdebtRefresh => exact (h.execGcdebtRefresh : Answers _ (execGcdebtRefresh s))
  | housekeepingRetry => exact (h.execHousekeepingRetry : Answers _ (execHousekeepingRetry s))
  | selfTestSegment fn units last pass => exact (h.execSelfTestSegment : Answers _ (execSelfTestSegment fn units last pass s))
  | createIoSubmissionQueue c => exact (h.execCreateIoSubmissionQueue : Answers _ (execCreateIoSubmissionQueue c s))
  | createIoCompletionQueue c => exact (h.execCreateIoCompletionQueue : Answers _ (execCreateIoCompletionQueue c s))
  | deleteIoSubmissionQueue c => exact (h.execDeleteIoSubmissionQueue : Answers _ (execDeleteIoSubmissionQueue c s))
  | deleteIoCompletionQueue c => exact (h.execDeleteIoCompletionQueue : Answers _ (execDeleteIoCompletionQueue c s))
  | getLogPage c => exact (h.execGetLogPage : Answers _ (execGetLogPage c s))
  | identify c => exact (h.execIdentify : Answers _ (execIdentify c s))
  | abort c => exact (h.execAbort : Answers _ (execAbort c s))
  | setFeatures c => exact (h.execSetFeatures : Answers _ (execSetFeatures c s))
  | getFeatures c => exact (h.execGetFeatures : Answers _ (execGetFeatures c s))
  | setFeaturesNumberOfQueues c => exact (h.execSetFeaturesNumberOfQueues : Answers _ (execSetFeaturesNumberOfQueues c s))
  | setFeaturesTimestamp c => exact (h.execSetFeaturesTimestamp : Answers _ (execSetFeaturesTimestamp c s))
  | getFeaturesTimestamp c => exact (h.execGetFeaturesTimestamp : Answers _ (execGetFeaturesTimestamp c s))
  | setQueueAdmissionDefault c => exact (h.execSetQueueAdmissionDefault : Answers _ (execSetQueueAdmissionDefault c s))
  | getQueueAdmissionDefault c => exact (h.execGetQueueAdmissionDefault : Answers _ (execGetQueueAdmissionDefault c s))
  | interruptCoalescingTimer fn vec => exact (h.execInterruptCoalescingTimer : Answers _ (execInterruptCoalescingTimer fn vec s))
  | asynchronousEventRequest c => exact (h.execAsynchronousEventRequest : Answers _ (execAsynchronousEventRequest c s))
  | namespaceManagement c => exact (h.execNamespaceManagement : Answers _ (execNamespaceManagement c s))
  | namespaceAttachment c => exact (h.execNamespaceAttachment : Answers _ (execNamespaceAttachment c s))
  | firmwareImageDownload c => exact (h.execFirmwareImageDownload : Answers _ (execFirmwareImageDownload c s))
  | firmwareCommitReplace c => exact (h.execFirmwareCommitReplace : Answers _ (execFirmwareCommitReplace c s))
  | firmwareCommitNextReset c => exact (h.execFirmwareCommitNextReset : Answers _ (execFirmwareCommitNextReset c s))
  | firmwareCommitActivate c => exact (h.execFirmwareCommitActivate : Answers _ (execFirmwareCommitActivate c s))
  | signatureCheckDone ok => exact (h.execSignatureCheckDone : Answers _ (execSignatureCheckDone ok s))
  | deviceSelfTest c => exact (h.execDeviceSelfTest : Answers _ (execDeviceSelfTest c s))
  | formatNvm c => exact (h.execFormatNvm : Answers _ (execFormatNvm c s))
  | secondaryControllerOffline c => exact (h.execSecondaryControllerOffline : Answers _ (execSecondaryControllerOffline c s))
  | secondaryControllerAssign c => exact (h.execSecondaryControllerAssign : Answers _ (execSecondaryControllerAssign c s))
  | secondaryControllerOnline c => exact (h.execSecondaryControllerOnline : Answers _ (execSecondaryControllerOnline c s))
  | invalidCommandOpcode c => exact (h.execInvalidCommandOpcode : Answers _ (execInvalidCommandOpcode c s))
  | loadProgram c => exact (h.execLoadProgram : Answers _ (execLoadProgram c s))
  | programActivationManagement c => exact (h.execProgramActivationManagement : Answers _ (execProgramActivationManagement c s))
  | memoryRangeSetManagement c => exact (h.execMemoryRangeSetManagement : Answers _ (execMemoryRangeSetManagement c s))
  | read c => exact (h.execRead : Answers _ (execRead c s))
  | write c => exact (h.execWrite : Answers _ (execWrite c s))
  | flush c => exact (h.execFlush : Answers _ (execFlush c s))
  | compare c => exact (h.execCompare : Answers _ (execCompare c s))
  | writeZeroes c => exact (h.execWriteZeroes : Answers _ (execWriteZeroes c s))
  | datasetManagement c => exact (h.execDatasetManagement : Answers _ (execDatasetManagement c s))
  | verify c => exact (h.execVerify : Answers _ (execVerify c s))
  | copy c => exact (h.execCopy : Answers _ (execCopy c s))
  | executeProgram c => exact (h.execExecuteProgram : Answers _ (execExecuteProgram c s))
  | memoryRead c => exact (h.execMemoryRead : Answers _ (execMemoryRead c s))
  | memoryWrite c => exact (h.execMemoryWrite : Answers _ (execMemoryWrite c s))
  | hostWriteDataReceived c bs => exact (h.execHostWriteDataReceived : Answers _ (execHostWriteDataReceived c bs s))
  | hostTransferFailure c => exact (h.execHostTransferFailure : Answers _ (execHostTransferFailure c s))
  | droppedAppendZeroFill => exact (h.execDroppedAppendZeroFill : Answers _ (execDroppedAppendZeroFill s))
  | pcieLinkUp speed width => exact (h.execPcieLinkUp : Answers _ (execPcieLinkUp speed width s))
  | pcieLinkDown => exact (h.execPcieLinkDown : Answers _ (execPcieLinkDown s))
  | flrPf => exact (h.execFlrPf : Answers _ (execFlrPf s))
  | flrVf fn => exact (h.execFlrVf : Answers _ (execFlrVf fn s))
  | vfResetComplete fn => exact (h.execVfResetComplete : Answers _ (execVfResetComplete fn s))
  | vfEnableClear => exact (h.execVfEnableClear : Answers _ (execVfEnableClear s))
  | msixEnable fn => exact (h.execMsixEnable : Answers _ (execMsixEnable fn s))
  | msixMaskClear fn vec => exact (h.execMsixMaskClear : Answers _ (execMsixMaskClear fn vec s))
  | pmcsrWrite v => exact (h.execPmcsrWrite : Answers _ (execPmcsrWrite v s))
  | pcieL1Exit => exact (h.execPcieL1Exit : Answers _ (execPcieL1Exit s))
  | perstAsserted => exact (h.execPerstAsserted : Answers _ (execPerstAsserted s))
  | perstDeasserted => exact (h.execPerstDeasserted : Answers _ (execPerstDeasserted s))
  | hotReset => exact (h.execHotReset : Answers _ (execHotReset s))
  | ctrlrst m v => exact (h.execCtrlrst : Answers _ (execCtrlrst m v s))
  | mainrst m v => exact (h.execMainrst : Answers _ (execMainrst m v s))
  | fillComplete c => exact (h.execFillComplete : Answers _ (execFillComplete c s))
  | scrub m c v => exact (h.execScrub : Answers _ (execScrub m c v s))
  | celHoldWrite m c v => exact (h.execCelHoldWrite : Answers _ (execCelHoldWrite m c v s))
  | holdReached c => exact (h.execHoldReached : Answers _ (execHoldReached c s))
  | celImdataAccess m c write => exact (h.execCelImdataAccess : Answers _ (execCelImdataAccess m c write s))
  | celDmdataAccess m c write => exact (h.execCelDmdataAccess : Answers _ (execCelDmdataAccess m c write s))
  | celRvalAccess m c write => exact (h.execCelRvalAccess : Answers _ (execCelRvalAccess m c write s))
  | interruptInput c => exact (h.execInterruptInput : Answers _ (execInterruptInput c s))
  | budgetExhausted c => exact (h.execBudgetExhausted : Answers _ (execBudgetExhausted c s))
  | productLands c => exact (h.execProductLands : Answers _ (execProductLands c s))
  | streamStallEnd c cycles => exact (h.execStreamStallEnd : Answers _ (execStreamStallEnd c cycles s))
  | unassignedEncoding iss w => exact (h.execUnassignedEncoding : Answers _ (execUnassignedEncoding iss w s))
  | add iss rd rs => exact (h.execAdd : Answers _ (execAdd iss rd rs s))
  | sub iss rd rs => exact (h.execSub : Answers _ (execSub iss rd rs s))
  | and iss rd rs => exact (h.execAnd : Answers _ (execAnd iss rd rs s))
  | or iss rd rs => exact (h.execOr : Answers _ (execOr iss rd rs s))
  | xor iss rd rs => exact (h.execXor : Answers _ (execXor iss rd rs s))
  | shl iss rd rs => exact (h.execShl : Answers _ (execShl iss rd rs s))
  | shr iss rd rs => exact (h.execShr : Answers _ (execShr iss rd rs s))
  | sar iss rd rs => exact (h.execSar : Answers _ (execSar iss rd rs s))
  | adds iss rd rs => exact (h.execAdds : Answers _ (execAdds iss rd rs s))
  | subs iss rd rs => exact (h.execSubs : Answers _ (execSubs iss rd rs s))
  | mul iss rd rs => exact (h.execMul : Answers _ (execMul iss rd rs s))
  | cmp iss rd rs => exact (h.execCmp : Answers _ (execCmp iss rd rs s))
  | addi iss rd im => exact (h.execAddi : Answers _ (execAddi iss rd im s))
  | cmpi iss rd im => exact (h.execCmpi : Answers _ (execCmpi iss rd im s))
  | andi iss rd im => exact (h.execAndi : Answers _ (execAndi iss rd im s))
  | ori iss rd im => exact (h.execOri : Answers _ (execOri iss rd im s))
  | li iss tg rd im => exact (h.execLi : Answers _ (execLi iss tg rd im s))
  | mov iss rd rs => exact (h.execMov : Answers _ (execMov iss rd rs s))
  | narrow iss rd rs => exact (h.execNarrow : Answers _ (execNarrow iss rd rs s))
  | beql iss rd rs => exact (h.execBeql : Answers _ (execBeql iss rd rs s))
  | savl iss rd rs => exact (h.execSavl : Answers _ (execSavl iss rd rs s))
  | movs iss rd sp => exact (h.execMovs : Answers _ (execMovs iss rd sp s))
  | sets iss sp rs => exact (h.execSets : Answers _ (execSets iss sp rs s))
  | fst iss rs ra => exact (h.execFst : Answers _ (execFst iss rs ra s))
  | fld iss tg rd ra => exact (h.execFld : Answers _ (execFld iss tg rd ra s))
  | retag iss rd rs => exact (h.execRetag : Answers _ (execRetag iss rd rs s))
  | ld iss rd im => exact (h.execLd : Answers _ (execLd iss rd im s))
  | st iss rs im => exact (h.execSt : Answers _ (execSt iss rs im s))
  | ldx iss rd rp hi => exact (h.execLdx : Answers _ (execLdx iss rd rp hi s))
  | stx iss rs rp hi => exact (h.execStx : Answers _ (execStx iss rs rp hi s))
  | push iss r => exact (h.execPush : Answers _ (execPush iss r s))
  | pop iss r => exact (h.execPop : Answers _ (execPop iss r s))
  | sld iss size rd wh hi => exact (h.execSld : Answers _ (execSld iss size rd wh hi s))
  | sst iss size rs wh hi => exact (h.execSst : Answers _ (execSst iss size rs wh hi s))
  | srel iss wh rs => exact (h.execSrel : Answers _ (execSrel iss wh rs s))
  | spub iss wh rs => exact (h.execSpub : Answers _ (execSpub iss wh rs s))
  | getp iss r => exact (h.execGetp : Answers _ (execGetp iss r s))
  | job iss wh rp waited => exact (h.execJob : Answers _ (execJob iss wh rp waited s))
  | jwait iss rd wh waited => exact (h.execJwait : Answers _ (execJwait iss rd wh waited s))
  | b iss cond off => exact (h.execB : Answers _ (execB iss cond off s))
  | jmp iss target => exact (h.execJmp : Answers _ (execJmp iss target s))
  | call iss target => exact (h.execCall : Answers _ (execCall iss target s))
  | jr iss r => exact (h.execJr : Answers _ (execJr iss r s))
  | callr iss r => exact (h.execCallr : Answers _ (execCallr iss r s))
  | ret iss => exact (h.execRet : Answers _ (execRet iss s))
  | rett iss => exact (h.execRett : Answers _ (execRett iss s))
  | nop iss => exact (h.execNop : Answers _ (execNop iss s))
  | endp iss => exact (h.execEndp : Answers _ (execEndp iss s))
  | swi iss n => exact (h.execSwi : Answers _ (execSwi iss n s))
  | clr iss r => exact (h.execClr : Answers _ (execClr iss r s))
  | rdtime iss r => exact (h.execRdtime : Answers _ (execRdtime iss r s))
  | repi iss r => exact (h.execRepi : Answers _ (execRepi iss r s))
  | rep iss n => exact (h.execRep : Answers _ (execRep iss n s))
  | test iss r => exact (h.execTest : Answers _ (execTest iss r s))
  | not iss r => exact (h.execNot : Answers _ (execNot iss r s))
  | neg iss r => exact (h.execNeg : Answers _ (execNeg iss r s))
  | cvti iss r => exact (h.execCvti : Answers _ (execCvti iss r s))
  | cvtu iss r => exact (h.execCvtu : Answers _ (execCvtu iss r s))
  | cvtf iss r => exact (h.execCvtf : Answers _ (execCvtf iss r s))
  | cvtb iss r => exact (h.execCvtb : Answers _ (execCvtb iss r s))
  | cvtl iss r => exact (h.execCvtl : Answers _ (execCvtl iss r s))
  | clz iss r => exact (h.execClz : Answers _ (execClz iss r s))
  | popc iss r => exact (h.execPopc : Answers _ (execPopc iss r s))
  | bswp iss r => exact (h.execBswp : Answers _ (execBswp iss r s))
  | idle iss => exact (h.execIdle : Answers _ (execIdle iss s))
  | tagof iss r => exact (h.execTagof : Answers _ (execTagof iss r s))
  | setc iss r cond => exact (h.execSetc : Answers _ (execSetc iss r cond s))
  | streamDataFlit f => exact (h.execStreamDataFlit : Answers _ (execStreamDataFlit f s))
  | streamCredit f => exact (h.execStreamCredit : Answers _ (execStreamCredit f s))
  | fabricReadRequest f => exact (h.execFabricReadRequest : Answers _ (execFabricReadRequest f s))
  | fabricReadResponse f => exact (h.execFabricReadResponse : Answers _ (execFabricReadResponse f s))
  | fabricWrite f => exact (h.execFabricWrite : Answers _ (execFabricWrite f s))
  | jobDescriptor f => exact (h.execJobDescriptor : Answers _ (execJobDescriptor f s))
  | jobStatus f => exact (h.execJobStatus : Answers _ (execJobStatus f s))
  | controlFlit f => exact (h.execControlFlit : Answers _ (execControlFlit f s))
  | suStart m c v => exact (h.execSuStart : Answers _ (execSuStart m c v s))
  | suCancel m c v => exact (h.execSuCancel : Answers _ (execSuCancel m c v s))
  | streamDrain c slot close => exact (h.execStreamDrain : Answers _ (execStreamDrain c slot close s))
  | codecJobEnd unit output => exact (h.execCodecJobEnd : Answers _ (execCodecJobEnd unit output s))
  | codecHalt m unit v => exact (h.execCodecHalt : Answers _ (execCodecHalt m unit v s))
  | wreload m v => exact (h.execWreload : Answers _ (execWreload m v s))
  | cellReassign c r => exact (h.execCellReassign : Answers _ (execCellReassign c r s))
  | drainDone c => exact (h.execDrainDone : Answers _ (execDrainDone c s))
  | reportReady c => exact (h.execReportReady : Answers _ (execReportReady c s))
  | evidentialPauseTimeout => exact (h.execEvidentialPauseTimeout : Answers _ (execEvidentialPauseTimeout s))
  | stagingDrain die => exact (h.execStagingDrain : Answers _ (execStagingDrain die s))
  | journalPageTimer => exact (h.execJournalPageTimer : Answers _ (execJournalPageTimer s))
  | journalPageDurable => exact (h.execJournalPageDurable : Answers _ (execJournalPageDurable s))
  | checkpointBegin => exact (h.execCheckpointBegin : Answers _ (execCheckpointBegin s))
  | demotion unit => exact (h.execDemotion : Answers _ (execDemotion unit s))
  | garbageCollection die block => exact (h.execGarbageCollection : Answers _ (execGarbageCollection die block s))
  | blockErase die block => exact (h.execBlockErase : Answers _ (execBlockErase die block s))
  | folding die block => exact (h.execFolding : Answers _ (execFolding die block s))
  | powerFail => exact (h.execPowerFail : Answers _ (execPowerFail s))
  | flushComplete => exact (h.execFlushComplete : Answers _ (execFlushComplete s))
  | patrolPassStart => exact (h.execPatrolPassStart : Answers _ (execPatrolPassStart s))
  | patrolLate => exact (h.execPatrolLate : Answers _ (execPatrolLate s))
  | patrolRead ch way block page => exact (h.execPatrolRead : Answers _ (execPatrolRead ch way block page s))
  | memberFailed die => exact (h.execMemberFailed : Answers _ (execMemberFailed die s))
  | redFailDeclare m v => exact (h.execRedFailDeclare : Answers _ (execRedFailDeclare m v s))
  | rebuildFloor => exact (h.execRebuildFloor : Answers _ (execRebuildFloor s))
  | rebuildDone => exact (h.execRebuildDone : Answers _ (execRebuildDone s))
  | rbPause m v => exact (h.execRbPause : Answers _ (execRbPause m v s))
  | sifjWrite => exact (h.execSifjWrite : Answers _ (execSifjWrite s))
  | quietRotation => exact (h.execQuietRotation : Answers _ (execQuietRotation s))
  | quietJoin => exact (h.execQuietJoin : Answers _ (execQuietJoin s))
  | mediaSchedule die => exact (h.execMediaSchedule : Answers _ (execMediaSchedule die s))
  | mediaRead ch => exact (h.execMediaRead : Answers _ (execMediaRead ch s))
  | mediaProgram ch => exact (h.execMediaProgram : Answers _ (execMediaProgram ch s))
  | mediaErase ch => exact (h.execMediaErase : Answers _ (execMediaErase ch s))
  | lunReset ch => exact (h.execLunReset : Answers _ (execLunReset ch s))
  | setFeature ch way fa p => exact (h.execSetFeature : Answers _ (execSetFeature ch way fa p s))
  | suspend ch => exact (h.execSuspend : Answers _ (execSuspend ch s))
  | resume ch => exact (h.execResume : Answers _ (execResume ch s))
  | dieReady die r => exact (h.execDieReady : Answers _ (execDieReady die r s))
  | operationTimeLimit die => exact (h.execOperationTimeLimit : Answers _ (execOperationTimeLimit die s))
  | lunResetTimeout die => exact (h.execLunResetTimeout : Answers _ (execLunResetTimeout die s))
  | pageBufferFree ch buf => exact (h.execPageBufferFree : Answers _ (execPageBufferFree ch buf s))
  | halt ch => exact (h.execHalt : Answers _ (execHalt ch s))
  | seqJmp ch target => exact (h.execSeqJmp : Answers _ (execSeqJmp ch target s))
  | jcc ch cond target => exact (h.execJcc : Answers _ (execJcc ch cond target s))
  | seqCall ch target => exact (h.execSeqCall : Answers _ (execSeqCall ch target s))
  | seqRet ch => exact (h.execSeqRet : Answers _ (execSeqRet ch s))
  | ldcnt ch n => exact (h.execLdcnt : Answers _ (execLdcnt ch n s))
  | loop ch target => exact (h.execLoop : Answers _ (execLoop ch target s))
  | waitrb ch w ready st => exact (h.execWaitrb : Answers _ (execWaitrb ch w ready st s))
  | waitrbTimeout ch => exact (h.execWaitrbTimeout : Answers _ (execWaitrbTimeout ch s))
  | lddesc ch w => exact (h.execLddesc : Answers _ (execLddesc ch w s))
  | adda ch w => exact (h.execAdda : Answers _ (execAdda ch w s))
  | setf ch w => exact (h.execSetf : Answers _ (execSetf ch w s))
  | retry ch w => exact (h.execRetry : Answers _ (execRetry ch w s))
  | post ch w => exact (h.execPost : Answers _ (execPost ch w s))
  | shortOperationPair ch w dq => exact (h.execShortOperationPair : Answers _ (execShortOperationPair ch w dq s))
  | step m ch v ready st dq => exact (h.execStep : Answers _ (execStep m ch v ready st dq s))
  | mchUsdataAccess m ch write => exact (h.execMchUsdataAccess : Answers _ (execMchUsdataAccess m ch write s))
  | search c => exact (h.execSearch : Answers _ (execSearch c s))
  | searchStream c => exact (h.execSearchStream : Answers _ (execSearchStream c s))
  | insert c => exact (h.execInsert : Answers _ (execInsert c s))
  | delete c => exact (h.execDelete : Answers _ (execDelete c s))
  | searchEntryRead c => exact (h.execSearchEntryRead : Answers _ (execSearchEntryRead c s))
  | windowSearch unit bs => exact (h.execWindowSearch : Answers _ (execWindowSearch unit bs s))
  | sweepCompare bank flip bad => exact (h.execSweepCompare : Answers _ (execSweepCompare bank flip bad s))
  | shadowWriteComplete => exact (h.execShadowWriteComplete : Answers _ (execShadowWriteComplete s))
  | spread m bank => exact (h.execSpread : Answers _ (execSpread m bank s))
  | clear m bank => exact (h.execClear : Answers _ (execClear m bank s))
  | srbModeOwnerWrite m bank v => exact (h.execSrbModeOwnerWrite : Answers _ (execSrbModeOwnerWrite m bank v s))
  | init m => exact (h.execInit : Answers _ (execInit m s))
  | reload m => exact (h.execReload : Answers _ (execReload m s))
  | srcReady => exact (h.execSrcReady : Answers _ (execSrcReady s))
  | srcThrottleSample => exact (h.execSrcThrottleSample : Answers _ (execSrcThrottleSample s))
  | cipherPathJob lane req => exact (h.execCipherPathJob : Answers _ (execCipherPathJob lane req s))
  | cipherJob c lane busErr => exact (h.execCipherJob : Answers _ (execCipherJob c lane busErr s))
  | cipherHalt m lane v => exact (h.execCipherHalt : Answers _ (execCipherHalt m lane v s))
  | digestJob c lane cut busErr => exact (h.execDigestJob : Answers _ (execDigestJob c lane cut busErr s))
  | derive m v => exact (h.execDerive : Answers _ (execDerive m v s))
  | erase m v => exact (h.execErase : Answers _ (execErase m v s))
  | install m v => exact (h.execInstall : Answers _ (execInstall m v s))
  | eraseAll m v => exact (h.execEraseAll : Answers _ (execEraseAll m v s))
  | keyOpRefused m v => exact (h.execKeyOpRefused : Answers _ (execKeyOpRefused m v s))
  | rootLock m v => exact (h.execRootLock : Answers _ (execRootLock m v s))
  | keySuse0Read m => exact (h.execKeySuse0Read : Answers _ (execKeySuse0Read m s))
  | dramRequestIssue ch upset => exact (h.execDramRequestIssue : Answers _ (execDramRequestIssue ch upset s))
  | perBankRefresh ch => exact (h.execPerBankRefresh : Answers _ (execPerBankRefresh ch s))
  | dramTempSample t => exact (h.execDramTempSample : Answers _ (execDramTempSample t s))
  | arm m v => exact (h.execArm : Answers _ (execArm m v s))
  | cancel m v => exact (h.execCancel : Answers _ (execCancel m v s))
  | retuneBlackout => exact (h.execRetuneBlackout : Answers _ (execRetuneBlackout s))
  | cacheAccess id addr len cls write => exact (h.execCacheAccess : Answers _ (execCacheAccess id addr len cls write s))
  | cacheFill slice id => exact (h.execCacheFill : Answers _ (execCacheFill slice id s))
  | wayDisable slice way => exact (h.execWayDisable : Answers _ (execWayDisable slice way s))
  | clean m v => exact (h.execClean : Answers _ (execClean m v s))
  | inval m v => exact (h.execInval : Answers _ (execInval m v s))
  | cleanInval m v => exact (h.execCleanInval : Answers _ (execCleanInval m v s))
  | cleanAll m v => exact (h.execCleanAll : Answers _ (execCleanAll m v s))
  | cleanInvalAll m v => exact (h.execCleanInvalAll : Answers _ (execCleanInvalAll m v s))
  | cleanWay m slice v => exact (h.execCleanWay : Answers _ (execCleanWay m slice v s))
  | cleanInvalWay m slice v => exact (h.execCleanInvalWay : Answers _ (execCleanInvalWay m slice v s))
  | maintenanceDone slice => exact (h.execMaintenanceDone : Answers _ (execMaintenanceDone slice s))
  | fchWdis m slice v => exact (h.execFchWdis : Answers _ (execFchWdis m slice v s))
  | regionFill => exact (h.execRegionFill : Answers _ (execRegionFill s))
  | mpClear m page v => exact (h.execMpClear : Answers _ (execMpClear m page v s))
  | vfmSelWrite m v => exact (h.execVfmSelWrite : Answers _ (execVfmSelWrite m v s))
  | apply m v => exact (h.execApply : Answers _ (execApply m v s))
  | mailboxSend m fn v => exact (h.execMailboxSend : Answers _ (execMailboxSend m fn v s))
  | mailboxAck m fn v => exact (h.execMailboxAck : Answers _ (execMailboxAck m fn v s))
  | dirtyPageEnable m v => exact (h.execDirtyPageEnable : Answers _ (execDirtyPageEnable m v s))
  | copyBitmap m v => exact (h.execCopyBitmap : Answers _ (execCopyBitmap m v s))
  | dirtyPageCopyDone fn => exact (h.execDirtyPageCopyDone : Answers _ (execDirtyPageCopyDone fn s))
  | slmShareZero fn => exact (h.execSlmShareZero : Answers _ (execSlmShareZero fn s))
  | discreteInputChange n level t => exact (h.execDiscreteInputChange : Answers _ (execDiscreteInputChange n level t s))
  | speedSample => exact (h.execSpeedSample : Answers _ (execSpeedSample s))
  | canFrameReceived bus ident fd brs esi dlc data =>
    exact (h.execCanFrameReceived : Answers _ (execCanFrameReceived bus ident fd brs esi dlc data s))
  | canBusStateChange bus st tec rec => exact (h.execCanBusStateChange : Answers _ (execCanBusStateChange bus st tec rec s))
  | ethFrameReceived port frame => exact (h.execEthFrameReceived : Answers _ (execEthFrameReceived port frame s))
  | ethernetLinkChange port up => exact (h.execEthernetLinkChange : Answers _ (execEthernetLinkChange port up s))
  | fieldTokenRefill n => exact (h.execFieldTokenRefill : Answers _ (execFieldTokenRefill n s))
  | timeSyncInterval => exact (h.execTimeSyncInterval : Answers _ (execTimeSyncInterval s))
  | healthInterval mv temp => exact (h.execHealthInterval : Answers _ (execHealthInterval mv temp s))
  | rtcAlarm => exact (h.execRtcAlarm : Answers _ (execRtcAlarm s))
  | legalTimeStore => exact (h.execLegalTimeStore : Answers _ (execLegalTimeStore s))
  | ringEntrySend => exact (h.execRingEntrySend : Answers _ (execRingEntrySend s))
  | wakeRepeat => exact (h.execWakeRepeat : Answers _ (execWakeRepeat s))
  | wakeOutputTimeout again => exact (h.execWakeOutputTimeout : Answers _ (execWakeOutputTimeout again s))
  | fieldColdStart => exact (h.execFieldColdStart : Answers _ (execFieldColdStart s))
  | vf3p3Loss => exact (h.execVf3p3Loss : Answers _ (execVf3p3Loss s))
  | eventRecord msg => exact (h.execEventRecord : Answers _ (execEventRecord msg s))
  | canBatch msg => exact (h.execCanBatch : Answers _ (execCanBatch msg s))
  | ethFragment msg => exact (h.execEthFragment : Answers _ (execEthFragment msg s))
  | timeSync msg => exact (h.execTimeSync : Answers _ (execTimeSync msg s))
  | wake msg => exact (h.execWake : Answers _ (execWake msg s))
  | fieldHealth msg => exact (h.execFieldHealth : Answers _ (execFieldHealth msg s))
  | ack msg => exact (h.execAck : Answers _ (execAck msg s))
  | config msg => exact (h.execConfig : Answers _ (execConfig msg s))
  | timeSet msg => exact (h.execTimeSet : Answers _ (execTimeSet msg s))
  | wakePolicy msg => exact (h.execWakePolicy : Answers _ (execWakePolicy msg s))
  | txCan msg => exact (h.execTxCan : Answers _ (execTxCan msg s))
  | canTransmitDone ok => exact (h.execCanTransmitDone : Answers _ (execCanTransmitDone ok s))
  | fieldImage msg => exact (h.execFieldImage : Answers _ (execFieldImage msg s))
  | fieldImageVerified ok version => exact (h.execFieldImageVerified : Answers _ (execFieldImageVerified ok version s))
  | fieldImageActivate msg starts => exact (h.execFieldImageActivate : Answers _ (execFieldImageActivate msg starts s))
  | hostAck msg => exact (h.execHostAck : Answers _ (execHostAck msg s))
  | frontLinkUp => exact (h.execFrontLinkUp : Answers _ (execFrontLinkUp s))
  | frontLinkDown => exact (h.execFrontLinkDown : Answers _ (execFrontLinkDown s))
  | retrain m v => exact (h.execRetrain : Answers _ (execRetrain m v s))
  | resumeRepeat => exact (h.execResumeRepeat : Answers _ (execResumeRepeat s))
  | hostResendTimeout => exact (h.execHostResendTimeout : Answers _ (execHostResendTimeout s))
  | frlMsgSend m v => exact (h.execFrlMsgSend : Answers _ (execFrlMsgSend m v s))
  | frlMsgTimeout => exact (h.execFrlMsgTimeout : Answers _ (execFrlMsgTimeout s))
  | captureAppend => exact (h.execCaptureAppend : Answers _ (execCaptureAppend s))
  | appendDurable k => exact (h.execAppendDurable : Answers _ (execAppendDurable k s))
  | setEndpointId r => exact (h.execSetEndpointId : Answers _ (execSetEndpointId r s))
  | getEndpointId r => exact (h.execGetEndpointId : Answers _ (execGetEndpointId r s))
  | getMctpVersionSupport r => exact (h.execGetMctpVersionSupport : Answers _ (execGetMctpVersionSupport r s))
  | getMessageTypeSupport r => exact (h.execGetMessageTypeSupport : Answers _ (execGetMessageTypeSupport r s))
  | getVendorDefinedMessageSupport r => exact (h.execGetVendorDefinedMessageSupport : Answers _ (execGetVendorDefinedMessageSupport r s))
  | unsupportedMctpMessage r => exact (h.execUnsupportedMctpMessage : Answers _ (execUnsupportedMctpMessage r s))
  | entdaa addr => exact (h.execEntdaa : Answers _ (execEntdaa addr s))
  | basicManagementCommand r => exact (h.execBasicManagementCommand : Answers _ (execBasicManagementCommand r s))
  | readNvmeMiDataStructure r => exact (h.execReadNvmeMiDataStructure : Answers _ (execReadNvmeMiDataStructure r s))
  | nvmSubsystemHealthStatusPoll r => exact (h.execNvmSubsystemHealthStatusPoll : Answers _ (execNvmSubsystemHealthStatusPoll r s))
  | controllerHealthStatusPoll r => exact (h.execControllerHealthStatusPoll : Answers _ (execControllerHealthStatusPoll r s))
  | configurationGet r => exact (h.execConfigurationGet : Answers _ (execConfigurationGet r s))
  | configurationSet r => exact (h.execConfigurationSet : Answers _ (execConfigurationSet r s))
  | vpdRead r => exact (h.execVpdRead : Answers _ (execVpdRead r s))
  | adminCommandTunnel r => exact (h.execAdminCommandTunnel : Answers _ (execAdminCommandTunnel r s))
  | refusedNvmeMiCommand r => exact (h.execRefusedNvmeMiCommand : Answers _ (execRefusedNvmeMiCommand r s))
  | pageRead r => exact (h.execPageRead : Answers _ (execPageRead r s))
  | pageWrite r => exact (h.execPageWrite : Answers _ (execPageWrite r s))
  | health r => exact (h.execHealth : Answers _ (execHealth r s))
  | powerGet r => exact (h.execPowerGet : Answers _ (execPowerGet r s))
  | powerRequest r => exact (h.execPowerRequest : Answers _ (execPowerRequest r s))
  | logRead r => exact (h.execLogRead : Answers _ (execLogRead r s))
  | fwSlotGet r => exact (h.execFwSlotGet : Answers _ (execFwSlotGet r s))
  | fwSlotSet r => exact (h.execFwSlotSet : Answers _ (execFwSlotSet r s))
  | fieldStatus r => exact (h.execFieldStatus : Answers _ (execFieldStatus r s))
  | fieldConfig r => exact (h.execFieldConfig : Answers _ (execFieldConfig r s))
  | evidProvision r => exact (h.execEvidProvision : Answers _ (execEvidProvision r s))
  | rootBlob r => exact (h.execRootBlob : Answers _ (execRootBlob r s))
  | owner r => exact (h.execOwner : Answers _ (execOwner r s))
  | squallStatus r => exact (h.execSquallStatus : Answers _ (execSquallStatus r s))
  | squallUnlock r => exact (h.execSquallUnlock : Answers _ (execSquallUnlock r s))
  | squallLock r => exact (h.execSquallLock : Answers _ (execSquallLock r s))
  | unknownVendorOp r => exact (h.execUnknownVendorOp : Answers _ (execUnknownVendorOp r s))
  | mainSideTimeout => exact (h.execMainSideTimeout : Answers _ (execMainSideTimeout s))
  | healthRefresh answered => exact (h.execHealthRefresh : Answers _ (execHealthRefresh answered s))
  | breezeEntry => exact (h.execBreezeEntry : Answers _ (execBreezeEntry s))
  | breezeExit => exact (h.execBreezeExit : Answers _ (execBreezeExit s))
  | automaticDeepTimer => exact (h.execAutomaticDeepTimer : Answers _ (execAutomaticDeepTimer s))
  | go m v => exact (h.execGo : Answers _ (execGo m v s))
  | lullEntry => exact (h.execLullEntry : Answers _ (execLullEntry s))
  | calmEntry => exact (h.execCalmEntry : Answers _ (execCalmEntry s))
  | lullExit => exact (h.execLullExit : Answers _ (execLullExit s))
  | calmExit => exact (h.execCalmExit : Answers _ (execCalmExit s))
  | thermalSample temps watts => exact (h.execThermalSample : Answers _ (execThermalSample temps watts s))
  | throttleEffect => exact (h.execThrottleEffect : Answers _ (execThrottleEffect s))
  | thermalHold => exact (h.execThermalHold : Answers _ (execThermalHold s))
  | thermalHoldEnd => exact (h.execThermalHoldEnd : Answers _ (execThermalHoldEnd s))
  | wardenOscillatorStop => exact (h.execWardenOscillatorStop : Answers _ (execWardenOscillatorStop s))
  | pllUnlock pll => exact (h.execPllUnlock : Answers _ (execPllUnlock pll s))
  | crystalStop x25 => exact (h.execCrystalStop : Answers _ (execCrystalStop x25 s))
  | alwaysOnPowerOn i3c => exact (h.execAlwaysOnPowerOn : Answers _ (execAlwaysOnPowerOn i3c s))
  | mainStart f => exact (h.execMainStart : Answers _ (execMainStart f s))
  | mainSideRestart f => exact (h.execMainSideRestart : Answers _ (execMainSideRestart f s))
  | v12MainLoss => exact (h.execV12MainLoss : Answers _ (execV12MainLoss s))
  | vccqNLoss => exact (h.execVccqNLoss : Answers _ (execVccqNLoss s))
  | supplySample main aon vccq => exact (h.execSupplySample : Answers _ (execSupplySample main aon vccq s))
  | alarm n => exact (h.execAlarm : Answers _ (execAlarm n s))
  | alarmEnd n => exact (h.execAlarmEnd : Answers _ (execAlarmEnd n s))
  | rearm m v => exact (h.execRearm : Answers _ (execRearm m v s))
  | availabilityTick => exact (h.execAvailabilityTick : Answers _ (execAvailabilityTick s))
  | accountingLogWrite => exact (h.execAccountingLogWrite : Answers _ (execAccountingLogWrite s))
  | unlock m v => exact (h.execUnlock : Answers _ (execUnlock m v s))
  | sqlLock m v => exact (h.execSqlLock : Answers _ (execSqlLock m v s))
  | sqForce m page v => exact (h.execSqForce : Answers _ (execSqForce m page v s))
  | delayedResultRelease => exact (h.execDelayedResultRelease : Answers _ (execDelayedResultRelease s))
  | scaledReadyRelease die => exact (h.execScaledReadyRelease : Answers _ (execScaledReadyRelease die s))
  | v3p3AonLoss => exact (h.execV3p3AonLoss : Answers _ (execV3p3AonLoss s))
  | vfEnableSet n => exact (h.execVfEnableSet : Answers _ (execVfEnableSet n s))
  | pcieL1Entry pm => exact (h.execPcieL1Entry : Answers _ (execPcieL1Entry pm s))
  | speedPulse widthUs => exact (h.execSpeedPulse : Answers _ (execSpeedPulse widthUs s))
  | srbSelfTest m bank pass => exact (h.execSrbSelfTest : Answers _ (execSrbSelfTest m bank pass s))
  | fieldAppendBoundPassed => exact (h.execFieldAppendBoundPassed : Answers _ (execFieldAppendBoundPassed s))
  | slewComplete => exact (h.execSlewComplete : Answers _ (execSlewComplete s))

/-- Every step takes the front command off the queue. -/
theorem step_queued : Answers (State.Queued s.pending.tail) (step s) := by
  unfold step
  split
  next e => exact .next (e ▸ e)
  next e => exact exec_queued (e ▸ rfl)

end Sys2Proof.Machine

open Sys2Proof Sys2Proof.Machine

/-- Settles O3: every command answers a next state. -/
theorem noCommandStops : Obligations.NoCommandStops := fun _ _ =>
  let ⟨t, e, _⟩ := exec_queued rfl
  ⟨t, e⟩

/-- Settles O6: no command changes what waits, and the step takes off the front command. -/
theorem queueFifo : Obligations.QueueFifo := fun s t e => by
  obtain ⟨u, e', hu⟩ := step_queued (s := s)
  exact Host.Outcome.next.inj (e.symm.trans e') ▸ hu

/-- Settles O1: the step on a queue with a front command. -/
theorem stepTakesFrontCommand : Obligations.StepTakesFrontCommand := fun c rest s h => by
  unfold step
  rw [h]

/-- Settles O2: the step on an empty queue. -/
theorem idleStep : Obligations.IdleStep := fun s h => by
  unfold step
  rw [h]
end

section
/-!
The cryptographic complex: codewords on the data path, cipher and digest jobs of cells, HALT, and the operations of the key store.
-/

namespace Sys2Proof.Machine

variable {s u : State} {c : CellId} {m : Master} {v : Word} {d : RegDef}

/-! ## The lanes of the data path (R306 to R308) -/

/-- Whether a lane may take a request of the data path: it is in order, and no job and no other request has the lane. -/
structure PathFree (s : State) (l : Nat) (r : Req) (req : Nat) : Prop where
  job : (s.lane l).job = none
  path : (s.lane l).path.isNone = true ∨ ∃ h, (s.lane l).path = some h ∧ h.req = req
  lane : (r.lane == none || r.lane == some l) = true
  page : s.pageOn (cipPage l) = true
  enabled : s.regBit (CIP_CTRL l) 0 = true
  halted : s.regBit (CIP_CTRL l) 1 = false
  alarm : s.regBit KEY_STAT 3 = false
  first : (s.media.reqs.any fun x => x.lane == some l && x.before r && s.pathReady x false) = false
  ready : s.pathReady r (s.lane l).path.isSome = true

section Path

variable {lane : Fin 16} {req : Nat} {r : Req} {p : PageSet} (hr : s.req? req = some r) (hf : PathFree s lane.val r req)

include hr hf

/-- A page set to be stored passes under its namespace's key. -/
theorem exec_cipherPathJob_encrypt (hph : r.phase = .cipher) (hd : r.data = some p) (hk : s.useKey p.tag.keyNs = (true, u)) :
    exec (.cipherPathJob lane req) s = .next (u.encryptWord lane.val r p) := by
  obtain ⟨hj, hp, hl, hon, he, hh, ha, hfirst, hready⟩ := hf
  change execCipherPathJob lane req s = _
  obtain hn | ⟨h, hs, hq⟩ := hp
  · rw [Option.isNone_iff_eq_none] at hn
    rw [hn] at hready
    simp only [execCipherPathJob, hr, hj, hl, hon, he, hh, ha, hfirst, hready, hn, hph, hd, hk, Option.isNone_none, Bool.and_self,
      Bool.not_true, Bool.not_false, Bool.or_self, Bool.false_eq_true, if_false]
  · rw [hs] at hready
    simp only [execCipherPathJob, hr, hj, hl, hon, he, hh, ha, hfirst, hready, hs, hq, hph, hd, hk, Option.isNone_none, beq_self_eq_true, Bool.and_self,
      Bool.not_true, Bool.not_false, Bool.or_self, Bool.false_eq_true, if_false]

/-- A page set that a die has sensed is deciphered. -/
theorem exec_cipherPathJob_decrypt (hph : r.phase = .sensed) (hd : r.data = some p) :
    exec (.cipherPathJob lane req) s = .next (s.decryptWord lane.val r p) := by
  obtain ⟨hj, hp, hl, hon, he, hh, ha, hfirst, hready⟩ := hf
  change execCipherPathJob lane req s = _
  obtain hn | ⟨h, hs, hq⟩ := hp
  · rw [Option.isNone_iff_eq_none] at hn
    rw [hn] at hready
    simp only [execCipherPathJob, hr, hj, hl, hon, he, hh, ha, hfirst, hready, hn, hph, hd, Option.isNone_none, Bool.and_self,
      Bool.not_true, Bool.not_false, Bool.or_self, Bool.false_eq_true, if_false]
  · rw [hs] at hready
    simp only [execCipherPathJob, hr, hj, hl, hon, he, hh, ha, hfirst, hready, hs, hq, hph, hd, Option.isNone_none, beq_self_eq_true, Bool.and_self,
      Bool.not_true, Bool.not_false, Bool.or_self, Bool.false_eq_true, if_false]

end Path

/-! ## Cipher jobs of cells (R316, R317, R326) -/

/-- Whether a lane works on a cell's job: it is enabled, no path job and no job of another cell has it, and the slot holds a key. -/
structure CipherFree (s : State) (c : CellId) (l n : Nat) : Prop where
  page : s.pageOn (cipPage l) = true
  enabled : s.regBit (CIP_CTRL l) 0 = true
  halted : s.regBit (CIP_CTRL l) 1 = false
  path : (s.lane l).path = none
  lane : s.laneOf c = some l ∨ (s.laneOf c = none ∧ (s.lane l).job = none)
  alarm : s.regBit KEY_STAT 3 = false
  key : (s.key n).valid = true

/-- Whether the input of a job has come and its output space is drained. -/
structure CipherFed (s : State) (c : CellId) (j : Job) : Prop where
  source : hKind (j.word 2) = 2 ∨ posOf ((s.cell c).su (hUnit (j.word 2))).c (j.word 3).toNat + j.srcLen ≤
    ((s.cell c).su (hUnit (j.word 2))).d
  dest : j.dstLen = 0 ∨ posOf ((s.cell c).su (hUnit (j.word 6))).c (j.word 7).toNat + j.dstLen ≤
    ((s.cell c).su (hUnit (j.word 6))).d + sbSize

/-- The block at which a lane goes on with its job. -/
def State.cipherPos (s : State) (l : Nat) : Nat := ((s.lane l).job.map (·.pos)).getD 0

/-- The keys of a job's blocks, each from its first block on. -/
def State.cipherSegs (s : State) (l : Nat) (key : BitVec 32 × BitVec 256) : List (Nat × BitVec 32 × BitVec 256) :=
  ((s.lane l).job.map fun h => h.segs ++ [(s.cipherPos l, key)]).getD [(0, key)]

/-- What the lane makes of a job whose blocks all pass: its output, or zeros where the verification failed, the words that it writes back, and
its end. -/
def State.cipherDone (v : State) (c : CellId) (l : Nat) (j : Job) (out : List Byte) (y : Bool) : State :=
  let n := bits (j.word 1) 5 0
  let segs := v.cipherSegs l (v.jobKey (v.key n) (j.word 12))
  let w := if j.decrypt then v else v.useBlocks n (j.blocks - v.cipherPos l)
  let force := j.decrypt && (j.mode == 4 || j.mode == 5) && w.armed (cipPage l) 3
  let ok := y && !force
  let per := if j.mode = 5 ∧ j.rlen ≠ 0 then macLen (4 * j.rlen) else 1
  let z := ((if force then w.disarm (cipPage l) 3 else w).writeCipher c j (if ok then out else List.replicate out.length 0)).writeBackWords
    c j 13 [.uns (BitVec.ofNat 32 j.blocks), .uns (segs.getLastD (0, 0, 0)).2.1,
      .uns (BitVec.ofNat 32 ((segs.getLastD (0, 0, 0)).1 / per))]
  let e := z.count64 (cipPage l) 2 (j.blocks - v.cipherPos l)
  (if ok then e else (e.count (cipPage l) 5 1).raise (cipPage l) 3).endCipher c l (if ok then 0 else 0x20) j.blocks

theorem exec_cipherJob {lane : Fin 16} {j : Job} {n : Nat} {v : State} {x out : List Byte} {y : Bool} (hj : s.running c 2 = some j)
    (hn : bits (j.word 1) 5 0 = n) (hfree : CipherFree s c lane.val n) (hfed : CipherFed s c j) (hu : s.useKey n = (true, u))
    (hx : u.readSb c (hUnit (j.word 2)) (j.word 3).toNat j.srcLen = (some x, v))
    (hleft : j.decrypt = true ∨ j.blocks - v.cipherPos lane.val ≤ v.blocksLeft n)
    (hout : cipherOut j ((v.cipherSegs lane.val (v.jobKey (v.key n) (j.word 12))).map fun q =>
      (q.1, leBytes (16 + 8 * (v.key n).klen) q.2.2.toNat)) x = (out, y))
    (hver : (j.decrypt && (j.mode == 4 || j.mode == 5) && j.mode == 5 && j.rlen != 0) = false) :
    exec (.cipherJob c lane false) s = .next (v.cipherDone c lane.val j out y) := by
  obtain ⟨hon, he, hh, hp, hl, ha, hk⟩ := hfree
  obtain ⟨hsrc, hdst⟩ := hfed
  have hlane : (s.laneOf c == some lane.val || (s.laneOf c == none && (s.lane lane.val).job.isNone)) = true := by
    simpa only [Bool.or_eq_true, Bool.and_eq_true, beq_iff_eq, Option.isNone_iff_eq_none] using hl
  have hs : (hKind (j.word 2) == 2 || decide (posOf ((s.cell c).su (hUnit (j.word 2))).c (j.word 3).toNat + j.srcLen ≤
      ((s.cell c).su (hUnit (j.word 2))).d)) = true := by
    simpa only [Bool.or_eq_true, beq_iff_eq, decide_eq_true_eq] using hsrc
  have hd : (j.dstLen == 0 || decide (posOf ((s.cell c).su (hUnit (j.word 6))).c (j.word 7).toNat + j.dstLen ≤
      ((s.cell c).su (hUnit (j.word 6))).d + sbSize)) = true := by
    simpa only [Bool.or_eq_true, beq_iff_eq, decide_eq_true_eq] using hdst
  have hpass : ¬(if j.decrypt = true then j.blocks else v.blocksLeft n) < j.blocks - v.cipherPos lane.val := by
    split <;> rename_i hdec
    · omega
    · exact not_lt.2 (hleft.resolve_left hdec)
  subst hn
  change execCipherJob c lane false s = _
  unfold State.cipherPos at hpass
  unfold State.cipherSegs State.cipherPos at hout
  cases hjob : (v.lane lane.val).job
  all_goals
    simp only [hjob, Option.map_none, Option.getD_none, Option.map_some, Option.getD_some] at hpass hout
    simp only [execCipherJob, hj, hon, he, hh, hp, hlane, ha, hk, hs, hd, hu, hx, hjob, hpass, hout, hver, Option.isNone_none,
      Bool.and_self, Bool.not_true, Bool.not_false, Bool.or_self, Bool.false_eq_true, if_false, Bool.and_true]
    simp only [State.cipherDone, State.cipherPos, State.cipherSegs, hjob, Option.map_none, Option.getD_none, Option.map_some,
      Option.getD_some]

theorem exec_cipherHalt {lane : Fin 16} (h : Accepts s m (cipPage lane.val) 0x80 (setBit v 1 true) noCond d) :
    exec (.cipherHalt m lane v) s = .next (cipCtrlEffect lane.val (setBit v 1 true) d (s.arrive m)) := by
  change execCipherHalt m lane v s = _
  rw [execCipherHalt, write_of_accepts h]

/-! ## Digest jobs of cells (R319 to R322) -/

/-- Whether a digest lane works on a cell's job: it is enabled, the cell's jobs go to it, and no other lane has this one in hand. -/
structure DigestFree (s : State) (c : CellId) (l : Nat) : Prop where
  page : s.pageOn (digPage l) = true
  enabled : s.regBit (DIG_CTRL l) 0 = true
  bound : ((List.range 4).find? fun k => s.crypto.bound.getD k none == some c) = some l ∨
    (((List.range 4).find? fun k => s.crypto.bound.getD k none == some c) = none ∧ s.crypto.bound.getD l none = none)
  here : ((List.range 4).any fun k => k != l && s.digOn k == some c) = false

/-- The bytes of a job's input that are left, and their place in the buffer. -/
def Job.digRest (j : Job) : Nat := (j.word 3).toNat - j.done
def State.digOff (s : State) (c : CellId) (j : Job) : Nat :=
  if j.consume then ((s.cell c).su (hUnit (j.word 1))).c else (j.word 2).toNat + j.done

/-- What the lane makes of the last of a job's input, from the round state `st`: the words that it writes back, the result registers of a
final digest, and the job's end. -/
def State.digestDone (w : State) (c : CellId) (l : Nat) (j : Job) (st x : List Byte) : State :=
  let rest := j.digRest
  let y := if j.final then digFinish j.alg st x (j.mlen + j.done + rest - rest) else digAbsorb j.alg st x
  let z := ((if j.consume then w.releaseIn c (hUnit (j.word 1)) rest else w).count64 (digPage l) 2 rest).writeBackWords c j 4
    ([.uns (BitVec.ofNat 32 (j.mlen + j.done + rest)), .uns (BitVec.ofNat 32 ((j.mlen + j.done + rest) / 2 ^ 32))] ++
      (List.range (j.words.length - 6)).map fun k => (⟨tBytes, leWord (sub y (4 * k) 4)⟩ : TWord))
  let e := if j.final then
      ((List.range 16).foldl (fun s k => s.setReg (DIG_RES l k) (leWord (sub y (4 * k) 4))) z).setReg (DIG_STAT l)
        (setBit (((List.range 16).foldl (fun s k => s.setReg (DIG_RES l k) (leWord (sub y (4 * k) 4))) z).reg (DIG_STAT l)) 15 true)
    else z
  ((e.count (digPage l) 4 1).setDig l none).endJob c 3 (digPage l) 0

theorem exec_digestJob {lane : Fin 4} {j : Job} {t v w : State} {x st : List Byte} (hj : s.running c 3 = some j)
    (ht : s.switchTo lane.val c = some t) (hf : DigestFree s c lane.val)
    (hin : j.consume = true → j.digRest ≤ ((t.cell c).su (hUnit (j.word 1))).d - ((t.cell c).su (hUnit (j.word 1))).c)
    (hx : t.readSb c (hUnit (j.word 1)) (t.digOff c j) j.digRest = (some x, v)) (ha : v.armed (digPage lane.val) 4 = false)
    (hst : v.digResume c j = (some st, w)) :
    exec (.digestJob c lane none false) s = .next (w.digestDone c lane.val j st x) := by
  obtain ⟨hon, he, hb, hhere⟩ := hf
  unfold Job.digRest at hin hx
  unfold State.digOff at hx
  have havail : (if j.consume = true then min ((j.word 3).toNat - j.done)
      (((t.cell c).su (hUnit (j.word 1))).d - ((t.cell c).su (hUnit (j.word 1))).c) else (j.word 3).toNat - j.done) =
      (j.word 3).toNat - j.done := by
    split <;> rename_i hc
    · exact min_eq_left (hin hc)
    · rfl
  change execDigestJob c lane none false s = _
  obtain hb | ⟨hb, hn⟩ := hb
  · simp only [execDigestJob, hj, ht, hon, he, hb, hhere, havail, lt_irrefl, if_false, beq_self_eq_true, Bool.not_true, Bool.or_self,
      Bool.false_eq_true, and_false, hx, ha, hst, Bool.true_eq_false]
    rfl
  · simp only [execDigestJob, hj, ht, hon, he, hb, hn, hhere, havail, lt_irrefl, if_false, beq_self_eq_true, Bool.not_true, Bool.or_self,
      Bool.false_eq_true, and_false, hx, ha, hst, Bool.true_eq_false, Option.isNone_none]
    rfl

/-! ## The key store (R312 to R317, R330) -/

section KeyCommands

variable {w : Word} {l : BitVec 512} (ha : s.regBit KEY_STAT 3 = false)

/-- A write of KEY_CMD with OP `op` acts, and an EPOCH record of what it derives follows. -/
theorem keyCmd_of_accepts {op : Nat} (h : Accepts s m keyPage 0x84 (setBits v 2 0 op) noCond d) :
    keyCmd m op v s = .next ((keyCmdEffect m (setBits v 2 0 op) (s.arrive m)).journalKey (s.arrive m) (bits v 8 3)) := by
  rw [keyCmd, write_of_accepts h, keyCmdWrite, bits_setBits_above (by decide) (by decide)]

/-- OP of a word in which it was replaced. -/
theorem op_setBits {op : Nat} (h : op < 8) : bits (setBits v 2 0 op) 2 0 = op := by
  rw [bits_setBits (by decide) (by decide)]
  exact Nat.mod_eq_of_lt h

include ha

theorem keyCmdEffect_derive (h : bits w 2 0 = 1) : keyCmdEffect m w s = s.derive m w := by
  simp only [keyCmdEffect, ha, h, Bool.false_eq_true, if_false]

theorem keyCmdEffect_erase (h : bits w 2 0 = 2) : keyCmdEffect m w s = s.eraseCmd m w := by
  simp only [keyCmdEffect, ha, h, Bool.false_eq_true, if_false]

theorem keyCmdEffect_install (h : bits w 2 0 = 3) : keyCmdEffect m w s = s.installCmd m w := by
  simp only [keyCmdEffect, ha, h, Bool.false_eq_true, if_false]

theorem keyCmdEffect_eraseAll (h : bits w 2 0 = 4) : keyCmdEffect m w s = s.eraseAllCmd m w := by
  simp only [keyCmdEffect, ha, h, Bool.false_eq_true, if_false]

/-- An OP that the table does not have is refused. -/
theorem keyCmdEffect_unknown (h : bits w 2 0 = 0 ∨ 5 ≤ bits w 2 0) : keyCmdEffect m w s = s.keyRefuse m w 8 none := by
  unfold keyCmdEffect
  rw [if_neg (ne_true_of_eq_false ha)]
  split <;> first | omega | rfl

end KeyCommands

/-- Whether jobs held under a slot go on after a DERIVE: its label differs in a later epoch alone. -/
def State.goesOn (s : State) (n : Nat) : Bool :=
  (s.key n).valid && withEpoch s.labelReg (labelEpoch (s.key n).label) == (s.key n).label &&
    decide ((labelEpoch (s.key n).label).toNat < (labelEpoch s.labelReg).toNat)

theorem State.derive_loads {w : Word} (hrun : s.keyRunning (bits w 8 3) = true →
      s.goesOn (bits w 8 3) = true ∧ s.keyHeld (bits w 8 3) = true)
    (hnew : ((s.key (bits w 8 3)).valid && s.labelReg == (s.key (bits w 8 3)).label && bits w 10 9 == (s.key (bits w 8 3)).klen &&
      bit w 11 == (s.key (bits w 8 3)).root) = false)
    (hroot : bit w 11 = true → s.crypto.root ≠ none) (hl : s.labelOk (bits w 8 3) s.labelReg (bits w 10 9) (bit w 11) = true) :
    s.derive m w = ((s.loadKey (bits w 8 3) (bit w 11) s.labelReg (bits w 10 9)).settleHeld (bits w 8 3)
      (s.goesOn (bits w 8 3))).keyResult 0 := by
  have hbusy : (s.keyRunning (bits w 8 3) && !(s.goesOn (bits w 8 3) && s.keyHeld (bits w 8 3))) = false := by
    cases hk : s.keyRunning (bits w 8 3) with
    | false => rfl
    | true => rw [(hrun hk).1, (hrun hk).2]; rfl
  have hr : (bit w 11 && s.crypto.root.isNone) = false := by
    cases hb : bit w 11 with
    | false => rfl
    | true => simpa only [Bool.true_and, Option.isNone_eq_false_iff, Option.isSome_iff_ne_none] using hroot hb
  unfold State.goesOn at hbusy
  simp only [State.derive, hbusy, hnew, hr, hl, Bool.not_true, Bool.false_eq_true, if_false]
  rfl

theorem exec_derive (h : Accepts s m keyPage 0x84 (setBits v 2 0 1) noCond d) (ha : (s.arrive m).regBit KEY_STAT 3 = false)
    (hrun : (s.arrive m).keyRunning (bits v 8 3) = true →
      (s.arrive m).goesOn (bits v 8 3) = true ∧ (s.arrive m).keyHeld (bits v 8 3) = true)
    (hnew : (((s.arrive m).key (bits v 8 3)).valid && (s.arrive m).labelReg == ((s.arrive m).key (bits v 8 3)).label &&
      bits v 10 9 == ((s.arrive m).key (bits v 8 3)).klen && bit (setBits v 2 0 1) 11 == ((s.arrive m).key (bits v 8 3)).root) = false)
    (hroot : bit (setBits v 2 0 1) 11 = true → (s.arrive m).crypto.root ≠ none)
    (hl : (s.arrive m).labelOk (bits v 8 3) (s.arrive m).labelReg (bits v 10 9) (bit (setBits v 2 0 1) 11) = true) :
    exec (.derive m v) s = .next (((((s.arrive m).loadKey (bits v 8 3) (bit (setBits v 2 0 1) 11) (s.arrive m).labelReg
      (bits v 10 9)).settleHeld (bits v 8 3) ((s.arrive m).goesOn (bits v 8 3))).keyResult 0).journalKey (s.arrive m) (bits v 8 3)) := by
  have h8 : bits (setBits v 2 0 1) 8 3 = bits v 8 3 := bits_setBits_above (by decide) (by decide)
  have h10 : bits (setBits v 2 0 1) 10 9 = bits v 10 9 := bits_setBits_above (by decide) (by decide)
  change keyCmd m 1 v s = _
  rw [← h8] at hrun
  rw [← h8, ← h10] at hnew hl
  rw [keyCmd_of_accepts h, keyCmdEffect_derive ha (op_setBits (by decide)), State.derive_loads hrun hnew hroot hl, h8, h10]

theorem exec_erase (h : Accepts s m keyPage 0x84 (setBits v 2 0 2) noCond d) (ha : (s.arrive m).regBit KEY_STAT 3 = false)
    (hrun : (s.arrive m).keyRunning (bits v 8 3) = false) :
    exec (.erase m v) s = .next (((((s.arrive m).settleHeld (bits v 8 3) false).eraseKey (bits v 8 3)).keyResult 0).journalKey
      (s.arrive m) (bits v 8 3)) := by
  have h8 : bits (setBits v 2 0 2) 8 3 = bits v 8 3 := bits_setBits_above (by decide) (by decide)
  change keyCmd m 2 v s = _
  rw [keyCmd_of_accepts h, keyCmdEffect_erase ha (op_setBits (by decide)), State.eraseCmd, h8, hrun]
  rfl

theorem exec_install (h : Accepts s m keyPage 0x84 (setBits v 2 0 3) noCond d) (hm : ∀ c, m ≠ .cell c)
    (ha : (s.arrive m).regBit KEY_STAT 3 = false) (ht : (s.arrive m).events.tamper = false)
    (hlock : m = .sideband → (s.arrive m).regBit KEY_CTRL 0 = false)
    (hb : (s.arrive m).installBlob ((s.arrive m).crypto.wrap.flatMap wordBytes) = some u) :
    exec (.install m v) s = .next ((u.keyResult 0).journalKey (s.arrive m) (bits v 8 3)) := by
  have hl : (m == .sideband && (s.arrive m).regBit KEY_CTRL 0) = false := by
    simpa only [Bool.and_eq_false_imp, beq_iff_eq] using hlock
  change keyCmd m 3 v s = _
  rw [keyCmd_of_accepts h, keyCmdEffect_install ha (op_setBits (by decide))]
  cases m with
  | cell c => exact absurd rfl (hm c)
  | _ => simp only [State.installCmd, hl, ht, hb, Bool.or_self, Bool.false_eq_true, if_false]

theorem exec_eraseAll (h : Accepts s m keyPage 0x84 (setBits v 2 0 4) noCond d) (hm : ∀ c, m ≠ .cell c)
    (ha : (s.arrive m).regBit KEY_STAT 3 = false) :
    exec (.eraseAll m v) s = .next ((((List.range 64).foldl (fun s n => (s.settleHeld n false).eraseKey n) (s.arrive m)).keyResult
      0).journalKey (s.arrive m) (bits v 8 3)) := by
  change keyCmd m 4 v s = _
  rw [keyCmd_of_accepts h, keyCmdEffect_eraseAll ha (op_setBits (by decide))]
  cases m with
  | cell c => exact absurd rfl (hm c)
  | _ => rfl

/-- A field replaced by its own value. -/
theorem setBits_bits {w : Word} {hi lo : Nat} : setBits w hi lo (bits w hi lo) = w := by
  apply BitVec.eq_of_getLsbD_eq
  intro i hi32
  simp only [setBits, bits, BitVec.getLsbD_or, BitVec.getLsbD_and, BitVec.getLsbD_not, getLsbD_fieldMask, BitVec.getLsbD_ofNat,
    Nat.testBit_shiftLeft, Nat.testBit_mod_two_pow, Nat.testBit_shiftRight, BitVec.testBit_toNat, hi32, decide_true, Bool.true_and]
  by_cases hlo : lo ≤ i
  · have hsum : lo + (i - lo) = i := by omega
    by_cases hup : i < hi + 1
    · have hlt : i - lo < hi + 1 - lo := by omega
      simp [hlo, hup, hlt, hsum]
    · have hge : ¬ i - lo < hi + 1 - lo := by omega
      simp [hlo, hup, hge]
  · simp [hlo]

/-- A write of KEY_CMD whose OP the table does not have is refused with RESULT 8. -/
theorem exec_keyOpRefused (h : Accepts s m keyPage 0x84 v noCond d) (ha : (s.arrive m).regBit KEY_STAT 3 = false)
    (hop : bits v 2 0 = 0 ∨ 5 ≤ bits v 2 0) :
    exec (.keyOpRefused m v) s = .next (((s.arrive m).keyRefuse m v 8 none).journalKey (s.arrive m) (bits v 8 3)) := by
  have hv : Accepts s m keyPage 0x84 (setBits v 2 0 (bits v 2 0)) noCond d := setBits_bits.symm ▸ h
  change keyCmd m (if bits v 2 0 = 0 ∨ 5 ≤ bits v 2 0 then bits v 2 0 else 0) v s = _
  rw [if_pos hop, keyCmd_of_accepts hv, setBits_bits, keyCmdEffect_unknown ha hop]

theorem exec_rootLock (h : Accepts s m keyPage 0x80 (setBit v 0 true) noCond d) :
    exec (.rootLock m v) s = .next ((s.arrive m).store KEY_CTRL (setBit v 0 true) d) := by
  change execRootLock m v s = _
  rw [execRootLock, write_of_accepts h]

theorem exec_keySuse0Read (h : Reaches (s.arrive m) m keyPage 0x98 d) :
    exec (.keySuse0Read m) s = .next (((s.arrive m).latch keyPage 0x9C m (keySuse1 (s.arrive m))).answerRead m keyPage
      (keySuse0 (s.arrive m))) := by
  change execKeySuse0Read m s = _
  simp only [execKeySuse0Read, checkAccess_of_reaches h]

end Sys2Proof.Machine

open Sys2Proof Sys2Proof.Machine

/-- Settles O31: each command passes its guards, and its effect is that of the rule it follows. -/
theorem cryptoCommands : Obligations.CryptoCommands := by
  refine ⟨?_, ?_, ?_, fun s m lane v d h => ⟨_, exec_cipherHalt h, rfl⟩, ?_, ?_, ?_, ?_, ?_, ?_,
    fun s m v d h => ⟨_, exec_rootLock h, rfl⟩, ?_⟩
  · rintro s lane req r p _ v hr hj hp hl hon he hh ha hfirst hready hph hd rfl hk
    have hlane : (r.lane == none || r.lane == some lane.val) = true := by simpa only [Bool.or_eq_true, beq_iff_eq] using hl
    exact ⟨_, exec_cipherPathJob_encrypt hr ⟨hj, hp, hlane, hon, he, hh, ha, hfirst, hready⟩ hph hd hk, rfl⟩
  · intro s lane req r p hr hj hp hl hon he hh ha hfirst hready hph hd
    have hlane : (r.lane == none || r.lane == some lane.val) = true := by simpa only [Bool.or_eq_true, beq_iff_eq] using hl
    exact ⟨_, exec_cipherPathJob_decrypt hr ⟨hj, hp, hlane, hon, he, hh, ha, hfirst, hready⟩ hph hd, rfl⟩
  · rintro s c lane j _ _ _ _ _ u v _ x y out _ _ _ hj rfl rfl hon he hh hp hl ha hk hsrc hdst hu hx rfl rfl hleft rfl hout rfl rfl hver
      rfl rfl
    exact ⟨_, exec_cipherJob hj rfl ⟨hon, he, hh, hp, hl, ha, hk⟩ ⟨hsrc, hdst⟩ hu hx hleft hout hver, _, rfl, rfl⟩
  · rintro s t0 c lane j _ _ _ _ x _ st v w _ hj rfl ht hon he hb hhere rfl rfl hin rfl hx ha hst rfl rfl
    exact ⟨_, exec_digestJob hj ht ⟨hon, he, hb, hhere⟩ hin hx ha hst, _, rfl, rfl⟩
  · rintro s m v d _ _ _ _ _ h rfl rfl rfl rfl rfl ha hrun hnew hroot hl
    exact ⟨_, exec_derive h ha hrun hnew hroot hl, rfl⟩
  · rintro s m v d _ _ h rfl rfl ha hrun
    exact ⟨_, exec_erase h ha hrun, rfl⟩
  · rintro s m v d _ u h rfl hm ha ht hlock hb
    exact ⟨_, exec_install h hm ha ht hlock hb, rfl⟩
  · rintro s m v d _ h rfl hm ha
    exact ⟨_, exec_eraseAll h hm ha, rfl⟩
  · rintro s m v d _ h rfl ha hop
    exact ⟨_, exec_keyOpRefused h ha hop, rfl⟩
  · rintro s m d _ rfl h
    exact ⟨_, exec_keySuse0Read h, rfl⟩
end

section
/-!
An alarm at the key store: every slot and the root are erased, and KEY_STAT.ALARM is set and stays.
-/

namespace Sys2Proof.Machine

variable {s t : State} {n l : Nat}

/-! ## What results and jobs leave as they are -/

theorem pages_deliver (p : Nat) (x : Delayed) : (s.deliver p x).pages = s.pages := by
  unfold State.deliver State.release
  dsimp only
  split
  · cases x <;> rfl
  · rfl

theorem crypto_deliver (p : Nat) (x : Delayed) : (s.deliver p x).crypto = s.crypto := by
  unfold State.deliver State.release
  dsimp only
  split
  · cases x <;> rfl
  · rfl

/-- A part of the state that every step of a fold keeps. -/
theorem foldl_keeps {α β : Type} {f : State → α → State} (g : State → β) (hf : ∀ t a, g (f t a) = g t) (xs : List α) (s : State) :
    g (xs.foldl f s) = g s :=
  xs.foldlRecOn (motive := fun t => g t = g s) f rfl fun t h a _ => (hf t a).trans h

theorem pages_endHeld (st : Nat) : (s.endHeld n st).pages = s.pages := by
  unfold State.endHeld
  generalize List.range 16 = ls
  refine foldl_keeps State.pages (fun t l => ?_) _ _
  split
  · split
    · exact pages_deliver ..
    · rfl
  · rfl

theorem slots_endHeld (st : Nat) : (s.endHeld n st).crypto.slots = s.crypto.slots := by
  unfold State.endHeld
  generalize List.range 16 = ls
  refine foldl_keeps (fun t => t.crypto.slots) (fun t l => ?_) _ _
  split
  · split
    · rw [State.endJob, crypto_deliver]
      rfl
    · rfl
  · rfl

theorem pages_clearCtx (k : Nat) : (s.clearCtx k).pages = s.pages := by
  unfold State.clearCtx
  generalize List.range 28 = ls
  exact (foldl_keeps (f := fun s b => s.freshProt 0xD4 10 (k * 28 + b)) State.pages (fun _ _ => rfl) ls _).trans rfl

theorem pages_alarmDigest (c : CellId) : (s.alarmDigest c).pages = s.pages := by
  unfold State.alarmDigest State.endJob
  rw [pages_deliver]
  refine foldl_keeps State.pages (fun t k => ?_) _ _
  split
  · exact pages_clearCtx k
  · rfl

/-! ## Erasing the slots (R324, R330) -/

theorem pages_eraseKey : (s.eraseKey n).pages = s.pages := rfl

/-- Slot `k` holds no key. -/
def State.Erased (s : State) (k : Nat) : Prop := (s.key k).valid = false ∧ (s.key k).key = 0

theorem key_eraseKey_ne {k : Nat} (h : k ≠ n) : (s.eraseKey n).key k = s.key k := getD_modify_ne h

theorem erased_eraseKey : (s.eraseKey n).Erased n := by
  unfold State.Erased State.key State.eraseKey State.modKey at'
  by_cases h : n < s.crypto.slots.length
  · rw [getD_modify_self h]
    exact ⟨rfl, rfl⟩
  · rw [List.getD_eq_default _ _ (by rw [List.length_modify]; omega)]
    exact ⟨rfl, rfl⟩

/-- Once the slots below `n` are erased in turn, each of them holds no key. -/
theorem erased_foldl (st : Nat) {k : Nat} (h : k < n) : ((List.range n).foldl (fun s n => (s.endHeld n st).eraseKey n) s).Erased k := by
  induction n with
  | zero => exact absurd h (Nat.not_lt_zero k)
  | succ n ih =>
    rw [List.range_succ, List.foldl_append]
    change ((State.endHeld _ n st).eraseKey n).Erased k
    by_cases hk : k = n
    · exact hk ▸ erased_eraseKey
    · have hlt := ih (by omega)
      unfold State.Erased at *
      rw [key_eraseKey_ne hk]
      unfold State.key at *
      rwa [slots_endHeld]

/-! ## The registers that an alarm leaves (R71, R324) -/

theorem leaves_of_pages {keys : Nat → Prop} (h : t.pages = s.pages) : Leaves keys s t := Leaves.refl.of_regs (congrArg Pages.regs h)

theorem leaves_foldl {α : Type} {keys : Nat → Prop} {f : State → α → State} (hf : ∀ t a, Leaves keys t (f t a)) (xs : List α) :
    Leaves keys s (xs.foldl f s) :=
  xs.foldlRecOn (motive := Leaves keys s) f .refl fun t h a _ => h.trans (hf t a)

/-- No register is asked for: an operation keeps the canonical form. -/
def NoReg (_ : Nat) : Prop := False

theorem leaves_clearDigRes : Leaves NoReg s (s.clearDigRes l) := by
  unfold State.clearDigRes
  exact (leaves_foldl (fun _ _ => Leaves.refl.setReg id) _).setReg id

theorem leaves_clearDigests : Leaves NoReg s s.clearDigests := by
  unfold State.clearDigests
  extract_lets s1 s2 _ s3
  have h1 : Leaves NoReg s s1 := leaves_foldl (fun t c => by
    split
    · split
      · exact leaves_of_pages (pages_alarmDigest c)
      · exact .refl
    · exact .refl) _
  have h2 : Leaves NoReg s1 s2 := leaves_foldl (f := State.clearCtx) (fun t k => leaves_of_pages (pages_clearCtx k)) (List.range 32)
  clear_value s2
  have h3 : Leaves NoReg s s3 := (h1.trans h2).of_regs rfl
  exact h3.trans (leaves_foldl (fun t l => leaves_clearDigRes.trans
    (((Leaves.refl.count (by decide)).raise _ _).mono fun _ => False.elim)) (List.range 4))

/-- The slots after an alarm has erased each in turn. -/
def State.slotsErased (s : State) : State := (List.range 64).foldl (fun s n => (s.endHeld n 0x32).eraseKey n) s.clearDigests

/-- The state in which the root and the lanes' key registers are gone as well. -/
def State.keysErased (s : State) : State :=
  { s with crypto := { s.crypto with root := none, lanes := s.crypto.lanes.map fun (l : Lane) => { l with keys := [] } } }

theorem cryptoAlarm_eq : s.cryptoAlarm = (s.slotsErased.keysErased.setReg KEY_STAT
    (setBit (s.slotsErased.keysErased.reg KEY_STAT) 3 true)).raise keyPage 5 := rfl

theorem leaves_slotsErased : Leaves NoReg s s.slotsErased := by
  unfold State.slotsErased
  exact leaves_clearDigests.trans (leaves_foldl (fun t k => leaves_of_pages (pages_eraseKey.trans (pages_endHeld _))) (List.range 64))

theorem canonical_keysErased (hc : s.Canonical) : s.keysErased.Canonical := hc

/-- KEY_STAT.ALARM stays once it is set. -/
theorem alarmStat_cryptoAlarm (hc : s.Canonical) : s.cryptoAlarm.regBit KEY_STAT 3 = true ∧ s.cryptoAlarm.Canonical := by
  have h3 := canonical_keysErased (leaves_slotsErased.run hc).1
  rw [cryptoAlarm_eq]
  generalize s.slotsErased.keysErased = u at h3
  have hset : (u.setReg KEY_STAT (setBit (u.reg KEY_STAT) 3 true)).Canonical := SMap.wf_set h3
  obtain ⟨h4, hkept⟩ := (Leaves.refl.raise keyPage 5).run hset
  refine ⟨?_, h4⟩
  rw [State.regBit, hkept _ (by unfold QuietReg; decide), State.reg_setReg_self h3, bit_setBit_self (by decide)]

theorem crypto_cryptoAlarm : s.cryptoAlarm.crypto = s.slotsErased.keysErased.crypto := by
  rw [cryptoAlarm_eq, State.raise_crypto, State.setReg_crypto]

theorem erased_slotsErased {k : Nat} (hk : k < 64) : s.slotsErased.Erased k := erased_foldl 0x32 hk

theorem erased_keysErased {k : Nat} (h : s.Erased k) : s.keysErased.Erased k := h

theorem erased_cryptoAlarm {k : Nat} (hk : k < 64) : s.cryptoAlarm.Erased k := by
  have h := erased_keysErased (erased_slotsErased (s := s) hk)
  unfold State.Erased State.key at *
  rwa [crypto_cryptoAlarm]

theorem root_cryptoAlarm : s.cryptoAlarm.crypto.root = none := by
  rw [crypto_cryptoAlarm]
  rfl

/-! ## What follows the erasing (R71, R455, R457) -/

/-- What an alarm does after it has erased the keys changes nothing of them, nor KEY_STAT. -/
structure KeysKept (s t : State) : Prop where
  crypto : t.crypto = s.crypto
  leaves : Leaves (fun k => QuietReg k ∧ k ≠ ADM_STAT) s t

theorem KeysKept.trans {u : State} (h : KeysKept s t) (h' : KeysKept t u) : KeysKept s u :=
  ⟨h'.crypto.trans h.crypto, h.leaves.trans h'.leaves⟩

theorem KeysKept.cause (k : Nat) (b : Bool) : KeysKept s (s.cause k b) :=
  ⟨State.cause_crypto .., (Leaves.refl.setReg fun h => h.2 rfl).trans ((leaves_cause k b).mono fun _ h => h.1)⟩

theorem KeysKept.syncTemp : KeysKept s s.syncTemp := by
  unfold State.syncTemp
  split
  · exact ⟨rfl, .refl⟩
  · exact .cause ..

theorem KeysKept.syncSupply : KeysKept s s.syncSupply := by
  unfold State.syncSupply
  split
  · exact ⟨rfl, .refl⟩
  · exact .cause ..

theorem KeysKept.openSpan (c : Nat) (r : Option CmdRef) : KeysKept s (s.openSpan c r) := by
  unfold State.openSpan
  split
  · exact ⟨rfl, .refl⟩
  · extract_lets _ _ s1 s2
    have h1 : Leaves QuietReg s s1 := Leaves.refl.of_regs rfl
    have h2 : Leaves QuietReg s s2 := h1.count (by decide)
    have hc : s2.crypto = s.crypto := State.count_crypto ..
    split
    · exact ⟨(State.raise_crypto ..).trans hc, (h2.raise _ _).mono fun _ h => h.1⟩
    · exact ⟨hc, h2.mono fun _ h => h.1⟩

/-! ## An alarm begins (R454, R455) -/

theorem leaves_raiseAlarm : Leaves (· = PWR_STAT) s (s.raiseAlarm n) := by
  have hq : QuietReg PWR_STAT := by unfold QuietReg; decide
  unfold State.raiseAlarm
  extract_lets s1 _ s2
  have h1 : Leaves (· = PWR_STAT) s s1 := Leaves.refl.setReg (by decide)
  have h2 : Leaves (· = PWR_STAT) s s2 := h1.of_regs rfl
  exact h2.trans (((Leaves.refl.count (by decide)).raise _ _).mono fun _ h => h ▸ hq)

/-- Whether a page is on, by what it is read from. -/
theorem pageOn_congr {p : Nat} (h1 : t.start = s.start) (h2 : t.reg PWR_STAT = s.reg PWR_STAT) (h3 : t.search = s.search)
    (h4 : t.power = s.power) : t.pageOn p = s.pageOn p := by
  unfold State.pageOn State.asleep State.field?
  rw [h1, h2, h3, h4]

theorem pageOn_raiseAlarm {p : Nat} (hc : s.Canonical) : (s.raiseAlarm n).pageOn p = s.pageOn p := by
  refine pageOn_congr ?_ ((leaves_raiseAlarm.run hc).2 _ rfl) ?_ ?_ <;> unfold State.raiseAlarm <;> simp

theorem exec_alarm (hn : n < 5) (h : n = 4 ∨ s.events.alarms.contains n = false) : exec (.alarm n) s = .next (s.beginAlarm n) := by
  refine if_neg ?_
  rintro (h5 | ⟨h4, hon⟩)
  · omega
  · exact Bool.false_ne_true ((h.resolve_left h4).symm.trans hon)

/-- An alarm other than KEYSLOT, while page KEY is on: the keys are erased, and what follows keeps them so. -/
theorem beginAlarm_keysKept (hc : s.Canonical) (hn : n ≤ 3) (ha : s.events.alarms.contains n = false) (hon : s.pageOn keyPage = true) :
    ∃ u : State, u.Canonical ∧ KeysKept u.cryptoAlarm (s.beginAlarm n) := by
  have h4 : n ≠ 4 := by omega
  obtain ⟨hc1, -⟩ := (leaves_raiseAlarm (n := n)).run hc
  have hon1 := (pageOn_raiseAlarm (n := n) (p := keyPage) hc).trans hon
  unfold State.beginAlarm
  rw [if_neg (ne_true_of_eq_false ha), if_neg h4]
  extract_lets _ s1 _ s2 s3
  have hs1 : s1.Canonical ∧ s1.pageOn keyPage = true := by
    dsimp only [s1]
    split
    · exact ⟨hc1, hon1⟩
    · exact ⟨hc1, hon1⟩
  have hs2 : s2 = s1.cryptoAlarm := if_pos hs1.2
  clear_value s2
  subst hs2
  refine ⟨s1, hs1.1, ?_⟩
  split
  · exact (KeysKept.syncTemp.trans .syncSupply).trans (.openSpan ..)
  · exact KeysKept.syncTemp.trans .syncSupply

end Sys2Proof.Machine

open Sys2Proof Sys2Proof.Machine

/-- Settles O55: the alarm erases every slot and the root and sets KEY_STAT.ALARM, and nothing after that touches them. -/
theorem alarmErasesKeys : Obligations.AlarmErasesKeys := by
  intro s n hc hn ha hon
  refine ⟨_, exec_alarm (by omega) (.inr ha), ?_⟩
  obtain ⟨u, hu, hkept⟩ := beginAlarm_keysKept hc hn ha hon
  obtain ⟨hstat, hcu⟩ := alarmStat_cryptoAlarm hu
  have hkeys (k : Nat) (hk : k < 64) := erased_cryptoAlarm (s := u) hk
  obtain ⟨-, hregs⟩ := hkept.leaves.run hcu
  unfold State.Erased State.key at hkeys
  unfold State.key State.regBit
  rw [hkept.crypto, hregs _ ⟨by unfold QuietReg; decide, by decide⟩]
  exact ⟨hkeys, root_cryptoAlarm, hstat⟩
end

section
/-!
The DRAM channels: requests, refresh, temperature bands, re-tuning blackouts, and the correction logs.
-/

namespace Sys2Proof.Machine

variable {s u : State} {m : Master} {page ch : Nat} {v : Word} {d : RegDef}

/-- A command that writes a register which accepts the value has the register's effect. -/
theorem next_write_of_accepts {off : Nat} {cond : State → Option State} {eff : RegDef → State → State}
    (h : Accepts s m page off v cond d) : (.next (s.write m page off 32 v cond eff).1 : Answer) = .next (eff d (s.arrive m)) :=
  congrArg (fun x : State × BusReply => (Host.Outcome.next x.1 : Answer)) (write_of_accepts h)

/-! ## Requests (R333 to R335) -/

/-- The state in which a request has left its channel's queue and its row is open. -/
def State.issueReq (s : State) (ch : Nat) (r : LineReq) : State :=
  ((if s.promoted r then s.count 0x0E0 3 1 else s).activate ch r).modDramCh ch fun c => { c with queue := c.queue.erase r }

/-- Whether the channels serve requests: neither self-refresh nor a blackout is on. -/
structure DramServes (s : State) (ch : Nat) (r : LineReq) : Prop where
  awake : s.regBit DRC_STAT 0 = false
  free : s.regBit DRC_STAT 1 = false
  next : s.nextReq ch = some r

section Requests

variable {r : LineReq} {upset : List (Nat × BitVec 266)} (hs : DramServes s ch r) (hu : s.issueReq ch r = u)

include hs hu

/-- A write whose line the eviction buffer does not hold is stored. -/
theorem exec_dramRequestIssue_write {l : Line} {pois : Bool} (hw : r.write = some (l, pois))
    (he : (u.dram.ebuf.find? fun e => e.1.n == r.n && r.req == 63) = none) :
    exec (.dramRequestIssue ch upset) s =
      .next ((({ u with dram := { u.dram with ebuf := u.dram.ebuf.filter fun e => e.1.n != r.n } } : State).dramWrite r.n l pois).syncFcv) := by
  obtain ⟨ha, hf, hn⟩ := hs
  unfold State.issueReq at hu
  change execDramRequestIssue ch upset s = _
  simp only [execDramRequestIssue, ha, hf, hn, hu, hw, he, Bool.or_self, Bool.false_eq_true, if_false, Bool.or_false]

/-- A write from the eviction buffer stores the line as the buffer reads. -/
theorem exec_dramRequestIssue_evict {l : Line} {pois : Bool} {e : CLine × Bool} {k : Line} {bad : Bool} {v : State}
    (hw : r.write = some (l, pois))
    (he : (u.dram.ebuf.find? fun e => e.1.n == r.n && r.req == 63) = some e) (hk : u.readLoose { e.1 with data := l } = (k, bad, v)) :
    exec (.dramRequestIssue ch upset) s =
      .next ((({ v with dram := { v.dram with ebuf := v.dram.ebuf.filter fun e => e.1.n != r.n } } : State).dramWrite r.n k
        (pois || bad)).syncFcv) := by
  obtain ⟨ha, hf, hn⟩ := hs
  unfold State.issueReq at hu
  change execDramRequestIssue ch upset s = _
  simp only [execDramRequestIssue, ha, hf, hn, hu, hw, he, hk, Bool.or_self, Bool.false_eq_true, if_false]

/-- The bits that a sample turns over in a line. -/
def turned (upset : List (Nat × BitVec 266)) : Nat := upset.foldl (fun a p => a ^^^ (p.2.toNat * 2 ^ (266 * (p.1 % 4)))) 0

/-- The state with those bits turned over. -/
def State.upsetLine (u : State) (n turn : Nat) : State :=
  { u with upsets := u.upsets.set (fun _ => 0) (lineKey n) (u.upsets.get (fun _ => 0) (lineKey n) ^^^ turn) }

/-- A read delivers the line as it is decoded, unless Squall forces an uncorrectable error. -/
theorem exec_dramRequestIssue_read (hw : r.write = none)
    (hf : ((u.upsetLine r.n (turned upset)).dramRead r.n).2.armed (0xE1 + ch) 3 = false) :
    exec (.dramRequestIssue ch upset) s = .next (((u.upsetLine r.n (turned upset)).dramRead r.n).2.deliverLine r.req r.n
      ((u.upsetLine r.n (turned upset)).dramRead r.n).1) := by
  obtain ⟨ha, hb, hn⟩ := hs
  unfold State.issueReq at hu
  unfold State.upsetLine turned at hf
  change execDramRequestIssue ch upset s = _
  simp only [execDramRequestIssue, ha, hb, hn, hu, hw, hf, Bool.or_self, Bool.false_eq_true, if_false]
  rfl

end Requests

/-! ## Refresh and temperature bands (R336 to R342) -/

theorem exec_perBankRefresh (hon : s.pageOn 0x0E0 = true) (ha : s.regBit DRC_STAT 0 = false) (hb : s.regBit DRC_STAT 1 = false) :
    exec (.perBankRefresh ch) s = .next (s.modDramCh ch fun c =>
      { c with bank := (c.bank + 1) % 16, open_ := c.open_.set (fun _ => 0) c.bank 0, pend := c.pend - 1 }) := by
  change execPerBankRefresh ch s = _
  simp only [execPerBankRefresh, hon, ha, hb, Bool.not_true, Bool.false_eq_true, if_false]

/-- In a blackout the refresh is postponed. -/
theorem exec_perBankRefresh_blackout (hon : s.pageOn 0x0E0 = true) (hb : s.regBit DRC_STAT 1 = true) :
    exec (.perBankRefresh ch) s = .next (s.modDramCh ch fun c => { c with pend := min 8 (c.pend + 1) }) := by
  change execPerBankRefresh ch s = _
  simp only [execPerBankRefresh, hon, hb, Bool.not_true, Bool.false_eq_true, if_false, if_true]

/-- DRC_STAT with a sample and its band. -/
def sampledStat (st : Word) (x : Int) : Word := setBits (setBits st 23 16 (x + 64).toNat) 6 4 (bandStep 8 (bits st 6 4) x)

/-- A sample is taken: its band, where it is another one, is staged. -/
def State.takeTemp (s : State) (x : Int) : State :=
  let u := s.setReg DRC_STAT (setBit (sampledStat (s.reg DRC_STAT) x) 2 (decide (85 < x)))
  if bandStep 8 (bits (s.reg DRC_STAT) 6 4) x = bits (s.reg DRC_STAT) 6 4 then u
  else (u.raise 0x0E0 3).stageCodes (bandStep 8 (bits (s.reg DRC_STAT) 6 4) x)

section Samples

variable {x : Int} (hon : s.pageOn 0x0E0 = true)

include hon

/-- A sample that the active band holds, or that comes after another outside it. -/
theorem exec_dramTempSample_held
    (hb : (bandHolds (bits (sampledStat (s.reg DRC_STAT) x) 10 8) x || bit (sampledStat (s.reg DRC_STAT) x) 3) = true) :
    exec (.dramTempSample x) s = .next (s.takeTemp x) := by
  unfold sampledStat at hb
  change execDramTempSample x s = _
  simp only [execDramTempSample, hon, hb, Bool.not_true, Bool.false_eq_true, if_false, if_true]
  rfl

/-- The first sample that the active band does not hold. -/
theorem exec_dramTempSample_margin
    (hb : (bandHolds (bits (sampledStat (s.reg DRC_STAT) x) 10 8) x || bit (sampledStat (s.reg DRC_STAT) x) 3) = false) :
    exec (.dramTempSample x) s = .next
      (let y := (((s.takeTemp x).setReg DRC_STAT (setBit ((s.takeTemp x).reg DRC_STAT) 3 true)).syncTemp.raise 0x0E0 5).count 0x0E0 5 1
       { y with dram := { y.dram with margin := true } }) := by
  unfold sampledStat at hb
  change execDramTempSample x s = _
  simp only [execDramTempSample, hon, hb, Bool.not_true, Bool.false_eq_true, if_false]
  rfl

end Samples

/-! ## Re-tuning blackouts (R340 to R342) -/

/-- A blackout that is due begins (log 124). -/
theorem exec_retuneBlackout_begins (hb : s.regBit DRC_STAT 1 = false) (hd : s.blackoutDue = true) :
    exec .retuneBlackout s = .next (s.setReg DRC_STAT (setBit (s.reg DRC_STAT) 1 true)) := by
  change execRetuneBlackout s = _
  simp only [execRetuneBlackout, hb, hd, Bool.not_false, if_true]

/-- A channel takes its staged codes, and what it held up counts. -/
def State.retuneCh (s : State) (ch : Nat) : State :=
  let u := s.modDramCh ch fun c =>
    { c with open_ := [], codes := (List.range 10).foldl (fun m k => m.set (fun _ => 0) k (m.get (fun _ => 0) (16 + k))) c.codes }
  if (s.dramCh ch).queue.length = 0 then u else u.count (0xE1 + ch) 6 (s.dramCh ch).queue.length

/-- The staged band is active, and the blackout is over. -/
def State.endRetune (u : State) : State :=
  let st := setBit (setBits (u.reg DRC_STAT) 10 8 (bits (u.reg DRC_STAT) 6 4)) 1 false
  let ok := bandHolds (bits (u.reg DRC_STAT) 6 4) u.dramTemp
  let v := (u.setReg DRC_STAT (if ok then setBit st 3 false else st)).setReg DRC_RT 0
  let w := { v with dram := { v.dram with lastBo := v.pages.dtime, margin := if ok then false else v.dram.margin } }
  (((if bit st 3 && ok then w.syncTemp else w).raise 0x0E0 4).count 0x0E0 2 1).count 0x020 9 1

/-- The blackout ends with every channel on its staged codes (log 124). -/
theorem exec_retuneBlackout_ends (hb : s.regBit DRC_STAT 1 = true) {u : State} (hu : u = (List.range 4).foldl (fun s ch => s.retuneCh ch) s) :
    exec .retuneBlackout s = .next u.endRetune := by
  simp only [State.retuneCh] at hu
  change execRetuneBlackout s = _
  simp only [execRetuneBlackout, hb, Bool.not_true, Bool.false_eq_true, if_false, ← hu]
  clear hu
  rfl

end Sys2Proof.Machine

open Sys2Proof Sys2Proof.Machine

/-- Settles O32: each command passes its guards, and its effect is that of the rule it follows. -/
theorem dramCommands : Obligations.DramCommands := by
  refine ⟨?_, ?_, ?_, fun s ch hon ha hb => ⟨_, exec_perBankRefresh hon ha hb, rfl⟩,
    fun s ch hon hb => ⟨_, exec_perBankRefresh_blackout hon hb, rfl⟩, ?_, ?_,
    fun s m v d h => ⟨_, next_write_of_accepts h, rfl⟩,
    fun s m v d h => ⟨_, next_write_of_accepts h, rfl⟩, ?_, ?_,
    fun s => ⟨_, rfl, rfl⟩,
    fun s m page v d h => ⟨_, next_write_of_accepts h, rfl⟩⟩
  · rintro s ch upset r l pois _ ha hf hn hw rfl he
    exact ⟨_, exec_dramRequestIssue_write ⟨ha, hf, hn⟩ rfl hw he, rfl⟩
  · rintro s ch upset r l pois e k bad _ v ha hf hn hw rfl he hk
    exact ⟨_, exec_dramRequestIssue_evict ⟨ha, hf, hn⟩ rfl hw he hk, rfl⟩
  · rintro s ch upset r _ _ _ _ ha hb hn hw rfl rfl rfl hf rfl
    exact ⟨_, exec_dramRequestIssue_read ⟨ha, hb, hn⟩ rfl hw hf, rfl⟩
  · rintro s x _ _ _ hon rfl rfl rfl hb
    exact ⟨_, exec_dramTempSample_held hon hb, rfl⟩
  · rintro s x _ _ _ hon rfl rfl rfl hb
    exact ⟨_, exec_dramTempSample_margin hon hb, s.takeTemp x, _, rfl, rfl, rfl⟩
  · intro s hb hr ha hp hd hc
    refine ⟨_, exec_retuneBlackout_begins hb ?_, rfl⟩
    simp only [State.blackoutDue, hr, ha, hp, hd, hc, Bool.not_false, Bool.and_self]
  · intro s u st ok v w hb hu hst hok hv hw
    refine ⟨u.endRetune, exec_retuneBlackout_ends hb hu, ?_⟩
    clear hu
    subst hw hv hok hst
    rfl
end

section
/-!
The fabric cache: accesses, fills, the ways, and maintenance.
-/

namespace Sys2Proof.Machine

variable {s u v : State}

/-! ## Accesses and fills (R344 to R349) -/

/-- The bytes of a line that a request of a port names. -/
def accessOf (addr len cls : Nat) (write : Option (List Byte)) : Access :=
  { n := addr / 128, off := addr % 128, len := len, cls := cls % 4, write := write.map fun bs => sub bs 0 len }

/-- Whether an access lies within one line of DRAM that is filled, while the cache is on. -/
structure CacheReach (s : State) (id addr len : Nat) : Prop where
  port : id < 63
  some : 0 < len
  line : addr % 128 + len ≤ 128
  dram : addr / 128 < lineCount
  filled : s.regionFilled addr = true
  page : s.pageOn 0xE8 = true

/-- An access that its port accepts. -/
theorem exec_cacheAccess {id addr len cls : Nat} {write : Option (List Byte)} (h : CacheReach s id addr len)
    (ha : s.access id (accessOf addr len cls write) = some u) : exec (.cacheAccess id addr len cls write) s = .next u := by
  obtain ⟨hid, hlen, hline, hdram, hfill, hon⟩ := h
  have hpass : ¬(63 ≤ id ∨ len = 0 ∨ 128 < addr % 128 + len ∨ lineCount ≤ addr / 128 ∨ s.pageOn 0xE8 = false) := by
    simp only [hon, Bool.true_eq_false, or_false]
    omega
  unfold accessOf at ha
  change execCacheAccess id addr len cls write s = _
  simp only [execCacheAccess, if_neg hpass, hfill, ha, Bool.not_true, Bool.false_eq_true, if_false, Option.getD_some]

/-- Where a line that has arrived goes once its waiting accesses are served: a way, back to DRAM if it was written, or nowhere. -/
def State.placeLine (v : State) (slice id : Nat) (p : CPort) (x : Line) (y w : Bool) (now : BitVec 64) : Option State :=
  if p.alloc && !(v.usableWays slice id).isEmpty then v.allocate slice id p.n 0 x w y
  else if w then v.enqueue { n := p.n, cls := 0, req := id, since := now, write := some (x, y) } else some v

/-- A port is free. -/
def State.freePort (u : State) (slice id : Nat) : State :=
  u.modSlice slice fun sl => { sl with ports := sl.ports.filter (·.id != id) }

/-- A fill frees its port; an access that its port had stopped follows. -/
theorem exec_cacheFill {slice id : Nat} {p : CPort} {l x : Line} {pois y w : Bool} (hp : (s.slice slice).port id = some p)
    (ha : p.arrived = some (l, pois)) (hj : s.serveJoined slice id p.joined l pois false = (x, y, w, v))
    (hu : v.placeLine slice id p x y w s.pages.dtime = some u) :
    exec (.cacheFill slice id) s = .next (p.stopped.elim (u.freePort slice id) fun a =>
      ((u.freePort slice id).access id a).getD (u.freePort slice id)) := by
  unfold State.placeLine at hu
  change execCacheFill slice id s = _
  simp only [execCacheFill, hp, ha, hj, hu]
  cases p.stopped <;> rfl

/-! ## The ways (R350, R351) -/

/-- A way whose time has come, with no maintenance of its slice under way, is disabled. -/
theorem exec_wayDisable {slice way : Nat} {x : Nat × Nat} (hf : (s.slice slice).retire.find? (·.1 == way) = some x) (ht : x.2 ≤ s.ns)
    (hw : (s.slice slice).wop = none) :
    exec (.wayDisable slice way) s =
      (let u := (s.flushWay slice way).setReg (FCH_WAYS slice)
        (setBit (setBit ((s.flushWay slice way).reg (FCH_WAYS slice)) (16 + way) false) way true)
       .next ((((u.modSlice slice fun sl => { sl with retire := sl.retire.filter (·.1 != way) }).syncWays slice).logWays slice).raise
        (fchPage slice) 4)) := by
  change execWayDisable slice way s = _
  simp only [execWayDisable, hf, hw, not_lt.2 ht, Option.any_none, Bool.false_eq_true, or_self, if_false]

/-! ## Maintenance (R352, R353) -/

/-- DONE of an operation: for the ALL operations, the lines that the cache held (log 127). -/
def State.mopDone (s : State) (o : MOp) : Nat :=
  if decide (4 ≤ o.op) then
    min 65535 (s.dram.slices.foldl (fun n (sl : Slice4) => n + sl.lines.length) (s.dram.victim.length + s.dram.ebuf.length))
  else o.count

theorem exec_maintenanceDone {o : MOp} (ho : s.dram.mop = some o) (hw : s.mopWaits o = false) :
    exec (.maintenanceDone none) s =
      (let u := s.maintain o.covers (o.op != 2) (o.op = 2 || o.op = 3 || o.op = 5)
       let v : State := { u with dram := { u.dram with mop := none } }
       .next ((v.setReg FCV_MSTAT (setBits (setBits (v.reg FCV_MSTAT) 1 0 0) 31 16 (s.mopDone o))).raise 0x0EC 3)) := by
  change execMaintenanceDone none s = _
  simp only [execMaintenanceDone, ho, hw, Bool.false_eq_true, if_false]
  rfl

theorem exec_maintenanceDone_way {k op w : Nat} (ho : (s.slice k).wop = some (op, w))
    (hp : ((s.slice k).ports.any fun p => p.alloc && (s.usableWays k p.id).contains w) = false) :
    exec (.maintenanceDone (some k)) s =
      (let u := (s.writeBack k ((s.slice k).lines.filter (·.way == w))).modSlice k fun sl => { sl with
        wop := none, lines := if op = 2 then sl.lines.filter (·.way != w)
          else sl.lines.map fun l => if l.way = w then { l with dirty := false } else l }
       .next (u.setReg (FCH_STAT k) (setBit (u.reg (FCH_STAT k)) 16 false))) := by
  change execMaintenanceDone (some k) s = _
  simp only [execMaintenanceDone, ho, hp, Bool.false_eq_true, if_false]

end Sys2Proof.Machine

open Sys2Proof Sys2Proof.Machine

/-- Settles O33: each command passes its guards, and its effect is that of the rule it follows. -/
theorem cacheCommands : Obligations.CacheCommands := by
  refine ⟨fun s id addr len cls write u hid hlen hline hdram hfill hon ha =>
      ⟨_, exec_cacheAccess ⟨hid, hlen, hline, hdram, hfill, hon⟩ ha, rfl⟩, ?_, ?_,
    fun s m slice v d h => ⟨_, next_write_of_accepts h, rfl⟩,
    fun s m v d h => ⟨_, next_write_of_accepts h, rfl⟩,
    fun s m v d h => ⟨_, next_write_of_accepts h, rfl⟩,
    fun s m v d h => ⟨_, next_write_of_accepts h, rfl⟩,
    fun s m v d h => ⟨_, next_write_of_accepts h, rfl⟩,
    fun s m v d h => ⟨_, next_write_of_accepts h, rfl⟩,
    fun s m slice v d h => ⟨_, next_write_of_accepts h, rfl⟩,
    fun s m slice v d h => ⟨_, next_write_of_accepts h, rfl⟩, ?_, ?_⟩
  · intro s slice id p l pois x y w v u hp ha hj hu
    refine ⟨_, exec_cacheFill hp ha hj hu, _, rfl, ?_⟩
    cases p.stopped <;> rfl
  · rintro s slice way at_ _ hf ht hw rfl
    exact ⟨_, exec_wayDisable hf ht hw, rfl⟩
  · rintro s o _ ho hw rfl
    exact ⟨_, exec_maintenanceDone ho hw, rfl⟩
  · rintro s k op w _ ho hp rfl
    exact ⟨_, exec_maintenanceDone_way ho hp, rfl⟩
end

section
/-!
The codes of the memories: the parities of an on-chip block and SECDED over a DRAM word, each by what a pattern of one bit and of two bits makes
of its checks; and what a DRAM line reads as after a write.
-/

namespace Sys2Proof.Machine

/-! ## Patterns of one and of two bits -/

theorem testBit_two_pow_eq (j i : Nat) : (2 ^ j).testBit i = decide (i = j) := by
  rw [Nat.testBit_two_pow]
  exact decide_eq_decide.2 eq_comm

/-- A pattern of two bits is the sum of two patterns of one. -/
theorem testBit_two_pows {j k : Nat} (h : j < k) (i : Nat) : (2 ^ j + 2 ^ k).testBit i = (decide (i = j)).xor (decide (i = k)) := by
  have hor : 2 ^ j + 2 ^ k = 2 ^ k ||| 2 ^ j := by
    have := Nat.two_pow_add_eq_or_of_lt (Nat.pow_lt_pow_right (by decide : 1 < 2) h) 1
    rw [mul_one] at this
    rw [← this, add_comm]
  rw [hor, Nat.testBit_or, testBit_two_pow_eq, testBit_two_pow_eq]
  by_cases hj : i = j
  · subst hj
    simp [h.ne]
  · simp [hj]

/-- A fold over the first numbers takes in the next one last. -/
theorem foldl_range_succ {α : Type} (f : α → Nat → α) (a : α) (n : Nat) :
    (List.range (n + 1)).foldl f a = f ((List.range n).foldl f a) n := by
  rw [List.range_succ, List.foldl_append]
  rfl

/-- A parity over a sum of two patterns is the sum of the parities. -/
theorem foldl_xor_xor (p q : Nat → Bool) (n : Nat) (a b : Bool) :
    (List.range n).foldl (fun x k => x.xor ((p k).xor (q k))) (a.xor b) =
      ((List.range n).foldl (fun x k => x.xor (p k)) a).xor ((List.range n).foldl (fun x k => x.xor (q k)) b) := by
  induction n with
  | zero => rfl
  | succ n ih =>
    rw [foldl_range_succ, foldl_range_succ, foldl_range_succ, ih]
    simp only [Bool.xor_assoc, Bool.xor_left_comm]

/-! ## SECDED over a word of 266 bits (R333) -/

/-- The positions of the data bits rise. -/
theorem dataPos_lt {j k : Nat} (h : j < k) : dataPos j < dataPos k := by
  unfold dataPos
  split_ifs <;> omega

theorem dataPos_le {k : Nat} (h : k < 256) : dataPos k ≤ 265 := by
  unfold dataPos
  split_ifs <;> omega

theorem three_le_dataPos (k : Nat) : 3 ≤ dataPos k := by
  unfold dataPos
  split_ifs <;> omega

theorem dataPos_inj {j k : Nat} (h : dataPos j = dataPos k) : j = k := by
  rcases lt_trichotomy j k with hjk | hjk | hjk
  · exact absurd h (dataPos_lt hjk).ne
  · exact hjk
  · exact absurd h (dataPos_lt hjk).ne'

/-- No data bit stands at a power of two. -/
theorem dataPos_ne_two_pow {k i : Nat} (hk : k < 256) (hi : i < 9) : dataPos k ≠ 2 ^ i := by
  unfold dataPos
  interval_cases i <;> split_ifs <;> omega

theorem codePos_data {k : Nat} (h : k < 256) : codePos k = dataPos k := if_pos h

theorem codePos_check {k : Nat} (h : 256 ≤ k) (h' : k < 265) : codePos k = 2 ^ (k - 256) := by
  rw [codePos, if_neg (not_lt.2 h), if_pos h']

theorem codePos_last {k : Nat} (h : k < 266) (h' : ¬ k < 265) : codePos k = 0 := by
  rw [codePos, if_neg (by omega), if_neg h']

/-- The bits of a word stand at different positions. -/
theorem codePos_ne {j k : Nat} (h : j < k) (hk : k < 266) : codePos j ≠ codePos k := by
  by_cases hkd : k < 256
  · rw [codePos_data hkd, codePos_data (h.trans hkd)]
    exact (dataPos_lt h).ne
  by_cases hkc : k < 265
  · rw [codePos_check (not_lt.1 hkd) hkc]
    by_cases hjd : j < 256
    · rw [codePos_data hjd]
      exact dataPos_ne_two_pow hjd (by omega)
    · rw [codePos_check (not_lt.1 hjd) (by omega)]
      exact fun e => by have := Nat.pow_right_injective (le_refl 2) e; omega
  · rw [codePos_last hk hkc]
    by_cases hjd : j < 256
    · rw [codePos_data hjd]
      have := three_le_dataPos j
      omega
    · rw [codePos_check (not_lt.1 hjd) (by omega)]
      exact (Nat.two_pow_pos _).ne'

/-- The syndrome of a pattern over the first `n` bits. -/
def syndrome (e n : Nat) : Nat := (List.range n).foldl (fun a k => if e.testBit k then a ^^^ codePos k else a) 0

/-- The parity of a pattern over the first `n` bits. -/
def parity (e n : Nat) : Bool := (List.range n).foldl (fun a k => a.xor (e.testBit k)) false

theorem syndrome_succ (e n : Nat) : syndrome e (n + 1) = syndrome e n ^^^ (if e.testBit n then codePos n else 0) := by
  rw [syndrome, foldl_range_succ]
  change (if e.testBit n then syndrome e n ^^^ codePos n else syndrome e n) = _
  split
  · rfl
  · rw [Nat.xor_zero]

theorem parity_succ (e n : Nat) : parity e (n + 1) = (parity e n).xor (e.testBit n) := foldl_range_succ ..

/-- One bit: its position. -/
theorem syndrome_two_pow (j n : Nat) : syndrome (2 ^ j) n = if j < n then codePos j else 0 := by
  induction n with
  | zero => rfl
  | succ n ih =>
    rw [syndrome_succ, ih, testBit_two_pow_eq]
    rcases lt_trichotomy j n with h | h | h
    · simp [h, h.ne', h.trans (Nat.lt_succ_self n)]
    · simp [h]
    · simp [h.ne, show ¬ j < n by omega, show ¬ j < n + 1 by omega]

theorem parity_two_pow (j n : Nat) : parity (2 ^ j) n = decide (j < n) := by
  induction n with
  | zero => rfl
  | succ n ih =>
    rw [parity_succ, ih, testBit_two_pow_eq]
    rcases lt_trichotomy j n with h | h | h
    · simp [h, h.ne', h.trans (Nat.lt_succ_self n)]
    · simp [h]
    · simp [h.ne, show ¬ j < n by omega, show ¬ j < n + 1 by omega]

section TwoBits

variable {j k : Nat} (h : j < k)

include h

/-- Two bits: the sum of their positions. -/
theorem syndrome_two_pows (n : Nat) : syndrome (2 ^ j + 2 ^ k) n = syndrome (2 ^ j) n ^^^ syndrome (2 ^ k) n := by
  induction n with
  | zero => simp only [syndrome, List.range_zero, List.foldl_nil, Nat.xor_self]
  | succ n ih =>
    rw [syndrome_succ, syndrome_succ, syndrome_succ, ih, testBit_two_pows h, testBit_two_pow_eq, testBit_two_pow_eq]
    by_cases hj : n = j
    · have hk : n ≠ k := by omega
      simp only [hj, show j ≠ k from h.ne, decide_true, decide_false, Bool.xor_false, if_true, Bool.false_eq_true, if_false, Nat.xor_zero]
      ac_rfl
    · simp only [hj, decide_false, Bool.false_xor, Bool.false_eq_true, if_false, Nat.xor_zero]
      ac_rfl

theorem parity_two_pows (n : Nat) : parity (2 ^ j + 2 ^ k) n = (parity (2 ^ j) n).xor (parity (2 ^ k) n) := by
  unfold parity
  simp only [testBit_two_pows h, testBit_two_pow_eq]
  exact foldl_xor_xor (fun i => decide (i = j)) (fun i => decide (i = k)) n false false

end TwoBits

section Decoding

variable {e : Nat}

/-- A pattern whose checks agree by position: the data bits of it stay. -/
theorem secded_of_zero (h : syndrome e 266 = 0) : secded e = (some (e % 2 ^ 256), parity e 266) := by
  change (if syndrome e 266 = 0 then _ else _) = _
  exact if_pos h

/-- A pattern of an even number of bits whose positions do not cancel is uncorrectable. -/
theorem secded_of_even (h : syndrome e 266 ≠ 0) (ho : parity e 266 = false) : secded e = (none, false) := by
  change (if syndrome e 266 = 0 then _ else _) = _
  exact (if_neg h).trans (if_pos (.inl ho))

variable (h : syndrome e 266 ≠ 0) (ho : parity e 266 = true) (hle : syndrome e 266 ≤ 265)

include h ho hle

/-- At the position of a data bit, that bit is turned. -/
theorem secded_of_data {k : Nat} (hf : ((List.range 256).find? fun i => dataPos i == syndrome e 266) = some k) :
    secded e = (some (e % 2 ^ 256 ^^^ 2 ^ k), true) := by
  change (if syndrome e 266 = 0 then _ else if parity e 266 = false ∨ 265 < syndrome e 266 then _ else _) = _
  rw [if_neg h, if_neg (by simp only [ho, Bool.true_eq_false, false_or]; exact not_lt.2 hle)]
  change (match (List.range 256).find? fun i => dataPos i == syndrome e 266 with | some k => _ | none => _) = _
  rw [hf]

/-- At the position of a check bit, the data stays. -/
theorem secded_of_check (hf : ((List.range 256).find? fun i => dataPos i == syndrome e 266) = none) :
    secded e = (some (e % 2 ^ 256), true) := by
  change (if syndrome e 266 = 0 then _ else if parity e 266 = false ∨ 265 < syndrome e 266 then _ else _) = _
  rw [if_neg h, if_neg (by simp only [ho, Bool.true_eq_false, false_or]; exact not_lt.2 hle)]
  change (match (List.range 256).find? fun i => dataPos i == syndrome e 266 with | some k => _ | none => _) = _
  rw [hf]

end Decoding

theorem find?_dataPos {k : Nat} (hk : k < 256) : ((List.range 256).find? fun i => dataPos i == dataPos k) = some k := by
  refine (List.find?_range_eq_some (p := fun i => dataPos i == dataPos k)).2 ⟨beq_self_eq_true _, List.mem_range.2 hk, fun i hi => ?_⟩
  rw [Bool.not_eq_true']
  exact beq_false_of_ne (dataPos_lt hi).ne

/-- One wrong bit of the 266 is corrected. -/
theorem secded_two_pow {k : Nat} (hk : k < 266) : secded (2 ^ k) = (some 0, true) := by
  have hs : syndrome (2 ^ k) 266 = codePos k := (syndrome_two_pow k 266).trans (if_pos hk)
  have ho : parity (2 ^ k) 266 = true := (parity_two_pow k 266).trans (decide_eq_true hk)
  by_cases hd : k < 256
  · rw [codePos_data hd] at hs
    rw [secded_of_data (by rw [hs]; have := three_le_dataPos k; omega) ho (hs ▸ dataPos_le hd) (by rw [hs]; exact find?_dataPos hd),
      Nat.mod_eq_of_lt (Nat.pow_lt_pow_right (by decide) hd), Nat.xor_self]
  have hz : 2 ^ k % 2 ^ 256 = 0 := Nat.mod_eq_zero_of_dvd (Nat.pow_dvd_pow 2 (not_lt.1 hd))
  by_cases hc : k < 265
  · rw [codePos_check (not_lt.1 hd) hc] at hs
    have hle : 2 ^ (k - 256) ≤ 2 ^ 8 := Nat.pow_le_pow_right (by decide) (by omega)
    rw [secded_of_check (by rw [hs]; exact (Nat.two_pow_pos _).ne') ho (hs.trans_le (hle.trans (by decide))), hz]
    rw [hs, List.find?_eq_none]
    intro i hi he
    exact dataPos_ne_two_pow (List.mem_range.1 hi) (by omega) (eq_of_beq he)
  · rw [codePos_last hk hc] at hs
    rw [secded_of_zero hs, ho, hz]

/-- Two wrong bits of the 266 are uncorrectable. -/
theorem secded_two_pows {j k : Nat} (h : j < k) (hk : k < 266) : secded (2 ^ j + 2 ^ k) = (none, false) := by
  have hj := h.trans hk
  refine secded_of_even ?_ ?_
  · rw [syndrome_two_pows h, syndrome_two_pow, syndrome_two_pow, if_pos hj, if_pos hk]
    exact fun he => codePos_ne h hk (Nat.xor_eq_zero_iff.1 he)
  · rw [parity_two_pows h, parity_two_pow, parity_two_pow, decide_eq_true hj, decide_eq_true hk]
    rfl

end Sys2Proof.Machine

open Sys2Proof Sys2Proof.Machine

/-- Settles O50: one bit leaves its own position, which decoding turns back; two bits leave the sum of two positions, which is never 0, and an
even parity. -/
theorem secdedCorrectsAndDetects : Obligations.SecdedCorrectsAndDetects :=
  ⟨fun _ hk => secded_two_pow hk, fun _ _ h hk => secded_two_pows h hk⟩

end

section
/-!
The parities of an on-chip block: which rows and columns a wrong bit turns, and what decoding makes of one and of two.
-/

namespace Sys2Proof.Machine

/-! ## Parities of a row and of a column -/

/-- Whether the parity of a row and its ROW bit disagree under a pattern. -/
def rowWrong (rows cols p r : Nat) : Bool :=
  (List.range cols).foldl (fun a c => a.xor (p.testBit (r * cols + c))) (p.testBit (rows * cols + r))

/-- Whether the parity of a column and its COL bit disagree under a pattern. -/
def colWrong (rows cols p c : Nat) : Bool :=
  (List.range rows).foldl (fun a r => a.xor (p.testBit (r * cols + c))) (p.testBit (rows * cols + rows + c))

/-- Along places that do not repeat, a parity meets a single bit once. -/
theorem foldl_xor_single {f : Nat → Nat} (hf : Function.Injective f) (k n : Nat) (a : Bool) :
    (List.range n).foldl (fun x i => x.xor (decide (f i = k))) a = a.xor (decide (∃ i < n, f i = k)) := by
  induction n with
  | zero => simp
  | succ n ih =>
    rw [foldl_range_succ, ih]
    by_cases h : f n = k
    · have hn : ¬ ∃ i < n, f i = k := fun ⟨i, hi, he⟩ => hi.ne (hf (he.trans h.symm))
      have hs : ∃ i < n + 1, f i = k := ⟨n, Nat.lt_succ_self n, h⟩
      simp only [h, hn, hs, decide_false, decide_true, Bool.xor_false]
    · have hs : (∃ i < n + 1, f i = k) ↔ ∃ i < n, f i = k := by
        refine ⟨fun ⟨i, hi, he⟩ => ⟨i, ?_, he⟩, fun ⟨i, hi, he⟩ => ⟨i, hi.trans (Nat.lt_succ_self n), he⟩⟩
        exact lt_of_le_of_ne (Nat.le_of_lt_succ hi) fun e => h (e ▸ he)
      simp only [h, hs, decide_false, Bool.xor_false]

section OneBit

variable {rows cols k : Nat}

theorem exists_row_iff (hc : 0 < cols) {r : Nat} : (∃ c < cols, r * cols + c = k) ↔ r = k / cols := by
  constructor
  · rintro ⟨c, h, rfl⟩
    rw [Nat.mul_comm, Nat.mul_add_div hc, Nat.div_eq_of_lt h, Nat.add_zero]
  · rintro rfl
    exact ⟨k % cols, Nat.mod_lt k hc, Nat.div_add_mod' k cols⟩

theorem exists_col_iff {c : Nat} (hc : c < cols) : (∃ r < rows, r * cols + c = k) ↔ k < rows * cols ∧ c = k % cols := by
  constructor
  · rintro ⟨r, h, rfl⟩
    refine ⟨?_, by rw [Nat.mul_comm, Nat.mul_add_mod, Nat.mod_eq_of_lt hc]⟩
    calc r * cols + c < r * cols + cols := Nat.add_lt_add_left hc _
      _ = (r + 1) * cols := (Nat.succ_mul r cols).symm
      _ ≤ rows * cols := Nat.mul_le_mul_right cols h
  · rintro ⟨h, rfl⟩
    exact ⟨k / cols, Nat.div_lt_of_lt_mul (by rwa [Nat.mul_comm]), Nat.div_add_mod' k cols⟩

theorem rowWrong_two_pow (hc : 0 < cols) (r : Nat) :
    rowWrong rows cols (2 ^ k) r = (decide (rows * cols + r = k)).xor (decide (r = k / cols)) := by
  have := foldl_xor_single (f := fun c => r * cols + c) (fun _ _ h => Nat.add_left_cancel h) k cols (decide (rows * cols + r = k))
  simp only [exists_row_iff hc] at this
  rw [← this]
  simp only [rowWrong, testBit_two_pow_eq]

theorem colWrong_two_pow {c : Nat} (hc : c < cols) :
    colWrong rows cols (2 ^ k) c = (decide (rows * cols + rows + c = k)).xor (decide (k < rows * cols ∧ c = k % cols)) := by
  have hi : Function.Injective fun r => r * cols + c :=
    fun _ _ h => Nat.eq_of_mul_eq_mul_right (Nat.zero_lt_of_lt hc) (Nat.add_right_cancel h)
  have := foldl_xor_single hi k rows (decide (rows * cols + rows + c = k))
  simp only [exists_col_iff hc] at this
  rw [← this]
  simp only [colWrong, testBit_two_pow_eq]

end OneBit

section TwoBits

variable {rows cols j k : Nat} (h : j < k)

include h

theorem rowWrong_two_pows (r : Nat) : rowWrong rows cols (2 ^ j + 2 ^ k) r = (rowWrong rows cols (2 ^ j) r).xor (rowWrong rows cols (2 ^ k) r) := by
  simp only [rowWrong, testBit_two_pows h, testBit_two_pow_eq]
  exact foldl_xor_xor (fun c => decide (r * cols + c = j)) (fun c => decide (r * cols + c = k)) cols _ _

theorem colWrong_two_pows (c : Nat) : colWrong rows cols (2 ^ j + 2 ^ k) c = (colWrong rows cols (2 ^ j) c).xor (colWrong rows cols (2 ^ k) c) := by
  simp only [colWrong, testBit_two_pows h, testBit_two_pow_eq]
  exact foldl_xor_xor (fun r => decide (r * cols + c = j)) (fun r => decide (r * cols + c = k)) rows _ _

end TwoBits

/-! ## Decoding by the wrong rows and columns -/

theorem filter_range_eq_nil {p : Nat → Bool} {n : Nat} (h : ∀ i < n, p i = false) : (List.range n).filter p = [] :=
  List.filter_eq_nil_iff.2 fun i hi => by rw [h i (List.mem_range.1 hi)]; exact Bool.false_ne_true

theorem filter_range_eq_singleton {p : Nat → Bool} {n a : Nat} (ha : a < n) (h : ∀ i < n, p i = decide (i = a)) :
    (List.range n).filter p = [a] := by
  have hf : (List.range n).filter p = (List.range n).filter (· == a) :=
    List.filter_congr fun i hi => (h i (List.mem_range.1 hi)).trans (by rw [Bool.eq_iff_iff, decide_eq_true_iff, beq_iff_eq])
  rw [hf, List.filter_beq, List.nodup_range.count, if_pos (List.mem_range.2 ha)]
  rfl

section Decode

variable {rows cols p : Nat}

theorem gridDecode_row_col {r c : Nat} (hr : (List.range rows).filter (rowWrong rows cols p) = [r])
    (hc : (List.range cols).filter (colWrong rows cols p) = [c]) :
    gridDecode rows cols p = (some (p % 2 ^ (rows * cols) ^^^ 2 ^ (r * cols + c)), true) := by
  unfold rowWrong at hr
  unfold colWrong at hc
  simp only [gridDecode, hr, hc]

theorem gridDecode_row {r : Nat} (hr : (List.range rows).filter (rowWrong rows cols p) = [r])
    (hc : (List.range cols).filter (colWrong rows cols p) = []) : gridDecode rows cols p = (some (p % 2 ^ (rows * cols)), true) := by
  unfold rowWrong at hr
  unfold colWrong at hc
  simp only [gridDecode, hr, hc]

theorem gridDecode_col {c : Nat} (hr : (List.range rows).filter (rowWrong rows cols p) = [])
    (hc : (List.range cols).filter (colWrong rows cols p) = [c]) : gridDecode rows cols p = (some (p % 2 ^ (rows * cols)), true) := by
  unfold rowWrong at hr
  unfold colWrong at hc
  simp only [gridDecode, hr, hc]

/-- Two members of a list, neither of them the other, are two elements of it. -/
theorem exists_cons_cons_of_mem {l : List Nat} {a b : Nat} (ha : a ∈ l) (hb : b ∈ l) (h : a ≠ b) : ∃ x y r, l = x :: y :: r := by
  match l, ha, hb with
  | [_], ha, hb => exact absurd ((List.mem_singleton.1 ha).trans (List.mem_singleton.1 hb).symm) h
  | x :: y :: r, _, _ => exact ⟨x, y, r, rfl⟩

theorem gridDecode_two_rows {a b : Nat} (ha : a < rows) (hb : b < rows) (h : a ≠ b) (hra : rowWrong rows cols p a = true)
    (hrb : rowWrong rows cols p b = true) : gridDecode rows cols p = (none, false) := by
  obtain ⟨x, y, r, hl⟩ := exists_cons_cons_of_mem (List.mem_filter.2 ⟨List.mem_range.2 ha, hra⟩) (List.mem_filter.2 ⟨List.mem_range.2 hb, hrb⟩) h
  unfold rowWrong at hl
  simp only [gridDecode, hl]

theorem gridDecode_two_cols {a b : Nat} (hr : ∀ r < rows, rowWrong rows cols p r = false) (ha : a < cols) (hb : b < cols) (h : a ≠ b)
    (hca : colWrong rows cols p a = true) (hcb : colWrong rows cols p b = true) : gridDecode rows cols p = (none, false) := by
  obtain ⟨x, y, r, hl⟩ := exists_cons_cons_of_mem (List.mem_filter.2 ⟨List.mem_range.2 ha, hca⟩) (List.mem_filter.2 ⟨List.mem_range.2 hb, hcb⟩) h
  have hn := filter_range_eq_nil hr
  unfold rowWrong at hn
  unfold colWrong at hl
  simp only [gridDecode, hl, hn]

end Decode

/-- One wrong bit, of the data or of the checks, is corrected. -/
theorem gridDecode_two_pow {rows cols k : Nat} (hr0 : 0 < rows) (hc0 : 0 < cols) (hk : k < rows * cols + rows + cols) :
    gridDecode rows cols (2 ^ k) = (some 0, true) := by
  have hdiv : rows * cols ≤ k → ∀ r < rows, r ≠ k / cols := fun h r hr e => by
    have := (Nat.le_div_iff_mul_le hc0).2 h
    omega
  by_cases hd : k < rows * cols
  · have hrow : k / cols < rows := Nat.div_lt_of_lt_mul (by rwa [Nat.mul_comm])
    rw [gridDecode_row_col (filter_range_eq_singleton hrow fun r _ => ?_) (filter_range_eq_singleton (Nat.mod_lt k hc0) fun c hc => ?_),
      Nat.mod_eq_of_lt (Nat.pow_lt_pow_right (by decide) hd), Nat.div_add_mod', Nat.xor_self]
    · rw [rowWrong_two_pow hc0, decide_eq_false (by omega), Bool.false_xor]
    · simp only [colWrong_two_pow hc, hd, true_and, show rows * cols + rows + c ≠ k by omega, decide_false, Bool.false_xor]
  have hz : 2 ^ k % 2 ^ (rows * cols) = 0 := Nat.mod_eq_zero_of_dvd (Nat.pow_dvd_pow 2 (not_lt.1 hd))
  by_cases hr : k < rows * cols + rows
  · rw [gridDecode_row (filter_range_eq_singleton (a := k - rows * cols) (by omega) fun r hlt => ?_) (filter_range_eq_nil fun c hc => ?_), hz]
    · rw [rowWrong_two_pow hc0, decide_eq_false (hdiv (not_lt.1 hd) r hlt), Bool.xor_false]
      exact decide_eq_decide.2 (by omega)
    · simp only [colWrong_two_pow hc, hd, false_and, show rows * cols + rows + c ≠ k by omega, decide_false, Bool.false_xor]
  · rw [gridDecode_col (filter_range_eq_nil fun r hlt => ?_) (filter_range_eq_singleton (a := k - (rows * cols + rows)) (by omega) fun c hc => ?_), hz]
    · rw [rowWrong_two_pow hc0, decide_eq_false (hdiv (not_lt.1 hd) r hlt), Bool.xor_false]
      exact decide_eq_false (by omega)
    · simp only [colWrong_two_pow hc, hd, false_and, decide_false, Bool.xor_false]
      exact decide_eq_decide.2 (by omega)

/-- Two wrong data bits are uncorrectable: they turn two rows, or two columns of one row. -/
theorem gridDecode_two_pows {rows cols j k : Nat} (h : j < k) (hk : k < rows * cols) : gridDecode rows cols (2 ^ j + 2 ^ k) = (none, false) := by
  have hj := h.trans hk
  have hc0 : 0 < cols := Nat.pos_of_mul_pos_left (Nat.zero_lt_of_lt hk)
  have hrow : ∀ {i}, i < rows * cols → i / cols < rows := fun hi => Nat.div_lt_of_lt_mul (by rwa [Nat.mul_comm])
  have hrw : ∀ r, rowWrong rows cols (2 ^ j + 2 ^ k) r = (decide (r = j / cols)).xor (decide (r = k / cols)) := fun r => by
    simp only [rowWrong_two_pows h, rowWrong_two_pow hc0, show rows * cols + r ≠ j by omega, show rows * cols + r ≠ k by omega, decide_false,
      Bool.false_xor]
  have hcw : ∀ c < cols, colWrong rows cols (2 ^ j + 2 ^ k) c = (decide (c = j % cols)).xor (decide (c = k % cols)) := fun c hc => by
    simp only [colWrong_two_pows h, colWrong_two_pow hc, hj, hk, true_and, show rows * cols + rows + c ≠ j by omega,
      show rows * cols + rows + c ≠ k by omega, decide_false, Bool.false_xor]
  by_cases he : j / cols = k / cols
  · have hm : j % cols ≠ k % cols := fun hm => h.ne (by rw [← Nat.div_add_mod' j cols, ← Nat.div_add_mod' k cols, he, hm])
    refine gridDecode_two_cols (fun r _ => by rw [hrw, he, Bool.xor_self]) (Nat.mod_lt j hc0) (Nat.mod_lt k hc0) hm ?_ ?_
    · simp only [hcw _ (Nat.mod_lt j hc0), hm, decide_true, decide_false, Bool.xor_false]
    · simp only [hcw _ (Nat.mod_lt k hc0), hm.symm, decide_true, decide_false, Bool.false_xor]
  · refine gridDecode_two_rows (hrow hj) (hrow hk) he ?_ ?_
    · simp only [hrw, he, decide_true, decide_false, Bool.xor_false]
    · simp only [hrw, Ne.symm he, decide_true, decide_false, Bool.false_xor]

/-! ## A read of a protected block -/

theorem logPlace_upsets (s : State) (page : Nat) (v : Word) : (s.logPlace page v).upsets = s.upsets := by
  simp only [State.logPlace]
  split
  · rfl
  · simp only [State.setReg_upsets]

theorem logCorrection_upsets (s : State) (page array index : Nat) : (s.logCorrection page array index).upsets = s.upsets := by
  simp only [State.logCorrection]
  split_ifs
  · simp only [State.raise_upsets, logPlace_upsets, State.setReg_upsets]
  · simp only [logPlace_upsets, State.setReg_upsets]

section Read

variable {s : State} {page array index rows cols : Nat}

/-- A read logs what it corrects and leaves the stored pattern. -/
theorem readProt_upsets : (s.readProt page array index rows cols).2.upsets = s.upsets := by
  simp only [State.readProt]
  split
  · rfl
  · split
    · exact logCorrection_upsets ..
    · rfl

theorem readProt_fst_of_corrected {p d : Nat} (hp : p ≠ 0) (hu : s.upsets.get (fun _ => 0) (upKey page array index) = p)
    (hg : gridDecode rows cols p = (some d, true)) : (s.readProt page array index rows cols).1 = some d := by
  simp only [State.readProt, hu, hp, if_false, hg]

end Read

end Sys2Proof.Machine

open Sys2Proof Sys2Proof.Machine

/-- Settles O49: one bit turns one row or one column or one of each; two data bits turn two rows, or two columns of one row. -/
theorem gridCorrectsOnDelivery : Obligations.GridCorrectsOnDelivery :=
  ⟨fun _ _ _ hr hc hk => gridDecode_two_pow hr hc hk, fun _ _ _ _ h hk => congrArg Prod.fst (gridDecode_two_pows h hk),
    fun _ _ _ _ _ _ => ⟨readProt_upsets, fun _ hr hc hk hu =>
      readProt_fst_of_corrected (Nat.two_pow_pos _).ne' hu (gridDecode_two_pow hr hc hk)⟩⟩

end

section
/-!
A line of DRAM after a write: the bytes of a sparse memory after a run of them is stored, and what a read makes of them.
-/

namespace Sys2Proof.Machine

/-! ## Runs of bytes in a sparse memory -/

section Bytes

variable {m : SMap Byte} (h : SMap.wf (fun _ => (0 : Byte)) m = true)

include h

theorem byteAt_storeBytes_outside {a i : Nat} {bs : List Byte} (hi : i < a ∨ a + bs.length ≤ i) : byteAt (storeBytes m a bs) i = byteAt m i := by
  induction bs generalizing m a with
  | nil => rfl
  | cons b bs ih =>
    rw [List.length_cons] at hi
    rw [storeBytes, ih (SMap.wf_set h) (by omega)]
    exact SMap.get_set_ne h (by omega)

theorem byteAt_storeBytes {a k : Nat} {bs : List Byte} (hk : k < bs.length) : byteAt (storeBytes m a bs) (a + k) = bs[k] := by
  induction bs generalizing m a k with
  | nil => exact absurd hk (Nat.not_lt_zero _)
  | cons b bs ih =>
    cases k with
    | zero =>
      rw [storeBytes, byteAt_storeBytes_outside (SMap.wf_set h) (.inl (by omega))]
      exact SMap.get_set_self h
    | succ k =>
      rw [storeBytes, show a + (k + 1) = a + 1 + k by omega, ih (SMap.wf_set h) (Nat.lt_of_succ_lt_succ hk)]
      rfl

theorem loadBytes_storeBytes (a : Nat) (bs : List Byte) : loadBytes (storeBytes m a bs) a bs.length = bs := by
  refine List.ext_getElem (by rw [loadBytes, List.length_map, List.length_range]) fun k _ hk => ?_
  simp only [loadBytes, List.getElem_map, List.getElem_range]
  exact byteAt_storeBytes h hk

theorem loadBytes_storeBytes_outside {a b n : Nat} {bs : List Byte} (hd : b + n ≤ a ∨ a + bs.length ≤ b) :
    loadBytes (storeBytes m a bs) b n = loadBytes m b n := by
  refine List.map_congr_left fun k hk => byteAt_storeBytes_outside h ?_
  have := List.mem_range.1 hk
  omega

end Bytes

theorem length_leBytes (n v : Nat) : (leBytes n v).length = n := by
  induction n generalizing v with
  | zero => rfl
  | succ n ih => rw [leBytes, List.length_cons, ih]

theorem leNat_leBytes (n v : Nat) : leNat (leBytes n v) = v % 256 ^ n := by
  induction n generalizing v with
  | zero => rw [pow_zero, Nat.mod_one]; rfl
  | succ n ih => rw [pow_succ', Nat.mod_mul, leBytes, leNat, ih, BitVec.toNat_ofNat]

theorem bytesLine_lineBytes (l : Line) : bytesLine (lineBytes l) = l := by
  have hl : l.toNat < 256 ^ 128 := l.isLt.trans_eq (pow_mul 2 8 128)
  rw [bytesLine, lineBytes, leNat_leBytes, Nat.mod_eq_of_lt hl, BitVec.ofNat_toNat, BitVec.setWidth_eq]

theorem length_lineBytes (l : Line) : (lineBytes l).length = 128 := length_leBytes ..

/-! ## A line as it is read -/

/-- What a read delivers of a line: its data and poison under the pattern of its upsets. -/
def deliveredLine (e : Nat) (raw : Line) (pois : Bool) : Line × Bool :=
  if e = 0 then (raw, pois)
  else
    (raw ^^^ BitVec.ofNat 1024 ((List.range 4).foldl (fun a w => a + ((secded (e / 2 ^ (266 * w) % 2 ^ 266)).1.getD 0) * 2 ^ (256 * w)) 0),
      pois || (List.range 4).any fun w => (secded (e / 2 ^ (266 * w) % 2 ^ 266)).1.isNone)

theorem dramRead_fst (s : State) (n : Nat) :
    (s.dramRead n).1 = deliveredLine (s.upsets.get (fun _ => 0) (lineKey n)) (s.dram.raw n) (s.dram.pois.contains n) := by
  unfold State.dramRead deliveredLine
  simp only [State.count64_dram, State.count64_upsets]
  split
  · rfl
  · rfl

section Write

variable {s : State} {n : Nat} {l : Line} {p : Bool}

theorem dramWrite_mem : (s.dramWrite n l p).dram.mem = storeBytes s.dram.mem (128 * n) (lineBytes l) := by
  simp only [State.dramWrite, State.count64_dram]

theorem dramWrite_pois : (s.dramWrite n l p).dram.pois =
    if p then (if s.dram.pois.contains n then s.dram.pois else n :: s.dram.pois) else s.dram.pois.filter (· != n) := by
  simp only [State.dramWrite, State.count64_dram]

theorem dramWrite_upsets : (s.dramWrite n l p).upsets = s.upsets.set (fun _ => 0) (lineKey n) 0 := by
  simp only [State.dramWrite, State.count64_upsets]

theorem dramWrite_pois_same : (s.dramWrite n l p).dram.pois.contains n = p := by
  rw [dramWrite_pois]
  cases p with
  | true =>
    by_cases h : s.dram.pois.contains n = true
    · simp only [h, if_true]
    · simp only [h, if_true, Bool.false_eq_true, if_false, List.contains_cons, beq_self_eq_true, Bool.true_or]
  | false => simp

theorem dramWrite_pois_other {m : Nat} (h : m ≠ n) : (s.dramWrite n l p).dram.pois.contains m = s.dram.pois.contains m := by
  have hb : (m == n) = false := beq_false_of_ne h
  rw [dramWrite_pois]
  cases p with
  | true =>
    simp only [if_true]
    split
    · rfl
    · rw [List.contains_cons, hb, Bool.false_or]
  | false =>
    rw [Bool.eq_iff_iff]
    simp [h]

/-- Lines of the memory have keys of their own. -/
theorem lineKey_inj {m : Nat} (hn : n < lineCount) (hm : m < lineCount) (h : lineKey m = lineKey n) : m = n := by
  unfold lineKey upKey at h
  change n < 125829120 at hn
  change m < 125829120 at hm
  omega

theorem dramRead_dramWrite_same (hm : SMap.wf (fun _ => (0 : Byte)) s.dram.mem = true) (hu : SMap.wf (fun _ => (0 : Nat)) s.upsets = true) :
    ((s.dramWrite n l p).dramRead n).1 = (l, p) := by
  have hraw : (s.dramWrite n l p).dram.raw n = l := by
    rw [Dram.raw, dramWrite_mem, ← length_lineBytes l, loadBytes_storeBytes hm, bytesLine_lineBytes]
  rw [dramRead_fst, hraw, dramWrite_pois_same, dramWrite_upsets, SMap.get_set_self hu]
  exact if_pos rfl

theorem dramRead_dramWrite_other {m : Nat} (hm : SMap.wf (fun _ => (0 : Byte)) s.dram.mem = true)
    (hu : SMap.wf (fun _ => (0 : Nat)) s.upsets = true) (hn : n < lineCount) (hl : m < lineCount) (h : m ≠ n) :
    ((s.dramWrite n l p).dramRead m).1 = (s.dramRead m).1 := by
  have hraw : (s.dramWrite n l p).dram.raw m = s.dram.raw m := by
    rw [Dram.raw, dramWrite_mem, loadBytes_storeBytes_outside hm (by rw [length_lineBytes]; omega), Dram.raw]
  rw [dramRead_fst, dramRead_fst, hraw, dramWrite_pois_other h, dramWrite_upsets,
    SMap.get_set_ne hu fun he => h (lineKey_inj hn hl he)]

end Write

end Sys2Proof.Machine

open Sys2Proof Sys2Proof.Machine

/-- Settles O51: the bytes of the line are stored whole, its upsets are cleared, and the bytes, the poison and the upsets of another line stand
elsewhere. -/
theorem dramReadsBack : Obligations.DramReadsBack :=
  ⟨fun _ _ _ _ hm hu => dramRead_dramWrite_same hm hu, fun _ _ _ _ _ hm hu hn hl h => dramRead_dramWrite_other hm hu hn hl h⟩

end

section
/-!
The field die: its inputs, its timers, its power, and the messages that reach it. While it is powered each of its commands acts (`onField`); a
message in sequence is acted on once (`fieldReceive`).
-/

namespace Sys2Proof.Machine

variable {s : State}

theorem onField_of_powered (h : s.field.powered = true) (g : State → State) : onField s g = .next (g s) := if_pos h

/-! ## Inputs (R384 to R386, R393) -/

theorem exec_discreteInputChange {n : Nat} {level : Bool} (h : s.field.powered = true) (hn : n < 4) (hl : s.field.levels.getD n false ≠ level)
    (time : BitVec 64) : exec (.discreteInputChange n level time) s = .next
      ((if (mByte (s.field.param (0x400 + n)) 2).testBit (if level != (mByte (s.field.param (0x400 + n)) 3).testBit 0 then 0 else 1) then
        (s.modField fun f => { f with levels := f.levels.set n level }).record time n
          (level != (mByte (s.field.param (0x400 + n)) 3).testBit 0).toNat 0
        else s.modField fun f => { f with levels := f.levels.set n level }).fire (BitVec.ofNat 32 (2 ^ n))) := by
  change execDiscreteInputChange n level time s = _
  refine if_neg ?_
  simp only [h, hn.not_ge, beq_false_of_ne hl, decide_false, Bool.not_true, Bool.or_self, Bool.false_eq_true, not_false_eq_true]

theorem exec_speedPulse {w : Nat} (h : s.field.powered = true) (hw : fld (s.field.param 0x410) 2 2 ≤ w) :
    exec (.speedPulse w) s = .next ((s.modField fun f => { f with pulses := f.pulses + 1 }).fire 0x400) := by
  refine if_neg ?_
  simp only [h, hw.not_gt, decide_false, Bool.not_true, Bool.or_self, Bool.false_eq_true, not_false_eq_true]

theorem exec_speedSample (h : s.field.powered = true) : exec .speedSample s = .next
    ((if (s.field.pulses != 0 || s.field.pulsed) = true then s.record s.field.time 4 0 s.field.pulses else s).modField
      fun f => { f with pulsed := f.pulses != 0, pulses := 0 }) := by
  refine if_neg ?_
  simp only [h, Bool.not_true, Bool.false_eq_true, not_false_eq_true]

/-- A frame that a powered die takes from a bus: the bus is on, and is no classic one when the frame is FD; the filters pass it. -/
structure TakesCan (s : State) (bus : Nat) (id : Word) (fd : Bool) : Prop where
  powered : s.field.powered = true
  bus_lt : bus < 4
  on : mByte (s.field.param (0x100 + bus)) 5 ≠ 0
  rate : fd = true → zeros (s.field.param (0x100 + bus)) 2 2 = false
  passes : s.field.canPasses bus id = true

section Can

variable {bus : Nat} {ident : Word} {brs esi : Bool} {dlc : Nat} {data : List Byte}

theorem exec_canFrameReceived_fd (h : TakesCan s bus (ident &&& 0x3FFFFFFF) true) {head : Nat → List Byte} {d : List Byte} {n : Nat}
    (hn : n = canLen true (min dlc 15))
    (hh : head = fun p => leBytes 8 s.field.time.toNat ++ wordBytes (ident &&& 0x3FFFFFFF) ++ leBytes 1 (bus + 4 * brs.toNat + 8 * esi.toNat) ++
      leBytes 1 (min dlc 15) ++ leBytes 1 p ++ [0])
    (hd : d = sub data 0 n) :
    exec (.canFrameReceived bus ident true brs esi dlc data) s = .next
      ((if n ≤ 36 then s.produce [(2, 1, head 0 ++ d)] else
        s.produce [(2, 1, head 0 ++ d.take 36), (2, 1, head 1 ++ d.drop 36)]).fire (BitVec.ofNat 32 (2 ^ (4 + bus)))) := by
  subst hn hh hd
  refine if_neg ?_
  simp only [if_true, h.powered, h.bus_lt.not_ge, beq_false_of_ne h.on, h.rate rfl, h.passes, decide_false, Bool.not_true, Bool.and_false,
    Bool.or_self, Bool.false_eq_true, not_false_eq_true]

section Classic

variable (h : TakesCan s bus (ident &&& 0x7FFFFFFF) false)

include h

theorem exec_canFrameReceived_alone (hj : s.field.joins = none) :
    exec (.canFrameReceived bus ident false brs esi dlc data) s = .next
      ((s.produce [(2, 0, leBytes 8 s.field.time.toNat ++ canRec 0 bus (min dlc 8) (ident &&& 0x7FFFFFFF) data)]).fire
        (BitVec.ofNat 32 (2 ^ (4 + bus)))) := by
  change execCanFrameReceived bus ident false brs esi dlc data s = _
  simp only [execCanFrameReceived, Bool.false_eq_true, if_false, h.powered, h.bus_lt.not_ge, beq_false_of_ne h.on, h.passes, decide_false,
    Bool.not_true, Bool.false_and, Bool.or_self, hj]

theorem exec_canFrameReceived_joined {e : RingEntry} (hj : s.field.joins = some e) :
    exec (.canFrameReceived bus ident false brs esi dlc data) s = .next
      ((s.modField fun f => { f with ring := f.ring.dropLast ++ [{ e with
        msg := mkMsg 2 e.seq.toNat 0 0 (mBody e.msg ++ canRec (s.field.time - BitVec.ofNat 64 (fld (mBody e.msg) 0 8)).toNat bus (min dlc 8)
          (ident &&& 0x7FFFFFFF) data) }] }).fire (BitVec.ofNat 32 (2 ^ (4 + bus)))) := by
  change execCanFrameReceived bus ident false brs esi dlc data s = _
  simp only [execCanFrameReceived, Bool.false_eq_true, if_false, h.powered, h.bus_lt.not_ge, beq_false_of_ne h.on, h.passes, decide_false,
    Bool.not_true, Bool.false_and, Bool.or_self, hj]

end Classic

end Can

theorem exec_canBusStateChange {bus st : Nat} (h : s.field.powered = true) (hb : bus < 4) (hs : st ≤ 2) (hne : s.field.busSt.getD bus 0 ≠ st)
    (tec rec_ : Nat) : exec (.canBusStateChange bus st tec rec_) s = .next
      ((s.modField fun f => { f with busSt := f.busSt.set bus st }).record s.field.time 7 st (tec % 256 + rec_ % 256 * 256 + bus * 65536)) := by
  refine if_neg ?_
  simp only [h, hb.not_ge, hs.not_gt, beq_false_of_ne hne, decide_false, Bool.not_true, Bool.or_self, Bool.false_eq_true, not_false_eq_true]

/-- The fragment at a place of a captured frame. -/
def ethPart (s : State) (port k cap : Nat) (frame : List Byte) (p : Nat) : Nat × Nat × List Byte :=
  (3, (p + 1 == (cap + 35) / 36).toNat, (leBytes 8 s.field.time.toNat ++ leBytes 2 (s.field.frames.getD port 0).toNat ++
    leBytes 2 cap ++ leBytes 1 (port + 2 * k) ++ leBytes 1 p ++ leBytes 2 (36 * p) ++ (frame.take cap).drop (36 * p)).take
      (16 + min 36 (cap - 36 * p)))

theorem exec_ethFrameReceived {port k cap : Nat} {frame : List Byte} (h : s.field.powered = true) (hp : port < 2)
    (ho : mByte (s.field.param (0x280 + port)) 0 ≠ 0) (hlo : 14 ≤ frame.length) (hhi : frame.length ≤ 1518)
    (hk : (List.range 16).find? (fun k => ethMatches (s.field.param (0x300 + 16 * port + k)) frame) = some k)
    (hc : cap = min frame.length (fld (s.field.param (0x300 + 16 * port + k)) 12 2)) :
    exec (.ethFrameReceived port frame) s = .next
      (((s.modField fun f => { f with frames := f.frames.set port (s.field.frames.getD port 0 + 1) }).produce
        ((List.range ((cap + 35) / 36)).map (ethPart s port k cap frame))).fire (BitVec.ofNat 32 (2 ^ (8 + port)))) := by
  subst hc
  change execEthFrameReceived port frame s = _
  simp only [execEthFrameReceived, h, hp.not_ge, beq_false_of_ne ho, hlo.not_gt, hhi.not_gt, or_self, decide_false, Bool.not_true, Bool.or_self,
    Bool.false_eq_true, if_false, hk]
  rfl

theorem exec_ethernetLinkChange {port : Nat} {up : Bool} (h : s.field.powered = true) (hp : port < 2) (hu : s.field.ethUp.getD port false ≠ up) :
    exec (.ethernetLinkChange port up) s = .next
      ((s.modField fun f => { f with ethUp := f.ethUp.set port up }).record s.field.time 8 up.toNat port) := by
  refine if_neg ?_
  simp only [h, hp.not_ge, beq_false_of_ne hu, decide_false, Bool.not_true, Bool.or_self, Bool.false_eq_true, not_false_eq_true]

/-! ## Timers and power -/

section Powered

variable (h : s.field.powered = true)

include h

theorem exec_rtcAlarm (ha : s.field.mram.policy.alarm ≠ 0) (ht : s.field.mram.policy.alarm.toNat ≤ s.field.time.toNat) :
    exec .rtcAlarm s = .next (s.fire 0x1000) :=
  (onField_of_powered h _).trans (congrArg _ (if_pos ⟨ha, ht⟩))

theorem exec_slewComplete (hs : s.field.slew = some 0) :
    exec .slewComplete s = .next (s.modField fun f => { f with slew := none, slewAcc := 0 }) :=
  (onField_of_powered h _).trans (congrArg _ (if_pos hs))

theorem exec_wakeRepeat (hr : s.field.repeats = true) (hl : s.field.linkUp = false) :
    exec .wakeRepeat s = .next (s.emit (.toHost s.field.wakeMsg)) :=
  (onField_of_powered h _).trans (congrArg _ (if_pos ⟨hr, hl⟩))

theorem exec_wakeOutputTimeout_again (hr : s.field.repeats = true) (hl : s.field.linkUp = false) :
    exec (.wakeOutputTimeout true) s = .next (s.wakeOutputs s.field.mram.policy.outmask true) :=
  (onField_of_powered h _).trans (congrArg _ (if_pos ⟨hr, hl⟩))

theorem exec_ringEntrySend {e : RingEntry} (hl : s.field.linkUp = true) (he : (s.field.ring.find? fun e => e.seq == s.field.sendAt) = some e)
    {m : List Byte} (hm : m = if !e.bad && crc32c (e.msg.take 60) == leWord (sub e.msg 60 4) then e.msg
      else mkMsg 1 e.seq.toNat 0 0 (eventBody s.field.time 9 0 (mType e.msg))) :
    exec .ringEntrySend s = .next ((s.modField fun f => { f with sendAt := f.sendAt + 1 }).emit
      (.toHost (if !seqLe s.field.resent s.field.sendAt then resent m else m))) := by
  subst hm
  change execRingEntrySend s = _
  simp only [execRingEntrySend, onField_of_powered h, hl, Bool.not_true, Bool.false_eq_true, if_false, he]

end Powered

theorem exec_vf3p3Loss (h : s.field.powered = true) : exec .vf3p3Loss s = .next
    ((s.modField fun f => { f with powered := false, tvalid := false, ring := [], outputs := [false, false] }).frontDown.modFrl
      fun f => { f with legal := f.legal.map fun x => (x.1, x.2.1, false) }) :=
  if_neg (by rw [h]; exact Bool.false_ne_true)

theorem exec_fieldColdStart (h : s.field.powered = false) {u : State} (hu : u = s.modField fun f => { f with
      powered := true, fell := false, time := f.mram.time, tvalid := false, slew := none, slewAcc := 0, quality := 0, lastSet := none
      ring := [], seq := f.mram.reserve, sendAt := f.mram.reserve, resent := f.mram.reserve, tokens := 4096, tokAcc := 0, fired := 0
      repeats := false, outputs := [false, false], mram := { f.mram with cold := sat32 (f.mram.cold + 1) }
      counts := { rateDrops := 0, fullDrops := 0, rxErr := 0, fcsErr := 0, canErr := 0, corr := 0, cold := 0 }
      frames := [0, 0], pulses := 0, pulsed := false, expect := none, acks := [], tx := [], sentAt := [], linkUp := false }) :
    exec .fieldColdStart s = .next (u.record u.field.time 6 0 u.field.mram.cold).syncFlags := by
  subst hu
  exact if_neg (by rw [h]; exact Bool.false_ne_true)

end Sys2Proof.Machine

open Sys2Proof Sys2Proof.Machine

/-- Settles O34: a powered die takes each input that its parameters let through, and its timers act. -/
theorem fieldInputCommands : Obligations.FieldInputCommands := by
  refine ⟨?_, fun s w h hw => ⟨_, exec_speedPulse h hw, rfl⟩, fun s h => ⟨_, exec_speedSample h, rfl⟩, ?_, ?_, ?_,
    fun s bus st tec rec_ h hb hs hne => ⟨_, exec_canBusStateChange h hb hs hne tec rec_, rfl⟩, ?_,
    fun s port up h hp hu => ⟨_, exec_ethernetLinkChange h hp hu, rfl⟩,
    fun s n h => ⟨_, if_pos h, rfl⟩, fun s h => ⟨_, if_pos h, rfl⟩,
    fun s mv temp h => ⟨_, if_pos h, rfl⟩, fun s h => ⟨_, if_pos h, rfl⟩,
    fun s h ha ht => ⟨_, exec_rtcAlarm h ha ht, rfl⟩, fun s h hs => ⟨_, exec_slewComplete h hs, rfl⟩,
    fun s h hr hl => ⟨_, exec_wakeRepeat h hr hl, rfl⟩, fun s h => ⟨_, if_pos h, rfl⟩,
    fun s h hr hl => ⟨_, exec_wakeOutputTimeout_again h hr hl, rfl⟩, fun s e m h hl he hm => ⟨_, exec_ringEntrySend h hl he hm, rfl⟩,
    fun s u h hu => ⟨_, exec_fieldColdStart h hu, rfl⟩, fun s h => ⟨_, exec_vf3p3Loss h, rfl⟩⟩
  · rintro s n level time p u h hn hl rfl rfl
    exact ⟨_, exec_discreteInputChange h hn hl time, rfl⟩
  · rintro s bus ident brs esi dlc data id time head d n h hb ho hz rfl hp rfl hn hh hd
    exact ⟨_, exec_canFrameReceived_fd ⟨h, hb, ho, fun _ => hz, hp⟩ hn hh hd, rfl⟩
  · rintro s bus ident brs esi dlc data id time h hb ho rfl hp rfl hj
    exact ⟨_, exec_canFrameReceived_alone ⟨h, hb, ho, nofun, hp⟩ hj, rfl⟩
  · rintro s bus ident brs esi dlc data id e ms h hb ho rfl hp hj rfl
    exact ⟨_, exec_canFrameReceived_joined ⟨h, hb, ho, nofun, hp⟩ hj, rfl⟩
  · rintro s port frame k cap parts h hp ho hlo hhi hk hc rfl
    exact ⟨_, exec_ethFrameReceived h hp ho hlo hhi hk hc, ethPart s port k cap frame, fun _ => rfl, rfl⟩

end

section
/-!
Messages of the Front link at the field die: what is in sequence acts once and is answered, and what has been acted on has its answer repeated.
-/

namespace Sys2Proof.Machine

/-! ## A message that the die takes -/

/-- A message without fault that reaches a powered die over the link. -/
structure ReachesField (s : State) (msg : List Byte) : Prop where
  powered : s.field.powered = true
  linkUp : s.field.linkUp = true
  sound : msgFault false msg = none

section Receive

variable {s : State} {msg : List Byte} (h : ReachesField s msg)

include h

theorem fieldReceive_of_answer (act : State → State × Option Nat) (hq : mSeq msg = s.field.expect.getD (mSeq msg)) {u : State} {r : Nat}
    (ha : act (s.modField fun f => { f with expect := some (mSeq msg + 1) }) = (u, some r)) :
    s.fieldReceive msg act = u.fieldAck (mSeq msg) r := by
  simp only [State.fieldReceive, h.powered, h.linkUp, h.sound, Bool.not_true, Bool.or_self, Bool.false_eq_true, if_false, Option.isSome_none, ← hq,
    if_true, ha]

theorem fieldReceive_of_silence (act : State → State × Option Nat) (hq : mSeq msg = s.field.expect.getD (mSeq msg)) {u : State}
    (ha : act (s.modField fun f => { f with expect := some (mSeq msg + 1) }) = (u, none)) : s.fieldReceive msg act = u := by
  simp only [State.fieldReceive, h.powered, h.linkUp, h.sound, Bool.not_true, Bool.or_self, Bool.false_eq_true, if_false, Option.isSome_none, ← hq,
    if_true, ha]

/-- What has been acted on is not acted on again: its answer is repeated. -/
theorem fieldReceive_of_duplicate (act : State → State × Option Nat) {e : BitVec 32} {a : BitVec 32 × Nat} (he : s.field.expect = some e)
    (hne : mSeq msg ≠ e) (hle : seqLe (mSeq msg) e = true) (ha : s.field.acks.find? (fun x => x.1 == mSeq msg) = some a) :
    s.fieldReceive msg act = s.emit (.toHost (mkMsg 7 0 0 0 (leBytes 4 (mSeq msg).toNat ++ leBytes 1 a.2 ++ [0, 0, 0]))) := by
  simp only [State.fieldReceive, h.powered, h.linkUp, h.sound, he, hne, hle, ha, Bool.not_true, Bool.or_self, Bool.false_eq_true, if_false,
    if_true, Option.isSome_none, Option.getD_some]

end Receive

/-! ## The rows of the types -/

section Rows

variable {s : State} {msg : List Byte}

theorem rowTakes_of_type {toHost : Bool} {ty : Nat} (h : mType msg = ty) : rowTakes toHost ty msg = true := by
  rw [rowTakes, h, beq_self_eq_true, Bool.true_or]

theorem exec_config (ht : mType msg = 0x81) : exec (.config msg) s = .next (s.fieldReceive msg fun s => s.config (mBody msg)) :=
  if_pos (rowTakes_of_type ht)

theorem exec_timeSet (ht : mType msg = 0x82) : exec (.timeSet msg) s = .next
    (s.fieldReceive msg fun s => s.timeSet (BitVec.ofNat 64 (fld (mBody msg) 0 8)) (mByte (mBody msg) 8)) :=
  if_pos (rowTakes_of_type ht)

theorem exec_wakePolicy (ht : mType msg = 0x83) : exec (.wakePolicy msg) s = .next
    (s.fieldReceive msg fun s => (s.modField fun f => { f with mram := { f.mram with policy :=
      { sources := leWord ((mBody msg).take 4), pct := mByte (mBody msg) 4, outmask := mByte (mBody msg) 5,
        alarm := BitVec.ofNat 64 (fld (mBody msg) 8 8) } } }, some 0)) :=
  if_pos (rowTakes_of_type ht)

theorem exec_txCan (ht : mType msg = 0x84) : exec (.txCan msg) s = .next (s.fieldReceive msg fun s => s.txCan (mSeq msg) (mBody msg)) :=
  if_pos (rowTakes_of_type ht)

theorem exec_fieldImage (ht : mType msg = 0x85) (hf : mFlag msg 1 = false) :
    exec (.fieldImage msg) s = .next (s.fieldReceive msg fun s => s.fieldSegment msg) :=
  if_pos (by rw [rowTakes_of_type ht, hf]; rfl)

theorem exec_fieldImageActivate (ht : mType msg = 0x85) (hf : mFlag msg 1 = true) (starts : Bool) :
    exec (.fieldImageActivate msg starts) s = .next (s.fieldReceive msg fun s => s.activatePatch starts) :=
  if_pos (by rw [ht, hf]; rfl)

theorem exec_hostAck (h : ReachesField s msg) (ht : mType msg = 0x86) {a : BitVec 32} {u v : State} (ha : a = leWord ((mBody msg).take 4))
    (hu : u = if seqLe s.field.sentTo a = true then s.rxErr
      else s.modField fun f => { f with ring := f.ring.filter fun e => !seqLe e.seq a })
    (hv : v = u.modField fun f => f.sendFrom (if mFlag msg 0 = true then leWord (sub (mBody msg) 4 4) else f.sendAt)) :
    exec (.hostAck msg) s = .next (if mFlag msg 1 = true then (v.modField fun f => { f with sendAt := v.field.oldest, resent := f.seq }).emit
      (.toHost (mkMsg 7 0 0 2 (leBytes 4 v.field.oldest.toNat ++ [0, 0, 0, 0]))) else v) := by
  subst ha hu hv
  change execHostAck msg s = _
  simp only [execHostAck, h.powered, h.linkUp, h.sound, rowTakes_of_type ht, Bool.not_true, Bool.or_self, Bool.false_eq_true, if_false,
    Option.isSome_none]
  split
  · rfl
  · rfl

end Rows

/-! ## What the die does by itself -/

section Powered

variable {s : State} (h : s.field.powered = true)

include h

theorem exec_canTransmitDone {x : CanTx} {rest : List CanTx} (hx : s.field.tx = x :: rest) (ok : Bool) :
    exec (.canTransmitDone ok) s = .next
      ((if ok then ((s.modField fun f => { f with tx := rest }).modField fun f => { f with sentAt := f.sentAt ++ [(x.entry, f.time)] }).emit
        (.can x.bus x.ident x.ctl x.dlc x.data) else s.modField fun f => { f with tx := rest }).fieldAck x.seq (if ok then 0 else 6)) := by
  change execCanTransmitDone ok s = _
  simp only [execCanTransmitDone, onField_of_powered h, hx]

theorem exec_fieldImageVerified (hp : s.field.spare.state = 2) (ok : Bool) (version : Word) :
    exec (.fieldImageVerified ok version) s = .next
      ((s.modField fun f => f.setSpare { s.field.spare with state := if ok then 3 else 0, version := if ok then version else 0
        }).syncFlags.fieldAck s.field.imgSeq (if ok then 0 else 8)) := by
  change execFieldImageVerified ok version s = _
  simp only [execFieldImageVerified, onField_of_powered h, hp, not_true, ne_eq, if_false]
  have hi (p : Patch) : (s.modField fun f => f.setSpare p).field.imgSeq = s.field.imgSeq := rfl
  simp only [hi]

end Powered

/-- A locked parameter is refused and nothing changes (R392). -/
theorem config_of_locked {s : State} {b : List Byte} (hlo : 0x600 ≤ fld b 0 2) (hhi : fld b 0 2 ≤ 0x6FF) (hl : s.field.mram.lock = true) :
    s.config b = (s, some 3) :=
  if_pos ⟨hlo, hhi, hl⟩

end Sys2Proof.Machine

open Sys2Proof Sys2Proof.Machine

/-- Settles O35: each row takes the messages of its type, and a message in sequence acts with its answer. -/
theorem fieldMessageCommands : Obligations.FieldMessageCommands := by
  refine ⟨?_, ?_, ?_, ?_, ?_, ?_, ?_, ?_, ?_⟩
  · intro s msg u r hp hl hm ht hq ha
    exact ⟨_, exec_config ht, fieldReceive_of_answer ⟨hp, hl, hm⟩ _ hq ha⟩
  · intro s msg u r hp hl hm ht hq ha
    exact ⟨_, exec_timeSet ht, fieldReceive_of_answer ⟨hp, hl, hm⟩ _ hq ha⟩
  · rintro s msg b hp hl hm ht hq rfl
    exact ⟨_, exec_wakePolicy ht, _, rfl, fieldReceive_of_answer ⟨hp, hl, hm⟩ _ hq rfl⟩
  · intro s msg u r hp hl hm ht hq ha
    cases r with
    | none => exact ⟨_, exec_txCan ht, fieldReceive_of_silence ⟨hp, hl, hm⟩ _ hq ha⟩
    | some r => exact ⟨_, exec_txCan ht, fieldReceive_of_answer ⟨hp, hl, hm⟩ _ hq ha⟩
  · rintro s ok x rest u hp hx rfl
    exact ⟨_, exec_canTransmitDone hp hx ok, rfl⟩
  · intro s msg u r hp hl hm ht hf hq ha
    cases r with
    | none => exact ⟨_, exec_fieldImage ht hf, fieldReceive_of_silence ⟨hp, hl, hm⟩ _ hq ha⟩
    | some r => exact ⟨_, exec_fieldImage ht hf, fieldReceive_of_answer ⟨hp, hl, hm⟩ _ hq ha⟩
  · rintro s ok version p hp rfl hs
    exact ⟨_, exec_fieldImageVerified hp hs ok version, rfl⟩
  · intro s msg starts u r hp hl hm ht hf hq ha
    exact ⟨_, exec_fieldImageActivate ht hf starts, fieldReceive_of_answer ⟨hp, hl, hm⟩ _ hq ha⟩
  · intro s msg a u v hp hl hm ht ha hu hv
    exact ⟨_, exec_hostAck ⟨hp, hl, hm⟩ ht ha hu hv, rfl⟩

/-- Settles O56: the locked numbers are refused before anything else is looked at. -/
theorem lockedParametersStay : Obligations.LockedParametersStay := by
  intro s msg hp hl hm ht hq hlo hhi hlock
  have hr := fieldReceive_of_answer ⟨hp, hl, hm⟩ (fun s => s.config (mBody msg)) hq (config_of_locked hlo hhi hlock)
  exact ⟨_, exec_config ht, hr, (congrArg (fun t : State => t.field.mram) hr).trans rfl⟩

/-- Settles O57: a number before the expected one finds its answer among the last eight. -/
theorem duplicateMessageNotRepeated : Obligations.DuplicateMessageNotRepeated := by
  refine ⟨?_, ?_⟩
  · intro s msg e a hp hl hm he hne hle ha ht
    exact ⟨_, exec_config ht, fieldReceive_of_duplicate ⟨hp, hl, hm⟩ _ he hne hle ha⟩
  · intro s msg e a hp hl hm he hne hle ha ht
    exact ⟨_, exec_timeSet ht, fieldReceive_of_duplicate ⟨hp, hl, hm⟩ _ he hne hle ha⟩

end

section
/-!
The host side of the Front link: the link itself, what arrives from the field die, FRL_MSGCTL, and cell 14's capture.
-/

namespace Sys2Proof.Machine

variable {s : State}

/-! ## The link (R378, R381, R382) -/

theorem exec_frontLinkDown (h : s.frontUp = true) : exec .frontLinkDown s = .next s.frontDown := if_pos h

theorem frlCtrlEffect_retrain (v : Word) (d : RegDef) : frlCtrlEffect (setBit v 1 true) d s = (s.store FRL_CTRL (setBit v 1 true) d).frontDown :=
  if_pos (by rw [bit_setBit_self (by decide), Bool.true_or])

theorem exec_retrain {m : Master} {v : Word} {d : RegDef} (h : Accepts s m 0x0F0 0x80 (setBit v 1 true) noCond d) :
    exec (.retrain m v) s = .next ((s.arrive m).store FRL_CTRL (setBit v 1 true) d).frontDown :=
  (next_write_of_accepts h).trans (congrArg _ (frlCtrlEffect_retrain v d))

theorem exec_resumeRepeat (h : s.frontUp = true) (hw : s.frl.waiting = true) (ht : 1000 ≤ (s.pages.dtime - s.frl.lastTx).toNat) :
    exec .resumeRepeat s = .next s.sendResume :=
  if_pos (by rw [h, hw, decide_eq_true ht]; rfl)

theorem exec_hostResendTimeout (h : s.frontUp = true) {old : HostMsg → Bool}
    (ho : old = fun h => decide (1000 ≤ (s.pages.dtime - h.sent).toNat)) :
    exec .hostResendTimeout s = .next (((s.frl.unack.filter old).foldl
      (fun (x : State) h => x.emit (.toField (h.stamp s.pages.dtime).again)) s).modFrl
        fun f => { f with unack := f.unack.map fun h => if old h then h.stamp s.pages.dtime else h }) := by
  subst ho
  exact if_neg (by rw [h]; exact Bool.false_ne_true)

/-! ## Messages from the field die (R381, R383) -/

/-- A message without fault that arrives while the link is up, and whose blocks of the message buffer are readable, with the state that they
are read in. -/
structure ReachesHost (s : State) (msg : List Byte) (u : State) : Prop where
  frontUp : s.frontUp = true
  sound : msgFault true msg = none
  read : s.frlBad msg = (false, u)

section Receive

variable {msg : List Byte} {u : State} (h : ReachesHost s msg u) {cls flags : Nat}

include h

theorem fromField_sequenced (hr : typeRule true (mType msg) = some (cls, true, flags)) (hw : u.frl.waiting = false) (hq : mSeq msg = u.reg FRL_RXSEQ)
    (free : State → State) : s.fromField msg free = u.acceptEntry msg := by
  simp only [State.fromField, h.frontUp, h.sound, h.read, hr, hw, hq, Bool.not_true, Bool.false_eq_true, if_false, if_true]

theorem fromField_free (hr : typeRule true (mType msg) = some (cls, false, flags)) (free : State → State) :
    s.fromField msg free = free (u.count64 0x0F0 2 1) := by
  simp only [State.fromField, h.frontUp, h.sound, h.read, hr, Bool.not_true, Bool.false_eq_true, if_false]

end Receive

theorem exec_wake_frontUp {msg : List Byte} {u : State} (h : ReachesHost s msg u) (ht : mType msg = 5) :
    exec (.wake msg) s = .next ((u.count64 0x0F0 2 1).raise 0x0F0 6) := by
  change execWake msg s = _
  simp only [execWake, rowTakes_of_type ht, h.frontUp, Bool.not_true, Bool.false_eq_true, if_false, if_true]
  exact congrArg _ (fromField_free h (cls := 0) (flags := 0) (ht ▸ rfl) _)

/-- With the link down, a WAKE reaches the always-on side. -/
theorem exec_wake_down {msg : List Byte} (hf : s.frontUp = false) (ha : s.power.aon = true) (hm : msgFault true msg = none) (ht : mType msg = 5) :
    exec (.wake msg) s = .next (s.wakeBy 0) := by
  change execWake msg s = _
  simp only [execWake, rowTakes_of_type ht, hf, ha, hm, ht, Bool.not_true, Bool.false_eq_true, if_false, if_true, beq_self_eq_true,
    Option.isNone_none, Bool.and_self]

/-! ## FRL_MSGCTL (R403) -/

theorem frlMsgEffect_send (m : Master) (v : Word) (d : RegDef) {u : State} {w : Word} (hw : w = setBit v 16 true) (hu : u = s.store FRL_MSGCTL w d) :
    frlMsgEffect m (setBit v 16 true) d s = if u.msgRefused m (bits w 7 0) (bits w 13 8) = true
      then (u.setReg FRL_MSGCTL (setBits (u.reg FRL_MSGCTL) 31 24 0xFE)).refuse 0x0F0 0x11 m 0xC0 w
      else (u.setReg FRL_MSGCTL (setBit (u.reg FRL_MSGCTL) 17 true)).sendField (bits w 7 0) 0
        ((u.setReg FRL_MSGCTL (setBit (u.reg FRL_MSGCTL) 17 true)).msgBody (bits w 13 8)) .page := by
  subst hw hu
  exact if_neg (by rw [bit_setBit_self (by decide)]; exact Bool.false_ne_true)

theorem exec_frlMsgTimeout (hp : s.pageOn 0x0F0 = true) (hb : s.regBit FRL_MSGCTL 17 = true) {mine : HostMsg → Bool}
    (hm : mine = fun h => h.owner == .page && decide (10000 ≤ (s.pages.dtime - h.first).toNat)) (ha : (s.frl.unack ++ s.frl.queue).any mine = true)
    {u : State}
    (hu : u = s.modFrl fun f => { f with unack := f.unack.map fun h => if mine h then { h with owner := .firmware } else h
                                         queue := f.queue.map fun h => if mine h then { h with owner := .firmware } else h }) :
    exec .frlMsgTimeout s = .next ((u.setReg FRL_MSGCTL (setBit (setBits (u.reg FRL_MSGCTL) 31 24 0xFF) 17 false)).raise 0x0F0 7) := by
  subst hu hm
  refine if_neg ?_
  rw [hp, hb, ha]
  exact Bool.false_ne_true

/-! ## Capture (R399 to R402) -/

/-- The conditions of an append of `n` entries in `k` blocks: cell 14 is served, an append is due and may start, NSID 1 has room and tokens for
it, and slot 33 holds its key. -/
structure MayAppend (s : State) (n k : Nat) : Prop where
  serves : s.captures = true
  take : n = s.captureTake
  some : n ≠ 0
  blocks : k = (n + 62) / 63
  running : (s.frl.appends.filter fun a => !a.done).length < 2
  region : s.regionFull = false
  room : s.host.evid.append + k ≤ s.host.evid.cap
  cmds : 10000 ≤ (s.bucketNow 16).cmds
  bytes : 4096 * k ≤ (s.bucketNow 16).bytes
  noAlarm : s.regBit KEY_STAT 3 = false
  key : (s.key 33).valid = true

theorem exec_captureAppend {n k : Nat} (h : MayAppend s n k) {es : List (BitVec 32 × List Byte × BitVec 64 × Bool)} {bs : List Block}
    {last : BitVec 32} {u v x y : State} (hu : s.useKey 33 = (true, u)) (he : es = u.frl.held.take n) (hs : u.sealBlocks es k = (bs, v))
    (hl : last = (es.getLast?.map (·.1)).getD 0)
    (hx : x = ((v.takeTokens 16 (4096 * k)).count64 0x020 2 1).modFrl (fun f => { f with
      held := f.held.drop n, appends := f.appends ++ [(⟨capRef s.host.evid.fieldCnt, last, false⟩ : CapAppend)] }))
    (hy : y = { x with host := { x.host with nextSeq := x.host.nextSeq + 1, evid := { x.host.evid with
      append := s.host.evid.append + k, fieldCnt := s.host.evid.fieldCnt + 1
      open_ := s.host.evid.open_ ++ [(⟨s.host.evid.append, k, some (capRef s.host.evid.fieldCnt), false, x.host.nextSeq, none⟩ : AppendRec)] } } }) :
    exec .captureAppend s = .next (y.stageAll (capRef s.host.evid.fieldCnt) true 1 s.host.evid.append bs) := by
  have hlast : (match es.getLast? with | some x => x.1 | none => 0) = last := by
    rw [hl]
    cases es.getLast? with
    | none => rfl
    | some x => rfl
  subst hx hy he
  obtain ⟨hserve, rfl, hn, rfl, hrun, hreg, hroom, hc, hb, hk3, hkey⟩ := h
  change execCaptureAppend s = _
  simp only [execCaptureAppend, hserve, beq_false_of_ne hn, hrun.not_ge, hreg, hroom.not_gt, hc.not_gt, hb.not_gt, or_self, hk3, hkey, hu, hs,
    ← hlast, decide_false, Bool.not_true, Bool.or_self, Bool.false_eq_true, if_false] <;> rfl

section Durable

variable {k : Nat} {a : CapAppend} {u : State} (ha : s.frl.appends[k]? = some a) (hd : a.done = false) (hs : s.stagedFor a.ref = false)
  (hu : u = (s.closeAppend fun x => x.who == some a.ref).closeSpan 5) {l : List CapAppend}

include ha hd hs hu

theorem exec_appendDurable_none (hr : durableRun (u.frl.appends.set k { a with done := true }) = (none, l)) :
    exec (.appendDurable k) s = .next (u.modFrl fun f => { f with appends := l }) := by
  subst hu
  change execAppendDurable k s = _
  simp only [execAppendDurable, ha, hd, hs, Bool.or_self, Bool.false_eq_true, if_false, hr]

theorem exec_appendDurable_some {q : BitVec 32} {v : State} (hr : durableRun (u.frl.appends.set k { a with done := true }) = (some q, l))
    (hv : v = u.modFrl fun f => { f with appends := l, durable := some q }) :
    exec (.appendDurable k) s = .next (if v.frontUp then (v.setReg FRL_DURSEQ q).sendAck 0 q (v.reg FRL_RXSEQ) else v) := by
  subst hu hv
  change execAppendDurable k s = _
  simp only [execAppendDurable, ha, hd, hs, Bool.or_self, Bool.false_eq_true, if_false, hr]

end Durable

theorem exec_fieldAppendBoundPassed {d : BitVec 64} (hd : s.captureDue = some d) (hp : s.pageOn 0x0F0 = true)
    (hlo : 3000 < (s.pages.dtime - d).toNat) (hle : d.toNat ≤ s.pages.dtime.toNat) :
    exec .fieldAppendBoundPassed s = .next (s.openSpan 5 none) := by
  change execFieldAppendBoundPassed s = _
  simp only [execFieldAppendBoundPassed, hd, hp, hlo, hle, decide_true, Bool.and_self, if_true]

end Sys2Proof.Machine

open Sys2Proof Sys2Proof.Machine

/-- Settles O36: each row takes the messages of its type; sequenced ones enter in sequence, the others act at once. -/
theorem frontLinkCommands : Obligations.FrontLinkCommands := by
  have hrule {b : Bool} {n m : Nat} {r : Option (Nat × Bool × Nat)} (h : m = n) (hr : typeRule b n = r) : typeRule b m = r := h ▸ hr
  refine ⟨fun s => ⟨_, rfl, rfl⟩, fun s h => ⟨_, exec_frontLinkDown h, rfl⟩, fun s m v d h => ⟨_, exec_retrain h, rfl⟩,
    fun s h hw ht => ⟨_, exec_resumeRepeat h hw ht, rfl⟩, ?_, ?_, ?_, ?_, ?_, ?_, ?_, ?_, ?_, ?_,
    fun s mine u hp hb hm ha hu => ⟨_, exec_frlMsgTimeout hp hb hm ha hu, rfl⟩, ?_, ?_,
    fun s d hd hp hlo hle => ⟨_, exec_fieldAppendBoundPassed hd hp hlo hle, rfl⟩⟩
  · rintro s old u h ho rfl
    exact ⟨_, exec_hostResendTimeout h ho, rfl⟩
  · intro s msg u hf hm ht hb hw hq
    exact ⟨_, if_pos (rowTakes_of_type ht), fromField_sequenced ⟨hf, hm, hb⟩ (hrule ht rfl) hw hq id⟩
  · intro s msg u hf hm ht hb hw hq
    exact ⟨_, if_pos (rowTakes_of_type ht), fromField_sequenced ⟨hf, hm, hb⟩ (hrule ht rfl) hw hq id⟩
  · intro s msg u hf hm ht hb hw hq
    exact ⟨_, if_pos (rowTakes_of_type ht), fromField_sequenced ⟨hf, hm, hb⟩ (hrule ht rfl) hw hq id⟩
  · intro s msg u hf hm ht hb hw hq
    exact ⟨_, if_pos (rowTakes_of_type ht), fromField_sequenced ⟨hf, hm, hb⟩ (hrule ht rfl) hw hq id⟩
  · intro s msg u hf hm ht hb hw hq
    exact ⟨_, if_pos (rowTakes_of_type ht), fromField_sequenced ⟨hf, hm, hb⟩ (hrule ht rfl) hw hq id⟩
  · intro s msg u hf hm ht hb
    exact ⟨_, if_pos (rowTakes_of_type ht), fromField_free ⟨hf, hm, hb⟩ (hrule ht rfl) _⟩
  · intro s msg u hf hm ht hb
    exact ⟨_, exec_wake_frontUp ⟨hf, hm, hb⟩ ht, rfl⟩
  · intro s msg hf ha hm ht
    exact ⟨_, exec_wake_down hf ha hm ht, rfl⟩
  · intro s m v d u w h hw hu
    exact ⟨_, next_write_of_accepts h, frlMsgEffect_send m v d hw (hw ▸ hu)⟩
  · intro s n k e es bs last u v x y hserve hn hn0 hk he hrun hreg hroom hc hb hk3 hkey hu hes hs hl hx hy
    subst he
    exact ⟨_, exec_captureAppend ⟨hserve, hn, hn0, hk, hrun, hreg, hroom, hc, hb, hk3, hkey⟩ hu hes hs hl hx hy, rfl⟩
  · intro s k a u ha hd hs hu
    rcases hr : durableRun (u.frl.appends.set k { a with done := true }) with ⟨q, l⟩
    cases q with
    | none => exact ⟨_, exec_appendDurable_none ha hd hs hu hr, rfl⟩
    | some q => exact ⟨_, exec_appendDurable_some ha hd hs hu hr rfl, rfl⟩

end

section
/-!
MCTP control and NVMe-MI at the side-band port: a request that the port takes is served by its own command, and a management command while the
main side serves.
-/

namespace Sys2Proof.Machine

section Taken

variable {s v : State} {r : SbReq} (h : Takes s r v)

include h

/-! ## MCTP control (R406) -/

theorem mctp_of_takes {code : Byte} {serve : State → State} (ht : r.type = 0) (hc : r.body.getD 1 0 = code) :
    s.mctp r code serve = .next (serve v) :=
  sbTake_of_takes h (by rw [ht, hc, beq_self_eq_true, beq_self_eq_true, Bool.and_self])

theorem exec_setEndpointId (ht : r.type = 0) (hc : r.body.getD 1 0 = 1) (hl : r.body.length = 4) (hop : (r.body.getD 2 0).toNat ≤ 1)
    (h0 : r.body.getD 3 0 ≠ 0) (hf : r.body.getD 3 0 ≠ 0xFF) :
    exec (.setEndpointId r) s = .next ((v.setField SBM_CTRL 7 0 (r.body.getD 3 0).toNat).mctpAnswer r 0 [0, r.body.getD 3 0, 0]) := by
  change execSetEndpointId r s = _
  rw [execSetEndpointId, mctp_of_takes h ht hc]
  simp only [hl, ne_eq, not_true_eq_false, hop.not_gt, h0, hf, or_self, if_false]

theorem exec_getEndpointId (ht : r.type = 0) (hc : r.body.getD 1 0 = 2) :
    exec (.getEndpointId r) s = .next (v.mctpAnswer r 0 [BitVec.ofNat 8 (v.field? SBM_CTRL 7 0), 0, 0]) := by
  change execGetEndpointId r s = _
  rw [execGetEndpointId, mctp_of_takes h ht hc]

theorem exec_getMessageTypeSupport (ht : r.type = 0) (hc : r.body.getD 1 0 = 5) :
    exec (.getMessageTypeSupport r) s = .next (v.mctpAnswer r 0 [3, 0x00, 0x04, 0x7E]) := by
  change execGetMessageTypeSupport r s = _
  rw [execGetMessageTypeSupport, mctp_of_takes h ht hc]

theorem exec_getMctpVersionSupport_base (ht : r.type = 0) (hc : r.body.getD 1 0 = 4) (ho : r.body.getD 2 0 = 0xFF ∨ r.body.getD 2 0 = 0) :
    exec (.getMctpVersionSupport r) s = .next (v.mctpAnswer r 0 [1, 0xF1, 0xF3, 0xF0, 0x00]) := by
  change execGetMctpVersionSupport r s = _
  rw [execGetMctpVersionSupport, mctp_of_takes h ht hc]
  rcases ho with ho | ho
  · simp only [ho]; rfl
  · simp only [ho]; rfl

theorem exec_getMctpVersionSupport_mi (ht : r.type = 0) (hc : r.body.getD 1 0 = 4) (ho : r.body.getD 2 0 = 4) :
    exec (.getMctpVersionSupport r) s = .next (v.mctpAnswer r 0 [1, 0xF1, 0xF2, 0xF0, 0x00]) := by
  change execGetMctpVersionSupport r s = _
  rw [execGetMctpVersionSupport, mctp_of_takes h ht hc]
  simp only [ho]; rfl

theorem exec_getVendorDefinedMessageSupport (ht : r.type = 0) (hc : r.body.getD 1 0 = 6) (ho : r.body.getD 2 0 = 0) :
    exec (.getVendorDefinedMessageSupport r) s = .next (v.mctpAnswer r 0
      [0xFF, 0, (Config.pciVendor >>> 8).setWidth 8, Config.pciVendor.setWidth 8, 0, 0]) := by
  change execGetVendorDefinedMessageSupport r s = _
  rw [execGetVendorDefinedMessageSupport, mctp_of_takes h ht hc]
  simp only [ho, if_true]

theorem exec_unsupportedMctpMessage_control (ht : r.type = 0) (hl : 2 ≤ r.body.length)
    (hc : [1, 2, 4, 5, 6].contains (r.body.getD 1 0).toNat = false) :
    exec (.unsupportedMctpMessage r) s = .next (v.mctpAnswer r 5 []) := by
  change execUnsupportedMctpMessage r s = _
  rw [execUnsupportedMctpMessage, if_pos ht, sbTake_of_takes h (by rw [decide_eq_true hl, hc]; rfl)]

/-! ## NVMe-MI (R408) -/

theorem exec_basicManagementCommand (hi : s.sb.i3c = false) (ht : r.type = 0) (hb : r.body = [0]) :
    exec (.basicManagementCommand r) s = .next (v.sbOut r
      [6, BitVec.ofNat 8 (128 + (!v.mainAwake).toNat * 64 + v.miFlags + 3), ~~~v.copyWarn, ctempByte v.copyTemp, v.copyUsed, 0, 0]) := by
  change execBasicManagementCommand r s = _
  rw [execBasicManagementCommand, sbTake_of_takes h (by rw [hi, ht, hb]; rfl)]

theorem exec_adminCommandTunnel (ht : r.type = 4) (hk : r.miKind = 2) (ho : [2, 6, 10].contains r.miOp = true) (hs : Serves v)
    (hf : v.fnExists (fld r.body 5 2) = true) (hl : fld r.body 31 4 ≤ 1005) {st : Status} {bs : List Byte} {u : State}
    (htu : v.tunnel r.tunnelled = (st, bs, u)) :
    exec (.adminCommandTunnel r) s = .next (u.miAnswer r 0 0 (wordBytes st.dw0 ++ wordBytes st.dw1 ++
      leBytes 4 ((st.sc + st.sct * 2 ^ 8 + st.dnr.toNat * 2 ^ 14) * 2 ^ 17) ++ (bs.drop (fld r.body 27 4)).take (fld r.body 31 4))) := by
  obtain ⟨hawake, h6⟩ := hs
  change execAdminCommandTunnel r s = _
  rw [execAdminCommandTunnel, sbTake_of_takes h (by rw [ht, hk]; rfl)]
  simp only [ho, hawake, h6, hf, hl.not_gt, htu, decide_false, Bool.not_true, Bool.or_self, Bool.false_eq_true, if_false]

theorem exec_refusedNvmeMiCommand (ht : r.type = 4) (hk : r.miKind ≠ 2) (ho : r.miKind ≠ 1 ∨ 5 < r.miOp) :
    exec (.refusedNvmeMiCommand r) s = .next (v.miAnswer r 3 0 []) := by
  change execRefusedNvmeMiCommand r s = _
  rw [execRefusedNvmeMiCommand, sbTake_of_takes h]
  simp only [ht, bne_iff_ne.2 hk, Bool.and_eq_true, beq_self_eq_true, Bool.or_eq_true, bne_iff_ne, decide_eq_true_eq, ho, and_self]

section Management

variable (ht : r.type = 4) (hk : r.miKind = 1) (hs : Serves v)

include ht hk hs

theorem mi_of_takes {op : Nat} {serve : State → State} (ho : r.miOp = op) : s.mi r op serve = .next (serve v) :=
  (sbTake_of_takes h (by rw [ht, hk, ho, beq_self_eq_true, beq_self_eq_true, beq_self_eq_true]; rfl)).trans
    (congrArg _ (sbMain_of_serves hs))

theorem exec_readNvmeMiDataStructure (ho : r.miOp = 0) {d : List Byte} (hd : d = sub (Config.standardData "NVME_MI" r.nmd0.toNat 32) 0 32) :
    exec (.readNvmeMiDataStructure r) s = .next (v.miAnswer r 0 d.length d) := by
  subst hd
  change execReadNvmeMiDataStructure r s = _
  rw [execReadNvmeMiDataStructure, mi_of_takes h ht hk hs ho]

theorem exec_nvmSubsystemHealthStatusPoll (ho : r.miOp = 1) : exec (.nvmSubsystemHealthStatusPoll r) s = .next (v.miAnswer r 0 0
    [BitVec.ofNat 8 v.miFlags, ~~~v.copyWarn, ctempByte v.copyTemp, v.copyUsed, 0, 0, 0, 0]) := by
  change execNvmSubsystemHealthStatusPoll r s = _
  rw [execNvmSubsystemHealthStatusPoll, mi_of_takes h ht hk hs ho]

theorem exec_controllerHealthStatusPoll (ho : r.miOp = 2) {fs : List Nat}
    (hf : fs = (((List.range 16).filter fun f => decide (bits r.nmd0 15 0 ≤ f) && v.fnExists f).take (bits r.nmd0 23 16 + 1))) :
    exec (.controllerHealthStatusPoll r) s = .next (v.miAnswer r 0 (fs.length * 65536)
      (fs.flatMap fun f => leBytes 2 f ++ leBytes 2 (bits (v.ctrl (Fin.ofNat 16 f)).csts 5 0) ++ leBytes 2 v.copyTemp ++
        [v.copyUsed, v.sb.health.getD 5 0, v.copyWarn] ++ List.replicate 7 0)) := by
  subst hf
  change execControllerHealthStatusPoll r s = _
  rw [execControllerHealthStatusPoll, mi_of_takes h ht hk hs ho]

theorem exec_configurationGet_frequency (ho : r.miOp = 4) (hc : bits r.nmd0 7 0 = 1) (hi : v.sb.i3c = false) :
    exec (.configurationGet r) s = .next (v.miAnswer r 0 v.sb.freq []) := by
  change execConfigurationGet r s = _
  rw [execConfigurationGet, mi_of_takes h ht hk hs ho]
  simp only [hc, hi, Bool.false_eq_true, if_false]

theorem exec_configurationGet_unit (ho : r.miOp = 4) (hc : bits r.nmd0 7 0 = 3) :
    exec (.configurationGet r) s = .next (v.miAnswer r 0 64 []) := by
  change execConfigurationGet r s = _
  rw [execConfigurationGet, mi_of_takes h ht hk hs ho]
  simp only [hc]

theorem exec_configurationSet_frequency (ho : r.miOp = 3) (hc : bits r.nmd0 7 0 = 1) (hi : v.sb.i3c = false) (hlo : 1 ≤ bits r.nmd0 11 8)
    (hhi : bits r.nmd0 11 8 ≤ 3) :
    exec (.configurationSet r) s = .next (({ v with sb := { v.sb with freq := bits r.nmd0 11 8 } } : State).miAnswer r 0 0 []) := by
  change execConfigurationSet r s = _
  rw [execConfigurationSet, mi_of_takes h ht hk hs ho]
  simp only [hc, hi, hhi.not_gt, Nat.ne_of_gt hlo, Bool.false_eq_true, or_self, if_false]

theorem exec_configurationSet_unit (ho : r.miOp = 3) (hc : bits r.nmd0 7 0 = 3) (hu : bits r.nmd1 15 0 = 64) :
    exec (.configurationSet r) s = .next (v.miAnswer r 0 0 []) := by
  change execConfigurationSet r s = _
  rw [execConfigurationSet, mi_of_takes h ht hk hs ho]
  simp only [hc, hu, if_true]

theorem exec_vpdRead (ho : r.miOp = 5) (hr : bits r.nmd0 15 0 + bits r.nmd1 15 0 ≤ v.start.nor.vpd.length) (hl : bits r.nmd1 15 0 ≤ 1017) :
    exec (.vpdRead r) s = .next (v.miAnswer r 0 0 (sub v.start.nor.vpd (bits r.nmd0 15 0) (bits r.nmd1 15 0))) := by
  change execVpdRead r s = _
  rw [execVpdRead, mi_of_takes h ht hk hs ho]
  simp only [hr.not_gt, hl.not_gt, or_self, if_false]

end Management

end Taken

/-! ## The port itself (R404, R406) -/

section Port

variable {s : State} (h : s.portOn = true)

include h

theorem exec_entdaa {addr : BitVec 7} (hi : s.sb.i3c = true) (ha : addr ≠ 0) (hf : s.field? SBM_STAT 22 16 = 0) :
    exec (.entdaa addr) s = .next (s.startWosc.setField SBM_STAT 22 16 addr.toNat) :=
  if_pos (by rw [h, hi, bne_iff_ne.2 ha, hf]; rfl)

theorem exec_unsupportedMctpMessage_type {r : SbReq} (h0 : r.type ≠ 0) (h4 : r.type ≠ 4) (h7e : r.type ≠ 0x7E) :
    exec (.unsupportedMctpMessage r) s = .next (s.startWosc.count 0x0F8 4 1) := by
  change execUnsupportedMctpMessage r s = _
  simp only [execUnsupportedMctpMessage, h0, h4, h7e, or_self, if_false, h, if_true]

end Port

/-! ## What the port holds (R407) -/

/-- The requests that the port holds: those that wait for a cell and those kept while the warden moves. -/
def State.requests (s : State) : List SbWait × List SbReq := (s.sb.waits, s.sb.held)

section Requests

variable (s : State)

theorem alert_requests (page : Nat) : (s.alert page).requests = s.requests := by
  have h (w : Word) : (s.logWarden page w).requests = s.requests := by simp only [State.logWarden, State.requests]
  unfold State.alert
  dsimp only
  split
  · have he (t : State) (o : Out) : (t.emit o).requests = t.requests := rfl
    rw [he, h]
  · rw [h]

theorem sendVector_requests (f : Fun) (v : Nat) : (s.sendVector f v).requests = s.requests := by
  unfold State.sendVector
  split
  · rfl
  · rfl

theorem sendVectors_requests (f : Fun) (v n : Nat) : (s.sendVectors f v n).requests = s.requests := by
  induction n with
  | zero => rfl
  | succ n ih => exact (sendVector_requests ..).trans ih

theorem signal_requests (page n : Nat) : (s.signal page n).1.requests = s.requests := by
  unfold State.signal
  split
  · split_ifs
    · rfl
    · exact sendVectors_requests ..
    · rfl
  · rfl
  · exact alert_requests ..
  · rfl

theorem setRaw_requests (page : Nat) (m : Word) : (s.setRaw page m).1.requests = s.requests := by
  unfold State.setRaw
  dsimp only
  split
  · rfl
  · split
    · next e => exact (congrArg (fun x : State × Bool => x.1.requests) e).symm.trans (signal_requests ..)
    · next e => exact (congrArg (fun x : State × Bool => x.1.requests) e).symm.trans (signal_requests ..)

theorem countRaw_requests (page slot n : Nat) : (s.countRaw page slot n).1.requests = s.requests := by
  unfold State.countRaw
  dsimp only
  split
  · rfl
  · rfl

theorem raiseMask_requests (page : Nat) (m : Word) : (s.raiseMask page m).requests = s.requests := by
  have h := setRaw_requests s page m
  unfold State.raiseMask
  split
  · next e => rwa [e] at h
  · next t n _ e =>
    rw [e] at h
    have hc := countRaw_requests t 5 8 n
    split
    · next e' => rw [e'] at hc; exact hc.trans h
    · next e' => rw [e'] at hc; exact (setRaw_requests ..).trans (hc.trans h)

/-- A counter may raise an event, and its signal an alert: none of them takes a request or ends one. -/
theorem count_requests (page slot n : Nat) : (s.count page slot n).requests = s.requests := by
  have h := countRaw_requests s page slot n
  unfold State.count
  split
  · next e => rw [e] at h; exact (raiseMask_requests ..).trans h
  · next e => rwa [e] at h

end Requests

/-- With four requests held, the port takes another only to answer it with BUSY. -/
theorem sbTake_busy {s : State} {r : SbReq} {mine : Bool} {serve : State → State} (hp : s.portOn = true) (hl : r.body.length ≤ 1024)
    (hc : r.chk = true) (hm : mine = true) (h4 : 4 ≤ s.sb.waits.length + s.sb.held.length)
    (hk : ((s.sb.waits.any fun w => w.eid == r.eid && w.tag == r.key) || s.sb.held.any fun w => w.eid == r.eid && w.key == r.key) = false) :
    s.sbTake r mine serve = .next ((s.startWosc.count 0x0F8 2 1).sbBusy r) := by
  have hwaits : s.startWosc.sb.waits = s.sb.waits := rfl
  have hheld : s.startWosc.sb.held = s.sb.held := rfl
  have hcount : (s.startWosc.count 0x0F8 2 1).requests = s.requests := count_requests ..
  have hwaits' : (s.startWosc.count 0x0F8 2 1).sb.waits = s.sb.waits := congrArg Prod.fst hcount
  have hheld' : (s.startWosc.count 0x0F8 2 1).sb.held = s.sb.held := congrArg Prod.snd hcount
  simp only [State.sbTake, hp, hm, hl.not_gt, hc, hwaits, hheld, hwaits', hheld', hk, h4, h4.not_gt, decide_false, Bool.and_false, Bool.not_true,
    Bool.or_self, Bool.false_eq_true, if_false, if_true]

end Sys2Proof.Machine

open Sys2Proof Sys2Proof.Machine

/-- Settles O37: each command serves the request of its type and code that the port takes. -/
theorem managementCommands : Obligations.ManagementCommands := by
  exact ⟨fun s addr h hi ha hf => ⟨_, exec_entdaa h hi ha hf, rfl⟩,
    fun s r v h ht hc hl hop h0 hf => ⟨_, exec_setEndpointId h ht hc hl hop h0 hf, rfl⟩,
    fun s r v h ht hc => ⟨_, exec_getEndpointId h ht hc, rfl⟩,
    fun s r v h ht hc ho => ⟨_, exec_getMctpVersionSupport_base h ht hc ho, rfl⟩,
    fun s r v h ht hc ho => ⟨_, exec_getMctpVersionSupport_mi h ht hc ho, rfl⟩,
    fun s r v h ht hc => ⟨_, exec_getMessageTypeSupport h ht hc, rfl⟩,
    fun s r v h ht hc ho => ⟨_, exec_getVendorDefinedMessageSupport h ht hc ho, rfl⟩,
    fun s r v h ht hl hc => ⟨_, exec_unsupportedMctpMessage_control h ht hl hc, rfl⟩,
    fun s r h h0 h4 h7e => ⟨_, exec_unsupportedMctpMessage_type h h0 h4 h7e, rfl⟩,
    fun s r v h hi ht hb => ⟨_, exec_basicManagementCommand h hi ht hb, rfl⟩,
    fun s r v d h ht hk ho hs hd => ⟨_, exec_readNvmeMiDataStructure h ht hk hs ho hd, rfl⟩,
    fun s r v h ht hk ho hs => ⟨_, exec_nvmSubsystemHealthStatusPoll h ht hk hs ho, rfl⟩,
    fun s r v fs h ht hk ho hs hf => ⟨_, exec_controllerHealthStatusPoll h ht hk hs ho hf, rfl⟩,
    fun s r v h ht hk ho hs hc hi => ⟨_, exec_configurationGet_frequency h ht hk hs ho hc hi, rfl⟩,
    fun s r v h ht hk ho hs hc => ⟨_, exec_configurationGet_unit h ht hk hs ho hc, rfl⟩,
    fun s r v h ht hk ho hs hc hi hlo hhi => ⟨_, exec_configurationSet_frequency h ht hk hs ho hc hi hlo hhi, rfl⟩,
    fun s r v h ht hk ho hs hc hu => ⟨_, exec_configurationSet_unit h ht hk hs ho hc hu, rfl⟩,
    fun s r v h ht hk ho hs hr hl => ⟨_, exec_vpdRead h ht hk hs ho hr hl, rfl⟩,
    fun s r v st bs u h ht hk ho hs hf hl htu => ⟨_, exec_adminCommandTunnel h ht hk ho hs hf hl htu, rfl⟩,
    fun s r v h ht hk ho => ⟨_, exec_refusedNvmeMiCommand h ht hk ho, rfl⟩⟩

/-- Settles O58: a fifth request is looked at only once it is known to be new. -/
theorem fifthRequestIsBusy : Obligations.FifthRequestIsBusy :=
  fun _ _ _ _ hp hl hc hm h4 hk => sbTake_busy hp hl hc hm h4 hk

end

section
/-!
The vendor message set of the side-band port: a request of an OP that the port takes has its effect and its answer.
-/

namespace Sys2Proof.Machine

variable {s v u : State} {r : SbReq}

/-! ## Pages and the health copy -/

theorem exec_pageRead (h : TakesOp s r 1 false v) (hl : r.body.length = 12) {n : Nat} (hn : n = fld r.body 8 1) (hlo : 1 ≤ n) (hhi : n ≤ 16)
    (hz : fld r.body 9 3 = 0) {l : List Word} {st : Nat} (hr : v.readWords' (fld r.body 4 2) (fld r.body 6 2) n = (l, st, u)) :
    exec (.pageRead r) s = .next (u.vAnswer r st (l.flatMap wordBytes)) := by
  subst hn
  change execPageRead r s = _
  rw [execPageRead, vendor_of_takes h rfl]
  simp only [hl, Nat.ne_of_gt hlo, hhi.not_gt, hz, ne_eq, not_true_eq_false, or_self, if_false, hr]

theorem exec_pageWrite (h : TakesOp s r 2 false v) {n : Nat} (hn : n = fld r.body 8 1) (hl : r.body.length = 12 + 4 * n) (hlo : 1 ≤ n)
    (hhi : n ≤ 16) (hz : fld r.body 9 3 = 0) {k st : Nat}
    (hw : v.writeWords' (fld r.body 4 2) (fld r.body 6 2) ((List.range n).map fun j => leWord (sub r.body (12 + 4 * j) 4)) = (k, st, u)) :
    exec (.pageWrite r) s = .next (u.vAnswer r st [BitVec.ofNat 8 k]) := by
  subst hn
  change execPageWrite r s = _
  rw [execPageWrite, vendor_of_takes h rfl]
  simp only [hl, Nat.ne_of_gt hlo, hhi.not_gt, hz, ne_eq, not_true_eq_false, or_self, if_false, hw]

theorem exec_health (h : TakesOp s r 3 true v) {age : Nat} (ha : age = (v.pages.dtime - v.sb.copyT).toNat) :
    exec (.health r) s = .next (v.vAnswer r 0 (leBytes 1 v.healthState ++
      leBytes 1 ((decide (1000000 < age)).toNat + 2 * v.frontUp.toNat) ++ sub v.sb.health 2 18 ++ leBytes 4 (min (age / 1000) 0xFFFFFFFF) ++
      List.replicate 8 0)) := by
  subst ha
  change execHealth r s = _
  rw [execHealth, vendor_of_takes h rfl]

/-! ## Power -/

theorem exec_powerGet (h : TakesOp s r 4 false v) (hl : r.body.length = 6) (ha : fld r.body 4 1 = 0) (hn : fld r.body 5 1 ≤ 3) :
    exec (.powerGet r) s = .next (v.vAnswer r 0 (v.powerData none)) := by
  change execPowerGet r s = _
  rw [execPowerGet, vendor_of_takes h (by rw [ha]; rfl)]
  simp only [hl, ha, hn.not_gt, ne_eq, not_true_eq_false, or_self, if_false]

theorem exec_powerRequest (h : TakesOp s r 4 false v) (hl : r.body.length = 6) (ha : fld r.body 4 1 = 1) (hn : fld r.body 5 1 ≤ 3)
    (hp : v.power.v12 = true ∨ v.power.calm = true ∧ v.field? PWR_STAT 2 0 = 3) (hq : v.requestState (fld r.body 5 1) 1 = some u) :
    exec (.powerRequest r) s = .next (u.vAnswer r 0 (u.powerData (some (fld r.body 5 1)))) := by
  have hserved : (!v.power.v12 && v.start.phase == .warden && !(v.power.calm && v.field? PWR_STAT 2 0 == 3)) = false := by
    rcases hp with hp | ⟨hp, hf⟩
    · rw [hp]; rfl
    · rw [hp, hf, beq_self_eq_true, Bool.and_self, Bool.not_true, Bool.and_false]
  change execPowerRequest r s = _
  rw [execPowerRequest, vendor_of_takes h (by rw [ha]; rfl)]
  simp only [hl, hn.not_gt, hserved, hq, ne_eq, not_true_eq_false, or_self, Bool.false_eq_true, if_false]

/-! ## Logs and slots -/

/-- The operands of a LOG_READ keep their rule, and name a page that is served. -/
structure ReadsLog (r : SbReq) : Prop where
  length : r.body.length = 14
  reserved : fld r.body 5 3 = 0
  offset : fld r.body 8 4 % 4 = 0
  least : 4 ≤ fld r.body 12 2
  most : fld r.body 12 2 ≤ 1000

theorem exec_logRead_warden (h : TakesOp s r 5 false v) (ho : ReadsLog r) (hlid : fld r.body 4 1 = 0xE0) :
    exec (.logRead r) s = .next (v.logAnswer r (Config.eventLog v.sb.evlog)) := by
  obtain ⟨hl, hz, hoff, hlo, hhi⟩ := ho
  change execLogRead r s = _
  rw [execLogRead, vendor_of_takes h rfl]
  have hin : [0x02, 0x03, 0xC2, 0xC3, 0xE0].contains 0xE0 = true := by decide
  simp only [hlid, hin, hl, hz, hoff, hlo.not_gt, hhi.not_gt, ne_eq, not_true_eq_false, Bool.not_true, Bool.false_eq_true, or_self, if_false, if_true]

theorem exec_logRead_main (h : TakesOp s r 5 false v) (ho : ReadsLog r) (hlid : [0x02, 0x03, 0xC2, 0xC3].contains (fld r.body 4 1) = true)
    (hs : Serves v) {p : List Byte} (hp : v.logPage 0 (fld r.body 4 1) = some p) :
    exec (.logRead r) s = .next (v.logAnswer r p) := by
  obtain ⟨hl, hz, hoff, hlo, hhi⟩ := ho
  have hne : fld r.body 4 1 ≠ 0xE0 := fun e => by rw [e] at hlid; exact absurd hlid (by decide)
  have hin : [0x02, 0x03, 0xC2, 0xC3, 0xE0].contains (fld r.body 4 1) = true :=
    List.contains_iff_mem.2 (List.mem_append_left [0xE0] (List.contains_iff_mem.1 hlid))
  change execLogRead r s = _
  rw [execLogRead, vendor_of_takes h rfl]
  simp only [hin, hl, hz, hoff, hlo.not_gt, hhi.not_gt, hne, ne_eq, not_true_eq_false, Bool.not_true, Bool.false_eq_true, or_self, if_false,
    sbMain_of_serves hs, hp]

theorem exec_fwSlotGet (h : TakesOp s r 6 true v) (hl : r.body.length = 6) (ha : fld r.body 4 1 = 0) :
    exec (.fwSlotGet r) s = .next (v.vAnswer r 0 v.slotData) := by
  change execFwSlotGet r s = _
  rw [execFwSlotGet, vendor_of_takes h (by rw [ha]; rfl)]
  simp only [hl, ha, ne_eq, not_true_eq_false, or_self, if_false]

theorem exec_fwSlotSet (h : TakesOp s r 6 false v) (hl : r.body.length = 6) (ha : fld r.body 4 1 = 1) (hlo : 1 ≤ fld r.body 5 1)
    (hhi : fld r.body 5 1 ≤ 2) (hb : v.regBit ADM_STAT 10 = false) (hu : u = v.putRec fun x => { x with next := fld r.body 5 1 }) :
    exec (.fwSlotSet r) s = .next (u.vAnswer r 0 u.slotData) := by
  subst hu
  change execFwSlotSet r s = _
  rw [execFwSlotSet, vendor_of_takes h (by rw [ha]; rfl)]
  simp only [hl, Nat.ne_of_gt hlo, hhi.not_gt, hb, ne_eq, not_true_eq_false, or_self, Bool.false_eq_true, if_false]

/-! ## The field die, provisioning and owners -/

theorem exec_fieldStatus (h : TakesOp s r 7 false v) (hl : r.body.length = 4) {w : Word}
    (hw : w = if v.mainAwake && !v.sb.state6 then v.reg FRL_STAT else v.sb.fstat) :
    exec (.fieldStatus r) s = .next (v.vAnswer r 0
      (wordBytes w ++ leBytes 4 (min ((v.pages.dtime - v.frl.healthT).toNat / 1000) 0xFFFFFFFF) ++ sub v.frl.health 0 48)) := by
  subst hw
  change execFieldStatus r s = _
  rw [execFieldStatus, vendor_of_takes h rfl]
  simp only [hl, ne_eq, not_true_eq_false, if_false]

theorem exec_fieldConfig (h : TakesOp s r 8 false v) {b : List Byte} (hb : b = r.body.drop 4) (hlo : 5 ≤ b.length) (hhi : b.length ≤ 52)
    {k x : Nat} {y : Bool} (hr : typeRule false 0x81 = some (k, y, x)) (hm : msgFault false (mkMsg 0x81 0 k 0 b) = none) (hs : Serves v) :
    exec (.fieldConfig r) s = .next ((v.sbHold r.eid r.vtag 8).sendField 0x81 0 b (.sideband r.eid r.vtag)) := by
  subst hb
  change execFieldConfig r s = _
  rw [execFieldConfig, vendor_of_takes h rfl]
  simp only [hlo.not_gt, hhi.not_gt, hr, hm, Option.isSome_none, Bool.false_eq_true, or_self, if_false, sbMain_of_serves hs]

theorem exec_evidProvision (h : TakesOp s r 9 false v) (hl : r.body.length = 8) (hn : fld r.body 4 4 ≠ 0) (hs : Serves v)
    (hc : v.host.evid.cap = 0) (hroom : v.nvmBlocks + fld r.body 4 4 ≤ v.userBlocks)
    (hu : u = { v with host := { v.host with evid := { v.host.evid with base := v.newBase (fld r.body 4 4), cap := fld r.body 4 4, attached := [0] } }
                       start := { v.start with nor := { v.start.nor with evidCap := fld r.body 4 4 } } }) :
    exec (.evidProvision r) s = .next ((u.raise 0x0F8 4).vAnswer r 0 []) := by
  subst hu
  change execEvidProvision r s = _
  rw [execEvidProvision, vendor_of_takes h rfl]
  simp only [hl, hn, hc, hroom.not_gt, ne_eq, not_true_eq_false, or_self, if_false, sbMain_of_serves hs]

theorem exec_rootBlob (h : TakesOp s r 0x0A false v) (hl : r.body.length = 68) (hr : v.crypto.root = none) :
    exec (.rootBlob r) s = .next
      ((({ v with start := { v.start with nor := { v.start.nor with blob := r.body.drop 4 } } } : State).raise 0x0F8 4).vAnswer r 0 []) := by
  change execRootBlob r s = _
  rw [execRootBlob, vendor_of_takes h rfl]
  simp only [hl, hr, Option.isSome_none, Bool.false_eq_true, ne_eq, not_true_eq_false, if_false]

theorem exec_owner (h : TakesOp s r 0x0B false v) (hl : r.body.length = 12) (hz : fld r.body 6 2 = 0) {w : Word} (hw : w = leWord (sub r.body 8 4))
    (hb : bit w 4 = true) (ho : badOwner w = false) (hr : v.writePage .warden (fld r.body 4 2) 0x10 32 w = (u, .ok)) :
    exec (.owner r) s = .next (u.vAnswer r 0 []) := by
  subst hw
  change execOwner r s = _
  rw [execOwner, vendor_of_takes h rfl]
  simp only [hl, hz, hb, ho, hr, Bool.true_eq_false, Bool.false_eq_true, ne_eq, not_true_eq_false, or_self, if_false]

/-! ## SQUALL (R462) -/

section Squall

variable (h : TakesOp s r 0x0C false v) (hl : r.body.length = 8) (hz : fld r.body 5 3 = 0)

include hl hz

theorem squallOperands_of_rule : squallOperands r = true := by
  rw [squallOperands, decide_eq_true hl, decide_eq_true hz]
  rfl

include h

theorem exec_squallStatus (ha : fld r.body 4 1 = 0) : exec (.squallStatus r) s = .next (v.vAnswer r 0 v.squallData) := by
  change execSquallStatus r s = _
  rw [execSquallStatus, vendor_of_takes h (by rw [ha]; rfl)]
  simp only [squallOperands_of_rule hl hz, ha, Bool.true_eq_false, ne_eq, not_true_eq_false, or_self, if_false]

theorem exec_squallUnlock (ha : fld r.body 4 1 = 1) (hf : v.unlockRefused .sideband = false) (hu : u = v.unlockSquall false) :
    exec (.squallUnlock r) s = .next (u.vAnswer r 0 u.squallData) := by
  subst hu
  change execSquallUnlock r s = _
  rw [execSquallUnlock, vendor_of_takes h (by rw [ha]; rfl)]
  simp only [squallOperands_of_rule hl hz, hf, Bool.true_eq_false, Bool.false_eq_true, if_false]

theorem exec_squallLock (ha : fld r.body 4 1 = 2) (hu : u = v.lockSquall) :
    exec (.squallLock r) s = .next (u.vAnswer r 0 u.squallData) := by
  subst hu
  change execSquallLock r s = _
  rw [execSquallLock, vendor_of_takes h (by rw [ha]; rfl)]
  simp only [squallOperands_of_rule hl hz, Bool.true_eq_false, if_false]

end Squall

theorem exec_unknownVendorOp (h : Takes s r v) (ht : r.type = 0x7E) (ho : r.op = 0 ∨ 0x0C < r.op ∨ fld r.body 2 2 ≠ 0) :
    exec (.unknownVendorOp r) s = .next (v.vAnswer r (if v.inRom then 3 else 2) []) := by
  have hm : (r.type == 0x7E && (r.op == 0 || decide (0x0C < r.op) || fld r.body 2 2 != 0)) = true := by
    simp only [ht, Bool.and_eq_true, Bool.or_eq_true, beq_self_eq_true, beq_iff_eq, bne_iff_ne, decide_eq_true_eq, or_assoc, ho, and_self]
  change execUnknownVendorOp r s = _
  rw [execUnknownVendorOp, sbTake_of_takes h hm]
  cases v.inRom with
  | true => rfl
  | false => rfl

/-! ## Held requests and the health copy (R410, R411) -/

section Timeout

variable {w : SbWait} (h : (s.sb.waits.find? fun w => decide (100000 ≤ (s.pages.dtime - w.since).toNat)) = some w)

include h

theorem exec_mainSideTimeout_vendor (ho : w.op ≠ 0) : exec .mainSideTimeout s = .next (s.sbAnswer w.eid w.tag w.op 7 []) := by
  change execMainSideTimeout s = _
  simp only [execMainSideTimeout, h, ho, if_false]

theorem exec_mainSideTimeout_mi (ho : w.op = 0) : exec .mainSideTimeout s = .next
    (({ s with sb := { s.sb with waits := s.sb.waits.erase w } } : State).deliver 0x0F8 (.out (.sideband w.eid [0x88, 0, 0, 2, 0, 0, 0]))) := by
  change execMainSideTimeout s = _
  simp only [execMainSideTimeout, h, ho, if_true]

end Timeout

section Refresh

variable (h : s.mainAwake = true)

include h

theorem exec_healthRefresh_answered :
    exec (.healthRefresh true) s = .next ({ s with sb := { s.sb with missed := 0 } } : State).copyHealth := by
  change execHealthRefresh true s = _
  simp only [execHealthRefresh, h, Bool.not_true, Bool.false_eq_true, if_false, if_true]

theorem exec_healthRefresh_missed : exec (.healthRefresh false) s = .next { s with
    sb := { s.sb with missed := s.sb.missed + 1, state6 := s.sb.state6 || decide (2 ≤ s.sb.missed + 1) } } := by
  change execHealthRefresh false s = _
  simp only [execHealthRefresh, h, Bool.not_true, Bool.false_eq_true, if_false]

end Refresh

end Sys2Proof.Machine

open Sys2Proof Sys2Proof.Machine

/-- Settles O38: each OP serves the request that the port takes, once its operands keep their rule. -/
theorem vendorCommands : Obligations.VendorCommands := by
  refine ⟨fun s r v n l st u h hl hn hlo hhi hz hr => ⟨_, exec_pageRead h hl hn hlo hhi hz hr, rfl⟩,
    fun s r v n k st u h hn hl hlo hhi hz hw => ⟨_, exec_pageWrite h hn hl hlo hhi hz hw, rfl⟩,
    fun s r v age h ha => ⟨_, exec_health h ha, rfl⟩,
    fun s r v h hl ha hn => ⟨_, exec_powerGet h hl ha hn, rfl⟩,
    fun s r v u h hl ha hn hp hq => ⟨_, exec_powerRequest h hl ha hn hp hq, rfl⟩, ?_, ?_,
    fun s r v h hl ha => ⟨_, exec_fwSlotGet h hl ha, rfl⟩,
    fun s r v u h hl ha hlo hhi hb hu => ⟨_, exec_fwSlotSet h hl ha hlo hhi hb hu, rfl⟩,
    fun s r v w h hl hw => ⟨_, exec_fieldStatus h hl hw, rfl⟩,
    fun s r v b k x y h hb hlo hhi hr hm hs => ⟨_, exec_fieldConfig h hb hlo hhi hr hm hs, rfl⟩,
    fun s r v u h hl hn hs hc hroom hu => ⟨_, exec_evidProvision h hl hn hs hc hroom hu, rfl⟩,
    fun s r v h hl hr => ⟨_, exec_rootBlob h hl hr, rfl⟩,
    fun s r v w u h hl hz hw hb ho hr => ⟨_, exec_owner h hl hz hw hb ho hr, rfl⟩,
    fun s r v h hl hz ha => ⟨_, exec_squallStatus h hl hz ha, rfl⟩,
    fun s r v u h hl hz ha hf hu => ⟨_, exec_squallUnlock h hl hz ha hf hu, rfl⟩,
    fun s r v u h hl hz ha hu => ⟨_, exec_squallLock h hl hz ha hu, rfl⟩,
    fun s r v h ht ho => ⟨_, exec_unknownVendorOp h ht ho, rfl⟩,
    fun s w h ho => ⟨_, exec_mainSideTimeout_vendor h ho, rfl⟩, fun s w h ho => ⟨_, exec_mainSideTimeout_mi h ho, rfl⟩,
    fun s h => ⟨_, exec_healthRefresh_answered h, rfl⟩, fun s h => ⟨_, exec_healthRefresh_missed h, rfl⟩⟩
  · rintro s r v lid h hl rfl hz hoff hlo hhi hlid
    exact ⟨_, exec_logRead_warden h ⟨hl, hz, hoff, hlo, hhi⟩ hlid, rfl⟩
  · rintro s r v lid p h hl rfl hz hoff hlo hhi hlid hs hp
    exact ⟨_, exec_logRead_main h ⟨hl, hz, hoff, hlo, hhi⟩ hlid hs hp, rfl⟩

end

section
/-!
Starts, restarts and losses of power: what brings the device up, takes its main side down and brings it back.
-/

namespace Sys2Proof.Machine

variable {s : State}

/-! ## The always-on domain (R433, R438) -/

theorem exec_alwaysOnPowerOn {i3c : Bool} {u v : State} {a : Nat} (h : s.start.phase = .off)
    (hu : u = { s with pages := { regs := [], latches := [], dtime := 0, aonPhase := 0 }, power := { s.power with aon := true }
                       sb := { Sideband.reset with i3c := i3c }, start := { s.start with phase := .warden }
                       events := { s.events with excluded := true } })
    (hv : v = (((u.restorePair 2 u.start.nor.acctMs).restorePair 4 u.start.nor.unavMs).setReg (0x5F08 + 24) u.start.nor.unavInt).settleRec)
    (ha : a = v.slotRec.next) :
    exec (.alwaysOnPowerOn i3c) s = .next
      (if (v.image a).good then v.wardenUp a else if (v.fallBack.image (3 - a)).good then v.fallBack.wardenUp (3 - a) else v.fallBack.toRom) := by
  subst hu hv ha
  change execAlwaysOnPowerOn i3c s = _
  rw [execAlwaysOnPowerOn, if_neg (not_not_intro h)]
  dsimp only
  split_ifs
  · rfl
  · rfl
  · rfl

theorem exec_v3p3AonLoss (h : s.start.phase ≠ .off) : exec .v3p3AonLoss s = .next { s.loseMain.aonDown with
    start := { s.loseMain.aonDown.start with phase := .off, pendRst := none, pendCtl := false } } :=
  if_neg h

/-! ## The main start (R218, R421, R439) -/

/-- The conditions of a main start: the warden runs with the main side off and no deep state in force, or a flush has ended; neither a hold nor
an alarm stands against it. -/
structure MayStart (s : State) : Prop where
  aon : s.power.aon = true
  noHold : s.regBit PWR_STAT 17 = false
  keys : s.keysServe = true
  off : s.power.flush = 2 ∨ s.start.phase = .warden ∧ s.power.calm = false

theorem exec_mainStart (h : MayStart s) (f : StartFacts) {u v w x : State}
    (hu : u = if s.power.flush = 2 then s.mainDown false else s.lockSquall)
    (hv : v = { u with power := { u.power with v12 := true, vccq := true, pwrFail := true, flush := 0, flushed := true }
                       events := { u.events with excluded := true } })
    (hw : w = ((v.setReg RST_CAUSE (if v.power.wake = some 5 then setBit (v.reg RST_CAUSE ||| 2) 7 true
      else v.reg RST_CAUSE ||| 2)).count 0x003 2 1).breakMs)
    (hx : x = { w with power := { w.power with wake := none } }) :
    exec (.mainStart f) s = .next ((if x.field? PWR_STAT 2 0 = 3 then x.setPower 5 else x).startWith f false) := by
  obtain ⟨haon, hhold, hkeys, hoff⟩ := h
  have hmay : (decide (s.power.flush = 2) || (s.start.phase == .warden && !s.power.calm)) = true := by
    rcases hoff with hf | ⟨hp, hc⟩
    · rw [decide_eq_true hf, Bool.true_or]
    · rw [hp, hc]; exact Bool.or_true _
  subst hu hv hw hx
  change execMainStart f s = _
  simp only [execMainStart, haon, hhold, hkeys, hmay, Bool.not_true, Bool.or_self, Bool.false_eq_true, if_false, decide_eq_true_eq]

/-- The conditions of a main-side restart: the main side is starting or up and on, nothing is flushed or entered, and no alarm is active. -/
structure MayRestart (s : State) : Prop where
  up : s.start.phase = .starting ∨ s.start.phase = .evReady ∨ s.start.phase = .full
  on : s.pageOn 0x010 = true
  flush : s.power.flush = 0
  entering : s.power.entering = none
  keys : s.keysServe = true

theorem exec_mainSideRestart (h : MayRestart s) (f : StartFacts) {b : Option Nat} {u v x : State} {ccs : List Word} (hb : s.restartOwed = some b)
    (hu : u = (((b.map fun k => s.setReg RST_CAUSE (setBit (s.reg RST_CAUSE) k true)).getD s).count 0x003 2 1).count 0x003 5 1)
    (hv : v = if b = some 4 then { u with events := { u.events with excluded := true } } else if u.events.excluded then u else u.openSpan 1 none)
    (hc : ccs = v.host.ctrls.map fun c => c.cc)
    (hx : x = v.mainDown (!decide (s.start.phase = .starting) || v.regBit DRC_FILLSTAT 8)) :
    exec (.mainSideRestart f) s = .next (({ x with
      host := { x.host with ctrls := x.host.ctrls.mapIdx fun k c => { c with cc := ccs.getD k 0, csts := 2 } }
      power := { x.power with vccq := true, candT := x.power.candT.filter fun y => y.1 != 31 } } : State).breakMs.startWith f
        (!decide (s.start.phase = .starting) || v.regBit DRC_FILLSTAT 8)) := by
  obtain ⟨hup, hon, hflush, hent, hkeys⟩ := h
  have hphase : (decide (s.start.phase = .starting) || s.start.phase == .evReady || s.start.phase == .full) = true := by
    rcases hup with e | e | e <;> rw [e] <;> rfl
  subst hu hv hc hx
  change execMainSideRestart f s = _
  cases b with
  | none =>
    simp only [execMainSideRestart, hphase, hon, hflush, hent, hkeys, hb, bne_self_eq_false, Option.isSome_none, Bool.not_true, Bool.or_self,
      Bool.false_eq_true, if_false, Option.map_none, Option.getD_none]
  | some k =>
    simp only [execMainSideRestart, hphase, hon, hflush, hent, hkeys, hb, bne_self_eq_false, Option.isSome_none, Bool.not_true, Bool.or_self,
      Bool.false_eq_true, if_false, Option.map_some, Option.getD_some]

end Sys2Proof.Machine

open Sys2Proof Sys2Proof.Machine

/-- Settles O40: each start meets its conditions and goes through its steps; a loss takes down what it feeds. -/
theorem startCommands : Obligations.StartCommands := by
  refine ⟨fun s i3c u v a h hu hv ha => ⟨_, exec_alwaysOnPowerOn h hu hv ha, rfl⟩,
    fun s f u v w x haon hhold hkeys hoff hu hv hw hx => ⟨_, exec_mainStart ⟨haon, hhold, hkeys, hoff⟩ f hu hv hw hx, rfl⟩,
    fun s f b u v ccs x hup hon hflush hent hkeys hb hu hv hc hx =>
      ⟨_, exec_mainSideRestart ⟨hup, hon, hflush, hent, hkeys⟩ f hb hu hv hc hx, rfl⟩,
    fun s => ⟨_, rfl, rfl⟩, fun s h => ⟨_, exec_v3p3AonLoss h, rfl⟩⟩

end

section
/-!
Alarms, the availability accounting and Squall: each command under the condition of its rule.
-/

namespace Sys2Proof.Machine

variable {s : State}

/-! ## Alarms and the accounting (R454 to R459) -/

theorem exec_alarmEnd {n : Nat} (h : s.events.alarms.contains n = true) : exec (.alarmEnd n) s = .next (s.endAlarm n) := if_pos h

theorem exec_availabilityTick (ha : s.accountable = true) (hb : s.events.broken = false) {u : State}
    (hu : u = ({ s with events := { s.events with broken := false, unav := false } } : State).count64 0x005 2 1) :
    exec .availabilityTick s = .next (if (s.events.unav || !s.events.spans.isEmpty) = true then u.count64 0x005 4 1 else u) := by
  subst hu
  change execAvailabilityTick s = _
  simp only [execAvailabilityTick, ha, hb, Bool.not_true, Bool.not_false, Bool.and_self, Bool.false_eq_true, if_false]

theorem exec_accountingLogWrite (ho : s.start.phase ≠ .off) (hr : s.start.phase ≠ .rom)
    (ht : 3600000000 ≤ (s.pages.dtime - s.events.logT).toNat) : exec .accountingLogWrite s = .next s.writeAcct :=
  if_neg (by simp only [ho, hr, ht.not_gt, or_self, not_false_eq_true])

/-! ## Squall (R461, R462, R465, R467) -/

/-- UNLOCK alone in the field of the two commands. -/
theorem bit_setBits_unlock (v : Word) {i : Nat} (h : i < 2) : bit (setBits v 1 0 1) i = decide (i = 0) := by
  interval_cases i
  · simp [bit, setBits]
  · simp [bit, setBits, getLsbD_fieldMask]

theorem sqlEffect_unlock (m : Master) (v : Word) : sqlEffect m (setBits v 1 0 1) s = s.unlockSquall (m == .pf) := by
  simp only [sqlEffect, bit_setBits_unlock v (show 1 < 2 by decide), bit_setBits_unlock v (show 0 < 2 by decide), decide_true,
    show decide (1 = 0) = false from rfl, Bool.false_eq_true, if_false, if_true]

theorem sqlEffect_lock (m : Master) (v : Word) : sqlEffect m (setBit v 1 true) s = s.lockSquall :=
  if_pos (bit_setBit_self (by decide))

theorem exec_unlock {m : Master} {v : Word} {d : RegDef} (h : Accepts s m 0x006 0x80 (setBits v 1 0 1) (sqlCond m (setBits v 1 0 1)) d) :
    exec (.unlock m v) s = .next ((s.arrive m).unlockSquall (m == .pf)) :=
  (next_write_of_accepts h).trans (congrArg _ (sqlEffect_unlock m v))

theorem exec_sqlLock {m : Master} {v : Word} {d : RegDef} (h : Accepts s m 0x006 0x80 (setBit v 1 true) (sqlCond m (setBit v 1 true)) d) :
    exec (.sqlLock m v) s = .next (s.arrive m).lockSquall :=
  (next_write_of_accepts h).trans (congrArg _ (sqlEffect_lock m v))

theorem exec_sqForce {m : Master} {page : Nat} {v : Word} {d : RegDef} (hp : squallPages.contains page = true)
    (h : Accepts s m page 0xE20 v noCond d) : exec (.sqForce m page v) s = .next (forceEffect m page v (s.arrive m)) := by
  change execSqForce m page v s = _
  rw [execSqForce, if_pos hp]
  exact next_write_of_accepts h

theorem exec_delayedResultRelease {x : Nat × Nat × Delayed} (h : (s.squall.delayed.find? fun x => decide (x.2.1 ≤ s.ns)) = some x) :
    exec .delayedResultRelease s = .next
      (({ s with squall := { s.squall with delayed := s.squall.delayed.erase x } } : State).release x.2.2) := by
  change execDelayedResultRelease s = _
  simp only [execDelayedResultRelease, h]

end Sys2Proof.Machine

open Sys2Proof Sys2Proof.Machine

/-- Settles O41: each command meets the condition of its rule and acts. -/
theorem alarmAndSquallCommands : Obligations.AlarmAndSquallCommands := by
  refine ⟨fun s n hn h => ⟨_, exec_alarm hn h, rfl⟩, fun s n h => ⟨_, exec_alarmEnd h, rfl⟩,
    fun s m v d h => ⟨_, next_write_of_accepts h, rfl⟩, fun s u ha hb hu => ⟨_, exec_availabilityTick ha hb hu, rfl⟩,
    fun s ho hr ht => ⟨_, exec_accountingLogWrite ho hr ht, rfl⟩, fun s m v d h => ⟨_, exec_unlock h, rfl⟩,
    fun s m v d h => ⟨_, exec_sqlLock h, rfl⟩, fun s m page v d hp h => ⟨_, exec_sqForce hp h, rfl⟩,
    fun s x h => ⟨_, exec_delayedResultRelease h, rfl⟩⟩

end

section
/-!
Power states, clocks, junction sensors and supplies: each entry, exit, sample and step under the conditions of its rule.
-/

namespace Sys2Proof.Machine

variable {s : State}

/-! ## Breeze (R415, R416) -/

/-- The conditions of an entry to Breeze have held for 20 ms. -/
structure MayBreeze (s : State) (d : BitVec 64) : Prop where
  enabled : s.regBit PWR_CTRL 2 = true
  full : s.start.phase = .full
  gale : s.field? PWR_STAT 2 0 = 0
  idle : s.idle = true
  since : s.power.breezeT = some d
  held : 20000 ≤ (s.pages.dtime - d).toNat

theorem exec_breezeEntry {d : BitVec 64} (h : MayBreeze s d) {u : State}
    (hu : u = { s with
        pages := { s.pages with
          regs := s.pages.regs.filter fun p => !s.asleep (p.1 / 4096) || (decide (0xA1 ≤ p.1 / 4096) && p.1 % 4096 == 0x80)
          latches := s.pages.latches.filter fun l => !s.asleep l.page }
        upsets := s.upsets.filter fun p => !s.asleep (p.1 / 2 ^ 32)
        cells := s.cells.mapIdx fun k c => if 16 ≤ k ∧ k ≤ 39 then Cell.reset else c }) :
    exec .breezeEntry s = .next (u.setPower 1) := by
  obtain ⟨hen, hfull, hgale, hidle, hsince, hheld⟩ := h
  subst hu
  change execBreezeEntry s = _
  simp only [execBreezeEntry, hen, hfull, hgale, hidle, hsince, hheld, Option.any_some, decide_true, bne_self_eq_false, Bool.not_true, Bool.or_self,
    Bool.false_eq_true, if_false]

theorem exec_breezeExit (h1 : s.field? PWR_STAT 2 0 = 1) (hc : s.idle = true → s.regBit PWR_CTRL 2 = false) {back : List Nat}
    (hb : back = (((List.range 24).map (0x50 + ·) ++ (List.range 16).map (0xA1 + ·)).filter fun p => s.asleep p)) :
    exec .breezeExit s = .next ((List.finRange 41).foldl (fun (s : State) c =>
      if 16 ≤ c.val ∧ c.val ≤ 39 ∧ (s.role c).role ≠ 0 ∧ (s.prog.execs.any fun e => e.cell == c.val && e.step != 0) = false then s.unhold c
      else s) (back.foldl State.routePage (s.setPower 0))) := by
  subst hb
  refine if_neg ?_
  rintro (h | ⟨hi, he⟩)
  · exact h h1
  · rw [hc hi] at he
    exact Bool.false_ne_true he

/-! ## Requests for a deep state (R417, R431) -/

theorem exec_automaticDeepTimer {n : Nat} (hn : n = s.field? PWR_CTRL 1 0) (h2 : 2 ≤ n) (hst : s.field? PWR_STAT 2 0 < 2) (hon : s.mainOn = true)
    (ht : s.field? PWR_CTRL 15 8 * 1000000 ≤ (s.pages.dtime - s.power.deepT.getD s.start.began).toNat) (ha : s.deepAllowed n = true) :
    exec .automaticDeepTimer s = .next (({ s with power := { s.power with deepT := some s.pages.dtime } } : State).askDeep n) := by
  subst hn
  refine (if_neg ?_).trans (congrArg _ (if_pos ha))
  simp only [h2.not_gt, hst.not_ge, hon, ht.not_gt, Bool.true_eq_false, or_self, not_false_eq_true]

theorem pwrReqEffect_go {v : Word} {u : State} (h : s.requestState (bits (setBit v 2 true) 1 0) 4 = some u) :
    pwrReqEffect (setBit v 2 true) s = u := by
  rw [pwrReqEffect, if_pos (bit_setBit_self (by decide)), h, Option.getD_some]

theorem exec_go {m : Master} {v : Word} {d : RegDef} {u : State} (h : Accepts s m 0x001 0x84 (setBit v 2 true) (pwrReqCond m (setBit v 2 true)) d)
    (hu : (s.arrive m).requestState (bits (setBit v 2 true) 1 0) 4 = some u) : exec (.go m v) s = .next u :=
  (next_write_of_accepts h).trans (congrArg _ (pwrReqEffect_go hu))

/-! ## Lull and Calm (R418 to R422) -/

theorem exec_lullEntry {u v w x : State} (h : s.askWaiting.entryRuns 2 = true)
    (hu : u = ((s.askWaiting.goDeep false).logRaw lullOff).copyHealth.finishDram.frontDown)
    (hv : v = { u with
        pages := { u.pages with
          regs := u.pages.regs.filter fun p =>
            !lullOff (p.1 / 4096) || (decide (0xA1 ≤ p.1 / 4096 ∧ p.1 / 4096 ≤ 0xB0) && p.1 % 4096 == 0x80) || p.1 == SRC_SHBASE
          latches := u.pages.latches.filter fun l => !lullOff l.page }
        upsets := u.upsets.filter fun p => !lullOff (p.1 / 2 ^ 32)
        cells := u.cells.mapIdx fun k c => if 16 ≤ k ∧ k ≤ 39 then Cell.reset else c
        fabric := { u.fabric with codec := List.replicate 4 [] }
        search := { u.search with banks := List.replicate 16 .empty, posted := [], work := 0 }
        crypto := { u.crypto with lanes := Crypto.reset.lanes, bound := Crypto.reset.bound, ctxs := Crypto.reset.ctxs, digs := Crypto.reset.digs }
        dram := { Dram.reset with mem := u.dram.mem, pois := u.dram.pois, chans := u.dram.chans.map fun (c : DramCh) => { c with queue := [], open_ := [] } }
        media := { u.media with chans := Media.reset.chans }
        frl := { Frl.reset with durable := u.frl.durable, legal := u.frl.legal }
        power := { u.power with entering := none } })
    (hw : w = v.setReg DRC_STAT (setBit (v.reg DRC_STAT) 0 true)) (hx : x = w.setReg CLK_STAT (w.reg CLK_STAT &&& 0xF0)) :
    exec .lullEntry s = .next
      ((((x.setReg CLK_RUN0 (w.reg CLK_RUN0 &&& 7)).setReg CLK_RUN1 (w.reg CLK_RUN1 &&& 0x80)).setPower 2).count 0x001 2 1) := by
  change execLullEntry s = _
  unfold execLullEntry
  extract_lets a u' keep _ _ _ _ _ _ _ _ v' w' x'
  rw [if_neg (by rw [h]; exact Bool.false_ne_true)]
  have hu' : u' = u := hu.symm
  have hv' : v' = v := by rw [hv, ← hu']
  have hw' : w' = w := by rw [hw, ← hv']
  have hx' : x' = (x.setReg CLK_RUN0 (w.reg CLK_RUN0 &&& 7)).setReg CLK_RUN1 (w.reg CLK_RUN1 &&& 0x80) := by
    rw [hx, ← hw']
  rw [hx']

theorem exec_calmEntry (h : s.askWaiting.entryRuns 3 = true) : exec .calmEntry s = .next
    ((((s.askWaiting.goDeep true).logRaw mainPage).copyHealth.writeAcct).offAsCalm.count 0x001 3 1) :=
  if_neg (by rw [h]; exact Bool.false_ne_true)

theorem exec_lullExit {u r v w x y : State} (h5 : s.field? PWR_STAT 2 0 = 5) (hw0 : s.power.wake ≠ none) (hc : s.power.calm = false)
    (hu : u = { s with power := { s.power with wake := none, deepT := some s.pages.dtime } })
    (hr : r = ((pfPages.filter lullOff).foldl State.routePage u.clocksOn).leaveSelfRefresh.cacheUp.channelsUp)
    (hv : v = r.red.failed.foldl (fun (s : State) d => s.setField (MCH_DIE (d / 8) (d % 8)) 9 9 1) r)
    (hw : w = { v with red := { v.red with rbAfter := v.adm.latest
                                           rbState := if v.red.rbState = 3 ∧ v.regBit RED_CTRL 0 = false then
                                             (if v.red.todo.isEmpty && v.red.die1.isNone then 0 else 1) else v.red.rbState } })
    (hx : x = srcCmdEffect 2 ((List.finRange 41).foldl (fun (s : State) c =>
        if 16 ≤ c.val ∧ c.val ≤ 39 ∧ (s.role c).role ≠ 0 then s.unhold c else s) (w.syncRed.pumpRebuild).fillStripes))
    (hy : y = (x.setReg FRL_DURSEQ (x.frl.durable.getD 0)).frontLink.setPower 0) :
    exec .lullExit s = .next (if y.start.pendCtl then y.ctrlSide else y) := by
  subst hy hx hw hv hr hu
  change execLullExit s = _
  simp only [execLullExit, h5, hw0, hc, ne_eq, not_true_eq_false, Bool.false_eq_true, or_self, if_false]

theorem exec_calmExit (hc : s.power.calm = true) (hw : s.power.wake ≠ none) (hh : s.regBit PWR_STAT 17 = false) :
    exec .calmExit s = .next { s with power := { s.power with calm := false } } :=
  if_neg (by simp only [hc, hw, hh, Bool.true_eq_false, Bool.false_eq_true, or_self, not_false_eq_true])

/-! ## The junction sensors (R427 to R430) -/

theorem exec_throttleEffect {n at_ : Nat} (h : s.power.rising = some (n, at_)) (ht : at_ < s.ns) : exec .throttleEffect s = .next
    (({ s with power := { s.power with rising := none } } : State).setSteps (s.field? PWR_STAT 11 10) n) := by
  change execThrottleEffect s = _
  simp only [execThrottleEffect, h, ht.not_ge, if_false]

theorem exec_thermalSample {temps ts : List Int} {watts cse : Rat} {hot : Int} {out crit : Bool} {u v w x y a b c : State}
    (h : s.power.aon = true) (hts : ts = (List.range 9).map fun k => temps.getD k 25) (hhot : hot = (ts.take 8).foldl max (ts.getD 0 25))
    (hu : u = { s with power := { s.power with temps := ts, watts := watts } })
    (hcse : cse = u.caseTemp hot) (hout : out = (decide (cse < -40) || decide (105 < cse)))
    (hv : v = u.setReg TMP_STAT (setBits (setBits (setBits 0 19 16 (((List.range 8).find? fun k => ts.getD k 25 == hot).getD 0)) 15 8
        (cse.floor + 64).toNat) 7 0 (hot + 64).toNat))
    (hw : w = if out && !v.power.caseOutT.isSome then (if out = v.power.caseOutT.isSome then v else v.raise 0x004 3).count 0x004 3 1
        else if out = v.power.caseOutT.isSome then v else v.raise 0x004 3)
    (hx : x = { w with power := { w.power with
        caseOutT := if out then some (w.power.caseOutT.getD s.pages.dtime) else none
        candT := track w.power.candT s.pages.dtime
          ([(1, decide (110 ≤ hot)), (2, decide (115 ≤ hot)), (3, decide (120 ≤ hot)), (11, decide (hot < 105)), (12, decide (hot < 110)),
            (13, decide (hot < 115)), (20, decide (125 ≤ hot)), (21, decide (135 ≤ hot))]) } })
    (hy : y = if x.pageOn 0x020 then x.changeStep (x.nextStep 3 (x.field? PWR_STAT 11 10)) else x) (hcrit : crit = y.heldFor 20 100000)
    (ha : a = if crit && !y.regBit PWR_STAT 16 then y.raise 0x001 6 else y)
    (hb : b = if crit then ({ a with power := { a.power with rising := none } } : State).setSteps 3 3 else a)
    (hc : c = b.setReg PWR_STAT (setBit (b.reg PWR_STAT) 16 crit)) :
    exec (.thermalSample temps watts) s = .next ({ c with power := { c.power with
        candT := track c.power.candT s.pages.dtime [(30, decide (0 < c.field? PWR_STAT 11 10))] } } : State).countThrottle.syncTemp := by
  subst hts hhot hu hcse hout hv hw hx hy hcrit ha hb hc
  exact if_neg (by rw [h]; exact Bool.false_ne_true)

theorem exec_thermalHold {on : Bool} {u v w : State} (hh : s.heldFor 21 10000 = true) (hb : s.regBit PWR_STAT 17 = false)
    (ho : s.start.phase ≠ .off) (hr : s.start.phase ≠ .rom) (hon : on = (s.mainOn && s.start.phase != .starting))
    (hk : on = true → s.keysServe = true ∧ s.power.vccq = true)
    (hu : u = if on then ((if s.power.flush = 0 then s.beginFlush else s).flushOut true false).parkBuses else s)
    (hv : v = { u with power := { u.power with flush := 0, flushed := true } })
    (hw : w = if v.start.phase = .warden then v else v.offAsCalm) :
    exec .thermalHold s = .next (((w.setReg PWR_STAT (setBit (w.reg PWR_STAT) 17 true)).raise 0x001 6).breakMs.alert 0x001) := by
  have hserve : (on && (!s.keysServe || !s.power.vccq)) = false := by
    cases on with
    | false => rfl
    | true => rw [(hk rfl).1, (hk rfl).2]; rfl
  subst hw hv hu hon
  change execThermalHold s = _
  simp only [execThermalHold, hh, hb, beq_false_of_ne ho, beq_false_of_ne hr, hserve, Bool.not_true, Bool.or_self, Bool.false_eq_true, if_false]

theorem exec_thermalHoldEnd (hb : s.regBit PWR_STAT 17 = true) (ht : (s.power.temps.any fun d => decide (100 ≤ d)) = false) :
    exec .thermalHoldEnd s = .next ((s.setReg PWR_STAT (setBit (s.reg PWR_STAT) 17 false)).wakeBy 5) :=
  if_neg (by rw [hb, ht]; exact Bool.false_ne_true)

/-! ## Clocks (R424, R425) -/

theorem exec_wardenOscillatorStop (hw : s.regBit CLK_STAT 7 = true) (ht : 1000 ≤ (s.pages.dtime - s.sb.lastIO).toNat)
    (hi : s.irqLevel 40 = false) (ha : s.alertLevel = false) : exec .wardenOscillatorStop s = .next
      ((s.setReg CLK_STAT (setBit (s.reg CLK_STAT) 7 false)).setReg CLK_RUN0 (s.reg CLK_RUN0 &&& 0xFFFFFFF9)) :=
  if_neg (by simp only [hw, ht.not_gt, hi, ha, decide_false, Bool.not_true, Bool.or_self, Bool.false_eq_true, not_false_eq_true])

theorem exec_pllUnlock {pll : Nat} {u : State} (hp : pll ≤ 4) (hb : s.regBit CLK_STAT pll = true)
    (hu : u = ((((s.setReg CLK_STAT (setBit (s.reg CLK_STAT) pll false)).stopDomains
      ((List.range (pllDomains pll).2).map ((pllDomains pll).1 + ·))).raise 0x002 3).count 0x002 2 1)) :
    exec (.pllUnlock pll) s = .next (if pll < 4 then u.beginAlarm 1 else u) := by
  subst hu
  exact if_neg (by simp only [hp.not_gt, hb, Bool.true_eq_false, or_self, not_false_eq_true])

theorem exec_crystalStop_main (hb : s.regBit CLK_STAT 5 = true) : exec (.crystalStop true) s = .next
    ((((s.setReg CLK_STAT (setBit (s.reg CLK_STAT) 5 false)).raise 0x002 4).count 0x002 3 1).beginAlarm 1) := by
  change execCrystalStop true s = _
  simp only [execCrystalStop, if_true, hb, Bool.not_true, Bool.false_eq_true, if_false]

theorem exec_crystalStop_clock (hb : s.regBit CLK_STAT 6 = true) : exec (.crystalStop false) s = .next
    ((((s.setReg CLK_STAT (setBit (s.reg CLK_STAT) 6 false)).stopDomains [0]).raise 0x002 4).count 0x002 3 1) := by
  change execCrystalStop false s = _
  simp only [execCrystalStop, hb, Bool.not_true, Bool.false_eq_true, if_false]

/-! ## Supplies (R474, R480) -/

theorem exec_supplySample {main aon vccq old new : Nat} {u v w : State} (h : s.power.aon = true) (ho : old = s.field? TMP_SUPPLY 26 24)
    (hn : new = (decide (main < 10800 ∨ 13200 < main)).toNat + 2 * (decide (aon < 3000 ∨ 3600 < aon)).toNat +
        4 * (decide (vccq < 1140 ∨ 1260 < vccq)).toNat)
    (hu : u = s.setReg TMP_SUPPLY (setBits (setBits (setBits (setBits 0 26 24 new) 23 16 (min 255 (vccq / 10))) 15 8 (min 255 (aon / 20))) 7 0
        (min 255 (main / 100))))
    (hv : v = (if new = old then u else u.raise 0x004 4).count 0x004 2 ((List.range 3).countP fun k => new.testBit k && !old.testBit k))
    (hw : w = { v with power := { v.power with
        v12 := !decide (main < 10800 ∨ 13200 < main)
        supplyT := if new = 0 then none else some (v.power.supplyT.getD v.pages.dtime)
        candT := track v.power.candT v.pages.dtime [(31, !decide (vccq < 1140 ∨ 1260 < vccq) && !v.power.vccq)] } }) :
    exec (.supplySample main aon vccq) s = .next (if new = 0 then w else w.breakMs).syncSupply := by
  subst hw hv hu hn ho
  exact if_neg (by rw [h]; exact Bool.false_ne_true)

theorem exec_vccqNLoss {u : State} (h : s.mainOn = true) (hu : u = (s.abandon fun _ => true).parkBuses) :
    exec .vccqNLoss s = .next { u with power := { u.power with vccq := false, candT := u.power.candT.filter fun x => x.1 != 31 } } := by
  subst hu
  exact if_neg (by rw [h]; exact Bool.false_ne_true)

end Sys2Proof.Machine

open Sys2Proof Sys2Proof.Machine

/-- Settles O39: each command meets the conditions of its rule and goes through its steps. -/
theorem powerCommands : Obligations.PowerCommands := by
  refine ⟨fun s d u hen hfull hgale hidle hsince hheld hu => ⟨_, exec_breezeEntry ⟨hen, hfull, hgale, hidle, hsince, hheld⟩ hu, rfl⟩,
    fun s back h1 hc hb => ⟨_, exec_breezeExit h1 hc hb, rfl⟩,
    fun s n hn h2 hst hon ht ha => ⟨_, exec_automaticDeepTimer hn h2 hst hon ht ha, rfl⟩,
    fun s m v d u h hu => ⟨_, exec_go h hu, rfl⟩,
    fun s u h hu => ⟨_, exec_lullEntry h hu rfl rfl rfl, _, _, _, rfl, rfl, rfl, rfl⟩,
    fun s h => ⟨_, exec_calmEntry h, rfl⟩,
    fun s u r v w x h5 hw0 hc hu hr hv hw hx => ⟨_, exec_lullExit h5 hw0 hc hu hr hv hw hx rfl, _, rfl, rfl⟩,
    fun s hc hw hh => ⟨_, exec_calmExit hc hw hh, rfl⟩,
    fun s temps watts ts hot cse out u v w x y crit h hts hhot hu hcse hout hv hw hx hy hcrit =>
      ⟨_, exec_thermalSample h hts hhot hu hcse hout hv hw hx hy hcrit rfl rfl rfl, _, _, _, rfl, rfl, rfl, rfl⟩,
    fun s n at_ h ht => ⟨_, exec_throttleEffect h ht, rfl⟩,
    fun s on u v w hh hb ho hr hon hk hu hv hw => ⟨_, exec_thermalHold hh hb ho hr hon hk hu hv hw, rfl⟩,
    fun s hb ht => ⟨_, exec_thermalHoldEnd hb ht, rfl⟩,
    fun s hw ht hi ha => ⟨_, exec_wardenOscillatorStop hw ht hi ha, _, rfl, rfl⟩,
    fun s pll u hp hb hu => ⟨_, exec_pllUnlock hp hb hu, rfl⟩,
    fun s hb => ⟨_, exec_crystalStop_main hb, rfl⟩, fun s hb => ⟨_, exec_crystalStop_clock hb, rfl⟩,
    fun s main aon vccq old new u v h ho hn hu hv => ⟨_, exec_supplySample h ho hn hu hv rfl, _, rfl, rfl⟩,
    fun s u h hu => ⟨_, exec_vccqNLoss h hu, rfl⟩⟩

end
